-- ==== Sys2Proof/Word.lean ====
section
/-! DEFINITION. The word types: a byte, and the 64-bit word a register or a ring field holds. -/

namespace Sys2Proof

/-- A byte of memory, or an octet on the wire (R6). -/
abbrev Byte := BitVec 8

/-- A 64-bit word: a register's value (R66); a 32-bit register keeps its upper half zero. -/
abbrev Word := BitVec 64

end Sys2Proof
end

