-- ==== Sys2Proof/Machine/RegMap.lean ====
section
/-! DEFINITION. The control map of R62 and every register the spec defines (R8): block, offset, strides,
element counts, width, slow domain, and for each field its bits, its access code (R7) and its reset value.
A field whose reset the spec leaves to the image, the fuses or the store stands at the value assumption log
entry 7 names. Reserved fields are the bits no field covers (R5). The file is written from the register
tables of the chapters; the rule of each register stands in the comment of its row. -/

namespace Sys2Proof.Machine

/-- The blocks of the control map (R62), and the local window of a CPC unit (R428). -/
inductive Block where
  | SYS | GLT | PWR | FLT | RDN | STK | PRT | OPT | MGT | CLS | TBL | SWC | TMS | OFL | CPH | KEY | HEP | QRG | BMV | SLC | TRP | CBD | MEM | LOCAL
  deriving DecidableEq, Repr

/-- The access codes of R7. -/
inductive Access where
  | RO | RW | RWV | W1C | W1S | WO | RC
  deriving DecidableEq, Repr

/-- One field of a register table (R8). -/
structure FieldInfo where
  lo : Nat
  width : Nat
  access : Access
  reset : Nat
  deriving DecidableEq, Repr

/-- The line before a register table (R8). An array has count elements at stride; a windowed array has
count windows at stride, with count2 elements at stride2 in each. -/
structure RegInfo where
  block : Block
  off : Nat
  stride : Nat := 0
  count : Nat := 1
  stride2 : Nat := 0
  count2 : Nat := 1
  wide : Bool
  slow : Bool := false
  fields : List FieldInfo
  deriving DecidableEq, Repr

/-- First and last address of each block (R62). -/
def Block.range : Block → Nat × Nat
  | .SYS => (0x00000000, 0x000FFFFF)
  | .GLT => (0x00100000, 0x0013FFFF)
  | .PWR => (0x00140000, 0x001FFFFF)
  | .FLT => (0x00200000, 0x002FFFFF)
  | .RDN => (0x00300000, 0x003FFFFF)
  | .STK => (0x00400000, 0x004FFFFF)
  | .PRT => (0x01000000, 0x013FFFFF)
  | .OPT => (0x01400000, 0x017FFFFF)
  | .MGT => (0x01800000, 0x01BFFFFF)
  | .CLS => (0x02000000, 0x023FFFFF)
  | .TBL => (0x02400000, 0x027FFFFF)
  | .SWC => (0x02800000, 0x02BFFFFF)
  | .TMS => (0x02C00000, 0x02FFFFFF)
  | .OFL => (0x03000000, 0x033FFFFF)
  | .CPH => (0x03400000, 0x037FFFFF)
  | .KEY => (0x03800000, 0x03FFFFFF)
  | .HEP => (0x04000000, 0x043FFFFF)
  | .QRG => (0x04400000, 0x047FFFFF)
  | .BMV => (0x04800000, 0x04BFFFFF)
  | .SLC => (0x04C00000, 0x04FFFFFF)
  | .TRP => (0x05000000, 0x053FFFFF)
  | .CBD => (0x05400000, 0x057FFFFF)
  | .MEM => (0x06000000, 0x063FFFFF)
  | .LOCAL => (0x80000000, 0xFFFFFFFF)

/-- The blocks in the order of R62. -/
def Block.all : List Block :=
  [.SYS, .GLT, .PWR, .FLT, .RDN, .STK, .PRT, .OPT, .MGT, .CLS, .TBL, .SWC, .TMS, .OFL, .CPH, .KEY, .HEP, .QRG, .BMV, .SLC, .TRP, .CBD, .MEM, .LOCAL]

/-- Every register of the spec, under the spec's name (R9). -/
inductive RegName where
  | SYS_DEVICE_STATE
  | SYS_IMAGE_STATUS
  | SYS_IMAGE_VERSION
  | SYS_MIN_IMAGE_VERSION
  | SYS_BOOT_NONCE
  | SYS_STAGING
  | SYS_AMEND_SEQUENCE
  | GLT_BRIDGE_STATUS
  | PWR_BRIDGE_STATUS
  | OPT_BRIDGE_STATUS
  | MGT_BRIDGE_STATUS
  | GLT_BRIDGE_DROP_ADDR
  | PWR_BRIDGE_DROP_ADDR
  | OPT_BRIDGE_DROP_ADDR
  | MGT_BRIDGE_DROP_ADDR
  | SYS_PART_ID
  | SYS_FAMILY
  | SYS_SERIAL
  | SYS_MAP_VERSION
  | SYS_BOOT_ROM_VERSION
  | SYS_CPC_FW_VERSION
  | SYS_TROUPE_FW_VERSION
  | SYS_PROTOCOLS
  | SYS_SCRATCH
  | SYS_BAD_ACCESS
  | SYS_BAD_ACCESS_COUNT
  | PRT_CONFIG
  | PRT_STATUS
  | PRT_CLASS_MAP
  | PRT_PAUSE_TIME
  | PRT_CSUM_CTRL
  | PRT_TS_LATENCY
  | PRT_PFC_WM
  | PRT_TX_TS_TIME
  | PRT_TX_TS_TAG
  | OPT_ENGINE_PLAN
  | OPT_ENGINE_STATUS
  | OPT_LASER_CTRL
  | OPT_LSM_STATUS
  | OPT_LSM_HOURS
  | OPT_LSM_RATED
  | OPT_LSM_REMAIN
  | OPT_LB_CELLS
  | MGT_SEG_CTRL
  | MGT_SEG_STATUS
  | MGT_SEG_MAC
  | CLS_SCENE_STATUS
  | CLS_SCENE_COMMIT
  | CLS_SCENE_ACT_TIME
  | CLS_SCENE_ACT_TIME_HIGH
  | CLS_RETIRE_LIMIT
  | CLS_SCENE_SLOT
  | CLS_FORCED_DROPS
  | CLS_PARSE_PORTS
  | CLS_PARSE_TPID
  | CLS_PARSE_CTRL
  | CLS_GENEVE_KNOWN
  | CLS_PORT_START
  | CLS_KEY_SEL
  | CLS_TABLE_KEY
  | TBL_ENTRY
  | TBL_ATTR
  | TBL_CMD
  | TBL_INDEX
  | TBL_STATUS
  | TBL_RESULT
  | TBL_TABLE_CFG
  | TBL_SEED_A
  | TBL_SEED_B
  | TBL_AGE_CTRL
  | TBL_EVICTED_HEAD
  | TBL_EVICTED_POP
  | TBL_EVICTED_KEY
  | TBL_TABLE_COUNT
  | TBL_LEARN_PORT
  | SWC_FLOW_SEED
  | SWC_POOL
  | SWC_LOSSLESS
  | SWC_SPILL_CFG
  | SWC_STATUS
  | SWC_REWRITE_CFG
  | SWC_SAF
  | SWC_Q_LIMIT
  | SWC_Q_ECN
  | SWC_Q_DEPTH
  | SWC_IN_RESERVE
  | SWC_IN_USE
  | SWC_SPOT
  | SWC_GROUP
  | SWC_MEMBER
  | SWC_PIN
  | SWC_MC_GROUP
  | SWC_MC_REPLICA
  | SWC_MIRROR
  | SWC_CTR_SELECT
  | SWC_CTR_FRAMES
  | SWC_CTR_OCTETS
  | TMS_PORT_CFG
  | TMS_PORT_VTIME
  | TMS_Q_WEIGHT
  | TMS_Q_SHAPER
  | TMS_PORT_SHAPER
  | SLC_DELIVER_SHAPER
  | SLC_SEND_SHAPER
  | TMS_Q_STATUS
  | TMS_TT_ADMIN_BASE
  | TMS_TT_ADMIN_BASE_HIGH
  | TMS_TT_ADMIN_CYCLE
  | TMS_TT_ADMIN_CTRL
  | TMS_TT_STATUS
  | TMS_TT_CHANGE_TIME
  | TMS_TT_ADMIN
  | TMS_POLICER_RATE
  | TMS_POLICER_SIZE
  | MGT_TIME_NOW
  | MGT_TIME_NOW_HIGH
  | MGT_TIME_FREQ
  | MGT_TIME_STEP
  | MGT_TIME_CFG
  | MGT_TIME_STATUS
  | MGT_PPS_CAPTURE
  | MGT_TOD_DATA
  | OFL_CTRL
  | OFL_OBJ_DATA
  | OFL_OBJ_CMD
  | OFL_OBJ_STATUS
  | OFL_EVENT_HEAD
  | OFL_EVENT_POP
  | CPH_ENGINE_STATE
  | CPH_STATUS
  | CPH_CTX_SELECT
  | CPH_CTX_STATUS
  | CPH_CTX_USED
  | CPH_CTX_BYTES
  | CPH_CTX_LIMIT
  | CPH_CTX_BYTE_LIMIT
  | CPH_CTX_CHECKPOINT
  | CPH_CTX_CTRL
  | CPH_CTX_CMD
  | HEP_PORT_CFG
  | HEP_TAG_STATUS
  | HEP_LINK_CTRL
  | HEP_LINK_STATUS
  | HEP_IDE_CTRL
  | HEP_IDE_STATUS
  | HEP_LINK_BARS
  | SLC_CMD
  | SLC_STATUS
  | SLC_PEER_SHARE
  | SLC_SLICE_BIND
  | SLC_SLICE_STATE
  | SLC_GRANT_Q
  | SLC_GRANT_R
  | SLC_WEIGHT
  | SLC_USAGE
  | SLC_QUEUE_CFG
  | QRG_Q_SQ_BASE
  | QRG_Q_CQ_BASE
  | QRG_Q_SHADOW
  | QRG_Q_CTRL
  | QRG_Q_IRQ
  | QRG_Q_STATUS
  | QRG_ERR_INDEX
  | QRG_Q_CQ_STATUS
  | QRG_RX_STEER
  | QRG_STALL_LIMITS
  | BMV_PORT_STAGE
  | BMV_PORT_CFG
  | BMV_STATUS
  | BMV_REQ_RAISE
  | BMV_CH_CFG
  | BMV_CH_NEXT
  | BMV_CH_CTRL
  | BMV_CH_STATUS
  | BMV_CH_CUR
  | BMV_CH_DONE
  | TRP_CLUSTER_CFG
  | TRP_DQ_CFG
  | TRP_DQ_STATUS
  | TRP_DQ_CONS
  | TRP_CORE_CFG
  | TRP_CORE_STATUS
  | TRP_THREAD_CTRL
  | TRP_THREAD_STATUS
  | TRP_THREAD_FAULT
  | TRP_THREAD_TVAL
  | TRP_THREAD_EVSET
  | TRP_DIE_SLOW
  | CBD_SLOT_WRITE
  | CBD_PENDING
  | CBD_DEV_NOTIFY
  | RDN_LOCAL_VRING
  | RDN_LOCAL_EVENTS
  | RDN_LOCAL_RX_CFG
  | RDN_LOCAL_TX_CFG
  | RDN_LOCAL_RX_PTR
  | RDN_LOCAL_TX_PTR
  | RDN_CFG
  | RDN_BILLING
  | RDN_CLAIM
  | RDN_KICK
  | RDN_REHEARSAL
  | RDN_STATUS
  | RDN_PROBE
  | RDN_PROBE_STATUS
  | RDN_REFUSED_LAST
  | STK_CFG
  | STK_STATUS
  | STK_SCENE
  | STK_TIME_OFFSET
  | STK_RX_CFG
  | STK_RX_PTR
  | STK_TX_CMD
  | STK_MEMBER
  | STK_LINK
  | GLT_CLOCK_STATUS
  | GLT_SENSE
  | PWR_CMD
  | PWR_DOMAIN_CTRL
  | PWR_DOMAIN_STATUS
  | FLT_STATUS
  | FLT_ALARM
  | FLT_ALARM_MASK
  | FLT_DEVICE_CTRL
  | FLT_RECORD
  | FLT_RECORD_POP
  | GLT_SUPPLY_STATUS
  | GLT_THERMAL
  | PRT_RX_FRAMES
  | PRT_TX_TAIL_MARKED
  | PRT_RX_OCTETS
  | PRT_PAUSE_RX
  | PRT_RX_FCS_ERROR
  | PRT_PAUSE_TX
  | PRT_RX_RUNT
  | PRT_FEC_CORRECTED
  | PRT_RX_OVERSIZE
  | PRT_FEC_UNCORRECTABLE
  | PRT_LB_DROP
  | PRT_TS_LOST
  | PRT_TX_FRAMES
  | PRT_RX_CSUM_BAD
  | PRT_TX_OCTETS
  | MGT_SEG_TX_FRAMES
  | MGT_SEG_EXCESS_COLLISIONS
  | MGT_SEG_RX_FRAMES
  | MGT_SEG_DUP_DROPPED
  | MGT_SEG_COLLISIONS
  | MGT_SEG_BAD_FRAMES
  | MGT_SEG_LATE_COLLISIONS
  | CLS_PIPE_FRAMES
  | CLS_PIPE_SLOW
  | CLS_PIPE_SLOW_DROP
  | CLS_PIPE_PARSE_ERR
  | CLS_PIPE_CHAIN_CUT
  | CLS_PIPE_NO_FORWARD
  | TBL_LEARNED
  | TBL_EVICTIONS
  | TBL_LEARN_LIMITED
  | TBL_EVICT_LOST
  | TBL_LEARN_FULL
  | TBL_FLOW_COLD
  | TBL_MOVES
  | TBL_FLOW_OVERRATE
  | TBL_AGED
  | TBL_RELEASED
  | SWC_TAIL_DROP
  | SWC_ECN_MARKED
  | SWC_TAIL_STOMPED
  | SWC_NO_MEMBER
  | SWC_TAIL_HOST
  | SWC_REPINNED
  | SWC_QUEUE_DROP
  | SWC_LINK_DOWN_DROP
  | SWC_SLICE_DROP
  | SWC_REWRITE_MISS
  | SWC_LOSSLESS_DROP
  | SWC_TTL_EXPIRED
  | SWC_POOL_EXHAUSTED
  | SWC_SPOT_LOST
  | SWC_BAD_TARGET
  | SWC_MIRROR_DROP
  | SWC_SLICE_MISMATCH
  | TMS_POLICE_DROP
  | TMS_TT_OVERSIZE
  | TMS_POLICE_RED_PASSED
  | TMS_TT_OVERRUN
  | OFL_BAD_TARGET
  | OFL_ESP_TRAILER
  | OFL_WRONG_DIE
  | OFL_ESP_DUMMY
  | OFL_PASS_LIMIT
  | OFL_NATT_KEEPALIVE
  | OFL_CTX_INACTIVE
  | OFL_SEQ_EXHAUSTED
  | OFL_UNSUPPORTED_UNIT
  | OFL_ROLLS
  | OFL_TOO_BIG
  | OFL_CONN_NOT_READY
  | OFL_DECAP_MISMATCH
  | OFL_STALE_RESULT
  | OFL_ECN_DROP
  | OFL_EVENT_LOST
  | OFL_ESP_REPLAY
  | OFL_CNP_RX
  | OFL_ESP_AUTH_FAIL
  | CPH_MESSAGES
  | CPH_BYTES
  | CPH_AUTH_FAIL
  | CPH_LENGTH
  | CPH_KEY_EXHAUSTED
  | CPH_SUCCESSIONS
  | CPH_ENGINE_FAULTS
  | CPH_CKPT_STALLS
  | CPH_CTX_LOADS
  | CPH_STALE_DISCARD
  | HEP_CPL_TIMEOUT
  | HEP_UNEXPECTED_CPL
  | HEP_POISONED_RX
  | HEP_UR_RX
  | HEP_UR_SENT
  | HEP_IDE_DROP
  | HEP_RRS_SENT
  | HEP_FLR
  | SLC_STALE_DISCARD
  | SLC_IDLE_DROP
  | SLC_IRQ_SUPPRESSED
  | QRG_DB_BAD
  | QRG_DB_DROP
  | QRG_INVAL_LATE
  | QRG_RX_NO_QUEUE
  | QRG_RX_NO_BUFFER
  | QRG_CQ_STALL
  | QRG_CPL_DISCARD
  | QRG_MALFORMED
  | BMV_DESC_DONE
  | BMV_BYTES
  | BMV_RETRIES
  | BMV_HOST_ABORT
  | BMV_MALFORMED
  | BMV_APPEND_EMPTY
  | BMV_DB_IGNORED
  | BMV_REQ_LOST
  | TRP_SLOW_DELIVERED
  | TRP_SPOT_DELIVERED
  | TRP_DQ_FULL
  | TRP_DQ_TOO_BIG
  | TRP_DQ_TAIL_DROP
  | TRP_THREAD_FAULTS
  | TRP_CORE_RESETS
  | TRP_STALLS
  | CBD_COLLISIONS
  | CBD_PEER_DROP
  | CBD_XFER_ABANDONED
  | RDN_GATE_REFUSED
  | RDN_UNDERSTUDY_DROP
  | RDN_SWITCHOVERS
  | RDN_REHEARSALS
  | RDN_REHEARSAL_FAILED
  | RDN_REHEARSAL_DEFERRED
  | RDN_PATH_DEGRADED
  | RDN_BILLING_EQUAL
  | RDN_RENORMALISED
  | RDN_CPC_RX_LOST
  | RDN_CPC_TX_BAD
  | STK_BAD_FRAMES
  | STK_VERSION_REFUSED
  | STK_MASTER_CHANGES
  | STK_TIME_STEPS
  | STK_WINGS_ENTRIES
  | STK_RX_LOST
  | PWR_WAKES
  | PWR_DRAIN_CANCELLED
  | PWR_DRAIN_REFUSED
  | FLT_VOTE_CORRECTED
  | FLT_CORRECTED
  | FLT_CONTAINED
  | FLT_FATAL
  | FLT_TRANSIENT
  | FLT_LASTING
  | FLT_TEST_SKIPPED
  | FLT_RECORD_LOST
  | TRP_SLOW_NO_CLUSTER
  | CBD_SLOT_TAKE
  | CBD_SLOT_PEEK
  | FLT_SCOPE_PORT
  | FLT_SCOPE_ENGINE
  | FLT_SCOPE_HOST
  | FLT_SCOPE_TROUPE
  | FLT_SCOPE_SLICE
  deriving DecidableEq, Repr

/-- The register tables. -/
def RegName.info : RegName → RegInfo
  | .SYS_DEVICE_STATE => { block := .SYS, off := 0x100, wide := false, fields := [⟨0, 3, .RO, 2⟩, ⟨8, 8, .RO, 0⟩] }  -- R61
  | .SYS_IMAGE_STATUS => { block := .SYS, off := 0x104, wide := false, fields := [⟨0, 1, .RO, 0⟩, ⟨1, 1, .RO, 0⟩, ⟨2, 1, .RO, 0⟩, ⟨8, 8, .RO, 0⟩, ⟨16, 8, .RO, 0⟩] }  -- R61
  | .SYS_IMAGE_VERSION => { block := .SYS, off := 0x108, wide := false, fields := [⟨0, 32, .RO, 0⟩] }  -- R61
  | .SYS_MIN_IMAGE_VERSION => { block := .SYS, off := 0x10C, wide := false, fields := [⟨0, 32, .RO, 0⟩] }  -- R61
  | .SYS_BOOT_NONCE => { block := .SYS, off := 0x110, wide := true, fields := [⟨0, 64, .RO, 0⟩] }  -- R61
  | .SYS_STAGING => { block := .SYS, off := 0x118, wide := false, fields := [⟨0, 2, .RO, 0⟩, ⟨2, 1, .RO, 0⟩, ⟨3, 1, .W1C, 0⟩, ⟨8, 8, .RO, 0⟩] }  -- R61
  | .SYS_AMEND_SEQUENCE => { block := .SYS, off := 0x120, wide := true, fields := [⟨0, 64, .RO, 0⟩] }  -- R61
  | .GLT_BRIDGE_STATUS => { block := .GLT, off := 0x0, wide := false, fields := [⟨0, 1, .RO, 0⟩, ⟨1, 1, .W1C, 0⟩, ⟨2, 1, .W1C, 0⟩, ⟨8, 8, .RO, 0⟩] }  -- R76
  | .PWR_BRIDGE_STATUS => { block := .PWR, off := 0x0, wide := false, fields := [⟨0, 1, .RO, 0⟩, ⟨1, 1, .W1C, 0⟩, ⟨2, 1, .W1C, 0⟩, ⟨8, 8, .RO, 0⟩] }  -- R76
  | .OPT_BRIDGE_STATUS => { block := .OPT, off := 0x0, wide := false, fields := [⟨0, 1, .RO, 0⟩, ⟨1, 1, .W1C, 0⟩, ⟨2, 1, .W1C, 0⟩, ⟨8, 8, .RO, 0⟩] }  -- R76
  | .MGT_BRIDGE_STATUS => { block := .MGT, off := 0x0, wide := false, fields := [⟨0, 1, .RO, 0⟩, ⟨1, 1, .W1C, 0⟩, ⟨2, 1, .W1C, 0⟩, ⟨8, 8, .RO, 0⟩] }  -- R76
  | .GLT_BRIDGE_DROP_ADDR => { block := .GLT, off := 0x4, wide := false, fields := [⟨0, 22, .RO, 0⟩] }  -- R76
  | .PWR_BRIDGE_DROP_ADDR => { block := .PWR, off := 0x4, wide := false, fields := [⟨0, 22, .RO, 0⟩] }  -- R76
  | .OPT_BRIDGE_DROP_ADDR => { block := .OPT, off := 0x4, wide := false, fields := [⟨0, 22, .RO, 0⟩] }  -- R76
  | .MGT_BRIDGE_DROP_ADDR => { block := .MGT, off := 0x4, wide := false, fields := [⟨0, 22, .RO, 0⟩] }  -- R76
  | .SYS_PART_ID => { block := .SYS, off := 0x0, wide := false, fields := [⟨0, 16, .RO, 0x7200⟩, ⟨16, 8, .RO, 176⟩] }  -- R87
  | .SYS_FAMILY => { block := .SYS, off := 0x4, wide := false, fields := [⟨0, 16, .RO, 2686⟩] }  -- R87
  | .SYS_SERIAL => { block := .SYS, off := 0x8, wide := true, fields := [⟨0, 64, .RO, 0⟩] }  -- R87
  | .SYS_MAP_VERSION => { block := .SYS, off := 0x10, wide := false, fields := [⟨0, 8, .RO, 0⟩, ⟨8, 8, .RO, 1⟩] }  -- R87
  | .SYS_BOOT_ROM_VERSION => { block := .SYS, off := 0x14, wide := false, fields := [⟨0, 32, .RO, 0⟩] }  -- R87
  | .SYS_CPC_FW_VERSION => { block := .SYS, off := 0x18, wide := false, fields := [⟨0, 32, .RO, 0⟩] }  -- R87
  | .SYS_TROUPE_FW_VERSION => { block := .SYS, off := 0x1C, wide := false, fields := [⟨0, 32, .RO, 0⟩] }  -- R87
  | .SYS_PROTOCOLS => { block := .SYS, off := 0x20, wide := false, fields := [⟨0, 8, .RO, 1⟩, ⟨8, 4, .RO, 2⟩, ⟨16, 8, .RO, 6⟩] }  -- R87
  | .SYS_SCRATCH => { block := .SYS, off := 0x30, wide := true, fields := [⟨0, 64, .RW, 0⟩] }  -- R87
  | .SYS_BAD_ACCESS => { block := .SYS, off := 0x40, wide := true, fields := [⟨0, 32, .RO, 0⟩, ⟨32, 16, .RO, 0⟩, ⟨48, 4, .RO, 0⟩, ⟨52, 1, .RO, 0⟩, ⟨63, 1, .W1C, 0⟩] }  -- R87
  | .SYS_BAD_ACCESS_COUNT => { block := .SYS, off := 0x48, wide := false, fields := [⟨0, 32, .RC, 0⟩] }  -- R87
  | .PRT_CONFIG => { block := .PRT, off := 0x0, stride := 0x1000, count := 256, wide := false, fields := [⟨0, 1, .RWV, 0⟩, ⟨1, 2, .RW, 0⟩, ⟨8, 14, .RW, 1518⟩] }  -- R116
  | .PRT_STATUS => { block := .PRT, off := 0x4, stride := 0x1000, count := 256, wide := false, fields := [⟨0, 1, .RO, 0⟩, ⟨1, 1, .RO, 0⟩, ⟨8, 8, .RO, 0⟩, ⟨16, 8, .RO, 0⟩] }  -- R116
  | .PRT_CLASS_MAP => { block := .PRT, off := 0x8, stride := 0x1000, count := 256, wide := false, fields := [⟨0, 24, .RW, 0xfac688⟩, ⟨24, 3, .RW, 0⟩] }  -- R116
  | .PRT_PAUSE_TIME => { block := .PRT, off := 0xC, stride := 0x1000, count := 256, wide := false, fields := [⟨0, 16, .RW, 0xffff⟩] }  -- R116
  | .PRT_CSUM_CTRL => { block := .PRT, off := 0x10, stride := 0x1000, count := 256, wide := false, fields := [⟨0, 1, .RW, 1⟩, ⟨1, 1, .RW, 1⟩, ⟨2, 1, .RW, 1⟩] }  -- R116
  | .PRT_TS_LATENCY => { block := .PRT, off := 0x14, stride := 0x1000, count := 256, wide := false, fields := [⟨0, 16, .RW, 0⟩, ⟨16, 16, .RW, 0⟩] }  -- R116
  | .PRT_PFC_WM => { block := .PRT, off := 0x40, stride := 0x1000, count := 256, stride2 := 0x8, count2 := 8, wide := true, fields := [⟨0, 20, .RW, 0xfffff⟩, ⟨32, 20, .RW, 0⟩] }  -- R116
  | .PRT_TX_TS_TIME => { block := .PRT, off := 0x80, stride := 0x1000, count := 256, wide := true, fields := [⟨0, 32, .RO, 0⟩, ⟨32, 32, .RO, 0⟩] }  -- R116
  | .PRT_TX_TS_TAG => { block := .PRT, off := 0x88, stride := 0x1000, count := 256, wide := true, fields := [⟨0, 16, .RO, 0⟩, ⟨16, 16, .RO, 0⟩, ⟨63, 1, .RO, 0⟩] }  -- R116
  | .OPT_ENGINE_PLAN => { block := .OPT, off := 0x10000, stride := 0x10000, count := 16, wide := true, slow := true, fields := [⟨0, 64, .RW, 0⟩] }  -- R117
  | .OPT_ENGINE_STATUS => { block := .OPT, off := 0x10008, stride := 0x10000, count := 16, wide := false, slow := true, fields := [⟨0, 1, .W1C, 0⟩] }  -- R117
  | .OPT_LASER_CTRL => { block := .OPT, off := 0x10010, stride := 0x10000, count := 16, wide := false, slow := true, fields := [⟨0, 8, .RWV, 0⟩, ⟨8, 1, .W1S, 0⟩, ⟨9, 1, .W1S, 0⟩] }  -- R117
  | .OPT_LSM_STATUS => { block := .OPT, off := 0x10014, stride := 0x10000, count := 16, wide := false, slow := true, fields := [⟨0, 1, .RO, 0⟩, ⟨1, 3, .RO, 0⟩, ⟨4, 4, .RO, 0⟩, ⟨8, 8, .RO, 0⟩, ⟨16, 1, .RO, 0⟩, ⟨17, 1, .RO, 0⟩] }  -- R117
  | .OPT_LSM_HOURS => { block := .OPT, off := 0x10018, stride := 0x10000, count := 16, wide := false, slow := true, fields := [⟨0, 32, .RO, 0⟩] }  -- R117
  | .OPT_LSM_RATED => { block := .OPT, off := 0x1001C, stride := 0x10000, count := 16, wide := false, slow := true, fields := [⟨0, 32, .RO, 0⟩] }  -- R117
  | .OPT_LSM_REMAIN => { block := .OPT, off := 0x10020, stride := 0x10000, count := 16, wide := false, slow := true, fields := [⟨0, 32, .RO, 0xffffffff⟩] }  -- R117
  | .OPT_LB_CELLS => { block := .OPT, off := 0x10040, stride := 0x10000, count := 16, stride2 := 0x4, count2 := 16, wide := false, slow := true, fields := [⟨0, 13, .RW, 0⟩] }  -- R117
  | .MGT_SEG_CTRL => { block := .MGT, off := 0x100, stride := 0x100, count := 2, wide := false, slow := true, fields := [⟨0, 1, .RWV, 1⟩] }  -- R117
  | .MGT_SEG_STATUS => { block := .MGT, off := 0x104, stride := 0x100, count := 2, wide := false, slow := true, fields := [⟨0, 1, .RO, 0⟩] }  -- R117
  | .MGT_SEG_MAC => { block := .MGT, off := 0x108, stride := 0x100, count := 2, wide := true, slow := true, fields := [⟨0, 48, .RO, 0⟩] }  -- R117
  | .CLS_SCENE_STATUS => { block := .CLS, off := 0x0, wide := true, fields := [⟨0, 16, .RO, 0⟩, ⟨16, 16, .RO, 1⟩, ⟨32, 3, .RO, 1⟩, ⟨35, 1, .RO, 0⟩, ⟨40, 8, .RO, 0⟩] }  -- R139
  | .CLS_SCENE_COMMIT => { block := .CLS, off := 0x8, wide := false, fields := [⟨0, 16, .RWV, 0⟩, ⟨16, 1, .RWV, 0⟩, ⟨17, 1, .W1S, 0⟩] }  -- R139
  | .CLS_SCENE_ACT_TIME => { block := .CLS, off := 0x10, wide := true, fields := [⟨0, 32, .RW, 0⟩, ⟨32, 32, .RW, 0⟩] }  -- R139
  | .CLS_SCENE_ACT_TIME_HIGH => { block := .CLS, off := 0x18, wide := false, fields := [⟨0, 16, .RW, 0⟩] }  -- R139
  | .CLS_RETIRE_LIMIT => { block := .CLS, off := 0x20, wide := false, fields := [⟨0, 16, .RW, 1000⟩] }  -- R139
  | .CLS_SCENE_SLOT => { block := .CLS, off := 0x40, stride := 0x8, count := 4, wide := true, fields := [⟨0, 16, .RO, 0⟩, ⟨16, 3, .RO, 0⟩, ⟨32, 32, .RO, 0⟩] }  -- R139
  | .CLS_FORCED_DROPS => { block := .CLS, off := 0x60, wide := true, fields := [⟨0, 64, .RC, 0⟩] }  -- R139
  | .CLS_PARSE_PORTS => { block := .CLS, off := 0x100, wide := true, fields := [⟨0, 16, .RW, 0x12b5⟩, ⟨16, 16, .RW, 0x17c1⟩, ⟨32, 16, .RW, 0x12b7⟩, ⟨48, 16, .RW, 0x1144⟩] }  -- R139
  | .CLS_PARSE_TPID => { block := .CLS, off := 0x108, wide := false, fields := [⟨0, 16, .RW, 0x88a8⟩, ⟨16, 16, .RW, 0x8100⟩] }  -- R139
  | .CLS_PARSE_CTRL => { block := .CLS, off := 0x110, wide := false, fields := [⟨0, 5, .RW, 31⟩, ⟨5, 1, .RW, 0⟩, ⟨6, 2, .RW, 0⟩, ⟨8, 9, .RW, 0⟩] }  -- R139
  | .CLS_GENEVE_KNOWN => { block := .CLS, off := 0x180, stride := 0x4, count := 16, wide := false, fields := [⟨0, 16, .RW, 0⟩, ⟨16, 8, .RW, 0⟩, ⟨31, 1, .RW, 0⟩] }  -- R139
  | .CLS_PORT_START => { block := .CLS, off := 0x1000, stride := 0x8, count := 336, wide := true, fields := [⟨0, 6, .RW, 0⟩, ⟨7, 1, .RW, 0⟩, ⟨32, 24, .RW, 0⟩] }  -- R139
  | .CLS_KEY_SEL => { block := .CLS, off := 0x2000, stride := 0x4, count := 2048, wide := false, fields := [⟨0, 8, .RW, 0⟩, ⟨8, 8, .RW, 0⟩, ⟨16, 8, .RW, 0⟩, ⟨24, 8, .RW, 0⟩] }  -- R139
  | .CLS_TABLE_KEY => { block := .CLS, off := 0x4000, stride := 0x8, count := 64, wide := true, fields := [⟨0, 6, .RW, 0⟩, ⟨8, 7, .RW, 64⟩, ⟨32, 24, .RW, 0⟩] }  -- R139
  | .TBL_ENTRY => { block := .TBL, off := 0x0, stride := 0x4, count := 16, wide := false, fields := [⟨0, 32, .RW, 0⟩] }  -- R162
  | .TBL_ATTR => { block := .TBL, off := 0x40, wide := true, fields := [⟨0, 24, .RW, 0⟩, ⟨24, 1, .RW, 0⟩, ⟨32, 15, .RW, 0⟩] }  -- R162
  | .TBL_CMD => { block := .TBL, off := 0x48, wide := false, fields := [⟨0, 4, .WO, 0⟩, ⟨4, 7, .WO, 0⟩, ⟨11, 1, .WO, 0⟩] }  -- R162
  | .TBL_INDEX => { block := .TBL, off := 0x50, wide := false, fields := [⟨0, 28, .RW, 0⟩] }  -- R162
  | .TBL_STATUS => { block := .TBL, off := 0x58, wide := true, fields := [⟨0, 1, .RO, 0⟩, ⟨1, 1, .W1C, 0⟩, ⟨2, 1, .W1C, 0⟩, ⟨8, 8, .RO, 0⟩, ⟨16, 1, .RO, 0⟩, ⟨17, 1, .RO, 0⟩, ⟨18, 1, .RO, 0⟩, ⟨24, 7, .RO, 0⟩, ⟨32, 28, .RO, 0⟩] }  -- R162
  | .TBL_RESULT => { block := .TBL, off := 0x60, wide := true, fields := [⟨0, 16, .RO, 0⟩, ⟨16, 16, .RO, 0⟩, ⟨32, 16, .RO, 0⟩, ⟨48, 1, .RO, 0⟩, ⟨49, 1, .RO, 0⟩, ⟨50, 1, .RO, 0⟩] }  -- R162
  | .TBL_TABLE_CFG => { block := .TBL, off := 0x100, stride := 0x8, count := 67, wide := true, fields := [⟨0, 5, .RW, 4⟩, ⟨5, 1, .RW, 0⟩, ⟨8, 21, .RW, 0⟩, ⟨32, 2, .RW, 0⟩, ⟨36, 15, .RW, 0⟩] }  -- R162
  | .TBL_SEED_A => { block := .TBL, off := 0x400, stride := 0x4, count := 67, wide := false, fields := [⟨0, 32, .RW, 0⟩] }  -- R162
  | .TBL_SEED_B => { block := .TBL, off := 0xB00, stride := 0x4, count := 67, wide := false, fields := [⟨0, 32, .RW, 0⟩] }  -- R162
  | .TBL_AGE_CTRL => { block := .TBL, off := 0x600, wide := false, fields := [⟨0, 5, .RW, 10⟩, ⟨16, 16, .RO, 0⟩] }  -- R162
  | .TBL_EVICTED_HEAD => { block := .TBL, off := 0x700, wide := true, fields := [⟨0, 7, .RO, 0⟩, ⟨7, 1, .RO, 0⟩, ⟨8, 24, .RO, 0⟩, ⟨32, 16, .RO, 0⟩] }  -- R162
  | .TBL_EVICTED_POP => { block := .TBL, off := 0x708, wide := false, fields := [⟨0, 1, .WO, 0⟩] }  -- R162
  | .TBL_EVICTED_KEY => { block := .TBL, off := 0x740, stride := 0x4, count := 16, wide := false, fields := [⟨0, 32, .RO, 0⟩] }  -- R162
  | .TBL_TABLE_COUNT => { block := .TBL, off := 0x800, stride := 0x4, count := 67, wide := false, fields := [⟨0, 29, .RO, 0⟩] }  -- R162
  | .TBL_LEARN_PORT => { block := .TBL, off := 0x1000, stride := 0x4, count := 336, wide := false, fields := [⟨0, 1, .RW, 0⟩, ⟨1, 1, .RW, 1⟩, ⟨4, 12, .RW, 0⟩, ⟨16, 16, .RW, 0⟩] }  -- R162
  | .SWC_FLOW_SEED => { block := .SWC, off := 0x0, wide := false, fields := [⟨0, 32, .RW, 0⟩] }  -- R184
  | .SWC_POOL => { block := .SWC, off := 0x8, wide := true, fields := [⟨0, 21, .RW, 0x8000⟩, ⟨32, 21, .RO, 0⟩] }  -- R184
  | .SWC_LOSSLESS => { block := .SWC, off := 0x10, wide := false, fields := [⟨0, 8, .RW, 0⟩] }  -- R184
  | .SWC_SPILL_CFG => { block := .SWC, off := 0x18, wide := true, fields := [⟨0, 16, .RO, 0⟩, ⟨32, 32, .RO, 0⟩] }  -- R184
  | .SWC_STATUS => { block := .SWC, off := 0x20, wide := false, fields := [⟨0, 1, .W1C, 0⟩] }  -- R184
  | .SWC_REWRITE_CFG => { block := .SWC, off := 0x28, wide := false, fields := [⟨0, 6, .RW, 0⟩, ⟨6, 1, .RW, 0⟩] }  -- R184
  | .SWC_SAF => { block := .SWC, off := 0x1000, stride := 0x4, count := 336, wide := false, fields := [⟨0, 8, .RW, 0⟩] }  -- R184
  | .SWC_Q_LIMIT => { block := .SWC, off := 0x10000, stride := 0x8, count := 2688, wide := true, fields := [⟨0, 21, .RW, 0x1fffff⟩, ⟨21, 4, .RW, 7⟩, ⟨25, 1, .RW, 0⟩, ⟨32, 21, .RW, 0⟩] }  -- R184
  | .SWC_Q_ECN => { block := .SWC, off := 0x20000, stride := 0x8, count := 2688, wide := true, fields := [⟨0, 21, .RW, 0⟩, ⟨32, 21, .RW, 0⟩, ⟨53, 9, .RW, 0⟩, ⟨62, 1, .RW, 0⟩] }  -- R184
  | .SWC_Q_DEPTH => { block := .SWC, off := 0x30000, stride := 0x8, count := 2688, wide := true, fields := [⟨0, 21, .RO, 0⟩, ⟨32, 32, .RO, 0⟩] }  -- R184
  | .SWC_IN_RESERVE => { block := .SWC, off := 0x40000, stride := 0x8, count := 2688, wide := true, fields := [⟨0, 21, .RW, 0⟩, ⟨32, 21, .RW, 0⟩] }  -- R184
  | .SWC_IN_USE => { block := .SWC, off := 0x50000, stride := 0x4, count := 2688, wide := false, fields := [⟨0, 21, .RO, 0⟩] }  -- R184
  | .SWC_SPOT => { block := .SWC, off := 0x60000, stride := 0x8, count := 2688, wide := true, fields := [⟨0, 25, .RW, 0⟩, ⟨25, 1, .RW, 0⟩, ⟨32, 4, .RW, 1⟩, ⟨36, 4, .RW, 0⟩] }  -- R184
  | .SWC_GROUP => { block := .SWC, off := 0x80000, stride := 0x8, count := 4352, wide := true, fields := [⟨0, 17, .RW, 0⟩, ⟨17, 4, .RW, 4⟩, ⟨21, 1, .RW, 0⟩, ⟨32, 6, .RO, 0⟩] }  -- R184
  | .SWC_MEMBER => { block := .SWC, off := 0x100000, stride := 0x8, count := 139264, wide := true, fields := [⟨0, 9, .RW, 0⟩, ⟨16, 1, .RW, 0⟩, ⟨17, 1, .RO, 0⟩, ⟨32, 24, .RW, 0⟩] }  -- R184
  | .SWC_PIN => { block := .SWC, off := 0x220000, stride := 0x4, count := 131072, wide := false, fields := [⟨0, 5, .RW, 0⟩] }  -- R184
  | .SWC_MC_GROUP => { block := .SWC, off := 0x2A0000, stride := 0x8, count := 16384, wide := true, fields := [⟨0, 17, .RW, 0⟩, ⟨32, 11, .RW, 0⟩] }  -- R184
  | .SWC_MC_REPLICA => { block := .SWC, off := 0x2C0000, stride := 0x8, count := 131072, wide := true, fields := [⟨0, 9, .RW, 0⟩, ⟨32, 24, .RW, 0⟩] }  -- R184
  | .SWC_MIRROR => { block := .SWC, off := 0x3C0000, stride := 0x8, count := 256, wide := true, fields := [⟨0, 9, .RW, 0⟩, ⟨9, 3, .RW, 0⟩, ⟨12, 1, .RW, 0⟩] }  -- R184
  | .SWC_CTR_SELECT => { block := .SWC, off := 0x3D0000, wide := false, fields := [⟨0, 17, .RW, 0⟩] }  -- R184
  | .SWC_CTR_FRAMES => { block := .SWC, off := 0x3D0008, wide := true, fields := [⟨0, 64, .RC, 0⟩] }  -- R184
  | .SWC_CTR_OCTETS => { block := .SWC, off := 0x3D0010, wide := true, fields := [⟨0, 64, .RC, 0⟩] }  -- R184
  | .TMS_PORT_CFG => { block := .TMS, off := 0x1000, stride := 0x8, count := 336, wide := true, fields := [⟨0, 6, .RW, 0⟩, ⟨8, 8, .RW, 0⟩, ⟨16, 1, .RW, 0⟩] }  -- R207
  | .TMS_PORT_VTIME => { block := .TMS, off := 0x3000, stride := 0x8, count := 336, wide := true, fields := [⟨0, 48, .RO, 0⟩] }  -- R207
  | .TMS_Q_WEIGHT => { block := .TMS, off := 0x10000, stride := 0x4, count := 2688, wide := false, fields := [⟨0, 16, .RW, 1⟩] }  -- R207
  | .TMS_Q_SHAPER => { block := .TMS, off := 0x20000, stride := 0x8, count := 2688, wide := true, fields := [⟨0, 21, .RW, 0⟩, ⟨32, 24, .RW, 0⟩, ⟨56, 1, .RW, 0⟩] }  -- R207
  | .TMS_PORT_SHAPER => { block := .TMS, off := 0x2000, stride := 0x8, count := 336, wide := true, fields := [⟨0, 21, .RW, 0⟩, ⟨32, 24, .RW, 0⟩, ⟨56, 1, .RW, 0⟩] }  -- R207
  | .SLC_DELIVER_SHAPER => { block := .SLC, off := 0x50000, stride := 0x10, count := 4096, wide := true, fields := [⟨0, 21, .RW, 0⟩, ⟨32, 24, .RW, 0⟩, ⟨56, 1, .RW, 0⟩] }  -- R207
  | .SLC_SEND_SHAPER => { block := .SLC, off := 0x50008, stride := 0x10, count := 4096, wide := true, fields := [⟨0, 21, .RW, 0⟩, ⟨32, 24, .RW, 0⟩, ⟨56, 1, .RW, 0⟩] }  -- R207
  | .TMS_Q_STATUS => { block := .TMS, off := 0x30000, stride := 0x8, count := 2688, wide := true, fields := [⟨0, 48, .RO, 0⟩, ⟨48, 1, .RO, 0⟩, ⟨49, 1, .RO, 0⟩, ⟨50, 1, .RO, 0⟩, ⟨51, 1, .RO, 0⟩] }  -- R207
  | .TMS_TT_ADMIN_BASE => { block := .TMS, off := 0x80000, stride := 0x40, count := 256, wide := true, fields := [⟨0, 32, .RW, 0⟩, ⟨32, 32, .RW, 0⟩] }  -- R207
  | .TMS_TT_ADMIN_BASE_HIGH => { block := .TMS, off := 0x80008, stride := 0x40, count := 256, wide := false, fields := [⟨0, 16, .RW, 0⟩] }  -- R207
  | .TMS_TT_ADMIN_CYCLE => { block := .TMS, off := 0x8000C, stride := 0x40, count := 256, wide := false, fields := [⟨0, 32, .RW, 0xf4240⟩] }  -- R207
  | .TMS_TT_ADMIN_CTRL => { block := .TMS, off := 0x80010, stride := 0x40, count := 256, wide := false, fields := [⟨0, 11, .RW, 1⟩, ⟨16, 1, .W1S, 0⟩, ⟨17, 1, .W1S, 0⟩] }  -- R207
  | .TMS_TT_STATUS => { block := .TMS, off := 0x80018, stride := 0x40, count := 256, wide := true, fields := [⟨0, 1, .RO, 0⟩, ⟨1, 1, .RO, 0⟩, ⟨8, 8, .RO, 0⟩, ⟨16, 10, .RO, 0⟩, ⟨48, 16, .RO, 0⟩] }  -- R207
  | .TMS_TT_CHANGE_TIME => { block := .TMS, off := 0x80020, stride := 0x40, count := 256, wide := true, fields := [⟨0, 32, .RO, 0⟩, ⟨32, 32, .RO, 0⟩] }  -- R207
  | .TMS_TT_ADMIN => { block := .TMS, off := 0x200000, stride := 0x8, count := 262144, wide := true, fields := [⟨0, 8, .RW, 255⟩, ⟨32, 32, .RW, 0⟩] }  -- R207
  | .TMS_POLICER_RATE => { block := .TMS, off := 0x100000, stride := 0x10, count := 16384, wide := true, fields := [⟨0, 21, .RW, 0⟩, ⟨32, 21, .RW, 0⟩] }  -- R207
  | .TMS_POLICER_SIZE => { block := .TMS, off := 0x100008, stride := 0x10, count := 16384, wide := true, fields := [⟨0, 24, .RW, 0⟩, ⟨32, 24, .RW, 0⟩, ⟨56, 1, .RW, 1⟩] }  -- R207
  | .MGT_TIME_NOW => { block := .MGT, off := 0x1000, wide := true, slow := true, fields := [⟨0, 32, .RO, 0⟩, ⟨32, 32, .RO, 0⟩] }  -- R208
  | .MGT_TIME_NOW_HIGH => { block := .MGT, off := 0x1008, wide := false, slow := true, fields := [⟨0, 16, .RO, 0⟩] }  -- R208
  | .MGT_TIME_FREQ => { block := .MGT, off := 0x1010, wide := false, slow := true, fields := [⟨0, 32, .RW, 0⟩] }  -- R208
  | .MGT_TIME_STEP => { block := .MGT, off := 0x1018, wide := true, slow := true, fields := [⟨0, 64, .WO, 0⟩] }  -- R208
  | .MGT_TIME_CFG => { block := .MGT, off := 0x1020, wide := false, slow := true, fields := [⟨0, 1, .RW, 0⟩, ⟨1, 1, .RW, 1⟩] }  -- R208
  | .MGT_TIME_STATUS => { block := .MGT, off := 0x1024, wide := false, slow := true, fields := [⟨0, 1, .RO, 0⟩, ⟨1, 1, .RO, 0⟩, ⟨2, 1, .W1C, 0⟩] }  -- R208
  | .MGT_PPS_CAPTURE => { block := .MGT, off := 0x1040, stride := 0x10, count := 2, wide := true, slow := true, fields := [⟨0, 32, .RO, 0⟩, ⟨32, 16, .RO, 0⟩, ⟨62, 1, .RO, 0⟩, ⟨63, 1, .RO, 0⟩] }  -- R208
  | .MGT_TOD_DATA => { block := .MGT, off := 0x1060, stride := 0x4, count := 2, wide := false, slow := true, fields := [⟨0, 8, .RC, 0⟩, ⟨8, 1, .RC, 0⟩, ⟨9, 1, .RC, 0⟩] }  -- R208
  | .OFL_CTRL => { block := .OFL, off := 0x0, wide := false, fields := [⟨0, 4, .RW, 4⟩] }  -- R232
  | .OFL_OBJ_DATA => { block := .OFL, off := 0x100, stride := 0x4, count := 32, wide := false, fields := [⟨0, 32, .RW, 0⟩] }  -- R232
  | .OFL_OBJ_CMD => { block := .OFL, off := 0x200, wide := false, fields := [⟨0, 2, .WO, 0⟩, ⟨2, 2, .WO, 0⟩, ⟨4, 1, .WO, 0⟩, ⟨8, 16, .WO, 0⟩] }  -- R232
  | .OFL_OBJ_STATUS => { block := .OFL, off := 0x208, wide := false, fields := [⟨0, 1, .RO, 0⟩, ⟨1, 1, .W1C, 0⟩, ⟨8, 8, .RO, 0⟩] }  -- R232
  | .OFL_EVENT_HEAD => { block := .OFL, off := 0x300, wide := true, fields := [⟨0, 4, .RO, 0⟩, ⟨15, 1, .RO, 0⟩, ⟨16, 16, .RO, 0⟩, ⟨32, 8, .RO, 0⟩] }  -- R232
  | .OFL_EVENT_POP => { block := .OFL, off := 0x308, wide := false, fields := [⟨0, 1, .WO, 0⟩] }  -- R232
  | .CPH_ENGINE_STATE => { block := .CPH, off := 0x0, stride := 0x4, count := 36, wide := false, fields := [⟨0, 2, .RO, 0⟩, ⟨8, 8, .RO, 0⟩] }  -- R257
  | .CPH_STATUS => { block := .CPH, off := 0x90, wide := false, fields := [⟨0, 6, .RO, 36⟩, ⟨6, 1, .W1C, 0⟩, ⟨8, 12, .RO, 0⟩] }  -- R257
  | .CPH_CTX_SELECT => { block := .CPH, off := 0x100, wide := false, fields := [⟨0, 18, .RW, 0⟩] }  -- R257
  | .CPH_CTX_STATUS => { block := .CPH, off := 0x108, wide := true, fields := [⟨0, 2, .RO, 0⟩, ⟨2, 3, .RO, 0⟩, ⟨5, 1, .RO, 0⟩, ⟨6, 1, .RO, 0⟩, ⟨7, 1, .RO, 0⟩, ⟨8, 1, .RO, 0⟩, ⟨9, 1, .RO, 0⟩, ⟨10, 1, .RO, 0⟩, ⟨16, 8, .RO, 0⟩, ⟨32, 12, .RO, 0⟩, ⟨48, 16, .RO, 0⟩] }  -- R257
  | .CPH_CTX_USED => { block := .CPH, off := 0x110, wide := true, fields := [⟨0, 49, .RO, 0⟩] }  -- R257
  | .CPH_CTX_BYTES => { block := .CPH, off := 0x118, wide := true, fields := [⟨0, 51, .RO, 0⟩] }  -- R257
  | .CPH_CTX_LIMIT => { block := .CPH, off := 0x120, wide := true, fields := [⟨0, 49, .RWV, 0x100000000⟩] }  -- R257
  | .CPH_CTX_BYTE_LIMIT => { block := .CPH, off := 0x128, wide := true, fields := [⟨0, 51, .RWV, 0x4000000000000⟩] }  -- R257
  | .CPH_CTX_CHECKPOINT => { block := .CPH, off := 0x130, wide := true, fields := [⟨0, 49, .RO, 0⟩] }  -- R257
  | .CPH_CTX_CTRL => { block := .CPH, off := 0x138, wide := false, fields := [⟨0, 8, .RW, 1⟩, ⟨8, 1, .RW, 0⟩] }  -- R257
  | .CPH_CTX_CMD => { block := .CPH, off := 0x13C, wide := false, fields := [⟨0, 2, .WO, 0⟩] }  -- R257
  | .HEP_PORT_CFG => { block := .HEP, off := 0x0, stride := 0x10000, count := 16, wide := false, fields := [⟨0, 1, .RO, 0⟩, ⟨1, 2, .RO, 0⟩, ⟨3, 1, .RO, 0⟩] }  -- R312
  | .HEP_TAG_STATUS => { block := .HEP, off := 0x8, stride := 0x10000, count := 16, wide := false, fields := [⟨0, 15, .RO, 0⟩, ⟨16, 15, .RO, 0⟩] }  -- R312
  | .HEP_LINK_CTRL => { block := .HEP, off := 0x100, stride := 0x10000, count := 16, stride2 := 0x40, count2 := 4, wide := false, fields := [⟨0, 3, .RW, 0⟩, ⟨3, 1, .W1S, 0⟩] }  -- R312
  | .HEP_LINK_STATUS => { block := .HEP, off := 0x104, stride := 0x10000, count := 16, stride2 := 0x40, count2 := 4, wide := false, fields := [⟨0, 1, .RO, 0⟩, ⟨1, 1, .RO, 0⟩, ⟨2, 3, .RO, 0⟩, ⟨5, 5, .RO, 0⟩, ⟨10, 1, .RO, 0⟩, ⟨11, 1, .RO, 0⟩, ⟨12, 1, .RO, 0⟩] }  -- R312
  | .HEP_IDE_CTRL => { block := .HEP, off := 0x108, stride := 0x10000, count := 16, stride2 := 0x40, count2 := 4, wide := false, fields := [⟨0, 1, .RWV, 0⟩, ⟨1, 2, .RW, 0⟩] }  -- R312
  | .HEP_IDE_STATUS => { block := .HEP, off := 0x10C, stride := 0x10000, count := 16, stride2 := 0x40, count2 := 4, wide := false, fields := [⟨0, 4, .RO, 0⟩, ⟨4, 4, .W1C, 0⟩] }  -- R312
  | .HEP_LINK_BARS => { block := .HEP, off := 0x110, stride := 0x10000, count := 16, stride2 := 0x40, count2 := 4, wide := true, fields := [⟨0, 5, .RO, 0⟩, ⟨8, 5, .RO, 0⟩, ⟨16, 1, .RO, 0⟩, ⟨17, 1, .RO, 0⟩, ⟨18, 1, .RO, 0⟩, ⟨19, 1, .RO, 0⟩, ⟨20, 1, .RO, 0⟩, ⟨21, 1, .RO, 0⟩] }  -- R312
  | .SLC_CMD => { block := .SLC, off := 0x0, wide := false, fields := [⟨0, 3, .WO, 0⟩, ⟨8, 12, .WO, 0⟩] }  -- R331
  | .SLC_STATUS => { block := .SLC, off := 0x8, wide := false, fields := [⟨0, 8, .RO, 0⟩, ⟨8, 1, .W1C, 0⟩] }  -- R331
  | .SLC_PEER_SHARE => { block := .SLC, off := 0x100, stride := 0x8, count := 64, wide := true, fields := [⟨0, 20, .RW, 0⟩, ⟨32, 20, .RW, 0⟩] }  -- R331
  | .SLC_SLICE_BIND => { block := .SLC, off := 0x10000, stride := 0x8, count := 4096, wide := true, fields := [⟨0, 20, .RWV, 0⟩, ⟨20, 6, .RWV, 0⟩, ⟨32, 12, .RWV, 0⟩] }  -- R331
  | .SLC_SLICE_STATE => { block := .SLC, off := 0x20000, stride := 0x8, count := 4096, wide := true, fields := [⟨0, 2, .RO, 0⟩, ⟨2, 1, .RW, 0⟩, ⟨4, 2, .RW, 0⟩, ⟨8, 8, .RWV, 0⟩, ⟨32, 32, .RO, 0⟩] }  -- R331
  | .SLC_GRANT_Q => { block := .SLC, off := 0x30000, stride := 0x8, count := 4096, wide := true, fields := [⟨0, 16, .RW, 0⟩, ⟨16, 7, .RW, 0⟩, ⟨32, 11, .RW, 0⟩, ⟨43, 8, .RW, 0⟩, ⟨51, 7, .RW, 0⟩] }  -- R331
  | .SLC_GRANT_R => { block := .SLC, off := 0x40000, stride := 0x8, count := 4096, wide := true, fields := [⟨0, 21, .RW, 0⟩, ⟨21, 6, .RW, 1⟩, ⟨32, 19, .RW, 0⟩, ⟨56, 8, .RW, 6⟩] }  -- R331
  | .SLC_WEIGHT => { block := .SLC, off := 0x70000, stride := 0x4, count := 4096, wide := false, fields := [⟨0, 16, .RW, 1⟩] }  -- R331
  | .SLC_USAGE => { block := .SLC, off := 0x80000, stride := 0x8, count := 4096, wide := true, fields := [⟨0, 21, .RO, 0⟩, ⟨32, 19, .RO, 0⟩] }  -- R331
  | .SLC_QUEUE_CFG => { block := .SLC, off := 0x100000, stride := 0x4, count := 65536, wide := false, fields := [⟨0, 3, .RW, 0⟩, ⟨3, 2, .RW, 0⟩] }  -- R331
  | .QRG_Q_SQ_BASE => { block := .QRG, off := 0x100000, stride := 0x20, count := 65536, wide := true, fields := [⟨6, 58, .RW, 0⟩] }  -- R356
  | .QRG_Q_CQ_BASE => { block := .QRG, off := 0x100008, stride := 0x20, count := 65536, wide := true, fields := [⟨6, 58, .RW, 0⟩] }  -- R356
  | .QRG_Q_SHADOW => { block := .QRG, off := 0x100010, stride := 0x20, count := 65536, wide := true, fields := [⟨3, 61, .RW, 0⟩] }  -- R356
  | .QRG_Q_CTRL => { block := .QRG, off := 0x100018, stride := 0x20, count := 65536, wide := false, fields := [⟨0, 1, .RW, 0⟩, ⟨1, 1, .RW, 0⟩, ⟨2, 1, .RW, 0⟩, ⟨4, 4, .RW, 6⟩, ⟨8, 4, .RW, 6⟩, ⟨12, 5, .RW, 16⟩, ⟨17, 7, .RW, 0⟩] }  -- R356
  | .QRG_Q_IRQ => { block := .QRG, off := 0x10001C, stride := 0x20, count := 65536, wide := false, fields := [⟨0, 8, .RW, 0⟩, ⟨8, 10, .RW, 0⟩] }  -- R356
  | .QRG_Q_STATUS => { block := .QRG, off := 0x300000, stride := 0x10, count := 65536, wide := true, fields := [⟨0, 2, .RO, 0⟩, ⟨2, 1, .W1C, 0⟩, ⟨8, 8, .RO, 0⟩, ⟨16, 16, .RO, 0⟩, ⟨32, 16, .RO, 0⟩, ⟨48, 16, .RO, 0⟩] }  -- R356
  | .QRG_ERR_INDEX => { block := .QRG, off := 0x300008, stride := 0x10, count := 65536, wide := false, fields := [⟨0, 16, .RO, 0⟩, ⟨16, 2, .RO, 0⟩, ⟨24, 4, .RO, 0⟩] }  -- R356
  | .QRG_Q_CQ_STATUS => { block := .QRG, off := 0x30000C, stride := 0x10, count := 65536, wide := false, fields := [⟨0, 16, .RO, 0⟩, ⟨16, 1, .RO, 1⟩] }  -- R356
  | .QRG_RX_STEER => { block := .QRG, off := 0x80000, stride := 0x4, count := 65536, wide := false, fields := [⟨0, 6, .RW, 0⟩, ⟨8, 6, .RW, 0⟩, ⟨16, 6, .RW, 0⟩, ⟨24, 6, .RW, 0⟩] }  -- R356
  | .QRG_STALL_LIMITS => { block := .QRG, off := 0x0, wide := false, fields := [⟨0, 16, .RW, 10⟩, ⟨16, 16, .RW, 0⟩] }  -- R356
  | .BMV_PORT_STAGE => { block := .BMV, off := 0x0, stride := 0x40, count := 16, wide := true, fields := [⟨0, 10, .RW, 256⟩, ⟨10, 10, .RW, 192⟩, ⟨20, 10, .RW, 64⟩, ⟨32, 10, .RO, 0⟩] }  -- R372
  | .BMV_PORT_CFG => { block := .BMV, off := 0x8, stride := 0x40, count := 16, wide := false, fields := [⟨0, 3, .RW, 3⟩] }  -- R372
  | .BMV_STATUS => { block := .BMV, off := 0x1000, wide := false, fields := [⟨0, 1, .W1C, 0⟩] }  -- R372
  | .BMV_REQ_RAISE => { block := .BMV, off := 0x1008, wide := false, fields := [⟨0, 8, .WO, 0⟩] }  -- R372
  | .BMV_CH_CFG => { block := .BMV, off := 0x100000, stride := 0x40, count := 4096, wide := true, fields := [⟨0, 4, .RW, 0⟩, ⟨4, 2, .RW, 0⟩, ⟨8, 12, .RW, 0⟩, ⟨20, 2, .RW, 0⟩, ⟨22, 2, .RW, 0⟩, ⟨24, 2, .RW, 0⟩, ⟨26, 3, .RW, 0⟩, ⟨32, 3, .RW, 3⟩, ⟨35, 1, .RW, 0⟩, ⟨36, 8, .RW, 0⟩, ⟨44, 4, .RW, 12⟩, ⟨48, 1, .RW, 0⟩, ⟨49, 11, .RW, 0⟩] }  -- R372
  | .BMV_CH_NEXT => { block := .BMV, off := 0x100008, stride := 0x40, count := 4096, wide := true, fields := [⟨5, 59, .RW, 0⟩] }  -- R372
  | .BMV_CH_CTRL => { block := .BMV, off := 0x100010, stride := 0x40, count := 4096, wide := false, fields := [⟨0, 1, .RW, 0⟩, ⟨1, 1, .W1S, 0⟩, ⟨2, 1, .W1S, 0⟩, ⟨4, 8, .RW, 16⟩] }  -- R372
  | .BMV_CH_STATUS => { block := .BMV, off := 0x100018, stride := 0x40, count := 4096, wide := true, fields := [⟨0, 2, .RO, 0⟩, ⟨2, 1, .RO, 0⟩, ⟨3, 1, .RO, 0⟩, ⟨4, 1, .RO, 0⟩, ⟨8, 8, .RO, 0⟩, ⟨16, 16, .RO, 0⟩, ⟨32, 8, .RO, 0⟩, ⟨40, 3, .RO, 0⟩] }  -- R372
  | .BMV_CH_CUR => { block := .BMV, off := 0x100020, stride := 0x40, count := 4096, wide := true, fields := [⟨5, 59, .RO, 0⟩] }  -- R372
  | .BMV_CH_DONE => { block := .BMV, off := 0x100028, stride := 0x40, count := 4096, wide := false, fields := [⟨0, 32, .RO, 0⟩] }  -- R372
  | .TRP_CLUSTER_CFG => { block := .TRP, off := 0x0, stride := 0x40000, count := 8, wide := false, fields := [⟨0, 1, .RO, 0⟩, ⟨1, 1, .RO, 0⟩, ⟨2, 1, .RW, 0⟩, ⟨8, 1, .W1C, 0⟩] }  -- R399
  | .TRP_DQ_CFG => { block := .TRP, off := 0x40, stride := 0x40000, count := 8, stride2 := 0x20, count2 := 2, wide := true, fields := [⟨0, 24, .RW, 0⟩, ⟨24, 4, .RW, 4⟩, ⟨28, 4, .RW, 11⟩, ⟨32, 4, .RW, 0⟩, ⟨36, 16, .RW, 1⟩, ⟨52, 1, .RW, 0⟩] }  -- R399
  | .TRP_DQ_STATUS => { block := .TRP, off := 0x48, stride := 0x40000, count := 8, stride2 := 0x20, count2 := 2, wide := true, fields := [⟨0, 16, .RO, 0⟩, ⟨16, 16, .RO, 0⟩] }  -- R399
  | .TRP_DQ_CONS => { block := .TRP, off := 0x50, stride := 0x40000, count := 8, stride2 := 0x20, count2 := 2, wide := false, fields := [⟨0, 16, .RW, 0⟩] }  -- R399
  | .TRP_CORE_CFG => { block := .TRP, off := 0x1000, stride := 0x40000, count := 8, stride2 := 0x100, count2 := 16, wide := false, fields := [⟨0, 4, .RW, 1⟩, ⟨4, 1, .RW, 1⟩, ⟨5, 1, .W1S, 0⟩] }  -- R399
  | .TRP_CORE_STATUS => { block := .TRP, off := 0x1008, stride := 0x40000, count := 8, stride2 := 0x100, count2 := 16, wide := true, fields := [⟨0, 1, .RO, 0⟩, ⟨1, 1, .RO, 0⟩, ⟨2, 2, .RO, 0⟩, ⟨16, 16, .RO, 0⟩] }  -- R399
  | .TRP_THREAD_CTRL => { block := .TRP, off := 0x4000, stride := 0x40000, count := 8, stride2 := 0x40, count2 := 256, wide := true, fields := [⟨0, 2, .WO, 0⟩, ⟨32, 32, .WO, 0⟩] }  -- R399
  | .TRP_THREAD_STATUS => { block := .TRP, off := 0x4008, stride := 0x40000, count := 8, stride2 := 0x40, count2 := 256, wide := true, fields := [⟨0, 3, .RO, 0⟩, ⟨8, 4, .RO, 0⟩, ⟨32, 32, .RO, 0⟩] }  -- R399
  | .TRP_THREAD_FAULT => { block := .TRP, off := 0x4010, stride := 0x40000, count := 8, stride2 := 0x40, count2 := 256, wide := true, fields := [⟨0, 6, .RO, 0⟩, ⟨8, 1, .W1C, 0⟩, ⟨32, 32, .RO, 0⟩] }  -- R399
  | .TRP_THREAD_TVAL => { block := .TRP, off := 0x4018, stride := 0x40000, count := 8, stride2 := 0x40, count2 := 256, wide := true, fields := [⟨0, 64, .RO, 0⟩] }  -- R399
  | .TRP_THREAD_EVSET => { block := .TRP, off := 0x4020, stride := 0x40000, count := 8, stride2 := 0x40, count2 := 256, wide := false, fields := [⟨0, 16, .WO, 0⟩] }  -- R399
  | .TRP_DIE_SLOW => { block := .TRP, off := 0x200000, stride := 0x4, count := 2, wide := false, fields := [⟨0, 4, .RW, 0⟩] }  -- R399
  | .CBD_SLOT_WRITE => { block := .CBD, off := 0x0, stride := 0x20, count := 9216, wide := false, fields := [⟨0, 32, .WO, 0⟩] }  -- R408
  | .CBD_PENDING => { block := .CBD, off := 0x80000, stride := 0x4, count := 288, wide := false, fields := [⟨0, 32, .W1C, 0⟩] }  -- R408
  | .CBD_DEV_NOTIFY => { block := .CBD, off := 0x90000, stride := 0x4, count := 960, wide := false, fields := [⟨0, 2, .RW, 0⟩, ⟨2, 11, .RW, 0⟩, ⟨13, 6, .RW, 0⟩] }  -- R408
  | .RDN_LOCAL_VRING => { block := .LOCAL, off := 0x10080000, wide := true, fields := [⟨0, 16, .RW, 0⟩, ⟨16, 16, .RO, 0⟩, ⟨32, 16, .RO, 0⟩, ⟨48, 16, .RW, 0⟩] }  -- R429
  | .RDN_LOCAL_EVENTS => { block := .LOCAL, off := 0x10080008, wide := false, fields := [⟨0, 1, .W1C, 0⟩, ⟨1, 1, .W1C, 0⟩, ⟨2, 1, .W1C, 0⟩, ⟨3, 1, .W1C, 0⟩, ⟨4, 1, .W1C, 0⟩, ⟨5, 1, .W1C, 0⟩, ⟨6, 1, .W1C, 0⟩, ⟨7, 1, .W1C, 0⟩, ⟨8, 1, .W1C, 0⟩, ⟨9, 1, .W1C, 0⟩, ⟨10, 1, .W1C, 0⟩, ⟨11, 1, .W1C, 0⟩, ⟨12, 1, .W1C, 0⟩] }  -- R429
  | .RDN_LOCAL_RX_CFG => { block := .LOCAL, off := 0x10080010, wide := true, fields := [⟨0, 30, .RW, 0⟩, ⟨32, 4, .RW, 6⟩, ⟨36, 1, .RW, 0⟩] }  -- R430
  | .RDN_LOCAL_TX_CFG => { block := .LOCAL, off := 0x10080020, wide := true, fields := [⟨0, 30, .RW, 0⟩, ⟨32, 4, .RW, 6⟩, ⟨36, 1, .RW, 0⟩] }  -- R430
  | .RDN_LOCAL_RX_PTR => { block := .LOCAL, off := 0x10080018, wide := false, fields := [⟨0, 16, .RO, 0⟩, ⟨16, 16, .RW, 0⟩] }  -- R430
  | .RDN_LOCAL_TX_PTR => { block := .LOCAL, off := 0x10080028, wide := false, fields := [⟨0, 16, .RW, 0⟩, ⟨16, 16, .RO, 0⟩] }  -- R430
  | .RDN_CFG => { block := .RDN, off := 0x0, wide := true, fields := [⟨0, 1, .RW, 0⟩, ⟨1, 15, .RW, 0⟩, ⟨16, 10, .RW, 0⟩, ⟨26, 16, .RW, 0⟩, ⟨42, 1, .RW, 0⟩, ⟨43, 2, .RW, 0⟩] }  -- R431
  | .RDN_BILLING => { block := .RDN, off := 0x100, stride := 0x8, count := 20, wide := true, fields := [⟨0, 16, .RWV, 0⟩, ⟨16, 1, .RO, 0⟩, ⟨17, 2, .RO, 0⟩, ⟨19, 1, .RO, 0⟩, ⟨20, 1, .RO, 0⟩] }  -- R431
  | .RDN_CLAIM => { block := .RDN, off := 0x200, wide := false, fields := [⟨0, 16, .WO, 0⟩, ⟨16, 2, .WO, 0⟩] }  -- R431
  | .RDN_KICK => { block := .RDN, off := 0x208, wide := false, fields := [⟨0, 1, .WO, 0⟩] }  -- R431
  | .RDN_REHEARSAL => { block := .RDN, off := 0x210, wide := false, fields := [⟨0, 1, .W1S, 0⟩, ⟨1, 1, .W1S, 0⟩, ⟨2, 2, .RO, 0⟩, ⟨4, 5, .RO, 0⟩] }  -- R431
  | .RDN_STATUS => { block := .RDN, off := 0x218, wide := true, fields := [⟨0, 10, .RO, 0⟩, ⟨16, 10, .RO, 0⟩, ⟨32, 8, .RO, 0⟩] }  -- R431
  | .RDN_PROBE => { block := .RDN, off := 0x220, wide := false, fields := [⟨0, 1, .W1S, 0⟩] }  -- R431
  | .RDN_PROBE_STATUS => { block := .RDN, off := 0x228, wide := false, fields := [⟨0, 6, .RO, 0⟩, ⟨6, 1, .RO, 0⟩] }  -- R431
  | .RDN_REFUSED_LAST => { block := .RDN, off := 0x230, wide := true, fields := [⟨0, 32, .RO, 0⟩, ⟨32, 16, .RO, 0⟩, ⟨48, 3, .RO, 0⟩, ⟨63, 1, .W1C, 0⟩] }  -- R431
  | .STK_CFG => { block := .STK, off := 0x0, wide := false, fields := [⟨0, 2, .RW, 2⟩, ⟨2, 1, .RW, 1⟩, ⟨16, 16, .RW, 100⟩] }  -- R446
  | .STK_STATUS => { block := .STK, off := 0x8, wide := true, fields := [⟨0, 3, .RO, 0⟩, ⟨4, 4, .RO, 0⟩, ⟨8, 3, .RO, 0⟩, ⟨11, 3, .RO, 0⟩, ⟨14, 1, .RO, 0⟩, ⟨16, 8, .RO, 0⟩, ⟨32, 16, .RWV, 0⟩, ⟨48, 16, .RO, 0⟩] }  -- R446
  | .STK_SCENE => { block := .STK, off := 0x10, wide := false, fields := [⟨0, 16, .RW, 0⟩] }  -- R446
  | .STK_TIME_OFFSET => { block := .STK, off := 0x18, wide := true, fields := [⟨0, 64, .RO, 0⟩] }  -- R446
  | .STK_RX_CFG => { block := .STK, off := 0x20, wide := true, fields := [⟨0, 30, .RW, 0⟩, ⟨32, 4, .RW, 6⟩, ⟨36, 1, .RW, 0⟩] }  -- R446
  | .STK_RX_PTR => { block := .STK, off := 0x28, wide := false, fields := [⟨0, 16, .RO, 0⟩, ⟨16, 16, .RW, 0⟩] }  -- R446
  | .STK_TX_CMD => { block := .STK, off := 0x30, wide := true, fields := [⟨0, 30, .WO, 0⟩, ⟨32, 14, .WO, 0⟩, ⟨48, 8, .WO, 0⟩, ⟨56, 4, .WO, 0⟩, ⟨60, 1, .RO, 0⟩] }  -- R446
  | .STK_MEMBER => { block := .STK, off := 0x100, stride := 0x8, count := 8, wide := true, fields := [⟨0, 16, .RO, 0⟩, ⟨16, 3, .RO, 0⟩, ⟨19, 1, .RO, 0⟩, ⟨20, 2, .RO, 0⟩, ⟨22, 6, .RO, 0⟩] }  -- R446
  | .STK_LINK => { block := .STK, off := 0x1000, stride := 0x8, count := 256, wide := true, fields := [⟨0, 1, .RO, 0⟩, ⟨1, 1, .RO, 0⟩, ⟨2, 1, .RO, 0⟩, ⟨3, 2, .RO, 0⟩, ⟨5, 3, .RO, 0⟩, ⟨32, 32, .RO, 0⟩] }  -- R446
  | .GLT_CLOCK_STATUS => { block := .GLT, off := 0x10, wide := false, slow := true, fields := [⟨0, 1, .RO, 0⟩, ⟨1, 1, .RO, 0⟩, ⟨2, 1, .RO, 0⟩, ⟨3, 1, .RO, 0⟩, ⟨8, 16, .RO, 0⟩, ⟨24, 1, .RO, 0⟩] }  -- R457
  | .GLT_SENSE => { block := .GLT, off := 0x18, wide := false, slow := true, fields := [⟨0, 1, .RO, 0⟩, ⟨1, 1, .RO, 0⟩, ⟨2, 1, .RO, 0⟩] }  -- R457
  | .PWR_CMD => { block := .PWR, off := 0x10, wide := false, slow := true, fields := [⟨0, 6, .WO, 0⟩, ⟨6, 2, .WO, 0⟩] }  -- R457
  | .PWR_DOMAIN_CTRL => { block := .PWR, off := 0x100, stride := 0x4, count := 40, wide := false, slow := true, fields := [⟨0, 1, .RWV, 0⟩, ⟨1, 1, .RW, 0⟩, ⟨16, 16, .RW, 0⟩] }  -- R457
  | .PWR_DOMAIN_STATUS => { block := .PWR, off := 0x200, stride := 0x4, count := 40, wide := false, slow := true, fields := [⟨0, 3, .RO, 0⟩, ⟨8, 8, .RO, 0⟩, ⟨16, 16, .RO, 0⟩] }  -- R457
  | .FLT_STATUS => { block := .FLT, off := 0x0, wide := false, fields := [⟨0, 9, .RO, 0⟩, ⟨12, 12, .RO, 0⟩, ⟨24, 4, .RO, 0⟩] }  -- R471
  | .FLT_ALARM => { block := .FLT, off := 0x8, wide := false, fields := [⟨0, 1, .W1C, 0⟩, ⟨1, 1, .W1C, 0⟩, ⟨2, 1, .W1C, 0⟩, ⟨3, 1, .W1C, 0⟩, ⟨4, 1, .W1C, 0⟩, ⟨5, 1, .W1C, 0⟩, ⟨6, 1, .W1C, 0⟩, ⟨7, 1, .W1C, 0⟩, ⟨8, 1, .W1C, 0⟩, ⟨9, 1, .W1C, 0⟩] }  -- R471
  | .FLT_ALARM_MASK => { block := .FLT, off := 0xC, wide := false, fields := [⟨0, 1, .RW, 0⟩, ⟨1, 1, .RW, 0⟩, ⟨2, 1, .RW, 0⟩, ⟨3, 1, .RW, 0⟩, ⟨4, 1, .RW, 0⟩, ⟨5, 1, .RW, 0⟩, ⟨6, 1, .RW, 0⟩, ⟨7, 1, .RW, 0⟩, ⟨8, 1, .RW, 0⟩, ⟨9, 1, .RW, 0⟩] }  -- R471
  | .FLT_DEVICE_CTRL => { block := .FLT, off := 0x10, wide := false, fields := [⟨0, 1, .RWV, 0⟩] }  -- R471
  | .FLT_RECORD => { block := .FLT, off := 0x100, stride := 0x8, count := 4, wide := true, fields := [⟨0, 64, .RO, 0⟩] }  -- R471
  | .FLT_RECORD_POP => { block := .FLT, off := 0x120, wide := false, fields := [⟨0, 1, .WO, 0⟩] }  -- R471
  | .GLT_SUPPLY_STATUS => { block := .GLT, off := 0x20, wide := false, slow := true, fields := [⟨0, 12, .RO, 0⟩, ⟨16, 12, .W1C, 0⟩] }  -- R491
  | .GLT_THERMAL => { block := .GLT, off := 0x28, wide := false, slow := true, fields := [⟨0, 8, .RO, 0⟩, ⟨8, 1, .RO, 0⟩, ⟨9, 1, .W1C, 0⟩, ⟨16, 5, .RO, 0⟩] }  -- R491
  | .PRT_RX_FRAMES => { block := .PRT, off := 0x100, stride := 0x1000, count := 256, wide := true, fields := [⟨0, 64, .RC, 0⟩] }  -- R117
  | .PRT_TX_TAIL_MARKED => { block := .PRT, off := 0x140, stride := 0x1000, count := 256, wide := true, fields := [⟨0, 64, .RC, 0⟩] }  -- R117
  | .PRT_RX_OCTETS => { block := .PRT, off := 0x108, stride := 0x1000, count := 256, wide := true, fields := [⟨0, 64, .RC, 0⟩] }  -- R117
  | .PRT_PAUSE_RX => { block := .PRT, off := 0x148, stride := 0x1000, count := 256, wide := true, fields := [⟨0, 64, .RC, 0⟩] }  -- R117
  | .PRT_RX_FCS_ERROR => { block := .PRT, off := 0x110, stride := 0x1000, count := 256, wide := true, fields := [⟨0, 64, .RC, 0⟩] }  -- R117
  | .PRT_PAUSE_TX => { block := .PRT, off := 0x150, stride := 0x1000, count := 256, wide := true, fields := [⟨0, 64, .RC, 0⟩] }  -- R117
  | .PRT_RX_RUNT => { block := .PRT, off := 0x118, stride := 0x1000, count := 256, wide := true, fields := [⟨0, 64, .RC, 0⟩] }  -- R117
  | .PRT_FEC_CORRECTED => { block := .PRT, off := 0x158, stride := 0x1000, count := 256, wide := true, fields := [⟨0, 64, .RC, 0⟩] }  -- R117
  | .PRT_RX_OVERSIZE => { block := .PRT, off := 0x120, stride := 0x1000, count := 256, wide := true, fields := [⟨0, 64, .RC, 0⟩] }  -- R117
  | .PRT_FEC_UNCORRECTABLE => { block := .PRT, off := 0x160, stride := 0x1000, count := 256, wide := true, fields := [⟨0, 64, .RC, 0⟩] }  -- R117
  | .PRT_LB_DROP => { block := .PRT, off := 0x128, stride := 0x1000, count := 256, wide := true, fields := [⟨0, 64, .RC, 0⟩] }  -- R117
  | .PRT_TS_LOST => { block := .PRT, off := 0x168, stride := 0x1000, count := 256, wide := true, fields := [⟨0, 64, .RC, 0⟩] }  -- R117
  | .PRT_TX_FRAMES => { block := .PRT, off := 0x130, stride := 0x1000, count := 256, wide := true, fields := [⟨0, 64, .RC, 0⟩] }  -- R117
  | .PRT_RX_CSUM_BAD => { block := .PRT, off := 0x170, stride := 0x1000, count := 256, wide := true, fields := [⟨0, 64, .RC, 0⟩] }  -- R117
  | .PRT_TX_OCTETS => { block := .PRT, off := 0x138, stride := 0x1000, count := 256, wide := true, fields := [⟨0, 64, .RC, 0⟩] }  -- R117
  | .MGT_SEG_TX_FRAMES => { block := .MGT, off := 0x110, stride := 0x100, count := 2, wide := false, slow := true, fields := [⟨0, 32, .RC, 0⟩] }  -- R118
  | .MGT_SEG_EXCESS_COLLISIONS => { block := .MGT, off := 0x120, stride := 0x100, count := 2, wide := false, slow := true, fields := [⟨0, 32, .RC, 0⟩] }  -- R118
  | .MGT_SEG_RX_FRAMES => { block := .MGT, off := 0x114, stride := 0x100, count := 2, wide := false, slow := true, fields := [⟨0, 32, .RC, 0⟩] }  -- R118
  | .MGT_SEG_DUP_DROPPED => { block := .MGT, off := 0x124, stride := 0x100, count := 2, wide := false, slow := true, fields := [⟨0, 32, .RC, 0⟩] }  -- R118
  | .MGT_SEG_COLLISIONS => { block := .MGT, off := 0x118, stride := 0x100, count := 2, wide := false, slow := true, fields := [⟨0, 32, .RC, 0⟩] }  -- R118
  | .MGT_SEG_BAD_FRAMES => { block := .MGT, off := 0x128, stride := 0x100, count := 2, wide := false, slow := true, fields := [⟨0, 32, .RC, 0⟩] }  -- R118
  | .MGT_SEG_LATE_COLLISIONS => { block := .MGT, off := 0x11C, stride := 0x100, count := 2, wide := false, slow := true, fields := [⟨0, 32, .RC, 0⟩] }  -- R118
  | .CLS_PIPE_FRAMES => { block := .CLS, off := 0x5000, stride := 0x40, count := 22, wide := true, fields := [⟨0, 64, .RC, 0⟩] }  -- R140
  | .CLS_PIPE_SLOW => { block := .CLS, off := 0x5008, stride := 0x40, count := 22, wide := true, fields := [⟨0, 64, .RC, 0⟩] }  -- R140
  | .CLS_PIPE_SLOW_DROP => { block := .CLS, off := 0x5010, stride := 0x40, count := 22, wide := true, fields := [⟨0, 64, .RC, 0⟩] }  -- R140
  | .CLS_PIPE_PARSE_ERR => { block := .CLS, off := 0x5018, stride := 0x40, count := 22, wide := true, fields := [⟨0, 64, .RC, 0⟩] }  -- R140
  | .CLS_PIPE_CHAIN_CUT => { block := .CLS, off := 0x5020, stride := 0x40, count := 22, wide := true, fields := [⟨0, 64, .RC, 0⟩] }  -- R140
  | .CLS_PIPE_NO_FORWARD => { block := .CLS, off := 0x5028, stride := 0x40, count := 22, wide := true, fields := [⟨0, 64, .RC, 0⟩] }  -- R140
  | .TBL_LEARNED => { block := .TBL, off := 0xA00, wide := true, fields := [⟨0, 64, .RC, 0⟩] }  -- R163
  | .TBL_EVICTIONS => { block := .TBL, off := 0xA28, wide := true, fields := [⟨0, 64, .RC, 0⟩] }  -- R163
  | .TBL_LEARN_LIMITED => { block := .TBL, off := 0xA08, wide := true, fields := [⟨0, 64, .RC, 0⟩] }  -- R163
  | .TBL_EVICT_LOST => { block := .TBL, off := 0xA30, wide := true, fields := [⟨0, 64, .RC, 0⟩] }  -- R163
  | .TBL_LEARN_FULL => { block := .TBL, off := 0xA10, wide := true, fields := [⟨0, 64, .RC, 0⟩] }  -- R163
  | .TBL_FLOW_COLD => { block := .TBL, off := 0xA38, wide := true, fields := [⟨0, 64, .RC, 0⟩] }  -- R163
  | .TBL_MOVES => { block := .TBL, off := 0xA18, wide := true, fields := [⟨0, 64, .RC, 0⟩] }  -- R163
  | .TBL_FLOW_OVERRATE => { block := .TBL, off := 0xA40, wide := true, fields := [⟨0, 64, .RC, 0⟩] }  -- R163
  | .TBL_AGED => { block := .TBL, off := 0xA20, wide := true, fields := [⟨0, 64, .RC, 0⟩] }  -- R163
  | .TBL_RELEASED => { block := .TBL, off := 0xA48, wide := true, fields := [⟨0, 64, .RC, 0⟩] }  -- R163
  | .SWC_TAIL_DROP => { block := .SWC, off := 0x200, wide := true, fields := [⟨0, 64, .RC, 0⟩] }  -- R185
  | .SWC_ECN_MARKED => { block := .SWC, off := 0x240, wide := true, fields := [⟨0, 64, .RC, 0⟩] }  -- R185
  | .SWC_TAIL_STOMPED => { block := .SWC, off := 0x208, wide := true, fields := [⟨0, 64, .RC, 0⟩] }  -- R185
  | .SWC_NO_MEMBER => { block := .SWC, off := 0x248, wide := true, fields := [⟨0, 64, .RC, 0⟩] }  -- R185
  | .SWC_TAIL_HOST => { block := .SWC, off := 0x210, wide := true, fields := [⟨0, 64, .RC, 0⟩] }  -- R185
  | .SWC_REPINNED => { block := .SWC, off := 0x250, wide := true, fields := [⟨0, 64, .RC, 0⟩] }  -- R185
  | .SWC_QUEUE_DROP => { block := .SWC, off := 0x218, wide := true, fields := [⟨0, 64, .RC, 0⟩] }  -- R185
  | .SWC_LINK_DOWN_DROP => { block := .SWC, off := 0x258, wide := true, fields := [⟨0, 64, .RC, 0⟩] }  -- R185
  | .SWC_SLICE_DROP => { block := .SWC, off := 0x220, wide := true, fields := [⟨0, 64, .RC, 0⟩] }  -- R185
  | .SWC_REWRITE_MISS => { block := .SWC, off := 0x260, wide := true, fields := [⟨0, 64, .RC, 0⟩] }  -- R185
  | .SWC_LOSSLESS_DROP => { block := .SWC, off := 0x228, wide := true, fields := [⟨0, 64, .RC, 0⟩] }  -- R185
  | .SWC_TTL_EXPIRED => { block := .SWC, off := 0x268, wide := true, fields := [⟨0, 64, .RC, 0⟩] }  -- R185
  | .SWC_POOL_EXHAUSTED => { block := .SWC, off := 0x230, wide := true, fields := [⟨0, 64, .RC, 0⟩] }  -- R185
  | .SWC_SPOT_LOST => { block := .SWC, off := 0x270, wide := true, fields := [⟨0, 64, .RC, 0⟩] }  -- R185
  | .SWC_BAD_TARGET => { block := .SWC, off := 0x238, wide := true, fields := [⟨0, 64, .RC, 0⟩] }  -- R185
  | .SWC_MIRROR_DROP => { block := .SWC, off := 0x278, wide := true, fields := [⟨0, 64, .RC, 0⟩] }  -- R185
  | .SWC_SLICE_MISMATCH => { block := .SWC, off := 0x280, wide := true, fields := [⟨0, 64, .RC, 0⟩] }  -- R185
  | .TMS_POLICE_DROP => { block := .TMS, off := 0x100, wide := true, fields := [⟨0, 64, .RC, 0⟩] }  -- R208
  | .TMS_TT_OVERSIZE => { block := .TMS, off := 0x110, wide := true, fields := [⟨0, 64, .RC, 0⟩] }  -- R208
  | .TMS_POLICE_RED_PASSED => { block := .TMS, off := 0x108, wide := true, fields := [⟨0, 64, .RC, 0⟩] }  -- R208
  | .TMS_TT_OVERRUN => { block := .TMS, off := 0x118, wide := true, fields := [⟨0, 64, .RC, 0⟩] }  -- R208
  | .OFL_BAD_TARGET => { block := .OFL, off := 0x400, wide := true, fields := [⟨0, 64, .RC, 0⟩] }  -- R233
  | .OFL_ESP_TRAILER => { block := .OFL, off := 0x450, wide := true, fields := [⟨0, 64, .RC, 0⟩] }  -- R233
  | .OFL_WRONG_DIE => { block := .OFL, off := 0x408, wide := true, fields := [⟨0, 64, .RC, 0⟩] }  -- R233
  | .OFL_ESP_DUMMY => { block := .OFL, off := 0x458, wide := true, fields := [⟨0, 64, .RC, 0⟩] }  -- R233
  | .OFL_PASS_LIMIT => { block := .OFL, off := 0x410, wide := true, fields := [⟨0, 64, .RC, 0⟩] }  -- R233
  | .OFL_NATT_KEEPALIVE => { block := .OFL, off := 0x460, wide := true, fields := [⟨0, 64, .RC, 0⟩] }  -- R233
  | .OFL_CTX_INACTIVE => { block := .OFL, off := 0x418, wide := true, fields := [⟨0, 64, .RC, 0⟩] }  -- R233
  | .OFL_SEQ_EXHAUSTED => { block := .OFL, off := 0x468, wide := true, fields := [⟨0, 64, .RC, 0⟩] }  -- R233
  | .OFL_UNSUPPORTED_UNIT => { block := .OFL, off := 0x420, wide := true, fields := [⟨0, 64, .RC, 0⟩] }  -- R233
  | .OFL_ROLLS => { block := .OFL, off := 0x470, wide := true, fields := [⟨0, 64, .RC, 0⟩] }  -- R233
  | .OFL_TOO_BIG => { block := .OFL, off := 0x428, wide := true, fields := [⟨0, 64, .RC, 0⟩] }  -- R233
  | .OFL_CONN_NOT_READY => { block := .OFL, off := 0x478, wide := true, fields := [⟨0, 64, .RC, 0⟩] }  -- R233
  | .OFL_DECAP_MISMATCH => { block := .OFL, off := 0x430, wide := true, fields := [⟨0, 64, .RC, 0⟩] }  -- R233
  | .OFL_STALE_RESULT => { block := .OFL, off := 0x480, wide := true, fields := [⟨0, 64, .RC, 0⟩] }  -- R233
  | .OFL_ECN_DROP => { block := .OFL, off := 0x438, wide := true, fields := [⟨0, 64, .RC, 0⟩] }  -- R233
  | .OFL_EVENT_LOST => { block := .OFL, off := 0x488, wide := true, fields := [⟨0, 64, .RC, 0⟩] }  -- R233
  | .OFL_ESP_REPLAY => { block := .OFL, off := 0x440, wide := true, fields := [⟨0, 64, .RC, 0⟩] }  -- R233
  | .OFL_CNP_RX => { block := .OFL, off := 0x490, wide := true, fields := [⟨0, 64, .RC, 0⟩] }  -- R233
  | .OFL_ESP_AUTH_FAIL => { block := .OFL, off := 0x448, wide := true, fields := [⟨0, 64, .RC, 0⟩] }  -- R233
  | .CPH_MESSAGES => { block := .CPH, off := 0x200, wide := true, fields := [⟨0, 64, .RC, 0⟩] }  -- R258
  | .CPH_BYTES => { block := .CPH, off := 0x208, wide := true, fields := [⟨0, 64, .RC, 0⟩] }  -- R258
  | .CPH_AUTH_FAIL => { block := .CPH, off := 0x210, wide := true, fields := [⟨0, 64, .RC, 0⟩] }  -- R258
  | .CPH_LENGTH => { block := .CPH, off := 0x218, wide := true, fields := [⟨0, 64, .RC, 0⟩] }  -- R258
  | .CPH_KEY_EXHAUSTED => { block := .CPH, off := 0x220, wide := true, fields := [⟨0, 64, .RC, 0⟩] }  -- R258
  | .CPH_SUCCESSIONS => { block := .CPH, off := 0x228, wide := true, fields := [⟨0, 64, .RC, 0⟩] }  -- R258
  | .CPH_ENGINE_FAULTS => { block := .CPH, off := 0x230, wide := true, fields := [⟨0, 64, .RC, 0⟩] }  -- R258
  | .CPH_CKPT_STALLS => { block := .CPH, off := 0x238, wide := true, fields := [⟨0, 64, .RC, 0⟩] }  -- R258
  | .CPH_CTX_LOADS => { block := .CPH, off := 0x240, wide := true, fields := [⟨0, 64, .RC, 0⟩] }  -- R258
  | .CPH_STALE_DISCARD => { block := .CPH, off := 0x248, wide := true, fields := [⟨0, 64, .RC, 0⟩] }  -- R258
  | .HEP_CPL_TIMEOUT => { block := .HEP, off := 0x400, stride := 0x10000, count := 16, stride2 := 0x80, count2 := 4, wide := true, fields := [⟨0, 64, .RC, 0⟩] }  -- R313
  | .HEP_UNEXPECTED_CPL => { block := .HEP, off := 0x408, stride := 0x10000, count := 16, stride2 := 0x80, count2 := 4, wide := true, fields := [⟨0, 64, .RC, 0⟩] }  -- R313
  | .HEP_POISONED_RX => { block := .HEP, off := 0x410, stride := 0x10000, count := 16, stride2 := 0x80, count2 := 4, wide := true, fields := [⟨0, 64, .RC, 0⟩] }  -- R313
  | .HEP_UR_RX => { block := .HEP, off := 0x418, stride := 0x10000, count := 16, stride2 := 0x80, count2 := 4, wide := true, fields := [⟨0, 64, .RC, 0⟩] }  -- R313
  | .HEP_UR_SENT => { block := .HEP, off := 0x420, stride := 0x10000, count := 16, stride2 := 0x80, count2 := 4, wide := true, fields := [⟨0, 64, .RC, 0⟩] }  -- R313
  | .HEP_IDE_DROP => { block := .HEP, off := 0x428, stride := 0x10000, count := 16, stride2 := 0x80, count2 := 4, wide := true, fields := [⟨0, 64, .RC, 0⟩] }  -- R313
  | .HEP_RRS_SENT => { block := .HEP, off := 0x430, stride := 0x10000, count := 16, stride2 := 0x80, count2 := 4, wide := true, fields := [⟨0, 64, .RC, 0⟩] }  -- R313
  | .HEP_FLR => { block := .HEP, off := 0x438, stride := 0x10000, count := 16, stride2 := 0x80, count2 := 4, wide := true, fields := [⟨0, 64, .RC, 0⟩] }  -- R313
  | .SLC_STALE_DISCARD => { block := .SLC, off := 0x200000, stride := 0x8, count := 4096, wide := true, fields := [⟨0, 64, .RC, 0⟩] }  -- R332
  | .SLC_IDLE_DROP => { block := .SLC, off := 0x220000, stride := 0x8, count := 4096, wide := true, fields := [⟨0, 64, .RC, 0⟩] }  -- R332
  | .SLC_IRQ_SUPPRESSED => { block := .SLC, off := 0x240000, stride := 0x8, count := 4096, wide := true, fields := [⟨0, 64, .RC, 0⟩] }  -- R332
  | .QRG_DB_BAD => { block := .QRG, off := 0x100, wide := true, fields := [⟨0, 64, .RC, 0⟩] }  -- R357
  | .QRG_DB_DROP => { block := .QRG, off := 0x108, wide := true, fields := [⟨0, 64, .RC, 0⟩] }  -- R357
  | .QRG_INVAL_LATE => { block := .QRG, off := 0x110, wide := true, fields := [⟨0, 64, .RC, 0⟩] }  -- R357
  | .QRG_RX_NO_QUEUE => { block := .QRG, off := 0x118, wide := true, fields := [⟨0, 64, .RC, 0⟩] }  -- R357
  | .QRG_RX_NO_BUFFER => { block := .QRG, off := 0x120, wide := true, fields := [⟨0, 64, .RC, 0⟩] }  -- R357
  | .QRG_CQ_STALL => { block := .QRG, off := 0x128, wide := true, fields := [⟨0, 64, .RC, 0⟩] }  -- R357
  | .QRG_CPL_DISCARD => { block := .QRG, off := 0x130, wide := true, fields := [⟨0, 64, .RC, 0⟩] }  -- R357
  | .QRG_MALFORMED => { block := .QRG, off := 0x138, wide := true, fields := [⟨0, 64, .RC, 0⟩] }  -- R357
  | .BMV_DESC_DONE => { block := .BMV, off := 0x1100, wide := true, fields := [⟨0, 64, .RC, 0⟩] }  -- R373
  | .BMV_BYTES => { block := .BMV, off := 0x1108, wide := true, fields := [⟨0, 64, .RC, 0⟩] }  -- R373
  | .BMV_RETRIES => { block := .BMV, off := 0x1110, wide := true, fields := [⟨0, 64, .RC, 0⟩] }  -- R373
  | .BMV_HOST_ABORT => { block := .BMV, off := 0x1118, wide := true, fields := [⟨0, 64, .RC, 0⟩] }  -- R373
  | .BMV_MALFORMED => { block := .BMV, off := 0x1120, wide := true, fields := [⟨0, 64, .RC, 0⟩] }  -- R373
  | .BMV_APPEND_EMPTY => { block := .BMV, off := 0x1128, wide := true, fields := [⟨0, 64, .RC, 0⟩] }  -- R373
  | .BMV_DB_IGNORED => { block := .BMV, off := 0x1130, wide := true, fields := [⟨0, 64, .RC, 0⟩] }  -- R373
  | .BMV_REQ_LOST => { block := .BMV, off := 0x1138, wide := true, fields := [⟨0, 64, .RC, 0⟩] }  -- R373
  | .TRP_SLOW_DELIVERED => { block := .TRP, off := 0x8000, stride := 0x40000, count := 8, wide := true, fields := [⟨0, 64, .RC, 0⟩] }  -- R400
  | .TRP_SPOT_DELIVERED => { block := .TRP, off := 0x8008, stride := 0x40000, count := 8, wide := true, fields := [⟨0, 64, .RC, 0⟩] }  -- R400
  | .TRP_DQ_FULL => { block := .TRP, off := 0x8010, stride := 0x40000, count := 8, wide := true, fields := [⟨0, 64, .RC, 0⟩] }  -- R400
  | .TRP_DQ_TOO_BIG => { block := .TRP, off := 0x8018, stride := 0x40000, count := 8, wide := true, fields := [⟨0, 64, .RC, 0⟩] }  -- R400
  | .TRP_DQ_TAIL_DROP => { block := .TRP, off := 0x8020, stride := 0x40000, count := 8, wide := true, fields := [⟨0, 64, .RC, 0⟩] }  -- R400
  | .TRP_THREAD_FAULTS => { block := .TRP, off := 0x8028, stride := 0x40000, count := 8, wide := true, fields := [⟨0, 64, .RC, 0⟩] }  -- R400
  | .TRP_CORE_RESETS => { block := .TRP, off := 0x8030, stride := 0x40000, count := 8, wide := true, fields := [⟨0, 64, .RC, 0⟩] }  -- R400
  | .TRP_STALLS => { block := .TRP, off := 0x8038, stride := 0x40000, count := 8, wide := true, fields := [⟨0, 64, .RC, 0⟩] }  -- R400
  | .CBD_COLLISIONS => { block := .CBD, off := 0xA0000, wide := true, fields := [⟨0, 64, .RC, 0⟩] }  -- R409
  | .CBD_PEER_DROP => { block := .CBD, off := 0xA0008, wide := true, fields := [⟨0, 64, .RC, 0⟩] }  -- R409
  | .CBD_XFER_ABANDONED => { block := .CBD, off := 0xA0010, wide := true, fields := [⟨0, 64, .RC, 0⟩] }  -- R409
  | .RDN_GATE_REFUSED => { block := .RDN, off := 0x400, stride := 0x8, count := 6, wide := true, fields := [⟨0, 64, .RC, 0⟩] }  -- R432
  | .RDN_UNDERSTUDY_DROP => { block := .RDN, off := 0x440, stride := 0x8, count := 1, wide := true, fields := [⟨0, 64, .RC, 0⟩] }  -- R432
  | .RDN_SWITCHOVERS => { block := .RDN, off := 0x448, stride := 0x8, count := 1, wide := true, fields := [⟨0, 64, .RC, 0⟩] }  -- R432
  | .RDN_REHEARSALS => { block := .RDN, off := 0x450, stride := 0x8, count := 1, wide := true, fields := [⟨0, 64, .RC, 0⟩] }  -- R432
  | .RDN_REHEARSAL_FAILED => { block := .RDN, off := 0x458, stride := 0x8, count := 1, wide := true, fields := [⟨0, 64, .RC, 0⟩] }  -- R432
  | .RDN_REHEARSAL_DEFERRED => { block := .RDN, off := 0x460, stride := 0x8, count := 1, wide := true, fields := [⟨0, 64, .RC, 0⟩] }  -- R432
  | .RDN_PATH_DEGRADED => { block := .RDN, off := 0x468, stride := 0x8, count := 1, wide := true, fields := [⟨0, 64, .RC, 0⟩] }  -- R432
  | .RDN_BILLING_EQUAL => { block := .RDN, off := 0x470, stride := 0x8, count := 1, wide := true, fields := [⟨0, 64, .RC, 0⟩] }  -- R432
  | .RDN_RENORMALISED => { block := .RDN, off := 0x478, stride := 0x8, count := 1, wide := true, fields := [⟨0, 64, .RC, 0⟩] }  -- R432
  | .RDN_CPC_RX_LOST => { block := .RDN, off := 0x480, stride := 0x8, count := 1, wide := true, fields := [⟨0, 64, .RC, 0⟩] }  -- R432
  | .RDN_CPC_TX_BAD => { block := .RDN, off := 0x488, stride := 0x8, count := 1, wide := true, fields := [⟨0, 64, .RC, 0⟩] }  -- R432
  | .STK_BAD_FRAMES => { block := .STK, off := 0x200, wide := true, fields := [⟨0, 64, .RC, 0⟩] }  -- R447
  | .STK_VERSION_REFUSED => { block := .STK, off := 0x208, wide := true, fields := [⟨0, 64, .RC, 0⟩] }  -- R447
  | .STK_MASTER_CHANGES => { block := .STK, off := 0x210, wide := true, fields := [⟨0, 64, .RC, 0⟩] }  -- R447
  | .STK_TIME_STEPS => { block := .STK, off := 0x218, wide := true, fields := [⟨0, 64, .RC, 0⟩] }  -- R447
  | .STK_WINGS_ENTRIES => { block := .STK, off := 0x220, wide := true, fields := [⟨0, 64, .RC, 0⟩] }  -- R447
  | .STK_RX_LOST => { block := .STK, off := 0x228, wide := true, fields := [⟨0, 64, .RC, 0⟩] }  -- R447
  | .PWR_WAKES => { block := .PWR, off := 0x300, stride := 0x4, count := 40, wide := false, slow := true, fields := [⟨0, 32, .RC, 0⟩] }  -- R458
  | .PWR_DRAIN_CANCELLED => { block := .PWR, off := 0x400, stride := 0x4, count := 40, wide := false, slow := true, fields := [⟨0, 32, .RC, 0⟩] }  -- R458
  | .PWR_DRAIN_REFUSED => { block := .PWR, off := 0x500, stride := 0x4, count := 40, wide := false, slow := true, fields := [⟨0, 32, .RC, 0⟩] }  -- R458
  | .FLT_VOTE_CORRECTED => { block := .FLT, off := 0x200, wide := true, fields := [⟨0, 64, .RC, 0⟩] }  -- R472
  | .FLT_CORRECTED => { block := .FLT, off := 0x208, wide := true, fields := [⟨0, 64, .RC, 0⟩] }  -- R472
  | .FLT_CONTAINED => { block := .FLT, off := 0x210, wide := true, fields := [⟨0, 64, .RC, 0⟩] }  -- R472
  | .FLT_FATAL => { block := .FLT, off := 0x218, wide := true, fields := [⟨0, 64, .RC, 0⟩] }  -- R472
  | .FLT_TRANSIENT => { block := .FLT, off := 0x220, wide := true, fields := [⟨0, 64, .RC, 0⟩] }  -- R472
  | .FLT_LASTING => { block := .FLT, off := 0x228, wide := true, fields := [⟨0, 64, .RC, 0⟩] }  -- R472
  | .FLT_TEST_SKIPPED => { block := .FLT, off := 0x230, wide := true, fields := [⟨0, 64, .RC, 0⟩] }  -- R472
  | .FLT_RECORD_LOST => { block := .FLT, off := 0x238, wide := true, fields := [⟨0, 64, .RC, 0⟩] }  -- R472
  | .TRP_SLOW_NO_CLUSTER => { block := .TRP, off := 0x200100, wide := true, fields := [⟨0, 64, .RC, 0⟩] }  -- R400
  | .CBD_SLOT_TAKE => { block := .CBD, off := 0x8, stride := 0x20, count := 9216, wide := true, fields := [⟨0, 32, .RO, 0⟩, ⟨32, 16, .RO, 0⟩, ⟨62, 1, .RO, 0⟩, ⟨63, 1, .RO, 0⟩] }  -- R403
  | .CBD_SLOT_PEEK => { block := .CBD, off := 0x10, stride := 0x20, count := 9216, wide := true, fields := [⟨0, 32, .RO, 0⟩, ⟨32, 16, .RO, 0⟩, ⟨62, 1, .RO, 0⟩, ⟨63, 1, .RO, 0⟩] }  -- R403
  | .FLT_SCOPE_PORT => { block := .FLT, off := 0x1000, stride := 0x4, count := 256, wide := false, fields := [⟨0, 1, .RWV, 0⟩, ⟨1, 1, .RO, 0⟩, ⟨2, 1, .RO, 0⟩, ⟨3, 1, .RO, 0⟩, ⟨4, 1, .W1S, 0⟩, ⟨8, 8, .RO, 0⟩] }  -- R471
  | .FLT_SCOPE_ENGINE => { block := .FLT, off := 0x1400, stride := 0x4, count := 16, wide := false, fields := [⟨0, 1, .RWV, 0⟩, ⟨1, 1, .RO, 0⟩, ⟨2, 1, .RO, 0⟩, ⟨3, 1, .RO, 0⟩, ⟨4, 1, .W1S, 0⟩, ⟨8, 8, .RO, 0⟩] }  -- R471
  | .FLT_SCOPE_HOST => { block := .FLT, off := 0x1440, stride := 0x4, count := 16, wide := false, fields := [⟨0, 1, .RWV, 0⟩, ⟨1, 1, .RO, 0⟩, ⟨2, 1, .RO, 0⟩, ⟨3, 1, .RO, 0⟩, ⟨4, 1, .W1S, 0⟩, ⟨8, 8, .RO, 0⟩] }  -- R471
  | .FLT_SCOPE_TROUPE => { block := .FLT, off := 0x1500, stride := 0x4, count := 128, wide := false, fields := [⟨0, 1, .RWV, 0⟩, ⟨1, 1, .RO, 0⟩, ⟨2, 1, .RO, 0⟩, ⟨3, 1, .RO, 0⟩, ⟨4, 1, .W1S, 0⟩, ⟨8, 8, .RO, 0⟩] }  -- R471
  | .FLT_SCOPE_SLICE => { block := .FLT, off := 0x2000, stride := 0x4, count := 4096, wide := false, fields := [⟨0, 1, .RWV, 0⟩, ⟨1, 1, .RO, 0⟩, ⟨2, 1, .RO, 0⟩, ⟨3, 1, .RO, 0⟩, ⟨4, 1, .W1S, 0⟩, ⟨8, 8, .RO, 0⟩] }  -- R471

/-- The registers of block SYS. -/
def regsOfSYS : List RegName :=
  [.SYS_DEVICE_STATE, .SYS_IMAGE_STATUS, .SYS_IMAGE_VERSION, .SYS_MIN_IMAGE_VERSION,
   .SYS_BOOT_NONCE, .SYS_STAGING, .SYS_AMEND_SEQUENCE, .SYS_PART_ID,
   .SYS_FAMILY, .SYS_SERIAL, .SYS_MAP_VERSION, .SYS_BOOT_ROM_VERSION,
   .SYS_CPC_FW_VERSION, .SYS_TROUPE_FW_VERSION, .SYS_PROTOCOLS, .SYS_SCRATCH,
   .SYS_BAD_ACCESS, .SYS_BAD_ACCESS_COUNT]

/-- The registers of block GLT. -/
def regsOfGLT : List RegName :=
  [.GLT_BRIDGE_STATUS, .GLT_BRIDGE_DROP_ADDR, .GLT_CLOCK_STATUS, .GLT_SENSE,
   .GLT_SUPPLY_STATUS, .GLT_THERMAL]

/-- The registers of block PWR. -/
def regsOfPWR : List RegName :=
  [.PWR_BRIDGE_STATUS, .PWR_BRIDGE_DROP_ADDR, .PWR_CMD, .PWR_DOMAIN_CTRL,
   .PWR_DOMAIN_STATUS, .PWR_WAKES, .PWR_DRAIN_CANCELLED, .PWR_DRAIN_REFUSED]

/-- The registers of block FLT. -/
def regsOfFLT : List RegName :=
  [.FLT_STATUS, .FLT_ALARM, .FLT_ALARM_MASK, .FLT_DEVICE_CTRL,
   .FLT_RECORD, .FLT_RECORD_POP, .FLT_VOTE_CORRECTED, .FLT_CORRECTED,
   .FLT_CONTAINED, .FLT_FATAL, .FLT_TRANSIENT, .FLT_LASTING,
   .FLT_TEST_SKIPPED, .FLT_RECORD_LOST, .FLT_SCOPE_PORT, .FLT_SCOPE_ENGINE,
   .FLT_SCOPE_HOST, .FLT_SCOPE_TROUPE, .FLT_SCOPE_SLICE]

/-- The registers of block RDN. -/
def regsOfRDN : List RegName :=
  [.RDN_CFG, .RDN_BILLING, .RDN_CLAIM, .RDN_KICK,
   .RDN_REHEARSAL, .RDN_STATUS, .RDN_PROBE, .RDN_PROBE_STATUS,
   .RDN_REFUSED_LAST, .RDN_GATE_REFUSED, .RDN_UNDERSTUDY_DROP, .RDN_SWITCHOVERS,
   .RDN_REHEARSALS, .RDN_REHEARSAL_FAILED, .RDN_REHEARSAL_DEFERRED, .RDN_PATH_DEGRADED,
   .RDN_BILLING_EQUAL, .RDN_RENORMALISED, .RDN_CPC_RX_LOST, .RDN_CPC_TX_BAD]

/-- The registers of block STK. -/
def regsOfSTK : List RegName :=
  [.STK_CFG, .STK_STATUS, .STK_SCENE, .STK_TIME_OFFSET,
   .STK_RX_CFG, .STK_RX_PTR, .STK_TX_CMD, .STK_MEMBER,
   .STK_LINK, .STK_BAD_FRAMES, .STK_VERSION_REFUSED, .STK_MASTER_CHANGES,
   .STK_TIME_STEPS, .STK_WINGS_ENTRIES, .STK_RX_LOST]

/-- The registers of block PRT. -/
def regsOfPRT : List RegName :=
  [.PRT_CONFIG, .PRT_STATUS, .PRT_CLASS_MAP, .PRT_PAUSE_TIME,
   .PRT_CSUM_CTRL, .PRT_TS_LATENCY, .PRT_PFC_WM, .PRT_TX_TS_TIME,
   .PRT_TX_TS_TAG, .PRT_RX_FRAMES, .PRT_TX_TAIL_MARKED, .PRT_RX_OCTETS,
   .PRT_PAUSE_RX, .PRT_RX_FCS_ERROR, .PRT_PAUSE_TX, .PRT_RX_RUNT,
   .PRT_FEC_CORRECTED, .PRT_RX_OVERSIZE, .PRT_FEC_UNCORRECTABLE, .PRT_LB_DROP,
   .PRT_TS_LOST, .PRT_TX_FRAMES, .PRT_RX_CSUM_BAD, .PRT_TX_OCTETS]

/-- The registers of block OPT. -/
def regsOfOPT : List RegName :=
  [.OPT_BRIDGE_STATUS, .OPT_BRIDGE_DROP_ADDR, .OPT_ENGINE_PLAN, .OPT_ENGINE_STATUS,
   .OPT_LASER_CTRL, .OPT_LSM_STATUS, .OPT_LSM_HOURS, .OPT_LSM_RATED,
   .OPT_LSM_REMAIN, .OPT_LB_CELLS]

/-- The registers of block MGT. -/
def regsOfMGT : List RegName :=
  [.MGT_BRIDGE_STATUS, .MGT_BRIDGE_DROP_ADDR, .MGT_SEG_CTRL, .MGT_SEG_STATUS,
   .MGT_SEG_MAC, .MGT_TIME_NOW, .MGT_TIME_NOW_HIGH, .MGT_TIME_FREQ,
   .MGT_TIME_STEP, .MGT_TIME_CFG, .MGT_TIME_STATUS, .MGT_PPS_CAPTURE,
   .MGT_TOD_DATA, .MGT_SEG_TX_FRAMES, .MGT_SEG_EXCESS_COLLISIONS, .MGT_SEG_RX_FRAMES,
   .MGT_SEG_DUP_DROPPED, .MGT_SEG_COLLISIONS, .MGT_SEG_BAD_FRAMES, .MGT_SEG_LATE_COLLISIONS]

/-- The registers of block CLS. -/
def regsOfCLS : List RegName :=
  [.CLS_SCENE_STATUS, .CLS_SCENE_COMMIT, .CLS_SCENE_ACT_TIME, .CLS_SCENE_ACT_TIME_HIGH,
   .CLS_RETIRE_LIMIT, .CLS_SCENE_SLOT, .CLS_FORCED_DROPS, .CLS_PARSE_PORTS,
   .CLS_PARSE_TPID, .CLS_PARSE_CTRL, .CLS_GENEVE_KNOWN, .CLS_PORT_START,
   .CLS_KEY_SEL, .CLS_TABLE_KEY, .CLS_PIPE_FRAMES, .CLS_PIPE_SLOW,
   .CLS_PIPE_SLOW_DROP, .CLS_PIPE_PARSE_ERR, .CLS_PIPE_CHAIN_CUT, .CLS_PIPE_NO_FORWARD]

/-- The registers of block TBL. -/
def regsOfTBL : List RegName :=
  [.TBL_ENTRY, .TBL_ATTR, .TBL_CMD, .TBL_INDEX,
   .TBL_STATUS, .TBL_RESULT, .TBL_TABLE_CFG, .TBL_SEED_A,
   .TBL_SEED_B, .TBL_AGE_CTRL, .TBL_EVICTED_HEAD, .TBL_EVICTED_POP,
   .TBL_EVICTED_KEY, .TBL_TABLE_COUNT, .TBL_LEARN_PORT, .TBL_LEARNED,
   .TBL_EVICTIONS, .TBL_LEARN_LIMITED, .TBL_EVICT_LOST, .TBL_LEARN_FULL,
   .TBL_FLOW_COLD, .TBL_MOVES, .TBL_FLOW_OVERRATE, .TBL_AGED,
   .TBL_RELEASED]

/-- The registers of block SWC. -/
def regsOfSWC : List RegName :=
  [.SWC_FLOW_SEED, .SWC_POOL, .SWC_LOSSLESS, .SWC_SPILL_CFG,
   .SWC_STATUS, .SWC_REWRITE_CFG, .SWC_SAF, .SWC_Q_LIMIT,
   .SWC_Q_ECN, .SWC_Q_DEPTH, .SWC_IN_RESERVE, .SWC_IN_USE,
   .SWC_SPOT, .SWC_GROUP, .SWC_MEMBER, .SWC_PIN,
   .SWC_MC_GROUP, .SWC_MC_REPLICA, .SWC_MIRROR, .SWC_CTR_SELECT,
   .SWC_CTR_FRAMES, .SWC_CTR_OCTETS, .SWC_TAIL_DROP, .SWC_ECN_MARKED,
   .SWC_TAIL_STOMPED, .SWC_NO_MEMBER, .SWC_TAIL_HOST, .SWC_REPINNED,
   .SWC_QUEUE_DROP, .SWC_LINK_DOWN_DROP, .SWC_SLICE_DROP, .SWC_REWRITE_MISS,
   .SWC_LOSSLESS_DROP, .SWC_TTL_EXPIRED, .SWC_POOL_EXHAUSTED, .SWC_SPOT_LOST,
   .SWC_BAD_TARGET, .SWC_MIRROR_DROP, .SWC_SLICE_MISMATCH]

/-- The registers of block TMS. -/
def regsOfTMS : List RegName :=
  [.TMS_PORT_CFG, .TMS_PORT_VTIME, .TMS_Q_WEIGHT, .TMS_Q_SHAPER,
   .TMS_PORT_SHAPER, .TMS_Q_STATUS, .TMS_TT_ADMIN_BASE, .TMS_TT_ADMIN_BASE_HIGH,
   .TMS_TT_ADMIN_CYCLE, .TMS_TT_ADMIN_CTRL, .TMS_TT_STATUS, .TMS_TT_CHANGE_TIME,
   .TMS_TT_ADMIN, .TMS_POLICER_RATE, .TMS_POLICER_SIZE, .TMS_POLICE_DROP,
   .TMS_TT_OVERSIZE, .TMS_POLICE_RED_PASSED, .TMS_TT_OVERRUN]

/-- The registers of block OFL. -/
def regsOfOFL : List RegName :=
  [.OFL_CTRL, .OFL_OBJ_DATA, .OFL_OBJ_CMD, .OFL_OBJ_STATUS,
   .OFL_EVENT_HEAD, .OFL_EVENT_POP, .OFL_BAD_TARGET, .OFL_ESP_TRAILER,
   .OFL_WRONG_DIE, .OFL_ESP_DUMMY, .OFL_PASS_LIMIT, .OFL_NATT_KEEPALIVE,
   .OFL_CTX_INACTIVE, .OFL_SEQ_EXHAUSTED, .OFL_UNSUPPORTED_UNIT, .OFL_ROLLS,
   .OFL_TOO_BIG, .OFL_CONN_NOT_READY, .OFL_DECAP_MISMATCH, .OFL_STALE_RESULT,
   .OFL_ECN_DROP, .OFL_EVENT_LOST, .OFL_ESP_REPLAY, .OFL_CNP_RX,
   .OFL_ESP_AUTH_FAIL]

/-- The registers of block CPH. -/
def regsOfCPH : List RegName :=
  [.CPH_ENGINE_STATE, .CPH_STATUS, .CPH_CTX_SELECT, .CPH_CTX_STATUS,
   .CPH_CTX_USED, .CPH_CTX_BYTES, .CPH_CTX_LIMIT, .CPH_CTX_BYTE_LIMIT,
   .CPH_CTX_CHECKPOINT, .CPH_CTX_CTRL, .CPH_CTX_CMD, .CPH_MESSAGES,
   .CPH_BYTES, .CPH_AUTH_FAIL, .CPH_LENGTH, .CPH_KEY_EXHAUSTED,
   .CPH_SUCCESSIONS, .CPH_ENGINE_FAULTS, .CPH_CKPT_STALLS, .CPH_CTX_LOADS,
   .CPH_STALE_DISCARD]

/-- The registers of block KEY. -/
def regsOfKEY : List RegName :=
  []

/-- The registers of block HEP. -/
def regsOfHEP : List RegName :=
  [.HEP_PORT_CFG, .HEP_TAG_STATUS, .HEP_LINK_CTRL, .HEP_LINK_STATUS,
   .HEP_IDE_CTRL, .HEP_IDE_STATUS, .HEP_LINK_BARS, .HEP_CPL_TIMEOUT,
   .HEP_UNEXPECTED_CPL, .HEP_POISONED_RX, .HEP_UR_RX, .HEP_UR_SENT,
   .HEP_IDE_DROP, .HEP_RRS_SENT, .HEP_FLR]

/-- The registers of block QRG. -/
def regsOfQRG : List RegName :=
  [.QRG_Q_SQ_BASE, .QRG_Q_CQ_BASE, .QRG_Q_SHADOW, .QRG_Q_CTRL,
   .QRG_Q_IRQ, .QRG_Q_STATUS, .QRG_ERR_INDEX, .QRG_Q_CQ_STATUS,
   .QRG_RX_STEER, .QRG_STALL_LIMITS, .QRG_DB_BAD, .QRG_DB_DROP,
   .QRG_INVAL_LATE, .QRG_RX_NO_QUEUE, .QRG_RX_NO_BUFFER, .QRG_CQ_STALL,
   .QRG_CPL_DISCARD, .QRG_MALFORMED]

/-- The registers of block BMV. -/
def regsOfBMV : List RegName :=
  [.BMV_PORT_STAGE, .BMV_PORT_CFG, .BMV_STATUS, .BMV_REQ_RAISE,
   .BMV_CH_CFG, .BMV_CH_NEXT, .BMV_CH_CTRL, .BMV_CH_STATUS,
   .BMV_CH_CUR, .BMV_CH_DONE, .BMV_DESC_DONE, .BMV_BYTES,
   .BMV_RETRIES, .BMV_HOST_ABORT, .BMV_MALFORMED, .BMV_APPEND_EMPTY,
   .BMV_DB_IGNORED, .BMV_REQ_LOST]

/-- The registers of block SLC. -/
def regsOfSLC : List RegName :=
  [.SLC_DELIVER_SHAPER, .SLC_SEND_SHAPER, .SLC_CMD, .SLC_STATUS,
   .SLC_PEER_SHARE, .SLC_SLICE_BIND, .SLC_SLICE_STATE, .SLC_GRANT_Q,
   .SLC_GRANT_R, .SLC_WEIGHT, .SLC_USAGE, .SLC_QUEUE_CFG,
   .SLC_STALE_DISCARD, .SLC_IDLE_DROP, .SLC_IRQ_SUPPRESSED]

/-- The registers of block TRP. -/
def regsOfTRP : List RegName :=
  [.TRP_CLUSTER_CFG, .TRP_DQ_CFG, .TRP_DQ_STATUS, .TRP_DQ_CONS,
   .TRP_CORE_CFG, .TRP_CORE_STATUS, .TRP_THREAD_CTRL, .TRP_THREAD_STATUS,
   .TRP_THREAD_FAULT, .TRP_THREAD_TVAL, .TRP_THREAD_EVSET, .TRP_DIE_SLOW,
   .TRP_SLOW_DELIVERED, .TRP_SPOT_DELIVERED, .TRP_DQ_FULL, .TRP_DQ_TOO_BIG,
   .TRP_DQ_TAIL_DROP, .TRP_THREAD_FAULTS, .TRP_CORE_RESETS, .TRP_STALLS,
   .TRP_SLOW_NO_CLUSTER]

/-- The registers of block CBD. -/
def regsOfCBD : List RegName :=
  [.CBD_SLOT_WRITE, .CBD_PENDING, .CBD_DEV_NOTIFY, .CBD_COLLISIONS,
   .CBD_PEER_DROP, .CBD_XFER_ABANDONED, .CBD_SLOT_TAKE, .CBD_SLOT_PEEK]

/-- The registers of block MEM. -/
def regsOfMEM : List RegName :=
  []

/-- The registers of block LOCAL. -/
def regsOfLOCAL : List RegName :=
  [.RDN_LOCAL_VRING, .RDN_LOCAL_EVENTS, .RDN_LOCAL_RX_CFG, .RDN_LOCAL_TX_CFG,
   .RDN_LOCAL_RX_PTR, .RDN_LOCAL_TX_PTR]

/-- The registers of a block. -/
def Block.regs : Block → List RegName
  | .SYS => regsOfSYS
  | .GLT => regsOfGLT
  | .PWR => regsOfPWR
  | .FLT => regsOfFLT
  | .RDN => regsOfRDN
  | .STK => regsOfSTK
  | .PRT => regsOfPRT
  | .OPT => regsOfOPT
  | .MGT => regsOfMGT
  | .CLS => regsOfCLS
  | .TBL => regsOfTBL
  | .SWC => regsOfSWC
  | .TMS => regsOfTMS
  | .OFL => regsOfOFL
  | .CPH => regsOfCPH
  | .KEY => regsOfKEY
  | .HEP => regsOfHEP
  | .QRG => regsOfQRG
  | .BMV => regsOfBMV
  | .SLC => regsOfSLC
  | .TRP => regsOfTRP
  | .CBD => regsOfCBD
  | .MEM => regsOfMEM
  | .LOCAL => regsOfLOCAL

/-- A field of a register by its place: the names below are REGISTER_FIELD for REGISTER.FIELD (R9). -/
structure FieldPos where
  reg : RegName
  lo : Nat
  width : Nat
  deriving DecidableEq, Repr

namespace Fld
abbrev SYS_DEVICE_STATE_STATE : FieldPos := ⟨.SYS_DEVICE_STATE, 0, 3⟩
abbrev SYS_DEVICE_STATE_CAUSE : FieldPos := ⟨.SYS_DEVICE_STATE, 8, 8⟩
abbrev SYS_IMAGE_STATUS_SLOT : FieldPos := ⟨.SYS_IMAGE_STATUS, 0, 1⟩
abbrev SYS_IMAGE_STATUS_A_FAILED : FieldPos := ⟨.SYS_IMAGE_STATUS, 1, 1⟩
abbrev SYS_IMAGE_STATUS_B_FAILED : FieldPos := ⟨.SYS_IMAGE_STATUS, 2, 1⟩
abbrev SYS_IMAGE_STATUS_A_REASON : FieldPos := ⟨.SYS_IMAGE_STATUS, 8, 8⟩
abbrev SYS_IMAGE_STATUS_B_REASON : FieldPos := ⟨.SYS_IMAGE_STATUS, 16, 8⟩
abbrev SYS_IMAGE_VERSION_VERSION : FieldPos := ⟨.SYS_IMAGE_VERSION, 0, 32⟩
abbrev SYS_MIN_IMAGE_VERSION_MINIMUM : FieldPos := ⟨.SYS_MIN_IMAGE_VERSION, 0, 32⟩
abbrev SYS_BOOT_NONCE_NONCE : FieldPos := ⟨.SYS_BOOT_NONCE, 0, 64⟩
abbrev SYS_STAGING_PHASE : FieldPos := ⟨.SYS_STAGING, 0, 2⟩
abbrev SYS_STAGING_TARGET : FieldPos := ⟨.SYS_STAGING, 2, 1⟩
abbrev SYS_STAGING_DONE : FieldPos := ⟨.SYS_STAGING, 3, 1⟩
abbrev SYS_STAGING_RESULT : FieldPos := ⟨.SYS_STAGING, 8, 8⟩
abbrev SYS_AMEND_SEQUENCE_SEQUENCE : FieldPos := ⟨.SYS_AMEND_SEQUENCE, 0, 64⟩
abbrev GLT_BRIDGE_STATUS_BUSY : FieldPos := ⟨.GLT_BRIDGE_STATUS, 0, 1⟩
abbrev GLT_BRIDGE_STATUS_SLOW_OVERRUN : FieldPos := ⟨.GLT_BRIDGE_STATUS, 1, 1⟩
abbrev GLT_BRIDGE_STATUS_READ_TIMEOUT : FieldPos := ⟨.GLT_BRIDGE_STATUS, 2, 1⟩
abbrev GLT_BRIDGE_STATUS_DROP_COUNT : FieldPos := ⟨.GLT_BRIDGE_STATUS, 8, 8⟩
abbrev PWR_BRIDGE_STATUS_BUSY : FieldPos := ⟨.PWR_BRIDGE_STATUS, 0, 1⟩
abbrev PWR_BRIDGE_STATUS_SLOW_OVERRUN : FieldPos := ⟨.PWR_BRIDGE_STATUS, 1, 1⟩
abbrev PWR_BRIDGE_STATUS_READ_TIMEOUT : FieldPos := ⟨.PWR_BRIDGE_STATUS, 2, 1⟩
abbrev PWR_BRIDGE_STATUS_DROP_COUNT : FieldPos := ⟨.PWR_BRIDGE_STATUS, 8, 8⟩
abbrev OPT_BRIDGE_STATUS_BUSY : FieldPos := ⟨.OPT_BRIDGE_STATUS, 0, 1⟩
abbrev OPT_BRIDGE_STATUS_SLOW_OVERRUN : FieldPos := ⟨.OPT_BRIDGE_STATUS, 1, 1⟩
abbrev OPT_BRIDGE_STATUS_READ_TIMEOUT : FieldPos := ⟨.OPT_BRIDGE_STATUS, 2, 1⟩
abbrev OPT_BRIDGE_STATUS_DROP_COUNT : FieldPos := ⟨.OPT_BRIDGE_STATUS, 8, 8⟩
abbrev MGT_BRIDGE_STATUS_BUSY : FieldPos := ⟨.MGT_BRIDGE_STATUS, 0, 1⟩
abbrev MGT_BRIDGE_STATUS_SLOW_OVERRUN : FieldPos := ⟨.MGT_BRIDGE_STATUS, 1, 1⟩
abbrev MGT_BRIDGE_STATUS_READ_TIMEOUT : FieldPos := ⟨.MGT_BRIDGE_STATUS, 2, 1⟩
abbrev MGT_BRIDGE_STATUS_DROP_COUNT : FieldPos := ⟨.MGT_BRIDGE_STATUS, 8, 8⟩
abbrev GLT_BRIDGE_DROP_ADDR_OFFSET : FieldPos := ⟨.GLT_BRIDGE_DROP_ADDR, 0, 22⟩
abbrev PWR_BRIDGE_DROP_ADDR_OFFSET : FieldPos := ⟨.PWR_BRIDGE_DROP_ADDR, 0, 22⟩
abbrev OPT_BRIDGE_DROP_ADDR_OFFSET : FieldPos := ⟨.OPT_BRIDGE_DROP_ADDR, 0, 22⟩
abbrev MGT_BRIDGE_DROP_ADDR_OFFSET : FieldPos := ⟨.MGT_BRIDGE_DROP_ADDR, 0, 22⟩
abbrev SYS_PART_ID_PART : FieldPos := ⟨.SYS_PART_ID, 0, 16⟩
abbrev SYS_PART_ID_STEPPING : FieldPos := ⟨.SYS_PART_ID, 16, 8⟩
abbrev SYS_FAMILY_FAMILY_CODE : FieldPos := ⟨.SYS_FAMILY, 0, 16⟩
abbrev SYS_SERIAL_SERIAL : FieldPos := ⟨.SYS_SERIAL, 0, 64⟩
abbrev SYS_MAP_VERSION_MINOR : FieldPos := ⟨.SYS_MAP_VERSION, 0, 8⟩
abbrev SYS_MAP_VERSION_MAJOR : FieldPos := ⟨.SYS_MAP_VERSION, 8, 8⟩
abbrev SYS_BOOT_ROM_VERSION_VERSION : FieldPos := ⟨.SYS_BOOT_ROM_VERSION, 0, 32⟩
abbrev SYS_CPC_FW_VERSION_VERSION : FieldPos := ⟨.SYS_CPC_FW_VERSION, 0, 32⟩
abbrev SYS_TROUPE_FW_VERSION_VERSION : FieldPos := ⟨.SYS_TROUPE_FW_VERSION, 0, 32⟩
abbrev SYS_PROTOCOLS_MGMT_MAX : FieldPos := ⟨.SYS_PROTOCOLS, 0, 8⟩
abbrev SYS_PROTOCOLS_BAROD_MAX : FieldPos := ⟨.SYS_PROTOCOLS, 8, 4⟩
abbrev SYS_PROTOCOLS_DESC_FORMATS : FieldPos := ⟨.SYS_PROTOCOLS, 16, 8⟩
abbrev SYS_SCRATCH_VALUE : FieldPos := ⟨.SYS_SCRATCH, 0, 64⟩
abbrev SYS_BAD_ACCESS_ADDRESS : FieldPos := ⟨.SYS_BAD_ACCESS, 0, 32⟩
abbrev SYS_BAD_ACCESS_REQUESTER : FieldPos := ⟨.SYS_BAD_ACCESS, 32, 16⟩
abbrev SYS_BAD_ACCESS_CAUSE : FieldPos := ⟨.SYS_BAD_ACCESS, 48, 4⟩
abbrev SYS_BAD_ACCESS_WRITE : FieldPos := ⟨.SYS_BAD_ACCESS, 52, 1⟩
abbrev SYS_BAD_ACCESS_VALID : FieldPos := ⟨.SYS_BAD_ACCESS, 63, 1⟩
abbrev PRT_CONFIG_ENABLE : FieldPos := ⟨.PRT_CONFIG, 0, 1⟩
abbrev PRT_CONFIG_PAUSE_MODE : FieldPos := ⟨.PRT_CONFIG, 1, 2⟩
abbrev PRT_CONFIG_MAX_FRAME : FieldPos := ⟨.PRT_CONFIG, 8, 14⟩
abbrev PRT_STATUS_LINK_UP : FieldPos := ⟨.PRT_STATUS, 0, 1⟩
abbrev PRT_STATUS_PAUSED : FieldPos := ⟨.PRT_STATUS, 1, 1⟩
abbrev PRT_STATUS_CLASS_PAUSED : FieldPos := ⟨.PRT_STATUS, 8, 8⟩
abbrev PRT_STATUS_XOFF_HELD : FieldPos := ⟨.PRT_STATUS, 16, 8⟩
abbrev PRT_CLASS_MAP_CLASS : FieldPos := ⟨.PRT_CLASS_MAP, 0, 24⟩
abbrev PRT_CLASS_MAP_DEFAULT_CLASS : FieldPos := ⟨.PRT_CLASS_MAP, 24, 3⟩
abbrev PRT_PAUSE_TIME_QUANTA : FieldPos := ⟨.PRT_PAUSE_TIME, 0, 16⟩
abbrev PRT_CSUM_CTRL_RX_VERIFY : FieldPos := ⟨.PRT_CSUM_CTRL, 0, 1⟩
abbrev PRT_CSUM_CTRL_TX_INSERT : FieldPos := ⟨.PRT_CSUM_CTRL, 1, 1⟩
abbrev PRT_CSUM_CTRL_INCR_UPDATE : FieldPos := ⟨.PRT_CSUM_CTRL, 2, 1⟩
abbrev PRT_TS_LATENCY_RX_LAT : FieldPos := ⟨.PRT_TS_LATENCY, 0, 16⟩
abbrev PRT_TS_LATENCY_TX_LAT : FieldPos := ⟨.PRT_TS_LATENCY, 16, 16⟩
abbrev PRT_PFC_WM_XOFF_HIGH : FieldPos := ⟨.PRT_PFC_WM, 0, 20⟩
abbrev PRT_PFC_WM_XON_LOW : FieldPos := ⟨.PRT_PFC_WM, 32, 20⟩
abbrev PRT_TX_TS_TIME_NANOSECONDS : FieldPos := ⟨.PRT_TX_TS_TIME, 0, 32⟩
abbrev PRT_TX_TS_TIME_SECONDS_LOW : FieldPos := ⟨.PRT_TX_TS_TIME, 32, 32⟩
abbrev PRT_TX_TS_TAG_TAG : FieldPos := ⟨.PRT_TX_TS_TAG, 0, 16⟩
abbrev PRT_TX_TS_TAG_SECONDS_HIGH : FieldPos := ⟨.PRT_TX_TS_TAG, 16, 16⟩
abbrev PRT_TX_TS_TAG_VALID : FieldPos := ⟨.PRT_TX_TS_TAG, 63, 1⟩
abbrev OPT_ENGINE_PLAN_TYPE : FieldPos := ⟨.OPT_ENGINE_PLAN, 0, 64⟩
abbrev OPT_ENGINE_STATUS_PLAN_REFUSED : FieldPos := ⟨.OPT_ENGINE_STATUS, 0, 1⟩
abbrev OPT_LASER_CTRL_LASER_EN : FieldPos := ⟨.OPT_LASER_CTRL, 0, 8⟩
abbrev OPT_LASER_CTRL_EJECT : FieldPos := ⟨.OPT_LASER_CTRL, 8, 1⟩
abbrev OPT_LASER_CTRL_RETRY : FieldPos := ⟨.OPT_LASER_CTRL, 9, 1⟩
abbrev OPT_LSM_STATUS_PRESENT : FieldPos := ⟨.OPT_LSM_STATUS, 0, 1⟩
abbrev OPT_LSM_STATUS_STATE : FieldPos := ⟨.OPT_LSM_STATUS, 1, 3⟩
abbrev OPT_LSM_STATUS_REJECT : FieldPos := ⟨.OPT_LSM_STATUS, 4, 4⟩
abbrev OPT_LSM_STATUS_CHANNEL_FAULT : FieldPos := ⟨.OPT_LSM_STATUS, 8, 8⟩
abbrev OPT_LSM_STATUS_WEAR : FieldPos := ⟨.OPT_LSM_STATUS, 16, 1⟩
abbrev OPT_LSM_STATUS_I2C_FALLBACK : FieldPos := ⟨.OPT_LSM_STATUS, 17, 1⟩
abbrev OPT_LSM_HOURS_HOURS : FieldPos := ⟨.OPT_LSM_HOURS, 0, 32⟩
abbrev OPT_LSM_RATED_RATED_HOURS : FieldPos := ⟨.OPT_LSM_RATED, 0, 32⟩
abbrev OPT_LSM_REMAIN_HOURS : FieldPos := ⟨.OPT_LSM_REMAIN, 0, 32⟩
abbrev OPT_LB_CELLS_CELLS : FieldPos := ⟨.OPT_LB_CELLS, 0, 13⟩
abbrev MGT_SEG_CTRL_ENABLE : FieldPos := ⟨.MGT_SEG_CTRL, 0, 1⟩
abbrev MGT_SEG_STATUS_PHY_READY : FieldPos := ⟨.MGT_SEG_STATUS, 0, 1⟩
abbrev MGT_SEG_MAC_ADDRESS : FieldPos := ⟨.MGT_SEG_MAC, 0, 48⟩
abbrev CLS_SCENE_STATUS_CURRENT : FieldPos := ⟨.CLS_SCENE_STATUS, 0, 16⟩
abbrev CLS_SCENE_STATUS_PENDING : FieldPos := ⟨.CLS_SCENE_STATUS, 16, 16⟩
abbrev CLS_SCENE_STATUS_LIVE : FieldPos := ⟨.CLS_SCENE_STATUS, 32, 3⟩
abbrev CLS_SCENE_STATUS_ARMED : FieldPos := ⟨.CLS_SCENE_STATUS, 35, 1⟩
abbrev CLS_SCENE_STATUS_LAST_STATUS : FieldPos := ⟨.CLS_SCENE_STATUS, 40, 8⟩
abbrev CLS_SCENE_COMMIT_SCENE : FieldPos := ⟨.CLS_SCENE_COMMIT, 0, 16⟩
abbrev CLS_SCENE_COMMIT_TIMED : FieldPos := ⟨.CLS_SCENE_COMMIT, 16, 1⟩
abbrev CLS_SCENE_COMMIT_CANCEL : FieldPos := ⟨.CLS_SCENE_COMMIT, 17, 1⟩
abbrev CLS_SCENE_ACT_TIME_NANOSECONDS : FieldPos := ⟨.CLS_SCENE_ACT_TIME, 0, 32⟩
abbrev CLS_SCENE_ACT_TIME_SECONDS_LOW : FieldPos := ⟨.CLS_SCENE_ACT_TIME, 32, 32⟩
abbrev CLS_SCENE_ACT_TIME_HIGH_SECONDS_HIGH : FieldPos := ⟨.CLS_SCENE_ACT_TIME_HIGH, 0, 16⟩
abbrev CLS_RETIRE_LIMIT_MS : FieldPos := ⟨.CLS_RETIRE_LIMIT, 0, 16⟩
abbrev CLS_SCENE_SLOT_SCENE : FieldPos := ⟨.CLS_SCENE_SLOT, 0, 16⟩
abbrev CLS_SCENE_SLOT_STATE : FieldPos := ⟨.CLS_SCENE_SLOT, 16, 3⟩
abbrev CLS_SCENE_SLOT_INFLIGHT : FieldPos := ⟨.CLS_SCENE_SLOT, 32, 32⟩
abbrev CLS_PARSE_PORTS_VXLAN_PORT : FieldPos := ⟨.CLS_PARSE_PORTS, 0, 16⟩
abbrev CLS_PARSE_PORTS_GENEVE_PORT : FieldPos := ⟨.CLS_PARSE_PORTS, 16, 16⟩
abbrev CLS_PARSE_PORTS_ROCE_PORT : FieldPos := ⟨.CLS_PARSE_PORTS, 32, 16⟩
abbrev CLS_PARSE_PORTS_NVME_TCP_PORT : FieldPos := ⟨.CLS_PARSE_PORTS, 48, 16⟩
abbrev CLS_PARSE_TPID_OUTER_TPID : FieldPos := ⟨.CLS_PARSE_TPID, 0, 16⟩
abbrev CLS_PARSE_TPID_INNER_TPID : FieldPos := ⟨.CLS_PARSE_TPID, 16, 16⟩
abbrev CLS_PARSE_CTRL_SLOW_EN : FieldPos := ⟨.CLS_PARSE_CTRL, 0, 5⟩
abbrev CLS_PARSE_CTRL_ERR_TO_SLOW : FieldPos := ⟨.CLS_PARSE_CTRL, 5, 1⟩
abbrev CLS_PARSE_CTRL_SLOW_DIE : FieldPos := ⟨.CLS_PARSE_CTRL, 6, 2⟩
abbrev CLS_PARSE_CTRL_RAW_OFFSET : FieldPos := ⟨.CLS_PARSE_CTRL, 8, 9⟩
abbrev CLS_GENEVE_KNOWN_CLASS : FieldPos := ⟨.CLS_GENEVE_KNOWN, 0, 16⟩
abbrev CLS_GENEVE_KNOWN_TYPE : FieldPos := ⟨.CLS_GENEVE_KNOWN, 16, 8⟩
abbrev CLS_GENEVE_KNOWN_VALID : FieldPos := ⟨.CLS_GENEVE_KNOWN, 31, 1⟩
abbrev CLS_PORT_START_FIRST_TABLE : FieldPos := ⟨.CLS_PORT_START, 0, 6⟩
abbrev CLS_PORT_START_NO_LOOKUP : FieldPos := ⟨.CLS_PORT_START, 7, 1⟩
abbrev CLS_PORT_START_DEFAULT_ACTION : FieldPos := ⟨.CLS_PORT_START, 32, 24⟩
abbrev CLS_KEY_SEL_OFFSET_A : FieldPos := ⟨.CLS_KEY_SEL, 0, 8⟩
abbrev CLS_KEY_SEL_MASK_A : FieldPos := ⟨.CLS_KEY_SEL, 8, 8⟩
abbrev CLS_KEY_SEL_OFFSET_B : FieldPos := ⟨.CLS_KEY_SEL, 16, 8⟩
abbrev CLS_KEY_SEL_MASK_B : FieldPos := ⟨.CLS_KEY_SEL, 24, 8⟩
abbrev CLS_TABLE_KEY_PROFILE : FieldPos := ⟨.CLS_TABLE_KEY, 0, 6⟩
abbrev CLS_TABLE_KEY_KEY_BYTES : FieldPos := ⟨.CLS_TABLE_KEY, 8, 7⟩
abbrev CLS_TABLE_KEY_MISS_ACTION : FieldPos := ⟨.CLS_TABLE_KEY, 32, 24⟩
abbrev TBL_ENTRY_BYTES : FieldPos := ⟨.TBL_ENTRY, 0, 32⟩
abbrev TBL_ATTR_ACTION : FieldPos := ⟨.TBL_ATTR, 0, 24⟩
abbrev TBL_ATTR_PINNED : FieldPos := ⟨.TBL_ATTR, 24, 1⟩
abbrev TBL_ATTR_AGE_LIMIT : FieldPos := ⟨.TBL_ATTR, 32, 15⟩
abbrev TBL_CMD_OP : FieldPos := ⟨.TBL_CMD, 0, 4⟩
abbrev TBL_CMD_TABLE : FieldPos := ⟨.TBL_CMD, 4, 7⟩
abbrev TBL_CMD_SCENE_SEL : FieldPos := ⟨.TBL_CMD, 11, 1⟩
abbrev TBL_INDEX_INDEX : FieldPos := ⟨.TBL_INDEX, 0, 28⟩
abbrev TBL_STATUS_BUSY : FieldPos := ⟨.TBL_STATUS, 0, 1⟩
abbrev TBL_STATUS_CMD_OVERRUN : FieldPos := ⟨.TBL_STATUS, 1, 1⟩
abbrev TBL_STATUS_CFG_REFUSED : FieldPos := ⟨.TBL_STATUS, 2, 1⟩
abbrev TBL_STATUS_LAST_STATUS : FieldPos := ⟨.TBL_STATUS, 8, 8⟩
abbrev TBL_STATUS_HIT : FieldPos := ⟨.TBL_STATUS, 16, 1⟩
abbrev TBL_STATUS_REPLACED : FieldPos := ⟨.TBL_STATUS, 17, 1⟩
abbrev TBL_STATUS_EVICTED : FieldPos := ⟨.TBL_STATUS, 18, 1⟩
abbrev TBL_STATUS_RELOCATIONS : FieldPos := ⟨.TBL_STATUS, 24, 7⟩
abbrev TBL_STATUS_INDEX : FieldPos := ⟨.TBL_STATUS, 32, 28⟩
abbrev TBL_RESULT_BORN : FieldPos := ⟨.TBL_RESULT, 0, 16⟩
abbrev TBL_RESULT_DIED : FieldPos := ⟨.TBL_RESULT, 16, 16⟩
abbrev TBL_RESULT_STAMP : FieldPos := ⟨.TBL_RESULT, 32, 16⟩
abbrev TBL_RESULT_DIED_VALID : FieldPos := ⟨.TBL_RESULT, 48, 1⟩
abbrev TBL_RESULT_SETTLED : FieldPos := ⟨.TBL_RESULT, 49, 1⟩
abbrev TBL_RESULT_VALID : FieldPos := ⟨.TBL_RESULT, 50, 1⟩
abbrev TBL_TABLE_CFG_LOG2_BUCKETS : FieldPos := ⟨.TBL_TABLE_CFG, 0, 5⟩
abbrev TBL_TABLE_CFG_ENABLE : FieldPos := ⟨.TBL_TABLE_CFG, 5, 1⟩
abbrev TBL_TABLE_CFG_BASE : FieldPos := ⟨.TBL_TABLE_CFG, 8, 21⟩
abbrev TBL_TABLE_CFG_EVICT : FieldPos := ⟨.TBL_TABLE_CFG, 32, 2⟩
abbrev TBL_TABLE_CFG_AGE_DEFAULT : FieldPos := ⟨.TBL_TABLE_CFG, 36, 15⟩
abbrev TBL_SEED_A_SEED : FieldPos := ⟨.TBL_SEED_A, 0, 32⟩
abbrev TBL_SEED_B_SEED : FieldPos := ⟨.TBL_SEED_B, 0, 32⟩
abbrev TBL_AGE_CTRL_PERIOD_LOG2 : FieldPos := ⟨.TBL_AGE_CTRL, 0, 5⟩
abbrev TBL_AGE_CTRL_NOW : FieldPos := ⟨.TBL_AGE_CTRL, 16, 16⟩
abbrev TBL_EVICTED_HEAD_TABLE : FieldPos := ⟨.TBL_EVICTED_HEAD, 0, 7⟩
abbrev TBL_EVICTED_HEAD_VALID : FieldPos := ⟨.TBL_EVICTED_HEAD, 7, 1⟩
abbrev TBL_EVICTED_HEAD_ACTION : FieldPos := ⟨.TBL_EVICTED_HEAD, 8, 24⟩
abbrev TBL_EVICTED_HEAD_STAMP : FieldPos := ⟨.TBL_EVICTED_HEAD, 32, 16⟩
abbrev TBL_EVICTED_POP_POP : FieldPos := ⟨.TBL_EVICTED_POP, 0, 1⟩
abbrev TBL_EVICTED_KEY_BYTES : FieldPos := ⟨.TBL_EVICTED_KEY, 0, 32⟩
abbrev TBL_TABLE_COUNT_ENTRIES : FieldPos := ⟨.TBL_TABLE_COUNT, 0, 29⟩
abbrev TBL_LEARN_PORT_ENABLE : FieldPos := ⟨.TBL_LEARN_PORT, 0, 1⟩
abbrev TBL_LEARN_PORT_MOVE_EN : FieldPos := ⟨.TBL_LEARN_PORT, 1, 1⟩
abbrev TBL_LEARN_PORT_DEFAULT_DOMAIN : FieldPos := ⟨.TBL_LEARN_PORT, 4, 12⟩
abbrev TBL_LEARN_PORT_RATE : FieldPos := ⟨.TBL_LEARN_PORT, 16, 16⟩
abbrev SWC_FLOW_SEED_SEED : FieldPos := ⟨.SWC_FLOW_SEED, 0, 32⟩
abbrev SWC_POOL_SKID : FieldPos := ⟨.SWC_POOL, 0, 21⟩
abbrev SWC_POOL_SHARED : FieldPos := ⟨.SWC_POOL, 32, 21⟩
abbrev SWC_LOSSLESS_CLASSES : FieldPos := ⟨.SWC_LOSSLESS, 0, 8⟩
abbrev SWC_SPILL_CFG_MIB : FieldPos := ⟨.SWC_SPILL_CFG, 0, 16⟩
abbrev SWC_SPILL_CFG_USED_CELLS : FieldPos := ⟨.SWC_SPILL_CFG, 32, 32⟩
abbrev SWC_STATUS_CFG_REFUSED : FieldPos := ⟨.SWC_STATUS, 0, 1⟩
abbrev SWC_REWRITE_CFG_TABLE : FieldPos := ⟨.SWC_REWRITE_CFG, 0, 6⟩
abbrev SWC_REWRITE_CFG_ENABLE : FieldPos := ⟨.SWC_REWRITE_CFG, 6, 1⟩
abbrev SWC_SAF_CLASSES : FieldPos := ⟨.SWC_SAF, 0, 8⟩
abbrev SWC_Q_LIMIT_STATIC : FieldPos := ⟨.SWC_Q_LIMIT, 0, 21⟩
abbrev SWC_Q_LIMIT_ALPHA : FieldPos := ⟨.SWC_Q_LIMIT, 21, 4⟩
abbrev SWC_Q_LIMIT_DYN_EN : FieldPos := ⟨.SWC_Q_LIMIT, 25, 1⟩
abbrev SWC_Q_LIMIT_SPILL_AT : FieldPos := ⟨.SWC_Q_LIMIT, 32, 21⟩
abbrev SWC_Q_ECN_MARK_MIN : FieldPos := ⟨.SWC_Q_ECN, 0, 21⟩
abbrev SWC_Q_ECN_MARK_MAX : FieldPos := ⟨.SWC_Q_ECN, 32, 21⟩
abbrev SWC_Q_ECN_PMAX : FieldPos := ⟨.SWC_Q_ECN, 53, 9⟩
abbrev SWC_Q_ECN_ECN_EN : FieldPos := ⟨.SWC_Q_ECN, 62, 1⟩
abbrev SWC_Q_DEPTH_ONDIE : FieldPos := ⟨.SWC_Q_DEPTH, 0, 21⟩
abbrev SWC_Q_DEPTH_SPILLED : FieldPos := ⟨.SWC_Q_DEPTH, 32, 32⟩
abbrev SWC_IN_RESERVE_MIN : FieldPos := ⟨.SWC_IN_RESERVE, 0, 21⟩
abbrev SWC_IN_RESERVE_HEADROOM : FieldPos := ⟨.SWC_IN_RESERVE, 32, 21⟩
abbrev SWC_IN_USE_CELLS : FieldPos := ⟨.SWC_IN_USE, 0, 21⟩
abbrev SWC_SPOT_N : FieldPos := ⟨.SWC_SPOT, 0, 25⟩
abbrev SWC_SPOT_RANDOM : FieldPos := ⟨.SWC_SPOT, 25, 1⟩
abbrev SWC_SPOT_SNAP : FieldPos := ⟨.SWC_SPOT, 32, 4⟩
abbrev SWC_SPOT_DEST : FieldPos := ⟨.SWC_SPOT, 36, 4⟩
abbrev SWC_GROUP_BASE : FieldPos := ⟨.SWC_GROUP, 0, 17⟩
abbrev SWC_GROUP_LOG2_SLOTS : FieldPos := ⟨.SWC_GROUP, 17, 4⟩
abbrev SWC_GROUP_ENABLE : FieldPos := ⟨.SWC_GROUP, 21, 1⟩
abbrev SWC_GROUP_LIVE_COUNT : FieldPos := ⟨.SWC_GROUP, 32, 6⟩
abbrev SWC_MEMBER_PORT : FieldPos := ⟨.SWC_MEMBER, 0, 9⟩
abbrev SWC_MEMBER_VALID : FieldPos := ⟨.SWC_MEMBER, 16, 1⟩
abbrev SWC_MEMBER_LIVE : FieldPos := ⟨.SWC_MEMBER, 17, 1⟩
abbrev SWC_MEMBER_REWRITE : FieldPos := ⟨.SWC_MEMBER, 32, 24⟩
abbrev SWC_PIN_MEMBER : FieldPos := ⟨.SWC_PIN, 0, 5⟩
abbrev SWC_MC_GROUP_FIRST : FieldPos := ⟨.SWC_MC_GROUP, 0, 17⟩
abbrev SWC_MC_GROUP_COUNT : FieldPos := ⟨.SWC_MC_GROUP, 32, 11⟩
abbrev SWC_MC_REPLICA_PORT : FieldPos := ⟨.SWC_MC_REPLICA, 0, 9⟩
abbrev SWC_MC_REPLICA_REWRITE : FieldPos := ⟨.SWC_MC_REPLICA, 32, 24⟩
abbrev SWC_MIRROR_PORT : FieldPos := ⟨.SWC_MIRROR, 0, 9⟩
abbrev SWC_MIRROR_CLASS : FieldPos := ⟨.SWC_MIRROR, 9, 3⟩
abbrev SWC_MIRROR_ENABLE : FieldPos := ⟨.SWC_MIRROR, 12, 1⟩
abbrev SWC_CTR_SELECT_INDEX : FieldPos := ⟨.SWC_CTR_SELECT, 0, 17⟩
abbrev TMS_PORT_CFG_OVERHEAD : FieldPos := ⟨.TMS_PORT_CFG, 0, 6⟩
abbrev TMS_PORT_CFG_STRICT : FieldPos := ⟨.TMS_PORT_CFG, 8, 8⟩
abbrev TMS_PORT_CFG_TT_EN : FieldPos := ⟨.TMS_PORT_CFG, 16, 1⟩
abbrev TMS_PORT_VTIME_V : FieldPos := ⟨.TMS_PORT_VTIME, 0, 48⟩
abbrev TMS_Q_WEIGHT_WEIGHT : FieldPos := ⟨.TMS_Q_WEIGHT, 0, 16⟩
abbrev TMS_Q_SHAPER_RATE : FieldPos := ⟨.TMS_Q_SHAPER, 0, 21⟩
abbrev TMS_Q_SHAPER_BURST : FieldPos := ⟨.TMS_Q_SHAPER, 32, 24⟩
abbrev TMS_Q_SHAPER_RESET_TO : FieldPos := ⟨.TMS_Q_SHAPER, 56, 1⟩
abbrev TMS_PORT_SHAPER_RATE : FieldPos := ⟨.TMS_PORT_SHAPER, 0, 21⟩
abbrev TMS_PORT_SHAPER_BURST : FieldPos := ⟨.TMS_PORT_SHAPER, 32, 24⟩
abbrev TMS_PORT_SHAPER_RESET_TO : FieldPos := ⟨.TMS_PORT_SHAPER, 56, 1⟩
abbrev SLC_DELIVER_SHAPER_RATE : FieldPos := ⟨.SLC_DELIVER_SHAPER, 0, 21⟩
abbrev SLC_DELIVER_SHAPER_BURST : FieldPos := ⟨.SLC_DELIVER_SHAPER, 32, 24⟩
abbrev SLC_DELIVER_SHAPER_RESET_TO : FieldPos := ⟨.SLC_DELIVER_SHAPER, 56, 1⟩
abbrev SLC_SEND_SHAPER_RATE : FieldPos := ⟨.SLC_SEND_SHAPER, 0, 21⟩
abbrev SLC_SEND_SHAPER_BURST : FieldPos := ⟨.SLC_SEND_SHAPER, 32, 24⟩
abbrev SLC_SEND_SHAPER_RESET_TO : FieldPos := ⟨.SLC_SEND_SHAPER, 56, 1⟩
abbrev TMS_Q_STATUS_TAG : FieldPos := ⟨.TMS_Q_STATUS, 0, 48⟩
abbrev TMS_Q_STATUS_BACKLOGGED : FieldPos := ⟨.TMS_Q_STATUS, 48, 1⟩
abbrev TMS_Q_STATUS_SHAPED : FieldPos := ⟨.TMS_Q_STATUS, 49, 1⟩
abbrev TMS_Q_STATUS_GATE_CLOSED : FieldPos := ⟨.TMS_Q_STATUS, 50, 1⟩
abbrev TMS_Q_STATUS_PAUSED : FieldPos := ⟨.TMS_Q_STATUS, 51, 1⟩
abbrev TMS_TT_ADMIN_BASE_NANOSECONDS : FieldPos := ⟨.TMS_TT_ADMIN_BASE, 0, 32⟩
abbrev TMS_TT_ADMIN_BASE_SECONDS_LOW : FieldPos := ⟨.TMS_TT_ADMIN_BASE, 32, 32⟩
abbrev TMS_TT_ADMIN_BASE_HIGH_SECONDS_HIGH : FieldPos := ⟨.TMS_TT_ADMIN_BASE_HIGH, 0, 16⟩
abbrev TMS_TT_ADMIN_CYCLE_NS : FieldPos := ⟨.TMS_TT_ADMIN_CYCLE, 0, 32⟩
abbrev TMS_TT_ADMIN_CTRL_LENGTH : FieldPos := ⟨.TMS_TT_ADMIN_CTRL, 0, 11⟩
abbrev TMS_TT_ADMIN_CTRL_CHANGE : FieldPos := ⟨.TMS_TT_ADMIN_CTRL, 16, 1⟩
abbrev TMS_TT_ADMIN_CTRL_CANCEL : FieldPos := ⟨.TMS_TT_ADMIN_CTRL, 17, 1⟩
abbrev TMS_TT_STATUS_PENDING : FieldPos := ⟨.TMS_TT_STATUS, 0, 1⟩
abbrev TMS_TT_STATUS_RUNNING : FieldPos := ⟨.TMS_TT_STATUS, 1, 1⟩
abbrev TMS_TT_STATUS_LAST_STATUS : FieldPos := ⟨.TMS_TT_STATUS, 8, 8⟩
abbrev TMS_TT_STATUS_ENTRY : FieldPos := ⟨.TMS_TT_STATUS, 16, 10⟩
abbrev TMS_TT_STATUS_CT_SECONDS_HIGH : FieldPos := ⟨.TMS_TT_STATUS, 48, 16⟩
abbrev TMS_TT_CHANGE_TIME_NANOSECONDS : FieldPos := ⟨.TMS_TT_CHANGE_TIME, 0, 32⟩
abbrev TMS_TT_CHANGE_TIME_SECONDS_LOW : FieldPos := ⟨.TMS_TT_CHANGE_TIME, 32, 32⟩
abbrev TMS_TT_ADMIN_GATES : FieldPos := ⟨.TMS_TT_ADMIN, 0, 8⟩
abbrev TMS_TT_ADMIN_DURATION : FieldPos := ⟨.TMS_TT_ADMIN, 32, 32⟩
abbrev TMS_POLICER_RATE_CIR : FieldPos := ⟨.TMS_POLICER_RATE, 0, 21⟩
abbrev TMS_POLICER_RATE_PIR : FieldPos := ⟨.TMS_POLICER_RATE, 32, 21⟩
abbrev TMS_POLICER_SIZE_CBS : FieldPos := ⟨.TMS_POLICER_SIZE, 0, 24⟩
abbrev TMS_POLICER_SIZE_PBS : FieldPos := ⟨.TMS_POLICER_SIZE, 32, 24⟩
abbrev TMS_POLICER_SIZE_RED_DROP : FieldPos := ⟨.TMS_POLICER_SIZE, 56, 1⟩
abbrev MGT_TIME_NOW_NANOSECONDS : FieldPos := ⟨.MGT_TIME_NOW, 0, 32⟩
abbrev MGT_TIME_NOW_SECONDS_LOW : FieldPos := ⟨.MGT_TIME_NOW, 32, 32⟩
abbrev MGT_TIME_NOW_HIGH_SECONDS_HIGH : FieldPos := ⟨.MGT_TIME_NOW_HIGH, 0, 16⟩
abbrev MGT_TIME_FREQ_FREQ : FieldPos := ⟨.MGT_TIME_FREQ, 0, 32⟩
abbrev MGT_TIME_STEP_NS : FieldPos := ⟨.MGT_TIME_STEP, 0, 64⟩
abbrev MGT_TIME_CFG_PPS_EDGE : FieldPos := ⟨.MGT_TIME_CFG, 0, 1⟩
abbrev MGT_TIME_CFG_TOD_BAUD : FieldPos := ⟨.MGT_TIME_CFG, 1, 1⟩
abbrev MGT_TIME_STATUS_SEEN_A : FieldPos := ⟨.MGT_TIME_STATUS, 0, 1⟩
abbrev MGT_TIME_STATUS_SEEN_B : FieldPos := ⟨.MGT_TIME_STATUS, 1, 1⟩
abbrev MGT_TIME_STATUS_STEP_REFUSED : FieldPos := ⟨.MGT_TIME_STATUS, 2, 1⟩
abbrev MGT_PPS_CAPTURE_NANOSECONDS : FieldPos := ⟨.MGT_PPS_CAPTURE, 0, 32⟩
abbrev MGT_PPS_CAPTURE_SECONDS_LOW : FieldPos := ⟨.MGT_PPS_CAPTURE, 32, 16⟩
abbrev MGT_PPS_CAPTURE_LOST : FieldPos := ⟨.MGT_PPS_CAPTURE, 62, 1⟩
abbrev MGT_PPS_CAPTURE_VALID : FieldPos := ⟨.MGT_PPS_CAPTURE, 63, 1⟩
abbrev MGT_TOD_DATA_BYTE : FieldPos := ⟨.MGT_TOD_DATA, 0, 8⟩
abbrev MGT_TOD_DATA_VALID : FieldPos := ⟨.MGT_TOD_DATA, 8, 1⟩
abbrev MGT_TOD_DATA_OVERFLOW : FieldPos := ⟨.MGT_TOD_DATA, 9, 1⟩
abbrev OFL_CTRL_MAX_PASSES : FieldPos := ⟨.OFL_CTRL, 0, 4⟩
abbrev OFL_OBJ_DATA_BYTES : FieldPos := ⟨.OFL_OBJ_DATA, 0, 32⟩
abbrev OFL_OBJ_CMD_OP : FieldPos := ⟨.OFL_OBJ_CMD, 0, 2⟩
abbrev OFL_OBJ_CMD_TYPE : FieldPos := ⟨.OFL_OBJ_CMD, 2, 2⟩
abbrev OFL_OBJ_CMD_KEEP_STATE : FieldPos := ⟨.OFL_OBJ_CMD, 4, 1⟩
abbrev OFL_OBJ_CMD_INDEX : FieldPos := ⟨.OFL_OBJ_CMD, 8, 16⟩
abbrev OFL_OBJ_STATUS_BUSY : FieldPos := ⟨.OFL_OBJ_STATUS, 0, 1⟩
abbrev OFL_OBJ_STATUS_CMD_OVERRUN : FieldPos := ⟨.OFL_OBJ_STATUS, 1, 1⟩
abbrev OFL_OBJ_STATUS_LAST_STATUS : FieldPos := ⟨.OFL_OBJ_STATUS, 8, 8⟩
abbrev OFL_EVENT_HEAD_KIND : FieldPos := ⟨.OFL_EVENT_HEAD, 0, 4⟩
abbrev OFL_EVENT_HEAD_VALID : FieldPos := ⟨.OFL_EVENT_HEAD, 15, 1⟩
abbrev OFL_EVENT_HEAD_INDEX : FieldPos := ⟨.OFL_EVENT_HEAD, 16, 16⟩
abbrev OFL_EVENT_HEAD_CAUSE : FieldPos := ⟨.OFL_EVENT_HEAD, 32, 8⟩
abbrev OFL_EVENT_POP_POP : FieldPos := ⟨.OFL_EVENT_POP, 0, 1⟩
abbrev CPH_ENGINE_STATE_STATE : FieldPos := ⟨.CPH_ENGINE_STATE, 0, 2⟩
abbrev CPH_ENGINE_STATE_FAULTS : FieldPos := ⟨.CPH_ENGINE_STATE, 8, 8⟩
abbrev CPH_STATUS_IN_SERVICE : FieldPos := ⟨.CPH_STATUS, 0, 6⟩
abbrev CPH_STATUS_LIMIT_REFUSED : FieldPos := ⟨.CPH_STATUS, 6, 1⟩
abbrev CPH_STATUS_PERSIST_USED : FieldPos := ⟨.CPH_STATUS, 8, 12⟩
abbrev CPH_CTX_SELECT_INDEX : FieldPos := ⟨.CPH_CTX_SELECT, 0, 18⟩
abbrev CPH_CTX_STATUS_STATE : FieldPos := ⟨.CPH_CTX_STATUS, 0, 2⟩
abbrev CPH_CTX_STATUS_ALG : FieldPos := ⟨.CPH_CTX_STATUS, 2, 3⟩
abbrev CPH_CTX_STATUS_HOT : FieldPos := ⟨.CPH_CTX_STATUS, 5, 1⟩
abbrev CPH_CTX_STATUS_AT_LIMIT : FieldPos := ⟨.CPH_CTX_STATUS, 6, 1⟩
abbrev CPH_CTX_STATUS_SUCCESSOR : FieldPos := ⟨.CPH_CTX_STATUS, 7, 1⟩
abbrev CPH_CTX_STATUS_PREVIOUS : FieldPos := ⟨.CPH_CTX_STATUS, 8, 1⟩
abbrev CPH_CTX_STATUS_PERSIST : FieldPos := ⟨.CPH_CTX_STATUS, 9, 1⟩
abbrev CPH_CTX_STATUS_CKPT_WAIT : FieldPos := ⟨.CPH_CTX_STATUS, 10, 1⟩
abbrev CPH_CTX_STATUS_EPOCH : FieldPos := ⟨.CPH_CTX_STATUS, 16, 8⟩
abbrev CPH_CTX_STATUS_OWNER : FieldPos := ⟨.CPH_CTX_STATUS, 32, 12⟩
abbrev CPH_CTX_STATUS_IV_PREFIX : FieldPos := ⟨.CPH_CTX_STATUS, 48, 16⟩
abbrev CPH_CTX_USED_USED : FieldPos := ⟨.CPH_CTX_USED, 0, 49⟩
abbrev CPH_CTX_BYTES_BYTES : FieldPos := ⟨.CPH_CTX_BYTES, 0, 51⟩
abbrev CPH_CTX_LIMIT_LIMIT : FieldPos := ⟨.CPH_CTX_LIMIT, 0, 49⟩
abbrev CPH_CTX_BYTE_LIMIT_BYTE_LIMIT : FieldPos := ⟨.CPH_CTX_BYTE_LIMIT, 0, 51⟩
abbrev CPH_CTX_CHECKPOINT_P : FieldPos := ⟨.CPH_CTX_CHECKPOINT, 0, 49⟩
abbrev CPH_CTX_CTRL_WEIGHT : FieldPos := ⟨.CPH_CTX_CTRL, 0, 8⟩
abbrev CPH_CTX_CTRL_PIN : FieldPos := ⟨.CPH_CTX_CTRL, 8, 1⟩
abbrev CPH_CTX_CMD_OP : FieldPos := ⟨.CPH_CTX_CMD, 0, 2⟩
abbrev HEP_PORT_CFG_ENABLE : FieldPos := ⟨.HEP_PORT_CFG, 0, 1⟩
abbrev HEP_PORT_CFG_WIDTH : FieldPos := ⟨.HEP_PORT_CFG, 1, 2⟩
abbrev HEP_PORT_CFG_SRIS : FieldPos := ⟨.HEP_PORT_CFG, 3, 1⟩
abbrev HEP_TAG_STATUS_IN_FLIGHT : FieldPos := ⟨.HEP_TAG_STATUS, 0, 15⟩
abbrev HEP_TAG_STATUS_QUARANTINED : FieldPos := ⟨.HEP_TAG_STATUS, 16, 15⟩
abbrev HEP_LINK_CTRL_MAX_SPEED : FieldPos := ⟨.HEP_LINK_CTRL, 0, 3⟩
abbrev HEP_LINK_CTRL_RETRAIN : FieldPos := ⟨.HEP_LINK_CTRL, 3, 1⟩
abbrev HEP_LINK_STATUS_DL_UP : FieldPos := ⟨.HEP_LINK_STATUS, 0, 1⟩
abbrev HEP_LINK_STATUS_FLIT : FieldPos := ⟨.HEP_LINK_STATUS, 1, 1⟩
abbrev HEP_LINK_STATUS_SPEED : FieldPos := ⟨.HEP_LINK_STATUS, 2, 3⟩
abbrev HEP_LINK_STATUS_WIDTH : FieldPos := ⟨.HEP_LINK_STATUS, 5, 5⟩
abbrev HEP_LINK_STATUS_PERST : FieldPos := ⟨.HEP_LINK_STATUS, 10, 1⟩
abbrev HEP_LINK_STATUS_FLR_PF0 : FieldPos := ⟨.HEP_LINK_STATUS, 11, 1⟩
abbrev HEP_LINK_STATUS_FLR_PF1 : FieldPos := ⟨.HEP_LINK_STATUS, 12, 1⟩
abbrev HEP_IDE_CTRL_REQUIRED : FieldPos := ⟨.HEP_IDE_CTRL, 0, 1⟩
abbrev HEP_IDE_CTRL_TX_STREAM : FieldPos := ⟨.HEP_IDE_CTRL, 1, 2⟩
abbrev HEP_IDE_STATUS_SECURE : FieldPos := ⟨.HEP_IDE_STATUS, 0, 4⟩
abbrev HEP_IDE_STATUS_CHECK_FAILED : FieldPos := ⟨.HEP_IDE_STATUS, 4, 4⟩
abbrev HEP_LINK_BARS_PF1_BAR0_LOG2 : FieldPos := ⟨.HEP_LINK_BARS, 0, 5⟩
abbrev HEP_LINK_BARS_PF1_BAR2_LOG2 : FieldPos := ⟨.HEP_LINK_BARS, 8, 5⟩
abbrev HEP_LINK_BARS_PF0_MSE : FieldPos := ⟨.HEP_LINK_BARS, 16, 1⟩
abbrev HEP_LINK_BARS_PF0_BME : FieldPos := ⟨.HEP_LINK_BARS, 17, 1⟩
abbrev HEP_LINK_BARS_PF1_MSE : FieldPos := ⟨.HEP_LINK_BARS, 18, 1⟩
abbrev HEP_LINK_BARS_PF1_BME : FieldPos := ⟨.HEP_LINK_BARS, 19, 1⟩
abbrev HEP_LINK_BARS_PF1_PASID_EN : FieldPos := ⟨.HEP_LINK_BARS, 20, 1⟩
abbrev HEP_LINK_BARS_PF1_D3HOT : FieldPos := ⟨.HEP_LINK_BARS, 21, 1⟩
abbrev SLC_CMD_OP : FieldPos := ⟨.SLC_CMD, 0, 3⟩
abbrev SLC_CMD_SLICE : FieldPos := ⟨.SLC_CMD, 8, 12⟩
abbrev SLC_STATUS_LAST_STATUS : FieldPos := ⟨.SLC_STATUS, 0, 8⟩
abbrev SLC_STATUS_CFG_REFUSED : FieldPos := ⟨.SLC_STATUS, 8, 1⟩
abbrev SLC_PEER_SHARE_BASE_MIB : FieldPos := ⟨.SLC_PEER_SHARE, 0, 20⟩
abbrev SLC_PEER_SHARE_SIZE_MIB : FieldPos := ⟨.SLC_PEER_SHARE, 32, 20⟩
abbrev SLC_SLICE_BIND_PASID : FieldPos := ⟨.SLC_SLICE_BIND, 0, 20⟩
abbrev SLC_SLICE_BIND_LINK : FieldPos := ⟨.SLC_SLICE_BIND, 20, 6⟩
abbrev SLC_SLICE_BIND_PAGE : FieldPos := ⟨.SLC_SLICE_BIND, 32, 12⟩
abbrev SLC_SLICE_STATE_STATE : FieldPos := ⟨.SLC_SLICE_STATE, 0, 2⟩
abbrev SLC_SLICE_STATE_AUTO_RESTART : FieldPos := ⟨.SLC_SLICE_STATE, 2, 1⟩
abbrev SLC_SLICE_STATE_FORMAT : FieldPos := ⟨.SLC_SLICE_STATE, 4, 2⟩
abbrev SLC_SLICE_STATE_GENERATION : FieldPos := ⟨.SLC_SLICE_STATE, 8, 8⟩
abbrev SLC_SLICE_STATE_STALE : FieldPos := ⟨.SLC_SLICE_STATE, 32, 32⟩
abbrev SLC_GRANT_Q_QUEUE_BASE : FieldPos := ⟨.SLC_GRANT_Q, 0, 16⟩
abbrev SLC_GRANT_Q_QUEUE_COUNT : FieldPos := ⟨.SLC_GRANT_Q, 16, 7⟩
abbrev SLC_GRANT_Q_VECTOR_BASE : FieldPos := ⟨.SLC_GRANT_Q, 32, 11⟩
abbrev SLC_GRANT_Q_VECTOR_COUNT : FieldPos := ⟨.SLC_GRANT_Q, 43, 8⟩
abbrev SLC_GRANT_Q_CB_VECTOR : FieldPos := ⟨.SLC_GRANT_Q, 51, 7⟩
abbrev SLC_GRANT_R_BUF_QUOTA : FieldPos := ⟨.SLC_GRANT_R, 0, 21⟩
abbrev SLC_GRANT_R_CIPHER_SHARE : FieldPos := ⟨.SLC_GRANT_R, 21, 6⟩
abbrev SLC_GRANT_R_KEY_CTX_MAX : FieldPos := ⟨.SLC_GRANT_R, 32, 19⟩
abbrev SLC_GRANT_R_FORMATS_ALLOWED : FieldPos := ⟨.SLC_GRANT_R, 56, 8⟩
abbrev SLC_WEIGHT_WEIGHT : FieldPos := ⟨.SLC_WEIGHT, 0, 16⟩
abbrev SLC_USAGE_BUF_CELLS : FieldPos := ⟨.SLC_USAGE, 0, 21⟩
abbrev SLC_USAGE_KEY_CTX_OWNED : FieldPos := ⟨.SLC_USAGE, 32, 19⟩
abbrev SLC_QUEUE_CFG_CLASS : FieldPos := ⟨.SLC_QUEUE_CFG, 0, 3⟩
abbrev SLC_QUEUE_CFG_KIND : FieldPos := ⟨.SLC_QUEUE_CFG, 3, 2⟩
abbrev QRG_Q_SQ_BASE_ADDR : FieldPos := ⟨.QRG_Q_SQ_BASE, 6, 58⟩
abbrev QRG_Q_CQ_BASE_ADDR : FieldPos := ⟨.QRG_Q_CQ_BASE, 6, 58⟩
abbrev QRG_Q_SHADOW_ADDR : FieldPos := ⟨.QRG_Q_SHADOW, 3, 61⟩
abbrev QRG_Q_CTRL_ENABLE : FieldPos := ⟨.QRG_Q_CTRL, 0, 1⟩
abbrev QRG_Q_CTRL_RESUME : FieldPos := ⟨.QRG_Q_CTRL, 1, 1⟩
abbrev QRG_Q_CTRL_ROLE : FieldPos := ⟨.QRG_Q_CTRL, 2, 1⟩
abbrev QRG_Q_CTRL_SQ_LOG2 : FieldPos := ⟨.QRG_Q_CTRL, 4, 4⟩
abbrev QRG_Q_CTRL_CQ_LOG2 : FieldPos := ⟨.QRG_Q_CTRL, 8, 4⟩
abbrev QRG_Q_CTRL_PREFETCH : FieldPos := ⟨.QRG_Q_CTRL, 12, 5⟩
abbrev QRG_Q_CTRL_VECTOR : FieldPos := ⟨.QRG_Q_CTRL, 17, 7⟩
abbrev QRG_Q_IRQ_IRQ_COUNT : FieldPos := ⟨.QRG_Q_IRQ, 0, 8⟩
abbrev QRG_Q_IRQ_IRQ_US : FieldPos := ⟨.QRG_Q_IRQ, 8, 10⟩
abbrev QRG_Q_STATUS_STATE : FieldPos := ⟨.QRG_Q_STATUS, 0, 2⟩
abbrev QRG_Q_STATUS_CFG_REFUSED : FieldPos := ⟨.QRG_Q_STATUS, 2, 1⟩
abbrev QRG_Q_STATUS_ERR_CODE : FieldPos := ⟨.QRG_Q_STATUS, 8, 8⟩
abbrev QRG_Q_STATUS_SQ_HEAD : FieldPos := ⟨.QRG_Q_STATUS, 16, 16⟩
abbrev QRG_Q_STATUS_SQ_TAIL : FieldPos := ⟨.QRG_Q_STATUS, 32, 16⟩
abbrev QRG_Q_STATUS_CQ_TAIL : FieldPos := ⟨.QRG_Q_STATUS, 48, 16⟩
abbrev QRG_ERR_INDEX_INDEX : FieldPos := ⟨.QRG_ERR_INDEX, 0, 16⟩
abbrev QRG_ERR_INDEX_SOURCE : FieldPos := ⟨.QRG_ERR_INDEX, 16, 2⟩
abbrev QRG_ERR_INDEX_OVERFLOW : FieldPos := ⟨.QRG_ERR_INDEX, 24, 4⟩
abbrev QRG_Q_CQ_STATUS_CQ_HEAD : FieldPos := ⟨.QRG_Q_CQ_STATUS, 0, 16⟩
abbrev QRG_Q_CQ_STATUS_PHASE : FieldPos := ⟨.QRG_Q_CQ_STATUS, 16, 1⟩
abbrev QRG_RX_STEER_ENTRY_0 : FieldPos := ⟨.QRG_RX_STEER, 0, 6⟩
abbrev QRG_RX_STEER_ENTRY_1 : FieldPos := ⟨.QRG_RX_STEER, 8, 6⟩
abbrev QRG_RX_STEER_ENTRY_2 : FieldPos := ⟨.QRG_RX_STEER, 16, 6⟩
abbrev QRG_RX_STEER_ENTRY_3 : FieldPos := ⟨.QRG_RX_STEER, 24, 6⟩
abbrev QRG_STALL_LIMITS_CQ_STALL_MS : FieldPos := ⟨.QRG_STALL_LIMITS, 0, 16⟩
abbrev QRG_STALL_LIMITS_RX_STALL_US : FieldPos := ⟨.QRG_STALL_LIMITS, 16, 16⟩
abbrev BMV_PORT_STAGE_DELIVERY : FieldPos := ⟨.BMV_PORT_STAGE, 0, 10⟩
abbrev BMV_PORT_STAGE_QUEUE : FieldPos := ⟨.BMV_PORT_STAGE, 10, 10⟩
abbrev BMV_PORT_STAGE_CHANNEL : FieldPos := ⟨.BMV_PORT_STAGE, 20, 10⟩
abbrev BMV_PORT_STAGE_CH_USED : FieldPos := ⟨.BMV_PORT_STAGE, 32, 10⟩
abbrev BMV_PORT_CFG_RETRY_LIMIT : FieldPos := ⟨.BMV_PORT_CFG, 0, 3⟩
abbrev BMV_STATUS_CFG_REFUSED : FieldPos := ⟨.BMV_STATUS, 0, 1⟩
abbrev BMV_REQ_RAISE_LINE : FieldPos := ⟨.BMV_REQ_RAISE, 0, 8⟩
abbrev BMV_CH_CFG_HOST_PORT : FieldPos := ⟨.BMV_CH_CFG, 0, 4⟩
abbrev BMV_CH_CFG_LINK : FieldPos := ⟨.BMV_CH_CFG, 4, 2⟩
abbrev BMV_CH_CFG_SLICE : FieldPos := ⟨.BMV_CH_CFG, 8, 12⟩
abbrev BMV_CH_CFG_SRC_SPACE : FieldPos := ⟨.BMV_CH_CFG, 20, 2⟩
abbrev BMV_CH_CFG_DST_SPACE : FieldPos := ⟨.BMV_CH_CFG, 22, 2⟩
abbrev BMV_CH_CFG_DESC_SPACE : FieldPos := ⟨.BMV_CH_CFG, 24, 2⟩
abbrev BMV_CH_CFG_CLUSTER : FieldPos := ⟨.BMV_CH_CFG, 26, 3⟩
abbrev BMV_CH_CFG_RETRY_LIMIT : FieldPos := ⟨.BMV_CH_CFG, 32, 3⟩
abbrev BMV_CH_CFG_PRIO : FieldPos := ⟨.BMV_CH_CFG, 35, 1⟩
abbrev BMV_CH_CFG_REQ_LINE : FieldPos := ⟨.BMV_CH_CFG, 36, 8⟩
abbrev BMV_CH_CFG_BURST_LOG2 : FieldPos := ⟨.BMV_CH_CFG, 44, 4⟩
abbrev BMV_CH_CFG_NOTIFY : FieldPos := ⟨.BMV_CH_CFG, 48, 1⟩
abbrev BMV_CH_CFG_NOTIFY_THREAD : FieldPos := ⟨.BMV_CH_CFG, 49, 11⟩
abbrev BMV_CH_NEXT_ADDR : FieldPos := ⟨.BMV_CH_NEXT, 5, 59⟩
abbrev BMV_CH_CTRL_ENABLE : FieldPos := ⟨.BMV_CH_CTRL, 0, 1⟩
abbrev BMV_CH_CTRL_ABORT : FieldPos := ⟨.BMV_CH_CTRL, 1, 1⟩
abbrev BMV_CH_CTRL_APPEND : FieldPos := ⟨.BMV_CH_CTRL, 2, 1⟩
abbrev BMV_CH_CTRL_STAGE_MAX : FieldPos := ⟨.BMV_CH_CTRL, 4, 8⟩
abbrev BMV_CH_STATUS_STATE : FieldPos := ⟨.BMV_CH_STATUS, 0, 2⟩
abbrev BMV_CH_STATUS_STOPPING : FieldPos := ⟨.BMV_CH_STATUS, 2, 1⟩
abbrev BMV_CH_STATUS_APPEND_PENDING : FieldPos := ⟨.BMV_CH_STATUS, 3, 1⟩
abbrev BMV_CH_STATUS_REQ_WAIT : FieldPos := ⟨.BMV_CH_STATUS, 4, 1⟩
abbrev BMV_CH_STATUS_LAST_STATUS : FieldPos := ⟨.BMV_CH_STATUS, 8, 8⟩
abbrev BMV_CH_STATUS_PENDING : FieldPos := ⟨.BMV_CH_STATUS, 16, 16⟩
abbrev BMV_CH_STATUS_GEN : FieldPos := ⟨.BMV_CH_STATUS, 32, 8⟩
abbrev BMV_CH_STATUS_RETRIES_USED : FieldPos := ⟨.BMV_CH_STATUS, 40, 3⟩
abbrev BMV_CH_CUR_ADDR : FieldPos := ⟨.BMV_CH_CUR, 5, 59⟩
abbrev BMV_CH_DONE_COUNT : FieldPos := ⟨.BMV_CH_DONE, 0, 32⟩
abbrev TRP_CLUSTER_CFG_RUN : FieldPos := ⟨.TRP_CLUSTER_CFG, 0, 1⟩
abbrev TRP_CLUSTER_CFG_PAIRED : FieldPos := ⟨.TRP_CLUSTER_CFG, 1, 1⟩
abbrev TRP_CLUSTER_CFG_CTRL_WRITE : FieldPos := ⟨.TRP_CLUSTER_CFG, 2, 1⟩
abbrev TRP_CLUSTER_CFG_CFG_REFUSED : FieldPos := ⟨.TRP_CLUSTER_CFG, 8, 1⟩
abbrev TRP_DQ_CFG_BASE : FieldPos := ⟨.TRP_DQ_CFG, 0, 24⟩
abbrev TRP_DQ_CFG_LOG2_SLOTS : FieldPos := ⟨.TRP_DQ_CFG, 24, 4⟩
abbrev TRP_DQ_CFG_LOG2_SLOT : FieldPos := ⟨.TRP_DQ_CFG, 28, 4⟩
abbrev TRP_DQ_CFG_CORE : FieldPos := ⟨.TRP_DQ_CFG, 32, 4⟩
abbrev TRP_DQ_CFG_THREAD_MASK : FieldPos := ⟨.TRP_DQ_CFG, 36, 16⟩
abbrev TRP_DQ_CFG_ENABLE : FieldPos := ⟨.TRP_DQ_CFG, 52, 1⟩
abbrev TRP_DQ_STATUS_PROD : FieldPos := ⟨.TRP_DQ_STATUS, 0, 16⟩
abbrev TRP_DQ_STATUS_CONS : FieldPos := ⟨.TRP_DQ_STATUS, 16, 16⟩
abbrev TRP_DQ_CONS_CONS : FieldPos := ⟨.TRP_DQ_CONS, 0, 16⟩
abbrev TRP_CORE_CFG_HIPRI : FieldPos := ⟨.TRP_CORE_CFG, 0, 4⟩
abbrev TRP_CORE_CFG_HIPRI_EN : FieldPos := ⟨.TRP_CORE_CFG, 4, 1⟩
abbrev TRP_CORE_CFG_RESET : FieldPos := ⟨.TRP_CORE_CFG, 5, 1⟩
abbrev TRP_CORE_STATUS_STALL : FieldPos := ⟨.TRP_CORE_STATUS, 0, 1⟩
abbrev TRP_CORE_STATUS_RESETTING : FieldPos := ⟨.TRP_CORE_STATUS, 1, 1⟩
abbrev TRP_CORE_STATUS_LAST_RESET : FieldPos := ⟨.TRP_CORE_STATUS, 2, 2⟩
abbrev TRP_CORE_STATUS_RESETS : FieldPos := ⟨.TRP_CORE_STATUS, 16, 16⟩
abbrev TRP_THREAD_CTRL_OP : FieldPos := ⟨.TRP_THREAD_CTRL, 0, 2⟩
abbrev TRP_THREAD_CTRL_PC : FieldPos := ⟨.TRP_THREAD_CTRL, 32, 32⟩
abbrev TRP_THREAD_STATUS_STATE : FieldPos := ⟨.TRP_THREAD_STATUS, 0, 3⟩
abbrev TRP_THREAD_STATUS_CH_BUSY : FieldPos := ⟨.TRP_THREAD_STATUS, 8, 4⟩
abbrev TRP_THREAD_STATUS_PENDING : FieldPos := ⟨.TRP_THREAD_STATUS, 32, 32⟩
abbrev TRP_THREAD_FAULT_CAUSE : FieldPos := ⟨.TRP_THREAD_FAULT, 0, 6⟩
abbrev TRP_THREAD_FAULT_VALID : FieldPos := ⟨.TRP_THREAD_FAULT, 8, 1⟩
abbrev TRP_THREAD_FAULT_PC : FieldPos := ⟨.TRP_THREAD_FAULT, 32, 32⟩
abbrev TRP_THREAD_TVAL_TVAL : FieldPos := ⟨.TRP_THREAD_TVAL, 0, 64⟩
abbrev TRP_THREAD_EVSET_EVENTS : FieldPos := ⟨.TRP_THREAD_EVSET, 0, 16⟩
abbrev TRP_DIE_SLOW_CLUSTERS : FieldPos := ⟨.TRP_DIE_SLOW, 0, 4⟩
abbrev CBD_SLOT_WRITE_WORD : FieldPos := ⟨.CBD_SLOT_WRITE, 0, 32⟩
abbrev CBD_PENDING_SLOTS : FieldPos := ⟨.CBD_PENDING, 0, 32⟩
abbrev CBD_DEV_NOTIFY_TARGET : FieldPos := ⟨.CBD_DEV_NOTIFY, 0, 2⟩
abbrev CBD_DEV_NOTIFY_THREAD : FieldPos := ⟨.CBD_DEV_NOTIFY, 2, 11⟩
abbrev CBD_DEV_NOTIFY_LINE : FieldPos := ⟨.CBD_DEV_NOTIFY, 13, 6⟩
abbrev RDN_LOCAL_VRING_REQ_PROD : FieldPos := ⟨.RDN_LOCAL_VRING, 0, 16⟩
abbrev RDN_LOCAL_VRING_REQ_CONS : FieldPos := ⟨.RDN_LOCAL_VRING, 16, 16⟩
abbrev RDN_LOCAL_VRING_RPL_PROD : FieldPos := ⟨.RDN_LOCAL_VRING, 32, 16⟩
abbrev RDN_LOCAL_VRING_RPL_CONS : FieldPos := ⟨.RDN_LOCAL_VRING, 48, 16⟩
abbrev RDN_LOCAL_EVENTS_FLT : FieldPos := ⟨.RDN_LOCAL_EVENTS, 0, 1⟩
abbrev RDN_LOCAL_EVENTS_TBL : FieldPos := ⟨.RDN_LOCAL_EVENTS, 1, 1⟩
abbrev RDN_LOCAL_EVENTS_OFL : FieldPos := ⟨.RDN_LOCAL_EVENTS, 2, 1⟩
abbrev RDN_LOCAL_EVENTS_CBD : FieldPos := ⟨.RDN_LOCAL_EVENTS, 3, 1⟩
abbrev RDN_LOCAL_EVENTS_TRP : FieldPos := ⟨.RDN_LOCAL_EVENTS, 4, 1⟩
abbrev RDN_LOCAL_EVENTS_TIME : FieldPos := ⟨.RDN_LOCAL_EVENTS, 5, 1⟩
abbrev RDN_LOCAL_EVENTS_VAULT : FieldPos := ⟨.RDN_LOCAL_EVENTS, 6, 1⟩
abbrev RDN_LOCAL_EVENTS_LEAD_LOST : FieldPos := ⟨.RDN_LOCAL_EVENTS, 7, 1⟩
abbrev RDN_LOCAL_EVENTS_UNDERSTUDY_LOST : FieldPos := ⟨.RDN_LOCAL_EVENTS, 8, 1⟩
abbrev RDN_LOCAL_EVENTS_REHEARSAL : FieldPos := ⟨.RDN_LOCAL_EVENTS, 9, 1⟩
abbrev RDN_LOCAL_EVENTS_REHEARSAL_FAILED : FieldPos := ⟨.RDN_LOCAL_EVENTS, 10, 1⟩
abbrev RDN_LOCAL_EVENTS_BILLING_EQUAL : FieldPos := ⟨.RDN_LOCAL_EVENTS, 11, 1⟩
abbrev RDN_LOCAL_EVENTS_FRAME_RX : FieldPos := ⟨.RDN_LOCAL_EVENTS, 12, 1⟩
abbrev RDN_LOCAL_RX_CFG_BASE : FieldPos := ⟨.RDN_LOCAL_RX_CFG, 0, 30⟩
abbrev RDN_LOCAL_RX_CFG_LOG2_SLOTS : FieldPos := ⟨.RDN_LOCAL_RX_CFG, 32, 4⟩
abbrev RDN_LOCAL_RX_CFG_ENABLE : FieldPos := ⟨.RDN_LOCAL_RX_CFG, 36, 1⟩
abbrev RDN_LOCAL_TX_CFG_BASE : FieldPos := ⟨.RDN_LOCAL_TX_CFG, 0, 30⟩
abbrev RDN_LOCAL_TX_CFG_LOG2_SLOTS : FieldPos := ⟨.RDN_LOCAL_TX_CFG, 32, 4⟩
abbrev RDN_LOCAL_TX_CFG_ENABLE : FieldPos := ⟨.RDN_LOCAL_TX_CFG, 36, 1⟩
abbrev RDN_LOCAL_RX_PTR_PROD : FieldPos := ⟨.RDN_LOCAL_RX_PTR, 0, 16⟩
abbrev RDN_LOCAL_RX_PTR_CONS : FieldPos := ⟨.RDN_LOCAL_RX_PTR, 16, 16⟩
abbrev RDN_LOCAL_TX_PTR_PROD : FieldPos := ⟨.RDN_LOCAL_TX_PTR, 0, 16⟩
abbrev RDN_LOCAL_TX_PTR_CONS : FieldPos := ⟨.RDN_LOCAL_TX_PTR, 16, 16⟩
abbrev RDN_CFG_GAP_MODE : FieldPos := ⟨.RDN_CFG, 0, 1⟩
abbrev RDN_CFG_GAP_CYCLES : FieldPos := ⟨.RDN_CFG, 1, 15⟩
abbrev RDN_CFG_REHEARSAL_HOURS : FieldPos := ⟨.RDN_CFG, 16, 10⟩
abbrev RDN_CFG_KICK_LIMIT_US : FieldPos := ⟨.RDN_CFG, 26, 16⟩
abbrev RDN_CFG_EVENT_BOTH : FieldPos := ⟨.RDN_CFG, 42, 1⟩
abbrev RDN_CFG_EVENT_CORE : FieldPos := ⟨.RDN_CFG, 43, 2⟩
abbrev RDN_BILLING_NUMBER : FieldPos := ⟨.RDN_BILLING, 0, 16⟩
abbrev RDN_BILLING_LEAD : FieldPos := ⟨.RDN_BILLING, 16, 1⟩
abbrev RDN_BILLING_STATE : FieldPos := ⟨.RDN_BILLING, 17, 2⟩
abbrev RDN_BILLING_MESH_SILENT : FieldPos := ⟨.RDN_BILLING, 19, 1⟩
abbrev RDN_BILLING_SIDEBAND_SILENT : FieldPos := ⟨.RDN_BILLING, 20, 1⟩
abbrev RDN_CLAIM_EXPECT : FieldPos := ⟨.RDN_CLAIM, 0, 16⟩
abbrev RDN_CLAIM_KIND : FieldPos := ⟨.RDN_CLAIM, 16, 2⟩
abbrev RDN_KICK_KICK : FieldPos := ⟨.RDN_KICK, 0, 1⟩
abbrev RDN_REHEARSAL_YIELD : FieldPos := ⟨.RDN_REHEARSAL, 0, 1⟩
abbrev RDN_REHEARSAL_DONE : FieldPos := ⟨.RDN_REHEARSAL, 1, 1⟩
abbrev RDN_REHEARSAL_PHASE : FieldPos := ⟨.RDN_REHEARSAL, 2, 2⟩
abbrev RDN_REHEARSAL_PAIR_UNIT : FieldPos := ⟨.RDN_REHEARSAL, 4, 5⟩
abbrev RDN_STATUS_GAP : FieldPos := ⟨.RDN_STATUS, 0, 10⟩
abbrev RDN_STATUS_PATH_DEGRADED : FieldPos := ⟨.RDN_STATUS, 16, 10⟩
abbrev RDN_STATUS_LAST_CLAIM : FieldPos := ⟨.RDN_STATUS, 32, 8⟩
abbrev RDN_PROBE_START : FieldPos := ⟨.RDN_PROBE, 0, 1⟩
abbrev RDN_PROBE_STATUS_ACCEPTED : FieldPos := ⟨.RDN_PROBE_STATUS, 0, 6⟩
abbrev RDN_PROBE_STATUS_DONE : FieldPos := ⟨.RDN_PROBE_STATUS, 6, 1⟩
abbrev RDN_REFUSED_LAST_ADDRESS : FieldPos := ⟨.RDN_REFUSED_LAST, 0, 32⟩
abbrev RDN_REFUSED_LAST_REQUESTER : FieldPos := ⟨.RDN_REFUSED_LAST, 32, 16⟩
abbrev RDN_REFUSED_LAST_GATE : FieldPos := ⟨.RDN_REFUSED_LAST, 48, 3⟩
abbrev RDN_REFUSED_LAST_VALID : FieldPos := ⟨.RDN_REFUSED_LAST, 63, 1⟩
abbrev STK_CFG_MAX_VERSION : FieldPos := ⟨.STK_CFG, 0, 2⟩
abbrev STK_CFG_TIME_STEP_EN : FieldPos := ⟨.STK_CFG, 2, 1⟩
abbrev STK_CFG_LEAD_US : FieldPos := ⟨.STK_CFG, 16, 16⟩
abbrev STK_STATUS_STATE : FieldPos := ⟨.STK_STATUS, 0, 3⟩
abbrev STK_STATUS_WINGS_CAUSE : FieldPos := ⟨.STK_STATUS, 4, 4⟩
abbrev STK_STATUS_MEMBER : FieldPos := ⟨.STK_STATUS, 8, 3⟩
abbrev STK_STATUS_MASTER : FieldPos := ⟨.STK_STATUS, 11, 3⟩
abbrev STK_STATUS_MASTER_VALID : FieldPos := ⟨.STK_STATUS, 14, 1⟩
abbrev STK_STATUS_VISIBLE : FieldPos := ⟨.STK_STATUS, 16, 8⟩
abbrev STK_STATUS_NUMBER : FieldPos := ⟨.STK_STATUS, 32, 16⟩
abbrev STK_STATUS_MASTER_NUM : FieldPos := ⟨.STK_STATUS, 48, 16⟩
abbrev STK_SCENE_MSCENE : FieldPos := ⟨.STK_SCENE, 0, 16⟩
abbrev STK_TIME_OFFSET_NS : FieldPos := ⟨.STK_TIME_OFFSET, 0, 64⟩
abbrev STK_RX_CFG_BASE : FieldPos := ⟨.STK_RX_CFG, 0, 30⟩
abbrev STK_RX_CFG_LOG2_SLOTS : FieldPos := ⟨.STK_RX_CFG, 32, 4⟩
abbrev STK_RX_CFG_ENABLE : FieldPos := ⟨.STK_RX_CFG, 36, 1⟩
abbrev STK_RX_PTR_PROD : FieldPos := ⟨.STK_RX_PTR, 0, 16⟩
abbrev STK_RX_PTR_CONS : FieldPos := ⟨.STK_RX_PTR, 16, 16⟩
abbrev STK_TX_CMD_ADDR : FieldPos := ⟨.STK_TX_CMD, 0, 30⟩
abbrev STK_TX_CMD_LENGTH : FieldPos := ⟨.STK_TX_CMD, 32, 14⟩
abbrev STK_TX_CMD_MASK : FieldPos := ⟨.STK_TX_CMD, 48, 8⟩
abbrev STK_TX_CMD_TYPE : FieldPos := ⟨.STK_TX_CMD, 56, 4⟩
abbrev STK_TX_CMD_BUSY : FieldPos := ⟨.STK_TX_CMD, 60, 1⟩
abbrev STK_MEMBER_NUMBER : FieldPos := ⟨.STK_MEMBER, 0, 16⟩
abbrev STK_MEMBER_STATE : FieldPos := ⟨.STK_MEMBER, 16, 3⟩
abbrev STK_MEMBER_DIGEST_MATCH : FieldPos := ⟨.STK_MEMBER, 19, 1⟩
abbrev STK_MEMBER_VERSION : FieldPos := ⟨.STK_MEMBER, 20, 2⟩
abbrev STK_MEMBER_LINKS : FieldPos := ⟨.STK_MEMBER, 22, 6⟩
abbrev STK_LINK_BAROD : FieldPos := ⟨.STK_LINK, 0, 1⟩
abbrev STK_LINK_ESTABLISHED : FieldPos := ⟨.STK_LINK, 1, 1⟩
abbrev STK_LINK_SILENT : FieldPos := ⟨.STK_LINK, 2, 1⟩
abbrev STK_LINK_VERSION : FieldPos := ⟨.STK_LINK, 3, 2⟩
abbrev STK_LINK_PEER : FieldPos := ⟨.STK_LINK, 5, 3⟩
abbrev STK_LINK_DELAY_NS : FieldPos := ⟨.STK_LINK, 32, 32⟩
abbrev GLT_CLOCK_STATUS_CORE_LOCK : FieldPos := ⟨.GLT_CLOCK_STATUS, 0, 1⟩
abbrev GLT_CLOCK_STATUS_ENGINE_LOCK : FieldPos := ⟨.GLT_CLOCK_STATUS, 1, 1⟩
abbrev GLT_CLOCK_STATUS_VAULT_LOCK : FieldPos := ⟨.GLT_CLOCK_STATUS, 2, 1⟩
abbrev GLT_CLOCK_STATUS_HBM_LOCK : FieldPos := ⟨.GLT_CLOCK_STATUS, 3, 1⟩
abbrev GLT_CLOCK_STATUS_LANE_LOCK : FieldPos := ⟨.GLT_CLOCK_STATUS, 8, 16⟩
abbrev GLT_CLOCK_STATUS_GHOST_LOST : FieldPos := ⟨.GLT_CLOCK_STATUS, 24, 1⟩
abbrev GLT_SENSE_ZEROIZE : FieldPos := ⟨.GLT_SENSE, 0, 1⟩
abbrev GLT_SENSE_TAMPER : FieldPos := ⟨.GLT_SENSE, 1, 1⟩
abbrev GLT_SENSE_WARM : FieldPos := ⟨.GLT_SENSE, 2, 1⟩
abbrev PWR_CMD_DOMAIN : FieldPos := ⟨.PWR_CMD, 0, 6⟩
abbrev PWR_CMD_OP : FieldPos := ⟨.PWR_CMD, 6, 2⟩
abbrev PWR_DOMAIN_CTRL_ENABLE : FieldPos := ⟨.PWR_DOMAIN_CTRL, 0, 1⟩
abbrev PWR_DOMAIN_CTRL_AUTO_SLEEP : FieldPos := ⟨.PWR_DOMAIN_CTRL, 1, 1⟩
abbrev PWR_DOMAIN_CTRL_IDLE_US : FieldPos := ⟨.PWR_DOMAIN_CTRL, 16, 16⟩
abbrev PWR_DOMAIN_STATUS_STATE : FieldPos := ⟨.PWR_DOMAIN_STATUS, 0, 3⟩
abbrev PWR_DOMAIN_STATUS_LAST_STATUS : FieldPos := ⟨.PWR_DOMAIN_STATUS, 8, 8⟩
abbrev PWR_DOMAIN_STATUS_COUNT : FieldPos := ⟨.PWR_DOMAIN_STATUS, 16, 16⟩
abbrev FLT_STATUS_RECORDS : FieldPos := ⟨.FLT_STATUS, 0, 9⟩
abbrev FLT_STATUS_RETIRE_USED : FieldPos := ⟨.FLT_STATUS, 12, 12⟩
abbrev FLT_STATUS_DEVICE_CAUSE : FieldPos := ⟨.FLT_STATUS, 24, 4⟩
abbrev FLT_ALARM_LASTING : FieldPos := ⟨.FLT_ALARM, 0, 1⟩
abbrev FLT_ALARM_CURTAIN : FieldPos := ⟨.FLT_ALARM, 1, 1⟩
abbrev FLT_ALARM_FATAL : FieldPos := ⟨.FLT_ALARM, 2, 1⟩
abbrev FLT_ALARM_LSM_WEAR : FieldPos := ⟨.FLT_ALARM, 3, 1⟩
abbrev FLT_ALARM_PATH_DEGRADED : FieldPos := ⟨.FLT_ALARM, 4, 1⟩
abbrev FLT_ALARM_FENCED : FieldPos := ⟨.FLT_ALARM, 5, 1⟩
abbrev FLT_ALARM_RETIRE_FULL : FieldPos := ⟨.FLT_ALARM, 6, 1⟩
abbrev FLT_ALARM_ENTROPY : FieldPos := ⟨.FLT_ALARM, 7, 1⟩
abbrev FLT_ALARM_RECOVERY : FieldPos := ⟨.FLT_ALARM, 8, 1⟩
abbrev FLT_ALARM_RECORD_LOST : FieldPos := ⟨.FLT_ALARM, 9, 1⟩
abbrev FLT_ALARM_MASK_LASTING : FieldPos := ⟨.FLT_ALARM_MASK, 0, 1⟩
abbrev FLT_ALARM_MASK_CURTAIN : FieldPos := ⟨.FLT_ALARM_MASK, 1, 1⟩
abbrev FLT_ALARM_MASK_FATAL : FieldPos := ⟨.FLT_ALARM_MASK, 2, 1⟩
abbrev FLT_ALARM_MASK_LSM_WEAR : FieldPos := ⟨.FLT_ALARM_MASK, 3, 1⟩
abbrev FLT_ALARM_MASK_PATH_DEGRADED : FieldPos := ⟨.FLT_ALARM_MASK, 4, 1⟩
abbrev FLT_ALARM_MASK_FENCED : FieldPos := ⟨.FLT_ALARM_MASK, 5, 1⟩
abbrev FLT_ALARM_MASK_RETIRE_FULL : FieldPos := ⟨.FLT_ALARM_MASK, 6, 1⟩
abbrev FLT_ALARM_MASK_ENTROPY : FieldPos := ⟨.FLT_ALARM_MASK, 7, 1⟩
abbrev FLT_ALARM_MASK_RECOVERY : FieldPos := ⟨.FLT_ALARM_MASK, 8, 1⟩
abbrev FLT_ALARM_MASK_RECORD_LOST : FieldPos := ⟨.FLT_ALARM_MASK, 9, 1⟩
abbrev FLT_DEVICE_CTRL_CURTAIN : FieldPos := ⟨.FLT_DEVICE_CTRL, 0, 1⟩
abbrev FLT_RECORD_BYTES : FieldPos := ⟨.FLT_RECORD, 0, 64⟩
abbrev FLT_RECORD_POP_POP : FieldPos := ⟨.FLT_RECORD_POP, 0, 1⟩
abbrev GLT_SUPPLY_STATUS_IN_RANGE : FieldPos := ⟨.GLT_SUPPLY_STATUS, 0, 12⟩
abbrev GLT_SUPPLY_STATUS_TRIPPED : FieldPos := ⟨.GLT_SUPPLY_STATUS, 16, 12⟩
abbrev GLT_THERMAL_HIGHEST : FieldPos := ⟨.GLT_THERMAL, 0, 8⟩
abbrev GLT_THERMAL_HOT : FieldPos := ⟨.GLT_THERMAL, 8, 1⟩
abbrev GLT_THERMAL_TRIPPED : FieldPos := ⟨.GLT_THERMAL, 9, 1⟩
abbrev GLT_THERMAL_SENSOR : FieldPos := ⟨.GLT_THERMAL, 16, 5⟩
abbrev CBD_SLOT_TAKE_WORD : FieldPos := ⟨.CBD_SLOT_TAKE, 0, 32⟩
abbrev CBD_SLOT_TAKE_SENDER : FieldPos := ⟨.CBD_SLOT_TAKE, 32, 16⟩
abbrev CBD_SLOT_TAKE_COLLISION : FieldPos := ⟨.CBD_SLOT_TAKE, 62, 1⟩
abbrev CBD_SLOT_TAKE_FULL : FieldPos := ⟨.CBD_SLOT_TAKE, 63, 1⟩
abbrev CBD_SLOT_PEEK_WORD : FieldPos := ⟨.CBD_SLOT_PEEK, 0, 32⟩
abbrev CBD_SLOT_PEEK_SENDER : FieldPos := ⟨.CBD_SLOT_PEEK, 32, 16⟩
abbrev CBD_SLOT_PEEK_COLLISION : FieldPos := ⟨.CBD_SLOT_PEEK, 62, 1⟩
abbrev CBD_SLOT_PEEK_FULL : FieldPos := ⟨.CBD_SLOT_PEEK, 63, 1⟩
abbrev FLT_SCOPE_PORT_HOLD : FieldPos := ⟨.FLT_SCOPE_PORT, 0, 1⟩
abbrev FLT_SCOPE_PORT_CURTAINED : FieldPos := ⟨.FLT_SCOPE_PORT, 1, 1⟩
abbrev FLT_SCOPE_PORT_FAULT : FieldPos := ⟨.FLT_SCOPE_PORT, 2, 1⟩
abbrev FLT_SCOPE_PORT_STACK : FieldPos := ⟨.FLT_SCOPE_PORT, 3, 1⟩
abbrev FLT_SCOPE_PORT_EXIT : FieldPos := ⟨.FLT_SCOPE_PORT, 4, 1⟩
abbrev FLT_SCOPE_PORT_LAST_STATUS : FieldPos := ⟨.FLT_SCOPE_PORT, 8, 8⟩
abbrev FLT_SCOPE_ENGINE_HOLD : FieldPos := ⟨.FLT_SCOPE_ENGINE, 0, 1⟩
abbrev FLT_SCOPE_ENGINE_CURTAINED : FieldPos := ⟨.FLT_SCOPE_ENGINE, 1, 1⟩
abbrev FLT_SCOPE_ENGINE_FAULT : FieldPos := ⟨.FLT_SCOPE_ENGINE, 2, 1⟩
abbrev FLT_SCOPE_ENGINE_STACK : FieldPos := ⟨.FLT_SCOPE_ENGINE, 3, 1⟩
abbrev FLT_SCOPE_ENGINE_EXIT : FieldPos := ⟨.FLT_SCOPE_ENGINE, 4, 1⟩
abbrev FLT_SCOPE_ENGINE_LAST_STATUS : FieldPos := ⟨.FLT_SCOPE_ENGINE, 8, 8⟩
abbrev FLT_SCOPE_HOST_HOLD : FieldPos := ⟨.FLT_SCOPE_HOST, 0, 1⟩
abbrev FLT_SCOPE_HOST_CURTAINED : FieldPos := ⟨.FLT_SCOPE_HOST, 1, 1⟩
abbrev FLT_SCOPE_HOST_FAULT : FieldPos := ⟨.FLT_SCOPE_HOST, 2, 1⟩
abbrev FLT_SCOPE_HOST_STACK : FieldPos := ⟨.FLT_SCOPE_HOST, 3, 1⟩
abbrev FLT_SCOPE_HOST_EXIT : FieldPos := ⟨.FLT_SCOPE_HOST, 4, 1⟩
abbrev FLT_SCOPE_HOST_LAST_STATUS : FieldPos := ⟨.FLT_SCOPE_HOST, 8, 8⟩
abbrev FLT_SCOPE_TROUPE_HOLD : FieldPos := ⟨.FLT_SCOPE_TROUPE, 0, 1⟩
abbrev FLT_SCOPE_TROUPE_CURTAINED : FieldPos := ⟨.FLT_SCOPE_TROUPE, 1, 1⟩
abbrev FLT_SCOPE_TROUPE_FAULT : FieldPos := ⟨.FLT_SCOPE_TROUPE, 2, 1⟩
abbrev FLT_SCOPE_TROUPE_STACK : FieldPos := ⟨.FLT_SCOPE_TROUPE, 3, 1⟩
abbrev FLT_SCOPE_TROUPE_EXIT : FieldPos := ⟨.FLT_SCOPE_TROUPE, 4, 1⟩
abbrev FLT_SCOPE_TROUPE_LAST_STATUS : FieldPos := ⟨.FLT_SCOPE_TROUPE, 8, 8⟩
abbrev FLT_SCOPE_SLICE_HOLD : FieldPos := ⟨.FLT_SCOPE_SLICE, 0, 1⟩
abbrev FLT_SCOPE_SLICE_CURTAINED : FieldPos := ⟨.FLT_SCOPE_SLICE, 1, 1⟩
abbrev FLT_SCOPE_SLICE_FAULT : FieldPos := ⟨.FLT_SCOPE_SLICE, 2, 1⟩
abbrev FLT_SCOPE_SLICE_STACK : FieldPos := ⟨.FLT_SCOPE_SLICE, 3, 1⟩
abbrev FLT_SCOPE_SLICE_EXIT : FieldPos := ⟨.FLT_SCOPE_SLICE, 4, 1⟩
abbrev FLT_SCOPE_SLICE_LAST_STATUS : FieldPos := ⟨.FLT_SCOPE_SLICE, 8, 8⟩
end Fld

end Sys2Proof.Machine
end

