-- ==== Sys2Proof/Syntax.lean ====
section
/-! DEFINITION. The commands the block takes: one constructor of Instr per row of the spec's table of operations
and events, with the operands its rule names. A command is plain data; what it does is the machine's. The operand
types stand first. -/

namespace Sys2Proof

open Machine (RegName FieldPos)

/-- A MAC address, first octet on the wire in bits [47:40]. -/
abbrev Mac := BitVec 48

/-- The requesters of R65. A PF0 access also names the sub-link that carries it (R86). -/
inductive Requester where
  | pf0 (port : Fin 16) (link : Fin 4)
  | slice (s : Fin 4096)
  | cpc (unit : Fin 2) (core : Fin 4)
  | vault (unit : Fin 2)
  | troupe (cluster : Fin 8) (core : Fin 16) (thread : Fin 16)
  deriving DecidableEq, Repr

/-- The 16-bit requester code of R65. -/
def Requester.code : Requester → Nat
  | .pf0 h _ => h.val
  | .slice s => 0x1000 + s.val
  | .cpc u c => 0x2000 + 4 * u.val + c.val
  | .vault u => 0x3000 + u.val
  | .troupe n k t => 0x4000 + 256 * n.val + 16 * k.val + t.val

/-- The width of a control-map access in bytes (R66). -/
inductive AccSize where
  | b1 | b2 | b4 | b8
  deriving DecidableEq, Repr

/-- The four blocks behind a slow bridge (R73). -/
inductive SlowBlock where
  | GLT | PWR | OPT | MGT
  deriving DecidableEq, Repr

/-- Where an amendment came from (R54), which is where its reply goes: a management station, or the
callboard of a host port. -/
inductive Origin where
  | station (id : BitVec 64)
  | callboard (port : Fin 16)
  deriving DecidableEq, Repr

/-- The two heartbeat paths of a pair (R418). -/
inductive HbPath where
  | mesh | sideband
  deriving DecidableEq, Repr

/-- The PLLs of R450. -/
inductive Pll where
  | core | engine | vault | hbm
  | lane (e : Fin 16)
  deriving DecidableEq, Repr

/-- The element kinds of a targeted self-test (R461); none for an error with no element. -/
inductive ElementKind where
  | none | sramRow | hbmRow | cipherEngine | opticalLane | hostLane | troupeCore | d2dLane | controlUnit
  | registerGroup | entropy
  deriving DecidableEq, Repr

/-- KIND of a fault record (R463). -/
def ElementKind.code : ElementKind → Nat
  | .none => 0 | .sramRow => 1 | .hbmRow => 2 | .cipherEngine => 3 | .opticalLane => 4 | .hostLane => 5
  | .troupeCore => 6 | .d2dLane => 7 | .controlUnit => 8 | .registerGroup => 9 | .entropy => 10

/-- The curtain scopes of R465. -/
inductive ScopeKind where
  | port | engine | host | slice | cipher | troupe | key | device
  deriving DecidableEq, Repr

/-- SCOPE of a fault record (R463, R465). -/
def ScopeKind.code : ScopeKind → Nat
  | .port => 1 | .engine => 2 | .host => 3 | .slice => 4 | .cipher => 5 | .troupe => 6 | .key => 7 | .device => 8

/-- The error classes of R459. -/
inductive ErrClass where
  | corrected | contained | fatal
  deriving DecidableEq, Repr

/-- What an uncorrectable error destroyed (R460): an entry of a table that DETAIL names, a packet-buffer cell of a frame,
the hot slot of a key context, or what a thread loaded or fetched at an address (R376). -/
inductive ErrorHit where
  | nothing
  | tableEntry
  | frame (f : Nat)
  | context (c : Fin 262144)
  | thread (t : BitVec 11) (tval : BitVec 64)
  deriving DecidableEq, Repr

/-- An error as an element reports it (R459, R461): its class, the element, CAUSE and DETAIL of its record (R463),
and the scope a rule curtains for it. -/
structure ErrorReport where
  cls : ErrClass
  kind : ElementKind
  index : BitVec 32
  cause : BitVec 8
  scope : Option (ScopeKind × Nat)
  detail : BitVec 32
  hit : ErrorHit
  deriving DecidableEq, Repr

/-- How a frame's reception ends (R100, R167). -/
inductive TailCause where
  | good | fcsError | planChange | engineError
  deriving DecidableEq, Repr

/-- Where a received frame's start of pass is given by its emitter (R430, R389): a start table of its own. -/
structure EmitFlags where
  useTable : Bool
  table : BitVec 6
  csum : BitVec 8
  ts : BitVec 8
  tag : BitVec 16
  deriving DecidableEq, Repr

/-- What a module gave to the three steps of R94: the identity record (0x24 octets), CERT_LENGTH and CERT of its EEPROM (R93), its
signature over the challenge (r and s, 96 octets), whether its SETDASA went unacknowledged (R99), and its life records in order (R96). -/
structure LsmVerify where
  identity : List Byte
  certLength : BitVec 16
  cert : List Byte
  signature : List Byte
  i2c : Bool
  log : List (List Byte)
  deriving DecidableEq, Repr

/-- Who issues a table command (R158, R387): a control-map requester, or a Troupe thread by its table channel. -/
inductive TableIssuer where
  | controlMap (r : Requester)
  | channel (cluster : Fin 8) (core : Fin 16) (thread : Fin 16)
  deriving DecidableEq, Repr

/-- A table command with its staged operands (R158, R159): the key of TBL_ENTRY, TBL_ATTR and TBL_INDEX. A
control-map command whose staging registers are to be used as they stand carries none of them. -/
structure TableOperands where
  key : List Byte
  action : BitVec 24
  pinned : Bool
  ageLimit : BitVec 15
  index : BitVec 28
  deriving DecidableEq, Repr

structure TableCmd where
  issuer : TableIssuer
  table : BitVec 7
  sceneSel : Bool
  operands : Option TableOperands
  deriving DecidableEq, Repr

/-- A write of one of the configuration registers of a table (R141). -/
inductive TableCfgWrite where
  | cfg (t : Fin 67) (value : BitVec 64)
  | seedA (t : Fin 67) (value : BitVec 32)
  | seedB (t : Fin 67) (value : BitVec 32)
  deriving DecidableEq, Repr

/-- The shapers of R192. -/
inductive ShaperKind where
  | queue | port | sliceDeliver | sliceSend
  deriving DecidableEq, Repr


/-- Who submits cipher work (R236): a half of the tunnel or storage engine, or a Troupe thread. -/
inductive CipherRequester where
  | tunnel (die : Fin 2)
  | storage (die : Fin 2)
  | thread (cluster : Fin 8) (core : Fin 16) (thread : Fin 16)
  deriving DecidableEq, Repr

/-- The two limit registers of a key context (R252). -/
inductive LimitKind where
  | uses | bytes
  deriving DecidableEq, Repr

/-- An IDE stream of a host link with a sub-stream and key set, as IDE_KM messages name them (R277, R309). -/
structure IdeTarget where
  port : Fin 16
  link : Fin 4
  stream : BitVec 8
  sub : Fin 3
  rx : Bool
  k1 : Bool
  deriving DecidableEq, Repr

/-- A memory request received from a host (R300): a write with its bytes, or a read of a length. -/
structure HostTlp where
  write : Bool
  addr : BitVec 64
  data : List Byte
  len : BitVec 13
  pasid : Option (BitVec 20)
  stream : Option (Fin 4)
  ideOk : Bool
  poisoned : Bool
  deriving DecidableEq, Repr

/-- How a completion ends (R304). -/
inductive CplStatus where
  | success | unsupported | abort | poisoned | ecrc
  deriving DecidableEq, Repr

/-- A piece of a completion (R303): whether its identifiers agree with the request, the stream whose associations select it and whether
it passes that stream's check (R309), the bytes that remained before it, and its data. -/
structure CplPiece where
  status : CplStatus
  idsAgree : Bool
  stream : Option (Fin 4)
  ideOk : Bool
  byteCount : BitVec 13
  data : List Byte
  deriving DecidableEq, Repr

/-- What stops PF1 on a link (R307). -/
inductive MasterStop where
  | busMaster | pasid | d3hot
  deriving DecidableEq, Repr

/-- The grant registers of R323. -/
inductive GrantReg where
  | queues | resources | weight
  deriving DecidableEq, Repr

/-- What a transport frame for a storage connection carries (R228, R229, R232). Commands are named by the key or tag the device gave
them. pull is an RDMA READ request or an R2T, data an RDMA WRITE or C2HData, close a TCP RST or FIN. -/
inductive StorageEvent where
  | pull (cmd : Nat) (offset length : Nat)
  | data (cmd : Nat) (offset : Nat) (bytes : List Byte)
  | response (cmd : Nat) (cqe : List Byte)
  | keepAliveResponse
  | nak (seq : BitVec 32)
  | rnr (seq : BitVec 32)
  | close
  | protocolError
  | cnp
  deriving DecidableEq, Repr

/-- A transport frame as the engine reads it: its sequence number (PSN or TCP), the octets of TCP payload, the acknowledgement and
window it carries, whether its ICRC or its digests hold, and what it says to the engine, if anything. -/
structure StorageFrame where
  seq : BitVec 32
  length : Nat
  ack : Option (BitVec 32)
  window : BitVec 16
  intact : Bool
  event : Option StorageEvent
  deriving DecidableEq, Repr

/-- What went unanswered for TIMEOUT_MS (R229): a command, or the Keep Alive of a connection. -/
inductive StorageTimer where
  | command (cmd : Nat)
  | keepAlive (conn : BitVec 13)
  deriving DecidableEq, Repr

/-- A record of the persistent store (R261): a critical one (minimum version, K_FLOOR, DRK_ID, device root key, identity seed, ZEROISED,
in this order), a public-key slot, a retirement record by its place, or the counter record of a key. -/
inductive StoreRecord where
  | critical (n : Fin 6)
  | slot (n : Fin 12)
  | retired (n : Nat)
  | counter (keyId : BitVec 64)
  deriving DecidableEq, Repr

/-- What the start-up self-tests find (R51): bad lanes of the die-to-die links, as link and lane (R19), and the copies of records of the
persistent store, by mirror, whose CRC fails (R262). -/
structure SelfTestFound where
  badLanes : List (Fin 26 × Fin 256)
  copies : List (Fin 2 × StoreRecord)
  deriving DecidableEq, Repr

/-- END of a station, and whether the read-back of the slot meets an uncorrectable error (R41, R47). -/
structure EndMessage where
  station : BitVec 64
  readError : Bool
  deriving DecidableEq, Repr

/-- One of the three copies of a voted field, and the word it comes to hold (R80). -/
structure Upset where
  copy : Fin 3
  word : BitVec 64
  deriving DecidableEq, Repr

/-- The words two copies of a voted field come to hold, in one element of its register (R83). -/
structure TwoUpsets where
  element : Nat
  first : BitVec 64
  second : BitVec 64
  deriving DecidableEq, Repr

/-- The commands of the block, in the order of the table of operations and events. -/
inductive Instr where
  /-- PORST_N_RELEASE (R49). -/
  | porstNRelease
  /-- PORST_N_ASSERT (R49). -/
  | porstNAssert
  /-- GHOST_LIGHT_STABLE (R51). -/
  | ghostLightStable
  /-- WARM_N_ASSERT (R50). -/
  | warmNAssert
  /-- WARM_N_RELEASE (R49). -/
  | warmNRelease
  /-- LOADING_SELF_TEST_DONE (R51). -/
  | loadingSelfTestDone (pass : Bool) (found : SelfTestFound)
  /-- SLOT_HEADERS_READ (R41). -/
  | slotHeadersRead (readErrorA readErrorB : Bool)
  /-- EARLY_IDENTITY_VERIFIED (R51). -/
  | earlyIdentityVerified (readError : Bool)
  /-- IMAGE_BODY_VERIFIED (R51). -/
  | imageBodyVerified (readError : Bool)
  /-- ANNOUNCE_TIMER (R45). -/
  | announceTimer
  /-- OFFER (R47). -/
  | offer (station : BitVec 64) (header sigblock : List Byte)
  /-- CHUNK (R47). -/
  | chunk (station : BitVec 64) (offset : BitVec 32) (data : List Byte)
  /-- END (R47). -/
  | endMessage (x : EndMessage)
  /-- STAGING_SESSION_IDLE (R47). -/
  | stagingSessionIdle
  /-- AMENDMENT (R55). -/
  | amendment (origin : Origin) (message : List Byte)
  /-- REGWRITE (R56). -/
  | regwrite (origin : Origin) (addr mask value : BitVec 32)
  /-- REGWRITE64 (R56). -/
  | regwrite64 (origin : Origin) (addr : BitVec 32) (mask value : BitVec 64)
  /-- SECTION (R56). -/
  | sectionRecord (origin : Origin) (type version : BitVec 16) (body : List Byte)
  /-- RESTART (R56). -/
  | restartRecord (origin : Origin)
  /-- SLEEP (R56). -/
  | sleepRecord (origin : Origin)
  /-- STAGE_IMAGE (R59). -/
  | stageImage (origin : Origin) (header sigblock : List Byte)
  /-- QUERY (R56). -/
  | query (origin : Origin) (addrs : List (BitVec 32))
  /-- REGISTER_WRITE (R78). -/
  | registerWrite (r : Requester) (addr : BitVec 32) (size : AccSize) (value : BitVec 64)
  /-- SLOW_WRITE_PERFORMED (R73). -/
  | slowWritePerformed (b : SlowBlock)
  /-- SLOW_READ_TIMEOUT (R75). -/
  | slowReadTimeout (r : Requester) (addr : BitVec 32) (wide : Bool)
  /-- HALF_LATCH_READ (R67). -/
  | halfLatchRead (r : Requester) (addr : BitVec 32)
  /-- COUNTER_READ_CLEAR (R69). -/
  | counterReadClear (r : Requester) (addr : BitVec 32) (wide : Bool) (arriving : BitVec 32)
  /-- VOTE_ONE_DISAGREE (R81). -/
  | voteOneDisagree (f : FieldPos) (i : Nat) (copy : Upset) (written : Bool)
  /-- GROUP_SCRUB_DONE (R82). -/
  | groupScrubDone (page : BitVec 20)
  /-- BACKGROUND_SCRUB (R82). -/
  | backgroundScrub
  /-- VOTE_THREE_DISAGREE (R83). -/
  | voteThreeDisagree (f : FieldPos) (x : TwoUpsets)
  /-- ENGINE_PLAN_WRITE (R91). -/
  | enginePlanWrite (r : Requester) (e : Fin 16) (plan : BitVec 64)
  /-- LB_CELLS_WRITE (R106). -/
  | lbCellsWrite (r : Requester) (e : Fin 16) (j : Fin 16) (value : BitVec 32)
  /-- PRT_CONFIG_WRITE (R104). -/
  | prtConfigWrite (r : Requester) (p : Fin 256) (value : BitVec 32)
  /-- PFC_WM_WRITE (R104). -/
  | pfcWmWrite (r : Requester) (p : Fin 256) (c : Fin 8) (value : BitVec 64)
  /-- LSM_INSERTION (R94). -/
  | lsmInsertion (e : Fin 16)
  /-- LSM_VERIFY_DONE (R94). -/
  | lsmVerifyDone (e : Fin 16) (v : LsmVerify)
  /-- LSM_NO_ANSWER (R94). -/
  | lsmNoAnswer (e : Fin 16)
  /-- LSM_REMOVAL (R98). -/
  | lsmRemoval (e : Fin 16)
  /-- EJECT (R95). -/
  | eject (r : Requester) (e : Fin 16)
  /-- EJECT_COMPLETE (R95). -/
  | ejectComplete (e : Fin 16) (litHours : BitVec 32) (bias : BitVec 128) (temp : BitVec 16)
  /-- RETRY (R94). -/
  | retry (r : Requester) (e : Fin 16)
  /-- LIFE_RECORD_TIMER (R96). -/
  | lifeRecordTimer (e : Fin 16) (litHours : BitVec 32) (bias : BitVec 128) (temp : BitVec 16)
  /-- LASER_CHANNEL_FAULT (R97). -/
  | laserChannelFault (e : Fin 16) (c : Fin 8)
  /-- LSM_IN_BAND_INTERRUPT (R99). -/
  | lsmInBandInterrupt (e : Fin 16) (alarm : BitVec 8)
  /-- LSM_ALARM_POLL (R99). -/
  | lsmAlarmPoll (e : Fin 16) (alarm : BitVec 8)
  /-- FRAME_ARRIVAL (R101). -/
  | frameArrival (p : Fin 256) (octets : List Byte)
  /-- XOFF_REFRESH (R103). -/
  | xoffRefresh (p : Fin 256) (c : Fin 8)
  /-- RX_MAX_FRAME_REACHED (R100). -/
  | rxMaxFrameReached (f : Nat) (octets : List Byte)
  /-- FRAME_TAIL_RECEIVED (R168). -/
  | frameTailReceived (f : Nat) (octets : List Byte) (cause : TailCause)
  /-- PAUSE_FRAME_RECEIVED (R105). -/
  | pauseFrameReceived (p : Fin 256) (pfc : Bool) (enable : BitVec 8) (times : BitVec 128) (fcsGood : Bool)
  /-- PAUSE_TIMER_EXPIRY (R105). -/
  | pauseTimerExpiry (p : Fin 256) (c : Option (Fin 8))
  /-- TX_TIMESTAMP_POP (R111). -/
  | txTimestampPop (r : Requester) (p : Fin 256) (wide : Bool)
  /-- MGMT_FRAME_RECEIVED (R114). -/
  | mgmtFrameReceived (seg : Fin 2) (src dst : Mac) (etherType : BitVec 16) (body : List Byte)
  /-- MGMT_REASSEMBLY_TIMEOUT (R114). -/
  | mgmtReassemblyTimeout (station : BitVec 64) (seq : BitVec 32)
  /-- PIPELINE_ENTRY (R119). -/
  | pipelineEntry (f : Nat) (octets : List Byte) (flowOverRate : Bool)
  /-- LOOKUP_RESULT (R164). -/
  | lookupResult (f : Nat)
  /-- SCENE_COMMIT (R138). -/
  | sceneCommit (r : Requester) (scene : BitVec 16) (timed : Bool)
  /-- SCENE_CANCEL (R138). -/
  | sceneCancel (r : Requester)
  /-- SCENE_ACTIVATION (R138). -/
  | sceneActivation
  /-- SCENE_DRAINED (R136). -/
  | sceneDrained (slot : Fin 4)
  /-- SCENE_FORCED (R137). -/
  | sceneForced (slot : Fin 4)
  /-- INSERT (R144). -/
  | insert (c : TableCmd)
  /-- DELETE (R144). -/
  | delete (c : TableCmd)
  /-- LOOKUP (R159). -/
  | lookup (c : TableCmd)
  /-- READ_INDEX (R159). -/
  | readIndex (c : TableCmd)
  /-- WRITE_INDEX (R131). -/
  | writeIndex (c : TableCmd)
  /-- REFRESH (R159). -/
  | refresh (c : TableCmd)
  /-- FLUSH_SCENE (R144). -/
  | flushScene (c : TableCmd)
  /-- TABLE_COMMAND_DONE (R158). -/
  | tableCommandDone
  /-- TBL_EVICTED_POP (R151). -/
  | tblEvictedPop (r : Requester) (value : BitVec 32)
  /-- TABLE_CFG_WRITE (R141). -/
  | tableCfgWrite (r : Requester) (w : TableCfgWrite)
  /-- SETTLE_SWEEP (R143). -/
  | settleSweep (slot : Nat)
  /-- MILESTONE_TICK (R152). -/
  | milestoneTick
  /-- AGER_SCAN (R153). -/
  | agerScan (table : Fin 67) (slot : Nat)
  /-- AGER_REMOVE (R153). -/
  | agerRemove
  /-- LEARN_PRESENTATION (R155). -/
  | learnPresentation (pipeline : Fin 22)
  /-- FLOW_CACHE_FILL (R157). -/
  | flowCacheFill (a b : Nat)
  /-- MEMBER_REPIN (R173). -/
  | memberRepin (g : Fin 4352) (i : Fin 32)
  /-- SPILL_RETURN (R181). -/
  | spillReturn (p : Fin 336) (c : Fin 8)
  /-- EGRESS_SELECT (R187). -/
  | egressSelect (p : Fin 336)
  /-- EGRESS_COMPLETE (R136). -/
  | egressComplete (p : Fin 336)
  /-- SHAPER_WRITE (R194). -/
  | shaperWrite (r : Requester) (k : ShaperKind) (i : Nat) (value : BitVec 64)
  /-- POLICER_WRITE (R197). -/
  | policerWrite (r : Requester) (i : Fin 16384) (size : Bool) (value : BitVec 64)
  /-- GATE_CHANGE (R198). -/
  | gateChange (p : Fin 256)
  /-- TIMETABLE_CHANGE (R200). -/
  | timetableChange (r : Requester) (p : Fin 256) (length : BitVec 11)
  /-- TIMETABLE_CANCEL (R200). -/
  | timetableCancel (r : Requester) (p : Fin 256)
  /-- TIMETABLE_CHANGE_TIME (R200). -/
  | timetableChangeTime (p : Fin 256)
  /-- TIME_STEP (R203). -/
  | timeStep (r : Requester) (ns : BitVec 64)
  /-- TIME_NOW_READ (R202). -/
  | timeNowRead (r : Requester) (wide : Bool)
  /-- PPS_EDGE (R204). -/
  | ppsEdge (i : Fin 2) (falling : Bool)
  /-- PPS_SEEN_EXPIRY (R204). -/
  | ppsSeenExpiry (i : Fin 2)
  /-- PPS_CAPTURE_READ (R204). -/
  | ppsCaptureRead (r : Requester) (i : Fin 2)
  /-- TOD_BYTE_RECEIVED (R204). -/
  | todByteReceived (i : Fin 2) (b : Byte)
  /-- TOD_READ (R204). -/
  | todRead (r : Requester) (i : Fin 2)
  /-- ENCAP_UNIT (R214). -/
  | encapUnit (p : Fin 4)
  /-- DECAP_UNIT (R217). -/
  | decapUnit (p : Fin 4)
  /-- ESP_OUTBOUND (R218). -/
  | espOutbound (p : Fin 4)
  /-- ESP_INBOUND (R219). -/
  | espInbound (p : Fin 4)
  /-- ESP_INBOUND_RESULT (R219). -/
  | espInboundResult (die : Fin 2)
  /-- OBJECT_READ (R211). -/
  | objectRead (r : Requester) (type : BitVec 2) (index : BitVec 16)
  /-- OBJECT_WRITE (R213). -/
  | objectWrite (r : Requester) (type : BitVec 2) (index : BitVec 16) (keepState : Bool)
  /-- ROLL (R222). -/
  | roll (r : Requester) (type : BitVec 2) (index : BitVec 16)
  /-- OFL_EVENT_POP (R233). -/
  | oflEventPop (r : Requester)
  /-- STORAGE_TRANSPORT_FRAME (R228). -/
  | storageTransportFrame (d : Fin 2) (conn : BitVec 13) (f : StorageFrame)
  /-- STORAGE_COMMAND_TIMEOUT (R229). -/
  | storageCommandTimeout (t : StorageTimer)
  /-- KEEP_ALIVE_TIMER (R229). -/
  | keepAliveTimer (conn : BitVec 13)
  /-- TRANSPORT_RETRANSMIT_TIMER (R232). -/
  | transportRetransmitTimer (conn : BitVec 13)
  /-- CIPHER_SUBMIT (R236). -/
  | cipherSubmit (q : CipherRequester) (request input : List Byte)
  /-- CIPHER_DISPATCH (R238). -/
  | cipherDispatch (e : Fin 36)
  /-- CIPHER_UNIT_DONE (R240). -/
  | cipherUnitDone (e : Fin 36)
  /-- CONTEXT_LOAD (R247). -/
  | contextLoad (c : Fin 262144) (read : Option (List Byte))
  /-- CHECKPOINT_COMPLETE (R254). -/
  | checkpointComplete (c : Fin 262144)
  /-- CIPHER_ENGINE_ERROR (R257). -/
  | cipherEngineError (e : Fin 36)
  /-- LOCK (R248). -/
  | lockContext (r : Requester)
  /-- DROP_PREVIOUS (R251). -/
  | dropPrevious (r : Requester)
  /-- CTX_LIMIT_WRITE (R252). -/
  | ctxLimitWrite (r : Requester) (k : LimitKind) (value : BitVec 64)
  /-- GENERATE (R270). -/
  | generate
  /-- INSTALL (R270). -/
  | installKey
  /-- GENERATE_INSTALL (R270). -/
  | generateInstall
  /-- STAGE_SUCCESSOR (R270). -/
  | stageSuccessor
  /-- DISCARD (R270). -/
  | discard
  /-- EXPORT (R270). -/
  | exportKey
  /-- IKE_START (R270). -/
  | ikeStart
  /-- IKE_KEYS (R270). -/
  | ikeKeys
  /-- CHILD_SA (R270). -/
  | childSa
  /-- IKE_END (R270). -/
  | ikeEnd
  /-- HANDOVER_OFFER (R278). -/
  | handoverOffer
  /-- WARRANT (R274). -/
  | warrant (origin : Origin) (message : List Byte)
  /-- ZEROIZE (R286). -/
  | zeroize
  /-- HANDOVER_EXPORT (R280). -/
  | handoverExport
  /-- HANDOVER_IMPORT (R278). -/
  | handoverImport
  /-- ENROL_IMAGE_KEY (R274). -/
  | enrolImageKey
  /-- WITHDRAW_IMAGE_KEY (R274). -/
  | withdrawImageKey
  /-- REPLACE_HOUSE_KEY (R274). -/
  | replaceHouseKey
  /-- SET_K_FLOOR (R274). -/
  | setKFloor
  /-- DEBUG_UNLOCK (R275). -/
  | debugUnlock
  /-- REINITIALISE (R288). -/
  | reinitialise
  /-- ZEROIZE_N_ASSERT (R286). -/
  | zeroizeNAssert
  /-- LID_TAMPER_ASSERT (R286). -/
  | lidTamperAssert
  /-- ZEROISATION_COMPLETE (R287). -/
  | zeroisationComplete
  /-- ENTROPY_TEST_FAIL (R264). -/
  | entropyTestFail (v : Fin 2)
  /-- DRBG_RESEED (R265). -/
  | drbgReseed
  /-- PERIODIC_SELF_TEST (R284). -/
  | periodicSelfTest (vaultPass : Bool) (failed : List (Fin 36))
  /-- GET_VERSION (R276). -/
  | getVersion (h : Fin 16)
  /-- GET_CAPABILITIES (R276). -/
  | getCapabilities (h : Fin 16)
  /-- NEGOTIATE_ALGORITHMS (R276). -/
  | negotiateAlgorithms (h : Fin 16) (common : Bool)
  /-- GET_DIGESTS (R276). -/
  | getDigests (h : Fin 16)
  /-- GET_CERTIFICATE (R276). -/
  | getCertificate (h : Fin 16) (slot : BitVec 4) (offset length : BitVec 16)
  /-- CHALLENGE (R276). -/
  | challenge (h : Fin 16) (slot : BitVec 4) (nonce : BitVec 256)
  /-- GET_MEASUREMENTS (R277). -/
  | getMeasurements (h : Fin 16) (index : BitVec 8) (nonce : BitVec 256)
  /-- KEY_EXCHANGE (R276). -/
  | keyExchange (h : Fin 16) (slot : BitVec 4) (exchange : List Byte)
  /-- FINISH (R276). -/
  | finish (h : Fin 16) (session : BitVec 32)
  /-- HEARTBEAT (R276). -/
  | heartbeat (h : Fin 16) (session : BitVec 32)
  /-- KEY_UPDATE (R276). -/
  | keyUpdate (h : Fin 16) (session : BitVec 32)
  /-- END_SESSION (R276). -/
  | endSession (h : Fin 16) (session : BitVec 32)
  /-- KEY_PROG (R277). -/
  | keyProg (h : Fin 16) (session : BitVec 32) (t : IdeTarget) (key : List Byte)
  /-- K_SET_GO (R277). -/
  | kSetGo (h : Fin 16) (session : BitVec 32) (t : IdeTarget)
  /-- K_SET_STOP (R277). -/
  | kSetStop (h : Fin 16) (session : BitVec 32) (t : IdeTarget)
  /-- PERST_ASSERT (R293). -/
  | perstAssert (h : Fin 16)
  /-- PERST_RELEASE (R293). -/
  | perstRelease (h : Fin 16)
  /-- LINK_TRAINED (R290). -/
  | linkTrained (l : Fin 64) (flit : Bool) (speed : Fin 8) (width : Fin 17)
  /-- LINK_DOWN (R294). -/
  | linkDown (l : Fin 64)
  /-- MAX_SPEED_WRITE (R292). -/
  | maxSpeedWrite (r : Requester) (l : Fin 64) (speed : BitVec 3)
  /-- RETRAIN (R292). -/
  | retrain (r : Requester) (l : Fin 64)
  /-- HOST_TLP_RECEIVED (R300). -/
  | hostTlpReceived (l : Fin 64) (t : HostTlp)
  /-- CONFIG_REQUEST (R299). -/
  | configRequest (l : Fin 64) (fn : Fin 2) (reg : BitVec 10) (write : Option (BitVec 32 × BitVec 4))
  /-- BUS_MASTER_CLEAR (R307). -/
  | busMasterClear (l : Fin 64) (c : MasterStop)
  /-- FUNCTION_LEVEL_RESET (R308). -/
  | functionLevelReset (l : Fin 64) (fn : Fin 2)
  /-- FLR_COMPLETE (R308). -/
  | flrComplete (l : Fin 64) (fn : Fin 2)
  /-- BAR_RESIZE (R300). -/
  | barResize (l : Fin 64) (bar2 : Bool) (log2 : BitVec 6)
  /-- COMPLETION_RECEIVED (R303). -/
  | completionReceived (l : Fin 64) (tag : BitVec 14) (c : CplPiece)
  /-- COMPLETION_TIMEOUT (R305). -/
  | completionTimeout (l : Fin 64) (tag : BitVec 14)
  /-- TAG_QUARANTINE_END (R306). -/
  | tagQuarantineEnd (h : Fin 16) (tag : BitVec 14)
  /-- CREATE (R316). -/
  | createSlice (r : Requester) (n : BitVec 12)
  /-- STOP (R318). -/
  | stopSlice (r : Requester) (n : BitVec 12)
  /-- START (R318). -/
  | startSlice (r : Requester) (n : BitVec 12)
  /-- REMOVE (R318). -/
  | removeSlice (r : Requester) (n : BitVec 12)
  /-- AUTO_RESTART (R319). -/
  | autoRestart (n : BitVec 12)
  /-- GRANT_WRITE (R324). -/
  | grantWrite (r : Requester) (n : BitVec 12) (g : GrantReg) (value : BitVec 64)
  /-- PEER_SHARE_WRITE (R327). -/
  | peerShareWrite (r : Requester) (l : Fin 64) (value : BitVec 64)
  /-- SLICE_HELLO (R328). -/
  | sliceHello (n : BitVec 12)
  /-- POST (R338). -/
  | postDoorbell (n : BitVec 12) (queue : BitVec 6) (index : BitVec 16)
  /-- RELEASE (R339). -/
  | releaseDoorbell (n : BitVec 12) (queue : BitVec 6) (index : BitVec 16)
  /-- INVALIDATE (R340). -/
  | invalidateDoorbell (n : BitVec 12) (queue : BitVec 6) (index : BitVec 16)
  /-- QUEUE_ENABLE (R354). -/
  | queueEnable (r : Requester) (g : BitVec 16) (value : BitVec 32)
  /-- QUEUE_DISABLE (R355). -/
  | queueDisable (r : Requester) (g : BitVec 16) (value : BitVec 32)
  /-- ENTRY_FETCHED (R340). -/
  | entryFetched (g : BitVec 16)
  /-- ENTRY_TAKE (R347). -/
  | entryTake (h : Fin 16)
  /-- COMPLETION_WRITE (R349). -/
  | completionWrite (g : BitVec 16)
  /-- IRQ_TIMER (R350). -/
  | irqTimer (g : BitVec 16)
  /-- CQ_STALL_LIMIT (R351). -/
  | cqStallLimit (g : BitVec 16)
  /-- RX_DELIVERY (R352). -/
  | rxDelivery (l : Fin 64)
  /-- RX_STALL_LIMIT (R352). -/
  | rxStallLimit (l : Fin 64)
  /-- CHANNEL_ENABLE (R371). -/
  | channelEnable (r : Requester) (c : BitVec 12)
  /-- CHANNEL_DISABLE (R369). -/
  | channelDisable (r : Requester) (c : BitVec 12)
  /-- ABORT (R368). -/
  | abort (r : Requester) (c : BitVec 12)
  /-- APPEND (R372). -/
  | append (r : Requester) (c : BitVec 12)
  /-- DESCRIPTOR_FETCHED (R363). -/
  | descriptorFetched (c : BitVec 12)
  /-- READ_ENGINE_TURN (R359). -/
  | readEngineTurn (h : Fin 16) (tags : List (BitVec 14))
  /-- DESCRIPTOR_DONE (R365). -/
  | descriptorDone (c : BitVec 12)
  /-- REQUEST_LINE_RAISE (R366). -/
  | requestLineRaise (r : Option Requester) (line : BitVec 8)
  /-- PACED_BURST (R366). -/
  | pacedBurst (c : BitVec 12)
  /-- STAGE_SHARES_WRITE (R358). -/
  | stageSharesWrite (r : Requester) (h : Fin 16) (value : BitVec 64)
  /-- THREAD_INSTRUCTION (R377). -/
  | threadInstruction (t : BitVec 11)
  /-- WAITEV (R381). -/
  | waitev (t : BitVec 11)
  /-- WAITEV_TIMEOUT (R381). -/
  | waitevTimeout (t : BitVec 11)
  /-- EVENT_INPUT_SET (R380). -/
  | eventInputSet (t : BitVec 11) (input : BitVec 5)
  /-- CHW (R385). -/
  | chw (t : BitVec 11)
  /-- CHCOMMIT (R385). -/
  | chcommit (t : BitVec 11)
  /-- CHSTAT (R385). -/
  | chstat (t : BitVec 11)
  /-- TKTGET (R384). -/
  | tktget (t : BitVec 11)
  /-- TKTSET (R384). -/
  | tktset (t : BitVec 11)
  /-- CRC32C (R384). -/
  | crc32c (t : BitVec 11)
  /-- FRMEMIT (R389). -/
  | frmemit (t : BitVec 11)
  /-- MOVER_START (R388). -/
  | moverStart (t : BitVec 11)
  /-- CHANNEL_OPERATION_DONE (R385). -/
  | channelOperationDone (t : BitVec 11) (c : Fin 4)
  /-- STALLACK (R393). -/
  | stallack (t : BitVec 11)
  /-- THREAD_START (R378). -/
  | threadStart (r : Requester) (t : BitVec 11) (pc : BitVec 32)
  /-- THREAD_STOP (R379). -/
  | threadStop (r : Requester) (t : BitVec 11)
  /-- THREAD_EVSET (R380). -/
  | threadEvset (r : Requester) (t : BitVec 11) (events : BitVec 16)
  /-- DEBUG_HALT (R390). -/
  | debugHalt (t : BitVec 11)
  /-- DEBUG_RESUME (R390). -/
  | debugResume (t : BitVec 11)
  /-- CORE_RESET (R392). -/
  | coreReset (r : Requester) (k : BitVec 7)
  /-- CORE_RESET_COMPLETE (R392). -/
  | coreResetComplete (k : BitVec 7)
  /-- STALL_RAISED (R393). -/
  | stallRaised (k : BitVec 7)
  /-- STALL_RESET (R393). -/
  | stallReset (k : BitVec 7)
  /-- DELIVERY_PUBLISH (R395). -/
  | deliveryPublish (d : Fin 2)
  /-- DQ_CONS_WRITE (R395). -/
  | dqConsWrite (r : Requester) (n : Fin 8) (q : Fin 2) (cons : BitVec 16)
  /-- DQ_CFG_WRITE (R395). -/
  | dqCfgWrite (r : Requester) (n : Fin 8) (q : Fin 2) (value : BitVec 64)
  /-- SLOT_WRITE (R404). -/
  | slotWrite (r : Requester) (slot : Fin 9216) (word : BitVec 32)
  /-- SLOT_TAKE (R403). -/
  | slotTake (r : Requester) (slot : Fin 9216)
  /-- CALLBOARD_HELLO (R407). -/
  | callboardHello (h : Fin 16)
  /-- CALLBOARD_START (R407). -/
  | callboardStart (h : Fin 16)
  /-- CALLBOARD_TRANSFER_TIMEOUT (R408). -/
  | callboardTransferTimeout (h : Fin 16)
  /-- HEARTBEAT_SEND (R418). -/
  | heartbeatSend (u : Fin 20)
  /-- HEARTBEAT_RECEIVED (R419). -/
  | heartbeatReceived (u : Fin 20) (path : HbPath)
  /-- PATH_SILENT (R419). -/
  | pathSilent (u : Fin 20) (path : HbPath)
  /-- KICK (R418). -/
  | kick (r : Requester)
  /-- KICK_LIMIT_EXPIRY (R418). -/
  | kickLimitExpiry (u : Fin 20)
  /-- TAKEOVER (R415). -/
  | takeover (r : Requester) (expect : BitVec 16)
  /-- REHEARSAL (R425). -/
  | rehearsal (r : Requester) (expect : BitVec 16)
  /-- TIE (R417). -/
  | tie (r : Requester) (expect : BitVec 16)
  /-- GAP_LIMIT (R421). -/
  | gapLimit (pair : Fin 10)
  /-- FENCE_VERDICT (R422). -/
  | fenceVerdict (u : Fin 20) (lasting : Bool)
  /-- PROBE (R424). -/
  | probe (r : Requester)
  /-- REHEARSAL_TIMER (R425). -/
  | rehearsalTimer
  /-- YIELD (R425). -/
  | yield (r : Requester)
  /-- YIELD_TIMEOUT (R425). -/
  | yieldTimeout
  /-- DONE (R425). -/
  | rehearsalDone (r : Requester)
  /-- REHEARSAL_FAILED (R426). -/
  | rehearsalFailed
  /-- CPC_FRAME_TRANSMIT (R430). -/
  | cpcFrameTransmit
  /-- CPC_FRAME_RECEIVE (R430). -/
  | cpcFrameReceive (f : Nat)
  /-- VAULT_REQUEST_POST (R429). -/
  | vaultRequestPost (unit : Fin 2) (prod : BitVec 16)
  /-- BAROD_HELLO_TIMER (R436). -/
  | barodHelloTimer (p : Fin 256)
  /-- BAROD_HELLO (R436). -/
  | barodHello (p : Fin 256) (frame : List Byte)
  /-- KEEPALIVE_TIMER (R437). -/
  | keepaliveTimer (p : Fin 256)
  /-- KEEPALIVE (R443). -/
  | keepalive (p : Fin 256) (frame : List Byte)
  /-- LINK_SILENT (R437). -/
  | linkSilent (p : Fin 256)
  /-- CLAIM_WAIT_EXPIRY (R441). -/
  | claimWaitExpiry
  /-- BAROD_CLAIM (R441). -/
  | barodClaim (p : Fin 256) (frame : List Byte)
  /-- CLAIM_REPLY (R441). -/
  | claimReply (p : Fin 256) (frame : List Byte)
  /-- CLAIM_REPLY_LIMIT (R441). -/
  | claimReplyLimit
  /-- BAROD_SCENE (R444). -/
  | barodScene (p : Fin 256) (frame : List Byte)
  /-- SCENE_ACK (R444). -/
  | sceneAck (p : Fin 256) (frame : List Byte)
  /-- CBWORD (R405). -/
  | cbword (p : Fin 256) (frame : List Byte)
  /-- REPORT (R435). -/
  | report (p : Fin 256) (frame : List Byte)
  /-- SEND_SCENE (R444). -/
  | sendScene (r : Requester) (value : BitVec 64)
  /-- SEND_SCENE_ACK (R444). -/
  | sendSceneAck (r : Requester) (value : BitVec 64)
  /-- SEND_REPORT (R444). -/
  | sendReport (r : Requester) (value : BitVec 64)
  /-- SCENE_ARM_DEADLINE (R444). -/
  | sceneArmDeadline
  /-- TIME_OFFSET_CURTAIN (R443). -/
  | timeOffsetCurtain
  /-- SLEEP_COMMAND (R452). -/
  | sleepCommand (r : Requester) (d : BitVec 6)
  /-- WAKE_COMMAND (R452). -/
  | wakeCommand (r : Requester) (d : BitVec 6)
  /-- DOMAIN_ENABLE_WRITE (R453). -/
  | domainEnableWrite (r : Requester) (d : Fin 40) (value : BitVec 32)
  /-- DRAIN_COMPLETE (R454). -/
  | drainComplete (d : Fin 40)
  /-- DRAIN_TIMEOUT (R454). -/
  | drainTimeout (d : Fin 40)
  /-- IDLE_TIMER_EXPIRY (R455). -/
  | idleTimerExpiry (d : Fin 40)
  /-- WAKE_TRIGGER (R456). -/
  | wakeTrigger (d : Fin 40)
  /-- WAKE_COMPLETE (R452). -/
  | wakeComplete (d : Fin 40)
  /-- GHOST_CLK_LOST (R449). -/
  | ghostClkLost
  /-- PLL_LOCK (R450). -/
  | pllLock (p : Pll)
  /-- PLL_LOCK_LOST (R450). -/
  | pllLockLost (p : Pll)
  /-- ERROR_REPORT (R459). -/
  | errorReport (e : ErrorReport)
  /-- SELF_TEST_VERDICT (R462). -/
  | selfTestVerdict (kind : ElementKind) (index : BitVec 32) (pass : Bool) (spareLeft : Bool) (detail : BitVec 32)
  /-- SCOPE_HOLD_WRITE (R467). -/
  | scopeHoldWrite (r : Requester) (scope : ScopeKind) (i : Nat) (hold : Bool)
  /-- EXIT (R467). -/
  | exitScope (r : Requester) (scope : ScopeKind) (i : Nat)
  /-- DEVICE_CURTAIN_WRITE (R466). -/
  | deviceCurtainWrite (r : Requester)
  /-- FLT_RECORD_POP (R463). -/
  | fltRecordPop (r : Requester)
  /-- SUPPLY_TRIP (R477). -/
  | supplyTrip (rail : Fin 12)
  /-- THERMAL_TRIP (R480). -/
  | thermalTrip (sensor : Fin 24) (reading : BitVec 8)
  /-- NETWORK_LINK_UP (R90). -/
  | networkLinkUp (p : Fin 256)
  /-- NETWORK_LINK_DOWN (R90). -/
  | networkLinkDown (p : Fin 256)
  deriving DecidableEq, Repr

end Sys2Proof
end

