-- ==== Sys2Proof/Decode.lean ====
section
/-! DEFINITION. The decoder the host asks for. The table of operations and events gives no row any bits, so no word
spells a command. -/

namespace Sys2Proof

/-- The command a word of nbits bits spells by the table's bits: none, for the table gives its rows no bits. -/
def decodeTableWord (_nbits _w : Nat) : Option Instr := none

end Sys2Proof
end

