-- ==== Sys2Proof/Config.lean ====
section
/-! DEFINITION. What an implementation or a named standard fixes and the spec does not state: the free values, as
constants with no body, so that a claim holds whatever they are (assumption log entries 4, 5 and 6). -/

namespace Sys2Proof

/-- A value the spec leaves open, drawn afresh: the machine applies it to a counter it advances. -/
opaque Config.free : Nat → BitVec 64

/-- The fuses: serial number (R87) and the MAC address of each management segment (R112). -/
opaque Config.serial : BitVec 64
opaque Config.segMac : Nat → BitVec 48

/-- SYS_BOOT_ROM_VERSION (R87). -/
opaque Config.bootRomVersion : BitVec 32

/-- SHA-384 (FIPS 180-4). -/
opaque Config.sha384 : List Byte → List Byte

/-- ECDSA P-384 with SHA-384: public key, message, r and s. -/
opaque Config.ecdsaVerify : List Byte → List Byte → List Byte → Bool

/-- ML-DSA-87 in pure mode with an empty context (FIPS 204): public key, message, signature. -/
opaque Config.mldsaVerify : List Byte → List Byte → List Byte → Bool

/-- AES (FIPS 197) under a key of 16 or 32 octets: the cipher and its inverse on one block. -/
opaque Config.aes : List Byte → BitVec 128 → BitVec 128
opaque Config.aesInverse : List Byte → BitVec 128 → BitVec 128

/-- ECDH P-384: private value, peer's public value; and the public value of a private one. -/
opaque Config.ecdh : List Byte → List Byte → List Byte
opaque Config.ecPublic : List Byte → List Byte

/-- Signatures of the device under the identity keys of a seed: ECDSA P-384, ML-DSA-87. -/
opaque Config.signEcdsa : List Byte → List Byte → List Byte
opaque Config.signMldsa : List Byte → List Byte → List Byte

/-- ML-KEM-1024 (FIPS 203): the public key of a private one; encapsulation with its randomness, giving the secret and
the ciphertext; decapsulation. -/
opaque Config.kemPublic : List Byte → List Byte
opaque Config.kemEncaps : List Byte → List Byte → List Byte × List Byte
opaque Config.kemDecaps : List Byte → List Byte → List Byte

/-- A certificate chain leads to a root, and the public keys (ECDSA, then ML-DSA) its leaf holds. -/
opaque Config.chainVerify : List Byte → List Byte → Bool
opaque Config.chainKeys : List Byte → List Byte

/-- Vendor code (2 octets, as R93 stores it) and serial (16 octets) in the subject of a module's certificate. -/
opaque Config.certSubject : List Byte → List Byte

/-- What manufacture wrote: the fuse seal key, device root key and identity seed sealed under it, the root key's identifier, the purchase
order's image key, the identity chain, and the boot ROM's digest (R266, R274, R276, R277). -/
opaque Config.fuseKey : List Byte
opaque Config.sealedDrk : List Byte
opaque Config.sealedSeed : List Byte
opaque Config.drkId : BitVec 32
opaque Config.orderKey : List Byte
opaque Config.identityChain : List Byte
opaque Config.bootRomDigest : List Byte

/-- A standard's encoding of a message the device composes: its code and its fields. -/
opaque Config.encode : Nat → List Nat → List Byte → List Byte

/-- A configuration-space word the device does not act on (R299): function, word, and what was last written to it. -/
opaque Config.cfgWord : Nat → Nat → BitVec 32 → BitVec 32

/-- Identification CSRs of the Troupe threads, by CSR number: the spec gives them no value. -/
opaque Config.coreId : Nat → BitVec 64

end Sys2Proof
end

