-- ==== Sys2Proof/Machine/Bits.lean ====
section
/-! DEFINITION. Bit fields, byte orders (R4) and the CRC of R145. -/

namespace Sys2Proof.Machine

/-- Bits [lo + w - 1 : lo] of a number. -/
def bits (v lo w : Nat) : Nat := v / 2 ^ lo % 2 ^ w

/-- v with bits [lo + w - 1 : lo] replaced by x. -/
def setBits (v lo w x : Nat) : Nat := v - bits v lo w * 2 ^ lo + x % 2 ^ w * 2 ^ lo

/-- Bit n of a number. -/
def bit (v n : Nat) : Bool := v / 2 ^ n % 2 == 1

/-- A field of a register value. -/
def fieldOf (v : Word) (lo w : Nat) : Nat := bits v.toNat lo w

/-- A register value with a field replaced. -/
def withField (v : Word) (lo w x : Nat) : Word := BitVec.ofNat 64 (setBits v.toNat lo w x)

/-- A flag as a number. -/
def flag (b : Bool) : Nat := if b then 1 else 0

/-- Little-endian number of a byte string (R4). -/
def leNat : List Byte → Nat
  | [] => 0
  | b :: bs => b.toNat + 256 * leNat bs

/-- Big-endian number of a byte string. -/
def beNat (bs : List Byte) : Nat := bs.foldl (fun n b => 256 * n + b.toNat) 0

/-- The low n bytes of a number, little-endian. -/
def toLE : Nat → Nat → List Byte
  | 0, _ => []
  | n + 1, v => BitVec.ofNat 8 v :: toLE n (v / 256)

/-- The low n bytes of a number, big-endian. -/
def toBE (n v : Nat) : List Byte := (toLE n v).reverse

/-- n bytes from offset o; bytes beyond the end read zero. -/
def slice (bs : List Byte) (o n : Nat) : List Byte :=
  let got := (bs.drop o).take n
  got ++ List.replicate (n - got.length) 0

/-- Little-endian number of n bytes at offset o. -/
def leAt (bs : List Byte) (o n : Nat) : Nat := leNat (slice bs o n)

/-- Big-endian number of n bytes at offset o. -/
def beAt (bs : List Byte) (o n : Nat) : Nat := beNat (slice bs o n)

/-- bs with the bytes at offset o replaced by xs, as far as they lie within it. -/
def splice (bs : List Byte) (o : Nat) (xs : List Byte) : List Byte :=
  bs.take o ++ xs.take (bs.length - o) ++ bs.drop (o + xs.length)

/-- Every byte is zero. -/
def allZero (bs : List Byte) : Bool := bs.all (· == 0)

/-- The signed value of the low w bits. -/
def signed (w v : Nat) : Int := if v % 2 ^ w < 2 ^ (w - 1) then (v % 2 ^ w : Nat) else (v % 2 ^ w : Nat) - (2 ^ w : Nat)

/-- Division rounding up. -/
def ceilDiv (a b : Nat) : Nat := (a + b - 1) / b

/-! ## Shared status codes (R470) -/

abbrev Code.OK : Nat := 0x00
abbrev Code.MALFORMED : Nat := 0x01
abbrev Code.LENGTH : Nat := 0x02
abbrev Code.NO_BUFFER : Nat := 0x03
abbrev Code.TAIL_ERROR : Nat := 0x04
abbrev Code.AUTH_FAIL : Nat := 0x05
abbrev Code.KEY_EXHAUSTED : Nat := 0x06
abbrev Code.HOST_ABORT : Nat := 0x07
abbrev Code.MASTER_DISABLED : Nat := 0x08
abbrev Code.SLICE_LIMIT : Nat := 0x09
abbrev Code.TIMEOUT : Nat := 0x0A
abbrev Code.CURTAIN : Nat := 0x0B
abbrev Code.OVERRUN : Nat := 0x0C
abbrev Code.UNSUPPORTED : Nat := 0x0D
abbrev Code.TABLE_FULL : Nat := 0x0E
abbrev Code.COMMIT_BUSY : Nat := 0x0F

/-! ## Checksums -/

/-- One bit step of the reflected CRC-32C register (R145). -/
def crcBit (r : BitVec 32) : BitVec 32 :=
  if r.getLsbD 0 then (r >>> 1) ^^^ 0x82F63B78#32 else r >>> 1

/-- One byte step (R145). -/
def crcByte (r : BitVec 32) (b : Byte) : BitVec 32 :=
  crcBit (crcBit (crcBit (crcBit (crcBit (crcBit (crcBit (crcBit (r ^^^ b.zeroExtend 32))))))))

/-- CRC32C(seed, bytes) of R145. -/
def crc32c (seed : BitVec 32) (bs : List Byte) : BitVec 32 :=
  bs.foldl crcByte (seed ^^^ 0xFFFFFFFF#32) ^^^ 0xFFFFFFFF#32

/-- Fields put in place of what a value holds there: first bit, width, value of each. -/
def withFields (v : Nat) (fs : List (Nat × Nat × Nat)) : Nat := fs.foldl (fun v f => setBits v f.1 f.2.1 f.2.2) v

end Sys2Proof.Machine
end

