-- ==== Sys2Proof/Machine/Crypto.lean ====
section
/-! DEFINITION. The approved algorithms of R283 as far as they are modes of AES-128 and AES-256 or of SHA-384, which stand as functions
of Config: AES-GCM, XTS-AES, CTR_DRBG, HMAC, and the two key derivations. -/

namespace Sys2Proof.Machine

/-! ## Blocks -/

/-- 16 octets as a block, the first octet leftmost; missing octets are zero. -/
def blockOf (bs : List Byte) : BitVec 128 := BitVec.ofNat 128 (beAt bs 0 16)
def blockBytesOf (b : BitVec 128) : List Byte := toBE 16 b.toNat

/-- Octet-wise exclusive or, as long as the shorter. -/
def xorBytes (a b : List Byte) : List Byte := List.zipWith (· ^^^ ·) a b

/-- The whole 16-octet blocks of an octet string, the last zero-padded. -/
def blocksOf (bs : List Byte) : List (BitVec 128) := (List.range (ceilDiv bs.length 16)).map (fun i => blockOf (bs.drop (16 * i)))

/-! ## AES-GCM (SP 800-38D) -/

/-- Product in the field of GHASH, whose bit 0 is the leftmost. -/
def ghashMul (x y : BitVec 128) : BitVec 128 :=
  ((List.range 128).foldl (fun (a : BitVec 128 × BitVec 128) i =>
    (if x.getMsbD i then a.1 ^^^ a.2 else a.1,
     if a.2.getLsbD 0 then (a.2 >>> 1) ^^^ (0xE1#128 <<< 120) else a.2 >>> 1)) (0, y)).1

/-- The running state of a GCM message between units (R240): the GHASH accumulator, and the octets of a block still open. -/
structure Ghash where
  y : BitVec 128 := 0
  open_ : List Byte := []
  deriving DecidableEq, Repr

/-- Octets are taken into the accumulator; h is the hash subkey. -/
def Ghash.absorb (h : BitVec 128) (g : Ghash) (bs : List Byte) : Ghash :=
  let all := g.open_ ++ bs
  let n := all.length / 16
  { y := (blocksOf (all.take (16 * n))).foldl (fun y b => ghashMul (y ^^^ b) h) g.y, open_ := all.drop (16 * n) }

/-- The open block is closed with zeros. -/
def Ghash.flush (h : BitVec 128) (g : Ghash) : Ghash :=
  { y := (blocksOf g.open_).foldl (fun y b => ghashMul (y ^^^ b) h) g.y, open_ := [] }

/-- The pre-counter block of a 96-bit IV, and the counter block i after it. -/
def gcmCounter (iv : List Byte) (i : Nat) : BitVec 128 := blockOf (slice iv 0 12 ++ toBE 4 (1 + i))

/-- Encryption or decryption in counter mode of octets that stand at offset o of the payload. -/
def gctr (key iv : List Byte) (o : Nat) (bs : List Byte) : List Byte :=
  xorBytes bs ((List.range (ceilDiv (o % 16 + bs.length) 16)).flatMap (fun i => blockBytesOf (Config.aes key (gcmCounter iv (1 + o / 16 + i)))) |>.drop (o % 16))

/-- The hash subkey. -/
def gcmSubkey (key : List Byte) : BitVec 128 := Config.aes key 0

/-- The state after the additional data. -/
def gcmStart (key aad : List Byte) : Ghash := ((({} : Ghash).absorb (gcmSubkey key) aad).flush (gcmSubkey key))

/-- The tag, once the ciphertext is taken in. -/
def gcmTag (key iv : List Byte) (g : Ghash) (aad payload : Nat) : List Byte :=
  let h := gcmSubkey key
  let g := (g.flush h).absorb h (toBE 8 (8 * aad) ++ toBE 8 (8 * payload))
  blockBytesOf (g.y ^^^ Config.aes key (gcmCounter iv 0))

/-- A message sealed whole: ciphertext, then tag. -/
def gcmSeal (key iv aad plain : List Byte) : List Byte :=
  let c := gctr key iv 0 plain
  c ++ gcmTag key iv ((gcmStart key aad).absorb (gcmSubkey key) c) aad.length c.length

/-- A message opened whole: none where its tag does not verify. -/
def gcmOpen (key iv aad sealed_ : List Byte) : Option (List Byte) :=
  let n := sealed_.length - 16
  let c := sealed_.take n
  if gcmTag key iv ((gcmStart key aad).absorb (gcmSubkey key) c) aad.length n = sealed_.drop n then some (gctr key iv 0 c) else none

/-! ## XTS-AES (IEEE 1619, R245) -/

/-- Product with the primitive element, of a number laid out little-endian. -/
def xtsDouble (t : Nat) : Nat := if t / 2 ^ 127 = 0 then 2 * t else (2 * t % 2 ^ 128) ^^^ 0x87

/-- Data-unit tweak of block j under the second key. -/
def xtsTweak (key2 : List Byte) (tweak j : Nat) : BitVec 128 :=
  blockOf (toLE 16 ((List.range j).foldl (fun t _ => xtsDouble t) (leNat (blockBytesOf (Config.aes key2 (blockOf (toLE 16 tweak)))))))

/-- One data unit, each block by f under the first key. -/
def xts (f : List Byte → BitVec 128 → BitVec 128) (key : List Byte) (tweak : Nat) (bs : List Byte) : List Byte :=
  let n := key.length / 2
  (blocksOf bs).zipIdx.flatMap (fun x =>
    let t := xtsTweak (key.drop n) tweak x.2
    blockBytesOf (f (key.take n) (x.1 ^^^ t) ^^^ t))

def xtsSeal (key : List Byte) (tweak : Nat) (bs : List Byte) : List Byte := xts Config.aes key tweak bs
def xtsOpen (key : List Byte) (tweak : Nat) (bs : List Byte) : List Byte := xts Config.aesInverse key tweak bs

/-! ## HMAC and key derivation -/

/-- SHA-384, 48 octets. -/
def sha384 (bs : List Byte) : List Byte := slice (Config.sha384 bs) 0 48

/-- HMAC-SHA-384 (FIPS 198-1). -/
def hmac (key m : List Byte) : List Byte :=
  let k := slice (if 128 < key.length then sha384 key else key) 0 128
  sha384 (k.map (· ^^^ 0x5C) ++ sha384 (k.map (· ^^^ 0x36) ++ m))

/-- KDF in counter mode (SP 800-108) with a 32-bit counter: the first n octets (R266). -/
def kdf (key label context : List Byte) (n : Nat) : List Byte :=
  ((List.range (ceilDiv n 48)).flatMap (fun i => hmac key (toBE 4 (i + 1) ++ label ++ [0] ++ context ++ toBE 4 (8 * n)))).take n

/-- prf+ of IKEv2 (SP 800-135): the blocks after a given one, numbered from i. -/
def prfPlus (key seed : List Byte) : Nat → Nat → List Byte → List Byte
  | 0, _, _ => []
  | n + 1, i, last =>
    let t := hmac key (last ++ seed ++ toBE 1 i)
    t ++ prfPlus key seed n (i + 1) t

/-- The first n octets of prf+. -/
def ikePrf (key seed : List Byte) (n : Nat) : List Byte := (prfPlus key seed (ceilDiv n 48) 1 []).take n

/-! ## CTR_DRBG with AES-256 and the derivation function (SP 800-90A) -/

/-- The working state: key, then V. -/
def drbgKey (s : List Byte) : List Byte := slice s 0 32
def drbgV (s : List Byte) : Nat := beAt s 32 16

/-- Octets of the block cipher over V + 1 and on. -/
def drbgBlocks (s : List Byte) (n : Nat) : List Byte :=
  (List.range n).flatMap (fun i => blockBytesOf (Config.aes (drbgKey s) (BitVec.ofNat 128 (drbgV s + 1 + i))))

/-- CTR_DRBG_Update of a state after n blocks with 48 octets of provided data. -/
def drbgUpdate (s : List Byte) (n : Nat) (data : List Byte) : List Byte :=
  xorBytes (drbgBlocks (slice s 0 32 ++ toBE 16 (drbgV s + n)) 3) data

/-- Block_Cipher_df to 48 octets. -/
def drbgDerive (input : List Byte) : List Byte :=
  let key := (List.range 32).map (fun i => (BitVec.ofNat 8 i : Byte))
  let body := toBE 4 input.length ++ toBE 4 48 ++ input ++ [0x80]
  let bcc := fun (i : Nat) => blockBytesOf ((blocksOf (toBE 4 i ++ List.replicate 12 0 ++ body)).foldl (fun c b => Config.aes key (c ^^^ b)) 0)
  let t := bcc 0 ++ bcc 1 ++ bcc 2
  let k := t.take 32
  let x1 := Config.aes k (blockOf (t.drop 32))
  let x2 := Config.aes k x1
  blockBytesOf x1 ++ blockBytesOf x2 ++ blockBytesOf (Config.aes k x2)

/-- Instantiation and reseeding from entropy input. -/
def drbgInstantiate (entropy : List Byte) : List Byte := drbgUpdate (List.replicate 48 0) 0 (drbgDerive entropy)
def drbgReseed (s entropy : List Byte) : List Byte := drbgUpdate s 0 (drbgDerive entropy)

/-- A request for n octets, and the state after it. -/
def drbgOctets (s : List Byte) (n : Nat) : List Byte := (drbgBlocks s (ceilDiv n 16)).take n
def drbgNext (s : List Byte) (n : Nat) : List Byte := drbgUpdate s (ceilDiv n 16) (List.replicate 48 0)

end Sys2Proof.Machine
end

