-- ==== Sys2Proof/Machine/SMap.lean ====
section
/-! DEFINITION. Sparse data by number: a list of (key, value) pairs in one canonical form, keys strictly rising and no
value equal to what an unlisted key reads as. Every sparse store of the machine (registers, tables, memories) is one,
so equal stores are equal data. d gives what an unlisted key reads as. -/

namespace Sys2Proof.Machine

/-- A sparse store. -/
abbrev SMap (β : Type) := List (Nat × β)

/-- The value at key k. -/
def SMap.get {β : Type} (d : Nat → β) : SMap β → Nat → β
  | [], k => d k
  | (j, v) :: m, k => if k = j then v else if k < j then d k else SMap.get d m k

/-- Key k listed with value v. -/
def SMap.put {β : Type} (k : Nat) (v : β) : SMap β → SMap β
  | [] => [(k, v)]
  | (j, w) :: m => if k = j then (k, v) :: m else if k < j then (k, v) :: (j, w) :: m else (j, w) :: SMap.put k v m

/-- Key k unlisted. -/
def SMap.drop {β : Type} (k : Nat) : SMap β → SMap β
  | [] => []
  | (j, w) :: m => if k = j then m else if k < j then (j, w) :: m else (j, w) :: SMap.drop k m

/-- Writing v at key k: writing what an unlisted key reads as removes the entry. -/
def SMap.set {β : Type} [DecidableEq β] (d : Nat → β) (k : Nat) (v : β) (m : SMap β) : SMap β :=
  if v = d k then SMap.drop k m else SMap.put k v m

/-- Every key of the store is above b. -/
def SMap.above {β : Type} (b : Nat) : SMap β → Bool
  | [] => true
  | (j, _) :: _ => decide (b < j)

/-- The canonical form. -/
def SMap.wf {β : Type} [DecidableEq β] (d : Nat → β) : SMap β → Bool
  | [] => true
  | (j, v) :: m => SMap.above j m && decide (v ≠ d j) && SMap.wf d m

end Sys2Proof.Machine
end

