-- ==== Sys2Proof/Machine/State.lean ====
section
/-! DEFINITION. The state of the AMR-7200, as plain data. Every field stands at its reset value (the value the
machine has before power is applied, R48 OFF) as its default; a value the spec does not give is named in the
assumption log. Registers with stored fields are in regs and counters in ctrs, keyed by register and element;
the structures hold what the registers only show. -/

namespace Sys2Proof.Machine

/-- Key of element i of register r in regs and ctrs. -/
def RegName.key (r : RegName) (i : Nat) : Nat := r.ctorIdx * 16777216 + i % 16777216

/-! ## Device state and image (R32 to R61) -/

/-- The device states of R48. -/
inductive DevState where
  | OFF | GHOST | LOADING | CURTAIN | STAGE
  deriving DecidableEq, Repr

/-- SYS_DEVICE_STATE.CAUSE (R61). -/
inductive DevCause where
  | PORST | WARM | RESTART | NO_IMAGE | SELFTEST_FAIL | FAULT | ZEROIZE | RECOVERED
  deriving DecidableEq, Repr

/-- The steps of the start-up timeline inside LOADING (R51): what the device waits for next. -/
inductive LoadStep where
  | selfTest | headers | early | body | idle
  deriving DecidableEq, Repr

/-- A recovery or staging session (R47, R59), with the station it was opened from, if by one. -/
structure Session where
  recovery : Bool
  slotB : Bool
  station : Option (BitVec 64)
  header : List Byte
  sigblock : List Byte
  next : Nat := 0
  movedAt : Nat := 0
  deriving DecidableEq, Repr

/-- A flash slot (R32): bytes no image has written read 0xFF, as erased NOR does (R41). -/
structure Flash where
  capacity : Nat := 268435456
  data : SMap Byte := []
  deriving DecidableEq, Repr

/-- testHeld: TEST_EN was high at PORST_N release, and the ghost light holds the device in GHOST (R486); settling: PORST_N was
released and the ghost light is not yet stable (R51). -/
structure Dev where
  testHeld : Bool := false
  settling : Bool := false
  state : DevState := .OFF
  cause : DevCause := .PORST
  step : LoadStep := .idle
  slotB : Bool := false
  failedA : Bool := false
  failedB : Bool := false
  passA : Bool := false
  passB : Bool := false
  reasonA : BitVec 8 := 0
  reasonB : BitVec 8 := 0
  earlyUp : Bool := false
  detect : Bool := false
  cpcStarted : Bool := false
  imageVersion : BitVec 32 := 0
  nonce : BitVec 64 := 0
  session : Option Session := none
  stagingDone : Bool := false
  stagingResult : BitVec 8 := 0
  amendSeq : BitVec 64 := 0
  held : List (Origin × List Byte) := []
  deriving DecidableEq, Repr

/-- The sideband inputs (R482), true when asserted, and the supplies (R473). -/
structure Pins where
  porst : Bool := true
  warm : Bool := false
  zeroize : Bool := false
  tamper : Bool := false
  perst : BitVec 16 := 0xFFFF
  lsmPresent : BitVec 16 := 0
  internalWarm : Bool := false
  testEn : Bool := false
  deriving DecidableEq, Repr

/-! ## Control map (R62 to R87) -/

/-- A write waiting in a slow bridge (R73): the register, the element, the value and the bits written. -/
structure SlowWrite where
  requester : Nat
  reg : RegName
  idx : Nat
  value : Word
  mask : Word
  deriving DecidableEq, Repr

/-- An access that waits for a domain to wake: to a register of a switched domain (R77); of a host to the peer staging region, at an
offset of its window and an HBM address (R21, R298); or of the stack's receive ring or transmit command to the reserved HBM (R21). -/
inductive Waiting where
  | read (r : Requester) (a : Nat) (size : AccSize)
  | write (r : Requester) (reg : RegName) (idx : Nat) (value mask : Word)
  | peer (link off addr : Nat) (t : HostTlp)
  | ring (frame : List Byte)
  | send (command : Word)
  deriving DecidableEq, Repr

/-- Half-latches, write buffers and bridges (R67, R68, R73), and the accesses that wait for a domain, oldest first (R77). A latch or
buffer is (tag, value). -/
structure AccessState where
  latch : SMap (Option (Nat × BitVec 32)) := []
  buffer : SMap (Option (Nat × BitVec 32)) := []
  bridge : SMap (Option SlowWrite) := []
  waiting : List (Nat × Waiting) := []
  deriving DecidableEq, Repr

/-- A field of one register element. -/
structure FieldAt where
  reg : RegName
  idx : Nat
  lo : Nat
  deriving DecidableEq, Repr

/-- The three copies of a voted field that are not all alike (R80). A copy is a word whose low bits are the field; the rest is the
copy's own check (DESIGN CHOICE, assumption log entry 20). -/
structure VoteCopies where
  at_ : FieldAt
  copies : Vector Word 3
  deriving DecidableEq, Repr

/-- Voted fields whose copies differ: every other voted field holds its stored value three times. Those found in three-way
disagreement (R83), and the register groups with a scrub in progress (R81). -/
structure Vote where
  differ : List VoteCopies := []
  broken : List FieldAt := []
  scrubs : List Nat := []
  deriving DecidableEq, Repr

/-! ## Lead and understudy (R410 to R432) -/

inductive UnitState where
  | RUNNING | FENCED | RETIRED | UNUSED
  deriving DecidableEq, Repr

/-- A duplicated unit (R410). meshSilent and sidebandSilent say that the partner is silent on that path (R419). -/
structure CtlUnit where
  number : BitVec 16 := 0
  state : UnitState := .UNUSED
  meshSilent : Bool := false
  sidebandSilent : Bool := false
  fed : Bool := false
  partnerLost : Bool := false
  meshAt : Nat := 0
  sidebandAt : Nat := 0
  kickDue : Nat := 0
  deriving DecidableEq, Repr

/-- A pair's switch-over gap (R420): closed, or open, with or without the limit of R421, since a time. -/
inductive Gap where
  | closed | open (limited : Bool) (since : Nat)
  deriving DecidableEq, Repr

inductive RehearsalPhase where
  | IDLE | RAISED | YIELDED
  deriving DecidableEq, Repr

/-- cpcBody is the CPC_FIRMWARE section in force (R431), kept for R422. before holds, from an accepted claim until the next
ghost-light cycle, the pair and the numbers of its two units before the claim: what the gates test meanwhile (R415). -/
structure Rdn where
  units : SMap CtlUnit := []
  gaps : SMap Gap := []
  degraded : SMap Bool := []
  phase : RehearsalPhase := .IDLE
  pair : Nat := 0
  oldLead : Nat := 0
  phaseAt : Nat := 0
  rehearsedAt : Nat := 0
  before : List (Nat × Nat × Nat) := []
  cpcBody : List Byte := []
  deriving DecidableEq, Repr

/-! ## Power, clocks and faults (R448 to R472) -/

inductive DomainState where
  | OFF | ON | DRAINING | ASLEEP | WAKING
  deriving DecidableEq, Repr

/-- A switched domain (R452): its state, whether the power-down in progress is for ENABLE := 0, an ENABLE := 0 that waits for ON, and the
time since which it drains, or, while ON, at which it last had work (R454, R455). -/
structure Domain where
  state : DomainState := .OFF
  toOff : Bool := false
  offPending : Bool := false
  since : Nat := 0
  deriving DecidableEq, Repr

structure Pwr where
  domains : SMap Domain := []
  deriving DecidableEq, Repr

/-- A fault record (R463). -/
structure FaultRecord where
  seq : BitVec 32
  time : Nat
  cls : BitVec 8
  verdict : BitVec 8
  kind : BitVec 8
  cause : BitVec 8
  scope : BitVec 8
  alarm : BitVec 8
  index : BitVec 32
  scopeIndex : BitVec 32
  detail : BitVec 32
  deriving DecidableEq, Repr

/-- An element under test (R461) with the error that started the test. -/
structure Test where
  kind : ElementKind
  index : BitVec 32
  cls : BitVec 8
  cause : BitVec 8
  scope : Option (ScopeKind × Nat)
  deriving DecidableEq, Repr

/-- Verdicts of one element (R462): the device times of its TRANSIENT verdicts, latest first, and of its last test. -/
structure History where
  kind : ElementKind
  index : BitVec 32
  transients : List Nat
  lastTest : Nat
  deriving DecidableEq, Repr

/-- bound holds the scopes that depend on a retired element with no spare (R467), spent the die-to-die links with no spare
lane left (R19). -/
structure Flt where
  seq : BitVec 32 := 0
  fifo : List FaultRecord := []
  tests : List Test := []
  history : List History := []
  retired : List (ElementKind × BitVec 32) := []
  bound : List (ScopeKind × Nat) := []
  spent : List Nat := []
  deriving DecidableEq, Repr

/-! ## Network ports, laser modules, management segments (R88 to R118) -/

inductive LsmState where
  | ABSENT | IDENTIFYING | READY | REJECTED | EJECTING | EJECT_READY
  deriving DecidableEq, Repr

/-- A life record (R96): sequence, lit hours, eight bias currents, temperature. -/
structure LifeRecord where
  seq : BitVec 32
  hours : BitVec 32
  bias : BitVec 128
  temp : BitVec 16
  deriving DecidableEq, Repr

structure Lsm where
  state : LsmState := .ABSENT
  reject : BitVec 4 := 0
  channelFault : BitVec 8 := 0
  wear : Bool := false
  i2c : Bool := false
  alarm : BitVec 8 := 0
  hours : BitVec 32 := 0
  rated : BitVec 32 := 0
  draw : Nat := 0
  biasEol : BitVec 16 := 0
  challenge : List Byte := []
  begun : Nat := 0
  since : Nat := 0
  history : List LifeRecord := []
  deriving DecidableEq, Repr

/-- A network port's live state: link, pause received (R105), XOFF in force (R103), the times at which the pause of each class ends (8 is
the port's) and at which each XOFF was last sent, transmit timestamps (R111). -/
structure Port where
  linkUp : Bool := false
  paused : Bool := false
  classPaused : BitVec 8 := 0
  xoff : BitVec 8 := 0
  ends : SMap Nat := []
  xoffAt : SMap Nat := []
  stamps : List (BitVec 16 × Nat) := []
  deriving DecidableEq, Repr

structure Prt where
  ports : SMap Port := []
  modules : SMap Lsm := []
  deriving DecidableEq, Repr

/-- A station of the management segments (R114): highest MSG_SEQ accepted, the 64 below it, and the MAC address it
last used on each segment. -/
structure Station where
  id : BitVec 64
  highest : Option (BitVec 32)
  window : BitVec 64
  macA : Option Mac
  macB : Option Mac
  deriving DecidableEq, Repr

/-- A message being assembled (R114). -/
structure Assembly where
  station : BitVec 64
  seq : BitVec 32
  type : BitVec 8
  count : Nat
  parts : SMap (Option (List Byte))
  movedAt : Nat := 0
  deriving DecidableEq, Repr

/-- A time input (R204): the last capture, VALID and LOST, SEEN, and the UART FIFO. -/
structure TimeInput where
  capture : Nat := 0
  valid : Bool := false
  lost : Bool := false
  seen : Bool := false
  edgeAt : Nat := 0
  fifo : List Byte := []
  overflow : Bool := false
  deriving DecidableEq, Repr

structure Mgt where
  stations : List Station := []
  assemblies : List Assembly := []
  txSeq : BitVec 32 := 0
  inputs : SMap TimeInput := []
  timeHigh : BitVec 16 := 0
  deriving DecidableEq, Repr

/-- Device time (R202): nanoseconds since PORST_N release, the fraction accumulator, and a step that waits for the
next tick (R203). -/
structure Clock where
  ns : Nat := 0
  frac : Nat := 0
  step : Option Int := none
  core : Nat := 0
  deriving DecidableEq, Repr

/-! ## Classifier, tables, switch core, traffic manager (R119 to R208) -/

/-- The ticket (R132), field by field. -/
structure Ticket where
  scene : BitVec 16 := 0
  slice : BitVec 12 := 0
  gen : BitVec 8 := 0
  inPort : BitVec 9 := 0
  cls : BitVec 3 := 0
  dp : BitVec 2 := 0
  tailError : Bool := false
  ecn : Bool := false
  spot : Bool := false
  slow : Bool := false
  flowHash : BitVec 32 := 0
  action : BitVec 24 := 0
  reason : BitVec 8 := 0
  deriving DecidableEq, Repr

inductive SceneState where
  | FREE | PENDING | ARMED | CURRENT | DRAINING | FORCED
  deriving DecidableEq, Repr

/-- A live-scene slot (R135, R136). -/
structure SceneSlot where
  scene : BitVec 16 := 0
  state : SceneState := .FREE
  since : Nat := 0
  deriving DecidableEq, Repr

structure Scenes where
  slots : SMap SceneSlot := []
  current : BitVec 16 := 0
  pending : BitVec 16 := 1
  lastStatus : BitVec 8 := 0
  activation : Nat := 0
  deriving DecidableEq, Repr

/-- An entry of a hashed table (R142). In the learning and flow tables BORN, DIED and their flags stay as inserted. -/
structure Entry where
  key : List Byte
  action : BitVec 24
  pinned : Bool
  ageLimit : BitVec 15
  stamp : BitVec 16
  born : BitVec 16
  died : BitVec 16
  diedValid : Bool
  settled : Bool
  deriving DecidableEq, Repr

/-- A record of the eviction FIFO (R151). -/
structure Evicted where
  table : Nat
  key : List Byte
  action : BitVec 24
  stamp : BitVec 16
  deriving DecidableEq, Repr

/-- What a finished table command reports (R158 to R160). -/
structure TableResult where
  status : BitVec 8 := 0
  hit : Bool := false
  replaced : Bool := false
  evicted : Bool := false
  relocations : Nat := 0
  index : Nat := 0
  entry : Option Entry := none
  record : Option (List Byte) := none
  loads : Bool := false
  deriving DecidableEq, Repr

/-- Where the image places the HBM regions (R20): codes 0 none, 1 HB0, 2 HB1, 3 both, the spill size in MiB, and LOG2_BUCKETS of the
flow table's region, where there is one. -/
structure Placement where
  flowLog : Option Nat := none
  flow : Nat := 0
  ctx : Nat := 0
  spill : Nat := 0
  spillMib : Nat := 0
  peer : Nat := 0
  troupe : SMap Nat := []
  troupeMib : SMap Nat := []
  deriving DecidableEq, Repr

/-- The tables: slots, action records, walk registers, the eviction FIFO, the milestone count, what sweeps are to remove, and the
flow cache. finished holds the commands performed and not yet done, oldest first: the thread that asked, or none for the
command interface (R158, R387). learnTimes holds the core cycles of the inserts and moves of a port within the last 1 ms (R155). -/
structure Tables where
  entries : SMap (Option Entry) := []
  actions : SMap (BitVec 256) := []
  walk : SMap (BitVec 16) := []
  evicted : List Evicted := []
  now : BitVec 16 := 0
  nowAt : Nat := 0
  removes : List (Nat × Nat × List Byte × BitVec 16) := []
  cached : SMap Bool := []
  fills : List (Nat × Nat) := []
  placement : Placement := {}
  finished : List (Option Nat × TableResult) := []
  learnTimes : SMap (List Nat) := []
  deriving DecidableEq, Repr

/-- Cells a frame holds against its ingress (R177 to R180). -/
structure Charge where
  reserved : Nat := 0
  shared : Nat := 0
  headroom : Nat := 0
  skid : Nat := 0
  deriving DecidableEq, Repr

/-- What a pass's chain decided (R130), before it is carried out (R171). -/
structure Decision where
  forward : Nat := 0
  target : Nat := 0
  rewrite : Nat := 0
  mirror : Nat := 0
  learn : Bool := false
  count : Option Nat := none
  police : Option (Nat × Bool) := none
  ctx : Nat := 0
  deriving DecidableEq, Repr

inductive FramePhase where
  | arriving | looking | held | forwarded
  deriving DecidableEq, Repr

/-- A frame inside the device: its octets so far from destination MAC to FCS, and what is known of it. passPort is
the port of the pass in progress; passes counts entries; lost counts octets discarded for want of
landing-buffer cells (R106); verify is RX_VERIFY as its reception started (R109); first holds the octets of the first entry once a pass
has replaced them (R184); order numbers its entry into its pipeline (R119). -/
structure Frame where
  id : Nat
  inPort : Nat
  passPort : Nat
  octets : List Byte := []
  ended : Bool := false
  bad : Bool := false
  cutShort : Bool := false
  rxClass : Nat := 0
  time : Nat := 0
  landing : Bool := false
  phase : FramePhase := .arriving
  ticket : Ticket := {}
  entered : Bool := false
  passes : Nat := 0
  reentries : Nat := 0
  emit : Option EmitFlags := none
  csumResult : BitVec 8 := 0
  verify : Bool := false
  decision : Option Decision := none
  chosen : Bool := false
  learned : Bool := false
  charge : Charge := {}
  lossless : Bool := false
  lost : Nat := 0
  first : Option (List Byte) := none
  order : Nat := 0
  deriving DecidableEq, Repr

inductive CopyKind where
  | normal | mirror
  | sample (snap : Nat) (dest : Nat) (depth : Nat) (port : Nat)
  deriving DecidableEq, Repr

/-- A copy of a frame in an egress queue, or started on its port (R186 to R190). mark and spot are its CE mark and spotlight
bit; charged is the length its shapers were charged. Sampled as it starts: its rewrite record, TX_INSERT and INCR_UPDATE (R107,
R108) and its one-step timestamp (R111). late marks an estimate that proved low, and closes is when its class next closes (R199). asFirst
marks a copy of the frame as it first entered (R184); ready one that became eligible (R166). -/
structure Copy where
  frame : Nat
  port : Nat
  cls : Nat
  slice : Nat
  kind : CopyKind := .normal
  rewrite : Nat := 0
  mark : Bool := false
  spilled : Bool := false
  started : Bool := false
  tag : Option (BitVec 48) := none
  charged : Nat := 0
  record : Option (BitVec 256) := none
  spot : Bool := false
  insert : Bool := false
  incr : Bool := true
  stamp : Option Nat := none
  late : Bool := false
  closes : Option Nat := none
  asFirst : Bool := false
  ready : Bool := false
  deriving DecidableEq, Repr

structure Swc where
  nextFrame : Nat := 0
  entries : Nat := 0
  frames : List Frame := []
  copies : List Copy := []
  samples : List Copy := []
  arrived : List Copy := []
  learnQueue : List (Nat × List Byte × Nat) := []
  counters : SMap (Nat × Nat) := []
  spotDown : SMap Nat := []
  repins : List (Nat × Nat) := []
  select : SMap Nat := []
  deriving DecidableEq, Repr

/-- A token bucket (R192): tokens in 1/12,800 byte as of a core cycle. -/
structure Bucket where
  tokens : Int := 0
  cycle : Nat := 0
  deriving DecidableEq, Repr

/-- A port's operational timetable (R198). -/
structure Timetable where
  base : Nat
  cycle : Nat
  entries : List (BitVec 8 × Nat)
  deriving DecidableEq, Repr

structure Tms where
  buckets : SMap Bucket := []
  peak : SMap Bucket := []
  vtime : SMap Nat := []
  lastTag : SMap Nat := []
  oper : SMap (Option Timetable) := []
  change : SMap (Option Nat) := []
  deriving DecidableEq, Repr


/-! ## Tunnel engine (R209 to R223) -/

/-- Anti-replay marks of an inbound context (R219): sequence numbers accepted and pending. -/
structure Replay where
  accepted : List Nat := []
  pending : List Nat := []
  deriving DecidableEq, Repr

/-- A unit in the tunnel engine whose cipher work is under way: the frame it came as, its context with the bytes the context had at the
unit's start (R213), the tunnel port it came by, its sequence number, and the octets before and after the enciphered part. -/
structure TunnelJob where
  id : Nat
  frame : Frame
  ctx : Nat
  obj : List Byte
  port : Nat
  seq : Nat
  inbound : Bool
  head : List Byte
  aad : List Byte
  payload : List Byte
  ecn : Nat
  deriving DecidableEq, Repr

/-- An entry of the OFL event FIFO. -/
structure OflEvent where
  kind : Nat
  index : Nat
  cause : Nat
  deriving DecidableEq, Repr

/-! ## Cipher cluster (R234 to R258) -/

/-- A queued cipher request: its requester, its 64 bytes, and the input at its SRC. Once begun, it holds the units done, the invocation,
epoch, key and fixed field it runs under, and the message's running state (R240): the GHASH accumulator, the output so far, and how many
octets of it a thread has been given. -/
structure CipherReq where
  requester : CipherRequester
  raw : List Byte
  input : List Byte
  units : Nat := 0
  inv : Nat := 0
  epoch : Nat := 0
  key : List Byte := []
  fixed : Nat := 0
  hash : Ghash := {}
  out : List Byte := []
  sent : Nat := 0
  deriving DecidableEq, Repr

/-- A finished request (R237): its 32-byte result and its output. Without a result it is output written before the request ends (R244). -/
structure CipherResult where
  requester : CipherRequester
  cookie : Nat
  result : List Byte
  output : List Byte
  dst : Nat
  deriving DecidableEq, Repr

inductive KeyState where
  | EMPTY | ACTIVE | EXHAUSTED | LOCKED
  deriving DecidableEq, Repr

/-- A key as a context holds it: material, fixed field, identifier and export policy. -/
structure KeyMat where
  material : List Byte
  fixed : BitVec 32
  id : BitVec 64
  exportable : Bool
  domain : Nat
  deriving DecidableEq, Repr

/-- A key context (R246 to R256). held is the state before a lock, and own says that the lock has a cause of the context's own, which the
exit of its owner's scope does not lift (R467). -/
structure KeyCtx where
  state : KeyState := .EMPTY
  held : KeyState := .EMPTY
  own : Bool := false
  alg : Nat := 0
  cur : Option KeyMat := none
  prev : Option KeyMat := none
  succ : Option KeyMat := none
  epoch : BitVec 8 := 0
  used : Nat := 0
  bytes : Nat := 0
  limit : Nat := 4294967296
  byteLimit : Nat := 1125899906842624
  ivPrefix : BitVec 16 := 0
  owner : Nat := 0
  weight : Nat := 1
  pin : Bool := false
  persist : Bool := false
  p : Nat := 0
  pb : Nat := 0
  writing : Option (Nat × Nat) := none
  wait : Bool := false
  deriving DecidableEq, Repr

/-- What an engine does: nothing; a unit of a request; or nothing yet in a turn it still holds. -/
inductive EngineWork where
  | idle
  | unit (ctx : Nat) (turnBytes : Nat) (unitBytes : Nat) (req : CipherReq)
  | turn (ctx : Nat) (turnBytes : Nat)
  deriving DecidableEq, Repr

inductive EngineState where
  | IN_SERVICE | TESTING | RETIRED
  deriving DecidableEq, Repr

structure CipherEngine where
  state : EngineState := .IN_SERVICE
  faults : Nat := 0
  work : EngineWork := .idle
  deriving DecidableEq, Repr

/-- The cluster: contexts, engines, queued requests in submission order, requests that wait at their requesters for a free place (R239),
the round of R241 as contexts with the turns taken in it, hot contexts with the least recently served first, the wrapped records of cold
ones in HBM (R247), and results not yet taken. -/
structure Cph where
  ctxs : SMap KeyCtx := []
  engines : SMap CipherEngine := []
  queue : List CipherReq := []
  held : List CipherReq := []
  round : List (Nat × Nat) := []
  hot : List Nat := []
  cold : SMap (List Byte) := []
  results : List CipherResult := []
  deriving DecidableEq, Repr

/-! ## Vault (R259 to R288) -/

/-- A counter record of the persistent store (R253). -/
structure CounterRec where
  keyId : BitVec 64
  p : Nat
  pb : Nat
  clean : Bool
  valid : Bool
  deriving DecidableEq, Repr

/-- The persistent store (R261). A root, a seed or an identifier of none is the one written at manufacture, and the key slots hold what
manufacture wrote until a warrant changes them; retired holds the retirement records (R464). The device root key and the identity seed
stand sealed. A write is complete when both mirrors hold it (R262), so a record stands once for both; only checkpoints of counter records
are written over time, and they stand per mirror: counters in Vault-A's, countersB in Vault-B's. seqs holds the record sequence of each
record written since manufacture, the last written first. -/
structure Store where
  minVersion : BitVec 32 := 0
  retired : List FaultRecord := []
  kFloor : Nat := 1
  drkId : Option (BitVec 32) := none
  drk : Option (List Byte) := none
  seed : Option (List Byte) := none
  zeroised : Bool := false
  slots : SMap (Option (List Byte)) := []
  counters : List CounterRec := []
  countersB : List CounterRec := []
  seqs : List (StoreRecord × BitVec 32) := []
  deriving DecidableEq, Repr

/-- An IKE handle (R270): the own private value, and SK_d once derived. -/
structure Ike where
  own : List Byte
  skd : Option (List Byte)
  deriving DecidableEq, Repr

/-- A hand-over offer (R278): the offer's bytes and its private keys. -/
structure Offer where
  bytes : List Byte
  kem : List Byte
  dh : List Byte
  deriving DecidableEq, Repr

/-- An SPDM session of a host port (R276). -/
structure SpdmSession where
  port : Nat
  id : Nat
  secured : Bool
  keys : Nat
  deriving DecidableEq, Repr

/-- A key set of an IDE sub-stream: its key, and whether it is in use. -/
structure IdeKey where
  key : List Byte
  go : Bool
  deriving DecidableEq, Repr

/-- A warrant accepted whose service is still to be performed (R274). -/
structure Warrant where
  origin : Origin
  service : Nat
  seq : Nat
  body : List Byte
  deriving DecidableEq, Repr

structure Vlt where
  store : Store := {}
  replies : List (BitVec 32 × List Byte) := []
  wrapKey : List Byte := []
  ike : SMap (Option Ike) := []
  offer : Option Offer := none
  exported : List (List Byte) := []
  warrantSeq : Nat := 0
  accepted : List Warrant := []
  debug : Bool := false
  error : Bool := false
  erasing : Bool := false
  sourceFails : SMap (List Nat) := []
  sourceDead : SMap Bool := []
  drbg : List Byte := []
  drbgAt : Nat := 0
  drbgCount : Nat := 0
  reseeds : Nat := 0
  k : Nat := 1
  houseSet : BitVec 8 := 0
  domains : Nat := 1
  lsmRoots : List (List Byte) := []
  attestRoots : List (List Byte) := []
  policyBlobs : List (List Byte) := []
  nextKeyId : BitVec 64 := 1
  ctxPlacement : Nat := 0
  sessions : List SpdmSession := []
  spdmVersion : SMap Nat := []
  ideKeys : List (IdeTarget × IdeKey) := []
  measurements : List (List Byte) := []
  deriving DecidableEq, Repr

structure Ofl where
  ctxs : SMap (List Byte) := []
  conns : SMap (List Byte) := []
  spaces : SMap (List Byte) := []
  replay : SMap Replay := []
  jobs : List TunnelJob := []
  nextJob : Nat := 0
  events : List OflEvent := []
  deriving DecidableEq, Repr

/-! ## Memories -/

/-- Byte memories: the reserved HBM of each pair, the SRAM of each CPC unit and its vault rings (R20, R428), the peer
staging region, and the HBM windows, data memories and shared memories of the clusters (R374, R376), keyed by address
within each. A byte nothing has written reads zero (assumption log entry 8), or, in a data or shared memory, as the
firmware image places it (R397). -/
structure Mem where
  hb0 : SMap Byte := []
  hb1 : SMap Byte := []
  sram : SMap Byte := []
  vring : SMap Byte := []
  peer : SMap Byte := []
  window : SMap Byte := []
  dmem : SMap Byte := []
  shared : SMap Byte := []
  deriving DecidableEq, Repr

/-! ## Host ports (R289 to R314) -/

/-- The configuration of one function that the device itself acts on (R299 to R301, R305, R308); other holds the other
writable words as written. mps and mrrs are the PCI Express encodings. pba marks pending vectors. -/
structure Func where
  mse : Bool := false
  bme : Bool := false
  d3 : Bool := false
  pasid : Bool := false
  mps : BitVec 3 := 0
  mrrs : BitVec 3 := 2
  relaxed : Bool := true
  tag10 : Bool := false
  timeout : BitVec 4 := 0
  bar0 : BitVec 64 := 0
  bar2 : BitVec 64 := 0
  msixEn : Bool := false
  msixMask : Bool := false
  flr : Bool := false
  vectors : SMap (BitVec 128) := []
  pba : SMap Bool := []
  other : SMap (BitVec 32) := []
  deriving DecidableEq, Repr

/-- A host link (R289, R290): its state and its two functions; the BAR sizes in force are those of PF1. -/
structure HostLink where
  up : Bool := false
  flit : Bool := false
  speed : Nat := 0
  width : Nat := 0
  bar0Log2 : Nat := 0
  bar2Log2 : Nat := 0
  pf0 : Func := {}
  pf1 : Func := {}
  deriving DecidableEq, Repr

/-- What the data of a host read is for. -/
inductive ReadFor where
  | ring (queue first count keep : Nat)
  | frame (job part : Nat)
  | prpList (cmd : Nat)
  | storage (cmd part : Nat)
  | descTail (ch : Nat)
  | descHead (ch : Nat)
  | relink (ch : Nat)
  | block (ch off : Nat)
  | flush (ch : Nat)
  deriving DecidableEq, Repr

/-- A read that waits for the read engine (R359), or is reissued (R367). -/
structure Want where
  link : Nat
  slc : Nat
  gen : Nat
  why : ReadFor
  addr : Nat
  len : Nat
  retries : Nat := 0
  deriving DecidableEq, Repr

/-- A request of a read (R302, R303): its tag, the device time its timer ends, and the bytes placed so far. -/
structure ReadReq where
  tag : Nat
  addr : Nat
  len : Nat
  limit : Nat
  data : List (Option Byte)
  done : Bool := false
  deriving DecidableEq, Repr

/-- A read with its requests. A failed read only waits for its outstanding tags to be freed (R304, R368). -/
structure HostRead where
  want : Want
  reqs : List ReadReq
  failed : Bool := false
  deriving DecidableEq, Repr

/-- A tag in quarantine until a device time (R306). -/
structure Quarantine where
  port : Nat
  tag : Nat
  until_ : Nat
  deriving DecidableEq, Repr

/-- What a host link carries outward. -/
inductive HostOut where
  | write (pasid stream : Option Nat) (relaxed : Bool) (addr : Nat) (data : List Byte)
  | read (pasid stream : Option Nat) (tag addr len : Nat)
  | msi (stream : Option Nat) (fn vector : Nat) (addr : Nat) (data : BitVec 32)
  | completion (stream : Option Nat) (status : Nat) (data : List Byte)
  | config (fn reg status : Nat) (value : BitVec 32)
  | aer (fn code : Nat)
  | retrain (speed : Nat)
  deriving DecidableEq, Repr

/-- identity is the EARLY_IDENTITY body (R311); held are TLPs that wait for a Secure stream (R310); last is the
requester each port's read engine served last; released is when each port's fundamental reset was released. -/
structure Hep where
  identity : List Byte := []
  links : SMap HostLink := []
  wants : List Want := []
  reads : List HostRead := []
  quarantine : List Quarantine := []
  last : SMap Nat := []
  held : List (Nat × HostOut) := []
  released : SMap Nat := []
  deriving DecidableEq, Repr

/-! ## Slices and queues (R315 to R357) -/

/-- byHost marks the slices that a host event stopped (R319); texts holds serial, model and firmware strings of the
plan (R330). -/
structure Slc where
  byHost : SMap Bool := []
  texts : SMap (List Byte) := []
  peerMib : Nat := 0
  deriving DecidableEq, Repr

inductive QState where
  | DISABLED | RUNNING | DRAINING | ERROR
  deriving DecidableEq, Repr

/-- A completion whose SQ head and phase are filled in when it is formed (R348): its bytes and its IRQ flag. -/
structure Cpl where
  bytes : List Byte
  irq : Bool
  deriving DecidableEq, Repr

/-- A queue pair (R333 to R356): indices, cached entries by index, taken entries whose completions are not formed, the
completions that can be formed, and the overflow. sqLog and cqLog are the sizes of the last enable; life counts the times its taken
entries were discarded or abandoned (R355, R356). since is when the first completion not yet signalled was written, and irqUs the
IRQ_US that counts from it (R350); stall is when a completion entered the empty overflow (R351). -/
structure Queue where
  state : QState := .DISABLED
  refused : Bool := false
  errCode : Nat := 0
  errIndex : Nat := 0
  errSource : Nat := 0
  p : Nat := 0
  c : Nat := 0
  cqP : Nat := 0
  cqC : Nat := 0
  phase : Bool := true
  sqLog : Nat := 0
  cqLog : Nat := 0
  cache : List (Nat × List Byte) := []
  owed : Nat := 0
  ready : List Cpl := []
  overflow : List Cpl := []
  unsignalled : Nat := 0
  life : Nat := 0
  since : Nat := 0
  irqUs : Nat := 0
  stall : Nat := 0
  deriving DecidableEq, Repr

/-- A transmit frame being read (R343, R347): its entries by index, and its parts as they arrive. -/
structure TxJob where
  id : Nat
  queue : Nat
  life : Nat
  slc : Nat
  gen : Nat
  link : Nat
  cls : Nat
  entries : List (Nat × List Byte)
  parts : List (Option (List Byte))
  failed : Bool := false
  deriving DecidableEq, Repr

/-- A receive buffer in use: its entry's index and bytes, and how much of it is written. -/
structure RxBuffer where
  index : Nat
  entry : List Byte
  used : Nat
  deriving DecidableEq, Repr

/-- A frame being delivered on a host link (R344, R352). -/
structure RxJob where
  link : Nat
  frame : Nat
  queue : Nat
  slc : Nat
  sent : Nat
  bufs : List RxBuffer
  deriving DecidableEq, Repr

/-- rx are the frames being delivered; waits are those that wait for buffers: link, frame, since when (R352); rounds and lastQueue are the
turns of R326 and R347. -/
structure Qrg where
  queues : SMap Queue := []
  jobs : List TxJob := []
  nextJob : Nat := 0
  rx : List RxJob := []
  rounds : SMap (List (Nat × Nat)) := []
  lastQueue : SMap Nat := []
  waits : List (Nat × Nat × Nat) := []
  deriving DecidableEq, Repr

/-! ## Storage (R224 to R233) -/

/-- Where a storage command stands. -/
inductive StPhase where
  | lists | fetching | sealing | sent | answered
  deriving DecidableEq, Repr

/-- A storage command: its entry, its resolved namespace and connection, the host pages of its data, the data or ciphertext by part,
the blocks still in the cipher, the chunk of a Write Zeroes in progress; of a Read, the spans received and the blocks deciphered; and a
status that its completion is to carry in place of the target's. -/
structure StCmd where
  id : Nat
  queue : Nat
  life : Nat
  slc : Nat
  gen : Nat
  sqe : List Byte
  space : List Byte
  conn : Nat
  bytes : Nat
  phase : StPhase
  pages : List (Nat × Nat) := []
  list : Option (Nat × Nat) := none
  parts : List (Option (List Byte)) := []
  staged : List Byte := []
  blocks : List (Nat × Nat) := []
  chunk : Nat := 0
  answer : Option (List Byte) := none
  got : List (Nat × Nat) := []
  seen : List Nat := []
  error : Option Nat := none
  sentAt : Nat := 0
  deriving DecidableEq, Repr

/-- A segment handed to the target: its sequence number, the one after it, and its octets. -/
structure SentFrame where
  seq : Nat
  next : Nat
  octets : List Byte
  deriving DecidableEq, Repr

/-- A transport frame that waits for the send window: its kind, command, offset and data. -/
structure Unsent where
  kind : Nat
  cmd : Nat
  offset : Nat
  data : List Byte
  deriving DecidableEq, Repr

/-- A connection's transport state beyond its object (R229, R232): unacknowledged segments, frames held by the TCP window, retries of
each kind, duplicate acknowledgements, the window last advertised, and whether a Keep Alive is unanswered. -/
structure ConnRun where
  unacked : List SentFrame := []
  held : List Unsent := []
  retries : Nat := 0
  rnr : Nat := 0
  dups : Nat := 0
  window : Option Nat := none
  alive : Bool := false
  keptAt : Nat := 0
  deriving DecidableEq, Repr

structure Sto where
  cmds : List StCmd := []
  nextCmd : Nat := 0
  runs : SMap ConnRun := []
  deriving DecidableEq, Repr

/-! ## Bulk mover (R358 to R373) -/

/-- A descriptor (R362) with the address it was read at. -/
structure Desc where
  src : Nat := 0
  dst : Nat := 0
  len : Nat := 0
  swap : Nat := 0
  barrier : Bool := false
  irq : Bool := false
  eoc : Bool := false
  paced : Bool := false
  reserved : Bool := false
  next : Nat := 0
  deriving DecidableEq, Repr

inductive ChState where
  | DISABLED | RUNNING | WAIT_END | HALTED
  deriving DecidableEq, Repr

/-- A descriptor fetch (R363): where, and its two halves as they arrive; relink marks a re-fetch of R372. -/
structure Fetch where
  addr : Nat
  relink : Bool
  tail : Option (List Byte) := none
  head : Option (List Byte) := none
  deriving DecidableEq, Repr

/-- A channel (R369). Of the descriptor in service: bytes issued to the read engine, bytes written, bytes its bursts
allow, blocks read and not yet written, and its flush read (R365). -/
structure Channel where
  state : ChState := .DISABLED
  stopping : Bool := false
  appendPending : Bool := false
  lastStatus : BitVec 8 := 0
  pending : Nat := 0
  gen : Nat := 0
  retries : Nat := 0
  cur : Nat := 0
  done : BitVec 32 := 0
  serving : Option Desc := none
  ahead : Option Desc := none
  fetch : Option Fetch := none
  issued : Nat := 0
  written : Nat := 0
  granted : Nat := 0
  blocks : List (Nat × List Byte) := []
  flushed : Bool := false
  deriving DecidableEq, Repr

structure Bmv where
  chans : SMap Channel := []
  deriving DecidableEq, Repr

/-! ## Troupe cores (R374 to R400) -/

inductive ThreadState where
  | STOPPED | RUNNING | WAITING | FAULTED | HALTED
  deriving DecidableEq, Repr

/-- A thread (R375, R378 to R385, R390): the state before a halt, its integer registers, the machine CSRs of RV64 with
Zicsr, its event inputs, ticket register and staging buffers, the reservation of LR, the wait it is in, and the status
and count of each channel's last operation. -/
structure Thread where
  state : ThreadState := .STOPPED
  held : ThreadState := .STOPPED
  pc : Word := 0
  x : SMap Word := []
  mie : Bool := false
  mpie : Bool := false
  meie : Bool := false
  mtvec : Word := 0
  mepc : Word := 0
  mcause : Word := 0
  mtval : Word := 0
  mscratch : Word := 0
  minstret : Word := 0
  evpend : BitVec 32 := 0
  evie : BitVec 32 := 0
  chres : BitVec 32 := 0
  ticket : BitVec 128 := 0
  staging : SMap Word := []
  resv : Option Nat := none
  wait : Option (BitVec 32 × Nat × Option Nat) := none
  status : SMap (BitVec 8) := []
  ended : SMap (BitVec 32) := []
  deriving DecidableEq, Repr

/-- A channel operation in flight (R385): the thread's identity, the channel, the staged bytes, the frame of an emit,
the result once the engine ends it, and whether a core reset discards it. -/
structure ChanOp where
  thread : Nat
  channel : Nat
  staged : List Byte
  frame : List Byte := []
  result : Option (List Byte) := none
  stale : Bool := false
  deriving DecidableEq, Repr

/-- A core: reset in progress, the wait counter A, the stall timer B running and its count (R393), and the core cycle of its last
reset. -/
structure Core where
  resetting : Bool := false
  idle : Nat := 0
  stall : Bool := false
  stalled : Nat := 0
  since : Nat := 0
  deriving DecidableEq, Repr

/-- body is the TROUPE_FIRMWARE section in force (R396). -/
structure Trp where
  body : List Byte := []
  threads : SMap Thread := []
  cores : SMap Core := []
  ops : List ChanOp := []
  dqProd : SMap Nat := []
  dqCons : SMap Nat := []
  deriving DecidableEq, Repr

/-! ## Callboard (R401 to R409) -/

/-- The management protocol of one host port (R407, R408): HELLO answered, the transfer in progress as its length in
words and the bytes so far, the words of the device's own transfer still to be written, and the time the last word was taken. -/
structure Talk where
  hello : Bool := false
  open_ : Option (Nat × List Byte) := none
  sending : List (BitVec 32) := []
  since : Nat := 0
  deriving DecidableEq, Repr

structure Cbd where
  slots : SMap Word := []
  talks : SMap Talk := []
  deriving DecidableEq, Repr

/-! ## Stack (R433 to R447) -/

inductive StackState where
  | STANDALONE | JOINING | MEMBER | MASTER | WINGS
  deriving DecidableEq, Repr

/-- A designated port's link (R436, R437, R443): a HELLO of an acceptable version heard, one sent, the link's version,
the member at its far end, the last frame sequence, the partner's last TX_TIME and its receive time, and when a Barod frame last came. -/
structure StackLink where
  heard : Bool := false
  sent : Bool := false
  refused : Bool := false
  silent : Bool := false
  version : Nat := 0
  peer : Nat := 0
  seq : BitVec 32 := 0
  partnerTx : Nat := 0
  partnerRx : Nat := 0
  delay : BitVec 32 := 0
  heardAt : Nat := 0
  deriving DecidableEq, Repr

/-- What a device knows of a member. -/
structure StackPeer where
  number : Nat := 0
  state : Nat := 0
  digest : Bool := false
  deriving DecidableEq, Repr

/-- A claim in progress (R441): the number claimed, the members that accepted, and a reply that said MASTER_ALIVE. -/
structure StackClaim where
  new : Nat
  accepts : List Nat
  alive : Bool
  since : Nat
  deriving DecidableEq, Repr

/-- leaderless is since when the device has quorum and records no visible master (R441); covered holds the sections STACK_DIGEST covers by type (R435); drift is since when the offset exceeds 10 ms, timePorts the
ports curtained for it (R443); parts are the parts applied of the SCENE in progress, sceneAt its activation time, needFull
that only a FULL scene ends the SCENE cause, fullArmed that one is armed (R444). -/
structure Stk where
  plan : List Byte := []
  digest : List Byte := []
  state : StackState := .STANDALONE
  cause : Nat := 0
  member : Nat := 0
  number : Nat := 0
  master : Option Nat := none
  masterNum : Nat := 0
  links : SMap StackLink := []
  peers : SMap StackPeer := []
  claim : Option StackClaim := none
  leaderless : Option Nat := none
  offset : Int := 0
  drift : Option Nat := none
  timePorts : List Nat := []
  sceneAt : Option Nat := none
  needFull : Bool := false
  rxProd : Nat := 0
  rxCons : Nat := 0
  fullArmed : Bool := false
  parts : List Nat := []
  covered : SMap (List Byte) := []
  deriving DecidableEq, Repr

/-! ## What leaves the device, and the whole -/

/-- What left the device, in order. This list is the model's own (assumption log entry 3). -/
inductive Out where
  | frame (port : Nat) (octets : List Byte) (good : Bool)
  | pause (port : Nat) (pfc : Bool) (vector : BitVec 8) (quanta : BitVec 16)
  | mgmt (segment : Nat) (dest : Mac) (body : List Byte)
  | value (requester : Nat) (addr : Nat) (value : Word)
  | readAlarm (engine : Nat)
  | setDasa (engine address : Nat)
  | challenge (engine : Nat) (bytes : List Byte)
  | eeprom (engine offset : Nat) (data : List Byte)
  | heartbeat (unit : Nat)
  | doe (port : Nat) (code : Nat) (body : List Byte)
  | reply (dest : Origin) (body : List Byte)
  | host (link : Nat) (o : HostOut)
  | channelEvent (channel : Nat)
  | coreEvent (core : Nat) (code : Nat)

  deriving DecidableEq, Repr

/-- The machine. pending is the queue of waiting commands, first in first out. draws counts the free values used
(assumption log entry 4). -/
structure State where
  pending : List Instr := []
  regs : SMap Word := []
  ctrs : SMap Word := []
  out : List Out := []
  draws : Nat := 0
  clk : Clock := {}
  pins : Pins := {}
  dev : Dev := {}
  flashA : Flash := {}
  flashB : Flash := {}
  acc : AccessState := {}
  vote : Vote := {}
  rdn : Rdn := {}
  pwr : Pwr := {}
  flt : Flt := {}
  prt : Prt := {}
  mgt : Mgt := {}
  scn : Scenes := {}
  tbl : Tables := {}
  swc : Swc := {}
  tms : Tms := {}
  ofl : Ofl := {}
  cph : Cph := {}
  vlt : Vlt := {}
  hep : Hep := {}
  slc : Slc := {}
  qrg : Qrg := {}
  sto : Sto := {}
  bmv : Bmv := {}
  trp : Trp := {}
  cbd : Cbd := {}
  stk : Stk := {}
  mem : Mem := {}
  deriving DecidableEq, Repr

/-- The machine right after reset: power just applied, PORST_N low, every field at the default its structure names. -/
def State.reset : State := {}

/-- Why the machine stops: never. The spec gives every command an effect, errors and refused accesses among them, so no meaning
raises a fault, and there is none to name. -/
inductive Fault where
  deriving DecidableEq, Repr

/-- Why the machine gives a command no meaning. -/
inductive Refusal where
  /-- A command whose meaning is not written yet, by its mnemonic. Safe: nothing is claimed of it. -/
  | notModelled (mnemonic : String)
  deriving DecidableEq, Repr

end Sys2Proof.Machine
end

