-- ==== Sys2Proof/Machine/Ops.lean ====
section
/-! DEFINITION. The named operations every family uses: register fields, counters, outputs, free values, device time,
curtain scopes, roles and gates, power domains, alarms and fault records. -/

namespace Sys2Proof.Machine

/-! ## Registers (R7, R8) -/

/-- The fields of a register table at their reset values. -/
def resetWord (fs : List FieldInfo) : Nat := fs.foldl (fun v f => v + f.reset * 2 ^ f.lo) 0

/-- The reset value of element i of a register (R8). Two tables give values that differ between elements: EVICT of
table 65 (R162) and OVERHEAD of ports above 255 (R207). -/
def RegName.resetAt (r : RegName) (i : Nat) : Word :=
  match r with
  | .TBL_TABLE_CFG => BitVec.ofNat 64 (resetWord r.info.fields + (if i = 65 then 2 * 2 ^ 32 else 0))
  | .TMS_PORT_CFG => BitVec.ofNat 64 (if i < 256 then 20 else 0)
  | r => BitVec.ofNat 64 (resetWord r.info.fields)

/-- What an unwritten register reads as. -/
def regDefault (k : Nat) : Word := (RegName.ofNat (k / 16777216)).resetAt (k % 16777216)

/-- The stored fields of element i of a register. -/
def State.reg (s : State) (r : RegName) (i : Nat) : Word := SMap.get regDefault s.regs (r.key i)

def State.setReg (s : State) (r : RegName) (i : Nat) (v : Word) : State :=
  { s with regs := SMap.set regDefault (r.key i) v s.regs }

/-- A stored field of a register. -/
def State.fld (s : State) (f : FieldPos) (i : Nat) : Nat := fieldOf (s.reg f.reg i) f.lo f.width

def State.flagAt (s : State) (f : FieldPos) (i : Nat) : Bool := s.fld f i == 1

def State.setFld (s : State) (f : FieldPos) (i : Nat) (x : Nat) : State :=
  s.setReg f.reg i (withField (s.reg f.reg i) f.lo f.width x)

/-! ## Counters: saturating, read and cleared (R117 and the counter rules of each chapter) -/

def State.ctr (s : State) (r : RegName) (i : Nat) : Word := SMap.get (fun _ => 0) s.ctrs (r.key i)

def State.setCtr (s : State) (r : RegName) (i : Nat) (v : Word) : State :=
  { s with ctrs := SMap.set (fun _ => 0) (r.key i) v s.ctrs }

/-- Adds n to a counter, saturating at the top of its width. -/
def State.bumpBy (s : State) (r : RegName) (i n : Nat) : State :=
  let top := if r.info.wide then 2 ^ 64 - 1 else 2 ^ 32 - 1
  s.setCtr r i (BitVec.ofNat 64 (min ((s.ctr r i).toNat + n) top))

def State.bump (s : State) (r : RegName) (i : Nat) : State := s.bumpBy r i 1

/-! ## Outputs, free values, time -/

def State.emit (s : State) (o : Out) : State := { s with out := s.out ++ [o] }

/-- The next free value, and the state after it is used (assumption log entry 4). -/
def State.free (s : State) : Word := Config.free s.draws
def State.drew (s : State) : State := { s with draws := s.draws + 1 }

/-- n free bytes, and the draws they use. -/
def State.freeBytes (s : State) (n : Nat) : List Byte := (List.range n).map (fun i => (Config.free (s.draws + i)).truncate 8)
def State.drewN (s : State) (n : Nat) : State := { s with draws := s.draws + n }

/-! ## Random bits (R264, R265): the entropy is free, and the DRBG is the standard's function of it -/

/-- Random bits can be drawn: some entropy source still works (R264). -/
def State.entropy (s : State) : Bool :=
  !(SMap.get (fun _ => false) s.vlt.sourceDead 0 && SMap.get (fun _ => false) s.vlt.sourceDead 1)

/-- The DRBG takes a state seeded with 768 bits of entropy input. -/
def State.seedFrom (s : State) (seed : List Byte → List Byte) : State :=
  { s.drewN 96 with vlt := { s.vlt with drbg := seed (s.freeBytes 96), drbgCount := 0, drbgAt := s.clk.core, reseeds := s.vlt.reseeds + 1 } }

/-- Instantiation, at LOADING. -/
def State.instantiate (s : State) : State := s.seedFrom drbgInstantiate

/-- The DRBG reseeds from its entropy source. -/
def State.reseed (s : State) : State := if s.entropy then s.seedFrom (drbgReseed s.vlt.drbg) else s

/-- 2^20 generate requests or 1 s have passed since the DRBG was last seeded. -/
def State.reseedDue (s : State) : Bool := decide (2 ^ 20 ≤ s.vlt.drbgCount) || decide (1600000000 ≤ s.clk.core - s.vlt.drbgAt)
def State.reseedIfDue (s : State) : State := if s.reseedDue then s.reseed else s

/-- n random octets drawn from the DRBG. -/
def State.drbg (s : State) (n : Nat) : List Byte × State :=
  let s := s.reseedIfDue
  (drbgOctets s.vlt.drbg n, { s with vlt := { s.vlt with drbg := drbgNext s.vlt.drbg n, drbgCount := s.vlt.drbgCount + 1 } })

/-! ## Time -/

/-- Device time in nanoseconds (R202). -/
def State.now (s : State) : Nat := s.clk.ns

/-- Nanoseconds of GHOST_CLK that have passed (R27): what intervals are measured by. Steps and slews of device time do not move it. -/
def State.elapsed (s : State) : Nat := s.clk.core * 5 / 8

/-- Seconds and nanoseconds of a device time. -/
def secondsOf (t : Nat) : Nat := t / 1000000000 % 2 ^ 48
def nanosOf (t : Nat) : Nat := t % 1000000000

/-! ## Ports and links (R22 to R26, R88) -/

/-- Type of network port p in its engine's plan (R88). -/
def State.portType (s : State) (p : Nat) : Nat := bits (s.reg .OPT_ENGINE_PLAN (p / 16)).toNat (4 * (p % 16)) 4

/-- Lanes of a port type. -/
def lanesOfType (t : Nat) : Nat := if t = 1 then 1 else if t = 2 then 2 else if t = 3 then 4 else if t = 4 then 8 else 0

/-- Engine lanes that network port p uses, as device lane numbers (R22, R88). -/
def State.portLanes (s : State) (p : Nat) : List Nat :=
  (List.range (lanesOfType (s.portType p))).map (fun i => 32 * (p / 16) + 2 * (p % 16) + i)

/-- Rate of a port in bytes per ns (R188). -/
def State.portRate (s : State) (p : Nat) : Nat :=
  if p < 256 then (if s.portType p = 4 then 200 else if s.portType p = 3 then 100 else if s.portType p = 2 then 50 else 25)
  else 250

def portDefault : Nat → Port := fun _ => {}
def State.port (s : State) (p : Nat) : Port := SMap.get portDefault s.prt.ports p
def State.setPort (s : State) (p : Nat) (v : Port) : State :=
  { s with prt := { s.prt with ports := SMap.set portDefault p v s.prt.ports } }

def lsmDefault : Nat → Lsm := fun _ => {}
def State.lsm (s : State) (e : Nat) : Lsm := SMap.get lsmDefault s.prt.modules e
def State.setLsm (s : State) (e : Nat) (v : Lsm) : State :=
  { s with prt := { s.prt with modules := SMap.set lsmDefault e v s.prt.modules } }

/-- The sub-links host port h has (R23, R312). -/
def State.linkExists (s : State) (h k : Nat) : Bool :=
  let w := s.fld Fld.HEP_PORT_CFG_WIDTH h
  k == 0 || (w == 1 && k == 2) || (w == 2 && k < 4)

/-- The engine die of an internal port (R24). -/
def dieOfPort (p : Nat) : Nat :=
  if p == 320 || p == 321 || p == 332 || p == 334 || (324 ≤ p && p ≤ 327) then 0 else 1

/-- The pipeline that serves a port (R26). -/
def pipelineOf (p : Nat) : Nat := if p < 256 then p / 16 else if p < 320 then 16 + (p - 256) / 16 else 20 + dieOfPort p

/-! ## Curtain scopes (R465) -/

/-- The whole-device curtain holds: the device is in state CURTAIN (R48). -/
def State.deviceCurtained (s : State) : Bool := s.dev.state == .CURTAIN

/-- A cause of a scope register is set: HOLD, FAULT or STACK. -/
def State.scopeCause (s : State) (r : RegName) (i : Nat) : Bool :=
  fieldOf (s.reg r i) 0 1 == 1 || fieldOf (s.reg r i) 2 2 != 0

def State.engineCurtained (s : State) (e : Nat) : Bool := s.scopeCause .FLT_SCOPE_ENGINE e || s.deviceCurtained
def State.portCurtained (s : State) (p : Nat) : Bool := s.scopeCause .FLT_SCOPE_PORT p || s.engineCurtained (p / 16)
def State.hostCurtained (s : State) (h : Nat) : Bool := s.scopeCause .FLT_SCOPE_HOST h || s.deviceCurtained
def State.coreCurtained (s : State) (c : Nat) : Bool := s.scopeCause .FLT_SCOPE_TROUPE c || s.deviceCurtained

/-- A network port is usable (R172). -/
def State.portUsable (s : State) (p : Nat) : Bool :=
  s.portType p != 0 && s.flagAt Fld.PRT_CONFIG_ENABLE p && (s.port p).linkUp && !s.portCurtained p

/-! ## Roles (R410, R411, R417) -/

def unitDefault : Nat → CtlUnit := fun _ => {}
def State.unit (s : State) (u : Nat) : CtlUnit := SMap.get unitDefault s.rdn.units u
def State.setUnit (s : State) (u : Nat) (v : CtlUnit) : State :=
  { s with rdn := { s.rdn with units := SMap.set unitDefault u v s.rdn.units } }

/-- The partner of a unit. -/
def partner (u : Nat) : Nat := if u % 2 = 0 then u + 1 else u - 1

/-- A unit's number; a unit that is not RUNNING has 0 (R411). -/
def State.number (s : State) (u : Nat) : Nat :=
  if (s.unit u).state = .RUNNING then (s.unit u).number.toNat else 0

/-- The unit is lead of its pair: its number is strictly higher (R411). -/
def State.isLead (s : State) (u : Nat) : Bool := decide (s.number u > s.number (partner u))

def gapDefault : Nat → Gap := fun _ => .closed
def State.gap (s : State) (pair : Nat) : Gap := SMap.get gapDefault s.rdn.gaps pair
def State.setGap (s : State) (pair : Nat) (g : Gap) : State :=
  { s with rdn := { s.rdn with gaps := SMap.set gapDefault pair g s.rdn.gaps } }

/-- The lead CPC unit: 0 CPC-A, 1 CPC-B; none while no unit leads (R411, R417). -/
def State.leadCpc (s : State) : Option Nat := if s.isLead 0 then some 0 else if s.isLead 1 then some 1 else none

/-- The lead vault. -/
def State.leadVault (s : State) : Option Nat := if s.isLead 2 then some 0 else if s.isLead 3 then some 1 else none

/-- The unit a requester belongs to (R412, R418); none for a host, a slice or a thread of an unpaired cluster. -/
def State.unitOf (s : State) (r : Requester) : Option Nat :=
  match r with
  | .cpc u _ => some u.val
  | .vault u => some (2 + u.val)
  | .troupe n k _ =>
    if s.flagAt Fld.TRP_CLUSTER_CFG_PAIRED n.val then some (4 + 2 * n.val + k.val / 8) else none
  | _ => none

/-! ## CPC events (R429) -/

/-- Sets bit b of RDN_LOCAL_EVENTS of one unit. -/
def State.unitEvent (s : State) (u b : Nat) : State :=
  s.setReg .RDN_LOCAL_EVENTS u (BitVec.ofNat 64 (setBits (s.reg .RDN_LOCAL_EVENTS u).toNat b 1 1))

/-- A block event: to the lead CPC unit, and to both with EVENT_BOTH (R429). -/
def State.cpcEvent (s : State) (b : Nat) : State :=
  if s.flagAt Fld.RDN_CFG_EVENT_BOTH 0 then (s.unitEvent 0 b).unitEvent 1 b
  else match s.leadCpc with
    | some u => s.unitEvent u b
    | none => s

/-! ## Power domains (R451 to R456) -/

def domainDefault : Nat → Domain := fun _ => {}
def State.domain (s : State) (d : Nat) : Domain := SMap.get domainDefault s.pwr.domains d
def State.setDomain (s : State) (d : Nat) (v : Domain) : State :=
  { s with pwr := { s.pwr with domains := SMap.set domainDefault d v s.pwr.domains } }

/-- LAST_STATUS of a domain. -/
def State.domainStatus (s : State) (d : Nat) (c : Nat) : State := s.setFld Fld.PWR_DOMAIN_STATUS_LAST_STATUS d c

/-- A transfer is admitted toward a domain: an ASLEEP domain starts to wake, a DRAINING one stays awake
(R454 step 3, R456); any other state is unchanged. -/
def State.touchDomain (s : State) (d : Nat) : State :=
  match (s.domain d).state with
  | .ASLEEP => (s.setDomain d { s.domain d with state := .WAKING }).bump .PWR_WAKES d
  | .DRAINING =>
    ((s.setDomain d { s.domain d with state := .ON, toOff := false, since := s.elapsed }).domainStatus d 0xBA).bump .PWR_DRAIN_CANCELLED d
  | _ => s

/-- The domain is powered and running. -/
def State.domainOn (s : State) (d : Nat) : Bool :=
  (s.domain d).state == .ON || (s.domain d).state == .DRAINING

/-- The domain is powered down, or on its way up: what touches it waits (R456). -/
def State.domainSleeps (s : State) (d : Nat) : Bool := (s.domain d).state == .ASLEEP || (s.domain d).state == .WAKING

/-- The HB domains a placement code names (R20, R451). -/
def placedIn (code : Nat) : List Nat := (if bit code 0 then [38] else []) ++ (if bit code 1 then [39] else [])

/-- A region is accessed: its sleeping pairs start to wake (R21). -/
def State.touchPairs (s : State) (code : Nat) : State := (placedIn code).foldl (fun s d => s.touchDomain d) s

/-- No access to a region has to wait for a pair (R21). -/
def State.pairsAwake (s : State) (code : Nat) : Bool := (placedIn code).all (fun d => !s.domainSleeps d)

/-- The domains that an address of a space of a channel lies in (R361, R451): the pairs of an HBM region, or a cluster. -/
def State.spaceDomains (s : State) (space cluster a : Nat) : List Nat :=
  if space = 1 then placedIn (if a < 2 ^ 40 then s.tbl.placement.peer else SMap.get (fun _ => 0) s.tbl.placement.troupe (a / 2 ^ 40 - 1))
  else if space = 2 then [30 + cluster] else []

/-- The domains a channel of the bulk mover uses: for the descriptor in service, and for the one being fetched. -/
def State.chanDomains (s : State) (c : Nat) (v : Channel) : List Nat :=
  let n := s.fld Fld.BMV_CH_CFG_CLUSTER c
  (match v.serving with
   | some d => s.spaceDomains (s.fld Fld.BMV_CH_CFG_SRC_SPACE c) n d.src ++ s.spaceDomains (s.fld Fld.BMV_CH_CFG_DST_SPACE c) n d.dst
   | none => []) ++
  (match v.fetch with
   | some f => s.spaceDomains (s.fld Fld.BMV_CH_CFG_DESC_SPACE c) n f.addr
   | none => [])

/-- The switched domain that holds a register of a block, if any (R16, R451). -/
def State.domainOfReg (r : RegName) (i : Nat) : Option Nat :=
  match r.info.block with
  | .PRT => some (i / r.info.count2 / 16)
  | .HEP => some (16 + i / r.info.count2 / 2)
  | .TRP => if r = .TRP_DIE_SLOW ∨ r = .TRP_SLOW_NO_CLUSTER ∨ r = .TRP_CLUSTER_CFG then none else some (30 + i / r.info.count2)
  | _ => none

/-! ## Management messages (R113, R114) -/

/-- The segment runs: enabled, and not stopped by a three-way disagreement of its enable (R83). -/
def State.segmentOn (s : State) (g : Nat) : Bool :=
  s.flagAt Fld.MGT_SEG_CTRL_ENABLE g && !s.vote.broken.contains ⟨.MGT_SEG_CTRL, g, 0⟩

/-- Destination addresses of a message on the running segments: those the station last used, broadcast where it was not heard, and for
no station (R114). -/
def State.mgmtDest (s : State) (dest : Option (BitVec 64)) : List (Nat × Mac) :=
  let heard := fun (g : Nat) => dest.bind (fun n => (s.mgt.stations.find? (fun x => x.id == n)).bind (fun x => if g = 0 then x.macA else x.macB))
  ([0, 1].filter s.segmentOn).map (fun g => (g, (heard g).getD 0xFFFFFFFFFFFF))

/-- The 24-byte header of a segment of a message the device sends (R113). -/
def mgmtHeader (type : BitVec 8) (seq : BitVec 32) (index count len : Nat) : List Byte :=
  [1, type, 0, 0] ++ toLE 8 Config.serial.toNat ++ toLE 4 seq.toNat ++ toLE 2 index ++ toLE 2 count ++ toLE 2 len ++ [0, 0]

/-- The frames of a message: every segment on every running management segment (R113, R114). -/
def mgmtFrames (type : BitVec 8) (seq : BitVec 32) (dest : List (Nat × Mac)) (payload : List Byte) : List Out :=
  let n := max 1 (ceilDiv payload.length 1476)
  (List.range n).flatMap (fun i =>
    let part := slice payload (1476 * i) (min 1476 (payload.length - 1476 * i))
    dest.map (fun x => .mgmt x.1 x.2 (mgmtHeader type seq i n part.length ++ part)))

/-- The device sends a message on every running segment (R114): one MSG_SEQ, one segment frame per 1,476 bytes. -/
def State.sendMgmt (s : State) (type : BitVec 8) (dest : Option (BitVec 64)) (payload : List Byte) : State :=
  let n := max 1 (ceilDiv payload.length 1476)
  let s := if s.segmentOn 0 then s.bumpBy .MGT_SEG_TX_FRAMES 0 n else s
  let s := if s.segmentOn 1 then s.bumpBy .MGT_SEG_TX_FRAMES 1 n else s
  let q := s.mgt.txSeq
  let s := { s with mgt := { s.mgt with txSeq := q + 1 } }
  { s with out := s.out ++ mgmtFrames type q (s.mgmtDest dest) payload }

/-! ## Alarms and fault records (R463, R471) -/

/-- The 32 bytes of a record (R463). -/
def FaultRecord.bytes (r : FaultRecord) : List Byte :=
  toLE 4 r.seq.toNat ++ toLE 6 (secondsOf r.time) ++ toLE 4 (nanosOf r.time) ++
  [r.cls, r.verdict, r.kind, r.cause, r.scope, r.alarm] ++
  toLE 4 r.index.toNat ++ toLE 4 r.scopeIndex.toNat ++ toLE 4 r.detail.toNat

/-- An event sets alarm bit b: the bit stands, and one ALARM message carries the record (R471). -/
def State.alarm (s : State) (b : Nat) (r : FaultRecord) : State :=
  let s := s.setReg .FLT_ALARM 0 (BitVec.ofNat 64 (setBits (s.reg .FLT_ALARM 0).toNat b 1 1))
  s.sendMgmt 0x09 none (FaultRecord.bytes { r with alarm := BitVec.ofNat 8 b })

/-- The collector takes the next SEQ. -/
def State.nextSeq (s : State) : State := { s with flt := { s.flt with seq := s.flt.seq + 1 } }

/-- An alarm that arises without a fault record of its own: the record is made for the alarm (R471). -/
def State.plainAlarm (s : State) (b kind cause scope index : Nat) : State :=
  let r : FaultRecord := { seq := s.flt.seq, time := s.now, cls := 0xFF, verdict := 0, kind := BitVec.ofNat 8 kind,
                           cause := BitVec.ofNat 8 cause, scope := BitVec.ofNat 8 scope, alarm := 0,
                           index := BitVec.ofNat 32 index, scopeIndex := 0, detail := 0 }
  s.nextSeq.alarm b r

/-- The collector writes a record: into the FIFO of 256, or lost and counted, with the RECORD_LOST alarm (R463). -/
def State.writeRecord (s : State) (r : FaultRecord) : State :=
  let s := s.nextSeq
  if s.flt.fifo.length < 256 then
    ({ s with flt := { s.flt with fifo := s.flt.fifo ++ [r] } }).cpcEvent 0
  else (s.bump .FLT_RECORD_LOST 0).plainAlarm 9 0 19 0 0

/-- A record of an error, at the present SEQ and device time. -/
def State.recordOf (s : State) (cls verdict : Nat) (kind : ElementKind) (index : BitVec 32) (cause : BitVec 8)
    (scope : Option (ScopeKind × Nat)) (detail : BitVec 32) : FaultRecord :=
  { seq := s.flt.seq, time := s.now, cls := BitVec.ofNat 8 cls, verdict := BitVec.ofNat 8 verdict,
    kind := BitVec.ofNat 8 kind.code, cause := cause, scope := BitVec.ofNat 8 ((scope.map (·.1.code)).getD 0), alarm := 0,
    index := index, scopeIndex := BitVec.ofNat 32 ((scope.map (·.2)).getD 0), detail := detail }

/-- A contained fault with no element: counted, and its record written at once (R459, R463). -/
def State.containedFault (s : State) (cause : Nat) : State :=
  let s := s.bump .FLT_CONTAINED 0
  s.writeRecord (s.recordOf 1 0 .none 0 (BitVec.ofNat 8 cause) none 0)

end Sys2Proof.Machine
end

