-- ==== Sys2Proof/Machine/AccessOps.lean ====
section
/-! DEFINITION. Control-map accesses (R62 to R87) as every command that reads or writes a register shares them: address
resolution, requester permissions, access errors, the commit gates (R412 to R414), the slow bridges, half-latches and
write buffers, and the voted fields (R80 to R83). -/

namespace Sys2Proof.Machine

/-! ## Addresses (R62, R8) -/

/-- Address of element i of a register. -/
def addrOf (r : RegName) (i : Nat) : Nat :=
  r.info.block.range.1 + r.info.off + i / r.info.count2 * r.info.stride + i % r.info.count2 * r.info.stride2

/-- A control-map address resolved: a register, its element, and whether the upper half is meant. -/
structure Target where
  reg : RegName
  idx : Nat
  high : Bool
  deriving DecidableEq, Repr

/-- Element of a register at an offset within its block, and the byte offset inside the element. -/
def RegInfo.locate (x : RegInfo) (off : Nat) : Option (Nat × Nat) :=
  if off < x.off then none
  else
    let d := off - x.off
    let i := if x.stride = 0 then 0 else d / x.stride
    let e := if x.stride = 0 then d else d % x.stride
    let j := if x.stride2 = 0 then 0 else e / x.stride2
    let b := if x.stride2 = 0 then e else e % x.stride2
    if i < x.count ∧ j < x.count2 ∧ b < (if x.wide then 8 else 4) then some (i * x.count2 + j, b) else none

/-- The block an address lies in. -/
def blockAt (a : Nat) : Option Block := Block.all.find? (fun b => b.range.1 ≤ a ∧ a ≤ b.range.2)

/-- The register at a 4-byte-aligned address; unit is the CPC unit whose local window is meant (R428). -/
def resolve (a unit : Nat) : Option Target :=
  match blockAt a with
  | none => none
  | some b => b.regs.findSome? (fun r =>
      match r.info.locate (a - b.range.1) with
      | some (i, o) => some ⟨r, if b = .LOCAL then unit else i, o == 4⟩
      | none => none)

/-- The index that names a requester's own latch, buffer and stamp (R65). -/
def Requester.unitIndex (r : Requester) : Nat :=
  match r with
  | .cpc u _ => u.val
  | _ => 0

/-! ## Access errors (R84) -/

/-- Records an access error: every one is counted, the first since VALID was cleared is latched. -/
def State.badAccess (s : State) (r : Requester) (shown cause : Nat) (write : Bool) : State :=
  let s := s.bump .SYS_BAD_ACCESS_COUNT 0
  if s.flagAt Fld.SYS_BAD_ACCESS_VALID 0 then s
  else s.setReg .SYS_BAD_ACCESS 0 (BitVec.ofNat 64
    (shown % 2 ^ 32 + r.code * 2 ^ 32 + cause * 2 ^ 48 + flag write * 2 ^ 52 + 2 ^ 63))

/-- Address recorded for an access of a requester: for PF0 the BAR0 offset (R85, R87). -/
def shownAddr (r : Requester) (a : Nat) : Nat :=
  match r with
  | .pf0 _ _ => if 0x04000000 ≤ a ∧ a < 0x04400000 then 0x03800000 + a % 0x10000 else a
  | _ => a

/-! ## Half-latches and write buffers (R67, R68) -/

def latchDefault : Nat → Option (Nat × BitVec 32) := fun _ => none
def State.latchOf (s : State) (r : Requester) : Option (Nat × BitVec 32) := SMap.get latchDefault s.acc.latch r.code
def State.setLatch (s : State) (r : Requester) (v : Option (Nat × BitVec 32)) : State :=
  { s with acc := { s.acc with latch := SMap.set latchDefault r.code v s.acc.latch } }
def State.bufferOf (s : State) (r : Requester) : Option (Nat × BitVec 32) := SMap.get latchDefault s.acc.buffer r.code
def State.setBuffer (s : State) (r : Requester) (v : Option (Nat × BitVec 32)) : State :=
  { s with acc := { s.acc with buffer := SMap.set latchDefault r.code v s.acc.buffer } }

/-- Any other access of a requester that has a low half buffered discards it as SPLIT (R68). -/
def State.splitBuffer (s : State) (r : Requester) : State :=
  match s.bufferOf r with
  | none => s
  | some (a, _) => (s.setBuffer r none).badAccess r (shownAddr r a) 4 true

/-! ## Slow bridges (R73 to R76) -/

def slowBlockOf (b : Block) : Option SlowBlock :=
  match b with
  | .GLT => some .GLT
  | .PWR => some .PWR
  | .OPT => some .OPT
  | .MGT => some .MGT
  | _ => none

/-- The bridges by number, and their registers (R76). -/
def slowIndex (b : SlowBlock) : Nat := match b with | .GLT => 0 | .PWR => 1 | .OPT => 2 | .MGT => 3
def bridgeStatus (b : SlowBlock) : RegName :=
  match b with
  | .GLT => .GLT_BRIDGE_STATUS | .PWR => .PWR_BRIDGE_STATUS | .OPT => .OPT_BRIDGE_STATUS | .MGT => .MGT_BRIDGE_STATUS
def bridgeDropAddr (b : SlowBlock) : RegName :=
  match b with
  | .GLT => .GLT_BRIDGE_DROP_ADDR | .PWR => .PWR_BRIDGE_DROP_ADDR
  | .OPT => .OPT_BRIDGE_DROP_ADDR | .MGT => .MGT_BRIDGE_DROP_ADDR

def bridgeDefault : Nat → Option SlowWrite := fun _ => none
def State.bridge (s : State) (b : SlowBlock) : Option SlowWrite := SMap.get bridgeDefault s.acc.bridge (slowIndex b)
def State.setBridge (s : State) (b : SlowBlock) (w : Option SlowWrite) : State :=
  { s with acc := { s.acc with bridge := SMap.set bridgeDefault (slowIndex b) w s.acc.bridge } }

/-- A write arrives at a busy bridge: dropped, with its offset recorded and counted (R74). -/
def State.slowOverrun (s : State) (b : SlowBlock) (off : Nat) : State :=
  let v := (s.reg (bridgeStatus b) 0).toNat
  let s := s.setReg (bridgeStatus b) 0 (BitVec.ofNat 64 (setBits (setBits v 1 1 1) 8 8 (min 255 (bits v 8 8 + 1))))
  s.setReg (bridgeDropAddr b) 0 (BitVec.ofNat 64 (off % 2 ^ 22))

/-- The bridge a register's writes pass, if it lies in a slow domain. -/
def bridgeOf (r : RegName) : Option SlowBlock := if r.info.slow then slowBlockOf r.info.block else none

/-! ## Commit gates (R412 to R414) -/

/-- The gate a write of a register passes. -/
def gateOf (r : RegName) : Option Nat :=
  match r with
  | .TBL_CMD => some 0
  | .OFL_OBJ_CMD => some 0
  | r => match r.info.block with
    | .CLS => some 1
    | .TMS => some 2
    | .PRT => some 3
    | .OPT => some 3
    | .SLC => some 4
    | .PWR => some 5
    | _ => none

/-- A gate's test of a unit: its number is strictly higher than its partner's (R412). A claim counts from the ghost-light cycle
after it: until then the numbers before it are tested (R415). -/
def State.gatePasses (s : State) (u : Nat) : Bool :=
  match s.rdn.before.find? (fun x => x.1 == u / 2) with
  | some x => if u % 2 = 0 then decide (x.2.1 > x.2.2) else decide (x.2.2 > x.2.1)
  | none => s.isLead u

/-- The gate accepts a write of a requester (R412, R398). -/
def State.gateAccepts (s : State) (r : Requester) : Bool :=
  (match r with
   | .troupe n _ _ => s.flagAt Fld.TRP_CLUSTER_CFG_CTRL_WRITE n.val
   | _ => true) &&
  (match r with
   | .pf0 _ _ => true
   | .vault _ => true
   | .slice _ => true
   | r => match s.unitOf r with
     | some u => s.gatePasses u
     | none => true)

/-- A gate refuses a write: counted, and latched when the latch is free (R413). -/
def State.gateRefused (s : State) (r : Requester) (g a : Nat) : State :=
  let s := s.bump .RDN_GATE_REFUSED g
  if s.flagAt Fld.RDN_REFUSED_LAST_VALID 0 then s
  else s.setReg .RDN_REFUSED_LAST 0 (BitVec.ofNat 64 (a % 2 ^ 32 + r.code * 2 ^ 32 + g * 2 ^ 48 + 2 ^ 63))

/-- A CPC unit that is not lead may write the RDN and CBD blocks and its local window only (R414). -/
def State.understudyDrops (s : State) (r : Requester) (b : Block) : Bool :=
  match r with
  | .cpc u _ => !s.isLead u.val && b != .RDN && b != .CBD && b != .LOCAL
  | _ => false

/-! ## Who may write what -/

/-- The registers a slice page gives a slice (R325, R356): those of its own queues and its steering table. They take no write
unless the slice is RUNNING and its host port is not curtained (R466). -/
def State.sliceReaches (s : State) (n : Nat) (r : RegName) (i : Nat) : Bool :=
  let base := s.fld Fld.SLC_GRANT_Q_QUEUE_BASE n
  let mine := base ≤ i && i < base + s.fld Fld.SLC_GRANT_Q_QUEUE_COUNT n
  s.dev.state == .STAGE && s.fld Fld.SLC_SLICE_STATE_STATE n == 1 && !s.hostCurtained (s.fld Fld.SLC_SLICE_BIND_LINK n / 4) &&
  (match r with
   | .QRG_Q_SQ_BASE | .QRG_Q_CQ_BASE | .QRG_Q_SHADOW | .QRG_Q_CTRL | .QRG_Q_IRQ | .QRG_Q_STATUS | .QRG_ERR_INDEX | .QRG_Q_CQ_STATUS => mine
   | .QRG_RX_STEER => i / 16 == n
   | _ => false)

/-- The fields of a host port's own window that PF0 may write (R312): MAX_SPEED and RETRAIN of its own port. -/
def pf0Writes (h : Nat) (r : RegName) (i : Nat) : Bool := r == .HEP_LINK_CTRL && i / 4 == h

/-- Blocks PF0 reads (R86). -/
def pf0Reads (b : Block) : Bool :=
  match b with
  | .SYS | .GLT | .PWR | .FLT | .RDN | .STK | .PRT | .OPT | .MGT | .CLS | .SWC | .TMS => true
  | _ => false

/-- Blocks a write of which only the lead CPC unit may make: FLT, and RDN_CFG (chapters 21 and 18). -/
def leadOnly (r : RegName) : Bool := r.info.block == .FLT || r == .RDN_CFG

/-- The requester belongs to the lead CPC unit. -/
def State.fromLead (s : State) (r : Requester) : Bool :=
  match r with
  | .cpc u _ => s.isLead u.val
  | _ => false

/-- The control map answers: the device is past GHOST, and a CPC or Troupe requester runs only where its firmware does. -/
def State.mapAnswers (s : State) : Bool :=
  s.dev.state == .LOADING || s.dev.state == .CURTAIN || s.dev.state == .STAGE

/-- The access touches the switched domain its register lies in (R77). -/
def State.touchReg (s : State) (reg : RegName) (i : Nat) : State :=
  match State.domainOfReg reg i with
  | some d => s.touchDomain d
  | none => s

/-- The register lies in a switched domain that is OFF: it reads zero, and writes to it are dropped (R453). -/
def State.regOff (s : State) (reg : RegName) (i : Nat) : Bool :=
  match State.domainOfReg reg i with
  | some d => (s.domain d).state == .OFF
  | none => false

/-- The sleeping or waking domain that an access to a register waits for (R77). -/
def State.sleepingAt (s : State) (reg : RegName) (i : Nat) : Option Nat :=
  (State.domainOfReg reg i).filter s.domainSleeps

/-- BUSY of STK_TX_CMD: a command waits for the pair that holds its payload. -/
def State.sendBusy (s : State) : Bool :=
  s.acc.waiting.any (fun x => match x.2 with | .send _ => true | _ => false)

/-- An access waits for a domain (R77). -/
def State.hold (s : State) (d : Nat) (w : Waiting) : State := { s with acc := { s.acc with waiting := s.acc.waiting ++ [(d, w)] } }

/-- An access that passed its checks: admitted, unless its domain is OFF; an ASLEEP one starts to wake (R77, R453). -/
def State.regReached (s : State) (reg : RegName) (i : Nat) : Bool × State :=
  if s.regOff reg i then (false, s) else (true, s.touchReg reg i)

/-- A write of a register reaches it: every check of R53, R86, R398, R412 to R414, R74 and R77 in turn. o is 4 for a write of the
high half alone, whose own address a refusal records. The first answer says that the write is performed; the state carries what the
checks recorded. -/
def State.admitChecked (s : State) (r : Requester) (reg : RegName) (i o : Nat) : Bool × State :=
  if !s.mapAnswers then (false, s)
  else
    let a := addrOf reg i + o
    let b := reg.info.block
    match r with
    | .pf0 h _ =>
      if s.dev.state == .LOADING then (false, s)
      else if pf0Writes h.val reg i then s.regReached reg i
      else (false, s.badAccess r (shownAddr r a) 6 true)
    | .slice n => if s.sliceReaches n.val reg i then (true, s) else (false, s)
    | _ =>
      if b == .KEY && (match r with | .vault _ => false | _ => true) then (false, s.badAccess r a 3 true)
      else if s.understudyDrops r b then (false, s.bump .RDN_UNDERSTUDY_DROP 0)
      else if leadOnly reg && !s.fromLead r then (false, s)
      else match gateOf reg with
        | some g =>
          if !s.gateAccepts r then (false, s.gateRefused r g a)
          else match bridgeOf reg with
            | some sb =>
              if (s.bridge sb).isSome then (false, s.slowOverrun sb (a - b.range.1)) else (true, s)
            | none => s.regReached reg i
        | none => match bridgeOf reg with
          | some sb => if (s.bridge sb).isSome then (false, s.slowOverrun sb (a - b.range.1)) else (true, s)
          | none => s.regReached reg i

/-- A whole-register write by a command of its own: it discards a buffered low half first (R68). -/
def State.admitWrite (s : State) (r : Requester) (reg : RegName) (i : Nat) : Bool × State :=
  if s.mapAnswers then (s.splitBuffer r).admitChecked r reg i 0 else (false, s)

/-- A register write with its effect: performed where admitted. -/
def State.gatedWrite (s : State) (r : Requester) (reg : RegName) (i : Nat) (effect : State → State) : State :=
  let a := s.admitWrite r reg i
  if a.1 then effect a.2 else a.2

/-! ## Plain register writes by access code (R7) -/

/-- A field under a plain write: RW, RWV and WO take the bits written, W1C clears, RO keeps; W1S and WO bits act through
their own operation and read 0. -/
def FieldInfo.written (f : FieldInfo) (old new mask : Nat) : Nat :=
  let m := bits mask f.lo f.width
  let o := bits old f.lo f.width
  let n := bits new f.lo f.width
  match f.access with
  | .RW | .RWV => (o - (o &&& m)) + (n &&& m)
  | .W1C => o - (o &&& (n &&& m))
  | .RO | .RC | .W1S | .WO => o

/-- The stored value of a register after a plain write of the bits in mask. -/
def plainWritten (fs : List FieldInfo) (old new mask : Nat) : Nat :=
  fs.foldl (fun v f => setBits v f.lo f.width (f.written old new mask)) old

/-- A plain write: every field by its access code. -/
def State.plainWrite (s : State) (r : RegName) (i : Nat) (value mask : Word) : State :=
  s.setReg r i (BitVec.ofNat 64 (plainWritten r.info.fields (s.reg r i).toNat value.toNat mask.toNat))

/-! ## Voted fields (R80 to R83) -/

/-- A field is voted: one of access RWV, or a counter of a key context (R249). -/
def isVoted (f : FieldPos) : Bool :=
  (f.lo == 0 && ((f.reg == .CPH_CTX_USED && f.width == 49) || (f.reg == .CPH_CTX_BYTES && f.width == 51))) ||
  (f.reg.info.fields.find? (fun x => x.lo == f.lo && x.width == f.width)).any (fun x => x.access == .RWV)

/-- The 4 KiB page of a register element: its register group (R81). -/
def pageOf (f : FieldPos) (i : Nat) : Nat := addrOf f.reg i / 4096

/-- The field is in three-way disagreement. -/
def State.broken (s : State) (f : FieldPos) (i : Nat) : Bool := s.vote.broken.contains ⟨f.reg, i, f.lo⟩

/-- The bitwise majority of three copies (R80). -/
def majority (v : Vector Word 3) : Word := (v[0] &&& v[1]) ||| (v[0] &&& v[2]) ||| (v[1] &&& v[2])

/-- A field of a register put in place of what a value shows there. -/
def showField (r : RegName) (v : Word) (lo x : Nat) : Word :=
  match r.info.fields.find? (fun f => f.lo == lo) with
  | some f => withField v f.lo f.width x
  | none => v

/-- A stored value as a read shows it: a voted field reads as the majority of its copies (R80), and as zero in three-way
disagreement (R83). -/
def State.votedRead (s : State) (r : RegName) (i : Nat) (v : Word) : Word :=
  let v := s.vote.differ.foldl (fun v x =>
    if x.at_.reg = r ∧ x.at_.idx = i then showField r v x.at_.lo (majority x.copies).toNat else v) v
  s.vote.broken.foldl (fun v f => if f.reg = r ∧ f.idx = i then showField r v f.lo 0 else v) v

/-- A broken field recovers: all three copies take its stored value (R83, R467). -/
def State.healVoted (s : State) (mine : FieldAt → Bool) : State :=
  { s with vote := { s.vote with broken := s.vote.broken.filter (fun f => !mine f), differ := s.vote.differ.filter (fun x => !mine x.at_) } }

end Sys2Proof.Machine
end

