-- ==== Sys2Proof/Machine/TableOps.lean ====
section
/-! DEFINITION. The forwarding tables (R141 to R163): hashing, buckets, visibility under scenes, placement with
relocation and eviction, and the table commands as one operation that performs the command and says what it reports. -/

namespace Sys2Proof.Machine

/-! ## Scenes (R133, R135) -/

/-- Scene a precedes scene b (R133). -/
def precedes (a b : BitVec 16) : Bool :=
  let d := (b - a).toNat
  decide (1 ≤ d ∧ d ≤ 32767)

def slotDefault : Nat → SceneSlot := fun _ => {}
def State.slot (s : State) (n : Nat) : SceneSlot := SMap.get slotDefault s.scn.slots n
def State.setSlot (s : State) (n : Nat) (v : SceneSlot) : State :=
  { s with scn := { s.scn with slots := SMap.set slotDefault n v s.scn.slots } }

/-- The four slots, by number. -/
def State.slots (s : State) : List (Nat × SceneSlot) := (List.range 4).map (fun n => (n, s.slot n))

/-- The slot an ARMED scene holds. -/
def State.armedSlot (s : State) : Option Nat :=
  ((s.slots.find? (fun x => x.2.state == .ARMED))).map (·.1)

/-- Live scenes for the sweep: every slot that is not FREE; PENDING holds no slot (R143). -/
def State.liveScenes (s : State) : List (BitVec 16) :=
  (s.slots.filter (fun x => x.2.state != .FREE)).map (·.2.scene)

/-- x equals or precedes every live scene (R143). -/
def State.notAfterLive (s : State) (x : BitVec 16) : Bool :=
  s.liveScenes.all (fun l => x == l || precedes x l) && !s.liveScenes.isEmpty

/-- An entry is visible in a scene (R143). -/
def Entry.visible (e : Entry) (sc : BitVec 16) : Bool :=
  (e.settled || e.born == sc || precedes e.born sc) && (!e.diedValid || precedes sc e.died)

/-! ## Configuration and slots (R141, R146) -/

/-- Slots of a table: the exact-match pool, the learning table, the flow table, one after the other. -/
def regionOf (t : Nat) : Nat := if t < 64 then 0 else if t = 65 then 0x1000000 else 0x2000000

def State.log2 (s : State) (t : Nat) : Nat := s.fld Fld.TBL_TABLE_CFG_LOG2_BUCKETS t
def State.tableOn (s : State) (t : Nat) : Bool := s.flagAt Fld.TBL_TABLE_CFG_ENABLE t
def State.tableBase (s : State) (t : Nat) : Nat := if t < 64 then s.fld Fld.TBL_TABLE_CFG_BASE t else 0

/-- Key length of a table (R146). -/
def State.keyBytes (s : State) (t : Nat) : Nat :=
  if t < 64 then s.fld Fld.CLS_TABLE_KEY_KEY_BYTES t else if t = 65 then 8 else 40

/-- The two buckets of a key (R146). -/
def State.buckets (s : State) (t : Nat) (key : List Byte) : Nat × Nat :=
  let n := 2 ^ s.log2 t
  let a := (crc32c (BitVec.ofNat 32 (s.fld Fld.TBL_SEED_A_SEED t)) key).toNat % n
  let b := (crc32c (BitVec.ofNat 32 (s.fld Fld.TBL_SEED_B_SEED t)) key).toNat % n
  (a, if b = a then (a + 1) % n else b)

/-- Slot of way w of bucket j of a table, in the store. -/
def State.slotOf (s : State) (t j w : Nat) : Nat := regionOf t + 4 * (s.tableBase t + j) + w

/-- Slot index a command reports: 4j + w, counted in the table (R141). -/
def State.indexOf (s : State) (t slot : Nat) : Nat := slot - regionOf t - 4 * s.tableBase t

def entryDefault : Nat → Option Entry := fun _ => none
def State.entry (s : State) (slot : Nat) : Option Entry := SMap.get entryDefault s.tbl.entries slot
def State.setEntry (s : State) (slot : Nat) (e : Option Entry) : State :=
  { s with tbl := { s.tbl with entries := SMap.set entryDefault slot e s.tbl.entries } }

/-- The four slots of a bucket. -/
def State.bucketSlots (s : State) (t j : Nat) : List Nat := (List.range 4).map (s.slotOf t j)

/-- The eight slots a key may lie in, bucket a before bucket b, way 0 before way 3. -/
def State.keySlots (s : State) (t : Nat) (key : List Byte) : List Nat :=
  let ab := s.buckets t key
  s.bucketSlots t ab.1 ++ s.bucketSlots t ab.2

/-- The entry of a key that a test admits, with its slot. -/
def State.findEntry (s : State) (t : Nat) (key : List Byte) (ok : Entry → Bool) : Option (Nat × Entry) :=
  (s.keySlots t key).findSome? (fun k =>
    match s.entry k with
    | some e => if e.key = key ∧ ok e then some (k, e) else none
    | none => none)

/-- Every slot of a table lies in [lo, lo + 4 * 2^k). -/
def State.tableSlots (s : State) (t : Nat) : List (Nat × Entry) :=
  let lo := s.slotOf t 0 0
  (s.tbl.entries.filter (fun x => lo ≤ x.1 ∧ x.1 < lo + 4 * 2 ^ s.log2 t)).filterMap (fun x => x.2.map (fun e => (x.1, e)))

/-- Occupied slots of a table (TBL_TABLE_COUNT). -/
def State.tableCount (s : State) (t : Nat) : Nat := if s.tableOn t then (s.tableSlots t).length else 0

/-! ## Placement (R149, R150, R151) -/

/-- One advance of a walk register (R149). -/
def advanceWalk (w : BitVec 16) : BitVec 16 := if w.getLsbD 0 then (w >>> 1) ^^^ 0xB400#16 else w >>> 1

def walkDefault : Nat → BitVec 16 := fun _ => 0xACE1#16
def State.walk (s : State) (t : Nat) : BitVec 16 := SMap.get walkDefault s.tbl.walk t
def State.setWalk (s : State) (t : Nat) (w : BitVec 16) : State :=
  { s with tbl := { s.tbl with walk := SMap.set walkDefault t w s.tbl.walk } }

/-- The relocation walk (R149 steps 2 to 4): at most fuel hops from bucket j. Answers the slots of the path, the free one first and the
one of the first hop last, and the walk register. The walk is over the table as it stands, so the entry moved by the previous hop lies
in the bucket the hop left, and all four ways are candidates (DEDUCED, assumption log entry 12). -/
def State.relocate (s : State) (t : Nat) : Nat → Nat → BitVec 16 → List Nat → Option (List Nat) × BitVec 16
  | 0, _, w, _ => (none, w)
  | fuel + 1, j, w, path =>
    let w := advanceWalk w
    let k := s.slotOf t j (w.toNat % 4)
    match s.entry k with
    | none => (some (k :: path), w)
    | some moved =>
      let ab := s.buckets t moved.key
      let j' := if j = ab.1 then ab.2 else ab.1
      match (s.bucketSlots t j').find? (fun f => (s.entry f).isNone) with
      | some f => (some (f :: k :: path), w)
      | none => State.relocate s t fuel j' w (k :: path)

/-- The moves of R149 step 5, from the last hop back to the first: each writes the free slot, then invalidates the slot it left. -/
def State.shift (s : State) : List Nat → State
  | free :: from_ :: rest => State.shift ((s.setEntry free (s.entry from_)).setEntry from_ none) (from_ :: rest)
  | _ => s

/-- An entry may be evicted (R150). -/
def Entry.evictable (t : Nat) (e : Entry) : Bool := !e.pinned && (65 ≤ t || (e.settled && !e.diedValid))

/-- The victim of an eviction among candidate slots, in ascending slot index, and the walk register after it. -/
def State.victim (s : State) (t : Nat) (cands : List (Nat × Entry)) (w : BitVec 16) : Option (Nat × Entry) × BitVec 16 :=
  match s.fld Fld.TBL_TABLE_CFG_EVICT t with
  | 1 => if cands.isEmpty then (none, w) else
      let w := advanceWalk w
      (cands[w.toNat % cands.length]?, w)
  | 2 =>
    let age := fun (x : Nat × Entry) => (s.tbl.now - x.2.stamp).toNat
    (cands.foldl (fun best x =>
      match best with
      | none => some x
      | some y => if age y < age x then some x else some y) none, w)
  | _ => (none, w)

/-- What placing an entry did. -/
structure Placed where
  slot : Option Nat
  relocations : Nat
  evicted : Bool

/-- Pushes an evicted entry into the eviction FIFO (R151). -/
def State.pushEvicted (s : State) (t : Nat) (e : Entry) : State :=
  let s := s.bump .TBL_EVICTIONS 0
  if s.tbl.evicted.length < 16 then
    ({ s with tbl := { s.tbl with evicted := s.tbl.evicted ++ [Evicted.mk t e.key e.action e.stamp] } }).cpcEvent 1
  else s.bump .TBL_EVICT_LOST 0

/-- Writes an entry into a hashed table (R149, R150). The relocations made, the slot, and whether it evicted. -/
def State.place (s : State) (t : Nat) (e : Entry) : Placed × State :=
  let ab := s.buckets t e.key
  match (s.keySlots t e.key).find? (fun k => (s.entry k).isNone) with
  | some k => (⟨some k, 0, false⟩, s.setEntry k (some e))
  | none =>
    let w := s.walk t
    let start := if w.getLsbD 0 then ab.2 else ab.1
    match s.relocate t 64 start w [] with
    | (some path, w) =>
      let s := (s.shift path).setWalk t w
      (⟨path.getLast?, path.length - 1, false⟩, match path.getLast? with | some k => s.setEntry k (some e) | none => s)
    | (none, w) =>
      let cands := ((s.bucketSlots t (min ab.1 ab.2) ++ s.bucketSlots t (max ab.1 ab.2)).filterMap
        (fun k => (s.entry k).map (fun x => (k, x)))).filter (fun x => x.2.evictable t)
      match s.victim t cands w with
      | (some v, w) => (⟨some v.1, 0, true⟩, (((s.setWalk t w).setEntry v.1 (some e)).pushEvicted t v.2))
      | (none, w) => (⟨none, 0, false⟩, s.setWalk t w)

/-! ## The flow cache (R157) -/

/-- Number of a bucket pair in the cache. -/
def pairKey (a b : Nat) : Nat := min a b * 67108864 + max a b

/-- A mutation of the flow table updates HBM and the cache together, so only the held pairs change on a fill. -/
def State.cacheHolds (s : State) (a b : Nat) : Bool := SMap.get (fun _ => false) s.tbl.cached (pairKey a b)

/-! ## The table commands (R144, R158 to R160) -/

/-- A new entry as INSERT makes it. -/
def newEntry (s : State) (key : List Byte) (action : BitVec 24) (pinned : Bool) (age : BitVec 15) (born : BitVec 16)
    (settled : Bool) : Entry :=
  { key := key, action := action, pinned := pinned, ageLimit := age, stamp := s.tbl.now, born := born, died := 0,
    diedValid := false, settled := settled }

/-- An action record names a reserved port as its egress (R25, R129). -/
def recordReserved (v : Nat) : Bool := bits v 28 4 == 1 && decide (336 ≤ bits v 32 32 ∧ bits v 32 32 < 512)

/-- Operand checks that give MALFORMED or UNSUPPORTED, then SCENE_FROZEN, in the order of R159. Op numbers are
those of R159. -/
def State.cmdCheck (s : State) (op t : Nat) (o : TableOperands) : Option (BitVec 8) :=
  let hashed := t < 64 || t = 65 || t = 66
  let cap := if t < 64 then 4 * 2 ^ s.log2 t else if t = 64 then 1048576 else 4 * 2 ^ s.log2 t
  let malformed :=
    op = 0 || 8 ≤ op || (t > 66 && !(op = 7 && t = 127)) ||
    ((op = 4 || op = 5) && t ≤ 66 && cap ≤ o.index.toNat) ||
    (op = 1 && (t < 64 || t = 66) && 1048575 < o.action.toNat) ||
    (op = 1 && t = 65 && 335 < o.action.toNat) || (op = 5 && t = 64 && recordReserved (leAt o.key 0 32))
  let listed :=
    match op with
    | 1 | 2 | 3 | 6 => hashed
    | 4 => t ≤ 66
    | 5 => t = 64
    | 7 => t < 64 || t = 127
    | _ => false
  if malformed then some 0x01
  else if !listed || (hashed && !s.tableOn t) then some 0x0D
  else if (op = 1 || op = 2 || op = 7) && (t < 64 || t = 127) && (s.armedSlot).isSome then some 0x92
  else none

/-- INSERT (R144 for the exact-match tables, R159 for the others). The entry replaced is marked before the new one is placed, so that it
is no candidate for eviction (R150); an insertion that fails leaves it as it was. -/
def State.doInsert (s : State) (t : Nat) (o : TableOperands) (key : List Byte) : TableResult × State :=
  let pend := s.scn.pending
  let found := s.findEntry t key (fun e => 65 ≤ t || e.visible pend)
  let inPlace : Option (Nat × Entry) :=
    match found with
    | some (k, e) => if 65 ≤ t || (e.born = pend && !e.settled) then some (k, e) else none
    | none => none
  match inPlace with
  | some (k, e) =>
    let e' := { e with action := o.action, pinned := o.pinned, ageLimit := o.ageLimit }
    ({ replaced := true, index := s.indexOf t k }, s.setEntry k (some e'))
  | none =>
    let e := newEntry s key o.action o.pinned o.ageLimit (if t < 64 then pend else 0) false
    let marked := match found with
      | some (k0, old) => s.setEntry k0 (some { old with died := pend, diedValid := true })
      | none => s
    let (p, s') := marked.place t e
    match p.slot with
    | none => ({ status := 0x0E, relocations := p.relocations }, match found with | some (k0, old) => s'.setEntry k0 (some old) | none => s')
    | some k => ({ replaced := found.isSome, evicted := p.evicted, relocations := p.relocations, index := s.indexOf t k }, s')

/-- DELETE (R144, R159). -/
def State.doDelete (s : State) (t : Nat) (key : List Byte) : TableResult × State :=
  let pend := s.scn.pending
  match s.findEntry t key (fun e => 65 ≤ t || e.visible pend) with
  | none => ({ status := 0xA0 }, s)
  | some (k, e) =>
    if 65 ≤ t || (e.born = pend && !e.settled) then ({ index := s.indexOf t k }, s.setEntry k none)
    else ({ index := s.indexOf t k }, s.setEntry k (some { e with died := pend, diedValid := true }))

/-- LOOKUP (R159). -/
def State.doLookup (s : State) (t : Nat) (sel : Bool) (key : List Byte) : TableResult × State :=
  let sc := if sel then s.scn.pending else s.scn.current
  match s.findEntry t key (fun e => 65 ≤ t || e.visible sc) with
  | none => ({ loads := true }, s)
  | some (k, e) => ({ hit := true, index := s.indexOf t k, entry := some e, loads := true }, s)

/-- The 32 bytes of an action record. -/
def recordBytes (v : BitVec 256) : List Byte := toLE 32 v.toNat

def actionDefault : Nat → BitVec 256 := fun _ => 0
def State.action (s : State) (i : Nat) : BitVec 256 := SMap.get actionDefault s.tbl.actions i
def State.setAction (s : State) (i : Nat) (v : BitVec 256) : State :=
  { s with tbl := { s.tbl with actions := SMap.set actionDefault i v s.tbl.actions } }

/-- READ_INDEX (R159). -/
def State.doReadIndex (s : State) (t i : Nat) : TableResult × State :=
  if t = 64 then ({ record := some (recordBytes (s.action i)), index := i }, s)
  else match s.entry (s.slotOf t 0 0 + i) with
    | none => ({ loads := true, index := i, record := some (List.replicate 64 0) }, s)
    | some e => ({ loads := true, index := i, entry := some e, record := some (slice e.key 0 64) }, s)

/-- REFRESH (R159). -/
def State.doRefresh (s : State) (t : Nat) (key : List Byte) : TableResult × State :=
  match s.findEntry t key (fun e => 65 ≤ t || e.visible s.scn.current) with
  | none => ({ status := 0xA0 }, s)
  | some (k, e) => ({ index := s.indexOf t k }, s.setEntry k (some { e with stamp := s.tbl.now }))

/-- FLUSH_SCENE on one entry: freed, revived, or left (R144). -/
def flushEntry (pend : BitVec 16) (e : Entry) : Option Entry :=
  if e.born = pend && !e.settled then none
  else if e.diedValid && e.died = pend then some { e with diedValid := false }
  else some e

/-- FLUSH_SCENE over a table, or over all 64 (R144). -/
def State.doFlush (s : State) (t : Nat) : TableResult × State :=
  let ts := if t = 127 then List.range 64 else [t]
  let slots := ts.flatMap (fun u => if s.tableOn u then s.tableSlots u else [])
  ({}, slots.foldl (fun s x => s.setEntry x.1 (flushEntry s.scn.pending x.2)) s)

/-- A table command performed: what it reports, and the tables after it (R159). One of the flow table accesses its HBM region (R21). -/
def State.tableCommand (s : State) (op t : Nat) (sel : Bool) (o : TableOperands) : TableResult × State :=
  match s.cmdCheck op t o with
  | some st => ({ status := st }, s)
  | none =>
    let s := if t = 66 then s.touchPairs s.tbl.placement.flow else s
    let key := slice o.key 0 (s.keyBytes t)
    match op with
    | 1 => s.doInsert t o key
    | 2 => s.doDelete t key
    | 3 => s.doLookup t sel key
    | 4 => s.doReadIndex t o.index.toNat
    | 5 => ({ index := o.index.toNat }, s.setAction o.index.toNat (BitVec.ofNat 256 (leAt o.key 0 32)))
    | 6 => s.doRefresh t key
    | _ => s.doFlush t

end Sys2Proof.Machine
end

