-- ==== Sys2Proof/Machine/Parser.lean ====
section
/-! DEFINITION. The parser of a classification pass (R121 to R126): the headers it recognises, the parse errors and
slow-path cases it finds, and the header vector it fills. -/

namespace Sys2Proof.Machine

/-- An IPv6 extension header the parser passes over (R121): Hop-by-Hop, Routing or Destination Options. -/
def isIpv6Ext (n : Nat) : Bool := n == 0 || n == 43 || n == 60

/-- What a parse works on: the octets it may read (R121), whether the frame is shorter than the window, and the parse
registers sampled at pass entry. -/
structure ParseIn where
  octets : List Byte
  short : Bool
  outerTpid : Nat
  innerTpid : Nat
  vxlan : Nat
  geneve : Nat
  roce : Nat
  nvme : Nat
  slowEn : Nat
  known : List Nat

/-- A parse in progress: the header vector, presence flags, the offset of the next header, the EtherType or protocol
that names it, and how the parse ended. -/
structure Parse where
  vec : List Byte := List.replicate 256 0
  flags : Nat := 0
  off : Nat := 0
  next : Nat := 0
  slow : Option Nat := none
  err : Bool := false
  halt : Bool := false
  ip : Option (Nat × Bool) := none

/-- Octets the parser may read end here. -/
def ParseIn.limit (c : ParseIn) : Nat := c.octets.length

/-- Places n octets from offset o of the frame at a vector offset; a field not wholly within the window stays zero. -/
def Parse.put (p : Parse) (c : ParseIn) (v o n : Nat) : Parse :=
  if o + n ≤ c.limit then { p with vec := splice p.vec v (slice c.octets o n) } else p

def Parse.putByte (p : Parse) (v x : Nat) : Parse := { p with vec := splice p.vec v [BitVec.ofNat 8 x] }

def Parse.flagOn (p : Parse) (n : Nat) : Parse := { p with flags := setBits p.flags n 1 1 }

def Parse.stop (p : Parse) : Parse := { p with halt := true }

/-- A parse error (R122). -/
def Parse.error (p : Parse) : Parse := { p with halt := true, err := true }

/-- A header raises cases of R124, by reason code in ascending order: the lowest enabled one decides, and with none
enabled the parser stops at the header. -/
def Parse.raise (p : Parse) (c : ParseIn) (cases : List Nat) : Parse :=
  { p with halt := true, slow := cases.find? (fun r => bit c.slowEn (r - 1)) }

/-- A header that runs past the end of a short frame is a parse error (R122), unless another case of the same header is enabled: its
code is lower than that of the error (R124). -/
def Parse.raiseError (p : Parse) (c : ParseIn) (cases : List Nat) : Parse :=
  match cases.find? (fun r => bit c.slowEn (r - 1)) with
  | some r => { p with halt := true, slow := some r }
  | none => p.error

/-- A number put in its place in an ascending list. -/
def insertNat (n : Nat) : List Nat → List Nat
  | [] => [n]
  | m :: ms => if n ≤ m then n :: m :: ms else m :: insertNat n ms

def ascending (ns : List Nat) : List Nat := ns.foldr insertNat []

/-- A recognised header ends at octet e: past the end of a short frame it is an error, past the window a case of
R124 beside the header's other cases. -/
def Parse.close (p : Parse) (c : ParseIn) (e : Nat) (cases : List Nat) : Parse :=
  if c.limit < e then (if c.short then p.raiseError c (ascending cases) else p.raise c (ascending (4 :: cases)))
  else if cases.isEmpty then p else p.raise c (ascending cases)

/-- Ethernet with up to two tags (R121). -/
def Parse.ethernet (p : Parse) (c : ParseIn) : Parse :=
  let p := (p.put c 0x00 0 6).put c 0x06 6 6
  if c.limit < 14 then p.close c 14 [] else
  let et := beAt c.octets 12 2
  if et = 0x8100 ∨ et = c.outerTpid then
    let p := (p.put c 0x0C 14 2).flagOn 0
    if c.limit < 18 then p.close c 18 [] else
    let et := beAt c.octets 16 2
    if et = c.innerTpid then
      let p := (p.put c 0x0E 18 2).flagOn 1
      if c.limit < 22 then p.close c 22 [] else
      { (p.put c 0x10 20 2) with off := 22, next := beAt c.octets 20 2 }
    else { (p.put c 0x10 16 2) with off := 18, next := et }
  else { (p.put c 0x10 12 2) with off := 14, next := et }

/-- Vector offsets of the IP fields at a level: protocol, traffic class, TTL, source, destination. -/
structure IpPlace where
  proto : Nat
  tos : Nat
  ttl : Nat
  src : Nat
  dst : Nat
  v4 : Nat
  v6 : Nat

def outerPlace : IpPlace := ⟨0x17, 0x18, 0x19, 0x1C, 0x2C, 2, 3⟩
def innerPlace : IpPlace := ⟨0x60, 0x61, 0x62, 0x64, 0x74, 11, 12⟩

/-- An IPv4 header (R121, R122, R124). -/
def Parse.ipv4 (p : Parse) (c : ParseIn) (a : IpPlace) : Parse :=
  let o := p.off
  let ihl := bits (beAt c.octets o 1) 0 4
  if o < c.limit ∧ bits (beAt c.octets o 1) 4 4 ≠ 4 then p.error
  else if o < c.limit ∧ ihl < 5 then p.error
  else
    let p := (((((p.put c a.tos (o + 1) 1).put c a.ttl (o + 8) 1).put c a.proto (o + 9) 1).put c (a.src + 12) (o + 12) 4).put
      c (a.dst + 12) (o + 16) 4).flagOn a.v4
    let frag := bits (beAt c.octets (o + 6) 2) 13 1 = 1 ∨ bits (beAt c.octets (o + 6) 2) 0 13 ≠ 0
    let cases := (if o + 8 ≤ c.limit ∧ frag then [1] else []) ++ (if 5 < ihl then [5] else [])
    let p := p.close c (o + 4 * max ihl 5) cases
    if p.halt then p else { p with off := o + 20, next := beAt c.octets (o + 9) 1 }


/-- One IPv6 extension header passed. -/
def Parse.passExt (p : Parse) (c : ParseIn) : Parse :=
  let len := 8 * (beAt c.octets (p.off + 1) 1 + 1)
  let q := p.close c (p.off + (if p.off + 2 ≤ c.limit then len else 8)) []
  if q.halt then q else { q with off := p.off + len, next := beAt c.octets p.off 1 }

/-- The IPv6 extension headers (R121): at most left more are passed. -/
def Parse.ipv6Ext (c : ParseIn) (a : IpPlace) : Nat → Parse → Parse
  | 0, p =>
    let p := p.putByte a.proto p.next
    if p.halt then p else if p.next = 44 then p.raise c [1] else if isIpv6Ext p.next then p.raise c [2] else p
  | left + 1, p =>
    let p := p.putByte a.proto p.next
    if p.halt then p
    else if p.next = 44 then p.raise c [1]
    else if isIpv6Ext p.next then Parse.ipv6Ext c a left (p.passExt c)
    else p

/-- An IPv6 header (R121, R122, R124). -/
def Parse.ipv6 (p : Parse) (c : ParseIn) (a : IpPlace) (outer : Bool) : Parse :=
  let o := p.off
  if o < c.limit ∧ bits (beAt c.octets o 1) 4 4 ≠ 6 then p.error
  else
    let p := (((p.put c a.ttl (o + 7) 1).put c a.src (o + 8) 16).put c a.dst (o + 24) 16).flagOn a.v6
    let p := if o + 2 ≤ c.limit then p.putByte a.tos (bits (beAt c.octets o 2) 4 8) else p
    let p := if outer ∧ o + 4 ≤ c.limit then
        { p with vec := splice p.vec 0x3C (toBE 4 (bits (beAt c.octets o 4) 0 20)) } else p
    let p := (p.put c a.proto (o + 6) 1).close c (o + 40) []
    if p.halt then p
    else Parse.ipv6Ext c a 2 { p with off := o + 40, next := beAt c.octets (o + 6) 1 }

/-- An IP header by EtherType; any other EtherType ends the parse. -/
def Parse.ipHeader (p : Parse) (c : ParseIn) (a : IpPlace) (outer : Bool) : Parse :=
  if p.halt then p
  else if p.next = 0x0800 then (if outer then { p with ip := some (p.off, true) } else p).ipv4 c a
  else if p.next = 0x86DD then (if outer then { p with ip := some (p.off, false) } else p).ipv6 c a outer
  else p.stop

/-- A TCP header at a level: ports placed, flags for the outer one. -/
def Parse.tcp (p : Parse) (c : ParseIn) (ports fl : Nat) (outer : Bool) : Parse :=
  let o := p.off
  let doff := bits (beAt c.octets (o + 12) 1) 4 4
  let p := ((p.put c ports o 2).put c (ports + 2) (o + 2) 2).flagOn fl
  let p := if outer then p.put c 0x44 (o + 13) 1 else p
  let nv := beAt c.octets o 2 = c.nvme ∨ beAt c.octets (o + 2) 2 = c.nvme
  let p := if outer ∧ o + 4 ≤ c.limit ∧ nv then p.flagOn 10 else p
  if o + 13 ≤ c.limit ∧ doff < 5 then p.error
  else (p.close c (o + 4 * (if o + 13 ≤ c.limit then doff else 5)) []).stop

/-- Geneve options from offset o to the end of the area (R123), or to the end of a short frame, which no option may run past (R122);
nothing of an area that raises a case is placed (R124). -/
def Parse.options (p : Parse) (c : ParseIn) (stop : Nat) : Nat → Nat → Bool → Parse
  | 0, _, _ => p
  | fuel + 1, o, seen =>
    if stop ≤ o then p
    else
      let len := 4 + 4 * bits (beAt c.octets (o + 3) 1) 0 5
      let id := beAt c.octets o 2 + 65536 * beAt c.octets (o + 2) 1
      let critical := decide (o + 3 ≤ c.limit) && !c.known.contains id && bit (beAt c.octets (o + 2) 1) 7
      let bare := { p with vec := splice p.vec 0x88 [0, 0, 0, 0] }
      if o + 4 ≤ c.limit ∧ stop < o + len then p.error
      else if c.limit < o + 4 ∨ c.limit < o + len then bare.raiseError c (if critical then [3] else [])
      else if critical then bare.raise c [3]
      else if c.known.contains id then
        Parse.options (if seen then p else
          (p.put c 0x88 o 3).putByte 0x8B (bits (beAt c.octets (o + 3) 1) 0 5)) c stop fuel (o + len) true
      else Parse.options p c stop fuel (o + len) seen

/-- An inner Ethernet header with at most one tag (R121). -/
def Parse.innerEthernet (p : Parse) (c : ParseIn) : Parse :=
  let o := p.off
  let p := (p.put c 0x50 o 6).put c 0x56 (o + 6) 6
  if c.limit < o + 14 then p.close c (o + 14) [] else
  let et := beAt c.octets (o + 12) 2
  if et = 0x8100 then
    let p := (p.put c 0x5C (o + 14) 2).putByte 0x63 1
    if c.limit < o + 18 then p.close c (o + 18) [] else
    { (p.put c 0x5E (o + 16) 2) with off := o + 18, next := beAt c.octets (o + 16) 2 }
  else { (p.put c 0x5E (o + 12) 2) with off := o + 14, next := et }

/-- Inner IP and inner L4 (R121). -/
def Parse.inner (p : Parse) (c : ParseIn) : Parse :=
  let p := p.ipHeader c innerPlace false
  if p.halt then p
  else if p.next = 6 then p.tcp c 0x84 13 false
  else if p.next = 17 then
    ((((p.put c 0x84 p.off 2).put c 0x86 (p.off + 2) 2).flagOn 14).close c (p.off + 8) []).stop
  else p.stop

/-- A Geneve header and its options, then what it carries (R121, R123). -/
def Parse.geneve (p : Parse) (c : ParseIn) : Parse :=
  let o := p.off
  let p := ((p.put c 0x45 (o + 4) 3).flagOn 7).close c (o + 8) []
  if p.halt then p
  else
    let stop := o + 8 + 4 * bits (beAt c.octets o 1) 0 6
    if 512 < stop then p.raise c [4]
    else
      let p := p.options c stop 64 (o + 8) false
      let ty := beAt c.octets (o + 2) 2
      if p.halt then p
      else if ty = 0x6558 then ({ p with off := stop }.innerEthernet c).inner c
      else { p with off := stop, next := ty }.inner c

/-- A UDP header and the tunnels its destination port names (R121). -/
def Parse.udp (p : Parse) (c : ParseIn) : Parse :=
  let o := p.off
  let p := (((p.put c 0x40 o 2).put c 0x42 (o + 2) 2).flagOn 5).close c (o + 8) []
  if p.halt then p
  else
    let dst := beAt c.octets (o + 2) 2
    let payload := min (beAt c.octets (o + 4) 2 - 8) (c.limit - (o + 8))
    let p := { p with off := o + 8 }
    if dst = 4500 then
      if payload < 4 ∨ beAt c.octets (o + 8) 4 = 0 then p.stop
      else (((p.put c 0x48 (o + 8) 4).flagOn 8).flagOn 15).close c (o + 16) [] |>.stop
    else if dst = c.vxlan then
      let q := ((p.put c 0x45 (o + 12) 3).flagOn 6).close c (o + 16) []
      if q.halt then q else ({ q with off := o + 16 }.innerEthernet c).inner c
    else if dst = c.geneve then p.geneve c
    else if dst = c.roce then
      (((p.put c 0x4C (o + 8) 1).put c 0x4D (o + 13) 3).flagOn 9).close c (o + 20) [] |>.stop
    else p.stop

/-- A frame parsed (R121). -/
def parseFrame (c : ParseIn) : Parse :=
  let p := (Parse.ethernet {} c).ipHeader c outerPlace true
  if p.halt then p
  else if p.next = 6 then p.tcp c 0x40 4 true
  else if p.next = 17 then p.udp c
  else if p.next = 50 then ((p.put c 0x48 p.off 4).flagOn 8).close c (p.off + 8) [] |>.stop
  else p.stop

/-- The parse registers, sampled (R139), over a frame's octets. A frame shorter than 512 octets ends before its FCS
(R121). -/
def State.parseIn (s : State) (octets : List Byte) : ParseIn :=
  let short := octets.length < 512
  { octets := if short then octets.take (octets.length - 4) else octets.take 512
    short := short
    outerTpid := s.fld Fld.CLS_PARSE_TPID_OUTER_TPID 0
    innerTpid := s.fld Fld.CLS_PARSE_TPID_INNER_TPID 0
    vxlan := s.fld Fld.CLS_PARSE_PORTS_VXLAN_PORT 0
    geneve := s.fld Fld.CLS_PARSE_PORTS_GENEVE_PORT 0
    roce := s.fld Fld.CLS_PARSE_PORTS_ROCE_PORT 0
    nvme := s.fld Fld.CLS_PARSE_PORTS_NVME_TCP_PORT 0
    slowEn := s.fld Fld.CLS_PARSE_CTRL_SLOW_EN 0
    known := (List.range 16).filterMap (fun i =>
      if s.flagAt Fld.CLS_GENEVE_KNOWN_VALID i then
        some (s.fld Fld.CLS_GENEVE_KNOWN_CLASS i + 65536 * s.fld Fld.CLS_GENEVE_KNOWN_TYPE i) else none) }

/-- The finished header vector: the parse with its metadata and raw window (R126). -/
def State.headerVector (s : State) (p : Parse) (c : ParseIn) (port cls slc : Nat) : List Byte :=
  let v := splice p.vec 0x12 (toBE 2 port ++ toBE 2 p.flags ++ toBE 1 cls)
  let v := splice v 0x1A (toBE 2 slc)
  splice v 0x8C (slice c.octets (s.fld Fld.CLS_PARSE_CTRL_RAW_OFFSET 0) 64)

/-- The flow key of R148. -/
def flowKey (vec : List Byte) (flags : Nat) : List Byte :=
  let inner := bit flags 11 || bit flags 12
  if inner then
    slice vec 0x64 32 ++ (if bit flags 13 || bit flags 14 then slice vec 0x84 4 else [0, 0, 0, 0]) ++
      slice vec 0x60 1 ++ slice vec 0x45 3
  else
    slice vec 0x1C 32 ++ (if bit flags 4 || bit flags 5 then slice vec 0x40 4 else [0, 0, 0, 0]) ++
      slice vec 0x17 1 ++ slice vec 0x45 3

end Sys2Proof.Machine
end

