-- ==== Sys2Proof/Machine/Pipeline.lean ====
section
/-! DEFINITION. A classification pass (R119 to R132, R155 to R157): keys, lookup stages, action records, the ticket and
the forwarding decision. -/

namespace Sys2Proof.Machine

/-! ## Frames of the switch core -/

def State.frame? (s : State) (f : Nat) : Option Frame := s.swc.frames.find? (fun x => x.id == f)

/-- Puts a frame record back. -/
def State.setFrame (s : State) (x : Frame) : State :=
  { s with swc := { s.swc with frames := s.swc.frames.map (fun y => if y.id = x.id then x else y) } }

/-- The frame's IP length exceeds the octets received after the header (R167). -/
def State.ipShort (s : State) (x : Frame) : Bool :=
  match (parseFrame (s.parseIn x.octets)).ip with
  | some (o, true) => x.octets.length - 4 < o + beAt x.octets (o + 2) 2
  | some (o, false) => x.octets.length - 4 < o + 40 + beAt x.octets (o + 4) 2
  | none => false

/-- A frame enters the device (R101 and the emitters): the next identity. One that enters whole has its tail at once (R167). -/
def State.newFrame (s : State) (x : Frame) : State :=
  let bad := x.bad || (x.ended && s.ipShort x)
  let y := { x with id := s.swc.nextFrame, bad := bad, ticket := { x.ticket with tailError := x.ticket.tailError || (x.ended && bad) } }
  { s with swc := { s.swc with frames := s.swc.frames ++ [y], nextFrame := s.swc.nextFrame + 1 } }

/-- 256-byte cells of a length (R177). -/
def cellsOf (n : Nat) : Nat := ceilDiv n 256
def Frame.cells (x : Frame) : Nat := cellsOf x.octets.length

/-- A frame still counts as itself in its scene: it took the scene and its copies do not stand for it yet (R136). -/
def Frame.counts (x : Frame) : Bool := x.entered && x.phase != .forwarded

/-- In-flight count of a scene (R136): frames and copies of frames that took it, wherever they are held. -/
def State.inflight (s : State) (sc : BitVec 16) : Nat :=
  let own := fun (f : Nat) => match s.frame? f with
    | some x => x.ticket.scene == sc
    | none => false
  (s.swc.frames.filter (fun x => x.counts && x.ticket.scene == sc)).length +
  (s.swc.copies.filter (fun c => own c.frame)).length +
  (s.swc.samples.filter (fun c => own c.frame)).length +
  (s.swc.arrived.filter (fun c => own c.frame)).length +
  (s.ofl.jobs.filter (fun j => j.frame.ticket.scene == sc)).length

/-- A frame's charge stands while a copy of it holds on-die cells (R177, R181). -/
def State.settledFrame (s : State) (x : Frame) : Frame :=
  if x.phase == .forwarded && !s.swc.copies.any (fun c => c.frame == x.id && !c.spilled) then { x with charge := {} } else x

/-- Frames that have ended, have been forwarded and have no copy left anywhere leave the device's memory; a frame without a
copy on-die frees its cells. -/
def State.collect (s : State) : State :=
  let used := fun (f : Nat) => s.swc.copies.any (fun c => c.frame == f) || s.swc.samples.any (fun c => c.frame == f) ||
    s.swc.arrived.any (fun c => c.frame == f)
  let kept := s.swc.frames.filter (fun x => x.phase != .forwarded || !x.ended || used x.id)
  { s with swc := { s.swc with frames := kept.map s.settledFrame } }

/-- The ticket as the 128-bit word of R132. -/
def Ticket.word (t : Ticket) : Nat :=
  t.scene.toNat + t.slice.toNat * 2 ^ 16 + t.gen.toNat * 2 ^ 28 + t.inPort.toNat * 2 ^ 36 + t.cls.toNat * 2 ^ 45 +
  t.dp.toNat * 2 ^ 48 + flag t.tailError * 2 ^ 50 + flag t.ecn * 2 ^ 51 + flag t.spot * 2 ^ 52 + flag t.slow * 2 ^ 53 +
  t.flowHash.toNat * 2 ^ 64 + t.action.toNat * 2 ^ 96 + t.reason.toNat * 2 ^ 120

/-- Generation of a slice. -/
def State.sliceGen (s : State) (n : Nat) : Nat := s.fld Fld.SLC_SLICE_STATE_GENERATION n

/-! ## Keys and lookups (R127, R128, R133) -/

/-- Key byte i of a profile (R127). -/
def State.keyByte (s : State) (vec : List Byte) (f i : Nat) : Byte :=
  let r := (s.reg .CLS_KEY_SEL (32 * f + i / 2)).toNat
  let lo := 16 * (i % 2)
  BitVec.ofNat 8 (leAt vec (bits r lo 8) 1) &&& BitVec.ofNat 8 (bits r (lo + 8) 8)

/-- The key a table looks up (R127). -/
def State.tableKey (s : State) (vec : List Byte) (t : Nat) : List Byte :=
  let f := s.fld Fld.CLS_TABLE_KEY_PROFILE t
  (List.range (s.keyBytes t)).map (s.keyByte vec f)

/-- A chain in progress (R130). -/
structure Chain where
  t : Ticket
  d : Decision := {}
  forwarder : Option Nat := none
  last : Nat := 0
  reason : Option Nat := none
  cold : Bool := false

/-- Field of an action record. -/
def recField (v : BitVec 256) (lo w : Nat) : Nat := bits v.toNat lo w

/-- The SET fields and the last-wins fields of one record, its forwarding decision given (R129, R130, R195). -/
def Chain.apply (c : Chain) (s : State) (idx : Nat) (v : BitVec 256) (fwd target : Nat) : Chain :=
  let t := c.t
  let t := if recField v 11 1 = 1 then { t with cls := BitVec.ofNat 3 (recField v 8 3) } else t
  let t := if recField v 14 1 = 1 then { t with dp := BitVec.ofNat 2 (recField v 12 2) } else t
  let t := if recField v 15 1 = 1 then
      { t with slice := BitVec.ofNat 12 (recField v 16 12), gen := BitVec.ofNat 8 (s.sliceGen (recField v 16 12)) } else t
  let d := c.d
  let d := if recField v 64 24 ≠ 0 then { d with rewrite := recField v 64 24 } else d
  let d := if recField v 96 8 ≠ 0 then { d with mirror := recField v 96 8 } else d
  let d := if recField v 104 1 = 1 then { d with learn := true } else d
  let d := if recField v 105 1 = 1 then { d with count := some (recField v 128 32) } else d
  let d := if recField v 190 1 = 1 then { d with police := some (recField v 176 14, recField v 191 1 == 1) } else d
  let d := if fwd ≠ 0 then { d with forward := fwd, target := target, ctx := recField v 192 16 } else d
  { c with t := t, d := d, last := idx
           forwarder := if fwd ≠ 0 then some idx else c.forwarder
           reason := if 0x80 ≤ recField v 88 8 then some (recField v 88 8) else c.reason }

/-- The learning domain of a frame (R154). -/
def State.learnDomain (s : State) (vec : List Byte) (flags inPort : Nat) : Nat :=
  if bit flags 0 then bits (beAt vec 0x0C 2) 0 12 else s.fld Fld.TBL_LEARN_PORT_DEFAULT_DOMAIN inPort

/-- The learning key (R154). -/
def learnKey (domain : Nat) (mac : List Byte) : List Byte := toBE 2 domain ++ slice mac 0 6

/-- What L2_DST makes of a record's forwarding (R156). -/
def State.l2 (s : State) (v : BitVec 256) (vec : List Byte) (flags inPort : Nat) : Nat × Nat :=
  let own := (recField v 28 4, recField v 32 32)
  if recField v 160 1 = 1 ∧ s.tableOn 65 then
    match s.findEntry 65 (learnKey (s.learnDomain vec flags inPort) vec) (fun _ => true) with
    | some (_, e) => if e.action.toNat ≠ inPort then (1, e.action.toNat) else own
    | none => own
  else own

/-- A flow lookup's outcomes (R156, R157). -/
inductive FlowHit where
  | miss | hit (slot : Nat) (e : Entry) | cold

/-- One flow lookup, with its counts and a fill it starts (R157). -/
def State.flowLookup (s : State) (key : List Byte) (overRate : Bool) : FlowHit × State :=
  if !s.tableOn 66 then (.miss, s)
  else if overRate then (.cold, (s.bump .TBL_FLOW_COLD 0).bump .TBL_FLOW_OVERRATE 0)
  else
    let ab := s.buckets 66 key
    if !s.cacheHolds ab.1 ab.2 then
      let s := s.bump .TBL_FLOW_COLD 0
      let pair := (min ab.1 ab.2, max ab.1 ab.2)
      if s.tbl.fills.contains pair then (.cold, s)
      else (.cold, State.touchPairs { s with tbl := { s.tbl with fills := s.tbl.fills ++ [pair] } } s.tbl.placement.flow)
    else match s.findEntry 66 key (fun _ => true) with
      | some (k, e) => (.hit k e, s.setEntry k (some { e with stamp := s.tbl.now }))
      | none => (.miss, s)

/-- One record run, with the flow record it may call in; answers the chain, whether it ends, the next table, and
the state (R128, R156). -/
def State.runRecord (s : State) (c : Chain) (idx : Nat) (vec : List Byte) (flags inPort : Nat) (overRate : Bool) :
    Chain × Bool × Nat × State :=
  let v := s.action idx
  let l2 := s.l2 v vec flags inPort
  let c1 := c.apply s idx v l2.1 l2.2
  if recField v 161 1 = 1 then
    match s.flowLookup (flowKey vec flags) overRate with
    | (.miss, s) => (c1, recField v 6 1 == 1, recField v 0 6, s)
    | (.cold, s) =>
      if recField v 162 1 = 1 then ({ c1 with cold := true }, true, 0, s)
      else (c1, recField v 6 1 == 1, recField v 0 6, s)
    | (.hit _ e, s) =>
      let w := s.action e.action.toNat
      let l2 := s.l2 w vec flags inPort
      (c1.apply s e.action.toNat w l2.1 l2.2, recField w 6 1 == 1, recField w 0 6, s)
  else (c1, recField v 6 1 == 1, recField v 0 6, s)

/-- The lookup stages from a table, fuel of them left (R128). -/
def State.stages (s : State) (vec : List Byte) (flags inPort pipe : Nat) (overRate : Bool) :
    Nat → Nat → Chain → Chain × State
  | 0, _, c => (c, s.bump .CLS_PIPE_CHAIN_CUT pipe)
  | fuel + 1, t, c =>
    let found := if s.tableOn t then s.findEntry t (s.tableKey vec t) (fun e => e.visible c.t.scene) else none
    let (idx, s) := match found with
      | some (k, e) => (e.action.toNat, s.setEntry k (some { e with stamp := s.tbl.now }))
      | none => (s.fld Fld.CLS_TABLE_KEY_MISS_ACTION t, s)
    match s.runRecord c idx vec flags inPort overRate with
    | (c, true, _, s) => (c, s)
    | (c, false, next, s) => State.stages s vec flags inPort pipe overRate fuel next c

/-- The whole chain of a pass (R128, R130): the start table, or the port's record with NO_LOOKUP. -/
def State.runChain (s : State) (x : Frame) (vec : List Byte) (flags : Nat) (overRate : Bool) : Chain × State :=
  let c : Chain := { t := x.ticket }
  let pipe := pipelineOf x.passPort
  let table := match x.emit with
    | some e => if e.useTable then some e.table.toNat else none
    | none => none
  match table with
  | some t => s.stages vec flags x.inPort pipe overRate 8 t c
  | none =>
    if s.flagAt Fld.CLS_PORT_START_NO_LOOKUP x.passPort then
      let idx := s.fld Fld.CLS_PORT_START_DEFAULT_ACTION x.passPort
      let v := s.action idx
      (c.apply s idx v (recField v 28 4) (recField v 32 32), s)
    else s.stages vec flags x.inPort pipe overRate 8 (s.fld Fld.CLS_PORT_START_FIRST_TABLE x.passPort) c

/-- The ticket and decision a finished chain gives (R130, R132). -/
def Chain.finish (c : Chain) : Ticket × Decision :=
  let (d, dev) : Decision × Option Nat :=
    if c.cold then ({ c.d with forward := 6 }, some 0x06)
    else if c.d.forward = 6 then (c.d, some 0x06)
    else if c.d.forward = 5 then (c.d, some 0x11)
    else if c.d.forward = 0 then (c.d, some 0x13)
    else (c.d, none)
  let r := match c.reason with
    | some r => some r
    | none => dev
  let t := { c.t with action := BitVec.ofNat 24 (c.forwarder.getD c.last) }
  let t := if d.forward = 6 then { t with slow := true } else t
  (match r with
   | some r => { t with reason := BitVec.ofNat 8 r }
   | none => t, d)

/-- The Troupe path of a slow-path frame, by CLS_PARSE_CTRL as its pass entry samples it (R125). -/
def State.slowPort (s : State) (hash : BitVec 32) : Nat :=
  let d := s.fld Fld.CLS_PARSE_CTRL_SLOW_DIE 0
  334 + (if d = 0 then flag (hash.getLsbD 0) else d - 1)

/-- The pass of a frame: parsed, its scene taken at its first entry, its flow hash set, and its chain run or its slow
path chosen. The result stands in the frame until the lookup result is carried out (R119, R120, R125). -/
def State.enterPass (s : State) (x : Frame) (overRate : Bool) : State :=
  let pipe := pipelineOf x.passPort
  let s := s.bump .CLS_PIPE_FRAMES pipe
  let t := x.ticket
  let t := if x.entered then t else
    { t with scene := s.scn.current, inPort := BitVec.ofNat 9 x.inPort, cls := BitVec.ofNat 3 x.rxClass }
  let c := s.parseIn x.octets
  let p := parseFrame c
  let vec := s.headerVector p c x.passPort t.cls.toNat t.slice.toNat
  let hash := crc32c (BitVec.ofNat 32 (s.fld Fld.SWC_FLOW_SEED_SEED 0)) ((flowKey vec p.flags).take 37)
  let t := { t with flowHash := hash, action := 0 }
  let x := { x with entered := true, landing := false, phase := .looking, passes := x.passes + 1, chosen := false, order := s.swc.entries }
  let s := { s with swc := { s.swc with entries := s.swc.entries + 1 } }
  let die := s.slowPort hash
  let slow := p.slow.orElse (fun _ =>
    if p.err && s.flagAt Fld.CLS_PARSE_CTRL_ERR_TO_SLOW 0 then some 0x07 else none)
  match slow with
  | some r =>
    s.setFrame { x with ticket := { t with slow := true, reason := BitVec.ofNat 8 r }, decision := some { forward := 6, target := die } }
  | none =>
    if p.err then
      (s.bump .CLS_PIPE_PARSE_ERR pipe).setFrame
        { x with ticket := { t with reason := 0x10 }, decision := some { forward := 5 } }
    else
      let (ch, s) := s.runChain { x with ticket := t } vec p.flags overRate
      let (t, d) := ch.finish
      let s := if d.forward = 0 then s.bump .CLS_PIPE_NO_FORWARD pipe else s
      s.setFrame { x with ticket := t, decision := some (if d.forward = 6 then { d with target := die } else d) }

end Sys2Proof.Machine
end

