-- ==== Sys2Proof/Machine/Cipher.lean ====
section
/-! DEFINITION. The cipher cluster (R234 to R258): key contexts, queued requests, the checks at dispatch, usage limits,
succession, units and results. -/

namespace Sys2Proof.Machine

def ctxDefault : Nat → KeyCtx := fun _ => {}
def State.keyCtx (s : State) (c : Nat) : KeyCtx := SMap.get ctxDefault s.cph.ctxs c
def State.setKeyCtx (s : State) (c : Nat) (v : KeyCtx) : State :=
  { s with cph := { s.cph with ctxs := SMap.set ctxDefault c v s.cph.ctxs } }

def engineDefault : Nat → CipherEngine := fun _ => {}
def State.engine (s : State) (e : Nat) : CipherEngine := SMap.get engineDefault s.cph.engines e
def State.setEngine (s : State) (e : Nat) (v : CipherEngine) : State :=
  { s with cph := { s.cph with engines := SMap.set engineDefault e v s.cph.engines } }

/-- The cipher group domain of an engine (R234, R451). -/
def groupOf (e : Nat) : Nat := 24 + e / 6


/-! ## Fields of a request (R236) -/

def CipherReq.op (q : CipherReq) : Nat := leAt q.raw 0 1
def CipherReq.noSuccession (q : CipherReq) : Bool := bit (leAt q.raw 1 1) 0
def CipherReq.aadLen (q : CipherReq) : Nat := leAt q.raw 2 2
def CipherReq.payloadLen (q : CipherReq) : Nat := leAt q.raw 4 4
def CipherReq.ctx (q : CipherReq) : Nat := leAt q.raw 8 4 % 262144
def CipherReq.slc (q : CipherReq) : Nat := leAt q.raw 12 2 % 4096
def CipherReq.gen (q : CipherReq) : Nat := leAt q.raw 14 1
def CipherReq.epochField (q : CipherReq) : Nat := leAt q.raw 15 1
def CipherReq.ivField (q : CipherReq) : Nat := leAt q.raw 16 8
def CipherReq.tweak (q : CipherReq) : Nat := leAt q.raw 16 16
def CipherReq.dst (q : CipherReq) : Nat := leAt q.raw 40 8
def CipherReq.cookie (q : CipherReq) : Nat := leAt q.raw 48 8
def CipherReq.isGcm (q : CipherReq) : Bool := q.op == 1 || q.op == 2
def CipherReq.isEnc (q : CipherReq) : Bool := q.op == 1 || q.op == 3

/-- A request laid out (R236). -/
def requestBytes (op flags aad payload ctx slc gen epoch iv dst cookie : Nat) : List Byte :=
  toLE 1 op ++ toLE 1 flags ++ toLE 2 aad ++ toLE 4 payload ++ toLE 4 ctx ++ toLE 2 slc ++ toLE 1 gen ++ toLE 1 epoch ++
  toLE 16 iv ++ toLE 8 0 ++ toLE 8 dst ++ toLE 8 cookie ++ toLE 8 0

/-- Bytes of the units of a message (R240): 65,536 each, the remainder last, and one unit for an empty message. -/
def CipherReq.total (q : CipherReq) : Nat := q.aadLen + q.payloadLen
def CipherReq.unitCount (q : CipherReq) : Nat := max 1 (ceilDiv q.total 65536)
def CipherReq.nextUnit (q : CipherReq) : Nat := min 65536 (q.total - 65536 * q.units)

/-- Engine cycles of a unit (R235); other says that the engine last used another key. -/
def unitCycles (b : Nat) (other : Bool) : Nat := 4 + max 1 (ceilDiv b 128) + (if other then 24 else 0)

/-! ## Results (R237, R258) -/

def CipherReq.die (q : CipherReq) : Nat :=
  match q.requester with
  | .tunnel d => d.val
  | .storage d => d.val
  | .thread n _ _ => n.val / 4

/-- A request completes: its result is built, counted and left for its requester. output is all of it; a thread is given what it has not
been given before (R244). -/
def State.completeCipher (s : State) (q : CipherReq) (status epoch outLen inv : Nat) (output : List Byte) : State :=
  let r := toLE 1 status ++ toLE 1 epoch ++ [0, 0] ++ toLE 4 outLen ++ toLE 8 inv ++ toLE 8 q.cookie ++ toLE 8 0
  let s := { s with cph := { s.cph with
      results := s.cph.results ++ [CipherResult.mk q.requester q.cookie r (output.drop q.sent) (q.dst + q.sent)] } }
  match status with
  | 0x00 => (s.bump .CPH_MESSAGES 0).bumpBy .CPH_BYTES 0 q.payloadLen
  | 0x05 => s.bump .CPH_AUTH_FAIL 0
  | 0x02 => s.bump .CPH_LENGTH 0
  | 0x06 => s.bump .CPH_KEY_EXHAUSTED 0
  | 0xC1 => s.bump .CPH_ENGINE_FAULTS 0
  | 0xC4 => (s.bump .CPH_STALE_DISCARD 0).bump .SLC_STALE_DISCARD q.slc
  | _ => s

/-- A request that is refused or cut off between units: the epoch, the invocation and the output of the units it has had stand (R237). -/
def State.refuseCipher (s : State) (q : CipherReq) (status : Nat) : State :=
  if q.units = 0 then s.completeCipher q status 0 0 0 [] else s.completeCipher q status q.epoch q.out.length q.inv q.out

/-! ## Residency (R247) -/

def State.isHot (s : State) (c : Nat) : Bool := s.cph.hot.contains c

/-- Context c is served: it becomes the most recently served hot context. -/
def State.touchHot (s : State) (c : Nat) : State :=
  if s.isHot c then { s with cph := { s.cph with hot := s.cph.hot.filter (· != c) ++ [c] } } else s

/-- A context has a request queued or in service. -/
def EngineWork.holds (w : EngineWork) (c : Nat) : Bool :=
  match w with
  | .unit k _ _ _ => k == c
  | .turn k _ => k == c
  | .idle => false

def State.inService (s : State) (c : Nat) : Bool := s.cph.engines.any (fun x => x.2.work.holds c)
def State.ctxBusy (s : State) (c : Nat) : Bool := s.cph.queue.any (fun q => q.ctx == c) || s.inService c

/-- What a cold record holds of a context (R247): its three keys with their fixed fields, its counters and its epoch, in 228 bytes (DESIGN
CHOICE, assumption log entry 34: the spec gives the record's size alone). -/
def KeyCtx.record (k : KeyCtx) : List Byte :=
  slice ([k.cur, k.prev, k.succ].flatMap (fun m => match m with
    | some m => slice m.material 0 64 ++ toLE 4 m.fixed.toNat
    | none => List.replicate 68 0) ++ toLE 8 k.used ++ toLE 8 k.bytes ++ toLE 1 k.epoch.toNat) 0 228

/-- The record of a context that is not hot is written to HBM, wrapped under the context-wrapping key (R247, R266). -/
def State.writeCold (s : State) (c : Nat) : State :=
  if s.isHot c || (s.keyCtx c).state == .EMPTY then s
  else
    let (iv, s) := s.drbg 12
    { s with cph := { s.cph with cold := SMap.set (fun _ => []) c (iv ++ gcmSeal s.vlt.wrapKey iv (toLE 4 c) (s.keyCtx c).record) s.cph.cold } }

/-- Room for one more hot context: a free slot, or the least recently served context that is not pinned and has no work
is evicted and written back. None when no slot can be freed. -/
def State.freeSlot (s : State) : Option State :=
  if s.cph.hot.length < 16384 then some s
  else match s.cph.hot.find? (fun c => !(s.keyCtx c).pin && !s.ctxBusy c) with
    | some c => some (State.writeCold { s with cph := { s.cph with hot := s.cph.hot.filter (· != c) } } c)
    | none => none

/-- A newly installed context is hot while a slot is free (DESIGN CHOICE, assumption log entry 34), and cold otherwise. -/
def State.placeHot (s : State) (c : Nat) : State :=
  if s.isHot c then s
  else if 16384 ≤ s.cph.hot.length then s.writeCold c
  else { s with cph := { s.cph with hot := s.cph.hot ++ [c] } }

/-- Contexts with PIN = 1: at most 8,192 (R247). -/
def State.pinsFull (s : State) : Bool := decide (8192 ≤ (s.cph.ctxs.filter (fun x => x.2.pin)).length)

/-! ## Limits and succession (R249 to R254) -/

/-- A limit of R249 is reached for an encryption of n payload bytes. -/
def KeyCtx.atLimit (k : KeyCtx) (n : Nat) : Bool :=
  k.limit ≤ k.used || (3 ≤ k.alg && k.byteLimit < k.bytes + n)

/-- Succession (R250). -/
def KeyCtx.succeed (k : KeyCtx) : KeyCtx :=
  { k with cur := k.succ, prev := k.cur, succ := none, epoch := k.epoch + 1, used := 0, state := .ACTIVE, p := 0, pb := 0, writing := none }

/-- An encryption must wait for a checkpoint (R254). -/
def KeyCtx.mustWait (k : KeyCtx) (q : CipherReq) : Bool :=
  k.persist && (k.p + 1048576 ≤ k.used + 1 || (q.op == 3 && k.pb + 68719476736 < k.bytes + q.payloadLen))

/-- A checkpoint is due and starts (R254). -/
def KeyCtx.checkpoint (k : KeyCtx) : KeyCtx :=
  if k.persist && k.writing.isNone && (524288 ≤ k.used - k.p || 34359738368 ≤ k.bytes - k.pb) then
    { k with writing := some (k.used, k.bytes) }
  else k

/-- What the checks of R238 answer for a request at its context: a failure status; a wait for a checkpoint; or the
request with its key, epoch and invocation, and the context counted on. -/
inductive Checked where
  | fail (status : Nat) (k : KeyCtx) (succeeded : Bool)
  | wait (k : KeyCtx) (succeeded : Bool)
  | start (q : CipherReq) (k : KeyCtx) (succeeded : Bool)

/-- The request starts under a context's counters (R242, R249). -/
def startRequest (q : CipherReq) (k : KeyCtx) (succeeded : Bool) : Checked :=
  let cur := k.cur.getD ⟨[], 0, 0, false, 0⟩
  let usePrev := q.op = 2 ∧ q.epochField ≠ k.epoch.toNat
  let m := if usePrev then k.prev.getD cur else cur
  let inv := k.ivPrefix.toNat * 2 ^ 48 + k.used
  let q' := { q with inv := if q.op = 1 then inv else 0, key := m.material, fixed := m.fixed.toNat, epoch := if usePrev then q.epochField else k.epoch.toNat }
  let k' := if q.op = 1 then { k with used := k.used + 1, wait := false }
    else if q.op = 3 then { k with used := k.used + 1, bytes := k.bytes + q.payloadLen, wait := false }
    else k
  .start q' k'.checkpoint succeeded

/-- Check 9 and what follows it: limits, succession, checkpoint wait (R248, R249, R254). -/
def limitCheck (q : CipherReq) (k : KeyCtx) : Checked :=
  if !q.isEnc then startRequest q k false
  else if k.state = .EXHAUSTED then .fail 0x06 k false
  else if k.atLimit q.payloadLen then
    if k.alg < 3 ∧ k.succ.isSome then
      if q.noSuccession then .fail 0x06 k false
      else
        let k' := k.succeed
        if k'.mustWait q then .wait { k' with wait := true } true else startRequest q k' true
    else .fail 0x06 { k with state := .EXHAUSTED } false
  else if k.mustWait q then .wait { k with wait := true } false
  else startRequest q k false

/-- The checks of R238 in order. -/
def State.checkRequest (s : State) (q : CipherReq) : Checked :=
  let k := s.keyCtx q.ctx
  if q.op = 0 ∨ 5 ≤ q.op ∨ 1 < leAt q.raw 1 1 ∨ leAt q.raw 8 4 ≥ 262144 ∨ leAt q.raw 12 2 ≥ 4096 ∨ leAt q.raw 56 8 ≠ 0 ∨
      (q.isGcm ∧ leAt q.raw 24 8 ≠ 0) then .fail 0x01 k false
  else if q.gen ≠ s.sliceGen q.slc then .fail 0xC4 k false
  else if k.state = .EMPTY then .fail 0xC0 k false
  else if k.state = .LOCKED then .fail 0x0B k false
  else if q.slc ≠ 0 ∧ q.slc ≠ k.owner then .fail 0xC2 k false
  else if q.isGcm ≠ decide (k.alg < 3) then .fail 0xC3 k false
  else if (q.isGcm ∧ (16777216 < q.payloadLen ∨ 4096 < q.aadLen)) ∨
      (¬ q.isGcm ∧ (q.payloadLen % 16 ≠ 0 ∨ q.payloadLen < 512 ∨ 65536 < q.payloadLen ∨ q.aadLen ≠ 0)) then .fail 0x02 k false
  else if q.op = 2 ∧ q.epochField ≠ k.epoch.toNat ∧ ¬ (k.prev.isSome ∧ (q.epochField + 1) % 256 = k.epoch.toNat) then
    .fail 0xC0 k false
  else limitCheck q k

/-! ## Submission and sharing (R239, R241) -/

/-- A request takes a place in the queue; a context that becomes ready joins the round at its end. -/
def State.queueCipher (s : State) (q : CipherReq) : State :=
  let s := { s with cph := { s.cph with queue := s.cph.queue ++ [q] } }
  if s.cph.round.any (fun x => x.1 == q.ctx) then s
  else { s with cph := { s.cph with round := s.cph.round ++ [(q.ctx, 0)] } }

/-- A request is submitted: with 65,536 queued it waits at its requester (R239). -/
def State.submitCipher (s : State) (q : CipherReq) : State :=
  if s.cph.queue.length < 65536 && s.cph.held.isEmpty then s.queueCipher q
  else { s with cph := { s.cph with held := s.cph.held ++ [q] } }

/-- Requests that wait at their requesters take the places now free, in order. -/
def State.refillQueue (s : State) : State :=
  let n := 65536 - s.cph.queue.length
  (s.cph.held.take n).foldl (fun s q => s.queueCipher q) { s with cph := { s.cph with held := s.cph.held.drop n } }

def State.nextOf (s : State) (c : Nat) : Option CipherReq := s.cph.queue.find? (fun q => q.ctx == c)

/-- Removes the first queued request of a context. -/
def dropFirstOf (c : Nat) : List CipherReq → List CipherReq
  | [] => []
  | q :: qs => if q.ctx = c then qs else q :: dropFirstOf c qs

def State.takeNext (s : State) (c : Nat) : State :=
  State.refillQueue { s with cph := { s.cph with queue := dropFirstOf c s.cph.queue } }

/-- A context with nothing queued leaves the round. -/
def State.tidyRound (s : State) : State :=
  { s with cph := { s.cph with round := s.cph.round.filter (fun x => s.ctxBusy x.1) } }

/-- A turn of a context ends: while its WEIGHT gives it more turns in this round it keeps its place, and otherwise it joins the next round
at the end (R241). -/
def State.endTurn (s : State) (c : Nat) : State :=
  let r := match s.cph.round.find? (fun x => x.1 == c) with
    | some (_, n) =>
      if n + 1 < (s.keyCtx c).weight then s.cph.round.map (fun x => if x.1 = c then (c, n + 1) else x)
      else s.cph.round.filter (fun x => x.1 != c) ++ [(c, 0)]
    | none => s.cph.round
  { s with cph := { s.cph with round := r } }

/-- Engines that serve contexts of a slice. -/
def State.enginesOf (s : State) (n : Nat) : Nat :=
  (s.cph.engines.filter (fun x => match x.2.work with
    | .unit c _ _ _ => (s.keyCtx c).owner == n
    | .turn c _ => (s.keyCtx c).owner == n
    | .idle => false)).length

/-- The slice's cipher share allows one more engine (R241, R321). -/
def State.shareAllows (s : State) (c : Nat) : Bool :=
  let n := (s.keyCtx c).owner
  n == 0 || decide (s.enginesOf n < s.fld Fld.SLC_GRANT_R_CIPHER_SHARE n)

/-- A context can be dispatched: a request queued, not in service, hot or without a key to load, within its share. -/
def State.ready (s : State) (c : Nat) : Bool :=
  (s.nextOf c).isSome && !s.inService c && !(s.keyCtx c).wait && s.shareAllows c &&
  (s.isHot c || (s.keyCtx c).state == .EMPTY || (s.keyCtx c).state == .LOCKED)

/-- The engine is in the pool and has nothing to do. -/
def State.engineFree (s : State) (e : Nat) : Bool :=
  let x := s.engine e
  x.state == .IN_SERVICE && x.work == .idle && s.domainOn (groupOf e)

/-- Engines in the pool (R257); those of a group that is OFF are out of it (R453). -/
def State.pool (s : State) : List Nat :=
  (List.range 36).filter (fun e => (s.engine e).state == .IN_SERVICE && (s.domain (groupOf e)).state != .OFF)
def State.anyInService (s : State) : Bool := !s.pool.isEmpty

/-- The dispatcher wakes an engine's sleeping group (R456): a context waits, no awake engine is free, no group is waking
for a unit already, and no sleeping group of the submitter's die comes first. -/
def State.wakesGroup (s : State) (e : Nat) : Bool :=
  match (s.cph.round.find? (fun y => s.ready y.1)).bind (fun y => s.nextOf y.1) with
  | none => false
  | some q =>
    !((List.range 36).any s.engineFree) && !((List.range 6).any (fun g => (s.domain (24 + g)).state == .WAKING)) &&
    !(q.die != e / 18 && (List.range 3).any (fun g => (s.domain (24 + 3 * q.die + g)).state == .ASLEEP))

/-- The first unit, or the next unit, of a context's head request starts on an engine, or the request fails (R238). -/
def State.runNext (s : State) (e c turnBytes : Nat) : State :=
  match s.nextOf c with
  | none => s
  | some q =>
    if 0 < q.units then
      (((s.takeNext c).touchHot c).setEngine e { s.engine e with work := .unit c turnBytes q.nextUnit q })
    else match s.checkRequest q with
      | .fail st k suc =>
        let s := (s.takeNext c).setKeyCtx c k
        let s := if suc then s.bump .CPH_SUCCESSIONS 0 else s
        (s.refuseCipher q st).tidyRound
      | .wait k suc =>
        let s := if (s.keyCtx c).wait then s else s.bump .CPH_CKPT_STALLS 0
        let s := if suc then s.bump .CPH_SUCCESSIONS 0 else s
        ((s.setKeyCtx c k).setEngine e { s.engine e with work := .idle }).endTurn c
      | .start q k suc =>
        let s := if suc then s.bump .CPH_SUCCESSIONS 0 else s
        (((s.takeNext c).setKeyCtx c k).touchHot c).setEngine e { s.engine e with work := .unit c turnBytes q.nextUnit q }

/-- Engine e takes work (R234, R241): the next unit of the turn it holds while the turn's bytes allow it, and otherwise
the first context of the round that is ready. A free engine on the submitter's die is preferred to one on the other. -/
def State.dispatch (s : State) (e : Nat) : State :=
  let x := s.engine e
  if !s.anyInService then
    match s.cph.queue with
    | q :: _ => ((s.takeNext q.ctx).refuseCipher q 0x0B).tidyRound
    | [] => s
  else if x.state ≠ .IN_SERVICE then s
  else if !s.domainOn (groupOf e) then (if s.wakesGroup e then s.touchDomain (groupOf e) else s)
  else
    let fresh := fun (s : State) =>
      match s.cph.round.find? (fun y => s.ready y.1) with
      | none => s
      | some (c, _) =>
        match s.nextOf c with
        | none => s
        | some q =>
          if q.die ≠ e / 18 ∧ (List.range 18).any (fun i => s.engineFree (18 * q.die + i)) then s
          else s.runNext e c 0
    match x.work with
    | .unit _ _ _ _ => s
    | .idle => fresh s
    | .turn c n =>
      match s.nextOf c with
      | some q =>
        if n + q.nextUnit ≤ 65536 then s.runNext e c n
        else fresh ((s.setEngine e { x with work := .idle }).endTurn c)
      | none => fresh (((s.setEngine e { x with work := .idle }).endTurn c).tidyRound)

/-! ## Units (R240 to R245) -/

/-- The 96-bit IV (R242). -/
def gcmIv (fixed inv : Nat) : List Byte := toBE 4 fixed ++ toBE 8 inv
def CipherReq.iv (q : CipherReq) : List Byte := gcmIv q.fixed (if q.op = 1 then q.inv else q.ivField)

/-- The additional data, and the payload octets of the next unit, which counts the additional data first (R240). -/
def CipherReq.aad (q : CipherReq) : List Byte := slice q.input 0 q.aadLen
def CipherReq.unitPayload (q : CipherReq) : List Byte :=
  let a := 65536 * q.units - q.aadLen
  slice q.input (q.aadLen + a) (min q.total (65536 * (q.units + 1)) - q.aadLen - a)

/-- The next unit processed: the request with its running state after it (R240, R245). -/
def CipherReq.process (q : CipherReq) : CipherReq :=
  let part := q.unitPayload
  if q.isGcm then
    let h := gcmSubkey q.key
    let out := gctr q.key q.iv q.out.length part
    let g := if q.units = 0 then gcmStart q.key q.aad else q.hash
    { q with units := q.units + 1, hash := g.absorb h (if q.op = 1 then out else part), out := q.out ++ out }
  else { q with units := q.units + 1, out := if q.op = 3 then xtsSeal q.key q.tweak part else xtsOpen q.key q.tweak part }

/-- The tag of a message all of whose units are done. -/
def CipherReq.tag (q : CipherReq) : List Byte := gcmTag q.key q.iv q.hash q.aadLen q.payloadLen

/-- All units of a request are done: its output and result. -/
def State.finishRequest (s : State) (q : CipherReq) : State :=
  match q.op with
  | 1 => s.completeCipher q 0 q.epoch (q.payloadLen + 16) q.inv (q.out ++ q.tag)
  | 2 =>
    if q.tag = slice q.input (q.aadLen + q.payloadLen) 16 then s.completeCipher q 0 q.epoch q.payloadLen 0 q.out
    else (s.completeCipher q 0x05 q.epoch q.payloadLen 0 (s.freeBytes q.payloadLen)).drewN q.payloadLen
  | _ => s.completeCipher q 0 q.epoch q.payloadLen 0 q.out

/-- Output of a message that goes on is written to the space of a thread as it is produced (R244); the engines keep theirs in staging. -/
def State.passOutput (s : State) (q : CipherReq) : CipherReq × State :=
  match q.requester with
  | .thread .. =>
    ({ q with sent := q.out.length },
     { s with cph := { s.cph with
         results := s.cph.results ++ [CipherResult.mk q.requester q.cookie [] (q.out.drop q.sent) (q.dst + q.sent)] } })
  | _ => (q, s)

/-- An engine finishes its unit: the request completes, or its next unit waits at the head of its context (R240). -/
def State.unitDone (s : State) (e : Nat) : State :=
  match (s.engine e).work with
  | .unit c tb ub q =>
    let s := s.setEngine e { s.engine e with work := .turn c (tb + ub) }
    let q := q.process
    if q.units < q.unitCount then
      let p := s.passOutput q
      { p.2 with cph := { p.2.cph with queue := p.1 :: p.2.cph.queue } }
    else s.finishRequest q
  | _ => s

/-! ## Locks, errors (R248, R257) -/

/-- An engine's unit ends at once with a status, and with it the turn. Its output is undefined, and OUT_LEN counts what the unit had
written of it by then, which the spec leaves open. -/
def State.abortUnit (s : State) (e status : Nat) : State :=
  match (s.engine e).work with
  | .unit c _ ub q =>
    let m := s.free.toNat % (ub + 1)
    let s := s.drew
    let out := q.out ++ s.freeBytes m
    ((((s.drewN m).setEngine e { s.engine e with work := .idle }).completeCipher q status q.epoch out.length q.inv out).endTurn c).tidyRound
  | .turn c _ => (s.setEngine e { s.engine e with work := .idle }).endTurn c
  | .idle => s

/-- Locks a context (R248): its unit in service and its queued requests complete with CURTAIN; its keys stay. -/
def State.lockCtx (s : State) (c : Nat) : State :=
  let k := s.keyCtx c
  if k.state = .EMPTY ∨ k.state = .LOCKED then s
  else
    let s := s.setKeyCtx c { k with state := .LOCKED, held := k.state, wait := false }
    let s := (List.range 36).foldl (fun s e => if (s.engine e).work.holds c then s.abortUnit e 0x0B else s) s
    let qs := s.cph.queue.filter (fun q => q.ctx == c)
    let s := { s with cph := { s.cph with queue := s.cph.queue.filter (fun q => q.ctx != c) } }
    (qs.foldl (fun s q => s.refuseCipher q 0x0B) s).tidyRound.refillQueue

/-- A context is locked for a cause of its own (R465): the LOCK command, an unwrap failure, a vote, an error in its slot, its export. -/
def State.lockOwn (s : State) (c : Nat) : State :=
  let s := s.lockCtx c
  if (s.keyCtx c).state = .EMPTY then s else s.setKeyCtx c { s.keyCtx c with own := true }

/-- Every context that holds a key is locked. -/
def State.lockAll (s : State) (which : Nat → KeyCtx → Bool) : State :=
  (s.cph.ctxs.filter (fun x => which x.1 x.2)).foldl (fun s x => s.lockCtx x.1) s

/-- A context locked with its owner's scope, with no cause of its own, returns to the state held before the lock (R467). -/
def State.unlockCtx (s : State) (c : Nat) : State :=
  let k := s.keyCtx c
  if k.state = .LOCKED && !k.own then s.setKeyCtx c { k with state := k.held } else s

/-- An engine leaves the pool with its unit ended as ENGINE_FAULT (R257 steps 1 to 3). -/
def State.engineFails (s : State) (e : Nat) : State :=
  let s := s.abortUnit e 0xC1
  s.setEngine e { s.engine e with state := .TESTING, faults := min 255 ((s.engine e).faults + 1), work := .idle }

/-! ## Checkpoints (R253 to R256) -/

/-- The sequence of a record advances with a write of it (R261). -/
def Store.written (t : Store) (r : StoreRecord) : Store :=
  { t with seqs := (r, ((t.seqs.find? (fun x => x.1 == r)).map (·.2)).getD 0 + 1) :: t.seqs.filter (fun x => x.1 != r) }

/-- A record written to both mirrors (R262). -/
def State.writeStore (s : State) (r : StoreRecord) (f : Store → Store) : State :=
  { s with vlt := { s.vlt with store := (f s.vlt.store).written r } }

/-- A counter record in a mirror's list. -/
def putRecord (r : CounterRec) (list : List CounterRec) : List CounterRec := list.filter (fun x => x.keyId != r.keyId) ++ [r]

/-- The counter record of a key, written. -/
def State.putCounter (s : State) (r : CounterRec) : State :=
  s.writeStore (.counter r.keyId) (fun t => { t with counters := putRecord r t.counters, countersB := putRecord r t.countersB })

def State.counterOf (s : State) (id : BitVec 64) : Option CounterRec := s.vlt.store.counters.find? (fun x => x.keyId == id)

/-- The checkpoint under way of a context is held by both mirrors. -/
def State.checkpointDone (s : State) (c : Nat) : State :=
  let k := s.keyCtx c
  match k.writing, k.cur with
  | some (u, b), some m =>
    let k := { k with p := u, pb := b, writing := none, wait := false }
    (s.putCounter ⟨m.id, u, b, false, true⟩).setKeyCtx c k.checkpoint
  | _, _ => s

/-- The records of a PERSIST context written exact and clean, a staged successor's too (R255). -/
def State.cleanCtx (s : State) (k : KeyCtx) : State :=
  if !k.persist || k.state == .EMPTY then s
  else
    let s := match k.cur with
      | some m => s.putCounter ⟨m.id, k.used, k.bytes, true, true⟩
      | none => s
    match k.succ with
    | some m => s.putCounter ⟨m.id, 0, 0, true, true⟩
    | none => s

/-- Every PERSIST record written exact and clean (R255). -/
def State.cleanRecords (s : State) : State :=
  let t := s.cph.ctxs.foldl (fun s x => s.cleanCtx x.2) s
  { t with cph := { t.cph with ctxs := t.cph.ctxs.map (fun x => (x.1, { x.2 with writing := none })) } }

/-- Checkpoints under way as the supply or the vault stops: each mirror holds the new record or the one before, which the spec leaves
open (R254, R262). -/
def State.tearCheckpoints (s : State) : State :=
  s.cph.ctxs.foldl (fun s x => match x.2.writing, x.2.cur with
    | some (u, b), some m =>
      let r : CounterRec := ⟨m.id, u, b, false, true⟩
      let v := s.free.toNat
      let s := s.drew
      let t := s.vlt.store
      { s with vlt := { s.vlt with store := { t with
          counters := if bit v 0 then putRecord r t.counters else t.counters
          countersB := if bit v 1 then putRecord r t.countersB else t.countersB } } }
    | _, _ => s) s

/-- A counter record read at LOADING from the copies whose CRC is valid (R256, R262): the larger P and PB, clean where both are; invalid
where neither is. -/
def mergeCounter (a b : Option CounterRec) (keyId : BitVec 64) : CounterRec :=
  match a, b with
  | some a, some b => { keyId := keyId, p := max a.p b.p, pb := max a.pb b.pb, clean := a.clean && b.clean, valid := a.valid && b.valid }
  | some a, none => a
  | none, some b => b
  | none, none => ⟨keyId, 0, 0, false, false⟩

/-- The mirrors made alike at LOADING; bad names the copies whose CRC fails (R262). Of the other records both mirrors hold the same, and one
valid copy gives it. -/
def State.mergeMirrors (s : State) (bad : List (Fin 2 × StoreRecord)) : State :=
  let t := s.vlt.store
  let ids := (t.counters ++ t.countersB).map (·.keyId) |>.eraseDups
  let copy := fun (m : Fin 2) (list : List CounterRec) (id : BitVec 64) =>
    if bad.contains (m, .counter id) then none else list.find? (fun x => x.keyId == id)
  let all := ids.map (fun id => mergeCounter (copy 0 t.counters id) (copy 1 t.countersB id) id)
  { s with vlt := { s.vlt with store := { t with counters := all, countersB := all } } }

/-- Neither copy of a critical record is valid (R262). -/
def criticalLost (bad : List (Fin 2 × StoreRecord)) : Bool :=
  [0, 1, 2, 3, 4, 5].any (fun n => bad.contains (0, .critical n) && bad.contains (1, .critical n))

/-- A context is emptied: its keys go, its work ends, its voted fields stand afresh. -/
def State.emptyCtx (s : State) (c : Nat) : State :=
  let s := s.lockCtx c
  let s := { s with cph := { s.cph with hot := s.cph.hot.filter (· != c), cold := SMap.set (fun _ => []) c [] s.cph.cold } }
  (s.setKeyCtx c {}).healVoted (fun f => f.reg.info.block == .CPH && f.idx == c)

end Sys2Proof.Machine
end

