-- ==== Sys2Proof/Machine/Checksum.lean ====
section
/-! DEFINITION. Header positions in a frame and the checksums of R107 to R109 and R215: 16-bit one's-complement sums of
IPv4, TCP and UDP, outer and inner, written, checked and updated. -/

namespace Sys2Proof.Machine

/-- Where the headers of one level lie: the Ethernet header, its end, the IP header with its version, and the L4 header
with its protocol. -/
structure Heads where
  eth : Nat := 0
  l2End : Nat := 14
  tags : Nat := 0
  etherType : Nat := 0
  ip : Option (Nat × Bool) := none
  l4 : Option (Nat × Nat) := none

/-- The L4 header behind at most left extension headers from offset o; none behind a fragment or one extension header more, where the
parser stops (R121, R124). -/
def ipv6L4 (bs : List Byte) : Nat → Nat → Nat → Option (Nat × Nat)
  | 0, o, nh => if nh = 44 ∨ isIpv6Ext nh then none else some (o, nh)
  | left + 1, o, nh =>
    if nh = 44 then none
    else if isIpv6Ext nh then ipv6L4 bs left (o + 8 * (beAt bs (o + 1) 1 + 1)) (beAt bs o 1)
    else some (o, nh)

/-- The IP header of an EtherType at an offset, and the L4 header the parser finds behind it: none of a fragment, nor behind IPv4
options (R121, R124). -/
def ipHeads (bs : List Byte) (h : Heads) (o et : Nat) : Heads :=
  if et = 0x0800 ∧ o + 20 ≤ bs.length then
    let ihl := bits (beAt bs o 1) 0 4
    let frag := bits (beAt bs (o + 6) 2) 0 13 ≠ 0 ∨ bits (beAt bs (o + 6) 2) 13 1 = 1
    { h with ip := some (o, true), l4 := if frag ∨ 5 < ihl then none else some (o + 20, beAt bs (o + 9) 1) }
  else if et = 0x86DD ∧ o + 40 ≤ bs.length then
    { h with ip := some (o, false), l4 := ipv6L4 bs 2 (o + 40) (beAt bs (o + 6) 1) }
  else h

/-- The headers from an Ethernet header at offset o, up to two tags passed. -/
def ethHeads (c : ParseIn) (bs : List Byte) (o : Nat) : Heads :=
  let et := beAt bs (o + 12) 2
  if et = 0x8100 ∨ et = c.outerTpid then
    let et2 := beAt bs (o + 16) 2
    if et2 = c.innerTpid then
      let et3 := beAt bs (o + 20) 2
      ipHeads bs { eth := o, l2End := o + 22, tags := 2, etherType := et3 } (o + 22) et3
    else ipHeads bs { eth := o, l2End := o + 18, tags := 1, etherType := et2 } (o + 18) et2
  else ipHeads bs { eth := o, l2End := o + 14, tags := 0, etherType := et } (o + 14) et

/-- The inner headers of a VXLAN or Geneve frame. -/
def innerHeads (c : ParseIn) (bs : List Byte) (h : Heads) : Option Heads :=
  match h.l4 with
  | some (o, 17) =>
    let dst := beAt bs (o + 2) 2
    if dst = c.vxlan then some (ethHeads c bs (o + 16))
    else if dst = c.geneve then
      let stop := o + 16 + 4 * bits (beAt bs (o + 8) 1) 0 6
      let ty := beAt bs (o + 10) 2
      if ty = 0x6558 then some (ethHeads c bs stop)
      else some (ipHeads bs { eth := stop, l2End := stop, etherType := ty } stop ty)
    else none
  | _ => none

/-! ## One's-complement sums -/

/-- Sum of 16-bit big-endian words, an odd last octet padded. -/
def sumWords : List Byte → Nat
  | [] => 0
  | [a] => 256 * a.toNat
  | a :: b :: rest => 256 * a.toNat + b.toNat + sumWords rest

/-- Folded to 16 bits in one's-complement arithmetic. -/
def fold16 (n : Nat) : Nat := if n = 0 then 0 else (n - 1) % 65535 + 1

/-- The checksum of octets whose checksum field is zero. -/
def csum16 (n : Nat) : Nat := 65535 - fold16 n

/-- The L4 octets of an IP packet: from the L4 header to the IP length. -/
def l4Span (bs : List Byte) (ip : Nat × Bool) (l4 : Nat) : Nat :=
  if ip.2 then ip.1 + beAt bs (ip.1 + 2) 2 - l4 else ip.1 + 40 + beAt bs (ip.1 + 4) 2 - l4

/-- The pseudo-header sum. -/
def pseudoSum (bs : List Byte) (ip : Nat × Bool) (proto len : Nat) : Nat :=
  (if ip.2 then sumWords (slice bs (ip.1 + 12) 8) else sumWords (slice bs (ip.1 + 8) 32)) + proto + len

/-- Offset of the checksum in an L4 header: TCP 16, UDP 6. -/
def csumField (proto : Nat) : Option Nat := if proto = 6 then some 16 else if proto = 17 then some 6 else none

/-- The IPv4 header with its checksum written (R107). -/
def writeIp4 (bs : List Byte) (h : Heads) : List Byte :=
  match h.ip with
  | some (o, true) =>
    let z := splice bs (o + 10) [0, 0]
    splice z (o + 10) (toBE 2 (csum16 (sumWords (slice z o (4 * bits (beAt z o 1) 0 4)))))
  | _ => bs

/-- The L4 checksum written; a UDP result of zero is sent as 0xFFFF (R107). -/
def writeL4 (bs : List Byte) (h : Heads) : List Byte :=
  match h.ip, h.l4 with
  | some ip, some (o, proto) =>
    match csumField proto with
    | none => bs
    | some f =>
      let n := l4Span bs ip o
      let z := splice bs (o + f) [0, 0]
      let v := csum16 (pseudoSum z ip proto n + sumWords (slice z o n))
      splice z (o + f) (toBE 2 (if proto = 17 ∧ v = 0 then 65535 else v))
  | _, _ => bs

/-- A transmit request's checksum insertions (R107): bits CSUM_IP4, CSUM_L4, CSUM_INNER_IP4, CSUM_INNER_L4. The inner
sums are written first, since an outer sum covers them. A flag for an absent header is ignored (R343). -/
def insertChecksums (c : ParseIn) (bs : List Byte) (req : Nat) : List Byte :=
  let h := ethHeads c bs 0
  let bs := match innerHeads c bs h with
    | some i =>
      let bs := if bit req 2 then writeIp4 bs i else bs
      if bit req 3 then writeL4 bs i else bs
    | none => bs
  let bs := if bit req 0 then writeIp4 bs h else bs
  if bit req 1 then writeL4 bs h else bs

/-- The L3 and L4 results of one level (R109): [1:0] L3, [3:2] L4. -/
def verifyLevel (bs : List Byte) (h : Heads) : Nat :=
  let l3 := match h.ip with
    | some (o, true) => if fold16 (sumWords (slice bs o (4 * bits (beAt bs o 1) 0 4))) = 65535 then 1 else 2
    | _ => 0
  let l4 := match h.ip, h.l4 with
    | some ip, some (o, proto) =>
      match csumField proto with
      | none => 0
      | some f =>
        if bs.length < o + l4Span bs ip o then 0
        else if proto = 17 ∧ beAt bs (o + f) 2 = 0 ∧ ip.2 then 3
        else if fold16 (pseudoSum bs ip proto (l4Span bs ip o) + sumWords (slice bs o (l4Span bs ip o))) = 65535 then 1 else 2
    | _, _ => 0
  l3 + 4 * l4

/-- The four results of R109 for a frame without its FCS. -/
def verifyChecksums (c : ParseIn) (bs : List Byte) : BitVec 8 :=
  let h := ethHeads c bs 0
  BitVec.ofNat 8 (verifyLevel bs h + 16 * (match innerHeads c bs h with
    | some i => verifyLevel bs i
    | none => 0))

/-! ## Incremental update (R108) -/

/-- HC' = ~(~HC + ~m + m') for replaced octets old by new of equal, even length. -/
def rfc1624 (hc : Nat) (old new : List Byte) : Nat :=
  65535 - fold16 ((65535 - hc) + sumWords (old.map (fun b => ~~~b)) + sumWords new)

/-- One L4 checksum updated for a change of covered octets: a UDP zero over IPv4 stays, a UDP result of zero is 0xFFFF. -/
def updateL4 (bs : List Byte) (h : Heads) (old new : List Byte) : List Byte :=
  match h.ip, h.l4 with
  | some ip, some (o, proto) =>
    match csumField proto with
    | none => bs
    | some f =>
      let hc := beAt bs (o + f) 2
      if proto = 17 ∧ hc = 0 ∧ ip.2 then bs
      else
        let v := rfc1624 hc old new
        splice bs (o + f) (toBE 2 (if proto = 17 ∧ v = 0 then 65535 else v))
  | _, _ => bs

/-- The IPv4 header checksum updated for a change of header octets. -/
def updateIp4 (bs : List Byte) (h : Heads) (old new : List Byte) : List Byte :=
  match h.ip with
  | some (o, true) => splice bs (o + 10) (toBE 2 (rfc1624 (beAt bs (o + 10) 2) old new))
  | _ => bs

/-- Replaces n header octets at an even offset within the IP header, updating the header checksum where update is set;
pseudo says that the octets are addresses, which the L4 checksum covers too. -/
def rewriteIp (bs : List Byte) (h : Heads) (at_ : Nat) (new : List Byte) (update pseudo : Bool) : List Byte :=
  match h.ip with
  | none => bs
  | some (o, _) =>
    let old := slice bs (o + at_) new.length
    let bs := splice bs (o + at_) new
    if !update then bs
    else
      let bs := updateIp4 bs h old new
      if pseudo then updateL4 bs h old new else bs

/-- Replaces the L4 port pair, updating the L4 checksum. -/
def rewritePort (bs : List Byte) (h : Heads) (at_ : Nat) (new : List Byte) (update : Bool) : List Byte :=
  match h.l4 with
  | none => bs
  | some (o, _) =>
    let old := slice bs (o + at_) new.length
    let bs := splice bs (o + at_) new
    if update then updateL4 bs h old new else bs

/-- The traffic class of an IP header, and the header with it replaced (DSCP and ECN). -/
def tosOf (bs : List Byte) (h : Heads) : Nat :=
  match h.ip with
  | some (o, true) => beAt bs (o + 1) 1
  | some (o, false) => bits (beAt bs o 2) 4 8
  | none => 0

def withTos (bs : List Byte) (h : Heads) (tos : Nat) (update : Bool) : List Byte :=
  match h.ip with
  | some (_, true) => rewriteIp bs h 0 (slice bs (h.l2End) 1 ++ [BitVec.ofNat 8 tos]) update false
  | some (o, false) => splice bs o (toBE 2 (setBits (beAt bs o 2) 4 8 tos))
  | none => bs

end Sys2Proof.Machine
end

