-- ==== Sys2Proof/Machine/Egress.lean ====
section
/-! DEFINITION. What leaves on an egress: the octets of a copy with its CE mark and its rewrite record (R175, R182), mirror
copies as first received (R184), and the frame a network port puts on the wire with its FCS or stomp code (R100, R107, R110,
R111, R169). -/

namespace Sys2Proof.Machine

/-! ## FCS (R100, R169) -/

/-- CRC-32 of IEEE 802.3 over octets, one byte. -/
def fcsBit (r : BitVec 32) : BitVec 32 := if r.getLsbD 0 then (r >>> 1) ^^^ 0xEDB88320#32 else r >>> 1
def fcsByte (r : BitVec 32) (b : Byte) : BitVec 32 :=
  fcsBit (fcsBit (fcsBit (fcsBit (fcsBit (fcsBit (fcsBit (fcsBit (r ^^^ b.zeroExtend 32))))))))
def fcsOf (bs : List Byte) : BitVec 32 := bs.foldl fcsByte 0xFFFFFFFF#32 ^^^ 0xFFFFFFFF#32

/-- Octets with their FCS, or with the stomp code in its place (R169). -/
def withFcs (bs : List Byte) (stomp : Bool) : List Byte :=
  bs ++ toLE 4 (if stomp then fcsOf bs ^^^ 0xFFFFFFFF#32 else fcsOf bs).toNat

/-! ## Rewriting (R175) -/

/-- The traffic class of the outer header replaced where the frame is IP. -/
def editTos (c : ParseIn) (bs : List Byte) (f : Nat → Nat) (update : Bool) : List Byte :=
  let h := ethHeads c bs 0
  if h.ip.isSome then withTos bs h (f (tosOf bs h)) update else bs

/-- TTL or hop limit of the outer header, if it has one. -/
def ttlOf (c : ParseIn) (bs : List Byte) : Option Nat :=
  match (ethHeads c bs 0).ip with
  | some (o, true) => some (beAt bs (o + 8) 1)
  | some (o, false) => some (beAt bs (o + 7) 1)
  | none => none

/-- TTL or hop limit less one. -/
def decTtl (c : ParseIn) (bs : List Byte) (update : Bool) : List Byte :=
  let h := ethHeads c bs 0
  match h.ip with
  | some (o, true) => rewriteIp bs h 8 [BitVec.ofNat 8 (beAt bs (o + 8) 1 - 1), BitVec.ofNat 8 (beAt bs (o + 9) 1)] update false
  | some (o, false) => splice bs (o + 7) [BitVec.ofNat 8 (beAt bs (o + 7) 1 - 1)]
  | none => bs

/-- VLAN_OP of a rewrite record; a frame without an outer tag has none to pop or replace. -/
def editVlan (c : ParseIn) (bs : List Byte) (op vid pcp : Nat) : List Byte :=
  let tagged := (ethHeads c bs 0).tags != 0
  match op with
  | 1 => bs.take 12 ++ toBE 2 0x8100 ++ toBE 2 (pcp * 2 ^ 13 + vid) ++ bs.drop 12
  | 2 => if tagged then bs.take 12 ++ bs.drop 16 else bs
  | 3 => if tagged then splice bs 14 (toBE 2 (setBits (beAt bs 14 2) 0 12 vid)) else bs
  | _ => bs

/-- A rewrite record applied to octets without FCS. -/
def applyRewrite (c : ParseIn) (bs : List Byte) (v : BitVec 256) (update : Bool) : List Byte :=
  let bs := if recField v 96 1 = 1 then splice bs 0 (toBE 6 (recField v 0 48)) else bs
  let bs := if recField v 97 1 = 1 then splice bs 6 (toBE 6 (recField v 48 48)) else bs
  let bs := if recField v 98 1 = 1 then decTtl c bs update else bs
  let bs := if recField v 99 1 = 1 then editTos c bs (fun t => recField v 100 6 * 4 + t % 4) update else bs
  editVlan c bs (recField v 106 2) (recField v 108 12) (recField v 120 3)

/-- What the rewrite lookup of a copy answers: no rewriting, a record, a miss, or a TTL that ends the copy. -/
inductive RewriteHit where
  | plain | record (v : BitVec 256) | miss | expired
  deriving DecidableEq, Repr

/-- The rewrite lookup of a copy (R175). -/
def State.rewriteOf (s : State) (k : Copy) (x : Frame) : RewriteHit :=
  if k.kind != .normal || k.rewrite == 0 then .plain
  else if !s.flagAt Fld.SWC_REWRITE_CFG_ENABLE 0 then .miss
  else
    let t := s.fld Fld.SWC_REWRITE_CFG_TABLE 0
    let hit := if s.tableOn t then s.findEntry t (toBE 3 k.rewrite ++ toBE 2 k.port) (fun e => e.visible x.ticket.scene) else none
    match hit with
    | none => .miss
    | some (_, e) =>
      let v := s.action e.action.toNat
      if recField v 98 1 == 1 && (ttlOf (s.parseIn x.octets) x.octets).any (fun n => decide (n ≤ 1)) then .expired else .record v

/-! ## A copy as it is carried -/

/-- The octets a copy is of: of a mirror copy those of the first entry (R184), else the frame's own. -/
def Copy.source (k : Copy) (x : Frame) : List Byte := if k.asFirst then x.first.getD x.octets else x.octets

/-- A frame as a copy of it takes it, before any edit. -/
def Copy.view (k : Copy) (x : Frame) : Frame := { x with octets := k.source x }

/-- The frame a copy carries: its octets with the CE mark and the rewrite record applied; its ticket carries the copy's marks. -/
def State.shown (s : State) (k : Copy) (x : Frame) : Frame :=
  let src := k.source x
  let edited := k.mark || k.record.isSome
  let c := s.parseIn src
  let body := if x.ended && !x.cutShort then src.take (src.length - 4) else src
  let body := if k.mark then editTos c body (fun t => t - t % 4 + 3) k.incr else body
  let body := match k.record with | some v => applyRewrite c body v k.incr | none => body
  let ticket := { x.ticket with ecn := x.ticket.ecn || k.mark, spot := x.ticket.spot || k.spot }
  { x with octets := (if !edited then src else if x.ended && !x.cutShort then withFcs body x.bad else body), ticket := ticket,
           first := some (x.first.getD x.octets) }

/-! ## A frame on the wire of a network port -/

/-- The UDP checksum updated for a change in its payload (R108, R111). -/
def updateUdp (bs : List Byte) (h : Heads) (at_ : Nat) (old new : List Byte) : List Byte :=
  match h.l4 with
  | some (o, 17) => if (at_ - o) % 2 = 0 then updateL4 bs h old new else updateL4 bs h (0 :: old ++ [0]) (0 :: new ++ [0])
  | _ => bs

/-- The octets from o are a PTP event message: messageType 0 to 3 (R111, R343). -/
def ptpEvent (bs : List Byte) (o : Nat) : Bool := o < bs.length && bits (beAt bs o 1) 0 4 < 4

/-- The transmit time written into a PTP event message (R111): 48-bit seconds and 32-bit nanoseconds at its originTimestamp. -/
def writeStamp (c : ParseIn) (bs : List Byte) (t : Nat) : List Byte :=
  let h := ethHeads c bs 0
  let new := toBE 6 (secondsOf t) ++ toBE 4 (nanosOf t)
  if h.etherType = 0x88F7 then (if ptpEvent bs h.l2End then splice bs (h.l2End + 34) new else bs)
  else match h.l4 with
    | some (o, 17) =>
      if beAt bs (o + 2) 2 = 319 && ptpEvent bs (o + 8) then
        let at_ := o + 42
        updateUdp (splice bs at_ new) h at_ (slice bs at_ 10) new
      else bs
    | _ => bs

/-- The octets of a whole copy without FCS, as the MAC sends them before padding. -/
def State.wireBody (s : State) (k : Copy) (x : Frame) : List Byte :=
  let y := s.shown k x
  let body := if y.cutShort then y.octets else y.octets.take (y.octets.length - 4)
  let c := s.parseIn x.octets
  let body := match k.stamp with | some t => writeStamp c body t | none => body
  match x.emit with
  | some e => if k.insert then insertChecksums c body e.csum.toNat else body
  | none => body

/-- A copy on the wire of a network port with MAX_FRAME max, and whether its tail is good: padded to 64 octets, truncated to
exactly max, its FCS or the stomp code at its end. -/
def State.wire (s : State) (k : Copy) (x : Frame) (max : Nat) : List Byte × Bool :=
  let body := s.wireBody k x
  let body := body ++ List.replicate (60 - body.length) 0
  if max < body.length + 4 then (withFcs (body.take (max - 4)) true, false)
  else (withFcs body x.bad, !x.bad)

end Sys2Proof.Machine
end

