-- ==== Sys2Proof/Machine/Switch.lean ====
section
/-! DEFINITION. The switch core and the traffic manager (R164 to R199): the cell accounting and flow control, admission,
groups, shapers, virtual time, timetables, egress editing, tails. -/

namespace Sys2Proof.Machine

/-! ## Cells (R103, R177 to R181) -/

/-- Ingress port and class of a frame's cells. -/
def Frame.ingressIs (x : Frame) (p c : Nat) : Bool := x.inPort == p && (if x.landing then x.rxClass else x.ticket.cls.toNat) == c

def Charge.total (g : Charge) : Nat := g.reserved + g.shared + g.headroom + g.skid

/-- On-die cells charged to ingress (p, c): SWC_IN_USE. -/
def State.inUse (s : State) (p c : Nat) : Nat :=
  (s.swc.frames.filter (fun x => !x.landing && x.ingressIs p c)).foldl (fun n x => n + x.charge.total) 0

/-- Landing-buffer cells of port p and class c. -/
def State.landing (s : State) (p c : Nat) : Nat :=
  (s.swc.frames.filter (fun x => x.landing && x.ingressIs p c)).foldl (fun n x => n + x.cells) 0

/-- Landing-buffer cells of port p. -/
def State.landingPort (s : State) (p : Nat) : Nat :=
  (s.swc.frames.filter (fun x => x.landing && x.inPort == p)).foldl (fun n x => n + x.cells) 0

/-- The ingress accounting of R103. -/
def State.accounting (s : State) (p c : Nat) : Nat := s.landing p c + s.inUse p c

/-- Reserved cells: MIN and HEADROOM over all ingress ports and classes (R177). -/
def State.reservedCells (s : State) : Nat :=
  (s.regs.filter (fun x => x.1 / 16777216 == RegName.SWC_IN_RESERVE.ctorIdx)).foldl
    (fun n x => n + fieldOf x.2 0 21 + fieldOf x.2 32 21) 0

/-- SWC_POOL.SHARED (R177); negative when reservations exceed the pool. -/
def State.sharedPart (s : State) : Int :=
  (1048576 : Int) - (s.reservedCells : Int) - (s.fld Fld.SWC_POOL_SKID 0 : Int)

def State.sharedFree (s : State) : Nat :=
  (s.sharedPart - ((s.swc.frames.foldl (fun n x => n + x.charge.shared) 0 : Nat) : Int)).toNat

def State.skidFree (s : State) : Nat :=
  s.fld Fld.SWC_POOL_SKID 0 - s.swc.frames.foldl (fun n x => n + x.charge.skid) 0

/-- Cells of a copy. -/
def State.copyCells (s : State) (c : Copy) : Nat :=
  match s.frame? c.frame with
  | some x => (c.view x).cells
  | none => 0

/-- On-die and spilled depth of queue (p, c): SWC_Q_DEPTH. -/
def State.depthOf (s : State) (p c : Nat) (spilled : Bool) : Nat :=
  (s.swc.copies.filter (fun k => k.port == p && k.cls == c && k.spilled == spilled)).foldl (fun n k => n + s.copyCells k) 0

def State.depth (s : State) (p c : Nat) : Nat := s.depthOf p c false + s.depthOf p c true

/-- Cells charged to a slice's buffer quota (R179). -/
def State.sliceCells (s : State) (n : Nat) : Nat :=
  (s.swc.frames.filter (fun x => !x.lossless && x.ticket.slice.toNat == n && x.phase == .forwarded)).foldl
    (fun k x => k + x.charge.total) 0

/-- Class c is lossless (R178). -/
def State.losslessClass (s : State) (c : Nat) : Bool := bit (s.fld Fld.SWC_LOSSLESS_CLASSES 0) c

/-- Takes n cells for a non-lossless frame: shared, then skid; the cells that found room (R178). -/
def State.takeShared (s : State) (g : Charge) (n : Nat) : Charge × Nat :=
  let a := min n s.sharedFree
  let b := min (n - a) s.skidFree
  ({ g with shared := g.shared + a, skid := g.skid + b }, a + b)

/-- Takes n cells for a lossless frame of ingress (p, c): MIN, shared below XOFF_HIGH, HEADROOM (R180). -/
def State.takeLossless (s : State) (p c : Nat) (g : Charge) (n : Nat) : Charge × Nat :=
  let held := s.swc.frames.filter (fun x => !x.landing && x.ingressIs p c)
  let a := min n (s.fld Fld.SWC_IN_RESERVE_MIN (8 * p + c) - held.foldl (fun k x => k + x.charge.reserved) 0)
  let room := if p < 256 then s.fld Fld.PRT_PFC_WM_XOFF_HIGH (8 * p + c) - s.inUse p c - a else n
  let b := min (min (n - a) s.sharedFree) room
  let h := min (n - a - b) (s.fld Fld.SWC_IN_RESERVE_HEADROOM (8 * p + c) - held.foldl (fun k x => k + x.charge.headroom) 0)
  ({ g with reserved := g.reserved + a, shared := g.shared + b, headroom := g.headroom + h }, a + b + h)

/-! ## Pause and priority flow control sent (R102 to R104) -/

/-- Priorities of port p mapped to class c, as a vector. -/
def State.prioritiesOf (s : State) (p c : Nat) : BitVec 8 :=
  BitVec.ofNat 8 ((List.range 8).foldl (fun v q =>
    if bits (s.fld Fld.PRT_CLASS_MAP_CLASS p) (3 * q) 3 = c then v + 2 ^ q else v) 0)

def State.pauseMode (s : State) (p : Nat) : Nat := s.fld Fld.PRT_CONFIG_PAUSE_MODE p

def noTime : Nat → Nat := fun _ => 0

/-- n pause quanta of a port in ns: 512 bit times each at its rate (R105). -/
def State.quantaTime (s : State) (p n : Nat) : Nat := ceilDiv (64 * n) (s.portRate p)

/-- Sends XOFF or XON for class c of port p (bit 0 stands for the port in PAUSE mode), and records it: a frame of 64 octets (R117). -/
def State.sendPause (s : State) (p c : Nat) (off : Bool) : State :=
  let x := s.port p
  let quanta : BitVec 16 := if off then BitVec.ofNat 16 (s.fld Fld.PRT_PAUSE_TIME_QUANTA p) else 0
  let pfc := s.pauseMode p == 2
  let s := s.setPort p { x with xoff := BitVec.ofNat 8 (setBits x.xoff.toNat c 1 (flag off)),
                                xoffAt := if off then SMap.set noTime c s.elapsed x.xoffAt else x.xoffAt }
  let s := ((s.bump .PRT_PAUSE_TX p).bump .PRT_TX_FRAMES p).bumpBy .PRT_TX_OCTETS p 64
  s.emit (.pause p pfc (if pfc then s.prioritiesOf p c else 0) quanta)

/-- Compares one watermark with an accounting and sends what a crossing asks for. -/
def State.pauseCheckAt (s : State) (p c acc : Nat) : State :=
  let held := (s.port p).xoff.getLsbD c
  if !held && s.fld Fld.PRT_PFC_WM_XOFF_HIGH (8 * p + c) < acc then s.sendPause p c true
  else if held && acc < s.fld Fld.PRT_PFC_WM_XON_LOW (8 * p + c) then s.sendPause p c false
  else s

/-- Sends XOFF or XON for a port whose accounting crossed a watermark (R103). -/
def State.pauseCheck (s : State) (p : Nat) : State :=
  if 256 ≤ p then s
  else match s.pauseMode p with
    | 1 => s.pauseCheckAt p 0 ((List.range 8).foldl (fun n c => n + s.accounting p c) 0)
    | 2 => (List.range 8).foldl (fun s c => s.pauseCheckAt p c (s.accounting p c)) s
    | _ => s

/-! ## Token buckets (R192 to R194) -/

/-- Keys of the shapers: queue 8p + c, port p, slice delivery and send. -/
def bucketKey (k : ShaperKind) (i : Nat) : Nat :=
  match k with
  | .queue => i
  | .port => 65536 + i
  | .sliceDeliver => 131072 + i
  | .sliceSend => 196608 + i

def shaperReg (k : ShaperKind) : RegName :=
  match k with
  | .queue => .TMS_Q_SHAPER
  | .port => .TMS_PORT_SHAPER
  | .sliceDeliver => .SLC_DELIVER_SHAPER
  | .sliceSend => .SLC_SEND_SHAPER

def bucketDefault : Nat → Bucket := fun _ => {}

/-- Tokens of a shaper at the present core cycle: RATE units a cycle up to BURST (R192). -/
def State.tokens (s : State) (k : ShaperKind) (i : Nat) : Int :=
  let b := SMap.get bucketDefault s.tms.buckets (bucketKey k i)
  let v := s.reg (shaperReg k) i
  min (b.tokens + ((s.clk.core - b.cycle : Nat) : Int) * (fieldOf v 0 21 : Int)) ((fieldOf v 32 24 : Int) * 12800)

def State.setTokens (s : State) (k : ShaperKind) (i : Nat) (n : Int) : State :=
  let b : Bucket := { tokens := n, cycle := s.clk.core }
  { s with tms := { s.tms with buckets := SMap.set bucketDefault (bucketKey k i) b s.tms.buckets } }

/-- A shaper is off, or holds tokens of at least 0 (R187, R192). -/
def State.conforming (s : State) (k : ShaperKind) (i : Nat) : Bool :=
  fieldOf (s.reg (shaperReg k) i) 0 21 == 0 || decide (0 ≤ s.tokens k i)

/-- Adds units to a shaper, capped at its burst (R192, R193). -/
def State.chargeShaper (s : State) (k : ShaperKind) (i : Nat) (units : Int) : State :=
  if fieldOf (s.reg (shaperReg k) i) 0 21 = 0 then s
  else s.setTokens k i (min (s.tokens k i + units) ((fieldOf (s.reg (shaperReg k) i) 32 24 : Int) * 12800))

/-- The shapers that govern a copy: its queue's, its slice's on a host link, its port's (R192). -/
def State.chargeCopy (s : State) (c : Copy) (units : Int) : State :=
  let s := s.chargeShaper .queue (8 * c.port + c.cls) units
  let s := if 256 ≤ c.port ∧ c.port < 320 then s.chargeShaper .sliceDeliver c.slice units else s
  s.chargeShaper .port c.port units

/-! ## Timetables (R198, R199) -/

/-- A stretch of a timetable's cycle (R198): its start and end, its mask, and the number of its entry. -/
structure Segment where
  start : Nat
  stop : Nat
  mask : BitVec 8
  entry : Nat
  deriving DecidableEq, Repr

/-- The entries of a list over one cycle (R198): one of duration 0 is skipped, and the last of the others stays in force to the end. -/
def segmentsFrom (cycle : Nat) : Nat → Nat → List (BitVec 8 × Nat) → List Segment
  | _, _, [] => []
  | at_, n, (m, d) :: rest =>
    if cycle ≤ at_ then []
    else if d = 0 then segmentsFrom cycle at_ (n + 1) rest
    else
      let stop := if rest.all (fun x => x.2 == 0) then cycle else min cycle (at_ + d)
      { start := at_, stop := stop, mask := m, entry := n } :: segmentsFrom cycle (at_ + d) (n + 1) rest

def Timetable.segments (t : Timetable) : List Segment := segmentsFrom t.cycle 0 0 t.entries

def operDefault : Nat → Option Timetable := fun _ => none
def State.timetable (s : State) (p : Nat) : Option Timetable :=
  if p < 256 ∧ s.flagAt Fld.TMS_PORT_CFG_TT_EN p then SMap.get operDefault s.tms.oper p else none

/-- Cycle position at a device time (R198). -/
def Timetable.position (t : Timetable) (now : Nat) : Nat := (((now : Int) - (t.base : Int)) % (t.cycle : Int)).toNat

/-- The segment in force at a position. -/
def Timetable.segmentAt (t : Timetable) (pos : Nat) : Option Segment := t.segments.find? (fun x => x.start ≤ pos ∧ pos < x.stop)

/-- Class c's gate of port p is open now. -/
def State.gateOpen (s : State) (p c : Nat) : Bool :=
  match s.timetable p with
  | none => true
  | some t => match t.segmentAt (t.position s.now) with
    | some x => x.mask.getLsbD c
    | none => true

/-- Lengths of the segments from a start onward while class c stays open. -/
def openRun (c : Nat) : List Segment → Nat
  | [] => 0
  | x :: rest => if x.mask.getLsbD c then (x.stop - x.start) + openRun c rest else 0

/-- Time until class c next closes, from a position at which it is open; none when it never closes (R199). -/
def Timetable.untilClose (t : Timetable) (pos c : Nat) : Option Nat :=
  let segs := t.segments
  if segs.all (fun x => x.mask.getLsbD c) then none
  else match t.segmentAt pos with
    | none => none
    | some x =>
      let later := segs.filter (fun y => x.start < y.start)
      let earlier := segs.filter (fun y => y.start < x.start)
      some (x.stop - pos + openRun c (later ++ earlier))

/-- The copy's transmission time ends before its class next closes (R199). -/
def State.fitsWindow (s : State) (p c len : Nat) : Bool :=
  match s.timetable p with
  | none => true
  | some t => match t.untilClose (t.position s.now) c with
    | none => true
    | some w => decide (len ≤ w * s.portRate p)

/-! ## Charged length and virtual time (R188, R190, R191) -/

/-- Estimated length E of a copy at start of transmission (R188). -/
def State.estimate (s : State) (x : Frame) (p : Nat) : Nat :=
  if x.ended then x.octets.length
  else match (parseFrame (s.parseIn x.octets)).ip with
    | some (o, true) => o + beAt x.octets (o + 2) 2 + 4
    | some (o, false) => o + 40 + beAt x.octets (o + 4) 2 + 4
    | none => if p < 256 then s.fld Fld.PRT_CONFIG_MAX_FRAME p else 10240

/-- Charged length L (R188). -/
def State.chargedLength (s : State) (x : Frame) (p : Nat) : Nat := s.estimate x p + s.fld Fld.TMS_PORT_CFG_OVERHEAD p

/-- Sub-queue of a copy: its slice on a host link, one queue otherwise (R186). -/
def subOf (p slc : Nat) : Nat := if 256 ≤ p ∧ p < 320 then slc else 0

def queueKey (p c sub : Nat) : Nat := (8 * p + c) * 4096 + sub
def vKey (p c : Nat) : Nat := if 256 ≤ p ∧ p < 320 then 8 * p + c else 8 * p

/-- V and the last tags are kept whole, beyond the 48 bits a tag shows, so that the later of two is the greater number however far V
has gone since (R190). -/
def vDefault : Nat → Nat := fun _ => 0
def State.vtime (s : State) (p c : Nat) : Nat := SMap.get vDefault s.tms.vtime (vKey p c)

/-- A tag as a whole number near V: within 2^47 of it, as R191 compares. -/
def wholeTag (v : Nat) (t : BitVec 48) : Nat := ((v : Int) + (t - BitVec.ofNat 48 v).toInt).toNat

/-- Head copy of a sub-queue: the oldest copy not started. -/
def State.head (s : State) (p c sub : Nat) : Option Copy :=
  s.swc.copies.find? (fun k => k.port == p && k.cls == c && subOf p k.slice == sub && !k.started)

/-- Replaces the first copy equal to k. -/
def replaceCopy (k k' : Copy) : List Copy → List Copy
  | [] => []
  | c :: cs => if c = k then k' :: cs else c :: replaceCopy k k' cs

def removeCopy (k : Copy) : List Copy → List Copy
  | [] => []
  | c :: cs => if c = k then cs else c :: removeCopy k cs

def State.setCopy (s : State) (k k' : Copy) : State := { s with swc := { s.swc with copies := replaceCopy k k' s.swc.copies } }
def State.dropCopy (s : State) (k : Copy) : State := { s with swc := { s.swc with copies := removeCopy k s.swc.copies } }

/-- Weight of a sub-queue (R190). -/
def State.weightOf (s : State) (p c sub : Nat) : Nat :=
  if 256 ≤ p ∧ p < 320 then s.fld Fld.SLC_WEIGHT_WEIGHT sub else s.fld Fld.TMS_Q_WEIGHT_WEIGHT (8 * p + c)

/-- Tags the head of a sub-queue that has none (R190). A strict class queue of a network or internal port keeps no tag. -/
def State.retag (s : State) (p c sub : Nat) : State :=
  if bit (s.fld Fld.TMS_PORT_CFG_STRICT p) c ∧ ¬ (256 ≤ p ∧ p < 320) then s
  else match s.head p c sub with
    | none => s
    | some k => match k.tag, s.frame? k.frame with
      | none, some x =>
        let inc := ceilDiv (s.chargedLength (k.view x) p * 65536) (max 1 (s.weightOf p c sub))
        let prev := SMap.get vDefault s.tms.lastTag (queueKey p c sub)
        s.setCopy k { k with tag := some (BitVec.ofNat 48 (max (s.vtime p c) prev + inc)) }
      | _, _ => s

/-! ## Groups (R172, R173) -/

/-- The host die still reaches an engine die, and the device is not curtained: internal port usability (R172). -/
def State.engineLinkServes (s : State) (die : Nat) : Bool :=
  !s.flt.spent.contains (17 + die) && !s.deviceCurtained

/-- A cluster runs firmware (R394). -/
def State.clusterRuns (s : State) (n : Nat) : Bool :=
  s.flagAt Fld.TRP_CLUSTER_CFG_RUN n && (s.domain (30 + n)).state != .OFF

/-- A Troupe path's die has a running cluster set in TRP_DIE_SLOW (R172, R394). -/
def State.troupePathUsable (s : State) (die : Nat) : Bool :=
  (List.range 4).any (fun j => bit (s.fld Fld.TRP_DIE_SLOW_CLUSTERS die) j && s.clusterRuns (4 * die + j))

/-- A port is usable as an egress (R172). -/
def State.usable (s : State) (p : Nat) : Bool :=
  if p < 256 then s.portUsable p
  else if p < 320 then
    let h := (p - 256) / 4
    s.linkExists h ((p - 256) % 4) && s.flagAt Fld.HEP_PORT_CFG_ENABLE h && !s.hostCurtained h
  else if p < 324 || p == 332 || p == 333 then s.engineLinkServes (dieOfPort p)
  else if p == 334 || p == 335 then s.engineLinkServes (dieOfPort p) && s.troupePathUsable (dieOfPort p)
  else false

/-- LIVE of member i of group g (R172). -/
def State.memberLive (s : State) (g i : Nat) : Bool :=
  let p := s.fld Fld.SWC_MEMBER_PORT (32 * g + i)
  s.flagAt Fld.SWC_MEMBER_VALID (32 * g + i) && (g < 4096 || p < 256) && s.usable p

/-- The member a flow takes (R172). -/
def State.member (s : State) (g : Nat) (hash : BitVec 32) : Option Nat :=
  let m := s.fld Fld.SWC_GROUP_LOG2_SLOTS g
  let i := s.fld Fld.SWC_PIN_MEMBER (s.fld Fld.SWC_GROUP_BASE g + hash.toNat / 2 ^ (32 - m))
  if s.flagAt Fld.SWC_GROUP_ENABLE g && s.memberLive g i then some i else none

/-- Re-pins the slots that name a lost member (R173). -/
def State.repin (s : State) (g i : Nat) : State :=
  let live := (List.range 32).filter (fun j => s.memberLive g j)
  if live.isEmpty then s
  else
    let base := s.fld Fld.SWC_GROUP_BASE g
    ((List.range (2 ^ s.fld Fld.SWC_GROUP_LOG2_SLOTS g)).foldl (fun (a : State × Nat) k =>
      if a.1.fld Fld.SWC_PIN_MEMBER (base + k) = i then
        ((a.1.setFld Fld.SWC_PIN_MEMBER (base + k) ((live[a.2 % live.length]?).getD 0)).bump .SWC_REPINNED 0, a.2 + 1)
      else a) (s, 0)).1

/-! ## Tails (R167 to R170) -/


/-- The rate hold: a network copy waits for the tail when its source is slower than its port (R165). -/
def State.rateHeld (s : State) (x : Frame) (p : Nat) : Bool :=
  p < 256 && !x.ended && !(256 ≤ x.passPort && x.passPort < 320) && decide (s.portRate x.passPort < s.portRate p)

/-- A copy is eligible (R164 to R166). -/
def State.copyEligible (s : State) (k : Copy) : Bool :=
  match s.frame? k.frame with
  | none => false
  | some x => !k.spilled && !s.rateHeld x k.port && (k.ready || !bit (s.fld Fld.SWC_SAF_CLASSES k.port) k.cls || (x.ended && !x.bad))

/-- The copies of a port that are eligible stay so under another forwarding mode (R166). -/
def State.keepReady (s : State) (p : Nat) : State :=
  { s with swc := { s.swc with copies := s.swc.copies.map (fun k => if k.port = p ∧ s.copyEligible k then { k with ready := true } else k) } }

/-- A queued copy that leaves without starting: removed, and the next head tagged afresh (R190). -/
def State.discardCopy (s : State) (k : Copy) (ctr : RegName) : State :=
  ((s.dropCopy k).retag k.port k.cls (subOf k.port k.slice)).bump ctr 0

/-- The queued copies that a test picks are discarded one by one, each found afresh: a discard tags the next head. -/
def State.discardEach (pick : Copy → Bool) (ctr : RegName) : Nat → State → State
  | 0, s => s
  | n + 1, s => match s.swc.copies.find? (fun k => pick k && !k.started) with
    | none => s
    | some k => State.discardEach pick ctr n (s.discardCopy k ctr)
def State.discardAll (s : State) (pick : Copy → Bool) (ctr : RegName) : State := State.discardEach pick ctr s.swc.copies.length s

/-- Ingress ports of the frames of copies a test picks. -/
def State.ingressOf (s : State) (pick : Copy → Bool) : List Nat :=
  ((s.swc.copies.filter pick).filterMap (fun k => s.frame? k.frame)).map (·.inPort)

/-- Frees a port's queued copies (R173): frames that have not started. What they held against other ports is let go (R103). -/
def State.dropQueued (s : State) (p : Nat) : State :=
  let mine := fun (k : Copy) => k.port == p && !k.started
  ((s.ingressOf mine).filter (· != p)).foldl (fun s q => s.pauseCheck q) (s.discardAll mine .SWC_LINK_DOWN_DROP).collect

/-- Copies of a frame whose tail proved bad: those not started are dropped (R168); a spilled one leaves the spill only to be
dropped (R181), and a sample keeps its own. -/
def State.dropBadTail (s : State) (f : Nat) : State := s.discardAll (fun k => k.frame == f && !k.spilled) .SWC_TAIL_DROP

/-- Counts a frame's counter once its tail is final (R176). -/
def State.countFrame (s : State) (x : Frame) : State :=
  match x.decision with
  | some { count := some n, .. } =>
    if n < 131072 then
      let old := SMap.get (fun _ => (0, 0)) s.swc.counters n
      let top := 2 ^ 64 - 1
      let new := (min (old.1 + 1) top, min (old.2 + x.octets.length) top)
      { s with swc := { s.swc with counters := SMap.set (fun _ => (0, 0)) n new s.swc.counters } }
    else s.bump .SWC_BAD_TARGET 0
  | _ => s

/-- Presents a frame for learning when its tail is good and its chain allows it (R155). -/
def State.presentLearn (s : State) (x : Frame) : State :=
  let mac := slice x.octets 6 6
  match x.decision with
  | some d =>
    if d.learn && !x.learned && x.ended && !x.bad && s.flagAt Fld.TBL_LEARN_PORT_ENABLE x.inPort &&
        !bit (beAt mac 0 1) 0 && !allZero mac then
      let c := s.parseIn x.octets
      let p := parseFrame c
      let key := learnKey (s.learnDomain p.vec p.flags x.inPort) mac
      let s := s.setFrame { x with learned := true }
      let pipe := pipelineOf x.inPort
      if (s.swc.learnQueue.filter (fun q => q.1 == pipe)).length < 256 then
        { s with swc := { s.swc with learnQueue := s.swc.learnQueue ++ [(pipe, key, x.inPort)] } }
      else s.bump .TBL_LEARN_LIMITED 0
    else s
  | none => s

/-- A started copy charged by an estimate is corrected once its length is known (R193). -/
def State.correctCopy (s : State) (k : Copy) (actual : Nat) : State :=
  if k.charged = actual then s
  else
    let s := s.chargeCopy k (((k.charged : Int) - (actual : Int)) * 12800)
    s.setCopy k { k with charged := actual, late := k.late || decide (k.charged < actual) }

/-- Where a sample goes once it leaves the sample queue (R183): the lead CPC's port, or its cluster's Troupe path. -/
def samplePort (k : Copy) : Nat :=
  match k.kind with
  | .sample _ dest _ _ => if dest = 0 then 334 else 334 + (dest - 1) / 4
  | _ => k.port

/-- The samples of a frame leave (R183). -/
def State.sendSamples (s : State) (f : Nat) : State :=
  let mine := s.swc.samples.filter (fun k => k.frame == f)
  { s with swc := { s.swc with samples := s.swc.samples.filter (fun k => k.frame != f),
                               arrived := s.swc.arrived ++ mine.map (fun k => { k with port := samplePort k }) } }

/-- A frame's tail becomes final (R168). -/
def State.finishTail (s : State) (x : Frame) : State :=
  let x := { x with ended := true, ticket := { x.ticket with tailError := x.bad } }
  let s := s.setFrame x
  let s := (s.swc.copies.filter (fun k => k.frame == x.id && k.started)).foldl (fun s k =>
    s.correctCopy k (x.octets.length + (if x.cutShort then 4 else 0))) s
  let s := if x.chosen then (s.countFrame x).presentLearn x else s
  let s := if x.bad then s.dropBadTail x.id else s
  (s.sendSamples x.id).pauseCheck x.inPort

/-- A frame in reception counts as received (R117): its octets, those discarded for want of cells included. -/
def State.rxCount (s : State) (x : Frame) : State := (s.bump .PRT_RX_FRAMES x.inPort).bumpBy .PRT_RX_OCTETS x.inPort (x.octets.length + x.lost)

/-- The frame is in reception on a network port. -/
def Frame.incoming (x : Frame) : Bool := x.inPort < 256 && x.passPort == x.inPort && !x.ended

/-- A runt leaves the device's memory (R100). -/
def State.dropRunt (s : State) (x : Frame) : State :=
  ({ s with swc := { s.swc with frames := s.swc.frames.filter (fun y => y.id != x.id) } }.bump .PRT_RX_RUNT x.inPort).pauseCheck x.inPort

/-- Cuts a frame short where it stands: its tail is bad (R91, R98, R106, R169). One in reception counts as received, or as a
runt. -/
def State.cutFrame (s : State) (x : Frame) : State :=
  if x.ended then s
  else if x.incoming && x.octets.length + x.lost < 64 then s.dropRunt x
  else
    let s := if x.incoming then s.rxCount x else s
    s.finishTail { x with bad := true, cutShort := true }

/-- A copy in transmission on a network port ends: what was sent, its octets counted, and one with a bad tail counted too. -/
def State.endTx (s : State) (k : Copy) (octets : List Byte) (good : Bool) : State :=
  let s := s.correctCopy k (if good then k.charged else octets.length)
  let s := (s.dropCopy { k with charged := if good then k.charged else octets.length,
                                late := k.late || (!good && decide (k.charged < octets.length)) }).bumpBy .PRT_TX_OCTETS k.port octets.length
  (if good then s else s.bump .PRT_TX_TAIL_MARKED k.port).emit (.frame k.port octets good)

/-- A network port goes down for its frames: those partly received are marked bad, frames in transmission are ended where
they stand, and queued copies are dropped (R91, R98, R173). -/
def State.portDown (s : State) (p : Nat) : State :=
  let arriving := s.swc.frames.filter (fun x => x.incoming && x.inPort == p)
  let s := arriving.foldl (fun s x => s.cutFrame x) s
  let started := s.swc.copies.filter (fun k => k.port == p && k.started)
  let s := started.foldl (fun s k =>
    match s.frame? k.frame with
    | some x => s.endTx k (withFcs ((s.wireBody k x).take (s.fld Fld.PRT_CONFIG_MAX_FRAME p - 4)) true) false
    | none => s.dropCopy k) s
  let s := s.dropQueued p
  s.setPort p { s.port p with linkUp := false }

/-- Discards the landing-buffer contents of a port (R91): the frames still in it leave the device. -/
def State.discardLanding (s : State) (p : Nat) : State :=
  { s with swc := { s.swc with frames := s.swc.frames.filter (fun x => !(x.landing && x.inPort == p)) } }

end Sys2Proof.Machine
end

