-- ==== Sys2Proof/Machine/Vault.lean ====
section
/-! DEFINITION. The vault (R259 to R288): the persistent store, random draws, wrapped key blobs, the services of the
request ring, SPDM, IDE keys and zeroisation. -/

namespace Sys2Proof.Machine

/-! ## Memories (R20, R428) -/

def byteDefault : Nat → Byte := fun _ => 0

/-- n bytes of a memory from an address. -/
def readMem (m : SMap Byte) (a n : Nat) : List Byte := (List.range n).map (fun i => SMap.get byteDefault m (a + i))

/-- Bytes written to a memory from an address. -/
def writeMem (m : SMap Byte) (a : Nat) : List Byte → SMap Byte
  | [] => m
  | b :: bs => writeMem (SMap.set byteDefault a b m) (a + 1) bs

/-! ## Store and keys (R261, R266) -/

def slotKeyDefault (k : Nat) : Option (List Byte) := if k = 0 then some Config.orderKey else none

/-- Public-key slot n: image-signing slots 0 to 3, house slots 4 to 11. -/
def State.keySlot (s : State) (n : Nat) : Option (List Byte) :=
  match s.vlt.store.slots.find? (fun x => x.1 == n) with
  | some (_, v) => v
  | none => slotKeyDefault n

def State.setKeySlot (s : State) (n : Nat) (v : Option (List Byte)) : State :=
  s.writeStore (.slot (Fin.ofNat 12 n)) (fun t => { t with slots := SMap.put n v t.slots })

/-- Both signatures of a signature block verify over a message under a slot's keys (R39, R40). -/
def sigVerifies (key msg block : List Byte) : Bool :=
  Config.ecdsaVerify (slice key 0 97) msg (slice block 8 96) && Config.mldsaVerify (slice key 97 2592) msg (slice block 0x6C 4627)

/-- A secret of the store opened under the fuse seal key (R266): its IV, ciphertext and tag. -/
def openSecret (b : List Byte) : List Byte := (gcmOpen Config.fuseKey (slice b 0 12) [] (b.drop 12)).getD []
def sealSecret (iv b : List Byte) : List Byte := iv ++ gcmSeal Config.fuseKey iv [] b

def State.drk (s : State) : List Byte := openSecret (s.vlt.store.drk.getD Config.sealedDrk)
def State.drkId (s : State) : BitVec 32 := s.vlt.store.drkId.getD Config.drkId
def State.seed (s : State) : List Byte := openSecret (s.vlt.store.seed.getD Config.sealedSeed)

/-- Zeroisation has erased the identity seed (R287). -/
def State.seedErased (s : State) : Bool := s.vlt.store.seed == some []

/-- ASCII octets of a label. -/
def ascii (t : String) : List Byte := t.toList.map (fun c => BitVec.ofNat 8 c.toNat)

/-- Domain KEK (R266). -/
def State.kek (s : State) (d : Nat) : List Byte :=
  kdf s.drk (ascii "AMR-KEK") (toBE 4 s.drkId.toNat ++ toBE 1 d) 32


/-! ## Blobs (R267) -/

/-- Key bytes of an algorithm (R246). -/
def keyBytesOf (alg : Nat) : Nat := if alg = 1 then 16 else if alg = 4 then 64 else 32

/-- A blob's clear fields. -/
structure BlobHead where
  magic : List Byte
  alg : Nat
  domain : Nat
  policy : Nat
  keyId : BitVec 64
  drkId : BitVec 32
  used : Nat
  bytes : Nat

/-- Bytes 0 to 23 and 136 to 159 of a blob. -/
def BlobHead.front (h : BlobHead) : List Byte :=
  h.magic ++ toLE 1 1 ++ toLE 1 h.alg ++ toLE 1 h.domain ++ toLE 1 h.policy ++ toLE 8 h.keyId.toNat ++ toLE 4 h.drkId.toNat ++ toLE 4 0
def BlobHead.back (h : BlobHead) : List Byte := toLE 8 h.used ++ toLE 8 h.bytes ++ toLE 8 0

/-- A wrapped blob. -/
def wrapBlob (kek iv : List Byte) (h : BlobHead) (material : List Byte) (fixed : Nat) : List Byte :=
  let plain := slice (material ++ (if h.alg < 3 then toLE 4 fixed else [])) 0 80
  h.front ++ slice iv 0 12 ++ toLE 4 0 ++ slice (gcmSeal kek iv (h.front ++ h.back) plain) 0 96 ++ h.back

/-- A blob's head, read. -/
def blobHead (b : List Byte) : BlobHead :=
  { magic := slice b 0 4, alg := leAt b 5 1, domain := leAt b 6 1, policy := leAt b 7 1, keyId := BitVec.ofNat 64 (leAt b 8 8),
    drkId := BitVec.ofNat 32 (leAt b 16 4), used := leAt b 136 8, bytes := leAt b 144 8 }

/-- Material and fixed field of a blob under a key, if its tag holds. -/
def openBlob (kek iv b : List Byte) : Option (List Byte × Nat) :=
  (gcmOpen kek iv (slice b 0 24 ++ slice b 136 24) (slice b 40 96)).map (fun p =>
    let n := keyBytesOf (leAt b 5 1)
    (slice p 0 n, if leAt b 5 1 < 3 then leAt p n 4 else 0))

/-- A blob of this device (R267): a format error, BAD_BLOB, or its head and key. -/
def State.unwrap (s : State) (b : List Byte) : Nat ⊕ (BlobHead × List Byte × Nat) :=
  let h := blobHead b
  if h.magic ≠ ascii "AMRK" ∨ leAt b 4 1 ≠ 1 ∨ h.alg = 0 ∨ 4 < h.alg ∨ 3 < h.policy then .inl 0x01
  else if h.drkId ≠ s.drkId ∨ s.vlt.domains ≤ h.domain then .inl 0xD1
  else match openBlob (s.kek h.domain) (slice b 24 12) b with
    | some (m, f) => .inr (h, m, f)
    | none => .inl 0xD1

/-- A fresh wrapped blob of a key under its domain's KEK. -/
def State.makeBlob (s : State) (h : BlobHead) (material : List Byte) (fixed : Nat) : List Byte × State :=
  let (iv, s) := s.drbg 12
  (wrapBlob (s.kek h.domain) iv { h with drkId := s.drkId } material fixed, s)

/-! ## Installing keys (R256, R270) -/

/-- Contexts a slice owns. -/
def State.ownedContexts (s : State) (n : Nat) : List Nat :=
  (s.cph.ctxs.filter (fun x => x.2.state != .EMPTY && x.2.owner == n)).map (·.1)

/-- What an installation asks for. -/
structure Install where
  ctx : Nat
  owner : Nat
  ivPrefix : Nat
  limit : Nat
  byteLimit : Nat
  weight : Nat
  pin : Bool

/-- Ranges of an installation. -/
def Install.ok (i : Install) (alg : Nat) : Bool :=
  decide (i.ctx < 262144 ∧ i.owner < 4096 ∧ 1 ≤ i.limit ∧ i.limit ≤ 2 ^ 48 ∧ 1 ≤ i.weight ∧ i.weight < 256 ∧
    (alg < 3 ∨ (1 ≤ i.byteLimit ∧ i.byteLimit ≤ 2 ^ 50)))

/-- The owner may hold one more context (R322): slice 0 is not limited. -/
def State.ownerHasRoom (s : State) (n : Nat) : Bool :=
  n == 0 || decide ((s.ownedContexts n).length < s.fld Fld.SLC_GRANT_R_KEY_CTX_MAX n)

/-- A key put into an EMPTY context (R256): the status and the state after it. A key without PERSIST starts at 0 and 0 (R256; assumption log
entry 33). -/
def State.installKey (s : State) (i : Install) (alg : Nat) (m : KeyMat) (persist : Bool) (used bytes : Nat) : Nat × State :=
  if !i.ok alg then (0x01, s)
  else if (s.keyCtx i.ctx).state ≠ .EMPTY then (0xD3, s)
  else if !s.ownerHasRoom i.owner then (0x09, s)
  else
    let old := if persist then s.counterOf m.id else none
    if persist ∧ old.isNone ∧ 2048 ≤ s.vlt.store.counters.length then (0xD6, s)
    else
      let (u, b) := match old with
        | some r => if r.clean then (r.p, r.pb) else (r.p + 2 ^ 20, r.pb + 2 ^ 36)
        | none => if persist then (used, bytes) else (0, 0)
      let lim := i.byteLimit
      let broken := match old with
        | some r => !r.valid
        | none => false
      let k : KeyCtx := { state := if i.limit ≤ u then .EXHAUSTED else .ACTIVE, alg := alg, cur := some m, used := u, bytes := if alg < 3 then 0 else b,
                          limit := i.limit, byteLimit := if alg < 3 then 2 ^ 50 else lim, ivPrefix := BitVec.ofNat 16 i.ivPrefix, owner := i.owner,
                          weight := i.weight, pin := i.pin && !s.pinsFull, persist := persist, p := if persist then u else 0, pb := if persist then b else 0 }
      let s := if persist then s.putCounter ⟨m.id, u, b, false, !broken⟩ else s
      let s := (s.setKeyCtx i.ctx k).placeHot i.ctx
      (0, if broken then s.lockOwn i.ctx else s)

/-- An install entry of 192 bytes (R268). -/
def installEntry (b : List Byte) : Install :=
  { ctx := leAt b 160 4, owner := leAt b 164 2, ivPrefix := leAt b 166 2, limit := leAt b 168 8, byteLimit := leAt b 176 8,
    weight := leAt b 184 1, pin := leAt b 185 1 == 1 }

/-- The INSTALL service on an entry (R270). -/
def State.doInstall (s : State) (e : List Byte) : Nat × State :=
  if !allZero (slice e 186 6) then (0x01, s)
  else match s.unwrap (slice e 0 160) with
    | .inl st => (st, s)
    | .inr (h, m, f) =>
      let km : KeyMat := { material := m, fixed := BitVec.ofNat 32 f, id := h.keyId, exportable := bit h.policy 0, domain := h.domain }
      s.installKey (installEntry e) h.alg km (bit h.policy 1) h.used h.bytes

/-- A fresh key of an algorithm, with its fixed field and identifier. -/
def State.freshKey (s : State) (alg : Nat) (exportable : Bool) (domain : Nat) : KeyMat × State :=
  let (m, s) := s.drbg (keyBytesOf alg)
  let (f, s) := s.drbg 4
  let id := s.vlt.nextKeyId
  ({ material := m, fixed := BitVec.ofNat 32 (leNat f), id := id, exportable := exportable, domain := domain },
   { s with vlt := { s.vlt with nextKeyId := id + 1 } })

/-! ## Services of the request ring (R269 to R272) -/

/-- A service's answer: status, reply body, state. -/
abbrev Served := Nat × List Byte × State

def State.svcGenerate (s : State) (b : List Byte) : Served :=
  let alg := leAt b 0 1
  let dom := leAt b 1 1
  let pol := leAt b 2 1
  if b.length < 3 ∨ alg = 0 ∨ 4 < alg ∨ 3 < pol ∨ s.vlt.domains ≤ dom then (0x01, [], s)
  else if !s.entropy then (0xD5, [], s)
  else
    let (k, s) := s.reseed.freshKey alg (bit pol 0) dom
    let h : BlobHead := { magic := ascii "AMRK", alg := alg, domain := dom, policy := pol, keyId := k.id, drkId := s.drkId, used := 0, bytes := 0 }
    let (blob, s) := s.makeBlob h k.material k.fixed.toNat
    (0, blob, s)

def State.svcInstall (s : State) (b : List Byte) : Served :=
  if b.length < 192 then (0x01, [], s)
  else
    let r := s.doInstall b
    (r.1, [], r.2)

/-- GENERATE_INSTALL: ALG, context, OWNER, IV_PREFIX, LIMIT, BYTE_LIMIT, packed (assumption log entry 14). -/
def State.svcGenerateInstall (s : State) (b : List Byte) : Served :=
  let alg := leAt b 0 1
  let i : Install := { ctx := leAt b 1 4, owner := leAt b 5 2, ivPrefix := leAt b 7 2, limit := leAt b 9 8, byteLimit := leAt b 17 8, weight := 1, pin := false }
  if b.length < 25 ∨ alg = 0 ∨ 4 < alg ∨ !i.ok alg then (0x01, [], s)
  else if (s.keyCtx i.ctx).state ≠ .EMPTY then (0xD3, [], s)
  else if !s.entropy then (0xD5, [], s)
  else
    let (k, s) := s.freshKey alg false 0
    let r := s.installKey i alg k false 0 0
    (r.1, [], r.2)

/-- A successor put into a context (R250, R253). -/
def State.stage (s : State) (c : Nat) (m : KeyMat) : Nat × State :=
  let k := s.keyCtx c
  if k.persist ∧ 2048 ≤ s.vlt.store.counters.length ∧ (s.counterOf m.id).isNone then (0xD6, s)
  else
    let s := if k.persist then s.putCounter ⟨m.id, 0, 0, false, true⟩ else s
    let k := { k with succ := some m }
    if k.state = .EXHAUSTED then (0, ((s.setKeyCtx c k.succeed).writeCold c).bump .CPH_SUCCESSIONS 0) else (0, (s.setKeyCtx c k).writeCold c)

def State.svcStageSuccessor (s : State) (b : List Byte) : Served :=
  let c := leAt b 0 4
  let k := s.keyCtx c
  if b.length < 5 ∨ 262144 ≤ c ∨ k.state = .EMPTY then (0x01, [], s)
  else if 3 ≤ k.alg then (0x0D, [], s)
  else if k.succ.isSome then (0xD3, [], s)
  else if b.length < 164 then
    if !s.entropy then (0xD5, [], s)
    else
      let (m, s) := s.freshKey k.alg false 0
      let r := s.stage c m
      (r.1, [], r.2)
  else match s.unwrap (slice b 4 160) with
    | .inl st => (st, [], s)
    | .inr (h, m, f) =>
      if h.alg ≠ k.alg then (0x01, [], s)
      else
        let r := s.stage c { material := m, fixed := BitVec.ofNat 32 f, id := h.keyId, exportable := bit h.policy 0, domain := h.domain }
        (r.1, [], r.2)

/-- The counter records of a context written clean, and the context emptied (R255, R270). -/
def State.discardCtx (s : State) (c : Nat) : State := (s.cleanCtx (s.keyCtx c)).emptyCtx c

def State.svcDiscard (s : State) (b : List Byte) : Served :=
  let c := leAt b 0 4
  if b.length < 4 ∨ 262144 ≤ c then (0x01, [], s) else (0, [], s.discardCtx c)

/-- The blob of a context's key (R270), its bases the present counts. -/
def State.exportBlob (s : State) (k : KeyCtx) (m : KeyMat) : List Byte × State :=
  s.makeBlob { magic := ascii "AMRK", alg := k.alg, domain := m.domain, policy := 1 + 2 * flag k.persist, keyId := m.id, drkId := s.drkId, used := k.used, bytes := k.bytes }
    m.material m.fixed.toNat

def State.svcExport (s : State) (b : List Byte) : Served :=
  let c := leAt b 0 4
  if b.length < 4 ∨ 262144 ≤ c then (0x01, [], s)
  else match (s.keyCtx c).cur with
    | some m =>
      if !m.exportable then (0xD4, [], s)
      else if !s.entropy then (0xD5, [], s)
      else
        let r := s.exportBlob (s.keyCtx c) m
        (0, r.1, r.2)
    | none => (0xD4, [], s)

def ikeDefault : Nat → Option Ike := fun _ => none
def State.ikeAt (s : State) (h : Nat) : Option Ike := SMap.get ikeDefault s.vlt.ike h
def State.setIke (s : State) (h : Nat) (v : Option Ike) : State :=
  { s with vlt := { s.vlt with ike := SMap.set ikeDefault h v s.vlt.ike } }

def State.svcIkeStart (s : State) (_ : List Byte) : Served :=
  match (List.range 256).find? (fun h => (s.ikeAt h).isNone) with
  | none => (0xD2, [], s)
  | some h =>
    if !s.entropy then (0xD5, [], s)
    else
      let (own, s) := s.drbg 48
      (0, toLE 1 h ++ Config.ecPublic own, s.setIke h (some ⟨own, none⟩))

/-- IKE_KEYS: handle, peer public value of 96 octets, the lengths of the nonces, Ni, Nr, SPIi and SPIr (assumption log entry 14). SKEYSEED is
prf(Ni | Nr, g^ir), and the keys are those of an AEAD: SK_d, then SK_ei and SK_er of 36 octets, SK_pi and SK_pr (R270, R283). -/
def State.svcIkeKeys (s : State) (b : List Byte) : Served :=
  let h := leAt b 0 1
  let n := leAt b 97 2 + leAt b 99 2
  match s.ikeAt h with
  | none => (0xD2, [], s)
  | some k =>
    if b.length != 117 + n then (0x01, [], s)
    else
      let nonces := slice b 101 n
      let keys := ikePrf (hmac nonces (Config.ecdh k.own (slice b 1 96))) (nonces ++ slice b (101 + n) 16) 216
      (0, keys.drop 48, s.setIke h (some { k with skd := some (keys.take 48) }))

/-- CHILD_SA: handle, whether a new ECDH pair follows, the lengths of the nonces, Ni, Nr, that pair (the handle of IKE_START that holds the
own value, the peer's public value), two contexts, OWNER and LIMIT (assumption log entry 14). KEYMAT is prf+(SK_d, [g^ir] | Ni | Nr). -/
def State.svcChildSa (s : State) (b : List Byte) : Served :=
  let pair := leAt b 1 1
  let n := leAt b 2 2 + leAt b 4 2
  let o := 6 + n + 97 * pair
  match (s.ikeAt (leAt b 0 1)).bind (·.skd) with
  | none => (0xD2, [], s)
  | some skd =>
    if 1 < pair ∨ b.length != o + 18 then (0x01, [], s)
    else
      let c1 := leAt b o 4
      let c2 := leAt b (o + 4) 4
      let i : Install := { ctx := c1, owner := leAt b (o + 8) 2, ivPrefix := 0, limit := leAt b (o + 10) 8, byteLimit := 0, weight := 1, pin := false }
      let own := s.ikeAt (leAt b (6 + n) 1)
      if pair = 1 ∧ own.isNone then (0xD2, [], s)
      else if !i.ok 2 ∨ 262144 ≤ c2 ∨ c1 = c2 then (0x01, [], s)
      else if (s.keyCtx c1).state ≠ .EMPTY ∨ (s.keyCtx c2).state ≠ .EMPTY then (0xD3, [], s)
      else
        let shared := match own with
          | some k => if pair = 1 then Config.ecdh k.own (slice b (7 + n) 96) else []
          | none => []
        let mat := ikePrf skd (shared ++ slice b 6 n) 72
        let key := fun (o : Nat) (id : BitVec 64) =>
          ({ material := slice mat o 32, fixed := BitVec.ofNat 32 (beAt mat (o + 32) 4), id := id, exportable := false, domain := 0 } : KeyMat)
        let id := s.vlt.nextKeyId
        let s := { s with vlt := { s.vlt with nextKeyId := id + 2 } }
        let r := s.installKey i 2 (key 0 id) false 0 0
        if r.1 ≠ 0 then (r.1, [], r.2)
        else
          let r := r.2.installKey { i with ctx := c2 } 2 (key 36 (id + 1)) false 0 0
          if r.1 ≠ 0 then (r.1, [], r.2.discardCtx c1) else (0, [], r.2)

def State.svcIkeEnd (s : State) (b : List Byte) : Served :=
  let h := leAt b 0 1
  if (s.ikeAt h).isNone then (0xD2, [], s) else (0, [], s.setIke h none)

/-- The device's signature block (R279): ML-DSA-87 and ECDSA P-384 of its identity keys over a message. -/
def State.identityBlock (s : State) (msg : List Byte) : List Byte :=
  ascii "SIGB" ++ toLE 4 0 ++ slice (Config.signEcdsa s.seed msg) 0 96 ++ toLE 4 4627 ++ slice (Config.signMldsa s.seed msg) 0 4627 ++ [0]

/-- HANDOVER_OFFER (R278 step 1): serial, boot nonce, offer nonce, both public keys, the identity chain, signed. -/
def State.svcHandoverOffer (s : State) (_ : List Byte) : Served :=
  if !s.entropy then (0xD5, [], s)
  else
    let (kem, s) := s.reseed.drbg 64
    let (dh, s) := s.drbg 48
    let (nonce, s) := s.drbg 8
    let body := toLE 8 Config.serial.toNat ++ toLE 8 s.dev.nonce.toNat ++ nonce ++ slice (Config.kemPublic kem) 0 1568 ++ slice (Config.ecPublic dh) 0 96 ++
      Config.identityChain
    let offer := body ++ s.identityBlock body
    (0, offer, { s with vlt := { s.vlt with offer := some ⟨offer, kem, dh⟩ } })

/-- The vault serves: no debug unlock, no error state, no zeroisation under way or past (R275, R285, R287). -/
def State.vaultServes (s : State) : Bool := !s.vlt.debug && !s.vlt.error && !s.vlt.erasing && !s.vlt.store.zeroised

/-- The service of a code (R270). -/
def State.service (s : State) (code : Nat) (b : List Byte) : Served :=
  match code with
  | 0x01 => s.svcGenerate b
  | 0x02 => s.svcInstall b
  | 0x03 => s.svcGenerateInstall b
  | 0x04 => s.svcStageSuccessor b
  | 0x05 => s.svcDiscard b
  | 0x06 => s.svcExport b
  | 0x07 => s.svcIkeStart b
  | 0x08 => s.svcIkeKeys b
  | 0x09 => s.svcChildSa b
  | 0x0A => s.svcIkeEnd b
  | 0x0B => s.svcHandoverOffer b
  | _ => (0x0D, [], s)

/-! ## The rings (R269, R336, R429) -/

/-- Entries from a consumer to a producer of a ring of s slots (R336). -/
def ringCount (prod cons slots : Nat) : Nat := (prod + 2 * slots - cons % (2 * slots)) % (2 * slots)

/-- Bytes of slot n of the request and reply rings of a CPC unit. -/
def requestSlot (u n : Nat) : Nat := u * 0x80000 + n % 16 * 0x4000
def replySlot (u n : Nat) : Nat := u * 0x80000 + 0x40000 + n % 16 * 0x4000

/-- The request the vault takes next: unit, service, tag, body. The lead vault serves the ring of the lead CPC unit; it
takes a request while the reply ring has room. -/
structure VaultRequest where
  unit : Nat
  code : Nat
  tag : BitVec 32
  body : List Byte

def State.vaultHead (s : State) : Option VaultRequest :=
  match s.leadCpc, s.leadVault with
  | some u, some _ =>
    let cons := s.fld Fld.RDN_LOCAL_VRING_REQ_CONS u
    if ringCount (s.fld Fld.RDN_LOCAL_VRING_REQ_PROD u) cons 16 = 0 ∨
        16 ≤ ringCount (s.fld Fld.RDN_LOCAL_VRING_RPL_PROD u) (s.fld Fld.RDN_LOCAL_VRING_RPL_CONS u) 16 then none
    else
      let a := requestSlot u cons
      let h := readMem s.mem.vring a 8
      some ⟨u, leAt h 0 1, BitVec.ofNat 32 (leAt h 4 4), readMem s.mem.vring (a + 8) (min (leAt h 2 2) 16376)⟩
  | _, _ => none

/-- A reply is written, the producer and the request consumer advance, and the unit's VAULT event is raised. -/
def State.vaultReply (s : State) (q : VaultRequest) (bytes : List Byte) : State :=
  let prod := s.fld Fld.RDN_LOCAL_VRING_RPL_PROD q.unit
  let s := { s with mem := { s.mem with vring := writeMem s.mem.vring (replySlot q.unit prod) bytes } }
  let s := s.setFld Fld.RDN_LOCAL_VRING_RPL_PROD q.unit ((prod + 1) % 32)
  let s := s.setFld Fld.RDN_LOCAL_VRING_REQ_CONS q.unit ((s.fld Fld.RDN_LOCAL_VRING_REQ_CONS q.unit + 1) % 32)
  s.unitEvent q.unit 6

/-- A request performed (R272): answered from the kept replies when its tag matches one, refused when the vault does not
serve, and performed otherwise. -/
def State.serve (s : State) (q : VaultRequest) : State :=
  match s.vlt.replies.find? (fun r => r.1 == q.tag) with
  | some (_, bytes) => s.vaultReply q bytes
  | none =>
    let (st, body, s) := if s.vaultServes then s.service q.code q.body else (0xD0, [], s)
    let bytes := toLE 4 q.tag.toNat ++ toLE 1 st ++ [0, 0, 0] ++ toLE 4 body.length ++ body
    let s := { s with vlt := { s.vlt with replies := (s.vlt.replies ++ [(q.tag, bytes)]).drop (s.vlt.replies.length - 63) } }
    s.vaultReply q bytes

/-- The command of a service: the vault takes the head request when it is one for that service. -/
def State.serveCode (s : State) (code : Nat) : State :=
  match s.vaultHead with
  | some q => if q.code = code then s.serve q else s
  | none => s

/-- Requests of no service are answered UNSUPPORTED as they come to the head. -/
def State.skipUnknown : Nat → State → State
  | 0, s => s
  | n + 1, s =>
    match s.vaultHead with
    | some q => if q.code = 0 ∨ 0x0B < q.code then State.skipUnknown n (s.serve q) else s
    | none => s

/-! ## IDE units and SPDM (R276, R277, R309) -/

def State.ideFind (s : State) (t : IdeTarget) : Option IdeKey := (s.vlt.ideKeys.find? (fun x => x.1 == t)).map (·.2)
def State.setIde (s : State) (t : IdeTarget) (k : IdeKey) : State :=
  { s with vlt := { s.vlt with ideKeys := s.vlt.ideKeys.filter (fun x => x.1 != t) ++ [(t, k)] } }
def State.stopIde (s : State) : State :=
  { s with vlt := { s.vlt with ideKeys := s.vlt.ideKeys.map (fun x => (x.1, { x.2 with go := false })) } }

/-- A stream is Secure: every sub-stream of both directions has a key set in use (R309). -/
def State.streamSecure (s : State) (port link stream : Nat) : Bool :=
  [false, true].all (fun rx => [0, 1, 2].all (fun sub => s.vlt.ideKeys.any (fun x =>
    x.1.port.val == port && x.1.link.val == link && x.1.stream.toNat == stream && x.1.sub.val == sub && x.1.rx == rx && x.2.go)))

/-- The SPDM responder of a port answers: a lead vault, and a configuration space that answers (R52, R276). -/
def State.spdmUp (s : State) : Bool :=
  s.leadVault.isSome && s.dev.earlyUp && (s.dev.state == .LOADING || s.dev.state == .CURTAIN || s.dev.state == .STAGE)

/-- A response leaves by the DOE mailbox of a port. -/
def State.spdm (s : State) (h code : Nat) (body : List Byte) : State := s.emit (.doe h code body)

/-- Error responses: UnexpectedRequest, InvalidSession, SessionLimitExceeded, InvalidRequest. -/
def State.spdmError (s : State) (h e : Nat) : State := s.spdm h 0x7F (toLE 1 e)

def State.session? (s : State) (h : Nat) (id : BitVec 32) : Option SpdmSession :=
  s.vlt.sessions.find? (fun x => x.port == h && x.id == id.toNat)

/-- The certificate chain of a slot: slot 0 the manufacture chain while the root is manufacture's, slot 1 none until the
operator's authority issues it (R276, R288). -/
def State.certChain (s : State) (slot : Nat) : List Byte :=
  if slot = 0 ∧ s.vlt.store.seed.isNone then Config.identityChain else []

/-- K in force (R268). -/
def State.kInForce (s : State) : Nat := max s.vlt.k s.vlt.store.kFloor

/-- Measurement block 6: minimum version, K in force, ZEROISED and debug-unlocked flags. -/
def State.rawMeasurement (s : State) : List Byte :=
  toLE 4 s.vlt.store.minVersion.toNat ++ toLE 1 s.kInForce ++ toLE 1 (flag s.vlt.store.zeroised) ++ toLE 1 (flag s.vlt.debug)

/-- The measurement blocks of R277, by index from 1; block 6 is read live until STAGE fixes it. -/
def State.measurement (s : State) (i : Nat) : List Byte :=
  match i with
  | 1 => Config.bootRomDigest
  | 6 => (s.vlt.measurements[4]?).getD s.rawMeasurement
  | 7 => toLE 4 0x00B07200 ++ toLE 8 Config.serial.toNat
  | i => (s.vlt.measurements[i - 2]?).getD (List.replicate 48 0)

/-! ## Zeroisation (R286, R287) -/

/-- Zeroisation starts: contexts locked, IDE stopped, services refused; a second trigger has no further effect. -/
def State.startZeroise (s : State) : State :=
  if s.vlt.erasing then s
  else
    let s := (s.lockAll (fun _ _ => true)).stopIde
    { s with vlt := { s.vlt with erasing := true, accepted := [] } }

/-- What the erase engines erase (R287 step 3). The public-key slots, K_FLOOR, the minimum version and the retirement
records are kept. -/
def State.erase (s : State) : State :=
  let v := s.vlt
  { s with
    cph := { s.cph with ctxs := [], hot := [], cold := [], queue := [], held := [], round := [] }
    vlt := { v with
      store := ((({ v.store with zeroised := true, drk := some [], seed := some [], counters := [], countersB := [] } : Store).written
        (.critical 3)).written (.critical 4)).written (.critical 5)
      wrapKey := [], drbg := [], ike := [], offer := none, sessions := [], ideKeys := [], erasing := false } }

end Sys2Proof.Machine
end

