-- ==== Sys2Proof/Machine/Host.lean ====
section
/-! DEFINITION. Host ports (R289 to R314): links and functions, the requests the device issues, tags and completion
timers, MSI-X, and the units of a slice in flight (R321). Link number l = 4h + k names sub-link k of host port h. -/

namespace Sys2Proof.Machine

/-! ## Links and functions -/

def linkDefault : Nat → HostLink := fun _ => {}
def State.hostLink (s : State) (l : Nat) : HostLink := SMap.get linkDefault s.hep.links l
def State.setHostLink (s : State) (l : Nat) (v : HostLink) : State :=
  { s with hep := { s.hep with links := SMap.set linkDefault l v s.hep.links } }

/-- The link is one its port has (R23) and the port is in use (R312). -/
def State.linkInUse (s : State) (l : Nat) : Bool := s.linkExists (l / 4) (l % 4) && s.flagAt Fld.HEP_PORT_CFG_ENABLE (l / 4)

/-- The link's port is in fundamental reset (R293). -/
def State.inPerst (s : State) (h : Nat) : Bool := s.pins.perst.getLsbD h

/-- Entry of a port in EARLY_IDENTITY (R311). -/
def State.portEntry (s : State) (h : Nat) : Nat := leAt s.hep.identity (0x20 + 8 * h) 8

def State.func (s : State) (l fn : Nat) : Func := if fn = 0 then (s.hostLink l).pf0 else (s.hostLink l).pf1
def State.setFunc (s : State) (l fn : Nat) (f : Func) : State :=
  if fn = 0 then s.setHostLink l { s.hostLink l with pf0 := f } else s.setHostLink l { s.hostLink l with pf1 := f }

/-- PF1 may issue requests on the link (R294, R307, R308). -/
def State.masterOn (s : State) (l : Nat) : Bool :=
  (s.hostLink l).up && (s.func l 1).bme && !(s.func l 1).d3 && !(s.func l 1).flr && !s.inPerst (l / 4) && !s.hostCurtained (l / 4)

/-- Max_Payload_Size and Max_Read_Request_Size in bytes, up to 4 KiB (R301, R302). -/
def sizeOfCode (c : BitVec 3) : Nat := min 4096 (128 * 2 ^ c.toNat)

/-- The completion timeout in nanoseconds (R305). -/
def timeoutNs (v : BitVec 4) : Nat :=
  if v = 0x1 then 100000 else if v = 0x2 then 10000000 else if v = 0x5 then 55000000 else if v = 0x6 then 210000000
  else if v = 0x9 then 900000000 else if v = 0xA then 3500000000 else if v = 0xD then 13000000000
  else if v = 0xE then 64000000000 else 50000000

/-! ## TLPs toward the host (R301, R309, R310) -/

/-- The stream device-initiated TLPs of a link use, while it is Secure (R309). -/
def State.txStream (s : State) (l : Nat) : Option Nat :=
  let n := s.fld Fld.HEP_IDE_CTRL_TX_STREAM l
  if s.streamSecure (l / 4) (l % 4) n then some n else none

/-- Device-initiated requests of the link wait for a Secure stream (R310). -/
def State.ideWaits (s : State) (l : Nat) : Bool := s.flagAt Fld.HEP_IDE_CTRL_REQUIRED l && (s.txStream l).isNone

def HostOut.withStream (o : HostOut) (n : Option Nat) : HostOut :=
  match o with
  | .write p _ r a d => .write p n r a d
  | .read p _ t a len => .read p n t a len
  | .msi _ f v a d => .msi n f v a d
  | .completion _ st d => .completion n st d
  | o => o

/-- A device-initiated TLP leaves, or waits by R310. -/
def State.toHost (s : State) (l : Nat) (o : HostOut) : State :=
  if s.ideWaits l then { s with hep := { s.hep with held := s.hep.held ++ [(l, o)] } }
  else s.emit (.host l (o.withStream (s.txStream l)))

/-- A completion of a memory read leaves, in the link's stream while that is Secure (R309). -/
def State.complete (s : State) (l status : Nat) (data : List Byte) : State := s.emit (.host l (.completion (s.txStream l) status data))

/-- Completions of a peer read, split at 128-byte boundaries (R298). -/
def State.completePieces (s : State) (l : Nat) (ps : List (Nat × List Byte)) : State :=
  ps.foldl (fun s p => s.complete l 0 p.2) s

/-- A request of PF1 that has not left: withdrawn when PF1 may master no more. Writes and messages were handed on and leave (R307). -/
def HostOut.isRead (o : HostOut) : Bool :=
  match o with
  | .read _ _ _ _ _ => true
  | _ => false

/-- The requests of PF1 that wait on a link are withdrawn (R307). -/
def State.withdrawHeld (s : State) (l : Nat) : State :=
  { s with hep := { s.hep with held := s.hep.held.filter (fun x => !(x.1 == l && x.2.isRead)) } }

/-- All that waits on a link goes with it (R293, R294). -/
def State.dropHeld (s : State) (l : Nat) : State :=
  { s with hep := { s.hep with held := s.hep.held.filter (fun x => x.1 != l) } }

/-- The TLPs that waited leave once the stream is Secure. -/
def State.releaseHeld (s : State) (l : Nat) : State :=
  if s.ideWaits l then s
  else
    let mine := s.hep.held.filter (fun x => x.1 == l)
    let s := { s with hep := { s.hep with held := s.hep.held.filter (fun x => x.1 != l) } }
    mine.foldl (fun s x => s.emit (.host l (x.2.withStream (s.txStream l)))) s

def State.pasidOf (s : State) (n : Nat) : Option Nat := if n = 0 then none else some (s.fld Fld.SLC_SLICE_BIND_PASID n)

/-- A transfer cut at most size bytes a piece and at every 4 KiB boundary (R301, R302): address and length of each. -/
def splitSpan (size : Nat) : Nat → Nat → Nat → List (Nat × Nat)
  | 0, _, _ => []
  | fuel + 1, a, n =>
    if n = 0 then []
    else
      let k := min n (min (max 1 size) (4096 - a % 4096))
      (a, k) :: splitSpan size fuel (a + k) (n - k)

/-- A unit of slice n issued under generation gen is current (R321); work of slice 0 always is. -/
def State.genCurrent (s : State) (n gen : Nat) : Bool := n == 0 || s.sliceGen n == gen

/-- A host write of PF1 on behalf of a slice: generation compared as each TLP is formed (R321), split by R301; nothing is written for a
slice in its curtain (R356). Payload writes may carry Relaxed Ordering; ring entries, completions and shadows never do. -/
def State.hostWrite (s : State) (l n gen addr : Nat) (data : List Byte) (payload : Bool) : State :=
  if !s.genCurrent n gen then s.bump .SLC_STALE_DISCARD n
  else if !s.masterOn l || (n != 0 && s.fld Fld.SLC_SLICE_STATE_STATE n == 3) then s
  else
    (splitSpan (sizeOfCode (s.func l 1).mps) (data.length + 1) addr data.length).foldl
      (fun s x => s.toHost l (.write (s.pasidOf n) none (payload && (s.func l 1).relaxed) x.1 (slice data (x.1 - addr) x.2))) s

/-! ## MSI-X (R296, R297, R301, R307) -/

/-- A table entry at reset: masked, address and data zero (R308). -/
def vectorDefault : Nat → BitVec 128 := fun _ => BitVec.ofNat 128 (2 ^ 96)
def Func.vector (f : Func) (v : Nat) : BitVec 128 := SMap.get vectorDefault f.vectors v
def Func.setVector (f : Func) (v : Nat) (x : BitVec 128) : Func := { f with vectors := SMap.set vectorDefault v x f.vectors }
def pbaDefault : Nat → Bool := fun _ => false
def Func.isPending (f : Func) (v : Nat) : Bool := SMap.get pbaDefault f.pba v
def Func.setPending (f : Func) (v : Nat) (b : Bool) : Func := { f with pba := SMap.set pbaDefault v b f.pba }

/-- The function may send the message of vector v now. -/
def Func.sends (f : Func) (v : Nat) : Bool := f.bme && !f.d3 && !f.msixMask && !(f.vector v).getLsbD 96

/-- An interrupt on a vector: sent, or pending while masked or while the function may not master (R301, R307). Without
MSI-X enabled nothing is sent. -/
def State.msix (s : State) (l fn v : Nat) : State :=
  let f := s.func l fn
  if !f.msixEn then s
  else if f.sends v then
    s.toHost l (.msi none fn v ((f.vector v).toNat % 2 ^ 64) (BitVec.ofNat 32 ((f.vector v).toNat / 2 ^ 64)))
  else s.setFunc l fn (f.setPending v true)

/-- Pending messages of a function leave once it may send them. -/
def State.flushMsix (s : State) (l fn : Nat) : State :=
  (s.func l fn).pba.foldl (fun s x =>
    let f := s.func l fn
    if f.msixEn && f.sends x.1 then (s.setFunc l fn (f.setPending x.1 false)).msix l fn x.1 else s) s

/-- An interrupt of a slice on a relative vector (R325). -/
def State.sliceIrq (s : State) (n v : Nat) : State :=
  let count := s.fld Fld.SLC_GRANT_Q_VECTOR_COUNT n
  if count = 0 then s.bump .SLC_IRQ_SUPPRESSED n
  else s.msix (s.fld Fld.SLC_SLICE_BIND_LINK n) 1 (s.fld Fld.SLC_GRANT_Q_VECTOR_BASE n + (if v < count then v else 0))

/-! ## Reads, tags and timers (R302 to R306) -/

/-- An advisory or uncorrectable error reported by AER on a function of a link. -/
def State.aer (s : State) (l fn code : Nat) : State := s.emit (.host l (.aer fn code))

def State.readsOfPort (s : State) (h : Nat) : List HostRead := s.hep.reads.filter (fun r => r.want.link / 4 == h)

/-- Requests outstanding on a port: link, request. -/
def State.outstanding (s : State) (h : Nat) : List (Nat × ReadReq) :=
  (s.readsOfPort h).flatMap (fun r => (r.reqs.filter (fun q => !q.done)).map (fun q => (r.want.link, q)))

/-- The tag may be issued on the port (R302, R306). -/
def State.tagFree (s : State) (h tag : Nat) : Bool :=
  !(s.outstanding h).any (fun x => x.2.tag == tag) && !s.hep.quarantine.any (fun q => q.port == h && q.tag == tag)

/-- Values a tag may have on the link, and how many may be outstanding on it (R302). -/
def State.tagRange (s : State) (l : Nat) : Nat × Nat :=
  if (s.hostLink l).flit then (16384, 16384) else if (s.func l 1).tag10 then (1024, 768) else (256, 256)

def State.linkOutstanding (s : State) (l : Nat) : Nat := ((s.outstanding (l / 4)).filter (fun x => x.1 == l)).length

def distinct (xs : List Nat) : Bool :=
  match xs with
  | [] => true
  | x :: xs => !xs.contains x && distinct xs

/-- Issues a read with the tags the port chose: one request a tag, each with its timer (R302, R305). None where the
tags do not serve. -/
def State.issueRead (s : State) (w : Want) (tags : List Nat) : Option State :=
  let spans := if w.len = 0 then [(w.addr, 0)] else splitSpan (sizeOfCode (s.func w.link 1).mrrs) (w.len + 1) w.addr w.len
  let range := s.tagRange w.link
  if tags.length == spans.length && distinct tags && tags.all (fun t => t < range.1 && s.tagFree (w.link / 4) t) &&
     s.linkOutstanding w.link + tags.length ≤ range.2 && (s.outstanding (w.link / 4)).length + tags.length ≤ 16384 then
    let limit := s.elapsed + timeoutNs (s.func w.link 1).timeout
    let reqs := (tags.zip spans).map (fun x => ReadReq.mk x.1 x.2.1 x.2.2 limit (List.replicate x.2.2 none) false)
    let s := { s with hep := { s.hep with reads := s.hep.reads ++ [{ want := w, reqs := reqs }] } }
    some (reqs.foldl (fun s q => s.toHost w.link (.read (s.pasidOf w.slc) none q.tag q.addr q.len)) s)
  else none

/-- All requests of the read have ended. -/
def HostRead.ended (r : HostRead) : Bool := r.reqs.all (·.done)

/-- The bytes of a read that is done. -/
def HostRead.bytes (r : HostRead) : List Byte := r.reqs.flatMap (fun q => q.data.map (·.getD 0))

/-- The requests of a read rewritten by tag. -/
def HostRead.mapTag (r : HostRead) (tag : Nat) (f : ReadReq → ReadReq) : HostRead :=
  { r with reqs := r.reqs.map (fun q => if q.tag == tag && !q.done then f q else q) }

def HostRead.hasTag (r : HostRead) (tag : Nat) : Bool := r.reqs.any (fun q => q.tag == tag && !q.done)

/-- The read that waits on a tag of a port. -/
def State.readOf (s : State) (h tag : Nat) : Option HostRead := (s.readsOfPort h).find? (·.hasTag tag)

/-- A read replaced; a failed read whose requests have all ended goes. -/
def State.setRead (s : State) (h tag : Nat) (f : HostRead → HostRead) : State :=
  { s with hep := { s.hep with
      reads := (s.hep.reads.map (fun r => if r.want.link / 4 == h && r.hasTag tag then f r else r)).filter
        (fun r => !(r.failed && r.ended)) } }

/-- Removes the reads for which p holds. -/
def State.dropReads (s : State) (p : HostRead → Bool) : State :=
  { s with hep := { s.hep with reads := s.hep.reads.filter (fun r => !p r) } }

/-- The data of the reads for which p holds is discarded as it arrives; a read that is done already goes. -/
def State.failReads (s : State) (p : HostRead → Bool) : State :=
  { s with hep := { s.hep with
      reads := (s.hep.reads.map (fun r => if p r then { r with failed := true } else r)).filter (fun r => !(r.failed && r.ended))
      wants := s.hep.wants.filter (fun w => !p { want := w, reqs := [] }) } }

/-- A tag retired: quarantined until the later of 1 ms and one timeout (R306). -/
def State.retireTag (s : State) (l tag : Nat) : State :=
  let q : Quarantine := ⟨l / 4, tag, s.elapsed + max 1000000 (timeoutNs (s.func l 1).timeout)⟩
  let s := { s with hep := { s.hep with quarantine := q :: s.hep.quarantine } }
  s.setRead (l / 4) tag (fun r => r.mapTag tag (fun x => { x with done := true }))

/-- Every tag of a link retired, its reads and waiting reads gone (R293, R308). -/
def State.retireLink (s : State) (l : Nat) : State :=
  let tags := ((s.outstanding (l / 4)).filter (fun x => x.1 == l)).map (fun x => x.2.tag)
  let s := s.failReads (fun r => r.want.link == l)
  tags.foldl (fun s t => s.retireTag l t) s

/-- A piece is discarded (R303, R306). -/
def State.discardPiece (s : State) (l : Nat) : State := (s.bump .HEP_UNEXPECTED_CPL l).aer l 1 2

/-! ## Units of a slice in flight (R321) -/

def queueDefault : Nat → Queue := fun _ => {}
def State.queue (s : State) (g : Nat) : Queue := SMap.get queueDefault s.qrg.queues g
def State.setQueue (s : State) (g : Nat) (q : Queue) : State :=
  { s with qrg := { s.qrg with queues := SMap.set queueDefault g q s.qrg.queues } }

/-- Global queue pairs of a slice (R333). -/
def State.sliceQueues (s : State) (n : Nat) : List Nat :=
  (List.range (s.fld Fld.SLC_GRANT_Q_QUEUE_COUNT n)).map (fun q => s.fld Fld.SLC_GRANT_Q_QUEUE_BASE n + q)

/-- The slice a global queue pair belongs to, and its relative number there. -/
def State.sliceOfQueue (s : State) (g : Nat) : Option (Nat × Nat) :=
  ((List.range 4096).find? (fun n => 0 < n && s.fld Fld.SLC_SLICE_STATE_STATE n != 0 &&
      s.fld Fld.SLC_GRANT_Q_QUEUE_BASE n ≤ g && g < s.fld Fld.SLC_GRANT_Q_QUEUE_BASE n + s.fld Fld.SLC_GRANT_Q_QUEUE_COUNT n)).map
    (fun n => (n, g - s.fld Fld.SLC_GRANT_Q_QUEUE_BASE n))

/-- The generation each unit of the slice in flight carries. -/
def State.unitGens (s : State) (n : Nat) : List Nat :=
  (s.sliceQueues n).flatMap (fun g => (s.queue g).cache.map (fun _ => s.sliceGen n)) ++
  ((s.qrg.jobs.filter (fun j => j.slc == n)).flatMap (fun j => j.entries.map (fun _ => j.gen))) ++
  ((s.hep.reads.filter (fun r => r.want.slc == n)).flatMap (fun r => (r.reqs.filter (fun q => !q.done)).map (fun _ => r.want.gen))) ++
  ((s.swc.frames.filter (fun f => f.ticket.slice.toNat == n)).map (fun f => f.ticket.gen.toNat)) ++
  ((s.sto.cmds.filter (fun c => c.slc == n)).map (·.gen)) ++
  (((s.cph.queue ++ s.cph.held).filter (fun q => q.slc == n)).map (·.gen)) ++
  (s.cph.engines.filterMap (fun e => match e.2.work with | .unit _ _ _ q => (if q.slc = n then some q.gen else none) | _ => none))

/-- STALE of a slice (R321). -/
def State.stale (s : State) (n : Nat) : Nat :=
  if n = 0 then 0 else ((s.unitGens n).filter (fun g => g != s.sliceGen n)).length

/-- The generation advances, unless a stale unit still carries the next value (R320). -/
def State.advance (s : State) (n : Nat) : State :=
  let g := (s.sliceGen n + 1) % 256
  if (s.unitGens n).any (fun u => u != s.sliceGen n && u == g) then s else s.setFld Fld.SLC_SLICE_STATE_GENERATION n g

/-- States of a slice (R317). -/
def State.sliceState (s : State) (n : Nat) : Nat := s.fld Fld.SLC_SLICE_STATE_STATE n
def State.sliceRuns (s : State) (n : Nat) : Bool := s.sliceState n == 1

/-- CFG_REFUSED of the SLC block. -/
def State.slcRefused (s : State) : State := s.setFld Fld.SLC_STATUS_CFG_REFUSED 0 1

end Sys2Proof.Machine
end

