-- ==== Sys2Proof/Machine/Tunnel.lean ====
section
/-! DEFINITION. The tunnel engine and the object interface of the offload block (R209 to R223, R233): contexts, VXLAN,
Geneve and ESP units, replay windows, rolls, and the OFL event FIFO. -/

namespace Sys2Proof.Machine

/-! ## Objects (R211, R224, R225) -/

def objDefault : Nat → List Byte := fun _ => List.replicate 128 0
def spaceDefault : Nat → List Byte := fun _ => List.replicate 32 0
def State.tun (s : State) (c : Nat) : List Byte := SMap.get objDefault s.ofl.ctxs c
def State.setTun (s : State) (c : Nat) (b : List Byte) : State :=
  { s with ofl := { s.ofl with ctxs := SMap.set objDefault c b s.ofl.ctxs } }
def State.conn (s : State) (c : Nat) : List Byte := SMap.get objDefault s.ofl.conns c
def State.setConn (s : State) (c : Nat) (b : List Byte) : State :=
  { s with ofl := { s.ofl with conns := SMap.set objDefault c b s.ofl.conns } }
def State.space (s : State) (c : Nat) : List Byte := SMap.get spaceDefault s.ofl.spaces c
def State.setSpace (s : State) (c : Nat) (b : List Byte) : State :=
  { s with ofl := { s.ofl with spaces := SMap.set spaceDefault c b s.ofl.spaces } }

def replayDefault : Nat → Replay := fun _ => {}
def State.replay (s : State) (c : Nat) : Replay := SMap.get replayDefault s.ofl.replay c
def State.setReplay (s : State) (c : Nat) (r : Replay) : State :=
  { s with ofl := { s.ofl with replay := SMap.set replayDefault c r s.ofl.replay } }

/-- Fields of a tunnel context (R211). -/
def tType (b : List Byte) : Nat := leAt b 0 1
def tFlag (b : List Byte) (n : Nat) : Bool := bit (leAt b 1 1) n
def tMtu (b : List Byte) : Nat := leAt b 2 2
def tId (b : List Byte) : Nat := leAt b 4 4
def tKey (b : List Byte) : Nat := leAt b 60 4 % 262144
def tSeq (b : List Byte) : Nat := leAt b 64 8
def tRollSeq (b : List Byte) : Nat := leAt b 72 8
def tNext (b : List Byte) : Nat := leAt b 80 2
def tWindow (b : List Byte) : Nat := leAt b 82 2
def tState (b : List Byte) : Nat := leAt b 84 1
def tV6 (b : List Byte) : Bool := tFlag b 0
def tEsn (b : List Byte) : Bool := tFlag b 3
def tUdp (b : List Byte) : Bool := tFlag b 4

/-- STATE and SEQ of a context replaced. -/
def State.setTunState (s : State) (c n : Nat) : State := s.setTun c (splice (s.tun c) 84 (toLE 1 n))
def State.setTunSeq (s : State) (c n : Nat) : State := s.setTun c (splice (s.tun c) 64 (toLE 8 n))

/-! ## Events (R233) -/

def State.oflEvent (s : State) (kind index cause : Nat) : State :=
  if s.ofl.events.length < 64 then
    ({ s with ofl := { s.ofl with events := s.ofl.events ++ [OflEvent.mk kind index cause] } }).cpcEvent 2
  else s.bump .OFL_EVENT_LOST 0

/-! ## Units at a tunnel port (R209, R213) -/

/-- The head copy of a tunnel port: arrived whole in the engine. -/
def State.arrivedAt (s : State) (port : Nat) : Option (Copy × Frame) :=
  match s.swc.arrived.find? (fun k => k.port == port) with
  | none => none
  | some k => (s.frame? k.frame).map (fun x => (k, s.shown k x))

/-- A copy leaves the engine. -/
def State.takeArrived (s : State) (k : Copy) : State :=
  ({ s with swc := { s.swc with arrived := removeCopy k s.swc.arrived } }).collect

/-- ENGINE_CTX of the record that forwarded a frame, as it stood when the decision was made (R209). -/
def Frame.engineCtx (x : Frame) : Nat := (x.decision.map (·.ctx)).getD 0

/-- A unit with a bad tail is dropped inside the engine (R168, R214). -/
def State.dropUnit (s : State) : State := s.bump .SWC_TAIL_DROP 0

/-- The context under which a unit starts, after the discards of R209 and R213: its index, or the counter of the
discard. -/
def State.pickContext (s : State) (x : Frame) (die : Nat) : Nat ⊕ RegName :=
  let c := x.engineCtx
  if c / 32768 ≠ die then .inr .OFL_WRONG_DIE
  else if s.fld Fld.OFL_CTRL_MAX_PASSES 0 < x.reentries + 1 then .inr .OFL_PASS_LIMIT
  else match tState (s.tun c) with
    | 1 => .inl c
    | 2 => if tState (s.tun (tNext (s.tun c))) = 1 then .inl (tNext (s.tun c)) else .inr .OFL_CTX_INACTIVE
    | 3 => .inr .OFL_SEQ_EXHAUSTED
    | _ => .inr .OFL_CTX_INACTIVE

/-- A unit's result re-enters the switch core (R210, R120): a new frame of the same ticket scene and ingress port. -/
def State.reenter (s : State) (x : Frame) (port : Nat) (octets : List Byte) (bad : Bool) (csum : BitVec 8) : State :=
  s.newFrame { id := 0, inPort := x.inPort, passPort := port, octets := octets, ended := true, bad := bad, rxClass := x.rxClass,
               time := x.time, ticket := { x.ticket with tailError := bad }, entered := true, passes := x.passes,
               emit := x.emit.map (fun e => { e with useTable := false, csum := 0 }),
               reentries := x.reentries + 1, csumResult := csum, learned := x.learned, first := some (x.first.getD x.octets) }

/-- Cipher path port of an ESP context (R210). -/
def espPort (c : Nat) : Nat := 324 + 4 * (c / 32768) + c % 4

/-! ## Encapsulation (R214 to R216) -/

/-- The unit's octets without FCS, every requested checksum written (R215 step 1). -/
def State.unitBody (s : State) (x : Frame) : List Byte :=
  let body := x.octets.take (x.octets.length - 4)
  match x.emit with
  | some e => insertChecksums (s.parseIn x.octets) body e.csum.toNat
  | none => body

/-- DSCP and ECN of the outer header (R214, R216): tos of the inner packet, none for a frame that is not IP. -/
def outerTos (b : List Byte) (inner : Option Nat) : Nat :=
  let dscp := match inner with
    | some t => if tFlag b 5 then t / 4 else leAt b 23 1 % 64
    | none => leAt b 23 1 % 64
  dscp * 4 + (match inner with
    | some t => t % 4
    | none => 0)

/-- The outer Ethernet header: DMAC, SMAC, TCI when VLAN is 1, EtherType (R214). -/
def outerEthernet (b : List Byte) (etherType : Nat) : List Byte :=
  slice b 8 12 ++ (if tFlag b 1 then toBE 2 0x8100 ++ toBE 2 (leAt b 20 2) else []) ++ toBE 2 etherType

/-- The outer IP header before n octets of protocol proto. w gives the identification, the don't-fragment bit and the
flow label, which the spec leaves open (assumption log entry 13). -/
def outerIp (b : List Byte) (tos proto n : Nat) (w : Word) : List Byte :=
  if tV6 b then
    toBE 4 (6 * 2 ^ 28 + tos * 2 ^ 20 + bits w.toNat 0 20) ++ toBE 2 n ++ toBE 1 proto ++ slice b 22 1 ++ slice b 24 16 ++ slice b 40 16
  else
    let h := toBE 1 0x45 ++ toBE 1 tos ++ toBE 2 (20 + n) ++ toBE 2 (bits w.toNat 0 16) ++ toBE 2 (bits w.toNat 16 1 * 0x4000) ++
      slice b 22 1 ++ toBE 1 proto ++ [0, 0] ++ slice b 36 4 ++ slice b 52 4
    splice h 10 (toBE 2 (csum16 (sumWords h)))

/-- The tunnel header of VXLAN (R214). -/
def vxlanHeader (b : List Byte) : List Byte := toBE 1 8 ++ [0, 0, 0] ++ toBE 3 (tId b % 2 ^ 24) ++ [0]

/-- The tunnel header of Geneve with its option template (R214). -/
def geneveHeader (b : List Byte) : List Byte :=
  toBE 1 (leAt b 85 1 / 4) ++ toBE 1 (flag (tFlag b 6) * 64) ++ toBE 2 0x6558 ++ toBE 3 (tId b % 2 ^ 24) ++ [0] ++
  slice b 92 (leAt b 85 1)

/-- The outer UDP checksum (R215 step 3): over IPv6 always, over IPv4 as asked. -/
def outerUdpSum (c : ParseIn) (b : List Byte) (bs : List Byte) : List Byte :=
  if tV6 b ∨ tFlag b 2 then writeL4 bs (ethHeads c bs 0) else bs

/-- A VXLAN or Geneve output without FCS (R214). -/
def encapsulate (c : ParseIn) (b : List Byte) (body : List Byte) (hash : Nat) (w : Word) : List Byte :=
  let h := ethHeads c body 0
  let tos := outerTos b (if h.ip.isSome then some (tosOf body h) else none)
  let th := if tType b = 1 then vxlanHeader b else geneveHeader b
  let udpLen := 8 + th.length + body.length
  let udp := toBE 2 (49152 + hash % 16384) ++ toBE 2 (leAt b 58 2) ++ toBE 2 udpLen ++ [0, 0]
  outerUdpSum c b (outerEthernet b (if tV6 b then 0x86DD else 0x0800) ++ outerIp b tos 17 udpLen w ++ udp ++ th ++ body)

/-- A whole unit at an encapsulating context of VXLAN or Geneve (R214): a bad tail drops it, an output above MTU is
counted. -/
def State.encapUnit (s : State) (k : Copy) (x : Frame) (c port : Nat) : State :=
  let b := s.tun c
  let s := s.takeArrived k
  if x.bad then s.dropUnit
  else
    let out := encapsulate (s.parseIn x.octets) b (s.unitBody x) x.ticket.flowHash.toNat s.free
    let s := s.drew
    if tMtu b < out.length + 4 then s.bump .OFL_TOO_BIG 0
    else s.reenter x port (withFcs out false) false 0

/-! ## Decapsulation (R216, R217) -/

/-- ECN of the exposed packet (R216): none when the unit is dropped. -/
def ecnDecap (outer inner : Nat) : Option Nat :=
  if outer = 3 then (if inner = 0 then none else some 3)
  else if outer = 1 ∧ inner = 2 then some 1
  else some inner

/-- Applies R216 to the exposed frame. -/
def exposeEcn (c : ParseIn) (bs : List Byte) (outer : Nat) : Option (List Byte) :=
  let h := ethHeads c bs 0
  match h.ip with
  | none => if outer = 3 then none else some bs
  | some _ =>
    let tos := tosOf bs h
    (ecnDecap outer (tos % 4)).map (fun e => if e = tos % 4 then bs else withTos bs h (tos - tos % 4 + e) true)

/-- An Ethernet header of the context before an IP packet (R217). -/
def addEthernet (b : List Byte) (ip : List Byte) : List Byte :=
  slice b 8 12 ++ toBE 2 (if leAt ip 0 1 / 16 = 6 then 0x86DD else 0x0800) ++ ip

/-- The packet a VXLAN or Geneve unit carries: none when R217 drops the unit as a mismatch. -/
def exposed (c : ParseIn) (b : List Byte) (body : List Byte) : Option (List Byte) :=
  let h := ethHeads c body 0
  match h.ip, h.l4 with
  | some ip, some (o, 17) =>
    let stop := min body.length (o + l4Span body ip o)
    let th := o + 8
    let vni := beAt body (th + 4) 3
    if vni ≠ tId b % 2 ^ 24 then none
    else if tType b = 2 then
      if bit (beAt body th 1) 3 then some ((body.take stop).drop (th + 8)) else none
    else if bits (beAt body th 1) 6 2 ≠ 0 then none
    else
      let inner := (body.take stop).drop (th + 8 + 4 * bits (beAt body th 1) 0 6)
      let ty := beAt body (th + 2) 2
      some (if ty = 0x0800 ∨ ty = 0x86DD then addEthernet b inner else inner)
  | _, _ => none

/-- A unit at a decapsulating context (R217). -/
def State.decapUnit (s : State) (k : Copy) (x : Frame) (c port : Nat) : State :=
  let b := s.tun c
  let s := s.takeArrived k
  let p := s.parseIn x.octets
  let body := s.unitBody x
  match exposed p b body with
  | none => s.bump .OFL_DECAP_MISMATCH 0
  | some inner =>
    match exposeEcn p inner (tosOf body (ethHeads p body 0) % 4) with
    | none => s.bump .OFL_ECN_DROP 0
    | some out => s.reenter x port (withFcs out x.bad) x.bad (BitVec.ofNat 8 (verifyLevel out (ethHeads p out 0)))

/-! ## Rolls (R222) -/

/-- A roll can take place. -/
def State.rollable (s : State) (c : Nat) : Bool :=
  let b := s.tun c
  let n := s.tun (tNext b)
  tNext b != c && tState n == 1 && tType n == tType b && tState b == 1

/-- A roll of an outbound context: whether it took place, and the state after it. hard says that the context can serve
no further unit. -/
def State.roll (s : State) (c : Nat) (hard : Bool) : Bool × State :=
  if s.rollable c then (true, ((s.setTunState c 2).bump .OFL_ROLLS 0).oflEvent 1 c 0)
  else
    let s := s.oflEvent 2 c 0
    (false, if hard then (s.setTunState c 3).oflEvent 3 c 0 else s)

/-- Last usable sequence number (R218). -/
def lastSeq (b : List Byte) : Nat := if tEsn b then 2 ^ 64 - 1 else 2 ^ 32 - 1

/-! ## ESP outbound (R218, R221) -/

/-- The clear parts of an outbound packet: the octets before the ESP header, the payload, and the next header. None for
an input the mode does not support. -/
def espParts (c : ParseIn) (b : List Byte) (body : List Byte) : Option (List Byte × List Byte × Nat) :=
  let h := ethHeads c body 0
  match h.ip with
  | none => none
  | some (o, v4) =>
    let stop := if v4 then o + beAt body (o + 2) 2 else o + 40 + beAt body (o + 4) 2
    if tType b = 5 then some ([], (body.take stop).drop o, if v4 then 4 else 41)
    else match v4, h.l4 with
      | true, _ =>
        let l4 := o + 4 * bits (beAt body o 1) 0 4
        some (body.take l4, (body.take stop).drop l4, beAt body (o + 9) 1)
      | false, some (l4, proto) => some (body.take l4, (body.take stop).drop l4, proto)
      | false, none => none

/-- Padding, pad length and next header (R218). -/
def espTrailer (len next : Nat) : List Byte :=
  let pad := (4 - (len + 2) % 4) % 4
  (List.range pad).map (fun i => BitVec.ofNat 8 (i + 1)) ++ toBE 1 pad ++ toBE 1 next

/-- The transport-mode headers with protocol ESP (or UDP) and a new length, the IPv4 checksum rewritten (R218). -/
def transportHead (c : ParseIn) (head : List Byte) (proto n : Nat) : List Byte :=
  let h := ethHeads c head 0
  match h.ip with
  | some (o, true) =>
    let ihl := head.length - o
    let z := splice (splice head (o + 2) (toBE 2 (ihl + n))) (o + 9) (toBE 1 proto)
    writeIp4 z { h with ip := some (o, true) }
  | some (o, false) => splice (splice head (o + 4) (toBE 2 n)) (o + 6) (toBE 1 proto)
  | none => head

/-- The UDP header of RFC 3948 (R221), its checksum zero. -/
def espUdp (b : List Byte) (n : Nat) : List Byte :=
  if tUdp b then toBE 2 (leAt b 56 2) ++ toBE 2 (leAt b 58 2) ++ toBE 2 (8 + n) ++ [0, 0] else []

/-- Everything before the ESP header: for n octets from the ESP header to the ICV. -/
def espHead (c : ParseIn) (b : List Byte) (head body : List Byte) (n : Nat) (w : Word) : List Byte :=
  let u := if tUdp b then 8 else 0
  let proto := if tUdp b then 17 else 50
  let h := ethHeads c body 0
  if tType b = 5 then
    outerEthernet b (if tV6 b then 0x86DD else 0x0800) ++ outerIp b (outerTos b (some (tosOf body h))) proto (u + n) w ++ espUdp b n
  else transportHead c head proto (u + n) ++ espUdp b n

/-- The AAD of RFC 4106: SPI and the sequence number, 64-bit with ESN. -/
def espAad (b : List Byte) (seq : Nat) : List Byte :=
  toBE 4 (tId b) ++ (if tEsn b then toBE 8 seq else toBE 4 seq)

/-- An outbound unit under context c (R218): it takes its sequence number and is submitted for encryption with key
succession suppressed. port is the tunnel port it came by. -/
def State.espOut (s : State) (x : Frame) (c port : Nat) : State :=
  let b := s.tun c
  let p := s.parseIn x.octets
  let body := s.unitBody x
  match espParts p b body with
  | none => s.bump .OFL_UNSUPPORTED_UNIT 0
  | some (head, clear, next) =>
    let payload := clear ++ espTrailer clear.length next
    let n := 16 + payload.length + 16
    let h := espHead p b head body n s.free
    let s := s.drew
    if tMtu b < h.length + n + 4 then s.bump .OFL_TOO_BIG 0
    else if lastSeq b < tSeq b then ((s.roll c true).2).bump .OFL_SEQ_EXHAUSTED 0
    else
      let seq := tSeq b
      let s := s.setTunSeq c (seq + 1)
      let job := s.ofl.nextJob
      let aad := espAad b seq
      let pre := h ++ toBE 4 (tId b) ++ toBE 4 seq
      let j : TunnelJob := { id := job, frame := x, ctx := c, obj := b, port := port, seq := seq, inbound := false, head := pre, aad := aad,
                             payload := payload, ecn := 0 }
      let s := { s with ofl := { s.ofl with jobs := s.ofl.jobs ++ [j], nextJob := job + 1 } }
      let raw := requestBytes 1 1 aad.length payload.length (tKey b) x.ticket.slice.toNat x.ticket.gen.toNat 0 0 0 job
      let s := s.submitCipher { requester := .tunnel (if c < 32768 then 0 else 1), raw := raw, input := aad ++ payload }
      if seq = lastSeq b then (s.roll c true).2
      else if tRollSeq b ≠ 0 ∧ tRollSeq b ≤ seq + 1 ∧ tState (s.tun c) = 1 then (s.roll c false).2
      else s

/-- Checksums of a finished ESP packet: over IPv6 the UDP checksum is written, over IPv4 it stays zero (R215). -/
def espFinish (c : ParseIn) (b : List Byte) (bs : List Byte) : List Byte :=
  let h := ethHeads c bs 0
  match h.ip with
  | some (_, false) => if tUdp b then writeL4 bs h else bs
  | _ => bs

/-- The cipher result of an outbound job (R218, R222). The unit ends under the fields of its context as they were at its start (R213);
a roll acts on the context as it is. -/
def State.espOutDone (s : State) (j : TunnelJob) (r : CipherResult) : State :=
  let b := s.tun j.ctx
  let s := { s with ofl := { s.ofl with jobs := s.ofl.jobs.filter (fun y => y.id != j.id) } }
  let status := leAt r.result 0 1
  let out := j.head ++ toBE 8 (leAt r.result 8 8) ++ r.output
  if status = 0 then
    s.reenter j.frame (espPort j.ctx) (withFcs (espFinish (s.parseIn j.frame.octets) j.obj out) false) false 0
  else if status = 6 then
    let (ok, s) := if tState b = 1 then s.roll j.ctx true else (tState b == 2, s)
    if ok ∧ tState (s.tun (tNext b)) = 1 then s.espOut j.frame (tNext b) j.port else s.bump .OFL_SEQ_EXHAUSTED 0
  else if leAt r.result 4 4 = 0 then s
  else s.reenter j.frame (espPort j.ctx) (withFcs out true) true 0

/-- Outbound tunnel results that wait are carried out, in order. -/
def State.settleTunnel (s : State) : State :=
  let mine := s.cph.results.filterMap (fun r =>
    (s.ofl.jobs.find? (fun j => !j.inbound && (match r.requester with | .tunnel _ => true | _ => false) && j.id == r.cookie)).map (fun j => (j, r)))
  mine.foldl (fun s x =>
    ({ s with cph := { s.cph with results := s.cph.results.filter (fun r => r != x.2) } }).espOutDone x.1 x.2) s

/-! ## ESP inbound (R219, R220) -/

/-- The sequence number inferred by RFC 4303 Appendix A2.2 (R219 step 2). -/
def inferSeq (w t low : Nat) : Nat :=
  let tl := t % 2 ^ 32
  let th := t / 2 ^ 32
  let high := fun (n : Nat) => n % 2 ^ 32 * 2 ^ 32 + low
  if w ≤ tl + 1 then high (if tl + 1 - w ≤ low then th else th + 1)
  else high (if tl + 2 ^ 32 + 1 - w ≤ low then th + 2 ^ 32 - 1 else th)

/-- Where the ESP header of an inbound unit lies; with UDP_ENCAP after the UDP header. -/
def espAt (c : ParseIn) (b : List Byte) (body : List Byte) : Option Nat :=
  let h := ethHeads c body 0
  match h.l4 with
  | some (o, proto) => if tUdp b then (if proto = 17 then some (o + 8) else none) else if proto = 50 then some o else none
  | none => none

/-- The unit is a NAT keepalive (R220): one octet of 0xFF in UDP. -/
def isKeepalive (c : ParseIn) (b : List Byte) (body : List Byte) : Bool :=
  let h := ethHeads c body 0
  match h.l4 with
  | some (o, 17) => tUdp b && beAt body (o + 4) 2 == 9 && beAt body (o + 8) 1 == 0xFF
  | _ => false

/-- The replay check refuses a sequence number (R219 step 3). -/
def replayRefuses (w t s : Nat) (r : Replay) : Bool :=
  w != 0 && (decide (s + w ≤ t) || r.accepted.contains s || r.pending.contains s)

/-- An inbound unit (R219 steps 1 to 3): its checks, and its submission for decryption. Transport mode drops one with a bad tail; tunnel
mode has begun its output by then (R220). -/
def State.espIn (s : State) (k : Copy) (x : Frame) (c port : Nat) : State :=
  let b := s.tun c
  let s := s.takeArrived k
  let p := s.parseIn x.octets
  let body := s.unitBody x
  if isKeepalive p b body then s.bump .OFL_NATT_KEEPALIVE 0
  else match espAt p b body with
    | none => s.bump .OFL_DECAP_MISMATCH 0
    | some o =>
      let h := ethHeads p body 0
      let stop := match h.ip with
        | some (i, true) => min body.length (i + beAt body (i + 2) 2)
        | some (i, false) => min body.length (i + 40 + beAt body (i + 4) 2)
        | none => body.length
      if stop < o + 32 ∨ beAt body o 4 ≠ tId b then s.bump .OFL_DECAP_MISMATCH 0
      else
        let low := beAt body (o + 4) 4
        let seq := if tEsn b then inferSeq (tWindow b) (tSeq b) low else low
        let r := s.replay c
        if replayRefuses (tWindow b) (tSeq b) seq r then s.bump .OFL_ESP_REPLAY 0
        else if x.bad ∧ tType b = 8 then s.dropUnit
        else
          let s := if tWindow b ≠ 0 then s.setReplay c { r with pending := seq :: r.pending } else s
          let job := s.ofl.nextJob
          let aad := espAad b seq
          let cipher := (body.take stop).drop (o + 16)
          let j : TunnelJob := { id := job, frame := x, ctx := c, obj := b, port := port, seq := seq, inbound := true, head := body.take o,
                                 aad := aad, payload := cipher, ecn := tosOf body h % 4 }
          let s := { s with ofl := { s.ofl with jobs := s.ofl.jobs ++ [j], nextJob := job + 1 } }
          let raw := requestBytes 2 1 aad.length (cipher.length - 16) (tKey b) x.ticket.slice.toNat x.ticket.gen.toNat
            (s.keyCtx (tKey b)).epoch.toNat (beAt body (o + 8) 8) 0 job
          s.submitCipher { requester := .tunnel (if c < 32768 then 0 else 1), raw := raw, input := aad ++ cipher }

/-- The trailer of a decrypted unit (R220): the packet without it and the next header, when pad octets and length agree. -/
def splitTrailer (dec : List Byte) : Option (List Byte × Nat) :=
  let n := dec.length
  if n < 2 then none
  else
    let next := beAt dec (n - 1) 1
    let pad := beAt dec (n - 2) 1
    if n < pad + 2 then none
    else if (dec.drop (n - 2 - pad)).take pad == (List.range pad).map (fun i => BitVec.ofNat 8 (i + 1)) then
      some (dec.take (n - 2 - pad), next)
    else none

/-- Length of an IP packet by its own header. -/
def ipLength (ip : List Byte) : Nat := if leAt ip 0 1 / 16 = 6 then 40 + beAt ip 4 2 else beAt ip 2 2

/-- The transport-mode packet restored (R220): the ESP and UDP headers gone, protocol and length restored. -/
def restoreTransport (c : ParseIn) (b : List Byte) (head inner : List Byte) (next : Nat) : List Byte :=
  transportHead c (if tUdp b then head.take (head.length - 8) else head) next inner.length ++ inner

/-- Output of an inbound unit in tunnel mode (R216, R220): the added header and the decrypted packet to its own length, with a good or a
bad tail. Nothing decrypted gives no output. -/
def State.espStream (s : State) (j : TunnelJob) (dec : List Byte) (bad : Bool) : State :=
  let p := s.parseIn j.frame.octets
  if dec.isEmpty then s
  else match exposeEcn p (addEthernet j.obj (dec.take (ipLength dec))) j.ecn with
    | none => s.bump .OFL_ECN_DROP 0
    | some out =>
      s.reenter j.frame (espPort j.ctx) (withFcs out bad) bad (if bad then 0 else BitVec.ofNat 8 (verifyLevel out (ethHeads p out 0)))

/-- The window after a unit has authenticated (R219 step 4). A WRITE without KEEP_STATE has taken the pending mark away, and the unit then
changes nothing of the new window (assumption log entry 32). -/
def State.accept (s : State) (j : TunnelJob) : State :=
  let rp := s.replay j.ctx
  let w := tWindow j.obj
  let t := max (tSeq (s.tun j.ctx)) j.seq
  if w = 0 then (if tType (s.tun j.ctx) = tType j.obj then s.setTunSeq j.ctx t else s)
  else if !rp.pending.contains j.seq then s
  else
    (s.setReplay j.ctx { accepted := (j.seq :: rp.accepted).filter (fun a => t < a + w), pending := rp.pending.filter (· != j.seq) }).setTunSeq j.ctx t

/-- The pending mark of a unit is cleared, the window unchanged (R219 step 4). -/
def State.unmark (s : State) (j : TunnelJob) : State :=
  let rp := s.replay j.ctx
  s.setReplay j.ctx { rp with pending := rp.pending.filter (· != j.seq) }

/-- An inbound unit fails its trailer check (R220). -/
def State.trailerFails (s : State) (j : TunnelJob) (dec : List Byte) : State :=
  let s := s.bump .OFL_ESP_TRAILER 0
  if tType j.obj = 6 then s.espStream j dec true else s

/-- An inbound unit's decryption ends (R219 step 4, R220), under the fields its context had at the unit's start (R213). -/
def State.espInDone (s : State) (j : TunnelJob) (r : CipherResult) : State :=
  let s := { s with ofl := { s.ofl with jobs := s.ofl.jobs.filter (fun y => y.id != j.id) } }
  let p := s.parseIn j.frame.octets
  let tunnel := tType j.obj = 6
  if j.frame.bad then
    (s.unmark j).espStream j r.output true
  else if leAt r.result 0 1 ≠ 0 then
    let s := s.unmark j
    let s := if leAt r.result 0 1 = 5 then s.bump .OFL_ESP_AUTH_FAIL 0 else s
    if tunnel ∧ leAt r.result 4 4 ≠ 0 then s.espStream j r.output true else s
  else
    let s := s.accept j
    match splitTrailer r.output with
    | none => s.trailerFails j r.output
    | some (inner, next) =>
      if next = 59 then s.bump .OFL_ESP_DUMMY 0
      else if tunnel then
        let v6 := leAt inner 0 1 / 16 = 6
        if (next = 4 ∧ ¬ v6 ∨ next = 41 ∧ v6) ∧ ipLength inner = inner.length then s.espStream j inner false
        else s.trailerFails j r.output
      else if next = 4 ∨ next = 41 then s.trailerFails j r.output
      else
        let out := restoreTransport p j.obj j.head inner next
        s.reenter j.frame (espPort j.ctx) (withFcs out false) false (BitVec.ofNat 8 (verifyLevel out (ethHeads p out 0)))

/-- The first waiting result of an inbound job of a die. -/
def State.inboundResult (s : State) (die : Nat) : Option (TunnelJob × CipherResult) :=
  s.cph.results.findSome? (fun r =>
    (s.ofl.jobs.find? (fun j => j.inbound && (match r.requester with | .tunnel d => d.val == die | _ => false) && j.id == r.cookie)).map (fun j => (j, r)))

/-! ## The object interface (R211 to R213, R224, R225) -/

/-- The 128 bytes staged in OFL_OBJ_DATA. -/
def State.objData (s : State) : List Byte := (List.range 32).flatMap (fun i => toLE 4 (s.fld Fld.OFL_OBJ_DATA_BYTES i))
def State.setObjData (s : State) (bs : List Byte) (n : Nat) : State :=
  (List.range n).foldl (fun s i => s.setFld Fld.OFL_OBJ_DATA_BYTES i (leAt bs (4 * i) 4)) s

def State.objStatus (s : State) (n : Nat) : State := s.setFld Fld.OFL_OBJ_STATUS_LAST_STATUS 0 n

/-- A power of two from 64 to 4,096. -/
def windowOk (w : Nat) : Bool := [0, 64, 128, 256, 512, 1024, 2048, 4096].contains w

/-- A tunnel context WRITE breaks R211. -/
def tunMalformed (c : Nat) (b : List Byte) : Bool :=
  8 < tType b || tMtu b < 64 || 10240 < tMtu b || !windowOk (tWindow b) ||
  ((tType b == 6 || tType b == 8) && tEsn b && tWindow b == 0) || 262143 < leAt b 60 4 || tNext b / 32768 != c / 32768 ||
  !allZero (slice b 86 6)

/-- The reserved bits of an object read zero, whatever was written to them (R5, R211, R224, R225). -/
def tunClean (b : List Byte) : List Byte := splice (splice b 1 (toLE 1 (leAt b 1 1 % 128))) 23 (toLE 1 (leAt b 23 1 % 64))
def connClean (b : List Byte) : List Byte :=
  toLE 2 (leAt b 0 1 + 256 * (leAt b 1 1 % 16)) ++ slice b 2 28 ++ toLE 2 (leAt b 30 1 % 64 + 256 * (leAt b 31 1 % 8)) ++ slice b 32 45 ++ [0] ++
  slice b 78 4 ++ toLE 2 (leAt b 82 2 % 2048) ++ slice b 84 1 ++ [0, 0, 0] ++ slice b 88 4 ++ List.replicate 36 0
def spaceClean (b : List Byte) : List Byte :=
  toLE 2 (leAt b 0 2 % 4096) ++ slice b 2 1 ++ toLE 1 (leAt b 3 1 % 8) ++ slice b 4 2 ++ [0, 0] ++ slice b 8 4 ++ toLE 4 (leAt b 12 4 % 262144) ++
  slice b 16 16

/-- A connection WRITE breaks the ranges of R224. -/
def connMalformed (c : Nat) (b : List Byte) : Bool :=
  8191 < c || 2 < leAt b 0 1 ||
  (leAt b 0 1 != 0 && (leAt b 2 2 == 0 || 1024 < leAt b 2 2 || leAt b 12 4 == 0 || 60000 < leAt b 12 4 ||
    14 < leAt b 76 1 % 16 || 14 < leAt b 76 1 / 16 || 2 < leAt b 84 1 ||
    (leAt b 0 1 == 1 && bits (leAt b 82 2) 3 5 == 0) ||
    (leAt b 0 1 == 2 && (leAt b 78 2 < 536 || 9000 < leAt b 78 2 || leAt b 88 4 < 4096))))

/-- Fields of a namespace (R225). -/
def nsSlice (b : List Byte) : Nat := leAt b 0 2 % 4096
def nsId (b : List Byte) : Nat := leAt b 2 1
def nsValid (b : List Byte) : Bool := bit (leAt b 3 1) 0
def nsConn (b : List Byte) : Nat := leAt b 4 2

/-- The engine die of a slice's host port (R17). -/
def State.sliceDie (s : State) (n : Nat) : Nat := s.fld Fld.SLC_SLICE_BIND_LINK n / 32

/-- A namespace WRITE breaks R225. -/
def State.spaceMalformed (s : State) (i : Nat) (b : List Byte) : Bool :=
  nsConn b / 4096 != s.sliceDie (nsSlice b) ||
  nsValid b &&
  (nsSlice b == 0 || nsId b == 0 || 16 < nsId b ||
   s.ofl.spaces.any (fun x => x.1 != i && nsValid x.2 && nsSlice x.2 == nsSlice b && nsId x.2 == nsId b))

/-- Whether a type is one of R211's outbound ESP types. -/
def espOutType (t : Nat) : Bool := t == 5 || t == 7

/-- A connection is written: one that was not READY takes its transport state over from firmware, with nothing in flight (R224). -/
def State.takeOver (s : State) (i : Nat) (b : List Byte) : State :=
  let t := s.setConn i b
  if leAt (s.conn i) 84 1 = 1 then t else { t with sto := { t.sto with runs := SMap.set (fun _ => {}) i {} t.sto.runs } }

/-- A WRITE of an object (R213): the status, and the state after it. KEEP_STATE keeps the live SEQ and replay window. -/
def State.objWrite (s : State) (type i : Nat) (keep : Bool) : Nat × State :=
  let b := s.objData
  match type with
  | 0 =>
    if tunMalformed i b then (0x01, s)
    else
      let b := splice (tunClean b) 84 (toLE 1 (if tType b = 0 then 0 else 1))
      if keep then (0, s.setTun i (splice b 64 (slice (s.tun i) 64 8)))
      else (0, (s.setTun i b).setReplay i {})
  | 1 => if connMalformed i b then (0x01, s) else (0, s.takeOver i (connClean b))
  | 2 => if s.spaceMalformed i (b.take 32) then (0x01, s) else (0, s.setSpace i (spaceClean (b.take 32)))
  | _ => (0x01, s)

/-- A READ of an object. -/
def State.objRead (s : State) (type i : Nat) : Nat × State :=
  match type with
  | 0 => (0, s.setObjData (s.tun i) 32)
  | 1 => if 8191 < i then (0x01, s) else (0, s.setObjData (s.conn i) 32)
  | 2 => (0, s.setObjData (s.space i) 8)
  | _ => (0x01, s)

/-- A ROLL of an outbound ESP context (R222). -/
def State.objRoll (s : State) (type i : Nat) : Nat × State :=
  if type = 0 ∧ espOutType (tType (s.tun i)) then
    let (ok, s) := s.roll i false
    (if ok then 0 else 0xB0, s)
  else (0x0D, s)

/-- A command of OFL_OBJ_CMD performed, its status left in OFL_OBJ_STATUS. -/
def finishObj (r : Nat × State) : State := r.2.objStatus r.1

end Sys2Proof.Machine
end

