-- ==== Sys2Proof/Machine/Queue.lean ====
section
/-! DEFINITION. Queue rings and doorbells (R333 to R357): indices, doorbells, prefetch, entries, completions, interrupts,
receive delivery and the queue states. g is a global queue pair, n its slice, q its relative number. -/

namespace Sys2Proof.Machine

/-! ## Rings (R335, R336) -/

/-- count(p, c) of R336. -/
def ringHeld (p c size : Nat) : Nat := (p + 2 * size - c % (2 * size)) % (2 * size)

def State.sqSize (s : State) (g : Nat) : Nat := 2 ^ s.fld Fld.QRG_Q_CTRL_SQ_LOG2 g
def State.cqSize (s : State) (g : Nat) : Nat := 2 ^ s.fld Fld.QRG_Q_CTRL_CQ_LOG2 g
def State.queueKind (s : State) (g : Nat) : Nat := s.fld Fld.SLC_QUEUE_CFG_KIND g
def State.receives (s : State) (g : Nat) : Bool := s.queueKind g == 0 && s.flagAt Fld.QRG_Q_CTRL_ROLE g
def State.transmits (s : State) (g : Nat) : Bool := s.queueKind g == 0 && !s.flagAt Fld.QRG_Q_CTRL_ROLE g
def State.sliceFormat (s : State) (n : Nat) : Nat := s.fld Fld.SLC_SLICE_STATE_FORMAT n
def State.sliceLink (s : State) (n : Nat) : Nat := s.fld Fld.SLC_SLICE_BIND_LINK n

/-- Bytes of a submission entry (R342, R345). -/
def State.entrySize (s : State) (g n : Nat) : Nat := if s.queueKind g = 0 ∧ s.sliceFormat n = 1 then 32 else 64

/-- Empty slots of the completion ring. -/
def State.cqFree (s : State) (g : Nat) : Nat := s.cqSize g - ringHeld (s.queue g).cqP (s.queue g).cqC (s.cqSize g)

/-- free + 8 - overflow - owed of R347. -/
def State.takeable (s : State) (g : Nat) : Nat := s.cqFree g + 8 - (s.queue g).overflow.length - (s.queue g).owed

/-- Posted entries not yet taken. -/
def State.posted (s : State) (g : Nat) : Nat := ringHeld (s.queue g).p (s.queue g).c (s.sqSize g)

/-! ## Head shadow, interrupts, errors (R349, R350, R353) -/

def QState.code (q : QState) : Nat := match q with | .DISABLED => 0 | .RUNNING => 1 | .DRAINING => 2 | .ERROR => 3

/-- The head shadow (R349). -/
def State.writeShadow (s : State) (g n : Nat) : State :=
  let a := 8 * s.fld Fld.QRG_Q_SHADOW_ADDR g
  let q := s.queue g
  if a = 0 then s
  else s.hostWrite (s.sliceLink n) n (s.sliceGen n) a
    (toLE 2 q.c ++ toLE 2 q.cqP ++ toLE 1 q.state.code ++ toLE 1 q.errCode ++ toLE 1 (s.sliceGen n) ++ [0]) false

/-- The queue's interrupt is sent (R350). -/
def State.queueIrq (s : State) (g n : Nat) : State :=
  (s.setQueue g { s.queue g with unsignalled := 0 }).sliceIrq n (s.fld Fld.QRG_Q_CTRL_VECTOR g)

/-- A queue enters ERROR (R353): cause and index latched, shadow written, state change signalled. -/
def State.queueError (s : State) (g n code index source : Nat) : State :=
  ((s.setQueue g { s.queue g with state := .ERROR, errCode := code, errIndex := index, errSource := source }).writeShadow g n).queueIrq g n

/-! ## Completions (R345, R348, R349, R351) -/

/-- One completion written to the ring at the producer, with its phase, which inverts on every later lap. -/
def State.writeCpl (s : State) (g n : Nat) (c : Cpl) : State :=
  let q := s.queue g
  let size := s.cqSize g
  let at_ := if s.queueKind g = 0 then 15 else 14
  let ph := if s.queueKind g = 0 then 128 else 1
  let old := leAt c.bytes at_ 1
  let bytes := splice c.bytes at_ (toLE 1 (if q.phase then old + ph else old))
  let s := s.hostWrite (s.sliceLink n) n (s.sliceGen n) (64 * s.fld Fld.QRG_Q_CQ_BASE_ADDR g + 16 * (q.cqP % size)) bytes false
  let p := (q.cqP + 1) % (2 * size)
  s.setQueue g { q with cqP := p, phase := if p % size = 0 then !q.phase else q.phase, unsignalled := q.unsignalled + 1,
                        since := if q.unsignalled = 0 then s.elapsed else q.since, irqUs := s.fld Fld.QRG_Q_IRQ_IRQ_US g }

/-- Overflow entries are written as slots are free, oldest first. -/
def State.drainOverflow (s : State) (g n : Nat) : Nat → State
  | 0 => s
  | fuel + 1 =>
    match (s.queue g).overflow with
    | c :: rest =>
      if s.cqFree g = 0 then s
      else
        let s := s.setQueue g { s.queue g with overflow := rest }
        (s.writeCpl g n c).drainOverflow g n fuel
    | [] => s

/-- A completion formed: its submission head filled in; into the ring, or into the overflow when the ring is full or
others wait. -/
def State.formCpl (s : State) (g n : Nat) (c : Cpl) : State :=
  let q := s.queue g
  let bytes := if s.queueKind g = 0 then splice c.bytes 4 (toLE 2 q.c) else splice c.bytes 8 (toLE 2 (q.c % s.sqSize g))
  let c := { c with bytes := bytes }
  let s := s.setQueue g { q with owed := q.owed - 1 }
  if q.overflow.isEmpty && s.cqFree g != 0 then s.writeCpl g n c
  else s.setQueue g { s.queue g with overflow := q.overflow ++ [c], stall := if q.overflow.isEmpty then s.elapsed else q.stall }

/-- A draining queue with nothing owed becomes DISABLED (R355). -/
def State.settleDraining (s : State) (g n : Nat) : State :=
  let q := s.queue g
  if q.state == .DRAINING && q.owed == 0 && q.overflow.isEmpty then (s.setQueue g { q with state := .DISABLED }).writeShadow g n
  else s

/-- The interrupt after a group of completion writes: irq tells whether one of them asked for it (R350). -/
def State.groupIrq (s : State) (g n : Nat) (irq : Bool) : State :=
  let count := s.fld Fld.QRG_Q_IRQ_IRQ_COUNT g
  let us := s.fld Fld.QRG_Q_IRQ_IRQ_US g
  let un := (s.queue g).unsignalled
  if un != 0 && (irq || (count != 0 && count ≤ un) || (count == 0 && us == 0)) then s.queueIrq g n else s

/-- Everything ready is formed and written, then the shadow and the interrupt (R349, R350). -/
def State.completionWrite (s : State) (g n : Nat) : State :=
  let ready := (s.queue g).ready
  let waiting := (s.queue g).overflow ++ ready
  let before := (s.queue g).cqP
  let s := s.setQueue g { s.queue g with ready := [] }
  let s := ready.foldl (fun s c => s.formCpl g n c) s
  let wrote := ringHeld (s.queue g).cqP before (s.cqSize g)
  if wrote = 0 then s.settleDraining g n
  else (((s.writeShadow g n).groupIrq g n ((waiting.take wrote).any (·.irq))).settleDraining g n)

/-- A completion becomes ready to be formed, unless its entry was taken in an earlier life of the queue, whose completions were discarded
or abandoned (R355, R356). -/
def State.addReady (s : State) (g life : Nat) (c : Cpl) : State :=
  let q := s.queue g
  if q.state == .DISABLED || q.life != life then s else s.setQueue g { q with ready := q.ready ++ [c] }

/-- A network completion (R348): SQ head and phase are filled in later. -/
def netCpl (len index status csum flags cls tag : Nat) : List Byte :=
  toLE 4 len ++ [0, 0] ++ toLE 2 index ++ toLE 1 status ++ toLE 1 csum ++ toLE 1 flags ++ toLE 1 cls ++ toLE 2 tag ++ [0, 0]

/-- A storage completion (R345): status field in DW3 [31:17]. -/
def stCpl (q cid status dw0 : Nat) : List Byte :=
  toLE 4 dw0 ++ toLE 4 0 ++ [0, 0] ++ toLE 2 q ++ toLE 2 cid ++ toLE 2 (2 * status)

/-! ## Prefetch (R340) -/

/-- Entries of a queue that fetches in flight still stand for. -/
def State.fetching (s : State) (g : Nat) : Nat :=
  let of_ : Want → Nat := fun w => match w.why with | .ring q _ _ keep => if q = g then keep else 0 | _ => 0
  ((s.hep.wants.map of_).sum) + (((s.hep.reads.filter (fun r => !r.failed)).map (fun r => of_ r.want)).sum)

/-- More entries of the frame at the head are needed than are cached (R343). -/
def State.needsMore (s : State) (g : Nat) : Bool :=
  s.transmits g && (s.queue g).cache.all (fun e => bit (leAt e.2 10 1) 0)

/-- Asks for the next run of entries, up to PREFETCH of them, or one more where the frame at the head needs it. -/
def State.prefetchOnce (s : State) (g n : Nat) : State :=
  let q := s.queue g
  let size := s.sqSize g
  let have_ := q.cache.length + s.fetching g
  let limit := max (s.fld Fld.QRG_Q_CTRL_PREFETCH g) (if s.needsMore g then q.cache.length + 1 else 0)
  let first := (q.c + have_) % (2 * size)
  let m := min (min (limit - have_) (s.posted g - have_)) (size - first % size)
  if q.state != .RUNNING || m = 0 then s
  else
    let es := s.entrySize g n
    let w : Want := { link := s.sliceLink n, slc := n, gen := s.sliceGen n, why := .ring g first m m,
                      addr := 64 * s.fld Fld.QRG_Q_SQ_BASE_ADDR g + es * (first % size), len := es * m }
    { s with hep := { s.hep with wants := s.hep.wants ++ [w] } }

/-- Prefetch, over the end of the ring when it must. -/
def State.prefetch (s : State) (g n : Nat) : State := (s.prefetchOnce g n).prefetchOnce g n

/-- Fetched entries and fetches in flight from a position on are dropped: keep of them, counted from C, stay. -/
def State.cutFetches (s : State) (g keep : Nat) : State :=
  let q := s.queue g
  let size := s.sqSize g
  let cut : Want → Want := fun w => match w.why with
    | .ring h first n k => if h = g then { w with why := .ring h first n (min k (keep - ringHeld first q.c size)) } else w
    | _ => w
  let s := s.setQueue g { q with cache := q.cache.filter (fun e => ringHeld e.1 q.c size < keep) }
  { s with hep := { s.hep with wants := s.hep.wants.map cut, reads := s.hep.reads.map (fun r => { r with want := cut r.want }) } }

/-- A finished fetch is cached (R340); its generation is compared first (R321). -/
def State.entryFetched (s : State) (g n : Nat) : State :=
  let mine : HostRead → Bool := fun r => !r.failed && r.ended && (match r.want.why with | .ring q _ _ _ => q == g | _ => false)
  match s.hep.reads.find? mine with
  | none => s
  | some r =>
    let s := { s with hep := { s.hep with reads := s.hep.reads.erase r } }
    if !s.genCurrent n r.want.gen then s.bump .SLC_STALE_DISCARD n
    else match r.want.why with
      | .ring _ first _ keep =>
        let es := s.entrySize g n
        let size := s.sqSize g
        let new := (List.range keep).map (fun i => ((first + i) % (2 * size), slice r.bytes (es * i) es))
        let q := s.queue g
        if q.state == .RUNNING then (s.setQueue g { q with cache := q.cache ++ new }).prefetch g n else s
      | _ => s

/-! ## Doorbells (R337 to R341) -/

/-- POST (R338). -/
def State.post (s : State) (g n index : Nat) : State :=
  let q := s.queue g
  let size := s.sqSize g
  if q.state != .RUNNING then s.bump .QRG_DB_DROP 0
  else if 2 * size ≤ index || size < ringHeld index q.c size || ringHeld index q.c size < ringHeld q.p q.c size then
    s.queueError g n Code.OVERRUN index 1
  else (s.setQueue g { q with p := index }).prefetch g n

/-- RELEASE (R339, R351). -/
def State.release (s : State) (g n index : Nat) : State :=
  let q := s.queue g
  let size := s.cqSize g
  if q.state == .DISABLED then s.bump .QRG_DB_DROP 0
  else if 2 * size ≤ index || ringHeld q.cqP q.cqC size < ringHeld index q.cqC size then s.queueError g n Code.OVERRUN index 1
  else
    let s := (s.setQueue g { q with cqC := index }).drainOverflow g n 8
    let wrote := ringHeld (s.queue g).cqP q.cqP size
    if wrote = 0 then s else ((s.writeShadow g n).groupIrq g n ((q.overflow.take wrote).any (·.irq))).settleDraining g n

/-- INVALIDATE (R340). -/
def State.invalidate (s : State) (g n index : Nat) : State :=
  let q := s.queue g
  let size := s.sqSize g
  if q.state != .RUNNING then s.bump .QRG_DB_DROP 0
  else
    let at_ := ringHeld index q.c size
    if ringHeld q.p q.c size < at_ then ((s.bump .QRG_INVAL_LATE 0).cutFetches g 0).prefetch g n
    else (s.cutFetches g at_).prefetch g n

/-- A doorbell of a slice: dropped while the slice is not RUNNING (R325), or when it is malformed (R337). -/
def State.doorbell (s : State) (n q : Nat) (act : State → Nat → State) : State :=
  if s.sliceState n == 0 then s
  else if !s.sliceRuns n then s.bump .SLC_IDLE_DROP n
  else if s.fld Fld.SLC_GRANT_Q_QUEUE_COUNT n ≤ q then s.bump .QRG_DB_BAD 0
  else act s (s.fld Fld.SLC_GRANT_Q_QUEUE_BASE n + q)

/-- A doorbell word written to the slice page (R337). -/
def State.doorbellWord (s : State) (n w : Nat) : State :=
  let index := bits w 0 16
  let op := bits w 22 2
  if s.sliceState n != 0 && s.sliceRuns n && (op == 3 || bits w 24 8 != 0) then s.bump .QRG_DB_BAD 0
  else s.doorbell n (bits w 16 6) (fun s g => if op = 0 then s.post g n index else if op = 1 then s.release g n index else s.invalidate g n index)

/-! ## Queue states (R354 to R356) -/

/-- KIND 2 is held by at most one queue of the slice. -/
def State.adminAlone (s : State) (n : Nat) : Bool := ((s.sliceQueues n).filter (fun g => s.queueKind g == 2)).length ≤ 1

def State.queueRefused (s : State) (g : Nat) : State := s.setQueue g { s.queue g with refused := true }

/-- ENABLE = 1 (R354). -/
def State.queueEnable (s : State) (g n : Nat) : State :=
  let q := s.queue g
  let sq := s.fld Fld.QRG_Q_CTRL_SQ_LOG2 g
  let cq := s.fld Fld.QRG_Q_CTRL_CQ_LOG2 g
  let resume := s.flagAt Fld.QRG_Q_CTRL_RESUME g
  if q.state != .DISABLED then s
  else if !s.sliceRuns n || s.sliceFormat n == 0 || s.fld Fld.QRG_Q_SQ_BASE_ADDR g == 0 || s.fld Fld.QRG_Q_CQ_BASE_ADDR g == 0 ||
      sq < 6 || cq < 6 || !s.adminAlone n || (resume && (q.sqLog != sq || q.cqLog != cq)) then s.queueRefused g
  else
    let q := { q with state := .RUNNING, errCode := 0, sqLog := sq, cqLog := cq, cache := [], owed := 0, ready := [], overflow := [], unsignalled := 0 }
    (s.setQueue g (if resume then { q with p := q.c } else { q with p := 0, c := 0, cqP := 0, cqC := 0, phase := true })).writeShadow g n

/-- Jobs of a queue, and its deliveries, are forgotten; their reads go on to their ends. -/
def State.forgetJobs (s : State) (g : Nat) : State :=
  { s with qrg := { s.qrg with jobs := s.qrg.jobs.filter (fun j => j.queue != g), rx := s.qrg.rx.filter (fun j => j.queue != g) } }

/-- What a queue has fetched, taken and not completed goes, and no later completion counts for it. -/
def Queue.emptied (q : Queue) (st : QState) : Queue :=
  { q with state := st, cache := [], owed := 0, ready := [], overflow := [], life := q.life + 1 }

/-- Entries of a queue that were taken and whose frames or commands are done: their completions are ready, or their data is in host
memory. -/
def State.finishedEntries (s : State) (g : Nat) : Nat :=
  (s.queue g).ready.length + ((s.qrg.rx.filter (fun j => j.queue == g)).map (fun j => j.bufs.length)).sum

/-- ENABLE = 0 (R355). -/
def State.queueDisable (s : State) (g n : Nat) : State :=
  let q := s.queue g
  match q.state with
  | .RUNNING =>
    let s := s.cutFetches g 0
    ((s.setQueue g { s.queue g with state := .DRAINING }).writeShadow g n).settleDraining g n
  | .ERROR =>
    let s := s.bumpBy .QRG_CPL_DISCARD 0 (q.owed + q.overflow.length)
    (((s.cutFetches g 0).forgetJobs g).setQueue g (q.emptied .DISABLED)).writeShadow g n
  | _ => s

/-- The slice leaves RUNNING (R356): the queue is DISABLED, its fetched entries and completions go, its indices stay. Taken entries are
discarded as stale units: those whose frames and commands are done at once, the others as their reads and responses end. -/
def State.queueDrop (s : State) (g n : Nat) : State :=
  let s := (s.cutFetches g 0).bumpBy .SLC_STALE_DISCARD n (s.finishedEntries g)
  s.setQueue g ((s.queue g).emptied .DISABLED)

/-- A slice curtain puts a queue in ERROR; its taken entries are abandoned, and nothing more is written for the slice (R356). -/
def State.queueCurtain (s : State) (g : Nat) : State :=
  let s := (s.cutFetches g 0).forgetJobs g
  s.setQueue g { (s.queue g).emptied .ERROR with errCode := Code.CURTAIN, errIndex := 0, errSource := 0 }

/-! ## Network entries (R342, R343, R346) -/

def entryAddr (e : List Byte) : Nat := leAt e 0 8
def entryLen (e : List Byte) : Nat := leAt e 8 2
def entryFlag (e : List Byte) (n : Nat) : Bool := bit (leAt e 10 1) n
def entryTag (e : List Byte) : Nat := leAt e 12 2
def entryMeta (e : List Byte) (format : Nat) : Bool := format == 2 && bit (leAt e 14 1) 1
def entryMetaAddr (e : List Byte) : Nat := leAt e 16 8
def entryOneStep (e : List Byte) (format : Nat) : Bool := format == 2 && bit (leAt e 14 1) 0

/-- A transmit entry is malformed on its own; later marks an entry after its frame's first (R346). -/
def txMalformed (format : Nat) (later : Bool) (e : List Byte) : Bool :=
  entryFlag e 7 || leAt e 11 1 != 0 || leAt e 15 1 != 0 || entryLen e < 1 || 10240 < entryLen e ||
  (if format = 1 then !allZero (e.drop 14)
   else 4 ≤ leAt e 14 1 || !allZero (e.drop 24)) ||
  (later && (bits (leAt e 10 1) 2 5 != 0 || entryTag e != 0 || (format == 2 && bit (leAt e 14 1) 0)))

/-- A receive entry is malformed (R342, R346). -/
def rxMalformed (format : Nat) (e : List Byte) : Bool :=
  (leAt e 10 1 != 0 && leAt e 10 1 != 2) || leAt e 11 1 != 0 || entryTag e != 0 || leAt e 15 1 != 0 || entryLen e < 64 ||
  (if format = 1 then !allZero (e.drop 14)
   else (leAt e 14 1 != 0 && leAt e 14 1 != 2) || !allZero (e.drop 24) ||
     (entryMeta e format && (entryMetaAddr e == 0 || entryMetaAddr e % 32 != 0)))

/-- A storage entry is malformed: FUSE not 0 or PSDT not 00 (R226, R346). -/
def stMalformed (e : List Byte) : Bool := bits (leAt e 1 1) 0 2 != 0 || bits (leAt e 1 1) 6 2 != 0

/-- Cached entries from C on, in order, up to 17. -/
def State.cachedRun (s : State) (g : Nat) : List (Nat × List Byte) :=
  let q := s.queue g
  let size := s.sqSize g
  ((List.range (min 17 (s.posted g))).map (fun i => (q.c + i) % (2 * size))).filterMap (fun i => q.cache.find? (fun e => e.1 == i))

/-- The entries of one frame at the front of a run: all but the last have MORE = 1. None while the last is missing. -/
def frameRun : Nat → List (Nat × List Byte) → Option (List (Nat × List Byte))
  | _, [] => none
  | 0, _ => none
  | fuel + 1, e :: es => if entryFlag e.2 0 then (frameRun fuel es).map (e :: ·) else some [e]

/-- What the queue engine finds at the head of a transmit queue. -/
inductive HeadWork where
  | none
  | bad (index : Nat)
  | frame (entries : List (Nat × List Byte))
  | storage (index : Nat) (sqe : List Byte)
  deriving DecidableEq, Repr

/-- A contiguous cached run starts at C. -/
def contiguous (c size : Nat) : List (Nat × List Byte) → List (Nat × List Byte)
  | [] => []
  | e :: es => if e.1 = c then e :: contiguous ((c + 1) % (2 * size)) size es else []

def State.headWork (s : State) (g n : Nat) : HeadWork :=
  let q := s.queue g
  let run := contiguous q.c (s.sqSize g) (s.cachedRun g)
  let f := s.sliceFormat n
  if q.state != .RUNNING then .none
  else if s.queueKind g = 0 then
    match run with
    | [] => .none
    | first :: _ =>
      if s.receives g then (if rxMalformed f first.2 then .bad first.1 else .none)
      else if txMalformed f false first.2 then .bad first.1
      else match frameRun 16 run with
        | none => if 16 ≤ run.length then .bad first.1 else .none
        | some es =>
          match (es.drop 1).find? (fun e => txMalformed f true e.2) with
          | some e => .bad e.1
          | none =>
            let total := (es.map (fun e => entryLen e.2)).sum
            if total < 14 || 10236 < total then .bad first.1 else .frame es
  else match run with
    | [] => .none
    | e :: _ => if stMalformed e.2 then .bad e.1 else .storage e.1 e.2

/-- An entry found malformed (R346). -/
def State.queueMalformed (s : State) (g n index : Nat) : State := (s.bump .QRG_MALFORMED 0).queueError g n Code.MALFORMED index 0

/-- C advances past k entries, which are owed their completions. -/
def State.takeEntries (s : State) (g k : Nat) : State :=
  let q := s.queue g
  let size := s.sqSize g
  s.setQueue g { q with c := (q.c + k) % (2 * size), owed := q.owed + k, cache := q.cache.filter (fun e => k ≤ ringHeld e.1 q.c size) }

/-- The reads of one buffer: at most 4 KiB each (R359). -/
def bufferParts (e : List Byte) : List (Nat × Nat) := splitSpan 4096 (entryLen e + 1) (entryAddr e) (entryLen e)

/-- A transmit frame is taken whole (R343, R347): its data reads wait for the read engine, and the send shaper is charged
its payload (R326). -/
def State.takeFrame (s : State) (g n : Nat) (es : List (Nat × List Byte)) : State :=
  let spans := es.flatMap (fun e => bufferParts e.2)
  let total := (es.map (fun e => entryLen e.2)).sum
  let id := s.qrg.nextJob
  let l := s.sliceLink n
  let job : TxJob := { id := id, queue := g, slc := n, gen := s.sliceGen n, link := l, cls := s.fld Fld.SLC_QUEUE_CFG_CLASS g,
                       life := (s.queue g).life, entries := es, parts := spans.map (fun _ => none) }
  let s := (s.takeEntries g es.length).chargeShaper .sliceSend n (12800 * total)
  let s := { s with qrg := { s.qrg with jobs := s.qrg.jobs ++ [job], nextJob := id + 1 } }
  let wants := spans.zipIdx.map (fun x => Want.mk l n (s.sliceGen n) (.frame id x.2) x.1.1 x.1.2 0)
  ({ s with hep := { s.hep with wants := s.hep.wants ++ wants } }).prefetch g n

/-- The checksum and timestamp requests of a transmit frame's first entry (R343). -/
def txFlags (e : List Byte) (format : Nat) : EmitFlags :=
  { useTable := false, table := 0, csum := BitVec.ofNat 8 (bits (leAt e 10 1) 2 4),
    ts := BitVec.ofNat 8 (flag (entryFlag e 6) + 2 * flag (entryOneStep e format)), tag := BitVec.ofNat 16 (entryTag e) }

/-- A transmit frame whose reads have all ended: handed to the switch core, or failed (R348). A job whose generation is
stale is discarded (R321). -/
def State.txSettle (s : State) (j : TxJob) : State :=
  if j.parts.any (·.isNone) && !j.failed then s
  else
    let s := { s with qrg := { s.qrg with jobs := s.qrg.jobs.filter (fun x => x.id != j.id) } }
    if !s.genCurrent j.slc j.gen then s.bumpBy .SLC_STALE_DISCARD j.slc j.entries.length
    else
      let status := if j.failed then Code.HOST_ABORT else Code.OK
      let s := j.entries.foldl (fun s e => s.addReady j.queue j.life
        ⟨netCpl (if j.failed then 0 else entryLen e.2) e.1 status 0 0 j.cls (entryTag e.2), entryFlag e.2 1⟩) s
      if j.failed then s
      else
        let body := j.parts.flatMap (fun p => p.getD [])
        let e := ((j.entries.head?).map (·.2)).getD []
        s.newFrame { id := 0, inPort := 256 + j.link, passPort := 256 + j.link, octets := withFcs body false, ended := true,
                     rxClass := j.cls, time := s.now, ticket := { slice := BitVec.ofNat 12 j.slc, gen := BitVec.ofNat 8 j.gen },
                     emit := some (txFlags e (s.sliceFormat j.slc)) }

/-- A part of a transmit frame has arrived. -/
def State.txPart (s : State) (job part : Nat) (data : List Byte) : State :=
  match s.qrg.jobs.find? (fun j => j.id == job) with
  | none => s
  | some j =>
    let j := { j with parts := j.parts.set part (some data) }
    ({ s with qrg := { s.qrg with jobs := s.qrg.jobs.map (fun x => if TxJob.id x = job then j else x) } }).txSettle j

/-- A read of a transmit frame has failed after its retries: the frame is not sent (R348). -/
def State.txFail (s : State) (job : Nat) : State :=
  match s.qrg.jobs.find? (fun j => j.id == job) with
  | none => s
  | some j => s.txSettle { j with failed := true }

/-! ## Receive delivery (R334, R344, R352) -/

/-- The receive queue the steering table names for a frame (R334). -/
def State.steered (s : State) (n : Nat) (x : Frame) : Option Nat :=
  let i := x.ticket.flowHash.toNat / 2 ^ 26
  let q := bits (s.reg .QRG_RX_STEER (16 * n + i / 4)).toNat (8 * (i % 4)) 6
  let g := s.fld Fld.SLC_GRANT_Q_QUEUE_BASE n + q
  if q < s.fld Fld.SLC_GRANT_Q_QUEUE_COUNT n && s.receives g && (s.queue g).state == .RUNNING then some g else none

/-- How many buffers of a run a length needs; none when the run is too short. -/
def buffersFor (len : Nat) : List (Nat × List Byte) → Option Nat
  | [] => if len = 0 then some 0 else none
  | e :: es => if len = 0 then some 0 else (buffersFor (len - max 1 (entryLen e.2)) es).map (· + 1)

/-- All receive buffers cached from C on; none once the queue takes no more entries (R353). -/
def State.rxRun (s : State) (g : Nat) : List (Nat × List Byte) :=
  let q := s.queue g
  let size := s.sqSize g
  if q.state != .RUNNING then [] else contiguous q.c size (((List.range (s.posted g)).map (fun i => (q.c + i) % (2 * size))).filterMap (fun i => q.cache.find? (fun e => e.1 == i)))

/-- No buffer is posted, or none will be taken. -/
def State.rxStarved (s : State) (g : Nat) : Bool := s.posted g == 0 || (s.queue g).state != .RUNNING

/-- Octets of a frame that delivery may hand on: all but the last four, which may be its FCS. -/
def Frame.deliverable (x : Frame) : Nat := x.octets.length - 4

/-- Completions of every buffer a delivery used, with one status (R344, R348). -/
def State.rxComplete (s : State) (j : RxJob) (x : Frame) (status : Nat) : State :=
  let ok := status == 0
  let last := j.bufs.length - 1
  let f := s.sliceFormat j.slc
  let hasMeta := (j.bufs.head?).any (fun b => entryMeta b.entry f)
  let s := match j.bufs.head? with
    | some b => if hasMeta then s.hostWrite j.link j.slc (s.sliceGen j.slc) (entryMetaAddr b.entry)
        (toLE 16 x.ticket.word ++ toLE 6 (secondsOf x.time) ++ toLE 4 (nanosOf x.time) ++ toLE 1 x.csumResult.toNat ++ List.replicate 5 0) true else s
    | none => s
  j.bufs.zipIdx.foldl (fun s b =>
    let flags := flag (b.2 == 0) + 2 * flag (b.2 == last) + 4 * flag hasMeta + 8 * flag x.ticket.ecn + 16 * x.ticket.dp.toNat
    s.addReady j.queue (s.queue j.queue).life ⟨netCpl (if ok then b.1.used else 0) b.1.index status x.csumResult.toNat flags x.ticket.cls.toNat 0, entryFlag b.1.entry 1⟩) s

/-- A frame waits for buffers on a link from now, unless it does already (R352). -/
def State.rxWaits (s : State) (l f : Nat) : State :=
  if s.qrg.waits.any (fun w => w.1 == l && w.2.1 == f) then s else { s with qrg := { s.qrg with waits := (l, f, s.elapsed) :: s.qrg.waits } }

/-- It waits no more. -/
def State.rxMoves (s : State) (l f : Nat) : State :=
  { s with qrg := { s.qrg with waits := s.qrg.waits.filter (fun w => !(w.1 == l && w.2.1 == f)) } }

/-- Its wait has reached RX_STALL_LIMIT, which applies at once to waiting frames. -/
def State.rxWaited (s : State) (l f : Nat) : Bool :=
  s.qrg.waits.any (fun w => w.1 == l && w.2.1 == f && decide (w.2.2 + 1000 * s.fld Fld.QRG_STALL_LIMITS_RX_STALL_US 0 ≤ s.elapsed))

/-- The copy being delivered leaves, wherever it stands. -/
def State.rxRemove (s : State) (k : Copy) : State :=
  let s := { s with qrg := { s.qrg with rx := s.qrg.rx.filter (fun j => !(j.link + 256 == k.port && j.frame == k.frame)) } }
  let s := s.rxMoves (k.port - 256) k.frame
  if s.swc.arrived.contains k then s.takeArrived k else (s.dropCopy k).collect

/-- Data written into the buffers as far as it goes: the job, whether it ran out of buffers, and the state. -/
def State.rxFill (s : State) (x : Frame) (avail : Nat) : Nat → RxJob → RxJob × Bool × State
  | 0, j => (j, false, s)
  | fuel + 1, j =>
    if avail ≤ j.sent then (j, false, s)
    else
      let room := match j.bufs.getLast? with | some b => entryLen b.entry - b.used | none => 0
      if room = 0 then
        match s.rxRun j.queue with
        | [] => (j, true, s)
        | e :: _ =>
          if rxMalformed (s.sliceFormat j.slc) e.2 then (j, true, s.queueMalformed j.queue j.slc e.1)
          else if s.takeable j.queue = 0 then (j, true, s)
          else
            let s := (s.takeEntries j.queue 1).prefetch j.queue j.slc
            s.rxFill x avail fuel { j with bufs := j.bufs ++ [⟨e.1, e.2, 0⟩] }
      else
        let n := min room (avail - j.sent)
        match j.bufs.getLast? with
        | none => (j, false, s)
        | some b =>
          let s := s.hostWrite j.link j.slc (s.sliceGen j.slc) (entryAddr b.entry + b.used) (slice x.octets j.sent n) true
          s.rxFill x avail fuel { j with sent := j.sent + n, bufs := j.bufs.dropLast ++ [{ b with used := b.used + n }] }

/-- The frame's rest is dropped for want of buffers: every buffer written completes with NO_BUFFER (R352). -/
def State.rxNoBuffer (s : State) (k : Copy) (x : Frame) (j : RxJob) : State :=
  ((s.bump .QRG_RX_NO_BUFFER 0).rxComplete j x Code.NO_BUFFER).rxRemove k

/-- Data goes on into the buffers; the frame ends once its copy has wholly left the switch core. -/
def State.rxContinue (s : State) (k : Copy) (x : Frame) (j : RxJob) : State :=
  let (j, out, s) := s.rxFill x x.deliverable (2 * x.deliverable + 2) j
  let keep := fun (s : State) => { s with qrg := { s.qrg with rx := j :: s.qrg.rx.filter (fun y => !(y.link == j.link && y.frame == j.frame)) } }
  if out then
    if j.bufs.isEmpty then s
    else if !s.rxStarved j.queue then keep (s.rxMoves j.link j.frame)
    else if s.fld Fld.QRG_STALL_LIMITS_RX_STALL_US 0 == 0 then s.rxNoBuffer k x j
    else keep (s.rxWaits j.link j.frame)
  else if s.swc.arrived.contains k then ((if x.bad then s.bump .SWC_TAIL_HOST 0 else s).rxComplete j x (if x.bad then Code.TAIL_ERROR else Code.OK)).rxRemove k
  else keep (s.rxMoves j.link j.frame)

/-- The DELIVERY share of a port has a block for another frame (R358): one that is partly delivered holds one. -/
def State.rxStaged (s : State) (h : Nat) : Bool :=
  decide ((s.qrg.rx.filter (fun j => j.link / 4 == h)).length < s.fld Fld.BMV_PORT_STAGE_DELIVERY h)

/-- One copy for a slice is delivered as far as it can be; none while it waits with nothing changed. -/
def State.rxTry (s : State) (l : Nat) (k : Copy) (x : Frame) : Option State :=
  match s.qrg.rx.find? (fun j => j.link == l && j.frame == k.frame) with
  | some j => some (s.rxContinue k x j)
  | none =>
    let n := k.slice
    if x.ended && x.bad then some ((s.bump .SWC_TAIL_DROP 0).rxRemove k)
    else if !s.genCurrent n x.ticket.gen.toNat then some ((s.bump .SLC_STALE_DISCARD n).rxRemove k)
    else if !s.sliceRuns n then some ((s.bump .SLC_IDLE_DROP n).rxRemove k)
    else match s.steered n x with
      | none => some ((s.bump .QRG_RX_NO_QUEUE 0).rxRemove k)
      | some g =>
        let run := s.rxRun g
        match buffersFor (s.estimate x k.port) run with
        | some m => if m ≤ s.takeable g && s.rxStaged (l / 4) then some (s.rxContinue k x ⟨l, k.frame, g, n, 0, []⟩) else none
        | none =>
          if s.posted g != run.length then none
          else if s.fld Fld.QRG_STALL_LIMITS_RX_STALL_US 0 == 0 then some ((s.bump .QRG_RX_NO_BUFFER 0).rxRemove k)
          else if s.qrg.waits.any (fun w => w.1 == l && w.2.1 == k.frame) then none
          else some (s.rxWaits l k.frame)

/-- Copies on a host link that delivery may work on: those that have left the switch core, then the one in transit; of
one slice only the first, since its copies are delivered in order (R334). -/
def State.rxHeads (s : State) (l : Nat) : List (Copy × Frame) :=
  let all := (s.swc.arrived.filter (fun k => k.port == 256 + l)) ++ (s.swc.copies.filter (fun k => k.port == 256 + l && k.started))
  let heads := all.foldl (fun acc k => if acc.any (fun y => y.slice == k.slice) then acc else acc ++ [k]) ([] : List Copy)
  heads.filterMap (fun k => (s.frame? k.frame).map (fun x => (k, s.shown k x)))

/-- RX_DELIVERY: the first head that can move moves. -/
def State.rxDeliver (s : State) (l : Nat) : State :=
  match (s.rxHeads l).findSome? (fun h => s.rxTry l h.1 h.2) with
  | some t => t
  | none => s

/-- A frame that waits for buffers is dropped at the limit (R352); a POST that comes first wins. -/
def State.rxLimit (s : State) (l : Nat) : State :=
  match (s.rxHeads l).find? (fun h => s.rxWaited l h.1.frame) with
  | none => s
  | some (k, x) =>
    match s.qrg.rx.find? (fun j => j.link == l && j.frame == k.frame) with
    | some j => if s.rxStarved j.queue then s.rxNoBuffer k x j else s.rxMoves l k.frame
    | none =>
      match s.steered k.slice x with
      | some g =>
        if s.posted g != (s.rxRun g).length then s
        else if (buffersFor (s.estimate x k.port) (s.rxRun g)).isNone then (s.bump .QRG_RX_NO_BUFFER 0).rxRemove k
        else s.rxMoves l k.frame
      | none => s

end Sys2Proof.Machine
end

