-- ==== Sys2Proof/Machine/Thread.lean ====
section
/-! DEFINITION. Troupe threads as every family sees them (R374 to R382): identities, event inputs, waits and interrupts.
Thread t is [10:8] cluster, [7:4] core, [3:0] thread; core k is [6:4] cluster, [3:0] core. -/

namespace Sys2Proof.Machine

def threadDefault : Nat → Thread := fun _ => {}
def State.thread (s : State) (t : Nat) : Thread := SMap.get threadDefault s.trp.threads t
def State.setThread (s : State) (t : Nat) (v : Thread) : State :=
  { s with trp := { s.trp with threads := SMap.set threadDefault t v s.trp.threads } }

def coreDefault : Nat → Core := fun _ => {}
def State.core (s : State) (k : Nat) : Core := SMap.get coreDefault s.trp.cores k
def State.setCore (s : State) (k : Nat) (v : Core) : State :=
  { s with trp := { s.trp with cores := SMap.set coreDefault k v s.trp.cores } }

def xDefault : Nat → Word := fun _ => 0

/-- Integer register r; x0 reads zero. -/
def Thread.get (v : Thread) (r : Nat) : Word := if r = 0 then 0 else SMap.get xDefault v.x r

/-- Writes of x0 are discarded. -/
def Thread.put (v : Thread) (r : Nat) (w : Word) : Thread := if r = 0 then v else { v with x := SMap.set xDefault r w v.x }

/-- Events that a wait returns: for thread 0, input 0 is part of every mask (R381). -/
def waitMask (t : Nat) (m : BitVec 32) : BitVec 32 := if t % 16 = 0 then m ||| 1#32 else m

/-- EVIE in force: for thread 0, input 0 is part of it (R381). -/
def Thread.enabled (v : Thread) (t : Nat) : BitVec 32 := waitMask t v.evie

/-- The machine external interrupt condition of R382, outside a wait. -/
def Thread.interrupts (v : Thread) (t : Nat) : Bool := v.mie && (v.evpend &&& v.enabled t) != 0

/-- Takes the machine external interrupt (R382): mepc, mcause, MPIE and MIE, and the PC at the trap vector. -/
def Thread.takeInterrupt (v : Thread) : Thread :=
  let base := v.mtvec &&& ~~~ 3#64
  { v with mepc := v.pc, mcause := BitVec.ofNat 64 (2 ^ 63 + 11), mtval := 0, mpie := v.mie, mie := false,
           pc := if v.mtvec.getLsbD 0 then base + 44#64 else base }

/-- A waiting thread whose events or enabled inputs have come (R381, R382): the wait returns its events, or traps for
inputs that are enabled and not in its mask. -/
def Thread.wake (v : Thread) (t : Nat) : Thread :=
  match v.state, v.wait with
  | .WAITING, some (mask, rd, _) =>
    let hit := v.evpend &&& mask
    if hit != 0 then
      { (v.put rd (hit.zeroExtend 64)) with
          evpend := v.evpend &&& ~~~ hit, wait := none, state := .RUNNING, pc := v.pc + 4, minstret := v.minstret + 1 }
    else if v.mie && (v.evpend &&& v.enabled t &&& ~~~ mask) != 0 then { v with wait := none, state := .RUNNING }.takeInterrupt
    else v
  | _, _ => v

/-- A source sets an event input (R380): the bit pends, a matching wait ends, and a sleeping cluster wakes. -/
def State.setEvent (s : State) (t input : Nat) : State :=
  let v := s.thread t
  (s.setThread t ({ v with evpend := v.evpend ||| BitVec.ofNat 32 (2 ^ input) }.wake t)).touchDomain (30 + t / 256)

/-- Cycles of the 2.0 GHz clock of the Troupe cores (R27). -/
def State.engineCycles (s : State) : Nat := s.clk.core * 5 / 4

/-- The cluster is loaded and its firmware runs (R397). -/
def State.clusterLoaded (s : State) (n : Nat) : Bool := s.flagAt Fld.TRP_CLUSTER_CFG_RUN n

end Sys2Proof.Machine
end

