-- ==== Sys2Proof/Machine/Mover.lean ====
section
/-! DEFINITION. The bulk mover (R358 to R373): address spaces, descriptors, channels, request lines, halts and the read
engine's wants. c is a channel. -/

namespace Sys2Proof.Machine

def chanDefault : Nat → Channel := fun _ => {}
def State.chan (s : State) (c : Nat) : Channel := SMap.get chanDefault s.bmv.chans c
def State.setChan (s : State) (c : Nat) (v : Channel) : State := { s with bmv := { s.bmv with chans := SMap.set chanDefault c v s.bmv.chans } }

def State.chanLink (s : State) (c : Nat) : Nat := 4 * s.fld Fld.BMV_CH_CFG_HOST_PORT c + s.fld Fld.BMV_CH_CFG_LINK c
def State.chanSlice (s : State) (c : Nat) : Nat := s.fld Fld.BMV_CH_CFG_SLICE c

/-! ## Address spaces (R361) -/

/-- Byte of a data memory as the image loads it (R397): the DMEM image follows the IMEM image. -/
def padTo8 (n : Nat) : Nat := ceilDiv n 8 * 8
def imemLen (body : List Byte) : Nat := leAt body 8 4
def dmemLen (body : List Byte) : Nat := leAt body 12 4
def sharedLen (body : List Byte) : Nat := leAt body 16 4
def dmemByte (body : List Byte) (k : Nat) : Byte :=
  if k % 262144 < dmemLen body then body.getD (64 + padTo8 (imemLen body) + k % 262144) 0 else 0
def sharedByte (body : List Byte) (k : Nat) : Byte :=
  if k % 16777216 < sharedLen body then body.getD (64 + padTo8 (imemLen body) + padTo8 (dmemLen body) + k % 16777216) 0 else 0

def State.readShared (s : State) (n a len : Nat) : List Byte :=
  (List.range len).map (fun i => SMap.get (sharedByte s.trp.body) s.mem.shared (16777216 * n + a + i))
def State.writeShared (s : State) (n a : Nat) (bs : List Byte) : State :=
  { s with mem := { s.mem with shared := bs.zipIdx.foldl (fun m x => SMap.set (sharedByte s.trp.body) (16777216 * n + a + x.2) x.1 m) s.mem.shared } }
def State.readDmem (s : State) (k a len : Nat) : List Byte :=
  (List.range len).map (fun i => SMap.get (dmemByte s.trp.body) s.mem.dmem (262144 * k + a + i))
def State.writeDmem (s : State) (k a : Nat) (bs : List Byte) : State :=
  { s with mem := { s.mem with dmem := bs.zipIdx.foldl (fun m x => SMap.set (dmemByte s.trp.body) (262144 * k + a + x.2) x.1 m) s.mem.dmem } }

/-- HBM window of a cluster, by its offset (R20, R376). -/
def State.windowBytes (s : State) (n : Nat) : Nat := SMap.get (fun _ => 0) s.tbl.placement.troupeMib n * 1048576
def State.readWindow (s : State) (n a len : Nat) : List Byte := readMem s.mem.window (2 ^ 40 * n + a) len
def State.writeWindow (s : State) (n a : Nat) (bs : List Byte) : State :=
  { s with mem := { s.mem with window := writeMem s.mem.window (2 ^ 40 * n + a) bs } }

/-- The bulk mover's HBM space: the peer staging region from offset 0, and the window of cluster n from (n + 1) x 2^40
(assumption log entry 15). -/
def State.readHbm (s : State) (a len : Nat) : List Byte :=
  if a < 2 ^ 40 then readMem s.mem.peer a len else s.readWindow (a / 2 ^ 40 - 1) (a % 2 ^ 40) len
def State.writeHbm (s : State) (a : Nat) (bs : List Byte) : State :=
  if a < 2 ^ 40 then { s with mem := { s.mem with peer := writeMem s.mem.peer a bs } } else s.writeWindow (a / 2 ^ 40 - 1) (a % 2 ^ 40) bs
def State.hbmHolds (s : State) (a len : Nat) : Bool :=
  if a < 2 ^ 40 then a + len ≤ s.slc.peerMib * 1048576
  else a / 2 ^ 40 ≤ 8 && a % 2 ^ 40 + len ≤ s.windowBytes (a / 2 ^ 40 - 1)

/-- A range lies in a space of the channel. -/
def State.inSpace (s : State) (space a len : Nat) : Bool :=
  if space = 0 then a + len ≤ 2 ^ 64 else if space = 1 then s.hbmHolds a len else space == 2 && a + len ≤ 16777216

/-- A read or write of a space on the device. -/
def State.readSpace (s : State) (space n a len : Nat) : List Byte := if space = 1 then s.readHbm a len else s.readShared n a len
def State.writeSpace (s : State) (space n a : Nat) (bs : List Byte) : State :=
  if space = 1 then s.writeHbm a bs else s.writeShared n a bs

/-! ## Descriptors (R362 to R364) -/

/-- A descriptor read from its 32 bytes. -/
def descOf (b : List Byte) : Desc :=
  let w := leAt b 16 8
  { src := leAt b 0 8, dst := leAt b 8 8, len := bits w 0 24, swap := bits w 24 2, barrier := bit w 26, irq := bit w 27,
    eoc := bit w 28, paced := bit w 29, reserved := bits w 30 34 != 0, next := leAt b 24 8 }

/-- The descriptor is malformed (R361, R362). -/
def State.descBad (s : State) (c : Nat) (d : Desc) : Bool :=
  let burst := s.fld Fld.BMV_CH_CFG_BURST_LOG2 c
  d.len == 0 || d.reserved || (d.swap == 1 && d.len % 2 != 0) || (2 ≤ d.swap && d.len % 4 != 0) ||
  (!d.eoc && d.next % 32 != 0) || (d.paced && (burst < 6 || 12 < burst)) ||
  !s.inSpace (s.fld Fld.BMV_CH_CFG_SRC_SPACE c) d.src d.len || !s.inSpace (s.fld Fld.BMV_CH_CFG_DST_SPACE c) d.dst d.len

/-- Swapping of R364, over whole groups counted from the first byte. -/
def swapBytes (mode : Nat) : List Byte → List Byte
  | a :: b :: c :: d :: rest =>
    (if mode = 1 then [b, a, d, c] else if mode = 2 then [c, d, a, b] else if mode = 3 then [d, c, b, a] else [a, b, c, d]) ++ swapBytes mode rest
  | [a, b] => if mode = 1 then [b, a] else [a, b]
  | rest => rest

/-! ## Events, halts (R367, R368, R370) -/

/-- A channel's event (R370). -/
def State.chanEvent (s : State) (c : Nat) : State :=
  if s.flagAt Fld.BMV_CH_CFG_NOTIFY c then s.setEvent (s.fld Fld.BMV_CH_CFG_NOTIFY_THREAD c) 8 else s.emit (.channelEvent c)

/-- The read serves the channel. -/
def ReadFor.ofChan (w : ReadFor) (c : Nat) : Bool :=
  match w with
  | .descTail x => x == c | .descHead x => x == c | .relink x => x == c | .block x _ => x == c | .flush x => x == c
  | _ => false

/-- Staging, fetches and reads of a channel are given up; data of outstanding reads is discarded as it arrives. -/
def State.chanClear (s : State) (c : Nat) : State :=
  let s := s.failReads (fun r => r.want.why.ofChan c)
  s.setChan c { s.chan c with serving := none, ahead := none, fetch := none, issued := 0, written := 0, granted := 0, blocks := [], flushed := false }

/-- A channel halts with a status (R368). -/
def State.chanHalt (s : State) (c status : Nat) : State :=
  let v := s.chan c
  if v.state != .RUNNING && v.state != .WAIT_END then s
  else
    let at_ : Option Nat := if v.serving.isSome then some v.cur else match v.fetch with
      | some f => if f.relink then none else some f.addr
      | none => none
    let s := match at_ with
      | some a => s.setFld Fld.BMV_CH_NEXT_ADDR c (a / 32)
      | none => s
    let s := if status = Code.HOST_ABORT then s.bump .BMV_HOST_ABORT 0 else if status = Code.MALFORMED then s.bump .BMV_MALFORMED 0 else s
    let s := s.chanClear c
    (s.setChan c { s.chan c with state := if v.stopping then .DISABLED else .HALTED, stopping := false,
                                 appendPending := false, lastStatus := BitVec.ofNat 8 status }).chanEvent c

/-! ## Fetching descriptors (R363, R371, R372) -/

/-- The domains a channel uses start to wake (R21). -/
def State.chanWake (s : State) (c : Nat) : State := (s.chanDomains c (s.chan c)).foldl (fun s d => s.touchDomain d) s

/-- None of them has to be waited for. -/
def State.chanAwake (s : State) (c : Nat) : Bool := (s.chanDomains c (s.chan c)).all (fun d => !s.domainSleeps d)

/-- Asks for the descriptor at an address, or for words 2 and 3 of it again. -/
def State.chanFetch (s : State) (c a : Nat) (again : Bool) : State :=
  let v := s.chan c
  let s := (s.setChan c { v with fetch := some { addr := a, relink := again } }).chanWake c
  if s.fld Fld.BMV_CH_CFG_DESC_SPACE c != 0 then s
  else
    let want : ReadFor → Nat → Want := fun why a => Want.mk (s.chanLink c) (s.chanSlice c) v.gen why a 16 0
    let ws := if again then [want (.relink c) (a + 16)] else [want (.descTail c) (a + 16), want (.descHead c) a]
    { s with hep := { s.hep with wants := s.hep.wants ++ ws } }

/-- A descriptor goes into service; the next one is fetched with it (R363). A malformed one halts the channel then, and moves no byte
(R362, R368). -/
def State.chanServe (s : State) (c a : Nat) (d : Desc) : State :=
  let s := s.setChan c { s.chan c with serving := some d, ahead := none, cur := a, issued := 0, written := 0, granted := 0, blocks := [], retries := 0, flushed := false }
  if s.descBad c d then s.chanHalt c Code.MALFORMED
  else if d.eoc then s.chanWake c else (s.chanWake c).chanFetch c d.next false

/-- A disable that waits for a boundary happens (R369). -/
def State.chanStop (s : State) (c : Nat) : State :=
  let s := s.chanClear c
  s.setChan c { s.chan c with state := .DISABLED, stopping := false, appendPending := false }

/-- The re-fetch of R372 has its answer. -/
def State.chanRelinked (s : State) (c : Nat) (tail : List Byte) : State :=
  let w := leAt tail 0 8
  let next := leAt tail 8 8
  let s := s.setChan c { s.chan c with fetch := none }
  if bit w 28 then
    let s := (s.setChan c { s.chan c with state := .WAIT_END }).bump .BMV_APPEND_EMPTY 0
    if (s.chan c).appendPending then (s.setChan c { s.chan c with appendPending := false }).chanFetch c (s.chan c).cur true else s
  else if next % 32 != 0 then s.chanHalt c Code.MALFORMED
  else (s.setChan c { s.chan c with state := .RUNNING }).chanFetch c next false

/-- DESCRIPTOR_FETCHED: a fetch whose bytes are all there; one at an address outside its space gives a malformed descriptor (R361). -/
def State.descFetched (s : State) (c : Nat) : State :=
  let v := s.chan c
  match v.fetch with
  | none => s
  | some f =>
    let space := s.fld Fld.BMV_CH_CFG_DESC_SPACE c
    let n := s.fld Fld.BMV_CH_CFG_CLUSTER c
    let held := s.inSpace space f.addr 32
    let got : Option (List Byte) :=
      if space != 0 then (if held then some (s.readSpace space n f.addr 32) else some [])
      else if f.relink then f.tail.map (fun t => List.replicate 16 0 ++ t)
      else match f.head, f.tail with
        | some h, some t => some (h ++ t)
        | _, _ => none
    match got with
    | none => s
    | some b =>
      if space != 0 && !s.chanAwake c then s.chanWake c
      else if f.relink then (if held then s.chanRelinked c (b.drop 16) else s.chanHalt c Code.MALFORMED)
      else
        let d := descOf b
        let d := if held then d else { d with len := 0 }
        let s := s.setChan c { v with fetch := none }
        if v.serving.isSome then s.setChan c { s.chan c with ahead := some d } else s.chanServe c f.addr d

/-! ## Copying (R359, R364 to R366) -/

/-- Bytes of the descriptor in service that may be read now (R366). -/
def Channel.allowed (v : Channel) (d : Desc) : Nat := if d.paced then v.granted else d.len

/-- Blocks the channel holds: read and not written, or being read. -/
def State.chanBlocks (s : State) (c : Nat) : Nat :=
  (s.chan c).blocks.length +
  (s.hep.reads.filter (fun r => !r.failed && (match r.want.why with | .block x _ => x == c | _ => false))).length +
  (s.hep.wants.filter (fun w => (match w.why with | .block x _ => x == c | _ => false))).length

/-- CH_USED of a port (R358). -/
def State.portBlocks (s : State) (h : Nat) : Nat :=
  ((s.bmv.chans.filter (fun x => s.fld Fld.BMV_CH_CFG_HOST_PORT x.1 == h)).map (fun x => s.chanBlocks x.1)).sum

/-- The channel has a block it may read now. -/
def State.chanReady (s : State) (c : Nat) : Bool :=
  match (s.chan c).serving with
  | some d => (s.chan c).state == .RUNNING && (s.chan c).issued < (s.chan c).allowed d && s.chanAwake c &&
      (s.fld Fld.BMV_CH_CFG_SRC_SPACE c != 0 || s.masterOn (s.chanLink c)) &&
      s.chanBlocks c < s.fld Fld.BMV_CH_CTRL_STAGE_MAX c &&
      s.portBlocks (s.fld Fld.BMV_CH_CFG_HOST_PORT c) < s.fld Fld.BMV_PORT_STAGE_CHANNEL (s.fld Fld.BMV_CH_CFG_HOST_PORT c)
  | none => false

/-- The next block in order is written, swapped; then the one after it (R359). -/
def State.chanWrite (s : State) (c : Nat) : Nat → State
  | 0 => s
  | fuel + 1 =>
    let v := s.chan c
    match v.serving, v.blocks.find? (fun b => b.1 == v.written) with
    | some d, some b =>
      let data := swapBytes d.swap b.2
      let space := s.fld Fld.BMV_CH_CFG_DST_SPACE c
      let s := s.setChan c { v with blocks := v.blocks.filter (fun x => x.1 != b.1), written := v.written + data.length }
      let s := if space = 0 then s.hostWrite (s.chanLink c) (s.chanSlice c) v.gen (d.dst + b.1) data true
               else s.writeSpace space (s.fld Fld.BMV_CH_CFG_CLUSTER c) (d.dst + b.1) data
      (s.bumpBy .BMV_BYTES 0 data.length).chanWrite c fuel
    | _, _ => s

/-- After the last write of a barrier descriptor toward the host the flush read is asked for (R365). -/
def State.chanFlush (s : State) (c : Nat) : State :=
  let v := s.chan c
  match v.serving with
  | some d =>
    if d.barrier && s.fld Fld.BMV_CH_CFG_DST_SPACE c == 0 && v.written == d.len then
      { s with hep := { s.hep with wants := s.hep.wants ++
          [Want.mk (s.chanLink c) (s.chanSlice c) v.gen (.flush c) ((d.dst + d.len - 1) / 4 * 4) 0 0] } }
    else s
  | none => s

/-- A block of the descriptor in service has been read. -/
def State.blockRead (s : State) (c off : Nat) (data : List Byte) : State :=
  let v := s.chan c
  let before := v.written
  let s := (s.setChan c { v with blocks := v.blocks ++ [(off, data)] }).chanWrite c (v.blocks.length + 1)
  if (s.chan c).written = before then s else s.chanFlush c

/-- The channel issues its next block: a host read that waits for tags, or a read on the device at once. -/
def State.chanIssue (s : State) (c : Nat) : Want ⊕ State :=
  let v := s.chan c
  match v.serving with
  | none => .inr s
  | some d =>
    let n := min 4096 (v.allowed d - v.issued)
    let space := s.fld Fld.BMV_CH_CFG_SRC_SPACE c
    if space = 0 then .inl (Want.mk (s.chanLink c) (s.chanSlice c) v.gen (.block c v.issued) (d.src + v.issued) n 0)
    else
      let data := s.readSpace space (s.fld Fld.BMV_CH_CFG_CLUSTER c) (d.src + v.issued) n
      .inr ((s.setChan c { v with issued := v.issued + n }).blockRead c v.issued data)

/-- The descriptor in service is done (R365): counted, its event raised, and the chain goes on, is read again, or
parks (R369, R372). -/
def State.descDone (s : State) (c : Nat) : State :=
  let v := s.chan c
  match v.serving with
  | none => s
  | some d =>
    if v.state != .RUNNING || v.written < d.len || (d.barrier && s.fld Fld.BMV_CH_CFG_DST_SPACE c == 0 && !v.flushed) then s
    else
      let s := (s.setChan c { v with serving := none, done := v.done + 1 }).bump .BMV_DESC_DONE 0
      let s := if d.irq then s.chanEvent c else s
      if v.stopping then s.chanStop c
      else if d.eoc then
        if v.appendPending then (s.setChan c { s.chan c with appendPending := false }).chanFetch c v.cur true
        else s.setChan c { s.chan c with state := .WAIT_END }
      else match v.ahead with
        | some a => s.chanServe c d.next a
        | none => s

/-! ## Request lines (R366) -/

/-- A line is raised once: every channel that names it counts it. -/
def State.raiseLine (s : State) (line : Nat) : State :=
  ((List.range 4096).filter (fun c => s.fld Fld.BMV_CH_CFG_REQ_LINE c == line)).foldl (fun s c =>
    let v := s.chan c
    if v.pending < 65535 then s.setChan c { v with pending := v.pending + 1 } else s.bump .BMV_REQ_LOST 0) s

/-- A burst of a PACED descriptor starts (R366). -/
def State.pacedBurst (s : State) (c : Nat) : State :=
  let v := s.chan c
  match v.serving with
  | some d =>
    if v.state == .RUNNING && d.paced && v.granted < d.len && v.issued == v.granted && 0 < v.pending then
      s.setChan c { v with pending := v.pending - 1, granted := min d.len (v.granted + 2 ^ s.fld Fld.BMV_CH_CFG_BURST_LOG2 c) }
    else s
  | none => s

/-! ## Channel control (R369, R371, R372) -/

/-- The channel's slice is bound to its link and RUNNING, or the channel works for the device. -/
def State.chanSliceOk (s : State) (c : Nat) : Bool :=
  let n := s.chanSlice c
  n == 0 || (s.sliceRuns n && s.sliceLink n == s.chanLink c)

/-- The other conditions of R371. -/
def State.chanCfgOk (s : State) (c : Nat) : Bool :=
  let h := s.fld Fld.BMV_CH_CFG_HOST_PORT c
  let spaces := [s.fld Fld.BMV_CH_CFG_SRC_SPACE c, s.fld Fld.BMV_CH_CFG_DST_SPACE c, s.fld Fld.BMV_CH_CFG_DESC_SPACE c]
  h / 8 == c / 2048 && s.linkExists h (s.fld Fld.BMV_CH_CFG_LINK c) && spaces.all (· < 3) &&
  (!spaces.contains 2 || s.fld Fld.BMV_CH_CFG_CLUSTER c / 4 == c / 2048) && s.fld Fld.BMV_CH_NEXT_ADDR c != 0

/-- ENABLE = 1 (R371). -/
def State.chanEnable (s : State) (c : Nat) : State :=
  let v := s.chan c
  if v.state != .DISABLED && v.state != .HALTED then s
  else if !s.chanCfgOk c then s.setChan c { v with lastStatus := BitVec.ofNat 8 Code.MALFORMED }
  else if !s.chanSliceOk c then s.setChan c { v with lastStatus := 0xF2 }
  else
    let fresh := v.state == .DISABLED
    (s.setChan c { v with state := .RUNNING, stopping := false, appendPending := false, gen := s.sliceGen (s.chanSlice c), retries := 0,
                          pending := if fresh then 0 else v.pending, done := if fresh then 0 else v.done }).chanFetch c
      (32 * s.fld Fld.BMV_CH_NEXT_ADDR c) false

/-- ENABLE = 0 (R369). -/
def State.chanDisable (s : State) (c : Nat) : State :=
  let v := s.chan c
  match v.state with
  | .RUNNING => if v.serving.isSome then s.setChan c { v with stopping := true } else s.chanStop c
  | .WAIT_END => s.chanStop c
  | .HALTED => s.setChan c { v with state := .DISABLED }
  | .DISABLED => s

/-- APPEND (R372). -/
def State.chanAppend (s : State) (c : Nat) : State :=
  let v := s.chan c
  match v.state with
  | .WAIT_END => if v.fetch.isSome then s.setChan c { v with appendPending := true } else s.chanFetch c v.cur true
  | .RUNNING => s.setChan c { v with appendPending := true }
  | _ => s.bump .BMV_DB_IGNORED 0

/-- ABORT (R368). -/
def State.chanAbort (s : State) (c : Nat) : State := s.chanHalt c 0xF1

/-- Every channel for which p holds halts with a status. -/
def State.haltChannels (s : State) (p : Nat → Bool) (status : Nat) : State :=
  ((List.range 4096).filter p).foldl (fun s c => s.chanHalt c status) s

/-- BMV_PORT_STAGE (R358). -/
def State.stageShares (s : State) (h : Nat) (value : Word) : State :=
  let v := value.toNat
  if 512 < bits v 0 10 + bits v 10 10 + bits v 20 10 then s.setFld Fld.BMV_STATUS_CFG_REFUSED 0 1
  else s.setReg .BMV_PORT_STAGE h (BitVec.ofNat 64 (bits v 0 30))

end Sys2Proof.Machine
end

