-- ==== Sys2Proof/Machine/Storage.lean ====
section
/-! DEFINITION. Storage offload (R224 to R233): namespaces, NVMe entries (their offsets are the standard's, assumption log
entry 16), data and its cipher, transport, and failures. -/

namespace Sys2Proof.Machine

/-! ## Entries and namespaces (R225, R226) -/

def sqeOp (e : List Byte) : Nat := leAt e 0 1
def sqeCid (e : List Byte) : Nat := leAt e 2 2
def sqeNsid (e : List Byte) : Nat := leAt e 4 4
def sqePrp1 (e : List Byte) : Nat := leAt e 24 8
def sqePrp2 (e : List Byte) : Nat := leAt e 32 8
def sqeSlba (e : List Byte) : Nat := leAt e 40 8
def sqeBlocks (e : List Byte) : Nat := leAt e 48 2 + 1
def sqeRanges (e : List Byte) : Nat := leAt e 40 1 + 1
def sqeDealloc (e : List Byte) : Bool := bit (leAt e 44 1) 2

def blockBytes (b : List Byte) : Nat := if bit (leAt b 3 1) 1 then 4096 else 512
def nsReadOnly (b : List Byte) : Bool := bit (leAt b 3 1) 2
def nsKey (b : List Byte) : Nat := leAt b 12 4 % 262144
def nsCapacity (b : List Byte) : Nat := leAt b 16 8
def nsOffset (b : List Byte) : Nat := leAt b 24 8
def nsRemote (b : List Byte) : Nat := leAt b 8 4

/-- The VALID namespace of a slice with an NSID (R225). -/
def State.findSpace (s : State) (n nsid : Nat) : Option (List Byte) :=
  (s.ofl.spaces.find? (fun x => nsValid x.2 && nsSlice x.2 == n && nsId x.2 == nsid)).map (·.2)

/-- NVMe status of R230: type, code, do not retry. -/
def nvme (sct sc : Nat) (dnr : Bool) : Nat := sc + 256 * sct + 16384 * flag dnr

/-! ## Connections (R224, R229) -/

def connTransport (b : List Byte) : Nat := leAt b 0 1
def connDepth (b : List Byte) : Nat := leAt b 2 2
def connReady (b : List Byte) : Bool := leAt b 84 1 == 1
def connMss (b : List Byte) : Nat := if connTransport b = 1 then 4096 else max 536 (leAt b 78 2)

def runDefault : Nat → ConnRun := fun _ => {}
def State.connRun (s : State) (c : Nat) : ConnRun := SMap.get runDefault s.sto.runs c
def State.setConnRun (s : State) (c : Nat) (v : ConnRun) : State :=
  { s with sto := { s.sto with runs := SMap.set runDefault c v s.sto.runs } }

/-- Commands outstanding on a connection. -/
def State.connLoad (s : State) (c : Nat) : Nat := (s.sto.cmds.filter (fun x => x.conn == c)).length

/-- Ciphertext staging in use on an engine die: 16 MiB each (R224). -/
def State.staged (s : State) (die : Nat) : Nat := ((s.sto.cmds.filter (fun x => s.sliceDie x.slc == die)).map (·.bytes)).sum

def State.setCmd (s : State) (c : StCmd) : State :=
  { s with sto := { s.sto with cmds := s.sto.cmds.map (fun x => if StCmd.id x = c.id then c else x) } }
def State.cmd? (s : State) (id : Nat) : Option StCmd := s.sto.cmds.find? (fun x => x.id == id)

/-- The Ethernet header of a storage frame (R224). -/
def stEthernet (b : List Byte) : List Byte :=
  slice b 16 6 ++ slice b 22 6 ++ (if bit (leAt b 1 1) 1 then toBE 2 0x8100 ++ toBE 2 (leAt b 28 2) else []) ++
  toBE 2 (if bit (leAt b 1 1) 0 then 0x86DD else 0x0800)

/-- Sequence space of a connection: PSNs of RoCEv2, octets of TCP (R224). -/
def seqSpace (b : List Byte) : Nat := if connTransport b = 1 then 2 ^ 24 else 2 ^ 32

/-- Header and data digests of an NVMe/TCP PDU (R224, R232). -/
def digestBytes (b : List Byte) (data : Nat) : Nat :=
  4 * flag (bit (leAt b 1 1) 2) + (if data = 0 then 0 else 4 * flag (bit (leAt b 1 1) 3))

/-- Sequence numbers a frame takes: one PSN, or the octets of an NVMe/TCP PDU: 72 of a capsule, 24 before data (the standard's, assumption
log entry 16). -/
def seqTaken (b : List Byte) (kind data : Nat) : Nat :=
  if connTransport b = 1 then 1 else (if kind = 3 then 24 + data else 72) + digestBytes b (if kind = 3 then data else 0)

/-- Data of one frame: a path MTU of 4,096 over RoCEv2; a TCP segment without its PDU header and digests, and at most MAXH2CDATA (R224,
R232). -/
def frameData (b : List Byte) : Nat :=
  if connTransport b = 1 then 4096 else min (connMss b - 24 - digestBytes b 1) (leAt b 88 4)

/-- A storage frame without FCS. What follows the Ethernet header, ICRC and digests included, is as the transport's standard lays it out
from the connection's fields. -/
def stOctets (b : List Byte) (seq kind cmd offset : Nat) (data : List Byte) : List Byte :=
  stEthernet b ++ Config.encode kind [connTransport b, leAt b 1 1, seq, leAt b 68 4, leAt b 4 4, leAt b 8 4, leAt b 30 1, leAt b 76 1, cmd,
    offset, data.length] (slice b 32 32 ++ data)

/-- A storage frame enters the switch core at port 332 or 333 (R224). -/
def State.stEmit (s : State) (die : Nat) (b octets : List Byte) : State :=
  s.newFrame { id := 0, inPort := 332 + die, passPort := 332 + die, octets := withFcs octets false, ended := true,
               rxClass := leAt b 31 1 % 8, time := s.now }

/-- A frame that takes sequence numbers leaves, and stays unacknowledged (R232). -/
def State.stPut (s : State) (die conn : Nat) (u : Unsent) : State :=
  let b := s.conn conn
  let seq := leAt b 64 4
  let next := (seq + seqTaken b u.kind u.data.length) % seqSpace b
  let octets := stOctets b seq u.kind u.cmd u.offset u.data
  let r := s.connRun conn
  ((s.setConn conn (splice b 64 (toLE 4 next))).setConnRun conn { r with unacked := r.unacked ++ [⟨seq, next, octets⟩] }).stEmit die b octets

/-- The TCP send window has room for a frame: the window last advertised, or the connection's initial one (R224, R232). -/
def State.stFits (s : State) (conn : Nat) (u : Unsent) : Bool :=
  let b := s.conn conn
  let r := s.connRun conn
  connTransport b != 2 ||
  decide ((r.unacked.map (fun x => (x.next + seqSpace b - x.seq) % seqSpace b)).sum + seqTaken b u.kind u.data.length ≤
    r.window.getD (leAt b 72 4))

/-- A transport frame of a connection: it leaves, or waits behind others for the send window. -/
def State.stFrame (s : State) (die conn kind cmd offset : Nat) (data : List Byte) : State :=
  let r := s.connRun conn
  let u : Unsent := ⟨kind, cmd, offset, data⟩
  if r.held.isEmpty && s.stFits conn u then s.stPut die conn u
  else s.setConnRun conn { r with held := r.held ++ [u] }

/-- Held frames leave in order as far as the window allows. -/
def State.stDrain (s : State) (die conn : Nat) : List Unsent → State
  | [] => s.setConnRun conn { s.connRun conn with held := [] }
  | u :: us =>
    if s.stFits conn u then (s.stPut die conn u).stDrain die conn us
    else s.setConnRun conn { s.connRun conn with held := u :: us }

/-- Data of a command, one frame after another. -/
def State.stData (s : State) (die conn cmd offset : Nat) (data : List Byte) : State :=
  (splitSpan (frameData (s.conn conn)) (data.length + 1) 0 data.length).foldl
    (fun s x => s.stFrame die conn 3 cmd (offset + x.1) (slice data x.1 x.2)) s

/-- RDMA READ responses (R228, R232): they carry the sequence numbers of the request, and the target asks again for one that is lost. -/
def State.stReadResponse (s : State) (die conn cmd offset seq : Nat) (data : List Byte) : State :=
  let b := s.conn conn
  (splitSpan (frameData b) (data.length + 1) 0 data.length).zipIdx.foldl
    (fun s x => s.stEmit die b (stOctets b ((seq + x.2) % 2 ^ 24) 3 cmd (offset + x.1.1) (slice data x.1.1 x.1.2))) s

/-- A frame that only answers the target: an acknowledgement (kind 5) or a sequence error (kind 6). -/
def State.stReply (s : State) (die conn kind : Nat) : State :=
  let b := s.conn conn
  s.stEmit die b (stOctets b (leAt b 64 4) kind 0 0 [])

/-! ## Completions (R228, R230, R231) -/

/-- A storage completion is owed to a queue of the slice. -/
def State.stComplete (s : State) (g life n cid status dw0 : Nat) : State :=
  s.addReady g life ⟨stCpl (g - s.fld Fld.SLC_GRANT_Q_QUEUE_BASE n) cid status dw0, false⟩

/-- A command leaves: its staging is released, and request lines are raised for each 4 KiB of it (R366). -/
def State.stRelease (s : State) (c : StCmd) : State :=
  let s := { s with sto := { s.sto with cmds := s.sto.cmds.filter (fun x => x.id != c.id) } }
  let s := s.failReads (fun r => match r.want.why with | .prpList x => x == c.id | .storage x _ => x == c.id | _ => false)
  (List.range (c.bytes / 4096)).foldl (fun s _ => s.raiseLine (32 * s.sliceDie c.slc + c.conn % 32)) s

/-- A command ends with a status, unless its generation is no longer current (R231). -/
def State.stFinish (s : State) (c : StCmd) (status dw0 : Nat) : State :=
  let s := s.stRelease c
  if s.genCurrent c.slc c.gen then s.stComplete c.queue c.life c.slc (sqeCid c.sqe) status dw0
  else (s.bump .OFL_STALE_RESULT 0).bump .SLC_STALE_DISCARD c.slc

/-- A connection enters FAILED (R229): every outstanding command completes with Transient Transport Error. -/
def State.connFail (s : State) (conn cause : Nat) : State :=
  if !connReady (s.conn conn) then s
  else
    let s := (s.setConn conn (splice (s.conn conn) 84 (toLE 1 2))).oflEvent 4 conn cause
    let s := s.setConnRun conn {}
    (s.sto.cmds.filter (fun x => x.conn == conn)).foldl (fun s c => s.stFinish c (nvme 0 0x22 false) 0) s

/-! ## Identify (R227) -/

/-- The 4,096-byte answer of Identify, by CNS. -/
def State.identify (s : State) (n : Nat) (sqe : List Byte) : Option (List Byte) :=
  let zero := List.replicate 4096 (0 : Byte)
  let text := SMap.get (fun _ => []) s.slc.texts n
  match leAt sqe 40 1 with
  | 0x00 => (s.findSpace n (sqeNsid sqe)).map (fun b =>
      let cap := toLE 8 (nsCapacity b)
      splice (splice zero 0 (cap ++ cap ++ cap)) 128 (toLE 4 (if blockBytes b = 4096 then 12 * 65536 else 9 * 65536)))
  | 0x01 =>
    let z := splice zero 4 (slice text 0 20 ++ slice text 20 40 ++ slice text 60 8)
    let z := splice (splice z 77 [8]) 512 [0x66, 0x44]
    some (splice (splice z 516 (toLE 4 16)) 520 (toLE 2 0x0C ++ [0, 0, 0, 1]))
  | 0x02 =>
    let ids := (List.range 17).filter (fun i => 0 < i && sqeNsid sqe < i && (s.findSpace n i).isSome)
    some (splice zero 0 (ids.flatMap (toLE 4)))
  | _ => none

/-! ## Host pages (PRP) -/

/-- Page spans of a transfer from PRP1 and PRP2: the pages known, and the list that gives the rest. -/
def prpPages (sqe : List Byte) (bytes : Nat) : List (Nat × Nat) × Option (Nat × Nat) :=
  let a := sqePrp1 sqe
  let n1 := min bytes (4096 - a % 4096)
  let rest := bytes - n1
  if rest = 0 then ([(a, n1)], none)
  else if rest ≤ 4096 then ([(a, n1), (sqePrp2 sqe, rest)], none)
  else ([(a, n1)], some (sqePrp2 sqe, rest))

/-- Entries a PRP list page holds from an address. -/
def prpRoom (a : Nat) : Nat := (4096 - a % 4096) / 8

/-- Pages from a PRP list page: the pages, and the next list. -/
def prpList (a rest : Nat) (data : List Byte) : List (Nat × Nat) × Option (Nat × Nat) :=
  let need := ceilDiv rest 4096
  let more := prpRoom a < need
  let k := if more then prpRoom a - 1 else need
  let pages := (List.range k).map (fun i => (leAt data (8 * i) 8, min 4096 (rest - 4096 * i)))
  (pages, if more then some (leAt data (8 * k) 8, rest - 4096 * k) else none)

/-- Bytes at an offset of a transfer, as host spans. -/
def pageSpans : List (Nat × Nat) → Nat → Nat → List (Nat × Nat)
  | [], _, _ => []
  | p :: ps, off, n =>
    if n = 0 then []
    else if p.2 ≤ off then pageSpans ps (off - p.2) n
    else let k := min n (p.2 - off); (p.1 + off, k) :: pageSpans ps 0 (n - k)

/-! ## Stages of a command (R228) -/

def State.stWant (s : State) (c : StCmd) (why : ReadFor) (a n : Nat) : State :=
  { s with hep := { s.hep with wants := s.hep.wants ++ [Want.mk (s.sliceLink c.slc) c.slc c.gen why a n 0] } }

/-- The command capsule leaves for the target. -/
def State.stCapsule (s : State) (c : StCmd) (slba blocks : Nat) : State :=
  let op := if sqeOp c.sqe = 8 then 1 else sqeOp c.sqe
  (s.setCmd { c with phase := .sent, sentAt := s.elapsed }).stFrame (s.sliceDie c.slc) c.conn 2 c.id 0
    (toLE 1 op ++ toLE 2 c.id ++ toLE 4 (nsRemote c.space) ++ toLE 8 ((slba + nsOffset c.space) % 2 ^ 64) ++ toLE 4 blocks ++ slice c.sqe 40 24)

/-- Blocks go to the cipher cluster, one request a block, the tweak the tenant's LBA (R228). -/
def State.stCipher (s : State) (c : StCmd) (op first : Nat) (blocks : List (Nat × List Byte)) : State :=
  blocks.foldl (fun s b => s.submitCipher
    { requester := .storage (if s.sliceDie c.slc = 0 then 0 else 1),
      raw := requestBytes op 0 0 b.2.length (nsKey c.space) c.slc c.gen 0 (first + b.1) b.1 (65536 * c.id + b.1),
      input := b.2 }) s

/-- Blocks of a Write Zeroes chunk: at most 1 MiB (R228). -/
def zeroChunk (c : StCmd) : Nat := min (1048576 / blockBytes c.space) (sqeBlocks c.sqe - c.chunk)

/-- A Write Zeroes goes on with its next chunk of enciphered zero blocks. -/
def State.stZeroes (s : State) (c : StCmd) : State :=
  let k := zeroChunk c
  let bs := blockBytes c.space
  let c := { c with phase := .sealing, staged := List.replicate (k * bs) 0, blocks := (List.range k).map (fun i => (i, 0)) }
  (s.setCmd c).stCipher c 3 (sqeSlba c.sqe + c.chunk) ((List.range k).map (fun i => (i, List.replicate bs 0)))

/-- The pages of a command are known: what it does next. -/
def State.stPaged (s : State) (c : StCmd) : State :=
  if sqeOp c.sqe = 2 then (s.setCmd c).stCapsule c (sqeSlba c.sqe) (sqeBlocks c.sqe)
  else
    let spans := c.pages.flatMap (fun p => splitSpan 4096 (p.2 + 1) p.1 p.2)
    let c := { c with phase := .fetching, parts := spans.map (fun _ => none) }
    spans.zipIdx.foldl (fun s x => s.stWant c (.storage c.id x.2) x.1.1 x.1.2) (s.setCmd c)

/-- Asks for the pages of a command's transfer. -/
def State.stPages (s : State) (c : StCmd) : State :=
  match c.list with
  | none => s.stPaged c
  | some (a, rest) => (s.setCmd c).stWant c (.prpList c.id) a (8 * min (prpRoom a) (ceilDiv rest 4096))

/-- A page of a PRP list has arrived. -/
def State.stList (s : State) (id : Nat) (data : List Byte) : State :=
  match s.cmd? id with
  | some c =>
    (match c.list with
     | some (a, rest) =>
       let r := prpList a rest data
       s.stPages { c with pages := c.pages ++ r.1, list := r.2 }
     | none => s)
  | none => s

/-- The ranges of a Dataset Management command lie within the namespace (R228, R230). -/
def rangesOk (b : List Byte) (data : List Byte) (n : Nat) : Bool :=
  (List.range n).all (fun i => leAt data (16 * i + 8) 8 + leAt data (16 * i + 4) 4 ≤ nsCapacity b)

/-- The ranges with LBA_OFFSET added. -/
def rangesOffset (b : List Byte) (data : List Byte) (n : Nat) : List Byte :=
  (List.range n).flatMap (fun i => slice data (16 * i) 8 ++ toLE 8 ((leAt data (16 * i + 8) 8 + nsOffset b) % 2 ^ 64))

/-- All host data of a command has arrived. -/
def State.stFetched (s : State) (c : StCmd) : State :=
  let data := c.parts.flatMap (fun p => p.getD [])
  let n := sqeRanges c.sqe
  if sqeOp c.sqe = 9 then
    if rangesOk c.space data n then s.stCapsule { c with staged := rangesOffset c.space data n } 0 n
    else s.stFinish c (nvme 0 0x80 true) 0
  else
    let bs := blockBytes c.space
    let k := sqeBlocks c.sqe
    let c := { c with phase := .sealing, staged := List.replicate (k * bs) 0, blocks := (List.range k).map (fun i => (i, 0)) }
    (s.setCmd c).stCipher c 3 (sqeSlba c.sqe) ((List.range k).map (fun i => (i, slice data (i * bs) bs)))

/-- Host data of a command arrives. -/
def State.stPart (s : State) (id part : Nat) (data : List Byte) : State :=
  match s.cmd? id with
  | none => s
  | some c =>
    let c := { c with parts := c.parts.set part (some data) }
    if c.parts.any (·.isNone) then s.setCmd c else s.stFetched c

/-- A host read of a command failed after its retries (R230). -/
def State.stAbort (s : State) (id : Nat) : State :=
  match s.cmd? id with
  | none => s
  | some c => s.stFinish c (nvme 0 0x04 false) 0

/-- Status of a remote completion: CRD and M cleared (R345). -/
def remoteStatus (cqe : List Byte) : Nat :=
  let v := leAt cqe 14 2 / 2
  v % 2048 + (if bit v 14 then 16384 else 0)

/-- The remote response is in and nothing of the data is left to write: the command completes, with the target's status or its own, or a
Write Zeroes goes on. -/
def State.stAnswered (s : State) (c : StCmd) : State :=
  match c.answer with
  | none => s.setCmd c
  | some cqe =>
    if !c.blocks.isEmpty && sqeOp c.sqe == 2 then s.setCmd c
    else
      let st := c.error.getD (remoteStatus cqe)
      if sqeOp c.sqe == 8 && st == 0 && c.chunk + zeroChunk c < sqeBlocks c.sqe then
        s.stZeroes { c with chunk := c.chunk + zeroChunk c, answer := none }
      else s.stFinish c st (leAt cqe 0 4)

/-- One cipher result of the storage engine is carried out. A refusal of the cipher cluster ends a command whose capsule has not left; one
that the target holds ends at the response, its staging held till then (R230, R231). -/
def State.stResult (s : State) (r : CipherResult) : State :=
  match s.cmd? (r.cookie / 65536) with
  | none => s
  | some c =>
    let i := r.cookie % 65536
    let bs := blockBytes c.space
    let code := leAt r.result 0 1
    if code != 0 && c.phase == .sent then
      s.stAnswered { c with blocks := c.blocks.filter (fun b => b.1 != i), error := some (nvme 0 0x06 true) }
    else if code != 0 then s.stFinish c (nvme 0 0x06 true) 0
    else if sqeOp c.sqe = 2 then
      let s := (pageSpans c.pages (i * bs) bs).foldl (fun acc p =>
        (acc.1.hostWrite (s.sliceLink c.slc) c.slc c.gen p.1 (slice r.output acc.2 p.2) true, acc.2 + p.2)) (s, 0) |>.1
      s.stAnswered { c with blocks := c.blocks.filter (fun b => b.1 != i) }
    else
      let c := { c with staged := splice c.staged (i * bs) r.output, blocks := c.blocks.filter (fun b => b.1 != i) }
      if !c.blocks.isEmpty then s.setCmd c
      else if sqeOp c.sqe = 8 then s.stCapsule c (sqeSlba c.sqe + c.chunk) (zeroChunk c)
      else s.stCapsule c (sqeSlba c.sqe) (sqeBlocks c.sqe)

/-- Cipher results of the storage engine that wait are carried out, in order. -/
def State.settleStorage (s : State) : State :=
  let mine := s.cph.results.filter (fun r => match r.requester with | .storage _ => true | _ => false)
  mine.foldl (fun s r => ({ s with cph := { s.cph with results := s.cph.results.filter (fun x => x != r) } }).stResult r) s

/-- The results of the tunnel and the storage engine are carried out. -/
def State.settle (s : State) : State := s.settleTunnel.settleStorage

/-! ## Taking a storage entry (R226, R230) -/

/-- The fields NVMe reserves in an entry are zero, by opcode; in a Dataset Management that includes a range count above 256 (R230; the
fields are the standard's, assumption log entry 16). -/
def sqeReservedZero (e : List Byte) : Bool :=
  let cdw := fun (n : Nat) => leAt e (4 * n) 4
  leAt e 8 8 == 0 &&
  match sqeOp e with
  | 0 => allZero (slice e 40 24)
  | 1 => bits (cdw 12) 16 4 == 0 && bits (cdw 13) 8 8 == 0
  | 2 => bits (cdw 12) 16 8 == 0 && bits (cdw 13) 8 24 == 0
  | 6 => bits (cdw 10) 8 8 == 0 && cdw 12 == 0 && cdw 13 == 0
  | 8 => bits (cdw 12) 16 9 == 0 && cdw 13 == 0
  | 9 => bits (cdw 10) 8 24 == 0 && bits (cdw 11) 3 29 == 0 && allZero (slice e 48 16)
  | _ => true

/-- The check of R230 an entry fails, in the table's order. -/
def State.stRefusal (s : State) (g n : Nat) (sqe : List Byte) : Option Nat :=
  let op := sqeOp sqe
  let admin := s.queueKind g == 2
  if (admin && op != 6) || (!admin && !([0, 1, 2, 8, 9].contains op)) then some (nvme 0 0x01 true)
  else if admin then (if sqeReservedZero sqe then none else some (nvme 0 0x02 true))
  else match s.findSpace n (sqeNsid sqe) with
    | none => some (nvme 0 0x0B true)
    | some b =>
      if [1, 2, 8].contains op && nsCapacity b < sqeSlba sqe + sqeBlocks sqe then some (nvme 0 0x80 true)
      else if ([1, 2].contains op && 1048576 < sqeBlocks sqe * blockBytes b) || !sqeReservedZero sqe then some (nvme 0 0x02 true)
      else if nsReadOnly b && (op == 1 || op == 8 || (op == 9 && sqeDealloc sqe)) then some (nvme 1 0x82 true)
      else if !connReady (s.conn (nsConn b)) then some (nvme 0 0x82 false)
      else none

/-- Staging a command takes (R224, R228). -/
def stBytes (sqe b : List Byte) : Nat :=
  match sqeOp sqe with
  | 0 => 0
  | 8 => min 1048576 (sqeBlocks sqe * blockBytes b)
  | 9 => 16 * sqeRanges sqe
  | _ => sqeBlocks sqe * blockBytes b

/-- The engine takes no entry that its staging has no room for, nor one for a connection at its depth (R224). -/
def State.stHolds (s : State) (n : Nat) (sqe : List Byte) : Bool :=
  16777216 ≤ s.staged (s.sliceDie n) ||
  (match s.findSpace n (sqeNsid sqe) with
   | some b =>
     (decide (stBytes sqe b ≤ 1048576) && decide (16777216 < s.staged (s.sliceDie n) + stBytes sqe b)) ||
     (connReady (s.conn (nsConn b)) && connDepth (s.conn (nsConn b)) ≤ s.connLoad (nsConn b))
   | none => false)

/-- Identify is answered on the spot (R227). -/
def State.stIdentify (s : State) (g n : Nat) (sqe : List Byte) : State :=
  match s.identify n sqe with
  | none => s.stComplete g (s.queue g).life n (sqeCid sqe) (if leAt sqe 40 1 = 0 then nvme 0 0x0B true else nvme 0 0x02 true) 0
  | some data =>
    let s := ((prpPages sqe 4096).1.foldl (fun acc p =>
      (acc.1.hostWrite (s.sliceLink n) n (s.sliceGen n) p.1 (slice data acc.2 p.2) true, acc.2 + p.2)) (s, 0)).1
    s.stComplete g (s.queue g).life n (sqeCid sqe) 0 0

/-- A storage entry is taken (R226, R228, R347). -/
def State.takeStorage (s : State) (g n : Nat) (sqe : List Byte) : State :=
  let s := (s.takeEntries g 1).prefetch g n
  match s.stRefusal g n sqe with
  | some status => s.stComplete g (s.queue g).life n (sqeCid sqe) status 0
  | none =>
    if s.queueKind g = 2 then s.stIdentify g n sqe
    else match s.findSpace n (sqeNsid sqe) with
      | none => s
      | some b =>
        let op := sqeOp sqe
        let bytes := if op = 8 then 0 else stBytes sqe b
        if op = 9 ∧ !sqeDealloc sqe then s.stComplete g (s.queue g).life n (sqeCid sqe) 0 0
        else
          let pg := if bytes = 0 then ([], none) else prpPages sqe bytes
          let c : StCmd := { id := s.sto.nextCmd, queue := g, life := (s.queue g).life, slc := n, gen := s.sliceGen n, sqe := sqe, space := b, conn := nsConn b,
                             bytes := stBytes sqe b, phase := .lists,
                             pages := pg.1, list := pg.2 }
          let s := { s with sto := { s.sto with cmds := s.sto.cmds ++ [c], nextCmd := s.sto.nextCmd + 1 } }
          let s := if op = 1 then s.chargeShaper .sliceSend n (12800 * bytes) else s
          if op = 0 then s.stCapsule c 0 0 else if op = 8 then s.stZeroes c else s.stPages c

/-! ## Transport events (R228, R229, R232) -/

/-- Segments of a list enter the switch core again. -/
def State.stAgain (s : State) (die : Nat) (b : List Byte) (list : List SentFrame) : State :=
  list.foldl (fun s x => s.stEmit die b x.octets) s

/-- What a retransmission sends: over RoCEv2 everything unacknowledged from a PSN on, over TCP the first segment (R232). -/
def goBack (b : List Byte) (r : ConnRun) (seq : Option Nat) : List SentFrame :=
  let list := match seq with
    | some q => r.unacked.dropWhile (fun x => x.seq != q)
    | none => r.unacked
  if connTransport b = 1 then list else list.take 1

/-- Retransmission: FAILED once the retry count of RoCEv2, or 6 retransmissions of one TCP segment, are used up (R229, R232). -/
def State.stResend (s : State) (die conn : Nat) (seq : Option Nat) : State :=
  let r := s.connRun conn
  let b := s.conn conn
  if (if connTransport b = 1 then bits (leAt b 82 1) 0 3 else 6) < r.retries + 1 then s.connFail conn 1
  else (s.setConnRun conn { r with retries := r.retries + 1, dups := 0 }).stAgain die b (goBack b r seq)

/-- RNR NAK (R224, R232): a retry of its own count, without limit where that is 7. -/
def State.stRnr (s : State) (die conn seq : Nat) : State :=
  let r := s.connRun conn
  let b := s.conn conn
  let limit := bits (leAt b 82 2) 8 3
  if limit ≠ 7 ∧ limit < r.rnr + 1 then s.connFail conn 1
  else (s.setConnRun conn { r with rnr := r.rnr + 1 }).stAgain die b (goBack b r (some seq))

/-- The spans of a Read received so far cover n bytes from a. -/
def covered (got : List (Nat × Nat)) (a n : Nat) : Bool :=
  (List.range n).all (fun i => got.any (fun g => g.1 ≤ a + i && a + i < g.1 + g.2))

/-- Data of a Read arrives: ciphertext is staged, and every block now whole is deciphered (R228). -/
def State.stArrive (s : State) (c : StCmd) (offset : Nat) (data : List Byte) : State :=
  let bs := blockBytes c.space
  let total := sqeBlocks c.sqe * bs
  if sqeOp c.sqe != 2 || c.phase != .sent || total < offset + data.length then s
  else
    let staged := splice (if c.staged.isEmpty then List.replicate total 0 else c.staged) offset data
    let got := (offset, data.length) :: c.got
    let new := ((List.range (data.length / bs + 2)).map (offset / bs + ·)).filter (fun i =>
      i < sqeBlocks c.sqe && !c.seen.contains i && covered got (i * bs) bs)
    let c := { c with staged := staged, got := got, seen := new ++ c.seen, blocks := c.blocks ++ new.map (fun i => (i, bs)) }
    (s.setCmd c).stCipher c 4 (sqeSlba c.sqe) (new.map (fun i => (i, slice staged (i * bs) bs)))

/-- What a frame in sequence says is carried out; seq is the PSN of an RDMA READ request (R228). -/
def State.stCarryOut (s : State) (die conn seq : Nat) (e : StorageEvent) : State :=
  match e with
  | .pull id off len =>
    match s.cmd? id with
    | some c =>
      let data := slice c.staged off (min len (c.staged.length - off))
      if c.conn != conn || c.phase != .sent then s
      else if connTransport (s.conn conn) = 1 then s.stReadResponse die conn id off seq data
      else s.stData die conn id off data
    | none => s
  | .data id off bytes =>
    match s.cmd? id with
    | some c => if c.conn = conn then s.stArrive c off bytes else s
    | none => s
  | .response id cqe =>
    match s.cmd? id with
    | some c => if c.conn = conn && c.phase == .sent then s.stAnswered { c with answer := some cqe } else s
    | none => s
  | .keepAliveResponse => s.setConnRun conn { s.connRun conn with alive := false }
  | _ => s

/-- The acknowledgement and the window a frame carries (R232): what it acknowledges leaves, the third duplicate over TCP retransmits, and
held frames go on. -/
def State.stAcked (s : State) (die conn : Nat) (f : StorageFrame) : State :=
  match f.ack with
  | none => s
  | some q =>
    let b := s.conn conn
    let roce := connTransport b = 1
    let m := seqSpace b
    let point := if roce then (q.toNat + 1) % m else q.toNat
    let r := s.connRun conn
    let r := if roce then r else { r with window := some (f.window.toNat * 2 ^ (leAt b 76 1 % 16)) }
    let rest := r.unacked.dropWhile (fun x => decide ((point + m - x.next) % m < m / 2))
    if rest.length < r.unacked.length then
      (s.setConnRun conn { r with unacked := rest, retries := 0, rnr := 0, dups := 0 }).stDrain die conn r.held
    else if !roce ∧ f.length = 0 ∧ r.unacked.head?.any (fun x => x.seq == point) then
      if r.dups + 1 = 3 then (s.setConnRun conn r).stResend die conn none else s.setConnRun conn { r with dups := r.dups + 1 }
    else (s.setConnRun conn r).stDrain die conn r.held

/-- A frame that takes sequence numbers (R232): out of sequence it is answered and discarded, an RDMA READ request seen before is answered
again, a bad digest fails the connection, and in sequence the frame is acknowledged and carried out. -/
def State.stSequenced (s : State) (die conn : Nat) (f : StorageFrame) : State :=
  let b := s.conn conn
  let roce := connTransport b = 1
  let m := seqSpace b
  let taken := if roce then (match f.event with
      | some (.pull _ _ len) => max 1 (ceilDiv len (frameData b))
      | _ => 1) else f.length
  let ahead := (f.seq.toNat + m - leAt b 68 4 % m) % m
  let pull := match f.event with
    | some (.pull ..) => connTransport b == 1
    | _ => false
  if ahead = 0 then
    if !f.intact then s.connFail conn 4
    else
      let s := s.setConn conn (splice b 68 (toLE 4 ((leAt b 68 4 + taken) % m)))
      let s := if pull then s else s.stReply die conn 5
      match f.event with
      | some e => s.stCarryOut die conn f.seq.toNat e
      | none => s
  else if roce ∧ ahead < m / 2 then s.stReply die conn 6
  else match f.event with
    | some e => if pull then s.stCarryOut die conn f.seq.toNat e else s.stReply die conn 5
    | none => s.stReply die conn 5

/-- A transport frame for a connection reaches the engine (R224, R229, R232). -/
def State.stEvent (s : State) (die conn : Nat) (f : StorageFrame) : State :=
  let roce := connTransport (s.conn conn) = 1
  if !connReady (s.conn conn) then s.bump .OFL_CONN_NOT_READY 0
  else if roce ∧ !f.intact then s
  else
    let s := s.stAcked die conn f
    if !connReady (s.conn conn) then s
    else match f.event with
      | some .cnp => s.bump .OFL_CNP_RX 0
      | some (.nak q) => s.stResend die conn (some q.toNat)
      | some (.rnr q) => s.stRnr die conn q.toNat
      | some .close => s.connFail conn 3
      | some .protocolError => s.connFail conn 4
      | some _ => s.stSequenced die conn f
      | none => if roce ∨ f.length = 0 then s else s.stSequenced die conn f

end Sys2Proof.Machine
end

