-- ==== Sys2Proof/Machine/Traffic.lean ====
section
/-! DEFINITION. The traffic manager's own state (R192 to R200): shaper and policer writes, metering, timetables and their
change, and the time inputs (R204). -/

namespace Sys2Proof.Machine

/-! ## Shapers (R194) -/

/-- A write of a shaper's bits: RATE keeps its value where the new one is above 1,600,000, and the tokens are set by
RESET_TO. -/
def State.shaperWrite (s : State) (k : ShaperKind) (i : Nat) (value mask : Word) : State :=
  let r := shaperReg k
  let old := s.reg r i
  let new := BitVec.ofNat 64 (plainWritten r.info.fields old.toNat value.toNat mask.toNat)
  let new := if 1600000 < fieldOf new 0 21 then withField new 0 21 (fieldOf old 0 21) else new
  (s.setReg r i new).setTokens k i (if fieldOf new 56 1 = 1 then 0 else (fieldOf new 32 24 : Int) * 12800)

/-! ## Policers (R195 to R197) -/

/-- Units in a policer's bucket at the present core cycle, filled at a rate up to a size in bytes. -/
def bucketAt (b : Bucket) (now rate size : Nat) : Int := min (b.tokens + ((now - b.cycle : Nat) : Int) * (rate : Int)) ((size : Int) * 12800)

def State.committed (s : State) (i : Nat) : Int :=
  bucketAt (SMap.get bucketDefault s.tms.buckets (262144 + i)) s.clk.core (s.fld Fld.TMS_POLICER_RATE_CIR i) (s.fld Fld.TMS_POLICER_SIZE_CBS i)

def State.peaked (s : State) (i : Nat) : Int :=
  bucketAt (SMap.get bucketDefault s.tms.peak i) s.clk.core (s.fld Fld.TMS_POLICER_RATE_PIR i) (s.fld Fld.TMS_POLICER_SIZE_PBS i)

def State.setPolicer (s : State) (i : Nat) (tc tp : Int) : State :=
  { s with tms := { s.tms with buckets := SMap.set bucketDefault (262144 + i) { tokens := tc, cycle := s.clk.core } s.tms.buckets,
                               peak := SMap.set bucketDefault i { tokens := tp, cycle := s.clk.core } s.tms.peak } }

/-- A write of a policer's rates or sizes: both buckets are full after it. Rates with PIR below CIR are ignored as a whole. -/
def State.policerWrite (s : State) (i : Nat) (size : Bool) (value mask : Word) : State :=
  let r : RegName := if size then .TMS_POLICER_SIZE else .TMS_POLICER_RATE
  let new := BitVec.ofNat 64 (plainWritten r.info.fields (s.reg r i).toNat value.toNat mask.toNat)
  if !size && (fieldOf new 32 21 < fieldOf new 0 21 || 1600000 < fieldOf new 32 21) then s
  else
    let s := s.setReg r i new
    s.setPolicer i ((s.fld Fld.TMS_POLICER_SIZE_CBS i : Int) * 12800) ((s.fld Fld.TMS_POLICER_SIZE_PBS i : Int) * 12800)

/-- A frame of n octets is metered (R196): its colour, 0 green, 1 yellow, 2 red, and the state after it. -/
def State.meter (s : State) (i n : Nat) (aware : Bool) (dp : Nat) : Nat × State :=
  let tc := s.committed i
  let tp := s.peaked i
  let b : Int := (n : Int) * 12800
  if (aware && 2 ≤ dp) || tp < b then (2, s.setPolicer i tc tp)
  else if (aware && dp == 1) || tc < b then (1, s.setPolicer i tc (tp - b))
  else (0, s.setPolicer i (tc - b) (tp - b))

/-! ## Timetables (R198 to R200) -/

def changeDefault : Nat → Option Nat := fun _ => none
def State.changeAt (s : State) (p : Nat) : Option Nat := SMap.get changeDefault s.tms.change p
def State.setChange (s : State) (p : Nat) (v : Option Nat) : State :=
  { s with tms := { s.tms with change := SMap.set changeDefault p v s.tms.change } }

/-- ADMIN_BASE of a port in nanoseconds. -/
def State.adminBase (s : State) (p : Nat) : Nat :=
  (s.fld Fld.TMS_TT_ADMIN_BASE_HIGH_SECONDS_HIGH p * 2 ^ 32 + s.fld Fld.TMS_TT_ADMIN_BASE_SECONDS_LOW p) * 1000000000 +
  s.fld Fld.TMS_TT_ADMIN_BASE_NANOSECONDS p

/-- The change time of R200 step 2. -/
def changeTime (base cycle now : Nat) : Nat :=
  if now + 2000 ≤ base then base else base + ceilDiv (now + 2000 - base) cycle * cycle

/-- CHANGE (R200 steps 1 to 3); a further CHANGE while PENDING is ignored. -/
def State.ttChange (s : State) (p : Nat) : State :=
  if (s.changeAt p).isSome then s
  else
    let len := s.fld Fld.TMS_TT_ADMIN_CTRL_LENGTH p
    let cycle := s.fld Fld.TMS_TT_ADMIN_CYCLE_NS p
    if len < 1 || 1024 < len || cycle < 1000 || 4000000000 < cycle || 1000000000 ≤ s.fld Fld.TMS_TT_ADMIN_BASE_NANOSECONDS p then
      s.setFld Fld.TMS_TT_STATUS_LAST_STATUS p Code.MALFORMED
    else
      let ct := changeTime (s.adminBase p) cycle s.now
      let s := (s.setFld Fld.TMS_TT_STATUS_LAST_STATUS p Code.OK).setFld Fld.TMS_TT_STATUS_CT_SECONDS_HIGH p (secondsOf ct / 2 ^ 32)
      (s.setReg .TMS_TT_CHANGE_TIME p (BitVec.ofNat 64 (nanosOf ct + secondsOf ct % 2 ^ 32 * 2 ^ 32))).setChange p (some ct)

/-- CANCEL (R200): in the cycle of the change, the change wins. -/
def State.ttCancel (s : State) (p : Nat) : State :=
  match s.changeAt p with
  | some ct => if ct ≤ s.now then s else s.setChange p none
  | none => s

/-- A write of TMS_TT_ADMIN_CTRL: LENGTH while not PENDING, then CHANGE, then CANCEL. -/
def State.ttCtrlWrite (s : State) (p : Nat) (value mask : Word) : State :=
  let w := value &&& mask
  let s := if (s.changeAt p).isSome then s else s.plainWrite .TMS_TT_ADMIN_CTRL p value mask
  let s := if fieldOf w 16 1 = 1 then s.ttChange p else s
  if fieldOf w 17 1 = 1 then s.ttCancel p else s


/-- The window class c finds open from its opening at a segment's start: whole length, when the segment before it was
closed; none when the class does not open there or never closes. -/
def Timetable.opened (t : Timetable) (x : Segment) (c : Nat) : Option Nat :=
  let before := match (t.segments.filter (fun y => y.start < x.start)).getLast? with
    | some y => some y
    | none => t.segments.getLast?
  if x.mask.getLsbD c && before.any (fun y => !y.mask.getLsbD c) then t.untilClose x.start c else none

/-- A head that finds its whole window too short is dropped (R199). -/
def State.dropOversize (s : State) (p c w : Nat) : State :=
  match s.head p c 0 with
  | none => s
  | some k =>
    match s.frame? k.frame with
    | none => s
    | some x => if w * s.portRate p < s.chargedLength (k.view x) p then (s.discardCopy k .TMS_TT_OVERSIZE).collect else s

/-- A gate change of a port (R198, R199): the gates follow device time of themselves, and each class that opens drops a head
that its whole window cannot hold. -/
def State.gateChange (s : State) (p : Nat) : State :=
  match s.timetable p with
  | none => s
  | some t =>
    match t.segmentAt (t.position s.now) with
    | none => s
    | some x => (List.range 8).foldl (fun s c => match t.opened x c with | some w => s.dropOversize p c w | none => s) s

/-- The change takes place in the first cycle at or after its time (R200 step 4). A class that was closed and that the new list opens
finds its window there (R199). -/
def State.ttChangeTime (s : State) (p : Nat) : State :=
  match s.changeAt p with
  | none => s
  | some ct =>
    if s.now < ct then s
    else
      let list := (List.range (s.fld Fld.TMS_TT_ADMIN_CTRL_LENGTH p)).map (fun e =>
        (BitVec.ofNat 8 (s.fld Fld.TMS_TT_ADMIN_GATES (1024 * p + e)), s.fld Fld.TMS_TT_ADMIN_DURATION (1024 * p + e)))
      let t : Timetable := { base := ct, cycle := s.fld Fld.TMS_TT_ADMIN_CYCLE_NS p, entries := list }
      let shut := (List.range 8).filter (fun c => !s.gateOpen p c)
      let s := { s.setChange p none with tms := { (s.setChange p none).tms with oper := SMap.set operDefault p (some t) s.tms.oper } }
      (shut.filter (fun c => s.gateOpen p c)).foldl (fun s c => match t.untilClose (t.position s.now) c with
        | some w => s.dropOversize p c w
        | none => s) s

/-! ## Time inputs (R204) and steps (R203) -/

def inputDefault : Nat → TimeInput := fun _ => {}
def State.timeInput (s : State) (i : Nat) : TimeInput := SMap.get inputDefault s.mgt.inputs i
def State.setTimeInput (s : State) (i : Nat) (v : TimeInput) : State :=
  { s with mgt := { s.mgt with inputs := SMap.set inputDefault i v s.mgt.inputs } }

/-- An edge on PPS_IN of input i. -/
def State.ppsEdge (s : State) (i : Nat) (falling : Bool) : State :=
  if s.flagAt Fld.MGT_TIME_CFG_PPS_EDGE 0 != falling then s
  else
    let x := s.timeInput i
    (s.setTimeInput i { x with capture := s.now, valid := true, lost := x.lost || x.valid, seen := true, edgeAt := s.elapsed }).cpcEvent 5

def State.todByte (s : State) (i : Nat) (b : Byte) : State :=
  let x := s.timeInput i
  s.setTimeInput i (if x.fifo.length < 64 then { x with fifo := x.fifo ++ [b] } else { x with overflow := true })

/-- A step written waits for the next ghost-light tick. Steps written before that tick add up. -/
def State.timeStep (s : State) (ns : Word) : State :=
  { s with clk := { s.clk with step := some (s.clk.step.getD 0 + ns.toInt) } }

end Sys2Proof.Machine
end

