-- ==== Sys2Proof/Machine/Slice.lean ====
section
/-! DEFINITION. Tenant slices (R315 to R332): binding, states, generations, grants, hello, and the reads of the read engine
with what becomes of them (R359, R367). n is a slice. -/

namespace Sys2Proof.Machine

/-! ## States (R317, R318) -/

/-- The slice's queues and copies as it leaves RUNNING (R318, R356): for a curtain, or with an advance of its generation. -/
def State.leaveRunning (s : State) (n : Nat) (curtain : Bool) : State :=
  let p := 256 + s.sliceLink n
  let s := (s.sliceQueues n).foldl (fun s g => if curtain then s.queueCurtain g else s.queueDrop g n) s
  let mine := s.swc.copies.filter (fun k => k.port == p && k.slice == n && !k.started)
  let s := mine.foldl (fun s k => ((s.dropCopy k).retag k.port k.cls (subOf k.port k.slice)).bump .SLC_IDLE_DROP n) s
  let s := { s with qrg := { s.qrg with rx := s.qrg.rx.filter (fun j => j.slc != n), waits := s.qrg.waits.filter (fun w => !mine.any (fun k => k.frame == w.2.1 && w.1 + 256 == p)) } }
  (s.collect).setFld Fld.SLC_SLICE_STATE_FORMAT n 0

/-- The channels that work for a slice. -/
def State.channelsOf (s : State) (n : Nat) (c : Nat) : Bool := n != 0 && s.chanSlice c == n

/-- A slice is stopped with an advance (R318): by a host event or by STOP; status is what its channels halt with. One that was STOPPED
already keeps what stopped it, which decides whether it restarts by itself (R319). -/
def State.stopSlice (s : State) (n : Nat) (byHost : Bool) (status : Nat) : State :=
  let st := s.sliceState n
  if st = 0 then s
  else
    let s := s.haltChannels (s.channelsOf n) status
    let s := if st = 1 then s.leaveRunning n false else s
    let s := s.advance n
    let s := s.setFld Fld.SLC_SLICE_STATE_FORMAT n 0
    if st = 3 then s
    else if st = 2 then s.setFld Fld.SLC_SLICE_STATE_STATE n 2
    else { (s.setFld Fld.SLC_SLICE_STATE_STATE n 2) with
             slc := { s.slc with byHost := SMap.set pbaDefault n byHost s.slc.byHost } }

/-- A slice curtain (R318, R356): queues in ERROR with CURTAIN, channels halted, no advance. -/
def State.curtainSlice (s : State) (n : Nat) : State :=
  let st := s.sliceState n
  if st = 1 ∨ st = 2 then
    let s := s.haltChannels (s.channelsOf n) Code.CURTAIN
    let s := if st = 1 then s.leaveRunning n true else (s.sliceQueues n).foldl (fun s g => s.queueCurtain g) s
    s.setFld Fld.SLC_SLICE_STATE_STATE n 3
  else s

/-- Slice curtain exit (R318): to STOPPED with an advance. -/
def State.uncurtainSlice (s : State) (n : Nat) : State :=
  if s.sliceState n = 3 then
    let s := (s.sliceQueues n).foldl (fun s g => s.queueDrop g n) (s.advance n)
    { (s.setFld Fld.SLC_SLICE_STATE_STATE n 2) with slc := { s.slc with byHost := SMap.set pbaDefault n false s.slc.byHost } }
  else s

/-- Slices bound to a link. -/
def State.slicesOn (s : State) (l : Nat) : List Nat :=
  (List.range 4096).filter (fun n => 0 < n && s.sliceState n != 0 && s.sliceLink n == l)

/-! ## Grants (R323, R324) -/

/-- Two half-open ranges overlap. -/
def overlap (a n b m : Nat) : Bool := n != 0 && m != 0 && a < b + m && b < a + n

/-- The grant words q and r are valid for slice n on a link (R324). -/
def State.grantOk (s : State) (n l : Nat) (q r : Word) : Bool :=
  let qb := fieldOf q 0 16
  let qn := fieldOf q 16 7
  let vb := fieldOf q 32 11
  let vn := fieldOf q 43 8
  let cb := fieldOf q 51 7
  let cs := fieldOf r 21 6
  let others := (List.range 4096).filter (fun m => 0 < m && m != n && s.sliceState m != 0)
  qn ≤ 64 && qb + qn ≤ 65536 && (qn == 0 || (qb / 32768 == l / 32 && (qb + qn - 1) / 32768 == l / 32)) &&
  others.all (fun m => !overlap qb qn (s.fld Fld.SLC_GRANT_Q_QUEUE_BASE m) (s.fld Fld.SLC_GRANT_Q_QUEUE_COUNT m)) &&
  vn ≤ 128 && vb + vn ≤ 2048 &&
  others.all (fun m => s.sliceLink m != l || !overlap vb vn (s.fld Fld.SLC_GRANT_Q_VECTOR_BASE m) (s.fld Fld.SLC_GRANT_Q_VECTOR_COUNT m)) &&
  (vn == 0 || cb < vn) && fieldOf r 0 21 ≤ 1048576 && 1 ≤ cs && cs ≤ 36 && fieldOf r 32 19 ≤ 262144

/-- Every queue of the slice is DISABLED. -/
def State.queuesOff (s : State) (n : Nat) : Bool := (s.sliceQueues n).all (fun g => (s.queue g).state == .DISABLED)

/-- A write of a grant register (R323, R324). Element 0 takes no writes. -/
def State.grantWrite (s : State) (n : Nat) (g : GrantReg) (value : Word) : State :=
  let bound := s.sliceState n != 0
  let l := s.sliceLink n
  let qw := s.reg .SLC_GRANT_Q n
  let rw := s.reg .SLC_GRANT_R n
  if n = 0 then s
  else match g with
    | .queues =>
      let new := BitVec.ofNat 64 (plainWritten (RegName.SLC_GRANT_Q).info.fields qw.toNat value.toNat (2 ^ 64 - 1))
      if bound && (!s.grantOk n l new rw || (fieldOf new 0 16 != fieldOf qw 0 16 && !s.queuesOff n)) then s.slcRefused
      else
        let cut := if bound then (s.sliceQueues n).drop (fieldOf new 16 7) else []
        let s := cut.foldl (fun s g => s.queueDisable g n) s
        s.setReg .SLC_GRANT_Q n new
    | .resources =>
      let new := BitVec.ofNat 64 (plainWritten (RegName.SLC_GRANT_R).info.fields rw.toNat value.toNat (2 ^ 64 - 1))
      if bound && !s.grantOk n l qw new then s.slcRefused else s.setReg .SLC_GRANT_R n new
    | .weight => if fieldOf value 0 16 = 0 then (if bound then s.slcRefused else s) else s.setFld Fld.SLC_WEIGHT_WEIGHT n (fieldOf value 0 16)

/-! ## Commands (R316, R318) -/

def State.slcStatus (s : State) (c : Nat) : State := s.setFld Fld.SLC_STATUS_LAST_STATUS 0 c

/-- CREATE's checks in order (R316): the failing status, or none. -/
def State.createFails (s : State) (n : Nat) : Option Nat :=
  let l := s.sliceLink n
  let on := s.slicesOn l
  let page := s.fld Fld.SLC_SLICE_BIND_PAGE n
  if n = 0 then some Code.MALFORMED
  else if s.sliceState n != 0 then some 0xE0
  else if s.stale n != 0 then some 0xE1
  else if !s.linkInUse l || page == 0 then some Code.MALFORMED
  else if on.any (fun m => s.fld Fld.SLC_SLICE_BIND_PASID m == s.fld Fld.SLC_SLICE_BIND_PASID n || s.fld Fld.SLC_SLICE_BIND_PAGE m == page) then
    some Code.MALFORMED
  else if 1024 ≤ ((List.range 4096).filter (fun m => 0 < m && s.sliceState m != 0 && s.sliceLink m / 4 == l / 4)).length then
    some Code.SLICE_LIMIT
  else if !s.grantOk n l (s.reg .SLC_GRANT_Q n) (s.reg .SLC_GRANT_R n) then some Code.MALFORMED
  else none

def slotWord : Nat → Word := fun _ => 0

/-- CREATE (R316, R401): RUNNING with FORMAT 0 and every queue DISABLED; its callboard slots cleared. -/
def State.createSlice (s : State) (n : Nat) : State :=
  match s.createFails n with
  | some c => s.slcStatus c
  | none =>
    let s := (s.setFld Fld.SLC_SLICE_STATE_STATE n 1).setFld Fld.SLC_SLICE_STATE_FORMAT n 0
    let s := (s.sliceQueues n).foldl (fun s g => s.setQueue g { s.queue g with state := .DISABLED }) s
    ({ s with cbd := { s.cbd with slots := SMap.set slotWord (2 * n) 0 (SMap.set slotWord (2 * n + 1) 0 s.cbd.slots) } }).slcStatus Code.OK

/-- STOP (R318). -/
def State.stopCommand (s : State) (n : Nat) : State :=
  if n = 0 then s.slcStatus Code.MALFORMED
  else if s.sliceState n = 1 then (s.stopSlice n false 0xF0).slcStatus Code.OK else s.slcStatus 0xE0

/-- START (R318, R322). -/
def State.startCommand (s : State) (n : Nat) : State :=
  if n = 0 then s.slcStatus Code.MALFORMED
  else if s.sliceState n != 2 then s.slcStatus 0xE0
  else if s.stale n != 0 then s.slcStatus 0xE1
  else (s.setFld Fld.SLC_SLICE_STATE_STATE n 1).slcStatus Code.OK

/-- A key context names the slice as OWNER, or a VALID namespace names it (R318). -/
def State.sliceOwns (s : State) (n : Nat) : Bool :=
  !(s.ownedContexts n).isEmpty || s.ofl.spaces.any (fun x => nsValid x.2 && nsSlice x.2 == n)

/-- REMOVE (R318). -/
def State.removeSlice (s : State) (n : Nat) : State :=
  if n = 0 then s.slcStatus Code.MALFORMED
  else if s.sliceState n = 0 then s.slcStatus 0xE0
  else if s.sliceOwns n then s.slcStatus 0xE2
  else
    let s := s.haltChannels (s.channelsOf n) 0xF0
    let s := if s.sliceState n = 1 then s.leaveRunning n false else (s.sliceQueues n).foldl (fun s g => s.queueDrop g n) s
    (((s.advance n).setFld Fld.SLC_SLICE_STATE_FORMAT n 0).setFld Fld.SLC_SLICE_STATE_STATE n 0).slcStatus Code.OK

/-- A write of SLC_CMD. -/
def State.sliceCommand (s : State) (op n : Nat) : State :=
  match op with
  | 1 => s.createSlice n
  | 2 => s.stopCommand n
  | 3 => s.startCommand n
  | 4 => s.removeSlice n
  | _ => s.slcStatus Code.MALFORMED

/-- Automatic restart (R319). -/
def State.autoRestart (s : State) (n : Nat) : State :=
  let l := s.sliceLink n
  let f := s.func l 1
  if s.sliceState n = 2 && s.flagAt Fld.SLC_SLICE_STATE_AUTO_RESTART n && SMap.get pbaDefault s.slc.byHost n && f.bme && f.pasid && !f.d3 && !f.flr &&
      (s.hostLink l).up && s.stale n == 0 then
    s.setFld Fld.SLC_SLICE_STATE_STATE n 1
  else s

/-! ## Peer shares (R327) -/

/-- A share write that would overlap another share or leave the region is ignored. -/
def State.peerShare (s : State) (l : Nat) (value : Word) : State :=
  let base := fieldOf value 0 20
  let size := fieldOf value 32 20
  let clash := (List.range 64).any (fun m => m != l &&
    overlap base size (s.fld Fld.SLC_PEER_SHARE_BASE_MIB m) (s.fld Fld.SLC_PEER_SHARE_SIZE_MIB m))
  if clash || (size != 0 && s.slc.peerMib < base + size) then s.slcRefused
  else (s.setFld Fld.SLC_PEER_SHARE_BASE_MIB l base).setFld Fld.SLC_PEER_SHARE_SIZE_MIB l size

/-! ## The slice plan (R330, R331) -/

/-- Registers a plan entry gives: the binding word, and the grant words. -/
def planBind (e : List Byte) : Nat := leAt e 4 4 % 2 ^ 20 + leAt e 2 1 % 64 * 2 ^ 20 + leAt e 8 2 % 4096 * 2 ^ 32
def planGrantQ (e : List Byte) : Nat :=
  leAt e 10 2 + leAt e 12 1 % 128 * 2 ^ 16 + leAt e 14 2 % 2048 * 2 ^ 32 + leAt e 16 2 % 256 * 2 ^ 43 + leAt e 13 1 % 128 * 2 ^ 51
def planGrantR (e : List Byte) : Nat :=
  leAt e 20 4 % 2 ^ 21 + leAt e 18 1 % 64 * 2 ^ 21 + leAt e 24 4 % 2 ^ 19 * 2 ^ 32 + leAt e 19 1 * 2 ^ 56

/-- Entries of a plan body: its slices, then its namespaces with their indices. -/
def planSlices (body : List Byte) : List (List Byte) := (List.range (leAt body 0 2)).map (fun i => slice body (520 + 256 * i) 256)
def planSpaces (body : List Byte) : List (Nat × List Byte) :=
  (List.range (leAt body 4 4)).map (fun i =>
    let e := slice body (520 + 256 * leAt body 0 2 + 36 * i) 36
    (leAt e 0 4, e.drop 4))

/-- A queue's CLASS and KIND are written (R331): a reserved KIND keeps the queue's own (R5), and another one is refused unless the queue is
DISABLED. -/
def State.queueCfg (s : State) (g cls kind : Nat) : State :=
  let s := s.setFld Fld.SLC_QUEUE_CFG_CLASS g cls
  if kind = 3 || kind = s.fld Fld.SLC_QUEUE_CFG_KIND g then s
  else if (s.queue g).state == .DISABLED then s.setFld Fld.SLC_QUEUE_CFG_KIND g kind
  else s.slcRefused

/-- A queue's configuration from a plan. -/
def State.planQueue (s : State) (g v : Nat) : State := s.queueCfg g (v % 8) (v / 8 % 4)

/-- A plan entry keeps the ranges of R315, R323 and R330, and gives at most one queue KIND 2. -/
def planFits (e : List Byte) : Bool :=
  let n := leAt e 0 2
  1 ≤ n && n ≤ 4095 && leAt e 2 1 < 64 && leAt e 8 2 < 4096 && leAt e 12 1 ≤ 64 && leAt e 13 1 < 128 && leAt e 14 2 < 2048 && leAt e 16 2 ≤ 128 &&
  1 ≤ leAt e 18 1 && leAt e 18 1 ≤ 36 && leAt e 20 4 ≤ 1048576 && leAt e 24 4 ≤ 262144 && 1 ≤ leAt e 28 2 &&
  leAt e 32 4 ≤ 1600000 && leAt e 36 4 < 2 ^ 24 && leAt e 40 4 ≤ 1600000 && leAt e 44 4 < 2 ^ 24 &&
  decide (((List.range (leAt e 12 1)).filter (fun q => leAt e (48 + q) 1 / 8 % 4 == 2)).length ≤ 1)

/-- Shapers, weight, queue configurations, AUTO_RESTART and texts of an entry. The shapers take their tokens as a write gives them
(R194). -/
def State.planRest (s : State) (n : Nat) (e : List Byte) : State :=
  let s := s.setFld Fld.SLC_SLICE_STATE_AUTO_RESTART n (leAt e 3 1 % 2)
  let s := if leAt e 28 2 = 0 then s else s.setFld Fld.SLC_WEIGHT_WEIGHT n (leAt e 28 2)
  let bits_ : Word := BitVec.ofNat 64 (2 ^ 56 - 1)
  let s := s.shaperWrite .sliceDeliver n (BitVec.ofNat 64 (leAt e 32 4 % 2 ^ 21 + leAt e 36 4 % 2 ^ 24 * 2 ^ 32)) bits_
  let s := s.shaperWrite .sliceSend n (BitVec.ofNat 64 (leAt e 40 4 % 2 ^ 21 + leAt e 44 4 % 2 ^ 24 * 2 ^ 32)) bits_
  let s := (List.range (leAt e 12 1 % 128)).foldl (fun s q => s.planQueue (leAt e 10 2 + q) (leAt e (48 + q) 1)) s
  { s with slc := { s.slc with texts := SMap.set (fun _ => []) n (slice e 112 68) s.slc.texts } }

/-- A plan entry for a FREE slice (R330): bound by a CREATE; one that fails leaves the slice FREE. The status follows. -/
def State.planCreate (s : State) (e : List Byte) : Nat × State :=
  let n := leAt e 0 2
  let t := ((s.setReg .SLC_SLICE_BIND n (BitVec.ofNat 64 (planBind e))).setReg .SLC_GRANT_Q n (BitVec.ofNat 64 (planGrantQ e))).setReg
    .SLC_GRANT_R n (BitVec.ofNat 64 (planGrantR e))
  if !planFits e then (Code.MALFORMED, s)
  else match t.createFails n with
  | some c => (c, s)
  | none => (Code.OK, (t.planRest n e).createSlice n)

/-- A plan entry of an amendment (R331): a CREATE for a FREE slice, new grants for a bound one with the same binding. -/
def State.planAmend (s : State) (e : List Byte) : Nat × State :=
  let n := leAt e 0 2
  if !planFits e then (Code.MALFORMED, s)
  else if s.sliceState n = 0 then s.planCreate e
  else if (s.reg .SLC_SLICE_BIND n).toNat != planBind e then (0xE0, s)
  else
    let before := s.flagAt Fld.SLC_STATUS_CFG_REFUSED 0
    let s := s.setFld Fld.SLC_STATUS_CFG_REFUSED 0 0
    let s := (s.grantWrite n .queues (BitVec.ofNat 64 (planGrantQ e))).grantWrite n .resources (BitVec.ofNat 64 (planGrantR e))
    let s := s.planRest n e
    let bad := s.flagAt Fld.SLC_STATUS_CFG_REFUSED 0
    let s := s.setFld Fld.SLC_STATUS_CFG_REFUSED 0 (flag (before || bad))
    (if bad then Code.MALFORMED else Code.OK, s)

/-- A plan's namespace entry, as a namespace WRITE (R225). -/
def State.planSpace (s : State) (x : Nat × List Byte) : Nat × State :=
  if 65536 ≤ x.1 || s.spaceMalformed x.1 x.2 then (Code.MALFORMED, s) else (Code.OK, s.setSpace x.1 (spaceClean x.2))

/-- The section is applied at the end of LOADING (R330): each entry that fails raises a contained fault. -/
def State.applySlicePlan (s : State) (body : List Byte) : State :=
  let s := (List.range 64).foldl (fun s l =>
    (s.setFld Fld.SLC_PEER_SHARE_BASE_MIB l (leAt body (8 + 8 * l) 4)).setFld Fld.SLC_PEER_SHARE_SIZE_MIB l (leAt body (12 + 8 * l) 4)) s
  let step := fun (r : Nat × State) => if r.1 = Code.OK then r.2 else r.2.containedFault 11
  let s := (planSlices body).foldl (fun s e => step (s.planCreate e)) s
  (planSpaces body).foldl (fun s x => step (s.planSpace x)) s

/-! ## Hello (R328) -/

/-- Highest of formats 1 and 2 set in a mask. -/
def bestFormat (m : Nat) : Nat := if bit m 2 then 2 else if bit m 1 then 1 else 0

/-- The answer to a hello word: FORMAT and the reply word (R328). SYS_PROTOCOLS gives MGMT_MAX and DESC_FORMATS. -/
def State.helloAnswer (s : State) (n w : Nat) : Nat × Nat :=
  let v := min (bits w 8 8) (s.fld Fld.SYS_PROTOCOLS_MGMT_MAX 0)
  let f := bestFormat (bits w 16 8 &&& s.fld Fld.SLC_GRANT_R_FORMATS_ALLOWED n &&& s.fld Fld.SYS_PROTOCOLS_DESC_FORMATS 0)
  if !s.sliceRuns n || !s.queuesOff n then (s.sliceFormat n, 0x81 + v * 256 + 0xE0 * 2 ^ 24)
  else if f = 0 then (0, 0x81 + v * 256 + Code.UNSUPPORTED * 2 ^ 24)
  else (f, 0x81 + v * 256 + f * 65536)

end Sys2Proof.Machine
end

