-- ==== Sys2Proof/Machine/HostEvents.lean ====
section
/-! DEFINITION. What happens on a host link: completions, timeouts and the read engine (R302 to R306, R359, R367), resets
and withdrawals (R293, R294, R307, R308), and configuration space (R299, R300). -/

namespace Sys2Proof.Machine

/-! ## Reads that end (R303, R304, R321, R367) -/

/-- A want goes back to the read engine at once (R367). -/
def State.reissue (s : State) (w : Want) : State :=
  { s with hep := { s.hep with wants := w :: s.hep.wants } }.bump .BMV_RETRIES 0

/-- What the read was for is given up, for a failure or for a stale generation. -/
def State.readLost (s : State) (w : Want) : State :=
  match w.why with
  | .ring g first _ _ =>
    (match (s.queue g).state with
     | .RUNNING => (s.queueError g w.slc Code.HOST_ABORT first 3).bump .BMV_HOST_ABORT 0
     | _ => s)
  | .frame j _ => (s.bump .BMV_HOST_ABORT 0).txFail j
  | .prpList c => (s.bump .BMV_HOST_ABORT 0).stAbort c
  | .storage c _ => (s.bump .BMV_HOST_ABORT 0).stAbort c
  | .descTail c => s.chanHalt c Code.HOST_ABORT
  | .descHead c => s.chanHalt c Code.HOST_ABORT
  | .relink c => s.chanHalt c Code.HOST_ABORT
  | .block c _ => s.chanHalt c Code.HOST_ABORT
  | .flush c => s.chanHalt c Code.HOST_ABORT

/-- The channel a read works for, if any. -/
def ReadFor.chan (w : ReadFor) : Option Nat :=
  match w with
  | .descTail c => some c | .descHead c => some c | .relink c => some c | .block c _ => some c | .flush c => some c
  | _ => none

/-- A failed read is reissued while its limit allows, else what it was for fails (R304, R367). -/
def State.readFailed (s : State) (w : Want) : State :=
  match w.why.chan with
  | some c =>
    let v := s.chan c
    if v.retries < s.fld Fld.BMV_CH_CFG_RETRY_LIMIT c then (s.setChan c { v with retries := v.retries + 1 }).reissue w
    else s.readLost w
  | none =>
    if w.retries < s.fld Fld.BMV_PORT_CFG_RETRY_LIMIT (w.link / 4) then s.reissue { w with retries := w.retries + 1 } else s.readLost w

/-- A read of a stale unit is done: discarded and counted (R321); what it was for is given up. -/
def State.readStale (s : State) (w : Want) : State :=
  let s := s.bump .SLC_STALE_DISCARD w.slc
  match w.why with
  | .frame j _ => s.txFail j
  | .prpList c => s.stAbort c
  | .storage c _ => s.stAbort c
  | _ => s

/-- A read that is done hands its data on (R303). A ring fetch stays until ENTRY_FETCHED takes it. -/
def State.readDone (s : State) (r : HostRead) : State :=
  let w := r.want
  match w.why with
  | .ring _ _ _ _ => s
  | why =>
    let s := { s with hep := { s.hep with reads := s.hep.reads.erase r } }
    if !s.genCurrent w.slc w.gen then s.readStale w
    else match why with
      | .ring _ _ _ _ => s
      | .frame j part => s.txPart j part r.bytes
      | .prpList c => s.stList c r.bytes
      | .storage c part => s.stPart c part r.bytes
      | .descTail c => s.setChan c { s.chan c with fetch := (s.chan c).fetch.map (fun f => { f with tail := some r.bytes }) }
      | .descHead c => s.setChan c { s.chan c with fetch := (s.chan c).fetch.map (fun f => { f with head := some r.bytes }) }
      | .relink c => s.setChan c { s.chan c with fetch := (s.chan c).fetch.map (fun f => { f with tail := some r.bytes }) }
      | .block c off => s.blockRead c off r.bytes
      | .flush c => s.setChan c { s.chan c with flushed := true }

/-- AER codes of the model: 1 unexpected completion, 2 malformed, 3 completion timeout, 4 poisoned, 5 ECRC, 6 IDE check
failed, 7 unsupported request. -/
def aerTimeout : Nat := 3

/-- A stream ends by a failed check: its key sets leave use, and CHECK_FAILED is set (R309). -/
def State.streamFails (s : State) (l : Nat) (i : Nat) : State :=
  let mine := fun (x : IdeTarget) => x.port.val == l / 4 && x.link.val == l % 4 && x.stream.toNat == i
  let keys : List (IdeTarget × IdeKey) := s.vlt.ideKeys.map (fun x => if mine x.1 then (x.1, { x.2 with go := false }) else x)
  let s := { s with vlt := { s.vlt with ideKeys := keys } }
  let s := s.setFld Fld.HEP_IDE_STATUS_CHECK_FAILED l (s.fld Fld.HEP_IDE_STATUS_CHECK_FAILED l ||| 2 ^ i)
  (s.bump .HEP_IDE_DROP l).aer l 0 6

/-- The bytes of a piece put in their places among those of a request (R303). -/
def putPiece (bs : List (Option Byte)) (o : Nat) (xs : List Byte) : List (Option Byte) :=
  bs.take o ++ xs.map some ++ bs.drop (o + xs.length)

/-- A completion piece (R303, R304, R306). -/
def State.completionPiece (s : State) (l tag : Nat) (c : CplPiece) : State :=
  let h := l / 4
  match s.readOf h tag with
  | none => s.discardPiece l
  | some r =>
    match r.reqs.find? (fun q => q.tag == tag && !q.done) with
    | none => s
    | some q =>
      let off := q.len - c.byteCount.toNat
      if r.want.link != l || !c.idsAgree then s.discardPiece l
      else
        let s := match c.status with
          | .unsupported => s.bump .HEP_UR_RX l
          | .abort => s.bump .HEP_UR_RX l
          | .poisoned => (s.bump .HEP_POISONED_RX l).aer l 1 4
          | .ecrc => s.aer l 1 5
          | .success => s
        if c.status != .success then
          let s := s.setRead h tag (fun r => (r.mapTag tag (fun q => { q with done := true })))
          if r.failed then s.setRead h tag id
          else ((s.failReads (fun x => x == (r.mapTag tag (fun q => { q with done := true })))).readFailed r.want)
        else if q.len != 0 && (q.len < c.byteCount.toNat || q.len < off + c.data.length || c.data.isEmpty) then s.discardPiece l
        else
          let d := putPiece q.data off c.data
          let q' : ReadReq := { q with data := d, done := q.len == 0 || d.all (·.isSome) }
          let s := s.setRead h tag (fun r => r.mapTag tag (fun _ => q'))
          match s.hep.reads.find? (fun x => x.want == r.want && x.ended && !x.failed && x.reqs.any (fun y => y.tag == tag)) with
          | some x => s.readDone x
          | none => s

/-- A completion is received: one that fails the check of its stream ends the stream, and its read runs to its timeout (R309). -/
def State.completion (s : State) (l tag : Nat) (c : CplPiece) : State :=
  if c.ideOk then s.completionPiece l tag c
  else match c.stream with
    | some i => s.streamFails l i.val
    | none => s.completionPiece l tag c

/-- A completion timer expires (R305, R306). -/
def State.completionTimeout (s : State) (l tag : Nat) : State :=
  match s.readOf (l / 4) tag with
  | none => s
  | some r =>
    match r.reqs.find? (fun q => q.tag == tag && !q.done) with
    | none => s
    | some q =>
      if r.want.link != l || s.elapsed < q.limit then s
      else
        let s := (s.bump .HEP_CPL_TIMEOUT l).aer l 1 aerTimeout
        let failed := r.failed
        let s := s.failReads (fun x => x == r)
        let s := s.retireTag l tag
        if failed then s else s.readFailed r.want

/-- A quarantine ends (R306). -/
def State.quarantineEnd (s : State) (h tag : Nat) : State :=
  { s with hep := { s.hep with quarantine := s.hep.quarantine.filter (fun q => !(q.port == h && q.tag == tag && q.until_ ≤ s.elapsed)) } }

/-! ## The read engine (R358, R359) -/

/-- Which of its requesters a waiting read belongs to: 0 the queue engine, 1 the storage engine, 2 + c channel c. -/
def ReadFor.requester (w : ReadFor) : Nat :=
  match w with
  | .ring _ _ _ _ => 0 | .frame _ _ => 0 | .prpList _ => 1 | .storage _ _ => 1
  | .descTail c => 2 + c | .descHead c => 2 + c | .relink c => 2 + c | .block c _ => 2 + c | .flush c => 2 + c

/-- Blocks of the QUEUE share in use on a port. -/
def State.queueBlocks (s : State) (h : Nat) : Nat :=
  ((s.readsOfPort h).filter (fun r => !r.failed && r.want.why.requester < 2)).length +
  ((s.qrg.jobs.filter (fun j => j.link / 4 == h)).map (fun j => (j.parts.filter (·.isSome)).length)).sum +
  ((s.sto.cmds.filter (fun c => s.sliceLink c.slc / 4 == h && c.phase == .fetching)).map (fun c => (c.parts.filter (·.isSome)).length)).sum

/-- The first read that waits for a requester on a port. -/
def State.wantOf (s : State) (h q : Nat) : Option Want :=
  s.hep.wants.find? (fun w => w.link / 4 == h && w.why.requester == q && s.masterOn w.link &&
    (2 ≤ q || s.queueBlocks h < s.fld Fld.BMV_PORT_STAGE_QUEUE h))

/-- Requesters of a port that have a read to issue; channels with PRIO = 0 only when no channel with PRIO = 1 has one. -/
def State.requesters (s : State) (h : Nat) : List Nat :=
  let chans := (s.bmv.chans.map (·.1)).filter (fun c =>
    (s.wantOf h (2 + c)).isSome || (s.fld Fld.BMV_CH_CFG_HOST_PORT c == h && s.chanReady c))
  let hi := chans.filter (fun c => s.flagAt Fld.BMV_CH_CFG_PRIO c)
  ([0, 1].filter (fun q => (s.wantOf h q).isSome)) ++ ((if hi.isEmpty then chans else hi).map (2 + ·))

/-- The requester served next: round robin after the one served last. -/
def State.nextRequester (s : State) (h : Nat) : Option Nat :=
  let qs := s.requesters h
  let last := SMap.get (fun _ => 0) s.hep.last h
  (qs.find? (fun q => last ≤ q)).orElse (fun _ => qs.head?)

/-- A waiting read is issued. -/
def State.issueWant (s : State) (w : Want) (tags : List Nat) : Option State :=
  ({ s with hep := { s.hep with wants := s.hep.wants.erase w } }).issueRead w tags

/-- READ_ENGINE_TURN: the next requester's read goes out with the tags the port gives it. -/
def State.readTurn (s : State) (h : Nat) (tags : List Nat) : State :=
  match s.nextRequester h with
  | none => s
  | some q =>
    let served := fun (t : State) => { t with hep := { t.hep with last := SMap.set (fun _ => 0) h (q + 1) t.hep.last } }
    match s.wantOf h q with
    | some w => (match s.issueWant w tags with | some t => served t | none => s)
    | none =>
      match s.chanIssue (q - 2) with
      | .inr t => served t
      | .inl w =>
        let c := q - 2
        if !s.masterOn w.link then s
        else match s.issueRead w tags with
          | some t => served (t.setChan c { t.chan c with issued := (t.chan c).issued + w.len })
          | none => s

/-! ## Withdrawals and resets (R293, R294, R307, R308) -/

/-- Frames and storage commands of a link that can read no more are discarded (R231, R307, R356). -/
def State.dropTaken (s : State) (l : Nat) : State :=
  let jobs := s.qrg.jobs.filter (fun j => j.link == l)
  let s := jobs.foldl (fun s j => s.bumpBy .SLC_STALE_DISCARD j.slc j.entries.length) { s with qrg := { s.qrg with jobs := s.qrg.jobs.filter (fun j => j.link != l) } }
  (s.sto.cmds.filter (fun c => s.sliceLink c.slc == l && (c.phase == .lists || c.phase == .fetching))).foldl (fun s c => s.stFinish c (nvme 0 0x04 false) 0) s

/-- PF1 may master no more (R307): no new request, outstanding data discarded, channels halted, slices stopped. -/
def State.masterStop (s : State) (l : Nat) : State :=
  let s := s.withdrawHeld l
  let s := s.failReads (fun r => r.want.link == l)
  let s := s.haltChannels (fun c => s.chanLink c == l) Code.MASTER_DISABLED
  let s := (s.slicesOn l).foldl (fun s n => s.stopSlice n true Code.MASTER_DISABLED) s
  s.dropTaken l

/-- BAR sizes of EARLY_IDENTITY (R299, R308). -/
def State.freshSizes (s : State) (l : Nat) : State :=
  let e := s.portEntry (l / 4)
  s.setHostLink l { s.hostLink l with bar0Log2 := bits e 8 8, bar2Log2 := bits e 16 8 }

/-- A function returns to its reset state (R293, R308); a Function Level Reset keeps the AER words, as their sticky fields are. -/
def State.resetFunc (s : State) (l fn : Nat) (flr : Bool) : State :=
  let s := s.setFunc l fn { flr := flr, other := (s.func l fn).other.filter (fun x => flr && 0x40 ≤ x.1 && x.1 < 0x52) }
  if fn = 1 then s.freshSizes l else s

/-- A Function Level Reset (R308). -/
def State.functionReset (s : State) (l fn : Nat) : State :=
  let s := s.bump .HEP_FLR l
  if fn = 1 then ((s.retireLink l).masterStop l).resetFunc l 1 true else s.resetFunc l 0 true

/-- Hot reset, or the link leaves DL_Up (R294). -/
def State.hostLinkDown (s : State) (l : Nat) : State :=
  let s := ((s.functionReset l 0).functionReset l 1).dropHeld l
  s.setHostLink l { s.hostLink l with up := false, flit := false, speed := 0, width := 0 }

/-- Fundamental reset of a port (R293). -/
def State.perstAssert (s : State) (h : Nat) : State :=
  let s := { s with pins := { s.pins with perst := s.pins.perst ||| BitVec.ofNat 16 (2 ^ h) } }
  ([0, 1, 2, 3].map (4 * h + ·)).foldl (fun s l =>
    let s := ((s.retireLink l).masterStop l).dropHeld l
    let s := (s.resetFunc l 0 false).resetFunc l 1 false
    s.setHostLink l { s.hostLink l with up := false, flit := false, speed := 0, width := 0 }) s

def State.perstRelease (s : State) (h : Nat) : State :=
  if s.inPerst h then
    { s with pins := { s.pins with perst := s.pins.perst &&& ~~~ BitVec.ofNat 16 (2 ^ h) },
             hep := { s.hep with released := SMap.set (fun _ => 0) h s.elapsed s.hep.released } }
  else s

/-- A link may train (R290, R312): as the early identity gives it, and before step 5 of LOADING sub-link 0 of every port, which then answers
with Request Retry Status (R52), unless the links are held in Detect (R43). -/
def State.mayTrain (s : State) (l speed : Nat) : Bool :=
  if s.dev.earlyUp then s.linkInUse l && decide (speed ≤ s.fld Fld.HEP_LINK_CTRL_MAX_SPEED l)
  else s.dev.state == .LOADING && !s.dev.detect && l % 4 == 0

/-- Lanes of a link of a port (R289). -/
def State.linkLanes (s : State) (h : Nat) : Nat := 16 / 2 ^ s.fld Fld.HEP_PORT_CFG_WIDTH h

/-- A link trains, at its own width or a narrower one (R290). -/
def State.linkTrained (s : State) (l : Nat) (flit : Bool) (speed width : Nat) : State :=
  if s.mayTrain l speed && !s.inPerst (l / 4) && 1 ≤ speed && [1, 2, 4, 8, 16].contains width && width ≤ s.linkLanes (l / 4) then
    s.setHostLink l { s.hostLink l with up := true, flit := flit || 6 ≤ speed, speed := speed, width := width }
  else s

/-- A withdrawal of mastering by one of its three causes (R307). -/
def State.masterClear (s : State) (l : Nat) (c : MasterStop) : State :=
  let f := s.func l 1
  let f := match c with
    | .busMaster => { f with bme := false }
    | .pasid => { f with pasid := false }
    | .d3hot => { f with d3 := true }
  (s.masterStop l).setFunc l 1 f

/-! ## Windows (R295, R300) -/

/-- A Resizable BAR Control write of PF1 (R300): the size in force, and the base bits below it cleared. -/
def State.barResize (s : State) (l : Nat) (bar2 : Bool) (log2 : Nat) : State :=
  let v := s.hostLink l
  let ok := if bar2 then 30 ≤ log2 && log2 ≤ 37 else 20 ≤ log2 && log2 ≤ 28
  if !ok then s
  else
    let cut := fun (b : BitVec 64) => BitVec.ofNat 64 (b.toNat / 2 ^ log2 * 2 ^ log2)
    if bar2 then s.setHostLink l { v with bar2Log2 := log2, pf1 := { v.pf1 with bar2 := cut v.pf1.bar2 } }
    else s.setHostLink l { v with bar0Log2 := log2, pf1 := { v.pf1 with bar0 := cut v.pf1.bar0 } }

/-! ## Configuration space (R52, R299) -/

/-- Configuration requests are answered with Request Retry Status (R52, R308). -/
def State.rrs (s : State) (l fn : Nat) : Bool :=
  !s.dev.earlyUp || s.elapsed < SMap.get (fun _ => 0) s.hep.released (l / 4) + 100000000 || (s.func l fn).flr

/-- Bits of a BAR below its size read zero. -/
def barWord (base : BitVec 64) (type : Nat) (high : Bool) : BitVec 32 :=
  BitVec.ofNat 32 (if high then base.toNat / 2 ^ 32 else base.toNat % 2 ^ 32 + type)

/-- Size exponents of a function's BARs (R295). -/
def State.barLog2 (s : State) (l fn : Nat) (bar2 : Bool) : Nat :=
  if fn = 0 then (if bar2 then 0 else 26) else if bar2 then (s.hostLink l).bar2Log2 else (s.hostLink l).bar0Log2

/-- A word of a function as last written. -/
def Func.word (f : Func) (r : Nat) : Nat := (SMap.get (fun _ => 0) f.other r).toNat

/-- The header word of an extended capability (R299): the standard's identifier and version, and the next capability of the function. -/
def capHeader (id version next : Nat) : BitVec 32 := BitVec.ofNat 32 (id + 65536 * version + 2 ^ 20 * next)

/-- Sizes a Resizable BAR offers, from 2^lo to 2^hi bytes (R299). -/
def barSizes (lo hi : Nat) : BitVec 32 := BitVec.ofNat 32 ((2 ^ (hi + 1) - 2 ^ lo) / 2 ^ 16)

/-- The capability words of R299 that never change: links and device settings. Identifiers, versions and the places of the settings in
their words are the standard's (PRESUMED, assumption log entry 17). None for a word that is no such word. -/
def capWord (fn reg : Nat) : Option (BitVec 32) :=
  match reg, fn with
  | 0x10, _ => some 0x00035001
  | 0x1C, _ => some 0x00020010
  | 0x1D, _ => some 0x10008025
  | 0x25, _ => some 0x0003000F
  | 0x40, _ => some (capHeader 0x01 2 0x148)
  | 0x52, _ => some (capHeader 0x03 1 0x158)
  | 0x56, 0 => some (capHeader 0x15 1 0x180)
  | 0x56, _ => some (capHeader 0x15 1 0x170)
  | 0x57, 0 => some (barSizes 26 26)
  | 0x57, _ => some (barSizes 20 28)
  | 0x59, 1 => some (barSizes 30 37)
  | 0x5C, 1 => some (capHeader 0x1B 1 0)
  | 0x60, 0 => some (capHeader 0x25 1 0x190)
  | 0x64, 0 => some (capHeader 0x26 1 0x1C0)
  | 0x70, 0 => some (capHeader 0x2A 1 0x200)
  | 0x80, 0 => some (capHeader 0x19 1 0x230)
  | 0x8C, 0 => some (capHeader 0x31 1 0x260)
  | 0xC0, 0 => some (capHeader 0x2E 1 0x340)
  | 0xD0, 0 => some (capHeader 0x30 1 0)
  | _, _ => none

/-- Configuration word reg of a function, as read (R299); offsets of the capability fields are the standard's
(assumption log entry 17). -/
def State.cfgRead (s : State) (l fn reg : Nat) : BitVec 32 :=
  let f := s.func l fn
  let id := s.hep.identity
  match reg with
  | 0x00 => BitVec.ofNat 32 (leAt id 0 2 + leAt id (2 + 2 * fn) 2 * 65536)
  | 0x01 => BitVec.ofNat 32 (withFields (f.word 1 % 0x800) [(1, 1, flag f.mse), (2, 1, flag f.bme)] + 0x100000)
  | 0x02 => BitVec.ofNat 32 (leAt id 0x0A 1 + leAt id (0x0C + 4 * fn) 3 * 256)
  | 0x03 => BitVec.ofNat 32 (if fn = 0 then 0x800000 else 0)
  | 0x04 => barWord f.bar0 4 false
  | 0x05 => barWord f.bar0 4 true
  | 0x06 => if fn = 1 then barWord f.bar2 12 false else 0
  | 0x07 => if fn = 1 then barWord f.bar2 12 true else 0
  | 0x08 => 0
  | 0x09 => 0
  | 0x0B => BitVec.ofNat 32 (leAt id 6 2 + leAt id 8 2 * 65536)
  | 0x0C => 0
  | 0x0D => 0x40
  | 0x0F => 0
  | 0x11 => BitVec.ofNat 32 (8 + (if f.d3 then 3 else 0))
  | 0x14 => BitVec.ofNat 32 (0x7011 + (if fn = 0 then 63 else 2047) * 65536 + flag f.msixMask * 2 ^ 30 + flag f.msixEn * 2 ^ 31)
  | 0x15 => BitVec.ofNat 32 (if fn = 0 then 0x03808000 + (l % 4) * 0x1000 else 0)
  | 0x16 => BitVec.ofNat 32 (if fn = 0 then 0x03808800 + (l % 4) * 0x1000 else 0x8000)
  | 0x1E => BitVec.ofNat 32 (withFields (f.word 0x1E % 0x8000) [(4, 1, flag f.relaxed), (5, 3, f.mps.toNat), (12, 3, f.mrrs.toNat)])
  | 0x26 => BitVec.ofNat 32 (withFields (f.word 0x26 % 0x10000) [(0, 4, f.timeout.toNat), (4, 1, 0), (12, 1, flag f.tag10)])
  | 0x53 => BitVec.ofNat 32 (Config.serial.toNat % 2 ^ 32)
  | 0x54 => BitVec.ofNat 32 (Config.serial.toNat / 2 ^ 32)
  | 0x58 => BitVec.ofNat 32 ((if fn = 0 then 0x20 else 0x40) + 256 * (s.barLog2 l fn false - 20))
  | 0x5A => if fn = 1 then BitVec.ofNat 32 (2 + 256 * (s.barLog2 l fn true - 20)) else 0
  | 0x5D => if fn = 1 then BitVec.ofNat 32 (20 * 256 + flag f.pasid * 65536) else 0
  | 0x98 => if fn = 0 then capHeader ((Config.cfgWord fn 0x98 0).toNat % 65536) 1 0x300 else Config.cfgWord fn 0x98 (SMap.get (fun _ => 0) f.other 0x98)
  | r => (capWord fn r).getD (Config.cfgWord fn r (SMap.get (fun _ => 0) f.other r))

/-- A base address write: bits below the size stay zero. -/
def withBase (base : BitVec 64) (log2 : Nat) (high : Bool) (v : BitVec 32) : BitVec 64 :=
  let n := if high then base.toNat % 2 ^ 32 + v.toNat * 2 ^ 32 else base.toNat / 2 ^ 32 * 2 ^ 32 + v.toNat
  BitVec.ofNat 64 (n / 2 ^ log2 * 2 ^ log2)

/-- A word of a function kept as written. -/
def Func.keep (f : Func) (r : Nat) (v : BitVec 32) : Func := { f with other := SMap.set (fun _ => 0) r v f.other }

/-- A configuration write of a whole word acts (R299 to R301, R307, R308). -/
def State.cfgWrite (s : State) (l fn reg : Nat) (v : BitVec 32) : State :=
  let f := s.func l fn
  let n := v.toNat
  match reg with
  | 0x01 =>
    let s := s.setFunc l fn { f.keep reg v with mse := bit n 1, bme := bit n 2 }
    if fn = 1 ∧ f.bme ∧ !bit n 2 then s.masterStop l else s.flushMsix l fn
  | 0x04 => s.setFunc l fn { f with bar0 := withBase f.bar0 (s.barLog2 l fn false) false v }
  | 0x05 => s.setFunc l fn { f with bar0 := withBase f.bar0 (s.barLog2 l fn false) true v }
  | 0x06 => if fn = 1 then s.setFunc l fn { f with bar2 := withBase f.bar2 (s.barLog2 l fn true) false v } else s
  | 0x07 => if fn = 1 then s.setFunc l fn { f with bar2 := withBase f.bar2 (s.barLog2 l fn true) true v } else s
  | 0x11 =>
    let d3 := if bits n 0 2 = 3 then true else if bits n 0 2 = 0 then false else f.d3
    let s := s.setFunc l fn { f with d3 := d3 }
    if fn = 1 ∧ d3 ∧ !f.d3 then s.masterStop l else s.flushMsix l fn
  | 0x14 => (s.setFunc l fn { f with msixMask := bit n 30, msixEn := bit n 31 }).flushMsix l fn
  | 0x1E =>
    if bit n 15 then s.functionReset l fn
    else s.setFunc l fn { f.keep reg v with relaxed := bit n 4, mps := BitVec.ofNat 3 (bits n 5 3), mrrs := BitVec.ofNat 3 (bits n 12 3) }
  | 0x26 => s.setFunc l fn { f.keep reg v with timeout := BitVec.ofNat 4 n, tag10 := bit n 12 }
  | 0x58 => if fn = 1 then s.barResize l false (bits n 8 6 + 20) else s
  | 0x5A => if fn = 1 then s.barResize l true (bits n 8 6 + 20) else s
  | 0x5D =>
    if fn = 1 then
      let s := s.setFunc l fn { f with pasid := bit n 16 }
      if f.pasid ∧ !bit n 16 then s.masterStop l else s
    else s
  | r => if r ∈ [0x00, 0x02, 0x03, 0x08, 0x09, 0x0B, 0x0C, 0x0D, 0x0F, 0x15, 0x16, 0x53, 0x54] || (capWord fn r).isSome then s
         else s.setFunc l fn (f.keep r v)

/-- The bytes of a word that a write's byte enables replace. -/
def mergeBytes (old new : BitVec 32) (be : BitVec 4) : BitVec 32 :=
  BitVec.ofNat 32 (leNat ((List.range 4).map (fun i => if be.getLsbD i then BitVec.ofNat 8 (new.toNat / 256 ^ i) else BitVec.ofNat 8 (old.toNat / 256 ^ i))))

/-- CONFIG_REQUEST (R52, R299): answered once the port is ready, always outside IDE (R310). -/
def State.configRequest (s : State) (l fn reg : Nat) (w : Option (BitVec 32 × BitVec 4)) : State :=
  if !(s.hostLink l).up then s
  else if s.rrs l fn then (s.bump .HEP_RRS_SENT l).emit (.host l (.config fn reg 2 0))
  else match w with
    | none => s.emit (.host l (.config fn reg 0 (s.cfgRead l fn reg)))
    | some (v, be) => (s.cfgWrite l fn reg (mergeBytes (s.cfgRead l fn reg) v be)).emit (.host l (.config fn reg 0 0))

end Sys2Proof.Machine
end

