-- ==== Sys2Proof/Machine/Troupe.lean ====
section
/-! DEFINITION. Troupe cores (R374 to R400) but for the instruction set itself: thread supervision, core resets, the all-wait
detector, channel operations and deliveries. -/

namespace Sys2Proof.Machine

/-! ## Supervision (R378, R379, R391, R392) -/

/-- The stage ISA's threads live in clusters that are loaded, powered and not held in reset (R392, R397, R466). -/
def State.coreRuns (s : State) (k : Nat) : Bool := s.clusterLoaded (k / 16) && !s.coreCurtained k && !(s.core k).resetting

/-- START (R378): a thread the debugger holds starts when it resumes (R390). -/
def State.threadStart (s : State) (t : Nat) (pc : Nat) : State :=
  let v := s.thread t
  let halted := v.state == .HALTED
  let s := s.setThread t { v with state := if halted then .HALTED else .RUNNING, held := if halted then .RUNNING else v.held,
                                  pc := BitVec.ofNat 64 pc, x := [], evpend := 0, evie := 0, chres := 0, ticket := 0,
                                  staging := [], resv := none, wait := none }
  (s.setReg .TRP_THREAD_FAULT t 0).setReg .TRP_THREAD_TVAL t 0

/-- STOP (R379): a thread held by the debugger is stopped when it resumes. -/
def State.threadStop (s : State) (t : Nat) : State :=
  let v := s.thread t
  if v.state = .HALTED then s.setThread t { v with held := .STOPPED } else s.setThread t { v with state := .STOPPED, wait := none }

/-- A core reset begins (R392): its threads stop, its committed operations lose their results, the pair that holds its image wakes, and it
is counted and reported. -/
def State.coreReset (s : State) (k cause : Nat) : State :=
  let ts := (List.range 16).map (16 * k + ·)
  let s := ts.foldl (fun s t => s.setThread t { s.thread t with state := .STOPPED, held := .STOPPED, wait := none, resv := none }) s
  let s := { s with trp := { s.trp with ops := s.trp.ops.map (fun (o : ChanOp) => if o.thread / 16 = k then { o with stale := true } else o) } }
  let s := (s.setCore k { s.core k with resetting := true, stall := false, idle := 0, stalled := 0 }).touchPairs 1
  let s := (s.setFld Fld.TRP_CORE_STATUS_LAST_RESET k cause).setFld Fld.TRP_CORE_STATUS_RESETS k
    (min 65535 (s.fld Fld.TRP_CORE_STATUS_RESETS k + 1))
  ((s.bump .TRP_CORE_RESETS (k / 16)).emit (.coreEvent k cause)).cpcEvent 4

/-- The data memory of a core reloaded from its image (R392). -/
def State.reloadDmem (s : State) (k : Nat) : State :=
  { s with mem := { s.mem with dmem := s.mem.dmem.filter (fun x => x.1 / 262144 != k) } }

/-- The reset completes and thread 0 starts (R378, R392), unless a curtain holds the core or the reserved HBM still wakes (R21). -/
def State.coreResetDone (s : State) (k : Nat) : State :=
  if (s.core k).resetting && !s.coreCurtained k && s.pairsAwake 1 then
    ((s.reloadDmem k).setCore k { since := s.clk.core }).threadStart (16 * k) 0x80000000
  else s

/-- A synchronous exception (R391): recorded and raised to thread 0, or, in thread 0, a core reset. A thread the debugger
holds resumes into FAULTED (R390). -/
def State.threadFault (s : State) (t cause : Nat) (tval : Word) : State :=
  let v := s.thread t
  let s := s.setReg .TRP_THREAD_FAULT t (BitVec.ofNat 64 (cause % 64 + 256 + v.pc.toNat % 2 ^ 32 * 2 ^ 32))
  let s := s.setReg .TRP_THREAD_TVAL t tval
  if t % 16 = 0 then s.coreReset (t / 16) 1
  else
    let s := s.setThread t { v with state := .FAULTED, wait := none }
    (s.setEvent (t - t % 16) 1).bump .TRP_THREAD_FAULTS (t / 256)

/-- Who may write TRP_THREAD_CTRL of thread t (R378): any CPC core, and thread 0 of its core for the others. -/
def mayControl (r : Requester) (t : Nat) : Bool :=
  match r with
  | .cpc _ _ => true
  | .troupe n k h => n.val == t / 256 && k.val == t / 16 % 16 && h.val == 0 && t % 16 != 0
  | _ => false

/-- A write of TRP_THREAD_CTRL (R378). -/
def State.threadControl (s : State) (r : Requester) (t op pc : Nat) : State :=
  if !mayControl r t || !s.coreRuns (t / 16) then s
  else if op = 1 then (if 0x80000000 ≤ pc && pc < 0x80020000 && pc % 2 == 0 then s.threadStart t pc else s)
  else if op = 2 then s.threadStop t
  else s

/-- A write of TRP_THREAD_EVSET (R380): by a CPC core or a thread of the cluster. -/
def State.eventSet (s : State) (r : Requester) (t events : Nat) : State :=
  let ok := match r with
    | .cpc _ _ => true
    | .troupe n _ _ => n.val == t / 256
    | _ => false
  if ok then ((List.range 16).filter (bit events)).foldl (fun s i => s.setEvent t (16 + i)) s else s

/-! ## The all-wait detector (R393) -/

/-- The core has an active thread and every active thread waits. -/
def State.allWait (s : State) (k : Nat) : Bool :=
  let ts := (List.range 16).map (fun i => (s.thread (16 * k + i)).state)
  ts.any (· == .WAITING) && !ts.any (· == .RUNNING)

/-- A ghost-light cycle passes for a core: 80 cycles of its clock. A counts while the core waits, B while it runs and thread 0 is not
HALTED. -/
def State.coreTick (s : State) (k : Nat) : State :=
  let c := s.core k
  s.setCore k { c with idle := if s.allWait k then c.idle + 80 else 0,
                       stalled := if c.stall && (s.thread (16 * k)).state != .HALTED then c.stalled + 80 else c.stalled }

/-- The cores of the running clusters that do not sleep (R454). -/
def State.coresTick (s : State) : State :=
  ((List.range 8).filter (fun n => s.clusterLoaded n && !s.domainSleeps (30 + n))).foldl
    (fun s n => (List.range 16).foldl (fun s c => s.coreTick (16 * n + c)) s) s

/-- The wait counter reaches 65,536: STALL to thread 0, and the stall timer starts, where it does not run. -/
def State.stallRaised (s : State) (k : Nat) : State :=
  if s.allWait k && s.coreRuns k && decide (65536 ≤ (s.core k).idle) then
    ((s.setCore k { s.core k with stall := true, idle := 0 }).setEvent (16 * k) 0).bump .TRP_STALLS (k / 16)
  else s

/-- The stall timer reaches 2^24. -/
def State.stallReset (s : State) (k : Nat) : State :=
  if (s.core k).stall && decide (2 ^ 24 ≤ (s.core k).stalled) && s.coreRuns k then s.coreReset k 2 else s

/-- The stall timer is cleared: STALLACK, or an instruction of another thread. -/
def State.stallClear (s : State) (k : Nat) : State := s.setCore k { s.core k with stall := false, stalled := 0 }

/-- Thread t has issued: its core does not wait, and a thread other than thread 0 clears the stall timer. -/
def State.issued (s : State) (t : Nat) : State :=
  let s := s.setCore (t / 16) { s.core (t / 16) with idle := 0 }
  if t % 16 = 0 then s else s.stallClear (t / 16)

/-! ## Debugger (R390) -/

/-- A halt request: a wait in progress is abandoned. The module answers only after DEBUG_UNLOCK. -/
def State.debugHalt (s : State) (t : Nat) : State :=
  let v := s.thread t
  if !s.vlt.debug || v.state = .HALTED then s
  else s.setThread t { v with state := .HALTED, held := if v.state = .WAITING then .RUNNING else v.state, wait := none }

def State.debugResume (s : State) (t : Nat) : State :=
  let v := s.thread t
  if s.vlt.debug && v.state = .HALTED then s.setThread t { v with state := v.held, held := .STOPPED } else s

/-! ## Memory of a thread (R376) -/

/-- A place a channel may address: data memory, shared memory, or the HBM window. -/
inductive Place where
  | dmem (core off : Nat)
  | shared (cluster off : Nat)
  | window (cluster off : Nat)
  deriving DecidableEq, Repr

/-- The place of n bytes at an address of thread t. -/
def State.placeOf (s : State) (t a n : Nat) : Option Place :=
  if 0x80100000 ≤ a && a + n ≤ 0x80140000 then some (.dmem (t / 16) (a - 0x80100000))
  else if 0x81000000 ≤ a && a + n ≤ 0x82000000 then some (.shared (t / 256) (a - 0x81000000))
  else if 0x1000000000 ≤ a && a + n ≤ 0x1000000000 + s.windowBytes (t / 256) then some (.window (t / 256) (a - 0x1000000000))
  else none

def State.readPlace (s : State) (p : Place) (n : Nat) : List Byte :=
  match p with
  | .dmem k o => s.readDmem k o n
  | .shared c o => s.readShared c o n
  | .window c o => s.readWindow c o n

def State.writePlace (s : State) (p : Place) (bs : List Byte) : State :=
  match p with
  | .dmem k o => s.writeDmem k o bs
  | .shared c o => s.writeShared c o bs
  | .window c o => s.writeWindow c o bs

/-- Placement code of the HBM that holds a place: 0 where it is on-die (R396). -/
def State.placePairs (s : State) (p : Place) : Nat :=
  match p with
  | .window c _ => SMap.get (fun _ => 0) s.tbl.placement.troupe c
  | _ => 0

/-! ## Channel operations (R385 to R389) -/

/-- The operation in flight on a channel, one whose results a core reset discards among them: it completes in its engine (R392). -/
def State.opOf (s : State) (t c : Nat) : Option ChanOp := s.trp.ops.find? (fun o => o.thread == t && o.channel == c)

/-- The staging buffer of a channel (R385). -/
def Thread.buffer (v : Thread) (c : Nat) : List Byte := (List.range 8).flatMap (fun w => toLE 8 (SMap.get xDefault v.staging (8 * c + w)).toNat)

/-- Puts a result to an operation in flight. -/
def State.opResult (s : State) (t c : Nat) (result : List Byte) : State :=
  { s with trp := { s.trp with ops := s.trp.ops.map (fun (o : ChanOp) => if o.thread = t ∧ o.channel = c then { o with result := some (slice result 0 32) } else o) } }

def requesterOf (t : Nat) : Requester := .troupe (Fin.ofNat 8 (t / 256)) (Fin.ofNat 16 (t / 16)) (Fin.ofNat 16 t)

/-- Cipher submit (R386): the request and its input, or MALFORMED with no cipher work done. -/
def State.cipherOp (s : State) (t : Nat) (b : List Byte) : State :=
  let q : CipherReq := { requester := .thread (Fin.ofNat 8 (t / 256)) (Fin.ofNat 16 (t / 16)) (Fin.ofNat 16 t), raw := b, input := [] }
  let tag := if q.op = 2 then 16 else 0
  let out := if q.op = 1 then 16 else 0
  match s.placeOf t (leAt b 32 8) (q.aadLen + q.payloadLen + tag), s.placeOf t q.dst (q.payloadLen + out) with
  | some p, some _ => (s.touchPairs (s.placePairs p)).submitCipher { q with input := s.readPlace p (q.aadLen + q.payloadLen + tag) }
  | _, _ => s.opResult t 0 (toLE 1 Code.MALFORMED ++ List.replicate 15 0 ++ slice b 48 8)

/-- Cipher results of threads are written to their destinations (R386), as is output of a request that goes on (R244). -/
def State.settleThreads (s : State) : State :=
  let mine := s.cph.results.filter (fun r => match r.requester with | .thread _ _ _ => true | _ => false)
  mine.foldl (fun s r =>
    let s := { s with cph := { s.cph with results := s.cph.results.filter (fun x => x != r) } }
    match r.requester with
    | .thread n k h =>
      let t := 256 * n.val + 16 * k.val + h.val
      let s := if r.output.isEmpty then s else match s.placeOf t r.dst r.output.length with
        | some p => (s.touchPairs (s.placePairs p)).writePlace p r.output
        | none => s
      if r.result.isEmpty then s else s.opResult t 0 r.result
    | _ => s) s

/-- The results of every requester of the cipher cluster are carried out. -/
def State.settleAll (s : State) : State := s.settle.settleThreads

/-- The table command a staging buffer holds (R387). -/
def State.tableOpOf (s : State) (t : Nat) (b : List Byte) : TableOperands :=
  let a := leAt b 24 8
  let key := match s.placeOf t a 64 with
    | some (.dmem k o) => s.readDmem k o 64
    | _ => List.replicate 64 0
  { key := if leAt b 0 1 % 16 = 5 then slice b 32 32 else key, action := BitVec.ofNat 24 (leAt b 4 4), pinned := bit (leAt b 2 1) 1,
    ageLimit := BitVec.ofNat 15 (leAt b 8 2), index := BitVec.ofNat 28 (leAt b 16 4) }

/-- A staged table command is malformed in its own layout (R387). -/
def State.tableOpBad (s : State) (t : Nat) (b : List Byte) : Bool :=
  let op := leAt b 0 1
  16 ≤ op || 128 ≤ leAt b 1 1 || 4 ≤ leAt b 2 1 || leAt b 3 1 != 0 || 2 ^ 24 ≤ leAt b 4 4 || 32768 ≤ leAt b 8 2 || !allZero (slice b 10 6) ||
  2 ^ 28 ≤ leAt b 16 4 || !allZero (slice b 20 4) || leAt b 24 8 % 8 != 0 ||
  (op != 5 && op != 7 && (match s.placeOf t (leAt b 24 8) 64 with | some (.dmem _ _) => false | _ => true))

/-- The 32-byte result of a table command (R387). -/
def tableResult (r : TableResult) : List Byte :=
  let e := r.entry
  let f : (Entry → Nat) → Nat := fun g => (e.map g).getD 0
  toLE 1 r.status.toNat ++
  toLE 1 (flag r.hit + 2 * flag r.replaced + 4 * flag r.evicted + 8 * flag e.isSome + 16 * f (fun x => flag x.diedValid) +
          32 * f (fun x => flag x.settled) + 64 * f (fun x => flag x.pinned)) ++
  toLE 1 r.relocations ++ [0] ++ toLE 4 r.index ++ toLE 4 (f (fun x => x.action.toNat)) ++ toLE 2 (f (fun x => x.ageLimit.toNat)) ++
  toLE 2 (f (fun x => x.born.toNat)) ++ toLE 2 (f (fun x => x.died.toNat)) ++ toLE 2 (f (fun x => x.stamp.toNat)) ++ List.replicate 12 0

/-- A thread's table command of an operation is performed (R387, R398); its result is published by TABLE_COMMAND_DONE. -/
def State.threadTable (s : State) (t op : Nat) : State :=
  match s.opOf t 1 with
  | none => s
  | some o =>
    if o.result.isSome || s.tbl.finished.any (fun x => x.1 == some t) || leAt o.staged 0 1 != op then s
    else if s.tableOpBad t o.staged then s.opResult t 1 (toLE 1 Code.MALFORMED)
    else if !s.gateAccepts (requesterOf t) then
      (s.gateRefused (requesterOf t) 0 (addrOf .TBL_CMD 0)).opResult t 1 (toLE 1 0x89)
    else
      let r := s.tableCommand op (leAt o.staged 1 1) (bit (leAt o.staged 2 1) 0) (s.tableOpOf t o.staged)
      { r.2 with tbl := { r.2.tbl with finished := r.2.tbl.finished ++ [(some t, r.1)] } }

/-- The result of a thread's table command goes to its operation and its key buffer (R387). -/
def State.threadTableDone (s : State) (t : Nat) (r : TableResult) : State :=
  match s.opOf t 1 with
  | none => s
  | some o =>
    let op := leAt o.staged 0 1
    let key : Option (List Byte) :=
      if op = 4 then r.record else if op = 3 then r.entry.map (fun e => slice e.key 0 64) else none
    let s := match key, s.placeOf t (leAt o.staged 24 8) 64 with
      | some b, some (.dmem k off) => if o.stale then s else s.writeDmem k off b
      | _, _ => s
    s.opResult t 1 (tableResult r)

/-- A bulk-mover operation (R388): its status, and its effect. -/
def State.moverOp (s : State) (t : Nat) (b : List Byte) : Nat × State :=
  let op := leAt b 0 1
  let c := leAt b 2 2
  let n := t / 256
  if leAt b 1 1 != 0 || !allZero (slice b 5 3) || !allZero (slice b 16 48) || op = 0 || 4 < op || 4096 ≤ c || c / 2048 != n / 4 ||
      15 < leAt b 4 1 then (Code.MALFORMED, s)
  else match op with
    | 1 =>
      let v := s.chan c
      if v.state != .DISABLED && v.state != .HALTED then (0x8B, s)
      else
        let s := (s.setFld Fld.BMV_CH_NEXT_ADDR c (leAt b 8 8 / 32)).chanEnable c
        (if (s.chan c).state = .RUNNING then Code.OK else (s.chan c).lastStatus.toNat, s)
    | 2 => (Code.OK, s.chanAppend c)
    | 3 => (Code.OK, s.chanAbort c)
    | _ => (Code.OK, s.raiseLine (64 + 16 * n + leAt b 4 1 % 16))

/-- MOVER_START: the staged START of channel 2 acts. -/
def State.moverStart (s : State) (t : Nat) : State :=
  match s.opOf t 2 with
  | some o =>
    if o.result.isSome || leAt o.staged 0 1 != 1 then s
    else let r := s.moverOp t o.staged; r.2.opResult t 2 (toLE 1 r.1)
  | none => s

/-- Frame emit (R389): the header checked, and the frame enters the switch core at the Troupe path of the thread's die. -/
def State.emitOp (s : State) (t : Nat) (o : ChanOp) : State :=
  let b := o.staged
  let bad := 16 ≤ leAt b 0 1 || 64 ≤ leAt b 1 1 || 16 ≤ leAt b 2 1 || 4 ≤ leAt b 3 1 || !allZero (b.drop 6) ||
    o.frame.length < 14 || 10236 < o.frame.length
  if bad then s.opResult t 3 (toLE 1 Code.MALFORMED)
  else
    let e : EmitFlags := { useTable := bit (leAt b 0 1) 3, table := BitVec.ofNat 6 (leAt b 1 1), csum := BitVec.ofNat 8 (leAt b 2 1),
                           ts := BitVec.ofNat 8 (leAt b 3 1), tag := BitVec.ofNat 16 (leAt b 4 2) }
    let p := 334 + t / 1024
    (s.newFrame { id := 0, inPort := p, passPort := p, octets := withFcs o.frame false, ended := true, rxClass := leAt b 0 1 % 8,
                  time := s.now, emit := some e }).opResult t 3 (toLE 1 Code.OK)

/-- A commit (R385): the operation in flight, or CH_BUSY. A bad frame range is found when the operation runs. -/
def State.commit (s : State) (t c : Nat) (frame : List Byte) : Nat × State :=
  if (s.opOf t c).isSome then (0x88, s)
  else
    let b := (s.thread t).buffer c
    let s := { s with trp := { s.trp with ops := s.trp.ops ++ [{ thread := t, channel := c, staged := b, frame := frame }] } }
    (Code.OK, if c = 0 then s.cipherOp t b else s)

/-- An operation whose engine needs no command of its own runs. -/
def State.runOp (s : State) (t c : Nat) : State :=
  match s.opOf t c with
  | none => s
  | some o =>
    if o.result.isSome then s
    else if c = 3 then s.emitOp t o
    else if c = 2 then let r := s.moverOp t o.staged; r.2.opResult t 2 (toLE 1 r.1)
    else s

/-- CHANNEL_OPERATION_DONE (R385): the result written at CHRES + 32c, then the event; a core reset has discarded both. -/
def State.opDone (s : State) (t c : Nat) : State :=
  let s := s.runOp t c
  match s.opOf t c with
  | none => s
  | some o =>
    match o.result with
    | none => s
    | some r =>
      let s := { s with trp := { s.trp with ops := s.trp.ops.erase o } }
      if o.stale then s
      else
        let v := s.thread t
        let a := v.chres.toNat + 32 * c
        let s := match s.placeOf t a 32 with
          | some (.dmem k off) => s.writeDmem k off r
          | _ => s
        let s := s.setThread t { v with status := SMap.set (fun _ => 0) c (BitVec.ofNat 8 (leAt r 0 1)) v.status,
                                        ended := SMap.set (fun _ => 0) c (SMap.get (fun _ => 0) v.ended c + 1) v.ended }
        s.setEvent t (2 + c)

/-- The status word of CHSTAT (R385). -/
def State.chstat (s : State) (t c : Nat) : Nat :=
  let v := s.thread t
  flag (s.opOf t c).isSome + (SMap.get (fun _ => (0 : BitVec 8)) v.status c).toNat * 256 +
  (SMap.get (fun _ => (0 : BitVec 32)) v.ended c).toNat * 2 ^ 32

/-! ## Deliveries (R394, R395) -/

def qDefault : Nat → Nat := fun _ => 0
def State.dqProd (s : State) (i : Nat) : Nat := SMap.get qDefault s.trp.dqProd i
def State.dqCons (s : State) (i : Nat) : Nat := SMap.get qDefault s.trp.dqCons i
def State.setDq (s : State) (i p c : Nat) : State :=
  { s with trp := { s.trp with dqProd := SMap.set qDefault i p s.trp.dqProd, dqCons := SMap.set qDefault i c s.trp.dqCons } }

/-- Slots of a delivery queue; element 2n + q is queue q of cluster n. -/
def State.dqSlots (s : State) (i : Nat) : Nat := 2 ^ s.fld Fld.TRP_DQ_CFG_LOG2_SLOTS i

/-- The 32-byte header of a SLOW unit (R395), which the CPC receive ring shows too (R430). -/
def slowHeader (x : Frame) (n : Nat) : List Byte :=
  toLE 16 x.ticket.word ++ toLE 6 (secondsOf x.time) ++ toLE 4 (nanosOf x.time) ++ toLE 2 n ++ toLE 1 (x.csumResult.toNat) ++ [0, 0, 0]

/-- The 48-byte header of a spotlight sample (R183). -/
def sampleHeader (x : Frame) (port depth len : Nat) : List Byte :=
  toLE 16 { x.ticket with spot := true }.word ++ toLE 6 (secondsOf x.time) ++ toLE 4 (nanosOf x.time) ++ toLE 2 (port % 512) ++
  toLE 4 depth ++ toLE 4 len ++ List.replicate 12 0

/-- A unit is written into a delivery ring and the threads are told, or it is dropped (R395); it wakes the cluster (R456). -/
def State.publish (s : State) (n q : Nat) (unit : List Byte) : State :=
  let i := 2 * n + q
  let slots := s.dqSlots i
  let s := s.touchDomain (30 + n)
  let size := 2 ^ s.fld Fld.TRP_DQ_CFG_LOG2_SLOT i
  if size < unit.length then s.bump .TRP_DQ_TOO_BIG n
  else if !s.flagAt Fld.TRP_DQ_CFG_ENABLE i || ringHeld (s.dqProd i) (s.dqCons i) slots == slots then s.bump .TRP_DQ_FULL n
  else
    let s := s.writeShared n (s.fld Fld.TRP_DQ_CFG_BASE i + size * (s.dqProd i % slots)) unit
    let s := s.setDq i ((s.dqProd i + 1) % (2 * slots)) (s.dqCons i)
    let mask := s.fld Fld.TRP_DQ_CFG_THREAD_MASK i
    let base := 256 * n + 16 * s.fld Fld.TRP_DQ_CFG_CORE i
    let s := ((List.range 16).filter (bit mask)).foldl (fun s h => s.setEvent (base + h) (6 + q)) s
    s.bump (if q = 0 then .TRP_SLOW_DELIVERED else .TRP_SPOT_DELIVERED) n

/-- The cluster a slow-path frame goes to (R394). -/
def State.slowCluster (s : State) (d : Nat) (x : Frame) : Option Nat :=
  let on := (List.range 4).filter (fun i => bit (s.fld Fld.TRP_DIE_SLOW_CLUSTERS d) i)
  if on.isEmpty then none
  else (on[x.ticket.flowHash.toNat / 65536 % on.length]?).bind (fun i => if s.clusterLoaded (4 * d + i) then some (4 * d + i) else none)

/-- The copy is a unit for the lead CPC (R430). -/
def forLeadCpc (k : Copy) (x : Frame) : Bool :=
  match k.kind with
  | .sample _ dest _ _ => dest == 0
  | .mirror => false
  | .normal => (x.decision.map (·.forward)) == some 7

/-- DELIVERY_PUBLISH: the first unit for a cluster that has arrived on a die's Troupe path, its tail final. -/
def State.deliverTroupe (s : State) (d : Nat) : State :=
  let mine := s.swc.arrived.filter (fun k => k.port == 334 + d && (match s.frame? k.frame with | some x => x.ended && !forLeadCpc k x | none => false))
  match mine.head? with
  | none => s
  | some k =>
    match (s.frame? k.frame).map (s.shown k) with
    | none => s
    | some x =>
      match k.kind with
      | .sample snap dest depth port =>
        let n := dest - 1
        let s := if s.clusterLoaded n then s.publish n 1 (sampleHeader x port depth x.octets.length ++ x.octets.take (128 * snap)) else s.bump .TRP_SLOW_NO_CLUSTER 0
        s.takeArrived k
      | _ =>
        let body := x.octets.take (x.octets.length - 4)
        let s := match s.slowCluster d x with
          | none => s.bump .TRP_SLOW_NO_CLUSTER 0
          | some n => if x.bad then s.bump .TRP_DQ_TAIL_DROP n else s.publish n 0 (slowHeader x body.length ++ body)
        s.takeArrived k

def State.dqRefused (s : State) (n : Nat) : State := s.setFld Fld.TRP_CLUSTER_CFG_CFG_REFUSED n 1

/-- A write of TRP_DQ_CONS. -/
def State.dqConsWrite (s : State) (n q cons : Nat) : State :=
  let i := 2 * n + q
  let slots := s.dqSlots i
  if ringHeld (s.dqProd i) cons slots ≤ ringHeld (s.dqProd i) (s.dqCons i) slots then s.setDq i (s.dqProd i) (cons % (2 * slots))
  else s.dqRefused n

/-- A write of TRP_DQ_CFG. -/
def State.dqCfgWrite (s : State) (n q : Nat) (value : Word) : State :=
  let i := 2 * n + q
  let old := s.reg .TRP_DQ_CFG i
  let base := fieldOf value 0 24
  let slots := fieldOf value 24 4
  let slot := fieldOf value 28 4
  let on := fieldOf old 52 1 == 1
  let geometry := fieldOf value 0 32 != fieldOf old 0 32
  let held := geometry && (on || fieldOf value 52 1 == 1)
  let range := 4 ≤ slots && slots ≤ 12 && 11 ≤ slot && slot ≤ 14 && base % 2 ^ slot == 0
  if geometry && !held && range && 16777216 < base + 2 ^ (slots + slot) then s.dqRefused n
  else
    let keep := held || (geometry && !range)
    let low := if keep then fieldOf old 0 32 else fieldOf value 0 32
    let new := BitVec.ofNat 64 (low + fieldOf value 32 21 * 2 ^ 32)
    let s := s.setReg .TRP_DQ_CFG i new
    let s := if !on && fieldOf new 52 1 == 1 then s.setDq i 0 0 else s
    if held then s.dqRefused n else s

/-! ## Loading the firmware (R396, R397) -/

/-- The section's lengths are out of range, the body is short, or a window has no placement (R396). -/
def troupeInvalid (body : List Byte) : Bool :=
  let i := imemLen body
  let on := leAt body 4 1
  i % 4 != 0 || i < 4 || 131072 < i || 262144 < dmemLen body || 16777216 < sharedLen body ||
  body.length < 64 + padTo8 i + padTo8 (dmemLen body) + padTo8 (sharedLen body) ||
  (List.range 8).any (fun n => bit on n && leAt body (24 + 4 * n) 4 != 0 && leAt body (56 + n) 1 % 4 == 0)

/-- The clusters are loaded and thread 0 of every core starts (R397). -/
def State.loadTroupe (s : State) (body : List Byte) : State :=
  let on := leAt body 4 1
  let s := { s with trp := { body := body }, mem := { s.mem with dmem := [], shared := [] } }
  let s := (List.range 8).foldl (fun s n =>
    ((s.setFld Fld.TRP_CLUSTER_CFG_RUN n (flag (bit on n))).setFld Fld.TRP_CLUSTER_CFG_PAIRED n (flag (bit (leAt body 5 1) n))).setFld
      Fld.TRP_CLUSTER_CFG_CTRL_WRITE n (flag (bit (leAt body 6 1) n))) s
  let s := [0, 1].foldl (fun s d => s.setFld Fld.TRP_DIE_SLOW_CLUSTERS d (bits on (4 * d) 4)) s
  let s := s.setFld Fld.SYS_TROUPE_FW_VERSION_VERSION 0 (leAt body 0 4)
  ((List.range 128).filter (fun k => bit on (k / 16))).foldl (fun s k =>
    (s.setCore k { since := s.clk.core }).threadStart (16 * k) 0x80000000) s

end Sys2Proof.Machine
end

