-- ==== Sys2Proof/Machine/Callboard.lean ====
section
/-! DEFINITION. The callboard (R401 to R409), and the Barod frames that carry its peer slots (R435, R437). -/

namespace Sys2Proof.Machine

/-! ## Stack plan and links (R433 to R437) -/

/-- Entry of a member in a STACK_PLAN body, and its designated ports (R433). -/
def planMember (plan : List Byte) (m : Nat) : List Byte := slice plan (16 + 64 * m) 64
def planPort (plan : List Byte) (m p : Nat) : Bool := bit (beAt (planMember plan m) (16 + p / 8) 1) (p % 8)
def planCount (plan : List Byte) : Nat := leAt plan 8 1

/-- The port is designated by the device's own entry, and its plan creates it (R433). A device not listed keeps no plan. -/
def State.designated (s : State) (p : Nat) : Bool := !s.stk.plan.isEmpty && planPort s.stk.plan s.stk.member p && s.portType p != 0

def stackLinkDefault : Nat → StackLink := fun _ => {}
def State.stackLink (s : State) (p : Nat) : StackLink := SMap.get stackLinkDefault s.stk.links p
def State.setStackLink (s : State) (p : Nat) (l : StackLink) : State :=
  { s with stk := { s.stk with links := SMap.set stackLinkDefault p l s.stk.links } }

def stackPeerDefault : Nat → StackPeer := fun _ => {}
def State.stackPeer (s : State) (m : Nat) : StackPeer := SMap.get stackPeerDefault s.stk.peers m
def State.setStackPeer (s : State) (m : Nat) (v : StackPeer) : State :=
  { s with stk := { s.stk with peers := SMap.set stackPeerDefault m v s.stk.peers } }

/-- A link is established (R436), and not silent (R437). -/
def StackLink.established (l : StackLink) : Bool := l.heard && l.sent && !l.refused
def StackLink.alive (l : StackLink) : Bool := l.established && !l.silent

/-- Links alive to a member; a member is visible while it has one (R437). -/
def State.linksTo (s : State) (m : Nat) : List Nat := (s.stk.links.filter (fun x => x.2.alive && x.2.peer == m)).map (·.1)
def State.peerVisible (s : State) (m : Nat) : Bool := !(s.linksTo m).isEmpty

/-- STATE of R438 as Barod headers and STK_STATUS show it. -/
def StackState.code (x : StackState) : Nat :=
  match x with
  | .STANDALONE => 0 | .JOINING => 1 | .MEMBER => 2 | .MASTER => 3 | .WINGS => 4

/-- A peer joined the stack: visible, and MEMBER or MASTER by what it last said. -/
def State.peerJoined (s : State) (m : Nat) : Bool := s.peerVisible m && ((s.stackPeer m).state == 2 || (s.stackPeer m).state == 3)

/-- A Barod frame from its destination address to its FCS (R435). -/
def State.barodFrame (s : State) (p type : Nat) (payload : List Byte) : List Byte :=
  let l := s.stackLink p
  withFcs (toBE 6 0x0300000000B0 ++ [2] ++ slice (toLE 8 Config.serial.toNat) 0 5 ++ toBE 2 0x88B6 ++
    toLE 1 (if type = 1 then 1 else l.version) ++ toLE 1 type ++ toLE 1 s.stk.member ++ toLE 1 s.stk.state.code ++ slice s.stk.plan 0 8 ++
    toLE 2 s.stk.number ++ toLE 2 s.stk.masterNum ++ toLE 4 l.seq.toNat ++ toLE 2 payload.length ++ [0, 0] ++ payload) false

/-- Sends a Barod frame on a designated port (R435). It enters the switch core at port 334 with slice 0 and class 7 (R25, R132), its egress
settled: it waits to be carried out as a looked-up frame does (DESIGN CHOICE, assumption log entry 35). -/
def State.barodSend (s : State) (p type : Nat) (payload : List Byte) : State :=
  let octets := s.barodFrame p type payload
  let l := s.stackLink p
  let s := (s.setStackLink p { l with seq := l.seq + 1 }).newFrame
    { id := 0, inPort := 334, passPort := 334, octets := octets, ended := true, rxClass := 7, time := s.now, phase := .looking, entered := true,
      passes := 1, order := s.swc.entries, ticket := { scene := s.scn.current, inPort := 334, cls := 7 },
      decision := some { forward := 1, target := p } }
  { s with swc := { s.swc with entries := s.swc.entries + 1 } }

/-- Sends on one link to a member: the alive link with the lowest port number. -/
def State.barodTo (s : State) (m type : Nat) (payload : List Byte) : State :=
  match s.linksTo m with
  | p :: _ => s.barodSend p type payload
  | [] => s

/-! ## Slots (R401 to R406) -/

def State.cbSlot (s : State) (i : Nat) : Word := SMap.get slotWord s.cbd.slots i
def State.setCbSlot (s : State) (i : Nat) (w : Word) : State :=
  { s with cbd := { s.cbd with slots := SMap.set slotWord i w s.cbd.slots } }

def slotFull (w : Word) : Bool := fieldOf w 63 1 == 1
def slotCollision (w : Word) : Bool := fieldOf w 62 1 == 1

/-- Slots whose writes are dropped (R405). -/
def slotReserved (i : Nat) : Bool := i < 2 || (8241 ≤ i && i ≤ 8255) || 9216 ≤ i

/-- A word in a slot that notifies the lead CPC. -/
def State.cbPending (s : State) (i : Nat) : State :=
  (s.setReg .CBD_PENDING (i / 32) (BitVec.ofNat 64 (setBits (s.reg .CBD_PENDING (i / 32)).toNat (i % 32) 1 1))).cpcEvent 3

/-- The notification of a slot (R406). -/
def State.slotNotify (s : State) (i : Nat) : State :=
  if i < 8192 then
    if i % 2 = 0 then s.cbPending i else s.sliceIrq (i / 2) (s.fld Fld.SLC_GRANT_Q_CB_VECTOR (i / 2))
  else if i < 8224 then
    if i % 2 = 0 then s.cbPending i
    else (List.range 4).foldl (fun s k => s.msix (4 * ((i - 8193) / 2) + k) 0 0) s
  else if i ≤ 8240 then s.cbPending i
  else
    let j := i - 8256
    match s.fld Fld.CBD_DEV_NOTIFY_TARGET j with
    | 1 => s.cbPending i
    | 2 => s.setEvent (s.fld Fld.CBD_DEV_NOTIFY_THREAD j) 9
    | 3 => s.raiseLine (208 + s.fld Fld.CBD_DEV_NOTIFY_LINE j)
    | _ => s

/-- A slot that carries its words to a stack peer, and which (R405). -/
def peerSlot (i : Nat) : Option Nat := if 8225 ≤ i && i ≤ 8239 && i % 2 == 1 then some ((i - 8225) / 2) else none

/-- A slot write (R404, R405): the word, its stamp and FULL; a collision is counted. A peer slot's word is carried away at
once. -/
def State.slotPut (s : State) (i stamp : Nat) (word : BitVec 32) : State :=
  if slotReserved i then s
  else
    let old := s.cbSlot i
    let v := word.toNat + stamp % 65536 * 2 ^ 32
    match peerSlot i with
    | some d =>
      let s := s.setCbSlot i (BitVec.ofNat 64 v)
      if s.peerJoined d then s.barodTo d 7 (toLE 4 word.toNat) else s.bump .CBD_PEER_DROP 0
    | none =>
      let s := s.setCbSlot i (BitVec.ofNat 64 (v + flag (slotFull old || slotCollision old) * 2 ^ 62 + 2 ^ 63))
      (if slotFull old then s.bump .CBD_COLLISIONS 0 else s).slotNotify i

/-- A take (R403): the slot as it stood, and FULL and COLLISION cleared. -/
def State.slotClear (s : State) (i : Nat) : State := s.setCbSlot i (BitVec.ofNat 64 ((s.cbSlot i).toNat % 2 ^ 62))

/-- The slots a requester's paths lead to (R403). -/
def State.slotReach (s : State) (r : Requester) (i : Nat) : Bool :=
  match r with
  | .slice n => s.dev.state == .STAGE && 0 < n.val && i / 2 == n.val
  | .pf0 h _ => (s.dev.state == .STAGE || s.dev.state == .CURTAIN) && (i == 8192 + 2 * h.val || i == 8193 + 2 * h.val)
  | _ => s.mapAnswers

/-! ## The device's side of the management protocol (R407, R408) -/

def talkDefault : Nat → Talk := fun _ => {}
def State.talk (s : State) (h : Nat) : Talk := SMap.get talkDefault s.cbd.talks h
def State.setTalk (s : State) (h : Nat) (t : Talk) : State :=
  { s with cbd := { s.cbd with talks := SMap.set talkDefault h t s.cbd.talks } }

/-- The stamp of the lead CPC's writes: core 0 of the unit. -/
def State.leadStamp (s : State) : Nat := 0x2000 + 4 * (s.leadCpc.getD 0)

/-- The device writes its next word to the inbound slot of a port once the slot is not FULL. -/
def State.talkSend (s : State) (h : Nat) : State :=
  let t := s.talk h
  match t.sending with
  | [] => s
  | w :: rest =>
    if slotFull (s.cbSlot (8193 + 2 * h)) then s
    else (s.setTalk h { t with sending := rest }).slotPut (8193 + 2 * h) s.leadStamp w

/-- A take by a requester (R403); once its inbound slot is empty, the device writes the next word of a transfer (R408). -/
def State.slotTaken (s : State) (i : Nat) : State :=
  let s := s.slotClear i
  if 8192 ≤ i && i < 8224 && i % 2 == 1 then
    let h := (i - 8193) / 2
    (if (s.talk h).sending.isEmpty then s else s.setTalk h { s.talk h with since := s.elapsed }).talkSend h
  else s

/-- Words queued behind those still to be written. -/
def State.talkQueue (s : State) (h : Nat) (ws : List (BitVec 32)) : State :=
  let t := s.talk h
  (s.setTalk h { t with sending := t.sending ++ ws, since := s.elapsed }).talkSend h

/-- HELLO_REPLY with a version and a status. -/
def helloReply (version status : Nat) : BitVec 32 := BitVec.ofNat 32 (0x81 + version * 256 + status * 2 ^ 24)

/-- A transfer in progress ends unfinished, the device's own words included. -/
def State.talkAbandon (s : State) (h : Nat) : State := s.setTalk h { s.talk h with open_ := none, sending := [] }

/-- A reply of the device (R407): a START with its length in words, then the words. -/
def State.talkReply (s : State) (h : Nat) (bytes : List Byte) : State :=
  let n := ceilDiv bytes.length 4
  s.talkQueue h (BitVec.ofNat 32 (2 + n * 256) :: (List.range n).map (fun i => BitVec.ofNat 32 (leAt bytes (4 * i) 4)))

/-- The lead CPC takes a word of PF0 on port h (R407, R408). The bytes of a transfer that this word completes follow. -/
def State.talkTake (s : State) (h : Nat) : Option (List Byte) × State :=
  let i := 8192 + 2 * h
  let v := s.cbSlot i
  if !slotFull v then (none, s)
  else
    let s := s.slotClear i
    let t := s.talk h
    let w := fieldOf v 0 32
    let reply := fun (s : State) status => s.talkQueue h [helloReply (s.fld Fld.SYS_PROTOCOLS_MGMT_MAX 0) status]
    match t.open_ with
    | some (n, got) =>
      if slotCollision v then (none, reply (s.talkAbandon h) Code.OVERRUN)
      else
        let got := got ++ toLE 4 w
        if got.length = 4 * n then (some got, s.setTalk h { t with open_ := none })
        else (none, s.setTalk h { t with open_ := some (n, got), since := s.elapsed })
    | none =>
      match w % 256 with
      | 0x01 =>
        let s := (s.talkAbandon h).setTalk h { hello := true }
        (none, s.talkQueue h [helloReply (min (bits w 8 8) (s.fld Fld.SYS_PROTOCOLS_MGMT_MAX 0)) Code.OK])
      | 0x02 =>
        if !t.hello then (none, reply s 0xE0)
        else if w / 256 = 0 then (none, reply s Code.MALFORMED)
        else (none, s.setTalk h { t with open_ := some (w / 256, []), since := s.elapsed })
      | _ => if t.hello then (none, reply s Code.UNSUPPORTED) else (none, reply s 0xE0)

end Sys2Proof.Machine
end

