-- ==== Sys2Proof/Machine/Curtain.lean ====
section
/-! DEFINITION. Curtain scopes (R465 to R468): what a scope's interfaces do as its curtain falls and as it lifts, the causes,
the exit procedure, and the whole-device curtain. -/

namespace Sys2Proof.Machine

/-- The cause register of a scope; cipher engines, key contexts and the device have none of their own. -/
def scopeReg (k : ScopeKind) : Option RegName :=
  match k with
  | .port => some .FLT_SCOPE_PORT
  | .engine => some .FLT_SCOPE_ENGINE
  | .host => some .FLT_SCOPE_HOST
  | .slice => some .FLT_SCOPE_SLICE
  | .troupe => some .FLT_SCOPE_TROUPE
  | _ => none

/-- Scope indices (R465); slice 0 is no scope. -/
def scopeIndexOk (k : ScopeKind) (i : Nat) : Bool :=
  match k with
  | .port => i < 256
  | .engine => i < 16
  | .host => i < 16
  | .slice => 0 < i && i < 4096
  | .cipher => i < 36
  | .troupe => i < 128
  | .key => i < 262144
  | .device => i == 0

/-- An enclosing scope holds (R465). -/
def State.enclosed (s : State) (k : ScopeKind) (i : Nat) : Bool :=
  match k with
  | .port => s.engineCurtained (i / 16)
  | .slice => s.hostCurtained (s.sliceLink i / 4)
  | .key => (s.keyCtx i).owner != 0 && s.sliceState (s.keyCtx i).owner == 3 || s.deviceCurtained
  | .device => false
  | _ => s.deviceCurtained

/-- A cause of the scope's own holds. -/
def State.ownCause (s : State) (k : ScopeKind) (i : Nat) : Bool :=
  match scopeReg k with
  | some r => s.scopeCause r i
  | none => k == .key && (s.keyCtx i).own

/-- A scope is curtained (R465). -/
def State.curtained (s : State) (k : ScopeKind) (i : Nat) : Bool :=
  match k with
  | .device => s.deviceCurtained
  | .cipher => (s.engine i).state != .IN_SERVICE || s.deviceCurtained
  | .key => (s.keyCtx i).state == .LOCKED || s.enclosed .key i
  | k => s.ownCause k i || s.enclosed k i

/-! ## The curtain falls (R466) -/

/-- A network port: frames in transmission ended with the stomp code, queued copies dropped, its landing share discarded. -/
def State.fallPort (s : State) (p : Nat) : State := (s.portDown p).discardLanding p

/-- A slice: CURTAINED, its channels halted, its contexts locked. -/
def State.fallSlice (s : State) (n : Nat) : State :=
  (s.ownedContexts n).foldl (fun s c => s.lockCtx c) (s.curtainSlice n)

/-- A host port: its channels halted, outstanding reads failed, the slices of its links curtained. -/
def State.fallHost (s : State) (h : Nat) : State :=
  let s := s.haltChannels (fun c => s.chanLink c / 4 == h) Code.CURTAIN
  let s := (List.range 4).foldl (fun s k => (s.slicesOn (4 * h + k)).foldl (fun s n => s.fallSlice n) s) s
  let s := s.failReads (fun r => r.want.link / 4 == h)
  { s with hep := { s.hep with held := s.hep.held.filter (fun x => x.1 / 4 != h) } }

/-- A Troupe core: held in reset, threads STOPPED, channel results discarded. -/
def State.fallCore (s : State) (k : Nat) : State :=
  let s := ((List.range 16).map (16 * k + ·)).foldl
    (fun s t => s.setThread t { s.thread t with state := .STOPPED, held := .STOPPED, wait := none, resv := none }) s
  let s := { s with trp := { s.trp with ops := s.trp.ops.map (fun (o : ChanOp) => if o.thread / 16 = k then { o with stale := true } else o) } }
  s.setCore k { s.core k with resetting := true, stall := false, idle := 0, stalled := 0 }

/-- The interfaces of a scope take their curtain states. -/
def State.fall (s : State) (k : ScopeKind) (i : Nat) : State :=
  match k with
  | .port => s.fallPort i
  | .engine => (List.range 16).foldl (fun s j => s.fallPort (16 * i + j)) s
  | .host => s.fallHost i
  | .slice => s.fallSlice i
  | .cipher => s.engineFails i
  | .troupe => s.fallCore i
  | .key => s.lockOwn i
  | .device =>
    let s := (List.range 256).foldl (fun s p => s.fallPort p) s
    let s := (List.range 16).foldl (fun s h => s.fallHost h) s
    s.lockAll (fun _ _ => true)

/-- The CURTAIN alarm of a scope (R471): with the record that caused it, or one made for the alarm. -/
def State.curtainAlarm (s : State) (k : ScopeKind) (i : Nat) (r : Option FaultRecord) : State :=
  match r with
  | some r => s.alarm 1 { r with scope := BitVec.ofNat 8 k.code, scopeIndex := BitVec.ofNat 32 i }
  | none =>
    s.nextSeq.alarm 1 { s.recordOf 0xFF 0 .none 0 0 (some (k, i)) 0 with seq := s.flt.seq }

/-- Every host port holds its link in Detect, so hosts see no device (R45). -/
def State.holdDetect (s : State) : State :=
  let s := (List.range 64).foldl (fun s l => s.hostLinkDown l) s
  { s with dev := { s.dev with earlyUp := false, detect := true } }

/-- The whole device's curtain falls (R49, R466): from LOADING or STAGE only. cause is FLT_STATUS.DEVICE_CAUSE. Before the
CPC firmware is applied the device holds as in recovery (R48). -/
def State.deviceCurtain (s : State) (why : DevCause) (cause : Nat) (r : Option FaultRecord) : State :=
  if s.dev.state == .LOADING || s.dev.state == .STAGE then
    let s := (s.fall .device 0).settleAll
    let s := s.setFld Fld.FLT_STATUS_DEVICE_CAUSE 0 cause
    let s := ({ s with dev := { s.dev with state := .CURTAIN, cause := why, step := .idle } }).curtainAlarm .device 0 r
    if s.dev.cpcStarted then s else s.holdDetect
  else s

/-- A scope gets a cause (R466); bit is that of HOLD, FAULT or STACK in its register. The curtain falls if it was not
curtained. A cipher engine and a key context have no cause bits: the engine leaves the pool, the context is locked. -/
def State.curtain (s : State) (k : ScopeKind) (i b : Nat) (r : Option FaultRecord) : State :=
  if !scopeIndexOk k i then s
  else match k with
    | .device => s.deviceCurtain .FAULT 0 r
    | k =>
      let was := s.curtained k i
      let s := match scopeReg k with
        | some reg => s.setReg reg i (BitVec.ofNat 64 (setBits (s.reg reg i).toNat b 1 1))
        | none => s
      if was then s else ((s.fall k i).settleAll).curtainAlarm k i r

abbrev holdBit : Nat := 0
abbrev faultBit : Nat := 2
abbrev stackBit : Nat := 3

/-! ## The curtain lifts (R467) -/

/-- Optical lanes retired by LASTING verdicts. -/
def State.laneRetired (s : State) (lane : Nat) : Bool := s.flt.retired.any (fun x => x.1 == .opticalLane && x.2.toNat == lane)
def State.portOnRetired (s : State) (p : Nat) : Bool := (s.portLanes p).any s.laneRetired

/-- The scope still depends on a retired element without a spare. -/
def State.causeHolds (s : State) (k : ScopeKind) (i : Nat) : Bool :=
  s.flt.bound.contains (k, i) || (k == .port && s.portOnRetired i)

/-- A slice leaves its curtain: STOPPED with its generation advanced, its contexts as before the lock. -/
def State.liftSlice (s : State) (n : Nat) : State :=
  if s.curtained .slice n then s
  else (s.ownedContexts n).foldl (fun s c => s.unlockCtx c) (s.uncurtainSlice n)

/-- A Troupe core leaves its curtain: reset by R392, as a reset by the CPC. -/
def State.liftCore (s : State) (k : Nat) : State := if s.curtained .troupe k || !s.clusterLoaded (k / 16) then s else s.coreReset k 3

/-- The scope a voted field belongs to (R83): none for the management segment enable. -/
def fieldScope (f : FieldAt) : Option (ScopeKind × Nat) :=
  match f.reg with
  | .MGT_SEG_CTRL => none
  | .PRT_CONFIG => some (.port, f.idx)
  | .OPT_LASER_CTRL => some (.engine, f.idx)
  | .SLC_SLICE_BIND => if f.idx = 0 then some (.device, 0) else some (.slice, f.idx)
  | .SLC_SLICE_STATE => if f.idx = 0 then some (.device, 0) else some (.slice, f.idx)
  | .CPH_CTX_LIMIT => some (.key, f.idx)
  | .CPH_CTX_BYTE_LIMIT => some (.key, f.idx)
  | .CPH_CTX_USED => some (.key, f.idx)
  | .CPH_CTX_BYTES => some (.key, f.idx)
  | .HEP_IDE_CTRL => some (.host, f.idx / 4)
  | _ => some (.device, 0)

/-- A voted field takes its reset value. Those of a key context are rewritten with the context (R467: the scope has no exit of its own). -/
def State.resetVoted (s : State) (f : FieldAt) : State :=
  match f.reg.info.fields.find? (fun x => x.lo == f.lo) with
  | some x => s.setReg f.reg f.idx (withField (s.reg f.reg f.idx) x.lo x.width (bits (f.reg.resetAt f.idx).toNat x.lo x.width))
  | none => s

/-- Voted fields of a scope whose copies disagree are rewritten with their reset value (R467 step 1). -/
def State.rewriteVoted (s : State) (k : ScopeKind) (i : Nat) : State :=
  let mine := s.vote.broken.filter (fun f => fieldScope f == some (k, i))
  (mine.foldl (fun s f => s.resetVoted f) s).healVoted mine.contains

/-- An enclosed scope exits with the scope that encloses it, where no cause holds it (R467). -/
def State.exitEnclosed (s : State) (k : ScopeKind) (i : Nat) (lift : State → State) : State :=
  if s.curtained k i then s else lift (s.rewriteVoted k i)

/-- The interfaces of a scope leave their curtain states, with those of enclosed scopes that have no cause of their own. A
port's modulators resume and its link comes up by R90 of itself. -/
def State.lift (s : State) (k : ScopeKind) (i : Nat) : State :=
  match k with
  | .engine => (List.range 16).foldl (fun s j => s.exitEnclosed .port (16 * i + j) id) s
  | .slice => s.liftSlice i
  | .host =>
    (List.range 4).foldl (fun s l => (s.slicesOn (4 * i + l)).foldl (fun s n => s.exitEnclosed .slice n (fun s => s.liftSlice n)) s) s
  | .troupe => s.liftCore i
  | .cipher =>
    if (s.engine i).state = .TESTING then s.setEngine i { s.engine i with state := .IN_SERVICE, work := .idle } else s
  | .key => s.unlockCtx i
  | _ => s

def State.scopeStatus (s : State) (r : RegName) (i c : Nat) : State := s.setReg r i (BitVec.ofNat 64 (setBits (s.reg r i).toNat 8 8 c))
def State.clearCause (s : State) (r : RegName) (i b : Nat) : State := s.setReg r i (BitVec.ofNat 64 (setBits (s.reg r i).toNat b 1 0))

/-- The exit procedure run on one scope, its steps 1 to 3. -/
def State.exitNow (s : State) (k : ScopeKind) (r : RegName) (i b : Nat) : State :=
  let s := (s.rewriteVoted k i).clearCause r i b
  if s.curtained k i then s else s.lift k i

/-- EXIT (R467): refused while a retired element holds the scope or an enclosing scope is curtained. -/
def State.exitScope (s : State) (k : ScopeKind) (i : Nat) : State :=
  match scopeReg k with
  | none => s
  | some r =>
    if !scopeIndexOk k i then s
    else if s.causeHolds k i then s.scopeStatus r i 0x98
    else if s.enclosed k i then s.scopeStatus r i 0x99
    else (s.exitNow k r i faultBit).scopeStatus r i Code.OK

/-- A write of HOLD (R466, R467). -/
def State.scopeHold (s : State) (k : ScopeKind) (i : Nat) (hold : Bool) : State :=
  match scopeReg k with
  | none => s
  | some r =>
    if !scopeIndexOk k i then s
    else if hold then s.curtain k i holdBit none
    else
      let was := s.curtained k i
      let s := s.clearCause r i holdBit
      if was && !s.curtained k i then (s.rewriteVoted k i).lift k i else s

/-- The STACK cause of a scope ends (R467): the device runs the exit procedure by itself. -/
def State.stackLift (s : State) (k : ScopeKind) (i : Nat) : State :=
  match scopeReg k with
  | none => s
  | some r =>
    if fieldOf (s.reg r i) stackBit 1 = 0 then s
    else if s.enclosed k i then s.clearCause r i stackBit
    else s.exitNow k r i stackBit

end Sys2Proof.Machine
end

