-- ==== Sys2Proof/Machine/Faults.lean ====
section
/-! DEFINITION. Errors, targeted self-tests, verdicts and retirement (R459 to R464). Control units are in Rdn. -/

namespace Sys2Proof.Machine

/-! ## Classes (R459) -/

def ErrClass.value (c : ErrClass) : Nat :=
  match c with
  | .corrected => 0 | .contained => 1 | .fatal => 2

/-- An error counted by its class (R472). -/
def State.countError (s : State) (c : ErrClass) : State :=
  match c with
  | .corrected => s.bump .FLT_CORRECTED 0
  | .contained => s.bump .FLT_CONTAINED 0
  | .fatal => s.bump .FLT_FATAL 0

/-- A FATAL error with its record written (R459): counted, alarmed, and the whole device curtained with a DEVICE_CAUSE. -/
def State.fatalBy (s : State) (deviceCause : Nat) (r : FaultRecord) : State :=
  ((s.bump .FLT_FATAL 0).alarm 2 r).deviceCurtain .FAULT deviceCause (some r)

/-- A FATAL error that no test found: it has a record of its own (R463). -/
def State.fatal (s : State) (deviceCause cause : Nat) (kind : ElementKind) (index detail : BitVec 32) : State :=
  let r := s.recordOf 2 0 kind index (BitVec.ofNat 8 cause) (some (.device, 0)) detail
  (s.writeRecord r).fatalBy deviceCause r

/-- A contained fault that curtains a scope (R459, R466). -/
def State.containedScope (s : State) (cause : Nat) (k : ScopeKind) (i : Nat) : State :=
  let s := s.bump .FLT_CONTAINED 0
  let r := s.recordOf 1 0 .none 0 (BitVec.ofNat 8 cause) (some (k, i)) 0
  (s.writeRecord r).curtain k i faultBit (some r)

/-! ## Verdict history (R462) -/

def dayNs : Nat := 86400000000000

def State.historyOf (s : State) (k : ElementKind) (i : BitVec 32) : Option History :=
  s.flt.history.find? (fun h => h.kind == k && h.index == i)

/-- TRANSIENT verdicts of an element within the last 24 h. -/
def State.transients (s : State) (k : ElementKind) (i : BitVec 32) : List Nat :=
  ((s.historyOf k i).map (fun h => h.transients.filter (fun t => s.now ≤ t + dayNs))).getD []

/-- The element becomes the one tested most recently; the history keeps 1,024. -/
def State.remember (s : State) (k : ElementKind) (i : BitVec 32) (ts : List Nat) (tested : Bool) : State :=
  let last := if tested then s.elapsed else ((s.historyOf k i).map (·.lastTest)).getD 0
  let rest := s.flt.history.filter (fun h => !(h.kind == k && h.index == i))
  { s with flt := { s.flt with history := ({ kind := k, index := i, transients := ts, lastTest := last } :: rest).take 1024 } }

def State.isRetired (s : State) (k : ElementKind) (i : BitVec 32) : Bool := s.flt.retired.contains (k, i)
def State.underTest (s : State) (k : ElementKind) (i : BitVec 32) : Option Test :=
  s.flt.tests.find? (fun t => t.kind == k && t.index == i)

/-! ## Actions of a LASTING verdict (R461, R464) -/

/-- Ports whose lanes include an engine lane. -/
def State.portsOnLane (s : State) (lane : Nat) : List Nat :=
  ((List.range 16).map (fun j => 16 * (lane / 32) + j)).filter (fun p => (s.portLanes p).contains lane)

/-- Scopes a die-to-die link serves (R19). -/
def linkScopes (link : Nat) : List (ScopeKind × Nat) :=
  let hosts : Nat → List (ScopeKind × Nat) := fun d => (List.range 8).map (fun i => (ScopeKind.host, 8 * d + i))
  if link < 16 then [(.engine, link)]
  else if link = 16 then hosts 0 ++ hosts 1
  else if link < 19 then
    let d := link - 17
    (List.range 18).map (fun i => (ScopeKind.cipher, 18 * d + i)) ++ (List.range 64).map (fun i => (ScopeKind.troupe, 64 * d + i)) ++ hosts d
  else if link < 21 then hosts (link - 19)
  else [(.device, 0)]

/-- The scopes a LASTING verdict of an element curtains. An SRAM or HBM row names its scope in the error that reported it. -/
def State.lastingScopes (s : State) (t : Test) (spareLeft : Bool) : List (ScopeKind × Nat) :=
  match t.kind with
  | .opticalLane => (s.portsOnLane t.index.toNat).map (fun p => (ScopeKind.port, p))
  | .cipherEngine => [(.cipher, t.index.toNat)]
  | .troupeCore => [(.troupe, t.index.toNat)]
  | .sramRow => if spareLeft then [] else t.scope.toList
  | .hbmRow => if spareLeft then [] else if bits t.index.toNat 30 2 < 2 then [(.device, 0)] else t.scope.toList
  | .d2dLane => if spareLeft then [] else linkScopes (bits t.index.toNat 8 8)
  | _ => []

/-- The element goes back to work (R462). -/
def State.backToService (s : State) (k : ElementKind) (i : Nat) : State :=
  match k with
  | .cipherEngine => if (s.engine i).state = .TESTING then s.setEngine i { s.engine i with state := .IN_SERVICE, work := .idle } else s
  | _ => s

/-- The host link whose lanes include a lane of a host port (R23). -/
def State.linkOfLane (s : State) (lane : Nat) : Nat :=
  let w := s.fld Fld.HEP_PORT_CFG_WIDTH (lane / 16)
  4 * (lane / 16) + (if w = 2 then lane % 16 / 4 else if w = 1 then lane % 16 / 8 * 2 else 0)

/-- The link of a host lane trains again. -/
def State.retrainLane (s : State) (lane : Nat) : State :=
  s.emit (.host (s.linkOfLane lane) (.retrain (s.fld Fld.HEP_LINK_CTRL_MAX_SPEED (s.linkOfLane lane))))

/-- A die-to-die lane's group of 16 still has its spare: none of its lanes was replaced (R19). -/
def State.spareFor (s : State) (lane : Nat) : Bool := !s.flt.retired.any (fun x => x.1 == .d2dLane && x.2.toNat / 16 == lane / 16)

/-- The element leaves service for good, but for its scopes. -/
def State.outOfService (s : State) (k : ElementKind) (i : Nat) : State :=
  match k with
  | .cipherEngine => s.setEngine i { s.engine i with state := .RETIRED, work := .idle }
  | .hostLane => s.retrainLane i
  | .entropy => { s with vlt := { s.vlt with sourceDead := SMap.set (fun _ => false) i true s.vlt.sourceDead } }
  | _ => s

/-- The retirement record is written, or the region is full (R464). -/
def State.retire (s : State) (r : FaultRecord) (k : ElementKind) (i : BitVec 32) : State :=
  let s := if s.isRetired k i then s else { s with flt := { s.flt with retired := s.flt.retired ++ [(k, i)] } }
  if s.vlt.store.retired.length < 2048 then
    s.writeStore (.retired s.vlt.store.retired.length) (fun t => { t with retired := t.retired ++ [r] })
  else s.plainAlarm 6 0 18 0 0

/-- A verdict (R462, R463): counted, recorded, and acted on. -/
def State.giveVerdict (s : State) (t : Test) (lasting spareLeft : Bool) (detail : BitVec 32) : State :=
  if !lasting then
    let s := s.bump .FLT_TRANSIENT 0
    (s.writeRecord (s.recordOf t.cls.toNat 1 t.kind t.index t.cause none detail)).backToService t.kind t.index.toNat
  else
    let s := s.bump .FLT_LASTING 0
    let scopes := s.lastingScopes t spareLeft
    let cause := if t.kind == .d2dLane && !spareLeft then 16 else t.cause
    let r := s.recordOf t.cls.toNat 2 t.kind t.index cause scopes.head? detail
    let s := ((s.writeRecord r).alarm 0 r).retire r t.kind t.index
    let s := if t.kind == .d2dLane && !spareLeft then { s with flt := { s.flt with spent := bits t.index.toNat 8 8 :: s.flt.spent } } else s
    let s := if t.kind == .opticalLane || t.kind == .cipherEngine then s else { s with flt := { s.flt with bound := scopes ++ s.flt.bound } }
    let s := scopes.foldl (fun s x =>
      if x.1 == .device then s.fatalBy (if t.kind == .hbmRow then 6 else 5) r
      else s.curtain x.1 x.2 faultBit (some r)) s
    s.outOfService t.kind t.index.toNat

/-- The verdict of a test that passed or failed: the fourth TRANSIENT within 24 h is LASTING. The spares of the die-to-die links are
counted here (R19); those of the memories are the test's finding. -/
def State.testVerdict (s : State) (t : Test) (pass tested spareLeft : Bool) (detail : BitVec 32) : State :=
  let ts := s.transients t.kind t.index
  let lasting := !pass || 3 ≤ ts.length
  let spareLeft := if t.kind == .d2dLane then s.spareFor t.index.toNat else spareLeft
  (s.remember t.kind t.index (if lasting then ts else s.now :: ts) tested).giveVerdict t lasting spareLeft detail

/-- A test ends (SELF_TEST_VERDICT): of an element that was under test. -/
def State.selfTestEnds (s : State) (k : ElementKind) (i : BitVec 32) (pass spareLeft : Bool) (detail : BitVec 32) : State :=
  match s.underTest k i with
  | none => s
  | some t => ({ s with flt := { s.flt with tests := s.flt.tests.filter (fun x => !(x.kind == k && x.index == i)) } }).testVerdict t pass true spareLeft detail

/-! ## Errors (R459 to R461) -/

/-- What an element does while it is tested (R461). -/
def State.testStarts (s : State) (t : Test) : State :=
  let i := t.index.toNat
  let s := { s with flt := { s.flt with tests := s.flt.tests ++ [t] } }
  match t.kind with
  | .cipherEngine => if (s.engine i).state = .IN_SERVICE then (s.engineFails i).settleAll else s
  | .opticalLane => (s.portsOnLane i).foldl (fun s p => s.portDown p) s
  | .hostLane => s.retrainLane i
  | .troupeCore => s.coreReset i (s.fld Fld.TRP_CORE_STATUS_LAST_RESET i)
  | .registerGroup => { s with vote := { s.vote with scrubs := s.vote.scrubs ++ [i] } }
  | _ => s

/-- What an uncorrectable error destroyed (R460): the table entry DETAIL names is freed, the frame gets a bad tail, the context is locked,
the thread faults with MEM_ECC (R376). -/
def State.errorHit (s : State) (e : ErrorReport) : State :=
  match e.hit with
  | .nothing => s
  | .tableEntry =>
    let t := e.detail.toNat / 2 ^ 24
    s.setEntry (regionOf t + 4 * s.tableBase t + e.detail.toNat % 2 ^ 24) none
  | .frame f =>
    match s.frame? f with
    | some x => if x.ended then (s.setFrame { x with bad := true, ticket := { x.ticket with tailError := true } }).dropBadTail f else s.setFrame { x with bad := true }
    | none => s
  | .context c => (s.lockOwn c.val).settleAll
  | .thread t w => if (s.thread t.toNat).state = .RUNNING then s.threadFault t.toNat 24 w else s

/-- DEVICE_CAUSE of a FATAL error by its CAUSE. -/
def deviceCauseOf (cause : Nat) : Nat :=
  match cause with
  | 3 => 1 | 4 => 1 | 7 => 2 | 14 => 2 | 15 => 3 | 6 => 4 | 16 => 5 | _ => 6

/-- A row whose test started less than 1 s ago is not tested again (R461). -/
def State.recentRow (s : State) (k : ElementKind) (i : BitVec 32) : Bool :=
  k == .sramRow && (match s.historyOf k i with | some h => h.lastTest != 0 && decide (s.elapsed < h.lastTest + 1000000000) | none => false)

/-- An error that starts no test has a record when it is detected, unless it is CORRECTED (R463). -/
def State.untested (s : State) (e : ErrorReport) : State :=
  if e.cls == .contained then
    s.writeRecord (s.recordOf 1 0 e.kind (if e.kind == .none then 0 else e.index) e.cause e.scope e.detail) else s

/-- An error of an element other than a control unit (ERROR_REPORT). -/
def State.elementError (s : State) (e : ErrorReport) : State :=
  let t : Test := { kind := e.kind, index := e.index, cls := BitVec.ofNat 8 (ErrClass.value e.cls), cause := e.cause, scope := e.scope }
  if e.cls == .fatal then s.fatal (deviceCauseOf e.cause.toNat) e.cause.toNat e.kind e.index e.detail
  else
    let s := (s.countError e.cls).errorHit e
    let s := match e.cls, e.scope with
      | .contained, some (k, i) => s.curtain k i faultBit (some (s.recordOf 1 0 e.kind e.index e.cause (some (k, i)) e.detail))
      | _, _ => s
    if e.kind == .none || s.isRetired e.kind e.index then s.untested e
    else if (s.underTest e.kind e.index).isSome then s
    else if s.recentRow e.kind e.index then (s.bump .FLT_TEST_SKIPPED 0).testVerdict t true false true e.detail
    else s.testStarts t

/-- Every port of a list whose lanes include a retired one enters its curtain (R464). -/
def State.curtainRetired (s : State) (ps : List Nat) : State :=
  ps.foldl (fun s p => if s.portOnRetired p then s.curtain .port p faultBit none else s) s

/-- Kind of a retirement record. -/
def kindOfCode (n : Nat) : ElementKind :=
  match n with
  | 1 => .sramRow | 2 => .hbmRow | 3 => .cipherEngine | 4 => .opticalLane | 5 => .hostLane | 6 => .troupeCore
  | 7 => .d2dLane | 8 => .controlUnit | 9 => .registerGroup | 10 => .entropy | _ => .none

/-- Step 3 of LOADING: every retirement record is reapplied (R464). -/
def State.reapplyRetired (s : State) : State :=
  s.vlt.store.retired.foldl (fun s r =>
    let k := kindOfCode r.kind.toNat
    let s := if s.isRetired k r.index then s else { s with flt := { s.flt with retired := s.flt.retired ++ [(k, r.index)] } }
    let s := if k == .d2dLane && r.cause.toNat == 16 then { s with flt := { s.flt with spent := bits r.index.toNat 8 8 :: s.flt.spent } } else s
    match k with
    | .cipherEngine => s.setEngine r.index.toNat { s.engine r.index.toNat with state := .RETIRED, work := .idle }
    | .entropy => s.outOfService .entropy r.index.toNat
    | .troupeCore => { s with flt := { s.flt with bound := (.troupe, r.index.toNat) :: s.flt.bound } }
    | _ => s) s

end Sys2Proof.Machine
end

