-- ==== Sys2Proof/Machine/Rdn.lean ====
section
/-! DEFINITION. Lead and understudy (R410 to R431): claims, heartbeats, switch-over, fencing, rehearsals, the gate probe, and
the CPC frame rings. Units are numbered by R410; pair n holds units 2n and 2n + 1. -/

namespace Sys2Proof.Machine

/-! ## Pairs (R410) -/

/-- The pair runs as lead and understudy: the CPCs, the vaults, and the halves of a PAIRED cluster. -/
def State.pairExists (s : State) (n : Nat) : Bool := n < 2 || (n < 10 && s.flagAt Fld.TRP_CLUSTER_CFG_PAIRED (n - 2))

def State.running (s : State) (u : Nat) : Bool := (s.unit u).state == .RUNNING

/-- The vault error state (R285). -/
def State.vaultError (s : State) : State :=
  let s := (s.lockAll (fun _ _ => true)).settleAll
  ({ s with vlt := { s.vlt with error := true } }).deviceCurtain .FAULT 8 none

/-- The affected scope of a pair enters its curtain (R410, R421). -/
def State.pairCurtain (s : State) (n : Nat) : State :=
  if n = 0 then s.fatal 2 7 .none 0 0
  else if n = 1 then s.vaultError
  else (List.range 16).foldl (fun s c => s.curtain .troupe (16 * (n - 2) + c) faultBit none) s

/-- A local event, which only the CPC units have (R429). -/
def State.roleEvent (s : State) (u b : Nat) : State := if u < 2 then s.unitEvent u b else s

def State.setNumber (s : State) (u n : Nat) : State := s.setUnit u { s.unit u with number := BitVec.ofNat 16 n }

/-! ## Gaps (R420, R421) -/

/-- A pair enters a switch-over gap, in the mode set at its start. -/
def State.openGap (s : State) (n : Nat) : State := s.setGap n (.open (s.flagAt Fld.RDN_CFG_GAP_MODE 0) s.elapsed)
def State.closeGap (s : State) (n : Nat) : State := s.setGap n .closed

/-- Two RUNNING units with equal numbers (R417). -/
def State.equalNumbers (s : State) (n : Nat) : State :=
  if s.running (2 * n) && s.running (2 * n + 1) && s.number (2 * n) == s.number (2 * n + 1) then
    let s := (s.containedFault 14).bump .RDN_BILLING_EQUAL 0
    ((s.roleEvent (2 * n) 11).roleEvent (2 * n + 1) 11).openGap n
  else s

/-- A pair without a RUNNING unit that leads (R417, R421): its scope is curtained at once. -/
def State.pairLeads (s : State) (n : Nat) : State :=
  if (s.running (2 * n) && s.number (2 * n) != 0) || (s.running (2 * n + 1) && s.number (2 * n + 1) != 0) then s else s.pairCurtain n

/-! ## Fencing (R422) -/

/-- Time of the generator's limit as a kick sets it (R418). -/
def State.kickLimitAt (s : State) : Nat := s.elapsed + 1000 * s.fld Fld.RDN_CFG_KICK_LIMIT_US 0

/-- A unit in a state, its watch over its partner begun anew. -/
def State.freshUnit (s : State) (u : Nat) (v : UnitState) : State :=
  s.setUnit u { state := v, fed := v == .RUNNING, meshAt := s.elapsed, sidebandAt := s.elapsed, kickDue := s.kickLimitAt }

/-- A unit is fenced: held in reset with number 0, and its self-test started. A Troupe half resets its eight cores. -/
def State.fence (s : State) (u : Nat) : State :=
  let s := s.freshUnit u .FENCED
  let t : Test := { kind := .controlUnit, index := BitVec.ofNat 32 u, cls := 1, cause := 7, scope := none }
  let s := { s with flt := { s.flt with tests := s.flt.tests ++ [t] } }
  let s := (s.bump .FLT_CONTAINED 0).plainAlarm 5 8 20 0 u
  if u < 4 then s
  else (List.range 8).foldl (fun s c => s.coreReset (16 * ((u - 4) / 2) + 8 * (u % 2) + c) 3) s

/-- The lead of a pair is lost (R420, R421): the gap opens for its understudy, or the scope is curtained at once. -/
def State.leadLost (s : State) (lead : Nat) : State :=
  if s.running (partner lead) then (s.openGap (lead / 2)).roleEvent (partner lead) 7
  else s.pairCurtain (lead / 2)

/-- The understudy of a pair is lost (R423). -/
def State.understudyLost (s : State) (u : Nat) : State := (s.fence u).roleEvent (partner u) 8

/-- A control unit fails its own hardware (R461): as if its partner had declared it lost. -/
def State.unitFails (s : State) (u : Nat) : State :=
  if !s.pairExists (u / 2) || !s.running u then s
  else if s.isLead u then s.leadLost u
  else s.understudyLost u

/-- A firmware copy reloads a unit: a CPC unit's SRAM as the section places it (R422, R431), from the reserved HBM. -/
def State.reloadUnit (s : State) (u : Nat) : State :=
  if u < 2 then
    let s := s.touchPairs 1
    { s with mem := { s.mem with sram := s.mem.sram.filter (fun x => x.1 / 16777216 != u) } }
  else s

/-- The verdict on a fenced unit (R422 steps 3 and 4). -/
def State.fenceEnds (s : State) (u : Nat) (lasting : Bool) : State :=
  let i := BitVec.ofNat 32 u
  match s.underTest .controlUnit i with
  | none => s
  | some t =>
    let bad := lasting || 3 ≤ (s.transients .controlUnit i).length
    let s := { s with flt := { s.flt with tests := s.flt.tests.filter (fun x => !(x.kind == ElementKind.controlUnit && x.index == i)) } }
    let s := s.testVerdict t (!lasting) true true 0
    let s :=
      if bad then s.setUnit u { state := .RETIRED }
      else ((s.reloadUnit u).freshUnit u .RUNNING).setUnit (partner u)
        { s.unit (partner u) with meshSilent := false, sidebandSilent := false, partnerLost := false, meshAt := s.elapsed,
                                  sidebandAt := s.elapsed }
    (s.equalNumbers (u / 2)).pairLeads (u / 2)

/-! ## Claims (R415) -/

def State.claimStatus (s : State) (c : Nat) : State := s.setFld Fld.RDN_STATUS_LAST_CLAIM 0 c

inductive ClaimKind where
  | takeover | rehearsal | tie
  deriving DecidableEq, Repr

/-- Block events that hold for a unit: an eviction record, an OFL event, a pending slot (R429, R151). -/
def State.blockEvents (s : State) (u : Nat) : Nat :=
  let hears := s.isLead u || s.flagAt Fld.RDN_CFG_EVENT_BOTH 0
  2 * flag (hears && !s.tbl.evicted.isEmpty) + 4 * flag (hears && !s.ofl.events.isEmpty) +
  8 * flag (hears && (List.range 288).any (fun j => s.fld Fld.CBD_PENDING_SLOTS j != 0))

/-- Requests left in a CPC unit's ring are lost: as its lead, or the vault's, changes (R429, R259). -/
def State.ringAbandoned (s : State) (u : Nat) : State :=
  s.setFld Fld.RDN_LOCAL_VRING_REQ_CONS u (s.fld Fld.RDN_LOCAL_VRING_REQ_PROD u)

/-- What follows a unit's taking the lead of its pair: block events that hold go to the new lead CPC unit, and vault requests that have
no reply are lost. -/
def State.leadTaken (s : State) (u : Nat) : State :=
  if u < 2 then
    (s.setReg .RDN_LOCAL_EVENTS u (BitVec.ofNat 64 ((s.reg .RDN_LOCAL_EVENTS u).toNat ||| s.blockEvents u))).ringAbandoned (partner u)
  else if u < 4 then (s.ringAbandoned 0).ringAbandoned 1
  else s

/-- A claim's number: one above the partner's, or the renormalisation. -/
def State.takeNumber (s : State) (u : Nat) : State :=
  (if s.number (partner u) = 65535 then ((s.setNumber u 1).setNumber (partner u) 0).bump .RDN_RENORMALISED 0
   else s.setNumber u (s.number (partner u) + 1)).leadTaken u

/-- A session ends before its END: its slot, erased when it opened, stays BLANK (R47, R60). -/
def State.endSession (s : State) : State :=
  match s.dev.session with
  | none => s
  | some x =>
    let d := { s.dev with session := none }
    { s with dev := if x.slotB then { d with reasonB := 1 } else { d with reasonA := 1 } }

/-- The numbers the gates of pair n test until the next ghost-light cycle: those before the first claim of this one (R415). -/
def State.claimMark (s : State) (n : Nat) : State :=
  if s.rdn.before.any (fun x => x.1 == n) then s
  else { s with rdn := { s.rdn with before := (n, s.number (2 * n), s.number (2 * n + 1)) :: s.rdn.before } }

/-- A claim of unit u (R415). An accepted claim ends the gap; a TAKEOVER fences the partner and is counted. -/
def State.claim (s : State) (u expect : Nat) (kind : ClaimKind) : State :=
  let p := partner u
  if !s.pairExists (u / 2) then s.claimStatus 0xAB
  else if !s.running u then s
  else if s.number u > s.number p then s.claimStatus 0xA9
  else if s.number p != expect then s.claimStatus 0xA8
  else
    let s := (((s.claimMark (u / 2)).takeNumber u).closeGap (u / 2)).claimStatus Code.OK
    let s := if u < 2 && kind = .takeover then s.endSession else s
    if kind = .takeover then
      let s := s.bump .RDN_SWITCHOVERS 0
      if s.running p then s.fence p else s
    else s

/-- A write of RDN_CLAIM by a requester: one whose cluster is not PAIRED has no pair. -/
def State.claimBy (s : State) (r : Requester) (expect : Nat) (kind : ClaimKind) : State :=
  match s.unitOf r with
  | none => s.claimStatus 0xAB
  | some u => s.claim u expect kind

/-! ## Heartbeats (R418, R419) -/

/-- A heartbeat of the partner reaches unit u on a path. After the partner was declared lost it is discarded. -/
def State.heartbeatIn (s : State) (u : Nat) (p : HbPath) : State :=
  let x := s.unit u
  if x.partnerLost || !s.pairExists (u / 2) then s
  else
    let y := match p with
      | .mesh => { x with meshSilent := false, meshAt := s.elapsed }
      | .sideband => { x with sidebandSilent := false, sidebandAt := s.elapsed }
    let s := s.setUnit u y
    let z := s.unit (partner u)
    if y.meshSilent || y.sidebandSilent || z.meshSilent || z.sidebandSilent then s
    else { s with rdn := { s.rdn with degraded := SMap.set pbaDefault (u / 2) false s.rdn.degraded } }

/-- The silence count of a unit's path has reached 700 ghost-light cycles (R419). -/
def State.pathQuiet (s : State) (u : Nat) (p : HbPath) : Bool :=
  let x := s.unit u
  let at_ := match p with
    | .mesh => x.meshAt
    | .sideband => x.sidebandAt
  decide (at_ + 28000 ≤ s.elapsed)

/-- A path of unit u is silent (R419): one alone degrades the pair, both together lose the partner.
A unit that is not RUNNING watches a lead partner only, whose loss curtains at once (R421). -/
def State.pathSilent (s : State) (u : Nat) (p : HbPath) : State :=
  let x := s.unit u
  if x.partnerLost || !s.pairExists (u / 2) || !s.running (partner u) || (x.state != .RUNNING && !s.isLead (partner u)) ||
      !s.pathQuiet u p then s
  else
    let y := match p with
      | .mesh => { x with meshSilent := true }
      | .sideband => { x with sidebandSilent := true }
    if y.meshSilent && y.sidebandSilent then
      let s := s.setUnit u { y with partnerLost := true }
      if s.isLead (partner u) then s.leadLost (partner u) else s.understudyLost (partner u)
    else
      let was := SMap.get pbaDefault s.rdn.degraded (u / 2)
      let s := { s.setUnit u y with rdn := { (s.setUnit u y).rdn with degraded := SMap.set pbaDefault (u / 2) true s.rdn.degraded } }
      if was then s else (s.bump .RDN_PATH_DEGRADED 0).plainAlarm 4 0 7 0 (u - u % 2)

/-! ## Rehearsals (R425, R426) -/

/-- The rehearsals of the pairs from n on: each pair that cannot rehearse is deferred and counted. -/
def State.rehearseFrom : Nat → Nat → State → State
  | 0, _, s => { s with rdn := { s.rdn with phase := .IDLE } }
  | fuel + 1, n, s =>
    if 10 ≤ n then { s with rdn := { s.rdn with phase := .IDLE } }
    else if !s.pairExists n then State.rehearseFrom fuel (n + 1) s
    else if s.running (2 * n) && s.running (2 * n + 1) && !SMap.get pbaDefault s.rdn.degraded n then
      let lead := if s.isLead (2 * n) then 2 * n else 2 * n + 1
      ({ s with rdn := { s.rdn with phase := .RAISED, pair := n, oldLead := lead, phaseAt := s.elapsed } }.roleEvent (2 * n) 9).roleEvent
        (2 * n + 1) 9
    else State.rehearseFrom fuel (n + 1) (s.bump .RDN_REHEARSAL_DEFERRED 0)

/-- The next pair after the one that rehearses. -/
def State.nextRehearsal (s : State) : State := State.rehearseFrom 11 (s.rdn.pair + 1) s

/-- The rehearsal interval ends, REHEARSAL_HOURS of device time after the last began. -/
def State.rehearsalDue (s : State) : State :=
  let hours := s.fld Fld.RDN_CFG_REHEARSAL_HOURS 0
  if hours = 0 || s.rdn.phase != .IDLE || decide (s.now < s.rdn.rehearsedAt + 3600000000000 * hours) then s
  else State.rehearseFrom 11 0 { s with rdn := { s.rdn with rehearsedAt := s.now } }

/-- YIELD from the lead: the gap starts, without the limit of R421. -/
def State.yieldBy (s : State) (u : Nat) : State :=
  if s.rdn.phase == .RAISED && u / 2 == s.rdn.pair && s.isLead u then
    { s with rdn := { s.rdn with phase := .YIELDED, oldLead := u, phaseAt := s.elapsed } }.setGap (u / 2) (.open false s.elapsed)
  else s

/-- Not yielded by 1 ms: deferred. -/
def State.yieldLate (s : State) : State :=
  if s.rdn.phase == .RAISED && decide (s.rdn.phaseAt + 1000000 ≤ s.elapsed) then (s.bump .RDN_REHEARSAL_DEFERRED 0).nextRehearsal else s

/-- DONE from the new lead: the roles are swapped. -/
def State.doneBy (s : State) (u : Nat) : State :=
  if s.rdn.phase == .YIELDED && u / 2 == s.rdn.pair && u != s.rdn.oldLead && s.isLead u then
    (s.bump .RDN_REHEARSALS 0).nextRehearsal
  else s

/-- A rehearsal fails (R426): the old lead gets the higher number, the understudy is fenced with LASTING. -/
def State.rehearsalFails (s : State) : State :=
  if s.rdn.phase == .YIELDED && decide (s.rdn.phaseAt + 1000000 ≤ s.elapsed) then
    let u := s.rdn.oldLead
    let s := (s.takeNumber u).fence (partner u)
    let s := (s.fenceEnds (partner u) true).roleEvent u 10
    ((s.bump .RDN_REHEARSAL_FAILED 0).closeGap (u / 2)).nextRehearsal
  else s

/-! ## Gate probe (R424) -/

/-- A probe by a core of a CPC unit: every gate applies its test to it. -/
def State.probeBy (s : State) (u : Nat) : State :=
  s.setReg .RDN_PROBE_STATUS 0 (BitVec.ofNat 64 ((if s.gatePasses u then 0x3F else 0) + 64))

/-! ## CPC frame rings (R430) -/

/-- Slot n of a ring of 16 KiB slots in the reserved HBM. -/
def ringSlot (base log n : Nat) : Nat := base + 16384 * (n % 2 ^ log)

/-- The next transmit slot of the lead CPC unit is read and its frame enters the switch core at port 334. -/
def State.cpcTransmit (s : State) : State :=
  match s.leadCpc with
  | none => s
  | some u =>
    let log := s.fld Fld.RDN_LOCAL_TX_CFG_LOG2_SLOTS u
    let prod := s.fld Fld.RDN_LOCAL_TX_PTR_PROD u
    let cons := s.fld Fld.RDN_LOCAL_TX_PTR_CONS u
    if !s.flagAt Fld.RDN_LOCAL_TX_CFG_ENABLE u || ringHeld prod cons (2 ^ log) == 0 then s
    else if !s.pairsAwake 1 then s.touchPairs 1
    else
      let b := readMem s.mem.hb0 (ringSlot (s.fld Fld.RDN_LOCAL_TX_CFG_BASE u) log cons) 16384
      let len := leAt b 0 2
      let s := s.setFld Fld.RDN_LOCAL_TX_PTR_CONS u ((cons + 1) % (2 * 2 ^ log))
      if len < 14 || 10236 < len || 16 ≤ leAt b 2 1 || 64 ≤ leAt b 3 1 || 16 ≤ leAt b 4 1 || 4 ≤ leAt b 5 1 || !allZero (slice b 8 8) then
        s.bump .RDN_CPC_TX_BAD 0
      else
        let e : EmitFlags := { useTable := bit (leAt b 2 1) 3, table := BitVec.ofNat 6 (leAt b 3 1), csum := BitVec.ofNat 8 (leAt b 4 1),
                               ts := BitVec.ofNat 8 (leAt b 5 1), tag := BitVec.ofNat 16 (leAt b 6 2) }
        s.newFrame { id := 0, inPort := 334, passPort := 334, octets := withFcs (slice b 16 len) false, ended := true,
                     rxClass := leAt b 2 1 % 8, time := s.now, emit := some e }

/-- A unit is written into the receive ring of the unit that leads, or lost. -/
def State.cpcRing (s : State) (kind : Nat) (head body : List Byte) : State :=
  match s.leadCpc with
  | none => s.bump .RDN_CPC_RX_LOST 0
  | some u =>
    let log := s.fld Fld.RDN_LOCAL_RX_CFG_LOG2_SLOTS u
    let prod := s.fld Fld.RDN_LOCAL_RX_PTR_PROD u
    let cons := s.fld Fld.RDN_LOCAL_RX_PTR_CONS u
    if !s.flagAt Fld.RDN_LOCAL_RX_CFG_ENABLE u || ringHeld prod cons (2 ^ log) == 2 ^ log then s.bump .RDN_CPC_RX_LOST 0
    else
      let slot := toLE 1 kind ++ [0, 0, 0] ++ toLE 4 body.length ++ List.replicate 8 0 ++ slice head 0 48 ++ body
      let s := { s with mem := { s.mem with hb0 := writeMem s.mem.hb0 (ringSlot (s.fld Fld.RDN_LOCAL_RX_CFG_BASE u) log prod) slot } }
      (s.setFld Fld.RDN_LOCAL_RX_PTR_PROD u ((prod + 1) % (2 * 2 ^ log))).unitEvent u 12

/-- The first unit for the lead CPC that has arrived is written, once its tail is final; f names its frame. -/
def State.cpcReceive (s : State) (f : Nat) : State :=
  let mine := s.swc.arrived.filter (fun k => k.port == 334 && (match s.frame? k.frame with | some x => forLeadCpc k x | none => false))
  match mine.head? with
  | none => s
  | some k =>
    match (s.frame? k.frame).map (s.shown k) with
    | none => s
    | some x =>
      if k.frame != f || !x.ended then s
      else if !s.pairsAwake 1 then s.touchPairs 1
      else
        let s := match k.kind with
          | .sample snap _ depth port => s.cpcRing 2 (sampleHeader x port depth x.octets.length) (x.octets.take (128 * snap))
          | _ =>
            let body := x.octets.take (x.octets.length - 4)
            if x.bad then s else s.cpcRing 1 (slowHeader x body.length) body
        s.takeArrived k

/-! ## The CPC_FIRMWARE section (R431) and the numbers at the end of LOADING (R411) -/

def cpcInvalid (b : List Byte) : Bool :=
  let len := leAt b 8 4
  len < 4 || 16777216 < len || len ≤ leAt b 4 4 || 1 < leAt b 12 1 || 1 < leAt b 13 1 || leAt b 14 2 < 400 || 25600 < leAt b 14 2 ||
  720 < leAt b 16 2 || leAt b 18 2 < 100 || 50000 < leAt b 18 2 || b.length < 32 + len

def State.loadCpc (s : State) (b : List Byte) : State :=
  let s := { s with rdn := { s.rdn with cpcBody := b }, mem := { s.mem with sram := [] }, dev := { s.dev with cpcStarted := true } }
  let s := s.setFld Fld.SYS_CPC_FW_VERSION_VERSION 0 (leAt b 0 4)
  s.setReg .RDN_CFG 0 (BitVec.ofNat 64 (leAt b 13 1 % 2 + leAt b 14 2 % 2 ^ 15 * 2 + leAt b 16 2 % 2 ^ 10 * 2 ^ 16 + leAt b 18 2 * 2 ^ 26))

/-- Byte of a CPC unit's SRAM as its section loads it. -/
def State.sramByte (s : State) (a : Nat) : Byte :=
  let off := a % 16777216
  if off < leAt s.rdn.cpcBody 8 4 then BitVec.ofNat 8 (beAt s.rdn.cpcBody (32 + off) 1) else 0

/-- Units and numbers at the end of LOADING (R411): the first of a pair that is RUNNING takes 1. -/
def State.billPair (s : State) (n first : Nat) : State :=
  if !s.pairExists n then (s.setUnit (2 * n) {}).setUnit (2 * n + 1) {}
  else
    let retired := fun u => s.isRetired .controlUnit (BitVec.ofNat 32 u)
    let fresh := fun (s : State) u => s.freshUnit u (if retired u then .RETIRED else .RUNNING)
    let s := fresh (fresh s (2 * n)) (2 * n + 1)
    if !retired first then s.setNumber first 1
    else if !retired (partner first) then s.setNumber (partner first) 1
    else s.pairCurtain n

def State.billAll (s : State) : State :=
  let s := { s with rdn := { s.rdn with rehearsedAt := s.now } }
  (List.range 10).foldl (fun s n => (s.closeGap n).billPair n (2 * n + (if n = 0 then leAt s.rdn.cpcBody 12 1 % 2 else 0))) s

end Sys2Proof.Machine
end

