-- ==== Sys2Proof/Machine/Ports.lean ====
section
/-! DEFINITION. Network ports, optical engines and laser modules (R88 to R99, R102 to R106, R110, R111): lane plans,
landing-buffer shares, port configuration, the modules, and received pause. -/

namespace Sys2Proof.Machine

/-! ## Lane plans (R88, R89, R91) -/

/-- Type of local port j in a plan. -/
def planType (plan j : Nat) : Nat := bits plan (4 * j) 4

/-- Local port j obeys its placement rule. -/
def placed (plan j : Nat) : Bool :=
  match planType plan j with
  | 0 => true
  | 1 => true
  | 2 => true
  | 3 => j % 2 == 0 && planType plan (j + 1) == 0
  | 4 => j % 4 == 0 && planType plan (j + 1) == 0 && planType plan (j + 2) == 0 && planType plan (j + 3) == 0
  | _ => false

/-- A plan obeys R88 and R89. -/
def planValid (plan : Nat) : Bool := (List.range 16).all (placed plan) && (List.range 16).any (fun j => planType plan j != 0)

def State.planRefused (s : State) (e : Nat) : State := s.setFld Fld.OPT_ENGINE_STATUS_PLAN_REFUSED e 1

/-- A port loses its pause state without sending XON. -/
def State.clearPause (s : State) (p : Nat) : State := s.setPort p { s.port p with paused := false, classPaused := 0, xoff := 0 }

/-- A port whose type changes: its frames end, its landing buffer and its pause state are cleared (R91). -/
def State.replanned (s : State) (p : Nat) : State := (s.fallPort p).clearPause p

/-- A write of OPT_ENGINE_PLAN (R89, R91). -/
def State.planWrite (s : State) (e : Nat) (plan : Word) : State :=
  if !planValid plan.toNat then s.planRefused e
  else
    let old := (s.reg .OPT_ENGINE_PLAN e).toNat
    let moved := ((List.range 16).filter (fun j => planType old j != planType plan.toNat j)).map (16 * e + ·)
    let s := moved.foldl (fun s p => s.replanned p) (s.setReg .OPT_ENGINE_PLAN e plan)
    s.curtainRetired ((List.range 16).map (16 * e + ·))

/-- Landing-buffer cells of an engine with local port j at n (R106). -/
def State.landingSum (s : State) (e j n : Nat) : Nat :=
  ((List.range 16).map (fun i => if i = j then n else s.fld Fld.OPT_LB_CELLS_CELLS (16 * e + i))).sum

/-- A write of OPT_LB_CELLS (R106). -/
def State.lbCellsSet (s : State) (e j n : Nat) : State :=
  if 6144 < s.landingSum e j (n % 8192) then s.planRefused e else s.setFld Fld.OPT_LB_CELLS_CELLS (16 * e + j) (n % 8192)

/-! ## Port configuration (R100, R102, R104, R116) -/

/-- A frame that reached MAX_FRAME without ending is ended there (R100). -/
def State.oversize (s : State) (x : Frame) : State :=
  (s.bump .PRT_RX_OVERSIZE x.inPort).cutFrame x

/-- Frames being received on a port. -/
def State.receiving (s : State) (p : Nat) : List Frame :=
  s.swc.frames.filter (fun x => x.incoming && x.inPort == p)

/-- XON for everything held off, as the mode in force sends it (R104). -/
def State.releaseAll (s : State) (p : Nat) : State :=
  (List.range 8).foldl (fun s c => if (s.port p).xoff.getLsbD c then s.sendPause p c false else s) s

/-- A write of PRT_CONFIG (R104, R116). -/
def State.prtConfig (s : State) (p : Nat) (v : Nat) : State :=
  let on := bits v 0 1
  let mode := bits v 1 2
  let max := bits v 8 14
  let s := if s.flagAt Fld.PRT_CONFIG_ENABLE p && on == 0 then (s.setFld Fld.PRT_CONFIG_ENABLE p 0).replanned p else s.setFld Fld.PRT_CONFIG_ENABLE p on
  let s := if mode == 3 || mode == s.pauseMode p then s else ((s.releaseAll p).setFld Fld.PRT_CONFIG_PAUSE_MODE p mode).pauseCheck p
  if max < 1518 || 10240 < max then s
  else
    let s := s.setFld Fld.PRT_CONFIG_MAX_FRAME p max
    ((s.receiving p).filter (fun x => max < x.octets.length)).foldl (fun s x => s.oversize x) s

/-- A write of PRT_PFC_WM (R104). -/
def State.pfcWm (s : State) (p c : Nat) (v mask : Word) : State :=
  let new := plainWritten (RegName.info .PRT_PFC_WM).fields (s.reg .PRT_PFC_WM (8 * p + c)).toNat v.toNat mask.toNat
  if bits new 0 20 ≤ bits new 32 20 then s else (s.setReg .PRT_PFC_WM (8 * p + c) (BitVec.ofNat 64 new)).pauseCheck p

/-- XOFF is sent again while it holds (R103). -/
def State.xoffAgain (s : State) (p c : Nat) : State :=
  if (s.port p).xoff.getLsbD c && decide (SMap.get noTime (s.port p).xoffAt c + s.quantaTime p (s.fld Fld.PRT_PAUSE_TIME_QUANTA p) / 2 ≤ s.elapsed) then
    s.sendPause p c true
  else s

/-! ## Received pause (R102, R105) -/

/-- Classes the enabled priorities of a PFC frame stop or release. -/
def State.pfcClasses (s : State) (p : Nat) (enable : BitVec 8) (times : BitVec 128) : BitVec 8 :=
  BitVec.ofNat 8 ((List.range 8).foldl (fun v q =>
    if enable.getLsbD q then setBits v (bits (s.fld Fld.PRT_CLASS_MAP_CLASS p) (3 * q) 3) 1 (flag (bits times.toNat (16 * q) 16 != 0)) else v)
    (s.port p).classPaused.toNat)

/-- Times at which the pauses of the classes of a PFC frame end: a new frame replaces the remaining time. -/
def State.pfcEnds (s : State) (p : Nat) (enable : BitVec 8) (times : BitVec 128) : SMap Nat :=
  ((List.range 8).filter enable.getLsbD).foldl (fun m q =>
    SMap.set noTime (bits (s.fld Fld.PRT_CLASS_MAP_CLASS p) (3 * q) 3) (s.elapsed + s.quantaTime p (bits times.toNat (16 * q) 16)) m) (s.port p).ends

/-- A PAUSE or PFC frame of 64 octets is received on a port. times holds a time for each priority, or the port's in its
low 16 bits. It is consumed; one with a bad FCS is ignored, one of the kind not selected is discarded and counted. -/
def State.pauseIn (s : State) (p : Nat) (pfc : Bool) (enable : BitVec 8) (times : BitVec 128) (fcsGood : Bool) : State :=
  if !s.portUsable p then s
  else
    let s := (s.bump .PRT_RX_FRAMES p).bumpBy .PRT_RX_OCTETS p 64
    if !fcsGood then s.bump .PRT_RX_FCS_ERROR p
    else if s.pauseMode p == 2 && pfc then
      s.setPort p { s.port p with classPaused := s.pfcClasses p enable times, ends := s.pfcEnds p enable times }
    else if s.pauseMode p == 1 && !pfc then
      let n := bits times.toNat 0 16
      s.setPort p { s.port p with paused := n != 0, ends := SMap.set noTime 8 (s.elapsed + s.quantaTime p n) (s.port p).ends }
    else s.bump .PRT_PAUSE_RX p

/-- A received pause time runs out (R105): the port's, or a class's. -/
def State.pauseEnds (s : State) (p : Nat) (c : Option Nat) : State :=
  if s.elapsed < SMap.get noTime (s.port p).ends (c.getD 8) then s
  else match c with
  | none => s.setPort p { s.port p with paused := false }
  | some c => s.setPort p { s.port p with classPaused := BitVec.ofNat 8 (setBits (s.port p).classPaused.toNat c 1 0) }

/-! ## Link state (R90) -/

/-- A lane of the port is under test (R461): the port is down and its modulators are stopped. -/
def State.laneTested (s : State) (p : Nat) : Bool := (s.portLanes p).any (fun l => (s.underTest .opticalLane (BitVec.ofNat 32 l)).isSome)

/-- LINK_UP rises: an enabled port that is not curtained, none of its lanes under test (R461). -/
def State.portLinkUp (s : State) (p : Nat) : State :=
  if s.portType p != 0 && s.flagAt Fld.PRT_CONFIG_ENABLE p && !s.portCurtained p && !s.laneTested p then s.setPort p { s.port p with linkUp := true } else s

/-! ## Transmit timestamps (R110, R111) -/

/-- The transmit timestamp of a frame starting now. -/
def State.txTime (s : State) (p : Nat) : Nat := (16 * s.now + s.fld Fld.PRT_TS_LATENCY_TX_LAT p) / 16
def State.rxTime (s : State) (p : Nat) : Nat := (16 * s.now - s.fld Fld.PRT_TS_LATENCY_RX_LAT p) / 16

/-- (time, tag) enters the port's FIFO of 64, or is lost. -/
def State.pushStamp (s : State) (p : Nat) (tag : BitVec 16) : State :=
  let x := s.port p
  if x.stamps.length < 64 then s.setPort p { x with stamps := x.stamps ++ [(tag, s.txTime p)] } else s.bump .PRT_TS_LOST p

def State.popStamp (s : State) (p : Nat) : State := s.setPort p { s.port p with stamps := (s.port p).stamps.tail }

/-! ## Laser source modules (R92 to R99) -/

/-- A life record is whole and its CRC holds (R96). -/
def lifeOk (r : List Byte) : Bool := r.length == 32 && leAt r 28 4 == (crc32c 0 (r.take 28)).toNat

/-- A life record as the log holds it. -/
def lifeOf (r : List Byte) : LifeRecord :=
  { seq := BitVec.ofNat 32 (leAt r 0 4), hours := BitVec.ofNat 32 (leAt r 4 4), bias := BitVec.ofNat 128 (leAt r 8 16), temp := BitVec.ofNat 16 (leAt r 24 2) }

def LifeRecord.biasOf (r : LifeRecord) (c : Nat) : Nat := bits r.bias.toNat (16 * c) 16

/-- The 32 bytes of a life record (R96). -/
def LifeRecord.bytes (r : LifeRecord) : List Byte :=
  let b := toLE 4 r.seq.toNat ++ toLE 4 r.hours.toNat ++ toLE 16 r.bias.toNat ++ toLE 2 r.temp.toNat ++ toLE 2 0
  b ++ toLE 4 (crc32c 0 b).toNat

/-- A laser channel emits (R92). -/
def State.channelLit (s : State) (e c : Nat) : Bool :=
  bit (s.fld Fld.OPT_LASER_CTRL_LASER_EN e) c && (s.lsm e).state == .READY &&
  (List.range 16).any (fun j =>
    let p := 16 * e + j
    s.flagAt Fld.PRT_CONFIG_ENABLE p && !s.portCurtained p && (s.portLanes p).any (fun l => (l % 32) / 4 == c))

/-- The lit hours a channel has left by the line fitted to its last 30 records (R97), rounded towards zero; none where the
line does not rise and so never reaches the end of life. -/
def hoursLeft (h : List LifeRecord) (eol c lit : Nat) : Option Nat :=
  let last := h.drop (h.length - 30)
  let n : Int := 30
  let x := fun (r : LifeRecord) => (r.hours.toNat : Int)
  let y := fun (r : LifeRecord) => (r.biasOf c : Int)
  let sx := (last.map x).sum
  let sy := (last.map y).sum
  let d := n * (last.map (fun r => x r * x r)).sum - sx * sx
  let m := n * (last.map (fun r => x r * y r)).sum - sx * sy
  let i0 : Int := ((h.head?.map (fun r => r.biasOf c)).getD 0 : Nat)
  let now : Int := lit
  if m ≤ 0 then none
  else some (((n * i0 * (1000 + (eol : Int)) - 1000 * sy) * d + 1000 * sx * m - now * (1000 * n * m)).tdiv (1000 * n * m)).toNat

/-- Lit hours now: those of the last record and the time since it (R117). -/
def State.litHours (s : State) (e : Nat) : Nat :=
  let v := s.lsm e
  if v.state == .READY then v.hours.toNat + (s.elapsed - v.since) / 3600000000000 else v.hours.toNat

/-- The smallest remaining time over the lit channels (R97): 0xFFFFFFFF with fewer than 30 valid records or no lit channel. A channel
whose line never reaches the end of life has a free value, drawn with the last record (assumption log entry 30). -/
def State.lifeLeft (s : State) (e : Nat) : Nat :=
  let v := s.lsm e
  if v.history.length < 30 then 0xFFFFFFFF
  else (List.range 8).foldl (fun a c =>
    if s.channelLit e c then min a ((hoursLeft v.history v.biasEol.toNat c (s.litHours e)).getD (bits (Config.free (v.draw + c)).toNat 0 32))
    else a) 0xFFFFFFFF

/-- The wear condition (R97). -/
def State.worn (s : State) (e : Nat) : Bool :=
  let v := s.lsm e
  decide (9 * v.rated.toNat ≤ 10 * s.litHours e) || (decide (30 ≤ v.history.length) && decide (10 * s.lifeLeft e < v.rated.toNat))

/-- The wear condition of a module that is READY is judged; as it begins to hold, the error is counted and the LSM_WEAR alarm raised
(R97, R471). -/
def State.judgeWear (s : State) (e : Nat) : State :=
  let v := s.lsm e
  if v.state != .READY then s
  else if s.worn e && !v.wear then
    let s := (s.setLsm e { v with wear := true }).countError .corrected
    s.nextSeq.alarm 3 (s.recordOf 0 0 .none (BitVec.ofNat 32 e) 12 none 0)
  else s.setLsm e { v with wear := s.worn e }

/-- Every module's wear, as time passes. -/
def State.judgeModules (s : State) : State := (List.range 16).foldl (fun s e => s.judgeWear e) s

/-- A life record is appended (R96), written to its slot of the module's EEPROM, and wear predicted. -/
def State.appendLife (s : State) (e : Nat) (hours : BitVec 32) (bias : BitVec 128) (temp : BitVec 16) : State :=
  let v := s.lsm e
  let seq : BitVec 32 := match v.history.getLast? with | some r => r.seq + 1 | none => 0
  let r : LifeRecord := { seq := seq, hours := hours, bias := bias, temp := temp }
  let s := s.setLsm e { v with history := (v.history ++ [r]).drop (v.history.length + 1 - 4096), hours := hours, since := s.elapsed, draw := s.draws }
  ((s.drewN 8).emit (.eeprom e (0x1000 + 32 * (seq.toNat % 4096)) r.bytes)).judgeWear e

/-- The record of an orderly shutdown (R96), of a module that is READY; what it measures is free. -/
def State.shutLife (s : State) (e : Nat) : State :=
  if (s.lsm e).state != .READY then s
  else (s.drewN 18).appendLife e (BitVec.ofNat 32 (s.litHours e)) (BitVec.ofNat 128 (leNat (s.freeBytes 16)))
    (BitVec.ofNat 16 (leNat ((s.drewN 16).freeBytes 2)))
def State.shutModules (s : State) : State := (List.range 16).foldl (fun s e => s.shutLife e) s

/-- Verification starts (R94): the module is brought up by SETDASA from 0x50 (R99), and its challenge is drawn (R265). -/
def State.bringUp (s : State) (e : Nat) (v : Lsm) : State :=
  let r := s.drbg 32
  (r.2.setLsm e { v with state := .IDENTIFYING, reject := 0, challenge := r.1, begun := s.elapsed }).emit (.setDasa e 0x50)

/-- A module becomes present (R94): its verification starts where the device runs. -/
def State.lsmInsert (s : State) (e : Nat) : State :=
  let s := { s with pins := { s.pins with lsmPresent := BitVec.ofNat 16 (setBits s.pins.lsmPresent.toNat e 1 1) } }
  if (s.lsm e).state == .ABSENT && s.mapAnswers then s.bringUp e {} else s

/-- Step 1 and step 2 of R94: the reason of the first check that fails, 0 when all pass. -/
def State.identityVerdict (s : State) (v : LsmVerify) : Nat :=
  if leAt v.identity 0 2 != 1 || leAt v.identity 0x20 4 != (crc32c 0 (v.identity.take 32)).toNat then 2
  else if leAt v.identity 0x14 2 != 1 then 3
  else if v.certLength.toNat < 1 || 2048 < v.certLength.toNat || v.cert.length != v.certLength.toNat ||
      !s.vlt.lsmRoots.any (fun r => Config.chainVerify r v.cert) then 4
  else if Config.certSubject v.cert != slice v.identity 2 18 then 5
  else 0

/-- Step 3: the signature of the certificate's key over the challenge and SYS_SERIAL. -/
def State.challengeMet (s : State) (e : Nat) (v : LsmVerify) : Bool :=
  Config.ecdsaVerify (Config.chainKeys v.cert) ((s.lsm e).challenge ++ toLE 8 Config.serial.toNat) v.signature

/-- The verification of a module rejects it. -/
def State.reject (s : State) (e reason : Nat) (i2c : Bool) : State :=
  s.setLsm e { s.lsm e with state := .REJECTED, reject := BitVec.ofNat 4 reason, i2c := i2c }

/-- Verification ends (R94, R95); the challenge goes out once steps 1 and 2 pass. -/
def State.lsmVerified (s : State) (e : Nat) (v : LsmVerify) : State :=
  if (s.lsm e).state != .IDENTIFYING then s
  else if s.identityVerdict v != 0 then s.reject e (s.identityVerdict v) v.i2c
  else
    let s := s.emit (.challenge e (s.lsm e).challenge)
    if !s.challengeMet e v then s.reject e 6 v.i2c
    else
      let log := (v.log.filter lifeOk).map lifeOf
      let hours : BitVec 32 := match log.getLast? with | some r => r.hours | none => 0
      let x : Lsm := { state := .READY, i2c := v.i2c, rated := BitVec.ofNat 32 (leAt v.identity 0x18 4),
                       biasEol := BitVec.ofNat 16 (leAt v.identity 0x1C 2), hours := hours, since := s.elapsed, history := log, draw := s.draws }
      ((s.drewN 8).setLsm e x).judgeWear e

/-- The module did not answer within 2 s (R94): its SETDASA went unacknowledged too (R99). -/
def State.lsmSilent (s : State) (e : Nat) : State :=
  if (s.lsm e).state == .IDENTIFYING && decide ((s.lsm e).begun + 2000000000 ≤ s.elapsed) then s.reject e 1 true else s

/-- A module is removed (R98): its engine's lanes go down, its frames end badly, and it is ABSENT. -/
def State.lsmRemove (s : State) (e : Nat) : State :=
  let s := { s with pins := { s.pins with lsmPresent := BitVec.ofNat 16 (setBits s.pins.lsmPresent.toNat e 1 0) } }
  let s := (List.range 16).foldl (fun s j => s.portDown (16 * e + j)) s
  s.setLsm e {}

/-- EJECT and RETRY (R95). -/
def State.lsmEject (s : State) (e : Nat) : State := if (s.lsm e).state == .READY then s.setLsm e { s.lsm e with state := .EJECTING } else s
def State.lsmRetry (s : State) (e : Nat) : State :=
  if (s.lsm e).state == .REJECTED then s.bringUp e (s.lsm e) else s

/-- The eject completes (R95): the record is appended and the lasers are off. -/
def State.lsmEjected (s : State) (e : Nat) (hours : BitVec 32) (bias : BitVec 128) (temp : BitVec 16) : State :=
  if (s.lsm e).state == .EJECTING then
    let s := s.appendLife e hours bias temp
    s.setLsm e { s.lsm e with state := .EJECT_READY }
  else s

/-- 24 h of READY (R96). -/
def State.lsmLife (s : State) (e : Nat) (hours : BitVec 32) (bias : BitVec 128) (temp : BitVec 16) : State :=
  if (s.lsm e).state == .READY then s.appendLife e hours bias temp else s

/-- A channel fails (R97): marked, the ports on its lanes taken down, and a lasting fault reported against the module, so
with no retirement record. -/
def State.channelFails (s : State) (e c : Nat) : State :=
  let v := s.lsm e
  if v.state == .ABSENT || v.channelFault.getLsbD c then s
  else
    let s := s.setLsm e { v with channelFault := BitVec.ofNat 8 (setBits v.channelFault.toNat c 1 1) }
    let ps := ((List.range 16).map (16 * e + ·)).filter (fun p => (s.portLanes p).any (fun l => (l % 32) / 4 == c))
    let s := ps.foldl (fun s p => s.portDown p) s
    let s := (s.countError .contained).bump .FLT_LASTING 0
    let r := s.recordOf 1 2 .none (BitVec.ofNat 32 e) 13 none (BitVec.ofNat 32 c)
    (s.writeRecord r).alarm 0 r

/-- The module's alarm status is read (R99): on an in-band interrupt in I3C mode, by the 100 ms poll in I2C mode. -/
def State.lsmAlarm (s : State) (e : Nat) (poll : Bool) (alarm : BitVec 8) : State :=
  let v := s.lsm e
  if v.state == .ABSENT || v.i2c != poll then s else (s.setLsm e { v with alarm := alarm }).emit (.readAlarm e)

end Sys2Proof.Machine
end

