-- ==== Sys2Proof/Machine/Scene.lean ====
section
/-! DEFINITION. Scene commits, activations, drainage and forcing (R134 to R138). -/

namespace Sys2Proof.Machine

/-- The activation time the registers hold, in nanoseconds of device time. -/
def State.actTime (s : State) : Nat :=
  (s.fld Fld.CLS_SCENE_ACT_TIME_HIGH_SECONDS_HIGH 0 * 2 ^ 32 + s.fld Fld.CLS_SCENE_ACT_TIME_SECONDS_LOW 0) * 1000000000 +
  s.fld Fld.CLS_SCENE_ACT_TIME_NANOSECONDS 0

/-- The lowest-numbered FREE slot. -/
def State.freeSceneSlot (s : State) : Option Nat := (s.slots.find? (fun x => x.2.state == .FREE)).map (·.1)

def State.setScene (s : State) (x : Scenes) : State := { s with scn := x }

/-- Slot n becomes CURRENT with a scene; the one that was CURRENT drains (R135). -/
def State.makeCurrent (s : State) (n : Nat) (sc : BitVec 16) : State :=
  let s := s.slots.foldl (fun s x => if x.2.state == .CURRENT then s.setSlot x.1 { x.2 with state := .DRAINING, since := s.elapsed } else s) s
  let s := s.setSlot n { scene := sc, state := .CURRENT }
  s.setScene { s.scn with current := sc, pending := sc + 1 }

/-- The status of a commit write (R138), and the slot it takes. -/
def State.commitCheck (s : State) (sc : BitVec 16) (timed : Bool) : Nat × Nat :=
  if sc != s.scn.pending then (0x91, 0)
  else if s.armedSlot.isSome then (0x92, 0)
  else match s.freeSceneSlot with
    | none => (Code.COMMIT_BUSY, 0)
    | some n => if timed && s.actTime ≤ s.now then (0x90, 0) else (Code.OK, n)

/-- A commit write (R138). -/
def State.sceneCommit (s : State) (sc : BitVec 16) (timed : Bool) : State :=
  let c := s.commitCheck sc timed
  let s := s.setScene { s.scn with lastStatus := BitVec.ofNat 8 c.1 }
  if c.1 != Code.OK then s
  else if timed then (s.setSlot c.2 { scene := sc, state := .ARMED }).setScene
    { (s.setSlot c.2 { scene := sc, state := .ARMED }).scn with activation := s.actTime }
  else s.makeCurrent c.2 sc

/-- CANCEL (R138): in the cycle of the activation, the activation wins. A FULL stack scene that was armed is armed no longer (R444). -/
def State.sceneCancel (s : State) : State :=
  match s.armedSlot with
  | some n => if s.scn.activation ≤ s.now then s else { s.setSlot n {} with stk := { s.stk with fullArmed := false } }
  | none => s

/-- The armed commit acts once device time has reached its activation time. -/
def State.sceneActivate (s : State) : State :=
  match s.armedSlot with
  | some n => if s.scn.activation ≤ s.now then s.makeCurrent n (s.slot n).scene else s
  | none => s

/-- A draining or forced scene's in-flight count is zero: its slot is FREE (R136, R137). -/
def State.sceneDrained (s : State) (n : Nat) : State :=
  let x := s.slot n
  if (x.state = .DRAINING ∨ x.state = .FORCED) ∧ s.inflight x.scene = 0 then s.setSlot n {} else s

/-- A copy's frame is of a scene. -/
def State.ofScene (s : State) (k : Copy) (sc : BitVec 16) : Bool :=
  match s.frame? k.frame with
  | some x => x.ticket.scene == sc
  | none => false

/-- The copy has begun to leave: on its port, or toward a host. -/
def State.leaving (s : State) (k : Copy) : Bool := (k.started && k.port < 256) || s.qrg.rx.any (fun j => j.frame == k.frame && j.sent != 0 && k.port == 256 + j.link)

/-- DROP_SCENE_RETIRED (R132) becomes the reason of a frame. -/
def Frame.sceneRetired (x : Frame) : Frame := { x with ticket := { x.ticket with reason := 0x12 } }

/-- The copies that a test picks leave their queues and their ports, each counted and the next head tagged afresh. -/
def State.purgeEach (pick : Copy → Bool) : Nat → State → State
  | 0, s => s
  | n + 1, s => match s.swc.copies.find? pick with
    | none => s
    | some k => State.purgeEach pick n (s.discardCopy k .CLS_FORCED_DROPS)

/-- A scene's frames are purged (R137): every copy that has not begun to leave is dropped and counted, its frame's reason being
DROP_SCENE_RETIRED. -/
def State.scenePurge (s : State) (sc : BitVec 16) : State :=
  let idle := fun k => s.ofScene k sc && !s.leaving k
  let hit := ((s.swc.copies ++ s.swc.samples ++ s.swc.arrived).filter idle).map (·.frame)
  let s := State.purgeEach idle s.swc.copies.length s
  let s := { s with swc := { s.swc with frames := s.swc.frames.map (fun (x : Frame) => if hit.contains x.id then x.sceneRetired else x) } }
  let n := (s.swc.samples.filter idle).length + (s.swc.arrived.filter idle).length
  ({ s with swc := { s.swc with samples := s.swc.samples.filter (fun k => !idle k), arrived := s.swc.arrived.filter (fun k => !idle k) } }.bumpBy
    .CLS_FORCED_DROPS 0 n).collect

/-- The retire limit of a draining scene, counted from the commit that ended it as CURRENT (R137). -/
def State.sceneForced (s : State) (n : Nat) : State :=
  let x := s.slot n
  if x.state = .DRAINING ∧ x.since + s.fld Fld.CLS_RETIRE_LIMIT_MS 0 * 1000000 ≤ s.elapsed then
    (s.setSlot n { x with state := .FORCED }).scenePurge x.scene else s

/-- The scene of a frame is FORCED: it is dropped where it re-enters. -/
def State.sceneIsForced (s : State) (sc : BitVec 16) : Bool := s.slots.any (fun x => x.2.state == .FORCED && x.2.scene == sc)

/-- Scene 0 becomes current at the end of LOADING (R134). -/
def State.sceneStart (s : State) : State :=
  s.setScene { slots := SMap.set slotDefault 0 { scene := 0, state := .CURRENT } [], current := 0, pending := 1 }

end Sys2Proof.Machine
end

