-- ==== Sys2Proof/Machine/Power.lean ====
section
/-! DEFINITION. Power domains, clocks, supplies and temperature (R448 to R458, R473 to R480). Domain numbers are those of R451;
rails are numbered as GLT_SUPPLY_STATUS numbers them. -/

namespace Sys2Proof.Machine

/-! ## Quiescence counters (R454) -/

/-- Transfers that touch a network-quarter domain. -/
def State.countNq (s : State) (e : Nat) : Nat :=
  (s.swc.frames.filter (fun x => x.passPort < 256 && x.passPort / 16 == e && (x.phase == .arriving || x.phase == .looking))).length +
  (s.swc.copies.filter (fun k => k.port < 256 && k.port / 16 == e && k.started)).length +
  ((s.prt.ports.filter (fun x => x.1 / 16 == e)).map (fun x => x.2.stamps.length)).sum

/-- Transfers that touch a host-pair domain. -/
def State.countHp (s : State) (d : Nat) : Nat :=
  let mine := fun (h : Nat) => h / 2 == d
  ((List.range 2).map (fun i => (s.outstanding (2 * d + i)).length + s.portBlocks (2 * d + i) + s.queueBlocks (2 * d + i))).sum +
  (s.hep.quarantine.filter (fun q => mine q.port)).length + (s.qrg.rx.filter (fun j => mine (j.link / 4))).length +
  ((s.hep.links.filter (fun x => mine (x.1 / 4))).map (fun x =>
    x.2.pf0.pba.length + x.2.pf1.pba.length + flag x.2.pf0.flr + flag x.2.pf1.flr)).sum

/-- Transfers that touch a cipher group. -/
def State.countCg (s : State) (g : Nat) : Nat :=
  (s.cph.engines.filter (fun x => groupOf x.1 == 24 + g && (x.2.work != .idle || x.2.state == .TESTING))).length

/-- Transfers that touch a Troupe cluster. -/
def State.countTc (s : State) (n : Nat) : Nat :=
  (s.trp.threads.filter (fun x => x.1 / 256 == n && (match x.2.state, x.2.wait with
    | .RUNNING, _ => true
    | .HALTED, _ => true
    | .WAITING, some (_, _, due) => due.isSome
    | _, _ => false))).length + (s.trp.ops.filter (fun o => o.thread / 256 == n)).length

/-- Accesses outstanding to a pair's stacks: flow entries being filled, and contexts being loaded. -/
def State.countHb (s : State) (pair : Nat) : Nat :=
  (if bit s.tbl.placement.flow pair then s.tbl.fills.length else 0) +
  (if bit s.tbl.placement.ctx pair then (s.cph.ctxs.filter (fun x => x.2.wait)).length else 0)

/-- The quiescence counter of a domain (R454), the register accesses that wait for it among them (R77), and the channels of the bulk
mover that use its memory (R21). -/
def State.domainCount (s : State) (d : Nat) : Nat :=
  (if d < 16 then s.countNq d else if d < 24 then s.countHp (d - 16) else if d < 30 then s.countCg (d - 24)
   else if d < 38 then s.countTc (d - 30) else s.countHb (d - 38)) + (s.acc.waiting.filter (fun x => x.1 == d)).length +
  (s.bmv.chans.filter (fun x => x.2.state == .RUNNING && (s.chanDomains x.1 x.2).contains d)).length

/-! ## Enables (R453) -/

/-- The image places a region of nonzero size in HB1 (R20). -/
def State.usesHb1 (s : State) : Bool :=
  let p := s.tbl.placement
  (bit p.flow 1 && p.flowLog.isSome) || bit p.ctx 1 || (bit p.spill 1 && p.spillMib != 0) || (bit p.peer 1 && s.slc.peerMib != 0) ||
  p.troupe.any (fun x => bit x.2 1 && SMap.get (fun _ => 0) p.troupeMib x.1 != 0)

/-- A domain is bound. -/
def State.domainBound (s : State) (d : Nat) : Bool :=
  if d < 16 then (List.range 16).any (fun j => s.flagAt Fld.PRT_CONFIG_ENABLE (16 * d + j))
  else if d < 24 then s.flagAt Fld.HEP_PORT_CFG_ENABLE (2 * (d - 16)) || s.flagAt Fld.HEP_PORT_CFG_ENABLE (2 * (d - 16) + 1)
  else if d < 30 then false
  else if d < 38 then s.clusterLoaded (d - 30)
  else if d = 38 then s.dev.state == .LOADING || s.dev.state == .STAGE
  else s.usesHb1

/-- ENABLE := 0 in a state (R452). -/
def State.domainOffRequest (s : State) (d : Nat) : State :=
  let v := s.domain d
  match v.state with
  | .ON => s.setDomain d { v with state := .DRAINING, toOff := true, since := s.elapsed }
  | .DRAINING => s.setDomain d { v with toOff := true }
  | .ASLEEP => s.setDomain d { v with state := .OFF }
  | .WAKING => s.setDomain d { v with offPending := true }
  | .OFF => s

/-- ENABLE := 1 in a state (R452). -/
def State.domainOnRequest (s : State) (d : Nat) : State :=
  let v := s.domain d
  match v.state with
  | .OFF => s.setDomain d { v with state := .WAKING }
  | _ => s.setDomain d { v with toOff := false, offPending := false }

/-- A write of PWR_DOMAIN_CTRL: IDLE_US 0 is ignored, and ENABLE := 0 of a bound domain is refused. -/
def State.domainCtrl (s : State) (d : Nat) (value : Word) : State :=
  let old := s.flagAt Fld.PWR_DOMAIN_CTRL_ENABLE d
  let new := fieldOf value 0 1 == 1
  let idle := fieldOf value 16 16
  let s := s.setFld Fld.PWR_DOMAIN_CTRL_AUTO_SLEEP d (fieldOf value 1 1)
  let s := if idle = 0 then s else s.setFld Fld.PWR_DOMAIN_CTRL_IDLE_US d idle
  if !new && s.domainBound d then s.domainStatus d 0xB9
  else
    let s := s.setFld Fld.PWR_DOMAIN_CTRL_ENABLE d (flag new)
    if old && !new then s.domainOffRequest d else if new then s.domainOnRequest d else s

/-! ## Power-down and wake (R452, R454 to R456) -/

/-- SLEEP. -/
def State.domainSleep (s : State) (d : Nat) : State :=
  if (s.domain d).state = .ON then s.setDomain d { s.domain d with state := .DRAINING, toOff := false, since := s.elapsed }
  else s.domainStatus d 0xBB

/-- WAKE. -/
def State.domainWake (s : State) (d : Nat) : State :=
  if (s.domain d).state = .ASLEEP then (s.setDomain d { s.domain d with state := .WAKING }).bump .PWR_WAKES d else s.domainStatus d 0xBB

/-- A write of PWR_CMD. -/
def State.powerCommand (s : State) (v : Nat) : State :=
  let d := v % 64
  if 40 ≤ d then s
  else match v / 64 % 4 with
    | 1 => s.domainSleep d
    | 2 => s.domainWake d
    | _ => s.domainStatus d Code.MALFORMED

/-- The counter reaches 0 while the domain drains. -/
def State.drained (s : State) (d : Nat) : State :=
  let v := s.domain d
  if v.state = .DRAINING ∧ s.domainCount d = 0 then
    (s.setDomain d { state := if v.toOff then .OFF else .ASLEEP }).domainStatus d Code.OK
  else s

/-- The domain has drained for 100 µs: the power-down is refused. -/
def State.drainLimit (s : State) (d : Nat) : State :=
  let v := s.domain d
  if v.state = .DRAINING ∧ s.domainCount d ≠ 0 ∧ v.since + 100000 ≤ s.elapsed then
    ((s.setDomain d { state := .ON, since := s.elapsed }).domainStatus d 0xB8).bump .PWR_DRAIN_REFUSED d
  else s

/-- The idle timers (R455): a domain that is ON with work restarts its own. -/
def State.idleTick (s : State) : State :=
  ((List.range 40).filter (fun d => (s.domain d).state == .ON && s.domainCount d != 0)).foldl
    (fun s d => s.setDomain d { s.domain d with since := s.elapsed }) s

/-- The idle timer of a domain reaches IDLE_US (R455). -/
def State.idleSleep (s : State) (d : Nat) : State :=
  if s.flagAt Fld.PWR_DOMAIN_CTRL_AUTO_SLEEP d && (s.domain d).state == .ON && s.domainCount d == 0 &&
      decide ((s.domain d).since + 1000 * s.fld Fld.PWR_DOMAIN_CTRL_IDLE_US d ≤ s.elapsed) then
    s.setDomain d { s.domain d with state := .DRAINING, toOff := false, since := s.elapsed }
  else s

/-- Power and reset of a waking domain complete; an ENABLE := 0 that waited takes effect. -/
def State.awake (s : State) (d : Nat) : State :=
  let v := s.domain d
  if v.state = .WAKING then
    let s := (s.setDomain d { state := .ON, since := s.elapsed }).domainStatus d Code.OK
    if v.offPending then s.domainOffRequest d else s
  else s

/-- Domains at the end of LOADING (R452): a cluster the image does not run stays powered down (R36, R397). And in GHOST. -/
def State.domainsAtStage (s : State) : State :=
  (List.range 40).foldl (fun s d =>
    let on := s.flagAt Fld.PWR_DOMAIN_CTRL_ENABLE d && (d < 30 || 37 < d || s.clusterLoaded (d - 30))
    s.setDomain d (if on then { state := .ON, since := s.elapsed } else {})) s
def State.domainsOff (s : State) : State := { s with pwr := { s.pwr with domains := [] } }

/-! ## The POWER_PLAN section (R453) -/

def powerInvalid (b : List Byte) : Bool := b.length < 160 || (List.range 40).any (fun d => leAt b (4 * d + 2) 2 == 0)
def powerWord (b : List Byte) (d : Nat) : Nat := leAt b (4 * d) 1 % 4 + leAt b (4 * d + 2) 2 * 2 ^ 16

/-- The section applied at LOADING: an entry with ENABLE 0 for a bound domain is applied as 1, with a contained fault. A cluster is
bound that the image runs; its firmware is a later section (R38). -/
def State.loadPower (s : State) (clusters : Nat) (b : List Byte) : State :=
  (List.range 40).foldl (fun s d =>
    let w := powerWord b d
    let s := s.setReg .PWR_DOMAIN_CTRL d (BitVec.ofNat 64 w)
    let bound := if 30 ≤ d ∧ d ≤ 37 then bit clusters (d - 30) else s.domainBound d
    if w % 2 = 0 && bound then (s.setFld Fld.PWR_DOMAIN_CTRL_ENABLE d 1).containedFault 11 else s) s

/-! ## Clocks (R449, R450) -/

def pllBit (p : Pll) : Nat :=
  match p with
  | .core => 0 | .engine => 1 | .vault => 2 | .hbm => 3 | .lane e => 8 + e.val

def State.setLock (s : State) (p : Pll) (b : Bool) : State :=
  s.setReg .GLT_CLOCK_STATUS 0 (BitVec.ofNat 64 (setBits (s.reg .GLT_CLOCK_STATUS 0).toNat (pllBit p) 1 (flag b)))
def State.locked (s : State) (p : Pll) : Bool := bit (s.reg .GLT_CLOCK_STATUS 0).toNat (pllBit p)

/-- The PLL is started (R450). -/
def State.pllStarted (s : State) (p : Pll) : Bool :=
  match p with
  | .lane e => (List.range 16).any (fun j => s.flagAt Fld.PRT_CONFIG_ENABLE (16 * e.val + j))
  | _ => s.mapAnswers

def State.pllLocks (s : State) (p : Pll) : State := if s.pllStarted p then s.setLock p true else s

/-- A PLL that was locked loses lock. -/
def State.pllLost (s : State) (p : Pll) : State :=
  if !s.locked p then s
  else
    let s := s.setLock p false
    match p with
    | .core => s.fatal 4 6 .none 0 0
    | .engine => s.fatal 4 6 .none 0 0
    | .hbm => s.fatal 4 6 .none 0 0
    | .vault => s.vaultError
    | .lane e => (List.range 16).foldl (fun s j => s.containedScope 6 .port (16 * e.val + j)) s

/-- GHOST_CLK is lost (R449): CURTAIN from GHOST, LOADING or STAGE. -/
def State.clockLost (s : State) : State :=
  if s.dev.state = .OFF then s
  else
    let s := s.setFld Fld.GLT_CLOCK_STATUS_GHOST_LOST 0 1
    if s.dev.state = .GHOST then
      let s := s.fatal 3 15 .none 0 0
      ({ s with dev := { s.dev with state := .CURTAIN, cause := .FAULT } }.setFld Fld.FLT_STATUS_DEVICE_CAUSE 0 3).curtainAlarm .device 0 none
    else s.fatal 3 15 .none 0 0

/-! ## Temperature (R480) -/

/-- The sensors' reading: HIGHEST, SENSOR and HOT. -/
def State.senseHeat (s : State) (sensor : Nat) (reading : BitVec 8) : State :=
  (((s.setFld Fld.GLT_THERMAL_HIGHEST 0 reading.toNat).setFld Fld.GLT_THERMAL_SENSOR 0 sensor).setFld
    Fld.GLT_THERMAL_HOT 0 (flag (decide (105 < signed 8 reading.toNat))))

/-- The highest reading allows the release of an internal WARM_N (R480). -/
def State.coolEnough (s : State) : Bool :=
  !s.flagAt Fld.GLT_THERMAL_TRIPPED 0 || decide (signed 8 (s.fld Fld.GLT_THERMAL_HIGHEST 0) < 95)

end Sys2Proof.Machine
end

