-- ==== Sys2Proof/Machine/Stack.lean ====
section
/-! DEFINITION. Barod stacking (R433 to R447): the plan, hellos and keepalives, the stack states, claims for the master's
part, stack time, and scenes carried from the master. -/

namespace Sys2Proof.Machine

/-- A step of device time is requested (R203); it acts at the next tick. -/
def State.requestStep (s : State) (n : Int) : State := { s with clk := { s.clk with step := some (s.clk.step.getD 0 + n) } }

def State.setStk (s : State) (x : Stk) : State := { s with stk := x }

/-! ## The plan (R433) -/

def distinctNats (xs : List Nat) : Bool :=
  match xs with
  | [] => true
  | x :: xs => !xs.contains x && distinctNats xs

def stackInvalid (b : List Byte) : Bool :=
  let n := planCount b
  let members := (List.range n).map (planMember b)
  allZero (slice b 0 8) || n < 2 || 8 < n || b.length < 16 + 64 * n ||
  !distinctNats (members.map (fun e => leAt e 0 8)) || !distinctNats (members.map (fun e => leAt e 8 2)) ||
  members.any (fun e => leAt e 8 2 < 1 || 255 < leAt e 8 2) ||
  (List.range n).any (fun m => ((List.range 256).filter (planPort b m)).length < 2 * (n - 1))

/-- STACK_DIGEST (R435) of the sections it covers. -/
def State.stackDigest (s : State) : List Byte := Config.sha384 (s.stk.covered.flatMap (·.2))

/-- The plan in force: standalone where the device is not listed, JOINING otherwise. -/
def State.loadStack (s : State) (b : List Byte) : State :=
  match (List.range (planCount b)).find? (fun m => leAt (planMember b m) 0 8 == Config.serial.toNat) with
  | none => (s.setStk { covered := s.stk.covered }).containedFault 11
  | some m =>
    let s := s.setStk { plan := b, state := .JOINING, member := m, number := leAt (planMember b m) 8 2, covered := s.stk.covered,
                        links := s.stk.links.map (fun x => (x.1, StackLink.mk false false false false 0 0 x.2.seq 0 0 0 0)) }
    let s := s.setStk { s.stk with digest := s.stackDigest }
    ((List.range 256).filter (fun p => planPort b m p && s.portType p == 0)).foldl (fun s _ => s.containedFault 11) s

/-! ## States (R438 to R442) -/

def State.visibleMembers (s : State) : List Nat := (List.range (planCount s.stk.plan)).filter (fun m => m != s.stk.member && s.peerVisible m)

/-- n members, member 0 among them or not, hold quorum (R440). -/
def State.isQuorum (s : State) (ms : List Nat) : Bool :=
  let count := planCount s.stk.plan
  decide (count < 2 * ms.length) || (count % 2 == 0 && 2 * ms.length == count && ms.contains 0)
def State.quorum (s : State) : Bool := s.isQuorum (s.stk.member :: s.visibleMembers)

/-- The recorded master is visible. -/
def State.masterVisible (s : State) : Bool :=
  match s.stk.master with
  | some m => s.peerVisible m
  | none => false

/-- Ports whose STACK cause stands: the ports of a WINGS device but for the designated ones, and those curtained for time. -/
def State.stackPorts (s : State) : List Nat :=
  (List.range 256).filter (fun p => (s.stk.state == .WINGS && !s.designated p) || s.stk.timePorts.contains p)

/-- The STACK causes of every port follow the stack state. -/
def State.stackCurtains (s : State) : State :=
  let ps := s.stackPorts
  let s := (List.range 256).foldl (fun s p => if ps.contains p then s.curtain .port p stackBit none else s.stackLift .port p) s
  (List.range 16).foldl (fun s h => if s.stk.state == .WINGS then s.curtain .host h stackBit none else s.stackLift .host h) s

/-- Entry to WINGS with a cause. A master takes its number back to that of the plan. -/
def State.enterWings (s : State) (cause : Nat) : State :=
  let number := if s.stk.state = .MASTER then leAt (planMember s.stk.plan s.stk.member) 8 2 else s.stk.number
  ((s.setStk { s.stk with state := .WINGS, cause := cause, number := number }).bump .STK_WINGS_ENTRIES 0).stackCurtains

/-- The cause for which the device must be in WINGS; 0 for none (R440 to R442, R444). -/
def State.wingsCause (s : State) : Nat :=
  let x := s.stk
  if !s.quorum then (if x.state = .JOINING then 0 else 2)
  else if x.state = .MASTER then 0
  else if s.masterVisible && !(s.stackPeer (x.master.getD 0)).digest then 1
  else if x.needFull then 4
  else if x.state = .WINGS && x.cause = 3 && !s.masterVisible then 3
  else 0

/-- The device has quorum and no visible master, and claims none: its wait of R441 runs. -/
def State.seeksMaster (s : State) : Bool :=
  s.dev.state == .STAGE && !s.stk.plan.isEmpty && (s.stk.state == .JOINING || s.stk.state == .MEMBER) && s.quorum && !s.masterVisible &&
  s.stk.claim.isNone

/-- The state follows what the device sees (R438). -/
def State.stackState (s : State) : State :=
  if s.stk.plan.isEmpty || s.dev.state != .STAGE then s
  else
    let c := s.wingsCause
    if c != 0 then
      if s.stk.state = .WINGS then s.setStk { s.stk with cause := c } else s.enterWings c
    else if s.stk.state = .WINGS then
      (s.setStk { s.stk with state := if s.stk.master.isSome then .MEMBER else .JOINING, cause := 0 }).stackCurtains
    else if s.stk.state = .JOINING && s.masterVisible then s.setStk { s.stk with state := .MEMBER }
    else s

/-- The state follows what the device sees, and so does the wait before a claim. -/
def State.stackJudge (s : State) : State :=
  let s := s.stackState
  s.setStk { s.stk with leaderless := if s.seeksMaster then some (s.stk.leaderless.getD s.elapsed) else none }

/-- The device becomes master with a number. -/
def State.becomeMaster (s : State) (n : Nat) : State :=
  let was := s.stk.state
  let s := s.setStk { s.stk with state := .MASTER, cause := 0, number := n, master := some s.stk.member, masterNum := n, claim := none,
                                 needFull := false, drift := none, timePorts := [] }
  let s := s.bump .STK_MASTER_CHANGES 0
  if was = .WINGS then s.stackCurtains else s

/-! ## Frames (R435) -/

def bTime (b : List Byte) (o : Nat) : Nat := leAt b o 6 * 1000000000 + leAt b (o + 6) 4
def timeBytes (t : Nat) : List Byte := toLE 6 (secondsOf t) ++ toLE 4 (nanosOf t)
def bType (f : List Byte) : Nat := leAt f 1 1
def bMember (f : List Byte) : Nat := leAt f 2 1
def bBody (f : List Byte) : List Byte := slice f 24 (leAt f 20 2)

/-- A frame that must be discarded and counted. -/
def State.barodBad (s : State) (p : Nat) (f : List Byte) : Bool :=
  let t := bType f
  slice f 4 8 != slice s.stk.plan 0 8 || t = 0 || 8 < t || (t = 8 && (s.stackLink p).version < 2 && (s.stackLink p).established) ||
  planCount s.stk.plan ≤ bMember f

/-- A Barod frame of a type reaches the STK block on a port: checked, the sender's number and state noted, then act. Frames
of other types, and frames other than HELLO on a link that is not alive, change nothing. -/
def State.barodIn (s : State) (p type : Nat) (f : List Byte) (act : State → Nat → List Byte → State) : State :=
  if s.dev.state != .STAGE || !s.designated p then s
  else if s.barodBad p f then s.bump .STK_BAD_FRAMES 0
  else if bType f != type || (type != 1 && !(s.stackLink p).alive) then s
  else
    let m := bMember f
    let s := s.setStackPeer m { s.stackPeer m with number := leAt f 12 2, state := leAt f 3 1 }
    act (s.setStackLink p { s.stackLink p with heardAt := s.elapsed }) m (bBody f)

/-! ## Hello and keepalive (R436, R437, R443) -/

/-- MAX_VER the device offers. -/
def State.barodMax (s : State) : Nat := min (s.fld Fld.SYS_PROTOCOLS_BAROD_MAX 0) (s.fld Fld.STK_CFG_MAX_VERSION 0)

/-- HELLO is sent on a designated port whose link is up. -/
def State.sendHello (s : State) (p : Nat) : State :=
  if s.dev.state == .STAGE && s.designated p && (s.port p).linkUp then
    let body := toLE 1 1 ++ toLE 1 s.barodMax ++ [0, 0] ++ toLE 8 Config.serial.toNat ++ toLE 4 s.dev.imageVersion.toNat ++ [0, 0, 0, 0] ++ slice s.stk.digest 0 48
    ((s.barodSend p 1 body).setStackLink p { (s.barodSend p 1 body).stackLink p with sent := true }).stackJudge
  else s

/-- A HELLO: the link's version, or its refusal. -/
def State.helloIn (s : State) (p m : Nat) (b : List Byte) : State :=
  let v := min s.barodMax (leAt b 1 1)
  let l := s.stackLink p
  if leAt b 4 8 != leAt (planMember s.stk.plan m) 0 8 || v < leAt b 0 1 || v < 1 then
    ((s.setStackLink p { l with heard := false, refused := true }).bump .STK_VERSION_REFUSED 0).stackJudge
  else
    let s := s.setStackLink p { l with heard := true, refused := false, silent := false, version := v, peer := m }
    (s.setStackPeer m { s.stackPeer m with digest := slice b 20 48 == slice s.stk.digest 0 48 }).stackJudge

/-- KEEPALIVE is sent on an established link. -/
def State.sendKeepalive (s : State) (p : Nat) : State :=
  let l := s.stackLink p
  if s.dev.state == .STAGE && s.designated p && (s.port p).linkUp && l.established then
    s.barodSend p 2 (timeBytes s.now ++ timeBytes l.partnerTx ++ timeBytes l.partnerRx)
  else s

/-- The established link to the master with the lowest port number. -/
def State.referenceLink (s : State) (m : Nat) : Option Nat := ((s.stk.links.find? (fun x => x.2.established && x.2.peer == m))).map (·.1)

/-- Division by two, rounding towards zero (R10). -/
def halfZ (x : Int) : Int := x.tdiv 2

/-- The offset measured from a keepalive of the master (R443). -/
def State.measure (s : State) (p : Nat) (b : List Byte) : State :=
  let t1 : Int := bTime b 10
  let t2 : Int := bTime b 20
  let t3 : Int := bTime b 0
  let t4 : Int := s.now
  let d := halfZ ((t4 - t1) - (t3 - t2))
  let o := t4 - t3 - d
  let s := s.setStackLink p { s.stackLink p with delay := BitVec.ofInt 32 d }
  let drift := if 10000000 < o.natAbs then some (s.stk.drift.getD s.elapsed) else none
  let s := s.setStk { s.stk with offset := o, drift := drift }
  let s := if o.natAbs ≤ 1000 && !s.stk.timePorts.isEmpty then (s.setStk { s.stk with timePorts := [] }).stackCurtains else s
  if 1000 < o.natAbs && s.flagAt Fld.STK_CFG_TIME_STEP_EN 0 then (s.requestStep (-o)).bump .STK_TIME_STEPS 0 else s

/-- A KEEPALIVE: the echo times, the master's adoption, and the measurement. -/
def State.keepaliveIn (s : State) (p m : Nat) (b : List Byte) : State :=
  let s := s.setStackLink p { s.stackLink p with partnerTx := bTime b 0, partnerRx := s.now }
  let peer := s.stackPeer m
  let s := if peer.state == 3 && s.stk.masterNum < peer.number then
      s.setStk { s.stk with master := some m, masterNum := peer.number, state := if s.stk.state = .MASTER then .MEMBER else s.stk.state } else s
  let s := if s.stk.master = some m && s.stk.state != .MASTER && s.referenceLink m == some p && bTime b 10 != 0 then s.measure p b else s
  s.stackJudge

/-- A link is silent (R437): its LINK_UP has fallen, or 28 µs have passed without a Barod frame. -/
def State.stackSilent (s : State) (p : Nat) : State :=
  let l := s.stackLink p
  if l.established && (!(s.port p).linkUp || decide (l.heardAt + 28000 ≤ s.elapsed)) then (s.setStackLink p { l with silent := true }).stackJudge else s

/-- |o| above 10 ms has held for 1 s: every port with a timetable enabled is curtained (R443). -/
def State.timeCurtain (s : State) : State :=
  match s.stk.drift with
  | some t =>
    if t + 1000000000 ≤ s.elapsed && s.stk.state != .MASTER && s.dev.state == .STAGE then
      (s.setStk { s.stk with timePorts := (List.range 256).filter (fun p => s.flagAt Fld.TMS_PORT_CFG_TT_EN p) }).stackCurtains
    else s
  | none => s

/-! ## Claims (R441) -/

/-- Highest number the device records, its own included. -/
def State.highestNumber (s : State) : Nat := s.stk.peers.foldl (fun n x => max n x.2.number) (max s.stk.number s.stk.masterNum)

/-- The claim has its quorum. -/
def State.claimWon (s : State) : State :=
  match s.stk.claim with
  | some c => if s.isQuorum (s.stk.member :: c.accepts) then (s.becomeMaster c.new).stackJudge else s
  | none => s

/-- The wait before a claim (R441): 50 µs and 1 ms for each visible peer that outranks the device. -/
def State.claimWait (s : State) : Nat :=
  50000 + 1000000 * (s.visibleMembers.filter (fun m => s.stk.number < (s.stackPeer m).number)).length

/-- The wait before a claim ends: a device with quorum and no visible master claims. -/
def State.stackClaim (s : State) : State :=
  let x := s.stk
  if s.seeksMaster && decide (x.leaderless.getD s.elapsed + s.claimWait ≤ s.elapsed) then
    let new := if 65535 < s.highestNumber + 1 then 256 else s.highestNumber + 1
    let s := s.setStk { x with leaderless := none, claim := some { new := new, accepts := [], alive := false, since := s.elapsed } }
    (s.visibleMembers.foldl (fun s m => s.barodTo m 3 (toLE 2 s.stk.masterNum ++ toLE 2 new)) s).claimWon
  else s

/-- A peer's CLAIM, and the reply to it. -/
def State.claimIn (s : State) (p m : Nat) (b : List Byte) : State :=
  let new := leAt b 2 2
  if s.stk.state = .MASTER || s.masterVisible then s.barodSend p 4 [0, 2]
  else if s.stk.masterNum != leAt b 0 2 then s.barodSend p 4 [0, 1]
  else if new ≤ s.highestNumber then s.barodSend p 4 [0, 3]
  else
    let s := (s.setStk { s.stk with master := some m, masterNum := new, claim := none }).bump .STK_MASTER_CHANGES 0
    (s.barodSend p 4 [1, 0]).stackJudge

/-- A CLAIM_REPLY to the claim in progress. -/
def State.claimReplyIn (s : State) (m : Nat) (b : List Byte) : State :=
  match s.stk.claim with
  | none => s
  | some c =>
    if leAt b 0 1 = 1 then
      (s.setStk { s.stk with claim := some { c with accepts := if c.accepts.contains m then c.accepts else m :: c.accepts } }).claimWon
    else s.setStk { s.stk with claim := some { c with alive := c.alive || leAt b 1 1 == 2 } }

/-- The replies' time is over, 1 ms after the claim: WINGS. -/
def State.claimLimit (s : State) : State :=
  match s.stk.claim with
  | none => s
  | some c => if s.elapsed < c.since + 1000000 then s else (s.setStk { s.stk with claim := none }).enterWings (if c.alive then 3 else 2)

/-! ## The receive ring and transmit command (STK registers) -/

/-- Octets of a received Barod frame from destination MAC, FCS excluded (R435). -/
def State.barodOctets (s : State) (m : Nat) (f : List Byte) : List Byte :=
  [0x03, 0, 0, 0, 0, 0xB0, 0x02] ++ slice (planMember s.stk.plan m) 0 5 ++ [0x88, 0xB6] ++ f

/-- A frame for the lead CPC: into the ring, or lost; it waits while the pair that holds the ring wakes (R21). -/
def State.stackRing (s : State) (bytes : List Byte) : State :=
  let log := s.fld Fld.STK_RX_CFG_LOG2_SLOTS 0
  if !s.flagAt Fld.STK_RX_CFG_ENABLE 0 || ringHeld s.stk.rxProd s.stk.rxCons (2 ^ log) == 2 ^ log then s.bump .STK_RX_LOST 0
  else if !s.pairsAwake 1 then (s.touchPairs 1).hold 38 (.ring bytes)
  else
    let s := { s with mem := { s.mem with hb0 := writeMem s.mem.hb0 (ringSlot (s.fld Fld.STK_RX_CFG_BASE 0) log s.stk.rxProd) bytes } }
    s.setStk { s.stk with rxProd := (s.stk.rxProd + 1) % (2 * 2 ^ log) }


/-- STK_TX_CMD carried out: the payload in the reserved HBM is sent to each member of MASK; REPORT not on a version 1 link. -/
def State.stackSend (s : State) (v : Word) : State :=
  let addr := fieldOf v 0 30
  let len := fieldOf v 32 14
  let type := fieldOf v 56 4
  if addr % 64 != 0 || len = 0 || 10168 < len || !(type = 5 || type = 6 || type = 8) || s.dev.state != .STAGE then s
  else
    let body := readMem s.mem.hb0 addr len
    ((List.range 8).filter (bit (fieldOf v 48 8))).foldl (fun s m =>
      match s.linksTo m with
      | p :: _ => if type = 8 && (s.stackLink p).version < 2 then s else s.barodSend p type body
      | [] => s) s

/-- A write of STK_TX_CMD: dropped while BUSY; it waits while the pair that holds the payload wakes (R21). -/
def State.stackCommand (s : State) (v : Word) : State :=
  if s.sendBusy then s
  else if s.pairsAwake 1 then s.stackSend v
  else (s.touchPairs 1).hold 38 (.send v)

/-! ## Scenes from the master (R444, R445) -/

/-- Operands of a scene record. -/
def recordOperands (r : List Byte) : TableOperands :=
  { key := slice r 16 64, action := BitVec.ofNat 24 (leAt r 4 4), pinned := bit (leAt r 2 1) 0, ageLimit := BitVec.ofNat 15 (leAt r 8 2),
    index := BitVec.ofNat 28 (leAt r 12 4) }

/-- A record applied to the pending scene: whether it succeeded. -/
def State.sceneRecord (s : State) (r : List Byte) : Bool × State :=
  let op := leAt r 0 1
  let t := leAt r 1 1
  if !((op = 1 && t < 64) || (op = 2 && t < 64) || (op = 5 && t = 64)) then (false, s)
  else
    let x := s.tableCommand op t true (recordOperands r)
    (x.1.status == 0, x.2)

def State.sceneRecords (s : State) : List (List Byte) → Bool × State
  | [] => (true, s)
  | r :: rs =>
    let x := s.sceneRecord r
    if x.1 then State.sceneRecords x.2 rs else (false, x.2)

/-- A FULL scene starts: every entry of the exact-match tables visible in the pending scene is deleted. -/
def State.sceneClear (s : State) : State :=
  (List.range 64).foldl (fun s t =>
    if s.tableOn t then
      ((s.tableSlots t).filter (fun x => x.2.visible s.scn.pending)).foldl (fun s x => (s.doDelete t x.2.key).2) s
    else s) s

/-- A scene of the master fails: what was staged is flushed, and a MEMBER enters WINGS with cause SCENE. -/
def State.sceneFails (s : State) (mscene : Nat) : State :=
  let s := (s.doFlush 127).2
  let was := s.stk.state
  let s := s.setStk { s.stk with parts := [], sceneAt := none, fullArmed := false, needFull := true }
  let s := match s.stk.master with
    | some m => match s.linksTo m with
      | p :: _ => if 2 ≤ (s.stackLink p).version then s.barodSend p 8 (toLE 1 1 ++ toLE 2 mscene ++ [0] ++ toLE 8 (s.stk.offset % 2 ^ 64).toNat) else s
      | [] => s
    | none => s
  if was = .MEMBER then s.enterWings 4 else s

/-- A SCENE of the recorded master, applied by the lead CPC: its records, and with its last part the timed commit. -/
def State.sceneIn (s : State) (m : Nat) (b : List Byte) : State :=
  let mscene := leAt b 0 2
  let full := leAt b 2 1 == 1
  let a := bTime b 4
  let part := leAt b 14 2
  let parts := leAt b 16 2
  let records := (List.range (leAt b 18 4)).map (fun i => slice b (22 + 80 * i) 80)
  let next := (s.fld Fld.STK_SCENE_MSCENE 0 + 1) % 65536
  if s.stk.master != some m || !s.masterVisible || !(s.stk.state == .MEMBER || s.stk.state == .WINGS) then s
  else if !full && (mscene != next || s.stk.needFull) then s.sceneFails mscene
  else
    let s := if full && s.stk.parts.isEmpty then s.sceneClear else s
    let x := s.sceneRecords records
    let s := x.2.setStk { x.2.stk with sceneAt := some a, parts := part :: x.2.stk.parts.filter (· != part) }
    if !x.1 then s.sceneFails mscene
    else if s.stk.parts.length < parts then s
    else
      let s := (s.setReg .CLS_SCENE_ACT_TIME 0 (BitVec.ofNat 64 (nanosOf a + secondsOf a % 2 ^ 32 * 2 ^ 32))).setReg .CLS_SCENE_ACT_TIME_HIGH 0
        (BitVec.ofNat 64 (secondsOf a / 2 ^ 32))
      let s := s.sceneCommit s.scn.pending true
      if s.scn.lastStatus != 0 then s.sceneFails mscene
      else
        let s := (s.setStk { s.stk with parts := [], sceneAt := none, fullArmed := full }).setFld Fld.STK_SCENE_MSCENE 0 mscene
        s.barodTo m 6 (toLE 2 mscene ++ [0])

/-- The activation time of a SCENE whose commit is not ARMED has come. -/
def State.sceneDeadline (s : State) : State :=
  match s.stk.sceneAt with
  | some a => if a ≤ s.now then s.sceneFails ((s.fld Fld.STK_SCENE_MSCENE 0 + 1) % 65536) else s
  | none => s

/-- A scene has activated: an armed FULL scene ends the SCENE cause. -/
def State.sceneActivated (s : State) : State :=
  if s.stk.fullArmed then (s.setStk { s.stk with needFull := false, fullArmed := false }).stackJudge else s

end Sys2Proof.Machine
end

