-- ==== Sys2Proof/Machine/Frames.lean ====
section
/-! DEFINITION. A frame's way through the device (R100, R101, R106, R119, R164 to R190): reception, pipeline entry, the
carrying out of the lookup result, admission to the egress queues, selection and transmission. -/

namespace Sys2Proof.Machine

/-! ## Reception (R100, R101, R106) -/

/-- The ingress class of octets a port receives (R101). -/
def State.rxClassOf (s : State) (p : Nat) (bs : List Byte) : Nat :=
  let et := beAt bs 12 2
  if 16 ≤ bs.length ∧ (et = 0x8100 ∨ et = s.fld Fld.CLS_PARSE_TPID_OUTER_TPID 0) then
    bits (s.fld Fld.PRT_CLASS_MAP_CLASS p) (3 * (beAt bs 14 1 / 32)) 3
  else s.fld Fld.PRT_CLASS_MAP_DEFAULT_CLASS p

/-- Octets that land in the landing buffer (R106): what exceeds the port's share is discarded, and the frame is bad. -/
def State.landMore (s : State) (x : Frame) (more : List Byte) : State :=
  let p := x.inPort
  let room := (s.fld Fld.OPT_LB_CELLS_CELLS p - (s.landingPort p - x.cells)) * 256 - x.octets.length
  let octets := x.octets ++ more.take room
  let y := { x with octets := octets, rxClass := if x.octets.length < 16 then s.rxClassOf p octets else x.rxClass }
  if more.length ≤ room then s.setFrame y
  else (s.bump .PRT_LB_DROP p).setFrame { y with lost := more.length - room, bad := true, cutShort := true }

/-- The frame has a copy that holds on-die cells. -/
def State.onDie (s : State) (f : Nat) : Bool := s.swc.copies.any (fun k => k.frame == f && !k.spilled)

/-- Octets that reach the switch buffer after admission (R178, R180): a frame that finds no cell is cut there. One of which only
mirror copies are left takes cells by R178 (R184). -/
def State.bufferMore (s : State) (x : Frame) (more : List Byte) : State :=
  let need := cellsOf (x.octets.length + more.length) - x.cells
  let lossless := x.lossless && s.swc.copies.any (fun k => k.frame == x.id && k.kind != .mirror)
  let a := if lossless then s.takeLossless x.inPort x.ticket.cls.toNat x.charge need else s.takeShared x.charge need
  if need ≤ a.2 then s.setFrame { x with octets := x.octets ++ more, charge := a.1 }
  else
    let keep := (x.cells + a.2) * 256 - x.octets.length
    let y := { x with octets := x.octets ++ more.take keep, lost := more.length - keep, charge := a.1, bad := true, cutShort := true }
    if lossless then (s.setFrame y).discardAll (fun k => k.frame == x.id) .SWC_LOSSLESS_DROP
    else (s.setFrame y).bump .SWC_POOL_EXHAUSTED 0

/-- Further octets of a frame in reception. -/
def State.grow (s : State) (x : Frame) (more : List Byte) : State :=
  if more.isEmpty then s
  else if x.lost != 0 then s.setFrame { x with lost := x.lost + more.length }
  else
    (if x.landing then s.landMore x more
     else if x.phase == .forwarded && s.onDie x.id then s.bufferMore x more
     else s.setFrame { x with octets := x.octets ++ more }).pauseCheck x.inPort

/-- Further octets under MAX_FRAME (R100): a frame that goes beyond it is ended there. -/
def State.receive (s : State) (x : Frame) (more : List Byte) : State :=
  let room := s.fld Fld.PRT_CONFIG_MAX_FRAME x.inPort - (x.octets.length + x.lost)
  let t := s.grow x (more.take room)
  if more.length ≤ room then t
  else match t.frame? x.id with
    | some y => t.oversize y
    | none => t

/-- FRAME_ARRIVAL: the first octets of a frame land on a usable port. -/
def State.frameArrival (s : State) (p : Nat) (octets : List Byte) : State :=
  if !s.portUsable p then s
  else
    let s := s.touchDomain (p / 16)
    let x : Frame := { id := 0, inPort := p, passPort := p, rxClass := s.fld Fld.PRT_CLASS_MAP_DEFAULT_CLASS p, time := s.rxTime p,
                       landing := true, verify := s.flagAt Fld.PRT_CSUM_CTRL_RX_VERIFY p }
    let t := s.newFrame x
    match t.frame? s.swc.nextFrame with
    | some x => t.receive x octets
    | none => t

/-- RX_MAX_FRAME_REACHED: the frame's octets up to MAX_FRAME, where it is ended. -/
def State.maxReached (s : State) (f : Nat) (octets : List Byte) : State :=
  match s.frame? f with
  | none => s
  | some x =>
    let room := s.fld Fld.PRT_CONFIG_MAX_FRAME x.inPort - (x.octets.length + x.lost)
    if !x.incoming || octets.length < room then s
    else
      let t := s.grow x (octets.take room)
      match t.frame? f with
      | some y => t.oversize y
      | none => t

/-! ## Admission (R177 to R183) -/

/-- The limits of R178 refuse a copy of a queue of depth d. -/
def State.limitRefuses (s : State) (p c d : Nat) : Bool :=
  let q := 8 * p + c
  decide (s.fld Fld.SWC_Q_LIMIT_STATIC q ≤ d) ||
  (s.flagAt Fld.SWC_Q_LIMIT_DYN_EN q && decide (s.sharedFree * 2 ^ s.fld Fld.SWC_Q_LIMIT_ALPHA q / 128 ≤ d))

/-- A slice's buffer quota is reached (R179). -/
def State.sliceFull (s : State) (n : Nat) : Bool := n != 0 && decide (s.fld Fld.SLC_GRANT_R_BUF_QUOTA n ≤ s.sliceCells n)

/-- Cells held in the spill (R181). -/
def State.spillUsed (s : State) : Nat := (s.swc.copies.filter (·.spilled)).foldl (fun n k => n + s.copyCells k) 0

/-- A copy of n cells that enters a lossless queue goes to the spill (R181). -/
def State.spills (s : State) (p c n : Nat) : Bool :=
  let at_ := s.fld Fld.SWC_Q_LIMIT_SPILL_AT (8 * p + c)
  at_ != 0 && (s.swc.copies.any (fun k => k.port == p && k.cls == c && k.spilled) || decide (at_ ≤ s.depthOf p c false)) &&
  decide (s.spillUsed + n ≤ s.tbl.placement.spillMib * 4096)

/-- The CE probability of R182: out of 65,536, at depth d. -/
def State.markP (s : State) (q d : Nat) : Nat :=
  let lo := s.fld Fld.SWC_Q_ECN_MARK_MIN q
  s.fld Fld.SWC_Q_ECN_PMAX q * (d - lo) * 256 / (s.fld Fld.SWC_Q_ECN_MARK_MAX q - lo)

/-- Congestion marking of a copy admitted at depth d (R182). -/
def State.markCopy (s : State) (x : Frame) (k : Copy) (d : Nat) : Copy × State :=
  let q := 8 * k.port + k.cls
  let h := ethHeads (s.parseIn (k.source x)) (k.source x) 0
  let ecn := tosOf (k.source x) h % 4
  if !s.flagAt Fld.SWC_Q_ECN_ECN_EN q || h.ip.isNone || (ecn != 1 && ecn != 2) || d < s.fld Fld.SWC_Q_ECN_MARK_MIN q then (k, s)
  else if s.fld Fld.SWC_Q_ECN_MARK_MAX q ≤ d then ({ k with mark := true }, s.bump .SWC_ECN_MARKED 0)
  else
    let t := s.drew
    if s.free.toNat % 65536 < s.markP q d then ({ k with mark := true }, t.bump .SWC_ECN_MARKED 0) else (k, t)

/-- The sampler of a queue looks at a copy (R183): whether it is sampled, and the state after it. -/
def State.sampler (s : State) (q : Nat) : Bool × State :=
  let n := s.fld Fld.SWC_SPOT_N q
  if n = 0 then (false, s)
  else if s.flagAt Fld.SWC_SPOT_RANDOM q then (decide (s.free.toNat % 2 ^ 24 * n < 2 ^ 24), s.drew)
  else
    let down := SMap.get (fun _ => 0) s.swc.spotDown q
    let set := fun (v : Nat) => { s with swc := { s.swc with spotDown := SMap.set (fun _ => 0) q v s.swc.spotDown } }
    if down = 0 then (true, set (n - 1)) else (false, set (down - 1))

/-- Entries of the sample queue: samples whose tail is not final, and those not yet taken at their destination. -/
def State.sampleCount (s : State) : Nat :=
  s.swc.samples.length + (s.swc.arrived.filter (fun k => match k.kind with | .sample .. => true | _ => false)).length

/-- A sample of a copy enters the sample queue, or is lost. -/
def State.takeSample (s : State) (k : Copy) (d : Nat) (ended : Bool) : State :=
  let q := 8 * k.port + k.cls
  if 256 ≤ s.sampleCount then s.bump .SWC_SPOT_LOST 0
  else
    let dest := s.fld Fld.SWC_SPOT_DEST q
    let c := { k with kind := CopyKind.sample (s.fld Fld.SWC_SPOT_SNAP q) dest d k.port, spot := true, spilled := false, rewrite := 0 }
    let s := { s with swc := { s.swc with samples := s.swc.samples ++ [c] } }
    if ended then s.sendSamples k.frame else s

/-- The cells of a frame are charged for its first copy on-die (R177 to R180); none when a lossless copy finds no room. -/
def State.chargeCells (s : State) (x : Frame) (k : Copy) (lossless : Bool) : Option State :=
  if k.spilled || s.onDie x.id then some s
  else if lossless then
    let a := s.takeLossless x.inPort x.ticket.cls.toNat x.charge x.cells
    if a.2 < x.cells then none else some (s.setFrame { x with charge := a.1 })
  else
    let a := s.takeShared x.charge x.cells
    if x.cells ≤ a.2 then some (s.setFrame { x with charge := a.1 })
    else some ((s.setFrame { x with charge := a.1, octets := x.octets.take (a.2 * 256), lost := x.octets.length - a.2 * 256, bad := true, cutShort := true,
                                    ticket := { x.ticket with tailError := x.ended || x.ticket.tailError } }).bump .SWC_POOL_EXHAUSTED 0)

/-- The switched domain of an egress port. -/
def egressDomain (p : Nat) : Option Nat := if p < 256 then some (p / 16) else if p < 320 then some (16 + (p - 256) / 8) else none

/-- The copy joins its queue, and a tag is computed where it is the head (R190). -/
def State.enqueue (s : State) (k : Copy) : State :=
  let s := if k.spilled then s.touchPairs s.tbl.placement.spill else s
  let s := match egressDomain k.port with | some d => s.touchDomain d | none => s
  ({ s with swc := { s.swc with copies := s.swc.copies ++ [k] } }).retag k.port k.cls (subOf k.port k.slice)

/-- A copy is admitted to its queue, or refused (R178 to R184). -/
def State.enqueueCopy (s : State) (f : Nat) (k : Copy) : State :=
  match s.frame? f with
  | none => s
  | some x =>
    let mirror := k.kind == .mirror
    let drop := fun (r : RegName) => s.bump (if mirror then .SWC_MIRROR_DROP else r) 0
    let lossless := x.lossless && !mirror
    let d := s.depth k.port k.cls
    if x.ended && x.bad then s.bump .SWC_TAIL_DROP 0
    else if !lossless && s.limitRefuses k.port k.cls d then drop .SWC_QUEUE_DROP
    else if !lossless && s.sliceFull x.ticket.slice.toNat then drop .SWC_SLICE_DROP
    else
      let k := { k with spilled := lossless && s.spills k.port k.cls (k.view x).cells }
      match s.chargeCells x k lossless with
      | none => s.bump .SWC_LOSSLESS_DROP 0
      | some s =>
        let m := s.markCopy x k d
        let p := m.2.sampler (8 * k.port + k.cls)
        let k := { m.1 with spot := p.1 }
        let s := p.2.enqueue k
        let s := if p.1 then s.takeSample k d x.ended else s
        if x.ended && (s.frame? f).any (·.bad) then s.dropBadTail f else s

/-! ## The forwarding decision carried out (R171 to R175, R184) -/

/-- The slice of a ticket cannot take copies on host link l (R171). -/
def State.sliceElsewhere (s : State) (n l : Nat) : Bool := n == 0 || s.sliceState n == 0 || s.sliceLink n != l

/-- One copy toward a port (R171, R173, R321). -/
def State.toPort (s : State) (f p rewrite : Nat) : State :=
  match s.frame? f with
  | none => s
  | some x =>
    let n := x.ticket.slice.toNat
    let k : Copy := { frame := f, port := p, cls := x.ticket.cls.toNat, slice := n, rewrite := rewrite }
    if 335 < p then s.bump .SWC_BAD_TARGET 0
    else if 256 ≤ p && p < 320 then
      if s.sliceElsewhere n (p - 256) then s.bump .SWC_SLICE_MISMATCH 0
      else if !s.genCurrent n x.ticket.gen.toNat then s.bump .SLC_STALE_DISCARD n
      else if !s.sliceRuns n then s.bump .SLC_IDLE_DROP n
      else s.enqueueCopy f k
    else if (p < 324 || p == 332 || p == 333) && !s.usable p then s.bump .SWC_LINK_DOWN_DROP 0
    else s.enqueueCopy f k

/-- A copy toward the member of a group that a flow takes (R172). -/
def State.toGroup (s : State) (f g rewrite : Nat) : State :=
  match s.frame? f with
  | none => s
  | some x =>
    match s.member g x.ticket.flowHash with
    | none => s.bump .SWC_NO_MEMBER 0
    | some i =>
      let own := s.fld Fld.SWC_MEMBER_REWRITE (32 * g + i)
      s.toPort f (s.fld Fld.SWC_MEMBER_PORT (32 * g + i)) (if g < 4096 && own != 0 then own else rewrite)

/-- One copy per replica of a multicast group (R174). -/
def State.toReplicas (s : State) (f g inPort : Nat) : State :=
  let first := s.fld Fld.SWC_MC_GROUP_FIRST g
  let count := s.fld Fld.SWC_MC_GROUP_COUNT g
  if 131072 < first + count then s.bump .SWC_BAD_TARGET 0
  else (List.range count).foldl (fun s i =>
    let p := s.fld Fld.SWC_MC_REPLICA_PORT (first + i)
    if p = inPort then s else s.toPort f p (s.fld Fld.SWC_MC_REPLICA_REWRITE (first + i))) s

/-- A slow-path frame goes to the Troupe path its pass entry chose, or is dropped where no cluster of the die has firmware; either way
it is counted (R125, R140). -/
def State.toSlow (s : State) (x : Frame) (port : Nat) : State :=
  let s := s.bump .CLS_PIPE_SLOW (pipelineOf x.passPort)
  if (List.range 4).all (fun j => !s.clusterLoaded (4 * (port - 334) + j)) then s.bump .CLS_PIPE_SLOW_DROP (pipelineOf x.passPort)
  else s.toPort x.id port 0

/-- FORWARD and TARGET (R171). -/
def State.forwardOut (s : State) (x : Frame) (d : Decision) : State :=
  let bad := s.bump .SWC_BAD_TARGET 0
  match d.forward with
  | 0 => s
  | 1 => s.toPort x.id d.target d.rewrite
  | 2 => if d.target < 4096 then s.toGroup x.id d.target d.rewrite else bad
  | 3 => if d.target < 256 then s.toGroup x.id (4096 + d.target) d.rewrite else bad
  | 4 => if d.target < 16384 then s.toReplicas x.id d.target x.inPort else bad
  | 5 => s
  | 6 => s.toSlow x d.target
  | 7 => s.toPort x.id 334 d.rewrite
  | _ => bad

/-- The mirror copy of a chain (R184). A session whose port cannot take it counts as a refused copy; the engines' ports cannot, since a
copy reaches an engine only as one forwarded by R171 (R209). -/
def State.mirrorOut (s : State) (x : Frame) (d : Decision) : State :=
  let p := s.fld Fld.SWC_MIRROR_PORT d.mirror
  if d.mirror = 0 || !s.flagAt Fld.SWC_MIRROR_ENABLE d.mirror then s
  else
    let n := x.ticket.slice.toNat
    let k : Copy := { frame := x.id, port := p, cls := s.fld Fld.SWC_MIRROR_CLASS d.mirror, slice := n, kind := .mirror, asFirst := true }
    if 335 < p then s.bump .SWC_BAD_TARGET 0
    else if 256 ≤ p && p < 320 && s.sliceElsewhere n (p - 256) then s.bump .SWC_SLICE_MISMATCH 0
    else if (320 ≤ p && p < 334) || (p < 256 && !s.usable p) then s.bump .SWC_MIRROR_DROP 0
    else s.enqueueCopy x.id k

/-- The frame is chosen: its decision is carried out, and it is counted and presented for learning once its tail is final
(R155, R171, R176). -/
def State.choose (s : State) (x : Frame) (d : Decision) : State :=
  let x := { x with phase := FramePhase.forwarded, chosen := true, decision := some d, lossless := s.losslessClass x.ticket.cls.toNat }
  let s := s.setFrame x
  let s := if x.ended then (s.countFrame x).presentLearn x else s
  (((s.forwardOut x d).mirrorOut x d).collect).pauseCheck x.inPort

/-- A frame of a forced scene is dropped where it stands (R137). -/
def State.dropForced (s : State) (x : Frame) : State :=
  ((s.setFrame { x.sceneRetired with phase := .forwarded, landing := false, chosen := true, decision := none }).bump .CLS_FORCED_DROPS 0).collect

/-- A lossless frame from a host link or an internal port is held off by credit (R180). -/
def State.creditHeld (s : State) (x : Frame) (d : Decision) : Bool :=
  256 ≤ x.passPort && s.losslessClass x.ticket.cls.toNat && d.forward != 0 && d.forward != 5 &&
  decide ((s.takeLossless x.inPort x.ticket.cls.toNat {} x.cells).1.reserved + (s.takeLossless x.inPort x.ticket.cls.toNat {} x.cells).1.shared < x.cells)

/-- LOOKUP_RESULT: the frame is policed, held for its length where that is not known, and carried out (R164, R171, R195). -/
def State.carryOut (s : State) (x : Frame) : State :=
  match x.decision with
  | none => s
  | some d =>
    if s.sceneIsForced x.ticket.scene then s.dropForced x
    else if s.creditHeld x d then s
    else match d.police with
      | none => s.choose x d
      | some (n, aware) =>
        if !x.ended then s.setFrame { x with phase := .held }
        else
          let m := s.meter n x.octets.length aware x.ticket.dp.toNat
          if m.1 = 2 ∧ s.flagAt Fld.TMS_POLICER_SIZE_RED_DROP n then (m.2.bump .TMS_POLICE_DROP 0).choose x { d with forward := 5 }
          else
            let s := if m.1 = 2 then m.2.bump .TMS_POLICE_RED_PASSED 0 else m.2
            s.choose { x with ticket := { x.ticket with dp := BitVec.ofNat 2 m.1 } } d

/-- A frame that entered the pipeline earlier has not left it (R119), unless credit holds it off (R180). -/
def State.overtakes (s : State) (x : Frame) : Bool :=
  s.swc.frames.any (fun y => y.phase == .looking && pipelineOf y.passPort == pipelineOf x.passPort && decide (y.order < x.order) &&
    !y.decision.any (s.creditHeld y))

def State.lookupResult (s : State) (f : Nat) : State :=
  match s.frame? f with
  | some x => if (x.phase == .looking && !s.overtakes x) || (x.phase == .held && x.ended) then s.carryOut x else s
  | none => s

/-! ## The tail, and pipeline entry -/

/-- A received frame's last octets: runts are discarded, the counters of R117 and the checks of R109 and R167 made, and the
tail becomes final (R168). -/
def State.tailOf (s : State) (x : Frame) (cause : TailCause) : State :=
  if x.octets.length + x.lost < 64 then s.dropRunt x
  else
    let s := s.rxCount x
    let s := if cause == .fcsError then s.bump .PRT_RX_FCS_ERROR x.inPort else s
    let sums := if x.verify then verifyChecksums (s.parseIn x.octets) (x.octets.take (x.octets.length - 4)) else 0
    let wrong := (List.range 4).any (fun i => bits sums.toNat (2 * i) 2 == 2)
    let s := if wrong then s.bump .PRT_RX_CSUM_BAD x.inPort else s
    let cut := x.cutShort || cause == .planChange
    s.finishTail { x with bad := x.bad || cause != .good || s.ipShort x, cutShort := cut, csumResult := sums }

/-- FRAME_TAIL_RECEIVED. A frame held for its length is carried out then. -/
def State.tailReceived (s : State) (f : Nat) (octets : List Byte) (cause : TailCause) : State :=
  match s.frame? f with
  | none => s
  | some x =>
    if !x.incoming then s
    else
      let s := s.receive x octets
      let s := match s.frame? f with
        | some y => if y.ended then s else s.tailOf y cause
        | none => s
      match s.frame? f with
      | some y => if y.phase == .held then s.carryOut y else s.collect
      | none => s

/-- A MAC control frame, or a Barod frame on a designated port: consumed, never forwarded (R102, R434). -/
def State.consumed (s : State) (x : Frame) : Bool :=
  x.passPort < 256 && (beAt x.octets 12 2 == 0x8808 || (beAt x.octets 12 2 == 0x88B6 && s.designated x.passPort))

/-- The frame is held so far as entry needs: 512 octets, or whole (R119). -/
def Frame.entryReady (x : Frame) : Bool := x.ended || decide (512 ≤ x.octets.length)

/-- PIPELINE_ENTRY (R119, R120). -/
def State.pipelineEntry (s : State) (f : Nat) (octets : List Byte) (overRate : Bool) : State :=
  let s := match s.frame? f with
    | some x => if x.incoming then s.receive x octets else s
    | none => s
  match s.frame? f with
  | none => s
  | some x =>
    if x.phase != .arriving || !x.entryReady then s
    else if x.passPort < 256 && !s.domainOn (x.passPort / 16) then s
    else if s.consumed x then ((s.setFrame { x with phase := .forwarded, landing := false, chosen := true }).collect).pauseCheck x.inPort
    else if x.entered && s.sceneIsForced x.ticket.scene then s.dropForced x
    else (s.enterPass x overRate).pauseCheck x.inPort

/-! ## Selection and transmission (R187 to R193) -/

/-- The class is stopped by a received PAUSE or PFC (R105). -/
def State.classPaused (s : State) (p c : Nat) : Bool := p < 256 && ((s.port p).paused || (s.port p).classPaused.getLsbD c)

/-- Octets in the unit buffer of a tunnel port (R214): units arriving, arrived, and outbound ones still at the cipher. -/
def State.unitBuffer (s : State) (p : Nat) : Nat :=
  ((s.swc.arrived ++ s.swc.copies.filter (·.started)).filter (fun k => k.port == p)).foldl
    (fun n k => n + ((s.frame? k.frame).map (fun x => (k.view x).octets.length)).getD 0)
    ((s.ofl.jobs.filter (fun j => j.port == p && !j.inbound)).foldl (fun n j => n + j.frame.octets.length) 0)

/-- The port can start frames: a network port that is usable in a domain that runs, a host link that is up, a tunnel port whose 1 MiB
unit buffer is not full (R214). -/
def State.portStarts (s : State) (p : Nat) : Bool :=
  if p < 256 then s.portUsable p && s.domainOn (p / 16)
  else if p < 320 then s.usable p && (s.hostLink (p - 256)).up && s.domainOn (16 + (p - 256) / 8)
  else 324 ≤ p || decide (s.unitBuffer p < 1048576)

/-- The head copy of a sub-queue may be selected (R187). -/
def State.headReady (s : State) (p c sub : Nat) : Option Copy :=
  match s.head p c sub with
  | none => none
  | some k =>
    match s.frame? k.frame with
    | none => none
    | some x =>
      if s.copyEligible k && !s.classPaused p c && s.gateOpen p c && s.fitsWindow p c (s.chargedLength (k.view x) p) &&
          s.conforming .queue (8 * p + c) && (!(256 ≤ p && p < 320) || s.conforming .sliceDeliver sub) && s.conforming .port p then some k
      else none

/-- Tag a tagPrecedes tag b (R191). -/
def tagPrecedes (a b : BitVec 48) : Bool := (b - a).toNat != 0 && decide ((b - a).toNat < 2 ^ 47)

/-- The copy with the earliest tag; of equal ones the first (R191). -/
def earliest : List Copy → Option Copy
  | [] => none
  | k :: ks => match earliest ks with
    | none => some k
    | some m => if tagPrecedes (m.tag.getD 0) (k.tag.getD 0) then some m else some k

/-- Sub-queues of a class that hold a copy, in ascending order. -/
def State.subs (s : State) (p c : Nat) : List Nat :=
  if 256 ≤ p ∧ p < 320 then
    ascending (((s.swc.copies.filter (fun k => k.port == p && k.cls == c && !k.started)).map (·.slice)).foldl
      (fun a n => if a.contains n then a else a ++ [n]) ([] : List Nat))
  else [0]

/-- The copy a class would start: its head, or on a host link the head of the slice with the earliest tag (R189). -/
def State.classHead (s : State) (p c : Nat) : Option Copy := earliest ((s.subs p c).filterMap (s.headReady p c))

/-- The copy a port starts: of the highest strict class, else of the class with the earliest head tag (R189, R191). -/
def State.select (s : State) (p : Nat) : Option Copy :=
  let strict := s.fld Fld.TMS_PORT_CFG_STRICT p
  match ((List.range 8).reverse.filter (bit strict)).findSome? (s.classHead p) with
  | some k => some k
  | none => earliest (((List.range 8).filter (fun c => !bit strict c)).filterMap (s.classHead p))

/-- Untagged heads of a port's queues are tagged (R190). -/
def State.retagAll (s : State) (p : Nat) : State :=
  (List.range 8).foldl (fun s c => (s.subs p c).foldl (fun s n => s.retag p c n) s) s

/-- A copy starts (R164, R188, R190, R192): its tag, V, its charges, its timestamp, and the next head's tag. -/
def State.startCopy (s : State) (k : Copy) (x : Frame) (record : Option (BitVec 256)) : State :=
  let p := k.port
  let sub := subOf p k.slice
  let host := 256 ≤ p && p < 320
  let strict := bit (s.fld Fld.TMS_PORT_CFG_STRICT p) k.cls
  let e := s.estimate (k.view x) p
  let net := p < 256
  let closes := (s.timetable p).bind (fun t => (t.untilClose (t.position s.now) k.cls).map (s.now + ·))
  let oneStep := net && x.emit.any (fun m => m.ts.getLsbD 1)
  let s := s.setCopy k { k with started := true, charged := e, record := record,
                                insert := net && s.flagAt Fld.PRT_CSUM_CTRL_TX_INSERT p,
                                incr := !net || s.flagAt Fld.PRT_CSUM_CTRL_INCR_UPDATE p,
                                stamp := if oneStep then some (s.txTime p) else none, closes := closes }
  let s := match k.tag with
    | some t => if strict && !host then s else
        let w := wholeTag (s.vtime p k.cls) t
        { s with tms := { s.tms with lastTag := SMap.set vDefault (queueKey p k.cls sub) w s.tms.lastTag,
                                     vtime := if strict then s.tms.vtime else SMap.set vDefault (vKey p k.cls) w s.tms.vtime } }
    | none => s
  let s := s.chargeCopy k (-(((s.chargedLength (k.view x) p : Nat) : Int) * 12800))
  let s := if net then s.bump .PRT_TX_FRAMES p else s
  let s := match x.emit with
    | some m => if net && m.ts.getLsbD 0 then s.pushStamp p m.tag else s
    | none => s
  s.retag p k.cls sub

/-- EGRESS_SELECT: a port with no copy in transmission starts the copy it selects; one whose rewrite fails is dropped
(R175, R187). -/
def State.egressSelect (s : State) (p : Nat) : State :=
  if s.swc.copies.any (fun k => k.port == p && k.started) || !s.portStarts p then s
  else
    let s := s.retagAll p
    match s.select p with
    | none => s
    | some k =>
      match s.frame? k.frame with
      | none => s
      | some x => match s.rewriteOf k x with
        | .miss => ((s.discardCopy k .SWC_REWRITE_MISS).collect).pauseCheck x.inPort
        | .expired => ((s.discardCopy k .SWC_TTL_EXPIRED).collect).pauseCheck x.inPort
        | .plain => s.startCopy k x none
        | .record v => s.startCopy k x (some v)

/-- EGRESS_COMPLETE: the copy in transmission has left its port, its tail final (R136, R168). -/
def State.egressComplete (s : State) (p : Nat) : State :=
  match s.swc.copies.find? (fun k => k.port == p && k.started) with
  | none => s
  | some k =>
    match s.frame? k.frame with
    | none => s.dropCopy k
    | some x =>
      if !x.ended then s
      else
        let s := if k.late && k.closes.any (fun t => decide (t < s.now)) then s.bump .TMS_TT_OVERRUN 0 else s
        let s :=
          if p < 256 then
            let w := s.wire k x (s.fld Fld.PRT_CONFIG_MAX_FRAME p)
            (if x.bad then s.bump .SWC_TAIL_STOMPED 0 else s).endTx k w.1 w.2
          else if 324 ≤ p && p < 332 then (s.dropCopy k).bump .OFL_BAD_TARGET 0
          else { s.dropCopy k with swc := { (s.dropCopy k).swc with arrived := s.swc.arrived ++ [k] } }
        s.collect.pauseCheck x.inPort

/-- SPILL_RETURN: the oldest spilled copy of a queue returns on-die while its depth allows it (R181); it waits for a sleeping pair,
which starts to wake (R21). -/
def State.spillReturn (s : State) (p c : Nat) : State :=
  match s.swc.copies.find? (fun k => k.port == p && k.cls == c && k.spilled) with
  | none => s
  | some k =>
    match s.frame? k.frame with
    | none => s.dropCopy k
    | some x =>
      if s.fld Fld.SWC_Q_LIMIT_SPILL_AT (8 * p + c) / 2 ≤ s.depthOf p c false then s
      else if !s.pairsAwake s.tbl.placement.spill then s.touchPairs s.tbl.placement.spill
      else if x.ended && x.bad then ((s.discardCopy k .SWC_TAIL_DROP).collect).pauseCheck x.inPort
      else match s.chargeCells x { k with spilled := false } true with
        | none => s
        | some s => (s.setCopy k { k with spilled := false }).pauseCheck x.inPort

/-- MEMBER_REPIN: a member that is not LIVE loses its slots (R173). -/
def State.memberRepin (s : State) (g i : Nat) : State := if s.memberLive g i then s else s.repin g i

end Sys2Proof.Machine
end

