-- ==== Sys2Proof/Machine/Reads.lean ====
section
/-! DEFINITION. What each register reads as (R7, R8, and the register tables of the chapters): the stored fields, with the
fields that show live state in their places. -/

namespace Sys2Proof.Machine


/-- A list of bits as a number: bit n is set where p holds. -/
def maskOf (n : Nat) (p : Nat → Bool) : Nat := ((List.range n).filter p).foldl (fun v i => v + 2 ^ i) 0

/-- A device time in the fields of R202: nanoseconds, and seconds [31:0]. -/
def timeWord (t : Nat) : Nat := nanosOf t + secondsOf t % 2 ^ 32 * 2 ^ 32

/-! ## Selections held per requester code (R184, R257) -/

def selectDefault : Nat → Nat := fun _ => 0

/-- The counter a requester reads through SWC_CTR_FRAMES and SWC_CTR_OCTETS. -/
def State.counterSel (s : State) (r : Requester) : Nat := SMap.get selectDefault s.swc.select r.code

/-- The key context a requester selects. -/
def State.contextSel (s : State) (r : Requester) : Nat := SMap.get selectDefault s.swc.select (65536 + r.code)

def State.setSel (s : State) (k n : Nat) : State := { s with swc := { s.swc with select := SMap.set selectDefault k n s.swc.select } }

def State.counterAt (s : State) (n : Nat) : Nat × Nat := SMap.get (fun _ => (0, 0)) s.swc.counters n

/-! ## Block by block -/

def DevState.code (x : DevState) : Nat :=
  match x with | .OFF => 0 | .GHOST => 1 | .LOADING => 2 | .CURTAIN => 3 | .STAGE => 4

def DevCause.code (x : DevCause) : Nat :=
  match x with
  | .PORST => 0 | .WARM => 1 | .RESTART => 2 | .NO_IMAGE => 3 | .SELFTEST_FAIL => 4 | .FAULT => 5 | .ZEROIZE => 6 | .RECOVERED => 7

/-- SYS (R61, R87). -/
def State.readSys (s : State) (r : RegName) (v : Nat) : Nat :=
  let d := s.dev
  match r with
  | .SYS_DEVICE_STATE => d.state.code + 256 * d.cause.code
  | .SYS_IMAGE_STATUS =>
    flag d.slotB + 2 * flag d.failedA + 4 * flag d.failedB + 2 ^ 8 * d.reasonA.toNat + 2 ^ 16 * d.reasonB.toNat
  | .SYS_IMAGE_VERSION => d.imageVersion.toNat
  | .SYS_MIN_IMAGE_VERSION => s.vlt.store.minVersion.toNat
  | .SYS_BOOT_NONCE => d.nonce.toNat
  | .SYS_STAGING =>
    flag (d.session.any (fun x => !x.recovery)) + 4 * flag (d.session.any (fun x => !x.recovery && x.slotB)) + 8 * flag d.stagingDone +
      2 ^ 8 * d.stagingResult.toNat
  | .SYS_AMEND_SEQUENCE => d.amendSeq.toNat
  | .SYS_SERIAL => Config.serial.toNat
  | .SYS_BOOT_ROM_VERSION => Config.bootRomVersion.toNat
  | _ => v

/-- The slow blocks GLT, PWR, OPT and MGT (R76, R117, R208, R457). -/
def State.readSlow (s : State) (r : RegName) (i v : Nat) : Nat :=
  match r with
  | .GLT_BRIDGE_STATUS => setBits v 0 1 (flag (s.bridge .GLT).isSome)
  | .PWR_BRIDGE_STATUS => setBits v 0 1 (flag (s.bridge .PWR).isSome)
  | .OPT_BRIDGE_STATUS => setBits v 0 1 (flag (s.bridge .OPT).isSome)
  | .MGT_BRIDGE_STATUS => setBits v 0 1 (flag (s.bridge .MGT).isSome)
  | .GLT_SENSE => flag s.pins.zeroize + 2 * flag s.pins.tamper + 4 * flag s.pins.warm
  | .PWR_DOMAIN_STATUS => withFields v [(0, 3, (s.domain i).state.ctorIdx), (16, 16, min 65535 (s.domainCount i))]
  | .OPT_LSM_STATUS =>
    let m := s.lsm i
    flag (s.pins.lsmPresent.getLsbD i) + 2 * m.state.ctorIdx + 16 * m.reject.toNat + 2 ^ 8 * m.channelFault.toNat + 2 ^ 16 * flag m.wear +
      2 ^ 17 * flag m.i2c
  | .OPT_LSM_HOURS => s.litHours i % 2 ^ 32
  | .OPT_LSM_RATED => (s.lsm i).rated.toNat
  | .OPT_LSM_REMAIN => s.lifeLeft i
  | .MGT_SEG_STATUS => 1
  | .MGT_SEG_MAC => (Config.segMac i).toNat
  | .MGT_TIME_NOW => timeWord s.now
  | .MGT_TIME_NOW_HIGH => s.mgt.timeHigh.toNat
  | .MGT_TIME_STATUS => withFields v [(0, 1, flag (s.timeInput 0).seen), (1, 1, flag (s.timeInput 1).seen)]
  | .MGT_PPS_CAPTURE =>
    let x := s.timeInput i
    nanosOf x.capture + secondsOf x.capture % 65536 * 2 ^ 32 + 2 ^ 62 * flag x.lost + 2 ^ 63 * flag x.valid
  | .MGT_TOD_DATA =>
    let x := s.timeInput i
    (x.fifo.headD 0).toNat + 2 ^ 8 * flag (!x.fifo.isEmpty) + 2 ^ 9 * flag x.overflow
  | _ => v

/-- FLT (R471). -/
def State.readFlt (s : State) (r : RegName) (i v : Nat) : Nat :=
  match r with
  | .FLT_STATUS => withFields v [(0, 9, s.flt.fifo.length), (12, 12, s.vlt.store.retired.length)]
  | .FLT_DEVICE_CTRL => flag s.deviceCurtained
  | .FLT_SCOPE_PORT => setBits v 1 1 (flag (s.curtained .port i))
  | .FLT_SCOPE_ENGINE => setBits v 1 1 (flag (s.curtained .engine i))
  | .FLT_SCOPE_HOST => setBits v 1 1 (flag (s.curtained .host i))
  | .FLT_SCOPE_TROUPE => setBits v 1 1 (flag (s.curtained .troupe i))
  | .FLT_SCOPE_SLICE => if i = 0 then 0 else setBits v 1 1 (flag (s.curtained .slice i))
  | .FLT_RECORD => match s.flt.fifo with
    | x :: _ => leAt x.bytes (8 * i) 8
    | [] => 0
  | _ => v

/-- RDN (R431). -/
def State.readRdn (s : State) (r : RegName) (i v : Nat) : Nat :=
  match r with
  | .RDN_BILLING =>
    let u := s.unit i
    u.number.toNat + 2 ^ 16 * flag (s.isLead i) + 2 ^ 17 * u.state.ctorIdx + 2 ^ 19 * flag u.meshSilent + 2 ^ 20 * flag u.sidebandSilent
  | .RDN_REHEARSAL => 4 * s.rdn.phase.ctorIdx + 16 * (2 * s.rdn.pair)
  | .RDN_STATUS =>
    withFields v [(0, 10, maskOf 10 (fun n => s.gap n != .closed)), (16, 10, maskOf 10 (fun n => SMap.get pbaDefault s.rdn.degraded n))]
  | _ => v

/-- STK (R446). -/
def State.readStk (s : State) (r : RegName) (i v : Nat) : Nat :=
  match r with
  | .STK_TX_CMD => flag s.sendBusy * 2 ^ 60
  | .STK_STATUS =>
    s.stk.state.code + 2 ^ 4 * s.stk.cause + 2 ^ 8 * (s.stk.member % 8) + 2 ^ 11 * (s.stk.master.getD 0 % 8) + 2 ^ 14 * flag s.masterVisible +
      2 ^ 16 * maskOf 8 (fun m => s.visibleMembers.contains m) + 2 ^ 32 * (s.stk.number % 65536) + 2 ^ 48 * (s.stk.masterNum % 65536)
  | .STK_TIME_OFFSET => (BitVec.ofInt 64 s.stk.offset).toNat
  | .STK_RX_PTR => s.stk.rxProd + 2 ^ 16 * s.stk.rxCons
  | .STK_MEMBER =>
    let p := s.stackPeer i
    let ls := s.linksTo i
    let top := ls.foldl (fun n l => max n (s.stackLink l).version) 0
    p.number % 65536 + 2 ^ 16 * (p.state % 8) + 2 ^ 19 * flag p.digest + 2 ^ 20 * (top % 4) + 2 ^ 22 * (ls.length % 64)
  | .STK_LINK =>
    let l := s.stackLink i
    flag (s.designated i) + 2 * flag l.established + 4 * flag l.silent + 8 * (l.version % 4) + 32 * (l.peer % 8) + 2 ^ 32 * l.delay.toNat
  | _ => v

/-- PRT (R116): the window of a port whose type is NONE reads zero (R88). -/
def State.readPrt (s : State) (r : RegName) (i v : Nat) : Nat :=
  if s.portType (i / r.info.count2) = 0 then 0
  else
    let p := s.port i
    match r with
    | .PRT_STATUS => flag p.linkUp + 2 * flag p.paused + 2 ^ 8 * p.classPaused.toNat + 2 ^ 16 * p.xoff.toNat
    | .PRT_TX_TS_TIME => match p.stamps with
      | x :: _ => timeWord x.2
      | [] => 0
    | .PRT_TX_TS_TAG => match p.stamps with
      | x :: _ => x.1.toNat + 2 ^ 16 * (secondsOf x.2 / 2 ^ 32) + 2 ^ 63
      | [] => 0
    | _ => v

/-- CLS (R139). -/
def State.readCls (s : State) (r : RegName) (i v : Nat) : Nat :=
  match r with
  | .CLS_SCENE_STATUS =>
    s.scn.current.toNat + 2 ^ 16 * s.scn.pending.toNat + 2 ^ 32 * (s.slots.filter (fun x => x.2.state != .FREE)).length +
      2 ^ 35 * flag s.armedSlot.isSome + 2 ^ 40 * s.scn.lastStatus.toNat
  | .CLS_SCENE_SLOT =>
    let x := s.slot i
    if x.state == .FREE then 0 else x.scene.toNat + 2 ^ 16 * x.state.ctorIdx + 2 ^ 32 * (s.inflight x.scene % 2 ^ 32)
  | _ => v

/-- TBL (R162). -/
def State.readTbl (s : State) (r : RegName) (i v : Nat) : Nat :=
  match r with
  | .TBL_STATUS => setBits v 0 1 (flag (s.tbl.finished.any (fun x => x.1.isNone)))
  | .TBL_AGE_CTRL => setBits v 16 16 s.tbl.now.toNat
  | .TBL_EVICTED_HEAD => match s.tbl.evicted with
    | x :: _ => x.table % 128 + 2 ^ 7 + 2 ^ 8 * x.action.toNat + 2 ^ 32 * x.stamp.toNat
    | [] => 0
  | .TBL_EVICTED_KEY => match s.tbl.evicted with
    | x :: _ => leAt x.key (4 * i) 4
    | [] => 0
  | .TBL_TABLE_COUNT => s.tableCount i
  | _ => v

/-- SWC (R184). -/
def State.readSwc (s : State) (r : Requester) (reg : RegName) (i v : Nat) : Nat :=
  match reg with
  | .SWC_POOL => setBits v 32 21 s.sharedPart.toNat
  | .SWC_SPILL_CFG => s.tbl.placement.spillMib % 65536 + 2 ^ 32 * s.spillUsed
  | .SWC_Q_DEPTH => s.depthOf (i / 8) (i % 8) false + 2 ^ 32 * s.depthOf (i / 8) (i % 8) true
  | .SWC_IN_USE => s.inUse (i / 8) (i % 8)
  | .SWC_GROUP => setBits v 32 6 ((List.range 32).filter (s.memberLive i)).length
  | .SWC_MEMBER => setBits v 17 1 (flag (s.memberLive (i / 32) (i % 32)))
  | .SWC_CTR_SELECT => s.counterSel r
  | .SWC_CTR_FRAMES => (s.counterAt (s.counterSel r)).1
  | .SWC_CTR_OCTETS => (s.counterAt (s.counterSel r)).2
  | _ => v

/-- The head tag of a class queue: zero when the queue is empty or strict (R190). -/
def State.queueTag (s : State) (p c : Nat) : Nat :=
  if bit (s.fld Fld.TMS_PORT_CFG_STRICT p) c then 0
  else match earliest ((s.subs p c).filterMap (s.head p c)) with
    | some k => (k.tag.getD 0).toNat
    | none => 0

/-- TMS (R207). -/
def State.readTms (s : State) (r : RegName) (i v : Nat) : Nat :=
  match r with
  | .TMS_PORT_VTIME => s.vtime i 0 % 2 ^ 48
  | .TMS_Q_STATUS =>
    let p := i / 8
    let c := i % 8
    let waits := s.swc.copies.any (fun k => k.port == p && k.cls == c && !k.started)
    s.queueTag p c + 2 ^ 48 * flag waits + 2 ^ 49 * flag (!s.conforming .queue i) + 2 ^ 50 * flag (!s.gateOpen p c) + 2 ^ 51 * flag (s.classPaused p c)
  | .TMS_TT_STATUS =>
    let t := SMap.get operDefault s.tms.oper i
    let entry := match t with
      | some t => ((t.segmentAt (t.position s.now)).map (·.entry)).getD 0
      | none => 0
    withFields v [(0, 1, flag (s.changeAt i).isSome), (1, 1, flag t.isSome), (16, 10, entry)]
  | _ => v

/-- OFL (R232). -/
def State.readOfl (s : State) (r : RegName) (v : Nat) : Nat :=
  match r with
  | .OFL_EVENT_HEAD => match s.ofl.events with
    | x :: _ => x.kind % 16 + 2 ^ 15 + 2 ^ 16 * (x.index % 65536) + 2 ^ 32 * (x.cause % 256)
    | [] => 0
  | _ => v

/-- A limit of R249 is reached. -/
def KeyCtx.spent (k : KeyCtx) : Bool := k.state != .EMPTY && (k.limit ≤ k.used || (3 ≤ k.alg && k.byteLimit ≤ k.bytes))

/-- CPH (R257). -/
def State.readCph (s : State) (r : Requester) (reg : RegName) (i v : Nat) : Nat :=
  let c := s.contextSel r
  let k := s.keyCtx c
  match reg with
  | .CPH_ENGINE_STATE =>
    let e := s.engine i
    let asleep := e.state == .IN_SERVICE && !s.domainOn (groupOf i)
    (if asleep then 3 else e.state.ctorIdx) + 2 ^ 8 * min 255 e.faults
  | .CPH_STATUS =>
    withFields v [(0, 6, s.pool.length), (8, 12, s.vlt.store.counters.length)]
  | .CPH_CTX_SELECT => c
  | .CPH_CTX_STATUS =>
    k.state.ctorIdx + 4 * (k.alg % 8) + 2 ^ 5 * flag (s.isHot c) + 2 ^ 6 * flag k.spent + 2 ^ 7 * flag k.succ.isSome + 2 ^ 8 * flag k.prev.isSome +
      2 ^ 9 * flag k.persist + 2 ^ 10 * flag k.wait + 2 ^ 16 * k.epoch.toNat + 2 ^ 32 * (k.owner % 4096) + 2 ^ 48 * k.ivPrefix.toNat
  | .CPH_CTX_USED => k.used % 2 ^ 49
  | .CPH_CTX_BYTES => if 3 ≤ k.alg then k.bytes % 2 ^ 51 else 0
  | .CPH_CTX_LIMIT => k.limit % 2 ^ 49
  | .CPH_CTX_BYTE_LIMIT => k.byteLimit % 2 ^ 51
  | .CPH_CTX_CHECKPOINT => if k.persist then k.p % 2 ^ 49 else 0
  | .CPH_CTX_CTRL => k.weight % 256 + 2 ^ 8 * flag k.pin
  | _ => v

/-- A register of a link window whose sub-link the port does not have: it reads zero and takes no write (R312). -/
def State.noLink (s : State) (r : RegName) (i : Nat) : Bool :=
  match r with
  | .HEP_LINK_CTRL => !s.linkExists (i / 4) (i % 4)
  | .HEP_LINK_STATUS => !s.linkExists (i / 4) (i % 4)
  | .HEP_IDE_CTRL => !s.linkExists (i / 4) (i % 4)
  | .HEP_IDE_STATUS => !s.linkExists (i / 4) (i % 4)
  | .HEP_LINK_BARS => !s.linkExists (i / 4) (i % 4)
  | _ => false

/-- HEP (R312). -/
def State.readHep (s : State) (r : RegName) (i v : Nat) : Nat :=
  let k := s.hostLink i
  if s.noLink r i then 0
  else match r with
  | .HEP_TAG_STATUS => (s.outstanding i).length + 2 ^ 16 * (s.hep.quarantine.filter (fun q => q.port == i)).length
  | .HEP_LINK_STATUS =>
    flag k.up + 2 * flag k.flit + 4 * (k.speed % 8) + 32 * (k.width % 32) + 2 ^ 10 * flag (s.inPerst (i / 4)) + 2 ^ 11 * flag k.pf0.flr +
      2 ^ 12 * flag k.pf1.flr
  | .HEP_IDE_STATUS => setBits v 0 4 (maskOf 4 (s.streamSecure (i / 4) (i % 4)))
  | .HEP_LINK_BARS =>
    k.bar0Log2 % 32 + 2 ^ 8 * (k.bar2Log2 % 32) + 2 ^ 16 * flag k.pf0.mse + 2 ^ 17 * flag k.pf0.bme + 2 ^ 18 * flag k.pf1.mse + 2 ^ 19 * flag k.pf1.bme +
      2 ^ 20 * flag k.pf1.pasid + 2 ^ 21 * flag k.pf1.d3
  | _ => v

/-- Element 0 of the arrays over the slices reads zero and takes no write (R331). -/
def sliceZero (r : RegName) (i : Nat) : Bool := r.info.block == .SLC && r.info.count == 4096 && i == 0

/-- SLC (R331). -/
def State.readSlc (s : State) (r : RegName) (i v : Nat) : Nat :=
  if sliceZero r i then 0
  else match r with
  | .SLC_SLICE_STATE => setBits v 32 32 (min (2 ^ 32 - 1) (s.stale i))
  | .SLC_USAGE => s.sliceCells i % 2 ^ 21 + 2 ^ 32 * ((s.ownedContexts i).length % 2 ^ 19)
  | _ => v

/-- QRG (R356). -/
def State.readQrg (s : State) (r : RegName) (i v : Nat) : Nat :=
  let q := s.queue i
  match r with
  | .QRG_Q_CTRL => setBits v 0 1 (flag (q.state == .RUNNING || q.state == .DRAINING))
  | .QRG_Q_STATUS => q.state.code + 4 * flag q.refused + 2 ^ 8 * (q.errCode % 256) + 2 ^ 16 * (q.c % 65536) + 2 ^ 32 * (q.p % 65536) + 2 ^ 48 * (q.cqP % 65536)
  | .QRG_ERR_INDEX => q.errIndex % 65536 + 2 ^ 16 * (q.errSource % 4) + 2 ^ 24 * (q.overflow.length % 16)
  | .QRG_Q_CQ_STATUS => q.cqC % 65536 + 2 ^ 16 * flag q.phase
  | _ => v

/-- A burst of the descriptor in service waits for a request. -/
def Channel.waitsRequest (v : Channel) : Bool :=
  match v.serving with
  | some d => d.paced && v.granted < d.len && v.pending == 0 && v.written == v.granted
  | none => false

/-- BMV (R372). -/
def State.readBmv (s : State) (r : RegName) (i v : Nat) : Nat :=
  let c := s.chan i
  match r with
  | .BMV_PORT_STAGE => setBits v 32 10 (s.portBlocks i)
  | .BMV_CH_CTRL => setBits v 0 1 (flag (c.state == .RUNNING || c.state == .WAIT_END))
  | .BMV_CH_STATUS =>
    c.state.ctorIdx + 4 * flag c.stopping + 8 * flag c.appendPending + 16 * flag c.waitsRequest + 2 ^ 8 * c.lastStatus.toNat +
      2 ^ 16 * (c.pending % 65536) + 2 ^ 32 * (c.gen % 256) + 2 ^ 40 * (c.retries % 8)
  | .BMV_CH_CUR => c.cur / 32 * 32 % 2 ^ 64
  | .BMV_CH_DONE => c.done.toNat
  | _ => v

/-- TRP (R399). -/
def State.readTrp (s : State) (r : RegName) (i v : Nat) : Nat :=
  match r with
  | .TRP_DQ_STATUS => s.dqProd i % 65536 + 2 ^ 16 * (s.dqCons i % 65536)
  | .TRP_DQ_CONS => s.dqCons i % 65536
  | .TRP_CORE_STATUS => withFields v [(0, 1, flag (s.core i).stall), (1, 1, flag (s.core i).resetting)]
  | .TRP_THREAD_STATUS =>
    let t := s.thread i
    let flying := fun c => match s.opOf i c with
      | some o => o.result.isNone
      | none => false
    t.state.ctorIdx + 2 ^ 8 * maskOf 4 flying + 2 ^ 32 * t.evpend.toNat
  | _ => v

/-- A register as requester r reads it, voted fields in three-way disagreement aside. -/
def State.sample (s : State) (r : Requester) (reg : RegName) (i : Nat) : Word :=
  let v := (s.reg reg i).toNat
  let live : Nat :=
    if reg.info.fields.all (fun f => f.access == .RC) && reg != .SWC_CTR_FRAMES && reg != .SWC_CTR_OCTETS && reg != .MGT_TOD_DATA then
      if reg.info.block == .PRT && s.portType (i / reg.info.count2) == 0 then 0 else (s.ctr reg i).toNat
    else match reg.info.block with
      | .SYS => s.readSys reg v
      | .GLT | .PWR | .OPT | .MGT => s.readSlow reg i v
      | .FLT => s.readFlt reg i v
      | .RDN => s.readRdn reg i v
      | .STK => s.readStk reg i v
      | .PRT => s.readPrt reg i v
      | .CLS => s.readCls reg i v
      | .TBL => s.readTbl reg i v
      | .SWC => s.readSwc r reg i v
      | .TMS => s.readTms reg i v
      | .OFL => s.readOfl reg v
      | .CPH => s.readCph r reg i v
      | .KEY | .MEM | .LOCAL => v
      | .HEP => s.readHep reg i v
      | .QRG => s.readQrg reg i v
      | .BMV => s.readBmv reg i v
      | .SLC => s.readSlc reg i v
      | .TRP => s.readTrp reg i v
      | .CBD => if reg == .CBD_SLOT_TAKE || reg == .CBD_SLOT_PEEK then (s.cbSlot i).toNat else v
  BitVec.ofNat 64 live

/-- A register as it is read (R83). -/
def State.readReg (s : State) (r : Requester) (reg : RegName) (i : Nat) : Word :=
  s.votedRead reg (if reg.info.block == .CPH && reg.info.count == 1 then s.contextSel r else i) (s.sample r reg i)

end Sys2Proof.Machine
end

