-- ==== Sys2Proof/Machine/Writes.lean ====
section
/-! DEFINITION. What a write of each register does once it reaches it (R78, R79, and the register tables of the chapters): the
fields it stores, the values it ignores (R5), and the action it starts. -/

namespace Sys2Proof.Machine

/-- The requester a code names (R65). -/
def Requester.ofCode (n : Nat) : Requester :=
  match n / 4096 with
  | 0 => .pf0 (Fin.ofNat 16 n) 0
  | 1 => .slice (Fin.ofNat 4096 n)
  | 2 => .cpc (Fin.ofNat 2 (n / 4)) (Fin.ofNat 4 n)
  | 3 => .vault (Fin.ofNat 2 n)
  | _ => .troupe (Fin.ofNat 8 (n / 256)) (Fin.ofNat 16 (n / 16)) (Fin.ofNat 16 n)

/-- A register write as its block sees it: the register, the element, the value it held, the value the plain rules of R7
give, and the bits written, which say what W1S and WO fields do. -/
structure RegWrite where
  reg : RegName
  idx : Nat
  old : Word
  new : Word
  w : Word
  mask : Word

/-- A field that keeps its old value unless its new one is allowed (R5). -/
def RegWrite.guard (x : RegWrite) (f : FieldPos) (ok : Nat → Bool) : RegWrite :=
  if ok (fieldOf x.new f.lo f.width) then x else { x with new := withField x.new f.lo f.width (fieldOf x.old f.lo f.width) }

/-- The written value of a field. -/
def RegWrite.at (x : RegWrite) (f : FieldPos) : Nat := fieldOf x.new f.lo f.width

/-- A W1S or one-bit WO field was written 1. -/
def RegWrite.hits (x : RegWrite) (n : Nat) : Bool := bit x.w.toNat n

/-- Some bit of a field was written. -/
def RegWrite.touches (x : RegWrite) (f : FieldPos) : Bool := fieldOf x.mask f.lo f.width != 0

def State.store (s : State) (x : RegWrite) : State := s.setReg x.reg x.idx x.new

def between (lo hi n : Nat) : Bool := lo ≤ n && n ≤ hi

/-! ## Ports, classifier, tables -/

/-- PRT, OPT (R116, R117): the window of a port whose type is NONE takes no write (R88). -/
def State.writePrt (s : State) (x : RegWrite) : State :=
  if s.portType (x.idx / x.reg.info.count2) = 0 then s
  else match x.reg with
    | .PRT_CONFIG => s.prtConfig x.idx x.new.toNat
    | .PRT_PFC_WM => s.pfcWm (x.idx / 8) (x.idx % 8) x.w x.mask
    | _ => s.store x

def State.writeOpt (s : State) (x : RegWrite) : State :=
  match x.reg with
  | .OPT_ENGINE_PLAN => s.planWrite x.idx x.new
  | .OPT_LB_CELLS => s.lbCellsSet (x.idx / 16) (x.idx % 16) (x.at Fld.OPT_LB_CELLS_CELLS)
  | .OPT_LASER_CTRL =>
    let s := s.store x
    let s := if x.hits 8 then s.lsmEject x.idx else s
    if x.hits 9 then s.lsmRetry x.idx else s
  | _ => s.store x

/-- CLS (R139). -/
def State.writeCls (s : State) (x : RegWrite) : State :=
  match x.reg with
  | .CLS_SCENE_COMMIT =>
    if x.hits 17 then s.sceneCancel
    else (s.store x).sceneCommit (BitVec.ofNat 16 (x.at Fld.CLS_SCENE_COMMIT_SCENE)) (x.at Fld.CLS_SCENE_COMMIT_TIMED == 1)
  | .CLS_SCENE_ACT_TIME => s.store (x.guard Fld.CLS_SCENE_ACT_TIME_NANOSECONDS (fun n => decide (n < 1000000000)))
  | .CLS_RETIRE_LIMIT => s.store (x.guard Fld.CLS_RETIRE_LIMIT_MS (fun n => n != 0))
  | .CLS_PARSE_CTRL =>
    s.store ((x.guard Fld.CLS_PARSE_CTRL_SLOW_DIE (fun n => n != 3)).guard Fld.CLS_PARSE_CTRL_RAW_OFFSET (fun n => decide (n ≤ 448)))
  | .CLS_PORT_START => s.store (x.guard Fld.CLS_PORT_START_DEFAULT_ACTION (fun n => decide (n ≤ 1048575)))
  | .CLS_TABLE_KEY =>
    s.store ((x.guard Fld.CLS_TABLE_KEY_KEY_BYTES (between 1 64)).guard Fld.CLS_TABLE_KEY_MISS_ACTION (fun n => decide (n ≤ 1048575)))
  | _ => s.store x

def State.tblRefused (s : State) : State := s.setFld Fld.TBL_STATUS_CFG_REFUSED 0 1

/-- LOG2_BUCKETS of a table (R141). -/
def log2Range (t : Nat) : Nat × Nat := if t < 64 then (4, 21) else if t = 65 then (4, 19) else (4, 26)

/-- The pool ranges of two exact-match tables overlap. -/
def State.poolClash (s : State) (t base k u : Nat) : Bool :=
  u != t && overlap base (2 ^ k) (s.tableBase u) (2 ^ s.log2 u)

/-- The table holds an entry: one that lies in its buckets, and in those of no enabled table where it is itself disabled. -/
def State.tableHolds (s : State) (t : Nat) : Bool :=
  !(s.tableSlots t).isEmpty &&
  (s.tableOn t || 64 ≤ t || !(List.range 64).any (fun u => s.tableOn u && s.poolClash t (s.tableBase t) (s.log2 t) u))

/-- A table configuration may not stand (R141): the flow table, enabled, lies in the region LOADING gave it (R20). -/
def State.tableCfgBad (s : State) (t : Nat) (new : Word) : Bool :=
  let k := fieldOf new 0 5
  let base := fieldOf new 8 21
  let r := log2Range t
  k < r.1 || r.2 < k || (t = 66 && fieldOf new 5 1 == 1 && !(s.tbl.placement.flowLog.any (fun n => decide (k ≤ n)))) ||
  (t < 64 && (base % 2 ^ k != 0 || 2097152 < base + 2 ^ k ||
    (fieldOf new 5 1 == 1 && (List.range 64).any (fun u => s.tableOn u && s.poolClash t base k u))))

/-- A write of TBL_TABLE_CFG. -/
def State.tableCfgWrite (s : State) (t : Nat) (x : RegWrite) : State :=
  let x := x.guard Fld.TBL_TABLE_CFG_EVICT (fun n => n != 3)
  let moved := fieldOf x.new 0 5 != fieldOf x.old 0 5 || (t < 64 && fieldOf x.new 8 21 != fieldOf x.old 8 21)
  if t = 64 then s
  else if s.tableCfgBad t x.new || (moved && s.tableHolds t) then s.tblRefused
  else s.store x

/-- A table command is accepted by the command interface (R158): the staging registers are copied, the update engine performs it,
and its end is TABLE_COMMAND_DONE. One written while another is not done is dropped. -/
def State.tableAccept (s : State) (op t : Nat) (sel : Bool) (o : TableOperands) : State :=
  if s.tbl.finished.any (fun x => x.1.isNone) then s.setFld Fld.TBL_STATUS_CMD_OVERRUN 0 1
  else
    let r := s.tableCommand op t sel o
    { r.2 with tbl := { r.2.tbl with finished := r.2.tbl.finished ++ [(none, r.1)] } }

/-- The operands the staging registers hold (R158, R162). -/
def State.stagedOperands (s : State) : TableOperands :=
  { key := (List.range 16).flatMap (fun i => toLE 4 (s.fld Fld.TBL_ENTRY_BYTES i)), action := BitVec.ofNat 24 (s.fld Fld.TBL_ATTR_ACTION 0),
    pinned := s.flagAt Fld.TBL_ATTR_PINNED 0, ageLimit := BitVec.ofNat 15 (s.fld Fld.TBL_ATTR_AGE_LIMIT 0),
    index := BitVec.ofNat 28 (s.fld Fld.TBL_INDEX_INDEX 0) }

/-- Operands written into the staging registers. -/
def State.stageOperands (s : State) (o : TableOperands) : State :=
  let s := (List.range 16).foldl (fun s i => s.setFld Fld.TBL_ENTRY_BYTES i (leAt o.key (4 * i) 4)) s
  let s := s.setReg .TBL_ATTR 0 (BitVec.ofNat 64 (o.action.toNat + 2 ^ 24 * flag o.pinned + 2 ^ 32 * o.ageLimit.toNat))
  s.setFld Fld.TBL_INDEX_INDEX 0 o.index.toNat

/-- The head of the eviction FIFO is removed. -/
def State.evictedPop (s : State) : State := { s with tbl := { s.tbl with evicted := s.tbl.evicted.tail } }

/-- TBL (R162). -/
def State.writeTbl (s : State) (x : RegWrite) : State :=
  match x.reg with
  | .TBL_CMD => s.tableAccept (fieldOf x.w 0 4) (fieldOf x.w 4 7) (x.hits 11) s.stagedOperands
  | .TBL_TABLE_CFG => s.tableCfgWrite x.idx x
  | .TBL_SEED_A => if s.tableHolds x.idx then s.tblRefused else s.store x
  | .TBL_SEED_B => if s.tableHolds x.idx then s.tblRefused else s.store x
  | .TBL_AGE_CTRL => s.store (x.guard Fld.TBL_AGE_CTRL_PERIOD_LOG2 (fun n => decide (n ≤ 16)))
  | .TBL_EVICTED_POP => if x.hits 0 then s.evictedPop else s
  | _ => s.store x

/-! ## Switch core and traffic manager -/

def State.swcRefused (s : State) : State := s.setFld Fld.SWC_STATUS_CFG_REFUSED 0 1

/-- A write of SWC_POOL or SWC_IN_RESERVE stands unless the shared part becomes negative (R177). -/
def State.poolWrite (s : State) (x : RegWrite) : State := if (s.store x).sharedPart < 0 then s.swcRefused else s.store x

/-- A write of SWC_GROUP. -/
def State.groupWrite (s : State) (x : RegWrite) : State :=
  let x := x.guard Fld.SWC_GROUP_LOG2_SLOTS (between 4 12)
  let n := 2 ^ x.at Fld.SWC_GROUP_LOG2_SLOTS
  if x.at Fld.SWC_GROUP_BASE % n != 0 || 131072 < x.at Fld.SWC_GROUP_BASE + n then s.swcRefused else s.store x

/-- Groups that have a member register set. -/
def State.groupsSet (s : State) : List Nat :=
  let lo := RegName.key .SWC_MEMBER 0
  ((s.regs.filter (fun x => lo ≤ x.1 && x.1 < lo + 139264)).map (fun x => (x.1 - lo) / 32)).foldl
    (fun a g => if a.contains g then a else a ++ [g]) ([] : List Nat)

/-- A write of SWC_PIN: a member named that is not LIVE is re-pinned at once, in every group that uses the slot (R173). -/
def State.pinWrite (s : State) (x : RegWrite) : State :=
  let m := x.at Fld.SWC_PIN_MEMBER
  let s := s.store x
  (s.groupsSet.filter (fun g =>
    let base := s.fld Fld.SWC_GROUP_BASE g
    base ≤ x.idx && x.idx < base + 2 ^ s.fld Fld.SWC_GROUP_LOG2_SLOTS g && !s.memberLive g m)).foldl (fun s g => s.repin g m) s

/-- A port number that may be named as an egress: 336 to 511 are reserved (R24, R25). -/
def notReserved (p : Nat) : Bool := decide (p < 336)

/-- A write of SWC_MEMBER: clearing VALID loses the member its slots (R173). -/
def State.memberWrite (s : State) (x : RegWrite) : State :=
  let x := x.guard Fld.SWC_MEMBER_PORT notReserved
  let lost := fieldOf x.old 16 1 == 1 && fieldOf x.new 16 1 == 0
  let s := s.store x
  if lost then s.repin (x.idx / 32) (x.idx % 32) else s

/-- A write of SWC_SPOT: one of N reloads the counter (R183). -/
def State.spotWrite (s : State) (x : RegWrite) : State :=
  let x := ((x.guard Fld.SWC_SPOT_N (fun n => decide (n ≤ 16777216))).guard Fld.SWC_SPOT_SNAP (between 1 8)).guard Fld.SWC_SPOT_DEST (fun n => decide (n ≤ 8))
  let s := s.store x
  if x.touches Fld.SWC_SPOT_N then
    { s with swc := { s.swc with spotDown := SMap.set (fun _ => 0) x.idx (x.at Fld.SWC_SPOT_N - 1) s.swc.spotDown } }
  else s

/-- SWC (R184). -/
def State.writeSwc (s : State) (r : Requester) (x : RegWrite) : State :=
  match x.reg with
  | .SWC_POOL => s.poolWrite x
  | .SWC_IN_RESERVE => s.poolWrite x
  | .SWC_Q_LIMIT => s.store (x.guard Fld.SWC_Q_LIMIT_ALPHA (fun n => decide (n ≤ 10)))
  | .SWC_Q_ECN =>
    let x := x.guard Fld.SWC_Q_ECN_PMAX (fun n => decide (n ≤ 256))
    if x.at Fld.SWC_Q_ECN_MARK_MAX ≤ x.at Fld.SWC_Q_ECN_MARK_MIN then s else s.store x
  | .SWC_SPOT => s.spotWrite x
  | .SWC_GROUP => s.groupWrite x
  | .SWC_MEMBER => s.memberWrite x
  | .SWC_PIN => s.pinWrite x
  | .SWC_MC_GROUP => s.store (x.guard Fld.SWC_MC_GROUP_COUNT (fun n => decide (n ≤ 1024)))
  | .SWC_MC_REPLICA => s.store (x.guard Fld.SWC_MC_REPLICA_PORT notReserved)
  | .SWC_MIRROR => s.store (x.guard Fld.SWC_MIRROR_PORT notReserved)
  | .SWC_SAF => (s.keepReady x.idx).store x
  | .SWC_CTR_SELECT => s.setSel r.code (fieldOf x.w 0 17)
  | _ => s.store x

/-- TMS (R207): the administrative list is frozen while a change is pending (R200). -/
def State.writeTms (s : State) (x : RegWrite) : State :=
  let frozen := fun p => (s.changeAt p).isSome
  match x.reg with
  | .TMS_Q_WEIGHT => s.store (x.guard Fld.TMS_Q_WEIGHT_WEIGHT (fun n => n != 0))
  | .TMS_Q_SHAPER => s.shaperWrite .queue x.idx x.w x.mask
  | .TMS_PORT_SHAPER => s.shaperWrite .port x.idx x.w x.mask
  | .TMS_TT_ADMIN_BASE => if frozen x.idx then s else s.store x
  | .TMS_TT_ADMIN_BASE_HIGH => if frozen x.idx then s else s.store x
  | .TMS_TT_ADMIN_CYCLE => if frozen x.idx then s else s.store x
  | .TMS_TT_ADMIN => if frozen (x.idx / 1024) then s else s.store x
  | .TMS_TT_ADMIN_CTRL => s.ttCtrlWrite x.idx x.w x.mask
  | .TMS_POLICER_RATE => s.policerWrite x.idx false x.w x.mask
  | .TMS_POLICER_SIZE => s.policerWrite x.idx true x.w x.mask
  | _ => s.store x

/-! ## Tunnel, storage and cipher -/

/-- An object command (R211, R232), done within its step. -/
def State.objCommand (s : State) (op type i : Nat) (keep : Bool) : State :=
  finishObj (match op with
    | 0 => s.objRead type i
    | 1 => s.objWrite type i keep
    | 2 => s.objRoll type i
    | _ => (Code.MALFORMED, s))

def State.oflPop (s : State) : State := { s with ofl := { s.ofl with events := s.ofl.events.tail } }

/-- OFL (R232). -/
def State.writeOfl (s : State) (x : RegWrite) : State :=
  match x.reg with
  | .OFL_CTRL => s.store (x.guard Fld.OFL_CTRL_MAX_PASSES (between 1 8))
  | .OFL_OBJ_CMD => s.objCommand (fieldOf x.w 0 2) (fieldOf x.w 2 2) (fieldOf x.w 8 16) (x.hits 4)
  | .OFL_EVENT_POP => if x.hits 0 then s.oflPop else s
  | _ => s.store x

/-- A context whose limit was raised above its use serves again (R248). -/
def KeyCtx.revive (k : KeyCtx) : KeyCtx :=
  if k.spent then k
  else if k.state == .EXHAUSTED then { k with state := .ACTIVE }
  else if k.state == .LOCKED && k.held == .EXHAUSTED then { k with held := .ACTIVE }
  else k

/-- A write of a limit of a context (R252): the vault may set it, any other requester only lower it. -/
def State.limitWrite (s : State) (r : Requester) (c : Nat) (which : LimitKind) (v : Nat) : State :=
  let k := s.keyCtx c
  let vault := match r with
    | .vault _ => true
    | _ => false
  let old := match which with
    | .uses => k.limit
    | .bytes => k.byteLimit
  let top := match which with
    | .uses => 2 ^ 48
    | .bytes => 2 ^ 50
  if v = 0 || top < v || (which == .bytes && k.alg < 3) then s
  else if vault || v < old then
    let k := match which with
      | .uses => { k with limit := v }
      | .bytes => { k with byteLimit := v }
    s.setKeyCtx c (if old < v then k.revive else k)
  else s.setFld Fld.CPH_STATUS_LIMIT_REFUSED 0 1

/-- A write of CPH_CTX_CTRL: at most 8,192 contexts are pinned (R247). -/
def State.ctxCtrl (s : State) (c weight : Nat) (pin : Bool) : State :=
  let k := s.keyCtx c
  s.setKeyCtx c { k with weight := if weight = 0 then k.weight else weight, pin := if pin && !k.pin && s.pinsFull then false else pin }

/-- CPH_CTX_CMD: LOCK and DROP_PREVIOUS; on an EMPTY context a command is ignored. -/
def State.ctxCommand (s : State) (c op : Nat) : State :=
  let k := s.keyCtx c
  if k.state == .EMPTY then s
  else if op = 1 then (s.lockOwn c).settleAll
  else if op = 2 then (s.setKeyCtx c { k with prev := none }).writeCold c
  else s

/-- CPH (R257): the context registers act on the context the requester selects. -/
def State.writeCph (s : State) (r : Requester) (x : RegWrite) : State :=
  let c := s.contextSel r
  let k := s.keyCtx c
  let full := fun (v : Nat) => (v &&& (x.mask.toNat ^^^ (2 ^ 64 - 1))) ||| x.w.toNat
  match x.reg with
  | .CPH_CTX_SELECT => s.setSel (65536 + r.code) (fieldOf x.w 0 18)
  | .CPH_CTX_LIMIT => s.limitWrite r c .uses (full k.limit % 2 ^ 49)
  | .CPH_CTX_BYTE_LIMIT => s.limitWrite r c .bytes (full k.byteLimit % 2 ^ 51)
  | .CPH_CTX_CTRL => s.ctxCtrl c (fieldOf x.w 0 8) (x.hits 8)
  | .CPH_CTX_CMD => s.ctxCommand c (fieldOf x.w 0 2)
  | _ => s.store x

/-! ## Host ports, slices, queues, bulk mover -/

/-- A retrain of a host link starts (R292). -/
def State.retrain (s : State) (l : Nat) : State := if (s.hostLink l).up then s.emit (.host l (.retrain (s.fld Fld.HEP_LINK_CTRL_MAX_SPEED l))) else s

/-- MAX_SPEED of a link (R292): 0 is ignored, and one below the current rate starts a retrain. -/
def State.maxSpeed (s : State) (l n : Nat) : State :=
  if n = 0 then s
  else
    let s := s.setFld Fld.HEP_LINK_CTRL_MAX_SPEED l n
    if n < (s.hostLink l).speed then s.retrain l else s

/-- HEP (R312): requests that waited for a Secure stream leave once none is required, or the stream named is Secure (R310). -/
def State.writeHep (s : State) (x : RegWrite) : State :=
  if s.noLink x.reg x.idx then s
  else match x.reg with
  | .HEP_LINK_CTRL =>
    let s := if x.touches Fld.HEP_LINK_CTRL_MAX_SPEED then s.maxSpeed x.idx (x.at Fld.HEP_LINK_CTRL_MAX_SPEED) else s
    if x.hits 3 then s.retrain x.idx else s
  | .HEP_IDE_CTRL => (s.store x).releaseHeld x.idx
  | _ => s.store x

/-- A write of SLC_SLICE_STATE. -/
def State.sliceStateWrite (s : State) (n : Nat) (x : RegWrite) : State :=
  let s := s.setFld Fld.SLC_SLICE_STATE_AUTO_RESTART n (x.at Fld.SLC_SLICE_STATE_AUTO_RESTART)
  let f := x.at Fld.SLC_SLICE_STATE_FORMAT
  let s := if f = 3 || f = s.sliceFormat n then s else if s.queuesOff n then s.setFld Fld.SLC_SLICE_STATE_FORMAT n f else s.slcRefused
  if s.sliceState n == 0 && s.stale n == 0 then s.setFld Fld.SLC_SLICE_STATE_GENERATION n (x.at Fld.SLC_SLICE_STATE_GENERATION) else s


/-- SLC (R331). -/
def State.writeSlc (s : State) (x : RegWrite) : State :=
  if sliceZero x.reg x.idx then s
  else match x.reg with
    | .SLC_CMD => s.sliceCommand (fieldOf x.w 0 3) (fieldOf x.w 8 12)
    | .SLC_PEER_SHARE => s.peerShare x.idx x.new
    | .SLC_SLICE_BIND => if s.sliceState x.idx == 0 then s.store x else s
    | .SLC_SLICE_STATE => s.sliceStateWrite x.idx x
    | .SLC_GRANT_Q => s.grantWrite x.idx .queues x.new
    | .SLC_GRANT_R => s.grantWrite x.idx .resources x.new
    | .SLC_WEIGHT => s.grantWrite x.idx .weight x.new
    | .SLC_QUEUE_CFG => s.queueCfg x.idx (x.at Fld.SLC_QUEUE_CFG_CLASS) (x.at Fld.SLC_QUEUE_CFG_KIND)
    | .SLC_DELIVER_SHAPER => s.shaperWrite .sliceDeliver x.idx x.w x.mask
    | .SLC_SEND_SHAPER => s.shaperWrite .sliceSend x.idx x.w x.mask
    | _ => s.store x

/-- ENABLE of a queue written: 1 enables (R354), 0 disables (R355). -/
def State.queueSwitch (s : State) (g : Nat) (on : Bool) : State :=
  match s.sliceOfQueue g with
  | none => if on && (s.queue g).state == .DISABLED then s.queueRefused g else s
  | some n => if on then s.queueEnable g n.1 else s.queueDisable g n.1

/-- A write of QRG_Q_CTRL: role and sizes stand only while the queue is DISABLED. -/
def State.queueCtrl (s : State) (g : Nat) (x : RegWrite) : State :=
  let off := (s.queue g).state == .DISABLED
  let x := ((x.guard Fld.QRG_Q_CTRL_ROLE (fun _ => off)).guard Fld.QRG_Q_CTRL_SQ_LOG2 (fun _ => off)).guard Fld.QRG_Q_CTRL_CQ_LOG2 (fun _ => off)
  let x := x.guard Fld.QRG_Q_CTRL_PREFETCH (between 1 16)
  let s := s.setReg .QRG_Q_CTRL g (withField x.new 0 1 0)
  if x.touches Fld.QRG_Q_CTRL_ENABLE then s.queueSwitch g (x.at Fld.QRG_Q_CTRL_ENABLE == 1) else s

/-- QRG (R356). -/
def State.writeQrg (s : State) (x : RegWrite) : State :=
  let off := (s.queue x.idx).state == .DISABLED
  match x.reg with
  | .QRG_Q_SQ_BASE => if off then s.store x else s.queueRefused x.idx
  | .QRG_Q_CQ_BASE => if off then s.store x else s.queueRefused x.idx
  | .QRG_Q_CTRL => s.queueCtrl x.idx x
  | .QRG_Q_STATUS => if x.hits 2 then s.setQueue x.idx { s.queue x.idx with refused := false } else s
  | .QRG_STALL_LIMITS => s.store (x.guard Fld.QRG_STALL_LIMITS_CQ_STALL_MS (fun n => n != 0))
  | _ => s.store x

/-- A write of BMV_CH_CTRL: STAGE_MAX, then ENABLE, ABORT and APPEND. -/
def State.chanCtrl (s : State) (c : Nat) (x : RegWrite) : State :=
  let x := x.guard Fld.BMV_CH_CTRL_STAGE_MAX (fun n => n != 0)
  let s := s.setReg .BMV_CH_CTRL c (withField x.new 0 1 0)
  let on := x.at Fld.BMV_CH_CTRL_ENABLE == 1
  let s := if x.touches Fld.BMV_CH_CTRL_ENABLE && on then s.chanEnable c else s
  let s := if x.hits 1 then s.chanAbort c else s
  let s := if x.touches Fld.BMV_CH_CTRL_ENABLE && !on then s.chanDisable c else s
  if x.hits 2 then s.chanAppend c else s

/-- The channel takes configuration writes. -/
def State.chanIdle (s : State) (c : Nat) : Bool := (s.chan c).state == .DISABLED || (s.chan c).state == .HALTED

/-- BMV (R372). -/
def State.writeBmv (s : State) (x : RegWrite) : State :=
  match x.reg with
  | .BMV_PORT_STAGE => s.stageShares x.idx x.new
  | .BMV_REQ_RAISE => s.raiseLine (fieldOf x.w 0 8)
  | .BMV_CH_CFG =>
    let space := fun n => n != 3
    if s.chanIdle x.idx then
      s.store ((((x.guard Fld.BMV_CH_CFG_BURST_LOG2 (between 6 12)).guard Fld.BMV_CH_CFG_SRC_SPACE space).guard Fld.BMV_CH_CFG_DST_SPACE space).guard
        Fld.BMV_CH_CFG_DESC_SPACE space)
    else s.setFld Fld.BMV_STATUS_CFG_REFUSED 0 1
  | .BMV_CH_NEXT => if s.chanIdle x.idx then s.store x else s
  | .BMV_CH_CTRL => s.chanCtrl x.idx x
  | _ => s.store x

/-! ## Troupe, callboard, control units, stack -/

/-- A core reset by a CPC core (R392). -/
def State.cpcCoreReset (s : State) (k : Nat) : State := if s.coreRuns k then s.coreReset k 3 else s

/-- TRP (R399). -/
def State.writeTrp (s : State) (r : Requester) (x : RegWrite) : State :=
  let cpc := match r with
    | .cpc _ _ => true
    | _ => false
  match x.reg with
  | .TRP_DQ_CFG => s.dqCfgWrite (x.idx / 2) (x.idx % 2) x.new
  | .TRP_DQ_CONS => s.dqConsWrite (x.idx / 2) (x.idx % 2) (fieldOf x.w 0 16)
  | .TRP_CORE_CFG =>
    let s := s.store x
    if x.hits 5 && cpc then s.cpcCoreReset x.idx else s
  | .TRP_THREAD_CTRL => s.threadControl r x.idx (fieldOf x.w 0 2) (fieldOf x.w 32 32)
  | .TRP_THREAD_EVSET => s.eventSet r x.idx (fieldOf x.w 0 16)
  | _ => s.store x

/-- CBD (R408). -/
def State.writeCbd (s : State) (r : Requester) (x : RegWrite) : State :=
  match x.reg with
  | .CBD_SLOT_WRITE => s.slotPut x.idx r.code (BitVec.ofNat 32 (fieldOf x.w 0 32))
  | .CBD_DEV_NOTIFY => if 47 < x.at Fld.CBD_DEV_NOTIFY_LINE then s else s.store x
  | _ => s.store x

/-- KICK (R418): the writer's unit is fed. -/
def State.kickBy (s : State) (r : Requester) : State :=
  match s.unitOf r with
  | some u => s.setUnit u { s.unit u with fed := true, kickDue := s.kickLimitAt }
  | none => s

/-- RDN (R431). -/
def State.writeRdn (s : State) (r : Requester) (x : RegWrite) : State :=
  let unit := s.unitOf r
  match x.reg with
  | .RDN_CFG =>
    let y := (x.guard Fld.RDN_CFG_GAP_CYCLES (between 400 25600)).guard Fld.RDN_CFG_KICK_LIMIT_US (between 100 50000)
    let s := if fieldOf y.new 16 10 = fieldOf x.old 16 10 then s else { s with rdn := { s.rdn with rehearsedAt := s.now } }
    s.store y
  | .RDN_BILLING => s
  | .RDN_CLAIM =>
    let n := fieldOf x.w 0 16
    match fieldOf x.w 16 2 with
    | 0 => s.claimBy r n .takeover
    | 1 => s.claimBy r n .rehearsal
    | 2 => s.claimBy r n .tie
    | _ => s.claimStatus Code.MALFORMED
  | .RDN_KICK => if x.hits 0 then s.kickBy r else s
  | .RDN_REHEARSAL =>
    match unit with
    | some u =>
      let s := if x.hits 0 then s.yieldBy u else s
      if x.hits 1 then s.doneBy u else s
    | none => s
  | .RDN_PROBE => match r with
    | .cpc u _ => if x.hits 0 then s.probeBy u.val else s
    | _ => s
  | _ => s.store x

/-- Events of a unit whose condition still holds when they are cleared (R429): an eviction, an OFL event, a pending slot, a
reply or a received frame not yet taken. -/
def State.standing (s : State) (u : Nat) : Nat :=
  let rx := 2 ^ s.fld Fld.RDN_LOCAL_RX_CFG_LOG2_SLOTS u
  s.blockEvents u +
  64 * flag (ringCount (s.fld Fld.RDN_LOCAL_VRING_RPL_PROD u) (s.fld Fld.RDN_LOCAL_VRING_RPL_CONS u) 16 != 0) +
  4096 * flag (ringHeld (s.fld Fld.RDN_LOCAL_RX_PTR_PROD u) (s.fld Fld.RDN_LOCAL_RX_PTR_CONS u) rx != 0)

/-- A ring configuration of R430 or R446: BASE and LOG2_SLOTS stand while ENABLE is 0. -/
def RegWrite.ringGuard (x : RegWrite) : RegWrite :=
  let off := fieldOf x.old 36 1 == 0
  (x.guard ⟨x.reg, 0, 30⟩ (fun n => off && n % 16384 == 0)).guard ⟨x.reg, 32, 4⟩ (fun n => off && between 4 12 n)

def RegWrite.enables (x : RegWrite) : Bool := fieldOf x.old 36 1 == 0 && fieldOf x.new 36 1 == 1

/-- The local window's registers (R429, R430). -/
def State.writeLocal (s : State) (x : RegWrite) : State :=
  let u := x.idx
  match x.reg with
  | .RDN_LOCAL_VRING =>
    let s := s.setFld Fld.RDN_LOCAL_VRING_REQ_PROD u (x.at Fld.RDN_LOCAL_VRING_REQ_PROD % 32)
    (s.setFld Fld.RDN_LOCAL_VRING_RPL_CONS u (x.at Fld.RDN_LOCAL_VRING_RPL_CONS % 32)).skipUnknown 16
  | .RDN_LOCAL_EVENTS => s.setReg .RDN_LOCAL_EVENTS u (BitVec.ofNat 64 (x.new.toNat ||| s.standing u))
  | .RDN_LOCAL_RX_CFG =>
    let x := x.ringGuard
    let s := s.store x
    if x.enables then s.setReg .RDN_LOCAL_RX_PTR u 0 else s
  | .RDN_LOCAL_TX_CFG =>
    let x := x.ringGuard
    let s := s.store x
    if x.enables then s.setReg .RDN_LOCAL_TX_PTR u 0 else s
  | .RDN_LOCAL_RX_PTR =>
    let size := 2 ^ s.fld Fld.RDN_LOCAL_RX_CFG_LOG2_SLOTS u
    let prod := s.fld Fld.RDN_LOCAL_RX_PTR_PROD u
    let cons := x.at Fld.RDN_LOCAL_RX_PTR_CONS
    if ringHeld prod cons size ≤ ringHeld prod (s.fld Fld.RDN_LOCAL_RX_PTR_CONS u) size then
      s.setFld Fld.RDN_LOCAL_RX_PTR_CONS u (cons % (2 * size))
    else s
  | .RDN_LOCAL_TX_PTR =>
    let size := 2 ^ s.fld Fld.RDN_LOCAL_TX_CFG_LOG2_SLOTS u
    let cons := s.fld Fld.RDN_LOCAL_TX_PTR_CONS u
    let prod := x.at Fld.RDN_LOCAL_TX_PTR_PROD
    let held := ringHeld (prod % (2 * size)) cons size
    if held ≤ size && ringHeld (s.fld Fld.RDN_LOCAL_TX_PTR_PROD u) cons size ≤ held then s.setFld Fld.RDN_LOCAL_TX_PTR_PROD u (prod % (2 * size))
    else s
  | _ => s.store x

/-- STK (R446). -/
def State.writeStk (s : State) (x : RegWrite) : State :=
  match x.reg with
  | .STK_CFG => s.store ((x.guard Fld.STK_CFG_MAX_VERSION (between 1 2)).guard Fld.STK_CFG_LEAD_US (fun n => decide (100 ≤ n)))
  | .STK_STATUS => s
  | .STK_RX_CFG =>
    let x := x.ringGuard
    let s := s.store x
    if x.enables then s.setStk { s.stk with rxProd := 0, rxCons := 0 } else s
  | .STK_RX_PTR =>
    let size := 2 ^ s.fld Fld.STK_RX_CFG_LOG2_SLOTS 0
    let cons := fieldOf x.w 16 16
    if x.touches Fld.STK_RX_PTR_CONS && ringHeld s.stk.rxProd cons size ≤ ringHeld s.stk.rxProd s.stk.rxCons size then
      s.setStk { s.stk with rxCons := cons % (2 * size) }
    else s
  | .STK_TX_CMD => s.stackCommand x.w
  | _ => s.store x

/-! ## System, power, faults -/

/-- The slow side of GLT, PWR and MGT, and the bridges' fast side (R76, R208, R457, R491). -/
def State.writeSlow (s : State) (r : Requester) (x : RegWrite) : State :=
  let bridged := fun (s : State) => s.setReg x.reg 0 (BitVec.ofNat 64 (if x.hits 1 then setBits x.new.toNat 8 8 0 else x.new.toNat))
  match x.reg with
  | .GLT_BRIDGE_STATUS => bridged s
  | .PWR_BRIDGE_STATUS => bridged s
  | .OPT_BRIDGE_STATUS => bridged s
  | .MGT_BRIDGE_STATUS => bridged s
  | .PWR_CMD => s.powerCommand (fieldOf x.w 0 8)
  | .PWR_DOMAIN_CTRL => s.domainCtrl x.idx x.new
  | .MGT_TIME_STEP => s.timeStep x.w
  | .MGT_SEG_CTRL =>
    let heals := x.touches Fld.MGT_SEG_CTRL_ENABLE && r.code / 4096 == 2
    let s := s.store x
    if heals then s.healVoted (fun f => f.reg == .MGT_SEG_CTRL && f.idx == x.idx) else s
  | _ => s.store x

/-- The head of the fault record FIFO is removed. -/
def State.recordPop (s : State) : State := { s with flt := { s.flt with fifo := s.flt.fifo.tail } }

/-- FLT_DEVICE_CTRL.CURTAIN written 1 (R471). -/
def State.curtainCommand (s : State) : State := s.deviceCurtain .FAULT 7 none

/-- A write of a scope register: HOLD, then EXIT (R466, R467). -/
def State.scopeWrite (s : State) (k : ScopeKind) (x : RegWrite) : State :=
  let s := if bit x.mask.toNat 0 then s.scopeHold k x.idx (x.hits 0) else s
  if x.hits 4 then s.exitScope k x.idx else s

/-- FLT (R471). -/
def State.writeFlt (s : State) (x : RegWrite) : State :=
  match x.reg with
  | .FLT_DEVICE_CTRL => if x.hits 0 then s.curtainCommand else s
  | .FLT_RECORD_POP => if x.hits 0 then s.recordPop else s
  | .FLT_SCOPE_PORT => s.scopeWrite .port x
  | .FLT_SCOPE_ENGINE => s.scopeWrite .engine x
  | .FLT_SCOPE_HOST => s.scopeWrite .host x
  | .FLT_SCOPE_TROUPE => s.scopeWrite .troupe x
  | .FLT_SCOPE_SLICE => if x.idx = 0 then s else s.scopeWrite .slice x
  | _ => s.store x

/-- SYS (R61, R87). -/
def State.writeSys (s : State) (x : RegWrite) : State :=
  match x.reg with
  | .SYS_STAGING => if x.hits 3 then { s with dev := { s.dev with stagingDone := false } } else s
  | _ => s.store x

/-- A write of the bits in mask reaches a register. -/
def State.performWrite (s : State) (r : Requester) (reg : RegName) (i : Nat) (value mask : Word) : State :=
  let old := s.reg reg i
  let x : RegWrite := { reg := reg, idx := i, old := old, new := BitVec.ofNat 64 (plainWritten reg.info.fields old.toNat value.toNat mask.toNat),
                        w := value &&& mask, mask := mask }
  match reg.info.block with
  | .SYS => s.writeSys x
  | .GLT | .PWR | .MGT => s.writeSlow r x
  | .OPT => if reg == .OPT_BRIDGE_STATUS then s.writeSlow r x else s.writeOpt x
  | .FLT => s.writeFlt x
  | .RDN => s.writeRdn r x
  | .STK => s.writeStk x
  | .PRT => s.writePrt x
  | .CLS => s.writeCls x
  | .TBL => s.writeTbl x
  | .SWC => s.writeSwc r x
  | .TMS => s.writeTms x
  | .OFL => s.writeOfl x
  | .CPH => s.writeCph r x
  | .KEY | .MEM => s
  | .HEP => s.writeHep x
  | .QRG => s.writeQrg x
  | .BMV => s.writeBmv x
  | .SLC => s.writeSlc x
  | .TRP => s.writeTrp r x
  | .CBD => s.writeCbd r x
  | .LOCAL => s.writeLocal x

/-- A whole register written. -/
def State.writeWhole (s : State) (r : Requester) (reg : RegName) (i : Nat) (value : Word) : State :=
  s.performWrite r reg i value (if reg.info.wide then BitVec.ofNat 64 (2 ^ 64 - 1) else BitVec.ofNat 64 (2 ^ 32 - 1))

/-- The write in a slow bridge is performed (R73). -/
def State.performSlow (s : State) (b : SlowBlock) : State :=
  match s.bridge b with
  | none => s
  | some w => (s.setBridge b none).performWrite (Requester.ofCode w.requester) w.reg w.idx w.value w.mask

end Sys2Proof.Machine
end

