-- ==== Sys2Proof/Machine/Control.lean ====
section
/-! DEFINITION. Accesses to the control map (R62 to R75, R84): addresses, widths, half-latches, write buffers, the slow
bridges, and the local windows of the CPC units (R428) and of the Troupe threads (R376). -/

namespace Sys2Proof.Machine

/-! ## What an address means (R62, R428) -/

inductive Spot where
  | reg (t : Target)
  | key
  | sram (k : Nat)
  | ring (k : Nat)
  | hb0 (k : Nat)
  | place (p : Place)
  | nothing
  deriving DecidableEq, Repr

/-- Element 64 of the table configurations is reserved (R162). -/
def reservedElement (t : Target) : Bool := t.reg == .TBL_TABLE_CFG && t.idx == 64

def Target.spot (t : Target) : Spot := if reservedElement t then .nothing else .reg t

/-- The local window of a CPC unit. -/
def cpcSpot (u a : Nat) : Spot :=
  if a ≤ 0x80FFFFFF then .sram (16777216 * u + (a - 0x80000000))
  else if 0x90000000 ≤ a && a ≤ 0x9007FFFF then .ring (0x80000 * u + (a - 0x90000000))
  else if 0xC0000000 ≤ a then .hb0 (a - 0xC0000000)
  else match resolve a u with
    | some t => .reg t
    | none => .nothing

/-- Identity of a Troupe requester's thread (R374). -/
def threadOf (n : Fin 8) (k t : Fin 16) : Nat := 256 * n.val + 16 * k.val + t.val

/-- What a 4-byte address means to a requester. -/
def State.spotOf (s : State) (r : Requester) (a : Nat) : Spot :=
  if 0x80000000 ≤ a then
    match r with
    | .cpc u _ => cpcSpot u.val a
    | .troupe n k t => match s.placeOf (threadOf n k t) a 4 with
      | some p => .place p
      | none => .nothing
    | _ => .nothing
  else if blockAt a = some .KEY && (match r with | .vault _ => false | _ => true) then .key
  else match resolve a 0 with
    | some t => t.spot
    | none => .nothing

/-- Four bytes of a memory in a local window. -/
def State.spotRead (s : State) (x : Spot) : Nat :=
  match x with
  | .sram k => leNat ((List.range 4).map (fun i => SMap.get s.sramByte s.mem.sram (k + i)))
  | .ring k => leNat (readMem s.mem.vring k 4)
  | .hb0 k => leNat (readMem s.mem.hb0 k 4)
  | .place p => leNat (s.readPlace p 4)
  | _ => 0

def State.sramWrite (s : State) (k : Nat) : List Byte → State
  | [] => s
  | b :: bs => ({ s with mem := { s.mem with sram := SMap.set s.sramByte k b s.mem.sram } }).sramWrite (k + 1) bs

def State.spotWrite4 (s : State) (x : Spot) (v : Nat) : State :=
  let bs := toLE 4 v
  match x with
  | .sram k => s.sramWrite k bs
  | .ring k => { s with mem := { s.mem with vring := writeMem s.mem.vring k bs } }
  | .hb0 k => { s with mem := { s.mem with hb0 := writeMem s.mem.hb0 k bs } }
  | .place p => s.writePlace p bs
  | _ => s

/-- A size that R66 allows at an address, in 4-byte words; none for a narrow or misaligned access. -/
def words (a : Nat) (size : AccSize) : Option Nat :=
  match size with
  | .b4 => if a % 4 = 0 then some 1 else none
  | .b8 => if a % 8 = 0 then some 2 else none
  | _ => none

/-! ## Reads (R63, R64, R67, R69, R70, R75, R77) -/

/-- The counters of what happens on the medium alone: FEC codewords (R117), and collisions on a segment (R112, R118). -/
def countsWire (reg : RegName) : Bool :=
  match reg with
  | .PRT_FEC_CORRECTED => true
  | .PRT_FEC_UNCORRECTABLE => true
  | .MGT_SEG_COLLISIONS => true
  | .MGT_SEG_LATE_COLLISIONS => true
  | .MGT_SEG_EXCESS_COLLISIONS => true
  | _ => false

/-- What such a counter has gained since it was last read is a free value, and it saturates as every counter does (DESIGN CHOICE,
assumption log entry 40). -/
def State.countWire (s : State) (reg : RegName) (i : Nat) : State :=
  if countsWire reg then (s.bumpBy reg i s.free.toNat).drew else s

/-- Before a register is read: a slow write in flight to its block is performed first (R75), a sleeping domain wakes (R77), and a
counter of the medium takes what it has gained. -/
def State.approach (s : State) (reg : RegName) (i : Nat) : State :=
  let s := match bridgeOf reg with
    | some b => s.performSlow b
    | none => s
  (s.touchReg reg i).countWire reg i

/-- What a read of a register does to it: low for a read that includes the low half, high for one that includes the high half of a
64-bit register. Reads by PF0 do nothing (R70). -/
def State.readEffect (s : State) (r : Requester) (reg : RegName) (i : Nat) (low high : Bool) : State :=
  match r with
  | .pf0 _ _ => s
  | _ =>
    match reg with
    | .PRT_TX_TS_TAG => if high then s.popStamp i else s
    | .MGT_TIME_NOW => if low then { s with mgt := { s.mgt with timeHigh := BitVec.ofNat 16 (secondsOf s.now / 2 ^ 32) } } else s
    | .MGT_PPS_CAPTURE => if high then s.setTimeInput i { s.timeInput i with valid := false, lost := false } else s
    | .MGT_TOD_DATA => s.setTimeInput i { s.timeInput i with fifo := (s.timeInput i).fifo.tail, overflow := false }
    | .SWC_CTR_FRAMES =>
      let n := s.counterSel r
      if low then { s with swc := { s.swc with counters := SMap.set (fun _ => (0, 0)) n (0, (s.counterAt n).2) s.swc.counters } } else s
    | .SWC_CTR_OCTETS =>
      let n := s.counterSel r
      if low then { s with swc := { s.swc with counters := SMap.set (fun _ => (0, 0)) n ((s.counterAt n).1, 0) s.swc.counters } } else s
    | .CBD_SLOT_TAKE => if low then s.slotTaken i else s
    | reg => if low && reg.info.fields.all (fun f => f.access == .RC) then s.setCtr reg i 0 else s

/-- A 64-bit read of a 64-bit register. -/
def State.readWide (s : State) (r : Requester) (reg : RegName) (i : Nat) : Word × State :=
  let s := s.approach reg i
  if s.regOff reg i then (0, s) else (s.readReg r reg i, s.readEffect r reg i true true)

/-- A 32-bit read of a register or of one half of it; a is the address that tags the half-latch. -/
def State.readPart (s : State) (r : Requester) (t : Target) (a : Nat) : Nat × State :=
  let s := s.approach t.reg t.idx
  let off := s.regOff t.reg t.idx
  let v := if off then 0 else (s.readReg r t.reg t.idx).toNat
  let read := fun (low high : Bool) => if off then s else s.readEffect r t.reg t.idx low high
  if !t.reg.info.wide then (v, read true true)
  else if !t.high then (v % 2 ^ 32, (read true false).setLatch r (some (a, BitVec.ofNat 32 (v / 2 ^ 32))))
  else
    let after := read false true
    match s.latchOf r with
    | some (b, h) => if b + 4 = a then (h.toNat, after.setLatch r none) else (v / 2 ^ 32, after)
    | none => (v / 2 ^ 32, after)

/-- A 4-byte read; shown is the address an access error records. -/
def State.read4 (s : State) (r : Requester) (a shown : Nat) : Nat × State :=
  match s.spotOf r a with
  | .reg t => s.readPart r t a
  | .key => (0, s.badAccess r shown 3 false)
  | .nothing => (0, s.badAccess r shown 1 false)
  | m => (s.spotRead m, s)

/-- Why a 4-byte address gives no access at all (R84): its cause, for a reserved or a KEY address. -/
def Spot.refused (x : Spot) : Option Nat :=
  match x with
  | .key => some 3
  | .nothing => some 1
  | _ => none

/-- The cause of the one error of an aligned 64-bit access whose two halves are both refused (R84). -/
def State.pairRefused (s : State) (r : Requester) (a : Nat) : Option Nat :=
  (s.spotOf r a).refused.filter (fun _ => (s.spotOf r (a + 4)).refused.isSome)

/-- A read of the control map by a requester. -/
def State.mapReadAt (s : State) (r : Requester) (a shown : Nat) (size : AccSize) : Word × State :=
  if !s.mapAnswers then (0, s)
  else
    let s := s.splitBuffer r
    match words a size with
    | none => (0, s.badAccess r shown 2 false)
    | some 1 =>
      let x := s.read4 r a shown
      (BitVec.ofNat 64 x.1, x.2)
    | some _ =>
      let two := fun (_ : Unit) =>
        let x := s.read4 r a shown
        let y := x.2.read4 r (a + 4) (shown + 4)
        ((BitVec.ofNat 64 (x.1 + 2 ^ 32 * y.1), y.2) : Word × State)
      match s.spotOf r a, s.pairRefused r a with
      | .reg t, _ => if t.reg.info.wide then s.readWide r t.reg t.idx else two ()
      | _, some c => (0, s.badAccess r shown c false)
      | _, none => two ()

/-! ## Writes (R63, R64, R68, R73, R74) -/

/-- An admitted write: posted in its bridge, or performed. -/
def State.deliver (s : State) (r : Requester) (reg : RegName) (i : Nat) (value mask : Word) : State :=
  match bridgeOf reg with
  | some b => s.setBridge b (some { requester := r.code, reg := reg, idx := i, value := value, mask := mask })
  | none => s.performWrite r reg i value mask

/-- An admitted write: delivered, or, where its domain sleeps, once that is awake (R77). -/
def State.deliverAwake (s : State) (r : Requester) (reg : RegName) (i : Nat) (value mask : Word) : State :=
  match s.sleepingAt reg i with
  | some d => s.hold d (.write r reg i value mask)
  | none => s.deliver r reg i value mask

/-- A write of a register that its checks allow (R74, R412); o is 4 for a write of the high half alone. -/
def State.writeReg (s : State) (r : Requester) (reg : RegName) (i o : Nat) (value mask : Word) : State :=
  let a := s.admitChecked r reg i o
  if a.1 then a.2.deliverAwake r reg i value mask else a.2

def lowMask : Word := BitVec.ofNat 64 (2 ^ 32 - 1)
def wholeMask : Word := BitVec.ofNat 64 (2 ^ 64 - 1)

/-- A 32-bit write of a register or of one half of it. -/
def State.writePart (s : State) (r : Requester) (t : Target) (a v : Nat) : State :=
  if !t.reg.info.wide then s.writeReg r t.reg t.idx 0 (BitVec.ofNat 64 v) lowMask
  else if !t.high then s.setBuffer r (some (a, BitVec.ofNat 32 v))
  else match s.bufferOf r with
    | some (b, low) =>
      if b + 4 = a then (s.setBuffer r none).writeReg r t.reg t.idx 0 (BitVec.ofNat 64 (low.toNat + 2 ^ 32 * v)) wholeMask
      else s.writeReg r t.reg t.idx 4 (BitVec.ofNat 64 (2 ^ 32 * v)) (wholeMask - lowMask)
    | none => s.writeReg r t.reg t.idx 4 (BitVec.ofNat 64 (2 ^ 32 * v)) (wholeMask - lowMask)

def State.write4 (s : State) (r : Requester) (a shown v : Nat) : State :=
  match s.spotOf r a with
  | .reg t => s.writePart r t a v
  | .key => s.badAccess r shown 3 true
  | .nothing => s.badAccess r shown 1 true
  | m => s.spotWrite4 m v

/-- A 32-bit write that completes the low half the requester has buffered (R68). -/
def State.completes (s : State) (r : Requester) (a : Nat) (size : AccSize) : Bool :=
  size == .b4 && (match s.bufferOf r with | some (b, _) => b + 4 == a | none => false)

/-- A write of the control map by a requester. -/
def State.mapWriteAt (s : State) (r : Requester) (a shown : Nat) (size : AccSize) (value : Word) : State :=
  if !s.mapAnswers then s
  else
    let s := if s.completes r a size then s else s.splitBuffer r
    let v := value.toNat
    match words a size with
    | none => s.badAccess r shown 2 true
    | some 1 => s.write4 r a shown (v % 2 ^ 32)
    | some _ =>
      let two := fun (_ : Unit) => (s.write4 r a shown (v % 2 ^ 32)).write4 r (a + 4) (shown + 4) (v / 2 ^ 32)
      match s.spotOf r a, s.pairRefused r a with
      | .reg t, _ => if t.reg.info.wide then s.writeReg r t.reg t.idx 0 value wholeMask else two ()
      | _, some c => s.badAccess r shown c true
      | _, none => two ()

/-! ## PF0 and slice pages (R53, R85, R86, R297, R325, R356, R403) -/

/-- What an offset of a host window means: a control-map address, the MSI-X table of a link or its Pending Bit Array, a
hidden block, or nothing. -/
inductive HostSpot where
  | map (a : Nat)
  | msix (link off : Nat)
  | hidden
  | nothing
  deriving DecidableEq, Repr

/-- Control-map address of one of a slot's access points. -/
def slotAddr (i point : Nat) : Nat := addrOf .CBD_SLOT_WRITE i + point

/-- A slot access area: two slots at 0x00 and 0x40 from its start, each with its write, take and peek addresses. -/
def slotArea (first o : Nat) : HostSpot :=
  if o < 0x58 && o % 0x40 < 0x18 && o % 0x40 != 0x04 then .map (slotAddr (first + o / 0x40) (o % 0x40)) else .nothing

/-- BAR0 of PF0 on port h (R85, R86, R297). -/
def pf0Spot (h off : Nat) : HostSpot :=
  if off < 0x03800000 then
    match blockAt off with
    | none => .nothing
    | some b => if pf0Reads b then .map off else .hidden
  else if off < 0x03810000 then
    let o := off - 0x03800000
    if 0x8000 ≤ o && o < 0xC000 then
      (if o % 0x1000 < 0x400 || (0x800 ≤ o % 0x1000 && o % 0x1000 < 0x808) then .msix ((o - 0x8000) / 0x1000) (o % 0x1000) else .nothing)
    else .map (0x04000000 + h * 0x10000 + o)
  else if 0x03900000 ≤ off && off < 0x03901000 then slotArea (8192 + 2 * h) (off - 0x03900000)
  else .nothing

/-- The page of slice n: the callboard area, the queue windows below QUEUE_COUNT, the steering table. -/
def State.sliceSpot (s : State) (n off : Nat) : HostSpot :=
  let g := s.fld Fld.SLC_GRANT_Q_QUEUE_BASE n + (off - 0x1000) / 0x40
  let o := off % 0x40
  if 0x0800 ≤ off && off < 0x0900 then slotArea (2 * n) (off - 0x0800)
  else if 0x1000 ≤ off && off < 0x2000 then
    if s.fld Fld.SLC_GRANT_Q_QUEUE_COUNT n ≤ (off - 0x1000) / 0x40 then .hidden
    else if o < 0x20 then .map (addrOf .QRG_Q_SQ_BASE g + o)
    else if o < 0x30 then .map (addrOf .QRG_Q_STATUS g + (o - 0x20))
    else .nothing
  else if 0x2000 ≤ off && off < 0x2040 then .map (addrOf .QRG_RX_STEER (16 * n) + (off - 0x2000))
  else .nothing

/-- Four bytes of a function's MSI-X table, or of its Pending Bit Array (R297). -/
def Func.tableWord (f : Func) (o pba : Nat) : Nat :=
  if o < pba then bits (f.vector (o / 16)).toNat (32 * (o % 16 / 4)) 32
  else maskOf 32 (fun i => f.isPending (8 * (o - pba) + i))

/-- Four bytes written to a table entry: the Pending Bit Array takes no write, and of the vector control word only the mask
bit. A message that was pending leaves once it is unmasked. -/
def State.tableWrite (s : State) (l fn o pba v : Nat) : State :=
  let f := s.func l fn
  if pba ≤ o then s
  else
    let w := o % 16 / 4
    let v := if w = 3 then v % 2 else if w = 0 then v / 4 * 4 else v
    (s.setFunc l fn (f.setVector (o / 16) (BitVec.ofNat 128 (setBits (f.vector (o / 16)).toNat (32 * w) 32 v)))).flushMsix l fn

/-- 4-byte pieces of an access to an MSI-X table. -/
def State.tableRead (s : State) (l fn o pba n : Nat) : Nat :=
  let f := s.func l fn
  f.tableWord o pba + (if n = 2 then 2 ^ 32 * f.tableWord (o + 4) pba else 0)

/-- A take made through a host window clears its slot: R70 does not apply to it (R403). -/
def isTake (a : Nat) : Bool :=
  match resolve a 0 with
  | some t => t.reg == .CBD_SLOT_TAKE
  | none => false

/-- PF0's read of its callboard page. -/
def State.pf0Slot (s : State) (r : Requester) (a shown : Nat) (size : AccSize) : Word × State :=
  let x := s.mapReadAt r a shown size
  match resolve a 0 with
  | some t => if isTake a && !t.high && (words a size).isSome then (x.1, x.2.slotTaken t.idx) else x
  | none => x

/-- The configuration space of a link answers (R52, R312): its BARs can be reached only then (R53). -/
def State.hostAnswers (s : State) (l : Nat) : Bool :=
  s.dev.earlyUp && s.linkInUse l && !s.inPerst (l / 4) && decide (SMap.get (fun _ => 0) s.hep.released (l / 4) + 100000000 ≤ s.elapsed)

/-- A PF0 read of BAR0 (R53, R85, R86). DESIGN CHOICE: where a narrow access also meets an address that is hidden, reserved or KEY,
its cause is WIDTH if R85 maps the offset, and PF0_HIDDEN or UNMAPPED if it does not (assumption log entry 39). -/
def State.pf0Read (s : State) (h l off : Nat) (size : AccSize) : Word × State :=
  let r : Requester := .pf0 (Fin.ofNat 16 h) (Fin.ofNat 4 l)
  if !s.mapAnswers || !s.hostAnswers (4 * h + l) then (0, s)
  else match pf0Spot h off with
    | .map a =>
      if s.dev.state == .LOADING then (if blockAt a = some .SYS then s.mapReadAt r a off size else (0, s))
      else if blockAt a = some .CBD then s.pf0Slot r a off size
      else s.mapReadAt r a off size
    | .msix k o => match words off size with
      | some n => if s.dev.state == .LOADING then (0, s) else (BitVec.ofNat 64 (s.tableRead (4 * h + k) 0 o 0x800 n), s.splitBuffer r)
      | none => (0, (s.splitBuffer r).badAccess r off 2 false)
    | .hidden => if s.dev.state == .LOADING then (0, s) else (0, (s.splitBuffer r).badAccess r off 7 false)
    | .nothing => if s.dev.state == .LOADING then (0, s) else (0, (s.splitBuffer r).badAccess r off 1 false)

/-- A PF0 write of BAR0 (R53, R85, R86): only the callboard page, the table of the link that carries it, and the writable fields
of its own HEP window. -/
def State.pf0Write (s : State) (h l off : Nat) (size : AccSize) (value : Word) : State :=
  let r : Requester := .pf0 (Fin.ofNat 16 h) (Fin.ofNat 4 l)
  if !s.mapAnswers || !s.hostAnswers (4 * h + l) || s.dev.state == .LOADING then s
  else match pf0Spot h off with
    | .map a =>
      if blockAt a = some .CBD then
        let s := s.splitBuffer r
        match resolve a 0, size with
        | some t, .b4 =>
          if t.reg == .CBD_SLOT_WRITE && a % 4 = 0 then s.slotPut t.idx r.code (BitVec.ofNat 32 value.toNat) else s.badAccess r off 6 true
        | _, _ => s.badAccess r off 2 true
      else match resolve a 0 with
        | some t => if pf0Writes h t.reg t.idx then s.mapWriteAt r a off size value else (s.splitBuffer r).badAccess r off 6 true
        | none => (s.splitBuffer r).badAccess r off 6 true
    | .msix k o =>
      let s := s.splitBuffer r
      match words off size with
      | none => s.badAccess r off 2 true
      | some n =>
        if k != l || 0x800 ≤ o then s.badAccess r off 6 true
        else
          let s := s.tableWrite (4 * h + k) 0 o 0x800 (value.toNat % 2 ^ 32)
          if n = 2 then s.tableWrite (4 * h + k) 0 (o + 4) 0x800 (value.toNat / 2 ^ 32) else s
    | .hidden => (s.splitBuffer r).badAccess r off 6 true
    | .nothing => (s.splitBuffer r).badAccess r off 6 true

/-- The status word of a slice page (R325). -/
def State.sliceStatus (s : State) (n : Nat) : Nat :=
  flag (s.dev.state == .STAGE) + 2 * flag (s.sliceRuns n) + 2 ^ 8 * s.sliceGen n + 2 ^ 16 * s.sliceFormat n +
  2 ^ 18 * s.fld Fld.SLC_GRANT_Q_QUEUE_COUNT n

/-- All ones of an access size, as a curtained host port reads (R53). -/
def allOnes (size : AccSize) : Word :=
  match size with
  | .b1 => 0xFF | .b2 => 0xFFFF | .b4 => 0xFFFFFFFF | .b8 => wholeMask

/-- The host port of a slice's link is curtained. -/
def State.sliceHidden (s : State) (n : Nat) : Bool := s.hostCurtained (s.sliceLink n / 4)

/-- A read of a slice's page (R53, R325). -/
def State.sliceRead (s : State) (n off : Nat) (size : AccSize) : Word × State :=
  let r : Requester := .slice (Fin.ofNat 4096 n)
  if s.dev.state != .STAGE || s.sliceState n == 0 then (0, s)
  else if s.sliceHidden n then (allOnes size, s)
  else if off = 0x0004 && size == .b4 then (BitVec.ofNat 64 (s.sliceStatus n), s.splitBuffer r)
  else if off = 0x0000 && size == .b8 then (BitVec.ofNat 64 (2 ^ 32 * s.sliceStatus n), s.splitBuffer r)
  else match s.sliceSpot n off with
    | .map a => s.mapReadAt r a a size
    | .msix _ _ => (0, s)
    | .hidden => (0, s.splitBuffer r)
    | .nothing => (0, (s.splitBuffer r).badAccess r off (if (words off size).isSome then 1 else 2) false)

/-- A write of a slice's page. -/
def State.sliceWrite (s : State) (n off : Nat) (size : AccSize) (value : Word) : State :=
  let r : Requester := .slice (Fin.ofNat 4096 n)
  if s.dev.state != .STAGE || s.sliceState n == 0 || s.sliceHidden n then s
  else if off = 0x0000 then
    let s := s.splitBuffer r
    if size == .b4 then s.doorbellWord n (value.toNat % 2 ^ 32)
    else if s.sliceRuns n then s.bump .QRG_DB_BAD 0 else s.bump .SLC_IDLE_DROP n
  else if 0x1000 ≤ off && !s.sliceRuns n then s.splitBuffer r
  else match s.sliceSpot n off with
    | .map a =>
      if blockAt a = some .CBD then
        let s := s.splitBuffer r
        match resolve a 0, size with
        | some t, .b4 =>
          if t.reg == .CBD_SLOT_WRITE && a % 4 = 0 then s.slotPut t.idx r.code (BitVec.ofNat 32 value.toNat) else s
        | _, _ => s.badAccess r a 2 true
      else s.mapWriteAt r a a size value
    | .msix _ _ => s
    | .hidden => s.splitBuffer r
    | .nothing => (s.splitBuffer r).badAccess r off (if (words off size).isSome then 1 else 2) true

/-! ## An access by any requester -/

/-- A read as a requester addresses it: PF0 by BAR0 offset, a slice by page offset, the others by control-map address. -/
def State.mapRead (s : State) (r : Requester) (a : Nat) (size : AccSize) : Word × State :=
  match r with
  | .pf0 h l => s.pf0Read h.val l.val a size
  | .slice n => s.sliceRead n.val a size
  | r => s.mapReadAt r a a size

def State.mapWrite (s : State) (r : Requester) (a : Nat) (size : AccSize) (value : Word) : State :=
  match r with
  | .pf0 h l => s.pf0Write h.val l.val a size value
  | .slice n => s.sliceWrite n.val a size value
  | r => s.mapWriteAt r a a size value

/-- The register a requester's address names, where it names one. -/
def State.targetOf (s : State) (r : Requester) (a : Nat) : Option Target :=
  let at_ := fun x => match x with
    | HostSpot.map b => resolve b 0
    | _ => none
  match r with
  | .pf0 h _ => at_ (pf0Spot h.val a)
  | .slice n => at_ (s.sliceSpot n.val a)
  | r => match s.spotOf r a with
    | .reg t => some t
    | _ => none

/-- The register a read reaches: an address, a width and a time at which the requester gets data (R53, R66). -/
def State.reads (s : State) (r : Requester) (a : Nat) (size : AccSize) : Option Target :=
  let open_ := match r with
    | .pf0 h l => s.mapAnswers && s.dev.state != .LOADING && s.hostAnswers (4 * h.val + l.val)
    | .slice _ => false
    | _ => s.mapAnswers
  if open_ && (words a size).isSome then s.targetOf r a else none

/-- The sleeping domain a read waits for (R77). -/
def State.readWaits (s : State) (r : Requester) (a : Nat) (size : AccSize) : Option Nat :=
  (s.reads r a size).bind (fun t => s.sleepingAt t.reg t.idx)

/-- A read whose value the requester sees, once the register's domain is awake (R77). -/
def State.readOut (s : State) (r : Requester) (a : Nat) (size : AccSize) : State :=
  match s.readWaits r a size with
  | some d => ((s.splitBuffer r).touchDomain d).hold d (.read r a size)
  | none =>
    let x := s.mapRead r a size
    x.2.emit (.value r.code a x.1)

/-- A write of a register by a command of its own: admitted as any write, posted and performed, once its domain is awake. -/
def State.directWrite (s : State) (r : Requester) (reg : RegName) (i : Nat) (value mask : Word) : State :=
  s.gatedWrite r reg i (fun s =>
    match s.sleepingAt reg i with
    | some d => s.hold d (.write r reg i value mask)
    | none => s.performWrite r reg i value mask)

/-- The pieces of a peer read's data: split at 128-byte boundaries (R298). -/
def peerPieces (a : Nat) (data : List Byte) : List (Nat × List Byte) :=
  (splitSpan 128 (data.length + 1) a data.length).map (fun p => (p.1, slice data (p.1 - a) p.2))

/-- An access of a host to the peer staging region, at an offset of its window and an HBM address: performed once every pair the region
lies in is awake (R21, R298). -/
def State.peerAccess (s : State) (l off addr : Nat) (t : HostTlp) : State :=
  let s := s.touchPairs s.tbl.placement.peer
  match (placedIn s.tbl.placement.peer).find? (fun d => s.domainSleeps d) with
  | some d => s.hold d (.peer l off addr t)
  | none => if t.write then s.writeHbm addr t.data else s.completePieces l (peerPieces off (s.readHbm addr t.len.toNat))

/-- An access whose wait is over is made. -/
def State.waited (s : State) (w : Waiting) : State :=
  match w with
  | .read r a size => s.readOut r a size
  | .write r reg i value mask => s.performWrite r reg i value mask
  | .peer l off addr t => s.peerAccess l off addr t
  | .ring f => s.stackRing f
  | .send v => s.stackSend v

/-- The accesses that waited for a domain are made, in the order they came, once it is awake (R77). -/
def State.releaseWaiting (s : State) (d : Nat) : State :=
  if s.domainSleeps d then s
  else
    let mine := s.acc.waiting.filter (fun x => x.1 == d)
    mine.foldl (fun s x => s.waited x.2) { s with acc := { s.acc with waiting := s.acc.waiting.filter (fun x => x.1 != d) } }

end Sys2Proof.Machine
end

