-- ==== Sys2Proof/Machine/Image.lean ====
section
/-! DEFINITION. The configuration image (R32 to R44): flash slots, the checks of R41, sections and their validity, and the
application of the sections at the end of LOADING. -/

namespace Sys2Proof.Machine

/-! ## Flash -/

/-- An erased NOR byte reads 0xFF (R41). -/
def flashDefault : Nat → Byte := fun _ => 0xFF
def Flash.read (f : Flash) (o n : Nat) : List Byte := (List.range n).map (fun i => SMap.get flashDefault f.data (o + i))
def flashPut (m : SMap Byte) (o : Nat) : List Byte → SMap Byte
  | [] => m
  | b :: bs => flashPut (SMap.set flashDefault o b m) (o + 1) bs
def Flash.program (f : Flash) (o : Nat) (bs : List Byte) : Flash := { f with data := flashPut f.data o bs }
/-- Its first n bytes erased; every byte lies below the capacity. -/
def Flash.erase (f : Flash) (n : Nat) : Flash := { f with data := f.data.filter (fun x => decide (n ≤ x.1)) }

def State.flash (s : State) (b : Bool) : Flash := if b then s.flashB else s.flashA
def State.setFlash (s : State) (b : Bool) (f : Flash) : State := if b then { s with flashB := f } else { s with flashA := f }

/-! ## Header and signature block (R33, R34, R39 to R41) -/

/-- Fields of an image header. -/
def imgVersion (h : List Byte) : Nat := leAt h 8 4
def imgFloor (h : List Byte) : Nat := leAt h 0x0C 4
def imgTotal (h : List Byte) : Nat := leAt h 0x10 4
def imgSigOffset (h : List Byte) : Nat := leAt h 0x14 4
def imgSections (h : List Byte) : Nat := leAt h 0x18 2

/-- The geometry of R33, R34 and R39 holds. -/
def geometryOk (capacity : Nat) (h block : List Byte) : Bool :=
  imgTotal h == imgSigOffset h + 4736 && imgTotal h ≤ 268435456 && imgTotal h ≤ capacity && imgSigOffset h % 16 == 0 &&
  0x110 ≤ imgSigOffset h && imgSections h != 0 && leAt block 0x68 4 == 4627

/-- The checks of R41 on a header and a signature block, codes 0x01 to 0x0A, 0 when all pass. inside says that the block lies within
the flash device. -/
def State.headerReason (s : State) (capacity : Nat) (inside : Bool) (h block : List Byte) : Nat :=
  let slot := leAt block 4 1
  let key := if slot < 4 then s.keySlot slot else none
  if slice h 0 4 != ascii "AMRI" || (inside && slice block 0 4 != ascii "SIGB") then 0x01
  else if leAt h 4 2 != 1 then 0x02
  else if leAt h 0x1C 4 != 0x7200 then 0x03
  else if !inside || !geometryOk capacity h block then 0x04
  else if !allZero (slice h 0x1A 2) || !allZero (slice h 0x98 104) || !allZero (slice block 5 3) || leAt block 0x127F 1 != 0 then 0x05
  else if imgVersion h = 0 ∨ imgVersion h < s.vlt.store.minVersion.toNat then 0x06
  else if imgVersion h < imgFloor h then 0x07
  else match key with
    | none => 0x08
    | some k =>
      if !Config.ecdsaVerify (slice k 0 97) h (slice block 8 96) then 0x09
      else if !Config.mldsaVerify (slice k 97 2592) h (slice block 0x6C 4627) then 0x0A
      else 0x00

def State.slotHeader (s : State) (b : Bool) : List Byte := (s.flash b).read 0 256
def State.slotBlock (s : State) (b : Bool) : List Byte := (s.flash b).read (imgSigOffset (s.slotHeader b)) 4736

/-- The reason code of a slot's header and signature block. -/
def State.slotReason (s : State) (b readError : Bool) : Nat :=
  let cap := (s.flash b).capacity
  if readError then 0x0D
  else s.headerReason cap (decide (imgSigOffset (s.slotHeader b) + 4736 ≤ cap)) (s.slotHeader b) (s.slotBlock b)

/-! ## Sections (R35 to R37) -/

/-- A section: type, version, body, and its header and body as the digests take them. -/
structure Section where
  type : Nat
  version : Nat
  body : List Byte
  whole : List Byte
  deriving DecidableEq, Repr

def padTo16 (n : Nat) : Nat := ceilDiv n 16 * 16

/-- The section at the start of some bytes, and its padded length; none where it breaks R35. -/
def headSection (bs : List Byte) : Option (Section × Nat) :=
  let n := leAt bs 4 4
  let p := padTo16 (8 + n)
  if bs.length < 8 || n = 0 || bs.length < p || !allZero (slice bs (8 + n) (p - 8 - n)) then none
  else some ({ type := leAt bs 0 2, version := leAt bs 2 2, body := slice bs 8 n, whole := bs.take (8 + n) }, p)

/-- The sections of a body. -/
def sectionsOf : Nat → List Byte → Option (List Section)
  | 0, bs => if bs.isEmpty then some [] else none
  | n + 1, bs =>
    if bs.isEmpty then some []
    else match headSection bs with
      | none => none
      | some (x, p) => (sectionsOf n (bs.drop p)).map (x :: ·)

def risingTypes : List Nat → Bool
  | a :: b :: r => decide (a < b) && risingTypes (b :: r)
  | _ => true

/-- The structure rules of R35 to R37. -/
def structureOk (count : Nat) (xs : List Section) : Bool :=
  xs.length == count && risingTypes (xs.map (·.type)) && (xs.map (·.type)).head? == some 1 &&
  [1, 2, 6, 7, 8].all (fun t => xs.any (fun x => x.type == t)) &&
  xs.all (fun x => 0x8000 ≤ x.type || (1 ≤ x.type && x.type ≤ 0x0A && x.version / 256 == 1))

/-- Body of the section of a type. -/
def bodyOf (xs : List Section) (t : Nat) : Option (List Byte) := (xs.find? (fun x => x.type == t)).map (·.body)

/-! ## Register lists (R38) -/

/-- An entry of a register list. -/
structure ListWrite where
  reg : RegName
  idx : Nat
  value : Word

/-- The entry, if it keeps the format of R38 and names a register that its section permits. -/
def listWrite (permits : RegName → Nat → Bool) (e : List Byte) : Option ListWrite :=
  let a := leAt e 0 4
  let w := leAt e 4 1
  if !allZero (slice e 5 3) || (w == 4 && leAt e 12 4 != 0) || (w != 4 && w != 8) || a % w != 0 then none
  else match resolve a 0 with
    | none => none
    | some t =>
      let fs := t.reg.info.fields
      if reservedElement t || t.high || t.reg.info.wide != (w == 8) || !permits t.reg a ||
          fs.all (fun f => f.access == .RO || f.access == .RC || f.access == .WO) then none
      else some { reg := t.reg, idx := t.idx, value := BitVec.ofNat 64 (leAt e 8 8) }

/-- A whole list of n entries at an offset of a section body. -/
def registerList (permits : RegName → Nat → Bool) (b : List Byte) (off n : Nat) : Option (List ListWrite) :=
  if b.length < off + 16 * n then none
  else (List.range n).foldr (fun i r => match r, listWrite permits (slice b (off + 16 * i) 16) with
    | some xs, some x => some (x :: xs)
    | _, _ => none) (some [])

def portBlocks (r : RegName) (_ : Nat) : Bool := r.info.block == .PRT || r.info.block == .OPT
def sceneBlocks (r : RegName) (a : Nat) : Bool :=
  (r.info.block == .CLS && decide (0x02000020 ≤ a)) || r == .TBL_AGE_CTRL || r == .TBL_LEARN_PORT
def trafficBlocks (r : RegName) (a : Nat) : Bool :=
  r.info.block == .SWC || r.info.block == .TMS || (r.info.block == .BMV && decide (a < 0x04800400))

/-- The requester of the writes a list makes while no unit leads yet. -/
def loader : Requester := .cpc 0 0

/-- The port whose timetable settings a register holds (R200). -/
def adminPort (r : RegName) (i : Nat) : Option Nat :=
  match r with
  | .TMS_TT_ADMIN => some (i / 1024)
  | .TMS_TT_ADMIN_BASE => some i
  | .TMS_TT_ADMIN_BASE_HIGH => some i
  | .TMS_TT_ADMIN_CYCLE => some i
  | .TMS_TT_ADMIN_CTRL => some i
  | _ => none

/-- A write of the bits in mask was ignored: administrative settings while a change is PENDING (R200), or a writable field that did not
take its value. A slot of SWC_PIN takes every write, and may be re-pinned at once (R173). -/
def State.writeIgnored (before after : State) (r : Requester) (reg : RegName) (i : Nat) (value mask : Word) : Bool :=
  (match adminPort reg i with | some p => (before.changeAt p).isSome | none => false) ||
  (reg != .SWC_PIN && reg.info.fields.any (fun f =>
    (f.access == .RW || f.access == .RWV) && fieldOf ((after.readReg r reg i ^^^ value) &&& mask) f.lo f.width != 0))

/-! ## Section contents -/

/-- PORT_PLAN (R115). -/
def portPlanEntry (b : List Byte) (e : Nat) : List Byte := slice b (64 * e) 64
def portPlanList (b : List Byte) : Option (List ListWrite) := registerList portBlocks b 0x410 (leAt b 0x400 4)
def enginePlanBad (x : List Byte) : Bool :=
  let plan := leAt x 0 8
  !planValid plan || leAt x 9 1 != 0 || !allZero (slice x 12 4) || !allZero (slice x 48 16) ||
  decide (6144 < ((List.range 16).map (fun j => leAt x (16 + 2 * j) 2)).sum) ||
  (List.range 16).any (fun j => planType plan j == 0 && (bit (leAt x 10 2) j || leAt x (16 + 2 * j) 2 != 0))
def portPlanInvalid (b : List Byte) : Bool :=
  (List.range 16).any (fun e => enginePlanBad (portPlanEntry b e)) || !allZero (slice b 0x404 12) || (portPlanList b).isNone

/-- SCENE0_TABLES (R161): where its lists start. -/
def sceneEntries (b : List Byte) : List (List Byte) := (List.range (leAt b 4 4)).map (fun i => slice b (0x440 + 80 * i) 80)
def sceneRecordsAt (b : List Byte) : Nat := 0x440 + 80 * leAt b 4 4
def sceneActions (b : List Byte) : List (List Byte) := (List.range (leAt b 8 4)).map (fun i => slice b (sceneRecordsAt b + 40 * i) 40)
def sceneListAt (b : List Byte) : Nat := sceneRecordsAt b + 40 * leAt b 8 4
def sceneList (b : List Byte) : Option (List ListWrite) := registerList sceneBlocks b (sceneListAt b) (leAt b 0x0C 4)
def tableEntry (b : List Byte) (t : Nat) : List Byte := slice b (0x10 + 16 * t) 16
/-- TBL_TABLE_CFG as a configuration gives it. -/
def tableWordOf (x : List Byte) : Nat :=
  leAt x 0 1 % 32 + leAt x 1 1 % 2 * 2 ^ 5 + leAt x 4 4 % 2 ^ 21 * 2 ^ 8 + leAt x 1 1 / 2 % 4 * 2 ^ 32 + leAt x 2 2 % 2 ^ 15 * 2 ^ 36
def tableOnIn (b : List Byte) (t : Nat) : Bool := leAt (tableEntry b t) 1 1 % 2 == 1
def tableCfgInvalid (b : List Byte) (t : Nat) : Bool :=
  let x := tableEntry b t
  let k := leAt x 0 1
  let base := leAt x 4 4
  if t = 64 then !allZero x
  else
    k < (log2Range t).1 || (log2Range t).2 < k || leAt x 1 1 / 2 % 4 == 3 || 8 ≤ leAt x 1 1 || 32768 ≤ leAt x 2 2 || (64 ≤ t && base != 0) ||
    (t < 64 && (base % 2 ^ k != 0 || 2097152 < base + 2 ^ k ||
      (tableOnIn b t && (List.range 64).any (fun u =>
        let y := tableEntry b u
        u != t && tableOnIn b u && decide (base < leAt y 4 4 + 2 ^ leAt y 0 1 ∧ leAt y 4 4 < base + 2 ^ k)))))
/-- Key length of a table under the section's register list (R146): that of the running register at LOADING. -/
def State.sceneEntryBad (s : State) (b x : List Byte) : Bool :=
  let t := leAt x 0 1
  let n := leAt x 2 1
  let a := leAt x 4 4
  !((t < 64 || t == 65 || t == 66) && tableOnIn b t) || 2 ≤ leAt x 1 1 || leAt x 3 1 != 0 || 2 ^ 24 ≤ a || 32768 ≤ leAt x 8 2 ||
  !allZero (slice x 10 6) || n != (if t = 65 then 8 else if t = 66 then 40 else s.keyBytes t) || !allZero (slice x (16 + n) (64 - n)) ||
  (if t = 65 then 335 < a else 1048575 < a)
def State.sceneInvalid (s : State) (b : List Byte) : Bool :=
  !allZero (slice b 1 3) || 1048576 < leAt b 8 4 || (List.range 67).any (tableCfgInvalid b) || (tableOnIn b 66 && leAt b 0 1 == 0) ||
  3 < leAt b 0 1 || b.length < sceneListAt b || (sceneList b).isNone ||
  (let t := ((sceneList b).getD []).foldl (fun (s : State) x => s.writeWhole loader x.reg x.idx x.value) s
   (sceneEntries b).any (t.sceneEntryBad b)) ||
  (sceneActions b).any (fun x => 1048575 < leAt x 0 4 || leAt x 4 4 != 0)

/-- TRAFFIC_PLAN (R206): no entry may leave the shared part negative. -/
def trafficList (b : List Byte) : Option (List ListWrite) := registerList trafficBlocks b 16 (leAt b 8 4)
def State.sharedStays (s : State) : List ListWrite → Bool
  | [] => true
  | x :: xs =>
    let t := if x.reg == .SWC_POOL || x.reg == .SWC_IN_RESERVE then s.plainWrite x.reg x.idx x.value wholeMask else s
    decide (0 ≤ t.sharedPart) && t.sharedStays xs
def State.trafficInvalid (s : State) (b : List Byte) : Bool :=
  61035 < leAt b 0 4 || 3 < leAt b 4 1 || (leAt b 4 1 == 0 && leAt b 0 4 != 0) ||
  (match trafficList b with
   | none => true
   | some xs => !s.sharedStays xs)

/-- SLICE_PLAN (R330). -/
def shareOf (b : List Byte) (l : Nat) : Nat × Nat := (leAt b (8 + 8 * l) 4, leAt b (12 + 8 * l) 4)
def planPeerMib (b : List Byte) : Nat :=
  ((List.range 64).map (shareOf b)).foldl (fun n x => if x.2 = 0 then n else max n (x.1 + x.2)) 0
def sharesClash (b : List Byte) : Bool :=
  (List.range 64).any (fun l => (List.range l).any (fun m => overlap (shareOf b l).1 (shareOf b l).2 (shareOf b m).1 (shareOf b m).2))
def slicePlanInvalid (b : List Byte) : Bool :=
  4095 < leAt b 0 2 || 65536 < leAt b 4 4 || 3 < leAt b 2 1 || (leAt b 2 1 == 0 && planPeerMib b != 0) || sharesClash b ||
  b.length < 520 + 256 * leAt b 0 2 + 36 * leAt b 4 4

/-- KEY_POLICIES (R268): where its lists start. -/
def keyRoots (b : List Byte) : List (List Byte) := (List.range (leAt b 3 1)).map (fun i => slice b (16 + 112 * i) 112)
def keyAttestAt (b : List Byte) : Nat := 16 + 112 * leAt b 3 1
def keyAttest (b : List Byte) : List (List Byte) := (List.range (leAt b 4 1)).map (fun i => slice b (keyAttestAt b + 2704 * i) 2704)
def keyHouseAt (b : List Byte) : Nat := keyAttestAt b + 2704 * leAt b 4 1
def keyHouse (b : List Byte) : List (List Byte) := (List.range (leAt b 5 1)).map (fun i => slice b (keyHouseAt b + 2704 * i) 2704)
def keyInstallAt (b : List Byte) : Nat := keyHouseAt b + 2704 * leAt b 5 1
def keyInstalls (b : List Byte) : List (List Byte) := (List.range (leAt b 8 4)).map (fun i => slice b (keyInstallAt b + 192 * i) 192)
def keyInvalid (b : List Byte) : Bool :=
  !between 1 8 (leAt b 0 1) || !between 1 16 (leAt b 2 1) || 4 < leAt b 3 1 || 4 < leAt b 4 1 || 8 < leAt b 5 1 || 3 < leAt b 6 1 ||
  leAt b 7 1 != 0 || 65536 < leAt b 8 4 || leAt b 12 4 != 0 || b.length < keyInstallAt b + 192 * leAt b 8 4 ||
  (keyInstalls b).any (fun e => !allZero (slice e 186 6))

/-! ## Placement of the HBM regions (R20) -/

/-- Where the sections place the regions. -/
def placementOf (xs : List Section) : Placement :=
  let get := fun t => (bodyOf xs t).getD []
  let ctx := leAt (get 7) 6 1
  let trp := get 9
  let mine := (List.range 8).filter (bit (leAt trp 4 1))
  { flowLog := if tableOnIn (get 3) 66 then some (leAt (tableEntry (get 3) 66) 0 1) else none, flow := leAt (get 3) 0 1 % 4, ctx := if ctx = 0 then 1 else ctx % 4, spill := leAt (get 5) 4 1 % 4, spillMib := leAt (get 5) 0 4,
    peer := leAt (get 4) 2 1 % 4,
    troupe := mine.foldl (fun m n => SMap.set (fun _ => 0) n (leAt trp (56 + n) 1 % 4) m) [],
    troupeMib := mine.foldl (fun m n => SMap.set (fun _ => 0) n (leAt trp (24 + 4 * n) 4) m) [] }

/-- Size in half bytes counted against pair i (0 or 1) for a region of n bytes under a placement code. -/
def pairShare (i code n : Nat) : Nat := if code = 3 then n else if code = i + 1 then 2 * n else 0

/-- The regions of each pair fit in 66 GiB. -/
def placementFits (xs : List Section) : Bool :=
  let p := placementOf xs
  let mib := 1048576
  let scene := (bodyOf xs 3).getD []
  let flow := if tableOnIn scene 66 then 2 ^ leAt (tableEntry scene 66) 0 1 * 512 else 0
  [0, 1].all (fun i => decide (
    pairShare i p.flow flow + pairShare i p.ctx (64 * mib) + pairShare i p.spill (p.spillMib * mib) +
    pairShare i p.peer (planPeerMib ((bodyOf xs 4).getD []) * mib) +
    ((List.range 8).map (fun n =>
      pairShare i (SMap.get (fun _ => 0) p.troupe n) (SMap.get (fun _ => 0) p.troupeMib n * mib))).sum ≤ 2 * 66 * 1024 * mib))

/-! ## The whole image -/

/-- The early identity section as it stands in an image, where it keeps R35 to R37 and its digest holds (R41, step 5 of R51). -/
def earlySection (h body : List Byte) : Option Section :=
  match headSection body with
  | none => none
  | some (x, p) =>
    if x.type = 1 ∧ x.version / 256 = 1 ∧ p ≤ 0xFF00 ∧ 0xA0 ≤ x.body.length ∧ Config.sha384 x.whole = slice h 0x50 48 then some x else none

/-- Rules of the owning chapters that make an image invalid, for the sections but the first. Register values before a list are those
of reset. -/
def contentOk (xs : List Section) : Bool :=
  let ok := fun t (bad : List Byte → Bool) => match bodyOf xs t with
    | some b => !bad b
    | none => true
  ok 2 portPlanInvalid && ok 3 State.reset.sceneInvalid && ok 4 slicePlanInvalid && ok 5 State.reset.trafficInvalid && ok 6 powerInvalid && ok 7 keyInvalid &&
  ok 8 cpcInvalid && ok 9 troupeInvalid && ok 10 stackInvalid && placementFits xs

/-- The sections of an image whose body passes the BODY check. -/
def imageSections (h body : List Byte) : Option (List Section) :=
  if Config.sha384 body != slice h 0x20 48 then none
  else match sectionsOf body.length body with
    | none => none
    | some xs => if structureOk (imgSections h) xs && contentOk xs then some xs else none

def State.slotBody (s : State) (b : Bool) : List Byte := (s.flash b).read 0x100 (imgSigOffset (s.slotHeader b) - 0x100)

/-! ## Application (R38, R116, R162, R207, R268) -/


/-- One entry of a list at LOADING: a value its register ignores raises a contained fault. -/
def State.loadWrite (s : State) (x : ListWrite) : State :=
  let t := s.writeWhole loader x.reg x.idx x.value
  if s.writeIgnored t loader x.reg x.idx x.value wholeMask then t.containedFault 11 else t

def State.loadPorts (s : State) (b : List Byte) : State :=
  let s := (List.range 16).foldl (fun s e =>
    let x := portPlanEntry b e
    let s := s.setReg .OPT_ENGINE_PLAN e (BitVec.ofNat 64 (leAt x 0 8))
    (List.range 16).foldl (fun s j => s.setFld Fld.OPT_LB_CELLS_CELLS (16 * e + j) (leAt x (16 + 2 * j) 2)) s) s
  let s := ((portPlanList b).getD []).foldl (fun s x => s.loadWrite x) s
  let s := (List.range 256).foldl (fun s p =>
    s.setFld Fld.PRT_CONFIG_ENABLE p (flag (bit (leAt (portPlanEntry b (p / 16)) 10 2) (p % 16)))) s
  let s := (List.range 16).foldl (fun s e => s.setFld Fld.OPT_LASER_CTRL_LASER_EN e (leAt (portPlanEntry b e) 8 1)) s
  s.curtainRetired (List.range 256)

/-- An entry of SCENE0_TABLES at LOADING: placed, or skipped with a contained fault. -/
def State.loadEntry (s : State) (x : List Byte) : State :=
  let t := leAt x 0 1
  let key := slice x 16 (leAt x 2 1)
  let e := newEntry s key (BitVec.ofNat 24 (leAt x 4 4)) (bit (leAt x 1 1) 0) (BitVec.ofNat 15 (leAt x 8 2)) 0 (decide (t < 64))
  if (s.findEntry t key (fun _ => true)).isSome then s.containedFault 11
  else
    let p := s.place t e
    if p.1.slot.isSome then p.2 else p.2.containedFault 11

/-- An action record at LOADING: one that names a reserved port is refused (R25), with a contained fault. DESIGN CHOICE: the image stays
valid (assumption log entry 31). -/
def State.loadAction (s : State) (x : List Byte) : State :=
  if recordReserved (leAt x 8 32) then s.containedFault 11 else s.setAction (leAt x 0 4) (BitVec.ofNat 256 (leAt x 8 32))

def State.loadTables (s : State) (b : List Byte) : State :=
  let s := ((List.range 67).filter (· != 64)).foldl (fun s t =>
    let x := tableEntry b t
    ((s.setReg .TBL_TABLE_CFG t (BitVec.ofNat 64 (tableWordOf x))).setReg .TBL_SEED_A t (BitVec.ofNat 64 (leAt x 8 4))).setReg
      .TBL_SEED_B t (BitVec.ofNat 64 (leAt x 12 4))) s
  let s := ((sceneList b).getD []).foldl (fun s x => s.loadWrite x) s
  let s := (sceneActions b).foldl (fun s x => s.loadAction x) s
  (sceneEntries b).foldl (fun s x => s.loadEntry x) s

def State.loadTraffic (s : State) (b : List Byte) : State := ((trafficList b).getD []).foldl (fun s x => s.loadWrite x) s

/-- House enrolment entries are used while all house slots are empty; install entries act as INSTALL unless the store is zeroised
(R268, R288). -/
def State.loadKeys (s : State) (b : List Byte) : State :=
  let s := { s with vlt := { s.vlt with k := leAt b 0 1, houseSet := BitVec.ofNat 8 (leAt b 1 1), domains := leAt b 2 1, lsmRoots := keyRoots b,
                                        attestRoots := keyAttest b, policyBlobs := (keyInstalls b).map (fun e => slice e 0 160),
                                        ctxPlacement := s.tbl.placement.ctx } }
  let s := if (List.range 8).all (fun i => (s.keySlot (4 + i)).isNone) then
    (keyHouse b).foldl (fun s e => if leAt e 0 1 < 8 then s.setKeySlot (4 + leAt e 0 1) (some (slice e 15 2689)) else s) s else s
  if s.vlt.store.zeroised then s
  else (keyInstalls b).foldl (fun s e =>
    let r := s.doInstall e
    if r.1 = Code.OK then r.2 else r.2.containedFault 10) s

/-- The measurements fixed at STAGE (R277): blocks 2 to 5. -/
def State.measure_ (s : State) (h : List Byte) (xs : List Section) : State :=
  let digest := fun t => match xs.find? (fun x => x.type == t) with
    | some x => Config.sha384 x.whole
    | none => List.replicate 48 0
  { s with vlt := { s.vlt with measurements := [Config.sha384 h, digest 8, digest 9, digest 7] } }

/-- A section applied, where the image has it. -/
def State.withSection (s : State) (xs : List Section) (t : Nat) (f : State → List Byte → State) : State :=
  match bodyOf xs t with
  | some b => f s b
  | none => s

/-- The sections STACK_DIGEST covers (R435). -/
def coveredBy (xs : List Section) : SMap (List Byte) :=
  (xs.filter (fun x => [3, 8, 9, 10].contains x.type)).foldl (fun m x => SMap.set (fun _ => []) x.type x.whole m) []

/-- The curtains of elements retired before: cores that stay out of service, and every scope that a link without a spare serves,
the whole device among them (R19, R464). -/
def State.curtainBound (s : State) : State :=
  let cores := (s.flt.retired.filter (fun x => x.1 == .troupeCore)).map (fun x => (ScopeKind.troupe, x.2.toNat))
  (cores ++ s.flt.spent.flatMap linkScopes).foldl (fun s x =>
    if x.1 == .device then s.deviceCurtain .FAULT 5 none else s.curtain x.1 x.2 faultBit none) s

/-- The sections are applied in ascending order of type (R38), billing numbers given, scene 0 made current. -/
def State.applyImage (s : State) (h : List Byte) (xs : List Section) : State :=
  let s := { s with tbl := { s.tbl with placement := placementOf xs }, slc := { s.slc with peerMib := planPeerMib ((bodyOf xs 4).getD []) },
                    stk := { s.stk with covered := coveredBy xs } }
  let s := s.withSection xs 2 State.loadPorts
  let s := s.withSection xs 3 State.loadTables
  let s := s.sceneStart
  let s := s.withSection xs 4 State.applySlicePlan
  let s := s.withSection xs 5 State.loadTraffic
  let s := s.withSection xs 6 (fun s b => s.loadPower (leAt ((bodyOf xs 9).getD []) 4 1) b)
  let s := s.withSection xs 7 State.loadKeys
  let s := s.withSection xs 8 State.loadCpc
  let s := s.withSection xs 9 State.loadTroupe
  let s := s.withSection xs 10 State.loadStack
  (s.domainsAtStage.billAll.curtainBound).measure_ h xs

end Sys2Proof.Machine
end

