-- ==== Sys2Proof/Machine/Startup.lean ====
section
/-! DEFINITION. Start-up (R44, R48 to R52, R58, R60): resets, the steps of LOADING, recovery, and staging sessions. -/

namespace Sys2Proof.Machine

/-! ## Resets -/

/-- Registers and counters the ghost light keeps (R448, R50): its own, those of the fault collector, and the rate of device time
(R202). DESIGN CHOICE: FLT_ALARM is part of the collector and FLT_ALARM_MASK is not (assumption log entry 22). -/
def keptWarm (r : RegName) : Bool :=
  match r.info.block with
  | .GLT => true
  | .PWR => true
  | .MGT => r == .MGT_TIME_FREQ
  | .FLT => [RegName.FLT_STATUS, .FLT_ALARM, .FLT_VOTE_CORRECTED, .FLT_CORRECTED, .FLT_CONTAINED, .FLT_FATAL, .FLT_TRANSIENT, .FLT_LASTING,
             .FLT_TEST_SKIPPED, .FLT_RECORD_LOST].contains r
  | _ => false
def keptRegs (m : SMap Word) : SMap Word := m.filter (fun x => keptWarm (RegName.ofNat (x.1 / 16777216)))

/-- Everything but the ghost light, with a write that waits in a bridge of its blocks (R448), and the persistent store is reset (R50).
The queue, the device's past outputs and the count of free values are the model's own. -/
def State.warmReset (s : State) : State :=
  let s := s.tearCheckpoints
  let s1 : State := {
    pending := s.pending, out := s.out, draws := s.draws, clk := { s.clk with step := none }, pins := s.pins,
    regs := keptRegs s.regs, ctrs := keptRegs s.ctrs, flashA := s.flashA, flashB := s.flashB,
    dev := { state := .GHOST, cause := s.dev.cause, failedA := s.dev.failedA, failedB := s.dev.failedB, testHeld := s.dev.testHeld },
    flt := { seq := s.flt.seq, fifo := s.flt.fifo, history := s.flt.history },
    acc := { bridge := s.acc.bridge.filter (fun x => decide (x.1 < 2)) },
    vlt := { store := s.vlt.store, erasing := s.vlt.erasing }, hep := { released := s.hep.released } }
  ((s1.setReg .GLT_CLOCK_STATUS 0 (BitVec.ofNat 64 (bits (s.reg .GLT_CLOCK_STATUS 0).toNat 24 1 * 2 ^ 24))).setFld
    Fld.FLT_STATUS_DEVICE_CAUSE 0 0)

/-- OFF (R49): only flash and the persistent store keep anything. -/
def State.powerOff (s : State) : State :=
  let s := s.tearCheckpoints
  { pending := s.pending, out := s.out, draws := s.draws, pins := s.pins, flashA := s.flashA, flashB := s.flashB,
    vlt := { store := s.vlt.store, erasing := s.vlt.erasing } }

/-- Entry to LOADING from GHOST: the vault boot ROM starts and instantiates the DRBG (R265), the context-wrapping key is drawn (R266),
and the modules present are identified (R51, R94). -/
def State.startLoading (s : State) (cause : DevCause) : State :=
  let s := (State.instantiate { s with dev := { s.dev with state := .LOADING, cause := cause, step := .selfTest, settling := false } })
  let k := s.drbg 32
  let s := { k.2 with vlt := { k.2.vlt with wrapKey := k.1 } }
  ((List.range 16).filter (fun e => s.pins.lsmPresent.getLsbD e)).foldl (fun s e => s.bringUp e {}) s

/-- LOADING by a RESTART record, or after recovery. DESIGN CHOICE: it resets what WARM_N resets, the host links among it
(assumption log entry 23). -/
def State.reload (s : State) (cause : DevCause) : State := s.warmReset.startLoading cause

/-! ## The reset inputs (R49, R477, R480, R486) -/

/-- PORST_N is released with supplies and GHOST_CLK valid. A lid already open starts zeroisation (R286). -/
def State.porstRelease (s : State) : State :=
  if s.dev.state != .OFF then s
  else
    let s := { s with pins := { s.pins with porst := false, internalWarm := false }, clk := {},
                      dev := { state := .GHOST, settling := !s.pins.testEn, testHeld := s.pins.testEn } }
    let s := s.setFld Fld.GLT_SUPPLY_STATUS_IN_RANGE 0 0xFFF
    if s.pins.tamper then s.startZeroise else s

/-- PORST_N goes low, or a group 1 supply is lost. -/
def State.porstAssert (s : State) : State := { s.powerOff with pins := { s.pins with porst := true } }

/-- The ghost light is stable. -/
def State.ghostStable (s : State) : State :=
  if s.dev.state == .GHOST && s.dev.settling && !s.pins.warm && !s.pins.internalWarm then s.startLoading .PORST else s

/-- WARM_N is asserted, by its contact or internally. -/
def State.warmAssert (s : State) : State := if s.dev.state == .OFF then s else s.warmReset
def State.warmPin (s : State) : State := { s.warmAssert with pins := { s.pins with warm := true } }

/-- WARM_N is released. -/
def State.warmRelease (s : State) : State :=
  if s.dev.state == .OFF then { s with pins := { s.pins with warm := false } }
  else if !s.pins.warm then s
  else
    let s := { s with pins := { s.pins with warm := false } }
    if s.dev.state != .GHOST || s.dev.testHeld || !s.coolEnough then s
    else ({ s with pins := { s.pins with internalWarm := false } }.setFld Fld.GLT_SUPPLY_STATUS_IN_RANGE 0 0xFFF).startLoading .WARM

/-! ## Steps 3 to 6 of LOADING (R41 to R44, R51) -/

def State.atStep (s : State) (k : LoadStep) : Bool := s.dev.state == .LOADING && s.dev.step == k
def State.setStep (s : State) (k : LoadStep) : State := { s with dev := { s.dev with step := k } }

/-- A lane the link test finds bad: a spare takes its place while its group of 16 has one (R19). -/
def State.badLane (s : State) (link lane : Nat) : State :=
  let index := BitVec.ofNat 32 (link * 256 + lane)
  if s.isRetired .d2dLane index then s
  else
    s.giveVerdict { kind := .d2dLane, index := index, cls := 1, cause := 5, scope := none } true (s.spareFor (link * 256 + lane)) 0

/-- Step 3 ends. -/
def State.selfTestDone (s : State) (pass : Bool) (bad : List (Nat × Nat)) (copies : List (Fin 2 × StoreRecord)) : State :=
  if !s.atStep .selfTest then s
  else if !pass || criticalLost copies then s.deviceCurtain .SELFTEST_FAIL 0 none
  else
    let s := s.mergeMirrors copies
    let s := bad.foldl (fun s x => s.badLane x.1 x.2) s.reapplyRetired
    if s.dev.state == .LOADING then s.setStep .headers else s

/-- No slot remains: recovery (R43, R45). -/
def State.noImage (s : State) : State := (s.plainAlarm 8 0 17 8 0).deviceCurtain .NO_IMAGE 0 none

/-- The slot of R42 among those that pass. -/
def State.chooseSlot (s : State) : Option Bool :=
  let va := imgVersion (s.slotHeader false)
  let vb := imgVersion (s.slotHeader true)
  if s.dev.passA && s.dev.passB then some (decide (va < vb)) else if s.dev.passA then some false else if s.dev.passB then some true else none

/-- Step 4: headers and signature blocks checked, a slot chosen, the boot nonce drawn. -/
def State.headersRead (s : State) (errA errB : Bool) : State :=
  if !s.atStep .headers then s
  else
    let ra := s.slotReason false errA
    let rb := s.slotReason true errB
    let r := s.drbg 8
    let d := { r.2.dev with reasonA := BitVec.ofNat 8 ra, reasonB := BitVec.ofNat 8 rb, passA := decide (ra = 0) && !r.2.dev.failedA,
                            passB := decide (rb = 0) && !r.2.dev.failedB, nonce := BitVec.ofNat 64 (leNat r.1), step := .early }
    let s := { r.2 with dev := d }
    match s.chooseSlot with
    | some b => { s with dev := { s.dev with slotB := b } }
    | none => s.noImage

/-- The slot in use fails while it is read: the other slot follows if it passed, else recovery (R43). -/
def State.slotFails (s : State) (reason : Nat) : State :=
  let d := s.dev
  let b := d.slotB
  let d := if b then { d with failedB := true, passB := false, reasonB := BitVec.ofNat 8 reason }
           else { d with failedA := true, passA := false, reasonA := BitVec.ofNat 8 reason }
  let s := { s with dev := d }
  if (if b then d.passA else d.passB) then
    let same := slice (s.slotHeader false) 0x50 48 == slice (s.slotHeader true) 0x50 48
    let s := if d.earlyUp && !same then s.holdDetect else s
    { s with dev := { s.dev with slotB := !b, step := .early } }
  else s.noImage

/-- A port entry's fields are in range (R312). -/
def entryInRange (e : Nat) : Bool :=
  bits e 1 2 != 3 && bits e 3 3 != 0 && between 20 28 (bits e 8 8) && between 30 37 (bits e 16 8)

/-- The early identity is applied: configuration space begins to answer (R52, R311, R312). A link that came up before and that it does not
use goes down. -/
def State.applyEarly (s : State) (b : List Byte) : State :=
  let s := { s with hep := { s.hep with identity := b }, dev := { s.dev with earlyUp := true, detect := false, step := .body } }
  (List.range 16).foldl (fun s h =>
    let e := s.portEntry h
    let on := bit e 0
    let good := entryInRange e
    let s := s.setReg .HEP_PORT_CFG h (BitVec.ofNat 64 (flag (on && good) + 2 * bits e 1 2 + 8 * bits e 6 1))
    let s := [0, 1, 2, 3].foldl (fun s k => (s.setFld Fld.HEP_LINK_CTRL_MAX_SPEED (4 * h + k) (bits e 3 3)).freshSizes (4 * h + k)) s
    let s := if (s.hostLink (4 * h)).up && !s.linkInUse (4 * h) then s.hostLinkDown (4 * h) else s
    if on && !good then s.containedFault 11 else s) s

/-- Step 5. A slot whose identity was already answering keeps its links where the identity is the same (R43). -/
def State.earlyVerified (s : State) (readError : Bool) : State :=
  if !s.atStep .early then s
  else if readError then s.slotFails 0x0D
  else
    match earlySection (s.slotHeader s.dev.slotB) (s.slotBody s.dev.slotB) with
    | none => s.slotFails 0x0B
    | some x => if s.dev.earlyUp then s.setStep .body else s.applyEarly x.body

/-- STAGE is entered (R44, R49, R288). -/
def State.enterStage (s : State) (h : List Byte) : State :=
  let s := s.writeStore (.critical 0) (fun t => { t with minVersion := BitVec.ofNat 32 (max t.minVersion.toNat (imgFloor h)) })
  let s := { s with dev := { s.dev with state := .STAGE, step := .idle, imageVersion := BitVec.ofNat 32 (imgVersion h) },
                    vlt := { s.vlt with measurements := s.vlt.measurements ++ [s.rawMeasurement] } }
  if s.vlt.store.zeroised then s.deviceCurtain .ZEROIZE 9 none else s

/-- Step 6. -/
def State.bodyVerified (s : State) (readError : Bool) : State :=
  if !s.atStep .body then s
  else if readError then s.slotFails 0x0D
  else
    let h := s.slotHeader s.dev.slotB
    match imageSections h (s.slotBody s.dev.slotB) with
    | none => s.slotFails 0x0C
    | some xs =>
      let s := s.applyImage h xs
      if s.dev.state == .LOADING then s.enterStage h else s

/-! ## Recovery and staging (R45 to R47, R59, R60) -/

/-- The vault boot ROM serves the management segments. -/
def State.inRecovery (s : State) : Bool := s.dev.state == .CURTAIN && s.dev.cause == .NO_IMAGE

/-- ANNOUNCE (R46): serial number, stepping, minimum version, reason codes, boot nonce. DESIGN CHOICE: the stepping takes 1 byte, the
minimum version 4, each reason code 1 (assumption log entry 24). -/
def State.announce (s : State) : State :=
  if s.inRecovery then
    s.sendMgmt 0x01 none (toLE 8 Config.serial.toNat ++ [0xB0#8] ++ toLE 4 s.vlt.store.minVersion.toNat ++
      [s.dev.reasonA, s.dev.reasonB] ++ toLE 8 s.dev.nonce.toNat)
  else s

def State.sendResult (s : State) (dest : Option (BitVec 64)) (reason : Nat) : State := s.sendMgmt 0x06 dest (toLE 1 reason)
/-- ACK with the next expected offset, or with a status code. DESIGN CHOICE: an offset is 4 bytes, a status 1 byte (assumption log
entry 24). -/
def State.sendAck (s : State) (dest : BitVec 64) (offset : Nat) : State := s.sendMgmt 0x04 (some dest) (toLE 4 offset)
def State.sendStatus (s : State) (dest : BitVec 64) (c : Nat) : State := s.sendMgmt 0x04 (some dest) (toLE 1 c)

/-- A reason code becomes that of a slot. -/
def State.setReason (s : State) (b : Bool) (c : Nat) : State :=
  { s with dev := if b then { s.dev with reasonB := BitVec.ofNat 8 c } else { s.dev with reasonA := BitVec.ofNat 8 c } }

/-- A session opens on a slot, which reads BLANK: recovery erases slot A (R47), staging the first TOTAL_LENGTH bytes of its slot
(R59). -/
def State.openSession (s : State) (recovery b : Bool) (station : Option (BitVec 64)) (h block : List Byte) : State :=
  let x : Session := { recovery := recovery, slotB := b, station := station, header := h, sigblock := block, movedAt := s.elapsed }
  ((s.setFlash b ((s.flash b).erase (if recovery then (s.flash b).capacity else imgTotal h))).setReason b 1) |> fun s => { s with dev := { s.dev with session := some x } }

/-- An OFFER is checked: a session opens on slot A, or RESULT gives the reason. -/
def State.offerOpens (s : State) (station : BitVec 64) (h block : List Byte) : State :=
  let c := s.headerReason s.flashA.capacity true h block
  if c = 0 then s.openSession true false (some station) h block else s.sendResult (some station) c

/-- A request to open a session while one is open (R47, R59): it is busy, and RESULT shows so (R61). -/
def State.sessionBusy (s : State) : State := { s with dev := { s.dev with stagingResult := 0x80 } }

/-- OFFER: of recovery, or from another station than that of an open session. DESIGN CHOICE: one from the station of the open session
is checked, erases and opens it anew (assumption log entry 25). -/
def State.offerIn (s : State) (station : BitVec 64) (h block : List Byte) : State :=
  match s.dev.session with
  | some x =>
    if x.station != some station then s.sessionBusy.sendStatus station 0x80
    else if s.inRecovery then s.offerOpens station h block else s
  | none => if s.inRecovery then s.offerOpens station h block else s

/-- The session a station's CHUNK or END belongs to: of recovery, while the cause is NO_IMAGE (R48). DESIGN CHOICE: a staging session
opened through the callboard takes those of any station, and its RESULT goes to no station of its own (assumption log entry 26). -/
def State.sessionOf (s : State) (station : BitVec 64) : Option Session :=
  s.dev.session.filter (fun x => (x.station.isNone || x.station = some station) && (!x.recovery || s.inRecovery))

/-- CHUNK. DESIGN CHOICE: one at the expected offset that runs past SIGBLOCK_OFFSET is answered with that offset and discarded
(assumption log entry 27). -/
def State.chunkIn (s : State) (station : BitVec 64) (offset : Nat) (data : List Byte) : State :=
  match s.sessionOf station with
  | none => s
  | some x =>
    let x := { x with movedAt := s.elapsed }
    let s := { s with dev := { s.dev with session := some x } }
    if offset != x.next || imgSigOffset x.header < 0x100 + offset + data.length then s.sendAck station x.next
    else
      let x' := { x with next := offset + data.length }
      (({ s with dev := { s.dev with session := some x' } }).setFlash x.slotB ((s.flash x.slotB).program (0x100 + offset) data)).sendAck station x'.next

/-- The full check of a slot (R41, R59): header, early identity, body. readError is an uncorrectable error met as it is read back:
READ, before every other check. -/
def State.checkSlot (s : State) (b readError : Bool) : Nat :=
  let c := s.slotReason b readError
  if c != 0 then c
  else if (earlySection (s.slotHeader b) (s.slotBody b)).isNone then 0x0B
  else if (imageSections (s.slotHeader b) (s.slotBody b)).isNone then 0x0C
  else 0

/-- END: signature block, then header, then the check. -/
def State.endIn (s : State) (station : BitVec 64) (readError : Bool) : State :=
  match s.sessionOf station with
  | none => s
  | some x =>
    let f := ((s.flash x.slotB).program (imgSigOffset x.header) x.sigblock).program 0 x.header
    let s := s.setFlash x.slotB f
    let s := { s with dev := { s.dev with session := none } }
    let c := s.checkSlot x.slotB readError
    let s := s.setReason x.slotB c
    if x.recovery && c = 0 then s.reload .RECOVERED
    else { s with dev := { s.dev with stagingDone := true, stagingResult := BitVec.ofNat 8 c } }.sendResult (some station) c

/-- A STAGE_IMAGE record: its status. DESIGN CHOICE: one whose header fails its check is refused with AUTH_FAIL, and a RESULT message
gives the reason (assumption log entry 28). -/
def State.stageImage (s : State) (station : Option (BitVec 64)) (h block : List Byte) : Nat × State :=
  if s.dev.session.isSome then (0x80, s.sessionBusy)
  else
    let b := !s.dev.slotB
    let c := s.headerReason (s.flash b).capacity true h block
    if c = 0 then (Code.OK, s.openSession false b station h block)
    else (Code.AUTH_FAIL, { s with dev := { s.dev with stagingDone := true, stagingResult := BitVec.ofNat 8 c } }.sendResult station c)

end Sys2Proof.Machine
end

