-- ==== Sys2Proof/Machine/Amend.lean ====
section
/-! DEFINITION. Runtime amendments (R54 to R58): the checks of R55, the records of R56, and the SECTION records of the owning
chapters (R116, R162, R207, R331, R446, R453). -/

namespace Sys2Proof.Machine

/-! ## Writes of the lead CPC -/

def State.leadRequester (s : State) : Requester := .cpc (Fin.ofNat 2 (s.leadCpc.getD 0)) 0

/-- A write of the bits in mask through every check of a register write: the device waits for a slow bridge itself (R38). -/
def State.amendWrite (s : State) (reg : RegName) (i : Nat) (value mask : Word) : State :=
  let s := match bridgeOf reg with
    | some b => s.performSlow b
    | none => s
  let a := s.admitChecked s.leadRequester reg i 0
  if a.1 then a.2.performWrite s.leadRequester reg i value mask else a.2


/-- Writes made one after another, and whether some register ignored one. -/
abbrev Tried := Bool × State
def Tried.write (t : Tried) (reg : RegName) (i : Nat) (value mask : Word) : Tried :=
  let s := t.2.amendWrite reg i value mask
  (t.1 || t.2.writeIgnored s s.leadRequester reg i value mask, s)
def Tried.whole (t : Tried) (reg : RegName) (i value : Nat) : Tried := t.write reg i (BitVec.ofNat 64 value) (if reg.info.wide then wholeMask else lowMask)
def Tried.list (t : Tried) (xs : List ListWrite) : Tried := xs.foldl (fun t x => t.whole x.reg x.idx x.value.toNat) t
def Tried.status (t : Tried) : Nat := if t.1 then Code.MALFORMED else Code.OK

/-! ## SECTION records -/

/-- One engine of a PORT_PLAN record (R116): elements that shrink, the plan, elements that grow. -/
def Tried.engine (t : Tried) (e : Nat) (x : List Byte) : Tried :=
  let s := t.2
  let cell := fun j => leAt x (16 + 2 * j) 2
  let now := fun j => s.fld Fld.OPT_LB_CELLS_CELLS (16 * e + j)
  let js := List.range 16
  let t := (js.filter (fun j => decide (cell j < now j))).foldl (fun t j => Tried.whole t .OPT_LB_CELLS (16 * e + j) (cell j)) t
  let t := if (s.reg .OPT_ENGINE_PLAN e).toNat = leAt x 0 8 then t else t.whole .OPT_ENGINE_PLAN e (leAt x 0 8)
  (js.filter (fun j => decide (now j < cell j))).foldl (fun t j => Tried.whole t .OPT_LB_CELLS (16 * e + j) (cell j)) t

def State.amendPorts (s : State) (b : List Byte) : Nat × State :=
  match portPlanList b with
  | none => (Code.MALFORMED, s)
  | some xs =>
    let t := (List.range 16).foldl (fun t e => Tried.engine t e (portPlanEntry b e)) ((false, s) : Tried)
    let t := t.list xs
    let t := (List.range 256).foldl (fun t p =>
      Tried.write t .PRT_CONFIG p (BitVec.ofNat 64 (flag (bit (leAt (portPlanEntry b (p / 16)) 10 2) (p % 16)))) 1) t
    let t := (List.range 16).foldl (fun t e => Tried.write t .OPT_LASER_CTRL e (BitVec.ofNat 64 (leAt (portPlanEntry b e) 8 1)) 0xFF) t
    (t.status, t.2)

/-- The flow-table region as LOADING fixed it: its pair and its size (R20). -/
def State.flowRegion (s : State) : Option (Nat × Nat) := s.tbl.placement.flowLog.map (fun k => (s.tbl.placement.flow, k))
def flowRegionOf (b : List Byte) : Option (Nat × Nat) :=
  if tableOnIn b 66 then some (leAt b 0 1, leAt (tableEntry b 66) 0 1) else none

/-- A table configuration keeps the widths of R161. -/
def tableWordFits (x : List Byte) : Bool := decide (leAt x 0 1 < 32 ∧ leAt x 1 1 < 8 ∧ leAt x 2 2 < 2 ^ 15 ∧ leAt x 4 4 < 2 ^ 21)

/-- A table configuration that differs from the running one is written; one that no register holds counts as a write ignored. -/
def Tried.table (t : Tried) (b : List Byte) (n : Nat) : Tried :=
  let x := tableEntry b n
  let s := t.2
  if !tableWordFits x then (true, s)
  else if (s.reg .TBL_TABLE_CFG n).toNat = tableWordOf x ∧ (s.reg .TBL_SEED_A n).toNat = leAt x 8 4 ∧ (s.reg .TBL_SEED_B n).toNat = leAt x 12 4 then t
  else ((t.whole .TBL_TABLE_CFG n (tableWordOf x)).whole .TBL_SEED_A n (leAt x 8 4)).whole .TBL_SEED_B n (leAt x 12 4)

/-- Table commands made one after another until one fails: the status of that one. -/
def State.stagedCommands (s : State) : List (Nat × Nat × TableOperands) → Nat × State
  | [] => (Code.OK, s)
  | (op, t, o) :: xs =>
    let r := s.tableCommand op t false o
    if r.1.status.toNat = Code.OK then r.2.stagedCommands xs else (r.1.status.toNat, r.2)

/-- A record whose INDEX or reserved bytes break R161 names no command. -/
def actionCommand (x : List Byte) : Nat × Nat × TableOperands :=
  (if leAt x 0 4 < 2 ^ 20 ∧ leAt x 4 4 = 0 then 5 else 0, 64, { key := slice x 8 32, action := 0, pinned := false, ageLimit := 0, index := BitVec.ofNat 28 (leAt x 0 4) })
/-- An entry whose KEY_LEN is not that of its table, or with a field out of its range (R161), names no command. -/
def State.entryCommand (s : State) (x : List Byte) : Nat × Nat × TableOperands :=
  let t := leAt x 0 1
  (if leAt x 2 1 = s.keyBytes t ∧ leAt x 4 4 < 2 ^ 24 ∧ leAt x 8 2 < 2 ^ 15 then 1 else 0, t,
   { key := slice x 16 64, action := BitVec.ofNat 24 (leAt x 4 4), pinned := bit (leAt x 1 1) 0, ageLimit := BitVec.ofNat 15 (leAt x 8 2),
     index := 0 })

def State.amendTables (s : State) (b : List Byte) : Nat × State :=
  match sceneList b with
  | none => (Code.MALFORMED, s)
  | some xs =>
    if b.length < sceneListAt b then (Code.MALFORMED, s)
    else if flowRegionOf b != s.flowRegion then (Code.UNSUPPORTED, s)
    else
      let t := ((List.range 67).filter (· != 64)).foldl (fun t n => Tried.table t b n) ((false, s) : Tried)
      let t := t.list xs
      let r := t.2.stagedCommands ((sceneActions b).map actionCommand ++ (sceneEntries b).map t.2.entryCommand)
      (if r.1 = Code.OK then t.status else r.1, r.2)

def State.amendTraffic (s : State) (b : List Byte) : Nat × State :=
  match trafficList b with
  | none => (Code.MALFORMED, s)
  | some xs =>
    if leAt b 0 4 != s.tbl.placement.spillMib || leAt b 4 1 != s.tbl.placement.spill then (Code.UNSUPPORTED, s)
    else let t := Tried.list (false, s) xs; (t.status, t.2)

/-- Steps whose first failure gives the status of the record (R331). -/
def firstFailure (r : Nat × State) (f : State → Nat × State) : Nat × State :=
  let x := f r.2
  (if r.1 = Code.OK then x.1 else r.1, x.2)

def State.amendShare (s : State) (b : List Byte) (l : Nat) : Nat × State :=
  let v := BitVec.ofNat 64 ((shareOf b l).1 + (shareOf b l).2 * 2 ^ 32)
  let t := Tried.write (false, s) .SLC_PEER_SHARE l v wholeMask
  (t.status, t.2)

def State.amendSlices (s : State) (b : List Byte) : Nat × State :=
  if b.length < 520 + 256 * leAt b 0 2 + 36 * leAt b 4 4 then (Code.MALFORMED, s)
  else if planPeerMib b != s.slc.peerMib || (leAt b 2 1 != s.tbl.placement.peer && planPeerMib b != 0) then (Code.UNSUPPORTED, s)
  else
    let r := (List.range 64).foldl (fun r l => firstFailure r (fun s => s.amendShare b l)) (Code.OK, s)
    let r := (planSlices b).foldl (fun r e => firstFailure r (fun s => s.planAmend e)) r
    (planSpaces b).foldl (fun r x => firstFailure r (fun s => s.planSpace x)) r

/-- Each of the 40 writes stands or is refused on its own (R453). -/
def State.amendPower (s : State) (b : List Byte) : Nat × State :=
  if b.length < 160 then (Code.MALFORMED, s)
  else (Code.OK, (List.range 40).foldl (fun s d => s.amendWrite .PWR_DOMAIN_CTRL d (BitVec.ofNat 64 (powerWord b d)) lowMask) s)

/-- The device leaves the stack and joins again under the new plan (R446). -/
def State.amendStack (s : State) (version : Nat) (b : List Byte) : Nat × State :=
  if stackInvalid b then (Code.MALFORMED, s)
  else
    let whole := toLE 2 10 ++ toLE 2 version ++ toLE 4 b.length ++ b
    let s := s.setStk { s.stk with covered := SMap.set (fun _ => []) 10 whole s.stk.covered }
    (Code.OK, (s.loadStack b).stackCurtains)

/-- A SECTION record (R56). -/
def State.amendSection (s : State) (type version : Nat) (b : List Byte) : Nat × State :=
  match type with
  | 2 => s.amendPorts b
  | 3 => s.amendTables b
  | 4 => s.amendSlices b
  | 5 => s.amendTraffic b
  | 6 => s.amendPower b
  | _ => s.amendStack version b

/-! ## Records (R56) -/

/-- A record: its kind and body. -/
structure Record where
  kind : Nat
  body : List Byte
  deriving DecidableEq, Repr

/-- The records of a body; none where its structure fails. -/
def recordsOf : Nat → List Byte → Option (List Record)
  | 0, bs => if bs.isEmpty then some [] else none
  | n + 1, bs =>
    let len := leAt bs 4 4
    let p := padTo8 (8 + len)
    if bs.isEmpty then some []
    else if bs.length < 8 || bs.length < p || !allZero (slice bs (8 + len) (p - 8 - len)) then none
    else (recordsOf n (bs.drop p)).map ({ kind := leAt bs 0 2, body := slice bs 8 len } :: ·)

/-- A register write's target: MALFORMED where it names none, UNSUPPORTED where R56 forbids it. -/
def State.targetCode (s : State) (a : Nat) (wide : Bool) : Nat :=
  if blockAt a = some .KEY || blockAt a = some .SYS then Code.UNSUPPORTED
  else match resolve a (s.leadCpc.getD 0) with
    | none => Code.MALFORMED
    | some t =>
      if reservedElement t then Code.MALFORMED
      else if t.reg.info.fields.all (fun f => f.access == .RO || f.access == .RC) || (wide && !t.reg.info.wide) then Code.UNSUPPORTED
      else Code.OK

/-- The structural check of one record (R55, R56). DESIGN CHOICE: a SECTION record of a major version other than 1 is UNSUPPORTED,
as one of a TYPE that cannot be amended is (assumption log entry 37). -/
def State.recordCode (s : State) (x : Record) : Nat :=
  let n := x.body.length
  let a := leAt x.body 0 4
  match x.kind with
  | 1 => if n != 12 || a % 4 != 0 then Code.MALFORMED else s.targetCode a false
  | 2 =>
    if n < 4 then Code.MALFORMED
    else if !([2, 3, 4, 5, 6, 10].contains (leAt x.body 0 2)) || leAt x.body 2 2 / 256 != 1 then Code.UNSUPPORTED else Code.OK
  | 3 => if n = 0 then Code.OK else Code.MALFORMED
  | 4 => if n = 0 then Code.OK else Code.MALFORMED
  | 5 => if n = 4992 then Code.OK else Code.MALFORMED
  | 6 => if n % 4 = 0 ∧ n ≤ 1024 then Code.OK else Code.MALFORMED
  | 7 => if n != 24 || a % 8 != 0 then Code.MALFORMED else s.targetCode a true
  | _ => Code.MALFORMED

/-- The status a register that reports one gives the write just made (R57). -/
def State.writeStatus (s : State) (reg : RegName) (i : Nat) : Nat :=
  match reg with
  | .CLS_SCENE_COMMIT => s.scn.lastStatus.toNat
  | .SLC_CMD => s.fld Fld.SLC_STATUS_LAST_STATUS 0
  | .PWR_DOMAIN_CTRL => if s.fld Fld.PWR_DOMAIN_STATUS_LAST_STATUS i = 0xB9 then 0xB9 else Code.OK
  | _ => Code.OK

/-- REGWRITE and REGWRITE64: the bits in mask are written, the others keep what they hold. -/
def State.regWrite (s : State) (a : Nat) (wide : Bool) (mask value : Nat) : Nat × State :=
  match resolve a (s.leadCpc.getD 0) with
  | none => (Code.MALFORMED, s)
  | some t =>
    let k := if t.high && !wide then 2 ^ 32 else 1
    let s := s.amendWrite t.reg t.idx (BitVec.ofNat 64 (value * k)) (BitVec.ofNat 64 (mask * k))
    (s.writeStatus t.reg t.idx, s)

/-- What follows an amendment's reply. -/
inductive Afterwards where
  | stay | restart | sleep
  deriving DecidableEq, Repr

/-- QUERY: 32 bits for each address, read by the lead CPC. -/
def State.queryRead (s : State) : List Nat → List Byte × State
  | [] => ([], s)
  | a :: as =>
    let x := s.mapReadAt s.leadRequester a a .b4
    let r := x.2.queryRead as
    (toLE 4 x.1.toNat ++ r.1, r.2)

def stationOf (o : Origin) : Option (BitVec 64) :=
  match o with
  | .station n => some n
  | .callboard _ => none

/-- One record applied: its status, QUERY data, what follows the reply, and the state. DESIGN CHOICE: a SLEEP record outside STAGE,
and a RESTART record under cause ZEROIZE, ask for transitions R49 does not have and are UNSUPPORTED (assumption log entry 36). -/
def State.applyRecord (s : State) (o : Origin) (x : Record) : Nat × List Byte × Afterwards × State :=
  let b := x.body
  let plain := fun (r : Nat × State) => (r.1, ([] : List Byte), Afterwards.stay, r.2)
  match x.kind with
  | 1 => plain (s.regWrite (leAt b 0 4) false (leAt b 4 4) (leAt b 8 4))
  | 2 => plain (s.amendSection (leAt b 0 2) (leAt b 2 2) (b.drop 4))
  | 3 => if s.dev.cause = .ZEROIZE then (Code.UNSUPPORTED, [], .stay, s) else (Code.OK, [], .restart, s)
  | 4 => if s.dev.state = .STAGE then (Code.OK, [], .sleep, s) else (Code.UNSUPPORTED, [], .stay, s)
  | 5 => plain (s.stageImage (stationOf o) (slice b 0 256) (slice b 256 4736))
  | 6 => let r := s.queryRead ((List.range (b.length / 4)).map (fun i => leAt b (4 * i) 4)); (Code.OK, r.1, .stay, r.2)
  | _ => plain (s.regWrite (leAt b 0 4) true (leAt b 8 8) (leAt b 16 8))

/-- Records applied in order until one is refused, or one ends the run of the device (R57). DESIGN CHOICE: records after a RESTART or
SLEEP record are not applied, and the reply of such an amendment carries index 0xFFFF (assumption log entry 38). -/
def State.applyRecords (s : State) (o : Origin) : Nat → List Byte → List Record → Nat × Nat × List Byte × Afterwards × State
  | _, data, [] => (Code.OK, 0xFFFF, data, .stay, s)
  | i, data, x :: xs =>
    let r := s.applyRecord o x
    if r.1 != Code.OK then (r.1, i, data ++ r.2.1, .stay, r.2.2.2)
    else if r.2.2.1 != .stay then (Code.OK, 0xFFFF, data ++ r.2.1, r.2.2.1, r.2.2.2)
    else r.2.2.2.applyRecords o (i + 1) (data ++ r.2.1) xs

/-- A reply leaves to where the message came from: SEQUENCE, status, the index of the record refused, data (R57). -/
def State.replyTo (s : State) (o : Origin) (seq status index : Nat) (data : List Byte) : State :=
  let body := toLE 8 seq ++ toLE 1 status ++ [0#8] ++ toLE 2 index ++ data
  match o with
  | .station n => s.sendMgmt 0x08 (some n) body
  | .callboard h => s.talkReply h.val body

/-- RESTART and SLEEP: the counter records are written clean, then the transition (R49, R255). -/
def State.leave (s : State) (a : Afterwards) : State :=
  match a with
  | .stay => s
  | .restart => s.cleanRecords.shutModules.reload .RESTART
  | .sleep => s.cleanRecords.shutModules.warmReset

/-- Records of an amendment that passed, its reply, and what follows. -/
def State.runRecords (s : State) (o : Origin) (seq : Nat) (xs : List Record) : State :=
  let r := s.applyRecords o 0 [] xs
  (r.2.2.2.2.replyTo o seq r.1 r.2.1 r.2.2.1).leave r.2.2.2.1

/-! ## Amendments (R54, R55, R57) -/

/-- Both signatures of a house key hold over a header (R39, R54). -/
def State.houseSigned (s : State) (header block : List Byte) : Bool :=
  let slot := leAt block 4 1
  slice block 0 4 == ascii "SIGB" && leAt block 0x68 4 == 4627 && slot < 8 &&
  (match s.keySlot (4 + slot) with
   | some k => sigVerifies k header block
   | none => false)

/-- The first four checks of R55 on a header and body. -/
def State.authentic (s : State) (magic : List Byte) (last : Nat) (seqAt digestAt : Nat) (h body : List Byte) : Bool :=
  slice h 0 4 == magic && leAt h 4 2 == 1 && leAt h 8 8 == Config.serial.toNat && leAt h 0x10 8 == s.dev.nonce.toNat &&
  decide (last < leAt h seqAt 8) && slice h digestAt 48 == Config.sha384 body

/-- The vault checks signatures: it works, and one of its units leads. -/
def State.vaultChecks (s : State) : Bool := s.leadVault.isSome && !s.vlt.error

/-- The whole check of R55: a status, and the records of an amendment that passes. -/
def State.checkAmendment (s : State) (m : List Byte) : Nat × List Record :=
  let h := slice m 0 128
  let n := leAt h 0x24 4
  let body := slice m 128 n
  if !s.vaultChecks || !s.authentic (ascii "AMRA") s.dev.amendSeq.toNat 0x18 0x28 h body || !s.houseSigned h (slice m (128 + n) 4736) then
    (Code.AUTH_FAIL, [])
  else if 1048576 < n || m.length < 128 + n + 4736 then (Code.MALFORMED, [])
  else match recordsOf body.length body with
    | none => (Code.MALFORMED, [])
    | some xs =>
      if xs.length != leAt h 0x20 2 || xs.isEmpty || 4096 < xs.length then (Code.MALFORMED, [])
      else match xs.find? (fun x => s.recordCode x != Code.OK) with
        | some x => (s.recordCode x, [])
        | none => (Code.OK, xs)

/-- The CPCs run their firmware. -/
def State.cpcRuns (s : State) : Bool := s.dev.state == .STAGE || (s.dev.state == .CURTAIN && s.dev.cpcStarted)

/-- A lead CPC unit acts: no switch-over gap is open, and its claim counts at every gate (R415). -/
def State.leadActs (s : State) : Bool :=
  s.leadCpc.isSome && s.gap 0 == .closed && !s.rdn.before.any (fun x => x.1 == 0)

/-- An amendment is received whole: held in a switch-over gap, else checked and applied. -/
def State.amendment (s : State) (o : Origin) (m : List Byte) : State :=
  if !s.cpcRuns then s
  else if !s.leadActs then { s with dev := { s.dev with held := s.dev.held ++ [(o, m)] } }
  else
    let seq := leAt m 0x18 8
    let c := s.checkAmendment m
    if c.1 = Code.OK then { s with dev := { s.dev with amendSeq := BitVec.ofNat 64 seq } }.runRecords o seq c.2
    else s.replyTo o seq c.1 0xFFFF []

/-- An amendment record by itself, its amendment having passed: checked in its structure, applied, and answered. -/
def State.oneRecord (s : State) (o : Origin) (x : Record) : State :=
  if !s.cpcRuns || !s.leadActs then s
  else
    let seq := s.dev.amendSeq.toNat
    if s.recordCode x = Code.OK then s.runRecords o seq [x] else s.replyTo o seq (s.recordCode x) 0xFFFF []

/-- Amendments held in a gap are applied by the new lead (R57). -/
def State.applyHeld (s : State) : State :=
  if s.cpcRuns && s.leadActs then
    s.dev.held.foldl (fun s x => s.amendment x.1 x.2) { s with dev := { s.dev with held := [] } }
  else s

end Sys2Proof.Machine
end

