-- ==== Sys2Proof/Machine/Warrant.lean ====
section
/-! DEFINITION. Warrants (R273 to R275), the hand-over of keys (R278 to R280) and zeroisation's end (R286 to R288). -/

namespace Sys2Proof.Machine

/-! ## Acceptance (R273, R274) -/

/-- Size of a signature block (R39). -/
def sigBytes : Nat := 4736

/-- House slots that count towards a warrant; none where a block of the set does not verify. -/
def State.countBlocks (s : State) (h : List Byte) : List (List Byte) → List Nat → Option (List Nat)
  | [], ns => some ns
  | b :: bs, ns =>
    let slot := leAt b 4 1
    if 8 ≤ slot || !s.vlt.houseSet.getLsbD slot || (s.keySlot (4 + slot)).isNone || ns.contains slot then s.countBlocks h bs ns
    else if s.houseSigned h b then s.countBlocks h bs (slot :: ns)
    else none

/-- A warrant's status: OK where it is accepted. -/
def State.checkWarrant (s : State) (m : List Byte) : Nat :=
  let h := slice m 0 128
  let service := leAt h 0x18 2
  let sigs := leAt h 0x1A 1
  let n := leAt h 0x1C 4
  let need := if service = 1 then 1 else s.kInForce
  if s.vlt.error || s.vlt.erasing then 0xD0
  else if !between 1 8 sigs || 1048576 < n || m.length < 128 + n + sigBytes * sigs then Code.MALFORMED
  else match s.countBlocks h ((List.range sigs).map (fun i => slice m (128 + n + sigBytes * i) sigBytes)) [] with
    | none => Code.AUTH_FAIL
    | some ns =>
      if ns.length < need || !s.authentic (ascii "AMRW") s.vlt.warrantSeq 0x50 0x20 h (slice m 128 n) then Code.AUTH_FAIL
      else if between 1 9 service then Code.OK
      else Code.UNSUPPORTED

/-- A warrant is received whole: it waits for its service to be performed, or is answered at once. -/
def State.warrantIn (s : State) (o : Origin) (m : List Byte) : State :=
  if s.leadVault.isNone || !s.mapAnswers then s
  else
    let seq := leAt m 0x50 8
    let c := s.checkWarrant m
    if c = Code.OK then
      let w : Warrant := { origin := o, service := leAt m 0x18 2, seq := seq, body := slice m 128 (leAt m 0x1C 4) }
      { s with vlt := { s.vlt with warrantSeq := seq, accepted := s.vlt.accepted ++ [w] } }
    else s.replyTo o seq c 0xFFFF []

/-- The oldest accepted warrant, where it asks for a service, is performed and answered. -/
def State.performWarrant (s : State) (service : Nat) (f : State → List Byte → Served) : State :=
  match s.vlt.accepted with
  | [] => s
  | w :: rest =>
    if w.service != service then s
    else
      let s := { s with vlt := { s.vlt with accepted := rest } }
      let r := if s.vlt.error || s.vlt.erasing then (0xD0, [], s) else f s w.body
      r.2.2.replyTo w.origin w.seq r.1 0xFFFF r.2.1

/-! ## The hand-over (R278 to R280) -/

/-- A chain leads to one of the attestation roots in force. -/
def State.attested (s : State) (chain : List Byte) : Bool := s.vlt.attestRoots.any (fun r => Config.chainVerify r chain)

/-- The hand-over key. -/
def handoverKey (s1 s2 offer pub ct : List Byte) : List Byte :=
  kdf (s1 ++ s2) (ascii "AMR-HANDOVER") (sha384 (offer ++ pub ++ ct)) 32
def recordIv (i : Nat) : List Byte := toBE 4 0 ++ toBE 8 i

/-- The exportable keys of the domains in a mask: installed ones with their context, and those of KEY_POLICIES not installed. -/
def State.exportKeys (s : State) (mask : Nat) : List (Option Nat × BlobHead × List Byte × Nat) :=
  let head := fun (k : KeyCtx) (m : KeyMat) =>
    { magic := ascii "AMRH", alg := k.alg, domain := m.domain, policy := 1 + 2 * flag k.persist, keyId := m.id, drkId := 0,
      used := k.used, bytes := k.bytes : BlobHead }
  let mine := s.cph.ctxs.filterMap (fun x => x.2.cur.bind (fun m =>
    if m.exportable && bit mask m.domain then some (some x.1, head x.2 m, m.material, m.fixed.toNat) else none))
  let rest := s.vlt.policyBlobs.filterMap (fun b => match s.unwrap b with
    | .inr (h, m, f) => if h.policy % 2 == 1 && bit mask h.domain && !mine.any (fun x => x.2.1.keyId == h.keyId) then
        some (none, { h with magic := ascii "AMRH", drkId := 0 }, m, f) else none
    | .inl _ => none)
  mine ++ rest

/-- Exported GCM contexts are locked; XTS keys stay usable. -/
def State.lockExported (s : State) (xs : List (Option Nat × BlobHead × List Byte × Nat)) : State :=
  xs.foldl (fun s x => match x.1 with
    | some c => if x.2.1.alg < 3 then s.lockOwn c else s
    | none => s) s

def packageHeader (oSerial sSerial nonce digest : List Byte) (count : Nat) : List Byte :=
  slice (ascii "AMRX" ++ toLE 2 1 ++ toLE 2 0 ++ oSerial ++ sSerial ++ nonce ++ toLE 4 count ++ toLE 4 0 ++ digest) 0 256

/-- HANDOVER_EXPORT: the body is the offer and a 16-bit domain mask. -/
def State.handoverExport (s : State) (b : List Byte) : Served :=
  let offer := b.take (b.length - 2)
  let mask := leAt b (b.length - 2) 2
  let signed := offer.take (offer.length - sigBytes)
  let block := offer.drop (offer.length - sigBytes)
  let chain := signed.drop 1688
  let nonce := slice offer 16 8
  if b.length < 1688 + sigBytes + 2 then (Code.MALFORMED, [], s)
  else if !s.attested chain || !sigVerifies (Config.chainKeys chain) signed block then (Code.AUTH_FAIL, [], s)
  else if s.vlt.exported.contains nonce then (0xD0, [], s)
  else if !s.entropy then (0xD5, [], s)
  else
    let (seed, s) := s.drbg 32
    let (dh, s) := s.drbg 48
    let (s1, ct) := Config.kemEncaps (slice offer 24 1568) seed
    let pub := slice (Config.ecPublic dh) 0 112
    let key := handoverKey s1 (Config.ecdh dh (slice offer 1592 96)) offer pub (slice ct 0 1568)
    let xs := s.exportKeys mask
    let records := ((List.range xs.length).zip xs).flatMap (fun x => wrapBlob key (recordIv x.1) x.2.2.1 x.2.2.2.1 x.2.2.2.2)
    let rest := pub ++ slice ct 0 1568 ++ records
    let header := packageHeader (toLE 8 Config.serial.toNat) (slice offer 0 8) nonce (Config.sha384 rest) xs.length
    let s := (s.lockExported xs).settleAll
    (Code.OK, header ++ rest ++ s.identityBlock header, { s with vlt := { s.vlt with exported := nonce :: s.vlt.exported } })

/-- One record of a package, unwrapped and rewrapped under the KEK of its domain; none where it fails. A key that comes by hand-over is no longer
EXPORTABLE (R267, R270). -/
def State.rewrapOne (s : State) (key : List Byte) (i : Nat) (r : List Byte) : Option (List Byte × State) :=
  let h := blobHead r
  match openBlob key (recordIv i) r with
  | none => none
  | some (m, f) =>
    if h.magic ≠ ascii "AMRH" ∨ h.drkId ≠ 0 ∨ s.vlt.domains ≤ h.domain then none
    else some (s.makeBlob { h with magic := ascii "AMRK", policy := h.policy / 2 * 2 } m f)

/-- The records of a package rewrapped one after another; none where one fails. -/
def State.rewrap (s : State) (key : List Byte) (i : Nat) (rs : List (List Byte)) : Option (List Byte × State) :=
  rs.zipIdx.foldl (fun x r => x.bind (fun y => (y.2.rewrapOne key (i + r.2) r.1).map (fun z => (y.1 ++ z.1, z.2)))) (some ([], s))

/-- HANDOVER_IMPORT: the body is the package, then the old device's identity chain. -/
def State.handoverImport (s : State) (b : List Byte) : Served :=
  let h := slice b 0 256
  let count := leAt h 32 4
  let n := 1936 + 160 * count
  let chain := b.drop (n + sigBytes)
  if b.length < n + sigBytes || slice h 0 4 != ascii "AMRX" || leAt h 4 2 != 1 then (Code.MALFORMED, [], s)
  else match s.vlt.offer with
    | none => (0xD0, [], s)
    | some o =>
      if leAt h 16 8 != Config.serial.toNat || slice h 24 8 != slice o.bytes 16 8 then (0xD0, [], s)
      else if !s.attested chain || !sigVerifies (Config.chainKeys chain) h (slice b n sigBytes) ||
          slice h 40 48 != Config.sha384 (slice b 0x100 (n - 0x100)) then (Code.AUTH_FAIL, [], s)
      else if !s.entropy then (0xD5, [], s)
      else
        let pub := slice b 0x100 112
        let ct := slice b 0x170 1568
        let key := handoverKey (Config.kemDecaps o.kem ct) (Config.ecdh o.dh (slice pub 0 96)) o.bytes pub ct
        match s.rewrap key 0 ((List.range count).map (fun i => slice b (0x790 + 160 * i) 160)) with
        | none => (0xD1, [], s)
        | some (blobs, s) => (Code.OK, blobs, { s with vlt := { s.vlt with offer := none } })

/-! ## The other services (R274, R275, R286, R288) -/

def State.wZeroize (s : State) (_ : List Byte) : Served := (Code.OK, [], s.startZeroise.settleAll)

/-- A key entry: the slot in byte 0, the two keys from byte 15, as a house enrolment entry of R268. -/
def State.wEnrol (s : State) (b : List Byte) : Served :=
  let slot := leAt b 0 1
  if b.length != 2704 then (Code.MALFORMED, [], s)
  else if 4 ≤ slot || (s.keySlot slot).isSome then (0xD0, [], s)
  else (Code.OK, [], s.setKeySlot slot (some (slice b 15 2689)))

/-- A signing slot is named by the running image or by a valid image in the other flash slot. -/
def State.slotNamed (s : State) (slot : Nat) : Bool :=
  let b := s.dev.slotB
  leAt (s.slotBlock b) 4 1 == slot || (s.checkSlot (!b) == 0 && leAt (s.slotBlock (!b)) 4 1 == slot)

def State.wWithdraw (s : State) (b : List Byte) : Served :=
  let slot := leAt b 0 1
  if b.isEmpty then (Code.MALFORMED, [], s)
  else if 4 ≤ slot || s.slotNamed slot then (0xD0, [], s)
  else (Code.OK, [], s.setKeySlot slot none)

def State.wReplace (s : State) (b : List Byte) : Served :=
  let slot := leAt b 0 1
  let others := (List.range 8).any (fun i => i != slot && s.vlt.houseSet.getLsbD i && (s.keySlot (4 + i)).isSome)
  if b.length != 2704 then (Code.MALFORMED, [], s)
  else if 8 ≤ slot || !others then (0xD0, [], s)
  else (Code.OK, [], s.setKeySlot (4 + slot) (some (slice b 15 2689)))

def State.wKFloor (s : State) (b : List Byte) : Served :=
  if b.isEmpty then (Code.MALFORMED, [], s)
  else if between 1 8 (leAt b 0 1) then (Code.OK, [], s.writeStore (.critical 1) (fun t => { t with kFloor := leAt b 0 1 }))
  else (0xD0, [], s)

def State.wDebug (s : State) (_ : List Byte) : Served :=
  if s.dev.state != .STAGE then (0xD0, [], s)
  else
    let s := ((s.lockAll (fun _ _ => true)).stopIde).settleAll
    (Code.OK, [], { s with vlt := { s.vlt with debug := true } })

/-- REINITIALISE (R288): new roots, then the transition of a RESTART record once it is answered. -/
def State.wReinitialise (s : State) (_ : List Byte) : Served :=
  if s.dev.state != .CURTAIN || s.dev.cause != .ZEROIZE then (0xD0, [], s)
  else if !s.entropy then (0xD5, [], s)
  else
    let (drk, s) := s.reseed.drbg 32
    let (id, s) := s.drbg 4
    let (seed, s) := s.drbg 48
    let (iv1, s) := s.drbg 12
    let (iv2, s) := s.drbg 12
    let s := s.writeStore (.critical 2) (fun t => { t with drkId := some (BitVec.ofNat 32 (leNat id)) })
    let s := s.writeStore (.critical 3) (fun t => { t with drk := some (sealSecret iv1 drk) })
    let s := s.writeStore (.critical 4) (fun t => { t with seed := some (sealSecret iv2 seed) })
    (Code.OK, [], s.writeStore (.critical 5) (fun t => { t with zeroised := false }))

def State.reinitialise (s : State) : State :=
  let t := s.performWarrant 9 State.wReinitialise
  if s.vlt.store.zeroised && !t.vlt.store.zeroised then t.cleanRecords.reload .RESTART else t

/-- The erase engines end (R287 steps 3 and 4). -/
def State.zeroised (s : State) : State :=
  if !s.vlt.erasing then s
  else
    let s := s.erase.settleAll
    match s.dev.state with
    | .STAGE => s.deviceCurtain .ZEROIZE 9 none
    | .CURTAIN => { s with dev := { s.dev with cause := .ZEROIZE } }.setFld Fld.FLT_STATUS_DEVICE_CAUSE 0 9
    | _ => s

end Sys2Proof.Machine
end

