-- ==== Sys2Proof/Machine/Message.lean ====
section
/-! DEFINITION. Management messages (R112 to R114): frames received, messages reassembled and acted on, and what the callboard's
management protocol carries (R407, R408). -/

namespace Sys2Proof.Machine

/-! ## Stations -/

/-- A message of a station was accepted, or is older than its window. -/
def Station.seen (x : Station) (q : BitVec 32) : Bool :=
  match x.highest with
  | none => false
  | some h =>
    q == h || (decide (q.toNat < h.toNat) && (decide (64 < h.toNat - q.toNat) || x.window.getLsbD (h.toNat - q.toNat - 1)))

/-- A message is accepted. -/
def Station.accept (x : Station) (q : BitVec 32) : Station :=
  match x.highest with
  | none => { x with highest := some q, window := 0 }
  | some h =>
    if h.toNat < q.toNat then
      let d := q.toNat - h.toNat
      { x with highest := some q, window := if 64 < d then 0 else BitVec.ofNat 64 ((x.window.toNat * 2 + 1) * 2 ^ (d - 1)) }
    else { x with window := x.window ||| BitVec.ofNat 64 (2 ^ (h.toNat - q.toNat - 1)) }

def freshStation (id : BitVec 64) : Station := { id := id, highest := none, window := 0, macA := none, macB := none }
def State.station (s : State) (id : BitVec 64) : Station := (s.mgt.stations.find? (fun x => x.id == id)).getD (freshStation id)

/-- A station becomes the one heard most recently; of 16 kept, a new one replaces the one heard least recently. -/
def State.setStation (s : State) (x : Station) : State :=
  let others := s.mgt.stations.filter (fun y => y.id != x.id)
  { s with mgt := { s.mgt with stations := others.drop (others.length - 15) ++ [x] } }

def State.hear (s : State) (id : BitVec 64) (seg : Nat) (mac : Mac) : State :=
  let x := s.station id
  s.setStation (if seg = 0 then { x with macA := some mac } else { x with macB := some mac })

/-! ## Messages -/

/-- An amendment or a warrant, told apart by its MAGIC (R273). -/
def State.command (s : State) (o : Origin) (m : List Byte) : State :=
  if slice m 0 4 == ascii "AMRW" then s.warrantIn o m else s.amendment o m

/-- A whole message acts (R46, R113). -/
def State.message (s : State) (station : BitVec 64) (seg : Nat) (seq : BitVec 32) (type : Nat) (m : List Byte) : State :=
  match type with
  | 2 => if m.length = 4992 then s.offerIn station (slice m 0 256) (slice m 256 4736) else s
  | 3 => if between 1 1024 (leAt m 4 2) && m.length == 6 + leAt m 4 2 then s.chunkIn station (leAt m 0 4) (m.drop 6) else s
  | 5 => if m.length = 1 then s.endIn station false else s
  | 7 =>
    let s := s.slotPut 8240 (0x6000 + seg) (BitVec.ofNat 32 (0x07 + seq.toNat % 2 ^ 24 * 2 ^ 8))
    s.command (.station station) m
  | _ => s

def State.badFrame (s : State) (seg : Nat) : State := s.bump .MGT_SEG_BAD_FRAMES seg

def partDefault : Nat → Option (List Byte) := fun _ => none

/-- The parts of an assembly in order, once all are there. -/
def Assembly.whole (x : Assembly) : Option (List Byte) :=
  (List.range x.count).foldr (fun i r => match r, SMap.get partDefault x.parts i with
    | some bs, some p => some (p ++ bs)
    | _, _ => none) (some [])

/-- A segment of a message that keeps the header's rules. -/
def State.segmentIn (s : State) (seg : Nat) (mac : Mac) (b : List Byte) : State :=
  let id := BitVec.ofNat 64 (leAt b 4 8)
  let seq := BitVec.ofNat 32 (leAt b 12 4)
  let type := BitVec.ofNat 8 (leAt b 1 1)
  let count := leAt b 18 2
  let s := s.hear id seg mac
  if (s.station id).seen seq then s.bump .MGT_SEG_DUP_DROPPED seg
  else
    let mine := fun (x : Assembly) => x.station == id && x.seq == seq
    let x : Assembly := (s.mgt.assemblies.find? mine).getD { station := id, seq := seq, type := type, count := count, parts := [], movedAt := s.elapsed }
    if x.type != type || x.count != count then s.badFrame seg
    else
      let i := leAt b 16 2
      let x := if (SMap.get partDefault x.parts i).isSome then x
               else { x with parts := SMap.set partDefault i (some (slice b 24 (leAt b 20 2))) x.parts }
      let x := { x with movedAt := s.elapsed }
      let others := s.mgt.assemblies.filter (fun y => !mine y)
      match x.whole with
      | none => { s with mgt := { s.mgt with assemblies := others ++ [x] } }
      | some m =>
        let s := { s with mgt := { s.mgt with assemblies := others } }
        (s.setStation ((s.station id).accept seq)).message id seg seq type.toNat m

/-- A frame on a segment (R112, R113). -/
def State.mgmtFrame (s : State) (seg : Nat) (src dst : Mac) (etherType : Nat) (b : List Byte) : State :=
  if !s.mapAnswers || !s.segmentOn seg || etherType != 0x88B5 || (dst != Config.segMac seg && dst != 0xFFFFFFFFFFFF) then s
  else
    let s := s.bump .MGT_SEG_RX_FRAMES seg
    let count := leAt b 18 2
    let len := leAt b 20 2
    if leAt b 0 1 != 1 || !between 1 9 (leAt b 1 1) || !between 1 1024 count || count ≤ leAt b 16 2 || !between 1 1476 len || b.length < 24 + len then
      s.badFrame seg
    else s.segmentIn seg src b

/-- No segment of a message arrived for 1 s. -/
def State.assemblyTimeout (s : State) (station : BitVec 64) (seq : BitVec 32) : State :=
  { s with mgt := { s.mgt with assemblies := s.mgt.assemblies.filter (fun x =>
      !(x.station == station && x.seq == seq && decide (x.movedAt + 1000000000 ≤ s.elapsed))) } }

/-! ## The callboard's management protocol (R407) -/

/-- The lead CPC takes the word of PF0 on port h; a transfer that it completes is acted on. -/
def State.talkWord (s : State) (h : Nat) : State :=
  if !s.cpcRuns || s.leadCpc.isNone then s
  else
    let r := s.talkTake h
    match r.1 with
    | some m => r.2.command (.callboard (Fin.ofNat 16 h)) m
    | none => r.2

/-- No word of a transfer moved for 10 ms (R408). -/
def State.talkTimeout (s : State) (h : Nat) : State :=
  let t := s.talk h
  if (t.open_.isSome || !t.sending.isEmpty) && decide (t.since + 10000000 ≤ s.elapsed) then (s.talkAbandon h).bump .CBD_XFER_ABANDONED 0 else s

end Sys2Proof.Machine
end

