-- ==== Sys2Proof/WellFormed.lean ====
section
/-! DEFINITION. Well-formed commands: the lengths and ranges of operands that their types do not fix. A command that
breaks one names nothing the hardware can be given. Every meaning is total all the same: it ignores what names no element, and
treats a length as the rule's own checks do. -/

namespace Sys2Proof

open Machine (RegName FieldPos Access)

/-- The registers that show one key context at a time: their voted fields are numbered by context (R249, R257). -/
def perContext (r : RegName) : Bool :=
  r == .CPH_CTX_LIMIT || r == .CPH_CTX_BYTE_LIMIT || r == .CPH_CTX_USED || r == .CPH_CTX_BYTES

/-- A voted field of a register, and an element the register has (R80, R249). -/
def votedField (f : FieldPos) (i : Nat) : Bool :=
  ((f.lo == 0 && ((f.reg == .CPH_CTX_USED && f.width == 49) || (f.reg == .CPH_CTX_BYTES && f.width == 51))) ||
    f.reg.info.fields.any (fun x => x.lo == f.lo && x.width == f.width && x.access == .RWV)) &&
  decide (i < if perContext f.reg then 262144 else f.reg.info.count * f.reg.info.count2)

/-- A scope with a register of its own, and its index (R465, R472). -/
def heldScope (k : ScopeKind) (i : Nat) : Bool :=
  match k with
  | .port => i < 256
  | .engine => i < 16
  | .host => i < 16
  | .slice => 0 < i && i < 4096
  | .troupe => i < 128
  | .cipher => false
  | .key => false
  | .device => false

/-- Elements of each kind of shaper (R207, R331). -/
def shaperCount (k : ShaperKind) : Nat :=
  match k with
  | .queue => 2688
  | .port => 336
  | .sliceDeliver => 4096
  | .sliceSend => 4096

/-- Staged operands fit the key registers of R162. -/
def TableCmd.fits (c : TableCmd) : Bool :=
  match c.operands with
  | some o => decide (o.key.length ≤ 64)
  | none => true

/-- The operands of a command obey the limits its rule states. -/
def Instr.wf (i : Instr) : Bool :=
  match i with
  | .offer _ h b => h.length == 256 && b.length == 4736
  | .chunk _ _ d => decide (1 ≤ d.length ∧ d.length ≤ 1024)
  | .stageImage _ h b => h.length == 256 && b.length == 4736
  | .query _ as => decide (as.length ≤ 256)
  | .voteOneDisagree f i _ _ => votedField f i
  | .voteThreeDisagree f x => votedField f x.element
  | .scopeHoldWrite _ k i _ => heldScope k i
  | .exitScope _ k i => heldScope k i
  | .lsmVerifyDone _ v => v.identity.length == 36 && v.log.all (fun r => r.length == 32)
  | .frameArrival _ o => !o.isEmpty
  | .mgmtFrameReceived _ _ _ _ b => decide (b.length ≤ 1500)
  | .insert c => c.fits
  | .delete c => c.fits
  | .lookup c => c.fits
  | .readIndex c => c.fits
  | .writeIndex c => c.fits
  | .refresh c => c.fits
  | .flushScene c => c.fits
  | .shaperWrite _ k i _ => decide (i < shaperCount k)
  | .cipherSubmit _ r _ => r.length == 64
  | _ => true

end Sys2Proof
end

