-- ==== Sys2Proof/Machine/CmdSystem.lean ====
section
/-! DEFINITION. Meanings of the commands of start-up, images, amendments (R33 to R61) and of the control map (R62 to R87). -/

namespace Sys2Proof.Machine

/-- The outcome of a step of this machine. -/
abbrev Result := Host.Outcome State Fault Refusal

/-! ## Accesses as commands make them -/


/-- A read of a register by its own command: the whole register, or its high half. A slice's page does not show the register,
so no slice makes such a read. -/
def State.readRegOut (s : State) (r : Requester) (reg : RegName) (i : Nat) (wide : Bool) : State :=
  match r with
  | .slice _ => s
  | r => if wide then s.readOut r (addrOf reg i) .b8 else s.readOut r (addrOf reg i + 4) .b4

/-- The same of a register's low half, or of the whole register. -/
def State.readLowOut (s : State) (r : Requester) (reg : RegName) (i : Nat) (wide : Bool) : State :=
  match r with
  | .slice _ => s
  | r => s.readOut r (addrOf reg i) (if wide then .b8 else .b4)

/-- A write of some fields of a register by its own command, with the actions they start. -/
def State.fieldsWrite (s : State) (r : Requester) (reg : RegName) (i : Nat) (fs : List (FieldPos × Nat)) : State :=
  s.directWrite r reg i (fs.foldl (fun v x => withField v x.1.lo x.1.width x.2) 0)
    (fs.foldl (fun v x => withField v x.1.lo x.1.width (2 ^ x.1.width - 1)) 0)

/-- A whole 32-bit, or 64-bit, register written by its own command. -/
def State.write32 (s : State) (r : Requester) (reg : RegName) (i : Nat) (v : BitVec 32) : State :=
  s.directWrite r reg i (v.setWidth 64) lowMask
def State.write64 (s : State) (r : Requester) (reg : RegName) (i : Nat) (v : Word) : State := s.directWrite r reg i v wholeMask

/-- A requester other than PF0. -/
def notHost (r : Requester) : Bool :=
  match r with
  | .pf0 _ _ => false
  | _ => true

/-- Counts that arrive in the cycle of a clearing read stand as the first after it (R69). -/
def State.countArriving (s : State) (r : Requester) (t : Target) (n : Nat) : State :=
  match t.reg with
  | .SWC_CTR_FRAMES =>
    let k := s.counterSel r
    { s with swc := { s.swc with counters := SMap.set (fun _ => (0, 0)) k ((s.counterAt k).1 + n, (s.counterAt k).2) s.swc.counters } }
  | .SWC_CTR_OCTETS =>
    let k := s.counterSel r
    { s with swc := { s.swc with counters := SMap.set (fun _ => (0, 0)) k ((s.counterAt k).1, (s.counterAt k).2 + n) s.swc.counters } }
  | reg => if reg.info.fields.all (fun f => f.access == .RC) then s.bumpBy reg t.idx n else s

/-- The read of COUNTER_READ_CLEAR: the low half read, or the whole register. -/
def State.counterRead (s : State) (r : Requester) (a : Nat) (wide : Bool) (arriving : Nat) : State :=
  match s.targetOf r a with
  | none => s.readOut r a (if wide then .b8 else .b4)
  | some t => (s.readOut r a (if wide then .b8 else .b4)).countArriving r t arriving

/-- The device answers a slow read of a requester at all (R53). -/
def State.readsReach (s : State) (r : Requester) : Bool := s.mapAnswers && (notHost r || s.dev.state != .LOADING)

/-- A slow read that gets no data (R75). -/
def State.slowReadFails (s : State) (r : Requester) (a : Nat) (wide : Bool) : State :=
  let size : AccSize := if wide then .b8 else .b4
  match s.targetOf r a with
  | none => s
  | some t =>
    match bridgeOf t.reg with
    | none => s
    | some b =>
      if !s.readsReach r || (words a size).isNone then s
      else
        let s := (s.splitBuffer r).performSlow b
        let s := s.setReg (bridgeStatus b) 0 (BitVec.ofNat 64 (setBits (s.reg (bridgeStatus b) 0).toNat 2 1 1))
        (s.badAccess r a 5 false).emit (.value r.code a (allOnes size))

/-! ## Voted fields (R80 to R83) -/

/-- The register group of a voted field; the registers of the key contexts are one register of one page. -/
def votePage (f : FieldPos) (i : Nat) : Nat :=
  if f.reg.info.block = .CPH then pageOf f 0 else pageOf f i

/-- Control-map address of a page, the INDEX of its group (R461). -/
def groupIndex (page : Nat) : BitVec 32 := BitVec.ofNat 32 (4096 * page)

/-- The group of a field is scrubbed: its test runs, or one is under way already. -/
def State.scrubGroup (s : State) (page : Nat) : State :=
  let i := (groupIndex page).toNat
  if s.vote.scrubs.contains i then s else { s with vote := { s.vote with scrubs := s.vote.scrubs ++ [i] } }

/-- The value a voted field holds: that of its register, or of the context a limit register shows. -/
def State.votedValue (s : State) (f : FieldAt) : Word :=
  match f.reg with
  | .CPH_CTX_LIMIT => BitVec.ofNat 64 (s.keyCtx f.idx).limit
  | .CPH_CTX_BYTE_LIMIT => BitVec.ofNat 64 (s.keyCtx f.idx).byteLimit
  | .CPH_CTX_USED => BitVec.ofNat 64 (s.keyCtx f.idx).used
  | .CPH_CTX_BYTES => BitVec.ofNat 64 (s.keyCtx f.idx).bytes
  | reg => BitVec.ofNat 64 (((reg.info.fields.find? (fun x => x.lo == f.lo)).map (fun x => fieldOf (s.reg reg f.idx) x.lo x.width)).getD 0)

/-- The three copies of a voted field (R80). -/
def State.copiesOf (s : State) (f : FieldAt) : Vector Word 3 :=
  ((s.vote.differ.find? (fun x => x.at_ == f)).map (·.copies)).getD (Vector.replicate 3 (s.votedValue f))

/-- A copy of a voted field comes to hold another word. -/
def State.upset (s : State) (f : FieldAt) (copy : Fin 3) (x : Word) : State :=
  { s with vote := { s.vote with
      differ := s.vote.differ.filter (fun y => y.at_ != f) ++ [{ at_ := f, copies := (s.copiesOf f).set copy.val x copy.isLt }] } }

/-- The field of a position. -/
def FieldAt.pos (f : FieldAt) : FieldPos :=
  { reg := f.reg, lo := f.lo, width := ((f.reg.info.fields.find? (fun x => x.lo == f.lo)).map (·.width)).getD 0 }

/-- Exactly one copy disagrees (R81): it is rewritten from the majority, counted, and the group is scrubbed. -/
def State.correctVoted (s : State) (f : FieldAt) : State :=
  let s := s.healVoted (· == f)
  let page := votePage f.pos f.idx
  let s := (s.bump .FLT_VOTE_CORRECTED 0).elementError
    { cls := .corrected, kind := .registerGroup, index := groupIndex page, cause := 3, scope := none, detail := 0, hit := .nothing }
  s.scrubGroup page

/-- No two copies agree (R83): the field reads zero, and its owning scope enters its curtain. -/
def State.breakVoted (s : State) (f : FieldAt) : State :=
  let index := groupIndex (votePage f.pos f.idx)
  let s := { s with vote := { s.vote with broken := s.vote.broken ++ [f] } }
  match fieldScope f with
  | some (.device, _) => s.fatal (deviceCauseOf 4) 4 .registerGroup index 0
  | some (.key, c) =>
    let s := s.elementError { cls := .contained, kind := .registerGroup, index := index, cause := 4, scope := some (.key, c), detail := 0, hit := .nothing }
    let n := (s.keyCtx c).owner
    if n = 0 then s else s.curtain .slice n faultBit none
  | k => s.elementError { cls := .contained, kind := .registerGroup, index := index, cause := 4, scope := k, detail := 0, hit := .nothing }

/-- A voted field is compared (R81, R83). -/
def State.compareVoted (s : State) (f : FieldAt) : State :=
  let v := s.copiesOf f
  if s.vote.broken.contains f || (v[0] == v[1] && v[1] == v[2]) then s
  else if v[0] == v[1] || v[0] == v[2] || v[1] == v[2] then s.correctVoted f
  else s.breakVoted f

/-- One copy of a voted field comes to disagree, and the field is compared; a write in the same cycle stores all three copies (R81). -/
def State.voteOne (s : State) (f : FieldPos) (i : Nat) (copy : Fin 3) (x : Word) (written : Bool) : State :=
  let f : FieldAt := ⟨f.reg, i, f.lo⟩
  if written || s.vote.broken.contains f || s.dev.state == .OFF then s else (s.upset f copy x).compareVoted f

/-- Two copies come to hold other words, and the field is compared (R83). -/
def State.voteThree (s : State) (f : FieldPos) (i : Nat) (x y : Word) : State :=
  let f : FieldAt := ⟨f.reg, i, f.lo⟩
  if s.vote.broken.contains f || s.dev.state == .OFF then s else ((s.upset f 1 x).upset f 2 y).compareVoted f

/-- The scrubber passes the voted fields that a test admits: each is voted, and rewritten where a copy differs (R82). The others have
three like copies, which a pass leaves as they are. -/
def State.scrubFields (s : State) (mine : FieldAt → Bool) : State :=
  ((s.vote.differ.map (·.at_)).filter mine).foldl (fun s f => s.compareVoted f) s

/-- A group scrub has passed its fields, and ends (R82), and with it the group's test. -/
def State.scrubDone (s : State) (page : Nat) : State :=
  let i := groupIndex page
  if s.vote.scrubs.contains i.toNat then
    let s := s.scrubFields (fun f => votePage f.pos f.idx == page)
    ({ s with vote := { s.vote with scrubs := s.vote.scrubs.filter (· != i.toNat) } }).selfTestEnds .registerGroup i true true 0
  else s

/-! ## Reset, start-up, images (R33 to R60) -/

def execPorstNRelease (s : State) : Result := .next s.porstRelease
def execPorstNAssert (s : State) : Result := .next s.porstAssert
def execGhostLightStable (s : State) : Result := .next s.ghostStable
def execWarmNAssert (s : State) : Result := .next s.warmPin
def execWarmNRelease (s : State) : Result := .next s.warmRelease
def execLoadingSelfTestDone (pass : Bool) (found : SelfTestFound) (s : State) : Result :=
  .next (s.selfTestDone pass (found.badLanes.map (fun x => (x.1.val, x.2.val))) found.copies)
def execSlotHeadersRead (readErrorA readErrorB : Bool) (s : State) : Result := .next (s.headersRead readErrorA readErrorB)
def execEarlyIdentityVerified (readError : Bool) (s : State) : Result := .next (s.earlyVerified readError)
def execImageBodyVerified (readError : Bool) (s : State) : Result := .next (s.bodyVerified readError)
def execAnnounceTimer (s : State) : Result := .next s.announce
/-- A message whose length is not that of its table (R46) is no OFFER or CHUNK, and the device acts on nothing in it (assumption log
entry 21). -/
def execOffer (station : BitVec 64) (header sigblock : List Byte) (s : State) : Result :=
  .next (if (Instr.offer station header sigblock).wf then s.offerIn station header sigblock else s)
def execChunk (station : BitVec 64) (offset : BitVec 32) (data : List Byte) (s : State) : Result :=
  .next (if (Instr.chunk station offset data).wf then s.chunkIn station offset.toNat data else s)
def execEndMessage (x : EndMessage) (s : State) : Result := .next (s.endIn x.station x.readError)
/-- A session that has had no CHUNK for 10 s is closed (R47). -/
def State.sessionIdle (s : State) : State :=
  match s.dev.session with
  | some x => if x.movedAt + 10000000000 ≤ s.elapsed then s.endSession else s
  | none => s
def execStagingSessionIdle (s : State) : Result := .next s.sessionIdle

/-! ## Amendments (R54 to R60) -/

def execAmendment (origin : Origin) (message : List Byte) (s : State) : Result := .next (s.amendment origin message)
def execRegwrite (origin : Origin) (addr mask value : BitVec 32) (s : State) : Result :=
  .next (s.oneRecord origin ⟨1, toLE 4 addr.toNat ++ toLE 4 mask.toNat ++ toLE 4 value.toNat⟩)
def execRegwrite64 (origin : Origin) (addr : BitVec 32) (mask value : BitVec 64) (s : State) : Result :=
  .next (s.oneRecord origin ⟨7, toLE 8 addr.toNat ++ toLE 8 mask.toNat ++ toLE 8 value.toNat⟩)
def execSectionRecord (origin : Origin) (type version : BitVec 16) (body : List Byte) (s : State) : Result :=
  .next (s.oneRecord origin ⟨2, toLE 2 type.toNat ++ toLE 2 version.toNat ++ body⟩)
def execRestartRecord (origin : Origin) (s : State) : Result := .next (s.oneRecord origin ⟨3, []⟩)
def execSleepRecord (origin : Origin) (s : State) : Result := .next (s.oneRecord origin ⟨4, []⟩)
def execStageImage (origin : Origin) (header sigblock : List Byte) (s : State) : Result :=
  .next (s.oneRecord origin ⟨5, header ++ sigblock⟩)
def execQuery (origin : Origin) (addrs : List (BitVec 32)) (s : State) : Result :=
  .next (s.oneRecord origin ⟨6, addrs.flatMap (fun a => toLE 4 a.toNat)⟩)

/-! ## The control map (R62 to R83) -/

def execRegisterWrite (r : Requester) (addr : BitVec 32) (size : AccSize) (value : BitVec 64) (s : State) : Result :=
  .next (s.mapWrite r addr.toNat size value)
def execSlowWritePerformed (b : SlowBlock) (s : State) : Result := .next (s.performSlow b)
def execSlowReadTimeout (r : Requester) (addr : BitVec 32) (wide : Bool) (s : State) : Result := .next (s.slowReadFails r addr.toNat wide)
def execHalfLatchRead (r : Requester) (addr : BitVec 32) (s : State) : Result := .next (s.readOut r addr.toNat .b4)
def execCounterReadClear (r : Requester) (addr : BitVec 32) (wide : Bool) (arriving : BitVec 32) (s : State) : Result :=
  .next (s.counterRead r addr.toNat wide arriving.toNat)
/-- A position that is no voted field has no copies, and nothing of it disagrees (R80). -/
def execVoteOneDisagree (f : FieldPos) (i : Nat) (copy : Upset) (written : Bool) (s : State) : Result :=
  .next (if (Instr.voteOneDisagree f i copy written).wf then s.voteOne f i copy.copy copy.word written else s)
def execGroupScrubDone (page : BitVec 20) (s : State) : Result := .next (s.scrubDone page.toNat)
def execBackgroundScrub (s : State) : Result := .next (s.scrubFields (fun _ => true))
def execVoteThreeDisagree (f : FieldPos) (x : TwoUpsets) (s : State) : Result :=
  .next (if (Instr.voteThreeDisagree f x).wf then s.voteThree f x.element x.first x.second else s)

end Sys2Proof.Machine
end

