-- ==== Sys2Proof/Machine/CmdControl.lean ====
section
/-! DEFINITION. Meanings of the commands of lead and understudy (R410 to R432) and of Barod stacking (R433 to R447). -/

namespace Sys2Proof.Machine

/-! ## Heartbeats (R418, R419) -/

/-- A RUNNING unit that is fed sends a heartbeat on both paths. -/
def State.heartbeatOut (s : State) (u : Nat) : State :=
  if s.running u && (s.unit u).fed && s.pairExists (u / 2) then s.emit (.heartbeat u) else s

/-- KICK_LIMIT_US passes without a kick; vault units are fed by their boot ROM. -/
def State.kickLimit (s : State) (u : Nat) : State :=
  if s.running u && !(u == 2 || u == 3) && decide ((s.unit u).kickDue ≤ s.elapsed) then s.setUnit u { s.unit u with fed := false } else s

/-- A bounded gap reaches its limit (R421); the gap goes on until a claim, its limit taken. -/
def State.gapLimit (s : State) (n : Nat) : State :=
  match s.gap n with
  | .open true since =>
    if s.elapsed < since + 40 * s.fld Fld.RDN_CFG_GAP_CYCLES 0 then s else (s.pairCurtain n).setGap n (.open false since)
  | _ => s

/-- The lead CPC unit advances its request producer (R429). -/
def State.vaultPost (s : State) (u : Fin 2) (prod : BitVec 16) : State :=
  s.fieldsWrite (.cpc u 0) .RDN_LOCAL_VRING u.val [(Fld.RDN_LOCAL_VRING_REQ_PROD, prod.toNat)]

/-- The word of RDN_CLAIM. -/
def claimWord (expect : BitVec 16) (kind : Nat) : BitVec 32 := BitVec.ofNat 32 (expect.toNat + 65536 * kind)

def execHeartbeatSend (u : Fin 20) (s : State) : Result := .next (s.heartbeatOut u.val)
def execHeartbeatReceived (u : Fin 20) (path : HbPath) (s : State) : Result := .next (s.heartbeatIn u.val path)
def execPathSilent (u : Fin 20) (path : HbPath) (s : State) : Result := .next (s.pathSilent u.val path).settleAll
def execKick (r : Requester) (s : State) : Result := .next (s.write32 r .RDN_KICK 0 1)
def execKickLimitExpiry (u : Fin 20) (s : State) : Result := .next (s.kickLimit u.val)
def execTakeover (r : Requester) (expect : BitVec 16) (s : State) : Result := .next (s.write32 r .RDN_CLAIM 0 (claimWord expect 0))
def execRehearsal (r : Requester) (expect : BitVec 16) (s : State) : Result := .next (s.write32 r .RDN_CLAIM 0 (claimWord expect 1))
def execTie (r : Requester) (expect : BitVec 16) (s : State) : Result := .next (s.write32 r .RDN_CLAIM 0 (claimWord expect 2))
def execGapLimit (pair : Fin 10) (s : State) : Result := .next (s.gapLimit pair.val).settleAll
def execFenceVerdict (u : Fin 20) (lasting : Bool) (s : State) : Result := .next (s.fenceEnds u.val lasting).settleAll
def execProbe (r : Requester) (s : State) : Result := .next (s.write32 r .RDN_PROBE 0 1)
def execRehearsalTimer (s : State) : Result := .next s.rehearsalDue
def execYield (r : Requester) (s : State) : Result := .next (s.fieldsWrite r .RDN_REHEARSAL 0 [(Fld.RDN_REHEARSAL_YIELD, 1)])
def execYieldTimeout (s : State) : Result := .next s.yieldLate
def execRehearsalDone (r : Requester) (s : State) : Result := .next (s.fieldsWrite r .RDN_REHEARSAL 0 [(Fld.RDN_REHEARSAL_DONE, 1)])
def execRehearsalFailed (s : State) : Result := .next (s.rehearsalFails.applyHeld).settleAll
def execCpcFrameTransmit (s : State) : Result := .next s.cpcTransmit
def execCpcFrameReceive (f : Nat) (s : State) : Result := .next (s.cpcReceive f)
def execVaultRequestPost (unit : Fin 2) (prod : BitVec 16) (s : State) : Result := .next (s.vaultPost unit prod)

/-! ## Barod stacking -/

/-- A frame of a type for the lead CPC goes into its ring (R435). -/
def State.ringFrame (s : State) (p type : Nat) (f : List Byte) : State :=
  s.barodIn p type f (fun s m _ => s.stackRing (s.barodOctets m f))

/-- A SCENE into the ring, and applied where a lead CPC acts (R444). -/
def State.sceneFrame (s : State) (p : Nat) (f : List Byte) : State :=
  s.barodIn p 5 f (fun s m b =>
    let s := s.stackRing (s.barodOctets m f)
    if s.leadActs then s.sceneIn m b else s)

/-- The word a CBWORD carries is written into the slot of its sender, stamped class 5 (R405). -/
def State.cbwordIn (s : State) (p : Nat) (f : List Byte) : State :=
  s.barodIn p 7 f (fun s m b => s.slotPut (8224 + 2 * m) (0x5000 + m) (BitVec.ofNat 32 (leAt b 0 4)))

/-- A write of STK_TX_CMD with a TYPE. -/
def State.stackTx (s : State) (r : Requester) (type : Nat) (value : BitVec 64) : State := s.write64 r .STK_TX_CMD 0 (withField value 56 4 type)

def execBarodHelloTimer (p : Fin 256) (s : State) : Result := .next (s.sendHello p.val)
def execBarodHello (p : Fin 256) (frame : List Byte) (s : State) : Result :=
  .next (s.barodIn p.val 1 frame (fun s m b => s.helloIn p.val m b))
def execKeepaliveTimer (p : Fin 256) (s : State) : Result := .next (s.sendKeepalive p.val)
def execKeepalive (p : Fin 256) (frame : List Byte) (s : State) : Result :=
  .next (s.barodIn p.val 2 frame (fun s m b => s.keepaliveIn p.val m b))
def execLinkSilent (p : Fin 256) (s : State) : Result := .next (s.stackSilent p.val)
def execClaimWaitExpiry (s : State) : Result := .next s.stackClaim
def execBarodClaim (p : Fin 256) (frame : List Byte) (s : State) : Result :=
  .next (s.barodIn p.val 3 frame (fun s m b => s.claimIn p.val m b))
def execClaimReply (p : Fin 256) (frame : List Byte) (s : State) : Result :=
  .next (s.barodIn p.val 4 frame (fun s m b => s.claimReplyIn m b))
def execClaimReplyLimit (s : State) : Result := .next s.claimLimit
def execBarodScene (p : Fin 256) (frame : List Byte) (s : State) : Result := .next (s.sceneFrame p.val frame)
def execSceneAck (p : Fin 256) (frame : List Byte) (s : State) : Result := .next (s.ringFrame p.val 6 frame)
def execCbword (p : Fin 256) (frame : List Byte) (s : State) : Result := .next (s.cbwordIn p.val frame)
def execReport (p : Fin 256) (frame : List Byte) (s : State) : Result := .next (s.ringFrame p.val 8 frame)
def execSendScene (r : Requester) (value : BitVec 64) (s : State) : Result := .next (s.stackTx r 5 value)
def execSendSceneAck (r : Requester) (value : BitVec 64) (s : State) : Result := .next (s.stackTx r 6 value)
def execSendReport (r : Requester) (value : BitVec 64) (s : State) : Result := .next (s.stackTx r 8 value)
def execSceneArmDeadline (s : State) : Result := .next s.sceneDeadline
def execTimeOffsetCurtain (s : State) : Result := .next s.timeCurtain.settleAll

end Sys2Proof.Machine
end

