-- ==== Sys2Proof/Machine/CmdHost.lean ====
section
/-! DEFINITION. Meanings of the commands of the host ports (R289 to R314), tenant slices (R315 to R332), queues (R333 to R357) and the
bulk mover (R358 to R373). -/

namespace Sys2Proof.Machine

/-! ## Host ports -/

/-- A configuration request reaches a function and is not turned away (R52, R308). -/
def State.configured (s : State) (l fn : Nat) : Bool := (s.hostLink l).up && !s.rrs l fn

/-- PF1 loses its mastering by one of its causes (R307); the bit clear already, nothing changes. -/
def State.masterCleared (s : State) (l : Nat) (c : MasterStop) : State :=
  let f := s.func l 1
  let holds := match c with
    | .busMaster => f.bme
    | .pasid => f.pasid
    | .d3hot => !f.d3
  if s.configured l 1 && holds then (s.masterClear l c).settleAll else s

/-- A Function Level Reset completes. -/
def State.flrDone (s : State) (l fn : Nat) : State :=
  if (s.func l fn).flr then s.setFunc l fn { s.func l fn with flr := false } else s

/-- Where a host memory address decodes (R295, R296, R300): an offset of PF0 BAR0, PF1 BAR0 or PF1 BAR2. -/
inductive Decoded where
  | pf0 (off : Nat)
  | pf1 (off : Nat)
  | peer (off : Nat)
  | none
  deriving DecidableEq, Repr

/-- A function takes memory requests. -/
def Func.decodes (f : Func) : Bool := f.mse && !f.d3 && !f.flr
/-- An address lies within a window of 2^n bytes. -/
def inBar (base : BitVec 64) (n a : Nat) : Bool := base.toNat ≤ a && a < base.toNat + 2 ^ n

def State.decodeHost (s : State) (l a : Nat) : Decoded :=
  let v := s.hostLink l
  if v.pf0.decodes && inBar v.pf0.bar0 26 a then .pf0 (a - v.pf0.bar0.toNat)
  else if v.pf1.decodes && inBar v.pf1.bar0 v.bar0Log2 a then .pf1 (a - v.pf1.bar0.toNat)
  else if v.pf1.decodes && inBar v.pf1.bar2 v.bar2Log2 a then .peer (a - v.pf1.bar2.toNat)
  else .none

/-- The access size of n bytes; any other length is as a narrow access, which R66 does not perform. -/
def sizeOfLen (n : Nat) : AccSize := if n = 4 then .b4 else if n = 8 then .b8 else .b1


/-- An Unsupported Request: counted, reported, and a non-posted one completed (R300). -/
def State.hostUnsupported (s : State) (l : Nat) (t : HostTlp) : State :=
  let s := (s.bump .HEP_UR_SENT l).aer l 0 7
  if t.write then s else s.complete l 1 []

/-- A read answered with a value of its length. -/
def answerRead (l : Nat) (t : HostTlp) (x : Word × State) : State :=
  x.2.complete l 0 (toLE t.len.toNat x.1.toNat)

/-- PF0 BAR0 (R85, R86). -/
def State.pf0Tlp (s : State) (l off : Nat) (t : HostTlp) : State :=
  if t.write then s.pf0Write (l / 4) (l % 4) off (sizeOfLen t.data.length) (BitVec.ofNat 64 (leNat t.data))
  else answerRead l t (s.pf0Read (l / 4) (l % 4) off (sizeOfLen t.len.toNat))

/-- Page 0 of PF1 BAR0: the MSI-X table and its Pending Bit Array (R296). -/
def State.pageZero (s : State) (l off : Nat) (t : HostTlp) : State :=
  let n := if t.write then t.data.length else t.len.toNat
  let here := off < 0x8100 && off % n == 0 && (n == 4 || n == 8)
  if t.write then
    if !here then s
    else
      let v := leNat t.data
      let s := s.tableWrite l 1 off 0x8000 (v % 2 ^ 32)
      if n = 8 then s.tableWrite l 1 (off + 4) 0x8000 (v / 2 ^ 32) else s
  else s.complete l 0 (toLE n (if here then s.tableRead l 1 off 0x8000 (n / 4) else 0))

/-- The slice that holds a page of a link. -/
def State.sliceAt (s : State) (l page : Nat) : Option Nat := (s.slicesOn l).find? (fun n => s.fld Fld.SLC_SLICE_BIND_PAGE n == page)

/-- In STAGE, PF1 reads all ones under a host curtain, and takes no write (R53, R466). -/
def State.pf1Hidden (s : State) (l : Nat) : Bool := s.dev.state == .STAGE && s.hostCurtained (l / 4)

def State.pf1Tlp (s : State) (l off : Nat) (t : HostTlp) : State :=
  if s.pf1Hidden l then (if t.write then s else s.complete l 0 (List.replicate t.len.toNat 0xFF))
  else if off < 65536 then s.pageZero l off t
  else match s.sliceAt l (off / 65536) with
    | some n =>
      if t.write then s.sliceWrite n (off % 65536) (sizeOfLen t.data.length) (BitVec.ofNat 64 (leNat t.data))
      else answerRead l t (s.sliceRead n (off % 65536) (sizeOfLen t.len.toNat))
    | none => if t.write then s else s.complete l 0 (List.replicate t.len.toNat 0)


/-- The peer window (R298): performed within the link's share, and unsupported beyond it. -/
def State.peerTlp (s : State) (l off : Nat) (t : HostTlp) : State :=
  let base := 1048576 * s.fld Fld.SLC_PEER_SHARE_BASE_MIB l
  let size := 1048576 * s.fld Fld.SLC_PEER_SHARE_SIZE_MIB l
  let n := if t.write then t.data.length else t.len.toNat
  if s.pf1Hidden l then (if t.write then s else s.complete l 0 (List.replicate n 0xFF))
  else if s.dev.state != .STAGE then (if t.write then s else s.completePieces l (peerPieces off (List.replicate n 0)))
  else if size < off + n then s.hostUnsupported l t
  else s.peerAccess l off (base + off) t

/-- The request comes outside a Secure stream (R310). -/
def State.outsideIde (s : State) (l : Nat) (t : HostTlp) : Bool :=
  match t.stream with
  | none => true
  | some i => !s.streamSecure (l / 4) (l % 4) i.val

/-- A memory request is taken from a link's receive buffer (R300). Where REQUIRED is 1, one that comes outside a Secure stream is
unsupported (R310), whether or not TX_STREAM is Secure (DEDUCED, assumption log entry 41). -/
def State.hostTlp (s : State) (l : Nat) (t : HostTlp) : State :=
  if !(s.hostLink l).up || !s.dev.earlyUp then s
  else if t.stream.isSome && !t.ideOk then s.streamFails l ((t.stream.map (·.val)).getD 0)
  else if t.write && t.poisoned then (s.bump .HEP_POISONED_RX l).aer l 0 4
  else if s.flagAt Fld.HEP_IDE_CTRL_REQUIRED l && s.outsideIde l t then s.hostUnsupported l t
  else match s.decodeHost l t.addr.toNat with
    | .pf0 off => s.pf0Tlp l off t
    | .pf1 off => s.pf1Tlp l off t
    | .peer off => s.peerTlp l off t
    | .none => s.hostUnsupported l t

def execPerstAssert (h : Fin 16) (s : State) : Result := .next (s.perstAssert h.val).settleAll
def execPerstRelease (h : Fin 16) (s : State) : Result := .next (s.perstRelease h.val)
def execLinkTrained (l : Fin 64) (flit : Bool) (speed : Fin 8) (width : Fin 17) (s : State) : Result :=
  .next (s.linkTrained l.val flit speed.val width.val)
def execLinkDown (l : Fin 64) (s : State) : Result :=
  .next (if (s.hostLink l.val).up then (s.hostLinkDown l.val).settleAll else s)
def execMaxSpeedWrite (r : Requester) (l : Fin 64) (speed : BitVec 3) (s : State) : Result :=
  .next (s.fieldsWrite r .HEP_LINK_CTRL l.val [(Fld.HEP_LINK_CTRL_MAX_SPEED, speed.toNat)])
def execRetrain (r : Requester) (l : Fin 64) (s : State) : Result :=
  .next (s.fieldsWrite r .HEP_LINK_CTRL l.val [(Fld.HEP_LINK_CTRL_RETRAIN, 1)])
def execHostTlpReceived (l : Fin 64) (t : HostTlp) (s : State) : Result := .next (s.hostTlp l.val t).settleAll
def execConfigRequest (l : Fin 64) (fn : Fin 2) (reg : BitVec 10) (write : Option (BitVec 32 × BitVec 4)) (s : State) : Result :=
  .next (s.configRequest l.val fn.val reg.toNat write).settleAll
def execBusMasterClear (l : Fin 64) (c : MasterStop) (s : State) : Result := .next (s.masterCleared l.val c)
def execFunctionLevelReset (l : Fin 64) (fn : Fin 2) (s : State) : Result :=
  .next (if s.configured l.val fn.val then (s.functionReset l.val fn.val).settleAll else s)
def execFlrComplete (l : Fin 64) (fn : Fin 2) (s : State) : Result := .next (s.flrDone l.val fn.val)
def execBarResize (l : Fin 64) (bar2 : Bool) (log2 : BitVec 6) (s : State) : Result :=
  .next (if s.configured l.val 1 then s.barResize l.val bar2 log2.toNat else s)
def execCompletionReceived (l : Fin 64) (tag : BitVec 14) (c : CplPiece) (s : State) : Result :=
  .next (s.completion l.val tag.toNat c).settleAll
def execCompletionTimeout (l : Fin 64) (tag : BitVec 14) (s : State) : Result := .next (s.completionTimeout l.val tag.toNat).settleAll
def execTagQuarantineEnd (h : Fin 16) (tag : BitVec 14) (s : State) : Result := .next (s.quarantineEnd h.val tag.toNat)

/-! ## Slices -/

/-- The word of SLC_CMD (R318). -/
def sliceCmd (op : Nat) (n : BitVec 12) : BitVec 32 := BitVec.ofNat 32 (op + 256 * n.toNat)

/-- The lead CPC takes a hello word of a slice and answers it, FORMAT first (R328); of other words it says UNSUPPORTED (R407). -/
def State.sliceHello (s : State) (n : Nat) : State :=
  let v := s.cbSlot (2 * n)
  if n = 0 || !s.cpcRuns || s.leadCpc.isNone || !slotFull v then s
  else
    let w := fieldOf v 0 32
    let s := s.slotTaken (2 * n)
    if w % 256 = 1 then
      let a := s.helloAnswer n w
      (s.setFld Fld.SLC_SLICE_STATE_FORMAT n a.1).slotPut (2 * n + 1) s.leadStamp (BitVec.ofNat 32 a.2)
    else s.slotPut (2 * n + 1) s.leadStamp (helloReply (s.fld Fld.SYS_PROTOCOLS_MGMT_MAX 0) Code.UNSUPPORTED)

def execCreateSlice (r : Requester) (n : BitVec 12) (s : State) : Result := .next (s.write32 r .SLC_CMD 0 (sliceCmd 1 n))
def execStopSlice (r : Requester) (n : BitVec 12) (s : State) : Result := .next (s.write32 r .SLC_CMD 0 (sliceCmd 2 n)).settleAll
def execStartSlice (r : Requester) (n : BitVec 12) (s : State) : Result := .next (s.write32 r .SLC_CMD 0 (sliceCmd 3 n))
def execRemoveSlice (r : Requester) (n : BitVec 12) (s : State) : Result := .next (s.write32 r .SLC_CMD 0 (sliceCmd 4 n)).settleAll
def execAutoRestart (n : BitVec 12) (s : State) : Result := .next (s.autoRestart n.toNat)
def execGrantWrite (r : Requester) (n : BitVec 12) (g : GrantReg) (value : BitVec 64) (s : State) : Result :=
  .next (match g with
    | .queues => s.write64 r .SLC_GRANT_Q n.toNat value
    | .resources => s.write64 r .SLC_GRANT_R n.toNat value
    | .weight => s.write32 r .SLC_WEIGHT n.toNat (value.truncate 32))
def execPeerShareWrite (r : Requester) (l : Fin 64) (value : BitVec 64) (s : State) : Result := .next (s.write64 r .SLC_PEER_SHARE l.val value)
def execSliceHello (n : BitVec 12) (s : State) : Result := .next (s.sliceHello n.toNat)

/-! ## Queues -/

/-- A doorbell as the slice's page takes it: a 32-bit write of one operation (R337). -/
def State.doorbellOp (s : State) (n : BitVec 12) (op : Nat) (queue : BitVec 6) (index : BitVec 16) : State :=
  s.sliceWrite n.toNat 0 .b4 (BitVec.ofNat 64 (index.toNat + 2 ^ 16 * queue.toNat + 2 ^ 22 * op))

/-- An event of a queue pair of some slice. -/
def State.onQueue (s : State) (g : Nat) (act : State → Nat → State) : State :=
  match s.sliceOfQueue g with
  | some (n, _) => act s n
  | none => s

/-- IRQ_US passes since the first completion not yet signalled (R350). -/
def State.irqTimer (s : State) (g n : Nat) : State :=
  let q := s.queue g
  if q.irqUs != 0 && q.unsignalled != 0 && q.since + 1000 * q.irqUs ≤ s.elapsed then s.queueIrq g n else s

/-- The stall timer of the overflow reaches its limit (R351): the timer runs while the overflow holds entries, and a limit written later
applies at once. The index latched is a free value. -/
def State.cqStall (s : State) (g n : Nat) : State :=
  let q := s.queue g
  if q.overflow.isEmpty || q.state == .ERROR || q.state == .DISABLED ||
     s.elapsed < q.stall + 1000000 * s.fld Fld.QRG_STALL_LIMITS_CQ_STALL_MS 0 then s
  else (s.drew.bump .QRG_CQ_STALL 0).queueError g n Code.OVERRUN (s.free.toNat % 65536) 2

/-- What the queue engine may take at the head of a queue now (R326, R347): a malformed entry, a frame or a command. -/
def State.takeWork (s : State) (g n : Nat) : HeadWork :=
  match s.headWork g n with
  | .frame es => if s.conforming .sliceSend n && es.length ≤ s.takeable g then .frame es else .none
  | .storage i e =>
    if (sqeOp e != 1 || s.conforming .sliceSend n) && 1 ≤ s.takeable g && !s.stHolds n e then .storage i e else .none
  | w => w

/-- The queue of a slice served next: ascending round robin after the one served last (R347). -/
def State.nextQueue (s : State) (n : Nat) : Option Nat :=
  let base := s.fld Fld.SLC_GRANT_Q_QUEUE_BASE n
  let last := SMap.get (fun _ => 0) s.qrg.lastQueue n
  let qs := (s.sliceQueues n).filter (fun g => s.takeWork g n != .none)
  match qs.find? (fun g => last ≤ g - base) with
  | some g => some g
  | none => qs.head?

/-- Slices of a host port with work to take, in order. -/
def State.workSlices (s : State) (h : Nat) : List Nat :=
  (List.range 4096).filter (fun n => 0 < n && s.sliceLink n / 4 == h && s.sliceRuns n && (s.nextQueue n).isSome)

/-- Entries of a slice in one round (R326). -/
def State.turnOf (s : State) (n : Nat) : Nat := ceilDiv (s.fld Fld.SLC_WEIGHT_WEIGHT n) 256

/-- The round of a port: the turns left of the present one, or a new one. -/
def State.roundOf (s : State) (h : Nat) : List (Nat × Nat) :=
  let work := s.workSlices h
  let left := (SMap.get (fun _ => []) s.qrg.rounds h).filter (fun x => work.contains x.1)
  if left.isEmpty then work.map (fun n => (n, s.turnOf n)) else left

/-- The queue engine of a port takes one frame or one storage entry, or finds an entry malformed (R326, R346, R347). -/
def State.entryTake (s : State) (h : Nat) : State :=
  match s.roundOf h with
  | [] => s
  | (n, turns) :: rest =>
    match s.nextQueue n with
    | none => s
    | some g =>
      let served := fun (s : State) (k : Nat) =>
        let round := if turns ≤ k then rest else (n, turns - k) :: rest
        { s with qrg := { s.qrg with rounds := SMap.set (fun _ => []) h round s.qrg.rounds,
                                     lastQueue := SMap.set (fun _ => 0) n (g - s.fld Fld.SLC_GRANT_Q_QUEUE_BASE n + 1) s.qrg.lastQueue } }
      match s.takeWork g n with
      | .bad i => s.queueMalformed g n i
      | .frame es => (served s es.length).takeFrame g n es
      | .storage _ e => ((served s 1).takeStorage g n e).settleAll
      | .none => s

def execPostDoorbell (n : BitVec 12) (queue : BitVec 6) (index : BitVec 16) (s : State) : Result := .next (s.doorbellOp n 0 queue index)
def execReleaseDoorbell (n : BitVec 12) (queue : BitVec 6) (index : BitVec 16) (s : State) : Result := .next (s.doorbellOp n 1 queue index)
def execInvalidateDoorbell (n : BitVec 12) (queue : BitVec 6) (index : BitVec 16) (s : State) : Result :=
  .next (s.doorbellOp n 2 queue index)
def execQueueEnable (r : Requester) (g : BitVec 16) (value : BitVec 32) (s : State) : Result :=
  .next (s.write32 r .QRG_Q_CTRL g.toNat (value ||| 1))
def execQueueDisable (r : Requester) (g : BitVec 16) (value : BitVec 32) (s : State) : Result :=
  .next (s.write32 r .QRG_Q_CTRL g.toNat (value &&& 0xFFFFFFFE))
def execEntryFetched (g : BitVec 16) (s : State) : Result := .next (s.onQueue g.toNat (fun s n => s.entryFetched g.toNat n))
def execEntryTake (h : Fin 16) (s : State) : Result := .next (s.entryTake h.val)
def execCompletionWrite (g : BitVec 16) (s : State) : Result := .next (s.onQueue g.toNat (fun s n => s.completionWrite g.toNat n))
def execIrqTimer (g : BitVec 16) (s : State) : Result := .next (s.onQueue g.toNat (fun s n => s.irqTimer g.toNat n))
def execCqStallLimit (g : BitVec 16) (s : State) : Result := .next (s.onQueue g.toNat (fun s n => s.cqStall g.toNat n))
def execRxDelivery (l : Fin 64) (s : State) : Result := .next (s.rxDeliver l.val)
def execRxStallLimit (l : Fin 64) (s : State) : Result := .next (s.rxLimit l.val)

/-! ## Bulk mover -/

/-- A line is raised by its source, or by a write of BMV_REQ_RAISE (R366). -/
def State.lineRaised (s : State) (r : Option Requester) (line : BitVec 8) : State :=
  match r with
  | some r => s.write32 r .BMV_REQ_RAISE 0 (line.setWidth 32)
  | none => if s.mapAnswers then s.raiseLine line.toNat else s

def execChannelEnable (r : Requester) (c : BitVec 12) (s : State) : Result :=
  .next (s.fieldsWrite r .BMV_CH_CTRL c.toNat [(Fld.BMV_CH_CTRL_ENABLE, 1)])
def execChannelDisable (r : Requester) (c : BitVec 12) (s : State) : Result :=
  .next (s.fieldsWrite r .BMV_CH_CTRL c.toNat [(Fld.BMV_CH_CTRL_ENABLE, 0)])
def execAbort (r : Requester) (c : BitVec 12) (s : State) : Result :=
  .next (s.fieldsWrite r .BMV_CH_CTRL c.toNat [(Fld.BMV_CH_CTRL_ABORT, 1)])
def execAppend (r : Requester) (c : BitVec 12) (s : State) : Result :=
  .next (s.fieldsWrite r .BMV_CH_CTRL c.toNat [(Fld.BMV_CH_CTRL_APPEND, 1)])
def execDescriptorFetched (c : BitVec 12) (s : State) : Result := .next (s.descFetched c.toNat)
def execReadEngineTurn (h : Fin 16) (tags : List (BitVec 14)) (s : State) : Result := .next (s.readTurn h.val (tags.map (·.toNat)))
def execDescriptorDone (c : BitVec 12) (s : State) : Result := .next (s.descDone c.toNat)
def execRequestLineRaise (r : Option Requester) (line : BitVec 8) (s : State) : Result := .next (s.lineRaised r line)
def execPacedBurst (c : BitVec 12) (s : State) : Result := .next (s.pacedBurst c.toNat)
def execStageSharesWrite (r : Requester) (h : Fin 16) (value : BitVec 64) (s : State) : Result :=
  .next (s.write64 r .BMV_PORT_STAGE h.val value)

end Sys2Proof.Machine
end

