-- ==== Sys2Proof/Machine/CmdOffload.lean ====
section
/-! DEFINITION. Meanings of the commands of the tunnel engine (R209 to R223), the storage engine (R224 to R233) and the cipher
cluster (R234 to R257). -/

namespace Sys2Proof.Machine

/-! ## Tunnel engine -/

/-- The unit at the head of tunnel port p is taken under the context its action record names (R209, R213); act handles a context
of one of the types. -/
def State.tunnelUnit (s : State) (p : Nat) (types : List Nat) (act : State → Copy → Frame → Nat → Nat → State) : State :=
  match s.arrivedAt (320 + p) with
  | none => s
  | some (k, x) =>
    match s.pickContext x (p / 2) with
    | .inr counter => ((s.takeArrived k).bump counter 0).settleAll
    | .inl c => if types.contains (tType (s.tun c)) then (act s k x c (320 + p)).settleAll else s

/-- An outbound ESP unit is processed only whole, and one with a bad tail is dropped (R214). -/
def State.espUnit (s : State) (k : Copy) (x : Frame) (c port : Nat) : State :=
  if x.bad then (s.takeArrived k).dropUnit else (s.takeArrived k).espOut x c port

/-- The decryption of the oldest finished inbound unit of a die ends (R219 step 4). -/
def State.inboundEnds (s : State) (die : Nat) : State :=
  match s.inboundResult die with
  | none => s
  | some (j, r) =>
    (({ s with cph := { s.cph with results := s.cph.results.filter (fun y => y != r) } }).espInDone j r).settleAll

/-- The word of OFL_OBJ_CMD for one command. -/
def objCmd (op : Nat) (type : BitVec 2) (index : BitVec 16) (keepState : Bool) : BitVec 32 :=
  BitVec.ofNat 32 (op + 4 * type.toNat + 16 * keepState.toNat + 256 * index.toNat)

def execEncapUnit (p : Fin 4) (s : State) : Result :=
  .next (s.tunnelUnit p.val [1, 3] State.encapUnit)
def execDecapUnit (p : Fin 4) (s : State) : Result :=
  .next (s.tunnelUnit p.val [2, 4] State.decapUnit)
def execEspOutbound (p : Fin 4) (s : State) : Result := .next (s.tunnelUnit p.val [5, 7] State.espUnit)
def execEspInbound (p : Fin 4) (s : State) : Result := .next (s.tunnelUnit p.val [6, 8] State.espIn)
def execEspInboundResult (die : Fin 2) (s : State) : Result := .next (s.inboundEnds die.val)
def execObjectRead (r : Requester) (type : BitVec 2) (index : BitVec 16) (s : State) : Result :=
  .next (s.write32 r .OFL_OBJ_CMD 0 (objCmd 0 type index false))
def execObjectWrite (r : Requester) (type : BitVec 2) (index : BitVec 16) (keepState : Bool) (s : State) : Result :=
  .next (s.write32 r .OFL_OBJ_CMD 0 (objCmd 1 type index keepState))
def execRoll (r : Requester) (type : BitVec 2) (index : BitVec 16) (s : State) : Result :=
  .next (s.write32 r .OFL_OBJ_CMD 0 (objCmd 2 type index false))
def execOflEventPop (r : Requester) (s : State) : Result := .next (s.write32 r .OFL_EVENT_POP 0 1)

/-! ## Storage engine -/

/-- A transport frame at storage port 332 + d (R209, R224, R228): discarded where R209 says so or its tail is bad, and otherwise
read as frame f of connection conn. -/
def State.storageFrame (s : State) (d conn : Nat) (f : StorageFrame) : State :=
  match s.arrivedAt (332 + d) with
  | none => s
  | some (k, x) =>
    let c := x.engineCtx
    if 8191 < c then (s.takeArrived k).bump .OFL_BAD_TARGET 0
    else if c / 4096 ≠ d then (s.takeArrived k).bump .OFL_WRONG_DIE 0
    else if s.fld Fld.OFL_CTRL_MAX_PASSES 0 < x.reentries + 1 then (s.takeArrived k).bump .OFL_PASS_LIMIT 0
    else if c ≠ conn then s
    else if x.bad then s.takeArrived k
    else ((s.takeArrived k).stEvent d conn f).settleAll

/-- TIMEOUT_MS of a connection in ns. -/
def State.answerTime (s : State) (conn : Nat) : Nat := 1000000 * leAt (s.conn conn) 12 4

/-- No response within TIMEOUT_MS of the capsule of a command or a Keep Alive; one that is in has won (R229). -/
def State.storageTimeout (s : State) (t : StorageTimer) : State :=
  match t with
  | .command id =>
    match s.cmd? id with
    | some c =>
      if c.phase == .sent && c.answer.isNone && decide (c.sentAt + s.answerTime c.conn ≤ s.elapsed) then (s.connFail c.conn 2).settleAll else s
    | none => s
  | .keepAlive conn =>
    let r := s.connRun conn.toNat
    if r.alive && decide (r.keptAt + s.answerTime conn.toNat ≤ s.elapsed) then (s.connFail conn.toNat 2).settleAll else s

/-- KEEP_ALIVE_MS of a READY connection passed (R229). -/
def State.keepAlive (s : State) (conn : Nat) : State :=
  let ms := leAt (s.conn conn) 80 2
  if connReady (s.conn conn) && ms != 0 && decide ((s.connRun conn).keptAt + 1000000 * ms ≤ s.elapsed) then
    let t := s.stFrame (conn / 4096) conn 4 0 0 []
    t.setConnRun conn { t.connRun conn with alive := true, keptAt := s.elapsed }
  else s

/-- A transport timer of a connection with unacknowledged segments expires (R232). -/
def State.retransmit (s : State) (conn : Nat) : State :=
  if (s.connRun conn).unacked.isEmpty then s else (s.stResend (conn / 4096) conn none).settleAll

def execStorageTransportFrame (d : Fin 2) (conn : BitVec 13) (f : StorageFrame) (s : State) : Result :=
  .next (s.storageFrame d.val conn.toNat f)
def execStorageCommandTimeout (t : StorageTimer) (s : State) : Result := .next (s.storageTimeout t)
def execKeepAliveTimer (conn : BitVec 13) (s : State) : Result := .next (s.keepAlive conn.toNat)
def execTransportRetransmitTimer (conn : BitVec 13) (s : State) : Result := .next (s.retransmit conn.toNat)

/-! ## Cipher cluster -/

/-- CAUSE of an error the spec gives none for: one of the defined values, left free (R463). -/
def State.freeCause (s : State) : BitVec 8 := BitVec.ofNat 8 (1 + s.free.toNat % 20)

/-- A contained error of no element whose record names a scope, or of an engine (R257). -/
def State.contained (s : State) (kind : ElementKind) (index : Nat) (scope : Option (ScopeKind × Nat)) : State :=
  let cause := s.freeCause
  s.drew.elementError
    { cls := .contained, kind := kind, index := BitVec.ofNat 32 index, cause := cause, scope := scope, detail := 0, hit := .nothing }

/-- What HBM gives back for a cold record unwraps (R247): the record as it was written, which read of none stands for, or other bytes whose
tag verifies under the context-wrapping key. -/
def State.unwraps (s : State) (c : Nat) (read : Option (List Byte)) : Bool :=
  match read with
  | none => true
  | some b => decide (b = SMap.get (fun _ => []) s.cph.cold c) || (gcmOpen s.vlt.wrapKey (slice b 0 12) (toLE 4 c) (b.drop 12)).isSome

/-- HBM pairs that hold the wrapped key contexts: code 0 is taken as HB0 (R20, R268). -/
def State.coldPlace (s : State) : Nat := if s.vlt.ctxPlacement = 0 then 1 else s.vlt.ctxPlacement

/-- A cold context with a request waiting is loaded (R247), once the pairs that hold its record are awake (R21): into a free hot slot, or one
that an eviction frees; with none the load waits. A record that does not unwrap locks the context. -/
def State.contextLoad (s : State) (c : Nat) (read : Option (List Byte)) : State :=
  let k := s.keyCtx c
  if s.isHot c || k.state == .EMPTY || k.state == .LOCKED || (s.nextOf c).isNone then s
  else if !s.pairsAwake s.coldPlace then s.touchPairs s.coldPlace
  else if s.unwraps c read then
    match s.freeSlot with
    | some s => ({ s with cph := { s.cph with hot := s.cph.hot ++ [c] } }).bump .CPH_CTX_LOADS 0
    | none => s
  else s.contained .none 0 (some (.key, c))

/-- A submitted request takes its place (R236, R239). Bytes that are no request of 64 are none. -/
def State.cipherSubmitted (s : State) (q : CipherRequester) (request input : List Byte) : State :=
  if request.length = 64 then (s.submitCipher { requester := q, raw := request, input := input }).settleAll else s

def execCipherSubmit (q : CipherRequester) (request input : List Byte) (s : State) : Result := .next (s.cipherSubmitted q request input)
def execCipherDispatch (e : Fin 36) (s : State) : Result := .next (s.dispatch e.val).settleAll
def execCipherUnitDone (e : Fin 36) (s : State) : Result := .next (s.unitDone e.val).settleAll
def execContextLoad (c : Fin 262144) (read : Option (List Byte)) (s : State) : Result := .next (s.contextLoad c.val read)
def execCheckpointComplete (c : Fin 262144) (s : State) : Result := .next (s.checkpointDone c.val)
def execCipherEngineError (e : Fin 36) (s : State) : Result := .next (s.contained .cipherEngine e.val none)
def execLockContext (r : Requester) (s : State) : Result := .next (s.write32 r .CPH_CTX_CMD 0 1)
def execDropPrevious (r : Requester) (s : State) : Result := .next (s.write32 r .CPH_CTX_CMD 0 2)
def execCtxLimitWrite (r : Requester) (k : LimitKind) (value : BitVec 64) (s : State) : Result :=
  .next (s.write64 r (match k with | .uses => .CPH_CTX_LIMIT | .bytes => .CPH_CTX_BYTE_LIMIT) 0 value)

end Sys2Proof.Machine
end

