-- ==== Sys2Proof/Machine/CmdPorts.lean ====
section
/-! DEFINITION. Meanings of the commands of the network ports, the optical engines and the management segments (R88 to R117). -/

namespace Sys2Proof.Machine

/-- A time of a received PFC frame stops or releases classes, or a whole port, by the frame's own numbers. -/
def classNat (c : Option (Fin 8)) : Option Nat := c.map (·.val)

/-! ## Registers with rows of their own -/

def execEnginePlanWrite (r : Requester) (e : Fin 16) (plan : BitVec 64) (s : State) : Result :=
  .next (s.write64 r .OPT_ENGINE_PLAN e.val plan)
def execLbCellsWrite (r : Requester) (e : Fin 16) (j : Fin 16) (value : BitVec 32) (s : State) : Result :=
  .next (s.write32 r .OPT_LB_CELLS (16 * e.val + j.val) value)
def execPrtConfigWrite (r : Requester) (p : Fin 256) (value : BitVec 32) (s : State) : Result :=
  .next (s.write32 r .PRT_CONFIG p.val value)
def execPfcWmWrite (r : Requester) (p : Fin 256) (c : Fin 8) (value : BitVec 64) (s : State) : Result :=
  .next (s.write64 r .PRT_PFC_WM (8 * p.val + c.val) value)

/-! ## Laser source modules (R92 to R99) -/

def execLsmInsertion (e : Fin 16) (s : State) : Result := .next (s.lsmInsert e.val)
def execLsmVerifyDone (e : Fin 16) (v : LsmVerify) (s : State) : Result :=
  .next (s.lsmVerified e.val v)
def execLsmNoAnswer (e : Fin 16) (s : State) : Result := .next (s.lsmSilent e.val)
def execLsmRemoval (e : Fin 16) (s : State) : Result := .next (s.lsmRemove e.val)
/-- EJECT is bit 8 of OPT_LASER_CTRL, and RETRY bit 9 (R117). -/
def execEject (r : Requester) (e : Fin 16) (s : State) : Result := .next (s.directWrite r .OPT_LASER_CTRL e.val 0x100 0x100)
def execEjectComplete (e : Fin 16) (litHours : BitVec 32) (bias : BitVec 128) (temp : BitVec 16) (s : State) : Result :=
  .next (s.lsmEjected e.val litHours bias temp)
def execRetry (r : Requester) (e : Fin 16) (s : State) : Result := .next (s.directWrite r .OPT_LASER_CTRL e.val 0x200 0x200)
def execLifeRecordTimer (e : Fin 16) (litHours : BitVec 32) (bias : BitVec 128) (temp : BitVec 16) (s : State) : Result :=
  .next (s.lsmLife e.val litHours bias temp)
def execLaserChannelFault (e : Fin 16) (c : Fin 8) (s : State) : Result := .next (s.channelFails e.val c.val)
def execLsmInBandInterrupt (e : Fin 16) (alarm : BitVec 8) (s : State) : Result := .next (s.lsmAlarm e.val false alarm)
def execLsmAlarmPoll (e : Fin 16) (alarm : BitVec 8) (s : State) : Result := .next (s.lsmAlarm e.val true alarm)

/-! ## Reception, pause and link state (R100 to R106, R167, R168) -/

def execFrameArrival (p : Fin 256) (octets : List Byte) (s : State) : Result :=
  .next (if octets.isEmpty then s else s.frameArrival p.val octets)
def execXoffRefresh (p : Fin 256) (c : Fin 8) (s : State) : Result := .next (s.xoffAgain p.val c.val)
def execRxMaxFrameReached (f : Nat) (octets : List Byte) (s : State) : Result := .next (s.maxReached f octets)
def execFrameTailReceived (f : Nat) (octets : List Byte) (cause : TailCause) (s : State) : Result :=
  .next (s.tailReceived f octets cause)
def execPauseFrameReceived (p : Fin 256) (pfc : Bool) (enable : BitVec 8) (times : BitVec 128) (fcsGood : Bool) (s : State) : Result :=
  .next (s.pauseIn p.val pfc enable times fcsGood)
def execPauseTimerExpiry (p : Fin 256) (c : Option (Fin 8)) (s : State) : Result := .next (s.pauseEnds p.val (classNat c))
def execNetworkLinkUp (p : Fin 256) (s : State) : Result := .next (s.portLinkUp p.val)
def execNetworkLinkDown (p : Fin 256) (s : State) : Result := .next ((s.portDown p.val).stackSilent p.val)

/-! ## Transmit timestamps (R111) -/

def execTxTimestampPop (r : Requester) (p : Fin 256) (wide : Bool) (s : State) : Result :=
  .next (s.readRegOut r .PRT_TX_TS_TAG p.val wide)

/-! ## Management segments (R112 to R114) -/

def execMgmtFrameReceived (seg : Fin 2) (src dst : Mac) (etherType : BitVec 16) (body : List Byte) (s : State) : Result :=
  .next (s.mgmtFrame seg.val src dst etherType.toNat body)
def execMgmtReassemblyTimeout (station : BitVec 64) (seq : BitVec 32) (s : State) : Result :=
  .next (s.assemblyTimeout station seq)

end Sys2Proof.Machine
end

