-- ==== Sys2Proof/Machine/CmdPower.lean ====
section
/-! DEFINITION. Meanings of the commands of the ghost light, power domains and clocks (R448 to R456), of faults, self-test
and the curtain (R457 to R472), and of the supplies and the temperature (R477, R480). -/

namespace Sys2Proof.Machine

/-! ## Domains and clocks -/

/-- The word of PWR_CMD: a domain and an operation. -/
def powerWord32 (d op : Nat) : BitVec 32 := BitVec.ofNat 32 (d + 64 * op)

def execSleepCommand (r : Requester) (d : BitVec 6) (s : State) : Result := .next (s.write32 r .PWR_CMD 0 (powerWord32 d.toNat 1))
def execWakeCommand (r : Requester) (d : BitVec 6) (s : State) : Result := .next (s.write32 r .PWR_CMD 0 (powerWord32 d.toNat 2))
def execDomainEnableWrite (r : Requester) (d : Fin 40) (value : BitVec 32) (s : State) : Result :=
  .next (s.write32 r .PWR_DOMAIN_CTRL d.val value)
def execDrainComplete (d : Fin 40) (s : State) : Result := .next (s.drained d.val)
def execDrainTimeout (d : Fin 40) (s : State) : Result := .next (s.drainLimit d.val)
def execIdleTimerExpiry (d : Fin 40) (s : State) : Result := .next (s.idleSleep d.val)
def execWakeTrigger (d : Fin 40) (s : State) : Result := .next (s.touchDomain d.val)
/-- The domain is ON, and what waited for it is done (R77). -/
def execWakeComplete (d : Fin 40) (s : State) : Result := .next ((s.awake d.val).releaseWaiting d.val)
def execGhostClkLost (s : State) : Result := .next s.clockLost.settleAll
def execPllLock (p : Pll) (s : State) : Result := .next (s.pllLocks p)
def execPllLockLost (p : Pll) (s : State) : Result := .next (s.pllLost p).settleAll

/-! ## Errors, tests and curtains -/

/-- An error of a control unit that is not fatal: a running unit is lost to its partner, which fences it (R420 to R422).
The fence of a unit that does not lead counts the error as CONTAINED itself. -/
def State.unitError (s : State) (e : ErrorReport) : State :=
  let u := e.index.toNat
  if 20 ≤ u || (s.unit u).state == .RETIRED then (s.countError e.cls).untested e
  else
    let fences := e.cls == .contained && s.pairExists (u / 2) && s.running u && !s.isLead u
    (if fences then s else s.countError e.cls).unitFails u

/-- A detected error (R459, R461). -/
def State.errorDetected (s : State) (e : ErrorReport) : State :=
  if s.dev.state = .OFF then s
  else if e.kind == .controlUnit && e.cls != .fatal then s.unitError e
  else s.elementError e

/-- A verdict of a test under way (R462); a control unit's ends its fence (R422), a register group's is its scrub (R82),
and a source of entropy is retired with an alarm (R264). -/
def State.verdictIn (s : State) (k : ElementKind) (i : BitVec 32) (pass spareLeft : Bool) (detail : BitVec 32) : State :=
  match k with
  | .controlUnit => s.fenceEnds i.toNat (!pass)
  | .registerGroup => s.scrubDone (i.toNat / 4096)
  | .entropy =>
    let r := s.recordOf 1 2 .entropy i 9 none detail
    let tested := (s.underTest .entropy i).isSome
    let s := s.selfTestEnds k i pass spareLeft detail
    if tested && s.isRetired .entropy i then s.alarm 7 r else s
  | k => s.selfTestEnds k i pass spareLeft detail

/-- A write of the HOLD bit, or of EXIT, of the cause register of a scope (R465, R467). -/
def State.writeScope (s : State) (r : Requester) (k : ScopeKind) (i bitNumber value : Nat) : State :=
  match scopeReg k with
  | none => s
  | some reg => s.fieldsWrite r reg i [({ reg := reg, lo := bitNumber, width := 1 }, value)]

def execErrorReport (e : ErrorReport) (s : State) : Result := .next (s.errorDetected e).settleAll
def execSelfTestVerdict (kind : ElementKind) (index : BitVec 32) (pass : Bool) (spareLeft : Bool) (detail : BitVec 32) (s : State) :
    Result := .next (s.verdictIn kind index pass spareLeft detail).settleAll
/-- A scope with no register of its own (R465, R472) can be given neither HOLD nor EXIT: no register is written. -/
def execScopeHoldWrite (r : Requester) (scope : ScopeKind) (i : Nat) (hold : Bool) (s : State) : Result :=
  .next (if heldScope scope i then (s.writeScope r scope i 0 (flag hold)).settleAll else s)
def execExitScope (r : Requester) (scope : ScopeKind) (i : Nat) (s : State) : Result :=
  .next (if heldScope scope i then (s.writeScope r scope i 4 1).settleAll else s)
def execDeviceCurtainWrite (r : Requester) (s : State) : Result :=
  .next (s.fieldsWrite r .FLT_DEVICE_CTRL 0 [(Fld.FLT_DEVICE_CTRL_CURTAIN, 1)]).settleAll
def execFltRecordPop (r : Requester) (s : State) : Result := .next (s.write32 r .FLT_RECORD_POP 0 1)

/-! ## Supplies and temperature -/

/-- Rails of group 1 (R473): VDD_AON and VDD_IO18. -/
def groupOneRail (rail : Nat) : Bool := rail == 3 || rail == 11

/-- The internal assertion of WARM_N (R477). -/
def State.assertInternal (s : State) : State := { s with pins := { s.pins with internalWarm := true } }.warmAssert

/-- A rail has been out of range for 10 µs. -/
def State.railOut (s : State) (rail : Nat) : State :=
  if s.dev.state = .OFF ∨ s.dev.state = .GHOST then s
  else if groupOneRail rail then s.powerOff
  else
    let v := s.fld Fld.GLT_SUPPLY_STATUS_IN_RANGE 0
    let t := s.fld Fld.GLT_SUPPLY_STATUS_TRIPPED 0
    ((s.setFld Fld.GLT_SUPPLY_STATUS_IN_RANGE 0 (setBits v rail 1 0)).setFld Fld.GLT_SUPPLY_STATUS_TRIPPED 0
      (setBits t rail 1 1)).assertInternal

/-- A reading of the junction sensors, in every state but OFF (R480). -/
def State.heatReading (s : State) (sensor : Nat) (reading : BitVec 8) : State :=
  if s.dev.state = .OFF then s
  else
    let s := s.senseHeat sensor reading
    if s.dev.state = .GHOST ∨ signed 8 reading.toNat < 115 then s
    else (s.setFld Fld.GLT_THERMAL_TRIPPED 0 1).assertInternal

def execSupplyTrip (rail : Fin 12) (s : State) : Result := .next (s.railOut rail.val)
def execThermalTrip (sensor : Fin 24) (reading : BitVec 8) (s : State) : Result := .next (s.heatReading sensor.val reading)

end Sys2Proof.Machine
end

