-- ==== Sys2Proof/Machine/CmdSwitch.lean ====
section
/-! DEFINITION. Meanings of the commands of the switch core, the traffic manager and time (R119, R164 to R208). -/

namespace Sys2Proof.Machine

/-! ## Switch core (R119, R164 to R181) -/

def execPipelineEntry (f : Nat) (octets : List Byte) (flowOverRate : Bool) (s : State) : Result :=
  .next (s.pipelineEntry f octets flowOverRate)
def execLookupResult (f : Nat) (s : State) : Result := .next (s.lookupResult f)
def execMemberRepin (g : Fin 4352) (i : Fin 32) (s : State) : Result := .next (s.memberRepin g.val i.val)
def execSpillReturn (p : Fin 336) (c : Fin 8) (s : State) : Result := .next (s.spillReturn p.val c.val)

/-! ## Traffic manager (R187 to R201) -/

def execEgressSelect (p : Fin 336) (s : State) : Result := .next (s.egressSelect p.val)
def execEgressComplete (p : Fin 336) (s : State) : Result := .next (s.egressComplete p.val)
def execShaperWrite (r : Requester) (k : ShaperKind) (i : Nat) (value : BitVec 64) (s : State) : Result :=
  .next (if (Instr.shaperWrite r k i value).wf then s.write64 r (shaperReg k) i value else s)
def execPolicerWrite (r : Requester) (i : Fin 16384) (size : Bool) (value : BitVec 64) (s : State) : Result :=
  .next (s.write64 r (if size then .TMS_POLICER_SIZE else .TMS_POLICER_RATE) i.val value)
def execGateChange (p : Fin 256) (s : State) : Result := .next (s.gateChange p.val)
/-- CHANGE is bit 16 of TMS_TT_ADMIN_CTRL and CANCEL bit 17, above LENGTH (R207). -/
def execTimetableChange (r : Requester) (p : Fin 256) (length : BitVec 11) (s : State) : Result :=
  .next (s.fieldsWrite r .TMS_TT_ADMIN_CTRL p.val [(Fld.TMS_TT_ADMIN_CTRL_LENGTH, length.toNat), (Fld.TMS_TT_ADMIN_CTRL_CHANGE, 1)])
def execTimetableCancel (r : Requester) (p : Fin 256) (s : State) : Result :=
  .next (s.fieldsWrite r .TMS_TT_ADMIN_CTRL p.val [(Fld.TMS_TT_ADMIN_CTRL_CANCEL, 1)])
def execTimetableChangeTime (p : Fin 256) (s : State) : Result := .next (s.ttChangeTime p.val)

/-! ## Time (R202 to R204) -/

/-- An input without an edge for 1.1 s. -/
def State.ppsUnseen (s : State) (i : Nat) : State :=
  if s.elapsed < (s.timeInput i).edgeAt + 1100000000 then s else s.setTimeInput i { s.timeInput i with seen := false }

def execTimeStep (r : Requester) (ns : BitVec 64) (s : State) : Result := .next (s.write64 r .MGT_TIME_STEP 0 ns)
def execTimeNowRead (r : Requester) (wide : Bool) (s : State) : Result := .next (s.readLowOut r .MGT_TIME_NOW 0 wide)
def execPpsEdge (i : Fin 2) (falling : Bool) (s : State) : Result := .next (if s.mapAnswers then s.ppsEdge i.val falling else s)
def execPpsSeenExpiry (i : Fin 2) (s : State) : Result := .next (s.ppsUnseen i.val)
def execPpsCaptureRead (r : Requester) (i : Fin 2) (s : State) : Result := .next (s.readRegOut r .MGT_PPS_CAPTURE i.val false)
def execTodByteReceived (i : Fin 2) (b : Byte) (s : State) : Result := .next (if s.mapAnswers then s.todByte i.val b else s)
def execTodRead (r : Requester) (i : Fin 2) (s : State) : Result := .next (s.readLowOut r .MGT_TOD_DATA i.val false)

end Sys2Proof.Machine
end

