-- ==== Sys2Proof/Machine/CmdTables.lean ====
section
/-! DEFINITION. Meanings of the commands of scenes, forwarding tables, learning and aging (R133 to R163). -/

namespace Sys2Proof.Machine

/-! ## Table commands (R158 to R160, R387) -/

/-- Operands of a command, over those its register access left staged. -/
def State.withOperands (s : State) (o : Option TableOperands) : State :=
  match o with
  | some o => s.stageOperands o
  | none => s

/-- A thread's operation in flight names the command's table and scene. -/
def State.threadNames (s : State) (t : Nat) (c : TableCmd) : Bool :=
  match s.opOf t 1 with
  | some o => leAt o.staged 1 1 == c.table.toNat && bit (leAt o.staged 2 1) 0 == c.sceneSel
  | none => false

/-- A table command: staged and written to TBL_CMD, or committed by a thread on its channel 1. -/
def State.tableRow (s : State) (op : Nat) (c : TableCmd) : State :=
  match c.issuer with
  | .controlMap r =>
    s.gatedWrite r .TBL_CMD 0 (fun s =>
      let s := s.withOperands c.operands
      s.tableAccept op c.table.toNat c.sceneSel s.stagedOperands)
  | .channel n k t => if s.threadNames (threadOf n k t) c then s.threadTable (threadOf n k t) op else s

/-- TBL_RESULT and TBL_ATTR of an entry. -/
def resultWord (e : Option Entry) : Nat :=
  match e with
  | some e => withFields 0 [(0, 16, e.born.toNat), (16, 16, e.died.toNat), (32, 16, e.stamp.toNat), (48, 1, flag e.diedValid),
                            (49, 1, flag e.settled), (50, 1, 1)]
  | none => 0
def attrWord (e : Option Entry) : Nat :=
  match e with
  | some e => withFields 0 [(0, 24, e.action.toNat), (24, 1, flag e.pinned), (32, 15, e.ageLimit.toNat)]
  | none => 0

/-- 32-bit words of a record put into TBL_ENTRY. -/
def State.loadEntryWords (s : State) (b : List Byte) : State :=
  (List.range (b.length / 4)).foldl (fun s i => s.setFld Fld.TBL_ENTRY_BYTES i (leAt b (4 * i) 4)) s

/-- A command of the interface is done: its status and what it loads (R158, R159). -/
def State.publishTable (s : State) (r : TableResult) : State :=
  let v := withFields (s.reg .TBL_STATUS 0).toNat
    [(8, 8, r.status.toNat), (16, 1, flag r.hit), (17, 1, flag r.replaced), (18, 1, flag r.evicted), (24, 7, r.relocations), (32, 28, r.index)]
  let s := s.setReg .TBL_STATUS 0 (BitVec.ofNat 64 v)
  let s := if r.loads then s.setReg .TBL_RESULT 0 (BitVec.ofNat 64 (resultWord r.entry)) else s
  let s := if r.loads && (r.entry.isSome || r.record.isSome) then s.setReg .TBL_ATTR 0 (BitVec.ofNat 64 (attrWord r.entry)) else s
  match r.record with
  | some b => s.loadEntryWords b
  | none => s

/-- The oldest command performed is done. -/
def State.tableDone (s : State) : State :=
  match s.tbl.finished with
  | [] => s
  | x :: rest =>
    let s := { s with tbl := { s.tbl with finished := rest } }
    match x.1 with
    | none => s.publishTable x.2
    | some t => s.threadTableDone t x.2

/-! ## Sweeps (R143, R152, R153) -/

/-- Slots of the exact-match pool. -/
def poolSlots : Nat := 8388608

/-- The sweep passes a pool slot. -/
def State.sweep (s : State) (slot : Nat) : State :=
  if poolSlots ≤ slot then s
  else match s.entry slot with
    | none => s
    | some e =>
      if e.diedValid && s.notAfterLive e.died then (s.setEntry slot none).bump .TBL_RELEASED 0
      else if s.notAfterLive e.born then s.setEntry slot (some { e with settled := true })
      else s

/-- The milestone counter advances (R152), 2^PERIOD_LOG2 ms after it last did. -/
def State.milestone (s : State) : State :=
  if s.mapAnswers && decide (s.tbl.nowAt + 1000000 * 2 ^ s.fld Fld.TBL_AGE_CTRL_PERIOD_LOG2 0 ≤ s.elapsed) then
    { s with tbl := { s.tbl with now := s.tbl.now + 1, nowAt := s.elapsed } }
  else s

/-- An entry is aged at a milestone (R152). -/
def Entry.aged (e : Entry) (now : BitVec 16) : Bool :=
  e.ageLimit != 0 && !e.pinned && decide (e.ageLimit.toNat < (now - e.stamp).toNat)

/-- The ager reads a slot of a table: of an aged entry it asks the removal, by table, slot, key and the STAMP read (R153). -/
def State.agerScan (s : State) (t slot : Nat) : State :=
  if t = 64 || 4 * 2 ^ s.log2 t ≤ slot then s
  else
    let k := s.slotOf t 0 0 + slot
    match s.entry k with
    | some e => if e.aged s.tbl.now then { s with tbl := { s.tbl with removes := s.tbl.removes ++ [(t, k, e.key, e.stamp)] } } else s
    | none => s

/-- Where an aged entry lies now: its slot, or the slot of its key's buckets that a relocation moved it to (R149). -/
def State.agedSlot (s : State) (t k : Nat) (key : List Byte) (stamp : BitVec 16) : Option Nat :=
  (k :: s.keySlots t key).find? (fun j => match s.entry j with
    | some e => e.key == key && e.stamp == stamp && e.aged s.tbl.now
    | none => false)

/-- The update engine takes the ager's next removal: of an entry whose STAMP has not changed. -/
def State.agerRemove (s : State) : State :=
  match s.tbl.removes with
  | [] => s
  | (t, k, key, stamp) :: rest =>
    let s := { s with tbl := { s.tbl with removes := rest } }
    match s.agedSlot t k key stamp with
    | some j => (s.setEntry j none).bump .TBL_AGED 0
    | none => s

/-! ## Learning (R154, R155) -/

/-- Core cycles in 1 ms (R27). -/
def cyclesPerMs : Nat := 1600000

def learnDefault : Nat → List Nat := fun _ => []
/-- The port's inserts and moves in the last 1 ms. -/
def State.learnRecent (s : State) (p : Nat) : List Nat :=
  (SMap.get learnDefault s.tbl.learnTimes p).filter (fun c => decide (s.clk.core < c + cyclesPerMs))

/-- The port may learn one more: RATE 0 means no limit. -/
def State.learnAllows (s : State) (p : Nat) : Bool :=
  s.fld Fld.TBL_LEARN_PORT_RATE p == 0 || decide ((s.learnRecent p).length < s.fld Fld.TBL_LEARN_PORT_RATE p)

def State.learnCounted (s : State) (p : Nat) : State :=
  { s with tbl := { s.tbl with learnTimes := SMap.set learnDefault p (s.learnRecent p ++ [s.clk.core]) s.tbl.learnTimes } }

/-- A presentation of a key from a port: insert, refresh, move, or nothing. -/
def State.learn (s : State) (key : List Byte) (p : Nat) : State :=
  match s.findEntry 65 key (fun _ => true) with
  | some (k, e) =>
    if e.action.toNat = p then s.setEntry k (some { e with stamp := s.tbl.now })
    else if e.pinned || !s.flagAt Fld.TBL_LEARN_PORT_MOVE_EN p then s
    else if !s.learnAllows p then s.bump .TBL_LEARN_LIMITED 0
    else ((s.setEntry k (some { e with action := BitVec.ofNat 24 p, stamp := s.tbl.now })).learnCounted p).bump .TBL_MOVES 0
  | none =>
    if !s.learnAllows p then s.bump .TBL_LEARN_LIMITED 0
    else
      let age := BitVec.ofNat 15 (s.fld Fld.TBL_TABLE_CFG_AGE_DEFAULT 65)
      let r := s.place 65 (newEntry s key (BitVec.ofNat 24 p) false age 0 false)
      match r.1.slot with
      | some _ => (r.2.learnCounted p).bump .TBL_LEARNED 0
      | none => r.2.bump .TBL_LEARN_FULL 0

/-- The oldest presentation of a pipeline. A disabled learning table learns nothing. -/
def State.learnNext (s : State) (pipe : Nat) : State :=
  match s.swc.learnQueue.find? (fun q => q.1 == pipe) with
  | none => s
  | some q =>
    let s := { s with swc := { s.swc with learnQueue := s.swc.learnQueue.erase q } }
    if s.tableOn 65 then s.learn q.2.1 q.2.2 else s

/-! ## The flow cache (R157) -/

/-- Bucket pairs the cache holds at most: 4,194,304 entries of eight to a pair. -/
def cachePairs : Nat := 524288

/-- A full cache gives up one pair; which one is free (assumption log entry 4). -/
def State.makeRoom (s : State) : State :=
  let n := s.tbl.cached.length
  if n < cachePairs then s
  else { s with tbl := { s.tbl with cached := s.tbl.cached.eraseIdx (s.free.toNat % n) } }.drew

/-- A fill returns, once the pair of stacks that holds the table is awake (R21). -/
def State.cacheFill (s : State) (a b : Nat) : State :=
  let pair := (min a b, max a b)
  if !s.pairsAwake s.tbl.placement.flow then s.touchPairs s.tbl.placement.flow
  else if s.tbl.fills.contains pair then
    let s := s.makeRoom
    { s with tbl := { s.tbl with fills := s.tbl.fills.filter (· != pair), cached := SMap.set (fun _ => false) (pairKey a b) true s.tbl.cached } }
  else s

/-! ## Scenes (R134 to R138) -/

/-- The armed scene activates, and with it a FULL scene of the stack (R444). -/
def State.sceneActs (s : State) : State :=
  let t := s.sceneActivate
  if s.armedSlot.isSome && t.armedSlot.isNone then t.sceneActivated else t

def execSceneCommit (r : Requester) (scene : BitVec 16) (timed : Bool) (s : State) : Result :=
  .next (s.write32 r .CLS_SCENE_COMMIT 0 (BitVec.ofNat 32 (scene.toNat + 2 ^ 16 * flag timed)))
def execSceneCancel (r : Requester) (s : State) : Result := .next (s.directWrite r .CLS_SCENE_COMMIT 0 0x20000 0x20000)
def execSceneActivation (s : State) : Result := .next s.sceneActs
def execSceneDrained (slot : Fin 4) (s : State) : Result := .next (s.sceneDrained slot.val)
def execSceneForced (slot : Fin 4) (s : State) : Result := .next (s.sceneForced slot.val)

/-! ## Tables -/

def execInsert (c : TableCmd) (s : State) : Result := .next (s.tableRow 1 c)
def execDelete (c : TableCmd) (s : State) : Result := .next (s.tableRow 2 c)
def execLookup (c : TableCmd) (s : State) : Result := .next (s.tableRow 3 c)
def execReadIndex (c : TableCmd) (s : State) : Result := .next (s.tableRow 4 c)
def execWriteIndex (c : TableCmd) (s : State) : Result := .next (s.tableRow 5 c)
def execRefresh (c : TableCmd) (s : State) : Result := .next (s.tableRow 6 c)
def execFlushScene (c : TableCmd) (s : State) : Result := .next (s.tableRow 7 c)
def execTableCommandDone (s : State) : Result := .next s.tableDone
def execTblEvictedPop (r : Requester) (value : BitVec 32) (s : State) : Result := .next (s.write32 r .TBL_EVICTED_POP 0 value)
def execTableCfgWrite (r : Requester) (w : TableCfgWrite) (s : State) : Result :=
  match w with
  | .cfg t v => .next (s.write64 r .TBL_TABLE_CFG t.val v)
  | .seedA t v => .next (s.write32 r .TBL_SEED_A t.val v)
  | .seedB t v => .next (s.write32 r .TBL_SEED_B t.val v)
def execSettleSweep (slot : Nat) (s : State) : Result := .next (s.sweep slot)
def execMilestoneTick (s : State) : Result := .next s.milestone
def execAgerScan (table : Fin 67) (slot : Nat) (s : State) : Result := .next (s.agerScan table.val slot)
def execAgerRemove (s : State) : Result := .next s.agerRemove
def execLearnPresentation (pipeline : Fin 22) (s : State) : Result := .next (s.learnNext pipeline.val)
def execFlowCacheFill (a b : Nat) (s : State) : Result := .next (s.cacheFill a b)

end Sys2Proof.Machine
end

