-- ==== Sys2Proof/Machine/Riscv.lean ====
section
/-! DEFINITION. The instructions of the Troupe threads (R375 to R385, R391): RV64IMAC with Zicsr and Zifencei in machine mode, and the
stage extension. The base instruction set's own encodings and results are those of the RISC-V standard, which R375 names
(PRESUMED, assumption log entry 42). -/

namespace Sys2Proof.Machine

/-! ## Instruction formats -/

def rType (op f3 f7 rd rs1 rs2 : Nat) : Nat := op + rd * 2 ^ 7 + f3 * 2 ^ 12 + rs1 * 2 ^ 15 + rs2 * 2 ^ 20 + f7 * 2 ^ 25
def iType (op f3 rd rs1 imm : Nat) : Nat := op + rd * 2 ^ 7 + f3 * 2 ^ 12 + rs1 * 2 ^ 15 + imm % 4096 * 2 ^ 20
def sType (f3 rs1 rs2 imm : Nat) : Nat :=
  0x23 + imm % 32 * 2 ^ 7 + f3 * 2 ^ 12 + rs1 * 2 ^ 15 + rs2 * 2 ^ 20 + imm / 32 % 128 * 2 ^ 25
def brType (f3 rs1 rs2 imm : Nat) : Nat :=
  0x63 + bits imm 11 1 * 2 ^ 7 + bits imm 1 4 * 2 ^ 8 + f3 * 2 ^ 12 + rs1 * 2 ^ 15 + rs2 * 2 ^ 20 + bits imm 5 6 * 2 ^ 25 + bits imm 12 1 * 2 ^ 31
def jType (rd imm : Nat) : Nat :=
  0x6F + rd * 2 ^ 7 + bits imm 12 8 * 2 ^ 12 + bits imm 11 1 * 2 ^ 20 + bits imm 1 10 * 2 ^ 21 + bits imm 20 1 * 2 ^ 31
def uType (op rd imm : Nat) : Nat := op + rd * 2 ^ 7 + imm % 2 ^ 20 * 2 ^ 12

/-- A number of w bits, sign-extended to n bits. -/
def extend (w n v : Nat) : Nat := if bit v (w - 1) then v % 2 ^ w + (2 ^ n - 2 ^ w) else v % 2 ^ w

/-! ## Compressed instructions -/

/-- The 6-bit immediate of the CI format, sign-extended to 12 bits. -/
def ciImm (c : Nat) : Nat := extend 6 12 (bits c 2 5 + bits c 12 1 * 32)
def cjImm (c : Nat) : Nat :=
  extend 12 21 (bits c 3 3 * 2 + bits c 11 1 * 16 + bits c 2 1 * 32 + bits c 7 1 * 64 + bits c 6 1 * 128 + bits c 9 2 * 256 + bits c 8 1 * 1024 +
    bits c 12 1 * 2048)
def cbImm (c : Nat) : Nat :=
  extend 9 13 (bits c 3 2 * 2 + bits c 10 2 * 8 + bits c 2 1 * 32 + bits c 5 2 * 64 + bits c 12 1 * 256)
/-- Offsets of word and doubleword loads and stores. -/
def cwImm (c : Nat) : Nat := bits c 6 1 * 4 + bits c 10 3 * 8 + bits c 5 1 * 64
def cdImm (c : Nat) : Nat := bits c 10 3 * 8 + bits c 5 2 * 64

def expand0 (c : Nat) : Option Nat :=
  let rd := 8 + bits c 2 3
  let rs := 8 + bits c 7 3
  let wide := bits c 11 2 * 16 + bits c 7 4 * 64 + bits c 6 1 * 4 + bits c 5 1 * 8
  match c / 2 ^ 13 % 8 with
  | 0 => if wide = 0 then none else some (iType 0x13 0 rd 2 wide)
  | 2 => some (iType 0x03 2 rd rs (cwImm c))
  | 3 => some (iType 0x03 3 rd rs (cdImm c))
  | 6 => some (sType 2 rs rd (cwImm c))
  | 7 => some (sType 3 rs rd (cdImm c))
  | _ => none

def expandAlu (c : Nat) : Option Nat :=
  let rd := 8 + bits c 7 3
  let rs := 8 + bits c 2 3
  let sh := bits c 2 5 + bits c 12 1 * 32
  match bits c 10 2 with
  | 0 => some (iType 0x13 5 rd rd sh)
  | 1 => some (iType 0x13 5 rd rd (sh + 0x400))
  | 2 => some (iType 0x13 7 rd rd (ciImm c))
  | _ =>
    match bits c 12 1, bits c 5 2 with
    | 0, 0 => some (rType 0x33 0 0x20 rd rd rs)
    | 0, 1 => some (rType 0x33 4 0 rd rd rs)
    | 0, 2 => some (rType 0x33 6 0 rd rd rs)
    | 0, _ => some (rType 0x33 7 0 rd rd rs)
    | _, 0 => some (rType 0x3B 0 0x20 rd rd rs)
    | _, 1 => some (rType 0x3B 0 0 rd rd rs)
    | _, _ => none

def expand1 (c : Nat) : Option Nat :=
  let rd := bits c 7 5
  let rs := 8 + bits c 7 3
  match c / 2 ^ 13 % 8 with
  | 0 => some (iType 0x13 0 rd rd (ciImm c))
  | 1 => if rd = 0 then none else some (iType 0x1B 0 rd rd (ciImm c))
  | 2 => some (iType 0x13 0 rd 0 (ciImm c))
  | 3 =>
    if bits c 2 5 + bits c 12 1 * 32 = 0 then none
    else if rd = 2 then
      some (iType 0x13 0 2 2 (extend 10 12 (bits c 6 1 * 16 + bits c 2 1 * 32 + bits c 5 1 * 64 + bits c 3 2 * 128 + bits c 12 1 * 512)))
    else some (uType 0x37 rd (extend 6 20 (bits c 2 5 + bits c 12 1 * 32)))
  | 4 => expandAlu c
  | 5 => some (jType 0 (cjImm c))
  | 6 => some (brType 0 rs 0 (cbImm c))
  | _ => some (brType 1 rs 0 (cbImm c))

def expand2 (c : Nat) : Option Nat :=
  let rd := bits c 7 5
  let rs := bits c 2 5
  match c / 2 ^ 13 % 8 with
  | 0 => some (iType 0x13 1 rd rd (bits c 2 5 + bits c 12 1 * 32))
  | 2 => if rd = 0 then none else some (iType 0x03 2 rd 2 (bits c 4 3 * 4 + bits c 12 1 * 32 + bits c 2 2 * 64))
  | 3 => if rd = 0 then none else some (iType 0x03 3 rd 2 (bits c 5 2 * 8 + bits c 12 1 * 32 + bits c 2 3 * 64))
  | 4 =>
    if bits c 12 1 = 0 then
      (if rs != 0 then some (rType 0x33 0 0 rd 0 rs) else if rd = 0 then none else some (iType 0x67 0 0 rd 0))
    else if rs != 0 then some (rType 0x33 0 0 rd rd rs)
    else if rd = 0 then some 0x00100073
    else some (iType 0x67 0 1 rd 0)
  | 6 => some (sType 2 2 rs (bits c 9 4 * 4 + bits c 7 2 * 64))
  | 7 => some (sType 3 2 rs (bits c 10 3 * 8 + bits c 7 3 * 64))
  | _ => none

/-- The 32-bit instruction a 16-bit one stands for; none where it is illegal. -/
def expandC (c : Nat) : Option Nat :=
  match c % 4 with
  | 0 => expand0 c
  | 1 => expand1 c
  | 2 => expand2 c
  | _ => none

/-! ## Memory (R376) -/

/-- Byte of the instruction memory of a cluster's cores: the image, zero beyond it. -/
def State.imemRead (s : State) (a n : Nat) : List Byte :=
  (List.range n).map (fun i => if a + i < imemLen s.trp.body then s.trp.body.getD (64 + a + i) 0 else 0)

/-- A number that names a place, for reservations. -/
def Place.key : Place → Nat
  | .dmem k o => 262144 * k + o
  | .shared c o => 2 ^ 40 + 16777216 * c + o
  | .window c o => 2 ^ 50 + 2 ^ 40 * c + o

/-- The result of an access: a value and the state after it, or the cause of its fault. -/
abbrev Access_ := Nat ⊕ (Nat × State)

/-- A load of n bytes. -/
def State.load (s : State) (t a n : Nat) : Access_ :=
  if a % n != 0 then .inl 4
  else if a < 0x80000000 then
    if n = 4 ∨ n = 8 then
      let x := s.mapRead (requesterOf t) a (if n = 8 then .b8 else .b4)
      .inr (x.1.toNat, x.2)
    else .inl 5
  else if a + n ≤ 0x80020000 then .inr (leNat (s.imemRead (a - 0x80000000) n), s)
  else match s.placeOf t a n with
    | some p => .inr (leNat (s.readPlace p n), s)
    | none => .inl 5

/-- A store into a place ends the reservations of other threads on it. -/
def State.breakResv (s : State) (t k n : Nat) : State :=
  { s with trp := { s.trp with threads := s.trp.threads.map (fun x =>
      match x.2.resv with
      | some r => if x.1 != t && r < k + n && k < r + 8 then (x.1, { x.2 with resv := none }) else x
      | none => x) } }

def State.storePlace (s : State) (t : Nat) (p : Place) (bs : List Byte) : State := (s.writePlace p bs).breakResv t p.key bs.length

/-- A store of n bytes. -/
def State.storeAt (s : State) (t a n v : Nat) : Access_ :=
  if a % n != 0 then .inl 6
  else if a < 0x80000000 then
    if n = 4 ∨ n = 8 then .inr (0, s.mapWrite (requesterOf t) a (if n = 8 then .b8 else .b4) (BitVec.ofNat 64 v)) else .inl 7
  else match s.placeOf t a n with
    | some p => .inr (0, s.storePlace t p (toLE n v))
    | none => .inl 7

/-- A place that takes LR, SC and AMO. -/
def State.atomicPlace (s : State) (t a n : Nat) : Option Place :=
  match s.placeOf t a n with
  | some (.window _ _) => none
  | p => p

/-! ## Arithmetic -/

/-- The low half of a word, sign-extended. -/
def sext32 (w : Word) : Word := (BitVec.ofNat 32 w.toNat).signExtend 64

/-- OP and OP-IMM by funct3; alt is SUB or SRA. -/
def aluOp (f3 : Nat) (alt : Bool) (a b : Word) : Word :=
  match f3 with
  | 0 => if alt then a - b else a + b
  | 1 => a <<< (b.toNat % 64)
  | 2 => if a.slt b then 1 else 0
  | 3 => if a.ult b then 1 else 0
  | 4 => a ^^^ b
  | 5 => if alt then a.sshiftRight (b.toNat % 64) else a >>> (b.toNat % 64)
  | 6 => a ||| b
  | _ => a &&& b

/-- OP-32 and OP-IMM-32. -/
def aluOp32 (f3 : Nat) (alt : Bool) (a b : Word) : Option Word :=
  let x : BitVec 32 := BitVec.ofNat 32 a.toNat
  let y : BitVec 32 := BitVec.ofNat 32 b.toNat
  match f3 with
  | 0 => some ((if alt then x - y else x + y).signExtend 64)
  | 1 => some ((x <<< (y.toNat % 32)).signExtend 64)
  | 5 => some ((if alt then x.sshiftRight (y.toNat % 32) else x >>> (y.toNat % 32)).signExtend 64)
  | _ => none

/-- Multiplication and division at width w. -/
def mulOp {w : Nat} (f3 : Nat) (a b : BitVec w) : BitVec w :=
  match f3 with
  | 0 => a * b
  | 1 => BitVec.ofInt w (a.toInt * b.toInt / 2 ^ w)
  | 2 => BitVec.ofInt w (a.toInt * (b.toNat : Int) / 2 ^ w)
  | 3 => BitVec.ofNat w (a.toNat * b.toNat / 2 ^ w)
  | 4 => if b = 0 then BitVec.ofInt w (-1) else a.sdiv b
  | 5 => if b = 0 then BitVec.ofInt w (-1) else a.udiv b
  | 6 => if b = 0 then a else a.srem b
  | _ => if b = 0 then a else a.umod b

/-- A branch is taken. -/
def branchTaken (f3 : Nat) (a b : Word) : Option Bool :=
  match f3 with
  | 0 => some (a == b)
  | 1 => some (a != b)
  | 4 => some (a.slt b)
  | 5 => some (!a.slt b)
  | 6 => some (a.ult b)
  | 7 => some (!a.ult b)
  | _ => none

/-- An AMO's new value at width w, by its funct5. -/
def amoOp {w : Nat} (f5 : Nat) (old x : BitVec w) : Option (BitVec w) :=
  match f5 with
  | 0x00 => some (old + x)
  | 0x01 => some x
  | 0x04 => some (old ^^^ x)
  | 0x08 => some (old ||| x)
  | 0x0C => some (old &&& x)
  | 0x10 => some (if old.slt x then old else x)
  | 0x14 => some (if old.slt x then x else old)
  | 0x18 => some (if old.ult x then old else x)
  | 0x1C => some (if old.ult x then x else old)
  | _ => none

/-! ## CSRs (R375, R382) -/

/-- mstatus: MIE, MPIE, and MPP, which is always machine mode. -/
def Thread.mstatus (v : Thread) : Nat := 8 * flag v.mie + 128 * flag v.mpie + 0x1800

/-- A CSR as a read shows it; none where the thread has no such CSR. -/
def State.csrRead (s : State) (t c : Nat) : Option Word :=
  let v := s.thread t
  match c with
  | 0x300 => some (BitVec.ofNat 64 v.mstatus)
  | 0x301 => some (BitVec.ofNat 64 (2 ^ 63 + 0x1105))
  | 0x304 => some (BitVec.ofNat 64 (2048 * flag v.meie))
  | 0x305 => some v.mtvec
  | 0x340 => some v.mscratch
  | 0x341 => some v.mepc
  | 0x342 => some v.mcause
  | 0x343 => some v.mtval
  | 0x344 => some (BitVec.ofNat 64 (2048 * flag ((v.evpend &&& v.enabled t) != 0)))
  | 0x7C0 => some (v.evpend.zeroExtend 64)
  | 0x7C1 => some (v.evie.zeroExtend 64)
  | 0x7C2 => some (v.chres.zeroExtend 64)
  | 0x7C3 => some 0
  | 0xB00 => some (BitVec.ofNat 64 ((s.clk.core - (s.core (t / 16)).since) * 5 / 4))
  | 0xB02 => some v.minstret
  | 0xF11 => some (Config.coreId 0xF11)
  | 0xF12 => some (Config.coreId 0xF12)
  | 0xF13 => some (Config.coreId 0xF13)
  | 0xF14 => some (BitVec.ofNat 64 t)
  | 0xF15 => some 0
  | c => if c = 0x320 ∨ between 0xB03 0xB1F c ∨ between 0x323 0x33F c then some 0 else none

/-- EVPEND under a write: CSRRW and CSRRC clear any bit, and only bits 16 to 31 are set by one. op is 1 for CSRRW, 2 for CSRRS. -/
def evpendWrite (op : Nat) (old new : BitVec 32) : BitVec 32 :=
  if op = 3 then new else (new &&& 0xFFFF0000#32) ||| (if op = 2 then old &&& 0xFFFF#32 else old &&& new &&& 0xFFFF#32)

/-- A CSR written with a value; op says by which instruction. -/
def State.csrWrite (s : State) (t c op : Nat) (w : Word) : State :=
  let v := s.thread t
  let set := fun (v : Thread) => s.setThread t v
  match c with
  | 0x300 => set { v with mie := w.getLsbD 3, mpie := w.getLsbD 7 }
  | 0x304 => set { v with meie := w.getLsbD 11 }
  | 0x305 => set { v with mtvec := w &&& ~~~ 2#64 }
  | 0x340 => set { v with mscratch := w }
  | 0x341 => set { v with mepc := w &&& ~~~ 1#64 }
  | 0x342 => set { v with mcause := w }
  | 0x343 => set { v with mtval := w }
  | 0x7C0 => set { v with evpend := evpendWrite op v.evpend (BitVec.ofNat 32 w.toNat) }
  | 0x7C1 => set { v with evie := BitVec.ofNat 32 w.toNat }
  | 0x7C2 =>
    if w.toNat % 128 = 0 ∧ 0x80100000 ≤ w.toNat ∧ w.toNat < 0x80140000 then set { v with chres := BitVec.ofNat 32 w.toNat } else s
  | 0x7C3 => if t % 16 = 0 then s.stallClear (t / 16) else s
  | 0xB02 => set { v with minstret := w }
  | _ => s

/-! ## Execution -/

/-- What an instruction does: goes on at a PC, faults, or waits where it stands. -/
inductive Ran where
  | next (s : State) (pc : Word)
  | fault (cause : Nat) (tval : Word) (s : State)
  | stay (s : State)
  | hold (s : State)

/-- Register rd of thread t written. -/
def State.putX (s : State) (t rd : Nat) (w : Word) : State := s.setThread t ((s.thread t).put rd w)

def loadValue (f3 v : Nat) : Word :=
  match f3 with
  | 0 => (BitVec.ofNat 8 v).signExtend 64
  | 1 => (BitVec.ofNat 16 v).signExtend 64
  | 2 => (BitVec.ofNat 32 v).signExtend 64
  | _ => BitVec.ofNat 64 v

/-- LR, SC and the AMOs (R376). -/
def State.atomic (s : State) (t i : Nat) (pc : Word) : Ran :=
  let f5 := bits i 27 5
  let n := if bits i 12 3 = 3 then 8 else 4
  let rd := bits i 7 5
  let a := (s.thread t).get (bits i 15 5)
  let x := (s.thread t).get (bits i 20 5)
  let bad := fun (c : Nat) => Ran.fault c a s
  if !(bits i 12 3 == 2 || bits i 12 3 == 3) || (f5 == 2 && bits i 20 5 != 0) then .fault 2 (BitVec.ofNat 64 i) s
  else if a.toNat % n != 0 then bad (if f5 = 2 then 4 else 6)
  else match s.atomicPlace t a.toNat n with
    | none => bad (if f5 = 2 then 5 else 7)
    | some p =>
      let old := leNat (s.readPlace p n)
      let v := s.thread t
      if f5 = 2 then .next (s.setThread t ({ v with resv := some p.key }.put rd (loadValue (bits i 12 3) old))) pc
      else if f5 = 3 then
        if v.resv = some p.key then .next ((s.setThread t ({ v with resv := none }.put rd 0)).storePlace t p (toLE n x.toNat)) pc
        else .next (s.setThread t ({ v with resv := none }.put rd 1)) pc
      else
        let new := if n = 8 then (amoOp f5 (BitVec.ofNat 64 old) x).map (·.toNat)
                   else (amoOp f5 (BitVec.ofNat 32 old) (BitVec.ofNat 32 x.toNat)).map (·.toNat)
        match new with
        | none => .fault 2 (BitVec.ofNat 64 i) s
        | some y => .next ((s.putX t rd (loadValue (bits i 12 3) old)).storePlace t p (toLE n y)) pc

/-- CSR instructions. -/
def State.csrOp (s : State) (t i : Nat) (pc : Word) : Ran :=
  let f3 := bits i 12 3
  let c := bits i 20 12
  let rs := bits i 15 5
  let x : Word := if 4 ≤ f3 then BitVec.ofNat 64 rs else (s.thread t).get rs
  let op := f3 % 4
  let writes := op == 1 || rs != 0
  match s.csrRead t c with
  | none => .fault 2 (BitVec.ofNat 64 i) s
  | some old =>
    if writes && 0xC00 ≤ c then .fault 2 (BitVec.ofNat 64 i) s
    else
      let w := if op = 1 then x else if op = 2 then old ||| x else old &&& ~~~ x
      let s := if writes then s.csrWrite t c op w else s
      .next (s.putX t (bits i 7 5) old) pc

/-- ECALL, EBREAK, MRET and WFI. EBREAK halts the thread while the debug module is open (R390, R391). -/
def State.privileged (s : State) (t i : Nat) (pc : Word) : Ran :=
  let v := s.thread t
  match i with
  | 0x00000073 => .fault 11 0 s
  | 0x00100073 => if s.vlt.debug then .stay (s.debugHalt t) else .fault 3 v.pc s
  | 0x30200073 => .next (s.setThread t { v with mie := v.mpie, mpie := true }) v.mepc
  | 0x10500073 => .next s pc
  | _ => .fault 2 (BitVec.ofNat 64 i) s

/-! ## The stage extension (R381 to R385, R389) -/

/-- Place and width of a ticket field, by its selector (R132, R384). -/
def ticketField (n : Nat) : Option (Nat × Nat) :=
  [(0, 16), (16, 12), (28, 8), (36, 9), (45, 3), (48, 2), (50, 1), (51, 1), (52, 1), (53, 1), (64, 32), (96, 24), (120, 8)][n]? <|>
    (if n = 14 then some (0, 64) else if n = 15 then some (64, 64) else none)

/-- WAITEV: its events at once, or the thread waits. -/
def State.waitev (s : State) (t rd : Nat) (mask : BitVec 32) (limit : Nat) (pc : Word) : Ran :=
  let v := s.thread t
  let m := waitMask t mask
  let hit := v.evpend &&& m
  if hit != 0 then .next (s.setThread t ({ v with evpend := v.evpend &&& ~~~ hit }.put rd (hit.zeroExtend 64))) pc
  else .stay (s.setThread t { v with state := .WAITING, wait := some (m, rd, if limit = 0 then none else some (s.engineCycles + limit)) })

/-- The frame a FRMEMIT names: none of its bytes where the range is outside data and shared memory or the length out of range. -/
def State.emitBytes (s : State) (t a n : Nat) : List Byte :=
  if n < 14 || 10236 < n then []
  else match s.placeOf t a n with
    | some (.window _ _) => []
    | some p => s.readPlace p n
    | none => []

/-- The status word of CHSTAT. -/
def State.chStatus (s : State) (t c : Nat) : Word :=
  let v := s.thread t
  BitVec.ofNat 64 (flag (s.opOf t c).isSome + (SMap.get (fun _ => 0) v.status c).toNat * 2 ^ 8 + (SMap.get (fun _ => 0) v.ended c).toNat * 2 ^ 32)

/-- A stage instruction. -/
def State.stage_ (s : State) (t i : Nat) (pc : Word) : Ran :=
  let v := s.thread t
  let rd := bits i 7 5
  let r1 := bits i 15 5
  let r2 := bits i 20 5
  let f7 := bits i 25 7
  let a := v.get r1
  let b := v.get r2
  let illegal := Ran.fault 2 (BitVec.ofNat 64 i) s
  let f3 := bits i 12 3
  if f3 != 6 && f7 != 0 then illegal
  else match f3 with
    | 0 => s.waitev t rd (BitVec.ofNat 32 a.toNat) b.toNat pc
    | 1 =>
      if rd != 0 || 32 ≤ b.toNat then illegal
      else .next (s.setThread t { v with staging := SMap.set xDefault (8 * (b.toNat % 4) + b.toNat / 4) a v.staging }) pc
    | 2 =>
      if r2 != 0 || 3 ≤ a.toNat then illegal
      else let r := s.commit t a.toNat []; .next (r.2.putX t rd (BitVec.ofNat 64 r.1)) pc
    | 3 => if r2 != 0 || 4 ≤ a.toNat then illegal else .next (s.putX t rd (s.chStatus t a.toNat)) pc
    | 4 =>
      if r2 != 0 then illegal
      else match ticketField a.toNat with
        | some (lo, w) => .next (s.putX t rd (BitVec.ofNat 64 (bits v.ticket.toNat lo w))) pc
        | none => illegal
    | 5 =>
      if rd != 0 then illegal
      else match ticketField b.toNat with
        | some (lo, w) => .next (s.setThread t { v with ticket := BitVec.ofNat 128 (setBits v.ticket.toNat lo w a.toNat) }) pc
        | none => illegal
    | 6 =>
      if 4 ≤ f7 then illegal
      else .next (s.putX t rd (((toLE (2 ^ f7) b.toNat).foldl crcByte (BitVec.ofNat 32 a.toNat)).zeroExtend 64)) pc
    | _ => let r := s.commit t 3 (s.emitBytes t a.toNat b.toNat); .next (r.2.putX t rd (BitVec.ofNat 64 r.1)) pc

/-! ## One instruction -/

def accessed (s : State) (a : Word) (x : Access_) (f : Nat → State → Ran) : Ran :=
  match x with
  | .inl c => .fault c a s
  | .inr (v, s) => f v s

/-- What a thread's access waits for starts to wake (R21, R77): a register's domain, for a load, or the pairs that hold an HBM window. None
where nothing sleeps. -/
def State.accessHeld (s : State) (t a n : Nat) (load : Bool) : Option State :=
  if a % n != 0 then none
  else if a < 0x80000000 then
    if load && (n = 4 ∨ n = 8) then (s.readWaits (requesterOf t) a (if n = 8 then .b8 else .b4)).map s.touchDomain else none
  else match s.placeOf t a n with
    | some p => if s.pairsAwake (s.placePairs p) then none else some (s.touchPairs (s.placePairs p))
    | none => none

def State.execLoad (s : State) (t i : Nat) (pc : Word) : Ran :=
  let f3 := bits i 12 3
  let a := (s.thread t).get (bits i 15 5) + BitVec.ofInt 64 (signed 12 (bits i 20 12))
  if f3 = 7 then .fault 2 (BitVec.ofNat 64 i) s
  else match s.accessHeld t a.toNat (2 ^ (f3 % 4)) true with
  | some s => .hold s
  | none => accessed s a (s.load t a.toNat (2 ^ (f3 % 4))) (fun v s => .next (s.putX t (bits i 7 5) (loadValue f3 v)) pc)

def State.execStore (s : State) (t i : Nat) (pc : Word) : Ran :=
  let f3 := bits i 12 3
  let a := (s.thread t).get (bits i 15 5) + BitVec.ofInt 64 (signed 12 (bits i 7 5 + bits i 25 7 * 32))
  if 4 ≤ f3 then .fault 2 (BitVec.ofNat 64 i) s
  else match s.accessHeld t a.toNat (2 ^ f3) false with
  | some s => .hold s
  | none => accessed s a (s.storeAt t a.toNat (2 ^ f3) ((s.thread t).get (bits i 20 5)).toNat) (fun _ s => .next s pc)

/-- OP-IMM and OP-IMM-32: a shift's upper immediate bits are 0, or name SRA. -/
def State.execImm (s : State) (t i : Nat) (pc : Word) : Ran :=
  let f3 := bits i 12 3
  let a := (s.thread t).get (bits i 15 5)
  let imm := BitVec.ofInt 64 (signed 12 (bits i 20 12))
  let word := bits i 0 7 == 0x1B
  let hi := if word then bits i 25 7 * 2 else bits i 26 6 * 4
  let shift := f3 == 1 || f3 == 5
  let alt := f3 == 5 && hi == 0x40
  let legal := !shift || hi == 0 || alt
  let r := if word then aluOp32 f3 alt a imm else some (aluOp f3 alt a imm)
  match r with
  | some w => if legal then .next (s.putX t (bits i 7 5) w) pc else .fault 2 (BitVec.ofNat 64 i) s
  | none => .fault 2 (BitVec.ofNat 64 i) s

/-- OP and OP-32. -/
def State.execOp (s : State) (t i : Nat) (pc : Word) : Ran :=
  let f3 := bits i 12 3
  let f7 := bits i 25 7
  let a := (s.thread t).get (bits i 15 5)
  let b := (s.thread t).get (bits i 20 5)
  let word := bits i 0 7 == 0x3B
  let alt := f7 == 0x20
  let r : Option Word :=
    if f7 = 1 then
      (if word then (if f3 = 0 ∨ 4 ≤ f3 then some ((mulOp f3 (BitVec.ofNat 32 a.toNat) (BitVec.ofNat 32 b.toNat)).signExtend 64) else none)
       else some (mulOp f3 a b))
    else if f7 != 0 && !(alt && (f3 == 0 || f3 == 5)) then none
    else if word then aluOp32 f3 alt a b else some (aluOp f3 alt a b)
  match r with
  | some w => .next (s.putX t (bits i 7 5) w) pc
  | none => .fault 2 (BitVec.ofNat 64 i) s

/-- The instruction i of n bytes at the PC of thread t. -/
def State.exec32 (s : State) (t i n : Nat) : Ran :=
  let v := s.thread t
  let pc := v.pc + BitVec.ofNat 64 n
  let rd := bits i 7 5
  let illegal := Ran.fault 2 (BitVec.ofNat 64 i) s
  let upper : Word := (BitVec.ofNat 32 (i / 4096 * 4096)).signExtend 64
  match i % 128 with
  | 0x37 => .next (s.putX t rd upper) pc
  | 0x17 => .next (s.putX t rd (v.pc + upper)) pc
  | 0x6F =>
    let imm := bits i 21 10 * 2 + bits i 20 1 * 2 ^ 11 + bits i 12 8 * 2 ^ 12 + bits i 31 1 * 2 ^ 20
    .next (s.putX t rd pc) (v.pc + BitVec.ofInt 64 (signed 21 imm))
  | 0x67 =>
    if bits i 12 3 != 0 then illegal
    else .next (s.putX t rd pc) ((v.get (bits i 15 5) + BitVec.ofInt 64 (signed 12 (bits i 20 12))) &&& ~~~ 1#64)
  | 0x63 =>
    let imm := bits i 8 4 * 2 + bits i 25 6 * 32 + bits i 7 1 * 2 ^ 11 + bits i 31 1 * 2 ^ 12
    match branchTaken (bits i 12 3) (v.get (bits i 15 5)) (v.get (bits i 20 5)) with
    | some true => .next s (v.pc + BitVec.ofInt 64 (signed 13 imm))
    | some false => .next s pc
    | none => illegal
  | 0x03 => s.execLoad t i pc
  | 0x23 => s.execStore t i pc
  | 0x13 => s.execImm t i pc
  | 0x1B => s.execImm t i pc
  | 0x33 => s.execOp t i pc
  | 0x3B => s.execOp t i pc
  | 0x0F => if bits i 12 3 < 2 then .next s pc else illegal
  | 0x73 => if bits i 12 3 = 0 then s.privileged t i pc else if bits i 12 3 = 4 then illegal else s.csrOp t i pc
  | 0x2F => s.atomic t i pc
  | 0x0B => s.stage_ t i pc
  | _ => illegal

/-- The instruction at the PC of thread t, as 32 bits, with its length; or the cause of the fetch's fault. -/
def State.fetch (s : State) (t : Nat) : Nat ⊕ (Option Nat × Nat × Nat) :=
  let a := (s.thread t).pc.toNat
  if a < 0x80000000 || 0x80020000 < a + 2 then .inl 1
  else
    let c := leNat (s.imemRead (a - 0x80000000) 2)
    if c % 4 != 3 then .inr (expandC c, c, 2)
    else if 0x80020000 < a + 4 then .inl 1
    else
      let i := leNat (s.imemRead (a - 0x80000000) 4)
      .inr (some i, i, 4)

/-- The thread may issue (R377 to R379): its core runs, and its cluster is not on its way up (R456). -/
def State.canIssue (s : State) (t : Nat) : Bool :=
  (s.thread t).state == .RUNNING && s.coreRuns (t / 16) && !s.domainSleeps (30 + t / 256)

/-- An instruction's outcome carried out: the next PC and one more instruction retired; a fault by R391; as it stands; or, while its access
waits for a wake, not issued (R377). -/
def State.retire_ (t : Nat) (r : Ran) : State :=
  match r with
  | .next s pc =>
    let v := s.thread t
    (s.setThread t { v with pc := pc, minstret := v.minstret + 1 }).issued t
  | .fault c w s => (s.issued t).threadFault t c w
  | .stay s => s.issued t
  | .hold s => s

/-- Thread t issues the instruction at its PC, where it is one that want admits. An interrupt that is due is taken first (R382). -/
def State.issue (s : State) (t : Nat) (want : Nat → Bool) : State :=
  let v := s.thread t
  if !s.canIssue t then s
  else if v.interrupts t then s.setThread t v.takeInterrupt
  else match s.fetch t with
    | .inl c => s.threadFault t c v.pc
    | .inr (none, c, _) => s.threadFault t 2 (BitVec.ofNat 64 c)
    | .inr (some i, _, n) => if want i then State.retire_ t (s.exec32 t i n) else s

/-- A stage instruction of a funct3 (R383). -/
def isStage (f3 i : Nat) : Bool := i % 128 == 0x0B && bits i 12 3 == f3

/-- A CSR instruction that names STALLACK. -/
def isStallack (i : Nat) : Bool := i % 128 == 0x73 && bits i 12 3 % 4 != 0 && bits i 20 12 == 0x7C3

/-- A timed wait ends without an event: rd := 0 (R381). -/
def State.waitTimeout (s : State) (t : Nat) : State :=
  let v := s.thread t
  match v.state, v.wait with
  | .WAITING, some (_, rd, some due) =>
    if s.engineCycles < due then s
    else s.setThread t { (v.put rd 0) with wait := none, state := .RUNNING, pc := v.pc + 4, minstret := v.minstret + 1 }
  | _, _ => s

end Sys2Proof.Machine
end

