-- ==== Sys2Proof/Machine/CmdTroupe.lean ====
section
/-! DEFINITION. Meanings of the commands of the Troupe cores (R374 to R400) and of the callboard (R401 to R409). -/

namespace Sys2Proof.Machine

/-! ## Instructions of a thread (R375 to R389) -/

def anyInstruction (_ : Nat) : Bool := true

def execThreadInstruction (t : BitVec 11) (s : State) : Result := .next (s.issue t.toNat anyInstruction).settleAll
def execWaitev (t : BitVec 11) (s : State) : Result := .next (s.issue t.toNat (isStage 0)).settleAll
def execWaitevTimeout (t : BitVec 11) (s : State) : Result := .next (s.waitTimeout t.toNat)
/-- Inputs that a source sets (R380): 0 and 1 are those of thread 0, 10 to 15 are reserved. -/
def inputSet (t input : Nat) : Bool := (2 ≤ input || t % 16 == 0) && !(10 ≤ input && input < 16)
def execEventInputSet (t : BitVec 11) (input : BitVec 5) (s : State) : Result :=
  .next (if s.clusterLoaded (t.toNat / 256) && inputSet t.toNat input.toNat then s.setEvent t.toNat input.toNat else s)
def execChw (t : BitVec 11) (s : State) : Result := .next (s.issue t.toNat (isStage 1)).settleAll
def execChcommit (t : BitVec 11) (s : State) : Result := .next (s.issue t.toNat (isStage 2)).settleAll
def execChstat (t : BitVec 11) (s : State) : Result := .next (s.issue t.toNat (isStage 3)).settleAll
def execTktget (t : BitVec 11) (s : State) : Result := .next (s.issue t.toNat (isStage 4)).settleAll
def execTktset (t : BitVec 11) (s : State) : Result := .next (s.issue t.toNat (isStage 5)).settleAll
def execCrc32c (t : BitVec 11) (s : State) : Result := .next (s.issue t.toNat (isStage 6)).settleAll
def execFrmemit (t : BitVec 11) (s : State) : Result := .next (s.issue t.toNat (isStage 7)).settleAll
def execMoverStart (t : BitVec 11) (s : State) : Result := .next (s.moverStart t.toNat)
def execChannelOperationDone (t : BitVec 11) (c : Fin 4) (s : State) : Result := .next (s.opDone t.toNat c.val)
def execStallack (t : BitVec 11) (s : State) : Result := .next (s.issue t.toNat isStallack).settleAll

/-! ## Supervision (R378 to R393) -/

def execThreadStart (r : Requester) (t : BitVec 11) (pc : BitVec 32) (s : State) : Result :=
  .next (s.write64 r .TRP_THREAD_CTRL t.toNat (BitVec.ofNat 64 (1 + 2 ^ 32 * pc.toNat)))
def execThreadStop (r : Requester) (t : BitVec 11) (s : State) : Result := .next (s.write64 r .TRP_THREAD_CTRL t.toNat 2)
def execThreadEvset (r : Requester) (t : BitVec 11) (events : BitVec 16) (s : State) : Result :=
  .next (s.write32 r .TRP_THREAD_EVSET t.toNat (events.setWidth 32))
def execDebugHalt (t : BitVec 11) (s : State) : Result := .next (s.debugHalt t.toNat)
def execDebugResume (t : BitVec 11) (s : State) : Result := .next (s.debugResume t.toNat)
def execCoreReset (r : Requester) (k : BitVec 7) (s : State) : Result :=
  .next (s.fieldsWrite r .TRP_CORE_CFG k.toNat [(Fld.TRP_CORE_CFG_RESET, 1)])
def execCoreResetComplete (k : BitVec 7) (s : State) : Result := .next (s.coreResetDone k.toNat)
def execStallRaised (k : BitVec 7) (s : State) : Result := .next (s.stallRaised k.toNat)
def execStallReset (k : BitVec 7) (s : State) : Result := .next (s.stallReset k.toNat)
def execDeliveryPublish (d : Fin 2) (s : State) : Result := .next (s.deliverTroupe d.val)
def execDqConsWrite (r : Requester) (n : Fin 8) (q : Fin 2) (cons : BitVec 16) (s : State) : Result :=
  .next (s.write32 r .TRP_DQ_CONS (2 * n.val + q.val) (cons.setWidth 32))
def execDqCfgWrite (r : Requester) (n : Fin 8) (q : Fin 2) (value : BitVec 64) (s : State) : Result :=
  .next (s.write64 r .TRP_DQ_CFG (2 * n.val + q.val) value)

/-! ## Callboard -/

/-- The write address of a slot on a requester's path (R403); none where the path does not reach it. -/
def slotPath (r : Requester) (i : Nat) : Option Nat :=
  match r with
  | .slice n => if 0 < n.val && i / 2 == n.val then some (0x0800 + 0x40 * (i % 2)) else none
  | .pf0 h _ => if i == 8192 + 2 * h.val || i == 8193 + 2 * h.val then some (0x03900000 + 0x40 * (i % 2)) else none
  | _ => some (addrOf .CBD_SLOT_WRITE i)

def State.slotWriteBy (s : State) (r : Requester) (i : Nat) (word : BitVec 32) : State :=
  match slotPath r i with
  | some a => s.mapWrite r a .b4 (word.setWidth 64)
  | none => s

/-- A core of the unit that leads. -/
def State.leadCore (s : State) (r : Requester) : Bool :=
  match r with
  | .cpc u _ => s.leadCpc == some u.val && s.cpcRuns
  | _ => false

/-- The word of a slot goes to the lead CPC (R406): the even slots of the slices and of the host ports. -/
def talksToLead (i : Nat) : Bool := 2 ≤ i && i < 8224 && i % 2 == 0

/-- A take by a requester (R403). What the lead CPC takes of a slice or of PF0 it acts on (R328, R407). -/
def State.slotTakeBy (s : State) (r : Requester) (i : Nat) : State :=
  match slotPath r i with
  | none => s
  | some a =>
    if s.leadCore r && talksToLead i && slotFull (s.cbSlot i) then
      let s := (s.splitBuffer r).emit (.value r.code (a + 8) (s.cbSlot i))
      if i < 8192 then s.sliceHello (i / 2) else s.talkWord ((i - 8192) / 2)
    else s.readOut r (a + 8) .b8

/-- A HELLO of PF0 on port h (R407, R408): any transfer is abandoned, and the version chosen is answered. -/
def State.talkHello (s : State) (h : Nat) : State :=
  let v := s.cbSlot (8192 + 2 * h)
  if !s.cpcRuns || s.leadCpc.isNone || !slotFull v || fieldOf v 0 8 != 1 then s
  else (s.talkAbandon h).talkWord h

/-- A START of PF0 on port h (R407): it opens a transfer; within one, the word is data. -/
def State.talkStart (s : State) (h : Nat) : State :=
  let v := s.cbSlot (8192 + 2 * h)
  if slotFull v && fieldOf v 0 8 == 2 && (s.talk h).open_.isNone then s.talkWord h else s

def execSlotWrite (r : Requester) (slot : Fin 9216) (word : BitVec 32) (s : State) : Result := .next (s.slotWriteBy r slot.val word)
def execSlotTake (r : Requester) (slot : Fin 9216) (s : State) : Result := .next (s.slotTakeBy r slot.val).settleAll
def execCallboardHello (h : Fin 16) (s : State) : Result := .next (s.talkHello h.val)
def execCallboardStart (h : Fin 16) (s : State) : Result := .next (s.talkStart h.val)
def execCallboardTransferTimeout (h : Fin 16) (s : State) : Result := .next (s.talkTimeout h.val)

end Sys2Proof.Machine
end

