-- ==== Sys2Proof/Machine/CmdVault.lean ====
section
/-! DEFINITION. Meanings of the commands of the key vault (R258 to R288): services, warrants, zeroisation, entropy, self-tests, SPDM
and IDE keys. -/

namespace Sys2Proof.Machine

/-! ## Services (R270) and warrants (R274) -/

def execGenerate (s : State) : Result := .next (s.serveCode 1).settleAll
def execInstallKey (s : State) : Result := .next (s.serveCode 2).settleAll
def execGenerateInstall (s : State) : Result := .next (s.serveCode 3).settleAll
def execStageSuccessor (s : State) : Result := .next (s.serveCode 4).settleAll
def execDiscard (s : State) : Result := .next (s.serveCode 5).settleAll
def execExportKey (s : State) : Result := .next (s.serveCode 6).settleAll
def execIkeStart (s : State) : Result := .next (s.serveCode 7).settleAll
def execIkeKeys (s : State) : Result := .next (s.serveCode 8).settleAll
def execChildSa (s : State) : Result := .next (s.serveCode 9).settleAll
def execIkeEnd (s : State) : Result := .next (s.serveCode 0x0A).settleAll
def execHandoverOffer (s : State) : Result := .next (s.serveCode 0x0B).settleAll
def execWarrant (origin : Origin) (message : List Byte) (s : State) : Result := .next (s.warrantIn origin message)
def execZeroize (s : State) : Result := .next (s.performWarrant 1 State.wZeroize)
def execHandoverExport (s : State) : Result := .next (s.performWarrant 2 State.handoverExport)
def execHandoverImport (s : State) : Result := .next (s.performWarrant 3 State.handoverImport)
def execEnrolImageKey (s : State) : Result := .next (s.performWarrant 4 State.wEnrol)
def execWithdrawImageKey (s : State) : Result := .next (s.performWarrant 5 State.wWithdraw)
def execReplaceHouseKey (s : State) : Result := .next (s.performWarrant 6 State.wReplace)
def execSetKFloor (s : State) : Result := .next (s.performWarrant 7 State.wKFloor)
def execDebugUnlock (s : State) : Result := .next (s.performWarrant 8 State.wDebug)
def execReinitialise (s : State) : Result := .next s.reinitialise

/-! ## Zeroisation (R286, R287) -/

/-- A zeroisation input asserted long enough: the ghost light senses it in every state but OFF. -/
def State.zeroisePin (s : State) : State := if s.dev.state == .OFF then s else s.startZeroise.settleAll

def execZeroizeNAssert (s : State) : Result := .next ({ s with pins := { s.pins with zeroize := true } }).zeroisePin
def execLidTamperAssert (s : State) : Result := .next ({ s with pins := { s.pins with tamper := true } }).zeroisePin
def execZeroisationComplete (s : State) : Result := .next s.zeroised

/-! ## Entropy and self-tests (R264, R265, R284) -/

/-- A health test of a vault's source fails: the source restarts under test, and its third failure within 1 s is a lasting
fault (R264). -/
def State.entropyFails (s : State) (v : Nat) : State :=
  let recent := (SMap.get (fun _ => []) s.vlt.sourceFails v).filter (fun t => s.elapsed < t + 1000000000)
  let s := { s with vlt := { s.vlt with sourceFails := SMap.set (fun _ => []) v (s.elapsed :: recent) s.vlt.sourceFails } }
  let i := BitVec.ofNat 32 v
  let s := s.elementError { cls := .contained, kind := .entropy, index := i, cause := 9, scope := none, detail := 0, hit := .nothing }
  if recent.length < 2 || s.isRetired .entropy i then s
  else
    (s.selfTestEnds .entropy i false true 0).alarm 7 (s.recordOf 1 2 .entropy i 9 none 0)

/-- The known-answer tests repeat (R284): an engine that fails is retired, and a lead vault that fails hands over the lead
(R285). -/
def State.periodicTest (s : State) (vaultPass : Bool) (failed : List Nat) : State :=
  if s.dev.state != .STAGE then s
  else
    let s := failed.foldl (fun s e =>
      let i := BitVec.ofNat 32 e
      if s.isRetired .cipherEngine i then s
      else (s.elementError { cls := .contained, kind := .cipherEngine, index := i, cause := 8, scope := none, detail := 0, hit := .nothing }).selfTestEnds
        .cipherEngine i false true 0) s
    if vaultPass then s
    else match s.leadVault with
      | some v => s.unitFails (2 + v)
      | none => s

def execEntropyTestFail (v : Fin 2) (s : State) : Result := .next (s.entropyFails v.val)
def execDrbgReseed (s : State) : Result := .next s.reseedIfDue
def execPeriodicSelfTest (vaultPass : Bool) (failed : List (Fin 36)) (s : State) : Result :=
  .next (s.periodicTest vaultPass (failed.map (·.val))).settleAll

/-! ## SPDM (R276, R277) -/

/-- The DOE mailbox of a port passes a request to the responder. -/
def State.doeUp (s : State) (h : Nat) : Bool :=
  s.spdmUp && s.flagAt Fld.HEP_PORT_CFG_ENABLE h && !s.inPerst h && !s.vlt.erasing && !s.vlt.error

def State.spdmStage (s : State) (h : Nat) : Nat := SMap.get (fun _ => 0) s.vlt.spdmVersion h
def State.setSpdmStage (s : State) (h n : Nat) : State :=
  { s with vlt := { s.vlt with spdmVersion := SMap.set (fun _ => 0) h n s.vlt.spdmVersion } }

/-- A request that moves the connection of a port from stage n - 1 to n: version, capabilities, algorithms. -/
def State.negotiate (s : State) (h n code : Nat) (body : List Byte) : State :=
  if !s.doeUp h then s
  else if s.spdmStage h + 1 < n then s.spdmError h 4
  else (s.setSpdmStage h n).spdm h code body

/-- A request that needs negotiated algorithms. -/
def State.negotiated (s : State) (h : Nat) (act : State → State) : State :=
  if !s.doeUp h then s
  else if s.spdmStage h != 3 then s.spdmError h 4
  else act s

/-- A request within a session of the port, whose handshake is complete or not. -/
def State.inSession (s : State) (h : Nat) (id : BitVec 32) (secured : Bool) (act : State → SpdmSession → State) : State :=
  s.negotiated h (fun s => match s.session? h id with
    | some x => if x.secured == secured then act s x else s.spdmError h 4
    | none => s.spdmError h 2)

/-- The identity key signs a response (R276); not without a seed, which zeroisation erases. -/
def State.spdmSigned (s : State) (h code : Nat) (body : List Byte) : State :=
  if s.seedErased then s.spdmError h 5 else s.spdm h code (body ++ slice (Config.signEcdsa s.seed body) 0 96)

/-- A response that needs a certificate chain in its slot. -/
def State.withChain (s : State) (h slot : Nat) (act : State → List Byte → State) : State :=
  if (s.certChain slot).isEmpty then s.spdmError h 1 else act s (s.certChain slot)

/-- A random value of the responder in a signed response. -/
def State.withNonce (s : State) (h : Nat) (act : State → List Byte → State) : State :=
  if !s.entropy then s.spdmError h 5
  else
    let x := s.drbg 32
    act x.2 x.1

def State.setSession (s : State) (x : SpdmSession) : State :=
  { s with vlt := { s.vlt with sessions := s.vlt.sessions.map (fun y => if y.port == x.port && y.id == x.id then x else y) } }
def State.dropSession (s : State) (x : SpdmSession) : State :=
  { s with vlt := { s.vlt with sessions := s.vlt.sessions.filter (fun y => y != x) } }

/-- KEY_EXCHANGE: at most four sessions a port. -/
def State.keyExchange (s : State) (h slot : Nat) (exchange : List Byte) : State :=
  if exchange.length != 96 then s.spdmError h 1
  else if 4 ≤ (s.vlt.sessions.filter (fun x => x.port == h)).length then s.spdmError h 0x0A
  else s.withChain h slot (fun s _ => s.withNonce h (fun s nonce =>
    if s.seedErased then s.spdmError h 5
    else
      let x : List Byte × State := s.drbg 48
      let id := x.2.free.toNat % 2 ^ 32
      let s := x.2.drew
      let s := { s with vlt := { s.vlt with sessions := s.vlt.sessions ++ [SpdmSession.mk h id false 0] } }
      s.spdmSigned h 0x64 (toLE 4 id ++ nonce ++ slice (Config.ecPublic x.1) 0 96)))

/-- A vendor-defined IDE_KM response: its object, the stream and a status. -/
def State.ideKm (s : State) (h object : Nat) (t : IdeTarget) (status : Nat) : State :=
  s.spdm h 0x7E (toLE 1 object ++ toLE 2 0 ++ toLE 1 t.stream.toNat ++ toLE 1 status ++
    toLE 1 (t.k1.toNat + 2 * t.rx.toNat + 16 * t.sub.val) ++ toLE 1 t.link.val)

/-- Streams of a link with keys. -/
def State.linkStreams (s : State) (t : IdeTarget) : List (BitVec 8) :=
  ((s.vlt.ideKeys.filter (fun x => x.1.port == t.port && x.1.link == t.link)).map (·.1.stream)).eraseDups

/-- KEY_PROG: the status, and the key loaded into the unit of its stream (R277, R309). -/
def State.keyProg (s : State) (h : Nat) (t : IdeTarget) (key : List Byte) : State :=
  if key.length != 32 then s.ideKm h 3 t 1
  else if t.port.val != h || !s.linkExists h t.link.val then s.ideKm h 3 t 2
  else if !(s.linkStreams t).contains t.stream && 4 ≤ (s.linkStreams t).length then s.ideKm h 3 t 3
  else (s.setIde t { key := key, go := false }).ideKm h 3 t 0

/-- K_SET_GO and K_SET_STOP act on the stream's unit. -/
def State.keyGo (s : State) (h : Nat) (t : IdeTarget) (go : Bool) : State :=
  let s := if t.port.val == h then
      match s.ideFind t with
      | some k => (s.setIde t { k with go := go }).releaseHeld (4 * h + t.link.val)
      | none => s
    else s
  s.ideKm h 6 t 0

def execGetVersion (h : Fin 16) (s : State) : Result := .next (s.negotiate h.val 1 0x04 (toLE 1 2 ++ toLE 2 0x1200 ++ toLE 2 0x1300))
def execGetCapabilities (h : Fin 16) (s : State) : Result :=
  .next (s.negotiate h.val 2 0x61 (toLE 1 20 ++ toLE 4 0x62D6))
def execNegotiateAlgorithms (h : Fin 16) (common : Bool) (s : State) : Result :=
  .next (if common || !s.doeUp h.val || s.spdmStage h.val < 2 then s.negotiate h.val 3 0x63 (toLE 4 0x80 ++ toLE 4 2 ++ toLE 2 0x10 ++ toLE 2 2)
    else s.spdmError h.val 1)
def execGetDigests (h : Fin 16) (s : State) : Result :=
  .next (s.negotiated h.val (fun s => s.spdm h.val 0x01
    (toLE 1 (flag (!(s.certChain 0).isEmpty) + 2 * flag (!(s.certChain 1).isEmpty)) ++
      [0, 1].flatMap (fun i => if (s.certChain i).isEmpty then [] else slice (Config.sha384 (s.certChain i)) 0 48))))
def execGetCertificate (h : Fin 16) (slot : BitVec 4) (offset length : BitVec 16) (s : State) : Result :=
  .next (s.negotiated h.val (fun s => s.withChain h.val slot.toNat (fun s chain =>
    let n := min length.toNat (chain.length - offset.toNat)
    if chain.length ≤ offset.toNat then s.spdmError h.val 1
    else s.spdm h.val 0x02 (toLE 1 slot.toNat ++ toLE 2 n ++ toLE 2 (chain.length - offset.toNat - n) ++ slice chain offset.toNat n))))
def execChallenge (h : Fin 16) (slot : BitVec 4) (nonce : BitVec 256) (s : State) : Result :=
  .next (s.negotiated h.val (fun s => s.withChain h.val slot.toNat (fun s chain => s.withNonce h.val (fun s own =>
    s.spdmSigned h.val 0x03 (toLE 1 slot.toNat ++ slice (Config.sha384 chain) 0 48 ++ own ++ toLE 32 nonce.toNat)))))
def execGetMeasurements (h : Fin 16) (index : BitVec 8) (nonce : BitVec 256) (s : State) : Result :=
  .next (s.negotiated h.val (fun s =>
    let i := index.toNat
    if i = 0 then s.spdm h.val 0x60 (toLE 1 7)
    else if 7 < i ∧ i ≠ 255 then s.spdmError h.val 1
    else s.withNonce h.val (fun s own =>
      let blocks := (if i = 255 then [1, 2, 3, 4, 5, 6, 7] else [i]).flatMap (fun j =>
        toLE 1 j ++ toLE 2 (s.measurement j).length ++ s.measurement j)
      s.spdmSigned h.val 0x60 (blocks ++ own ++ toLE 32 nonce.toNat))))
def execKeyExchange (h : Fin 16) (slot : BitVec 4) (exchange : List Byte) (s : State) : Result :=
  .next (s.negotiated h.val (fun s => s.keyExchange h.val slot.toNat exchange))
def execFinish (h : Fin 16) (session : BitVec 32) (s : State) : Result :=
  .next (s.inSession h.val session false (fun s x => (s.setSession { x with secured := true }).spdm h.val 0x65 (toLE 4 x.id)))
def execHeartbeat (h : Fin 16) (session : BitVec 32) (s : State) : Result :=
  .next (s.inSession h.val session true (fun s x => s.spdm h.val 0x68 (toLE 4 x.id)))
def execKeyUpdate (h : Fin 16) (session : BitVec 32) (s : State) : Result :=
  .next (s.inSession h.val session true (fun s x => (s.setSession { x with keys := x.keys + 1 }).spdm h.val 0x69 (toLE 4 x.id)))
def execEndSession (h : Fin 16) (session : BitVec 32) (s : State) : Result :=
  .next (s.inSession h.val session true (fun s x => (s.dropSession x).spdm h.val 0x6C (toLE 4 x.id)))
def execKeyProg (h : Fin 16) (session : BitVec 32) (t : IdeTarget) (key : List Byte) (s : State) : Result :=
  .next (s.inSession h.val session true (fun s _ => s.keyProg h.val t key))
def execKSetGo (h : Fin 16) (session : BitVec 32) (t : IdeTarget) (s : State) : Result :=
  .next (s.inSession h.val session true (fun s _ => s.keyGo h.val t true))
def execKSetStop (h : Fin 16) (session : BitVec 32) (t : IdeTarget) (s : State) : Result :=
  .next (s.inSession h.val session true (fun s _ => s.keyGo h.val t false))

end Sys2Proof.Machine
end

