-- ==== Sys2Proof/Machine/Dispatch.lean ====
section
/-! DEFINITION. Dispatch: one arm per command, each one direct call of its meaning. -/

namespace Sys2Proof.Machine

def exec (i : Instr) (s : State) : Host.Outcome State Fault Refusal :=
  match i with
  | .porstNRelease => Sys2Proof.Machine.execPorstNRelease s
  | .porstNAssert => Sys2Proof.Machine.execPorstNAssert s
  | .ghostLightStable => Sys2Proof.Machine.execGhostLightStable s
  | .warmNAssert => Sys2Proof.Machine.execWarmNAssert s
  | .warmNRelease => Sys2Proof.Machine.execWarmNRelease s
  | .loadingSelfTestDone pass found => Sys2Proof.Machine.execLoadingSelfTestDone pass found s
  | .slotHeadersRead readErrorA readErrorB => Sys2Proof.Machine.execSlotHeadersRead readErrorA readErrorB s
  | .earlyIdentityVerified readError => Sys2Proof.Machine.execEarlyIdentityVerified readError s
  | .imageBodyVerified readError => Sys2Proof.Machine.execImageBodyVerified readError s
  | .announceTimer => Sys2Proof.Machine.execAnnounceTimer s
  | .offer station header sigblock => Sys2Proof.Machine.execOffer station header sigblock s
  | .chunk station offset data => Sys2Proof.Machine.execChunk station offset data s
  | .endMessage x => Sys2Proof.Machine.execEndMessage x s
  | .stagingSessionIdle => Sys2Proof.Machine.execStagingSessionIdle s
  | .amendment origin message => Sys2Proof.Machine.execAmendment origin message s
  | .regwrite origin addr mask value => Sys2Proof.Machine.execRegwrite origin addr mask value s
  | .regwrite64 origin addr mask value => Sys2Proof.Machine.execRegwrite64 origin addr mask value s
  | .sectionRecord origin type version body => Sys2Proof.Machine.execSectionRecord origin type version body s
  | .restartRecord origin => Sys2Proof.Machine.execRestartRecord origin s
  | .sleepRecord origin => Sys2Proof.Machine.execSleepRecord origin s
  | .stageImage origin header sigblock => Sys2Proof.Machine.execStageImage origin header sigblock s
  | .query origin addrs => Sys2Proof.Machine.execQuery origin addrs s
  | .registerWrite r addr size value => Sys2Proof.Machine.execRegisterWrite r addr size value s
  | .slowWritePerformed b => Sys2Proof.Machine.execSlowWritePerformed b s
  | .slowReadTimeout r addr wide => Sys2Proof.Machine.execSlowReadTimeout r addr wide s
  | .halfLatchRead r addr => Sys2Proof.Machine.execHalfLatchRead r addr s
  | .counterReadClear r addr wide arriving => Sys2Proof.Machine.execCounterReadClear r addr wide arriving s
  | .voteOneDisagree f ix copy written => Sys2Proof.Machine.execVoteOneDisagree f ix copy written s
  | .groupScrubDone page => Sys2Proof.Machine.execGroupScrubDone page s
  | .backgroundScrub => Sys2Proof.Machine.execBackgroundScrub s
  | .voteThreeDisagree f x => Sys2Proof.Machine.execVoteThreeDisagree f x s
  | .enginePlanWrite r e plan => Sys2Proof.Machine.execEnginePlanWrite r e plan s
  | .lbCellsWrite r e j value => Sys2Proof.Machine.execLbCellsWrite r e j value s
  | .prtConfigWrite r p value => Sys2Proof.Machine.execPrtConfigWrite r p value s
  | .pfcWmWrite r p c value => Sys2Proof.Machine.execPfcWmWrite r p c value s
  | .lsmInsertion e => Sys2Proof.Machine.execLsmInsertion e s
  | .lsmVerifyDone e v => Sys2Proof.Machine.execLsmVerifyDone e v s
  | .lsmNoAnswer e => Sys2Proof.Machine.execLsmNoAnswer e s
  | .lsmRemoval e => Sys2Proof.Machine.execLsmRemoval e s
  | .eject r e => Sys2Proof.Machine.execEject r e s
  | .ejectComplete e litHours bias temp => Sys2Proof.Machine.execEjectComplete e litHours bias temp s
  | .retry r e => Sys2Proof.Machine.execRetry r e s
  | .lifeRecordTimer e litHours bias temp => Sys2Proof.Machine.execLifeRecordTimer e litHours bias temp s
  | .laserChannelFault e c => Sys2Proof.Machine.execLaserChannelFault e c s
  | .lsmInBandInterrupt e alarm => Sys2Proof.Machine.execLsmInBandInterrupt e alarm s
  | .lsmAlarmPoll e alarm => Sys2Proof.Machine.execLsmAlarmPoll e alarm s
  | .frameArrival p octets => Sys2Proof.Machine.execFrameArrival p octets s
  | .xoffRefresh p c => Sys2Proof.Machine.execXoffRefresh p c s
  | .rxMaxFrameReached f octets => Sys2Proof.Machine.execRxMaxFrameReached f octets s
  | .frameTailReceived f octets cause => Sys2Proof.Machine.execFrameTailReceived f octets cause s
  | .pauseFrameReceived p pfc enable times fcsGood => Sys2Proof.Machine.execPauseFrameReceived p pfc enable times fcsGood s
  | .pauseTimerExpiry p c => Sys2Proof.Machine.execPauseTimerExpiry p c s
  | .txTimestampPop r p wide => Sys2Proof.Machine.execTxTimestampPop r p wide s
  | .mgmtFrameReceived seg src dst etherType body => Sys2Proof.Machine.execMgmtFrameReceived seg src dst etherType body s
  | .mgmtReassemblyTimeout station seq => Sys2Proof.Machine.execMgmtReassemblyTimeout station seq s
  | .pipelineEntry f octets flowOverRate => Sys2Proof.Machine.execPipelineEntry f octets flowOverRate s
  | .lookupResult f => Sys2Proof.Machine.execLookupResult f s
  | .sceneCommit r scene timed => Sys2Proof.Machine.execSceneCommit r scene timed s
  | .sceneCancel r => Sys2Proof.Machine.execSceneCancel r s
  | .sceneActivation => Sys2Proof.Machine.execSceneActivation s
  | .sceneDrained slot => Sys2Proof.Machine.execSceneDrained slot s
  | .sceneForced slot => Sys2Proof.Machine.execSceneForced slot s
  | .insert c => Sys2Proof.Machine.execInsert c s
  | .delete c => Sys2Proof.Machine.execDelete c s
  | .lookup c => Sys2Proof.Machine.execLookup c s
  | .readIndex c => Sys2Proof.Machine.execReadIndex c s
  | .writeIndex c => Sys2Proof.Machine.execWriteIndex c s
  | .refresh c => Sys2Proof.Machine.execRefresh c s
  | .flushScene c => Sys2Proof.Machine.execFlushScene c s
  | .tableCommandDone => Sys2Proof.Machine.execTableCommandDone s
  | .tblEvictedPop r value => Sys2Proof.Machine.execTblEvictedPop r value s
  | .tableCfgWrite r w => Sys2Proof.Machine.execTableCfgWrite r w s
  | .settleSweep slot => Sys2Proof.Machine.execSettleSweep slot s
  | .milestoneTick => Sys2Proof.Machine.execMilestoneTick s
  | .agerScan table slot => Sys2Proof.Machine.execAgerScan table slot s
  | .agerRemove => Sys2Proof.Machine.execAgerRemove s
  | .learnPresentation pipeline => Sys2Proof.Machine.execLearnPresentation pipeline s
  | .flowCacheFill a b => Sys2Proof.Machine.execFlowCacheFill a b s
  | .memberRepin g ix => Sys2Proof.Machine.execMemberRepin g ix s
  | .spillReturn p c => Sys2Proof.Machine.execSpillReturn p c s
  | .egressSelect p => Sys2Proof.Machine.execEgressSelect p s
  | .egressComplete p => Sys2Proof.Machine.execEgressComplete p s
  | .shaperWrite r k ix value => Sys2Proof.Machine.execShaperWrite r k ix value s
  | .policerWrite r ix size value => Sys2Proof.Machine.execPolicerWrite r ix size value s
  | .gateChange p => Sys2Proof.Machine.execGateChange p s
  | .timetableChange r p length => Sys2Proof.Machine.execTimetableChange r p length s
  | .timetableCancel r p => Sys2Proof.Machine.execTimetableCancel r p s
  | .timetableChangeTime p => Sys2Proof.Machine.execTimetableChangeTime p s
  | .timeStep r ns => Sys2Proof.Machine.execTimeStep r ns s
  | .timeNowRead r wide => Sys2Proof.Machine.execTimeNowRead r wide s
  | .ppsEdge ix falling => Sys2Proof.Machine.execPpsEdge ix falling s
  | .ppsSeenExpiry ix => Sys2Proof.Machine.execPpsSeenExpiry ix s
  | .ppsCaptureRead r ix => Sys2Proof.Machine.execPpsCaptureRead r ix s
  | .todByteReceived ix b => Sys2Proof.Machine.execTodByteReceived ix b s
  | .todRead r ix => Sys2Proof.Machine.execTodRead r ix s
  | .encapUnit p => Sys2Proof.Machine.execEncapUnit p s
  | .decapUnit p => Sys2Proof.Machine.execDecapUnit p s
  | .espOutbound p => Sys2Proof.Machine.execEspOutbound p s
  | .espInbound p => Sys2Proof.Machine.execEspInbound p s
  | .espInboundResult die => Sys2Proof.Machine.execEspInboundResult die s
  | .objectRead r type index => Sys2Proof.Machine.execObjectRead r type index s
  | .objectWrite r type index keepState => Sys2Proof.Machine.execObjectWrite r type index keepState s
  | .roll r type index => Sys2Proof.Machine.execRoll r type index s
  | .oflEventPop r => Sys2Proof.Machine.execOflEventPop r s
  | .storageTransportFrame d conn f => Sys2Proof.Machine.execStorageTransportFrame d conn f s
  | .storageCommandTimeout t => Sys2Proof.Machine.execStorageCommandTimeout t s
  | .keepAliveTimer conn => Sys2Proof.Machine.execKeepAliveTimer conn s
  | .transportRetransmitTimer conn => Sys2Proof.Machine.execTransportRetransmitTimer conn s
  | .cipherSubmit q request input => Sys2Proof.Machine.execCipherSubmit q request input s
  | .cipherDispatch e => Sys2Proof.Machine.execCipherDispatch e s
  | .cipherUnitDone e => Sys2Proof.Machine.execCipherUnitDone e s
  | .contextLoad c read => Sys2Proof.Machine.execContextLoad c read s
  | .checkpointComplete c => Sys2Proof.Machine.execCheckpointComplete c s
  | .cipherEngineError e => Sys2Proof.Machine.execCipherEngineError e s
  | .lockContext r => Sys2Proof.Machine.execLockContext r s
  | .dropPrevious r => Sys2Proof.Machine.execDropPrevious r s
  | .ctxLimitWrite r k value => Sys2Proof.Machine.execCtxLimitWrite r k value s
  | .generate => Sys2Proof.Machine.execGenerate s
  | .installKey => Sys2Proof.Machine.execInstallKey s
  | .generateInstall => Sys2Proof.Machine.execGenerateInstall s
  | .stageSuccessor => Sys2Proof.Machine.execStageSuccessor s
  | .discard => Sys2Proof.Machine.execDiscard s
  | .exportKey => Sys2Proof.Machine.execExportKey s
  | .ikeStart => Sys2Proof.Machine.execIkeStart s
  | .ikeKeys => Sys2Proof.Machine.execIkeKeys s
  | .childSa => Sys2Proof.Machine.execChildSa s
  | .ikeEnd => Sys2Proof.Machine.execIkeEnd s
  | .handoverOffer => Sys2Proof.Machine.execHandoverOffer s
  | .warrant origin message => Sys2Proof.Machine.execWarrant origin message s
  | .zeroize => Sys2Proof.Machine.execZeroize s
  | .handoverExport => Sys2Proof.Machine.execHandoverExport s
  | .handoverImport => Sys2Proof.Machine.execHandoverImport s
  | .enrolImageKey => Sys2Proof.Machine.execEnrolImageKey s
  | .withdrawImageKey => Sys2Proof.Machine.execWithdrawImageKey s
  | .replaceHouseKey => Sys2Proof.Machine.execReplaceHouseKey s
  | .setKFloor => Sys2Proof.Machine.execSetKFloor s
  | .debugUnlock => Sys2Proof.Machine.execDebugUnlock s
  | .reinitialise => Sys2Proof.Machine.execReinitialise s
  | .zeroizeNAssert => Sys2Proof.Machine.execZeroizeNAssert s
  | .lidTamperAssert => Sys2Proof.Machine.execLidTamperAssert s
  | .zeroisationComplete => Sys2Proof.Machine.execZeroisationComplete s
  | .entropyTestFail v => Sys2Proof.Machine.execEntropyTestFail v s
  | .drbgReseed => Sys2Proof.Machine.execDrbgReseed s
  | .periodicSelfTest vaultPass failed => Sys2Proof.Machine.execPeriodicSelfTest vaultPass failed s
  | .getVersion h => Sys2Proof.Machine.execGetVersion h s
  | .getCapabilities h => Sys2Proof.Machine.execGetCapabilities h s
  | .negotiateAlgorithms h common => Sys2Proof.Machine.execNegotiateAlgorithms h common s
  | .getDigests h => Sys2Proof.Machine.execGetDigests h s
  | .getCertificate h slot offset length => Sys2Proof.Machine.execGetCertificate h slot offset length s
  | .challenge h slot nonce => Sys2Proof.Machine.execChallenge h slot nonce s
  | .getMeasurements h index nonce => Sys2Proof.Machine.execGetMeasurements h index nonce s
  | .keyExchange h slot exchange => Sys2Proof.Machine.execKeyExchange h slot exchange s
  | .finish h session => Sys2Proof.Machine.execFinish h session s
  | .heartbeat h session => Sys2Proof.Machine.execHeartbeat h session s
  | .keyUpdate h session => Sys2Proof.Machine.execKeyUpdate h session s
  | .endSession h session => Sys2Proof.Machine.execEndSession h session s
  | .keyProg h session t key => Sys2Proof.Machine.execKeyProg h session t key s
  | .kSetGo h session t => Sys2Proof.Machine.execKSetGo h session t s
  | .kSetStop h session t => Sys2Proof.Machine.execKSetStop h session t s
  | .perstAssert h => Sys2Proof.Machine.execPerstAssert h s
  | .perstRelease h => Sys2Proof.Machine.execPerstRelease h s
  | .linkTrained l flit speed width => Sys2Proof.Machine.execLinkTrained l flit speed width s
  | .linkDown l => Sys2Proof.Machine.execLinkDown l s
  | .maxSpeedWrite r l speed => Sys2Proof.Machine.execMaxSpeedWrite r l speed s
  | .retrain r l => Sys2Proof.Machine.execRetrain r l s
  | .hostTlpReceived l t => Sys2Proof.Machine.execHostTlpReceived l t s
  | .configRequest l fn reg write => Sys2Proof.Machine.execConfigRequest l fn reg write s
  | .busMasterClear l c => Sys2Proof.Machine.execBusMasterClear l c s
  | .functionLevelReset l fn => Sys2Proof.Machine.execFunctionLevelReset l fn s
  | .flrComplete l fn => Sys2Proof.Machine.execFlrComplete l fn s
  | .barResize l bar2 log2 => Sys2Proof.Machine.execBarResize l bar2 log2 s
  | .completionReceived l tag c => Sys2Proof.Machine.execCompletionReceived l tag c s
  | .completionTimeout l tag => Sys2Proof.Machine.execCompletionTimeout l tag s
  | .tagQuarantineEnd h tag => Sys2Proof.Machine.execTagQuarantineEnd h tag s
  | .createSlice r n => Sys2Proof.Machine.execCreateSlice r n s
  | .stopSlice r n => Sys2Proof.Machine.execStopSlice r n s
  | .startSlice r n => Sys2Proof.Machine.execStartSlice r n s
  | .removeSlice r n => Sys2Proof.Machine.execRemoveSlice r n s
  | .autoRestart n => Sys2Proof.Machine.execAutoRestart n s
  | .grantWrite r n g value => Sys2Proof.Machine.execGrantWrite r n g value s
  | .peerShareWrite r l value => Sys2Proof.Machine.execPeerShareWrite r l value s
  | .sliceHello n => Sys2Proof.Machine.execSliceHello n s
  | .postDoorbell n queue index => Sys2Proof.Machine.execPostDoorbell n queue index s
  | .releaseDoorbell n queue index => Sys2Proof.Machine.execReleaseDoorbell n queue index s
  | .invalidateDoorbell n queue index => Sys2Proof.Machine.execInvalidateDoorbell n queue index s
  | .queueEnable r g value => Sys2Proof.Machine.execQueueEnable r g value s
  | .queueDisable r g value => Sys2Proof.Machine.execQueueDisable r g value s
  | .entryFetched g => Sys2Proof.Machine.execEntryFetched g s
  | .entryTake h => Sys2Proof.Machine.execEntryTake h s
  | .completionWrite g => Sys2Proof.Machine.execCompletionWrite g s
  | .irqTimer g => Sys2Proof.Machine.execIrqTimer g s
  | .cqStallLimit g => Sys2Proof.Machine.execCqStallLimit g s
  | .rxDelivery l => Sys2Proof.Machine.execRxDelivery l s
  | .rxStallLimit l => Sys2Proof.Machine.execRxStallLimit l s
  | .channelEnable r c => Sys2Proof.Machine.execChannelEnable r c s
  | .channelDisable r c => Sys2Proof.Machine.execChannelDisable r c s
  | .abort r c => Sys2Proof.Machine.execAbort r c s
  | .append r c => Sys2Proof.Machine.execAppend r c s
  | .descriptorFetched c => Sys2Proof.Machine.execDescriptorFetched c s
  | .readEngineTurn h tags => Sys2Proof.Machine.execReadEngineTurn h tags s
  | .descriptorDone c => Sys2Proof.Machine.execDescriptorDone c s
  | .requestLineRaise r line => Sys2Proof.Machine.execRequestLineRaise r line s
  | .pacedBurst c => Sys2Proof.Machine.execPacedBurst c s
  | .stageSharesWrite r h value => Sys2Proof.Machine.execStageSharesWrite r h value s
  | .threadInstruction t => Sys2Proof.Machine.execThreadInstruction t s
  | .waitev t => Sys2Proof.Machine.execWaitev t s
  | .waitevTimeout t => Sys2Proof.Machine.execWaitevTimeout t s
  | .eventInputSet t input => Sys2Proof.Machine.execEventInputSet t input s
  | .chw t => Sys2Proof.Machine.execChw t s
  | .chcommit t => Sys2Proof.Machine.execChcommit t s
  | .chstat t => Sys2Proof.Machine.execChstat t s
  | .tktget t => Sys2Proof.Machine.execTktget t s
  | .tktset t => Sys2Proof.Machine.execTktset t s
  | .crc32c t => Sys2Proof.Machine.execCrc32c t s
  | .frmemit t => Sys2Proof.Machine.execFrmemit t s
  | .moverStart t => Sys2Proof.Machine.execMoverStart t s
  | .channelOperationDone t c => Sys2Proof.Machine.execChannelOperationDone t c s
  | .stallack t => Sys2Proof.Machine.execStallack t s
  | .threadStart r t pc => Sys2Proof.Machine.execThreadStart r t pc s
  | .threadStop r t => Sys2Proof.Machine.execThreadStop r t s
  | .threadEvset r t events => Sys2Proof.Machine.execThreadEvset r t events s
  | .debugHalt t => Sys2Proof.Machine.execDebugHalt t s
  | .debugResume t => Sys2Proof.Machine.execDebugResume t s
  | .coreReset r k => Sys2Proof.Machine.execCoreReset r k s
  | .coreResetComplete k => Sys2Proof.Machine.execCoreResetComplete k s
  | .stallRaised k => Sys2Proof.Machine.execStallRaised k s
  | .stallReset k => Sys2Proof.Machine.execStallReset k s
  | .deliveryPublish d => Sys2Proof.Machine.execDeliveryPublish d s
  | .dqConsWrite r n q cons => Sys2Proof.Machine.execDqConsWrite r n q cons s
  | .dqCfgWrite r n q value => Sys2Proof.Machine.execDqCfgWrite r n q value s
  | .slotWrite r slot word => Sys2Proof.Machine.execSlotWrite r slot word s
  | .slotTake r slot => Sys2Proof.Machine.execSlotTake r slot s
  | .callboardHello h => Sys2Proof.Machine.execCallboardHello h s
  | .callboardStart h => Sys2Proof.Machine.execCallboardStart h s
  | .callboardTransferTimeout h => Sys2Proof.Machine.execCallboardTransferTimeout h s
  | .heartbeatSend u => Sys2Proof.Machine.execHeartbeatSend u s
  | .heartbeatReceived u path => Sys2Proof.Machine.execHeartbeatReceived u path s
  | .pathSilent u path => Sys2Proof.Machine.execPathSilent u path s
  | .kick r => Sys2Proof.Machine.execKick r s
  | .kickLimitExpiry u => Sys2Proof.Machine.execKickLimitExpiry u s
  | .takeover r expect => Sys2Proof.Machine.execTakeover r expect s
  | .rehearsal r expect => Sys2Proof.Machine.execRehearsal r expect s
  | .tie r expect => Sys2Proof.Machine.execTie r expect s
  | .gapLimit pair => Sys2Proof.Machine.execGapLimit pair s
  | .fenceVerdict u lasting => Sys2Proof.Machine.execFenceVerdict u lasting s
  | .probe r => Sys2Proof.Machine.execProbe r s
  | .rehearsalTimer => Sys2Proof.Machine.execRehearsalTimer s
  | .yield r => Sys2Proof.Machine.execYield r s
  | .yieldTimeout => Sys2Proof.Machine.execYieldTimeout s
  | .rehearsalDone r => Sys2Proof.Machine.execRehearsalDone r s
  | .rehearsalFailed => Sys2Proof.Machine.execRehearsalFailed s
  | .cpcFrameTransmit => Sys2Proof.Machine.execCpcFrameTransmit s
  | .cpcFrameReceive f => Sys2Proof.Machine.execCpcFrameReceive f s
  | .vaultRequestPost unit prod => Sys2Proof.Machine.execVaultRequestPost unit prod s
  | .barodHelloTimer p => Sys2Proof.Machine.execBarodHelloTimer p s
  | .barodHello p frame => Sys2Proof.Machine.execBarodHello p frame s
  | .keepaliveTimer p => Sys2Proof.Machine.execKeepaliveTimer p s
  | .keepalive p frame => Sys2Proof.Machine.execKeepalive p frame s
  | .linkSilent p => Sys2Proof.Machine.execLinkSilent p s
  | .claimWaitExpiry => Sys2Proof.Machine.execClaimWaitExpiry s
  | .barodClaim p frame => Sys2Proof.Machine.execBarodClaim p frame s
  | .claimReply p frame => Sys2Proof.Machine.execClaimReply p frame s
  | .claimReplyLimit => Sys2Proof.Machine.execClaimReplyLimit s
  | .barodScene p frame => Sys2Proof.Machine.execBarodScene p frame s
  | .sceneAck p frame => Sys2Proof.Machine.execSceneAck p frame s
  | .cbword p frame => Sys2Proof.Machine.execCbword p frame s
  | .report p frame => Sys2Proof.Machine.execReport p frame s
  | .sendScene r value => Sys2Proof.Machine.execSendScene r value s
  | .sendSceneAck r value => Sys2Proof.Machine.execSendSceneAck r value s
  | .sendReport r value => Sys2Proof.Machine.execSendReport r value s
  | .sceneArmDeadline => Sys2Proof.Machine.execSceneArmDeadline s
  | .timeOffsetCurtain => Sys2Proof.Machine.execTimeOffsetCurtain s
  | .sleepCommand r d => Sys2Proof.Machine.execSleepCommand r d s
  | .wakeCommand r d => Sys2Proof.Machine.execWakeCommand r d s
  | .domainEnableWrite r d value => Sys2Proof.Machine.execDomainEnableWrite r d value s
  | .drainComplete d => Sys2Proof.Machine.execDrainComplete d s
  | .drainTimeout d => Sys2Proof.Machine.execDrainTimeout d s
  | .idleTimerExpiry d => Sys2Proof.Machine.execIdleTimerExpiry d s
  | .wakeTrigger d => Sys2Proof.Machine.execWakeTrigger d s
  | .wakeComplete d => Sys2Proof.Machine.execWakeComplete d s
  | .ghostClkLost => Sys2Proof.Machine.execGhostClkLost s
  | .pllLock p => Sys2Proof.Machine.execPllLock p s
  | .pllLockLost p => Sys2Proof.Machine.execPllLockLost p s
  | .errorReport e => Sys2Proof.Machine.execErrorReport e s
  | .selfTestVerdict kind index pass spareLeft detail => Sys2Proof.Machine.execSelfTestVerdict kind index pass spareLeft detail s
  | .scopeHoldWrite r scope ix hold => Sys2Proof.Machine.execScopeHoldWrite r scope ix hold s
  | .exitScope r scope ix => Sys2Proof.Machine.execExitScope r scope ix s
  | .deviceCurtainWrite r => Sys2Proof.Machine.execDeviceCurtainWrite r s
  | .fltRecordPop r => Sys2Proof.Machine.execFltRecordPop r s
  | .supplyTrip rail => Sys2Proof.Machine.execSupplyTrip rail s
  | .thermalTrip sensor reading => Sys2Proof.Machine.execThermalTrip sensor reading s
  | .networkLinkUp p => Sys2Proof.Machine.execNetworkLinkUp p s
  | .networkLinkDown p => Sys2Proof.Machine.execNetworkLinkDown p s

end Sys2Proof.Machine
end

