-- ==== Sys2Proof/Machine/Tick.lean ====
section
/-! DEFINITION. The ghost-light tick (R202, R203): what a step does while no command waits (assumption log entry 2). -/

namespace Sys2Proof.Machine

/-- Device time as one number: nanoseconds and the fraction accumulator. -/
def Clock.fine (c : Clock) : Int := (c.ns : Int) * 4294967296 + (c.frac : Int)

/-- Device time after one tick: 40 ns and FREQ parts of 2^-32 ns later (R202), with the step that waits added (R203). A
step that would make it negative is ignored. The answer says whether a step was refused. -/
def Clock.tick (c : Clock) (freq : Int) : Clock × Bool :=
  let t := c.fine + 40 * 4294967296 + freq
  let u := t + c.step.getD 0 * 4294967296
  let refused := c.step.isSome && decide (u < 0)
  let v := (if u < 0 then max t 0 else u).toNat
  ({ c with ns := v / 4294967296, frac := v % 4294967296, step := none, core := c.core + 64 }, refused)

/-- A claim of the cycle that ends counts at every gate from now on (R415), and the new lead applies the amendments held in
the gap it ended (R57). -/
def State.claimsCount (s : State) : State :=
  if s.rdn.before.isEmpty then s else State.applyHeld { s with rdn := { s.rdn with before := [] } }

/-- What a cycle of the internal oscillator, 25 MHz ± 5 %, adds to or takes from 40 ns, in parts of 2^-32 ns: a free value (R449). -/
def State.oscillatorError (s : State) : Int := (s.free.toNat % 17222926500 : Nat) - 8180890087

/-- One ghost-light cycle of 40 ns passes; it runs in every state but OFF. Once GHOST_CLK is lost, its length is the oscillator's. -/
def State.tick (s : State) : State :=
  if s.dev.state == .OFF then s
  else
    let lost := s.flagAt Fld.GLT_CLOCK_STATUS_GHOST_LOST 0
    let r := s.clk.tick (signed 32 (s.fld Fld.MGT_TIME_FREQ_FREQ 0) + if lost then s.oscillatorError else 0)
    let s := if lost then s.drew else s
    let s := { s with clk := r.1 }
    (if r.2 then s.setFld Fld.MGT_TIME_STATUS_STEP_REFUSED 0 1 else s).claimsCount.judgeModules.coresTick.idleTick

end Sys2Proof.Machine
end

