-- ==== Sys2Proof/Safety.lean ====
section
/-! DEFINITION. What a safe run is, in the terms the statements use. -/

namespace Sys2Proof.Machine

/-- A step that answers a next state: the machine goes on. -/
def State.goesOn (s : State) : Prop := ∃ t, step s = .next t

/-- A state reached from s by n steps that all go on. -/
def State.reaches (s : State) : Nat → State → Prop
  | 0, t => t = s
  | n + 1, t => ∃ u, step s = .next u ∧ u.reaches n t

/-- A run is safe when every state it reaches goes on. -/
def State.safe (s : State) : Prop := ∀ n t, s.reaches n t → t.goesOn

/-! ## Accesses that go straight to a register -/

/-- A read by requester r at address a goes straight to register target t: the map answers, the requester is no host function, none of its
halves is held, no write waits in its slow bridge, its switched domain is ON, and it is no counter of what only the medium shows. -/
def State.readsPlain (s : State) (r : Requester) (t : Target) (a : Nat) : Bool :=
  s.mapAnswers && (match r with | .pf0 _ _ => false | .slice _ => false | _ => true) && (s.bufferOf r).isNone && (s.latchOf r).isNone &&
  decide (s.spotOf r a = .reg t) && (if t.reg.info.wide && !t.high then a % 8 == 0 else a % 4 == 0) &&
  (match bridgeOf t.reg with | some b => (s.bridge b).isNone | none => true) &&
  (match State.domainOfReg t.reg t.idx with | some d => (s.domain d).state == .ON | none => true) && !countsWire t.reg

/-! ## What every step keeps -/

/-- Every sparse store of bytes or registers is in its canonical form: keys rising, no entry equal to what an unlisted key
reads as. -/
def State.canonical (s : State) : Bool :=
  SMap.wf regDefault s.regs && SMap.wf (fun _ => 0) s.ctrs && SMap.wf flashDefault s.flashA.data && SMap.wf flashDefault s.flashB.data &&
  SMap.wf byteDefault s.mem.hb0 && SMap.wf byteDefault s.mem.hb1 && SMap.wf s.sramByte s.mem.sram && SMap.wf byteDefault s.mem.vring &&
  SMap.wf byteDefault s.mem.peer && SMap.wf byteDefault s.mem.window && SMap.wf (dmemByte s.trp.body) s.mem.dmem &&
  SMap.wf (sharedByte s.trp.body) s.mem.shared

/-- K_FLOOR is a value a warrant may set (R282). -/
def State.floorLegal (s : State) : Bool := decide (1 ≤ s.vlt.store.kFloor) && decide (s.vlt.store.kFloor ≤ 8)

/-- The invariant of every step: the stores canonical, K_FLOOR legal, and every waiting command well-formed. -/
def State.Inv (s : State) : Prop := s.canonical = true ∧ s.floorLegal = true ∧ ∀ c ∈ s.pending, c.wf = true

end Sys2Proof.Machine
end

