-- ==== Sys2Proof/Certificates/Slice0/Obligations.lean ====
section
/-! DEFINITION. The statements for the provers: what the rules of spec/ say the device does, as propositions about `exec`, `step` and the shared operations. -/

open Sys2Proof Sys2Proof.Machine

/-- A step runs the command at the front of the queue. For every command c and state s, a step of s with c put at the
front of its queue is exec of c on s with the queue's rest; while the queue is empty a step is one ghost-light tick
(the model's choice, assumption log entry 2). Rests on R202, R48. -/
def Obligations.StepRunsCommand : Prop :=
  (∀ (c : Instr) (s : State), step { s with pending := c :: s.pending } = exec c s) ∧
  (∀ s : State, s.pending = [] → step s = .next s.tick)

/-- What reset leaves. Before power is applied the device is in OFF with cause PORST, every register reads the reset value
of its table, every counter is zero, and no command waits. Rests on R8, R48, R49. -/
def Obligations.ResetLeaves : Prop :=
  State.reset.dev.state = .OFF ∧ State.reset.pending = [] ∧ State.reset.out = [] ∧ State.reset.clk = {} ∧
  (∀ r i, State.reset.reg r i = r.resetAt (i % 16777216)) ∧ (∀ r i, State.reset.ctr r i = 0) ∧
  (∀ p, State.reset.port p = {}) ∧ (∀ u, State.reset.unit u = {}) ∧ (∀ d, State.reset.domain d = {})

/-- The invariant holds at reset. Right after reset every sparse store is in its canonical form, K_FLOOR is legal, and no
ill-formed command waits. Rests on R282, R261. -/
def Obligations.InvReset : Prop :=
  State.reset.Inv

/-- Every step keeps the invariant and goes on. From every state whose stores are canonical, whose K_FLOOR is between 1
and 8 and whose waiting commands are well-formed, a step answers a next state, and that state has the same properties.
Rests on R282, R261, R7. -/
def Obligations.InvKept : Prop :=
  ∀ s : State, s.Inv → ∃ t, step s = .next t ∧ t.Inv

/-- Every command runs to a next state. No command stops or is refused: from every state, whatever its operands, it
answers a next state, in which the waiting commands are the same, what was sent before is still there, no retirement
record is gone, the minimum image version has not fallen, and, where the stores were canonical and K_FLOOR legal, they
still are. Rests on R464, R44, R282. -/
def Obligations.EveryCommandRuns : Prop :=
  ∀ (c : Instr) (s : State), ∃ t, exec c s = .next t ∧ t.pending = s.pending ∧ s.out <+: t.out ∧ s.draws ≤ t.draws ∧
    s.vlt.store.retired <+: t.vlt.store.retired ∧ s.vlt.store.minVersion.toNat ≤ t.vlt.store.minVersion.toNat ∧
    (s.canonical = true ∧ s.floorLegal = true → t.canonical = true ∧ t.floorLegal = true)

/-- No command removes a retirement record. Whatever command runs, and while none waits, every retirement record of the
persistent store stays where it is; new ones are added after it. Rests on R464. -/
def Obligations.RetirementsStay : Prop :=
  ∀ s t : State, step s = .next t → s.vlt.store.retired <+: t.vlt.store.retired

/-- The minimum image version never decreases. No step lowers the minimum acceptable image version of the persistent
store. Rests on R44, R261. -/
def Obligations.MinimumVersionNeverFalls : Prop :=
  ∀ s t : State, step s = .next t → s.vlt.store.minVersion.toNat ≤ t.vlt.store.minVersion.toNat

/-- Commands are taken first in, first out, and outputs are only added. A step that goes on takes exactly the command at
the front of the queue, and what the device has sent and the free values it has drawn only grow (the queue, the
outputs and the count of free values are the model's own, assumption log entries 2 to 4). Rests on R202, R271. -/
def Obligations.QueueIsFifo : Prop :=
  ∀ s t : State, step s = .next t → t.pending = s.pending.tail ∧ s.out <+: t.out ∧ s.draws ≤ t.draws

/-- Reset inputs move the device between its states. PORST_N release takes OFF to GHOST; PORST_N assertion takes any state
to OFF, keeping flash and the persistent store; the stable ghost light starts LOADING with cause PORST; WARM_N
assertion (where no counter checkpoint is being written, which a reset may tear) resets all but the ghost light and
the persistent store and enters GHOST; its release in GHOST enters LOADING with cause WARM. Rests on R49, R50, R51. -/
def Obligations.ResetInputs : Prop :=
  (∀ s : State, s.dev.state = .OFF → s.pins.tamper = false → ∃ t, exec .porstNRelease s = .next t ∧ t.dev.state = .GHOST ∧
    t.dev.settling = !s.pins.testEn ∧ t.dev.testHeld = s.pins.testEn ∧ t.pins.porst = false ∧ t.clk = {} ∧ t.flashA = s.flashA ∧
    t.flashB = s.flashB ∧ t.vlt = s.vlt ∧ t.mem = s.mem ∧ t.ctrs = s.ctrs) ∧
  (∀ s u : State, u = s.tearCheckpoints → exec .porstNAssert s = .next { State.reset with
    pending := u.pending, out := u.out, draws := u.draws, pins := { s.pins with porst := true }, flashA := u.flashA, flashB := u.flashB,
    vlt := { store := u.vlt.store, erasing := u.vlt.erasing } }) ∧
  (∀ s : State, (∀ x ∈ s.cph.ctxs, x.2.writing = none) → s.tearCheckpoints = s) ∧
  (∀ s : State, s.dev.state = .GHOST → s.dev.settling = true → s.pins.warm = false → s.pins.internalWarm = false →
    ∃ t, exec .ghostLightStable s = .next t ∧ t.dev = { s.dev with state := .LOADING, cause := .PORST, step := .selfTest, settling := false } ∧
      t.regs = s.regs ∧ t.ctrs = s.ctrs ∧ t.vlt.store = s.vlt.store ∧ t.mem = s.mem) ∧
  (∀ s : State, s.dev.state ≠ .OFF → (∀ x ∈ s.cph.ctxs, x.2.writing = none) → ∃ t, exec .warmNAssert s = .next t ∧ t.dev.state = .GHOST ∧ t.pins = { s.pins with warm := true } ∧
    t.clk = { s.clk with step := none } ∧ t.vlt.store = s.vlt.store ∧ t.flashA = s.flashA ∧ t.flashB = s.flashB ∧ t.mem = {} ∧ t.tbl = {} ∧
    t.swc = {} ∧ t.prt = {} ∧ t.pwr = {} ∧ t.cph = {} ∧ t.slc = {} ∧ t.qrg = {} ∧ t.trp = {} ∧ t.rdn = {} ∧
    (s.canonical = true → ∀ r i, keptWarm r = false → t.reg r i = r.resetAt (i % 16777216)) ∧
    (∀ r i, keptWarm r = false → t.ctr r i = 0) ∧ (s.canonical = true → ∀ r i, keptWarm r = true → t.ctr r i = s.ctr r i)) ∧
  (∀ s : State, s.dev.state = .GHOST → s.pins.warm = true → s.dev.testHeld = false → s.coolEnough = true →
    ∃ t, exec .warmNRelease s = .next t ∧ t.dev.state = .LOADING ∧ t.dev.cause = .WARM ∧ t.dev.step = .selfTest ∧ t.pins.warm = false ∧
      t.ctrs = s.ctrs ∧ t.vlt.store = s.vlt.store ∧ t.mem = s.mem)

/-- The steps of LOADING. A failed pre-operational self-test curtains the device with cause SELFTEST_FAIL and a pass moves
on to the slot headers; among the slots that pass the one of higher version is chosen, slot A when the versions are
equal; with none the device enters recovery; the early identity starts configuration space; the body moves the device
to STAGE and raises the minimum version. Rests on R41, R42, R43, R44, R51, R52. -/
def Obligations.LoadingSteps : Prop :=
  (∀ (s : State) pass bad copies, s.atStep .selfTest = true → pass = false ∨ criticalLost copies = true →
    ∃ t, exec (.loadingSelfTestDone pass ⟨bad, copies⟩) s = .next t ∧ t.dev.state = .CURTAIN ∧
    t.dev.cause = .SELFTEST_FAIL ∧ t.dev.step = .idle) ∧
  (∀ s : State, s.atStep .selfTest = true → s.vlt.store.retired = [] →
    s.vlt.store.counters = [] → s.vlt.store.countersB = [] →
    exec (.loadingSelfTestDone true ⟨[], []⟩) s = .next { s with dev := { s.dev with step := .headers } }) ∧
  (∀ (s : State) bad copies, s.atStep .selfTest = true → criticalLost copies = false → ∃ t, exec (.loadingSelfTestDone true ⟨bad, copies⟩) s = .next t ∧
    (t.dev.state = .LOADING → t.dev.step = .headers)) ∧
  (∀ (s : State) (ea eb va vb : Bool), s.atStep .headers = true → va = (decide (s.slotReason false ea = 0) && !s.dev.failedA) →
    vb = (decide (s.slotReason true eb = 0) && !s.dev.failedB) → ∃ t, exec (.slotHeadersRead ea eb) s = .next t ∧
      t.dev.reasonA = BitVec.ofNat 8 (s.slotReason false ea) ∧ t.dev.reasonB = BitVec.ofNat 8 (s.slotReason true eb) ∧
      (if va || vb then t.dev.state = .LOADING ∧ t.dev.step = .early ∧ s.draws ≤ t.draws ∧ t.regs = s.regs ∧ t.ctrs = s.ctrs ∧
          t.flashA = s.flashA ∧ t.flashB = s.flashB ∧ t.mem = s.mem ∧ t.dev.slotB = (if va && vb then decide (imgVersion (s.slotHeader false) < imgVersion (s.slotHeader true)) else vb)
       else t.dev.state = .CURTAIN ∧ t.dev.cause = .NO_IMAGE)) ∧
  (∀ s : State, s.atStep .early = true → s.dev.earlyUp = false → ∃ t, exec (.earlyIdentityVerified false) s = .next t ∧
    match earlySection (s.slotHeader s.dev.slotB) (s.slotBody s.dev.slotB) with
    | some _ => t.dev = { s.dev with earlyUp := true, detect := false, step := .body } ∧ t.pins = s.pins
    | none => t = s.slotFails 0x0B) ∧
  (∀ s : State, s.atStep .early = true → exec (.earlyIdentityVerified true) s = .next (s.slotFails 0x0D)) ∧
  (∀ s : State, s.atStep .body = true → exec (.imageBodyVerified true) s = .next (s.slotFails 0x0D)) ∧
  (∀ s : State, s.atStep .body = true → ∃ t, exec (.imageBodyVerified false) s = .next t ∧
    match imageSections (s.slotHeader s.dev.slotB) (s.slotBody s.dev.slotB) with
    | none => t = s.slotFails 0x0C
    | some xs => (s.applyImage (s.slotHeader s.dev.slotB) xs).dev.state = .LOADING →
        (s.applyImage (s.slotHeader s.dev.slotB) xs).vlt.store.zeroised = false → t.dev.state = .STAGE ∧ t.dev.step = .idle ∧
        t.dev.imageVersion = BitVec.ofNat 32 (imgVersion (s.slotHeader s.dev.slotB)) ∧
        t.vlt.store.minVersion = BitVec.ofNat 32
          (max (s.applyImage (s.slotHeader s.dev.slotB) xs).vlt.store.minVersion.toNat (imgFloor (s.slotHeader s.dev.slotB))))

/-- Recovery and staging sessions. In recovery the announce timer sends ANNOUNCE; an OFFER whose header passes opens a
session and erases the whole of slot A, one that fails is answered with its reason, and one of another station is
answered BUSY; a CHUNK at the expected offset is written to the target slot and acknowledged, any other is answered
with the expected offset; END writes the signature block and then the header, and a recovery session whose slot passes
restarts the device with cause RECOVERED, a session that fails reports its reason; an idle session is closed and its
slot left BLANK. Rests on R45, R46, R47, R60. -/
def Obligations.RecoveryMessages : Prop :=
  (∀ s : State, s.inRecovery = true → exec .announceTimer s = .next (s.sendMgmt 0x01 none (toLE 8 Config.serial.toNat ++ [0xB0#8] ++
    toLE 4 s.vlt.store.minVersion.toNat ++ [s.dev.reasonA, s.dev.reasonB] ++ toLE 8 s.dev.nonce.toNat))) ∧
  (∀ (s : State) n h b, h.length = 256 → b.length = 4736 → s.inRecovery = true → s.dev.session = none →
    exec (.offer n h b) s = .next (if s.headerReason s.flashA.capacity true h b = 0 then { s with
        flashA := s.flashA.erase s.flashA.capacity
        dev := { s.dev with reasonA := 1, session := some { recovery := true, slotB := false, station := some n, header := h, sigblock := b, movedAt := s.elapsed } } }
      else s.sendMgmt 0x06 (some n) (toLE 1 (s.headerReason s.flashA.capacity true h b)))) ∧
  (∀ (s : State) n h b x, h.length = 256 → b.length = 4736 → s.inRecovery = true → s.dev.session = some x → x.station ≠ some n →
    exec (.offer n h b) s = .next (State.sendMgmt { s with dev := { s.dev with stagingResult := 0x80 } } 0x04 (some n) (toLE 1 0x80))) ∧
  (∀ (s : State) n (o : BitVec 32) d x, 1 ≤ d.length → d.length ≤ 1024 → s.dev.session = some x → x.station = some n → (x.recovery = true → s.inRecovery = true) → o.toNat = x.next →
    0x100 + x.next + d.length ≤ imgSigOffset x.header → 
    exec (.chunk n o d) s = .next ((({ s with dev := { s.dev with session := some { x with next := x.next + d.length, movedAt := s.elapsed } } }).setFlash x.slotB
      ((s.flash x.slotB).program (0x100 + x.next) d)).sendMgmt 0x04 (some n) (toLE 4 (x.next + d.length)))) ∧
  (∀ (s : State) n (o : BitVec 32) d x, 1 ≤ d.length → d.length ≤ 1024 → s.dev.session = some x → x.station = some n → (x.recovery = true → s.inRecovery = true) → o.toNat ≠ x.next →
    exec (.chunk n o d) s = .next (State.sendMgmt { s with dev := { s.dev with session := some { x with movedAt := s.elapsed } } } 0x04 (some n) (toLE 4 x.next))) ∧
  (∀ (s u : State) n e x, s.dev.session = some x → x.station = some n → (x.recovery = true → s.inRecovery = true) → 
    u = { s.setFlash x.slotB (((s.flash x.slotB).program (imgSigOffset x.header) x.sigblock).program 0 x.header) with
      dev := { s.dev with session := none } } →
    exec (.endMessage ⟨n, e⟩) s = .next (if x.recovery = true ∧ u.checkSlot x.slotB e = 0 then (u.setReason x.slotB 0).reload .RECOVERED
      else State.sendMgmt { u.setReason x.slotB (u.checkSlot x.slotB e) with
        dev := { (u.setReason x.slotB (u.checkSlot x.slotB e)).dev with
          stagingDone := true
          stagingResult := BitVec.ofNat 8 (u.checkSlot x.slotB e) } } 0x06 (some n) (toLE 1 (u.checkSlot x.slotB e)))) ∧
  (∀ (s : State) x, s.dev.session = some x → x.movedAt + 10000000000 ≤ s.elapsed → exec .stagingSessionIdle s = .next { s with
    dev := if x.slotB then { s.dev with session := none, reasonB := 1 } else { s.dev with session := none, reasonA := 1 } })

/-- Amendments and their records. A lead CPC unit that runs its firmware checks an amendment whole and either applies its
records in order or answers with the status of the check; during a switch-over gap the amendment is held. A register
record writes through its gate and answers with the register's status; a SECTION record applies a section; QUERY
answers with the words read; RESTART and SLEEP answer first, then write the counter records clean and leave. Rests on
R55, R56, R57, R59, R255. -/
def Obligations.Amendments : Prop :=
  (∀ (s : State) o m, s.cpcRuns = true → s.leadActs = true → exec (.amendment o m) s = .next (
    if (s.checkAmendment m).1 = Code.OK then
      State.runRecords { s with dev := { s.dev with amendSeq := BitVec.ofNat 64 (leAt m 0x18 8) } } o (leAt m 0x18 8) (s.checkAmendment m).2
    else s.replyTo o (leAt m 0x18 8) (s.checkAmendment m).1 0xFFFF [])) ∧
  (∀ (s : State) o m, s.cpcRuns = true → s.leadActs = false →
    exec (.amendment o m) s = .next { s with dev := { s.dev with held := s.dev.held ++ [(o, m)] } }) ∧
  (∀ (s u : State) o (a m v : BitVec 32) c, s.cpcRuns = true → s.leadActs = true → a.toNat % 4 = 0 → s.targetCode a.toNat false = Code.OK →
    s.regWrite a.toNat false m.toNat v.toNat = (c, u) →
    exec (.regwrite o a m v) s = .next (u.replyTo o s.dev.amendSeq.toNat c (if c = Code.OK then 0xFFFF else 0) [])) ∧
  (∀ (s u : State) o (a : BitVec 32) (m v : BitVec 64) c, s.cpcRuns = true → s.leadActs = true → a.toNat % 8 = 0 →
    s.targetCode a.toNat true = Code.OK → s.regWrite a.toNat true m.toNat v.toNat = (c, u) →
    exec (.regwrite64 o a m v) s = .next (u.replyTo o s.dev.amendSeq.toNat c (if c = Code.OK then 0xFFFF else 0) [])) ∧
  (∀ (s u : State) o (t v : BitVec 16) b c, s.cpcRuns = true → s.leadActs = true → t.toNat ∈ [2, 3, 4, 5, 6, 10] → v.toNat / 256 = 1 →
    s.amendSection t.toNat v.toNat b = (c, u) →
    exec (.sectionRecord o t v b) s = .next (u.replyTo o s.dev.amendSeq.toNat c (if c = Code.OK then 0xFFFF else 0) [])) ∧
  (∀ (s : State) o, s.cpcRuns = true → s.leadActs = true → s.dev.cause ≠ .ZEROIZE → exec (.restartRecord o) s =
    .next (((s.replyTo o s.dev.amendSeq.toNat Code.OK 0xFFFF []).cleanRecords.shutModules.warmReset).startLoading .RESTART)) ∧
  (∀ (s : State) o, s.dev.state = .STAGE → s.leadActs = true → exec (.sleepRecord o) s =
    .next ((s.replyTo o s.dev.amendSeq.toNat Code.OK 0xFFFF []).cleanRecords.shutModules.warmReset)) ∧
  (∀ (s : State) o h b, s.cpcRuns = true → s.leadActs = true → h.length = 256 → b.length = 4736 → s.dev.session = none →
    exec (.stageImage o h b) s = .next (if s.headerReason (s.flash !s.dev.slotB).capacity true h b = 0 then
        (s.openSession false (!s.dev.slotB) (stationOf o) h b).replyTo o s.dev.amendSeq.toNat Code.OK 0xFFFF []
      else (State.sendResult { s with dev := { s.dev with
          stagingDone := true
          stagingResult := BitVec.ofNat 8 (s.headerReason (s.flash !s.dev.slotB).capacity true h b) } } (stationOf o)
        (s.headerReason (s.flash !s.dev.slotB).capacity true h b)).replyTo o s.dev.amendSeq.toNat Code.AUTH_FAIL 0 [])) ∧
  (∀ (s u : State) o (as : List (BitVec 32)) d, s.cpcRuns = true → s.leadActs = true → as.length ≤ 256 →
    s.queryRead (as.map BitVec.toNat) = (d, u) →
    exec (.query o as) s = .next (u.replyTo o s.dev.amendSeq.toNat Code.OK 0xFFFF d))

/-- Writes of the control map. A 32-bit write of a 32-bit register, or a 64-bit write of a 64-bit register, by a requester
of the control map reaches the register through its checks; a 32-bit write of a low half is held in the requester's
buffer and the matching high half completes the register in one write; any other access first discards a buffered half
as SPLIT; a narrow or misaligned write is dropped and recorded as WIDTH, a write of a reserved address as UNMAPPED. A
slow write is posted and the bridge performs it later. Rests on R63, R66, R68, R73. -/
def Obligations.ControlMapWrites : Prop :=
  (∀ (s : State) r (a : BitVec 32) v t, s.mapAnswers = true → (∀ h l, r ≠ .pf0 h l) → (∀ n, r ≠ .slice n) → s.bufferOf r = none →
    a.toNat % 4 = 0 → s.spotOf r a.toNat = .reg t → t.reg.info.wide = false → exec (.registerWrite r a .b4 v) s =
      .next (s.writeReg r t.reg t.idx 0 (BitVec.ofNat 64 (v.toNat % 2 ^ 32)) lowMask)) ∧
  (∀ (s : State) r (a : BitVec 32) v t, s.mapAnswers = true → (∀ h l, r ≠ .pf0 h l) → (∀ n, r ≠ .slice n) → s.bufferOf r = none →
    a.toNat % 8 = 0 → s.spotOf r a.toNat = .reg t → t.reg.info.wide = true → exec (.registerWrite r a .b8 v) s =
      .next (s.writeReg r t.reg t.idx 0 v wholeMask)) ∧
  (∀ (s : State) r (a : BitVec 32) v t, s.mapAnswers = true → (∀ h l, r ≠ .pf0 h l) → (∀ n, r ≠ .slice n) → s.bufferOf r = none →
    a.toNat % 8 = 0 → s.spotOf r a.toNat = .reg t → t.reg.info.wide = false → exec (.registerWrite r a .b8 v) s =
      .next ((s.write4 r a.toNat a.toNat (v.toNat % 2 ^ 32)).write4 r (a.toNat + 4) (a.toNat + 4) (v.toNat / 2 ^ 32))) ∧
  (∀ (s : State) r (a : BitVec 32) v t, s.mapAnswers = true → (∀ h l, r ≠ .pf0 h l) → (∀ n, r ≠ .slice n) → s.bufferOf r = none →
    a.toNat % 4 = 0 → s.spotOf r a.toNat = .reg t → t.reg.info.wide = true → t.high = false → exec (.registerWrite r a .b4 v) s =
      .next (s.setBuffer r (some (a.toNat, BitVec.ofNat 32 (v.toNat % 2 ^ 32))))) ∧
  (∀ (s : State) r (a : BitVec 32) v t (b : Nat) low, s.mapAnswers = true → (∀ h l, r ≠ .pf0 h l) → (∀ n, r ≠ .slice n) →
    s.bufferOf r = some (b, low) → b + 4 = a.toNat → a.toNat % 4 = 0 → s.spotOf r a.toNat = .reg t → t.reg.info.wide = true → t.high = true →
    exec (.registerWrite r a .b4 v) s =
      .next ((s.setBuffer r none).writeReg r t.reg t.idx 0 (BitVec.ofNat 64 (low.toNat + 2 ^ 32 * (v.toNat % 2 ^ 32))) wholeMask)) ∧
  (∀ (s : State) r (a : BitVec 32) v t, s.mapAnswers = true → (∀ h l, r ≠ .pf0 h l) → (∀ n, r ≠ .slice n) → s.bufferOf r = none →
    a.toNat % 4 = 0 → s.spotOf r a.toNat = .reg t → t.reg.info.wide = true → t.high = true → exec (.registerWrite r a .b4 v) s =
      .next (s.writeReg r t.reg t.idx 4 (BitVec.ofNat 64 (2 ^ 32 * (v.toNat % 2 ^ 32))) (wholeMask - lowMask))) ∧
  (∀ (s : State) r (a : BitVec 32) size v, s.mapAnswers = true → (∀ h l, r ≠ .pf0 h l) → (∀ n, r ≠ .slice n) → s.bufferOf r = none →
    words a.toNat size = none → exec (.registerWrite r a size v) s = .next (s.badAccess r a.toNat 2 true)) ∧
  (∀ (s : State) r (a : BitVec 32) v, s.mapAnswers = true → (∀ h l, r ≠ .pf0 h l) → (∀ n, r ≠ .slice n) → s.bufferOf r = none →
    a.toNat % 4 = 0 → s.spotOf r a.toNat = .nothing → exec (.registerWrite r a .b4 v) s = .next (s.badAccess r a.toNat 1 true)) ∧
  (∀ (s : State) r (a : BitVec 32) size v b low, s.mapAnswers = true → (∀ h l, r ≠ .pf0 h l) → (∀ n, r ≠ .slice n) →
    s.bufferOf r = some (b, low) → (size ≠ .b4 ∨ b + 4 ≠ a.toNat) → words a.toNat size = none → exec (.registerWrite r a size v) s =
      .next (((s.setBuffer r none).badAccess r (shownAddr r b) 4 true).badAccess r a.toNat 2 true)) ∧
  (∀ (s : State) b w, s.bridge b = some w → exec (.slowWritePerformed b) s =
    .next ((s.setBridge b none).performWrite (Requester.ofCode w.requester) w.reg w.idx w.value w.mask)) ∧
  (∀ (s : State) b, s.bridge b = none → exec (.slowWritePerformed b) s = .next s)

/-- Reads of the control map. A 32-bit read of the low half of a 64-bit register returns it and loads the requester's
half-latch with the high half of the same value; a high-half read returns the latched value and clears the tag, or the
live half where the latch is not tagged with that register; a whole read of a counter returns it and clears it, a
count arriving in the same cycle standing as the first after it; a slow read without data returns all ones and is
recorded as READ_TIMEOUT. Rests on R67, R69, R70, R75. -/
def Obligations.ControlMapReads : Prop :=
  (∀ (s : State) r (a : BitVec 32) t, s.mapAnswers = true → (∀ h l, r ≠ .pf0 h l) → (∀ n, r ≠ .slice n) → s.bufferOf r = none →
    a.toNat % 4 = 0 → s.spotOf r a.toNat = .reg t → t.reg.info.wide = true → bridgeOf t.reg = none → State.domainOfReg t.reg t.idx = none → countsWire t.reg = false →
    t.high = false → exec (.halfLatchRead r a) s =
      .next (((s.readEffect r t.reg t.idx true false).setLatch r (some (a.toNat, BitVec.ofNat 32 ((s.readReg r t.reg t.idx).toNat / 2 ^ 32)))).emit
        (.value r.code a.toNat (BitVec.ofNat 64 ((s.readReg r t.reg t.idx).toNat % 2 ^ 32))))) ∧
  (∀ (s : State) r (a : BitVec 32) t b h, s.mapAnswers = true → (∀ h l, r ≠ .pf0 h l) → (∀ n, r ≠ .slice n) → s.bufferOf r = none →
    a.toNat % 4 = 0 → s.spotOf r a.toNat = .reg t → t.reg.info.wide = true → bridgeOf t.reg = none → State.domainOfReg t.reg t.idx = none → countsWire t.reg = false →
    t.high = true → s.latchOf r = some (b, h) → exec (.halfLatchRead r a) s =
      .next (if b + 4 = a.toNat then ((s.readEffect r t.reg t.idx false true).setLatch r none).emit (.value r.code a.toNat (BitVec.ofNat 64 h.toNat))
        else (s.readEffect r t.reg t.idx false true).emit
          (.value r.code a.toNat (BitVec.ofNat 64 ((s.readReg r t.reg t.idx).toNat / 2 ^ 32))))) ∧
  (∀ (s : State) r (a n : BitVec 32) t, s.mapAnswers = true → (∀ h l, r ≠ .pf0 h l) → (∀ n, r ≠ .slice n) → s.bufferOf r = none →
    a.toNat % 8 = 0 → s.spotOf r a.toNat = .reg t → s.targetOf r a.toNat = some t → t.reg.info.wide = true →
    bridgeOf t.reg = none → State.domainOfReg t.reg t.idx = none → countsWire t.reg = false →
    t.reg ∉ [.PRT_TX_TS_TAG, .MGT_TIME_NOW, .MGT_PPS_CAPTURE, .SWC_CTR_FRAMES, .SWC_CTR_OCTETS] →
    t.reg.info.fields.all (fun f => f.access == .RC) = true → exec (.counterReadClear r a true n) s =
      .next (((s.setCtr t.reg t.idx 0).emit (.value r.code a.toNat (s.readReg r t.reg t.idx))).bumpBy t.reg t.idx n.toNat)) ∧
  (∀ (s : State) r (a : BitVec 32) t b, s.readsReach r = true → a.toNat % 4 = 0 → s.targetOf r a.toNat = some t →
    bridgeOf t.reg = some b → s.bufferOf r = none → s.bridge b = none → exec (.slowReadTimeout r a false) s =
      .next (((s.setReg (bridgeStatus b) 0 (BitVec.ofNat 64 (setBits (s.reg (bridgeStatus b) 0).toNat 2 1 1))).badAccess r a.toNat 5 false).emit
        (.value r.code a.toNat (allOnes .b4))))

/-- Who may write what: lead, understudy and the commit gates. A write of the lead CPC unit is admitted without side
effect where its register lies in no slow block and no switched domain; a CPC unit that is not lead has its writes
outside RDN, CBD and its local window dropped and counted; the map takes no access to KEY but from a vault, and no
write to FLT or RDN_CFG but from the lead CPC; a gate refuses a Troupe core whose cluster lacks CTRL_WRITE, counts the
refusal and latches it when the latch is free; PF0 may write only its own port's link control. Rests on R86, R398,
R412, R413, R414. -/
def Obligations.CommitGates : Prop :=
  (∀ (s : State) (u : Fin 2) c reg i, s.mapAnswers = true → s.isLead u.val = true → s.rdn.before = [] → reg.info.block ≠ .KEY →
    bridgeOf reg = none → State.domainOfReg reg i = none → ∀ o, s.admitChecked (.cpc u c) reg i o = (true, s)) ∧
  (∀ (s : State) (u : Fin 2) c (reg : RegName) i, s.mapAnswers = true → s.isLead u.val = false → reg.info.block ∉ [.KEY, .RDN, .CBD, .LOCAL] →
    ∀ o, s.admitChecked (.cpc u c) reg i o = (false, s.bump .RDN_UNDERSTUDY_DROP 0)) ∧
  (∀ (s : State) (u : Fin 2) c (a : BitVec 32) v t, s.mapAnswers = true → s.isLead u.val = false → s.bufferOf (.cpc u c) = none → a.toNat % 4 = 0 →
    s.spotOf (.cpc u c) a.toNat = .reg t → t.reg.info.wide = false → t.reg.info.block ∉ [.KEY, .RDN, .CBD, .LOCAL] →
    exec (.registerWrite (.cpc u c) a .b4 v) s = .next (s.bump .RDN_UNDERSTUDY_DROP 0)) ∧
  (∀ (s : State) n k t (reg : RegName) i g, s.mapAnswers = true → reg.info.block ≠ .KEY → leadOnly reg = false → gateOf reg = some g →
    s.flagAt Fld.TRP_CLUSTER_CFG_CTRL_WRITE n.val = false →
    ∀ o, s.admitChecked (.troupe n k t) reg i o = (false, s.gateRefused (.troupe n k t) g (addrOf reg i + o))) ∧
  (∀ (s : State) r g a, s.canonical = true → (s.gateRefused r g a).ctr .RDN_GATE_REFUSED g = BitVec.ofNat 64 (min ((s.ctr .RDN_GATE_REFUSED g).toNat + 1)
      (2 ^ 64 - 1)) ∧ (s.flagAt Fld.RDN_REFUSED_LAST_VALID 0 = true → (s.gateRefused r g a).regs = s.regs) ∧
    (s.flagAt Fld.RDN_REFUSED_LAST_VALID 0 = false → (s.gateRefused r g a).reg .RDN_REFUSED_LAST 0 =
      BitVec.ofNat 64 (a % 2 ^ 32 + r.code * 2 ^ 32 + g * 2 ^ 48 + 2 ^ 63))) ∧
  (∀ (s : State) r (a : BitVec 32) v, s.mapAnswers = true → (∀ h l, r ≠ .pf0 h l) → (∀ n, r ≠ .slice n) → (∀ u, r ≠ .vault u) →
    blockAt a.toNat = some .KEY → a.toNat % 4 = 0 → s.bufferOf r = none → exec (.registerWrite r a .b4 v) s =
      .next (s.badAccess r a.toNat 3 true)) ∧
  (∀ (s : State) h l (reg : RegName) i, s.mapAnswers = true → s.dev.state ≠ .LOADING → pf0Writes h.val reg i = false →
    ∀ o, s.admitChecked (.pf0 h l) reg i o = (false, s.badAccess (.pf0 h l) (shownAddr (.pf0 h l) (addrOf reg i + o)) 6 true))

/-- Voted fields. Where one of three like copies of a voted field comes to hold another word, it is rewritten from the
other two, counted in FLT_VOTE_CORRECTED, reported as a corrected error of its register group, and the group is
scrubbed; a write of the field in the same cycle stores all three copies and nothing is counted; a scrub compares each
voted field whose copies differ, and one that ends closes the group's test with a pass; where no two copies agree, the
field reads zero and the owning scope is curtained: the device by a FATAL error, another scope by a CONTAINED one.
Rests on R80, R81, R82, R83. -/
def Obligations.VotedFields : Prop :=
  (∀ (s u : State) f i c x, votedField f i = true → s.vote.broken.contains ⟨f.reg, i, f.lo⟩ = false → s.dev.state ≠ .OFF →
    (∀ y ∈ s.vote.differ, y.at_ ≠ ⟨f.reg, i, f.lo⟩) → x ≠ s.votedValue ⟨f.reg, i, f.lo⟩ → u = (s.upset ⟨f.reg, i, f.lo⟩ c x).healVoted (· == ⟨f.reg, i, f.lo⟩) →
    exec (.voteOneDisagree f i ⟨c, x⟩ false) s = .next (((u.bump .FLT_VOTE_CORRECTED 0).elementError
      { cls := .corrected, kind := .registerGroup, index := groupIndex (votePage (FieldAt.pos ⟨f.reg, i, f.lo⟩) i), cause := 3, scope := none, detail := 0,
        hit := .nothing }).scrubGroup (votePage (FieldAt.pos ⟨f.reg, i, f.lo⟩) i))) ∧
  (∀ (s : State) f i c x, votedField f i = true → exec (.voteOneDisagree f i ⟨c, x⟩ true) s = .next s) ∧
  (∀ (s u : State) (page : BitVec 20), s.vote.scrubs.contains (groupIndex page.toNat).toNat = true →
    u = ((s.vote.differ.map (·.at_)).filter (fun f => votePage f.pos f.idx == page.toNat)).foldl (fun t f => t.compareVoted f) s → exec (.groupScrubDone page) s =
    .next (State.selfTestEnds { u with vote := { u.vote with scrubs := u.vote.scrubs.filter (· != (groupIndex page.toNat).toNat) } }
      .registerGroup (groupIndex page.toNat) true true 0)) ∧
  (∀ s : State, exec .backgroundScrub s = .next ((s.vote.differ.map (·.at_)).foldl (fun t f => t.compareVoted f) s)) ∧
  (∀ (s : State) f i x y, votedField f i = true → s.vote.broken.contains ⟨f.reg, i, f.lo⟩ = false → s.dev.state ≠ .OFF →
    (∀ z ∈ s.vote.differ, z.at_ ≠ ⟨f.reg, i, f.lo⟩) → x ≠ s.votedValue ⟨f.reg, i, f.lo⟩ → y ≠ s.votedValue ⟨f.reg, i, f.lo⟩ → x ≠ y →
    ∃ t u w : State, exec (.voteThreeDisagree f ⟨i, x, y⟩) s = .next t ∧ w = (s.upset ⟨f.reg, i, f.lo⟩ 1 x).upset ⟨f.reg, i, f.lo⟩ 2 y ∧
    u = { w with vote := { w.vote with broken := w.vote.broken ++ [⟨f.reg, i, f.lo⟩] } } ∧
    u.vote.broken.contains ⟨f.reg, i, f.lo⟩ = true ∧
    (∀ j, fieldScope ⟨f.reg, i, f.lo⟩ = some (.device, j) →
      t = u.fatal (deviceCauseOf 4) 4 .registerGroup (groupIndex (votePage (FieldAt.pos ⟨f.reg, i, f.lo⟩) i)) 0) ∧
    (∀ k, fieldScope ⟨f.reg, i, f.lo⟩ = k → (∀ j, k ≠ some (.device, j)) → (∀ j, k ≠ some (.key, j)) → t = u.elementError
      { cls := .contained, kind := .registerGroup, index := groupIndex (votePage (FieldAt.pos ⟨f.reg, i, f.lo⟩) i), cause := 4, scope := k, detail := 0,
        hit := .nothing }))

/-- Lane plans and landing-buffer shares of the optical engines. A plan stands exactly when every local port keeps its
placement rule and one port at least is defined; an admitted OPT_ENGINE_PLAN write of a plan that does not stand is
ignored as a whole with PLAN_REFUSED set, and of one that stands replans the ports whose type changes and no others,
then curtains those on retired lanes; an admitted OPT_LB_CELLS write that would take the engine over 6,144 cells is
ignored with PLAN_REFUSED set, and another sets that share alone. Rests on R88, R89, R91, R106. -/
def Obligations.EnginePlans : Prop :=
  (∀ n, planValid n = true ↔ (∀ j < 16, n / 2 ^ (4 * j) % 16 ≤ 4 ∧ (n / 2 ^ (4 * j) % 16 = 3 → j % 2 = 0 ∧ n / 2 ^ (4 * (j + 1)) % 16 = 0) ∧
    (n / 2 ^ (4 * j) % 16 = 4 → j % 4 = 0 ∧ ∀ i < 3, n / 2 ^ (4 * (j + 1 + i)) % 16 = 0)) ∧ ∃ j < 16, n / 2 ^ (4 * j) % 16 ≠ 0) ∧
  (∀ (s u : State) r (e : Fin 16) plan, s.admitWrite r .OPT_ENGINE_PLAN e.val = (true, u) → planValid plan.toNat = false →
    exec (.enginePlanWrite r e plan) s = .next (u.setFld Fld.OPT_ENGINE_STATUS_PLAN_REFUSED e 1)) ∧
  (∀ (s u : State) r (e : Fin 16) plan, s.admitWrite r .OPT_ENGINE_PLAN e.val = (true, u) → planValid plan.toNat = true →
    exec (.enginePlanWrite r e plan) s = .next (((((List.range 16).filter (fun j => (u.reg .OPT_ENGINE_PLAN e).toNat / 2 ^ (4 * j) % 16 !=
      plan.toNat / 2 ^ (4 * j) % 16)).map (16 * e.val + ·)).foldl (fun t p => (t.fallPort p).clearPause p) (u.setReg .OPT_ENGINE_PLAN e plan)).curtainRetired
      ((List.range 16).map (16 * e.val + ·)))) ∧
  (∀ (s u : State) r (e j : Fin 16) (v : BitVec 32), s.admitWrite r .OPT_LB_CELLS (16 * e.val + j.val) = (true, u) → 
    exec (.lbCellsWrite r e j v) s = .next (if 6144 < u.landingSum e j (v.toNat % 8192) then u.setFld Fld.OPT_ENGINE_STATUS_PLAN_REFUSED e 1
      else u.setFld Fld.OPT_LB_CELLS_CELLS (16 * e.val + j.val) (v.toNat % 8192)))

/-- Laser source modules. A module that becomes present in a running device is brought up with a challenge drawn and is
IDENTIFYING; its verification ends in REJECTED with the code of the first check that fails, the challenge going out
once the identity steps pass, and in READY when the challenge is met; no answer within 2 s is REJECTED with NO_ANSWER;
EJECT acts in READY only and RETRY in REJECTED only; the completed eject appends a life record and is EJECT_READY, as
24 h of READY appends one; removal leaves ABSENT and takes the engine's ports down; a failed channel is marked, its
lanes' ports go down, and a lasting fault is reported against the module; alarms are read over the bus mode in use.
Rests on R93, R94, R95, R96, R97, R98, R99. -/
def Obligations.LaserModules : Prop :=
  (∀ (s u : State) (e : Fin 16), (s.lsm e).state = .ABSENT → s.mapAnswers = true →
    u = { s with pins := { s.pins with lsmPresent := BitVec.ofNat 16 (setBits s.pins.lsmPresent.toNat e 1 1) } } → exec (.lsmInsertion e) s =
    .next (((u.drbg 32).2.setLsm e { state := .IDENTIFYING, challenge := (u.drbg 32).1, begun := u.elapsed }).emit (.setDasa e 0x50))) ∧
  (∀ (s : State) (v : LsmVerify), (s.identityVerdict v = 0 ↔ leAt v.identity 0 2 = 1 ∧ leAt v.identity 0x20 4 = (crc32c 0 (v.identity.take 32)).toNat ∧
    leAt v.identity 0x14 2 = 1 ∧ 1 ≤ v.certLength.toNat ∧ v.certLength.toNat ≤ 2048 ∧ v.cert.length = v.certLength.toNat ∧
    (∃ r ∈ s.vlt.lsmRoots, Config.chainVerify r v.cert = true) ∧ Config.certSubject v.cert = slice v.identity 2 18) ∧
    s.identityVerdict v ≠ 1 ∧ s.identityVerdict v ≤ 5) ∧
  (∀ (s : State) (e : Fin 16) v, (s.lsm e).state = .IDENTIFYING → s.identityVerdict v ≠ 0 →
    exec (.lsmVerifyDone e v) s = .next (s.setLsm e { s.lsm e with state := .REJECTED, reject := BitVec.ofNat 4 (s.identityVerdict v), i2c := v.i2c })) ∧
  (∀ (s : State) (e : Fin 16) v, (s.lsm e).state = .IDENTIFYING → s.identityVerdict v = 0 → s.challengeMet e v = false →
    exec (.lsmVerifyDone e v) s = .next ((s.emit (.challenge e (s.lsm e).challenge)).setLsm e
      { s.lsm e with state := .REJECTED, reject := 6, i2c := v.i2c })) ∧
  (∀ (s : State) (e : Fin 16) v, (s.lsm e).state = .IDENTIFYING → s.identityVerdict v = 0 → s.challengeMet e v = true →
    ∃ t, exec (.lsmVerifyDone e v) s = .next t ∧ (t.lsm e).state = .READY ∧ (t.lsm e).reject = 0 ∧ (t.lsm e).i2c = v.i2c ∧
      (t.lsm e).history = (v.log.filter lifeOk).map lifeOf ∧
      (t.lsm e).rated.toNat = leAt v.identity 0x18 4 % 2 ^ 32 ∧ (t.lsm e).since = s.elapsed ∧ t.swc = s.swc ∧ t.rdn = s.rdn) ∧
  (∀ (s : State) (e : Fin 16), (s.lsm e).state = .IDENTIFYING → (s.lsm e).begun + 2000000000 ≤ s.elapsed →
    exec (.lsmNoAnswer e) s = .next (s.setLsm e { s.lsm e with state := .REJECTED, reject := 1, i2c := true })) ∧
  (∀ (s : State) (e : Fin 16), exec (.lsmRemoval e) s = .next (((List.range 16).foldl (fun (t : State) j => t.portDown (16 * e.val + j))
    { s with pins := { s.pins with lsmPresent := BitVec.ofNat 16 (setBits s.pins.lsmPresent.toNat e 1 0) } }).setLsm e {})) ∧
  (∀ (s u : State) r (e : Fin 16), s.admitWrite r .OPT_LASER_CTRL e = (true, u) → u.canonical = true →
    exec (.eject r e) s = .next (if (u.lsm e).state = .READY then u.setLsm e { u.lsm e with state := .EJECTING } else u) ∧
    exec (.retry r e) s = .next (if (u.lsm e).state = .REJECTED then (((u.drbg 32).2.setLsm e
      { u.lsm e with state := .IDENTIFYING, reject := 0, challenge := (u.drbg 32).1, begun := u.elapsed }).emit (.setDasa e 0x50)) else u)) ∧
  (∀ (s : State) (e : Fin 16) h b m, (s.lsm e).state = .EJECTING → exec (.ejectComplete e h b m) s =
    .next ((s.appendLife e h b m).setLsm e { (s.appendLife e h b m).lsm e with state := .EJECT_READY })) ∧
  (∀ (s : State) (e : Fin 16) h b m, (s.lsm e).state = .READY → exec (.lifeRecordTimer e h b m) s = .next (s.appendLife e h b m)) ∧
  (∀ (s : State) (e : Fin 16) h b m, ((s.appendLife e h b m).lsm e).hours = h ∧ ((s.appendLife e h b m).lsm e).since = s.elapsed ∧
    ((s.appendLife e h b m).lsm e).history.getLast? = some { seq := ((s.lsm e).history.getLast?.map (fun r => r.seq + 1)).getD 0, hours := h, bias := b, temp := m } ∧
    (s.appendLife e h b m).swc = s.swc ∧ (s.appendLife e h b m).rdn = s.rdn) ∧
  (∀ (s w u : State) (e : Fin 16) (c : Fin 8), (s.lsm e).state ≠ .ABSENT → (s.lsm e).channelFault.getLsbD c = false →
    w = s.setLsm e { s.lsm e with channelFault := BitVec.ofNat 8 (setBits (s.lsm e).channelFault.toNat c 1 1) } →
    u = (((((List.range 16).map (16 * e.val + ·)).filter (fun p => (w.portLanes p).any (fun l => (l % 32) / 4 == c.val))).foldl (fun (t : State) p => t.portDown p)
      w).countError .contained).bump .FLT_LASTING 0 →
    exec (.laserChannelFault e c) s = .next ((u.writeRecord (u.recordOf 1 2 .none (BitVec.ofNat 32 e) 13 none (BitVec.ofNat 32 c))).alarm 0
      (u.recordOf 1 2 .none (BitVec.ofNat 32 e) 13 none (BitVec.ofNat 32 c)))) ∧
  (∀ (s : State) (e : Fin 16) a, (s.lsm e).state ≠ .ABSENT →
    exec (.lsmInBandInterrupt e a) s = .next (if (s.lsm e).i2c then s else (s.setLsm e { s.lsm e with alarm := a }).emit (.readAlarm e)) ∧
    exec (.lsmAlarmPoll e a) s = .next (if (s.lsm e).i2c then (s.setLsm e { s.lsm e with alarm := a }).emit (.readAlarm e) else s))

/-- Port configuration, flow control and link state. An admitted PRT_CONFIG write takes ENABLE, ignores a reserved
PAUSE_MODE and a MAX_FRAME outside 1,518 to 10,240 each alone, ends the port's frames and pause state where ENABLE
falls, and sends XON for all it holds before a new mode acts; an admitted PRT_PFC_WM write whose XON_LOW is not below
its XOFF_HIGH is ignored as a whole; XOFF is repeated while it holds; a received pause frame is ignored with a bad
FCS, obeyed where its kind is selected, else counted in PAUSE_RX; a pause time that ends releases its class or port;
an enabled port comes up unless curtained or under test, and going down ends its frames. Rests on R90, R91, R102,
R103, R104, R105, R116. -/
def Obligations.PortPause : Prop :=
  (∀ (s u : State) r (p : Fin 256) (v : BitVec 32), s.admitWrite r .PRT_CONFIG p = (true, u) → u.sleepingAt .PRT_CONFIG p = none → u.portType p ≠ 0 → v.toNat % 2 = 1 →
    v.toNat / 2 % 4 = 3 → v.toNat / 2 ^ 8 % 2 ^ 14 < 1518 ∨ 10240 < v.toNat / 2 ^ 8 % 2 ^ 14 →
    exec (.prtConfigWrite r p v) s = .next (u.setFld Fld.PRT_CONFIG_ENABLE p 1)) ∧
  (∀ (s u : State) r (p : Fin 256) (v : BitVec 32), s.admitWrite r .PRT_CONFIG p = (true, u) → u.sleepingAt .PRT_CONFIG p = none → u.portType p ≠ 0 → v.toNat % 2 = 1 →
    v.toNat / 2 % 4 = 3 → 1518 ≤ v.toNat / 2 ^ 8 % 2 ^ 14 → v.toNat / 2 ^ 8 % 2 ^ 14 ≤ 10240 → u.receiving p = [] →
    exec (.prtConfigWrite r p v) s = .next ((u.setFld Fld.PRT_CONFIG_ENABLE p 1).setFld Fld.PRT_CONFIG_MAX_FRAME p (v.toNat / 2 ^ 8 % 2 ^ 14))) ∧
  (∀ (s u : State) r (p : Fin 256) (v : BitVec 32), s.admitWrite r .PRT_CONFIG p = (true, u) → u.sleepingAt .PRT_CONFIG p = none → u.portType p ≠ 0 →
    u.flagAt Fld.PRT_CONFIG_ENABLE p = true → v.toNat % 2 = 0 → v.toNat / 2 % 4 = 3 → v.toNat / 2 ^ 8 % 2 ^ 14 < 1518 →
    exec (.prtConfigWrite r p v) s = .next (((u.setFld Fld.PRT_CONFIG_ENABLE p 0).fallPort p).clearPause p)) ∧
  (∀ (s u w : State) r (p : Fin 256) (v : BitVec 32), s.admitWrite r .PRT_CONFIG p = (true, u) → u.sleepingAt .PRT_CONFIG p = none → u.portType p ≠ 0 → v.toNat % 2 = 1 →
    v.toNat / 2 % 4 ≠ 3 → w = u.setFld Fld.PRT_CONFIG_ENABLE p 1 → v.toNat / 2 % 4 ≠ w.pauseMode p → 10240 < v.toNat / 2 ^ 8 % 2 ^ 14 →
    exec (.prtConfigWrite r p v) s = .next (((w.releaseAll p).setFld Fld.PRT_CONFIG_PAUSE_MODE p (v.toNat / 2 % 4)).pauseCheck p)) ∧
  (∀ (s u : State) r (p : Fin 256) (c : Fin 8) (v : BitVec 64), s.admitWrite r .PRT_PFC_WM (8 * p.val + c.val) = (true, u) → u.sleepingAt .PRT_PFC_WM (8 * p.val + c.val) = none → u.portType p ≠ 0 →
    ∃ x : BitVec 64, fieldOf x 0 20 = v.toNat % 2 ^ 20 ∧ fieldOf x 32 20 = v.toNat / 2 ^ 32 % 2 ^ 20 ∧ exec (.pfcWmWrite r p c v) s =
      .next (if v.toNat % 2 ^ 20 ≤ v.toNat / 2 ^ 32 % 2 ^ 20 then u else (u.setReg .PRT_PFC_WM (8 * p.val + c.val) x).pauseCheck p)) ∧
  (∀ (s : State) (p : Fin 256) (c : Fin 8), exec (.xoffRefresh p c) s = .next (if (s.port p).xoff.getLsbD c = true ∧
    SMap.get noTime (s.port p).xoffAt c + s.quantaTime p (s.fld Fld.PRT_PAUSE_TIME_QUANTA p) / 2 ≤ s.elapsed then s.sendPause p c true else s)) ∧
  (∀ (s w : State) (p : Fin 256) pfc en ts ok, s.portUsable p = true → w = (s.bump .PRT_RX_FRAMES p).bumpBy .PRT_RX_OCTETS p 64 →
    (ok = false → exec (.pauseFrameReceived p pfc en ts ok) s = .next (w.bump .PRT_RX_FCS_ERROR p)) ∧
    (ok = true → w.pauseMode p = 2 → exec (.pauseFrameReceived p true en ts ok) s =
      .next (w.setPort p { w.port p with classPaused := w.pfcClasses p en ts, ends := w.pfcEnds p en ts })) ∧
    (ok = true → w.pauseMode p = 1 → exec (.pauseFrameReceived p false en ts ok) s =
      .next (w.setPort p { w.port p with paused := ts.toNat % 2 ^ 16 != 0, ends := SMap.set noTime 8 (w.elapsed + w.quantaTime p (ts.toNat % 2 ^ 16)) (w.port p).ends })) ∧
    (ok = true → (w.pauseMode p = 2 → pfc = false) → (w.pauseMode p = 1 → pfc = true) → exec (.pauseFrameReceived p pfc en ts ok) s =
      .next (w.bump .PRT_PAUSE_RX p))) ∧
  (∀ (s : State) (p : Fin 256), SMap.get noTime (s.port p).ends 8 ≤ s.elapsed → exec (.pauseTimerExpiry p none) s = .next (s.setPort p { s.port p with paused := false })) ∧
  (∀ (s : State) (p : Fin 256) (c : Fin 8), SMap.get noTime (s.port p).ends c ≤ s.elapsed → exec (.pauseTimerExpiry p (some c)) s =
    .next (s.setPort p { s.port p with classPaused := BitVec.ofNat 8 (setBits (s.port p).classPaused.toNat c 1 0) })) ∧
  (∀ (s : State) (p : Fin 256), s.portType p ≠ 0 → s.flagAt Fld.PRT_CONFIG_ENABLE p = true → s.portCurtained p = false → s.laneTested p = false →
    exec (.networkLinkUp p) s = .next (s.setPort p { s.port p with linkUp := true })) ∧
  (∀ (s : State) (p : Fin 256), s.swc.frames.filter (fun x => x.incoming && x.inPort == p.val) = [] →
    s.swc.copies.filter (fun k => k.port == p.val && k.started) = [] → exec (.networkLinkDown p) s =
      .next (((s.dropQueued p).setPort p { (s.dropQueued p).port p with linkUp := false }).stackSilent p))

/-- Device time, time inputs and transmit timestamps. While no command waits, each step outside OFF advances device time
by 40 ns and FREQ parts of 2^-32 ns with the remainder kept (once GHOST_CLK is lost, plus the oscillator's error, a
free value), and adds a step that waits unless time would become negative, which sets STEP_REFUSED (that an idle step
is one tick is the model's choice, assumption log entry 2); an admitted MGT_TIME_STEP write waits for the next tick;
an edge of the selected polarity captures device time, overwriting an unread capture with LOST; received bytes enter a
FIFO of 64; reads of the captures, bytes and transmit timestamps remove what they read. Rests on R110, R111, R202,
R203, R204, R67, R70. -/
def Obligations.DeviceTime : Prop :=
  (∀ s : State, s.pending = [] → s.dev.state = .OFF → step s = .next s) ∧
  (∀ s : State, s.pending = [] → s.dev.state ≠ .OFF → s.flagAt Fld.GLT_CLOCK_STATUS_GHOST_LOST 0 = false → s.clk.step = none →
    ∃ c, step s = .next (State.claimsCount { s with clk := c }).judgeModules.coresTick.idleTick ∧
      c.fine = s.clk.fine + 40 * 2 ^ 32 + signed 32 (s.fld Fld.MGT_TIME_FREQ_FREQ 0) ∧ c.core = s.clk.core + 64 ∧ c.step = none) ∧
  (∀ (s : State) q, s.pending = [] → s.dev.state ≠ .OFF → s.flagAt Fld.GLT_CLOCK_STATUS_GHOST_LOST 0 = true → s.clk.step = none →
    q = 40 * 2 ^ 32 + signed 32 (s.fld Fld.MGT_TIME_FREQ_FREQ 0) + s.oscillatorError →
    ∃ c, step s = .next (State.claimsCount { s.drew with clk := c }).judgeModules.coresTick.idleTick ∧
      c.fine = max (s.clk.fine + q) 0 ∧ c.core = s.clk.core + 64 ∧ c.step = none) ∧
  (∀ (s : State) d, s.pending = [] → s.dev.state ≠ .OFF → s.flagAt Fld.GLT_CLOCK_STATUS_GHOST_LOST 0 = false → s.clk.step = some d → ∃ c, c.step = none ∧
    (0 ≤ s.clk.fine + 40 * 2 ^ 32 + signed 32 (s.fld Fld.MGT_TIME_FREQ_FREQ 0) + d * 2 ^ 32 →
      step s = .next (State.claimsCount { s with clk := c }).judgeModules.coresTick.idleTick ∧
      c.fine = s.clk.fine + 40 * 2 ^ 32 + signed 32 (s.fld Fld.MGT_TIME_FREQ_FREQ 0) + d * 2 ^ 32) ∧
    (s.clk.fine + 40 * 2 ^ 32 + signed 32 (s.fld Fld.MGT_TIME_FREQ_FREQ 0) + d * 2 ^ 32 < 0 →
      step s = .next (State.claimsCount (({ s with clk := c } : State).setFld Fld.MGT_TIME_STATUS_STEP_REFUSED 0 1)).judgeModules.coresTick.idleTick ∧
      c.fine = s.clk.fine + 40 * 2 ^ 32 + signed 32 (s.fld Fld.MGT_TIME_FREQ_FREQ 0))) ∧
  (∀ u : State, u.rdn.before = [] → u.claimsCount.judgeModules.coresTick.idleTick.clk = u.clk) ∧
  (∀ (s u : State) r ns, s.admitWrite r .MGT_TIME_STEP 0 = (true, u) → exec (.timeStep r ns) s =
    .next { u with clk := { u.clk with step := some (u.clk.step.getD 0 + ns.toInt) } }) ∧
  (∀ (s : State) (i : Fin 2) fall, s.mapAnswers = true → exec (.ppsEdge i fall) s = .next (if s.flagAt Fld.MGT_TIME_CFG_PPS_EDGE 0 = fall then
    (s.setTimeInput i { s.timeInput i with capture := s.now, valid := true, lost := (s.timeInput i).lost || (s.timeInput i).valid, seen := true, edgeAt := s.elapsed }).cpcEvent 5
    else s)) ∧
  (∀ (s : State) (i : Fin 2), (s.timeInput i).edgeAt + 1100000000 ≤ s.elapsed → exec (.ppsSeenExpiry i) s = .next (s.setTimeInput i { s.timeInput i with seen := false })) ∧
  (∀ (s : State) (i : Fin 2) b, s.mapAnswers = true → exec (.todByteReceived i b) s = .next (s.setTimeInput i
    (if (s.timeInput i).fifo.length < 64 then { s.timeInput i with fifo := (s.timeInput i).fifo ++ [b] } else { s.timeInput i with overflow := true }))) ∧
  (∀ (s : State) r (i : Fin 2), s.readsPlain r ⟨.MGT_PPS_CAPTURE, i, true⟩ (addrOf .MGT_PPS_CAPTURE i + 4) = true → exec (.ppsCaptureRead r i) s =
    .next ((s.setTimeInput i { s.timeInput i with valid := false, lost := false }).emit (.value r.code (addrOf .MGT_PPS_CAPTURE i + 4)
      (BitVec.ofNat 64 ((s.readReg r .MGT_PPS_CAPTURE i).toNat / 2 ^ 32))))) ∧
  (∀ (s : State) r (i : Fin 2), s.readsPlain r ⟨.MGT_TOD_DATA, i, false⟩ (addrOf .MGT_TOD_DATA i) = true → exec (.todRead r i) s =
    .next ((s.setTimeInput i { s.timeInput i with fifo := (s.timeInput i).fifo.tail, overflow := false }).emit (.value r.code (addrOf .MGT_TOD_DATA i)
      (s.readReg r .MGT_TOD_DATA i)))) ∧
  (∀ (s : State) r (i : Nat), s.vote.broken = [] → s.vote.differ = [] → s.readReg r .MGT_TOD_DATA i = BitVec.ofNat 64 (((s.timeInput i).fifo.headD 0).toNat +
    2 ^ 8 * flag (!(s.timeInput i).fifo.isEmpty) + 2 ^ 9 * flag (s.timeInput i).overflow)) ∧
  (∀ (s : State) r, s.vote.broken = [] → s.vote.differ = [] → s.readReg r .MGT_TIME_NOW 0 = BitVec.ofNat 64 (nanosOf s.now + secondsOf s.now % 2 ^ 32 * 2 ^ 32)) ∧
  (∀ (s w : State) r, s.readsPlain r ⟨.MGT_TIME_NOW, 0, false⟩ (addrOf .MGT_TIME_NOW 0) = true →
    w = { s with mgt := { s.mgt with timeHigh := BitVec.ofNat 16 (secondsOf s.now / 2 ^ 32) } } →
    exec (.timeNowRead r true) s = .next (w.emit (.value r.code (addrOf .MGT_TIME_NOW 0) (s.readReg r .MGT_TIME_NOW 0))) ∧
    exec (.timeNowRead r false) s = .next ((w.setLatch r (some (addrOf .MGT_TIME_NOW 0,
      BitVec.ofNat 32 ((s.readReg r .MGT_TIME_NOW 0).toNat / 2 ^ 32)))).emit (.value r.code (addrOf .MGT_TIME_NOW 0)
        (BitVec.ofNat 64 ((s.readReg r .MGT_TIME_NOW 0).toNat % 2 ^ 32))))) ∧
  (∀ (s : State) r (p : Fin 256), s.readsPlain r ⟨.PRT_TX_TS_TAG, p, false⟩ (addrOf .PRT_TX_TS_TAG p) = true → exec (.txTimestampPop r p true) s =
    .next ((s.setPort p { s.port p with stamps := (s.port p).stamps.tail }).emit (.value r.code (addrOf .PRT_TX_TS_TAG p) (s.readReg r .PRT_TX_TS_TAG p)))) ∧
  (∀ (s : State) r (p : Fin 256), s.readsPlain r ⟨.PRT_TX_TS_TAG, p, true⟩ (addrOf .PRT_TX_TS_TAG p + 4) = true → exec (.txTimestampPop r p false) s =
    .next ((s.setPort p { s.port p with stamps := (s.port p).stamps.tail }).emit (.value r.code (addrOf .PRT_TX_TS_TAG p + 4)
      (BitVec.ofNat 64 ((s.readReg r .PRT_TX_TS_TAG p).toNat / 2 ^ 32))))) ∧
  (∀ (s : State) (p : Nat) tag, s.pushStamp p tag = if (s.port p).stamps.length < 64 then s.setPort p { s.port p with stamps := (s.port p).stamps ++
    [(tag, (16 * s.now + s.fld Fld.PRT_TS_LATENCY_TX_LAT p) / 16)] } else s.bump .PRT_TS_LOST p)

/-- Reception, pipeline entry and lookup results. A frame lands only on a usable port; its octets join it while MAX_FRAME
and the landing share leave room; one that reaches MAX_FRAME is ended there and counted RX_OVERSIZE; one that ends
below 64 octets is discarded and counted RX_RUNT; one that ends otherwise counts as received, is bad at its tail for a
bad FCS, another cause or a short IP length, and its tail becomes final; a frame held far enough takes its pass, and a
MAC control frame is consumed; a lookup result is carried out as decided, held for its length where it is policed
unfinished, dropped where its scene was forced out. Rests on R100, R101, R106, R119, R137, R164, R167, R168, R195. -/
def Obligations.Reception : Prop :=
  (∀ (s : State) (p : Fin 256) os, os ≠ [] → s.portUsable p = false → exec (.frameArrival p os) s = .next s) ∧
  (∀ (s u w : State) (p : Fin 256) c v os y, os ≠ [] → s.portUsable p = true → u = s.touchDomain (p.val / 16) →
    c = u.fld Fld.PRT_CLASS_MAP_DEFAULT_CLASS p → v = u.flagAt Fld.PRT_CSUM_CTRL_RX_VERIFY p →
    w = u.newFrame { id := 0, inPort := p, passPort := p, rxClass := c, time := u.rxTime p, landing := true, verify := v } →
    w.frame? u.swc.nextFrame = some y → exec (.frameArrival p os) s = .next (w.receive y os)) ∧
  (∀ (s : State) (x : Frame) more, more ≠ [] → x.lost = 0 → x.landing = true → 16 ≤ x.octets.length →
    x.octets.length + more.length ≤ s.fld Fld.PRT_CONFIG_MAX_FRAME x.inPort →
    x.octets.length + more.length ≤ (s.fld Fld.OPT_LB_CELLS_CELLS x.inPort - (s.landingPort x.inPort - x.cells)) * 256 →
    s.receive x more = (s.setFrame { x with octets := x.octets ++ more }).pauseCheck x.inPort) ∧
  (∀ (s t : State) f (x y : Frame) os, s.frame? f = some x → x.incoming = true →
    s.fld Fld.PRT_CONFIG_MAX_FRAME x.inPort - (x.octets.length + x.lost) ≤ os.length →
    t = s.grow x (os.take (s.fld Fld.PRT_CONFIG_MAX_FRAME x.inPort - (x.octets.length + x.lost))) → t.frame? f = some y →
    exec (.rxMaxFrameReached f os) s = .next ((t.bump .PRT_RX_OVERSIZE y.inPort).cutFrame y)) ∧
  (∀ (s : State) f (x : Frame) c, s.frame? f = some x → x.incoming = true → x.octets.length + x.lost < 64 →
    exec (.frameTailReceived f [] c) s = .next ((State.bump { s with swc := { s.swc with frames := s.swc.frames.filter (fun y => y.id != f) } } .PRT_RX_RUNT x.inPort).pauseCheck x.inPort)) ∧
  (∀ (s u w : State) f (x y : Frame) c, s.frame? f = some x → x.incoming = true → 64 ≤ x.octets.length + x.lost → x.verify = false →
    u = (if c = .fcsError then (s.rxCount x).bump .PRT_RX_FCS_ERROR x.inPort else s.rxCount x) →
    w = u.finishTail { x with bad := x.bad || c != .good || u.ipShort x, cutShort := x.cutShort || c == .planChange, csumResult := 0 } →
    w.frame? f = some y → y.phase ≠ .held → exec (.frameTailReceived f [] c) s = .next w.collect) ∧
  (∀ (s : State) f (x : Frame) os o, s.frame? f = some x → x.incoming = false → x.phase = .arriving → x.ended = true ∨ 512 ≤ x.octets.length →
    (x.passPort < 256 → s.domainOn (x.passPort / 16) = true) → exec (.pipelineEntry f os o) s =
      .next (if s.consumed x then ((s.setFrame { x with phase := .forwarded, landing := false, chosen := true }).collect).pauseCheck x.inPort
        else if x.entered && s.sceneIsForced x.ticket.scene then s.dropForced x else (s.enterPass x o).pauseCheck x.inPort)) ∧
  (∀ (s : State) f (x : Frame) d, s.frame? f = some x → x.phase = .looking → s.overtakes x = false → x.decision = some d → s.sceneIsForced x.ticket.scene = true →
    exec (.lookupResult f) s = .next (s.dropForced x)) ∧
  (∀ (s : State) f (x : Frame) d, s.frame? f = some x → x.phase = .looking → s.overtakes x = false → x.decision = some d → s.sceneIsForced x.ticket.scene = false →
    s.creditHeld x d = false → d.police = none → exec (.lookupResult f) s = .next (s.choose x d)) ∧
  (∀ (s : State) f (x : Frame) d n a, s.frame? f = some x → x.phase = .looking → s.overtakes x = false → x.decision = some d → s.sceneIsForced x.ticket.scene = false →
    s.creditHeld x d = false → d.police = some (n, a) → x.ended = false → exec (.lookupResult f) s = .next (s.setFrame { x with phase := .held })) ∧
  (∀ (s : State) f (x : Frame) d n a m, s.frame? f = some x → x.phase = .held → x.decision = some d → s.sceneIsForced x.ticket.scene = false →
    s.creditHeld x d = false → d.police = some (n, a) → x.ended = true → m = s.meter n x.octets.length a x.ticket.dp.toNat → m.1 = 2 →
    exec (.lookupResult f) s = .next (if s.flagAt Fld.TMS_POLICER_SIZE_RED_DROP n then (m.2.bump .TMS_POLICE_DROP 0).choose x { d with forward := 5 }
      else (m.2.bump .TMS_POLICE_RED_PASSED 0).choose { x with ticket := { x.ticket with dp := 2 } } d))

/-- Scene commits, activation, drainage and forcing. An admitted commit write is judged in the order of R138 and records
its status: an immediate one that passes becomes CURRENT and the one before drains, a timed one is armed with the
activation time the registers hold; CANCEL frees the armed slot unless its activation time is reached; the activation
makes the armed scene CURRENT; a draining or forced scene without frames in flight leaves its slot FREE; a scene that
still drains at the retire limit is FORCED and purged. Becoming CURRENT moves the pending scene one on. Rests on R134,
R135, R136, R137, R138. -/
def Obligations.Scenes : Prop :=
  (∀ (s u : State) r (sc : BitVec 16) (timed : Bool), s.admitWrite r .CLS_SCENE_COMMIT 0 = (true, u) → ∃ v : Word,
    fieldOf v 0 16 = sc.toNat ∧ fieldOf v 16 1 = flag timed ∧ ∀ w : State, w = u.setReg .CLS_SCENE_COMMIT 0 v →
    ((w.commitCheck sc timed).1 ≠ Code.OK → exec (.sceneCommit r sc timed) s = .next (w.setScene { w.scn with lastStatus := BitVec.ofNat 8 (w.commitCheck sc timed).1 })) ∧
    (∀ n, w.commitCheck sc timed = (Code.OK, n) → timed = false → exec (.sceneCommit r sc timed) s =
      .next ((w.setScene { w.scn with lastStatus := BitVec.ofNat 8 Code.OK }).makeCurrent n sc)) ∧
    (∀ n x, w.commitCheck sc timed = (Code.OK, n) → timed = true → x = (w.setScene { w.scn with lastStatus := BitVec.ofNat 8 Code.OK }).setSlot n { scene := sc, state := .ARMED } →
      exec (.sceneCommit r sc timed) s = .next (x.setScene { x.scn with activation := w.actTime }))) ∧
  (∀ (s : State) sc timed, (sc ≠ s.scn.pending → (s.commitCheck sc timed).1 = 0x91) ∧
    (∀ n, sc = s.scn.pending → s.armedSlot = some n → (s.commitCheck sc timed).1 = 0x92) ∧
    (sc = s.scn.pending → s.armedSlot = none → s.freeSceneSlot = none → (s.commitCheck sc timed).1 = Code.COMMIT_BUSY) ∧
    (∀ n, sc = s.scn.pending → s.armedSlot = none → s.freeSceneSlot = some n → s.commitCheck sc timed =
      (if timed = true ∧ s.actTime ≤ s.now then (0x90, 0) else (Code.OK, n)))) ∧
  (∀ (s u : State) r n, s.admitWrite r .CLS_SCENE_COMMIT 0 = (true, u) → u.armedSlot = some n → exec (.sceneCancel r) s = .next
    (if u.scn.activation ≤ u.now then u else { u.setSlot n {} with stk := { u.stk with fullArmed := false } })) ∧
  (∀ (s u : State) r, s.admitWrite r .CLS_SCENE_COMMIT 0 = (true, u) → u.armedSlot = none → exec (.sceneCancel r) s = .next u) ∧
  (∀ (s t : State) n, s.armedSlot = some n → s.scn.activation ≤ s.now → t = s.makeCurrent n (s.slot n).scene → t.armedSlot = none →
    exec .sceneActivation s = .next t.sceneActivated) ∧
  (∀ (s : State) n, s.armedSlot = some n → s.now < s.scn.activation → exec .sceneActivation s = .next s) ∧
  (∀ (s : State) n sc, (s.makeCurrent n sc).scn.current = sc ∧ (s.makeCurrent n sc).scn.pending = sc + 1 ∧
    (s.makeCurrent n sc).slot n = { scene := sc, state := .CURRENT }) ∧
  (∀ (s : State) (n : Fin 4), (s.slot n).state = .DRAINING ∨ (s.slot n).state = .FORCED → s.inflight (s.slot n).scene = 0 →
    exec (.sceneDrained n) s = .next (s.setSlot n {})) ∧
  (∀ (s : State) (n : Fin 4) x, x = s.slot n → x.state = .DRAINING → x.since + s.fld Fld.CLS_RETIRE_LIMIT_MS 0 * 1000000 ≤ s.elapsed →
    exec (.sceneForced n) s = .next ((s.setSlot n { x with state := .FORCED }).scenePurge x.scene)) ∧
  (∀ (s : State) (n : Fin 4), (s.slot n).state = .DRAINING → s.elapsed < (s.slot n).since + s.fld Fld.CLS_RETIRE_LIMIT_MS 0 * 1000000 →
    exec (.sceneForced n) s = .next s)

/-- Table commands, their results and their end. A table command whose register write is admitted while no earlier one
waits to be done is performed at once over the staged operands, its result held until TABLE_COMMAND_DONE; one written
before that is dropped with CMD_OVERRUN; one a thread committed on its table channel acts by that channel. A refused
command changes no table; LOOKUP, READ_INDEX, WRITE_INDEX, REFRESH, DELETE, INSERT over an entry of the pending scene
or into a free slot of its buckets, and FLUSH_SCENE do what their rules give. TABLE_COMMAND_DONE publishes the oldest
result. Rests on R143, R144, R148, R158, R159, R160, R387. -/
def Obligations.TableCommands : Prop :=
  (∀ (s u w : State) (c : TableCmd) r op i x, (i = Instr.insert c ∧ op = 1 ∨ i = Instr.delete c ∧ op = 2 ∨ i = Instr.lookup c ∧ op = 3 ∨ i = Instr.readIndex c ∧ op = 4 ∨ i = Instr.writeIndex c ∧ op = 5 ∨ i = Instr.refresh c ∧ op = 6 ∨ i = Instr.flushScene c ∧ op = 7) →
    c.issuer = .controlMap r → s.admitWrite r .TBL_CMD 0 = (true, u) → w = u.withOperands c.operands →
    w.tbl.finished.any (fun y => y.1.isNone) = false → x = w.tableCommand op c.table.toNat c.sceneSel w.stagedOperands →
    exec i s = .next { x.2 with tbl := { x.2.tbl with finished := x.2.tbl.finished ++ [(none, x.1)] } }) ∧
  (∀ (s u w : State) (c : TableCmd) r i, (i = Instr.insert c ∨ i = Instr.delete c ∨ i = Instr.lookup c ∨ i = Instr.readIndex c ∨ i = Instr.writeIndex c ∨ i = Instr.refresh c ∨ i = Instr.flushScene c) →
    c.issuer = .controlMap r → s.admitWrite r .TBL_CMD 0 = (true, u) → w = u.withOperands c.operands →
    w.tbl.finished.any (fun y => y.1.isNone) = true → exec i s = .next (w.setFld Fld.TBL_STATUS_CMD_OVERRUN 0 1)) ∧
  (∀ (s : State) (c : TableCmd) n k t op i, (i = Instr.insert c ∧ op = 1 ∨ i = Instr.delete c ∧ op = 2 ∨ i = Instr.lookup c ∧ op = 3 ∨ i = Instr.readIndex c ∧ op = 4 ∨ i = Instr.writeIndex c ∧ op = 5 ∨ i = Instr.refresh c ∧ op = 6 ∨ i = Instr.flushScene c ∧ op = 7) →
    c.issuer = .channel n k t → s.threadNames (threadOf n k t) c = true → exec i s = .next (s.threadTable (threadOf n k t) op)) ∧
  (∀ (s : State) op t sel o st, s.cmdCheck op t o = some st → s.tableCommand op t sel o = ({ status := st }, s)) ∧
  (∀ (s : State) t sel o key, t < 64 → key = slice o.key 0 (s.keyBytes t) →
    (s.cmdCheck 3 t o = none → ∀ sc, sc = (if sel = true then s.scn.pending else s.scn.current) →
      (s.findEntry t key (fun e => e.visible sc) = none → s.tableCommand 3 t sel o = ({ loads := true }, s)) ∧
      (∀ k e, s.findEntry t key (fun e => e.visible sc) = some (k, e) → s.tableCommand 3 t sel o =
        ({ hit := true, index := s.indexOf t k, entry := some e, loads := true }, s))) ∧
    (s.cmdCheck 4 t o = none → ∀ e, s.entry (s.slotOf t 0 0 + o.index.toNat) = some e → s.tableCommand 4 t sel o =
      ({ loads := true, index := o.index.toNat, entry := some e, record := some (slice e.key 0 64) }, s)) ∧
    (s.cmdCheck 6 t o = none → ∀ k e, s.findEntry t key (fun e => e.visible s.scn.current) = some (k, e) → s.tableCommand 6 t sel o =
      ({ index := s.indexOf t k }, s.setEntry k (some { e with stamp := s.tbl.now }))) ∧
    (s.cmdCheck 2 t o = none → (s.findEntry t key (fun e => e.visible s.scn.pending) = none → s.tableCommand 2 t sel o = ({ status := 0xA0 }, s)) ∧
      (∀ k e, s.findEntry t key (fun e => e.visible s.scn.pending) = some (k, e) → s.tableCommand 2 t sel o = ({ index := s.indexOf t k },
        if e.born = s.scn.pending ∧ e.settled = false then s.setEntry k none else s.setEntry k (some { e with died := s.scn.pending, diedValid := true })))) ∧
    (s.cmdCheck 1 t o = none → (∀ k e, s.findEntry t key (fun e => e.visible s.scn.pending) = some (k, e) → e.born = s.scn.pending → e.settled = false →
        s.tableCommand 1 t sel o = ({ replaced := true, index := s.indexOf t k },
          s.setEntry k (some { e with action := o.action, pinned := o.pinned, ageLimit := o.ageLimit }))) ∧
      (∀ k, s.findEntry t key (fun e => e.visible s.scn.pending) = none → (s.keySlots t key).find? (fun k => (s.entry k).isNone) = some k →
        s.tableCommand 1 t sel o = ({ index := s.indexOf t k },
          s.setEntry k (some { key := key, action := o.action, pinned := o.pinned, ageLimit := o.ageLimit, stamp := s.tbl.now, born := s.scn.pending,
                               died := 0, diedValid := false, settled := false })))) ∧
    (s.cmdCheck 7 t o = none → s.tableOn t = true → s.tableCommand 7 t sel o =
      ({}, (s.tableSlots t).foldl (fun s x => s.setEntry x.1 (flushEntry s.scn.pending x.2)) s))) ∧
  (∀ (s : State) sel o, s.cmdCheck 5 64 o = none → s.tableCommand 5 64 sel o =
    ({ index := o.index.toNat }, s.setAction o.index.toNat (BitVec.ofNat 256 (leAt o.key 0 32)))) ∧
  (∀ (s : State) x rest, s.tbl.finished = (none, x) :: rest →
    exec .tableCommandDone s = .next (State.publishTable { s with tbl := { s.tbl with finished := rest } } x)) ∧
  (∀ (s : State) t x rest, s.tbl.finished = (some t, x) :: rest →
    exec .tableCommandDone s = .next (State.threadTableDone { s with tbl := { s.tbl with finished := rest } } t x)) ∧
  (∀ s : State, s.tbl.finished = [] → exec .tableCommandDone s = .next s)

/-- Table configuration, sweep, aging, learning and the flow cache. A write of TBL_TABLE_CFG that may not stand, or moves
a table that holds entries, sets CFG_REFUSED, else it is stored with a reserved EVICT ignored; a seed of a table that
holds entries is refused; a pop of the eviction FIFO removes its head; the sweep releases an entry whose DIED no live
scene precedes, and settles one whose BORN none precedes; the milestone moves once per period; the ager asks the
removal of an aged entry and the update engine removes it while its STAMP stands; a presentation refreshes, moves or
inserts a learned key within the rate; a flow-cache fill makes room and holds the pair. Rests on R141, R143, R151,
R152, R153, R154, R155, R157, R162, R163. -/
def Obligations.TableUpkeep : Prop :=
  (∀ (s u : State) r (t : Fin 67) (v : BitVec 64), s.admitWrite r .TBL_TABLE_CFG t = (true, u) → t.val ≠ 64 → ∃ n : Word,
    fieldOf n 0 5 = bits v.toNat 0 5 ∧ fieldOf n 5 1 = bits v.toNat 5 1 ∧ fieldOf n 8 21 = bits v.toNat 8 21 ∧ fieldOf n 36 15 = bits v.toNat 36 15 ∧
    fieldOf n 32 2 = (if bits v.toNat 32 2 = 3 then fieldOf (u.reg .TBL_TABLE_CFG t) 32 2 else bits v.toNat 32 2) ∧
    exec (.tableCfgWrite r (.cfg t v)) s = .next
      (if (u.tableCfgBad t n || ((fieldOf n 0 5 != fieldOf (u.reg .TBL_TABLE_CFG t) 0 5 || (decide (t.val < 64) && fieldOf n 8 21 != fieldOf (u.reg .TBL_TABLE_CFG t) 8 21)) &&
            u.tableHolds t)) = true
        then u.setFld Fld.TBL_STATUS_CFG_REFUSED 0 1 else u.setReg .TBL_TABLE_CFG t n)) ∧
  (∀ (s u : State) r (t : Fin 67) (v : BitVec 32), s.admitWrite r .TBL_SEED_A t = (true, u) → u.tableHolds t = true →
    exec (.tableCfgWrite r (.seedA t v)) s = .next (u.setFld Fld.TBL_STATUS_CFG_REFUSED 0 1)) ∧
  (∀ (s u : State) r (t : Fin 67) (v : BitVec 32), s.admitWrite r .TBL_SEED_B t = (true, u) → u.tableHolds t = false →
    ∃ n : Word, fieldOf n 0 32 = v.toNat ∧ exec (.tableCfgWrite r (.seedB t v)) s = .next (u.setReg .TBL_SEED_B t n)) ∧
  (∀ (s u : State) r (v : BitVec 32), s.admitWrite r .TBL_EVICTED_POP 0 = (true, u) → v.getLsbD 0 = true →
    exec (.tblEvictedPop r v) s = .next { u with tbl := { u.tbl with evicted := u.tbl.evicted.tail } }) ∧
  (∀ (s : State) k e, k < 8388608 → s.entry k = some e → exec (.settleSweep k) s = .next
    (if e.diedValid = true ∧ s.notAfterLive e.died = true then (s.setEntry k none).bump .TBL_RELEASED 0
     else if s.notAfterLive e.born = true then s.setEntry k (some { e with settled := true }) else s)) ∧
  (∀ s : State, s.mapAnswers = true → s.tbl.nowAt + 1000000 * 2 ^ s.fld Fld.TBL_AGE_CTRL_PERIOD_LOG2 0 ≤ s.elapsed →
    exec .milestoneTick s = .next { s with tbl := { s.tbl with now := s.tbl.now + 1, nowAt := s.elapsed } }) ∧
  (∀ s : State, s.elapsed < s.tbl.nowAt + 1000000 * 2 ^ s.fld Fld.TBL_AGE_CTRL_PERIOD_LOG2 0 → exec .milestoneTick s = .next s) ∧
  (∀ (s : State) (t : Fin 67) (k : Nat) e, t.val ≠ 64 → k < 4 * 2 ^ s.log2 t → s.entry (s.slotOf t 0 0 + k) = some e →
    exec (.agerScan t k) s = .next (if e.ageLimit ≠ 0 ∧ e.pinned = false ∧ e.ageLimit.toNat < (s.tbl.now - e.stamp).toNat
      then { s with tbl := { s.tbl with removes := s.tbl.removes ++ [(t.val, s.slotOf t 0 0 + k, e.key, e.stamp)] } } else s)) ∧
  (∀ (s w : State) t k key stamp rest, s.tbl.removes = (t, k, key, stamp) :: rest → w = { s with tbl := { s.tbl with removes := rest } } →
    exec .agerRemove s = .next (match w.agedSlot t k key stamp with | some j => (w.setEntry j none).bump .TBL_AGED 0 | none => w)) ∧
  (∀ (s : State) t k key stamp e, s.entry k = some e → e.key = key → e.stamp = stamp → e.aged s.tbl.now = true → s.agedSlot t k key stamp = some k) ∧
  (∀ (s w : State) (p : Fin 22) key port, s.swc.learnQueue.find? (fun q => q.1 == p.val) = some (p.val, key, port) →
    w = { s with swc := { s.swc with learnQueue := s.swc.learnQueue.erase (p.val, key, port) } } →
    (w.tableOn 65 = false → exec (.learnPresentation p) s = .next w) ∧
    (∀ k e, w.tableOn 65 = true → w.findEntry 65 key (fun _ => true) = some (k, e) →
      (e.action.toNat = port → exec (.learnPresentation p) s = .next (w.setEntry k (some { e with stamp := w.tbl.now }))) ∧
      (e.action.toNat ≠ port → e.pinned = true ∨ w.flagAt Fld.TBL_LEARN_PORT_MOVE_EN port = false → exec (.learnPresentation p) s = .next w) ∧
      (e.action.toNat ≠ port → e.pinned = false → w.flagAt Fld.TBL_LEARN_PORT_MOVE_EN port = true → exec (.learnPresentation p) s = .next
        (if w.learnAllows port = true then ((w.setEntry k (some { e with action := BitVec.ofNat 24 port, stamp := w.tbl.now })).learnCounted port).bump .TBL_MOVES 0
         else w.bump .TBL_LEARN_LIMITED 0))) ∧
    (∀ e k, w.tableOn 65 = true → w.findEntry 65 key (fun _ => true) = none → w.learnAllows port = true → (w.keySlots 65 key).find? (fun k => (w.entry k).isNone) = some k →
      e = newEntry w key (BitVec.ofNat 24 port) false (BitVec.ofNat 15 (w.fld Fld.TBL_TABLE_CFG_AGE_DEFAULT 65)) 0 false → e.key = key →
      exec (.learnPresentation p) s = .next (((w.setEntry k (some e)).learnCounted port).bump .TBL_LEARNED 0))) ∧
  (∀ (s w : State) a b, s.pairsAwake s.tbl.placement.flow = true → s.tbl.fills.contains (min a b, max a b) = true → w = s.makeRoom →
    exec (.flowCacheFill a b) s = .next { w with tbl := { w.tbl with fills := w.tbl.fills.filter (· != (min a b, max a b)), cached := SMap.set (fun _ => false) (pairKey a b) true w.tbl.cached } }) ∧
  (∀ s : State, s.tbl.cached.length < 524288 → s.makeRoom = s) ∧
  (∀ (s : State) a b, s.pairsAwake s.tbl.placement.flow = false → exec (.flowCacheFill a b) s = .next (s.touchPairs s.tbl.placement.flow))

/-- Selection, start and end on an egress port, spill returns and member moves. A port that is idle and may start selects
by its hierarchy over queues tagged afresh: with none to select it stays; a copy whose rewrite misses, or whose hop
count expires, is dropped and counted; another starts with its action record. A started copy whose frame has ended
leaves: on a network port it ends on the wire, counted as stomped where its tail is bad, on a scale-up port without a
target it is dropped and counted, on another it arrives at its engine or host; a late copy that ran past a close of
its gate counts an overrun. A spilled copy returns once its queue is at half its spill threshold, waiting for the
stacks and dropped with a bad tail; a group member that is not live loses its slots to the live ones. Rests on R168,
R171, R173, R181, R187, R188, R190, R199, R214. -/
def Obligations.Egress : Prop :=
  (∀ (s : State) (p : Fin 336), s.swc.copies.any (fun k => k.port == p.val && k.started) = true ∨ s.portStarts p = false →
    exec (.egressSelect p) s = .next s) ∧
  (∀ (s w : State) (p : Fin 336), s.swc.copies.any (fun k => k.port == p.val && k.started) = false → s.portStarts p = true → w = s.retagAll p →
    (w.select p = none → exec (.egressSelect p) s = .next w) ∧
    (∀ k x, w.select p = some k → w.frame? k.frame = some x →
      (w.rewriteOf k x = .miss → exec (.egressSelect p) s = .next (((w.discardCopy k .SWC_REWRITE_MISS).collect).pauseCheck x.inPort)) ∧
      (w.rewriteOf k x = .expired → exec (.egressSelect p) s = .next (((w.discardCopy k .SWC_TTL_EXPIRED).collect).pauseCheck x.inPort)) ∧
      (w.rewriteOf k x = .plain → exec (.egressSelect p) s = .next (w.startCopy k x none)) ∧
      (∀ v, w.rewriteOf k x = .record v → exec (.egressSelect p) s = .next (w.startCopy k x (some v))))) ∧
  (∀ (s w : State) (p : Fin 336) k x, s.swc.copies.find? (fun k => k.port == p.val && k.started) = some k → s.frame? k.frame = some x → x.ended = true →
    w = (if (k.late && k.closes.any (fun t => decide (t < s.now))) = true then s.bump .TMS_TT_OVERRUN 0 else s) →
    (∀ y, p.val < 256 → y = w.wire k x (w.fld Fld.PRT_CONFIG_MAX_FRAME p) → exec (.egressComplete p) s =
      .next (((if x.bad = true then w.bump .SWC_TAIL_STOMPED 0 else w).endTx k y.1 y.2).collect.pauseCheck x.inPort)) ∧
    (324 ≤ p.val → p.val < 332 → exec (.egressComplete p) s = .next (((w.dropCopy k).bump .OFL_BAD_TARGET 0).collect.pauseCheck x.inPort)) ∧
    (∀ u, 256 ≤ p.val → p.val < 324 ∨ 332 ≤ p.val → u = w.dropCopy k → exec (.egressComplete p) s =
      .next ((State.collect { u with swc := { u.swc with arrived := w.swc.arrived ++ [k] } }).pauseCheck x.inPort))) ∧
  (∀ (s : State) (p : Fin 336) k x, s.swc.copies.find? (fun k => k.port == p.val && k.started) = some k → s.frame? k.frame = some x → x.ended = false →
    exec (.egressComplete p) s = .next s) ∧
  (∀ (s : State) (p : Fin 336) (c : Fin 8) k x, s.swc.copies.find? (fun k => k.port == p.val && k.cls == c.val && k.spilled) = some k → s.frame? k.frame = some x →
    (s.fld Fld.SWC_Q_LIMIT_SPILL_AT (8 * p + c) / 2 ≤ s.depthOf p c false → exec (.spillReturn p c) s = .next s) ∧
    (s.depthOf p c false < s.fld Fld.SWC_Q_LIMIT_SPILL_AT (8 * p + c) / 2 →
      (s.pairsAwake s.tbl.placement.spill = false → exec (.spillReturn p c) s = .next (s.touchPairs s.tbl.placement.spill)) ∧
      (s.pairsAwake s.tbl.placement.spill = true → x.ended = true → x.bad = true →
        exec (.spillReturn p c) s = .next (((s.discardCopy k .SWC_TAIL_DROP).collect).pauseCheck x.inPort)) ∧
      (∀ u, s.pairsAwake s.tbl.placement.spill = true → x.bad = false → s.chargeCells x { k with spilled := false } true = some u →
        exec (.spillReturn p c) s = .next ((u.setCopy k { k with spilled := false }).pauseCheck x.inPort)))) ∧
  (∀ (s : State) (g : Fin 4352) (i : Fin 32), s.memberLive g i = true → exec (.memberRepin g i) s = .next s) ∧
  (∀ (s : State) (g : Fin 4352) (i : Fin 32), (∀ j, j < 32 → s.memberLive g j = false) → exec (.memberRepin g i) s = .next s) ∧
  (∀ (s : State) (g : Fin 4352) (i : Fin 32) live, s.memberLive g i = false → live = (List.range 32).filter (fun j => s.memberLive g j) → live ≠ [] →
    exec (.memberRepin g i) s = .next ((List.range (2 ^ s.fld Fld.SWC_GROUP_LOG2_SLOTS g)).foldl (fun (a : State × Nat) k =>
      if a.1.fld Fld.SWC_PIN_MEMBER (s.fld Fld.SWC_GROUP_BASE g + k) = i then
        ((a.1.setFld Fld.SWC_PIN_MEMBER (s.fld Fld.SWC_GROUP_BASE g + k) ((live[a.2 % live.length]?).getD 0)).bump .SWC_REPINNED 0, a.2 + 1) else a) (s, 0)).1)

/-- Shapers, policers and timetables. A shaper write stores its fields, a RATE above 1,600,000 ignored, and sets the
tokens to 0 or to a full burst by RESET_TO; a policer write with PIR below CIR or above the range is ignored, another
fills both buckets; CHANGE on a list that is in order sets CHANGE_TIME by the rule of cycles and leaves the change
pending, a bad list is MALFORMED, a second CHANGE is ignored; CANCEL ends a pending change unless its time is reached;
at the change time the administrative list becomes the operational one and openings drop what cannot fit; an opening
by the running list drops the same. Rests on R187, R192, R194, R195, R199, R200, R207. -/
def Obligations.ShapersTimetables : Prop :=
  (∀ (s u : State) r k i (v : BitVec 64), (Instr.shaperWrite r k i v).wf = true → s.admitWrite r (shaperReg k) i = (true, u) → sliceZero (shaperReg k) i = false →
    ∃ n : Word, fieldOf n 0 21 = (if 1600000 < bits v.toNat 0 21 then fieldOf (u.reg (shaperReg k) i) 0 21 else bits v.toNat 0 21) ∧
      fieldOf n 32 24 = bits v.toNat 32 24 ∧ fieldOf n 56 1 = bits v.toNat 56 1 ∧
      exec (.shaperWrite r k i v) s = .next ((u.setReg (shaperReg k) i n).setTokens k i (if bits v.toNat 56 1 = 1 then 0 else (bits v.toNat 32 24 : Int) * 12800))) ∧
  (∀ (s u : State) r (i : Fin 16384) (v : BitVec 64), s.admitWrite r .TMS_POLICER_RATE i = (true, u) → bits v.toNat 32 21 < bits v.toNat 0 21 ∨ 1600000 < bits v.toNat 32 21 →
    exec (.policerWrite r i false v) s = .next u) ∧
  (∀ (s u : State) r (i : Fin 16384) (v : BitVec 64), s.admitWrite r .TMS_POLICER_RATE i = (true, u) → bits v.toNat 0 21 ≤ bits v.toNat 32 21 → bits v.toNat 32 21 ≤ 1600000 →
    ∃ n : Word, fieldOf n 0 21 = bits v.toNat 0 21 ∧ fieldOf n 32 21 = bits v.toNat 32 21 ∧ ∀ w : State, w = u.setReg .TMS_POLICER_RATE i n →
      exec (.policerWrite r i false v) s = .next (w.setPolicer i ((w.fld Fld.TMS_POLICER_SIZE_CBS i : Int) * 12800) ((w.fld Fld.TMS_POLICER_SIZE_PBS i : Int) * 12800))) ∧
  (∀ (s u : State) r (i : Fin 16384) (v : BitVec 64), s.admitWrite r .TMS_POLICER_SIZE i = (true, u) →
    ∃ n : Word, fieldOf n 0 24 = bits v.toNat 0 24 ∧ fieldOf n 32 24 = bits v.toNat 32 24 ∧ fieldOf n 56 1 = bits v.toNat 56 1 ∧ ∀ w : State, w = u.setReg .TMS_POLICER_SIZE i n →
      exec (.policerWrite r i true v) s = .next (w.setPolicer i ((w.fld Fld.TMS_POLICER_SIZE_CBS i : Int) * 12800) ((w.fld Fld.TMS_POLICER_SIZE_PBS i : Int) * 12800))) ∧
  (∀ (s u : State) r (p : Fin 256) (len : BitVec 11), s.admitWrite r .TMS_TT_ADMIN_CTRL p = (true, u) → u.changeAt p ≠ none → exec (.timetableChange r p len) s = .next u) ∧
  (∀ (s u : State) r (p : Fin 256) (len : BitVec 11), s.admitWrite r .TMS_TT_ADMIN_CTRL p = (true, u) → u.changeAt p = none → ∃ n : Word, fieldOf n 0 11 = len.toNat ∧
    exec (.timetableChange r p len) s = .next ((u.setReg .TMS_TT_ADMIN_CTRL p n).ttChange p)) ∧
  (∀ (s : State) p, s.changeAt p = none → s.fld Fld.TMS_TT_ADMIN_CTRL_LENGTH p < 1 ∨ 1024 < s.fld Fld.TMS_TT_ADMIN_CTRL_LENGTH p ∨ s.fld Fld.TMS_TT_ADMIN_CYCLE_NS p < 1000 ∨
    4000000000 < s.fld Fld.TMS_TT_ADMIN_CYCLE_NS p ∨ 1000000000 ≤ s.fld Fld.TMS_TT_ADMIN_BASE_NANOSECONDS p →
    s.ttChange p = s.setFld Fld.TMS_TT_STATUS_LAST_STATUS p Code.MALFORMED) ∧
  (∀ (s w : State) p ct, s.changeAt p = none → 1 ≤ s.fld Fld.TMS_TT_ADMIN_CTRL_LENGTH p → s.fld Fld.TMS_TT_ADMIN_CTRL_LENGTH p ≤ 1024 → 1000 ≤ s.fld Fld.TMS_TT_ADMIN_CYCLE_NS p →
    s.fld Fld.TMS_TT_ADMIN_CYCLE_NS p ≤ 4000000000 → s.fld Fld.TMS_TT_ADMIN_BASE_NANOSECONDS p < 1000000000 → ct = changeTime (s.adminBase p) (s.fld Fld.TMS_TT_ADMIN_CYCLE_NS p) s.now →
    w = (s.setFld Fld.TMS_TT_STATUS_LAST_STATUS p Code.OK).setFld Fld.TMS_TT_STATUS_CT_SECONDS_HIGH p (secondsOf ct / 2 ^ 32) →
    s.ttChange p = (w.setReg .TMS_TT_CHANGE_TIME p (BitVec.ofNat 64 (nanosOf ct + secondsOf ct % 2 ^ 32 * 2 ^ 32))).setChange p (some ct)) ∧
  (∀ (s u : State) r (p : Fin 256) ct, s.admitWrite r .TMS_TT_ADMIN_CTRL p = (true, u) → u.changeAt p = some ct →
    exec (.timetableCancel r p) s = .next (if ct ≤ u.now then u else u.setChange p none)) ∧
  (∀ (s : State) (p : Fin 256) ct, s.changeAt p = some ct → s.now < ct → exec (.timetableChangeTime p) s = .next s) ∧
  (∀ (s w : State) (p : Fin 256) ct t, s.changeAt p = some ct → ct ≤ s.now → t = (Timetable.mk ct (s.fld Fld.TMS_TT_ADMIN_CYCLE_NS p)
      ((List.range (s.fld Fld.TMS_TT_ADMIN_CTRL_LENGTH p)).map (fun e => (BitVec.ofNat 8 (s.fld Fld.TMS_TT_ADMIN_GATES (1024 * p + e)), s.fld Fld.TMS_TT_ADMIN_DURATION (1024 * p + e))))) →
    w = { s.setChange p none with tms := { (s.setChange p none).tms with oper := SMap.set operDefault p (some t) s.tms.oper } } →
    (∀ c, c < 8 → s.gateOpen p c = true) → exec (.timetableChangeTime p) s = .next w) ∧
  (∀ (s : State) (p : Fin 256), s.timetable p = none → exec (.gateChange p) s = .next s) ∧
  (∀ (s : State) (p : Fin 256) t x, s.timetable p = some t → t.segmentAt (t.position s.now) = some x → exec (.gateChange p) s =
    .next ((List.range 8).foldl (fun s c => match t.opened x c with | some w => s.dropOversize p c w | none => s) s))

/-- Tunnel units: context choice, encapsulation, decapsulation and ESP. A unit at a tunnel port with no context it may use
is dropped under the counter of its reason; a VXLAN or Geneve unit with a good tail re-enters encapsulated unless it
exceeds the MTU, one with a bad tail is dropped; a decapsulated unit re-enters as its inner packet with its ECN
combined, or is dropped for a mismatch or the ECN rule; an outbound ESP unit takes the next sequence number and
submits one seal request, dropped when it exceeds the MTU or the numbers are used up; an inbound one submits an open
request after the replay check, or is dropped as keepalive, mismatch or replay; the end of a decryption accepts the
sequence number, and a dummy packet is dropped. Rests on R209, R210, R213, R214, R216, R217, R218, R219, R220, R221,
R222. -/
def Obligations.TunnelUnits : Prop :=
  (∀ (s : State) (p : Fin 4), s.arrivedAt (320 + p) = none → exec (.encapUnit p) s = .next s ∧ exec (.decapUnit p) s = .next s ∧ exec (.espOutbound p) s = .next s ∧ exec (.espInbound p) s = .next s) ∧
  (∀ (s : State) (p : Fin 4) k x n, s.arrivedAt (320 + p) = some (k, x) → s.pickContext x (p / 2) = .inr n →
    exec (.encapUnit p) s = .next ((s.takeArrived k).bump n 0).settleAll ∧ exec (.decapUnit p) s = .next ((s.takeArrived k).bump n 0).settleAll ∧ exec (.espOutbound p) s = .next ((s.takeArrived k).bump n 0).settleAll ∧ exec (.espInbound p) s = .next ((s.takeArrived k).bump n 0).settleAll) ∧
  (∀ (s : State) x die, (x.engineCtx / 32768 ≠ die → s.pickContext x die = .inr .OFL_WRONG_DIE) ∧
    (x.engineCtx / 32768 = die → s.fld Fld.OFL_CTRL_MAX_PASSES 0 < x.reentries + 1 → s.pickContext x die = .inr .OFL_PASS_LIMIT) ∧
    (x.engineCtx / 32768 = die → x.reentries + 1 ≤ s.fld Fld.OFL_CTRL_MAX_PASSES 0 →
      (tState (s.tun x.engineCtx) = 1 → s.pickContext x die = .inl x.engineCtx) ∧ (tState (s.tun x.engineCtx) = 0 → s.pickContext x die = .inr .OFL_CTX_INACTIVE) ∧
      (tState (s.tun x.engineCtx) = 3 → s.pickContext x die = .inr .OFL_SEQ_EXHAUSTED) ∧
      (tState (s.tun x.engineCtx) = 2 → tState (s.tun (tNext (s.tun x.engineCtx))) = 1 → s.pickContext x die = .inl (tNext (s.tun x.engineCtx))))) ∧
  (∀ (s w : State) (p : Fin 4) k x c b, s.arrivedAt (320 + p) = some (k, x) → s.pickContext x (p / 2) = .inl c → b = s.tun c → w = s.takeArrived k →
    (tType b = 1 ∨ tType b = 3 →
      (x.bad = true → exec (.encapUnit p) s = .next w.dropUnit.settleAll) ∧
      (∀ out, x.bad = false → out = encapsulate (w.parseIn x.octets) b (w.unitBody x) x.ticket.flowHash.toNat w.free → exec (.encapUnit p) s =
        .next (if tMtu b < out.length + 4 then (w.drew.bump .OFL_TOO_BIG 0).settleAll else (w.drew.reenter x (320 + p) (withFcs out false) false 0).settleAll))) ∧
    (tType b = 2 ∨ tType b = 4 → ∀ q body, q = w.parseIn x.octets → body = w.unitBody x →
      (exposed q b body = none → exec (.decapUnit p) s = .next (w.bump .OFL_DECAP_MISMATCH 0).settleAll) ∧
      (∀ inner, exposed q b body = some inner →
        (exposeEcn q inner (tosOf body (ethHeads q body 0) % 4) = none → exec (.decapUnit p) s = .next (w.bump .OFL_ECN_DROP 0).settleAll) ∧
        (∀ out, exposeEcn q inner (tosOf body (ethHeads q body 0) % 4) = some out → exec (.decapUnit p) s =
          .next (w.reenter x (320 + p) (withFcs out x.bad) x.bad (BitVec.ofNat 8 (verifyLevel out (ethHeads q out 0)))).settleAll))) ∧
    (tType b = 5 ∨ tType b = 7 → (x.bad = true → exec (.espOutbound p) s = .next w.dropUnit.settleAll) ∧
      (x.bad = false → exec (.espOutbound p) s = .next (w.espOut x c (320 + p)).settleAll)) ∧
    (tType b = 6 ∨ tType b = 8 → ∀ q body, q = w.parseIn x.octets → body = w.unitBody x →
      (isKeepalive q b body = true → exec (.espInbound p) s = .next (w.bump .OFL_NATT_KEEPALIVE 0).settleAll) ∧
      (isKeepalive q b body = false → espAt q b body = none → exec (.espInbound p) s = .next (w.bump .OFL_DECAP_MISMATCH 0).settleAll))) ∧
  (∀ (s : State) x c port b q body, b = s.tun c → q = s.parseIn x.octets → body = s.unitBody x →
    (espParts q b body = none → s.espOut x c port = s.bump .OFL_UNSUPPORTED_UNIT 0) ∧
    (∀ head clear nxt payload h, espParts q b body = some (head, clear, nxt) → payload = clear ++ espTrailer clear.length nxt →
      h = espHead q b head body (16 + payload.length + 16) s.free →
      (tMtu b < h.length + (16 + payload.length + 16) + 4 → s.espOut x c port = s.drew.bump .OFL_TOO_BIG 0) ∧
      (h.length + (16 + payload.length + 16) + 4 ≤ tMtu b → lastSeq b < tSeq b → s.espOut x c port = ((s.drew.roll c true).2).bump .OFL_SEQ_EXHAUSTED 0) ∧
      (∀ w j, h.length + (16 + payload.length + 16) + 4 ≤ tMtu b → tSeq b < lastSeq b → tRollSeq b = 0 → w = s.drew.setTunSeq c (tSeq b + 1) →
        j = { id := w.ofl.nextJob, frame := x, ctx := c, obj := b, port := port, seq := tSeq b, inbound := false, head := h ++ toBE 4 (tId b) ++ toBE 4 (tSeq b), aad := espAad b (tSeq b), payload := payload, ecn := 0 } →
        s.espOut x c port = State.submitCipher { w with ofl := { w.ofl with jobs := w.ofl.jobs ++ [j], nextJob := w.ofl.nextJob + 1 } }
          { requester := .tunnel (if c < 32768 then 0 else 1), input := espAad b (tSeq b) ++ payload,
            raw := requestBytes 1 1 (espAad b (tSeq b)).length payload.length (tKey b) x.ticket.slice.toNat x.ticket.gen.toNat 0 0 0 w.ofl.nextJob }))) ∧
  (∀ (s : State) k x c port b w q body o low h stop, b = s.tun c → w = s.takeArrived k → q = w.parseIn x.octets → body = w.unitBody x → isKeepalive q b body = false → espAt q b body = some o →
    h = ethHeads q body 0 → low = beAt body (o + 4) 4 → (∀ i, h.ip = some (i, true) → stop = min body.length (i + beAt body (i + 2) 2)) → (∀ i, h.ip = some (i, false) → stop = min body.length (i + 40 + beAt body (i + 4) 2)) → (h.ip = none → stop = body.length) →
    (stop < o + 32 ∨ beAt body o 4 ≠ tId b → s.espIn k x c port = w.bump .OFL_DECAP_MISMATCH 0) ∧
    (o + 32 ≤ stop → beAt body o 4 = tId b → ∀ seq, seq = (if tEsn b then inferSeq (tWindow b) (tSeq b) low else low) →
      (replayRefuses (tWindow b) (tSeq b) seq (w.replay c) = true → s.espIn k x c port = w.bump .OFL_ESP_REPLAY 0) ∧
      (∀ v j, replayRefuses (tWindow b) (tSeq b) seq (w.replay c) = false → x.bad = false → tWindow b ≠ 0 → v = w.setReplay c { w.replay c with pending := seq :: (w.replay c).pending } →
        j = { id := v.ofl.nextJob, frame := x, ctx := c, obj := b, port := port, seq := seq, inbound := true, head := body.take o, aad := espAad b seq, payload := (body.take stop).drop (o + 16), ecn := tosOf body h % 4 } →
        s.espIn k x c port = State.submitCipher { v with ofl := { v.ofl with jobs := v.ofl.jobs ++ [j], nextJob := v.ofl.nextJob + 1 } }
          { requester := .tunnel (if c < 32768 then 0 else 1), input := espAad b seq ++ (body.take stop).drop (o + 16),
            raw := requestBytes 2 1 (espAad b seq).length (((body.take stop).drop (o + 16)).length - 16) (tKey b) x.ticket.slice.toNat x.ticket.gen.toNat
              (v.keyCtx (tKey b)).epoch.toNat (beAt body (o + 8) 8) 0 v.ofl.nextJob }))) ∧
  (∀ (s w : State) (d : Fin 2) j r, s.inboundResult d = some (j, r) → w = { s with cph := { s.cph with results := s.cph.results.filter (fun y => y != r) } } →
    exec (.espInboundResult d) s = .next (w.espInDone j r).settleAll) ∧
  (∀ (s w : State) j r, w = { s with ofl := { s.ofl with jobs := s.ofl.jobs.filter (fun y => y.id != j.id) } } → j.frame.bad = false →
    (leAt r.result 0 1 = 5 → leAt r.result 4 4 = 0 → s.espInDone j r = (w.unmark j).bump .OFL_ESP_AUTH_FAIL 0) ∧
    (∀ inner, leAt r.result 0 1 = 0 → splitTrailer r.output = some (inner, 59) → s.espInDone j r = (w.accept j).bump .OFL_ESP_DUMMY 0) ∧
    (∀ inner, leAt r.result 0 1 = 0 → splitTrailer r.output = some (inner, 4) → tType j.obj = 6 → leAt inner 0 1 / 16 ≠ 6 → ipLength inner = inner.length →
      s.espInDone j r = (w.accept j).espStream j inner false))

/-- Management frames and their reassembly. A frame is taken on an enabled segment with the management EtherType for the
segment's own address or broadcast, while the map answers: counted, its header checked, and a bad one counted; a
segment of a sequence number already accepted is a counted duplicate; the first segment of a message opens an
assembly, the last completes it and hands the message to its meaning; an assembly that has not moved for 1 s is
dropped. Rests on R112, R113, R114, R118. -/
def Obligations.ManagementFrames : Prop :=
  (∀ (s : State) (g : Fin 2) src dst et b, s.mapAnswers = false ∨ s.segmentOn g = false ∨ et.toNat ≠ 0x88B5 ∨ (dst ≠ Config.segMac g ∧ dst ≠ 0xFFFFFFFFFFFF) →
    exec (.mgmtFrameReceived g src dst et b) s = .next s) ∧
  (∀ (s w : State) (g : Fin 2) src dst b, s.mapAnswers = true → s.segmentOn g = true → dst = Config.segMac g ∨ dst = 0xFFFFFFFFFFFF → w = s.bump .MGT_SEG_RX_FRAMES g →
    (leAt b 0 1 ≠ 1 ∨ leAt b 1 1 < 1 ∨ 9 < leAt b 1 1 ∨ leAt b 18 2 < 1 ∨ 1024 < leAt b 18 2 ∨ leAt b 18 2 ≤ leAt b 16 2 ∨ leAt b 20 2 < 1 ∨ 1476 < leAt b 20 2 ∨ b.length < 24 + leAt b 20 2 →
      exec (.mgmtFrameReceived g src dst 0x88B5 b) s = .next (w.bump .MGT_SEG_BAD_FRAMES g)) ∧
    (leAt b 0 1 = 1 → 1 ≤ leAt b 1 1 → leAt b 1 1 ≤ 9 → 1 ≤ leAt b 18 2 → leAt b 18 2 ≤ 1024 → leAt b 16 2 < leAt b 18 2 → 1 ≤ leAt b 20 2 → leAt b 20 2 ≤ 1476 → 24 + leAt b 20 2 ≤ b.length →
      ∀ v id seq, v = w.hear id g src → id = BitVec.ofNat 64 (leAt b 4 8) → seq = BitVec.ofNat 32 (leAt b 12 4) →
      ((v.station id).seen seq = true → exec (.mgmtFrameReceived g src dst 0x88B5 b) s = .next (v.bump .MGT_SEG_DUP_DROPPED g)) ∧
      (∀ x, (v.station id).seen seq = false → v.mgt.assemblies.find? (fun x => x.station == id && x.seq == seq) = none →
        x = { station := id, seq := seq, type := BitVec.ofNat 8 (leAt b 1 1), count := leAt b 18 2, parts := SMap.set partDefault (leAt b 16 2) (some (slice b 24 (leAt b 20 2))) [], movedAt := v.elapsed } →
        (x.whole = none → exec (.mgmtFrameReceived g src dst 0x88B5 b) s = .next { v with mgt := { v.mgt with
          assemblies := v.mgt.assemblies.filter (fun y => !(y.station == id && y.seq == seq)) ++ [x] } }) ∧
        (∀ m y, x.whole = some m → y = { v with mgt := { v.mgt with assemblies := v.mgt.assemblies.filter (fun y => !(y.station == id && y.seq == seq)) } } →
          exec (.mgmtFrameReceived g src dst 0x88B5 b) s = .next ((y.setStation ((y.station id).accept seq)).message id g seq (BitVec.ofNat 8 (leAt b 1 1)).toNat m))))) ∧
  (∀ (s : State) id seq, exec (.mgmtReassemblyTimeout id seq) s = .next { s with mgt := { s.mgt with assemblies := s.mgt.assemblies.filter (fun x =>
    !(x.station == id && x.seq == seq && decide (x.movedAt + 1000000000 ≤ s.elapsed))) } })

/-- Object commands and the OFL event FIFO. An admitted object command is done within its step and leaves its status: READ
of a tunnel context loads its bytes, of a connection beyond 8,191 or of type 3 is MALFORMED; WRITE checks the staged
bytes, makes a tunnel context active or inactive and, without KEEP_STATE, resets its replay window; ROLL of an
outbound ESP context hands over to the next or answers 0xB0, and of any other is UNSUPPORTED; a pop removes the head
of the event FIFO. Rests on R211, R212, R213, R221, R223, R224, R225, R232. -/
def Obligations.ObjectsAndEvents : Prop :=
  (∀ (s u : State) r (type : BitVec 2) (i : BitVec 16), s.admitWrite r .OFL_OBJ_CMD 0 = (true, u) →
    (type = 0 → exec (.objectRead r type i) s = .next ((u.setObjData (u.tun i.toNat) 32).objStatus 0)) ∧
    (type = 1 → i.toNat ≤ 8191 → exec (.objectRead r type i) s = .next ((u.setObjData (u.conn i.toNat) 32).objStatus 0)) ∧
    (type = 1 → 8191 < i.toNat → exec (.objectRead r type i) s = .next (u.objStatus 0x01)) ∧
    (type = 2 → exec (.objectRead r type i) s = .next ((u.setObjData (u.space i.toNat) 8).objStatus 0)) ∧
    (type = 3 → exec (.objectRead r type i) s = .next (u.objStatus 0x01))) ∧
  (∀ (s u : State) r (i : BitVec 16) keep b, s.admitWrite r .OFL_OBJ_CMD 0 = (true, u) → b = u.objData →
    (tunMalformed i.toNat b = true → exec (.objectWrite r 0 i keep) s = .next (u.objStatus 0x01)) ∧
    (∀ o, tunMalformed i.toNat b = false → o = splice (tunClean b) 84 (toLE 1 (if tType b = 0 then 0 else 1)) → exec (.objectWrite r 0 i keep) s =
      .next ((if keep = true then u.setTun i.toNat (splice o 64 (slice (u.tun i.toNat) 64 8)) else (u.setTun i.toNat o).setReplay i.toNat {}).objStatus 0)) ∧
    (connMalformed i.toNat b = true → exec (.objectWrite r 1 i keep) s = .next (u.objStatus 0x01)) ∧
    (connMalformed i.toNat b = false → exec (.objectWrite r 1 i keep) s = .next ((u.takeOver i.toNat (connClean b)).objStatus 0)) ∧
    (u.spaceMalformed i.toNat (b.take 32) = true → exec (.objectWrite r 2 i keep) s = .next (u.objStatus 0x01)) ∧
    (u.spaceMalformed i.toNat (b.take 32) = false → exec (.objectWrite r 2 i keep) s = .next ((u.setSpace i.toNat (spaceClean (b.take 32))).objStatus 0)) ∧
    exec (.objectWrite r 3 i keep) s = .next (u.objStatus 0x01)) ∧
  (∀ (s u : State) r (type : BitVec 2) (i : BitVec 16), s.admitWrite r .OFL_OBJ_CMD 0 = (true, u) → type ≠ 0 ∨ espOutType (tType (u.tun i.toNat)) = false →
    exec (.roll r type i) s = .next (u.objStatus 0x0D)) ∧
  (∀ (s u : State) r (i : BitVec 16), s.admitWrite r .OFL_OBJ_CMD 0 = (true, u) → espOutType (tType (u.tun i.toNat)) = true →
    (u.rollable i.toNat = true → exec (.roll r 0 i) s = .next ((((u.setTunState i.toNat 2).bump .OFL_ROLLS 0).oflEvent 1 i.toNat 0).objStatus 0)) ∧
    (u.rollable i.toNat = false → exec (.roll r 0 i) s = .next ((u.oflEvent 2 i.toNat 0).objStatus 0xB0))) ∧
  (∀ (s u : State) r, s.admitWrite r .OFL_EVENT_POP 0 = (true, u) → exec (.oflEventPop r) s = .next { u with ofl := { u.ofl with events := u.ofl.events.tail } })

/-- Storage frames, timers and connections. A transport frame at a storage port is dropped and counted for a context
beyond the connections, of the other die or past the pass limit; one with a bad tail is discarded; another acts on its
connection, where a connection that is not READY counts it, and a damaged RoCEv2 packet does nothing. A command or
Keep Alive without its response within TIMEOUT_MS fails its connection, which moves to FAILED with an event and
finishes its commands; a Keep Alive leaves once its period passed; a transport timer with segments unacknowledged
retransmits until the retries are used up. Rests on R209, R224, R228, R229, R230, R232. -/
def Obligations.StorageConnections : Prop :=
  (∀ (s : State) (d : Fin 2) conn f, s.arrivedAt (332 + d) = none → exec (.storageTransportFrame d conn f) s = .next s) ∧
  (∀ (s : State) (d : Fin 2) (conn : BitVec 13) f k x c, s.arrivedAt (332 + d) = some (k, x) → c = x.engineCtx →
    (8191 < c → exec (.storageTransportFrame d conn f) s = .next ((s.takeArrived k).bump .OFL_BAD_TARGET 0)) ∧
    (c ≤ 8191 → c / 4096 ≠ d.val → exec (.storageTransportFrame d conn f) s = .next ((s.takeArrived k).bump .OFL_WRONG_DIE 0)) ∧
    (c ≤ 8191 → c / 4096 = d.val → s.fld Fld.OFL_CTRL_MAX_PASSES 0 < x.reentries + 1 → exec (.storageTransportFrame d conn f) s = .next ((s.takeArrived k).bump .OFL_PASS_LIMIT 0)) ∧
    (c = conn.toNat → c / 4096 = d.val → x.reentries + 1 ≤ s.fld Fld.OFL_CTRL_MAX_PASSES 0 →
      (x.bad = true → exec (.storageTransportFrame d conn f) s = .next (s.takeArrived k)) ∧
      (∀ w, x.bad = false → w = s.takeArrived k → exec (.storageTransportFrame d conn f) s = .next (w.stEvent d conn.toNat f).settleAll))) ∧
  (∀ (s : State) die conn f, connReady (s.conn conn) = false → s.stEvent die conn f = s.bump .OFL_CONN_NOT_READY 0) ∧
  (∀ (s : State) die conn f, connReady (s.conn conn) = true → connTransport (s.conn conn) = 1 → f.intact = false → s.stEvent die conn f = s) ∧
  (∀ (s : State) id c, s.cmd? id = some c → c.phase = .sent → c.answer = none → c.sentAt + 1000000 * leAt (s.conn c.conn) 12 4 ≤ s.elapsed →
    exec (.storageCommandTimeout (.command id)) s = .next (s.connFail c.conn 2).settleAll) ∧
  (∀ (s : State) id c, s.cmd? id = some c → c.answer.isSome = true ∨ s.elapsed < c.sentAt + 1000000 * leAt (s.conn c.conn) 12 4 →
    exec (.storageCommandTimeout (.command id)) s = .next s) ∧
  (∀ (s : State) (conn : BitVec 13), (s.connRun conn.toNat).alive = true → (s.connRun conn.toNat).keptAt + 1000000 * leAt (s.conn conn.toNat) 12 4 ≤ s.elapsed →
    exec (.storageCommandTimeout (.keepAlive conn)) s = .next (s.connFail conn.toNat 2).settleAll) ∧
  (∀ (s : State) conn cause, connReady (s.conn conn) = false → s.connFail conn cause = s) ∧
  (∀ (s w : State) conn cause, connReady (s.conn conn) = true → w = ((s.setConn conn (splice (s.conn conn) 84 (toLE 1 2))).oflEvent 4 conn cause).setConnRun conn {} →
    w.sto.cmds.filter (fun x => x.conn == conn) = [] → s.connFail conn cause = w) ∧
  (∀ (s w : State) (conn : BitVec 13), connReady (s.conn conn.toNat) = true → leAt (s.conn conn.toNat) 80 2 ≠ 0 →
    (s.connRun conn.toNat).keptAt + 1000000 * leAt (s.conn conn.toNat) 80 2 ≤ s.elapsed → w = s.stFrame (conn.toNat / 4096) conn.toNat 4 0 0 [] →
    exec (.keepAliveTimer conn) s = .next (w.setConnRun conn.toNat { w.connRun conn.toNat with alive := true, keptAt := s.elapsed })) ∧
  (∀ (s : State) (conn : BitVec 13), connReady (s.conn conn.toNat) = false ∨ leAt (s.conn conn.toNat) 80 2 = 0 → exec (.keepAliveTimer conn) s = .next s) ∧
  (∀ (s : State) (conn : BitVec 13), (s.connRun conn.toNat).unacked = [] → exec (.transportRetransmitTimer conn) s = .next s) ∧
  (∀ (s : State) (conn : BitVec 13) r b, r = s.connRun conn.toNat → b = s.conn conn.toNat → r.unacked ≠ [] →
    ((if connTransport b = 1 then bits (leAt b 82 1) 0 3 else 6) < r.retries + 1 → exec (.transportRetransmitTimer conn) s = .next (s.connFail conn.toNat 1).settleAll) ∧
    (r.retries + 1 ≤ (if connTransport b = 1 then bits (leAt b 82 1) 0 3 else 6) → exec (.transportRetransmitTimer conn) s =
      .next ((s.setConnRun conn.toNat { r with retries := r.retries + 1, dups := 0 }).stAgain (conn.toNat / 4096) b (goBack b r none)).settleAll))

/-- Cipher requests: submission, dispatch, units and context residency. A request of 64 bytes takes its place in the
queue, or waits at its requester while 65,536 are queued; with no engine in the pool the oldest completes with
CURTAIN; an engine out of service takes nothing, one that is asleep is woken only for work; a free engine starts the
first ready context's request, which is counted on in its context, or fails it by the first check that holds; a unit
done leaves the next unit queued or completes the request: a seal with its tag, an open whose tag agrees, or AUTH_FAIL
with its output undefined; a cold context is loaded into a free slot or locked when its record does not unwrap; an
engine error is a contained one of a defined cause. Rests on R234, R236, R237, R238, R239, R240, R241, R242, R244,
R247, R249, R257. -/
def Obligations.CipherRequests : Prop :=
  (∀ (s : State) q request input, request.length = 64 → s.cph.queue.length < 65536 → s.cph.held = [] →
    exec (.cipherSubmit q request input) s = .next (s.queueCipher { requester := q, raw := request, input := input }).settleAll) ∧
  (∀ (s : State) q request input, request.length = 64 → 65536 ≤ s.cph.queue.length →
    exec (.cipherSubmit q request input) s = .next (State.settleAll { s with cph := { s.cph with held := s.cph.held ++ [{ requester := q, raw := request, input := input }] } })) ∧
  (∀ (s : State) q, (s.queueCipher q).cph.queue = s.cph.queue ++ [q]) ∧
  (∀ (s : State) (e : Fin 36) q rest, s.anyInService = false → s.cph.queue = q :: rest →
    exec (.cipherDispatch e) s = .next (((s.takeNext q.ctx).refuseCipher q 0x0B).tidyRound).settleAll) ∧
  (∀ (s : State) (e : Fin 36), s.anyInService = true → (s.engine e).state ≠ .IN_SERVICE → exec (.cipherDispatch e) s = .next s.settleAll) ∧
  (∀ (s : State) (e : Fin 36), s.anyInService = true → (s.engine e).state = .IN_SERVICE → s.domainOn (groupOf e) = false →
    exec (.cipherDispatch e) s = .next (if s.wakesGroup e = true then s.touchDomain (groupOf e) else s).settleAll) ∧
  (∀ (s : State) (e : Fin 36) c n q, s.anyInService = true → (s.engine e).state = .IN_SERVICE → s.domainOn (groupOf e) = true → (s.engine e).work = .idle →
    s.cph.round.find? (fun y => s.ready y.1) = some (c, n) → s.nextOf c = some q → q.die = e / 18 → exec (.cipherDispatch e) s = .next (s.runNext e c 0).settleAll) ∧
  (∀ (s : State) e c n q, s.nextOf c = some q → q.units = 0 →
    (∀ st k, s.checkRequest q = .fail st k false → s.runNext e c n = (((s.takeNext c).setKeyCtx c k).refuseCipher q st).tidyRound) ∧
    (∀ r k, s.checkRequest q = .start r k false → s.runNext e c n = (((s.takeNext c).setKeyCtx c k).touchHot c).setEngine e
      { s.engine e with work := .unit c n r.nextUnit r })) ∧
  (∀ (s : State) q, q.op = 0 ∨ 5 ≤ q.op → s.checkRequest q = .fail 0x01 (s.keyCtx q.ctx) false) ∧
  (∀ (s : State) q, q.op = 1 → leAt q.raw 1 1 = 0 → leAt q.raw 8 4 < 262144 → leAt q.raw 12 2 < 4096 → leAt q.raw 56 8 = 0 → leAt q.raw 24 8 = 0 →
    (q.gen ≠ s.sliceGen q.slc → s.checkRequest q = .fail 0xC4 (s.keyCtx q.ctx) false) ∧
    (q.gen = s.sliceGen q.slc → (s.keyCtx q.ctx).state = .EMPTY → s.checkRequest q = .fail 0xC0 (s.keyCtx q.ctx) false) ∧
    (q.gen = s.sliceGen q.slc → (s.keyCtx q.ctx).state = .LOCKED → s.checkRequest q = .fail 0x0B (s.keyCtx q.ctx) false) ∧
    (q.gen = s.sliceGen q.slc → (s.keyCtx q.ctx).state = .ACTIVE → q.slc = 0 ∨ q.slc = (s.keyCtx q.ctx).owner → (s.keyCtx q.ctx).alg < 3 → q.payloadLen ≤ 16777216 → q.aadLen ≤ 4096 →
      (s.keyCtx q.ctx).used < (s.keyCtx q.ctx).limit → (s.keyCtx q.ctx).persist = false →
      s.checkRequest q = startRequest q (s.keyCtx q.ctx) false)) ∧
  (∀ (s w : State) (e : Fin 36) c tb ub q, (s.engine e).work = .unit c tb ub q → w = s.setEngine e { s.engine e with work := .turn c (tb + ub) } →
    (∀ d, q.process.units < q.process.unitCount → q.process.requester = .tunnel d → exec (.cipherUnitDone e) s =
      .next (State.settleAll { w with cph := { w.cph with queue := q.process :: w.cph.queue } })) ∧
    (q.process.unitCount ≤ q.process.units → exec (.cipherUnitDone e) s = .next (w.finishRequest q.process).settleAll)) ∧
  (∀ (s : State) (e : Fin 36), (s.engine e).work = .idle → exec (.cipherUnitDone e) s = .next s.settleAll) ∧
  (∀ (s : State) q, q.op = 1 → s.finishRequest q = s.completeCipher q 0 q.epoch (q.payloadLen + 16) q.inv (q.out ++ q.tag)) ∧
  (∀ (s : State) q, q.op = 2 → (q.tag = slice q.input (q.aadLen + q.payloadLen) 16 → s.finishRequest q = s.completeCipher q 0 q.epoch q.payloadLen 0 q.out) ∧
    (q.tag ≠ slice q.input (q.aadLen + q.payloadLen) 16 → s.finishRequest q = (s.completeCipher q 0x05 q.epoch q.payloadLen 0 (s.freeBytes q.payloadLen)).drewN q.payloadLen)) ∧
  (∀ (s : State) (c : Fin 262144) b, s.isHot c = true ∨ (s.keyCtx c).state = .EMPTY ∨ (s.keyCtx c).state = .LOCKED ∨ s.nextOf c = none → exec (.contextLoad c b) s = .next s) ∧
  (∀ (s : State) (c : Fin 262144) b, s.isHot c = false → (s.keyCtx c).state = .ACTIVE → (s.nextOf c).isSome = true →
    (s.pairsAwake s.coldPlace = false → exec (.contextLoad c b) s = .next (s.touchPairs s.coldPlace)) ∧
    (s.pairsAwake s.coldPlace = true → b = none → s.cph.hot.length < 16384 →
      exec (.contextLoad c b) s = .next (State.bump { s with cph := { s.cph with hot := s.cph.hot ++ [c.val] } } .CPH_CTX_LOADS 0)) ∧
    (s.pairsAwake s.coldPlace = true → s.unwraps c b = false → exec (.contextLoad c b) s = .next (s.contained .none 0 (some (.key, c.val))))) ∧
  (∀ (s : State) (e : Fin 36), exec (.cipherEngineError e) s = .next (s.drew.elementError
    { cls := .contained, kind := .cipherEngine, index := BitVec.ofNat 32 e, cause := s.freeCause, scope := none, detail := 0, hit := .nothing }))

/-- Context commands, limits and checkpoints. On the context the requester selects, LOCK locks it for a cause of its own
and DROP_PREVIOUS discards its previous key, both without effect on an empty one; a limit is set by a vault to any
value in range, lowered by any other requester, and a raise refused with LIMIT_REFUSED; values out of range and a byte
limit of a GCM context are ignored; a checkpoint done writes the record's counters to the store and lets the context
go on. Rests on R246, R248, R249, R252, R253, R254. -/
def Obligations.CipherContexts : Prop :=
  (∀ (s u : State) r, s.admitWrite r .CPH_CTX_CMD 0 = (true, u) →
    ((u.keyCtx (u.contextSel r)).state = .EMPTY → exec (.lockContext r) s = .next u ∧ exec (.dropPrevious r) s = .next u) ∧
    ((u.keyCtx (u.contextSel r)).state ≠ .EMPTY → exec (.lockContext r) s = .next (u.lockOwn (u.contextSel r)).settleAll ∧
      exec (.dropPrevious r) s = .next ((u.setKeyCtx (u.contextSel r) { u.keyCtx (u.contextSel r) with prev := none }).writeCold (u.contextSel r)))) ∧
  (∀ (s u : State) r (v : BitVec 64) c k n, s.admitWrite r .CPH_CTX_LIMIT 0 = (true, u) → c = u.contextSel r → k = u.keyCtx c → n = v.toNat % 2 ^ 49 →
    (n = 0 ∨ 2 ^ 48 < n → exec (.ctxLimitWrite r .uses v) s = .next u) ∧
    (1 ≤ n → n < k.limit → n ≤ 2 ^ 48 → exec (.ctxLimitWrite r .uses v) s = .next (u.setKeyCtx c { k with limit := n })) ∧
    (∀ x, r = .vault x → k.limit < n → n ≤ 2 ^ 48 → exec (.ctxLimitWrite r .uses v) s = .next (u.setKeyCtx c (KeyCtx.revive { k with limit := n }))) ∧
    (∀ x y, r = .cpc x y → k.limit ≤ n → 1 ≤ n → n ≤ 2 ^ 48 → exec (.ctxLimitWrite r .uses v) s = .next (u.setFld Fld.CPH_STATUS_LIMIT_REFUSED 0 1))) ∧
  (∀ (s u : State) r (v : BitVec 64) c k n, s.admitWrite r .CPH_CTX_BYTE_LIMIT 0 = (true, u) → c = u.contextSel r → k = u.keyCtx c → n = v.toNat % 2 ^ 51 →
    (n = 0 ∨ 2 ^ 50 < n ∨ k.alg < 3 → exec (.ctxLimitWrite r .bytes v) s = .next u) ∧
    (1 ≤ n → n < k.byteLimit → n ≤ 2 ^ 50 → 3 ≤ k.alg → exec (.ctxLimitWrite r .bytes v) s = .next (u.setKeyCtx c { k with byteLimit := n }))) ∧
  (∀ (s : State) (c : Fin 262144) k u b m, k = s.keyCtx c → k.writing = some (u, b) → k.cur = some m → exec (.checkpointComplete c) s =
    .next ((s.putCounter ⟨m.id, u, b, false, true⟩).setKeyCtx c (KeyCtx.checkpoint { k with p := u, pb := b, writing := none, wait := false }))) ∧
  (∀ (s : State) (c : Fin 262144), (s.keyCtx c).writing = none → exec (.checkpointComplete c) s = .next s)

/-- Services of the vault request ring. The lead vault takes the request at the head of the ring when it is one for the
service commanded, and nothing otherwise; a request whose TAG matches a kept reply is answered from it and not
performed again; a vault that does not serve answers POLICY_DENIED; any other request is performed and answered with
its TAG, status and body; a reply advances the reply producer and the request consumer. GENERATE makes a fresh key
wrapped in a blob; INSTALL and GENERATE_INSTALL refuse a context that is not EMPTY with CONTEXT_BUSY; STAGE_SUCCESSOR
is UNSUPPORTED for XTS and busy with a full slot; DISCARD cleans the record and empties the context; EXPORT refuses a
key that is not EXPORTABLE; the IKE services need a handle; HANDOVER_OFFER keeps its offer. Rests on R250, R255, R259,
R264, R267, R269, R270, R271, R272, R278. -/
def Obligations.VaultServices : Prop :=
  (∀ (s : State) q, s.vaultHead = some q →
    (q.code = 1 → exec .generate s = .next (s.serve q).settleAll) ∧ (q.code = 2 → exec .installKey s = .next (s.serve q).settleAll) ∧
    (q.code = 3 → exec .generateInstall s = .next (s.serve q).settleAll) ∧ (q.code = 4 → exec .stageSuccessor s = .next (s.serve q).settleAll) ∧
    (q.code = 5 → exec .discard s = .next (s.serve q).settleAll) ∧ (q.code = 6 → exec .exportKey s = .next (s.serve q).settleAll) ∧
    (q.code = 7 → exec .ikeStart s = .next (s.serve q).settleAll) ∧ (q.code = 8 → exec .ikeKeys s = .next (s.serve q).settleAll) ∧
    (q.code = 9 → exec .childSa s = .next (s.serve q).settleAll) ∧ (q.code = 10 → exec .ikeEnd s = .next (s.serve q).settleAll) ∧
    (q.code = 11 → exec .handoverOffer s = .next (s.serve q).settleAll)) ∧
  (∀ (s : State), s.vaultHead = none → exec .generate s = .next s.settleAll ∧ exec .handoverOffer s = .next s.settleAll) ∧
  (∀ (s : State) q r, s.vlt.replies.find? (fun x => x.1 == q.tag) = some r → s.serve q = s.vaultReply q r.2) ∧
  (∀ (s t : State) q st body bytes, s.vlt.replies.find? (fun x => x.1 == q.tag) = none →
    (s.vaultServes = false ∧ (st, body, t) = (0xD0, [], s)) ∨ (s.vaultServes = true ∧ (st, body, t) = s.service q.code q.body) →
    bytes = toLE 4 q.tag.toNat ++ toLE 1 st ++ [0, 0, 0] ++ toLE 4 body.length ++ body →
    s.serve q = State.vaultReply { t with vlt := { t.vlt with replies := (t.vlt.replies ++ [(q.tag, bytes)]).drop (t.vlt.replies.length - 63) } } q bytes) ∧
  (∀ (s : State) q bytes, ∃ u : State, u.mem.vring = writeMem s.mem.vring (replySlot q.unit (s.fld Fld.RDN_LOCAL_VRING_RPL_PROD q.unit)) bytes ∧
    u.regs = s.regs ∧ u.vlt = s.vlt ∧ s.vaultReply q bytes = State.unitEvent ((u.setFld Fld.RDN_LOCAL_VRING_RPL_PROD q.unit
      ((s.fld Fld.RDN_LOCAL_VRING_RPL_PROD q.unit + 1) % 32)).setFld Fld.RDN_LOCAL_VRING_REQ_CONS q.unit
      (((u.setFld Fld.RDN_LOCAL_VRING_RPL_PROD q.unit ((s.fld Fld.RDN_LOCAL_VRING_RPL_PROD q.unit + 1) % 32)).fld Fld.RDN_LOCAL_VRING_REQ_CONS q.unit + 1) % 32)) q.unit 6) ∧
  (∀ (s : State) b alg dom pol, 3 ≤ b.length → alg = leAt b 0 1 → dom = leAt b 1 1 → pol = leAt b 2 1 → 1 ≤ alg → alg ≤ 4 → dom < s.vlt.domains → pol ≤ 3 → s.entropy = true →
    ∃ k u blob w, s.reseed.freshKey alg (bit pol 0) dom = (k, u) ∧
      u.makeBlob { magic := ascii "AMRK", alg := alg, domain := dom, policy := pol, keyId := k.id, drkId := u.drkId, used := 0, bytes := 0 } k.material k.fixed.toNat = (blob, w) ∧
      s.service 1 b = (0, blob, w)) ∧
  (∀ (s : State) b, s.entropy = false → 1 ≤ leAt b 0 1 → leAt b 0 1 ≤ 4 → leAt b 1 1 < s.vlt.domains → leAt b 2 1 ≤ 3 → 3 ≤ b.length → s.service 1 b = (0xD5, [], s)) ∧
  (∀ (s : State) b, 192 ≤ b.length → s.service 2 b = ((s.doInstall b).1, [], (s.doInstall b).2)) ∧
  (∀ (s : State) e h m f, allZero (slice e 186 6) = true → s.unwrap (slice e 0 160) = .inr (h, m, f) → s.doInstall e = s.installKey (installEntry e) h.alg
    { material := m, fixed := BitVec.ofNat 32 f, id := h.keyId, exportable := bit h.policy 0, domain := h.domain } (bit h.policy 1) h.used h.bytes) ∧
  (∀ (s : State) i alg m persist used bytes, i.ok alg = true →
    ((s.keyCtx i.ctx).state ≠ .EMPTY → s.installKey i alg m persist used bytes = (0xD3, s)) ∧
    ((s.keyCtx i.ctx).state = .EMPTY → s.ownerHasRoom i.owner = false → s.installKey i alg m persist used bytes = (0x09, s)) ∧
    ((s.keyCtx i.ctx).state = .EMPTY → s.ownerHasRoom i.owner = true → s.counterOf m.id = none → 2048 ≤ s.vlt.store.counters.length →
      s.installKey i alg m true used bytes = (0xD6, s)) ∧
    ((s.keyCtx i.ctx).state = .EMPTY → s.ownerHasRoom i.owner = true → (s.installKey i alg m false used bytes).1 = 0)) ∧
  (∀ (s : State) b, 25 ≤ b.length → 1 ≤ leAt b 0 1 → leAt b 0 1 ≤ 4 → s.entropy = true → ∀ i : Install,
    i = { ctx := leAt b 1 4, owner := leAt b 5 2, ivPrefix := leAt b 7 2, limit := leAt b 9 8, byteLimit := leAt b 17 8, weight := 1, pin := false } →
    i.ok (leAt b 0 1) = true → (s.keyCtx i.ctx).state = .EMPTY → s.service 3 b =
      ((((s.freshKey (leAt b 0 1) false 0).2).installKey i (leAt b 0 1) (s.freshKey (leAt b 0 1) false 0).1 false 0 0).1, [],
       (((s.freshKey (leAt b 0 1) false 0).2).installKey i (leAt b 0 1) (s.freshKey (leAt b 0 1) false 0).1 false 0 0).2)) ∧
  (∀ (s : State) b, 5 ≤ b.length → leAt b 0 4 < 262144 → (s.keyCtx (leAt b 0 4)).state ≠ .EMPTY →
    (3 ≤ (s.keyCtx (leAt b 0 4)).alg → s.service 4 b = (0x0D, [], s)) ∧
    ((s.keyCtx (leAt b 0 4)).alg < 3 → (s.keyCtx (leAt b 0 4)).succ.isSome = true → s.service 4 b = (0xD3, [], s)) ∧
    ((s.keyCtx (leAt b 0 4)).alg < 3 → (s.keyCtx (leAt b 0 4)).succ = none → b.length < 164 → s.entropy = true → ∀ m u, s.freshKey (s.keyCtx (leAt b 0 4)).alg false 0 = (m, u) →
      s.service 4 b = ((u.stage (leAt b 0 4) m).1, [], (u.stage (leAt b 0 4) m).2))) ∧
  (∀ (s : State) b, 4 ≤ b.length → leAt b 0 4 < 262144 → s.service 5 b = (0, [], s.discardCtx (leAt b 0 4))) ∧
  (∀ (s : State) b, 4 ≤ b.length → leAt b 0 4 < 262144 →
    ((s.keyCtx (leAt b 0 4)).cur = none → s.service 6 b = (0xD4, [], s)) ∧
    (∀ m, (s.keyCtx (leAt b 0 4)).cur = some m → m.exportable = false → s.service 6 b = (0xD4, [], s)) ∧
    (∀ m, (s.keyCtx (leAt b 0 4)).cur = some m → m.exportable = true → s.entropy = true →
      s.service 6 b = (0, (s.exportBlob (s.keyCtx (leAt b 0 4)) m).1, (s.exportBlob (s.keyCtx (leAt b 0 4)) m).2))) ∧
  (∀ (s : State) b, (∀ h, h < 256 → (s.ikeAt h).isSome = true) → s.service 7 b = (0xD2, [], s)) ∧
  (∀ (s : State) b, (s.ikeAt 0) = none → s.entropy = true → s.service 7 b = (0, toLE 1 0 ++ Config.ecPublic (s.drbg 48).1, (s.drbg 48).2.setIke 0 (some ⟨(s.drbg 48).1, none⟩))) ∧
  (∀ (s : State) b, s.ikeAt (leAt b 0 1) = none → s.service 8 b = (0xD2, [], s) ∧ s.service 9 b = (0xD2, [], s) ∧ s.service 10 b = (0xD2, [], s)) ∧
  (∀ (s : State) b k n keys, s.ikeAt (leAt b 0 1) = some k → n = leAt b 97 2 + leAt b 99 2 → b.length = 117 + n →
    keys = ikePrf (hmac (slice b 101 n) (Config.ecdh k.own (slice b 1 96))) (slice b 101 n ++ slice b (101 + n) 16) 216 →
    s.service 8 b = (0, keys.drop 48, s.setIke (leAt b 0 1) (some { k with skd := some (keys.take 48) }))) ∧
  (∀ (s : State) b k, s.ikeAt (leAt b 0 1) = some k → s.service 10 b = (0, [], s.setIke (leAt b 0 1) none)) ∧
  (∀ (s : State) b, s.entropy = true → ∃ kem dh offer u, s.service 11 b = (0, offer, { u with vlt := { u.vlt with offer := some ⟨offer, kem, dh⟩ } }) ∧
    u = ((((s.reseed.drbg 64).2).drbg 48).2.drbg 8).2 ∧ kem = (s.reseed.drbg 64).1 ∧ dh = (((s.reseed.drbg 64).2).drbg 48).1) ∧
  (∀ (s : State) b, s.entropy = false → s.service 11 b = (0xD5, [], s))

/-- Warrants, zeroisation, entropy and self-tests. A warrant with a lead vault and a control map that answers is checked:
accepted, it sets the warrant sequence and waits for its service; refused, it is answered with its status and changes
nothing. The oldest accepted warrant is performed for its service alone and answered; with zeroisation under way it is
answered POLICY_DENIED. Each service is refused with POLICY_DENIED outside its condition and has its effect inside it.
A zeroisation input starts zeroisation in every state but OFF; a second trigger has no further effect; its end erases
keys, seed and counter records, sets ZEROISED and takes STAGE to CURTAIN. A failed health test is a contained error of
the source; the DRBG is reseeded when due; the periodic self-test acts in STAGE alone. Rests on R264, R265, R273,
R274, R275, R278, R284, R286, R287, R288. -/
def Obligations.Warrants : Prop :=
  (∀ (s : State) o m, s.leadVault.isSome = true → s.mapAnswers = true →
    (s.checkWarrant m = 0 → exec (.warrant o m) s = .next { s with vlt := { s.vlt with warrantSeq := leAt m 0x50 8, accepted := s.vlt.accepted ++
      [{ origin := o, service := leAt m 0x18 2, seq := leAt m 0x50 8, body := slice m 128 (leAt m 0x1C 4) }] } }) ∧
    (s.checkWarrant m ≠ 0 → exec (.warrant o m) s = .next (s.replyTo o (leAt m 0x50 8) (s.checkWarrant m) 0xFFFF []))) ∧
  (∀ (s : State) m, s.vlt.erasing = true → s.checkWarrant m = 0xD0) ∧
  (∀ (s : State) m ns h n k, s.vlt.error = false → s.vlt.erasing = false → h = slice m 0 128 → n = leAt h 0x1C 4 → k = leAt h 0x1A 1 → 1 ≤ k → k ≤ 8 → n ≤ 1048576 →
    128 + n + 4736 * k ≤ m.length → s.countBlocks h ((List.range k).map (fun i => slice m (128 + n + 4736 * i) 4736)) [] = some ns →
    s.authentic (ascii "AMRW") s.vlt.warrantSeq 0x50 0x20 h (slice m 128 n) = true → 1 ≤ leAt h 0x18 2 → leAt h 0x18 2 ≤ 9 →
    (leAt h 0x18 2 = 1 → 1 ≤ ns.length → s.checkWarrant m = 0) ∧
    (leAt h 0x18 2 ≠ 1 → s.kInForce ≤ ns.length → s.checkWarrant m = 0) ∧
    (leAt h 0x18 2 ≠ 1 → ns.length < s.kInForce → s.checkWarrant m = Code.AUTH_FAIL)) ∧
  (∀ (s : State) h b bs ns, leAt b 4 1 < 8 → s.vlt.houseSet.getLsbD (leAt b 4 1) = true → (s.keySlot (4 + leAt b 4 1)).isSome = true → ns.contains (leAt b 4 1) = false →
    s.houseSigned h b = false → s.countBlocks h (b :: bs) ns = none) ∧
  (∀ (s u : State) w rest, s.vlt.accepted = w :: rest → u = { s with vlt := { s.vlt with accepted := rest } } → s.vlt.error = false → s.vlt.erasing = false →
    (w.service = 1 → exec .zeroize s = .next (u.startZeroise.settleAll.replyTo w.origin w.seq 0 0xFFFF [])) ∧
    (∀ st body t, u.handoverExport w.body = (st, body, t) → w.service = 2 → exec .handoverExport s = .next (t.replyTo w.origin w.seq st 0xFFFF body)) ∧
    (∀ st body t, u.handoverImport w.body = (st, body, t) → w.service = 3 → exec .handoverImport s = .next (t.replyTo w.origin w.seq st 0xFFFF body)) ∧
    (w.service = 4 → w.body.length = 2704 → leAt w.body 0 1 < 4 →
      (u.keySlot (leAt w.body 0 1) = none → exec .enrolImageKey s = .next ((u.setKeySlot (leAt w.body 0 1) (some (slice w.body 15 2689))).replyTo w.origin w.seq 0 0xFFFF [])) ∧
      (∀ k, u.keySlot (leAt w.body 0 1) = some k → exec .enrolImageKey s = .next (u.replyTo w.origin w.seq 0xD0 0xFFFF []))) ∧
    (w.service = 5 → w.body ≠ [] → leAt w.body 0 1 < 4 →
      (u.slotNamed (leAt w.body 0 1) = false → exec .withdrawImageKey s = .next ((u.setKeySlot (leAt w.body 0 1) none).replyTo w.origin w.seq 0 0xFFFF [])) ∧
      (u.slotNamed (leAt w.body 0 1) = true → exec .withdrawImageKey s = .next (u.replyTo w.origin w.seq 0xD0 0xFFFF []))) ∧
    (∀ i, w.service = 6 → w.body.length = 2704 → leAt w.body 0 1 < 8 → i < 8 → i ≠ leAt w.body 0 1 → u.vlt.houseSet.getLsbD i = true → (u.keySlot (4 + i)).isSome = true →
      exec .replaceHouseKey s = .next ((u.setKeySlot (4 + leAt w.body 0 1) (some (slice w.body 15 2689))).replyTo w.origin w.seq 0 0xFFFF [])) ∧
    (w.service = 7 → w.body ≠ [] →
      (1 ≤ leAt w.body 0 1 → leAt w.body 0 1 ≤ 8 → exec .setKFloor s = .next ((u.writeStore (.critical 1) (fun t => { t with kFloor := leAt w.body 0 1 })).replyTo w.origin w.seq 0 0xFFFF [])) ∧
      (8 < leAt w.body 0 1 → exec .setKFloor s = .next (u.replyTo w.origin w.seq 0xD0 0xFFFF []))) ∧
    (w.service = 8 →
      (u.dev.state ≠ .STAGE → exec .debugUnlock s = .next (u.replyTo w.origin w.seq 0xD0 0xFFFF [])) ∧
      (u.dev.state = .STAGE → ∃ v, v = ((u.lockAll (fun _ _ => true)).stopIde).settleAll ∧
        exec .debugUnlock s = .next (State.replyTo { v with vlt := { v.vlt with debug := true } } w.origin w.seq 0 0xFFFF []))) ∧
    (∀ st body t, u.wReinitialise w.body = (st, body, t) → w.service = 9 → s.vlt.store.zeroised = true →
      (t.replyTo w.origin w.seq st 0xFFFF body).vlt.store.zeroised = false →
      exec .reinitialise s = .next (((t.replyTo w.origin w.seq st 0xFFFF body).cleanRecords).reload .RESTART))) ∧
  (∀ (s : State) w rest, s.vlt.accepted = w :: rest → s.vlt.erasing = true →
    (w.service = 1 → exec .zeroize s = .next (State.replyTo { s with vlt := { s.vlt with accepted := rest } } w.origin w.seq 0xD0 0xFFFF [])) ∧
    (w.service ≠ 1 → exec .zeroize s = .next s)) ∧
  (∀ (s : State) b, s.dev.state ≠ .CURTAIN ∨ s.dev.cause ≠ .ZEROIZE → s.wReinitialise b = (0xD0, [], s)) ∧
  (∀ (s : State), (s.dev.state = .OFF → exec .zeroizeNAssert s = .next { s with pins := { s.pins with zeroize := true } }) ∧
    (s.dev.state = .OFF → exec .lidTamperAssert s = .next { s with pins := { s.pins with tamper := true } }) ∧
    (s.dev.state ≠ .OFF → exec .zeroizeNAssert s = .next (State.startZeroise { s with pins := { s.pins with zeroize := true } }).settleAll) ∧
    (s.dev.state ≠ .OFF → exec .lidTamperAssert s = .next (State.startZeroise { s with pins := { s.pins with tamper := true } }).settleAll)) ∧
  (∀ (s : State), s.vlt.erasing = true → s.startZeroise = s) ∧
  (∀ (s : State), s.vlt.erasing = false → s.startZeroise.vlt.erasing = true ∧ s.startZeroise.vlt.accepted = []) ∧
  (∀ (s : State), s.erase.cph.ctxs = [] ∧ s.erase.vlt.store.zeroised = true ∧ s.erase.seedErased = true ∧ s.erase.vlt.store.drk = some [] ∧ s.erase.vlt.store.counters = [] ∧
    s.erase.vlt.store.countersB = [] ∧ s.erase.vlt.store.slots = s.vlt.store.slots ∧ s.erase.vlt.store.kFloor = s.vlt.store.kFloor ∧
    s.erase.vlt.store.minVersion = s.vlt.store.minVersion ∧ s.erase.vlt.store.retired = s.vlt.store.retired ∧ s.erase.vlt.sessions = [] ∧ s.erase.vlt.ideKeys = [] ∧ s.erase.vlt.ike = []) ∧
  (∀ (s : State), (s.vlt.erasing = false → exec .zeroisationComplete s = .next s) ∧
    (s.vlt.erasing = true → s.erase.settleAll.dev.state = .STAGE → exec .zeroisationComplete s = .next (s.erase.settleAll.deviceCurtain .ZEROIZE 9 none)) ∧
    (s.vlt.erasing = true → s.erase.settleAll.dev.state = .LOADING → exec .zeroisationComplete s = .next s.erase.settleAll)) ∧
  (∀ (s : State) (v : Fin 2), (SMap.get (fun _ => []) s.vlt.sourceFails v.val).filter (fun t => s.elapsed < t + 1000000000) = [] →
    exec (.entropyTestFail v) s = .next (State.elementError { s with vlt := { s.vlt with sourceFails := SMap.set (fun _ => []) v.val [s.elapsed] s.vlt.sourceFails } }
      { cls := .contained, kind := .entropy, index := BitVec.ofNat 32 v, cause := 9, scope := none, detail := 0, hit := .nothing })) ∧
  (∀ (s : State), (s.reseedDue = true → s.entropy = true → exec .drbgReseed s = .next (s.seedFrom (drbgReseed s.vlt.drbg))) ∧ (s.reseedDue = false → exec .drbgReseed s = .next s)) ∧
  (∀ (s : State) pass failed, s.dev.state ≠ .STAGE → exec (.periodicSelfTest pass failed) s = .next s.settleAll) ∧
  (∀ (s : State), s.dev.state = .STAGE → exec (.periodicSelfTest true []) s = .next s.settleAll ∧
    (∀ v, s.leadVault = some v → exec (.periodicSelfTest false []) s = .next (s.unitFails (2 + v)).settleAll)) ∧
  (∀ (s : State) (e : Fin 36), s.dev.state = .STAGE → s.isRetired .cipherEngine (BitVec.ofNat 32 e) = false → exec (.periodicSelfTest true [e]) s =
    .next ((s.elementError { cls := .contained, kind := .cipherEngine, index := BitVec.ofNat 32 e, cause := 8, scope := none, detail := 0, hit := .nothing }).selfTestEnds
      .cipherEngine (BitVec.ofNat 32 e) false true 0).settleAll)

/-- The SPDM responder and the IDE keys. At a port whose responder answers, GET_VERSION, GET_CAPABILITIES and
NEGOTIATE_ALGORITHMS move the connection one stage on and are answered, or get UnexpectedRequest out of order; the
other requests need the third stage. GET_DIGESTS and GET_CERTIFICATE answer from the chains, CHALLENGE and
GET_MEASUREMENTS with a signed response; a fifth KEY_EXCHANGE of a port gets SessionLimitExceeded; FINISH secures its
session; HEARTBEAT, KEY_UPDATE, END_SESSION and the IDE_KM messages act within a secured session, KEY_PROG loading the
key of a sub-stream, K_SET_GO and K_SET_STOP setting its use, and the end of a session leaves the IDE keys as they
are. At a port whose responder does not answer nothing happens. Rests on R259, R276, R277, R309. -/
def Obligations.SpdmResponder : Prop :=
  (∀ (s : State) (h : Fin 16), s.doeUp h = true →
    exec (.getVersion h) s = .next ((s.setSpdmStage h 1).spdm h 0x04 (toLE 1 2 ++ toLE 2 0x1200 ++ toLE 2 0x1300)) ∧
    (1 ≤ s.spdmStage h → exec (.getCapabilities h) s = .next ((s.setSpdmStage h 2).spdm h 0x61 (toLE 1 20 ++ toLE 4 0x62D6))) ∧
    (s.spdmStage h = 0 → exec (.getCapabilities h) s = .next (s.spdmError h 4)) ∧
    (2 ≤ s.spdmStage h → exec (.negotiateAlgorithms h true) s = .next ((s.setSpdmStage h 3).spdm h 0x63 (toLE 4 0x80 ++ toLE 4 2 ++ toLE 2 0x10 ++ toLE 2 2)) ∧
      exec (.negotiateAlgorithms h false) s = .next (s.spdmError h 1))) ∧
  (∀ (s : State) (h : Fin 16) slot o n nonce i e x t key, s.doeUp h = false →
    exec (.getVersion h) s = .next s ∧ exec (.getCapabilities h) s = .next s ∧ exec (.getDigests h) s = .next s ∧ exec (.getCertificate h slot o n) s = .next s ∧
    exec (.challenge h slot nonce) s = .next s ∧ exec (.getMeasurements h i nonce) s = .next s ∧ exec (.keyExchange h slot e) s = .next s ∧
    exec (.finish h x) s = .next s ∧ exec (.heartbeat h x) s = .next s ∧ exec (.keyUpdate h x) s = .next s ∧ exec (.endSession h x) s = .next s ∧
    exec (.keyProg h x t key) s = .next s ∧ exec (.kSetGo h x t) s = .next s ∧ exec (.kSetStop h x t) s = .next s) ∧
  (∀ (s : State) (h : Fin 16) slot nonce, s.doeUp h = true → s.spdmStage h ≠ 3 → exec (.getDigests h) s = .next (s.spdmError h 4) ∧ exec (.challenge h slot nonce) s = .next (s.spdmError h 4)) ∧
  (∀ (s : State) (h : Fin 16), s.doeUp h = true → s.spdmStage h = 3 →
    (s.certChain 0 = [] → exec (.getDigests h) s = .next (s.spdm h 0x01 [0])) ∧
    (s.certChain 0 ≠ [] → exec (.getDigests h) s = .next (s.spdm h 0x01 ([1] ++ slice (Config.sha384 (s.certChain 0)) 0 48))) ∧
    (∀ slot o n, s.certChain slot.toNat = [] → exec (.getCertificate h slot o n) s = .next (s.spdmError h 1)) ∧
    (∀ slot o n m, o.toNat < (s.certChain slot.toNat).length → m = min n.toNat ((s.certChain slot.toNat).length - o.toNat) →
      exec (.getCertificate h slot o n) s = .next (s.spdm h 0x02 (toLE 1 slot.toNat ++ toLE 2 m ++
        toLE 2 ((s.certChain slot.toNat).length - o.toNat - m) ++ slice (s.certChain slot.toNat) o.toNat m))) ∧
    (∀ slot nonce body, s.certChain slot.toNat ≠ [] → s.entropy = true → (s.drbg 32).2.seedErased = false →
      body = toLE 1 slot.toNat ++ slice (Config.sha384 (s.certChain slot.toNat)) 0 48 ++ (s.drbg 32).1 ++ toLE 32 nonce.toNat →
      exec (.challenge h slot nonce) s = .next ((s.drbg 32).2.spdm h 0x03 (body ++ slice (Config.signEcdsa (s.drbg 32).2.seed body) 0 96))) ∧
    (∀ nonce, exec (.getMeasurements h 0 nonce) s = .next (s.spdm h 0x60 (toLE 1 7))) ∧
    (∀ i nonce, 7 < i.toNat → i.toNat ≠ 255 → exec (.getMeasurements h i nonce) s = .next (s.spdmError h 1)) ∧
    (∀ i nonce body, 1 ≤ i.toNat → i.toNat ≤ 7 → s.entropy = true → (s.drbg 32).2.seedErased = false →
      body = toLE 1 i.toNat ++ toLE 2 ((s.drbg 32).2.measurement i.toNat).length ++ (s.drbg 32).2.measurement i.toNat ++ (s.drbg 32).1 ++ toLE 32 nonce.toNat →
      exec (.getMeasurements h i nonce) s = .next ((s.drbg 32).2.spdm h 0x60 (body ++ slice (Config.signEcdsa (s.drbg 32).2.seed body) 0 96))) ∧
    (∀ slot e, e.length = 96 → 4 ≤ (s.vlt.sessions.filter (fun x => x.port == h.val)).length → exec (.keyExchange h slot e) s = .next (s.spdmError h 0x0A)) ∧
    (∀ slot e a u, e.length = 96 → (s.vlt.sessions.filter (fun x => x.port == h.val)).length < 4 → s.certChain slot.toNat ≠ [] → s.entropy = true → a = (s.drbg 32).2 → a.seedErased = false →
      u = (a.drbg 48).2.drew → u.seedErased = false → ∃ body, exec (.keyExchange h slot e) s = .next (State.spdm { u with vlt := { u.vlt with
        sessions := u.vlt.sessions ++ [⟨h, (a.drbg 48).2.free.toNat % 2 ^ 32, false, 0⟩] } } h 0x64 (body ++ slice (Config.signEcdsa u.seed body) 0 96))) ∧
    (∀ id, s.session? h id = none → exec (.finish h id) s = .next (s.spdmError h 2) ∧ exec (.heartbeat h id) s = .next (s.spdmError h 2)) ∧
    (∀ id x, s.session? h id = some x → x.secured = false →
      exec (.finish h id) s = .next ((s.setSession { x with secured := true }).spdm h 0x65 (toLE 4 x.id)) ∧ exec (.heartbeat h id) s = .next (s.spdmError h 4)) ∧
    (∀ id x t, s.session? h id = some x → x.secured = true →
      exec (.heartbeat h id) s = .next (s.spdm h 0x68 (toLE 4 x.id)) ∧
      exec (.keyUpdate h id) s = .next ((s.setSession { x with keys := x.keys + 1 }).spdm h 0x69 (toLE 4 x.id)) ∧
      exec (.endSession h id) s = .next ((s.dropSession x).spdm h 0x6C (toLE 4 x.id)) ∧ (s.dropSession x).vlt.ideKeys = s.vlt.ideKeys ∧
      (∀ key, key.length ≠ 32 → exec (.keyProg h id t key) s = .next (s.ideKm h 3 t 1)) ∧
      (∀ key, key.length = 32 → t.port = h → s.linkExists h t.link = true → (s.linkStreams t).length < 4 → exec (.keyProg h id t key) s = .next ((s.setIde t { key := key, go := false }).ideKm h 3 t 0)) ∧
      (∀ k, t.port = h → s.ideFind t = some k → exec (.kSetGo h id t) s = .next (((s.setIde t { k with go := true }).releaseHeld (4 * h.val + t.link.val)).ideKm h 6 t 0) ∧
        exec (.kSetStop h id t) s = .next (((s.setIde t { k with go := false }).releaseHeld (4 * h.val + t.link.val)).ideKm h 6 t 0)) ∧
      (t.port = h → s.ideFind t = none → exec (.kSetGo h id t) s = .next (s.ideKm h 6 t 0))))

/-- Host links, functions and their resets. A port's fundamental reset brings every link of it down with both functions in
their reset state and its slices stopped; its release starts the time of R52. A link trains at a rate and width it
has, in a port out of reset; the link going down acts on both functions as a Function Level Reset. MAX_SPEED written 0
is ignored, below the current rate it starts a retrain, and RETRAIN does so at once. A withdrawal of mastering that
held stops PF1's work; a Function Level Reset of either function is counted, and until it completes its requests are
answered with Request Retry Status. A configuration request is answered with Request Retry Status before its time and
normally after it. A Resizable BAR takes a size in its range, clearing the base bits below it. Rests on R52, R290,
R292, R293, R294, R299, R300, R307, R308, R312. -/
def Obligations.HostLinks : Prop :=
  (∀ (s : State) (h : Fin 16), exec (.perstAssert h) s = .next (([4 * h.val + 0, 4 * h.val + 1, 4 * h.val + 2, 4 * h.val + 3].foldl (fun t l =>
    State.setHostLink ((((((t.retireLink l).masterStop l).dropHeld l).resetFunc l 0 false).resetFunc l 1 false)) l
      { (((((t.retireLink l).masterStop l).dropHeld l).resetFunc l 0 false).resetFunc l 1 false).hostLink l with up := false, flit := false, speed := 0, width := 0 })
    { s with pins := { s.pins with perst := s.pins.perst ||| BitVec.ofNat 16 (2 ^ h.val) } }).settleAll)) ∧
  (∀ (s : State) l, s.resetFunc l 0 false = s.setFunc l 0 {} ∧ s.resetFunc l 1 false = (s.setFunc l 1 {}).freshSizes l ∧
    s.resetFunc l 0 true = s.setFunc l 0 { flr := true, other := (s.func l 0).other.filter (fun x => 0x40 ≤ x.1 && x.1 < 0x52) }) ∧
  (∀ (s : State) (h : Fin 16), s.inPerst h = false → exec (.perstRelease h) s = .next s) ∧
  (∀ (s : State) (h : Fin 16), s.inPerst h = true → exec (.perstRelease h) s = .next { s with
    pins := { s.pins with perst := s.pins.perst &&& ~~~ BitVec.ofNat 16 (2 ^ h.val) }, hep := { s.hep with released := SMap.set (fun _ => 0) h s.elapsed s.hep.released } }) ∧
  (∀ (s : State) (l : Fin 64) flit (speed : Fin 8) (width : Fin 17), s.mayTrain l speed = true → s.inPerst (l / 4) = false → 1 ≤ speed.val →
    width.val = 1 ∨ width.val = 2 ∨ width.val = 4 ∨ width.val = 8 ∨ width.val = 16 → width ≤ s.linkLanes (l / 4) →
    exec (.linkTrained l flit speed width) s = .next (s.setHostLink l { s.hostLink l with up := true, flit := flit || decide (6 ≤ speed.val), speed := speed, width := width })) ∧
  (∀ (s : State) (l : Fin 64) flit (speed : Fin 8) width, s.mayTrain l speed = false ∨ s.inPerst (l / 4) = true → exec (.linkTrained l flit speed width) s = .next s) ∧
  (∀ (s : State) (l : Fin 64), s.dev.earlyUp = false → s.dev.state = .LOADING → s.dev.detect = false → (s.mayTrain l 1 = true ↔ l.val % 4 = 0)) ∧
  (∀ (s : State) (l : Fin 64), (s.hostLink l).up = false → exec (.linkDown l) s = .next s) ∧
  (∀ (s w : State) (l : Fin 64), (s.hostLink l).up = true → w = ((s.functionReset l 0).functionReset l 1).dropHeld l →
    exec (.linkDown l) s = .next (w.setHostLink l { w.hostLink l with up := false, flit := false, speed := 0, width := 0 }).settleAll) ∧
  (∀ (s u : State) r (l : Fin 64) (n : BitVec 3), s.admitWrite r .HEP_LINK_CTRL l = (true, u) → u.linkExists (l / 4) (l % 4) = true → u.sleepingAt .HEP_LINK_CTRL l = none →
    (n = 0 → exec (.maxSpeedWrite r l n) s = .next u) ∧
    (n ≠ 0 → n.toNat < (u.hostLink l).speed → exec (.maxSpeedWrite r l n) s = .next ((u.setFld Fld.HEP_LINK_CTRL_MAX_SPEED l n.toNat).retrain l)) ∧
    (n ≠ 0 → (u.hostLink l).speed ≤ n.toNat → exec (.maxSpeedWrite r l n) s = .next (u.setFld Fld.HEP_LINK_CTRL_MAX_SPEED l n.toNat)) ∧
    exec (.retrain r l) s = .next (u.retrain l)) ∧
  (∀ (s : State) l, (s.hostLink l).up = true → s.retrain l = s.emit (.host l (.retrain (s.fld Fld.HEP_LINK_CTRL_MAX_SPEED l)))) ∧
  (∀ (s : State) (l : Fin 64), s.configured l 1 = true →
    ((s.func l 1).bme = true → exec (.busMasterClear l .busMaster) s = .next ((s.masterStop l).setFunc l 1 { s.func l 1 with bme := false }).settleAll) ∧
    ((s.func l 1).pasid = true → exec (.busMasterClear l .pasid) s = .next ((s.masterStop l).setFunc l 1 { s.func l 1 with pasid := false }).settleAll) ∧
    ((s.func l 1).d3 = false → exec (.busMasterClear l .d3hot) s = .next ((s.masterStop l).setFunc l 1 { s.func l 1 with d3 := true }).settleAll) ∧
    ((s.func l 1).bme = false → exec (.busMasterClear l .busMaster) s = .next s) ∧
    exec (.functionLevelReset l 1) s = .next (((((s.bump .HEP_FLR l).retireLink l).masterStop l).resetFunc l 1 true).settleAll)) ∧
  (∀ (s : State) (l : Fin 64), s.configured l 0 = true → exec (.functionLevelReset l 0) s = .next ((s.bump .HEP_FLR l).resetFunc l 0 true).settleAll) ∧
  (∀ (s : State) (l : Fin 64) (fn : Fin 2) c, s.configured l fn = false → s.configured l 1 = false → exec (.functionLevelReset l fn) s = .next s ∧ exec (.busMasterClear l c) s = .next s) ∧
  (∀ (s : State) (l : Fin 64) (fn : Fin 2), ((s.func l fn).flr = true → exec (.flrComplete l fn) s = .next (s.setFunc l fn { s.func l fn with flr := false })) ∧
    ((s.func l fn).flr = false → exec (.flrComplete l fn) s = .next s)) ∧
  (∀ (s : State) (l : Fin 64) (fn : Fin 2) reg, (s.hostLink l).up = true →
    ((s.func l fn).flr = true ∨ s.dev.earlyUp = false ∨ s.elapsed < SMap.get (fun _ => 0) s.hep.released (l / 4) + 100000000 →
      ∀ w, exec (.configRequest l fn reg w) s = .next ((s.bump .HEP_RRS_SENT l).emit (.host l (.config fn reg.toNat 2 0))).settleAll) ∧
    (s.rrs l fn = false → exec (.configRequest l fn reg none) s = .next (s.emit (.host l (.config fn reg.toNat 0 (s.cfgRead l fn reg.toNat)))).settleAll) ∧
    (s.rrs l fn = false → ∀ v be, exec (.configRequest l fn reg (some (v, be))) s =
      .next ((s.cfgWrite l fn reg.toNat (mergeBytes (s.cfgRead l fn reg.toNat) v be)).emit (.host l (.config fn reg.toNat 0 0))).settleAll)) ∧
  (∀ (s : State) (l : Fin 64) (fn : Fin 2) reg w, (s.hostLink l).up = false → exec (.configRequest l fn reg w) s = .next s.settleAll) ∧
  (∀ (s : State) (l : Fin 64) (n : BitVec 6) v, s.configured l 1 = true → v = s.hostLink l →
    (20 ≤ n.toNat → n.toNat ≤ 28 → exec (.barResize l false n) s = .next (s.setHostLink l { v with bar0Log2 := n.toNat, pf1 := { v.pf1 with
      bar0 := BitVec.ofNat 64 (v.pf1.bar0.toNat / 2 ^ n.toNat * 2 ^ n.toNat) } })) ∧
    (30 ≤ n.toNat → n.toNat ≤ 37 → exec (.barResize l true n) s = .next (s.setHostLink l { v with bar2Log2 := n.toNat, pf1 := { v.pf1 with
      bar2 := BitVec.ofNat 64 (v.pf1.bar2.toNat / 2 ^ n.toNat * 2 ^ n.toNat) } })) ∧
    (n.toNat < 20 ∨ 28 < n.toNat → exec (.barResize l false n) s = .next s) ∧ (n.toNat < 30 ∨ 37 < n.toNat → exec (.barResize l true n) s = .next s))

/-- Memory requests and completions of a host link. A received memory request at a link that is up is decoded against the
windows in force: PF0 and PF1 BAR0 accesses are performed and answered with a completion, a request that decodes
nowhere is an Unsupported Request; a poisoned write is counted and dropped; one outside a Secure stream where REQUIRED
is 1 is unsupported; one that fails its IDE check ends its stream. A completion piece of a tag not outstanding, or
whose identifiers disagree, is discarded and counted; a timeout due is counted, its tag retired and its read failed; a
quarantine ends at its time. Rests on R295, R300, R303, R305, R306, R309, R310. -/
def Obligations.HostRequests : Prop :=
  (∀ (s : State) (l : Fin 64) t, (s.hostLink l).up = false ∨ s.dev.earlyUp = false → exec (.hostTlpReceived l t) s = .next s.settleAll) ∧
  (∀ (s : State) (l : Fin 64) t (i : Fin 4), (s.hostLink l).up = true → s.dev.earlyUp = true → t.stream = some i → t.ideOk = false →
    exec (.hostTlpReceived l t) s = .next (s.streamFails l i).settleAll) ∧
  (∀ (s : State) (l : Fin 64) t, (s.hostLink l).up = true → s.dev.earlyUp = true → t.stream = none ∨ t.ideOk = true →
    (t.write = true → t.poisoned = true → exec (.hostTlpReceived l t) s = .next ((s.bump .HEP_POISONED_RX l).aer l 0 4).settleAll) ∧
    (t.poisoned = false → s.flagAt Fld.HEP_IDE_CTRL_REQUIRED l = true → s.outsideIde l t = true → exec (.hostTlpReceived l t) s = .next (s.hostUnsupported l t).settleAll) ∧
    (t.poisoned = false → s.flagAt Fld.HEP_IDE_CTRL_REQUIRED l = false ∨ s.outsideIde l t = false →
      (s.decodeHost l t.addr.toNat = .none → exec (.hostTlpReceived l t) s = .next (s.hostUnsupported l t).settleAll) ∧
      (∀ o, s.decodeHost l t.addr.toNat = .pf0 o → t.write = true → exec (.hostTlpReceived l t) s =
        .next (s.pf0Write (l.val / 4) (l.val % 4) o (sizeOfLen t.data.length) (BitVec.ofNat 64 (leNat t.data))).settleAll) ∧
      (∀ o v u, s.decodeHost l t.addr.toNat = .pf0 o → t.write = false → s.pf0Read (l.val / 4) (l.val % 4) o (sizeOfLen t.len.toNat) = (v, u) →
        exec (.hostTlpReceived l t) s = .next (u.complete l 0 (toLE t.len.toNat v.toNat)).settleAll) ∧
      (∀ o n, s.decodeHost l t.addr.toNat = .pf1 o → s.pf1Hidden l = false → 65536 ≤ o → s.sliceAt l (o / 65536) = some n → t.write = true → exec (.hostTlpReceived l t) s =
        .next (s.sliceWrite n (o % 65536) (sizeOfLen t.data.length) (BitVec.ofNat 64 (leNat t.data))).settleAll) ∧
      (∀ o, s.decodeHost l t.addr.toNat = .pf1 o → s.pf1Hidden l = true → t.write = false → exec (.hostTlpReceived l t) s =
        .next (s.complete l 0 (List.replicate t.len.toNat 0xFF)).settleAll) ∧
      (∀ o, s.decodeHost l t.addr.toNat = .pf1 o → s.pf1Hidden l = false → 65536 ≤ o → s.sliceAt l (o / 65536) = none → t.write = false → exec (.hostTlpReceived l t) s =
        .next (s.complete l 0 (List.replicate t.len.toNat 0)).settleAll) ∧
      (∀ o, s.decodeHost l t.addr.toNat = .peer o → s.pf1Hidden l = false → s.dev.state = .STAGE → t.write = true →
        1048576 * s.fld Fld.SLC_PEER_SHARE_SIZE_MIB l < o + t.data.length → exec (.hostTlpReceived l t) s = .next (s.hostUnsupported l t).settleAll))) ∧
  (∀ (s : State) l t, (t.write = true → s.hostUnsupported l t = (s.bump .HEP_UR_SENT l).aer l 0 7) ∧
    (t.write = false → s.hostUnsupported l t = ((s.bump .HEP_UR_SENT l).aer l 0 7).complete l 1 [])) ∧
  (∀ (s : State) l a, (s.hostLink l).pf0.mse = false ∨ (s.hostLink l).pf0.flr = true → (s.hostLink l).pf1.mse = false → s.decodeHost l a = .none) ∧
  (∀ (s : State) (l : Fin 64) (tag : BitVec 14) c, s.readOf (l / 4) tag.toNat = none → c.ideOk = true →
    exec (.completionReceived l tag c) s = .next ((s.bump .HEP_UNEXPECTED_CPL l).aer l 1 2).settleAll) ∧
  (∀ (s : State) (l : Fin 64) (tag : BitVec 14) c r q, s.readOf (l / 4) tag.toNat = some r → r.reqs.find? (fun q => q.tag == tag.toNat && !q.done) = some q → c.ideOk = true →
    c.idsAgree = false → exec (.completionReceived l tag c) s = .next ((s.bump .HEP_UNEXPECTED_CPL l).aer l 1 2).settleAll) ∧
  (∀ (s : State) (l : Fin 64) (tag : BitVec 14) c r q u, s.readOf (l / 4) tag.toNat = some r → r.reqs.find? (fun q => q.tag == tag.toNat && !q.done) = some q → c.ideOk = true →
    r.want.link = l → c.idsAgree = true → c.status = .success → c.byteCount.toNat ≤ q.len → q.len - c.byteCount.toNat + c.data.length ≤ q.len → c.data ≠ [] →
    u = s.setRead (l / 4) tag.toNat (fun r => r.mapTag tag.toNat (fun _ => { q with
      data := putPiece q.data (q.len - c.byteCount.toNat) c.data
      done := q.len == 0 || (putPiece q.data (q.len - c.byteCount.toNat) c.data).all (·.isSome) })) →
    (u.hep.reads.find? (fun x => x.want == r.want && x.ended && !x.failed && x.reqs.any (fun y => y.tag == tag.toNat)) = none →
      exec (.completionReceived l tag c) s = .next u.settleAll) ∧
    (∀ x, u.hep.reads.find? (fun x => x.want == r.want && x.ended && !x.failed && x.reqs.any (fun y => y.tag == tag.toNat)) = some x →
      exec (.completionReceived l tag c) s = .next (u.readDone x).settleAll)) ∧
  (∀ (s : State) (l : Fin 64) (tag : BitVec 14) c (i : Fin 4), c.ideOk = false → c.stream = some i → exec (.completionReceived l tag c) s = .next (s.streamFails l i).settleAll) ∧
  (∀ (s : State) (l : Fin 64) (tag : BitVec 14), s.readOf (l / 4) tag.toNat = none → exec (.completionTimeout l tag) s = .next s.settleAll) ∧
  (∀ (s : State) (l : Fin 64) (tag : BitVec 14) r q, s.readOf (l / 4) tag.toNat = some r → r.reqs.find? (fun q => q.tag == tag.toNat && !q.done) = some q → r.want.link = l →
    (s.elapsed < q.limit → exec (.completionTimeout l tag) s = .next s.settleAll) ∧
    (q.limit ≤ s.elapsed → r.failed = false → exec (.completionTimeout l tag) s =
      .next (((((s.bump .HEP_CPL_TIMEOUT l).aer l 1 3).failReads (fun x => x == r)).retireTag l tag.toNat).readFailed r.want).settleAll)) ∧
  (∀ (s : State) (h : Fin 16) (tag : BitVec 14), exec (.tagQuarantineEnd h tag) s = .next { s with hep := { s.hep with
    quarantine := s.hep.quarantine.filter (fun q => !(q.port == h.val && q.tag == tag.toNat && q.until_ ≤ s.elapsed)) } })

/-- Tenant slices: states, grants, shares and the hello. CREATE binds a FREE slice as RUNNING with FORMAT 0, or answers
the first check that fails; STOP of a RUNNING slice stops it with an advance; START of a STOPPED slice without stale
units runs it; REMOVE frees a slice that owns nothing; each is refused with SLICE_STATE in another state and MALFORMED
for slice 0. Automatic restart needs its conditions; a grant write that would make a bound slice's grant invalid is
refused whole; a peer share that overlaps another or leaves its region is refused; a hello is answered with the
highest common format, written first. Rests on R316, R317, R318, R319, R320, R323, R324, R327, R328. -/
def Obligations.Slices : Prop :=
  (∀ (s u : State) r (n : BitVec 12), s.admitWrite r .SLC_CMD 0 = (true, u) →
    (∀ c, u.createFails n.toNat = some c → exec (.createSlice r n) s = .next (u.slcStatus c)) ∧
    (∀ w x, u.createFails n.toNat = none → w = (u.setFld Fld.SLC_SLICE_STATE_STATE n.toNat 1).setFld Fld.SLC_SLICE_STATE_FORMAT n.toNat 0 →
      x = (w.sliceQueues n.toNat).foldl (fun s g => s.setQueue g { s.queue g with state := .DISABLED }) w →
      exec (.createSlice r n) s = .next (State.slcStatus { x with cbd := { x.cbd with
        slots := SMap.set slotWord (2 * n.toNat) 0 (SMap.set slotWord (2 * n.toNat + 1) 0 x.cbd.slots) } } 0)) ∧
    (n = 0 → exec (.createSlice r n) s = .next (u.slcStatus 1) ∧ exec (.stopSlice r n) s = .next (u.slcStatus 1).settleAll ∧ exec (.startSlice r n) s = .next (u.slcStatus 1) ∧
      exec (.removeSlice r n) s = .next (u.slcStatus 1).settleAll) ∧
    (n ≠ 0 →
      (u.sliceState n.toNat = 1 → exec (.stopSlice r n) s = .next ((u.stopSlice n.toNat false 0xF0).slcStatus 0).settleAll) ∧
      (u.sliceState n.toNat ≠ 1 → exec (.stopSlice r n) s = .next (u.slcStatus 0xE0).settleAll) ∧
      (u.sliceState n.toNat = 2 → u.stale n.toNat = 0 → exec (.startSlice r n) s = .next ((u.setFld Fld.SLC_SLICE_STATE_STATE n.toNat 1).slcStatus 0)) ∧
      (u.sliceState n.toNat = 2 → u.stale n.toNat ≠ 0 → exec (.startSlice r n) s = .next (u.slcStatus 0xE1)) ∧
      (u.sliceState n.toNat ≠ 2 → exec (.startSlice r n) s = .next (u.slcStatus 0xE0)) ∧
      (u.sliceState n.toNat ≠ 0 → exec (.createSlice r n) s = .next (u.slcStatus 0xE0)) ∧
      (u.sliceState n.toNat = 0 → exec (.removeSlice r n) s = .next (u.slcStatus 0xE0).settleAll) ∧
      (u.sliceState n.toNat ≠ 0 → u.sliceOwns n.toNat = true → exec (.removeSlice r n) s = .next (u.slcStatus 0xE2).settleAll) ∧
      (∀ w, u.sliceState n.toNat ≠ 0 → u.sliceOwns n.toNat = false → w = u.haltChannels (u.channelsOf n.toNat) 0xF0 →
        (w.sliceState n.toNat = 1 → exec (.removeSlice r n) s = .next (((((w.leaveRunning n.toNat false).advance n.toNat).setFld Fld.SLC_SLICE_STATE_FORMAT n.toNat 0).setFld
          Fld.SLC_SLICE_STATE_STATE n.toNat 0).slcStatus 0).settleAll)))) ∧
  (∀ (s w v : State) n byHost status, s.sliceState n = 1 → w = (s.haltChannels (s.channelsOf n) status).leaveRunning n false → v = (w.advance n).setFld Fld.SLC_SLICE_STATE_FORMAT n 0 →
    s.stopSlice n byHost status = { v.setFld Fld.SLC_SLICE_STATE_STATE n 2 with
      slc := { (v.setFld Fld.SLC_SLICE_STATE_STATE n 2).slc with byHost := SMap.set pbaDefault n byHost (v.setFld Fld.SLC_SLICE_STATE_STATE n 2).slc.byHost } }) ∧
  (∀ (s : State) n, ((s.unitGens n).any (fun g => g != s.sliceGen n && g == (s.sliceGen n + 1) % 256) = true → s.advance n = s) ∧
    ((s.unitGens n).any (fun g => g != s.sliceGen n && g == (s.sliceGen n + 1) % 256) = false → s.advance n = s.setFld Fld.SLC_SLICE_STATE_GENERATION n ((s.sliceGen n + 1) % 256))) ∧
  (∀ (s : State) (n : BitVec 12), (s.sliceState n.toNat = 2 → s.flagAt Fld.SLC_SLICE_STATE_AUTO_RESTART n.toNat = true → SMap.get pbaDefault s.slc.byHost n.toNat = true →
      (s.func (s.sliceLink n.toNat) 1).bme = true → (s.func (s.sliceLink n.toNat) 1).pasid = true → (s.func (s.sliceLink n.toNat) 1).d3 = false → (s.func (s.sliceLink n.toNat) 1).flr = false →
      (s.hostLink (s.sliceLink n.toNat)).up = true → s.stale n.toNat = 0 → exec (.autoRestart n) s = .next (s.setFld Fld.SLC_SLICE_STATE_STATE n.toNat 1)) ∧
    (s.sliceState n.toNat ≠ 2 ∨ SMap.get pbaDefault s.slc.byHost n.toNat = false ∨ s.stale n.toNat ≠ 0 → exec (.autoRestart n) s = .next s)) ∧
  (∀ (s u : State) r (n : BitVec 12) (v : BitVec 64), s.admitWrite r .SLC_GRANT_Q n.toNat = (true, u) → n ≠ 0 → ∃ x : BitVec 64,
    fieldOf x 0 16 = bits v.toNat 0 16 ∧ fieldOf x 16 7 = bits v.toNat 16 7 ∧ fieldOf x 32 11 = bits v.toNat 32 11 ∧ fieldOf x 43 8 = bits v.toNat 43 8 ∧ fieldOf x 51 7 = bits v.toNat 51 7 ∧
    (u.sliceState n.toNat = 0 → exec (.grantWrite r n .queues v) s = .next (u.setReg .SLC_GRANT_Q n.toNat x)) ∧
    (u.sliceState n.toNat ≠ 0 → u.grantOk n.toNat (u.sliceLink n.toNat) x (u.reg .SLC_GRANT_R n.toNat) = false → exec (.grantWrite r n .queues v) s = .next u.slcRefused) ∧
    (u.sliceState n.toNat ≠ 0 → u.grantOk n.toNat (u.sliceLink n.toNat) x (u.reg .SLC_GRANT_R n.toNat) = true → fieldOf x 0 16 = fieldOf (u.reg .SLC_GRANT_Q n.toNat) 0 16 →
      exec (.grantWrite r n .queues v) s = .next ((((u.sliceQueues n.toNat).drop (fieldOf x 16 7)).foldl (fun s g => s.queueDisable g n.toNat) u).setReg .SLC_GRANT_Q n.toNat x))) ∧
  (∀ (s u : State) r (n : BitVec 12) (v : BitVec 64), s.admitWrite r .SLC_GRANT_R n.toNat = (true, u) → n ≠ 0 → ∃ x : BitVec 64,
    fieldOf x 0 21 = bits v.toNat 0 21 ∧ fieldOf x 21 6 = bits v.toNat 21 6 ∧ fieldOf x 32 19 = bits v.toNat 32 19 ∧
    (u.sliceState n.toNat ≠ 0 → u.grantOk n.toNat (u.sliceLink n.toNat) (u.reg .SLC_GRANT_Q n.toNat) x = false → exec (.grantWrite r n .resources v) s = .next u.slcRefused) ∧
    (u.sliceState n.toNat = 0 ∨ u.grantOk n.toNat (u.sliceLink n.toNat) (u.reg .SLC_GRANT_Q n.toNat) x = true →
      exec (.grantWrite r n .resources v) s = .next (u.setReg .SLC_GRANT_R n.toNat x))) ∧
  (∀ (s u : State) r (n : BitVec 12) (v : BitVec 64), s.admitWrite r .SLC_WEIGHT n.toNat = (true, u) → n ≠ 0 →
    (v.toNat % 2 ^ 16 ≠ 0 → exec (.grantWrite r n .weight v) s = .next (u.setFld Fld.SLC_WEIGHT_WEIGHT n.toNat (v.toNat % 2 ^ 16))) ∧
    (v.toNat % 2 ^ 16 = 0 → u.sliceState n.toNat ≠ 0 → exec (.grantWrite r n .weight v) s = .next u.slcRefused)) ∧
  (∀ (s u : State) r (l : Fin 64) (v : BitVec 64) b z, s.admitWrite r .SLC_PEER_SHARE l = (true, u) → b = bits v.toNat 0 20 → z = bits v.toNat 32 20 →
    ((∃ m : Fin 64, m ≠ l ∧ overlap b z (u.fld Fld.SLC_PEER_SHARE_BASE_MIB m) (u.fld Fld.SLC_PEER_SHARE_SIZE_MIB m) = true) ∨ (z ≠ 0 ∧ u.slc.peerMib < b + z) →
      exec (.peerShareWrite r l v) s = .next u.slcRefused) ∧
    ((∀ m : Fin 64, m ≠ l → overlap b z (u.fld Fld.SLC_PEER_SHARE_BASE_MIB m) (u.fld Fld.SLC_PEER_SHARE_SIZE_MIB m) = false) → (z = 0 ∨ b + z ≤ u.slc.peerMib) →
      exec (.peerShareWrite r l v) s = .next ((u.setFld Fld.SLC_PEER_SHARE_BASE_MIB l b).setFld Fld.SLC_PEER_SHARE_SIZE_MIB l z))) ∧
  (∀ (s w : State) (n : BitVec 12) k, n ≠ 0 → s.cpcRuns = true → s.leadCpc.isSome = true → slotFull (s.cbSlot (2 * n.toNat)) = true → w = s.slotTaken (2 * n.toNat) →
    k = fieldOf (s.cbSlot (2 * n.toNat)) 0 32 →
    (k % 256 = 1 → exec (.sliceHello n) s = .next ((w.setFld Fld.SLC_SLICE_STATE_FORMAT n.toNat (w.helloAnswer n.toNat k).1).slotPut (2 * n.toNat + 1) w.leadStamp
      (BitVec.ofNat 32 (w.helloAnswer n.toNat k).2))) ∧
    (k % 256 ≠ 1 → exec (.sliceHello n) s = .next (w.slotPut (2 * n.toNat + 1) w.leadStamp (helloReply (w.fld Fld.SYS_PROTOCOLS_MGMT_MAX 0) Code.UNSUPPORTED)))) ∧
  (∀ (s : State) (n : BitVec 12), n = 0 ∨ s.cpcRuns = false ∨ slotFull (s.cbSlot (2 * n.toNat)) = false → exec (.sliceHello n) s = .next s)

/-- Doorbells and the queue switches. A doorbell of a RUNNING slice acts on the queue it names: POST sets the producer and
prefetches, or puts the queue in ERROR with OVERRUN when its index is refused; RELEASE advances the completion
consumer and writes what the overflow holds; INVALIDATE drops the fetched entries from its index on; a queue in
another state drops it, a queue beyond QUEUE_COUNT counts it as bad, and a slice that is not RUNNING counts it as
idle. A QRG_Q_CTRL write keeps role and sizes of a queue that is not DISABLED; ENABLE 1 runs a DISABLED queue whose
slice, format, bases and sizes allow it, from zero or resumed, and is refused otherwise; ENABLE 0 drains a RUNNING
queue and disables one in ERROR at once, discarding its completions. Rests on R325, R335, R336, R337, R338, R339,
R340, R351, R353, R354, R355. -/
def Obligations.QueueDoorbells : Prop :=
  (∀ (s u : State) (n : BitVec 12) (q : BitVec 6) (i : BitVec 16), s.dev.state = .STAGE → s.sliceState n.toNat ≠ 0 → s.sliceHidden n.toNat = false → u = s.splitBuffer (.slice (Fin.ofNat 4096 n.toNat)) →
    (u.sliceState n.toNat = 1 → q.toNat < u.fld Fld.SLC_GRANT_Q_QUEUE_COUNT n.toNat → ∀ g, g = u.fld Fld.SLC_GRANT_Q_QUEUE_BASE n.toNat + q.toNat →
      exec (.postDoorbell n q i) s = .next (u.post g n.toNat i.toNat) ∧ exec (.releaseDoorbell n q i) s = .next (u.release g n.toNat i.toNat) ∧
      exec (.invalidateDoorbell n q i) s = .next (u.invalidate g n.toNat i.toNat)) ∧
    (u.sliceState n.toNat = 1 → u.fld Fld.SLC_GRANT_Q_QUEUE_COUNT n.toNat ≤ q.toNat → exec (.postDoorbell n q i) s = .next (u.bump .QRG_DB_BAD 0) ∧
      exec (.releaseDoorbell n q i) s = .next (u.bump .QRG_DB_BAD 0) ∧ exec (.invalidateDoorbell n q i) s = .next (u.bump .QRG_DB_BAD 0)) ∧
    (u.sliceState n.toNat = 2 → exec (.postDoorbell n q i) s = .next (u.bump .SLC_IDLE_DROP n.toNat) ∧ exec (.releaseDoorbell n q i) s = .next (u.bump .SLC_IDLE_DROP n.toNat) ∧
      exec (.invalidateDoorbell n q i) s = .next (u.bump .SLC_IDLE_DROP n.toNat))) ∧
  (∀ (s : State) g n i q z, q = s.queue g → z = s.sqSize g →
    (q.state ≠ .RUNNING → s.post g n i = s.bump .QRG_DB_DROP 0 ∧ s.invalidate g n i = s.bump .QRG_DB_DROP 0) ∧
    (q.state = .RUNNING → 2 * z ≤ i ∨ z < ringHeld i q.c z ∨ ringHeld i q.c z < ringHeld q.p q.c z → s.post g n i = s.queueError g n Code.OVERRUN i 1) ∧
    (q.state = .RUNNING → i < 2 * z → ringHeld i q.c z ≤ z → ringHeld q.p q.c z ≤ ringHeld i q.c z → s.post g n i = (s.setQueue g { q with p := i }).prefetch g n) ∧
    (q.state = .RUNNING → ringHeld q.p q.c z < ringHeld i q.c z → s.invalidate g n i = ((s.bump .QRG_INVAL_LATE 0).cutFetches g 0).prefetch g n) ∧
    (q.state = .RUNNING → ringHeld i q.c z ≤ ringHeld q.p q.c z → s.invalidate g n i = (s.cutFetches g (ringHeld i q.c z)).prefetch g n)) ∧
  (∀ (s w : State) g n i q z, q = s.queue g → z = s.cqSize g → w = (s.setQueue g { q with cqC := i }).drainOverflow g n 8 →
    (q.state = .DISABLED → s.release g n i = s.bump .QRG_DB_DROP 0) ∧
    (q.state ≠ .DISABLED → 2 * z ≤ i ∨ ringHeld q.cqP q.cqC z < ringHeld i q.cqC z → s.release g n i = s.queueError g n Code.OVERRUN i 1) ∧
    (q.state ≠ .DISABLED → i < 2 * z → ringHeld i q.cqC z ≤ ringHeld q.cqP q.cqC z → ringHeld (w.queue g).cqP q.cqP z = 0 → s.release g n i = w)) ∧
  (∀ (s w : State) g n code i src, w = s.setQueue g { s.queue g with state := .ERROR, errCode := code, errIndex := i, errSource := src } →
    s.queueError g n code i src = (w.writeShadow g n).queueIrq g n) ∧
  (∀ (s u : State) r (g : BitVec 16) (v e : BitVec 32), s.admitWrite r .QRG_Q_CTRL g.toNat = (true, u) → e = v ||| 1 → ∃ x : BitVec 64,
    fieldOf x 0 1 = 0 ∧ fieldOf x 1 1 = bits e.toNat 1 1 ∧ fieldOf x 17 7 = bits e.toNat 17 7 ∧
    ((u.queue g.toNat).state = .DISABLED → fieldOf x 2 1 = bits e.toNat 2 1 ∧ fieldOf x 4 4 = bits e.toNat 4 4 ∧ fieldOf x 8 4 = bits e.toNat 8 4) ∧
    ((u.queue g.toNat).state ≠ .DISABLED → fieldOf x 2 1 = fieldOf (u.reg .QRG_Q_CTRL g.toNat) 2 1 ∧ fieldOf x 4 4 = fieldOf (u.reg .QRG_Q_CTRL g.toNat) 4 4 ∧
      fieldOf x 8 4 = fieldOf (u.reg .QRG_Q_CTRL g.toNat) 8 4) ∧
    exec (.queueEnable r g v) s = .next ((u.setReg .QRG_Q_CTRL g.toNat x).queueSwitch g.toNat true)) ∧
  (∀ (s u : State) r (g : BitVec 16) (v e : BitVec 32), s.admitWrite r .QRG_Q_CTRL g.toNat = (true, u) → e = v &&& 0xFFFFFFFE → ∃ x : BitVec 64,
    fieldOf x 0 1 = 0 ∧ fieldOf x 1 1 = bits e.toNat 1 1 ∧ fieldOf x 17 7 = bits e.toNat 17 7 ∧
    ((u.queue g.toNat).state ≠ .DISABLED → fieldOf x 2 1 = fieldOf (u.reg .QRG_Q_CTRL g.toNat) 2 1 ∧ fieldOf x 4 4 = fieldOf (u.reg .QRG_Q_CTRL g.toNat) 4 4 ∧
      fieldOf x 8 4 = fieldOf (u.reg .QRG_Q_CTRL g.toNat) 8 4) ∧
    exec (.queueDisable r g v) s = .next ((u.setReg .QRG_Q_CTRL g.toNat x).queueSwitch g.toNat false)) ∧
  (∀ (s : State) g n k, s.sliceOfQueue g = some (n, k) → s.queueSwitch g true = s.queueEnable g n ∧ s.queueSwitch g false = s.queueDisable g n) ∧
  (∀ (s : State) g n q, q = s.queue g →
    (q.state ≠ .DISABLED → s.queueEnable g n = s) ∧
    (q.state = .DISABLED → s.sliceRuns n = false ∨ s.sliceFormat n = 0 ∨ s.fld Fld.QRG_Q_SQ_BASE_ADDR g = 0 ∨ s.fld Fld.QRG_Q_CTRL_SQ_LOG2 g < 6 ∨ s.fld Fld.QRG_Q_CTRL_CQ_LOG2 g < 6 ∨ s.adminAlone n = false →
      s.queueEnable g n = s.queueRefused g) ∧
    (∀ r, q.state = .DISABLED → s.sliceRuns n = true → s.sliceFormat n ≠ 0 → s.fld Fld.QRG_Q_SQ_BASE_ADDR g ≠ 0 → s.fld Fld.QRG_Q_CQ_BASE_ADDR g ≠ 0 → 6 ≤ s.fld Fld.QRG_Q_CTRL_SQ_LOG2 g →
      6 ≤ s.fld Fld.QRG_Q_CTRL_CQ_LOG2 g → s.adminAlone n = true → r = { q with
        state := .RUNNING, errCode := 0, sqLog := s.fld Fld.QRG_Q_CTRL_SQ_LOG2 g, cqLog := s.fld Fld.QRG_Q_CTRL_CQ_LOG2 g, cache := [], owed := 0, ready := [], overflow := [], unsignalled := 0 } →
      (s.flagAt Fld.QRG_Q_CTRL_RESUME g = false → s.queueEnable g n = (s.setQueue g { r with p := 0, c := 0, cqP := 0, cqC := 0, phase := true }).writeShadow g n) ∧
      (s.flagAt Fld.QRG_Q_CTRL_RESUME g = true → q.sqLog = s.fld Fld.QRG_Q_CTRL_SQ_LOG2 g → q.cqLog = s.fld Fld.QRG_Q_CTRL_CQ_LOG2 g → s.queueEnable g n = (s.setQueue g { r with p := q.c }).writeShadow g n))) ∧
  (∀ (s w : State) g n q, q = s.queue g → w = s.cutFetches g 0 →
    (q.state = .RUNNING → s.queueDisable g n = (((w.setQueue g { w.queue g with state := .DRAINING }).writeShadow g n).settleDraining g n)) ∧
    (q.state = .DISABLED ∨ q.state = .DRAINING → s.queueDisable g n = s) ∧
    (q.state = .ERROR → s.queueDisable g n = ((((s.bumpBy .QRG_CPL_DISCARD 0 (q.owed + q.overflow.length)).cutFetches g 0).forgetJobs g).setQueue g (q.emptied .DISABLED)).writeShadow g n))

/-- The queue engine: fetches, entries, completions, interrupts and receive delivery. A finished fetch of a current
generation is cached and prefetch goes on; one of an older generation is discarded. The engine takes one frame or one
storage entry of the queue served next in its port's round, advancing the head and owing a completion for each entry,
or finds an entry malformed, which puts the queue in ERROR with the entry not taken. Ready completions are formed and
written, then the head shadow and the interrupt; the interrupt timer and the stall limit act at their times and not
before, the stall putting the queue in ERROR with OVERRUN. The first head of a link that can be delivered is; a frame
whose wait reached its limit is dropped and counted. Rests on R321, R334, R340, R346, R347, R348, R349, R350, R351,
R352. -/
def Obligations.QueueEngine : Prop :=
  (∀ (s : State) (g : BitVec 16) n k, s.sliceOfQueue g.toNat = some (n, k) →
    ((∀ r ∈ s.hep.reads, (!r.failed && r.ended && (match r.want.why with | .ring q _ _ _ => q == g.toNat | _ => false)) = false) → exec (.entryFetched g) s = .next s) ∧
    (∀ r w first m keep, s.hep.reads.find? (fun r => !r.failed && r.ended && (match r.want.why with | .ring q _ _ _ => q == g.toNat | _ => false)) = some r →
      w = { s with hep := { s.hep with reads := s.hep.reads.erase r } } → r.want.why = .ring g.toNat first m keep →
      (w.genCurrent n r.want.gen = false → exec (.entryFetched g) s = .next (w.bump .SLC_STALE_DISCARD n)) ∧
      (w.genCurrent n r.want.gen = true → (w.queue g.toNat).state = .RUNNING → exec (.entryFetched g) s = .next ((w.setQueue g.toNat { w.queue g.toNat with cache := (w.queue g.toNat).cache ++ (List.range keep).map (fun i => ((first + i) % (2 * w.sqSize g.toNat), slice r.bytes (w.entrySize g.toNat n * i) (w.entrySize g.toNat n))) }).prefetch g.toNat n))) ∧
    (∀ w, w = ((s.queue g.toNat).ready.foldl (fun s c => s.formCpl g.toNat n c) (s.setQueue g.toNat { s.queue g.toNat with ready := [] })) →
      (ringHeld (w.queue g.toNat).cqP (s.queue g.toNat).cqP (w.cqSize g.toNat) = 0 → exec (.completionWrite g) s = .next (w.settleDraining g.toNat n)) ∧
      (∀ x, x = ringHeld (w.queue g.toNat).cqP (s.queue g.toNat).cqP (w.cqSize g.toNat) → x ≠ 0 → exec (.completionWrite g) s =
        .next (((w.writeShadow g.toNat n).groupIrq g.toNat n ((((s.queue g.toNat).overflow ++ (s.queue g.toNat).ready).take x).any (·.irq))).settleDraining g.toNat n))) ∧
    ((s.queue g.toNat).irqUs ≠ 0 → (s.queue g.toNat).unsignalled ≠ 0 → (s.queue g.toNat).since + 1000 * (s.queue g.toNat).irqUs ≤ s.elapsed → exec (.irqTimer g) s = .next (s.queueIrq g.toNat n)) ∧
    ((s.queue g.toNat).irqUs = 0 ∨ (s.queue g.toNat).unsignalled = 0 ∨ s.elapsed < (s.queue g.toNat).since + 1000 * (s.queue g.toNat).irqUs → exec (.irqTimer g) s = .next s) ∧
    ((s.queue g.toNat).overflow ≠ [] → (s.queue g.toNat).state = .RUNNING ∨ (s.queue g.toNat).state = .DRAINING →
      (s.queue g.toNat).stall + 1000000 * s.fld Fld.QRG_STALL_LIMITS_CQ_STALL_MS 0 ≤ s.elapsed →
      exec (.cqStallLimit g) s = .next ((s.drew.bump .QRG_CQ_STALL 0).queueError g.toNat n Code.OVERRUN (s.free.toNat % 65536) 2)) ∧
    ((s.queue g.toNat).overflow = [] ∨ s.elapsed < (s.queue g.toNat).stall + 1000000 * s.fld Fld.QRG_STALL_LIMITS_CQ_STALL_MS 0 → exec (.cqStallLimit g) s = .next s)) ∧
  (∀ (s : State) (g : BitVec 16), s.sliceOfQueue g.toNat = none → exec (.entryFetched g) s = .next s ∧ exec (.completionWrite g) s = .next s ∧ exec (.irqTimer g) s = .next s ∧
    exec (.cqStallLimit g) s = .next s) ∧
  (∀ (s : State) (h : Fin 16), s.roundOf h = [] → exec (.entryTake h) s = .next s) ∧
  (∀ (s : State) (h : Fin 16) n turns rest g, s.roundOf h = (n, turns) :: rest → s.nextQueue n = some g →
    (∀ i, s.takeWork g n = .bad i → exec (.entryTake h) s = .next (s.queueMalformed g n i)) ∧
    (∀ es, s.takeWork g n = .frame es → ∃ w : State, w.qrg.queues = s.qrg.queues ∧ w.regs = s.regs ∧ exec (.entryTake h) s = .next (w.takeFrame g n es) ∧
      SMap.get (fun _ => []) w.qrg.rounds h = SMap.get (fun _ => []) (SMap.set (fun _ => []) h (if turns ≤ es.length then rest else (n, turns - es.length) :: rest) s.qrg.rounds) h) ∧
    (∀ i e, s.takeWork g n = .storage i e → ∃ w : State, w.qrg.queues = s.qrg.queues ∧ w.regs = s.regs ∧ exec (.entryTake h) s = .next (w.takeStorage g n e).settleAll)) ∧
  (∀ (s : State) g n i, s.queueMalformed g n i = (s.bump .QRG_MALFORMED 0).queueError g n Code.MALFORMED i 0) ∧
  (∀ (s : State) g k, s.takeEntries g k = s.setQueue g { s.queue g with
    c := ((s.queue g).c + k) % (2 * s.sqSize g), owed := (s.queue g).owed + k, cache := (s.queue g).cache.filter (fun e => k ≤ ringHeld e.1 (s.queue g).c (s.sqSize g)) }) ∧
  (∀ (s : State) (l : Fin 64), (∀ t, (s.rxHeads l).findSome? (fun h => s.rxTry l h.1 h.2) = some t → exec (.rxDelivery l) s = .next t) ∧
    ((s.rxHeads l).findSome? (fun h => s.rxTry l h.1 h.2) = none → exec (.rxDelivery l) s = .next s)) ∧
  (∀ (s : State) l k x, s.qrg.rx.find? (fun j => j.link == l && j.frame == k.frame) = none →
    (x.ended = true → x.bad = true → s.rxTry l k x = some ((s.bump .SWC_TAIL_DROP 0).rxRemove k)) ∧
    (x.bad = false → s.genCurrent k.slice x.ticket.gen.toNat = false → s.rxTry l k x = some ((s.bump .SLC_STALE_DISCARD k.slice).rxRemove k)) ∧
    (x.bad = false → s.genCurrent k.slice x.ticket.gen.toNat = true → s.sliceRuns k.slice = false → s.rxTry l k x = some ((s.bump .SLC_IDLE_DROP k.slice).rxRemove k)) ∧
    (x.bad = false → s.genCurrent k.slice x.ticket.gen.toNat = true → s.sliceRuns k.slice = true → s.steered k.slice x = none →
      s.rxTry l k x = some ((s.bump .QRG_RX_NO_QUEUE 0).rxRemove k)) ∧
    (∀ g m, x.bad = false → s.genCurrent k.slice x.ticket.gen.toNat = true → s.sliceRuns k.slice = true → s.steered k.slice x = some g → buffersFor (s.estimate x k.port) (s.rxRun g) = some m →
      m ≤ s.takeable g → s.rxStaged (l / 4) = true → s.rxTry l k x = some (s.rxContinue k x ⟨l, k.frame, g, k.slice, 0, []⟩)) ∧
    (∀ g, x.bad = false → s.genCurrent k.slice x.ticket.gen.toNat = true → s.sliceRuns k.slice = true → s.steered k.slice x = some g → buffersFor (s.estimate x k.port) (s.rxRun g) = none →
      s.posted g = (s.rxRun g).length → s.fld Fld.QRG_STALL_LIMITS_RX_STALL_US 0 = 0 → s.rxTry l k x = some ((s.bump .QRG_RX_NO_BUFFER 0).rxRemove k))) ∧
  (∀ (s : State) (l : Fin 64), (s.rxHeads l).find? (fun h => s.rxWaited l h.1.frame) = none → exec (.rxStallLimit l) s = .next s) ∧
  (∀ (s : State) (l : Fin 64) k x, (s.rxHeads l).find? (fun h => s.rxWaited l h.1.frame) = some (k, x) →
    (∀ j, s.qrg.rx.find? (fun j => j.link == l.val && j.frame == k.frame) = some j → s.rxStarved j.queue = true → exec (.rxStallLimit l) s =
      .next (((s.bump .QRG_RX_NO_BUFFER 0).rxComplete j x Code.NO_BUFFER).rxRemove k)) ∧
    (∀ g, s.qrg.rx.find? (fun j => j.link == l.val && j.frame == k.frame) = none → s.steered k.slice x = some g → s.posted g = (s.rxRun g).length →
      buffersFor (s.estimate x k.port) (s.rxRun g) = none → exec (.rxStallLimit l) s = .next ((s.bump .QRG_RX_NO_BUFFER 0).rxRemove k)))

/-- The bulk mover: channel control, descriptors, bursts, request lines and staging shares. A write of BMV_CH_CTRL acts by
the bit it carries. ENABLE 1 fetches at BMV_CH_NEXT where R371 accepts it and sets LAST_STATUS where it does not;
ENABLE 0, ABORT and APPEND act by the channel's state. A fetched descriptor is served, held ahead, or, re-fetched,
gives only EOC and NEXT; a malformed one halts the channel. A descriptor that is done is counted, and the chain goes
on, is read again, or parks. A raising of a line counts in every channel that names it; a burst takes one count;
shares that sum to more than 512 are refused. Rests on R358, R359, R361, R362, R363, R365, R366, R367, R368, R369,
R371, R372. -/
def Obligations.BulkMover : Prop :=
  (∀ (s u w : State) r (c : BitVec 12), s.admitWrite r .BMV_CH_CTRL c.toNat = (true, u) →
    w = u.setReg .BMV_CH_CTRL c.toNat (withField (u.reg .BMV_CH_CTRL c.toNat) 0 1 0) →
    exec (.channelEnable r c) s = .next (w.chanEnable c.toNat) ∧ exec (.channelDisable r c) s = .next (w.chanDisable c.toNat) ∧
    exec (.abort r c) s = .next (w.chanAbort c.toNat) ∧ exec (.append r c) s = .next (w.chanAppend c.toNat)) ∧
  (∀ (s : State) c v, v = s.chan c →
    (v.state = .RUNNING ∨ v.state = .WAIT_END → s.chanEnable c = s) ∧
    (v.state = .DISABLED ∨ v.state = .HALTED → s.chanCfgOk c = false → s.chanEnable c = s.setChan c { v with lastStatus := BitVec.ofNat 8 Code.MALFORMED }) ∧
    (v.state = .DISABLED ∨ v.state = .HALTED → s.chanCfgOk c = true → s.chanSliceOk c = false → s.chanEnable c = s.setChan c { v with lastStatus := 0xF2 }) ∧
    (v.state = .DISABLED → s.chanCfgOk c = true → s.chanSliceOk c = true → s.chanEnable c = (s.setChan c { v with
      state := .RUNNING, stopping := false, appendPending := false, gen := s.sliceGen (s.chanSlice c), retries := 0, pending := 0, done := 0 }).chanFetch c (32 * s.fld Fld.BMV_CH_NEXT_ADDR c) false) ∧
    (v.state = .HALTED → s.chanCfgOk c = true → s.chanSliceOk c = true → s.chanEnable c = (s.setChan c { v with
      state := .RUNNING, stopping := false, appendPending := false, gen := s.sliceGen (s.chanSlice c), retries := 0 }).chanFetch c (32 * s.fld Fld.BMV_CH_NEXT_ADDR c) false) ∧
    (v.state = .DISABLED → s.chanDisable c = s) ∧ (v.state = .HALTED → s.chanDisable c = s.setChan c { v with state := .DISABLED }) ∧
    (v.state = .RUNNING → v.serving.isSome = true → s.chanDisable c = s.setChan c { v with stopping := true }) ∧
    (v.state = .WAIT_END ∨ v.state = .RUNNING ∧ v.serving = none → s.chanDisable c = s.chanStop c) ∧
    (v.state = .DISABLED ∨ v.state = .HALTED → s.chanAbort c = s ∧ s.chanAppend c = s.bump .BMV_DB_IGNORED 0) ∧
    (v.state = .RUNNING → s.chanAppend c = s.setChan c { v with appendPending := true }) ∧
    (v.state = .WAIT_END → v.fetch = none → s.chanAppend c = s.chanFetch c v.cur true)) ∧
  (∀ (s w : State) c v, v = s.chan c → v.state = .RUNNING → v.serving.isSome = true → w = (s.setFld Fld.BMV_CH_NEXT_ADDR c (v.cur / 32)).chanClear c →
    s.chanAbort c = (w.setChan c { w.chan c with state := if v.stopping then .DISABLED else .HALTED, stopping := false, appendPending := false, lastStatus := 0xF1 }).chanEvent c) ∧
  (∀ (s : State) (c : BitVec 12), (s.chan c.toNat).fetch = none → exec (.descriptorFetched c) s = .next s) ∧
  (∀ (s : State) (c : BitVec 12) v f h t, v = s.chan c.toNat → v.fetch = some f → s.fld Fld.BMV_CH_CFG_DESC_SPACE c.toNat = 0 → f.addr + 32 ≤ 2 ^ 64 →
    (f.relink = true → f.tail = some t → exec (.descriptorFetched c) s = .next (s.chanRelinked c.toNat t)) ∧
    (f.relink = false → f.head = some h → f.tail = some t → v.serving = none →
      exec (.descriptorFetched c) s = .next ((s.setChan c.toNat { v with fetch := none }).chanServe c.toNat f.addr (descOf (h ++ t)))) ∧
    (∀ d w, f.relink = false → f.head = some h → f.tail = some t → v.serving = some d → w = s.setChan c.toNat { v with fetch := none } →
      exec (.descriptorFetched c) s = .next (w.setChan c.toNat { w.chan c.toNat with ahead := some (descOf (h ++ t)) })) ∧
    (f.relink = false → f.head = none ∨ f.tail = none → exec (.descriptorFetched c) s = .next s)) ∧
  (∀ (s w : State) c a d, w = s.setChan c { s.chan c with serving := some d, ahead := none, cur := a, issued := 0, written := 0, granted := 0, blocks := [], retries := 0, flushed := false } →
    (w.descBad c d = true → s.chanServe c a d = w.chanHalt c Code.MALFORMED) ∧
    (w.descBad c d = false → d.eoc = true → s.chanServe c a d = w.chanWake c) ∧
    (w.descBad c d = false → d.eoc = false → s.chanServe c a d = (w.chanWake c).chanFetch c d.next false)) ∧
  (∀ (s : State) c d, d.len = 0 ∨ d.reserved = true ∨ (d.swap = 1 ∧ d.len % 2 ≠ 0) ∨ (2 ≤ d.swap ∧ d.len % 4 ≠ 0) ∨ (d.eoc = false ∧ d.next % 32 ≠ 0) → s.descBad c d = true) ∧
  (∀ (s w : State) c tail, w = s.setChan c { s.chan c with fetch := none } →
    (bit (leAt tail 0 8) 28 = false → leAt tail 8 8 % 32 = 0 → s.chanRelinked c tail = (w.setChan c { w.chan c with state := .RUNNING }).chanFetch c (leAt tail 8 8) false) ∧
    (∀ x, x = (w.setChan c { w.chan c with state := .WAIT_END }).bump .BMV_APPEND_EMPTY 0 → bit (leAt tail 0 8) 28 = true → (x.chan c).appendPending = false → s.chanRelinked c tail = x)) ∧
  (∀ (s : State) (h : Fin 16) tags, s.nextRequester h = none → exec (.readEngineTurn h tags) s = .next s) ∧
  (∀ (s : State) (h : Fin 16) tags q, s.nextRequester h = some q →
    (∀ w t, s.wantOf h q = some w → s.issueWant w (tags.map (·.toNat)) = some t → exec (.readEngineTurn h tags) s = .next { t with hep := { t.hep with last := SMap.set (fun _ => 0) h (q + 1) t.hep.last } }) ∧
    (∀ t, s.wantOf h q = none → s.chanIssue (q - 2) = .inr t → exec (.readEngineTurn h tags) s = .next { t with hep := { t.hep with last := SMap.set (fun _ => 0) h (q + 1) t.hep.last } })) ∧
  (∀ (s : State) (c : BitVec 12) v, v = s.chan c.toNat → v.serving = none → exec (.descriptorDone c) s = .next s ∧ exec (.pacedBurst c) s = .next s) ∧
  (∀ (s w : State) (c : BitVec 12) v d, v = s.chan c.toNat → v.serving = some d → v.state = .RUNNING →
    w = (s.setChan c.toNat { v with serving := none, done := v.done + 1 }).bump .BMV_DESC_DONE 0 →
    (v.written < d.len → exec (.descriptorDone c) s = .next s) ∧
    (d.barrier = true → s.fld Fld.BMV_CH_CFG_DST_SPACE c.toNat = 0 → v.flushed = false → exec (.descriptorDone c) s = .next s) ∧
    (d.len ≤ v.written → d.barrier = false ∨ s.fld Fld.BMV_CH_CFG_DST_SPACE c.toNat ≠ 0 ∨ v.flushed = true →
      (v.stopping = true → exec (.descriptorDone c) s = .next ((if d.irq then w.chanEvent c.toNat else w).chanStop c.toNat)) ∧
      (∀ x, x = (if d.irq then w.chanEvent c.toNat else w) → v.stopping = false →
        (d.eoc = true → v.appendPending = false → exec (.descriptorDone c) s = .next (x.setChan c.toNat { x.chan c.toNat with state := .WAIT_END })) ∧
        (d.eoc = true → v.appendPending = true → exec (.descriptorDone c) s = .next ((x.setChan c.toNat { x.chan c.toNat with appendPending := false }).chanFetch c.toNat v.cur true)) ∧
        (∀ a, d.eoc = false → v.ahead = some a → exec (.descriptorDone c) s = .next (x.chanServe c.toNat d.next a)) ∧
        (d.eoc = false → v.ahead = none → exec (.descriptorDone c) s = .next x))) ∧
    (d.paced = true → v.granted < d.len → v.issued = v.granted → 0 < v.pending → exec (.pacedBurst c) s = .next (s.setChan c.toNat { v with
      pending := v.pending - 1, granted := min d.len (v.granted + 2 ^ s.fld Fld.BMV_CH_CFG_BURST_LOG2 c.toNat) })) ∧
    (d.paced = false ∨ d.len ≤ v.granted ∨ v.issued ≠ v.granted ∨ v.pending = 0 → exec (.pacedBurst c) s = .next s)) ∧
  (∀ (s : State) (line : BitVec 8), s.mapAnswers = true → exec (.requestLineRaise none line) s = .next (s.raiseLine line.toNat)) ∧
  (∀ (s u : State) r (line : BitVec 8), s.admitWrite r .BMV_REQ_RAISE 0 = (true, u) → exec (.requestLineRaise (some r) line) s = .next (u.raiseLine line.toNat)) ∧
  (∀ (s : State) line, s.raiseLine line = ((List.range 4096).filter (fun c => s.fld Fld.BMV_CH_CFG_REQ_LINE c == line)).foldl (fun s c =>
    if (s.chan c).pending < 65535 then s.setChan c { s.chan c with pending := (s.chan c).pending + 1 } else s.bump .BMV_REQ_LOST 0) s) ∧
  (∀ (s u : State) r (h : Fin 16) (v : BitVec 64), s.admitWrite r .BMV_PORT_STAGE h = (true, u) → bits v.toNat 32 10 = 0 →
    (512 < bits v.toNat 0 10 + bits v.toNat 10 10 + bits v.toNat 20 10 → exec (.stageSharesWrite r h v) s = .next (u.setFld Fld.BMV_STATUS_CFG_REFUSED 0 1)) ∧
    (bits v.toNat 0 10 + bits v.toNat 10 10 + bits v.toNat 20 10 ≤ 512 → ∃ x : Word, fieldOf x 0 10 = bits v.toNat 0 10 ∧ fieldOf x 10 10 = bits v.toNat 10 10 ∧
      fieldOf x 20 10 = bits v.toNat 20 10 ∧ exec (.stageSharesWrite r h v) s = .next (u.setReg .BMV_PORT_STAGE h x)))

/-- Instructions of a thread: issue, the stage extension, waits and channel operations. A thread issues the instruction at
its PC when it is RUNNING, its core runs and its cluster is awake; an interrupt that is due is taken first, and a
fetch that fails or an encoding that is none faults. An instruction that completes moves the PC on and is counted.
Each row of a stage instruction issues the instruction of its funct3: WAITEV returns its events or waits; CHW writes a
doubleword of a staging buffer; CHCOMMIT and FRMEMIT commit; CHSTAT, TKTGET, TKTSET and CRC32C do what their rules
give; a field that must be zero and is not is an illegal instruction. A timed wait ends with 0 when its time has come.
An event input is set but for the reserved ones and, on other threads, those of thread 0. A bulk-mover operation and
the end of a channel operation leave their result; a debug halt holds the state that a resume restores. Rests on R377,
R379, R380, R381, R382, R383, R384, R385, R388, R389, R390, R391. -/
def Obligations.ThreadInstructions : Prop :=
  (∀ (s : State) (t : BitVec 11), s.canIssue t.toNat = false → exec (.threadInstruction t) s = .next (s).settleAll ∧ exec (.waitev t) s = .next (s).settleAll ∧ exec (.chw t) s = .next (s).settleAll ∧ exec (.chcommit t) s = .next (s).settleAll ∧ exec (.chstat t) s = .next (s).settleAll ∧ exec (.tktget t) s = .next (s).settleAll ∧ exec (.tktset t) s = .next (s).settleAll ∧ exec (.crc32c t) s = .next (s).settleAll ∧ exec (.frmemit t) s = .next (s).settleAll ∧ exec (.stallack t) s = .next (s).settleAll) ∧
  (∀ (s : State) (t : BitVec 11), s.canIssue t.toNat = true → (s.thread t.toNat).interrupts t.toNat = true →
    exec (.threadInstruction t) s = .next (s.setThread t.toNat (s.thread t.toNat).takeInterrupt).settleAll ∧ exec (.waitev t) s = .next (s.setThread t.toNat (s.thread t.toNat).takeInterrupt).settleAll ∧ exec (.chw t) s = .next (s.setThread t.toNat (s.thread t.toNat).takeInterrupt).settleAll ∧ exec (.chcommit t) s = .next (s.setThread t.toNat (s.thread t.toNat).takeInterrupt).settleAll ∧ exec (.chstat t) s = .next (s.setThread t.toNat (s.thread t.toNat).takeInterrupt).settleAll ∧ exec (.tktget t) s = .next (s.setThread t.toNat (s.thread t.toNat).takeInterrupt).settleAll ∧ exec (.tktset t) s = .next (s.setThread t.toNat (s.thread t.toNat).takeInterrupt).settleAll ∧ exec (.crc32c t) s = .next (s.setThread t.toNat (s.thread t.toNat).takeInterrupt).settleAll ∧ exec (.frmemit t) s = .next (s.setThread t.toNat (s.thread t.toNat).takeInterrupt).settleAll ∧ exec (.stallack t) s = .next (s.setThread t.toNat (s.thread t.toNat).takeInterrupt).settleAll) ∧
  (∀ (s : State) (t : BitVec 11), s.canIssue t.toNat = true → (s.thread t.toNat).interrupts t.toNat = false →
    (∀ c, s.fetch t.toNat = .inl c → exec (.threadInstruction t) s = .next (s.threadFault t.toNat c (s.thread t.toNat).pc).settleAll ∧ exec (.waitev t) s = .next (s.threadFault t.toNat c (s.thread t.toNat).pc).settleAll ∧ exec (.chw t) s = .next (s.threadFault t.toNat c (s.thread t.toNat).pc).settleAll ∧ exec (.chcommit t) s = .next (s.threadFault t.toNat c (s.thread t.toNat).pc).settleAll ∧ exec (.chstat t) s = .next (s.threadFault t.toNat c (s.thread t.toNat).pc).settleAll ∧ exec (.tktget t) s = .next (s.threadFault t.toNat c (s.thread t.toNat).pc).settleAll ∧ exec (.tktset t) s = .next (s.threadFault t.toNat c (s.thread t.toNat).pc).settleAll ∧ exec (.crc32c t) s = .next (s.threadFault t.toNat c (s.thread t.toNat).pc).settleAll ∧ exec (.frmemit t) s = .next (s.threadFault t.toNat c (s.thread t.toNat).pc).settleAll ∧ exec (.stallack t) s = .next (s.threadFault t.toNat c (s.thread t.toNat).pc).settleAll) ∧
    (∀ c n, s.fetch t.toNat = .inr (none, c, n) → exec (.threadInstruction t) s = .next (s.threadFault t.toNat 2 (BitVec.ofNat 64 c)).settleAll ∧ exec (.waitev t) s = .next (s.threadFault t.toNat 2 (BitVec.ofNat 64 c)).settleAll ∧ exec (.chw t) s = .next (s.threadFault t.toNat 2 (BitVec.ofNat 64 c)).settleAll ∧ exec (.chcommit t) s = .next (s.threadFault t.toNat 2 (BitVec.ofNat 64 c)).settleAll ∧ exec (.chstat t) s = .next (s.threadFault t.toNat 2 (BitVec.ofNat 64 c)).settleAll ∧ exec (.tktget t) s = .next (s.threadFault t.toNat 2 (BitVec.ofNat 64 c)).settleAll ∧ exec (.tktset t) s = .next (s.threadFault t.toNat 2 (BitVec.ofNat 64 c)).settleAll ∧ exec (.crc32c t) s = .next (s.threadFault t.toNat 2 (BitVec.ofNat 64 c)).settleAll ∧ exec (.frmemit t) s = .next (s.threadFault t.toNat 2 (BitVec.ofNat 64 c)).settleAll ∧ exec (.stallack t) s = .next (s.threadFault t.toNat 2 (BitVec.ofNat 64 c)).settleAll) ∧
    (∀ i c n, s.fetch t.toNat = .inr (some i, c, n) → exec (.threadInstruction t) s = .next (State.retire_ t.toNat (s.exec32 t.toNat i n)).settleAll ∧
      (i % 128 = 0x0B →
        (bits i 12 3 = 0 → exec (.waitev t) s = .next (State.retire_ t.toNat (s.stage_ t.toNat i ((s.thread t.toNat).pc + BitVec.ofNat 64 n))).settleAll) ∧
        (bits i 12 3 = 1 → exec (.chw t) s = .next (State.retire_ t.toNat (s.stage_ t.toNat i ((s.thread t.toNat).pc + BitVec.ofNat 64 n))).settleAll) ∧
        (bits i 12 3 = 2 → exec (.chcommit t) s = .next (State.retire_ t.toNat (s.stage_ t.toNat i ((s.thread t.toNat).pc + BitVec.ofNat 64 n))).settleAll) ∧
        (bits i 12 3 = 3 → exec (.chstat t) s = .next (State.retire_ t.toNat (s.stage_ t.toNat i ((s.thread t.toNat).pc + BitVec.ofNat 64 n))).settleAll) ∧
        (bits i 12 3 = 4 → exec (.tktget t) s = .next (State.retire_ t.toNat (s.stage_ t.toNat i ((s.thread t.toNat).pc + BitVec.ofNat 64 n))).settleAll) ∧
        (bits i 12 3 = 5 → exec (.tktset t) s = .next (State.retire_ t.toNat (s.stage_ t.toNat i ((s.thread t.toNat).pc + BitVec.ofNat 64 n))).settleAll) ∧
        (bits i 12 3 = 6 → exec (.crc32c t) s = .next (State.retire_ t.toNat (s.stage_ t.toNat i ((s.thread t.toNat).pc + BitVec.ofNat 64 n))).settleAll) ∧
        (bits i 12 3 = 7 → exec (.frmemit t) s = .next (State.retire_ t.toNat (s.stage_ t.toNat i ((s.thread t.toNat).pc + BitVec.ofNat 64 n))).settleAll)) ∧
      (isStallack i = true → exec (.stallack t) s = .next (State.retire_ t.toNat (s.exec32 t.toNat i n)).settleAll))) ∧
  (∀ (s : State) t pc c w, State.retire_ t (.next s pc) = (s.setThread t { s.thread t with pc := pc, minstret := (s.thread t).minstret + 1 }).issued t ∧
    State.retire_ t (.fault c w s) = (s.issued t).threadFault t c w ∧ State.retire_ t (.stay s) = s.issued t ∧ State.retire_ t (.hold s) = s) ∧
  (∀ (s : State) t i pc v a b, v = s.thread t → a = v.get (bits i 15 5) → b = v.get (bits i 20 5) →
    (bits i 12 3 ≠ 6 → bits i 25 7 ≠ 0 → s.stage_ t i pc = .fault 2 (BitVec.ofNat 64 i) s) ∧
    (bits i 25 7 = 0 →
      (∀ hit, hit = v.evpend &&& waitMask t (BitVec.ofNat 32 a.toNat) → bits i 12 3 = 0 →
        (hit ≠ 0 → s.stage_ t i pc = .next (s.setThread t ({ v with evpend := v.evpend &&& ~~~ hit }.put (bits i 7 5) (hit.zeroExtend 64))) pc) ∧
        (hit = 0 → s.stage_ t i pc = .stay (s.setThread t { v with state := .WAITING, wait := some (waitMask t (BitVec.ofNat 32 a.toNat), bits i 7 5, if b.toNat = 0 then none else some (s.engineCycles + b.toNat)) }))) ∧
      (bits i 12 3 = 1 → bits i 7 5 = 0 → b.toNat < 32 → s.stage_ t i pc = .next (s.setThread t { v with staging := SMap.set xDefault (8 * (b.toNat % 4) + b.toNat / 4) a v.staging }) pc) ∧
      (bits i 12 3 = 1 → bits i 7 5 ≠ 0 ∨ 32 ≤ b.toNat → s.stage_ t i pc = .fault 2 (BitVec.ofNat 64 i) s) ∧
      (bits i 12 3 = 2 → bits i 20 5 = 0 → a.toNat < 3 → s.stage_ t i pc = .next ((s.commit t a.toNat []).2.putX t (bits i 7 5) (BitVec.ofNat 64 (s.commit t a.toNat []).1)) pc) ∧
      (bits i 12 3 = 2 → bits i 20 5 ≠ 0 ∨ 3 ≤ a.toNat → s.stage_ t i pc = .fault 2 (BitVec.ofNat 64 i) s) ∧
      (bits i 12 3 = 3 → bits i 20 5 = 0 → a.toNat < 4 → s.stage_ t i pc = .next (s.putX t (bits i 7 5) (s.chStatus t a.toNat)) pc) ∧
      (∀ lo w, bits i 12 3 = 4 → bits i 20 5 = 0 → ticketField a.toNat = some (lo, w) → s.stage_ t i pc = .next (s.putX t (bits i 7 5) (BitVec.ofNat 64 (bits v.ticket.toNat lo w))) pc) ∧
      (∀ lo w, bits i 12 3 = 5 → bits i 7 5 = 0 → ticketField b.toNat = some (lo, w) → s.stage_ t i pc = .next (s.setThread t { v with ticket := BitVec.ofNat 128 (setBits v.ticket.toNat lo w a.toNat) }) pc) ∧
      (bits i 12 3 = 4 → ticketField a.toNat = none → s.stage_ t i pc = .fault 2 (BitVec.ofNat 64 i) s) ∧
      (bits i 12 3 = 5 → ticketField b.toNat = none → s.stage_ t i pc = .fault 2 (BitVec.ofNat 64 i) s) ∧
      (bits i 12 3 = 7 → s.stage_ t i pc = .next ((s.commit t 3 (s.emitBytes t a.toNat b.toNat)).2.putX t (bits i 7 5) (BitVec.ofNat 64 (s.commit t 3 (s.emitBytes t a.toNat b.toNat)).1)) pc)) ∧
    (bits i 12 3 = 6 → bits i 25 7 < 4 → s.stage_ t i pc = .next (s.putX t (bits i 7 5) (((toLE (2 ^ bits i 25 7) b.toNat).foldl crcByte (BitVec.ofNat 32 a.toNat)).zeroExtend 64)) pc) ∧
    (bits i 12 3 = 6 → 4 ≤ bits i 25 7 → s.stage_ t i pc = .fault 2 (BitVec.ofNat 64 i) s)) ∧
  (∀ (s : State) (t : BitVec 11) v m rd due, v = s.thread t.toNat → v.state = .WAITING → v.wait = some (m, rd, some due) →
    (due ≤ s.engineCycles → exec (.waitevTimeout t) s = .next (s.setThread t.toNat { (v.put rd 0) with wait := none, state := .RUNNING, pc := v.pc + 4, minstret := v.minstret + 1 })) ∧
    (s.engineCycles < due → exec (.waitevTimeout t) s = .next s)) ∧
  (∀ (s : State) (t : BitVec 11), (s.thread t.toNat).state ≠ .WAITING → exec (.waitevTimeout t) s = .next s) ∧
  (∀ (s : State) (t : BitVec 11) (n : BitVec 5), s.clusterLoaded (t.toNat / 256) = true →
    (inputSet t.toNat n.toNat = true → exec (.eventInputSet t n) s = .next (s.setEvent t.toNat n.toNat)) ∧
    (10 ≤ n.toNat → n.toNat < 16 → exec (.eventInputSet t n) s = .next s) ∧ (n.toNat < 2 → t.toNat % 16 ≠ 0 → exec (.eventInputSet t n) s = .next s)) ∧
  (∀ (s : State) (t : BitVec 11) o, s.opOf t.toNat 2 = some o → o.result = none → leAt o.staged 0 1 = 1 →
    exec (.moverStart t) s = .next ((s.moverOp t.toNat o.staged).2.opResult t.toNat 2 (toLE 1 (s.moverOp t.toNat o.staged).1))) ∧
  (∀ (s : State) (t : BitVec 11), s.opOf t.toNat 2 = none → exec (.moverStart t) s = .next s) ∧
  (∀ (s w : State) (t : BitVec 11) (c : Fin 4), w = s.runOp t.toNat c →
    (w.opOf t.toNat c = none → exec (.channelOperationDone t c) s = .next w) ∧
    (∀ o, w.opOf t.toNat c = some o → o.result = none → exec (.channelOperationDone t c) s = .next w) ∧
    (∀ o r, w.opOf t.toNat c = some o → o.result = some r → o.stale = true → exec (.channelOperationDone t c) s = .next { w with trp := { w.trp with ops := w.trp.ops.erase o } }) ∧
    (∀ o r k off x, w.opOf t.toNat c = some o → o.result = some r → o.stale = false → x = { w with trp := { w.trp with ops := w.trp.ops.erase o } } →
      x.placeOf t.toNat ((x.thread t.toNat).chres.toNat + 32 * c) 32 = some (.dmem k off) → ∃ y : State, y = x.writeDmem k off r ∧
      exec (.channelOperationDone t c) s = .next ((y.setThread t.toNat { x.thread t.toNat with status := SMap.set (fun _ => 0) c.val (BitVec.ofNat 8 (leAt r 0 1)) (x.thread t.toNat).status, ended := SMap.set (fun _ => 0) c.val (SMap.get (fun _ => 0) (x.thread t.toNat).ended c.val + 1) (x.thread t.toNat).ended }).setEvent t.toNat (2 + c)))) ∧
  (∀ (s : State) (t : BitVec 11) v, v = s.thread t.toNat →
    (s.vlt.debug = false → exec (.debugHalt t) s = .next s ∧ exec (.debugResume t) s = .next s) ∧
    (s.vlt.debug = true → v.state = .WAITING → exec (.debugHalt t) s = .next (s.setThread t.toNat { v with state := .HALTED, held := .RUNNING, wait := none })) ∧
    (s.vlt.debug = true → v.state ≠ .WAITING → v.state ≠ .HALTED → exec (.debugHalt t) s = .next (s.setThread t.toNat { v with state := .HALTED, held := v.state, wait := none })) ∧
    (s.vlt.debug = true → v.state = .HALTED → exec (.debugHalt t) s = .next s ∧ exec (.debugResume t) s = .next (s.setThread t.toNat { v with state := v.held, held := .STOPPED })) ∧
    (v.state ≠ .HALTED → exec (.debugResume t) s = .next s))

/-- Supervision of cores and threads, stalls, and deliveries to clusters. An admitted write of TRP_THREAD_CTRL by a CPC
core, or by thread 0 for the others of its core, starts a thread at an even PC in instruction memory with its
registers, events, channel staging and fault record cleared, or stops it; another requester's write is dropped. A
write of TRP_THREAD_EVSET raises the software events given. A CPC write of RESET resets a core that runs: its threads
stop, its operations lose their results, it is counted and reported; the reset ends with data memory reloaded and
thread 0 at 0x8000_0000. The wait counter at its limit raises STALL and the stall timer at its limit resets the core,
and neither acts before. A delivery is published in a cluster's ring or dropped and counted; CONS advances only over
published units, and a ring's geometry changes only while it is disabled and valid. Rests on R21, R378, R379, R380,
R390, R391, R392, R393, R394, R395, R397, R400. -/
def Obligations.CoreSupervision : Prop :=
  (∀ (s u : State) r (t : BitVec 11) (pc : BitVec 32), s.admitWrite r .TRP_THREAD_CTRL t.toNat = (true, u) → u.sleepingAt .TRP_THREAD_CTRL t.toNat = none →
    exec (.threadStart r t pc) s = .next (u.threadControl r t.toNat 1 pc.toNat) ∧ exec (.threadStop r t) s = .next (u.threadControl r t.toNat 2 0)) ∧
  (∀ (s : State) r t op pc, mayControl r t = false ∨ s.coreRuns (t / 16) = false → s.threadControl r t op pc = s) ∧
  (∀ (s : State) r t pc, mayControl r t = true → s.coreRuns (t / 16) = true →
    s.threadControl r t 2 pc = s.threadStop t ∧
    (0x80000000 ≤ pc → pc < 0x80020000 → pc % 2 = 0 → s.threadControl r t 1 pc = s.threadStart t pc) ∧
    (pc < 0x80000000 ∨ 0x80020000 ≤ pc ∨ pc % 2 ≠ 0 → s.threadControl r t 1 pc = s)) ∧
  (∀ u c t, mayControl (.cpc u c) t = true) ∧
  (∀ n k h t, mayControl (.troupe n k h) t = (n.val == t / 256 && k.val == t / 16 % 16 && h.val == 0 && t % 16 != 0)) ∧
  (∀ (s : State) t pc v, v = s.thread t → v.state ≠ .HALTED → s.threadStart t pc = ((s.setThread t { v with
    state := .RUNNING, pc := BitVec.ofNat 64 pc, x := [], evpend := 0, evie := 0, chres := 0, ticket := 0, staging := [], resv := none, wait := none }).setReg .TRP_THREAD_FAULT t 0).setReg .TRP_THREAD_TVAL t 0) ∧
  (∀ (s : State) t v, v = s.thread t → (v.state ≠ .HALTED → s.threadStop t = s.setThread t { v with state := .STOPPED, wait := none }) ∧
    (v.state = .HALTED → s.threadStop t = s.setThread t { v with held := .STOPPED })) ∧
  (∀ (s u : State) r (t : BitVec 11) (e : BitVec 16), s.admitWrite r .TRP_THREAD_EVSET t.toNat = (true, u) → u.sleepingAt .TRP_THREAD_EVSET t.toNat = none →
    exec (.threadEvset r t e) s = .next (u.eventSet r t.toNat e.toNat)) ∧
  (∀ (s : State) r t e, (∃ u c, r = .cpc u c) ∨ (∃ n k h, r = .troupe n k h ∧ n.val = t / 256) → s.eventSet r t e = ((List.range 16).filter (bit e)).foldl (fun s i => s.setEvent t (16 + i)) s) ∧
  (∀ (s u : State) r (k : BitVec 7), s.admitWrite r .TRP_CORE_CFG k.toNat = (true, u) → u.sleepingAt .TRP_CORE_CFG k.toNat = none → u.canonical = true →
    (∀ a b, r = .cpc a b → u.coreRuns k.toNat = true → exec (.coreReset r k) s = .next (u.coreReset k.toNat 3)) ∧
    (∀ a b, r = .cpc a b → u.coreRuns k.toNat = false → exec (.coreReset r k) s = .next u) ∧
    (∀ n a b, r = .troupe n a b → exec (.coreReset r k) s = .next u)) ∧
  (∀ (s a b : State) k cause,
    a = ((List.range 16).map (16 * k + ·)).foldl (fun s t => s.setThread t { s.thread t with state := .STOPPED, held := .STOPPED, wait := none, resv := none }) s →
    b = { a with trp := { a.trp with ops := a.trp.ops.map (fun (o : ChanOp) => if o.thread / 16 = k then { o with stale := true } else o) } } →
    ∃ w : State, w = (b.setCore k { b.core k with resetting := true, stall := false, idle := 0, stalled := 0 }).touchPairs 1 ∧
      s.coreReset k cause = ((((w.setFld Fld.TRP_CORE_STATUS_LAST_RESET k cause).setFld Fld.TRP_CORE_STATUS_RESETS k (min 65535 (w.fld Fld.TRP_CORE_STATUS_RESETS k + 1))).bump .TRP_CORE_RESETS (k / 16)).emit (.coreEvent k cause)).cpcEvent 4) ∧
  (∀ (s : State) (k : BitVec 7),
    ((s.core k.toNat).resetting = true → s.coreCurtained k.toNat = false → s.pairsAwake 1 = true →
      exec (.coreResetComplete k) s = .next (((s.reloadDmem k.toNat).setCore k.toNat { since := s.clk.core }).threadStart (16 * k.toNat) 0x80000000)) ∧
    ((s.core k.toNat).resetting = false ∨ s.coreCurtained k.toNat = true ∨ s.pairsAwake 1 = false → exec (.coreResetComplete k) s = .next s) ∧
    (s.allWait k.toNat = true → s.coreRuns k.toNat = true → 65536 ≤ (s.core k.toNat).idle →
      exec (.stallRaised k) s = .next (((s.setCore k.toNat { s.core k.toNat with stall := true, idle := 0 }).setEvent (16 * k.toNat) 0).bump .TRP_STALLS (k.toNat / 16))) ∧
    (s.allWait k.toNat = false ∨ s.coreRuns k.toNat = false ∨ (s.core k.toNat).idle < 65536 → exec (.stallRaised k) s = .next s) ∧
    ((s.core k.toNat).stall = true → s.coreRuns k.toNat = true → 2 ^ 24 ≤ (s.core k.toNat).stalled → exec (.stallReset k) s = .next (s.coreReset k.toNat 2)) ∧
    ((s.core k.toNat).stall = false ∨ s.coreRuns k.toNat = false ∨ (s.core k.toNat).stalled < 2 ^ 24 → exec (.stallReset k) s = .next s)) ∧
  (∀ (s : State) k, s.allWait k = ((List.range 16).any (fun i => (s.thread (16 * k + i)).state == .WAITING) && !(List.range 16).any (fun i => (s.thread (16 * k + i)).state == .RUNNING))) ∧
  (∀ (s : State) (d : Fin 2) mine, mine = s.swc.arrived.filter (fun k => k.port == 334 + d.val && (match s.frame? k.frame with | some x => x.ended && !forLeadCpc k x | none => false)) →
    (mine = [] → exec (.deliveryPublish d) s = .next s) ∧
    (∀ k rest f x, mine = k :: rest → s.frame? k.frame = some f → x = s.shown k f →
      (∀ snap dest depth port, k.kind = .sample snap dest depth port → s.clusterLoaded (dest - 1) = true →
        exec (.deliveryPublish d) s = .next ((s.publish (dest - 1) 1 (sampleHeader x port depth x.octets.length ++ x.octets.take (128 * snap))).takeArrived k)) ∧
      ((∀ snap dest depth port, k.kind ≠ .sample snap dest depth port) → s.slowCluster d x = none → exec (.deliveryPublish d) s = .next ((s.bump .TRP_SLOW_NO_CLUSTER 0).takeArrived k)) ∧
      (∀ n, (∀ snap dest depth port, k.kind ≠ .sample snap dest depth port) → s.slowCluster d x = some n → x.bad = true → exec (.deliveryPublish d) s = .next ((s.bump .TRP_DQ_TAIL_DROP n).takeArrived k)) ∧
      (∀ n body, body = x.octets.take (x.octets.length - 4) → (∀ snap dest depth port, k.kind ≠ .sample snap dest depth port) → s.slowCluster d x = some n → x.bad = false →
        exec (.deliveryPublish d) s = .next ((s.publish n 0 (slowHeader x body.length ++ body)).takeArrived k)))) ∧
  (∀ (s w : State) n q unit i slots size, i = 2 * n + q → w = s.touchDomain (30 + n) → slots = s.dqSlots i → size = 2 ^ w.fld Fld.TRP_DQ_CFG_LOG2_SLOT i →
    (size < unit.length → s.publish n q unit = w.bump .TRP_DQ_TOO_BIG n) ∧
    (unit.length ≤ size → w.flagAt Fld.TRP_DQ_CFG_ENABLE i = false ∨ ringHeld (w.dqProd i) (w.dqCons i) slots = slots → s.publish n q unit = w.bump .TRP_DQ_FULL n)) ∧
  (∀ (s u : State) r (n : Fin 8) (q : Fin 2) (c : BitVec 16) i, i = 2 * n.val + q.val → s.admitWrite r .TRP_DQ_CONS i = (true, u) → u.sleepingAt .TRP_DQ_CONS i = none →
    (ringHeld (u.dqProd i) c.toNat (u.dqSlots i) ≤ ringHeld (u.dqProd i) (u.dqCons i) (u.dqSlots i) → exec (.dqConsWrite r n q c) s = .next (u.setDq i (u.dqProd i) (c.toNat % (2 * u.dqSlots i)))) ∧
    (ringHeld (u.dqProd i) (u.dqCons i) (u.dqSlots i) < ringHeld (u.dqProd i) c.toNat (u.dqSlots i) → exec (.dqConsWrite r n q c) s = .next (u.dqRefused n))) ∧
  (∀ (s u : State) r (n : Fin 8) (q : Fin 2) (v : BitVec 64) i, i = 2 * n.val + q.val → s.admitWrite r .TRP_DQ_CFG i = (true, u) → u.sleepingAt .TRP_DQ_CFG i = none →
    ∃ x : Word, fieldOf x 0 24 = bits v.toNat 0 24 ∧ fieldOf x 24 4 = bits v.toNat 24 4 ∧ fieldOf x 28 4 = bits v.toNat 28 4 ∧ fieldOf x 32 4 = bits v.toNat 32 4 ∧
      fieldOf x 36 16 = bits v.toNat 36 16 ∧ fieldOf x 52 1 = bits v.toNat 52 1 ∧ exec (.dqCfgWrite r n q v) s = .next (u.dqCfgWrite n q x)) ∧
  (∀ (s : State) n q (v old : Word) i, i = 2 * n + q → old = s.reg .TRP_DQ_CFG i → fieldOf v 0 32 = fieldOf old 0 32 →
    ∃ x : Word, x = BitVec.ofNat 64 (fieldOf v 0 32 + fieldOf v 32 21 * 2 ^ 32) ∧
    (fieldOf old 52 1 = 1 ∨ fieldOf x 52 1 = 0 → s.dqCfgWrite n q v = s.setReg .TRP_DQ_CFG i x) ∧
    (fieldOf old 52 1 = 0 → fieldOf x 52 1 = 1 → s.dqCfgWrite n q v = (s.setReg .TRP_DQ_CFG i x).setDq i 0 0)) ∧
  (∀ (s : State) n q (v old : Word) i, i = 2 * n + q → old = s.reg .TRP_DQ_CFG i → fieldOf v 0 32 ≠ fieldOf old 0 32 → fieldOf old 52 1 = 1 →
    ∃ x : Word, x = BitVec.ofNat 64 (fieldOf old 0 32 + fieldOf v 32 21 * 2 ^ 32) ∧ s.dqCfgWrite n q v = (s.setReg .TRP_DQ_CFG i x).dqRefused n)

/-- Callboard slots and the management talk on them. A slot write acts at the slot's write address on the requester's
path, and does nothing where the path does not reach the slot; through a slice's page it stores the word and its stamp
and sets FULL, with COLLISION where the slot was FULL or had it, counts that collision, and notifies; a reserved slot
drops it, and a peer slot's word is carried to a joined peer or counted as dropped. A take by the lead CPC of a word
meant for it acts on the word: a slice's hello is answered, a word of PF0 goes to the talk of its port. A HELLO
abandons an open transfer and chooses the lower version; a START opens a transfer; the last word of one completes it;
a collision in one abandons it with OVERRUN. A transfer without a word for 10 ms is abandoned and counted, and not
before. Rests on R328, R401, R403, R404, R405, R406, R407, R408. -/
def Obligations.CallboardSlots : Prop :=
  (∀ (s : State) r (i : Fin 9216) (w : BitVec 32), (slotPath r i = none → exec (.slotWrite r i w) s = .next s ∧ exec (.slotTake r i) s = .next s.settleAll) ∧
    (∀ a, slotPath r i = some a → exec (.slotWrite r i w) s = .next (s.mapWrite r a .b4 (w.setWidth 64)) ∧
      (s.leadCore r = false ∨ talksToLead i = false ∨ slotFull (s.cbSlot i) = false → exec (.slotTake r i) s = .next (s.readOut r (a + 8) .b8).settleAll))) ∧
  (∀ (n : Fin 4096) (i : Fin 9216), (0 < n.val → i.val / 2 = n.val → slotPath (.slice n) i = some (0x800 + 0x40 * (i.val % 2))) ∧ (i.val / 2 ≠ n.val → slotPath (.slice n) i = none)) ∧
  (∀ (s : State) (n : Fin 4096) (i : Fin 9216) (w : BitVec 32) off a t, slotPath (.slice n) i = some off → off ≠ 0 → off < 0x1000 → s.dev.state = .STAGE → s.sliceState n ≠ 0 → s.sliceHidden n = false →
    s.sliceSpot n off = .map a → blockAt a = some .CBD → resolve a 0 = some t → t.reg = .CBD_SLOT_WRITE → a % 4 = 0 →
    exec (.slotWrite (.slice n) i w) s = .next ((s.splitBuffer (.slice n)).slotPut t.idx (Requester.code (.slice n)) w)) ∧
  (∀ (s : State) i stamp (w : BitVec 32) old v, old = s.cbSlot i → v = w.toNat + stamp % 65536 * 2 ^ 32 →
    (slotReserved i = true → s.slotPut i stamp w = s) ∧
    (slotReserved i = false → peerSlot i = none → ∀ x, x = s.setCbSlot i (BitVec.ofNat 64 (v + flag (slotFull old || slotCollision old) * 2 ^ 62 + 2 ^ 63)) →
      (slotFull old = true → s.slotPut i stamp w = (x.bump .CBD_COLLISIONS 0).slotNotify i) ∧ (slotFull old = false → s.slotPut i stamp w = x.slotNotify i)) ∧
    (∀ d x, slotReserved i = false → peerSlot i = some d → x = s.setCbSlot i (BitVec.ofNat 64 v) →
      (x.peerJoined d = true → s.slotPut i stamp w = x.barodTo d 7 (toLE 4 w.toNat)) ∧ (x.peerJoined d = false → s.slotPut i stamp w = x.bump .CBD_PEER_DROP 0))) ∧
  (∀ (s : State) r (i : Fin 9216) a x, slotPath r i = some a → s.leadCore r = true → talksToLead i = true → slotFull (s.cbSlot i) = true → x = (s.splitBuffer r).emit (.value r.code (a + 8) (s.cbSlot i)) →
    (i.val < 8192 → exec (.slotTake r i) s = .next (x.sliceHello (i / 2)).settleAll) ∧ (8192 ≤ i.val → exec (.slotTake r i) s = .next (x.talkWord ((i - 8192) / 2)).settleAll)) ∧
  (∀ (s w : State) n v, v = s.cbSlot (2 * n) → n ≠ 0 → s.cpcRuns = true → s.leadCpc.isNone = false → slotFull v = true → w = s.slotTaken (2 * n) →
    (fieldOf v 0 32 % 256 = 1 → s.sliceHello n = (w.setFld Fld.SLC_SLICE_STATE_FORMAT n (w.helloAnswer n (fieldOf v 0 32)).1).slotPut (2 * n + 1) w.leadStamp (BitVec.ofNat 32 (w.helloAnswer n (fieldOf v 0 32)).2)) ∧
    (fieldOf v 0 32 % 256 ≠ 1 → s.sliceHello n = w.slotPut (2 * n + 1) w.leadStamp (helloReply (w.fld Fld.SYS_PROTOCOLS_MGMT_MAX 0) Code.UNSUPPORTED))) ∧
  (∀ (s : State) (h : Fin 16) v, v = s.cbSlot (8192 + 2 * h) →
    (s.cpcRuns = true → s.leadCpc.isNone = false → slotFull v = true → fieldOf v 0 8 = 1 → exec (.callboardHello h) s = .next ((s.talkAbandon h).talkWord h)) ∧
    (slotFull v = true → fieldOf v 0 8 = 2 → (s.talk h).open_ = none → exec (.callboardStart h) s = .next (s.talkWord h)) ∧
    (slotFull v = false ∨ fieldOf v 0 8 ≠ 1 → exec (.callboardHello h) s = .next s) ∧
    (slotFull v = false ∨ fieldOf v 0 8 ≠ 2 ∨ (s.talk h).open_.isNone = false → exec (.callboardStart h) s = .next s)) ∧
  (∀ (s : State) h, s.cpcRuns = true → s.leadCpc.isNone = false → (∀ m t, s.talkTake h = (some m, t) → s.talkWord h = t.command (.callboard (Fin.ofNat 16 h)) m) ∧ (∀ t, s.talkTake h = (none, t) → s.talkWord h = t)) ∧
  (∀ (s x : State) h v t w, v = s.cbSlot (8192 + 2 * h) → slotFull v = true → x = s.slotClear (8192 + 2 * h) → t = x.talk h → w = fieldOf v 0 32 →
    (t.open_ = none → w % 256 = 1 → s.talkTake h = (none, ((x.talkAbandon h).setTalk h { hello := true }).talkQueue h
      [helloReply (min (bits w 8 8) (((x.talkAbandon h).setTalk h { hello := true }).fld Fld.SYS_PROTOCOLS_MGMT_MAX 0)) Code.OK])) ∧
    (t.open_ = none → w % 256 = 2 → t.hello = true → w / 256 ≠ 0 → s.talkTake h = (none, x.setTalk h { t with open_ := some (w / 256, []), since := x.elapsed })) ∧
    (t.open_ = none → w % 256 = 2 → t.hello = false → s.talkTake h = (none, x.talkQueue h [helloReply (x.fld Fld.SYS_PROTOCOLS_MGMT_MAX 0) 0xE0])) ∧
    (∀ n got, t.open_ = some (n, got) → slotCollision v = true → s.talkTake h = (none, (x.talkAbandon h).talkQueue h [helloReply ((x.talkAbandon h).fld Fld.SYS_PROTOCOLS_MGMT_MAX 0) Code.OVERRUN])) ∧
    (∀ n got, t.open_ = some (n, got) → slotCollision v = false → (got ++ toLE 4 w).length = 4 * n → s.talkTake h = (some (got ++ toLE 4 w), x.setTalk h { t with open_ := none })) ∧
    (∀ n got, t.open_ = some (n, got) → slotCollision v = false → (got ++ toLE 4 w).length ≠ 4 * n → s.talkTake h = (none, x.setTalk h { t with open_ := some (n, got ++ toLE 4 w), since := x.elapsed }))) ∧
  (∀ (s : State) (h : Fin 16) t, t = s.talk h →
    (t.open_.isSome = true ∨ t.sending ≠ [] → t.since + 10000000 ≤ s.elapsed → exec (.callboardTransferTimeout h) s = .next ((s.talkAbandon h).bump .CBD_XFER_ABANDONED 0)) ∧
    (t.open_ = none ∧ t.sending = [] ∨ s.elapsed < t.since + 10000000 → exec (.callboardTransferTimeout h) s = .next s))

/-- Heartbeats, silence, claims, gaps and fencing. A RUNNING unit that is fed sends heartbeats, a kick feeds the writer's
unit, and a unit not kicked by its limit is no longer fed. A heartbeat makes its path not silent; a path silent alone
degrades the pair, both together lose the partner: a lead that is lost opens the gap for a RUNNING understudy, an
understudy that is lost is fenced. A claim of a unit that runs and does not lead, with the partner's number, takes the
number one above it, or renormalises at 0xFFFF, ends the gap, and as a TAKEOVER fences the partner; any other claim
changes only LAST_CLAIM. A bounded gap at its limit curtains the pair's scope. A verdict on a fenced unit retires it
or starts it again. Rests on R410, R411, R415, R416, R417, R418, R419, R420, R421, R422, R423, R464. -/
def Obligations.LeadAndUnderstudy : Prop :=
  (∀ (s : State) (u : Fin 20) x, x = s.unit u →
    (x.state = .RUNNING → x.fed = true → s.pairExists (u.val / 2) = true → exec (.heartbeatSend u) s = .next (s.emit (.heartbeat u.val))) ∧
    (x.state ≠ .RUNNING ∨ x.fed = false ∨ s.pairExists (u.val / 2) = false → exec (.heartbeatSend u) s = .next s) ∧
    (x.state = .RUNNING → u.val ≠ 2 → u.val ≠ 3 → x.kickDue ≤ s.elapsed → exec (.kickLimitExpiry u) s = .next (s.setUnit u { x with fed := false })) ∧
    (x.state ≠ .RUNNING ∨ u.val = 2 ∨ u.val = 3 ∨ s.elapsed < x.kickDue → exec (.kickLimitExpiry u) s = .next s) ∧
    (x.partnerLost = true ∨ s.pairExists (u.val / 2) = false → ∀ p, exec (.heartbeatReceived u p) s = .next s) ∧
    (x.partnerLost = false → s.pairExists (u.val / 2) = true →
      (∀ w, w = s.setUnit u { x with meshSilent := false, meshAt := s.elapsed } → x.sidebandSilent = false → (w.unit (partner u)).meshSilent = false → (w.unit (partner u)).sidebandSilent = false →
        exec (.heartbeatReceived u .mesh) s = .next { w with rdn := { w.rdn with degraded := SMap.set pbaDefault (u.val / 2) false w.rdn.degraded } }) ∧
      (∀ w, w = s.setUnit u { x with sidebandSilent := false, sidebandAt := s.elapsed } → x.meshSilent = true → exec (.heartbeatReceived u .sideband) s = .next w)) ∧
    (x.partnerLost = true ∨ s.pairExists (u.val / 2) = false ∨ s.running (partner u) = false → ∀ p, exec (.pathSilent u p) s = .next s.settleAll) ∧
    (s.elapsed < x.meshAt + 28000 → exec (.pathSilent u .mesh) s = .next s.settleAll) ∧
    (x.partnerLost = false → s.pairExists (u.val / 2) = true → s.running (partner u) = true → x.state = .RUNNING →
      (x.meshAt + 28000 ≤ s.elapsed → x.sidebandSilent = true → ∀ w, w = s.setUnit u { x with meshSilent := true, partnerLost := true } →
        (w.isLead (partner u) = true → exec (.pathSilent u .mesh) s = .next (w.leadLost (partner u)).settleAll) ∧
        (w.isLead (partner u) = false → exec (.pathSilent u .mesh) s = .next (w.understudyLost (partner u)).settleAll)) ∧
      (x.sidebandAt + 28000 ≤ s.elapsed → x.meshSilent = false → SMap.get pbaDefault s.rdn.degraded (u.val / 2) = false → ∀ w, w = s.setUnit u { x with sidebandSilent := true } →
        exec (.pathSilent u .sideband) s = .next (({ w with rdn := { w.rdn with degraded := SMap.set pbaDefault (u.val / 2) true s.rdn.degraded } }.bump .RDN_PATH_DEGRADED 0).plainAlarm 4 0 7 0 (u.val - u.val % 2)).settleAll))) ∧
  (∀ (s : State) u, (s.running (partner u) = true → s.leadLost u = (s.setGap (u / 2) (.open (s.flagAt Fld.RDN_CFG_GAP_MODE 0) s.elapsed)).roleEvent (partner u) 7) ∧ (s.running (partner u) = false → s.leadLost u = s.pairCurtain (u / 2)) ∧
    s.understudyLost u = (s.fence u).roleEvent (partner u) 8) ∧
  (∀ (s u : State) r, s.admitWrite r .RDN_KICK 0 = (true, u) → (∀ k, u.unitOf r = some k → exec (.kick r) s = .next (u.setUnit k { u.unit k with fed := true, kickDue := u.elapsed + 1000 * u.fld Fld.RDN_CFG_KICK_LIMIT_US 0 })) ∧
    (u.unitOf r = none → exec (.kick r) s = .next u)) ∧
  (∀ (s u : State) r (e : BitVec 16), s.admitWrite r .RDN_CLAIM 0 = (true, u) →
    (u.unitOf r = none → exec (.takeover r e) s = .next (u.claimStatus 0xAB) ∧ exec (.rehearsal r e) s = .next (u.claimStatus 0xAB) ∧ exec (.tie r e) s = .next (u.claimStatus 0xAB)) ∧
    (∀ k, u.unitOf r = some k → exec (.takeover r e) s = .next (u.claim k e.toNat .takeover) ∧ exec (.rehearsal r e) s = .next (u.claim k e.toNat .rehearsal) ∧ exec (.tie r e) s = .next (u.claim k e.toNat .tie))) ∧
  (∀ (s : State) u expect kind,
    (s.pairExists (u / 2) = false → s.claim u expect kind = s.claimStatus 0xAB) ∧
    (s.pairExists (u / 2) = true → s.running u = false → s.claim u expect kind = s) ∧
    (s.pairExists (u / 2) = true → s.running u = true → s.number (partner u) < s.number u → s.claim u expect kind = s.claimStatus 0xA9) ∧
    (s.pairExists (u / 2) = true → s.running u = true → s.number u ≤ s.number (partner u) → s.number (partner u) ≠ expect → s.claim u expect kind = s.claimStatus 0xA8) ∧
    (s.pairExists (u / 2) = true → s.running u = true → s.number u ≤ s.number (partner u) → s.number (partner u) = expect →
      ∀ w, w = (((s.claimMark (u / 2)).takeNumber u).closeGap (u / 2)).claimStatus Code.OK →
      (kind ≠ .takeover → s.claim u expect kind = w) ∧
      (∀ x, kind = .takeover → x = (if u < 2 then w.endSession else w).bump .RDN_SWITCHOVERS 0 →
        (x.running (partner u) = true → s.claim u expect kind = x.fence (partner u)) ∧ (x.running (partner u) = false → s.claim u expect kind = x)))) ∧
  (∀ (s : State) u, (s.number (partner u) = 65535 → s.takeNumber u = (((s.setNumber u 1).setNumber (partner u) 0).bump .RDN_RENORMALISED 0).leadTaken u) ∧
    (s.number (partner u) ≠ 65535 → s.takeNumber u = (s.setNumber u (s.number (partner u) + 1)).leadTaken u)) ∧
  (∀ (s : State) (n : Fin 10) since, s.gap n = .open true since →
    (since + 40 * s.fld Fld.RDN_CFG_GAP_CYCLES 0 ≤ s.elapsed → exec (.gapLimit n) s = .next ((s.pairCurtain n).setGap n (.open false since)).settleAll) ∧
    (s.elapsed < since + 40 * s.fld Fld.RDN_CFG_GAP_CYCLES 0 → exec (.gapLimit n) s = .next s.settleAll)) ∧
  (∀ (s : State) (n : Fin 10), s.gap n = .closed ∨ (∃ since, s.gap n = .open false since) → exec (.gapLimit n) s = .next s.settleAll) ∧
  (∀ (s : State) (u : Fin 20) l, s.underTest .controlUnit (BitVec.ofNat 32 u) = none → exec (.fenceVerdict u l) s = .next s.settleAll) ∧
  (∀ (s a w : State) (u : Fin 20) l t i, i = BitVec.ofNat 32 u.val → s.underTest .controlUnit i = some t →
    a = { s with flt := { s.flt with tests := s.flt.tests.filter (fun x => !(x.kind == ElementKind.controlUnit && x.index == i)) } } → w = a.testVerdict t (!l) true true 0 →
    (l = true ∨ 3 ≤ (s.transients .controlUnit i).length → exec (.fenceVerdict u l) s = .next (((w.setUnit u { state := .RETIRED }).equalNumbers (u.val / 2)).pairLeads (u.val / 2)).settleAll) ∧
    (l = false → (s.transients .controlUnit i).length < 3 → ∀ x y, x = (w.reloadUnit u).freshUnit u .RUNNING →
      y = x.setUnit (partner u) { w.unit (partner u) with meshSilent := false, sidebandSilent := false, partnerLost := false, meshAt := w.elapsed, sidebandAt := w.elapsed } →
      exec (.fenceVerdict u l) s = .next ((y.equalNumbers (u.val / 2)).pairLeads (u.val / 2)).settleAll))

/-- Rehearsals, the gate probe, the frame rings of the CPCs and a vault request. The rehearsal interval starts the
rehearsals of the pairs, and each pair that cannot rehearse is counted as deferred. The lead's YIELD opens the gap of
the pair that rehearses; without it by 1 ms that rehearsal is deferred; DONE from the new lead counts a rehearsal;
without it by 1 ms after the yield the old lead takes a number above its partner's, and the partner is fenced and
judged lasting. A probe sets the bits of the six gates exactly when the prober's unit passes them. A transmit slot of
the lead's ring becomes a frame at port 334, or is skipped and counted; a unit for the lead CPC is written in its ring
with its header, or lost and counted; a bad frame is dropped. A vault request is posted by the request producer. Rests
on R136, R171, R183, R269, R415, R420, R424, R425, R426, R429, R430, R432. -/
def Obligations.RehearsalsAndRings : Prop :=
  (∀ (s : State) h, h = s.fld Fld.RDN_CFG_REHEARSAL_HOURS 0 →
    (h = 0 ∨ s.rdn.phase ≠ .IDLE ∨ s.now < s.rdn.rehearsedAt + 3600000000000 * h → exec .rehearsalTimer s = .next s) ∧
    (h ≠ 0 → s.rdn.phase = .IDLE → s.rdn.rehearsedAt + 3600000000000 * h ≤ s.now → exec .rehearsalTimer s = .next (State.rehearseFrom 11 0 { s with rdn := { s.rdn with rehearsedAt := s.now } }))) ∧
  (∀ (s : State) k n,
    (n < 10 → s.pairExists n = false → State.rehearseFrom (k + 1) n s = State.rehearseFrom k (n + 1) s) ∧
    (n < 10 → s.pairExists n = true → s.running (2 * n) = false ∨ s.running (2 * n + 1) = false ∨ SMap.get pbaDefault s.rdn.degraded n = true →
      State.rehearseFrom (k + 1) n s = State.rehearseFrom k (n + 1) (s.bump .RDN_REHEARSAL_DEFERRED 0)) ∧
    (n < 10 → s.pairExists n = true → s.running (2 * n) = true → s.running (2 * n + 1) = true → SMap.get pbaDefault s.rdn.degraded n = false →
      State.rehearseFrom (k + 1) n s = ({ s with rdn := { s.rdn with phase := .RAISED, pair := n, oldLead := if s.isLead (2 * n) then 2 * n else 2 * n + 1, phaseAt := s.elapsed } }.roleEvent (2 * n) 9).roleEvent (2 * n + 1) 9) ∧
    (10 ≤ n → State.rehearseFrom (k + 1) n s = { s with rdn := { s.rdn with phase := .IDLE } })) ∧
  (∀ (s u : State) r k, s.admitWrite r .RDN_REHEARSAL 0 = (true, u) → u.unitOf r = some k →
    exec (.yield r) s = .next (u.yieldBy k) ∧ exec (.rehearsalDone r) s = .next (u.doneBy k)) ∧
  (∀ (s : State) u,
    (s.rdn.phase = .RAISED → u / 2 = s.rdn.pair → s.isLead u = true → s.yieldBy u = { s with rdn := { s.rdn with phase := .YIELDED, oldLead := u, phaseAt := s.elapsed } }.setGap (u / 2) (.open false s.elapsed)) ∧
    (s.rdn.phase ≠ .RAISED ∨ u / 2 ≠ s.rdn.pair ∨ s.isLead u = false → s.yieldBy u = s) ∧
    (s.rdn.phase = .YIELDED → u / 2 = s.rdn.pair → u ≠ s.rdn.oldLead → s.isLead u = true → s.doneBy u = (s.bump .RDN_REHEARSALS 0).nextRehearsal) ∧
    (s.rdn.phase ≠ .YIELDED ∨ u / 2 ≠ s.rdn.pair ∨ u = s.rdn.oldLead ∨ s.isLead u = false → s.doneBy u = s)) ∧
  (∀ (s : State), (s.rdn.phase = .RAISED → s.rdn.phaseAt + 1000000 ≤ s.elapsed → exec .yieldTimeout s = .next (s.bump .RDN_REHEARSAL_DEFERRED 0).nextRehearsal) ∧
    (s.rdn.phase ≠ .RAISED ∨ s.elapsed < s.rdn.phaseAt + 1000000 → exec .yieldTimeout s = .next s) ∧
    (s.rdn.phase ≠ .YIELDED ∨ s.elapsed < s.rdn.phaseAt + 1000000 → exec .rehearsalFailed s = .next s.applyHeld.settleAll) ∧
    (∀ u w, s.rdn.phase = .YIELDED → s.rdn.phaseAt + 1000000 ≤ s.elapsed → u = s.rdn.oldLead → w = (((s.takeNumber u).fence (partner u)).fenceEnds (partner u) true).roleEvent u 10 →
      exec .rehearsalFailed s = .next (((w.bump .RDN_REHEARSAL_FAILED 0).closeGap (u / 2)).nextRehearsal.applyHeld).settleAll)) ∧
  (∀ (s u : State) (n : Fin 2) (c : Fin 4), s.admitWrite (.cpc n c) .RDN_PROBE 0 = (true, u) →
    (u.gatePasses n = true → exec (.probe (.cpc n c)) s = .next (u.setReg .RDN_PROBE_STATUS 0 0x7F)) ∧ (u.gatePasses n = false → exec (.probe (.cpc n c)) s = .next (u.setReg .RDN_PROBE_STATUS 0 0x40))) ∧
  (∀ (s u : State) (n : Fin 2), s.admitWrite (.vault n) .RDN_PROBE 0 = (true, u) → exec (.probe (.vault n)) s = .next u) ∧
  (∀ (s : State), s.leadCpc = none → exec .cpcFrameTransmit s = .next s) ∧
  (∀ (s w : State) u log prod cons b len, s.leadCpc = some u → log = s.fld Fld.RDN_LOCAL_TX_CFG_LOG2_SLOTS u → prod = s.fld Fld.RDN_LOCAL_TX_PTR_PROD u → cons = s.fld Fld.RDN_LOCAL_TX_PTR_CONS u →
    (s.flagAt Fld.RDN_LOCAL_TX_CFG_ENABLE u = false ∨ ringHeld prod cons (2 ^ log) = 0 → exec .cpcFrameTransmit s = .next s) ∧
    (s.flagAt Fld.RDN_LOCAL_TX_CFG_ENABLE u = true → ringHeld prod cons (2 ^ log) ≠ 0 → s.pairsAwake 1 = false → exec .cpcFrameTransmit s = .next (s.touchPairs 1)) ∧
    (s.flagAt Fld.RDN_LOCAL_TX_CFG_ENABLE u = true → ringHeld prod cons (2 ^ log) ≠ 0 → s.pairsAwake 1 = true →
      b = readMem s.mem.hb0 (ringSlot (s.fld Fld.RDN_LOCAL_TX_CFG_BASE u) log cons) 16384 → len = leAt b 0 2 → w = s.setFld Fld.RDN_LOCAL_TX_PTR_CONS u ((cons + 1) % (2 * 2 ^ log)) →
      (len < 14 ∨ 10236 < len ∨ allZero (slice b 8 8) = false → exec .cpcFrameTransmit s = .next (w.bump .RDN_CPC_TX_BAD 0)) ∧
      (14 ≤ len → len ≤ 10236 → leAt b 2 1 < 16 → leAt b 3 1 < 64 → leAt b 4 1 < 16 → leAt b 5 1 < 4 → allZero (slice b 8 8) = true → ∃ e : EmitFlags,
        e.useTable = bit (leAt b 2 1) 3 ∧ e.table = BitVec.ofNat 6 (leAt b 3 1) ∧ e.csum = BitVec.ofNat 8 (leAt b 4 1) ∧ e.ts = BitVec.ofNat 8 (leAt b 5 1) ∧ e.tag = BitVec.ofNat 16 (leAt b 6 2) ∧
        exec .cpcFrameTransmit s = .next (w.newFrame { id := 0, inPort := 334, passPort := 334, octets := withFcs (slice b 16 len) false, ended := true, rxClass := leAt b 2 1 % 8, time := w.now, emit := some e })))) ∧
  (∀ (s : State) (f : Nat) mine, mine = s.swc.arrived.filter (fun k => k.port == 334 && (match s.frame? k.frame with | some x => forLeadCpc k x | none => false)) →
    (mine = [] → exec (.cpcFrameReceive f) s = .next s) ∧
    (∀ k rest fr x, mine = k :: rest → s.frame? k.frame = some fr → x = s.shown k fr →
      (k.frame ≠ f ∨ x.ended = false → exec (.cpcFrameReceive f) s = .next s) ∧
      (k.frame = f → x.ended = true → s.pairsAwake 1 = false → exec (.cpcFrameReceive f) s = .next (s.touchPairs 1)) ∧
      (k.frame = f → x.ended = true → s.pairsAwake 1 = true →
        (∀ snap dest depth port, k.kind = .sample snap dest depth port →
          exec (.cpcFrameReceive f) s = .next ((s.cpcRing 2 (sampleHeader x port depth x.octets.length) (x.octets.take (128 * snap))).takeArrived k)) ∧
        ((∀ snap dest depth port, k.kind ≠ .sample snap dest depth port) → x.bad = true → exec (.cpcFrameReceive f) s = .next (s.takeArrived k)) ∧
        (∀ body, (∀ snap dest depth port, k.kind ≠ .sample snap dest depth port) → x.bad = false → body = x.octets.take (x.octets.length - 4) →
          exec (.cpcFrameReceive f) s = .next ((s.cpcRing 1 (slowHeader x body.length) body).takeArrived k))))) ∧
  (∀ (s : State) kind head body, (s.leadCpc = none → s.cpcRing kind head body = s.bump .RDN_CPC_RX_LOST 0) ∧
    (∀ u log prod, s.leadCpc = some u → log = s.fld Fld.RDN_LOCAL_RX_CFG_LOG2_SLOTS u → prod = s.fld Fld.RDN_LOCAL_RX_PTR_PROD u →
      (s.flagAt Fld.RDN_LOCAL_RX_CFG_ENABLE u = false ∨ ringHeld prod (s.fld Fld.RDN_LOCAL_RX_PTR_CONS u) (2 ^ log) = 2 ^ log → s.cpcRing kind head body = s.bump .RDN_CPC_RX_LOST 0) ∧
      (∀ w, s.flagAt Fld.RDN_LOCAL_RX_CFG_ENABLE u = true → ringHeld prod (s.fld Fld.RDN_LOCAL_RX_PTR_CONS u) (2 ^ log) ≠ 2 ^ log →
        w = { s with mem := { s.mem with hb0 := writeMem s.mem.hb0 (ringSlot (s.fld Fld.RDN_LOCAL_RX_CFG_BASE u) log prod) (toLE 1 kind ++ [0, 0, 0] ++ toLE 4 body.length ++ List.replicate 8 0 ++ slice head 0 48 ++ body) } } →
        s.cpcRing kind head body = (w.setFld Fld.RDN_LOCAL_RX_PTR_PROD u ((prod + 1) % (2 * 2 ^ log))).unitEvent u 12))) ∧
  (∀ (s u : State) (n : Fin 2) (p : BitVec 16), s.admitWrite (.cpc n 0) .RDN_LOCAL_VRING n = (true, u) → ∃ x, x < 32 ∧
    exec (.vaultRequestPost n p) s = .next (((u.setFld Fld.RDN_LOCAL_VRING_REQ_PROD n (p.toNat % 32)).setFld Fld.RDN_LOCAL_VRING_RPL_CONS n x).skipUnknown 16) ∧
    x = fieldOf (u.reg .RDN_LOCAL_VRING n) 48 16 % 32)

/-- Barod links, stack state, claims and stack time. Hellos and keepalives go out only on designated ports of a device in
STAGE whose link is up, keepalives only on established links. A frame that fails the checks of R435 is counted and
dropped; one of another type, or on a link that is not alive, changes nothing; another notes its sender's number and
state and acts: a hello sets the link's version or refuses it, a keepalive keeps the echo times, adopts a master and
measures the offset, a claim is answered by the test of R441, and a reply counts towards the quorum. A link falls
silent at its limit and not before; the wait before a claim and the limit for replies act at their times; a time
offset that has stood for 1 s curtains the ports with a timetable. Rests on R433, R434, R435, R436, R437, R438, R440,
R441, R442, R443, R447. -/
def Obligations.StackLinks : Prop :=
  (∀ (s : State) (p : Fin 256) (f : List Byte),
    (s.dev.state ≠ .STAGE ∨ s.designated p = false → exec (.barodHello p f) s = .next s ∧ exec (.keepalive p f) s = .next s ∧ exec (.barodClaim p f) s = .next s ∧ exec (.claimReply p f) s = .next s) ∧
    (s.dev.state = .STAGE → s.designated p = true → s.barodBad p f = true → exec (.barodHello p f) s = .next (s.bump .STK_BAD_FRAMES 0) ∧ exec (.keepalive p f) s = .next (s.bump .STK_BAD_FRAMES 0) ∧ exec (.barodClaim p f) s = .next (s.bump .STK_BAD_FRAMES 0) ∧ exec (.claimReply p f) s = .next (s.bump .STK_BAD_FRAMES 0)) ∧
    (s.dev.state = .STAGE → s.designated p = true → s.barodBad p f = false → bType f ≠ 1 → exec (.barodHello p f) s = .next s) ∧
    (s.dev.state = .STAGE → s.designated p = true → s.barodBad p f = false → bType f ≠ 2 ∨ (s.stackLink p).alive = false → exec (.keepalive p f) s = .next s) ∧
    (s.dev.state = .STAGE → s.designated p = true → s.barodBad p f = false → bType f ≠ 3 ∨ (s.stackLink p).alive = false → exec (.barodClaim p f) s = .next s) ∧
    (s.dev.state = .STAGE → s.designated p = true → s.barodBad p f = false → bType f ≠ 4 ∨ (s.stackLink p).alive = false → exec (.claimReply p f) s = .next s)) ∧
  (∀ (s x w : State) (p : Fin 256) (f : List Byte) m, s.dev.state = .STAGE → s.designated p = true → s.barodBad p f = false → m = bMember f →
    x = s.setStackPeer m { s.stackPeer m with number := leAt f 12 2, state := leAt f 3 1 } → w = x.setStackLink p { x.stackLink p with heardAt := x.elapsed } →
    (bType f = 1 → exec (.barodHello p f) s = .next (w.helloIn p m (bBody f))) ∧
    (bType f = 2 → (s.stackLink p).alive = true → exec (.keepalive p f) s = .next (w.keepaliveIn p m (bBody f))) ∧
    (bType f = 3 → (s.stackLink p).alive = true → exec (.barodClaim p f) s = .next (w.claimIn p m (bBody f))) ∧
    (bType f = 4 → (s.stackLink p).alive = true → exec (.claimReply p f) s = .next (w.claimReplyIn m (bBody f)))) ∧
  (∀ (s : State) (p : Fin 256),
    (s.dev.state ≠ .STAGE ∨ s.designated p = false ∨ (s.port p).linkUp = false → exec (.barodHelloTimer p) s = .next s ∧ exec (.keepaliveTimer p) s = .next s) ∧
    ((s.stackLink p).established = false → exec (.keepaliveTimer p) s = .next s) ∧
    (∀ b w, s.dev.state = .STAGE → s.designated p = true → (s.port p).linkUp = true →
      b = toLE 1 1 ++ toLE 1 s.barodMax ++ [0, 0] ++ toLE 8 Config.serial.toNat ++ toLE 4 s.dev.imageVersion.toNat ++ [0, 0, 0, 0] ++ slice s.stk.digest 0 48 → w = s.barodSend p 1 b →
      exec (.barodHelloTimer p) s = .next (w.setStackLink p { w.stackLink p with sent := true }).stackJudge) ∧
    (∀ l, s.dev.state = .STAGE → s.designated p = true → (s.port p).linkUp = true → l = s.stackLink p → l.established = true →
      exec (.keepaliveTimer p) s = .next (s.barodSend p 2 (timeBytes s.now ++ timeBytes l.partnerTx ++ timeBytes l.partnerRx))) ∧
    (∀ l, l = s.stackLink p → (l.established = true → (s.port p).linkUp = false ∨ l.heardAt + 28000 ≤ s.elapsed → exec (.linkSilent p) s = .next (s.setStackLink p { l with silent := true }).stackJudge) ∧
      (l.established = false ∨ ((s.port p).linkUp = true ∧ s.elapsed < l.heardAt + 28000) → exec (.linkSilent p) s = .next s))) ∧
  (∀ (s : State) p m b v l, v = min s.barodMax (leAt b 1 1) → l = s.stackLink p →
    (leAt b 4 8 ≠ leAt (planMember s.stk.plan m) 0 8 ∨ v < leAt b 0 1 ∨ v < 1 → s.helloIn p m b = ((s.setStackLink p { l with heard := false, refused := true }).bump .STK_VERSION_REFUSED 0).stackJudge) ∧
    (∀ w, leAt b 4 8 = leAt (planMember s.stk.plan m) 0 8 → leAt b 0 1 ≤ v → 1 ≤ v → w = s.setStackLink p { l with heard := true, refused := false, silent := false, version := v, peer := m } →
      s.helloIn p m b = (w.setStackPeer m { w.stackPeer m with digest := slice b 20 48 == slice w.stk.digest 0 48 }).stackJudge)) ∧
  (∀ (s : State) p m b, (s.stk.state = .MASTER ∨ s.masterVisible = true → s.claimIn p m b = s.barodSend p 4 [0, 2]) ∧
    (s.stk.state ≠ .MASTER → s.masterVisible = false → s.stk.masterNum ≠ leAt b 0 2 → s.claimIn p m b = s.barodSend p 4 [0, 1]) ∧
    (s.stk.state ≠ .MASTER → s.masterVisible = false → s.stk.masterNum = leAt b 0 2 → leAt b 2 2 ≤ s.highestNumber → s.claimIn p m b = s.barodSend p 4 [0, 3]) ∧
    (s.stk.state ≠ .MASTER → s.masterVisible = false → s.stk.masterNum = leAt b 0 2 → s.highestNumber < leAt b 2 2 →
      s.claimIn p m b = (((s.setStk { s.stk with master := some m, masterNum := leAt b 2 2, claim := none }).bump .STK_MASTER_CHANGES 0).barodSend p 4 [1, 0]).stackJudge)) ∧
  (∀ (s : State) m b, (s.stk.claim = none → s.claimReplyIn m b = s) ∧
    (∀ c, s.stk.claim = some c → (leAt b 0 1 = 1 → s.claimReplyIn m b = (s.setStk { s.stk with claim := some { c with accepts := if c.accepts.contains m then c.accepts else m :: c.accepts } }).claimWon) ∧
      (leAt b 0 1 ≠ 1 → s.claimReplyIn m b = s.setStk { s.stk with claim := some { c with alive := c.alive || leAt b 1 1 == 2 } }))) ∧
  (∀ (s : State), s.stk.claim = none → s.claimWon = s ∧ exec .claimReplyLimit s = .next s) ∧
  (∀ (s : State) c, s.stk.claim = some c →
    (s.isQuorum (s.stk.member :: c.accepts) = true → s.claimWon = (s.becomeMaster c.new).stackJudge) ∧ (s.isQuorum (s.stk.member :: c.accepts) = false → s.claimWon = s) ∧
    (s.elapsed < c.since + 1000000 → exec .claimReplyLimit s = .next s) ∧
    (c.since + 1000000 ≤ s.elapsed → exec .claimReplyLimit s = .next ((s.setStk { s.stk with claim := none }).enterWings (if c.alive then 3 else 2)))) ∧
  (∀ (s : State) n due, due = s.stk.leaderless.getD s.elapsed + 50000 + 1000000 * (s.visibleMembers.filter (fun m => s.stk.number < (s.stackPeer m).number)).length →
    (s.seeksMaster = false ∨ s.elapsed < due → exec .claimWaitExpiry s = .next s) ∧
    (∀ w : State, s.seeksMaster = true → due ≤ s.elapsed → n = (if 65535 < s.highestNumber + 1 then 256 else s.highestNumber + 1) →
      w = s.setStk { s.stk with leaderless := none, claim := some { new := n, accepts := [], alive := false, since := s.elapsed } } →
      exec .claimWaitExpiry s = .next (w.visibleMembers.foldl (fun s m => s.barodTo m 3 (toLE 2 s.stk.masterNum ++ toLE 2 n)) w).claimWon)) ∧
  (∀ (s : State), (s.stk.drift = none ∨ s.stk.state = .MASTER ∨ s.dev.state ≠ .STAGE → exec .timeOffsetCurtain s = .next s.settleAll) ∧
    (∀ t, s.stk.drift = some t → (s.elapsed < t + 1000000000 → exec .timeOffsetCurtain s = .next s.settleAll) ∧
      (t + 1000000000 ≤ s.elapsed → s.stk.state ≠ .MASTER → s.dev.state = .STAGE →
        exec .timeOffsetCurtain s = .next ((s.setStk { s.stk with timePorts := (List.range 256).filter (fun p => s.flagAt Fld.TMS_PORT_CFG_TT_EN p) }).stackCurtains).settleAll)))

/-- Scenes, acknowledgements, reports and callboard words of the stack. A SCENE, SCENE_ACK or REPORT that passes the
checks of R435 on an alive link goes into the lead CPC's ring, where the ring is on, has room and its memory is awake,
and is lost and counted where it is off or full; a SCENE also acts where a lead CPC acts: a delta out of order, or
while a full scene is needed, fails, and a failed scene flushes what was staged and puts a member in WINGS with cause
SCENE. A callboard word is written into the slot of its sender with its stamp. A send command sends its payload to
each member of its mask with an alive link, a report not on a version 1 link, and does nothing with a bad address or
length. A scene not armed by its activation time fails. Rests on R21, R405, R435, R437, R438, R444, R445, R447. -/
def Obligations.StackFrames : Prop :=
  (∀ (s : State) (p : Fin 256) (f : List Byte),
    (s.dev.state ≠ .STAGE ∨ s.designated p = false → exec (.barodScene p f) s = .next s ∧ exec (.sceneAck p f) s = .next s ∧ exec (.cbword p f) s = .next s ∧ exec (.report p f) s = .next s) ∧
    (s.dev.state = .STAGE → s.designated p = true → s.barodBad p f = true → exec (.barodScene p f) s = .next (s.bump .STK_BAD_FRAMES 0) ∧ exec (.sceneAck p f) s = .next (s.bump .STK_BAD_FRAMES 0) ∧ exec (.cbword p f) s = .next (s.bump .STK_BAD_FRAMES 0) ∧ exec (.report p f) s = .next (s.bump .STK_BAD_FRAMES 0)) ∧
    (s.dev.state = .STAGE → s.designated p = true → s.barodBad p f = false → bType f ≠ 5 ∨ (s.stackLink p).alive = false → exec (.barodScene p f) s = .next s) ∧
    (s.dev.state = .STAGE → s.designated p = true → s.barodBad p f = false → bType f ≠ 6 ∨ (s.stackLink p).alive = false → exec (.sceneAck p f) s = .next s) ∧
    (s.dev.state = .STAGE → s.designated p = true → s.barodBad p f = false → bType f ≠ 7 ∨ (s.stackLink p).alive = false → exec (.cbword p f) s = .next s) ∧
    (s.dev.state = .STAGE → s.designated p = true → s.barodBad p f = false → bType f ≠ 8 ∨ (s.stackLink p).alive = false → exec (.report p f) s = .next s)) ∧
  (∀ (s x w : State) (p : Fin 256) (f : List Byte) m, s.dev.state = .STAGE → s.designated p = true → s.barodBad p f = false → m = bMember f →
    x = s.setStackPeer m { s.stackPeer m with number := leAt f 12 2, state := leAt f 3 1 } → w = x.setStackLink p { x.stackLink p with heardAt := x.elapsed } →
    (bType f = 5 → (s.stackLink p).alive = true → exec (.barodScene p f) s = .next (if (w.stackRing (w.barodOctets m f)).leadActs then (w.stackRing (w.barodOctets m f)).sceneIn m (bBody f) else w.stackRing (w.barodOctets m f))) ∧
    (bType f = 6 → (s.stackLink p).alive = true → exec (.sceneAck p f) s = .next (w.stackRing (w.barodOctets m f))) ∧
    (bType f = 7 → (s.stackLink p).alive = true → exec (.cbword p f) s = .next (w.slotPut (8224 + 2 * m) (0x5000 + m) (BitVec.ofNat 32 (leAt (bBody f) 0 4)))) ∧
    (bType f = 8 → (s.stackLink p).alive = true → exec (.report p f) s = .next (w.stackRing (w.barodOctets m f)))) ∧
  (∀ (s : State) b log, log = s.fld Fld.STK_RX_CFG_LOG2_SLOTS 0 →
    (s.flagAt Fld.STK_RX_CFG_ENABLE 0 = false ∨ ringHeld s.stk.rxProd s.stk.rxCons (2 ^ log) = 2 ^ log → s.stackRing b = s.bump .STK_RX_LOST 0) ∧
    (s.flagAt Fld.STK_RX_CFG_ENABLE 0 = true → ringHeld s.stk.rxProd s.stk.rxCons (2 ^ log) ≠ 2 ^ log → s.pairsAwake 1 = false → s.stackRing b = (s.touchPairs 1).hold 38 (.ring b)) ∧
    (∀ w : State, s.flagAt Fld.STK_RX_CFG_ENABLE 0 = true → ringHeld s.stk.rxProd s.stk.rxCons (2 ^ log) ≠ 2 ^ log → s.pairsAwake 1 = true →
      w = { s with mem := { s.mem with hb0 := writeMem s.mem.hb0 (ringSlot (s.fld Fld.STK_RX_CFG_BASE 0) log s.stk.rxProd) b } } →
      s.stackRing b = w.setStk { s.stk with rxProd := (s.stk.rxProd + 1) % (2 * 2 ^ log) })) ∧
  (∀ (s : State) m b, s.stk.master ≠ some m ∨ s.masterVisible = false ∨ (s.stk.state ≠ .MEMBER ∧ s.stk.state ≠ .WINGS) → s.sceneIn m b = s) ∧
  (∀ (s : State) m b, s.stk.master = some m → s.masterVisible = true → s.stk.state = .MEMBER ∨ s.stk.state = .WINGS → leAt b 2 1 ≠ 1 →
    leAt b 0 2 ≠ (s.fld Fld.STK_SCENE_MSCENE 0 + 1) % 65536 ∨ s.stk.needFull = true → s.sceneIn m b = s.sceneFails (leAt b 0 2)) ∧
  (∀ (s a w : State) n, a = (s.doFlush 127).2 → w = a.setStk { a.stk with parts := [], sceneAt := none, fullArmed := false, needFull := true } → w.stk.master = none →
    (a.stk.state = .MEMBER → s.sceneFails n = w.enterWings 4) ∧ (a.stk.state ≠ .MEMBER → s.sceneFails n = w)) ∧
  (∀ (s u : State) r (v : BitVec 64), s.admitWrite r .STK_TX_CMD 0 = (true, u) →
    (u.sendBusy = true → exec (.sendScene r v) s = .next u ∧ exec (.sendSceneAck r v) s = .next u ∧ exec (.sendReport r v) s = .next u) ∧
    (u.sendBusy = false → u.pairsAwake 1 = true →
      exec (.sendScene r v) s = .next (u.stackSend (withField v 56 4 5)) ∧ exec (.sendSceneAck r v) s = .next (u.stackSend (withField v 56 4 6)) ∧ exec (.sendReport r v) s = .next (u.stackSend (withField v 56 4 8))) ∧
    (u.sendBusy = false → u.pairsAwake 1 = false →
      exec (.sendScene r v) s = .next ((u.touchPairs 1).hold 38 (.send (withField v 56 4 5))) ∧ exec (.sendSceneAck r v) s = .next ((u.touchPairs 1).hold 38 (.send (withField v 56 4 6))) ∧
      exec (.sendReport r v) s = .next ((u.touchPairs 1).hold 38 (.send (withField v 56 4 8))))) ∧
  (∀ (s : State) v, fieldOf v 0 30 % 64 ≠ 0 ∨ fieldOf v 32 14 = 0 ∨ 10168 < fieldOf v 32 14 ∨ s.dev.state ≠ .STAGE → s.stackSend v = s) ∧
  (∀ (s : State) v t, fieldOf v 56 4 = t → t = 5 ∨ t = 6 ∨ t = 8 → fieldOf v 0 30 % 64 = 0 → 0 < fieldOf v 32 14 → fieldOf v 32 14 ≤ 10168 → s.dev.state = .STAGE →
    s.stackSend v = ((List.range 8).filter (bit (fieldOf v 48 8))).foldl (fun w m => match w.linksTo m with
      | p :: _ => if t = 8 && (w.stackLink p).version < 2 then w else w.barodSend p t (readMem s.mem.hb0 (fieldOf v 0 30) (fieldOf v 32 14))
      | [] => w) s) ∧
  (∀ (s : State), (s.stk.sceneAt = none → exec .sceneArmDeadline s = .next s) ∧
    (∀ a, s.stk.sceneAt = some a → (s.now < a → exec .sceneArmDeadline s = .next s) ∧
      (a ≤ s.now → exec .sceneArmDeadline s = .next (s.sceneFails ((s.fld Fld.STK_SCENE_MSCENE 0 + 1) % 65536)))))

/-- Power domains: commands, enables, drains and wakes. A SLEEP command drains a domain that is ON and a WAKE command
wakes one that is ASLEEP and counts the wake; in any other state the command is refused with DOMAIN_STATE, and a
domain number of 40 or more does nothing. A write of the control register sets AUTO_SLEEP, sets IDLE_US unless it is
0, refuses ENABLE 0 of a bound domain with DOMAIN_BOUND, and otherwise moves the domain by the state table. A draining
domain whose counter reaches 0 goes OFF or ASLEEP; after 100 microseconds with work left it is ON again, refused and
counted; its idle timer starts a drain only of an idle domain with AUTO_SLEEP. A trigger wakes a sleeping domain and
cancels a drain. A waking domain that is up is ON with status OK, then does what waited for it. Rests on R77, R452,
R453, R454, R455, R456. -/
def Obligations.PowerDomains : Prop :=
  (∀ (s u : State) r (d : BitVec 6), s.admitWrite r .PWR_CMD 0 = (true, u) →
    (40 ≤ d.toNat → exec (.sleepCommand r d) s = .next u ∧ exec (.wakeCommand r d) s = .next u) ∧
    (d.toNat < 40 → (u.domain d.toNat).state = .ON →
      exec (.sleepCommand r d) s = .next (u.setDomain d.toNat { u.domain d.toNat with state := .DRAINING, toOff := false, since := u.elapsed })) ∧
    (d.toNat < 40 → (u.domain d.toNat).state ≠ .ON → exec (.sleepCommand r d) s = .next (u.domainStatus d.toNat 0xBB)) ∧
    (d.toNat < 40 → (u.domain d.toNat).state = .ASLEEP →
      exec (.wakeCommand r d) s = .next ((u.setDomain d.toNat { u.domain d.toNat with state := .WAKING }).bump .PWR_WAKES d.toNat)) ∧
    (d.toNat < 40 → (u.domain d.toNat).state ≠ .ASLEEP → exec (.wakeCommand r d) s = .next (u.domainStatus d.toNat 0xBB))) ∧
  (∀ (s u a : State) r (d : Fin 40) (v : BitVec 32), s.admitWrite r .PWR_DOMAIN_CTRL d.val = (true, u) →
    a = (if bits v.toNat 16 16 = 0 then u.setFld Fld.PWR_DOMAIN_CTRL_AUTO_SLEEP d.val (bits v.toNat 1 1)
      else (u.setFld Fld.PWR_DOMAIN_CTRL_AUTO_SLEEP d.val (bits v.toNat 1 1)).setFld Fld.PWR_DOMAIN_CTRL_IDLE_US d.val (bits v.toNat 16 16)) →
    (bits v.toNat 0 1 = 0 → a.domainBound d.val = true → exec (.domainEnableWrite r d v) s = .next (a.domainStatus d.val 0xB9)) ∧
    (bits v.toNat 0 1 = 0 → a.domainBound d.val = false → u.flagAt Fld.PWR_DOMAIN_CTRL_ENABLE d.val = true →
      exec (.domainEnableWrite r d v) s = .next ((a.setFld Fld.PWR_DOMAIN_CTRL_ENABLE d.val 0).domainOffRequest d.val)) ∧
    (bits v.toNat 0 1 = 0 → a.domainBound d.val = false → u.flagAt Fld.PWR_DOMAIN_CTRL_ENABLE d.val = false →
      exec (.domainEnableWrite r d v) s = .next (a.setFld Fld.PWR_DOMAIN_CTRL_ENABLE d.val 0)) ∧
    (bits v.toNat 0 1 = 1 → exec (.domainEnableWrite r d v) s = .next ((a.setFld Fld.PWR_DOMAIN_CTRL_ENABLE d.val 1).domainOnRequest d.val))) ∧
  (∀ (s : State) d,
    ((s.domain d).state = .ON → s.domainOffRequest d = s.setDomain d { s.domain d with state := .DRAINING, toOff := true, since := s.elapsed }) ∧
    ((s.domain d).state = .DRAINING → s.domainOffRequest d = s.setDomain d { s.domain d with toOff := true }) ∧
    ((s.domain d).state = .ASLEEP → s.domainOffRequest d = s.setDomain d { s.domain d with state := .OFF }) ∧
    ((s.domain d).state = .WAKING → s.domainOffRequest d = s.setDomain d { s.domain d with offPending := true }) ∧
    ((s.domain d).state = .OFF → s.domainOffRequest d = s ∧ s.domainOnRequest d = s.setDomain d { s.domain d with state := .WAKING }) ∧
    ((s.domain d).state ≠ .OFF → s.domainOnRequest d = s.setDomain d { s.domain d with toOff := false, offPending := false })) ∧
  (∀ (s : State) (d : Fin 40),
    ((s.domain d.val).state = .DRAINING → s.domainCount d.val = 0 → exec (.drainComplete d) s =
      .next ((s.setDomain d.val { state := if (s.domain d.val).toOff then .OFF else .ASLEEP }).domainStatus d.val 0) ∧ exec (.drainTimeout d) s = .next s) ∧
    ((s.domain d.val).state = .DRAINING → s.domainCount d.val ≠ 0 → exec (.drainComplete d) s = .next s ∧
      ((s.domain d.val).since + 100000 ≤ s.elapsed → exec (.drainTimeout d) s =
        .next (((s.setDomain d.val { state := .ON, since := s.elapsed }).domainStatus d.val 0xB8).bump .PWR_DRAIN_REFUSED d.val)) ∧
      (s.elapsed < (s.domain d.val).since + 100000 → exec (.drainTimeout d) s = .next s)) ∧
    ((s.domain d.val).state ≠ .DRAINING → exec (.drainComplete d) s = .next s ∧ exec (.drainTimeout d) s = .next s)) ∧
  (∀ (s : State) (d : Fin 40),
    (s.flagAt Fld.PWR_DOMAIN_CTRL_AUTO_SLEEP d.val = true → (s.domain d.val).state = .ON → s.domainCount d.val = 0 →
      (s.domain d.val).since + 1000 * s.fld Fld.PWR_DOMAIN_CTRL_IDLE_US d.val ≤ s.elapsed →
      exec (.idleTimerExpiry d) s = .next (s.setDomain d.val { s.domain d.val with state := .DRAINING, toOff := false, since := s.elapsed })) ∧
    (s.flagAt Fld.PWR_DOMAIN_CTRL_AUTO_SLEEP d.val = false ∨ (s.domain d.val).state ≠ .ON ∨ s.domainCount d.val ≠ 0 ∨
      s.elapsed < (s.domain d.val).since + 1000 * s.fld Fld.PWR_DOMAIN_CTRL_IDLE_US d.val → exec (.idleTimerExpiry d) s = .next s)) ∧
  (∀ (s : State) (d : Fin 40),
    ((s.domain d.val).state = .ASLEEP → exec (.wakeTrigger d) s = .next ((s.setDomain d.val { s.domain d.val with state := .WAKING }).bump .PWR_WAKES d.val)) ∧
    ((s.domain d.val).state = .DRAINING → exec (.wakeTrigger d) s = .next (((s.setDomain d.val
      { s.domain d.val with state := .ON, toOff := false, since := s.elapsed }).domainStatus d.val 0xBA).bump .PWR_DRAIN_CANCELLED d.val)) ∧
    ((s.domain d.val).state ≠ .ASLEEP → (s.domain d.val).state ≠ .DRAINING → exec (.wakeTrigger d) s = .next s)) ∧
  (∀ (s a : State) (d : Fin 40), a = (s.setDomain d.val { state := .ON, since := s.elapsed }).domainStatus d.val 0 →
    ((s.domain d.val).state = .WAKING → (s.domain d.val).offPending = false → exec (.wakeComplete d) s = .next (a.releaseWaiting d.val)) ∧
    ((s.domain d.val).state = .WAKING → (s.domain d.val).offPending = true → exec (.wakeComplete d) s = .next ((a.domainOffRequest d.val).releaseWaiting d.val)) ∧
    ((s.domain d.val).state ≠ .WAKING → exec (.wakeComplete d) s = .next (s.releaseWaiting d.val))) ∧
  (∀ (s : State) d, (s.domainSleeps d = true → s.releaseWaiting d = s) ∧
    (s.domainSleeps d = false → s.releaseWaiting d = (s.acc.waiting.filter (fun x => x.1 == d)).foldl (fun s x => s.waited x.2)
      { s with acc := { s.acc with waiting := s.acc.waiting.filter (fun x => x.1 != d) } }))

/-- Loss of the ghost-light clock, and locks of the PLLs. A PLL that has been started locks, and one that has not does
not; loss of a lock that was held clears it and curtains what the table of the PLLs names: the device for the core,
engine and HBM clock, the vault for its own, every port of an optical engine for a lane group; loss of a lock not held
does nothing. Loss of GHOST_CLK curtains the whole device from GHOST, LOADING and STAGE, latches GHOST_LOST, and does
nothing in OFF. That the HBM clock always reaches HB0, and so the whole device, is the reading of the model. Rests on
R449, R450, R459. -/
def Obligations.ClocksAndPlls : Prop :=
  (∀ (s : State) p, (s.pllStarted p = true → exec (.pllLock p) s = .next (s.setReg .GLT_CLOCK_STATUS 0 (BitVec.ofNat 64 (setBits (s.reg .GLT_CLOCK_STATUS 0).toNat (pllBit p) 1 1)))) ∧
    (s.pllStarted p = false → exec (.pllLock p) s = .next s)) ∧
  (∀ (s : State) p, s.locked p = false → exec (.pllLockLost p) s = .next s.settleAll) ∧
  (∀ (s : State), (s.locked .core = true → exec (.pllLockLost .core) s = .next ((s.setLock .core false).fatal 4 6 .none 0 0).settleAll) ∧
    (s.locked .engine = true → exec (.pllLockLost .engine) s = .next ((s.setLock .engine false).fatal 4 6 .none 0 0).settleAll) ∧
    (s.locked .hbm = true → exec (.pllLockLost .hbm) s = .next ((s.setLock .hbm false).fatal 4 6 .none 0 0).settleAll) ∧
    (s.locked .vault = true → exec (.pllLockLost .vault) s = .next (s.setLock .vault false).vaultError.settleAll) ∧
    (∀ e : Fin 16, s.locked (.lane e) = true → exec (.pllLockLost (.lane e)) s =
      .next ((List.range 16).foldl (fun s j => s.containedScope 6 .port (16 * e.val + j)) (s.setLock (.lane e) false)).settleAll)) ∧
  (∀ (s : State), (s.dev.state = .OFF → exec .ghostClkLost s = .next s.settleAll) ∧
    (s.dev.state = .LOADING ∨ s.dev.state = .STAGE ∨ s.dev.state = .CURTAIN → exec .ghostClkLost s =
      .next ((s.setFld Fld.GLT_CLOCK_STATUS_GHOST_LOST 0 1).fatal 3 15 .none 0 0).settleAll) ∧
    (∀ w : State, s.dev.state = .GHOST → w = (s.setFld Fld.GLT_CLOCK_STATUS_GHOST_LOST 0 1).fatal 3 15 .none 0 0 → exec .ghostClkLost s =
      .next ((({ w with dev := { w.dev with state := .CURTAIN, cause := .FAULT } } : State).setFld Fld.FLT_STATUS_DEVICE_CAUSE 0 3).curtainAlarm .device 0 none).settleAll))

/-- Error reports, verdicts of tests, and the record FIFO. An error is ignored in OFF. A FATAL error that is not a control
unit's curtains the device with its record; any other error of an element is counted by its class, its hit takes
effect, a CONTAINED one curtains the scope it names, and then: an error of no element or of a retired one is only
counted and recorded, one of an element under test is folded, one of a memory row tested within the last second is
counted as skipped and enters the history as a TRANSIENT verdict, and any other starts a test. A control unit's error
that is not fatal loses the unit to its partner. A verdict for an element not under test does nothing; a test that
passes is TRANSIENT unless it is the fourth of the element within 24 hours, a test that fails is LASTING; each is
counted, recorded and acted on. Popping removes the oldest record. Rests on R459, R460, R461, R462, R463, R464. -/
def Obligations.ErrorsAndVerdicts : Prop :=
  (∀ (s : State) e, s.dev.state = .OFF → exec (.errorReport e) s = .next s.settleAll) ∧
  (∀ (s : State) e, s.dev.state ≠ .OFF → e.cls = .fatal →
    exec (.errorReport e) s = .next (s.fatal (deviceCauseOf e.cause.toNat) e.cause.toNat e.kind e.index e.detail).settleAll) ∧
  (∀ (s : State) e u, s.dev.state ≠ .OFF → e.cls ≠ .fatal → e.kind = .controlUnit → u = e.index.toNat →
    (20 ≤ u ∨ (s.unit u).state = .RETIRED → exec (.errorReport e) s = .next ((s.countError e.cls).untested e).settleAll) ∧
    (u < 20 → (s.unit u).state ≠ .RETIRED → e.cls = .corrected ∨ s.pairExists (u / 2) = false ∨ s.running u = false ∨ s.isLead u = true →
      exec (.errorReport e) s = .next ((s.countError e.cls).unitFails u).settleAll) ∧
    (u < 20 → (s.unit u).state ≠ .RETIRED → e.cls = .contained → s.pairExists (u / 2) = true → s.running u = true → s.isLead u = false →
      exec (.errorReport e) s = .next (s.unitFails u).settleAll)) ∧
  (∀ (s a b : State) e t, s.dev.state ≠ .OFF → e.cls ≠ .fatal → e.kind ≠ .controlUnit → a = (s.countError e.cls).errorHit e →
    (∀ k i, e.cls = .contained → e.scope = some (k, i) → b = a.curtain k i faultBit (some (a.recordOf 1 0 e.kind e.index e.cause (some (k, i)) e.detail))) →
    (e.cls = .corrected ∨ e.scope = none → b = a) →
    t = ({ kind := e.kind, index := e.index, cls := BitVec.ofNat 8 (ErrClass.value e.cls), cause := e.cause, scope := e.scope } : Test) →
    (e.kind = .none ∨ b.isRetired e.kind e.index = true → exec (.errorReport e) s = .next (b.untested e).settleAll) ∧
    (e.kind ≠ .none → b.isRetired e.kind e.index = false → (b.underTest e.kind e.index).isSome = true → exec (.errorReport e) s = .next b.settleAll) ∧
    (e.kind ≠ .none → b.isRetired e.kind e.index = false → b.underTest e.kind e.index = none → b.recentRow e.kind e.index = true →
      exec (.errorReport e) s = .next ((b.bump .FLT_TEST_SKIPPED 0).testVerdict t true false true e.detail).settleAll) ∧
    (e.kind ≠ .none → b.isRetired e.kind e.index = false → b.underTest e.kind e.index = none → b.recentRow e.kind e.index = false →
      exec (.errorReport e) s = .next (b.testStarts t).settleAll)) ∧
  (∀ (s : State) e, (e.cls = .contained → s.untested e = s.writeRecord (s.recordOf 1 0 e.kind (if e.kind == .none then 0 else e.index) e.cause e.scope e.detail)) ∧
    (e.cls ≠ .contained → s.untested e = s)) ∧
  (∀ (s : State) c, s.countError c = s.bump (match c with | .corrected => .FLT_CORRECTED | .contained => .FLT_CONTAINED | .fatal => .FLT_FATAL) 0) ∧
  (∀ (s : State) i p l d, exec (.selfTestVerdict .controlUnit i p l d) s = .next (s.fenceEnds i.toNat (!p)).settleAll ∧
    exec (.selfTestVerdict .registerGroup i p l d) s = .next (s.scrubDone (i.toNat / 4096)).settleAll) ∧
  (∀ (s a : State) i p l d r, r = s.recordOf 1 2 .entropy i 9 none d → a = s.selfTestEnds .entropy i p l d →
    ((s.underTest .entropy i).isSome = true → a.isRetired .entropy i = true → exec (.selfTestVerdict .entropy i p l d) s = .next (a.alarm 7 r).settleAll) ∧
    (s.underTest .entropy i = none ∨ a.isRetired .entropy i = false → exec (.selfTestVerdict .entropy i p l d) s = .next a.settleAll)) ∧
  (∀ (s : State) k i p l d, k ≠ .controlUnit → k ≠ .registerGroup → k ≠ .entropy → exec (.selfTestVerdict k i p l d) s = .next (s.selfTestEnds k i p l d).settleAll) ∧
  (∀ (s : State) k i p l d, (s.underTest k i = none → s.selfTestEnds k i p l d = s) ∧
    (∀ (w : State) t, s.underTest k i = some t → w = { s with flt := { s.flt with tests := s.flt.tests.filter (fun x => !(x.kind == k && x.index == i)) } } →
      s.selfTestEnds k i p l d = w.testVerdict t p true l d)) ∧
  (∀ (s : State) t p z l d ts q, ts = s.transients t.kind t.index → q = (if t.kind == .d2dLane then s.spareFor t.index.toNat else l) →
    (p = true → ts.length < 3 → s.testVerdict t p z l d = (s.remember t.kind t.index (s.now :: ts) z).giveVerdict t false q d) ∧
    (p = false ∨ 3 ≤ ts.length → s.testVerdict t p z l d = (s.remember t.kind t.index ts z).giveVerdict t true q d)) ∧
  (∀ (s w : State) t l d, w = s.bump .FLT_TRANSIENT 0 → s.giveVerdict t false l d =
    (w.writeRecord (w.recordOf t.cls.toNat 1 t.kind t.index t.cause none d)).backToService t.kind t.index.toNat) ∧
  (∀ (s : State) r k i, (s.isRetired k i = true → s.vlt.store.retired.length < 2048 →
      s.retire r k i = s.writeStore (.retired s.vlt.store.retired.length) (fun t => { t with retired := t.retired ++ [r] })) ∧
    (s.isRetired k i = true → 2048 ≤ s.vlt.store.retired.length → s.retire r k i = s.plainAlarm 6 0 18 0 0)) ∧
  (∀ (s w : State) r, w = s.nextSeq →
    (w.flt.fifo.length < 256 → s.writeRecord r = ({ w with flt := { w.flt with fifo := w.flt.fifo ++ [r] } } : State).cpcEvent 0) ∧
    (256 ≤ w.flt.fifo.length → s.writeRecord r = (w.bump .FLT_RECORD_LOST 0).plainAlarm 9 0 19 0 0)) ∧
  (∀ (s u : State) r, s.admitWrite r .FLT_RECORD_POP 0 = (true, u) →
    exec (.fltRecordPop r) s = .next { u with flt := { u.flt with fifo := u.flt.fifo.tail } })

/-- Curtains of scopes and of the device. Setting HOLD gives the scope a cause: its cause bit is set, and if it was not
curtained its interfaces take their curtain states and a CURTAIN alarm is raised. Clearing HOLD removes that cause,
and where none is left the voted fields are rewritten and the scope leaves its curtain. EXIT is refused with
CAUSE_HOLDS while a retired element holds the scope and with ENCLOSED while an enclosing scope is curtained; accepted,
it rewrites the voted fields, clears FAULT, and lifts the curtain where no cause is left. A scope without a register
takes neither. The device command curtains the whole device, which only happens in LOADING and STAGE and holds the
host links in Detect before the CPCs have started. Rests on R465, R466, R467, R468, R471. -/
def Obligations.CurtainScopes : Prop :=
  (∀ (s : State) r k i b, heldScope k i = false → exec (.scopeHoldWrite r k i b) s = .next s ∧ exec (.exitScope r k i) s = .next s) ∧
  (∀ (s u : State) r k i reg, heldScope k i = true → scopeReg k = some reg → s.admitWrite r reg i = (true, u) →
    exec (.scopeHoldWrite r k i true) s = .next (u.curtain k i holdBit none).settleAll ∧
    (∀ c, c = u.clearCause reg i holdBit →
      (u.curtained k i = true → c.curtained k i = false → exec (.scopeHoldWrite r k i false) s = .next ((c.rewriteVoted k i).lift k i).settleAll) ∧
      (u.curtained k i = false ∨ c.curtained k i = true → exec (.scopeHoldWrite r k i false) s = .next c.settleAll)) ∧
    (u.causeHolds k i = true → exec (.exitScope r k i) s = .next (u.scopeStatus reg i 0x98).settleAll) ∧
    (u.causeHolds k i = false → u.enclosed k i = true → exec (.exitScope r k i) s = .next (u.scopeStatus reg i 0x99).settleAll) ∧
    (∀ c, u.causeHolds k i = false → u.enclosed k i = false → c = (u.rewriteVoted k i).clearCause reg i faultBit →
      (c.curtained k i = true → exec (.exitScope r k i) s = .next (c.scopeStatus reg i 0).settleAll) ∧
      (c.curtained k i = false → exec (.exitScope r k i) s = .next ((c.lift k i).scopeStatus reg i 0).settleAll))) ∧
  (∀ (s w : State) k i b x reg, heldScope k i = true → scopeReg k = some reg → w = s.setReg reg i (BitVec.ofNat 64 (setBits (s.reg reg i).toNat b 1 1)) →
    (s.curtained k i = true → s.curtain k i b x = w) ∧
    (s.curtained k i = false → s.curtain k i b x = ((w.fall k i).settleAll).curtainAlarm k i x)) ∧
  (∀ (s u : State) r, s.admitWrite r .FLT_DEVICE_CTRL 0 = (true, u) → exec (.deviceCurtainWrite r) s = .next (u.deviceCurtain .FAULT 7 none).settleAll) ∧
  (∀ (s : State) y n x, s.dev.state ≠ .LOADING → s.dev.state ≠ .STAGE → s.deviceCurtain y n x = s) ∧
  (∀ (s a b : State) y n x, s.dev.state = .LOADING ∨ s.dev.state = .STAGE → a = ((s.fall .device 0).settleAll).setFld Fld.FLT_STATUS_DEVICE_CAUSE 0 n →
    b = ({ a with dev := { a.dev with state := .CURTAIN, cause := y, step := .idle } } : State).curtainAlarm .device 0 x →
    (b.dev.cpcStarted = true → s.deviceCurtain y n x = b) ∧ (b.dev.cpcStarted = false → s.deviceCurtain y n x = b.holdDetect)) ∧
  (∀ (s : State), (∀ i, s.fall .cipher i = s.engineFails i) ∧ (∀ i, s.fall .slice i = (s.ownedContexts i).foldl (fun s c => s.lockCtx c) (s.curtainSlice i)) ∧
    (∀ i, s.fall .port i = (s.portDown i).discardLanding i) ∧ (∀ i, s.fall .engine i = (List.range 16).foldl (fun s j => s.fall .port (16 * i + j)) s))

/-- Supplies and temperature. A rail of group 1 out of range takes the device to OFF; one of another group sets its
TRIPPED bit, clears its IN_RANGE bit and asserts WARM_N internally; neither does anything in OFF or GHOST. A reading
of a junction sensor updates the highest reading, its sensor and HOT, which is set above 105 degrees; a reading of 115
or more outside GHOST sets TRIPPED and asserts WARM_N internally; in OFF nothing is read. Asserting WARM_N internally
is the warm reset. Rests on R473, R477, R480. -/
def Obligations.SuppliesAndHeat : Prop :=
  (∀ (s : State) (n : Fin 12), s.dev.state = .OFF ∨ s.dev.state = .GHOST → exec (.supplyTrip n) s = .next s) ∧
  (∀ (s : State) (n : Fin 12), s.dev.state ≠ .OFF → s.dev.state ≠ .GHOST → (n.val = 3 ∨ n.val = 11 → exec (.supplyTrip n) s = .next s.powerOff) ∧
    (∀ w : State, n.val ≠ 3 → n.val ≠ 11 →
      w = (s.setFld Fld.GLT_SUPPLY_STATUS_IN_RANGE 0 (setBits (s.fld Fld.GLT_SUPPLY_STATUS_IN_RANGE 0) n.val 1 0)).setFld
        Fld.GLT_SUPPLY_STATUS_TRIPPED 0 (setBits (s.fld Fld.GLT_SUPPLY_STATUS_TRIPPED 0) n.val 1 1) →
      exec (.supplyTrip n) s = .next ({ w with pins := { w.pins with internalWarm := true } } : State).warmReset)) ∧
  (∀ (s : State) (m : Fin 24) t, s.dev.state = .OFF → exec (.thermalTrip m t) s = .next s) ∧
  (∀ (s w : State) (m : Fin 24) (t : BitVec 8), s.dev.state ≠ .OFF →
    w = ((s.setFld Fld.GLT_THERMAL_HIGHEST 0 t.toNat).setFld Fld.GLT_THERMAL_SENSOR 0 m.val).setFld Fld.GLT_THERMAL_HOT 0 (if 105 < t.toInt then 1 else 0) →
    (s.dev.state = .GHOST ∨ t.toInt < 115 → exec (.thermalTrip m t) s = .next w) ∧
    (∀ a : State, s.dev.state ≠ .GHOST → 115 ≤ t.toInt → a = w.setFld Fld.GLT_THERMAL_TRIPPED 0 1 →
      exec (.thermalTrip m t) s = .next ({ a with pins := { a.pins with internalWarm := true } } : State).warmReset))

/-- The slot the device chooses. Of the slots whose header and signature block pass and that are not marked as failed, the
step that reads the headers chooses the one with the higher IMAGE_VERSION, and slot A where both versions are equal.
Formalises R42. -/
def Obligations.SlotChoice : Prop :=
  ∀ (s : State) (ea eb va vb : Bool), s.atStep .headers = true → va = (decide (s.slotReason false ea = 0) && !s.dev.failedA) →
    vb = (decide (s.slotReason true eb = 0) && !s.dev.failedB) → va = true ∨ vb = true →
    ∃ t, exec (.slotHeadersRead ea eb) s = .next t ∧ t.dev.state = .LOADING ∧ t.dev.step = .early ∧
      (va = true → vb = false → t.dev.slotB = false) ∧ (va = false → vb = true → t.dev.slotB = true) ∧
      (va = true → vb = true → imgVersion (s.slotHeader true) ≤ imgVersion (s.slotHeader false) → t.dev.slotB = false) ∧
      (va = true → vb = true → imgVersion (s.slotHeader false) < imgVersion (s.slotHeader true) → t.dev.slotB = true)

/-- Reserved addresses of the control map. A read of a reserved address by a requester of the control map answers zero, a
write to one is dropped, and each is recorded as UNMAPPED, a 64-bit access as one error: the state changes by the
record alone, and by the answer of the read. Formalises R63. -/
def Obligations.ReservedAddresses : Prop :=
  (∀ (s : State) r (a : BitVec 32), s.mapAnswers = true → (∀ h l, r ≠ .pf0 h l) → (∀ n, r ≠ .slice n) → s.bufferOf r = none → s.spotOf r a.toNat = .nothing →
    (a.toNat % 4 = 0 → exec (.halfLatchRead r a) s = .next ((s.badAccess r a.toNat 1 false).emit (.value r.code a.toNat 0))) ∧
    (∀ n, a.toNat % 8 = 0 → s.spotOf r (a.toNat + 4) = .nothing → exec (.counterReadClear r a true n) s = .next ((s.badAccess r a.toNat 1 false).emit (.value r.code a.toNat 0)))) ∧
  (∀ (s : State) r (a : BitVec 32) v, s.mapAnswers = true → (∀ h l, r ≠ .pf0 h l) → (∀ n, r ≠ .slice n) → s.bufferOf r = none → s.spotOf r a.toNat = .nothing →
    (a.toNat % 4 = 0 → exec (.registerWrite r a .b4 v) s = .next (s.badAccess r a.toNat 1 true)) ∧
    (a.toNat % 8 = 0 → s.spotOf r (a.toNat + 4) = .nothing → exec (.registerWrite r a .b8 v) s = .next (s.badAccess r a.toNat 1 true))) ∧
  (∀ (s : State) r n c w, s.flagAt Fld.SYS_BAD_ACCESS_VALID 0 = true → s.badAccess r n c w = s.bump .SYS_BAD_ACCESS_COUNT 0)

/-- The idle timer of a domain. With AUTO_SLEEP 1 a domain that has been ON with counter 0 for IDLE_US microseconds enters
DRAINING, and one ON with work restarts its timer at the tick; the power-down then completes and the domain is ASLEEP,
or a transfer that arrives first returns it to ON and is counted. Formalises R455. -/
def Obligations.IdleTimers : Prop :=
  (∀ (s : State) (d : Fin 40), s.flagAt Fld.PWR_DOMAIN_CTRL_AUTO_SLEEP d.val = true → (s.domain d.val).state = .ON → s.domainCount d.val = 0 →
    (s.domain d.val).since + 1000 * s.fld Fld.PWR_DOMAIN_CTRL_IDLE_US d.val ≤ s.elapsed →
    ∃ t, exec (.idleTimerExpiry d) s = .next t ∧ (t.domain d.val).state = .DRAINING ∧ (t.domain d.val).toOff = false ∧
      (∃ w, exec (.drainComplete d) t = .next w ∧ (w.domain d.val).state = .ASLEEP) ∧
      (∃ w, exec (.wakeTrigger d) t = .next w ∧ (w.domain d.val).state = .ON)) ∧
  (∀ (s : State) (d : Fin 40), s.flagAt Fld.PWR_DOMAIN_CTRL_AUTO_SLEEP d.val = false ∨ (s.domain d.val).state ≠ .ON ∨ s.domainCount d.val ≠ 0 ∨
    s.elapsed < (s.domain d.val).since + 1000 * s.fld Fld.PWR_DOMAIN_CTRL_IDLE_US d.val → exec (.idleTimerExpiry d) s = .next s) ∧
  (∀ (s : State), s.idleTick = ((List.range 40).filter (fun d => (s.domain d).state == .ON && s.domainCount d != 0)).foldl
    (fun s d => s.setDomain d { s.domain d with since := s.elapsed }) s)
end

