-- ==== Sys2Proof/Laws/Bytes.lean ====
section
/-! SUPPORT. Byte strings: a number laid out little-endian and read back (R4). -/

namespace Sys2Proof.Machine

@[simp] theorem toLE_length (n v : Nat) : (toLE n v).length = n := by
  induction n generalizing v with
  | zero => rfl
  | succ n ih => simp only [toLE, List.length_cons, ih]

theorem leNat_toLE (n v : Nat) : leNat (toLE n v) = v % 256 ^ n := by
  induction n generalizing v with
  | zero => simp only [toLE, leNat, Nat.pow_zero, Nat.mod_one]
  | succ n ih =>
    have h : 256 ^ (n + 1) = 256 * 256 ^ n := by rw [Nat.pow_succ, Nat.mul_comm]
    have hb : (BitVec.ofNat 8 v).toNat = v % 256 := BitVec.toNat_ofNat v 8
    rw [toLE, leNat, ih, hb, h, Nat.mod_mul]

theorem toLE_append (m n v : Nat) : toLE (m + n) v = toLE m v ++ toLE n (v / 256 ^ m) := by
  induction m generalizing v with
  | zero => simp only [Nat.zero_add, toLE, Nat.pow_zero, Nat.div_one, List.nil_append]
  | succ m ih =>
    have h : v / 256 / 256 ^ m = v / 256 ^ (m + 1) := by rw [Nat.div_div_eq_div_mul, Nat.pow_succ, Nat.mul_comm]
    rw [Nat.succ_add, toLE, toLE, ih, h, List.cons_append]

/-- The bytes at an offset, where they lie in the second of two strings. -/
theorem slice_append_right (xs ys : List Byte) (n : Nat) : slice (xs ++ ys) xs.length n = slice ys 0 n := by
  simp only [slice, List.drop_left, List.drop_zero]

theorem slice_prefix (xs ys : List Byte) : slice (xs ++ ys) 0 xs.length = xs := by
  simp only [slice, List.drop_zero, List.take_left, Nat.sub_self, List.replicate_zero, List.append_nil]

theorem slice_whole (xs : List Byte) : slice xs 0 xs.length = xs := by
  simp only [slice, List.drop_zero, List.take_length, Nat.sub_self, List.replicate_zero, List.append_nil]

/-- The bytes of the middle one of three strings. -/
theorem slice_middle {o n : Nat} (xs ys zs : List Byte) (h1 : xs.length = o) (h2 : ys.length = n) : slice (xs ++ ys ++ zs) o n = ys := by
  subst h1 h2
  rw [List.append_assoc, slice_append_right, slice_prefix]

/-- A number laid out in the middle of a byte string reads back. -/
theorem leAt_middle {o n : Nat} (xs zs : List Byte) (v : Nat) (h : xs.length = o) : leAt (xs ++ toLE n v ++ zs) o n = v % 256 ^ n := by
  unfold leAt; rw [slice_middle _ _ _ h (toLE_length n v), leNat_toLE]

theorem leAt_first {n : Nat} (zs : List Byte) (v : Nat) : leAt (toLE n v ++ zs) 0 n = v % 256 ^ n := leAt_middle [] zs v rfl
theorem leAt_last {o n : Nat} (xs : List Byte) (v : Nat) (h : xs.length = o) : leAt (xs ++ toLE n v) o n = v % 256 ^ n := by
  have := leAt_middle (n := n) xs [] v h
  rwa [List.append_nil] at this

/-- Numbers of four bytes each laid out one after another read back. -/
theorem leAt_flatMap (xs : List Nat) (h : ∀ x ∈ xs, x < 2 ^ 32) :
    (List.range ((xs.flatMap (toLE 4)).length / 4)).map (fun i => leAt (xs.flatMap (toLE 4)) (4 * i) 4) = xs := by
  have hl : ∀ ys : List Nat, (ys.flatMap (toLE 4)).length = 4 * ys.length := by
    intro ys
    induction ys with
    | nil => rfl
    | cons y ys ih => rw [List.flatMap_cons, List.length_append, toLE_length, ih, List.length_cons]; omega
  rw [hl, Nat.mul_div_cancel_left _ (by decide : 0 < 4)]
  refine List.ext_getElem (by simp) (fun i h1 h2 => ?_)
  rw [List.getElem_map, List.getElem_range]
  have e : xs = xs.take i ++ xs[i] :: xs.drop (i + 1) := by rw [← List.drop_eq_getElem_cons h2, List.take_append_drop]
  have el : ((xs.take i).flatMap (toLE 4)).length = 4 * i := by rw [hl, List.length_take, Nat.min_eq_left (Nat.le_of_lt h2)]
  have ef : xs.flatMap (toLE 4) = (xs.take i).flatMap (toLE 4) ++ toLE 4 xs[i] ++ (xs.drop (i + 1)).flatMap (toLE 4) := by
    conv_lhs => rw [e]
    rw [List.flatMap_append, List.flatMap_cons, List.append_assoc]
  rw [ef, leAt_middle _ _ _ el]
  exact Nat.mod_eq_of_lt (h _ (List.getElem_mem h2))

end Sys2Proof.Machine
end

