-- ==== Sys2Proof/Laws/Keeps.lean ====
section
/-! SUPPORT. What every function of the machine keeps: the relation between a state and a later one, and its general lemmas. -/

namespace Sys2Proof.Machine

/-- t comes after r: the same commands wait, outputs and drawn free values have only been added, no retirement record has gone,
the minimum image version has not fallen, and, where p holds, the stores are canonical and K_FLOOR is legal. -/
structure Keeps (p : Prop) (r t : State) : Prop where
  queue : t.pending = r.pending
  out : r.out <+: t.out
  draws : r.draws ≤ t.draws
  retired : r.vlt.store.retired <+: t.vlt.store.retired
  minimum : r.vlt.store.minVersion.toNat ≤ t.vlt.store.minVersion.toNat
  canon : p → t.canonical = true
  floor : p → t.floorLegal = true

theorem Keeps.refl {p : Prop} {r : State} (hc : p → r.canonical = true) (hf : p → r.floorLegal = true) : Keeps p r r :=
  ⟨rfl, List.prefix_rfl, Nat.le_refl _, List.prefix_rfl, Nat.le_refl _, hc, hf⟩

theorem Keeps.trans {p : Prop} {r s t : State} (h : Keeps p r s) (k : Keeps p s t) : Keeps p r t :=
  ⟨k.queue.trans h.queue, h.out.trans k.out, h.draws.trans k.draws, h.retired.trans k.retired, h.minimum.trans k.minimum, k.canon, k.floor⟩

/-- A state that differs from one already reached only in what the relation does not speak of. -/
theorem Keeps.same {p : Prop} {r s t : State} (e1 : t.pending = s.pending) (h : Keeps p r s) (e2 : t.regs = s.regs) (e3 : t.ctrs = s.ctrs)
    (e4 : t.out = s.out) (e5 : t.draws = s.draws) (e6 : t.flashA = s.flashA) (e7 : t.flashB = s.flashB)
    (e8 : t.rdn.cpcBody = s.rdn.cpcBody) (e9 : t.trp.body = s.trp.body) (e10 : t.vlt.store = s.vlt.store) (e11 : t.mem = s.mem) : Keeps p r t := by
  have hb : t.sramByte = s.sramByte := by funext a; simp only [State.sramByte, e8]
  obtain ⟨h1, h2, h3, h4, h5, h6, h7⟩ := h
  refine ⟨by rw [e1, h1], by rw [e4]; exact h2, by rw [e5]; exact h3, by rw [e10]; exact h4, by rw [e10]; exact h5, fun hp => ?_, fun hp => ?_⟩
  · have := h6 hp
    simp only [State.canonical] at this ⊢
    rw [e2, e3, e6, e7, e9, e11, hb]; exact this
  · have := h7 hp
    simp only [State.floorLegal] at this ⊢
    rw [e10]; exact this

/-- The same for a record update that names none of the fields the relation speaks of. -/
theorem keeps_mk {p : Prop} {r s : State} (h : Keeps p r s) {clk : Clock} {pins : Pins} {dev : Dev} {acc : AccessState} {vote : Vote}
    {rdn : Rdn} {pwr : Pwr} {flt : Flt} {prt : Prt} {mgt : Mgt} {scn : Scenes} {tbl : Tables} {swc : Swc} {tms : Tms} {ofl : Ofl} {cph : Cph}
    {vlt : Vlt} {hep : Hep} {slc : Slc} {qrg : Qrg} {sto : Sto} {bmv : Bmv} {trp : Trp} {cbd : Cbd} {stk : Stk}
    (e8 : rdn.cpcBody = s.rdn.cpcBody) (e9 : trp.body = s.trp.body) (e10 : vlt.store = s.vlt.store) :
    Keeps p r ⟨s.pending, s.regs, s.ctrs, s.out, s.draws, clk, pins, dev, s.flashA, s.flashB, acc, vote, rdn, pwr, flt, prt, mgt, scn, tbl,
      swc, tms, ofl, cph, vlt, hep, slc, qrg, sto, bmv, trp, cbd, stk, s.mem⟩ :=
  Keeps.same (s := s) rfl h rfl rfl rfl rfl rfl rfl e8 e9 e10 rfl

/-- The canonical form, one store at a time. -/
theorem canonical_iff (s : State) : s.canonical = true ↔ SMap.wf regDefault s.regs = true ∧ SMap.wf (fun _ => 0) s.ctrs = true ∧
    SMap.wf flashDefault s.flashA.data = true ∧ SMap.wf flashDefault s.flashB.data = true ∧ SMap.wf byteDefault s.mem.hb0 = true ∧
    SMap.wf byteDefault s.mem.hb1 = true ∧ SMap.wf s.sramByte s.mem.sram = true ∧ SMap.wf byteDefault s.mem.vring = true ∧
    SMap.wf byteDefault s.mem.peer = true ∧ SMap.wf byteDefault s.mem.window = true ∧ SMap.wf (dmemByte s.trp.body) s.mem.dmem = true ∧
    SMap.wf (sharedByte s.trp.body) s.mem.shared = true := by
  simp only [State.canonical, Bool.and_eq_true, and_assoc]

theorem sramByte_congr {s t : State} (h : t.rdn.cpcBody = s.rdn.cpcBody) : t.sramByte = s.sramByte := by
  funext a; simp only [State.sramByte, h]

/-- A state of which only stores changed, each still canonical. -/
theorem Keeps.stores {p : Prop} {r s t : State} (h : Keeps p r s) (e1 : t.pending = s.pending) (e2 : t.out = s.out) (e3 : t.draws = s.draws)
    (e4 : t.vlt.store = s.vlt.store) (hc : s.canonical = true → t.canonical = true) : Keeps p r t := by
  obtain ⟨h1, h2, h3, h4, h5, h6, h7⟩ := h
  refine ⟨by rw [e1, h1], by rw [e2]; exact h2, by rw [e3]; exact h3, by rw [e4]; exact h4, by rw [e4]; exact h5, fun hp => hc (h6 hp), fun hp => ?_⟩
  have := h7 hp
  simp only [State.floorLegal] at this ⊢
  rw [e4]; exact this

theorem keeps_regs {p : Prop} {r s : State} (h : Keeps p r s) {m : SMap Word}
    (hm : SMap.wf regDefault s.regs = true → SMap.wf regDefault m = true) : Keeps p r { s with regs := m } := by
  refine h.stores rfl rfl rfl rfl (fun hc => ?_)
  rw [canonical_iff] at hc ⊢
  rw [sramByte_congr (s := s) (t := { s with regs := m }) rfl]
  exact ⟨hm hc.1, hc.2⟩

theorem keeps_ctrs {p : Prop} {r s : State} (h : Keeps p r s) {m : SMap Word}
    (hm : SMap.wf (fun _ => 0) s.ctrs = true → SMap.wf (fun _ => 0) m = true) : Keeps p r { s with ctrs := m } := by
  refine h.stores rfl rfl rfl rfl (fun hc => ?_)
  rw [canonical_iff] at hc ⊢
  rw [sramByte_congr (s := s) (t := { s with ctrs := m }) rfl]
  exact ⟨hc.1, hm hc.2.1, hc.2.2⟩

/-- A state of which only the memories changed. -/
theorem keeps_mem {p : Prop} {r s : State} (h : Keeps p r s) {m : Mem}
    (h0 : SMap.wf byteDefault s.mem.hb0 = true → SMap.wf byteDefault m.hb0 = true)
    (h1 : SMap.wf byteDefault s.mem.hb1 = true → SMap.wf byteDefault m.hb1 = true)
    (h2 : SMap.wf s.sramByte s.mem.sram = true → SMap.wf s.sramByte m.sram = true)
    (h3 : SMap.wf byteDefault s.mem.vring = true → SMap.wf byteDefault m.vring = true)
    (h4 : SMap.wf byteDefault s.mem.peer = true → SMap.wf byteDefault m.peer = true)
    (h5 : SMap.wf byteDefault s.mem.window = true → SMap.wf byteDefault m.window = true)
    (h6 : SMap.wf (dmemByte s.trp.body) s.mem.dmem = true → SMap.wf (dmemByte s.trp.body) m.dmem = true)
    (h7 : SMap.wf (sharedByte s.trp.body) s.mem.shared = true → SMap.wf (sharedByte s.trp.body) m.shared = true) :
    Keeps p r { s with mem := m } := by
  refine h.stores rfl rfl rfl rfl (fun hc => ?_)
  rw [canonical_iff] at hc ⊢
  rw [sramByte_congr (s := s) (t := { s with mem := m }) rfl]
  obtain ⟨c1, c2, c3, c4, c5, c6, c7, c8, c9, c10, c11, c12⟩ := hc
  exact ⟨c1, c2, c3, c4, h0 c5, h1 c6, h2 c7, h3 c8, h4 c9, h5 c10, h6 c11, h7 c12⟩

/-- A state of which only the vaults changed: their store only grows. -/
theorem keeps_vlt {p : Prop} {r s : State} (h : Keeps p r s) {v : Vlt} (h1 : s.vlt.store.retired <+: v.store.retired)
    (h2 : s.vlt.store.minVersion.toNat ≤ v.store.minVersion.toNat)
    (h3 : s.floorLegal = true → State.floorLegal { s with vlt := v } = true) : Keeps p r { s with vlt := v } := by
  obtain ⟨g1, g2, g3, g4, g5, g6, g7⟩ := h
  refine ⟨g1, g2, g3, g4.trans h1, g5.trans h2, fun hp => ?_, fun hp => h3 (g7 hp)⟩
  have hc := g6 hp
  rw [canonical_iff] at hc ⊢
  rw [sramByte_congr (s := s) (t := { s with vlt := v }) rfl]
  exact hc

/-- A state of which only the outputs grew. -/
theorem keeps_out {p : Prop} {r s : State} (h : Keeps p r s) {o : List Out} (ho : s.out <+: o) : Keeps p r { s with out := o } := by
  obtain ⟨h1, h2, h3, h4, h5, h6, h7⟩ := h
  exact ⟨h1, h2.trans ho, h3, h4, h5, h6, h7⟩

/-- A state reached by taking an option's value. -/
theorem keeps_some {p : Prop} {r t : State} {o : Option State} (h : o = some t) (k : ∀ u, o = some u → Keeps p r u) : Keeps p r t := k t h

theorem foldl_keeps {α : Type} {p : Prop} {r : State} {g : State → α → State} {l : List α} {s : State} (hs : Keeps p r s)
    (h : ∀ t a, Keeps p r t → Keeps p r (g t a)) : Keeps p r (l.foldl g s) := by
  induction l generalizing s with
  | nil => exact hs
  | cons a l ih => exact ih (h _ _ hs)

theorem foldl_snd_keeps {α β : Type} {p : Prop} {r : State} {g : β × State → α → β × State} {l : List α} {s : β × State}
    (hs : Keeps p r s.2) (h : ∀ t a, Keeps p r t.2 → Keeps p r (g t a).2) : Keeps p r (l.foldl g s).2 := by
  induction l generalizing s with
  | nil => exact hs
  | cons a l ih => exact ih (h _ _ hs)

theorem foldl_fst_keeps {α β : Type} {p : Prop} {r : State} {g : State × β → α → State × β} {l : List α} {s : State × β}
    (hs : Keeps p r s.1) (h : ∀ t a, Keeps p r t.1 → Keeps p r (g t a).1) : Keeps p r (l.foldl g s).1 := by
  induction l generalizing s with
  | nil => exact hs
  | cons a l ih => exact ih (h _ _ hs)

theorem keeps_pair {α : Type} {p : Prop} {r s : State} {x : α × State} {a : α} (h : x = (a, s)) (k : Keeps p r x.2) : Keeps p r s := by
  subst h; exact k

theorem keeps_triple {α β : Type} {p : Prop} {r s : State} {x : α × β × State} {a : α} {b : β} (h : x = (a, b, s)) (k : Keeps p r x.2.2) :
    Keeps p r s := by
  subst h; exact k

theorem keeps_quad {α β γ : Type} {p : Prop} {r s : State} {x : α × β × γ × State} {a : α} {b : β} {c : γ} (h : x = (a, b, c, s))
    (k : Keeps p r x.2.2.2) : Keeps p r s := by
  subst h; exact k

/-! ## Sparse stores in their canonical form -/

section SMaps
variable {β : Type} [DecidableEq β] {d : Nat → β}

omit [DecidableEq β] in
theorem SMap.above_put {k b : Nat} {v : β} {m : SMap β} (h : SMap.above b m = true) (hb : b < k) : SMap.above b (SMap.put k v m) = true := by
  cases m with
  | nil => simpa [SMap.put, SMap.above] using hb
  | cons x m =>
    obtain ⟨j, w⟩ := x
    simp only [SMap.put]; split
    · simpa [SMap.above] using hb
    · split <;> simpa [SMap.above] using by first | exact hb | (simpa [SMap.above] using h)

theorem SMap.wf_put {k : Nat} {v : β} {m : SMap β} (h : SMap.wf d m = true) (hv : v ≠ d k) : SMap.wf d (SMap.put k v m) = true := by
  induction m with
  | nil => simp [SMap.put, SMap.wf, SMap.above, hv]
  | cons x m ih =>
    obtain ⟨j, w⟩ := x
    simp only [SMap.wf, Bool.and_eq_true, decide_eq_true_eq] at h
    simp only [SMap.put]
    split
    · rename_i e; subst e; simp [SMap.wf, h.1.1, h.2, hv]
    · split
      · rename_i hlt
        simp only [SMap.wf, Bool.and_eq_true, decide_eq_true_eq]
        exact ⟨⟨by simpa [SMap.above] using hlt, hv⟩, h⟩
      · rename_i h1 h2
        simp only [SMap.wf, Bool.and_eq_true, decide_eq_true_eq]
        exact ⟨⟨SMap.above_put h.1.1 (by omega), h.1.2⟩, ih h.2⟩

omit [DecidableEq β] in
theorem SMap.above_mono {a b : Nat} {m : SMap β} (h : SMap.above b m = true) (hab : a ≤ b) : SMap.above a m = true := by
  cases m with
  | nil => rfl
  | cons x m => simp only [SMap.above, decide_eq_true_eq] at h ⊢; omega

theorem SMap.wf_tail_above {j : Nat} {v : β} {m : SMap β} (h : SMap.wf d ((j, v) :: m) = true) : SMap.above j m = true := by
  simp only [SMap.wf, Bool.and_eq_true] at h; exact h.1.1

theorem SMap.above_drop {k b : Nat} {m : SMap β} (hw : SMap.wf d m = true) (h : SMap.above b m = true) :
    SMap.above b (SMap.drop k m) = true := by
  cases m with
  | nil => rfl
  | cons x m =>
    obtain ⟨j, w⟩ := x
    simp only [SMap.drop]; split
    · exact SMap.above_mono (SMap.wf_tail_above hw) (by simp only [SMap.above, decide_eq_true_eq] at h; omega)
    · split <;> simpa [SMap.above] using h

theorem SMap.wf_drop {k : Nat} {m : SMap β} (h : SMap.wf d m = true) : SMap.wf d (SMap.drop k m) = true := by
  induction m with
  | nil => rfl
  | cons x m ih =>
    obtain ⟨j, w⟩ := x
    have h' := h
    simp only [SMap.wf, Bool.and_eq_true, decide_eq_true_eq] at h
    simp only [SMap.drop]
    split
    · exact h.2
    · split
      · exact h'
      · simp only [SMap.wf, Bool.and_eq_true, decide_eq_true_eq]
        exact ⟨⟨SMap.above_drop h.2 h.1.1, h.1.2⟩, ih h.2⟩

/-- A write keeps the canonical form. -/
theorem SMap.wf_set {k : Nat} {v : β} {m : SMap β} (h : SMap.wf d m = true) : SMap.wf d (SMap.set d k v m) = true := by
  unfold SMap.set; split
  · exact SMap.wf_drop h
  · rename_i hv; exact SMap.wf_put h hv

theorem SMap.above_filter {b : Nat} {m : SMap β} {f : Nat × β → Bool} (hw : SMap.wf d m = true) (h : SMap.above b m = true) :
    SMap.above b (m.filter f) = true := by
  induction m with
  | nil => rfl
  | cons x m ih =>
    obtain ⟨j, w⟩ := x
    simp only [List.filter]; split
    · simpa [SMap.above] using h
    · have hj := SMap.wf_tail_above hw
      simp only [SMap.wf, Bool.and_eq_true] at hw
      exact ih hw.2 (SMap.above_mono hj (by simp only [SMap.above, decide_eq_true_eq] at h; omega))

/-- Leaving out entries keeps the canonical form. -/
theorem SMap.wf_filter {m : SMap β} {f : Nat × β → Bool} (h : SMap.wf d m = true) : SMap.wf d (m.filter f) = true := by
  induction m with
  | nil => rfl
  | cons x m ih =>
    obtain ⟨j, w⟩ := x
    simp only [SMap.wf, Bool.and_eq_true, decide_eq_true_eq] at h
    simp only [List.filter]; split
    · simp only [SMap.wf, Bool.and_eq_true, decide_eq_true_eq]
      exact ⟨⟨SMap.above_filter h.2 h.1.1, h.1.2⟩, ih h.2⟩
    · exact ih h.2

end SMaps

theorem writeMem_wf {m : SMap Byte} (bs : List Byte) (a : Nat) (h : SMap.wf byteDefault m = true) : SMap.wf byteDefault (writeMem m a bs) = true := by
  induction bs generalizing m a with
  | nil => exact h
  | cons b bs ih => exact ih _ (SMap.wf_set h)

theorem flashPut_wf {m : SMap Byte} (bs : List Byte) (a : Nat) (h : SMap.wf flashDefault m = true) : SMap.wf flashDefault (flashPut m a bs) = true := by
  induction bs generalizing m a with
  | nil => exact h
  | cons b bs ih => exact ih _ (SMap.wf_set h)

theorem foldl_set_wf {α : Type} {d : Nat → Byte} {k : α → Nat} {v : α → Byte} (l : List α) {m : SMap Byte} (h : SMap.wf d m = true) :
    SMap.wf d (l.foldl (fun m x => SMap.set d (k x) (v x) m) m) = true := by
  induction l generalizing m with
  | nil => exact h
  | cons x l ih => exact ih (SMap.wf_set h)

end Sys2Proof.Machine
end

