-- ==== Sys2Proof/Laws/KeepsOps.lean ====
section
/-! SUPPORT. What the functions of Machine/Ops.lean keep. -/

namespace Sys2Proof.Machine

theorem State.setReg_keeps {p : Prop} {r : State} (s : State) (r0 : RegName) (i : Nat) (v : Word) (hk : Keeps p r s) :
    Keeps p r (State.setReg s r0 i v) := keeps_regs hk SMap.wf_set

theorem State.setFld_keeps {p : Prop} {r : State} (s : State) (f : FieldPos) (i : Nat) (x : Nat) (hk : Keeps p r s) :
    Keeps p r (State.setFld s f i x) := by
  unfold State.setFld; with_reducible repeat' (first | exact hk | apply State.setReg_keeps)

theorem State.setCtr_keeps {p : Prop} {r : State} (s : State) (r0 : RegName) (i : Nat) (v : Word) (hk : Keeps p r s) :
    Keeps p r (State.setCtr s r0 i v) := keeps_ctrs hk SMap.wf_set

theorem State.bumpBy_keeps {p : Prop} {r : State} (s : State) (r0 : RegName) (i : Nat) (n : Nat) (hk : Keeps p r s) :
    Keeps p r (State.bumpBy s r0 i n) := by
  unfold State.bumpBy; with_reducible repeat' (first | exact hk | apply State.setCtr_keeps)

theorem State.bump_keeps {p : Prop} {r : State} (s : State) (r0 : RegName) (i : Nat) (hk : Keeps p r s) :
    Keeps p r (State.bump s r0 i) := by
  unfold State.bump; with_reducible repeat' (first | exact hk | apply State.bumpBy_keeps)

theorem State.emit_keeps {p : Prop} {r : State} (s : State) (o : Out) (hk : Keeps p r s) :
    Keeps p r (State.emit s o) := by
  obtain ⟨h1, h2, h3, h4, h5, h6, h7⟩ := hk
  exact ⟨h1, h2.trans (List.prefix_append _ _), h3, h4, h5, h6, h7⟩

theorem State.drew_keeps {p : Prop} {r : State} (s : State) (hk : Keeps p r s) :
    Keeps p r (State.drew s) := by
  obtain ⟨h1, h2, h3, h4, h5, h6, h7⟩ := hk
  exact ⟨h1, h2, Nat.le_succ_of_le h3, h4, h5, h6, h7⟩

theorem State.drewN_keeps {p : Prop} {r : State} (s : State) (n : Nat) (hk : Keeps p r s) :
    Keeps p r (State.drewN s n) := by
  obtain ⟨h1, h2, h3, h4, h5, h6, h7⟩ := hk
  exact ⟨h1, h2, Nat.le_add_right_of_le h3, h4, h5, h6, h7⟩

theorem State.seedFrom_keeps {p : Prop} {r : State} (s : State) (seed : List Byte → List Byte) (hk : Keeps p r s) :
    Keeps p r (State.seedFrom s seed) := by
  unfold State.seedFrom; with_reducible repeat' (first | exact hk | apply State.drewN_keeps | (fail_if_no_progress (refine keeps_mk ?_ rfl rfl rfl)))

theorem State.instantiate_keeps {p : Prop} {r : State} (s : State) (hk : Keeps p r s) :
    Keeps p r (State.instantiate s) := by
  unfold State.instantiate; with_reducible repeat' (first | exact hk | apply State.seedFrom_keeps)

theorem State.reseed_keeps {p : Prop} {r : State} (s : State) (hk : Keeps p r s) :
    Keeps p r (State.reseed s) := by
  unfold State.reseed; with_reducible repeat' (first | exact hk | apply State.seedFrom_keeps | split)

theorem State.reseedIfDue_keeps {p : Prop} {r : State} (s : State) (hk : Keeps p r s) :
    Keeps p r (State.reseedIfDue s) := by
  unfold State.reseedIfDue; with_reducible repeat' (first | exact hk | apply State.reseed_keeps | split)

theorem State.drbg_keeps {p : Prop} {r : State} (s : State) (n : Nat) (hk : Keeps p r s) :
    Keeps p r (State.drbg s n).2 := by
  unfold State.drbg; with_reducible repeat' (first | exact hk | apply State.reseedIfDue_keeps | (fail_if_no_progress (refine keeps_mk ?_ rfl rfl rfl)))

theorem State.setPort_keeps {p : Prop} {r : State} (s : State) (p0 : Nat) (v : Port) (hk : Keeps p r s) :
    Keeps p r (State.setPort s p0 v) := by
  unfold State.setPort; with_reducible repeat' (first | exact hk | (fail_if_no_progress (refine keeps_mk ?_ rfl rfl rfl)))

theorem State.setLsm_keeps {p : Prop} {r : State} (s : State) (e : Nat) (v : Lsm) (hk : Keeps p r s) :
    Keeps p r (State.setLsm s e v) := by
  unfold State.setLsm; with_reducible repeat' (first | exact hk | (fail_if_no_progress (refine keeps_mk ?_ rfl rfl rfl)))

theorem State.setUnit_keeps {p : Prop} {r : State} (s : State) (u : Nat) (v : CtlUnit) (hk : Keeps p r s) :
    Keeps p r (State.setUnit s u v) := by
  unfold State.setUnit; with_reducible repeat' (first | exact hk | (fail_if_no_progress (refine keeps_mk ?_ rfl rfl rfl)))

theorem State.setGap_keeps {p : Prop} {r : State} (s : State) (pair : Nat) (g : Gap) (hk : Keeps p r s) :
    Keeps p r (State.setGap s pair g) := by
  unfold State.setGap; with_reducible repeat' (first | exact hk | (fail_if_no_progress (refine keeps_mk ?_ rfl rfl rfl)))

theorem State.unitEvent_keeps {p : Prop} {r : State} (s : State) (u : Nat) (b : Nat) (hk : Keeps p r s) :
    Keeps p r (State.unitEvent s u b) := by
  unfold State.unitEvent; with_reducible repeat' (first | exact hk | apply State.setReg_keeps)

theorem State.cpcEvent_keeps {p : Prop} {r : State} (s : State) (b : Nat) (hk : Keeps p r s) :
    Keeps p r (State.cpcEvent s b) := by
  unfold State.cpcEvent; with_reducible repeat' (first | exact hk | apply State.unitEvent_keeps | split)

theorem State.setDomain_keeps {p : Prop} {r : State} (s : State) (d : Nat) (v : Domain) (hk : Keeps p r s) :
    Keeps p r (State.setDomain s d v) := by
  unfold State.setDomain; with_reducible repeat' (first | exact hk | (fail_if_no_progress (refine keeps_mk ?_ rfl rfl rfl)))

theorem State.domainStatus_keeps {p : Prop} {r : State} (s : State) (d : Nat) (c : Nat) (hk : Keeps p r s) :
    Keeps p r (State.domainStatus s d c) := by
  unfold State.domainStatus; with_reducible repeat' (first | exact hk | apply State.setFld_keeps)

theorem State.touchDomain_keeps {p : Prop} {r : State} (s : State) (d : Nat) (hk : Keeps p r s) :
    Keeps p r (State.touchDomain s d) := by
  unfold State.touchDomain; with_reducible repeat' (first | exact hk | apply State.setDomain_keeps | apply State.bump_keeps | apply State.domainStatus_keeps | split)

theorem State.touchPairs_keeps {p : Prop} {r : State} (s : State) (code : Nat) (hk : Keeps p r s) :
    Keeps p r (State.touchPairs s code) := by
  unfold State.touchPairs; with_reducible repeat' (first | assumption | apply State.touchDomain_keeps | (apply foldl_keeps; rotate_left; intros))

theorem State.sendMgmt_keeps {p : Prop} {r : State} (s : State) (type : BitVec 8) (dest : Option (BitVec 64)) (payload : List Byte) (hk : Keeps p r s) :
    Keeps p r (State.sendMgmt s type dest payload) := by
  have h1 : ∀ (b : Bool) (m n : Nat) (u : State), Keeps p r u → Keeps p r (if b = true then u.bumpBy .MGT_SEG_TX_FRAMES m n else u) := by
    intro b m n u hu
    split
    · exact State.bumpBy_keeps _ _ _ _ hu
    · exact hu
  unfold State.sendMgmt; dsimp only
  have h2 := h1 (s.segmentOn 0) 0 (max 1 (ceilDiv payload.length 1476)) s hk
  revert h2
  generalize (if s.segmentOn 0 = true then s.bumpBy .MGT_SEG_TX_FRAMES 0 (max 1 (ceilDiv payload.length 1476)) else s) = u
  intro h2
  have h3 := h1 (u.segmentOn 1) 1 (max 1 (ceilDiv payload.length 1476)) u h2
  revert h3
  generalize (if u.segmentOn 1 = true then u.bumpBy .MGT_SEG_TX_FRAMES 1 (max 1 (ceilDiv payload.length 1476)) else u) = v
  intro h3
  have h4 : Keeps p r { v with mgt := { v.mgt with txSeq := v.mgt.txSeq + 1 } } := keeps_mk h3 rfl rfl rfl
  exact keeps_out h4 (List.prefix_append _ _)

theorem State.alarm_keeps {p : Prop} {r : State} (s : State) (b : Nat) (r0 : FaultRecord) (hk : Keeps p r s) :
    Keeps p r (State.alarm s b r0) := by
  unfold State.alarm; with_reducible repeat' (first | exact hk | apply State.setReg_keeps | apply State.sendMgmt_keeps)

theorem State.nextSeq_keeps {p : Prop} {r : State} (s : State) (hk : Keeps p r s) :
    Keeps p r (State.nextSeq s) := by
  unfold State.nextSeq; with_reducible repeat' (first | exact hk | (fail_if_no_progress (refine keeps_mk ?_ rfl rfl rfl)))

theorem State.plainAlarm_keeps {p : Prop} {r : State} (s : State) (b : Nat) (kind : Nat) (cause : Nat) (scope : Nat) (index : Nat) (hk : Keeps p r s) :
    Keeps p r (State.plainAlarm s b kind cause scope index) := by
  unfold State.plainAlarm; with_reducible repeat' (first | exact hk | apply State.alarm_keeps | apply State.nextSeq_keeps)

theorem State.writeRecord_keeps {p : Prop} {r : State} (s : State) (r0 : FaultRecord) (hk : Keeps p r s) :
    Keeps p r (State.writeRecord s r0) := by
  unfold State.writeRecord; with_reducible repeat' (first | exact hk | apply State.nextSeq_keeps | apply State.cpcEvent_keeps | apply State.bump_keeps | apply State.plainAlarm_keeps | (fail_if_no_progress (refine keeps_mk ?_ rfl rfl rfl)) | split | dsimp only)

theorem State.containedFault_keeps {p : Prop} {r : State} (s : State) (cause : Nat) (hk : Keeps p r s) :
    Keeps p r (State.containedFault s cause) := by
  unfold State.containedFault; with_reducible repeat' (first | exact hk | apply State.bump_keeps | apply State.writeRecord_keeps)

end Sys2Proof.Machine
end

