-- ==== Sys2Proof/Laws/KeepsTableOps.lean ====
section
/-! SUPPORT. What the functions of Machine/TableOps.lean keep. -/

namespace Sys2Proof.Machine

theorem State.setSlot_keeps {p : Prop} {r : State} (s : State) (n : Nat) (v : SceneSlot) (hk : Keeps p r s) :
    Keeps p r (State.setSlot s n v) := by
  unfold State.setSlot; with_reducible repeat' (first | exact hk | (fail_if_no_progress (refine keeps_mk ?_ rfl rfl rfl)))

theorem State.setEntry_keeps {p : Prop} {r : State} (s : State) (slot : Nat) (e : Option Entry) (hk : Keeps p r s) :
    Keeps p r (State.setEntry s slot e) := by
  unfold State.setEntry; with_reducible repeat' (first | exact hk | (fail_if_no_progress (refine keeps_mk ?_ rfl rfl rfl)))

theorem State.setWalk_keeps {p : Prop} {r : State} (s : State) (t0 : Nat) (w : BitVec 16) (hk : Keeps p r s) :
    Keeps p r (State.setWalk s t0 w) := by
  unfold State.setWalk; with_reducible repeat' (first | exact hk | (fail_if_no_progress (refine keeps_mk ?_ rfl rfl rfl)))

theorem State.shift_keeps {p : Prop} {r : State} (s : State) (a1 : List Nat) (hk : Keeps p r s) :
    Keeps p r (State.shift s a1) := by
  induction a1 generalizing s with
  | nil => exact hk
  | cons x xs ih =>
    cases xs with
    | nil => exact hk
    | cons y ys =>
      unfold State.shift
      exact ih _ (State.setEntry_keeps _ _ _ (State.setEntry_keeps _ _ _ hk))

theorem State.pushEvicted_keeps {p : Prop} {r : State} (s : State) (t0 : Nat) (e : Entry) (hk : Keeps p r s) :
    Keeps p r (State.pushEvicted s t0 e) := by
  unfold State.pushEvicted; with_reducible repeat' (first | exact hk | apply State.bump_keeps | apply State.cpcEvent_keeps | (fail_if_no_progress (refine keeps_mk ?_ rfl rfl rfl)) | split | dsimp only)

theorem State.place_keeps {p : Prop} {r : State} (s : State) (t0 : Nat) (e : Entry) (hk : Keeps p r s) :
    Keeps p r (State.place s t0 e).2 := by
  unfold State.place; with_reducible repeat' (first | exact hk | apply State.setEntry_keeps | apply State.shift_keeps | apply State.setWalk_keeps | apply State.pushEvicted_keeps | split | dsimp only)

theorem State.doInsert_keeps {p : Prop} {r : State} (s : State) (t0 : Nat) (o : TableOperands) (key : List Byte) (hk : Keeps p r s) :
    Keeps p r (State.doInsert s t0 o key).2 := by
  unfold State.doInsert; with_reducible repeat' (first | exact hk | apply State.setEntry_keeps | apply State.place_keeps | split | dsimp only)

theorem State.doDelete_keeps {p : Prop} {r : State} (s : State) (t0 : Nat) (key : List Byte) (hk : Keeps p r s) :
    Keeps p r (State.doDelete s t0 key).2 := by
  unfold State.doDelete; with_reducible repeat' (first | exact hk | apply State.setEntry_keeps | split | dsimp only)

theorem State.doLookup_keeps {p : Prop} {r : State} (s : State) (t0 : Nat) (sel : Bool) (key : List Byte) (hk : Keeps p r s) :
    Keeps p r (State.doLookup s t0 sel key).2 := by
  unfold State.doLookup; with_reducible repeat' (first | exact hk | split | dsimp only)

theorem State.setAction_keeps {p : Prop} {r : State} (s : State) (i : Nat) (v : BitVec 256) (hk : Keeps p r s) :
    Keeps p r (State.setAction s i v) := by
  unfold State.setAction; with_reducible repeat' (first | exact hk | (fail_if_no_progress (refine keeps_mk ?_ rfl rfl rfl)))

theorem State.doReadIndex_keeps {p : Prop} {r : State} (s : State) (t0 : Nat) (i : Nat) (hk : Keeps p r s) :
    Keeps p r (State.doReadIndex s t0 i).2 := by
  unfold State.doReadIndex; with_reducible repeat' (first | exact hk | split)

theorem State.doRefresh_keeps {p : Prop} {r : State} (s : State) (t0 : Nat) (key : List Byte) (hk : Keeps p r s) :
    Keeps p r (State.doRefresh s t0 key).2 := by
  unfold State.doRefresh; with_reducible repeat' (first | exact hk | apply State.setEntry_keeps | split)

theorem State.doFlush_keeps {p : Prop} {r : State} (s : State) (t0 : Nat) (hk : Keeps p r s) :
    Keeps p r (State.doFlush s t0).2 := by
  unfold State.doFlush; with_reducible repeat' (first | assumption | apply State.setEntry_keeps | (apply foldl_keeps; rotate_left; intros))

theorem State.tableCommand_keeps {p : Prop} {r : State} (s : State) (op : Nat) (t0 : Nat) (sel : Bool) (o : TableOperands) (hk : Keeps p r s) :
    Keeps p r (State.tableCommand s op t0 sel o).2 := by
  unfold State.tableCommand; with_reducible repeat' (first | exact hk | apply State.touchPairs_keeps | apply State.doInsert_keeps | apply State.doDelete_keeps | apply State.doLookup_keeps | apply State.doReadIndex_keeps | apply State.setAction_keeps | apply State.doRefresh_keeps | apply State.doFlush_keeps | split)

end Sys2Proof.Machine
end

