-- ==== Sys2Proof/Laws/KeepsPipeline.lean ====
section
/-! SUPPORT. What the functions of Machine/Pipeline.lean keep. -/

namespace Sys2Proof.Machine

theorem State.setFrame_keeps {p : Prop} {r : State} (s : State) (x : Frame) (hk : Keeps p r s) :
    Keeps p r (State.setFrame s x) := by
  unfold State.setFrame; with_reducible repeat' (first | exact hk | (fail_if_no_progress (refine keeps_mk ?_ rfl rfl rfl)))

theorem State.newFrame_keeps {p : Prop} {r : State} (s : State) (x : Frame) (hk : Keeps p r s) :
    Keeps p r (State.newFrame s x) := by
  unfold State.newFrame; with_reducible repeat' (first | exact hk | (fail_if_no_progress (refine keeps_mk ?_ rfl rfl rfl)))

theorem State.collect_keeps {p : Prop} {r : State} (s : State) (hk : Keeps p r s) :
    Keeps p r (State.collect s) := by
  unfold State.collect; with_reducible repeat' (first | exact hk | (fail_if_no_progress (refine keeps_mk ?_ rfl rfl rfl)))

theorem State.flowLookup_keeps {p : Prop} {r : State} (s : State) (key : List Byte) (overRate : Bool) (hk : Keeps p r s) :
    Keeps p r (State.flowLookup s key overRate).2 := by
  unfold State.flowLookup; with_reducible repeat' (first | exact hk | apply State.bump_keeps | apply State.touchPairs_keeps | apply State.setEntry_keeps | (fail_if_no_progress (refine keeps_mk ?_ rfl rfl rfl)) | split | dsimp only)

theorem State.runRecord_keeps {p : Prop} {r : State} (s : State) (c : Chain) (idx : Nat) (vec : List Byte) (flags : Nat) (inPort : Nat) (overRate : Bool) (hk : Keeps p r s) :
    Keeps p r (State.runRecord s c idx vec flags inPort overRate).2.2.2 := by
  unfold State.runRecord; with_reducible repeat' (first | exact hk | apply State.flowLookup_keeps | (refine keeps_pair ‹_› ?_) | split | dsimp only)

theorem State.stages_keeps {p : Prop} {r : State} (s : State) (vec : List Byte) (flags : Nat) (inPort : Nat) (pipe : Nat) (overRate : Bool) (a6 : Nat) (a7 : Nat) (a8 : Chain) (hk : Keeps p r s) :
    Keeps p r (State.stages s vec flags inPort pipe overRate a6 a7 a8).2 := by
  induction a6 generalizing s a7 a8 with
  | zero => exact State.bump_keeps _ _ _ hk
  | succ n ih =>
    unfold State.stages; dsimp only
    split
    · rename_i h
      refine keeps_quad h (State.runRecord_keeps _ _ _ _ _ _ _ ?_)
      split
      · exact State.setEntry_keeps _ _ _ hk
      · exact hk
    · rename_i h
      refine ih _ _ _ (keeps_quad h (State.runRecord_keeps _ _ _ _ _ _ _ ?_))
      split
      · exact State.setEntry_keeps _ _ _ hk
      · exact hk

theorem State.runChain_keeps {p : Prop} {r : State} (s : State) (x : Frame) (vec : List Byte) (flags : Nat) (overRate : Bool) (hk : Keeps p r s) :
    Keeps p r (State.runChain s x vec flags overRate).2 := by
  unfold State.runChain; with_reducible repeat' (first | exact hk | apply State.stages_keeps | split)

theorem State.enterPass_keeps {p : Prop} {r : State} (s : State) (x : Frame) (overRate : Bool) (hk : Keeps p r s) :
    Keeps p r (State.enterPass s x overRate) := by
  unfold State.enterPass; with_reducible repeat' (first | exact hk | apply State.bump_keeps | apply State.setFrame_keeps | apply State.runChain_keeps | (fail_if_no_progress (refine keeps_mk ?_ rfl rfl rfl)) | split | dsimp only)

end Sys2Proof.Machine
end

