-- ==== Sys2Proof/Laws/KeepsSwitch.lean ====
section
/-! SUPPORT. What the functions of Machine/Switch.lean keep. -/

namespace Sys2Proof.Machine

theorem State.sendPause_keeps {p : Prop} {r : State} (s : State) (p0 : Nat) (c : Nat) (off : Bool) (hk : Keeps p r s) :
    Keeps p r (State.sendPause s p0 c off) := by
  unfold State.sendPause; with_reducible repeat' (first | exact hk | apply State.setPort_keeps | apply State.bump_keeps | apply State.bumpBy_keeps | apply State.emit_keeps)

theorem State.pauseCheckAt_keeps {p : Prop} {r : State} (s : State) (p0 : Nat) (c : Nat) (acc : Nat) (hk : Keeps p r s) :
    Keeps p r (State.pauseCheckAt s p0 c acc) := by
  unfold State.pauseCheckAt; with_reducible repeat' (first | exact hk | apply State.sendPause_keeps | split | dsimp only)

theorem State.pauseCheck_keeps {p : Prop} {r : State} (s : State) (p0 : Nat) (hk : Keeps p r s) :
    Keeps p r (State.pauseCheck s p0) := by
  unfold State.pauseCheck; with_reducible repeat' (first | assumption | apply State.pauseCheckAt_keeps | (apply foldl_keeps; rotate_left; intros) | split)

theorem State.setTokens_keeps {p : Prop} {r : State} (s : State) (k : ShaperKind) (i : Nat) (n : Int) (hk : Keeps p r s) :
    Keeps p r (State.setTokens s k i n) := by
  unfold State.setTokens; with_reducible repeat' (first | exact hk | (fail_if_no_progress (refine keeps_mk ?_ rfl rfl rfl)))

theorem State.chargeShaper_keeps {p : Prop} {r : State} (s : State) (k : ShaperKind) (i : Nat) (units : Int) (hk : Keeps p r s) :
    Keeps p r (State.chargeShaper s k i units) := by
  unfold State.chargeShaper; with_reducible repeat' (first | exact hk | apply State.setTokens_keeps | split)

theorem State.chargeCopy_keeps {p : Prop} {r : State} (s : State) (c : Copy) (units : Int) (hk : Keeps p r s) :
    Keeps p r (State.chargeCopy s c units) := by
  unfold State.chargeCopy; with_reducible repeat' (first | exact hk | apply State.chargeShaper_keeps | split)

theorem State.setCopy_keeps {p : Prop} {r : State} (s : State) (k : Copy) (k' : Copy) (hk : Keeps p r s) :
    Keeps p r (State.setCopy s k k') := by
  unfold State.setCopy; with_reducible repeat' (first | exact hk | (fail_if_no_progress (refine keeps_mk ?_ rfl rfl rfl)))

theorem State.dropCopy_keeps {p : Prop} {r : State} (s : State) (k : Copy) (hk : Keeps p r s) :
    Keeps p r (State.dropCopy s k) := by
  unfold State.dropCopy; with_reducible repeat' (first | exact hk | (fail_if_no_progress (refine keeps_mk ?_ rfl rfl rfl)))

theorem State.retag_keeps {p : Prop} {r : State} (s : State) (p0 : Nat) (c : Nat) (sub : Nat) (hk : Keeps p r s) :
    Keeps p r (State.retag s p0 c sub) := by
  unfold State.retag; with_reducible repeat' (first | exact hk | apply State.setCopy_keeps | split)

theorem State.repin_keeps {p : Prop} {r : State} (s : State) (g : Nat) (i : Nat) (hk : Keeps p r s) :
    Keeps p r (State.repin s g i) := by
  unfold State.repin; with_reducible repeat' (first | assumption | apply State.setFld_keeps | apply State.bump_keeps | (apply foldl_fst_keeps; rotate_left; intros) | split | dsimp only)

theorem State.keepReady_keeps {p : Prop} {r : State} (s : State) (p0 : Nat) (hk : Keeps p r s) :
    Keeps p r (State.keepReady s p0) := by
  unfold State.keepReady; with_reducible repeat' (first | exact hk | (fail_if_no_progress (refine keeps_mk ?_ rfl rfl rfl)))

theorem State.discardCopy_keeps {p : Prop} {r : State} (s : State) (k : Copy) (ctr : RegName) (hk : Keeps p r s) :
    Keeps p r (State.discardCopy s k ctr) := by
  unfold State.discardCopy; with_reducible repeat' (first | exact hk | apply State.dropCopy_keeps | apply State.retag_keeps | apply State.bump_keeps)

theorem State.discardEach_keeps {p : Prop} {r : State} (pick : Copy → Bool) (ctr : RegName) (a2 : Nat) (a3 : State) (hk : Keeps p r a3) :
    Keeps p r (State.discardEach pick ctr a2 a3) := by
  induction a2 generalizing a3 with
  | zero => exact hk
  | succ n ih =>
    unfold State.discardEach; split
    · exact hk
    · exact ih _ (State.discardCopy_keeps _ _ _ hk)

theorem State.discardAll_keeps {p : Prop} {r : State} (s : State) (pick : Copy → Bool) (ctr : RegName) (hk : Keeps p r s) :
    Keeps p r (State.discardAll s pick ctr) := by
  unfold State.discardAll; with_reducible repeat' (first | exact hk | apply State.discardEach_keeps)

theorem State.dropQueued_keeps {p : Prop} {r : State} (s : State) (p0 : Nat) (hk : Keeps p r s) :
    Keeps p r (State.dropQueued s p0) := by
  unfold State.dropQueued; with_reducible repeat' (first | assumption | apply State.pauseCheck_keeps | apply State.discardAll_keeps | apply State.collect_keeps | (apply foldl_keeps; rotate_left; intros))

theorem State.dropBadTail_keeps {p : Prop} {r : State} (s : State) (f : Nat) (hk : Keeps p r s) :
    Keeps p r (State.dropBadTail s f) := by
  unfold State.dropBadTail; with_reducible repeat' (first | exact hk | apply State.discardAll_keeps)

theorem State.countFrame_keeps {p : Prop} {r : State} (s : State) (x : Frame) (hk : Keeps p r s) :
    Keeps p r (State.countFrame s x) := by
  unfold State.countFrame; with_reducible repeat' (first | exact hk | apply State.bump_keeps | (fail_if_no_progress (refine keeps_mk ?_ rfl rfl rfl)) | split)

theorem State.presentLearn_keeps {p : Prop} {r : State} (s : State) (x : Frame) (hk : Keeps p r s) :
    Keeps p r (State.presentLearn s x) := by
  unfold State.presentLearn; with_reducible repeat' (first | exact hk | apply State.setFrame_keeps | apply State.bump_keeps | (fail_if_no_progress (refine keeps_mk ?_ rfl rfl rfl)) | split | dsimp only)

theorem State.correctCopy_keeps {p : Prop} {r : State} (s : State) (k : Copy) (actual : Nat) (hk : Keeps p r s) :
    Keeps p r (State.correctCopy s k actual) := by
  unfold State.correctCopy; with_reducible repeat' (first | exact hk | apply State.chargeCopy_keeps | apply State.setCopy_keeps | split)

theorem State.sendSamples_keeps {p : Prop} {r : State} (s : State) (f : Nat) (hk : Keeps p r s) :
    Keeps p r (State.sendSamples s f) := by
  unfold State.sendSamples; with_reducible repeat' (first | exact hk | (fail_if_no_progress (refine keeps_mk ?_ rfl rfl rfl)))

theorem State.finishTail_keeps {p : Prop} {r : State} (s : State) (x : Frame) (hk : Keeps p r s) :
    Keeps p r (State.finishTail s x) := by
  unfold State.finishTail; with_reducible repeat' (first | assumption | apply State.setFrame_keeps | apply State.correctCopy_keeps | apply State.countFrame_keeps | apply State.presentLearn_keeps | apply State.dropBadTail_keeps | apply State.sendSamples_keeps | apply State.pauseCheck_keeps | (apply foldl_keeps; rotate_left; intros) | split)

theorem State.rxCount_keeps {p : Prop} {r : State} (s : State) (x : Frame) (hk : Keeps p r s) :
    Keeps p r (State.rxCount s x) := by
  unfold State.rxCount; with_reducible repeat' (first | exact hk | apply State.bump_keeps | apply State.bumpBy_keeps)

theorem State.dropRunt_keeps {p : Prop} {r : State} (s : State) (x : Frame) (hk : Keeps p r s) :
    Keeps p r (State.dropRunt s x) := by
  unfold State.dropRunt; with_reducible repeat' (first | exact hk | apply State.bump_keeps | apply State.pauseCheck_keeps | (fail_if_no_progress (refine keeps_mk ?_ rfl rfl rfl)))

theorem State.cutFrame_keeps {p : Prop} {r : State} (s : State) (x : Frame) (hk : Keeps p r s) :
    Keeps p r (State.cutFrame s x) := by
  unfold State.cutFrame; with_reducible repeat' (first | exact hk | apply State.dropRunt_keeps | apply State.rxCount_keeps | apply State.finishTail_keeps | split)

theorem State.endTx_keeps {p : Prop} {r : State} (s : State) (k : Copy) (octets : List Byte) (good : Bool) (hk : Keeps p r s) :
    Keeps p r (State.endTx s k octets good) := by
  unfold State.endTx; with_reducible repeat' (first | exact hk | apply State.correctCopy_keeps | apply State.dropCopy_keeps | apply State.bumpBy_keeps | apply State.bump_keeps | apply State.emit_keeps | split)

theorem State.portDown_keeps {p : Prop} {r : State} (s : State) (p0 : Nat) (hk : Keeps p r s) :
    Keeps p r (State.portDown s p0) := by
  unfold State.portDown; with_reducible repeat' (first | assumption | apply State.cutFrame_keeps | apply State.endTx_keeps | apply State.dropCopy_keeps | apply State.dropQueued_keeps | apply State.setPort_keeps | (apply foldl_keeps; rotate_left; intros) | split)

theorem State.discardLanding_keeps {p : Prop} {r : State} (s : State) (p0 : Nat) (hk : Keeps p r s) :
    Keeps p r (State.discardLanding s p0) := by
  unfold State.discardLanding; with_reducible repeat' (first | exact hk | (fail_if_no_progress (refine keeps_mk ?_ rfl rfl rfl)))

end Sys2Proof.Machine
end

