-- ==== Sys2Proof/Laws/KeepsAccessOps.lean ====
section
/-! SUPPORT. What the functions of Machine/AccessOps.lean keep. -/

namespace Sys2Proof.Machine

theorem State.badAccess_keeps {p : Prop} {r : State} (s : State) (r0 : Requester) (shown : Nat) (cause : Nat) (write : Bool) (hk : Keeps p r s) :
    Keeps p r (State.badAccess s r0 shown cause write) := by
  unfold State.badAccess; with_reducible repeat' (first | exact hk | apply State.bump_keeps | apply State.setReg_keeps | split | dsimp only)

theorem State.setLatch_keeps {p : Prop} {r : State} (s : State) (r0 : Requester) (v : Option (Nat × BitVec 32)) (hk : Keeps p r s) :
    Keeps p r (State.setLatch s r0 v) := by
  unfold State.setLatch; with_reducible repeat' (first | exact hk | (fail_if_no_progress (refine keeps_mk ?_ rfl rfl rfl)))

theorem State.setBuffer_keeps {p : Prop} {r : State} (s : State) (r0 : Requester) (v : Option (Nat × BitVec 32)) (hk : Keeps p r s) :
    Keeps p r (State.setBuffer s r0 v) := by
  unfold State.setBuffer; with_reducible repeat' (first | exact hk | (fail_if_no_progress (refine keeps_mk ?_ rfl rfl rfl)))

theorem State.splitBuffer_keeps {p : Prop} {r : State} (s : State) (r0 : Requester) (hk : Keeps p r s) :
    Keeps p r (State.splitBuffer s r0) := by
  unfold State.splitBuffer; with_reducible repeat' (first | exact hk | apply State.setBuffer_keeps | apply State.badAccess_keeps | split)

theorem State.setBridge_keeps {p : Prop} {r : State} (s : State) (b : SlowBlock) (w : Option SlowWrite) (hk : Keeps p r s) :
    Keeps p r (State.setBridge s b w) := by
  unfold State.setBridge; with_reducible repeat' (first | exact hk | (fail_if_no_progress (refine keeps_mk ?_ rfl rfl rfl)))

theorem State.slowOverrun_keeps {p : Prop} {r : State} (s : State) (b : SlowBlock) (off : Nat) (hk : Keeps p r s) :
    Keeps p r (State.slowOverrun s b off) := by
  unfold State.slowOverrun; with_reducible repeat' (first | exact hk | apply State.setReg_keeps)

theorem State.gateRefused_keeps {p : Prop} {r : State} (s : State) (r0 : Requester) (g : Nat) (a : Nat) (hk : Keeps p r s) :
    Keeps p r (State.gateRefused s r0 g a) := by
  unfold State.gateRefused; with_reducible repeat' (first | exact hk | apply State.bump_keeps | apply State.setReg_keeps | split | dsimp only)

theorem State.touchReg_keeps {p : Prop} {r : State} (s : State) (reg : RegName) (i : Nat) (hk : Keeps p r s) :
    Keeps p r (State.touchReg s reg i) := by
  unfold State.touchReg; with_reducible repeat' (first | exact hk | apply State.touchDomain_keeps | split)

theorem State.hold_keeps {p : Prop} {r : State} (s : State) (d : Nat) (w : Waiting) (hk : Keeps p r s) :
    Keeps p r (State.hold s d w) := by
  unfold State.hold; with_reducible repeat' (first | exact hk | (fail_if_no_progress (refine keeps_mk ?_ rfl rfl rfl)))

theorem State.regReached_keeps {p : Prop} {r : State} (s : State) (reg : RegName) (i : Nat) (hk : Keeps p r s) :
    Keeps p r (State.regReached s reg i).2 := by
  unfold State.regReached; with_reducible repeat' (first | exact hk | apply State.touchReg_keeps | split)

theorem State.admitChecked_keeps {p : Prop} {r : State} (s : State) (r0 : Requester) (reg : RegName) (i : Nat) (o : Nat) (hk : Keeps p r s) :
    Keeps p r (State.admitChecked s r0 reg i o).2 := by
  unfold State.admitChecked; with_reducible repeat' (first | exact hk | apply State.regReached_keeps | apply State.badAccess_keeps | apply State.bump_keeps | apply State.gateRefused_keeps | apply State.slowOverrun_keeps | split | dsimp only)

theorem State.admitWrite_keeps {p : Prop} {r : State} (s : State) (r0 : Requester) (reg : RegName) (i : Nat) (hk : Keeps p r s) :
    Keeps p r (State.admitWrite s r0 reg i).2 := by
  unfold State.admitWrite; with_reducible repeat' (first | exact hk | apply State.splitBuffer_keeps | apply State.admitChecked_keeps | split)

theorem State.gatedWrite_keeps {p : Prop} {r : State} (s : State) (q : Requester) (reg : RegName) (i : Nat) (effect : State → State) (hk : Keeps p r s)
    (he : ∀ t, Keeps p r t → Keeps p r (effect t)) :
    Keeps p r (State.gatedWrite s q reg i effect) := by
  unfold State.gatedWrite; dsimp only; split
  · exact he _ (State.admitWrite_keeps _ _ _ _ hk)
  · exact State.admitWrite_keeps _ _ _ _ hk

theorem State.plainWrite_keeps {p : Prop} {r : State} (s : State) (r0 : RegName) (i : Nat) (value : Word) (mask : Word) (hk : Keeps p r s) :
    Keeps p r (State.plainWrite s r0 i value mask) := by
  unfold State.plainWrite; with_reducible repeat' (first | exact hk | apply State.setReg_keeps)

theorem State.healVoted_keeps {p : Prop} {r : State} (s : State) (mine : FieldAt → Bool) (hk : Keeps p r s) :
    Keeps p r (State.healVoted s mine) := by
  unfold State.healVoted; with_reducible repeat' (first | exact hk | (fail_if_no_progress (refine keeps_mk ?_ rfl rfl rfl)))

end Sys2Proof.Machine
end

