-- ==== Sys2Proof/Laws/KeepsCipher.lean ====
section
/-! SUPPORT. What the functions of Machine/Cipher.lean keep. -/

namespace Sys2Proof.Machine

theorem State.setKeyCtx_keeps {p : Prop} {r : State} (s : State) (c : Nat) (v : KeyCtx) (hk : Keeps p r s) :
    Keeps p r (State.setKeyCtx s c v) := by
  unfold State.setKeyCtx; with_reducible repeat' (first | exact hk | (fail_if_no_progress (refine keeps_mk ?_ rfl rfl rfl)))

theorem State.setEngine_keeps {p : Prop} {r : State} (s : State) (e : Nat) (v : CipherEngine) (hk : Keeps p r s) :
    Keeps p r (State.setEngine s e v) := by
  unfold State.setEngine; with_reducible repeat' (first | exact hk | (fail_if_no_progress (refine keeps_mk ?_ rfl rfl rfl)))

theorem State.completeCipher_keeps {p : Prop} {r : State} (s : State) (q : CipherReq) (status : Nat) (epoch : Nat) (outLen : Nat) (inv : Nat) (output : List Byte) (hk : Keeps p r s) :
    Keeps p r (State.completeCipher s q status epoch outLen inv output) := by
  unfold State.completeCipher; with_reducible repeat' (first | exact hk | apply State.bump_keeps | apply State.bumpBy_keeps | (fail_if_no_progress (refine keeps_mk ?_ rfl rfl rfl)) | split)

theorem State.refuseCipher_keeps {p : Prop} {r : State} (s : State) (q : CipherReq) (status : Nat) (hk : Keeps p r s) :
    Keeps p r (State.refuseCipher s q status) := by
  unfold State.refuseCipher; with_reducible repeat' (first | exact hk | apply State.completeCipher_keeps | split)

theorem State.touchHot_keeps {p : Prop} {r : State} (s : State) (c : Nat) (hk : Keeps p r s) :
    Keeps p r (State.touchHot s c) := by
  unfold State.touchHot; with_reducible repeat' (first | exact hk | (fail_if_no_progress (refine keeps_mk ?_ rfl rfl rfl)) | split)

theorem State.writeCold_keeps {p : Prop} {r : State} (s : State) (c : Nat) (hk : Keeps p r s) :
    Keeps p r (State.writeCold s c) := by
  unfold State.writeCold; with_reducible repeat' (first | exact hk | apply State.drbg_keeps | (fail_if_no_progress (refine keeps_mk ?_ rfl rfl rfl)) | split)

theorem State.freeSlot_keeps {p : Prop} {r : State} (s : State) (hk : Keeps p r s) (t : State) (h : State.freeSlot s = some t) :
    Keeps p r t := by
  unfold State.freeSlot at h; (repeat' split at h) <;> (first | (injection h with h; subst h; (try dsimp only); with_reducible repeat' (first | exact hk | apply State.writeCold_keeps | (fail_if_no_progress (refine keeps_mk ?_ rfl rfl rfl)))) | cases h)

theorem State.placeHot_keeps {p : Prop} {r : State} (s : State) (c : Nat) (hk : Keeps p r s) :
    Keeps p r (State.placeHot s c) := by
  unfold State.placeHot; with_reducible repeat' (first | exact hk | apply State.writeCold_keeps | (fail_if_no_progress (refine keeps_mk ?_ rfl rfl rfl)) | split)

theorem State.queueCipher_keeps {p : Prop} {r : State} (s : State) (q : CipherReq) (hk : Keeps p r s) :
    Keeps p r (State.queueCipher s q) := by
  unfold State.queueCipher; with_reducible repeat' (first | exact hk | (fail_if_no_progress (refine keeps_mk ?_ rfl rfl rfl)) | split | dsimp only)

theorem State.submitCipher_keeps {p : Prop} {r : State} (s : State) (q : CipherReq) (hk : Keeps p r s) :
    Keeps p r (State.submitCipher s q) := by
  unfold State.submitCipher; with_reducible repeat' (first | exact hk | apply State.queueCipher_keeps | (fail_if_no_progress (refine keeps_mk ?_ rfl rfl rfl)) | split)

theorem State.refillQueue_keeps {p : Prop} {r : State} (s : State) (hk : Keeps p r s) :
    Keeps p r (State.refillQueue s) := by
  unfold State.refillQueue; with_reducible repeat' (first | assumption | apply State.queueCipher_keeps | (apply foldl_keeps; rotate_left; intros) | (fail_if_no_progress (refine keeps_mk ?_ rfl rfl rfl)))

theorem State.takeNext_keeps {p : Prop} {r : State} (s : State) (c : Nat) (hk : Keeps p r s) :
    Keeps p r (State.takeNext s c) := by
  unfold State.takeNext; with_reducible repeat' (first | exact hk | apply State.refillQueue_keeps | (fail_if_no_progress (refine keeps_mk ?_ rfl rfl rfl)))

theorem State.tidyRound_keeps {p : Prop} {r : State} (s : State) (hk : Keeps p r s) :
    Keeps p r (State.tidyRound s) := by
  unfold State.tidyRound; with_reducible repeat' (first | exact hk | (fail_if_no_progress (refine keeps_mk ?_ rfl rfl rfl)))

theorem State.endTurn_keeps {p : Prop} {r : State} (s : State) (c : Nat) (hk : Keeps p r s) :
    Keeps p r (State.endTurn s c) := by
  unfold State.endTurn; with_reducible repeat' (first | exact hk | (fail_if_no_progress (refine keeps_mk ?_ rfl rfl rfl)))

theorem State.runNext_keeps {p : Prop} {r : State} (s : State) (e : Nat) (c : Nat) (turnBytes : Nat) (hk : Keeps p r s) :
    Keeps p r (State.runNext s e c turnBytes) := by
  unfold State.runNext; with_reducible repeat' (first | exact hk | apply State.takeNext_keeps | apply State.touchHot_keeps | apply State.setEngine_keeps | apply State.setKeyCtx_keeps | apply State.bump_keeps | apply State.refuseCipher_keeps | apply State.tidyRound_keeps | apply State.endTurn_keeps | split)

theorem State.dispatch_keeps {p : Prop} {r : State} (s : State) (e : Nat) (hk : Keeps p r s) :
    Keeps p r (State.dispatch s e) := by
  unfold State.dispatch; with_reducible repeat' (first | exact hk | apply State.takeNext_keeps | apply State.refuseCipher_keeps | apply State.tidyRound_keeps | apply State.touchDomain_keeps | apply State.runNext_keeps | apply State.setEngine_keeps | apply State.endTurn_keeps | split | dsimp only)

theorem State.finishRequest_keeps {p : Prop} {r : State} (s : State) (q : CipherReq) (hk : Keeps p r s) :
    Keeps p r (State.finishRequest s q) := by
  unfold State.finishRequest; with_reducible repeat' (first | exact hk | apply State.completeCipher_keeps | apply State.drewN_keeps | split)

theorem State.passOutput_keeps {p : Prop} {r : State} (s : State) (q : CipherReq) (hk : Keeps p r s) :
    Keeps p r (State.passOutput s q).2 := by
  unfold State.passOutput; with_reducible repeat' (first | exact hk | (fail_if_no_progress (refine keeps_mk ?_ rfl rfl rfl)) | split)

theorem State.unitDone_keeps {p : Prop} {r : State} (s : State) (e : Nat) (hk : Keeps p r s) :
    Keeps p r (State.unitDone s e) := by
  unfold State.unitDone; with_reducible repeat' (first | exact hk | apply State.setEngine_keeps | apply State.passOutput_keeps | apply State.finishRequest_keeps | (fail_if_no_progress (refine keeps_mk ?_ rfl rfl rfl)) | split | dsimp only)

theorem State.abortUnit_keeps {p : Prop} {r : State} (s : State) (e : Nat) (status : Nat) (hk : Keeps p r s) :
    Keeps p r (State.abortUnit s e status) := by
  unfold State.abortUnit; with_reducible repeat' (first | exact hk | apply State.drew_keeps | apply State.drewN_keeps | apply State.setEngine_keeps | apply State.completeCipher_keeps | apply State.endTurn_keeps | apply State.tidyRound_keeps | split)

theorem State.lockCtx_keeps {p : Prop} {r : State} (s : State) (c : Nat) (hk : Keeps p r s) :
    Keeps p r (State.lockCtx s c) := by
  unfold State.lockCtx; with_reducible repeat' (first | assumption | apply State.setKeyCtx_keeps | apply State.abortUnit_keeps | apply State.refuseCipher_keeps | apply State.tidyRound_keeps | apply State.refillQueue_keeps | (apply foldl_keeps; rotate_left; intros) | (fail_if_no_progress (refine keeps_mk ?_ rfl rfl rfl)) | split | dsimp only)

theorem State.lockOwn_keeps {p : Prop} {r : State} (s : State) (c : Nat) (hk : Keeps p r s) :
    Keeps p r (State.lockOwn s c) := by
  unfold State.lockOwn; with_reducible repeat' (first | exact hk | apply State.lockCtx_keeps | apply State.setKeyCtx_keeps | split | dsimp only)

theorem State.lockAll_keeps {p : Prop} {r : State} (s : State) (which : Nat → KeyCtx → Bool) (hk : Keeps p r s) :
    Keeps p r (State.lockAll s which) := by
  unfold State.lockAll; with_reducible repeat' (first | assumption | apply State.lockCtx_keeps | (apply foldl_keeps; rotate_left; intros))

theorem State.unlockCtx_keeps {p : Prop} {r : State} (s : State) (c : Nat) (hk : Keeps p r s) :
    Keeps p r (State.unlockCtx s c) := by
  unfold State.unlockCtx; with_reducible repeat' (first | exact hk | apply State.setKeyCtx_keeps | split | dsimp only)

theorem State.engineFails_keeps {p : Prop} {r : State} (s : State) (e : Nat) (hk : Keeps p r s) :
    Keeps p r (State.engineFails s e) := by
  unfold State.engineFails; with_reducible repeat' (first | exact hk | apply State.abortUnit_keeps | apply State.setEngine_keeps)

theorem State.writeStore_keeps {p : Prop} {r : State} (s : State) (x : StoreRecord) (f : Store → Store) (hk : Keeps p r s)
    (h1 : s.vlt.store.retired <+: (f s.vlt.store).retired) (h2 : s.vlt.store.minVersion.toNat ≤ (f s.vlt.store).minVersion.toNat)
    (h3 : s.floorLegal = true → (decide (1 ≤ (f s.vlt.store).kFloor) && decide ((f s.vlt.store).kFloor ≤ 8)) = true) :
    Keeps p r (State.writeStore s x f) := keeps_vlt hk h1 h2 h3

theorem State.putCounter_keeps {p : Prop} {r : State} (s : State) (r0 : CounterRec) (hk : Keeps p r s) :
    Keeps p r (State.putCounter s r0) := keeps_vlt hk List.prefix_rfl (Nat.le_refl _) id

theorem State.checkpointDone_keeps {p : Prop} {r : State} (s : State) (c : Nat) (hk : Keeps p r s) :
    Keeps p r (State.checkpointDone s c) := by
  unfold State.checkpointDone; with_reducible repeat' (first | exact hk | apply State.putCounter_keeps | apply State.setKeyCtx_keeps | split | dsimp only)

theorem State.cleanCtx_keeps {p : Prop} {r : State} (s : State) (k : KeyCtx) (hk : Keeps p r s) :
    Keeps p r (State.cleanCtx s k) := by
  unfold State.cleanCtx; with_reducible repeat' (first | exact hk | apply State.putCounter_keeps | split)

theorem State.cleanRecords_keeps {p : Prop} {r : State} (s : State) (hk : Keeps p r s) :
    Keeps p r (State.cleanRecords s) := by
  unfold State.cleanRecords; with_reducible repeat' (first | assumption | apply State.cleanCtx_keeps | (apply foldl_keeps; rotate_left; intros) | (fail_if_no_progress (refine keeps_mk ?_ rfl rfl rfl)))

theorem State.tearCheckpoints_keeps {p : Prop} {r : State} (s : State) (hk : Keeps p r s) :
    Keeps p r (State.tearCheckpoints s) := by
  unfold State.tearCheckpoints
  apply foldl_keeps hk
  intro u x hu
  split
  · exact keeps_vlt (State.drew_keeps _ hu) List.prefix_rfl (Nat.le_refl _) id
  · exact hu

theorem State.mergeMirrors_keeps {p : Prop} {r : State} (s : State) (bad : List (Fin 2 × StoreRecord)) (hk : Keeps p r s) :
    Keeps p r (State.mergeMirrors s bad) := keeps_vlt hk List.prefix_rfl (Nat.le_refl _) id

theorem State.emptyCtx_keeps {p : Prop} {r : State} (s : State) (c : Nat) (hk : Keeps p r s) :
    Keeps p r (State.emptyCtx s c) := by
  unfold State.emptyCtx; with_reducible repeat' (first | exact hk | apply State.lockCtx_keeps | apply State.setKeyCtx_keeps | apply State.healVoted_keeps | (fail_if_no_progress (refine keeps_mk ?_ rfl rfl rfl)))

end Sys2Proof.Machine
end

