-- ==== Sys2Proof/Laws/KeepsVault.lean ====
section
/-! SUPPORT. What the functions of Machine/Vault.lean keep. -/

namespace Sys2Proof.Machine

theorem State.setKeySlot_keeps {p : Prop} {r : State} (s : State) (n : Nat) (v : Option (List Byte)) (hk : Keeps p r s) :
    Keeps p r (State.setKeySlot s n v) := keeps_vlt hk List.prefix_rfl (Nat.le_refl _) id

theorem State.makeBlob_keeps {p : Prop} {r : State} (s : State) (h0 : BlobHead) (material : List Byte) (fixed : Nat) (hk : Keeps p r s) :
    Keeps p r (State.makeBlob s h0 material fixed).2 := by
  unfold State.makeBlob; with_reducible repeat' (first | exact hk | apply State.drbg_keeps)

theorem State.installKey_keeps {p : Prop} {r : State} (s : State) (i : Install) (alg : Nat) (m : KeyMat) (persist : Bool) (used : Nat) (bytes : Nat) (hk : Keeps p r s) :
    Keeps p r (State.installKey s i alg m persist used bytes).2 := by
  unfold State.installKey; with_reducible repeat' (first | exact hk | apply State.putCounter_keeps | apply State.setKeyCtx_keeps | apply State.placeHot_keeps | apply State.lockOwn_keeps | split | dsimp only)

theorem State.doInstall_keeps {p : Prop} {r : State} (s : State) (e : List Byte) (hk : Keeps p r s) :
    Keeps p r (State.doInstall s e).2 := by
  unfold State.doInstall; with_reducible repeat' (first | exact hk | apply State.installKey_keeps | split)

theorem State.freshKey_keeps {p : Prop} {r : State} (s : State) (alg : Nat) (exportable : Bool) (domain : Nat) (hk : Keeps p r s) :
    Keeps p r (State.freshKey s alg exportable domain).2 := by
  unfold State.freshKey; with_reducible repeat' (first | exact hk | apply State.drbg_keeps | (fail_if_no_progress (refine keeps_mk ?_ rfl rfl rfl)))

theorem State.svcGenerate_keeps {p : Prop} {r : State} (s : State) (b : List Byte) (hk : Keeps p r s) :
    Keeps p r (State.svcGenerate s b).2.2 := by
  unfold State.svcGenerate; with_reducible repeat' (first | exact hk | apply State.reseed_keeps | apply State.freshKey_keeps | apply State.makeBlob_keeps | split | dsimp only)

theorem State.svcInstall_keeps {p : Prop} {r : State} (s : State) (b : List Byte) (hk : Keeps p r s) :
    Keeps p r (State.svcInstall s b).2.2 := by
  unfold State.svcInstall; with_reducible repeat' (first | exact hk | apply State.doInstall_keeps | split)

theorem State.svcGenerateInstall_keeps {p : Prop} {r : State} (s : State) (b : List Byte) (hk : Keeps p r s) :
    Keeps p r (State.svcGenerateInstall s b).2.2 := by
  unfold State.svcGenerateInstall; with_reducible repeat' (first | exact hk | apply State.freshKey_keeps | apply State.installKey_keeps | split | dsimp only)

theorem State.stage_keeps {p : Prop} {r : State} (s : State) (c : Nat) (m : KeyMat) (hk : Keeps p r s) :
    Keeps p r (State.stage s c m).2 := by
  unfold State.stage; with_reducible repeat' (first | exact hk | apply State.putCounter_keeps | apply State.setKeyCtx_keeps | apply State.writeCold_keeps | apply State.bump_keeps | split | dsimp only)

theorem State.svcStageSuccessor_keeps {p : Prop} {r : State} (s : State) (b : List Byte) (hk : Keeps p r s) :
    Keeps p r (State.svcStageSuccessor s b).2.2 := by
  unfold State.svcStageSuccessor; with_reducible repeat' (first | exact hk | apply State.freshKey_keeps | apply State.stage_keeps | split | dsimp only)

theorem State.discardCtx_keeps {p : Prop} {r : State} (s : State) (c : Nat) (hk : Keeps p r s) :
    Keeps p r (State.discardCtx s c) := by
  unfold State.discardCtx; with_reducible repeat' (first | exact hk | apply State.cleanCtx_keeps | apply State.emptyCtx_keeps)

theorem State.svcDiscard_keeps {p : Prop} {r : State} (s : State) (b : List Byte) (hk : Keeps p r s) :
    Keeps p r (State.svcDiscard s b).2.2 := by
  unfold State.svcDiscard; with_reducible repeat' (first | exact hk | apply State.discardCtx_keeps | split | dsimp only)

theorem State.exportBlob_keeps {p : Prop} {r : State} (s : State) (k : KeyCtx) (m : KeyMat) (hk : Keeps p r s) :
    Keeps p r (State.exportBlob s k m).2 := by
  unfold State.exportBlob; with_reducible repeat' (first | exact hk | apply State.makeBlob_keeps)

theorem State.svcExport_keeps {p : Prop} {r : State} (s : State) (b : List Byte) (hk : Keeps p r s) :
    Keeps p r (State.svcExport s b).2.2 := by
  unfold State.svcExport; with_reducible repeat' (first | exact hk | apply State.exportBlob_keeps | split | dsimp only)

theorem State.setIke_keeps {p : Prop} {r : State} (s : State) (h0 : Nat) (v : Option Ike) (hk : Keeps p r s) :
    Keeps p r (State.setIke s h0 v) := by
  unfold State.setIke; with_reducible repeat' (first | exact hk | (fail_if_no_progress (refine keeps_mk ?_ rfl rfl rfl)))

theorem State.svcIkeStart_keeps {p : Prop} {r : State} (s : State) (a1 : List Byte) (hk : Keeps p r s) :
    Keeps p r (State.svcIkeStart s a1).2.2 := by
  unfold State.svcIkeStart; with_reducible repeat' (first | exact hk | apply State.drbg_keeps | apply State.setIke_keeps | split)

theorem State.svcIkeKeys_keeps {p : Prop} {r : State} (s : State) (b : List Byte) (hk : Keeps p r s) :
    Keeps p r (State.svcIkeKeys s b).2.2 := by
  unfold State.svcIkeKeys; with_reducible repeat' (first | exact hk | apply State.setIke_keeps | split | dsimp only)

theorem State.svcChildSa_keeps {p : Prop} {r : State} (s : State) (b : List Byte) (hk : Keeps p r s) :
    Keeps p r (State.svcChildSa s b).2.2 := by
  unfold State.svcChildSa; dsimp only; with_reducible repeat' (first | exact hk | apply State.installKey_keeps | apply State.discardCtx_keeps | (fail_if_no_progress (refine keeps_mk ?_ rfl rfl rfl)) | split)

theorem State.svcIkeEnd_keeps {p : Prop} {r : State} (s : State) (b : List Byte) (hk : Keeps p r s) :
    Keeps p r (State.svcIkeEnd s b).2.2 := by
  unfold State.svcIkeEnd; with_reducible repeat' (first | exact hk | apply State.setIke_keeps | split | dsimp only)

theorem State.svcHandoverOffer_keeps {p : Prop} {r : State} (s : State) (a1 : List Byte) (hk : Keeps p r s) :
    Keeps p r (State.svcHandoverOffer s a1).2.2 := by
  unfold State.svcHandoverOffer; with_reducible repeat' (first | exact hk | apply State.reseed_keeps | apply State.drbg_keeps | (fail_if_no_progress (refine keeps_mk ?_ rfl rfl rfl)) | split)

theorem State.service_keeps {p : Prop} {r : State} (s : State) (code : Nat) (b : List Byte) (hk : Keeps p r s) :
    Keeps p r (State.service s code b).2.2 := by
  unfold State.service; with_reducible repeat' (first | exact hk | apply State.svcGenerate_keeps | apply State.svcInstall_keeps | apply State.svcGenerateInstall_keeps | apply State.svcStageSuccessor_keeps | apply State.svcDiscard_keeps | apply State.svcExport_keeps | apply State.svcIkeStart_keeps | apply State.svcIkeKeys_keeps | apply State.svcChildSa_keeps | apply State.svcIkeEnd_keeps | apply State.svcHandoverOffer_keeps | split)

theorem State.vaultReply_keeps {p : Prop} {r : State} (s : State) (q : VaultRequest) (bytes : List Byte) (hk : Keeps p r s) :
    Keeps p r (State.vaultReply s q bytes) := by
  unfold State.vaultReply; dsimp only
  apply State.unitEvent_keeps; apply State.setFld_keeps; apply State.setFld_keeps
  exact keeps_mem hk id id id (writeMem_wf _ _) id id id id

theorem State.serve_keeps {p : Prop} {r : State} (s : State) (q : VaultRequest) (hk : Keeps p r s) :
    Keeps p r (State.serve s q) := by
  unfold State.serve; with_reducible repeat' (first | exact hk | apply State.vaultReply_keeps | apply State.service_keeps | (fail_if_no_progress (refine keeps_mk ?_ rfl rfl rfl)) | split)

theorem State.serveCode_keeps {p : Prop} {r : State} (s : State) (code : Nat) (hk : Keeps p r s) :
    Keeps p r (State.serveCode s code) := by
  unfold State.serveCode; with_reducible repeat' (first | exact hk | apply State.serve_keeps | split)

theorem State.skipUnknown_keeps {p : Prop} {r : State} (a0 : Nat) (a1 : State) (hk : Keeps p r a1) :
    Keeps p r (State.skipUnknown a0 a1) := by
  induction a0 generalizing a1 with
  | zero => exact hk
  | succ n ih =>
    unfold State.skipUnknown; split
    · split
      · exact ih _ (State.serve_keeps _ _ hk)
      · exact hk
    · exact hk

theorem State.setIde_keeps {p : Prop} {r : State} (s : State) (t0 : IdeTarget) (k : IdeKey) (hk : Keeps p r s) :
    Keeps p r (State.setIde s t0 k) := by
  unfold State.setIde; with_reducible repeat' (first | exact hk | (fail_if_no_progress (refine keeps_mk ?_ rfl rfl rfl)))

theorem State.stopIde_keeps {p : Prop} {r : State} (s : State) (hk : Keeps p r s) :
    Keeps p r (State.stopIde s) := by
  unfold State.stopIde; with_reducible repeat' (first | exact hk | (fail_if_no_progress (refine keeps_mk ?_ rfl rfl rfl)))

theorem State.spdm_keeps {p : Prop} {r : State} (s : State) (h0 : Nat) (code : Nat) (body : List Byte) (hk : Keeps p r s) :
    Keeps p r (State.spdm s h0 code body) := by
  unfold State.spdm; with_reducible repeat' (first | exact hk | apply State.emit_keeps)

theorem State.spdmError_keeps {p : Prop} {r : State} (s : State) (h0 : Nat) (e : Nat) (hk : Keeps p r s) :
    Keeps p r (State.spdmError s h0 e) := by
  unfold State.spdmError; with_reducible repeat' (first | exact hk | apply State.spdm_keeps)

theorem State.startZeroise_keeps {p : Prop} {r : State} (s : State) (hk : Keeps p r s) :
    Keeps p r (State.startZeroise s) := by
  unfold State.startZeroise; with_reducible repeat' (first | exact hk | apply State.lockAll_keeps | apply State.stopIde_keeps | (fail_if_no_progress (refine keeps_mk ?_ rfl rfl rfl)) | split)

theorem State.erase_keeps {p : Prop} {r : State} (s : State) (hk : Keeps p r s) :
    Keeps p r (State.erase s) := by
  have h1 : Keeps p r { s with vlt := (State.erase s).vlt } := keeps_vlt hk List.prefix_rfl (Nat.le_refl _) id
  exact keeps_mk h1 rfl rfl rfl

end Sys2Proof.Machine
end

