-- ==== Sys2Proof/Laws/KeepsHost.lean ====
section
/-! SUPPORT. What the functions of Machine/Host.lean keep. -/

namespace Sys2Proof.Machine

theorem State.setHostLink_keeps {p : Prop} {r : State} (s : State) (l : Nat) (v : HostLink) (hk : Keeps p r s) :
    Keeps p r (State.setHostLink s l v) := by
  unfold State.setHostLink; with_reducible repeat' (first | exact hk | (fail_if_no_progress (refine keeps_mk ?_ rfl rfl rfl)))

theorem State.setFunc_keeps {p : Prop} {r : State} (s : State) (l : Nat) (fn : Nat) (f : Func) (hk : Keeps p r s) :
    Keeps p r (State.setFunc s l fn f) := by
  unfold State.setFunc; with_reducible repeat' (first | exact hk | apply State.setHostLink_keeps | split)

theorem State.toHost_keeps {p : Prop} {r : State} (s : State) (l : Nat) (o : HostOut) (hk : Keeps p r s) :
    Keeps p r (State.toHost s l o) := by
  unfold State.toHost; with_reducible repeat' (first | exact hk | apply State.emit_keeps | (fail_if_no_progress (refine keeps_mk ?_ rfl rfl rfl)) | split)

theorem State.complete_keeps {p : Prop} {r : State} (s : State) (l : Nat) (status : Nat) (data : List Byte) (hk : Keeps p r s) :
    Keeps p r (State.complete s l status data) := by
  unfold State.complete; with_reducible repeat' (first | exact hk | apply State.emit_keeps)

theorem State.completePieces_keeps {p : Prop} {r : State} (s : State) (l : Nat) (ps : List (Nat × List Byte)) (hk : Keeps p r s) :
    Keeps p r (State.completePieces s l ps) := by
  unfold State.completePieces; with_reducible repeat' (first | assumption | apply State.complete_keeps | (apply foldl_keeps; rotate_left; intros))

theorem State.withdrawHeld_keeps {p : Prop} {r : State} (s : State) (l : Nat) (hk : Keeps p r s) :
    Keeps p r (State.withdrawHeld s l) := by
  unfold State.withdrawHeld; with_reducible repeat' (first | exact hk | (fail_if_no_progress (refine keeps_mk ?_ rfl rfl rfl)))

theorem State.dropHeld_keeps {p : Prop} {r : State} (s : State) (l : Nat) (hk : Keeps p r s) :
    Keeps p r (State.dropHeld s l) := by
  unfold State.dropHeld; with_reducible repeat' (first | exact hk | (fail_if_no_progress (refine keeps_mk ?_ rfl rfl rfl)))

theorem State.releaseHeld_keeps {p : Prop} {r : State} (s : State) (l : Nat) (hk : Keeps p r s) :
    Keeps p r (State.releaseHeld s l) := by
  unfold State.releaseHeld; with_reducible repeat' (first | assumption | apply State.emit_keeps | (apply foldl_keeps; rotate_left; intros) | (fail_if_no_progress (refine keeps_mk ?_ rfl rfl rfl)) | split)

theorem State.hostWrite_keeps {p : Prop} {r : State} (s : State) (l : Nat) (n : Nat) (gen : Nat) (addr : Nat) (data : List Byte) (payload : Bool) (hk : Keeps p r s) :
    Keeps p r (State.hostWrite s l n gen addr data payload) := by
  unfold State.hostWrite; with_reducible repeat' (first | assumption | apply State.bump_keeps | apply State.toHost_keeps | (apply foldl_keeps; rotate_left; intros) | split)

theorem State.msix_keeps {p : Prop} {r : State} (s : State) (l : Nat) (fn : Nat) (v : Nat) (hk : Keeps p r s) :
    Keeps p r (State.msix s l fn v) := by
  unfold State.msix; with_reducible repeat' (first | exact hk | apply State.toHost_keeps | apply State.setFunc_keeps | split | dsimp only)

theorem State.flushMsix_keeps {p : Prop} {r : State} (s : State) (l : Nat) (fn : Nat) (hk : Keeps p r s) :
    Keeps p r (State.flushMsix s l fn) := by
  unfold State.flushMsix; with_reducible repeat' (first | assumption | apply State.setFunc_keeps | apply State.msix_keeps | (apply foldl_keeps; rotate_left; intros) | split | dsimp only)

theorem State.sliceIrq_keeps {p : Prop} {r : State} (s : State) (n : Nat) (v : Nat) (hk : Keeps p r s) :
    Keeps p r (State.sliceIrq s n v) := by
  unfold State.sliceIrq; with_reducible repeat' (first | exact hk | apply State.bump_keeps | apply State.msix_keeps | split | dsimp only)

theorem State.aer_keeps {p : Prop} {r : State} (s : State) (l : Nat) (fn : Nat) (code : Nat) (hk : Keeps p r s) :
    Keeps p r (State.aer s l fn code) := by
  unfold State.aer; with_reducible repeat' (first | exact hk | apply State.emit_keeps)

theorem State.issueRead_keeps {p : Prop} {r : State} (s : State) (w : Want) (tags : List Nat) (hk : Keeps p r s) (t : State) (h : State.issueRead s w tags = some t) :
    Keeps p r t := by
  unfold State.issueRead at h; dsimp only at h
  repeat' split at h
  all_goals first | (cases h; done) | (injection h with h; subst h; apply foldl_keeps; exact keeps_mk hk rfl rfl rfl; intro u a hu; exact State.toHost_keeps _ _ _ hu)

theorem State.setRead_keeps {p : Prop} {r : State} (s : State) (h0 : Nat) (tag : Nat) (f : HostRead → HostRead) (hk : Keeps p r s) :
    Keeps p r (State.setRead s h0 tag f) := by
  unfold State.setRead; with_reducible repeat' (first | exact hk | (fail_if_no_progress (refine keeps_mk ?_ rfl rfl rfl)))

theorem State.dropReads_keeps {p : Prop} {r : State} (s : State) (p0 : HostRead → Bool) (hk : Keeps p r s) :
    Keeps p r (State.dropReads s p0) := by
  unfold State.dropReads; with_reducible repeat' (first | exact hk | (fail_if_no_progress (refine keeps_mk ?_ rfl rfl rfl)))

theorem State.failReads_keeps {p : Prop} {r : State} (s : State) (p0 : HostRead → Bool) (hk : Keeps p r s) :
    Keeps p r (State.failReads s p0) := by
  unfold State.failReads; with_reducible repeat' (first | exact hk | (fail_if_no_progress (refine keeps_mk ?_ rfl rfl rfl)))

theorem State.retireTag_keeps {p : Prop} {r : State} (s : State) (l : Nat) (tag : Nat) (hk : Keeps p r s) :
    Keeps p r (State.retireTag s l tag) := by
  unfold State.retireTag; with_reducible repeat' (first | exact hk | apply State.setRead_keeps | (fail_if_no_progress (refine keeps_mk ?_ rfl rfl rfl)))

theorem State.retireLink_keeps {p : Prop} {r : State} (s : State) (l : Nat) (hk : Keeps p r s) :
    Keeps p r (State.retireLink s l) := by
  unfold State.retireLink; with_reducible repeat' (first | assumption | apply State.failReads_keeps | apply State.retireTag_keeps | (apply foldl_keeps; rotate_left; intros))

theorem State.discardPiece_keeps {p : Prop} {r : State} (s : State) (l : Nat) (hk : Keeps p r s) :
    Keeps p r (State.discardPiece s l) := by
  unfold State.discardPiece; with_reducible repeat' (first | exact hk | apply State.bump_keeps | apply State.aer_keeps)

theorem State.setQueue_keeps {p : Prop} {r : State} (s : State) (g : Nat) (q : Queue) (hk : Keeps p r s) :
    Keeps p r (State.setQueue s g q) := by
  unfold State.setQueue; with_reducible repeat' (first | exact hk | (fail_if_no_progress (refine keeps_mk ?_ rfl rfl rfl)))

theorem State.advance_keeps {p : Prop} {r : State} (s : State) (n : Nat) (hk : Keeps p r s) :
    Keeps p r (State.advance s n) := by
  unfold State.advance; with_reducible repeat' (first | exact hk | apply State.setFld_keeps | split | dsimp only)

theorem State.slcRefused_keeps {p : Prop} {r : State} (s : State) (hk : Keeps p r s) :
    Keeps p r (State.slcRefused s) := by
  unfold State.slcRefused; with_reducible repeat' (first | exact hk | apply State.setFld_keeps)

end Sys2Proof.Machine
end

