-- ==== Sys2Proof/Laws/KeepsTunnel.lean ====
section
/-! SUPPORT. What the functions of Machine/Tunnel.lean keep. -/

namespace Sys2Proof.Machine

theorem State.setTun_keeps {p : Prop} {r : State} (s : State) (c : Nat) (b : List Byte) (hk : Keeps p r s) :
    Keeps p r (State.setTun s c b) := by
  unfold State.setTun; with_reducible repeat' (first | exact hk | (fail_if_no_progress (refine keeps_mk ?_ rfl rfl rfl)))

theorem State.setConn_keeps {p : Prop} {r : State} (s : State) (c : Nat) (b : List Byte) (hk : Keeps p r s) :
    Keeps p r (State.setConn s c b) := by
  unfold State.setConn; with_reducible repeat' (first | exact hk | (fail_if_no_progress (refine keeps_mk ?_ rfl rfl rfl)))

theorem State.setSpace_keeps {p : Prop} {r : State} (s : State) (c : Nat) (b : List Byte) (hk : Keeps p r s) :
    Keeps p r (State.setSpace s c b) := by
  unfold State.setSpace; with_reducible repeat' (first | exact hk | (fail_if_no_progress (refine keeps_mk ?_ rfl rfl rfl)))

theorem State.setReplay_keeps {p : Prop} {r : State} (s : State) (c : Nat) (r0 : Replay) (hk : Keeps p r s) :
    Keeps p r (State.setReplay s c r0) := by
  unfold State.setReplay; with_reducible repeat' (first | exact hk | (fail_if_no_progress (refine keeps_mk ?_ rfl rfl rfl)))

theorem State.setTunState_keeps {p : Prop} {r : State} (s : State) (c : Nat) (n : Nat) (hk : Keeps p r s) :
    Keeps p r (State.setTunState s c n) := by
  unfold State.setTunState; with_reducible repeat' (first | exact hk | apply State.setTun_keeps)

theorem State.setTunSeq_keeps {p : Prop} {r : State} (s : State) (c : Nat) (n : Nat) (hk : Keeps p r s) :
    Keeps p r (State.setTunSeq s c n) := by
  unfold State.setTunSeq; with_reducible repeat' (first | exact hk | apply State.setTun_keeps)

theorem State.oflEvent_keeps {p : Prop} {r : State} (s : State) (kind : Nat) (index : Nat) (cause : Nat) (hk : Keeps p r s) :
    Keeps p r (State.oflEvent s kind index cause) := by
  unfold State.oflEvent; with_reducible repeat' (first | exact hk | apply State.cpcEvent_keeps | apply State.bump_keeps | (fail_if_no_progress (refine keeps_mk ?_ rfl rfl rfl)) | split)

theorem State.takeArrived_keeps {p : Prop} {r : State} (s : State) (k : Copy) (hk : Keeps p r s) :
    Keeps p r (State.takeArrived s k) := by
  unfold State.takeArrived; with_reducible repeat' (first | exact hk | apply State.collect_keeps | (fail_if_no_progress (refine keeps_mk ?_ rfl rfl rfl)))

theorem State.dropUnit_keeps {p : Prop} {r : State} (s : State) (hk : Keeps p r s) :
    Keeps p r (State.dropUnit s) := by
  unfold State.dropUnit; with_reducible repeat' (first | exact hk | apply State.bump_keeps)

theorem State.reenter_keeps {p : Prop} {r : State} (s : State) (x : Frame) (port : Nat) (octets : List Byte) (bad : Bool) (csum : BitVec 8) (hk : Keeps p r s) :
    Keeps p r (State.reenter s x port octets bad csum) := by
  unfold State.reenter; with_reducible repeat' (first | exact hk | apply State.newFrame_keeps)

theorem State.encapUnit_keeps {p : Prop} {r : State} (s : State) (k : Copy) (x : Frame) (c : Nat) (port : Nat) (hk : Keeps p r s) :
    Keeps p r (State.encapUnit s k x c port) := by
  unfold State.encapUnit; with_reducible repeat' (first | exact hk | apply State.takeArrived_keeps | apply State.dropUnit_keeps | apply State.drew_keeps | apply State.bump_keeps | apply State.reenter_keeps | split | dsimp only)

theorem State.decapUnit_keeps {p : Prop} {r : State} (s : State) (k : Copy) (x : Frame) (c : Nat) (port : Nat) (hk : Keeps p r s) :
    Keeps p r (State.decapUnit s k x c port) := by
  unfold State.decapUnit; with_reducible repeat' (first | exact hk | apply State.takeArrived_keeps | apply State.bump_keeps | apply State.reenter_keeps | split | dsimp only)

theorem State.roll_keeps {p : Prop} {r : State} (s : State) (c : Nat) (hard : Bool) (hk : Keeps p r s) :
    Keeps p r (State.roll s c hard).2 := by
  unfold State.roll; with_reducible repeat' (first | exact hk | apply State.setTunState_keeps | apply State.bump_keeps | apply State.oflEvent_keeps | split)

theorem State.espOut_keeps {p : Prop} {r : State} (s : State) (x : Frame) (c : Nat) (port : Nat) (hk : Keeps p r s) :
    Keeps p r (State.espOut s x c port) := by
  unfold State.espOut; with_reducible repeat' (first | exact hk | apply State.bump_keeps | apply State.drew_keeps | apply State.roll_keeps | apply State.setTunSeq_keeps | apply State.submitCipher_keeps | (fail_if_no_progress (refine keeps_mk ?_ rfl rfl rfl)) | split | dsimp only)

theorem State.espOutDone_keeps {p : Prop} {r : State} (s : State) (j : TunnelJob) (r0 : CipherResult) (hk : Keeps p r s) :
    Keeps p r (State.espOutDone s j r0) := by
  unfold State.espOutDone; with_reducible repeat' (first | exact hk | apply State.reenter_keeps | apply State.roll_keeps | apply State.espOut_keeps | apply State.bump_keeps | (fail_if_no_progress (refine keeps_mk ?_ rfl rfl rfl)) | split | dsimp only)

theorem State.settleTunnel_keeps {p : Prop} {r : State} (s : State) (hk : Keeps p r s) :
    Keeps p r (State.settleTunnel s) := by
  unfold State.settleTunnel; with_reducible repeat' (first | assumption | apply State.espOutDone_keeps | (apply foldl_keeps; rotate_left; intros) | (fail_if_no_progress (refine keeps_mk ?_ rfl rfl rfl)))

theorem State.espIn_keeps {p : Prop} {r : State} (s : State) (k : Copy) (x : Frame) (c : Nat) (port : Nat) (hk : Keeps p r s) :
    Keeps p r (State.espIn s k x c port) := by
  unfold State.espIn; with_reducible repeat' (first | exact hk | apply State.takeArrived_keeps | apply State.bump_keeps | apply State.dropUnit_keeps | apply State.setReplay_keeps | apply State.submitCipher_keeps | (fail_if_no_progress (refine keeps_mk ?_ rfl rfl rfl)) | split | dsimp only)

theorem State.espStream_keeps {p : Prop} {r : State} (s : State) (j : TunnelJob) (dec : List Byte) (bad : Bool) (hk : Keeps p r s) :
    Keeps p r (State.espStream s j dec bad) := by
  unfold State.espStream; with_reducible repeat' (first | exact hk | apply State.bump_keeps | apply State.reenter_keeps | split | dsimp only)

theorem State.accept_keeps {p : Prop} {r : State} (s : State) (j : TunnelJob) (hk : Keeps p r s) :
    Keeps p r (State.accept s j) := by
  unfold State.accept; with_reducible repeat' (first | exact hk | apply State.setTunSeq_keeps | apply State.setReplay_keeps | split | dsimp only)

theorem State.unmark_keeps {p : Prop} {r : State} (s : State) (j : TunnelJob) (hk : Keeps p r s) :
    Keeps p r (State.unmark s j) := by
  unfold State.unmark; with_reducible repeat' (first | exact hk | apply State.setReplay_keeps)

theorem State.trailerFails_keeps {p : Prop} {r : State} (s : State) (j : TunnelJob) (dec : List Byte) (hk : Keeps p r s) :
    Keeps p r (State.trailerFails s j dec) := by
  unfold State.trailerFails; with_reducible repeat' (first | exact hk | apply State.bump_keeps | apply State.espStream_keeps | split)

theorem State.espInDone_keeps {p : Prop} {r : State} (s : State) (j : TunnelJob) (r0 : CipherResult) (hk : Keeps p r s) :
    Keeps p r (State.espInDone s j r0) := by
  unfold State.espInDone; with_reducible repeat' (first | exact hk | apply State.unmark_keeps | apply State.espStream_keeps | apply State.bump_keeps | apply State.accept_keeps | apply State.trailerFails_keeps | apply State.reenter_keeps | (fail_if_no_progress (refine keeps_mk ?_ rfl rfl rfl)) | split | dsimp only)

theorem State.setObjData_keeps {p : Prop} {r : State} (s : State) (bs : List Byte) (n : Nat) (hk : Keeps p r s) :
    Keeps p r (State.setObjData s bs n) := by
  unfold State.setObjData; with_reducible repeat' (first | assumption | apply State.setFld_keeps | (apply foldl_keeps; rotate_left; intros))

theorem State.objStatus_keeps {p : Prop} {r : State} (s : State) (n : Nat) (hk : Keeps p r s) :
    Keeps p r (State.objStatus s n) := by
  unfold State.objStatus; with_reducible repeat' (first | exact hk | apply State.setFld_keeps)

theorem State.takeOver_keeps {p : Prop} {r : State} (s : State) (i : Nat) (b : List Byte) (hk : Keeps p r s) :
    Keeps p r (State.takeOver s i b) := by
  unfold State.takeOver; with_reducible repeat' (first | exact hk | apply State.setConn_keeps | (fail_if_no_progress (refine keeps_mk ?_ rfl rfl rfl)) | split)

theorem State.objWrite_keeps {p : Prop} {r : State} (s : State) (type : Nat) (i : Nat) (keep : Bool) (hk : Keeps p r s) :
    Keeps p r (State.objWrite s type i keep).2 := by
  unfold State.objWrite; with_reducible repeat' (first | exact hk | apply State.setTun_keeps | apply State.setReplay_keeps | apply State.takeOver_keeps | apply State.setSpace_keeps | split | dsimp only)

theorem State.objRead_keeps {p : Prop} {r : State} (s : State) (type : Nat) (i : Nat) (hk : Keeps p r s) :
    Keeps p r (State.objRead s type i).2 := by
  unfold State.objRead; with_reducible repeat' (first | exact hk | apply State.setObjData_keeps | split)

theorem State.objRoll_keeps {p : Prop} {r : State} (s : State) (type : Nat) (i : Nat) (hk : Keeps p r s) :
    Keeps p r (State.objRoll s type i).2 := by
  unfold State.objRoll; with_reducible repeat' (first | exact hk | apply State.roll_keeps | split)

end Sys2Proof.Machine
end

