-- ==== Sys2Proof/Laws/KeepsQueue.lean ====
section
/-! SUPPORT. What the functions of Machine/Queue.lean keep. -/

namespace Sys2Proof.Machine

theorem State.writeShadow_keeps {p : Prop} {r : State} (s : State) (g : Nat) (n : Nat) (hk : Keeps p r s) :
    Keeps p r (State.writeShadow s g n) := by
  unfold State.writeShadow; with_reducible repeat' (first | exact hk | apply State.hostWrite_keeps | split | dsimp only)

theorem State.queueIrq_keeps {p : Prop} {r : State} (s : State) (g : Nat) (n : Nat) (hk : Keeps p r s) :
    Keeps p r (State.queueIrq s g n) := by
  unfold State.queueIrq; with_reducible repeat' (first | exact hk | apply State.setQueue_keeps | apply State.sliceIrq_keeps)

theorem State.queueError_keeps {p : Prop} {r : State} (s : State) (g : Nat) (n : Nat) (code : Nat) (index : Nat) (source : Nat) (hk : Keeps p r s) :
    Keeps p r (State.queueError s g n code index source) := by
  unfold State.queueError; with_reducible repeat' (first | exact hk | apply State.setQueue_keeps | apply State.writeShadow_keeps | apply State.queueIrq_keeps)

theorem State.writeCpl_keeps {p : Prop} {r : State} (s : State) (g : Nat) (n : Nat) (c : Cpl) (hk : Keeps p r s) :
    Keeps p r (State.writeCpl s g n c) := by
  unfold State.writeCpl; with_reducible repeat' (first | exact hk | apply State.hostWrite_keeps | apply State.setQueue_keeps)

theorem State.drainOverflow_keeps {p : Prop} {r : State} (s : State) (g : Nat) (n : Nat) (a3 : Nat) (hk : Keeps p r s) :
    Keeps p r (State.drainOverflow s g n a3) := by
  induction a3 generalizing s with
  | zero => exact hk
  | succ k ih =>
    unfold State.drainOverflow; split
    · split
      · exact hk
      · exact ih _ (State.writeCpl_keeps _ _ _ _ (State.setQueue_keeps _ _ _ hk))
    · exact hk

theorem State.formCpl_keeps {p : Prop} {r : State} (s : State) (g : Nat) (n : Nat) (c : Cpl) (hk : Keeps p r s) :
    Keeps p r (State.formCpl s g n c) := by
  unfold State.formCpl; with_reducible repeat' (first | exact hk | apply State.setQueue_keeps | apply State.writeCpl_keeps | split | dsimp only)

theorem State.settleDraining_keeps {p : Prop} {r : State} (s : State) (g : Nat) (n : Nat) (hk : Keeps p r s) :
    Keeps p r (State.settleDraining s g n) := by
  unfold State.settleDraining; with_reducible repeat' (first | exact hk | apply State.setQueue_keeps | apply State.writeShadow_keeps | split | dsimp only)

theorem State.groupIrq_keeps {p : Prop} {r : State} (s : State) (g : Nat) (n : Nat) (irq : Bool) (hk : Keeps p r s) :
    Keeps p r (State.groupIrq s g n irq) := by
  unfold State.groupIrq; with_reducible repeat' (first | exact hk | apply State.queueIrq_keeps | split | dsimp only)

theorem State.completionWrite_keeps {p : Prop} {r : State} (s : State) (g : Nat) (n : Nat) (hk : Keeps p r s) :
    Keeps p r (State.completionWrite s g n) := by
  unfold State.completionWrite; with_reducible repeat' (first | assumption | apply State.setQueue_keeps | apply State.formCpl_keeps | apply State.settleDraining_keeps | apply State.writeShadow_keeps | apply State.groupIrq_keeps | (apply foldl_keeps; rotate_left; intros) | split | dsimp only)

theorem State.addReady_keeps {p : Prop} {r : State} (s : State) (g : Nat) (life : Nat) (c : Cpl) (hk : Keeps p r s) :
    Keeps p r (State.addReady s g life c) := by
  unfold State.addReady; with_reducible repeat' (first | exact hk | apply State.setQueue_keeps | split | dsimp only)

theorem State.prefetchOnce_keeps {p : Prop} {r : State} (s : State) (g : Nat) (n : Nat) (hk : Keeps p r s) :
    Keeps p r (State.prefetchOnce s g n) := by
  unfold State.prefetchOnce; with_reducible repeat' (first | exact hk | (fail_if_no_progress (refine keeps_mk ?_ rfl rfl rfl)) | split | dsimp only)

theorem State.prefetch_keeps {p : Prop} {r : State} (s : State) (g : Nat) (n : Nat) (hk : Keeps p r s) :
    Keeps p r (State.prefetch s g n) := by
  unfold State.prefetch; with_reducible repeat' (first | exact hk | apply State.prefetchOnce_keeps)

theorem State.cutFetches_keeps {p : Prop} {r : State} (s : State) (g : Nat) (keep : Nat) (hk : Keeps p r s) :
    Keeps p r (State.cutFetches s g keep) := by
  unfold State.cutFetches; with_reducible repeat' (first | exact hk | apply State.setQueue_keeps | (fail_if_no_progress (refine keeps_mk ?_ rfl rfl rfl)))

theorem State.entryFetched_keeps {p : Prop} {r : State} (s : State) (g : Nat) (n : Nat) (hk : Keeps p r s) :
    Keeps p r (State.entryFetched s g n) := by
  unfold State.entryFetched; with_reducible repeat' (first | exact hk | apply State.bump_keeps | apply State.setQueue_keeps | apply State.prefetch_keeps | (fail_if_no_progress (refine keeps_mk ?_ rfl rfl rfl)) | split | dsimp only)

theorem State.post_keeps {p : Prop} {r : State} (s : State) (g : Nat) (n : Nat) (index : Nat) (hk : Keeps p r s) :
    Keeps p r (State.post s g n index) := by
  unfold State.post; with_reducible repeat' (first | exact hk | apply State.bump_keeps | apply State.queueError_keeps | apply State.setQueue_keeps | apply State.prefetch_keeps | split | dsimp only)

theorem State.release_keeps {p : Prop} {r : State} (s : State) (g : Nat) (n : Nat) (index : Nat) (hk : Keeps p r s) :
    Keeps p r (State.release s g n index) := by
  unfold State.release; with_reducible repeat' (first | exact hk | apply State.bump_keeps | apply State.queueError_keeps | apply State.setQueue_keeps | apply State.drainOverflow_keeps | apply State.writeShadow_keeps | apply State.groupIrq_keeps | apply State.settleDraining_keeps | split | dsimp only)

theorem State.invalidate_keeps {p : Prop} {r : State} (s : State) (g : Nat) (n : Nat) (index : Nat) (hk : Keeps p r s) :
    Keeps p r (State.invalidate s g n index) := by
  unfold State.invalidate; with_reducible repeat' (first | exact hk | apply State.bump_keeps | apply State.cutFetches_keeps | apply State.prefetch_keeps | split | dsimp only)

theorem State.doorbell_keeps {p : Prop} {r : State} (s : State) (n q : Nat) (act : State → Nat → State) (hk : Keeps p r s)
    (he : ∀ t i, Keeps p r t → Keeps p r (act t i)) :
    Keeps p r (State.doorbell s n q act) := by
  unfold State.doorbell
  repeat' (first | with_reducible exact hk | with_reducible apply State.bump_keeps | with_reducible apply he | split)

theorem State.doorbellWord_keeps {p : Prop} {r : State} (s : State) (n : Nat) (w : Nat) (hk : Keeps p r s) :
    Keeps p r (State.doorbellWord s n w) := by
  unfold State.doorbellWord; with_reducible repeat' (first | exact hk | apply State.bump_keeps | apply State.doorbell_keeps | apply State.post_keeps | apply State.release_keeps | apply State.invalidate_keeps | split | dsimp only | intro)

theorem State.queueRefused_keeps {p : Prop} {r : State} (s : State) (g : Nat) (hk : Keeps p r s) :
    Keeps p r (State.queueRefused s g) := by
  unfold State.queueRefused; with_reducible repeat' (first | exact hk | apply State.setQueue_keeps)

theorem State.queueEnable_keeps {p : Prop} {r : State} (s : State) (g : Nat) (n : Nat) (hk : Keeps p r s) :
    Keeps p r (State.queueEnable s g n) := by
  unfold State.queueEnable; with_reducible repeat' (first | exact hk | apply State.queueRefused_keeps | apply State.setQueue_keeps | apply State.writeShadow_keeps | split | dsimp only)

theorem State.forgetJobs_keeps {p : Prop} {r : State} (s : State) (g : Nat) (hk : Keeps p r s) :
    Keeps p r (State.forgetJobs s g) := by
  unfold State.forgetJobs; with_reducible repeat' (first | exact hk | (fail_if_no_progress (refine keeps_mk ?_ rfl rfl rfl)))

theorem State.queueDisable_keeps {p : Prop} {r : State} (s : State) (g : Nat) (n : Nat) (hk : Keeps p r s) :
    Keeps p r (State.queueDisable s g n) := by
  unfold State.queueDisable; with_reducible repeat' (first | exact hk | apply State.cutFetches_keeps | apply State.setQueue_keeps | apply State.writeShadow_keeps | apply State.settleDraining_keeps | apply State.bumpBy_keeps | apply State.forgetJobs_keeps | split | dsimp only)

theorem State.queueDrop_keeps {p : Prop} {r : State} (s : State) (g : Nat) (n : Nat) (hk : Keeps p r s) :
    Keeps p r (State.queueDrop s g n) := by
  unfold State.queueDrop; with_reducible repeat' (first | exact hk | apply State.cutFetches_keeps | apply State.bumpBy_keeps | apply State.setQueue_keeps)

theorem State.queueCurtain_keeps {p : Prop} {r : State} (s : State) (g : Nat) (hk : Keeps p r s) :
    Keeps p r (State.queueCurtain s g) := by
  unfold State.queueCurtain; with_reducible repeat' (first | exact hk | apply State.cutFetches_keeps | apply State.forgetJobs_keeps | apply State.setQueue_keeps)

theorem State.queueMalformed_keeps {p : Prop} {r : State} (s : State) (g : Nat) (n : Nat) (index : Nat) (hk : Keeps p r s) :
    Keeps p r (State.queueMalformed s g n index) := by
  unfold State.queueMalformed; with_reducible repeat' (first | exact hk | apply State.bump_keeps | apply State.queueError_keeps)

theorem State.takeEntries_keeps {p : Prop} {r : State} (s : State) (g : Nat) (k : Nat) (hk : Keeps p r s) :
    Keeps p r (State.takeEntries s g k) := by
  unfold State.takeEntries; with_reducible repeat' (first | exact hk | apply State.setQueue_keeps)

theorem State.takeFrame_keeps {p : Prop} {r : State} (s : State) (g : Nat) (n : Nat) (es : List (Nat × List Byte)) (hk : Keeps p r s) :
    Keeps p r (State.takeFrame s g n es) := by
  unfold State.takeFrame; with_reducible repeat' (first | exact hk | apply State.takeEntries_keeps | apply State.chargeShaper_keeps | apply State.prefetch_keeps | (fail_if_no_progress (refine keeps_mk ?_ rfl rfl rfl)))

theorem State.txSettle_keeps {p : Prop} {r : State} (s : State) (j : TxJob) (hk : Keeps p r s) :
    Keeps p r (State.txSettle s j) := by
  unfold State.txSettle; with_reducible repeat' (first | assumption | apply State.bumpBy_keeps | apply State.addReady_keeps | apply State.newFrame_keeps | (apply foldl_keeps; rotate_left; intros) | (fail_if_no_progress (refine keeps_mk ?_ rfl rfl rfl)) | split | dsimp only)

theorem State.txPart_keeps {p : Prop} {r : State} (s : State) (job : Nat) (part : Nat) (data : List Byte) (hk : Keeps p r s) :
    Keeps p r (State.txPart s job part data) := by
  unfold State.txPart; with_reducible repeat' (first | exact hk | apply State.txSettle_keeps | (fail_if_no_progress (refine keeps_mk ?_ rfl rfl rfl)) | split)

theorem State.txFail_keeps {p : Prop} {r : State} (s : State) (job : Nat) (hk : Keeps p r s) :
    Keeps p r (State.txFail s job) := by
  unfold State.txFail; with_reducible repeat' (first | exact hk | apply State.txSettle_keeps | split)

theorem State.rxComplete_keeps {p : Prop} {r : State} (s : State) (j : RxJob) (x : Frame) (status : Nat) (hk : Keeps p r s) :
    Keeps p r (State.rxComplete s j x status) := by
  unfold State.rxComplete; with_reducible repeat' (first | assumption | apply State.hostWrite_keeps | apply State.addReady_keeps | (apply foldl_keeps; rotate_left; intros) | split)

theorem State.rxWaits_keeps {p : Prop} {r : State} (s : State) (l : Nat) (f : Nat) (hk : Keeps p r s) :
    Keeps p r (State.rxWaits s l f) := by
  unfold State.rxWaits; with_reducible repeat' (first | exact hk | (fail_if_no_progress (refine keeps_mk ?_ rfl rfl rfl)) | split)

theorem State.rxMoves_keeps {p : Prop} {r : State} (s : State) (l : Nat) (f : Nat) (hk : Keeps p r s) :
    Keeps p r (State.rxMoves s l f) := by
  unfold State.rxMoves; with_reducible repeat' (first | exact hk | (fail_if_no_progress (refine keeps_mk ?_ rfl rfl rfl)))

theorem State.rxRemove_keeps {p : Prop} {r : State} (s : State) (k : Copy) (hk : Keeps p r s) :
    Keeps p r (State.rxRemove s k) := by
  unfold State.rxRemove; with_reducible repeat' (first | exact hk | apply State.rxMoves_keeps | apply State.takeArrived_keeps | apply State.dropCopy_keeps | apply State.collect_keeps | (fail_if_no_progress (refine keeps_mk ?_ rfl rfl rfl)) | split | dsimp only)

theorem State.rxFill_keeps {p : Prop} {r : State} (s : State) (x : Frame) (avail : Nat) (a3 : Nat) (a4 : RxJob) (hk : Keeps p r s) :
    Keeps p r (State.rxFill s x avail a3 a4).2.2 := by
  induction a3 generalizing s a4 with
  | zero => exact hk
  | succ n ih =>
    unfold State.rxFill; dsimp only
    repeat' (first | with_reducible exact hk | with_reducible apply ih | with_reducible apply State.prefetch_keeps | with_reducible apply State.takeEntries_keeps | with_reducible apply State.hostWrite_keeps | with_reducible apply State.queueMalformed_keeps | split | dsimp only)

theorem State.rxNoBuffer_keeps {p : Prop} {r : State} (s : State) (k : Copy) (x : Frame) (j : RxJob) (hk : Keeps p r s) :
    Keeps p r (State.rxNoBuffer s k x j) := by
  unfold State.rxNoBuffer; with_reducible repeat' (first | exact hk | apply State.bump_keeps | apply State.rxComplete_keeps | apply State.rxRemove_keeps)

theorem State.rxContinue_keeps {p : Prop} {r : State} (s : State) (k : Copy) (x : Frame) (j : RxJob) (hk : Keeps p r s) :
    Keeps p r (State.rxContinue s k x j) := by
  unfold State.rxContinue; with_reducible repeat' (first | exact hk | apply State.rxFill_keeps | apply State.rxMoves_keeps | apply State.rxNoBuffer_keeps | apply State.rxWaits_keeps | apply State.bump_keeps | apply State.rxComplete_keeps | apply State.rxRemove_keeps | (refine keeps_triple ‹_› ?_) | (fail_if_no_progress (refine keeps_mk ?_ rfl rfl rfl)) | split)

theorem State.rxTry_keeps {p : Prop} {r : State} (s : State) (l : Nat) (k : Copy) (x : Frame) (hk : Keeps p r s) (t : State) (h : State.rxTry s l k x = some t) :
    Keeps p r t := by
  unfold State.rxTry at h; dsimp only at h
  repeat' split at h
  all_goals first | cases h; done | (injection h with h; subst h; repeat' (first | with_reducible exact hk | with_reducible apply State.rxContinue_keeps | with_reducible apply State.rxRemove_keeps | with_reducible apply State.rxWaits_keeps | with_reducible apply State.bump_keeps))

theorem State.rxDeliver_keeps {p : Prop} {r : State} (s : State) (l : Nat) (hk : Keeps p r s) :
    Keeps p r (State.rxDeliver s l) := by
  unfold State.rxDeliver; split
  · rename_i t h
    obtain ⟨l₁, a, l₂, _, ha, _⟩ := List.findSome?_eq_some_iff.1 h
    exact State.rxTry_keeps _ _ _ _ hk t ha
  · exact hk

theorem State.rxLimit_keeps {p : Prop} {r : State} (s : State) (l : Nat) (hk : Keeps p r s) :
    Keeps p r (State.rxLimit s l) := by
  unfold State.rxLimit
  repeat' (first | with_reducible exact hk | with_reducible apply State.rxNoBuffer_keeps | with_reducible apply State.rxMoves_keeps | with_reducible apply State.rxRemove_keeps | with_reducible apply State.bump_keeps | split)

end Sys2Proof.Machine
end

