-- ==== Sys2Proof/Laws/KeepsThread.lean ====
section
/-! SUPPORT. What the functions of Machine/Thread.lean keep. -/

namespace Sys2Proof.Machine

theorem State.setThread_keeps {p : Prop} {r : State} (s : State) (t0 : Nat) (v : Thread) (hk : Keeps p r s) :
    Keeps p r (State.setThread s t0 v) := by
  unfold State.setThread; with_reducible repeat' (first | exact hk | (fail_if_no_progress (refine keeps_mk ?_ rfl rfl rfl)))

theorem State.setCore_keeps {p : Prop} {r : State} (s : State) (k : Nat) (v : Core) (hk : Keeps p r s) :
    Keeps p r (State.setCore s k v) := by
  unfold State.setCore; with_reducible repeat' (first | exact hk | (fail_if_no_progress (refine keeps_mk ?_ rfl rfl rfl)))

theorem State.setEvent_keeps {p : Prop} {r : State} (s : State) (t0 : Nat) (input : Nat) (hk : Keeps p r s) :
    Keeps p r (State.setEvent s t0 input) := by
  unfold State.setEvent; with_reducible repeat' (first | exact hk | apply State.setThread_keeps | apply State.touchDomain_keeps)

end Sys2Proof.Machine
end

