-- ==== Sys2Proof/Laws/KeepsMover.lean ====
section
/-! SUPPORT. What the functions of Machine/Mover.lean keep. -/

namespace Sys2Proof.Machine

theorem State.setChan_keeps {p : Prop} {r : State} (s : State) (c : Nat) (v : Channel) (hk : Keeps p r s) :
    Keeps p r (State.setChan s c v) := by
  unfold State.setChan; with_reducible repeat' (first | exact hk | (fail_if_no_progress (refine keeps_mk ?_ rfl rfl rfl)))

theorem State.writeShared_keeps {p : Prop} {r : State} (s : State) (n : Nat) (a : Nat) (bs : List Byte) (hk : Keeps p r s) :
    Keeps p r (State.writeShared s n a bs) := keeps_mem hk id id id id id id id (foldl_set_wf _)

theorem State.writeDmem_keeps {p : Prop} {r : State} (s : State) (k : Nat) (a : Nat) (bs : List Byte) (hk : Keeps p r s) :
    Keeps p r (State.writeDmem s k a bs) := keeps_mem hk id id id id id id (foldl_set_wf _) id

theorem State.writeWindow_keeps {p : Prop} {r : State} (s : State) (n : Nat) (a : Nat) (bs : List Byte) (hk : Keeps p r s) :
    Keeps p r (State.writeWindow s n a bs) := keeps_mem hk id id id id id (writeMem_wf _ _) id id

theorem State.writeHbm_keeps {p : Prop} {r : State} (s : State) (a : Nat) (bs : List Byte) (hk : Keeps p r s) :
    Keeps p r (State.writeHbm s a bs) := by
  unfold State.writeHbm; split
  · exact keeps_mem hk id id id id (writeMem_wf _ _) id id id
  · exact State.writeWindow_keeps _ _ _ _ hk

theorem State.writeSpace_keeps {p : Prop} {r : State} (s : State) (space : Nat) (n : Nat) (a : Nat) (bs : List Byte) (hk : Keeps p r s) :
    Keeps p r (State.writeSpace s space n a bs) := by
  unfold State.writeSpace; with_reducible repeat' (first | exact hk | apply State.writeHbm_keeps | apply State.writeShared_keeps | split)

theorem State.chanEvent_keeps {p : Prop} {r : State} (s : State) (c : Nat) (hk : Keeps p r s) :
    Keeps p r (State.chanEvent s c) := by
  unfold State.chanEvent; with_reducible repeat' (first | exact hk | apply State.setEvent_keeps | apply State.emit_keeps | split)

theorem State.chanClear_keeps {p : Prop} {r : State} (s : State) (c : Nat) (hk : Keeps p r s) :
    Keeps p r (State.chanClear s c) := by
  unfold State.chanClear; with_reducible repeat' (first | exact hk | apply State.failReads_keeps | apply State.setChan_keeps)

theorem State.chanHalt_keeps {p : Prop} {r : State} (s : State) (c : Nat) (status : Nat) (hk : Keeps p r s) :
    Keeps p r (State.chanHalt s c status) := by
  unfold State.chanHalt; with_reducible repeat' (first | exact hk | apply State.setFld_keeps | apply State.bump_keeps | apply State.chanClear_keeps | apply State.setChan_keeps | apply State.chanEvent_keeps | split | dsimp only)

theorem State.chanWake_keeps {p : Prop} {r : State} (s : State) (c : Nat) (hk : Keeps p r s) :
    Keeps p r (State.chanWake s c) := by
  unfold State.chanWake; with_reducible repeat' (first | assumption | apply State.touchDomain_keeps | (apply foldl_keeps; rotate_left; intros))

theorem State.chanFetch_keeps {p : Prop} {r : State} (s : State) (c : Nat) (a : Nat) (again : Bool) (hk : Keeps p r s) :
    Keeps p r (State.chanFetch s c a again) := by
  unfold State.chanFetch; with_reducible repeat' (first | exact hk | apply State.setChan_keeps | apply State.chanWake_keeps | (fail_if_no_progress (refine keeps_mk ?_ rfl rfl rfl)) | split | dsimp only)

theorem State.chanServe_keeps {p : Prop} {r : State} (s : State) (c : Nat) (a : Nat) (d : Desc) (hk : Keeps p r s) :
    Keeps p r (State.chanServe s c a d) := by
  unfold State.chanServe; with_reducible repeat' (first | exact hk | apply State.setChan_keeps | apply State.chanHalt_keeps | apply State.chanWake_keeps | apply State.chanFetch_keeps | split | dsimp only)

theorem State.chanStop_keeps {p : Prop} {r : State} (s : State) (c : Nat) (hk : Keeps p r s) :
    Keeps p r (State.chanStop s c) := by
  unfold State.chanStop; with_reducible repeat' (first | exact hk | apply State.chanClear_keeps | apply State.setChan_keeps)

theorem State.chanRelinked_keeps {p : Prop} {r : State} (s : State) (c : Nat) (tail : List Byte) (hk : Keeps p r s) :
    Keeps p r (State.chanRelinked s c tail) := by
  unfold State.chanRelinked; with_reducible repeat' (first | exact hk | apply State.setChan_keeps | apply State.bump_keeps | apply State.chanFetch_keeps | apply State.chanHalt_keeps | split | dsimp only)

theorem State.descFetched_keeps {p : Prop} {r : State} (s : State) (c : Nat) (hk : Keeps p r s) :
    Keeps p r (State.descFetched s c) := by
  unfold State.descFetched; with_reducible repeat' (first | exact hk | apply State.chanWake_keeps | apply State.chanRelinked_keeps | apply State.chanHalt_keeps | apply State.setChan_keeps | apply State.chanServe_keeps | split | dsimp only)

theorem State.chanWrite_keeps {p : Prop} {r : State} (s : State) (c : Nat) (a2 : Nat) (hk : Keeps p r s) :
    Keeps p r (State.chanWrite s c a2) := by
  induction a2 generalizing s with
  | zero => exact hk
  | succ n ih =>
    unfold State.chanWrite; dsimp only
    repeat' (first | with_reducible exact hk | with_reducible apply ih | with_reducible apply State.bumpBy_keeps | with_reducible apply State.setChan_keeps | with_reducible apply State.hostWrite_keeps | with_reducible apply State.writeSpace_keeps | split)

theorem State.chanFlush_keeps {p : Prop} {r : State} (s : State) (c : Nat) (hk : Keeps p r s) :
    Keeps p r (State.chanFlush s c) := by
  unfold State.chanFlush; with_reducible repeat' (first | exact hk | (fail_if_no_progress (refine keeps_mk ?_ rfl rfl rfl)) | split | dsimp only)

theorem State.blockRead_keeps {p : Prop} {r : State} (s : State) (c : Nat) (off : Nat) (data : List Byte) (hk : Keeps p r s) :
    Keeps p r (State.blockRead s c off data) := by
  unfold State.blockRead; with_reducible repeat' (first | exact hk | apply State.setChan_keeps | apply State.chanWrite_keeps | apply State.chanFlush_keeps | split | dsimp only)

theorem State.descDone_keeps {p : Prop} {r : State} (s : State) (c : Nat) (hk : Keeps p r s) :
    Keeps p r (State.descDone s c) := by
  unfold State.descDone; with_reducible repeat' (first | exact hk | apply State.setChan_keeps | apply State.bump_keeps | apply State.chanEvent_keeps | apply State.chanStop_keeps | apply State.chanFetch_keeps | apply State.chanServe_keeps | split | dsimp only)

theorem State.raiseLine_keeps {p : Prop} {r : State} (s : State) (line : Nat) (hk : Keeps p r s) :
    Keeps p r (State.raiseLine s line) := by
  unfold State.raiseLine; with_reducible repeat' (first | assumption | apply State.setChan_keeps | apply State.bump_keeps | (apply foldl_keeps; rotate_left; intros) | split | dsimp only)

theorem State.pacedBurst_keeps {p : Prop} {r : State} (s : State) (c : Nat) (hk : Keeps p r s) :
    Keeps p r (State.pacedBurst s c) := by
  unfold State.pacedBurst; with_reducible repeat' (first | exact hk | apply State.setChan_keeps | split | dsimp only)

theorem State.chanEnable_keeps {p : Prop} {r : State} (s : State) (c : Nat) (hk : Keeps p r s) :
    Keeps p r (State.chanEnable s c) := by
  unfold State.chanEnable; with_reducible repeat' (first | exact hk | apply State.setChan_keeps | apply State.chanFetch_keeps | split | dsimp only)

theorem State.chanDisable_keeps {p : Prop} {r : State} (s : State) (c : Nat) (hk : Keeps p r s) :
    Keeps p r (State.chanDisable s c) := by
  unfold State.chanDisable; with_reducible repeat' (first | exact hk | apply State.setChan_keeps | apply State.chanStop_keeps | split | dsimp only)

theorem State.chanAppend_keeps {p : Prop} {r : State} (s : State) (c : Nat) (hk : Keeps p r s) :
    Keeps p r (State.chanAppend s c) := by
  unfold State.chanAppend; with_reducible repeat' (first | exact hk | apply State.setChan_keeps | apply State.chanFetch_keeps | apply State.bump_keeps | split | dsimp only)

theorem State.chanAbort_keeps {p : Prop} {r : State} (s : State) (c : Nat) (hk : Keeps p r s) :
    Keeps p r (State.chanAbort s c) := by
  unfold State.chanAbort; with_reducible repeat' (first | exact hk | apply State.chanHalt_keeps)

theorem State.haltChannels_keeps {p : Prop} {r : State} (s : State) (p0 : Nat → Bool) (status : Nat) (hk : Keeps p r s) :
    Keeps p r (State.haltChannels s p0 status) := by
  unfold State.haltChannels; with_reducible repeat' (first | assumption | apply State.chanHalt_keeps | (apply foldl_keeps; rotate_left; intros))

theorem State.stageShares_keeps {p : Prop} {r : State} (s : State) (h0 : Nat) (value : Word) (hk : Keeps p r s) :
    Keeps p r (State.stageShares s h0 value) := by
  unfold State.stageShares; with_reducible repeat' (first | exact hk | apply State.setFld_keeps | apply State.setReg_keeps | split | dsimp only)

end Sys2Proof.Machine
end

