-- ==== Sys2Proof/Laws/KeepsStorage.lean ====
section
/-! SUPPORT. What the functions of Machine/Storage.lean keep. -/

namespace Sys2Proof.Machine

theorem State.setConnRun_keeps {p : Prop} {r : State} (s : State) (c : Nat) (v : ConnRun) (hk : Keeps p r s) :
    Keeps p r (State.setConnRun s c v) := by
  unfold State.setConnRun; with_reducible repeat' (first | exact hk | (fail_if_no_progress (refine keeps_mk ?_ rfl rfl rfl)))

theorem State.setCmd_keeps {p : Prop} {r : State} (s : State) (c : StCmd) (hk : Keeps p r s) :
    Keeps p r (State.setCmd s c) := by
  unfold State.setCmd; with_reducible repeat' (first | exact hk | (fail_if_no_progress (refine keeps_mk ?_ rfl rfl rfl)))

theorem State.stEmit_keeps {p : Prop} {r : State} (s : State) (die : Nat) (b : List Byte) (octets : List Byte) (hk : Keeps p r s) :
    Keeps p r (State.stEmit s die b octets) := by
  unfold State.stEmit; with_reducible repeat' (first | exact hk | apply State.newFrame_keeps)

theorem State.stPut_keeps {p : Prop} {r : State} (s : State) (die : Nat) (conn : Nat) (u : Unsent) (hk : Keeps p r s) :
    Keeps p r (State.stPut s die conn u) := by
  unfold State.stPut; with_reducible repeat' (first | exact hk | apply State.setConn_keeps | apply State.setConnRun_keeps | apply State.stEmit_keeps)

theorem State.stFrame_keeps {p : Prop} {r : State} (s : State) (die : Nat) (conn : Nat) (kind : Nat) (cmd : Nat) (offset : Nat) (data : List Byte) (hk : Keeps p r s) :
    Keeps p r (State.stFrame s die conn kind cmd offset data) := by
  unfold State.stFrame; with_reducible repeat' (first | exact hk | apply State.stPut_keeps | apply State.setConnRun_keeps | split | dsimp only)

theorem State.stDrain_keeps {p : Prop} {r : State} (s : State) (die : Nat) (conn : Nat) (a3 : List Unsent) (hk : Keeps p r s) :
    Keeps p r (State.stDrain s die conn a3) := by
  induction a3 generalizing s with
  | nil => exact State.setConnRun_keeps _ _ _ hk
  | cons u us ih =>
    unfold State.stDrain; split
    · exact ih _ (State.stPut_keeps _ _ _ _ hk)
    · exact State.setConnRun_keeps _ _ _ hk

theorem State.stData_keeps {p : Prop} {r : State} (s : State) (die : Nat) (conn : Nat) (cmd : Nat) (offset : Nat) (data : List Byte) (hk : Keeps p r s) :
    Keeps p r (State.stData s die conn cmd offset data) := by
  unfold State.stData; with_reducible repeat' (first | assumption | apply State.stFrame_keeps | (apply foldl_keeps; rotate_left; intros))

theorem State.stReadResponse_keeps {p : Prop} {r : State} (s : State) (die : Nat) (conn : Nat) (cmd : Nat) (offset : Nat) (seq : Nat) (data : List Byte) (hk : Keeps p r s) :
    Keeps p r (State.stReadResponse s die conn cmd offset seq data) := by
  unfold State.stReadResponse; with_reducible repeat' (first | assumption | apply State.stEmit_keeps | (apply foldl_keeps; rotate_left; intros))

theorem State.stReply_keeps {p : Prop} {r : State} (s : State) (die : Nat) (conn : Nat) (kind : Nat) (hk : Keeps p r s) :
    Keeps p r (State.stReply s die conn kind) := by
  unfold State.stReply; with_reducible repeat' (first | exact hk | apply State.stEmit_keeps)

theorem State.stComplete_keeps {p : Prop} {r : State} (s : State) (g : Nat) (life : Nat) (n : Nat) (cid : Nat) (status : Nat) (dw0 : Nat) (hk : Keeps p r s) :
    Keeps p r (State.stComplete s g life n cid status dw0) := by
  unfold State.stComplete; with_reducible repeat' (first | exact hk | apply State.addReady_keeps)

theorem State.stRelease_keeps {p : Prop} {r : State} (s : State) (c : StCmd) (hk : Keeps p r s) :
    Keeps p r (State.stRelease s c) := by
  unfold State.stRelease; with_reducible repeat' (first | assumption | apply State.failReads_keeps | apply State.raiseLine_keeps | (apply foldl_keeps; rotate_left; intros) | (fail_if_no_progress (refine keeps_mk ?_ rfl rfl rfl)))

theorem State.stFinish_keeps {p : Prop} {r : State} (s : State) (c : StCmd) (status : Nat) (dw0 : Nat) (hk : Keeps p r s) :
    Keeps p r (State.stFinish s c status dw0) := by
  unfold State.stFinish; with_reducible repeat' (first | exact hk | apply State.stRelease_keeps | apply State.stComplete_keeps | apply State.bump_keeps | split | dsimp only)

theorem State.connFail_keeps {p : Prop} {r : State} (s : State) (conn : Nat) (cause : Nat) (hk : Keeps p r s) :
    Keeps p r (State.connFail s conn cause) := by
  unfold State.connFail; with_reducible repeat' (first | assumption | apply State.setConn_keeps | apply State.oflEvent_keeps | apply State.setConnRun_keeps | apply State.stFinish_keeps | (apply foldl_keeps; rotate_left; intros) | split)

theorem State.stWant_keeps {p : Prop} {r : State} (s : State) (c : StCmd) (why : ReadFor) (a : Nat) (n : Nat) (hk : Keeps p r s) :
    Keeps p r (State.stWant s c why a n) := by
  unfold State.stWant; with_reducible repeat' (first | exact hk | (fail_if_no_progress (refine keeps_mk ?_ rfl rfl rfl)))

theorem State.stCapsule_keeps {p : Prop} {r : State} (s : State) (c : StCmd) (slba : Nat) (blocks : Nat) (hk : Keeps p r s) :
    Keeps p r (State.stCapsule s c slba blocks) := by
  unfold State.stCapsule; with_reducible repeat' (first | exact hk | apply State.setCmd_keeps | apply State.stFrame_keeps)

theorem State.stCipher_keeps {p : Prop} {r : State} (s : State) (c : StCmd) (op : Nat) (first : Nat) (blocks : List (Nat × List Byte)) (hk : Keeps p r s) :
    Keeps p r (State.stCipher s c op first blocks) := by
  unfold State.stCipher; with_reducible repeat' (first | assumption | apply State.submitCipher_keeps | (apply foldl_keeps; rotate_left; intros))

theorem State.stZeroes_keeps {p : Prop} {r : State} (s : State) (c : StCmd) (hk : Keeps p r s) :
    Keeps p r (State.stZeroes s c) := by
  unfold State.stZeroes; with_reducible repeat' (first | exact hk | apply State.setCmd_keeps | apply State.stCipher_keeps)

theorem State.stPaged_keeps {p : Prop} {r : State} (s : State) (c : StCmd) (hk : Keeps p r s) :
    Keeps p r (State.stPaged s c) := by
  unfold State.stPaged; with_reducible repeat' (first | assumption | apply State.setCmd_keeps | apply State.stCapsule_keeps | apply State.stWant_keeps | (apply foldl_keeps; rotate_left; intros) | split)

theorem State.stPages_keeps {p : Prop} {r : State} (s : State) (c : StCmd) (hk : Keeps p r s) :
    Keeps p r (State.stPages s c) := by
  unfold State.stPages; with_reducible repeat' (first | exact hk | apply State.stPaged_keeps | apply State.setCmd_keeps | apply State.stWant_keeps | split)

theorem State.stList_keeps {p : Prop} {r : State} (s : State) (id : Nat) (data : List Byte) (hk : Keeps p r s) :
    Keeps p r (State.stList s id data) := by
  unfold State.stList; with_reducible repeat' (first | exact hk | apply State.stPages_keeps | split)

theorem State.stFetched_keeps {p : Prop} {r : State} (s : State) (c : StCmd) (hk : Keeps p r s) :
    Keeps p r (State.stFetched s c) := by
  unfold State.stFetched; with_reducible repeat' (first | exact hk | apply State.stCapsule_keeps | apply State.stFinish_keeps | apply State.setCmd_keeps | apply State.stCipher_keeps | split | dsimp only)

theorem State.stPart_keeps {p : Prop} {r : State} (s : State) (id : Nat) (part : Nat) (data : List Byte) (hk : Keeps p r s) :
    Keeps p r (State.stPart s id part data) := by
  unfold State.stPart; with_reducible repeat' (first | exact hk | apply State.setCmd_keeps | apply State.stFetched_keeps | split | dsimp only)

theorem State.stAbort_keeps {p : Prop} {r : State} (s : State) (id : Nat) (hk : Keeps p r s) :
    Keeps p r (State.stAbort s id) := by
  unfold State.stAbort; with_reducible repeat' (first | exact hk | apply State.stFinish_keeps | split)

theorem State.stAnswered_keeps {p : Prop} {r : State} (s : State) (c : StCmd) (hk : Keeps p r s) :
    Keeps p r (State.stAnswered s c) := by
  unfold State.stAnswered; with_reducible repeat' (first | exact hk | apply State.setCmd_keeps | apply State.stZeroes_keeps | apply State.stFinish_keeps | split | dsimp only)

theorem State.stResult_keeps {p : Prop} {r : State} (s : State) (r0 : CipherResult) (hk : Keeps p r s) :
    Keeps p r (State.stResult s r0) := by
  unfold State.stResult; with_reducible repeat' (first | assumption | apply State.stAnswered_keeps | apply State.stFinish_keeps | apply State.hostWrite_keeps | apply State.setCmd_keeps | apply State.stCapsule_keeps | (apply foldl_fst_keeps; rotate_left; intros) | split | dsimp only)

theorem State.settleStorage_keeps {p : Prop} {r : State} (s : State) (hk : Keeps p r s) :
    Keeps p r (State.settleStorage s) := by
  unfold State.settleStorage; with_reducible repeat' (first | assumption | apply State.stResult_keeps | (apply foldl_keeps; rotate_left; intros) | (fail_if_no_progress (refine keeps_mk ?_ rfl rfl rfl)))

theorem State.settle_keeps {p : Prop} {r : State} (s : State) (hk : Keeps p r s) :
    Keeps p r (State.settle s) := by
  unfold State.settle; with_reducible repeat' (first | exact hk | apply State.settleTunnel_keeps | apply State.settleStorage_keeps)

theorem State.stIdentify_keeps {p : Prop} {r : State} (s : State) (g : Nat) (n : Nat) (sqe : List Byte) (hk : Keeps p r s) :
    Keeps p r (State.stIdentify s g n sqe) := by
  unfold State.stIdentify; with_reducible repeat' (first | assumption | apply State.stComplete_keeps | apply State.hostWrite_keeps | (apply foldl_fst_keeps; rotate_left; intros) | split)

theorem State.takeStorage_keeps {p : Prop} {r : State} (s : State) (g : Nat) (n : Nat) (sqe : List Byte) (hk : Keeps p r s) :
    Keeps p r (State.takeStorage s g n sqe) := by
  unfold State.takeStorage; with_reducible repeat' (first | exact hk | apply State.takeEntries_keeps | apply State.prefetch_keeps | apply State.stComplete_keeps | apply State.stIdentify_keeps | apply State.chargeShaper_keeps | apply State.stCapsule_keeps | apply State.stZeroes_keeps | apply State.stPages_keeps | (fail_if_no_progress (refine keeps_mk ?_ rfl rfl rfl)) | split | dsimp only)

theorem State.stAgain_keeps {p : Prop} {r : State} (s : State) (die : Nat) (b : List Byte) (list : List SentFrame) (hk : Keeps p r s) :
    Keeps p r (State.stAgain s die b list) := by
  unfold State.stAgain; with_reducible repeat' (first | assumption | apply State.stEmit_keeps | (apply foldl_keeps; rotate_left; intros))

theorem State.stResend_keeps {p : Prop} {r : State} (s : State) (die : Nat) (conn : Nat) (seq : Option Nat) (hk : Keeps p r s) :
    Keeps p r (State.stResend s die conn seq) := by
  unfold State.stResend; with_reducible repeat' (first | exact hk | apply State.connFail_keeps | apply State.setConnRun_keeps | apply State.stAgain_keeps | split | dsimp only)

theorem State.stRnr_keeps {p : Prop} {r : State} (s : State) (die : Nat) (conn : Nat) (seq : Nat) (hk : Keeps p r s) :
    Keeps p r (State.stRnr s die conn seq) := by
  unfold State.stRnr; with_reducible repeat' (first | exact hk | apply State.connFail_keeps | apply State.setConnRun_keeps | apply State.stAgain_keeps | split | dsimp only)

theorem State.stArrive_keeps {p : Prop} {r : State} (s : State) (c : StCmd) (offset : Nat) (data : List Byte) (hk : Keeps p r s) :
    Keeps p r (State.stArrive s c offset data) := by
  unfold State.stArrive; with_reducible repeat' (first | exact hk | apply State.setCmd_keeps | apply State.stCipher_keeps | split | dsimp only)

theorem State.stCarryOut_keeps {p : Prop} {r : State} (s : State) (die : Nat) (conn : Nat) (seq : Nat) (e : StorageEvent) (hk : Keeps p r s) :
    Keeps p r (State.stCarryOut s die conn seq e) := by
  unfold State.stCarryOut; with_reducible repeat' (first | exact hk | apply State.stReadResponse_keeps | apply State.stData_keeps | apply State.stArrive_keeps | apply State.stAnswered_keeps | apply State.setConnRun_keeps | split)

theorem State.stAcked_keeps {p : Prop} {r : State} (s : State) (die : Nat) (conn : Nat) (f : StorageFrame) (hk : Keeps p r s) :
    Keeps p r (State.stAcked s die conn f) := by
  unfold State.stAcked; with_reducible repeat' (first | exact hk | apply State.setConnRun_keeps | apply State.stDrain_keeps | apply State.stResend_keeps | split | dsimp only)

theorem State.stSequenced_keeps {p : Prop} {r : State} (s : State) (die : Nat) (conn : Nat) (f : StorageFrame) (hk : Keeps p r s) :
    Keeps p r (State.stSequenced s die conn f) := by
  unfold State.stSequenced; dsimp only; with_reducible repeat' (first | exact hk | apply State.connFail_keeps | apply State.setConn_keeps | apply State.stReply_keeps | apply State.stCarryOut_keeps | split)

theorem State.stEvent_keeps {p : Prop} {r : State} (s : State) (die : Nat) (conn : Nat) (f : StorageFrame) (hk : Keeps p r s) :
    Keeps p r (State.stEvent s die conn f) := by
  unfold State.stEvent; dsimp only
  have h1 := State.stAcked_keeps s die conn f hk
  generalize State.stAcked s die conn f = u at h1 ⊢
  split
  · exact State.bump_keeps _ _ _ hk
  · split
    · exact hk
    · split
      · exact h1
      · cases f.event with
        | none =>
          dsimp only
          split
          · exact h1
          · exact State.stSequenced_keeps _ _ _ _ h1
        | some e =>
          cases e <;> first
            | exact State.bump_keeps _ _ _ h1 | exact State.stResend_keeps _ _ _ _ h1 | exact State.stRnr_keeps _ _ _ _ h1
            | exact State.connFail_keeps _ _ _ h1 | exact State.stSequenced_keeps _ _ _ _ h1

end Sys2Proof.Machine
end

