-- ==== Sys2Proof/Laws/KeepsTraffic.lean ====
section
/-! SUPPORT. What the functions of Machine/Traffic.lean keep. -/

namespace Sys2Proof.Machine

theorem State.shaperWrite_keeps {p : Prop} {r : State} (s : State) (k : ShaperKind) (i : Nat) (value : Word) (mask : Word) (hk : Keeps p r s) :
    Keeps p r (State.shaperWrite s k i value mask) := by
  unfold State.shaperWrite; with_reducible repeat' (first | exact hk | apply State.setReg_keeps | apply State.setTokens_keeps)

theorem State.setPolicer_keeps {p : Prop} {r : State} (s : State) (i : Nat) (tc : Int) (tp : Int) (hk : Keeps p r s) :
    Keeps p r (State.setPolicer s i tc tp) := by
  unfold State.setPolicer; with_reducible repeat' (first | exact hk | (fail_if_no_progress (refine keeps_mk ?_ rfl rfl rfl)))

theorem State.policerWrite_keeps {p : Prop} {r : State} (s : State) (i : Nat) (size : Bool) (value : Word) (mask : Word) (hk : Keeps p r s) :
    Keeps p r (State.policerWrite s i size value mask) := by
  unfold State.policerWrite; with_reducible repeat' (first | exact hk | apply State.setReg_keeps | apply State.setPolicer_keeps | split | dsimp only)

theorem State.meter_keeps {p : Prop} {r : State} (s : State) (i : Nat) (n : Nat) (aware : Bool) (dp : Nat) (hk : Keeps p r s) :
    Keeps p r (State.meter s i n aware dp).2 := by
  unfold State.meter; with_reducible repeat' (first | exact hk | apply State.setPolicer_keeps | split | dsimp only)

theorem State.setChange_keeps {p : Prop} {r : State} (s : State) (p0 : Nat) (v : Option Nat) (hk : Keeps p r s) :
    Keeps p r (State.setChange s p0 v) := by
  unfold State.setChange; with_reducible repeat' (first | exact hk | (fail_if_no_progress (refine keeps_mk ?_ rfl rfl rfl)))

theorem State.ttChange_keeps {p : Prop} {r : State} (s : State) (p0 : Nat) (hk : Keeps p r s) :
    Keeps p r (State.ttChange s p0) := by
  unfold State.ttChange; with_reducible repeat' (first | exact hk | apply State.setFld_keeps | apply State.setReg_keeps | apply State.setChange_keeps | split | dsimp only)

theorem State.ttCancel_keeps {p : Prop} {r : State} (s : State) (p0 : Nat) (hk : Keeps p r s) :
    Keeps p r (State.ttCancel s p0) := by
  unfold State.ttCancel; with_reducible repeat' (first | exact hk | apply State.setChange_keeps | split)

theorem State.ttCtrlWrite_keeps {p : Prop} {r : State} (s : State) (p0 : Nat) (value : Word) (mask : Word) (hk : Keeps p r s) :
    Keeps p r (State.ttCtrlWrite s p0 value mask) := by
  unfold State.ttCtrlWrite; with_reducible repeat' (first | exact hk | apply State.plainWrite_keeps | apply State.ttChange_keeps | apply State.ttCancel_keeps | split | dsimp only)

theorem State.dropOversize_keeps {p : Prop} {r : State} (s : State) (p0 : Nat) (c : Nat) (w : Nat) (hk : Keeps p r s) :
    Keeps p r (State.dropOversize s p0 c w) := by
  unfold State.dropOversize; with_reducible repeat' (first | exact hk | apply State.discardCopy_keeps | apply State.collect_keeps | split)

theorem State.gateChange_keeps {p : Prop} {r : State} (s : State) (p0 : Nat) (hk : Keeps p r s) :
    Keeps p r (State.gateChange s p0) := by
  unfold State.gateChange; with_reducible repeat' (first | assumption | apply State.dropOversize_keeps | (apply foldl_keeps; rotate_left; intros) | split)

theorem State.ttChangeTime_keeps {p : Prop} {r : State} (s : State) (p0 : Nat) (hk : Keeps p r s) :
    Keeps p r (State.ttChangeTime s p0) := by
  unfold State.ttChangeTime; with_reducible repeat' (first | assumption | apply State.setChange_keeps | apply State.dropOversize_keeps | (apply foldl_keeps; rotate_left; intros) | (fail_if_no_progress (refine keeps_mk ?_ rfl rfl rfl)) | split)

theorem State.setTimeInput_keeps {p : Prop} {r : State} (s : State) (i : Nat) (v : TimeInput) (hk : Keeps p r s) :
    Keeps p r (State.setTimeInput s i v) := by
  unfold State.setTimeInput; with_reducible repeat' (first | exact hk | (fail_if_no_progress (refine keeps_mk ?_ rfl rfl rfl)))

theorem State.ppsEdge_keeps {p : Prop} {r : State} (s : State) (i : Nat) (falling : Bool) (hk : Keeps p r s) :
    Keeps p r (State.ppsEdge s i falling) := by
  unfold State.ppsEdge; with_reducible repeat' (first | exact hk | apply State.setTimeInput_keeps | apply State.cpcEvent_keeps | split)

theorem State.todByte_keeps {p : Prop} {r : State} (s : State) (i : Nat) (b : Byte) (hk : Keeps p r s) :
    Keeps p r (State.todByte s i b) := by
  unfold State.todByte; with_reducible repeat' (first | exact hk | apply State.setTimeInput_keeps)

theorem State.timeStep_keeps {p : Prop} {r : State} (s : State) (ns : Word) (hk : Keeps p r s) :
    Keeps p r (State.timeStep s ns) := by
  unfold State.timeStep; with_reducible repeat' (first | exact hk | (fail_if_no_progress (refine keeps_mk ?_ rfl rfl rfl)))

end Sys2Proof.Machine
end

