-- ==== Sys2Proof/Laws/KeepsSlice.lean ====
section
/-! SUPPORT. What the functions of Machine/Slice.lean keep. -/

namespace Sys2Proof.Machine

theorem State.leaveRunning_keeps {p : Prop} {r : State} (s : State) (n : Nat) (curtain : Bool) (hk : Keeps p r s) :
    Keeps p r (State.leaveRunning s n curtain) := by
  unfold State.leaveRunning; with_reducible repeat' (first | assumption | apply State.queueCurtain_keeps | apply State.queueDrop_keeps | apply State.dropCopy_keeps | apply State.retag_keeps | apply State.bump_keeps | apply State.collect_keeps | apply State.setFld_keeps | (apply foldl_keeps; rotate_left; intros) | (fail_if_no_progress (refine keeps_mk ?_ rfl rfl rfl)) | split)

theorem State.stopSlice_keeps {p : Prop} {r : State} (s : State) (n : Nat) (byHost : Bool) (status : Nat) (hk : Keeps p r s) :
    Keeps p r (State.stopSlice s n byHost status) := by
  unfold State.stopSlice; with_reducible repeat' (first | exact hk | apply State.haltChannels_keeps | apply State.leaveRunning_keeps | apply State.advance_keeps | apply State.setFld_keeps | (fail_if_no_progress (refine keeps_mk ?_ rfl rfl rfl)) | split | dsimp only)

theorem State.curtainSlice_keeps {p : Prop} {r : State} (s : State) (n : Nat) (hk : Keeps p r s) :
    Keeps p r (State.curtainSlice s n) := by
  unfold State.curtainSlice; with_reducible repeat' (first | assumption | apply State.haltChannels_keeps | apply State.leaveRunning_keeps | apply State.queueCurtain_keeps | apply State.setFld_keeps | (apply foldl_keeps; rotate_left; intros) | split | dsimp only)

theorem State.uncurtainSlice_keeps {p : Prop} {r : State} (s : State) (n : Nat) (hk : Keeps p r s) :
    Keeps p r (State.uncurtainSlice s n) := by
  unfold State.uncurtainSlice; with_reducible repeat' (first | assumption | apply State.queueDrop_keeps | apply State.advance_keeps | apply State.setFld_keeps | (apply foldl_keeps; rotate_left; intros) | (fail_if_no_progress (refine keeps_mk ?_ rfl rfl rfl)) | split)

theorem State.grantWrite_keeps {p : Prop} {r : State} (s : State) (n : Nat) (g : GrantReg) (value : Word) (hk : Keeps p r s) :
    Keeps p r (State.grantWrite s n g value) := by
  unfold State.grantWrite; with_reducible repeat' (first | assumption | apply State.slcRefused_keeps | apply State.queueDisable_keeps | apply State.setReg_keeps | apply State.setFld_keeps | (apply foldl_keeps; rotate_left; intros) | split | dsimp only)

theorem State.slcStatus_keeps {p : Prop} {r : State} (s : State) (c : Nat) (hk : Keeps p r s) :
    Keeps p r (State.slcStatus s c) := by
  unfold State.slcStatus; with_reducible repeat' (first | exact hk | apply State.setFld_keeps)

theorem State.createSlice_keeps {p : Prop} {r : State} (s : State) (n : Nat) (hk : Keeps p r s) :
    Keeps p r (State.createSlice s n) := by
  unfold State.createSlice; with_reducible repeat' (first | assumption | apply State.slcStatus_keeps | apply State.setFld_keeps | apply State.setQueue_keeps | (apply foldl_keeps; rotate_left; intros) | (fail_if_no_progress (refine keeps_mk ?_ rfl rfl rfl)) | split)

theorem State.stopCommand_keeps {p : Prop} {r : State} (s : State) (n : Nat) (hk : Keeps p r s) :
    Keeps p r (State.stopCommand s n) := by
  unfold State.stopCommand; with_reducible repeat' (first | exact hk | apply State.slcStatus_keeps | apply State.stopSlice_keeps | split)

theorem State.startCommand_keeps {p : Prop} {r : State} (s : State) (n : Nat) (hk : Keeps p r s) :
    Keeps p r (State.startCommand s n) := by
  unfold State.startCommand; with_reducible repeat' (first | exact hk | apply State.slcStatus_keeps | apply State.setFld_keeps | split)

theorem State.removeSlice_keeps {p : Prop} {r : State} (s : State) (n : Nat) (hk : Keeps p r s) :
    Keeps p r (State.removeSlice s n) := by
  unfold State.removeSlice; with_reducible repeat' (first | assumption | apply State.slcStatus_keeps | apply State.haltChannels_keeps | apply State.leaveRunning_keeps | apply State.queueDrop_keeps | apply State.advance_keeps | apply State.setFld_keeps | (apply foldl_keeps; rotate_left; intros) | split)

theorem State.sliceCommand_keeps {p : Prop} {r : State} (s : State) (op : Nat) (n : Nat) (hk : Keeps p r s) :
    Keeps p r (State.sliceCommand s op n) := by
  unfold State.sliceCommand; with_reducible repeat' (first | exact hk | apply State.createSlice_keeps | apply State.stopCommand_keeps | apply State.startCommand_keeps | apply State.removeSlice_keeps | apply State.slcStatus_keeps | split)

theorem State.autoRestart_keeps {p : Prop} {r : State} (s : State) (n : Nat) (hk : Keeps p r s) :
    Keeps p r (State.autoRestart s n) := by
  unfold State.autoRestart; with_reducible repeat' (first | exact hk | apply State.setFld_keeps | split | dsimp only)

theorem State.peerShare_keeps {p : Prop} {r : State} (s : State) (l : Nat) (value : Word) (hk : Keeps p r s) :
    Keeps p r (State.peerShare s l value) := by
  unfold State.peerShare; with_reducible repeat' (first | exact hk | apply State.slcRefused_keeps | apply State.setFld_keeps | split | dsimp only)

theorem State.queueCfg_keeps {p : Prop} {r : State} (s : State) (g : Nat) (cls : Nat) (kind : Nat) (hk : Keeps p r s) :
    Keeps p r (State.queueCfg s g cls kind) := by
  unfold State.queueCfg; with_reducible repeat' (first | exact hk | apply State.setFld_keeps | apply State.slcRefused_keeps | split | dsimp only)

theorem State.planQueue_keeps {p : Prop} {r : State} (s : State) (g : Nat) (v : Nat) (hk : Keeps p r s) :
    Keeps p r (State.planQueue s g v) := by
  unfold State.planQueue; with_reducible repeat' (first | exact hk | apply State.queueCfg_keeps)

theorem State.planRest_keeps {p : Prop} {r : State} (s : State) (n : Nat) (e : List Byte) (hk : Keeps p r s) :
    Keeps p r (State.planRest s n e) := by
  unfold State.planRest; with_reducible repeat' (first | assumption | apply State.setFld_keeps | apply State.shaperWrite_keeps | apply State.planQueue_keeps | (apply foldl_keeps; rotate_left; intros) | (fail_if_no_progress (refine keeps_mk ?_ rfl rfl rfl)) | split)

theorem State.planCreate_keeps {p : Prop} {r : State} (s : State) (e : List Byte) (hk : Keeps p r s) :
    Keeps p r (State.planCreate s e).2 := by
  unfold State.planCreate; with_reducible repeat' (first | exact hk | apply State.setReg_keeps | apply State.planRest_keeps | apply State.createSlice_keeps | split | dsimp only)

theorem State.planAmend_keeps {p : Prop} {r : State} (s : State) (e : List Byte) (hk : Keeps p r s) :
    Keeps p r (State.planAmend s e).2 := by
  unfold State.planAmend; with_reducible repeat' (first | exact hk | apply State.planCreate_keeps | apply State.setFld_keeps | apply State.grantWrite_keeps | apply State.planRest_keeps | split | dsimp only)

theorem State.planSpace_keeps {p : Prop} {r : State} (s : State) (x : Nat × List Byte) (hk : Keeps p r s) :
    Keeps p r (State.planSpace s x).2 := by
  unfold State.planSpace; with_reducible repeat' (first | exact hk | apply State.setSpace_keeps | split)

theorem State.applySlicePlan_keeps {p : Prop} {r : State} (s : State) (body : List Byte) (hk : Keeps p r s) :
    Keeps p r (State.applySlicePlan s body) := by
  unfold State.applySlicePlan; with_reducible repeat' (first | assumption | apply State.setFld_keeps | apply State.containedFault_keeps | apply State.planCreate_keeps | apply State.planSpace_keeps | (apply foldl_keeps; rotate_left; intros) | split | dsimp only)

end Sys2Proof.Machine
end

