-- ==== Sys2Proof/Laws/KeepsHostEvents.lean ====
section
/-! SUPPORT. What the functions of Machine/HostEvents.lean keep. -/

namespace Sys2Proof.Machine

theorem State.chanIssue_keeps {p : Prop} {r : State} (s : State) (c : Nat) (hk : Keeps p r s) (t : State)
    (h : State.chanIssue s c = .inr t) : Keeps p r t := by
  unfold State.chanIssue at h; dsimp only at h
  repeat' split at h
  all_goals first | cases h; done | (injection h with h; subst h; repeat' (first | with_reducible exact hk | with_reducible apply State.setChan_keeps | with_reducible apply State.blockRead_keeps | split))

theorem State.reissue_keeps {p : Prop} {r : State} (s : State) (w : Want) (hk : Keeps p r s) :
    Keeps p r (State.reissue s w) := by
  unfold State.reissue; with_reducible repeat' (first | exact hk | apply State.bump_keeps | (fail_if_no_progress (refine keeps_mk ?_ rfl rfl rfl)))

theorem State.readLost_keeps {p : Prop} {r : State} (s : State) (w : Want) (hk : Keeps p r s) :
    Keeps p r (State.readLost s w) := by
  unfold State.readLost; with_reducible repeat' (first | exact hk | apply State.queueError_keeps | apply State.bump_keeps | apply State.txFail_keeps | apply State.stAbort_keeps | apply State.chanHalt_keeps | split)

theorem State.readFailed_keeps {p : Prop} {r : State} (s : State) (w : Want) (hk : Keeps p r s) :
    Keeps p r (State.readFailed s w) := by
  unfold State.readFailed; with_reducible repeat' (first | exact hk | apply State.setChan_keeps | apply State.reissue_keeps | apply State.readLost_keeps | split | dsimp only)

theorem State.readStale_keeps {p : Prop} {r : State} (s : State) (w : Want) (hk : Keeps p r s) :
    Keeps p r (State.readStale s w) := by
  unfold State.readStale; with_reducible repeat' (first | exact hk | apply State.bump_keeps | apply State.txFail_keeps | apply State.stAbort_keeps | split)

theorem State.readDone_keeps {p : Prop} {r : State} (s : State) (r0 : HostRead) (hk : Keeps p r s) :
    Keeps p r (State.readDone s r0) := by
  unfold State.readDone; with_reducible repeat' (first | exact hk | apply State.readStale_keeps | apply State.txPart_keeps | apply State.stList_keeps | apply State.stPart_keeps | apply State.setChan_keeps | apply State.blockRead_keeps | (fail_if_no_progress (refine keeps_mk ?_ rfl rfl rfl)) | split | dsimp only)

theorem State.streamFails_keeps {p : Prop} {r : State} (s : State) (l : Nat) (i : Nat) (hk : Keeps p r s) :
    Keeps p r (State.streamFails s l i) := by
  unfold State.streamFails; with_reducible repeat' (first | exact hk | apply State.setFld_keeps | apply State.bump_keeps | apply State.aer_keeps | (fail_if_no_progress (refine keeps_mk ?_ rfl rfl rfl)))

theorem State.completionPiece_keeps {p : Prop} {r : State} (s : State) (l : Nat) (tag : Nat) (c : CplPiece) (hk : Keeps p r s) :
    Keeps p r (State.completionPiece s l tag c) := by
  unfold State.completionPiece; with_reducible repeat' (first | exact hk | apply State.discardPiece_keeps | apply State.bump_keeps | apply State.aer_keeps | apply State.setRead_keeps | apply State.failReads_keeps | apply State.readFailed_keeps | apply State.readDone_keeps | split | dsimp only)

theorem State.completion_keeps {p : Prop} {r : State} (s : State) (l : Nat) (tag : Nat) (c : CplPiece) (hk : Keeps p r s) :
    Keeps p r (State.completion s l tag c) := by
  unfold State.completion; with_reducible repeat' (first | exact hk | apply State.completionPiece_keeps | apply State.streamFails_keeps | split)

theorem State.completionTimeout_keeps {p : Prop} {r : State} (s : State) (l : Nat) (tag : Nat) (hk : Keeps p r s) :
    Keeps p r (State.completionTimeout s l tag) := by
  unfold State.completionTimeout; with_reducible repeat' (first | exact hk | apply State.bump_keeps | apply State.aer_keeps | apply State.failReads_keeps | apply State.retireTag_keeps | apply State.readFailed_keeps | split | dsimp only)

theorem State.quarantineEnd_keeps {p : Prop} {r : State} (s : State) (h0 : Nat) (tag : Nat) (hk : Keeps p r s) :
    Keeps p r (State.quarantineEnd s h0 tag) := by
  unfold State.quarantineEnd; with_reducible repeat' (first | exact hk | (fail_if_no_progress (refine keeps_mk ?_ rfl rfl rfl)))

theorem State.issueWant_keeps {p : Prop} {r : State} (s : State) (w : Want) (tags : List Nat) (hk : Keeps p r s) (t : State) (h : State.issueWant s w tags = some t) :
    Keeps p r t := State.issueRead_keeps _ _ _ (keeps_mk hk rfl rfl rfl) t h

theorem State.readTurn_keeps {p : Prop} {r : State} (s : State) (h0 : Nat) (tags : List Nat) (hk : Keeps p r s) :
    Keeps p r (State.readTurn s h0 tags) := by
  unfold State.readTurn; dsimp only
  split
  · exact hk
  · split
    · split
      · rename_i h; exact keeps_mk (State.issueWant_keeps _ _ _ hk _ h) rfl rfl rfl
      · exact hk
    · split
      · rename_i h; exact keeps_mk (State.chanIssue_keeps _ _ hk _ h) rfl rfl rfl
      · split
        · exact hk
        · split
          · rename_i h; exact keeps_mk (State.setChan_keeps _ _ _ (State.issueRead_keeps _ _ _ hk _ h)) rfl rfl rfl
          · exact hk

theorem State.dropTaken_keeps {p : Prop} {r : State} (s : State) (l : Nat) (hk : Keeps p r s) :
    Keeps p r (State.dropTaken s l) := by
  unfold State.dropTaken; with_reducible repeat' (first | assumption | apply State.bumpBy_keeps | apply State.stFinish_keeps | (apply foldl_keeps; rotate_left; intros) | (fail_if_no_progress (refine keeps_mk ?_ rfl rfl rfl)))

theorem State.masterStop_keeps {p : Prop} {r : State} (s : State) (l : Nat) (hk : Keeps p r s) :
    Keeps p r (State.masterStop s l) := by
  unfold State.masterStop; with_reducible repeat' (first | assumption | apply State.withdrawHeld_keeps | apply State.failReads_keeps | apply State.haltChannels_keeps | apply State.stopSlice_keeps | apply State.dropTaken_keeps | (apply foldl_keeps; rotate_left; intros))

theorem State.freshSizes_keeps {p : Prop} {r : State} (s : State) (l : Nat) (hk : Keeps p r s) :
    Keeps p r (State.freshSizes s l) := by
  unfold State.freshSizes; with_reducible repeat' (first | exact hk | apply State.setHostLink_keeps)

theorem State.resetFunc_keeps {p : Prop} {r : State} (s : State) (l : Nat) (fn : Nat) (flr : Bool) (hk : Keeps p r s) :
    Keeps p r (State.resetFunc s l fn flr) := by
  unfold State.resetFunc; with_reducible repeat' (first | exact hk | apply State.setFunc_keeps | apply State.freshSizes_keeps | split)

theorem State.functionReset_keeps {p : Prop} {r : State} (s : State) (l : Nat) (fn : Nat) (hk : Keeps p r s) :
    Keeps p r (State.functionReset s l fn) := by
  unfold State.functionReset; with_reducible repeat' (first | exact hk | apply State.bump_keeps | apply State.retireLink_keeps | apply State.masterStop_keeps | apply State.resetFunc_keeps | split)

theorem State.hostLinkDown_keeps {p : Prop} {r : State} (s : State) (l : Nat) (hk : Keeps p r s) :
    Keeps p r (State.hostLinkDown s l) := by
  unfold State.hostLinkDown; with_reducible repeat' (first | exact hk | apply State.functionReset_keeps | apply State.dropHeld_keeps | apply State.setHostLink_keeps)

theorem State.perstAssert_keeps {p : Prop} {r : State} (s : State) (h0 : Nat) (hk : Keeps p r s) :
    Keeps p r (State.perstAssert s h0) := by
  unfold State.perstAssert; with_reducible repeat' (first | assumption | apply State.retireLink_keeps | apply State.masterStop_keeps | apply State.dropHeld_keeps | apply State.resetFunc_keeps | apply State.setHostLink_keeps | (apply foldl_keeps; rotate_left; intros) | (fail_if_no_progress (refine keeps_mk ?_ rfl rfl rfl)))

theorem State.perstRelease_keeps {p : Prop} {r : State} (s : State) (h0 : Nat) (hk : Keeps p r s) :
    Keeps p r (State.perstRelease s h0) := by
  unfold State.perstRelease; with_reducible repeat' (first | exact hk | (fail_if_no_progress (refine keeps_mk ?_ rfl rfl rfl)) | split)

theorem State.linkTrained_keeps {p : Prop} {r : State} (s : State) (l : Nat) (flit : Bool) (speed : Nat) (width : Nat) (hk : Keeps p r s) :
    Keeps p r (State.linkTrained s l flit speed width) := by
  unfold State.linkTrained; with_reducible repeat' (first | exact hk | apply State.setHostLink_keeps | split)

theorem State.masterClear_keeps {p : Prop} {r : State} (s : State) (l : Nat) (c : MasterStop) (hk : Keeps p r s) :
    Keeps p r (State.masterClear s l c) := by
  unfold State.masterClear; with_reducible repeat' (first | exact hk | apply State.masterStop_keeps | apply State.setFunc_keeps)

theorem State.barResize_keeps {p : Prop} {r : State} (s : State) (l : Nat) (bar2 : Bool) (log2 : Nat) (hk : Keeps p r s) :
    Keeps p r (State.barResize s l bar2 log2) := by
  unfold State.barResize; with_reducible repeat' (first | exact hk | apply State.setHostLink_keeps | split | dsimp only)

theorem State.cfgWrite_keeps {p : Prop} {r : State} (s : State) (l : Nat) (fn : Nat) (reg : Nat) (v : BitVec 32) (hk : Keeps p r s) :
    Keeps p r (State.cfgWrite s l fn reg v) := by
  unfold State.cfgWrite; with_reducible repeat' (first | exact hk | apply State.setFunc_keeps | apply State.masterStop_keeps | apply State.flushMsix_keeps | apply State.functionReset_keeps | apply State.barResize_keeps | split | dsimp only)

theorem State.configRequest_keeps {p : Prop} {r : State} (s : State) (l : Nat) (fn : Nat) (reg : Nat) (w : Option (BitVec 32 × BitVec 4)) (hk : Keeps p r s) :
    Keeps p r (State.configRequest s l fn reg w) := by
  unfold State.configRequest; with_reducible repeat' (first | exact hk | apply State.bump_keeps | apply State.emit_keeps | apply State.cfgWrite_keeps | split)

end Sys2Proof.Machine
end

