-- ==== Sys2Proof/Laws/KeepsTroupe.lean ====
section
/-! SUPPORT. What the functions of Machine/Troupe.lean keep. -/

namespace Sys2Proof.Machine

theorem State.threadStart_keeps {p : Prop} {r : State} (s : State) (t0 : Nat) (pc : Nat) (hk : Keeps p r s) :
    Keeps p r (State.threadStart s t0 pc) := by
  unfold State.threadStart; with_reducible repeat' (first | exact hk | apply State.setThread_keeps | apply State.setReg_keeps)

theorem State.threadStop_keeps {p : Prop} {r : State} (s : State) (t0 : Nat) (hk : Keeps p r s) :
    Keeps p r (State.threadStop s t0) := by
  unfold State.threadStop; with_reducible repeat' (first | exact hk | apply State.setThread_keeps | split | dsimp only)

theorem State.coreReset_keeps {p : Prop} {r : State} (s : State) (k : Nat) (cause : Nat) (hk : Keeps p r s) :
    Keeps p r (State.coreReset s k cause) := by
  unfold State.coreReset; with_reducible repeat' (first | assumption | apply State.setThread_keeps | apply State.setCore_keeps | apply State.touchPairs_keeps | apply State.setFld_keeps | apply State.bump_keeps | apply State.emit_keeps | apply State.cpcEvent_keeps | (apply foldl_keeps; rotate_left; intros) | (fail_if_no_progress (refine keeps_mk ?_ rfl rfl rfl)))

theorem State.reloadDmem_keeps {p : Prop} {r : State} (s : State) (k : Nat) (hk : Keeps p r s) :
    Keeps p r (State.reloadDmem s k) := keeps_mem hk id id id id id id SMap.wf_filter id

theorem State.coreResetDone_keeps {p : Prop} {r : State} (s : State) (k : Nat) (hk : Keeps p r s) :
    Keeps p r (State.coreResetDone s k) := by
  unfold State.coreResetDone; with_reducible repeat' (first | exact hk | apply State.reloadDmem_keeps | apply State.setCore_keeps | apply State.threadStart_keeps | split)

theorem State.threadFault_keeps {p : Prop} {r : State} (s : State) (t0 : Nat) (cause : Nat) (tval : Word) (hk : Keeps p r s) :
    Keeps p r (State.threadFault s t0 cause tval) := by
  unfold State.threadFault; with_reducible repeat' (first | exact hk | apply State.setReg_keeps | apply State.coreReset_keeps | apply State.setThread_keeps | apply State.setEvent_keeps | apply State.bump_keeps | split)

theorem State.threadControl_keeps {p : Prop} {r : State} (s : State) (r0 : Requester) (t0 : Nat) (op : Nat) (pc : Nat) (hk : Keeps p r s) :
    Keeps p r (State.threadControl s r0 t0 op pc) := by
  unfold State.threadControl; with_reducible repeat' (first | exact hk | apply State.threadStart_keeps | apply State.threadStop_keeps | split)

theorem State.eventSet_keeps {p : Prop} {r : State} (s : State) (r0 : Requester) (t0 : Nat) (events : Nat) (hk : Keeps p r s) :
    Keeps p r (State.eventSet s r0 t0 events) := by
  unfold State.eventSet; with_reducible repeat' (first | assumption | apply State.setEvent_keeps | (apply foldl_keeps; rotate_left; intros) | split | dsimp only)

theorem State.coreTick_keeps {p : Prop} {r : State} (s : State) (k : Nat) (hk : Keeps p r s) :
    Keeps p r (State.coreTick s k) := by
  unfold State.coreTick; with_reducible repeat' (first | exact hk | apply State.setCore_keeps)

theorem State.coresTick_keeps {p : Prop} {r : State} (s : State) (hk : Keeps p r s) :
    Keeps p r (State.coresTick s) := by
  unfold State.coresTick; with_reducible repeat' (first | assumption | apply State.coreTick_keeps | (apply foldl_keeps; rotate_left; intros))

theorem State.stallRaised_keeps {p : Prop} {r : State} (s : State) (k : Nat) (hk : Keeps p r s) :
    Keeps p r (State.stallRaised s k) := by
  unfold State.stallRaised; with_reducible repeat' (first | exact hk | apply State.setCore_keeps | apply State.setEvent_keeps | apply State.bump_keeps | split)

theorem State.stallReset_keeps {p : Prop} {r : State} (s : State) (k : Nat) (hk : Keeps p r s) :
    Keeps p r (State.stallReset s k) := by
  unfold State.stallReset; with_reducible repeat' (first | exact hk | apply State.coreReset_keeps | split)

theorem State.stallClear_keeps {p : Prop} {r : State} (s : State) (k : Nat) (hk : Keeps p r s) :
    Keeps p r (State.stallClear s k) := by
  unfold State.stallClear; with_reducible repeat' (first | exact hk | apply State.setCore_keeps)

theorem State.issued_keeps {p : Prop} {r : State} (s : State) (t0 : Nat) (hk : Keeps p r s) :
    Keeps p r (State.issued s t0) := by
  unfold State.issued; with_reducible repeat' (first | exact hk | apply State.setCore_keeps | apply State.stallClear_keeps | split)

theorem State.debugHalt_keeps {p : Prop} {r : State} (s : State) (t0 : Nat) (hk : Keeps p r s) :
    Keeps p r (State.debugHalt s t0) := by
  unfold State.debugHalt; with_reducible repeat' (first | exact hk | apply State.setThread_keeps | split | dsimp only)

theorem State.debugResume_keeps {p : Prop} {r : State} (s : State) (t0 : Nat) (hk : Keeps p r s) :
    Keeps p r (State.debugResume s t0) := by
  unfold State.debugResume; with_reducible repeat' (first | exact hk | apply State.setThread_keeps | split | dsimp only)

theorem State.writePlace_keeps {p : Prop} {r : State} (s : State) (p0 : Place) (bs : List Byte) (hk : Keeps p r s) :
    Keeps p r (State.writePlace s p0 bs) := by
  unfold State.writePlace; with_reducible repeat' (first | exact hk | apply State.writeDmem_keeps | apply State.writeShared_keeps | apply State.writeWindow_keeps | split)

theorem State.opResult_keeps {p : Prop} {r : State} (s : State) (t0 : Nat) (c : Nat) (result : List Byte) (hk : Keeps p r s) :
    Keeps p r (State.opResult s t0 c result) := by
  unfold State.opResult; with_reducible repeat' (first | exact hk | (fail_if_no_progress (refine keeps_mk ?_ rfl rfl rfl)))

theorem State.cipherOp_keeps {p : Prop} {r : State} (s : State) (t0 : Nat) (b : List Byte) (hk : Keeps p r s) :
    Keeps p r (State.cipherOp s t0 b) := by
  unfold State.cipherOp; with_reducible repeat' (first | exact hk | apply State.touchPairs_keeps | apply State.submitCipher_keeps | apply State.opResult_keeps | split | dsimp only)

theorem State.settleThreads_keeps {p : Prop} {r : State} (s : State) (hk : Keeps p r s) :
    Keeps p r (State.settleThreads s) := by
  unfold State.settleThreads; with_reducible repeat' (first | assumption | apply State.touchPairs_keeps | apply State.writePlace_keeps | apply State.opResult_keeps | (apply foldl_keeps; rotate_left; intros) | (fail_if_no_progress (refine keeps_mk ?_ rfl rfl rfl)) | split | dsimp only)

theorem State.settleAll_keeps {p : Prop} {r : State} (s : State) (hk : Keeps p r s) :
    Keeps p r (State.settleAll s) := by
  unfold State.settleAll; with_reducible repeat' (first | exact hk | apply State.settle_keeps | apply State.settleThreads_keeps)

theorem State.threadTable_keeps {p : Prop} {r : State} (s : State) (t0 : Nat) (op : Nat) (hk : Keeps p r s) :
    Keeps p r (State.threadTable s t0 op) := by
  unfold State.threadTable; with_reducible repeat' (first | exact hk | apply State.opResult_keeps | apply State.gateRefused_keeps | apply State.tableCommand_keeps | (fail_if_no_progress (refine keeps_mk ?_ rfl rfl rfl)) | split)

theorem State.threadTableDone_keeps {p : Prop} {r : State} (s : State) (t0 : Nat) (r0 : TableResult) (hk : Keeps p r s) :
    Keeps p r (State.threadTableDone s t0 r0) := by
  unfold State.threadTableDone; with_reducible repeat' (first | exact hk | apply State.writeDmem_keeps | apply State.opResult_keeps | split)

theorem State.moverOp_keeps {p : Prop} {r : State} (s : State) (t0 : Nat) (b : List Byte) (hk : Keeps p r s) :
    Keeps p r (State.moverOp s t0 b).2 := by
  unfold State.moverOp; with_reducible repeat' (first | exact hk | apply State.setFld_keeps | apply State.chanEnable_keeps | apply State.chanAppend_keeps | apply State.chanAbort_keeps | apply State.raiseLine_keeps | split | dsimp only)

theorem State.moverStart_keeps {p : Prop} {r : State} (s : State) (t0 : Nat) (hk : Keeps p r s) :
    Keeps p r (State.moverStart s t0) := by
  unfold State.moverStart; with_reducible repeat' (first | exact hk | apply State.moverOp_keeps | apply State.opResult_keeps | split)

theorem State.emitOp_keeps {p : Prop} {r : State} (s : State) (t0 : Nat) (o : ChanOp) (hk : Keeps p r s) :
    Keeps p r (State.emitOp s t0 o) := by
  unfold State.emitOp; with_reducible repeat' (first | exact hk | apply State.opResult_keeps | apply State.newFrame_keeps | split | dsimp only)

theorem State.commit_keeps {p : Prop} {r : State} (s : State) (t0 : Nat) (c : Nat) (frame : List Byte) (hk : Keeps p r s) :
    Keeps p r (State.commit s t0 c frame).2 := by
  unfold State.commit; with_reducible repeat' (first | exact hk | apply State.cipherOp_keeps | (fail_if_no_progress (refine keeps_mk ?_ rfl rfl rfl)) | split)

theorem State.runOp_keeps {p : Prop} {r : State} (s : State) (t0 : Nat) (c : Nat) (hk : Keeps p r s) :
    Keeps p r (State.runOp s t0 c) := by
  unfold State.runOp; with_reducible repeat' (first | exact hk | apply State.emitOp_keeps | apply State.moverOp_keeps | apply State.opResult_keeps | split)

theorem State.opDone_keeps {p : Prop} {r : State} (s : State) (t0 : Nat) (c : Nat) (hk : Keeps p r s) :
    Keeps p r (State.opDone s t0 c) := by
  unfold State.opDone; with_reducible repeat' (first | exact hk | apply State.runOp_keeps | apply State.writeDmem_keeps | apply State.setThread_keeps | apply State.setEvent_keeps | (fail_if_no_progress (refine keeps_mk ?_ rfl rfl rfl)) | split | dsimp only)

theorem State.setDq_keeps {p : Prop} {r : State} (s : State) (i : Nat) (p0 : Nat) (c : Nat) (hk : Keeps p r s) :
    Keeps p r (State.setDq s i p0 c) := by
  unfold State.setDq; with_reducible repeat' (first | exact hk | (fail_if_no_progress (refine keeps_mk ?_ rfl rfl rfl)))

theorem State.publish_keeps {p : Prop} {r : State} (s : State) (n : Nat) (q : Nat) (unit : List Byte) (hk : Keeps p r s) :
    Keeps p r (State.publish s n q unit) := by
  unfold State.publish; with_reducible repeat' (first | assumption | apply State.touchDomain_keeps | apply State.bump_keeps | apply State.writeShared_keeps | apply State.setDq_keeps | apply State.setEvent_keeps | (apply foldl_keeps; rotate_left; intros) | split | dsimp only)

theorem State.deliverTroupe_keeps {p : Prop} {r : State} (s : State) (d : Nat) (hk : Keeps p r s) :
    Keeps p r (State.deliverTroupe s d) := by
  unfold State.deliverTroupe; with_reducible repeat' (first | exact hk | apply State.publish_keeps | apply State.bump_keeps | apply State.takeArrived_keeps | split | dsimp only)

theorem State.dqRefused_keeps {p : Prop} {r : State} (s : State) (n : Nat) (hk : Keeps p r s) :
    Keeps p r (State.dqRefused s n) := by
  unfold State.dqRefused; with_reducible repeat' (first | exact hk | apply State.setFld_keeps)

theorem State.dqConsWrite_keeps {p : Prop} {r : State} (s : State) (n : Nat) (q : Nat) (cons : Nat) (hk : Keeps p r s) :
    Keeps p r (State.dqConsWrite s n q cons) := by
  unfold State.dqConsWrite; with_reducible repeat' (first | exact hk | apply State.setDq_keeps | apply State.dqRefused_keeps | split | dsimp only)

theorem State.dqCfgWrite_keeps {p : Prop} {r : State} (s : State) (n : Nat) (q : Nat) (value : Word) (hk : Keeps p r s) :
    Keeps p r (State.dqCfgWrite s n q value) := by
  unfold State.dqCfgWrite; with_reducible repeat' (first | exact hk | apply State.dqRefused_keeps | apply State.setReg_keeps | apply State.setDq_keeps | split | dsimp only)

theorem State.loadTroupe_keeps {p : Prop} {r : State} (s : State) (body : List Byte) (hk : Keeps p r s) :
    Keeps p r (State.loadTroupe s body) := by
  unfold State.loadTroupe; dsimp only
  have h1 : Keeps p r { s with trp := { body := body }, mem := { s.mem with dmem := [], shared := [] } } := by
    refine hk.stores rfl rfl rfl rfl (fun hc => ?_)
    rw [canonical_iff] at hc ⊢
    rw [sramByte_congr (s := s) (t := { s with trp := { body := body }, mem := { s.mem with dmem := [], shared := [] } }) rfl]
    obtain ⟨c1, c2, c3, c4, c5, c6, c7, c8, c9, c10, c11, c12⟩ := hc
    exact ⟨c1, c2, c3, c4, c5, c6, c7, c8, c9, c10, rfl, rfl⟩
  apply foldl_keeps
  · apply State.setFld_keeps
    apply foldl_keeps
    · apply foldl_keeps h1
      intro t a ht
      exact State.setFld_keeps _ _ _ _ (State.setFld_keeps _ _ _ _ (State.setFld_keeps _ _ _ _ ht))
    · intro t a ht; exact State.setFld_keeps _ _ _ _ ht
  · intro t a ht; exact State.threadStart_keeps _ _ _ (State.setCore_keeps _ _ _ ht)

end Sys2Proof.Machine
end

