-- ==== Sys2Proof/Laws/KeepsCallboard.lean ====
section
/-! SUPPORT. What the functions of Machine/Callboard.lean keep. -/

namespace Sys2Proof.Machine

theorem State.setStackLink_keeps {p : Prop} {r : State} (s : State) (p0 : Nat) (l : StackLink) (hk : Keeps p r s) :
    Keeps p r (State.setStackLink s p0 l) := by
  unfold State.setStackLink; with_reducible repeat' (first | exact hk | (fail_if_no_progress (refine keeps_mk ?_ rfl rfl rfl)))

theorem State.setStackPeer_keeps {p : Prop} {r : State} (s : State) (m : Nat) (v : StackPeer) (hk : Keeps p r s) :
    Keeps p r (State.setStackPeer s m v) := by
  unfold State.setStackPeer; with_reducible repeat' (first | exact hk | (fail_if_no_progress (refine keeps_mk ?_ rfl rfl rfl)))

theorem State.barodSend_keeps {p : Prop} {r : State} (s : State) (p0 : Nat) (type : Nat) (payload : List Byte) (hk : Keeps p r s) :
    Keeps p r (State.barodSend s p0 type payload) := by
  unfold State.barodSend; with_reducible repeat' (first | exact hk | apply State.setStackLink_keeps | apply State.newFrame_keeps | (fail_if_no_progress (refine keeps_mk ?_ rfl rfl rfl)))

theorem State.barodTo_keeps {p : Prop} {r : State} (s : State) (m : Nat) (type : Nat) (payload : List Byte) (hk : Keeps p r s) :
    Keeps p r (State.barodTo s m type payload) := by
  unfold State.barodTo; with_reducible repeat' (first | exact hk | apply State.barodSend_keeps | split)

theorem State.setCbSlot_keeps {p : Prop} {r : State} (s : State) (i : Nat) (w : Word) (hk : Keeps p r s) :
    Keeps p r (State.setCbSlot s i w) := by
  unfold State.setCbSlot; with_reducible repeat' (first | exact hk | (fail_if_no_progress (refine keeps_mk ?_ rfl rfl rfl)))

theorem State.cbPending_keeps {p : Prop} {r : State} (s : State) (i : Nat) (hk : Keeps p r s) :
    Keeps p r (State.cbPending s i) := by
  unfold State.cbPending; with_reducible repeat' (first | exact hk | apply State.setReg_keeps | apply State.cpcEvent_keeps)

theorem State.slotNotify_keeps {p : Prop} {r : State} (s : State) (i : Nat) (hk : Keeps p r s) :
    Keeps p r (State.slotNotify s i) := by
  unfold State.slotNotify; with_reducible repeat' (first | assumption | apply State.cbPending_keeps | apply State.sliceIrq_keeps | apply State.msix_keeps | apply State.setEvent_keeps | apply State.raiseLine_keeps | (apply foldl_keeps; rotate_left; intros) | split | dsimp only)

theorem State.slotPut_keeps {p : Prop} {r : State} (s : State) (i : Nat) (stamp : Nat) (word : BitVec 32) (hk : Keeps p r s) :
    Keeps p r (State.slotPut s i stamp word) := by
  unfold State.slotPut; with_reducible repeat' (first | exact hk | apply State.setCbSlot_keeps | apply State.barodTo_keeps | apply State.bump_keeps | apply State.slotNotify_keeps | split | dsimp only)

theorem State.slotClear_keeps {p : Prop} {r : State} (s : State) (i : Nat) (hk : Keeps p r s) :
    Keeps p r (State.slotClear s i) := by
  unfold State.slotClear; with_reducible repeat' (first | exact hk | apply State.setCbSlot_keeps)

theorem State.setTalk_keeps {p : Prop} {r : State} (s : State) (h0 : Nat) (t0 : Talk) (hk : Keeps p r s) :
    Keeps p r (State.setTalk s h0 t0) := by
  unfold State.setTalk; with_reducible repeat' (first | exact hk | (fail_if_no_progress (refine keeps_mk ?_ rfl rfl rfl)))

theorem State.talkSend_keeps {p : Prop} {r : State} (s : State) (h0 : Nat) (hk : Keeps p r s) :
    Keeps p r (State.talkSend s h0) := by
  unfold State.talkSend; with_reducible repeat' (first | exact hk | apply State.setTalk_keeps | apply State.slotPut_keeps | split | dsimp only)

theorem State.slotTaken_keeps {p : Prop} {r : State} (s : State) (i : Nat) (hk : Keeps p r s) :
    Keeps p r (State.slotTaken s i) := by
  unfold State.slotTaken; with_reducible repeat' (first | exact hk | apply State.slotClear_keeps | apply State.setTalk_keeps | apply State.talkSend_keeps | split)

theorem State.talkQueue_keeps {p : Prop} {r : State} (s : State) (h0 : Nat) (ws : List (BitVec 32)) (hk : Keeps p r s) :
    Keeps p r (State.talkQueue s h0 ws) := by
  unfold State.talkQueue; with_reducible repeat' (first | exact hk | apply State.setTalk_keeps | apply State.talkSend_keeps)

theorem State.talkAbandon_keeps {p : Prop} {r : State} (s : State) (h0 : Nat) (hk : Keeps p r s) :
    Keeps p r (State.talkAbandon s h0) := by
  unfold State.talkAbandon; with_reducible repeat' (first | exact hk | apply State.setTalk_keeps)

theorem State.talkReply_keeps {p : Prop} {r : State} (s : State) (h0 : Nat) (bytes : List Byte) (hk : Keeps p r s) :
    Keeps p r (State.talkReply s h0 bytes) := by
  unfold State.talkReply; with_reducible repeat' (first | exact hk | apply State.talkQueue_keeps)

theorem State.talkTake_keeps {p : Prop} {r : State} (s : State) (h0 : Nat) (hk : Keeps p r s) :
    Keeps p r (State.talkTake s h0).2 := by
  unfold State.talkTake; with_reducible repeat' (first | exact hk | apply State.slotClear_keeps | apply State.talkQueue_keeps | apply State.talkAbandon_keeps | apply State.setTalk_keeps | split | dsimp only)

end Sys2Proof.Machine
end

