-- ==== Sys2Proof/Laws/KeepsCurtain.lean ====
section
/-! SUPPORT. What the functions of Machine/Curtain.lean keep. -/

namespace Sys2Proof.Machine

theorem State.fallPort_keeps {p : Prop} {r : State} (s : State) (p0 : Nat) (hk : Keeps p r s) :
    Keeps p r (State.fallPort s p0) := by
  unfold State.fallPort; with_reducible repeat' (first | exact hk | apply State.portDown_keeps | apply State.discardLanding_keeps)

theorem State.fallSlice_keeps {p : Prop} {r : State} (s : State) (n : Nat) (hk : Keeps p r s) :
    Keeps p r (State.fallSlice s n) := by
  unfold State.fallSlice; with_reducible repeat' (first | assumption | apply State.lockCtx_keeps | apply State.curtainSlice_keeps | (apply foldl_keeps; rotate_left; intros))

theorem State.fallHost_keeps {p : Prop} {r : State} (s : State) (h0 : Nat) (hk : Keeps p r s) :
    Keeps p r (State.fallHost s h0) := by
  unfold State.fallHost; with_reducible repeat' (first | assumption | apply State.haltChannels_keeps | apply State.fallSlice_keeps | apply State.failReads_keeps | (apply foldl_keeps; rotate_left; intros) | (fail_if_no_progress (refine keeps_mk ?_ rfl rfl rfl)))

theorem State.fallCore_keeps {p : Prop} {r : State} (s : State) (k : Nat) (hk : Keeps p r s) :
    Keeps p r (State.fallCore s k) := by
  unfold State.fallCore; with_reducible repeat' (first | assumption | apply State.setThread_keeps | apply State.setCore_keeps | (apply foldl_keeps; rotate_left; intros) | (fail_if_no_progress (refine keeps_mk ?_ rfl rfl rfl)))

theorem State.fall_keeps {p : Prop} {r : State} (s : State) (k : ScopeKind) (i : Nat) (hk : Keeps p r s) :
    Keeps p r (State.fall s k i) := by
  unfold State.fall; with_reducible repeat' (first | assumption | apply State.fallPort_keeps | apply State.fallHost_keeps | apply State.fallSlice_keeps | apply State.engineFails_keeps | apply State.fallCore_keeps | apply State.lockOwn_keeps | apply State.lockAll_keeps | (apply foldl_keeps; rotate_left; intros) | split)

theorem State.curtainAlarm_keeps {p : Prop} {r : State} (s : State) (k : ScopeKind) (i : Nat) (r0 : Option FaultRecord) (hk : Keeps p r s) :
    Keeps p r (State.curtainAlarm s k i r0) := by
  unfold State.curtainAlarm; with_reducible repeat' (first | exact hk | apply State.alarm_keeps | apply State.nextSeq_keeps | split)

theorem State.holdDetect_keeps {p : Prop} {r : State} (s : State) (hk : Keeps p r s) :
    Keeps p r (State.holdDetect s) := by
  unfold State.holdDetect; with_reducible repeat' (first | assumption | apply State.hostLinkDown_keeps | (apply foldl_keeps; rotate_left; intros) | (fail_if_no_progress (refine keeps_mk ?_ rfl rfl rfl)))

theorem State.deviceCurtain_keeps {p : Prop} {r : State} (s : State) (why : DevCause) (cause : Nat) (r0 : Option FaultRecord) (hk : Keeps p r s) :
    Keeps p r (State.deviceCurtain s why cause r0) := by
  unfold State.deviceCurtain; with_reducible repeat' (first | exact hk | apply State.fall_keeps | apply State.settleAll_keeps | apply State.setFld_keeps | apply State.curtainAlarm_keeps | apply State.holdDetect_keeps | (fail_if_no_progress (refine keeps_mk ?_ rfl rfl rfl)) | split | dsimp only)

theorem State.curtain_keeps {p : Prop} {r : State} (s : State) (k : ScopeKind) (i : Nat) (b : Nat) (r0 : Option FaultRecord) (hk : Keeps p r s) :
    Keeps p r (State.curtain s k i b r0) := by
  unfold State.curtain; with_reducible repeat' (first | exact hk | apply State.deviceCurtain_keeps | apply State.setReg_keeps | apply State.fall_keeps | apply State.settleAll_keeps | apply State.curtainAlarm_keeps | split | dsimp only)

theorem State.liftSlice_keeps {p : Prop} {r : State} (s : State) (n : Nat) (hk : Keeps p r s) :
    Keeps p r (State.liftSlice s n) := by
  unfold State.liftSlice; with_reducible repeat' (first | assumption | apply State.unlockCtx_keeps | apply State.uncurtainSlice_keeps | (apply foldl_keeps; rotate_left; intros) | split)

theorem State.liftCore_keeps {p : Prop} {r : State} (s : State) (k : Nat) (hk : Keeps p r s) :
    Keeps p r (State.liftCore s k) := by
  unfold State.liftCore; with_reducible repeat' (first | exact hk | apply State.coreReset_keeps | split)

theorem State.resetVoted_keeps {p : Prop} {r : State} (s : State) (f : FieldAt) (hk : Keeps p r s) :
    Keeps p r (State.resetVoted s f) := by
  unfold State.resetVoted; with_reducible repeat' (first | exact hk | apply State.setReg_keeps | split)

theorem State.rewriteVoted_keeps {p : Prop} {r : State} (s : State) (k : ScopeKind) (i : Nat) (hk : Keeps p r s) :
    Keeps p r (State.rewriteVoted s k i) := by
  unfold State.rewriteVoted; with_reducible repeat' (first | assumption | apply State.resetVoted_keeps | apply State.healVoted_keeps | (apply foldl_keeps; rotate_left; intros))

theorem State.exitEnclosed_keeps {p : Prop} {r : State} (s : State) (k : ScopeKind) (i : Nat) (lift : State → State) (hk : Keeps p r s)
    (he : ∀ t, Keeps p r t → Keeps p r (lift t)) :
    Keeps p r (State.exitEnclosed s k i lift) := by
  unfold State.exitEnclosed; split
  · exact hk
  · exact he _ (State.rewriteVoted_keeps _ _ _ hk)

theorem State.lift_keeps {p : Prop} {r : State} (s : State) (k : ScopeKind) (i : Nat) (hk : Keeps p r s) :
    Keeps p r (State.lift s k i) := by
  unfold State.lift
  split
  · apply foldl_keeps hk
    intro t a ht
    exact State.exitEnclosed_keeps _ _ _ _ ht (fun _ hu => hu)
  · exact State.liftSlice_keeps _ _ hk
  · apply foldl_keeps hk
    intro t a ht
    apply foldl_keeps ht
    intro u b hu
    exact State.exitEnclosed_keeps _ _ _ _ hu (fun _ hv => State.liftSlice_keeps _ _ hv)
  · exact State.liftCore_keeps _ _ hk
  · split
    · exact State.setEngine_keeps _ _ _ hk
    · exact hk
  · exact State.unlockCtx_keeps _ _ hk
  · exact hk

theorem State.scopeStatus_keeps {p : Prop} {r : State} (s : State) (r0 : RegName) (i : Nat) (c : Nat) (hk : Keeps p r s) :
    Keeps p r (State.scopeStatus s r0 i c) := by
  unfold State.scopeStatus; with_reducible repeat' (first | exact hk | apply State.setReg_keeps)

theorem State.clearCause_keeps {p : Prop} {r : State} (s : State) (r0 : RegName) (i : Nat) (b : Nat) (hk : Keeps p r s) :
    Keeps p r (State.clearCause s r0 i b) := by
  unfold State.clearCause; with_reducible repeat' (first | exact hk | apply State.setReg_keeps)

theorem State.exitNow_keeps {p : Prop} {r : State} (s : State) (k : ScopeKind) (r0 : RegName) (i : Nat) (b : Nat) (hk : Keeps p r s) :
    Keeps p r (State.exitNow s k r0 i b) := by
  unfold State.exitNow; with_reducible repeat' (first | exact hk | apply State.rewriteVoted_keeps | apply State.clearCause_keeps | apply State.lift_keeps | split | dsimp only)

theorem State.exitScope_keeps {p : Prop} {r : State} (s : State) (k : ScopeKind) (i : Nat) (hk : Keeps p r s) :
    Keeps p r (State.exitScope s k i) := by
  unfold State.exitScope; with_reducible repeat' (first | exact hk | apply State.scopeStatus_keeps | apply State.exitNow_keeps | split)

theorem State.scopeHold_keeps {p : Prop} {r : State} (s : State) (k : ScopeKind) (i : Nat) (hold : Bool) (hk : Keeps p r s) :
    Keeps p r (State.scopeHold s k i hold) := by
  unfold State.scopeHold; with_reducible repeat' (first | exact hk | apply State.curtain_keeps | apply State.clearCause_keeps | apply State.rewriteVoted_keeps | apply State.lift_keeps | split | dsimp only)

theorem State.stackLift_keeps {p : Prop} {r : State} (s : State) (k : ScopeKind) (i : Nat) (hk : Keeps p r s) :
    Keeps p r (State.stackLift s k i) := by
  unfold State.stackLift; with_reducible repeat' (first | exact hk | apply State.clearCause_keeps | apply State.exitNow_keeps | split)

end Sys2Proof.Machine
end

