-- ==== Sys2Proof/Laws/KeepsFaults.lean ====
section
/-! SUPPORT. What the functions of Machine/Faults.lean keep. -/

namespace Sys2Proof.Machine

theorem State.countError_keeps {p : Prop} {r : State} (s : State) (c : ErrClass) (hk : Keeps p r s) :
    Keeps p r (State.countError s c) := by
  unfold State.countError; with_reducible repeat' (first | exact hk | apply State.bump_keeps | split)

theorem State.fatalBy_keeps {p : Prop} {r : State} (s : State) (deviceCause : Nat) (r0 : FaultRecord) (hk : Keeps p r s) :
    Keeps p r (State.fatalBy s deviceCause r0) := by
  unfold State.fatalBy; with_reducible repeat' (first | exact hk | apply State.bump_keeps | apply State.alarm_keeps | apply State.deviceCurtain_keeps)

theorem State.fatal_keeps {p : Prop} {r : State} (s : State) (deviceCause : Nat) (cause : Nat) (kind : ElementKind) (index : BitVec 32) (detail : BitVec 32) (hk : Keeps p r s) :
    Keeps p r (State.fatal s deviceCause cause kind index detail) := by
  unfold State.fatal; with_reducible repeat' (first | exact hk | apply State.writeRecord_keeps | apply State.fatalBy_keeps)

theorem State.containedScope_keeps {p : Prop} {r : State} (s : State) (cause : Nat) (k : ScopeKind) (i : Nat) (hk : Keeps p r s) :
    Keeps p r (State.containedScope s cause k i) := by
  unfold State.containedScope; with_reducible repeat' (first | exact hk | apply State.bump_keeps | apply State.writeRecord_keeps | apply State.curtain_keeps)

theorem State.remember_keeps {p : Prop} {r : State} (s : State) (k : ElementKind) (i : BitVec 32) (ts : List Nat) (tested : Bool) (hk : Keeps p r s) :
    Keeps p r (State.remember s k i ts tested) := by
  unfold State.remember; with_reducible repeat' (first | exact hk | (fail_if_no_progress (refine keeps_mk ?_ rfl rfl rfl)))

theorem State.backToService_keeps {p : Prop} {r : State} (s : State) (k : ElementKind) (i : Nat) (hk : Keeps p r s) :
    Keeps p r (State.backToService s k i) := by
  unfold State.backToService; with_reducible repeat' (first | exact hk | apply State.setEngine_keeps | split)

theorem State.retrainLane_keeps {p : Prop} {r : State} (s : State) (lane : Nat) (hk : Keeps p r s) :
    Keeps p r (State.retrainLane s lane) := by
  unfold State.retrainLane; with_reducible repeat' (first | exact hk | apply State.emit_keeps)

theorem State.outOfService_keeps {p : Prop} {r : State} (s : State) (k : ElementKind) (i : Nat) (hk : Keeps p r s) :
    Keeps p r (State.outOfService s k i) := by
  unfold State.outOfService; with_reducible repeat' (first | exact hk | apply State.setEngine_keeps | apply State.retrainLane_keeps | (fail_if_no_progress (refine keeps_mk ?_ rfl rfl rfl)) | split)

theorem State.retire_keeps {p : Prop} {r : State} (s : State) (r0 : FaultRecord) (k : ElementKind) (i : BitVec 32) (hk : Keeps p r s) :
    Keeps p r (State.retire s r0 k i) := by
  unfold State.retire; dsimp only
  have h1 : Keeps p r (if s.isRetired k i = true then s else { s with flt := { s.flt with retired := s.flt.retired ++ [(k, i)] } }) := by
    split
    · exact hk
    · exact keeps_mk hk rfl rfl rfl
  revert h1
  generalize (if s.isRetired k i = true then s else { s with flt := { s.flt with retired := s.flt.retired ++ [(k, i)] } }) = u
  intro h1
  split
  · exact keeps_vlt h1 (List.prefix_append _ _) (Nat.le_refl _) id
  · exact State.plainAlarm_keeps _ _ _ _ _ _ h1

theorem State.giveVerdict_keeps {p : Prop} {r : State} (s : State) (t0 : Test) (lasting : Bool) (spareLeft : Bool) (detail : BitVec 32) (hk : Keeps p r s) :
    Keeps p r (State.giveVerdict s t0 lasting spareLeft detail) := by
  unfold State.giveVerdict; with_reducible repeat' (first | assumption | apply State.bump_keeps | apply State.writeRecord_keeps | apply State.backToService_keeps | apply State.alarm_keeps | apply State.retire_keeps | apply State.fatalBy_keeps | apply State.curtain_keeps | apply State.outOfService_keeps | (apply foldl_keeps; rotate_left; intros) | (fail_if_no_progress (refine keeps_mk ?_ rfl rfl rfl)) | split)

theorem State.testVerdict_keeps {p : Prop} {r : State} (s : State) (t0 : Test) (pass : Bool) (tested : Bool) (spareLeft : Bool) (detail : BitVec 32) (hk : Keeps p r s) :
    Keeps p r (State.testVerdict s t0 pass tested spareLeft detail) := by
  unfold State.testVerdict; with_reducible repeat' (first | exact hk | apply State.remember_keeps | apply State.giveVerdict_keeps)

theorem State.selfTestEnds_keeps {p : Prop} {r : State} (s : State) (k : ElementKind) (i : BitVec 32) (pass : Bool) (spareLeft : Bool) (detail : BitVec 32) (hk : Keeps p r s) :
    Keeps p r (State.selfTestEnds s k i pass spareLeft detail) := by
  unfold State.selfTestEnds; with_reducible repeat' (first | exact hk | apply State.testVerdict_keeps | (fail_if_no_progress (refine keeps_mk ?_ rfl rfl rfl)) | split)

theorem State.testStarts_keeps {p : Prop} {r : State} (s : State) (t0 : Test) (hk : Keeps p r s) :
    Keeps p r (State.testStarts s t0) := by
  unfold State.testStarts; with_reducible repeat' (first | assumption | apply State.engineFails_keeps | apply State.settleAll_keeps | apply State.portDown_keeps | apply State.retrainLane_keeps | apply State.coreReset_keeps | (apply foldl_keeps; rotate_left; intros) | (fail_if_no_progress (refine keeps_mk ?_ rfl rfl rfl)) | split | dsimp only)

theorem State.errorHit_keeps {p : Prop} {r : State} (s : State) (e : ErrorReport) (hk : Keeps p r s) :
    Keeps p r (State.errorHit s e) := by
  unfold State.errorHit; with_reducible repeat' (first | exact hk | apply State.setEntry_keeps | apply State.setFrame_keeps | apply State.dropBadTail_keeps | apply State.lockOwn_keeps | apply State.settleAll_keeps | apply State.threadFault_keeps | split)

theorem State.untested_keeps {p : Prop} {r : State} (s : State) (e : ErrorReport) (hk : Keeps p r s) :
    Keeps p r (State.untested s e) := by
  unfold State.untested; with_reducible repeat' (first | exact hk | apply State.writeRecord_keeps | split)

theorem State.elementError_keeps {p : Prop} {r : State} (s : State) (e : ErrorReport) (hk : Keeps p r s) :
    Keeps p r (State.elementError s e) := by
  unfold State.elementError; with_reducible repeat' (first | exact hk | apply State.fatal_keeps | apply State.countError_keeps | apply State.errorHit_keeps | apply State.curtain_keeps | apply State.untested_keeps | apply State.bump_keeps | apply State.testVerdict_keeps | apply State.testStarts_keeps | split | dsimp only)

theorem State.curtainRetired_keeps {p : Prop} {r : State} (s : State) (ps : List Nat) (hk : Keeps p r s) :
    Keeps p r (State.curtainRetired s ps) := by
  unfold State.curtainRetired; with_reducible repeat' (first | assumption | apply State.curtain_keeps | (apply foldl_keeps; rotate_left; intros) | split)

theorem State.reapplyRetired_keeps {p : Prop} {r : State} (s : State) (hk : Keeps p r s) :
    Keeps p r (State.reapplyRetired s) := by
  unfold State.reapplyRetired; with_reducible repeat' (first | assumption | apply State.setEngine_keeps | apply State.outOfService_keeps | (apply foldl_keeps; rotate_left; intros) | (fail_if_no_progress (refine keeps_mk ?_ rfl rfl rfl)) | split | dsimp only)

end Sys2Proof.Machine
end

