-- ==== Sys2Proof/Laws/KeepsRdn.lean ====
section
/-! SUPPORT. What the functions of Machine/Rdn.lean keep. -/

namespace Sys2Proof.Machine

theorem State.vaultError_keeps {p : Prop} {r : State} (s : State) (hk : Keeps p r s) :
    Keeps p r (State.vaultError s) := by
  unfold State.vaultError; with_reducible repeat' (first | exact hk | apply State.lockAll_keeps | apply State.settleAll_keeps | apply State.deviceCurtain_keeps | (fail_if_no_progress (refine keeps_mk ?_ rfl rfl rfl)))

theorem State.pairCurtain_keeps {p : Prop} {r : State} (s : State) (n : Nat) (hk : Keeps p r s) :
    Keeps p r (State.pairCurtain s n) := by
  unfold State.pairCurtain; with_reducible repeat' (first | assumption | apply State.fatal_keeps | apply State.vaultError_keeps | apply State.curtain_keeps | (apply foldl_keeps; rotate_left; intros) | split)

theorem State.roleEvent_keeps {p : Prop} {r : State} (s : State) (u : Nat) (b : Nat) (hk : Keeps p r s) :
    Keeps p r (State.roleEvent s u b) := by
  unfold State.roleEvent; with_reducible repeat' (first | exact hk | apply State.unitEvent_keeps | split)

theorem State.setNumber_keeps {p : Prop} {r : State} (s : State) (u : Nat) (n : Nat) (hk : Keeps p r s) :
    Keeps p r (State.setNumber s u n) := by
  unfold State.setNumber; with_reducible repeat' (first | exact hk | apply State.setUnit_keeps)

theorem State.openGap_keeps {p : Prop} {r : State} (s : State) (n : Nat) (hk : Keeps p r s) :
    Keeps p r (State.openGap s n) := by
  unfold State.openGap; with_reducible repeat' (first | exact hk | apply State.setGap_keeps)

theorem State.closeGap_keeps {p : Prop} {r : State} (s : State) (n : Nat) (hk : Keeps p r s) :
    Keeps p r (State.closeGap s n) := by
  unfold State.closeGap; with_reducible repeat' (first | exact hk | apply State.setGap_keeps)

theorem State.equalNumbers_keeps {p : Prop} {r : State} (s : State) (n : Nat) (hk : Keeps p r s) :
    Keeps p r (State.equalNumbers s n) := by
  unfold State.equalNumbers; with_reducible repeat' (first | exact hk | apply State.containedFault_keeps | apply State.bump_keeps | apply State.roleEvent_keeps | apply State.openGap_keeps | split)

theorem State.pairLeads_keeps {p : Prop} {r : State} (s : State) (n : Nat) (hk : Keeps p r s) :
    Keeps p r (State.pairLeads s n) := by
  unfold State.pairLeads; with_reducible repeat' (first | exact hk | apply State.pairCurtain_keeps | split)

theorem State.freshUnit_keeps {p : Prop} {r : State} (s : State) (u : Nat) (v : UnitState) (hk : Keeps p r s) :
    Keeps p r (State.freshUnit s u v) := by
  unfold State.freshUnit; with_reducible repeat' (first | exact hk | apply State.setUnit_keeps)

theorem State.fence_keeps {p : Prop} {r : State} (s : State) (u : Nat) (hk : Keeps p r s) :
    Keeps p r (State.fence s u) := by
  unfold State.fence; with_reducible repeat' (first | assumption | apply State.freshUnit_keeps | apply State.bump_keeps | apply State.plainAlarm_keeps | apply State.coreReset_keeps | (apply foldl_keeps; rotate_left; intros) | (fail_if_no_progress (refine keeps_mk ?_ rfl rfl rfl)) | split)

theorem State.leadLost_keeps {p : Prop} {r : State} (s : State) (lead : Nat) (hk : Keeps p r s) :
    Keeps p r (State.leadLost s lead) := by
  unfold State.leadLost; with_reducible repeat' (first | exact hk | apply State.openGap_keeps | apply State.roleEvent_keeps | apply State.pairCurtain_keeps | split)

theorem State.understudyLost_keeps {p : Prop} {r : State} (s : State) (u : Nat) (hk : Keeps p r s) :
    Keeps p r (State.understudyLost s u) := by
  unfold State.understudyLost; with_reducible repeat' (first | exact hk | apply State.fence_keeps | apply State.roleEvent_keeps)

theorem State.unitFails_keeps {p : Prop} {r : State} (s : State) (u : Nat) (hk : Keeps p r s) :
    Keeps p r (State.unitFails s u) := by
  unfold State.unitFails; with_reducible repeat' (first | exact hk | apply State.leadLost_keeps | apply State.understudyLost_keeps | split)

theorem State.reloadUnit_keeps {p : Prop} {r : State} (s : State) (u : Nat) (hk : Keeps p r s) :
    Keeps p r (State.reloadUnit s u) := by
  unfold State.reloadUnit; split
  · exact keeps_mem (State.touchPairs_keeps _ _ hk) id id SMap.wf_filter id id id id id
  · exact hk

theorem State.fenceEnds_keeps {p : Prop} {r : State} (s : State) (u : Nat) (lasting : Bool) (hk : Keeps p r s) :
    Keeps p r (State.fenceEnds s u lasting) := by
  unfold State.fenceEnds; with_reducible repeat' (first | exact hk | apply State.testVerdict_keeps | apply State.setUnit_keeps | apply State.reloadUnit_keeps | apply State.freshUnit_keeps | apply State.equalNumbers_keeps | apply State.pairLeads_keeps | (fail_if_no_progress (refine keeps_mk ?_ rfl rfl rfl)) | split | dsimp only)

theorem State.claimStatus_keeps {p : Prop} {r : State} (s : State) (c : Nat) (hk : Keeps p r s) :
    Keeps p r (State.claimStatus s c) := by
  unfold State.claimStatus; with_reducible repeat' (first | exact hk | apply State.setFld_keeps)

theorem State.ringAbandoned_keeps {p : Prop} {r : State} (s : State) (u : Nat) (hk : Keeps p r s) :
    Keeps p r (State.ringAbandoned s u) := by
  unfold State.ringAbandoned; with_reducible repeat' (first | exact hk | apply State.setFld_keeps)

theorem State.leadTaken_keeps {p : Prop} {r : State} (s : State) (u : Nat) (hk : Keeps p r s) :
    Keeps p r (State.leadTaken s u) := by
  unfold State.leadTaken; with_reducible repeat' (first | exact hk | apply State.setReg_keeps | apply State.ringAbandoned_keeps | split)

theorem State.takeNumber_keeps {p : Prop} {r : State} (s : State) (u : Nat) (hk : Keeps p r s) :
    Keeps p r (State.takeNumber s u) := by
  unfold State.takeNumber; with_reducible repeat' (first | exact hk | apply State.setNumber_keeps | apply State.bump_keeps | apply State.leadTaken_keeps | split)

theorem State.endSession_keeps {p : Prop} {r : State} (s : State) (hk : Keeps p r s) :
    Keeps p r (State.endSession s) := by
  unfold State.endSession; with_reducible repeat' (first | exact hk | (fail_if_no_progress (refine keeps_mk ?_ rfl rfl rfl)) | split)

theorem State.claimMark_keeps {p : Prop} {r : State} (s : State) (n : Nat) (hk : Keeps p r s) :
    Keeps p r (State.claimMark s n) := by
  unfold State.claimMark; with_reducible repeat' (first | exact hk | (fail_if_no_progress (refine keeps_mk ?_ rfl rfl rfl)) | split)

theorem State.claim_keeps {p : Prop} {r : State} (s : State) (u : Nat) (expect : Nat) (kind : ClaimKind) (hk : Keeps p r s) :
    Keeps p r (State.claim s u expect kind) := by
  unfold State.claim; with_reducible repeat' (first | exact hk | apply State.claimStatus_keeps | apply State.claimMark_keeps | apply State.takeNumber_keeps | apply State.closeGap_keeps | apply State.endSession_keeps | apply State.bump_keeps | apply State.fence_keeps | split | dsimp only)

theorem State.claimBy_keeps {p : Prop} {r : State} (s : State) (r0 : Requester) (expect : Nat) (kind : ClaimKind) (hk : Keeps p r s) :
    Keeps p r (State.claimBy s r0 expect kind) := by
  unfold State.claimBy; with_reducible repeat' (first | exact hk | apply State.claimStatus_keeps | apply State.claim_keeps | split)

theorem State.heartbeatIn_keeps {p : Prop} {r : State} (s : State) (u : Nat) (p0 : HbPath) (hk : Keeps p r s) :
    Keeps p r (State.heartbeatIn s u p0) := by
  unfold State.heartbeatIn; with_reducible repeat' (first | exact hk | apply State.setUnit_keeps | (fail_if_no_progress (refine keeps_mk ?_ rfl rfl rfl)) | split | dsimp only)

theorem State.pathSilent_keeps {p : Prop} {r : State} (s : State) (u : Nat) (p0 : HbPath) (hk : Keeps p r s) :
    Keeps p r (State.pathSilent s u p0) := by
  unfold State.pathSilent; with_reducible repeat' (first | exact hk | apply State.setUnit_keeps | apply State.leadLost_keeps | apply State.understudyLost_keeps | apply State.bump_keeps | apply State.plainAlarm_keeps | (fail_if_no_progress (refine keeps_mk ?_ rfl rfl rfl)) | split | dsimp only)

theorem State.rehearseFrom_keeps {p : Prop} {r : State} (a0 : Nat) (a1 : Nat) (a2 : State) (hk : Keeps p r a2) :
    Keeps p r (State.rehearseFrom a0 a1 a2) := by
  induction a0 generalizing a1 a2 with
  | zero => exact keeps_mk hk rfl rfl rfl
  | succ n ih =>
    unfold State.rehearseFrom; dsimp only
    split
    · exact keeps_mk hk rfl rfl rfl
    · split
      · exact ih _ _ hk
      · split
        · exact State.roleEvent_keeps _ _ _ (State.roleEvent_keeps _ _ _ (keeps_mk hk rfl rfl rfl))
        · exact ih _ _ (State.bump_keeps _ _ _ hk)

theorem State.nextRehearsal_keeps {p : Prop} {r : State} (s : State) (hk : Keeps p r s) :
    Keeps p r (State.nextRehearsal s) := by
  unfold State.nextRehearsal; with_reducible repeat' (first | exact hk | apply State.rehearseFrom_keeps)

theorem State.rehearsalDue_keeps {p : Prop} {r : State} (s : State) (hk : Keeps p r s) :
    Keeps p r (State.rehearsalDue s) := by
  unfold State.rehearsalDue; with_reducible repeat' (first | exact hk | apply State.rehearseFrom_keeps | (fail_if_no_progress (refine keeps_mk ?_ rfl rfl rfl)) | split | dsimp only)

theorem State.yieldBy_keeps {p : Prop} {r : State} (s : State) (u : Nat) (hk : Keeps p r s) :
    Keeps p r (State.yieldBy s u) := by
  unfold State.yieldBy; with_reducible repeat' (first | exact hk | apply State.setGap_keeps | (fail_if_no_progress (refine keeps_mk ?_ rfl rfl rfl)) | split)

theorem State.yieldLate_keeps {p : Prop} {r : State} (s : State) (hk : Keeps p r s) :
    Keeps p r (State.yieldLate s) := by
  unfold State.yieldLate; with_reducible repeat' (first | exact hk | apply State.bump_keeps | apply State.nextRehearsal_keeps | split)

theorem State.doneBy_keeps {p : Prop} {r : State} (s : State) (u : Nat) (hk : Keeps p r s) :
    Keeps p r (State.doneBy s u) := by
  unfold State.doneBy; with_reducible repeat' (first | exact hk | apply State.bump_keeps | apply State.nextRehearsal_keeps | split)

theorem State.rehearsalFails_keeps {p : Prop} {r : State} (s : State) (hk : Keeps p r s) :
    Keeps p r (State.rehearsalFails s) := by
  unfold State.rehearsalFails; with_reducible repeat' (first | exact hk | apply State.takeNumber_keeps | apply State.fence_keeps | apply State.fenceEnds_keeps | apply State.roleEvent_keeps | apply State.bump_keeps | apply State.closeGap_keeps | apply State.nextRehearsal_keeps | split)

theorem State.probeBy_keeps {p : Prop} {r : State} (s : State) (u : Nat) (hk : Keeps p r s) :
    Keeps p r (State.probeBy s u) := by
  unfold State.probeBy; with_reducible repeat' (first | exact hk | apply State.setReg_keeps)

theorem State.cpcTransmit_keeps {p : Prop} {r : State} (s : State) (hk : Keeps p r s) :
    Keeps p r (State.cpcTransmit s) := by
  unfold State.cpcTransmit; with_reducible repeat' (first | exact hk | apply State.touchPairs_keeps | apply State.setFld_keeps | apply State.bump_keeps | apply State.newFrame_keeps | split | dsimp only)

theorem State.cpcRing_keeps {p : Prop} {r : State} (s : State) (kind : Nat) (head : List Byte) (body : List Byte) (hk : Keeps p r s) :
    Keeps p r (State.cpcRing s kind head body) := by
  unfold State.cpcRing; dsimp only
  split
  · exact State.bump_keeps _ _ _ hk
  · split
    · exact State.bump_keeps _ _ _ hk
    · exact State.unitEvent_keeps _ _ _ (State.setFld_keeps _ _ _ _ (keeps_mem hk (writeMem_wf _ _) id id id id id id id))

theorem State.cpcReceive_keeps {p : Prop} {r : State} (s : State) (f : Nat) (hk : Keeps p r s) :
    Keeps p r (State.cpcReceive s f) := by
  unfold State.cpcReceive; with_reducible repeat' (first | exact hk | apply State.touchPairs_keeps | apply State.cpcRing_keeps | apply State.takeArrived_keeps | split | dsimp only)

theorem State.loadCpc_keeps {p : Prop} {r : State} (s : State) (b : List Byte) (hk : Keeps p r s) :
    Keeps p r (State.loadCpc s b) := by
  unfold State.loadCpc; dsimp only
  have h1 : Keeps p r { s with rdn := { s.rdn with cpcBody := b }, mem := { s.mem with sram := [] }, dev := { s.dev with cpcStarted := true } } := by
    refine hk.stores rfl rfl rfl rfl (fun hc => ?_)
    rw [canonical_iff] at hc ⊢
    obtain ⟨c1, c2, c3, c4, c5, c6, c7, c8, c9, c10, c11, c12⟩ := hc
    exact ⟨c1, c2, c3, c4, c5, c6, rfl, c8, c9, c10, c11, c12⟩
  exact State.setReg_keeps _ _ _ _ (State.setFld_keeps _ _ _ _ h1)

theorem State.billPair_keeps {p : Prop} {r : State} (s : State) (n : Nat) (first : Nat) (hk : Keeps p r s) :
    Keeps p r (State.billPair s n first) := by
  unfold State.billPair; with_reducible repeat' (first | exact hk | apply State.setUnit_keeps | apply State.freshUnit_keeps | apply State.setNumber_keeps | apply State.pairCurtain_keeps | split | dsimp only)

theorem State.billAll_keeps {p : Prop} {r : State} (s : State) (hk : Keeps p r s) :
    Keeps p r (State.billAll s) := by
  unfold State.billAll; with_reducible repeat' (first | assumption | apply State.closeGap_keeps | apply State.billPair_keeps | (apply foldl_keeps; rotate_left; intros) | (fail_if_no_progress (refine keeps_mk ?_ rfl rfl rfl)))

end Sys2Proof.Machine
end

