-- ==== Sys2Proof/Laws/KeepsPorts.lean ====
section
/-! SUPPORT. What the functions of Machine/Ports.lean keep. -/

namespace Sys2Proof.Machine

theorem State.planRefused_keeps {p : Prop} {r : State} (s : State) (e : Nat) (hk : Keeps p r s) :
    Keeps p r (State.planRefused s e) := by
  unfold State.planRefused; with_reducible repeat' (first | exact hk | apply State.setFld_keeps)

theorem State.clearPause_keeps {p : Prop} {r : State} (s : State) (p0 : Nat) (hk : Keeps p r s) :
    Keeps p r (State.clearPause s p0) := by
  unfold State.clearPause; with_reducible repeat' (first | exact hk | apply State.setPort_keeps)

theorem State.replanned_keeps {p : Prop} {r : State} (s : State) (p0 : Nat) (hk : Keeps p r s) :
    Keeps p r (State.replanned s p0) := by
  unfold State.replanned; with_reducible repeat' (first | exact hk | apply State.fallPort_keeps | apply State.clearPause_keeps)

theorem State.planWrite_keeps {p : Prop} {r : State} (s : State) (e : Nat) (plan : Word) (hk : Keeps p r s) :
    Keeps p r (State.planWrite s e plan) := by
  unfold State.planWrite; with_reducible repeat' (first | assumption | apply State.planRefused_keeps | apply State.replanned_keeps | apply State.setReg_keeps | apply State.curtainRetired_keeps | (apply foldl_keeps; rotate_left; intros) | split)

theorem State.lbCellsSet_keeps {p : Prop} {r : State} (s : State) (e : Nat) (j : Nat) (n : Nat) (hk : Keeps p r s) :
    Keeps p r (State.lbCellsSet s e j n) := by
  unfold State.lbCellsSet; with_reducible repeat' (first | exact hk | apply State.planRefused_keeps | apply State.setFld_keeps | split)

theorem State.oversize_keeps {p : Prop} {r : State} (s : State) (x : Frame) (hk : Keeps p r s) :
    Keeps p r (State.oversize s x) := by
  unfold State.oversize; with_reducible repeat' (first | exact hk | apply State.bump_keeps | apply State.cutFrame_keeps)

theorem State.releaseAll_keeps {p : Prop} {r : State} (s : State) (p0 : Nat) (hk : Keeps p r s) :
    Keeps p r (State.releaseAll s p0) := by
  unfold State.releaseAll; with_reducible repeat' (first | assumption | apply State.sendPause_keeps | (apply foldl_keeps; rotate_left; intros) | split)

theorem State.prtConfig_keeps {p : Prop} {r : State} (s : State) (p0 : Nat) (v : Nat) (hk : Keeps p r s) :
    Keeps p r (State.prtConfig s p0 v) := by
  unfold State.prtConfig; with_reducible repeat' (first | assumption | apply State.setFld_keeps | apply State.replanned_keeps | apply State.releaseAll_keeps | apply State.pauseCheck_keeps | apply State.oversize_keeps | (apply foldl_keeps; rotate_left; intros) | split | dsimp only)

theorem State.pfcWm_keeps {p : Prop} {r : State} (s : State) (p0 : Nat) (c : Nat) (v : Word) (mask : Word) (hk : Keeps p r s) :
    Keeps p r (State.pfcWm s p0 c v mask) := by
  unfold State.pfcWm; with_reducible repeat' (first | exact hk | apply State.setReg_keeps | apply State.pauseCheck_keeps | split | dsimp only)

theorem State.xoffAgain_keeps {p : Prop} {r : State} (s : State) (p0 : Nat) (c : Nat) (hk : Keeps p r s) :
    Keeps p r (State.xoffAgain s p0 c) := by
  unfold State.xoffAgain; with_reducible repeat' (first | exact hk | apply State.sendPause_keeps | split)

theorem State.pauseIn_keeps {p : Prop} {r : State} (s : State) (p0 : Nat) (pfc : Bool) (enable : BitVec 8) (times : BitVec 128) (fcsGood : Bool) (hk : Keeps p r s) :
    Keeps p r (State.pauseIn s p0 pfc enable times fcsGood) := by
  unfold State.pauseIn; with_reducible repeat' (first | exact hk | apply State.bump_keeps | apply State.bumpBy_keeps | apply State.setPort_keeps | split | dsimp only)

theorem State.pauseEnds_keeps {p : Prop} {r : State} (s : State) (p0 : Nat) (c : Option Nat) (hk : Keeps p r s) :
    Keeps p r (State.pauseEnds s p0 c) := by
  unfold State.pauseEnds; with_reducible repeat' (first | exact hk | apply State.setPort_keeps | split)

theorem State.portLinkUp_keeps {p : Prop} {r : State} (s : State) (p0 : Nat) (hk : Keeps p r s) :
    Keeps p r (State.portLinkUp s p0) := by
  unfold State.portLinkUp; with_reducible repeat' (first | exact hk | apply State.setPort_keeps | split)

theorem State.pushStamp_keeps {p : Prop} {r : State} (s : State) (p0 : Nat) (tag : BitVec 16) (hk : Keeps p r s) :
    Keeps p r (State.pushStamp s p0 tag) := by
  unfold State.pushStamp; with_reducible repeat' (first | exact hk | apply State.setPort_keeps | apply State.bump_keeps | split | dsimp only)

theorem State.popStamp_keeps {p : Prop} {r : State} (s : State) (p0 : Nat) (hk : Keeps p r s) :
    Keeps p r (State.popStamp s p0) := by
  unfold State.popStamp; with_reducible repeat' (first | exact hk | apply State.setPort_keeps)

theorem State.judgeWear_keeps {p : Prop} {r : State} (s : State) (e : Nat) (hk : Keeps p r s) :
    Keeps p r (State.judgeWear s e) := by
  unfold State.judgeWear; with_reducible repeat' (first | exact hk | apply State.setLsm_keeps | apply State.countError_keeps | apply State.nextSeq_keeps | apply State.alarm_keeps | split | dsimp only)

theorem State.judgeModules_keeps {p : Prop} {r : State} (s : State) (hk : Keeps p r s) :
    Keeps p r (State.judgeModules s) := by
  unfold State.judgeModules; with_reducible repeat' (first | assumption | apply State.judgeWear_keeps | (apply foldl_keeps; rotate_left; intros))

theorem State.appendLife_keeps {p : Prop} {r : State} (s : State) (e : Nat) (hours : BitVec 32) (bias : BitVec 128) (temp : BitVec 16) (hk : Keeps p r s) :
    Keeps p r (State.appendLife s e hours bias temp) := by
  unfold State.appendLife; with_reducible repeat' (first | exact hk | apply State.setLsm_keeps | apply State.drewN_keeps | apply State.emit_keeps | apply State.judgeWear_keeps)

theorem State.shutLife_keeps {p : Prop} {r : State} (s : State) (e : Nat) (hk : Keeps p r s) :
    Keeps p r (State.shutLife s e) := by
  unfold State.shutLife; with_reducible repeat' (first | exact hk | apply State.drewN_keeps | apply State.appendLife_keeps | split)

theorem State.shutModules_keeps {p : Prop} {r : State} (s : State) (hk : Keeps p r s) :
    Keeps p r (State.shutModules s) := by
  unfold State.shutModules; with_reducible repeat' (first | assumption | apply State.shutLife_keeps | (apply foldl_keeps; rotate_left; intros))

theorem State.bringUp_keeps {p : Prop} {r : State} (s : State) (e : Nat) (v : Lsm) (hk : Keeps p r s) :
    Keeps p r (State.bringUp s e v) := by
  unfold State.bringUp; with_reducible repeat' (first | exact hk | apply State.drbg_keeps | apply State.setLsm_keeps | apply State.emit_keeps)

theorem State.lsmInsert_keeps {p : Prop} {r : State} (s : State) (e : Nat) (hk : Keeps p r s) :
    Keeps p r (State.lsmInsert s e) := by
  unfold State.lsmInsert; with_reducible repeat' (first | exact hk | apply State.bringUp_keeps | (fail_if_no_progress (refine keeps_mk ?_ rfl rfl rfl)) | split | dsimp only)

theorem State.reject_keeps {p : Prop} {r : State} (s : State) (e : Nat) (reason : Nat) (i2c : Bool) (hk : Keeps p r s) :
    Keeps p r (State.reject s e reason i2c) := by
  unfold State.reject; with_reducible repeat' (first | exact hk | apply State.setLsm_keeps)

theorem State.lsmVerified_keeps {p : Prop} {r : State} (s : State) (e : Nat) (v : LsmVerify) (hk : Keeps p r s) :
    Keeps p r (State.lsmVerified s e v) := by
  unfold State.lsmVerified; with_reducible repeat' (first | exact hk | apply State.reject_keeps | apply State.emit_keeps | apply State.drewN_keeps | apply State.setLsm_keeps | apply State.judgeWear_keeps | split | dsimp only)

theorem State.lsmSilent_keeps {p : Prop} {r : State} (s : State) (e : Nat) (hk : Keeps p r s) :
    Keeps p r (State.lsmSilent s e) := by
  unfold State.lsmSilent; with_reducible repeat' (first | exact hk | apply State.reject_keeps | split)

theorem State.lsmRemove_keeps {p : Prop} {r : State} (s : State) (e : Nat) (hk : Keeps p r s) :
    Keeps p r (State.lsmRemove s e) := by
  unfold State.lsmRemove; with_reducible repeat' (first | assumption | apply State.portDown_keeps | apply State.setLsm_keeps | (apply foldl_keeps; rotate_left; intros) | (fail_if_no_progress (refine keeps_mk ?_ rfl rfl rfl)))

theorem State.lsmEject_keeps {p : Prop} {r : State} (s : State) (e : Nat) (hk : Keeps p r s) :
    Keeps p r (State.lsmEject s e) := by
  unfold State.lsmEject; with_reducible repeat' (first | exact hk | apply State.setLsm_keeps | split)

theorem State.lsmRetry_keeps {p : Prop} {r : State} (s : State) (e : Nat) (hk : Keeps p r s) :
    Keeps p r (State.lsmRetry s e) := by
  unfold State.lsmRetry; with_reducible repeat' (first | exact hk | apply State.bringUp_keeps | split)

theorem State.lsmEjected_keeps {p : Prop} {r : State} (s : State) (e : Nat) (hours : BitVec 32) (bias : BitVec 128) (temp : BitVec 16) (hk : Keeps p r s) :
    Keeps p r (State.lsmEjected s e hours bias temp) := by
  unfold State.lsmEjected; with_reducible repeat' (first | exact hk | apply State.appendLife_keeps | apply State.setLsm_keeps | split)

theorem State.lsmLife_keeps {p : Prop} {r : State} (s : State) (e : Nat) (hours : BitVec 32) (bias : BitVec 128) (temp : BitVec 16) (hk : Keeps p r s) :
    Keeps p r (State.lsmLife s e hours bias temp) := by
  unfold State.lsmLife; with_reducible repeat' (first | exact hk | apply State.appendLife_keeps | split)

theorem State.channelFails_keeps {p : Prop} {r : State} (s : State) (e : Nat) (c : Nat) (hk : Keeps p r s) :
    Keeps p r (State.channelFails s e c) := by
  unfold State.channelFails; with_reducible repeat' (first | assumption | apply State.setLsm_keeps | apply State.portDown_keeps | apply State.countError_keeps | apply State.bump_keeps | apply State.writeRecord_keeps | apply State.alarm_keeps | (apply foldl_keeps; rotate_left; intros) | split | dsimp only)

theorem State.lsmAlarm_keeps {p : Prop} {r : State} (s : State) (e : Nat) (poll : Bool) (alarm : BitVec 8) (hk : Keeps p r s) :
    Keeps p r (State.lsmAlarm s e poll alarm) := by
  unfold State.lsmAlarm; with_reducible repeat' (first | exact hk | apply State.setLsm_keeps | apply State.emit_keeps | split | dsimp only)

end Sys2Proof.Machine
end

