-- ==== Sys2Proof/Laws/KeepsScene.lean ====
section
/-! SUPPORT. What the functions of Machine/Scene.lean keep. -/

namespace Sys2Proof.Machine

theorem State.setScene_keeps {p : Prop} {r : State} (s : State) (x : Scenes) (hk : Keeps p r s) :
    Keeps p r (State.setScene s x) := by
  unfold State.setScene; with_reducible repeat' (first | exact hk | (fail_if_no_progress (refine keeps_mk ?_ rfl rfl rfl)))

theorem State.makeCurrent_keeps {p : Prop} {r : State} (s : State) (n : Nat) (sc : BitVec 16) (hk : Keeps p r s) :
    Keeps p r (State.makeCurrent s n sc) := by
  unfold State.makeCurrent; with_reducible repeat' (first | assumption | apply State.setSlot_keeps | apply State.setScene_keeps | (apply foldl_keeps; rotate_left; intros) | split)

theorem State.sceneCommit_keeps {p : Prop} {r : State} (s : State) (sc : BitVec 16) (timed : Bool) (hk : Keeps p r s) :
    Keeps p r (State.sceneCommit s sc timed) := by
  unfold State.sceneCommit; with_reducible repeat' (first | exact hk | apply State.setScene_keeps | apply State.setSlot_keeps | apply State.makeCurrent_keeps | split | dsimp only)

theorem State.sceneCancel_keeps {p : Prop} {r : State} (s : State) (hk : Keeps p r s) :
    Keeps p r (State.sceneCancel s) := by
  unfold State.sceneCancel; with_reducible repeat' (first | exact hk | apply State.setSlot_keeps | (fail_if_no_progress (refine keeps_mk ?_ rfl rfl rfl)) | split)

theorem State.sceneActivate_keeps {p : Prop} {r : State} (s : State) (hk : Keeps p r s) :
    Keeps p r (State.sceneActivate s) := by
  unfold State.sceneActivate; with_reducible repeat' (first | exact hk | apply State.makeCurrent_keeps | split)

theorem State.sceneDrained_keeps {p : Prop} {r : State} (s : State) (n : Nat) (hk : Keeps p r s) :
    Keeps p r (State.sceneDrained s n) := by
  unfold State.sceneDrained; with_reducible repeat' (first | exact hk | apply State.setSlot_keeps | split | dsimp only)

theorem State.purgeEach_keeps {p : Prop} {r : State} (pick : Copy → Bool) (a1 : Nat) (a2 : State) (hk : Keeps p r a2) :
    Keeps p r (State.purgeEach pick a1 a2) := by
  induction a1 generalizing a2 with
  | zero => exact hk
  | succ n ih =>
    unfold State.purgeEach; split
    · exact hk
    · exact ih _ (State.discardCopy_keeps _ _ _ hk)

theorem State.scenePurge_keeps {p : Prop} {r : State} (s : State) (sc : BitVec 16) (hk : Keeps p r s) :
    Keeps p r (State.scenePurge s sc) := by
  unfold State.scenePurge; with_reducible repeat' (first | exact hk | apply State.purgeEach_keeps | apply State.bumpBy_keeps | apply State.collect_keeps | (fail_if_no_progress (refine keeps_mk ?_ rfl rfl rfl)))

theorem State.sceneForced_keeps {p : Prop} {r : State} (s : State) (n : Nat) (hk : Keeps p r s) :
    Keeps p r (State.sceneForced s n) := by
  unfold State.sceneForced; with_reducible repeat' (first | exact hk | apply State.setSlot_keeps | apply State.scenePurge_keeps | split | dsimp only)

theorem State.sceneStart_keeps {p : Prop} {r : State} (s : State) (hk : Keeps p r s) :
    Keeps p r (State.sceneStart s) := by
  unfold State.sceneStart; with_reducible repeat' (first | exact hk | apply State.setScene_keeps)

end Sys2Proof.Machine
end

