-- ==== Sys2Proof/Laws/KeepsPower.lean ====
section
/-! SUPPORT. What the functions of Machine/Power.lean keep. -/

namespace Sys2Proof.Machine

theorem State.domainOffRequest_keeps {p : Prop} {r : State} (s : State) (d : Nat) (hk : Keeps p r s) :
    Keeps p r (State.domainOffRequest s d) := by
  unfold State.domainOffRequest; with_reducible repeat' (first | exact hk | apply State.setDomain_keeps | split | dsimp only)

theorem State.domainOnRequest_keeps {p : Prop} {r : State} (s : State) (d : Nat) (hk : Keeps p r s) :
    Keeps p r (State.domainOnRequest s d) := by
  unfold State.domainOnRequest; with_reducible repeat' (first | exact hk | apply State.setDomain_keeps | split | dsimp only)

theorem State.domainCtrl_keeps {p : Prop} {r : State} (s : State) (d : Nat) (value : Word) (hk : Keeps p r s) :
    Keeps p r (State.domainCtrl s d value) := by
  unfold State.domainCtrl; with_reducible repeat' (first | exact hk | apply State.setFld_keeps | apply State.domainStatus_keeps | apply State.domainOffRequest_keeps | apply State.domainOnRequest_keeps | split | dsimp only)

theorem State.domainSleep_keeps {p : Prop} {r : State} (s : State) (d : Nat) (hk : Keeps p r s) :
    Keeps p r (State.domainSleep s d) := by
  unfold State.domainSleep; with_reducible repeat' (first | exact hk | apply State.setDomain_keeps | apply State.domainStatus_keeps | split)

theorem State.domainWake_keeps {p : Prop} {r : State} (s : State) (d : Nat) (hk : Keeps p r s) :
    Keeps p r (State.domainWake s d) := by
  unfold State.domainWake; with_reducible repeat' (first | exact hk | apply State.setDomain_keeps | apply State.bump_keeps | apply State.domainStatus_keeps | split)

theorem State.powerCommand_keeps {p : Prop} {r : State} (s : State) (v : Nat) (hk : Keeps p r s) :
    Keeps p r (State.powerCommand s v) := by
  unfold State.powerCommand; with_reducible repeat' (first | exact hk | apply State.domainSleep_keeps | apply State.domainWake_keeps | apply State.domainStatus_keeps | split | dsimp only)

theorem State.drained_keeps {p : Prop} {r : State} (s : State) (d : Nat) (hk : Keeps p r s) :
    Keeps p r (State.drained s d) := by
  unfold State.drained; with_reducible repeat' (first | exact hk | apply State.setDomain_keeps | apply State.domainStatus_keeps | split | dsimp only)

theorem State.drainLimit_keeps {p : Prop} {r : State} (s : State) (d : Nat) (hk : Keeps p r s) :
    Keeps p r (State.drainLimit s d) := by
  unfold State.drainLimit; with_reducible repeat' (first | exact hk | apply State.setDomain_keeps | apply State.domainStatus_keeps | apply State.bump_keeps | split | dsimp only)

theorem State.idleTick_keeps {p : Prop} {r : State} (s : State) (hk : Keeps p r s) :
    Keeps p r (State.idleTick s) := by
  unfold State.idleTick; with_reducible repeat' (first | assumption | apply State.setDomain_keeps | (apply foldl_keeps; rotate_left; intros))

theorem State.idleSleep_keeps {p : Prop} {r : State} (s : State) (d : Nat) (hk : Keeps p r s) :
    Keeps p r (State.idleSleep s d) := by
  unfold State.idleSleep; with_reducible repeat' (first | exact hk | apply State.setDomain_keeps | split)

theorem State.awake_keeps {p : Prop} {r : State} (s : State) (d : Nat) (hk : Keeps p r s) :
    Keeps p r (State.awake s d) := by
  unfold State.awake; with_reducible repeat' (first | exact hk | apply State.setDomain_keeps | apply State.domainStatus_keeps | apply State.domainOffRequest_keeps | split | dsimp only)

theorem State.domainsAtStage_keeps {p : Prop} {r : State} (s : State) (hk : Keeps p r s) :
    Keeps p r (State.domainsAtStage s) := by
  unfold State.domainsAtStage; with_reducible repeat' (first | assumption | apply State.setDomain_keeps | (apply foldl_keeps; rotate_left; intros))

theorem State.domainsOff_keeps {p : Prop} {r : State} (s : State) (hk : Keeps p r s) :
    Keeps p r (State.domainsOff s) := by
  unfold State.domainsOff; with_reducible repeat' (first | exact hk | (fail_if_no_progress (refine keeps_mk ?_ rfl rfl rfl)))

theorem State.loadPower_keeps {p : Prop} {r : State} (s : State) (clusters : Nat) (b : List Byte) (hk : Keeps p r s) :
    Keeps p r (State.loadPower s clusters b) := by
  unfold State.loadPower; with_reducible repeat' (first | assumption | apply State.setReg_keeps | apply State.setFld_keeps | apply State.containedFault_keeps | (apply foldl_keeps; rotate_left; intros) | split | dsimp only)

theorem State.setLock_keeps {p : Prop} {r : State} (s : State) (p0 : Pll) (b : Bool) (hk : Keeps p r s) :
    Keeps p r (State.setLock s p0 b) := by
  unfold State.setLock; with_reducible repeat' (first | exact hk | apply State.setReg_keeps)

theorem State.pllLocks_keeps {p : Prop} {r : State} (s : State) (p0 : Pll) (hk : Keeps p r s) :
    Keeps p r (State.pllLocks s p0) := by
  unfold State.pllLocks; with_reducible repeat' (first | exact hk | apply State.setLock_keeps | split)

theorem State.pllLost_keeps {p : Prop} {r : State} (s : State) (p0 : Pll) (hk : Keeps p r s) :
    Keeps p r (State.pllLost s p0) := by
  unfold State.pllLost; with_reducible repeat' (first | assumption | apply State.setLock_keeps | apply State.fatal_keeps | apply State.vaultError_keeps | apply State.containedScope_keeps | (apply foldl_keeps; rotate_left; intros) | split)

theorem State.clockLost_keeps {p : Prop} {r : State} (s : State) (hk : Keeps p r s) :
    Keeps p r (State.clockLost s) := by
  unfold State.clockLost; with_reducible repeat' (first | exact hk | apply State.setFld_keeps | apply State.fatal_keeps | apply State.curtainAlarm_keeps | (fail_if_no_progress (refine keeps_mk ?_ rfl rfl rfl)) | split | dsimp only)

theorem State.senseHeat_keeps {p : Prop} {r : State} (s : State) (sensor : Nat) (reading : BitVec 8) (hk : Keeps p r s) :
    Keeps p r (State.senseHeat s sensor reading) := by
  unfold State.senseHeat; with_reducible repeat' (first | exact hk | apply State.setFld_keeps)

end Sys2Proof.Machine
end

