-- ==== Sys2Proof/Laws/KeepsStack.lean ====
section
/-! SUPPORT. What the functions of Machine/Stack.lean keep. -/

namespace Sys2Proof.Machine

theorem State.requestStep_keeps {p : Prop} {r : State} (s : State) (n : Int) (hk : Keeps p r s) :
    Keeps p r (State.requestStep s n) := by
  unfold State.requestStep; with_reducible repeat' (first | exact hk | (fail_if_no_progress (refine keeps_mk ?_ rfl rfl rfl)))

theorem State.setStk_keeps {p : Prop} {r : State} (s : State) (x : Stk) (hk : Keeps p r s) :
    Keeps p r (State.setStk s x) := by
  unfold State.setStk; with_reducible repeat' (first | exact hk | (fail_if_no_progress (refine keeps_mk ?_ rfl rfl rfl)))

theorem State.loadStack_keeps {p : Prop} {r : State} (s : State) (b : List Byte) (hk : Keeps p r s) :
    Keeps p r (State.loadStack s b) := by
  unfold State.loadStack; with_reducible repeat' (first | assumption | apply State.setStk_keeps | apply State.containedFault_keeps | (apply foldl_keeps; rotate_left; intros) | split)

theorem State.stackCurtains_keeps {p : Prop} {r : State} (s : State) (hk : Keeps p r s) :
    Keeps p r (State.stackCurtains s) := by
  unfold State.stackCurtains; with_reducible repeat' (first | assumption | apply State.curtain_keeps | apply State.stackLift_keeps | (apply foldl_keeps; rotate_left; intros) | split)

theorem State.enterWings_keeps {p : Prop} {r : State} (s : State) (cause : Nat) (hk : Keeps p r s) :
    Keeps p r (State.enterWings s cause) := by
  unfold State.enterWings; with_reducible repeat' (first | exact hk | apply State.setStk_keeps | apply State.bump_keeps | apply State.stackCurtains_keeps)

theorem State.stackState_keeps {p : Prop} {r : State} (s : State) (hk : Keeps p r s) :
    Keeps p r (State.stackState s) := by
  unfold State.stackState; with_reducible repeat' (first | exact hk | apply State.setStk_keeps | apply State.enterWings_keeps | apply State.stackCurtains_keeps | split | dsimp only)

theorem State.stackJudge_keeps {p : Prop} {r : State} (s : State) (hk : Keeps p r s) :
    Keeps p r (State.stackJudge s) := by
  unfold State.stackJudge; with_reducible repeat' (first | exact hk | apply State.stackState_keeps | apply State.setStk_keeps)

theorem State.becomeMaster_keeps {p : Prop} {r : State} (s : State) (n : Nat) (hk : Keeps p r s) :
    Keeps p r (State.becomeMaster s n) := by
  unfold State.becomeMaster; with_reducible repeat' (first | exact hk | apply State.setStk_keeps | apply State.bump_keeps | apply State.stackCurtains_keeps | split | dsimp only)

theorem State.barodIn_keeps {p : Prop} {r : State} (s : State) (port type : Nat) (f : List Byte) (act : State → Nat → List Byte → State) (hk : Keeps p r s)
    (he : ∀ t m b, Keeps p r t → Keeps p r (act t m b)) :
    Keeps p r (State.barodIn s port type f act) := by
  unfold State.barodIn; dsimp only
  repeat' (first | with_reducible exact hk | with_reducible apply State.bump_keeps | with_reducible apply he | with_reducible apply State.setStackLink_keeps | with_reducible apply State.setStackPeer_keeps | split)

theorem State.sendHello_keeps {p : Prop} {r : State} (s : State) (p0 : Nat) (hk : Keeps p r s) :
    Keeps p r (State.sendHello s p0) := by
  unfold State.sendHello; with_reducible repeat' (first | exact hk | apply State.barodSend_keeps | apply State.setStackLink_keeps | apply State.stackJudge_keeps | split)

theorem State.helloIn_keeps {p : Prop} {r : State} (s : State) (p0 : Nat) (m : Nat) (b : List Byte) (hk : Keeps p r s) :
    Keeps p r (State.helloIn s p0 m b) := by
  unfold State.helloIn; with_reducible repeat' (first | exact hk | apply State.setStackLink_keeps | apply State.bump_keeps | apply State.stackJudge_keeps | apply State.setStackPeer_keeps | split | dsimp only)

theorem State.sendKeepalive_keeps {p : Prop} {r : State} (s : State) (p0 : Nat) (hk : Keeps p r s) :
    Keeps p r (State.sendKeepalive s p0) := by
  unfold State.sendKeepalive; with_reducible repeat' (first | exact hk | apply State.barodSend_keeps | split | dsimp only)

theorem State.measure_keeps {p : Prop} {r : State} (s : State) (p0 : Nat) (b : List Byte) (hk : Keeps p r s) :
    Keeps p r (State.measure s p0 b) := by
  unfold State.measure; with_reducible repeat' (first | exact hk | apply State.setStackLink_keeps | apply State.setStk_keeps | apply State.stackCurtains_keeps | apply State.requestStep_keeps | apply State.bump_keeps | split | dsimp only)

theorem State.keepaliveIn_keeps {p : Prop} {r : State} (s : State) (p0 : Nat) (m : Nat) (b : List Byte) (hk : Keeps p r s) :
    Keeps p r (State.keepaliveIn s p0 m b) := by
  unfold State.keepaliveIn; with_reducible repeat' (first | exact hk | apply State.setStackLink_keeps | apply State.setStk_keeps | apply State.measure_keeps | apply State.stackJudge_keeps | split)

theorem State.stackSilent_keeps {p : Prop} {r : State} (s : State) (p0 : Nat) (hk : Keeps p r s) :
    Keeps p r (State.stackSilent s p0) := by
  unfold State.stackSilent; with_reducible repeat' (first | exact hk | apply State.setStackLink_keeps | apply State.stackJudge_keeps | split | dsimp only)

theorem State.timeCurtain_keeps {p : Prop} {r : State} (s : State) (hk : Keeps p r s) :
    Keeps p r (State.timeCurtain s) := by
  unfold State.timeCurtain; with_reducible repeat' (first | exact hk | apply State.setStk_keeps | apply State.stackCurtains_keeps | split)

theorem State.claimWon_keeps {p : Prop} {r : State} (s : State) (hk : Keeps p r s) :
    Keeps p r (State.claimWon s) := by
  unfold State.claimWon; with_reducible repeat' (first | exact hk | apply State.becomeMaster_keeps | apply State.stackJudge_keeps | split)

theorem State.stackClaim_keeps {p : Prop} {r : State} (s : State) (hk : Keeps p r s) :
    Keeps p r (State.stackClaim s) := by
  unfold State.stackClaim; with_reducible repeat' (first | assumption | apply State.setStk_keeps | apply State.barodTo_keeps | apply State.claimWon_keeps | (apply foldl_keeps; rotate_left; intros) | split | dsimp only)

theorem State.claimIn_keeps {p : Prop} {r : State} (s : State) (p0 : Nat) (m : Nat) (b : List Byte) (hk : Keeps p r s) :
    Keeps p r (State.claimIn s p0 m b) := by
  unfold State.claimIn; with_reducible repeat' (first | exact hk | apply State.barodSend_keeps | apply State.setStk_keeps | apply State.bump_keeps | apply State.stackJudge_keeps | split | dsimp only)

theorem State.claimReplyIn_keeps {p : Prop} {r : State} (s : State) (m : Nat) (b : List Byte) (hk : Keeps p r s) :
    Keeps p r (State.claimReplyIn s m b) := by
  unfold State.claimReplyIn; with_reducible repeat' (first | exact hk | apply State.setStk_keeps | apply State.claimWon_keeps | split)

theorem State.claimLimit_keeps {p : Prop} {r : State} (s : State) (hk : Keeps p r s) :
    Keeps p r (State.claimLimit s) := by
  unfold State.claimLimit; with_reducible repeat' (first | exact hk | apply State.setStk_keeps | apply State.enterWings_keeps | split)

theorem State.stackRing_keeps {p : Prop} {r : State} (s : State) (bytes : List Byte) (hk : Keeps p r s) :
    Keeps p r (State.stackRing s bytes) := by
  unfold State.stackRing; dsimp only
  split
  · exact State.bump_keeps _ _ _ hk
  · split
    · exact State.hold_keeps _ _ _ (State.touchPairs_keeps _ _ hk)
    · exact State.setStk_keeps _ _ (keeps_mem hk (writeMem_wf _ _) id id id id id id id)

theorem State.stackSend_keeps {p : Prop} {r : State} (s : State) (v : Word) (hk : Keeps p r s) :
    Keeps p r (State.stackSend s v) := by
  unfold State.stackSend; with_reducible repeat' (first | assumption | apply State.barodSend_keeps | (apply foldl_keeps; rotate_left; intros) | split | dsimp only)

theorem State.stackCommand_keeps {p : Prop} {r : State} (s : State) (v : Word) (hk : Keeps p r s) :
    Keeps p r (State.stackCommand s v) := by
  unfold State.stackCommand; with_reducible repeat' (first | exact hk | apply State.stackSend_keeps | apply State.touchPairs_keeps | apply State.hold_keeps | split)

theorem State.sceneRecord_keeps {p : Prop} {r : State} (s : State) (r0 : List Byte) (hk : Keeps p r s) :
    Keeps p r (State.sceneRecord s r0).2 := by
  unfold State.sceneRecord; with_reducible repeat' (first | exact hk | apply State.tableCommand_keeps | split | dsimp only)

theorem State.sceneRecords_keeps {p : Prop} {r : State} (s : State) (a1 : List (List Byte)) (hk : Keeps p r s) :
    Keeps p r (State.sceneRecords s a1).2 := by
  induction a1 generalizing s with
  | nil => exact hk
  | cons x xs ih =>
    unfold State.sceneRecords; dsimp only; split
    · exact ih _ (State.sceneRecord_keeps _ _ hk)
    · exact State.sceneRecord_keeps _ _ hk

theorem State.sceneClear_keeps {p : Prop} {r : State} (s : State) (hk : Keeps p r s) :
    Keeps p r (State.sceneClear s) := by
  unfold State.sceneClear; with_reducible repeat' (first | assumption | apply State.doDelete_keeps | (apply foldl_keeps; rotate_left; intros) | split)

theorem State.sceneFails_keeps {p : Prop} {r : State} (s : State) (mscene : Nat) (hk : Keeps p r s) :
    Keeps p r (State.sceneFails s mscene) := by
  unfold State.sceneFails; with_reducible repeat' (first | exact hk | apply State.doFlush_keeps | apply State.setStk_keeps | apply State.barodSend_keeps | apply State.enterWings_keeps | split | dsimp only)

theorem State.sceneIn_keeps {p : Prop} {r : State} (s : State) (m : Nat) (b : List Byte) (hk : Keeps p r s) :
    Keeps p r (State.sceneIn s m b) := by
  unfold State.sceneIn; with_reducible repeat' (first | exact hk | apply State.sceneFails_keeps | apply State.sceneClear_keeps | apply State.sceneRecords_keeps | apply State.setStk_keeps | apply State.setReg_keeps | apply State.sceneCommit_keeps | apply State.setFld_keeps | apply State.barodTo_keeps | split | dsimp only)

theorem State.sceneDeadline_keeps {p : Prop} {r : State} (s : State) (hk : Keeps p r s) :
    Keeps p r (State.sceneDeadline s) := by
  unfold State.sceneDeadline; with_reducible repeat' (first | exact hk | apply State.sceneFails_keeps | split)

theorem State.sceneActivated_keeps {p : Prop} {r : State} (s : State) (hk : Keeps p r s) :
    Keeps p r (State.sceneActivated s) := by
  unfold State.sceneActivated; with_reducible repeat' (first | exact hk | apply State.setStk_keeps | apply State.stackJudge_keeps | split)

end Sys2Proof.Machine
end

