-- ==== Sys2Proof/Laws/KeepsFrames.lean ====
section
/-! SUPPORT. What the functions of Machine/Frames.lean keep. -/

namespace Sys2Proof.Machine

theorem State.landMore_keeps {p : Prop} {r : State} (s : State) (x : Frame) (more : List Byte) (hk : Keeps p r s) :
    Keeps p r (State.landMore s x more) := by
  unfold State.landMore; with_reducible repeat' (first | exact hk | apply State.setFrame_keeps | apply State.bump_keeps | split | dsimp only)

theorem State.bufferMore_keeps {p : Prop} {r : State} (s : State) (x : Frame) (more : List Byte) (hk : Keeps p r s) :
    Keeps p r (State.bufferMore s x more) := by
  unfold State.bufferMore; with_reducible repeat' (first | exact hk | apply State.setFrame_keeps | apply State.discardAll_keeps | apply State.bump_keeps | split | dsimp only)

theorem State.grow_keeps {p : Prop} {r : State} (s : State) (x : Frame) (more : List Byte) (hk : Keeps p r s) :
    Keeps p r (State.grow s x more) := by
  unfold State.grow; with_reducible repeat' (first | exact hk | apply State.setFrame_keeps | apply State.landMore_keeps | apply State.bufferMore_keeps | apply State.pauseCheck_keeps | split)

theorem State.receive_keeps {p : Prop} {r : State} (s : State) (x : Frame) (more : List Byte) (hk : Keeps p r s) :
    Keeps p r (State.receive s x more) := by
  unfold State.receive; with_reducible repeat' (first | exact hk | apply State.grow_keeps | apply State.oversize_keeps | split | dsimp only)

theorem State.frameArrival_keeps {p : Prop} {r : State} (s : State) (p0 : Nat) (octets : List Byte) (hk : Keeps p r s) :
    Keeps p r (State.frameArrival s p0 octets) := by
  unfold State.frameArrival; with_reducible repeat' (first | exact hk | apply State.touchDomain_keeps | apply State.newFrame_keeps | apply State.receive_keeps | split | dsimp only)

theorem State.maxReached_keeps {p : Prop} {r : State} (s : State) (f : Nat) (octets : List Byte) (hk : Keeps p r s) :
    Keeps p r (State.maxReached s f octets) := by
  unfold State.maxReached; with_reducible repeat' (first | exact hk | apply State.grow_keeps | apply State.oversize_keeps | split | dsimp only)

theorem State.markCopy_keeps {p : Prop} {r : State} (s : State) (x : Frame) (k : Copy) (d : Nat) (hk : Keeps p r s) :
    Keeps p r (State.markCopy s x k d).2 := by
  unfold State.markCopy; with_reducible repeat' (first | exact hk | apply State.bump_keeps | apply State.drew_keeps | split | dsimp only)

theorem State.sampler_keeps {p : Prop} {r : State} (s : State) (q : Nat) (hk : Keeps p r s) :
    Keeps p r (State.sampler s q).2 := by
  unfold State.sampler; with_reducible repeat' (first | exact hk | apply State.drew_keeps | (fail_if_no_progress (refine keeps_mk ?_ rfl rfl rfl)) | split | dsimp only)

theorem State.takeSample_keeps {p : Prop} {r : State} (s : State) (k : Copy) (d : Nat) (ended : Bool) (hk : Keeps p r s) :
    Keeps p r (State.takeSample s k d ended) := by
  unfold State.takeSample; with_reducible repeat' (first | exact hk | apply State.bump_keeps | apply State.sendSamples_keeps | (fail_if_no_progress (refine keeps_mk ?_ rfl rfl rfl)) | split)

theorem State.chargeCells_keeps {p : Prop} {r : State} (s : State) (x : Frame) (k : Copy) (lossless : Bool) (hk : Keeps p r s) (t : State) (h : State.chargeCells s x k lossless = some t) :
    Keeps p r t := by
  unfold State.chargeCells at h; dsimp only at h
  repeat' split at h
  all_goals first | (cases h; done) | (injection h with h; subst h; repeat' (first | with_reducible exact hk | with_reducible apply State.setFrame_keeps | with_reducible apply State.bump_keeps))

theorem State.enqueue_keeps {p : Prop} {r : State} (s : State) (k : Copy) (hk : Keeps p r s) :
    Keeps p r (State.enqueue s k) := by
  unfold State.enqueue; with_reducible repeat' (first | exact hk | apply State.touchPairs_keeps | apply State.touchDomain_keeps | apply State.retag_keeps | (fail_if_no_progress (refine keeps_mk ?_ rfl rfl rfl)) | split)

theorem State.enqueueCopy_keeps {p : Prop} {r : State} (s : State) (f : Nat) (k : Copy) (hk : Keeps p r s) :
    Keeps p r (State.enqueueCopy s f k) := by
  unfold State.enqueueCopy; dsimp only
  split
  · exact hk
  · repeat' (first | with_reducible exact hk | with_reducible apply State.bump_keeps | split)
    all_goals
      rename_i h _
      have hs := State.chargeCells_keeps _ _ _ _ hk _ (by with_reducible assumption)
      repeat' (first | with_reducible exact hs | with_reducible apply State.dropBadTail_keeps | with_reducible apply State.takeSample_keeps | with_reducible apply State.enqueue_keeps | with_reducible apply State.sampler_keeps | with_reducible apply State.markCopy_keeps | split)

theorem State.toPort_keeps {p : Prop} {r : State} (s : State) (f : Nat) (p0 : Nat) (rewrite : Nat) (hk : Keeps p r s) :
    Keeps p r (State.toPort s f p0 rewrite) := by
  unfold State.toPort; with_reducible repeat' (first | exact hk | apply State.bump_keeps | apply State.enqueueCopy_keeps | split | dsimp only)

theorem State.toGroup_keeps {p : Prop} {r : State} (s : State) (f : Nat) (g : Nat) (rewrite : Nat) (hk : Keeps p r s) :
    Keeps p r (State.toGroup s f g rewrite) := by
  unfold State.toGroup; with_reducible repeat' (first | exact hk | apply State.bump_keeps | apply State.toPort_keeps | split)

theorem State.toReplicas_keeps {p : Prop} {r : State} (s : State) (f : Nat) (g : Nat) (inPort : Nat) (hk : Keeps p r s) :
    Keeps p r (State.toReplicas s f g inPort) := by
  unfold State.toReplicas; with_reducible repeat' (first | assumption | apply State.bump_keeps | apply State.toPort_keeps | (apply foldl_keeps; rotate_left; intros) | split | dsimp only)

theorem State.toSlow_keeps {p : Prop} {r : State} (s : State) (x : Frame) (port : Nat) (hk : Keeps p r s) :
    Keeps p r (State.toSlow s x port) := by
  unfold State.toSlow; with_reducible repeat' (first | exact hk | apply State.bump_keeps | apply State.toPort_keeps | split | dsimp only)

theorem State.forwardOut_keeps {p : Prop} {r : State} (s : State) (x : Frame) (d : Decision) (hk : Keeps p r s) :
    Keeps p r (State.forwardOut s x d) := by
  unfold State.forwardOut; with_reducible repeat' (first | exact hk | apply State.bump_keeps | apply State.toPort_keeps | apply State.toGroup_keeps | apply State.toReplicas_keeps | apply State.toSlow_keeps | split)

theorem State.mirrorOut_keeps {p : Prop} {r : State} (s : State) (x : Frame) (d : Decision) (hk : Keeps p r s) :
    Keeps p r (State.mirrorOut s x d) := by
  unfold State.mirrorOut; with_reducible repeat' (first | exact hk | apply State.bump_keeps | apply State.enqueueCopy_keeps | split | dsimp only)

theorem State.choose_keeps {p : Prop} {r : State} (s : State) (x : Frame) (d : Decision) (hk : Keeps p r s) :
    Keeps p r (State.choose s x d) := by
  unfold State.choose; with_reducible repeat' (first | exact hk | apply State.setFrame_keeps | apply State.countFrame_keeps | apply State.presentLearn_keeps | apply State.forwardOut_keeps | apply State.mirrorOut_keeps | apply State.collect_keeps | apply State.pauseCheck_keeps | split)

theorem State.dropForced_keeps {p : Prop} {r : State} (s : State) (x : Frame) (hk : Keeps p r s) :
    Keeps p r (State.dropForced s x) := by
  unfold State.dropForced; with_reducible repeat' (first | exact hk | apply State.setFrame_keeps | apply State.bump_keeps | apply State.collect_keeps)

theorem State.carryOut_keeps {p : Prop} {r : State} (s : State) (x : Frame) (hk : Keeps p r s) :
    Keeps p r (State.carryOut s x) := by
  unfold State.carryOut; with_reducible repeat' (first | exact hk | apply State.dropForced_keeps | apply State.choose_keeps | apply State.setFrame_keeps | apply State.meter_keeps | apply State.bump_keeps | split | dsimp only)

theorem State.lookupResult_keeps {p : Prop} {r : State} (s : State) (f : Nat) (hk : Keeps p r s) :
    Keeps p r (State.lookupResult s f) := by
  unfold State.lookupResult; with_reducible repeat' (first | exact hk | apply State.carryOut_keeps | split)

theorem State.tailOf_keeps {p : Prop} {r : State} (s : State) (x : Frame) (cause : TailCause) (hk : Keeps p r s) :
    Keeps p r (State.tailOf s x cause) := by
  unfold State.tailOf; with_reducible repeat' (first | exact hk | apply State.dropRunt_keeps | apply State.rxCount_keeps | apply State.bump_keeps | apply State.finishTail_keeps | split)

theorem State.tailReceived_keeps {p : Prop} {r : State} (s : State) (f : Nat) (octets : List Byte) (cause : TailCause) (hk : Keeps p r s) :
    Keeps p r (State.tailReceived s f octets cause) := by
  unfold State.tailReceived; with_reducible repeat' (first | exact hk | apply State.receive_keeps | apply State.tailOf_keeps | apply State.carryOut_keeps | apply State.collect_keeps | split | dsimp only)

theorem State.pipelineEntry_keeps {p : Prop} {r : State} (s : State) (f : Nat) (octets : List Byte) (overRate : Bool) (hk : Keeps p r s) :
    Keeps p r (State.pipelineEntry s f octets overRate) := by
  unfold State.pipelineEntry; with_reducible repeat' (first | exact hk | apply State.receive_keeps | apply State.setFrame_keeps | apply State.collect_keeps | apply State.pauseCheck_keeps | apply State.dropForced_keeps | apply State.enterPass_keeps | split | dsimp only)

theorem State.retagAll_keeps {p : Prop} {r : State} (s : State) (p0 : Nat) (hk : Keeps p r s) :
    Keeps p r (State.retagAll s p0) := by
  unfold State.retagAll; with_reducible repeat' (first | assumption | apply State.retag_keeps | (apply foldl_keeps; rotate_left; intros))

theorem State.startCopy_keeps {p : Prop} {r : State} (s : State) (k : Copy) (x : Frame) (record : Option (BitVec 256)) (hk : Keeps p r s) :
    Keeps p r (State.startCopy s k x record) := by
  unfold State.startCopy; with_reducible repeat' (first | exact hk | apply State.setCopy_keeps | apply State.chargeCopy_keeps | apply State.bump_keeps | apply State.pushStamp_keeps | apply State.retag_keeps | (fail_if_no_progress (refine keeps_mk ?_ rfl rfl rfl)) | split)

theorem State.egressSelect_keeps {p : Prop} {r : State} (s : State) (p0 : Nat) (hk : Keeps p r s) :
    Keeps p r (State.egressSelect s p0) := by
  unfold State.egressSelect; with_reducible repeat' (first | exact hk | apply State.retagAll_keeps | apply State.discardCopy_keeps | apply State.collect_keeps | apply State.pauseCheck_keeps | apply State.startCopy_keeps | split | dsimp only)

theorem State.egressComplete_keeps {p : Prop} {r : State} (s : State) (p0 : Nat) (hk : Keeps p r s) :
    Keeps p r (State.egressComplete s p0) := by
  unfold State.egressComplete; with_reducible repeat' (first | exact hk | apply State.dropCopy_keeps | apply State.bump_keeps | apply State.endTx_keeps | apply State.collect_keeps | apply State.pauseCheck_keeps | (fail_if_no_progress (refine keeps_mk ?_ rfl rfl rfl)) | split)

theorem State.spillReturn_keeps {p : Prop} {r : State} (s : State) (p0 : Nat) (c : Nat) (hk : Keeps p r s) :
    Keeps p r (State.spillReturn s p0 c) := by
  unfold State.spillReturn
  split
  · exact hk
  · split
    · exact State.dropCopy_keeps _ _ hk
    · split
      · exact hk
      · split
        · exact State.touchPairs_keeps _ _ hk
        · split
          · exact State.pauseCheck_keeps _ _ (State.collect_keeps _ (State.discardCopy_keeps _ _ _ hk))
          · split
            · exact hk
            · rename_i h
              exact State.pauseCheck_keeps _ _ (State.setCopy_keeps _ _ _ (State.chargeCells_keeps _ _ _ _ hk _ h))

theorem State.memberRepin_keeps {p : Prop} {r : State} (s : State) (g : Nat) (i : Nat) (hk : Keeps p r s) :
    Keeps p r (State.memberRepin s g i) := by
  unfold State.memberRepin; with_reducible repeat' (first | exact hk | apply State.repin_keeps | split)

end Sys2Proof.Machine
end

