-- ==== Sys2Proof/Laws/KeepsReads.lean ====
section
/-! SUPPORT. What the functions of Machine/Reads.lean keep. -/

namespace Sys2Proof.Machine

theorem State.setSel_keeps {p : Prop} {r : State} (s : State) (k : Nat) (n : Nat) (hk : Keeps p r s) :
    Keeps p r (State.setSel s k n) := by
  unfold State.setSel; with_reducible repeat' (first | exact hk | (fail_if_no_progress (refine keeps_mk ?_ rfl rfl rfl)))

end Sys2Proof.Machine
end

