-- ==== Sys2Proof/Laws/KeepsWrites.lean ====
section
/-! SUPPORT. What the functions of Machine/Writes.lean keep. -/

namespace Sys2Proof.Machine

theorem State.finishObj_keeps {p : Prop} {r : State} (x : Nat × State) (hk : Keeps p r x.2) : Keeps p r (finishObj x) := by
  unfold finishObj; exact State.setFld_keeps _ _ _ _ hk

theorem State.store_keeps {p : Prop} {r : State} (s : State) (x : RegWrite) (hk : Keeps p r s) :
    Keeps p r (State.store s x) := by
  unfold State.store; with_reducible repeat' (first | exact hk | apply State.setReg_keeps)

theorem State.writePrt_keeps {p : Prop} {r : State} (s : State) (x : RegWrite) (hk : Keeps p r s) :
    Keeps p r (State.writePrt s x) := by
  unfold State.writePrt; with_reducible repeat' (first | exact hk | apply State.prtConfig_keeps | apply State.pfcWm_keeps | apply State.store_keeps | split)

theorem State.writeOpt_keeps {p : Prop} {r : State} (s : State) (x : RegWrite) (hk : Keeps p r s) :
    Keeps p r (State.writeOpt s x) := by
  unfold State.writeOpt; with_reducible repeat' (first | exact hk | apply State.planWrite_keeps | apply State.lbCellsSet_keeps | apply State.store_keeps | apply State.lsmEject_keeps | apply State.lsmRetry_keeps | split)

theorem State.writeCls_keeps {p : Prop} {r : State} (s : State) (x : RegWrite) (hk : Keeps p r s) :
    Keeps p r (State.writeCls s x) := by
  unfold State.writeCls; with_reducible repeat' (first | exact hk | apply State.sceneCancel_keeps | apply State.store_keeps | apply State.sceneCommit_keeps | split)

theorem State.tblRefused_keeps {p : Prop} {r : State} (s : State) (hk : Keeps p r s) :
    Keeps p r (State.tblRefused s) := by
  unfold State.tblRefused; with_reducible repeat' (first | exact hk | apply State.setFld_keeps)

theorem State.tableCfgWrite_keeps {p : Prop} {r : State} (s : State) (t0 : Nat) (x : RegWrite) (hk : Keeps p r s) :
    Keeps p r (State.tableCfgWrite s t0 x) := by
  unfold State.tableCfgWrite; with_reducible repeat' (first | exact hk | apply State.tblRefused_keeps | apply State.store_keeps | split | dsimp only)

theorem State.tableAccept_keeps {p : Prop} {r : State} (s : State) (op : Nat) (t0 : Nat) (sel : Bool) (o : TableOperands) (hk : Keeps p r s) :
    Keeps p r (State.tableAccept s op t0 sel o) := by
  unfold State.tableAccept; with_reducible repeat' (first | exact hk | apply State.setFld_keeps | apply State.tableCommand_keeps | (fail_if_no_progress (refine keeps_mk ?_ rfl rfl rfl)) | split)

theorem State.stageOperands_keeps {p : Prop} {r : State} (s : State) (o : TableOperands) (hk : Keeps p r s) :
    Keeps p r (State.stageOperands s o) := by
  unfold State.stageOperands; with_reducible repeat' (first | assumption | apply State.setFld_keeps | apply State.setReg_keeps | (apply foldl_keeps; rotate_left; intros))

theorem State.evictedPop_keeps {p : Prop} {r : State} (s : State) (hk : Keeps p r s) :
    Keeps p r (State.evictedPop s) := by
  unfold State.evictedPop; with_reducible repeat' (first | exact hk | (fail_if_no_progress (refine keeps_mk ?_ rfl rfl rfl)))

theorem State.writeTbl_keeps {p : Prop} {r : State} (s : State) (x : RegWrite) (hk : Keeps p r s) :
    Keeps p r (State.writeTbl s x) := by
  unfold State.writeTbl; with_reducible repeat' (first | exact hk | apply State.tableAccept_keeps | apply State.tableCfgWrite_keeps | apply State.tblRefused_keeps | apply State.store_keeps | apply State.evictedPop_keeps | split)

theorem State.swcRefused_keeps {p : Prop} {r : State} (s : State) (hk : Keeps p r s) :
    Keeps p r (State.swcRefused s) := by
  unfold State.swcRefused; with_reducible repeat' (first | exact hk | apply State.setFld_keeps)

theorem State.poolWrite_keeps {p : Prop} {r : State} (s : State) (x : RegWrite) (hk : Keeps p r s) :
    Keeps p r (State.poolWrite s x) := by
  unfold State.poolWrite; with_reducible repeat' (first | exact hk | apply State.store_keeps | apply State.swcRefused_keeps | split)

theorem State.groupWrite_keeps {p : Prop} {r : State} (s : State) (x : RegWrite) (hk : Keeps p r s) :
    Keeps p r (State.groupWrite s x) := by
  unfold State.groupWrite; with_reducible repeat' (first | exact hk | apply State.swcRefused_keeps | apply State.store_keeps | split | dsimp only)

theorem State.pinWrite_keeps {p : Prop} {r : State} (s : State) (x : RegWrite) (hk : Keeps p r s) :
    Keeps p r (State.pinWrite s x) := by
  unfold State.pinWrite; with_reducible repeat' (first | assumption | apply State.store_keeps | apply State.repin_keeps | (apply foldl_keeps; rotate_left; intros))

theorem State.memberWrite_keeps {p : Prop} {r : State} (s : State) (x : RegWrite) (hk : Keeps p r s) :
    Keeps p r (State.memberWrite s x) := by
  unfold State.memberWrite; with_reducible repeat' (first | exact hk | apply State.store_keeps | apply State.repin_keeps | split | dsimp only)

theorem State.spotWrite_keeps {p : Prop} {r : State} (s : State) (x : RegWrite) (hk : Keeps p r s) :
    Keeps p r (State.spotWrite s x) := by
  unfold State.spotWrite; with_reducible repeat' (first | exact hk | apply State.store_keeps | (fail_if_no_progress (refine keeps_mk ?_ rfl rfl rfl)) | split | dsimp only)

theorem State.writeSwc_keeps {p : Prop} {r : State} (s : State) (r0 : Requester) (x : RegWrite) (hk : Keeps p r s) :
    Keeps p r (State.writeSwc s r0 x) := by
  unfold State.writeSwc; with_reducible repeat' (first | exact hk | apply State.poolWrite_keeps | apply State.store_keeps | apply State.spotWrite_keeps | apply State.groupWrite_keeps | apply State.memberWrite_keeps | apply State.pinWrite_keeps | apply State.keepReady_keeps | apply State.setSel_keeps | split | dsimp only)

theorem State.writeTms_keeps {p : Prop} {r : State} (s : State) (x : RegWrite) (hk : Keeps p r s) :
    Keeps p r (State.writeTms s x) := by
  unfold State.writeTms; with_reducible repeat' (first | exact hk | apply State.store_keeps | apply State.shaperWrite_keeps | apply State.ttCtrlWrite_keeps | apply State.policerWrite_keeps | split | dsimp only)

theorem State.objCommand_keeps {p : Prop} {r : State} (s : State) (op : Nat) (type : Nat) (i : Nat) (keep : Bool) (hk : Keeps p r s) :
    Keeps p r (State.objCommand s op type i keep) := by
  unfold State.objCommand
  split
  · exact State.finishObj_keeps _ (State.objRead_keeps _ _ _ hk)
  · exact State.finishObj_keeps _ (State.objWrite_keeps _ _ _ _ hk)
  · exact State.finishObj_keeps _ (State.objRoll_keeps _ _ _ hk)
  · exact State.finishObj_keeps _ hk

theorem State.oflPop_keeps {p : Prop} {r : State} (s : State) (hk : Keeps p r s) :
    Keeps p r (State.oflPop s) := by
  unfold State.oflPop; with_reducible repeat' (first | exact hk | (fail_if_no_progress (refine keeps_mk ?_ rfl rfl rfl)))

theorem State.writeOfl_keeps {p : Prop} {r : State} (s : State) (x : RegWrite) (hk : Keeps p r s) :
    Keeps p r (State.writeOfl s x) := by
  unfold State.writeOfl; with_reducible repeat' (first | exact hk | apply State.store_keeps | apply State.objCommand_keeps | apply State.oflPop_keeps | split)

theorem State.limitWrite_keeps {p : Prop} {r : State} (s : State) (r0 : Requester) (c : Nat) (which : LimitKind) (v : Nat) (hk : Keeps p r s) :
    Keeps p r (State.limitWrite s r0 c which v) := by
  unfold State.limitWrite; with_reducible repeat' (first | exact hk | apply State.setKeyCtx_keeps | apply State.setFld_keeps | split | dsimp only)

theorem State.ctxCtrl_keeps {p : Prop} {r : State} (s : State) (c : Nat) (weight : Nat) (pin : Bool) (hk : Keeps p r s) :
    Keeps p r (State.ctxCtrl s c weight pin) := by
  unfold State.ctxCtrl; with_reducible repeat' (first | exact hk | apply State.setKeyCtx_keeps)

theorem State.ctxCommand_keeps {p : Prop} {r : State} (s : State) (c : Nat) (op : Nat) (hk : Keeps p r s) :
    Keeps p r (State.ctxCommand s c op) := by
  unfold State.ctxCommand; with_reducible repeat' (first | exact hk | apply State.lockOwn_keeps | apply State.settleAll_keeps | apply State.setKeyCtx_keeps | apply State.writeCold_keeps | split | dsimp only)

theorem State.writeCph_keeps {p : Prop} {r : State} (s : State) (r0 : Requester) (x : RegWrite) (hk : Keeps p r s) :
    Keeps p r (State.writeCph s r0 x) := by
  unfold State.writeCph; with_reducible repeat' (first | exact hk | apply State.setSel_keeps | apply State.limitWrite_keeps | apply State.ctxCtrl_keeps | apply State.ctxCommand_keeps | apply State.store_keeps | split)

theorem State.retrain_keeps {p : Prop} {r : State} (s : State) (l : Nat) (hk : Keeps p r s) :
    Keeps p r (State.retrain s l) := by
  unfold State.retrain; with_reducible repeat' (first | exact hk | apply State.emit_keeps | split)

theorem State.maxSpeed_keeps {p : Prop} {r : State} (s : State) (l : Nat) (n : Nat) (hk : Keeps p r s) :
    Keeps p r (State.maxSpeed s l n) := by
  unfold State.maxSpeed; with_reducible repeat' (first | exact hk | apply State.setFld_keeps | apply State.retrain_keeps | split | dsimp only)

theorem State.writeHep_keeps {p : Prop} {r : State} (s : State) (x : RegWrite) (hk : Keeps p r s) :
    Keeps p r (State.writeHep s x) := by
  unfold State.writeHep; with_reducible repeat' (first | exact hk | apply State.maxSpeed_keeps | apply State.retrain_keeps | apply State.store_keeps | apply State.releaseHeld_keeps | split)

theorem State.sliceStateWrite_keeps {p : Prop} {r : State} (s : State) (n : Nat) (x : RegWrite) (hk : Keeps p r s) :
    Keeps p r (State.sliceStateWrite s n x) := by
  unfold State.sliceStateWrite; with_reducible repeat' (first | exact hk | apply State.setFld_keeps | apply State.slcRefused_keeps | split | dsimp only)

theorem State.writeSlc_keeps {p : Prop} {r : State} (s : State) (x : RegWrite) (hk : Keeps p r s) :
    Keeps p r (State.writeSlc s x) := by
  unfold State.writeSlc; with_reducible repeat' (first | exact hk | apply State.sliceCommand_keeps | apply State.peerShare_keeps | apply State.store_keeps | apply State.sliceStateWrite_keeps | apply State.grantWrite_keeps | apply State.queueCfg_keeps | apply State.shaperWrite_keeps | split)

theorem State.queueSwitch_keeps {p : Prop} {r : State} (s : State) (g : Nat) (on : Bool) (hk : Keeps p r s) :
    Keeps p r (State.queueSwitch s g on) := by
  unfold State.queueSwitch; with_reducible repeat' (first | exact hk | apply State.queueRefused_keeps | apply State.queueEnable_keeps | apply State.queueDisable_keeps | split)

theorem State.queueCtrl_keeps {p : Prop} {r : State} (s : State) (g : Nat) (x : RegWrite) (hk : Keeps p r s) :
    Keeps p r (State.queueCtrl s g x) := by
  unfold State.queueCtrl; with_reducible repeat' (first | exact hk | apply State.setReg_keeps | apply State.queueSwitch_keeps | split | dsimp only)

theorem State.writeQrg_keeps {p : Prop} {r : State} (s : State) (x : RegWrite) (hk : Keeps p r s) :
    Keeps p r (State.writeQrg s x) := by
  unfold State.writeQrg; with_reducible repeat' (first | exact hk | apply State.store_keeps | apply State.queueRefused_keeps | apply State.queueCtrl_keeps | apply State.setQueue_keeps | split | dsimp only)

theorem State.chanCtrl_keeps {p : Prop} {r : State} (s : State) (c : Nat) (x : RegWrite) (hk : Keeps p r s) :
    Keeps p r (State.chanCtrl s c x) := by
  unfold State.chanCtrl; with_reducible repeat' (first | exact hk | apply State.setReg_keeps | apply State.chanEnable_keeps | apply State.chanAbort_keeps | apply State.chanDisable_keeps | apply State.chanAppend_keeps | split | dsimp only)

theorem State.writeBmv_keeps {p : Prop} {r : State} (s : State) (x : RegWrite) (hk : Keeps p r s) :
    Keeps p r (State.writeBmv s x) := by
  unfold State.writeBmv; with_reducible repeat' (first | exact hk | apply State.stageShares_keeps | apply State.raiseLine_keeps | apply State.store_keeps | apply State.setFld_keeps | apply State.chanCtrl_keeps | split)

theorem State.cpcCoreReset_keeps {p : Prop} {r : State} (s : State) (k : Nat) (hk : Keeps p r s) :
    Keeps p r (State.cpcCoreReset s k) := by
  unfold State.cpcCoreReset; with_reducible repeat' (first | exact hk | apply State.coreReset_keeps | split)

theorem State.writeTrp_keeps {p : Prop} {r : State} (s : State) (r0 : Requester) (x : RegWrite) (hk : Keeps p r s) :
    Keeps p r (State.writeTrp s r0 x) := by
  unfold State.writeTrp; with_reducible repeat' (first | exact hk | apply State.dqCfgWrite_keeps | apply State.dqConsWrite_keeps | apply State.store_keeps | apply State.cpcCoreReset_keeps | apply State.threadControl_keeps | apply State.eventSet_keeps | split | dsimp only)

theorem State.writeCbd_keeps {p : Prop} {r : State} (s : State) (r0 : Requester) (x : RegWrite) (hk : Keeps p r s) :
    Keeps p r (State.writeCbd s r0 x) := by
  unfold State.writeCbd; with_reducible repeat' (first | exact hk | apply State.slotPut_keeps | apply State.store_keeps | split)

theorem State.kickBy_keeps {p : Prop} {r : State} (s : State) (r0 : Requester) (hk : Keeps p r s) :
    Keeps p r (State.kickBy s r0) := by
  unfold State.kickBy; with_reducible repeat' (first | exact hk | apply State.setUnit_keeps | split)

theorem State.writeRdn_keeps {p : Prop} {r : State} (s : State) (r0 : Requester) (x : RegWrite) (hk : Keeps p r s) :
    Keeps p r (State.writeRdn s r0 x) := by
  unfold State.writeRdn; with_reducible repeat' (first | exact hk | apply State.store_keeps | apply State.claimBy_keeps | apply State.claimStatus_keeps | apply State.kickBy_keeps | apply State.yieldBy_keeps | apply State.doneBy_keeps | apply State.probeBy_keeps | (fail_if_no_progress (refine keeps_mk ?_ rfl rfl rfl)) | split | dsimp only)

theorem State.writeLocal_keeps {p : Prop} {r : State} (s : State) (x : RegWrite) (hk : Keeps p r s) :
    Keeps p r (State.writeLocal s x) := by
  unfold State.writeLocal; with_reducible repeat' (first | exact hk | apply State.setFld_keeps | apply State.skipUnknown_keeps | apply State.setReg_keeps | apply State.store_keeps | split | dsimp only)

theorem State.writeStk_keeps {p : Prop} {r : State} (s : State) (x : RegWrite) (hk : Keeps p r s) :
    Keeps p r (State.writeStk s x) := by
  unfold State.writeStk; with_reducible repeat' (first | exact hk | apply State.store_keeps | apply State.setStk_keeps | apply State.stackCommand_keeps | split | dsimp only)

theorem State.writeSlow_keeps {p : Prop} {r : State} (s : State) (r0 : Requester) (x : RegWrite) (hk : Keeps p r s) :
    Keeps p r (State.writeSlow s r0 x) := by
  unfold State.writeSlow; with_reducible repeat' (first | exact hk | apply State.setReg_keeps | apply State.powerCommand_keeps | apply State.domainCtrl_keeps | apply State.timeStep_keeps | apply State.store_keeps | apply State.healVoted_keeps | split | dsimp only)

theorem State.recordPop_keeps {p : Prop} {r : State} (s : State) (hk : Keeps p r s) :
    Keeps p r (State.recordPop s) := by
  unfold State.recordPop; with_reducible repeat' (first | exact hk | (fail_if_no_progress (refine keeps_mk ?_ rfl rfl rfl)))

theorem State.curtainCommand_keeps {p : Prop} {r : State} (s : State) (hk : Keeps p r s) :
    Keeps p r (State.curtainCommand s) := by
  unfold State.curtainCommand; with_reducible repeat' (first | exact hk | apply State.deviceCurtain_keeps)

theorem State.scopeWrite_keeps {p : Prop} {r : State} (s : State) (k : ScopeKind) (x : RegWrite) (hk : Keeps p r s) :
    Keeps p r (State.scopeWrite s k x) := by
  unfold State.scopeWrite; with_reducible repeat' (first | exact hk | apply State.scopeHold_keeps | apply State.exitScope_keeps | split)

theorem State.writeFlt_keeps {p : Prop} {r : State} (s : State) (x : RegWrite) (hk : Keeps p r s) :
    Keeps p r (State.writeFlt s x) := by
  unfold State.writeFlt; with_reducible repeat' (first | exact hk | apply State.curtainCommand_keeps | apply State.recordPop_keeps | apply State.scopeWrite_keeps | apply State.store_keeps | split)

theorem State.writeSys_keeps {p : Prop} {r : State} (s : State) (x : RegWrite) (hk : Keeps p r s) :
    Keeps p r (State.writeSys s x) := by
  unfold State.writeSys; with_reducible repeat' (first | exact hk | apply State.store_keeps | (fail_if_no_progress (refine keeps_mk ?_ rfl rfl rfl)) | split)

theorem State.performWrite_keeps {p : Prop} {r : State} (s : State) (r0 : Requester) (reg : RegName) (i : Nat) (value : Word) (mask : Word) (hk : Keeps p r s) :
    Keeps p r (State.performWrite s r0 reg i value mask) := by
  unfold State.performWrite; with_reducible repeat' (first | exact hk | apply State.writeSys_keeps | apply State.writeSlow_keeps | apply State.writeOpt_keeps | apply State.writeFlt_keeps | apply State.writeRdn_keeps | apply State.writeStk_keeps | apply State.writePrt_keeps | apply State.writeCls_keeps | apply State.writeTbl_keeps | apply State.writeSwc_keeps | apply State.writeTms_keeps | apply State.writeOfl_keeps | apply State.writeCph_keeps | apply State.writeHep_keeps | apply State.writeQrg_keeps | apply State.writeBmv_keeps | apply State.writeSlc_keeps | apply State.writeTrp_keeps | apply State.writeCbd_keeps | apply State.writeLocal_keeps | split)

theorem State.writeWhole_keeps {p : Prop} {r : State} (s : State) (r0 : Requester) (reg : RegName) (i : Nat) (value : Word) (hk : Keeps p r s) :
    Keeps p r (State.writeWhole s r0 reg i value) := by
  unfold State.writeWhole; with_reducible repeat' (first | exact hk | apply State.performWrite_keeps)

theorem State.performSlow_keeps {p : Prop} {r : State} (s : State) (b : SlowBlock) (hk : Keeps p r s) :
    Keeps p r (State.performSlow s b) := by
  unfold State.performSlow; with_reducible repeat' (first | exact hk | apply State.setBridge_keeps | apply State.performWrite_keeps | split)

end Sys2Proof.Machine
end

