-- ==== Sys2Proof/Laws/KeepsControl.lean ====
section
/-! SUPPORT. What the functions of Machine/Control.lean keep. -/

namespace Sys2Proof.Machine

theorem State.sramWrite_keeps {p : Prop} {r : State} (s : State) (k : Nat) (a2 : List Byte) (hk : Keeps p r s) :
    Keeps p r (State.sramWrite s k a2) := by
  induction a2 generalizing s k with
  | nil => exact hk
  | cons b bs ih => exact ih _ _ (keeps_mem hk id id SMap.wf_set id id id id id)

theorem State.spotWrite4_keeps {p : Prop} {r : State} (s : State) (x : Spot) (v : Nat) (hk : Keeps p r s) :
    Keeps p r (State.spotWrite4 s x v) := by
  unfold State.spotWrite4; dsimp only
  split
  · exact State.sramWrite_keeps _ _ _ hk
  · exact keeps_mem hk id id id (writeMem_wf _ _) id id id id
  · exact keeps_mem hk (writeMem_wf _ _) id id id id id id id
  · exact State.writePlace_keeps _ _ _ hk
  · exact hk

theorem State.countWire_keeps {p : Prop} {r : State} (s : State) (reg : RegName) (i : Nat) (hk : Keeps p r s) :
    Keeps p r (State.countWire s reg i) := by
  unfold State.countWire; with_reducible repeat' (first | exact hk | apply State.bumpBy_keeps | apply State.drew_keeps | split)

theorem State.approach_keeps {p : Prop} {r : State} (s : State) (reg : RegName) (i : Nat) (hk : Keeps p r s) :
    Keeps p r (State.approach s reg i) := by
  unfold State.approach; with_reducible repeat' (first | exact hk | apply State.performSlow_keeps | apply State.touchReg_keeps | apply State.countWire_keeps | split)

theorem State.readEffect_keeps {p : Prop} {r : State} (s : State) (r0 : Requester) (reg : RegName) (i : Nat) (low : Bool) (high : Bool) (hk : Keeps p r s) :
    Keeps p r (State.readEffect s r0 reg i low high) := by
  unfold State.readEffect; with_reducible repeat' (first | exact hk | apply State.popStamp_keeps | apply State.setTimeInput_keeps | apply State.slotTaken_keeps | apply State.setCtr_keeps | (fail_if_no_progress (refine keeps_mk ?_ rfl rfl rfl)) | split)

theorem State.readWide_keeps {p : Prop} {r : State} (s : State) (r0 : Requester) (reg : RegName) (i : Nat) (hk : Keeps p r s) :
    Keeps p r (State.readWide s r0 reg i).2 := by
  unfold State.readWide; with_reducible repeat' (first | exact hk | apply State.approach_keeps | apply State.readEffect_keeps | split | dsimp only)

theorem State.readPart_keeps {p : Prop} {r : State} (s : State) (r0 : Requester) (t0 : Target) (a : Nat) (hk : Keeps p r s) :
    Keeps p r (State.readPart s r0 t0 a).2 := by
  unfold State.readPart; with_reducible repeat' (first | exact hk | apply State.approach_keeps | apply State.readEffect_keeps | apply State.setLatch_keeps | split | dsimp only)

theorem State.read4_keeps {p : Prop} {r : State} (s : State) (r0 : Requester) (a : Nat) (shown : Nat) (hk : Keeps p r s) :
    Keeps p r (State.read4 s r0 a shown).2 := by
  unfold State.read4; with_reducible repeat' (first | exact hk | apply State.readPart_keeps | apply State.badAccess_keeps | split)

theorem State.mapReadAt_keeps {p : Prop} {r : State} (s : State) (r0 : Requester) (a : Nat) (shown : Nat) (size : AccSize) (hk : Keeps p r s) :
    Keeps p r (State.mapReadAt s r0 a shown size).2 := by
  unfold State.mapReadAt; with_reducible repeat' (first | exact hk | apply State.splitBuffer_keeps | apply State.badAccess_keeps | apply State.read4_keeps | apply State.readWide_keeps | split | dsimp only)

theorem State.deliver_keeps {p : Prop} {r : State} (s : State) (r0 : Requester) (reg : RegName) (i : Nat) (value : Word) (mask : Word) (hk : Keeps p r s) :
    Keeps p r (State.deliver s r0 reg i value mask) := by
  unfold State.deliver; with_reducible repeat' (first | exact hk | apply State.setBridge_keeps | apply State.performWrite_keeps | split)

theorem State.deliverAwake_keeps {p : Prop} {r : State} (s : State) (r0 : Requester) (reg : RegName) (i : Nat) (value : Word) (mask : Word) (hk : Keeps p r s) :
    Keeps p r (State.deliverAwake s r0 reg i value mask) := by
  unfold State.deliverAwake; with_reducible repeat' (first | exact hk | apply State.hold_keeps | apply State.deliver_keeps | split)

theorem State.writeReg_keeps {p : Prop} {r : State} (s : State) (r0 : Requester) (reg : RegName) (i : Nat) (o : Nat) (value : Word) (mask : Word) (hk : Keeps p r s) :
    Keeps p r (State.writeReg s r0 reg i o value mask) := by
  unfold State.writeReg; with_reducible repeat' (first | exact hk | apply State.admitChecked_keeps | apply State.deliverAwake_keeps | split | dsimp only)

theorem State.writePart_keeps {p : Prop} {r : State} (s : State) (r0 : Requester) (t0 : Target) (a : Nat) (v : Nat) (hk : Keeps p r s) :
    Keeps p r (State.writePart s r0 t0 a v) := by
  unfold State.writePart; with_reducible repeat' (first | exact hk | apply State.writeReg_keeps | apply State.setBuffer_keeps | split)

theorem State.write4_keeps {p : Prop} {r : State} (s : State) (r0 : Requester) (a : Nat) (shown : Nat) (v : Nat) (hk : Keeps p r s) :
    Keeps p r (State.write4 s r0 a shown v) := by
  unfold State.write4; with_reducible repeat' (first | exact hk | apply State.writePart_keeps | apply State.badAccess_keeps | apply State.spotWrite4_keeps | split)

theorem State.mapWriteAt_keeps {p : Prop} {r : State} (s : State) (r0 : Requester) (a : Nat) (shown : Nat) (size : AccSize) (value : Word) (hk : Keeps p r s) :
    Keeps p r (State.mapWriteAt s r0 a shown size value) := by
  unfold State.mapWriteAt; with_reducible repeat' (first | exact hk | apply State.splitBuffer_keeps | apply State.badAccess_keeps | apply State.write4_keeps | apply State.writeReg_keeps | split | dsimp only)

theorem State.tableWrite_keeps {p : Prop} {r : State} (s : State) (l : Nat) (fn : Nat) (o : Nat) (pba : Nat) (v : Nat) (hk : Keeps p r s) :
    Keeps p r (State.tableWrite s l fn o pba v) := by
  unfold State.tableWrite; with_reducible repeat' (first | exact hk | apply State.setFunc_keeps | apply State.flushMsix_keeps | split)

theorem State.pf0Slot_keeps {p : Prop} {r : State} (s : State) (r0 : Requester) (a : Nat) (shown : Nat) (size : AccSize) (hk : Keeps p r s) :
    Keeps p r (State.pf0Slot s r0 a shown size).2 := by
  unfold State.pf0Slot; with_reducible repeat' (first | exact hk | apply State.mapReadAt_keeps | apply State.slotTaken_keeps | split)

theorem State.pf0Read_keeps {p : Prop} {r : State} (s : State) (h0 : Nat) (l : Nat) (off : Nat) (size : AccSize) (hk : Keeps p r s) :
    Keeps p r (State.pf0Read s h0 l off size).2 := by
  unfold State.pf0Read; with_reducible repeat' (first | exact hk | apply State.mapReadAt_keeps | apply State.pf0Slot_keeps | apply State.splitBuffer_keeps | apply State.badAccess_keeps | split)

theorem State.pf0Write_keeps {p : Prop} {r : State} (s : State) (h0 : Nat) (l : Nat) (off : Nat) (size : AccSize) (value : Word) (hk : Keeps p r s) :
    Keeps p r (State.pf0Write s h0 l off size value) := by
  unfold State.pf0Write; with_reducible repeat' (first | exact hk | apply State.splitBuffer_keeps | apply State.slotPut_keeps | apply State.badAccess_keeps | apply State.mapWriteAt_keeps | apply State.tableWrite_keeps | split)

theorem State.sliceRead_keeps {p : Prop} {r : State} (s : State) (n : Nat) (off : Nat) (size : AccSize) (hk : Keeps p r s) :
    Keeps p r (State.sliceRead s n off size).2 := by
  unfold State.sliceRead; with_reducible repeat' (first | exact hk | apply State.splitBuffer_keeps | apply State.mapReadAt_keeps | apply State.badAccess_keeps | split)

theorem State.sliceWrite_keeps {p : Prop} {r : State} (s : State) (n : Nat) (off : Nat) (size : AccSize) (value : Word) (hk : Keeps p r s) :
    Keeps p r (State.sliceWrite s n off size value) := by
  unfold State.sliceWrite; with_reducible repeat' (first | exact hk | apply State.splitBuffer_keeps | apply State.doorbellWord_keeps | apply State.bump_keeps | apply State.slotPut_keeps | apply State.badAccess_keeps | apply State.mapWriteAt_keeps | split | dsimp only)

theorem State.mapRead_keeps {p : Prop} {r : State} (s : State) (r0 : Requester) (a : Nat) (size : AccSize) (hk : Keeps p r s) :
    Keeps p r (State.mapRead s r0 a size).2 := by
  unfold State.mapRead; with_reducible repeat' (first | exact hk | apply State.pf0Read_keeps | apply State.sliceRead_keeps | apply State.mapReadAt_keeps | split)

theorem State.mapWrite_keeps {p : Prop} {r : State} (s : State) (r0 : Requester) (a : Nat) (size : AccSize) (value : Word) (hk : Keeps p r s) :
    Keeps p r (State.mapWrite s r0 a size value) := by
  unfold State.mapWrite; with_reducible repeat' (first | exact hk | apply State.pf0Write_keeps | apply State.sliceWrite_keeps | apply State.mapWriteAt_keeps | split)

theorem State.readOut_keeps {p : Prop} {r : State} (s : State) (r0 : Requester) (a : Nat) (size : AccSize) (hk : Keeps p r s) :
    Keeps p r (State.readOut s r0 a size) := by
  unfold State.readOut; with_reducible repeat' (first | exact hk | apply State.splitBuffer_keeps | apply State.touchDomain_keeps | apply State.hold_keeps | apply State.mapRead_keeps | apply State.emit_keeps | split)

theorem State.directWrite_keeps {p : Prop} {r : State} (s : State) (r0 : Requester) (reg : RegName) (i : Nat) (value : Word) (mask : Word) (hk : Keeps p r s) :
    Keeps p r (State.directWrite s r0 reg i value mask) := by
  unfold State.directWrite; with_reducible repeat' (first | exact hk | apply State.gatedWrite_keeps | apply State.hold_keeps | apply State.performWrite_keeps | split | intro)

theorem State.peerAccess_keeps {p : Prop} {r : State} (s : State) (l : Nat) (off : Nat) (addr : Nat) (t0 : HostTlp) (hk : Keeps p r s) :
    Keeps p r (State.peerAccess s l off addr t0) := by
  unfold State.peerAccess; with_reducible repeat' (first | exact hk | apply State.touchPairs_keeps | apply State.hold_keeps | apply State.writeHbm_keeps | apply State.completePieces_keeps | split | dsimp only)

theorem State.waited_keeps {p : Prop} {r : State} (s : State) (w : Waiting) (hk : Keeps p r s) :
    Keeps p r (State.waited s w) := by
  unfold State.waited; with_reducible repeat' (first | exact hk | apply State.readOut_keeps | apply State.performWrite_keeps | apply State.peerAccess_keeps | apply State.stackRing_keeps | apply State.stackSend_keeps | split)

theorem State.releaseWaiting_keeps {p : Prop} {r : State} (s : State) (d : Nat) (hk : Keeps p r s) :
    Keeps p r (State.releaseWaiting s d) := by
  unfold State.releaseWaiting; with_reducible repeat' (first | assumption | apply State.waited_keeps | (apply foldl_keeps; rotate_left; intros) | (fail_if_no_progress (refine keeps_mk ?_ rfl rfl rfl)) | split)

end Sys2Proof.Machine
end

