-- ==== Sys2Proof/Laws/KeepsImage.lean ====
section
/-! SUPPORT. What the functions of Machine/Image.lean keep. -/

namespace Sys2Proof.Machine

theorem State.setFlash_keeps {p : Prop} {r : State} (s : State) (b : Bool) (f : Flash) (hk : Keeps p r s)
    (hf : s.canonical = true → SMap.wf flashDefault f.data = true) :
    Keeps p r (State.setFlash s b f) := by
  unfold State.setFlash; split
  · refine hk.stores rfl rfl rfl rfl (fun hc => ?_)
    have h := hf hc
    rw [canonical_iff] at hc ⊢
    rw [sramByte_congr (s := s) (t := { s with flashB := f }) rfl]
    obtain ⟨c1, c2, c3, c4, cs⟩ := hc
    exact ⟨c1, c2, c3, h, cs⟩
  · refine hk.stores rfl rfl rfl rfl (fun hc => ?_)
    have h := hf hc
    rw [canonical_iff] at hc ⊢
    rw [sramByte_congr (s := s) (t := { s with flashA := f }) rfl]
    obtain ⟨c1, c2, c3, c4, cs⟩ := hc
    exact ⟨c1, c2, h, c4, cs⟩

theorem State.loadWrite_keeps {p : Prop} {r : State} (s : State) (x : ListWrite) (hk : Keeps p r s) :
    Keeps p r (State.loadWrite s x) := by
  unfold State.loadWrite; with_reducible repeat' (first | exact hk | apply State.writeWhole_keeps | apply State.containedFault_keeps | split | dsimp only)

theorem State.loadPorts_keeps {p : Prop} {r : State} (s : State) (b : List Byte) (hk : Keeps p r s) :
    Keeps p r (State.loadPorts s b) := by
  unfold State.loadPorts; with_reducible repeat' (first | assumption | apply State.setReg_keeps | apply State.setFld_keeps | apply State.loadWrite_keeps | apply State.curtainRetired_keeps | (apply foldl_keeps; rotate_left; intros))

theorem State.loadEntry_keeps {p : Prop} {r : State} (s : State) (x : List Byte) (hk : Keeps p r s) :
    Keeps p r (State.loadEntry s x) := by
  unfold State.loadEntry; with_reducible repeat' (first | exact hk | apply State.containedFault_keeps | apply State.place_keeps | split | dsimp only)

theorem State.loadAction_keeps {p : Prop} {r : State} (s : State) (x : List Byte) (hk : Keeps p r s) :
    Keeps p r (State.loadAction s x) := by
  unfold State.loadAction; with_reducible repeat' (first | exact hk | apply State.containedFault_keeps | apply State.setAction_keeps | split)

theorem State.loadTables_keeps {p : Prop} {r : State} (s : State) (b : List Byte) (hk : Keeps p r s) :
    Keeps p r (State.loadTables s b) := by
  unfold State.loadTables; with_reducible repeat' (first | assumption | apply State.setReg_keeps | apply State.loadWrite_keeps | apply State.loadAction_keeps | apply State.loadEntry_keeps | (apply foldl_keeps; rotate_left; intros))

theorem State.loadTraffic_keeps {p : Prop} {r : State} (s : State) (b : List Byte) (hk : Keeps p r s) :
    Keeps p r (State.loadTraffic s b) := by
  unfold State.loadTraffic; with_reducible repeat' (first | assumption | apply State.loadWrite_keeps | (apply foldl_keeps; rotate_left; intros))

theorem State.loadKeys_keeps {p : Prop} {r : State} (s : State) (b : List Byte) (hk : Keeps p r s) :
    Keeps p r (State.loadKeys s b) := by
  unfold State.loadKeys; with_reducible repeat' (first | assumption | apply State.setKeySlot_keeps | apply State.doInstall_keeps | apply State.containedFault_keeps | (apply foldl_keeps; rotate_left; intros) | (fail_if_no_progress (refine keeps_mk ?_ rfl rfl rfl)) | split | dsimp only)

theorem State.measure__keeps {p : Prop} {r : State} (s : State) (h0 : List Byte) (xs : List Section) (hk : Keeps p r s) :
    Keeps p r (State.measure_ s h0 xs) := by
  unfold State.measure_; with_reducible repeat' (first | exact hk | (fail_if_no_progress (refine keeps_mk ?_ rfl rfl rfl)))

theorem State.withSection_keeps {p : Prop} {r : State} (s : State) (xs : List Section) (type : Nat) (f : State → List Byte → State) (hk : Keeps p r s)
    (he : ∀ t b, Keeps p r t → Keeps p r (f t b)) :
    Keeps p r (State.withSection s xs type f) := by
  unfold State.withSection; split
  · exact he _ _ hk
  · exact hk

theorem State.curtainBound_keeps {p : Prop} {r : State} (s : State) (hk : Keeps p r s) :
    Keeps p r (State.curtainBound s) := by
  unfold State.curtainBound; with_reducible repeat' (first | assumption | apply State.deviceCurtain_keeps | apply State.curtain_keeps | (apply foldl_keeps; rotate_left; intros) | split)

theorem State.applyImage_keeps {p : Prop} {r : State} (s : State) (h0 : List Byte) (xs : List Section) (hk : Keeps p r s) :
    Keeps p r (State.applyImage s h0 xs) := by
  unfold State.applyImage; with_reducible repeat' (first | exact hk | apply State.withSection_keeps | apply State.loadPorts_keeps | apply State.loadTables_keeps | apply State.sceneStart_keeps | apply State.applySlicePlan_keeps | apply State.loadTraffic_keeps | apply State.loadPower_keeps | apply State.loadKeys_keeps | apply State.loadCpc_keeps | apply State.loadTroupe_keeps | apply State.loadStack_keeps | apply State.domainsAtStage_keeps | apply State.billAll_keeps | apply State.curtainBound_keeps | apply State.measure__keeps | (fail_if_no_progress (refine keeps_mk ?_ rfl rfl rfl)) | intro)

end Sys2Proof.Machine
end

