-- ==== Sys2Proof/Laws/KeepsStartup.lean ====
section
/-! SUPPORT. What the functions of Machine/Startup.lean keep. -/

namespace Sys2Proof.Machine

theorem leNat_lt (bs : List Byte) : leNat bs < 256 ^ bs.length := by
  induction bs with
  | nil => decide
  | cons b bs ih =>
    have := b.isLt
    simp only [leNat, List.length_cons, Nat.pow_succ]
    omega

theorem imgFloor_lt (h : List Byte) : imgFloor h < 2 ^ 32 := by
  have h1 := leNat_lt (slice h 0x0C 4)
  have h2 : (slice h 0x0C 4).length = 4 := by simp only [slice, List.length_append, List.length_replicate, List.length_take]; omega
  rw [h2] at h1
  exact h1

theorem flash_wf (s : State) (b : Bool) (h : s.canonical = true) : SMap.wf flashDefault (s.flash b).data = true := by
  rw [canonical_iff] at h
  unfold State.flash; split
  · exact h.2.2.2.1
  · exact h.2.2.1

theorem State.warmReset_keeps {p : Prop} {r : State} (s : State) (hk : Keeps p r s) :
    Keeps p r (State.warmReset s) := by
  unfold State.warmReset; dsimp only
  have hk := State.tearCheckpoints_keeps _ hk
  apply State.setFld_keeps; apply State.setReg_keeps
  obtain ⟨h1, h2, h3, h4, h5, h6, h7⟩ := hk
  refine ⟨h1, h2, h3, h4, h5, fun hp => ?_, fun hp => h7 hp⟩
  have hc := h6 hp
  rw [canonical_iff] at hc ⊢
  exact ⟨SMap.wf_filter hc.1, SMap.wf_filter hc.2.1, hc.2.2.1, hc.2.2.2.1, rfl, rfl, rfl, rfl, rfl, rfl, rfl, rfl⟩

theorem State.powerOff_keeps {p : Prop} {r : State} (s : State) (hk : Keeps p r s) :
    Keeps p r (State.powerOff s) := by
  unfold State.powerOff; dsimp only
  have hk := State.tearCheckpoints_keeps _ hk
  obtain ⟨h1, h2, h3, h4, h5, h6, h7⟩ := hk
  refine ⟨h1, h2, h3, h4, h5, fun hp => ?_, fun hp => h7 hp⟩
  have hc := h6 hp
  rw [canonical_iff] at hc ⊢
  exact ⟨rfl, rfl, hc.2.2.1, hc.2.2.2.1, rfl, rfl, rfl, rfl, rfl, rfl, rfl, rfl⟩

theorem State.startLoading_keeps {p : Prop} {r : State} (s : State) (cause : DevCause) (hk : Keeps p r s) :
    Keeps p r (State.startLoading s cause) := by
  unfold State.startLoading; with_reducible repeat' (first | assumption | apply State.instantiate_keeps | apply State.drbg_keeps | apply State.bringUp_keeps | (apply foldl_keeps; rotate_left; intros) | (fail_if_no_progress (refine keeps_mk ?_ rfl rfl rfl)))

theorem State.reload_keeps {p : Prop} {r : State} (s : State) (cause : DevCause) (hk : Keeps p r s) :
    Keeps p r (State.reload s cause) := by
  unfold State.reload; with_reducible repeat' (first | exact hk | apply State.warmReset_keeps | apply State.startLoading_keeps)

theorem State.porstRelease_keeps {p : Prop} {r : State} (s : State) (hk : Keeps p r s) :
    Keeps p r (State.porstRelease s) := by
  unfold State.porstRelease; with_reducible repeat' (first | exact hk | apply State.setFld_keeps | apply State.startZeroise_keeps | (fail_if_no_progress (refine keeps_mk ?_ rfl rfl rfl)) | split | dsimp only)

theorem State.porstAssert_keeps {p : Prop} {r : State} (s : State) (hk : Keeps p r s) :
    Keeps p r (State.porstAssert s) := by
  unfold State.porstAssert; with_reducible repeat' (first | exact hk | apply State.powerOff_keeps | (fail_if_no_progress (refine keeps_mk ?_ rfl rfl rfl)))

theorem State.ghostStable_keeps {p : Prop} {r : State} (s : State) (hk : Keeps p r s) :
    Keeps p r (State.ghostStable s) := by
  unfold State.ghostStable; with_reducible repeat' (first | exact hk | apply State.startLoading_keeps | split)

theorem State.warmAssert_keeps {p : Prop} {r : State} (s : State) (hk : Keeps p r s) :
    Keeps p r (State.warmAssert s) := by
  unfold State.warmAssert; with_reducible repeat' (first | exact hk | apply State.warmReset_keeps | split)

theorem State.warmPin_keeps {p : Prop} {r : State} (s : State) (hk : Keeps p r s) :
    Keeps p r (State.warmPin s) := by
  unfold State.warmPin; with_reducible repeat' (first | exact hk | apply State.warmAssert_keeps | (fail_if_no_progress (refine keeps_mk ?_ rfl rfl rfl)))

theorem State.warmRelease_keeps {p : Prop} {r : State} (s : State) (hk : Keeps p r s) :
    Keeps p r (State.warmRelease s) := by
  unfold State.warmRelease; with_reducible repeat' (first | exact hk | apply State.setFld_keeps | apply State.startLoading_keeps | (fail_if_no_progress (refine keeps_mk ?_ rfl rfl rfl)) | split | dsimp only)

theorem State.setStep_keeps {p : Prop} {r : State} (s : State) (k : LoadStep) (hk : Keeps p r s) :
    Keeps p r (State.setStep s k) := by
  unfold State.setStep; with_reducible repeat' (first | exact hk | (fail_if_no_progress (refine keeps_mk ?_ rfl rfl rfl)))

theorem State.badLane_keeps {p : Prop} {r : State} (s : State) (link : Nat) (lane : Nat) (hk : Keeps p r s) :
    Keeps p r (State.badLane s link lane) := by
  unfold State.badLane; with_reducible repeat' (first | exact hk | apply State.giveVerdict_keeps | split | dsimp only)

theorem State.selfTestDone_keeps {p : Prop} {r : State} (s : State) (pass : Bool) (bad : List (Nat × Nat)) (copies : List (Fin 2 × StoreRecord)) (hk : Keeps p r s) :
    Keeps p r (State.selfTestDone s pass bad copies) := by
  unfold State.selfTestDone; with_reducible repeat' (first | assumption | apply State.deviceCurtain_keeps | apply State.mergeMirrors_keeps | apply State.badLane_keeps | apply State.reapplyRetired_keeps | apply State.setStep_keeps | (apply foldl_keeps; rotate_left; intros) | split | dsimp only)

theorem State.noImage_keeps {p : Prop} {r : State} (s : State) (hk : Keeps p r s) :
    Keeps p r (State.noImage s) := by
  unfold State.noImage; with_reducible repeat' (first | exact hk | apply State.plainAlarm_keeps | apply State.deviceCurtain_keeps)

theorem State.headersRead_keeps {p : Prop} {r : State} (s : State) (errA : Bool) (errB : Bool) (hk : Keeps p r s) :
    Keeps p r (State.headersRead s errA errB) := by
  unfold State.headersRead; with_reducible repeat' (first | exact hk | apply State.drbg_keeps | apply State.noImage_keeps | (fail_if_no_progress (refine keeps_mk ?_ rfl rfl rfl)) | split | dsimp only)

theorem State.slotFails_keeps {p : Prop} {r : State} (s : State) (reason : Nat) (hk : Keeps p r s) :
    Keeps p r (State.slotFails s reason) := by
  unfold State.slotFails; with_reducible repeat' (first | exact hk | apply State.holdDetect_keeps | apply State.noImage_keeps | (fail_if_no_progress (refine keeps_mk ?_ rfl rfl rfl)) | split | dsimp only)

theorem State.applyEarly_keeps {p : Prop} {r : State} (s : State) (b : List Byte) (hk : Keeps p r s) :
    Keeps p r (State.applyEarly s b) := by
  unfold State.applyEarly; with_reducible repeat' (first | assumption | apply State.setReg_keeps | apply State.setFld_keeps | apply State.freshSizes_keeps | apply State.hostLinkDown_keeps | apply State.containedFault_keeps | (apply foldl_keeps; rotate_left; intros) | (fail_if_no_progress (refine keeps_mk ?_ rfl rfl rfl)) | split | dsimp only)

theorem State.earlyVerified_keeps {p : Prop} {r : State} (s : State) (readError : Bool) (hk : Keeps p r s) :
    Keeps p r (State.earlyVerified s readError) := by
  unfold State.earlyVerified; with_reducible repeat' (first | exact hk | apply State.slotFails_keeps | apply State.setStep_keeps | apply State.applyEarly_keeps | split)

theorem State.enterStage_keeps {p : Prop} {r : State} (s : State) (h0 : List Byte) (hk : Keeps p r s) :
    Keeps p r (State.enterStage s h0) := by
  have h1 : Keeps p r (s.writeStore (.critical 0) (fun t => { t with minVersion := BitVec.ofNat 32 (max t.minVersion.toNat (imgFloor h0)) })) := by
    refine State.writeStore_keeps _ _ _ hk List.prefix_rfl ?_ id
    have hb : max s.vlt.store.minVersion.toNat (imgFloor h0) < 2 ^ 32 := by
      have := s.vlt.store.minVersion.isLt
      have := imgFloor_lt h0
      omega
    simp only [BitVec.toNat_ofNat]
    rw [Nat.mod_eq_of_lt hb]
    exact Nat.le_max_left _ _
  unfold State.enterStage; dsimp only
  split
  · exact State.deviceCurtain_keeps _ _ _ _ (keeps_mk h1 rfl rfl rfl)
  · exact keeps_mk h1 rfl rfl rfl

theorem State.bodyVerified_keeps {p : Prop} {r : State} (s : State) (readError : Bool) (hk : Keeps p r s) :
    Keeps p r (State.bodyVerified s readError) := by
  unfold State.bodyVerified; with_reducible repeat' (first | exact hk | apply State.slotFails_keeps | apply State.applyImage_keeps | apply State.enterStage_keeps | split | dsimp only)

theorem State.announce_keeps {p : Prop} {r : State} (s : State) (hk : Keeps p r s) :
    Keeps p r (State.announce s) := by
  unfold State.announce; with_reducible repeat' (first | exact hk | apply State.sendMgmt_keeps | split)

theorem State.sendResult_keeps {p : Prop} {r : State} (s : State) (dest : Option (BitVec 64)) (reason : Nat) (hk : Keeps p r s) :
    Keeps p r (State.sendResult s dest reason) := by
  unfold State.sendResult; with_reducible repeat' (first | exact hk | apply State.sendMgmt_keeps)

theorem State.sendAck_keeps {p : Prop} {r : State} (s : State) (dest : BitVec 64) (offset : Nat) (hk : Keeps p r s) :
    Keeps p r (State.sendAck s dest offset) := by
  unfold State.sendAck; with_reducible repeat' (first | exact hk | apply State.sendMgmt_keeps)

theorem State.sendStatus_keeps {p : Prop} {r : State} (s : State) (dest : BitVec 64) (c : Nat) (hk : Keeps p r s) :
    Keeps p r (State.sendStatus s dest c) := by
  unfold State.sendStatus; with_reducible repeat' (first | exact hk | apply State.sendMgmt_keeps)

theorem State.setReason_keeps {p : Prop} {r : State} (s : State) (b : Bool) (c : Nat) (hk : Keeps p r s) :
    Keeps p r (State.setReason s b c) := by
  unfold State.setReason; with_reducible repeat' (first | exact hk | (fail_if_no_progress (refine keeps_mk ?_ rfl rfl rfl)))

theorem State.openSession_keeps {p : Prop} {r : State} (s : State) (recovery : Bool) (b : Bool) (station : Option (BitVec 64)) (h0 : List Byte) (block : List Byte) (hk : Keeps p r s) :
    Keeps p r (State.openSession s recovery b station h0 block) := by
  have h1 := State.setReason_keeps _ b 1 (State.setFlash_keeps s b ((s.flash b).erase (if recovery then (s.flash b).capacity else imgTotal h0)) hk (fun hc => SMap.wf_filter (flash_wf s b hc)))
  unfold State.openSession
  exact keeps_mk h1 rfl rfl rfl

theorem State.offerOpens_keeps {p : Prop} {r : State} (s : State) (station : BitVec 64) (h0 : List Byte) (block : List Byte) (hk : Keeps p r s) :
    Keeps p r (State.offerOpens s station h0 block) := by
  unfold State.offerOpens; with_reducible repeat' (first | exact hk | apply State.openSession_keeps | apply State.sendResult_keeps | split | dsimp only)

theorem State.sessionBusy_keeps {p : Prop} {r : State} (s : State) (hk : Keeps p r s) :
    Keeps p r (State.sessionBusy s) := by
  unfold State.sessionBusy; with_reducible repeat' (first | exact hk | (fail_if_no_progress (refine keeps_mk ?_ rfl rfl rfl)))

theorem State.offerIn_keeps {p : Prop} {r : State} (s : State) (station : BitVec 64) (h0 : List Byte) (block : List Byte) (hk : Keeps p r s) :
    Keeps p r (State.offerIn s station h0 block) := by
  unfold State.offerIn; with_reducible repeat' (first | exact hk | apply State.sessionBusy_keeps | apply State.sendStatus_keeps | apply State.offerOpens_keeps | split)

theorem State.chunkIn_keeps {p : Prop} {r : State} (s : State) (station : BitVec 64) (offset : Nat) (data : List Byte) (hk : Keeps p r s) :
    Keeps p r (State.chunkIn s station offset data) := by
  unfold State.chunkIn; dsimp only
  split
  · exact hk
  · rename_i x _
    have h1 : Keeps p r { s with dev := { s.dev with session := some { x with movedAt := s.elapsed } } } := keeps_mk hk rfl rfl rfl
    split
    · exact State.sendAck_keeps _ _ _ h1
    · exact State.sendAck_keeps _ _ _ (State.setFlash_keeps _ _ _ (keeps_mk h1 rfl rfl rfl) (fun hc => flashPut_wf _ _ (flash_wf s _ (by exact hc))))

theorem State.endIn_keeps {p : Prop} {r : State} (s : State) (station : BitVec 64) (readError : Bool) (hk : Keeps p r s) :
    Keeps p r (State.endIn s station readError) := by
  unfold State.endIn; dsimp only
  split
  · exact hk
  · have h1 := fun x => State.setFlash_keeps s x (((s.flash x).program (imgSigOffset ‹Session›.header) ‹Session›.sigblock).program 0 ‹Session›.header) hk
      (fun hc => flashPut_wf _ _ (flashPut_wf _ _ (flash_wf s x hc)))
    split
    · exact State.reload_keeps _ _ (State.setReason_keeps _ _ _ (keeps_mk (h1 _) rfl rfl rfl))
    · exact State.sendResult_keeps _ _ _ (keeps_mk (State.setReason_keeps _ _ _ (keeps_mk (h1 _) rfl rfl rfl)) rfl rfl rfl)

theorem State.stageImage_keeps {p : Prop} {r : State} (s : State) (station : Option (BitVec 64)) (h0 : List Byte) (block : List Byte) (hk : Keeps p r s) :
    Keeps p r (State.stageImage s station h0 block).2 := by
  unfold State.stageImage; with_reducible repeat' (first | exact hk | apply State.sessionBusy_keeps | apply State.openSession_keeps | apply State.sendResult_keeps | (fail_if_no_progress (refine keeps_mk ?_ rfl rfl rfl)) | split | dsimp only)

end Sys2Proof.Machine
end

