-- ==== Sys2Proof/Laws/KeepsAmend.lean ====
section
/-! SUPPORT. What the functions of Machine/Amend.lean keep. -/

namespace Sys2Proof.Machine

theorem State.amendWrite_keeps {p : Prop} {r : State} (s : State) (reg : RegName) (i : Nat) (value : Word) (mask : Word) (hk : Keeps p r s) :
    Keeps p r (State.amendWrite s reg i value mask) := by
  unfold State.amendWrite; with_reducible repeat' (first | exact hk | apply State.performSlow_keeps | apply State.admitChecked_keeps | apply State.performWrite_keeps | split | dsimp only)

theorem Tried.write_keeps {p : Prop} {r : State} (t : Tried) (reg : RegName) (i : Nat) (value mask : Word) (hk : Keeps p r t.2) :
    Keeps p r (t.write reg i value mask).2 :=
  State.amendWrite_keeps _ _ _ _ _ hk

theorem Tried.whole_keeps {p : Prop} {r : State} (t : Tried) (reg : RegName) (i value : Nat) (hk : Keeps p r t.2) :
    Keeps p r (t.whole reg i value).2 :=
  Tried.write_keeps _ _ _ _ _ hk

theorem Tried.list_keeps {p : Prop} {r : State} (t : Tried) (xs : List ListWrite) (hk : Keeps p r t.2) : Keeps p r (t.list xs).2 :=
  foldl_snd_keeps hk (fun _ _ h => Tried.whole_keeps _ _ _ _ h)

theorem Tried.engine_keeps {p : Prop} {r : State} (t : Tried) (e : Nat) (x : List Byte) (hk : Keeps p r t.2) : Keeps p r (t.engine e x).2 := by
  unfold Tried.engine; dsimp only
  repeat' (first | with_reducible exact hk | with_reducible assumption | with_reducible apply Tried.whole_keeps | (with_reducible apply foldl_snd_keeps; rotate_left; intros) | split)

theorem Tried.table_keeps {p : Prop} {r : State} (t : Tried) (b : List Byte) (n : Nat) (hk : Keeps p r t.2) : Keeps p r (t.table b n).2 := by
  unfold Tried.table; dsimp only
  split
  · exact hk
  · split
    · exact hk
    · exact Tried.whole_keeps _ _ _ _ (Tried.whole_keeps _ _ _ _ (Tried.whole_keeps _ _ _ _ hk))

theorem firstFailure_keeps {p : Prop} {r : State} (x : Nat × State) (f : State → Nat × State) (hk : Keeps p r x.2)
    (he : ∀ t, Keeps p r t → Keeps p r (f t).2) : Keeps p r (firstFailure x f).2 :=
  he _ hk

theorem State.amendPorts_keeps {p : Prop} {r : State} (s : State) (b : List Byte) (hk : Keeps p r s) :
    Keeps p r (State.amendPorts s b).2 := by
  unfold State.amendPorts; dsimp only
  repeat' (first | with_reducible exact hk | with_reducible assumption | with_reducible apply Tried.write_keeps | with_reducible apply Tried.engine_keeps | with_reducible apply Tried.list_keeps | (with_reducible apply foldl_snd_keeps; rotate_left; intros) | split)

theorem State.stagedCommands_keeps {p : Prop} {r : State} (s : State) (a1 : List (Nat × Nat × TableOperands)) (hk : Keeps p r s) :
    Keeps p r (State.stagedCommands s a1).2 := by
  induction a1 generalizing s with
  | nil => exact hk
  | cons x xs ih =>
    obtain ⟨op, t, o⟩ := x
    unfold State.stagedCommands; dsimp only; split
    · exact ih _ (State.tableCommand_keeps _ _ _ _ _ hk)
    · exact State.tableCommand_keeps _ _ _ _ _ hk

theorem State.amendTables_keeps {p : Prop} {r : State} (s : State) (b : List Byte) (hk : Keeps p r s) :
    Keeps p r (State.amendTables s b).2 := by
  unfold State.amendTables; dsimp only
  repeat' (first | with_reducible exact hk | split)
  all_goals (
    apply State.stagedCommands_keeps
    apply Tried.list_keeps
    apply foldl_snd_keeps
    · exact hk
    · intro t a ht; exact Tried.table_keeps _ _ _ ht)

theorem State.amendTraffic_keeps {p : Prop} {r : State} (s : State) (b : List Byte) (hk : Keeps p r s) :
    Keeps p r (State.amendTraffic s b).2 := by
  unfold State.amendTraffic; dsimp only
  repeat' (first | with_reducible exact hk | split)
  exact Tried.list_keeps _ _ hk

theorem State.amendShare_keeps {p : Prop} {r : State} (s : State) (b : List Byte) (l : Nat) (hk : Keeps p r s) :
    Keeps p r (State.amendShare s b l).2 := by
  unfold State.amendShare; dsimp only
  with_reducible apply Tried.write_keeps; exact hk

theorem State.amendSlices_keeps {p : Prop} {r : State} (s : State) (b : List Byte) (hk : Keeps p r s) :
    Keeps p r (State.amendSlices s b).2 := by
  unfold State.amendSlices; dsimp only
  split
  · exact hk
  · split
    · exact hk
    · apply foldl_snd_keeps
      · apply foldl_snd_keeps
        · apply foldl_snd_keeps
          · exact hk
          · intro t a ht; exact firstFailure_keeps _ _ ht (fun u hu => State.amendShare_keeps _ _ _ hu)
        · intro t a ht; exact firstFailure_keeps _ _ ht (fun u hu => State.planAmend_keeps _ _ hu)
      · intro t a ht; exact firstFailure_keeps _ _ ht (fun u hu => State.planSpace_keeps _ _ hu)

theorem State.amendPower_keeps {p : Prop} {r : State} (s : State) (b : List Byte) (hk : Keeps p r s) :
    Keeps p r (State.amendPower s b).2 := by
  unfold State.amendPower; with_reducible repeat' (first | assumption | apply State.amendWrite_keeps | (apply foldl_keeps; rotate_left; intros) | split)

theorem State.amendStack_keeps {p : Prop} {r : State} (s : State) (version : Nat) (b : List Byte) (hk : Keeps p r s) :
    Keeps p r (State.amendStack s version b).2 := by
  unfold State.amendStack; with_reducible repeat' (first | exact hk | apply State.setStk_keeps | apply State.loadStack_keeps | apply State.stackCurtains_keeps | split)

theorem State.amendSection_keeps {p : Prop} {r : State} (s : State) (type : Nat) (version : Nat) (b : List Byte) (hk : Keeps p r s) :
    Keeps p r (State.amendSection s type version b).2 := by
  unfold State.amendSection; with_reducible repeat' (first | exact hk | apply State.amendPorts_keeps | apply State.amendTables_keeps | apply State.amendSlices_keeps | apply State.amendTraffic_keeps | apply State.amendPower_keeps | apply State.amendStack_keeps | split)

theorem State.regWrite_keeps {p : Prop} {r : State} (s : State) (a : Nat) (wide : Bool) (mask : Nat) (value : Nat) (hk : Keeps p r s) :
    Keeps p r (State.regWrite s a wide mask value).2 := by
  unfold State.regWrite; with_reducible repeat' (first | exact hk | apply State.amendWrite_keeps | split)

theorem State.queryRead_keeps {p : Prop} {r : State} (s : State) (a1 : List Nat) (hk : Keeps p r s) :
    Keeps p r (State.queryRead s a1).2 := by
  induction a1 generalizing s with
  | nil => exact hk
  | cons x xs ih => exact ih _ (State.mapReadAt_keeps _ _ _ _ _ hk)

theorem State.applyRecord_keeps {p : Prop} {r : State} (s : State) (o : Origin) (x : Record) (hk : Keeps p r s) :
    Keeps p r (State.applyRecord s o x).2.2.2 := by
  unfold State.applyRecord; with_reducible repeat' (first | exact hk | apply State.regWrite_keeps | apply State.amendSection_keeps | apply State.stageImage_keeps | apply State.queryRead_keeps | split)

theorem State.applyRecords_keeps {p : Prop} {r : State} (s : State) (o : Origin) (a2 : Nat) (a3 : List Byte) (a4 : List Record) (hk : Keeps p r s) :
    Keeps p r (State.applyRecords s o a2 a3 a4).2.2.2.2 := by
  induction a4 generalizing s a2 a3 with
  | nil => exact hk
  | cons x xs ih =>
    unfold State.applyRecords; dsimp only
    split
    · exact State.applyRecord_keeps _ _ _ hk
    · split
      · exact State.applyRecord_keeps _ _ _ hk
      · exact ih _ _ _ (State.applyRecord_keeps _ _ _ hk)

theorem State.replyTo_keeps {p : Prop} {r : State} (s : State) (o : Origin) (seq : Nat) (status : Nat) (index : Nat) (data : List Byte) (hk : Keeps p r s) :
    Keeps p r (State.replyTo s o seq status index data) := by
  unfold State.replyTo; with_reducible repeat' (first | exact hk | apply State.sendMgmt_keeps | apply State.talkReply_keeps | split)

theorem State.leave_keeps {p : Prop} {r : State} (s : State) (a : Afterwards) (hk : Keeps p r s) :
    Keeps p r (State.leave s a) := by
  unfold State.leave; with_reducible repeat' (first | exact hk | apply State.cleanRecords_keeps | apply State.shutModules_keeps | apply State.reload_keeps | apply State.warmReset_keeps | split)

theorem State.runRecords_keeps {p : Prop} {r : State} (s : State) (o : Origin) (seq : Nat) (xs : List Record) (hk : Keeps p r s) :
    Keeps p r (State.runRecords s o seq xs) := by
  unfold State.runRecords; with_reducible repeat' (first | exact hk | apply State.applyRecords_keeps | apply State.replyTo_keeps | apply State.leave_keeps)

theorem State.amendment_keeps {p : Prop} {r : State} (s : State) (o : Origin) (m : List Byte) (hk : Keeps p r s) :
    Keeps p r (State.amendment s o m) := by
  unfold State.amendment; with_reducible repeat' (first | exact hk | apply State.runRecords_keeps | apply State.replyTo_keeps | (fail_if_no_progress (refine keeps_mk ?_ rfl rfl rfl)) | split | dsimp only)

theorem State.oneRecord_keeps {p : Prop} {r : State} (s : State) (o : Origin) (x : Record) (hk : Keeps p r s) :
    Keeps p r (State.oneRecord s o x) := by
  unfold State.oneRecord; with_reducible repeat' (first | exact hk | apply State.runRecords_keeps | apply State.replyTo_keeps | split)

theorem State.applyHeld_keeps {p : Prop} {r : State} (s : State) (hk : Keeps p r s) :
    Keeps p r (State.applyHeld s) := by
  unfold State.applyHeld; with_reducible repeat' (first | assumption | apply State.amendment_keeps | (apply foldl_keeps; rotate_left; intros) | (fail_if_no_progress (refine keeps_mk ?_ rfl rfl rfl)) | split)

end Sys2Proof.Machine
end

