-- ==== Sys2Proof/Laws/KeepsWarrant.lean ====
section
/-! SUPPORT. What the functions of Machine/Warrant.lean keep. -/

namespace Sys2Proof.Machine

theorem State.rewrapOne_keeps {p : Prop} {r : State} (s : State) (key : List Byte) (n : Nat) (b : List Byte) (hk : Keeps p r s)
    (x : List Byte × State) (h : State.rewrapOne s key n b = some x) : Keeps p r x.2 := by
  unfold State.rewrapOne at h; dsimp only at h
  split at h
  · cases h
  · split at h
    · cases h
    · injection h with h; subst h
      exact State.makeBlob_keeps _ _ _ _ hk

theorem State.rewrap_keeps {p : Prop} {r : State} (s : State) (key : List Byte) (n : Nat) (bs : List (List Byte)) (hk : Keeps p r s)
    (a : List Byte) (t : State) (h : State.rewrap s key n bs = some (a, t)) : Keeps p r t := by
  have key : ∀ (l : List (List Byte × Nat)) (o : Option (List Byte × State)), (∀ x, o = some x → Keeps p r x.2) →
      ∀ x, l.foldl (fun x r => x.bind (fun y => (y.2.rewrapOne key (n + r.2) r.1).map (fun z => (y.1 ++ z.1, z.2)))) o = some x →
        Keeps p r x.2 := by
    intro l
    induction l with
    | nil => intro o ho x hx; exact ho x hx
    | cons y ys ih =>
      intro o ho
      refine ih _ (fun x hx => ?_)
      obtain ⟨w, hw, hx⟩ := Option.bind_eq_some_iff.1 hx
      obtain ⟨z, hz, hx⟩ := Option.map_eq_some_iff.1 hx
      subst hx
      exact (State.rewrapOne_keeps _ _ _ _ (ho w hw) _ hz : Keeps p r z.2)
  exact key _ _ (fun x hx => by injection hx with hx; subst hx; exact hk) (a, t) h

theorem State.warrantIn_keeps {p : Prop} {r : State} (s : State) (o : Origin) (m : List Byte) (hk : Keeps p r s) :
    Keeps p r (State.warrantIn s o m) := by
  unfold State.warrantIn; with_reducible repeat' (first | exact hk | apply State.replyTo_keeps | (fail_if_no_progress (refine keeps_mk ?_ rfl rfl rfl)) | split | dsimp only)

theorem State.performWarrant_keeps {p : Prop} {r : State} (s : State) (service : Nat) (f : State → List Byte → Served) (hk : Keeps p r s)
    (he : ∀ t b, Keeps p r t → Keeps p r (f t b).2.2) :
    Keeps p r (State.performWarrant s service f) := by
  unfold State.performWarrant; dsimp only
  split
  · exact hk
  · split
    · exact hk
    · apply State.replyTo_keeps
      split
      · exact keeps_mk hk rfl rfl rfl
      · exact he _ _ (keeps_mk hk rfl rfl rfl)

theorem State.lockExported_keeps {p : Prop} {r : State} (s : State) (xs : List (Option Nat × BlobHead × List Byte × Nat)) (hk : Keeps p r s) :
    Keeps p r (State.lockExported s xs) := by
  unfold State.lockExported; with_reducible repeat' (first | assumption | apply State.lockOwn_keeps | (apply foldl_keeps; rotate_left; intros) | split)

theorem State.handoverExport_keeps {p : Prop} {r : State} (s : State) (b : List Byte) (hk : Keeps p r s) :
    Keeps p r (State.handoverExport s b).2.2 := by
  unfold State.handoverExport; with_reducible repeat' (first | exact hk | apply State.drbg_keeps | apply State.lockExported_keeps | apply State.settleAll_keeps | (refine keeps_pair ‹_› ?_) | (fail_if_no_progress (refine keeps_mk ?_ rfl rfl rfl)) | split | dsimp only)

theorem State.handoverImport_keeps {p : Prop} {r : State} (s : State) (b : List Byte) (hk : Keeps p r s) :
    Keeps p r (State.handoverImport s b).2.2 := by
  unfold State.handoverImport; dsimp only
  repeat' (first | with_reducible exact hk | split)
  rename_i h
  exact keeps_mk (State.rewrap_keeps _ _ _ _ hk _ _ h) rfl rfl rfl

theorem State.wZeroize_keeps {p : Prop} {r : State} (s : State) (a1 : List Byte) (hk : Keeps p r s) :
    Keeps p r (State.wZeroize s a1).2.2 := by
  unfold State.wZeroize; with_reducible repeat' (first | exact hk | apply State.startZeroise_keeps | apply State.settleAll_keeps)

theorem State.wEnrol_keeps {p : Prop} {r : State} (s : State) (b : List Byte) (hk : Keeps p r s) :
    Keeps p r (State.wEnrol s b).2.2 := by
  unfold State.wEnrol; with_reducible repeat' (first | exact hk | apply State.setKeySlot_keeps | split | dsimp only)

theorem State.wWithdraw_keeps {p : Prop} {r : State} (s : State) (b : List Byte) (hk : Keeps p r s) :
    Keeps p r (State.wWithdraw s b).2.2 := by
  unfold State.wWithdraw; with_reducible repeat' (first | exact hk | apply State.setKeySlot_keeps | split | dsimp only)

theorem State.wReplace_keeps {p : Prop} {r : State} (s : State) (b : List Byte) (hk : Keeps p r s) :
    Keeps p r (State.wReplace s b).2.2 := by
  unfold State.wReplace; with_reducible repeat' (first | exact hk | apply State.setKeySlot_keeps | split | dsimp only)

theorem State.wKFloor_keeps {p : Prop} {r : State} (s : State) (b : List Byte) (hk : Keeps p r s) :
    Keeps p r (State.wKFloor s b).2.2 := by
  unfold State.wKFloor
  split
  · exact hk
  · split
    · rename_i h
      refine State.writeStore_keeps s (.critical 1) (fun t => { t with kFloor := leAt b 0 1 }) hk List.prefix_rfl (Nat.le_refl _) ?_
      intro _
      simpa [between] using h
    · exact hk

theorem State.wDebug_keeps {p : Prop} {r : State} (s : State) (a1 : List Byte) (hk : Keeps p r s) :
    Keeps p r (State.wDebug s a1).2.2 := by
  unfold State.wDebug; with_reducible repeat' (first | exact hk | apply State.lockAll_keeps | apply State.stopIde_keeps | apply State.settleAll_keeps | (fail_if_no_progress (refine keeps_mk ?_ rfl rfl rfl)) | split)

theorem State.wReinitialise_keeps {p : Prop} {r : State} (s : State) (a1 : List Byte) (hk : Keeps p r s) :
    Keeps p r (State.wReinitialise s a1).2.2 := by
  unfold State.wReinitialise
  split
  · exact hk
  · split
    · exact hk
    · have h1 := State.drbg_keeps _ 32 (State.reseed_keeps _ hk)
      generalize s.reseed.drbg 32 = x at h1 ⊢; obtain ⟨drk, u⟩ := x
      dsimp -zeta only
      have h1 := State.drbg_keeps _ 4 h1
      generalize u.drbg 4 = x at h1 ⊢; obtain ⟨id, u⟩ := x
      have h1 := State.drbg_keeps _ 48 h1
      generalize u.drbg 48 = x at h1 ⊢; obtain ⟨seed, u⟩ := x
      have h1 := State.drbg_keeps _ 12 h1
      generalize u.drbg 12 = x at h1 ⊢; obtain ⟨iv1, u⟩ := x
      have h1 := State.drbg_keeps _ 12 h1
      generalize u.drbg 12 = x at h1 ⊢; obtain ⟨iv2, u⟩ := x
      dsimp only at h1 ⊢
      refine State.writeStore_keeps _ _ _ ?_ List.prefix_rfl (Nat.le_refl _) (fun h => h)
      refine State.writeStore_keeps _ _ _ ?_ List.prefix_rfl (Nat.le_refl _) (fun h => h)
      refine State.writeStore_keeps _ _ _ ?_ List.prefix_rfl (Nat.le_refl _) (fun h => h)
      exact State.writeStore_keeps _ _ _ h1 List.prefix_rfl (Nat.le_refl _) (fun h => h)

theorem State.reinitialise_keeps {p : Prop} {r : State} (s : State) (hk : Keeps p r s) :
    Keeps p r (State.reinitialise s) := by
  unfold State.reinitialise; with_reducible repeat' (first | exact hk | apply State.performWarrant_keeps | apply State.wReinitialise_keeps | apply State.cleanRecords_keeps | apply State.reload_keeps | split | dsimp only)

theorem State.zeroised_keeps {p : Prop} {r : State} (s : State) (hk : Keeps p r s) :
    Keeps p r (State.zeroised s) := by
  unfold State.zeroised; with_reducible repeat' (first | exact hk | apply State.erase_keeps | apply State.settleAll_keeps | apply State.deviceCurtain_keeps | apply State.setFld_keeps | (fail_if_no_progress (refine keeps_mk ?_ rfl rfl rfl)) | split | dsimp only)

end Sys2Proof.Machine
end

