-- ==== Sys2Proof/Laws/KeepsMessage.lean ====
section
/-! SUPPORT. What the functions of Machine/Message.lean keep. -/

namespace Sys2Proof.Machine

theorem State.setStation_keeps {p : Prop} {r : State} (s : State) (x : Station) (hk : Keeps p r s) :
    Keeps p r (State.setStation s x) := by
  unfold State.setStation; with_reducible repeat' (first | exact hk | (fail_if_no_progress (refine keeps_mk ?_ rfl rfl rfl)))

theorem State.hear_keeps {p : Prop} {r : State} (s : State) (id : BitVec 64) (seg : Nat) (mac : Mac) (hk : Keeps p r s) :
    Keeps p r (State.hear s id seg mac) := by
  unfold State.hear; with_reducible repeat' (first | exact hk | apply State.setStation_keeps)

theorem State.command_keeps {p : Prop} {r : State} (s : State) (o : Origin) (m : List Byte) (hk : Keeps p r s) :
    Keeps p r (State.command s o m) := by
  unfold State.command; with_reducible repeat' (first | exact hk | apply State.warrantIn_keeps | apply State.amendment_keeps | split)

theorem State.message_keeps {p : Prop} {r : State} (s : State) (station : BitVec 64) (seg : Nat) (seq : BitVec 32) (type : Nat) (m : List Byte) (hk : Keeps p r s) :
    Keeps p r (State.message s station seg seq type m) := by
  unfold State.message; with_reducible repeat' (first | exact hk | apply State.offerIn_keeps | apply State.chunkIn_keeps | apply State.endIn_keeps | apply State.slotPut_keeps | apply State.command_keeps | split)

theorem State.badFrame_keeps {p : Prop} {r : State} (s : State) (seg : Nat) (hk : Keeps p r s) :
    Keeps p r (State.badFrame s seg) := by
  unfold State.badFrame; with_reducible repeat' (first | exact hk | apply State.bump_keeps)

theorem State.segmentIn_keeps {p : Prop} {r : State} (s : State) (seg : Nat) (mac : Mac) (b : List Byte) (hk : Keeps p r s) :
    Keeps p r (State.segmentIn s seg mac b) := by
  unfold State.segmentIn; with_reducible repeat' (first | exact hk | apply State.hear_keeps | apply State.bump_keeps | apply State.badFrame_keeps | apply State.setStation_keeps | apply State.message_keeps | (fail_if_no_progress (refine keeps_mk ?_ rfl rfl rfl)) | split | dsimp only)

theorem State.mgmtFrame_keeps {p : Prop} {r : State} (s : State) (seg : Nat) (src : Mac) (dst : Mac) (etherType : Nat) (b : List Byte) (hk : Keeps p r s) :
    Keeps p r (State.mgmtFrame s seg src dst etherType b) := by
  unfold State.mgmtFrame; with_reducible repeat' (first | exact hk | apply State.bump_keeps | apply State.badFrame_keeps | apply State.segmentIn_keeps | split | dsimp only)

theorem State.assemblyTimeout_keeps {p : Prop} {r : State} (s : State) (station : BitVec 64) (seq : BitVec 32) (hk : Keeps p r s) :
    Keeps p r (State.assemblyTimeout s station seq) := by
  unfold State.assemblyTimeout; with_reducible repeat' (first | exact hk | (fail_if_no_progress (refine keeps_mk ?_ rfl rfl rfl)))

theorem State.talkWord_keeps {p : Prop} {r : State} (s : State) (h0 : Nat) (hk : Keeps p r s) :
    Keeps p r (State.talkWord s h0) := by
  unfold State.talkWord; with_reducible repeat' (first | exact hk | apply State.talkTake_keeps | apply State.command_keeps | split | dsimp only)

theorem State.talkTimeout_keeps {p : Prop} {r : State} (s : State) (h0 : Nat) (hk : Keeps p r s) :
    Keeps p r (State.talkTimeout s h0) := by
  unfold State.talkTimeout; with_reducible repeat' (first | exact hk | apply State.talkAbandon_keeps | apply State.bump_keeps | split | dsimp only)

end Sys2Proof.Machine
end

