-- ==== Sys2Proof/Laws/KeepsCmdSystem.lean ====
section
/-! SUPPORT. What the functions of Machine/CmdSystem.lean keep. -/

namespace Sys2Proof.Machine

theorem State.readRegOut_keeps {p : Prop} {r : State} (s : State) (r0 : Requester) (reg : RegName) (i : Nat) (wide : Bool) (hk : Keeps p r s) :
    Keeps p r (State.readRegOut s r0 reg i wide) := by
  unfold State.readRegOut; with_reducible repeat' (first | exact hk | apply State.readOut_keeps | split)

theorem State.readLowOut_keeps {p : Prop} {r : State} (s : State) (r0 : Requester) (reg : RegName) (i : Nat) (wide : Bool) (hk : Keeps p r s) :
    Keeps p r (State.readLowOut s r0 reg i wide) := by
  unfold State.readLowOut; with_reducible repeat' (first | exact hk | apply State.readOut_keeps | split)

theorem State.fieldsWrite_keeps {p : Prop} {r : State} (s : State) (r0 : Requester) (reg : RegName) (i : Nat) (fs : List (FieldPos × Nat)) (hk : Keeps p r s) :
    Keeps p r (State.fieldsWrite s r0 reg i fs) := by
  unfold State.fieldsWrite; with_reducible repeat' (first | exact hk | apply State.directWrite_keeps)

theorem State.write32_keeps {p : Prop} {r : State} (s : State) (r0 : Requester) (reg : RegName) (i : Nat) (v : BitVec 32) (hk : Keeps p r s) :
    Keeps p r (State.write32 s r0 reg i v) := by
  unfold State.write32; with_reducible repeat' (first | exact hk | apply State.directWrite_keeps)

theorem State.write64_keeps {p : Prop} {r : State} (s : State) (r0 : Requester) (reg : RegName) (i : Nat) (v : Word) (hk : Keeps p r s) :
    Keeps p r (State.write64 s r0 reg i v) := by
  unfold State.write64; with_reducible repeat' (first | exact hk | apply State.directWrite_keeps)

theorem State.countArriving_keeps {p : Prop} {r : State} (s : State) (r0 : Requester) (t0 : Target) (n : Nat) (hk : Keeps p r s) :
    Keeps p r (State.countArriving s r0 t0 n) := by
  unfold State.countArriving; with_reducible repeat' (first | exact hk | apply State.bumpBy_keeps | (fail_if_no_progress (refine keeps_mk ?_ rfl rfl rfl)) | split)

theorem State.counterRead_keeps {p : Prop} {r : State} (s : State) (r0 : Requester) (a : Nat) (wide : Bool) (arriving : Nat) (hk : Keeps p r s) :
    Keeps p r (State.counterRead s r0 a wide arriving) := by
  unfold State.counterRead; with_reducible repeat' (first | exact hk | apply State.readOut_keeps | apply State.countArriving_keeps | split)

theorem State.slowReadFails_keeps {p : Prop} {r : State} (s : State) (r0 : Requester) (a : Nat) (wide : Bool) (hk : Keeps p r s) :
    Keeps p r (State.slowReadFails s r0 a wide) := by
  unfold State.slowReadFails; with_reducible repeat' (first | exact hk | apply State.splitBuffer_keeps | apply State.performSlow_keeps | apply State.setReg_keeps | apply State.badAccess_keeps | apply State.emit_keeps | split | dsimp only)

theorem State.scrubGroup_keeps {p : Prop} {r : State} (s : State) (page : Nat) (hk : Keeps p r s) :
    Keeps p r (State.scrubGroup s page) := by
  unfold State.scrubGroup; with_reducible repeat' (first | exact hk | (fail_if_no_progress (refine keeps_mk ?_ rfl rfl rfl)) | split | dsimp only)

theorem State.upset_keeps {p : Prop} {r : State} (s : State) (f : FieldAt) (copy : Fin 3) (x : Word) (hk : Keeps p r s) :
    Keeps p r (State.upset s f copy x) := by
  unfold State.upset; with_reducible repeat' (first | exact hk | (fail_if_no_progress (refine keeps_mk ?_ rfl rfl rfl)))

theorem State.correctVoted_keeps {p : Prop} {r : State} (s : State) (f : FieldAt) (hk : Keeps p r s) :
    Keeps p r (State.correctVoted s f) := by
  unfold State.correctVoted; with_reducible repeat' (first | exact hk | apply State.healVoted_keeps | apply State.bump_keeps | apply State.elementError_keeps | apply State.scrubGroup_keeps)

theorem State.breakVoted_keeps {p : Prop} {r : State} (s : State) (f : FieldAt) (hk : Keeps p r s) :
    Keeps p r (State.breakVoted s f) := by
  unfold State.breakVoted; with_reducible repeat' (first | exact hk | apply State.fatal_keeps | apply State.elementError_keeps | apply State.curtain_keeps | (fail_if_no_progress (refine keeps_mk ?_ rfl rfl rfl)) | split | dsimp only)

theorem State.compareVoted_keeps {p : Prop} {r : State} (s : State) (f : FieldAt) (hk : Keeps p r s) :
    Keeps p r (State.compareVoted s f) := by
  unfold State.compareVoted; with_reducible repeat' (first | exact hk | apply State.correctVoted_keeps | apply State.breakVoted_keeps | split | dsimp only)

theorem State.voteOne_keeps {p : Prop} {r : State} (s : State) (f : FieldPos) (i : Nat) (copy : Fin 3) (x : Word) (written : Bool) (hk : Keeps p r s) :
    Keeps p r (State.voteOne s f i copy x written) := by
  unfold State.voteOne; with_reducible repeat' (first | exact hk | apply State.upset_keeps | apply State.compareVoted_keeps | split | dsimp only)

theorem State.voteThree_keeps {p : Prop} {r : State} (s : State) (f : FieldPos) (i : Nat) (x : Word) (y : Word) (hk : Keeps p r s) :
    Keeps p r (State.voteThree s f i x y) := by
  unfold State.voteThree; with_reducible repeat' (first | exact hk | apply State.upset_keeps | apply State.compareVoted_keeps | split | dsimp only)

theorem State.scrubFields_keeps {p : Prop} {r : State} (s : State) (mine : FieldAt → Bool) (hk : Keeps p r s) :
    Keeps p r (State.scrubFields s mine) := by
  unfold State.scrubFields; with_reducible repeat' (first | assumption | apply State.compareVoted_keeps | (apply foldl_keeps; rotate_left; intros))

theorem State.scrubDone_keeps {p : Prop} {r : State} (s : State) (page : Nat) (hk : Keeps p r s) :
    Keeps p r (State.scrubDone s page) := by
  unfold State.scrubDone; with_reducible repeat' (first | exact hk | apply State.scrubFields_keeps | apply State.selfTestEnds_keeps | (fail_if_no_progress (refine keeps_mk ?_ rfl rfl rfl)) | split | dsimp only)

theorem execPorstNRelease_keeps {p : Prop} {r : State} (s : State) (hk : Keeps p r s) (t : State) (h : execPorstNRelease s = .next t) :
    Keeps p r t := by
  unfold execPorstNRelease at h; injection h with h; subst h; with_reducible repeat' (first | exact hk | apply State.porstRelease_keeps)

theorem execPorstNAssert_keeps {p : Prop} {r : State} (s : State) (hk : Keeps p r s) (t : State) (h : execPorstNAssert s = .next t) :
    Keeps p r t := by
  unfold execPorstNAssert at h; injection h with h; subst h; with_reducible repeat' (first | exact hk | apply State.porstAssert_keeps)

theorem execGhostLightStable_keeps {p : Prop} {r : State} (s : State) (hk : Keeps p r s) (t : State) (h : execGhostLightStable s = .next t) :
    Keeps p r t := by
  unfold execGhostLightStable at h; injection h with h; subst h; with_reducible repeat' (first | exact hk | apply State.ghostStable_keeps)

theorem execWarmNAssert_keeps {p : Prop} {r : State} (s : State) (hk : Keeps p r s) (t : State) (h : execWarmNAssert s = .next t) :
    Keeps p r t := by
  unfold execWarmNAssert at h; injection h with h; subst h; with_reducible repeat' (first | exact hk | apply State.warmPin_keeps)

theorem execWarmNRelease_keeps {p : Prop} {r : State} (s : State) (hk : Keeps p r s) (t : State) (h : execWarmNRelease s = .next t) :
    Keeps p r t := by
  unfold execWarmNRelease at h; injection h with h; subst h; with_reducible repeat' (first | exact hk | apply State.warmRelease_keeps)

theorem execLoadingSelfTestDone_keeps {p : Prop} {r : State} (pass : Bool) (found : SelfTestFound) (s : State) (hk : Keeps p r s) (t : State) (h : execLoadingSelfTestDone pass found s = .next t) :
    Keeps p r t := by
  unfold execLoadingSelfTestDone at h; injection h with h; subst h; with_reducible repeat' (first | exact hk | apply State.selfTestDone_keeps)

theorem execSlotHeadersRead_keeps {p : Prop} {r : State} (readErrorA : Bool) (readErrorB : Bool) (s : State) (hk : Keeps p r s) (t : State) (h : execSlotHeadersRead readErrorA readErrorB s = .next t) :
    Keeps p r t := by
  unfold execSlotHeadersRead at h; injection h with h; subst h; with_reducible repeat' (first | exact hk | apply State.headersRead_keeps)

theorem execEarlyIdentityVerified_keeps {p : Prop} {r : State} (readError : Bool) (s : State) (hk : Keeps p r s) (t : State) (h : execEarlyIdentityVerified readError s = .next t) :
    Keeps p r t := by
  unfold execEarlyIdentityVerified at h; injection h with h; subst h; with_reducible repeat' (first | exact hk | apply State.earlyVerified_keeps)

theorem execImageBodyVerified_keeps {p : Prop} {r : State} (readError : Bool) (s : State) (hk : Keeps p r s) (t : State) (h : execImageBodyVerified readError s = .next t) :
    Keeps p r t := by
  unfold execImageBodyVerified at h; injection h with h; subst h; with_reducible repeat' (first | exact hk | apply State.bodyVerified_keeps)

theorem execAnnounceTimer_keeps {p : Prop} {r : State} (s : State) (hk : Keeps p r s) (t : State) (h : execAnnounceTimer s = .next t) :
    Keeps p r t := by
  unfold execAnnounceTimer at h; injection h with h; subst h; with_reducible repeat' (first | exact hk | apply State.announce_keeps)

theorem execOffer_keeps {p : Prop} {r : State} (station : BitVec 64) (header : List Byte) (sigblock : List Byte) (s : State) (hk : Keeps p r s) (t : State) (h : execOffer station header sigblock s = .next t) :
    Keeps p r t := by
  unfold execOffer at h; injection h with h; subst h; with_reducible repeat' (first | exact hk | apply State.offerIn_keeps | split)

theorem execChunk_keeps {p : Prop} {r : State} (station : BitVec 64) (offset : BitVec 32) (data : List Byte) (s : State) (hk : Keeps p r s) (t : State) (h : execChunk station offset data s = .next t) :
    Keeps p r t := by
  unfold execChunk at h; injection h with h; subst h; with_reducible repeat' (first | exact hk | apply State.chunkIn_keeps | split)

theorem execEndMessage_keeps {p : Prop} {r : State} (x : EndMessage) (s : State) (hk : Keeps p r s) (t : State) (h : execEndMessage x s = .next t) :
    Keeps p r t := by
  unfold execEndMessage at h; injection h with h; subst h; with_reducible repeat' (first | exact hk | apply State.endIn_keeps)

theorem State.sessionIdle_keeps {p : Prop} {r : State} (s : State) (hk : Keeps p r s) :
    Keeps p r (State.sessionIdle s) := by
  unfold State.sessionIdle; with_reducible repeat' (first | exact hk | apply State.endSession_keeps | split)

theorem execStagingSessionIdle_keeps {p : Prop} {r : State} (s : State) (hk : Keeps p r s) (t : State) (h : execStagingSessionIdle s = .next t) :
    Keeps p r t := by
  unfold execStagingSessionIdle at h; injection h with h; subst h; with_reducible repeat' (first | exact hk | apply State.sessionIdle_keeps)

theorem execAmendment_keeps {p : Prop} {r : State} (origin : Origin) (message : List Byte) (s : State) (hk : Keeps p r s) (t : State) (h : execAmendment origin message s = .next t) :
    Keeps p r t := by
  unfold execAmendment at h; injection h with h; subst h; with_reducible repeat' (first | exact hk | apply State.amendment_keeps)

theorem execRegwrite_keeps {p : Prop} {r : State} (origin : Origin) (addr : BitVec 32) (mask : BitVec 32) (value : BitVec 32) (s : State) (hk : Keeps p r s) (t : State) (h : execRegwrite origin addr mask value s = .next t) :
    Keeps p r t := by
  unfold execRegwrite at h; injection h with h; subst h; with_reducible repeat' (first | exact hk | apply State.oneRecord_keeps)

theorem execRegwrite64_keeps {p : Prop} {r : State} (origin : Origin) (addr : BitVec 32) (mask : BitVec 64) (value : BitVec 64) (s : State) (hk : Keeps p r s) (t : State) (h : execRegwrite64 origin addr mask value s = .next t) :
    Keeps p r t := by
  unfold execRegwrite64 at h; injection h with h; subst h; with_reducible repeat' (first | exact hk | apply State.oneRecord_keeps)

theorem execSectionRecord_keeps {p : Prop} {r : State} (origin : Origin) (type : BitVec 16) (version : BitVec 16) (body : List Byte) (s : State) (hk : Keeps p r s) (t : State) (h : execSectionRecord origin type version body s = .next t) :
    Keeps p r t := by
  unfold execSectionRecord at h; injection h with h; subst h; with_reducible repeat' (first | exact hk | apply State.oneRecord_keeps)

theorem execRestartRecord_keeps {p : Prop} {r : State} (origin : Origin) (s : State) (hk : Keeps p r s) (t : State) (h : execRestartRecord origin s = .next t) :
    Keeps p r t := by
  unfold execRestartRecord at h; injection h with h; subst h; with_reducible repeat' (first | exact hk | apply State.oneRecord_keeps)

theorem execSleepRecord_keeps {p : Prop} {r : State} (origin : Origin) (s : State) (hk : Keeps p r s) (t : State) (h : execSleepRecord origin s = .next t) :
    Keeps p r t := by
  unfold execSleepRecord at h; injection h with h; subst h; with_reducible repeat' (first | exact hk | apply State.oneRecord_keeps)

theorem execStageImage_keeps {p : Prop} {r : State} (origin : Origin) (header : List Byte) (sigblock : List Byte) (s : State) (hk : Keeps p r s) (t : State) (h : execStageImage origin header sigblock s = .next t) :
    Keeps p r t := by
  unfold execStageImage at h; injection h with h; subst h; with_reducible repeat' (first | exact hk | apply State.oneRecord_keeps)

theorem execQuery_keeps {p : Prop} {r : State} (origin : Origin) (addrs : List (BitVec 32)) (s : State) (hk : Keeps p r s) (t : State) (h : execQuery origin addrs s = .next t) :
    Keeps p r t := by
  unfold execQuery at h; injection h with h; subst h; with_reducible repeat' (first | exact hk | apply State.oneRecord_keeps)

theorem execRegisterWrite_keeps {p : Prop} {r : State} (r0 : Requester) (addr : BitVec 32) (size : AccSize) (value : BitVec 64) (s : State) (hk : Keeps p r s) (t : State) (h : execRegisterWrite r0 addr size value s = .next t) :
    Keeps p r t := by
  unfold execRegisterWrite at h; injection h with h; subst h; with_reducible repeat' (first | exact hk | apply State.mapWrite_keeps)

theorem execSlowWritePerformed_keeps {p : Prop} {r : State} (b : SlowBlock) (s : State) (hk : Keeps p r s) (t : State) (h : execSlowWritePerformed b s = .next t) :
    Keeps p r t := by
  unfold execSlowWritePerformed at h; injection h with h; subst h; with_reducible repeat' (first | exact hk | apply State.performSlow_keeps)

theorem execSlowReadTimeout_keeps {p : Prop} {r : State} (r0 : Requester) (addr : BitVec 32) (wide : Bool) (s : State) (hk : Keeps p r s) (t : State) (h : execSlowReadTimeout r0 addr wide s = .next t) :
    Keeps p r t := by
  unfold execSlowReadTimeout at h; injection h with h; subst h; with_reducible repeat' (first | exact hk | apply State.slowReadFails_keeps)

theorem execHalfLatchRead_keeps {p : Prop} {r : State} (r0 : Requester) (addr : BitVec 32) (s : State) (hk : Keeps p r s) (t : State) (h : execHalfLatchRead r0 addr s = .next t) :
    Keeps p r t := by
  unfold execHalfLatchRead at h; injection h with h; subst h; with_reducible repeat' (first | exact hk | apply State.readOut_keeps)

theorem execCounterReadClear_keeps {p : Prop} {r : State} (r0 : Requester) (addr : BitVec 32) (wide : Bool) (arriving : BitVec 32) (s : State) (hk : Keeps p r s) (t : State) (h : execCounterReadClear r0 addr wide arriving s = .next t) :
    Keeps p r t := by
  unfold execCounterReadClear at h; injection h with h; subst h; with_reducible repeat' (first | exact hk | apply State.counterRead_keeps)

theorem execVoteOneDisagree_keeps {p : Prop} {r : State} (f : FieldPos) (i : Nat) (copy : Upset) (written : Bool) (s : State) (hk : Keeps p r s) (t : State) (h : execVoteOneDisagree f i copy written s = .next t) :
    Keeps p r t := by
  unfold execVoteOneDisagree at h; injection h with h; subst h; with_reducible repeat' (first | exact hk | apply State.voteOne_keeps | split)

theorem execGroupScrubDone_keeps {p : Prop} {r : State} (page : BitVec 20) (s : State) (hk : Keeps p r s) (t : State) (h : execGroupScrubDone page s = .next t) :
    Keeps p r t := by
  unfold execGroupScrubDone at h; injection h with h; subst h; with_reducible repeat' (first | exact hk | apply State.scrubDone_keeps)

theorem execBackgroundScrub_keeps {p : Prop} {r : State} (s : State) (hk : Keeps p r s) (t : State) (h : execBackgroundScrub s = .next t) :
    Keeps p r t := by
  unfold execBackgroundScrub at h; injection h with h; subst h; with_reducible repeat' (first | exact hk | apply State.scrubFields_keeps)

theorem execVoteThreeDisagree_keeps {p : Prop} {r : State} (f : FieldPos) (x : TwoUpsets) (s : State) (hk : Keeps p r s) (t : State) (h : execVoteThreeDisagree f x s = .next t) :
    Keeps p r t := by
  unfold execVoteThreeDisagree at h; injection h with h; subst h; with_reducible repeat' (first | exact hk | apply State.voteThree_keeps | split)

end Sys2Proof.Machine
end

