-- ==== Sys2Proof/Laws/KeepsCmdControl.lean ====
section
/-! SUPPORT. What the functions of Machine/CmdControl.lean keep. -/

namespace Sys2Proof.Machine

theorem State.heartbeatOut_keeps {p : Prop} {r : State} (s : State) (u : Nat) (hk : Keeps p r s) :
    Keeps p r (State.heartbeatOut s u) := by
  unfold State.heartbeatOut; with_reducible repeat' (first | exact hk | apply State.emit_keeps | split)

theorem State.kickLimit_keeps {p : Prop} {r : State} (s : State) (u : Nat) (hk : Keeps p r s) :
    Keeps p r (State.kickLimit s u) := by
  unfold State.kickLimit; with_reducible repeat' (first | exact hk | apply State.setUnit_keeps | split)

theorem State.gapLimit_keeps {p : Prop} {r : State} (s : State) (n : Nat) (hk : Keeps p r s) :
    Keeps p r (State.gapLimit s n) := by
  unfold State.gapLimit; with_reducible repeat' (first | exact hk | apply State.pairCurtain_keeps | apply State.setGap_keeps | split)

theorem State.vaultPost_keeps {p : Prop} {r : State} (s : State) (u : Fin 2) (prod : BitVec 16) (hk : Keeps p r s) :
    Keeps p r (State.vaultPost s u prod) := by
  unfold State.vaultPost; with_reducible repeat' (first | exact hk | apply State.fieldsWrite_keeps)

theorem execHeartbeatSend_keeps {p : Prop} {r : State} (u : Fin 20) (s : State) (hk : Keeps p r s) (t : State) (h : execHeartbeatSend u s = .next t) :
    Keeps p r t := by
  unfold execHeartbeatSend at h; injection h with h; subst h; with_reducible repeat' (first | exact hk | apply State.heartbeatOut_keeps)

theorem execHeartbeatReceived_keeps {p : Prop} {r : State} (u : Fin 20) (path : HbPath) (s : State) (hk : Keeps p r s) (t : State) (h : execHeartbeatReceived u path s = .next t) :
    Keeps p r t := by
  unfold execHeartbeatReceived at h; injection h with h; subst h; with_reducible repeat' (first | exact hk | apply State.heartbeatIn_keeps)

theorem execPathSilent_keeps {p : Prop} {r : State} (u : Fin 20) (path : HbPath) (s : State) (hk : Keeps p r s) (t : State) (h : execPathSilent u path s = .next t) :
    Keeps p r t := by
  unfold execPathSilent at h; injection h with h; subst h; with_reducible repeat' (first | exact hk | apply State.pathSilent_keeps | apply State.settleAll_keeps)

theorem execKick_keeps {p : Prop} {r : State} (r0 : Requester) (s : State) (hk : Keeps p r s) (t : State) (h : execKick r0 s = .next t) :
    Keeps p r t := by
  unfold execKick at h; injection h with h; subst h; with_reducible repeat' (first | exact hk | apply State.write32_keeps)

theorem execKickLimitExpiry_keeps {p : Prop} {r : State} (u : Fin 20) (s : State) (hk : Keeps p r s) (t : State) (h : execKickLimitExpiry u s = .next t) :
    Keeps p r t := by
  unfold execKickLimitExpiry at h; injection h with h; subst h; with_reducible repeat' (first | exact hk | apply State.kickLimit_keeps)

theorem execTakeover_keeps {p : Prop} {r : State} (r0 : Requester) (expect : BitVec 16) (s : State) (hk : Keeps p r s) (t : State) (h : execTakeover r0 expect s = .next t) :
    Keeps p r t := by
  unfold execTakeover at h; injection h with h; subst h; with_reducible repeat' (first | exact hk | apply State.write32_keeps)

theorem execRehearsal_keeps {p : Prop} {r : State} (r0 : Requester) (expect : BitVec 16) (s : State) (hk : Keeps p r s) (t : State) (h : execRehearsal r0 expect s = .next t) :
    Keeps p r t := by
  unfold execRehearsal at h; injection h with h; subst h; with_reducible repeat' (first | exact hk | apply State.write32_keeps)

theorem execTie_keeps {p : Prop} {r : State} (r0 : Requester) (expect : BitVec 16) (s : State) (hk : Keeps p r s) (t : State) (h : execTie r0 expect s = .next t) :
    Keeps p r t := by
  unfold execTie at h; injection h with h; subst h; with_reducible repeat' (first | exact hk | apply State.write32_keeps)

theorem execGapLimit_keeps {p : Prop} {r : State} (pair : Fin 10) (s : State) (hk : Keeps p r s) (t : State) (h : execGapLimit pair s = .next t) :
    Keeps p r t := by
  unfold execGapLimit at h; injection h with h; subst h; with_reducible repeat' (first | exact hk | apply State.gapLimit_keeps | apply State.settleAll_keeps)

theorem execFenceVerdict_keeps {p : Prop} {r : State} (u : Fin 20) (lasting : Bool) (s : State) (hk : Keeps p r s) (t : State) (h : execFenceVerdict u lasting s = .next t) :
    Keeps p r t := by
  unfold execFenceVerdict at h; injection h with h; subst h; with_reducible repeat' (first | exact hk | apply State.fenceEnds_keeps | apply State.settleAll_keeps)

theorem execProbe_keeps {p : Prop} {r : State} (r0 : Requester) (s : State) (hk : Keeps p r s) (t : State) (h : execProbe r0 s = .next t) :
    Keeps p r t := by
  unfold execProbe at h; injection h with h; subst h; with_reducible repeat' (first | exact hk | apply State.write32_keeps)

theorem execRehearsalTimer_keeps {p : Prop} {r : State} (s : State) (hk : Keeps p r s) (t : State) (h : execRehearsalTimer s = .next t) :
    Keeps p r t := by
  unfold execRehearsalTimer at h; injection h with h; subst h; with_reducible repeat' (first | exact hk | apply State.rehearsalDue_keeps)

theorem execYield_keeps {p : Prop} {r : State} (r0 : Requester) (s : State) (hk : Keeps p r s) (t : State) (h : execYield r0 s = .next t) :
    Keeps p r t := by
  unfold execYield at h; injection h with h; subst h; with_reducible repeat' (first | exact hk | apply State.fieldsWrite_keeps)

theorem execYieldTimeout_keeps {p : Prop} {r : State} (s : State) (hk : Keeps p r s) (t : State) (h : execYieldTimeout s = .next t) :
    Keeps p r t := by
  unfold execYieldTimeout at h; injection h with h; subst h; with_reducible repeat' (first | exact hk | apply State.yieldLate_keeps)

theorem execRehearsalDone_keeps {p : Prop} {r : State} (r0 : Requester) (s : State) (hk : Keeps p r s) (t : State) (h : execRehearsalDone r0 s = .next t) :
    Keeps p r t := by
  unfold execRehearsalDone at h; injection h with h; subst h; with_reducible repeat' (first | exact hk | apply State.fieldsWrite_keeps)

theorem execRehearsalFailed_keeps {p : Prop} {r : State} (s : State) (hk : Keeps p r s) (t : State) (h : execRehearsalFailed s = .next t) :
    Keeps p r t := by
  unfold execRehearsalFailed at h; injection h with h; subst h; with_reducible repeat' (first | exact hk | apply State.rehearsalFails_keeps | apply State.applyHeld_keeps | apply State.settleAll_keeps)

theorem execCpcFrameTransmit_keeps {p : Prop} {r : State} (s : State) (hk : Keeps p r s) (t : State) (h : execCpcFrameTransmit s = .next t) :
    Keeps p r t := by
  unfold execCpcFrameTransmit at h; injection h with h; subst h; with_reducible repeat' (first | exact hk | apply State.cpcTransmit_keeps)

theorem execCpcFrameReceive_keeps {p : Prop} {r : State} (f : Nat) (s : State) (hk : Keeps p r s) (t : State) (h : execCpcFrameReceive f s = .next t) :
    Keeps p r t := by
  unfold execCpcFrameReceive at h; injection h with h; subst h; with_reducible repeat' (first | exact hk | apply State.cpcReceive_keeps)

theorem execVaultRequestPost_keeps {p : Prop} {r : State} (unit : Fin 2) (prod : BitVec 16) (s : State) (hk : Keeps p r s) (t : State) (h : execVaultRequestPost unit prod s = .next t) :
    Keeps p r t := by
  unfold execVaultRequestPost at h; injection h with h; subst h; with_reducible repeat' (first | exact hk | apply State.vaultPost_keeps)

theorem State.ringFrame_keeps {p : Prop} {r : State} (s : State) (p0 : Nat) (type : Nat) (f : List Byte) (hk : Keeps p r s) :
    Keeps p r (State.ringFrame s p0 type f) := by
  unfold State.ringFrame; with_reducible repeat' (first | exact hk | apply State.barodIn_keeps | apply State.stackRing_keeps | intro)

theorem State.sceneFrame_keeps {p : Prop} {r : State} (s : State) (p0 : Nat) (f : List Byte) (hk : Keeps p r s) :
    Keeps p r (State.sceneFrame s p0 f) := by
  unfold State.sceneFrame; with_reducible repeat' (first | assumption | apply State.barodIn_keeps | apply State.stackRing_keeps | apply State.sceneIn_keeps | split | dsimp only | intro)

theorem State.cbwordIn_keeps {p : Prop} {r : State} (s : State) (p0 : Nat) (f : List Byte) (hk : Keeps p r s) :
    Keeps p r (State.cbwordIn s p0 f) := by
  unfold State.cbwordIn; with_reducible repeat' (first | exact hk | apply State.barodIn_keeps | apply State.slotPut_keeps | intro)

theorem State.stackTx_keeps {p : Prop} {r : State} (s : State) (r0 : Requester) (type : Nat) (value : BitVec 64) (hk : Keeps p r s) :
    Keeps p r (State.stackTx s r0 type value) := by
  unfold State.stackTx; with_reducible repeat' (first | exact hk | apply State.write64_keeps)

theorem execBarodHelloTimer_keeps {p : Prop} {r : State} (p0 : Fin 256) (s : State) (hk : Keeps p r s) (t : State) (h : execBarodHelloTimer p0 s = .next t) :
    Keeps p r t := by
  unfold execBarodHelloTimer at h; injection h with h; subst h; with_reducible repeat' (first | exact hk | apply State.sendHello_keeps)

theorem execBarodHello_keeps {p : Prop} {r : State} (p0 : Fin 256) (frame : List Byte) (s : State) (hk : Keeps p r s) (t : State) (h : execBarodHello p0 frame s = .next t) :
    Keeps p r t := by
  unfold execBarodHello at h; injection h with h; subst h; with_reducible repeat' (first | exact hk | apply State.barodIn_keeps | apply State.helloIn_keeps | intro)

theorem execKeepaliveTimer_keeps {p : Prop} {r : State} (p0 : Fin 256) (s : State) (hk : Keeps p r s) (t : State) (h : execKeepaliveTimer p0 s = .next t) :
    Keeps p r t := by
  unfold execKeepaliveTimer at h; injection h with h; subst h; with_reducible repeat' (first | exact hk | apply State.sendKeepalive_keeps)

theorem execKeepalive_keeps {p : Prop} {r : State} (p0 : Fin 256) (frame : List Byte) (s : State) (hk : Keeps p r s) (t : State) (h : execKeepalive p0 frame s = .next t) :
    Keeps p r t := by
  unfold execKeepalive at h; injection h with h; subst h; with_reducible repeat' (first | exact hk | apply State.barodIn_keeps | apply State.keepaliveIn_keeps | intro)

theorem execLinkSilent_keeps {p : Prop} {r : State} (p0 : Fin 256) (s : State) (hk : Keeps p r s) (t : State) (h : execLinkSilent p0 s = .next t) :
    Keeps p r t := by
  unfold execLinkSilent at h; injection h with h; subst h; with_reducible repeat' (first | exact hk | apply State.stackSilent_keeps)

theorem execClaimWaitExpiry_keeps {p : Prop} {r : State} (s : State) (hk : Keeps p r s) (t : State) (h : execClaimWaitExpiry s = .next t) :
    Keeps p r t := by
  unfold execClaimWaitExpiry at h; injection h with h; subst h; with_reducible repeat' (first | exact hk | apply State.stackClaim_keeps)

theorem execBarodClaim_keeps {p : Prop} {r : State} (p0 : Fin 256) (frame : List Byte) (s : State) (hk : Keeps p r s) (t : State) (h : execBarodClaim p0 frame s = .next t) :
    Keeps p r t := by
  unfold execBarodClaim at h; injection h with h; subst h; with_reducible repeat' (first | exact hk | apply State.barodIn_keeps | apply State.claimIn_keeps | intro)

theorem execClaimReply_keeps {p : Prop} {r : State} (p0 : Fin 256) (frame : List Byte) (s : State) (hk : Keeps p r s) (t : State) (h : execClaimReply p0 frame s = .next t) :
    Keeps p r t := by
  unfold execClaimReply at h; injection h with h; subst h; with_reducible repeat' (first | exact hk | apply State.barodIn_keeps | apply State.claimReplyIn_keeps)

theorem execClaimReplyLimit_keeps {p : Prop} {r : State} (s : State) (hk : Keeps p r s) (t : State) (h : execClaimReplyLimit s = .next t) :
    Keeps p r t := by
  unfold execClaimReplyLimit at h; injection h with h; subst h; with_reducible repeat' (first | exact hk | apply State.claimLimit_keeps)

theorem execBarodScene_keeps {p : Prop} {r : State} (p0 : Fin 256) (frame : List Byte) (s : State) (hk : Keeps p r s) (t : State) (h : execBarodScene p0 frame s = .next t) :
    Keeps p r t := by
  unfold execBarodScene at h; injection h with h; subst h; with_reducible repeat' (first | exact hk | apply State.sceneFrame_keeps)

theorem execSceneAck_keeps {p : Prop} {r : State} (p0 : Fin 256) (frame : List Byte) (s : State) (hk : Keeps p r s) (t : State) (h : execSceneAck p0 frame s = .next t) :
    Keeps p r t := by
  unfold execSceneAck at h; injection h with h; subst h; with_reducible repeat' (first | exact hk | apply State.ringFrame_keeps)

theorem execCbword_keeps {p : Prop} {r : State} (p0 : Fin 256) (frame : List Byte) (s : State) (hk : Keeps p r s) (t : State) (h : execCbword p0 frame s = .next t) :
    Keeps p r t := by
  unfold execCbword at h; injection h with h; subst h; with_reducible repeat' (first | exact hk | apply State.cbwordIn_keeps)

theorem execReport_keeps {p : Prop} {r : State} (p0 : Fin 256) (frame : List Byte) (s : State) (hk : Keeps p r s) (t : State) (h : execReport p0 frame s = .next t) :
    Keeps p r t := by
  unfold execReport at h; injection h with h; subst h; with_reducible repeat' (first | exact hk | apply State.ringFrame_keeps)

theorem execSendScene_keeps {p : Prop} {r : State} (r0 : Requester) (value : BitVec 64) (s : State) (hk : Keeps p r s) (t : State) (h : execSendScene r0 value s = .next t) :
    Keeps p r t := by
  unfold execSendScene at h; injection h with h; subst h; with_reducible repeat' (first | exact hk | apply State.stackTx_keeps)

theorem execSendSceneAck_keeps {p : Prop} {r : State} (r0 : Requester) (value : BitVec 64) (s : State) (hk : Keeps p r s) (t : State) (h : execSendSceneAck r0 value s = .next t) :
    Keeps p r t := by
  unfold execSendSceneAck at h; injection h with h; subst h; with_reducible repeat' (first | exact hk | apply State.stackTx_keeps)

theorem execSendReport_keeps {p : Prop} {r : State} (r0 : Requester) (value : BitVec 64) (s : State) (hk : Keeps p r s) (t : State) (h : execSendReport r0 value s = .next t) :
    Keeps p r t := by
  unfold execSendReport at h; injection h with h; subst h; with_reducible repeat' (first | exact hk | apply State.stackTx_keeps)

theorem execSceneArmDeadline_keeps {p : Prop} {r : State} (s : State) (hk : Keeps p r s) (t : State) (h : execSceneArmDeadline s = .next t) :
    Keeps p r t := by
  unfold execSceneArmDeadline at h; injection h with h; subst h; with_reducible repeat' (first | exact hk | apply State.sceneDeadline_keeps)

theorem execTimeOffsetCurtain_keeps {p : Prop} {r : State} (s : State) (hk : Keeps p r s) (t : State) (h : execTimeOffsetCurtain s = .next t) :
    Keeps p r t := by
  unfold execTimeOffsetCurtain at h; injection h with h; subst h; with_reducible repeat' (first | exact hk | apply State.timeCurtain_keeps | apply State.settleAll_keeps)

end Sys2Proof.Machine
end

