-- ==== Sys2Proof/Laws/KeepsCmdHost.lean ====
section
/-! SUPPORT. What the functions of Machine/CmdHost.lean keep. -/

namespace Sys2Proof.Machine

theorem State.masterCleared_keeps {p : Prop} {r : State} (s : State) (l : Nat) (c : MasterStop) (hk : Keeps p r s) :
    Keeps p r (State.masterCleared s l c) := by
  unfold State.masterCleared; with_reducible repeat' (first | exact hk | apply State.masterClear_keeps | apply State.settleAll_keeps | split | dsimp only)

theorem State.flrDone_keeps {p : Prop} {r : State} (s : State) (l : Nat) (fn : Nat) (hk : Keeps p r s) :
    Keeps p r (State.flrDone s l fn) := by
  unfold State.flrDone; with_reducible repeat' (first | exact hk | apply State.setFunc_keeps | split)

theorem State.hostUnsupported_keeps {p : Prop} {r : State} (s : State) (l : Nat) (t0 : HostTlp) (hk : Keeps p r s) :
    Keeps p r (State.hostUnsupported s l t0) := by
  unfold State.hostUnsupported; with_reducible repeat' (first | exact hk | apply State.bump_keeps | apply State.aer_keeps | apply State.complete_keeps | split)

theorem State.pf0Tlp_keeps {p : Prop} {r : State} (s : State) (l : Nat) (off : Nat) (t0 : HostTlp) (hk : Keeps p r s) :
    Keeps p r (State.pf0Tlp s l off t0) := by
  unfold State.pf0Tlp
  split
  · exact State.pf0Write_keeps _ _ _ _ _ _ hk
  · exact State.complete_keeps _ _ _ _ (State.pf0Read_keeps _ _ _ _ _ hk)

theorem State.pageZero_keeps {p : Prop} {r : State} (s : State) (l : Nat) (off : Nat) (t0 : HostTlp) (hk : Keeps p r s) :
    Keeps p r (State.pageZero s l off t0) := by
  unfold State.pageZero; with_reducible repeat' (first | exact hk | apply State.tableWrite_keeps | apply State.complete_keeps | split | dsimp only)

theorem State.pf1Tlp_keeps {p : Prop} {r : State} (s : State) (l : Nat) (off : Nat) (t0 : HostTlp) (hk : Keeps p r s) :
    Keeps p r (State.pf1Tlp s l off t0) := by
  unfold State.pf1Tlp
  split
  · split
    · exact hk
    · exact State.complete_keeps _ _ _ _ hk
  · split
    · exact State.pageZero_keeps _ _ _ _ hk
    · split
      · split
        · exact State.sliceWrite_keeps _ _ _ _ _ hk
        · exact State.complete_keeps _ _ _ _ (State.sliceRead_keeps _ _ _ _ hk)
      · split
        · exact hk
        · exact State.complete_keeps _ _ _ _ hk

theorem State.peerTlp_keeps {p : Prop} {r : State} (s : State) (l : Nat) (off : Nat) (t0 : HostTlp) (hk : Keeps p r s) :
    Keeps p r (State.peerTlp s l off t0) := by
  unfold State.peerTlp; with_reducible repeat' (first | exact hk | apply State.complete_keeps | apply State.completePieces_keeps | apply State.hostUnsupported_keeps | apply State.peerAccess_keeps | split | dsimp only)

theorem State.hostTlp_keeps {p : Prop} {r : State} (s : State) (l : Nat) (t0 : HostTlp) (hk : Keeps p r s) :
    Keeps p r (State.hostTlp s l t0) := by
  unfold State.hostTlp; with_reducible repeat' (first | exact hk | apply State.streamFails_keeps | apply State.bump_keeps | apply State.aer_keeps | apply State.hostUnsupported_keeps | apply State.pf0Tlp_keeps | apply State.pf1Tlp_keeps | apply State.peerTlp_keeps | split)

theorem execPerstAssert_keeps {p : Prop} {r : State} (h0 : Fin 16) (s : State) (hk : Keeps p r s) (t : State) (h : execPerstAssert h0 s = .next t) :
    Keeps p r t := by
  unfold execPerstAssert at h; injection h with h; subst h; with_reducible repeat' (first | exact hk | apply State.perstAssert_keeps | apply State.settleAll_keeps)

theorem execPerstRelease_keeps {p : Prop} {r : State} (h0 : Fin 16) (s : State) (hk : Keeps p r s) (t : State) (h : execPerstRelease h0 s = .next t) :
    Keeps p r t := by
  unfold execPerstRelease at h; injection h with h; subst h; with_reducible repeat' (first | exact hk | apply State.perstRelease_keeps)

theorem execLinkTrained_keeps {p : Prop} {r : State} (l : Fin 64) (flit : Bool) (speed : Fin 8) (width : Fin 17) (s : State) (hk : Keeps p r s) (t : State) (h : execLinkTrained l flit speed width s = .next t) :
    Keeps p r t := by
  unfold execLinkTrained at h; injection h with h; subst h; with_reducible repeat' (first | exact hk | apply State.linkTrained_keeps)

theorem execLinkDown_keeps {p : Prop} {r : State} (l : Fin 64) (s : State) (hk : Keeps p r s) (t : State) (h : execLinkDown l s = .next t) :
    Keeps p r t := by
  unfold execLinkDown at h; injection h with h; subst h; with_reducible repeat' (first | exact hk | apply State.hostLinkDown_keeps | apply State.settleAll_keeps | split)

theorem execMaxSpeedWrite_keeps {p : Prop} {r : State} (r0 : Requester) (l : Fin 64) (speed : BitVec 3) (s : State) (hk : Keeps p r s) (t : State) (h : execMaxSpeedWrite r0 l speed s = .next t) :
    Keeps p r t := by
  unfold execMaxSpeedWrite at h; injection h with h; subst h; with_reducible repeat' (first | exact hk | apply State.fieldsWrite_keeps)

theorem execRetrain_keeps {p : Prop} {r : State} (r0 : Requester) (l : Fin 64) (s : State) (hk : Keeps p r s) (t : State) (h : execRetrain r0 l s = .next t) :
    Keeps p r t := by
  unfold execRetrain at h; injection h with h; subst h; with_reducible repeat' (first | exact hk | apply State.fieldsWrite_keeps)

theorem execHostTlpReceived_keeps {p : Prop} {r : State} (l : Fin 64) (t0 : HostTlp) (s : State) (hk : Keeps p r s) (t : State) (h : execHostTlpReceived l t0 s = .next t) :
    Keeps p r t := by
  unfold execHostTlpReceived at h; injection h with h; subst h; with_reducible repeat' (first | exact hk | apply State.hostTlp_keeps | apply State.settleAll_keeps)

theorem execConfigRequest_keeps {p : Prop} {r : State} (l : Fin 64) (fn : Fin 2) (reg : BitVec 10) (write : Option (BitVec 32 × BitVec 4)) (s : State) (hk : Keeps p r s) (t : State) (h : execConfigRequest l fn reg write s = .next t) :
    Keeps p r t := by
  unfold execConfigRequest at h; injection h with h; subst h; with_reducible repeat' (first | exact hk | apply State.configRequest_keeps | apply State.settleAll_keeps)

theorem execBusMasterClear_keeps {p : Prop} {r : State} (l : Fin 64) (c : MasterStop) (s : State) (hk : Keeps p r s) (t : State) (h : execBusMasterClear l c s = .next t) :
    Keeps p r t := by
  unfold execBusMasterClear at h; injection h with h; subst h; with_reducible repeat' (first | exact hk | apply State.masterCleared_keeps)

theorem execFunctionLevelReset_keeps {p : Prop} {r : State} (l : Fin 64) (fn : Fin 2) (s : State) (hk : Keeps p r s) (t : State) (h : execFunctionLevelReset l fn s = .next t) :
    Keeps p r t := by
  unfold execFunctionLevelReset at h; injection h with h; subst h; with_reducible repeat' (first | exact hk | apply State.functionReset_keeps | apply State.settleAll_keeps | split)

theorem execFlrComplete_keeps {p : Prop} {r : State} (l : Fin 64) (fn : Fin 2) (s : State) (hk : Keeps p r s) (t : State) (h : execFlrComplete l fn s = .next t) :
    Keeps p r t := by
  unfold execFlrComplete at h; injection h with h; subst h; with_reducible repeat' (first | exact hk | apply State.flrDone_keeps)

theorem execBarResize_keeps {p : Prop} {r : State} (l : Fin 64) (bar2 : Bool) (log2 : BitVec 6) (s : State) (hk : Keeps p r s) (t : State) (h : execBarResize l bar2 log2 s = .next t) :
    Keeps p r t := by
  unfold execBarResize at h; injection h with h; subst h; with_reducible repeat' (first | exact hk | apply State.barResize_keeps | split)

theorem execCompletionReceived_keeps {p : Prop} {r : State} (l : Fin 64) (tag : BitVec 14) (c : CplPiece) (s : State) (hk : Keeps p r s) (t : State) (h : execCompletionReceived l tag c s = .next t) :
    Keeps p r t := by
  unfold execCompletionReceived at h; injection h with h; subst h; with_reducible repeat' (first | exact hk | apply State.completion_keeps | apply State.settleAll_keeps)

theorem execCompletionTimeout_keeps {p : Prop} {r : State} (l : Fin 64) (tag : BitVec 14) (s : State) (hk : Keeps p r s) (t : State) (h : execCompletionTimeout l tag s = .next t) :
    Keeps p r t := by
  unfold execCompletionTimeout at h; injection h with h; subst h; with_reducible repeat' (first | exact hk | apply State.completionTimeout_keeps | apply State.settleAll_keeps)

theorem execTagQuarantineEnd_keeps {p : Prop} {r : State} (h0 : Fin 16) (tag : BitVec 14) (s : State) (hk : Keeps p r s) (t : State) (h : execTagQuarantineEnd h0 tag s = .next t) :
    Keeps p r t := by
  unfold execTagQuarantineEnd at h; injection h with h; subst h; with_reducible repeat' (first | exact hk | apply State.quarantineEnd_keeps)

theorem State.sliceHello_keeps {p : Prop} {r : State} (s : State) (n : Nat) (hk : Keeps p r s) :
    Keeps p r (State.sliceHello s n) := by
  unfold State.sliceHello; with_reducible repeat' (first | exact hk | apply State.slotTaken_keeps | apply State.setFld_keeps | apply State.slotPut_keeps | split | dsimp only)

theorem execCreateSlice_keeps {p : Prop} {r : State} (r0 : Requester) (n : BitVec 12) (s : State) (hk : Keeps p r s) (t : State) (h : execCreateSlice r0 n s = .next t) :
    Keeps p r t := by
  unfold execCreateSlice at h; injection h with h; subst h; with_reducible repeat' (first | exact hk | apply State.write32_keeps)

theorem execStopSlice_keeps {p : Prop} {r : State} (r0 : Requester) (n : BitVec 12) (s : State) (hk : Keeps p r s) (t : State) (h : execStopSlice r0 n s = .next t) :
    Keeps p r t := by
  unfold execStopSlice at h; injection h with h; subst h; with_reducible repeat' (first | exact hk | apply State.write32_keeps | apply State.settleAll_keeps)

theorem execStartSlice_keeps {p : Prop} {r : State} (r0 : Requester) (n : BitVec 12) (s : State) (hk : Keeps p r s) (t : State) (h : execStartSlice r0 n s = .next t) :
    Keeps p r t := by
  unfold execStartSlice at h; injection h with h; subst h; with_reducible repeat' (first | exact hk | apply State.write32_keeps)

theorem execRemoveSlice_keeps {p : Prop} {r : State} (r0 : Requester) (n : BitVec 12) (s : State) (hk : Keeps p r s) (t : State) (h : execRemoveSlice r0 n s = .next t) :
    Keeps p r t := by
  unfold execRemoveSlice at h; injection h with h; subst h; with_reducible repeat' (first | exact hk | apply State.write32_keeps | apply State.settleAll_keeps)

theorem execAutoRestart_keeps {p : Prop} {r : State} (n : BitVec 12) (s : State) (hk : Keeps p r s) (t : State) (h : execAutoRestart n s = .next t) :
    Keeps p r t := by
  unfold execAutoRestart at h; injection h with h; subst h; with_reducible repeat' (first | exact hk | apply State.autoRestart_keeps)

theorem execGrantWrite_keeps {p : Prop} {r : State} (r0 : Requester) (n : BitVec 12) (g : GrantReg) (value : BitVec 64) (s : State) (hk : Keeps p r s) (t : State) (h : execGrantWrite r0 n g value s = .next t) :
    Keeps p r t := by
  unfold execGrantWrite at h; injection h with h; subst h; with_reducible repeat' (first | exact hk | apply State.write64_keeps | apply State.write32_keeps | split)

theorem execPeerShareWrite_keeps {p : Prop} {r : State} (r0 : Requester) (l : Fin 64) (value : BitVec 64) (s : State) (hk : Keeps p r s) (t : State) (h : execPeerShareWrite r0 l value s = .next t) :
    Keeps p r t := by
  unfold execPeerShareWrite at h; injection h with h; subst h; with_reducible repeat' (first | exact hk | apply State.write64_keeps)

theorem execSliceHello_keeps {p : Prop} {r : State} (n : BitVec 12) (s : State) (hk : Keeps p r s) (t : State) (h : execSliceHello n s = .next t) :
    Keeps p r t := by
  unfold execSliceHello at h; injection h with h; subst h; with_reducible repeat' (first | exact hk | apply State.sliceHello_keeps)

theorem State.doorbellOp_keeps {p : Prop} {r : State} (s : State) (n : BitVec 12) (op : Nat) (queue : BitVec 6) (index : BitVec 16) (hk : Keeps p r s) :
    Keeps p r (State.doorbellOp s n op queue index) := by
  unfold State.doorbellOp; with_reducible repeat' (first | exact hk | apply State.sliceWrite_keeps)

theorem State.onQueue_keeps {p : Prop} {r : State} (s : State) (g : Nat) (act : State → Nat → State) (hk : Keeps p r s)
    (he : ∀ t n, Keeps p r t → Keeps p r (act t n)) :
    Keeps p r (State.onQueue s g act) := by
  unfold State.onQueue; split
  · exact he _ _ hk
  · exact hk

theorem State.irqTimer_keeps {p : Prop} {r : State} (s : State) (g : Nat) (n : Nat) (hk : Keeps p r s) :
    Keeps p r (State.irqTimer s g n) := by
  unfold State.irqTimer; with_reducible repeat' (first | exact hk | apply State.queueIrq_keeps | split | dsimp only)

theorem State.cqStall_keeps {p : Prop} {r : State} (s : State) (g : Nat) (n : Nat) (hk : Keeps p r s) :
    Keeps p r (State.cqStall s g n) := by
  unfold State.cqStall; with_reducible repeat' (first | exact hk | apply State.drew_keeps | apply State.bump_keeps | apply State.queueError_keeps | split | dsimp only)

theorem State.entryTake_keeps {p : Prop} {r : State} (s : State) (h0 : Nat) (hk : Keeps p r s) :
    Keeps p r (State.entryTake s h0) := by
  unfold State.entryTake; with_reducible repeat' (first | exact hk | apply State.queueMalformed_keeps | apply State.takeFrame_keeps | apply State.takeStorage_keeps | apply State.settleAll_keeps | (fail_if_no_progress (refine keeps_mk ?_ rfl rfl rfl)) | split)

theorem execPostDoorbell_keeps {p : Prop} {r : State} (n : BitVec 12) (queue : BitVec 6) (index : BitVec 16) (s : State) (hk : Keeps p r s) (t : State) (h : execPostDoorbell n queue index s = .next t) :
    Keeps p r t := by
  unfold execPostDoorbell at h; injection h with h; subst h; with_reducible repeat' (first | exact hk | apply State.doorbellOp_keeps)

theorem execReleaseDoorbell_keeps {p : Prop} {r : State} (n : BitVec 12) (queue : BitVec 6) (index : BitVec 16) (s : State) (hk : Keeps p r s) (t : State) (h : execReleaseDoorbell n queue index s = .next t) :
    Keeps p r t := by
  unfold execReleaseDoorbell at h; injection h with h; subst h; with_reducible repeat' (first | exact hk | apply State.doorbellOp_keeps)

theorem execInvalidateDoorbell_keeps {p : Prop} {r : State} (n : BitVec 12) (queue : BitVec 6) (index : BitVec 16) (s : State) (hk : Keeps p r s) (t : State) (h : execInvalidateDoorbell n queue index s = .next t) :
    Keeps p r t := by
  unfold execInvalidateDoorbell at h; injection h with h; subst h; with_reducible repeat' (first | exact hk | apply State.doorbellOp_keeps)

theorem execQueueEnable_keeps {p : Prop} {r : State} (r0 : Requester) (g : BitVec 16) (value : BitVec 32) (s : State) (hk : Keeps p r s) (t : State) (h : execQueueEnable r0 g value s = .next t) :
    Keeps p r t := by
  unfold execQueueEnable at h; injection h with h; subst h; with_reducible repeat' (first | exact hk | apply State.write32_keeps)

theorem execQueueDisable_keeps {p : Prop} {r : State} (r0 : Requester) (g : BitVec 16) (value : BitVec 32) (s : State) (hk : Keeps p r s) (t : State) (h : execQueueDisable r0 g value s = .next t) :
    Keeps p r t := by
  unfold execQueueDisable at h; injection h with h; subst h; with_reducible repeat' (first | exact hk | apply State.write32_keeps)

theorem execEntryFetched_keeps {p : Prop} {r : State} (g : BitVec 16) (s : State) (hk : Keeps p r s) (t : State) (h : execEntryFetched g s = .next t) :
    Keeps p r t := by
  unfold execEntryFetched at h; injection h with h; subst h; with_reducible repeat' (first | exact hk | apply State.onQueue_keeps | apply State.entryFetched_keeps | intro)

theorem execEntryTake_keeps {p : Prop} {r : State} (h0 : Fin 16) (s : State) (hk : Keeps p r s) (t : State) (h : execEntryTake h0 s = .next t) :
    Keeps p r t := by
  unfold execEntryTake at h; injection h with h; subst h; with_reducible repeat' (first | exact hk | apply State.entryTake_keeps)

theorem execCompletionWrite_keeps {p : Prop} {r : State} (g : BitVec 16) (s : State) (hk : Keeps p r s) (t : State) (h : execCompletionWrite g s = .next t) :
    Keeps p r t := by
  unfold execCompletionWrite at h; injection h with h; subst h; with_reducible repeat' (first | exact hk | apply State.onQueue_keeps | apply State.completionWrite_keeps | intro)

theorem execIrqTimer_keeps {p : Prop} {r : State} (g : BitVec 16) (s : State) (hk : Keeps p r s) (t : State) (h : execIrqTimer g s = .next t) :
    Keeps p r t := by
  unfold execIrqTimer at h; injection h with h; subst h; with_reducible repeat' (first | exact hk | apply State.onQueue_keeps | apply State.irqTimer_keeps | intro)

theorem execCqStallLimit_keeps {p : Prop} {r : State} (g : BitVec 16) (s : State) (hk : Keeps p r s) (t : State) (h : execCqStallLimit g s = .next t) :
    Keeps p r t := by
  unfold execCqStallLimit at h; injection h with h; subst h; with_reducible repeat' (first | exact hk | apply State.onQueue_keeps | apply State.cqStall_keeps | intro)

theorem execRxDelivery_keeps {p : Prop} {r : State} (l : Fin 64) (s : State) (hk : Keeps p r s) (t : State) (h : execRxDelivery l s = .next t) :
    Keeps p r t := by
  unfold execRxDelivery at h; injection h with h; subst h; with_reducible repeat' (first | exact hk | apply State.rxDeliver_keeps)

theorem execRxStallLimit_keeps {p : Prop} {r : State} (l : Fin 64) (s : State) (hk : Keeps p r s) (t : State) (h : execRxStallLimit l s = .next t) :
    Keeps p r t := by
  unfold execRxStallLimit at h; injection h with h; subst h; with_reducible repeat' (first | exact hk | apply State.rxLimit_keeps)

theorem State.lineRaised_keeps {p : Prop} {r : State} (s : State) (r0 : Option Requester) (line : BitVec 8) (hk : Keeps p r s) :
    Keeps p r (State.lineRaised s r0 line) := by
  unfold State.lineRaised; with_reducible repeat' (first | exact hk | apply State.write32_keeps | apply State.raiseLine_keeps | split)

theorem execChannelEnable_keeps {p : Prop} {r : State} (r0 : Requester) (c : BitVec 12) (s : State) (hk : Keeps p r s) (t : State) (h : execChannelEnable r0 c s = .next t) :
    Keeps p r t := by
  unfold execChannelEnable at h; injection h with h; subst h; with_reducible repeat' (first | exact hk | apply State.fieldsWrite_keeps)

theorem execChannelDisable_keeps {p : Prop} {r : State} (r0 : Requester) (c : BitVec 12) (s : State) (hk : Keeps p r s) (t : State) (h : execChannelDisable r0 c s = .next t) :
    Keeps p r t := by
  unfold execChannelDisable at h; injection h with h; subst h; with_reducible repeat' (first | exact hk | apply State.fieldsWrite_keeps)

theorem execAbort_keeps {p : Prop} {r : State} (r0 : Requester) (c : BitVec 12) (s : State) (hk : Keeps p r s) (t : State) (h : execAbort r0 c s = .next t) :
    Keeps p r t := by
  unfold execAbort at h; injection h with h; subst h; with_reducible repeat' (first | exact hk | apply State.fieldsWrite_keeps)

theorem execAppend_keeps {p : Prop} {r : State} (r0 : Requester) (c : BitVec 12) (s : State) (hk : Keeps p r s) (t : State) (h : execAppend r0 c s = .next t) :
    Keeps p r t := by
  unfold execAppend at h; injection h with h; subst h; with_reducible repeat' (first | exact hk | apply State.fieldsWrite_keeps)

theorem execDescriptorFetched_keeps {p : Prop} {r : State} (c : BitVec 12) (s : State) (hk : Keeps p r s) (t : State) (h : execDescriptorFetched c s = .next t) :
    Keeps p r t := by
  unfold execDescriptorFetched at h; injection h with h; subst h; with_reducible repeat' (first | exact hk | apply State.descFetched_keeps)

theorem execReadEngineTurn_keeps {p : Prop} {r : State} (h0 : Fin 16) (tags : List (BitVec 14)) (s : State) (hk : Keeps p r s) (t : State) (h : execReadEngineTurn h0 tags s = .next t) :
    Keeps p r t := by
  unfold execReadEngineTurn at h; injection h with h; subst h; with_reducible repeat' (first | exact hk | apply State.readTurn_keeps)

theorem execDescriptorDone_keeps {p : Prop} {r : State} (c : BitVec 12) (s : State) (hk : Keeps p r s) (t : State) (h : execDescriptorDone c s = .next t) :
    Keeps p r t := by
  unfold execDescriptorDone at h; injection h with h; subst h; with_reducible repeat' (first | exact hk | apply State.descDone_keeps)

theorem execRequestLineRaise_keeps {p : Prop} {r : State} (r0 : Option Requester) (line : BitVec 8) (s : State) (hk : Keeps p r s) (t : State) (h : execRequestLineRaise r0 line s = .next t) :
    Keeps p r t := by
  unfold execRequestLineRaise at h; injection h with h; subst h; with_reducible repeat' (first | exact hk | apply State.lineRaised_keeps)

theorem execPacedBurst_keeps {p : Prop} {r : State} (c : BitVec 12) (s : State) (hk : Keeps p r s) (t : State) (h : execPacedBurst c s = .next t) :
    Keeps p r t := by
  unfold execPacedBurst at h; injection h with h; subst h; with_reducible repeat' (first | exact hk | apply State.pacedBurst_keeps)

theorem execStageSharesWrite_keeps {p : Prop} {r : State} (r0 : Requester) (h0 : Fin 16) (value : BitVec 64) (s : State) (hk : Keeps p r s) (t : State) (h : execStageSharesWrite r0 h0 value s = .next t) :
    Keeps p r t := by
  unfold execStageSharesWrite at h; injection h with h; subst h; with_reducible repeat' (first | exact hk | apply State.write64_keeps)

end Sys2Proof.Machine
end

