-- ==== Sys2Proof/Laws/KeepsCmdOffload.lean ====
section
/-! SUPPORT. What the functions of Machine/CmdOffload.lean keep. -/

namespace Sys2Proof.Machine

theorem State.tunnelUnit_keeps {p : Prop} {r : State} (s : State) (port : Nat) (types : List Nat) (act : State → Copy → Frame → Nat → Nat → State) (hk : Keeps p r s)
    (he : ∀ t k x c q, Keeps p r t → Keeps p r (act t k x c q)) :
    Keeps p r (State.tunnelUnit s port types act) := by
  unfold State.tunnelUnit
  repeat' (first | with_reducible exact hk | with_reducible apply State.settleAll_keeps | with_reducible apply State.bump_keeps | with_reducible apply State.takeArrived_keeps | with_reducible apply he | split)

theorem State.espUnit_keeps {p : Prop} {r : State} (s : State) (k : Copy) (x : Frame) (c : Nat) (port : Nat) (hk : Keeps p r s) :
    Keeps p r (State.espUnit s k x c port) := by
  unfold State.espUnit; with_reducible repeat' (first | exact hk | apply State.takeArrived_keeps | apply State.dropUnit_keeps | apply State.espOut_keeps | split)

theorem State.inboundEnds_keeps {p : Prop} {r : State} (s : State) (die : Nat) (hk : Keeps p r s) :
    Keeps p r (State.inboundEnds s die) := by
  unfold State.inboundEnds; with_reducible repeat' (first | exact hk | apply State.espInDone_keeps | apply State.settleAll_keeps | (fail_if_no_progress (refine keeps_mk ?_ rfl rfl rfl)) | split)

theorem execEncapUnit_keeps {p : Prop} {r : State} (p0 : Fin 4) (s : State) (hk : Keeps p r s) (t : State) (h : execEncapUnit p0 s = .next t) :
    Keeps p r t := by
  unfold execEncapUnit at h; injection h with h; subst h; with_reducible repeat' (first | exact hk | apply State.tunnelUnit_keeps | apply State.encapUnit_keeps)

theorem execDecapUnit_keeps {p : Prop} {r : State} (p0 : Fin 4) (s : State) (hk : Keeps p r s) (t : State) (h : execDecapUnit p0 s = .next t) :
    Keeps p r t := by
  unfold execDecapUnit at h; injection h with h; subst h; with_reducible repeat' (first | exact hk | apply State.tunnelUnit_keeps | apply State.decapUnit_keeps)

theorem execEspOutbound_keeps {p : Prop} {r : State} (p0 : Fin 4) (s : State) (hk : Keeps p r s) (t : State) (h : execEspOutbound p0 s = .next t) :
    Keeps p r t := by
  unfold execEspOutbound at h; injection h with h; subst h; with_reducible repeat' (first | exact hk | apply State.tunnelUnit_keeps | apply State.espUnit_keeps)

theorem execEspInbound_keeps {p : Prop} {r : State} (p0 : Fin 4) (s : State) (hk : Keeps p r s) (t : State) (h : execEspInbound p0 s = .next t) :
    Keeps p r t := by
  unfold execEspInbound at h; injection h with h; subst h; with_reducible repeat' (first | exact hk | apply State.tunnelUnit_keeps | apply State.espIn_keeps)

theorem execEspInboundResult_keeps {p : Prop} {r : State} (die : Fin 2) (s : State) (hk : Keeps p r s) (t : State) (h : execEspInboundResult die s = .next t) :
    Keeps p r t := by
  unfold execEspInboundResult at h; injection h with h; subst h; with_reducible repeat' (first | exact hk | apply State.inboundEnds_keeps)

theorem execObjectRead_keeps {p : Prop} {r : State} (r0 : Requester) (type : BitVec 2) (index : BitVec 16) (s : State) (hk : Keeps p r s) (t : State) (h : execObjectRead r0 type index s = .next t) :
    Keeps p r t := by
  unfold execObjectRead at h; injection h with h; subst h; with_reducible repeat' (first | exact hk | apply State.write32_keeps)

theorem execObjectWrite_keeps {p : Prop} {r : State} (r0 : Requester) (type : BitVec 2) (index : BitVec 16) (keepState : Bool) (s : State) (hk : Keeps p r s) (t : State) (h : execObjectWrite r0 type index keepState s = .next t) :
    Keeps p r t := by
  unfold execObjectWrite at h; injection h with h; subst h; with_reducible repeat' (first | exact hk | apply State.write32_keeps)

theorem execRoll_keeps {p : Prop} {r : State} (r0 : Requester) (type : BitVec 2) (index : BitVec 16) (s : State) (hk : Keeps p r s) (t : State) (h : execRoll r0 type index s = .next t) :
    Keeps p r t := by
  unfold execRoll at h; injection h with h; subst h; with_reducible repeat' (first | exact hk | apply State.write32_keeps)

theorem execOflEventPop_keeps {p : Prop} {r : State} (r0 : Requester) (s : State) (hk : Keeps p r s) (t : State) (h : execOflEventPop r0 s = .next t) :
    Keeps p r t := by
  unfold execOflEventPop at h; injection h with h; subst h; with_reducible repeat' (first | exact hk | apply State.write32_keeps)

theorem State.storageFrame_keeps {p : Prop} {r : State} (s : State) (d : Nat) (conn : Nat) (f : StorageFrame) (hk : Keeps p r s) :
    Keeps p r (State.storageFrame s d conn f) := by
  unfold State.storageFrame; with_reducible repeat' (first | exact hk | apply State.takeArrived_keeps | apply State.bump_keeps | apply State.stEvent_keeps | apply State.settleAll_keeps | split | dsimp only)

theorem State.storageTimeout_keeps {p : Prop} {r : State} (s : State) (t0 : StorageTimer) (hk : Keeps p r s) :
    Keeps p r (State.storageTimeout s t0) := by
  unfold State.storageTimeout; with_reducible repeat' (first | exact hk | apply State.connFail_keeps | apply State.settleAll_keeps | split | dsimp only)

theorem State.keepAlive_keeps {p : Prop} {r : State} (s : State) (conn : Nat) (hk : Keeps p r s) :
    Keeps p r (State.keepAlive s conn) := by
  unfold State.keepAlive; with_reducible repeat' (first | exact hk | apply State.stFrame_keeps | apply State.setConnRun_keeps | split | dsimp only)

theorem State.retransmit_keeps {p : Prop} {r : State} (s : State) (conn : Nat) (hk : Keeps p r s) :
    Keeps p r (State.retransmit s conn) := by
  unfold State.retransmit; with_reducible repeat' (first | exact hk | apply State.stResend_keeps | apply State.settleAll_keeps | split)

theorem execStorageTransportFrame_keeps {p : Prop} {r : State} (d : Fin 2) (conn : BitVec 13) (f : StorageFrame) (s : State) (hk : Keeps p r s) (t : State) (h : execStorageTransportFrame d conn f s = .next t) :
    Keeps p r t := by
  unfold execStorageTransportFrame at h; injection h with h; subst h; with_reducible repeat' (first | exact hk | apply State.storageFrame_keeps)

theorem execStorageCommandTimeout_keeps {p : Prop} {r : State} (t0 : StorageTimer) (s : State) (hk : Keeps p r s) (t : State) (h : execStorageCommandTimeout t0 s = .next t) :
    Keeps p r t := by
  unfold execStorageCommandTimeout at h; injection h with h; subst h; with_reducible repeat' (first | exact hk | apply State.storageTimeout_keeps)

theorem execKeepAliveTimer_keeps {p : Prop} {r : State} (conn : BitVec 13) (s : State) (hk : Keeps p r s) (t : State) (h : execKeepAliveTimer conn s = .next t) :
    Keeps p r t := by
  unfold execKeepAliveTimer at h; injection h with h; subst h; with_reducible repeat' (first | exact hk | apply State.keepAlive_keeps)

theorem execTransportRetransmitTimer_keeps {p : Prop} {r : State} (conn : BitVec 13) (s : State) (hk : Keeps p r s) (t : State) (h : execTransportRetransmitTimer conn s = .next t) :
    Keeps p r t := by
  unfold execTransportRetransmitTimer at h; injection h with h; subst h; with_reducible repeat' (first | exact hk | apply State.retransmit_keeps)

theorem State.contained_keeps {p : Prop} {r : State} (s : State) (kind : ElementKind) (index : Nat) (scope : Option (ScopeKind × Nat)) (hk : Keeps p r s) :
    Keeps p r (State.contained s kind index scope) := by
  unfold State.contained; with_reducible repeat' (first | exact hk | apply State.drew_keeps | apply State.elementError_keeps)

theorem State.contextLoad_keeps {p : Prop} {r : State} (s : State) (c : Nat) (read : Option (List Byte)) (hk : Keeps p r s) :
    Keeps p r (State.contextLoad s c read) := by
  unfold State.contextLoad; dsimp only
  split
  · exact hk
  · split
    · exact State.touchPairs_keeps _ _ hk
    · split
      · split
        · rename_i h
          exact State.bump_keeps _ _ _ (keeps_mk (State.freeSlot_keeps _ hk _ h) rfl rfl rfl)
        · exact hk
      · exact State.contained_keeps _ _ _ _ hk

theorem State.cipherSubmitted_keeps {p : Prop} {r : State} (s : State) (q : CipherRequester) (request : List Byte) (input : List Byte) (hk : Keeps p r s) :
    Keeps p r (State.cipherSubmitted s q request input) := by
  unfold State.cipherSubmitted; with_reducible repeat' (first | exact hk | apply State.submitCipher_keeps | apply State.settleAll_keeps | split)

theorem execCipherSubmit_keeps {p : Prop} {r : State} (q : CipherRequester) (request : List Byte) (input : List Byte) (s : State) (hk : Keeps p r s) (t : State) (h : execCipherSubmit q request input s = .next t) :
    Keeps p r t := by
  unfold execCipherSubmit at h; injection h with h; subst h; with_reducible repeat' (first | exact hk | apply State.cipherSubmitted_keeps)

theorem execCipherDispatch_keeps {p : Prop} {r : State} (e : Fin 36) (s : State) (hk : Keeps p r s) (t : State) (h : execCipherDispatch e s = .next t) :
    Keeps p r t := by
  unfold execCipherDispatch at h; injection h with h; subst h; with_reducible repeat' (first | exact hk | apply State.dispatch_keeps | apply State.settleAll_keeps)

theorem execCipherUnitDone_keeps {p : Prop} {r : State} (e : Fin 36) (s : State) (hk : Keeps p r s) (t : State) (h : execCipherUnitDone e s = .next t) :
    Keeps p r t := by
  unfold execCipherUnitDone at h; injection h with h; subst h; with_reducible repeat' (first | exact hk | apply State.unitDone_keeps | apply State.settleAll_keeps)

theorem execContextLoad_keeps {p : Prop} {r : State} (c : Fin 262144) (read : Option (List Byte)) (s : State) (hk : Keeps p r s) (t : State) (h : execContextLoad c read s = .next t) :
    Keeps p r t := by
  unfold execContextLoad at h; injection h with h; subst h; with_reducible repeat' (first | exact hk | apply State.contextLoad_keeps)

theorem execCheckpointComplete_keeps {p : Prop} {r : State} (c : Fin 262144) (s : State) (hk : Keeps p r s) (t : State) (h : execCheckpointComplete c s = .next t) :
    Keeps p r t := by
  unfold execCheckpointComplete at h; injection h with h; subst h; with_reducible repeat' (first | exact hk | apply State.checkpointDone_keeps)

theorem execCipherEngineError_keeps {p : Prop} {r : State} (e : Fin 36) (s : State) (hk : Keeps p r s) (t : State) (h : execCipherEngineError e s = .next t) :
    Keeps p r t := by
  unfold execCipherEngineError at h; injection h with h; subst h; with_reducible repeat' (first | exact hk | apply State.contained_keeps)

theorem execLockContext_keeps {p : Prop} {r : State} (r0 : Requester) (s : State) (hk : Keeps p r s) (t : State) (h : execLockContext r0 s = .next t) :
    Keeps p r t := by
  unfold execLockContext at h; injection h with h; subst h; with_reducible repeat' (first | exact hk | apply State.write32_keeps)

theorem execDropPrevious_keeps {p : Prop} {r : State} (r0 : Requester) (s : State) (hk : Keeps p r s) (t : State) (h : execDropPrevious r0 s = .next t) :
    Keeps p r t := by
  unfold execDropPrevious at h; injection h with h; subst h; with_reducible repeat' (first | exact hk | apply State.write32_keeps)

theorem execCtxLimitWrite_keeps {p : Prop} {r : State} (r0 : Requester) (k : LimitKind) (value : BitVec 64) (s : State) (hk : Keeps p r s) (t : State) (h : execCtxLimitWrite r0 k value s = .next t) :
    Keeps p r t := by
  unfold execCtxLimitWrite at h; injection h with h; subst h; with_reducible repeat' (first | exact hk | apply State.write64_keeps)

end Sys2Proof.Machine
end

