-- ==== Sys2Proof/Laws/KeepsCmdPorts.lean ====
section
/-! SUPPORT. What the functions of Machine/CmdPorts.lean keep. -/

namespace Sys2Proof.Machine

theorem execEnginePlanWrite_keeps {p : Prop} {r : State} (r0 : Requester) (e : Fin 16) (plan : BitVec 64) (s : State) (hk : Keeps p r s) (t : State) (h : execEnginePlanWrite r0 e plan s = .next t) :
    Keeps p r t := by
  unfold execEnginePlanWrite at h; injection h with h; subst h; with_reducible repeat' (first | exact hk | apply State.write64_keeps)

theorem execLbCellsWrite_keeps {p : Prop} {r : State} (r0 : Requester) (e : Fin 16) (j : Fin 16) (value : BitVec 32) (s : State) (hk : Keeps p r s) (t : State) (h : execLbCellsWrite r0 e j value s = .next t) :
    Keeps p r t := by
  unfold execLbCellsWrite at h; injection h with h; subst h; with_reducible repeat' (first | exact hk | apply State.write32_keeps)

theorem execPrtConfigWrite_keeps {p : Prop} {r : State} (r0 : Requester) (p0 : Fin 256) (value : BitVec 32) (s : State) (hk : Keeps p r s) (t : State) (h : execPrtConfigWrite r0 p0 value s = .next t) :
    Keeps p r t := by
  unfold execPrtConfigWrite at h; injection h with h; subst h; with_reducible repeat' (first | exact hk | apply State.write32_keeps)

theorem execPfcWmWrite_keeps {p : Prop} {r : State} (r0 : Requester) (p0 : Fin 256) (c : Fin 8) (value : BitVec 64) (s : State) (hk : Keeps p r s) (t : State) (h : execPfcWmWrite r0 p0 c value s = .next t) :
    Keeps p r t := by
  unfold execPfcWmWrite at h; injection h with h; subst h; with_reducible repeat' (first | exact hk | apply State.write64_keeps)

theorem execLsmInsertion_keeps {p : Prop} {r : State} (e : Fin 16) (s : State) (hk : Keeps p r s) (t : State) (h : execLsmInsertion e s = .next t) :
    Keeps p r t := by
  unfold execLsmInsertion at h; injection h with h; subst h; with_reducible repeat' (first | exact hk | apply State.lsmInsert_keeps)

theorem execLsmVerifyDone_keeps {p : Prop} {r : State} (e : Fin 16) (v : LsmVerify) (s : State) (hk : Keeps p r s) (t : State) (h : execLsmVerifyDone e v s = .next t) :
    Keeps p r t := by
  unfold execLsmVerifyDone at h; injection h with h; subst h; with_reducible repeat' (first | exact hk | apply State.lsmVerified_keeps)

theorem execLsmNoAnswer_keeps {p : Prop} {r : State} (e : Fin 16) (s : State) (hk : Keeps p r s) (t : State) (h : execLsmNoAnswer e s = .next t) :
    Keeps p r t := by
  unfold execLsmNoAnswer at h; injection h with h; subst h; with_reducible repeat' (first | exact hk | apply State.lsmSilent_keeps)

theorem execLsmRemoval_keeps {p : Prop} {r : State} (e : Fin 16) (s : State) (hk : Keeps p r s) (t : State) (h : execLsmRemoval e s = .next t) :
    Keeps p r t := by
  unfold execLsmRemoval at h; injection h with h; subst h; with_reducible repeat' (first | exact hk | apply State.lsmRemove_keeps)

theorem execEject_keeps {p : Prop} {r : State} (r0 : Requester) (e : Fin 16) (s : State) (hk : Keeps p r s) (t : State) (h : execEject r0 e s = .next t) :
    Keeps p r t := by
  unfold execEject at h; injection h with h; subst h; with_reducible repeat' (first | exact hk | apply State.directWrite_keeps)

theorem execEjectComplete_keeps {p : Prop} {r : State} (e : Fin 16) (litHours : BitVec 32) (bias : BitVec 128) (temp : BitVec 16) (s : State) (hk : Keeps p r s) (t : State) (h : execEjectComplete e litHours bias temp s = .next t) :
    Keeps p r t := by
  unfold execEjectComplete at h; injection h with h; subst h; with_reducible repeat' (first | exact hk | apply State.lsmEjected_keeps)

theorem execRetry_keeps {p : Prop} {r : State} (r0 : Requester) (e : Fin 16) (s : State) (hk : Keeps p r s) (t : State) (h : execRetry r0 e s = .next t) :
    Keeps p r t := by
  unfold execRetry at h; injection h with h; subst h; with_reducible repeat' (first | exact hk | apply State.directWrite_keeps)

theorem execLifeRecordTimer_keeps {p : Prop} {r : State} (e : Fin 16) (litHours : BitVec 32) (bias : BitVec 128) (temp : BitVec 16) (s : State) (hk : Keeps p r s) (t : State) (h : execLifeRecordTimer e litHours bias temp s = .next t) :
    Keeps p r t := by
  unfold execLifeRecordTimer at h; injection h with h; subst h; with_reducible repeat' (first | exact hk | apply State.lsmLife_keeps)

theorem execLaserChannelFault_keeps {p : Prop} {r : State} (e : Fin 16) (c : Fin 8) (s : State) (hk : Keeps p r s) (t : State) (h : execLaserChannelFault e c s = .next t) :
    Keeps p r t := by
  unfold execLaserChannelFault at h; injection h with h; subst h; with_reducible repeat' (first | exact hk | apply State.channelFails_keeps)

theorem execLsmInBandInterrupt_keeps {p : Prop} {r : State} (e : Fin 16) (alarm : BitVec 8) (s : State) (hk : Keeps p r s) (t : State) (h : execLsmInBandInterrupt e alarm s = .next t) :
    Keeps p r t := by
  unfold execLsmInBandInterrupt at h; injection h with h; subst h; with_reducible repeat' (first | exact hk | apply State.lsmAlarm_keeps)

theorem execLsmAlarmPoll_keeps {p : Prop} {r : State} (e : Fin 16) (alarm : BitVec 8) (s : State) (hk : Keeps p r s) (t : State) (h : execLsmAlarmPoll e alarm s = .next t) :
    Keeps p r t := by
  unfold execLsmAlarmPoll at h; injection h with h; subst h; with_reducible repeat' (first | exact hk | apply State.lsmAlarm_keeps)

theorem execFrameArrival_keeps {p : Prop} {r : State} (p0 : Fin 256) (octets : List Byte) (s : State) (hk : Keeps p r s) (t : State) (h : execFrameArrival p0 octets s = .next t) :
    Keeps p r t := by
  unfold execFrameArrival at h; injection h with h; subst h; with_reducible repeat' (first | exact hk | apply State.frameArrival_keeps | split)

theorem execXoffRefresh_keeps {p : Prop} {r : State} (p0 : Fin 256) (c : Fin 8) (s : State) (hk : Keeps p r s) (t : State) (h : execXoffRefresh p0 c s = .next t) :
    Keeps p r t := by
  unfold execXoffRefresh at h; injection h with h; subst h; with_reducible repeat' (first | exact hk | apply State.xoffAgain_keeps)

theorem execRxMaxFrameReached_keeps {p : Prop} {r : State} (f : Nat) (octets : List Byte) (s : State) (hk : Keeps p r s) (t : State) (h : execRxMaxFrameReached f octets s = .next t) :
    Keeps p r t := by
  unfold execRxMaxFrameReached at h; injection h with h; subst h; with_reducible repeat' (first | exact hk | apply State.maxReached_keeps)

theorem execFrameTailReceived_keeps {p : Prop} {r : State} (f : Nat) (octets : List Byte) (cause : TailCause) (s : State) (hk : Keeps p r s) (t : State) (h : execFrameTailReceived f octets cause s = .next t) :
    Keeps p r t := by
  unfold execFrameTailReceived at h; injection h with h; subst h; with_reducible repeat' (first | exact hk | apply State.tailReceived_keeps)

theorem execPauseFrameReceived_keeps {p : Prop} {r : State} (p0 : Fin 256) (pfc : Bool) (enable : BitVec 8) (times : BitVec 128) (fcsGood : Bool) (s : State) (hk : Keeps p r s) (t : State) (h : execPauseFrameReceived p0 pfc enable times fcsGood s = .next t) :
    Keeps p r t := by
  unfold execPauseFrameReceived at h; injection h with h; subst h; with_reducible repeat' (first | exact hk | apply State.pauseIn_keeps)

theorem execPauseTimerExpiry_keeps {p : Prop} {r : State} (p0 : Fin 256) (c : Option (Fin 8)) (s : State) (hk : Keeps p r s) (t : State) (h : execPauseTimerExpiry p0 c s = .next t) :
    Keeps p r t := by
  unfold execPauseTimerExpiry at h; injection h with h; subst h; with_reducible repeat' (first | exact hk | apply State.pauseEnds_keeps)

theorem execNetworkLinkUp_keeps {p : Prop} {r : State} (p0 : Fin 256) (s : State) (hk : Keeps p r s) (t : State) (h : execNetworkLinkUp p0 s = .next t) :
    Keeps p r t := by
  unfold execNetworkLinkUp at h; injection h with h; subst h; with_reducible repeat' (first | exact hk | apply State.portLinkUp_keeps)

theorem execNetworkLinkDown_keeps {p : Prop} {r : State} (p0 : Fin 256) (s : State) (hk : Keeps p r s) (t : State) (h : execNetworkLinkDown p0 s = .next t) :
    Keeps p r t := by
  unfold execNetworkLinkDown at h; injection h with h; subst h; with_reducible repeat' (first | exact hk | apply State.portDown_keeps | apply State.stackSilent_keeps)

theorem execTxTimestampPop_keeps {p : Prop} {r : State} (r0 : Requester) (p0 : Fin 256) (wide : Bool) (s : State) (hk : Keeps p r s) (t : State) (h : execTxTimestampPop r0 p0 wide s = .next t) :
    Keeps p r t := by
  unfold execTxTimestampPop at h; injection h with h; subst h; with_reducible repeat' (first | exact hk | apply State.readRegOut_keeps)

theorem execMgmtFrameReceived_keeps {p : Prop} {r : State} (seg : Fin 2) (src : Mac) (dst : Mac) (etherType : BitVec 16) (body : List Byte) (s : State) (hk : Keeps p r s) (t : State) (h : execMgmtFrameReceived seg src dst etherType body s = .next t) :
    Keeps p r t := by
  unfold execMgmtFrameReceived at h; injection h with h; subst h; with_reducible repeat' (first | exact hk | apply State.mgmtFrame_keeps)

theorem execMgmtReassemblyTimeout_keeps {p : Prop} {r : State} (station : BitVec 64) (seq : BitVec 32) (s : State) (hk : Keeps p r s) (t : State) (h : execMgmtReassemblyTimeout station seq s = .next t) :
    Keeps p r t := by
  unfold execMgmtReassemblyTimeout at h; injection h with h; subst h; with_reducible repeat' (first | exact hk | apply State.assemblyTimeout_keeps)

end Sys2Proof.Machine
end

