-- ==== Sys2Proof/Laws/KeepsCmdPower.lean ====
section
/-! SUPPORT. What the functions of Machine/CmdPower.lean keep. -/

namespace Sys2Proof.Machine

theorem execSleepCommand_keeps {p : Prop} {r : State} (r0 : Requester) (d : BitVec 6) (s : State) (hk : Keeps p r s) (t : State) (h : execSleepCommand r0 d s = .next t) :
    Keeps p r t := by
  unfold execSleepCommand at h; injection h with h; subst h; with_reducible repeat' (first | exact hk | apply State.write32_keeps)

theorem execWakeCommand_keeps {p : Prop} {r : State} (r0 : Requester) (d : BitVec 6) (s : State) (hk : Keeps p r s) (t : State) (h : execWakeCommand r0 d s = .next t) :
    Keeps p r t := by
  unfold execWakeCommand at h; injection h with h; subst h; with_reducible repeat' (first | exact hk | apply State.write32_keeps)

theorem execDomainEnableWrite_keeps {p : Prop} {r : State} (r0 : Requester) (d : Fin 40) (value : BitVec 32) (s : State) (hk : Keeps p r s) (t : State) (h : execDomainEnableWrite r0 d value s = .next t) :
    Keeps p r t := by
  unfold execDomainEnableWrite at h; injection h with h; subst h; with_reducible repeat' (first | exact hk | apply State.write32_keeps)

theorem execDrainComplete_keeps {p : Prop} {r : State} (d : Fin 40) (s : State) (hk : Keeps p r s) (t : State) (h : execDrainComplete d s = .next t) :
    Keeps p r t := by
  unfold execDrainComplete at h; injection h with h; subst h; with_reducible repeat' (first | exact hk | apply State.drained_keeps)

theorem execDrainTimeout_keeps {p : Prop} {r : State} (d : Fin 40) (s : State) (hk : Keeps p r s) (t : State) (h : execDrainTimeout d s = .next t) :
    Keeps p r t := by
  unfold execDrainTimeout at h; injection h with h; subst h; with_reducible repeat' (first | exact hk | apply State.drainLimit_keeps)

theorem execIdleTimerExpiry_keeps {p : Prop} {r : State} (d : Fin 40) (s : State) (hk : Keeps p r s) (t : State) (h : execIdleTimerExpiry d s = .next t) :
    Keeps p r t := by
  unfold execIdleTimerExpiry at h; injection h with h; subst h; with_reducible repeat' (first | exact hk | apply State.idleSleep_keeps)

theorem execWakeTrigger_keeps {p : Prop} {r : State} (d : Fin 40) (s : State) (hk : Keeps p r s) (t : State) (h : execWakeTrigger d s = .next t) :
    Keeps p r t := by
  unfold execWakeTrigger at h; injection h with h; subst h; with_reducible repeat' (first | exact hk | apply State.touchDomain_keeps)

theorem execWakeComplete_keeps {p : Prop} {r : State} (d : Fin 40) (s : State) (hk : Keeps p r s) (t : State) (h : execWakeComplete d s = .next t) :
    Keeps p r t := by
  unfold execWakeComplete at h; injection h with h; subst h; with_reducible repeat' (first | exact hk | apply State.awake_keeps | apply State.releaseWaiting_keeps)

theorem execGhostClkLost_keeps {p : Prop} {r : State} (s : State) (hk : Keeps p r s) (t : State) (h : execGhostClkLost s = .next t) :
    Keeps p r t := by
  unfold execGhostClkLost at h; injection h with h; subst h; with_reducible repeat' (first | exact hk | apply State.clockLost_keeps | apply State.settleAll_keeps)

theorem execPllLock_keeps {p : Prop} {r : State} (p0 : Pll) (s : State) (hk : Keeps p r s) (t : State) (h : execPllLock p0 s = .next t) :
    Keeps p r t := by
  unfold execPllLock at h; injection h with h; subst h; with_reducible repeat' (first | exact hk | apply State.pllLocks_keeps)

theorem execPllLockLost_keeps {p : Prop} {r : State} (p0 : Pll) (s : State) (hk : Keeps p r s) (t : State) (h : execPllLockLost p0 s = .next t) :
    Keeps p r t := by
  unfold execPllLockLost at h; injection h with h; subst h; with_reducible repeat' (first | exact hk | apply State.pllLost_keeps | apply State.settleAll_keeps)

theorem State.unitError_keeps {p : Prop} {r : State} (s : State) (e : ErrorReport) (hk : Keeps p r s) :
    Keeps p r (State.unitError s e) := by
  unfold State.unitError; with_reducible repeat' (first | exact hk | apply State.countError_keeps | apply State.untested_keeps | apply State.unitFails_keeps | split | dsimp only)

theorem State.errorDetected_keeps {p : Prop} {r : State} (s : State) (e : ErrorReport) (hk : Keeps p r s) :
    Keeps p r (State.errorDetected s e) := by
  unfold State.errorDetected; with_reducible repeat' (first | exact hk | apply State.unitError_keeps | apply State.elementError_keeps | split)

theorem State.verdictIn_keeps {p : Prop} {r : State} (s : State) (k : ElementKind) (i : BitVec 32) (pass : Bool) (spareLeft : Bool) (detail : BitVec 32) (hk : Keeps p r s) :
    Keeps p r (State.verdictIn s k i pass spareLeft detail) := by
  unfold State.verdictIn; with_reducible repeat' (first | exact hk | apply State.fenceEnds_keeps | apply State.scrubDone_keeps | apply State.selfTestEnds_keeps | apply State.alarm_keeps | split | dsimp only)

theorem State.writeScope_keeps {p : Prop} {r : State} (s : State) (r0 : Requester) (k : ScopeKind) (i : Nat) (bitNumber : Nat) (value : Nat) (hk : Keeps p r s) :
    Keeps p r (State.writeScope s r0 k i bitNumber value) := by
  unfold State.writeScope; with_reducible repeat' (first | exact hk | apply State.fieldsWrite_keeps | split)

theorem execErrorReport_keeps {p : Prop} {r : State} (e : ErrorReport) (s : State) (hk : Keeps p r s) (t : State) (h : execErrorReport e s = .next t) :
    Keeps p r t := by
  unfold execErrorReport at h; injection h with h; subst h; with_reducible repeat' (first | exact hk | apply State.errorDetected_keeps | apply State.settleAll_keeps)

theorem execSelfTestVerdict_keeps {p : Prop} {r : State} (kind : ElementKind) (index : BitVec 32) (pass : Bool) (spareLeft : Bool) (detail : BitVec 32) (s : State) (hk : Keeps p r s) (t : State) (h : execSelfTestVerdict kind index pass spareLeft detail s = .next t) :
    Keeps p r t := by
  unfold execSelfTestVerdict at h; injection h with h; subst h; with_reducible repeat' (first | exact hk | apply State.verdictIn_keeps | apply State.settleAll_keeps)

theorem execScopeHoldWrite_keeps {p : Prop} {r : State} (r0 : Requester) (scope : ScopeKind) (i : Nat) (hold : Bool) (s : State) (hk : Keeps p r s) (t : State) (h : execScopeHoldWrite r0 scope i hold s = .next t) :
    Keeps p r t := by
  unfold execScopeHoldWrite at h; injection h with h; subst h; with_reducible repeat' (first | exact hk | apply State.writeScope_keeps | apply State.settleAll_keeps | split)

theorem execExitScope_keeps {p : Prop} {r : State} (r0 : Requester) (scope : ScopeKind) (i : Nat) (s : State) (hk : Keeps p r s) (t : State) (h : execExitScope r0 scope i s = .next t) :
    Keeps p r t := by
  unfold execExitScope at h; injection h with h; subst h; with_reducible repeat' (first | exact hk | apply State.writeScope_keeps | apply State.settleAll_keeps | split)

theorem execDeviceCurtainWrite_keeps {p : Prop} {r : State} (r0 : Requester) (s : State) (hk : Keeps p r s) (t : State) (h : execDeviceCurtainWrite r0 s = .next t) :
    Keeps p r t := by
  unfold execDeviceCurtainWrite at h; injection h with h; subst h; with_reducible repeat' (first | exact hk | apply State.fieldsWrite_keeps | apply State.settleAll_keeps)

theorem execFltRecordPop_keeps {p : Prop} {r : State} (r0 : Requester) (s : State) (hk : Keeps p r s) (t : State) (h : execFltRecordPop r0 s = .next t) :
    Keeps p r t := by
  unfold execFltRecordPop at h; injection h with h; subst h; with_reducible repeat' (first | exact hk | apply State.write32_keeps)

theorem State.assertInternal_keeps {p : Prop} {r : State} (s : State) (hk : Keeps p r s) :
    Keeps p r (State.assertInternal s) := by
  unfold State.assertInternal; with_reducible repeat' (first | exact hk | apply State.warmAssert_keeps | (fail_if_no_progress (refine keeps_mk ?_ rfl rfl rfl)))

theorem State.railOut_keeps {p : Prop} {r : State} (s : State) (rail : Nat) (hk : Keeps p r s) :
    Keeps p r (State.railOut s rail) := by
  unfold State.railOut; with_reducible repeat' (first | exact hk | apply State.powerOff_keeps | apply State.setFld_keeps | apply State.assertInternal_keeps | split)

theorem State.heatReading_keeps {p : Prop} {r : State} (s : State) (sensor : Nat) (reading : BitVec 8) (hk : Keeps p r s) :
    Keeps p r (State.heatReading s sensor reading) := by
  unfold State.heatReading; with_reducible repeat' (first | exact hk | apply State.senseHeat_keeps | apply State.setFld_keeps | apply State.assertInternal_keeps | split | dsimp only)

theorem execSupplyTrip_keeps {p : Prop} {r : State} (rail : Fin 12) (s : State) (hk : Keeps p r s) (t : State) (h : execSupplyTrip rail s = .next t) :
    Keeps p r t := by
  unfold execSupplyTrip at h; injection h with h; subst h; with_reducible repeat' (first | exact hk | apply State.railOut_keeps)

theorem execThermalTrip_keeps {p : Prop} {r : State} (sensor : Fin 24) (reading : BitVec 8) (s : State) (hk : Keeps p r s) (t : State) (h : execThermalTrip sensor reading s = .next t) :
    Keeps p r t := by
  unfold execThermalTrip at h; injection h with h; subst h; with_reducible repeat' (first | exact hk | apply State.heatReading_keeps)

end Sys2Proof.Machine
end

