-- ==== Sys2Proof/Laws/KeepsCmdSwitch.lean ====
section
/-! SUPPORT. What the functions of Machine/CmdSwitch.lean keep. -/

namespace Sys2Proof.Machine

theorem execPipelineEntry_keeps {p : Prop} {r : State} (f : Nat) (octets : List Byte) (flowOverRate : Bool) (s : State) (hk : Keeps p r s) (t : State) (h : execPipelineEntry f octets flowOverRate s = .next t) :
    Keeps p r t := by
  unfold execPipelineEntry at h; injection h with h; subst h; with_reducible repeat' (first | exact hk | apply State.pipelineEntry_keeps)

theorem execLookupResult_keeps {p : Prop} {r : State} (f : Nat) (s : State) (hk : Keeps p r s) (t : State) (h : execLookupResult f s = .next t) :
    Keeps p r t := by
  unfold execLookupResult at h; injection h with h; subst h; with_reducible repeat' (first | exact hk | apply State.lookupResult_keeps)

theorem execMemberRepin_keeps {p : Prop} {r : State} (g : Fin 4352) (i : Fin 32) (s : State) (hk : Keeps p r s) (t : State) (h : execMemberRepin g i s = .next t) :
    Keeps p r t := by
  unfold execMemberRepin at h; injection h with h; subst h; with_reducible repeat' (first | exact hk | apply State.memberRepin_keeps)

theorem execSpillReturn_keeps {p : Prop} {r : State} (p0 : Fin 336) (c : Fin 8) (s : State) (hk : Keeps p r s) (t : State) (h : execSpillReturn p0 c s = .next t) :
    Keeps p r t := by
  unfold execSpillReturn at h; injection h with h; subst h; with_reducible repeat' (first | exact hk | apply State.spillReturn_keeps)

theorem execEgressSelect_keeps {p : Prop} {r : State} (p0 : Fin 336) (s : State) (hk : Keeps p r s) (t : State) (h : execEgressSelect p0 s = .next t) :
    Keeps p r t := by
  unfold execEgressSelect at h; injection h with h; subst h; with_reducible repeat' (first | exact hk | apply State.egressSelect_keeps)

theorem execEgressComplete_keeps {p : Prop} {r : State} (p0 : Fin 336) (s : State) (hk : Keeps p r s) (t : State) (h : execEgressComplete p0 s = .next t) :
    Keeps p r t := by
  unfold execEgressComplete at h; injection h with h; subst h; with_reducible repeat' (first | exact hk | apply State.egressComplete_keeps)

theorem execShaperWrite_keeps {p : Prop} {r : State} (r0 : Requester) (k : ShaperKind) (i : Nat) (value : BitVec 64) (s : State) (hk : Keeps p r s) (t : State) (h : execShaperWrite r0 k i value s = .next t) :
    Keeps p r t := by
  unfold execShaperWrite at h; injection h with h; subst h; with_reducible repeat' (first | exact hk | apply State.write64_keeps | split)

theorem execPolicerWrite_keeps {p : Prop} {r : State} (r0 : Requester) (i : Fin 16384) (size : Bool) (value : BitVec 64) (s : State) (hk : Keeps p r s) (t : State) (h : execPolicerWrite r0 i size value s = .next t) :
    Keeps p r t := by
  unfold execPolicerWrite at h; injection h with h; subst h; with_reducible repeat' (first | exact hk | apply State.write64_keeps)

theorem execGateChange_keeps {p : Prop} {r : State} (p0 : Fin 256) (s : State) (hk : Keeps p r s) (t : State) (h : execGateChange p0 s = .next t) :
    Keeps p r t := by
  unfold execGateChange at h; injection h with h; subst h; with_reducible repeat' (first | exact hk | apply State.gateChange_keeps)

theorem execTimetableChange_keeps {p : Prop} {r : State} (r0 : Requester) (p0 : Fin 256) (length : BitVec 11) (s : State) (hk : Keeps p r s) (t : State) (h : execTimetableChange r0 p0 length s = .next t) :
    Keeps p r t := by
  unfold execTimetableChange at h; injection h with h; subst h; with_reducible repeat' (first | exact hk | apply State.fieldsWrite_keeps)

theorem execTimetableCancel_keeps {p : Prop} {r : State} (r0 : Requester) (p0 : Fin 256) (s : State) (hk : Keeps p r s) (t : State) (h : execTimetableCancel r0 p0 s = .next t) :
    Keeps p r t := by
  unfold execTimetableCancel at h; injection h with h; subst h; with_reducible repeat' (first | exact hk | apply State.fieldsWrite_keeps)

theorem execTimetableChangeTime_keeps {p : Prop} {r : State} (p0 : Fin 256) (s : State) (hk : Keeps p r s) (t : State) (h : execTimetableChangeTime p0 s = .next t) :
    Keeps p r t := by
  unfold execTimetableChangeTime at h; injection h with h; subst h; with_reducible repeat' (first | exact hk | apply State.ttChangeTime_keeps)

theorem State.ppsUnseen_keeps {p : Prop} {r : State} (s : State) (i : Nat) (hk : Keeps p r s) :
    Keeps p r (State.ppsUnseen s i) := by
  unfold State.ppsUnseen; with_reducible repeat' (first | exact hk | apply State.setTimeInput_keeps | split)

theorem execTimeStep_keeps {p : Prop} {r : State} (r0 : Requester) (ns : BitVec 64) (s : State) (hk : Keeps p r s) (t : State) (h : execTimeStep r0 ns s = .next t) :
    Keeps p r t := by
  unfold execTimeStep at h; injection h with h; subst h; with_reducible repeat' (first | exact hk | apply State.write64_keeps)

theorem execTimeNowRead_keeps {p : Prop} {r : State} (r0 : Requester) (wide : Bool) (s : State) (hk : Keeps p r s) (t : State) (h : execTimeNowRead r0 wide s = .next t) :
    Keeps p r t := by
  unfold execTimeNowRead at h; injection h with h; subst h; with_reducible repeat' (first | exact hk | apply State.readLowOut_keeps)

theorem execPpsEdge_keeps {p : Prop} {r : State} (i : Fin 2) (falling : Bool) (s : State) (hk : Keeps p r s) (t : State) (h : execPpsEdge i falling s = .next t) :
    Keeps p r t := by
  unfold execPpsEdge at h; injection h with h; subst h; with_reducible repeat' (first | exact hk | apply State.ppsEdge_keeps | split)

theorem execPpsSeenExpiry_keeps {p : Prop} {r : State} (i : Fin 2) (s : State) (hk : Keeps p r s) (t : State) (h : execPpsSeenExpiry i s = .next t) :
    Keeps p r t := by
  unfold execPpsSeenExpiry at h; injection h with h; subst h; with_reducible repeat' (first | exact hk | apply State.ppsUnseen_keeps)

theorem execPpsCaptureRead_keeps {p : Prop} {r : State} (r0 : Requester) (i : Fin 2) (s : State) (hk : Keeps p r s) (t : State) (h : execPpsCaptureRead r0 i s = .next t) :
    Keeps p r t := by
  unfold execPpsCaptureRead at h; injection h with h; subst h; with_reducible repeat' (first | exact hk | apply State.readRegOut_keeps)

theorem execTodByteReceived_keeps {p : Prop} {r : State} (i : Fin 2) (b : Byte) (s : State) (hk : Keeps p r s) (t : State) (h : execTodByteReceived i b s = .next t) :
    Keeps p r t := by
  unfold execTodByteReceived at h; injection h with h; subst h; with_reducible repeat' (first | exact hk | apply State.todByte_keeps | split)

theorem execTodRead_keeps {p : Prop} {r : State} (r0 : Requester) (i : Fin 2) (s : State) (hk : Keeps p r s) (t : State) (h : execTodRead r0 i s = .next t) :
    Keeps p r t := by
  unfold execTodRead at h; injection h with h; subst h; with_reducible repeat' (first | exact hk | apply State.readLowOut_keeps)

end Sys2Proof.Machine
end

