-- ==== Sys2Proof/Laws/KeepsCmdTables.lean ====
section
/-! SUPPORT. What the functions of Machine/CmdTables.lean keep. -/

namespace Sys2Proof.Machine

theorem State.withOperands_keeps {p : Prop} {r : State} (s : State) (o : Option TableOperands) (hk : Keeps p r s) :
    Keeps p r (State.withOperands s o) := by
  unfold State.withOperands; with_reducible repeat' (first | exact hk | apply State.stageOperands_keeps | split)

theorem State.tableRow_keeps {p : Prop} {r : State} (s : State) (op : Nat) (c : TableCmd) (hk : Keeps p r s) :
    Keeps p r (State.tableRow s op c) := by
  unfold State.tableRow; with_reducible repeat' (first | assumption | apply State.gatedWrite_keeps | apply State.withOperands_keeps | apply State.tableAccept_keeps | apply State.threadTable_keeps | split | intro)

theorem State.loadEntryWords_keeps {p : Prop} {r : State} (s : State) (b : List Byte) (hk : Keeps p r s) :
    Keeps p r (State.loadEntryWords s b) := by
  unfold State.loadEntryWords; with_reducible repeat' (first | assumption | apply State.setFld_keeps | (apply foldl_keeps; rotate_left; intros))

theorem State.publishTable_keeps {p : Prop} {r : State} (s : State) (r0 : TableResult) (hk : Keeps p r s) :
    Keeps p r (State.publishTable s r0) := by
  unfold State.publishTable; with_reducible repeat' (first | exact hk | apply State.setReg_keeps | apply State.loadEntryWords_keeps | split)

theorem State.tableDone_keeps {p : Prop} {r : State} (s : State) (hk : Keeps p r s) :
    Keeps p r (State.tableDone s) := by
  unfold State.tableDone; with_reducible repeat' (first | exact hk | apply State.publishTable_keeps | apply State.threadTableDone_keeps | (fail_if_no_progress (refine keeps_mk ?_ rfl rfl rfl)) | split)

theorem State.sweep_keeps {p : Prop} {r : State} (s : State) (slot : Nat) (hk : Keeps p r s) :
    Keeps p r (State.sweep s slot) := by
  unfold State.sweep; with_reducible repeat' (first | exact hk | apply State.setEntry_keeps | apply State.bump_keeps | split)

theorem State.milestone_keeps {p : Prop} {r : State} (s : State) (hk : Keeps p r s) :
    Keeps p r (State.milestone s) := by
  unfold State.milestone; with_reducible repeat' (first | exact hk | (fail_if_no_progress (refine keeps_mk ?_ rfl rfl rfl)) | split)

theorem State.agerScan_keeps {p : Prop} {r : State} (s : State) (t0 : Nat) (slot : Nat) (hk : Keeps p r s) :
    Keeps p r (State.agerScan s t0 slot) := by
  unfold State.agerScan; with_reducible repeat' (first | exact hk | (fail_if_no_progress (refine keeps_mk ?_ rfl rfl rfl)) | split | dsimp only)

theorem State.agerRemove_keeps {p : Prop} {r : State} (s : State) (hk : Keeps p r s) :
    Keeps p r (State.agerRemove s) := by
  unfold State.agerRemove; with_reducible repeat' (first | exact hk | apply State.setEntry_keeps | apply State.bump_keeps | (fail_if_no_progress (refine keeps_mk ?_ rfl rfl rfl)) | split | dsimp only)

theorem State.learnCounted_keeps {p : Prop} {r : State} (s : State) (p0 : Nat) (hk : Keeps p r s) :
    Keeps p r (State.learnCounted s p0) := by
  unfold State.learnCounted; with_reducible repeat' (first | exact hk | (fail_if_no_progress (refine keeps_mk ?_ rfl rfl rfl)))

theorem State.learn_keeps {p : Prop} {r : State} (s : State) (key : List Byte) (p0 : Nat) (hk : Keeps p r s) :
    Keeps p r (State.learn s key p0) := by
  unfold State.learn; with_reducible repeat' (first | exact hk | apply State.setEntry_keeps | apply State.bump_keeps | apply State.learnCounted_keeps | apply State.place_keeps | split | dsimp only)

theorem State.learnNext_keeps {p : Prop} {r : State} (s : State) (pipe : Nat) (hk : Keeps p r s) :
    Keeps p r (State.learnNext s pipe) := by
  unfold State.learnNext; with_reducible repeat' (first | exact hk | apply State.learn_keeps | (fail_if_no_progress (refine keeps_mk ?_ rfl rfl rfl)) | split | dsimp only)

theorem State.makeRoom_keeps {p : Prop} {r : State} (s : State) (hk : Keeps p r s) :
    Keeps p r (State.makeRoom s) := by
  unfold State.makeRoom; with_reducible repeat' (first | exact hk | apply State.drew_keeps | (fail_if_no_progress (refine keeps_mk ?_ rfl rfl rfl)) | split | dsimp only)

theorem State.cacheFill_keeps {p : Prop} {r : State} (s : State) (a : Nat) (b : Nat) (hk : Keeps p r s) :
    Keeps p r (State.cacheFill s a b) := by
  unfold State.cacheFill; with_reducible repeat' (first | exact hk | apply State.touchPairs_keeps | apply State.makeRoom_keeps | (fail_if_no_progress (refine keeps_mk ?_ rfl rfl rfl)) | split | dsimp only)

theorem State.sceneActs_keeps {p : Prop} {r : State} (s : State) (hk : Keeps p r s) :
    Keeps p r (State.sceneActs s) := by
  unfold State.sceneActs; with_reducible repeat' (first | exact hk | apply State.sceneActivate_keeps | apply State.sceneActivated_keeps | split | dsimp only)

theorem execSceneCommit_keeps {p : Prop} {r : State} (r0 : Requester) (scene : BitVec 16) (timed : Bool) (s : State) (hk : Keeps p r s) (t : State) (h : execSceneCommit r0 scene timed s = .next t) :
    Keeps p r t := by
  unfold execSceneCommit at h; injection h with h; subst h; with_reducible repeat' (first | exact hk | apply State.write32_keeps)

theorem execSceneCancel_keeps {p : Prop} {r : State} (r0 : Requester) (s : State) (hk : Keeps p r s) (t : State) (h : execSceneCancel r0 s = .next t) :
    Keeps p r t := by
  unfold execSceneCancel at h; injection h with h; subst h; with_reducible repeat' (first | exact hk | apply State.directWrite_keeps)

theorem execSceneActivation_keeps {p : Prop} {r : State} (s : State) (hk : Keeps p r s) (t : State) (h : execSceneActivation s = .next t) :
    Keeps p r t := by
  unfold execSceneActivation at h; injection h with h; subst h; with_reducible repeat' (first | exact hk | apply State.sceneActs_keeps)

theorem execSceneDrained_keeps {p : Prop} {r : State} (slot : Fin 4) (s : State) (hk : Keeps p r s) (t : State) (h : execSceneDrained slot s = .next t) :
    Keeps p r t := by
  unfold execSceneDrained at h; injection h with h; subst h; with_reducible repeat' (first | exact hk | apply State.sceneDrained_keeps)

theorem execSceneForced_keeps {p : Prop} {r : State} (slot : Fin 4) (s : State) (hk : Keeps p r s) (t : State) (h : execSceneForced slot s = .next t) :
    Keeps p r t := by
  unfold execSceneForced at h; injection h with h; subst h; with_reducible repeat' (first | exact hk | apply State.sceneForced_keeps)

theorem execInsert_keeps {p : Prop} {r : State} (c : TableCmd) (s : State) (hk : Keeps p r s) (t : State) (h : execInsert c s = .next t) :
    Keeps p r t := by
  unfold execInsert at h; injection h with h; subst h; with_reducible repeat' (first | exact hk | apply State.tableRow_keeps)

theorem execDelete_keeps {p : Prop} {r : State} (c : TableCmd) (s : State) (hk : Keeps p r s) (t : State) (h : execDelete c s = .next t) :
    Keeps p r t := by
  unfold execDelete at h; injection h with h; subst h; with_reducible repeat' (first | exact hk | apply State.tableRow_keeps)

theorem execLookup_keeps {p : Prop} {r : State} (c : TableCmd) (s : State) (hk : Keeps p r s) (t : State) (h : execLookup c s = .next t) :
    Keeps p r t := by
  unfold execLookup at h; injection h with h; subst h; with_reducible repeat' (first | exact hk | apply State.tableRow_keeps)

theorem execReadIndex_keeps {p : Prop} {r : State} (c : TableCmd) (s : State) (hk : Keeps p r s) (t : State) (h : execReadIndex c s = .next t) :
    Keeps p r t := by
  unfold execReadIndex at h; injection h with h; subst h; with_reducible repeat' (first | exact hk | apply State.tableRow_keeps)

theorem execWriteIndex_keeps {p : Prop} {r : State} (c : TableCmd) (s : State) (hk : Keeps p r s) (t : State) (h : execWriteIndex c s = .next t) :
    Keeps p r t := by
  unfold execWriteIndex at h; injection h with h; subst h; with_reducible repeat' (first | exact hk | apply State.tableRow_keeps)

theorem execRefresh_keeps {p : Prop} {r : State} (c : TableCmd) (s : State) (hk : Keeps p r s) (t : State) (h : execRefresh c s = .next t) :
    Keeps p r t := by
  unfold execRefresh at h; injection h with h; subst h; with_reducible repeat' (first | exact hk | apply State.tableRow_keeps)

theorem execFlushScene_keeps {p : Prop} {r : State} (c : TableCmd) (s : State) (hk : Keeps p r s) (t : State) (h : execFlushScene c s = .next t) :
    Keeps p r t := by
  unfold execFlushScene at h; injection h with h; subst h; with_reducible repeat' (first | exact hk | apply State.tableRow_keeps)

theorem execTableCommandDone_keeps {p : Prop} {r : State} (s : State) (hk : Keeps p r s) (t : State) (h : execTableCommandDone s = .next t) :
    Keeps p r t := by
  unfold execTableCommandDone at h; injection h with h; subst h; with_reducible repeat' (first | exact hk | apply State.tableDone_keeps)

theorem execTblEvictedPop_keeps {p : Prop} {r : State} (r0 : Requester) (value : BitVec 32) (s : State) (hk : Keeps p r s) (t : State) (h : execTblEvictedPop r0 value s = .next t) :
    Keeps p r t := by
  unfold execTblEvictedPop at h; injection h with h; subst h; with_reducible repeat' (first | exact hk | apply State.write32_keeps)

theorem execTableCfgWrite_keeps {p : Prop} {r : State} (r0 : Requester) (w : TableCfgWrite) (s : State) (hk : Keeps p r s) (t : State) (h : execTableCfgWrite r0 w s = .next t) :
    Keeps p r t := by
  unfold execTableCfgWrite at h; (repeat' split at h) <;> (first | (injection h with h; subst h; (try dsimp only); with_reducible repeat' (first | exact hk | apply State.write64_keeps | apply State.write32_keeps)) | cases h)

theorem execSettleSweep_keeps {p : Prop} {r : State} (slot : Nat) (s : State) (hk : Keeps p r s) (t : State) (h : execSettleSweep slot s = .next t) :
    Keeps p r t := by
  unfold execSettleSweep at h; injection h with h; subst h; with_reducible repeat' (first | exact hk | apply State.sweep_keeps)

theorem execMilestoneTick_keeps {p : Prop} {r : State} (s : State) (hk : Keeps p r s) (t : State) (h : execMilestoneTick s = .next t) :
    Keeps p r t := by
  unfold execMilestoneTick at h; injection h with h; subst h; with_reducible repeat' (first | exact hk | apply State.milestone_keeps)

theorem execAgerScan_keeps {p : Prop} {r : State} (table : Fin 67) (slot : Nat) (s : State) (hk : Keeps p r s) (t : State) (h : execAgerScan table slot s = .next t) :
    Keeps p r t := by
  unfold execAgerScan at h; injection h with h; subst h; with_reducible repeat' (first | exact hk | apply State.agerScan_keeps)

theorem execAgerRemove_keeps {p : Prop} {r : State} (s : State) (hk : Keeps p r s) (t : State) (h : execAgerRemove s = .next t) :
    Keeps p r t := by
  unfold execAgerRemove at h; injection h with h; subst h; with_reducible repeat' (first | exact hk | apply State.agerRemove_keeps)

theorem execLearnPresentation_keeps {p : Prop} {r : State} (pipeline : Fin 22) (s : State) (hk : Keeps p r s) (t : State) (h : execLearnPresentation pipeline s = .next t) :
    Keeps p r t := by
  unfold execLearnPresentation at h; injection h with h; subst h; with_reducible repeat' (first | exact hk | apply State.learnNext_keeps)

theorem execFlowCacheFill_keeps {p : Prop} {r : State} (a : Nat) (b : Nat) (s : State) (hk : Keeps p r s) (t : State) (h : execFlowCacheFill a b s = .next t) :
    Keeps p r t := by
  unfold execFlowCacheFill at h; injection h with h; subst h; with_reducible repeat' (first | exact hk | apply State.cacheFill_keeps)

end Sys2Proof.Machine
end

