-- ==== Sys2Proof/Laws/KeepsRiscv.lean ====
section
/-! SUPPORT. What the functions of Machine/Riscv.lean keep. -/

namespace Sys2Proof.Machine

theorem State.breakResv_keeps {p : Prop} {r : State} (s : State) (t0 : Nat) (k : Nat) (n : Nat) (hk : Keeps p r s) :
    Keeps p r (State.breakResv s t0 k n) := by
  unfold State.breakResv; with_reducible repeat' (first | exact hk | (fail_if_no_progress (refine keeps_mk ?_ rfl rfl rfl)))

theorem State.storePlace_keeps {p : Prop} {r : State} (s : State) (t0 : Nat) (p0 : Place) (bs : List Byte) (hk : Keeps p r s) :
    Keeps p r (State.storePlace s t0 p0 bs) := by
  unfold State.storePlace; with_reducible repeat' (first | exact hk | apply State.writePlace_keeps | apply State.breakResv_keeps)

theorem State.csrWrite_keeps {p : Prop} {r : State} (s : State) (t0 : Nat) (c : Nat) (op : Nat) (w : Word) (hk : Keeps p r s) :
    Keeps p r (State.csrWrite s t0 c op w) := by
  unfold State.csrWrite; with_reducible repeat' (first | exact hk | apply State.setThread_keeps | apply State.stallClear_keeps | split)

theorem State.putX_keeps {p : Prop} {r : State} (s : State) (t0 : Nat) (rd : Nat) (w : Word) (hk : Keeps p r s) :
    Keeps p r (State.putX s t0 rd w) := by
  unfold State.putX; with_reducible repeat' (first | exact hk | apply State.setThread_keeps)

theorem State.accessHeld_keeps {p : Prop} {r : State} (s : State) (t0 : Nat) (a : Nat) (n : Nat) (load : Bool) (hk : Keeps p r s) (t : State) (h : State.accessHeld s t0 a n load = some t) :
    Keeps p r t := by
  unfold State.accessHeld at h
  split at h
  · cases h
  · split at h
    · split at h
      · obtain ⟨d, _, hd⟩ := Option.map_eq_some_iff.1 h
        subst hd
        exact State.touchDomain_keeps _ _ hk
      · cases h
    · split at h
      · split at h
        · cases h
        · injection h with h; subst h
          exact State.touchPairs_keeps _ _ hk
      · cases h

/-- What an instruction leaves behind keeps what there was, however it ends. -/
def RanKeeps (p : Prop) (r : State) : Ran → Prop
  | .next s _ => Keeps p r s
  | .fault _ _ s => Keeps p r s
  | .stay s => Keeps p r s
  | .hold s => Keeps p r s

/-- The same for a memory access. -/
def AccessKeeps (p : Prop) (r : State) : Access_ → Prop
  | .inl _ => True
  | .inr x => Keeps p r x.2

theorem accessKeeps_value {p : Prop} {r s : State} {v : Nat} (h : Keeps p r s) : AccessKeeps p r (.inr (v, s)) := h
theorem accessKeeps_fault {p : Prop} {r : State} {c : Nat} : AccessKeeps p r (.inl c) := trivial

theorem State.load_keeps {p : Prop} {r : State} (s : State) (t a n : Nat) (hk : Keeps p r s) : AccessKeeps p r (State.load s t a n) := by
  unfold State.load; dsimp only
  repeat' (first | with_reducible exact hk | with_reducible apply accessKeeps_value | with_reducible apply accessKeeps_fault | with_reducible apply State.mapRead_keeps | split)

theorem State.storeAt_keeps {p : Prop} {r : State} (s : State) (t a n v : Nat) (hk : Keeps p r s) : AccessKeeps p r (State.storeAt s t a n v) := by
  unfold State.storeAt
  repeat' (first | with_reducible exact hk | with_reducible apply accessKeeps_value | with_reducible apply accessKeeps_fault | with_reducible apply State.mapWrite_keeps | with_reducible apply State.storePlace_keeps | split)

theorem ranKeeps_next {p : Prop} {r s : State} {pc : Word} (h : Keeps p r s) : RanKeeps p r (.next s pc) := h
theorem ranKeeps_fault {p : Prop} {r s : State} {c : Nat} {v : Word} (h : Keeps p r s) : RanKeeps p r (.fault c v s) := h
theorem ranKeeps_hold {p : Prop} {r s : State} (h : Keeps p r s) : RanKeeps p r (.hold s) := h
theorem ranKeeps_stay {p : Prop} {r s : State} (h : Keeps p r s) : RanKeeps p r (.stay s) := h

theorem State.atomic_keeps {p : Prop} {r : State} (s : State) (t i : Nat) (pc : Word) (hk : Keeps p r s) : RanKeeps p r (State.atomic s t i pc) := by
  unfold State.atomic; dsimp only
  repeat' (first | with_reducible exact hk | with_reducible apply ranKeeps_next | with_reducible apply ranKeeps_fault | with_reducible apply ranKeeps_stay | with_reducible apply State.setThread_keeps | with_reducible apply State.storePlace_keeps | with_reducible apply State.putX_keeps | split)

theorem State.csrOp_keeps {p : Prop} {r : State} (s : State) (t i : Nat) (pc : Word) (hk : Keeps p r s) : RanKeeps p r (State.csrOp s t i pc) := by
  unfold State.csrOp; dsimp only
  split
  · exact hk
  · split
    · exact hk
    · refine State.putX_keeps _ _ _ _ ?_
      split
      · exact State.csrWrite_keeps _ _ _ _ _ hk
      · exact hk

theorem State.privileged_keeps {p : Prop} {r : State} (s : State) (t i : Nat) (pc : Word) (hk : Keeps p r s) :
    RanKeeps p r (State.privileged s t i pc) := by
  unfold State.privileged; dsimp only
  repeat' (first | with_reducible exact hk | with_reducible apply ranKeeps_next | with_reducible apply ranKeeps_fault | with_reducible apply ranKeeps_stay | with_reducible apply State.debugHalt_keeps | with_reducible apply State.setThread_keeps | split)

theorem State.waitev_keeps {p : Prop} {r : State} (s : State) (t rd : Nat) (mask : BitVec 32) (limit : Nat) (pc : Word) (hk : Keeps p r s) :
    RanKeeps p r (State.waitev s t rd mask limit pc) := by
  unfold State.waitev; dsimp only
  split <;> exact State.setThread_keeps _ _ _ hk

theorem State.stage__keeps {p : Prop} {r : State} (s : State) (t i : Nat) (pc : Word) (hk : Keeps p r s) :
    RanKeeps p r (State.stage_ s t i pc) := by
  unfold State.stage_; dsimp only
  repeat' (first | with_reducible exact hk | with_reducible apply ranKeeps_next | with_reducible apply ranKeeps_fault | with_reducible apply ranKeeps_stay | with_reducible apply State.waitev_keeps | with_reducible apply State.setThread_keeps | with_reducible apply State.putX_keeps | with_reducible apply State.commit_keeps | split)

theorem accessed_keeps {p : Prop} {r : State} (s : State) (a : Word) (x : Access_) (f : Nat → State → Ran) (hk : Keeps p r s)
    (hx : AccessKeeps p r x) (hf : ∀ v t, Keeps p r t → RanKeeps p r (f v t)) : RanKeeps p r (accessed s a x f) := by
  unfold accessed; split
  · exact hk
  · exact hf _ _ hx

theorem State.execLoad_keeps {p : Prop} {r : State} (s : State) (t i : Nat) (pc : Word) (hk : Keeps p r s) :
    RanKeeps p r (State.execLoad s t i pc) := by
  unfold State.execLoad; dsimp only
  split
  · exact hk
  · split
    · rename_i h; exact State.accessHeld_keeps _ _ _ _ _ hk _ h
    · exact accessed_keeps _ _ _ _ hk (State.load_keeps _ _ _ _ hk) (fun _ _ h => State.putX_keeps _ _ _ _ h)

theorem State.execStore_keeps {p : Prop} {r : State} (s : State) (t i : Nat) (pc : Word) (hk : Keeps p r s) :
    RanKeeps p r (State.execStore s t i pc) := by
  unfold State.execStore; dsimp only
  split
  · exact hk
  · split
    · rename_i h; exact State.accessHeld_keeps _ _ _ _ _ hk _ h
    · exact accessed_keeps _ _ _ _ hk (State.storeAt_keeps _ _ _ _ _ hk) (fun _ _ h => h)

theorem State.execImm_keeps {p : Prop} {r : State} (s : State) (t i : Nat) (pc : Word) (hk : Keeps p r s) :
    RanKeeps p r (State.execImm s t i pc) := by
  unfold State.execImm; dsimp only
  repeat' (first | with_reducible exact hk | with_reducible apply ranKeeps_next | with_reducible apply ranKeeps_fault | with_reducible apply ranKeeps_stay | with_reducible apply State.putX_keeps | split)

theorem State.execOp_keeps {p : Prop} {r : State} (s : State) (t i : Nat) (pc : Word) (hk : Keeps p r s) :
    RanKeeps p r (State.execOp s t i pc) := by
  unfold State.execOp; dsimp only
  repeat' (first | with_reducible exact hk | with_reducible apply ranKeeps_next | with_reducible apply ranKeeps_fault | with_reducible apply ranKeeps_stay | with_reducible apply State.putX_keeps | split)

theorem State.exec32_keeps {p : Prop} {r : State} (s : State) (t i n : Nat) (hk : Keeps p r s) : RanKeeps p r (State.exec32 s t i n) := by
  unfold State.exec32; dsimp only
  repeat' (first | with_reducible exact hk | with_reducible apply ranKeeps_next | with_reducible apply ranKeeps_fault | with_reducible apply ranKeeps_stay | with_reducible apply State.putX_keeps | with_reducible apply State.execLoad_keeps | with_reducible apply State.execStore_keeps | with_reducible apply State.execImm_keeps | with_reducible apply State.execOp_keeps | with_reducible apply State.privileged_keeps | with_reducible apply State.csrOp_keeps | with_reducible apply State.atomic_keeps | with_reducible apply State.stage__keeps | split)

theorem State.retire__keeps {p : Prop} {r : State} (t : Nat) (x : Ran) (hx : RanKeeps p r x) : Keeps p r (State.retire_ t x) := by
  unfold State.retire_; dsimp only
  cases x
  · exact State.issued_keeps _ _ (State.setThread_keeps _ _ _ hx)
  · exact State.threadFault_keeps _ _ _ _ (State.issued_keeps _ _ hx)
  · exact State.issued_keeps _ _ hx
  · exact hx

theorem State.issue_keeps {p : Prop} {r : State} (s : State) (t0 : Nat) (want : Nat → Bool) (hk : Keeps p r s) :
    Keeps p r (State.issue s t0 want) := by
  unfold State.issue; dsimp only
  repeat' (first | with_reducible exact hk | exact State.setThread_keeps _ _ _ hk | exact State.threadFault_keeps _ _ _ _ hk | exact State.retire__keeps _ _ (State.exec32_keeps _ _ _ _ hk) | split)

theorem State.waitTimeout_keeps {p : Prop} {r : State} (s : State) (t0 : Nat) (hk : Keeps p r s) :
    Keeps p r (State.waitTimeout s t0) := by
  unfold State.waitTimeout; with_reducible repeat' (first | exact hk | apply State.setThread_keeps | split | dsimp only)

end Sys2Proof.Machine
end

