-- ==== Sys2Proof/Laws/KeepsCmdTroupe.lean ====
section
/-! SUPPORT. What the functions of Machine/CmdTroupe.lean keep. -/

namespace Sys2Proof.Machine

theorem execThreadInstruction_keeps {p : Prop} {r : State} (t0 : BitVec 11) (s : State) (hk : Keeps p r s) (t : State) (h : execThreadInstruction t0 s = .next t) :
    Keeps p r t := by
  unfold execThreadInstruction at h; injection h with h; subst h; with_reducible repeat' (first | exact hk | apply State.issue_keeps | apply State.settleAll_keeps)

theorem execWaitev_keeps {p : Prop} {r : State} (t0 : BitVec 11) (s : State) (hk : Keeps p r s) (t : State) (h : execWaitev t0 s = .next t) :
    Keeps p r t := by
  unfold execWaitev at h; injection h with h; subst h; with_reducible repeat' (first | exact hk | apply State.issue_keeps | apply State.settleAll_keeps)

theorem execWaitevTimeout_keeps {p : Prop} {r : State} (t0 : BitVec 11) (s : State) (hk : Keeps p r s) (t : State) (h : execWaitevTimeout t0 s = .next t) :
    Keeps p r t := by
  unfold execWaitevTimeout at h; injection h with h; subst h; with_reducible repeat' (first | exact hk | apply State.waitTimeout_keeps)

theorem execEventInputSet_keeps {p : Prop} {r : State} (t0 : BitVec 11) (input : BitVec 5) (s : State) (hk : Keeps p r s) (t : State) (h : execEventInputSet t0 input s = .next t) :
    Keeps p r t := by
  unfold execEventInputSet at h; injection h with h; subst h; with_reducible repeat' (first | exact hk | apply State.setEvent_keeps | split)

theorem execChw_keeps {p : Prop} {r : State} (t0 : BitVec 11) (s : State) (hk : Keeps p r s) (t : State) (h : execChw t0 s = .next t) :
    Keeps p r t := by
  unfold execChw at h; injection h with h; subst h; with_reducible repeat' (first | exact hk | apply State.issue_keeps | apply State.settleAll_keeps)

theorem execChcommit_keeps {p : Prop} {r : State} (t0 : BitVec 11) (s : State) (hk : Keeps p r s) (t : State) (h : execChcommit t0 s = .next t) :
    Keeps p r t := by
  unfold execChcommit at h; injection h with h; subst h; with_reducible repeat' (first | exact hk | apply State.issue_keeps | apply State.settleAll_keeps)

theorem execChstat_keeps {p : Prop} {r : State} (t0 : BitVec 11) (s : State) (hk : Keeps p r s) (t : State) (h : execChstat t0 s = .next t) :
    Keeps p r t := by
  unfold execChstat at h; injection h with h; subst h; with_reducible repeat' (first | exact hk | apply State.issue_keeps | apply State.settleAll_keeps)

theorem execTktget_keeps {p : Prop} {r : State} (t0 : BitVec 11) (s : State) (hk : Keeps p r s) (t : State) (h : execTktget t0 s = .next t) :
    Keeps p r t := by
  unfold execTktget at h; injection h with h; subst h; with_reducible repeat' (first | exact hk | apply State.issue_keeps | apply State.settleAll_keeps)

theorem execTktset_keeps {p : Prop} {r : State} (t0 : BitVec 11) (s : State) (hk : Keeps p r s) (t : State) (h : execTktset t0 s = .next t) :
    Keeps p r t := by
  unfold execTktset at h; injection h with h; subst h; with_reducible repeat' (first | exact hk | apply State.issue_keeps | apply State.settleAll_keeps)

theorem execCrc32c_keeps {p : Prop} {r : State} (t0 : BitVec 11) (s : State) (hk : Keeps p r s) (t : State) (h : execCrc32c t0 s = .next t) :
    Keeps p r t := by
  unfold execCrc32c at h; injection h with h; subst h; with_reducible repeat' (first | exact hk | apply State.issue_keeps | apply State.settleAll_keeps)

theorem execFrmemit_keeps {p : Prop} {r : State} (t0 : BitVec 11) (s : State) (hk : Keeps p r s) (t : State) (h : execFrmemit t0 s = .next t) :
    Keeps p r t := by
  unfold execFrmemit at h; injection h with h; subst h; with_reducible repeat' (first | exact hk | apply State.issue_keeps | apply State.settleAll_keeps)

theorem execMoverStart_keeps {p : Prop} {r : State} (t0 : BitVec 11) (s : State) (hk : Keeps p r s) (t : State) (h : execMoverStart t0 s = .next t) :
    Keeps p r t := by
  unfold execMoverStart at h; injection h with h; subst h; with_reducible repeat' (first | exact hk | apply State.moverStart_keeps)

theorem execChannelOperationDone_keeps {p : Prop} {r : State} (t0 : BitVec 11) (c : Fin 4) (s : State) (hk : Keeps p r s) (t : State) (h : execChannelOperationDone t0 c s = .next t) :
    Keeps p r t := by
  unfold execChannelOperationDone at h; injection h with h; subst h; with_reducible repeat' (first | exact hk | apply State.opDone_keeps)

theorem execStallack_keeps {p : Prop} {r : State} (t0 : BitVec 11) (s : State) (hk : Keeps p r s) (t : State) (h : execStallack t0 s = .next t) :
    Keeps p r t := by
  unfold execStallack at h; injection h with h; subst h; with_reducible repeat' (first | exact hk | apply State.issue_keeps | apply State.settleAll_keeps)

theorem execThreadStart_keeps {p : Prop} {r : State} (r0 : Requester) (t0 : BitVec 11) (pc : BitVec 32) (s : State) (hk : Keeps p r s) (t : State) (h : execThreadStart r0 t0 pc s = .next t) :
    Keeps p r t := by
  unfold execThreadStart at h; injection h with h; subst h; with_reducible repeat' (first | exact hk | apply State.write64_keeps)

theorem execThreadStop_keeps {p : Prop} {r : State} (r0 : Requester) (t0 : BitVec 11) (s : State) (hk : Keeps p r s) (t : State) (h : execThreadStop r0 t0 s = .next t) :
    Keeps p r t := by
  unfold execThreadStop at h; injection h with h; subst h; with_reducible repeat' (first | exact hk | apply State.write64_keeps)

theorem execThreadEvset_keeps {p : Prop} {r : State} (r0 : Requester) (t0 : BitVec 11) (events : BitVec 16) (s : State) (hk : Keeps p r s) (t : State) (h : execThreadEvset r0 t0 events s = .next t) :
    Keeps p r t := by
  unfold execThreadEvset at h; injection h with h; subst h; with_reducible repeat' (first | exact hk | apply State.write32_keeps)

theorem execDebugHalt_keeps {p : Prop} {r : State} (t0 : BitVec 11) (s : State) (hk : Keeps p r s) (t : State) (h : execDebugHalt t0 s = .next t) :
    Keeps p r t := by
  unfold execDebugHalt at h; injection h with h; subst h; with_reducible repeat' (first | exact hk | apply State.debugHalt_keeps)

theorem execDebugResume_keeps {p : Prop} {r : State} (t0 : BitVec 11) (s : State) (hk : Keeps p r s) (t : State) (h : execDebugResume t0 s = .next t) :
    Keeps p r t := by
  unfold execDebugResume at h; injection h with h; subst h; with_reducible repeat' (first | exact hk | apply State.debugResume_keeps)

theorem execCoreReset_keeps {p : Prop} {r : State} (r0 : Requester) (k : BitVec 7) (s : State) (hk : Keeps p r s) (t : State) (h : execCoreReset r0 k s = .next t) :
    Keeps p r t := by
  unfold execCoreReset at h; injection h with h; subst h; with_reducible repeat' (first | exact hk | apply State.fieldsWrite_keeps)

theorem execCoreResetComplete_keeps {p : Prop} {r : State} (k : BitVec 7) (s : State) (hk : Keeps p r s) (t : State) (h : execCoreResetComplete k s = .next t) :
    Keeps p r t := by
  unfold execCoreResetComplete at h; injection h with h; subst h; with_reducible repeat' (first | exact hk | apply State.coreResetDone_keeps)

theorem execStallRaised_keeps {p : Prop} {r : State} (k : BitVec 7) (s : State) (hk : Keeps p r s) (t : State) (h : execStallRaised k s = .next t) :
    Keeps p r t := by
  unfold execStallRaised at h; injection h with h; subst h; with_reducible repeat' (first | exact hk | apply State.stallRaised_keeps)

theorem execStallReset_keeps {p : Prop} {r : State} (k : BitVec 7) (s : State) (hk : Keeps p r s) (t : State) (h : execStallReset k s = .next t) :
    Keeps p r t := by
  unfold execStallReset at h; injection h with h; subst h; with_reducible repeat' (first | exact hk | apply State.stallReset_keeps)

theorem execDeliveryPublish_keeps {p : Prop} {r : State} (d : Fin 2) (s : State) (hk : Keeps p r s) (t : State) (h : execDeliveryPublish d s = .next t) :
    Keeps p r t := by
  unfold execDeliveryPublish at h; injection h with h; subst h; with_reducible repeat' (first | exact hk | apply State.deliverTroupe_keeps)

theorem execDqConsWrite_keeps {p : Prop} {r : State} (r0 : Requester) (n : Fin 8) (q : Fin 2) (cons : BitVec 16) (s : State) (hk : Keeps p r s) (t : State) (h : execDqConsWrite r0 n q cons s = .next t) :
    Keeps p r t := by
  unfold execDqConsWrite at h; injection h with h; subst h; with_reducible repeat' (first | exact hk | apply State.write32_keeps)

theorem execDqCfgWrite_keeps {p : Prop} {r : State} (r0 : Requester) (n : Fin 8) (q : Fin 2) (value : BitVec 64) (s : State) (hk : Keeps p r s) (t : State) (h : execDqCfgWrite r0 n q value s = .next t) :
    Keeps p r t := by
  unfold execDqCfgWrite at h; injection h with h; subst h; with_reducible repeat' (first | exact hk | apply State.write64_keeps)

theorem State.slotWriteBy_keeps {p : Prop} {r : State} (s : State) (r0 : Requester) (i : Nat) (word : BitVec 32) (hk : Keeps p r s) :
    Keeps p r (State.slotWriteBy s r0 i word) := by
  unfold State.slotWriteBy; with_reducible repeat' (first | exact hk | apply State.mapWrite_keeps | split)

theorem State.slotTakeBy_keeps {p : Prop} {r : State} (s : State) (r0 : Requester) (i : Nat) (hk : Keeps p r s) :
    Keeps p r (State.slotTakeBy s r0 i) := by
  unfold State.slotTakeBy; with_reducible repeat' (first | exact hk | apply State.splitBuffer_keeps | apply State.emit_keeps | apply State.sliceHello_keeps | apply State.talkWord_keeps | apply State.readOut_keeps | split)

theorem State.talkHello_keeps {p : Prop} {r : State} (s : State) (h0 : Nat) (hk : Keeps p r s) :
    Keeps p r (State.talkHello s h0) := by
  unfold State.talkHello; with_reducible repeat' (first | exact hk | apply State.talkAbandon_keeps | apply State.talkWord_keeps | split | dsimp only)

theorem State.talkStart_keeps {p : Prop} {r : State} (s : State) (h0 : Nat) (hk : Keeps p r s) :
    Keeps p r (State.talkStart s h0) := by
  unfold State.talkStart; with_reducible repeat' (first | exact hk | apply State.talkWord_keeps | split | dsimp only)

theorem execSlotWrite_keeps {p : Prop} {r : State} (r0 : Requester) (slot : Fin 9216) (word : BitVec 32) (s : State) (hk : Keeps p r s) (t : State) (h : execSlotWrite r0 slot word s = .next t) :
    Keeps p r t := by
  unfold execSlotWrite at h; injection h with h; subst h; with_reducible repeat' (first | exact hk | apply State.slotWriteBy_keeps)

theorem execSlotTake_keeps {p : Prop} {r : State} (r0 : Requester) (slot : Fin 9216) (s : State) (hk : Keeps p r s) (t : State) (h : execSlotTake r0 slot s = .next t) :
    Keeps p r t := by
  unfold execSlotTake at h; injection h with h; subst h; with_reducible repeat' (first | exact hk | apply State.slotTakeBy_keeps | apply State.settleAll_keeps)

theorem execCallboardHello_keeps {p : Prop} {r : State} (h0 : Fin 16) (s : State) (hk : Keeps p r s) (t : State) (h : execCallboardHello h0 s = .next t) :
    Keeps p r t := by
  unfold execCallboardHello at h; injection h with h; subst h; with_reducible repeat' (first | exact hk | apply State.talkHello_keeps)

theorem execCallboardStart_keeps {p : Prop} {r : State} (h0 : Fin 16) (s : State) (hk : Keeps p r s) (t : State) (h : execCallboardStart h0 s = .next t) :
    Keeps p r t := by
  unfold execCallboardStart at h; injection h with h; subst h; with_reducible repeat' (first | exact hk | apply State.talkStart_keeps)

theorem execCallboardTransferTimeout_keeps {p : Prop} {r : State} (h0 : Fin 16) (s : State) (hk : Keeps p r s) (t : State) (h : execCallboardTransferTimeout h0 s = .next t) :
    Keeps p r t := by
  unfold execCallboardTransferTimeout at h; injection h with h; subst h; with_reducible repeat' (first | exact hk | apply State.talkTimeout_keeps)

end Sys2Proof.Machine
end

