-- ==== Sys2Proof/Laws/KeepsCmdVault.lean ====
section
/-! SUPPORT. What the functions of Machine/CmdVault.lean keep. -/

namespace Sys2Proof.Machine

theorem execGenerate_keeps {p : Prop} {r : State} (s : State) (hk : Keeps p r s) (t : State) (h : execGenerate s = .next t) :
    Keeps p r t := by
  unfold execGenerate at h; injection h with h; subst h; with_reducible repeat' (first | exact hk | apply State.serveCode_keeps | apply State.settleAll_keeps)

theorem execInstallKey_keeps {p : Prop} {r : State} (s : State) (hk : Keeps p r s) (t : State) (h : execInstallKey s = .next t) :
    Keeps p r t := by
  unfold execInstallKey at h; injection h with h; subst h; with_reducible repeat' (first | exact hk | apply State.serveCode_keeps | apply State.settleAll_keeps)

theorem execGenerateInstall_keeps {p : Prop} {r : State} (s : State) (hk : Keeps p r s) (t : State) (h : execGenerateInstall s = .next t) :
    Keeps p r t := by
  unfold execGenerateInstall at h; injection h with h; subst h; with_reducible repeat' (first | exact hk | apply State.serveCode_keeps | apply State.settleAll_keeps)

theorem execStageSuccessor_keeps {p : Prop} {r : State} (s : State) (hk : Keeps p r s) (t : State) (h : execStageSuccessor s = .next t) :
    Keeps p r t := by
  unfold execStageSuccessor at h; injection h with h; subst h; with_reducible repeat' (first | exact hk | apply State.serveCode_keeps | apply State.settleAll_keeps)

theorem execDiscard_keeps {p : Prop} {r : State} (s : State) (hk : Keeps p r s) (t : State) (h : execDiscard s = .next t) :
    Keeps p r t := by
  unfold execDiscard at h; injection h with h; subst h; with_reducible repeat' (first | exact hk | apply State.serveCode_keeps | apply State.settleAll_keeps)

theorem execExportKey_keeps {p : Prop} {r : State} (s : State) (hk : Keeps p r s) (t : State) (h : execExportKey s = .next t) :
    Keeps p r t := by
  unfold execExportKey at h; injection h with h; subst h; with_reducible repeat' (first | exact hk | apply State.serveCode_keeps | apply State.settleAll_keeps)

theorem execIkeStart_keeps {p : Prop} {r : State} (s : State) (hk : Keeps p r s) (t : State) (h : execIkeStart s = .next t) :
    Keeps p r t := by
  unfold execIkeStart at h; injection h with h; subst h; with_reducible repeat' (first | exact hk | apply State.serveCode_keeps | apply State.settleAll_keeps)

theorem execIkeKeys_keeps {p : Prop} {r : State} (s : State) (hk : Keeps p r s) (t : State) (h : execIkeKeys s = .next t) :
    Keeps p r t := by
  unfold execIkeKeys at h; injection h with h; subst h; with_reducible repeat' (first | exact hk | apply State.serveCode_keeps | apply State.settleAll_keeps)

theorem execChildSa_keeps {p : Prop} {r : State} (s : State) (hk : Keeps p r s) (t : State) (h : execChildSa s = .next t) :
    Keeps p r t := by
  unfold execChildSa at h; injection h with h; subst h; with_reducible repeat' (first | exact hk | apply State.serveCode_keeps | apply State.settleAll_keeps)

theorem execIkeEnd_keeps {p : Prop} {r : State} (s : State) (hk : Keeps p r s) (t : State) (h : execIkeEnd s = .next t) :
    Keeps p r t := by
  unfold execIkeEnd at h; injection h with h; subst h; with_reducible repeat' (first | exact hk | apply State.serveCode_keeps | apply State.settleAll_keeps)

theorem execHandoverOffer_keeps {p : Prop} {r : State} (s : State) (hk : Keeps p r s) (t : State) (h : execHandoverOffer s = .next t) :
    Keeps p r t := by
  unfold execHandoverOffer at h; injection h with h; subst h; with_reducible repeat' (first | exact hk | apply State.serveCode_keeps | apply State.settleAll_keeps)

theorem execWarrant_keeps {p : Prop} {r : State} (origin : Origin) (message : List Byte) (s : State) (hk : Keeps p r s) (t : State) (h : execWarrant origin message s = .next t) :
    Keeps p r t := by
  unfold execWarrant at h; injection h with h; subst h; with_reducible repeat' (first | exact hk | apply State.warrantIn_keeps)

theorem execZeroize_keeps {p : Prop} {r : State} (s : State) (hk : Keeps p r s) (t : State) (h : execZeroize s = .next t) :
    Keeps p r t := by
  unfold execZeroize at h; injection h with h; subst h; with_reducible repeat' (first | exact hk | apply State.performWarrant_keeps | apply State.wZeroize_keeps)

theorem execHandoverExport_keeps {p : Prop} {r : State} (s : State) (hk : Keeps p r s) (t : State) (h : execHandoverExport s = .next t) :
    Keeps p r t := by
  unfold execHandoverExport at h; injection h with h; subst h; with_reducible repeat' (first | exact hk | apply State.performWarrant_keeps | apply State.handoverExport_keeps)

theorem execHandoverImport_keeps {p : Prop} {r : State} (s : State) (hk : Keeps p r s) (t : State) (h : execHandoverImport s = .next t) :
    Keeps p r t := by
  unfold execHandoverImport at h; injection h with h; subst h; with_reducible repeat' (first | exact hk | apply State.performWarrant_keeps | apply State.handoverImport_keeps)

theorem execEnrolImageKey_keeps {p : Prop} {r : State} (s : State) (hk : Keeps p r s) (t : State) (h : execEnrolImageKey s = .next t) :
    Keeps p r t := by
  unfold execEnrolImageKey at h; injection h with h; subst h; with_reducible repeat' (first | exact hk | apply State.performWarrant_keeps | apply State.wEnrol_keeps)

theorem execWithdrawImageKey_keeps {p : Prop} {r : State} (s : State) (hk : Keeps p r s) (t : State) (h : execWithdrawImageKey s = .next t) :
    Keeps p r t := by
  unfold execWithdrawImageKey at h; injection h with h; subst h; with_reducible repeat' (first | exact hk | apply State.performWarrant_keeps | apply State.wWithdraw_keeps)

theorem execReplaceHouseKey_keeps {p : Prop} {r : State} (s : State) (hk : Keeps p r s) (t : State) (h : execReplaceHouseKey s = .next t) :
    Keeps p r t := by
  unfold execReplaceHouseKey at h; injection h with h; subst h; with_reducible repeat' (first | exact hk | apply State.performWarrant_keeps | apply State.wReplace_keeps)

theorem execSetKFloor_keeps {p : Prop} {r : State} (s : State) (hk : Keeps p r s) (t : State) (h : execSetKFloor s = .next t) :
    Keeps p r t := by
  unfold execSetKFloor at h; injection h with h; subst h; with_reducible repeat' (first | exact hk | apply State.performWarrant_keeps | apply State.wKFloor_keeps)

theorem execDebugUnlock_keeps {p : Prop} {r : State} (s : State) (hk : Keeps p r s) (t : State) (h : execDebugUnlock s = .next t) :
    Keeps p r t := by
  unfold execDebugUnlock at h; injection h with h; subst h; with_reducible repeat' (first | exact hk | apply State.performWarrant_keeps | apply State.wDebug_keeps)

theorem execReinitialise_keeps {p : Prop} {r : State} (s : State) (hk : Keeps p r s) (t : State) (h : execReinitialise s = .next t) :
    Keeps p r t := by
  unfold execReinitialise at h; injection h with h; subst h; with_reducible repeat' (first | exact hk | apply State.reinitialise_keeps)

theorem State.zeroisePin_keeps {p : Prop} {r : State} (s : State) (hk : Keeps p r s) :
    Keeps p r (State.zeroisePin s) := by
  unfold State.zeroisePin; with_reducible repeat' (first | exact hk | apply State.startZeroise_keeps | apply State.settleAll_keeps | split)

theorem execZeroizeNAssert_keeps {p : Prop} {r : State} (s : State) (hk : Keeps p r s) (t : State) (h : execZeroizeNAssert s = .next t) :
    Keeps p r t := by
  unfold execZeroizeNAssert at h; injection h with h; subst h; with_reducible repeat' (first | exact hk | apply State.zeroisePin_keeps | (fail_if_no_progress (refine keeps_mk ?_ rfl rfl rfl)))

theorem execLidTamperAssert_keeps {p : Prop} {r : State} (s : State) (hk : Keeps p r s) (t : State) (h : execLidTamperAssert s = .next t) :
    Keeps p r t := by
  unfold execLidTamperAssert at h; injection h with h; subst h; with_reducible repeat' (first | exact hk | apply State.zeroisePin_keeps | (fail_if_no_progress (refine keeps_mk ?_ rfl rfl rfl)))

theorem execZeroisationComplete_keeps {p : Prop} {r : State} (s : State) (hk : Keeps p r s) (t : State) (h : execZeroisationComplete s = .next t) :
    Keeps p r t := by
  unfold execZeroisationComplete at h; injection h with h; subst h; with_reducible repeat' (first | exact hk | apply State.zeroised_keeps)

theorem State.entropyFails_keeps {p : Prop} {r : State} (s : State) (v : Nat) (hk : Keeps p r s) :
    Keeps p r (State.entropyFails s v) := by
  unfold State.entropyFails; with_reducible repeat' (first | exact hk | apply State.elementError_keeps | apply State.selfTestEnds_keeps | apply State.alarm_keeps | (fail_if_no_progress (refine keeps_mk ?_ rfl rfl rfl)) | split | dsimp only)

theorem State.periodicTest_keeps {p : Prop} {r : State} (s : State) (vaultPass : Bool) (failed : List Nat) (hk : Keeps p r s) :
    Keeps p r (State.periodicTest s vaultPass failed) := by
  unfold State.periodicTest; with_reducible repeat' (first | assumption | apply State.elementError_keeps | apply State.selfTestEnds_keeps | apply State.unitFails_keeps | (apply foldl_keeps; rotate_left; intros) | split | dsimp only)

theorem execEntropyTestFail_keeps {p : Prop} {r : State} (v : Fin 2) (s : State) (hk : Keeps p r s) (t : State) (h : execEntropyTestFail v s = .next t) :
    Keeps p r t := by
  unfold execEntropyTestFail at h; injection h with h; subst h; with_reducible repeat' (first | exact hk | apply State.entropyFails_keeps)

theorem execDrbgReseed_keeps {p : Prop} {r : State} (s : State) (hk : Keeps p r s) (t : State) (h : execDrbgReseed s = .next t) :
    Keeps p r t := by
  unfold execDrbgReseed at h; injection h with h; subst h; with_reducible repeat' (first | exact hk | apply State.reseedIfDue_keeps)

theorem execPeriodicSelfTest_keeps {p : Prop} {r : State} (vaultPass : Bool) (failed : List (Fin 36)) (s : State) (hk : Keeps p r s) (t : State) (h : execPeriodicSelfTest vaultPass failed s = .next t) :
    Keeps p r t := by
  unfold execPeriodicSelfTest at h; injection h with h; subst h; with_reducible repeat' (first | exact hk | apply State.periodicTest_keeps | apply State.settleAll_keeps)

theorem State.setSpdmStage_keeps {p : Prop} {r : State} (s : State) (h0 : Nat) (n : Nat) (hk : Keeps p r s) :
    Keeps p r (State.setSpdmStage s h0 n) := by
  unfold State.setSpdmStage; with_reducible repeat' (first | exact hk | (fail_if_no_progress (refine keeps_mk ?_ rfl rfl rfl)))

theorem State.negotiate_keeps {p : Prop} {r : State} (s : State) (h0 : Nat) (n : Nat) (code : Nat) (body : List Byte) (hk : Keeps p r s) :
    Keeps p r (State.negotiate s h0 n code body) := by
  unfold State.negotiate; with_reducible repeat' (first | exact hk | apply State.spdmError_keeps | apply State.setSpdmStage_keeps | apply State.spdm_keeps | split)

theorem State.negotiated_keeps {p : Prop} {r : State} (s : State) (h : Nat) (act : State → State) (hk : Keeps p r s)
    (he : ∀ t, Keeps p r t → Keeps p r (act t)) :
    Keeps p r (State.negotiated s h act) := by
  unfold State.negotiated; split
  · exact hk
  · split
    · exact State.spdmError_keeps _ _ _ hk
    · exact he _ hk

theorem State.inSession_keeps {p : Prop} {r : State} (s : State) (h : Nat) (id : BitVec 32) (secured : Bool) (act : State → SpdmSession → State) (hk : Keeps p r s)
    (he : ∀ t x, Keeps p r t → Keeps p r (act t x)) :
    Keeps p r (State.inSession s h id secured act) := by
  unfold State.inSession
  apply State.negotiated_keeps _ _ _ hk
  intro t ht
  split
  · split
    · exact he _ _ ht
    · exact State.spdmError_keeps _ _ _ ht
  · exact State.spdmError_keeps _ _ _ ht

theorem State.spdmSigned_keeps {p : Prop} {r : State} (s : State) (h0 : Nat) (code : Nat) (body : List Byte) (hk : Keeps p r s) :
    Keeps p r (State.spdmSigned s h0 code body) := by
  unfold State.spdmSigned; with_reducible repeat' (first | exact hk | apply State.spdmError_keeps | apply State.spdm_keeps | split)

theorem State.withChain_keeps {p : Prop} {r : State} (s : State) (h slot : Nat) (act : State → List Byte → State) (hk : Keeps p r s)
    (he : ∀ t b, Keeps p r t → Keeps p r (act t b)) :
    Keeps p r (State.withChain s h slot act) := by
  unfold State.withChain; split
  · exact State.spdmError_keeps _ _ _ hk
  · exact he _ _ hk

theorem State.withNonce_keeps {p : Prop} {r : State} (s : State) (h : Nat) (act : State → List Byte → State) (hk : Keeps p r s)
    (he : ∀ t b, Keeps p r t → Keeps p r (act t b)) :
    Keeps p r (State.withNonce s h act) := by
  unfold State.withNonce; dsimp only; split
  · exact State.spdmError_keeps _ _ _ hk
  · exact he _ _ (State.drbg_keeps _ _ hk)

theorem State.setSession_keeps {p : Prop} {r : State} (s : State) (x : SpdmSession) (hk : Keeps p r s) :
    Keeps p r (State.setSession s x) := by
  unfold State.setSession; with_reducible repeat' (first | exact hk | (fail_if_no_progress (refine keeps_mk ?_ rfl rfl rfl)))

theorem State.dropSession_keeps {p : Prop} {r : State} (s : State) (x : SpdmSession) (hk : Keeps p r s) :
    Keeps p r (State.dropSession s x) := by
  unfold State.dropSession; with_reducible repeat' (first | exact hk | (fail_if_no_progress (refine keeps_mk ?_ rfl rfl rfl)))

theorem State.keyExchange_keeps {p : Prop} {r : State} (s : State) (h0 : Nat) (slot : Nat) (exchange : List Byte) (hk : Keeps p r s) :
    Keeps p r (State.keyExchange s h0 slot exchange) := by
  unfold State.keyExchange; with_reducible repeat' (first | assumption | apply State.spdmError_keeps | apply State.withChain_keeps | apply State.withNonce_keeps | apply State.drbg_keeps | apply State.drew_keeps | apply State.spdmSigned_keeps | (fail_if_no_progress (refine keeps_mk ?_ rfl rfl rfl)) | split | intro)

theorem State.ideKm_keeps {p : Prop} {r : State} (s : State) (h0 : Nat) (object : Nat) (t0 : IdeTarget) (status : Nat) (hk : Keeps p r s) :
    Keeps p r (State.ideKm s h0 object t0 status) := by
  unfold State.ideKm; with_reducible repeat' (first | exact hk | apply State.spdm_keeps)

theorem State.keyProg_keeps {p : Prop} {r : State} (s : State) (h0 : Nat) (t0 : IdeTarget) (key : List Byte) (hk : Keeps p r s) :
    Keeps p r (State.keyProg s h0 t0 key) := by
  unfold State.keyProg; with_reducible repeat' (first | exact hk | apply State.ideKm_keeps | apply State.setIde_keeps | split)

theorem State.keyGo_keeps {p : Prop} {r : State} (s : State) (h0 : Nat) (t0 : IdeTarget) (go : Bool) (hk : Keeps p r s) :
    Keeps p r (State.keyGo s h0 t0 go) := by
  unfold State.keyGo; with_reducible repeat' (first | exact hk | apply State.setIde_keeps | apply State.releaseHeld_keeps | apply State.ideKm_keeps | split)

theorem execGetVersion_keeps {p : Prop} {r : State} (h0 : Fin 16) (s : State) (hk : Keeps p r s) (t : State) (h : execGetVersion h0 s = .next t) :
    Keeps p r t := by
  unfold execGetVersion at h; injection h with h; subst h; with_reducible repeat' (first | exact hk | apply State.negotiate_keeps)

theorem execGetCapabilities_keeps {p : Prop} {r : State} (h0 : Fin 16) (s : State) (hk : Keeps p r s) (t : State) (h : execGetCapabilities h0 s = .next t) :
    Keeps p r t := by
  unfold execGetCapabilities at h; injection h with h; subst h; with_reducible repeat' (first | exact hk | apply State.negotiate_keeps)

theorem execNegotiateAlgorithms_keeps {p : Prop} {r : State} (h0 : Fin 16) (common : Bool) (s : State) (hk : Keeps p r s) (t : State) (h : execNegotiateAlgorithms h0 common s = .next t) :
    Keeps p r t := by
  unfold execNegotiateAlgorithms at h; injection h with h; subst h; with_reducible repeat' (first | exact hk | apply State.negotiate_keeps | apply State.spdmError_keeps | split)

theorem execGetDigests_keeps {p : Prop} {r : State} (h0 : Fin 16) (s : State) (hk : Keeps p r s) (t : State) (h : execGetDigests h0 s = .next t) :
    Keeps p r t := by
  unfold execGetDigests at h; injection h with h; subst h; with_reducible repeat' (first | exact hk | apply State.negotiated_keeps | apply State.spdm_keeps | intro)

theorem execGetCertificate_keeps {p : Prop} {r : State} (h0 : Fin 16) (slot : BitVec 4) (offset : BitVec 16) (length : BitVec 16) (s : State) (hk : Keeps p r s) (t : State) (h : execGetCertificate h0 slot offset length s = .next t) :
    Keeps p r t := by
  unfold execGetCertificate at h; injection h with h; subst h; with_reducible repeat' (first | assumption | apply State.negotiated_keeps | apply State.withChain_keeps | apply State.spdmError_keeps | apply State.spdm_keeps | split | intro)

theorem execChallenge_keeps {p : Prop} {r : State} (h0 : Fin 16) (slot : BitVec 4) (nonce : BitVec 256) (s : State) (hk : Keeps p r s) (t : State) (h : execChallenge h0 slot nonce s = .next t) :
    Keeps p r t := by
  unfold execChallenge at h; injection h with h; subst h; with_reducible repeat' (first | assumption | apply State.negotiated_keeps | apply State.withChain_keeps | apply State.withNonce_keeps | apply State.spdmSigned_keeps | intro)

theorem execGetMeasurements_keeps {p : Prop} {r : State} (h0 : Fin 16) (index : BitVec 8) (nonce : BitVec 256) (s : State) (hk : Keeps p r s) (t : State) (h : execGetMeasurements h0 index nonce s = .next t) :
    Keeps p r t := by
  unfold execGetMeasurements at h; injection h with h; subst h; with_reducible repeat' (first | assumption | apply State.negotiated_keeps | apply State.spdm_keeps | apply State.spdmError_keeps | apply State.withNonce_keeps | apply State.spdmSigned_keeps | split | dsimp only | intro)

theorem execKeyExchange_keeps {p : Prop} {r : State} (h0 : Fin 16) (slot : BitVec 4) (exchange : List Byte) (s : State) (hk : Keeps p r s) (t : State) (h : execKeyExchange h0 slot exchange s = .next t) :
    Keeps p r t := by
  unfold execKeyExchange at h; injection h with h; subst h; with_reducible repeat' (first | exact hk | apply State.negotiated_keeps | apply State.keyExchange_keeps | intro)

theorem execFinish_keeps {p : Prop} {r : State} (h0 : Fin 16) (session : BitVec 32) (s : State) (hk : Keeps p r s) (t : State) (h : execFinish h0 session s = .next t) :
    Keeps p r t := by
  unfold execFinish at h; injection h with h; subst h; with_reducible repeat' (first | assumption | apply State.inSession_keeps | apply State.setSession_keeps | apply State.spdm_keeps | intro)

theorem execHeartbeat_keeps {p : Prop} {r : State} (h0 : Fin 16) (session : BitVec 32) (s : State) (hk : Keeps p r s) (t : State) (h : execHeartbeat h0 session s = .next t) :
    Keeps p r t := by
  unfold execHeartbeat at h; injection h with h; subst h; with_reducible repeat' (first | exact hk | apply State.inSession_keeps | apply State.spdm_keeps | intro)

theorem execKeyUpdate_keeps {p : Prop} {r : State} (h0 : Fin 16) (session : BitVec 32) (s : State) (hk : Keeps p r s) (t : State) (h : execKeyUpdate h0 session s = .next t) :
    Keeps p r t := by
  unfold execKeyUpdate at h; injection h with h; subst h; with_reducible repeat' (first | assumption | apply State.inSession_keeps | apply State.setSession_keeps | apply State.spdm_keeps | intro)

theorem execEndSession_keeps {p : Prop} {r : State} (h0 : Fin 16) (session : BitVec 32) (s : State) (hk : Keeps p r s) (t : State) (h : execEndSession h0 session s = .next t) :
    Keeps p r t := by
  unfold execEndSession at h; injection h with h; subst h; with_reducible repeat' (first | assumption | apply State.inSession_keeps | apply State.dropSession_keeps | apply State.spdm_keeps | intro)

theorem execKeyProg_keeps {p : Prop} {r : State} (h0 : Fin 16) (session : BitVec 32) (t0 : IdeTarget) (key : List Byte) (s : State) (hk : Keeps p r s) (t : State) (h : execKeyProg h0 session t0 key s = .next t) :
    Keeps p r t := by
  unfold execKeyProg at h; injection h with h; subst h; with_reducible repeat' (first | exact hk | apply State.inSession_keeps | apply State.keyProg_keeps | intro)

theorem execKSetGo_keeps {p : Prop} {r : State} (h0 : Fin 16) (session : BitVec 32) (t0 : IdeTarget) (s : State) (hk : Keeps p r s) (t : State) (h : execKSetGo h0 session t0 s = .next t) :
    Keeps p r t := by
  unfold execKSetGo at h; injection h with h; subst h; with_reducible repeat' (first | exact hk | apply State.inSession_keeps | apply State.keyGo_keeps | intro)

theorem execKSetStop_keeps {p : Prop} {r : State} (h0 : Fin 16) (session : BitVec 32) (t0 : IdeTarget) (s : State) (hk : Keeps p r s) (t : State) (h : execKSetStop h0 session t0 s = .next t) :
    Keeps p r t := by
  unfold execKSetStop at h; injection h with h; subst h; with_reducible repeat' (first | exact hk | apply State.inSession_keeps | apply State.keyGo_keeps | intro)

end Sys2Proof.Machine
end

