-- ==== Sys2Proof/Laws/KeepsTick.lean ====
section
/-! SUPPORT. What the functions of Machine/Tick.lean keep. -/

namespace Sys2Proof.Machine

theorem State.claimsCount_keeps {p : Prop} {r : State} (s : State) (hk : Keeps p r s) :
    Keeps p r (State.claimsCount s) := by
  unfold State.claimsCount; with_reducible repeat' (first | exact hk | apply State.applyHeld_keeps | (fail_if_no_progress (refine keeps_mk ?_ rfl rfl rfl)) | split)

theorem State.tick_keeps {p : Prop} {r : State} (s : State) (hk : Keeps p r s) :
    Keeps p r (State.tick s) := by
  unfold State.tick; with_reducible repeat' (first | exact hk | apply State.drew_keeps | apply State.setFld_keeps | apply State.claimsCount_keeps | apply State.judgeModules_keeps | apply State.coresTick_keeps | apply State.idleTick_keeps | (fail_if_no_progress (refine keeps_mk ?_ rfl rfl rfl)) | split)

end Sys2Proof.Machine
end

