-- ==== Sys2Proof/Laws/SMap.lean ====
section
/-! SUPPORT. Reading a sparse store after a write (the canonical form is needed where a write removes an entry). -/

namespace Sys2Proof.Machine

variable {β : Type} [DecidableEq β] {d : Nat → β} {k j : Nat} {v : β} {m : SMap β}

omit [DecidableEq β] in
theorem SMap.get_of_above (h : SMap.above k m = true) : SMap.get d m k = d k := by
  cases m with
  | nil => rfl
  | cons x m =>
    simp only [SMap.above, decide_eq_true_eq] at h
    simp only [SMap.get, if_neg (Nat.ne_of_lt h), if_pos h]

omit [DecidableEq β] in
theorem SMap.get_put_self : SMap.get d (SMap.put k v m) k = v := by
  induction m with
  | nil => simp [SMap.put, SMap.get]
  | cons x m ih =>
    obtain ⟨j, w⟩ := x
    simp only [SMap.put]
    split
    · simp [SMap.get]
    · split
      · simp [SMap.get]
      · rename_i h1 h2; simp [SMap.get, h1, h2, ih]

omit [DecidableEq β] in
theorem SMap.get_put_ne (h : j ≠ k) : SMap.get d (SMap.put k v m) j = SMap.get d m j := by
  induction m with
  | nil => simp [SMap.put, SMap.get, h]
  | cons x m ih =>
    obtain ⟨i, w⟩ := x
    simp only [SMap.put]
    split
    · rename_i e; subst e; simp [SMap.get, h]
    · split
      · rename_i h1 h2
        simp only [SMap.get, if_neg h]
        split
        · have h3 : j ≠ i := by omega
          have h4 : j < i := by omega
          simp [h3, h4]
        · rfl
      · simp only [SMap.get, ih]

theorem SMap.get_drop_self (hw : SMap.wf d m = true) : SMap.get d (SMap.drop k m) k = d k := by
  induction m with
  | nil => rfl
  | cons x m ih =>
    obtain ⟨j, w⟩ := x
    have ha := SMap.wf_tail_above hw
    simp only [SMap.wf, Bool.and_eq_true] at hw
    simp only [SMap.drop]
    split
    · rename_i e; subst e; exact SMap.get_of_above ha
    · split
      · rename_i h1 h2; simp [SMap.get, h1, h2]
      · rename_i h1 h2; simp [SMap.get, h1, h2, ih hw.2]

theorem SMap.get_drop_ne (hw : SMap.wf d m = true) (h : j ≠ k) : SMap.get d (SMap.drop k m) j = SMap.get d m j := by
  induction m with
  | nil => rfl
  | cons x m ih =>
    obtain ⟨i, w⟩ := x
    have ha := SMap.wf_tail_above hw
    simp only [SMap.wf, Bool.and_eq_true] at hw
    simp only [SMap.drop]
    split
    · rename_i e; subst e
      simp only [SMap.get, if_neg h]
      split
      · exact SMap.get_of_above (SMap.above_mono ha (by omega))
      · rfl
    · split
      · rfl
      · simp only [SMap.get, ih hw.2]

/-- A read after a write to the same key gives the value written. -/
theorem SMap.get_set_self (hw : SMap.wf d m = true) : SMap.get d (SMap.set d k v m) k = v := by
  unfold SMap.set; split
  · rename_i h; rw [SMap.get_drop_self hw, h]
  · exact SMap.get_put_self

/-- The same without the canonical form, for a value that stays listed. -/
theorem SMap.get_set_other (h : v ≠ d k) : SMap.get d (SMap.set d k v m) k = v := by
  unfold SMap.set; rw [if_neg h]; exact SMap.get_put_self

/-- A write leaves every other key alone. -/
theorem SMap.get_set_ne (hw : SMap.wf d m = true) (h : j ≠ k) : SMap.get d (SMap.set d k v m) j = SMap.get d m j := by
  unfold SMap.set; split
  · exact SMap.get_drop_ne hw h
  · exact SMap.get_put_ne h

omit [DecidableEq β] in
/-- A store of which only entries with another key are kept reads as unlisted. -/
theorem SMap.get_filter_out {p : Nat × β → Bool} (h : ∀ w, p (k, w) = false) : SMap.get d (m.filter p) k = d k := by
  induction m with
  | nil => rfl
  | cons x m ih =>
    obtain ⟨j, w⟩ := x
    simp only [List.filter]
    split
    · rename_i e
      have hk : k ≠ j := by intro e'; subst e'; rw [h] at e; cases e
      simp only [SMap.get, if_neg hk, ih, ite_self]
    · exact ih

/-- A filter that keeps every entry of a key leaves its value. -/
theorem SMap.get_filter_in {p : Nat × β → Bool} (hw : SMap.wf d m = true) (h : ∀ w, p (k, w) = true) :
    SMap.get d (m.filter p) k = SMap.get d m k := by
  induction m with
  | nil => rfl
  | cons x m ih =>
    obtain ⟨j, w⟩ := x
    have ha := SMap.wf_tail_above hw
    simp only [SMap.wf, Bool.and_eq_true] at hw
    simp only [List.filter]
    split
    · simp only [SMap.get, ih hw.2]
    · rename_i e
      have hk : k ≠ j := by intro e'; subst e'; rw [h] at e; cases e
      simp only [SMap.get, if_neg hk]
      split
      · rw [ih hw.2]; exact SMap.get_of_above (SMap.above_mono ha (by omega))
      · exact ih hw.2

/-- Writing what a key reads as leaves the store as it is. -/
theorem SMap.set_same (hw : SMap.wf d m = true) : SMap.set d k (SMap.get d m k) m = m := by
  have hp : SMap.get d m k ≠ d k → SMap.put k (SMap.get d m k) m = m := by
    intro h
    induction m with
    | nil => exact absurd rfl h
    | cons x m ih =>
      obtain ⟨j, w⟩ := x
      simp only [SMap.wf, Bool.and_eq_true] at hw
      simp only [SMap.get] at h ⊢
      simp only [SMap.put]
      by_cases h1 : k = j
      · subst h1; simp
      · by_cases h2 : k < j
        · simp [h1, h2] at h
        · simp only [if_neg h1, if_neg h2] at h ⊢; rw [ih hw.2 h]
  have hd : SMap.get d m k = d k → SMap.drop k m = m := by
    intro h
    clear hp
    induction m with
    | nil => rfl
    | cons x m ih =>
      obtain ⟨j, w⟩ := x
      simp only [SMap.wf, Bool.and_eq_true, decide_eq_true_eq] at hw
      simp only [SMap.get] at h
      simp only [SMap.drop]
      by_cases h1 : k = j
      · subst h1; simp only [if_pos] at h; exact absurd h hw.1.2
      · by_cases h2 : k < j
        · simp only [if_neg h1, if_pos h2]
        · simp only [if_neg h1, if_neg h2] at h ⊢; rw [ih hw.2 h]
  unfold SMap.set
  split
  · rename_i h; exact hd h
  · rename_i h; exact hp h

end Sys2Proof.Machine
end

