-- ==== Sys2Proof/Laws/State.lean ====
section
/-! SUPPORT. What each named update of the state leaves alone: one lemma per field and update. -/

namespace Sys2Proof.Machine

/-! ## The fields of a state given whole -/

section Whole
variable {pending0 : List Instr} {regs0 : SMap Word} {ctrs0 : SMap Word} {out0 : List Out} {draws0 : Nat} {clk0 : Clock} {pins0 : Pins} {dev0 : Dev} {flashA0 : Flash} {flashB0 : Flash} {acc0 : AccessState} {vote0 : Vote} {rdn0 : Rdn} {pwr0 : Pwr} {flt0 : Flt} {prt0 : Prt} {mgt0 : Mgt} {scn0 : Scenes} {tbl0 : Tables} {swc0 : Swc} {tms0 : Tms} {ofl0 : Ofl} {cph0 : Cph} {vlt0 : Vlt} {hep0 : Hep} {slc0 : Slc} {qrg0 : Qrg} {sto0 : Sto} {bmv0 : Bmv} {trp0 : Trp} {cbd0 : Cbd} {stk0 : Stk} {mem0 : Mem}

theorem State.mk_pending : (State.mk pending0 regs0 ctrs0 out0 draws0 clk0 pins0 dev0 flashA0 flashB0 acc0 vote0 rdn0 pwr0 flt0 prt0 mgt0 scn0 tbl0 swc0 tms0 ofl0 cph0 vlt0 hep0 slc0 qrg0 sto0 bmv0 trp0 cbd0 stk0 mem0).pending = pending0 := (rfl)
theorem State.mk_regs : (State.mk pending0 regs0 ctrs0 out0 draws0 clk0 pins0 dev0 flashA0 flashB0 acc0 vote0 rdn0 pwr0 flt0 prt0 mgt0 scn0 tbl0 swc0 tms0 ofl0 cph0 vlt0 hep0 slc0 qrg0 sto0 bmv0 trp0 cbd0 stk0 mem0).regs = regs0 := (rfl)
theorem State.mk_ctrs : (State.mk pending0 regs0 ctrs0 out0 draws0 clk0 pins0 dev0 flashA0 flashB0 acc0 vote0 rdn0 pwr0 flt0 prt0 mgt0 scn0 tbl0 swc0 tms0 ofl0 cph0 vlt0 hep0 slc0 qrg0 sto0 bmv0 trp0 cbd0 stk0 mem0).ctrs = ctrs0 := (rfl)
theorem State.mk_out : (State.mk pending0 regs0 ctrs0 out0 draws0 clk0 pins0 dev0 flashA0 flashB0 acc0 vote0 rdn0 pwr0 flt0 prt0 mgt0 scn0 tbl0 swc0 tms0 ofl0 cph0 vlt0 hep0 slc0 qrg0 sto0 bmv0 trp0 cbd0 stk0 mem0).out = out0 := (rfl)
theorem State.mk_draws : (State.mk pending0 regs0 ctrs0 out0 draws0 clk0 pins0 dev0 flashA0 flashB0 acc0 vote0 rdn0 pwr0 flt0 prt0 mgt0 scn0 tbl0 swc0 tms0 ofl0 cph0 vlt0 hep0 slc0 qrg0 sto0 bmv0 trp0 cbd0 stk0 mem0).draws = draws0 := (rfl)
theorem State.mk_clk : (State.mk pending0 regs0 ctrs0 out0 draws0 clk0 pins0 dev0 flashA0 flashB0 acc0 vote0 rdn0 pwr0 flt0 prt0 mgt0 scn0 tbl0 swc0 tms0 ofl0 cph0 vlt0 hep0 slc0 qrg0 sto0 bmv0 trp0 cbd0 stk0 mem0).clk = clk0 := (rfl)
theorem State.mk_pins : (State.mk pending0 regs0 ctrs0 out0 draws0 clk0 pins0 dev0 flashA0 flashB0 acc0 vote0 rdn0 pwr0 flt0 prt0 mgt0 scn0 tbl0 swc0 tms0 ofl0 cph0 vlt0 hep0 slc0 qrg0 sto0 bmv0 trp0 cbd0 stk0 mem0).pins = pins0 := (rfl)
theorem State.mk_dev : (State.mk pending0 regs0 ctrs0 out0 draws0 clk0 pins0 dev0 flashA0 flashB0 acc0 vote0 rdn0 pwr0 flt0 prt0 mgt0 scn0 tbl0 swc0 tms0 ofl0 cph0 vlt0 hep0 slc0 qrg0 sto0 bmv0 trp0 cbd0 stk0 mem0).dev = dev0 := (rfl)
theorem State.mk_flashA : (State.mk pending0 regs0 ctrs0 out0 draws0 clk0 pins0 dev0 flashA0 flashB0 acc0 vote0 rdn0 pwr0 flt0 prt0 mgt0 scn0 tbl0 swc0 tms0 ofl0 cph0 vlt0 hep0 slc0 qrg0 sto0 bmv0 trp0 cbd0 stk0 mem0).flashA = flashA0 := (rfl)
theorem State.mk_flashB : (State.mk pending0 regs0 ctrs0 out0 draws0 clk0 pins0 dev0 flashA0 flashB0 acc0 vote0 rdn0 pwr0 flt0 prt0 mgt0 scn0 tbl0 swc0 tms0 ofl0 cph0 vlt0 hep0 slc0 qrg0 sto0 bmv0 trp0 cbd0 stk0 mem0).flashB = flashB0 := (rfl)
theorem State.mk_acc : (State.mk pending0 regs0 ctrs0 out0 draws0 clk0 pins0 dev0 flashA0 flashB0 acc0 vote0 rdn0 pwr0 flt0 prt0 mgt0 scn0 tbl0 swc0 tms0 ofl0 cph0 vlt0 hep0 slc0 qrg0 sto0 bmv0 trp0 cbd0 stk0 mem0).acc = acc0 := (rfl)
theorem State.mk_vote : (State.mk pending0 regs0 ctrs0 out0 draws0 clk0 pins0 dev0 flashA0 flashB0 acc0 vote0 rdn0 pwr0 flt0 prt0 mgt0 scn0 tbl0 swc0 tms0 ofl0 cph0 vlt0 hep0 slc0 qrg0 sto0 bmv0 trp0 cbd0 stk0 mem0).vote = vote0 := (rfl)
theorem State.mk_rdn : (State.mk pending0 regs0 ctrs0 out0 draws0 clk0 pins0 dev0 flashA0 flashB0 acc0 vote0 rdn0 pwr0 flt0 prt0 mgt0 scn0 tbl0 swc0 tms0 ofl0 cph0 vlt0 hep0 slc0 qrg0 sto0 bmv0 trp0 cbd0 stk0 mem0).rdn = rdn0 := (rfl)
theorem State.mk_pwr : (State.mk pending0 regs0 ctrs0 out0 draws0 clk0 pins0 dev0 flashA0 flashB0 acc0 vote0 rdn0 pwr0 flt0 prt0 mgt0 scn0 tbl0 swc0 tms0 ofl0 cph0 vlt0 hep0 slc0 qrg0 sto0 bmv0 trp0 cbd0 stk0 mem0).pwr = pwr0 := (rfl)
theorem State.mk_flt : (State.mk pending0 regs0 ctrs0 out0 draws0 clk0 pins0 dev0 flashA0 flashB0 acc0 vote0 rdn0 pwr0 flt0 prt0 mgt0 scn0 tbl0 swc0 tms0 ofl0 cph0 vlt0 hep0 slc0 qrg0 sto0 bmv0 trp0 cbd0 stk0 mem0).flt = flt0 := (rfl)
theorem State.mk_prt : (State.mk pending0 regs0 ctrs0 out0 draws0 clk0 pins0 dev0 flashA0 flashB0 acc0 vote0 rdn0 pwr0 flt0 prt0 mgt0 scn0 tbl0 swc0 tms0 ofl0 cph0 vlt0 hep0 slc0 qrg0 sto0 bmv0 trp0 cbd0 stk0 mem0).prt = prt0 := (rfl)
theorem State.mk_mgt : (State.mk pending0 regs0 ctrs0 out0 draws0 clk0 pins0 dev0 flashA0 flashB0 acc0 vote0 rdn0 pwr0 flt0 prt0 mgt0 scn0 tbl0 swc0 tms0 ofl0 cph0 vlt0 hep0 slc0 qrg0 sto0 bmv0 trp0 cbd0 stk0 mem0).mgt = mgt0 := (rfl)
theorem State.mk_scn : (State.mk pending0 regs0 ctrs0 out0 draws0 clk0 pins0 dev0 flashA0 flashB0 acc0 vote0 rdn0 pwr0 flt0 prt0 mgt0 scn0 tbl0 swc0 tms0 ofl0 cph0 vlt0 hep0 slc0 qrg0 sto0 bmv0 trp0 cbd0 stk0 mem0).scn = scn0 := (rfl)
theorem State.mk_tbl : (State.mk pending0 regs0 ctrs0 out0 draws0 clk0 pins0 dev0 flashA0 flashB0 acc0 vote0 rdn0 pwr0 flt0 prt0 mgt0 scn0 tbl0 swc0 tms0 ofl0 cph0 vlt0 hep0 slc0 qrg0 sto0 bmv0 trp0 cbd0 stk0 mem0).tbl = tbl0 := (rfl)
theorem State.mk_swc : (State.mk pending0 regs0 ctrs0 out0 draws0 clk0 pins0 dev0 flashA0 flashB0 acc0 vote0 rdn0 pwr0 flt0 prt0 mgt0 scn0 tbl0 swc0 tms0 ofl0 cph0 vlt0 hep0 slc0 qrg0 sto0 bmv0 trp0 cbd0 stk0 mem0).swc = swc0 := (rfl)
theorem State.mk_tms : (State.mk pending0 regs0 ctrs0 out0 draws0 clk0 pins0 dev0 flashA0 flashB0 acc0 vote0 rdn0 pwr0 flt0 prt0 mgt0 scn0 tbl0 swc0 tms0 ofl0 cph0 vlt0 hep0 slc0 qrg0 sto0 bmv0 trp0 cbd0 stk0 mem0).tms = tms0 := (rfl)
theorem State.mk_ofl : (State.mk pending0 regs0 ctrs0 out0 draws0 clk0 pins0 dev0 flashA0 flashB0 acc0 vote0 rdn0 pwr0 flt0 prt0 mgt0 scn0 tbl0 swc0 tms0 ofl0 cph0 vlt0 hep0 slc0 qrg0 sto0 bmv0 trp0 cbd0 stk0 mem0).ofl = ofl0 := (rfl)
theorem State.mk_cph : (State.mk pending0 regs0 ctrs0 out0 draws0 clk0 pins0 dev0 flashA0 flashB0 acc0 vote0 rdn0 pwr0 flt0 prt0 mgt0 scn0 tbl0 swc0 tms0 ofl0 cph0 vlt0 hep0 slc0 qrg0 sto0 bmv0 trp0 cbd0 stk0 mem0).cph = cph0 := (rfl)
theorem State.mk_vlt : (State.mk pending0 regs0 ctrs0 out0 draws0 clk0 pins0 dev0 flashA0 flashB0 acc0 vote0 rdn0 pwr0 flt0 prt0 mgt0 scn0 tbl0 swc0 tms0 ofl0 cph0 vlt0 hep0 slc0 qrg0 sto0 bmv0 trp0 cbd0 stk0 mem0).vlt = vlt0 := (rfl)
theorem State.mk_hep : (State.mk pending0 regs0 ctrs0 out0 draws0 clk0 pins0 dev0 flashA0 flashB0 acc0 vote0 rdn0 pwr0 flt0 prt0 mgt0 scn0 tbl0 swc0 tms0 ofl0 cph0 vlt0 hep0 slc0 qrg0 sto0 bmv0 trp0 cbd0 stk0 mem0).hep = hep0 := (rfl)
theorem State.mk_slc : (State.mk pending0 regs0 ctrs0 out0 draws0 clk0 pins0 dev0 flashA0 flashB0 acc0 vote0 rdn0 pwr0 flt0 prt0 mgt0 scn0 tbl0 swc0 tms0 ofl0 cph0 vlt0 hep0 slc0 qrg0 sto0 bmv0 trp0 cbd0 stk0 mem0).slc = slc0 := (rfl)
theorem State.mk_qrg : (State.mk pending0 regs0 ctrs0 out0 draws0 clk0 pins0 dev0 flashA0 flashB0 acc0 vote0 rdn0 pwr0 flt0 prt0 mgt0 scn0 tbl0 swc0 tms0 ofl0 cph0 vlt0 hep0 slc0 qrg0 sto0 bmv0 trp0 cbd0 stk0 mem0).qrg = qrg0 := (rfl)
theorem State.mk_sto : (State.mk pending0 regs0 ctrs0 out0 draws0 clk0 pins0 dev0 flashA0 flashB0 acc0 vote0 rdn0 pwr0 flt0 prt0 mgt0 scn0 tbl0 swc0 tms0 ofl0 cph0 vlt0 hep0 slc0 qrg0 sto0 bmv0 trp0 cbd0 stk0 mem0).sto = sto0 := (rfl)
theorem State.mk_bmv : (State.mk pending0 regs0 ctrs0 out0 draws0 clk0 pins0 dev0 flashA0 flashB0 acc0 vote0 rdn0 pwr0 flt0 prt0 mgt0 scn0 tbl0 swc0 tms0 ofl0 cph0 vlt0 hep0 slc0 qrg0 sto0 bmv0 trp0 cbd0 stk0 mem0).bmv = bmv0 := (rfl)
theorem State.mk_trp : (State.mk pending0 regs0 ctrs0 out0 draws0 clk0 pins0 dev0 flashA0 flashB0 acc0 vote0 rdn0 pwr0 flt0 prt0 mgt0 scn0 tbl0 swc0 tms0 ofl0 cph0 vlt0 hep0 slc0 qrg0 sto0 bmv0 trp0 cbd0 stk0 mem0).trp = trp0 := (rfl)
theorem State.mk_cbd : (State.mk pending0 regs0 ctrs0 out0 draws0 clk0 pins0 dev0 flashA0 flashB0 acc0 vote0 rdn0 pwr0 flt0 prt0 mgt0 scn0 tbl0 swc0 tms0 ofl0 cph0 vlt0 hep0 slc0 qrg0 sto0 bmv0 trp0 cbd0 stk0 mem0).cbd = cbd0 := (rfl)
theorem State.mk_stk : (State.mk pending0 regs0 ctrs0 out0 draws0 clk0 pins0 dev0 flashA0 flashB0 acc0 vote0 rdn0 pwr0 flt0 prt0 mgt0 scn0 tbl0 swc0 tms0 ofl0 cph0 vlt0 hep0 slc0 qrg0 sto0 bmv0 trp0 cbd0 stk0 mem0).stk = stk0 := (rfl)
theorem State.mk_mem : (State.mk pending0 regs0 ctrs0 out0 draws0 clk0 pins0 dev0 flashA0 flashB0 acc0 vote0 rdn0 pwr0 flt0 prt0 mgt0 scn0 tbl0 swc0 tms0 ofl0 cph0 vlt0 hep0 slc0 qrg0 sto0 bmv0 trp0 cbd0 stk0 mem0).mem = mem0 := (rfl)

end Whole

/-! ## Updates -/

@[simp] theorem State.setReg_pending (s : State) (r : RegName) (i : Nat) (v : Word) : (State.setReg s r i v).pending = s.pending := State.mk_pending
@[simp] theorem State.setReg_ctrs (s : State) (r : RegName) (i : Nat) (v : Word) : (State.setReg s r i v).ctrs = s.ctrs := State.mk_ctrs
@[simp] theorem State.setReg_out (s : State) (r : RegName) (i : Nat) (v : Word) : (State.setReg s r i v).out = s.out := State.mk_out
@[simp] theorem State.setReg_draws (s : State) (r : RegName) (i : Nat) (v : Word) : (State.setReg s r i v).draws = s.draws := State.mk_draws
@[simp] theorem State.setReg_clk (s : State) (r : RegName) (i : Nat) (v : Word) : (State.setReg s r i v).clk = s.clk := State.mk_clk
@[simp] theorem State.setReg_pins (s : State) (r : RegName) (i : Nat) (v : Word) : (State.setReg s r i v).pins = s.pins := State.mk_pins
@[simp] theorem State.setReg_dev (s : State) (r : RegName) (i : Nat) (v : Word) : (State.setReg s r i v).dev = s.dev := State.mk_dev
@[simp] theorem State.setReg_flashA (s : State) (r : RegName) (i : Nat) (v : Word) : (State.setReg s r i v).flashA = s.flashA := State.mk_flashA
@[simp] theorem State.setReg_flashB (s : State) (r : RegName) (i : Nat) (v : Word) : (State.setReg s r i v).flashB = s.flashB := State.mk_flashB
@[simp] theorem State.setReg_acc (s : State) (r : RegName) (i : Nat) (v : Word) : (State.setReg s r i v).acc = s.acc := State.mk_acc
@[simp] theorem State.setReg_vote (s : State) (r : RegName) (i : Nat) (v : Word) : (State.setReg s r i v).vote = s.vote := State.mk_vote
@[simp] theorem State.setReg_rdn (s : State) (r : RegName) (i : Nat) (v : Word) : (State.setReg s r i v).rdn = s.rdn := State.mk_rdn
@[simp] theorem State.setReg_pwr (s : State) (r : RegName) (i : Nat) (v : Word) : (State.setReg s r i v).pwr = s.pwr := State.mk_pwr
@[simp] theorem State.setReg_flt (s : State) (r : RegName) (i : Nat) (v : Word) : (State.setReg s r i v).flt = s.flt := State.mk_flt
@[simp] theorem State.setReg_prt (s : State) (r : RegName) (i : Nat) (v : Word) : (State.setReg s r i v).prt = s.prt := State.mk_prt
@[simp] theorem State.setReg_mgt (s : State) (r : RegName) (i : Nat) (v : Word) : (State.setReg s r i v).mgt = s.mgt := State.mk_mgt
@[simp] theorem State.setReg_scn (s : State) (r : RegName) (i : Nat) (v : Word) : (State.setReg s r i v).scn = s.scn := State.mk_scn
@[simp] theorem State.setReg_tbl (s : State) (r : RegName) (i : Nat) (v : Word) : (State.setReg s r i v).tbl = s.tbl := State.mk_tbl
@[simp] theorem State.setReg_swc (s : State) (r : RegName) (i : Nat) (v : Word) : (State.setReg s r i v).swc = s.swc := State.mk_swc
@[simp] theorem State.setReg_tms (s : State) (r : RegName) (i : Nat) (v : Word) : (State.setReg s r i v).tms = s.tms := State.mk_tms
@[simp] theorem State.setReg_ofl (s : State) (r : RegName) (i : Nat) (v : Word) : (State.setReg s r i v).ofl = s.ofl := State.mk_ofl
@[simp] theorem State.setReg_cph (s : State) (r : RegName) (i : Nat) (v : Word) : (State.setReg s r i v).cph = s.cph := State.mk_cph
@[simp] theorem State.setReg_vlt (s : State) (r : RegName) (i : Nat) (v : Word) : (State.setReg s r i v).vlt = s.vlt := State.mk_vlt
@[simp] theorem State.setReg_hep (s : State) (r : RegName) (i : Nat) (v : Word) : (State.setReg s r i v).hep = s.hep := State.mk_hep
@[simp] theorem State.setReg_slc (s : State) (r : RegName) (i : Nat) (v : Word) : (State.setReg s r i v).slc = s.slc := State.mk_slc
@[simp] theorem State.setReg_qrg (s : State) (r : RegName) (i : Nat) (v : Word) : (State.setReg s r i v).qrg = s.qrg := State.mk_qrg
@[simp] theorem State.setReg_sto (s : State) (r : RegName) (i : Nat) (v : Word) : (State.setReg s r i v).sto = s.sto := State.mk_sto
@[simp] theorem State.setReg_bmv (s : State) (r : RegName) (i : Nat) (v : Word) : (State.setReg s r i v).bmv = s.bmv := State.mk_bmv
@[simp] theorem State.setReg_trp (s : State) (r : RegName) (i : Nat) (v : Word) : (State.setReg s r i v).trp = s.trp := State.mk_trp
@[simp] theorem State.setReg_cbd (s : State) (r : RegName) (i : Nat) (v : Word) : (State.setReg s r i v).cbd = s.cbd := State.mk_cbd
@[simp] theorem State.setReg_stk (s : State) (r : RegName) (i : Nat) (v : Word) : (State.setReg s r i v).stk = s.stk := State.mk_stk
@[simp] theorem State.setReg_mem (s : State) (r : RegName) (i : Nat) (v : Word) : (State.setReg s r i v).mem = s.mem := State.mk_mem
@[simp] theorem State.setFld_pending (s : State) (f : FieldPos) (i : Nat) (x : Nat) : (State.setFld s f i x).pending = s.pending := State.setReg_pending ..
@[simp] theorem State.setFld_ctrs (s : State) (f : FieldPos) (i : Nat) (x : Nat) : (State.setFld s f i x).ctrs = s.ctrs := State.setReg_ctrs ..
@[simp] theorem State.setFld_out (s : State) (f : FieldPos) (i : Nat) (x : Nat) : (State.setFld s f i x).out = s.out := State.setReg_out ..
@[simp] theorem State.setFld_draws (s : State) (f : FieldPos) (i : Nat) (x : Nat) : (State.setFld s f i x).draws = s.draws := State.setReg_draws ..
@[simp] theorem State.setFld_clk (s : State) (f : FieldPos) (i : Nat) (x : Nat) : (State.setFld s f i x).clk = s.clk := State.setReg_clk ..
@[simp] theorem State.setFld_pins (s : State) (f : FieldPos) (i : Nat) (x : Nat) : (State.setFld s f i x).pins = s.pins := State.setReg_pins ..
@[simp] theorem State.setFld_dev (s : State) (f : FieldPos) (i : Nat) (x : Nat) : (State.setFld s f i x).dev = s.dev := State.setReg_dev ..
@[simp] theorem State.setFld_flashA (s : State) (f : FieldPos) (i : Nat) (x : Nat) : (State.setFld s f i x).flashA = s.flashA := State.setReg_flashA ..
@[simp] theorem State.setFld_flashB (s : State) (f : FieldPos) (i : Nat) (x : Nat) : (State.setFld s f i x).flashB = s.flashB := State.setReg_flashB ..
@[simp] theorem State.setFld_acc (s : State) (f : FieldPos) (i : Nat) (x : Nat) : (State.setFld s f i x).acc = s.acc := State.setReg_acc ..
@[simp] theorem State.setFld_vote (s : State) (f : FieldPos) (i : Nat) (x : Nat) : (State.setFld s f i x).vote = s.vote := State.setReg_vote ..
@[simp] theorem State.setFld_rdn (s : State) (f : FieldPos) (i : Nat) (x : Nat) : (State.setFld s f i x).rdn = s.rdn := State.setReg_rdn ..
@[simp] theorem State.setFld_pwr (s : State) (f : FieldPos) (i : Nat) (x : Nat) : (State.setFld s f i x).pwr = s.pwr := State.setReg_pwr ..
@[simp] theorem State.setFld_flt (s : State) (f : FieldPos) (i : Nat) (x : Nat) : (State.setFld s f i x).flt = s.flt := State.setReg_flt ..
@[simp] theorem State.setFld_prt (s : State) (f : FieldPos) (i : Nat) (x : Nat) : (State.setFld s f i x).prt = s.prt := State.setReg_prt ..
@[simp] theorem State.setFld_mgt (s : State) (f : FieldPos) (i : Nat) (x : Nat) : (State.setFld s f i x).mgt = s.mgt := State.setReg_mgt ..
@[simp] theorem State.setFld_scn (s : State) (f : FieldPos) (i : Nat) (x : Nat) : (State.setFld s f i x).scn = s.scn := State.setReg_scn ..
@[simp] theorem State.setFld_tbl (s : State) (f : FieldPos) (i : Nat) (x : Nat) : (State.setFld s f i x).tbl = s.tbl := State.setReg_tbl ..
@[simp] theorem State.setFld_swc (s : State) (f : FieldPos) (i : Nat) (x : Nat) : (State.setFld s f i x).swc = s.swc := State.setReg_swc ..
@[simp] theorem State.setFld_tms (s : State) (f : FieldPos) (i : Nat) (x : Nat) : (State.setFld s f i x).tms = s.tms := State.setReg_tms ..
@[simp] theorem State.setFld_ofl (s : State) (f : FieldPos) (i : Nat) (x : Nat) : (State.setFld s f i x).ofl = s.ofl := State.setReg_ofl ..
@[simp] theorem State.setFld_cph (s : State) (f : FieldPos) (i : Nat) (x : Nat) : (State.setFld s f i x).cph = s.cph := State.setReg_cph ..
@[simp] theorem State.setFld_vlt (s : State) (f : FieldPos) (i : Nat) (x : Nat) : (State.setFld s f i x).vlt = s.vlt := State.setReg_vlt ..
@[simp] theorem State.setFld_hep (s : State) (f : FieldPos) (i : Nat) (x : Nat) : (State.setFld s f i x).hep = s.hep := State.setReg_hep ..
@[simp] theorem State.setFld_slc (s : State) (f : FieldPos) (i : Nat) (x : Nat) : (State.setFld s f i x).slc = s.slc := State.setReg_slc ..
@[simp] theorem State.setFld_qrg (s : State) (f : FieldPos) (i : Nat) (x : Nat) : (State.setFld s f i x).qrg = s.qrg := State.setReg_qrg ..
@[simp] theorem State.setFld_sto (s : State) (f : FieldPos) (i : Nat) (x : Nat) : (State.setFld s f i x).sto = s.sto := State.setReg_sto ..
@[simp] theorem State.setFld_bmv (s : State) (f : FieldPos) (i : Nat) (x : Nat) : (State.setFld s f i x).bmv = s.bmv := State.setReg_bmv ..
@[simp] theorem State.setFld_trp (s : State) (f : FieldPos) (i : Nat) (x : Nat) : (State.setFld s f i x).trp = s.trp := State.setReg_trp ..
@[simp] theorem State.setFld_cbd (s : State) (f : FieldPos) (i : Nat) (x : Nat) : (State.setFld s f i x).cbd = s.cbd := State.setReg_cbd ..
@[simp] theorem State.setFld_stk (s : State) (f : FieldPos) (i : Nat) (x : Nat) : (State.setFld s f i x).stk = s.stk := State.setReg_stk ..
@[simp] theorem State.setFld_mem (s : State) (f : FieldPos) (i : Nat) (x : Nat) : (State.setFld s f i x).mem = s.mem := State.setReg_mem ..
@[simp] theorem State.setCtr_pending (s : State) (r : RegName) (i : Nat) (v : Word) : (State.setCtr s r i v).pending = s.pending := State.mk_pending
@[simp] theorem State.setCtr_regs (s : State) (r : RegName) (i : Nat) (v : Word) : (State.setCtr s r i v).regs = s.regs := State.mk_regs
@[simp] theorem State.setCtr_out (s : State) (r : RegName) (i : Nat) (v : Word) : (State.setCtr s r i v).out = s.out := State.mk_out
@[simp] theorem State.setCtr_draws (s : State) (r : RegName) (i : Nat) (v : Word) : (State.setCtr s r i v).draws = s.draws := State.mk_draws
@[simp] theorem State.setCtr_clk (s : State) (r : RegName) (i : Nat) (v : Word) : (State.setCtr s r i v).clk = s.clk := State.mk_clk
@[simp] theorem State.setCtr_pins (s : State) (r : RegName) (i : Nat) (v : Word) : (State.setCtr s r i v).pins = s.pins := State.mk_pins
@[simp] theorem State.setCtr_dev (s : State) (r : RegName) (i : Nat) (v : Word) : (State.setCtr s r i v).dev = s.dev := State.mk_dev
@[simp] theorem State.setCtr_flashA (s : State) (r : RegName) (i : Nat) (v : Word) : (State.setCtr s r i v).flashA = s.flashA := State.mk_flashA
@[simp] theorem State.setCtr_flashB (s : State) (r : RegName) (i : Nat) (v : Word) : (State.setCtr s r i v).flashB = s.flashB := State.mk_flashB
@[simp] theorem State.setCtr_acc (s : State) (r : RegName) (i : Nat) (v : Word) : (State.setCtr s r i v).acc = s.acc := State.mk_acc
@[simp] theorem State.setCtr_vote (s : State) (r : RegName) (i : Nat) (v : Word) : (State.setCtr s r i v).vote = s.vote := State.mk_vote
@[simp] theorem State.setCtr_rdn (s : State) (r : RegName) (i : Nat) (v : Word) : (State.setCtr s r i v).rdn = s.rdn := State.mk_rdn
@[simp] theorem State.setCtr_pwr (s : State) (r : RegName) (i : Nat) (v : Word) : (State.setCtr s r i v).pwr = s.pwr := State.mk_pwr
@[simp] theorem State.setCtr_flt (s : State) (r : RegName) (i : Nat) (v : Word) : (State.setCtr s r i v).flt = s.flt := State.mk_flt
@[simp] theorem State.setCtr_prt (s : State) (r : RegName) (i : Nat) (v : Word) : (State.setCtr s r i v).prt = s.prt := State.mk_prt
@[simp] theorem State.setCtr_mgt (s : State) (r : RegName) (i : Nat) (v : Word) : (State.setCtr s r i v).mgt = s.mgt := State.mk_mgt
@[simp] theorem State.setCtr_scn (s : State) (r : RegName) (i : Nat) (v : Word) : (State.setCtr s r i v).scn = s.scn := State.mk_scn
@[simp] theorem State.setCtr_tbl (s : State) (r : RegName) (i : Nat) (v : Word) : (State.setCtr s r i v).tbl = s.tbl := State.mk_tbl
@[simp] theorem State.setCtr_swc (s : State) (r : RegName) (i : Nat) (v : Word) : (State.setCtr s r i v).swc = s.swc := State.mk_swc
@[simp] theorem State.setCtr_tms (s : State) (r : RegName) (i : Nat) (v : Word) : (State.setCtr s r i v).tms = s.tms := State.mk_tms
@[simp] theorem State.setCtr_ofl (s : State) (r : RegName) (i : Nat) (v : Word) : (State.setCtr s r i v).ofl = s.ofl := State.mk_ofl
@[simp] theorem State.setCtr_cph (s : State) (r : RegName) (i : Nat) (v : Word) : (State.setCtr s r i v).cph = s.cph := State.mk_cph
@[simp] theorem State.setCtr_vlt (s : State) (r : RegName) (i : Nat) (v : Word) : (State.setCtr s r i v).vlt = s.vlt := State.mk_vlt
@[simp] theorem State.setCtr_hep (s : State) (r : RegName) (i : Nat) (v : Word) : (State.setCtr s r i v).hep = s.hep := State.mk_hep
@[simp] theorem State.setCtr_slc (s : State) (r : RegName) (i : Nat) (v : Word) : (State.setCtr s r i v).slc = s.slc := State.mk_slc
@[simp] theorem State.setCtr_qrg (s : State) (r : RegName) (i : Nat) (v : Word) : (State.setCtr s r i v).qrg = s.qrg := State.mk_qrg
@[simp] theorem State.setCtr_sto (s : State) (r : RegName) (i : Nat) (v : Word) : (State.setCtr s r i v).sto = s.sto := State.mk_sto
@[simp] theorem State.setCtr_bmv (s : State) (r : RegName) (i : Nat) (v : Word) : (State.setCtr s r i v).bmv = s.bmv := State.mk_bmv
@[simp] theorem State.setCtr_trp (s : State) (r : RegName) (i : Nat) (v : Word) : (State.setCtr s r i v).trp = s.trp := State.mk_trp
@[simp] theorem State.setCtr_cbd (s : State) (r : RegName) (i : Nat) (v : Word) : (State.setCtr s r i v).cbd = s.cbd := State.mk_cbd
@[simp] theorem State.setCtr_stk (s : State) (r : RegName) (i : Nat) (v : Word) : (State.setCtr s r i v).stk = s.stk := State.mk_stk
@[simp] theorem State.setCtr_mem (s : State) (r : RegName) (i : Nat) (v : Word) : (State.setCtr s r i v).mem = s.mem := State.mk_mem
@[simp] theorem State.bumpBy_pending (s : State) (r : RegName) (i : Nat) (n : Nat) : (State.bumpBy s r i n).pending = s.pending := State.setCtr_pending ..
@[simp] theorem State.bumpBy_regs (s : State) (r : RegName) (i : Nat) (n : Nat) : (State.bumpBy s r i n).regs = s.regs := State.setCtr_regs ..
@[simp] theorem State.bumpBy_out (s : State) (r : RegName) (i : Nat) (n : Nat) : (State.bumpBy s r i n).out = s.out := State.setCtr_out ..
@[simp] theorem State.bumpBy_draws (s : State) (r : RegName) (i : Nat) (n : Nat) : (State.bumpBy s r i n).draws = s.draws := State.setCtr_draws ..
@[simp] theorem State.bumpBy_clk (s : State) (r : RegName) (i : Nat) (n : Nat) : (State.bumpBy s r i n).clk = s.clk := State.setCtr_clk ..
@[simp] theorem State.bumpBy_pins (s : State) (r : RegName) (i : Nat) (n : Nat) : (State.bumpBy s r i n).pins = s.pins := State.setCtr_pins ..
@[simp] theorem State.bumpBy_dev (s : State) (r : RegName) (i : Nat) (n : Nat) : (State.bumpBy s r i n).dev = s.dev := State.setCtr_dev ..
@[simp] theorem State.bumpBy_flashA (s : State) (r : RegName) (i : Nat) (n : Nat) : (State.bumpBy s r i n).flashA = s.flashA := State.setCtr_flashA ..
@[simp] theorem State.bumpBy_flashB (s : State) (r : RegName) (i : Nat) (n : Nat) : (State.bumpBy s r i n).flashB = s.flashB := State.setCtr_flashB ..
@[simp] theorem State.bumpBy_acc (s : State) (r : RegName) (i : Nat) (n : Nat) : (State.bumpBy s r i n).acc = s.acc := State.setCtr_acc ..
@[simp] theorem State.bumpBy_vote (s : State) (r : RegName) (i : Nat) (n : Nat) : (State.bumpBy s r i n).vote = s.vote := State.setCtr_vote ..
@[simp] theorem State.bumpBy_rdn (s : State) (r : RegName) (i : Nat) (n : Nat) : (State.bumpBy s r i n).rdn = s.rdn := State.setCtr_rdn ..
@[simp] theorem State.bumpBy_pwr (s : State) (r : RegName) (i : Nat) (n : Nat) : (State.bumpBy s r i n).pwr = s.pwr := State.setCtr_pwr ..
@[simp] theorem State.bumpBy_flt (s : State) (r : RegName) (i : Nat) (n : Nat) : (State.bumpBy s r i n).flt = s.flt := State.setCtr_flt ..
@[simp] theorem State.bumpBy_prt (s : State) (r : RegName) (i : Nat) (n : Nat) : (State.bumpBy s r i n).prt = s.prt := State.setCtr_prt ..
@[simp] theorem State.bumpBy_mgt (s : State) (r : RegName) (i : Nat) (n : Nat) : (State.bumpBy s r i n).mgt = s.mgt := State.setCtr_mgt ..
@[simp] theorem State.bumpBy_scn (s : State) (r : RegName) (i : Nat) (n : Nat) : (State.bumpBy s r i n).scn = s.scn := State.setCtr_scn ..
@[simp] theorem State.bumpBy_tbl (s : State) (r : RegName) (i : Nat) (n : Nat) : (State.bumpBy s r i n).tbl = s.tbl := State.setCtr_tbl ..
@[simp] theorem State.bumpBy_swc (s : State) (r : RegName) (i : Nat) (n : Nat) : (State.bumpBy s r i n).swc = s.swc := State.setCtr_swc ..
@[simp] theorem State.bumpBy_tms (s : State) (r : RegName) (i : Nat) (n : Nat) : (State.bumpBy s r i n).tms = s.tms := State.setCtr_tms ..
@[simp] theorem State.bumpBy_ofl (s : State) (r : RegName) (i : Nat) (n : Nat) : (State.bumpBy s r i n).ofl = s.ofl := State.setCtr_ofl ..
@[simp] theorem State.bumpBy_cph (s : State) (r : RegName) (i : Nat) (n : Nat) : (State.bumpBy s r i n).cph = s.cph := State.setCtr_cph ..
@[simp] theorem State.bumpBy_vlt (s : State) (r : RegName) (i : Nat) (n : Nat) : (State.bumpBy s r i n).vlt = s.vlt := State.setCtr_vlt ..
@[simp] theorem State.bumpBy_hep (s : State) (r : RegName) (i : Nat) (n : Nat) : (State.bumpBy s r i n).hep = s.hep := State.setCtr_hep ..
@[simp] theorem State.bumpBy_slc (s : State) (r : RegName) (i : Nat) (n : Nat) : (State.bumpBy s r i n).slc = s.slc := State.setCtr_slc ..
@[simp] theorem State.bumpBy_qrg (s : State) (r : RegName) (i : Nat) (n : Nat) : (State.bumpBy s r i n).qrg = s.qrg := State.setCtr_qrg ..
@[simp] theorem State.bumpBy_sto (s : State) (r : RegName) (i : Nat) (n : Nat) : (State.bumpBy s r i n).sto = s.sto := State.setCtr_sto ..
@[simp] theorem State.bumpBy_bmv (s : State) (r : RegName) (i : Nat) (n : Nat) : (State.bumpBy s r i n).bmv = s.bmv := State.setCtr_bmv ..
@[simp] theorem State.bumpBy_trp (s : State) (r : RegName) (i : Nat) (n : Nat) : (State.bumpBy s r i n).trp = s.trp := State.setCtr_trp ..
@[simp] theorem State.bumpBy_cbd (s : State) (r : RegName) (i : Nat) (n : Nat) : (State.bumpBy s r i n).cbd = s.cbd := State.setCtr_cbd ..
@[simp] theorem State.bumpBy_stk (s : State) (r : RegName) (i : Nat) (n : Nat) : (State.bumpBy s r i n).stk = s.stk := State.setCtr_stk ..
@[simp] theorem State.bumpBy_mem (s : State) (r : RegName) (i : Nat) (n : Nat) : (State.bumpBy s r i n).mem = s.mem := State.setCtr_mem ..
@[simp] theorem State.bump_pending (s : State) (r : RegName) (i : Nat) : (State.bump s r i).pending = s.pending := State.bumpBy_pending ..
@[simp] theorem State.bump_regs (s : State) (r : RegName) (i : Nat) : (State.bump s r i).regs = s.regs := State.bumpBy_regs ..
@[simp] theorem State.bump_out (s : State) (r : RegName) (i : Nat) : (State.bump s r i).out = s.out := State.bumpBy_out ..
@[simp] theorem State.bump_draws (s : State) (r : RegName) (i : Nat) : (State.bump s r i).draws = s.draws := State.bumpBy_draws ..
@[simp] theorem State.bump_clk (s : State) (r : RegName) (i : Nat) : (State.bump s r i).clk = s.clk := State.bumpBy_clk ..
@[simp] theorem State.bump_pins (s : State) (r : RegName) (i : Nat) : (State.bump s r i).pins = s.pins := State.bumpBy_pins ..
@[simp] theorem State.bump_dev (s : State) (r : RegName) (i : Nat) : (State.bump s r i).dev = s.dev := State.bumpBy_dev ..
@[simp] theorem State.bump_flashA (s : State) (r : RegName) (i : Nat) : (State.bump s r i).flashA = s.flashA := State.bumpBy_flashA ..
@[simp] theorem State.bump_flashB (s : State) (r : RegName) (i : Nat) : (State.bump s r i).flashB = s.flashB := State.bumpBy_flashB ..
@[simp] theorem State.bump_acc (s : State) (r : RegName) (i : Nat) : (State.bump s r i).acc = s.acc := State.bumpBy_acc ..
@[simp] theorem State.bump_vote (s : State) (r : RegName) (i : Nat) : (State.bump s r i).vote = s.vote := State.bumpBy_vote ..
@[simp] theorem State.bump_rdn (s : State) (r : RegName) (i : Nat) : (State.bump s r i).rdn = s.rdn := State.bumpBy_rdn ..
@[simp] theorem State.bump_pwr (s : State) (r : RegName) (i : Nat) : (State.bump s r i).pwr = s.pwr := State.bumpBy_pwr ..
@[simp] theorem State.bump_flt (s : State) (r : RegName) (i : Nat) : (State.bump s r i).flt = s.flt := State.bumpBy_flt ..
@[simp] theorem State.bump_prt (s : State) (r : RegName) (i : Nat) : (State.bump s r i).prt = s.prt := State.bumpBy_prt ..
@[simp] theorem State.bump_mgt (s : State) (r : RegName) (i : Nat) : (State.bump s r i).mgt = s.mgt := State.bumpBy_mgt ..
@[simp] theorem State.bump_scn (s : State) (r : RegName) (i : Nat) : (State.bump s r i).scn = s.scn := State.bumpBy_scn ..
@[simp] theorem State.bump_tbl (s : State) (r : RegName) (i : Nat) : (State.bump s r i).tbl = s.tbl := State.bumpBy_tbl ..
@[simp] theorem State.bump_swc (s : State) (r : RegName) (i : Nat) : (State.bump s r i).swc = s.swc := State.bumpBy_swc ..
@[simp] theorem State.bump_tms (s : State) (r : RegName) (i : Nat) : (State.bump s r i).tms = s.tms := State.bumpBy_tms ..
@[simp] theorem State.bump_ofl (s : State) (r : RegName) (i : Nat) : (State.bump s r i).ofl = s.ofl := State.bumpBy_ofl ..
@[simp] theorem State.bump_cph (s : State) (r : RegName) (i : Nat) : (State.bump s r i).cph = s.cph := State.bumpBy_cph ..
@[simp] theorem State.bump_vlt (s : State) (r : RegName) (i : Nat) : (State.bump s r i).vlt = s.vlt := State.bumpBy_vlt ..
@[simp] theorem State.bump_hep (s : State) (r : RegName) (i : Nat) : (State.bump s r i).hep = s.hep := State.bumpBy_hep ..
@[simp] theorem State.bump_slc (s : State) (r : RegName) (i : Nat) : (State.bump s r i).slc = s.slc := State.bumpBy_slc ..
@[simp] theorem State.bump_qrg (s : State) (r : RegName) (i : Nat) : (State.bump s r i).qrg = s.qrg := State.bumpBy_qrg ..
@[simp] theorem State.bump_sto (s : State) (r : RegName) (i : Nat) : (State.bump s r i).sto = s.sto := State.bumpBy_sto ..
@[simp] theorem State.bump_bmv (s : State) (r : RegName) (i : Nat) : (State.bump s r i).bmv = s.bmv := State.bumpBy_bmv ..
@[simp] theorem State.bump_trp (s : State) (r : RegName) (i : Nat) : (State.bump s r i).trp = s.trp := State.bumpBy_trp ..
@[simp] theorem State.bump_cbd (s : State) (r : RegName) (i : Nat) : (State.bump s r i).cbd = s.cbd := State.bumpBy_cbd ..
@[simp] theorem State.bump_stk (s : State) (r : RegName) (i : Nat) : (State.bump s r i).stk = s.stk := State.bumpBy_stk ..
@[simp] theorem State.bump_mem (s : State) (r : RegName) (i : Nat) : (State.bump s r i).mem = s.mem := State.bumpBy_mem ..
@[simp] theorem State.emit_pending (s : State) (o : Out) : (State.emit s o).pending = s.pending := State.mk_pending
@[simp] theorem State.emit_regs (s : State) (o : Out) : (State.emit s o).regs = s.regs := State.mk_regs
@[simp] theorem State.emit_ctrs (s : State) (o : Out) : (State.emit s o).ctrs = s.ctrs := State.mk_ctrs
@[simp] theorem State.emit_draws (s : State) (o : Out) : (State.emit s o).draws = s.draws := State.mk_draws
@[simp] theorem State.emit_clk (s : State) (o : Out) : (State.emit s o).clk = s.clk := State.mk_clk
@[simp] theorem State.emit_pins (s : State) (o : Out) : (State.emit s o).pins = s.pins := State.mk_pins
@[simp] theorem State.emit_dev (s : State) (o : Out) : (State.emit s o).dev = s.dev := State.mk_dev
@[simp] theorem State.emit_flashA (s : State) (o : Out) : (State.emit s o).flashA = s.flashA := State.mk_flashA
@[simp] theorem State.emit_flashB (s : State) (o : Out) : (State.emit s o).flashB = s.flashB := State.mk_flashB
@[simp] theorem State.emit_acc (s : State) (o : Out) : (State.emit s o).acc = s.acc := State.mk_acc
@[simp] theorem State.emit_vote (s : State) (o : Out) : (State.emit s o).vote = s.vote := State.mk_vote
@[simp] theorem State.emit_rdn (s : State) (o : Out) : (State.emit s o).rdn = s.rdn := State.mk_rdn
@[simp] theorem State.emit_pwr (s : State) (o : Out) : (State.emit s o).pwr = s.pwr := State.mk_pwr
@[simp] theorem State.emit_flt (s : State) (o : Out) : (State.emit s o).flt = s.flt := State.mk_flt
@[simp] theorem State.emit_prt (s : State) (o : Out) : (State.emit s o).prt = s.prt := State.mk_prt
@[simp] theorem State.emit_mgt (s : State) (o : Out) : (State.emit s o).mgt = s.mgt := State.mk_mgt
@[simp] theorem State.emit_scn (s : State) (o : Out) : (State.emit s o).scn = s.scn := State.mk_scn
@[simp] theorem State.emit_tbl (s : State) (o : Out) : (State.emit s o).tbl = s.tbl := State.mk_tbl
@[simp] theorem State.emit_swc (s : State) (o : Out) : (State.emit s o).swc = s.swc := State.mk_swc
@[simp] theorem State.emit_tms (s : State) (o : Out) : (State.emit s o).tms = s.tms := State.mk_tms
@[simp] theorem State.emit_ofl (s : State) (o : Out) : (State.emit s o).ofl = s.ofl := State.mk_ofl
@[simp] theorem State.emit_cph (s : State) (o : Out) : (State.emit s o).cph = s.cph := State.mk_cph
@[simp] theorem State.emit_vlt (s : State) (o : Out) : (State.emit s o).vlt = s.vlt := State.mk_vlt
@[simp] theorem State.emit_hep (s : State) (o : Out) : (State.emit s o).hep = s.hep := State.mk_hep
@[simp] theorem State.emit_slc (s : State) (o : Out) : (State.emit s o).slc = s.slc := State.mk_slc
@[simp] theorem State.emit_qrg (s : State) (o : Out) : (State.emit s o).qrg = s.qrg := State.mk_qrg
@[simp] theorem State.emit_sto (s : State) (o : Out) : (State.emit s o).sto = s.sto := State.mk_sto
@[simp] theorem State.emit_bmv (s : State) (o : Out) : (State.emit s o).bmv = s.bmv := State.mk_bmv
@[simp] theorem State.emit_trp (s : State) (o : Out) : (State.emit s o).trp = s.trp := State.mk_trp
@[simp] theorem State.emit_cbd (s : State) (o : Out) : (State.emit s o).cbd = s.cbd := State.mk_cbd
@[simp] theorem State.emit_stk (s : State) (o : Out) : (State.emit s o).stk = s.stk := State.mk_stk
@[simp] theorem State.emit_mem (s : State) (o : Out) : (State.emit s o).mem = s.mem := State.mk_mem
@[simp] theorem State.drew_pending (s : State) : (State.drew s).pending = s.pending := State.mk_pending
@[simp] theorem State.drew_regs (s : State) : (State.drew s).regs = s.regs := State.mk_regs
@[simp] theorem State.drew_ctrs (s : State) : (State.drew s).ctrs = s.ctrs := State.mk_ctrs
@[simp] theorem State.drew_out (s : State) : (State.drew s).out = s.out := State.mk_out
@[simp] theorem State.drew_clk (s : State) : (State.drew s).clk = s.clk := State.mk_clk
@[simp] theorem State.drew_pins (s : State) : (State.drew s).pins = s.pins := State.mk_pins
@[simp] theorem State.drew_dev (s : State) : (State.drew s).dev = s.dev := State.mk_dev
@[simp] theorem State.drew_flashA (s : State) : (State.drew s).flashA = s.flashA := State.mk_flashA
@[simp] theorem State.drew_flashB (s : State) : (State.drew s).flashB = s.flashB := State.mk_flashB
@[simp] theorem State.drew_acc (s : State) : (State.drew s).acc = s.acc := State.mk_acc
@[simp] theorem State.drew_vote (s : State) : (State.drew s).vote = s.vote := State.mk_vote
@[simp] theorem State.drew_rdn (s : State) : (State.drew s).rdn = s.rdn := State.mk_rdn
@[simp] theorem State.drew_pwr (s : State) : (State.drew s).pwr = s.pwr := State.mk_pwr
@[simp] theorem State.drew_flt (s : State) : (State.drew s).flt = s.flt := State.mk_flt
@[simp] theorem State.drew_prt (s : State) : (State.drew s).prt = s.prt := State.mk_prt
@[simp] theorem State.drew_mgt (s : State) : (State.drew s).mgt = s.mgt := State.mk_mgt
@[simp] theorem State.drew_scn (s : State) : (State.drew s).scn = s.scn := State.mk_scn
@[simp] theorem State.drew_tbl (s : State) : (State.drew s).tbl = s.tbl := State.mk_tbl
@[simp] theorem State.drew_swc (s : State) : (State.drew s).swc = s.swc := State.mk_swc
@[simp] theorem State.drew_tms (s : State) : (State.drew s).tms = s.tms := State.mk_tms
@[simp] theorem State.drew_ofl (s : State) : (State.drew s).ofl = s.ofl := State.mk_ofl
@[simp] theorem State.drew_cph (s : State) : (State.drew s).cph = s.cph := State.mk_cph
@[simp] theorem State.drew_vlt (s : State) : (State.drew s).vlt = s.vlt := State.mk_vlt
@[simp] theorem State.drew_hep (s : State) : (State.drew s).hep = s.hep := State.mk_hep
@[simp] theorem State.drew_slc (s : State) : (State.drew s).slc = s.slc := State.mk_slc
@[simp] theorem State.drew_qrg (s : State) : (State.drew s).qrg = s.qrg := State.mk_qrg
@[simp] theorem State.drew_sto (s : State) : (State.drew s).sto = s.sto := State.mk_sto
@[simp] theorem State.drew_bmv (s : State) : (State.drew s).bmv = s.bmv := State.mk_bmv
@[simp] theorem State.drew_trp (s : State) : (State.drew s).trp = s.trp := State.mk_trp
@[simp] theorem State.drew_cbd (s : State) : (State.drew s).cbd = s.cbd := State.mk_cbd
@[simp] theorem State.drew_stk (s : State) : (State.drew s).stk = s.stk := State.mk_stk
@[simp] theorem State.drew_mem (s : State) : (State.drew s).mem = s.mem := State.mk_mem
@[simp] theorem State.setPort_pending (s : State) (p : Nat) (v : Port) : (State.setPort s p v).pending = s.pending := State.mk_pending
@[simp] theorem State.setPort_regs (s : State) (p : Nat) (v : Port) : (State.setPort s p v).regs = s.regs := State.mk_regs
@[simp] theorem State.setPort_ctrs (s : State) (p : Nat) (v : Port) : (State.setPort s p v).ctrs = s.ctrs := State.mk_ctrs
@[simp] theorem State.setPort_out (s : State) (p : Nat) (v : Port) : (State.setPort s p v).out = s.out := State.mk_out
@[simp] theorem State.setPort_draws (s : State) (p : Nat) (v : Port) : (State.setPort s p v).draws = s.draws := State.mk_draws
@[simp] theorem State.setPort_clk (s : State) (p : Nat) (v : Port) : (State.setPort s p v).clk = s.clk := State.mk_clk
@[simp] theorem State.setPort_pins (s : State) (p : Nat) (v : Port) : (State.setPort s p v).pins = s.pins := State.mk_pins
@[simp] theorem State.setPort_dev (s : State) (p : Nat) (v : Port) : (State.setPort s p v).dev = s.dev := State.mk_dev
@[simp] theorem State.setPort_flashA (s : State) (p : Nat) (v : Port) : (State.setPort s p v).flashA = s.flashA := State.mk_flashA
@[simp] theorem State.setPort_flashB (s : State) (p : Nat) (v : Port) : (State.setPort s p v).flashB = s.flashB := State.mk_flashB
@[simp] theorem State.setPort_acc (s : State) (p : Nat) (v : Port) : (State.setPort s p v).acc = s.acc := State.mk_acc
@[simp] theorem State.setPort_vote (s : State) (p : Nat) (v : Port) : (State.setPort s p v).vote = s.vote := State.mk_vote
@[simp] theorem State.setPort_rdn (s : State) (p : Nat) (v : Port) : (State.setPort s p v).rdn = s.rdn := State.mk_rdn
@[simp] theorem State.setPort_pwr (s : State) (p : Nat) (v : Port) : (State.setPort s p v).pwr = s.pwr := State.mk_pwr
@[simp] theorem State.setPort_flt (s : State) (p : Nat) (v : Port) : (State.setPort s p v).flt = s.flt := State.mk_flt
@[simp] theorem State.setPort_mgt (s : State) (p : Nat) (v : Port) : (State.setPort s p v).mgt = s.mgt := State.mk_mgt
@[simp] theorem State.setPort_scn (s : State) (p : Nat) (v : Port) : (State.setPort s p v).scn = s.scn := State.mk_scn
@[simp] theorem State.setPort_tbl (s : State) (p : Nat) (v : Port) : (State.setPort s p v).tbl = s.tbl := State.mk_tbl
@[simp] theorem State.setPort_swc (s : State) (p : Nat) (v : Port) : (State.setPort s p v).swc = s.swc := State.mk_swc
@[simp] theorem State.setPort_tms (s : State) (p : Nat) (v : Port) : (State.setPort s p v).tms = s.tms := State.mk_tms
@[simp] theorem State.setPort_ofl (s : State) (p : Nat) (v : Port) : (State.setPort s p v).ofl = s.ofl := State.mk_ofl
@[simp] theorem State.setPort_cph (s : State) (p : Nat) (v : Port) : (State.setPort s p v).cph = s.cph := State.mk_cph
@[simp] theorem State.setPort_vlt (s : State) (p : Nat) (v : Port) : (State.setPort s p v).vlt = s.vlt := State.mk_vlt
@[simp] theorem State.setPort_hep (s : State) (p : Nat) (v : Port) : (State.setPort s p v).hep = s.hep := State.mk_hep
@[simp] theorem State.setPort_slc (s : State) (p : Nat) (v : Port) : (State.setPort s p v).slc = s.slc := State.mk_slc
@[simp] theorem State.setPort_qrg (s : State) (p : Nat) (v : Port) : (State.setPort s p v).qrg = s.qrg := State.mk_qrg
@[simp] theorem State.setPort_sto (s : State) (p : Nat) (v : Port) : (State.setPort s p v).sto = s.sto := State.mk_sto
@[simp] theorem State.setPort_bmv (s : State) (p : Nat) (v : Port) : (State.setPort s p v).bmv = s.bmv := State.mk_bmv
@[simp] theorem State.setPort_trp (s : State) (p : Nat) (v : Port) : (State.setPort s p v).trp = s.trp := State.mk_trp
@[simp] theorem State.setPort_cbd (s : State) (p : Nat) (v : Port) : (State.setPort s p v).cbd = s.cbd := State.mk_cbd
@[simp] theorem State.setPort_stk (s : State) (p : Nat) (v : Port) : (State.setPort s p v).stk = s.stk := State.mk_stk
@[simp] theorem State.setPort_mem (s : State) (p : Nat) (v : Port) : (State.setPort s p v).mem = s.mem := State.mk_mem
@[simp] theorem State.setLsm_pending (s : State) (e : Nat) (v : Lsm) : (State.setLsm s e v).pending = s.pending := State.mk_pending
@[simp] theorem State.setLsm_regs (s : State) (e : Nat) (v : Lsm) : (State.setLsm s e v).regs = s.regs := State.mk_regs
@[simp] theorem State.setLsm_ctrs (s : State) (e : Nat) (v : Lsm) : (State.setLsm s e v).ctrs = s.ctrs := State.mk_ctrs
@[simp] theorem State.setLsm_out (s : State) (e : Nat) (v : Lsm) : (State.setLsm s e v).out = s.out := State.mk_out
@[simp] theorem State.setLsm_draws (s : State) (e : Nat) (v : Lsm) : (State.setLsm s e v).draws = s.draws := State.mk_draws
@[simp] theorem State.setLsm_clk (s : State) (e : Nat) (v : Lsm) : (State.setLsm s e v).clk = s.clk := State.mk_clk
@[simp] theorem State.setLsm_pins (s : State) (e : Nat) (v : Lsm) : (State.setLsm s e v).pins = s.pins := State.mk_pins
@[simp] theorem State.setLsm_dev (s : State) (e : Nat) (v : Lsm) : (State.setLsm s e v).dev = s.dev := State.mk_dev
@[simp] theorem State.setLsm_flashA (s : State) (e : Nat) (v : Lsm) : (State.setLsm s e v).flashA = s.flashA := State.mk_flashA
@[simp] theorem State.setLsm_flashB (s : State) (e : Nat) (v : Lsm) : (State.setLsm s e v).flashB = s.flashB := State.mk_flashB
@[simp] theorem State.setLsm_acc (s : State) (e : Nat) (v : Lsm) : (State.setLsm s e v).acc = s.acc := State.mk_acc
@[simp] theorem State.setLsm_vote (s : State) (e : Nat) (v : Lsm) : (State.setLsm s e v).vote = s.vote := State.mk_vote
@[simp] theorem State.setLsm_rdn (s : State) (e : Nat) (v : Lsm) : (State.setLsm s e v).rdn = s.rdn := State.mk_rdn
@[simp] theorem State.setLsm_pwr (s : State) (e : Nat) (v : Lsm) : (State.setLsm s e v).pwr = s.pwr := State.mk_pwr
@[simp] theorem State.setLsm_flt (s : State) (e : Nat) (v : Lsm) : (State.setLsm s e v).flt = s.flt := State.mk_flt
@[simp] theorem State.setLsm_mgt (s : State) (e : Nat) (v : Lsm) : (State.setLsm s e v).mgt = s.mgt := State.mk_mgt
@[simp] theorem State.setLsm_scn (s : State) (e : Nat) (v : Lsm) : (State.setLsm s e v).scn = s.scn := State.mk_scn
@[simp] theorem State.setLsm_tbl (s : State) (e : Nat) (v : Lsm) : (State.setLsm s e v).tbl = s.tbl := State.mk_tbl
@[simp] theorem State.setLsm_swc (s : State) (e : Nat) (v : Lsm) : (State.setLsm s e v).swc = s.swc := State.mk_swc
@[simp] theorem State.setLsm_tms (s : State) (e : Nat) (v : Lsm) : (State.setLsm s e v).tms = s.tms := State.mk_tms
@[simp] theorem State.setLsm_ofl (s : State) (e : Nat) (v : Lsm) : (State.setLsm s e v).ofl = s.ofl := State.mk_ofl
@[simp] theorem State.setLsm_cph (s : State) (e : Nat) (v : Lsm) : (State.setLsm s e v).cph = s.cph := State.mk_cph
@[simp] theorem State.setLsm_vlt (s : State) (e : Nat) (v : Lsm) : (State.setLsm s e v).vlt = s.vlt := State.mk_vlt
@[simp] theorem State.setLsm_hep (s : State) (e : Nat) (v : Lsm) : (State.setLsm s e v).hep = s.hep := State.mk_hep
@[simp] theorem State.setLsm_slc (s : State) (e : Nat) (v : Lsm) : (State.setLsm s e v).slc = s.slc := State.mk_slc
@[simp] theorem State.setLsm_qrg (s : State) (e : Nat) (v : Lsm) : (State.setLsm s e v).qrg = s.qrg := State.mk_qrg
@[simp] theorem State.setLsm_sto (s : State) (e : Nat) (v : Lsm) : (State.setLsm s e v).sto = s.sto := State.mk_sto
@[simp] theorem State.setLsm_bmv (s : State) (e : Nat) (v : Lsm) : (State.setLsm s e v).bmv = s.bmv := State.mk_bmv
@[simp] theorem State.setLsm_trp (s : State) (e : Nat) (v : Lsm) : (State.setLsm s e v).trp = s.trp := State.mk_trp
@[simp] theorem State.setLsm_cbd (s : State) (e : Nat) (v : Lsm) : (State.setLsm s e v).cbd = s.cbd := State.mk_cbd
@[simp] theorem State.setLsm_stk (s : State) (e : Nat) (v : Lsm) : (State.setLsm s e v).stk = s.stk := State.mk_stk
@[simp] theorem State.setLsm_mem (s : State) (e : Nat) (v : Lsm) : (State.setLsm s e v).mem = s.mem := State.mk_mem
@[simp] theorem State.setUnit_pending (s : State) (u : Nat) (v : CtlUnit) : (State.setUnit s u v).pending = s.pending := State.mk_pending
@[simp] theorem State.setUnit_regs (s : State) (u : Nat) (v : CtlUnit) : (State.setUnit s u v).regs = s.regs := State.mk_regs
@[simp] theorem State.setUnit_ctrs (s : State) (u : Nat) (v : CtlUnit) : (State.setUnit s u v).ctrs = s.ctrs := State.mk_ctrs
@[simp] theorem State.setUnit_out (s : State) (u : Nat) (v : CtlUnit) : (State.setUnit s u v).out = s.out := State.mk_out
@[simp] theorem State.setUnit_draws (s : State) (u : Nat) (v : CtlUnit) : (State.setUnit s u v).draws = s.draws := State.mk_draws
@[simp] theorem State.setUnit_clk (s : State) (u : Nat) (v : CtlUnit) : (State.setUnit s u v).clk = s.clk := State.mk_clk
@[simp] theorem State.setUnit_pins (s : State) (u : Nat) (v : CtlUnit) : (State.setUnit s u v).pins = s.pins := State.mk_pins
@[simp] theorem State.setUnit_dev (s : State) (u : Nat) (v : CtlUnit) : (State.setUnit s u v).dev = s.dev := State.mk_dev
@[simp] theorem State.setUnit_flashA (s : State) (u : Nat) (v : CtlUnit) : (State.setUnit s u v).flashA = s.flashA := State.mk_flashA
@[simp] theorem State.setUnit_flashB (s : State) (u : Nat) (v : CtlUnit) : (State.setUnit s u v).flashB = s.flashB := State.mk_flashB
@[simp] theorem State.setUnit_acc (s : State) (u : Nat) (v : CtlUnit) : (State.setUnit s u v).acc = s.acc := State.mk_acc
@[simp] theorem State.setUnit_vote (s : State) (u : Nat) (v : CtlUnit) : (State.setUnit s u v).vote = s.vote := State.mk_vote
@[simp] theorem State.setUnit_pwr (s : State) (u : Nat) (v : CtlUnit) : (State.setUnit s u v).pwr = s.pwr := State.mk_pwr
@[simp] theorem State.setUnit_flt (s : State) (u : Nat) (v : CtlUnit) : (State.setUnit s u v).flt = s.flt := State.mk_flt
@[simp] theorem State.setUnit_prt (s : State) (u : Nat) (v : CtlUnit) : (State.setUnit s u v).prt = s.prt := State.mk_prt
@[simp] theorem State.setUnit_mgt (s : State) (u : Nat) (v : CtlUnit) : (State.setUnit s u v).mgt = s.mgt := State.mk_mgt
@[simp] theorem State.setUnit_scn (s : State) (u : Nat) (v : CtlUnit) : (State.setUnit s u v).scn = s.scn := State.mk_scn
@[simp] theorem State.setUnit_tbl (s : State) (u : Nat) (v : CtlUnit) : (State.setUnit s u v).tbl = s.tbl := State.mk_tbl
@[simp] theorem State.setUnit_swc (s : State) (u : Nat) (v : CtlUnit) : (State.setUnit s u v).swc = s.swc := State.mk_swc
@[simp] theorem State.setUnit_tms (s : State) (u : Nat) (v : CtlUnit) : (State.setUnit s u v).tms = s.tms := State.mk_tms
@[simp] theorem State.setUnit_ofl (s : State) (u : Nat) (v : CtlUnit) : (State.setUnit s u v).ofl = s.ofl := State.mk_ofl
@[simp] theorem State.setUnit_cph (s : State) (u : Nat) (v : CtlUnit) : (State.setUnit s u v).cph = s.cph := State.mk_cph
@[simp] theorem State.setUnit_vlt (s : State) (u : Nat) (v : CtlUnit) : (State.setUnit s u v).vlt = s.vlt := State.mk_vlt
@[simp] theorem State.setUnit_hep (s : State) (u : Nat) (v : CtlUnit) : (State.setUnit s u v).hep = s.hep := State.mk_hep
@[simp] theorem State.setUnit_slc (s : State) (u : Nat) (v : CtlUnit) : (State.setUnit s u v).slc = s.slc := State.mk_slc
@[simp] theorem State.setUnit_qrg (s : State) (u : Nat) (v : CtlUnit) : (State.setUnit s u v).qrg = s.qrg := State.mk_qrg
@[simp] theorem State.setUnit_sto (s : State) (u : Nat) (v : CtlUnit) : (State.setUnit s u v).sto = s.sto := State.mk_sto
@[simp] theorem State.setUnit_bmv (s : State) (u : Nat) (v : CtlUnit) : (State.setUnit s u v).bmv = s.bmv := State.mk_bmv
@[simp] theorem State.setUnit_trp (s : State) (u : Nat) (v : CtlUnit) : (State.setUnit s u v).trp = s.trp := State.mk_trp
@[simp] theorem State.setUnit_cbd (s : State) (u : Nat) (v : CtlUnit) : (State.setUnit s u v).cbd = s.cbd := State.mk_cbd
@[simp] theorem State.setUnit_stk (s : State) (u : Nat) (v : CtlUnit) : (State.setUnit s u v).stk = s.stk := State.mk_stk
@[simp] theorem State.setUnit_mem (s : State) (u : Nat) (v : CtlUnit) : (State.setUnit s u v).mem = s.mem := State.mk_mem
@[simp] theorem State.setGap_pending (s : State) (pair : Nat) (g : Gap) : (State.setGap s pair g).pending = s.pending := State.mk_pending
@[simp] theorem State.setGap_regs (s : State) (pair : Nat) (g : Gap) : (State.setGap s pair g).regs = s.regs := State.mk_regs
@[simp] theorem State.setGap_ctrs (s : State) (pair : Nat) (g : Gap) : (State.setGap s pair g).ctrs = s.ctrs := State.mk_ctrs
@[simp] theorem State.setGap_out (s : State) (pair : Nat) (g : Gap) : (State.setGap s pair g).out = s.out := State.mk_out
@[simp] theorem State.setGap_draws (s : State) (pair : Nat) (g : Gap) : (State.setGap s pair g).draws = s.draws := State.mk_draws
@[simp] theorem State.setGap_clk (s : State) (pair : Nat) (g : Gap) : (State.setGap s pair g).clk = s.clk := State.mk_clk
@[simp] theorem State.setGap_pins (s : State) (pair : Nat) (g : Gap) : (State.setGap s pair g).pins = s.pins := State.mk_pins
@[simp] theorem State.setGap_dev (s : State) (pair : Nat) (g : Gap) : (State.setGap s pair g).dev = s.dev := State.mk_dev
@[simp] theorem State.setGap_flashA (s : State) (pair : Nat) (g : Gap) : (State.setGap s pair g).flashA = s.flashA := State.mk_flashA
@[simp] theorem State.setGap_flashB (s : State) (pair : Nat) (g : Gap) : (State.setGap s pair g).flashB = s.flashB := State.mk_flashB
@[simp] theorem State.setGap_acc (s : State) (pair : Nat) (g : Gap) : (State.setGap s pair g).acc = s.acc := State.mk_acc
@[simp] theorem State.setGap_vote (s : State) (pair : Nat) (g : Gap) : (State.setGap s pair g).vote = s.vote := State.mk_vote
@[simp] theorem State.setGap_pwr (s : State) (pair : Nat) (g : Gap) : (State.setGap s pair g).pwr = s.pwr := State.mk_pwr
@[simp] theorem State.setGap_flt (s : State) (pair : Nat) (g : Gap) : (State.setGap s pair g).flt = s.flt := State.mk_flt
@[simp] theorem State.setGap_prt (s : State) (pair : Nat) (g : Gap) : (State.setGap s pair g).prt = s.prt := State.mk_prt
@[simp] theorem State.setGap_mgt (s : State) (pair : Nat) (g : Gap) : (State.setGap s pair g).mgt = s.mgt := State.mk_mgt
@[simp] theorem State.setGap_scn (s : State) (pair : Nat) (g : Gap) : (State.setGap s pair g).scn = s.scn := State.mk_scn
@[simp] theorem State.setGap_tbl (s : State) (pair : Nat) (g : Gap) : (State.setGap s pair g).tbl = s.tbl := State.mk_tbl
@[simp] theorem State.setGap_swc (s : State) (pair : Nat) (g : Gap) : (State.setGap s pair g).swc = s.swc := State.mk_swc
@[simp] theorem State.setGap_tms (s : State) (pair : Nat) (g : Gap) : (State.setGap s pair g).tms = s.tms := State.mk_tms
@[simp] theorem State.setGap_ofl (s : State) (pair : Nat) (g : Gap) : (State.setGap s pair g).ofl = s.ofl := State.mk_ofl
@[simp] theorem State.setGap_cph (s : State) (pair : Nat) (g : Gap) : (State.setGap s pair g).cph = s.cph := State.mk_cph
@[simp] theorem State.setGap_vlt (s : State) (pair : Nat) (g : Gap) : (State.setGap s pair g).vlt = s.vlt := State.mk_vlt
@[simp] theorem State.setGap_hep (s : State) (pair : Nat) (g : Gap) : (State.setGap s pair g).hep = s.hep := State.mk_hep
@[simp] theorem State.setGap_slc (s : State) (pair : Nat) (g : Gap) : (State.setGap s pair g).slc = s.slc := State.mk_slc
@[simp] theorem State.setGap_qrg (s : State) (pair : Nat) (g : Gap) : (State.setGap s pair g).qrg = s.qrg := State.mk_qrg
@[simp] theorem State.setGap_sto (s : State) (pair : Nat) (g : Gap) : (State.setGap s pair g).sto = s.sto := State.mk_sto
@[simp] theorem State.setGap_bmv (s : State) (pair : Nat) (g : Gap) : (State.setGap s pair g).bmv = s.bmv := State.mk_bmv
@[simp] theorem State.setGap_trp (s : State) (pair : Nat) (g : Gap) : (State.setGap s pair g).trp = s.trp := State.mk_trp
@[simp] theorem State.setGap_cbd (s : State) (pair : Nat) (g : Gap) : (State.setGap s pair g).cbd = s.cbd := State.mk_cbd
@[simp] theorem State.setGap_stk (s : State) (pair : Nat) (g : Gap) : (State.setGap s pair g).stk = s.stk := State.mk_stk
@[simp] theorem State.setGap_mem (s : State) (pair : Nat) (g : Gap) : (State.setGap s pair g).mem = s.mem := State.mk_mem
@[simp] theorem State.setDomain_pending (s : State) (d : Nat) (v : Domain) : (State.setDomain s d v).pending = s.pending := State.mk_pending
@[simp] theorem State.setDomain_regs (s : State) (d : Nat) (v : Domain) : (State.setDomain s d v).regs = s.regs := State.mk_regs
@[simp] theorem State.setDomain_ctrs (s : State) (d : Nat) (v : Domain) : (State.setDomain s d v).ctrs = s.ctrs := State.mk_ctrs
@[simp] theorem State.setDomain_out (s : State) (d : Nat) (v : Domain) : (State.setDomain s d v).out = s.out := State.mk_out
@[simp] theorem State.setDomain_draws (s : State) (d : Nat) (v : Domain) : (State.setDomain s d v).draws = s.draws := State.mk_draws
@[simp] theorem State.setDomain_clk (s : State) (d : Nat) (v : Domain) : (State.setDomain s d v).clk = s.clk := State.mk_clk
@[simp] theorem State.setDomain_pins (s : State) (d : Nat) (v : Domain) : (State.setDomain s d v).pins = s.pins := State.mk_pins
@[simp] theorem State.setDomain_dev (s : State) (d : Nat) (v : Domain) : (State.setDomain s d v).dev = s.dev := State.mk_dev
@[simp] theorem State.setDomain_flashA (s : State) (d : Nat) (v : Domain) : (State.setDomain s d v).flashA = s.flashA := State.mk_flashA
@[simp] theorem State.setDomain_flashB (s : State) (d : Nat) (v : Domain) : (State.setDomain s d v).flashB = s.flashB := State.mk_flashB
@[simp] theorem State.setDomain_acc (s : State) (d : Nat) (v : Domain) : (State.setDomain s d v).acc = s.acc := State.mk_acc
@[simp] theorem State.setDomain_vote (s : State) (d : Nat) (v : Domain) : (State.setDomain s d v).vote = s.vote := State.mk_vote
@[simp] theorem State.setDomain_rdn (s : State) (d : Nat) (v : Domain) : (State.setDomain s d v).rdn = s.rdn := State.mk_rdn
@[simp] theorem State.setDomain_flt (s : State) (d : Nat) (v : Domain) : (State.setDomain s d v).flt = s.flt := State.mk_flt
@[simp] theorem State.setDomain_prt (s : State) (d : Nat) (v : Domain) : (State.setDomain s d v).prt = s.prt := State.mk_prt
@[simp] theorem State.setDomain_mgt (s : State) (d : Nat) (v : Domain) : (State.setDomain s d v).mgt = s.mgt := State.mk_mgt
@[simp] theorem State.setDomain_scn (s : State) (d : Nat) (v : Domain) : (State.setDomain s d v).scn = s.scn := State.mk_scn
@[simp] theorem State.setDomain_tbl (s : State) (d : Nat) (v : Domain) : (State.setDomain s d v).tbl = s.tbl := State.mk_tbl
@[simp] theorem State.setDomain_swc (s : State) (d : Nat) (v : Domain) : (State.setDomain s d v).swc = s.swc := State.mk_swc
@[simp] theorem State.setDomain_tms (s : State) (d : Nat) (v : Domain) : (State.setDomain s d v).tms = s.tms := State.mk_tms
@[simp] theorem State.setDomain_ofl (s : State) (d : Nat) (v : Domain) : (State.setDomain s d v).ofl = s.ofl := State.mk_ofl
@[simp] theorem State.setDomain_cph (s : State) (d : Nat) (v : Domain) : (State.setDomain s d v).cph = s.cph := State.mk_cph
@[simp] theorem State.setDomain_vlt (s : State) (d : Nat) (v : Domain) : (State.setDomain s d v).vlt = s.vlt := State.mk_vlt
@[simp] theorem State.setDomain_hep (s : State) (d : Nat) (v : Domain) : (State.setDomain s d v).hep = s.hep := State.mk_hep
@[simp] theorem State.setDomain_slc (s : State) (d : Nat) (v : Domain) : (State.setDomain s d v).slc = s.slc := State.mk_slc
@[simp] theorem State.setDomain_qrg (s : State) (d : Nat) (v : Domain) : (State.setDomain s d v).qrg = s.qrg := State.mk_qrg
@[simp] theorem State.setDomain_sto (s : State) (d : Nat) (v : Domain) : (State.setDomain s d v).sto = s.sto := State.mk_sto
@[simp] theorem State.setDomain_bmv (s : State) (d : Nat) (v : Domain) : (State.setDomain s d v).bmv = s.bmv := State.mk_bmv
@[simp] theorem State.setDomain_trp (s : State) (d : Nat) (v : Domain) : (State.setDomain s d v).trp = s.trp := State.mk_trp
@[simp] theorem State.setDomain_cbd (s : State) (d : Nat) (v : Domain) : (State.setDomain s d v).cbd = s.cbd := State.mk_cbd
@[simp] theorem State.setDomain_stk (s : State) (d : Nat) (v : Domain) : (State.setDomain s d v).stk = s.stk := State.mk_stk
@[simp] theorem State.setDomain_mem (s : State) (d : Nat) (v : Domain) : (State.setDomain s d v).mem = s.mem := State.mk_mem
@[simp] theorem State.domainStatus_pending (s : State) (d : Nat) (c : Nat) : (State.domainStatus s d c).pending = s.pending := State.setFld_pending ..
@[simp] theorem State.domainStatus_ctrs (s : State) (d : Nat) (c : Nat) : (State.domainStatus s d c).ctrs = s.ctrs := State.setFld_ctrs ..
@[simp] theorem State.domainStatus_out (s : State) (d : Nat) (c : Nat) : (State.domainStatus s d c).out = s.out := State.setFld_out ..
@[simp] theorem State.domainStatus_draws (s : State) (d : Nat) (c : Nat) : (State.domainStatus s d c).draws = s.draws := State.setFld_draws ..
@[simp] theorem State.domainStatus_clk (s : State) (d : Nat) (c : Nat) : (State.domainStatus s d c).clk = s.clk := State.setFld_clk ..
@[simp] theorem State.domainStatus_pins (s : State) (d : Nat) (c : Nat) : (State.domainStatus s d c).pins = s.pins := State.setFld_pins ..
@[simp] theorem State.domainStatus_dev (s : State) (d : Nat) (c : Nat) : (State.domainStatus s d c).dev = s.dev := State.setFld_dev ..
@[simp] theorem State.domainStatus_flashA (s : State) (d : Nat) (c : Nat) : (State.domainStatus s d c).flashA = s.flashA := State.setFld_flashA ..
@[simp] theorem State.domainStatus_flashB (s : State) (d : Nat) (c : Nat) : (State.domainStatus s d c).flashB = s.flashB := State.setFld_flashB ..
@[simp] theorem State.domainStatus_acc (s : State) (d : Nat) (c : Nat) : (State.domainStatus s d c).acc = s.acc := State.setFld_acc ..
@[simp] theorem State.domainStatus_vote (s : State) (d : Nat) (c : Nat) : (State.domainStatus s d c).vote = s.vote := State.setFld_vote ..
@[simp] theorem State.domainStatus_rdn (s : State) (d : Nat) (c : Nat) : (State.domainStatus s d c).rdn = s.rdn := State.setFld_rdn ..
@[simp] theorem State.domainStatus_pwr (s : State) (d : Nat) (c : Nat) : (State.domainStatus s d c).pwr = s.pwr := State.setFld_pwr ..
@[simp] theorem State.domainStatus_flt (s : State) (d : Nat) (c : Nat) : (State.domainStatus s d c).flt = s.flt := State.setFld_flt ..
@[simp] theorem State.domainStatus_prt (s : State) (d : Nat) (c : Nat) : (State.domainStatus s d c).prt = s.prt := State.setFld_prt ..
@[simp] theorem State.domainStatus_mgt (s : State) (d : Nat) (c : Nat) : (State.domainStatus s d c).mgt = s.mgt := State.setFld_mgt ..
@[simp] theorem State.domainStatus_scn (s : State) (d : Nat) (c : Nat) : (State.domainStatus s d c).scn = s.scn := State.setFld_scn ..
@[simp] theorem State.domainStatus_tbl (s : State) (d : Nat) (c : Nat) : (State.domainStatus s d c).tbl = s.tbl := State.setFld_tbl ..
@[simp] theorem State.domainStatus_swc (s : State) (d : Nat) (c : Nat) : (State.domainStatus s d c).swc = s.swc := State.setFld_swc ..
@[simp] theorem State.domainStatus_tms (s : State) (d : Nat) (c : Nat) : (State.domainStatus s d c).tms = s.tms := State.setFld_tms ..
@[simp] theorem State.domainStatus_ofl (s : State) (d : Nat) (c : Nat) : (State.domainStatus s d c).ofl = s.ofl := State.setFld_ofl ..
@[simp] theorem State.domainStatus_cph (s : State) (d : Nat) (c : Nat) : (State.domainStatus s d c).cph = s.cph := State.setFld_cph ..
@[simp] theorem State.domainStatus_vlt (s : State) (d : Nat) (c : Nat) : (State.domainStatus s d c).vlt = s.vlt := State.setFld_vlt ..
@[simp] theorem State.domainStatus_hep (s : State) (d : Nat) (c : Nat) : (State.domainStatus s d c).hep = s.hep := State.setFld_hep ..
@[simp] theorem State.domainStatus_slc (s : State) (d : Nat) (c : Nat) : (State.domainStatus s d c).slc = s.slc := State.setFld_slc ..
@[simp] theorem State.domainStatus_qrg (s : State) (d : Nat) (c : Nat) : (State.domainStatus s d c).qrg = s.qrg := State.setFld_qrg ..
@[simp] theorem State.domainStatus_sto (s : State) (d : Nat) (c : Nat) : (State.domainStatus s d c).sto = s.sto := State.setFld_sto ..
@[simp] theorem State.domainStatus_bmv (s : State) (d : Nat) (c : Nat) : (State.domainStatus s d c).bmv = s.bmv := State.setFld_bmv ..
@[simp] theorem State.domainStatus_trp (s : State) (d : Nat) (c : Nat) : (State.domainStatus s d c).trp = s.trp := State.setFld_trp ..
@[simp] theorem State.domainStatus_cbd (s : State) (d : Nat) (c : Nat) : (State.domainStatus s d c).cbd = s.cbd := State.setFld_cbd ..
@[simp] theorem State.domainStatus_stk (s : State) (d : Nat) (c : Nat) : (State.domainStatus s d c).stk = s.stk := State.setFld_stk ..
@[simp] theorem State.domainStatus_mem (s : State) (d : Nat) (c : Nat) : (State.domainStatus s d c).mem = s.mem := State.setFld_mem ..
@[simp] theorem State.unitEvent_pending (s : State) (u : Nat) (b : Nat) : (State.unitEvent s u b).pending = s.pending := State.setReg_pending ..
@[simp] theorem State.unitEvent_ctrs (s : State) (u : Nat) (b : Nat) : (State.unitEvent s u b).ctrs = s.ctrs := State.setReg_ctrs ..
@[simp] theorem State.unitEvent_out (s : State) (u : Nat) (b : Nat) : (State.unitEvent s u b).out = s.out := State.setReg_out ..
@[simp] theorem State.unitEvent_draws (s : State) (u : Nat) (b : Nat) : (State.unitEvent s u b).draws = s.draws := State.setReg_draws ..
@[simp] theorem State.unitEvent_clk (s : State) (u : Nat) (b : Nat) : (State.unitEvent s u b).clk = s.clk := State.setReg_clk ..
@[simp] theorem State.unitEvent_pins (s : State) (u : Nat) (b : Nat) : (State.unitEvent s u b).pins = s.pins := State.setReg_pins ..
@[simp] theorem State.unitEvent_dev (s : State) (u : Nat) (b : Nat) : (State.unitEvent s u b).dev = s.dev := State.setReg_dev ..
@[simp] theorem State.unitEvent_flashA (s : State) (u : Nat) (b : Nat) : (State.unitEvent s u b).flashA = s.flashA := State.setReg_flashA ..
@[simp] theorem State.unitEvent_flashB (s : State) (u : Nat) (b : Nat) : (State.unitEvent s u b).flashB = s.flashB := State.setReg_flashB ..
@[simp] theorem State.unitEvent_acc (s : State) (u : Nat) (b : Nat) : (State.unitEvent s u b).acc = s.acc := State.setReg_acc ..
@[simp] theorem State.unitEvent_vote (s : State) (u : Nat) (b : Nat) : (State.unitEvent s u b).vote = s.vote := State.setReg_vote ..
@[simp] theorem State.unitEvent_rdn (s : State) (u : Nat) (b : Nat) : (State.unitEvent s u b).rdn = s.rdn := State.setReg_rdn ..
@[simp] theorem State.unitEvent_pwr (s : State) (u : Nat) (b : Nat) : (State.unitEvent s u b).pwr = s.pwr := State.setReg_pwr ..
@[simp] theorem State.unitEvent_flt (s : State) (u : Nat) (b : Nat) : (State.unitEvent s u b).flt = s.flt := State.setReg_flt ..
@[simp] theorem State.unitEvent_prt (s : State) (u : Nat) (b : Nat) : (State.unitEvent s u b).prt = s.prt := State.setReg_prt ..
@[simp] theorem State.unitEvent_mgt (s : State) (u : Nat) (b : Nat) : (State.unitEvent s u b).mgt = s.mgt := State.setReg_mgt ..
@[simp] theorem State.unitEvent_scn (s : State) (u : Nat) (b : Nat) : (State.unitEvent s u b).scn = s.scn := State.setReg_scn ..
@[simp] theorem State.unitEvent_tbl (s : State) (u : Nat) (b : Nat) : (State.unitEvent s u b).tbl = s.tbl := State.setReg_tbl ..
@[simp] theorem State.unitEvent_swc (s : State) (u : Nat) (b : Nat) : (State.unitEvent s u b).swc = s.swc := State.setReg_swc ..
@[simp] theorem State.unitEvent_tms (s : State) (u : Nat) (b : Nat) : (State.unitEvent s u b).tms = s.tms := State.setReg_tms ..
@[simp] theorem State.unitEvent_ofl (s : State) (u : Nat) (b : Nat) : (State.unitEvent s u b).ofl = s.ofl := State.setReg_ofl ..
@[simp] theorem State.unitEvent_cph (s : State) (u : Nat) (b : Nat) : (State.unitEvent s u b).cph = s.cph := State.setReg_cph ..
@[simp] theorem State.unitEvent_vlt (s : State) (u : Nat) (b : Nat) : (State.unitEvent s u b).vlt = s.vlt := State.setReg_vlt ..
@[simp] theorem State.unitEvent_hep (s : State) (u : Nat) (b : Nat) : (State.unitEvent s u b).hep = s.hep := State.setReg_hep ..
@[simp] theorem State.unitEvent_slc (s : State) (u : Nat) (b : Nat) : (State.unitEvent s u b).slc = s.slc := State.setReg_slc ..
@[simp] theorem State.unitEvent_qrg (s : State) (u : Nat) (b : Nat) : (State.unitEvent s u b).qrg = s.qrg := State.setReg_qrg ..
@[simp] theorem State.unitEvent_sto (s : State) (u : Nat) (b : Nat) : (State.unitEvent s u b).sto = s.sto := State.setReg_sto ..
@[simp] theorem State.unitEvent_bmv (s : State) (u : Nat) (b : Nat) : (State.unitEvent s u b).bmv = s.bmv := State.setReg_bmv ..
@[simp] theorem State.unitEvent_trp (s : State) (u : Nat) (b : Nat) : (State.unitEvent s u b).trp = s.trp := State.setReg_trp ..
@[simp] theorem State.unitEvent_cbd (s : State) (u : Nat) (b : Nat) : (State.unitEvent s u b).cbd = s.cbd := State.setReg_cbd ..
@[simp] theorem State.unitEvent_stk (s : State) (u : Nat) (b : Nat) : (State.unitEvent s u b).stk = s.stk := State.setReg_stk ..
@[simp] theorem State.unitEvent_mem (s : State) (u : Nat) (b : Nat) : (State.unitEvent s u b).mem = s.mem := State.setReg_mem ..
@[simp] theorem State.nextSeq_pending (s : State) : (State.nextSeq s).pending = s.pending := State.mk_pending
@[simp] theorem State.nextSeq_regs (s : State) : (State.nextSeq s).regs = s.regs := State.mk_regs
@[simp] theorem State.nextSeq_ctrs (s : State) : (State.nextSeq s).ctrs = s.ctrs := State.mk_ctrs
@[simp] theorem State.nextSeq_out (s : State) : (State.nextSeq s).out = s.out := State.mk_out
@[simp] theorem State.nextSeq_draws (s : State) : (State.nextSeq s).draws = s.draws := State.mk_draws
@[simp] theorem State.nextSeq_clk (s : State) : (State.nextSeq s).clk = s.clk := State.mk_clk
@[simp] theorem State.nextSeq_pins (s : State) : (State.nextSeq s).pins = s.pins := State.mk_pins
@[simp] theorem State.nextSeq_dev (s : State) : (State.nextSeq s).dev = s.dev := State.mk_dev
@[simp] theorem State.nextSeq_flashA (s : State) : (State.nextSeq s).flashA = s.flashA := State.mk_flashA
@[simp] theorem State.nextSeq_flashB (s : State) : (State.nextSeq s).flashB = s.flashB := State.mk_flashB
@[simp] theorem State.nextSeq_acc (s : State) : (State.nextSeq s).acc = s.acc := State.mk_acc
@[simp] theorem State.nextSeq_vote (s : State) : (State.nextSeq s).vote = s.vote := State.mk_vote
@[simp] theorem State.nextSeq_rdn (s : State) : (State.nextSeq s).rdn = s.rdn := State.mk_rdn
@[simp] theorem State.nextSeq_pwr (s : State) : (State.nextSeq s).pwr = s.pwr := State.mk_pwr
@[simp] theorem State.nextSeq_prt (s : State) : (State.nextSeq s).prt = s.prt := State.mk_prt
@[simp] theorem State.nextSeq_mgt (s : State) : (State.nextSeq s).mgt = s.mgt := State.mk_mgt
@[simp] theorem State.nextSeq_scn (s : State) : (State.nextSeq s).scn = s.scn := State.mk_scn
@[simp] theorem State.nextSeq_tbl (s : State) : (State.nextSeq s).tbl = s.tbl := State.mk_tbl
@[simp] theorem State.nextSeq_swc (s : State) : (State.nextSeq s).swc = s.swc := State.mk_swc
@[simp] theorem State.nextSeq_tms (s : State) : (State.nextSeq s).tms = s.tms := State.mk_tms
@[simp] theorem State.nextSeq_ofl (s : State) : (State.nextSeq s).ofl = s.ofl := State.mk_ofl
@[simp] theorem State.nextSeq_cph (s : State) : (State.nextSeq s).cph = s.cph := State.mk_cph
@[simp] theorem State.nextSeq_vlt (s : State) : (State.nextSeq s).vlt = s.vlt := State.mk_vlt
@[simp] theorem State.nextSeq_hep (s : State) : (State.nextSeq s).hep = s.hep := State.mk_hep
@[simp] theorem State.nextSeq_slc (s : State) : (State.nextSeq s).slc = s.slc := State.mk_slc
@[simp] theorem State.nextSeq_qrg (s : State) : (State.nextSeq s).qrg = s.qrg := State.mk_qrg
@[simp] theorem State.nextSeq_sto (s : State) : (State.nextSeq s).sto = s.sto := State.mk_sto
@[simp] theorem State.nextSeq_bmv (s : State) : (State.nextSeq s).bmv = s.bmv := State.mk_bmv
@[simp] theorem State.nextSeq_trp (s : State) : (State.nextSeq s).trp = s.trp := State.mk_trp
@[simp] theorem State.nextSeq_cbd (s : State) : (State.nextSeq s).cbd = s.cbd := State.mk_cbd
@[simp] theorem State.nextSeq_stk (s : State) : (State.nextSeq s).stk = s.stk := State.mk_stk
@[simp] theorem State.nextSeq_mem (s : State) : (State.nextSeq s).mem = s.mem := State.mk_mem
@[simp] theorem State.setThread_pending (s : State) (t : Nat) (v : Thread) : (State.setThread s t v).pending = s.pending := State.mk_pending
@[simp] theorem State.setThread_regs (s : State) (t : Nat) (v : Thread) : (State.setThread s t v).regs = s.regs := State.mk_regs
@[simp] theorem State.setThread_ctrs (s : State) (t : Nat) (v : Thread) : (State.setThread s t v).ctrs = s.ctrs := State.mk_ctrs
@[simp] theorem State.setThread_out (s : State) (t : Nat) (v : Thread) : (State.setThread s t v).out = s.out := State.mk_out
@[simp] theorem State.setThread_draws (s : State) (t : Nat) (v : Thread) : (State.setThread s t v).draws = s.draws := State.mk_draws
@[simp] theorem State.setThread_clk (s : State) (t : Nat) (v : Thread) : (State.setThread s t v).clk = s.clk := State.mk_clk
@[simp] theorem State.setThread_pins (s : State) (t : Nat) (v : Thread) : (State.setThread s t v).pins = s.pins := State.mk_pins
@[simp] theorem State.setThread_dev (s : State) (t : Nat) (v : Thread) : (State.setThread s t v).dev = s.dev := State.mk_dev
@[simp] theorem State.setThread_flashA (s : State) (t : Nat) (v : Thread) : (State.setThread s t v).flashA = s.flashA := State.mk_flashA
@[simp] theorem State.setThread_flashB (s : State) (t : Nat) (v : Thread) : (State.setThread s t v).flashB = s.flashB := State.mk_flashB
@[simp] theorem State.setThread_acc (s : State) (t : Nat) (v : Thread) : (State.setThread s t v).acc = s.acc := State.mk_acc
@[simp] theorem State.setThread_vote (s : State) (t : Nat) (v : Thread) : (State.setThread s t v).vote = s.vote := State.mk_vote
@[simp] theorem State.setThread_rdn (s : State) (t : Nat) (v : Thread) : (State.setThread s t v).rdn = s.rdn := State.mk_rdn
@[simp] theorem State.setThread_pwr (s : State) (t : Nat) (v : Thread) : (State.setThread s t v).pwr = s.pwr := State.mk_pwr
@[simp] theorem State.setThread_flt (s : State) (t : Nat) (v : Thread) : (State.setThread s t v).flt = s.flt := State.mk_flt
@[simp] theorem State.setThread_prt (s : State) (t : Nat) (v : Thread) : (State.setThread s t v).prt = s.prt := State.mk_prt
@[simp] theorem State.setThread_mgt (s : State) (t : Nat) (v : Thread) : (State.setThread s t v).mgt = s.mgt := State.mk_mgt
@[simp] theorem State.setThread_scn (s : State) (t : Nat) (v : Thread) : (State.setThread s t v).scn = s.scn := State.mk_scn
@[simp] theorem State.setThread_tbl (s : State) (t : Nat) (v : Thread) : (State.setThread s t v).tbl = s.tbl := State.mk_tbl
@[simp] theorem State.setThread_swc (s : State) (t : Nat) (v : Thread) : (State.setThread s t v).swc = s.swc := State.mk_swc
@[simp] theorem State.setThread_tms (s : State) (t : Nat) (v : Thread) : (State.setThread s t v).tms = s.tms := State.mk_tms
@[simp] theorem State.setThread_ofl (s : State) (t : Nat) (v : Thread) : (State.setThread s t v).ofl = s.ofl := State.mk_ofl
@[simp] theorem State.setThread_cph (s : State) (t : Nat) (v : Thread) : (State.setThread s t v).cph = s.cph := State.mk_cph
@[simp] theorem State.setThread_vlt (s : State) (t : Nat) (v : Thread) : (State.setThread s t v).vlt = s.vlt := State.mk_vlt
@[simp] theorem State.setThread_hep (s : State) (t : Nat) (v : Thread) : (State.setThread s t v).hep = s.hep := State.mk_hep
@[simp] theorem State.setThread_slc (s : State) (t : Nat) (v : Thread) : (State.setThread s t v).slc = s.slc := State.mk_slc
@[simp] theorem State.setThread_qrg (s : State) (t : Nat) (v : Thread) : (State.setThread s t v).qrg = s.qrg := State.mk_qrg
@[simp] theorem State.setThread_sto (s : State) (t : Nat) (v : Thread) : (State.setThread s t v).sto = s.sto := State.mk_sto
@[simp] theorem State.setThread_bmv (s : State) (t : Nat) (v : Thread) : (State.setThread s t v).bmv = s.bmv := State.mk_bmv
@[simp] theorem State.setThread_cbd (s : State) (t : Nat) (v : Thread) : (State.setThread s t v).cbd = s.cbd := State.mk_cbd
@[simp] theorem State.setThread_stk (s : State) (t : Nat) (v : Thread) : (State.setThread s t v).stk = s.stk := State.mk_stk
@[simp] theorem State.setThread_mem (s : State) (t : Nat) (v : Thread) : (State.setThread s t v).mem = s.mem := State.mk_mem
@[simp] theorem State.setCore_pending (s : State) (k : Nat) (v : Core) : (State.setCore s k v).pending = s.pending := State.mk_pending
@[simp] theorem State.setCore_regs (s : State) (k : Nat) (v : Core) : (State.setCore s k v).regs = s.regs := State.mk_regs
@[simp] theorem State.setCore_ctrs (s : State) (k : Nat) (v : Core) : (State.setCore s k v).ctrs = s.ctrs := State.mk_ctrs
@[simp] theorem State.setCore_out (s : State) (k : Nat) (v : Core) : (State.setCore s k v).out = s.out := State.mk_out
@[simp] theorem State.setCore_draws (s : State) (k : Nat) (v : Core) : (State.setCore s k v).draws = s.draws := State.mk_draws
@[simp] theorem State.setCore_clk (s : State) (k : Nat) (v : Core) : (State.setCore s k v).clk = s.clk := State.mk_clk
@[simp] theorem State.setCore_pins (s : State) (k : Nat) (v : Core) : (State.setCore s k v).pins = s.pins := State.mk_pins
@[simp] theorem State.setCore_dev (s : State) (k : Nat) (v : Core) : (State.setCore s k v).dev = s.dev := State.mk_dev
@[simp] theorem State.setCore_flashA (s : State) (k : Nat) (v : Core) : (State.setCore s k v).flashA = s.flashA := State.mk_flashA
@[simp] theorem State.setCore_flashB (s : State) (k : Nat) (v : Core) : (State.setCore s k v).flashB = s.flashB := State.mk_flashB
@[simp] theorem State.setCore_acc (s : State) (k : Nat) (v : Core) : (State.setCore s k v).acc = s.acc := State.mk_acc
@[simp] theorem State.setCore_vote (s : State) (k : Nat) (v : Core) : (State.setCore s k v).vote = s.vote := State.mk_vote
@[simp] theorem State.setCore_rdn (s : State) (k : Nat) (v : Core) : (State.setCore s k v).rdn = s.rdn := State.mk_rdn
@[simp] theorem State.setCore_pwr (s : State) (k : Nat) (v : Core) : (State.setCore s k v).pwr = s.pwr := State.mk_pwr
@[simp] theorem State.setCore_flt (s : State) (k : Nat) (v : Core) : (State.setCore s k v).flt = s.flt := State.mk_flt
@[simp] theorem State.setCore_prt (s : State) (k : Nat) (v : Core) : (State.setCore s k v).prt = s.prt := State.mk_prt
@[simp] theorem State.setCore_mgt (s : State) (k : Nat) (v : Core) : (State.setCore s k v).mgt = s.mgt := State.mk_mgt
@[simp] theorem State.setCore_scn (s : State) (k : Nat) (v : Core) : (State.setCore s k v).scn = s.scn := State.mk_scn
@[simp] theorem State.setCore_tbl (s : State) (k : Nat) (v : Core) : (State.setCore s k v).tbl = s.tbl := State.mk_tbl
@[simp] theorem State.setCore_swc (s : State) (k : Nat) (v : Core) : (State.setCore s k v).swc = s.swc := State.mk_swc
@[simp] theorem State.setCore_tms (s : State) (k : Nat) (v : Core) : (State.setCore s k v).tms = s.tms := State.mk_tms
@[simp] theorem State.setCore_ofl (s : State) (k : Nat) (v : Core) : (State.setCore s k v).ofl = s.ofl := State.mk_ofl
@[simp] theorem State.setCore_cph (s : State) (k : Nat) (v : Core) : (State.setCore s k v).cph = s.cph := State.mk_cph
@[simp] theorem State.setCore_vlt (s : State) (k : Nat) (v : Core) : (State.setCore s k v).vlt = s.vlt := State.mk_vlt
@[simp] theorem State.setCore_hep (s : State) (k : Nat) (v : Core) : (State.setCore s k v).hep = s.hep := State.mk_hep
@[simp] theorem State.setCore_slc (s : State) (k : Nat) (v : Core) : (State.setCore s k v).slc = s.slc := State.mk_slc
@[simp] theorem State.setCore_qrg (s : State) (k : Nat) (v : Core) : (State.setCore s k v).qrg = s.qrg := State.mk_qrg
@[simp] theorem State.setCore_sto (s : State) (k : Nat) (v : Core) : (State.setCore s k v).sto = s.sto := State.mk_sto
@[simp] theorem State.setCore_bmv (s : State) (k : Nat) (v : Core) : (State.setCore s k v).bmv = s.bmv := State.mk_bmv
@[simp] theorem State.setCore_cbd (s : State) (k : Nat) (v : Core) : (State.setCore s k v).cbd = s.cbd := State.mk_cbd
@[simp] theorem State.setCore_stk (s : State) (k : Nat) (v : Core) : (State.setCore s k v).stk = s.stk := State.mk_stk
@[simp] theorem State.setCore_mem (s : State) (k : Nat) (v : Core) : (State.setCore s k v).mem = s.mem := State.mk_mem
@[simp] theorem State.setKeyCtx_pending (s : State) (c : Nat) (v : KeyCtx) : (State.setKeyCtx s c v).pending = s.pending := State.mk_pending
@[simp] theorem State.setKeyCtx_regs (s : State) (c : Nat) (v : KeyCtx) : (State.setKeyCtx s c v).regs = s.regs := State.mk_regs
@[simp] theorem State.setKeyCtx_ctrs (s : State) (c : Nat) (v : KeyCtx) : (State.setKeyCtx s c v).ctrs = s.ctrs := State.mk_ctrs
@[simp] theorem State.setKeyCtx_out (s : State) (c : Nat) (v : KeyCtx) : (State.setKeyCtx s c v).out = s.out := State.mk_out
@[simp] theorem State.setKeyCtx_draws (s : State) (c : Nat) (v : KeyCtx) : (State.setKeyCtx s c v).draws = s.draws := State.mk_draws
@[simp] theorem State.setKeyCtx_clk (s : State) (c : Nat) (v : KeyCtx) : (State.setKeyCtx s c v).clk = s.clk := State.mk_clk
@[simp] theorem State.setKeyCtx_pins (s : State) (c : Nat) (v : KeyCtx) : (State.setKeyCtx s c v).pins = s.pins := State.mk_pins
@[simp] theorem State.setKeyCtx_dev (s : State) (c : Nat) (v : KeyCtx) : (State.setKeyCtx s c v).dev = s.dev := State.mk_dev
@[simp] theorem State.setKeyCtx_flashA (s : State) (c : Nat) (v : KeyCtx) : (State.setKeyCtx s c v).flashA = s.flashA := State.mk_flashA
@[simp] theorem State.setKeyCtx_flashB (s : State) (c : Nat) (v : KeyCtx) : (State.setKeyCtx s c v).flashB = s.flashB := State.mk_flashB
@[simp] theorem State.setKeyCtx_acc (s : State) (c : Nat) (v : KeyCtx) : (State.setKeyCtx s c v).acc = s.acc := State.mk_acc
@[simp] theorem State.setKeyCtx_vote (s : State) (c : Nat) (v : KeyCtx) : (State.setKeyCtx s c v).vote = s.vote := State.mk_vote
@[simp] theorem State.setKeyCtx_rdn (s : State) (c : Nat) (v : KeyCtx) : (State.setKeyCtx s c v).rdn = s.rdn := State.mk_rdn
@[simp] theorem State.setKeyCtx_pwr (s : State) (c : Nat) (v : KeyCtx) : (State.setKeyCtx s c v).pwr = s.pwr := State.mk_pwr
@[simp] theorem State.setKeyCtx_flt (s : State) (c : Nat) (v : KeyCtx) : (State.setKeyCtx s c v).flt = s.flt := State.mk_flt
@[simp] theorem State.setKeyCtx_prt (s : State) (c : Nat) (v : KeyCtx) : (State.setKeyCtx s c v).prt = s.prt := State.mk_prt
@[simp] theorem State.setKeyCtx_mgt (s : State) (c : Nat) (v : KeyCtx) : (State.setKeyCtx s c v).mgt = s.mgt := State.mk_mgt
@[simp] theorem State.setKeyCtx_scn (s : State) (c : Nat) (v : KeyCtx) : (State.setKeyCtx s c v).scn = s.scn := State.mk_scn
@[simp] theorem State.setKeyCtx_tbl (s : State) (c : Nat) (v : KeyCtx) : (State.setKeyCtx s c v).tbl = s.tbl := State.mk_tbl
@[simp] theorem State.setKeyCtx_swc (s : State) (c : Nat) (v : KeyCtx) : (State.setKeyCtx s c v).swc = s.swc := State.mk_swc
@[simp] theorem State.setKeyCtx_tms (s : State) (c : Nat) (v : KeyCtx) : (State.setKeyCtx s c v).tms = s.tms := State.mk_tms
@[simp] theorem State.setKeyCtx_ofl (s : State) (c : Nat) (v : KeyCtx) : (State.setKeyCtx s c v).ofl = s.ofl := State.mk_ofl
@[simp] theorem State.setKeyCtx_vlt (s : State) (c : Nat) (v : KeyCtx) : (State.setKeyCtx s c v).vlt = s.vlt := State.mk_vlt
@[simp] theorem State.setKeyCtx_hep (s : State) (c : Nat) (v : KeyCtx) : (State.setKeyCtx s c v).hep = s.hep := State.mk_hep
@[simp] theorem State.setKeyCtx_slc (s : State) (c : Nat) (v : KeyCtx) : (State.setKeyCtx s c v).slc = s.slc := State.mk_slc
@[simp] theorem State.setKeyCtx_qrg (s : State) (c : Nat) (v : KeyCtx) : (State.setKeyCtx s c v).qrg = s.qrg := State.mk_qrg
@[simp] theorem State.setKeyCtx_sto (s : State) (c : Nat) (v : KeyCtx) : (State.setKeyCtx s c v).sto = s.sto := State.mk_sto
@[simp] theorem State.setKeyCtx_bmv (s : State) (c : Nat) (v : KeyCtx) : (State.setKeyCtx s c v).bmv = s.bmv := State.mk_bmv
@[simp] theorem State.setKeyCtx_trp (s : State) (c : Nat) (v : KeyCtx) : (State.setKeyCtx s c v).trp = s.trp := State.mk_trp
@[simp] theorem State.setKeyCtx_cbd (s : State) (c : Nat) (v : KeyCtx) : (State.setKeyCtx s c v).cbd = s.cbd := State.mk_cbd
@[simp] theorem State.setKeyCtx_stk (s : State) (c : Nat) (v : KeyCtx) : (State.setKeyCtx s c v).stk = s.stk := State.mk_stk
@[simp] theorem State.setKeyCtx_mem (s : State) (c : Nat) (v : KeyCtx) : (State.setKeyCtx s c v).mem = s.mem := State.mk_mem
@[simp] theorem State.setEngine_pending (s : State) (e : Nat) (v : CipherEngine) : (State.setEngine s e v).pending = s.pending := State.mk_pending
@[simp] theorem State.setEngine_regs (s : State) (e : Nat) (v : CipherEngine) : (State.setEngine s e v).regs = s.regs := State.mk_regs
@[simp] theorem State.setEngine_ctrs (s : State) (e : Nat) (v : CipherEngine) : (State.setEngine s e v).ctrs = s.ctrs := State.mk_ctrs
@[simp] theorem State.setEngine_out (s : State) (e : Nat) (v : CipherEngine) : (State.setEngine s e v).out = s.out := State.mk_out
@[simp] theorem State.setEngine_draws (s : State) (e : Nat) (v : CipherEngine) : (State.setEngine s e v).draws = s.draws := State.mk_draws
@[simp] theorem State.setEngine_clk (s : State) (e : Nat) (v : CipherEngine) : (State.setEngine s e v).clk = s.clk := State.mk_clk
@[simp] theorem State.setEngine_pins (s : State) (e : Nat) (v : CipherEngine) : (State.setEngine s e v).pins = s.pins := State.mk_pins
@[simp] theorem State.setEngine_dev (s : State) (e : Nat) (v : CipherEngine) : (State.setEngine s e v).dev = s.dev := State.mk_dev
@[simp] theorem State.setEngine_flashA (s : State) (e : Nat) (v : CipherEngine) : (State.setEngine s e v).flashA = s.flashA := State.mk_flashA
@[simp] theorem State.setEngine_flashB (s : State) (e : Nat) (v : CipherEngine) : (State.setEngine s e v).flashB = s.flashB := State.mk_flashB
@[simp] theorem State.setEngine_acc (s : State) (e : Nat) (v : CipherEngine) : (State.setEngine s e v).acc = s.acc := State.mk_acc
@[simp] theorem State.setEngine_vote (s : State) (e : Nat) (v : CipherEngine) : (State.setEngine s e v).vote = s.vote := State.mk_vote
@[simp] theorem State.setEngine_rdn (s : State) (e : Nat) (v : CipherEngine) : (State.setEngine s e v).rdn = s.rdn := State.mk_rdn
@[simp] theorem State.setEngine_pwr (s : State) (e : Nat) (v : CipherEngine) : (State.setEngine s e v).pwr = s.pwr := State.mk_pwr
@[simp] theorem State.setEngine_flt (s : State) (e : Nat) (v : CipherEngine) : (State.setEngine s e v).flt = s.flt := State.mk_flt
@[simp] theorem State.setEngine_prt (s : State) (e : Nat) (v : CipherEngine) : (State.setEngine s e v).prt = s.prt := State.mk_prt
@[simp] theorem State.setEngine_mgt (s : State) (e : Nat) (v : CipherEngine) : (State.setEngine s e v).mgt = s.mgt := State.mk_mgt
@[simp] theorem State.setEngine_scn (s : State) (e : Nat) (v : CipherEngine) : (State.setEngine s e v).scn = s.scn := State.mk_scn
@[simp] theorem State.setEngine_tbl (s : State) (e : Nat) (v : CipherEngine) : (State.setEngine s e v).tbl = s.tbl := State.mk_tbl
@[simp] theorem State.setEngine_swc (s : State) (e : Nat) (v : CipherEngine) : (State.setEngine s e v).swc = s.swc := State.mk_swc
@[simp] theorem State.setEngine_tms (s : State) (e : Nat) (v : CipherEngine) : (State.setEngine s e v).tms = s.tms := State.mk_tms
@[simp] theorem State.setEngine_ofl (s : State) (e : Nat) (v : CipherEngine) : (State.setEngine s e v).ofl = s.ofl := State.mk_ofl
@[simp] theorem State.setEngine_vlt (s : State) (e : Nat) (v : CipherEngine) : (State.setEngine s e v).vlt = s.vlt := State.mk_vlt
@[simp] theorem State.setEngine_hep (s : State) (e : Nat) (v : CipherEngine) : (State.setEngine s e v).hep = s.hep := State.mk_hep
@[simp] theorem State.setEngine_slc (s : State) (e : Nat) (v : CipherEngine) : (State.setEngine s e v).slc = s.slc := State.mk_slc
@[simp] theorem State.setEngine_qrg (s : State) (e : Nat) (v : CipherEngine) : (State.setEngine s e v).qrg = s.qrg := State.mk_qrg
@[simp] theorem State.setEngine_sto (s : State) (e : Nat) (v : CipherEngine) : (State.setEngine s e v).sto = s.sto := State.mk_sto
@[simp] theorem State.setEngine_bmv (s : State) (e : Nat) (v : CipherEngine) : (State.setEngine s e v).bmv = s.bmv := State.mk_bmv
@[simp] theorem State.setEngine_trp (s : State) (e : Nat) (v : CipherEngine) : (State.setEngine s e v).trp = s.trp := State.mk_trp
@[simp] theorem State.setEngine_cbd (s : State) (e : Nat) (v : CipherEngine) : (State.setEngine s e v).cbd = s.cbd := State.mk_cbd
@[simp] theorem State.setEngine_stk (s : State) (e : Nat) (v : CipherEngine) : (State.setEngine s e v).stk = s.stk := State.mk_stk
@[simp] theorem State.setEngine_mem (s : State) (e : Nat) (v : CipherEngine) : (State.setEngine s e v).mem = s.mem := State.mk_mem
@[simp] theorem State.setQueue_pending (s : State) (g : Nat) (q : Queue) : (State.setQueue s g q).pending = s.pending := State.mk_pending
@[simp] theorem State.setQueue_regs (s : State) (g : Nat) (q : Queue) : (State.setQueue s g q).regs = s.regs := State.mk_regs
@[simp] theorem State.setQueue_ctrs (s : State) (g : Nat) (q : Queue) : (State.setQueue s g q).ctrs = s.ctrs := State.mk_ctrs
@[simp] theorem State.setQueue_out (s : State) (g : Nat) (q : Queue) : (State.setQueue s g q).out = s.out := State.mk_out
@[simp] theorem State.setQueue_draws (s : State) (g : Nat) (q : Queue) : (State.setQueue s g q).draws = s.draws := State.mk_draws
@[simp] theorem State.setQueue_clk (s : State) (g : Nat) (q : Queue) : (State.setQueue s g q).clk = s.clk := State.mk_clk
@[simp] theorem State.setQueue_pins (s : State) (g : Nat) (q : Queue) : (State.setQueue s g q).pins = s.pins := State.mk_pins
@[simp] theorem State.setQueue_dev (s : State) (g : Nat) (q : Queue) : (State.setQueue s g q).dev = s.dev := State.mk_dev
@[simp] theorem State.setQueue_flashA (s : State) (g : Nat) (q : Queue) : (State.setQueue s g q).flashA = s.flashA := State.mk_flashA
@[simp] theorem State.setQueue_flashB (s : State) (g : Nat) (q : Queue) : (State.setQueue s g q).flashB = s.flashB := State.mk_flashB
@[simp] theorem State.setQueue_acc (s : State) (g : Nat) (q : Queue) : (State.setQueue s g q).acc = s.acc := State.mk_acc
@[simp] theorem State.setQueue_vote (s : State) (g : Nat) (q : Queue) : (State.setQueue s g q).vote = s.vote := State.mk_vote
@[simp] theorem State.setQueue_rdn (s : State) (g : Nat) (q : Queue) : (State.setQueue s g q).rdn = s.rdn := State.mk_rdn
@[simp] theorem State.setQueue_pwr (s : State) (g : Nat) (q : Queue) : (State.setQueue s g q).pwr = s.pwr := State.mk_pwr
@[simp] theorem State.setQueue_flt (s : State) (g : Nat) (q : Queue) : (State.setQueue s g q).flt = s.flt := State.mk_flt
@[simp] theorem State.setQueue_prt (s : State) (g : Nat) (q : Queue) : (State.setQueue s g q).prt = s.prt := State.mk_prt
@[simp] theorem State.setQueue_mgt (s : State) (g : Nat) (q : Queue) : (State.setQueue s g q).mgt = s.mgt := State.mk_mgt
@[simp] theorem State.setQueue_scn (s : State) (g : Nat) (q : Queue) : (State.setQueue s g q).scn = s.scn := State.mk_scn
@[simp] theorem State.setQueue_tbl (s : State) (g : Nat) (q : Queue) : (State.setQueue s g q).tbl = s.tbl := State.mk_tbl
@[simp] theorem State.setQueue_swc (s : State) (g : Nat) (q : Queue) : (State.setQueue s g q).swc = s.swc := State.mk_swc
@[simp] theorem State.setQueue_tms (s : State) (g : Nat) (q : Queue) : (State.setQueue s g q).tms = s.tms := State.mk_tms
@[simp] theorem State.setQueue_ofl (s : State) (g : Nat) (q : Queue) : (State.setQueue s g q).ofl = s.ofl := State.mk_ofl
@[simp] theorem State.setQueue_cph (s : State) (g : Nat) (q : Queue) : (State.setQueue s g q).cph = s.cph := State.mk_cph
@[simp] theorem State.setQueue_vlt (s : State) (g : Nat) (q : Queue) : (State.setQueue s g q).vlt = s.vlt := State.mk_vlt
@[simp] theorem State.setQueue_hep (s : State) (g : Nat) (q : Queue) : (State.setQueue s g q).hep = s.hep := State.mk_hep
@[simp] theorem State.setQueue_slc (s : State) (g : Nat) (q : Queue) : (State.setQueue s g q).slc = s.slc := State.mk_slc
@[simp] theorem State.setQueue_sto (s : State) (g : Nat) (q : Queue) : (State.setQueue s g q).sto = s.sto := State.mk_sto
@[simp] theorem State.setQueue_bmv (s : State) (g : Nat) (q : Queue) : (State.setQueue s g q).bmv = s.bmv := State.mk_bmv
@[simp] theorem State.setQueue_trp (s : State) (g : Nat) (q : Queue) : (State.setQueue s g q).trp = s.trp := State.mk_trp
@[simp] theorem State.setQueue_cbd (s : State) (g : Nat) (q : Queue) : (State.setQueue s g q).cbd = s.cbd := State.mk_cbd
@[simp] theorem State.setQueue_stk (s : State) (g : Nat) (q : Queue) : (State.setQueue s g q).stk = s.stk := State.mk_stk
@[simp] theorem State.setQueue_mem (s : State) (g : Nat) (q : Queue) : (State.setQueue s g q).mem = s.mem := State.mk_mem
@[simp] theorem State.setHostLink_pending (s : State) (l : Nat) (v : HostLink) : (State.setHostLink s l v).pending = s.pending := State.mk_pending
@[simp] theorem State.setHostLink_regs (s : State) (l : Nat) (v : HostLink) : (State.setHostLink s l v).regs = s.regs := State.mk_regs
@[simp] theorem State.setHostLink_ctrs (s : State) (l : Nat) (v : HostLink) : (State.setHostLink s l v).ctrs = s.ctrs := State.mk_ctrs
@[simp] theorem State.setHostLink_out (s : State) (l : Nat) (v : HostLink) : (State.setHostLink s l v).out = s.out := State.mk_out
@[simp] theorem State.setHostLink_draws (s : State) (l : Nat) (v : HostLink) : (State.setHostLink s l v).draws = s.draws := State.mk_draws
@[simp] theorem State.setHostLink_clk (s : State) (l : Nat) (v : HostLink) : (State.setHostLink s l v).clk = s.clk := State.mk_clk
@[simp] theorem State.setHostLink_pins (s : State) (l : Nat) (v : HostLink) : (State.setHostLink s l v).pins = s.pins := State.mk_pins
@[simp] theorem State.setHostLink_dev (s : State) (l : Nat) (v : HostLink) : (State.setHostLink s l v).dev = s.dev := State.mk_dev
@[simp] theorem State.setHostLink_flashA (s : State) (l : Nat) (v : HostLink) : (State.setHostLink s l v).flashA = s.flashA := State.mk_flashA
@[simp] theorem State.setHostLink_flashB (s : State) (l : Nat) (v : HostLink) : (State.setHostLink s l v).flashB = s.flashB := State.mk_flashB
@[simp] theorem State.setHostLink_acc (s : State) (l : Nat) (v : HostLink) : (State.setHostLink s l v).acc = s.acc := State.mk_acc
@[simp] theorem State.setHostLink_vote (s : State) (l : Nat) (v : HostLink) : (State.setHostLink s l v).vote = s.vote := State.mk_vote
@[simp] theorem State.setHostLink_rdn (s : State) (l : Nat) (v : HostLink) : (State.setHostLink s l v).rdn = s.rdn := State.mk_rdn
@[simp] theorem State.setHostLink_pwr (s : State) (l : Nat) (v : HostLink) : (State.setHostLink s l v).pwr = s.pwr := State.mk_pwr
@[simp] theorem State.setHostLink_flt (s : State) (l : Nat) (v : HostLink) : (State.setHostLink s l v).flt = s.flt := State.mk_flt
@[simp] theorem State.setHostLink_prt (s : State) (l : Nat) (v : HostLink) : (State.setHostLink s l v).prt = s.prt := State.mk_prt
@[simp] theorem State.setHostLink_mgt (s : State) (l : Nat) (v : HostLink) : (State.setHostLink s l v).mgt = s.mgt := State.mk_mgt
@[simp] theorem State.setHostLink_scn (s : State) (l : Nat) (v : HostLink) : (State.setHostLink s l v).scn = s.scn := State.mk_scn
@[simp] theorem State.setHostLink_tbl (s : State) (l : Nat) (v : HostLink) : (State.setHostLink s l v).tbl = s.tbl := State.mk_tbl
@[simp] theorem State.setHostLink_swc (s : State) (l : Nat) (v : HostLink) : (State.setHostLink s l v).swc = s.swc := State.mk_swc
@[simp] theorem State.setHostLink_tms (s : State) (l : Nat) (v : HostLink) : (State.setHostLink s l v).tms = s.tms := State.mk_tms
@[simp] theorem State.setHostLink_ofl (s : State) (l : Nat) (v : HostLink) : (State.setHostLink s l v).ofl = s.ofl := State.mk_ofl
@[simp] theorem State.setHostLink_cph (s : State) (l : Nat) (v : HostLink) : (State.setHostLink s l v).cph = s.cph := State.mk_cph
@[simp] theorem State.setHostLink_vlt (s : State) (l : Nat) (v : HostLink) : (State.setHostLink s l v).vlt = s.vlt := State.mk_vlt
@[simp] theorem State.setHostLink_slc (s : State) (l : Nat) (v : HostLink) : (State.setHostLink s l v).slc = s.slc := State.mk_slc
@[simp] theorem State.setHostLink_qrg (s : State) (l : Nat) (v : HostLink) : (State.setHostLink s l v).qrg = s.qrg := State.mk_qrg
@[simp] theorem State.setHostLink_sto (s : State) (l : Nat) (v : HostLink) : (State.setHostLink s l v).sto = s.sto := State.mk_sto
@[simp] theorem State.setHostLink_bmv (s : State) (l : Nat) (v : HostLink) : (State.setHostLink s l v).bmv = s.bmv := State.mk_bmv
@[simp] theorem State.setHostLink_trp (s : State) (l : Nat) (v : HostLink) : (State.setHostLink s l v).trp = s.trp := State.mk_trp
@[simp] theorem State.setHostLink_cbd (s : State) (l : Nat) (v : HostLink) : (State.setHostLink s l v).cbd = s.cbd := State.mk_cbd
@[simp] theorem State.setHostLink_stk (s : State) (l : Nat) (v : HostLink) : (State.setHostLink s l v).stk = s.stk := State.mk_stk
@[simp] theorem State.setHostLink_mem (s : State) (l : Nat) (v : HostLink) : (State.setHostLink s l v).mem = s.mem := State.mk_mem
@[simp] theorem State.setChan_pending (s : State) (c : Nat) (v : Channel) : (State.setChan s c v).pending = s.pending := State.mk_pending
@[simp] theorem State.setChan_regs (s : State) (c : Nat) (v : Channel) : (State.setChan s c v).regs = s.regs := State.mk_regs
@[simp] theorem State.setChan_ctrs (s : State) (c : Nat) (v : Channel) : (State.setChan s c v).ctrs = s.ctrs := State.mk_ctrs
@[simp] theorem State.setChan_out (s : State) (c : Nat) (v : Channel) : (State.setChan s c v).out = s.out := State.mk_out
@[simp] theorem State.setChan_draws (s : State) (c : Nat) (v : Channel) : (State.setChan s c v).draws = s.draws := State.mk_draws
@[simp] theorem State.setChan_clk (s : State) (c : Nat) (v : Channel) : (State.setChan s c v).clk = s.clk := State.mk_clk
@[simp] theorem State.setChan_pins (s : State) (c : Nat) (v : Channel) : (State.setChan s c v).pins = s.pins := State.mk_pins
@[simp] theorem State.setChan_dev (s : State) (c : Nat) (v : Channel) : (State.setChan s c v).dev = s.dev := State.mk_dev
@[simp] theorem State.setChan_flashA (s : State) (c : Nat) (v : Channel) : (State.setChan s c v).flashA = s.flashA := State.mk_flashA
@[simp] theorem State.setChan_flashB (s : State) (c : Nat) (v : Channel) : (State.setChan s c v).flashB = s.flashB := State.mk_flashB
@[simp] theorem State.setChan_acc (s : State) (c : Nat) (v : Channel) : (State.setChan s c v).acc = s.acc := State.mk_acc
@[simp] theorem State.setChan_vote (s : State) (c : Nat) (v : Channel) : (State.setChan s c v).vote = s.vote := State.mk_vote
@[simp] theorem State.setChan_rdn (s : State) (c : Nat) (v : Channel) : (State.setChan s c v).rdn = s.rdn := State.mk_rdn
@[simp] theorem State.setChan_pwr (s : State) (c : Nat) (v : Channel) : (State.setChan s c v).pwr = s.pwr := State.mk_pwr
@[simp] theorem State.setChan_flt (s : State) (c : Nat) (v : Channel) : (State.setChan s c v).flt = s.flt := State.mk_flt
@[simp] theorem State.setChan_prt (s : State) (c : Nat) (v : Channel) : (State.setChan s c v).prt = s.prt := State.mk_prt
@[simp] theorem State.setChan_mgt (s : State) (c : Nat) (v : Channel) : (State.setChan s c v).mgt = s.mgt := State.mk_mgt
@[simp] theorem State.setChan_scn (s : State) (c : Nat) (v : Channel) : (State.setChan s c v).scn = s.scn := State.mk_scn
@[simp] theorem State.setChan_tbl (s : State) (c : Nat) (v : Channel) : (State.setChan s c v).tbl = s.tbl := State.mk_tbl
@[simp] theorem State.setChan_swc (s : State) (c : Nat) (v : Channel) : (State.setChan s c v).swc = s.swc := State.mk_swc
@[simp] theorem State.setChan_tms (s : State) (c : Nat) (v : Channel) : (State.setChan s c v).tms = s.tms := State.mk_tms
@[simp] theorem State.setChan_ofl (s : State) (c : Nat) (v : Channel) : (State.setChan s c v).ofl = s.ofl := State.mk_ofl
@[simp] theorem State.setChan_cph (s : State) (c : Nat) (v : Channel) : (State.setChan s c v).cph = s.cph := State.mk_cph
@[simp] theorem State.setChan_vlt (s : State) (c : Nat) (v : Channel) : (State.setChan s c v).vlt = s.vlt := State.mk_vlt
@[simp] theorem State.setChan_hep (s : State) (c : Nat) (v : Channel) : (State.setChan s c v).hep = s.hep := State.mk_hep
@[simp] theorem State.setChan_slc (s : State) (c : Nat) (v : Channel) : (State.setChan s c v).slc = s.slc := State.mk_slc
@[simp] theorem State.setChan_qrg (s : State) (c : Nat) (v : Channel) : (State.setChan s c v).qrg = s.qrg := State.mk_qrg
@[simp] theorem State.setChan_sto (s : State) (c : Nat) (v : Channel) : (State.setChan s c v).sto = s.sto := State.mk_sto
@[simp] theorem State.setChan_trp (s : State) (c : Nat) (v : Channel) : (State.setChan s c v).trp = s.trp := State.mk_trp
@[simp] theorem State.setChan_cbd (s : State) (c : Nat) (v : Channel) : (State.setChan s c v).cbd = s.cbd := State.mk_cbd
@[simp] theorem State.setChan_stk (s : State) (c : Nat) (v : Channel) : (State.setChan s c v).stk = s.stk := State.mk_stk
@[simp] theorem State.setChan_mem (s : State) (c : Nat) (v : Channel) : (State.setChan s c v).mem = s.mem := State.mk_mem
@[simp] theorem State.setEntry_pending (s : State) (slot : Nat) (e : Option Entry) : (State.setEntry s slot e).pending = s.pending := State.mk_pending
@[simp] theorem State.setEntry_regs (s : State) (slot : Nat) (e : Option Entry) : (State.setEntry s slot e).regs = s.regs := State.mk_regs
@[simp] theorem State.setEntry_ctrs (s : State) (slot : Nat) (e : Option Entry) : (State.setEntry s slot e).ctrs = s.ctrs := State.mk_ctrs
@[simp] theorem State.setEntry_out (s : State) (slot : Nat) (e : Option Entry) : (State.setEntry s slot e).out = s.out := State.mk_out
@[simp] theorem State.setEntry_draws (s : State) (slot : Nat) (e : Option Entry) : (State.setEntry s slot e).draws = s.draws := State.mk_draws
@[simp] theorem State.setEntry_clk (s : State) (slot : Nat) (e : Option Entry) : (State.setEntry s slot e).clk = s.clk := State.mk_clk
@[simp] theorem State.setEntry_pins (s : State) (slot : Nat) (e : Option Entry) : (State.setEntry s slot e).pins = s.pins := State.mk_pins
@[simp] theorem State.setEntry_dev (s : State) (slot : Nat) (e : Option Entry) : (State.setEntry s slot e).dev = s.dev := State.mk_dev
@[simp] theorem State.setEntry_flashA (s : State) (slot : Nat) (e : Option Entry) : (State.setEntry s slot e).flashA = s.flashA := State.mk_flashA
@[simp] theorem State.setEntry_flashB (s : State) (slot : Nat) (e : Option Entry) : (State.setEntry s slot e).flashB = s.flashB := State.mk_flashB
@[simp] theorem State.setEntry_acc (s : State) (slot : Nat) (e : Option Entry) : (State.setEntry s slot e).acc = s.acc := State.mk_acc
@[simp] theorem State.setEntry_vote (s : State) (slot : Nat) (e : Option Entry) : (State.setEntry s slot e).vote = s.vote := State.mk_vote
@[simp] theorem State.setEntry_rdn (s : State) (slot : Nat) (e : Option Entry) : (State.setEntry s slot e).rdn = s.rdn := State.mk_rdn
@[simp] theorem State.setEntry_pwr (s : State) (slot : Nat) (e : Option Entry) : (State.setEntry s slot e).pwr = s.pwr := State.mk_pwr
@[simp] theorem State.setEntry_flt (s : State) (slot : Nat) (e : Option Entry) : (State.setEntry s slot e).flt = s.flt := State.mk_flt
@[simp] theorem State.setEntry_prt (s : State) (slot : Nat) (e : Option Entry) : (State.setEntry s slot e).prt = s.prt := State.mk_prt
@[simp] theorem State.setEntry_mgt (s : State) (slot : Nat) (e : Option Entry) : (State.setEntry s slot e).mgt = s.mgt := State.mk_mgt
@[simp] theorem State.setEntry_scn (s : State) (slot : Nat) (e : Option Entry) : (State.setEntry s slot e).scn = s.scn := State.mk_scn
@[simp] theorem State.setEntry_swc (s : State) (slot : Nat) (e : Option Entry) : (State.setEntry s slot e).swc = s.swc := State.mk_swc
@[simp] theorem State.setEntry_tms (s : State) (slot : Nat) (e : Option Entry) : (State.setEntry s slot e).tms = s.tms := State.mk_tms
@[simp] theorem State.setEntry_ofl (s : State) (slot : Nat) (e : Option Entry) : (State.setEntry s slot e).ofl = s.ofl := State.mk_ofl
@[simp] theorem State.setEntry_cph (s : State) (slot : Nat) (e : Option Entry) : (State.setEntry s slot e).cph = s.cph := State.mk_cph
@[simp] theorem State.setEntry_vlt (s : State) (slot : Nat) (e : Option Entry) : (State.setEntry s slot e).vlt = s.vlt := State.mk_vlt
@[simp] theorem State.setEntry_hep (s : State) (slot : Nat) (e : Option Entry) : (State.setEntry s slot e).hep = s.hep := State.mk_hep
@[simp] theorem State.setEntry_slc (s : State) (slot : Nat) (e : Option Entry) : (State.setEntry s slot e).slc = s.slc := State.mk_slc
@[simp] theorem State.setEntry_qrg (s : State) (slot : Nat) (e : Option Entry) : (State.setEntry s slot e).qrg = s.qrg := State.mk_qrg
@[simp] theorem State.setEntry_sto (s : State) (slot : Nat) (e : Option Entry) : (State.setEntry s slot e).sto = s.sto := State.mk_sto
@[simp] theorem State.setEntry_bmv (s : State) (slot : Nat) (e : Option Entry) : (State.setEntry s slot e).bmv = s.bmv := State.mk_bmv
@[simp] theorem State.setEntry_trp (s : State) (slot : Nat) (e : Option Entry) : (State.setEntry s slot e).trp = s.trp := State.mk_trp
@[simp] theorem State.setEntry_cbd (s : State) (slot : Nat) (e : Option Entry) : (State.setEntry s slot e).cbd = s.cbd := State.mk_cbd
@[simp] theorem State.setEntry_stk (s : State) (slot : Nat) (e : Option Entry) : (State.setEntry s slot e).stk = s.stk := State.mk_stk
@[simp] theorem State.setEntry_mem (s : State) (slot : Nat) (e : Option Entry) : (State.setEntry s slot e).mem = s.mem := State.mk_mem
@[simp] theorem State.setCopy_pending (s : State) (k : Copy) (k' : Copy) : (State.setCopy s k k').pending = s.pending := State.mk_pending
@[simp] theorem State.setCopy_regs (s : State) (k : Copy) (k' : Copy) : (State.setCopy s k k').regs = s.regs := State.mk_regs
@[simp] theorem State.setCopy_ctrs (s : State) (k : Copy) (k' : Copy) : (State.setCopy s k k').ctrs = s.ctrs := State.mk_ctrs
@[simp] theorem State.setCopy_out (s : State) (k : Copy) (k' : Copy) : (State.setCopy s k k').out = s.out := State.mk_out
@[simp] theorem State.setCopy_draws (s : State) (k : Copy) (k' : Copy) : (State.setCopy s k k').draws = s.draws := State.mk_draws
@[simp] theorem State.setCopy_clk (s : State) (k : Copy) (k' : Copy) : (State.setCopy s k k').clk = s.clk := State.mk_clk
@[simp] theorem State.setCopy_pins (s : State) (k : Copy) (k' : Copy) : (State.setCopy s k k').pins = s.pins := State.mk_pins
@[simp] theorem State.setCopy_dev (s : State) (k : Copy) (k' : Copy) : (State.setCopy s k k').dev = s.dev := State.mk_dev
@[simp] theorem State.setCopy_flashA (s : State) (k : Copy) (k' : Copy) : (State.setCopy s k k').flashA = s.flashA := State.mk_flashA
@[simp] theorem State.setCopy_flashB (s : State) (k : Copy) (k' : Copy) : (State.setCopy s k k').flashB = s.flashB := State.mk_flashB
@[simp] theorem State.setCopy_acc (s : State) (k : Copy) (k' : Copy) : (State.setCopy s k k').acc = s.acc := State.mk_acc
@[simp] theorem State.setCopy_vote (s : State) (k : Copy) (k' : Copy) : (State.setCopy s k k').vote = s.vote := State.mk_vote
@[simp] theorem State.setCopy_rdn (s : State) (k : Copy) (k' : Copy) : (State.setCopy s k k').rdn = s.rdn := State.mk_rdn
@[simp] theorem State.setCopy_pwr (s : State) (k : Copy) (k' : Copy) : (State.setCopy s k k').pwr = s.pwr := State.mk_pwr
@[simp] theorem State.setCopy_flt (s : State) (k : Copy) (k' : Copy) : (State.setCopy s k k').flt = s.flt := State.mk_flt
@[simp] theorem State.setCopy_prt (s : State) (k : Copy) (k' : Copy) : (State.setCopy s k k').prt = s.prt := State.mk_prt
@[simp] theorem State.setCopy_mgt (s : State) (k : Copy) (k' : Copy) : (State.setCopy s k k').mgt = s.mgt := State.mk_mgt
@[simp] theorem State.setCopy_scn (s : State) (k : Copy) (k' : Copy) : (State.setCopy s k k').scn = s.scn := State.mk_scn
@[simp] theorem State.setCopy_tbl (s : State) (k : Copy) (k' : Copy) : (State.setCopy s k k').tbl = s.tbl := State.mk_tbl
@[simp] theorem State.setCopy_tms (s : State) (k : Copy) (k' : Copy) : (State.setCopy s k k').tms = s.tms := State.mk_tms
@[simp] theorem State.setCopy_ofl (s : State) (k : Copy) (k' : Copy) : (State.setCopy s k k').ofl = s.ofl := State.mk_ofl
@[simp] theorem State.setCopy_cph (s : State) (k : Copy) (k' : Copy) : (State.setCopy s k k').cph = s.cph := State.mk_cph
@[simp] theorem State.setCopy_vlt (s : State) (k : Copy) (k' : Copy) : (State.setCopy s k k').vlt = s.vlt := State.mk_vlt
@[simp] theorem State.setCopy_hep (s : State) (k : Copy) (k' : Copy) : (State.setCopy s k k').hep = s.hep := State.mk_hep
@[simp] theorem State.setCopy_slc (s : State) (k : Copy) (k' : Copy) : (State.setCopy s k k').slc = s.slc := State.mk_slc
@[simp] theorem State.setCopy_qrg (s : State) (k : Copy) (k' : Copy) : (State.setCopy s k k').qrg = s.qrg := State.mk_qrg
@[simp] theorem State.setCopy_sto (s : State) (k : Copy) (k' : Copy) : (State.setCopy s k k').sto = s.sto := State.mk_sto
@[simp] theorem State.setCopy_bmv (s : State) (k : Copy) (k' : Copy) : (State.setCopy s k k').bmv = s.bmv := State.mk_bmv
@[simp] theorem State.setCopy_trp (s : State) (k : Copy) (k' : Copy) : (State.setCopy s k k').trp = s.trp := State.mk_trp
@[simp] theorem State.setCopy_cbd (s : State) (k : Copy) (k' : Copy) : (State.setCopy s k k').cbd = s.cbd := State.mk_cbd
@[simp] theorem State.setCopy_stk (s : State) (k : Copy) (k' : Copy) : (State.setCopy s k k').stk = s.stk := State.mk_stk
@[simp] theorem State.setCopy_mem (s : State) (k : Copy) (k' : Copy) : (State.setCopy s k k').mem = s.mem := State.mk_mem
@[simp] theorem State.setFrame_pending (s : State) (x : Frame) : (State.setFrame s x).pending = s.pending := State.mk_pending
@[simp] theorem State.setFrame_regs (s : State) (x : Frame) : (State.setFrame s x).regs = s.regs := State.mk_regs
@[simp] theorem State.setFrame_ctrs (s : State) (x : Frame) : (State.setFrame s x).ctrs = s.ctrs := State.mk_ctrs
@[simp] theorem State.setFrame_out (s : State) (x : Frame) : (State.setFrame s x).out = s.out := State.mk_out
@[simp] theorem State.setFrame_draws (s : State) (x : Frame) : (State.setFrame s x).draws = s.draws := State.mk_draws
@[simp] theorem State.setFrame_clk (s : State) (x : Frame) : (State.setFrame s x).clk = s.clk := State.mk_clk
@[simp] theorem State.setFrame_pins (s : State) (x : Frame) : (State.setFrame s x).pins = s.pins := State.mk_pins
@[simp] theorem State.setFrame_dev (s : State) (x : Frame) : (State.setFrame s x).dev = s.dev := State.mk_dev
@[simp] theorem State.setFrame_flashA (s : State) (x : Frame) : (State.setFrame s x).flashA = s.flashA := State.mk_flashA
@[simp] theorem State.setFrame_flashB (s : State) (x : Frame) : (State.setFrame s x).flashB = s.flashB := State.mk_flashB
@[simp] theorem State.setFrame_acc (s : State) (x : Frame) : (State.setFrame s x).acc = s.acc := State.mk_acc
@[simp] theorem State.setFrame_vote (s : State) (x : Frame) : (State.setFrame s x).vote = s.vote := State.mk_vote
@[simp] theorem State.setFrame_rdn (s : State) (x : Frame) : (State.setFrame s x).rdn = s.rdn := State.mk_rdn
@[simp] theorem State.setFrame_pwr (s : State) (x : Frame) : (State.setFrame s x).pwr = s.pwr := State.mk_pwr
@[simp] theorem State.setFrame_flt (s : State) (x : Frame) : (State.setFrame s x).flt = s.flt := State.mk_flt
@[simp] theorem State.setFrame_prt (s : State) (x : Frame) : (State.setFrame s x).prt = s.prt := State.mk_prt
@[simp] theorem State.setFrame_mgt (s : State) (x : Frame) : (State.setFrame s x).mgt = s.mgt := State.mk_mgt
@[simp] theorem State.setFrame_scn (s : State) (x : Frame) : (State.setFrame s x).scn = s.scn := State.mk_scn
@[simp] theorem State.setFrame_tbl (s : State) (x : Frame) : (State.setFrame s x).tbl = s.tbl := State.mk_tbl
@[simp] theorem State.setFrame_tms (s : State) (x : Frame) : (State.setFrame s x).tms = s.tms := State.mk_tms
@[simp] theorem State.setFrame_ofl (s : State) (x : Frame) : (State.setFrame s x).ofl = s.ofl := State.mk_ofl
@[simp] theorem State.setFrame_cph (s : State) (x : Frame) : (State.setFrame s x).cph = s.cph := State.mk_cph
@[simp] theorem State.setFrame_vlt (s : State) (x : Frame) : (State.setFrame s x).vlt = s.vlt := State.mk_vlt
@[simp] theorem State.setFrame_hep (s : State) (x : Frame) : (State.setFrame s x).hep = s.hep := State.mk_hep
@[simp] theorem State.setFrame_slc (s : State) (x : Frame) : (State.setFrame s x).slc = s.slc := State.mk_slc
@[simp] theorem State.setFrame_qrg (s : State) (x : Frame) : (State.setFrame s x).qrg = s.qrg := State.mk_qrg
@[simp] theorem State.setFrame_sto (s : State) (x : Frame) : (State.setFrame s x).sto = s.sto := State.mk_sto
@[simp] theorem State.setFrame_bmv (s : State) (x : Frame) : (State.setFrame s x).bmv = s.bmv := State.mk_bmv
@[simp] theorem State.setFrame_trp (s : State) (x : Frame) : (State.setFrame s x).trp = s.trp := State.mk_trp
@[simp] theorem State.setFrame_cbd (s : State) (x : Frame) : (State.setFrame s x).cbd = s.cbd := State.mk_cbd
@[simp] theorem State.setFrame_stk (s : State) (x : Frame) : (State.setFrame s x).stk = s.stk := State.mk_stk
@[simp] theorem State.setFrame_mem (s : State) (x : Frame) : (State.setFrame s x).mem = s.mem := State.mk_mem
@[simp] theorem State.setSlot_pending (s : State) (n : Nat) (v : SceneSlot) : (State.setSlot s n v).pending = s.pending := State.mk_pending
@[simp] theorem State.setSlot_regs (s : State) (n : Nat) (v : SceneSlot) : (State.setSlot s n v).regs = s.regs := State.mk_regs
@[simp] theorem State.setSlot_ctrs (s : State) (n : Nat) (v : SceneSlot) : (State.setSlot s n v).ctrs = s.ctrs := State.mk_ctrs
@[simp] theorem State.setSlot_out (s : State) (n : Nat) (v : SceneSlot) : (State.setSlot s n v).out = s.out := State.mk_out
@[simp] theorem State.setSlot_draws (s : State) (n : Nat) (v : SceneSlot) : (State.setSlot s n v).draws = s.draws := State.mk_draws
@[simp] theorem State.setSlot_clk (s : State) (n : Nat) (v : SceneSlot) : (State.setSlot s n v).clk = s.clk := State.mk_clk
@[simp] theorem State.setSlot_pins (s : State) (n : Nat) (v : SceneSlot) : (State.setSlot s n v).pins = s.pins := State.mk_pins
@[simp] theorem State.setSlot_dev (s : State) (n : Nat) (v : SceneSlot) : (State.setSlot s n v).dev = s.dev := State.mk_dev
@[simp] theorem State.setSlot_flashA (s : State) (n : Nat) (v : SceneSlot) : (State.setSlot s n v).flashA = s.flashA := State.mk_flashA
@[simp] theorem State.setSlot_flashB (s : State) (n : Nat) (v : SceneSlot) : (State.setSlot s n v).flashB = s.flashB := State.mk_flashB
@[simp] theorem State.setSlot_acc (s : State) (n : Nat) (v : SceneSlot) : (State.setSlot s n v).acc = s.acc := State.mk_acc
@[simp] theorem State.setSlot_vote (s : State) (n : Nat) (v : SceneSlot) : (State.setSlot s n v).vote = s.vote := State.mk_vote
@[simp] theorem State.setSlot_rdn (s : State) (n : Nat) (v : SceneSlot) : (State.setSlot s n v).rdn = s.rdn := State.mk_rdn
@[simp] theorem State.setSlot_pwr (s : State) (n : Nat) (v : SceneSlot) : (State.setSlot s n v).pwr = s.pwr := State.mk_pwr
@[simp] theorem State.setSlot_flt (s : State) (n : Nat) (v : SceneSlot) : (State.setSlot s n v).flt = s.flt := State.mk_flt
@[simp] theorem State.setSlot_prt (s : State) (n : Nat) (v : SceneSlot) : (State.setSlot s n v).prt = s.prt := State.mk_prt
@[simp] theorem State.setSlot_mgt (s : State) (n : Nat) (v : SceneSlot) : (State.setSlot s n v).mgt = s.mgt := State.mk_mgt
@[simp] theorem State.setSlot_tbl (s : State) (n : Nat) (v : SceneSlot) : (State.setSlot s n v).tbl = s.tbl := State.mk_tbl
@[simp] theorem State.setSlot_swc (s : State) (n : Nat) (v : SceneSlot) : (State.setSlot s n v).swc = s.swc := State.mk_swc
@[simp] theorem State.setSlot_tms (s : State) (n : Nat) (v : SceneSlot) : (State.setSlot s n v).tms = s.tms := State.mk_tms
@[simp] theorem State.setSlot_ofl (s : State) (n : Nat) (v : SceneSlot) : (State.setSlot s n v).ofl = s.ofl := State.mk_ofl
@[simp] theorem State.setSlot_cph (s : State) (n : Nat) (v : SceneSlot) : (State.setSlot s n v).cph = s.cph := State.mk_cph
@[simp] theorem State.setSlot_vlt (s : State) (n : Nat) (v : SceneSlot) : (State.setSlot s n v).vlt = s.vlt := State.mk_vlt
@[simp] theorem State.setSlot_hep (s : State) (n : Nat) (v : SceneSlot) : (State.setSlot s n v).hep = s.hep := State.mk_hep
@[simp] theorem State.setSlot_slc (s : State) (n : Nat) (v : SceneSlot) : (State.setSlot s n v).slc = s.slc := State.mk_slc
@[simp] theorem State.setSlot_qrg (s : State) (n : Nat) (v : SceneSlot) : (State.setSlot s n v).qrg = s.qrg := State.mk_qrg
@[simp] theorem State.setSlot_sto (s : State) (n : Nat) (v : SceneSlot) : (State.setSlot s n v).sto = s.sto := State.mk_sto
@[simp] theorem State.setSlot_bmv (s : State) (n : Nat) (v : SceneSlot) : (State.setSlot s n v).bmv = s.bmv := State.mk_bmv
@[simp] theorem State.setSlot_trp (s : State) (n : Nat) (v : SceneSlot) : (State.setSlot s n v).trp = s.trp := State.mk_trp
@[simp] theorem State.setSlot_cbd (s : State) (n : Nat) (v : SceneSlot) : (State.setSlot s n v).cbd = s.cbd := State.mk_cbd
@[simp] theorem State.setSlot_stk (s : State) (n : Nat) (v : SceneSlot) : (State.setSlot s n v).stk = s.stk := State.mk_stk
@[simp] theorem State.setSlot_mem (s : State) (n : Nat) (v : SceneSlot) : (State.setSlot s n v).mem = s.mem := State.mk_mem
@[simp] theorem State.setStation_pending (s : State) (x : Station) : (State.setStation s x).pending = s.pending := State.mk_pending
@[simp] theorem State.setStation_regs (s : State) (x : Station) : (State.setStation s x).regs = s.regs := State.mk_regs
@[simp] theorem State.setStation_ctrs (s : State) (x : Station) : (State.setStation s x).ctrs = s.ctrs := State.mk_ctrs
@[simp] theorem State.setStation_out (s : State) (x : Station) : (State.setStation s x).out = s.out := State.mk_out
@[simp] theorem State.setStation_draws (s : State) (x : Station) : (State.setStation s x).draws = s.draws := State.mk_draws
@[simp] theorem State.setStation_clk (s : State) (x : Station) : (State.setStation s x).clk = s.clk := State.mk_clk
@[simp] theorem State.setStation_pins (s : State) (x : Station) : (State.setStation s x).pins = s.pins := State.mk_pins
@[simp] theorem State.setStation_dev (s : State) (x : Station) : (State.setStation s x).dev = s.dev := State.mk_dev
@[simp] theorem State.setStation_flashA (s : State) (x : Station) : (State.setStation s x).flashA = s.flashA := State.mk_flashA
@[simp] theorem State.setStation_flashB (s : State) (x : Station) : (State.setStation s x).flashB = s.flashB := State.mk_flashB
@[simp] theorem State.setStation_acc (s : State) (x : Station) : (State.setStation s x).acc = s.acc := State.mk_acc
@[simp] theorem State.setStation_vote (s : State) (x : Station) : (State.setStation s x).vote = s.vote := State.mk_vote
@[simp] theorem State.setStation_rdn (s : State) (x : Station) : (State.setStation s x).rdn = s.rdn := State.mk_rdn
@[simp] theorem State.setStation_pwr (s : State) (x : Station) : (State.setStation s x).pwr = s.pwr := State.mk_pwr
@[simp] theorem State.setStation_flt (s : State) (x : Station) : (State.setStation s x).flt = s.flt := State.mk_flt
@[simp] theorem State.setStation_prt (s : State) (x : Station) : (State.setStation s x).prt = s.prt := State.mk_prt
@[simp] theorem State.setStation_scn (s : State) (x : Station) : (State.setStation s x).scn = s.scn := State.mk_scn
@[simp] theorem State.setStation_tbl (s : State) (x : Station) : (State.setStation s x).tbl = s.tbl := State.mk_tbl
@[simp] theorem State.setStation_swc (s : State) (x : Station) : (State.setStation s x).swc = s.swc := State.mk_swc
@[simp] theorem State.setStation_tms (s : State) (x : Station) : (State.setStation s x).tms = s.tms := State.mk_tms
@[simp] theorem State.setStation_ofl (s : State) (x : Station) : (State.setStation s x).ofl = s.ofl := State.mk_ofl
@[simp] theorem State.setStation_cph (s : State) (x : Station) : (State.setStation s x).cph = s.cph := State.mk_cph
@[simp] theorem State.setStation_vlt (s : State) (x : Station) : (State.setStation s x).vlt = s.vlt := State.mk_vlt
@[simp] theorem State.setStation_hep (s : State) (x : Station) : (State.setStation s x).hep = s.hep := State.mk_hep
@[simp] theorem State.setStation_slc (s : State) (x : Station) : (State.setStation s x).slc = s.slc := State.mk_slc
@[simp] theorem State.setStation_qrg (s : State) (x : Station) : (State.setStation s x).qrg = s.qrg := State.mk_qrg
@[simp] theorem State.setStation_sto (s : State) (x : Station) : (State.setStation s x).sto = s.sto := State.mk_sto
@[simp] theorem State.setStation_bmv (s : State) (x : Station) : (State.setStation s x).bmv = s.bmv := State.mk_bmv
@[simp] theorem State.setStation_trp (s : State) (x : Station) : (State.setStation s x).trp = s.trp := State.mk_trp
@[simp] theorem State.setStation_cbd (s : State) (x : Station) : (State.setStation s x).cbd = s.cbd := State.mk_cbd
@[simp] theorem State.setStation_stk (s : State) (x : Station) : (State.setStation s x).stk = s.stk := State.mk_stk
@[simp] theorem State.setStation_mem (s : State) (x : Station) : (State.setStation s x).mem = s.mem := State.mk_mem
@[simp] theorem State.setBridge_pending (s : State) (b : SlowBlock) (w : Option SlowWrite) : (State.setBridge s b w).pending = s.pending := State.mk_pending
@[simp] theorem State.setBridge_regs (s : State) (b : SlowBlock) (w : Option SlowWrite) : (State.setBridge s b w).regs = s.regs := State.mk_regs
@[simp] theorem State.setBridge_ctrs (s : State) (b : SlowBlock) (w : Option SlowWrite) : (State.setBridge s b w).ctrs = s.ctrs := State.mk_ctrs
@[simp] theorem State.setBridge_out (s : State) (b : SlowBlock) (w : Option SlowWrite) : (State.setBridge s b w).out = s.out := State.mk_out
@[simp] theorem State.setBridge_draws (s : State) (b : SlowBlock) (w : Option SlowWrite) : (State.setBridge s b w).draws = s.draws := State.mk_draws
@[simp] theorem State.setBridge_clk (s : State) (b : SlowBlock) (w : Option SlowWrite) : (State.setBridge s b w).clk = s.clk := State.mk_clk
@[simp] theorem State.setBridge_pins (s : State) (b : SlowBlock) (w : Option SlowWrite) : (State.setBridge s b w).pins = s.pins := State.mk_pins
@[simp] theorem State.setBridge_dev (s : State) (b : SlowBlock) (w : Option SlowWrite) : (State.setBridge s b w).dev = s.dev := State.mk_dev
@[simp] theorem State.setBridge_flashA (s : State) (b : SlowBlock) (w : Option SlowWrite) : (State.setBridge s b w).flashA = s.flashA := State.mk_flashA
@[simp] theorem State.setBridge_flashB (s : State) (b : SlowBlock) (w : Option SlowWrite) : (State.setBridge s b w).flashB = s.flashB := State.mk_flashB
@[simp] theorem State.setBridge_vote (s : State) (b : SlowBlock) (w : Option SlowWrite) : (State.setBridge s b w).vote = s.vote := State.mk_vote
@[simp] theorem State.setBridge_rdn (s : State) (b : SlowBlock) (w : Option SlowWrite) : (State.setBridge s b w).rdn = s.rdn := State.mk_rdn
@[simp] theorem State.setBridge_pwr (s : State) (b : SlowBlock) (w : Option SlowWrite) : (State.setBridge s b w).pwr = s.pwr := State.mk_pwr
@[simp] theorem State.setBridge_flt (s : State) (b : SlowBlock) (w : Option SlowWrite) : (State.setBridge s b w).flt = s.flt := State.mk_flt
@[simp] theorem State.setBridge_prt (s : State) (b : SlowBlock) (w : Option SlowWrite) : (State.setBridge s b w).prt = s.prt := State.mk_prt
@[simp] theorem State.setBridge_mgt (s : State) (b : SlowBlock) (w : Option SlowWrite) : (State.setBridge s b w).mgt = s.mgt := State.mk_mgt
@[simp] theorem State.setBridge_scn (s : State) (b : SlowBlock) (w : Option SlowWrite) : (State.setBridge s b w).scn = s.scn := State.mk_scn
@[simp] theorem State.setBridge_tbl (s : State) (b : SlowBlock) (w : Option SlowWrite) : (State.setBridge s b w).tbl = s.tbl := State.mk_tbl
@[simp] theorem State.setBridge_swc (s : State) (b : SlowBlock) (w : Option SlowWrite) : (State.setBridge s b w).swc = s.swc := State.mk_swc
@[simp] theorem State.setBridge_tms (s : State) (b : SlowBlock) (w : Option SlowWrite) : (State.setBridge s b w).tms = s.tms := State.mk_tms
@[simp] theorem State.setBridge_ofl (s : State) (b : SlowBlock) (w : Option SlowWrite) : (State.setBridge s b w).ofl = s.ofl := State.mk_ofl
@[simp] theorem State.setBridge_cph (s : State) (b : SlowBlock) (w : Option SlowWrite) : (State.setBridge s b w).cph = s.cph := State.mk_cph
@[simp] theorem State.setBridge_vlt (s : State) (b : SlowBlock) (w : Option SlowWrite) : (State.setBridge s b w).vlt = s.vlt := State.mk_vlt
@[simp] theorem State.setBridge_hep (s : State) (b : SlowBlock) (w : Option SlowWrite) : (State.setBridge s b w).hep = s.hep := State.mk_hep
@[simp] theorem State.setBridge_slc (s : State) (b : SlowBlock) (w : Option SlowWrite) : (State.setBridge s b w).slc = s.slc := State.mk_slc
@[simp] theorem State.setBridge_qrg (s : State) (b : SlowBlock) (w : Option SlowWrite) : (State.setBridge s b w).qrg = s.qrg := State.mk_qrg
@[simp] theorem State.setBridge_sto (s : State) (b : SlowBlock) (w : Option SlowWrite) : (State.setBridge s b w).sto = s.sto := State.mk_sto
@[simp] theorem State.setBridge_bmv (s : State) (b : SlowBlock) (w : Option SlowWrite) : (State.setBridge s b w).bmv = s.bmv := State.mk_bmv
@[simp] theorem State.setBridge_trp (s : State) (b : SlowBlock) (w : Option SlowWrite) : (State.setBridge s b w).trp = s.trp := State.mk_trp
@[simp] theorem State.setBridge_cbd (s : State) (b : SlowBlock) (w : Option SlowWrite) : (State.setBridge s b w).cbd = s.cbd := State.mk_cbd
@[simp] theorem State.setBridge_stk (s : State) (b : SlowBlock) (w : Option SlowWrite) : (State.setBridge s b w).stk = s.stk := State.mk_stk
@[simp] theorem State.setBridge_mem (s : State) (b : SlowBlock) (w : Option SlowWrite) : (State.setBridge s b w).mem = s.mem := State.mk_mem
@[simp] theorem State.setLatch_pending (s : State) (r : Requester) (v : Option (Nat × BitVec 32)) : (State.setLatch s r v).pending = s.pending := State.mk_pending
@[simp] theorem State.setLatch_regs (s : State) (r : Requester) (v : Option (Nat × BitVec 32)) : (State.setLatch s r v).regs = s.regs := State.mk_regs
@[simp] theorem State.setLatch_ctrs (s : State) (r : Requester) (v : Option (Nat × BitVec 32)) : (State.setLatch s r v).ctrs = s.ctrs := State.mk_ctrs
@[simp] theorem State.setLatch_out (s : State) (r : Requester) (v : Option (Nat × BitVec 32)) : (State.setLatch s r v).out = s.out := State.mk_out
@[simp] theorem State.setLatch_draws (s : State) (r : Requester) (v : Option (Nat × BitVec 32)) : (State.setLatch s r v).draws = s.draws := State.mk_draws
@[simp] theorem State.setLatch_clk (s : State) (r : Requester) (v : Option (Nat × BitVec 32)) : (State.setLatch s r v).clk = s.clk := State.mk_clk
@[simp] theorem State.setLatch_pins (s : State) (r : Requester) (v : Option (Nat × BitVec 32)) : (State.setLatch s r v).pins = s.pins := State.mk_pins
@[simp] theorem State.setLatch_dev (s : State) (r : Requester) (v : Option (Nat × BitVec 32)) : (State.setLatch s r v).dev = s.dev := State.mk_dev
@[simp] theorem State.setLatch_flashA (s : State) (r : Requester) (v : Option (Nat × BitVec 32)) : (State.setLatch s r v).flashA = s.flashA := State.mk_flashA
@[simp] theorem State.setLatch_flashB (s : State) (r : Requester) (v : Option (Nat × BitVec 32)) : (State.setLatch s r v).flashB = s.flashB := State.mk_flashB
@[simp] theorem State.setLatch_vote (s : State) (r : Requester) (v : Option (Nat × BitVec 32)) : (State.setLatch s r v).vote = s.vote := State.mk_vote
@[simp] theorem State.setLatch_rdn (s : State) (r : Requester) (v : Option (Nat × BitVec 32)) : (State.setLatch s r v).rdn = s.rdn := State.mk_rdn
@[simp] theorem State.setLatch_pwr (s : State) (r : Requester) (v : Option (Nat × BitVec 32)) : (State.setLatch s r v).pwr = s.pwr := State.mk_pwr
@[simp] theorem State.setLatch_flt (s : State) (r : Requester) (v : Option (Nat × BitVec 32)) : (State.setLatch s r v).flt = s.flt := State.mk_flt
@[simp] theorem State.setLatch_prt (s : State) (r : Requester) (v : Option (Nat × BitVec 32)) : (State.setLatch s r v).prt = s.prt := State.mk_prt
@[simp] theorem State.setLatch_mgt (s : State) (r : Requester) (v : Option (Nat × BitVec 32)) : (State.setLatch s r v).mgt = s.mgt := State.mk_mgt
@[simp] theorem State.setLatch_scn (s : State) (r : Requester) (v : Option (Nat × BitVec 32)) : (State.setLatch s r v).scn = s.scn := State.mk_scn
@[simp] theorem State.setLatch_tbl (s : State) (r : Requester) (v : Option (Nat × BitVec 32)) : (State.setLatch s r v).tbl = s.tbl := State.mk_tbl
@[simp] theorem State.setLatch_swc (s : State) (r : Requester) (v : Option (Nat × BitVec 32)) : (State.setLatch s r v).swc = s.swc := State.mk_swc
@[simp] theorem State.setLatch_tms (s : State) (r : Requester) (v : Option (Nat × BitVec 32)) : (State.setLatch s r v).tms = s.tms := State.mk_tms
@[simp] theorem State.setLatch_ofl (s : State) (r : Requester) (v : Option (Nat × BitVec 32)) : (State.setLatch s r v).ofl = s.ofl := State.mk_ofl
@[simp] theorem State.setLatch_cph (s : State) (r : Requester) (v : Option (Nat × BitVec 32)) : (State.setLatch s r v).cph = s.cph := State.mk_cph
@[simp] theorem State.setLatch_vlt (s : State) (r : Requester) (v : Option (Nat × BitVec 32)) : (State.setLatch s r v).vlt = s.vlt := State.mk_vlt
@[simp] theorem State.setLatch_hep (s : State) (r : Requester) (v : Option (Nat × BitVec 32)) : (State.setLatch s r v).hep = s.hep := State.mk_hep
@[simp] theorem State.setLatch_slc (s : State) (r : Requester) (v : Option (Nat × BitVec 32)) : (State.setLatch s r v).slc = s.slc := State.mk_slc
@[simp] theorem State.setLatch_qrg (s : State) (r : Requester) (v : Option (Nat × BitVec 32)) : (State.setLatch s r v).qrg = s.qrg := State.mk_qrg
@[simp] theorem State.setLatch_sto (s : State) (r : Requester) (v : Option (Nat × BitVec 32)) : (State.setLatch s r v).sto = s.sto := State.mk_sto
@[simp] theorem State.setLatch_bmv (s : State) (r : Requester) (v : Option (Nat × BitVec 32)) : (State.setLatch s r v).bmv = s.bmv := State.mk_bmv
@[simp] theorem State.setLatch_trp (s : State) (r : Requester) (v : Option (Nat × BitVec 32)) : (State.setLatch s r v).trp = s.trp := State.mk_trp
@[simp] theorem State.setLatch_cbd (s : State) (r : Requester) (v : Option (Nat × BitVec 32)) : (State.setLatch s r v).cbd = s.cbd := State.mk_cbd
@[simp] theorem State.setLatch_stk (s : State) (r : Requester) (v : Option (Nat × BitVec 32)) : (State.setLatch s r v).stk = s.stk := State.mk_stk
@[simp] theorem State.setLatch_mem (s : State) (r : Requester) (v : Option (Nat × BitVec 32)) : (State.setLatch s r v).mem = s.mem := State.mk_mem
@[simp] theorem State.setBuffer_pending (s : State) (r : Requester) (v : Option (Nat × BitVec 32)) : (State.setBuffer s r v).pending = s.pending := State.mk_pending
@[simp] theorem State.setBuffer_regs (s : State) (r : Requester) (v : Option (Nat × BitVec 32)) : (State.setBuffer s r v).regs = s.regs := State.mk_regs
@[simp] theorem State.setBuffer_ctrs (s : State) (r : Requester) (v : Option (Nat × BitVec 32)) : (State.setBuffer s r v).ctrs = s.ctrs := State.mk_ctrs
@[simp] theorem State.setBuffer_out (s : State) (r : Requester) (v : Option (Nat × BitVec 32)) : (State.setBuffer s r v).out = s.out := State.mk_out
@[simp] theorem State.setBuffer_draws (s : State) (r : Requester) (v : Option (Nat × BitVec 32)) : (State.setBuffer s r v).draws = s.draws := State.mk_draws
@[simp] theorem State.setBuffer_clk (s : State) (r : Requester) (v : Option (Nat × BitVec 32)) : (State.setBuffer s r v).clk = s.clk := State.mk_clk
@[simp] theorem State.setBuffer_pins (s : State) (r : Requester) (v : Option (Nat × BitVec 32)) : (State.setBuffer s r v).pins = s.pins := State.mk_pins
@[simp] theorem State.setBuffer_dev (s : State) (r : Requester) (v : Option (Nat × BitVec 32)) : (State.setBuffer s r v).dev = s.dev := State.mk_dev
@[simp] theorem State.setBuffer_flashA (s : State) (r : Requester) (v : Option (Nat × BitVec 32)) : (State.setBuffer s r v).flashA = s.flashA := State.mk_flashA
@[simp] theorem State.setBuffer_flashB (s : State) (r : Requester) (v : Option (Nat × BitVec 32)) : (State.setBuffer s r v).flashB = s.flashB := State.mk_flashB
@[simp] theorem State.setBuffer_vote (s : State) (r : Requester) (v : Option (Nat × BitVec 32)) : (State.setBuffer s r v).vote = s.vote := State.mk_vote
@[simp] theorem State.setBuffer_rdn (s : State) (r : Requester) (v : Option (Nat × BitVec 32)) : (State.setBuffer s r v).rdn = s.rdn := State.mk_rdn
@[simp] theorem State.setBuffer_pwr (s : State) (r : Requester) (v : Option (Nat × BitVec 32)) : (State.setBuffer s r v).pwr = s.pwr := State.mk_pwr
@[simp] theorem State.setBuffer_flt (s : State) (r : Requester) (v : Option (Nat × BitVec 32)) : (State.setBuffer s r v).flt = s.flt := State.mk_flt
@[simp] theorem State.setBuffer_prt (s : State) (r : Requester) (v : Option (Nat × BitVec 32)) : (State.setBuffer s r v).prt = s.prt := State.mk_prt
@[simp] theorem State.setBuffer_mgt (s : State) (r : Requester) (v : Option (Nat × BitVec 32)) : (State.setBuffer s r v).mgt = s.mgt := State.mk_mgt
@[simp] theorem State.setBuffer_scn (s : State) (r : Requester) (v : Option (Nat × BitVec 32)) : (State.setBuffer s r v).scn = s.scn := State.mk_scn
@[simp] theorem State.setBuffer_tbl (s : State) (r : Requester) (v : Option (Nat × BitVec 32)) : (State.setBuffer s r v).tbl = s.tbl := State.mk_tbl
@[simp] theorem State.setBuffer_swc (s : State) (r : Requester) (v : Option (Nat × BitVec 32)) : (State.setBuffer s r v).swc = s.swc := State.mk_swc
@[simp] theorem State.setBuffer_tms (s : State) (r : Requester) (v : Option (Nat × BitVec 32)) : (State.setBuffer s r v).tms = s.tms := State.mk_tms
@[simp] theorem State.setBuffer_ofl (s : State) (r : Requester) (v : Option (Nat × BitVec 32)) : (State.setBuffer s r v).ofl = s.ofl := State.mk_ofl
@[simp] theorem State.setBuffer_cph (s : State) (r : Requester) (v : Option (Nat × BitVec 32)) : (State.setBuffer s r v).cph = s.cph := State.mk_cph
@[simp] theorem State.setBuffer_vlt (s : State) (r : Requester) (v : Option (Nat × BitVec 32)) : (State.setBuffer s r v).vlt = s.vlt := State.mk_vlt
@[simp] theorem State.setBuffer_hep (s : State) (r : Requester) (v : Option (Nat × BitVec 32)) : (State.setBuffer s r v).hep = s.hep := State.mk_hep
@[simp] theorem State.setBuffer_slc (s : State) (r : Requester) (v : Option (Nat × BitVec 32)) : (State.setBuffer s r v).slc = s.slc := State.mk_slc
@[simp] theorem State.setBuffer_qrg (s : State) (r : Requester) (v : Option (Nat × BitVec 32)) : (State.setBuffer s r v).qrg = s.qrg := State.mk_qrg
@[simp] theorem State.setBuffer_sto (s : State) (r : Requester) (v : Option (Nat × BitVec 32)) : (State.setBuffer s r v).sto = s.sto := State.mk_sto
@[simp] theorem State.setBuffer_bmv (s : State) (r : Requester) (v : Option (Nat × BitVec 32)) : (State.setBuffer s r v).bmv = s.bmv := State.mk_bmv
@[simp] theorem State.setBuffer_trp (s : State) (r : Requester) (v : Option (Nat × BitVec 32)) : (State.setBuffer s r v).trp = s.trp := State.mk_trp
@[simp] theorem State.setBuffer_cbd (s : State) (r : Requester) (v : Option (Nat × BitVec 32)) : (State.setBuffer s r v).cbd = s.cbd := State.mk_cbd
@[simp] theorem State.setBuffer_stk (s : State) (r : Requester) (v : Option (Nat × BitVec 32)) : (State.setBuffer s r v).stk = s.stk := State.mk_stk
@[simp] theorem State.setBuffer_mem (s : State) (r : Requester) (v : Option (Nat × BitVec 32)) : (State.setBuffer s r v).mem = s.mem := State.mk_mem
@[simp] theorem State.setTimeInput_pending (s : State) (i : Nat) (v : TimeInput) : (State.setTimeInput s i v).pending = s.pending := State.mk_pending
@[simp] theorem State.setTimeInput_regs (s : State) (i : Nat) (v : TimeInput) : (State.setTimeInput s i v).regs = s.regs := State.mk_regs
@[simp] theorem State.setTimeInput_ctrs (s : State) (i : Nat) (v : TimeInput) : (State.setTimeInput s i v).ctrs = s.ctrs := State.mk_ctrs
@[simp] theorem State.setTimeInput_out (s : State) (i : Nat) (v : TimeInput) : (State.setTimeInput s i v).out = s.out := State.mk_out
@[simp] theorem State.setTimeInput_draws (s : State) (i : Nat) (v : TimeInput) : (State.setTimeInput s i v).draws = s.draws := State.mk_draws
@[simp] theorem State.setTimeInput_clk (s : State) (i : Nat) (v : TimeInput) : (State.setTimeInput s i v).clk = s.clk := State.mk_clk
@[simp] theorem State.setTimeInput_pins (s : State) (i : Nat) (v : TimeInput) : (State.setTimeInput s i v).pins = s.pins := State.mk_pins
@[simp] theorem State.setTimeInput_dev (s : State) (i : Nat) (v : TimeInput) : (State.setTimeInput s i v).dev = s.dev := State.mk_dev
@[simp] theorem State.setTimeInput_flashA (s : State) (i : Nat) (v : TimeInput) : (State.setTimeInput s i v).flashA = s.flashA := State.mk_flashA
@[simp] theorem State.setTimeInput_flashB (s : State) (i : Nat) (v : TimeInput) : (State.setTimeInput s i v).flashB = s.flashB := State.mk_flashB
@[simp] theorem State.setTimeInput_acc (s : State) (i : Nat) (v : TimeInput) : (State.setTimeInput s i v).acc = s.acc := State.mk_acc
@[simp] theorem State.setTimeInput_vote (s : State) (i : Nat) (v : TimeInput) : (State.setTimeInput s i v).vote = s.vote := State.mk_vote
@[simp] theorem State.setTimeInput_rdn (s : State) (i : Nat) (v : TimeInput) : (State.setTimeInput s i v).rdn = s.rdn := State.mk_rdn
@[simp] theorem State.setTimeInput_pwr (s : State) (i : Nat) (v : TimeInput) : (State.setTimeInput s i v).pwr = s.pwr := State.mk_pwr
@[simp] theorem State.setTimeInput_flt (s : State) (i : Nat) (v : TimeInput) : (State.setTimeInput s i v).flt = s.flt := State.mk_flt
@[simp] theorem State.setTimeInput_prt (s : State) (i : Nat) (v : TimeInput) : (State.setTimeInput s i v).prt = s.prt := State.mk_prt
@[simp] theorem State.setTimeInput_scn (s : State) (i : Nat) (v : TimeInput) : (State.setTimeInput s i v).scn = s.scn := State.mk_scn
@[simp] theorem State.setTimeInput_tbl (s : State) (i : Nat) (v : TimeInput) : (State.setTimeInput s i v).tbl = s.tbl := State.mk_tbl
@[simp] theorem State.setTimeInput_swc (s : State) (i : Nat) (v : TimeInput) : (State.setTimeInput s i v).swc = s.swc := State.mk_swc
@[simp] theorem State.setTimeInput_tms (s : State) (i : Nat) (v : TimeInput) : (State.setTimeInput s i v).tms = s.tms := State.mk_tms
@[simp] theorem State.setTimeInput_ofl (s : State) (i : Nat) (v : TimeInput) : (State.setTimeInput s i v).ofl = s.ofl := State.mk_ofl
@[simp] theorem State.setTimeInput_cph (s : State) (i : Nat) (v : TimeInput) : (State.setTimeInput s i v).cph = s.cph := State.mk_cph
@[simp] theorem State.setTimeInput_vlt (s : State) (i : Nat) (v : TimeInput) : (State.setTimeInput s i v).vlt = s.vlt := State.mk_vlt
@[simp] theorem State.setTimeInput_hep (s : State) (i : Nat) (v : TimeInput) : (State.setTimeInput s i v).hep = s.hep := State.mk_hep
@[simp] theorem State.setTimeInput_slc (s : State) (i : Nat) (v : TimeInput) : (State.setTimeInput s i v).slc = s.slc := State.mk_slc
@[simp] theorem State.setTimeInput_qrg (s : State) (i : Nat) (v : TimeInput) : (State.setTimeInput s i v).qrg = s.qrg := State.mk_qrg
@[simp] theorem State.setTimeInput_sto (s : State) (i : Nat) (v : TimeInput) : (State.setTimeInput s i v).sto = s.sto := State.mk_sto
@[simp] theorem State.setTimeInput_bmv (s : State) (i : Nat) (v : TimeInput) : (State.setTimeInput s i v).bmv = s.bmv := State.mk_bmv
@[simp] theorem State.setTimeInput_trp (s : State) (i : Nat) (v : TimeInput) : (State.setTimeInput s i v).trp = s.trp := State.mk_trp
@[simp] theorem State.setTimeInput_cbd (s : State) (i : Nat) (v : TimeInput) : (State.setTimeInput s i v).cbd = s.cbd := State.mk_cbd
@[simp] theorem State.setTimeInput_stk (s : State) (i : Nat) (v : TimeInput) : (State.setTimeInput s i v).stk = s.stk := State.mk_stk
@[simp] theorem State.setTimeInput_mem (s : State) (i : Nat) (v : TimeInput) : (State.setTimeInput s i v).mem = s.mem := State.mk_mem
@[simp] theorem State.setStk_pending (s : State) (x : Stk) : (State.setStk s x).pending = s.pending := State.mk_pending
@[simp] theorem State.setStk_regs (s : State) (x : Stk) : (State.setStk s x).regs = s.regs := State.mk_regs
@[simp] theorem State.setStk_ctrs (s : State) (x : Stk) : (State.setStk s x).ctrs = s.ctrs := State.mk_ctrs
@[simp] theorem State.setStk_out (s : State) (x : Stk) : (State.setStk s x).out = s.out := State.mk_out
@[simp] theorem State.setStk_draws (s : State) (x : Stk) : (State.setStk s x).draws = s.draws := State.mk_draws
@[simp] theorem State.setStk_clk (s : State) (x : Stk) : (State.setStk s x).clk = s.clk := State.mk_clk
@[simp] theorem State.setStk_pins (s : State) (x : Stk) : (State.setStk s x).pins = s.pins := State.mk_pins
@[simp] theorem State.setStk_dev (s : State) (x : Stk) : (State.setStk s x).dev = s.dev := State.mk_dev
@[simp] theorem State.setStk_flashA (s : State) (x : Stk) : (State.setStk s x).flashA = s.flashA := State.mk_flashA
@[simp] theorem State.setStk_flashB (s : State) (x : Stk) : (State.setStk s x).flashB = s.flashB := State.mk_flashB
@[simp] theorem State.setStk_acc (s : State) (x : Stk) : (State.setStk s x).acc = s.acc := State.mk_acc
@[simp] theorem State.setStk_vote (s : State) (x : Stk) : (State.setStk s x).vote = s.vote := State.mk_vote
@[simp] theorem State.setStk_rdn (s : State) (x : Stk) : (State.setStk s x).rdn = s.rdn := State.mk_rdn
@[simp] theorem State.setStk_pwr (s : State) (x : Stk) : (State.setStk s x).pwr = s.pwr := State.mk_pwr
@[simp] theorem State.setStk_flt (s : State) (x : Stk) : (State.setStk s x).flt = s.flt := State.mk_flt
@[simp] theorem State.setStk_prt (s : State) (x : Stk) : (State.setStk s x).prt = s.prt := State.mk_prt
@[simp] theorem State.setStk_mgt (s : State) (x : Stk) : (State.setStk s x).mgt = s.mgt := State.mk_mgt
@[simp] theorem State.setStk_scn (s : State) (x : Stk) : (State.setStk s x).scn = s.scn := State.mk_scn
@[simp] theorem State.setStk_tbl (s : State) (x : Stk) : (State.setStk s x).tbl = s.tbl := State.mk_tbl
@[simp] theorem State.setStk_swc (s : State) (x : Stk) : (State.setStk s x).swc = s.swc := State.mk_swc
@[simp] theorem State.setStk_tms (s : State) (x : Stk) : (State.setStk s x).tms = s.tms := State.mk_tms
@[simp] theorem State.setStk_ofl (s : State) (x : Stk) : (State.setStk s x).ofl = s.ofl := State.mk_ofl
@[simp] theorem State.setStk_cph (s : State) (x : Stk) : (State.setStk s x).cph = s.cph := State.mk_cph
@[simp] theorem State.setStk_vlt (s : State) (x : Stk) : (State.setStk s x).vlt = s.vlt := State.mk_vlt
@[simp] theorem State.setStk_hep (s : State) (x : Stk) : (State.setStk s x).hep = s.hep := State.mk_hep
@[simp] theorem State.setStk_slc (s : State) (x : Stk) : (State.setStk s x).slc = s.slc := State.mk_slc
@[simp] theorem State.setStk_qrg (s : State) (x : Stk) : (State.setStk s x).qrg = s.qrg := State.mk_qrg
@[simp] theorem State.setStk_sto (s : State) (x : Stk) : (State.setStk s x).sto = s.sto := State.mk_sto
@[simp] theorem State.setStk_bmv (s : State) (x : Stk) : (State.setStk s x).bmv = s.bmv := State.mk_bmv
@[simp] theorem State.setStk_trp (s : State) (x : Stk) : (State.setStk s x).trp = s.trp := State.mk_trp
@[simp] theorem State.setStk_cbd (s : State) (x : Stk) : (State.setStk s x).cbd = s.cbd := State.mk_cbd
@[simp] theorem State.setStk_mem (s : State) (x : Stk) : (State.setStk s x).mem = s.mem := State.mk_mem
@[simp] theorem State.setConn_pending (s : State) (c : Nat) (b : List Byte) : (State.setConn s c b).pending = s.pending := State.mk_pending
@[simp] theorem State.setConn_regs (s : State) (c : Nat) (b : List Byte) : (State.setConn s c b).regs = s.regs := State.mk_regs
@[simp] theorem State.setConn_ctrs (s : State) (c : Nat) (b : List Byte) : (State.setConn s c b).ctrs = s.ctrs := State.mk_ctrs
@[simp] theorem State.setConn_out (s : State) (c : Nat) (b : List Byte) : (State.setConn s c b).out = s.out := State.mk_out
@[simp] theorem State.setConn_draws (s : State) (c : Nat) (b : List Byte) : (State.setConn s c b).draws = s.draws := State.mk_draws
@[simp] theorem State.setConn_clk (s : State) (c : Nat) (b : List Byte) : (State.setConn s c b).clk = s.clk := State.mk_clk
@[simp] theorem State.setConn_pins (s : State) (c : Nat) (b : List Byte) : (State.setConn s c b).pins = s.pins := State.mk_pins
@[simp] theorem State.setConn_dev (s : State) (c : Nat) (b : List Byte) : (State.setConn s c b).dev = s.dev := State.mk_dev
@[simp] theorem State.setConn_flashA (s : State) (c : Nat) (b : List Byte) : (State.setConn s c b).flashA = s.flashA := State.mk_flashA
@[simp] theorem State.setConn_flashB (s : State) (c : Nat) (b : List Byte) : (State.setConn s c b).flashB = s.flashB := State.mk_flashB
@[simp] theorem State.setConn_acc (s : State) (c : Nat) (b : List Byte) : (State.setConn s c b).acc = s.acc := State.mk_acc
@[simp] theorem State.setConn_vote (s : State) (c : Nat) (b : List Byte) : (State.setConn s c b).vote = s.vote := State.mk_vote
@[simp] theorem State.setConn_rdn (s : State) (c : Nat) (b : List Byte) : (State.setConn s c b).rdn = s.rdn := State.mk_rdn
@[simp] theorem State.setConn_pwr (s : State) (c : Nat) (b : List Byte) : (State.setConn s c b).pwr = s.pwr := State.mk_pwr
@[simp] theorem State.setConn_flt (s : State) (c : Nat) (b : List Byte) : (State.setConn s c b).flt = s.flt := State.mk_flt
@[simp] theorem State.setConn_prt (s : State) (c : Nat) (b : List Byte) : (State.setConn s c b).prt = s.prt := State.mk_prt
@[simp] theorem State.setConn_mgt (s : State) (c : Nat) (b : List Byte) : (State.setConn s c b).mgt = s.mgt := State.mk_mgt
@[simp] theorem State.setConn_scn (s : State) (c : Nat) (b : List Byte) : (State.setConn s c b).scn = s.scn := State.mk_scn
@[simp] theorem State.setConn_tbl (s : State) (c : Nat) (b : List Byte) : (State.setConn s c b).tbl = s.tbl := State.mk_tbl
@[simp] theorem State.setConn_swc (s : State) (c : Nat) (b : List Byte) : (State.setConn s c b).swc = s.swc := State.mk_swc
@[simp] theorem State.setConn_tms (s : State) (c : Nat) (b : List Byte) : (State.setConn s c b).tms = s.tms := State.mk_tms
@[simp] theorem State.setConn_cph (s : State) (c : Nat) (b : List Byte) : (State.setConn s c b).cph = s.cph := State.mk_cph
@[simp] theorem State.setConn_vlt (s : State) (c : Nat) (b : List Byte) : (State.setConn s c b).vlt = s.vlt := State.mk_vlt
@[simp] theorem State.setConn_hep (s : State) (c : Nat) (b : List Byte) : (State.setConn s c b).hep = s.hep := State.mk_hep
@[simp] theorem State.setConn_slc (s : State) (c : Nat) (b : List Byte) : (State.setConn s c b).slc = s.slc := State.mk_slc
@[simp] theorem State.setConn_qrg (s : State) (c : Nat) (b : List Byte) : (State.setConn s c b).qrg = s.qrg := State.mk_qrg
@[simp] theorem State.setConn_sto (s : State) (c : Nat) (b : List Byte) : (State.setConn s c b).sto = s.sto := State.mk_sto
@[simp] theorem State.setConn_bmv (s : State) (c : Nat) (b : List Byte) : (State.setConn s c b).bmv = s.bmv := State.mk_bmv
@[simp] theorem State.setConn_trp (s : State) (c : Nat) (b : List Byte) : (State.setConn s c b).trp = s.trp := State.mk_trp
@[simp] theorem State.setConn_cbd (s : State) (c : Nat) (b : List Byte) : (State.setConn s c b).cbd = s.cbd := State.mk_cbd
@[simp] theorem State.setConn_stk (s : State) (c : Nat) (b : List Byte) : (State.setConn s c b).stk = s.stk := State.mk_stk
@[simp] theorem State.setConn_mem (s : State) (c : Nat) (b : List Byte) : (State.setConn s c b).mem = s.mem := State.mk_mem
@[simp] theorem State.setTun_pending (s : State) (c : Nat) (b : List Byte) : (State.setTun s c b).pending = s.pending := State.mk_pending
@[simp] theorem State.setTun_regs (s : State) (c : Nat) (b : List Byte) : (State.setTun s c b).regs = s.regs := State.mk_regs
@[simp] theorem State.setTun_ctrs (s : State) (c : Nat) (b : List Byte) : (State.setTun s c b).ctrs = s.ctrs := State.mk_ctrs
@[simp] theorem State.setTun_out (s : State) (c : Nat) (b : List Byte) : (State.setTun s c b).out = s.out := State.mk_out
@[simp] theorem State.setTun_draws (s : State) (c : Nat) (b : List Byte) : (State.setTun s c b).draws = s.draws := State.mk_draws
@[simp] theorem State.setTun_clk (s : State) (c : Nat) (b : List Byte) : (State.setTun s c b).clk = s.clk := State.mk_clk
@[simp] theorem State.setTun_pins (s : State) (c : Nat) (b : List Byte) : (State.setTun s c b).pins = s.pins := State.mk_pins
@[simp] theorem State.setTun_dev (s : State) (c : Nat) (b : List Byte) : (State.setTun s c b).dev = s.dev := State.mk_dev
@[simp] theorem State.setTun_flashA (s : State) (c : Nat) (b : List Byte) : (State.setTun s c b).flashA = s.flashA := State.mk_flashA
@[simp] theorem State.setTun_flashB (s : State) (c : Nat) (b : List Byte) : (State.setTun s c b).flashB = s.flashB := State.mk_flashB
@[simp] theorem State.setTun_acc (s : State) (c : Nat) (b : List Byte) : (State.setTun s c b).acc = s.acc := State.mk_acc
@[simp] theorem State.setTun_vote (s : State) (c : Nat) (b : List Byte) : (State.setTun s c b).vote = s.vote := State.mk_vote
@[simp] theorem State.setTun_rdn (s : State) (c : Nat) (b : List Byte) : (State.setTun s c b).rdn = s.rdn := State.mk_rdn
@[simp] theorem State.setTun_pwr (s : State) (c : Nat) (b : List Byte) : (State.setTun s c b).pwr = s.pwr := State.mk_pwr
@[simp] theorem State.setTun_flt (s : State) (c : Nat) (b : List Byte) : (State.setTun s c b).flt = s.flt := State.mk_flt
@[simp] theorem State.setTun_prt (s : State) (c : Nat) (b : List Byte) : (State.setTun s c b).prt = s.prt := State.mk_prt
@[simp] theorem State.setTun_mgt (s : State) (c : Nat) (b : List Byte) : (State.setTun s c b).mgt = s.mgt := State.mk_mgt
@[simp] theorem State.setTun_scn (s : State) (c : Nat) (b : List Byte) : (State.setTun s c b).scn = s.scn := State.mk_scn
@[simp] theorem State.setTun_tbl (s : State) (c : Nat) (b : List Byte) : (State.setTun s c b).tbl = s.tbl := State.mk_tbl
@[simp] theorem State.setTun_swc (s : State) (c : Nat) (b : List Byte) : (State.setTun s c b).swc = s.swc := State.mk_swc
@[simp] theorem State.setTun_tms (s : State) (c : Nat) (b : List Byte) : (State.setTun s c b).tms = s.tms := State.mk_tms
@[simp] theorem State.setTun_cph (s : State) (c : Nat) (b : List Byte) : (State.setTun s c b).cph = s.cph := State.mk_cph
@[simp] theorem State.setTun_vlt (s : State) (c : Nat) (b : List Byte) : (State.setTun s c b).vlt = s.vlt := State.mk_vlt
@[simp] theorem State.setTun_hep (s : State) (c : Nat) (b : List Byte) : (State.setTun s c b).hep = s.hep := State.mk_hep
@[simp] theorem State.setTun_slc (s : State) (c : Nat) (b : List Byte) : (State.setTun s c b).slc = s.slc := State.mk_slc
@[simp] theorem State.setTun_qrg (s : State) (c : Nat) (b : List Byte) : (State.setTun s c b).qrg = s.qrg := State.mk_qrg
@[simp] theorem State.setTun_sto (s : State) (c : Nat) (b : List Byte) : (State.setTun s c b).sto = s.sto := State.mk_sto
@[simp] theorem State.setTun_bmv (s : State) (c : Nat) (b : List Byte) : (State.setTun s c b).bmv = s.bmv := State.mk_bmv
@[simp] theorem State.setTun_trp (s : State) (c : Nat) (b : List Byte) : (State.setTun s c b).trp = s.trp := State.mk_trp
@[simp] theorem State.setTun_cbd (s : State) (c : Nat) (b : List Byte) : (State.setTun s c b).cbd = s.cbd := State.mk_cbd
@[simp] theorem State.setTun_stk (s : State) (c : Nat) (b : List Byte) : (State.setTun s c b).stk = s.stk := State.mk_stk
@[simp] theorem State.setTun_mem (s : State) (c : Nat) (b : List Byte) : (State.setTun s c b).mem = s.mem := State.mk_mem
@[simp] theorem State.setCbSlot_pending (s : State) (i : Nat) (w : Word) : (State.setCbSlot s i w).pending = s.pending := State.mk_pending
@[simp] theorem State.setCbSlot_regs (s : State) (i : Nat) (w : Word) : (State.setCbSlot s i w).regs = s.regs := State.mk_regs
@[simp] theorem State.setCbSlot_ctrs (s : State) (i : Nat) (w : Word) : (State.setCbSlot s i w).ctrs = s.ctrs := State.mk_ctrs
@[simp] theorem State.setCbSlot_out (s : State) (i : Nat) (w : Word) : (State.setCbSlot s i w).out = s.out := State.mk_out
@[simp] theorem State.setCbSlot_draws (s : State) (i : Nat) (w : Word) : (State.setCbSlot s i w).draws = s.draws := State.mk_draws
@[simp] theorem State.setCbSlot_clk (s : State) (i : Nat) (w : Word) : (State.setCbSlot s i w).clk = s.clk := State.mk_clk
@[simp] theorem State.setCbSlot_pins (s : State) (i : Nat) (w : Word) : (State.setCbSlot s i w).pins = s.pins := State.mk_pins
@[simp] theorem State.setCbSlot_dev (s : State) (i : Nat) (w : Word) : (State.setCbSlot s i w).dev = s.dev := State.mk_dev
@[simp] theorem State.setCbSlot_flashA (s : State) (i : Nat) (w : Word) : (State.setCbSlot s i w).flashA = s.flashA := State.mk_flashA
@[simp] theorem State.setCbSlot_flashB (s : State) (i : Nat) (w : Word) : (State.setCbSlot s i w).flashB = s.flashB := State.mk_flashB
@[simp] theorem State.setCbSlot_acc (s : State) (i : Nat) (w : Word) : (State.setCbSlot s i w).acc = s.acc := State.mk_acc
@[simp] theorem State.setCbSlot_vote (s : State) (i : Nat) (w : Word) : (State.setCbSlot s i w).vote = s.vote := State.mk_vote
@[simp] theorem State.setCbSlot_rdn (s : State) (i : Nat) (w : Word) : (State.setCbSlot s i w).rdn = s.rdn := State.mk_rdn
@[simp] theorem State.setCbSlot_pwr (s : State) (i : Nat) (w : Word) : (State.setCbSlot s i w).pwr = s.pwr := State.mk_pwr
@[simp] theorem State.setCbSlot_flt (s : State) (i : Nat) (w : Word) : (State.setCbSlot s i w).flt = s.flt := State.mk_flt
@[simp] theorem State.setCbSlot_prt (s : State) (i : Nat) (w : Word) : (State.setCbSlot s i w).prt = s.prt := State.mk_prt
@[simp] theorem State.setCbSlot_mgt (s : State) (i : Nat) (w : Word) : (State.setCbSlot s i w).mgt = s.mgt := State.mk_mgt
@[simp] theorem State.setCbSlot_scn (s : State) (i : Nat) (w : Word) : (State.setCbSlot s i w).scn = s.scn := State.mk_scn
@[simp] theorem State.setCbSlot_tbl (s : State) (i : Nat) (w : Word) : (State.setCbSlot s i w).tbl = s.tbl := State.mk_tbl
@[simp] theorem State.setCbSlot_swc (s : State) (i : Nat) (w : Word) : (State.setCbSlot s i w).swc = s.swc := State.mk_swc
@[simp] theorem State.setCbSlot_tms (s : State) (i : Nat) (w : Word) : (State.setCbSlot s i w).tms = s.tms := State.mk_tms
@[simp] theorem State.setCbSlot_ofl (s : State) (i : Nat) (w : Word) : (State.setCbSlot s i w).ofl = s.ofl := State.mk_ofl
@[simp] theorem State.setCbSlot_cph (s : State) (i : Nat) (w : Word) : (State.setCbSlot s i w).cph = s.cph := State.mk_cph
@[simp] theorem State.setCbSlot_vlt (s : State) (i : Nat) (w : Word) : (State.setCbSlot s i w).vlt = s.vlt := State.mk_vlt
@[simp] theorem State.setCbSlot_hep (s : State) (i : Nat) (w : Word) : (State.setCbSlot s i w).hep = s.hep := State.mk_hep
@[simp] theorem State.setCbSlot_slc (s : State) (i : Nat) (w : Word) : (State.setCbSlot s i w).slc = s.slc := State.mk_slc
@[simp] theorem State.setCbSlot_qrg (s : State) (i : Nat) (w : Word) : (State.setCbSlot s i w).qrg = s.qrg := State.mk_qrg
@[simp] theorem State.setCbSlot_sto (s : State) (i : Nat) (w : Word) : (State.setCbSlot s i w).sto = s.sto := State.mk_sto
@[simp] theorem State.setCbSlot_bmv (s : State) (i : Nat) (w : Word) : (State.setCbSlot s i w).bmv = s.bmv := State.mk_bmv
@[simp] theorem State.setCbSlot_trp (s : State) (i : Nat) (w : Word) : (State.setCbSlot s i w).trp = s.trp := State.mk_trp
@[simp] theorem State.setCbSlot_stk (s : State) (i : Nat) (w : Word) : (State.setCbSlot s i w).stk = s.stk := State.mk_stk
@[simp] theorem State.setCbSlot_mem (s : State) (i : Nat) (w : Word) : (State.setCbSlot s i w).mem = s.mem := State.mk_mem
@[simp] theorem State.setStep_pending (s : State) (k : LoadStep) : (State.setStep s k).pending = s.pending := State.mk_pending
@[simp] theorem State.setStep_regs (s : State) (k : LoadStep) : (State.setStep s k).regs = s.regs := State.mk_regs
@[simp] theorem State.setStep_ctrs (s : State) (k : LoadStep) : (State.setStep s k).ctrs = s.ctrs := State.mk_ctrs
@[simp] theorem State.setStep_out (s : State) (k : LoadStep) : (State.setStep s k).out = s.out := State.mk_out
@[simp] theorem State.setStep_draws (s : State) (k : LoadStep) : (State.setStep s k).draws = s.draws := State.mk_draws
@[simp] theorem State.setStep_clk (s : State) (k : LoadStep) : (State.setStep s k).clk = s.clk := State.mk_clk
@[simp] theorem State.setStep_pins (s : State) (k : LoadStep) : (State.setStep s k).pins = s.pins := State.mk_pins
@[simp] theorem State.setStep_flashA (s : State) (k : LoadStep) : (State.setStep s k).flashA = s.flashA := State.mk_flashA
@[simp] theorem State.setStep_flashB (s : State) (k : LoadStep) : (State.setStep s k).flashB = s.flashB := State.mk_flashB
@[simp] theorem State.setStep_acc (s : State) (k : LoadStep) : (State.setStep s k).acc = s.acc := State.mk_acc
@[simp] theorem State.setStep_vote (s : State) (k : LoadStep) : (State.setStep s k).vote = s.vote := State.mk_vote
@[simp] theorem State.setStep_rdn (s : State) (k : LoadStep) : (State.setStep s k).rdn = s.rdn := State.mk_rdn
@[simp] theorem State.setStep_pwr (s : State) (k : LoadStep) : (State.setStep s k).pwr = s.pwr := State.mk_pwr
@[simp] theorem State.setStep_flt (s : State) (k : LoadStep) : (State.setStep s k).flt = s.flt := State.mk_flt
@[simp] theorem State.setStep_prt (s : State) (k : LoadStep) : (State.setStep s k).prt = s.prt := State.mk_prt
@[simp] theorem State.setStep_mgt (s : State) (k : LoadStep) : (State.setStep s k).mgt = s.mgt := State.mk_mgt
@[simp] theorem State.setStep_scn (s : State) (k : LoadStep) : (State.setStep s k).scn = s.scn := State.mk_scn
@[simp] theorem State.setStep_tbl (s : State) (k : LoadStep) : (State.setStep s k).tbl = s.tbl := State.mk_tbl
@[simp] theorem State.setStep_swc (s : State) (k : LoadStep) : (State.setStep s k).swc = s.swc := State.mk_swc
@[simp] theorem State.setStep_tms (s : State) (k : LoadStep) : (State.setStep s k).tms = s.tms := State.mk_tms
@[simp] theorem State.setStep_ofl (s : State) (k : LoadStep) : (State.setStep s k).ofl = s.ofl := State.mk_ofl
@[simp] theorem State.setStep_cph (s : State) (k : LoadStep) : (State.setStep s k).cph = s.cph := State.mk_cph
@[simp] theorem State.setStep_vlt (s : State) (k : LoadStep) : (State.setStep s k).vlt = s.vlt := State.mk_vlt
@[simp] theorem State.setStep_hep (s : State) (k : LoadStep) : (State.setStep s k).hep = s.hep := State.mk_hep
@[simp] theorem State.setStep_slc (s : State) (k : LoadStep) : (State.setStep s k).slc = s.slc := State.mk_slc
@[simp] theorem State.setStep_qrg (s : State) (k : LoadStep) : (State.setStep s k).qrg = s.qrg := State.mk_qrg
@[simp] theorem State.setStep_sto (s : State) (k : LoadStep) : (State.setStep s k).sto = s.sto := State.mk_sto
@[simp] theorem State.setStep_bmv (s : State) (k : LoadStep) : (State.setStep s k).bmv = s.bmv := State.mk_bmv
@[simp] theorem State.setStep_trp (s : State) (k : LoadStep) : (State.setStep s k).trp = s.trp := State.mk_trp
@[simp] theorem State.setStep_cbd (s : State) (k : LoadStep) : (State.setStep s k).cbd = s.cbd := State.mk_cbd
@[simp] theorem State.setStep_stk (s : State) (k : LoadStep) : (State.setStep s k).stk = s.stk := State.mk_stk
@[simp] theorem State.setStep_mem (s : State) (k : LoadStep) : (State.setStep s k).mem = s.mem := State.mk_mem
@[simp] theorem State.setReason_pending (s : State) (b : Bool) (c : Nat) : (State.setReason s b c).pending = s.pending := State.mk_pending
@[simp] theorem State.setReason_regs (s : State) (b : Bool) (c : Nat) : (State.setReason s b c).regs = s.regs := State.mk_regs
@[simp] theorem State.setReason_ctrs (s : State) (b : Bool) (c : Nat) : (State.setReason s b c).ctrs = s.ctrs := State.mk_ctrs
@[simp] theorem State.setReason_out (s : State) (b : Bool) (c : Nat) : (State.setReason s b c).out = s.out := State.mk_out
@[simp] theorem State.setReason_draws (s : State) (b : Bool) (c : Nat) : (State.setReason s b c).draws = s.draws := State.mk_draws
@[simp] theorem State.setReason_clk (s : State) (b : Bool) (c : Nat) : (State.setReason s b c).clk = s.clk := State.mk_clk
@[simp] theorem State.setReason_pins (s : State) (b : Bool) (c : Nat) : (State.setReason s b c).pins = s.pins := State.mk_pins
@[simp] theorem State.setReason_flashA (s : State) (b : Bool) (c : Nat) : (State.setReason s b c).flashA = s.flashA := State.mk_flashA
@[simp] theorem State.setReason_flashB (s : State) (b : Bool) (c : Nat) : (State.setReason s b c).flashB = s.flashB := State.mk_flashB
@[simp] theorem State.setReason_acc (s : State) (b : Bool) (c : Nat) : (State.setReason s b c).acc = s.acc := State.mk_acc
@[simp] theorem State.setReason_vote (s : State) (b : Bool) (c : Nat) : (State.setReason s b c).vote = s.vote := State.mk_vote
@[simp] theorem State.setReason_rdn (s : State) (b : Bool) (c : Nat) : (State.setReason s b c).rdn = s.rdn := State.mk_rdn
@[simp] theorem State.setReason_pwr (s : State) (b : Bool) (c : Nat) : (State.setReason s b c).pwr = s.pwr := State.mk_pwr
@[simp] theorem State.setReason_flt (s : State) (b : Bool) (c : Nat) : (State.setReason s b c).flt = s.flt := State.mk_flt
@[simp] theorem State.setReason_prt (s : State) (b : Bool) (c : Nat) : (State.setReason s b c).prt = s.prt := State.mk_prt
@[simp] theorem State.setReason_mgt (s : State) (b : Bool) (c : Nat) : (State.setReason s b c).mgt = s.mgt := State.mk_mgt
@[simp] theorem State.setReason_scn (s : State) (b : Bool) (c : Nat) : (State.setReason s b c).scn = s.scn := State.mk_scn
@[simp] theorem State.setReason_tbl (s : State) (b : Bool) (c : Nat) : (State.setReason s b c).tbl = s.tbl := State.mk_tbl
@[simp] theorem State.setReason_swc (s : State) (b : Bool) (c : Nat) : (State.setReason s b c).swc = s.swc := State.mk_swc
@[simp] theorem State.setReason_tms (s : State) (b : Bool) (c : Nat) : (State.setReason s b c).tms = s.tms := State.mk_tms
@[simp] theorem State.setReason_ofl (s : State) (b : Bool) (c : Nat) : (State.setReason s b c).ofl = s.ofl := State.mk_ofl
@[simp] theorem State.setReason_cph (s : State) (b : Bool) (c : Nat) : (State.setReason s b c).cph = s.cph := State.mk_cph
@[simp] theorem State.setReason_vlt (s : State) (b : Bool) (c : Nat) : (State.setReason s b c).vlt = s.vlt := State.mk_vlt
@[simp] theorem State.setReason_hep (s : State) (b : Bool) (c : Nat) : (State.setReason s b c).hep = s.hep := State.mk_hep
@[simp] theorem State.setReason_slc (s : State) (b : Bool) (c : Nat) : (State.setReason s b c).slc = s.slc := State.mk_slc
@[simp] theorem State.setReason_qrg (s : State) (b : Bool) (c : Nat) : (State.setReason s b c).qrg = s.qrg := State.mk_qrg
@[simp] theorem State.setReason_sto (s : State) (b : Bool) (c : Nat) : (State.setReason s b c).sto = s.sto := State.mk_sto
@[simp] theorem State.setReason_bmv (s : State) (b : Bool) (c : Nat) : (State.setReason s b c).bmv = s.bmv := State.mk_bmv
@[simp] theorem State.setReason_trp (s : State) (b : Bool) (c : Nat) : (State.setReason s b c).trp = s.trp := State.mk_trp
@[simp] theorem State.setReason_cbd (s : State) (b : Bool) (c : Nat) : (State.setReason s b c).cbd = s.cbd := State.mk_cbd
@[simp] theorem State.setReason_stk (s : State) (b : Bool) (c : Nat) : (State.setReason s b c).stk = s.stk := State.mk_stk
@[simp] theorem State.setReason_mem (s : State) (b : Bool) (c : Nat) : (State.setReason s b c).mem = s.mem := State.mk_mem
@[simp] theorem State.setCmd_pending (s : State) (c : StCmd) : (State.setCmd s c).pending = s.pending := State.mk_pending
@[simp] theorem State.setCmd_regs (s : State) (c : StCmd) : (State.setCmd s c).regs = s.regs := State.mk_regs
@[simp] theorem State.setCmd_ctrs (s : State) (c : StCmd) : (State.setCmd s c).ctrs = s.ctrs := State.mk_ctrs
@[simp] theorem State.setCmd_out (s : State) (c : StCmd) : (State.setCmd s c).out = s.out := State.mk_out
@[simp] theorem State.setCmd_draws (s : State) (c : StCmd) : (State.setCmd s c).draws = s.draws := State.mk_draws
@[simp] theorem State.setCmd_clk (s : State) (c : StCmd) : (State.setCmd s c).clk = s.clk := State.mk_clk
@[simp] theorem State.setCmd_pins (s : State) (c : StCmd) : (State.setCmd s c).pins = s.pins := State.mk_pins
@[simp] theorem State.setCmd_dev (s : State) (c : StCmd) : (State.setCmd s c).dev = s.dev := State.mk_dev
@[simp] theorem State.setCmd_flashA (s : State) (c : StCmd) : (State.setCmd s c).flashA = s.flashA := State.mk_flashA
@[simp] theorem State.setCmd_flashB (s : State) (c : StCmd) : (State.setCmd s c).flashB = s.flashB := State.mk_flashB
@[simp] theorem State.setCmd_acc (s : State) (c : StCmd) : (State.setCmd s c).acc = s.acc := State.mk_acc
@[simp] theorem State.setCmd_vote (s : State) (c : StCmd) : (State.setCmd s c).vote = s.vote := State.mk_vote
@[simp] theorem State.setCmd_rdn (s : State) (c : StCmd) : (State.setCmd s c).rdn = s.rdn := State.mk_rdn
@[simp] theorem State.setCmd_pwr (s : State) (c : StCmd) : (State.setCmd s c).pwr = s.pwr := State.mk_pwr
@[simp] theorem State.setCmd_flt (s : State) (c : StCmd) : (State.setCmd s c).flt = s.flt := State.mk_flt
@[simp] theorem State.setCmd_prt (s : State) (c : StCmd) : (State.setCmd s c).prt = s.prt := State.mk_prt
@[simp] theorem State.setCmd_mgt (s : State) (c : StCmd) : (State.setCmd s c).mgt = s.mgt := State.mk_mgt
@[simp] theorem State.setCmd_scn (s : State) (c : StCmd) : (State.setCmd s c).scn = s.scn := State.mk_scn
@[simp] theorem State.setCmd_tbl (s : State) (c : StCmd) : (State.setCmd s c).tbl = s.tbl := State.mk_tbl
@[simp] theorem State.setCmd_swc (s : State) (c : StCmd) : (State.setCmd s c).swc = s.swc := State.mk_swc
@[simp] theorem State.setCmd_tms (s : State) (c : StCmd) : (State.setCmd s c).tms = s.tms := State.mk_tms
@[simp] theorem State.setCmd_ofl (s : State) (c : StCmd) : (State.setCmd s c).ofl = s.ofl := State.mk_ofl
@[simp] theorem State.setCmd_cph (s : State) (c : StCmd) : (State.setCmd s c).cph = s.cph := State.mk_cph
@[simp] theorem State.setCmd_vlt (s : State) (c : StCmd) : (State.setCmd s c).vlt = s.vlt := State.mk_vlt
@[simp] theorem State.setCmd_hep (s : State) (c : StCmd) : (State.setCmd s c).hep = s.hep := State.mk_hep
@[simp] theorem State.setCmd_slc (s : State) (c : StCmd) : (State.setCmd s c).slc = s.slc := State.mk_slc
@[simp] theorem State.setCmd_qrg (s : State) (c : StCmd) : (State.setCmd s c).qrg = s.qrg := State.mk_qrg
@[simp] theorem State.setCmd_bmv (s : State) (c : StCmd) : (State.setCmd s c).bmv = s.bmv := State.mk_bmv
@[simp] theorem State.setCmd_trp (s : State) (c : StCmd) : (State.setCmd s c).trp = s.trp := State.mk_trp
@[simp] theorem State.setCmd_cbd (s : State) (c : StCmd) : (State.setCmd s c).cbd = s.cbd := State.mk_cbd
@[simp] theorem State.setCmd_stk (s : State) (c : StCmd) : (State.setCmd s c).stk = s.stk := State.mk_stk
@[simp] theorem State.setCmd_mem (s : State) (c : StCmd) : (State.setCmd s c).mem = s.mem := State.mk_mem
@[simp] theorem State.setNumber_pending (s : State) (u : Nat) (n : Nat) : (State.setNumber s u n).pending = s.pending := State.setUnit_pending ..
@[simp] theorem State.setNumber_regs (s : State) (u : Nat) (n : Nat) : (State.setNumber s u n).regs = s.regs := State.setUnit_regs ..
@[simp] theorem State.setNumber_ctrs (s : State) (u : Nat) (n : Nat) : (State.setNumber s u n).ctrs = s.ctrs := State.setUnit_ctrs ..
@[simp] theorem State.setNumber_out (s : State) (u : Nat) (n : Nat) : (State.setNumber s u n).out = s.out := State.setUnit_out ..
@[simp] theorem State.setNumber_draws (s : State) (u : Nat) (n : Nat) : (State.setNumber s u n).draws = s.draws := State.setUnit_draws ..
@[simp] theorem State.setNumber_clk (s : State) (u : Nat) (n : Nat) : (State.setNumber s u n).clk = s.clk := State.setUnit_clk ..
@[simp] theorem State.setNumber_pins (s : State) (u : Nat) (n : Nat) : (State.setNumber s u n).pins = s.pins := State.setUnit_pins ..
@[simp] theorem State.setNumber_dev (s : State) (u : Nat) (n : Nat) : (State.setNumber s u n).dev = s.dev := State.setUnit_dev ..
@[simp] theorem State.setNumber_flashA (s : State) (u : Nat) (n : Nat) : (State.setNumber s u n).flashA = s.flashA := State.setUnit_flashA ..
@[simp] theorem State.setNumber_flashB (s : State) (u : Nat) (n : Nat) : (State.setNumber s u n).flashB = s.flashB := State.setUnit_flashB ..
@[simp] theorem State.setNumber_acc (s : State) (u : Nat) (n : Nat) : (State.setNumber s u n).acc = s.acc := State.setUnit_acc ..
@[simp] theorem State.setNumber_vote (s : State) (u : Nat) (n : Nat) : (State.setNumber s u n).vote = s.vote := State.setUnit_vote ..
@[simp] theorem State.setNumber_pwr (s : State) (u : Nat) (n : Nat) : (State.setNumber s u n).pwr = s.pwr := State.setUnit_pwr ..
@[simp] theorem State.setNumber_flt (s : State) (u : Nat) (n : Nat) : (State.setNumber s u n).flt = s.flt := State.setUnit_flt ..
@[simp] theorem State.setNumber_prt (s : State) (u : Nat) (n : Nat) : (State.setNumber s u n).prt = s.prt := State.setUnit_prt ..
@[simp] theorem State.setNumber_mgt (s : State) (u : Nat) (n : Nat) : (State.setNumber s u n).mgt = s.mgt := State.setUnit_mgt ..
@[simp] theorem State.setNumber_scn (s : State) (u : Nat) (n : Nat) : (State.setNumber s u n).scn = s.scn := State.setUnit_scn ..
@[simp] theorem State.setNumber_tbl (s : State) (u : Nat) (n : Nat) : (State.setNumber s u n).tbl = s.tbl := State.setUnit_tbl ..
@[simp] theorem State.setNumber_swc (s : State) (u : Nat) (n : Nat) : (State.setNumber s u n).swc = s.swc := State.setUnit_swc ..
@[simp] theorem State.setNumber_tms (s : State) (u : Nat) (n : Nat) : (State.setNumber s u n).tms = s.tms := State.setUnit_tms ..
@[simp] theorem State.setNumber_ofl (s : State) (u : Nat) (n : Nat) : (State.setNumber s u n).ofl = s.ofl := State.setUnit_ofl ..
@[simp] theorem State.setNumber_cph (s : State) (u : Nat) (n : Nat) : (State.setNumber s u n).cph = s.cph := State.setUnit_cph ..
@[simp] theorem State.setNumber_vlt (s : State) (u : Nat) (n : Nat) : (State.setNumber s u n).vlt = s.vlt := State.setUnit_vlt ..
@[simp] theorem State.setNumber_hep (s : State) (u : Nat) (n : Nat) : (State.setNumber s u n).hep = s.hep := State.setUnit_hep ..
@[simp] theorem State.setNumber_slc (s : State) (u : Nat) (n : Nat) : (State.setNumber s u n).slc = s.slc := State.setUnit_slc ..
@[simp] theorem State.setNumber_qrg (s : State) (u : Nat) (n : Nat) : (State.setNumber s u n).qrg = s.qrg := State.setUnit_qrg ..
@[simp] theorem State.setNumber_sto (s : State) (u : Nat) (n : Nat) : (State.setNumber s u n).sto = s.sto := State.setUnit_sto ..
@[simp] theorem State.setNumber_bmv (s : State) (u : Nat) (n : Nat) : (State.setNumber s u n).bmv = s.bmv := State.setUnit_bmv ..
@[simp] theorem State.setNumber_trp (s : State) (u : Nat) (n : Nat) : (State.setNumber s u n).trp = s.trp := State.setUnit_trp ..
@[simp] theorem State.setNumber_cbd (s : State) (u : Nat) (n : Nat) : (State.setNumber s u n).cbd = s.cbd := State.setUnit_cbd ..
@[simp] theorem State.setNumber_stk (s : State) (u : Nat) (n : Nat) : (State.setNumber s u n).stk = s.stk := State.setUnit_stk ..
@[simp] theorem State.setNumber_mem (s : State) (u : Nat) (n : Nat) : (State.setNumber s u n).mem = s.mem := State.setUnit_mem ..
@[simp] theorem State.sendMgmt_pending (s : State) (type : BitVec 8) (dest : Option (BitVec 64)) (payload : List Byte) : (State.sendMgmt s type dest payload).pending = s.pending := by
  simp only [State.sendMgmt]; repeat' split
  all_goals simp only [State.emit_pending, State.bumpBy_pending]
@[simp] theorem State.sendMgmt_regs (s : State) (type : BitVec 8) (dest : Option (BitVec 64)) (payload : List Byte) : (State.sendMgmt s type dest payload).regs = s.regs := by
  simp only [State.sendMgmt]; repeat' split
  all_goals simp only [State.emit_regs, State.bumpBy_regs]
@[simp] theorem State.sendMgmt_draws (s : State) (type : BitVec 8) (dest : Option (BitVec 64)) (payload : List Byte) : (State.sendMgmt s type dest payload).draws = s.draws := by
  simp only [State.sendMgmt]; repeat' split
  all_goals simp only [State.emit_draws, State.bumpBy_draws]
@[simp] theorem State.sendMgmt_clk (s : State) (type : BitVec 8) (dest : Option (BitVec 64)) (payload : List Byte) : (State.sendMgmt s type dest payload).clk = s.clk := by
  simp only [State.sendMgmt]; repeat' split
  all_goals simp only [State.emit_clk, State.bumpBy_clk]
@[simp] theorem State.sendMgmt_pins (s : State) (type : BitVec 8) (dest : Option (BitVec 64)) (payload : List Byte) : (State.sendMgmt s type dest payload).pins = s.pins := by
  simp only [State.sendMgmt]; repeat' split
  all_goals simp only [State.emit_pins, State.bumpBy_pins]
@[simp] theorem State.sendMgmt_dev (s : State) (type : BitVec 8) (dest : Option (BitVec 64)) (payload : List Byte) : (State.sendMgmt s type dest payload).dev = s.dev := by
  simp only [State.sendMgmt]; repeat' split
  all_goals simp only [State.emit_dev, State.bumpBy_dev]
@[simp] theorem State.sendMgmt_flashA (s : State) (type : BitVec 8) (dest : Option (BitVec 64)) (payload : List Byte) : (State.sendMgmt s type dest payload).flashA = s.flashA := by
  simp only [State.sendMgmt]; repeat' split
  all_goals simp only [State.emit_flashA, State.bumpBy_flashA]
@[simp] theorem State.sendMgmt_flashB (s : State) (type : BitVec 8) (dest : Option (BitVec 64)) (payload : List Byte) : (State.sendMgmt s type dest payload).flashB = s.flashB := by
  simp only [State.sendMgmt]; repeat' split
  all_goals simp only [State.emit_flashB, State.bumpBy_flashB]
@[simp] theorem State.sendMgmt_acc (s : State) (type : BitVec 8) (dest : Option (BitVec 64)) (payload : List Byte) : (State.sendMgmt s type dest payload).acc = s.acc := by
  simp only [State.sendMgmt]; repeat' split
  all_goals simp only [State.emit_acc, State.bumpBy_acc]
@[simp] theorem State.sendMgmt_vote (s : State) (type : BitVec 8) (dest : Option (BitVec 64)) (payload : List Byte) : (State.sendMgmt s type dest payload).vote = s.vote := by
  simp only [State.sendMgmt]; repeat' split
  all_goals simp only [State.emit_vote, State.bumpBy_vote]
@[simp] theorem State.sendMgmt_rdn (s : State) (type : BitVec 8) (dest : Option (BitVec 64)) (payload : List Byte) : (State.sendMgmt s type dest payload).rdn = s.rdn := by
  simp only [State.sendMgmt]; repeat' split
  all_goals simp only [State.emit_rdn, State.bumpBy_rdn]
@[simp] theorem State.sendMgmt_pwr (s : State) (type : BitVec 8) (dest : Option (BitVec 64)) (payload : List Byte) : (State.sendMgmt s type dest payload).pwr = s.pwr := by
  simp only [State.sendMgmt]; repeat' split
  all_goals simp only [State.emit_pwr, State.bumpBy_pwr]
@[simp] theorem State.sendMgmt_flt (s : State) (type : BitVec 8) (dest : Option (BitVec 64)) (payload : List Byte) : (State.sendMgmt s type dest payload).flt = s.flt := by
  simp only [State.sendMgmt]; repeat' split
  all_goals simp only [State.emit_flt, State.bumpBy_flt]
@[simp] theorem State.sendMgmt_prt (s : State) (type : BitVec 8) (dest : Option (BitVec 64)) (payload : List Byte) : (State.sendMgmt s type dest payload).prt = s.prt := by
  simp only [State.sendMgmt]; repeat' split
  all_goals simp only [State.emit_prt, State.bumpBy_prt]
@[simp] theorem State.sendMgmt_scn (s : State) (type : BitVec 8) (dest : Option (BitVec 64)) (payload : List Byte) : (State.sendMgmt s type dest payload).scn = s.scn := by
  simp only [State.sendMgmt]; repeat' split
  all_goals simp only [State.emit_scn, State.bumpBy_scn]
@[simp] theorem State.sendMgmt_tbl (s : State) (type : BitVec 8) (dest : Option (BitVec 64)) (payload : List Byte) : (State.sendMgmt s type dest payload).tbl = s.tbl := by
  simp only [State.sendMgmt]; repeat' split
  all_goals simp only [State.emit_tbl, State.bumpBy_tbl]
@[simp] theorem State.sendMgmt_swc (s : State) (type : BitVec 8) (dest : Option (BitVec 64)) (payload : List Byte) : (State.sendMgmt s type dest payload).swc = s.swc := by
  simp only [State.sendMgmt]; repeat' split
  all_goals simp only [State.emit_swc, State.bumpBy_swc]
@[simp] theorem State.sendMgmt_tms (s : State) (type : BitVec 8) (dest : Option (BitVec 64)) (payload : List Byte) : (State.sendMgmt s type dest payload).tms = s.tms := by
  simp only [State.sendMgmt]; repeat' split
  all_goals simp only [State.emit_tms, State.bumpBy_tms]
@[simp] theorem State.sendMgmt_ofl (s : State) (type : BitVec 8) (dest : Option (BitVec 64)) (payload : List Byte) : (State.sendMgmt s type dest payload).ofl = s.ofl := by
  simp only [State.sendMgmt]; repeat' split
  all_goals simp only [State.emit_ofl, State.bumpBy_ofl]
@[simp] theorem State.sendMgmt_cph (s : State) (type : BitVec 8) (dest : Option (BitVec 64)) (payload : List Byte) : (State.sendMgmt s type dest payload).cph = s.cph := by
  simp only [State.sendMgmt]; repeat' split
  all_goals simp only [State.emit_cph, State.bumpBy_cph]
@[simp] theorem State.sendMgmt_vlt (s : State) (type : BitVec 8) (dest : Option (BitVec 64)) (payload : List Byte) : (State.sendMgmt s type dest payload).vlt = s.vlt := by
  simp only [State.sendMgmt]; repeat' split
  all_goals simp only [State.emit_vlt, State.bumpBy_vlt]
@[simp] theorem State.sendMgmt_hep (s : State) (type : BitVec 8) (dest : Option (BitVec 64)) (payload : List Byte) : (State.sendMgmt s type dest payload).hep = s.hep := by
  simp only [State.sendMgmt]; repeat' split
  all_goals simp only [State.emit_hep, State.bumpBy_hep]
@[simp] theorem State.sendMgmt_slc (s : State) (type : BitVec 8) (dest : Option (BitVec 64)) (payload : List Byte) : (State.sendMgmt s type dest payload).slc = s.slc := by
  simp only [State.sendMgmt]; repeat' split
  all_goals simp only [State.emit_slc, State.bumpBy_slc]
@[simp] theorem State.sendMgmt_qrg (s : State) (type : BitVec 8) (dest : Option (BitVec 64)) (payload : List Byte) : (State.sendMgmt s type dest payload).qrg = s.qrg := by
  simp only [State.sendMgmt]; repeat' split
  all_goals simp only [State.emit_qrg, State.bumpBy_qrg]
@[simp] theorem State.sendMgmt_sto (s : State) (type : BitVec 8) (dest : Option (BitVec 64)) (payload : List Byte) : (State.sendMgmt s type dest payload).sto = s.sto := by
  simp only [State.sendMgmt]; repeat' split
  all_goals simp only [State.emit_sto, State.bumpBy_sto]
@[simp] theorem State.sendMgmt_bmv (s : State) (type : BitVec 8) (dest : Option (BitVec 64)) (payload : List Byte) : (State.sendMgmt s type dest payload).bmv = s.bmv := by
  simp only [State.sendMgmt]; repeat' split
  all_goals simp only [State.emit_bmv, State.bumpBy_bmv]
@[simp] theorem State.sendMgmt_trp (s : State) (type : BitVec 8) (dest : Option (BitVec 64)) (payload : List Byte) : (State.sendMgmt s type dest payload).trp = s.trp := by
  simp only [State.sendMgmt]; repeat' split
  all_goals simp only [State.emit_trp, State.bumpBy_trp]
@[simp] theorem State.sendMgmt_cbd (s : State) (type : BitVec 8) (dest : Option (BitVec 64)) (payload : List Byte) : (State.sendMgmt s type dest payload).cbd = s.cbd := by
  simp only [State.sendMgmt]; repeat' split
  all_goals simp only [State.emit_cbd, State.bumpBy_cbd]
@[simp] theorem State.sendMgmt_stk (s : State) (type : BitVec 8) (dest : Option (BitVec 64)) (payload : List Byte) : (State.sendMgmt s type dest payload).stk = s.stk := by
  simp only [State.sendMgmt]; repeat' split
  all_goals simp only [State.emit_stk, State.bumpBy_stk]
@[simp] theorem State.sendMgmt_mem (s : State) (type : BitVec 8) (dest : Option (BitVec 64)) (payload : List Byte) : (State.sendMgmt s type dest payload).mem = s.mem := by
  simp only [State.sendMgmt]; repeat' split
  all_goals simp only [State.emit_mem, State.bumpBy_mem]
@[simp] theorem State.cpcEvent_pending (s : State) (b : Nat) : (State.cpcEvent s b).pending = s.pending := by
  unfold State.cpcEvent; repeat' split
  all_goals simp only [State.unitEvent_pending]
@[simp] theorem State.cpcEvent_ctrs (s : State) (b : Nat) : (State.cpcEvent s b).ctrs = s.ctrs := by
  unfold State.cpcEvent; repeat' split
  all_goals simp only [State.unitEvent_ctrs]
@[simp] theorem State.cpcEvent_out (s : State) (b : Nat) : (State.cpcEvent s b).out = s.out := by
  unfold State.cpcEvent; repeat' split
  all_goals simp only [State.unitEvent_out]
@[simp] theorem State.cpcEvent_draws (s : State) (b : Nat) : (State.cpcEvent s b).draws = s.draws := by
  unfold State.cpcEvent; repeat' split
  all_goals simp only [State.unitEvent_draws]
@[simp] theorem State.cpcEvent_clk (s : State) (b : Nat) : (State.cpcEvent s b).clk = s.clk := by
  unfold State.cpcEvent; repeat' split
  all_goals simp only [State.unitEvent_clk]
@[simp] theorem State.cpcEvent_pins (s : State) (b : Nat) : (State.cpcEvent s b).pins = s.pins := by
  unfold State.cpcEvent; repeat' split
  all_goals simp only [State.unitEvent_pins]
@[simp] theorem State.cpcEvent_dev (s : State) (b : Nat) : (State.cpcEvent s b).dev = s.dev := by
  unfold State.cpcEvent; repeat' split
  all_goals simp only [State.unitEvent_dev]
@[simp] theorem State.cpcEvent_flashA (s : State) (b : Nat) : (State.cpcEvent s b).flashA = s.flashA := by
  unfold State.cpcEvent; repeat' split
  all_goals simp only [State.unitEvent_flashA]
@[simp] theorem State.cpcEvent_flashB (s : State) (b : Nat) : (State.cpcEvent s b).flashB = s.flashB := by
  unfold State.cpcEvent; repeat' split
  all_goals simp only [State.unitEvent_flashB]
@[simp] theorem State.cpcEvent_acc (s : State) (b : Nat) : (State.cpcEvent s b).acc = s.acc := by
  unfold State.cpcEvent; repeat' split
  all_goals simp only [State.unitEvent_acc]
@[simp] theorem State.cpcEvent_vote (s : State) (b : Nat) : (State.cpcEvent s b).vote = s.vote := by
  unfold State.cpcEvent; repeat' split
  all_goals simp only [State.unitEvent_vote]
@[simp] theorem State.cpcEvent_rdn (s : State) (b : Nat) : (State.cpcEvent s b).rdn = s.rdn := by
  unfold State.cpcEvent; repeat' split
  all_goals simp only [State.unitEvent_rdn]
@[simp] theorem State.cpcEvent_pwr (s : State) (b : Nat) : (State.cpcEvent s b).pwr = s.pwr := by
  unfold State.cpcEvent; repeat' split
  all_goals simp only [State.unitEvent_pwr]
@[simp] theorem State.cpcEvent_flt (s : State) (b : Nat) : (State.cpcEvent s b).flt = s.flt := by
  unfold State.cpcEvent; repeat' split
  all_goals simp only [State.unitEvent_flt]
@[simp] theorem State.cpcEvent_prt (s : State) (b : Nat) : (State.cpcEvent s b).prt = s.prt := by
  unfold State.cpcEvent; repeat' split
  all_goals simp only [State.unitEvent_prt]
@[simp] theorem State.cpcEvent_mgt (s : State) (b : Nat) : (State.cpcEvent s b).mgt = s.mgt := by
  unfold State.cpcEvent; repeat' split
  all_goals simp only [State.unitEvent_mgt]
@[simp] theorem State.cpcEvent_scn (s : State) (b : Nat) : (State.cpcEvent s b).scn = s.scn := by
  unfold State.cpcEvent; repeat' split
  all_goals simp only [State.unitEvent_scn]
@[simp] theorem State.cpcEvent_tbl (s : State) (b : Nat) : (State.cpcEvent s b).tbl = s.tbl := by
  unfold State.cpcEvent; repeat' split
  all_goals simp only [State.unitEvent_tbl]
@[simp] theorem State.cpcEvent_swc (s : State) (b : Nat) : (State.cpcEvent s b).swc = s.swc := by
  unfold State.cpcEvent; repeat' split
  all_goals simp only [State.unitEvent_swc]
@[simp] theorem State.cpcEvent_tms (s : State) (b : Nat) : (State.cpcEvent s b).tms = s.tms := by
  unfold State.cpcEvent; repeat' split
  all_goals simp only [State.unitEvent_tms]
@[simp] theorem State.cpcEvent_ofl (s : State) (b : Nat) : (State.cpcEvent s b).ofl = s.ofl := by
  unfold State.cpcEvent; repeat' split
  all_goals simp only [State.unitEvent_ofl]
@[simp] theorem State.cpcEvent_cph (s : State) (b : Nat) : (State.cpcEvent s b).cph = s.cph := by
  unfold State.cpcEvent; repeat' split
  all_goals simp only [State.unitEvent_cph]
@[simp] theorem State.cpcEvent_vlt (s : State) (b : Nat) : (State.cpcEvent s b).vlt = s.vlt := by
  unfold State.cpcEvent; repeat' split
  all_goals simp only [State.unitEvent_vlt]
@[simp] theorem State.cpcEvent_hep (s : State) (b : Nat) : (State.cpcEvent s b).hep = s.hep := by
  unfold State.cpcEvent; repeat' split
  all_goals simp only [State.unitEvent_hep]
@[simp] theorem State.cpcEvent_slc (s : State) (b : Nat) : (State.cpcEvent s b).slc = s.slc := by
  unfold State.cpcEvent; repeat' split
  all_goals simp only [State.unitEvent_slc]
@[simp] theorem State.cpcEvent_qrg (s : State) (b : Nat) : (State.cpcEvent s b).qrg = s.qrg := by
  unfold State.cpcEvent; repeat' split
  all_goals simp only [State.unitEvent_qrg]
@[simp] theorem State.cpcEvent_sto (s : State) (b : Nat) : (State.cpcEvent s b).sto = s.sto := by
  unfold State.cpcEvent; repeat' split
  all_goals simp only [State.unitEvent_sto]
@[simp] theorem State.cpcEvent_bmv (s : State) (b : Nat) : (State.cpcEvent s b).bmv = s.bmv := by
  unfold State.cpcEvent; repeat' split
  all_goals simp only [State.unitEvent_bmv]
@[simp] theorem State.cpcEvent_trp (s : State) (b : Nat) : (State.cpcEvent s b).trp = s.trp := by
  unfold State.cpcEvent; repeat' split
  all_goals simp only [State.unitEvent_trp]
@[simp] theorem State.cpcEvent_cbd (s : State) (b : Nat) : (State.cpcEvent s b).cbd = s.cbd := by
  unfold State.cpcEvent; repeat' split
  all_goals simp only [State.unitEvent_cbd]
@[simp] theorem State.cpcEvent_stk (s : State) (b : Nat) : (State.cpcEvent s b).stk = s.stk := by
  unfold State.cpcEvent; repeat' split
  all_goals simp only [State.unitEvent_stk]
@[simp] theorem State.cpcEvent_mem (s : State) (b : Nat) : (State.cpcEvent s b).mem = s.mem := by
  unfold State.cpcEvent; repeat' split
  all_goals simp only [State.unitEvent_mem]
@[simp] theorem State.alarm_pending (s : State) (b : Nat) (r : FaultRecord) : (State.alarm s b r).pending = s.pending := by
  simp only [State.alarm, State.sendMgmt_pending, State.setReg_pending]
@[simp] theorem State.alarm_draws (s : State) (b : Nat) (r : FaultRecord) : (State.alarm s b r).draws = s.draws := by
  simp only [State.alarm, State.sendMgmt_draws, State.setReg_draws]
@[simp] theorem State.alarm_clk (s : State) (b : Nat) (r : FaultRecord) : (State.alarm s b r).clk = s.clk := by
  simp only [State.alarm, State.sendMgmt_clk, State.setReg_clk]
@[simp] theorem State.alarm_pins (s : State) (b : Nat) (r : FaultRecord) : (State.alarm s b r).pins = s.pins := by
  simp only [State.alarm, State.sendMgmt_pins, State.setReg_pins]
@[simp] theorem State.alarm_dev (s : State) (b : Nat) (r : FaultRecord) : (State.alarm s b r).dev = s.dev := by
  simp only [State.alarm, State.sendMgmt_dev, State.setReg_dev]
@[simp] theorem State.alarm_flashA (s : State) (b : Nat) (r : FaultRecord) : (State.alarm s b r).flashA = s.flashA := by
  simp only [State.alarm, State.sendMgmt_flashA, State.setReg_flashA]
@[simp] theorem State.alarm_flashB (s : State) (b : Nat) (r : FaultRecord) : (State.alarm s b r).flashB = s.flashB := by
  simp only [State.alarm, State.sendMgmt_flashB, State.setReg_flashB]
@[simp] theorem State.alarm_acc (s : State) (b : Nat) (r : FaultRecord) : (State.alarm s b r).acc = s.acc := by
  simp only [State.alarm, State.sendMgmt_acc, State.setReg_acc]
@[simp] theorem State.alarm_vote (s : State) (b : Nat) (r : FaultRecord) : (State.alarm s b r).vote = s.vote := by
  simp only [State.alarm, State.sendMgmt_vote, State.setReg_vote]
@[simp] theorem State.alarm_rdn (s : State) (b : Nat) (r : FaultRecord) : (State.alarm s b r).rdn = s.rdn := by
  simp only [State.alarm, State.sendMgmt_rdn, State.setReg_rdn]
@[simp] theorem State.alarm_pwr (s : State) (b : Nat) (r : FaultRecord) : (State.alarm s b r).pwr = s.pwr := by
  simp only [State.alarm, State.sendMgmt_pwr, State.setReg_pwr]
@[simp] theorem State.alarm_flt (s : State) (b : Nat) (r : FaultRecord) : (State.alarm s b r).flt = s.flt := by
  simp only [State.alarm, State.sendMgmt_flt, State.setReg_flt]
@[simp] theorem State.alarm_prt (s : State) (b : Nat) (r : FaultRecord) : (State.alarm s b r).prt = s.prt := by
  simp only [State.alarm, State.sendMgmt_prt, State.setReg_prt]
@[simp] theorem State.alarm_scn (s : State) (b : Nat) (r : FaultRecord) : (State.alarm s b r).scn = s.scn := by
  simp only [State.alarm, State.sendMgmt_scn, State.setReg_scn]
@[simp] theorem State.alarm_tbl (s : State) (b : Nat) (r : FaultRecord) : (State.alarm s b r).tbl = s.tbl := by
  simp only [State.alarm, State.sendMgmt_tbl, State.setReg_tbl]
@[simp] theorem State.alarm_swc (s : State) (b : Nat) (r : FaultRecord) : (State.alarm s b r).swc = s.swc := by
  simp only [State.alarm, State.sendMgmt_swc, State.setReg_swc]
@[simp] theorem State.alarm_tms (s : State) (b : Nat) (r : FaultRecord) : (State.alarm s b r).tms = s.tms := by
  simp only [State.alarm, State.sendMgmt_tms, State.setReg_tms]
@[simp] theorem State.alarm_ofl (s : State) (b : Nat) (r : FaultRecord) : (State.alarm s b r).ofl = s.ofl := by
  simp only [State.alarm, State.sendMgmt_ofl, State.setReg_ofl]
@[simp] theorem State.alarm_cph (s : State) (b : Nat) (r : FaultRecord) : (State.alarm s b r).cph = s.cph := by
  simp only [State.alarm, State.sendMgmt_cph, State.setReg_cph]
@[simp] theorem State.alarm_vlt (s : State) (b : Nat) (r : FaultRecord) : (State.alarm s b r).vlt = s.vlt := by
  simp only [State.alarm, State.sendMgmt_vlt, State.setReg_vlt]
@[simp] theorem State.alarm_hep (s : State) (b : Nat) (r : FaultRecord) : (State.alarm s b r).hep = s.hep := by
  simp only [State.alarm, State.sendMgmt_hep, State.setReg_hep]
@[simp] theorem State.alarm_slc (s : State) (b : Nat) (r : FaultRecord) : (State.alarm s b r).slc = s.slc := by
  simp only [State.alarm, State.sendMgmt_slc, State.setReg_slc]
@[simp] theorem State.alarm_qrg (s : State) (b : Nat) (r : FaultRecord) : (State.alarm s b r).qrg = s.qrg := by
  simp only [State.alarm, State.sendMgmt_qrg, State.setReg_qrg]
@[simp] theorem State.alarm_sto (s : State) (b : Nat) (r : FaultRecord) : (State.alarm s b r).sto = s.sto := by
  simp only [State.alarm, State.sendMgmt_sto, State.setReg_sto]
@[simp] theorem State.alarm_bmv (s : State) (b : Nat) (r : FaultRecord) : (State.alarm s b r).bmv = s.bmv := by
  simp only [State.alarm, State.sendMgmt_bmv, State.setReg_bmv]
@[simp] theorem State.alarm_trp (s : State) (b : Nat) (r : FaultRecord) : (State.alarm s b r).trp = s.trp := by
  simp only [State.alarm, State.sendMgmt_trp, State.setReg_trp]
@[simp] theorem State.alarm_cbd (s : State) (b : Nat) (r : FaultRecord) : (State.alarm s b r).cbd = s.cbd := by
  simp only [State.alarm, State.sendMgmt_cbd, State.setReg_cbd]
@[simp] theorem State.alarm_stk (s : State) (b : Nat) (r : FaultRecord) : (State.alarm s b r).stk = s.stk := by
  simp only [State.alarm, State.sendMgmt_stk, State.setReg_stk]
@[simp] theorem State.alarm_mem (s : State) (b : Nat) (r : FaultRecord) : (State.alarm s b r).mem = s.mem := by
  simp only [State.alarm, State.sendMgmt_mem, State.setReg_mem]
@[simp] theorem State.plainAlarm_pending (s : State) (b : Nat) (kind : Nat) (cause : Nat) (scope : Nat) (index : Nat) : (State.plainAlarm s b kind cause scope index).pending = s.pending := by
  simp only [State.plainAlarm, State.alarm_pending, State.nextSeq_pending]
@[simp] theorem State.plainAlarm_draws (s : State) (b : Nat) (kind : Nat) (cause : Nat) (scope : Nat) (index : Nat) : (State.plainAlarm s b kind cause scope index).draws = s.draws := by
  simp only [State.plainAlarm, State.alarm_draws, State.nextSeq_draws]
@[simp] theorem State.plainAlarm_clk (s : State) (b : Nat) (kind : Nat) (cause : Nat) (scope : Nat) (index : Nat) : (State.plainAlarm s b kind cause scope index).clk = s.clk := by
  simp only [State.plainAlarm, State.alarm_clk, State.nextSeq_clk]
@[simp] theorem State.plainAlarm_pins (s : State) (b : Nat) (kind : Nat) (cause : Nat) (scope : Nat) (index : Nat) : (State.plainAlarm s b kind cause scope index).pins = s.pins := by
  simp only [State.plainAlarm, State.alarm_pins, State.nextSeq_pins]
@[simp] theorem State.plainAlarm_dev (s : State) (b : Nat) (kind : Nat) (cause : Nat) (scope : Nat) (index : Nat) : (State.plainAlarm s b kind cause scope index).dev = s.dev := by
  simp only [State.plainAlarm, State.alarm_dev, State.nextSeq_dev]
@[simp] theorem State.plainAlarm_flashA (s : State) (b : Nat) (kind : Nat) (cause : Nat) (scope : Nat) (index : Nat) : (State.plainAlarm s b kind cause scope index).flashA = s.flashA := by
  simp only [State.plainAlarm, State.alarm_flashA, State.nextSeq_flashA]
@[simp] theorem State.plainAlarm_flashB (s : State) (b : Nat) (kind : Nat) (cause : Nat) (scope : Nat) (index : Nat) : (State.plainAlarm s b kind cause scope index).flashB = s.flashB := by
  simp only [State.plainAlarm, State.alarm_flashB, State.nextSeq_flashB]
@[simp] theorem State.plainAlarm_acc (s : State) (b : Nat) (kind : Nat) (cause : Nat) (scope : Nat) (index : Nat) : (State.plainAlarm s b kind cause scope index).acc = s.acc := by
  simp only [State.plainAlarm, State.alarm_acc, State.nextSeq_acc]
@[simp] theorem State.plainAlarm_vote (s : State) (b : Nat) (kind : Nat) (cause : Nat) (scope : Nat) (index : Nat) : (State.plainAlarm s b kind cause scope index).vote = s.vote := by
  simp only [State.plainAlarm, State.alarm_vote, State.nextSeq_vote]
@[simp] theorem State.plainAlarm_rdn (s : State) (b : Nat) (kind : Nat) (cause : Nat) (scope : Nat) (index : Nat) : (State.plainAlarm s b kind cause scope index).rdn = s.rdn := by
  simp only [State.plainAlarm, State.alarm_rdn, State.nextSeq_rdn]
@[simp] theorem State.plainAlarm_pwr (s : State) (b : Nat) (kind : Nat) (cause : Nat) (scope : Nat) (index : Nat) : (State.plainAlarm s b kind cause scope index).pwr = s.pwr := by
  simp only [State.plainAlarm, State.alarm_pwr, State.nextSeq_pwr]
@[simp] theorem State.plainAlarm_prt (s : State) (b : Nat) (kind : Nat) (cause : Nat) (scope : Nat) (index : Nat) : (State.plainAlarm s b kind cause scope index).prt = s.prt := by
  simp only [State.plainAlarm, State.alarm_prt, State.nextSeq_prt]
@[simp] theorem State.plainAlarm_scn (s : State) (b : Nat) (kind : Nat) (cause : Nat) (scope : Nat) (index : Nat) : (State.plainAlarm s b kind cause scope index).scn = s.scn := by
  simp only [State.plainAlarm, State.alarm_scn, State.nextSeq_scn]
@[simp] theorem State.plainAlarm_tbl (s : State) (b : Nat) (kind : Nat) (cause : Nat) (scope : Nat) (index : Nat) : (State.plainAlarm s b kind cause scope index).tbl = s.tbl := by
  simp only [State.plainAlarm, State.alarm_tbl, State.nextSeq_tbl]
@[simp] theorem State.plainAlarm_swc (s : State) (b : Nat) (kind : Nat) (cause : Nat) (scope : Nat) (index : Nat) : (State.plainAlarm s b kind cause scope index).swc = s.swc := by
  simp only [State.plainAlarm, State.alarm_swc, State.nextSeq_swc]
@[simp] theorem State.plainAlarm_tms (s : State) (b : Nat) (kind : Nat) (cause : Nat) (scope : Nat) (index : Nat) : (State.plainAlarm s b kind cause scope index).tms = s.tms := by
  simp only [State.plainAlarm, State.alarm_tms, State.nextSeq_tms]
@[simp] theorem State.plainAlarm_ofl (s : State) (b : Nat) (kind : Nat) (cause : Nat) (scope : Nat) (index : Nat) : (State.plainAlarm s b kind cause scope index).ofl = s.ofl := by
  simp only [State.plainAlarm, State.alarm_ofl, State.nextSeq_ofl]
@[simp] theorem State.plainAlarm_cph (s : State) (b : Nat) (kind : Nat) (cause : Nat) (scope : Nat) (index : Nat) : (State.plainAlarm s b kind cause scope index).cph = s.cph := by
  simp only [State.plainAlarm, State.alarm_cph, State.nextSeq_cph]
@[simp] theorem State.plainAlarm_vlt (s : State) (b : Nat) (kind : Nat) (cause : Nat) (scope : Nat) (index : Nat) : (State.plainAlarm s b kind cause scope index).vlt = s.vlt := by
  simp only [State.plainAlarm, State.alarm_vlt, State.nextSeq_vlt]
@[simp] theorem State.plainAlarm_hep (s : State) (b : Nat) (kind : Nat) (cause : Nat) (scope : Nat) (index : Nat) : (State.plainAlarm s b kind cause scope index).hep = s.hep := by
  simp only [State.plainAlarm, State.alarm_hep, State.nextSeq_hep]
@[simp] theorem State.plainAlarm_slc (s : State) (b : Nat) (kind : Nat) (cause : Nat) (scope : Nat) (index : Nat) : (State.plainAlarm s b kind cause scope index).slc = s.slc := by
  simp only [State.plainAlarm, State.alarm_slc, State.nextSeq_slc]
@[simp] theorem State.plainAlarm_qrg (s : State) (b : Nat) (kind : Nat) (cause : Nat) (scope : Nat) (index : Nat) : (State.plainAlarm s b kind cause scope index).qrg = s.qrg := by
  simp only [State.plainAlarm, State.alarm_qrg, State.nextSeq_qrg]
@[simp] theorem State.plainAlarm_sto (s : State) (b : Nat) (kind : Nat) (cause : Nat) (scope : Nat) (index : Nat) : (State.plainAlarm s b kind cause scope index).sto = s.sto := by
  simp only [State.plainAlarm, State.alarm_sto, State.nextSeq_sto]
@[simp] theorem State.plainAlarm_bmv (s : State) (b : Nat) (kind : Nat) (cause : Nat) (scope : Nat) (index : Nat) : (State.plainAlarm s b kind cause scope index).bmv = s.bmv := by
  simp only [State.plainAlarm, State.alarm_bmv, State.nextSeq_bmv]
@[simp] theorem State.plainAlarm_trp (s : State) (b : Nat) (kind : Nat) (cause : Nat) (scope : Nat) (index : Nat) : (State.plainAlarm s b kind cause scope index).trp = s.trp := by
  simp only [State.plainAlarm, State.alarm_trp, State.nextSeq_trp]
@[simp] theorem State.plainAlarm_cbd (s : State) (b : Nat) (kind : Nat) (cause : Nat) (scope : Nat) (index : Nat) : (State.plainAlarm s b kind cause scope index).cbd = s.cbd := by
  simp only [State.plainAlarm, State.alarm_cbd, State.nextSeq_cbd]
@[simp] theorem State.plainAlarm_stk (s : State) (b : Nat) (kind : Nat) (cause : Nat) (scope : Nat) (index : Nat) : (State.plainAlarm s b kind cause scope index).stk = s.stk := by
  simp only [State.plainAlarm, State.alarm_stk, State.nextSeq_stk]
@[simp] theorem State.plainAlarm_mem (s : State) (b : Nat) (kind : Nat) (cause : Nat) (scope : Nat) (index : Nat) : (State.plainAlarm s b kind cause scope index).mem = s.mem := by
  simp only [State.plainAlarm, State.alarm_mem, State.nextSeq_mem]
@[simp] theorem State.writeRecord_pending (s : State) (r : FaultRecord) : (State.writeRecord s r).pending = s.pending := by
  unfold State.writeRecord; dsimp only; split <;> simp only [State.cpcEvent_pending, State.plainAlarm_pending, State.bump_pending, State.nextSeq_pending]
@[simp] theorem State.writeRecord_draws (s : State) (r : FaultRecord) : (State.writeRecord s r).draws = s.draws := by
  unfold State.writeRecord; dsimp only; split <;> simp only [State.cpcEvent_draws, State.plainAlarm_draws, State.bump_draws, State.nextSeq_draws]
@[simp] theorem State.writeRecord_clk (s : State) (r : FaultRecord) : (State.writeRecord s r).clk = s.clk := by
  unfold State.writeRecord; dsimp only; split <;> simp only [State.cpcEvent_clk, State.plainAlarm_clk, State.bump_clk, State.nextSeq_clk]
@[simp] theorem State.writeRecord_pins (s : State) (r : FaultRecord) : (State.writeRecord s r).pins = s.pins := by
  unfold State.writeRecord; dsimp only; split <;> simp only [State.cpcEvent_pins, State.plainAlarm_pins, State.bump_pins, State.nextSeq_pins]
@[simp] theorem State.writeRecord_dev (s : State) (r : FaultRecord) : (State.writeRecord s r).dev = s.dev := by
  unfold State.writeRecord; dsimp only; split <;> simp only [State.cpcEvent_dev, State.plainAlarm_dev, State.bump_dev, State.nextSeq_dev]
@[simp] theorem State.writeRecord_flashA (s : State) (r : FaultRecord) : (State.writeRecord s r).flashA = s.flashA := by
  unfold State.writeRecord; dsimp only; split <;> simp only [State.cpcEvent_flashA, State.plainAlarm_flashA, State.bump_flashA, State.nextSeq_flashA]
@[simp] theorem State.writeRecord_flashB (s : State) (r : FaultRecord) : (State.writeRecord s r).flashB = s.flashB := by
  unfold State.writeRecord; dsimp only; split <;> simp only [State.cpcEvent_flashB, State.plainAlarm_flashB, State.bump_flashB, State.nextSeq_flashB]
@[simp] theorem State.writeRecord_acc (s : State) (r : FaultRecord) : (State.writeRecord s r).acc = s.acc := by
  unfold State.writeRecord; dsimp only; split <;> simp only [State.cpcEvent_acc, State.plainAlarm_acc, State.bump_acc, State.nextSeq_acc]
@[simp] theorem State.writeRecord_vote (s : State) (r : FaultRecord) : (State.writeRecord s r).vote = s.vote := by
  unfold State.writeRecord; dsimp only; split <;> simp only [State.cpcEvent_vote, State.plainAlarm_vote, State.bump_vote, State.nextSeq_vote]
@[simp] theorem State.writeRecord_rdn (s : State) (r : FaultRecord) : (State.writeRecord s r).rdn = s.rdn := by
  unfold State.writeRecord; dsimp only; split <;> simp only [State.cpcEvent_rdn, State.plainAlarm_rdn, State.bump_rdn, State.nextSeq_rdn]
@[simp] theorem State.writeRecord_pwr (s : State) (r : FaultRecord) : (State.writeRecord s r).pwr = s.pwr := by
  unfold State.writeRecord; dsimp only; split <;> simp only [State.cpcEvent_pwr, State.plainAlarm_pwr, State.bump_pwr, State.nextSeq_pwr]
@[simp] theorem State.writeRecord_prt (s : State) (r : FaultRecord) : (State.writeRecord s r).prt = s.prt := by
  unfold State.writeRecord; dsimp only; split <;> simp only [State.cpcEvent_prt, State.plainAlarm_prt, State.bump_prt, State.nextSeq_prt]
@[simp] theorem State.writeRecord_scn (s : State) (r : FaultRecord) : (State.writeRecord s r).scn = s.scn := by
  unfold State.writeRecord; dsimp only; split <;> simp only [State.cpcEvent_scn, State.plainAlarm_scn, State.bump_scn, State.nextSeq_scn]
@[simp] theorem State.writeRecord_tbl (s : State) (r : FaultRecord) : (State.writeRecord s r).tbl = s.tbl := by
  unfold State.writeRecord; dsimp only; split <;> simp only [State.cpcEvent_tbl, State.plainAlarm_tbl, State.bump_tbl, State.nextSeq_tbl]
@[simp] theorem State.writeRecord_swc (s : State) (r : FaultRecord) : (State.writeRecord s r).swc = s.swc := by
  unfold State.writeRecord; dsimp only; split <;> simp only [State.cpcEvent_swc, State.plainAlarm_swc, State.bump_swc, State.nextSeq_swc]
@[simp] theorem State.writeRecord_tms (s : State) (r : FaultRecord) : (State.writeRecord s r).tms = s.tms := by
  unfold State.writeRecord; dsimp only; split <;> simp only [State.cpcEvent_tms, State.plainAlarm_tms, State.bump_tms, State.nextSeq_tms]
@[simp] theorem State.writeRecord_ofl (s : State) (r : FaultRecord) : (State.writeRecord s r).ofl = s.ofl := by
  unfold State.writeRecord; dsimp only; split <;> simp only [State.cpcEvent_ofl, State.plainAlarm_ofl, State.bump_ofl, State.nextSeq_ofl]
@[simp] theorem State.writeRecord_cph (s : State) (r : FaultRecord) : (State.writeRecord s r).cph = s.cph := by
  unfold State.writeRecord; dsimp only; split <;> simp only [State.cpcEvent_cph, State.plainAlarm_cph, State.bump_cph, State.nextSeq_cph]
@[simp] theorem State.writeRecord_vlt (s : State) (r : FaultRecord) : (State.writeRecord s r).vlt = s.vlt := by
  unfold State.writeRecord; dsimp only; split <;> simp only [State.cpcEvent_vlt, State.plainAlarm_vlt, State.bump_vlt, State.nextSeq_vlt]
@[simp] theorem State.writeRecord_hep (s : State) (r : FaultRecord) : (State.writeRecord s r).hep = s.hep := by
  unfold State.writeRecord; dsimp only; split <;> simp only [State.cpcEvent_hep, State.plainAlarm_hep, State.bump_hep, State.nextSeq_hep]
@[simp] theorem State.writeRecord_slc (s : State) (r : FaultRecord) : (State.writeRecord s r).slc = s.slc := by
  unfold State.writeRecord; dsimp only; split <;> simp only [State.cpcEvent_slc, State.plainAlarm_slc, State.bump_slc, State.nextSeq_slc]
@[simp] theorem State.writeRecord_qrg (s : State) (r : FaultRecord) : (State.writeRecord s r).qrg = s.qrg := by
  unfold State.writeRecord; dsimp only; split <;> simp only [State.cpcEvent_qrg, State.plainAlarm_qrg, State.bump_qrg, State.nextSeq_qrg]
@[simp] theorem State.writeRecord_sto (s : State) (r : FaultRecord) : (State.writeRecord s r).sto = s.sto := by
  unfold State.writeRecord; dsimp only; split <;> simp only [State.cpcEvent_sto, State.plainAlarm_sto, State.bump_sto, State.nextSeq_sto]
@[simp] theorem State.writeRecord_bmv (s : State) (r : FaultRecord) : (State.writeRecord s r).bmv = s.bmv := by
  unfold State.writeRecord; dsimp only; split <;> simp only [State.cpcEvent_bmv, State.plainAlarm_bmv, State.bump_bmv, State.nextSeq_bmv]
@[simp] theorem State.writeRecord_trp (s : State) (r : FaultRecord) : (State.writeRecord s r).trp = s.trp := by
  unfold State.writeRecord; dsimp only; split <;> simp only [State.cpcEvent_trp, State.plainAlarm_trp, State.bump_trp, State.nextSeq_trp]
@[simp] theorem State.writeRecord_cbd (s : State) (r : FaultRecord) : (State.writeRecord s r).cbd = s.cbd := by
  unfold State.writeRecord; dsimp only; split <;> simp only [State.cpcEvent_cbd, State.plainAlarm_cbd, State.bump_cbd, State.nextSeq_cbd]
@[simp] theorem State.writeRecord_stk (s : State) (r : FaultRecord) : (State.writeRecord s r).stk = s.stk := by
  unfold State.writeRecord; dsimp only; split <;> simp only [State.cpcEvent_stk, State.plainAlarm_stk, State.bump_stk, State.nextSeq_stk]
@[simp] theorem State.writeRecord_mem (s : State) (r : FaultRecord) : (State.writeRecord s r).mem = s.mem := by
  unfold State.writeRecord; dsimp only; split <;> simp only [State.cpcEvent_mem, State.plainAlarm_mem, State.bump_mem, State.nextSeq_mem]
@[simp] theorem State.containedFault_pending (s : State) (cause : Nat) : (State.containedFault s cause).pending = s.pending := by
  simp only [State.containedFault, State.writeRecord_pending, State.bump_pending]
@[simp] theorem State.containedFault_draws (s : State) (cause : Nat) : (State.containedFault s cause).draws = s.draws := by
  simp only [State.containedFault, State.writeRecord_draws, State.bump_draws]
@[simp] theorem State.containedFault_clk (s : State) (cause : Nat) : (State.containedFault s cause).clk = s.clk := by
  simp only [State.containedFault, State.writeRecord_clk, State.bump_clk]
@[simp] theorem State.containedFault_pins (s : State) (cause : Nat) : (State.containedFault s cause).pins = s.pins := by
  simp only [State.containedFault, State.writeRecord_pins, State.bump_pins]
@[simp] theorem State.containedFault_dev (s : State) (cause : Nat) : (State.containedFault s cause).dev = s.dev := by
  simp only [State.containedFault, State.writeRecord_dev, State.bump_dev]
@[simp] theorem State.containedFault_flashA (s : State) (cause : Nat) : (State.containedFault s cause).flashA = s.flashA := by
  simp only [State.containedFault, State.writeRecord_flashA, State.bump_flashA]
@[simp] theorem State.containedFault_flashB (s : State) (cause : Nat) : (State.containedFault s cause).flashB = s.flashB := by
  simp only [State.containedFault, State.writeRecord_flashB, State.bump_flashB]
@[simp] theorem State.containedFault_acc (s : State) (cause : Nat) : (State.containedFault s cause).acc = s.acc := by
  simp only [State.containedFault, State.writeRecord_acc, State.bump_acc]
@[simp] theorem State.containedFault_vote (s : State) (cause : Nat) : (State.containedFault s cause).vote = s.vote := by
  simp only [State.containedFault, State.writeRecord_vote, State.bump_vote]
@[simp] theorem State.containedFault_rdn (s : State) (cause : Nat) : (State.containedFault s cause).rdn = s.rdn := by
  simp only [State.containedFault, State.writeRecord_rdn, State.bump_rdn]
@[simp] theorem State.containedFault_pwr (s : State) (cause : Nat) : (State.containedFault s cause).pwr = s.pwr := by
  simp only [State.containedFault, State.writeRecord_pwr, State.bump_pwr]
@[simp] theorem State.containedFault_prt (s : State) (cause : Nat) : (State.containedFault s cause).prt = s.prt := by
  simp only [State.containedFault, State.writeRecord_prt, State.bump_prt]
@[simp] theorem State.containedFault_scn (s : State) (cause : Nat) : (State.containedFault s cause).scn = s.scn := by
  simp only [State.containedFault, State.writeRecord_scn, State.bump_scn]
@[simp] theorem State.containedFault_tbl (s : State) (cause : Nat) : (State.containedFault s cause).tbl = s.tbl := by
  simp only [State.containedFault, State.writeRecord_tbl, State.bump_tbl]
@[simp] theorem State.containedFault_swc (s : State) (cause : Nat) : (State.containedFault s cause).swc = s.swc := by
  simp only [State.containedFault, State.writeRecord_swc, State.bump_swc]
@[simp] theorem State.containedFault_tms (s : State) (cause : Nat) : (State.containedFault s cause).tms = s.tms := by
  simp only [State.containedFault, State.writeRecord_tms, State.bump_tms]
@[simp] theorem State.containedFault_ofl (s : State) (cause : Nat) : (State.containedFault s cause).ofl = s.ofl := by
  simp only [State.containedFault, State.writeRecord_ofl, State.bump_ofl]
@[simp] theorem State.containedFault_cph (s : State) (cause : Nat) : (State.containedFault s cause).cph = s.cph := by
  simp only [State.containedFault, State.writeRecord_cph, State.bump_cph]
@[simp] theorem State.containedFault_vlt (s : State) (cause : Nat) : (State.containedFault s cause).vlt = s.vlt := by
  simp only [State.containedFault, State.writeRecord_vlt, State.bump_vlt]
@[simp] theorem State.containedFault_hep (s : State) (cause : Nat) : (State.containedFault s cause).hep = s.hep := by
  simp only [State.containedFault, State.writeRecord_hep, State.bump_hep]
@[simp] theorem State.containedFault_slc (s : State) (cause : Nat) : (State.containedFault s cause).slc = s.slc := by
  simp only [State.containedFault, State.writeRecord_slc, State.bump_slc]
@[simp] theorem State.containedFault_qrg (s : State) (cause : Nat) : (State.containedFault s cause).qrg = s.qrg := by
  simp only [State.containedFault, State.writeRecord_qrg, State.bump_qrg]
@[simp] theorem State.containedFault_sto (s : State) (cause : Nat) : (State.containedFault s cause).sto = s.sto := by
  simp only [State.containedFault, State.writeRecord_sto, State.bump_sto]
@[simp] theorem State.containedFault_bmv (s : State) (cause : Nat) : (State.containedFault s cause).bmv = s.bmv := by
  simp only [State.containedFault, State.writeRecord_bmv, State.bump_bmv]
@[simp] theorem State.containedFault_trp (s : State) (cause : Nat) : (State.containedFault s cause).trp = s.trp := by
  simp only [State.containedFault, State.writeRecord_trp, State.bump_trp]
@[simp] theorem State.containedFault_cbd (s : State) (cause : Nat) : (State.containedFault s cause).cbd = s.cbd := by
  simp only [State.containedFault, State.writeRecord_cbd, State.bump_cbd]
@[simp] theorem State.containedFault_stk (s : State) (cause : Nat) : (State.containedFault s cause).stk = s.stk := by
  simp only [State.containedFault, State.writeRecord_stk, State.bump_stk]
@[simp] theorem State.containedFault_mem (s : State) (cause : Nat) : (State.containedFault s cause).mem = s.mem := by
  simp only [State.containedFault, State.writeRecord_mem, State.bump_mem]
@[simp] theorem State.touchDomain_pending (s : State) (d : Nat) : (State.touchDomain s d).pending = s.pending := by
  unfold State.touchDomain; split <;> simp only [State.bump_pending, State.setDomain_pending, State.domainStatus_pending]
@[simp] theorem State.touchDomain_out (s : State) (d : Nat) : (State.touchDomain s d).out = s.out := by
  unfold State.touchDomain; split <;> simp only [State.bump_out, State.setDomain_out, State.domainStatus_out]
@[simp] theorem State.touchDomain_draws (s : State) (d : Nat) : (State.touchDomain s d).draws = s.draws := by
  unfold State.touchDomain; split <;> simp only [State.bump_draws, State.setDomain_draws, State.domainStatus_draws]
@[simp] theorem State.touchDomain_clk (s : State) (d : Nat) : (State.touchDomain s d).clk = s.clk := by
  unfold State.touchDomain; split <;> simp only [State.bump_clk, State.setDomain_clk, State.domainStatus_clk]
@[simp] theorem State.touchDomain_pins (s : State) (d : Nat) : (State.touchDomain s d).pins = s.pins := by
  unfold State.touchDomain; split <;> simp only [State.bump_pins, State.setDomain_pins, State.domainStatus_pins]
@[simp] theorem State.touchDomain_dev (s : State) (d : Nat) : (State.touchDomain s d).dev = s.dev := by
  unfold State.touchDomain; split <;> simp only [State.bump_dev, State.setDomain_dev, State.domainStatus_dev]
@[simp] theorem State.touchDomain_flashA (s : State) (d : Nat) : (State.touchDomain s d).flashA = s.flashA := by
  unfold State.touchDomain; split <;> simp only [State.bump_flashA, State.setDomain_flashA, State.domainStatus_flashA]
@[simp] theorem State.touchDomain_flashB (s : State) (d : Nat) : (State.touchDomain s d).flashB = s.flashB := by
  unfold State.touchDomain; split <;> simp only [State.bump_flashB, State.setDomain_flashB, State.domainStatus_flashB]
@[simp] theorem State.touchDomain_acc (s : State) (d : Nat) : (State.touchDomain s d).acc = s.acc := by
  unfold State.touchDomain; split <;> simp only [State.bump_acc, State.setDomain_acc, State.domainStatus_acc]
@[simp] theorem State.touchDomain_vote (s : State) (d : Nat) : (State.touchDomain s d).vote = s.vote := by
  unfold State.touchDomain; split <;> simp only [State.bump_vote, State.setDomain_vote, State.domainStatus_vote]
@[simp] theorem State.touchDomain_rdn (s : State) (d : Nat) : (State.touchDomain s d).rdn = s.rdn := by
  unfold State.touchDomain; split <;> simp only [State.bump_rdn, State.setDomain_rdn, State.domainStatus_rdn]
@[simp] theorem State.touchDomain_flt (s : State) (d : Nat) : (State.touchDomain s d).flt = s.flt := by
  unfold State.touchDomain; split <;> simp only [State.bump_flt, State.setDomain_flt, State.domainStatus_flt]
@[simp] theorem State.touchDomain_prt (s : State) (d : Nat) : (State.touchDomain s d).prt = s.prt := by
  unfold State.touchDomain; split <;> simp only [State.bump_prt, State.setDomain_prt, State.domainStatus_prt]
@[simp] theorem State.touchDomain_mgt (s : State) (d : Nat) : (State.touchDomain s d).mgt = s.mgt := by
  unfold State.touchDomain; split <;> simp only [State.bump_mgt, State.setDomain_mgt, State.domainStatus_mgt]
@[simp] theorem State.touchDomain_scn (s : State) (d : Nat) : (State.touchDomain s d).scn = s.scn := by
  unfold State.touchDomain; split <;> simp only [State.bump_scn, State.setDomain_scn, State.domainStatus_scn]
@[simp] theorem State.touchDomain_tbl (s : State) (d : Nat) : (State.touchDomain s d).tbl = s.tbl := by
  unfold State.touchDomain; split <;> simp only [State.bump_tbl, State.setDomain_tbl, State.domainStatus_tbl]
@[simp] theorem State.touchDomain_swc (s : State) (d : Nat) : (State.touchDomain s d).swc = s.swc := by
  unfold State.touchDomain; split <;> simp only [State.bump_swc, State.setDomain_swc, State.domainStatus_swc]
@[simp] theorem State.touchDomain_tms (s : State) (d : Nat) : (State.touchDomain s d).tms = s.tms := by
  unfold State.touchDomain; split <;> simp only [State.bump_tms, State.setDomain_tms, State.domainStatus_tms]
@[simp] theorem State.touchDomain_ofl (s : State) (d : Nat) : (State.touchDomain s d).ofl = s.ofl := by
  unfold State.touchDomain; split <;> simp only [State.bump_ofl, State.setDomain_ofl, State.domainStatus_ofl]
@[simp] theorem State.touchDomain_cph (s : State) (d : Nat) : (State.touchDomain s d).cph = s.cph := by
  unfold State.touchDomain; split <;> simp only [State.bump_cph, State.setDomain_cph, State.domainStatus_cph]
@[simp] theorem State.touchDomain_vlt (s : State) (d : Nat) : (State.touchDomain s d).vlt = s.vlt := by
  unfold State.touchDomain; split <;> simp only [State.bump_vlt, State.setDomain_vlt, State.domainStatus_vlt]
@[simp] theorem State.touchDomain_hep (s : State) (d : Nat) : (State.touchDomain s d).hep = s.hep := by
  unfold State.touchDomain; split <;> simp only [State.bump_hep, State.setDomain_hep, State.domainStatus_hep]
@[simp] theorem State.touchDomain_slc (s : State) (d : Nat) : (State.touchDomain s d).slc = s.slc := by
  unfold State.touchDomain; split <;> simp only [State.bump_slc, State.setDomain_slc, State.domainStatus_slc]
@[simp] theorem State.touchDomain_qrg (s : State) (d : Nat) : (State.touchDomain s d).qrg = s.qrg := by
  unfold State.touchDomain; split <;> simp only [State.bump_qrg, State.setDomain_qrg, State.domainStatus_qrg]
@[simp] theorem State.touchDomain_sto (s : State) (d : Nat) : (State.touchDomain s d).sto = s.sto := by
  unfold State.touchDomain; split <;> simp only [State.bump_sto, State.setDomain_sto, State.domainStatus_sto]
@[simp] theorem State.touchDomain_bmv (s : State) (d : Nat) : (State.touchDomain s d).bmv = s.bmv := by
  unfold State.touchDomain; split <;> simp only [State.bump_bmv, State.setDomain_bmv, State.domainStatus_bmv]
@[simp] theorem State.touchDomain_trp (s : State) (d : Nat) : (State.touchDomain s d).trp = s.trp := by
  unfold State.touchDomain; split <;> simp only [State.bump_trp, State.setDomain_trp, State.domainStatus_trp]
@[simp] theorem State.touchDomain_cbd (s : State) (d : Nat) : (State.touchDomain s d).cbd = s.cbd := by
  unfold State.touchDomain; split <;> simp only [State.bump_cbd, State.setDomain_cbd, State.domainStatus_cbd]
@[simp] theorem State.touchDomain_stk (s : State) (d : Nat) : (State.touchDomain s d).stk = s.stk := by
  unfold State.touchDomain; split <;> simp only [State.bump_stk, State.setDomain_stk, State.domainStatus_stk]
@[simp] theorem State.touchDomain_mem (s : State) (d : Nat) : (State.touchDomain s d).mem = s.mem := by
  unfold State.touchDomain; split <;> simp only [State.bump_mem, State.setDomain_mem, State.domainStatus_mem]

end Sys2Proof.Machine
end

