-- ==== Sys2Proof/Laws/Regs.lean ====
section
/-! SUPPORT. Registers, fields and counters after a write (R7, R69). -/

namespace Sys2Proof.Machine

theorem RegName.ctorIdx_inj {a b : RegName} (h : a.ctorIdx = b.ctorIdx) : a = b := by
  rw [← RegName.ofNat_ctorIdx a, ← RegName.ofNat_ctorIdx b, h]

/-- Two elements of registers have one key only where they are the same. -/
theorem RegName.key_inj {a b : RegName} {i j : Nat} (h : a.key i = b.key j) : a = b ∧ i % 16777216 = j % 16777216 := by
  unfold RegName.key at h
  have h1 := Nat.mod_lt i (show 0 < 16777216 by decide)
  have h2 := Nat.mod_lt j (show 0 < 16777216 by decide)
  have h3 : a.ctorIdx = b.ctorIdx := by omega
  exact ⟨RegName.ctorIdx_inj h3, by omega⟩

theorem RegName.key_ne {a b : RegName} {i j : Nat} (h : a ≠ b ∨ i % 16777216 ≠ j % 16777216) : a.key i ≠ b.key j := by
  intro e
  obtain ⟨h1, h2⟩ := RegName.key_inj e
  rcases h with h | h
  · exact h h1
  · exact h h2

theorem State.canonical_regs {s : State} (h : s.canonical = true) : SMap.wf regDefault s.regs = true := ((canonical_iff s).1 h).1
theorem State.canonical_ctrs {s : State} (h : s.canonical = true) : SMap.wf (fun _ => 0) s.ctrs = true := ((canonical_iff s).1 h).2.1

theorem State.reg_congr {s t : State} (h : t.regs = s.regs) (r : RegName) (i : Nat) : t.reg r i = s.reg r i := by
  unfold State.reg; rw [h]
theorem State.fld_congr {s t : State} (h : t.regs = s.regs) (f : FieldPos) (i : Nat) : t.fld f i = s.fld f i := by
  unfold State.fld; rw [State.reg_congr h]
theorem State.ctr_congr {s t : State} (h : t.ctrs = s.ctrs) (r : RegName) (i : Nat) : t.ctr r i = s.ctr r i := by
  unfold State.ctr; rw [h]

theorem State.reg_setReg_self {s : State} (h : SMap.wf regDefault s.regs = true) (r : RegName) (i : Nat) (v : Word) :
    (s.setReg r i v).reg r i = v := SMap.get_set_self h
theorem State.reg_setReg_ne {s : State} (h : SMap.wf regDefault s.regs = true) {r q : RegName} {i j : Nat} (v : Word)
    (hn : q ≠ r ∨ j % 16777216 ≠ i % 16777216) : (s.setReg r i v).reg q j = s.reg q j := SMap.get_set_ne h (RegName.key_ne hn)

/-- Writing the value a register holds changes nothing. -/
theorem State.setReg_same {s : State} (h : SMap.wf regDefault s.regs = true) (r : RegName) (i : Nat) : s.setReg r i (s.reg r i) = s := by
  have e : SMap.set regDefault (r.key i) (s.reg r i) s.regs = s.regs := SMap.set_same h
  unfold State.setReg; rw [e]

theorem State.ctr_setCtr_self {s : State} (h : SMap.wf (fun _ => 0) s.ctrs = true) (r : RegName) (i : Nat) (v : Word) :
    (s.setCtr r i v).ctr r i = v := SMap.get_set_self h
theorem State.ctr_setCtr_ne {s : State} (h : SMap.wf (fun _ => 0) s.ctrs = true) {r q : RegName} {i j : Nat} (v : Word)
    (hn : q ≠ r ∨ j % 16777216 ≠ i % 16777216) : (s.setCtr r i v).ctr q j = s.ctr q j := SMap.get_set_ne h (RegName.key_ne hn)

/-- One count more, saturating. -/
theorem State.ctr_bump_self {s : State} (h : SMap.wf (fun _ => 0) s.ctrs = true) (r : RegName) (i : Nat) :
    (s.bump r i).ctr r i = BitVec.ofNat 64 (min ((s.ctr r i).toNat + 1) (if r.info.wide then 2 ^ 64 - 1 else 2 ^ 32 - 1)) :=
  State.ctr_setCtr_self h r i _
theorem State.ctr_bump_ne {s : State} (h : SMap.wf (fun _ => 0) s.ctrs = true) {r q : RegName} {i j : Nat}
    (hn : q ≠ r ∨ j % 16777216 ≠ i % 16777216) : (s.bump r i).ctr q j = s.ctr q j := State.ctr_setCtr_ne h _ hn

/-! ## Bit fields -/

theorem bits_eq (v lo w : Nat) : bits v lo w = v / 2 ^ lo % 2 ^ w := rfl

/-- The number below, within and above a field. -/
theorem setBits_split (v lo w x : Nat) :
    setBits v lo w x = v % 2 ^ lo + 2 ^ lo * (x % 2 ^ w + 2 ^ w * (v / 2 ^ lo / 2 ^ w)) := by
  unfold setBits bits
  have h1 : v = v % 2 ^ lo + 2 ^ lo * (v / 2 ^ lo) := (Nat.mod_add_div v (2 ^ lo)).symm
  have h2 : v / 2 ^ lo = v / 2 ^ lo % 2 ^ w + 2 ^ w * (v / 2 ^ lo / 2 ^ w) := (Nat.mod_add_div _ _).symm
  generalize v % 2 ^ lo = a at *
  generalize hq : v / 2 ^ lo = q at *
  generalize q % 2 ^ w = b at *
  generalize q / 2 ^ w = c at *
  generalize 2 ^ lo = P at *
  generalize 2 ^ w = Q at *
  generalize x % Q = y at *
  subst h2
  rw [h1, Nat.mul_add, Nat.mul_add, Nat.mul_comm b P, Nat.mul_comm y P]
  omega

theorem bits_setBits_self (v lo w x : Nat) : bits (setBits v lo w x) lo w = x % 2 ^ w := by
  rw [setBits_split, bits_eq]
  have h1 := Nat.mod_lt v (Nat.two_pow_pos lo)
  rw [Nat.add_mul_div_left _ _ (Nat.two_pow_pos lo), Nat.div_eq_of_lt h1, Nat.zero_add, Nat.add_mul_mod_self_left, Nat.mod_mod]

theorem setBits_lt {v lo w x n : Nat} (hv : v < 2 ^ n) (hn : lo + w ≤ n) : setBits v lo w x < 2 ^ n := by
  rw [setBits_split]
  have h1 := Nat.mod_lt v (Nat.two_pow_pos lo)
  have h2 := Nat.mod_lt x (Nat.two_pow_pos w)
  have h3 : v / 2 ^ lo / 2 ^ w < 2 ^ (n - lo - w) := by
    rw [Nat.div_div_eq_div_mul, ← Nat.pow_add, Nat.div_lt_iff_lt_mul (Nat.two_pow_pos _), ← Nat.pow_add]
    have : n - lo - w + (lo + w) = n := by omega
    rwa [this]
  have h4 : x % 2 ^ w + 2 ^ w * (v / 2 ^ lo / 2 ^ w) < 2 ^ (n - lo) := by
    have : 2 ^ (n - lo) = 2 ^ w * 2 ^ (n - lo - w) := by rw [← Nat.pow_add]; congr 1; omega
    rw [this]
    calc x % 2 ^ w + 2 ^ w * (v / 2 ^ lo / 2 ^ w) < 2 ^ w + 2 ^ w * (v / 2 ^ lo / 2 ^ w) := by omega
      _ = 2 ^ w * (v / 2 ^ lo / 2 ^ w + 1) := by rw [Nat.mul_add, Nat.mul_one, Nat.add_comm]
      _ ≤ 2 ^ w * 2 ^ (n - lo - w) := Nat.mul_le_mul_left _ h3
  have : 2 ^ n = 2 ^ lo * 2 ^ (n - lo) := by rw [← Nat.pow_add]; congr 1; omega
  rw [this]
  generalize x % 2 ^ w + 2 ^ w * (v / 2 ^ lo / 2 ^ w) = y at *
  calc v % 2 ^ lo + 2 ^ lo * y < 2 ^ lo + 2 ^ lo * y := by omega
    _ = 2 ^ lo * (y + 1) := by rw [Nat.mul_add, Nat.mul_one, Nat.add_comm]
    _ ≤ 2 ^ lo * 2 ^ (n - lo) := Nat.mul_le_mul_left _ h4

/-- A field reads what was written to it. -/
theorem fieldOf_withField (v : Word) {lo w : Nat} (x : Nat) (h : lo + w ≤ 64) : fieldOf (withField v lo w x) lo w = x % 2 ^ w := by
  unfold fieldOf withField
  rw [BitVec.toNat_ofNat, Nat.mod_eq_of_lt (setBits_lt v.isLt h), bits_setBits_self]

theorem bits_mod {v lo w n : Nat} (h : lo + w ≤ n) : bits (v % 2 ^ n) lo w = bits v lo w := by
  obtain ⟨k, rfl⟩ := Nat.exists_eq_add_of_le h
  simp only [bits_eq]
  rw [show lo + w + k = lo + (w + k) by omega, Nat.pow_add, Nat.mod_mul_right_div_self, Nat.pow_add, Nat.mod_mul_right_mod]

theorem bits_div {v lo w n : Nat} : bits (v / 2 ^ n) lo w = bits v (n + lo) w := by
  simp only [bits_eq, Nat.div_div_eq_div_mul, ← Nat.pow_add]

/-- Fields that share no bit do not disturb one another. -/
theorem bits_setBits_ne {v lo w x a b : Nat} (h : a + b ≤ lo ∨ lo + w ≤ a) : bits (setBits v lo w x) a b = bits v a b := by
  rw [setBits_split]
  rcases h with h | h
  · rw [← bits_mod (n := lo) h, Nat.add_mul_mod_self_left, Nat.mod_mod, bits_mod h]
  · obtain ⟨k, rfl⟩ := Nat.exists_eq_add_of_le h
    rw [← bits_div (n := lo + w), ← bits_div (n := lo + w) (v := v)]
    congr 1
    have h1 := Nat.mod_lt v (Nat.two_pow_pos lo)
    rw [Nat.pow_add, ← Nat.div_div_eq_div_mul, Nat.add_mul_div_left _ _ (Nat.two_pow_pos lo), Nat.div_eq_of_lt h1, Nat.zero_add,
      Nat.add_mul_div_left _ _ (Nat.two_pow_pos w), Nat.div_eq_of_lt (Nat.mod_lt x (Nat.two_pow_pos w)), Nat.zero_add,
      Nat.div_div_eq_div_mul]

theorem fieldOf_withField_ne (v : Word) {lo w a b : Nat} (x : Nat) (h : lo + w ≤ 64) (hn : a + b ≤ lo ∨ lo + w ≤ a) :
    fieldOf (withField v lo w x) a b = fieldOf v a b := by
  unfold fieldOf withField
  rw [BitVec.toNat_ofNat, Nat.mod_eq_of_lt (setBits_lt v.isLt h), bits_setBits_ne hn]

/-- A field of a register after it is written. -/
theorem State.fld_setFld_self {s : State} (h : SMap.wf regDefault s.regs = true) (f : FieldPos) (i x : Nat) (hf : f.lo + f.width ≤ 64) :
    (s.setFld f i x).fld f i = x % 2 ^ f.width := by
  unfold State.fld State.setFld
  rw [State.reg_setReg_self h, fieldOf_withField _ _ hf]

/-- Another register, or another element, is left alone. -/
theorem State.fld_setFld_ne {s : State} (h : SMap.wf regDefault s.regs = true) {f g : FieldPos} {i j : Nat} (x : Nat)
    (hn : g.reg ≠ f.reg ∨ j % 16777216 ≠ i % 16777216) : (s.setFld f i x).fld g j = s.fld g j := by
  unfold State.fld State.setFld
  rw [State.reg_setReg_ne h _ hn]

/-- Another field of the same register is left alone. -/
theorem State.fld_setFld_apart {s : State} (h : SMap.wf regDefault s.regs = true) {f g : FieldPos} {i : Nat} (x : Nat)
    (hr : g.reg = f.reg) (hf : f.lo + f.width ≤ 64) (hn : g.lo + g.width ≤ f.lo ∨ f.lo + f.width ≤ g.lo) :
    (s.setFld f i x).fld g i = s.fld g i := by
  unfold State.fld State.setFld
  rw [hr, State.reg_setReg_self h, fieldOf_withField_ne _ _ hf hn]

theorem State.reg_setFld_ne {s : State} (h : SMap.wf regDefault s.regs = true) {f : FieldPos} {q : RegName} {i j : Nat} (x : Nat)
    (hn : q ≠ f.reg ∨ j % 16777216 ≠ i % 16777216) : (s.setFld f i x).reg q j = s.reg q j := State.reg_setReg_ne h _ hn

/-- The canonical form after a register or counter write. -/
theorem State.wf_setReg {s : State} (h : SMap.wf regDefault s.regs = true) (r : RegName) (i : Nat) (v : Word) :
    SMap.wf regDefault (s.setReg r i v).regs = true := SMap.wf_set h
theorem State.wf_setFld {s : State} (h : SMap.wf regDefault s.regs = true) (f : FieldPos) (i x : Nat) :
    SMap.wf regDefault (s.setFld f i x).regs = true := SMap.wf_set h
theorem State.wf_setCtr {s : State} (h : SMap.wf (fun _ => 0) s.ctrs = true) (r : RegName) (i : Nat) (v : Word) :
    SMap.wf (fun _ => 0) (s.setCtr r i v).ctrs = true := SMap.wf_set h
theorem State.wf_bump {s : State} (h : SMap.wf (fun _ => 0) s.ctrs = true) (r : RegName) (i : Nat) :
    SMap.wf (fun _ => 0) (s.bump r i).ctrs = true := SMap.wf_set h

end Sys2Proof.Machine
end

