-- ==== Sys2Proof/Laws/Same.lean ====
section
/-! SUPPORT. What shared operations leave alone, a field at a time. -/

namespace Sys2Proof.Machine

theorem foldl_same {α β : Type} {f : State → β} {v : β} {g : State → α → State} {l : List α} {s : State} (hs : f s = v)
    (h : ∀ t a, f t = v → f (g t a) = v) : f (l.foldl g s) = v := by
  induction l generalizing s with
  | nil => exact hs
  | cons a l ih => exact ih (h _ _ hs)

theorem foldl_fst_same {α β γ : Type} {f : State → β} {v : β} {g : State × γ → α → State × γ} {l : List α} {s : State × γ} (hs : f s.1 = v)
    (h : ∀ t a, f t.1 = v → f (g t a).1 = v) : f (l.foldl g s).1 = v := by
  induction l generalizing s with
  | nil => exact hs
  | cons a l ih => exact ih (h _ _ hs)

theorem foldl_snd_same {α β γ : Type} {f : State → β} {v : β} {g : γ × State → α → γ × State} {l : List α} {s : γ × State} (hs : f s.2 = v)
    (h : ∀ t a, f t.2 = v → f (g t a).2 = v) : f (l.foldl g s).2 = v := by
  induction l generalizing s with
  | nil => exact hs
  | cons a l ih => exact ih (h _ _ hs)

theorem State.drewN_dev_of {v : Dev} (s : State) (n : Nat) (hk : s.dev = v) : (State.drewN s n).dev = v := by
  unfold State.drewN; with_reducible repeat' (first | exact hk | assumption | (apply foldl_same (f := State.dev); rotate_left; intros) | (apply foldl_fst_same (f := State.dev); rotate_left; intros) | (apply foldl_snd_same (f := State.dev); rotate_left; intros) | (fail_if_no_progress (refine Eq.trans State.mk_dev ?_)) | split | dsimp only | intro)
@[simp] theorem State.drewN_dev (s : State) (n : Nat) : (State.drewN s n).dev = s.dev := State.drewN_dev_of _ _ rfl

theorem State.drewN_pins_of {v : Pins} (s : State) (n : Nat) (hk : s.pins = v) : (State.drewN s n).pins = v := by
  unfold State.drewN; with_reducible repeat' (first | exact hk | assumption | (apply foldl_same (f := State.pins); rotate_left; intros) | (apply foldl_fst_same (f := State.pins); rotate_left; intros) | (apply foldl_snd_same (f := State.pins); rotate_left; intros) | (fail_if_no_progress (refine Eq.trans State.mk_pins ?_)) | split | dsimp only | intro)
@[simp] theorem State.drewN_pins (s : State) (n : Nat) : (State.drewN s n).pins = s.pins := State.drewN_pins_of _ _ rfl

theorem State.drewN_clk_of {v : Clock} (s : State) (n : Nat) (hk : s.clk = v) : (State.drewN s n).clk = v := by
  unfold State.drewN; with_reducible repeat' (first | exact hk | assumption | (apply foldl_same (f := State.clk); rotate_left; intros) | (apply foldl_fst_same (f := State.clk); rotate_left; intros) | (apply foldl_snd_same (f := State.clk); rotate_left; intros) | (fail_if_no_progress (refine Eq.trans State.mk_clk ?_)) | split | dsimp only | intro)
@[simp] theorem State.drewN_clk (s : State) (n : Nat) : (State.drewN s n).clk = s.clk := State.drewN_clk_of _ _ rfl

theorem State.touchPairs_dev_of {v : Dev} (s : State) (code : Nat) (hk : s.dev = v) : (State.touchPairs s code).dev = v := by
  unfold State.touchPairs; with_reducible repeat' (first | exact hk | assumption | refine Eq.trans (State.touchDomain_dev ..) ?_ | (apply foldl_same (f := State.dev); rotate_left; intros) | (apply foldl_fst_same (f := State.dev); rotate_left; intros) | (apply foldl_snd_same (f := State.dev); rotate_left; intros) | (fail_if_no_progress (refine Eq.trans State.mk_dev ?_)) | split | dsimp only | intro)
@[simp] theorem State.touchPairs_dev (s : State) (code : Nat) : (State.touchPairs s code).dev = s.dev := State.touchPairs_dev_of _ _ rfl

theorem State.touchPairs_pins_of {v : Pins} (s : State) (code : Nat) (hk : s.pins = v) : (State.touchPairs s code).pins = v := by
  unfold State.touchPairs; with_reducible repeat' (first | exact hk | assumption | refine Eq.trans (State.touchDomain_pins ..) ?_ | (apply foldl_same (f := State.pins); rotate_left; intros) | (apply foldl_fst_same (f := State.pins); rotate_left; intros) | (apply foldl_snd_same (f := State.pins); rotate_left; intros) | (fail_if_no_progress (refine Eq.trans State.mk_pins ?_)) | split | dsimp only | intro)
@[simp] theorem State.touchPairs_pins (s : State) (code : Nat) : (State.touchPairs s code).pins = s.pins := State.touchPairs_pins_of _ _ rfl

theorem State.touchPairs_clk_of {v : Clock} (s : State) (code : Nat) (hk : s.clk = v) : (State.touchPairs s code).clk = v := by
  unfold State.touchPairs; with_reducible repeat' (first | exact hk | assumption | refine Eq.trans (State.touchDomain_clk ..) ?_ | (apply foldl_same (f := State.clk); rotate_left; intros) | (apply foldl_fst_same (f := State.clk); rotate_left; intros) | (apply foldl_snd_same (f := State.clk); rotate_left; intros) | (fail_if_no_progress (refine Eq.trans State.mk_clk ?_)) | split | dsimp only | intro)
@[simp] theorem State.touchPairs_clk (s : State) (code : Nat) : (State.touchPairs s code).clk = s.clk := State.touchPairs_clk_of _ _ rfl

theorem State.setWalk_dev_of {v : Dev} (s : State) (t : Nat) (w : BitVec 16) (hk : s.dev = v) : (State.setWalk s t w).dev = v := by
  unfold State.setWalk; with_reducible repeat' (first | exact hk | assumption | (apply foldl_same (f := State.dev); rotate_left; intros) | (apply foldl_fst_same (f := State.dev); rotate_left; intros) | (apply foldl_snd_same (f := State.dev); rotate_left; intros) | (fail_if_no_progress (refine Eq.trans State.mk_dev ?_)) | split | dsimp only | intro)
@[simp] theorem State.setWalk_dev (s : State) (t : Nat) (w : BitVec 16) : (State.setWalk s t w).dev = s.dev := State.setWalk_dev_of _ _ _ rfl

theorem State.setWalk_pins_of {v : Pins} (s : State) (t : Nat) (w : BitVec 16) (hk : s.pins = v) : (State.setWalk s t w).pins = v := by
  unfold State.setWalk; with_reducible repeat' (first | exact hk | assumption | (apply foldl_same (f := State.pins); rotate_left; intros) | (apply foldl_fst_same (f := State.pins); rotate_left; intros) | (apply foldl_snd_same (f := State.pins); rotate_left; intros) | (fail_if_no_progress (refine Eq.trans State.mk_pins ?_)) | split | dsimp only | intro)
@[simp] theorem State.setWalk_pins (s : State) (t : Nat) (w : BitVec 16) : (State.setWalk s t w).pins = s.pins := State.setWalk_pins_of _ _ _ rfl

theorem State.setWalk_clk_of {v : Clock} (s : State) (t : Nat) (w : BitVec 16) (hk : s.clk = v) : (State.setWalk s t w).clk = v := by
  unfold State.setWalk; with_reducible repeat' (first | exact hk | assumption | (apply foldl_same (f := State.clk); rotate_left; intros) | (apply foldl_fst_same (f := State.clk); rotate_left; intros) | (apply foldl_snd_same (f := State.clk); rotate_left; intros) | (fail_if_no_progress (refine Eq.trans State.mk_clk ?_)) | split | dsimp only | intro)
@[simp] theorem State.setWalk_clk (s : State) (t : Nat) (w : BitVec 16) : (State.setWalk s t w).clk = s.clk := State.setWalk_clk_of _ _ _ rfl

theorem State.shift_dev_of {v : Dev} (s : State) (a1 : List Nat) (hk : s.dev = v) : (State.shift s a1).dev = v := by
  induction a1 generalizing s with
  | nil => exact hk
  | cons x xs ih =>
    cases xs with
    | nil => exact hk
    | cons y ys => exact ih _ ((State.setEntry_dev ..).trans ((State.setEntry_dev ..).trans hk))
@[simp] theorem State.shift_dev (s : State) (a1 : List Nat) : (State.shift s a1).dev = s.dev := State.shift_dev_of _ _ rfl

theorem State.shift_pins_of {v : Pins} (s : State) (a1 : List Nat) (hk : s.pins = v) : (State.shift s a1).pins = v := by
  induction a1 generalizing s with
  | nil => exact hk
  | cons x xs ih =>
    cases xs with
    | nil => exact hk
    | cons y ys => exact ih _ ((State.setEntry_pins ..).trans ((State.setEntry_pins ..).trans hk))
@[simp] theorem State.shift_pins (s : State) (a1 : List Nat) : (State.shift s a1).pins = s.pins := State.shift_pins_of _ _ rfl

theorem State.shift_clk_of {v : Clock} (s : State) (a1 : List Nat) (hk : s.clk = v) : (State.shift s a1).clk = v := by
  induction a1 generalizing s with
  | nil => exact hk
  | cons x xs ih =>
    cases xs with
    | nil => exact hk
    | cons y ys => exact ih _ ((State.setEntry_clk ..).trans ((State.setEntry_clk ..).trans hk))
@[simp] theorem State.shift_clk (s : State) (a1 : List Nat) : (State.shift s a1).clk = s.clk := State.shift_clk_of _ _ rfl

theorem State.pushEvicted_dev_of {v : Dev} (s : State) (t : Nat) (e : Entry) (hk : s.dev = v) : (State.pushEvicted s t e).dev = v := by
  unfold State.pushEvicted; with_reducible repeat' (first | exact hk | assumption | refine Eq.trans (State.bump_dev ..) ?_ | refine Eq.trans (State.cpcEvent_dev ..) ?_ | (apply foldl_same (f := State.dev); rotate_left; intros) | (apply foldl_fst_same (f := State.dev); rotate_left; intros) | (apply foldl_snd_same (f := State.dev); rotate_left; intros) | (fail_if_no_progress (refine Eq.trans State.mk_dev ?_)) | split | dsimp only | intro)
@[simp] theorem State.pushEvicted_dev (s : State) (t : Nat) (e : Entry) : (State.pushEvicted s t e).dev = s.dev := State.pushEvicted_dev_of _ _ _ rfl

theorem State.pushEvicted_pins_of {v : Pins} (s : State) (t : Nat) (e : Entry) (hk : s.pins = v) : (State.pushEvicted s t e).pins = v := by
  unfold State.pushEvicted; with_reducible repeat' (first | exact hk | assumption | refine Eq.trans (State.bump_pins ..) ?_ | refine Eq.trans (State.cpcEvent_pins ..) ?_ | (apply foldl_same (f := State.pins); rotate_left; intros) | (apply foldl_fst_same (f := State.pins); rotate_left; intros) | (apply foldl_snd_same (f := State.pins); rotate_left; intros) | (fail_if_no_progress (refine Eq.trans State.mk_pins ?_)) | split | dsimp only | intro)
@[simp] theorem State.pushEvicted_pins (s : State) (t : Nat) (e : Entry) : (State.pushEvicted s t e).pins = s.pins := State.pushEvicted_pins_of _ _ _ rfl

theorem State.pushEvicted_clk_of {v : Clock} (s : State) (t : Nat) (e : Entry) (hk : s.clk = v) : (State.pushEvicted s t e).clk = v := by
  unfold State.pushEvicted; with_reducible repeat' (first | exact hk | assumption | refine Eq.trans (State.bump_clk ..) ?_ | refine Eq.trans (State.cpcEvent_clk ..) ?_ | (apply foldl_same (f := State.clk); rotate_left; intros) | (apply foldl_fst_same (f := State.clk); rotate_left; intros) | (apply foldl_snd_same (f := State.clk); rotate_left; intros) | (fail_if_no_progress (refine Eq.trans State.mk_clk ?_)) | split | dsimp only | intro)
@[simp] theorem State.pushEvicted_clk (s : State) (t : Nat) (e : Entry) : (State.pushEvicted s t e).clk = s.clk := State.pushEvicted_clk_of _ _ _ rfl

theorem State.place_dev_of {v : Dev} (s : State) (t : Nat) (e : Entry) (hk : s.dev = v) : (State.place s t e).2.dev = v := by
  unfold State.place; with_reducible repeat' (first | exact hk | assumption | refine Eq.trans (State.setEntry_dev ..) ?_ | apply State.shift_dev_of | apply State.setWalk_dev_of | apply State.pushEvicted_dev_of | (apply foldl_same (f := State.dev); rotate_left; intros) | (apply foldl_fst_same (f := State.dev); rotate_left; intros) | (apply foldl_snd_same (f := State.dev); rotate_left; intros) | (fail_if_no_progress (refine Eq.trans State.mk_dev ?_)) | split | dsimp only | intro)
@[simp] theorem State.place_dev (s : State) (t : Nat) (e : Entry) : (State.place s t e).2.dev = s.dev := State.place_dev_of _ _ _ rfl

theorem State.place_pins_of {v : Pins} (s : State) (t : Nat) (e : Entry) (hk : s.pins = v) : (State.place s t e).2.pins = v := by
  unfold State.place; with_reducible repeat' (first | exact hk | assumption | refine Eq.trans (State.setEntry_pins ..) ?_ | apply State.shift_pins_of | apply State.setWalk_pins_of | apply State.pushEvicted_pins_of | (apply foldl_same (f := State.pins); rotate_left; intros) | (apply foldl_fst_same (f := State.pins); rotate_left; intros) | (apply foldl_snd_same (f := State.pins); rotate_left; intros) | (fail_if_no_progress (refine Eq.trans State.mk_pins ?_)) | split | dsimp only | intro)
@[simp] theorem State.place_pins (s : State) (t : Nat) (e : Entry) : (State.place s t e).2.pins = s.pins := State.place_pins_of _ _ _ rfl

theorem State.place_clk_of {v : Clock} (s : State) (t : Nat) (e : Entry) (hk : s.clk = v) : (State.place s t e).2.clk = v := by
  unfold State.place; with_reducible repeat' (first | exact hk | assumption | refine Eq.trans (State.setEntry_clk ..) ?_ | apply State.shift_clk_of | apply State.setWalk_clk_of | apply State.pushEvicted_clk_of | (apply foldl_same (f := State.clk); rotate_left; intros) | (apply foldl_fst_same (f := State.clk); rotate_left; intros) | (apply foldl_snd_same (f := State.clk); rotate_left; intros) | (fail_if_no_progress (refine Eq.trans State.mk_clk ?_)) | split | dsimp only | intro)
@[simp] theorem State.place_clk (s : State) (t : Nat) (e : Entry) : (State.place s t e).2.clk = s.clk := State.place_clk_of _ _ _ rfl

theorem State.newFrame_dev_of {v : Dev} (s : State) (x : Frame) (hk : s.dev = v) : (State.newFrame s x).dev = v := by
  unfold State.newFrame; with_reducible repeat' (first | exact hk | assumption | (apply foldl_same (f := State.dev); rotate_left; intros) | (apply foldl_fst_same (f := State.dev); rotate_left; intros) | (apply foldl_snd_same (f := State.dev); rotate_left; intros) | (fail_if_no_progress (refine Eq.trans State.mk_dev ?_)) | split | dsimp only | intro)
@[simp] theorem State.newFrame_dev (s : State) (x : Frame) : (State.newFrame s x).dev = s.dev := State.newFrame_dev_of _ _ rfl

theorem State.newFrame_pins_of {v : Pins} (s : State) (x : Frame) (hk : s.pins = v) : (State.newFrame s x).pins = v := by
  unfold State.newFrame; with_reducible repeat' (first | exact hk | assumption | (apply foldl_same (f := State.pins); rotate_left; intros) | (apply foldl_fst_same (f := State.pins); rotate_left; intros) | (apply foldl_snd_same (f := State.pins); rotate_left; intros) | (fail_if_no_progress (refine Eq.trans State.mk_pins ?_)) | split | dsimp only | intro)
@[simp] theorem State.newFrame_pins (s : State) (x : Frame) : (State.newFrame s x).pins = s.pins := State.newFrame_pins_of _ _ rfl

theorem State.newFrame_clk_of {v : Clock} (s : State) (x : Frame) (hk : s.clk = v) : (State.newFrame s x).clk = v := by
  unfold State.newFrame; with_reducible repeat' (first | exact hk | assumption | (apply foldl_same (f := State.clk); rotate_left; intros) | (apply foldl_fst_same (f := State.clk); rotate_left; intros) | (apply foldl_snd_same (f := State.clk); rotate_left; intros) | (fail_if_no_progress (refine Eq.trans State.mk_clk ?_)) | split | dsimp only | intro)
@[simp] theorem State.newFrame_clk (s : State) (x : Frame) : (State.newFrame s x).clk = s.clk := State.newFrame_clk_of _ _ rfl

theorem State.collect_dev_of {v : Dev} (s : State) (hk : s.dev = v) : (State.collect s).dev = v := by
  unfold State.collect; with_reducible repeat' (first | exact hk | assumption | (apply foldl_same (f := State.dev); rotate_left; intros) | (apply foldl_fst_same (f := State.dev); rotate_left; intros) | (apply foldl_snd_same (f := State.dev); rotate_left; intros) | (fail_if_no_progress (refine Eq.trans State.mk_dev ?_)) | split | dsimp only | intro)
@[simp] theorem State.collect_dev (s : State) : (State.collect s).dev = s.dev := State.collect_dev_of _ rfl

theorem State.collect_pins_of {v : Pins} (s : State) (hk : s.pins = v) : (State.collect s).pins = v := by
  unfold State.collect; with_reducible repeat' (first | exact hk | assumption | (apply foldl_same (f := State.pins); rotate_left; intros) | (apply foldl_fst_same (f := State.pins); rotate_left; intros) | (apply foldl_snd_same (f := State.pins); rotate_left; intros) | (fail_if_no_progress (refine Eq.trans State.mk_pins ?_)) | split | dsimp only | intro)
@[simp] theorem State.collect_pins (s : State) : (State.collect s).pins = s.pins := State.collect_pins_of _ rfl

theorem State.collect_clk_of {v : Clock} (s : State) (hk : s.clk = v) : (State.collect s).clk = v := by
  unfold State.collect; with_reducible repeat' (first | exact hk | assumption | (apply foldl_same (f := State.clk); rotate_left; intros) | (apply foldl_fst_same (f := State.clk); rotate_left; intros) | (apply foldl_snd_same (f := State.clk); rotate_left; intros) | (fail_if_no_progress (refine Eq.trans State.mk_clk ?_)) | split | dsimp only | intro)
@[simp] theorem State.collect_clk (s : State) : (State.collect s).clk = s.clk := State.collect_clk_of _ rfl

theorem State.sendPause_dev_of {v : Dev} (s : State) (p : Nat) (c : Nat) (off : Bool) (hk : s.dev = v) : (State.sendPause s p c off).dev = v := by
  unfold State.sendPause; with_reducible repeat' (first | exact hk | assumption | refine Eq.trans (State.setPort_dev ..) ?_ | refine Eq.trans (State.bump_dev ..) ?_ | refine Eq.trans (State.bumpBy_dev ..) ?_ | refine Eq.trans (State.emit_dev ..) ?_ | (apply foldl_same (f := State.dev); rotate_left; intros) | (apply foldl_fst_same (f := State.dev); rotate_left; intros) | (apply foldl_snd_same (f := State.dev); rotate_left; intros) | (fail_if_no_progress (refine Eq.trans State.mk_dev ?_)) | split | dsimp only | intro)
@[simp] theorem State.sendPause_dev (s : State) (p : Nat) (c : Nat) (off : Bool) : (State.sendPause s p c off).dev = s.dev := State.sendPause_dev_of _ _ _ _ rfl

theorem State.sendPause_pins_of {v : Pins} (s : State) (p : Nat) (c : Nat) (off : Bool) (hk : s.pins = v) : (State.sendPause s p c off).pins = v := by
  unfold State.sendPause; with_reducible repeat' (first | exact hk | assumption | refine Eq.trans (State.setPort_pins ..) ?_ | refine Eq.trans (State.bump_pins ..) ?_ | refine Eq.trans (State.bumpBy_pins ..) ?_ | refine Eq.trans (State.emit_pins ..) ?_ | (apply foldl_same (f := State.pins); rotate_left; intros) | (apply foldl_fst_same (f := State.pins); rotate_left; intros) | (apply foldl_snd_same (f := State.pins); rotate_left; intros) | (fail_if_no_progress (refine Eq.trans State.mk_pins ?_)) | split | dsimp only | intro)
@[simp] theorem State.sendPause_pins (s : State) (p : Nat) (c : Nat) (off : Bool) : (State.sendPause s p c off).pins = s.pins := State.sendPause_pins_of _ _ _ _ rfl

theorem State.sendPause_clk_of {v : Clock} (s : State) (p : Nat) (c : Nat) (off : Bool) (hk : s.clk = v) : (State.sendPause s p c off).clk = v := by
  unfold State.sendPause; with_reducible repeat' (first | exact hk | assumption | refine Eq.trans (State.setPort_clk ..) ?_ | refine Eq.trans (State.bump_clk ..) ?_ | refine Eq.trans (State.bumpBy_clk ..) ?_ | refine Eq.trans (State.emit_clk ..) ?_ | (apply foldl_same (f := State.clk); rotate_left; intros) | (apply foldl_fst_same (f := State.clk); rotate_left; intros) | (apply foldl_snd_same (f := State.clk); rotate_left; intros) | (fail_if_no_progress (refine Eq.trans State.mk_clk ?_)) | split | dsimp only | intro)
@[simp] theorem State.sendPause_clk (s : State) (p : Nat) (c : Nat) (off : Bool) : (State.sendPause s p c off).clk = s.clk := State.sendPause_clk_of _ _ _ _ rfl

theorem State.pauseCheckAt_dev_of {v : Dev} (s : State) (p : Nat) (c : Nat) (acc : Nat) (hk : s.dev = v) : (State.pauseCheckAt s p c acc).dev = v := by
  unfold State.pauseCheckAt; with_reducible repeat' (first | exact hk | assumption | apply State.sendPause_dev_of | (apply foldl_same (f := State.dev); rotate_left; intros) | (apply foldl_fst_same (f := State.dev); rotate_left; intros) | (apply foldl_snd_same (f := State.dev); rotate_left; intros) | (fail_if_no_progress (refine Eq.trans State.mk_dev ?_)) | split | dsimp only | intro)
@[simp] theorem State.pauseCheckAt_dev (s : State) (p : Nat) (c : Nat) (acc : Nat) : (State.pauseCheckAt s p c acc).dev = s.dev := State.pauseCheckAt_dev_of _ _ _ _ rfl

theorem State.pauseCheckAt_pins_of {v : Pins} (s : State) (p : Nat) (c : Nat) (acc : Nat) (hk : s.pins = v) : (State.pauseCheckAt s p c acc).pins = v := by
  unfold State.pauseCheckAt; with_reducible repeat' (first | exact hk | assumption | apply State.sendPause_pins_of | (apply foldl_same (f := State.pins); rotate_left; intros) | (apply foldl_fst_same (f := State.pins); rotate_left; intros) | (apply foldl_snd_same (f := State.pins); rotate_left; intros) | (fail_if_no_progress (refine Eq.trans State.mk_pins ?_)) | split | dsimp only | intro)
@[simp] theorem State.pauseCheckAt_pins (s : State) (p : Nat) (c : Nat) (acc : Nat) : (State.pauseCheckAt s p c acc).pins = s.pins := State.pauseCheckAt_pins_of _ _ _ _ rfl

theorem State.pauseCheckAt_clk_of {v : Clock} (s : State) (p : Nat) (c : Nat) (acc : Nat) (hk : s.clk = v) : (State.pauseCheckAt s p c acc).clk = v := by
  unfold State.pauseCheckAt; with_reducible repeat' (first | exact hk | assumption | apply State.sendPause_clk_of | (apply foldl_same (f := State.clk); rotate_left; intros) | (apply foldl_fst_same (f := State.clk); rotate_left; intros) | (apply foldl_snd_same (f := State.clk); rotate_left; intros) | (fail_if_no_progress (refine Eq.trans State.mk_clk ?_)) | split | dsimp only | intro)
@[simp] theorem State.pauseCheckAt_clk (s : State) (p : Nat) (c : Nat) (acc : Nat) : (State.pauseCheckAt s p c acc).clk = s.clk := State.pauseCheckAt_clk_of _ _ _ _ rfl

theorem State.pauseCheck_dev_of {v : Dev} (s : State) (p : Nat) (hk : s.dev = v) : (State.pauseCheck s p).dev = v := by
  unfold State.pauseCheck; with_reducible repeat' (first | exact hk | assumption | apply State.pauseCheckAt_dev_of | (apply foldl_same (f := State.dev); rotate_left; intros) | (apply foldl_fst_same (f := State.dev); rotate_left; intros) | (apply foldl_snd_same (f := State.dev); rotate_left; intros) | (fail_if_no_progress (refine Eq.trans State.mk_dev ?_)) | split | dsimp only | intro)
@[simp] theorem State.pauseCheck_dev (s : State) (p : Nat) : (State.pauseCheck s p).dev = s.dev := State.pauseCheck_dev_of _ _ rfl

theorem State.pauseCheck_pins_of {v : Pins} (s : State) (p : Nat) (hk : s.pins = v) : (State.pauseCheck s p).pins = v := by
  unfold State.pauseCheck; with_reducible repeat' (first | exact hk | assumption | apply State.pauseCheckAt_pins_of | (apply foldl_same (f := State.pins); rotate_left; intros) | (apply foldl_fst_same (f := State.pins); rotate_left; intros) | (apply foldl_snd_same (f := State.pins); rotate_left; intros) | (fail_if_no_progress (refine Eq.trans State.mk_pins ?_)) | split | dsimp only | intro)
@[simp] theorem State.pauseCheck_pins (s : State) (p : Nat) : (State.pauseCheck s p).pins = s.pins := State.pauseCheck_pins_of _ _ rfl

theorem State.pauseCheck_clk_of {v : Clock} (s : State) (p : Nat) (hk : s.clk = v) : (State.pauseCheck s p).clk = v := by
  unfold State.pauseCheck; with_reducible repeat' (first | exact hk | assumption | apply State.pauseCheckAt_clk_of | (apply foldl_same (f := State.clk); rotate_left; intros) | (apply foldl_fst_same (f := State.clk); rotate_left; intros) | (apply foldl_snd_same (f := State.clk); rotate_left; intros) | (fail_if_no_progress (refine Eq.trans State.mk_clk ?_)) | split | dsimp only | intro)
@[simp] theorem State.pauseCheck_clk (s : State) (p : Nat) : (State.pauseCheck s p).clk = s.clk := State.pauseCheck_clk_of _ _ rfl

theorem State.setTokens_dev_of {v : Dev} (s : State) (k : ShaperKind) (i : Nat) (n : Int) (hk : s.dev = v) : (State.setTokens s k i n).dev = v := by
  unfold State.setTokens; with_reducible repeat' (first | exact hk | assumption | (apply foldl_same (f := State.dev); rotate_left; intros) | (apply foldl_fst_same (f := State.dev); rotate_left; intros) | (apply foldl_snd_same (f := State.dev); rotate_left; intros) | (fail_if_no_progress (refine Eq.trans State.mk_dev ?_)) | split | dsimp only | intro)
@[simp] theorem State.setTokens_dev (s : State) (k : ShaperKind) (i : Nat) (n : Int) : (State.setTokens s k i n).dev = s.dev := State.setTokens_dev_of _ _ _ _ rfl

theorem State.setTokens_pins_of {v : Pins} (s : State) (k : ShaperKind) (i : Nat) (n : Int) (hk : s.pins = v) : (State.setTokens s k i n).pins = v := by
  unfold State.setTokens; with_reducible repeat' (first | exact hk | assumption | (apply foldl_same (f := State.pins); rotate_left; intros) | (apply foldl_fst_same (f := State.pins); rotate_left; intros) | (apply foldl_snd_same (f := State.pins); rotate_left; intros) | (fail_if_no_progress (refine Eq.trans State.mk_pins ?_)) | split | dsimp only | intro)
@[simp] theorem State.setTokens_pins (s : State) (k : ShaperKind) (i : Nat) (n : Int) : (State.setTokens s k i n).pins = s.pins := State.setTokens_pins_of _ _ _ _ rfl

theorem State.setTokens_clk_of {v : Clock} (s : State) (k : ShaperKind) (i : Nat) (n : Int) (hk : s.clk = v) : (State.setTokens s k i n).clk = v := by
  unfold State.setTokens; with_reducible repeat' (first | exact hk | assumption | (apply foldl_same (f := State.clk); rotate_left; intros) | (apply foldl_fst_same (f := State.clk); rotate_left; intros) | (apply foldl_snd_same (f := State.clk); rotate_left; intros) | (fail_if_no_progress (refine Eq.trans State.mk_clk ?_)) | split | dsimp only | intro)
@[simp] theorem State.setTokens_clk (s : State) (k : ShaperKind) (i : Nat) (n : Int) : (State.setTokens s k i n).clk = s.clk := State.setTokens_clk_of _ _ _ _ rfl

theorem State.chargeShaper_dev_of {v : Dev} (s : State) (k : ShaperKind) (i : Nat) (units : Int) (hk : s.dev = v) : (State.chargeShaper s k i units).dev = v := by
  unfold State.chargeShaper; with_reducible repeat' (first | exact hk | assumption | apply State.setTokens_dev_of | (apply foldl_same (f := State.dev); rotate_left; intros) | (apply foldl_fst_same (f := State.dev); rotate_left; intros) | (apply foldl_snd_same (f := State.dev); rotate_left; intros) | (fail_if_no_progress (refine Eq.trans State.mk_dev ?_)) | split | dsimp only | intro)
@[simp] theorem State.chargeShaper_dev (s : State) (k : ShaperKind) (i : Nat) (units : Int) : (State.chargeShaper s k i units).dev = s.dev := State.chargeShaper_dev_of _ _ _ _ rfl

theorem State.chargeShaper_pins_of {v : Pins} (s : State) (k : ShaperKind) (i : Nat) (units : Int) (hk : s.pins = v) : (State.chargeShaper s k i units).pins = v := by
  unfold State.chargeShaper; with_reducible repeat' (first | exact hk | assumption | apply State.setTokens_pins_of | (apply foldl_same (f := State.pins); rotate_left; intros) | (apply foldl_fst_same (f := State.pins); rotate_left; intros) | (apply foldl_snd_same (f := State.pins); rotate_left; intros) | (fail_if_no_progress (refine Eq.trans State.mk_pins ?_)) | split | dsimp only | intro)
@[simp] theorem State.chargeShaper_pins (s : State) (k : ShaperKind) (i : Nat) (units : Int) : (State.chargeShaper s k i units).pins = s.pins := State.chargeShaper_pins_of _ _ _ _ rfl

theorem State.chargeShaper_clk_of {v : Clock} (s : State) (k : ShaperKind) (i : Nat) (units : Int) (hk : s.clk = v) : (State.chargeShaper s k i units).clk = v := by
  unfold State.chargeShaper; with_reducible repeat' (first | exact hk | assumption | apply State.setTokens_clk_of | (apply foldl_same (f := State.clk); rotate_left; intros) | (apply foldl_fst_same (f := State.clk); rotate_left; intros) | (apply foldl_snd_same (f := State.clk); rotate_left; intros) | (fail_if_no_progress (refine Eq.trans State.mk_clk ?_)) | split | dsimp only | intro)
@[simp] theorem State.chargeShaper_clk (s : State) (k : ShaperKind) (i : Nat) (units : Int) : (State.chargeShaper s k i units).clk = s.clk := State.chargeShaper_clk_of _ _ _ _ rfl

theorem State.chargeCopy_dev_of {v : Dev} (s : State) (c : Copy) (units : Int) (hk : s.dev = v) : (State.chargeCopy s c units).dev = v := by
  unfold State.chargeCopy; with_reducible repeat' (first | exact hk | assumption | apply State.chargeShaper_dev_of | (apply foldl_same (f := State.dev); rotate_left; intros) | (apply foldl_fst_same (f := State.dev); rotate_left; intros) | (apply foldl_snd_same (f := State.dev); rotate_left; intros) | (fail_if_no_progress (refine Eq.trans State.mk_dev ?_)) | split | dsimp only | intro)
@[simp] theorem State.chargeCopy_dev (s : State) (c : Copy) (units : Int) : (State.chargeCopy s c units).dev = s.dev := State.chargeCopy_dev_of _ _ _ rfl

theorem State.chargeCopy_pins_of {v : Pins} (s : State) (c : Copy) (units : Int) (hk : s.pins = v) : (State.chargeCopy s c units).pins = v := by
  unfold State.chargeCopy; with_reducible repeat' (first | exact hk | assumption | apply State.chargeShaper_pins_of | (apply foldl_same (f := State.pins); rotate_left; intros) | (apply foldl_fst_same (f := State.pins); rotate_left; intros) | (apply foldl_snd_same (f := State.pins); rotate_left; intros) | (fail_if_no_progress (refine Eq.trans State.mk_pins ?_)) | split | dsimp only | intro)
@[simp] theorem State.chargeCopy_pins (s : State) (c : Copy) (units : Int) : (State.chargeCopy s c units).pins = s.pins := State.chargeCopy_pins_of _ _ _ rfl

theorem State.chargeCopy_clk_of {v : Clock} (s : State) (c : Copy) (units : Int) (hk : s.clk = v) : (State.chargeCopy s c units).clk = v := by
  unfold State.chargeCopy; with_reducible repeat' (first | exact hk | assumption | apply State.chargeShaper_clk_of | (apply foldl_same (f := State.clk); rotate_left; intros) | (apply foldl_fst_same (f := State.clk); rotate_left; intros) | (apply foldl_snd_same (f := State.clk); rotate_left; intros) | (fail_if_no_progress (refine Eq.trans State.mk_clk ?_)) | split | dsimp only | intro)
@[simp] theorem State.chargeCopy_clk (s : State) (c : Copy) (units : Int) : (State.chargeCopy s c units).clk = s.clk := State.chargeCopy_clk_of _ _ _ rfl

theorem State.dropCopy_dev_of {v : Dev} (s : State) (k : Copy) (hk : s.dev = v) : (State.dropCopy s k).dev = v := by
  unfold State.dropCopy; with_reducible repeat' (first | exact hk | assumption | (apply foldl_same (f := State.dev); rotate_left; intros) | (apply foldl_fst_same (f := State.dev); rotate_left; intros) | (apply foldl_snd_same (f := State.dev); rotate_left; intros) | (fail_if_no_progress (refine Eq.trans State.mk_dev ?_)) | split | dsimp only | intro)
@[simp] theorem State.dropCopy_dev (s : State) (k : Copy) : (State.dropCopy s k).dev = s.dev := State.dropCopy_dev_of _ _ rfl

theorem State.dropCopy_pins_of {v : Pins} (s : State) (k : Copy) (hk : s.pins = v) : (State.dropCopy s k).pins = v := by
  unfold State.dropCopy; with_reducible repeat' (first | exact hk | assumption | (apply foldl_same (f := State.pins); rotate_left; intros) | (apply foldl_fst_same (f := State.pins); rotate_left; intros) | (apply foldl_snd_same (f := State.pins); rotate_left; intros) | (fail_if_no_progress (refine Eq.trans State.mk_pins ?_)) | split | dsimp only | intro)
@[simp] theorem State.dropCopy_pins (s : State) (k : Copy) : (State.dropCopy s k).pins = s.pins := State.dropCopy_pins_of _ _ rfl

theorem State.dropCopy_clk_of {v : Clock} (s : State) (k : Copy) (hk : s.clk = v) : (State.dropCopy s k).clk = v := by
  unfold State.dropCopy; with_reducible repeat' (first | exact hk | assumption | (apply foldl_same (f := State.clk); rotate_left; intros) | (apply foldl_fst_same (f := State.clk); rotate_left; intros) | (apply foldl_snd_same (f := State.clk); rotate_left; intros) | (fail_if_no_progress (refine Eq.trans State.mk_clk ?_)) | split | dsimp only | intro)
@[simp] theorem State.dropCopy_clk (s : State) (k : Copy) : (State.dropCopy s k).clk = s.clk := State.dropCopy_clk_of _ _ rfl

theorem State.retag_dev_of {v : Dev} (s : State) (p : Nat) (c : Nat) (sub : Nat) (hk : s.dev = v) : (State.retag s p c sub).dev = v := by
  unfold State.retag; with_reducible repeat' (first | exact hk | assumption | refine Eq.trans (State.setCopy_dev ..) ?_ | (apply foldl_same (f := State.dev); rotate_left; intros) | (apply foldl_fst_same (f := State.dev); rotate_left; intros) | (apply foldl_snd_same (f := State.dev); rotate_left; intros) | (fail_if_no_progress (refine Eq.trans State.mk_dev ?_)) | split | dsimp only | intro)
@[simp] theorem State.retag_dev (s : State) (p : Nat) (c : Nat) (sub : Nat) : (State.retag s p c sub).dev = s.dev := State.retag_dev_of _ _ _ _ rfl

theorem State.retag_pins_of {v : Pins} (s : State) (p : Nat) (c : Nat) (sub : Nat) (hk : s.pins = v) : (State.retag s p c sub).pins = v := by
  unfold State.retag; with_reducible repeat' (first | exact hk | assumption | refine Eq.trans (State.setCopy_pins ..) ?_ | (apply foldl_same (f := State.pins); rotate_left; intros) | (apply foldl_fst_same (f := State.pins); rotate_left; intros) | (apply foldl_snd_same (f := State.pins); rotate_left; intros) | (fail_if_no_progress (refine Eq.trans State.mk_pins ?_)) | split | dsimp only | intro)
@[simp] theorem State.retag_pins (s : State) (p : Nat) (c : Nat) (sub : Nat) : (State.retag s p c sub).pins = s.pins := State.retag_pins_of _ _ _ _ rfl

theorem State.retag_clk_of {v : Clock} (s : State) (p : Nat) (c : Nat) (sub : Nat) (hk : s.clk = v) : (State.retag s p c sub).clk = v := by
  unfold State.retag; with_reducible repeat' (first | exact hk | assumption | refine Eq.trans (State.setCopy_clk ..) ?_ | (apply foldl_same (f := State.clk); rotate_left; intros) | (apply foldl_fst_same (f := State.clk); rotate_left; intros) | (apply foldl_snd_same (f := State.clk); rotate_left; intros) | (fail_if_no_progress (refine Eq.trans State.mk_clk ?_)) | split | dsimp only | intro)
@[simp] theorem State.retag_clk (s : State) (p : Nat) (c : Nat) (sub : Nat) : (State.retag s p c sub).clk = s.clk := State.retag_clk_of _ _ _ _ rfl

theorem State.discardCopy_dev_of {v : Dev} (s : State) (k : Copy) (ctr : RegName) (hk : s.dev = v) : (State.discardCopy s k ctr).dev = v := by
  unfold State.discardCopy; with_reducible repeat' (first | exact hk | assumption | apply State.dropCopy_dev_of | apply State.retag_dev_of | refine Eq.trans (State.bump_dev ..) ?_ | (apply foldl_same (f := State.dev); rotate_left; intros) | (apply foldl_fst_same (f := State.dev); rotate_left; intros) | (apply foldl_snd_same (f := State.dev); rotate_left; intros) | (fail_if_no_progress (refine Eq.trans State.mk_dev ?_)) | split | dsimp only | intro)
@[simp] theorem State.discardCopy_dev (s : State) (k : Copy) (ctr : RegName) : (State.discardCopy s k ctr).dev = s.dev := State.discardCopy_dev_of _ _ _ rfl

theorem State.discardCopy_pins_of {v : Pins} (s : State) (k : Copy) (ctr : RegName) (hk : s.pins = v) : (State.discardCopy s k ctr).pins = v := by
  unfold State.discardCopy; with_reducible repeat' (first | exact hk | assumption | apply State.dropCopy_pins_of | apply State.retag_pins_of | refine Eq.trans (State.bump_pins ..) ?_ | (apply foldl_same (f := State.pins); rotate_left; intros) | (apply foldl_fst_same (f := State.pins); rotate_left; intros) | (apply foldl_snd_same (f := State.pins); rotate_left; intros) | (fail_if_no_progress (refine Eq.trans State.mk_pins ?_)) | split | dsimp only | intro)
@[simp] theorem State.discardCopy_pins (s : State) (k : Copy) (ctr : RegName) : (State.discardCopy s k ctr).pins = s.pins := State.discardCopy_pins_of _ _ _ rfl

theorem State.discardCopy_clk_of {v : Clock} (s : State) (k : Copy) (ctr : RegName) (hk : s.clk = v) : (State.discardCopy s k ctr).clk = v := by
  unfold State.discardCopy; with_reducible repeat' (first | exact hk | assumption | apply State.dropCopy_clk_of | apply State.retag_clk_of | refine Eq.trans (State.bump_clk ..) ?_ | (apply foldl_same (f := State.clk); rotate_left; intros) | (apply foldl_fst_same (f := State.clk); rotate_left; intros) | (apply foldl_snd_same (f := State.clk); rotate_left; intros) | (fail_if_no_progress (refine Eq.trans State.mk_clk ?_)) | split | dsimp only | intro)
@[simp] theorem State.discardCopy_clk (s : State) (k : Copy) (ctr : RegName) : (State.discardCopy s k ctr).clk = s.clk := State.discardCopy_clk_of _ _ _ rfl

theorem State.discardEach_dev_of {v : Dev} (pick : Copy → Bool) (ctr : RegName) (a2 : Nat) (a3 : State) (hk : a3.dev = v) : (State.discardEach pick ctr a2 a3).dev = v := by
  induction a2 generalizing a3 with
  | zero => exact hk
  | succ n ih =>
    unfold State.discardEach; split
    · exact hk
    · exact ih _ (State.discardCopy_dev_of _ _ _ hk)
@[simp] theorem State.discardEach_dev (pick : Copy → Bool) (ctr : RegName) (a2 : Nat) (a3 : State) : (State.discardEach pick ctr a2 a3).dev = a3.dev := State.discardEach_dev_of _ _ _ _ rfl

theorem State.discardEach_pins_of {v : Pins} (pick : Copy → Bool) (ctr : RegName) (a2 : Nat) (a3 : State) (hk : a3.pins = v) : (State.discardEach pick ctr a2 a3).pins = v := by
  induction a2 generalizing a3 with
  | zero => exact hk
  | succ n ih =>
    unfold State.discardEach; split
    · exact hk
    · exact ih _ (State.discardCopy_pins_of _ _ _ hk)
@[simp] theorem State.discardEach_pins (pick : Copy → Bool) (ctr : RegName) (a2 : Nat) (a3 : State) : (State.discardEach pick ctr a2 a3).pins = a3.pins := State.discardEach_pins_of _ _ _ _ rfl

theorem State.discardEach_clk_of {v : Clock} (pick : Copy → Bool) (ctr : RegName) (a2 : Nat) (a3 : State) (hk : a3.clk = v) : (State.discardEach pick ctr a2 a3).clk = v := by
  induction a2 generalizing a3 with
  | zero => exact hk
  | succ n ih =>
    unfold State.discardEach; split
    · exact hk
    · exact ih _ (State.discardCopy_clk_of _ _ _ hk)
@[simp] theorem State.discardEach_clk (pick : Copy → Bool) (ctr : RegName) (a2 : Nat) (a3 : State) : (State.discardEach pick ctr a2 a3).clk = a3.clk := State.discardEach_clk_of _ _ _ _ rfl

theorem State.discardAll_dev_of {v : Dev} (s : State) (pick : Copy → Bool) (ctr : RegName) (hk : s.dev = v) : (State.discardAll s pick ctr).dev = v := by
  unfold State.discardAll; with_reducible repeat' (first | exact hk | assumption | apply State.discardEach_dev_of | (apply foldl_same (f := State.dev); rotate_left; intros) | (apply foldl_fst_same (f := State.dev); rotate_left; intros) | (apply foldl_snd_same (f := State.dev); rotate_left; intros) | (fail_if_no_progress (refine Eq.trans State.mk_dev ?_)) | split | dsimp only | intro)
@[simp] theorem State.discardAll_dev (s : State) (pick : Copy → Bool) (ctr : RegName) : (State.discardAll s pick ctr).dev = s.dev := State.discardAll_dev_of _ _ _ rfl

theorem State.discardAll_pins_of {v : Pins} (s : State) (pick : Copy → Bool) (ctr : RegName) (hk : s.pins = v) : (State.discardAll s pick ctr).pins = v := by
  unfold State.discardAll; with_reducible repeat' (first | exact hk | assumption | apply State.discardEach_pins_of | (apply foldl_same (f := State.pins); rotate_left; intros) | (apply foldl_fst_same (f := State.pins); rotate_left; intros) | (apply foldl_snd_same (f := State.pins); rotate_left; intros) | (fail_if_no_progress (refine Eq.trans State.mk_pins ?_)) | split | dsimp only | intro)
@[simp] theorem State.discardAll_pins (s : State) (pick : Copy → Bool) (ctr : RegName) : (State.discardAll s pick ctr).pins = s.pins := State.discardAll_pins_of _ _ _ rfl

theorem State.discardAll_clk_of {v : Clock} (s : State) (pick : Copy → Bool) (ctr : RegName) (hk : s.clk = v) : (State.discardAll s pick ctr).clk = v := by
  unfold State.discardAll; with_reducible repeat' (first | exact hk | assumption | apply State.discardEach_clk_of | (apply foldl_same (f := State.clk); rotate_left; intros) | (apply foldl_fst_same (f := State.clk); rotate_left; intros) | (apply foldl_snd_same (f := State.clk); rotate_left; intros) | (fail_if_no_progress (refine Eq.trans State.mk_clk ?_)) | split | dsimp only | intro)
@[simp] theorem State.discardAll_clk (s : State) (pick : Copy → Bool) (ctr : RegName) : (State.discardAll s pick ctr).clk = s.clk := State.discardAll_clk_of _ _ _ rfl

theorem State.dropQueued_dev_of {v : Dev} (s : State) (p : Nat) (hk : s.dev = v) : (State.dropQueued s p).dev = v := by
  unfold State.dropQueued; with_reducible repeat' (first | exact hk | assumption | apply State.pauseCheck_dev_of | apply State.discardAll_dev_of | apply State.collect_dev_of | (apply foldl_same (f := State.dev); rotate_left; intros) | (apply foldl_fst_same (f := State.dev); rotate_left; intros) | (apply foldl_snd_same (f := State.dev); rotate_left; intros) | (fail_if_no_progress (refine Eq.trans State.mk_dev ?_)) | split | dsimp only | intro)
@[simp] theorem State.dropQueued_dev (s : State) (p : Nat) : (State.dropQueued s p).dev = s.dev := State.dropQueued_dev_of _ _ rfl

theorem State.dropQueued_pins_of {v : Pins} (s : State) (p : Nat) (hk : s.pins = v) : (State.dropQueued s p).pins = v := by
  unfold State.dropQueued; with_reducible repeat' (first | exact hk | assumption | apply State.pauseCheck_pins_of | apply State.discardAll_pins_of | apply State.collect_pins_of | (apply foldl_same (f := State.pins); rotate_left; intros) | (apply foldl_fst_same (f := State.pins); rotate_left; intros) | (apply foldl_snd_same (f := State.pins); rotate_left; intros) | (fail_if_no_progress (refine Eq.trans State.mk_pins ?_)) | split | dsimp only | intro)
@[simp] theorem State.dropQueued_pins (s : State) (p : Nat) : (State.dropQueued s p).pins = s.pins := State.dropQueued_pins_of _ _ rfl

theorem State.dropQueued_clk_of {v : Clock} (s : State) (p : Nat) (hk : s.clk = v) : (State.dropQueued s p).clk = v := by
  unfold State.dropQueued; with_reducible repeat' (first | exact hk | assumption | apply State.pauseCheck_clk_of | apply State.discardAll_clk_of | apply State.collect_clk_of | (apply foldl_same (f := State.clk); rotate_left; intros) | (apply foldl_fst_same (f := State.clk); rotate_left; intros) | (apply foldl_snd_same (f := State.clk); rotate_left; intros) | (fail_if_no_progress (refine Eq.trans State.mk_clk ?_)) | split | dsimp only | intro)
@[simp] theorem State.dropQueued_clk (s : State) (p : Nat) : (State.dropQueued s p).clk = s.clk := State.dropQueued_clk_of _ _ rfl

theorem State.dropBadTail_dev_of {v : Dev} (s : State) (f : Nat) (hk : s.dev = v) : (State.dropBadTail s f).dev = v := by
  unfold State.dropBadTail; with_reducible repeat' (first | exact hk | assumption | apply State.discardAll_dev_of | (apply foldl_same (f := State.dev); rotate_left; intros) | (apply foldl_fst_same (f := State.dev); rotate_left; intros) | (apply foldl_snd_same (f := State.dev); rotate_left; intros) | (fail_if_no_progress (refine Eq.trans State.mk_dev ?_)) | split | dsimp only | intro)
@[simp] theorem State.dropBadTail_dev (s : State) (f : Nat) : (State.dropBadTail s f).dev = s.dev := State.dropBadTail_dev_of _ _ rfl

theorem State.dropBadTail_pins_of {v : Pins} (s : State) (f : Nat) (hk : s.pins = v) : (State.dropBadTail s f).pins = v := by
  unfold State.dropBadTail; with_reducible repeat' (first | exact hk | assumption | apply State.discardAll_pins_of | (apply foldl_same (f := State.pins); rotate_left; intros) | (apply foldl_fst_same (f := State.pins); rotate_left; intros) | (apply foldl_snd_same (f := State.pins); rotate_left; intros) | (fail_if_no_progress (refine Eq.trans State.mk_pins ?_)) | split | dsimp only | intro)
@[simp] theorem State.dropBadTail_pins (s : State) (f : Nat) : (State.dropBadTail s f).pins = s.pins := State.dropBadTail_pins_of _ _ rfl

theorem State.dropBadTail_clk_of {v : Clock} (s : State) (f : Nat) (hk : s.clk = v) : (State.dropBadTail s f).clk = v := by
  unfold State.dropBadTail; with_reducible repeat' (first | exact hk | assumption | apply State.discardAll_clk_of | (apply foldl_same (f := State.clk); rotate_left; intros) | (apply foldl_fst_same (f := State.clk); rotate_left; intros) | (apply foldl_snd_same (f := State.clk); rotate_left; intros) | (fail_if_no_progress (refine Eq.trans State.mk_clk ?_)) | split | dsimp only | intro)
@[simp] theorem State.dropBadTail_clk (s : State) (f : Nat) : (State.dropBadTail s f).clk = s.clk := State.dropBadTail_clk_of _ _ rfl

theorem State.countFrame_dev_of {v : Dev} (s : State) (x : Frame) (hk : s.dev = v) : (State.countFrame s x).dev = v := by
  unfold State.countFrame; with_reducible repeat' (first | exact hk | assumption | refine Eq.trans (State.bump_dev ..) ?_ | (apply foldl_same (f := State.dev); rotate_left; intros) | (apply foldl_fst_same (f := State.dev); rotate_left; intros) | (apply foldl_snd_same (f := State.dev); rotate_left; intros) | (fail_if_no_progress (refine Eq.trans State.mk_dev ?_)) | split | dsimp only | intro)
@[simp] theorem State.countFrame_dev (s : State) (x : Frame) : (State.countFrame s x).dev = s.dev := State.countFrame_dev_of _ _ rfl

theorem State.countFrame_pins_of {v : Pins} (s : State) (x : Frame) (hk : s.pins = v) : (State.countFrame s x).pins = v := by
  unfold State.countFrame; with_reducible repeat' (first | exact hk | assumption | refine Eq.trans (State.bump_pins ..) ?_ | (apply foldl_same (f := State.pins); rotate_left; intros) | (apply foldl_fst_same (f := State.pins); rotate_left; intros) | (apply foldl_snd_same (f := State.pins); rotate_left; intros) | (fail_if_no_progress (refine Eq.trans State.mk_pins ?_)) | split | dsimp only | intro)
@[simp] theorem State.countFrame_pins (s : State) (x : Frame) : (State.countFrame s x).pins = s.pins := State.countFrame_pins_of _ _ rfl

theorem State.countFrame_clk_of {v : Clock} (s : State) (x : Frame) (hk : s.clk = v) : (State.countFrame s x).clk = v := by
  unfold State.countFrame; with_reducible repeat' (first | exact hk | assumption | refine Eq.trans (State.bump_clk ..) ?_ | (apply foldl_same (f := State.clk); rotate_left; intros) | (apply foldl_fst_same (f := State.clk); rotate_left; intros) | (apply foldl_snd_same (f := State.clk); rotate_left; intros) | (fail_if_no_progress (refine Eq.trans State.mk_clk ?_)) | split | dsimp only | intro)
@[simp] theorem State.countFrame_clk (s : State) (x : Frame) : (State.countFrame s x).clk = s.clk := State.countFrame_clk_of _ _ rfl

theorem State.presentLearn_dev_of {v : Dev} (s : State) (x : Frame) (hk : s.dev = v) : (State.presentLearn s x).dev = v := by
  unfold State.presentLearn; with_reducible repeat' (first | exact hk | assumption | refine Eq.trans (State.setFrame_dev ..) ?_ | refine Eq.trans (State.bump_dev ..) ?_ | (apply foldl_same (f := State.dev); rotate_left; intros) | (apply foldl_fst_same (f := State.dev); rotate_left; intros) | (apply foldl_snd_same (f := State.dev); rotate_left; intros) | (fail_if_no_progress (refine Eq.trans State.mk_dev ?_)) | split | dsimp only | intro)
@[simp] theorem State.presentLearn_dev (s : State) (x : Frame) : (State.presentLearn s x).dev = s.dev := State.presentLearn_dev_of _ _ rfl

theorem State.presentLearn_pins_of {v : Pins} (s : State) (x : Frame) (hk : s.pins = v) : (State.presentLearn s x).pins = v := by
  unfold State.presentLearn; with_reducible repeat' (first | exact hk | assumption | refine Eq.trans (State.setFrame_pins ..) ?_ | refine Eq.trans (State.bump_pins ..) ?_ | (apply foldl_same (f := State.pins); rotate_left; intros) | (apply foldl_fst_same (f := State.pins); rotate_left; intros) | (apply foldl_snd_same (f := State.pins); rotate_left; intros) | (fail_if_no_progress (refine Eq.trans State.mk_pins ?_)) | split | dsimp only | intro)
@[simp] theorem State.presentLearn_pins (s : State) (x : Frame) : (State.presentLearn s x).pins = s.pins := State.presentLearn_pins_of _ _ rfl

theorem State.presentLearn_clk_of {v : Clock} (s : State) (x : Frame) (hk : s.clk = v) : (State.presentLearn s x).clk = v := by
  unfold State.presentLearn; with_reducible repeat' (first | exact hk | assumption | refine Eq.trans (State.setFrame_clk ..) ?_ | refine Eq.trans (State.bump_clk ..) ?_ | (apply foldl_same (f := State.clk); rotate_left; intros) | (apply foldl_fst_same (f := State.clk); rotate_left; intros) | (apply foldl_snd_same (f := State.clk); rotate_left; intros) | (fail_if_no_progress (refine Eq.trans State.mk_clk ?_)) | split | dsimp only | intro)
@[simp] theorem State.presentLearn_clk (s : State) (x : Frame) : (State.presentLearn s x).clk = s.clk := State.presentLearn_clk_of _ _ rfl

theorem State.correctCopy_dev_of {v : Dev} (s : State) (k : Copy) (actual : Nat) (hk : s.dev = v) : (State.correctCopy s k actual).dev = v := by
  unfold State.correctCopy; with_reducible repeat' (first | exact hk | assumption | apply State.chargeCopy_dev_of | refine Eq.trans (State.setCopy_dev ..) ?_ | (apply foldl_same (f := State.dev); rotate_left; intros) | (apply foldl_fst_same (f := State.dev); rotate_left; intros) | (apply foldl_snd_same (f := State.dev); rotate_left; intros) | (fail_if_no_progress (refine Eq.trans State.mk_dev ?_)) | split | dsimp only | intro)
@[simp] theorem State.correctCopy_dev (s : State) (k : Copy) (actual : Nat) : (State.correctCopy s k actual).dev = s.dev := State.correctCopy_dev_of _ _ _ rfl

theorem State.correctCopy_pins_of {v : Pins} (s : State) (k : Copy) (actual : Nat) (hk : s.pins = v) : (State.correctCopy s k actual).pins = v := by
  unfold State.correctCopy; with_reducible repeat' (first | exact hk | assumption | apply State.chargeCopy_pins_of | refine Eq.trans (State.setCopy_pins ..) ?_ | (apply foldl_same (f := State.pins); rotate_left; intros) | (apply foldl_fst_same (f := State.pins); rotate_left; intros) | (apply foldl_snd_same (f := State.pins); rotate_left; intros) | (fail_if_no_progress (refine Eq.trans State.mk_pins ?_)) | split | dsimp only | intro)
@[simp] theorem State.correctCopy_pins (s : State) (k : Copy) (actual : Nat) : (State.correctCopy s k actual).pins = s.pins := State.correctCopy_pins_of _ _ _ rfl

theorem State.correctCopy_clk_of {v : Clock} (s : State) (k : Copy) (actual : Nat) (hk : s.clk = v) : (State.correctCopy s k actual).clk = v := by
  unfold State.correctCopy; with_reducible repeat' (first | exact hk | assumption | apply State.chargeCopy_clk_of | refine Eq.trans (State.setCopy_clk ..) ?_ | (apply foldl_same (f := State.clk); rotate_left; intros) | (apply foldl_fst_same (f := State.clk); rotate_left; intros) | (apply foldl_snd_same (f := State.clk); rotate_left; intros) | (fail_if_no_progress (refine Eq.trans State.mk_clk ?_)) | split | dsimp only | intro)
@[simp] theorem State.correctCopy_clk (s : State) (k : Copy) (actual : Nat) : (State.correctCopy s k actual).clk = s.clk := State.correctCopy_clk_of _ _ _ rfl

theorem State.sendSamples_dev_of {v : Dev} (s : State) (f : Nat) (hk : s.dev = v) : (State.sendSamples s f).dev = v := by
  unfold State.sendSamples; with_reducible repeat' (first | exact hk | assumption | (apply foldl_same (f := State.dev); rotate_left; intros) | (apply foldl_fst_same (f := State.dev); rotate_left; intros) | (apply foldl_snd_same (f := State.dev); rotate_left; intros) | (fail_if_no_progress (refine Eq.trans State.mk_dev ?_)) | split | dsimp only | intro)
@[simp] theorem State.sendSamples_dev (s : State) (f : Nat) : (State.sendSamples s f).dev = s.dev := State.sendSamples_dev_of _ _ rfl

theorem State.sendSamples_pins_of {v : Pins} (s : State) (f : Nat) (hk : s.pins = v) : (State.sendSamples s f).pins = v := by
  unfold State.sendSamples; with_reducible repeat' (first | exact hk | assumption | (apply foldl_same (f := State.pins); rotate_left; intros) | (apply foldl_fst_same (f := State.pins); rotate_left; intros) | (apply foldl_snd_same (f := State.pins); rotate_left; intros) | (fail_if_no_progress (refine Eq.trans State.mk_pins ?_)) | split | dsimp only | intro)
@[simp] theorem State.sendSamples_pins (s : State) (f : Nat) : (State.sendSamples s f).pins = s.pins := State.sendSamples_pins_of _ _ rfl

theorem State.sendSamples_clk_of {v : Clock} (s : State) (f : Nat) (hk : s.clk = v) : (State.sendSamples s f).clk = v := by
  unfold State.sendSamples; with_reducible repeat' (first | exact hk | assumption | (apply foldl_same (f := State.clk); rotate_left; intros) | (apply foldl_fst_same (f := State.clk); rotate_left; intros) | (apply foldl_snd_same (f := State.clk); rotate_left; intros) | (fail_if_no_progress (refine Eq.trans State.mk_clk ?_)) | split | dsimp only | intro)
@[simp] theorem State.sendSamples_clk (s : State) (f : Nat) : (State.sendSamples s f).clk = s.clk := State.sendSamples_clk_of _ _ rfl

theorem State.finishTail_dev_of {v : Dev} (s : State) (x : Frame) (hk : s.dev = v) : (State.finishTail s x).dev = v := by
  unfold State.finishTail; with_reducible repeat' (first | exact hk | assumption | refine Eq.trans (State.setFrame_dev ..) ?_ | apply State.correctCopy_dev_of | apply State.countFrame_dev_of | apply State.presentLearn_dev_of | apply State.dropBadTail_dev_of | apply State.sendSamples_dev_of | apply State.pauseCheck_dev_of | (apply foldl_same (f := State.dev); rotate_left; intros) | (apply foldl_fst_same (f := State.dev); rotate_left; intros) | (apply foldl_snd_same (f := State.dev); rotate_left; intros) | (fail_if_no_progress (refine Eq.trans State.mk_dev ?_)) | split | dsimp only | intro)
@[simp] theorem State.finishTail_dev (s : State) (x : Frame) : (State.finishTail s x).dev = s.dev := State.finishTail_dev_of _ _ rfl

theorem State.finishTail_pins_of {v : Pins} (s : State) (x : Frame) (hk : s.pins = v) : (State.finishTail s x).pins = v := by
  unfold State.finishTail; with_reducible repeat' (first | exact hk | assumption | refine Eq.trans (State.setFrame_pins ..) ?_ | apply State.correctCopy_pins_of | apply State.countFrame_pins_of | apply State.presentLearn_pins_of | apply State.dropBadTail_pins_of | apply State.sendSamples_pins_of | apply State.pauseCheck_pins_of | (apply foldl_same (f := State.pins); rotate_left; intros) | (apply foldl_fst_same (f := State.pins); rotate_left; intros) | (apply foldl_snd_same (f := State.pins); rotate_left; intros) | (fail_if_no_progress (refine Eq.trans State.mk_pins ?_)) | split | dsimp only | intro)
@[simp] theorem State.finishTail_pins (s : State) (x : Frame) : (State.finishTail s x).pins = s.pins := State.finishTail_pins_of _ _ rfl

theorem State.finishTail_clk_of {v : Clock} (s : State) (x : Frame) (hk : s.clk = v) : (State.finishTail s x).clk = v := by
  unfold State.finishTail; with_reducible repeat' (first | exact hk | assumption | refine Eq.trans (State.setFrame_clk ..) ?_ | apply State.correctCopy_clk_of | apply State.countFrame_clk_of | apply State.presentLearn_clk_of | apply State.dropBadTail_clk_of | apply State.sendSamples_clk_of | apply State.pauseCheck_clk_of | (apply foldl_same (f := State.clk); rotate_left; intros) | (apply foldl_fst_same (f := State.clk); rotate_left; intros) | (apply foldl_snd_same (f := State.clk); rotate_left; intros) | (fail_if_no_progress (refine Eq.trans State.mk_clk ?_)) | split | dsimp only | intro)
@[simp] theorem State.finishTail_clk (s : State) (x : Frame) : (State.finishTail s x).clk = s.clk := State.finishTail_clk_of _ _ rfl

theorem State.rxCount_dev_of {v : Dev} (s : State) (x : Frame) (hk : s.dev = v) : (State.rxCount s x).dev = v := by
  unfold State.rxCount; with_reducible repeat' (first | exact hk | assumption | refine Eq.trans (State.bump_dev ..) ?_ | refine Eq.trans (State.bumpBy_dev ..) ?_ | (apply foldl_same (f := State.dev); rotate_left; intros) | (apply foldl_fst_same (f := State.dev); rotate_left; intros) | (apply foldl_snd_same (f := State.dev); rotate_left; intros) | (fail_if_no_progress (refine Eq.trans State.mk_dev ?_)) | split | dsimp only | intro)
@[simp] theorem State.rxCount_dev (s : State) (x : Frame) : (State.rxCount s x).dev = s.dev := State.rxCount_dev_of _ _ rfl

theorem State.rxCount_pins_of {v : Pins} (s : State) (x : Frame) (hk : s.pins = v) : (State.rxCount s x).pins = v := by
  unfold State.rxCount; with_reducible repeat' (first | exact hk | assumption | refine Eq.trans (State.bump_pins ..) ?_ | refine Eq.trans (State.bumpBy_pins ..) ?_ | (apply foldl_same (f := State.pins); rotate_left; intros) | (apply foldl_fst_same (f := State.pins); rotate_left; intros) | (apply foldl_snd_same (f := State.pins); rotate_left; intros) | (fail_if_no_progress (refine Eq.trans State.mk_pins ?_)) | split | dsimp only | intro)
@[simp] theorem State.rxCount_pins (s : State) (x : Frame) : (State.rxCount s x).pins = s.pins := State.rxCount_pins_of _ _ rfl

theorem State.rxCount_clk_of {v : Clock} (s : State) (x : Frame) (hk : s.clk = v) : (State.rxCount s x).clk = v := by
  unfold State.rxCount; with_reducible repeat' (first | exact hk | assumption | refine Eq.trans (State.bump_clk ..) ?_ | refine Eq.trans (State.bumpBy_clk ..) ?_ | (apply foldl_same (f := State.clk); rotate_left; intros) | (apply foldl_fst_same (f := State.clk); rotate_left; intros) | (apply foldl_snd_same (f := State.clk); rotate_left; intros) | (fail_if_no_progress (refine Eq.trans State.mk_clk ?_)) | split | dsimp only | intro)
@[simp] theorem State.rxCount_clk (s : State) (x : Frame) : (State.rxCount s x).clk = s.clk := State.rxCount_clk_of _ _ rfl

theorem State.dropRunt_dev_of {v : Dev} (s : State) (x : Frame) (hk : s.dev = v) : (State.dropRunt s x).dev = v := by
  unfold State.dropRunt; with_reducible repeat' (first | exact hk | assumption | refine Eq.trans (State.bump_dev ..) ?_ | apply State.pauseCheck_dev_of | (apply foldl_same (f := State.dev); rotate_left; intros) | (apply foldl_fst_same (f := State.dev); rotate_left; intros) | (apply foldl_snd_same (f := State.dev); rotate_left; intros) | (fail_if_no_progress (refine Eq.trans State.mk_dev ?_)) | split | dsimp only | intro)
@[simp] theorem State.dropRunt_dev (s : State) (x : Frame) : (State.dropRunt s x).dev = s.dev := State.dropRunt_dev_of _ _ rfl

theorem State.dropRunt_pins_of {v : Pins} (s : State) (x : Frame) (hk : s.pins = v) : (State.dropRunt s x).pins = v := by
  unfold State.dropRunt; with_reducible repeat' (first | exact hk | assumption | refine Eq.trans (State.bump_pins ..) ?_ | apply State.pauseCheck_pins_of | (apply foldl_same (f := State.pins); rotate_left; intros) | (apply foldl_fst_same (f := State.pins); rotate_left; intros) | (apply foldl_snd_same (f := State.pins); rotate_left; intros) | (fail_if_no_progress (refine Eq.trans State.mk_pins ?_)) | split | dsimp only | intro)
@[simp] theorem State.dropRunt_pins (s : State) (x : Frame) : (State.dropRunt s x).pins = s.pins := State.dropRunt_pins_of _ _ rfl

theorem State.dropRunt_clk_of {v : Clock} (s : State) (x : Frame) (hk : s.clk = v) : (State.dropRunt s x).clk = v := by
  unfold State.dropRunt; with_reducible repeat' (first | exact hk | assumption | refine Eq.trans (State.bump_clk ..) ?_ | apply State.pauseCheck_clk_of | (apply foldl_same (f := State.clk); rotate_left; intros) | (apply foldl_fst_same (f := State.clk); rotate_left; intros) | (apply foldl_snd_same (f := State.clk); rotate_left; intros) | (fail_if_no_progress (refine Eq.trans State.mk_clk ?_)) | split | dsimp only | intro)
@[simp] theorem State.dropRunt_clk (s : State) (x : Frame) : (State.dropRunt s x).clk = s.clk := State.dropRunt_clk_of _ _ rfl

theorem State.cutFrame_dev_of {v : Dev} (s : State) (x : Frame) (hk : s.dev = v) : (State.cutFrame s x).dev = v := by
  unfold State.cutFrame; with_reducible repeat' (first | exact hk | assumption | apply State.dropRunt_dev_of | apply State.rxCount_dev_of | apply State.finishTail_dev_of | (apply foldl_same (f := State.dev); rotate_left; intros) | (apply foldl_fst_same (f := State.dev); rotate_left; intros) | (apply foldl_snd_same (f := State.dev); rotate_left; intros) | (fail_if_no_progress (refine Eq.trans State.mk_dev ?_)) | split | dsimp only | intro)
@[simp] theorem State.cutFrame_dev (s : State) (x : Frame) : (State.cutFrame s x).dev = s.dev := State.cutFrame_dev_of _ _ rfl

theorem State.cutFrame_pins_of {v : Pins} (s : State) (x : Frame) (hk : s.pins = v) : (State.cutFrame s x).pins = v := by
  unfold State.cutFrame; with_reducible repeat' (first | exact hk | assumption | apply State.dropRunt_pins_of | apply State.rxCount_pins_of | apply State.finishTail_pins_of | (apply foldl_same (f := State.pins); rotate_left; intros) | (apply foldl_fst_same (f := State.pins); rotate_left; intros) | (apply foldl_snd_same (f := State.pins); rotate_left; intros) | (fail_if_no_progress (refine Eq.trans State.mk_pins ?_)) | split | dsimp only | intro)
@[simp] theorem State.cutFrame_pins (s : State) (x : Frame) : (State.cutFrame s x).pins = s.pins := State.cutFrame_pins_of _ _ rfl

theorem State.cutFrame_clk_of {v : Clock} (s : State) (x : Frame) (hk : s.clk = v) : (State.cutFrame s x).clk = v := by
  unfold State.cutFrame; with_reducible repeat' (first | exact hk | assumption | apply State.dropRunt_clk_of | apply State.rxCount_clk_of | apply State.finishTail_clk_of | (apply foldl_same (f := State.clk); rotate_left; intros) | (apply foldl_fst_same (f := State.clk); rotate_left; intros) | (apply foldl_snd_same (f := State.clk); rotate_left; intros) | (fail_if_no_progress (refine Eq.trans State.mk_clk ?_)) | split | dsimp only | intro)
@[simp] theorem State.cutFrame_clk (s : State) (x : Frame) : (State.cutFrame s x).clk = s.clk := State.cutFrame_clk_of _ _ rfl

theorem State.endTx_dev_of {v : Dev} (s : State) (k : Copy) (octets : List Byte) (good : Bool) (hk : s.dev = v) : (State.endTx s k octets good).dev = v := by
  unfold State.endTx; with_reducible repeat' (first | exact hk | assumption | apply State.correctCopy_dev_of | apply State.dropCopy_dev_of | refine Eq.trans (State.bumpBy_dev ..) ?_ | refine Eq.trans (State.bump_dev ..) ?_ | refine Eq.trans (State.emit_dev ..) ?_ | (apply foldl_same (f := State.dev); rotate_left; intros) | (apply foldl_fst_same (f := State.dev); rotate_left; intros) | (apply foldl_snd_same (f := State.dev); rotate_left; intros) | (fail_if_no_progress (refine Eq.trans State.mk_dev ?_)) | split | dsimp only | intro)
@[simp] theorem State.endTx_dev (s : State) (k : Copy) (octets : List Byte) (good : Bool) : (State.endTx s k octets good).dev = s.dev := State.endTx_dev_of _ _ _ _ rfl

theorem State.endTx_pins_of {v : Pins} (s : State) (k : Copy) (octets : List Byte) (good : Bool) (hk : s.pins = v) : (State.endTx s k octets good).pins = v := by
  unfold State.endTx; with_reducible repeat' (first | exact hk | assumption | apply State.correctCopy_pins_of | apply State.dropCopy_pins_of | refine Eq.trans (State.bumpBy_pins ..) ?_ | refine Eq.trans (State.bump_pins ..) ?_ | refine Eq.trans (State.emit_pins ..) ?_ | (apply foldl_same (f := State.pins); rotate_left; intros) | (apply foldl_fst_same (f := State.pins); rotate_left; intros) | (apply foldl_snd_same (f := State.pins); rotate_left; intros) | (fail_if_no_progress (refine Eq.trans State.mk_pins ?_)) | split | dsimp only | intro)
@[simp] theorem State.endTx_pins (s : State) (k : Copy) (octets : List Byte) (good : Bool) : (State.endTx s k octets good).pins = s.pins := State.endTx_pins_of _ _ _ _ rfl

theorem State.endTx_clk_of {v : Clock} (s : State) (k : Copy) (octets : List Byte) (good : Bool) (hk : s.clk = v) : (State.endTx s k octets good).clk = v := by
  unfold State.endTx; with_reducible repeat' (first | exact hk | assumption | apply State.correctCopy_clk_of | apply State.dropCopy_clk_of | refine Eq.trans (State.bumpBy_clk ..) ?_ | refine Eq.trans (State.bump_clk ..) ?_ | refine Eq.trans (State.emit_clk ..) ?_ | (apply foldl_same (f := State.clk); rotate_left; intros) | (apply foldl_fst_same (f := State.clk); rotate_left; intros) | (apply foldl_snd_same (f := State.clk); rotate_left; intros) | (fail_if_no_progress (refine Eq.trans State.mk_clk ?_)) | split | dsimp only | intro)
@[simp] theorem State.endTx_clk (s : State) (k : Copy) (octets : List Byte) (good : Bool) : (State.endTx s k octets good).clk = s.clk := State.endTx_clk_of _ _ _ _ rfl

theorem State.portDown_dev_of {v : Dev} (s : State) (p : Nat) (hk : s.dev = v) : (State.portDown s p).dev = v := by
  unfold State.portDown; with_reducible repeat' (first | exact hk | assumption | apply State.cutFrame_dev_of | apply State.endTx_dev_of | apply State.dropCopy_dev_of | apply State.dropQueued_dev_of | refine Eq.trans (State.setPort_dev ..) ?_ | (apply foldl_same (f := State.dev); rotate_left; intros) | (apply foldl_fst_same (f := State.dev); rotate_left; intros) | (apply foldl_snd_same (f := State.dev); rotate_left; intros) | (fail_if_no_progress (refine Eq.trans State.mk_dev ?_)) | split | dsimp only | intro)
@[simp] theorem State.portDown_dev (s : State) (p : Nat) : (State.portDown s p).dev = s.dev := State.portDown_dev_of _ _ rfl

theorem State.portDown_pins_of {v : Pins} (s : State) (p : Nat) (hk : s.pins = v) : (State.portDown s p).pins = v := by
  unfold State.portDown; with_reducible repeat' (first | exact hk | assumption | apply State.cutFrame_pins_of | apply State.endTx_pins_of | apply State.dropCopy_pins_of | apply State.dropQueued_pins_of | refine Eq.trans (State.setPort_pins ..) ?_ | (apply foldl_same (f := State.pins); rotate_left; intros) | (apply foldl_fst_same (f := State.pins); rotate_left; intros) | (apply foldl_snd_same (f := State.pins); rotate_left; intros) | (fail_if_no_progress (refine Eq.trans State.mk_pins ?_)) | split | dsimp only | intro)
@[simp] theorem State.portDown_pins (s : State) (p : Nat) : (State.portDown s p).pins = s.pins := State.portDown_pins_of _ _ rfl

theorem State.portDown_clk_of {v : Clock} (s : State) (p : Nat) (hk : s.clk = v) : (State.portDown s p).clk = v := by
  unfold State.portDown; with_reducible repeat' (first | exact hk | assumption | apply State.cutFrame_clk_of | apply State.endTx_clk_of | apply State.dropCopy_clk_of | apply State.dropQueued_clk_of | refine Eq.trans (State.setPort_clk ..) ?_ | (apply foldl_same (f := State.clk); rotate_left; intros) | (apply foldl_fst_same (f := State.clk); rotate_left; intros) | (apply foldl_snd_same (f := State.clk); rotate_left; intros) | (fail_if_no_progress (refine Eq.trans State.mk_clk ?_)) | split | dsimp only | intro)
@[simp] theorem State.portDown_clk (s : State) (p : Nat) : (State.portDown s p).clk = s.clk := State.portDown_clk_of _ _ rfl

theorem State.discardLanding_dev_of {v : Dev} (s : State) (p : Nat) (hk : s.dev = v) : (State.discardLanding s p).dev = v := by
  unfold State.discardLanding; with_reducible repeat' (first | exact hk | assumption | (apply foldl_same (f := State.dev); rotate_left; intros) | (apply foldl_fst_same (f := State.dev); rotate_left; intros) | (apply foldl_snd_same (f := State.dev); rotate_left; intros) | (fail_if_no_progress (refine Eq.trans State.mk_dev ?_)) | split | dsimp only | intro)
@[simp] theorem State.discardLanding_dev (s : State) (p : Nat) : (State.discardLanding s p).dev = s.dev := State.discardLanding_dev_of _ _ rfl

theorem State.discardLanding_pins_of {v : Pins} (s : State) (p : Nat) (hk : s.pins = v) : (State.discardLanding s p).pins = v := by
  unfold State.discardLanding; with_reducible repeat' (first | exact hk | assumption | (apply foldl_same (f := State.pins); rotate_left; intros) | (apply foldl_fst_same (f := State.pins); rotate_left; intros) | (apply foldl_snd_same (f := State.pins); rotate_left; intros) | (fail_if_no_progress (refine Eq.trans State.mk_pins ?_)) | split | dsimp only | intro)
@[simp] theorem State.discardLanding_pins (s : State) (p : Nat) : (State.discardLanding s p).pins = s.pins := State.discardLanding_pins_of _ _ rfl

theorem State.discardLanding_clk_of {v : Clock} (s : State) (p : Nat) (hk : s.clk = v) : (State.discardLanding s p).clk = v := by
  unfold State.discardLanding; with_reducible repeat' (first | exact hk | assumption | (apply foldl_same (f := State.clk); rotate_left; intros) | (apply foldl_fst_same (f := State.clk); rotate_left; intros) | (apply foldl_snd_same (f := State.clk); rotate_left; intros) | (fail_if_no_progress (refine Eq.trans State.mk_clk ?_)) | split | dsimp only | intro)
@[simp] theorem State.discardLanding_clk (s : State) (p : Nat) : (State.discardLanding s p).clk = s.clk := State.discardLanding_clk_of _ _ rfl

theorem State.completeCipher_dev_of {v : Dev} (s : State) (q : CipherReq) (status : Nat) (epoch : Nat) (outLen : Nat) (inv : Nat) (output : List Byte) (hk : s.dev = v) : (State.completeCipher s q status epoch outLen inv output).dev = v := by
  unfold State.completeCipher; with_reducible repeat' (first | exact hk | assumption | refine Eq.trans (State.bump_dev ..) ?_ | refine Eq.trans (State.bumpBy_dev ..) ?_ | (apply foldl_same (f := State.dev); rotate_left; intros) | (apply foldl_fst_same (f := State.dev); rotate_left; intros) | (apply foldl_snd_same (f := State.dev); rotate_left; intros) | (fail_if_no_progress (refine Eq.trans State.mk_dev ?_)) | split | dsimp only | intro)
@[simp] theorem State.completeCipher_dev (s : State) (q : CipherReq) (status : Nat) (epoch : Nat) (outLen : Nat) (inv : Nat) (output : List Byte) : (State.completeCipher s q status epoch outLen inv output).dev = s.dev := State.completeCipher_dev_of _ _ _ _ _ _ _ rfl

theorem State.completeCipher_pins_of {v : Pins} (s : State) (q : CipherReq) (status : Nat) (epoch : Nat) (outLen : Nat) (inv : Nat) (output : List Byte) (hk : s.pins = v) : (State.completeCipher s q status epoch outLen inv output).pins = v := by
  unfold State.completeCipher; with_reducible repeat' (first | exact hk | assumption | refine Eq.trans (State.bump_pins ..) ?_ | refine Eq.trans (State.bumpBy_pins ..) ?_ | (apply foldl_same (f := State.pins); rotate_left; intros) | (apply foldl_fst_same (f := State.pins); rotate_left; intros) | (apply foldl_snd_same (f := State.pins); rotate_left; intros) | (fail_if_no_progress (refine Eq.trans State.mk_pins ?_)) | split | dsimp only | intro)
@[simp] theorem State.completeCipher_pins (s : State) (q : CipherReq) (status : Nat) (epoch : Nat) (outLen : Nat) (inv : Nat) (output : List Byte) : (State.completeCipher s q status epoch outLen inv output).pins = s.pins := State.completeCipher_pins_of _ _ _ _ _ _ _ rfl

theorem State.completeCipher_clk_of {v : Clock} (s : State) (q : CipherReq) (status : Nat) (epoch : Nat) (outLen : Nat) (inv : Nat) (output : List Byte) (hk : s.clk = v) : (State.completeCipher s q status epoch outLen inv output).clk = v := by
  unfold State.completeCipher; with_reducible repeat' (first | exact hk | assumption | refine Eq.trans (State.bump_clk ..) ?_ | refine Eq.trans (State.bumpBy_clk ..) ?_ | (apply foldl_same (f := State.clk); rotate_left; intros) | (apply foldl_fst_same (f := State.clk); rotate_left; intros) | (apply foldl_snd_same (f := State.clk); rotate_left; intros) | (fail_if_no_progress (refine Eq.trans State.mk_clk ?_)) | split | dsimp only | intro)
@[simp] theorem State.completeCipher_clk (s : State) (q : CipherReq) (status : Nat) (epoch : Nat) (outLen : Nat) (inv : Nat) (output : List Byte) : (State.completeCipher s q status epoch outLen inv output).clk = s.clk := State.completeCipher_clk_of _ _ _ _ _ _ _ rfl

theorem State.refuseCipher_dev_of {v : Dev} (s : State) (q : CipherReq) (status : Nat) (hk : s.dev = v) : (State.refuseCipher s q status).dev = v := by
  unfold State.refuseCipher; with_reducible repeat' (first | exact hk | assumption | apply State.completeCipher_dev_of | (apply foldl_same (f := State.dev); rotate_left; intros) | (apply foldl_fst_same (f := State.dev); rotate_left; intros) | (apply foldl_snd_same (f := State.dev); rotate_left; intros) | (fail_if_no_progress (refine Eq.trans State.mk_dev ?_)) | split | dsimp only | intro)
@[simp] theorem State.refuseCipher_dev (s : State) (q : CipherReq) (status : Nat) : (State.refuseCipher s q status).dev = s.dev := State.refuseCipher_dev_of _ _ _ rfl

theorem State.refuseCipher_pins_of {v : Pins} (s : State) (q : CipherReq) (status : Nat) (hk : s.pins = v) : (State.refuseCipher s q status).pins = v := by
  unfold State.refuseCipher; with_reducible repeat' (first | exact hk | assumption | apply State.completeCipher_pins_of | (apply foldl_same (f := State.pins); rotate_left; intros) | (apply foldl_fst_same (f := State.pins); rotate_left; intros) | (apply foldl_snd_same (f := State.pins); rotate_left; intros) | (fail_if_no_progress (refine Eq.trans State.mk_pins ?_)) | split | dsimp only | intro)
@[simp] theorem State.refuseCipher_pins (s : State) (q : CipherReq) (status : Nat) : (State.refuseCipher s q status).pins = s.pins := State.refuseCipher_pins_of _ _ _ rfl

theorem State.refuseCipher_clk_of {v : Clock} (s : State) (q : CipherReq) (status : Nat) (hk : s.clk = v) : (State.refuseCipher s q status).clk = v := by
  unfold State.refuseCipher; with_reducible repeat' (first | exact hk | assumption | apply State.completeCipher_clk_of | (apply foldl_same (f := State.clk); rotate_left; intros) | (apply foldl_fst_same (f := State.clk); rotate_left; intros) | (apply foldl_snd_same (f := State.clk); rotate_left; intros) | (fail_if_no_progress (refine Eq.trans State.mk_clk ?_)) | split | dsimp only | intro)
@[simp] theorem State.refuseCipher_clk (s : State) (q : CipherReq) (status : Nat) : (State.refuseCipher s q status).clk = s.clk := State.refuseCipher_clk_of _ _ _ rfl

theorem State.queueCipher_dev_of {v : Dev} (s : State) (q : CipherReq) (hk : s.dev = v) : (State.queueCipher s q).dev = v := by
  unfold State.queueCipher; with_reducible repeat' (first | exact hk | assumption | (apply foldl_same (f := State.dev); rotate_left; intros) | (apply foldl_fst_same (f := State.dev); rotate_left; intros) | (apply foldl_snd_same (f := State.dev); rotate_left; intros) | (fail_if_no_progress (refine Eq.trans State.mk_dev ?_)) | split | dsimp only | intro)
@[simp] theorem State.queueCipher_dev (s : State) (q : CipherReq) : (State.queueCipher s q).dev = s.dev := State.queueCipher_dev_of _ _ rfl

theorem State.queueCipher_pins_of {v : Pins} (s : State) (q : CipherReq) (hk : s.pins = v) : (State.queueCipher s q).pins = v := by
  unfold State.queueCipher; with_reducible repeat' (first | exact hk | assumption | (apply foldl_same (f := State.pins); rotate_left; intros) | (apply foldl_fst_same (f := State.pins); rotate_left; intros) | (apply foldl_snd_same (f := State.pins); rotate_left; intros) | (fail_if_no_progress (refine Eq.trans State.mk_pins ?_)) | split | dsimp only | intro)
@[simp] theorem State.queueCipher_pins (s : State) (q : CipherReq) : (State.queueCipher s q).pins = s.pins := State.queueCipher_pins_of _ _ rfl

theorem State.queueCipher_clk_of {v : Clock} (s : State) (q : CipherReq) (hk : s.clk = v) : (State.queueCipher s q).clk = v := by
  unfold State.queueCipher; with_reducible repeat' (first | exact hk | assumption | (apply foldl_same (f := State.clk); rotate_left; intros) | (apply foldl_fst_same (f := State.clk); rotate_left; intros) | (apply foldl_snd_same (f := State.clk); rotate_left; intros) | (fail_if_no_progress (refine Eq.trans State.mk_clk ?_)) | split | dsimp only | intro)
@[simp] theorem State.queueCipher_clk (s : State) (q : CipherReq) : (State.queueCipher s q).clk = s.clk := State.queueCipher_clk_of _ _ rfl

theorem State.submitCipher_dev_of {v : Dev} (s : State) (q : CipherReq) (hk : s.dev = v) : (State.submitCipher s q).dev = v := by
  unfold State.submitCipher; with_reducible repeat' (first | exact hk | assumption | apply State.queueCipher_dev_of | (apply foldl_same (f := State.dev); rotate_left; intros) | (apply foldl_fst_same (f := State.dev); rotate_left; intros) | (apply foldl_snd_same (f := State.dev); rotate_left; intros) | (fail_if_no_progress (refine Eq.trans State.mk_dev ?_)) | split | dsimp only | intro)
@[simp] theorem State.submitCipher_dev (s : State) (q : CipherReq) : (State.submitCipher s q).dev = s.dev := State.submitCipher_dev_of _ _ rfl

theorem State.submitCipher_pins_of {v : Pins} (s : State) (q : CipherReq) (hk : s.pins = v) : (State.submitCipher s q).pins = v := by
  unfold State.submitCipher; with_reducible repeat' (first | exact hk | assumption | apply State.queueCipher_pins_of | (apply foldl_same (f := State.pins); rotate_left; intros) | (apply foldl_fst_same (f := State.pins); rotate_left; intros) | (apply foldl_snd_same (f := State.pins); rotate_left; intros) | (fail_if_no_progress (refine Eq.trans State.mk_pins ?_)) | split | dsimp only | intro)
@[simp] theorem State.submitCipher_pins (s : State) (q : CipherReq) : (State.submitCipher s q).pins = s.pins := State.submitCipher_pins_of _ _ rfl

theorem State.submitCipher_clk_of {v : Clock} (s : State) (q : CipherReq) (hk : s.clk = v) : (State.submitCipher s q).clk = v := by
  unfold State.submitCipher; with_reducible repeat' (first | exact hk | assumption | apply State.queueCipher_clk_of | (apply foldl_same (f := State.clk); rotate_left; intros) | (apply foldl_fst_same (f := State.clk); rotate_left; intros) | (apply foldl_snd_same (f := State.clk); rotate_left; intros) | (fail_if_no_progress (refine Eq.trans State.mk_clk ?_)) | split | dsimp only | intro)
@[simp] theorem State.submitCipher_clk (s : State) (q : CipherReq) : (State.submitCipher s q).clk = s.clk := State.submitCipher_clk_of _ _ rfl

theorem State.refillQueue_dev_of {v : Dev} (s : State) (hk : s.dev = v) : (State.refillQueue s).dev = v := by
  unfold State.refillQueue; with_reducible repeat' (first | exact hk | assumption | apply State.queueCipher_dev_of | (apply foldl_same (f := State.dev); rotate_left; intros) | (apply foldl_fst_same (f := State.dev); rotate_left; intros) | (apply foldl_snd_same (f := State.dev); rotate_left; intros) | (fail_if_no_progress (refine Eq.trans State.mk_dev ?_)) | split | dsimp only | intro)
@[simp] theorem State.refillQueue_dev (s : State) : (State.refillQueue s).dev = s.dev := State.refillQueue_dev_of _ rfl

theorem State.refillQueue_pins_of {v : Pins} (s : State) (hk : s.pins = v) : (State.refillQueue s).pins = v := by
  unfold State.refillQueue; with_reducible repeat' (first | exact hk | assumption | apply State.queueCipher_pins_of | (apply foldl_same (f := State.pins); rotate_left; intros) | (apply foldl_fst_same (f := State.pins); rotate_left; intros) | (apply foldl_snd_same (f := State.pins); rotate_left; intros) | (fail_if_no_progress (refine Eq.trans State.mk_pins ?_)) | split | dsimp only | intro)
@[simp] theorem State.refillQueue_pins (s : State) : (State.refillQueue s).pins = s.pins := State.refillQueue_pins_of _ rfl

theorem State.refillQueue_clk_of {v : Clock} (s : State) (hk : s.clk = v) : (State.refillQueue s).clk = v := by
  unfold State.refillQueue; with_reducible repeat' (first | exact hk | assumption | apply State.queueCipher_clk_of | (apply foldl_same (f := State.clk); rotate_left; intros) | (apply foldl_fst_same (f := State.clk); rotate_left; intros) | (apply foldl_snd_same (f := State.clk); rotate_left; intros) | (fail_if_no_progress (refine Eq.trans State.mk_clk ?_)) | split | dsimp only | intro)
@[simp] theorem State.refillQueue_clk (s : State) : (State.refillQueue s).clk = s.clk := State.refillQueue_clk_of _ rfl

theorem State.tidyRound_dev_of {v : Dev} (s : State) (hk : s.dev = v) : (State.tidyRound s).dev = v := by
  unfold State.tidyRound; with_reducible repeat' (first | exact hk | assumption | (apply foldl_same (f := State.dev); rotate_left; intros) | (apply foldl_fst_same (f := State.dev); rotate_left; intros) | (apply foldl_snd_same (f := State.dev); rotate_left; intros) | (fail_if_no_progress (refine Eq.trans State.mk_dev ?_)) | split | dsimp only | intro)
@[simp] theorem State.tidyRound_dev (s : State) : (State.tidyRound s).dev = s.dev := State.tidyRound_dev_of _ rfl

theorem State.tidyRound_pins_of {v : Pins} (s : State) (hk : s.pins = v) : (State.tidyRound s).pins = v := by
  unfold State.tidyRound; with_reducible repeat' (first | exact hk | assumption | (apply foldl_same (f := State.pins); rotate_left; intros) | (apply foldl_fst_same (f := State.pins); rotate_left; intros) | (apply foldl_snd_same (f := State.pins); rotate_left; intros) | (fail_if_no_progress (refine Eq.trans State.mk_pins ?_)) | split | dsimp only | intro)
@[simp] theorem State.tidyRound_pins (s : State) : (State.tidyRound s).pins = s.pins := State.tidyRound_pins_of _ rfl

theorem State.tidyRound_clk_of {v : Clock} (s : State) (hk : s.clk = v) : (State.tidyRound s).clk = v := by
  unfold State.tidyRound; with_reducible repeat' (first | exact hk | assumption | (apply foldl_same (f := State.clk); rotate_left; intros) | (apply foldl_fst_same (f := State.clk); rotate_left; intros) | (apply foldl_snd_same (f := State.clk); rotate_left; intros) | (fail_if_no_progress (refine Eq.trans State.mk_clk ?_)) | split | dsimp only | intro)
@[simp] theorem State.tidyRound_clk (s : State) : (State.tidyRound s).clk = s.clk := State.tidyRound_clk_of _ rfl

theorem State.endTurn_dev_of {v : Dev} (s : State) (c : Nat) (hk : s.dev = v) : (State.endTurn s c).dev = v := by
  unfold State.endTurn; with_reducible repeat' (first | exact hk | assumption | (apply foldl_same (f := State.dev); rotate_left; intros) | (apply foldl_fst_same (f := State.dev); rotate_left; intros) | (apply foldl_snd_same (f := State.dev); rotate_left; intros) | (fail_if_no_progress (refine Eq.trans State.mk_dev ?_)) | split | dsimp only | intro)
@[simp] theorem State.endTurn_dev (s : State) (c : Nat) : (State.endTurn s c).dev = s.dev := State.endTurn_dev_of _ _ rfl

theorem State.endTurn_pins_of {v : Pins} (s : State) (c : Nat) (hk : s.pins = v) : (State.endTurn s c).pins = v := by
  unfold State.endTurn; with_reducible repeat' (first | exact hk | assumption | (apply foldl_same (f := State.pins); rotate_left; intros) | (apply foldl_fst_same (f := State.pins); rotate_left; intros) | (apply foldl_snd_same (f := State.pins); rotate_left; intros) | (fail_if_no_progress (refine Eq.trans State.mk_pins ?_)) | split | dsimp only | intro)
@[simp] theorem State.endTurn_pins (s : State) (c : Nat) : (State.endTurn s c).pins = s.pins := State.endTurn_pins_of _ _ rfl

theorem State.endTurn_clk_of {v : Clock} (s : State) (c : Nat) (hk : s.clk = v) : (State.endTurn s c).clk = v := by
  unfold State.endTurn; with_reducible repeat' (first | exact hk | assumption | (apply foldl_same (f := State.clk); rotate_left; intros) | (apply foldl_fst_same (f := State.clk); rotate_left; intros) | (apply foldl_snd_same (f := State.clk); rotate_left; intros) | (fail_if_no_progress (refine Eq.trans State.mk_clk ?_)) | split | dsimp only | intro)
@[simp] theorem State.endTurn_clk (s : State) (c : Nat) : (State.endTurn s c).clk = s.clk := State.endTurn_clk_of _ _ rfl

theorem State.abortUnit_dev_of {v : Dev} (s : State) (e : Nat) (status : Nat) (hk : s.dev = v) : (State.abortUnit s e status).dev = v := by
  unfold State.abortUnit; with_reducible repeat' (first | exact hk | assumption | refine Eq.trans (State.drew_dev ..) ?_ | apply State.drewN_dev_of | refine Eq.trans (State.setEngine_dev ..) ?_ | apply State.completeCipher_dev_of | apply State.endTurn_dev_of | apply State.tidyRound_dev_of | (apply foldl_same (f := State.dev); rotate_left; intros) | (apply foldl_fst_same (f := State.dev); rotate_left; intros) | (apply foldl_snd_same (f := State.dev); rotate_left; intros) | (fail_if_no_progress (refine Eq.trans State.mk_dev ?_)) | split | dsimp only | intro)
@[simp] theorem State.abortUnit_dev (s : State) (e : Nat) (status : Nat) : (State.abortUnit s e status).dev = s.dev := State.abortUnit_dev_of _ _ _ rfl

theorem State.abortUnit_pins_of {v : Pins} (s : State) (e : Nat) (status : Nat) (hk : s.pins = v) : (State.abortUnit s e status).pins = v := by
  unfold State.abortUnit; with_reducible repeat' (first | exact hk | assumption | refine Eq.trans (State.drew_pins ..) ?_ | apply State.drewN_pins_of | refine Eq.trans (State.setEngine_pins ..) ?_ | apply State.completeCipher_pins_of | apply State.endTurn_pins_of | apply State.tidyRound_pins_of | (apply foldl_same (f := State.pins); rotate_left; intros) | (apply foldl_fst_same (f := State.pins); rotate_left; intros) | (apply foldl_snd_same (f := State.pins); rotate_left; intros) | (fail_if_no_progress (refine Eq.trans State.mk_pins ?_)) | split | dsimp only | intro)
@[simp] theorem State.abortUnit_pins (s : State) (e : Nat) (status : Nat) : (State.abortUnit s e status).pins = s.pins := State.abortUnit_pins_of _ _ _ rfl

theorem State.abortUnit_clk_of {v : Clock} (s : State) (e : Nat) (status : Nat) (hk : s.clk = v) : (State.abortUnit s e status).clk = v := by
  unfold State.abortUnit; with_reducible repeat' (first | exact hk | assumption | refine Eq.trans (State.drew_clk ..) ?_ | apply State.drewN_clk_of | refine Eq.trans (State.setEngine_clk ..) ?_ | apply State.completeCipher_clk_of | apply State.endTurn_clk_of | apply State.tidyRound_clk_of | (apply foldl_same (f := State.clk); rotate_left; intros) | (apply foldl_fst_same (f := State.clk); rotate_left; intros) | (apply foldl_snd_same (f := State.clk); rotate_left; intros) | (fail_if_no_progress (refine Eq.trans State.mk_clk ?_)) | split | dsimp only | intro)
@[simp] theorem State.abortUnit_clk (s : State) (e : Nat) (status : Nat) : (State.abortUnit s e status).clk = s.clk := State.abortUnit_clk_of _ _ _ rfl

theorem State.lockCtx_dev_of {v : Dev} (s : State) (c : Nat) (hk : s.dev = v) : (State.lockCtx s c).dev = v := by
  unfold State.lockCtx; with_reducible repeat' (first | exact hk | assumption | refine Eq.trans (State.setKeyCtx_dev ..) ?_ | apply State.abortUnit_dev_of | apply State.refuseCipher_dev_of | apply State.tidyRound_dev_of | apply State.refillQueue_dev_of | (apply foldl_same (f := State.dev); rotate_left; intros) | (apply foldl_fst_same (f := State.dev); rotate_left; intros) | (apply foldl_snd_same (f := State.dev); rotate_left; intros) | (fail_if_no_progress (refine Eq.trans State.mk_dev ?_)) | split | dsimp only | intro)
@[simp] theorem State.lockCtx_dev (s : State) (c : Nat) : (State.lockCtx s c).dev = s.dev := State.lockCtx_dev_of _ _ rfl

theorem State.lockCtx_pins_of {v : Pins} (s : State) (c : Nat) (hk : s.pins = v) : (State.lockCtx s c).pins = v := by
  unfold State.lockCtx; with_reducible repeat' (first | exact hk | assumption | refine Eq.trans (State.setKeyCtx_pins ..) ?_ | apply State.abortUnit_pins_of | apply State.refuseCipher_pins_of | apply State.tidyRound_pins_of | apply State.refillQueue_pins_of | (apply foldl_same (f := State.pins); rotate_left; intros) | (apply foldl_fst_same (f := State.pins); rotate_left; intros) | (apply foldl_snd_same (f := State.pins); rotate_left; intros) | (fail_if_no_progress (refine Eq.trans State.mk_pins ?_)) | split | dsimp only | intro)
@[simp] theorem State.lockCtx_pins (s : State) (c : Nat) : (State.lockCtx s c).pins = s.pins := State.lockCtx_pins_of _ _ rfl

theorem State.lockCtx_clk_of {v : Clock} (s : State) (c : Nat) (hk : s.clk = v) : (State.lockCtx s c).clk = v := by
  unfold State.lockCtx; with_reducible repeat' (first | exact hk | assumption | refine Eq.trans (State.setKeyCtx_clk ..) ?_ | apply State.abortUnit_clk_of | apply State.refuseCipher_clk_of | apply State.tidyRound_clk_of | apply State.refillQueue_clk_of | (apply foldl_same (f := State.clk); rotate_left; intros) | (apply foldl_fst_same (f := State.clk); rotate_left; intros) | (apply foldl_snd_same (f := State.clk); rotate_left; intros) | (fail_if_no_progress (refine Eq.trans State.mk_clk ?_)) | split | dsimp only | intro)
@[simp] theorem State.lockCtx_clk (s : State) (c : Nat) : (State.lockCtx s c).clk = s.clk := State.lockCtx_clk_of _ _ rfl

theorem State.lockOwn_dev_of {v : Dev} (s : State) (c : Nat) (hk : s.dev = v) : (State.lockOwn s c).dev = v := by
  unfold State.lockOwn; with_reducible repeat' (first | exact hk | assumption | apply State.lockCtx_dev_of | refine Eq.trans (State.setKeyCtx_dev ..) ?_ | (apply foldl_same (f := State.dev); rotate_left; intros) | (apply foldl_fst_same (f := State.dev); rotate_left; intros) | (apply foldl_snd_same (f := State.dev); rotate_left; intros) | (fail_if_no_progress (refine Eq.trans State.mk_dev ?_)) | split | dsimp only | intro)
@[simp] theorem State.lockOwn_dev (s : State) (c : Nat) : (State.lockOwn s c).dev = s.dev := State.lockOwn_dev_of _ _ rfl

theorem State.lockOwn_pins_of {v : Pins} (s : State) (c : Nat) (hk : s.pins = v) : (State.lockOwn s c).pins = v := by
  unfold State.lockOwn; with_reducible repeat' (first | exact hk | assumption | apply State.lockCtx_pins_of | refine Eq.trans (State.setKeyCtx_pins ..) ?_ | (apply foldl_same (f := State.pins); rotate_left; intros) | (apply foldl_fst_same (f := State.pins); rotate_left; intros) | (apply foldl_snd_same (f := State.pins); rotate_left; intros) | (fail_if_no_progress (refine Eq.trans State.mk_pins ?_)) | split | dsimp only | intro)
@[simp] theorem State.lockOwn_pins (s : State) (c : Nat) : (State.lockOwn s c).pins = s.pins := State.lockOwn_pins_of _ _ rfl

theorem State.lockOwn_clk_of {v : Clock} (s : State) (c : Nat) (hk : s.clk = v) : (State.lockOwn s c).clk = v := by
  unfold State.lockOwn; with_reducible repeat' (first | exact hk | assumption | apply State.lockCtx_clk_of | refine Eq.trans (State.setKeyCtx_clk ..) ?_ | (apply foldl_same (f := State.clk); rotate_left; intros) | (apply foldl_fst_same (f := State.clk); rotate_left; intros) | (apply foldl_snd_same (f := State.clk); rotate_left; intros) | (fail_if_no_progress (refine Eq.trans State.mk_clk ?_)) | split | dsimp only | intro)
@[simp] theorem State.lockOwn_clk (s : State) (c : Nat) : (State.lockOwn s c).clk = s.clk := State.lockOwn_clk_of _ _ rfl

theorem State.lockAll_dev_of {v : Dev} (s : State) (which : Nat → KeyCtx → Bool) (hk : s.dev = v) : (State.lockAll s which).dev = v := by
  unfold State.lockAll; with_reducible repeat' (first | exact hk | assumption | apply State.lockCtx_dev_of | (apply foldl_same (f := State.dev); rotate_left; intros) | (apply foldl_fst_same (f := State.dev); rotate_left; intros) | (apply foldl_snd_same (f := State.dev); rotate_left; intros) | (fail_if_no_progress (refine Eq.trans State.mk_dev ?_)) | split | dsimp only | intro)
@[simp] theorem State.lockAll_dev (s : State) (which : Nat → KeyCtx → Bool) : (State.lockAll s which).dev = s.dev := State.lockAll_dev_of _ _ rfl

theorem State.lockAll_pins_of {v : Pins} (s : State) (which : Nat → KeyCtx → Bool) (hk : s.pins = v) : (State.lockAll s which).pins = v := by
  unfold State.lockAll; with_reducible repeat' (first | exact hk | assumption | apply State.lockCtx_pins_of | (apply foldl_same (f := State.pins); rotate_left; intros) | (apply foldl_fst_same (f := State.pins); rotate_left; intros) | (apply foldl_snd_same (f := State.pins); rotate_left; intros) | (fail_if_no_progress (refine Eq.trans State.mk_pins ?_)) | split | dsimp only | intro)
@[simp] theorem State.lockAll_pins (s : State) (which : Nat → KeyCtx → Bool) : (State.lockAll s which).pins = s.pins := State.lockAll_pins_of _ _ rfl

theorem State.lockAll_clk_of {v : Clock} (s : State) (which : Nat → KeyCtx → Bool) (hk : s.clk = v) : (State.lockAll s which).clk = v := by
  unfold State.lockAll; with_reducible repeat' (first | exact hk | assumption | apply State.lockCtx_clk_of | (apply foldl_same (f := State.clk); rotate_left; intros) | (apply foldl_fst_same (f := State.clk); rotate_left; intros) | (apply foldl_snd_same (f := State.clk); rotate_left; intros) | (fail_if_no_progress (refine Eq.trans State.mk_clk ?_)) | split | dsimp only | intro)
@[simp] theorem State.lockAll_clk (s : State) (which : Nat → KeyCtx → Bool) : (State.lockAll s which).clk = s.clk := State.lockAll_clk_of _ _ rfl

theorem State.engineFails_dev_of {v : Dev} (s : State) (e : Nat) (hk : s.dev = v) : (State.engineFails s e).dev = v := by
  unfold State.engineFails; with_reducible repeat' (first | exact hk | assumption | apply State.abortUnit_dev_of | refine Eq.trans (State.setEngine_dev ..) ?_ | (apply foldl_same (f := State.dev); rotate_left; intros) | (apply foldl_fst_same (f := State.dev); rotate_left; intros) | (apply foldl_snd_same (f := State.dev); rotate_left; intros) | (fail_if_no_progress (refine Eq.trans State.mk_dev ?_)) | split | dsimp only | intro)
@[simp] theorem State.engineFails_dev (s : State) (e : Nat) : (State.engineFails s e).dev = s.dev := State.engineFails_dev_of _ _ rfl

theorem State.engineFails_pins_of {v : Pins} (s : State) (e : Nat) (hk : s.pins = v) : (State.engineFails s e).pins = v := by
  unfold State.engineFails; with_reducible repeat' (first | exact hk | assumption | apply State.abortUnit_pins_of | refine Eq.trans (State.setEngine_pins ..) ?_ | (apply foldl_same (f := State.pins); rotate_left; intros) | (apply foldl_fst_same (f := State.pins); rotate_left; intros) | (apply foldl_snd_same (f := State.pins); rotate_left; intros) | (fail_if_no_progress (refine Eq.trans State.mk_pins ?_)) | split | dsimp only | intro)
@[simp] theorem State.engineFails_pins (s : State) (e : Nat) : (State.engineFails s e).pins = s.pins := State.engineFails_pins_of _ _ rfl

theorem State.engineFails_clk_of {v : Clock} (s : State) (e : Nat) (hk : s.clk = v) : (State.engineFails s e).clk = v := by
  unfold State.engineFails; with_reducible repeat' (first | exact hk | assumption | apply State.abortUnit_clk_of | refine Eq.trans (State.setEngine_clk ..) ?_ | (apply foldl_same (f := State.clk); rotate_left; intros) | (apply foldl_fst_same (f := State.clk); rotate_left; intros) | (apply foldl_snd_same (f := State.clk); rotate_left; intros) | (fail_if_no_progress (refine Eq.trans State.mk_clk ?_)) | split | dsimp only | intro)
@[simp] theorem State.engineFails_clk (s : State) (e : Nat) : (State.engineFails s e).clk = s.clk := State.engineFails_clk_of _ _ rfl

theorem State.setFunc_dev_of {v : Dev} (s : State) (l : Nat) (fn : Nat) (f : Func) (hk : s.dev = v) : (State.setFunc s l fn f).dev = v := by
  unfold State.setFunc; with_reducible repeat' (first | exact hk | assumption | refine Eq.trans (State.setHostLink_dev ..) ?_ | (apply foldl_same (f := State.dev); rotate_left; intros) | (apply foldl_fst_same (f := State.dev); rotate_left; intros) | (apply foldl_snd_same (f := State.dev); rotate_left; intros) | (fail_if_no_progress (refine Eq.trans State.mk_dev ?_)) | split | dsimp only | intro)
@[simp] theorem State.setFunc_dev (s : State) (l : Nat) (fn : Nat) (f : Func) : (State.setFunc s l fn f).dev = s.dev := State.setFunc_dev_of _ _ _ _ rfl

theorem State.setFunc_pins_of {v : Pins} (s : State) (l : Nat) (fn : Nat) (f : Func) (hk : s.pins = v) : (State.setFunc s l fn f).pins = v := by
  unfold State.setFunc; with_reducible repeat' (first | exact hk | assumption | refine Eq.trans (State.setHostLink_pins ..) ?_ | (apply foldl_same (f := State.pins); rotate_left; intros) | (apply foldl_fst_same (f := State.pins); rotate_left; intros) | (apply foldl_snd_same (f := State.pins); rotate_left; intros) | (fail_if_no_progress (refine Eq.trans State.mk_pins ?_)) | split | dsimp only | intro)
@[simp] theorem State.setFunc_pins (s : State) (l : Nat) (fn : Nat) (f : Func) : (State.setFunc s l fn f).pins = s.pins := State.setFunc_pins_of _ _ _ _ rfl

theorem State.setFunc_clk_of {v : Clock} (s : State) (l : Nat) (fn : Nat) (f : Func) (hk : s.clk = v) : (State.setFunc s l fn f).clk = v := by
  unfold State.setFunc; with_reducible repeat' (first | exact hk | assumption | refine Eq.trans (State.setHostLink_clk ..) ?_ | (apply foldl_same (f := State.clk); rotate_left; intros) | (apply foldl_fst_same (f := State.clk); rotate_left; intros) | (apply foldl_snd_same (f := State.clk); rotate_left; intros) | (fail_if_no_progress (refine Eq.trans State.mk_clk ?_)) | split | dsimp only | intro)
@[simp] theorem State.setFunc_clk (s : State) (l : Nat) (fn : Nat) (f : Func) : (State.setFunc s l fn f).clk = s.clk := State.setFunc_clk_of _ _ _ _ rfl

theorem State.toHost_dev_of {v : Dev} (s : State) (l : Nat) (o : HostOut) (hk : s.dev = v) : (State.toHost s l o).dev = v := by
  unfold State.toHost; with_reducible repeat' (first | exact hk | assumption | refine Eq.trans (State.emit_dev ..) ?_ | (apply foldl_same (f := State.dev); rotate_left; intros) | (apply foldl_fst_same (f := State.dev); rotate_left; intros) | (apply foldl_snd_same (f := State.dev); rotate_left; intros) | (fail_if_no_progress (refine Eq.trans State.mk_dev ?_)) | split | dsimp only | intro)
@[simp] theorem State.toHost_dev (s : State) (l : Nat) (o : HostOut) : (State.toHost s l o).dev = s.dev := State.toHost_dev_of _ _ _ rfl

theorem State.toHost_pins_of {v : Pins} (s : State) (l : Nat) (o : HostOut) (hk : s.pins = v) : (State.toHost s l o).pins = v := by
  unfold State.toHost; with_reducible repeat' (first | exact hk | assumption | refine Eq.trans (State.emit_pins ..) ?_ | (apply foldl_same (f := State.pins); rotate_left; intros) | (apply foldl_fst_same (f := State.pins); rotate_left; intros) | (apply foldl_snd_same (f := State.pins); rotate_left; intros) | (fail_if_no_progress (refine Eq.trans State.mk_pins ?_)) | split | dsimp only | intro)
@[simp] theorem State.toHost_pins (s : State) (l : Nat) (o : HostOut) : (State.toHost s l o).pins = s.pins := State.toHost_pins_of _ _ _ rfl

theorem State.toHost_clk_of {v : Clock} (s : State) (l : Nat) (o : HostOut) (hk : s.clk = v) : (State.toHost s l o).clk = v := by
  unfold State.toHost; with_reducible repeat' (first | exact hk | assumption | refine Eq.trans (State.emit_clk ..) ?_ | (apply foldl_same (f := State.clk); rotate_left; intros) | (apply foldl_fst_same (f := State.clk); rotate_left; intros) | (apply foldl_snd_same (f := State.clk); rotate_left; intros) | (fail_if_no_progress (refine Eq.trans State.mk_clk ?_)) | split | dsimp only | intro)
@[simp] theorem State.toHost_clk (s : State) (l : Nat) (o : HostOut) : (State.toHost s l o).clk = s.clk := State.toHost_clk_of _ _ _ rfl

theorem State.withdrawHeld_dev_of {v : Dev} (s : State) (l : Nat) (hk : s.dev = v) : (State.withdrawHeld s l).dev = v := by
  unfold State.withdrawHeld; with_reducible repeat' (first | exact hk | assumption | (apply foldl_same (f := State.dev); rotate_left; intros) | (apply foldl_fst_same (f := State.dev); rotate_left; intros) | (apply foldl_snd_same (f := State.dev); rotate_left; intros) | (fail_if_no_progress (refine Eq.trans State.mk_dev ?_)) | split | dsimp only | intro)
@[simp] theorem State.withdrawHeld_dev (s : State) (l : Nat) : (State.withdrawHeld s l).dev = s.dev := State.withdrawHeld_dev_of _ _ rfl

theorem State.withdrawHeld_pins_of {v : Pins} (s : State) (l : Nat) (hk : s.pins = v) : (State.withdrawHeld s l).pins = v := by
  unfold State.withdrawHeld; with_reducible repeat' (first | exact hk | assumption | (apply foldl_same (f := State.pins); rotate_left; intros) | (apply foldl_fst_same (f := State.pins); rotate_left; intros) | (apply foldl_snd_same (f := State.pins); rotate_left; intros) | (fail_if_no_progress (refine Eq.trans State.mk_pins ?_)) | split | dsimp only | intro)
@[simp] theorem State.withdrawHeld_pins (s : State) (l : Nat) : (State.withdrawHeld s l).pins = s.pins := State.withdrawHeld_pins_of _ _ rfl

theorem State.withdrawHeld_clk_of {v : Clock} (s : State) (l : Nat) (hk : s.clk = v) : (State.withdrawHeld s l).clk = v := by
  unfold State.withdrawHeld; with_reducible repeat' (first | exact hk | assumption | (apply foldl_same (f := State.clk); rotate_left; intros) | (apply foldl_fst_same (f := State.clk); rotate_left; intros) | (apply foldl_snd_same (f := State.clk); rotate_left; intros) | (fail_if_no_progress (refine Eq.trans State.mk_clk ?_)) | split | dsimp only | intro)
@[simp] theorem State.withdrawHeld_clk (s : State) (l : Nat) : (State.withdrawHeld s l).clk = s.clk := State.withdrawHeld_clk_of _ _ rfl

theorem State.dropHeld_dev_of {v : Dev} (s : State) (l : Nat) (hk : s.dev = v) : (State.dropHeld s l).dev = v := by
  unfold State.dropHeld; with_reducible repeat' (first | exact hk | assumption | (apply foldl_same (f := State.dev); rotate_left; intros) | (apply foldl_fst_same (f := State.dev); rotate_left; intros) | (apply foldl_snd_same (f := State.dev); rotate_left; intros) | (fail_if_no_progress (refine Eq.trans State.mk_dev ?_)) | split | dsimp only | intro)
@[simp] theorem State.dropHeld_dev (s : State) (l : Nat) : (State.dropHeld s l).dev = s.dev := State.dropHeld_dev_of _ _ rfl

theorem State.dropHeld_pins_of {v : Pins} (s : State) (l : Nat) (hk : s.pins = v) : (State.dropHeld s l).pins = v := by
  unfold State.dropHeld; with_reducible repeat' (first | exact hk | assumption | (apply foldl_same (f := State.pins); rotate_left; intros) | (apply foldl_fst_same (f := State.pins); rotate_left; intros) | (apply foldl_snd_same (f := State.pins); rotate_left; intros) | (fail_if_no_progress (refine Eq.trans State.mk_pins ?_)) | split | dsimp only | intro)
@[simp] theorem State.dropHeld_pins (s : State) (l : Nat) : (State.dropHeld s l).pins = s.pins := State.dropHeld_pins_of _ _ rfl

theorem State.dropHeld_clk_of {v : Clock} (s : State) (l : Nat) (hk : s.clk = v) : (State.dropHeld s l).clk = v := by
  unfold State.dropHeld; with_reducible repeat' (first | exact hk | assumption | (apply foldl_same (f := State.clk); rotate_left; intros) | (apply foldl_fst_same (f := State.clk); rotate_left; intros) | (apply foldl_snd_same (f := State.clk); rotate_left; intros) | (fail_if_no_progress (refine Eq.trans State.mk_clk ?_)) | split | dsimp only | intro)
@[simp] theorem State.dropHeld_clk (s : State) (l : Nat) : (State.dropHeld s l).clk = s.clk := State.dropHeld_clk_of _ _ rfl

theorem State.hostWrite_dev_of {v : Dev} (s : State) (l : Nat) (n : Nat) (gen : Nat) (addr : Nat) (data : List Byte) (payload : Bool) (hk : s.dev = v) : (State.hostWrite s l n gen addr data payload).dev = v := by
  unfold State.hostWrite; with_reducible repeat' (first | exact hk | assumption | refine Eq.trans (State.bump_dev ..) ?_ | apply State.toHost_dev_of | (apply foldl_same (f := State.dev); rotate_left; intros) | (apply foldl_fst_same (f := State.dev); rotate_left; intros) | (apply foldl_snd_same (f := State.dev); rotate_left; intros) | (fail_if_no_progress (refine Eq.trans State.mk_dev ?_)) | split | dsimp only | intro)
@[simp] theorem State.hostWrite_dev (s : State) (l : Nat) (n : Nat) (gen : Nat) (addr : Nat) (data : List Byte) (payload : Bool) : (State.hostWrite s l n gen addr data payload).dev = s.dev := State.hostWrite_dev_of _ _ _ _ _ _ _ rfl

theorem State.hostWrite_pins_of {v : Pins} (s : State) (l : Nat) (n : Nat) (gen : Nat) (addr : Nat) (data : List Byte) (payload : Bool) (hk : s.pins = v) : (State.hostWrite s l n gen addr data payload).pins = v := by
  unfold State.hostWrite; with_reducible repeat' (first | exact hk | assumption | refine Eq.trans (State.bump_pins ..) ?_ | apply State.toHost_pins_of | (apply foldl_same (f := State.pins); rotate_left; intros) | (apply foldl_fst_same (f := State.pins); rotate_left; intros) | (apply foldl_snd_same (f := State.pins); rotate_left; intros) | (fail_if_no_progress (refine Eq.trans State.mk_pins ?_)) | split | dsimp only | intro)
@[simp] theorem State.hostWrite_pins (s : State) (l : Nat) (n : Nat) (gen : Nat) (addr : Nat) (data : List Byte) (payload : Bool) : (State.hostWrite s l n gen addr data payload).pins = s.pins := State.hostWrite_pins_of _ _ _ _ _ _ _ rfl

theorem State.hostWrite_clk_of {v : Clock} (s : State) (l : Nat) (n : Nat) (gen : Nat) (addr : Nat) (data : List Byte) (payload : Bool) (hk : s.clk = v) : (State.hostWrite s l n gen addr data payload).clk = v := by
  unfold State.hostWrite; with_reducible repeat' (first | exact hk | assumption | refine Eq.trans (State.bump_clk ..) ?_ | apply State.toHost_clk_of | (apply foldl_same (f := State.clk); rotate_left; intros) | (apply foldl_fst_same (f := State.clk); rotate_left; intros) | (apply foldl_snd_same (f := State.clk); rotate_left; intros) | (fail_if_no_progress (refine Eq.trans State.mk_clk ?_)) | split | dsimp only | intro)
@[simp] theorem State.hostWrite_clk (s : State) (l : Nat) (n : Nat) (gen : Nat) (addr : Nat) (data : List Byte) (payload : Bool) : (State.hostWrite s l n gen addr data payload).clk = s.clk := State.hostWrite_clk_of _ _ _ _ _ _ _ rfl

theorem State.setRead_dev_of {v : Dev} (s : State) (h : Nat) (tag : Nat) (f : HostRead → HostRead) (hk : s.dev = v) : (State.setRead s h tag f).dev = v := by
  unfold State.setRead; with_reducible repeat' (first | exact hk | assumption | (apply foldl_same (f := State.dev); rotate_left; intros) | (apply foldl_fst_same (f := State.dev); rotate_left; intros) | (apply foldl_snd_same (f := State.dev); rotate_left; intros) | (fail_if_no_progress (refine Eq.trans State.mk_dev ?_)) | split | dsimp only | intro)
@[simp] theorem State.setRead_dev (s : State) (h : Nat) (tag : Nat) (f : HostRead → HostRead) : (State.setRead s h tag f).dev = s.dev := State.setRead_dev_of _ _ _ _ rfl

theorem State.setRead_pins_of {v : Pins} (s : State) (h : Nat) (tag : Nat) (f : HostRead → HostRead) (hk : s.pins = v) : (State.setRead s h tag f).pins = v := by
  unfold State.setRead; with_reducible repeat' (first | exact hk | assumption | (apply foldl_same (f := State.pins); rotate_left; intros) | (apply foldl_fst_same (f := State.pins); rotate_left; intros) | (apply foldl_snd_same (f := State.pins); rotate_left; intros) | (fail_if_no_progress (refine Eq.trans State.mk_pins ?_)) | split | dsimp only | intro)
@[simp] theorem State.setRead_pins (s : State) (h : Nat) (tag : Nat) (f : HostRead → HostRead) : (State.setRead s h tag f).pins = s.pins := State.setRead_pins_of _ _ _ _ rfl

theorem State.setRead_clk_of {v : Clock} (s : State) (h : Nat) (tag : Nat) (f : HostRead → HostRead) (hk : s.clk = v) : (State.setRead s h tag f).clk = v := by
  unfold State.setRead; with_reducible repeat' (first | exact hk | assumption | (apply foldl_same (f := State.clk); rotate_left; intros) | (apply foldl_fst_same (f := State.clk); rotate_left; intros) | (apply foldl_snd_same (f := State.clk); rotate_left; intros) | (fail_if_no_progress (refine Eq.trans State.mk_clk ?_)) | split | dsimp only | intro)
@[simp] theorem State.setRead_clk (s : State) (h : Nat) (tag : Nat) (f : HostRead → HostRead) : (State.setRead s h tag f).clk = s.clk := State.setRead_clk_of _ _ _ _ rfl

theorem State.failReads_dev_of {v : Dev} (s : State) (p : HostRead → Bool) (hk : s.dev = v) : (State.failReads s p).dev = v := by
  unfold State.failReads; with_reducible repeat' (first | exact hk | assumption | (apply foldl_same (f := State.dev); rotate_left; intros) | (apply foldl_fst_same (f := State.dev); rotate_left; intros) | (apply foldl_snd_same (f := State.dev); rotate_left; intros) | (fail_if_no_progress (refine Eq.trans State.mk_dev ?_)) | split | dsimp only | intro)
@[simp] theorem State.failReads_dev (s : State) (p : HostRead → Bool) : (State.failReads s p).dev = s.dev := State.failReads_dev_of _ _ rfl

theorem State.failReads_pins_of {v : Pins} (s : State) (p : HostRead → Bool) (hk : s.pins = v) : (State.failReads s p).pins = v := by
  unfold State.failReads; with_reducible repeat' (first | exact hk | assumption | (apply foldl_same (f := State.pins); rotate_left; intros) | (apply foldl_fst_same (f := State.pins); rotate_left; intros) | (apply foldl_snd_same (f := State.pins); rotate_left; intros) | (fail_if_no_progress (refine Eq.trans State.mk_pins ?_)) | split | dsimp only | intro)
@[simp] theorem State.failReads_pins (s : State) (p : HostRead → Bool) : (State.failReads s p).pins = s.pins := State.failReads_pins_of _ _ rfl

theorem State.failReads_clk_of {v : Clock} (s : State) (p : HostRead → Bool) (hk : s.clk = v) : (State.failReads s p).clk = v := by
  unfold State.failReads; with_reducible repeat' (first | exact hk | assumption | (apply foldl_same (f := State.clk); rotate_left; intros) | (apply foldl_fst_same (f := State.clk); rotate_left; intros) | (apply foldl_snd_same (f := State.clk); rotate_left; intros) | (fail_if_no_progress (refine Eq.trans State.mk_clk ?_)) | split | dsimp only | intro)
@[simp] theorem State.failReads_clk (s : State) (p : HostRead → Bool) : (State.failReads s p).clk = s.clk := State.failReads_clk_of _ _ rfl

theorem State.retireTag_dev_of {v : Dev} (s : State) (l : Nat) (tag : Nat) (hk : s.dev = v) : (State.retireTag s l tag).dev = v := by
  unfold State.retireTag; with_reducible repeat' (first | exact hk | assumption | apply State.setRead_dev_of | (apply foldl_same (f := State.dev); rotate_left; intros) | (apply foldl_fst_same (f := State.dev); rotate_left; intros) | (apply foldl_snd_same (f := State.dev); rotate_left; intros) | (fail_if_no_progress (refine Eq.trans State.mk_dev ?_)) | split | dsimp only | intro)
@[simp] theorem State.retireTag_dev (s : State) (l : Nat) (tag : Nat) : (State.retireTag s l tag).dev = s.dev := State.retireTag_dev_of _ _ _ rfl

theorem State.retireTag_pins_of {v : Pins} (s : State) (l : Nat) (tag : Nat) (hk : s.pins = v) : (State.retireTag s l tag).pins = v := by
  unfold State.retireTag; with_reducible repeat' (first | exact hk | assumption | apply State.setRead_pins_of | (apply foldl_same (f := State.pins); rotate_left; intros) | (apply foldl_fst_same (f := State.pins); rotate_left; intros) | (apply foldl_snd_same (f := State.pins); rotate_left; intros) | (fail_if_no_progress (refine Eq.trans State.mk_pins ?_)) | split | dsimp only | intro)
@[simp] theorem State.retireTag_pins (s : State) (l : Nat) (tag : Nat) : (State.retireTag s l tag).pins = s.pins := State.retireTag_pins_of _ _ _ rfl

theorem State.retireTag_clk_of {v : Clock} (s : State) (l : Nat) (tag : Nat) (hk : s.clk = v) : (State.retireTag s l tag).clk = v := by
  unfold State.retireTag; with_reducible repeat' (first | exact hk | assumption | apply State.setRead_clk_of | (apply foldl_same (f := State.clk); rotate_left; intros) | (apply foldl_fst_same (f := State.clk); rotate_left; intros) | (apply foldl_snd_same (f := State.clk); rotate_left; intros) | (fail_if_no_progress (refine Eq.trans State.mk_clk ?_)) | split | dsimp only | intro)
@[simp] theorem State.retireTag_clk (s : State) (l : Nat) (tag : Nat) : (State.retireTag s l tag).clk = s.clk := State.retireTag_clk_of _ _ _ rfl

theorem State.retireLink_dev_of {v : Dev} (s : State) (l : Nat) (hk : s.dev = v) : (State.retireLink s l).dev = v := by
  unfold State.retireLink; with_reducible repeat' (first | exact hk | assumption | apply State.failReads_dev_of | apply State.retireTag_dev_of | (apply foldl_same (f := State.dev); rotate_left; intros) | (apply foldl_fst_same (f := State.dev); rotate_left; intros) | (apply foldl_snd_same (f := State.dev); rotate_left; intros) | (fail_if_no_progress (refine Eq.trans State.mk_dev ?_)) | split | dsimp only | intro)
@[simp] theorem State.retireLink_dev (s : State) (l : Nat) : (State.retireLink s l).dev = s.dev := State.retireLink_dev_of _ _ rfl

theorem State.retireLink_pins_of {v : Pins} (s : State) (l : Nat) (hk : s.pins = v) : (State.retireLink s l).pins = v := by
  unfold State.retireLink; with_reducible repeat' (first | exact hk | assumption | apply State.failReads_pins_of | apply State.retireTag_pins_of | (apply foldl_same (f := State.pins); rotate_left; intros) | (apply foldl_fst_same (f := State.pins); rotate_left; intros) | (apply foldl_snd_same (f := State.pins); rotate_left; intros) | (fail_if_no_progress (refine Eq.trans State.mk_pins ?_)) | split | dsimp only | intro)
@[simp] theorem State.retireLink_pins (s : State) (l : Nat) : (State.retireLink s l).pins = s.pins := State.retireLink_pins_of _ _ rfl

theorem State.retireLink_clk_of {v : Clock} (s : State) (l : Nat) (hk : s.clk = v) : (State.retireLink s l).clk = v := by
  unfold State.retireLink; with_reducible repeat' (first | exact hk | assumption | apply State.failReads_clk_of | apply State.retireTag_clk_of | (apply foldl_same (f := State.clk); rotate_left; intros) | (apply foldl_fst_same (f := State.clk); rotate_left; intros) | (apply foldl_snd_same (f := State.clk); rotate_left; intros) | (fail_if_no_progress (refine Eq.trans State.mk_clk ?_)) | split | dsimp only | intro)
@[simp] theorem State.retireLink_clk (s : State) (l : Nat) : (State.retireLink s l).clk = s.clk := State.retireLink_clk_of _ _ rfl

theorem State.advance_dev_of {v : Dev} (s : State) (n : Nat) (hk : s.dev = v) : (State.advance s n).dev = v := by
  unfold State.advance; with_reducible repeat' (first | exact hk | assumption | refine Eq.trans (State.setFld_dev ..) ?_ | (apply foldl_same (f := State.dev); rotate_left; intros) | (apply foldl_fst_same (f := State.dev); rotate_left; intros) | (apply foldl_snd_same (f := State.dev); rotate_left; intros) | (fail_if_no_progress (refine Eq.trans State.mk_dev ?_)) | split | dsimp only | intro)
@[simp] theorem State.advance_dev (s : State) (n : Nat) : (State.advance s n).dev = s.dev := State.advance_dev_of _ _ rfl

theorem State.advance_pins_of {v : Pins} (s : State) (n : Nat) (hk : s.pins = v) : (State.advance s n).pins = v := by
  unfold State.advance; with_reducible repeat' (first | exact hk | assumption | refine Eq.trans (State.setFld_pins ..) ?_ | (apply foldl_same (f := State.pins); rotate_left; intros) | (apply foldl_fst_same (f := State.pins); rotate_left; intros) | (apply foldl_snd_same (f := State.pins); rotate_left; intros) | (fail_if_no_progress (refine Eq.trans State.mk_pins ?_)) | split | dsimp only | intro)
@[simp] theorem State.advance_pins (s : State) (n : Nat) : (State.advance s n).pins = s.pins := State.advance_pins_of _ _ rfl

theorem State.advance_clk_of {v : Clock} (s : State) (n : Nat) (hk : s.clk = v) : (State.advance s n).clk = v := by
  unfold State.advance; with_reducible repeat' (first | exact hk | assumption | refine Eq.trans (State.setFld_clk ..) ?_ | (apply foldl_same (f := State.clk); rotate_left; intros) | (apply foldl_fst_same (f := State.clk); rotate_left; intros) | (apply foldl_snd_same (f := State.clk); rotate_left; intros) | (fail_if_no_progress (refine Eq.trans State.mk_clk ?_)) | split | dsimp only | intro)
@[simp] theorem State.advance_clk (s : State) (n : Nat) : (State.advance s n).clk = s.clk := State.advance_clk_of _ _ rfl

theorem State.setTunState_dev_of {v : Dev} (s : State) (c : Nat) (n : Nat) (hk : s.dev = v) : (State.setTunState s c n).dev = v := by
  unfold State.setTunState; with_reducible repeat' (first | exact hk | assumption | refine Eq.trans (State.setTun_dev ..) ?_ | (apply foldl_same (f := State.dev); rotate_left; intros) | (apply foldl_fst_same (f := State.dev); rotate_left; intros) | (apply foldl_snd_same (f := State.dev); rotate_left; intros) | (fail_if_no_progress (refine Eq.trans State.mk_dev ?_)) | split | dsimp only | intro)
@[simp] theorem State.setTunState_dev (s : State) (c : Nat) (n : Nat) : (State.setTunState s c n).dev = s.dev := State.setTunState_dev_of _ _ _ rfl

theorem State.setTunState_pins_of {v : Pins} (s : State) (c : Nat) (n : Nat) (hk : s.pins = v) : (State.setTunState s c n).pins = v := by
  unfold State.setTunState; with_reducible repeat' (first | exact hk | assumption | refine Eq.trans (State.setTun_pins ..) ?_ | (apply foldl_same (f := State.pins); rotate_left; intros) | (apply foldl_fst_same (f := State.pins); rotate_left; intros) | (apply foldl_snd_same (f := State.pins); rotate_left; intros) | (fail_if_no_progress (refine Eq.trans State.mk_pins ?_)) | split | dsimp only | intro)
@[simp] theorem State.setTunState_pins (s : State) (c : Nat) (n : Nat) : (State.setTunState s c n).pins = s.pins := State.setTunState_pins_of _ _ _ rfl

theorem State.setTunState_clk_of {v : Clock} (s : State) (c : Nat) (n : Nat) (hk : s.clk = v) : (State.setTunState s c n).clk = v := by
  unfold State.setTunState; with_reducible repeat' (first | exact hk | assumption | refine Eq.trans (State.setTun_clk ..) ?_ | (apply foldl_same (f := State.clk); rotate_left; intros) | (apply foldl_fst_same (f := State.clk); rotate_left; intros) | (apply foldl_snd_same (f := State.clk); rotate_left; intros) | (fail_if_no_progress (refine Eq.trans State.mk_clk ?_)) | split | dsimp only | intro)
@[simp] theorem State.setTunState_clk (s : State) (c : Nat) (n : Nat) : (State.setTunState s c n).clk = s.clk := State.setTunState_clk_of _ _ _ rfl

theorem State.setTunSeq_dev_of {v : Dev} (s : State) (c : Nat) (n : Nat) (hk : s.dev = v) : (State.setTunSeq s c n).dev = v := by
  unfold State.setTunSeq; with_reducible repeat' (first | exact hk | assumption | refine Eq.trans (State.setTun_dev ..) ?_ | (apply foldl_same (f := State.dev); rotate_left; intros) | (apply foldl_fst_same (f := State.dev); rotate_left; intros) | (apply foldl_snd_same (f := State.dev); rotate_left; intros) | (fail_if_no_progress (refine Eq.trans State.mk_dev ?_)) | split | dsimp only | intro)
@[simp] theorem State.setTunSeq_dev (s : State) (c : Nat) (n : Nat) : (State.setTunSeq s c n).dev = s.dev := State.setTunSeq_dev_of _ _ _ rfl

theorem State.setTunSeq_pins_of {v : Pins} (s : State) (c : Nat) (n : Nat) (hk : s.pins = v) : (State.setTunSeq s c n).pins = v := by
  unfold State.setTunSeq; with_reducible repeat' (first | exact hk | assumption | refine Eq.trans (State.setTun_pins ..) ?_ | (apply foldl_same (f := State.pins); rotate_left; intros) | (apply foldl_fst_same (f := State.pins); rotate_left; intros) | (apply foldl_snd_same (f := State.pins); rotate_left; intros) | (fail_if_no_progress (refine Eq.trans State.mk_pins ?_)) | split | dsimp only | intro)
@[simp] theorem State.setTunSeq_pins (s : State) (c : Nat) (n : Nat) : (State.setTunSeq s c n).pins = s.pins := State.setTunSeq_pins_of _ _ _ rfl

theorem State.setTunSeq_clk_of {v : Clock} (s : State) (c : Nat) (n : Nat) (hk : s.clk = v) : (State.setTunSeq s c n).clk = v := by
  unfold State.setTunSeq; with_reducible repeat' (first | exact hk | assumption | refine Eq.trans (State.setTun_clk ..) ?_ | (apply foldl_same (f := State.clk); rotate_left; intros) | (apply foldl_fst_same (f := State.clk); rotate_left; intros) | (apply foldl_snd_same (f := State.clk); rotate_left; intros) | (fail_if_no_progress (refine Eq.trans State.mk_clk ?_)) | split | dsimp only | intro)
@[simp] theorem State.setTunSeq_clk (s : State) (c : Nat) (n : Nat) : (State.setTunSeq s c n).clk = s.clk := State.setTunSeq_clk_of _ _ _ rfl

theorem State.oflEvent_dev_of {v : Dev} (s : State) (kind : Nat) (index : Nat) (cause : Nat) (hk : s.dev = v) : (State.oflEvent s kind index cause).dev = v := by
  unfold State.oflEvent; with_reducible repeat' (first | exact hk | assumption | refine Eq.trans (State.cpcEvent_dev ..) ?_ | refine Eq.trans (State.bump_dev ..) ?_ | (apply foldl_same (f := State.dev); rotate_left; intros) | (apply foldl_fst_same (f := State.dev); rotate_left; intros) | (apply foldl_snd_same (f := State.dev); rotate_left; intros) | (fail_if_no_progress (refine Eq.trans State.mk_dev ?_)) | split | dsimp only | intro)
@[simp] theorem State.oflEvent_dev (s : State) (kind : Nat) (index : Nat) (cause : Nat) : (State.oflEvent s kind index cause).dev = s.dev := State.oflEvent_dev_of _ _ _ _ rfl

theorem State.oflEvent_pins_of {v : Pins} (s : State) (kind : Nat) (index : Nat) (cause : Nat) (hk : s.pins = v) : (State.oflEvent s kind index cause).pins = v := by
  unfold State.oflEvent; with_reducible repeat' (first | exact hk | assumption | refine Eq.trans (State.cpcEvent_pins ..) ?_ | refine Eq.trans (State.bump_pins ..) ?_ | (apply foldl_same (f := State.pins); rotate_left; intros) | (apply foldl_fst_same (f := State.pins); rotate_left; intros) | (apply foldl_snd_same (f := State.pins); rotate_left; intros) | (fail_if_no_progress (refine Eq.trans State.mk_pins ?_)) | split | dsimp only | intro)
@[simp] theorem State.oflEvent_pins (s : State) (kind : Nat) (index : Nat) (cause : Nat) : (State.oflEvent s kind index cause).pins = s.pins := State.oflEvent_pins_of _ _ _ _ rfl

theorem State.oflEvent_clk_of {v : Clock} (s : State) (kind : Nat) (index : Nat) (cause : Nat) (hk : s.clk = v) : (State.oflEvent s kind index cause).clk = v := by
  unfold State.oflEvent; with_reducible repeat' (first | exact hk | assumption | refine Eq.trans (State.cpcEvent_clk ..) ?_ | refine Eq.trans (State.bump_clk ..) ?_ | (apply foldl_same (f := State.clk); rotate_left; intros) | (apply foldl_fst_same (f := State.clk); rotate_left; intros) | (apply foldl_snd_same (f := State.clk); rotate_left; intros) | (fail_if_no_progress (refine Eq.trans State.mk_clk ?_)) | split | dsimp only | intro)
@[simp] theorem State.oflEvent_clk (s : State) (kind : Nat) (index : Nat) (cause : Nat) : (State.oflEvent s kind index cause).clk = s.clk := State.oflEvent_clk_of _ _ _ _ rfl

theorem State.reenter_dev_of {v : Dev} (s : State) (x : Frame) (port : Nat) (octets : List Byte) (bad : Bool) (csum : BitVec 8) (hk : s.dev = v) : (State.reenter s x port octets bad csum).dev = v := by
  unfold State.reenter; with_reducible repeat' (first | exact hk | assumption | apply State.newFrame_dev_of | refine Eq.trans (State.emit_dev ..) ?_ | (apply foldl_same (f := State.dev); rotate_left; intros) | (apply foldl_fst_same (f := State.dev); rotate_left; intros) | (apply foldl_snd_same (f := State.dev); rotate_left; intros) | (fail_if_no_progress (refine Eq.trans State.mk_dev ?_)) | split | dsimp only | intro)
@[simp] theorem State.reenter_dev (s : State) (x : Frame) (port : Nat) (octets : List Byte) (bad : Bool) (csum : BitVec 8) : (State.reenter s x port octets bad csum).dev = s.dev := State.reenter_dev_of _ _ _ _ _ _ rfl

theorem State.reenter_pins_of {v : Pins} (s : State) (x : Frame) (port : Nat) (octets : List Byte) (bad : Bool) (csum : BitVec 8) (hk : s.pins = v) : (State.reenter s x port octets bad csum).pins = v := by
  unfold State.reenter; with_reducible repeat' (first | exact hk | assumption | apply State.newFrame_pins_of | refine Eq.trans (State.emit_pins ..) ?_ | (apply foldl_same (f := State.pins); rotate_left; intros) | (apply foldl_fst_same (f := State.pins); rotate_left; intros) | (apply foldl_snd_same (f := State.pins); rotate_left; intros) | (fail_if_no_progress (refine Eq.trans State.mk_pins ?_)) | split | dsimp only | intro)
@[simp] theorem State.reenter_pins (s : State) (x : Frame) (port : Nat) (octets : List Byte) (bad : Bool) (csum : BitVec 8) : (State.reenter s x port octets bad csum).pins = s.pins := State.reenter_pins_of _ _ _ _ _ _ rfl

theorem State.reenter_clk_of {v : Clock} (s : State) (x : Frame) (port : Nat) (octets : List Byte) (bad : Bool) (csum : BitVec 8) (hk : s.clk = v) : (State.reenter s x port octets bad csum).clk = v := by
  unfold State.reenter; with_reducible repeat' (first | exact hk | assumption | apply State.newFrame_clk_of | refine Eq.trans (State.emit_clk ..) ?_ | (apply foldl_same (f := State.clk); rotate_left; intros) | (apply foldl_fst_same (f := State.clk); rotate_left; intros) | (apply foldl_snd_same (f := State.clk); rotate_left; intros) | (fail_if_no_progress (refine Eq.trans State.mk_clk ?_)) | split | dsimp only | intro)
@[simp] theorem State.reenter_clk (s : State) (x : Frame) (port : Nat) (octets : List Byte) (bad : Bool) (csum : BitVec 8) : (State.reenter s x port octets bad csum).clk = s.clk := State.reenter_clk_of _ _ _ _ _ _ rfl

theorem State.roll_dev_of {v : Dev} (s : State) (c : Nat) (hard : Bool) (hk : s.dev = v) : (State.roll s c hard).2.dev = v := by
  unfold State.roll; with_reducible repeat' (first | exact hk | assumption | apply State.setTunState_dev_of | refine Eq.trans (State.bump_dev ..) ?_ | apply State.oflEvent_dev_of | (apply foldl_same (f := State.dev); rotate_left; intros) | (apply foldl_fst_same (f := State.dev); rotate_left; intros) | (apply foldl_snd_same (f := State.dev); rotate_left; intros) | (fail_if_no_progress (refine Eq.trans State.mk_dev ?_)) | split | dsimp only | intro)
@[simp] theorem State.roll_dev (s : State) (c : Nat) (hard : Bool) : (State.roll s c hard).2.dev = s.dev := State.roll_dev_of _ _ _ rfl

theorem State.roll_pins_of {v : Pins} (s : State) (c : Nat) (hard : Bool) (hk : s.pins = v) : (State.roll s c hard).2.pins = v := by
  unfold State.roll; with_reducible repeat' (first | exact hk | assumption | apply State.setTunState_pins_of | refine Eq.trans (State.bump_pins ..) ?_ | apply State.oflEvent_pins_of | (apply foldl_same (f := State.pins); rotate_left; intros) | (apply foldl_fst_same (f := State.pins); rotate_left; intros) | (apply foldl_snd_same (f := State.pins); rotate_left; intros) | (fail_if_no_progress (refine Eq.trans State.mk_pins ?_)) | split | dsimp only | intro)
@[simp] theorem State.roll_pins (s : State) (c : Nat) (hard : Bool) : (State.roll s c hard).2.pins = s.pins := State.roll_pins_of _ _ _ rfl

theorem State.roll_clk_of {v : Clock} (s : State) (c : Nat) (hard : Bool) (hk : s.clk = v) : (State.roll s c hard).2.clk = v := by
  unfold State.roll; with_reducible repeat' (first | exact hk | assumption | apply State.setTunState_clk_of | refine Eq.trans (State.bump_clk ..) ?_ | apply State.oflEvent_clk_of | (apply foldl_same (f := State.clk); rotate_left; intros) | (apply foldl_fst_same (f := State.clk); rotate_left; intros) | (apply foldl_snd_same (f := State.clk); rotate_left; intros) | (fail_if_no_progress (refine Eq.trans State.mk_clk ?_)) | split | dsimp only | intro)
@[simp] theorem State.roll_clk (s : State) (c : Nat) (hard : Bool) : (State.roll s c hard).2.clk = s.clk := State.roll_clk_of _ _ _ rfl

theorem State.espOut_dev_of {v : Dev} (s : State) (x : Frame) (c : Nat) (port : Nat) (hk : s.dev = v) : (State.espOut s x c port).dev = v := by
  unfold State.espOut; with_reducible repeat' (first | exact hk | assumption | refine Eq.trans (State.bump_dev ..) ?_ | refine Eq.trans (State.drew_dev ..) ?_ | apply State.roll_dev_of | apply State.setTunSeq_dev_of | apply State.submitCipher_dev_of | (apply foldl_same (f := State.dev); rotate_left; intros) | (apply foldl_fst_same (f := State.dev); rotate_left; intros) | (apply foldl_snd_same (f := State.dev); rotate_left; intros) | (fail_if_no_progress (refine Eq.trans State.mk_dev ?_)) | split | dsimp only | intro)
@[simp] theorem State.espOut_dev (s : State) (x : Frame) (c : Nat) (port : Nat) : (State.espOut s x c port).dev = s.dev := State.espOut_dev_of _ _ _ _ rfl

theorem State.espOut_pins_of {v : Pins} (s : State) (x : Frame) (c : Nat) (port : Nat) (hk : s.pins = v) : (State.espOut s x c port).pins = v := by
  unfold State.espOut; with_reducible repeat' (first | exact hk | assumption | refine Eq.trans (State.bump_pins ..) ?_ | refine Eq.trans (State.drew_pins ..) ?_ | apply State.roll_pins_of | apply State.setTunSeq_pins_of | apply State.submitCipher_pins_of | (apply foldl_same (f := State.pins); rotate_left; intros) | (apply foldl_fst_same (f := State.pins); rotate_left; intros) | (apply foldl_snd_same (f := State.pins); rotate_left; intros) | (fail_if_no_progress (refine Eq.trans State.mk_pins ?_)) | split | dsimp only | intro)
@[simp] theorem State.espOut_pins (s : State) (x : Frame) (c : Nat) (port : Nat) : (State.espOut s x c port).pins = s.pins := State.espOut_pins_of _ _ _ _ rfl

theorem State.espOut_clk_of {v : Clock} (s : State) (x : Frame) (c : Nat) (port : Nat) (hk : s.clk = v) : (State.espOut s x c port).clk = v := by
  unfold State.espOut; with_reducible repeat' (first | exact hk | assumption | refine Eq.trans (State.bump_clk ..) ?_ | refine Eq.trans (State.drew_clk ..) ?_ | apply State.roll_clk_of | apply State.setTunSeq_clk_of | apply State.submitCipher_clk_of | (apply foldl_same (f := State.clk); rotate_left; intros) | (apply foldl_fst_same (f := State.clk); rotate_left; intros) | (apply foldl_snd_same (f := State.clk); rotate_left; intros) | (fail_if_no_progress (refine Eq.trans State.mk_clk ?_)) | split | dsimp only | intro)
@[simp] theorem State.espOut_clk (s : State) (x : Frame) (c : Nat) (port : Nat) : (State.espOut s x c port).clk = s.clk := State.espOut_clk_of _ _ _ _ rfl

theorem State.espOutDone_dev_of {v : Dev} (s : State) (j : TunnelJob) (r : CipherResult) (hk : s.dev = v) : (State.espOutDone s j r).dev = v := by
  unfold State.espOutDone; with_reducible repeat' (first | exact hk | assumption | apply State.reenter_dev_of | apply State.roll_dev_of | apply State.espOut_dev_of | refine Eq.trans (State.bump_dev ..) ?_ | (apply foldl_same (f := State.dev); rotate_left; intros) | (apply foldl_fst_same (f := State.dev); rotate_left; intros) | (apply foldl_snd_same (f := State.dev); rotate_left; intros) | (fail_if_no_progress (refine Eq.trans State.mk_dev ?_)) | split | dsimp only | intro)
@[simp] theorem State.espOutDone_dev (s : State) (j : TunnelJob) (r : CipherResult) : (State.espOutDone s j r).dev = s.dev := State.espOutDone_dev_of _ _ _ rfl

theorem State.espOutDone_pins_of {v : Pins} (s : State) (j : TunnelJob) (r : CipherResult) (hk : s.pins = v) : (State.espOutDone s j r).pins = v := by
  unfold State.espOutDone; with_reducible repeat' (first | exact hk | assumption | apply State.reenter_pins_of | apply State.roll_pins_of | apply State.espOut_pins_of | refine Eq.trans (State.bump_pins ..) ?_ | (apply foldl_same (f := State.pins); rotate_left; intros) | (apply foldl_fst_same (f := State.pins); rotate_left; intros) | (apply foldl_snd_same (f := State.pins); rotate_left; intros) | (fail_if_no_progress (refine Eq.trans State.mk_pins ?_)) | split | dsimp only | intro)
@[simp] theorem State.espOutDone_pins (s : State) (j : TunnelJob) (r : CipherResult) : (State.espOutDone s j r).pins = s.pins := State.espOutDone_pins_of _ _ _ rfl

theorem State.espOutDone_clk_of {v : Clock} (s : State) (j : TunnelJob) (r : CipherResult) (hk : s.clk = v) : (State.espOutDone s j r).clk = v := by
  unfold State.espOutDone; with_reducible repeat' (first | exact hk | assumption | apply State.reenter_clk_of | apply State.roll_clk_of | apply State.espOut_clk_of | refine Eq.trans (State.bump_clk ..) ?_ | (apply foldl_same (f := State.clk); rotate_left; intros) | (apply foldl_fst_same (f := State.clk); rotate_left; intros) | (apply foldl_snd_same (f := State.clk); rotate_left; intros) | (fail_if_no_progress (refine Eq.trans State.mk_clk ?_)) | split | dsimp only | intro)
@[simp] theorem State.espOutDone_clk (s : State) (j : TunnelJob) (r : CipherResult) : (State.espOutDone s j r).clk = s.clk := State.espOutDone_clk_of _ _ _ rfl

theorem State.settleTunnel_dev_of {v : Dev} (s : State) (hk : s.dev = v) : (State.settleTunnel s).dev = v := by
  unfold State.settleTunnel; with_reducible repeat' (first | exact hk | assumption | apply State.espOutDone_dev_of | (apply foldl_same (f := State.dev); rotate_left; intros) | (apply foldl_fst_same (f := State.dev); rotate_left; intros) | (apply foldl_snd_same (f := State.dev); rotate_left; intros) | (fail_if_no_progress (refine Eq.trans State.mk_dev ?_)) | split | dsimp only | intro)
@[simp] theorem State.settleTunnel_dev (s : State) : (State.settleTunnel s).dev = s.dev := State.settleTunnel_dev_of _ rfl

theorem State.settleTunnel_pins_of {v : Pins} (s : State) (hk : s.pins = v) : (State.settleTunnel s).pins = v := by
  unfold State.settleTunnel; with_reducible repeat' (first | exact hk | assumption | apply State.espOutDone_pins_of | (apply foldl_same (f := State.pins); rotate_left; intros) | (apply foldl_fst_same (f := State.pins); rotate_left; intros) | (apply foldl_snd_same (f := State.pins); rotate_left; intros) | (fail_if_no_progress (refine Eq.trans State.mk_pins ?_)) | split | dsimp only | intro)
@[simp] theorem State.settleTunnel_pins (s : State) : (State.settleTunnel s).pins = s.pins := State.settleTunnel_pins_of _ rfl

theorem State.settleTunnel_clk_of {v : Clock} (s : State) (hk : s.clk = v) : (State.settleTunnel s).clk = v := by
  unfold State.settleTunnel; with_reducible repeat' (first | exact hk | assumption | apply State.espOutDone_clk_of | (apply foldl_same (f := State.clk); rotate_left; intros) | (apply foldl_fst_same (f := State.clk); rotate_left; intros) | (apply foldl_snd_same (f := State.clk); rotate_left; intros) | (fail_if_no_progress (refine Eq.trans State.mk_clk ?_)) | split | dsimp only | intro)
@[simp] theorem State.settleTunnel_clk (s : State) : (State.settleTunnel s).clk = s.clk := State.settleTunnel_clk_of _ rfl

theorem State.addReady_dev_of {v : Dev} (s : State) (g : Nat) (life : Nat) (c : Cpl) (hk : s.dev = v) : (State.addReady s g life c).dev = v := by
  unfold State.addReady; with_reducible repeat' (first | exact hk | assumption | refine Eq.trans (State.setQueue_dev ..) ?_ | (apply foldl_same (f := State.dev); rotate_left; intros) | (apply foldl_fst_same (f := State.dev); rotate_left; intros) | (apply foldl_snd_same (f := State.dev); rotate_left; intros) | (fail_if_no_progress (refine Eq.trans State.mk_dev ?_)) | split | dsimp only | intro)
@[simp] theorem State.addReady_dev (s : State) (g : Nat) (life : Nat) (c : Cpl) : (State.addReady s g life c).dev = s.dev := State.addReady_dev_of _ _ _ _ rfl

theorem State.addReady_pins_of {v : Pins} (s : State) (g : Nat) (life : Nat) (c : Cpl) (hk : s.pins = v) : (State.addReady s g life c).pins = v := by
  unfold State.addReady; with_reducible repeat' (first | exact hk | assumption | refine Eq.trans (State.setQueue_pins ..) ?_ | (apply foldl_same (f := State.pins); rotate_left; intros) | (apply foldl_fst_same (f := State.pins); rotate_left; intros) | (apply foldl_snd_same (f := State.pins); rotate_left; intros) | (fail_if_no_progress (refine Eq.trans State.mk_pins ?_)) | split | dsimp only | intro)
@[simp] theorem State.addReady_pins (s : State) (g : Nat) (life : Nat) (c : Cpl) : (State.addReady s g life c).pins = s.pins := State.addReady_pins_of _ _ _ _ rfl

theorem State.addReady_clk_of {v : Clock} (s : State) (g : Nat) (life : Nat) (c : Cpl) (hk : s.clk = v) : (State.addReady s g life c).clk = v := by
  unfold State.addReady; with_reducible repeat' (first | exact hk | assumption | refine Eq.trans (State.setQueue_clk ..) ?_ | (apply foldl_same (f := State.clk); rotate_left; intros) | (apply foldl_fst_same (f := State.clk); rotate_left; intros) | (apply foldl_snd_same (f := State.clk); rotate_left; intros) | (fail_if_no_progress (refine Eq.trans State.mk_clk ?_)) | split | dsimp only | intro)
@[simp] theorem State.addReady_clk (s : State) (g : Nat) (life : Nat) (c : Cpl) : (State.addReady s g life c).clk = s.clk := State.addReady_clk_of _ _ _ _ rfl

theorem State.cutFetches_dev_of {v : Dev} (s : State) (g : Nat) (keep : Nat) (hk : s.dev = v) : (State.cutFetches s g keep).dev = v := by
  unfold State.cutFetches; with_reducible repeat' (first | exact hk | assumption | refine Eq.trans (State.setQueue_dev ..) ?_ | (apply foldl_same (f := State.dev); rotate_left; intros) | (apply foldl_fst_same (f := State.dev); rotate_left; intros) | (apply foldl_snd_same (f := State.dev); rotate_left; intros) | (fail_if_no_progress (refine Eq.trans State.mk_dev ?_)) | split | dsimp only | intro)
@[simp] theorem State.cutFetches_dev (s : State) (g : Nat) (keep : Nat) : (State.cutFetches s g keep).dev = s.dev := State.cutFetches_dev_of _ _ _ rfl

theorem State.cutFetches_pins_of {v : Pins} (s : State) (g : Nat) (keep : Nat) (hk : s.pins = v) : (State.cutFetches s g keep).pins = v := by
  unfold State.cutFetches; with_reducible repeat' (first | exact hk | assumption | refine Eq.trans (State.setQueue_pins ..) ?_ | (apply foldl_same (f := State.pins); rotate_left; intros) | (apply foldl_fst_same (f := State.pins); rotate_left; intros) | (apply foldl_snd_same (f := State.pins); rotate_left; intros) | (fail_if_no_progress (refine Eq.trans State.mk_pins ?_)) | split | dsimp only | intro)
@[simp] theorem State.cutFetches_pins (s : State) (g : Nat) (keep : Nat) : (State.cutFetches s g keep).pins = s.pins := State.cutFetches_pins_of _ _ _ rfl

theorem State.cutFetches_clk_of {v : Clock} (s : State) (g : Nat) (keep : Nat) (hk : s.clk = v) : (State.cutFetches s g keep).clk = v := by
  unfold State.cutFetches; with_reducible repeat' (first | exact hk | assumption | refine Eq.trans (State.setQueue_clk ..) ?_ | (apply foldl_same (f := State.clk); rotate_left; intros) | (apply foldl_fst_same (f := State.clk); rotate_left; intros) | (apply foldl_snd_same (f := State.clk); rotate_left; intros) | (fail_if_no_progress (refine Eq.trans State.mk_clk ?_)) | split | dsimp only | intro)
@[simp] theorem State.cutFetches_clk (s : State) (g : Nat) (keep : Nat) : (State.cutFetches s g keep).clk = s.clk := State.cutFetches_clk_of _ _ _ rfl

theorem State.forgetJobs_dev_of {v : Dev} (s : State) (g : Nat) (hk : s.dev = v) : (State.forgetJobs s g).dev = v := by
  unfold State.forgetJobs; with_reducible repeat' (first | exact hk | assumption | (apply foldl_same (f := State.dev); rotate_left; intros) | (apply foldl_fst_same (f := State.dev); rotate_left; intros) | (apply foldl_snd_same (f := State.dev); rotate_left; intros) | (fail_if_no_progress (refine Eq.trans State.mk_dev ?_)) | split | dsimp only | intro)
@[simp] theorem State.forgetJobs_dev (s : State) (g : Nat) : (State.forgetJobs s g).dev = s.dev := State.forgetJobs_dev_of _ _ rfl

theorem State.forgetJobs_pins_of {v : Pins} (s : State) (g : Nat) (hk : s.pins = v) : (State.forgetJobs s g).pins = v := by
  unfold State.forgetJobs; with_reducible repeat' (first | exact hk | assumption | (apply foldl_same (f := State.pins); rotate_left; intros) | (apply foldl_fst_same (f := State.pins); rotate_left; intros) | (apply foldl_snd_same (f := State.pins); rotate_left; intros) | (fail_if_no_progress (refine Eq.trans State.mk_pins ?_)) | split | dsimp only | intro)
@[simp] theorem State.forgetJobs_pins (s : State) (g : Nat) : (State.forgetJobs s g).pins = s.pins := State.forgetJobs_pins_of _ _ rfl

theorem State.forgetJobs_clk_of {v : Clock} (s : State) (g : Nat) (hk : s.clk = v) : (State.forgetJobs s g).clk = v := by
  unfold State.forgetJobs; with_reducible repeat' (first | exact hk | assumption | (apply foldl_same (f := State.clk); rotate_left; intros) | (apply foldl_fst_same (f := State.clk); rotate_left; intros) | (apply foldl_snd_same (f := State.clk); rotate_left; intros) | (fail_if_no_progress (refine Eq.trans State.mk_clk ?_)) | split | dsimp only | intro)
@[simp] theorem State.forgetJobs_clk (s : State) (g : Nat) : (State.forgetJobs s g).clk = s.clk := State.forgetJobs_clk_of _ _ rfl

theorem State.queueDrop_dev_of {v : Dev} (s : State) (g : Nat) (n : Nat) (hk : s.dev = v) : (State.queueDrop s g n).dev = v := by
  unfold State.queueDrop; with_reducible repeat' (first | exact hk | assumption | apply State.cutFetches_dev_of | refine Eq.trans (State.bumpBy_dev ..) ?_ | refine Eq.trans (State.setQueue_dev ..) ?_ | (apply foldl_same (f := State.dev); rotate_left; intros) | (apply foldl_fst_same (f := State.dev); rotate_left; intros) | (apply foldl_snd_same (f := State.dev); rotate_left; intros) | (fail_if_no_progress (refine Eq.trans State.mk_dev ?_)) | split | dsimp only | intro)
@[simp] theorem State.queueDrop_dev (s : State) (g : Nat) (n : Nat) : (State.queueDrop s g n).dev = s.dev := State.queueDrop_dev_of _ _ _ rfl

theorem State.queueDrop_pins_of {v : Pins} (s : State) (g : Nat) (n : Nat) (hk : s.pins = v) : (State.queueDrop s g n).pins = v := by
  unfold State.queueDrop; with_reducible repeat' (first | exact hk | assumption | apply State.cutFetches_pins_of | refine Eq.trans (State.bumpBy_pins ..) ?_ | refine Eq.trans (State.setQueue_pins ..) ?_ | (apply foldl_same (f := State.pins); rotate_left; intros) | (apply foldl_fst_same (f := State.pins); rotate_left; intros) | (apply foldl_snd_same (f := State.pins); rotate_left; intros) | (fail_if_no_progress (refine Eq.trans State.mk_pins ?_)) | split | dsimp only | intro)
@[simp] theorem State.queueDrop_pins (s : State) (g : Nat) (n : Nat) : (State.queueDrop s g n).pins = s.pins := State.queueDrop_pins_of _ _ _ rfl

theorem State.queueDrop_clk_of {v : Clock} (s : State) (g : Nat) (n : Nat) (hk : s.clk = v) : (State.queueDrop s g n).clk = v := by
  unfold State.queueDrop; with_reducible repeat' (first | exact hk | assumption | apply State.cutFetches_clk_of | refine Eq.trans (State.bumpBy_clk ..) ?_ | refine Eq.trans (State.setQueue_clk ..) ?_ | (apply foldl_same (f := State.clk); rotate_left; intros) | (apply foldl_fst_same (f := State.clk); rotate_left; intros) | (apply foldl_snd_same (f := State.clk); rotate_left; intros) | (fail_if_no_progress (refine Eq.trans State.mk_clk ?_)) | split | dsimp only | intro)
@[simp] theorem State.queueDrop_clk (s : State) (g : Nat) (n : Nat) : (State.queueDrop s g n).clk = s.clk := State.queueDrop_clk_of _ _ _ rfl

theorem State.queueCurtain_dev_of {v : Dev} (s : State) (g : Nat) (hk : s.dev = v) : (State.queueCurtain s g).dev = v := by
  unfold State.queueCurtain; with_reducible repeat' (first | exact hk | assumption | apply State.cutFetches_dev_of | apply State.forgetJobs_dev_of | refine Eq.trans (State.setQueue_dev ..) ?_ | (apply foldl_same (f := State.dev); rotate_left; intros) | (apply foldl_fst_same (f := State.dev); rotate_left; intros) | (apply foldl_snd_same (f := State.dev); rotate_left; intros) | (fail_if_no_progress (refine Eq.trans State.mk_dev ?_)) | split | dsimp only | intro)
@[simp] theorem State.queueCurtain_dev (s : State) (g : Nat) : (State.queueCurtain s g).dev = s.dev := State.queueCurtain_dev_of _ _ rfl

theorem State.queueCurtain_pins_of {v : Pins} (s : State) (g : Nat) (hk : s.pins = v) : (State.queueCurtain s g).pins = v := by
  unfold State.queueCurtain; with_reducible repeat' (first | exact hk | assumption | apply State.cutFetches_pins_of | apply State.forgetJobs_pins_of | refine Eq.trans (State.setQueue_pins ..) ?_ | (apply foldl_same (f := State.pins); rotate_left; intros) | (apply foldl_fst_same (f := State.pins); rotate_left; intros) | (apply foldl_snd_same (f := State.pins); rotate_left; intros) | (fail_if_no_progress (refine Eq.trans State.mk_pins ?_)) | split | dsimp only | intro)
@[simp] theorem State.queueCurtain_pins (s : State) (g : Nat) : (State.queueCurtain s g).pins = s.pins := State.queueCurtain_pins_of _ _ rfl

theorem State.queueCurtain_clk_of {v : Clock} (s : State) (g : Nat) (hk : s.clk = v) : (State.queueCurtain s g).clk = v := by
  unfold State.queueCurtain; with_reducible repeat' (first | exact hk | assumption | apply State.cutFetches_clk_of | apply State.forgetJobs_clk_of | refine Eq.trans (State.setQueue_clk ..) ?_ | (apply foldl_same (f := State.clk); rotate_left; intros) | (apply foldl_fst_same (f := State.clk); rotate_left; intros) | (apply foldl_snd_same (f := State.clk); rotate_left; intros) | (fail_if_no_progress (refine Eq.trans State.mk_clk ?_)) | split | dsimp only | intro)
@[simp] theorem State.queueCurtain_clk (s : State) (g : Nat) : (State.queueCurtain s g).clk = s.clk := State.queueCurtain_clk_of _ _ rfl

theorem State.setEvent_dev_of {v : Dev} (s : State) (t : Nat) (input : Nat) (hk : s.dev = v) : (State.setEvent s t input).dev = v := by
  unfold State.setEvent; with_reducible repeat' (first | exact hk | assumption | refine Eq.trans (State.setThread_dev ..) ?_ | refine Eq.trans (State.touchDomain_dev ..) ?_ | (apply foldl_same (f := State.dev); rotate_left; intros) | (apply foldl_fst_same (f := State.dev); rotate_left; intros) | (apply foldl_snd_same (f := State.dev); rotate_left; intros) | (fail_if_no_progress (refine Eq.trans State.mk_dev ?_)) | split | dsimp only | intro)
@[simp] theorem State.setEvent_dev (s : State) (t : Nat) (input : Nat) : (State.setEvent s t input).dev = s.dev := State.setEvent_dev_of _ _ _ rfl

theorem State.setEvent_pins_of {v : Pins} (s : State) (t : Nat) (input : Nat) (hk : s.pins = v) : (State.setEvent s t input).pins = v := by
  unfold State.setEvent; with_reducible repeat' (first | exact hk | assumption | refine Eq.trans (State.setThread_pins ..) ?_ | refine Eq.trans (State.touchDomain_pins ..) ?_ | (apply foldl_same (f := State.pins); rotate_left; intros) | (apply foldl_fst_same (f := State.pins); rotate_left; intros) | (apply foldl_snd_same (f := State.pins); rotate_left; intros) | (fail_if_no_progress (refine Eq.trans State.mk_pins ?_)) | split | dsimp only | intro)
@[simp] theorem State.setEvent_pins (s : State) (t : Nat) (input : Nat) : (State.setEvent s t input).pins = s.pins := State.setEvent_pins_of _ _ _ rfl

theorem State.setEvent_clk_of {v : Clock} (s : State) (t : Nat) (input : Nat) (hk : s.clk = v) : (State.setEvent s t input).clk = v := by
  unfold State.setEvent; with_reducible repeat' (first | exact hk | assumption | refine Eq.trans (State.setThread_clk ..) ?_ | refine Eq.trans (State.touchDomain_clk ..) ?_ | (apply foldl_same (f := State.clk); rotate_left; intros) | (apply foldl_fst_same (f := State.clk); rotate_left; intros) | (apply foldl_snd_same (f := State.clk); rotate_left; intros) | (fail_if_no_progress (refine Eq.trans State.mk_clk ?_)) | split | dsimp only | intro)
@[simp] theorem State.setEvent_clk (s : State) (t : Nat) (input : Nat) : (State.setEvent s t input).clk = s.clk := State.setEvent_clk_of _ _ _ rfl

theorem State.writeShared_dev_of {v : Dev} (s : State) (n : Nat) (a : Nat) (bs : List Byte) (hk : s.dev = v) : (State.writeShared s n a bs).dev = v := by
  unfold State.writeShared; with_reducible repeat' (first | exact hk | assumption | (apply foldl_same (f := State.dev); rotate_left; intros) | (apply foldl_fst_same (f := State.dev); rotate_left; intros) | (apply foldl_snd_same (f := State.dev); rotate_left; intros) | (fail_if_no_progress (refine Eq.trans State.mk_dev ?_)) | split | dsimp only | intro)
@[simp] theorem State.writeShared_dev (s : State) (n : Nat) (a : Nat) (bs : List Byte) : (State.writeShared s n a bs).dev = s.dev := State.writeShared_dev_of _ _ _ _ rfl

theorem State.writeShared_pins_of {v : Pins} (s : State) (n : Nat) (a : Nat) (bs : List Byte) (hk : s.pins = v) : (State.writeShared s n a bs).pins = v := by
  unfold State.writeShared; with_reducible repeat' (first | exact hk | assumption | (apply foldl_same (f := State.pins); rotate_left; intros) | (apply foldl_fst_same (f := State.pins); rotate_left; intros) | (apply foldl_snd_same (f := State.pins); rotate_left; intros) | (fail_if_no_progress (refine Eq.trans State.mk_pins ?_)) | split | dsimp only | intro)
@[simp] theorem State.writeShared_pins (s : State) (n : Nat) (a : Nat) (bs : List Byte) : (State.writeShared s n a bs).pins = s.pins := State.writeShared_pins_of _ _ _ _ rfl

theorem State.writeShared_clk_of {v : Clock} (s : State) (n : Nat) (a : Nat) (bs : List Byte) (hk : s.clk = v) : (State.writeShared s n a bs).clk = v := by
  unfold State.writeShared; with_reducible repeat' (first | exact hk | assumption | (apply foldl_same (f := State.clk); rotate_left; intros) | (apply foldl_fst_same (f := State.clk); rotate_left; intros) | (apply foldl_snd_same (f := State.clk); rotate_left; intros) | (fail_if_no_progress (refine Eq.trans State.mk_clk ?_)) | split | dsimp only | intro)
@[simp] theorem State.writeShared_clk (s : State) (n : Nat) (a : Nat) (bs : List Byte) : (State.writeShared s n a bs).clk = s.clk := State.writeShared_clk_of _ _ _ _ rfl

theorem State.writeDmem_dev_of {v : Dev} (s : State) (k : Nat) (a : Nat) (bs : List Byte) (hk : s.dev = v) : (State.writeDmem s k a bs).dev = v := by
  unfold State.writeDmem; with_reducible repeat' (first | exact hk | assumption | (apply foldl_same (f := State.dev); rotate_left; intros) | (apply foldl_fst_same (f := State.dev); rotate_left; intros) | (apply foldl_snd_same (f := State.dev); rotate_left; intros) | (fail_if_no_progress (refine Eq.trans State.mk_dev ?_)) | split | dsimp only | intro)
@[simp] theorem State.writeDmem_dev (s : State) (k : Nat) (a : Nat) (bs : List Byte) : (State.writeDmem s k a bs).dev = s.dev := State.writeDmem_dev_of _ _ _ _ rfl

theorem State.writeDmem_pins_of {v : Pins} (s : State) (k : Nat) (a : Nat) (bs : List Byte) (hk : s.pins = v) : (State.writeDmem s k a bs).pins = v := by
  unfold State.writeDmem; with_reducible repeat' (first | exact hk | assumption | (apply foldl_same (f := State.pins); rotate_left; intros) | (apply foldl_fst_same (f := State.pins); rotate_left; intros) | (apply foldl_snd_same (f := State.pins); rotate_left; intros) | (fail_if_no_progress (refine Eq.trans State.mk_pins ?_)) | split | dsimp only | intro)
@[simp] theorem State.writeDmem_pins (s : State) (k : Nat) (a : Nat) (bs : List Byte) : (State.writeDmem s k a bs).pins = s.pins := State.writeDmem_pins_of _ _ _ _ rfl

theorem State.writeDmem_clk_of {v : Clock} (s : State) (k : Nat) (a : Nat) (bs : List Byte) (hk : s.clk = v) : (State.writeDmem s k a bs).clk = v := by
  unfold State.writeDmem; with_reducible repeat' (first | exact hk | assumption | (apply foldl_same (f := State.clk); rotate_left; intros) | (apply foldl_fst_same (f := State.clk); rotate_left; intros) | (apply foldl_snd_same (f := State.clk); rotate_left; intros) | (fail_if_no_progress (refine Eq.trans State.mk_clk ?_)) | split | dsimp only | intro)
@[simp] theorem State.writeDmem_clk (s : State) (k : Nat) (a : Nat) (bs : List Byte) : (State.writeDmem s k a bs).clk = s.clk := State.writeDmem_clk_of _ _ _ _ rfl

theorem State.writeWindow_dev_of {v : Dev} (s : State) (n : Nat) (a : Nat) (bs : List Byte) (hk : s.dev = v) : (State.writeWindow s n a bs).dev = v := by
  unfold State.writeWindow; with_reducible repeat' (first | exact hk | assumption | (apply foldl_same (f := State.dev); rotate_left; intros) | (apply foldl_fst_same (f := State.dev); rotate_left; intros) | (apply foldl_snd_same (f := State.dev); rotate_left; intros) | (fail_if_no_progress (refine Eq.trans State.mk_dev ?_)) | split | dsimp only | intro)
@[simp] theorem State.writeWindow_dev (s : State) (n : Nat) (a : Nat) (bs : List Byte) : (State.writeWindow s n a bs).dev = s.dev := State.writeWindow_dev_of _ _ _ _ rfl

theorem State.writeWindow_pins_of {v : Pins} (s : State) (n : Nat) (a : Nat) (bs : List Byte) (hk : s.pins = v) : (State.writeWindow s n a bs).pins = v := by
  unfold State.writeWindow; with_reducible repeat' (first | exact hk | assumption | (apply foldl_same (f := State.pins); rotate_left; intros) | (apply foldl_fst_same (f := State.pins); rotate_left; intros) | (apply foldl_snd_same (f := State.pins); rotate_left; intros) | (fail_if_no_progress (refine Eq.trans State.mk_pins ?_)) | split | dsimp only | intro)
@[simp] theorem State.writeWindow_pins (s : State) (n : Nat) (a : Nat) (bs : List Byte) : (State.writeWindow s n a bs).pins = s.pins := State.writeWindow_pins_of _ _ _ _ rfl

theorem State.writeWindow_clk_of {v : Clock} (s : State) (n : Nat) (a : Nat) (bs : List Byte) (hk : s.clk = v) : (State.writeWindow s n a bs).clk = v := by
  unfold State.writeWindow; with_reducible repeat' (first | exact hk | assumption | (apply foldl_same (f := State.clk); rotate_left; intros) | (apply foldl_fst_same (f := State.clk); rotate_left; intros) | (apply foldl_snd_same (f := State.clk); rotate_left; intros) | (fail_if_no_progress (refine Eq.trans State.mk_clk ?_)) | split | dsimp only | intro)
@[simp] theorem State.writeWindow_clk (s : State) (n : Nat) (a : Nat) (bs : List Byte) : (State.writeWindow s n a bs).clk = s.clk := State.writeWindow_clk_of _ _ _ _ rfl

theorem State.chanEvent_dev_of {v : Dev} (s : State) (c : Nat) (hk : s.dev = v) : (State.chanEvent s c).dev = v := by
  unfold State.chanEvent; with_reducible repeat' (first | exact hk | assumption | apply State.setEvent_dev_of | refine Eq.trans (State.emit_dev ..) ?_ | (apply foldl_same (f := State.dev); rotate_left; intros) | (apply foldl_fst_same (f := State.dev); rotate_left; intros) | (apply foldl_snd_same (f := State.dev); rotate_left; intros) | (fail_if_no_progress (refine Eq.trans State.mk_dev ?_)) | split | dsimp only | intro)
@[simp] theorem State.chanEvent_dev (s : State) (c : Nat) : (State.chanEvent s c).dev = s.dev := State.chanEvent_dev_of _ _ rfl

theorem State.chanEvent_pins_of {v : Pins} (s : State) (c : Nat) (hk : s.pins = v) : (State.chanEvent s c).pins = v := by
  unfold State.chanEvent; with_reducible repeat' (first | exact hk | assumption | apply State.setEvent_pins_of | refine Eq.trans (State.emit_pins ..) ?_ | (apply foldl_same (f := State.pins); rotate_left; intros) | (apply foldl_fst_same (f := State.pins); rotate_left; intros) | (apply foldl_snd_same (f := State.pins); rotate_left; intros) | (fail_if_no_progress (refine Eq.trans State.mk_pins ?_)) | split | dsimp only | intro)
@[simp] theorem State.chanEvent_pins (s : State) (c : Nat) : (State.chanEvent s c).pins = s.pins := State.chanEvent_pins_of _ _ rfl

theorem State.chanEvent_clk_of {v : Clock} (s : State) (c : Nat) (hk : s.clk = v) : (State.chanEvent s c).clk = v := by
  unfold State.chanEvent; with_reducible repeat' (first | exact hk | assumption | apply State.setEvent_clk_of | refine Eq.trans (State.emit_clk ..) ?_ | (apply foldl_same (f := State.clk); rotate_left; intros) | (apply foldl_fst_same (f := State.clk); rotate_left; intros) | (apply foldl_snd_same (f := State.clk); rotate_left; intros) | (fail_if_no_progress (refine Eq.trans State.mk_clk ?_)) | split | dsimp only | intro)
@[simp] theorem State.chanEvent_clk (s : State) (c : Nat) : (State.chanEvent s c).clk = s.clk := State.chanEvent_clk_of _ _ rfl

theorem State.chanClear_dev_of {v : Dev} (s : State) (c : Nat) (hk : s.dev = v) : (State.chanClear s c).dev = v := by
  unfold State.chanClear; with_reducible repeat' (first | exact hk | assumption | apply State.failReads_dev_of | refine Eq.trans (State.setChan_dev ..) ?_ | (apply foldl_same (f := State.dev); rotate_left; intros) | (apply foldl_fst_same (f := State.dev); rotate_left; intros) | (apply foldl_snd_same (f := State.dev); rotate_left; intros) | (fail_if_no_progress (refine Eq.trans State.mk_dev ?_)) | split | dsimp only | intro)
@[simp] theorem State.chanClear_dev (s : State) (c : Nat) : (State.chanClear s c).dev = s.dev := State.chanClear_dev_of _ _ rfl

theorem State.chanClear_pins_of {v : Pins} (s : State) (c : Nat) (hk : s.pins = v) : (State.chanClear s c).pins = v := by
  unfold State.chanClear; with_reducible repeat' (first | exact hk | assumption | apply State.failReads_pins_of | refine Eq.trans (State.setChan_pins ..) ?_ | (apply foldl_same (f := State.pins); rotate_left; intros) | (apply foldl_fst_same (f := State.pins); rotate_left; intros) | (apply foldl_snd_same (f := State.pins); rotate_left; intros) | (fail_if_no_progress (refine Eq.trans State.mk_pins ?_)) | split | dsimp only | intro)
@[simp] theorem State.chanClear_pins (s : State) (c : Nat) : (State.chanClear s c).pins = s.pins := State.chanClear_pins_of _ _ rfl

theorem State.chanClear_clk_of {v : Clock} (s : State) (c : Nat) (hk : s.clk = v) : (State.chanClear s c).clk = v := by
  unfold State.chanClear; with_reducible repeat' (first | exact hk | assumption | apply State.failReads_clk_of | refine Eq.trans (State.setChan_clk ..) ?_ | (apply foldl_same (f := State.clk); rotate_left; intros) | (apply foldl_fst_same (f := State.clk); rotate_left; intros) | (apply foldl_snd_same (f := State.clk); rotate_left; intros) | (fail_if_no_progress (refine Eq.trans State.mk_clk ?_)) | split | dsimp only | intro)
@[simp] theorem State.chanClear_clk (s : State) (c : Nat) : (State.chanClear s c).clk = s.clk := State.chanClear_clk_of _ _ rfl

theorem State.chanHalt_dev_of {v : Dev} (s : State) (c : Nat) (status : Nat) (hk : s.dev = v) : (State.chanHalt s c status).dev = v := by
  unfold State.chanHalt; with_reducible repeat' (first | exact hk | assumption | refine Eq.trans (State.setFld_dev ..) ?_ | refine Eq.trans (State.bump_dev ..) ?_ | apply State.chanClear_dev_of | refine Eq.trans (State.setChan_dev ..) ?_ | apply State.chanEvent_dev_of | (apply foldl_same (f := State.dev); rotate_left; intros) | (apply foldl_fst_same (f := State.dev); rotate_left; intros) | (apply foldl_snd_same (f := State.dev); rotate_left; intros) | (fail_if_no_progress (refine Eq.trans State.mk_dev ?_)) | split | dsimp only | intro)
@[simp] theorem State.chanHalt_dev (s : State) (c : Nat) (status : Nat) : (State.chanHalt s c status).dev = s.dev := State.chanHalt_dev_of _ _ _ rfl

theorem State.chanHalt_pins_of {v : Pins} (s : State) (c : Nat) (status : Nat) (hk : s.pins = v) : (State.chanHalt s c status).pins = v := by
  unfold State.chanHalt; with_reducible repeat' (first | exact hk | assumption | refine Eq.trans (State.setFld_pins ..) ?_ | refine Eq.trans (State.bump_pins ..) ?_ | apply State.chanClear_pins_of | refine Eq.trans (State.setChan_pins ..) ?_ | apply State.chanEvent_pins_of | (apply foldl_same (f := State.pins); rotate_left; intros) | (apply foldl_fst_same (f := State.pins); rotate_left; intros) | (apply foldl_snd_same (f := State.pins); rotate_left; intros) | (fail_if_no_progress (refine Eq.trans State.mk_pins ?_)) | split | dsimp only | intro)
@[simp] theorem State.chanHalt_pins (s : State) (c : Nat) (status : Nat) : (State.chanHalt s c status).pins = s.pins := State.chanHalt_pins_of _ _ _ rfl

theorem State.chanHalt_clk_of {v : Clock} (s : State) (c : Nat) (status : Nat) (hk : s.clk = v) : (State.chanHalt s c status).clk = v := by
  unfold State.chanHalt; with_reducible repeat' (first | exact hk | assumption | refine Eq.trans (State.setFld_clk ..) ?_ | refine Eq.trans (State.bump_clk ..) ?_ | apply State.chanClear_clk_of | refine Eq.trans (State.setChan_clk ..) ?_ | apply State.chanEvent_clk_of | (apply foldl_same (f := State.clk); rotate_left; intros) | (apply foldl_fst_same (f := State.clk); rotate_left; intros) | (apply foldl_snd_same (f := State.clk); rotate_left; intros) | (fail_if_no_progress (refine Eq.trans State.mk_clk ?_)) | split | dsimp only | intro)
@[simp] theorem State.chanHalt_clk (s : State) (c : Nat) (status : Nat) : (State.chanHalt s c status).clk = s.clk := State.chanHalt_clk_of _ _ _ rfl

theorem State.raiseLine_dev_of {v : Dev} (s : State) (line : Nat) (hk : s.dev = v) : (State.raiseLine s line).dev = v := by
  unfold State.raiseLine; with_reducible repeat' (first | exact hk | assumption | refine Eq.trans (State.setChan_dev ..) ?_ | refine Eq.trans (State.bump_dev ..) ?_ | (apply foldl_same (f := State.dev); rotate_left; intros) | (apply foldl_fst_same (f := State.dev); rotate_left; intros) | (apply foldl_snd_same (f := State.dev); rotate_left; intros) | (fail_if_no_progress (refine Eq.trans State.mk_dev ?_)) | split | dsimp only | intro)
@[simp] theorem State.raiseLine_dev (s : State) (line : Nat) : (State.raiseLine s line).dev = s.dev := State.raiseLine_dev_of _ _ rfl

theorem State.raiseLine_pins_of {v : Pins} (s : State) (line : Nat) (hk : s.pins = v) : (State.raiseLine s line).pins = v := by
  unfold State.raiseLine; with_reducible repeat' (first | exact hk | assumption | refine Eq.trans (State.setChan_pins ..) ?_ | refine Eq.trans (State.bump_pins ..) ?_ | (apply foldl_same (f := State.pins); rotate_left; intros) | (apply foldl_fst_same (f := State.pins); rotate_left; intros) | (apply foldl_snd_same (f := State.pins); rotate_left; intros) | (fail_if_no_progress (refine Eq.trans State.mk_pins ?_)) | split | dsimp only | intro)
@[simp] theorem State.raiseLine_pins (s : State) (line : Nat) : (State.raiseLine s line).pins = s.pins := State.raiseLine_pins_of _ _ rfl

theorem State.raiseLine_clk_of {v : Clock} (s : State) (line : Nat) (hk : s.clk = v) : (State.raiseLine s line).clk = v := by
  unfold State.raiseLine; with_reducible repeat' (first | exact hk | assumption | refine Eq.trans (State.setChan_clk ..) ?_ | refine Eq.trans (State.bump_clk ..) ?_ | (apply foldl_same (f := State.clk); rotate_left; intros) | (apply foldl_fst_same (f := State.clk); rotate_left; intros) | (apply foldl_snd_same (f := State.clk); rotate_left; intros) | (fail_if_no_progress (refine Eq.trans State.mk_clk ?_)) | split | dsimp only | intro)
@[simp] theorem State.raiseLine_clk (s : State) (line : Nat) : (State.raiseLine s line).clk = s.clk := State.raiseLine_clk_of _ _ rfl

theorem State.haltChannels_dev_of {v : Dev} (s : State) (p : Nat → Bool) (status : Nat) (hk : s.dev = v) : (State.haltChannels s p status).dev = v := by
  unfold State.haltChannels; with_reducible repeat' (first | exact hk | assumption | apply State.chanHalt_dev_of | (apply foldl_same (f := State.dev); rotate_left; intros) | (apply foldl_fst_same (f := State.dev); rotate_left; intros) | (apply foldl_snd_same (f := State.dev); rotate_left; intros) | (fail_if_no_progress (refine Eq.trans State.mk_dev ?_)) | split | dsimp only | intro)
@[simp] theorem State.haltChannels_dev (s : State) (p : Nat → Bool) (status : Nat) : (State.haltChannels s p status).dev = s.dev := State.haltChannels_dev_of _ _ _ rfl

theorem State.haltChannels_pins_of {v : Pins} (s : State) (p : Nat → Bool) (status : Nat) (hk : s.pins = v) : (State.haltChannels s p status).pins = v := by
  unfold State.haltChannels; with_reducible repeat' (first | exact hk | assumption | apply State.chanHalt_pins_of | (apply foldl_same (f := State.pins); rotate_left; intros) | (apply foldl_fst_same (f := State.pins); rotate_left; intros) | (apply foldl_snd_same (f := State.pins); rotate_left; intros) | (fail_if_no_progress (refine Eq.trans State.mk_pins ?_)) | split | dsimp only | intro)
@[simp] theorem State.haltChannels_pins (s : State) (p : Nat → Bool) (status : Nat) : (State.haltChannels s p status).pins = s.pins := State.haltChannels_pins_of _ _ _ rfl

theorem State.haltChannels_clk_of {v : Clock} (s : State) (p : Nat → Bool) (status : Nat) (hk : s.clk = v) : (State.haltChannels s p status).clk = v := by
  unfold State.haltChannels; with_reducible repeat' (first | exact hk | assumption | apply State.chanHalt_clk_of | (apply foldl_same (f := State.clk); rotate_left; intros) | (apply foldl_fst_same (f := State.clk); rotate_left; intros) | (apply foldl_snd_same (f := State.clk); rotate_left; intros) | (fail_if_no_progress (refine Eq.trans State.mk_clk ?_)) | split | dsimp only | intro)
@[simp] theorem State.haltChannels_clk (s : State) (p : Nat → Bool) (status : Nat) : (State.haltChannels s p status).clk = s.clk := State.haltChannels_clk_of _ _ _ rfl

theorem State.setConnRun_dev_of {v : Dev} (s : State) (c : Nat) (v0 : ConnRun) (hk : s.dev = v) : (State.setConnRun s c v0).dev = v := by
  unfold State.setConnRun; with_reducible repeat' (first | exact hk | assumption | (apply foldl_same (f := State.dev); rotate_left; intros) | (apply foldl_fst_same (f := State.dev); rotate_left; intros) | (apply foldl_snd_same (f := State.dev); rotate_left; intros) | (fail_if_no_progress (refine Eq.trans State.mk_dev ?_)) | split | dsimp only | intro)
@[simp] theorem State.setConnRun_dev (s : State) (c : Nat) (v0 : ConnRun) : (State.setConnRun s c v0).dev = s.dev := State.setConnRun_dev_of _ _ _ rfl

theorem State.setConnRun_pins_of {v : Pins} (s : State) (c : Nat) (v0 : ConnRun) (hk : s.pins = v) : (State.setConnRun s c v0).pins = v := by
  unfold State.setConnRun; with_reducible repeat' (first | exact hk | assumption | (apply foldl_same (f := State.pins); rotate_left; intros) | (apply foldl_fst_same (f := State.pins); rotate_left; intros) | (apply foldl_snd_same (f := State.pins); rotate_left; intros) | (fail_if_no_progress (refine Eq.trans State.mk_pins ?_)) | split | dsimp only | intro)
@[simp] theorem State.setConnRun_pins (s : State) (c : Nat) (v0 : ConnRun) : (State.setConnRun s c v0).pins = s.pins := State.setConnRun_pins_of _ _ _ rfl

theorem State.setConnRun_clk_of {v : Clock} (s : State) (c : Nat) (v0 : ConnRun) (hk : s.clk = v) : (State.setConnRun s c v0).clk = v := by
  unfold State.setConnRun; with_reducible repeat' (first | exact hk | assumption | (apply foldl_same (f := State.clk); rotate_left; intros) | (apply foldl_fst_same (f := State.clk); rotate_left; intros) | (apply foldl_snd_same (f := State.clk); rotate_left; intros) | (fail_if_no_progress (refine Eq.trans State.mk_clk ?_)) | split | dsimp only | intro)
@[simp] theorem State.setConnRun_clk (s : State) (c : Nat) (v0 : ConnRun) : (State.setConnRun s c v0).clk = s.clk := State.setConnRun_clk_of _ _ _ rfl

theorem State.stEmit_dev_of {v : Dev} (s : State) (die : Nat) (b : List Byte) (octets : List Byte) (hk : s.dev = v) : (State.stEmit s die b octets).dev = v := by
  unfold State.stEmit; with_reducible repeat' (first | exact hk | assumption | apply State.newFrame_dev_of | (apply foldl_same (f := State.dev); rotate_left; intros) | (apply foldl_fst_same (f := State.dev); rotate_left; intros) | (apply foldl_snd_same (f := State.dev); rotate_left; intros) | (fail_if_no_progress (refine Eq.trans State.mk_dev ?_)) | split | dsimp only | intro)
@[simp] theorem State.stEmit_dev (s : State) (die : Nat) (b : List Byte) (octets : List Byte) : (State.stEmit s die b octets).dev = s.dev := State.stEmit_dev_of _ _ _ _ rfl

theorem State.stEmit_pins_of {v : Pins} (s : State) (die : Nat) (b : List Byte) (octets : List Byte) (hk : s.pins = v) : (State.stEmit s die b octets).pins = v := by
  unfold State.stEmit; with_reducible repeat' (first | exact hk | assumption | apply State.newFrame_pins_of | (apply foldl_same (f := State.pins); rotate_left; intros) | (apply foldl_fst_same (f := State.pins); rotate_left; intros) | (apply foldl_snd_same (f := State.pins); rotate_left; intros) | (fail_if_no_progress (refine Eq.trans State.mk_pins ?_)) | split | dsimp only | intro)
@[simp] theorem State.stEmit_pins (s : State) (die : Nat) (b : List Byte) (octets : List Byte) : (State.stEmit s die b octets).pins = s.pins := State.stEmit_pins_of _ _ _ _ rfl

theorem State.stEmit_clk_of {v : Clock} (s : State) (die : Nat) (b : List Byte) (octets : List Byte) (hk : s.clk = v) : (State.stEmit s die b octets).clk = v := by
  unfold State.stEmit; with_reducible repeat' (first | exact hk | assumption | apply State.newFrame_clk_of | (apply foldl_same (f := State.clk); rotate_left; intros) | (apply foldl_fst_same (f := State.clk); rotate_left; intros) | (apply foldl_snd_same (f := State.clk); rotate_left; intros) | (fail_if_no_progress (refine Eq.trans State.mk_clk ?_)) | split | dsimp only | intro)
@[simp] theorem State.stEmit_clk (s : State) (die : Nat) (b : List Byte) (octets : List Byte) : (State.stEmit s die b octets).clk = s.clk := State.stEmit_clk_of _ _ _ _ rfl

theorem State.stPut_dev_of {v : Dev} (s : State) (die : Nat) (conn : Nat) (u : Unsent) (hk : s.dev = v) : (State.stPut s die conn u).dev = v := by
  unfold State.stPut; with_reducible repeat' (first | exact hk | assumption | refine Eq.trans (State.setConn_dev ..) ?_ | apply State.setConnRun_dev_of | apply State.stEmit_dev_of | (apply foldl_same (f := State.dev); rotate_left; intros) | (apply foldl_fst_same (f := State.dev); rotate_left; intros) | (apply foldl_snd_same (f := State.dev); rotate_left; intros) | (fail_if_no_progress (refine Eq.trans State.mk_dev ?_)) | split | dsimp only | intro)
@[simp] theorem State.stPut_dev (s : State) (die : Nat) (conn : Nat) (u : Unsent) : (State.stPut s die conn u).dev = s.dev := State.stPut_dev_of _ _ _ _ rfl

theorem State.stPut_pins_of {v : Pins} (s : State) (die : Nat) (conn : Nat) (u : Unsent) (hk : s.pins = v) : (State.stPut s die conn u).pins = v := by
  unfold State.stPut; with_reducible repeat' (first | exact hk | assumption | refine Eq.trans (State.setConn_pins ..) ?_ | apply State.setConnRun_pins_of | apply State.stEmit_pins_of | (apply foldl_same (f := State.pins); rotate_left; intros) | (apply foldl_fst_same (f := State.pins); rotate_left; intros) | (apply foldl_snd_same (f := State.pins); rotate_left; intros) | (fail_if_no_progress (refine Eq.trans State.mk_pins ?_)) | split | dsimp only | intro)
@[simp] theorem State.stPut_pins (s : State) (die : Nat) (conn : Nat) (u : Unsent) : (State.stPut s die conn u).pins = s.pins := State.stPut_pins_of _ _ _ _ rfl

theorem State.stPut_clk_of {v : Clock} (s : State) (die : Nat) (conn : Nat) (u : Unsent) (hk : s.clk = v) : (State.stPut s die conn u).clk = v := by
  unfold State.stPut; with_reducible repeat' (first | exact hk | assumption | refine Eq.trans (State.setConn_clk ..) ?_ | apply State.setConnRun_clk_of | apply State.stEmit_clk_of | (apply foldl_same (f := State.clk); rotate_left; intros) | (apply foldl_fst_same (f := State.clk); rotate_left; intros) | (apply foldl_snd_same (f := State.clk); rotate_left; intros) | (fail_if_no_progress (refine Eq.trans State.mk_clk ?_)) | split | dsimp only | intro)
@[simp] theorem State.stPut_clk (s : State) (die : Nat) (conn : Nat) (u : Unsent) : (State.stPut s die conn u).clk = s.clk := State.stPut_clk_of _ _ _ _ rfl

theorem State.stFrame_dev_of {v : Dev} (s : State) (die : Nat) (conn : Nat) (kind : Nat) (cmd : Nat) (offset : Nat) (data : List Byte) (hk : s.dev = v) : (State.stFrame s die conn kind cmd offset data).dev = v := by
  unfold State.stFrame; with_reducible repeat' (first | exact hk | assumption | apply State.stPut_dev_of | apply State.setConnRun_dev_of | (apply foldl_same (f := State.dev); rotate_left; intros) | (apply foldl_fst_same (f := State.dev); rotate_left; intros) | (apply foldl_snd_same (f := State.dev); rotate_left; intros) | (fail_if_no_progress (refine Eq.trans State.mk_dev ?_)) | split | dsimp only | intro)
@[simp] theorem State.stFrame_dev (s : State) (die : Nat) (conn : Nat) (kind : Nat) (cmd : Nat) (offset : Nat) (data : List Byte) : (State.stFrame s die conn kind cmd offset data).dev = s.dev := State.stFrame_dev_of _ _ _ _ _ _ _ rfl

theorem State.stFrame_pins_of {v : Pins} (s : State) (die : Nat) (conn : Nat) (kind : Nat) (cmd : Nat) (offset : Nat) (data : List Byte) (hk : s.pins = v) : (State.stFrame s die conn kind cmd offset data).pins = v := by
  unfold State.stFrame; with_reducible repeat' (first | exact hk | assumption | apply State.stPut_pins_of | apply State.setConnRun_pins_of | (apply foldl_same (f := State.pins); rotate_left; intros) | (apply foldl_fst_same (f := State.pins); rotate_left; intros) | (apply foldl_snd_same (f := State.pins); rotate_left; intros) | (fail_if_no_progress (refine Eq.trans State.mk_pins ?_)) | split | dsimp only | intro)
@[simp] theorem State.stFrame_pins (s : State) (die : Nat) (conn : Nat) (kind : Nat) (cmd : Nat) (offset : Nat) (data : List Byte) : (State.stFrame s die conn kind cmd offset data).pins = s.pins := State.stFrame_pins_of _ _ _ _ _ _ _ rfl

theorem State.stFrame_clk_of {v : Clock} (s : State) (die : Nat) (conn : Nat) (kind : Nat) (cmd : Nat) (offset : Nat) (data : List Byte) (hk : s.clk = v) : (State.stFrame s die conn kind cmd offset data).clk = v := by
  unfold State.stFrame; with_reducible repeat' (first | exact hk | assumption | apply State.stPut_clk_of | apply State.setConnRun_clk_of | (apply foldl_same (f := State.clk); rotate_left; intros) | (apply foldl_fst_same (f := State.clk); rotate_left; intros) | (apply foldl_snd_same (f := State.clk); rotate_left; intros) | (fail_if_no_progress (refine Eq.trans State.mk_clk ?_)) | split | dsimp only | intro)
@[simp] theorem State.stFrame_clk (s : State) (die : Nat) (conn : Nat) (kind : Nat) (cmd : Nat) (offset : Nat) (data : List Byte) : (State.stFrame s die conn kind cmd offset data).clk = s.clk := State.stFrame_clk_of _ _ _ _ _ _ _ rfl

theorem State.stComplete_dev_of {v : Dev} (s : State) (g : Nat) (life : Nat) (n : Nat) (cid : Nat) (status : Nat) (dw0 : Nat) (hk : s.dev = v) : (State.stComplete s g life n cid status dw0).dev = v := by
  unfold State.stComplete; with_reducible repeat' (first | exact hk | assumption | apply State.addReady_dev_of | (apply foldl_same (f := State.dev); rotate_left; intros) | (apply foldl_fst_same (f := State.dev); rotate_left; intros) | (apply foldl_snd_same (f := State.dev); rotate_left; intros) | (fail_if_no_progress (refine Eq.trans State.mk_dev ?_)) | split | dsimp only | intro)
@[simp] theorem State.stComplete_dev (s : State) (g : Nat) (life : Nat) (n : Nat) (cid : Nat) (status : Nat) (dw0 : Nat) : (State.stComplete s g life n cid status dw0).dev = s.dev := State.stComplete_dev_of _ _ _ _ _ _ _ rfl

theorem State.stComplete_pins_of {v : Pins} (s : State) (g : Nat) (life : Nat) (n : Nat) (cid : Nat) (status : Nat) (dw0 : Nat) (hk : s.pins = v) : (State.stComplete s g life n cid status dw0).pins = v := by
  unfold State.stComplete; with_reducible repeat' (first | exact hk | assumption | apply State.addReady_pins_of | (apply foldl_same (f := State.pins); rotate_left; intros) | (apply foldl_fst_same (f := State.pins); rotate_left; intros) | (apply foldl_snd_same (f := State.pins); rotate_left; intros) | (fail_if_no_progress (refine Eq.trans State.mk_pins ?_)) | split | dsimp only | intro)
@[simp] theorem State.stComplete_pins (s : State) (g : Nat) (life : Nat) (n : Nat) (cid : Nat) (status : Nat) (dw0 : Nat) : (State.stComplete s g life n cid status dw0).pins = s.pins := State.stComplete_pins_of _ _ _ _ _ _ _ rfl

theorem State.stComplete_clk_of {v : Clock} (s : State) (g : Nat) (life : Nat) (n : Nat) (cid : Nat) (status : Nat) (dw0 : Nat) (hk : s.clk = v) : (State.stComplete s g life n cid status dw0).clk = v := by
  unfold State.stComplete; with_reducible repeat' (first | exact hk | assumption | apply State.addReady_clk_of | (apply foldl_same (f := State.clk); rotate_left; intros) | (apply foldl_fst_same (f := State.clk); rotate_left; intros) | (apply foldl_snd_same (f := State.clk); rotate_left; intros) | (fail_if_no_progress (refine Eq.trans State.mk_clk ?_)) | split | dsimp only | intro)
@[simp] theorem State.stComplete_clk (s : State) (g : Nat) (life : Nat) (n : Nat) (cid : Nat) (status : Nat) (dw0 : Nat) : (State.stComplete s g life n cid status dw0).clk = s.clk := State.stComplete_clk_of _ _ _ _ _ _ _ rfl

theorem State.stRelease_dev_of {v : Dev} (s : State) (c : StCmd) (hk : s.dev = v) : (State.stRelease s c).dev = v := by
  unfold State.stRelease; with_reducible repeat' (first | exact hk | assumption | apply State.failReads_dev_of | apply State.raiseLine_dev_of | (apply foldl_same (f := State.dev); rotate_left; intros) | (apply foldl_fst_same (f := State.dev); rotate_left; intros) | (apply foldl_snd_same (f := State.dev); rotate_left; intros) | (fail_if_no_progress (refine Eq.trans State.mk_dev ?_)) | split | dsimp only | intro)
@[simp] theorem State.stRelease_dev (s : State) (c : StCmd) : (State.stRelease s c).dev = s.dev := State.stRelease_dev_of _ _ rfl

theorem State.stRelease_pins_of {v : Pins} (s : State) (c : StCmd) (hk : s.pins = v) : (State.stRelease s c).pins = v := by
  unfold State.stRelease; with_reducible repeat' (first | exact hk | assumption | apply State.failReads_pins_of | apply State.raiseLine_pins_of | (apply foldl_same (f := State.pins); rotate_left; intros) | (apply foldl_fst_same (f := State.pins); rotate_left; intros) | (apply foldl_snd_same (f := State.pins); rotate_left; intros) | (fail_if_no_progress (refine Eq.trans State.mk_pins ?_)) | split | dsimp only | intro)
@[simp] theorem State.stRelease_pins (s : State) (c : StCmd) : (State.stRelease s c).pins = s.pins := State.stRelease_pins_of _ _ rfl

theorem State.stRelease_clk_of {v : Clock} (s : State) (c : StCmd) (hk : s.clk = v) : (State.stRelease s c).clk = v := by
  unfold State.stRelease; with_reducible repeat' (first | exact hk | assumption | apply State.failReads_clk_of | apply State.raiseLine_clk_of | (apply foldl_same (f := State.clk); rotate_left; intros) | (apply foldl_fst_same (f := State.clk); rotate_left; intros) | (apply foldl_snd_same (f := State.clk); rotate_left; intros) | (fail_if_no_progress (refine Eq.trans State.mk_clk ?_)) | split | dsimp only | intro)
@[simp] theorem State.stRelease_clk (s : State) (c : StCmd) : (State.stRelease s c).clk = s.clk := State.stRelease_clk_of _ _ rfl

theorem State.stFinish_dev_of {v : Dev} (s : State) (c : StCmd) (status : Nat) (dw0 : Nat) (hk : s.dev = v) : (State.stFinish s c status dw0).dev = v := by
  unfold State.stFinish; with_reducible repeat' (first | exact hk | assumption | apply State.stRelease_dev_of | apply State.stComplete_dev_of | refine Eq.trans (State.bump_dev ..) ?_ | (apply foldl_same (f := State.dev); rotate_left; intros) | (apply foldl_fst_same (f := State.dev); rotate_left; intros) | (apply foldl_snd_same (f := State.dev); rotate_left; intros) | (fail_if_no_progress (refine Eq.trans State.mk_dev ?_)) | split | dsimp only | intro)
@[simp] theorem State.stFinish_dev (s : State) (c : StCmd) (status : Nat) (dw0 : Nat) : (State.stFinish s c status dw0).dev = s.dev := State.stFinish_dev_of _ _ _ _ rfl

theorem State.stFinish_pins_of {v : Pins} (s : State) (c : StCmd) (status : Nat) (dw0 : Nat) (hk : s.pins = v) : (State.stFinish s c status dw0).pins = v := by
  unfold State.stFinish; with_reducible repeat' (first | exact hk | assumption | apply State.stRelease_pins_of | apply State.stComplete_pins_of | refine Eq.trans (State.bump_pins ..) ?_ | (apply foldl_same (f := State.pins); rotate_left; intros) | (apply foldl_fst_same (f := State.pins); rotate_left; intros) | (apply foldl_snd_same (f := State.pins); rotate_left; intros) | (fail_if_no_progress (refine Eq.trans State.mk_pins ?_)) | split | dsimp only | intro)
@[simp] theorem State.stFinish_pins (s : State) (c : StCmd) (status : Nat) (dw0 : Nat) : (State.stFinish s c status dw0).pins = s.pins := State.stFinish_pins_of _ _ _ _ rfl

theorem State.stFinish_clk_of {v : Clock} (s : State) (c : StCmd) (status : Nat) (dw0 : Nat) (hk : s.clk = v) : (State.stFinish s c status dw0).clk = v := by
  unfold State.stFinish; with_reducible repeat' (first | exact hk | assumption | apply State.stRelease_clk_of | apply State.stComplete_clk_of | refine Eq.trans (State.bump_clk ..) ?_ | (apply foldl_same (f := State.clk); rotate_left; intros) | (apply foldl_fst_same (f := State.clk); rotate_left; intros) | (apply foldl_snd_same (f := State.clk); rotate_left; intros) | (fail_if_no_progress (refine Eq.trans State.mk_clk ?_)) | split | dsimp only | intro)
@[simp] theorem State.stFinish_clk (s : State) (c : StCmd) (status : Nat) (dw0 : Nat) : (State.stFinish s c status dw0).clk = s.clk := State.stFinish_clk_of _ _ _ _ rfl

theorem State.stCapsule_dev_of {v : Dev} (s : State) (c : StCmd) (slba : Nat) (blocks : Nat) (hk : s.dev = v) : (State.stCapsule s c slba blocks).dev = v := by
  unfold State.stCapsule; with_reducible repeat' (first | exact hk | assumption | refine Eq.trans (State.setCmd_dev ..) ?_ | apply State.stFrame_dev_of | (apply foldl_same (f := State.dev); rotate_left; intros) | (apply foldl_fst_same (f := State.dev); rotate_left; intros) | (apply foldl_snd_same (f := State.dev); rotate_left; intros) | (fail_if_no_progress (refine Eq.trans State.mk_dev ?_)) | split | dsimp only | intro)
@[simp] theorem State.stCapsule_dev (s : State) (c : StCmd) (slba : Nat) (blocks : Nat) : (State.stCapsule s c slba blocks).dev = s.dev := State.stCapsule_dev_of _ _ _ _ rfl

theorem State.stCapsule_pins_of {v : Pins} (s : State) (c : StCmd) (slba : Nat) (blocks : Nat) (hk : s.pins = v) : (State.stCapsule s c slba blocks).pins = v := by
  unfold State.stCapsule; with_reducible repeat' (first | exact hk | assumption | refine Eq.trans (State.setCmd_pins ..) ?_ | apply State.stFrame_pins_of | (apply foldl_same (f := State.pins); rotate_left; intros) | (apply foldl_fst_same (f := State.pins); rotate_left; intros) | (apply foldl_snd_same (f := State.pins); rotate_left; intros) | (fail_if_no_progress (refine Eq.trans State.mk_pins ?_)) | split | dsimp only | intro)
@[simp] theorem State.stCapsule_pins (s : State) (c : StCmd) (slba : Nat) (blocks : Nat) : (State.stCapsule s c slba blocks).pins = s.pins := State.stCapsule_pins_of _ _ _ _ rfl

theorem State.stCapsule_clk_of {v : Clock} (s : State) (c : StCmd) (slba : Nat) (blocks : Nat) (hk : s.clk = v) : (State.stCapsule s c slba blocks).clk = v := by
  unfold State.stCapsule; with_reducible repeat' (first | exact hk | assumption | refine Eq.trans (State.setCmd_clk ..) ?_ | apply State.stFrame_clk_of | (apply foldl_same (f := State.clk); rotate_left; intros) | (apply foldl_fst_same (f := State.clk); rotate_left; intros) | (apply foldl_snd_same (f := State.clk); rotate_left; intros) | (fail_if_no_progress (refine Eq.trans State.mk_clk ?_)) | split | dsimp only | intro)
@[simp] theorem State.stCapsule_clk (s : State) (c : StCmd) (slba : Nat) (blocks : Nat) : (State.stCapsule s c slba blocks).clk = s.clk := State.stCapsule_clk_of _ _ _ _ rfl

theorem State.stCipher_dev_of {v : Dev} (s : State) (c : StCmd) (op : Nat) (first : Nat) (blocks : List (Nat × List Byte)) (hk : s.dev = v) : (State.stCipher s c op first blocks).dev = v := by
  unfold State.stCipher; with_reducible repeat' (first | exact hk | assumption | apply State.submitCipher_dev_of | (apply foldl_same (f := State.dev); rotate_left; intros) | (apply foldl_fst_same (f := State.dev); rotate_left; intros) | (apply foldl_snd_same (f := State.dev); rotate_left; intros) | (fail_if_no_progress (refine Eq.trans State.mk_dev ?_)) | split | dsimp only | intro)
@[simp] theorem State.stCipher_dev (s : State) (c : StCmd) (op : Nat) (first : Nat) (blocks : List (Nat × List Byte)) : (State.stCipher s c op first blocks).dev = s.dev := State.stCipher_dev_of _ _ _ _ _ rfl

theorem State.stCipher_pins_of {v : Pins} (s : State) (c : StCmd) (op : Nat) (first : Nat) (blocks : List (Nat × List Byte)) (hk : s.pins = v) : (State.stCipher s c op first blocks).pins = v := by
  unfold State.stCipher; with_reducible repeat' (first | exact hk | assumption | apply State.submitCipher_pins_of | (apply foldl_same (f := State.pins); rotate_left; intros) | (apply foldl_fst_same (f := State.pins); rotate_left; intros) | (apply foldl_snd_same (f := State.pins); rotate_left; intros) | (fail_if_no_progress (refine Eq.trans State.mk_pins ?_)) | split | dsimp only | intro)
@[simp] theorem State.stCipher_pins (s : State) (c : StCmd) (op : Nat) (first : Nat) (blocks : List (Nat × List Byte)) : (State.stCipher s c op first blocks).pins = s.pins := State.stCipher_pins_of _ _ _ _ _ rfl

theorem State.stCipher_clk_of {v : Clock} (s : State) (c : StCmd) (op : Nat) (first : Nat) (blocks : List (Nat × List Byte)) (hk : s.clk = v) : (State.stCipher s c op first blocks).clk = v := by
  unfold State.stCipher; with_reducible repeat' (first | exact hk | assumption | apply State.submitCipher_clk_of | (apply foldl_same (f := State.clk); rotate_left; intros) | (apply foldl_fst_same (f := State.clk); rotate_left; intros) | (apply foldl_snd_same (f := State.clk); rotate_left; intros) | (fail_if_no_progress (refine Eq.trans State.mk_clk ?_)) | split | dsimp only | intro)
@[simp] theorem State.stCipher_clk (s : State) (c : StCmd) (op : Nat) (first : Nat) (blocks : List (Nat × List Byte)) : (State.stCipher s c op first blocks).clk = s.clk := State.stCipher_clk_of _ _ _ _ _ rfl

theorem State.stZeroes_dev_of {v : Dev} (s : State) (c : StCmd) (hk : s.dev = v) : (State.stZeroes s c).dev = v := by
  unfold State.stZeroes; with_reducible repeat' (first | exact hk | assumption | refine Eq.trans (State.setCmd_dev ..) ?_ | apply State.stCipher_dev_of | (apply foldl_same (f := State.dev); rotate_left; intros) | (apply foldl_fst_same (f := State.dev); rotate_left; intros) | (apply foldl_snd_same (f := State.dev); rotate_left; intros) | (fail_if_no_progress (refine Eq.trans State.mk_dev ?_)) | split | dsimp only | intro)
@[simp] theorem State.stZeroes_dev (s : State) (c : StCmd) : (State.stZeroes s c).dev = s.dev := State.stZeroes_dev_of _ _ rfl

theorem State.stZeroes_pins_of {v : Pins} (s : State) (c : StCmd) (hk : s.pins = v) : (State.stZeroes s c).pins = v := by
  unfold State.stZeroes; with_reducible repeat' (first | exact hk | assumption | refine Eq.trans (State.setCmd_pins ..) ?_ | apply State.stCipher_pins_of | (apply foldl_same (f := State.pins); rotate_left; intros) | (apply foldl_fst_same (f := State.pins); rotate_left; intros) | (apply foldl_snd_same (f := State.pins); rotate_left; intros) | (fail_if_no_progress (refine Eq.trans State.mk_pins ?_)) | split | dsimp only | intro)
@[simp] theorem State.stZeroes_pins (s : State) (c : StCmd) : (State.stZeroes s c).pins = s.pins := State.stZeroes_pins_of _ _ rfl

theorem State.stZeroes_clk_of {v : Clock} (s : State) (c : StCmd) (hk : s.clk = v) : (State.stZeroes s c).clk = v := by
  unfold State.stZeroes; with_reducible repeat' (first | exact hk | assumption | refine Eq.trans (State.setCmd_clk ..) ?_ | apply State.stCipher_clk_of | (apply foldl_same (f := State.clk); rotate_left; intros) | (apply foldl_fst_same (f := State.clk); rotate_left; intros) | (apply foldl_snd_same (f := State.clk); rotate_left; intros) | (fail_if_no_progress (refine Eq.trans State.mk_clk ?_)) | split | dsimp only | intro)
@[simp] theorem State.stZeroes_clk (s : State) (c : StCmd) : (State.stZeroes s c).clk = s.clk := State.stZeroes_clk_of _ _ rfl

theorem State.stAnswered_dev_of {v : Dev} (s : State) (c : StCmd) (hk : s.dev = v) : (State.stAnswered s c).dev = v := by
  unfold State.stAnswered; with_reducible repeat' (first | exact hk | assumption | refine Eq.trans (State.setCmd_dev ..) ?_ | apply State.stZeroes_dev_of | apply State.stFinish_dev_of | (apply foldl_same (f := State.dev); rotate_left; intros) | (apply foldl_fst_same (f := State.dev); rotate_left; intros) | (apply foldl_snd_same (f := State.dev); rotate_left; intros) | (fail_if_no_progress (refine Eq.trans State.mk_dev ?_)) | split | dsimp only | intro)
@[simp] theorem State.stAnswered_dev (s : State) (c : StCmd) : (State.stAnswered s c).dev = s.dev := State.stAnswered_dev_of _ _ rfl

theorem State.stAnswered_pins_of {v : Pins} (s : State) (c : StCmd) (hk : s.pins = v) : (State.stAnswered s c).pins = v := by
  unfold State.stAnswered; with_reducible repeat' (first | exact hk | assumption | refine Eq.trans (State.setCmd_pins ..) ?_ | apply State.stZeroes_pins_of | apply State.stFinish_pins_of | (apply foldl_same (f := State.pins); rotate_left; intros) | (apply foldl_fst_same (f := State.pins); rotate_left; intros) | (apply foldl_snd_same (f := State.pins); rotate_left; intros) | (fail_if_no_progress (refine Eq.trans State.mk_pins ?_)) | split | dsimp only | intro)
@[simp] theorem State.stAnswered_pins (s : State) (c : StCmd) : (State.stAnswered s c).pins = s.pins := State.stAnswered_pins_of _ _ rfl

theorem State.stAnswered_clk_of {v : Clock} (s : State) (c : StCmd) (hk : s.clk = v) : (State.stAnswered s c).clk = v := by
  unfold State.stAnswered; with_reducible repeat' (first | exact hk | assumption | refine Eq.trans (State.setCmd_clk ..) ?_ | apply State.stZeroes_clk_of | apply State.stFinish_clk_of | (apply foldl_same (f := State.clk); rotate_left; intros) | (apply foldl_fst_same (f := State.clk); rotate_left; intros) | (apply foldl_snd_same (f := State.clk); rotate_left; intros) | (fail_if_no_progress (refine Eq.trans State.mk_clk ?_)) | split | dsimp only | intro)
@[simp] theorem State.stAnswered_clk (s : State) (c : StCmd) : (State.stAnswered s c).clk = s.clk := State.stAnswered_clk_of _ _ rfl

theorem State.stResult_dev_of {v : Dev} (s : State) (r : CipherResult) (hk : s.dev = v) : (State.stResult s r).dev = v := by
  unfold State.stResult; with_reducible repeat' (first | exact hk | assumption | apply State.stAnswered_dev_of | apply State.stFinish_dev_of | apply State.hostWrite_dev_of | refine Eq.trans (State.setCmd_dev ..) ?_ | apply State.stCapsule_dev_of | (apply foldl_same (f := State.dev); rotate_left; intros) | (apply foldl_fst_same (f := State.dev); rotate_left; intros) | (apply foldl_snd_same (f := State.dev); rotate_left; intros) | (fail_if_no_progress (refine Eq.trans State.mk_dev ?_)) | split | dsimp only | intro)
@[simp] theorem State.stResult_dev (s : State) (r : CipherResult) : (State.stResult s r).dev = s.dev := State.stResult_dev_of _ _ rfl

theorem State.stResult_pins_of {v : Pins} (s : State) (r : CipherResult) (hk : s.pins = v) : (State.stResult s r).pins = v := by
  unfold State.stResult; with_reducible repeat' (first | exact hk | assumption | apply State.stAnswered_pins_of | apply State.stFinish_pins_of | apply State.hostWrite_pins_of | refine Eq.trans (State.setCmd_pins ..) ?_ | apply State.stCapsule_pins_of | (apply foldl_same (f := State.pins); rotate_left; intros) | (apply foldl_fst_same (f := State.pins); rotate_left; intros) | (apply foldl_snd_same (f := State.pins); rotate_left; intros) | (fail_if_no_progress (refine Eq.trans State.mk_pins ?_)) | split | dsimp only | intro)
@[simp] theorem State.stResult_pins (s : State) (r : CipherResult) : (State.stResult s r).pins = s.pins := State.stResult_pins_of _ _ rfl

theorem State.stResult_clk_of {v : Clock} (s : State) (r : CipherResult) (hk : s.clk = v) : (State.stResult s r).clk = v := by
  unfold State.stResult; with_reducible repeat' (first | exact hk | assumption | apply State.stAnswered_clk_of | apply State.stFinish_clk_of | apply State.hostWrite_clk_of | refine Eq.trans (State.setCmd_clk ..) ?_ | apply State.stCapsule_clk_of | (apply foldl_same (f := State.clk); rotate_left; intros) | (apply foldl_fst_same (f := State.clk); rotate_left; intros) | (apply foldl_snd_same (f := State.clk); rotate_left; intros) | (fail_if_no_progress (refine Eq.trans State.mk_clk ?_)) | split | dsimp only | intro)
@[simp] theorem State.stResult_clk (s : State) (r : CipherResult) : (State.stResult s r).clk = s.clk := State.stResult_clk_of _ _ rfl

theorem State.settleStorage_dev_of {v : Dev} (s : State) (hk : s.dev = v) : (State.settleStorage s).dev = v := by
  unfold State.settleStorage; with_reducible repeat' (first | exact hk | assumption | apply State.stResult_dev_of | (apply foldl_same (f := State.dev); rotate_left; intros) | (apply foldl_fst_same (f := State.dev); rotate_left; intros) | (apply foldl_snd_same (f := State.dev); rotate_left; intros) | (fail_if_no_progress (refine Eq.trans State.mk_dev ?_)) | split | dsimp only | intro)
@[simp] theorem State.settleStorage_dev (s : State) : (State.settleStorage s).dev = s.dev := State.settleStorage_dev_of _ rfl

theorem State.settleStorage_pins_of {v : Pins} (s : State) (hk : s.pins = v) : (State.settleStorage s).pins = v := by
  unfold State.settleStorage; with_reducible repeat' (first | exact hk | assumption | apply State.stResult_pins_of | (apply foldl_same (f := State.pins); rotate_left; intros) | (apply foldl_fst_same (f := State.pins); rotate_left; intros) | (apply foldl_snd_same (f := State.pins); rotate_left; intros) | (fail_if_no_progress (refine Eq.trans State.mk_pins ?_)) | split | dsimp only | intro)
@[simp] theorem State.settleStorage_pins (s : State) : (State.settleStorage s).pins = s.pins := State.settleStorage_pins_of _ rfl

theorem State.settleStorage_clk_of {v : Clock} (s : State) (hk : s.clk = v) : (State.settleStorage s).clk = v := by
  unfold State.settleStorage; with_reducible repeat' (first | exact hk | assumption | apply State.stResult_clk_of | (apply foldl_same (f := State.clk); rotate_left; intros) | (apply foldl_fst_same (f := State.clk); rotate_left; intros) | (apply foldl_snd_same (f := State.clk); rotate_left; intros) | (fail_if_no_progress (refine Eq.trans State.mk_clk ?_)) | split | dsimp only | intro)
@[simp] theorem State.settleStorage_clk (s : State) : (State.settleStorage s).clk = s.clk := State.settleStorage_clk_of _ rfl

theorem State.settle_dev_of {v : Dev} (s : State) (hk : s.dev = v) : (State.settle s).dev = v := by
  unfold State.settle; with_reducible repeat' (first | exact hk | assumption | apply State.settleTunnel_dev_of | apply State.settleStorage_dev_of | (apply foldl_same (f := State.dev); rotate_left; intros) | (apply foldl_fst_same (f := State.dev); rotate_left; intros) | (apply foldl_snd_same (f := State.dev); rotate_left; intros) | (fail_if_no_progress (refine Eq.trans State.mk_dev ?_)) | split | dsimp only | intro)
@[simp] theorem State.settle_dev (s : State) : (State.settle s).dev = s.dev := State.settle_dev_of _ rfl

theorem State.settle_pins_of {v : Pins} (s : State) (hk : s.pins = v) : (State.settle s).pins = v := by
  unfold State.settle; with_reducible repeat' (first | exact hk | assumption | apply State.settleTunnel_pins_of | apply State.settleStorage_pins_of | (apply foldl_same (f := State.pins); rotate_left; intros) | (apply foldl_fst_same (f := State.pins); rotate_left; intros) | (apply foldl_snd_same (f := State.pins); rotate_left; intros) | (fail_if_no_progress (refine Eq.trans State.mk_pins ?_)) | split | dsimp only | intro)
@[simp] theorem State.settle_pins (s : State) : (State.settle s).pins = s.pins := State.settle_pins_of _ rfl

theorem State.settle_clk_of {v : Clock} (s : State) (hk : s.clk = v) : (State.settle s).clk = v := by
  unfold State.settle; with_reducible repeat' (first | exact hk | assumption | apply State.settleTunnel_clk_of | apply State.settleStorage_clk_of | (apply foldl_same (f := State.clk); rotate_left; intros) | (apply foldl_fst_same (f := State.clk); rotate_left; intros) | (apply foldl_snd_same (f := State.clk); rotate_left; intros) | (fail_if_no_progress (refine Eq.trans State.mk_clk ?_)) | split | dsimp only | intro)
@[simp] theorem State.settle_clk (s : State) : (State.settle s).clk = s.clk := State.settle_clk_of _ rfl

theorem State.leaveRunning_dev_of {v : Dev} (s : State) (n : Nat) (curtain : Bool) (hk : s.dev = v) : (State.leaveRunning s n curtain).dev = v := by
  unfold State.leaveRunning; with_reducible repeat' (first | exact hk | assumption | apply State.queueCurtain_dev_of | apply State.queueDrop_dev_of | apply State.dropCopy_dev_of | apply State.retag_dev_of | refine Eq.trans (State.bump_dev ..) ?_ | apply State.collect_dev_of | refine Eq.trans (State.setFld_dev ..) ?_ | (apply foldl_same (f := State.dev); rotate_left; intros) | (apply foldl_fst_same (f := State.dev); rotate_left; intros) | (apply foldl_snd_same (f := State.dev); rotate_left; intros) | (fail_if_no_progress (refine Eq.trans State.mk_dev ?_)) | split | dsimp only | intro)
@[simp] theorem State.leaveRunning_dev (s : State) (n : Nat) (curtain : Bool) : (State.leaveRunning s n curtain).dev = s.dev := State.leaveRunning_dev_of _ _ _ rfl

theorem State.leaveRunning_pins_of {v : Pins} (s : State) (n : Nat) (curtain : Bool) (hk : s.pins = v) : (State.leaveRunning s n curtain).pins = v := by
  unfold State.leaveRunning; with_reducible repeat' (first | exact hk | assumption | apply State.queueCurtain_pins_of | apply State.queueDrop_pins_of | apply State.dropCopy_pins_of | apply State.retag_pins_of | refine Eq.trans (State.bump_pins ..) ?_ | apply State.collect_pins_of | refine Eq.trans (State.setFld_pins ..) ?_ | (apply foldl_same (f := State.pins); rotate_left; intros) | (apply foldl_fst_same (f := State.pins); rotate_left; intros) | (apply foldl_snd_same (f := State.pins); rotate_left; intros) | (fail_if_no_progress (refine Eq.trans State.mk_pins ?_)) | split | dsimp only | intro)
@[simp] theorem State.leaveRunning_pins (s : State) (n : Nat) (curtain : Bool) : (State.leaveRunning s n curtain).pins = s.pins := State.leaveRunning_pins_of _ _ _ rfl

theorem State.leaveRunning_clk_of {v : Clock} (s : State) (n : Nat) (curtain : Bool) (hk : s.clk = v) : (State.leaveRunning s n curtain).clk = v := by
  unfold State.leaveRunning; with_reducible repeat' (first | exact hk | assumption | apply State.queueCurtain_clk_of | apply State.queueDrop_clk_of | apply State.dropCopy_clk_of | apply State.retag_clk_of | refine Eq.trans (State.bump_clk ..) ?_ | apply State.collect_clk_of | refine Eq.trans (State.setFld_clk ..) ?_ | (apply foldl_same (f := State.clk); rotate_left; intros) | (apply foldl_fst_same (f := State.clk); rotate_left; intros) | (apply foldl_snd_same (f := State.clk); rotate_left; intros) | (fail_if_no_progress (refine Eq.trans State.mk_clk ?_)) | split | dsimp only | intro)
@[simp] theorem State.leaveRunning_clk (s : State) (n : Nat) (curtain : Bool) : (State.leaveRunning s n curtain).clk = s.clk := State.leaveRunning_clk_of _ _ _ rfl

theorem State.stopSlice_dev_of {v : Dev} (s : State) (n : Nat) (byHost : Bool) (status : Nat) (hk : s.dev = v) : (State.stopSlice s n byHost status).dev = v := by
  unfold State.stopSlice; with_reducible repeat' (first | exact hk | assumption | apply State.haltChannels_dev_of | apply State.leaveRunning_dev_of | apply State.advance_dev_of | refine Eq.trans (State.setFld_dev ..) ?_ | (apply foldl_same (f := State.dev); rotate_left; intros) | (apply foldl_fst_same (f := State.dev); rotate_left; intros) | (apply foldl_snd_same (f := State.dev); rotate_left; intros) | (fail_if_no_progress (refine Eq.trans State.mk_dev ?_)) | split | dsimp only | intro)
@[simp] theorem State.stopSlice_dev (s : State) (n : Nat) (byHost : Bool) (status : Nat) : (State.stopSlice s n byHost status).dev = s.dev := State.stopSlice_dev_of _ _ _ _ rfl

theorem State.stopSlice_pins_of {v : Pins} (s : State) (n : Nat) (byHost : Bool) (status : Nat) (hk : s.pins = v) : (State.stopSlice s n byHost status).pins = v := by
  unfold State.stopSlice; with_reducible repeat' (first | exact hk | assumption | apply State.haltChannels_pins_of | apply State.leaveRunning_pins_of | apply State.advance_pins_of | refine Eq.trans (State.setFld_pins ..) ?_ | (apply foldl_same (f := State.pins); rotate_left; intros) | (apply foldl_fst_same (f := State.pins); rotate_left; intros) | (apply foldl_snd_same (f := State.pins); rotate_left; intros) | (fail_if_no_progress (refine Eq.trans State.mk_pins ?_)) | split | dsimp only | intro)
@[simp] theorem State.stopSlice_pins (s : State) (n : Nat) (byHost : Bool) (status : Nat) : (State.stopSlice s n byHost status).pins = s.pins := State.stopSlice_pins_of _ _ _ _ rfl

theorem State.stopSlice_clk_of {v : Clock} (s : State) (n : Nat) (byHost : Bool) (status : Nat) (hk : s.clk = v) : (State.stopSlice s n byHost status).clk = v := by
  unfold State.stopSlice; with_reducible repeat' (first | exact hk | assumption | apply State.haltChannels_clk_of | apply State.leaveRunning_clk_of | apply State.advance_clk_of | refine Eq.trans (State.setFld_clk ..) ?_ | (apply foldl_same (f := State.clk); rotate_left; intros) | (apply foldl_fst_same (f := State.clk); rotate_left; intros) | (apply foldl_snd_same (f := State.clk); rotate_left; intros) | (fail_if_no_progress (refine Eq.trans State.mk_clk ?_)) | split | dsimp only | intro)
@[simp] theorem State.stopSlice_clk (s : State) (n : Nat) (byHost : Bool) (status : Nat) : (State.stopSlice s n byHost status).clk = s.clk := State.stopSlice_clk_of _ _ _ _ rfl

theorem State.curtainSlice_dev_of {v : Dev} (s : State) (n : Nat) (hk : s.dev = v) : (State.curtainSlice s n).dev = v := by
  unfold State.curtainSlice; with_reducible repeat' (first | exact hk | assumption | apply State.haltChannels_dev_of | apply State.leaveRunning_dev_of | apply State.queueCurtain_dev_of | refine Eq.trans (State.setFld_dev ..) ?_ | (apply foldl_same (f := State.dev); rotate_left; intros) | (apply foldl_fst_same (f := State.dev); rotate_left; intros) | (apply foldl_snd_same (f := State.dev); rotate_left; intros) | (fail_if_no_progress (refine Eq.trans State.mk_dev ?_)) | split | dsimp only | intro)
@[simp] theorem State.curtainSlice_dev (s : State) (n : Nat) : (State.curtainSlice s n).dev = s.dev := State.curtainSlice_dev_of _ _ rfl

theorem State.curtainSlice_pins_of {v : Pins} (s : State) (n : Nat) (hk : s.pins = v) : (State.curtainSlice s n).pins = v := by
  unfold State.curtainSlice; with_reducible repeat' (first | exact hk | assumption | apply State.haltChannels_pins_of | apply State.leaveRunning_pins_of | apply State.queueCurtain_pins_of | refine Eq.trans (State.setFld_pins ..) ?_ | (apply foldl_same (f := State.pins); rotate_left; intros) | (apply foldl_fst_same (f := State.pins); rotate_left; intros) | (apply foldl_snd_same (f := State.pins); rotate_left; intros) | (fail_if_no_progress (refine Eq.trans State.mk_pins ?_)) | split | dsimp only | intro)
@[simp] theorem State.curtainSlice_pins (s : State) (n : Nat) : (State.curtainSlice s n).pins = s.pins := State.curtainSlice_pins_of _ _ rfl

theorem State.curtainSlice_clk_of {v : Clock} (s : State) (n : Nat) (hk : s.clk = v) : (State.curtainSlice s n).clk = v := by
  unfold State.curtainSlice; with_reducible repeat' (first | exact hk | assumption | apply State.haltChannels_clk_of | apply State.leaveRunning_clk_of | apply State.queueCurtain_clk_of | refine Eq.trans (State.setFld_clk ..) ?_ | (apply foldl_same (f := State.clk); rotate_left; intros) | (apply foldl_fst_same (f := State.clk); rotate_left; intros) | (apply foldl_snd_same (f := State.clk); rotate_left; intros) | (fail_if_no_progress (refine Eq.trans State.mk_clk ?_)) | split | dsimp only | intro)
@[simp] theorem State.curtainSlice_clk (s : State) (n : Nat) : (State.curtainSlice s n).clk = s.clk := State.curtainSlice_clk_of _ _ rfl

theorem State.dropTaken_dev_of {v : Dev} (s : State) (l : Nat) (hk : s.dev = v) : (State.dropTaken s l).dev = v := by
  unfold State.dropTaken; with_reducible repeat' (first | exact hk | assumption | refine Eq.trans (State.bumpBy_dev ..) ?_ | apply State.stFinish_dev_of | (apply foldl_same (f := State.dev); rotate_left; intros) | (apply foldl_fst_same (f := State.dev); rotate_left; intros) | (apply foldl_snd_same (f := State.dev); rotate_left; intros) | (fail_if_no_progress (refine Eq.trans State.mk_dev ?_)) | split | dsimp only | intro)
@[simp] theorem State.dropTaken_dev (s : State) (l : Nat) : (State.dropTaken s l).dev = s.dev := State.dropTaken_dev_of _ _ rfl

theorem State.dropTaken_pins_of {v : Pins} (s : State) (l : Nat) (hk : s.pins = v) : (State.dropTaken s l).pins = v := by
  unfold State.dropTaken; with_reducible repeat' (first | exact hk | assumption | refine Eq.trans (State.bumpBy_pins ..) ?_ | apply State.stFinish_pins_of | (apply foldl_same (f := State.pins); rotate_left; intros) | (apply foldl_fst_same (f := State.pins); rotate_left; intros) | (apply foldl_snd_same (f := State.pins); rotate_left; intros) | (fail_if_no_progress (refine Eq.trans State.mk_pins ?_)) | split | dsimp only | intro)
@[simp] theorem State.dropTaken_pins (s : State) (l : Nat) : (State.dropTaken s l).pins = s.pins := State.dropTaken_pins_of _ _ rfl

theorem State.dropTaken_clk_of {v : Clock} (s : State) (l : Nat) (hk : s.clk = v) : (State.dropTaken s l).clk = v := by
  unfold State.dropTaken; with_reducible repeat' (first | exact hk | assumption | refine Eq.trans (State.bumpBy_clk ..) ?_ | apply State.stFinish_clk_of | (apply foldl_same (f := State.clk); rotate_left; intros) | (apply foldl_fst_same (f := State.clk); rotate_left; intros) | (apply foldl_snd_same (f := State.clk); rotate_left; intros) | (fail_if_no_progress (refine Eq.trans State.mk_clk ?_)) | split | dsimp only | intro)
@[simp] theorem State.dropTaken_clk (s : State) (l : Nat) : (State.dropTaken s l).clk = s.clk := State.dropTaken_clk_of _ _ rfl

theorem State.masterStop_dev_of {v : Dev} (s : State) (l : Nat) (hk : s.dev = v) : (State.masterStop s l).dev = v := by
  unfold State.masterStop; with_reducible repeat' (first | exact hk | assumption | apply State.withdrawHeld_dev_of | apply State.failReads_dev_of | apply State.haltChannels_dev_of | apply State.stopSlice_dev_of | apply State.dropTaken_dev_of | (apply foldl_same (f := State.dev); rotate_left; intros) | (apply foldl_fst_same (f := State.dev); rotate_left; intros) | (apply foldl_snd_same (f := State.dev); rotate_left; intros) | (fail_if_no_progress (refine Eq.trans State.mk_dev ?_)) | split | dsimp only | intro)
@[simp] theorem State.masterStop_dev (s : State) (l : Nat) : (State.masterStop s l).dev = s.dev := State.masterStop_dev_of _ _ rfl

theorem State.masterStop_pins_of {v : Pins} (s : State) (l : Nat) (hk : s.pins = v) : (State.masterStop s l).pins = v := by
  unfold State.masterStop; with_reducible repeat' (first | exact hk | assumption | apply State.withdrawHeld_pins_of | apply State.failReads_pins_of | apply State.haltChannels_pins_of | apply State.stopSlice_pins_of | apply State.dropTaken_pins_of | (apply foldl_same (f := State.pins); rotate_left; intros) | (apply foldl_fst_same (f := State.pins); rotate_left; intros) | (apply foldl_snd_same (f := State.pins); rotate_left; intros) | (fail_if_no_progress (refine Eq.trans State.mk_pins ?_)) | split | dsimp only | intro)
@[simp] theorem State.masterStop_pins (s : State) (l : Nat) : (State.masterStop s l).pins = s.pins := State.masterStop_pins_of _ _ rfl

theorem State.masterStop_clk_of {v : Clock} (s : State) (l : Nat) (hk : s.clk = v) : (State.masterStop s l).clk = v := by
  unfold State.masterStop; with_reducible repeat' (first | exact hk | assumption | apply State.withdrawHeld_clk_of | apply State.failReads_clk_of | apply State.haltChannels_clk_of | apply State.stopSlice_clk_of | apply State.dropTaken_clk_of | (apply foldl_same (f := State.clk); rotate_left; intros) | (apply foldl_fst_same (f := State.clk); rotate_left; intros) | (apply foldl_snd_same (f := State.clk); rotate_left; intros) | (fail_if_no_progress (refine Eq.trans State.mk_clk ?_)) | split | dsimp only | intro)
@[simp] theorem State.masterStop_clk (s : State) (l : Nat) : (State.masterStop s l).clk = s.clk := State.masterStop_clk_of _ _ rfl

theorem State.freshSizes_dev_of {v : Dev} (s : State) (l : Nat) (hk : s.dev = v) : (State.freshSizes s l).dev = v := by
  unfold State.freshSizes; with_reducible repeat' (first | exact hk | assumption | refine Eq.trans (State.setHostLink_dev ..) ?_ | (apply foldl_same (f := State.dev); rotate_left; intros) | (apply foldl_fst_same (f := State.dev); rotate_left; intros) | (apply foldl_snd_same (f := State.dev); rotate_left; intros) | (fail_if_no_progress (refine Eq.trans State.mk_dev ?_)) | split | dsimp only | intro)
@[simp] theorem State.freshSizes_dev (s : State) (l : Nat) : (State.freshSizes s l).dev = s.dev := State.freshSizes_dev_of _ _ rfl

theorem State.freshSizes_pins_of {v : Pins} (s : State) (l : Nat) (hk : s.pins = v) : (State.freshSizes s l).pins = v := by
  unfold State.freshSizes; with_reducible repeat' (first | exact hk | assumption | refine Eq.trans (State.setHostLink_pins ..) ?_ | (apply foldl_same (f := State.pins); rotate_left; intros) | (apply foldl_fst_same (f := State.pins); rotate_left; intros) | (apply foldl_snd_same (f := State.pins); rotate_left; intros) | (fail_if_no_progress (refine Eq.trans State.mk_pins ?_)) | split | dsimp only | intro)
@[simp] theorem State.freshSizes_pins (s : State) (l : Nat) : (State.freshSizes s l).pins = s.pins := State.freshSizes_pins_of _ _ rfl

theorem State.freshSizes_clk_of {v : Clock} (s : State) (l : Nat) (hk : s.clk = v) : (State.freshSizes s l).clk = v := by
  unfold State.freshSizes; with_reducible repeat' (first | exact hk | assumption | refine Eq.trans (State.setHostLink_clk ..) ?_ | (apply foldl_same (f := State.clk); rotate_left; intros) | (apply foldl_fst_same (f := State.clk); rotate_left; intros) | (apply foldl_snd_same (f := State.clk); rotate_left; intros) | (fail_if_no_progress (refine Eq.trans State.mk_clk ?_)) | split | dsimp only | intro)
@[simp] theorem State.freshSizes_clk (s : State) (l : Nat) : (State.freshSizes s l).clk = s.clk := State.freshSizes_clk_of _ _ rfl

theorem State.freshSizes_vlt_of {v : Vlt} (s : State) (l : Nat) (hk : s.vlt = v) : (State.freshSizes s l).vlt = v := by
  unfold State.freshSizes; with_reducible repeat' (first | exact hk | assumption | refine Eq.trans (State.setHostLink_vlt ..) ?_ | (apply foldl_same (f := State.vlt); rotate_left; intros) | (apply foldl_fst_same (f := State.vlt); rotate_left; intros) | (apply foldl_snd_same (f := State.vlt); rotate_left; intros) | (fail_if_no_progress (refine Eq.trans State.mk_vlt ?_)) | split | dsimp only | intro)
@[simp] theorem State.freshSizes_vlt (s : State) (l : Nat) : (State.freshSizes s l).vlt = s.vlt := State.freshSizes_vlt_of _ _ rfl

theorem State.freshSizes_mem_of {v : Mem} (s : State) (l : Nat) (hk : s.mem = v) : (State.freshSizes s l).mem = v := by
  unfold State.freshSizes; with_reducible repeat' (first | exact hk | assumption | refine Eq.trans (State.setHostLink_mem ..) ?_ | (apply foldl_same (f := State.mem); rotate_left; intros) | (apply foldl_fst_same (f := State.mem); rotate_left; intros) | (apply foldl_snd_same (f := State.mem); rotate_left; intros) | (fail_if_no_progress (refine Eq.trans State.mk_mem ?_)) | split | dsimp only | intro)
@[simp] theorem State.freshSizes_mem (s : State) (l : Nat) : (State.freshSizes s l).mem = s.mem := State.freshSizes_mem_of _ _ rfl

theorem State.resetFunc_dev_of {v : Dev} (s : State) (l : Nat) (fn : Nat) (flr : Bool) (hk : s.dev = v) : (State.resetFunc s l fn flr).dev = v := by
  unfold State.resetFunc; with_reducible repeat' (first | exact hk | assumption | apply State.setFunc_dev_of | apply State.freshSizes_dev_of | (apply foldl_same (f := State.dev); rotate_left; intros) | (apply foldl_fst_same (f := State.dev); rotate_left; intros) | (apply foldl_snd_same (f := State.dev); rotate_left; intros) | (fail_if_no_progress (refine Eq.trans State.mk_dev ?_)) | split | dsimp only | intro)
@[simp] theorem State.resetFunc_dev (s : State) (l : Nat) (fn : Nat) (flr : Bool) : (State.resetFunc s l fn flr).dev = s.dev := State.resetFunc_dev_of _ _ _ _ rfl

theorem State.resetFunc_pins_of {v : Pins} (s : State) (l : Nat) (fn : Nat) (flr : Bool) (hk : s.pins = v) : (State.resetFunc s l fn flr).pins = v := by
  unfold State.resetFunc; with_reducible repeat' (first | exact hk | assumption | apply State.setFunc_pins_of | apply State.freshSizes_pins_of | (apply foldl_same (f := State.pins); rotate_left; intros) | (apply foldl_fst_same (f := State.pins); rotate_left; intros) | (apply foldl_snd_same (f := State.pins); rotate_left; intros) | (fail_if_no_progress (refine Eq.trans State.mk_pins ?_)) | split | dsimp only | intro)
@[simp] theorem State.resetFunc_pins (s : State) (l : Nat) (fn : Nat) (flr : Bool) : (State.resetFunc s l fn flr).pins = s.pins := State.resetFunc_pins_of _ _ _ _ rfl

theorem State.resetFunc_clk_of {v : Clock} (s : State) (l : Nat) (fn : Nat) (flr : Bool) (hk : s.clk = v) : (State.resetFunc s l fn flr).clk = v := by
  unfold State.resetFunc; with_reducible repeat' (first | exact hk | assumption | apply State.setFunc_clk_of | apply State.freshSizes_clk_of | (apply foldl_same (f := State.clk); rotate_left; intros) | (apply foldl_fst_same (f := State.clk); rotate_left; intros) | (apply foldl_snd_same (f := State.clk); rotate_left; intros) | (fail_if_no_progress (refine Eq.trans State.mk_clk ?_)) | split | dsimp only | intro)
@[simp] theorem State.resetFunc_clk (s : State) (l : Nat) (fn : Nat) (flr : Bool) : (State.resetFunc s l fn flr).clk = s.clk := State.resetFunc_clk_of _ _ _ _ rfl

theorem State.functionReset_dev_of {v : Dev} (s : State) (l : Nat) (fn : Nat) (hk : s.dev = v) : (State.functionReset s l fn).dev = v := by
  unfold State.functionReset; with_reducible repeat' (first | exact hk | assumption | refine Eq.trans (State.bump_dev ..) ?_ | apply State.retireLink_dev_of | apply State.masterStop_dev_of | apply State.resetFunc_dev_of | (apply foldl_same (f := State.dev); rotate_left; intros) | (apply foldl_fst_same (f := State.dev); rotate_left; intros) | (apply foldl_snd_same (f := State.dev); rotate_left; intros) | (fail_if_no_progress (refine Eq.trans State.mk_dev ?_)) | split | dsimp only | intro)
@[simp] theorem State.functionReset_dev (s : State) (l : Nat) (fn : Nat) : (State.functionReset s l fn).dev = s.dev := State.functionReset_dev_of _ _ _ rfl

theorem State.functionReset_pins_of {v : Pins} (s : State) (l : Nat) (fn : Nat) (hk : s.pins = v) : (State.functionReset s l fn).pins = v := by
  unfold State.functionReset; with_reducible repeat' (first | exact hk | assumption | refine Eq.trans (State.bump_pins ..) ?_ | apply State.retireLink_pins_of | apply State.masterStop_pins_of | apply State.resetFunc_pins_of | (apply foldl_same (f := State.pins); rotate_left; intros) | (apply foldl_fst_same (f := State.pins); rotate_left; intros) | (apply foldl_snd_same (f := State.pins); rotate_left; intros) | (fail_if_no_progress (refine Eq.trans State.mk_pins ?_)) | split | dsimp only | intro)
@[simp] theorem State.functionReset_pins (s : State) (l : Nat) (fn : Nat) : (State.functionReset s l fn).pins = s.pins := State.functionReset_pins_of _ _ _ rfl

theorem State.functionReset_clk_of {v : Clock} (s : State) (l : Nat) (fn : Nat) (hk : s.clk = v) : (State.functionReset s l fn).clk = v := by
  unfold State.functionReset; with_reducible repeat' (first | exact hk | assumption | refine Eq.trans (State.bump_clk ..) ?_ | apply State.retireLink_clk_of | apply State.masterStop_clk_of | apply State.resetFunc_clk_of | (apply foldl_same (f := State.clk); rotate_left; intros) | (apply foldl_fst_same (f := State.clk); rotate_left; intros) | (apply foldl_snd_same (f := State.clk); rotate_left; intros) | (fail_if_no_progress (refine Eq.trans State.mk_clk ?_)) | split | dsimp only | intro)
@[simp] theorem State.functionReset_clk (s : State) (l : Nat) (fn : Nat) : (State.functionReset s l fn).clk = s.clk := State.functionReset_clk_of _ _ _ rfl

theorem State.hostLinkDown_dev_of {v : Dev} (s : State) (l : Nat) (hk : s.dev = v) : (State.hostLinkDown s l).dev = v := by
  unfold State.hostLinkDown; with_reducible repeat' (first | exact hk | assumption | apply State.functionReset_dev_of | apply State.dropHeld_dev_of | refine Eq.trans (State.setHostLink_dev ..) ?_ | (apply foldl_same (f := State.dev); rotate_left; intros) | (apply foldl_fst_same (f := State.dev); rotate_left; intros) | (apply foldl_snd_same (f := State.dev); rotate_left; intros) | (fail_if_no_progress (refine Eq.trans State.mk_dev ?_)) | split | dsimp only | intro)
@[simp] theorem State.hostLinkDown_dev (s : State) (l : Nat) : (State.hostLinkDown s l).dev = s.dev := State.hostLinkDown_dev_of _ _ rfl

theorem State.hostLinkDown_pins_of {v : Pins} (s : State) (l : Nat) (hk : s.pins = v) : (State.hostLinkDown s l).pins = v := by
  unfold State.hostLinkDown; with_reducible repeat' (first | exact hk | assumption | apply State.functionReset_pins_of | apply State.dropHeld_pins_of | refine Eq.trans (State.setHostLink_pins ..) ?_ | (apply foldl_same (f := State.pins); rotate_left; intros) | (apply foldl_fst_same (f := State.pins); rotate_left; intros) | (apply foldl_snd_same (f := State.pins); rotate_left; intros) | (fail_if_no_progress (refine Eq.trans State.mk_pins ?_)) | split | dsimp only | intro)
@[simp] theorem State.hostLinkDown_pins (s : State) (l : Nat) : (State.hostLinkDown s l).pins = s.pins := State.hostLinkDown_pins_of _ _ rfl

theorem State.hostLinkDown_clk_of {v : Clock} (s : State) (l : Nat) (hk : s.clk = v) : (State.hostLinkDown s l).clk = v := by
  unfold State.hostLinkDown; with_reducible repeat' (first | exact hk | assumption | apply State.functionReset_clk_of | apply State.dropHeld_clk_of | refine Eq.trans (State.setHostLink_clk ..) ?_ | (apply foldl_same (f := State.clk); rotate_left; intros) | (apply foldl_fst_same (f := State.clk); rotate_left; intros) | (apply foldl_snd_same (f := State.clk); rotate_left; intros) | (fail_if_no_progress (refine Eq.trans State.mk_clk ?_)) | split | dsimp only | intro)
@[simp] theorem State.hostLinkDown_clk (s : State) (l : Nat) : (State.hostLinkDown s l).clk = s.clk := State.hostLinkDown_clk_of _ _ rfl

theorem State.stallClear_dev_of {v : Dev} (s : State) (k : Nat) (hk : s.dev = v) : (State.stallClear s k).dev = v := by
  unfold State.stallClear; with_reducible repeat' (first | exact hk | assumption | refine Eq.trans (State.setCore_dev ..) ?_ | (apply foldl_same (f := State.dev); rotate_left; intros) | (apply foldl_fst_same (f := State.dev); rotate_left; intros) | (apply foldl_snd_same (f := State.dev); rotate_left; intros) | (fail_if_no_progress (refine Eq.trans State.mk_dev ?_)) | split | dsimp only | intro)
@[simp] theorem State.stallClear_dev (s : State) (k : Nat) : (State.stallClear s k).dev = s.dev := State.stallClear_dev_of _ _ rfl

theorem State.stallClear_pins_of {v : Pins} (s : State) (k : Nat) (hk : s.pins = v) : (State.stallClear s k).pins = v := by
  unfold State.stallClear; with_reducible repeat' (first | exact hk | assumption | refine Eq.trans (State.setCore_pins ..) ?_ | (apply foldl_same (f := State.pins); rotate_left; intros) | (apply foldl_fst_same (f := State.pins); rotate_left; intros) | (apply foldl_snd_same (f := State.pins); rotate_left; intros) | (fail_if_no_progress (refine Eq.trans State.mk_pins ?_)) | split | dsimp only | intro)
@[simp] theorem State.stallClear_pins (s : State) (k : Nat) : (State.stallClear s k).pins = s.pins := State.stallClear_pins_of _ _ rfl

theorem State.stallClear_clk_of {v : Clock} (s : State) (k : Nat) (hk : s.clk = v) : (State.stallClear s k).clk = v := by
  unfold State.stallClear; with_reducible repeat' (first | exact hk | assumption | refine Eq.trans (State.setCore_clk ..) ?_ | (apply foldl_same (f := State.clk); rotate_left; intros) | (apply foldl_fst_same (f := State.clk); rotate_left; intros) | (apply foldl_snd_same (f := State.clk); rotate_left; intros) | (fail_if_no_progress (refine Eq.trans State.mk_clk ?_)) | split | dsimp only | intro)
@[simp] theorem State.stallClear_clk (s : State) (k : Nat) : (State.stallClear s k).clk = s.clk := State.stallClear_clk_of _ _ rfl

theorem State.issued_dev_of {v : Dev} (s : State) (t : Nat) (hk : s.dev = v) : (State.issued s t).dev = v := by
  unfold State.issued; with_reducible repeat' (first | exact hk | assumption | refine Eq.trans (State.setCore_dev ..) ?_ | apply State.stallClear_dev_of | (apply foldl_same (f := State.dev); rotate_left; intros) | (apply foldl_fst_same (f := State.dev); rotate_left; intros) | (apply foldl_snd_same (f := State.dev); rotate_left; intros) | (fail_if_no_progress (refine Eq.trans State.mk_dev ?_)) | split | dsimp only | intro)
@[simp] theorem State.issued_dev (s : State) (t : Nat) : (State.issued s t).dev = s.dev := State.issued_dev_of _ _ rfl

theorem State.issued_pins_of {v : Pins} (s : State) (t : Nat) (hk : s.pins = v) : (State.issued s t).pins = v := by
  unfold State.issued; with_reducible repeat' (first | exact hk | assumption | refine Eq.trans (State.setCore_pins ..) ?_ | apply State.stallClear_pins_of | (apply foldl_same (f := State.pins); rotate_left; intros) | (apply foldl_fst_same (f := State.pins); rotate_left; intros) | (apply foldl_snd_same (f := State.pins); rotate_left; intros) | (fail_if_no_progress (refine Eq.trans State.mk_pins ?_)) | split | dsimp only | intro)
@[simp] theorem State.issued_pins (s : State) (t : Nat) : (State.issued s t).pins = s.pins := State.issued_pins_of _ _ rfl

theorem State.issued_clk_of {v : Clock} (s : State) (t : Nat) (hk : s.clk = v) : (State.issued s t).clk = v := by
  unfold State.issued; with_reducible repeat' (first | exact hk | assumption | refine Eq.trans (State.setCore_clk ..) ?_ | apply State.stallClear_clk_of | (apply foldl_same (f := State.clk); rotate_left; intros) | (apply foldl_fst_same (f := State.clk); rotate_left; intros) | (apply foldl_snd_same (f := State.clk); rotate_left; intros) | (fail_if_no_progress (refine Eq.trans State.mk_clk ?_)) | split | dsimp only | intro)
@[simp] theorem State.issued_clk (s : State) (t : Nat) : (State.issued s t).clk = s.clk := State.issued_clk_of _ _ rfl

theorem State.writePlace_dev_of {v : Dev} (s : State) (p : Place) (bs : List Byte) (hk : s.dev = v) : (State.writePlace s p bs).dev = v := by
  unfold State.writePlace; with_reducible repeat' (first | exact hk | assumption | apply State.writeDmem_dev_of | apply State.writeShared_dev_of | apply State.writeWindow_dev_of | (apply foldl_same (f := State.dev); rotate_left; intros) | (apply foldl_fst_same (f := State.dev); rotate_left; intros) | (apply foldl_snd_same (f := State.dev); rotate_left; intros) | (fail_if_no_progress (refine Eq.trans State.mk_dev ?_)) | split | dsimp only | intro)
@[simp] theorem State.writePlace_dev (s : State) (p : Place) (bs : List Byte) : (State.writePlace s p bs).dev = s.dev := State.writePlace_dev_of _ _ _ rfl

theorem State.writePlace_pins_of {v : Pins} (s : State) (p : Place) (bs : List Byte) (hk : s.pins = v) : (State.writePlace s p bs).pins = v := by
  unfold State.writePlace; with_reducible repeat' (first | exact hk | assumption | apply State.writeDmem_pins_of | apply State.writeShared_pins_of | apply State.writeWindow_pins_of | (apply foldl_same (f := State.pins); rotate_left; intros) | (apply foldl_fst_same (f := State.pins); rotate_left; intros) | (apply foldl_snd_same (f := State.pins); rotate_left; intros) | (fail_if_no_progress (refine Eq.trans State.mk_pins ?_)) | split | dsimp only | intro)
@[simp] theorem State.writePlace_pins (s : State) (p : Place) (bs : List Byte) : (State.writePlace s p bs).pins = s.pins := State.writePlace_pins_of _ _ _ rfl

theorem State.writePlace_clk_of {v : Clock} (s : State) (p : Place) (bs : List Byte) (hk : s.clk = v) : (State.writePlace s p bs).clk = v := by
  unfold State.writePlace; with_reducible repeat' (first | exact hk | assumption | apply State.writeDmem_clk_of | apply State.writeShared_clk_of | apply State.writeWindow_clk_of | (apply foldl_same (f := State.clk); rotate_left; intros) | (apply foldl_fst_same (f := State.clk); rotate_left; intros) | (apply foldl_snd_same (f := State.clk); rotate_left; intros) | (fail_if_no_progress (refine Eq.trans State.mk_clk ?_)) | split | dsimp only | intro)
@[simp] theorem State.writePlace_clk (s : State) (p : Place) (bs : List Byte) : (State.writePlace s p bs).clk = s.clk := State.writePlace_clk_of _ _ _ rfl

theorem State.opResult_dev_of {v : Dev} (s : State) (t : Nat) (c : Nat) (result : List Byte) (hk : s.dev = v) : (State.opResult s t c result).dev = v := by
  unfold State.opResult; with_reducible repeat' (first | exact hk | assumption | (apply foldl_same (f := State.dev); rotate_left; intros) | (apply foldl_fst_same (f := State.dev); rotate_left; intros) | (apply foldl_snd_same (f := State.dev); rotate_left; intros) | (fail_if_no_progress (refine Eq.trans State.mk_dev ?_)) | split | dsimp only | intro)
@[simp] theorem State.opResult_dev (s : State) (t : Nat) (c : Nat) (result : List Byte) : (State.opResult s t c result).dev = s.dev := State.opResult_dev_of _ _ _ _ rfl

theorem State.opResult_pins_of {v : Pins} (s : State) (t : Nat) (c : Nat) (result : List Byte) (hk : s.pins = v) : (State.opResult s t c result).pins = v := by
  unfold State.opResult; with_reducible repeat' (first | exact hk | assumption | (apply foldl_same (f := State.pins); rotate_left; intros) | (apply foldl_fst_same (f := State.pins); rotate_left; intros) | (apply foldl_snd_same (f := State.pins); rotate_left; intros) | (fail_if_no_progress (refine Eq.trans State.mk_pins ?_)) | split | dsimp only | intro)
@[simp] theorem State.opResult_pins (s : State) (t : Nat) (c : Nat) (result : List Byte) : (State.opResult s t c result).pins = s.pins := State.opResult_pins_of _ _ _ _ rfl

theorem State.opResult_clk_of {v : Clock} (s : State) (t : Nat) (c : Nat) (result : List Byte) (hk : s.clk = v) : (State.opResult s t c result).clk = v := by
  unfold State.opResult; with_reducible repeat' (first | exact hk | assumption | (apply foldl_same (f := State.clk); rotate_left; intros) | (apply foldl_fst_same (f := State.clk); rotate_left; intros) | (apply foldl_snd_same (f := State.clk); rotate_left; intros) | (fail_if_no_progress (refine Eq.trans State.mk_clk ?_)) | split | dsimp only | intro)
@[simp] theorem State.opResult_clk (s : State) (t : Nat) (c : Nat) (result : List Byte) : (State.opResult s t c result).clk = s.clk := State.opResult_clk_of _ _ _ _ rfl

theorem State.settleThreads_dev_of {v : Dev} (s : State) (hk : s.dev = v) : (State.settleThreads s).dev = v := by
  unfold State.settleThreads; with_reducible repeat' (first | exact hk | assumption | apply State.touchPairs_dev_of | apply State.writePlace_dev_of | apply State.opResult_dev_of | (apply foldl_same (f := State.dev); rotate_left; intros) | (apply foldl_fst_same (f := State.dev); rotate_left; intros) | (apply foldl_snd_same (f := State.dev); rotate_left; intros) | (fail_if_no_progress (refine Eq.trans State.mk_dev ?_)) | split | dsimp only | intro)
@[simp] theorem State.settleThreads_dev (s : State) : (State.settleThreads s).dev = s.dev := State.settleThreads_dev_of _ rfl

theorem State.settleThreads_pins_of {v : Pins} (s : State) (hk : s.pins = v) : (State.settleThreads s).pins = v := by
  unfold State.settleThreads; with_reducible repeat' (first | exact hk | assumption | apply State.touchPairs_pins_of | apply State.writePlace_pins_of | apply State.opResult_pins_of | (apply foldl_same (f := State.pins); rotate_left; intros) | (apply foldl_fst_same (f := State.pins); rotate_left; intros) | (apply foldl_snd_same (f := State.pins); rotate_left; intros) | (fail_if_no_progress (refine Eq.trans State.mk_pins ?_)) | split | dsimp only | intro)
@[simp] theorem State.settleThreads_pins (s : State) : (State.settleThreads s).pins = s.pins := State.settleThreads_pins_of _ rfl

theorem State.settleThreads_clk_of {v : Clock} (s : State) (hk : s.clk = v) : (State.settleThreads s).clk = v := by
  unfold State.settleThreads; with_reducible repeat' (first | exact hk | assumption | apply State.touchPairs_clk_of | apply State.writePlace_clk_of | apply State.opResult_clk_of | (apply foldl_same (f := State.clk); rotate_left; intros) | (apply foldl_fst_same (f := State.clk); rotate_left; intros) | (apply foldl_snd_same (f := State.clk); rotate_left; intros) | (fail_if_no_progress (refine Eq.trans State.mk_clk ?_)) | split | dsimp only | intro)
@[simp] theorem State.settleThreads_clk (s : State) : (State.settleThreads s).clk = s.clk := State.settleThreads_clk_of _ rfl

theorem State.settleAll_dev_of {v : Dev} (s : State) (hk : s.dev = v) : (State.settleAll s).dev = v := by
  unfold State.settleAll; with_reducible repeat' (first | exact hk | assumption | apply State.settle_dev_of | apply State.settleThreads_dev_of | (apply foldl_same (f := State.dev); rotate_left; intros) | (apply foldl_fst_same (f := State.dev); rotate_left; intros) | (apply foldl_snd_same (f := State.dev); rotate_left; intros) | (fail_if_no_progress (refine Eq.trans State.mk_dev ?_)) | split | dsimp only | intro)
@[simp] theorem State.settleAll_dev (s : State) : (State.settleAll s).dev = s.dev := State.settleAll_dev_of _ rfl

theorem State.settleAll_pins_of {v : Pins} (s : State) (hk : s.pins = v) : (State.settleAll s).pins = v := by
  unfold State.settleAll; with_reducible repeat' (first | exact hk | assumption | apply State.settle_pins_of | apply State.settleThreads_pins_of | (apply foldl_same (f := State.pins); rotate_left; intros) | (apply foldl_fst_same (f := State.pins); rotate_left; intros) | (apply foldl_snd_same (f := State.pins); rotate_left; intros) | (fail_if_no_progress (refine Eq.trans State.mk_pins ?_)) | split | dsimp only | intro)
@[simp] theorem State.settleAll_pins (s : State) : (State.settleAll s).pins = s.pins := State.settleAll_pins_of _ rfl

theorem State.settleAll_clk_of {v : Clock} (s : State) (hk : s.clk = v) : (State.settleAll s).clk = v := by
  unfold State.settleAll; with_reducible repeat' (first | exact hk | assumption | apply State.settle_clk_of | apply State.settleThreads_clk_of | (apply foldl_same (f := State.clk); rotate_left; intros) | (apply foldl_fst_same (f := State.clk); rotate_left; intros) | (apply foldl_snd_same (f := State.clk); rotate_left; intros) | (fail_if_no_progress (refine Eq.trans State.mk_clk ?_)) | split | dsimp only | intro)
@[simp] theorem State.settleAll_clk (s : State) : (State.settleAll s).clk = s.clk := State.settleAll_clk_of _ rfl

theorem State.fallPort_dev_of {v : Dev} (s : State) (p : Nat) (hk : s.dev = v) : (State.fallPort s p).dev = v := by
  unfold State.fallPort; with_reducible repeat' (first | exact hk | assumption | apply State.portDown_dev_of | apply State.discardLanding_dev_of | (apply foldl_same (f := State.dev); rotate_left; intros) | (apply foldl_fst_same (f := State.dev); rotate_left; intros) | (apply foldl_snd_same (f := State.dev); rotate_left; intros) | (fail_if_no_progress (refine Eq.trans State.mk_dev ?_)) | split | dsimp only | intro)
@[simp] theorem State.fallPort_dev (s : State) (p : Nat) : (State.fallPort s p).dev = s.dev := State.fallPort_dev_of _ _ rfl

theorem State.fallPort_pins_of {v : Pins} (s : State) (p : Nat) (hk : s.pins = v) : (State.fallPort s p).pins = v := by
  unfold State.fallPort; with_reducible repeat' (first | exact hk | assumption | apply State.portDown_pins_of | apply State.discardLanding_pins_of | (apply foldl_same (f := State.pins); rotate_left; intros) | (apply foldl_fst_same (f := State.pins); rotate_left; intros) | (apply foldl_snd_same (f := State.pins); rotate_left; intros) | (fail_if_no_progress (refine Eq.trans State.mk_pins ?_)) | split | dsimp only | intro)
@[simp] theorem State.fallPort_pins (s : State) (p : Nat) : (State.fallPort s p).pins = s.pins := State.fallPort_pins_of _ _ rfl

theorem State.fallPort_clk_of {v : Clock} (s : State) (p : Nat) (hk : s.clk = v) : (State.fallPort s p).clk = v := by
  unfold State.fallPort; with_reducible repeat' (first | exact hk | assumption | apply State.portDown_clk_of | apply State.discardLanding_clk_of | (apply foldl_same (f := State.clk); rotate_left; intros) | (apply foldl_fst_same (f := State.clk); rotate_left; intros) | (apply foldl_snd_same (f := State.clk); rotate_left; intros) | (fail_if_no_progress (refine Eq.trans State.mk_clk ?_)) | split | dsimp only | intro)
@[simp] theorem State.fallPort_clk (s : State) (p : Nat) : (State.fallPort s p).clk = s.clk := State.fallPort_clk_of _ _ rfl

theorem State.fallSlice_dev_of {v : Dev} (s : State) (n : Nat) (hk : s.dev = v) : (State.fallSlice s n).dev = v := by
  unfold State.fallSlice; with_reducible repeat' (first | exact hk | assumption | apply State.lockCtx_dev_of | apply State.curtainSlice_dev_of | (apply foldl_same (f := State.dev); rotate_left; intros) | (apply foldl_fst_same (f := State.dev); rotate_left; intros) | (apply foldl_snd_same (f := State.dev); rotate_left; intros) | (fail_if_no_progress (refine Eq.trans State.mk_dev ?_)) | split | dsimp only | intro)
@[simp] theorem State.fallSlice_dev (s : State) (n : Nat) : (State.fallSlice s n).dev = s.dev := State.fallSlice_dev_of _ _ rfl

theorem State.fallSlice_pins_of {v : Pins} (s : State) (n : Nat) (hk : s.pins = v) : (State.fallSlice s n).pins = v := by
  unfold State.fallSlice; with_reducible repeat' (first | exact hk | assumption | apply State.lockCtx_pins_of | apply State.curtainSlice_pins_of | (apply foldl_same (f := State.pins); rotate_left; intros) | (apply foldl_fst_same (f := State.pins); rotate_left; intros) | (apply foldl_snd_same (f := State.pins); rotate_left; intros) | (fail_if_no_progress (refine Eq.trans State.mk_pins ?_)) | split | dsimp only | intro)
@[simp] theorem State.fallSlice_pins (s : State) (n : Nat) : (State.fallSlice s n).pins = s.pins := State.fallSlice_pins_of _ _ rfl

theorem State.fallSlice_clk_of {v : Clock} (s : State) (n : Nat) (hk : s.clk = v) : (State.fallSlice s n).clk = v := by
  unfold State.fallSlice; with_reducible repeat' (first | exact hk | assumption | apply State.lockCtx_clk_of | apply State.curtainSlice_clk_of | (apply foldl_same (f := State.clk); rotate_left; intros) | (apply foldl_fst_same (f := State.clk); rotate_left; intros) | (apply foldl_snd_same (f := State.clk); rotate_left; intros) | (fail_if_no_progress (refine Eq.trans State.mk_clk ?_)) | split | dsimp only | intro)
@[simp] theorem State.fallSlice_clk (s : State) (n : Nat) : (State.fallSlice s n).clk = s.clk := State.fallSlice_clk_of _ _ rfl

theorem State.fallHost_dev_of {v : Dev} (s : State) (h : Nat) (hk : s.dev = v) : (State.fallHost s h).dev = v := by
  unfold State.fallHost; with_reducible repeat' (first | exact hk | assumption | apply State.haltChannels_dev_of | apply State.fallSlice_dev_of | apply State.failReads_dev_of | (apply foldl_same (f := State.dev); rotate_left; intros) | (apply foldl_fst_same (f := State.dev); rotate_left; intros) | (apply foldl_snd_same (f := State.dev); rotate_left; intros) | (fail_if_no_progress (refine Eq.trans State.mk_dev ?_)) | split | dsimp only | intro)
@[simp] theorem State.fallHost_dev (s : State) (h : Nat) : (State.fallHost s h).dev = s.dev := State.fallHost_dev_of _ _ rfl

theorem State.fallHost_pins_of {v : Pins} (s : State) (h : Nat) (hk : s.pins = v) : (State.fallHost s h).pins = v := by
  unfold State.fallHost; with_reducible repeat' (first | exact hk | assumption | apply State.haltChannels_pins_of | apply State.fallSlice_pins_of | apply State.failReads_pins_of | (apply foldl_same (f := State.pins); rotate_left; intros) | (apply foldl_fst_same (f := State.pins); rotate_left; intros) | (apply foldl_snd_same (f := State.pins); rotate_left; intros) | (fail_if_no_progress (refine Eq.trans State.mk_pins ?_)) | split | dsimp only | intro)
@[simp] theorem State.fallHost_pins (s : State) (h : Nat) : (State.fallHost s h).pins = s.pins := State.fallHost_pins_of _ _ rfl

theorem State.fallHost_clk_of {v : Clock} (s : State) (h : Nat) (hk : s.clk = v) : (State.fallHost s h).clk = v := by
  unfold State.fallHost; with_reducible repeat' (first | exact hk | assumption | apply State.haltChannels_clk_of | apply State.fallSlice_clk_of | apply State.failReads_clk_of | (apply foldl_same (f := State.clk); rotate_left; intros) | (apply foldl_fst_same (f := State.clk); rotate_left; intros) | (apply foldl_snd_same (f := State.clk); rotate_left; intros) | (fail_if_no_progress (refine Eq.trans State.mk_clk ?_)) | split | dsimp only | intro)
@[simp] theorem State.fallHost_clk (s : State) (h : Nat) : (State.fallHost s h).clk = s.clk := State.fallHost_clk_of _ _ rfl

theorem State.fallCore_dev_of {v : Dev} (s : State) (k : Nat) (hk : s.dev = v) : (State.fallCore s k).dev = v := by
  unfold State.fallCore; with_reducible repeat' (first | exact hk | assumption | refine Eq.trans (State.setThread_dev ..) ?_ | refine Eq.trans (State.setCore_dev ..) ?_ | (apply foldl_same (f := State.dev); rotate_left; intros) | (apply foldl_fst_same (f := State.dev); rotate_left; intros) | (apply foldl_snd_same (f := State.dev); rotate_left; intros) | (fail_if_no_progress (refine Eq.trans State.mk_dev ?_)) | split | dsimp only | intro)
@[simp] theorem State.fallCore_dev (s : State) (k : Nat) : (State.fallCore s k).dev = s.dev := State.fallCore_dev_of _ _ rfl

theorem State.fallCore_pins_of {v : Pins} (s : State) (k : Nat) (hk : s.pins = v) : (State.fallCore s k).pins = v := by
  unfold State.fallCore; with_reducible repeat' (first | exact hk | assumption | refine Eq.trans (State.setThread_pins ..) ?_ | refine Eq.trans (State.setCore_pins ..) ?_ | (apply foldl_same (f := State.pins); rotate_left; intros) | (apply foldl_fst_same (f := State.pins); rotate_left; intros) | (apply foldl_snd_same (f := State.pins); rotate_left; intros) | (fail_if_no_progress (refine Eq.trans State.mk_pins ?_)) | split | dsimp only | intro)
@[simp] theorem State.fallCore_pins (s : State) (k : Nat) : (State.fallCore s k).pins = s.pins := State.fallCore_pins_of _ _ rfl

theorem State.fallCore_clk_of {v : Clock} (s : State) (k : Nat) (hk : s.clk = v) : (State.fallCore s k).clk = v := by
  unfold State.fallCore; with_reducible repeat' (first | exact hk | assumption | refine Eq.trans (State.setThread_clk ..) ?_ | refine Eq.trans (State.setCore_clk ..) ?_ | (apply foldl_same (f := State.clk); rotate_left; intros) | (apply foldl_fst_same (f := State.clk); rotate_left; intros) | (apply foldl_snd_same (f := State.clk); rotate_left; intros) | (fail_if_no_progress (refine Eq.trans State.mk_clk ?_)) | split | dsimp only | intro)
@[simp] theorem State.fallCore_clk (s : State) (k : Nat) : (State.fallCore s k).clk = s.clk := State.fallCore_clk_of _ _ rfl

theorem State.fall_dev_of {v : Dev} (s : State) (k : ScopeKind) (i : Nat) (hk : s.dev = v) : (State.fall s k i).dev = v := by
  unfold State.fall; with_reducible repeat' (first | exact hk | assumption | apply State.fallPort_dev_of | apply State.fallHost_dev_of | apply State.fallSlice_dev_of | apply State.engineFails_dev_of | apply State.fallCore_dev_of | apply State.lockOwn_dev_of | apply State.lockAll_dev_of | (apply foldl_same (f := State.dev); rotate_left; intros) | (apply foldl_fst_same (f := State.dev); rotate_left; intros) | (apply foldl_snd_same (f := State.dev); rotate_left; intros) | (fail_if_no_progress (refine Eq.trans State.mk_dev ?_)) | split | dsimp only | intro)
@[simp] theorem State.fall_dev (s : State) (k : ScopeKind) (i : Nat) : (State.fall s k i).dev = s.dev := State.fall_dev_of _ _ _ rfl

theorem State.fall_pins_of {v : Pins} (s : State) (k : ScopeKind) (i : Nat) (hk : s.pins = v) : (State.fall s k i).pins = v := by
  unfold State.fall; with_reducible repeat' (first | exact hk | assumption | apply State.fallPort_pins_of | apply State.fallHost_pins_of | apply State.fallSlice_pins_of | apply State.engineFails_pins_of | apply State.fallCore_pins_of | apply State.lockOwn_pins_of | apply State.lockAll_pins_of | (apply foldl_same (f := State.pins); rotate_left; intros) | (apply foldl_fst_same (f := State.pins); rotate_left; intros) | (apply foldl_snd_same (f := State.pins); rotate_left; intros) | (fail_if_no_progress (refine Eq.trans State.mk_pins ?_)) | split | dsimp only | intro)
@[simp] theorem State.fall_pins (s : State) (k : ScopeKind) (i : Nat) : (State.fall s k i).pins = s.pins := State.fall_pins_of _ _ _ rfl

theorem State.fall_clk_of {v : Clock} (s : State) (k : ScopeKind) (i : Nat) (hk : s.clk = v) : (State.fall s k i).clk = v := by
  unfold State.fall; with_reducible repeat' (first | exact hk | assumption | apply State.fallPort_clk_of | apply State.fallHost_clk_of | apply State.fallSlice_clk_of | apply State.engineFails_clk_of | apply State.fallCore_clk_of | apply State.lockOwn_clk_of | apply State.lockAll_clk_of | (apply foldl_same (f := State.clk); rotate_left; intros) | (apply foldl_fst_same (f := State.clk); rotate_left; intros) | (apply foldl_snd_same (f := State.clk); rotate_left; intros) | (fail_if_no_progress (refine Eq.trans State.mk_clk ?_)) | split | dsimp only | intro)
@[simp] theorem State.fall_clk (s : State) (k : ScopeKind) (i : Nat) : (State.fall s k i).clk = s.clk := State.fall_clk_of _ _ _ rfl

theorem State.curtainAlarm_dev_of {v : Dev} (s : State) (k : ScopeKind) (i : Nat) (r : Option FaultRecord) (hk : s.dev = v) : (State.curtainAlarm s k i r).dev = v := by
  unfold State.curtainAlarm; with_reducible repeat' (first | exact hk | assumption | refine Eq.trans (State.alarm_dev ..) ?_ | refine Eq.trans (State.nextSeq_dev ..) ?_ | (apply foldl_same (f := State.dev); rotate_left; intros) | (apply foldl_fst_same (f := State.dev); rotate_left; intros) | (apply foldl_snd_same (f := State.dev); rotate_left; intros) | (fail_if_no_progress (refine Eq.trans State.mk_dev ?_)) | split | dsimp only | intro)
@[simp] theorem State.curtainAlarm_dev (s : State) (k : ScopeKind) (i : Nat) (r : Option FaultRecord) : (State.curtainAlarm s k i r).dev = s.dev := State.curtainAlarm_dev_of _ _ _ _ rfl

theorem State.curtainAlarm_pins_of {v : Pins} (s : State) (k : ScopeKind) (i : Nat) (r : Option FaultRecord) (hk : s.pins = v) : (State.curtainAlarm s k i r).pins = v := by
  unfold State.curtainAlarm; with_reducible repeat' (first | exact hk | assumption | refine Eq.trans (State.alarm_pins ..) ?_ | refine Eq.trans (State.nextSeq_pins ..) ?_ | (apply foldl_same (f := State.pins); rotate_left; intros) | (apply foldl_fst_same (f := State.pins); rotate_left; intros) | (apply foldl_snd_same (f := State.pins); rotate_left; intros) | (fail_if_no_progress (refine Eq.trans State.mk_pins ?_)) | split | dsimp only | intro)
@[simp] theorem State.curtainAlarm_pins (s : State) (k : ScopeKind) (i : Nat) (r : Option FaultRecord) : (State.curtainAlarm s k i r).pins = s.pins := State.curtainAlarm_pins_of _ _ _ _ rfl

theorem State.curtainAlarm_clk_of {v : Clock} (s : State) (k : ScopeKind) (i : Nat) (r : Option FaultRecord) (hk : s.clk = v) : (State.curtainAlarm s k i r).clk = v := by
  unfold State.curtainAlarm; with_reducible repeat' (first | exact hk | assumption | refine Eq.trans (State.alarm_clk ..) ?_ | refine Eq.trans (State.nextSeq_clk ..) ?_ | (apply foldl_same (f := State.clk); rotate_left; intros) | (apply foldl_fst_same (f := State.clk); rotate_left; intros) | (apply foldl_snd_same (f := State.clk); rotate_left; intros) | (fail_if_no_progress (refine Eq.trans State.mk_clk ?_)) | split | dsimp only | intro)
@[simp] theorem State.curtainAlarm_clk (s : State) (k : ScopeKind) (i : Nat) (r : Option FaultRecord) : (State.curtainAlarm s k i r).clk = s.clk := State.curtainAlarm_clk_of _ _ _ _ rfl

theorem State.learnCounted_dev_of {v : Dev} (s : State) (p : Nat) (hk : s.dev = v) : (State.learnCounted s p).dev = v := by
  unfold State.learnCounted; with_reducible repeat' (first | exact hk | assumption | (apply foldl_same (f := State.dev); rotate_left; intros) | (apply foldl_fst_same (f := State.dev); rotate_left; intros) | (apply foldl_snd_same (f := State.dev); rotate_left; intros) | (fail_if_no_progress (refine Eq.trans State.mk_dev ?_)) | split | dsimp only | intro)
@[simp] theorem State.learnCounted_dev (s : State) (p : Nat) : (State.learnCounted s p).dev = s.dev := State.learnCounted_dev_of _ _ rfl

theorem State.learnCounted_pins_of {v : Pins} (s : State) (p : Nat) (hk : s.pins = v) : (State.learnCounted s p).pins = v := by
  unfold State.learnCounted; with_reducible repeat' (first | exact hk | assumption | (apply foldl_same (f := State.pins); rotate_left; intros) | (apply foldl_fst_same (f := State.pins); rotate_left; intros) | (apply foldl_snd_same (f := State.pins); rotate_left; intros) | (fail_if_no_progress (refine Eq.trans State.mk_pins ?_)) | split | dsimp only | intro)
@[simp] theorem State.learnCounted_pins (s : State) (p : Nat) : (State.learnCounted s p).pins = s.pins := State.learnCounted_pins_of _ _ rfl

theorem State.learnCounted_clk_of {v : Clock} (s : State) (p : Nat) (hk : s.clk = v) : (State.learnCounted s p).clk = v := by
  unfold State.learnCounted; with_reducible repeat' (first | exact hk | assumption | (apply foldl_same (f := State.clk); rotate_left; intros) | (apply foldl_fst_same (f := State.clk); rotate_left; intros) | (apply foldl_snd_same (f := State.clk); rotate_left; intros) | (fail_if_no_progress (refine Eq.trans State.mk_clk ?_)) | split | dsimp only | intro)
@[simp] theorem State.learnCounted_clk (s : State) (p : Nat) : (State.learnCounted s p).clk = s.clk := State.learnCounted_clk_of _ _ rfl

theorem State.learn_dev_of {v : Dev} (s : State) (key : List Byte) (p : Nat) (hk : s.dev = v) : (State.learn s key p).dev = v := by
  unfold State.learn; with_reducible repeat' (first | exact hk | assumption | refine Eq.trans (State.setEntry_dev ..) ?_ | refine Eq.trans (State.bump_dev ..) ?_ | apply State.learnCounted_dev_of | apply State.place_dev_of | (apply foldl_same (f := State.dev); rotate_left; intros) | (apply foldl_fst_same (f := State.dev); rotate_left; intros) | (apply foldl_snd_same (f := State.dev); rotate_left; intros) | (fail_if_no_progress (refine Eq.trans State.mk_dev ?_)) | split | dsimp only | intro)
@[simp] theorem State.learn_dev (s : State) (key : List Byte) (p : Nat) : (State.learn s key p).dev = s.dev := State.learn_dev_of _ _ _ rfl

theorem State.learn_pins_of {v : Pins} (s : State) (key : List Byte) (p : Nat) (hk : s.pins = v) : (State.learn s key p).pins = v := by
  unfold State.learn; with_reducible repeat' (first | exact hk | assumption | refine Eq.trans (State.setEntry_pins ..) ?_ | refine Eq.trans (State.bump_pins ..) ?_ | apply State.learnCounted_pins_of | apply State.place_pins_of | (apply foldl_same (f := State.pins); rotate_left; intros) | (apply foldl_fst_same (f := State.pins); rotate_left; intros) | (apply foldl_snd_same (f := State.pins); rotate_left; intros) | (fail_if_no_progress (refine Eq.trans State.mk_pins ?_)) | split | dsimp only | intro)
@[simp] theorem State.learn_pins (s : State) (key : List Byte) (p : Nat) : (State.learn s key p).pins = s.pins := State.learn_pins_of _ _ _ rfl

theorem State.learn_clk_of {v : Clock} (s : State) (key : List Byte) (p : Nat) (hk : s.clk = v) : (State.learn s key p).clk = v := by
  unfold State.learn; with_reducible repeat' (first | exact hk | assumption | refine Eq.trans (State.setEntry_clk ..) ?_ | refine Eq.trans (State.bump_clk ..) ?_ | apply State.learnCounted_clk_of | apply State.place_clk_of | (apply foldl_same (f := State.clk); rotate_left; intros) | (apply foldl_fst_same (f := State.clk); rotate_left; intros) | (apply foldl_snd_same (f := State.clk); rotate_left; intros) | (fail_if_no_progress (refine Eq.trans State.mk_clk ?_)) | split | dsimp only | intro)
@[simp] theorem State.learn_clk (s : State) (key : List Byte) (p : Nat) : (State.learn s key p).clk = s.clk := State.learn_clk_of _ _ _ rfl

end Sys2Proof.Machine
end

