-- ==== Sys2Proof/Laws/Specs.lean ====
section
/-! SUPPORT. What some shared operations do, said once. -/

namespace Sys2Proof.Machine

/-- What holds of a state and of every turn of a loop holds after it. -/
theorem foldl_inv {α β : Type} (P : β → Prop) {g : β → α → β} (l : List α) (s : β) (hs : P s) (h : ∀ t a, P t → P (g t a)) :
    P (l.foldl g s) := by
  induction l generalizing s with
  | nil => exact hs
  | cons a l ih => exact ih _ (h _ _ hs)

/-- Flow control sends frames and keeps pause state; it leaves the frames in the buffer, and their copies, alone. -/
theorem State.pauseCheck_swc (s : State) (p : Nat) : (s.pauseCheck p).swc = s.swc := by
  have h0 : ∀ (t : State) (c : Nat) (b : Bool), (t.sendPause p c b).swc = t.swc := by
    intro t c b; unfold State.sendPause; dsimp only; rw [State.emit_swc, State.bumpBy_swc, State.bump_swc, State.bump_swc, State.setPort_swc]
  have h1 : ∀ (t : State) (c a : Nat), (t.pauseCheckAt p c a).swc = t.swc := by
    intro t c a
    unfold State.pauseCheckAt
    dsimp only
    split
    · exact h0 ..
    · split
      · exact h0 ..
      · rfl
  unfold State.pauseCheck
  split
  · rfl
  · split
    · exact h1 ..
    · exact foldl_inv (fun t : State => t.swc = s.swc) _ _ rfl (fun t a ht => (h1 ..).trans ht)
    · rfl

/-- What a seeding of the DRBG changes. -/
theorem State.seedFrom_frame (s : State) (f : List Byte → List Byte) :
    ∃ v d, s.seedFrom f = { s with vlt := v, draws := d } ∧ v.store = s.vlt.store ∧ s.draws ≤ d :=
  ⟨_, _, rfl, rfl, Nat.le_add_right _ _⟩

/-- What drawing random octets changes: the vaults' working state, but not their store. -/
theorem State.drbg_frame (s : State) (n : Nat) :
    ∃ v d, (s.drbg n).2 = { s with vlt := v, draws := d } ∧ v.store = s.vlt.store ∧ s.draws ≤ d := by
  unfold State.drbg State.reseedIfDue State.reseed
  dsimp only
  split
  · split
    · exact ⟨_, _, rfl, rfl, Nat.le_add_right _ _⟩
    · exact ⟨_, _, rfl, rfl, Nat.le_refl _⟩
  · exact ⟨_, _, rfl, rfl, Nat.le_refl _⟩

/-- What the start of a module's verification changes. -/
theorem State.bringUp_frame (s : State) (e : Nat) (x : Lsm) :
    ∃ v d p o, s.bringUp e x = { s with vlt := v, draws := d, prt := p, out := o } ∧ v.store = s.vlt.store ∧ s.draws ≤ d := by
  obtain ⟨v, d, h, hs, hd⟩ := s.drbg_frame 32
  unfold State.bringUp
  dsimp only
  rw [h]
  exact ⟨v, d, _, _, rfl, hs, hd⟩

/-- What the start of LOADING changes. -/
theorem State.startLoading_frame (s : State) (c : DevCause) :
    ∃ v d p o, s.startLoading c = { s with dev := { s.dev with state := .LOADING, cause := c, step := .selfTest, settling := false }
                                           vlt := v, draws := d, prt := p, out := o } ∧ v.store = s.vlt.store := by
  have key : ∀ (l : List Nat) (t : State), ∃ v d p o, l.foldl (fun s e => s.bringUp e {}) t = { t with vlt := v, draws := d, prt := p, out := o } ∧
      v.store = t.vlt.store := by
    intro l
    induction l with
    | nil => exact fun t => ⟨_, _, _, _, rfl, rfl⟩
    | cons a l ih =>
      intro t
      obtain ⟨v, d, p, o, h, hs, _⟩ := t.bringUp_frame a {}
      obtain ⟨v', d', p', o', h', hs'⟩ := ih (t.bringUp a {})
      refine ⟨v', d', p', o', ?_, ?_⟩
      · rw [List.foldl_cons, h', h]
      · rw [hs', h]; exact hs
  unfold State.startLoading State.instantiate
  dsimp only
  obtain ⟨v, d, h, hs, _⟩ := ({ s with dev := { s.dev with state := .LOADING, cause := c, step := .selfTest, settling := false } } : State).seedFrom_frame drbgInstantiate
  rw [h]
  generalize hw : ({ s with dev := { s.dev with state := .LOADING, cause := c, step := .selfTest, settling := false }, vlt := v, draws := d } : State) = w
  obtain ⟨v1, d1, h1, hs1, _⟩ := w.drbg_frame 32
  rw [h1]
  generalize hx : (({ w with vlt := { v1 with wrapKey := (w.drbg 32).1 }, draws := d1 }) : State) = x
  obtain ⟨v2, d2, p2, o2, h2, hs2⟩ := key ((List.range 16).filter (fun e => s.pins.lsmPresent.getLsbD e)) x
  refine ⟨v2, d2, p2, o2, ?_, ?_⟩
  · subst hx; subst hw; exact h2
  · rw [hs2]; subst hx; subst hw; exact hs1.trans hs

/-- A device of which no context writes a checkpoint loses none by a reset. -/
theorem State.tearCheckpoints_none (s : State) (h : ∀ x ∈ s.cph.ctxs, x.2.writing = none) : s.tearCheckpoints = s := by
  unfold State.tearCheckpoints
  have key : ∀ (l : List (Nat × KeyCtx)) (f : State → Nat × KeyCtx → State), (∀ x ∈ l, ∀ t, f t x = t) → ∀ t, l.foldl f t = t := by
    intro l f
    induction l with
    | nil => exact fun _ _ => rfl
    | cons a l ih =>
      intro hf t
      rw [List.foldl_cons, hf a List.mem_cons_self]
      exact ih (fun x hx => hf x (List.mem_cons_of_mem _ hx)) t
  refine key _ _ (fun x hx t => ?_) s
  rw [h x hx]

theorem State.holdDetect_dev (s : State) : s.holdDetect.dev = { s.dev with earlyUp := false, detect := true } := by
  unfold State.holdDetect; dsimp only
  rw [foldl_same (f := State.dev) (v := s.dev) rfl (fun u a h => (State.hostLinkDown_dev u a).trans h)]

/-- The whole-device curtain (R49, R466): the device state after it. -/
theorem State.deviceCurtain_dev (s : State) (c : DevCause) (n : Nat) (r : Option FaultRecord) (h : s.dev.state = .LOADING ∨ s.dev.state = .STAGE) :
    (s.deviceCurtain c n r).dev =
      { s.dev with state := .CURTAIN, cause := c, step := .idle, earlyUp := s.dev.earlyUp && s.dev.cpcStarted,
                   detect := s.dev.detect || !s.dev.cpcStarted } := by
  have hh : (s.dev.state == DevState.LOADING || s.dev.state == DevState.STAGE) = true := by rcases h with h | h <;> rw [h] <;> rfl
  have hd : ((s.fall .device 0).settleAll).dev = s.dev := by rw [State.settleAll_dev, State.fall_dev]
  unfold State.deviceCurtain
  rw [if_pos hh]
  dsimp only
  revert hd
  generalize (s.fall .device 0).settleAll = u
  intro hd
  have hf : (u.setFld Fld.FLT_STATUS_DEVICE_CAUSE 0 n).dev = s.dev := by rw [State.setFld_dev, hd]
  revert hf
  generalize u.setFld Fld.FLT_STATUS_DEVICE_CAUSE 0 n = w
  intro hf
  have e : (State.curtainAlarm { w with dev := { w.dev with state := .CURTAIN, cause := c, step := .idle } } .device 0 r).dev =
      { w.dev with state := .CURTAIN, cause := c, step := .idle } := (State.curtainAlarm_dev ..).trans State.mk_dev
  revert e
  generalize State.curtainAlarm { w with dev := { w.dev with state := .CURTAIN, cause := c, step := .idle } } .device 0 r = y
  rw [hf]
  intro e
  split
  · rename_i hc
    rw [e] at hc
    have hc' : s.dev.cpcStarted = true := hc
    rw [e]; cases hs : s.dev; rw [hs] at hc'; simp only at hc'; simp only [hc', Bool.and_true, Bool.not_true, Bool.or_false]
  · rename_i hc
    rw [e] at hc
    have hc' : s.dev.cpcStarted = false := by simpa using hc
    rw [State.holdDetect_dev, e]; cases hs : s.dev; rw [hs] at hc'; simp only at hc'; simp only [hc', Bool.and_false, Bool.not_false, Bool.or_true]

/-- Recovery (R43, R45): the device state after it. -/
theorem State.noImage_dev (s : State) (h : s.dev.state = .LOADING) : s.noImage.dev =
      { s.dev with state := .CURTAIN, cause := .NO_IMAGE, step := .idle, earlyUp := s.dev.earlyUp && s.dev.cpcStarted,
                   detect := s.dev.detect || !s.dev.cpcStarted } := by
  unfold State.noImage
  have e := State.plainAlarm_dev s 8 0 17 8 0
  revert e
  generalize State.plainAlarm s 8 0 17 8 0 = y
  intro e
  rw [State.deviceCurtain_dev _ _ _ _ (.inl (by rw [e]; exact h)), e]

end Sys2Proof.Machine
end

