-- ==== Sys2Proof/Laws/Writes.lean ====
section
/-! SUPPORT. Register writes by commands of their own: what an admitted one stores, field by field. -/

namespace Sys2Proof.Machine

/-- A row's register write that the checks admit is performed on the state they leave, where the register's domain does not sleep. -/
theorem State.directWrite_of {s u : State} {r : Requester} {reg : RegName} {i : Nat} (h : s.admitWrite r reg i = (true, u))
    (ha : u.sleepingAt reg i = none) (v m : Word) : s.directWrite r reg i v m = u.performWrite r reg i v m := by
  unfold State.directWrite State.gatedWrite; rw [h]; dsimp only; rw [ha]; rfl

/-- One to a register of a sleeping domain waits for its wake. -/
theorem State.directWrite_held {s u : State} {r : Requester} {reg : RegName} {i d : Nat} (h : s.admitWrite r reg i = (true, u))
    (ha : u.sleepingAt reg i = some d) (v m : Word) : s.directWrite r reg i v m = u.hold d (.write r reg i v m) := by
  unfold State.directWrite State.gatedWrite; rw [h]; dsimp only; rw [ha]; rfl

/-- A register of no switched domain never sleeps. -/
theorem State.sleepingAt_none (s : State) {reg : RegName} {i : Nat} (h : State.domainOfReg reg i = none) : s.sleepingAt reg i = none := by
  unfold State.sleepingAt; rw [h]; rfl

/-- One they refuse leaves what the refusal leaves. -/
theorem State.directWrite_refused {s u : State} {r : Requester} {reg : RegName} {i : Nat} (h : s.admitWrite r reg i = (false, u)) (v m : Word) :
    s.directWrite r reg i v m = u := by
  unfold State.directWrite State.gatedWrite; rw [h]; rfl

theorem State.gatedWrite_of {s u : State} {r : Requester} {reg : RegName} {i : Nat} (h : s.admitWrite r reg i = (true, u)) (e : State → State) :
    s.gatedWrite r reg i e = e u := by
  unfold State.gatedWrite; rw [h]; rfl

theorem fieldOf_ofNat (n : Nat) {lo w : Nat} (h : lo + w ≤ 64) : fieldOf (BitVec.ofNat 64 n) lo w = bits n lo w := by
  simp only [fieldOf, BitVec.toNat_ofNat]; exact bits_mod h

theorem bits_lt (v lo w : Nat) : bits v lo w < 2 ^ w := Nat.mod_lt _ (Nat.two_pow_pos w)

theorem bits_bits_mod (v lo w : Nat) : bits v lo w % 2 ^ w = bits v lo w := Nat.mod_eq_of_lt (bits_lt v lo w)

/-- A field the mask covers takes the bits written. -/
theorem FieldInfo.written_full {f : FieldInfo} {mask : Nat} (ha : f.access = .RW ∨ f.access = .RWV) (hm : bits mask f.lo f.width = 2 ^ f.width - 1)
    (old new : Nat) : f.written old new mask = bits new f.lo f.width := by
  unfold FieldInfo.written
  have h1 : bits old f.lo f.width &&& (2 ^ f.width - 1) = bits old f.lo f.width := by
    rw [Nat.and_two_pow_sub_one_eq_mod, bits_bits_mod]
  have h2 : bits new f.lo f.width &&& (2 ^ f.width - 1) = bits new f.lo f.width := by
    rw [Nat.and_two_pow_sub_one_eq_mod, bits_bits_mod]
  rcases ha with h | h <;> rw [h] <;> dsimp only <;> rw [hm, h1, h2] <;> omega

def FieldInfo.apart (f g : FieldInfo) : Prop := f.lo + f.width ≤ g.lo ∨ g.lo + g.width ≤ f.lo

theorem plainWritten_skip {fs : List FieldInfo} {f : FieldInfo} (h : ∀ g ∈ fs, f.apart g) (v old new mask : Nat) :
    bits (fs.foldl (fun v f => setBits v f.lo f.width (f.written old new mask)) v) f.lo f.width = bits v f.lo f.width := by
  induction fs generalizing v with
  | nil => rfl
  | cons g fs ih =>
    rw [List.foldl_cons, ih (fun x hx => h x (List.mem_cons_of_mem _ hx))]
    exact bits_setBits_ne (h g List.mem_cons_self)

/-- A field of a register after a plain write, where the register's fields lie apart. -/
theorem plainWritten_field {fs : List FieldInfo} {f : FieldInfo} (hd : fs.Pairwise FieldInfo.apart) (hf : f ∈ fs) (v old new mask : Nat) :
    bits (fs.foldl (fun v f => setBits v f.lo f.width (f.written old new mask)) v) f.lo f.width = f.written old new mask % 2 ^ f.width := by
  induction fs generalizing v with
  | nil => cases hf
  | cons g fs ih =>
    rw [List.pairwise_cons] at hd
    rw [List.foldl_cons]
    rcases List.mem_cons.1 hf with rfl | h
    · rw [plainWritten_skip hd.1]; exact bits_setBits_self _ _ _ _
    · exact ih hd.2 h _

/-- A field the mask covers, in the new value of a written register. -/
theorem written_at {fs : List FieldInfo} {f : FieldInfo} (hd : fs.Pairwise FieldInfo.apart) (hf : f ∈ fs) (ha : f.access = .RW ∨ f.access = .RWV)
    {mask : Nat} (hm : bits mask f.lo f.width = 2 ^ f.width - 1) (h : f.lo + f.width ≤ 64) (old new : Nat) :
    fieldOf (BitVec.ofNat 64 (plainWritten fs old new mask)) f.lo f.width = bits new f.lo f.width := by
  rw [fieldOf_ofNat _ h]
  unfold plainWritten
  rw [plainWritten_field hd hf, FieldInfo.written_full ha hm, bits_bits_mod]

theorem bits_allOnes (n lo w : Nat) (h : lo + w ≤ n) : bits (2 ^ n - 1) lo w = 2 ^ w - 1 := by
  apply Nat.eq_of_testBit_eq
  intro i
  unfold bits
  rw [Nat.testBit_mod_two_pow, Nat.testBit_div_two_pow, Nat.testBit_two_pow_sub_one, Nat.testBit_two_pow_sub_one]
  by_cases hi : i < w
  · have : i + lo < n := by omega
    simp [hi, this]
  · simp [hi]

/-- The fields of a register that a 64-bit, or a 32-bit, write takes whole. -/
theorem whole_at {fs : List FieldInfo} {f : FieldInfo} (hd : fs.Pairwise FieldInfo.apart) (hf : f ∈ fs) (ha : f.access = .RW ∨ f.access = .RWV)
    (h : f.lo + f.width ≤ 64) (old new : Nat) :
    fieldOf (BitVec.ofNat 64 (plainWritten fs old new wholeMask.toNat)) f.lo f.width = bits new f.lo f.width :=
  written_at hd hf ha (by rw [show wholeMask.toNat = 2 ^ 64 - 1 by decide]; exact bits_allOnes 64 _ _ h) h old new
theorem low_at {fs : List FieldInfo} {f : FieldInfo} (hd : fs.Pairwise FieldInfo.apart) (hf : f ∈ fs) (ha : f.access = .RW ∨ f.access = .RWV)
    (h : f.lo + f.width ≤ 32) (old new : Nat) :
    fieldOf (BitVec.ofNat 64 (plainWritten fs old new lowMask.toNat)) f.lo f.width = bits new f.lo f.width :=
  written_at hd hf ha (by rw [show lowMask.toNat = 2 ^ 32 - 1 by decide]; exact bits_allOnes 32 _ _ h) (by omega) old new

/-- A register of one field of 64 bits takes the word written. -/
theorem plainWritten_word {a : Access} (ha : a = .RW ∨ a = .RWV) (z : Nat) (old new : Word) :
    BitVec.ofNat 64 (plainWritten [⟨0, 64, a, z⟩] old.toNat new.toNat wholeMask.toNat) = new := by
  have h := FieldInfo.written_full (f := ⟨0, 64, a, z⟩) (mask := wholeMask.toNat) ha
    (show bits wholeMask.toNat 0 64 = 2 ^ 64 - 1 by decide) old.toNat new.toNat
  simp only [plainWritten, List.foldl_cons, List.foldl_nil, h]
  apply BitVec.eq_of_toNat_eq
  have hn := new.isLt
  have ho := old.isLt
  simp only [setBits, bits, BitVec.toNat_ofNat]
  omega

/-- A register of one field from bit 0 takes the low bits of the word written. -/
theorem plainWritten_low {a : Access} (ha : a = .RW ∨ a = .RWV) (z w : Nat) (hw : w ≤ 32) (old new : Nat) (ho : old < 2 ^ w) :
    plainWritten [⟨0, w, a, z⟩] old new (2 ^ 32 - 1) = new % 2 ^ w := by
  have hm : bits (2 ^ 32 - 1) 0 w = 2 ^ w - 1 := by
    simp only [bits, Nat.pow_zero, Nat.div_one]
    have : (2 : Nat) ^ 32 - 1 = 2 ^ w * 2 ^ (32 - w) - 1 := by rw [← Nat.pow_add]; congr 2; omega
    have e : (2 : Nat) ^ 32 = 2 ^ w * 2 ^ (32 - w) := by rw [← Nat.pow_add]; congr 1; omega
    have hp := Nat.two_pow_pos w
    have hq := Nat.two_pow_pos (32 - w)
    have : (2 : Nat) ^ 32 - 1 = (2 ^ w - 1) + 2 ^ w * (2 ^ (32 - w) - 1) := by
      rw [e, Nat.mul_sub, Nat.mul_one]
      have : 2 ^ w ≤ 2 ^ w * 2 ^ (32 - w) := Nat.le_mul_of_pos_right _ hq
      omega
    rw [this, Nat.add_mul_mod_self_left, Nat.mod_eq_of_lt (by omega)]
  have h := FieldInfo.written_full (f := ⟨0, w, a, z⟩) (mask := 2 ^ 32 - 1) ha hm old new
  simp only [plainWritten, List.foldl_cons, List.foldl_nil, h]
  simp only [setBits, bits, Nat.pow_zero, Nat.div_one, Nat.mul_one, Nat.mod_mod, Nat.mod_eq_of_lt ho]
  omega

theorem setBits_same (v lo w : Nat) : setBits v lo w (bits v lo w) = v := by
  unfold setBits
  rw [bits_bits_mod]
  have h : bits v lo w * 2 ^ lo ≤ v := by
    unfold bits
    exact Nat.le_trans (Nat.mul_le_mul_right _ (Nat.mod_le _ _)) (Nat.div_mul_le_self v (2 ^ lo))
  omega

/-- A field that keeps its value under a write that does not touch it, or acts only by its bits. -/
theorem FieldInfo.written_kept {f : FieldInfo} {mask : Nat} (h : f.access = .RW ∨ f.access = .RWV ∨ f.access = .W1C → bits mask f.lo f.width = 0)
    (old new : Nat) : f.written old new mask = bits old f.lo f.width := by
  unfold FieldInfo.written
  cases ha : f.access <;> simp only [ha, reduceCtorEq, or_true, true_or, or_false, or_self, false_or, forall_const, IsEmpty.forall_iff] at h <;> simp [h]

/-- A write that touches none of the fields a plain write changes leaves the register as it was. -/
theorem plainWritten_none {fs : List FieldInfo} {mask : Nat}
    (h : ∀ f ∈ fs, f.access = .RW ∨ f.access = .RWV ∨ f.access = .W1C → bits mask f.lo f.width = 0) (old new : Nat) :
    plainWritten fs old new mask = old := by
  unfold plainWritten
  have key : ∀ (v : Nat), v = old → fs.foldl (fun v f => setBits v f.lo f.width (f.written old new mask)) v = old := by
    induction fs with
    | nil => intro v e; exact e
    | cons g fs ih =>
      intro v e
      rw [List.foldl_cons]
      apply ih (fun f hf => h f (List.mem_cons_of_mem _ hf))
      rw [FieldInfo.written_kept (h g List.mem_cons_self), e, setBits_same]
  exact key old rfl

theorem plainWritten_none_word {fs : List FieldInfo} {mask : Nat}
    (h : ∀ f ∈ fs, f.access = .RW ∨ f.access = .RWV ∨ f.access = .W1C → bits mask f.lo f.width = 0) (old : Word) (new : Nat) :
    BitVec.ofNat 64 (plainWritten fs old.toNat new mask) = old := by
  rw [plainWritten_none h, BitVec.ofNat_toNat, BitVec.setWidth_eq]

/-- The mask of a 32-bit write keeps a 32-bit value, and that of a 64-bit write any value. -/
theorem and_lowMask (v : BitVec 32) : v.setWidth 64 &&& lowMask = v.setWidth 64 := by
  apply BitVec.eq_of_toNat_eq
  have := v.isLt
  rw [BitVec.toNat_and, show lowMask.toNat = 2 ^ 32 - 1 by decide, Nat.and_two_pow_sub_one_eq_mod, BitVec.toNat_setWidth]
  omega
theorem and_wholeMask (v : Word) : v &&& wholeMask = v := by
  rw [show wholeMask = BitVec.allOnes 64 by decide, BitVec.and_allOnes]
theorem toNat_setWidth (v : BitVec 32) : (v.setWidth 64).toNat = v.toNat := by
  have := v.isLt
  rw [BitVec.toNat_setWidth]; exact Nat.mod_eq_of_lt (by omega)
theorem bit_low (v : BitVec 32) (k : Nat) : bit (v.setWidth 64).toNat k = v.getLsbD k := by
  unfold bit
  rw [toNat_setWidth, BitVec.getLsbD, Nat.testBit_eq_decide_div_mod_eq]
  by_cases h : v.toNat / 2 ^ k % 2 = 1 <;> simp [h]
theorem fieldOf_setWidth (v : BitVec 32) (lo w : Nat) : fieldOf (v.setWidth 64) lo w = bits v.toNat lo w := by
  unfold fieldOf; rw [toNat_setWidth]

/-! ## Reads that go straight to a register -/

theorem State.readsPlain_elim {s : State} {r : Requester} {t : Target} {a : Nat} (h : s.readsPlain r t a = true) :
    s.mapAnswers = true ∧ (∀ z, s.mapRead r a z = s.mapReadAt r a a z) ∧ s.splitBuffer r = s ∧ s.latchOf r = none ∧ s.spotOf r a = .reg t ∧
      s.approach t.reg t.idx = s ∧ s.regOff t.reg t.idx = false ∧ (∀ z, s.readWaits r a z = none) ∧
      (if t.reg.info.wide = true ∧ (!t.high) = true then a % 8 == 0 else a % 4 == 0) = true := by
  unfold State.readsPlain at h
  simp only [Bool.and_eq_true, Option.isNone_iff_eq_none, decide_eq_true_eq] at h
  obtain ⟨⟨⟨⟨⟨⟨⟨⟨h1, h2⟩, h3⟩, h4⟩, h5⟩, ha⟩, h6⟩, h7⟩, h8⟩ := h
  have hd : ∀ d, State.domainOfReg t.reg t.idx = some d → (s.domain d).state = .ON := by
    intro d hd
    rw [hd] at h7
    simpa using h7
  refine ⟨h1, ?_, ?_, h4, h5, ?_, ?_, ?_, ha⟩
  · intro z; cases r <;> first | rfl | cases h2
  · unfold State.splitBuffer; rw [h3]
  · have ht : s.touchReg t.reg t.idx = s := by
      unfold State.touchReg
      split
      · rename_i d hd'
        unfold State.touchDomain
        rw [hd d hd']
      · rfl
    have hc : s.countWire t.reg t.idx = s := by
      unfold State.countWire
      rw [if_neg (by simpa using h8)]
    unfold State.approach
    dsimp only
    split
    · rename_i b hb
      rw [hb] at h6
      have h6' : (s.bridge b).isNone = true := h6
      have e : s.performSlow b = s := by
        unfold State.performSlow
        rw [Option.isNone_iff_eq_none.1 h6']
      rw [e, ht, hc]
    · rw [ht, hc]
  · unfold State.regOff
    split
    · rename_i d hd'
      rw [hd d hd']
      rfl
    · rfl
  · intro z
    have hs : s.sleepingAt t.reg t.idx = none := by
      unfold State.sleepingAt State.domainSleeps
      cases e : State.domainOfReg t.reg t.idx with
      | none => rfl
      | some d => simp [Option.filter, hd d e]
    have hw : ∀ b : Bool, (if b = true then some t else none).bind (fun t => s.sleepingAt t.reg t.idx) = none := by
      intro b; cases b
      · rfl
      · exact hs
    cases r with
    | pf0 x y => cases h2
    | slice n => cases h2
    | cpc u c => simp only [State.readWaits, State.reads, State.targetOf, h5]; exact hw _
    | troupe n k x => simp only [State.readWaits, State.reads, State.targetOf, h5]; exact hw _
    | vault u => simp only [State.readWaits, State.reads, State.targetOf, h5]; exact hw _

/-- A 32-bit read of the high half of a 64-bit register. -/
theorem State.readOut_high {s : State} {r : Requester} {t : Target} {a : Nat} (h : s.readsPlain r t a = true)
    (hw : t.reg.info.wide = true) (hh : t.high = true) :
    s.readOut r a .b4 = (s.readEffect r t.reg t.idx false true).emit (.value r.code a (BitVec.ofNat 64 ((s.readReg r t.reg t.idx).toNat / 2 ^ 32))) := by
  obtain ⟨h1, h2, h3, h5, h6, h7, h8, h9, ha⟩ := State.readsPlain_elim h
  have h4 : a % 4 = 0 := by split at ha <;> simp at ha <;> omega
  simp only [State.readOut, h9, h2, State.mapReadAt, h1, Bool.not_true, Bool.false_eq_true, if_false, h3, words, if_pos h4, State.read4, h6, State.readPart, h7, h8, hw,
    hh, h5]

/-- A 32-bit read of the low half of a 64-bit register. -/
theorem State.readOut_low {s : State} {r : Requester} {t : Target} {a : Nat} (h : s.readsPlain r t a = true)
    (hw : t.reg.info.wide = true) (hh : t.high = false) :
    s.readOut r a .b4 = ((s.readEffect r t.reg t.idx true false).setLatch r (some (a, BitVec.ofNat 32 ((s.readReg r t.reg t.idx).toNat / 2 ^ 32)))).emit
      (.value r.code a (BitVec.ofNat 64 ((s.readReg r t.reg t.idx).toNat % 2 ^ 32))) := by
  obtain ⟨h1, h2, h3, h5, h6, h7, h8, h9, ha⟩ := State.readsPlain_elim h
  have h4 : a % 4 = 0 := by split at ha <;> simp at ha <;> omega
  simp only [State.readOut, h9, h2, State.mapReadAt, h1, Bool.not_true, Bool.false_eq_true, if_false, h3, words, if_pos h4, State.read4, h6, State.readPart, h7, h8, hw,
    hh, Bool.not_false, if_true]

/-- A read of a 32-bit register. -/
theorem State.readOut_narrow {s : State} {r : Requester} {t : Target} {a : Nat} (h : s.readsPlain r t a = true)
    (hw : t.reg.info.wide = false) :
    s.readOut r a .b4 = (s.readEffect r t.reg t.idx true true).emit (.value r.code a (BitVec.ofNat 64 (s.readReg r t.reg t.idx).toNat)) := by
  obtain ⟨h1, h2, h3, h5, h6, h7, h8, h9, ha⟩ := State.readsPlain_elim h
  have h4 : a % 4 = 0 := by split at ha <;> simp at ha <;> omega
  simp only [State.readOut, h9, h2, State.mapReadAt, h1, Bool.not_true, Bool.false_eq_true, if_false, h3, words, if_pos h4, State.read4, h6, State.readPart, h7, h8, hw,
    Bool.not_false, if_true]

/-- A 64-bit read of a 64-bit register. -/
theorem State.readOut_wide {s : State} {r : Requester} {t : Target} {a : Nat} (h : s.readsPlain r t a = true)
    (hw : t.reg.info.wide = true) (hh : t.high = false) :
    s.readOut r a .b8 = (s.readEffect r t.reg t.idx true true).emit (.value r.code a (s.readReg r t.reg t.idx)) := by
  obtain ⟨h1, h2, h3, h5, h6, h7, h8, h9, ha⟩ := State.readsPlain_elim h
  have h4 : a % 8 = 0 := by rw [hw, hh] at ha; simpa using ha
  simp only [State.readOut, h9, h2, State.mapReadAt, h1, Bool.not_true, Bool.false_eq_true, if_false, h3, words, if_pos h4, h6, hw, if_true, State.readWide, h7, h8]

theorem State.readsPlain_fn {s : State} {r : Requester} {t : Target} {a : Nat} (h : s.readsPlain r t a = true) :
    (∀ h l, r ≠ .pf0 h l) ∧ (∀ n, r ≠ .slice n) := by
  unfold State.readsPlain at h
  constructor
  · rintro x y rfl; simp at h
  · rintro x rfl; simp at h

end Sys2Proof.Machine
end

