-- ==== Sys2Proof/Machine/Pins.lean ====
section
/-! DEFINITION. The outputs that follow from the state at every moment: CURTAIN_N and ALERT_N (R471, with VIO in its range), the
modulators and laser channels of the network ports (R92). -/

namespace Sys2Proof.Machine

/-- CURTAIN_N is driven low (R471). -/
def State.curtainLow (s : State) : Bool := s.dev.state != .STAGE

/-- ALERT_N is driven low (R471): an alarm bit stands whose mask bit is 0. -/
def State.alertLow (s : State) : Bool :=
  (List.range 10).any (fun b => bit (s.reg .FLT_ALARM 0).toNat b && !bit (s.reg .FLT_ALARM_MASK 0).toNat b)

/-- The modulators of a network port's lanes drive (R92): a port of the plan, enabled, not curtained, no lane under test (R461). -/
def State.modulatorsOn (s : State) (p : Nat) : Bool :=
  s.portType p != 0 && s.flagAt Fld.PRT_CONFIG_ENABLE p && !s.portCurtained p && !s.laneTested p

end Sys2Proof.Machine
end

