-- ==== Sys2Proof/Tests/Slice0.lean ====
section
/-! SUPPORT. The model's own tests: ill-formed commands the well-formedness check refuses, one-step checks, and for every
statement with hypotheses (and every clause of one) a state and operands that meet them. -/

namespace Sys2Proof.Tests

open Sys2Proof Sys2Proof.Machine

/-- A table command of CPC-A core 0 on a table, with a staged key. -/
def staged (table : BitVec 7) (key : List Byte) : TableCmd :=
  { issuer := .controlMap (.cpc 0 0), table := table, sceneSel := false
    operands := some { key := key, action := 0, pinned := false, ageLimit := 0, index := 0 } }

/-- What a verified module's record of n octets looks like. -/
def verified (n : Nat) (log : List (List Byte)) : LsmVerify :=
  { identity := List.replicate n 0, certLength := 1, cert := [0], signature := List.replicate 96 0, i2c := false, log := log }

theorem test_illformed_offer : Instr.wf (.offer 1 [] []) = false := by decide
theorem test_illformed_chunk_empty : Instr.wf (.chunk 1 0 []) = false := by decide
theorem test_illformed_stageImage : Instr.wf (.stageImage (.station 1) [] []) = false := by decide
theorem test_illformed_query : Instr.wf (.query (.station 1) (List.replicate 257 0)) = false := by
  simp only [Instr.wf, List.length_replicate]; decide
theorem test_illformed_vote_one : Instr.wf (.voteOneDisagree ⟨.PRT_CONFIG, 256, 0⟩ 256 ⟨0, 0⟩ false) = false := by decide
theorem test_illformed_vote_three : Instr.wf (.voteThreeDisagree ⟨.PRT_CONFIG, 0, 3⟩ ⟨0, 0, 0⟩) = false := by decide
theorem test_illformed_hold_slice_zero : Instr.wf (.scopeHoldWrite (.cpc 0 0) .slice 0 true) = false := by decide
theorem test_illformed_exit_troupe : Instr.wf (.exitScope (.cpc 0 0) .troupe 128) = false := by decide
theorem test_illformed_identity : Instr.wf (.lsmVerifyDone 0 (verified 35 [])) = false := by decide
theorem test_illformed_life_record : Instr.wf (.lsmVerifyDone 0 (verified 36 [[1]])) = false := by decide
theorem test_illformed_arrival : Instr.wf (.frameArrival 0 []) = false := by decide
theorem test_illformed_mgmt_body : Instr.wf (.mgmtFrameReceived 0 0 0 0 (List.replicate 1501 0)) = false := by
  simp only [Instr.wf, List.length_replicate]; decide
theorem test_illformed_insert : Instr.wf (.insert (staged 0 (List.replicate 65 0))) = false := by decide
theorem test_illformed_delete : Instr.wf (.delete (staged 0 (List.replicate 65 0))) = false := by decide
theorem test_illformed_lookup : Instr.wf (.lookup (staged 0 (List.replicate 65 0))) = false := by decide
theorem test_illformed_read_index : Instr.wf (.readIndex (staged 0 (List.replicate 65 0))) = false := by decide
theorem test_illformed_write_index : Instr.wf (.writeIndex (staged 0 (List.replicate 65 0))) = false := by decide
theorem test_illformed_refresh : Instr.wf (.refresh (staged 0 (List.replicate 65 0))) = false := by decide
theorem test_illformed_flush : Instr.wf (.flushScene (staged 0 (List.replicate 65 0))) = false := by decide
theorem test_illformed_shaper : Instr.wf (.shaperWrite (.cpc 0 0) .port 336 0) = false := by decide
theorem test_illformed_cipher : Instr.wf (.cipherSubmit (.tunnel 0) (List.replicate 63 0) []) = false := by decide
theorem test_reset_queue : State.reset.pending = [] := by decide

/-- A device in STAGE whose CPC-A and Vault-A lead, each with its partner running. -/
def leading : State :=
  { dev := { state := .STAGE }, pins := { porst := false }, clk := { ns := 1000 }
    rdn := { units := [(0, { number := 1, state := .RUNNING }), (1, { state := .RUNNING }), (2, { number := 1, state := .RUNNING }),
      (3, { state := .RUNNING })] } }

/-- The same device with engine 15's port 255 of one lane, enabled and up. -/
def lit : State :=
  { leading with
    regs := [(RegName.key .PRT_CONFIG 255, BitVec.ofNat 64 (1 + 2 ^ 8 * 1518)), (RegName.key .OPT_ENGINE_PLAN 15, BitVec.ofNat 64 (2 ^ 60))]
    prt := { ports := [(255, { linkUp := true, xoff := 128, stamps := [(7, 5)] })] }
    pwr := { domains := [(15, { state := .ON })] } }

/-- The same device with frame 0 of n octets from port 255 at a stage of its way, with a decision. -/
def carrying (n : Nat) (phase : FramePhase) (ended : Bool) (d : Option Decision) : State :=
  { lit with
    swc := { frames := [{ id := 0, inPort := 255, passPort := 255, octets := List.replicate n 0, phase := phase, ended := ended, decision := d }], nextFrame := 1 } }

/-- A device of a stack of two whose port 255, up, is designated and has a link; the port stands in engine 15. -/
def stacked (l : StackLink) (k : Stk) : State :=
  { lit with
    clk := { ns := 2000000000, core := 3200000000 }
    stk := { k with plan := [1, 0, 0, 0, 0, 0, 0, 0, 2] ++ List.replicate 54 0 ++ [128] ++ List.replicate 80 0, links := [(255, l)] } }

/-- The header of a Barod frame of a type from a member. -/
def barod (type member : Byte) : List Byte := [1, type, member, 0, 1, 0, 0, 0, 0, 0, 0, 0] ++ List.replicate 12 0

/-- A link of the stack that is established, with member 1. -/
def aliveLink : StackLink := { heard := true, sent := true, version := 2, peer := 1 }

theorem test_meets_StepRunsCommand : State.reset.pending = [] := by decide

theorem test_meets_InvKept : State.reset.Inv := ⟨by decide, by decide, fun c h => by cases h⟩

theorem test_meets_ResetInputs :
    (∃ s : State, s.dev.state = .OFF ∧ s.pins.tamper = false) ∧
    (∃ s : State, s.dev.state = .GHOST ∧ s.dev.settling = true ∧ s.pins.warm = false ∧ s.pins.internalWarm = false) ∧
    (∃ s : State, s.dev.state ≠ .OFF ∧ s.canonical = true ∧ s.cph.ctxs = []) ∧
    (∃ s : State, s.dev.state = .GHOST ∧ s.pins.warm = true ∧ s.dev.testHeld = false ∧ s.coolEnough = true) :=
  ⟨⟨State.reset, by decide⟩, ⟨{ dev := { state := .GHOST, settling := true } }, by decide⟩, ⟨{ dev := { state := .STAGE } }, by decide⟩,
   ⟨{ dev := { state := .GHOST }, pins := { warm := true } }, by decide⟩⟩

theorem test_meets_LoadingSteps :
    (∃ s : State, s.atStep .selfTest = true ∧ s.vlt.store.retired = []) ∧ (∃ s : State, s.atStep .headers = true) ∧
    (∃ s : State, s.atStep .early = true ∧ s.dev.earlyUp = false) ∧ (∃ s : State, s.atStep .body = true) :=
  ⟨⟨{ dev := { state := .LOADING, step := .selfTest } }, by decide⟩, ⟨{ dev := { state := .LOADING, step := .headers } }, by decide⟩,
   ⟨{ dev := { state := .LOADING, step := .early } }, by decide⟩, ⟨{ dev := { state := .LOADING, step := .body } }, by decide⟩⟩

theorem test_meets_RecoveryMessages :
    (∃ s : State, s.inRecovery = true ∧ s.dev.session = none) ∧
    (∃ (s : State) (x : Session), s.inRecovery = true ∧ s.dev.session = some x ∧ x.station ≠ some 1) ∧
    (∃ (s : State) (x : Session) (d : List Byte), s.inRecovery = true ∧ 1 ≤ d.length ∧ d.length ≤ 1024 ∧ s.dev.session = some x ∧ x.station = some 1 ∧ x.next = 0 ∧
      0x100 + x.next + d.length ≤ imgSigOffset x.header) :=
  ⟨⟨{ dev := { state := .CURTAIN, cause := .NO_IMAGE } }, by decide⟩,
   ⟨{ dev := { state := .CURTAIN, cause := .NO_IMAGE, session := some { recovery := true, slotB := false, station := some 2, header := [], sigblock := [] } } }, _,
     by decide, rfl, by decide⟩,
   ⟨{ dev := { state := .CURTAIN, cause := .NO_IMAGE, session := some { recovery := true, slotB := false, station := some 1, header := List.replicate 0x15 0 ++ [0x10], sigblock := [] } } }, _, [7],
     by decide, by decide, by decide, rfl, by decide, by decide, by decide⟩⟩

theorem test_meets_Amendments :
    (∃ s : State, s.cpcRuns = true ∧ s.leadActs = true ∧ s.dev.cause ≠ .ZEROIZE ∧ s.dev.session = none ∧ s.dev.state = .STAGE ∧
      s.targetCode (addrOf .FLT_ALARM_MASK 0) false = Code.OK) ∧
    (∃ s : State, s.cpcRuns = true ∧ s.leadActs = false) ∧ (∃ s : State, s.targetCode (addrOf .SLC_PEER_SHARE 63) true = Code.OK) :=
  ⟨⟨leading, by decide⟩, ⟨{ dev := { state := .STAGE } }, by decide⟩, ⟨State.reset, by decide⟩⟩

theorem test_meets_ControlMapWrites :
    (∃ (s : State) (t : Target), s.mapAnswers = true ∧ s.bufferOf (.cpc 0 0) = none ∧ s.spotOf (.cpc 0 0) (addrOf .FLT_ALARM_MASK 0) = .reg t ∧
      t.reg.info.wide = false ∧ addrOf .FLT_ALARM_MASK 0 % 4 = 0) ∧
    (∃ (s : State) (t : Target), s.mapAnswers = true ∧ s.bufferOf (.cpc 0 0) = none ∧ s.spotOf (.cpc 0 0) (addrOf .SLC_PEER_SHARE 63) = .reg t ∧
      t.reg.info.wide = true ∧ t.high = false ∧ addrOf .SLC_PEER_SHARE 63 % 8 = 0) ∧
    (∃ (s : State) (t : Target), s.bufferOf (.cpc 0 0) = some (addrOf .SLC_PEER_SHARE 63, 5) ∧
      s.spotOf (.cpc 0 0) (addrOf .SLC_PEER_SHARE 63 + 4) = .reg t ∧ t.reg.info.wide = true ∧ t.high = true) ∧
    (∃ (s : State) (t : Target), s.mapAnswers = true ∧ s.bufferOf (.cpc 0 0) = none ∧ addrOf .OPT_LB_CELLS 0 % 8 = 0 ∧
      s.spotOf (.cpc 0 0) (addrOf .OPT_LB_CELLS 0) = .reg t ∧ t.reg.info.wide = false) ∧
    words 2 .b4 = none ∧ words 0 .b2 = none ∧ (∃ s : State, s.mapAnswers = true ∧ s.spotOf (.cpc 0 0) 0x7FFFFFFC = .nothing) ∧
    (∃ (s : State) (w : SlowWrite), s.bridge .PWR = some w) :=
  ⟨⟨leading, ⟨.FLT_ALARM_MASK, 0, false⟩, by decide⟩, ⟨leading, ⟨.SLC_PEER_SHARE, 63, false⟩, by decide⟩,
   ⟨leading.setBuffer (.cpc 0 0) (some (addrOf .SLC_PEER_SHARE 63, 5)), ⟨.SLC_PEER_SHARE, 63, true⟩, by decide⟩,
   ⟨leading, ⟨.OPT_LB_CELLS, 0, false⟩, by decide⟩, by decide, by decide, ⟨leading, by decide⟩,
   ⟨leading.setBridge .PWR (some { requester := 0, reg := .PWR_DOMAIN_CTRL, idx := 0, value := 1, mask := 1 }), _, rfl⟩⟩

theorem test_meets_ControlMapReads :
    (∃ (s : State) (t : Target), s.mapAnswers = true ∧ s.bufferOf (.cpc 0 0) = none ∧ s.latchOf (.cpc 0 0) = none ∧
      s.spotOf (.cpc 0 0) (addrOf .SLC_PEER_SHARE 63) = .reg t ∧ t.reg.info.wide = true ∧ bridgeOf t.reg = none ∧
      State.domainOfReg t.reg t.idx = none ∧ t.high = false) ∧
    (∃ (s : State) (t : Target), s.latchOf (.cpc 0 0) = some (addrOf .SLC_PEER_SHARE 63, 9) ∧
      s.spotOf (.cpc 0 0) (addrOf .SLC_PEER_SHARE 63 + 4) = .reg t ∧ t.high = true) ∧
    (∃ (s : State) (t : Target), s.mapAnswers = true ∧ s.spotOf (.cpc 0 0) (addrOf .FLT_CORRECTED 0) = .reg t ∧
      s.targetOf (.cpc 0 0) (addrOf .FLT_CORRECTED 0) = some t ∧ t.reg.info.wide = true ∧ addrOf .FLT_CORRECTED 0 % 8 = 0 ∧
      bridgeOf t.reg = none ∧ State.domainOfReg t.reg t.idx = none ∧ t.reg.info.fields.all (fun f => f.access == .RC) = true ∧
      t.reg ∉ [RegName.PRT_TX_TS_TAG, .MGT_TIME_NOW, .MGT_PPS_CAPTURE, .SWC_CTR_FRAMES, .SWC_CTR_OCTETS]) ∧
    (∃ (s : State) (t : Target), s.readsReach (.cpc 0 0) = true ∧ s.targetOf (.cpc 0 0) (addrOf .PWR_DOMAIN_CTRL 0) = some t ∧
      bridgeOf t.reg = some .PWR ∧ s.bridge .PWR = none ∧ addrOf .PWR_DOMAIN_CTRL 0 % 4 = 0) :=
  ⟨⟨leading, ⟨.SLC_PEER_SHARE, 63, false⟩, by decide⟩,
   ⟨leading.setLatch (.cpc 0 0) (some (addrOf .SLC_PEER_SHARE 63, 9)), ⟨.SLC_PEER_SHARE, 63, true⟩, by decide⟩,
   ⟨leading, ⟨.FLT_CORRECTED, 0, false⟩, by decide⟩, ⟨leading, ⟨.PWR_DOMAIN_CTRL, 0, false⟩, by decide⟩⟩

theorem test_meets_CommitGates :
    (leading.mapAnswers = true ∧ leading.isLead 0 = true ∧ leading.rdn.before = [] ∧ RegName.SLC_PEER_SHARE.info.block ≠ .KEY ∧
      bridgeOf .SLC_PEER_SHARE = none ∧ State.domainOfReg .SLC_PEER_SHARE 0 = none) ∧
    (leading.isLead 1 = false ∧ RegName.FLT_ALARM_MASK.info.block ∉ [Block.KEY, .RDN, .CBD, .LOCAL] ∧ leading.bufferOf (.cpc 1 0) = none ∧
      (∃ t : Target, leading.spotOf (.cpc 1 0) (addrOf .FLT_ALARM_MASK 0) = .reg t ∧ t.reg.info.wide = false)) ∧
    (leadOnly .SLC_PEER_SHARE = false ∧ gateOf .SLC_PEER_SHARE = some 4 ∧ leading.flagAt Fld.TRP_CLUSTER_CFG_CTRL_WRITE 7 = false) ∧
    leading.canonical = true ∧ leading.flagAt Fld.RDN_REFUSED_LAST_VALID 0 = false ∧
    (∃ s : State, s.flagAt Fld.RDN_REFUSED_LAST_VALID 0 = true ∧ s.canonical = true) ∧ blockAt (Block.range .KEY).1 = some .KEY ∧ blockAt (Block.range .KEY).2 = some .KEY ∧ (Block.range .KEY).1 % 4 = 0 ∧
    leading.dev.state ≠ .LOADING ∧ pf0Writes 15 .HEP_LINK_CTRL 3 = false :=
  ⟨by decide, ⟨by decide, by decide, by decide, ⟨.FLT_ALARM_MASK, 0, false⟩, by decide⟩, by decide, by decide, by decide,
   ⟨{ regs := [(RegName.RDN_REFUSED_LAST.key 0, BitVec.ofNat 64 (2 ^ 63))] }, by decide⟩, by decide, by decide, by decide⟩

theorem test_meets_VotedFields :
    (votedField Fld.PRT_CONFIG_ENABLE 255 = true ∧ leading.vote.broken.contains ⟨.PRT_CONFIG, 255, 0⟩ = false ∧ leading.dev.state ≠ .OFF ∧
      leading.vote.differ = [] ∧ (5 : Word) ≠ leading.votedValue ⟨.PRT_CONFIG, 255, 0⟩ ∧ (6 : Word) ≠ leading.votedValue ⟨.PRT_CONFIG, 255, 0⟩) ∧
    (∃ s : State, s.vote.scrubs.contains (groupIndex 7).toNat = true) ∧
    fieldScope ⟨.PRT_CONFIG, 255, 0⟩ = some (.port, 255) ∧ fieldScope ⟨.RDN_BILLING, 0, 0⟩ = some (.device, 0) ∧ votedField Fld.RDN_BILLING_NUMBER 0 = true :=
  ⟨by decide, ⟨{ vote := { scrubs := [28672] } }, by decide⟩, by decide, by decide, by decide⟩

theorem test_meets_EnginePlans :
    (∃ u, leading.admitWrite (.cpc 0 0) .OPT_ENGINE_PLAN 15 = (true, u)) ∧ planValid 0x4000 = false ∧ planValid 0x0004 = true ∧
    (∃ u, leading.admitWrite (.cpc 0 0) .OPT_LB_CELLS 255 = (true, u)) :=
  ⟨⟨leading, by decide⟩, by decide, by decide, ⟨leading, by decide⟩⟩

set_option maxRecDepth 100000 in
theorem test_meets_LaserModules :
    (∃ s : State, (s.lsm 15).state = .ABSENT ∧ s.mapAnswers = true) ∧
    (∃ s : State, (s.lsm 15).state = .IDENTIFYING ∧ s.identityVerdict (verified 36 []) = 2 ∧ (s.lsm 15).begun + 2000000000 ≤ s.elapsed) ∧
    (∃ u : State, leading.admitWrite (.cpc 0 0) .OPT_LASER_CTRL 15 = (true, u) ∧ u.canonical = true) ∧
    (∃ s : State, (s.lsm 15).state = .EJECTING) ∧ (∃ s : State, (s.lsm 0).state = .READY ∧ s.canonical = true ∧ (s.lsm 0).history.length < 4096 ∧
      (s.lsm 0).channelFault.getLsbD 7 = false) :=
  ⟨⟨leading, by decide⟩, ⟨{ prt := { modules := [(15, { state := .IDENTIFYING })] }, clk := { core := 3200000000 } }, by decide⟩, ⟨leading, by decide⟩,
   ⟨{ prt := { modules := [(15, { state := .EJECTING })] } }, by decide⟩, ⟨{ prt := { modules := [(0, { state := .READY })] } }, by decide⟩⟩

set_option maxRecDepth 100000 in
/-- Whatever the certificate function passes and whatever subject it finds as the record's, the checks pass. -/
theorem test_meets_LaserModules_pass (r c : List Byte) (h : Config.chainVerify r c = true) (hl : c.length = 1)
    (hs : Config.certSubject c = List.replicate 18 0) :
    State.identityVerdict { vlt := { lsmRoots := [r] } } { verified 36 [] with
      identity := (1 : Byte) :: (List.replicate 19 0 ++ (1 : Byte) :: List.replicate 11 0 ++ [81, 50, 70, 134]), cert := c } = 0 := by
  have h1 : leAt ((1 : Byte) :: (List.replicate 19 0 ++ (1 : Byte) :: List.replicate 11 0 ++ [81, 50, 70, 134])) 0 2 = 1 := by decide
  have h2 : leAt ((1 : Byte) :: (List.replicate 19 0 ++ (1 : Byte) :: List.replicate 11 0 ++ [81, 50, 70, 134])) 0x20 4 =
      (crc32c 0 (((1 : Byte) :: (List.replicate 19 0 ++ (1 : Byte) :: List.replicate 11 0 ++ [81, 50, 70, 134])).take 32)).toNat := by decide
  have h3 : leAt ((1 : Byte) :: (List.replicate 19 0 ++ (1 : Byte) :: List.replicate 11 0 ++ [81, 50, 70, 134])) 0x14 2 = 1 := by decide
  have h4 : slice ((1 : Byte) :: (List.replicate 19 0 ++ (1 : Byte) :: List.replicate 11 0 ++ [81, 50, 70, 134])) 2 18 = List.replicate 18 0 := by decide
  unfold State.identityVerdict
  dsimp only
  rw [h1, h2, h3, h4, hl, hs]
  simp [h, verified]

theorem test_meets_PortPause :
    ((∃ u, lit.admitWrite (.cpc 0 0) .PRT_CONFIG 255 = (true, u) ∧ u.portType 255 ≠ 0 ∧ u.receiving 255 = [] ∧
      u.flagAt Fld.PRT_CONFIG_ENABLE 255 = true ∧ (u.setFld Fld.PRT_CONFIG_ENABLE 255 1).pauseMode 255 ≠ 2)) ∧
    (7 % 2 = 1 ∧ 7 / 2 % 4 = 3 ∧ 7 / 2 ^ 8 % 2 ^ 14 < 1518) ∧ (7 + 2 ^ 8 * 10240) / 2 ^ 8 % 2 ^ 14 ≤ 10240 ∧
    (∃ u, lit.admitWrite (.cpc 0 0) .PRT_PFC_WM 2047 = (true, u)) ∧ lit.portUsable 255 = true ∧
    lit.sleepingAt .PRT_CONFIG 255 = none ∧ lit.sleepingAt .PRT_PFC_WM 2047 = none ∧ SMap.get noTime (lit.port 255).ends 8 ≤ lit.elapsed ∧
    (∃ s : State, s.portUsable 255 = true ∧ ((s.bump .PRT_RX_FRAMES 255).bumpBy .PRT_RX_OCTETS 255 64).pauseMode 255 = 2) ∧
    (∃ s : State, s.portUsable 255 = true ∧ ((s.bump .PRT_RX_FRAMES 255).bumpBy .PRT_RX_OCTETS 255 64).pauseMode 255 = 1) ∧
    (lit.portCurtained 255 = false ∧ lit.laneTested 255 = false) ∧ lit.swc.frames = [] ∧ lit.swc.copies = [] :=
  ⟨⟨(lit.admitWrite (.cpc 0 0) .PRT_CONFIG 255).2, by decide⟩, by decide, by decide, ⟨(lit.admitWrite (.cpc 0 0) .PRT_PFC_WM 2047).2, by decide⟩, by decide, by decide, by decide, by decide,
   ⟨lit.setFld Fld.PRT_CONFIG_PAUSE_MODE 255 2, by decide⟩, ⟨lit.setFld Fld.PRT_CONFIG_PAUSE_MODE 255 1, by decide⟩, by decide, rfl, rfl⟩

theorem test_meets_DeviceTime :
    (∃ s : State, s.pending = [] ∧ s.dev.state = .OFF) ∧ (leading.pending = [] ∧ leading.dev.state ≠ .OFF ∧ leading.flagAt Fld.GLT_CLOCK_STATUS_GHOST_LOST 0 = false ∧ leading.clk.step = none ∧ leading.rdn.before = []) ∧
    (∃ s : State, s.pending = [] ∧ s.dev.state ≠ .OFF ∧ s.flagAt Fld.GLT_CLOCK_STATUS_GHOST_LOST 0 = true ∧ s.clk.step = none) ∧
    (∃ s : State, s.clk.step = some (-2000) ∧ s.dev.state ≠ .OFF ∧ s.flagAt Fld.GLT_CLOCK_STATUS_GHOST_LOST 0 = false ∧
      s.clk.fine + 40 * 2 ^ 32 + signed 32 (s.fld Fld.MGT_TIME_FREQ_FREQ 0) + -2000 * 2 ^ 32 < 0) ∧
    (∃ s : State, s.clk.step = some (-1000) ∧ 0 ≤ s.clk.fine + 40 * 2 ^ 32 + signed 32 (s.fld Fld.MGT_TIME_FREQ_FREQ 0) + -1000 * 2 ^ 32) ∧
    (∃ u, leading.admitWrite (.cpc 0 0) .MGT_TIME_STEP 0 = (true, u)) ∧ leading.mapAnswers = true ∧ leading.vote.broken = [] ∧ leading.vote.differ = [] ∧ (leading.timeInput 1).edgeAt + 1100000000 ≤ 1100000000 ∧
    leading.readsPlain (.cpc 0 0) ⟨.MGT_PPS_CAPTURE, 1, true⟩ (addrOf .MGT_PPS_CAPTURE 1 + 4) = true ∧
    leading.readsPlain (.cpc 0 0) ⟨.MGT_TOD_DATA, 1, false⟩ (addrOf .MGT_TOD_DATA 1) = true ∧
    leading.readsPlain (.cpc 0 0) ⟨.MGT_TIME_NOW, 0, false⟩ (addrOf .MGT_TIME_NOW 0) = true ∧
    lit.readsPlain (.cpc 0 0) ⟨.PRT_TX_TS_TAG, 255, false⟩ (addrOf .PRT_TX_TS_TAG 255) = true ∧
    lit.readsPlain (.cpc 0 0) ⟨.PRT_TX_TS_TAG, 255, true⟩ (addrOf .PRT_TX_TS_TAG 255 + 4) = true :=
  ⟨⟨State.reset, by decide⟩, by decide, ⟨leading.setFld Fld.GLT_CLOCK_STATUS_GHOST_LOST 0 1, by decide⟩, ⟨{ leading with clk := { ns := 1000, step := some (-2000) } }, by decide⟩,
   ⟨{ leading with clk := { ns := 1000, step := some (-1000) } }, by decide⟩, ⟨(leading.admitWrite (.cpc 0 0) .MGT_TIME_STEP 0).2, by decide⟩, by decide, rfl, rfl, by decide,
   by decide, by decide, by decide, by decide, by decide⟩

theorem test_meets_Reception :
    leading.portUsable 255 = false ∧ (lit.portUsable 255 = true ∧ (∃ w y, w = (lit.touchDomain 15).newFrame { id := 0, inPort := 255, passPort := 255, landing := true } ∧
      w.frame? (lit.touchDomain 15).swc.nextFrame = some y)) ∧
    (∃ (s : State) (x : Frame), x.lost = 0 ∧ x.landing = true ∧ 16 ≤ x.octets.length ∧ x.octets.length + 1 ≤ s.fld Fld.PRT_CONFIG_MAX_FRAME x.inPort ∧
      x.octets.length + 1 ≤ (s.fld Fld.OPT_LB_CELLS_CELLS x.inPort - (s.landingPort x.inPort - x.cells)) * 256) ∧
    (∃ (s : State) (x y : Frame), s.frame? 0 = some x ∧ x.incoming = true ∧ x.octets.length + x.lost < 64 ∧
      (s.grow x ([].take (s.fld Fld.PRT_CONFIG_MAX_FRAME x.inPort - (x.octets.length + x.lost)))).frame? 0 = some y) ∧
    (∃ (s : State) (x y : Frame), s.frame? 0 = some x ∧ x.incoming = true ∧ 64 ≤ x.octets.length + x.lost ∧ x.verify = false ∧
      ((s.rxCount x).finishTail { x with csumResult := 0 }).frame? 0 = some y ∧ y.phase ≠ .held) ∧
    (∃ (s : State) (x : Frame), s.frame? 0 = some x ∧ x.incoming = false ∧ x.phase = .arriving ∧ x.ended = true ∧ s.domainOn (x.passPort / 16) = true) ∧
    (∃ (s : State) (x : Frame) (d : Decision), s.frame? 0 = some x ∧ x.phase = .looking ∧ s.overtakes x = false ∧ x.decision = some d ∧ s.sceneIsForced x.ticket.scene = true) ∧
    (∃ (s : State) (x : Frame) (d : Decision), s.frame? 0 = some x ∧ x.phase = .looking ∧ s.overtakes x = false ∧ x.decision = some d ∧ s.sceneIsForced x.ticket.scene = false ∧
      s.creditHeld x d = false ∧ d.police = none) ∧
    (∃ (s : State) (x : Frame) (d : Decision), s.frame? 0 = some x ∧ x.phase = .looking ∧ s.overtakes x = false ∧ x.decision = some d ∧ s.sceneIsForced x.ticket.scene = false ∧
      s.creditHeld x d = false ∧ d.police = some (5, false) ∧ x.ended = false) ∧
    (∃ (s : State) (x : Frame) (d : Decision), s.frame? 0 = some x ∧ x.phase = .held ∧ x.decision = some d ∧ s.sceneIsForced x.ticket.scene = false ∧
      s.creditHeld x d = false ∧ d.police = some (5, false) ∧ x.ended = true ∧ (s.meter 5 x.octets.length false x.ticket.dp.toNat).1 = 2) :=
  ⟨by decide, ⟨by decide, _, _, rfl, rfl⟩, ⟨lit.setFld Fld.OPT_LB_CELLS_CELLS 255 1, { id := 0, inPort := 255, passPort := 255, octets := List.replicate 16 0, landing := true }, by decide⟩,
   ⟨carrying 63 .arriving false none, { id := 0, inPort := 255, passPort := 255, octets := List.replicate 63 0 }, _, by decide, by decide, by decide, rfl⟩,
   ⟨carrying 64 .arriving false none, { id := 0, inPort := 255, passPort := 255, octets := List.replicate 64 0 }, { id := 0, inPort := 255, passPort := 255, octets := List.replicate 64 0, ended := true }, by decide⟩,
   ⟨carrying 64 .arriving true none, { id := 0, inPort := 255, passPort := 255, octets := List.replicate 64 0, ended := true }, by decide⟩,
   ⟨{ carrying 0 .looking true (some {}) with scn := { slots := [(1, { state := .FORCED })] } }, { id := 0, inPort := 255, passPort := 255, phase := .looking, ended := true, decision := some {} }, {}, by decide⟩,
   ⟨carrying 0 .looking true (some {}), { id := 0, inPort := 255, passPort := 255, phase := .looking, ended := true, decision := some {} }, {}, by decide⟩,
   ⟨carrying 0 .looking false (some { police := some (5, false) }), { id := 0, inPort := 255, passPort := 255, phase := .looking, decision := some { police := some (5, false) } }, { police := some (5, false) }, by decide⟩,
   ⟨carrying 1 .held true (some { police := some (5, false) }), { id := 0, inPort := 255, passPort := 255, octets := [0], phase := .held, ended := true, decision := some { police := some (5, false) } }, { police := some (5, false) }, by decide⟩⟩

theorem test_meets_Scenes :
    (∃ u, leading.admitWrite (.cpc 0 0) .CLS_SCENE_COMMIT 0 = (true, u) ∧ u.armedSlot = none ∧
      (u.commitCheck u.scn.pending false).1 = Code.OK ∧ u.freeSceneSlot = some 0) ∧
    (∃ (s u : State), s.admitWrite (.cpc 0 0) .CLS_SCENE_COMMIT 0 = (true, u) ∧ u.armedSlot = some 3 ∧ u.freeSceneSlot = some 0) ∧
    (∃ s : State, s.armedSlot = none ∧ s.freeSceneSlot = none) ∧
    (∃ s : State, s.armedSlot = some 3 ∧ s.scn.activation ≤ s.now ∧ (s.makeCurrent 3 (s.slot 3).scene).armedSlot = none) ∧
    (∃ s : State, s.armedSlot = some 3 ∧ s.now < s.scn.activation) ∧
    (∃ s : State, (s.slot 3).state = .DRAINING ∧ s.inflight (s.slot 3).scene = 0 ∧ s.elapsed < (s.slot 3).since + s.fld Fld.CLS_RETIRE_LIMIT_MS 0 * 1000000) ∧
    (∃ s : State, (s.slot 3).state = .DRAINING ∧ (s.slot 3).since + s.fld Fld.CLS_RETIRE_LIMIT_MS 0 * 1000000 ≤ s.elapsed) :=
  ⟨⟨(leading.admitWrite (.cpc 0 0) .CLS_SCENE_COMMIT 0).2, by decide⟩,
   ⟨{ leading with scn := { slots := [(3, { scene := 1, state := .ARMED })] } }, (State.admitWrite { leading with scn := { slots := [(3, { scene := 1, state := .ARMED })] } } (.cpc 0 0) .CLS_SCENE_COMMIT 0).2, by decide⟩,
   ⟨{ leading with scn := { slots := [(0, { state := .CURRENT }), (1, { state := .DRAINING }), (2, { state := .DRAINING }), (3, { state := .FORCED })] } }, by decide⟩,
   ⟨{ leading with scn := { slots := [(3, { scene := 1, state := .ARMED })] } }, by decide⟩,
   ⟨{ leading with scn := { slots := [(3, { scene := 1, state := .ARMED })], activation := 5000 } }, by decide⟩,
   ⟨{ leading with scn := { slots := [(3, { scene := 1, state := .DRAINING })] } }, by decide⟩,
   ⟨{ leading with clk := { core := 1600000000 }, scn := { slots := [(3, { scene := 1, state := .DRAINING })] } }, by decide⟩⟩

theorem test_meets_TableCommands :
    (∃ u, leading.admitWrite (.cpc 0 0) .TBL_CMD 0 = (true, u) ∧ u.tbl.finished.any (fun y => y.1.isNone) = false) ∧
    (∃ (s u : State), s.admitWrite (.cpc 0 0) .TBL_CMD 0 = (true, u) ∧ u.tbl.finished.any (fun y => y.1.isNone) = true ∧
      s.tbl.finished = [(none, {})]) ∧
    (∃ s : State, s.tbl.finished = [(some 5, {})]) ∧
    (∃ (s : State) (o : TableOperands), s.cmdCheck 3 63 o = none ∧ s.cmdCheck 4 63 o = none ∧ s.cmdCheck 6 63 o = none ∧ s.cmdCheck 2 63 o = none ∧ s.cmdCheck 1 63 o = none ∧
      s.cmdCheck 7 63 o = none ∧ s.tableOn 63 = true ∧ s.cmdCheck 5 64 o = none ∧ s.cmdCheck 0 63 o = some 1) :=
  ⟨⟨(leading.admitWrite (.cpc 0 0) .TBL_CMD 0).2, by decide⟩,
   ⟨{ leading with tbl := { finished := [(none, {})] } }, (State.admitWrite { leading with tbl := { finished := [(none, {})] } } (.cpc 0 0) .TBL_CMD 0).2, by decide⟩,
   ⟨{ leading with tbl := { finished := [(some 5, {})] } }, rfl⟩,
   ⟨leading.setFld Fld.TBL_TABLE_CFG_ENABLE 63 1, { key := [], action := 1048575, pinned := false, ageLimit := 0, index := 63 }, by decide⟩⟩

theorem test_meets_TableCommands_thread :
    ∃ s : State, s.threadNames (threadOf 0 0 0) { issuer := .channel 0 0 0, table := 5, sceneSel := true, operands := none } = true :=
  ⟨{ lit with trp := { ops := [{ thread := 0, channel := 1, staged := [0, 5, 1, 0] }] } }, by decide⟩

theorem test_meets_TableCommands_entries :
    ∃ (s : State) (k : Nat) (e : Entry), s.findEntry 63 [7] (fun e => e.visible 1) = some (k, e) ∧ e.born = 1 ∧ e.settled = false ∧ s.scn.pending = 1 ∧
      s.findEntry 63 [8] (fun e => e.visible 1) = none ∧ (s.keySlots 63 [8]).find? (fun k => (s.entry k).isNone) ≠ none :=
  ⟨leading.setEntry ((leading.keySlots 63 [7]).headD 0) (some { key := [7], action := 0, pinned := false, ageLimit := 0, stamp := 0, born := 1, died := 0, diedValid := false, settled := false }),
   (leading.keySlots 63 [7]).headD 0, { key := [7], action := 0, pinned := false, ageLimit := 0, stamp := 0, born := 1, died := 0, diedValid := false, settled := false }, by decide⟩

/-- An entry of a key. -/
def learned (port : Nat) (limit : BitVec 15) : Entry :=
  { key := [0, 0, 0, 0, 0, 0, 0, 1], action := BitVec.ofNat 24 port, pinned := false, ageLimit := limit, stamp := 0, born := 0, died := 0, diedValid := true, settled := false }
set_option maxRecDepth 100000 in
theorem test_meets_TableUpkeep :
    (∃ u, leading.admitWrite (.cpc 0 0) .TBL_TABLE_CFG 66 = (true, u)) ∧
    (∃ u, leading.admitWrite (.cpc 0 0) .TBL_SEED_B 66 = (true, u) ∧ u.tableHolds 66 = false) ∧
    (∃ (s u : State), s.admitWrite (.cpc 0 0) .TBL_SEED_A 63 = (true, u) ∧ u.tableHolds 63 = true) ∧
    (∃ u, leading.admitWrite (.cpc 0 0) .TBL_EVICTED_POP 0 = (true, u)) ∧
    (leading.setEntry 8388607 (some (learned 0 1))).entry 8388607 = some (learned 0 1) ∧
    (∃ s : State, s.mapAnswers = true ∧ s.tbl.nowAt + 1000000 * 2 ^ s.fld Fld.TBL_AGE_CTRL_PERIOD_LOG2 0 ≤ s.elapsed) ∧
    leading.elapsed < leading.tbl.nowAt + 1000000 * 2 ^ leading.fld Fld.TBL_AGE_CTRL_PERIOD_LOG2 0 ∧
    (∃ s : State, s.entry (s.slotOf 66 0 0 + 63) = some (learned 0 1) ∧ 63 < 4 * 2 ^ s.log2 66 ∧ (learned 0 1).aged s.tbl.now = true) ∧
    (∃ s : State, s.tbl.removes = [(66, 5, [1], 0)]) ∧
    (∃ (s w : State), s.swc.learnQueue.find? (fun q => q.1 == (21 : Fin 22).val) = some (21, [0, 0, 0, 0, 0, 0, 0, 1], 255) ∧ w.tableOn 65 = false) ∧
    (∃ (w : State), w.tableOn 65 = true ∧ w.learnAllows 255 = true ∧ w.flagAt Fld.TBL_LEARN_PORT_MOVE_EN 255 = true ∧ (learned 254 1).action.toNat ≠ 255 ∧
      w.findEntry 65 (learned 254 1).key (fun _ => true) = some ((w.keySlots 65 (learned 254 1).key).headD 0, learned 254 1)) ∧
    (∃ (w : State), w.tableOn 65 = true ∧ w.findEntry 65 [0, 0, 0, 0, 0, 0, 0, 1] (fun _ => true) = none ∧ w.learnAllows 255 = true ∧
      (w.keySlots 65 [0, 0, 0, 0, 0, 0, 0, 1]).find? (fun k => (w.entry k).isNone) ≠ none) ∧
    (∃ s : State, s.pairsAwake s.tbl.placement.flow = true ∧ s.tbl.fills.contains (min 3 1, max 3 1) = true) ∧
    (∃ s : State, s.pairsAwake s.tbl.placement.flow = false) :=
  ⟨⟨(leading.admitWrite (.cpc 0 0) .TBL_TABLE_CFG 66).2, by decide⟩, ⟨(leading.admitWrite (.cpc 0 0) .TBL_SEED_B 66).2, by decide⟩,
   ⟨(leading.setFld Fld.TBL_TABLE_CFG_ENABLE 63 1).setEntry 0 (some (learned 0 1)), (State.admitWrite ((leading.setFld Fld.TBL_TABLE_CFG_ENABLE 63 1).setEntry 0 (some (learned 0 1))) (.cpc 0 0) .TBL_SEED_A 63).2, by decide⟩,
   ⟨(leading.admitWrite (.cpc 0 0) .TBL_EVICTED_POP 0).2, by decide⟩, by decide,
   ⟨{ leading with clk := { core := 1638400000 } }, by decide⟩, by decide,
   ⟨{ leading with tbl := { entries := [(0x2000000 + 63, some (learned 0 1))], now := 2 } }, by decide⟩, ⟨{ tbl := { removes := [(66, 5, [1], 0)] } }, rfl⟩,
   ⟨{ leading with swc := { learnQueue := [(21, [0, 0, 0, 0, 0, 0, 0, 1], 255)] } }, leading, by decide⟩,
   ⟨(leading.setFld Fld.TBL_TABLE_CFG_ENABLE 65 1).setEntry ((leading.keySlots 65 (learned 254 1).key).headD 0) (some (learned 254 1)), by decide⟩,
   ⟨leading.setFld Fld.TBL_TABLE_CFG_ENABLE 65 1, by decide⟩,
   ⟨{ leading with tbl := { fills := [(1, 3)] } }, by decide⟩,
   ⟨{ leading with tbl := { placement := { flow := 3 } }, pwr := { domains := [(38, { state := .ASLEEP })] } }, by decide⟩⟩

theorem test_meets_Egress :
    lit.portStarts 255 = true ∧ lit.swc.copies = [] ∧ (lit.retagAll 255).select 255 = none ∧ leading.portStarts 255 = false ∧
    (∃ (s : State) (k : Copy) (x : Frame), s.swc.copies.find? (fun k => k.port == 255 && k.started) = some k ∧ s.frame? k.frame = some x ∧ x.ended = true) ∧
    (∃ (s : State) (k : Copy) (x : Frame), s.swc.copies.find? (fun k => k.port == 331 && k.started) = some k ∧ s.frame? k.frame = some x ∧ x.ended = true) ∧
    (∃ (s : State) (k : Copy) (x : Frame), s.swc.copies.find? (fun k => k.port == 335 && k.started) = some k ∧ s.frame? k.frame = some x ∧ x.ended = false) ∧
    (∃ (s : State) (k : Copy) (x : Frame), s.swc.copies.find? (fun k => k.port == 335 && k.cls == 7 && k.spilled) = some k ∧ s.frame? k.frame = some x ∧
      s.pairsAwake s.tbl.placement.spill = true ∧ x.ended = true ∧ x.bad = false ∧ s.fld Fld.SWC_Q_LIMIT_SPILL_AT (8 * 335 + 7) / 2 ≤ s.depthOf 335 7 false) ∧
    (∃ (s : State) (k : Copy) (x : Frame), s.swc.copies.find? (fun k => k.port == 335 && k.cls == 7 && k.spilled) = some k ∧ s.frame? k.frame = some x ∧
      s.depthOf 335 7 false < s.fld Fld.SWC_Q_LIMIT_SPILL_AT (8 * 335 + 7) / 2) ∧
    (∀ j, j < 32 → leading.memberLive 4351 j = false) ∧
    (∃ s : State, s.memberLive 4351 31 = false ∧ s.memberLive 4351 0 = true) :=
  ⟨by decide, rfl, by decide, by decide,
   ⟨{ carrying 64 .forwarded true none with swc := { (carrying 64 .forwarded true none).swc with copies := [{ frame := 0, port := 255, cls := 0, slice := 0, started := true }] } }, _, _, rfl, rfl, rfl⟩,
   ⟨{ carrying 64 .forwarded true none with swc := { (carrying 64 .forwarded true none).swc with copies := [{ frame := 0, port := 331, cls := 0, slice := 0, started := true }] } }, _, _, rfl, rfl, rfl⟩,
   ⟨{ carrying 64 .forwarded false none with swc := { (carrying 64 .forwarded false none).swc with copies := [{ frame := 0, port := 335, cls := 0, slice := 0, started := true }] } }, _, _, rfl, rfl, rfl⟩,
   ⟨{ carrying 64 .forwarded true none with swc := { (carrying 64 .forwarded true none).swc with copies := [{ frame := 0, port := 335, cls := 7, slice := 0, spilled := true }] } }, _, _, rfl, rfl, rfl, rfl, rfl, by decide⟩,
   ⟨State.setFld { carrying 64 .forwarded true none with swc := { (carrying 64 .forwarded true none).swc with copies := [{ frame := 0, port := 335, cls := 7, slice := 0, spilled := true }] } } Fld.SWC_Q_LIMIT_SPILL_AT 2687 2, _, _, rfl, rfl, by decide⟩,
   by decide, ⟨(lit.setFld Fld.SWC_MEMBER_PORT (32 * 4351) 255).setFld Fld.SWC_MEMBER_VALID (32 * 4351) 1, by decide⟩⟩

theorem test_meets_ShapersTimetables :
    ((Instr.shaperWrite (.cpc 0 0) .sliceSend 4095 0).wf = true ∧ sliceZero (shaperReg .sliceSend) 4095 = false ∧ (∃ u, leading.admitWrite (.cpc 0 0) (shaperReg .sliceSend) 4095 = (true, u))) ∧
    (∃ u, leading.admitWrite (.cpc 0 0) .TMS_POLICER_RATE 16383 = (true, u)) ∧ (∃ u, leading.admitWrite (.cpc 0 0) .TMS_POLICER_SIZE 16383 = (true, u)) ∧
    (∃ u, leading.admitWrite (.cpc 0 0) .TMS_TT_ADMIN_CTRL 255 = (true, u) ∧ u.changeAt 255 = none) ∧
    (∃ (s u : State), s.admitWrite (.cpc 0 0) .TMS_TT_ADMIN_CTRL 255 = (true, u) ∧ u.changeAt 255 = some 1000) ∧
    (leading.changeAt 255 = none ∧ leading.fld Fld.TMS_TT_ADMIN_CTRL_LENGTH 255 = 1) ∧
    (∃ s : State, s.changeAt 255 = none ∧ s.fld Fld.TMS_TT_ADMIN_CYCLE_NS 255 = 1000 ∧ s.fld Fld.TMS_TT_ADMIN_CTRL_LENGTH 255 = 1024 ∧ s.fld Fld.TMS_TT_ADMIN_BASE_NANOSECONDS 255 = 999999999) ∧
    (∃ s : State, s.changeAt 255 = some 1001 ∧ s.now < 1001) ∧ (∃ s : State, s.changeAt 255 = some 1000 ∧ 1000 ≤ s.now ∧ ∀ c, c < 8 → s.gateOpen 255 c = true) ∧
    leading.timetable 255 = none ∧ (∃ (s : State) (t : Timetable) (x : Segment), s.timetable 255 = some t ∧ t.segmentAt (t.position s.now) = some x) :=
  ⟨⟨by decide, by decide, (leading.admitWrite (.cpc 0 0) (shaperReg .sliceSend) 4095).2, by decide⟩, ⟨(leading.admitWrite (.cpc 0 0) .TMS_POLICER_RATE 16383).2, by decide⟩,
   ⟨(leading.admitWrite (.cpc 0 0) .TMS_POLICER_SIZE 16383).2, by decide⟩, ⟨(leading.admitWrite (.cpc 0 0) .TMS_TT_ADMIN_CTRL 255).2, by decide⟩,
   ⟨leading.setChange 255 (some 1000), ((leading.setChange 255 (some 1000)).admitWrite (.cpc 0 0) .TMS_TT_ADMIN_CTRL 255).2, by decide⟩, by decide,
   ⟨((leading.setFld Fld.TMS_TT_ADMIN_CYCLE_NS 255 1000).setFld Fld.TMS_TT_ADMIN_CTRL_LENGTH 255 1024).setFld Fld.TMS_TT_ADMIN_BASE_NANOSECONDS 255 999999999, by decide⟩,
   ⟨leading.setChange 255 (some 1001), by decide⟩, ⟨leading.setChange 255 (some 1000), by decide⟩, by decide,
   ⟨{ (leading.setFld Fld.TMS_PORT_CFG_TT_EN 255 1) with tms := { oper := [(255, some { base := 0, cycle := 1000, entries := [(1, 1000)] })] } }, { base := 0, cycle := 1000, entries := [(1, 1000)] }, _, by decide, rfl⟩⟩

/-- The same frame, ended, at tunnel port 323 for context 65535 of a type and state. -/
def tunneled (type st : Nat) : State :=
  State.setTun { carrying 64 .forwarded true (some { ctx := 65535 }) with
    swc := { (carrying 64 .forwarded true (some { ctx := 65535 })).swc with arrived := [{ frame := 0, port := 323, cls := 0, slice := 0 }] } }
    65535 (toLE 84 type ++ toLE 44 st)
theorem test_meets_TunnelUnits :
    leading.arrivedAt 323 = none ∧ ((tunneled 1 1).arrivedAt 323).isSome = true ∧ tType ((tunneled 1 1).tun 65535) = 1 ∧ tState ((tunneled 1 1).tun 65535) = 1 ∧
    tType ((tunneled 8 1).tun 65535) = 8 ∧ (∃ x, (tunneled 2 1).frame? 0 = some x ∧ x.bad = false ∧ (tunneled 2 1).pickContext x 1 = .inl 65535 ∧
      (tunneled 2 1).pickContext x 0 = .inr .OFL_WRONG_DIE ∧ (tunneled 2 0).pickContext x 1 = .inr .OFL_CTX_INACTIVE ∧
      (tunneled 2 3).pickContext x 1 = .inr .OFL_SEQ_EXHAUSTED ∧ ((tunneled 2 1).setFld Fld.OFL_CTRL_MAX_PASSES 0 0).pickContext x 1 = .inr .OFL_PASS_LIMIT) ∧
    (∃ (s : State) (j : TunnelJob) (r : CipherResult), s.inboundResult 1 = some (j, r) ∧ j.frame.bad = false ∧ leAt r.result 0 1 = 5 ∧ leAt r.result 4 4 = 0) ∧
    (∃ r : CipherResult, leAt r.result 0 1 = 0 ∧ splitTrailer r.output = some ([], 59)) :=
  ⟨rfl, by decide, by decide, by decide, by decide, ⟨{ id := 0, inPort := 255, passPort := 255, octets := List.replicate 64 0, phase := .forwarded, ended := true, decision := some { ctx := 65535 } }, by decide⟩,
   ⟨{ ofl := { jobs := [{ id := 3, frame := { id := 0, inPort := 255, passPort := 255 }, ctx := 65535, port := 323, seq := 1, inbound := true, head := [], aad := [], payload := [], ecn := 0, obj := [] }] }
      cph := { results := [{ requester := .tunnel 1, cookie := 3, result := [5, 0, 0, 0, 0, 0, 0, 0, 0, 0, 0, 0, 0, 0, 0, 0], output := [], dst := 0 }] } }, _, _, rfl, rfl, rfl, rfl⟩,
   ⟨{ requester := .tunnel 1, cookie := 3, result := [0], output := [0, 59], dst := 0 }, by decide⟩⟩

/-- A management frame of one segment: type 9, SEQ 7, no station before, one octet. -/
def mgmtBytes (index count : Nat) : List Byte := [1, 9, 0, 0] ++ toLE 8 5 ++ toLE 4 7 ++ toLE 2 index ++ toLE 2 count ++ toLE 4 1 ++ [0]
theorem test_meets_ManagementFrames :
    (leading.setFld Fld.MGT_SEG_CTRL_ENABLE 1 0).segmentOn 1 = false ∧ (leading.mapAnswers = true ∧ (leading.setFld Fld.MGT_SEG_CTRL_ENABLE 1 1).segmentOn 1 = true) ∧
    (leAt (mgmtBytes 0 1) 0 1 = 1 ∧ leAt (mgmtBytes 0 1) 1 1 = 9 ∧ leAt (mgmtBytes 0 1) 18 2 = 1 ∧ leAt (mgmtBytes 0 1) 16 2 = 0 ∧ leAt (mgmtBytes 0 1) 20 2 = 1 ∧ (mgmtBytes 0 1).length = 25) ∧
    leAt (mgmtBytes 1 1) 18 2 ≤ leAt (mgmtBytes 1 1) 16 2 ∧ (leading.station 5).seen 7 = false ∧ (leading.setStation ((leading.station 5).accept 7)).mgt.stations ≠ [] ∧
    ((leading.station 5).accept 7).seen 7 = true ∧ leading.mgt.assemblies = [] := by decide

theorem test_meets_ObjectsAndEvents :
    (∃ u, leading.admitWrite (.cpc 0 0) .OFL_OBJ_CMD 0 = (true, u) ∧ u.spaceMalformed 65535 (u.objData.take 32) = false ∧ espOutType (tType (u.tun 65535)) = false) ∧
    (∃ u, leading.admitWrite (.cpc 0 0) .OFL_EVENT_POP 0 = (true, u)) ∧ tunMalformed 65535 (List.replicate 128 0) = true ∧
    tunMalformed 65535 (toLE 2 0 ++ toLE 2 64 ++ toLE 76 0 ++ toLE 2 65535 ++ toLE 46 0) = false ∧ connMalformed 8191 (List.replicate 128 0) = false ∧ connMalformed 8192 [] = true ∧
    (∃ s : State, s.spaceMalformed 0 (toLE 24 (65536 * 2 ^ 32)) = true ∨ s.spaceMalformed 0 (List.replicate 32 (255 : Byte)) = true) ∧
    (∃ u : State, espOutType (tType (u.tun 65535)) = true ∧ u.rollable 65535 = false) :=
  ⟨⟨(leading.admitWrite (.cpc 0 0) .OFL_OBJ_CMD 0).2, by decide⟩, ⟨(leading.admitWrite (.cpc 0 0) .OFL_EVENT_POP 0).2, by decide⟩, by decide, by decide, by decide, by decide,
   ⟨leading, by decide⟩, ⟨leading.setTun 65535 [7], by decide⟩⟩

/-- The same frame at storage port 333 for a connection. -/
def delivered (c : Nat) : State :=
  { carrying 64 .forwarded true (some { ctx := c }) with
    swc := { (carrying 64 .forwarded true (some { ctx := c })).swc with arrived := [{ frame := 0, port := 333, cls := 0, slice := 0 }] } }
/-- Connection 8191 READY over TCP, its Keep Alive and answer times 1 ms and 0, with a run. -/
def connected (r : ConnRun) : State :=
  State.setConnRun (leading.setConn 8191 (splice (splice (splice (toLE 128 0) 0 [2]) 84 [1]) 80 (toLE 2 1))) 8191 r
set_option maxRecDepth 100000 in
theorem test_meets_StorageConnections :
    leading.arrivedAt 333 = none ∧ ((delivered 8192).arrivedAt 333).isSome = true ∧ (∃ x, (delivered 8191).frame? 0 = some x ∧ x.engineCtx = 8191 ∧ x.bad = false ∧
      x.reentries + 1 ≤ (delivered 8191).fld Fld.OFL_CTRL_MAX_PASSES 0) ∧
    connReady (leading.conn 8191) = false ∧ connReady ((connected {}).conn 8191) = true ∧ leAt ((connected {}).conn 8191) 80 2 ≠ 0 ∧ (connected {}).sto.cmds = [] ∧
    (∃ c : StCmd, State.cmd? { leading with sto := { cmds := [c] } } 7 = some c ∧ c.phase = .sent ∧ c.answer = none ∧ c.sentAt + 1000000 * leAt (leading.conn c.conn) 12 4 ≤ leading.elapsed) ∧
    ((connected { alive := true }).connRun 8191).alive = true ∧ ((connected { unacked := [{ seq := 0, next := 1, octets := [] }] }).connRun 8191).unacked ≠ [] ∧
    (6 < ((connected { retries := 6 }).connRun 8191).retries + 1) :=
  ⟨rfl, by decide, ⟨{ id := 0, inPort := 255, passPort := 255, octets := List.replicate 64 0, phase := .forwarded, ended := true, decision := some { ctx := 8191 } }, by decide⟩, by decide, by decide, by decide, rfl,
   ⟨{ id := 7, queue := 0, life := 0, slc := 1, gen := 0, sqe := [], space := [], conn := 8191, bytes := 0, phase := .sent }, by decide⟩, by decide, by decide, by decide⟩

/-- A request of context 262143 with an operation and PAYLOAD_LEN 16, and a device with that context in a state and the request queued. -/
def asked (op : Nat) : CipherReq := { requester := .tunnel 1, raw := requestBytes op 0 0 16 262143 0 0 0 0 0 0, input := List.replicate 16 0 }
def keyed (op : Nat) (state : KeyState) : State :=
  { leading with cph := { queue := [asked op], round := [(262143, 0)], ctxs := [(262143, { state := state, alg := 1 })] }, pwr := { domains := (List.range 40).map (fun d => (d, { state := .ON })) } }
theorem test_meets_CipherRequests :
    leading.cph.queue.length < 65536 ∧ leading.cph.held = [] ∧ (∃ s : State, s.anyInService = false ∧ s.cph.queue = [asked 1]) ∧
    (∃ s : State, s.anyInService = true ∧ (s.engine 35).state ≠ .IN_SERVICE) ∧ (∃ s : State, s.anyInService = true ∧ (s.engine 35).state = .IN_SERVICE ∧ s.domainOn (groupOf 35) = false) ∧
    (∃ s : State, s.anyInService = true ∧ (s.engine 35).state = .IN_SERVICE ∧ s.domainOn (groupOf 35) = true ∧ (s.engine 35).work = .idle ∧
      s.cph.round.find? (fun y => s.ready y.1) = some (262143, 0) ∧ s.nextOf 262143 = some (asked 1) ∧ (asked 1).die = 35 / 18 ∧ (asked 1).units = 0) ∧
    (asked 0).op = 0 ∧ (leAt (asked 1).raw 1 1 = 0 ∧ leAt (asked 1).raw 8 4 = 262143 ∧ leAt (asked 1).raw 12 2 < 4096 ∧ leAt (asked 1).raw 56 8 = 0 ∧ leAt (asked 1).raw 24 8 = 0) ∧
    ((asked 1).gen = (keyed 1 .ACTIVE).sliceGen (asked 1).slc ∧ ((keyed 1 .ACTIVE).keyCtx (asked 1).ctx).state = .ACTIVE ∧ ((keyed 1 .LOCKED).keyCtx (asked 1).ctx).state = .LOCKED ∧
      (asked 1).slc = 0 ∧ ((keyed 1 .ACTIVE).keyCtx 262143).used < ((keyed 1 .ACTIVE).keyCtx 262143).limit) ∧
    (∃ q : CipherReq, q.gen ≠ (keyed 1 .ACTIVE).sliceGen q.slc) ∧ (asked 2).op = 2 ∧ ((keyed 1 .ACTIVE).engine 35).work = .idle ∧
    (keyed 1 .ACTIVE).isHot 262143 = false ∧ ((keyed 1 .ACTIVE).nextOf 262143).isSome = true ∧ (keyed 1 .ACTIVE).pairsAwake (keyed 1 .ACTIVE).coldPlace = true ∧
    (∃ s : State, s.pairsAwake s.coldPlace = false) :=
  ⟨by decide, rfl, ⟨{ keyed 1 .ACTIVE with pwr := { domains := (List.range 40).map (fun d => (d, { state := .OFF })) } }, by decide⟩,
   ⟨{ keyed 1 .ACTIVE with cph := { engines := [(35, { state := .TESTING })] } }, by decide⟩,
   ⟨{ keyed 1 .ACTIVE with pwr := { domains := [(24, { state := .ON }), (29, { state := .ASLEEP })] } }, by decide⟩, ⟨{ keyed 1 .ACTIVE with cph := { (keyed 1 .ACTIVE).cph with hot := [262143] } }, by decide⟩, by decide, by decide, by decide,
   ⟨{ asked 1 with raw := requestBytes 1 0 0 16 262143 1 255 0 0 0 0 }, by decide⟩, by decide, by decide, by decide, by decide, by decide, ⟨{ leading with pwr := { domains := [(38, { state := .ASLEEP })] } }, by decide⟩⟩

theorem test_meets_CipherRequests_unit : ∃ (s : State) (q : CipherReq), (s.engine 35).work = .unit 5 0 1 q ∧ q.op = 1 :=
  ⟨{ cph := { engines := [(35, { work := .unit 5 0 1 (asked 1) })] } }, asked 1, by decide⟩

theorem test_meets_CipherContexts :
    (∃ u, leading.admitWrite (.cpc 0 0) .CPH_CTX_CMD 0 = (true, u) ∧ (u.keyCtx (u.contextSel (.cpc 0 0))).state = .EMPTY) ∧
    (∃ (s u : State), s.admitWrite (.cpc 0 0) .CPH_CTX_CMD 0 = (true, u) ∧ (u.keyCtx (u.contextSel (.cpc 0 0))).state = .ACTIVE) ∧
    (∃ u, leading.admitWrite (.cpc 0 0) .CPH_CTX_LIMIT 0 = (true, u) ∧ 4294967295 < (u.keyCtx (u.contextSel (.cpc 0 0))).limit ∧ (u.keyCtx (u.contextSel (.cpc 0 0))).limit < 2 ^ 48) ∧
    (∃ u, leading.admitWrite (.vault 0) .CPH_CTX_LIMIT 0 = (true, u)) ∧
    (∃ u, leading.admitWrite (.cpc 0 0) .CPH_CTX_BYTE_LIMIT 0 = (true, u) ∧ (u.keyCtx (u.contextSel (.cpc 0 0))).alg < 3) ∧
    (∃ (s u : State), s.admitWrite (.cpc 0 0) .CPH_CTX_BYTE_LIMIT 0 = (true, u) ∧ (u.keyCtx (u.contextSel (.cpc 0 0))).alg = 3 ∧ 1 < (u.keyCtx (u.contextSel (.cpc 0 0))).byteLimit) ∧
    (∃ s : State, (s.keyCtx 262143).writing = some (1, 2) ∧ (s.keyCtx 262143).cur = some ⟨[], 0, 7, false, 0⟩) ∧ (leading.keyCtx 262143).writing = none :=
  ⟨⟨(leading.admitWrite (.cpc 0 0) .CPH_CTX_CMD 0).2, by decide⟩, ⟨leading.setKeyCtx 0 { state := .ACTIVE }, ((leading.setKeyCtx 0 { state := .ACTIVE }).admitWrite (.cpc 0 0) .CPH_CTX_CMD 0).2, by decide⟩,
   ⟨(leading.admitWrite (.cpc 0 0) .CPH_CTX_LIMIT 0).2, by decide⟩, ⟨(leading.admitWrite (.vault 0) .CPH_CTX_LIMIT 0).2, by decide⟩, ⟨(leading.admitWrite (.cpc 0 0) .CPH_CTX_BYTE_LIMIT 0).2, by decide⟩,
   ⟨leading.setKeyCtx 0 { alg := 3 }, ((leading.setKeyCtx 0 { alg := 3 }).admitWrite (.cpc 0 0) .CPH_CTX_BYTE_LIMIT 0).2, by decide⟩,
   ⟨leading.setKeyCtx 262143 { writing := some (1, 2), cur := some ⟨[], 0, 7, false, 0⟩ }, by decide⟩, by decide⟩

/-- The same device with one request of a service at the head of the ring of CPC-A. -/
def requesting (code : Nat) : State :=
  { leading with
    mem := { vring := writeMem [] 0 (toLE 1 code ++ [0] ++ toLE 2 25 ++ toLE 4 9) }
    regs := [(RegName.key .RDN_LOCAL_VRING 0, 1)] }
theorem test_meets_VaultServices :
    (∃ q, (requesting 11).vaultHead = some q ∧ q.code = 11) ∧ leading.vaultHead = none ∧ leading.vaultServes = true ∧
    State.vaultServes { leading with vlt := { debug := true } } = false ∧ leading.entropy = true ∧
    State.entropy { leading with vlt := { sourceDead := [(0, true), (1, true)] } } = false ∧ State.reset.ikeAt 255 = none ∧
    (∃ b : List Byte, 3 ≤ b.length ∧ leAt b 0 1 = 4 ∧ leAt b 1 1 < 1 ∧ leAt b 2 1 = 3) ∧
    (∃ (i : Install) , i.ok 4 = true ∧ (leading.keyCtx i.ctx).state = .EMPTY ∧ leading.ownerHasRoom i.owner = true ∧ i.ctx = 262143) ∧
    (∃ b : List Byte, 25 ≤ b.length ∧ leAt b 0 1 = 4 ∧ leAt b 1 4 = 262143 ∧ leAt b 9 8 = 1 ∧ leAt b 17 8 = 1) ∧
    (∃ s : State, (s.keyCtx 262143).state ≠ .EMPTY ∧ (s.keyCtx 262143).alg = 2 ∧ (s.keyCtx 262143).succ = none ∧ (s.keyCtx 262143).cur = some ⟨[], 0, 1, true, 0⟩) ∧
    (∃ s : State, s.ikeAt 255 = some ⟨[], none⟩) ∧ (∃ s : State, s.ownerHasRoom 4095 = false) :=
  ⟨⟨_, rfl, rfl⟩, by decide, by decide, by decide, by decide, by decide, by decide, ⟨[4, 0, 3], by decide⟩,
   ⟨⟨262143, 0, 0, 1, 1, 1, false⟩, by decide⟩, ⟨[4] ++ toLE 4 262143 ++ [0, 0, 0, 0] ++ toLE 8 1 ++ toLE 8 1, by decide⟩,
   ⟨{ cph := { ctxs := [(262143, { state := .ACTIVE, alg := 2, cur := some ⟨[], 0, 1, true, 0⟩ })] } }, by decide⟩,
   ⟨{ vlt := { ike := [(255, some ⟨[], none⟩)] } }, by decide⟩, ⟨State.reset.setFld Fld.SLC_GRANT_R_KEY_CTX_MAX 4095 0, by decide⟩⟩

set_option maxRecDepth 100000 in
theorem test_meets_VaultServices_ike : ∃ s : State, ∀ h, h < 256 → (s.ikeAt h).isSome = true :=
  ⟨{ vlt := { ike := (List.range 256).map (fun h => (h, some ⟨[], none⟩)) } }, by decide⟩

/-- The same device with an accepted warrant for a service. -/
def warranted (service : Nat) (body : List Byte) : State :=
  { leading with vlt := { accepted := [⟨.station 5, service, 2, body⟩], store := { zeroised := true }, houseSet := 3 } }
theorem test_meets_Warrants :
    leading.leadVault.isSome = true ∧ leading.mapAnswers = true ∧ leading.checkWarrant [] ≠ 0 ∧ State.checkWarrant { leading with vlt := { erasing := true } } [] = 0xD0 ∧
    (warranted 1 []).vlt.accepted = [⟨.station 5, 1, 2, []⟩] ∧ (warranted 1 []).vlt.error = false ∧ (warranted 1 []).vlt.erasing = false ∧
    ((warranted 4 [3]).keySlot 3 = none ∧ leAt ((3 : Byte) :: List.replicate 2703 0) 0 1 < 4) ∧
    leAt [8] 0 1 = 8 ∧ 8 < leAt [9] 0 1 ∧ (warranted 8 []).dev.state = .STAGE ∧ (∃ s : State, s.dev.state ≠ .STAGE ∧ s.dev.state ≠ .OFF) ∧
    (∃ s : State, s.dev.state = .OFF) ∧ (∃ s : State, s.vlt.erasing = true) ∧ (∃ s : State, s.reseedDue = true ∧ s.entropy = true) ∧ (∃ s : State, s.reseedDue = false) ∧
    leading.isRetired .cipherEngine 35 = false ∧ leading.leadVault = some 0 :=
  ⟨by decide, by decide, by decide, by decide, rfl, by decide, by decide, by decide, by decide, by decide, by decide, ⟨{ dev := { state := .GHOST } }, by decide⟩,
   ⟨{ dev := { state := .OFF } }, by decide⟩, ⟨{ vlt := { erasing := true } }, by decide⟩, ⟨{ clk := { ns := 2000000000, core := 3200000000 } }, by decide⟩, ⟨{ }, by decide⟩, by decide, by decide⟩

/-- The same device with host port 15 enabled, its early identity up, and a connection of a stage with one session. -/
def answering (stage : Nat) (secured : Bool) : State :=
  { leading with
    dev := { leading.dev with earlyUp := true }
    regs := [(RegName.key .HEP_PORT_CFG 15, 1)]
    pins := { leading.pins with perst := 0 }
    vlt := { spdmVersion := [(15, stage)], sessions := [⟨15, 7, secured, 0⟩], ideKeys := [(⟨15, 0, 3, 2, true, false⟩, ⟨[], false⟩)] } }
theorem test_meets_SpdmResponder :
    (answering 3 true).doeUp 15 = true ∧ (answering 3 true).spdmStage 15 = 3 ∧ (answering 0 true).doeUp 15 = true ∧ (answering 0 true).spdmStage 15 = 0 ∧ (answering 2 true).spdmStage 15 = 2 ∧
    leading.doeUp 15 = false ∧ (answering 3 true).session? 15 7 = some ⟨15, 7, true, 0⟩ ∧ (answering 3 false).session? 15 7 = some ⟨15, 7, false, 0⟩ ∧ (answering 3 true).session? 15 8 = none ∧
    (answering 3 true).certChain 1 = [] ∧ (answering 3 true).entropy = true ∧ (answering 3 true).seedErased = false ∧ (answering 3 true).linkExists 15 0 = true ∧
    (answering 3 true).linkStreams ⟨15, 0, 3, 2, true, false⟩ = [3] ∧ (answering 3 true).ideFind ⟨15, 0, 3, 2, true, false⟩ = some ⟨[], false⟩ ∧ (answering 3 true).ideFind ⟨15, 0, 4, 2, true, false⟩ = none ∧
    4 ≤ ((List.replicate 4 (SpdmSession.mk 15 0 true 0)).filter (fun x => x.port == 15)).length :=
  ⟨by decide, by decide, by decide, by decide, by decide, by decide, by decide, by decide, by decide, by decide, by decide, by decide, by decide, by decide, by decide, by decide, by decide⟩

/-- A device past step 5 with link 63 of host port 15 up at a rate and its functions running. -/
def linked (speed : Nat) : State :=
  { leading with
    dev := { leading.dev with earlyUp := true }
    clk := { ns := 400000000, core := 640000000 }
    regs := [(RegName.key .HEP_PORT_CFG 15, BitVec.ofNat 64 5), (RegName.key .HEP_LINK_CTRL 63, BitVec.ofNat 64 7)]
    pins := { leading.pins with perst := 0 }
    pwr := { domains := (List.range 40).map (fun d => (d, { state := .ON })) }
    hep := { links := [(63, { up := true, speed := speed, pf1 := { bme := true, pasid := true, flr := false } })] } }
theorem test_meets_HostLinks :
    State.inPerst { leading with pins := { leading.pins with perst := 0x8000 } } 15 = true ∧ (linked 5).inPerst 15 = false ∧
    (linked 5).mayTrain 63 7 = true ∧ 1 ≤ (linked 5).linkLanes 15 ∧ (linked 5).mayTrain 62 8 = false ∧
    (∃ s : State, s.dev.earlyUp = false ∧ s.dev.state = .LOADING ∧ s.dev.detect = false) ∧ (leading.hostLink 63).up = false ∧ ((linked 5).hostLink 63).up = true ∧
    (∃ u, (linked 5).admitWrite (.cpc 0 0) .HEP_LINK_CTRL 63 = (true, u) ∧ u.linkExists (63 / 4) (63 % 4) = true ∧ u.sleepingAt .HEP_LINK_CTRL 63 = none ∧ (4 : BitVec 3).toNat < (u.hostLink 63).speed ∧
      (u.hostLink 63).speed ≤ (7 : BitVec 3).toNat) ∧
    (linked 5).configured 63 1 = true ∧ (linked 5).configured 63 0 = true ∧ ((linked 5).func 63 1).bme = true ∧ ((linked 5).func 63 1).pasid = true ∧ ((linked 5).func 63 1).d3 = false ∧
    leading.configured 63 1 = false ∧ leading.configured 63 0 = false ∧ (∃ s : State, (s.func 63 1).flr = true) ∧ (linked 5).rrs 63 1 = false :=
  ⟨by decide, by decide, by decide, by decide, by decide, ⟨{ dev := { state := .LOADING } }, by decide⟩, by decide, by decide,
   ⟨((linked 5).admitWrite (.cpc 0 0) .HEP_LINK_CTRL 63).2, by decide⟩, by decide, by decide, by decide, by decide, by decide, by decide, by decide,
   ⟨{ hep := { links := [(63, { pf1 := { flr := true } })] } }, by decide⟩, by decide⟩

/-- A device past step 5 with link 63 up, its windows placed, and one read outstanding on tag 9. -/
def reading : State :=
  { leading with
    dev := { leading.dev with earlyUp := true }
    hep := { links := [(63, { up := true, bar0Log2 := 20, bar2Log2 := 30, pf0 := { mse := true, bar0 := 0x10000000 }, pf1 := { mse := true, bme := true, bar0 := 0x20000000, bar2 := 0x40000000 } })]
             reads := [{ want := { link := 63, slc := 0, gen := 0, addr := 0, len := 8, why := .prpList 0 }, reqs := [⟨9, 0, 8, 500, List.replicate 8 none, false⟩] }] } }
/-- A read of 4 bytes by the host. -/
def hostRead (a : BitVec 64) : HostTlp := { write := false, addr := a, data := [], len := 4, pasid := none, stream := none, ideOk := true, poisoned := false }
theorem test_meets_HostRequests :
    (leading.hostLink 63).up = false ∧ (reading.hostLink 63).up = true ∧ reading.dev.earlyUp = true ∧ reading.flagAt Fld.HEP_IDE_CTRL_REQUIRED 63 = false ∧ reading.outsideIde 63 (hostRead 0) = true ∧
    reading.decodeHost 63 0x10000010 = .pf0 16 ∧ reading.decodeHost 63 0x20010010 = .pf1 65552 ∧ reading.decodeHost 63 0x40000000 = .peer 0 ∧ reading.decodeHost 63 0 = .none ∧
    reading.pf1Hidden 63 = false ∧ (reading.readOf 15 9).isSome = true ∧ reading.readOf 15 10 = none ∧ reading.elapsed < 500 ∧ State.elapsed { reading with clk := { ns := 1000, core := 1600 } } = 1000 ∧
    State.flagAt { reading with regs := [(RegName.key .HEP_IDE_CTRL 63, BitVec.ofNat 64 (2 ^ 64 - 1))] } Fld.HEP_IDE_CTRL_REQUIRED 63 = true :=
  ⟨by decide, by decide, by decide, by decide, by decide, by decide, by decide, by decide, by decide, by decide, by decide, by decide, by decide, by decide, by decide⟩

/-- The same device with slice 4095 in a state, bound to link 63. -/
def sliced (st : Nat) : State :=
  { leading with
    regs := [(RegName.key .SLC_SLICE_STATE 4095, BitVec.ofNat 64 (st + 4)), (RegName.key .SLC_SLICE_BIND 4095, BitVec.ofNat 64 (1 + 63 * 2 ^ 20 + 2 ^ 32))]
    slc := { byHost := [(4095, true)], peerMib := 16 }
    hep := { links := [(63, { up := true, pf1 := { bme := true, pasid := true } })] } }
theorem test_meets_Slices :
    (∃ u, (sliced 0).admitWrite (.cpc 0 0) .SLC_CMD 0 = (true, u) ∧ u.sliceState 4095 = 0 ∧ u.createFails 0 = some 1) ∧
    (∃ u, (sliced 1).admitWrite (.cpc 0 0) .SLC_CMD 0 = (true, u) ∧ u.sliceState 4095 = 1 ∧ u.sliceOwns 4095 = false) ∧
    (∃ u, (sliced 2).admitWrite (.cpc 0 0) .SLC_CMD 0 = (true, u) ∧ u.sliceState 4095 = 2 ∧ u.stale 4095 = 0) ∧
    (∃ s : State, s.sliceOwns 4095 = true) ∧
    (∃ u, (sliced 1).admitWrite (.cpc 0 0) .SLC_GRANT_Q 4095 = (true, u)) ∧ (∃ u, (sliced 1).admitWrite (.cpc 0 0) .SLC_GRANT_R 4095 = (true, u)) ∧
    (∃ u, (sliced 1).admitWrite (.cpc 0 0) .SLC_WEIGHT 4095 = (true, u)) ∧ (∃ u, (sliced 1).admitWrite (.cpc 0 0) .SLC_PEER_SHARE 63 = (true, u)) ∧
    (sliced 1).cpcRuns = true ∧ (sliced 1).leadCpc.isSome = true ∧ (∃ s : State, slotFull (s.cbSlot 8190) = true ∧ fieldOf (s.cbSlot 8190) 0 32 % 256 = 1) ∧ slotFull ((sliced 1).cbSlot 8190) = false :=
  ⟨⟨((sliced 0).admitWrite (.cpc 0 0) .SLC_CMD 0).2, by decide⟩, ⟨((sliced 1).admitWrite (.cpc 0 0) .SLC_CMD 0).2, by decide⟩, ⟨((sliced 2).admitWrite (.cpc 0 0) .SLC_CMD 0).2, by decide⟩,
   ⟨{ cph := { ctxs := [(5, { state := .ACTIVE, owner := 4095 })] } }, by decide⟩,
   ⟨((sliced 1).admitWrite (.cpc 0 0) .SLC_GRANT_Q 4095).2, by decide⟩, ⟨((sliced 1).admitWrite (.cpc 0 0) .SLC_GRANT_R 4095).2, by decide⟩,
   ⟨((sliced 1).admitWrite (.cpc 0 0) .SLC_WEIGHT 4095).2, by decide⟩, ⟨((sliced 1).admitWrite (.cpc 0 0) .SLC_PEER_SHARE 63).2, by decide⟩,
   by decide, by decide, ⟨{ cbd := { slots := [(8190, BitVec.ofNat 64 (2 ^ 63 + 1))] } }, by decide⟩, by decide⟩

/-- The same device with slice 4095 in a state, one queue pair 65535, and that queue in a state. -/
def queued (st : Nat) (q : QState) : State :=
  { leading with
    regs := [(RegName.key .SLC_SLICE_STATE 4095, BitVec.ofNat 64 (st + 16)), (RegName.key .SLC_SLICE_BIND 4095, BitVec.ofNat 64 (1 + 63 * 2 ^ 20 + 2 ^ 32)),
      (RegName.key .SLC_GRANT_Q 4095, BitVec.ofNat 64 (65535 + 2 ^ 16)), (RegName.key .QRG_Q_SQ_BASE 65535, BitVec.ofNat 64 64), (RegName.key .QRG_Q_CQ_BASE 65535, BitVec.ofNat 64 64)]
    qrg := { queues := [(65535, { state := q, sqLog := 6, cqLog := 6 })] } }
theorem test_meets_QueueDoorbells :
    (queued 1 .RUNNING).dev.state = .STAGE ∧ (queued 1 .RUNNING).sliceState 4095 = 1 ∧ (queued 2 .RUNNING).sliceState 4095 = 2 ∧ (queued 1 .RUNNING).sliceHidden 4095 = false ∧
    (0 : BitVec 6).toNat < (queued 1 .RUNNING).fld Fld.SLC_GRANT_Q_QUEUE_COUNT 4095 ∧ (queued 1 .RUNNING).fld Fld.SLC_GRANT_Q_QUEUE_COUNT 4095 ≤ (63 : BitVec 6).toNat ∧
    ((queued 1 .RUNNING).queue 65535).state = .RUNNING ∧ (queued 1 .RUNNING).sqSize 65535 = 64 ∧ ringHeld 64 0 64 ≤ 64 ∧ 64 < ringHeld 65 0 64 ∧ ringHeld 0 0 64 = 0 ∧
    (∃ u, (queued 1 .DISABLED).admitWrite (.cpc 0 0) .QRG_Q_CTRL 65535 = (true, u)) ∧ (queued 1 .DISABLED).adminAlone 4095 = true ∧ (queued 1 .DISABLED).sliceFormat 4095 ≠ 0 ∧
    (queued 1 .DISABLED).fld Fld.QRG_Q_SQ_BASE_ADDR 65535 ≠ 0 ∧ (queued 1 .DISABLED).fld Fld.QRG_Q_CQ_BASE_ADDR 65535 ≠ 0 ∧ (queued 1 .DISABLED).fld Fld.QRG_Q_CTRL_SQ_LOG2 65535 = 6 ∧
    ((queued 1 .ERROR).queue 65535).state = .ERROR :=
  ⟨by decide, by decide, by decide, by decide, by decide, by decide, by decide, by decide, by decide, by decide, by decide,
   ⟨((queued 1 .DISABLED).admitWrite (.cpc 0 0) .QRG_Q_CTRL 65535).2, by decide⟩, by decide, by decide, by decide, by decide, by decide, by decide⟩

set_option maxRecDepth 100000 in
theorem test_meets_QueueDoorbells_slice : (queued 1 .RUNNING).sliceOfQueue 65535 = some (4095, 0) := by decide

/-- A device with slice 4095 running on link 63 and its one queue pair 65535 in a state. -/
def engine (q : Queue) : State :=
  { leading with
    clk := { ns := 20000000, core := 32000000 }
    regs := [(RegName.key .SLC_SLICE_STATE 4095, BitVec.ofNat 64 17), (RegName.key .SLC_SLICE_BIND 4095, BitVec.ofNat 64 (1 + 63 * 2 ^ 20 + 2 ^ 32)),
      (RegName.key .SLC_GRANT_Q 4095, BitVec.ofNat 64 (65535 + 2 ^ 16))]
    qrg := { queues := [(65535, q)] } }
theorem test_meets_QueueEngine :
    (∀ r ∈ (engine {}).hep.reads, r.failed = true) ∧ (engine { state := .RUNNING }).genCurrent 4095 0 = true ∧ (engine {}).genCurrent 4095 1 = false ∧
    ((engine { irqUs := 5, unsignalled := 1 }).queue 65535).since + 1000 * 5 ≤ (engine {}).elapsed ∧
    ((engine { state := .RUNNING, overflow := [⟨[], false⟩] }).queue 65535).stall + 1000000 * (engine {}).fld Fld.QRG_STALL_LIMITS_CQ_STALL_MS 0 ≤ (engine {}).elapsed ∧
    (engine {}).rxHeads 63 = [] ∧ buffersFor 0 [] = some 0 ∧ buffersFor 1 [] = none ∧ (engine {}).posted 65535 = ((engine {}).rxRun 65535).length :=
  ⟨by decide, by decide, by decide, by decide, by decide, by decide, by decide, by decide, by decide⟩

set_option maxRecDepth 100000 in
theorem test_meets_QueueEngine_slice : (engine {}).sliceOfQueue 65535 = some (4095, 0) := by decide
set_option maxRecDepth 100000 in
theorem test_meets_QueueEngine_none : State.sliceOfQueue {} 65535 = none := by decide
theorem test_meets_QueueEngine_idle : State.roundOf {} 15 = [] := by
  have h : State.workSlices {} 15 = [] := by
    unfold State.workSlices
    refine List.filter_eq_nil_iff.2 (fun n _ => ?_)
    have h : State.sliceState {} n = 0 := by
      show fieldOf ((RegName.ofNat (((RegName.SLC_SLICE_STATE).ctorIdx * 16777216 + n % 16777216) / 16777216)).resetAt _) 0 2 = 0
      rw [show ((RegName.SLC_SLICE_STATE).ctorIdx * 16777216 + n % 16777216) / 16777216 = (RegName.SLC_SLICE_STATE).ctorIdx from by omega]
      generalize Fld.SLC_SLICE_STATE_STATE.reg.key n % 16777216 = m
      show fieldOf ((RegName.SLC_SLICE_STATE).resetAt m) 0 2 = 0
      show fieldOf (BitVec.ofNat 64 (resetWord (RegName.SLC_SLICE_STATE).info.fields)) 0 2 = 0
      decide
    unfold State.sliceRuns; rw [h]; simp
  unfold State.roundOf; rw [h]; rfl

/-- A device with one channel, 4095, in a state, and fields of its registers set. -/
def moving (v : Channel) : State := { leading with bmv := { chans := [(4095, v)] } }
theorem test_meets_BulkMover :
    (leading.admitWrite (.cpc 0 0) .BMV_CH_CTRL 4095).1 = true ∧ (leading.admitWrite (.cpc 0 0) .BMV_PORT_STAGE 15).1 = true ∧ (leading.admitWrite (.cpc 0 0) .BMV_REQ_RAISE 0).1 = true ∧ leading.mapAnswers = true ∧
    ((moving { state := .RUNNING, serving := some { src := 0, dst := 0, len := 1, swap := 0, barrier := false, irq := true, eoc := true, paced := true, reserved := false, next := 0 }, written := 1, pending := 1 }).chan 4095).pending = 1 ∧
    (moving { state := .HALTED }).chanCfgOk 4095 = false ∧ ((moving {}).chan 4095).state = .DISABLED ∧
    (moving { fetch := some { addr := 32, relink := true, tail := some [] } }).fld Fld.BMV_CH_CFG_DESC_SPACE 4095 = 0 :=
  ⟨by decide, by decide, by decide, by decide, by decide, by decide, by decide, by decide⟩

/-- A device with thread 2047, its cluster loaded and a word of instruction memory at its PC. -/
def threaded (v : Thread) : State :=
  { leading with
    regs := [(RegName.key .TRP_CLUSTER_CFG 7, 1)]
    trp := { threads := [(2047, v)], ops := [{ thread := 2047, channel := 2, staged := [1, 0], result := none, stale := false }] } }
set_option maxRecDepth 100000 in
theorem test_meets_ThreadInstructions :
    (threaded { state := .RUNNING, pc := 0x80000000 }).clusterLoaded 7 = true ∧ (threaded { state := .RUNNING }).canIssue 2047 = true ∧
    (threaded {}).canIssue 2047 = false ∧ ({ state := .RUNNING, mie := true, evie := 4, evpend := 4 } : Thread).interrupts 2047 = true ∧
    (threaded { state := .RUNNING, pc := 0x80020000 }).fetch 2047 = .inl 1 ∧
    isStallack 0x7C301073 = true ∧ ticketField 0 = some (0, 16) ∧ ticketField 13 = none ∧ inputSet 2047 31 = true ∧ inputSet 0 1 = true ∧
    ((threaded {}).opOf 2047 2).isSome = true ∧ ((threaded {}).runOp 2047 2).opOf 2047 3 = none ∧
    ((threaded { state := .WAITING, wait := some (1, 31, some 0) }).thread 2047).state = .WAITING :=
  ⟨by decide, by decide, by decide, by decide, by decide, by decide, by decide, by decide, by decide, by decide, by decide, by decide, by decide⟩

theorem test_meets_ThreadInstructions_fetch : (threaded { state := .RUNNING, pc := 0x80000000 }).fetch 2047 = .inr (none, 0, 2) := by
  unfold State.fetch; dsimp only
  rw [show ((threaded { state := .RUNNING, pc := 0x80000000 }).thread 2047).pc.toNat = 0x80000000 from by decide, if_neg (by decide)]
  rw [show (threaded { state := .RUNNING, pc := 0x80000000 }).imemRead (0x80000000 - 0x80000000) 2 = [0, 0] from by decide]
  decide

/-- A device whose cluster 7 is loaded and awake, with a core and thread 2032 in a state. -/
def supervised (c : Core) (v : Thread) : State :=
  { leading with
    regs := [(RegName.key .TRP_CLUSTER_CFG 7, 1)], trp := { threads := [(2032, v)], cores := [(127, c)] }
    pwr := { domains := [(37, { state := .ON })] } }
set_option maxRecDepth 100000 in
theorem test_meets_CoreSupervision :
    ((supervised {} {}).admitWrite (.cpc 0 0) .TRP_THREAD_CTRL 2047).1 = true ∧ ((supervised {} {}).admitWrite (.cpc 0 0) .TRP_THREAD_EVSET 2047).1 = true ∧ ((supervised {} {}).admitWrite (.cpc 0 0) .TRP_CORE_CFG 127).1 = true ∧
    ((supervised {} {}).admitWrite (.cpc 0 0) .TRP_DQ_CFG 15).1 = true ∧ ((supervised {} {}).admitWrite (.cpc 0 0) .TRP_DQ_CONS 15).1 = true ∧ (supervised {} {}).sleepingAt .TRP_DQ_CONS 15 = none ∧
    (supervised {} {}).sleepingAt .TRP_THREAD_CTRL 2047 = none ∧ mayControl (.troupe 7 15 0) 2047 = true ∧ mayControl (.troupe 7 15 0) 2032 = false ∧ (supervised {} {}).coreRuns 127 = true ∧
    ((supervised { resetting := true } {}).core 127).resetting = true ∧ (supervised {} {}).coreCurtained 127 = false ∧ (supervised {} {}).pairsAwake 1 = true ∧
    (supervised { idle := 65536 } { state := .WAITING }).allWait 127 = true ∧ ((supervised { stall := true, stalled := 2 ^ 24 } {}).core 127).stalled = 2 ^ 24 ∧
    leading.swc.arrived = [] ∧ leading.flagAt Fld.TRP_DQ_CFG_ENABLE 15 = false ∧ fieldOf (leading.reg .TRP_DQ_CFG 15) 52 1 = 0 :=
  ⟨by decide, by decide, by decide, by decide, by decide, by decide, by decide, by decide, by decide, by decide, by decide, by decide, by decide, by decide, by decide, by decide, by decide, by decide⟩

/-- A device whose slice 4095 is bound and RUNNING, with a slot holding a word and port 15's talk in a state. -/
def talking (i : Nat) (w : Word) (t : Talk) : State :=
  { leading with
    clk := { ns := 20000000, core := 32000000 }
    regs := [(RegName.key .SLC_SLICE_STATE 4095, BitVec.ofNat 64 17), (RegName.key .SLC_SLICE_BIND 4095, BitVec.ofNat 64 (1 + 63 * 2 ^ 20 + 2 ^ 32))]
    cbd := { slots := [(i, w)], talks := [(15, t)] } }
set_option maxRecDepth 100000 in
theorem test_meets_CallboardSlots :
    (talking 8190 0 {}).sliceSpot 4095 0x800 = .map (addrOf .CBD_SLOT_WRITE 8190) ∧ blockAt (addrOf .CBD_SLOT_WRITE 8190) = some .CBD ∧
    ((resolve (addrOf .CBD_SLOT_WRITE 8190) 0).map (fun t => (t.reg, t.idx))) = some (.CBD_SLOT_WRITE, 8190) ∧
    (talking 8190 0 {}).sliceState 4095 ≠ 0 ∧ (talking 8190 0 {}).sliceHidden 4095 = false ∧ slotPath (.slice 4095) 8190 = some 0x800 ∧
    slotReserved 8241 = true ∧ peerSlot 8225 = some 0 ∧ peerSlot 8239 = some 7 ∧ peerSlot 9215 = none ∧ (talking 0 0 {}).leadCore (.cpc 0 0) = true ∧ talksToLead 8222 = true ∧
    slotFull ((talking 8222 (BitVec.ofNat 64 (2 ^ 63 + 257)) {}).cbSlot 8222) = true ∧ (talking 0 0 {}).cpcRuns = true ∧ (talking 0 0 {}).leadCpc.isNone = false ∧
    ((talking 0 0 { open_ := some (1, []), since := 10000000 }).talk 15).since + 10000000 ≤ (talking 0 0 {}).elapsed :=
  ⟨by decide, by decide, by decide, by decide, by decide, by decide, by decide, by decide, by decide, by decide, by decide, by decide, by decide, by decide, by decide, by decide⟩

/-- A device whose control units 0 and 1 stand as given, far from reset in time. -/
def paired (a b : CtlUnit) : State :=
  { leading with
    clk := { ns := 20000000, core := 32000000 }
    rdn := { units := [(0, a), (1, b)], gaps := [(9, .open true 1)] }
    flt := { tests := [{ kind := .controlUnit, index := 1, cls := 1, cause := 7, scope := none }] } }
theorem test_meets_LeadAndUnderstudy :
    ((paired { state := .RUNNING, fed := true } {}).unit 0).fed = true ∧ (paired {} {}).pairExists 0 = true ∧ (paired {} {}).pairExists 9 = false ∧
    ((paired { state := .RUNNING } {}).unit 0).kickDue ≤ (paired {} {}).elapsed ∧ ((paired {} {}).unit 0).meshAt + 28000 ≤ (paired {} {}).elapsed ∧
    (paired {} { state := .RUNNING, number := 65535 }).number (partner 0) = 65535 ∧ (paired {} { state := .RUNNING, number := 1 }).isLead 1 = true ∧
    (paired { state := .RUNNING } { state := .RUNNING, number := 1 }).number 0 ≤ 1 ∧ ((paired {} {}).admitWrite (.cpc 0 0) .RDN_KICK 0).1 = true ∧
    ((paired {} {}).admitWrite (.cpc 0 0) .RDN_CLAIM 0).1 = true ∧ (paired {} {}).unitOf (.cpc 1 3) = some 1 ∧ (paired {} {}).unitOf (.troupe 7 15 0) = none ∧
    (paired {} {}).gap 9 = .open true 1 ∧ (paired {} {}).gap 8 = .closed ∧ ((paired {} {}).underTest .controlUnit 1).isSome = true ∧
    ((paired {} {}).transients .controlUnit 1).length < 3 ∧ (paired {} {}).underTest .controlUnit 19 = none ∧ 1 + 40 * (paired {} {}).fld Fld.RDN_CFG_GAP_CYCLES 0 ≤ (paired {} {}).elapsed :=
  ⟨by decide, by decide, by decide, by decide, by decide, by decide, by decide, by decide, by decide, by decide, by decide, by decide, by decide, by decide, by decide, by decide, by decide, by decide⟩

/-- A device whose rehearsal is in a phase, far from reset in time, with the lead's transmit ring on and one slot posted. -/
def rehearsing (p : RehearsalPhase) : State :=
  { leading with
    clk := { ns := 20000000, core := 32000000 }
    regs := [(RegName.key .RDN_LOCAL_RX_CFG 0, BitVec.ofNat 64 (2 ^ 36 + 4 * 2 ^ 32)), (RegName.key .RDN_LOCAL_TX_CFG 0, BitVec.ofNat 64 (2 ^ 36 + 4 * 2 ^ 32)), (RegName.key .RDN_LOCAL_TX_PTR 0, 1), (RegName.key .RDN_CFG 0, BitVec.ofNat 64 (2 ^ 16))]
    rdn := { units := leading.rdn.units, phase := p } }
theorem test_meets_RehearsalsAndRings :
    (rehearsing .IDLE).fld Fld.RDN_CFG_REHEARSAL_HOURS 0 = 1 ∧ (rehearsing .RAISED).rdn.phase = .RAISED ∧ (rehearsing .IDLE).pairExists 1 = true ∧ (rehearsing .IDLE).running 3 = true ∧
    ((rehearsing .RAISED).admitWrite (.cpc 0 0) .RDN_REHEARSAL 0).1 = true ∧ (rehearsing .RAISED).unitOf (.cpc 0 0) = some 0 ∧ (rehearsing .RAISED).isLead 0 = true ∧ 0 / 2 = (rehearsing .RAISED).rdn.pair ∧
    (rehearsing .YIELDED).rdn.phaseAt + 1000000 ≤ (rehearsing .YIELDED).elapsed ∧ (rehearsing .IDLE).gatePasses 0 = true ∧ (rehearsing .IDLE).gatePasses 1 = false ∧
    ((rehearsing .IDLE).admitWrite (.cpc 0 0) .RDN_PROBE 0).1 = true ∧ ((rehearsing .IDLE).admitWrite (.vault 0) .RDN_PROBE 0).1 = true ∧ (rehearsing .IDLE).leadCpc = some 0 ∧
    ringHeld 1 0 (2 ^ 4) ≠ 0 ∧ (rehearsing .IDLE).flagAt Fld.RDN_LOCAL_TX_CFG_ENABLE 0 = true ∧ (rehearsing .IDLE).pairsAwake 1 = true ∧
    (rehearsing .IDLE).swc.arrived = [] ∧ ((rehearsing .IDLE).admitWrite (.cpc 0 0) .RDN_LOCAL_VRING 0).1 = true :=
  ⟨by decide, by decide, by decide, by decide, by decide, by decide, by decide, by decide, by decide, by decide, by decide, by decide, by decide, by decide, by decide, by decide, by decide, by decide, by decide⟩

set_option maxRecDepth 100000 in
theorem test_meets_StackLinks :
    (stacked {} {}).designated 255 = true ∧ (stacked {} {}).designated 254 = false ∧ (stacked aliveLink {}).barodBad 255 (barod 1 1) = false ∧ (stacked {} {}).barodBad 255 (barod 9 1) = true ∧
    (stacked aliveLink {}).barodBad 255 (barod 8 1) = false ∧ bType (barod 8 1) = 8 ∧ ((stacked aliveLink {}).stackLink 255).alive = true ∧ ((stacked {} {}).stackLink 255).alive = false ∧
    ((stacked {} {}).port 255).linkUp = true ∧ aliveLink.heardAt + 28000 ≤ (stacked {} {}).elapsed :=
  ⟨by decide, by decide, by decide, by decide, by decide, by decide, by decide, by decide, by decide, by decide⟩

theorem test_meets_StackLinks_claims :
    (stacked {} { claim := some { new := 1, accepts := [1], alive := false, since := 0 } }).isQuorum [0, 1] = true ∧ 0 + 1000000 ≤ (stacked {} {}).elapsed ∧
    (stacked aliveLink { state := .JOINING, leaderless := some 0 }).quorum = true ∧ (stacked aliveLink { state := .JOINING }).masterVisible = false ∧
    (stacked aliveLink { state := .JOINING }).seeksMaster = true ∧ (stacked {} { drift := some 0 }).stk.drift = some 0 ∧ 0 + 1000000000 ≤ (stacked {} {}).elapsed :=
  ⟨by decide, by decide, by decide, by decide, by decide, by decide, by decide⟩

set_option maxRecDepth 100000 in
theorem test_meets_StackFrames :
    (stacked aliveLink {}).barodBad 255 (barod 5 1) = false ∧ bMember (barod 5 1) = 1 ∧ ((stacked aliveLink {}).stackLink 255).alive = true ∧
    (stacked {} {}).flagAt Fld.STK_RX_CFG_ENABLE 0 = false ∧ (stacked {} {}).pairsAwake 1 = true ∧ (stacked aliveLink { master := some 1, state := .MEMBER }).masterVisible = true ∧
    ((stacked {} {}).admitWrite (.cpc 0 0) .STK_TX_CMD 0).1 = true ∧ (stacked {} {}).sendBusy = false ∧ fieldOf (BitVec.ofNat 64 (10168 * 2 ^ 32 + 5 * 2 ^ 56)) 56 4 = 5 ∧
    fieldOf (BitVec.ofNat 64 (10168 * 2 ^ 32 + 5 * 2 ^ 56)) 32 14 ≤ 10168 ∧ (stacked {} { sceneAt := some 5 }).stk.sceneAt = some 5 ∧ 5 ≤ (stacked {} {}).now :=
  ⟨by decide, by decide, by decide, by decide, by decide, by decide, by decide, by decide, by decide, by decide, by decide, by decide⟩

/-- The same device with domain 24 in a state since the start. -/
def powered (v : Domain) : State := { lit with clk := { ns := 1000000, core := 1600000 }, pwr := { domains := [(24, v)] } }

set_option maxRecDepth 100000 in
theorem test_meets_PowerDomains :
    ((powered {}).admitWrite (.cpc 0 0) .PWR_CMD 0).1 = true ∧ ((powered {}).admitWrite (.cpc 0 0) .PWR_DOMAIN_CTRL 39).1 = true ∧
    ((powered { state := .ASLEEP }).domain 24).state = .ASLEEP ∧ (powered { state := .DRAINING }).domainCount 24 = 0 ∧
    (powered { state := .DRAINING }).domainBound 24 = false ∧ (powered {}).domainBound 38 = true ∧
    ((powered { state := .DRAINING }).domain 24).since + 100000 ≤ (powered { state := .DRAINING }).elapsed ∧
    ({ powered { state := .DRAINING } with acc := { waiting := [(24, .send 0)] } } : State).domainCount 24 ≠ 0 ∧
    ((powered {}).setFld Fld.PWR_DOMAIN_CTRL_AUTO_SLEEP 24 1).flagAt Fld.PWR_DOMAIN_CTRL_AUTO_SLEEP 24 = true ∧
    ((powered { state := .WAKING, offPending := true }).domain 24).offPending = true ∧
    (powered { state := .ASLEEP }).domainSleeps 24 = true ∧ (powered { state := .ON }).domainSleeps 24 = false :=
  ⟨by decide, by decide, by decide, by decide, by decide, by decide, by decide, by decide, by decide, by decide, by decide, by decide⟩

theorem test_meets_ClocksAndPlls :
    lit.pllStarted (.lane 15) = true ∧ State.reset.pllStarted .core = false ∧ lit.locked .core = false ∧
    (lit.setLock .core true).locked .core = true ∧ (lit.setLock (.lane 15) true).locked (.lane 15) = true ∧ State.reset.dev.state = .OFF ∧
    lit.dev.state = .STAGE ∧ (({ lit with dev := { state := .GHOST } } : State).dev.state = .GHOST) :=
  ⟨by decide, by decide, by decide, by decide, by decide, by decide, by decide, by decide⟩

/-- An error of a cipher engine. -/
def engineError (c : ErrClass) (z : Option (ScopeKind × Nat)) : ErrorReport :=
  { cls := c, kind := .cipherEngine, index := 3, cause := 1, scope := z, detail := 0, hit := .nothing }

set_option maxRecDepth 100000 in
theorem test_meets_ErrorsAndVerdicts :
    State.reset.dev.state = .OFF ∧ lit.dev.state ≠ .OFF ∧ (engineError .fatal none).cls = .fatal ∧ (lit.unit 0).state ≠ .RETIRED ∧
    lit.pairExists 0 = true ∧ lit.running 0 = true ∧ lit.running 1 = true ∧ (lit.isLead 0 = true ∧ lit.isLead 1 = false ∨ lit.isLead 1 = true ∧ lit.isLead 0 = false) ∧
    ((lit.countError .corrected).errorHit (engineError .corrected none)).isRetired .cipherEngine 3 = false ∧
    ((lit.countError .corrected).errorHit (engineError .corrected none)).underTest .cipherEngine 3 = none ∧
    ((lit.countError .corrected).errorHit (engineError .corrected none)).recentRow .cipherEngine 3 = false ∧
    ({ lit with flt := { tests := [{ kind := .cipherEngine, index := 3, cls := 0, cause := 1, scope := none }] } } : State).underTest .cipherEngine 3 ≠ none ∧
    ({ lit with flt := { history := [{ kind := .sramRow, index := 3, transients := [], lastTest := 1 }] } } : State).recentRow .sramRow 3 = true ∧
    ({ lit with flt := { retired := [(.cipherEngine, 3)] } } : State).isRetired .cipherEngine 3 = true ∧ lit.vlt.store.retired.length < 2048 ∧
    lit.transients .cipherEngine 3 = [] ∧ lit.nextSeq.flt.fifo.length < 256 ∧ (lit.admitWrite (.cpc 0 0) .FLT_RECORD_POP 0).1 = true :=
  ⟨by decide, by decide, by decide, by decide, by decide, by decide, by decide, by decide, by decide, by decide, by decide, by decide, by decide, by decide, by decide, by decide, by decide, by decide⟩

set_option maxRecDepth 100000 in
theorem test_meets_CurtainScopes :
    heldScope .cipher 3 = false ∧ heldScope .slice 0 = false ∧ heldScope .slice 4095 = true ∧ heldScope .port 255 = true ∧
    (lit.admitWrite (.cpc 0 0) .FLT_SCOPE_SLICE 4095).1 = true ∧ (lit.admitWrite (.cpc 0 0) .FLT_SCOPE_PORT 255).1 = true ∧
    lit.curtained .port 255 = false ∧ lit.causeHolds .port 255 = false ∧ lit.enclosed .port 255 = false ∧
    (lit.setReg .FLT_SCOPE_PORT 255 5).curtained .port 255 = true ∧ ((lit.setReg .FLT_SCOPE_PORT 255 1).clearCause .FLT_SCOPE_PORT 255 0).curtained .port 255 = false ∧
    ({ lit with flt := { bound := [(.port, 255)] } } : State).causeHolds .port 255 = true ∧ (lit.setReg .FLT_SCOPE_ENGINE 15 1).enclosed .port 255 = true ∧
    (lit.admitWrite (.cpc 0 0) .FLT_DEVICE_CTRL 0).1 = true ∧ lit.dev.state = .STAGE ∧ State.reset.dev.state ≠ .LOADING :=
  ⟨by decide, by decide, by decide, by decide, by decide, by decide, by decide, by decide, by decide, by decide, by decide, by decide, by decide, by decide, by decide, by decide⟩

theorem test_meets_SuppliesAndHeat :
    State.reset.dev.state = .OFF ∧ lit.dev.state ≠ .OFF ∧ lit.dev.state ≠ .GHOST ∧ (115#8).toInt = 115 ∧ (105#8).toInt < 115 ∧ (255#8).toInt < 115 :=
  ⟨by decide, by decide, by decide, by decide, by decide, by decide⟩

/-- A device whose slots have erased headers, at the step that reads them. -/
def slotReading : State := { dev := { state := .LOADING, step := .headers } }

theorem test_meets_SlotChoice : slotReading.atStep .headers = true := by decide

theorem test_meets_ReservedAddresses :
    leading.mapAnswers = true ∧ leading.bufferOf (.cpc 0 0) = none ∧ leading.spotOf (.cpc 0 0) 0x7FFFFFF8 = .nothing ∧
    (leading.badAccess (.cpc 0 0) 8 1 false).flagAt Fld.SYS_BAD_ACCESS_VALID 0 = true :=
  ⟨by decide, by decide, by decide, by decide⟩

/-- The same device with domain 24 idle for 1 ms, with a timer of 1 microsecond. -/
def idling : State :=
  { lit with
    clk := { ns := 1000000, core := 1600000 }, regs := (RegName.key .PWR_DOMAIN_CTRL 24, BitVec.ofNat 64 (2 + 2 ^ 16)) :: lit.regs
    pwr := { domains := [(24, { state := .ON })] } }

set_option maxRecDepth 100000 in
theorem test_meets_IdleTimers :
    idling.flagAt Fld.PWR_DOMAIN_CTRL_AUTO_SLEEP 24 = true ∧ (idling.domain 24).state = .ON ∧ idling.domainCount 24 = 0 ∧
    (idling.domain 24).since + 1000 * idling.fld Fld.PWR_DOMAIN_CTRL_IDLE_US 24 ≤ idling.elapsed ∧ lit.flagAt Fld.PWR_DOMAIN_CTRL_AUTO_SLEEP 24 = false :=
  ⟨by decide, by decide, by decide, by decide, by decide⟩

end Sys2Proof.Tests
end

section
/-! PROOF. What reset leaves (R8, R48, R49): every sparse store of the reset state is empty, so each accessor reads the
default of its store. -/

namespace Sys2Proof.Machine

/-- An empty store reads its default at every key. -/
@[simp] theorem SMap.get_nil {β : Type} (d : Nat → β) (k : Nat) : SMap.get d [] k = d k := rfl

/-- A key splits back into its register and its element, so an unwritten element reads the reset value of its table. -/
@[simp] theorem regDefault_key (r : RegName) (i : Nat) : regDefault (r.key i) = r.resetAt (i % 16777216) := by
  have hi : i % 16777216 < 16777216 := Nat.mod_lt i (by decide)
  have hreg : r.key i / 16777216 = r.ctorIdx := by unfold RegName.key; omega
  have helt : r.key i % 16777216 = i % 16777216 := by unfold RegName.key; omega
  rw [regDefault, hreg, helt, RegName.ofNat_ctorIdx]

/-- With no register written, every register reads the reset value of its table (R8). -/
theorem State.reg_of_regs_nil {s : State} (h : s.regs = []) (r : RegName) (i : Nat) : s.reg r i = r.resetAt (i % 16777216) := by
  rw [State.reg, h, SMap.get_nil, regDefault_key]

/-- With no counter advanced, every counter reads zero. -/
theorem State.ctr_of_ctrs_nil {s : State} (h : s.ctrs = []) (r : RegName) (i : Nat) : s.ctr r i = 0 := by
  rw [State.ctr, h, SMap.get_nil]

theorem State.port_of_ports_nil {s : State} (h : s.prt.ports = []) (p : Nat) : s.port p = {} := by
  rw [State.port, h, SMap.get_nil, portDefault]

theorem State.unit_of_units_nil {s : State} (h : s.rdn.units = []) (u : Nat) : s.unit u = {} := by
  rw [State.unit, h, SMap.get_nil, unitDefault]

theorem State.domain_of_domains_nil {s : State} (h : s.pwr.domains = []) (d : Nat) : s.domain d = {} := by
  rw [State.domain, h, SMap.get_nil, domainDefault]

/-- Settles O2: the device fields, the queue and the clock stand at their reset defaults, and every sparse store is empty
there, so its accessor reads the store's default. -/
theorem resetLeaves : Obligations.ResetLeaves := by
  have hdev : State.reset.dev.state = .OFF := rfl
  have hpending : State.reset.pending = [] := rfl
  have hout : State.reset.out = [] := rfl
  have hclk : State.reset.clk = {} := rfl
  exact ⟨hdev, hpending, hout, hclk, State.reg_of_regs_nil rfl, State.ctr_of_ctrs_nil rfl, State.port_of_ports_nil rfl,
    State.unit_of_units_nil rfl, State.domain_of_domains_nil rfl⟩

end Sys2Proof.Machine
end

section
/-! PROOF. Supervision of the Troupe cores, and deliveries to their clusters (R378 to R380, R391 to R395, R400): what an
admitted write of each TRP register does, then each operation by the branches of its definition. -/

namespace Sys2Proof.Machine

/-! ## Writes of TRP registers (R399) -/

/-- The low field of a word of at most 32 bits, as a 32-bit write carries it. -/
theorem fieldOf_lowWrite {n : Nat} (v : BitVec n) (hn : n ≤ 32) :
    fieldOf ((v.setWidth 32).setWidth 64 &&& lowMask) 0 n = v.toNat := by
  have hv : (v.setWidth 32).toNat = v.toNat := BitVec.toNat_setWidth_of_le hn
  rw [and_lowMask, fieldOf_setWidth, hv, bits, Nat.pow_zero, Nat.div_one, Nat.mod_eq_of_lt v.isLt]

/-- OP of the word that START writes. -/
theorem startWord_op (pc : BitVec 32) : fieldOf (BitVec.ofNat 64 (1 + 2 ^ 32 * pc.toNat)) 0 2 = 1 := by
  rw [fieldOf_ofNat _ (by decide), bits]; omega

/-- PC of the word that START writes. -/
theorem startWord_pc (pc : BitVec 32) : fieldOf (BitVec.ofNat 64 (1 + 2 ^ 32 * pc.toNat)) 32 32 = pc.toNat := by
  have := pc.isLt
  rw [fieldOf_ofNat _ (by decide), bits]; omega

theorem State.performWrite_threadCtrl (u : State) (r : Requester) (t : Nat) (v : Word) :
    u.performWrite r .TRP_THREAD_CTRL t v wholeMask = u.threadControl r t (fieldOf v 0 2) (fieldOf v 32 32) := by
  have h : u.performWrite r .TRP_THREAD_CTRL t v wholeMask =
      u.threadControl r t (fieldOf (v &&& wholeMask) 0 2) (fieldOf (v &&& wholeMask) 32 32) := rfl
  rwa [and_wholeMask] at h

theorem State.performWrite_threadEvset (u : State) (r : Requester) (t : Nat) (e : BitVec 16) :
    u.performWrite r .TRP_THREAD_EVSET t ((e.setWidth 32).setWidth 64) lowMask = u.eventSet r t e.toNat := by
  have h : u.performWrite r .TRP_THREAD_EVSET t ((e.setWidth 32).setWidth 64) lowMask =
      u.eventSet r t (fieldOf ((e.setWidth 32).setWidth 64 &&& lowMask) 0 16) := rfl
  rwa [fieldOf_lowWrite e (by decide)] at h

/-- A delivery ring's element names its cluster and its queue. -/
theorem ringElement_split (n : Fin 8) (q : Fin 2) : (2 * n.val + q.val) / 2 = n.val ∧ (2 * n.val + q.val) % 2 = q.val := by omega

theorem State.performWrite_dqCons (u : State) (r : Requester) (n : Fin 8) (q : Fin 2) (c : BitVec 16) :
    u.performWrite r .TRP_DQ_CONS (2 * n.val + q.val) ((c.setWidth 32).setWidth 64) lowMask = u.dqConsWrite n q c.toNat := by
  obtain ⟨hn, hq⟩ := ringElement_split n q
  have h : u.performWrite r .TRP_DQ_CONS (2 * n.val + q.val) ((c.setWidth 32).setWidth 64) lowMask =
      u.dqConsWrite ((2 * n.val + q.val) / 2) ((2 * n.val + q.val) % 2) (fieldOf ((c.setWidth 32).setWidth 64 &&& lowMask) 0 16) := rfl
  rwa [fieldOf_lowWrite c (by decide), hn, hq] at h

/-- What a whole write of TRP_DQ_CFG stores (R7). -/
def State.dqCfgWritten (u : State) (i : Nat) (v : Word) : Word :=
  BitVec.ofNat 64 (plainWritten RegName.TRP_DQ_CFG.info.fields (u.reg .TRP_DQ_CFG i).toNat v.toNat wholeMask.toNat)

theorem State.performWrite_dqCfg (u : State) (r : Requester) (n : Fin 8) (q : Fin 2) (v : Word) :
    u.performWrite r .TRP_DQ_CFG (2 * n.val + q.val) v wholeMask = u.dqCfgWrite n q (u.dqCfgWritten (2 * n.val + q.val) v) := by
  obtain ⟨hn, hq⟩ := ringElement_split n q
  have h : u.performWrite r .TRP_DQ_CFG (2 * n.val + q.val) v wholeMask =
      u.dqCfgWrite ((2 * n.val + q.val) / 2) ((2 * n.val + q.val) % 2) (u.dqCfgWritten (2 * n.val + q.val) v) := rfl
  rwa [hn, hq] at h

/-- Every field of TRP_DQ_CFG takes the bits written. -/
theorem State.dqCfgWritten_field (u : State) (i : Nat) (v : Word) {f : FieldInfo} (hf : f ∈ RegName.TRP_DQ_CFG.info.fields) :
    fieldOf (u.dqCfgWritten i v) f.lo f.width = bits v.toNat f.lo f.width := by
  have hd : RegName.TRP_DQ_CFG.info.fields.Pairwise FieldInfo.apart := by unfold FieldInfo.apart; decide
  have hrw : ∀ g ∈ RegName.TRP_DQ_CFG.info.fields, g.access = .RW ∧ g.lo + g.width ≤ 64 := by decide
  obtain ⟨ha, hw⟩ := hrw f hf
  exact whole_at hd hf (.inl ha) hw _ _

/-- A RESET command touches the W1S bit alone, so what TRP_CORE_CFG stores stays. -/
theorem State.store_coreReset {u : State} (h : u.canonical = true) (k : Nat) :
    u.setReg .TRP_CORE_CFG k (BitVec.ofNat 64 (plainWritten RegName.TRP_CORE_CFG.info.fields (u.reg .TRP_CORE_CFG k).toNat
      (32 : Word).toNat (32 : Word).toNat)) = u := by
  rw [plainWritten_none_word (by decide), State.setReg_same (State.canonical_regs h)]

theorem State.performWrite_coreReset_cpc {u : State} (h : u.canonical = true) (a : Fin 2) (b : Fin 4) (k : Nat) :
    u.performWrite (.cpc a b) .TRP_CORE_CFG k 32 32 = u.cpcCoreReset k := by
  have hw : u.performWrite (.cpc a b) .TRP_CORE_CFG k 32 32 = (u.setReg .TRP_CORE_CFG k (BitVec.ofNat 64
      (plainWritten RegName.TRP_CORE_CFG.info.fields (u.reg .TRP_CORE_CFG k).toNat (32 : Word).toNat (32 : Word).toNat))).cpcCoreReset k :=
    if_pos (show (bit (32 &&& 32 : Word).toNat 5 && true) = true by decide)
  rw [hw, State.store_coreReset h]

theorem State.performWrite_coreReset_troupe {u : State} (h : u.canonical = true) (n : Fin 8) (a b : Fin 16) (k : Nat) :
    u.performWrite (.troupe n a b) .TRP_CORE_CFG k 32 32 = u :=
  (if_neg (show ¬(bit (32 &&& 32 : Word).toNat 5 && false) = true by decide)).trans (State.store_coreReset h k)

/-! ## The commands of an admitted write -/

section Admitted
variable {s u : State} {r : Requester}

theorem exec_threadStart_of {t : BitVec 11} (h : s.admitWrite r .TRP_THREAD_CTRL t.toNat = (true, u))
    (ha : u.sleepingAt .TRP_THREAD_CTRL t.toNat = none) (pc : BitVec 32) :
    exec (.threadStart r t pc) s = .next (u.threadControl r t.toNat 1 pc.toNat) := by
  have hw := State.directWrite_of h ha (BitVec.ofNat 64 (1 + 2 ^ 32 * pc.toNat)) wholeMask
  rw [State.performWrite_threadCtrl, startWord_op, startWord_pc] at hw
  exact congrArg _ hw

theorem exec_threadStop_of {t : BitVec 11} (h : s.admitWrite r .TRP_THREAD_CTRL t.toNat = (true, u))
    (ha : u.sleepingAt .TRP_THREAD_CTRL t.toNat = none) : exec (.threadStop r t) s = .next (u.threadControl r t.toNat 2 0) := by
  have hw := State.directWrite_of h ha 2 wholeMask
  rw [State.performWrite_threadCtrl] at hw
  exact congrArg _ hw

theorem exec_threadEvset_of {t : BitVec 11} (h : s.admitWrite r .TRP_THREAD_EVSET t.toNat = (true, u))
    (ha : u.sleepingAt .TRP_THREAD_EVSET t.toNat = none) (e : BitVec 16) :
    exec (.threadEvset r t e) s = .next (u.eventSet r t.toNat e.toNat) :=
  congrArg _ ((State.directWrite_of h ha _ _).trans (u.performWrite_threadEvset r t.toNat e))

theorem exec_coreReset_of {k : BitVec 7} (h : s.admitWrite r .TRP_CORE_CFG k.toNat = (true, u))
    (ha : u.sleepingAt .TRP_CORE_CFG k.toNat = none) : exec (.coreReset r k) s = .next (u.performWrite r .TRP_CORE_CFG k.toNat 32 32) :=
  congrArg _ (State.directWrite_of h ha 32 32)

theorem exec_dqConsWrite_of {n : Fin 8} {q : Fin 2} (h : s.admitWrite r .TRP_DQ_CONS (2 * n.val + q.val) = (true, u))
    (ha : u.sleepingAt .TRP_DQ_CONS (2 * n.val + q.val) = none) (c : BitVec 16) :
    exec (.dqConsWrite r n q c) s = .next (u.dqConsWrite n q c.toNat) :=
  congrArg _ ((State.directWrite_of h ha _ _).trans (u.performWrite_dqCons r n q c))

theorem exec_dqCfgWrite_of {n : Fin 8} {q : Fin 2} (h : s.admitWrite r .TRP_DQ_CFG (2 * n.val + q.val) = (true, u))
    (ha : u.sleepingAt .TRP_DQ_CFG (2 * n.val + q.val) = none) (v : BitVec 64) :
    exec (.dqCfgWrite r n q v) s = .next (u.dqCfgWrite n q (u.dqCfgWritten (2 * n.val + q.val) v)) :=
  congrArg _ ((State.directWrite_of h ha _ _).trans (u.performWrite_dqCfg r n q v))

end Admitted

/-! ## Threads (R378 to R380) -/

theorem State.threadControl_dropped (s : State) (r : Requester) (t op pc : Nat) (h : mayControl r t = false ∨ s.coreRuns (t / 16) = false) :
    s.threadControl r t op pc = s := by
  unfold State.threadControl
  rcases h with h | h <;> simp [h]

section Controlled
variable {s : State} {r : Requester} {t : Nat}

theorem State.threadControl_stop (hm : mayControl r t = true) (hr : s.coreRuns (t / 16) = true) (pc : Nat) :
    s.threadControl r t 2 pc = s.threadStop t := by
  simp [State.threadControl, hm, hr]

theorem State.threadControl_start (hm : mayControl r t = true) (hr : s.coreRuns (t / 16) = true) {pc : Nat} (hlo : 0x80000000 ≤ pc)
    (hhi : pc < 0x80020000) (he : pc % 2 = 0) : s.threadControl r t 1 pc = s.threadStart t pc := by
  simp [State.threadControl, hm, hr, hlo, hhi, he]

/-- START at an odd PC, or outside instruction memory, does nothing. -/
theorem State.threadControl_badPc (hm : mayControl r t = true) (hr : s.coreRuns (t / 16) = true) {pc : Nat}
    (h : pc < 0x80000000 ∨ 0x80020000 ≤ pc ∨ pc % 2 ≠ 0) : s.threadControl r t 1 pc = s := by
  have hb : (decide (0x80000000 ≤ pc) && decide (pc < 0x80020000) && pc % 2 == 0) = false := by
    rw [Bool.eq_false_iff]
    simp only [ne_eq, Bool.and_eq_true, decide_eq_true_eq, beq_iff_eq]
    omega
  simp [State.threadControl, hm, hr, hb]

end Controlled

theorem State.threadStart_awake {s : State} {t : Nat} (h : (s.thread t).state ≠ .HALTED) (pc : Nat) :
    s.threadStart t pc = ((s.setThread t { s.thread t with
      state := .RUNNING, pc := BitVec.ofNat 64 pc, x := [], evpend := 0, evie := 0, chres := 0, ticket := 0, staging := [], resv := none,
      wait := none }).setReg .TRP_THREAD_FAULT t 0).setReg .TRP_THREAD_TVAL t 0 := by
  have hb : ((s.thread t).state == .HALTED) = false := beq_false_of_ne h
  simp only [State.threadStart, hb, Bool.false_eq_true, if_false]

theorem State.threadStop_awake {s : State} {t : Nat} (h : (s.thread t).state ≠ .HALTED) :
    s.threadStop t = s.setThread t { s.thread t with state := .STOPPED, wait := none } := if_neg h

theorem State.threadStop_halted {s : State} {t : Nat} (h : (s.thread t).state = .HALTED) :
    s.threadStop t = s.setThread t { s.thread t with held := .STOPPED } := if_pos h

/-- A CPC core, or a thread of the cluster, raises the events given. -/
theorem State.eventSet_raises (s : State) (r : Requester) (t e : Nat)
    (h : (∃ u c, r = .cpc u c) ∨ (∃ n k h, r = .troupe n k h ∧ n.val = t / 256)) :
    s.eventSet r t e = ((List.range 16).filter (bit e)).foldl (fun s i => s.setEvent t (16 + i)) s := by
  rcases h with ⟨u, c, rfl⟩ | ⟨n, k, h, rfl, hn⟩
  · rfl
  · exact if_pos (beq_iff_eq.mpr hn)

/-! ## Core resets and stalls (R392, R393) -/

theorem State.coreResetDone_ends {s : State} {k : Nat} (hr : (s.core k).resetting = true) (hc : s.coreCurtained k = false)
    (hp : s.pairsAwake 1 = true) :
    s.coreResetDone k = ((s.reloadDmem k).setCore k { since := s.clk.core }).threadStart (16 * k) 0x80000000 := by
  simp only [State.coreResetDone, hr, hc, hp, Bool.not_false, Bool.and_true, if_true]

theorem State.coreResetDone_waits {s : State} {k : Nat}
    (h : (s.core k).resetting = false ∨ s.coreCurtained k = true ∨ s.pairsAwake 1 = false) : s.coreResetDone k = s := by
  unfold State.coreResetDone
  rcases h with h | h | h <;> simp [h]

theorem State.stallRaised_raises {s : State} {k : Nat} (hw : s.allWait k = true) (hr : s.coreRuns k = true) (hi : 65536 ≤ (s.core k).idle) :
    s.stallRaised k = ((s.setCore k { s.core k with stall := true, idle := 0 }).setEvent (16 * k) 0).bump .TRP_STALLS (k / 16) := by
  simp only [State.stallRaised, hw, hr, hi, decide_true, Bool.and_true, if_true]

theorem State.stallRaised_waits {s : State} {k : Nat} (h : s.allWait k = false ∨ s.coreRuns k = false ∨ (s.core k).idle < 65536) :
    s.stallRaised k = s := by
  unfold State.stallRaised
  rcases h with h | h | h
  · simp [h]
  · simp [h]
  · simp only [decide_eq_false (Nat.not_le.mpr h), Bool.and_false, Bool.false_eq_true, if_false]

theorem State.stallReset_resets {s : State} {k : Nat} (hs : (s.core k).stall = true) (hr : s.coreRuns k = true)
    (ht : 2 ^ 24 ≤ (s.core k).stalled) : s.stallReset k = s.coreReset k 2 := by
  simp only [State.stallReset, hs, hr, ht, decide_true, Bool.and_true, if_true]

theorem State.stallReset_waits {s : State} {k : Nat}
    (h : (s.core k).stall = false ∨ s.coreRuns k = false ∨ (s.core k).stalled < 2 ^ 24) : s.stallReset k = s := by
  unfold State.stallReset
  rcases h with h | h | h
  · simp [h]
  · simp [h]
  · simp only [decide_eq_false (Nat.not_le.mpr h), Bool.and_false, Bool.false_and, Bool.false_eq_true, if_false]

theorem State.allWait_eq_any (s : State) (k : Nat) :
    s.allWait k = ((List.range 16).any (fun i => (s.thread (16 * k + i)).state == .WAITING) &&
      !(List.range 16).any (fun i => (s.thread (16 * k + i)).state == .RUNNING)) := by
  simp only [State.allWait, List.any_map, Function.comp_def]

/-! ## Deliveries (R394, R395) -/

/-- A copy that has arrived on die d's Troupe path for a cluster, its tail final. -/
def State.deliverable (s : State) (d : Nat) (k : Copy) : Bool :=
  k.port == 334 + d && (s.frame? k.frame).any (fun x => x.ended && !forLeadCpc k x)

/-- The units DELIVERY_PUBLISH of die d takes its next one from. -/
theorem State.arrived_deliverable (s : State) (d : Nat) :
    s.swc.arrived.filter (fun k => k.port == 334 + d && (match s.frame? k.frame with | some x => x.ended && !forLeadCpc k x | none => false)) =
      s.swc.arrived.filter (s.deliverable d) := by
  refine List.filter_congr (fun k _ => ?_)
  unfold State.deliverable
  cases s.frame? k.frame <;> rfl

theorem State.deliverTroupe_idle {s : State} {d : Nat} (h : s.swc.arrived.filter (s.deliverable d) = []) : s.deliverTroupe d = s := by
  unfold State.deliverTroupe
  generalize hmine : List.filter _ s.swc.arrived = mine
  obtain rfl : mine = [] := hmine.symm.trans ((s.arrived_deliverable d).trans h)
  rfl

section Delivery
variable {s : State} {d : Nat} {k : Copy} {rest : List Copy} {f : Frame}
  (hm : s.swc.arrived.filter (s.deliverable d) = k :: rest) (hf : s.frame? k.frame = some f)
include hm hf

/-- A sample goes to the spotlight ring of the cluster it is bound for. -/
theorem State.deliverTroupe_sample {snap dest depth port : Nat} (hk : k.kind = .sample snap dest depth port)
    (hl : s.clusterLoaded (dest - 1) = true) :
    s.deliverTroupe d = (s.publish (dest - 1) 1 (sampleHeader (s.shown k f) port depth (s.shown k f).octets.length ++
      (s.shown k f).octets.take (128 * snap))).takeArrived k := by
  unfold State.deliverTroupe
  generalize hmine : List.filter _ s.swc.arrived = mine
  obtain rfl : mine = k :: rest := hmine.symm.trans ((s.arrived_deliverable d).trans hm)
  simp only [List.head?_cons, hf, Option.map_some, hk, hl, if_true]

/-- A slow-path frame goes to the cluster its flow is hashed to, or is counted and dropped. -/
theorem State.deliverTroupe_slow (hk : ∀ snap dest depth port, k.kind ≠ .sample snap dest depth port) :
    s.deliverTroupe d = ((s.slowCluster d (s.shown k f)).elim (s.bump .TRP_SLOW_NO_CLUSTER 0) (fun n =>
      if (s.shown k f).bad then s.bump .TRP_DQ_TAIL_DROP n
      else s.publish n 0 (slowHeader (s.shown k f) ((s.shown k f).octets.take ((s.shown k f).octets.length - 4)).length ++
        (s.shown k f).octets.take ((s.shown k f).octets.length - 4)))).takeArrived k := by
  unfold State.deliverTroupe
  generalize hmine : List.filter _ s.swc.arrived = mine
  obtain rfl : mine = k :: rest := hmine.symm.trans ((s.arrived_deliverable d).trans hm)
  cases hkind : k.kind with
  | sample snap dest depth port => exact absurd hkind (hk snap dest depth port)
  | normal | mirror =>
    simp only [List.head?_cons, hf, Option.map_some, hkind]
    cases s.slowCluster d (s.shown k f) <;> rfl

end Delivery

theorem State.publish_tooBig (s : State) (n q : Nat) (unit : List Byte)
    (h : 2 ^ (s.touchDomain (30 + n)).fld Fld.TRP_DQ_CFG_LOG2_SLOT (2 * n + q) < unit.length) :
    s.publish n q unit = (s.touchDomain (30 + n)).bump .TRP_DQ_TOO_BIG n := if_pos h

/-- A unit that fits a slot is dropped where its ring is disabled or full. -/
theorem State.publish_full (s : State) (n q : Nat) (unit : List Byte)
    (hs : unit.length ≤ 2 ^ (s.touchDomain (30 + n)).fld Fld.TRP_DQ_CFG_LOG2_SLOT (2 * n + q))
    (h : (s.touchDomain (30 + n)).flagAt Fld.TRP_DQ_CFG_ENABLE (2 * n + q) = false ∨
      ringHeld ((s.touchDomain (30 + n)).dqProd (2 * n + q)) ((s.touchDomain (30 + n)).dqCons (2 * n + q)) (s.dqSlots (2 * n + q)) =
        s.dqSlots (2 * n + q)) :
    s.publish n q unit = (s.touchDomain (30 + n)).bump .TRP_DQ_FULL n := by
  have hb : (!(s.touchDomain (30 + n)).flagAt Fld.TRP_DQ_CFG_ENABLE (2 * n + q) ||
      ringHeld ((s.touchDomain (30 + n)).dqProd (2 * n + q)) ((s.touchDomain (30 + n)).dqCons (2 * n + q)) (s.dqSlots (2 * n + q)) ==
        s.dqSlots (2 * n + q)) = true := by
    rw [Bool.or_eq_true, Bool.not_eq_true', beq_iff_eq]
    exact h
  exact (if_neg (Nat.not_lt.mpr hs)).trans (if_pos hb)

/-! ## Delivery rings (R395, R400) -/

theorem State.dqCfgWrite_sameGeometry {s : State} {n q : Nat} {v : Word} (h : fieldOf v 0 32 = fieldOf (s.reg .TRP_DQ_CFG (2 * n + q)) 0 32)
    {x : Word} (hx : x = BitVec.ofNat 64 (fieldOf v 0 32 + fieldOf v 32 21 * 2 ^ 32)) :
    s.dqCfgWrite n q v =
      if fieldOf (s.reg .TRP_DQ_CFG (2 * n + q)) 52 1 ≠ 1 ∧ fieldOf x 52 1 = 1 then (s.setReg .TRP_DQ_CFG (2 * n + q) x).setDq (2 * n + q) 0 0
      else s.setReg .TRP_DQ_CFG (2 * n + q) x := by
  have hg : (fieldOf v 0 32 != fieldOf (s.reg .TRP_DQ_CFG (2 * n + q)) 0 32) = false := by simp [h]
  subst hx
  simp [State.dqCfgWrite, hg]

theorem State.dqCfgWrite_heldGeometry {s : State} {n q : Nat} {v : Word} (h : fieldOf v 0 32 ≠ fieldOf (s.reg .TRP_DQ_CFG (2 * n + q)) 0 32)
    (ho : fieldOf (s.reg .TRP_DQ_CFG (2 * n + q)) 52 1 = 1) :
    s.dqCfgWrite n q v = (s.setReg .TRP_DQ_CFG (2 * n + q)
      (BitVec.ofNat 64 (fieldOf (s.reg .TRP_DQ_CFG (2 * n + q)) 0 32 + fieldOf v 32 21 * 2 ^ 32))).dqRefused n := by
  have hg : (fieldOf v 0 32 != fieldOf (s.reg .TRP_DQ_CFG (2 * n + q)) 0 32) = true := bne_iff_ne.mpr h
  simp [State.dqCfgWrite, hg, ho]

/-- Settles O43: each clause is one branch of the operation it names, and an admitted write of a TRP register performs its operation. -/
theorem coreSupervision : Obligations.CoreSupervision := by
  unfold Obligations.CoreSupervision
  refine ⟨?threadCtrl, ?dropped, ?controlled, fun _ _ _ => rfl, fun _ _ _ _ => rfl, ?start, ?stop, ?evset, ?raise, ?resetWrite, ?reset,
    ?supervise, State.allWait_eq_any, ?deliver, ?publish, ?cons, ?cfg, ?sameGeometry, ?heldGeometry⟩
  case threadCtrl => exact fun s u r t pc h ha => ⟨exec_threadStart_of h ha pc, exec_threadStop_of h ha⟩
  case dropped => exact fun s r t op pc h => s.threadControl_dropped r t op pc h
  case controlled =>
    exact fun s r t pc hm hr => ⟨State.threadControl_stop hm hr pc, State.threadControl_start hm hr, State.threadControl_badPc hm hr⟩
  case start => rintro s t pc _ rfl h; exact State.threadStart_awake h pc
  case stop => rintro s t _ rfl; exact ⟨State.threadStop_awake, State.threadStop_halted⟩
  case evset => exact fun s u r t e h ha => exec_threadEvset_of h ha e
  case raise => exact State.eventSet_raises
  case resetWrite =>
    intro s u r k h ha hc
    have he := exec_coreReset_of h ha
    refine ⟨?_, ?_, ?_⟩
    · rintro a b rfl hr
      rw [he, State.performWrite_coreReset_cpc hc, State.cpcCoreReset, if_pos hr]
    · rintro a b rfl hr
      rw [he, State.performWrite_coreReset_cpc hc, State.cpcCoreReset, if_neg (Bool.eq_false_iff.mp hr)]
    · rintro n a b rfl
      rw [he, State.performWrite_coreReset_troupe hc]
  case reset => rintro s _ _ k cause rfl rfl; exact ⟨_, rfl, rfl⟩
  case supervise =>
    intro s k
    exact ⟨fun hr hc hp => congrArg _ (State.coreResetDone_ends hr hc hp), fun h => congrArg _ (State.coreResetDone_waits h),
      fun hw hr hi => congrArg _ (State.stallRaised_raises hw hr hi), fun h => congrArg _ (State.stallRaised_waits h),
      fun hs hr ht => congrArg _ (State.stallReset_resets hs hr ht), fun h => congrArg _ (State.stallReset_waits h)⟩
  case deliver =>
    rintro s d mine hmine
    have hmine : mine = s.swc.arrived.filter (s.deliverable d) := hmine.trans (s.arrived_deliverable d)
    subst hmine
    refine ⟨fun h => congrArg _ (State.deliverTroupe_idle h), ?_⟩
    rintro k rest f _ hm hf rfl
    refine ⟨fun snap dest depth port hk hl => congrArg _ (State.deliverTroupe_sample hm hf hk hl), ?_, ?_, ?_⟩
    · intro hk hc
      have hd := State.deliverTroupe_slow hm hf hk
      rw [hc, Option.elim_none] at hd
      exact congrArg _ hd
    · intro n hk hc hb
      have hd := State.deliverTroupe_slow hm hf hk
      rw [hc, Option.elim_some, if_pos hb] at hd
      exact congrArg _ hd
    · rintro n _ rfl hk hc hb
      have hd := State.deliverTroupe_slow hm hf hk
      rw [hc, Option.elim_some, if_neg (Bool.eq_false_iff.mp hb)] at hd
      exact congrArg _ hd
  case publish =>
    rintro s _ n q unit _ _ _ rfl rfl rfl rfl
    exact ⟨s.publish_tooBig n q unit, s.publish_full n q unit⟩
  case cons =>
    rintro s u r n q c _ rfl h ha
    have he := exec_dqConsWrite_of h ha c
    exact ⟨fun hle => he.trans (congrArg _ (if_pos hle)), fun hlt => he.trans (congrArg _ (if_neg (Nat.not_le.mpr hlt)))⟩
  case cfg =>
    rintro s u r n q v _ rfl h ha
    have hw := fun (f : FieldInfo) => u.dqCfgWritten_field (2 * n.val + q.val) v (f := f)
    exact ⟨_, hw ⟨0, 24, .RW, 0⟩ (by decide), hw ⟨24, 4, .RW, 4⟩ (by decide), hw ⟨28, 4, .RW, 11⟩ (by decide), hw ⟨32, 4, .RW, 0⟩ (by decide),
      hw ⟨36, 16, .RW, 1⟩ (by decide), hw ⟨52, 1, .RW, 0⟩ (by decide), exec_dqCfgWrite_of h ha v⟩
  case sameGeometry =>
    rintro s n q v _ _ rfl rfl h
    refine ⟨_, rfl, fun hx => ?_, fun ho hx => ?_⟩
    · rw [State.dqCfgWrite_sameGeometry h rfl, if_neg (by omega)]
    · rw [State.dqCfgWrite_sameGeometry h rfl, if_pos ⟨by omega, hx⟩]
  case heldGeometry =>
    rintro s n q v _ _ rfl rfl h ho
    exact ⟨_, rfl, State.dqCfgWrite_heldGeometry h ho⟩

end Sys2Proof.Machine
end

section
/-! PROOF. The minimum image version (R44, R261): what every command keeps, taken arm by arm of the dispatch, and from it what a step keeps. -/

namespace Sys2Proof.Machine

/-- Every command keeps what `Keeps` speaks of: arm by arm, by the law of its meaning. -/
theorem exec_keeps {p : Prop} {r s t : State} (hk : Keeps p r s) : ∀ c : Instr, exec c s = .next t → Keeps p r t
  | .porstNRelease, h => execPorstNRelease_keeps s hk t h
  | .porstNAssert, h => execPorstNAssert_keeps s hk t h
  | .ghostLightStable, h => execGhostLightStable_keeps s hk t h
  | .warmNAssert, h => execWarmNAssert_keeps s hk t h
  | .warmNRelease, h => execWarmNRelease_keeps s hk t h
  | .loadingSelfTestDone pass found, h => execLoadingSelfTestDone_keeps pass found s hk t h
  | .slotHeadersRead readErrorA readErrorB, h => execSlotHeadersRead_keeps readErrorA readErrorB s hk t h
  | .earlyIdentityVerified readError, h => execEarlyIdentityVerified_keeps readError s hk t h
  | .imageBodyVerified readError, h => execImageBodyVerified_keeps readError s hk t h
  | .announceTimer, h => execAnnounceTimer_keeps s hk t h
  | .offer station header sigblock, h => execOffer_keeps station header sigblock s hk t h
  | .chunk station offset data, h => execChunk_keeps station offset data s hk t h
  | .endMessage x, h => execEndMessage_keeps x s hk t h
  | .stagingSessionIdle, h => execStagingSessionIdle_keeps s hk t h
  | .amendment origin message, h => execAmendment_keeps origin message s hk t h
  | .regwrite origin addr mask value, h => execRegwrite_keeps origin addr mask value s hk t h
  | .regwrite64 origin addr mask value, h => execRegwrite64_keeps origin addr mask value s hk t h
  | .sectionRecord origin type version body, h => execSectionRecord_keeps origin type version body s hk t h
  | .restartRecord origin, h => execRestartRecord_keeps origin s hk t h
  | .sleepRecord origin, h => execSleepRecord_keeps origin s hk t h
  | .stageImage origin header sigblock, h => execStageImage_keeps origin header sigblock s hk t h
  | .query origin addrs, h => execQuery_keeps origin addrs s hk t h
  | .registerWrite r0 addr size value, h => execRegisterWrite_keeps r0 addr size value s hk t h
  | .slowWritePerformed b, h => execSlowWritePerformed_keeps b s hk t h
  | .slowReadTimeout r0 addr wide, h => execSlowReadTimeout_keeps r0 addr wide s hk t h
  | .halfLatchRead r0 addr, h => execHalfLatchRead_keeps r0 addr s hk t h
  | .counterReadClear r0 addr wide arriving, h => execCounterReadClear_keeps r0 addr wide arriving s hk t h
  | .voteOneDisagree f ix copy written, h => execVoteOneDisagree_keeps f ix copy written s hk t h
  | .groupScrubDone page, h => execGroupScrubDone_keeps page s hk t h
  | .backgroundScrub, h => execBackgroundScrub_keeps s hk t h
  | .voteThreeDisagree f x, h => execVoteThreeDisagree_keeps f x s hk t h
  | .enginePlanWrite r0 e plan, h => execEnginePlanWrite_keeps r0 e plan s hk t h
  | .lbCellsWrite r0 e j value, h => execLbCellsWrite_keeps r0 e j value s hk t h
  | .prtConfigWrite r0 p0 value, h => execPrtConfigWrite_keeps r0 p0 value s hk t h
  | .pfcWmWrite r0 p0 c value, h => execPfcWmWrite_keeps r0 p0 c value s hk t h
  | .lsmInsertion e, h => execLsmInsertion_keeps e s hk t h
  | .lsmVerifyDone e v, h => execLsmVerifyDone_keeps e v s hk t h
  | .lsmNoAnswer e, h => execLsmNoAnswer_keeps e s hk t h
  | .lsmRemoval e, h => execLsmRemoval_keeps e s hk t h
  | .eject r0 e, h => execEject_keeps r0 e s hk t h
  | .ejectComplete e litHours bias temp, h => execEjectComplete_keeps e litHours bias temp s hk t h
  | .retry r0 e, h => execRetry_keeps r0 e s hk t h
  | .lifeRecordTimer e litHours bias temp, h => execLifeRecordTimer_keeps e litHours bias temp s hk t h
  | .laserChannelFault e c, h => execLaserChannelFault_keeps e c s hk t h
  | .lsmInBandInterrupt e alarm, h => execLsmInBandInterrupt_keeps e alarm s hk t h
  | .lsmAlarmPoll e alarm, h => execLsmAlarmPoll_keeps e alarm s hk t h
  | .frameArrival p0 octets, h => execFrameArrival_keeps p0 octets s hk t h
  | .xoffRefresh p0 c, h => execXoffRefresh_keeps p0 c s hk t h
  | .rxMaxFrameReached f octets, h => execRxMaxFrameReached_keeps f octets s hk t h
  | .frameTailReceived f octets cause, h => execFrameTailReceived_keeps f octets cause s hk t h
  | .pauseFrameReceived p0 pfc enable times fcsGood, h => execPauseFrameReceived_keeps p0 pfc enable times fcsGood s hk t h
  | .pauseTimerExpiry p0 c, h => execPauseTimerExpiry_keeps p0 c s hk t h
  | .txTimestampPop r0 p0 wide, h => execTxTimestampPop_keeps r0 p0 wide s hk t h
  | .mgmtFrameReceived seg src dst etherType body, h => execMgmtFrameReceived_keeps seg src dst etherType body s hk t h
  | .mgmtReassemblyTimeout station seq, h => execMgmtReassemblyTimeout_keeps station seq s hk t h
  | .pipelineEntry f octets flowOverRate, h => execPipelineEntry_keeps f octets flowOverRate s hk t h
  | .lookupResult f, h => execLookupResult_keeps f s hk t h
  | .sceneCommit r0 scene timed, h => execSceneCommit_keeps r0 scene timed s hk t h
  | .sceneCancel r0, h => execSceneCancel_keeps r0 s hk t h
  | .sceneActivation, h => execSceneActivation_keeps s hk t h
  | .sceneDrained slot, h => execSceneDrained_keeps slot s hk t h
  | .sceneForced slot, h => execSceneForced_keeps slot s hk t h
  | .insert c, h => execInsert_keeps c s hk t h
  | .delete c, h => execDelete_keeps c s hk t h
  | .lookup c, h => execLookup_keeps c s hk t h
  | .readIndex c, h => execReadIndex_keeps c s hk t h
  | .writeIndex c, h => execWriteIndex_keeps c s hk t h
  | .refresh c, h => execRefresh_keeps c s hk t h
  | .flushScene c, h => execFlushScene_keeps c s hk t h
  | .tableCommandDone, h => execTableCommandDone_keeps s hk t h
  | .tblEvictedPop r0 value, h => execTblEvictedPop_keeps r0 value s hk t h
  | .tableCfgWrite r0 w, h => execTableCfgWrite_keeps r0 w s hk t h
  | .settleSweep slot, h => execSettleSweep_keeps slot s hk t h
  | .milestoneTick, h => execMilestoneTick_keeps s hk t h
  | .agerScan table slot, h => execAgerScan_keeps table slot s hk t h
  | .agerRemove, h => execAgerRemove_keeps s hk t h
  | .learnPresentation pipeline, h => execLearnPresentation_keeps pipeline s hk t h
  | .flowCacheFill a b, h => execFlowCacheFill_keeps a b s hk t h
  | .memberRepin g ix, h => execMemberRepin_keeps g ix s hk t h
  | .spillReturn p0 c, h => execSpillReturn_keeps p0 c s hk t h
  | .egressSelect p0, h => execEgressSelect_keeps p0 s hk t h
  | .egressComplete p0, h => execEgressComplete_keeps p0 s hk t h
  | .shaperWrite r0 k ix value, h => execShaperWrite_keeps r0 k ix value s hk t h
  | .policerWrite r0 ix size value, h => execPolicerWrite_keeps r0 ix size value s hk t h
  | .gateChange p0, h => execGateChange_keeps p0 s hk t h
  | .timetableChange r0 p0 length, h => execTimetableChange_keeps r0 p0 length s hk t h
  | .timetableCancel r0 p0, h => execTimetableCancel_keeps r0 p0 s hk t h
  | .timetableChangeTime p0, h => execTimetableChangeTime_keeps p0 s hk t h
  | .timeStep r0 ns, h => execTimeStep_keeps r0 ns s hk t h
  | .timeNowRead r0 wide, h => execTimeNowRead_keeps r0 wide s hk t h
  | .ppsEdge ix falling, h => execPpsEdge_keeps ix falling s hk t h
  | .ppsSeenExpiry ix, h => execPpsSeenExpiry_keeps ix s hk t h
  | .ppsCaptureRead r0 ix, h => execPpsCaptureRead_keeps r0 ix s hk t h
  | .todByteReceived ix b, h => execTodByteReceived_keeps ix b s hk t h
  | .todRead r0 ix, h => execTodRead_keeps r0 ix s hk t h
  | .encapUnit p0, h => execEncapUnit_keeps p0 s hk t h
  | .decapUnit p0, h => execDecapUnit_keeps p0 s hk t h
  | .espOutbound p0, h => execEspOutbound_keeps p0 s hk t h
  | .espInbound p0, h => execEspInbound_keeps p0 s hk t h
  | .espInboundResult die, h => execEspInboundResult_keeps die s hk t h
  | .objectRead r0 type index, h => execObjectRead_keeps r0 type index s hk t h
  | .objectWrite r0 type index keepState, h => execObjectWrite_keeps r0 type index keepState s hk t h
  | .roll r0 type index, h => execRoll_keeps r0 type index s hk t h
  | .oflEventPop r0, h => execOflEventPop_keeps r0 s hk t h
  | .storageTransportFrame d conn f, h => execStorageTransportFrame_keeps d conn f s hk t h
  | .storageCommandTimeout t0, h => execStorageCommandTimeout_keeps t0 s hk t h
  | .keepAliveTimer conn, h => execKeepAliveTimer_keeps conn s hk t h
  | .transportRetransmitTimer conn, h => execTransportRetransmitTimer_keeps conn s hk t h
  | .cipherSubmit q request input, h => execCipherSubmit_keeps q request input s hk t h
  | .cipherDispatch e, h => execCipherDispatch_keeps e s hk t h
  | .cipherUnitDone e, h => execCipherUnitDone_keeps e s hk t h
  | .contextLoad c read, h => execContextLoad_keeps c read s hk t h
  | .checkpointComplete c, h => execCheckpointComplete_keeps c s hk t h
  | .cipherEngineError e, h => execCipherEngineError_keeps e s hk t h
  | .lockContext r0, h => execLockContext_keeps r0 s hk t h
  | .dropPrevious r0, h => execDropPrevious_keeps r0 s hk t h
  | .ctxLimitWrite r0 k value, h => execCtxLimitWrite_keeps r0 k value s hk t h
  | .generate, h => execGenerate_keeps s hk t h
  | .installKey, h => execInstallKey_keeps s hk t h
  | .generateInstall, h => execGenerateInstall_keeps s hk t h
  | .stageSuccessor, h => execStageSuccessor_keeps s hk t h
  | .discard, h => execDiscard_keeps s hk t h
  | .exportKey, h => execExportKey_keeps s hk t h
  | .ikeStart, h => execIkeStart_keeps s hk t h
  | .ikeKeys, h => execIkeKeys_keeps s hk t h
  | .childSa, h => execChildSa_keeps s hk t h
  | .ikeEnd, h => execIkeEnd_keeps s hk t h
  | .handoverOffer, h => execHandoverOffer_keeps s hk t h
  | .warrant origin message, h => execWarrant_keeps origin message s hk t h
  | .zeroize, h => execZeroize_keeps s hk t h
  | .handoverExport, h => execHandoverExport_keeps s hk t h
  | .handoverImport, h => execHandoverImport_keeps s hk t h
  | .enrolImageKey, h => execEnrolImageKey_keeps s hk t h
  | .withdrawImageKey, h => execWithdrawImageKey_keeps s hk t h
  | .replaceHouseKey, h => execReplaceHouseKey_keeps s hk t h
  | .setKFloor, h => execSetKFloor_keeps s hk t h
  | .debugUnlock, h => execDebugUnlock_keeps s hk t h
  | .reinitialise, h => execReinitialise_keeps s hk t h
  | .zeroizeNAssert, h => execZeroizeNAssert_keeps s hk t h
  | .lidTamperAssert, h => execLidTamperAssert_keeps s hk t h
  | .zeroisationComplete, h => execZeroisationComplete_keeps s hk t h
  | .entropyTestFail v, h => execEntropyTestFail_keeps v s hk t h
  | .drbgReseed, h => execDrbgReseed_keeps s hk t h
  | .periodicSelfTest vaultPass failed, h => execPeriodicSelfTest_keeps vaultPass failed s hk t h
  | .getVersion h0, h => execGetVersion_keeps h0 s hk t h
  | .getCapabilities h0, h => execGetCapabilities_keeps h0 s hk t h
  | .negotiateAlgorithms h0 common, h => execNegotiateAlgorithms_keeps h0 common s hk t h
  | .getDigests h0, h => execGetDigests_keeps h0 s hk t h
  | .getCertificate h0 slot offset length, h => execGetCertificate_keeps h0 slot offset length s hk t h
  | .challenge h0 slot nonce, h => execChallenge_keeps h0 slot nonce s hk t h
  | .getMeasurements h0 index nonce, h => execGetMeasurements_keeps h0 index nonce s hk t h
  | .keyExchange h0 slot exchange, h => execKeyExchange_keeps h0 slot exchange s hk t h
  | .finish h0 session, h => execFinish_keeps h0 session s hk t h
  | .heartbeat h0 session, h => execHeartbeat_keeps h0 session s hk t h
  | .keyUpdate h0 session, h => execKeyUpdate_keeps h0 session s hk t h
  | .endSession h0 session, h => execEndSession_keeps h0 session s hk t h
  | .keyProg h0 session t0 key, h => execKeyProg_keeps h0 session t0 key s hk t h
  | .kSetGo h0 session t0, h => execKSetGo_keeps h0 session t0 s hk t h
  | .kSetStop h0 session t0, h => execKSetStop_keeps h0 session t0 s hk t h
  | .perstAssert h0, h => execPerstAssert_keeps h0 s hk t h
  | .perstRelease h0, h => execPerstRelease_keeps h0 s hk t h
  | .linkTrained l flit speed width, h => execLinkTrained_keeps l flit speed width s hk t h
  | .linkDown l, h => execLinkDown_keeps l s hk t h
  | .maxSpeedWrite r0 l speed, h => execMaxSpeedWrite_keeps r0 l speed s hk t h
  | .retrain r0 l, h => execRetrain_keeps r0 l s hk t h
  | .hostTlpReceived l t0, h => execHostTlpReceived_keeps l t0 s hk t h
  | .configRequest l fn reg write, h => execConfigRequest_keeps l fn reg write s hk t h
  | .busMasterClear l c, h => execBusMasterClear_keeps l c s hk t h
  | .functionLevelReset l fn, h => execFunctionLevelReset_keeps l fn s hk t h
  | .flrComplete l fn, h => execFlrComplete_keeps l fn s hk t h
  | .barResize l bar2 log2, h => execBarResize_keeps l bar2 log2 s hk t h
  | .completionReceived l tag c, h => execCompletionReceived_keeps l tag c s hk t h
  | .completionTimeout l tag, h => execCompletionTimeout_keeps l tag s hk t h
  | .tagQuarantineEnd h0 tag, h => execTagQuarantineEnd_keeps h0 tag s hk t h
  | .createSlice r0 n, h => execCreateSlice_keeps r0 n s hk t h
  | .stopSlice r0 n, h => execStopSlice_keeps r0 n s hk t h
  | .startSlice r0 n, h => execStartSlice_keeps r0 n s hk t h
  | .removeSlice r0 n, h => execRemoveSlice_keeps r0 n s hk t h
  | .autoRestart n, h => execAutoRestart_keeps n s hk t h
  | .grantWrite r0 n g value, h => execGrantWrite_keeps r0 n g value s hk t h
  | .peerShareWrite r0 l value, h => execPeerShareWrite_keeps r0 l value s hk t h
  | .sliceHello n, h => execSliceHello_keeps n s hk t h
  | .postDoorbell n queue index, h => execPostDoorbell_keeps n queue index s hk t h
  | .releaseDoorbell n queue index, h => execReleaseDoorbell_keeps n queue index s hk t h
  | .invalidateDoorbell n queue index, h => execInvalidateDoorbell_keeps n queue index s hk t h
  | .queueEnable r0 g value, h => execQueueEnable_keeps r0 g value s hk t h
  | .queueDisable r0 g value, h => execQueueDisable_keeps r0 g value s hk t h
  | .entryFetched g, h => execEntryFetched_keeps g s hk t h
  | .entryTake h0, h => execEntryTake_keeps h0 s hk t h
  | .completionWrite g, h => execCompletionWrite_keeps g s hk t h
  | .irqTimer g, h => execIrqTimer_keeps g s hk t h
  | .cqStallLimit g, h => execCqStallLimit_keeps g s hk t h
  | .rxDelivery l, h => execRxDelivery_keeps l s hk t h
  | .rxStallLimit l, h => execRxStallLimit_keeps l s hk t h
  | .channelEnable r0 c, h => execChannelEnable_keeps r0 c s hk t h
  | .channelDisable r0 c, h => execChannelDisable_keeps r0 c s hk t h
  | .abort r0 c, h => execAbort_keeps r0 c s hk t h
  | .append r0 c, h => execAppend_keeps r0 c s hk t h
  | .descriptorFetched c, h => execDescriptorFetched_keeps c s hk t h
  | .readEngineTurn h0 tags, h => execReadEngineTurn_keeps h0 tags s hk t h
  | .descriptorDone c, h => execDescriptorDone_keeps c s hk t h
  | .requestLineRaise r0 line, h => execRequestLineRaise_keeps r0 line s hk t h
  | .pacedBurst c, h => execPacedBurst_keeps c s hk t h
  | .stageSharesWrite r0 h0 value, h => execStageSharesWrite_keeps r0 h0 value s hk t h
  | .threadInstruction t0, h => execThreadInstruction_keeps t0 s hk t h
  | .waitev t0, h => execWaitev_keeps t0 s hk t h
  | .waitevTimeout t0, h => execWaitevTimeout_keeps t0 s hk t h
  | .eventInputSet t0 input, h => execEventInputSet_keeps t0 input s hk t h
  | .chw t0, h => execChw_keeps t0 s hk t h
  | .chcommit t0, h => execChcommit_keeps t0 s hk t h
  | .chstat t0, h => execChstat_keeps t0 s hk t h
  | .tktget t0, h => execTktget_keeps t0 s hk t h
  | .tktset t0, h => execTktset_keeps t0 s hk t h
  | .crc32c t0, h => execCrc32c_keeps t0 s hk t h
  | .frmemit t0, h => execFrmemit_keeps t0 s hk t h
  | .moverStart t0, h => execMoverStart_keeps t0 s hk t h
  | .channelOperationDone t0 c, h => execChannelOperationDone_keeps t0 c s hk t h
  | .stallack t0, h => execStallack_keeps t0 s hk t h
  | .threadStart r0 t0 pc, h => execThreadStart_keeps r0 t0 pc s hk t h
  | .threadStop r0 t0, h => execThreadStop_keeps r0 t0 s hk t h
  | .threadEvset r0 t0 events, h => execThreadEvset_keeps r0 t0 events s hk t h
  | .debugHalt t0, h => execDebugHalt_keeps t0 s hk t h
  | .debugResume t0, h => execDebugResume_keeps t0 s hk t h
  | .coreReset r0 k, h => execCoreReset_keeps r0 k s hk t h
  | .coreResetComplete k, h => execCoreResetComplete_keeps k s hk t h
  | .stallRaised k, h => execStallRaised_keeps k s hk t h
  | .stallReset k, h => execStallReset_keeps k s hk t h
  | .deliveryPublish d, h => execDeliveryPublish_keeps d s hk t h
  | .dqConsWrite r0 n q cons, h => execDqConsWrite_keeps r0 n q cons s hk t h
  | .dqCfgWrite r0 n q value, h => execDqCfgWrite_keeps r0 n q value s hk t h
  | .slotWrite r0 slot word, h => execSlotWrite_keeps r0 slot word s hk t h
  | .slotTake r0 slot, h => execSlotTake_keeps r0 slot s hk t h
  | .callboardHello h0, h => execCallboardHello_keeps h0 s hk t h
  | .callboardStart h0, h => execCallboardStart_keeps h0 s hk t h
  | .callboardTransferTimeout h0, h => execCallboardTransferTimeout_keeps h0 s hk t h
  | .heartbeatSend u, h => execHeartbeatSend_keeps u s hk t h
  | .heartbeatReceived u path, h => execHeartbeatReceived_keeps u path s hk t h
  | .pathSilent u path, h => execPathSilent_keeps u path s hk t h
  | .kick r0, h => execKick_keeps r0 s hk t h
  | .kickLimitExpiry u, h => execKickLimitExpiry_keeps u s hk t h
  | .takeover r0 expect, h => execTakeover_keeps r0 expect s hk t h
  | .rehearsal r0 expect, h => execRehearsal_keeps r0 expect s hk t h
  | .tie r0 expect, h => execTie_keeps r0 expect s hk t h
  | .gapLimit pair, h => execGapLimit_keeps pair s hk t h
  | .fenceVerdict u lasting, h => execFenceVerdict_keeps u lasting s hk t h
  | .probe r0, h => execProbe_keeps r0 s hk t h
  | .rehearsalTimer, h => execRehearsalTimer_keeps s hk t h
  | .yield r0, h => execYield_keeps r0 s hk t h
  | .yieldTimeout, h => execYieldTimeout_keeps s hk t h
  | .rehearsalDone r0, h => execRehearsalDone_keeps r0 s hk t h
  | .rehearsalFailed, h => execRehearsalFailed_keeps s hk t h
  | .cpcFrameTransmit, h => execCpcFrameTransmit_keeps s hk t h
  | .cpcFrameReceive f, h => execCpcFrameReceive_keeps f s hk t h
  | .vaultRequestPost unit prod, h => execVaultRequestPost_keeps unit prod s hk t h
  | .barodHelloTimer p0, h => execBarodHelloTimer_keeps p0 s hk t h
  | .barodHello p0 frame, h => execBarodHello_keeps p0 frame s hk t h
  | .keepaliveTimer p0, h => execKeepaliveTimer_keeps p0 s hk t h
  | .keepalive p0 frame, h => execKeepalive_keeps p0 frame s hk t h
  | .linkSilent p0, h => execLinkSilent_keeps p0 s hk t h
  | .claimWaitExpiry, h => execClaimWaitExpiry_keeps s hk t h
  | .barodClaim p0 frame, h => execBarodClaim_keeps p0 frame s hk t h
  | .claimReply p0 frame, h => execClaimReply_keeps p0 frame s hk t h
  | .claimReplyLimit, h => execClaimReplyLimit_keeps s hk t h
  | .barodScene p0 frame, h => execBarodScene_keeps p0 frame s hk t h
  | .sceneAck p0 frame, h => execSceneAck_keeps p0 frame s hk t h
  | .cbword p0 frame, h => execCbword_keeps p0 frame s hk t h
  | .report p0 frame, h => execReport_keeps p0 frame s hk t h
  | .sendScene r0 value, h => execSendScene_keeps r0 value s hk t h
  | .sendSceneAck r0 value, h => execSendSceneAck_keeps r0 value s hk t h
  | .sendReport r0 value, h => execSendReport_keeps r0 value s hk t h
  | .sceneArmDeadline, h => execSceneArmDeadline_keeps s hk t h
  | .timeOffsetCurtain, h => execTimeOffsetCurtain_keeps s hk t h
  | .sleepCommand r0 d, h => execSleepCommand_keeps r0 d s hk t h
  | .wakeCommand r0 d, h => execWakeCommand_keeps r0 d s hk t h
  | .domainEnableWrite r0 d value, h => execDomainEnableWrite_keeps r0 d value s hk t h
  | .drainComplete d, h => execDrainComplete_keeps d s hk t h
  | .drainTimeout d, h => execDrainTimeout_keeps d s hk t h
  | .idleTimerExpiry d, h => execIdleTimerExpiry_keeps d s hk t h
  | .wakeTrigger d, h => execWakeTrigger_keeps d s hk t h
  | .wakeComplete d, h => execWakeComplete_keeps d s hk t h
  | .ghostClkLost, h => execGhostClkLost_keeps s hk t h
  | .pllLock p0, h => execPllLock_keeps p0 s hk t h
  | .pllLockLost p0, h => execPllLockLost_keeps p0 s hk t h
  | .errorReport e, h => execErrorReport_keeps e s hk t h
  | .selfTestVerdict kind index pass spareLeft detail, h => execSelfTestVerdict_keeps kind index pass spareLeft detail s hk t h
  | .scopeHoldWrite r0 scope ix hold, h => execScopeHoldWrite_keeps r0 scope ix hold s hk t h
  | .exitScope r0 scope ix, h => execExitScope_keeps r0 scope ix s hk t h
  | .deviceCurtainWrite r0, h => execDeviceCurtainWrite_keeps r0 s hk t h
  | .fltRecordPop r0, h => execFltRecordPop_keeps r0 s hk t h
  | .supplyTrip rail, h => execSupplyTrip_keeps rail s hk t h
  | .thermalTrip sensor reading, h => execThermalTrip_keeps sensor reading s hk t h
  | .networkLinkUp p0, h => execNetworkLinkUp_keeps p0 s hk t h
  | .networkLinkDown p0, h => execNetworkLinkDown_keeps p0 s hk t h

/-- Whether a command waits or a tick passes, a step lowers no minimum image version. -/
theorem step_minVersion_le {s t : State} (h : step s = .next t) : s.vlt.store.minVersion.toNat ≤ t.vlt.store.minVersion.toNat := by
  cases hq : s.pending with
  | nil =>
    have hs : step s = .next s.tick := by simp only [step, hq]
    obtain rfl : s.tick = t := Host.Outcome.next.inj (hs.symm.trans h)
    exact (State.tick_keeps (p := False) s (Keeps.refl False.elim False.elim)).minimum
  | cons c rest =>
    have hs : step s = exec c { s with pending := rest } := by simp only [step, hq]
    have hk : Keeps False { s with pending := rest } { s with pending := rest } := Keeps.refl False.elim False.elim
    exact (exec_keeps hk c (hs.symm.trans h)).minimum

/-- Settles O7: `minVersion` rises along `Keeps`, and every step keeps it. -/
theorem minimumVersionNeverFalls : Obligations.MinimumVersionNeverFalls := fun _ _ => step_minVersion_le

end Sys2Proof.Machine
end

section
/-! PROOF. The steps of LOADING (R41 to R44, R51, R52): what each step of it leaves, and the slot it chooses. -/

namespace Sys2Proof.Machine

theorem State.atStep_state {s : State} {k : LoadStep} (h : s.atStep k = true) : s.dev.state = .LOADING := by
  simp only [State.atStep, Bool.and_eq_true, beq_iff_eq] at h
  exact h.1

/-! ## Step 3: the self-test -/

theorem State.selfTestDone_failed {s : State} {pass : Bool} {copies : List (Fin 2 × StoreRecord)} (h : s.atStep .selfTest = true)
    (hf : pass = false ∨ criticalLost copies = true) (bad : List (Nat × Nat)) :
    s.selfTestDone pass bad copies = s.deviceCurtain .SELFTEST_FAIL 0 none := by
  have hc : (!pass || criticalLost copies) = true := by rcases hf with rfl | hf <;> simp [*]
  simp only [State.selfTestDone, h, hc, Bool.not_true, Bool.false_eq_true, if_false, if_true]

theorem State.selfTestDone_passed {s : State} {copies : List (Fin 2 × StoreRecord)} (h : s.atStep .selfTest = true)
    (hc : criticalLost copies = false) (bad : List (Nat × Nat)) :
    ∃ u, s.selfTestDone true bad copies = (if u.dev.state == .LOADING then u.setStep .headers else u) ∧
      u = bad.foldl (fun s x => s.badLane x.1 x.2) (s.mergeMirrors copies).reapplyRetired := by
  refine ⟨_, ?_, rfl⟩
  simp only [State.selfTestDone, h, hc, Bool.not_true, Bool.or_self, Bool.false_eq_true, if_false]

/-- With no counter record in either mirror there is nothing to merge. -/
theorem State.mergeMirrors_empty {s : State} (ha : s.vlt.store.counters = []) (hb : s.vlt.store.countersB = []) (bad : List (Fin 2 × StoreRecord)) :
    s.mergeMirrors bad = s := by
  have hs : ({ s.vlt.store with counters := [], countersB := [] } : Store) = s.vlt.store := by
    cases hst : s.vlt.store
    simp only [hst] at ha hb
    rw [ha, hb]
  unfold State.mergeMirrors
  simp only [ha, hb, List.append_nil, List.map_nil, List.eraseDups_nil, hs]

theorem State.reapplyRetired_empty {s : State} (h : s.vlt.store.retired = []) : s.reapplyRetired = s := by
  unfold State.reapplyRetired
  rw [h, List.foldl_nil]

/-! ## Step 4: headers, and the slot of R42 -/

/-- A slot passes: its header and signature block check, and it is not marked as failed. -/
def State.slotPasses (s : State) (b readError : Bool) : Bool :=
  decide (s.slotReason b readError = 0) && !(if b then s.dev.failedB else s.dev.failedA)

/-- The device fields once both headers are read, with the boot nonce drawn. -/
def State.headersDev (s : State) (ea eb : Bool) (nonce : BitVec 64) : Dev :=
  { s.dev with reasonA := BitVec.ofNat 8 (s.slotReason false ea), reasonB := BitVec.ofNat 8 (s.slotReason true eb),
               passA := s.slotPasses false ea, passB := s.slotPasses true eb, nonce := nonce, step := .early }

/-- The slot of R42, from the verdicts on both: the higher version of two that pass, slot A when the versions are equal. -/
def State.betterSlot (s : State) (va vb : Bool) : Bool :=
  if va && vb then decide (imgVersion (s.slotHeader false) < imgVersion (s.slotHeader true)) else vb

theorem State.betterSlot_onlyA (s : State) : s.betterSlot true false = false := if_neg Bool.false_ne_true
theorem State.betterSlot_onlyB (s : State) : s.betterSlot false true = true := if_neg Bool.false_ne_true
theorem State.betterSlot_both (s : State) :
    s.betterSlot true true = decide (imgVersion (s.slotHeader false) < imgVersion (s.slotHeader true)) := if_pos rfl

theorem State.chooseSlot_eq (s : State) :
    s.chooseSlot = if s.dev.passA || s.dev.passB then some (s.betterSlot s.dev.passA s.dev.passB) else none := by
  unfold State.chooseSlot State.betterSlot
  cases s.dev.passA <;> cases s.dev.passB <;> simp

/-- Reading the headers draws the nonce, which changes nothing else but the vaults' working state, and takes the slot chosen. -/
theorem State.headersRead_eq {s : State} (h : s.atStep .headers = true) (ea eb : Bool) :
    ∃ (u : State) (v : Vlt) (d : Nat) (nonce : BitVec 64), s.draws ≤ d ∧ u = { s with vlt := v, draws := d, dev := s.headersDev ea eb nonce } ∧
      s.headersRead ea eb = if s.slotPasses false ea || s.slotPasses true eb then
          { u with dev := { u.dev with slotB := s.betterSlot (s.slotPasses false ea) (s.slotPasses true eb) } } else u.noImage := by
  obtain ⟨v, d, hv, -, hd⟩ := s.drbg_frame 8
  refine ⟨_, v, d, BitVec.ofNat 64 (leNat (s.drbg 8).1), hd, rfl, ?_⟩
  generalize hu : ({ s with vlt := v, draws := d, dev := s.headersDev ea eb (BitVec.ofNat 64 (leNat (s.drbg 8).1)) } : State) = u
  have hread : s.headersRead ea eb = match u.chooseSlot with
      | some b => { u with dev := { u.dev with slotB := b } }
      | none => u.noImage := by
    subst hu
    simp only [State.headersRead, h, hv, Bool.not_true, Bool.false_eq_true, if_false] <;> rfl
  have hbetter : u.betterSlot u.dev.passA u.dev.passB = s.betterSlot (s.slotPasses false ea) (s.slotPasses true eb) := by subst hu; rfl
  have hpass : (u.dev.passA || u.dev.passB) = (s.slotPasses false ea || s.slotPasses true eb) := by subst hu; rfl
  rw [hread, State.chooseSlot_eq, hbetter, hpass]
  cases s.slotPasses false ea || s.slotPasses true eb <;> rfl

/-- With a slot that passes, the step ahead is that of the early identity of the better one. -/
theorem State.headersRead_chosen {s : State} (h : s.atStep .headers = true) {ea eb : Bool}
    (hv : (s.slotPasses false ea || s.slotPasses true eb) = true) :
    ∃ t nonce, s.headersRead ea eb = t ∧
      t.dev = { s.headersDev ea eb nonce with slotB := s.betterSlot (s.slotPasses false ea) (s.slotPasses true eb) } ∧
      s.draws ≤ t.draws ∧ t.regs = s.regs ∧ t.ctrs = s.ctrs ∧ t.flashA = s.flashA ∧ t.flashB = s.flashB ∧ t.mem = s.mem := by
  obtain ⟨u, v, d, nonce, hd, rfl, hread⟩ := s.headersRead_eq h ea eb
  rw [hv, if_pos rfl] at hread
  exact ⟨_, nonce, hread, rfl, hd, rfl, rfl, rfl, rfl, rfl⟩

/-- With no slot that passes the device enters recovery, the reason codes of both slots kept. -/
theorem State.headersRead_none {s : State} (h : s.atStep .headers = true) {ea eb : Bool} (ha : s.slotPasses false ea = false)
    (hb : s.slotPasses true eb = false) :
    (s.headersRead ea eb).dev.state = .CURTAIN ∧ (s.headersRead ea eb).dev.cause = .NO_IMAGE ∧
      (s.headersRead ea eb).dev.reasonA = BitVec.ofNat 8 (s.slotReason false ea) ∧
      (s.headersRead ea eb).dev.reasonB = BitVec.ofNat 8 (s.slotReason true eb) := by
  obtain ⟨u, v, d, nonce, -, hu, hread⟩ := s.headersRead_eq h ea eb
  have hstate : u.dev.state = .LOADING := by rw [hu]; exact State.atStep_state (s := s) h
  have hnone : s.headersRead ea eb = u.noImage := by rw [hread, ha, hb]; rfl
  rw [hnone, u.noImage_dev hstate, hu]
  exact ⟨rfl, rfl, rfl, rfl⟩

/-! ## Step 5: the early identity -/

/-- Applying the early identity changes no other device field and no pin: what it writes are registers, links and fault records. -/
theorem State.applyEarly_dev_pins (s : State) (b : List Byte) :
    (s.applyEarly b).dev = { s.dev with earlyUp := true, detect := false, step := .body } ∧ (s.applyEarly b).pins = s.pins := by
  unfold State.applyEarly
  dsimp only
  refine foldl_inv (fun t : State => t.dev = { s.dev with earlyUp := true, detect := false, step := .body } ∧ t.pins = s.pins) _ _
    ⟨rfl, rfl⟩ (fun t i ht => ?_)
  have hlinks : ∀ u : State, ([0, 1, 2, 3].foldl (fun s k =>
      (s.setFld Fld.HEP_LINK_CTRL_MAX_SPEED (4 * i + k) (bits (t.portEntry i) 3 3)).freshSizes (4 * i + k)) u).dev = u.dev ∧
      ([0, 1, 2, 3].foldl (fun s k =>
      (s.setFld Fld.HEP_LINK_CTRL_MAX_SPEED (4 * i + k) (bits (t.portEntry i) 3 3)).freshSizes (4 * i + k)) u).pins = u.pins :=
    fun u => foldl_inv (fun w : State => w.dev = u.dev ∧ w.pins = u.pins) _ _ ⟨rfl, rfl⟩ (fun w k hw => by simpa using hw)
  obtain ⟨hdev, hpins⟩ := ht
  split <;> split <;> simp only [State.containedFault_dev, State.containedFault_pins, State.hostLinkDown_dev, State.hostLinkDown_pins,
    (hlinks _).1, (hlinks _).2, State.setReg_dev, State.setReg_pins, hdev, hpins, and_self]

theorem State.earlyVerified_readError {s : State} (h : s.atStep .early = true) : s.earlyVerified true = s.slotFails 0x0D := by
  simp only [State.earlyVerified, h, Bool.not_true, Bool.false_eq_true, if_false, if_true]

theorem State.earlyVerified_none {s : State} (h : s.atStep .early = true)
    (hx : earlySection (s.slotHeader s.dev.slotB) (s.slotBody s.dev.slotB) = none) : s.earlyVerified false = s.slotFails 0x0B := by
  simp only [State.earlyVerified, h, hx, Bool.not_true, Bool.false_eq_true, if_false]

theorem State.earlyVerified_some {s : State} (h : s.atStep .early = true) (hu : s.dev.earlyUp = false) {x : Section}
    (hx : earlySection (s.slotHeader s.dev.slotB) (s.slotBody s.dev.slotB) = some x) : s.earlyVerified false = s.applyEarly x.body := by
  simp only [State.earlyVerified, h, hu, hx, Bool.not_true, Bool.false_eq_true, if_false]

/-! ## Step 6: the body -/

theorem State.bodyVerified_readError {s : State} (h : s.atStep .body = true) : s.bodyVerified true = s.slotFails 0x0D := by
  simp only [State.bodyVerified, h, Bool.not_true, Bool.false_eq_true, if_false, if_true]

theorem State.bodyVerified_none {s : State} (h : s.atStep .body = true)
    (hx : imageSections (s.slotHeader s.dev.slotB) (s.slotBody s.dev.slotB) = none) : s.bodyVerified false = s.slotFails 0x0C := by
  simp only [State.bodyVerified, h, hx, Bool.not_true, Bool.false_eq_true, if_false]

theorem State.bodyVerified_some {s u : State} (h : s.atStep .body = true) {xs : List Section}
    (hx : imageSections (s.slotHeader s.dev.slotB) (s.slotBody s.dev.slotB) = some xs)
    (hu : s.applyImage (s.slotHeader s.dev.slotB) xs = u) (hl : u.dev.state = .LOADING) :
    s.bodyVerified false = u.enterStage (s.slotHeader s.dev.slotB) := by
  simp only [State.bodyVerified, h, hx, hu, hl, Bool.not_true, Bool.false_eq_true, if_false, beq_self_eq_true, if_true]

/-- STAGE, where the store is not zeroised. -/
theorem State.enterStage_unzeroised {u : State} (hz : u.vlt.store.zeroised = false) (header : List Byte) :
    (u.enterStage header).dev = { u.dev with state := .STAGE, step := .idle, imageVersion := BitVec.ofNat 32 (imgVersion header) } ∧
      (u.enterStage header).vlt.store.minVersion = BitVec.ofNat 32 (max u.vlt.store.minVersion.toNat (imgFloor header)) := by
  unfold State.enterStage
  dsimp only
  split
  · rename_i h
    exact absurd (hz.symm.trans h) Bool.false_ne_true
  · exact ⟨rfl, rfl⟩

/-- Settles O10, step by step: the failing and the passing branch of each. -/
theorem loadingSteps : Obligations.LoadingSteps := by
  unfold Obligations.LoadingSteps
  refine ⟨?selfTestFails, ?selfTestEmpty, ?selfTestPasses, ?headers, ?early, ?earlyError, ?bodyError, ?body⟩
  case selfTestFails =>
    intro s pass bad copies h hf
    refine ⟨_, congrArg Host.Outcome.next (State.selfTestDone_failed h hf _), ?_⟩
    rw [s.deviceCurtain_dev _ _ _ (.inl (State.atStep_state h))]
    exact ⟨rfl, rfl, rfl⟩
  case selfTestEmpty =>
    intro s h hr ha hb
    obtain ⟨u, ht, hu⟩ := State.selfTestDone_passed h (copies := []) rfl []
    rw [State.mergeMirrors_empty ha hb, State.reapplyRetired_empty hr, List.foldl_nil] at hu
    subst hu
    rw [State.atStep_state h] at ht
    exact congrArg Host.Outcome.next ht
  case selfTestPasses =>
    intro s bad copies h hc
    obtain ⟨u, ht, -⟩ := State.selfTestDone_passed h hc (bad.map (fun x => (x.1.val, x.2.val)))
    refine ⟨_, congrArg Host.Outcome.next ht, fun hl => ?_⟩
    by_cases hu : u.dev.state = .LOADING
    · rw [hu]; rfl
    · rw [if_neg (by simpa using hu)] at hl
      exact absurd hl hu
  case headers =>
    intro s ea eb va vb h hva hvb
    obtain rfl : va = s.slotPasses false ea := hva
    obtain rfl : vb = s.slotPasses true eb := hvb
    refine ⟨_, rfl, ?_⟩
    cases hv : (s.slotPasses false ea || s.slotPasses true eb) with
    | true =>
      obtain ⟨t, nonce, hread, hdev, hd, hregs, hctrs, hflashA, hflashB, hmem⟩ := State.headersRead_chosen h hv
      rw [hread, hdev, if_pos rfl]
      exact ⟨rfl, rfl, State.atStep_state h, rfl, hd, hregs, hctrs, hflashA, hflashB, hmem, rfl⟩
    | false =>
      obtain ⟨ha, hb⟩ := Bool.or_eq_false_iff.mp hv
      obtain ⟨hstate, hcause, hra, hrb⟩ := State.headersRead_none h ha hb
      rw [if_neg Bool.false_ne_true]
      exact ⟨hra, hrb, hstate, hcause⟩
  case early =>
    intro s h hu
    cases hx : earlySection (s.slotHeader s.dev.slotB) (s.slotBody s.dev.slotB) with
    | none => exact ⟨_, congrArg Host.Outcome.next (State.earlyVerified_none h hx), rfl⟩
    | some x => exact ⟨_, congrArg Host.Outcome.next (State.earlyVerified_some h hu hx), s.applyEarly_dev_pins _⟩
  case earlyError => exact fun s h => congrArg Host.Outcome.next (State.earlyVerified_readError h)
  case bodyError => exact fun s h => congrArg Host.Outcome.next (State.bodyVerified_readError h)
  case body =>
    intro s h
    cases hx : imageSections (s.slotHeader s.dev.slotB) (s.slotBody s.dev.slotB) with
    | none => exact ⟨_, congrArg Host.Outcome.next (State.bodyVerified_none h hx), rfl⟩
    | some xs =>
      refine ⟨_, rfl, fun hl hz => ?_⟩
      obtain ⟨hdev, hmin⟩ := State.enterStage_unzeroised hz (s.slotHeader s.dev.slotB)
      rw [State.bodyVerified_some h hx rfl hl, hdev]
      exact ⟨rfl, rfl, rfl, hmin⟩

/-- Settles O54: with a slot that passes, the step takes the better one. -/
theorem slotChoice : Obligations.SlotChoice := by
  unfold Obligations.SlotChoice
  intro s ea eb va vb h hva hvb hv
  obtain rfl : va = s.slotPasses false ea := hva
  obtain rfl : vb = s.slotPasses true eb := hvb
  obtain ⟨t, nonce, hread, hdev, -⟩ := State.headersRead_chosen h (Bool.or_eq_true_iff.mpr hv)
  have hslot : t.dev.slotB = s.betterSlot (s.slotPasses false ea) (s.slotPasses true eb) := by rw [hdev]
  refine ⟨t, congrArg Host.Outcome.next hread, by rw [hdev]; exact State.atStep_state h, by rw [hdev]; rfl, ?_, ?_, ?_, ?_⟩ <;>
    intro ha hb <;> rw [hslot, ha, hb]
  · exact s.betterSlot_onlyA
  · exact s.betterSlot_onlyB
  · exact fun hle => s.betterSlot_both.trans (decide_eq_false (Nat.not_lt.mpr hle))
  · exact fun hlt => s.betterSlot_both.trans (decide_eq_true hlt)

end Sys2Proof.Machine
end

section
/-! PROOF. The reset inputs (R49 to R51): what power and the two reset pins do in each device state. -/

namespace Sys2Proof.Machine

/-! ## PORST_N -/

theorem State.porstAssert_eq {s u : State} (hu : u = s.tearCheckpoints) : s.porstAssert = { State.reset with
    pending := u.pending, out := u.out, draws := u.draws, pins := { s.pins with porst := true }, flashA := u.flashA, flashB := u.flashB,
    vlt := { store := u.vlt.store, erasing := u.vlt.erasing } } := by
  subst hu
  rfl

/-- PORST_N released with the lid closed. -/
theorem State.porstRelease_closed {s : State} (h : s.dev.state = .OFF) (ht : s.pins.tamper = false) :
    s.porstRelease = ({ s with
      pins := { s.pins with porst := false, internalWarm := false }, clk := {},
      dev := { state := .GHOST, settling := !s.pins.testEn, testHeld := s.pins.testEn } } : State).setFld Fld.GLT_SUPPLY_STATUS_IN_RANGE 0 0xFFF := by
  have hoff : (s.dev.state != .OFF) = false := by rw [h]; rfl
  simp only [State.porstRelease, hoff, State.setFld_pins, ht, Bool.false_eq_true, if_false]

theorem State.ghostStable_starts {s : State} (h : s.dev.state = .GHOST) (hs : s.dev.settling = true) (hw : s.pins.warm = false)
    (hi : s.pins.internalWarm = false) : s.ghostStable = s.startLoading .PORST := by
  simp only [State.ghostStable, h, hs, hw, hi, beq_self_eq_true, Bool.not_false, Bool.and_self, if_true]

/-! ## WARM_N -/

/-- Registers and counters do not depend on the pins. -/
theorem State.reg_withPins (u : State) (x : Pins) (r : RegName) (i : Nat) : State.reg { u with pins := x } r i = u.reg r i := rfl
theorem State.ctr_withPins (u : State) (x : Pins) (r : RegName) (i : Nat) : State.ctr { u with pins := x } r i = u.ctr r i := rfl

theorem State.warmPin_eq {s : State} (h : s.dev.state ≠ .OFF) :
    s.warmPin = { s.warmReset with pins := { s.pins with warm := true } } := by
  simp only [State.warmPin, State.warmAssert, beq_false_of_ne h, Bool.false_eq_true, if_false]

theorem State.warmRelease_starts {s : State} (h : s.dev.state = .GHOST) (hw : s.pins.warm = true) (ht : s.dev.testHeld = false)
    (hc : s.coolEnough = true) :
    s.warmRelease = (({ s with pins := { s.pins with warm := false, internalWarm := false } } : State).setFld
      Fld.GLT_SUPPLY_STATUS_IN_RANGE 0 0xFFF).startLoading .WARM := by
  have hcool : State.coolEnough { s with pins := { s.pins with warm := false } } = true := hc
  simp [State.warmRelease, h, hw, ht, hcool]

/-- What the key of a register's element names again. -/
theorem RegName.ofNat_key (r : RegName) (i : Nat) : RegName.ofNat (r.key i / 16777216) = r := by
  have hi : i % 16777216 < 16777216 := Nat.mod_lt i (by decide)
  have hreg : r.key i / 16777216 = r.ctorIdx := by unfold RegName.key; omega
  rw [hreg, RegName.ofNat_ctorIdx]

theorem keptRegs_dropped {d : Nat → Word} {r : RegName} (h : keptWarm r = false) (m : SMap Word) (i : Nat) :
    SMap.get d (keptRegs m) (r.key i) = d (r.key i) :=
  SMap.get_filter_out (fun _ => (congrArg keptWarm (r.ofNat_key i)).trans h)

theorem keptRegs_kept {d : Nat → Word} {r : RegName} (h : keptWarm r = true) {m : SMap Word} (hm : SMap.wf d m = true) (i : Nat) :
    SMap.get d (keptRegs m) (r.key i) = SMap.get d m (r.key i) :=
  SMap.get_filter_in hm (fun _ => (congrArg keptWarm (r.ofNat_key i)).trans h)

/-- What a warm reset leaves before it sets its two status fields, where no checkpoint is torn. -/
def State.warmed (s : State) : State :=
  { pending := s.pending, out := s.out, draws := s.draws, clk := { s.clk with step := none }, pins := s.pins,
    regs := keptRegs s.regs, ctrs := keptRegs s.ctrs, flashA := s.flashA, flashB := s.flashB,
    dev := { state := .GHOST, cause := s.dev.cause, failedA := s.dev.failedA, failedB := s.dev.failedB, testHeld := s.dev.testHeld },
    flt := { seq := s.flt.seq, fifo := s.flt.fifo, history := s.flt.history },
    acc := { bridge := s.acc.bridge.filter (fun x => decide (x.1 < 2)) },
    vlt := { store := s.vlt.store, erasing := s.vlt.erasing }, hep := { released := s.hep.released } }

theorem State.warmReset_eq {s : State} (hc : ∀ x ∈ s.cph.ctxs, x.2.writing = none) : s.warmReset =
    (s.warmed.setReg .GLT_CLOCK_STATUS 0 (BitVec.ofNat 64 (bits (s.reg .GLT_CLOCK_STATUS 0).toNat 24 1 * 2 ^ 24))).setFld
      Fld.FLT_STATUS_DEVICE_CAUSE 0 0 := by
  unfold State.warmReset
  rw [s.tearCheckpoints_none hc]
  rfl

/-- What a warm reset keeps of the clock, the flash and the persistent store, and what it empties. -/
theorem State.warmReset_fields {s : State} (hc : ∀ x ∈ s.cph.ctxs, x.2.writing = none) :
    s.warmReset.dev.state = .GHOST ∧ s.warmReset.clk = { s.clk with step := none } ∧ s.warmReset.vlt.store = s.vlt.store ∧
    s.warmReset.flashA = s.flashA ∧ s.warmReset.flashB = s.flashB ∧ s.warmReset.mem = {} ∧ s.warmReset.tbl = {} ∧ s.warmReset.swc = {} ∧
    s.warmReset.prt = {} ∧ s.warmReset.pwr = {} ∧ s.warmReset.cph = {} ∧ s.warmReset.slc = {} ∧ s.warmReset.qrg = {} ∧
    s.warmReset.trp = {} ∧ s.warmReset.rdn = {} := by
  rw [State.warmReset_eq hc]
  simp [State.warmed]

/-- The two status fields are of registers the ghost light keeps, so every other register is at its reset value. -/
theorem State.warmReset_reg {s : State} (hc : ∀ x ∈ s.cph.ctxs, x.2.writing = none) (hs : s.canonical = true) {r : RegName}
    (hr : keptWarm r = false) (i : Nat) : s.warmReset.reg r i = r.resetAt (i % 16777216) := by
  have hne : ∀ q : RegName, keptWarm q = true → r ≠ q := by
    rintro q hq rfl
    exact Bool.false_ne_true (hr.symm.trans hq)
  have hwf : SMap.wf regDefault s.warmed.regs = true := SMap.wf_filter (State.canonical_regs hs)
  rw [State.warmReset_eq hc, State.reg_setFld_ne (State.wf_setReg hwf _ _ _) _ (.inl (hne _ (by decide))),
    State.reg_setReg_ne hwf _ (.inl (hne _ (by decide)))]
  exact (keptRegs_dropped hr s.regs i).trans (regDefault_key r i)

theorem State.warmReset_ctr {s : State} (hc : ∀ x ∈ s.cph.ctxs, x.2.writing = none) (r : RegName) (i : Nat) :
    s.warmReset.ctr r i = SMap.get (fun _ => 0) (keptRegs s.ctrs) (r.key i) := by
  rw [State.warmReset_eq hc, State.ctr, State.setFld_ctrs, State.setReg_ctrs, State.warmed]

theorem State.warmReset_ctr_dropped {s : State} (hc : ∀ x ∈ s.cph.ctxs, x.2.writing = none) {r : RegName} (hr : keptWarm r = false) (i : Nat) :
    s.warmReset.ctr r i = 0 := (State.warmReset_ctr hc r i).trans (keptRegs_dropped hr s.ctrs i)

theorem State.warmReset_ctr_kept {s : State} (hc : ∀ x ∈ s.cph.ctxs, x.2.writing = none) (hs : s.canonical = true) {r : RegName}
    (hr : keptWarm r = true) (i : Nat) : s.warmReset.ctr r i = s.ctr r i :=
  (State.warmReset_ctr hc r i).trans (keptRegs_kept hr (State.canonical_ctrs hs) i)

/-- Settles O9, pin by pin. -/
theorem resetInputs : Obligations.ResetInputs := by
  unfold Obligations.ResetInputs
  refine ⟨?porstRelease, ?porstAssert, State.tearCheckpoints_none, ?stable, ?warmAssert, ?warmRelease⟩
  case porstRelease =>
    intro s h ht
    refine ⟨_, congrArg Host.Outcome.next (State.porstRelease_closed h ht), ?_⟩
    simp only [State.setFld_dev, State.setFld_pins, State.setFld_clk, State.setFld_flashA, State.setFld_flashB, State.setFld_vlt,
      State.setFld_mem, State.setFld_ctrs, and_self]
  case porstAssert => exact fun s u hu => congrArg Host.Outcome.next (State.porstAssert_eq hu)
  case stable =>
    intro s h hs hw hi
    obtain ⟨v, d, p, o, he, hv⟩ := s.startLoading_frame .PORST
    exact ⟨_, congrArg Host.Outcome.next ((State.ghostStable_starts h hs hw hi).trans he), rfl, rfl, rfl, hv, rfl⟩
  case warmAssert =>
    intro s h hc
    obtain ⟨hstate, hclk, hstore, hflashA, hflashB, hmem, htbl, hswc, hprt, hpwr, hcph, hslc, hqrg, htrp, hrdn⟩ := State.warmReset_fields hc
    exact ⟨_, congrArg Host.Outcome.next (State.warmPin_eq h), hstate, rfl, hclk, hstore, hflashA, hflashB, hmem, htbl, hswc, hprt, hpwr,
      hcph, hslc, hqrg, htrp, hrdn, fun hs r i hr => (State.reg_withPins ..).trans (State.warmReset_reg hc hs hr i),
      fun r i hr => (State.ctr_withPins ..).trans (State.warmReset_ctr_dropped hc hr i),
      fun hs r i hr => (State.ctr_withPins ..).trans (State.warmReset_ctr_kept hc hs hr i)⟩
  case warmRelease =>
    intro s h hw ht hc
    have he := State.warmRelease_starts h hw ht hc
    revert he
    generalize hu : State.setFld { s with pins := { s.pins with warm := false, internalWarm := false } }
      Fld.GLT_SUPPLY_STATUS_IN_RANGE 0 0xFFF = u
    intro he
    obtain ⟨v, d, p, o, hl, hv⟩ := u.startLoading_frame .WARM
    refine ⟨_, congrArg Host.Outcome.next (he.trans hl), rfl, rfl, rfl, ?_⟩
    simp only [hv, ← hu, State.setFld_pins, State.setFld_ctrs, State.setFld_vlt, State.setFld_mem, and_self]

end Sys2Proof.Machine
end

section
/-! PROOF. Recovery and staging sessions (R45 to R47, R60): what each message of a session does. -/

namespace Sys2Proof.Machine

theorem State.announce_inRecovery {s : State} (h : s.inRecovery = true) :
    s.announce = s.sendMgmt 0x01 none (toLE 8 Config.serial.toNat ++ [0xB0#8] ++ toLE 4 s.vlt.store.minVersion.toNat ++
      [s.dev.reasonA, s.dev.reasonB] ++ toLE 8 s.dev.nonce.toNat) := if_pos h

/-! ## OFFER (R46, R47) -/

theorem wf_offer {n : BitVec 64} {h b : List Byte} (hh : h.length = 256) (hb : b.length = 4736) : (Instr.offer n h b).wf = true := by
  simp [Instr.wf, hh, hb]

/-- A recovery session erases the whole of slot A, which then reads BLANK. -/
theorem State.openSession_recovery (s : State) (n : BitVec 64) (h b : List Byte) :
    s.openSession true false (some n) h b = { s with
      flashA := s.flashA.erase s.flashA.capacity
      dev := { s.dev with reasonA := 1, session := some { recovery := true, slotB := false, station := some n, header := h, sigblock := b,
                                                          movedAt := s.elapsed } } } := rfl

theorem State.offerIn_opens {s : State} (hr : s.inRecovery = true) (hs : s.dev.session = none) (n : BitVec 64) (h b : List Byte) :
    s.offerIn n h b = if s.headerReason s.flashA.capacity true h b = 0 then s.openSession true false (some n) h b
      else s.sendResult (some n) (s.headerReason s.flashA.capacity true h b) := by
  simp only [State.offerIn, hs, hr, if_true, State.offerOpens]

theorem State.offerIn_busy {s : State} {x : Session} {n : BitVec 64} (hs : s.dev.session = some x) (hn : x.station ≠ some n) (h b : List Byte) :
    s.offerIn n h b = s.sessionBusy.sendStatus n 0x80 := by
  have hne : (x.station != some n) = true := bne_iff_ne.mpr hn
  simp only [State.offerIn, hs, hne, if_true]

/-! ## CHUNK (R46, R60) -/

theorem wf_chunk {n : BitVec 64} {o : BitVec 32} {d : List Byte} (hlo : 1 ≤ d.length) (hhi : d.length ≤ 1024) : (Instr.chunk n o d).wf = true :=
  decide_eq_true ⟨hlo, hhi⟩

theorem State.setFlash_dev (s : State) (b : Bool) (f : Flash) : (s.setFlash b f).dev = s.dev := by
  cases b <;> rfl

section Session
variable {s : State} {n : BitVec 64} {x : Session} (hs : s.dev.session = some x) (hn : x.station = some n)
  (hr : x.recovery = true → s.inRecovery = true)
include hs hn hr

/-- The session of its own station, in recovery where it is a session of recovery. -/
theorem State.sessionOf_own : s.sessionOf n = some x := by
  have hrec : (!x.recovery || s.inRecovery) = true := by
    cases hx : x.recovery with
    | false => rfl
    | true => exact hr hx
  simp [State.sessionOf, hs, hn, hrec]

theorem State.chunkIn_accepted (d : List Byte) (hfit : 0x100 + x.next + d.length ≤ imgSigOffset x.header) :
    s.chunkIn n x.next d = (({ s with dev := { s.dev with session := some { x with next := x.next + d.length, movedAt := s.elapsed } } }).setFlash x.slotB
      ((s.flash x.slotB).program (0x100 + x.next) d)).sendAck n (x.next + d.length) := by
  simp only [State.chunkIn, State.sessionOf_own hs hn hr, bne_self_eq_false, decide_eq_false (Nat.not_lt.mpr hfit), Bool.or_self,
    Bool.false_eq_true, if_false]
  rfl

theorem State.chunkIn_unexpected {o : Nat} (ho : o ≠ x.next) (d : List Byte) :
    s.chunkIn n o d = State.sendAck { s with dev := { s.dev with session := some { x with movedAt := s.elapsed } } } n x.next := by
  have hne : (o != x.next) = true := bne_iff_ne.mpr ho
  simp only [State.chunkIn, State.sessionOf_own hs hn hr, hne, Bool.true_or, if_true]

/-! ## END (R46, R47, R59) -/

/-- END writes the signature block and then the header and closes the session; the check of the slot then decides. -/
theorem State.endIn_own {u : State} (e : Bool) (hu : u = { s.setFlash x.slotB (((s.flash x.slotB).program (imgSigOffset x.header) x.sigblock).program 0 x.header) with
      dev := { s.dev with session := none } }) :
    s.endIn n e = if x.recovery = true ∧ u.checkSlot x.slotB e = 0 then (u.setReason x.slotB 0).reload .RECOVERED
      else State.sendResult { u.setReason x.slotB (u.checkSlot x.slotB e) with
        dev := { (u.setReason x.slotB (u.checkSlot x.slotB e)).dev with
          stagingDone := true
          stagingResult := BitVec.ofNat 8 (u.checkSlot x.slotB e) } } (some n) (u.checkSlot x.slotB e) := by
  have hclosed : ({ s.setFlash x.slotB (((s.flash x.slotB).program (imgSigOffset x.header) x.sigblock).program 0 x.header) with
      dev := { (s.setFlash x.slotB (((s.flash x.slotB).program (imgSigOffset x.header) x.sigblock).program 0 x.header)).dev with
        session := none } } : State) = u := by rw [State.setFlash_dev, hu]
  simp only [State.endIn, State.sessionOf_own hs hn hr, hclosed, Bool.and_eq_true, decide_eq_true_eq]
  split
  · rename_i h
    rw [h.2]
  · rfl

end Session

/-! ## Sessions that end idle (R47, R60) -/

theorem State.sessionIdle_expired {s : State} {x : Session} (hs : s.dev.session = some x) (ht : x.movedAt + 10000000000 ≤ s.elapsed) :
    s.sessionIdle = { s with
      dev := if x.slotB then { s.dev with session := none, reasonB := 1 } else { s.dev with session := none, reasonA := 1 } } := by
  simp only [State.sessionIdle, State.endSession, hs, ht, if_true]

/-- Settles O11, message by message. -/
theorem recoveryMessages : Obligations.RecoveryMessages := by
  unfold Obligations.RecoveryMessages
  refine ⟨fun s h => congrArg Host.Outcome.next (State.announce_inRecovery h), ?offer, ?busy, ?chunk, ?unexpected, ?end_,
    fun s x hs ht => congrArg Host.Outcome.next (State.sessionIdle_expired hs ht)⟩
  case offer =>
    intro s n h b hh hb hr hs
    exact congrArg Host.Outcome.next ((if_pos (wf_offer hh hb)).trans (State.offerIn_opens hr hs n h b))
  case busy =>
    intro s n h b x hh hb hr hs hn
    exact congrArg Host.Outcome.next ((if_pos (wf_offer hh hb)).trans (State.offerIn_busy hs hn h b))
  case chunk =>
    intro s n o d x hlo hhi hs hn hr ho hfit
    have he := State.chunkIn_accepted hs hn hr d hfit
    rw [← ho] at he ⊢
    exact congrArg Host.Outcome.next ((if_pos (wf_chunk hlo hhi)).trans he)
  case unexpected =>
    intro s n o d x hlo hhi hs hn hr ho
    exact congrArg Host.Outcome.next ((if_pos (wf_chunk hlo hhi)).trans (State.chunkIn_unexpected hs hn hr ho d))
  case end_ =>
    intro s u n e x hs hn hr hu
    exact congrArg Host.Outcome.next (State.endIn_own hs hn hr e hu)

end Sys2Proof.Machine
end

section
/-! PROOF. Amendments and their records (R54 to R60, R255): an amendment's check decides it whole, and a record by itself is checked,
applied and answered. -/

namespace Sys2Proof.Machine

/-! ## Amendments whole (R55, R57) -/

theorem State.amendment_acts {s : State} (hc : s.cpcRuns = true) (hl : s.leadActs = true) (o : Origin) (m : List Byte) :
    s.amendment o m = if (s.checkAmendment m).1 = Code.OK then
        State.runRecords { s with dev := { s.dev with amendSeq := BitVec.ofNat 64 (leAt m 0x18 8) } } o (leAt m 0x18 8) (s.checkAmendment m).2
      else s.replyTo o (leAt m 0x18 8) (s.checkAmendment m).1 0xFFFF [] := by
  simp only [State.amendment, hc, hl, Bool.not_true, Bool.false_eq_true, if_false]

theorem State.amendment_held {s : State} (hc : s.cpcRuns = true) (hl : s.leadActs = false) (o : Origin) (m : List Byte) :
    s.amendment o m = { s with dev := { s.dev with held := s.dev.held ++ [(o, m)] } } := by
  simp only [State.amendment, hc, hl, Bool.not_true, Bool.not_false, Bool.false_eq_true, if_false, if_true]

/-! ## One record (R56, R57) -/

/-- The index a reply gives: that of the record refused, or none. -/
def replyIndex (c : Nat) : Nat := if c = Code.OK then 0xFFFF else 0

/-- An amendment of one record that stays: its status is that of the record. -/
theorem State.runRecords_stay {s t : State} {o : Origin} {x : Record} {c : Nat} {d : List Byte} (h : s.applyRecord o x = (c, d, .stay, t))
    (seq : Nat) : s.runRecords o seq [x] = t.replyTo o seq c (replyIndex c) d := by
  unfold State.runRecords State.applyRecords replyIndex
  rw [h]
  by_cases hc : c = Code.OK
  · subst hc; rfl
  · simp only [bne_iff_ne.mpr hc, if_true, if_neg hc, List.nil_append, State.leave]

/-- One that ends the run of the device replies first. -/
theorem State.runRecords_leaves {s t : State} {o : Origin} {x : Record} {d : List Byte} {a : Afterwards}
    (h : s.applyRecord o x = (Code.OK, d, a, t)) (ha : a ≠ .stay) (seq : Nat) :
    s.runRecords o seq [x] = (t.replyTo o seq Code.OK 0xFFFF d).leave a := by
  unfold State.runRecords State.applyRecords
  rw [h]
  simp only [bne_self_eq_false, Bool.false_eq_true, if_false, bne_iff_ne.mpr ha, if_true, List.nil_append]

section Record
variable {s : State} (hc : s.cpcRuns = true) (hl : s.leadActs = true) (o : Origin)
include hc hl

theorem State.oneRecord_applied {x : Record} (hx : s.recordCode x = Code.OK) : s.oneRecord o x = s.runRecords o s.dev.amendSeq.toNat [x] := by
  simp only [State.oneRecord, hc, hl, hx, Bool.not_true, Bool.or_self, Bool.false_eq_true, if_false, if_true]

theorem State.oneRecord_stay {t : State} {x : Record} {c : Nat} {d : List Byte} (hx : s.recordCode x = Code.OK)
    (h : s.applyRecord o x = (c, d, .stay, t)) : s.oneRecord o x = t.replyTo o s.dev.amendSeq.toNat c (replyIndex c) d :=
  (State.oneRecord_applied hc hl o hx).trans (State.runRecords_stay h _)

theorem State.oneRecord_restart (hz : s.dev.cause ≠ .ZEROIZE) :
    s.oneRecord o ⟨3, []⟩ = ((s.replyTo o s.dev.amendSeq.toNat Code.OK 0xFFFF []).cleanRecords.shutModules.warmReset).startLoading .RESTART := by
  have happ : s.applyRecord o ⟨3, []⟩ = (Code.OK, [], .restart, s) := if_neg hz
  rw [State.oneRecord_applied hc hl o rfl, State.runRecords_leaves happ (by decide)]
  rfl

end Record

theorem State.oneRecord_sleep {s : State} (hs : s.dev.state = .STAGE) (hl : s.leadActs = true) (o : Origin) :
    s.oneRecord o ⟨4, []⟩ = (s.replyTo o s.dev.amendSeq.toNat Code.OK 0xFFFF []).cleanRecords.shutModules.warmReset := by
  have hc : s.cpcRuns = true := by rw [State.cpcRuns, hs]; rfl
  have happ : s.applyRecord o ⟨4, []⟩ = (Code.OK, [], .sleep, s) := if_pos hs
  rw [State.oneRecord_applied hc hl o rfl, State.runRecords_leaves happ (by decide)]
  rfl

/-! ## Register records -/

/-- The body of a REGWRITE record. -/
def regwriteBody (a m v : BitVec 32) : List Byte := toLE 4 a.toNat ++ toLE 4 m.toNat ++ toLE 4 v.toNat

theorem regwriteBody_fields (a m v : BitVec 32) : leAt (regwriteBody a m v) 0 4 = a.toNat ∧ leAt (regwriteBody a m v) 4 4 = m.toNat ∧
    leAt (regwriteBody a m v) 8 4 = v.toNat := by
  have hword : ∀ w : BitVec 32, w.toNat % 256 ^ 4 = w.toNat := fun w => Nat.mod_eq_of_lt w.isLt
  refine ⟨?_, (leAt_middle _ _ _ (toLE_length ..)).trans (hword m), (leAt_last _ _ (by simp)).trans (hword v)⟩
  rw [regwriteBody, List.append_assoc, leAt_first, hword]

theorem State.recordCode_regwrite {s : State} {a : BitVec 32} (ha : a.toNat % 4 = 0) (ht : s.targetCode a.toNat false = Code.OK) (m v : BitVec 32) :
    s.recordCode ⟨1, regwriteBody a m v⟩ = Code.OK := by
  have hlen : (regwriteBody a m v).length = 12 := by simp [regwriteBody]
  simp [State.recordCode, hlen, (regwriteBody_fields a m v).1, ha, ht]

theorem State.applyRecord_regwrite (s : State) (o : Origin) (a m v : BitVec 32) :
    s.applyRecord o ⟨1, regwriteBody a m v⟩ = ((s.regWrite a.toNat false m.toNat v.toNat).1, [], .stay,
      (s.regWrite a.toNat false m.toNat v.toNat).2) := by
  obtain ⟨ha, hm, hv⟩ := regwriteBody_fields a m v
  simp only [State.applyRecord, ha, hm, hv]

/-- The body of a REGWRITE64 record: its address takes 8 bytes. -/
def regwrite64Body (a : BitVec 32) (m v : BitVec 64) : List Byte := toLE 8 a.toNat ++ toLE 8 m.toNat ++ toLE 8 v.toNat

theorem regwrite64Body_fields (a : BitVec 32) (m v : BitVec 64) : leAt (regwrite64Body a m v) 0 4 = a.toNat ∧
    leAt (regwrite64Body a m v) 8 8 = m.toNat ∧ leAt (regwrite64Body a m v) 16 8 = v.toNat := by
  have hword : ∀ w : BitVec 64, w.toNat % 256 ^ 8 = w.toNat := fun w => Nat.mod_eq_of_lt w.isLt
  refine ⟨?_, (leAt_middle _ _ _ (toLE_length ..)).trans (hword m), (leAt_last _ _ (by simp)).trans (hword v)⟩
  rw [regwrite64Body, toLE_append 4 4 a.toNat, List.append_assoc, List.append_assoc, leAt_first]
  exact Nat.mod_eq_of_lt a.isLt

theorem State.recordCode_regwrite64 {s : State} {a : BitVec 32} (ha : a.toNat % 8 = 0) (ht : s.targetCode a.toNat true = Code.OK) (m v : BitVec 64) :
    s.recordCode ⟨7, regwrite64Body a m v⟩ = Code.OK := by
  have hlen : (regwrite64Body a m v).length = 24 := by simp [regwrite64Body]
  simp [State.recordCode, hlen, (regwrite64Body_fields a m v).1, ha, ht]

theorem State.applyRecord_regwrite64 (s : State) (o : Origin) (a : BitVec 32) (m v : BitVec 64) :
    s.applyRecord o ⟨7, regwrite64Body a m v⟩ = ((s.regWrite a.toNat true m.toNat v.toNat).1, [], .stay,
      (s.regWrite a.toNat true m.toNat v.toNat).2) := by
  obtain ⟨ha, hm, hv⟩ := regwrite64Body_fields a m v
  simp only [State.applyRecord, ha, hm, hv]

/-! ## SECTION records -/

/-- The body of a SECTION record. -/
def sectionBody (t v : BitVec 16) (b : List Byte) : List Byte := toLE 2 t.toNat ++ toLE 2 v.toNat ++ b

theorem sectionBody_fields (t v : BitVec 16) (b : List Byte) : leAt (sectionBody t v b) 0 2 = t.toNat ∧ leAt (sectionBody t v b) 2 2 = v.toNat ∧
    (sectionBody t v b).drop 4 = b := by
  have hword : ∀ w : BitVec 16, w.toNat % 256 ^ 2 = w.toNat := fun w => Nat.mod_eq_of_lt w.isLt
  refine ⟨?_, (leAt_middle _ _ _ (toLE_length ..)).trans (hword v), List.drop_left' (by simp)⟩
  rw [sectionBody, List.append_assoc, leAt_first, hword]

theorem State.recordCode_section (s : State) {t v : BitVec 16} (ht : t.toNat ∈ [2, 3, 4, 5, 6, 10]) (hv : v.toNat / 256 = 1) (b : List Byte) :
    s.recordCode ⟨2, sectionBody t v b⟩ = Code.OK := by
  obtain ⟨hft, hfv, -⟩ := sectionBody_fields t v b
  have hlen : ¬ (sectionBody t v b).length < 4 := by
    simp only [sectionBody, List.length_append, toLE_length]
    omega
  have hin : [2, 3, 4, 5, 6, 10].contains t.toNat = true := List.contains_iff_mem.mpr ht
  simp only [State.recordCode, if_neg hlen, hft, hfv, hin, hv, Bool.not_true, bne_self_eq_false, Bool.or_self, Bool.false_eq_true, if_false]

theorem State.applyRecord_section (s : State) (o : Origin) (t v : BitVec 16) (b : List Byte) :
    s.applyRecord o ⟨2, sectionBody t v b⟩ = ((s.amendSection t.toNat v.toNat b).1, [], .stay, (s.amendSection t.toNat v.toNat b).2) := by
  obtain ⟨ht, hv, hb⟩ := sectionBody_fields t v b
  simp only [State.applyRecord, ht, hv, hb]

/-! ## STAGE_IMAGE and QUERY records -/

theorem State.applyRecord_stageImage (s : State) (o : Origin) {h b : List Byte} (hh : h.length = 256) (hb : b.length = 4736) :
    s.applyRecord o ⟨5, h ++ b⟩ = ((s.stageImage (stationOf o) h b).1, [], .stay, (s.stageImage (stationOf o) h b).2) := by
  have hhead : slice (h ++ b) 0 256 = h := by rw [← hh]; exact slice_prefix h b
  have hblock : slice (h ++ b) 256 4736 = b := by
    have := slice_middle h b [] hh hb
    rwa [List.append_nil] at this
  simp only [State.applyRecord, hhead, hblock]

/-- With no session under way the header's check decides: a session on the other slot, or the reason in a RESULT. -/
theorem State.stageImage_free {s : State} (hs : s.dev.session = none) (n : Option (BitVec 64)) (h b : List Byte) :
    s.stageImage n h b = if s.headerReason (s.flash !s.dev.slotB).capacity true h b = 0 then (Code.OK, s.openSession false (!s.dev.slotB) n h b)
      else (Code.AUTH_FAIL, State.sendResult { s with dev := { s.dev with
        stagingDone := true
        stagingResult := BitVec.ofNat 8 (s.headerReason (s.flash !s.dev.slotB).capacity true h b) } } n
        (s.headerReason (s.flash !s.dev.slotB).capacity true h b)) := by
  simp only [State.stageImage, hs, Option.isSome_none, Bool.false_eq_true, if_false]

/-- The body of a QUERY record: 4 bytes for each address. -/
theorem queryBody_length (as : List (BitVec 32)) : (as.flatMap (fun a => toLE 4 a.toNat)).length = 4 * as.length := by
  simp [List.length_flatMap, Nat.mul_comm]

theorem State.applyRecord_query (s : State) (o : Origin) (as : List (BitVec 32)) :
    s.applyRecord o ⟨6, as.flatMap (fun a => toLE 4 a.toNat)⟩ = (Code.OK, (s.queryRead (as.map BitVec.toNat)).1, .stay,
      (s.queryRead (as.map BitVec.toNat)).2) := by
  have hbody : as.flatMap (fun a => toLE 4 a.toNat) = (as.map BitVec.toNat).flatMap (toLE 4) := (List.flatMap_map ..).symm
  have hwords := leAt_flatMap (as.map BitVec.toNat) (by
    intro x hx
    obtain ⟨a, -, rfl⟩ := List.mem_map.mp hx
    exact a.isLt)
  simp only [State.applyRecord, hbody, hwords]

/-- Settles O12: each record by its structure check, its application and the reply to one record. -/
theorem amendments : Obligations.Amendments := by
  unfold Obligations.Amendments
  refine ⟨fun s o m hc hl => congrArg Host.Outcome.next (State.amendment_acts hc hl o m),
    fun s o m hc hl => congrArg Host.Outcome.next (State.amendment_held hc hl o m), ?regwrite, ?regwrite64, ?section_,
    fun s o hc hl hz => congrArg Host.Outcome.next (State.oneRecord_restart hc hl o hz),
    fun s o hs hl => congrArg Host.Outcome.next (State.oneRecord_sleep hs hl o), ?stageImage, ?query⟩
  case regwrite =>
    intro s u o a m v c hc hl ha ht hw
    have happ := s.applyRecord_regwrite o a m v
    rw [hw] at happ
    exact congrArg Host.Outcome.next (State.oneRecord_stay hc hl o (State.recordCode_regwrite ha ht m v) happ)
  case regwrite64 =>
    intro s u o a m v c hc hl ha ht hw
    have happ := s.applyRecord_regwrite64 o a m v
    rw [hw] at happ
    exact congrArg Host.Outcome.next (State.oneRecord_stay hc hl o (State.recordCode_regwrite64 ha ht m v) happ)
  case section_ =>
    intro s u o t v b c hc hl ht hv hw
    have happ := s.applyRecord_section o t v b
    rw [hw] at happ
    exact congrArg Host.Outcome.next (State.oneRecord_stay hc hl o (s.recordCode_section ht hv b) happ)
  case stageImage =>
    intro s o h b hc hl hh hb hs
    have hcode : s.recordCode ⟨5, h ++ b⟩ = Code.OK := if_pos (by rw [List.length_append, hh, hb])
    have hone := State.oneRecord_stay hc hl o hcode (s.applyRecord_stageImage o hh hb)
    rw [State.stageImage_free hs] at hone
    refine congrArg Host.Outcome.next (hone.trans ?_)
    split <;> rfl
  case query =>
    intro s u o as d hc hl hlen hq
    have hcode : s.recordCode ⟨6, as.flatMap (fun a => toLE 4 a.toNat)⟩ = Code.OK := by
      refine if_pos ?_
      rw [queryBody_length]
      omega
    have happ := s.applyRecord_query o as
    rw [hq] at happ
    exact congrArg Host.Outcome.next (State.oneRecord_stay hc hl o hcode happ)

end Sys2Proof.Machine
end

section
/-! PROOF. Host links, functions and their resets (R52, R290 to R294, R299, R300, R307, R308, R312). -/

namespace Sys2Proof.Machine

/-! ## Fundamental reset and Function Level Reset (R293, R308) -/

theorem State.resetFunc_pf0 (s : State) (l : Nat) : s.resetFunc l 0 false = s.setFunc l 0 {} := by
  simp [State.resetFunc]

theorem State.resetFunc_pf1 (s : State) (l : Nat) : s.resetFunc l 1 false = (s.setFunc l 1 {}).freshSizes l := by
  simp [State.resetFunc]

/-- A Function Level Reset keeps the AER words. -/
theorem State.resetFunc_pf0_flr (s : State) (l : Nat) :
    s.resetFunc l 0 true = s.setFunc l 0 { flr := true, other := (s.func l 0).other.filter (fun x => 0x40 ≤ x.1 && x.1 < 0x52) } := by
  simp [State.resetFunc]

theorem State.functionReset_pf0 (s : State) (l : Nat) : s.functionReset l 0 = (s.bump .HEP_FLR l).resetFunc l 0 true := by
  simp only [State.functionReset, Nat.zero_ne_one, if_false]

theorem State.functionReset_pf1 (s : State) (l : Nat) :
    s.functionReset l 1 = (((s.bump .HEP_FLR l).retireLink l).masterStop l).resetFunc l 1 true := by
  simp only [State.functionReset, if_true]

theorem State.perstRelease_released {s : State} {h : Nat} (hp : s.inPerst h = false) : s.perstRelease h = s := by
  simp only [State.perstRelease, hp, Bool.false_eq_true, if_false]

theorem State.perstRelease_held {s : State} {h : Nat} (hp : s.inPerst h = true) : s.perstRelease h = { s with
    pins := { s.pins with perst := s.pins.perst &&& ~~~ BitVec.ofNat 16 (2 ^ h) },
    hep := { s.hep with released := SMap.set (fun _ => 0) h s.elapsed s.hep.released } } := if_pos hp

theorem State.flrDone_due {s : State} {l fn : Nat} (h : (s.func l fn).flr = true) :
    s.flrDone l fn = s.setFunc l fn { s.func l fn with flr := false } := if_pos h

theorem State.flrDone_idle {s : State} {l fn : Nat} (h : (s.func l fn).flr = false) : s.flrDone l fn = s :=
  if_neg (Bool.eq_false_iff.mp h)

/-! ## Training (R290, R292, R312) -/

/-- The widths a link may have. -/
theorem linkWidth_contains {w : Nat} : [1, 2, 4, 8, 16].contains w = true ↔ w = 1 ∨ w = 2 ∨ w = 4 ∨ w = 8 ∨ w = 16 := by
  simp

theorem State.linkTrained_trains {s : State} {l speed width : Nat} (ht : s.mayTrain l speed = true) (hp : s.inPerst (l / 4) = false)
    (hs : 1 ≤ speed) (hw : width = 1 ∨ width = 2 ∨ width = 4 ∨ width = 8 ∨ width = 16) (hl : width ≤ s.linkLanes (l / 4)) (flit : Bool) :
    s.linkTrained l flit speed width =
      s.setHostLink l { s.hostLink l with up := true, flit := flit || decide (6 ≤ speed), speed := speed, width := width } := by
  simp only [State.linkTrained, ht, hp, hs, linkWidth_contains.mpr hw, hl, Bool.not_false, decide_true, Bool.and_self, if_true]

theorem State.linkTrained_refused {s : State} {l speed : Nat} (h : s.mayTrain l speed = false ∨ s.inPerst (l / 4) = true) (flit : Bool)
    (width : Nat) : s.linkTrained l flit speed width = s := by
  unfold State.linkTrained
  rcases h with h | h <;> simp [h]

/-- Before step 5 of LOADING sub-link 0 of every port may train, at any rate. -/
theorem State.mayTrain_early {s : State} (he : s.dev.earlyUp = false) (hs : s.dev.state = .LOADING) (hd : s.dev.detect = false) (l speed : Nat) :
    s.mayTrain l speed = true ↔ l % 4 = 0 := by
  simp [State.mayTrain, he, hs, hd]

theorem State.retrain_up {s : State} {l : Nat} (h : (s.hostLink l).up = true) :
    s.retrain l = s.emit (.host l (.retrain (s.fld Fld.HEP_LINK_CTRL_MAX_SPEED l))) := if_pos h

/-- What a write of HEP_LINK_CTRL does at a link the port has: MAX_SPEED where the mask covers it, then RETRAIN. -/
theorem State.performWrite_linkCtrl {u t : State} {l : Nat} (hl : u.linkExists (l / 4) (l % 4) = true) (r : Requester) {v m : Word}
    (ht : t = if fieldOf m 0 3 != 0 then u.maxSpeed l (fieldOf (BitVec.ofNat 64
      (plainWritten RegName.HEP_LINK_CTRL.info.fields (u.reg .HEP_LINK_CTRL l).toNat v.toNat m.toNat)) 0 3) else u) :
    u.performWrite r .HEP_LINK_CTRL l v m = if bit (v &&& m).toNat 3 then t.retrain l else t := by
  have hno : ¬ (!u.linkExists (l / 4) (l % 4)) = true := by rw [hl]; decide
  subst ht
  exact if_neg hno

/-- The word a MAX_SPEED write carries touches MAX_SPEED alone. -/
theorem maxSpeedWord_fields : ∀ n : BitVec 3, bits (withField 0 0 3 n.toNat).toNat 0 3 = n.toNat ∧
    bit (withField 0 0 3 n.toNat &&& withField 0 0 3 7).toNat 3 = false := by decide

theorem State.performWrite_maxSpeed {u : State} {l : Nat} (hl : u.linkExists (l / 4) (l % 4) = true) (r : Requester) (n : BitVec 3) :
    u.performWrite r .HEP_LINK_CTRL l (withField 0 0 3 n.toNat) (withField 0 0 3 7) = u.maxSpeed l n.toNat := by
  obtain ⟨hfield, hretrain⟩ := maxSpeedWord_fields n
  have hd : RegName.HEP_LINK_CTRL.info.fields.Pairwise FieldInfo.apart := by unfold FieldInfo.apart; decide
  have hspeed := written_at (f := ⟨0, 3, .RW, 0⟩) hd (by decide) (.inl rfl) (mask := (withField 0 0 3 7).toNat) (by decide) (by decide)
    (u.reg .HEP_LINK_CTRL l).toNat (withField 0 0 3 n.toNat).toNat
  have hmask : (fieldOf (withField 0 0 3 7) 0 3 != 0) = true := by decide
  rw [State.performWrite_linkCtrl hl r rfl, hretrain, hmask, if_pos rfl, hspeed, hfield]
  rfl

theorem State.performWrite_retrain {u : State} {l : Nat} (hl : u.linkExists (l / 4) (l % 4) = true) (r : Requester) :
    u.performWrite r .HEP_LINK_CTRL l (withField 0 3 1 1) (withField 0 3 1 1) = u.retrain l := by
  have hmask : (fieldOf (withField 0 3 1 1) 0 3 != 0) = false := by decide
  have hretrain : bit (withField 0 3 1 1 &&& withField 0 3 1 1).toNat 3 = true := by decide
  rw [State.performWrite_linkCtrl hl r rfl, hmask, hretrain]
  rfl

section Admitted
variable {s u : State} {r : Requester} {l : Fin 64} (h : s.admitWrite r .HEP_LINK_CTRL l.val = (true, u))
  (hl : u.linkExists (l.val / 4) (l.val % 4) = true) (ha : u.sleepingAt .HEP_LINK_CTRL l.val = none)
include h hl ha

theorem exec_maxSpeedWrite_of (n : BitVec 3) : exec (.maxSpeedWrite r l n) s = .next (u.maxSpeed l.val n.toNat) :=
  congrArg Host.Outcome.next ((State.directWrite_of h ha _ _).trans (State.performWrite_maxSpeed hl r n))

theorem exec_retrain_of : exec (.retrain r l) s = .next (u.retrain l.val) :=
  congrArg Host.Outcome.next ((State.directWrite_of h ha _ _).trans (State.performWrite_retrain hl r))

end Admitted

theorem State.maxSpeed_below {u : State} {l n : Nat} (hn : n ≠ 0) (h : n < (u.hostLink l).speed) :
    u.maxSpeed l n = (u.setFld Fld.HEP_LINK_CTRL_MAX_SPEED l n).retrain l := (if_neg hn).trans (if_pos h)

theorem State.maxSpeed_above {u : State} {l n : Nat} (hn : n ≠ 0) (h : (u.hostLink l).speed ≤ n) :
    u.maxSpeed l n = u.setFld Fld.HEP_LINK_CTRL_MAX_SPEED l n := (if_neg hn).trans (if_neg (Nat.not_lt.mpr h))

/-! ## Withdrawal of mastering (R307) -/

/-- PF1 still holds what a cause of withdrawal takes away. -/
def Func.holds (f : Func) (c : MasterStop) : Bool :=
  match c with
  | .busMaster => f.bme
  | .pasid => f.pasid
  | .d3hot => !f.d3

theorem State.masterCleared_eq (s : State) (l : Nat) (c : MasterStop) :
    s.masterCleared l c = if s.configured l 1 && (s.func l 1).holds c then (s.masterClear l c).settleAll else s := by
  cases c <;> rfl

theorem State.masterCleared_held {s : State} {l : Nat} {c : MasterStop} (hc : s.configured l 1 = true) (h : (s.func l 1).holds c = true) :
    s.masterCleared l c = (s.masterClear l c).settleAll := by
  rw [State.masterCleared_eq, hc, h]; rfl

theorem State.masterCleared_kept {s : State} {l : Nat} {c : MasterStop} (h : s.configured l 1 = false ∨ (s.func l 1).holds c = false) :
    s.masterCleared l c = s := by
  rw [State.masterCleared_eq]
  rcases h with h | h <;> simp [h]

/-! ## Configuration requests (R52, R299) -/

theorem State.rrs_of {s : State} {l fn : Nat} (h : (s.func l fn).flr = true ∨ s.dev.earlyUp = false ∨
    s.elapsed < SMap.get (fun _ => 0) s.hep.released (l / 4) + 100000000) : s.rrs l fn = true := by
  unfold State.rrs
  rcases h with h | h | h <;> simp [h]

theorem State.configRequest_down {s : State} {l : Nat} (h : (s.hostLink l).up = false) (fn reg : Nat) (w : Option (BitVec 32 × BitVec 4)) :
    s.configRequest l fn reg w = s := by
  simp only [State.configRequest, h, Bool.not_false, if_true]

section Up
variable {s : State} {l : Nat} (h : (s.hostLink l).up = true) {fn : Nat}
include h

theorem State.configRequest_retry (hr : s.rrs l fn = true) (reg : Nat) (w : Option (BitVec 32 × BitVec 4)) :
    s.configRequest l fn reg w = (s.bump .HEP_RRS_SENT l).emit (.host l (.config fn reg 2 0)) := by
  simp only [State.configRequest, h, hr, Bool.not_true, Bool.false_eq_true, if_false, if_true]

theorem State.configRequest_read (hr : s.rrs l fn = false) (reg : Nat) :
    s.configRequest l fn reg none = s.emit (.host l (.config fn reg 0 (s.cfgRead l fn reg))) := by
  simp only [State.configRequest, h, hr, Bool.not_true, Bool.false_eq_true, if_false]

theorem State.configRequest_write (hr : s.rrs l fn = false) (reg : Nat) (v : BitVec 32) (be : BitVec 4) :
    s.configRequest l fn reg (some (v, be)) =
      (s.cfgWrite l fn reg (mergeBytes (s.cfgRead l fn reg) v be)).emit (.host l (.config fn reg 0 0)) := by
  simp only [State.configRequest, h, hr, Bool.not_true, Bool.false_eq_true, if_false]

end Up

/-! ## Resizable BARs (R300) -/

/-- The size exponents a Resizable BAR of PF1 has. -/
def barRange (bar2 : Bool) (n : Nat) : Bool := if bar2 then 30 ≤ n && n ≤ 37 else 20 ≤ n && n ≤ 28

theorem barRange_bar0 (n : Nat) : barRange false n = decide (20 ≤ n ∧ n ≤ 28) := by simp [barRange]
theorem barRange_bar2 (n : Nat) : barRange true n = decide (30 ≤ n ∧ n ≤ 37) := by simp [barRange]

theorem State.barResize_refused {s : State} {bar2 : Bool} {n : Nat} (h : barRange bar2 n = false) (l : Nat) : s.barResize l bar2 n = s :=
  if_pos (show (!barRange bar2 n) = true by rw [h]; rfl)

theorem State.barResize_bar0 {s : State} {n : Nat} (h : barRange false n = true) (l : Nat) :
    s.barResize l false n = s.setHostLink l { s.hostLink l with bar0Log2 := n, pf1 := { (s.hostLink l).pf1 with
      bar0 := BitVec.ofNat 64 ((s.hostLink l).pf1.bar0.toNat / 2 ^ n * 2 ^ n) } } :=
  if_neg (show ¬(!barRange false n) = true by rw [h]; decide)

theorem State.barResize_bar2 {s : State} {n : Nat} (h : barRange true n = true) (l : Nat) :
    s.barResize l true n = s.setHostLink l { s.hostLink l with bar2Log2 := n, pf1 := { (s.hostLink l).pf1 with
      bar2 := BitVec.ofNat 64 ((s.hostLink l).pf1.bar2.toNat / 2 ^ n * 2 ^ n) } } :=
  if_neg (show ¬(!barRange true n) = true by rw [h]; decide)

/-- Settles O36: each clause is one branch of the operation it names, and an admitted write of HEP_LINK_CTRL performs its operation. -/
theorem hostLinks : Obligations.HostLinks := by
  unfold Obligations.HostLinks
  refine ⟨fun s h => rfl, fun s l => ⟨s.resetFunc_pf0 l, s.resetFunc_pf1 l, s.resetFunc_pf0_flr l⟩, ?_, ?_, ?trained, ?notTrained, ?early,
    ?downDown, ?down, ?linkCtrl, fun s l => State.retrain_up, ?withdraw, ?flr0, ?unconfigured, ?flrComplete, ?config, ?configDown, ?bars⟩
  · exact fun s h hp => congrArg Host.Outcome.next (State.perstRelease_released hp)
  · exact fun s h hp => congrArg Host.Outcome.next (State.perstRelease_held hp)
  case trained =>
    exact fun s l flit speed width ht hp hs hw hl => congrArg Host.Outcome.next (State.linkTrained_trains ht hp hs hw hl flit)
  case notTrained => exact fun s l flit speed width h => congrArg Host.Outcome.next (State.linkTrained_refused h flit _)
  case early => exact fun s l he hs hd => State.mayTrain_early he hs hd _ _
  case downDown => exact fun s l h => congrArg Host.Outcome.next (if_neg (Bool.eq_false_iff.mp h))
  case down =>
    rintro s _ l h rfl
    exact congrArg Host.Outcome.next (if_pos h)
  case linkCtrl =>
    intro s u r l n h hl ha
    have he := exec_maxSpeedWrite_of h hl ha n
    have hpos : n ≠ 0 → n.toNat ≠ 0 := fun hn h0 => hn (BitVec.eq_of_toNat_eq h0)
    refine ⟨?_, fun hn hlt => ?_, fun hn hle => ?_, exec_retrain_of h hl ha⟩
    · rintro rfl
      exact he
    · rw [he, State.maxSpeed_below (hpos hn) hlt]
    · rw [he, State.maxSpeed_above (hpos hn) hle]
  case withdraw =>
    intro s l hc
    refine ⟨fun h => ?_, fun h => ?_, fun h => ?_, fun h => ?_, ?_⟩
    · exact congrArg Host.Outcome.next (State.masterCleared_held (c := .busMaster) hc h)
    · exact congrArg Host.Outcome.next (State.masterCleared_held (c := .pasid) hc h)
    · exact congrArg Host.Outcome.next (State.masterCleared_held (c := .d3hot) hc (by rw [Func.holds, h]; rfl))
    · exact congrArg Host.Outcome.next (State.masterCleared_kept (c := .busMaster) (.inr h))
    · exact congrArg Host.Outcome.next ((if_pos hc).trans (congrArg State.settleAll (s.functionReset_pf1 l)))
  case flr0 => exact fun s l hc => congrArg Host.Outcome.next ((if_pos hc).trans (congrArg State.settleAll (s.functionReset_pf0 l)))
  case unconfigured =>
    exact fun s l fn c hf h1 => ⟨congrArg Host.Outcome.next (if_neg (Bool.eq_false_iff.mp hf)),
      congrArg Host.Outcome.next (State.masterCleared_kept (.inl h1))⟩
  case flrComplete =>
    exact fun s l fn => ⟨fun h => congrArg Host.Outcome.next (State.flrDone_due h), fun h => congrArg Host.Outcome.next (State.flrDone_idle h)⟩
  case config =>
    intro s l fn reg hu
    refine ⟨fun hr w => ?_, fun hr => ?_, fun hr v be => ?_⟩
    · exact congrArg (fun t : State => Host.Outcome.next t.settleAll) (State.configRequest_retry hu (State.rrs_of hr) _ w)
    · exact congrArg (fun t : State => Host.Outcome.next t.settleAll) (State.configRequest_read hu hr _)
    · exact congrArg (fun t : State => Host.Outcome.next t.settleAll) (State.configRequest_write hu hr _ v be)
  case configDown =>
    exact fun s l fn reg w hu => congrArg (fun t : State => Host.Outcome.next t.settleAll) (State.configRequest_down hu _ _ w)
  case bars =>
    rintro s l n _ hc rfl
    have hexec : ∀ b, exec (.barResize l b n) s = .next (s.barResize l.val b n.toNat) := fun b => congrArg Host.Outcome.next (if_pos hc)
    refine ⟨fun hlo hhi => ?_, fun hlo hhi => ?_, fun h => ?_, fun h => ?_⟩
    · rw [hexec, State.barResize_bar0 ((barRange_bar0 _).trans (decide_eq_true ⟨hlo, hhi⟩))]
    · rw [hexec, State.barResize_bar2 ((barRange_bar2 _).trans (decide_eq_true ⟨hlo, hhi⟩))]
    · rw [hexec, State.barResize_refused ((barRange_bar0 _).trans (decide_eq_false (by omega)))]
    · rw [hexec, State.barResize_refused ((barRange_bar2 _).trans (decide_eq_false (by omega)))]

end Sys2Proof.Machine
end

section
/-! PROOF. Accesses of the control map (R63 to R70, R73, R75): how an address, a width and a buffered half choose the access, then
each statement from the access chosen. -/

namespace Sys2Proof.Machine

/-! ## Requesters that address the control map itself -/

section OfMap
variable {r : Requester} (h0 : ∀ h l, r ≠ .pf0 h l) (h1 : ∀ n, r ≠ .slice n)
include h0 h1

/-- A requester that is no host function and no slice is a CPC core, a vault or a Troupe thread. -/
theorem Requester.ofMap_cases : (∃ u c, r = .cpc u c) ∨ (∃ u, r = .vault u) ∨ ∃ n k t, r = .troupe n k t := by
  cases r with
  | pf0 h l => exact absurd rfl (h0 h l)
  | slice n => exact absurd rfl (h1 n)
  | cpc u c => exact .inl ⟨u, c, rfl⟩
  | vault u => exact .inr (.inl ⟨u, rfl⟩)
  | troupe n k t => exact .inr (.inr ⟨n, k, t, rfl⟩)

theorem State.mapWrite_ofMap (s : State) (a : Nat) (z : AccSize) (v : Word) : s.mapWrite r a z v = s.mapWriteAt r a a z v := by
  obtain ⟨u, c, rfl⟩ | ⟨u, rfl⟩ | ⟨n, k, t, rfl⟩ := Requester.ofMap_cases h0 h1 <;> rfl

theorem State.mapRead_ofMap (s : State) (a : Nat) (z : AccSize) : s.mapRead r a z = s.mapReadAt r a a z := by
  obtain ⟨u, c, rfl⟩ | ⟨u, rfl⟩ | ⟨n, k, t, rfl⟩ := Requester.ofMap_cases h0 h1 <;> rfl

/-- Such an address names the register, if any, that its four bytes mean. -/
theorem State.targetOf_reg {s : State} {a : Nat} {t : Target} (ht : s.spotOf r a = .reg t) : s.targetOf r a = some t := by
  obtain ⟨u, c, rfl⟩ | ⟨u, rfl⟩ | ⟨n, k, x, rfl⟩ := Requester.ofMap_cases h0 h1 <;> simp only [State.targetOf, ht]

theorem State.targetOf_nothing {s : State} {a : Nat} (ht : s.spotOf r a = .nothing) : s.targetOf r a = none := by
  obtain ⟨u, c, rfl⟩ | ⟨u, rfl⟩ | ⟨n, k, x, rfl⟩ := Requester.ofMap_cases h0 h1 <;> simp only [State.targetOf, ht]

theorem exec_registerWrite_ofMap (s : State) (a : BitVec 32) (z : AccSize) (v : Word) :
    exec (.registerWrite r a z v) s = .next (s.mapWriteAt r a.toNat a.toNat z v) :=
  congrArg Host.Outcome.next (s.mapWrite_ofMap h0 h1 a.toNat z v)

end OfMap

/-! ## Widths and buffered halves (R66, R68) -/

theorem words_b4 {a : Nat} (h : a % 4 = 0) : words a .b4 = some 1 := if_pos h
theorem words_b8 {a : Nat} (h : a % 8 = 0) : words a .b8 = some 2 := if_pos h

section Buffer
variable {s : State} {r : Requester}

theorem State.splitBuffer_empty (h : s.bufferOf r = none) : s.splitBuffer r = s := by
  rw [State.splitBuffer, h]

theorem State.splitBuffer_held {b : Nat} {low : BitVec 32} (h : s.bufferOf r = some (b, low)) :
    s.splitBuffer r = (s.setBuffer r none).badAccess r (shownAddr r b) 4 true := by
  rw [State.splitBuffer, h]

/-- An access completes no half where none is buffered, where it is no 32-bit one, or where it is not at the matching high half. -/
theorem State.completes_other {b : Nat} {low : BitVec 32} (h : s.bufferOf r = some (b, low)) {a : Nat} {z : AccSize}
    (hz : z ≠ .b4 ∨ b + 4 ≠ a) : s.completes r a z = false := by
  rw [State.completes, h]
  rcases hz with hz | hz
  · rw [beq_false_of_ne hz, Bool.false_and]
  · exact (Bool.and_eq_false_iff).mpr (.inr (beq_false_of_ne hz))

theorem State.completes_match {b : Nat} {low : BitVec 32} (h : s.bufferOf r = some (b, low)) {a : Nat} (ha : b + 4 = a) :
    s.completes r a .b4 = true := by
  rw [State.completes, h]
  exact beq_iff_eq.mpr ha

/-- With no half buffered, a write acts on the state as it is. -/
theorem State.unsplit (h : s.bufferOf r = none) (a : Nat) (z : AccSize) :
    (if s.completes r a z = true then s else s.splitBuffer r) = s := by
  rw [State.splitBuffer_empty h, ite_self]

end Buffer

/-! ## Writes of the control map (R63, R66, R68) -/

section Writes
variable {s : State} {r : Requester} {a : Nat} (hm : s.mapAnswers = true)

section Answered
include hm

theorem State.mapWriteAt_b4 (ha : a % 4 = 0) (n : Nat) (v : Word) :
    s.mapWriteAt r a n .b4 v = (if s.completes r a .b4 = true then s else s.splitBuffer r).write4 r a n (v.toNat % 2 ^ 32) := by
  simp only [State.mapWriteAt, hm, words_b4 ha, Bool.not_true, Bool.false_eq_true, if_false]

theorem State.mapWriteAt_b4_empty (hb : s.bufferOf r = none) (ha : a % 4 = 0) (n : Nat) (v : Word) :
    s.mapWriteAt r a n .b4 v = s.write4 r a n (v.toNat % 2 ^ 32) := by
  rw [State.mapWriteAt_b4 hm ha, State.unsplit hb]

theorem State.mapWriteAt_narrow {z : AccSize} (hw : words a z = none) (n : Nat) (v : Word) :
    s.mapWriteAt r a n z v = (if s.completes r a z = true then s else s.splitBuffer r).badAccess r n 2 true := by
  simp only [State.mapWriteAt, hm, hw, Bool.not_true, Bool.false_eq_true, if_false]

variable (hb : s.bufferOf r = none) (ha : a % 8 = 0)
include hb ha

theorem State.mapWriteAt_b8_wide {t : Target} (ht : s.spotOf r a = .reg t) (hw : t.reg.info.wide = true) (n : Nat) (v : Word) :
    s.mapWriteAt r a n .b8 v = s.writeReg r t.reg t.idx 0 v wholeMask := by
  simp only [State.mapWriteAt, hm, State.unsplit hb, words_b8 ha, ht, hw, Bool.not_true, Bool.false_eq_true, if_false, if_true]

theorem State.mapWriteAt_b8_pair {t : Target} (ht : s.spotOf r a = .reg t) (hw : t.reg.info.wide = false) (n : Nat) (v : Word) :
    s.mapWriteAt r a n .b8 v = (s.write4 r a n (v.toNat % 2 ^ 32)).write4 r (a + 4) (n + 4) (v.toNat / 2 ^ 32) := by
  simp only [State.mapWriteAt, hm, State.unsplit hb, words_b8 ha, ht, hw, Bool.not_true, Bool.false_eq_true, if_false]

end Answered

theorem State.write4_reg {t : Target} (ht : s.spotOf r a = .reg t) (n v : Nat) : s.write4 r a n v = s.writePart r t a v := by
  simp only [State.write4, ht]

theorem State.write4_nothing (ht : s.spotOf r a = .nothing) (n v : Nat) : s.write4 r a n v = s.badAccess r n 1 true := by
  simp only [State.write4, ht]

theorem State.write4_key (ht : s.spotOf r a = .key) (n v : Nat) : s.write4 r a n v = s.badAccess r n 3 true := by
  simp only [State.write4, ht]

variable {t : Target}

theorem State.writePart_narrow (hw : t.reg.info.wide = false) (v : Nat) :
    s.writePart r t a v = s.writeReg r t.reg t.idx 0 (BitVec.ofNat 64 v) lowMask := by
  simp only [State.writePart, hw, Bool.not_false, if_true]

theorem State.writePart_low (hw : t.reg.info.wide = true) (hh : t.high = false) (v : Nat) :
    s.writePart r t a v = s.setBuffer r (some (a, BitVec.ofNat 32 v)) := by
  simp only [State.writePart, hw, hh, Bool.not_true, Bool.not_false, Bool.false_eq_true, if_false, if_true]

theorem State.writePart_highAlone (hw : t.reg.info.wide = true) (hh : t.high = true) (hb : s.bufferOf r = none) (v : Nat) :
    s.writePart r t a v = s.writeReg r t.reg t.idx 4 (BitVec.ofNat 64 (2 ^ 32 * v)) (wholeMask - lowMask) := by
  simp only [State.writePart, hw, hh, hb, Bool.not_true, Bool.false_eq_true, if_false]

theorem State.writePart_completing (hw : t.reg.info.wide = true) (hh : t.high = true) {b : Nat} {low : BitVec 32}
    (hb : s.bufferOf r = some (b, low)) (hab : b + 4 = a) (v : Nat) :
    s.writePart r t a v = (s.setBuffer r none).writeReg r t.reg t.idx 0 (BitVec.ofNat 64 (low.toNat + 2 ^ 32 * v)) wholeMask := by
  simp only [State.writePart, hw, hh, hb, hab, Bool.not_true, Bool.false_eq_true, if_false, if_true]

end Writes

/-! ## Posted writes (R73) -/

theorem State.performSlow_posted {s : State} {b : SlowBlock} {w : SlowWrite} (h : s.bridge b = some w) :
    s.performSlow b = (s.setBridge b none).performWrite (Requester.ofCode w.requester) w.reg w.idx w.value w.mask := by
  rw [State.performSlow, h]

theorem State.performSlow_idle {s : State} {b : SlowBlock} (h : s.bridge b = none) : s.performSlow b = s := by
  rw [State.performSlow, h]

/-- Settles O13: the width and the buffered half choose the access, and what the address names says what it does. -/
theorem controlMapWrites : Obligations.ControlMapWrites := by
  unfold Obligations.ControlMapWrites
  refine ⟨?narrow, ?whole, ?pair, ?low, ?completing, ?highAlone, ?width, ?unmapped, ?split,
    fun s b w h => congrArg Host.Outcome.next (State.performSlow_posted h), fun s b h => congrArg Host.Outcome.next (State.performSlow_idle h)⟩
  case narrow =>
    intro s r a v t hm h0 h1 hb ha ht hw
    rw [exec_registerWrite_ofMap h0 h1, State.mapWriteAt_b4_empty hm hb ha, State.write4_reg ht, State.writePart_narrow hw]
  case whole =>
    intro s r a v t hm h0 h1 hb ha ht hw
    rw [exec_registerWrite_ofMap h0 h1, State.mapWriteAt_b8_wide hm hb ha ht hw]
  case pair =>
    intro s r a v t hm h0 h1 hb ha ht hw
    rw [exec_registerWrite_ofMap h0 h1, State.mapWriteAt_b8_pair hm hb ha ht hw]
  case low =>
    intro s r a v t hm h0 h1 hb ha ht hw hh
    rw [exec_registerWrite_ofMap h0 h1, State.mapWriteAt_b4_empty hm hb ha, State.write4_reg ht, State.writePart_low hw hh]
  case completing =>
    intro s r a v t b low hm h0 h1 hb hab ha ht hw hh
    rw [exec_registerWrite_ofMap h0 h1, State.mapWriteAt_b4 hm ha, if_pos (State.completes_match hb hab), State.write4_reg ht,
      State.writePart_completing hw hh hb hab]
  case highAlone =>
    intro s r a v t hm h0 h1 hb ha ht hw hh
    rw [exec_registerWrite_ofMap h0 h1, State.mapWriteAt_b4_empty hm hb ha, State.write4_reg ht, State.writePart_highAlone hw hh hb]
  case width =>
    intro s r a z v hm h0 h1 hb hw
    rw [exec_registerWrite_ofMap h0 h1, State.mapWriteAt_narrow hm hw, State.unsplit hb]
  case unmapped =>
    intro s r a v hm h0 h1 hb ha ht
    rw [exec_registerWrite_ofMap h0 h1, State.mapWriteAt_b4_empty hm hb ha, State.write4_nothing ht]
  case split =>
    intro s r a z v b low hm h0 h1 hb hz hw
    rw [exec_registerWrite_ofMap h0 h1, State.mapWriteAt_narrow hm hw, if_neg (Bool.eq_false_iff.mp (State.completes_other hb hz)),
      State.splitBuffer_held hb]

end Sys2Proof.Machine
end

section
/-! PROOF. Reads of the control map (R63, R66, R67, R69, R70, R75), and accesses of its reserved addresses (R63, R84). -/

namespace Sys2Proof.Machine

/-! ## What a read meets on its way (R75, R77) -/

/-- A register behind no slow bridge, in no switched domain and counting nothing of the medium is read on the state as it is. -/
theorem State.approach_direct (s : State) {reg : RegName} {i : Nat} (hb : bridgeOf reg = none) (hd : State.domainOfReg reg i = none)
    (hc : countsWire reg = false) : s.approach reg i = s := by
  simp only [State.approach, State.touchReg, State.countWire, hb, hd, hc, Bool.false_eq_true, if_false]

/-- A register of no switched domain is never off. -/
theorem State.regOff_undomained (s : State) {reg : RegName} {i : Nat} (hd : State.domainOfReg reg i = none) : s.regOff reg i = false := by
  simp only [State.regOff, hd]

/-- A read waits for the domain of the register its address names, and for no other. -/
theorem State.readWaits_none {s : State} {r : Requester} {a : Nat} (h : ∀ t, s.targetOf r a = some t → s.sleepingAt t.reg t.idx = none)
    (z : AccSize) : s.readWaits r a z = none := by
  rw [State.readWaits, Option.bind_eq_none_iff]
  intro t ht
  unfold State.reads at ht
  exact h t (Option.ite_none_right_eq_some.mp ht).2

section OfMap
variable {s : State} {r : Requester} {a : Nat} (h0 : ∀ h l, r ≠ .pf0 h l) (h1 : ∀ n, r ≠ .slice n)
include h0 h1

/-- The value of a read that waits for no domain is seen at once. -/
theorem State.readOut_ofMap (hw : ∀ z, s.readWaits r a z = none) (z : AccSize) :
    s.readOut r a z = (s.mapReadAt r a a z).2.emit (.value r.code a (s.mapReadAt r a a z).1) := by
  simp only [State.readOut, hw z, State.mapRead_ofMap h0 h1]

theorem State.readWaits_undomained {t : Target} (ht : s.spotOf r a = .reg t) (hd : State.domainOfReg t.reg t.idx = none) (z : AccSize) :
    s.readWaits r a z = none := by
  refine State.readWaits_none (fun x hx => ?_) z
  obtain rfl : t = x := Option.some.inj ((State.targetOf_reg h0 h1 ht).symm.trans hx)
  exact s.sleepingAt_none hd

theorem State.readWaits_nothing (ht : s.spotOf r a = .nothing) (z : AccSize) : s.readWaits r a z = none := by
  refine State.readWaits_none (fun x hx => ?_) z
  rw [State.targetOf_nothing h0 h1 ht] at hx
  cases hx

end OfMap

/-! ## Reads of the control map, no half being buffered (R63, R67) -/

section Reads
variable {s : State} {r : Requester} {a : Nat}

section Answered
variable (hm : s.mapAnswers = true) (hb : s.bufferOf r = none)
include hm hb

theorem State.mapReadAt_b4 (ha : a % 4 = 0) (n : Nat) :
    s.mapReadAt r a n .b4 = (BitVec.ofNat 64 (s.read4 r a n).1, (s.read4 r a n).2) := by
  simp only [State.mapReadAt, hm, State.splitBuffer_empty hb, words_b4 ha, Bool.not_true, Bool.false_eq_true, if_false]

theorem State.mapReadAt_b8_wide (ha : a % 8 = 0) {t : Target} (ht : s.spotOf r a = .reg t) (hw : t.reg.info.wide = true) (n : Nat) :
    s.mapReadAt r a n .b8 = s.readWide r t.reg t.idx := by
  simp only [State.mapReadAt, hm, State.splitBuffer_empty hb, words_b8 ha, ht, hw, Bool.not_true, Bool.false_eq_true, if_false, if_true]

end Answered

theorem State.read4_reg {t : Target} (ht : s.spotOf r a = .reg t) (n : Nat) : s.read4 r a n = s.readPart r t a := by
  simp only [State.read4, ht]

theorem State.read4_nothing (ht : s.spotOf r a = .nothing) (n : Nat) : s.read4 r a n = (0, s.badAccess r n 1 false) := by
  simp only [State.read4, ht]

/-! A register reached directly: behind no bridge, in no switched domain, and no counter of the medium. -/

section Direct
variable {t : Target} (hbr : bridgeOf t.reg = none) (hd : State.domainOfReg t.reg t.idx = none) (hc : countsWire t.reg = false)
include hbr hd hc

theorem State.readWide_direct : s.readWide r t.reg t.idx = (s.readReg r t.reg t.idx, s.readEffect r t.reg t.idx true true) := by
  simp only [State.readWide, s.approach_direct hbr hd hc, s.regOff_undomained hd, Bool.false_eq_true, if_false]

variable (hw : t.reg.info.wide = true)
include hw

theorem State.readPart_low (hh : t.high = false) :
    s.readPart r t a = ((s.readReg r t.reg t.idx).toNat % 2 ^ 32,
      (s.readEffect r t.reg t.idx true false).setLatch r (some (a, BitVec.ofNat 32 ((s.readReg r t.reg t.idx).toNat / 2 ^ 32)))) := by
  simp only [State.readPart, s.approach_direct hbr hd hc, s.regOff_undomained hd, hw, hh, Bool.not_true, Bool.not_false, Bool.false_eq_true,
    if_false, if_true]

theorem State.readPart_high (hh : t.high = true) {b : Nat} {h : BitVec 32} (hl : s.latchOf r = some (b, h)) :
    s.readPart r t a = if b + 4 = a then (h.toNat, (s.readEffect r t.reg t.idx false true).setLatch r none)
      else ((s.readReg r t.reg t.idx).toNat / 2 ^ 32, s.readEffect r t.reg t.idx false true) := by
  simp only [State.readPart, s.approach_direct hbr hd hc, s.regOff_undomained hd, hw, hh, hl, Bool.not_true, Bool.false_eq_true, if_false]

end Direct

end Reads

/-! ## Counters that clear on read (R69, R70) -/

/-- The registers whose read does something other than clear a counter of their own. -/
def ownReadEffect : List RegName := [.PRT_TX_TS_TAG, .MGT_TIME_NOW, .MGT_PPS_CAPTURE, .SWC_CTR_FRAMES, .SWC_CTR_OCTETS]

section Counter
variable {reg : RegName} (hrc : reg.info.fields.all (fun f => f.access == .RC) = true)
include hrc

/-- A whole read of a counter by a requester other than PF0 clears it: MGT_TOD_DATA lies behind a bridge, and CBD_SLOT_TAKE is no counter. -/
theorem State.readEffect_counter (s : State) {r : Requester} {i : Nat} (h0 : ∀ h l, r ≠ .pf0 h l) (hn : reg ∉ ownReadEffect)
    (hb : bridgeOf reg = none) : s.readEffect r reg i true true = s.setCtr reg i 0 := by
  unfold State.readEffect
  split
  · exact absurd rfl (h0 _ _)
  · split
    case h_8 => rw [hrc, Bool.and_true, if_pos rfl]
    case h_4 => exact absurd hb (by decide)
    case h_7 => exact absurd hrc (by decide)
    all_goals exact absurd (by decide) hn

/-- Counts that arrive in the cycle of a counter's clearing read stand as the first after it. -/
theorem State.countArriving_counter (s : State) {r : Requester} {t : Target} (ht : t.reg = reg) (hn : reg ∉ ownReadEffect) (n : Nat) :
    s.countArriving r t n = s.bumpBy t.reg t.idx n := by
  subst ht
  unfold State.countArriving
  split
  case h_3 => rw [if_pos hrc]
  all_goals next h => exact absurd (by rw [h]; decide) hn

end Counter

/-! ## Slow reads (R75) -/

/-- A slow read that gets no data from an idle bridge is recorded, and returns all ones. -/
theorem State.slowReadFails_b4 {s : State} {r : Requester} {a : Nat} {t : Target} {b : SlowBlock} (hr : s.readsReach r = true)
    (ha : a % 4 = 0) (ht : s.targetOf r a = some t) (hbr : bridgeOf t.reg = some b) (hb : s.bufferOf r = none) (hi : s.bridge b = none) :
    s.slowReadFails r a false = ((s.setReg (bridgeStatus b) 0
      (BitVec.ofNat 64 (setBits (s.reg (bridgeStatus b) 0).toNat 2 1 1))).badAccess r a 5 false).emit (.value r.code a (allOnes .b4)) := by
  simp only [State.slowReadFails, ht, hbr, hr, words_b4 ha, State.splitBuffer_empty hb, State.performSlow_idle hi, Bool.not_true, Option.isNone_some,
    Bool.or_self, Bool.false_eq_true, if_false]

/-- Settles O14: the half asked for, and the requester's latch, choose what a 32-bit read returns; a whole read of a counter clears it. -/
theorem controlMapReads : Obligations.ControlMapReads := by
  unfold Obligations.ControlMapReads
  refine ⟨?low, ?high, ?counter, ?slow⟩
  case low =>
    intro s r a t hm h0 h1 hb ha ht hw hbr hd hc hh
    refine congrArg Host.Outcome.next ((State.readOut_ofMap h0 h1 (State.readWaits_undomained h0 h1 ht hd) .b4).trans ?_)
    rw [State.mapReadAt_b4 hm hb ha, State.read4_reg ht, State.readPart_low hbr hd hc hw hh]
  case high =>
    intro s r a t b h hm h0 h1 hb ha ht hw hbr hd hc hh hl
    refine congrArg Host.Outcome.next ((State.readOut_ofMap h0 h1 (State.readWaits_undomained h0 h1 ht hd) .b4).trans ?_)
    rw [State.mapReadAt_b4 hm hb ha, State.read4_reg ht, State.readPart_high hbr hd hc hw hh hl]
    split <;> rfl
  case counter =>
    intro s r a n t hm h0 h1 hb ha ht htt hw hbr hd hc hn hrc
    have hread : s.readOut r a.toNat .b8 = (s.setCtr t.reg t.idx 0).emit (.value r.code a.toNat (s.readReg r t.reg t.idx)) := by
      rw [State.readOut_ofMap h0 h1 (State.readWaits_undomained h0 h1 ht hd), State.mapReadAt_b8_wide hm hb ha ht hw,
        State.readWide_direct hbr hd hc, State.readEffect_counter hrc s h0 hn hbr]
    have hcount : s.counterRead r a.toNat true n.toNat = (s.readOut r a.toNat .b8).countArriving r t n.toNat := by
      simp only [State.counterRead, htt, if_true]
    exact congrArg Host.Outcome.next (by rw [hcount, hread, State.countArriving_counter hrc _ rfl hn])
  case slow =>
    exact fun s r a t b hr ha ht hbr hb hi => congrArg Host.Outcome.next (State.slowReadFails_b4 hr ha ht hbr hb hi)

/-! ## Reserved addresses (R63, R84) -/

section Reserved
variable {s : State} {r : Requester} {a : Nat} (hm : s.mapAnswers = true) (hb : s.bufferOf r = none) (ht : s.spotOf r a = .nothing)

/-- Both halves of a 64-bit access are refused, and the lower one gives the cause. -/
theorem State.pairRefused_nothing (ht : s.spotOf r a = .nothing) (hu : s.spotOf r (a + 4) = .nothing) : s.pairRefused r a = some 1 := by
  rw [State.pairRefused, ht, hu]; rfl

include hm hb ht

theorem State.mapReadAt_b4_nothing (ha : a % 4 = 0) (n : Nat) : s.mapReadAt r a n .b4 = (0, s.badAccess r n 1 false) := by
  rw [State.mapReadAt_b4 hm hb ha, State.read4_nothing ht]; rfl

variable (hu : s.spotOf r (a + 4) = .nothing) (ha : a % 8 = 0)
include hu ha

theorem State.mapReadAt_b8_nothing (n : Nat) : s.mapReadAt r a n .b8 = (0, s.badAccess r n 1 false) := by
  simp only [State.mapReadAt, hm, State.splitBuffer_empty hb, words_b8 ha, State.pairRefused_nothing ht hu, ht, Bool.not_true,
    Bool.false_eq_true, if_false]

theorem State.mapWriteAt_b8_nothing (n : Nat) (v : Word) : s.mapWriteAt r a n .b8 v = s.badAccess r n 1 true := by
  simp only [State.mapWriteAt, hm, State.unsplit hb, words_b8 ha, State.pairRefused_nothing ht hu, ht, Bool.not_true,
    Bool.false_eq_true, if_false]

end Reserved

/-- With an access error latched, another is counted alone. -/
theorem State.badAccess_latched {s : State} (h : s.flagAt Fld.SYS_BAD_ACCESS_VALID 0 = true) (r : Requester) (n c : Nat) (w : Bool) :
    s.badAccess r n c w = s.bump .SYS_BAD_ACCESS_COUNT 0 := if_pos h

/-- Settles O55: an address that means nothing is refused as UNMAPPED, and both halves of one that means nothing as one error. -/
theorem reservedAddresses : Obligations.ReservedAddresses := by
  unfold Obligations.ReservedAddresses
  refine ⟨fun s r a hm h0 h1 hb ht => ?read, fun s r a v hm h0 h1 hb ht => ⟨fun ha => ?_, fun ha hu => ?_⟩,
    fun s r n c w h => State.badAccess_latched h r n c w⟩
  case read =>
    have hread := State.readOut_ofMap h0 h1 (State.readWaits_nothing h0 h1 ht)
    refine ⟨fun ha => congrArg Host.Outcome.next ((hread .b4).trans ?_), fun n ha hu => congrArg Host.Outcome.next ?_⟩
    · rw [State.mapReadAt_b4_nothing hm hb ht ha]
    · have hcount : s.counterRead r a.toNat true n.toNat = s.readOut r a.toNat .b8 := by
        simp only [State.counterRead, State.targetOf_nothing h0 h1 ht, if_true]
      rw [hcount, hread, State.mapReadAt_b8_nothing hm hb ht hu ha]
  · rw [exec_registerWrite_ofMap h0 h1, State.mapWriteAt_b4_empty hm hb ha, State.write4_nothing ht]
  · rw [exec_registerWrite_ofMap h0 h1, State.mapWriteAt_b8_nothing hm hb ht hu ha]

end Sys2Proof.Machine
end

section
/-! PROOF. Who may write what (R84, R86, R398, R412 to R414): the checks of a write in turn, and what a refusal records. -/

namespace Sys2Proof.Machine

/-! ## The checks of a write -/

/-- With no claim in its last cycle, the gates test the roles as they stand (R415). -/
theorem State.gatePasses_settled {s : State} (h : s.rdn.before = []) (u : Nat) : s.gatePasses u = s.isLead u := by
  simp only [State.gatePasses, h, List.find?_nil]

/-- A register of no switched domain is reached without a trace. -/
theorem State.regReached_undomained (s : State) {reg : RegName} {i : Nat} (hd : State.domainOfReg reg i = none) :
    s.regReached reg i = (true, s) := by
  simp only [State.regReached, s.regOff_undomained hd, State.touchReg, hd, Bool.false_eq_true, if_false]

section Admitted
variable {s : State} {reg : RegName} (hm : s.mapAnswers = true)
include hm

section Cpc
variable {u : Fin 2} {c : Fin 4}

theorem State.admitChecked_lead (hl : s.isLead u.val = true) (hr : s.rdn.before = []) (hk : reg.info.block ≠ .KEY)
    (hbr : bridgeOf reg = none) {i : Nat} (hd : State.domainOfReg reg i = none) (o : Nat) : s.admitChecked (.cpc u c) reg i o = (true, s) := by
  have hdrop : s.understudyDrops (.cpc u c) reg.info.block = false := by simp only [State.understudyDrops, hl, Bool.not_true, Bool.false_and]
  have hlead : s.fromLead (.cpc u c) = true := hl
  have hgate : s.gateAccepts (.cpc u c) = true := (State.gatePasses_settled hr u.val).trans hl
  simp only [State.admitChecked, hm, beq_false_of_ne hk, hdrop, hlead, hgate, hbr, s.regReached_undomained hd, Bool.not_true, Bool.false_and,
    Bool.and_false, Bool.false_eq_true, if_false]
  split <;> rfl

theorem State.admitChecked_understudy (hl : s.isLead u.val = false) (hb : reg.info.block ∉ [Block.KEY, .RDN, .CBD, .LOCAL]) (i o : Nat) :
    s.admitChecked (.cpc u c) reg i o = (false, s.bump .RDN_UNDERSTUDY_DROP 0) := by
  simp only [List.mem_cons, List.not_mem_nil, or_false, not_or] at hb
  obtain ⟨hkey, hrdn, hcbd, hlocal⟩ := hb
  have hdrop : s.understudyDrops (.cpc u c) reg.info.block = true := by
    simp only [State.understudyDrops, hl, bne_iff_ne.mpr hrdn, bne_iff_ne.mpr hcbd, bne_iff_ne.mpr hlocal, Bool.not_false, Bool.and_self]
  simp only [State.admitChecked, hm, beq_false_of_ne hkey, hdrop, Bool.not_true, Bool.false_and, Bool.false_eq_true, if_false, if_true]

end Cpc

theorem State.admitChecked_troupeRefused {n : Fin 8} {k t : Fin 16} (hk : reg.info.block ≠ .KEY) (hl : leadOnly reg = false) {g : Nat}
    (hg : gateOf reg = some g) (hc : s.flagAt Fld.TRP_CLUSTER_CFG_CTRL_WRITE n.val = false) (i o : Nat) :
    s.admitChecked (.troupe n k t) reg i o = (false, s.gateRefused (.troupe n k t) g (addrOf reg i + o)) := by
  have hdrop : s.understudyDrops (.troupe n k t) reg.info.block = false := rfl
  have hgate : s.gateAccepts (.troupe n k t) = false := by simp only [State.gateAccepts, hc, Bool.false_and]
  simp only [State.admitChecked, hm, beq_false_of_ne hk, hdrop, hl, hg, hgate, Bool.not_true, Bool.not_false, Bool.false_and, Bool.false_eq_true,
    if_false, if_true]

/-- PF0 may write no register but its own port's link control (R86). -/
theorem State.admitChecked_pf0Refused {h : Fin 16} {i : Nat} (hd : s.dev.state ≠ .LOADING) (hp : pf0Writes h.val reg i = false) (l : Fin 4)
    (o : Nat) : s.admitChecked (.pf0 h l) reg i o =
      (false, s.badAccess (.pf0 h l) (shownAddr (.pf0 h l) (addrOf reg i + o)) 6 true) := by
  simp only [State.admitChecked, hm, beq_false_of_ne hd, hp, Bool.not_true, Bool.false_eq_true, if_false]

end Admitted

/-- A write that the checks refuse leaves what they recorded. -/
theorem State.writeReg_refused {s u : State} {r : Requester} {reg : RegName} {i o : Nat} (h : s.admitChecked r reg i o = (false, u))
    (v m : Word) : s.writeReg r reg i o v m = u := by
  rw [State.writeReg, h]; exact if_neg Bool.false_ne_true

/-! ## What a refusing gate records (R413) -/

section Gate
variable (s : State) (r : Requester) (g a : Nat)

/-- The latch of a gate's refusals is a register, so a count leaves it as it was. -/
theorem State.flagAt_bump (q : RegName) (i : Nat) (f : FieldPos) (j : Nat) : (s.bump q i).flagAt f j = s.flagAt f j := by
  rw [State.flagAt, State.flagAt, State.fld_congr (s.bump_regs q i)]

theorem State.gateRefused_latched (h : s.flagAt Fld.RDN_REFUSED_LAST_VALID 0 = true) :
    s.gateRefused r g a = s.bump .RDN_GATE_REFUSED g := if_pos ((s.flagAt_bump ..).trans h)

theorem State.gateRefused_free (h : s.flagAt Fld.RDN_REFUSED_LAST_VALID 0 = false) :
    s.gateRefused r g a = (s.bump .RDN_GATE_REFUSED g).setReg .RDN_REFUSED_LAST 0
      (BitVec.ofNat 64 (a % 2 ^ 32 + r.code * 2 ^ 32 + g * 2 ^ 48 + 2 ^ 63)) :=
  if_neg (Bool.eq_false_iff.mp ((s.flagAt_bump ..).trans h))

theorem State.gateRefused_ctrs : (s.gateRefused r g a).ctrs = (s.bump .RDN_GATE_REFUSED g).ctrs := by
  cases h : s.flagAt Fld.RDN_REFUSED_LAST_VALID 0 with
  | true => rw [s.gateRefused_latched r g a h]
  | false => rw [s.gateRefused_free r g a h]; exact State.setReg_ctrs ..

end Gate

/-! ## The KEY block (R84) -/

theorem blockAt_range {a : Nat} {b : Block} (h : blockAt a = some b) : b.range.1 ≤ a ∧ a ≤ b.range.2 :=
  of_decide_eq_true (List.find?_some (p := fun b : Block => decide (b.range.1 ≤ a ∧ a ≤ b.range.2)) h)

/-- An address of the KEY block names its memory to no requester but a vault. -/
theorem State.spotOf_key (s : State) {r : Requester} {a : Nat} (hr : ∀ u, r ≠ .vault u) (hk : blockAt a = some .KEY) : s.spotOf r a = .key := by
  have ha : ¬0x80000000 ≤ a := Nat.not_le.mpr (Nat.lt_of_le_of_lt (blockAt_range hk).2 (by decide))
  unfold State.spotOf
  rw [if_neg ha]
  cases r with
  | vault u => exact absurd rfl (hr u)
  | _ => exact if_pos (by rw [hk]; rfl)

/-- Settles O15: each clause is one check of a write, or the record of its refusal. -/
theorem commitGates : Obligations.CommitGates := by
  unfold Obligations.CommitGates
  refine ⟨fun s u c reg i hm hl hr hk hbr hd o => State.admitChecked_lead hm hl hr hk hbr hd o,
    fun s u c reg i hm hl hb o => State.admitChecked_understudy hm hl hb i o, ?understudy,
    fun s n k t reg i g hm hk hl hg hc o => State.admitChecked_troupeRefused hm hk hl hg hc i o, ?gate, ?key,
    fun s h l reg i hm hd hp o => State.admitChecked_pf0Refused hm hd hp l o⟩
  case understudy =>
    intro s u c a v t hm hl hb ha ht hw hblock
    rw [exec_registerWrite_ofMap (by simp) (by simp), State.mapWriteAt_b4_empty hm hb ha, State.write4_reg ht, State.writePart_narrow hw,
      State.writeReg_refused (State.admitChecked_understudy hm hl hblock _ _)]
  case gate =>
    intro s r g a hc
    refine ⟨?_, fun h => ?_, fun h => ?_⟩
    · rw [State.ctr_congr (s.gateRefused_ctrs r g a)]
      exact State.ctr_bump_self (State.canonical_ctrs hc) ..
    · rw [s.gateRefused_latched r g a h, State.bump_regs]
    · rw [s.gateRefused_free r g a h, State.reg_setReg_self]
      rw [State.bump_regs]
      exact State.canonical_regs hc
  case key =>
    intro s r a v hm h0 h1 hv hk ha hb
    rw [exec_registerWrite_ofMap h0 h1, State.mapWriteAt_b4_empty hm hb ha, State.write4_key (s.spotOf_key hv hk)]

end Sys2Proof.Machine
end

section
/-! PROOF. Voted fields (R80 to R83): the copies of a field after an upset, and what a comparison finds in them. -/

namespace Sys2Proof.Machine

/-! ## The three copies of a field -/

/-- A field whose copies are alike holds its value three times. -/
theorem State.copiesOf_like {s : State} {f : FieldAt} (h : ∀ y ∈ s.vote.differ, y.at_ ≠ f) :
    s.copiesOf f = Vector.replicate 3 (s.votedValue f) := by
  have hfind : s.vote.differ.find? (fun y => y.at_ == f) = none :=
    List.find?_eq_none.mpr (fun y hy => by rw [beq_iff_eq]; exact h y hy)
  rw [State.copiesOf, hfind]; rfl

/-- An upset replaces one copy of its field. -/
theorem State.copiesOf_upset (s : State) (f : FieldAt) (c : Fin 3) (x : Word) :
    (s.upset f c x).copiesOf f = (s.copiesOf f).set c.val x c.isLt := by
  have hold : (s.vote.differ.filter (fun y => y.at_ != f)).find? (fun y => y.at_ == f) = none :=
    List.find?_eq_none.mpr (fun y hy => by simpa using (List.mem_filter.mp hy).2)
  have hfind : (s.upset f c x).vote.differ.find? (fun y => y.at_ == f) = some ⟨f, (s.copiesOf f).set c.val x c.isLt⟩ := by
    rw [State.upset, List.find?_append, hold, List.find?_singleton, beq_self_eq_true]; rfl
  rw [State.copiesOf, hfind]; rfl

/-! ## What a comparison finds (R81, R83) -/

/-- All three copies hold one word. -/
def allAgree (v : Vector Word 3) : Bool := v[0] == v[1] && v[1] == v[2]

/-- Two copies at least hold one word. -/
def twoAgree (v : Vector Word 3) : Bool := v[0] == v[1] || v[0] == v[2] || v[1] == v[2]

/-- Where no two copies agree, not all three do. -/
theorem allAgree_of_twoAgree {v : Vector Word 3} (h : twoAgree v = false) : allAgree v = false := by
  simp only [twoAgree, Bool.or_eq_false_iff] at h
  obtain ⟨⟨h01, -⟩, -⟩ := h
  rw [allAgree, h01, Bool.false_and]

theorem State.compareVoted_eq {s : State} {f : FieldAt} {v : Vector Word 3} (hv : s.copiesOf f = v) :
    s.compareVoted f = if (s.vote.broken.contains f || allAgree v) = true then s
      else if twoAgree v = true then s.correctVoted f else s.breakVoted f := by
  subst hv; rfl

section Compare
variable {s : State} {f : FieldAt} {v : Vector Word 3} (hv : s.copiesOf f = v) (hb : s.vote.broken.contains f = false)
include hv hb

theorem State.compareVoted_corrects (ha : allAgree v = false) (ht : twoAgree v = true) : s.compareVoted f = s.correctVoted f := by
  rw [State.compareVoted_eq hv, hb, ha, ht, Bool.or_self, if_neg Bool.false_ne_true, if_pos rfl]

theorem State.compareVoted_breaks (ht : twoAgree v = false) : s.compareVoted f = s.breakVoted f := by
  rw [State.compareVoted_eq hv, hb, allAgree_of_twoAgree ht, ht, Bool.or_self, if_neg Bool.false_ne_true, if_neg Bool.false_ne_true]

end Compare

section Words
variable {v x : Word} (hx : x ≠ v)
include hx

/-- One copy replaced leaves the other two alike, whichever it is. -/
theorem oneUpset_agree (c : Fin 3) :
    allAgree ((Vector.replicate 3 v).set c.val x c.isLt) = false ∧ twoAgree ((Vector.replicate 3 v).set c.val x c.isLt) = true := by
  have hxv := beq_false_of_ne hx
  have hvx := beq_false_of_ne hx.symm
  match c with
  | 0 => simp [allAgree, twoAgree, hxv]
  | 1 => simp [allAgree, twoAgree, hvx]
  | 2 => simp [allAgree, twoAgree, hvx]

/-- Two copies replaced by words that differ leave no two alike. -/
theorem twoUpsets_disagree {y : Word} (hy : y ≠ v) (hxy : x ≠ y) :
    twoAgree (((Vector.replicate 3 v).set 1 x).set 2 y) = false := by
  simp [twoAgree, hx.symm, hy.symm, hxy]

end Words

/-! ## A three-way disagreement (R83) -/

/-- The field marked as in three-way disagreement: it reads zero from now on. -/
def State.markBroken (s : State) (f : FieldAt) : State := { s with vote := { s.vote with broken := s.vote.broken ++ [f] } }

theorem State.markBroken_contains (s : State) (f : FieldAt) : (s.markBroken f).vote.broken.contains f = true :=
  List.contains_iff_mem.mpr (List.mem_append_right _ List.mem_cons_self)

theorem State.breakVoted_device (s : State) {f : FieldAt} {j : Nat} (h : fieldScope f = some (.device, j)) :
    s.breakVoted f = (s.markBroken f).fatal (deviceCauseOf 4) 4 .registerGroup (groupIndex (votePage f.pos f.idx)) 0 := by
  simp only [State.breakVoted, h]; rfl

theorem State.breakVoted_contained (s : State) {f : FieldAt} (hd : ∀ j, fieldScope f ≠ some (.device, j))
    (hk : ∀ j, fieldScope f ≠ some (.key, j)) :
    s.breakVoted f = (s.markBroken f).elementError
      { cls := .contained, kind := .registerGroup, index := groupIndex (votePage f.pos f.idx), cause := 4, scope := fieldScope f, detail := 0,
        hit := .nothing } := by
  unfold State.breakVoted
  split
  · next j h => exact absurd h (hd j)
  · next j h => exact absurd h (hk j)
  · rfl

/-! ## The commands -/

/-- A write in the cycle of an upset stores all three copies, so nothing is compared. -/
theorem exec_voteOneDisagree_written (s : State) (f : FieldPos) (i : Nat) (c : Upset) : exec (.voteOneDisagree f i c true) s = .next s :=
  congrArg Host.Outcome.next (ite_self s)

section Vote
variable {s : State} {f : FieldPos} {i : Nat} (hf : votedField f i = true) (hb : s.vote.broken.contains ⟨f.reg, i, f.lo⟩ = false)
  (ho : s.dev.state ≠ .OFF)
include hf hb ho

theorem exec_voteOneDisagree_compared (c : Fin 3) (x : Word) :
    exec (.voteOneDisagree f i ⟨c, x⟩ false) s = .next ((s.upset ⟨f.reg, i, f.lo⟩ c x).compareVoted ⟨f.reg, i, f.lo⟩) := by
  have hvote : s.voteOne f i c x false = (s.upset ⟨f.reg, i, f.lo⟩ c x).compareVoted ⟨f.reg, i, f.lo⟩ := by
    simp only [State.voteOne, hb, beq_false_of_ne ho, Bool.or_self, Bool.false_eq_true, if_false]
  exact congrArg Host.Outcome.next ((if_pos hf).trans hvote)

theorem exec_voteThreeDisagree_compared (x y : Word) :
    exec (.voteThreeDisagree f ⟨i, x, y⟩) s =
      .next (((s.upset ⟨f.reg, i, f.lo⟩ 1 x).upset ⟨f.reg, i, f.lo⟩ 2 y).compareVoted ⟨f.reg, i, f.lo⟩) := by
  have hvote : s.voteThree f i x y = ((s.upset ⟨f.reg, i, f.lo⟩ 1 x).upset ⟨f.reg, i, f.lo⟩ 2 y).compareVoted ⟨f.reg, i, f.lo⟩ := by
    simp only [State.voteThree, hb, beq_false_of_ne ho, Bool.or_self, Bool.false_eq_true, if_false]
  exact congrArg Host.Outcome.next ((if_pos hf).trans hvote)

end Vote

/-- Settles O16: an upset of like copies leaves two of them alike, and one of two copies by unlike words none; a scrub compares. -/
theorem votedFields : Obligations.VotedFields := by
  unfold Obligations.VotedFields
  refine ⟨?one, fun s f i c x _ => exec_voteOneDisagree_written s f i ⟨c, x⟩, ?scrub, fun s => ?background, ?three⟩
  case one =>
    rintro s _ f i c x hf hb ho hd hx rfl
    have hcopies := (s.copiesOf_upset ⟨f.reg, i, f.lo⟩ c x).trans (by rw [State.copiesOf_like hd])
    obtain ⟨ha, ht⟩ := oneUpset_agree hx c
    rw [exec_voteOneDisagree_compared hf hb ho, State.compareVoted_corrects hcopies hb ha ht]
    rfl
  case scrub =>
    rintro s _ page hs rfl
    exact congrArg Host.Outcome.next (if_pos hs)
  case background =>
    refine congrArg Host.Outcome.next ?_
    rw [State.scrubFields, List.filter_true]
  case three =>
    intro s f i x y hf hb ho hd hx hy hxy
    have hcopies : ((s.upset ⟨f.reg, i, f.lo⟩ 1 x).upset ⟨f.reg, i, f.lo⟩ 2 y).copiesOf ⟨f.reg, i, f.lo⟩ =
        ((Vector.replicate 3 (s.votedValue ⟨f.reg, i, f.lo⟩)).set 1 x).set 2 y := by
      rw [State.copiesOf_upset, State.copiesOf_upset, State.copiesOf_like hd]; rfl
    have ht := twoUpsets_disagree hx hy hxy
    refine ⟨_, _, _, ?_, rfl, rfl, State.markBroken_contains _ _, fun j hj => State.breakVoted_device _ hj, ?_⟩
    · rw [exec_voteThreeDisagree_compared hf hb ho, State.compareVoted_breaks hcopies hb ht]
    · rintro _ rfl hdev hkey
      exact State.breakVoted_contained _ hdev hkey

end Sys2Proof.Machine
end

section
/-! PROOF. Admitted writes of the PRT, OPT and MGT registers, as their blocks see them (R7, R116, R117, R208). -/

namespace Sys2Proof.Machine

/-- The write of a register as its block sees it. -/
def State.writeSeen (s : State) (reg : RegName) (i : Nat) (value mask : Word) : RegWrite :=
  { reg := reg, idx := i, old := s.reg reg i, new := BitVec.ofNat 64 (plainWritten reg.info.fields (s.reg reg i).toNat value.toNat mask.toNat),
    w := value &&& mask, mask := mask }

section Block
variable (s : State) (r : Requester) {reg : RegName}

theorem State.performWrite_opt (hb : reg.info.block = .OPT) (hn : reg ≠ .OPT_BRIDGE_STATUS) (i : Nat) (value mask : Word) :
    s.performWrite r reg i value mask = s.writeOpt (s.writeSeen reg i value mask) := by
  simp only [State.performWrite, hb, beq_false_of_ne hn, Bool.false_eq_true, if_false]; rfl

theorem State.performWrite_prt (hb : reg.info.block = .PRT) (i : Nat) (value mask : Word) :
    s.performWrite r reg i value mask = s.writePrt (s.writeSeen reg i value mask) := by
  simp only [State.performWrite, hb]; rfl

theorem State.performWrite_mgt (hb : reg.info.block = .MGT) (i : Nat) (value mask : Word) :
    s.performWrite r reg i value mask = s.writeSlow r (s.writeSeen reg i value mask) := by
  simp only [State.performWrite, hb]; rfl

end Block

/-- A field that a 32-bit write of its register takes whole. -/
theorem State.writeSeen_low (s : State) {reg : RegName} {f : FieldInfo} (hd : reg.info.fields.Pairwise FieldInfo.apart)
    (hf : f ∈ reg.info.fields) (ha : f.access = .RW ∨ f.access = .RWV) (hw : f.lo + f.width ≤ 32) (i : Nat) (v : BitVec 32) :
    fieldOf (s.writeSeen reg i (v.setWidth 64) lowMask).new f.lo f.width = bits v.toNat f.lo f.width := by
  have h := low_at hd hf ha hw (s.reg reg i).toNat (v.setWidth 64).toNat
  rwa [toNat_setWidth v] at h

/-- A register outside the switched domains takes an admitted write at once. -/
theorem State.directWrite_undomained {s u : State} {r : Requester} {reg : RegName} {i : Nat} (h : s.admitWrite r reg i = (true, u))
    (hd : State.domainOfReg reg i = none) (v m : Word) : s.directWrite r reg i v m = u.performWrite r reg i v m :=
  State.directWrite_of h (u.sleepingAt_none hd) v m

end Sys2Proof.Machine
end

section
/-! PROOF. The optical engines (R88, R89, R91, R106): the placement rules of a lane plan, and what an admitted write of OPT_ENGINE_PLAN or
OPT_LB_CELLS does. -/

namespace Sys2Proof.Machine

/-! ## Lane plans (R88, R89) -/

theorem placed_iff (n j : Nat) : placed n j = true ↔ planType n j ≤ 4 ∧ (planType n j = 3 → j % 2 = 0 ∧ planType n (j + 1) = 0) ∧
    (planType n j = 4 → j % 4 = 0 ∧ ∀ i < 3, planType n (j + 1 + i) = 0) := by
  have hthree : (∀ i < 3, planType n (j + 1 + i) = 0) ↔ planType n (j + 1) = 0 ∧ planType n (j + 2) = 0 ∧ planType n (j + 3) = 0 :=
    ⟨fun h => ⟨h 0 (by decide), h 1 (by decide), h 2 (by decide)⟩, fun ⟨h1, h2, h3⟩ i hi => by interval_cases i <;> assumption⟩
  rw [hthree, placed]
  rcases planType n j with _ | _ | _ | _ | _ | m <;> simp [and_assoc]

theorem planValid_iff (n : Nat) : planValid n = true ↔
    (∀ j < 16, planType n j ≤ 4 ∧ (planType n j = 3 → j % 2 = 0 ∧ planType n (j + 1) = 0) ∧
      (planType n j = 4 → j % 4 = 0 ∧ ∀ i < 3, planType n (j + 1 + i) = 0)) ∧ ∃ j < 16, planType n j ≠ 0 := by
  simp only [planValid, Bool.and_eq_true, List.all_eq_true, List.any_eq_true, List.mem_range, placed_iff, bne_iff_ne]

/-! ## Admitted writes (R91, R106) -/

/-- OPT_ENGINE_PLAN is one field of 64 bits, so a write of it hands over the plan as it stands. -/
theorem State.performWrite_enginePlan (u : State) (r : Requester) (e : Nat) (plan : Word) :
    u.performWrite r .OPT_ENGINE_PLAN e plan wholeMask = u.planWrite e plan :=
  (u.performWrite_opt r rfl (by decide) e plan wholeMask).trans (congrArg (u.planWrite e) (plainWritten_word (.inl rfl) 0 _ plan))

/-- A share's element names its engine and its local port. -/
theorem State.performWrite_lbCells (u : State) (r : Requester) (e j : Fin 16) (v : BitVec 32) :
    u.performWrite r .OPT_LB_CELLS (16 * e.val + j.val) (v.setWidth 64) lowMask = u.lbCellsSet e j (v.toNat % 8192) := by
  have hi : (16 * e.val + j.val) / 16 = e.val ∧ (16 * e.val + j.val) % 16 = j.val := by omega
  have hv := u.writeSeen_low (reg := .OPT_LB_CELLS) (f := ⟨0, 13, .RW, 0⟩) (List.pairwise_singleton _ _) List.mem_cons_self (.inl rfl)
    (by decide) (16 * e.val + j.val) v
  rw [bits, Nat.pow_zero, Nat.div_one] at hv
  have h : u.performWrite r .OPT_LB_CELLS (16 * e.val + j.val) (v.setWidth 64) lowMask =
      u.lbCellsSet ((16 * e.val + j.val) / 16) ((16 * e.val + j.val) % 16)
        (fieldOf (u.writeSeen .OPT_LB_CELLS (16 * e.val + j.val) (v.setWidth 64) lowMask).new 0 13) :=
    u.performWrite_opt r rfl (by decide) _ _ _
  rwa [hi.1, hi.2, hv] at h

theorem exec_enginePlanWrite_of {s u : State} {r : Requester} {e : Fin 16} (h : s.admitWrite r .OPT_ENGINE_PLAN e.val = (true, u))
    (plan : Word) : exec (.enginePlanWrite r e plan) s = .next (u.planWrite e plan) :=
  congrArg Host.Outcome.next ((State.directWrite_undomained h rfl _ _).trans (u.performWrite_enginePlan r e plan))

theorem exec_lbCellsWrite_of {s u : State} {r : Requester} {e j : Fin 16} (h : s.admitWrite r .OPT_LB_CELLS (16 * e.val + j.val) = (true, u))
    (v : BitVec 32) : exec (.lbCellsWrite r e j v) s = .next (u.lbCellsSet e j (v.toNat % 8192)) :=
  congrArg Host.Outcome.next ((State.directWrite_undomained h rfl _ _).trans (u.performWrite_lbCells r e j v))

theorem State.planWrite_refused (u : State) (e : Nat) {plan : Word} (h : planValid plan.toNat = false) : u.planWrite e plan = u.planRefused e := by
  simp only [State.planWrite, h, Bool.not_false, if_true]

/-- A plan that stands replans the ports whose type it changes, then curtains those on retired lanes. -/
theorem State.planWrite_stands (u : State) (e : Nat) {plan : Word} (h : planValid plan.toNat = true) :
    u.planWrite e plan = ((((List.range 16).filter (fun j => planType (u.reg .OPT_ENGINE_PLAN e).toNat j != planType plan.toNat j)).map
      (16 * e + ·)).foldl (fun t p => t.replanned p) (u.setReg .OPT_ENGINE_PLAN e plan)).curtainRetired ((List.range 16).map (16 * e + ·)) := by
  simp only [State.planWrite, h, Bool.not_true, Bool.false_eq_true, if_false]

/-- Settles O17: a plan stands by the placement rules, and each admitted write is refused or performed whole. -/
theorem enginePlans : Obligations.EnginePlans := by
  unfold Obligations.EnginePlans
  refine ⟨planValid_iff, fun s u r e plan h hp => ?refused, fun s u r e plan h hp => ?stands, fun s u r e j v h => ?share⟩
  case refused => rw [exec_enginePlanWrite_of h, State.planWrite_refused u e hp]; rfl
  case stands => rw [exec_enginePlanWrite_of h, State.planWrite_stands u e hp]; rfl
  case share => rw [exec_lbCellsWrite_of h, State.lbCellsSet, Nat.mod_mod]; rfl

end Sys2Proof.Machine
end

section
/-! PROOF. Laser source modules (R93 to R99): verification and its outcomes, the commands of OPT_LASER_CTRL, life records and wear, channel
faults and alarms. -/

namespace Sys2Proof.Machine

/-! ## The record of a module -/

/-- A module's record reads back what was put there, where that is not the record of an absent module. -/
theorem State.lsm_setLsm (s : State) (e : Nat) {x : Lsm} (h : x ≠ {}) : (s.setLsm e x).lsm e = x := SMap.get_set_other h

theorem Lsm.present_of_state {x : Lsm} (h : x.state ≠ .ABSENT) : x ≠ {} := fun e => h (by rw [e])

theorem Lsm.present_of_history {x : Lsm} (h : x.history ≠ []) : x ≠ {} := fun e => h (by rw [e])

/-! ## Wear (R97) -/

section Wear
variable (s : State) (e : Nat)

/-- A judgement of wear leaves alone what a module's record, an error's count and an alarm leave alone. -/
theorem State.judgeWear_same {β : Type} {f : State → β} (hl : ∀ (t : State) x, f (t.setLsm e x) = f t)
    (hc : ∀ (t : State) i, f (t.bump .FLT_CORRECTED i) = f t) (hn : ∀ t : State, f t.nextSeq = f t)
    (ha : ∀ (t : State) b r, f (t.alarm b r) = f t) : f (s.judgeWear e) = f s := by
  unfold State.judgeWear
  dsimp only
  split
  · rfl
  · split
    · rw [ha, hn, State.countError, hc, hl]
    · exact hl ..

theorem State.judgeWear_clk : (s.judgeWear e).clk = s.clk :=
  s.judgeWear_same e (fun _ _ => State.setLsm_clk ..) (fun _ _ => State.bump_clk ..) State.nextSeq_clk (fun _ _ _ => State.alarm_clk ..)

theorem State.judgeWear_swc : (s.judgeWear e).swc = s.swc :=
  s.judgeWear_same e (fun _ _ => State.setLsm_swc ..) (fun _ _ => State.bump_swc ..) State.nextSeq_swc (fun _ _ _ => State.alarm_swc ..)

theorem State.judgeWear_rdn : (s.judgeWear e).rdn = s.rdn :=
  s.judgeWear_same e (fun _ _ => State.setLsm_rdn ..) (fun _ _ => State.bump_rdn ..) State.nextSeq_rdn (fun _ _ _ => State.alarm_rdn ..)

/-- Of the module's own record it changes the wear condition alone. -/
theorem State.judgeWear_lsm : ∃ w, (s.judgeWear e).lsm e = { s.lsm e with wear := w } := by
  unfold State.judgeWear
  dsimp only
  split
  case isTrue => exact ⟨(s.lsm e).wear, rfl⟩
  case isFalse hr =>
    have hready : (s.lsm e).state = .READY := by simpa using hr
    have hset : ∀ w, (s.setLsm e { s.lsm e with wear := w }).lsm e = { s.lsm e with wear := w } := fun w =>
      s.lsm_setLsm e (Lsm.present_of_state (by rw [hready]; decide))
    split
    · refine ⟨true, Eq.trans ?_ (hset true)⟩
      simp only [State.lsm, State.countError, State.alarm_prt, State.nextSeq_prt, State.bump_prt]
    · exact ⟨_, hset _⟩

end Wear

/-! ## Life records (R96) -/

/-- An appended life record is the last of the module's log, which then is judged for wear. -/
theorem State.appendLife_eq (s : State) (e : Nat) (h : BitVec 32) (b : BitVec 128) (m : BitVec 16) : ∃ (x : Lsm) (o : Out),
    s.appendLife e h b m = (((s.setLsm e x).drewN 8).emit o).judgeWear e ∧ x.hours = h ∧ x.since = s.elapsed ∧ x.history.getLast? =
      some { seq := ((s.lsm e).history.getLast?.map (fun r => r.seq + 1)).getD 0, hours := h, bias := b, temp := m } := by
  refine ⟨_, _, rfl, rfl, rfl, ?_⟩
  dsimp only
  rw [List.getLast?_drop, if_neg (by simp), List.getLast?_concat]
  cases (s.lsm e).history.getLast? <;> rfl

section Appended
variable (s : State) (e : Nat) (h : BitVec 32) (b : BitVec 128) (m : BitVec 16)

theorem State.appendLife_swc : (s.appendLife e h b m).swc = s.swc := by
  obtain ⟨x, o, ha, -⟩ := s.appendLife_eq e h b m
  rw [ha, State.judgeWear_swc]
  rfl

theorem State.appendLife_rdn : (s.appendLife e h b m).rdn = s.rdn := by
  obtain ⟨x, o, ha, -⟩ := s.appendLife_eq e h b m
  rw [ha, State.judgeWear_rdn]
  rfl

theorem State.appendLife_lsm : ((s.appendLife e h b m).lsm e).hours = h ∧ ((s.appendLife e h b m).lsm e).since = s.elapsed ∧
    ((s.appendLife e h b m).lsm e).history.getLast? =
      some { seq := ((s.lsm e).history.getLast?.map (fun r => r.seq + 1)).getD 0, hours := h, bias := b, temp := m } := by
  obtain ⟨x, o, ha, hhours, hsince, hlast⟩ := s.appendLife_eq e h b m
  obtain ⟨w, hw⟩ := (((s.setLsm e x).drewN 8).emit o).judgeWear_lsm e
  have hx : (((s.setLsm e x).drewN 8).emit o).lsm e = x :=
    s.lsm_setLsm e (Lsm.present_of_history (fun hnil => by rw [hnil] at hlast; cases hlast))
  rw [ha, hw, hx]
  exact ⟨hhours, hsince, hlast⟩

end Appended

/-! ## Verification (R94, R95) -/

theorem State.identityVerdict_eq_zero (s : State) (v : LsmVerify) : s.identityVerdict v = 0 ↔
    leAt v.identity 0 2 = 1 ∧ leAt v.identity 0x20 4 = (crc32c 0 (v.identity.take 32)).toNat ∧ leAt v.identity 0x14 2 = 1 ∧
    1 ≤ v.certLength.toNat ∧ v.certLength.toNat ≤ 2048 ∧ v.cert.length = v.certLength.toNat ∧
    (∃ r ∈ s.vlt.lsmRoots, Config.chainVerify r v.cert = true) ∧ Config.certSubject v.cert = slice v.identity 2 18 := by
  unfold State.identityVerdict
  split
  case isTrue hrow =>
    simp only [Bool.or_eq_true, bne_iff_ne] at hrow
    omega
  case isFalse hrow =>
    simp only [Bool.or_eq_true, bne_iff_ne, not_or, not_not] at hrow
    split
    case isTrue hversion =>
      simp only [bne_iff_ne] at hversion
      omega
    case isFalse hversion =>
      simp only [bne_iff_ne, not_not] at hversion
      split
      case isTrue hcert =>
        refine iff_of_false (by decide) (fun ⟨_, _, _, hlo, hhi, hlen, ⟨r, hr, hroot⟩, _⟩ => ?_)
        simp only [Bool.or_eq_true, decide_eq_true_eq, bne_iff_ne, Bool.not_eq_true', List.any_eq_false] at hcert
        rcases hcert with ((hcert | hcert) | hcert) | hcert
        · omega
        · omega
        · exact hcert hlen
        · exact hcert r hr hroot
      case isFalse hcert =>
        simp only [Bool.or_eq_true, decide_eq_true_eq, bne_iff_ne, Bool.not_eq_true', not_or, not_not, Bool.not_eq_false, List.any_eq_true,
          Nat.not_lt] at hcert
        obtain ⟨⟨⟨hlo, hhi⟩, hlen⟩, hroot⟩ := hcert
        split
        case isTrue hsubject =>
          exact iff_of_false (by decide) (fun ⟨_, _, _, _, _, _, _, heq⟩ => bne_iff_ne.mp hsubject heq)
        case isFalse hsubject =>
          rw [bne_iff_ne, not_not] at hsubject
          exact iff_of_true rfl ⟨hrow.1, hrow.2, hversion, hlo, hhi, hlen, hroot, hsubject⟩

theorem State.identityVerdict_range (s : State) (v : LsmVerify) : s.identityVerdict v ≠ 1 ∧ s.identityVerdict v ≤ 5 := by
  unfold State.identityVerdict
  (repeat' split) <;> decide

section Verified
variable {s : State} {e : Nat} {v : LsmVerify} (hi : (s.lsm e).state = .IDENTIFYING)
include hi

theorem State.lsmVerified_rejects (hv : s.identityVerdict v ≠ 0) : s.lsmVerified e v = s.reject e (s.identityVerdict v) v.i2c := by
  simp [State.lsmVerified, hi, hv]

variable (hv : s.identityVerdict v = 0)
include hv

theorem State.lsmVerified_unmet (hc : s.challengeMet e v = false) :
    s.lsmVerified e v = (s.emit (.challenge e (s.lsm e).challenge)).reject e 6 v.i2c := by
  have hc' : (s.emit (.challenge e (s.lsm e).challenge)).challengeMet e v = false := hc
  simp [State.lsmVerified, hi, hv, hc']

/-- A module that meets its challenge is READY with its identity and its log, and judged for wear. -/
theorem State.lsmVerified_met (hc : s.challengeMet e v = true) : ∃ x : Lsm,
    s.lsmVerified e v = (((s.emit (.challenge e (s.lsm e).challenge)).drewN 8).setLsm e x).judgeWear e ∧
    x.state = .READY ∧ x.reject = 0 ∧ x.i2c = v.i2c ∧ x.history = (v.log.filter lifeOk).map lifeOf ∧
    x.rated = BitVec.ofNat 32 (leAt v.identity 0x18 4) ∧ x.since = s.elapsed := by
  have hc' : (s.emit (.challenge e (s.lsm e).challenge)).challengeMet e v = true := hc
  unfold State.lsmVerified
  rw [hi, if_neg (by decide), hv, if_neg (by decide)]
  dsimp only
  rw [hc', if_neg (by decide)]
  exact ⟨_, rfl, rfl, rfl, rfl, rfl, rfl, rfl⟩

end Verified

/-! ## EJECT and RETRY (R95) -/

/-- A write that touches no LASER_EN bit acts by EJECT and RETRY alone. -/
theorem State.performWrite_laserCtrl {u : State} (h : u.canonical = true) (r : Requester) (e : Nat) {m : Word}
    (hm : ∀ f ∈ RegName.OPT_LASER_CTRL.info.fields, f.access = .RW ∨ f.access = .RWV ∨ f.access = .W1C → bits m.toNat f.lo f.width = 0) :
    u.performWrite r .OPT_LASER_CTRL e m m =
      if bit (m &&& m).toNat 9 then (if bit (m &&& m).toNat 8 then u.lsmEject e else u).lsmRetry e
      else if bit (m &&& m).toNat 8 then u.lsmEject e else u := by
  have hs : u.store (u.writeSeen .OPT_LASER_CTRL e m m) = u := by
    have hn : (u.writeSeen .OPT_LASER_CTRL e m m).new = u.reg .OPT_LASER_CTRL e := plainWritten_none_word hm _ _
    rw [State.store, hn]
    exact State.setReg_same (State.canonical_regs h) ..
  have hw : u.performWrite r .OPT_LASER_CTRL e m m =
      (if bit (m &&& m).toNat 9 then (if bit (m &&& m).toNat 8 then (u.store (u.writeSeen .OPT_LASER_CTRL e m m)).lsmEject e
          else u.store (u.writeSeen .OPT_LASER_CTRL e m m)).lsmRetry e
        else if bit (m &&& m).toNat 8 then (u.store (u.writeSeen .OPT_LASER_CTRL e m m)).lsmEject e
          else u.store (u.writeSeen .OPT_LASER_CTRL e m m)) := u.performWrite_opt r rfl (by decide) e m m
  rwa [hs] at hw

section Admitted
variable {s u : State} {r : Requester} {e : Fin 16} (h : s.admitWrite r .OPT_LASER_CTRL e.val = (true, u)) (hc : u.canonical = true)
include h hc

theorem exec_eject_of : exec (.eject r e) s = .next (u.lsmEject e) :=
  congrArg Host.Outcome.next ((State.directWrite_undomained h rfl _ _).trans (State.performWrite_laserCtrl hc r e (m := 0x100) (by decide)))

theorem exec_retry_of : exec (.retry r e) s = .next (u.lsmRetry e) :=
  congrArg Host.Outcome.next ((State.directWrite_undomained h rfl _ _).trans (State.performWrite_laserCtrl hc r e (m := 0x200) (by decide)))

end Admitted

/-! ## Alarms (R99) -/

section Alarm
variable {s : State} {e : Nat} (h : (s.lsm e).state ≠ .ABSENT) (a : BitVec 8)
include h

theorem State.lsmAlarm_inBand : s.lsmAlarm e false a = if (s.lsm e).i2c then s else (s.setLsm e { s.lsm e with alarm := a }).emit (.readAlarm e) := by
  cases hi : (s.lsm e).i2c <;> simp [State.lsmAlarm, h, hi]

theorem State.lsmAlarm_polled : s.lsmAlarm e true a = if (s.lsm e).i2c then (s.setLsm e { s.lsm e with alarm := a }).emit (.readAlarm e) else s := by
  cases hi : (s.lsm e).i2c <;> simp [State.lsmAlarm, h, hi]

end Alarm

/-- Settles O18: each event of a module by the branch of its operation that the module's state takes. -/
theorem laserModules : Obligations.LaserModules := by
  unfold Obligations.LaserModules
  refine ⟨?insert, fun s v => ⟨s.identityVerdict_eq_zero v, s.identityVerdict_range v⟩, ?rejects, ?unmet, ?met, ?silent, fun _ _ => rfl, ?ctrl,
    ?ejected, ?life, ?appended, ?channel, ?alarm⟩
  case insert =>
    rintro s u e ha hm rfl
    exact congrArg Host.Outcome.next (if_pos (by
      rw [Bool.and_eq_true, beq_iff_eq]
      exact ⟨ha, hm⟩))
  case rejects =>
    exact fun s e v hi hv => congrArg Host.Outcome.next (State.lsmVerified_rejects hi hv)
  case unmet =>
    exact fun s e v hi hv hc => congrArg Host.Outcome.next (State.lsmVerified_unmet hi hv hc)
  case met =>
    intro s e v hi hv hc
    obtain ⟨x, hx, hstate, hreject, hi2c, hhist, hrated, hsince⟩ := State.lsmVerified_met hi hv hc
    obtain ⟨w, hw⟩ := (((s.emit (.challenge e (s.lsm e).challenge)).drewN 8).setLsm e x).judgeWear_lsm e
    rw [State.lsm_setLsm _ _ (Lsm.present_of_state (by rw [hstate]; decide)), ← hx] at hw
    refine ⟨_, rfl, ?_⟩
    rw [hw]
    refine ⟨hstate, hreject, hi2c, hhist, ?_, hsince, ?_, ?_⟩
    · rw [hrated]; exact BitVec.toNat_ofNat ..
    · rw [hx, State.judgeWear_swc]; rfl
    · rw [hx, State.judgeWear_rdn]; rfl
  case silent =>
    intro s e hi ht
    exact congrArg Host.Outcome.next (if_pos (by rw [hi, decide_eq_true ht]; rfl))
  case ctrl =>
    intro s u r e h hc
    refine ⟨(exec_eject_of h hc).trans (congrArg Host.Outcome.next ?_), (exec_retry_of h hc).trans (congrArg Host.Outcome.next ?_)⟩
    · simp only [State.lsmEject, beq_iff_eq]
    · simp only [State.lsmRetry, beq_iff_eq]
      rfl
  case ejected =>
    exact fun s e h b m hi => congrArg Host.Outcome.next (if_pos (beq_iff_eq.mpr hi))
  case life =>
    exact fun s e h b m hi => congrArg Host.Outcome.next (if_pos (beq_iff_eq.mpr hi))
  case appended =>
    intro s e h b m
    obtain ⟨hhours, hsince, hlast⟩ := s.appendLife_lsm e h b m
    exact ⟨hhours, hsince, hlast, s.appendLife_swc e h b m, s.appendLife_rdn e h b m⟩
  case channel =>
    rintro s w u e c ha hf rfl rfl
    refine congrArg Host.Outcome.next (if_neg ?_)
    rw [hf, Bool.or_false, beq_iff_eq]
    exact ha
  case alarm =>
    intro s e a ha
    exact ⟨congrArg Host.Outcome.next (State.lsmAlarm_inBand ha a), congrArg Host.Outcome.next (State.lsmAlarm_polled ha a)⟩

end Sys2Proof.Machine
end

section
/-! PROOF. Port configuration, flow control and link state (R90, R91, R102 to R105, R116): the fields of PRT_CONFIG act in turn, and pause
frames by what the port's mode selects. -/

namespace Sys2Proof.Machine

/-! ## PRT_CONFIG (R104, R116) -/

/-- ENABLE as a write of PRT_CONFIG gives it: where it falls, the port's frames and pause state end. -/
def State.prtEnable (s : State) (p on : Nat) : State :=
  if s.flagAt Fld.PRT_CONFIG_ENABLE p && on == 0 then (s.setFld Fld.PRT_CONFIG_ENABLE p 0).replanned p else s.setFld Fld.PRT_CONFIG_ENABLE p on

/-- PAUSE_MODE as a write of PRT_CONFIG gives it: XON goes out for what the old mode holds off before a new one acts. -/
def State.prtMode (s : State) (p mode : Nat) : State :=
  if mode == 3 || mode == s.pauseMode p then s else ((s.releaseAll p).setFld Fld.PRT_CONFIG_PAUSE_MODE p mode).pauseCheck p

/-- MAX_FRAME as a write of PRT_CONFIG gives it: frames in reception that are longer end where they stand. -/
def State.prtMax (s : State) (p max : Nat) : State :=
  if max < 1518 || 10240 < max then s
  else
    let t := s.setFld Fld.PRT_CONFIG_MAX_FRAME p max
    ((t.receiving p).filter (fun x => max < x.octets.length)).foldl (fun s x => s.oversize x) t

theorem State.prtConfig_eq (s : State) (p n : Nat) :
    s.prtConfig p n = ((s.prtEnable p (bits n 0 1)).prtMode p (bits n 1 2)).prtMax p (bits n 8 14) := rfl

section Fields
variable (s : State) (p : Nat)

theorem State.prtEnable_on : s.prtEnable p 1 = s.setFld Fld.PRT_CONFIG_ENABLE p 1 := if_neg (by simp)

theorem State.prtEnable_falls (h : s.flagAt Fld.PRT_CONFIG_ENABLE p = true) :
    s.prtEnable p 0 = (s.setFld Fld.PRT_CONFIG_ENABLE p 0).replanned p := if_pos (by simp [h])

theorem State.prtMode_reserved : s.prtMode p 3 = s := if_pos rfl

theorem State.prtMode_new {mode : Nat} (h3 : mode ≠ 3) (h : mode ≠ s.pauseMode p) :
    s.prtMode p mode = ((s.releaseAll p).setFld Fld.PRT_CONFIG_PAUSE_MODE p mode).pauseCheck p := if_neg (by simp [h3, h])

theorem State.prtMax_ignored {max : Nat} (h : max < 1518 ∨ 10240 < max) : s.prtMax p max = s := if_pos (by simpa using h)

theorem State.prtMax_taken {max : Nat} (hlo : 1518 ≤ max) (hhi : max ≤ 10240) (hr : s.receiving p = []) :
    s.prtMax p max = s.setFld Fld.PRT_CONFIG_MAX_FRAME p max := by
  have hr' : (s.setFld Fld.PRT_CONFIG_MAX_FRAME p max).receiving p = [] := by
    rw [State.receiving, State.setFld_swc]
    exact hr
  have hn : ¬(decide (max < 1518) || decide (10240 < max)) = true := by
    simp only [Bool.or_eq_true, decide_eq_true_eq]
    omega
  unfold State.prtMax
  rw [if_neg hn]
  dsimp only
  rw [hr']
  rfl

end Fields

theorem State.performWrite_prtConfig {u : State} {p : Nat} (ht : u.portType p ≠ 0) (r : Requester) (v : BitVec 32) :
    u.performWrite r .PRT_CONFIG p (v.setWidth 64) lowMask =
      ((u.prtEnable p (v.toNat % 2)).prtMode p (v.toNat / 2 % 4)).prtMax p (v.toNat / 2 ^ 8 % 2 ^ 14) := by
  have hd : RegName.PRT_CONFIG.info.fields.Pairwise FieldInfo.apart := by unfold FieldInfo.apart; decide
  have hon := u.writeSeen_low (reg := .PRT_CONFIG) (f := ⟨0, 1, .RWV, 0⟩) hd (by decide) (.inr rfl) (by decide) p v
  have hmode := u.writeSeen_low (reg := .PRT_CONFIG) (f := ⟨1, 2, .RW, 0⟩) hd (by decide) (.inl rfl) (by decide) p v
  have hmax := u.writeSeen_low (reg := .PRT_CONFIG) (f := ⟨8, 14, .RW, 1518⟩) hd (by decide) (.inl rfl) (by decide) p v
  have ht' : u.portType (p / 1) ≠ 0 := by rwa [Nat.div_one]
  have hw : u.writePrt (u.writeSeen .PRT_CONFIG p (v.setWidth 64) lowMask) =
      u.prtConfig p (u.writeSeen .PRT_CONFIG p (v.setWidth 64) lowMask).new.toNat := if_neg ht'
  unfold fieldOf at hon hmode hmax
  rw [u.performWrite_prt r rfl, hw, State.prtConfig_eq, hon, hmode, hmax]
  rw [bits, Nat.pow_zero, Nat.div_one]
  rfl

/-! ## PRT_PFC_WM (R104) -/

/-- What a whole write of PRT_PFC_WM gives the register (R7). -/
def State.pfcWmWritten (s : State) (i : Nat) (v : Word) : Word :=
  BitVec.ofNat 64 (plainWritten RegName.PRT_PFC_WM.info.fields (s.reg .PRT_PFC_WM i).toNat v.toNat wholeMask.toNat)

theorem State.pfcWmWritten_fields (s : State) (i : Nat) (v : Word) : fieldOf (s.pfcWmWritten i v) 0 20 = v.toNat % 2 ^ 20 ∧
    fieldOf (s.pfcWmWritten i v) 32 20 = v.toNat / 2 ^ 32 % 2 ^ 20 := by
  have hd : RegName.PRT_PFC_WM.info.fields.Pairwise FieldInfo.apart := by unfold FieldInfo.apart; decide
  have hhigh := whole_at (f := ⟨0, 20, .RW, 0xfffff⟩) hd (by decide) (.inl rfl) (by decide) (s.reg .PRT_PFC_WM i).toNat v.toNat
  have hlow := whole_at (f := ⟨32, 20, .RW, 0⟩) hd (by decide) (.inl rfl) (by decide) (s.reg .PRT_PFC_WM i).toNat v.toNat
  rw [bits, Nat.pow_zero, Nat.div_one] at hhigh
  exact ⟨hhigh, hlow⟩

theorem State.pfcWm_whole (s : State) (p c : Nat) (v : Word) : s.pfcWm p c v wholeMask =
    if v.toNat % 2 ^ 20 ≤ v.toNat / 2 ^ 32 % 2 ^ 20 then s
    else (s.setReg .PRT_PFC_WM (8 * p + c) (s.pfcWmWritten (8 * p + c) v)).pauseCheck p := by
  obtain ⟨hhigh, hlow⟩ := s.pfcWmWritten_fields (8 * p + c) v
  rw [State.pfcWmWritten, fieldOf_ofNat _ (by decide)] at hhigh hlow
  unfold State.pfcWm
  dsimp only
  rw [hhigh, hlow]
  rfl

theorem State.performWrite_pfcWm {u : State} {p : Fin 256} (ht : u.portType p ≠ 0) (r : Requester) (c : Fin 8) (v : Word) :
    u.performWrite r .PRT_PFC_WM (8 * p.val + c.val) v wholeMask = u.pfcWm p c v wholeMask := by
  have hi : (8 * p.val + c.val) / 8 = p.val ∧ (8 * p.val + c.val) % 8 = c.val := by omega
  have ht' : u.portType ((8 * p.val + c.val) / 8) ≠ 0 := by rwa [hi.1]
  have hw : u.writePrt (u.writeSeen .PRT_PFC_WM (8 * p.val + c.val) v wholeMask) =
      u.pfcWm ((8 * p.val + c.val) / 8) ((8 * p.val + c.val) % 8) (v &&& wholeMask) wholeMask := if_neg ht'
  rw [u.performWrite_prt r rfl, hw, hi.1, hi.2, and_wholeMask]

/-! ## The commands of an admitted write -/

section Admitted
variable {s u : State} {r : Requester} {p : Fin 256}

theorem exec_prtConfigWrite_of (h : s.admitWrite r .PRT_CONFIG p.val = (true, u)) (ha : u.sleepingAt .PRT_CONFIG p.val = none)
    (ht : u.portType p ≠ 0) (v : BitVec 32) : exec (.prtConfigWrite r p v) s =
      .next (((u.prtEnable p (v.toNat % 2)).prtMode p (v.toNat / 2 % 4)).prtMax p (v.toNat / 2 ^ 8 % 2 ^ 14)) :=
  congrArg Host.Outcome.next ((State.directWrite_of h ha _ _).trans (State.performWrite_prtConfig ht r v))

theorem exec_pfcWmWrite_of {c : Fin 8} (h : s.admitWrite r .PRT_PFC_WM (8 * p.val + c.val) = (true, u))
    (ha : u.sleepingAt .PRT_PFC_WM (8 * p.val + c.val) = none) (ht : u.portType p ≠ 0) (v : Word) :
    exec (.pfcWmWrite r p c v) s = .next (u.pfcWm p c v wholeMask) :=
  congrArg Host.Outcome.next ((State.directWrite_of h ha _ _).trans (State.performWrite_pfcWm ht r c v))

end Admitted

/-! ## Pause received (R102, R105) -/

section Pause
variable {s w : State} {p : Nat} (hu : s.portUsable p = true) (hw : w = (s.bump .PRT_RX_FRAMES p).bumpBy .PRT_RX_OCTETS p 64)
  (enable : BitVec 8) (times : BitVec 128)
include hu hw

theorem State.pauseIn_badFcs (pfc : Bool) : s.pauseIn p pfc enable times false = w.bump .PRT_RX_FCS_ERROR p := by
  simp [State.pauseIn, hu, hw]

theorem State.pauseIn_pfc (hm : w.pauseMode p = 2) : s.pauseIn p true enable times true =
    w.setPort p { w.port p with classPaused := w.pfcClasses p enable times, ends := w.pfcEnds p enable times } := by
  subst hw
  simp [State.pauseIn, hu, hm]

theorem State.pauseIn_port (hm : w.pauseMode p = 1) : s.pauseIn p false enable times true =
    w.setPort p { w.port p with paused := times.toNat % 2 ^ 16 != 0,
                                ends := SMap.set noTime 8 (w.elapsed + w.quantaTime p (times.toNat % 2 ^ 16)) (w.port p).ends } := by
  subst hw
  simp [State.pauseIn, hu, hm, bits]

/-- A frame of the kind that the port's mode does not select is counted. -/
theorem State.pauseIn_otherKind {pfc : Bool} (h2 : w.pauseMode p = 2 → pfc = false) (h1 : w.pauseMode p = 1 → pfc = true) :
    s.pauseIn p pfc enable times true = w.bump .PRT_PAUSE_RX p := by
  subst hw
  have hn2 : ¬(((s.bump .PRT_RX_FRAMES p).bumpBy .PRT_RX_OCTETS p 64).pauseMode p == 2 && pfc) = true := by
    rw [Bool.and_eq_true, beq_iff_eq]
    exact fun ⟨hm, hp⟩ => Bool.false_ne_true ((h2 hm).symm.trans hp)
  have hn1 : ¬(((s.bump .PRT_RX_FRAMES p).bumpBy .PRT_RX_OCTETS p 64).pauseMode p == 1 && !pfc) = true := by
    rw [Bool.and_eq_true, beq_iff_eq, Bool.not_eq_true']
    exact fun ⟨hm, hp⟩ => Bool.false_ne_true (hp.symm.trans (h1 hm))
  simp [State.pauseIn, hu, hn2, hn1]

end Pause

/-! ## Link state (R90, R91) -/

theorem State.portLinkUp_rises {s : State} {p : Nat} (ht : s.portType p ≠ 0) (he : s.flagAt Fld.PRT_CONFIG_ENABLE p = true)
    (hc : s.portCurtained p = false) (hl : s.laneTested p = false) : s.portLinkUp p = s.setPort p { s.port p with linkUp := true } := by
  simp [State.portLinkUp, ht, he, hc, hl]

/-- A port that neither receives nor sends a frame goes down with its queued copies alone. -/
theorem State.portDown_idle {s : State} {p : Nat} (hf : s.swc.frames.filter (fun x => x.incoming && x.inPort == p) = [])
    (hk : s.swc.copies.filter (fun k => k.port == p && k.started) = []) :
    s.portDown p = (s.dropQueued p).setPort p { (s.dropQueued p).port p with linkUp := false } := by
  unfold State.portDown
  rw [hf]
  dsimp only [List.foldl_nil]
  rw [hk]
  rfl

/-- Settles O19: a write of PRT_CONFIG by its three fields in turn, the rest by the branch that each premise picks. -/
theorem portPause : Obligations.PortPause := by
  unfold Obligations.PortPause
  refine ⟨?maxIgnored, ?maxTaken, ?disabled, ?newMode, ?watermarks, ?refresh, ?pause, fun s p h => ?portEnds, fun s p c h => ?classEnds,
    fun s p ht he hc hl => congrArg Host.Outcome.next (State.portLinkUp_rises ht he hc hl), ?down⟩
  case maxIgnored =>
    intro s u r p v h ha ht hon hmode hmax
    rw [exec_prtConfigWrite_of h ha ht, hon, hmode, State.prtEnable_on, State.prtMode_reserved, State.prtMax_ignored _ _ hmax]
  case maxTaken =>
    intro s u r p v h ha ht hon hmode hlo hhi hr
    have hr' : (u.setFld Fld.PRT_CONFIG_ENABLE p 1).receiving p = [] := by
      rw [State.receiving, State.setFld_swc]
      exact hr
    rw [exec_prtConfigWrite_of h ha ht, hon, hmode, State.prtEnable_on, State.prtMode_reserved, State.prtMax_taken _ _ hlo hhi hr']
  case disabled =>
    intro s u r p v h ha ht he hon hmode hmax
    rw [exec_prtConfigWrite_of h ha ht, hon, hmode, State.prtEnable_falls _ _ he, State.prtMode_reserved, State.prtMax_ignored _ _ (.inl hmax)]
    rfl
  case newMode =>
    rintro s u _ r p v h ha ht hon hmode rfl hnew hmax
    rw [exec_prtConfigWrite_of h ha ht, hon, State.prtEnable_on, State.prtMode_new _ _ hmode hnew, State.prtMax_ignored _ _ (.inr hmax)]
  case watermarks =>
    intro s u r p c v h ha ht
    obtain ⟨hhigh, hlow⟩ := u.pfcWmWritten_fields (8 * p.val + c.val) v
    exact ⟨_, hhigh, hlow, (exec_pfcWmWrite_of h ha ht v).trans (congrArg Host.Outcome.next (u.pfcWm_whole p c v))⟩
  case refresh =>
    intro s p c
    exact congrArg Host.Outcome.next (by simp only [State.xoffAgain, Bool.and_eq_true, decide_eq_true_eq])
  case pause =>
    intro s w p pfc enable times ok hu hw
    refine ⟨?_, ?_, ?_, ?_⟩
    · rintro rfl
      exact congrArg Host.Outcome.next (State.pauseIn_badFcs hu hw enable times pfc)
    · rintro rfl hm
      exact congrArg Host.Outcome.next (State.pauseIn_pfc hu hw enable times hm)
    · rintro rfl hm
      exact congrArg Host.Outcome.next (State.pauseIn_port hu hw enable times hm)
    · rintro rfl h2 h1
      exact congrArg Host.Outcome.next (State.pauseIn_otherKind hu hw enable times h2 h1)
  case portEnds => exact congrArg Host.Outcome.next (if_neg (Nat.not_lt.mpr h))
  case classEnds => exact congrArg Host.Outcome.next (if_neg (Nat.not_lt.mpr h))
  case down =>
    intro s p hf hk
    exact congrArg (fun t : State => Host.Outcome.next (t.stackSilent p)) (State.portDown_idle hf hk)

end Sys2Proof.Machine
end

section
/-! PROOF. Device time, time inputs and transmit timestamps (R110, R111, R202 to R204): what a tick does to the clock, and what the reads of
the captures, bytes and timestamps remove. -/

namespace Sys2Proof.Machine

/-! ## The clock (R202, R203) -/

theorem signed_ge (v : Nat) : -2147483648 ≤ signed 32 v := by
  unfold signed
  split <;> omega

/-- The frequency word never turns a tick back: 40 ns outweigh it. -/
theorem Clock.fine_advanced (c : Clock) (v : Nat) : 0 ≤ c.fine + 40 * 4294967296 + signed 32 v := by
  have h := signed_ge v
  unfold Clock.fine
  omega

theorem Clock.fine_ofNat (n : Nat) (step : Option Int) (k : Nat) :
    Clock.fine { ns := n / 4294967296, frac := n % 4294967296, step := step, core := k } = n := by
  unfold Clock.fine
  dsimp only
  omega

theorem Clock.tick_core (c : Clock) (freq : Int) : (c.tick freq).1.core = c.core + 64 := rfl

theorem Clock.tick_step (c : Clock) (freq : Int) : (c.tick freq).1.step = none := rfl

section Tick
variable {c : Clock} {freq : Int}

theorem Clock.tick_idle (h : c.step = none) : (c.tick freq).2 = false ∧ (c.tick freq).1.fine = max (c.fine + 40 * 4294967296 + freq) 0 := by
  refine ⟨by simp only [Clock.tick, h, Option.isSome_none, Bool.false_and], ?_⟩
  unfold Clock.tick
  dsimp only
  rw [Clock.fine_ofNat, h]
  simp only [Option.getD_none, Int.zero_mul, Int.add_zero]
  split <;> omega

variable {d : Int} (h : c.step = some d)
include h

theorem Clock.tick_stepped (hu : 0 ≤ c.fine + 40 * 4294967296 + freq + d * 4294967296) :
    (c.tick freq).2 = false ∧ (c.tick freq).1.fine = c.fine + 40 * 4294967296 + freq + d * 4294967296 := by
  constructor
  · simp only [Clock.tick, h, Option.isSome_some, Option.getD_some, Bool.true_and, decide_eq_false_iff_not]
    omega
  · unfold Clock.tick
    dsimp only
    rw [Clock.fine_ofNat, h, Option.getD_some, if_neg (by omega)]
    omega

/-- A step that would make time negative is refused, and time goes on without it. -/
theorem Clock.tick_refused (ht : 0 ≤ c.fine + 40 * 4294967296 + freq) (hu : c.fine + 40 * 4294967296 + freq + d * 4294967296 < 0) :
    (c.tick freq).2 = true ∧ (c.tick freq).1.fine = c.fine + 40 * 4294967296 + freq := by
  constructor
  · simp only [Clock.tick, h, Option.isSome_some, Option.getD_some, Bool.true_and, decide_eq_true_eq]
    omega
  · unfold Clock.tick
    dsimp only
    rw [Clock.fine_ofNat, h, Option.getD_some, if_pos (by omega)]
    omega

end Tick

/-! ## An idle step (R202, R449) -/

section Idle
variable {s : State} (hp : s.pending = [])
include hp

theorem step_idle : step s = .next s.tick := by
  rw [step, hp]

theorem step_off (ho : s.dev.state = .OFF) : step s = .next s := by
  rw [step_idle hp, State.tick, ho]
  rfl

variable (ho : s.dev.state ≠ .OFF)
include ho

/-- With the ghost light running, a tick lasts 40 ns and the frequency word. -/
theorem step_ghost (hl : s.flagAt Fld.GLT_CLOCK_STATUS_GHOST_LOST 0 = false) {c : Clock × Bool}
    (hc : c = s.clk.tick (signed 32 (s.fld Fld.MGT_TIME_FREQ_FREQ 0))) : step s =
      .next (if c.2 then State.setFld { s with clk := c.1 } Fld.MGT_TIME_STATUS_STEP_REFUSED 0 1
        else { s with clk := c.1 }).claimsCount.judgeModules.coresTick.idleTick := by
  rw [step_idle hp, State.tick, if_neg (by simpa using ho), hl, hc]
  simp only [Bool.false_eq_true, if_false, Int.add_zero]

/-- Once it is lost, the oscillator's error is drawn and added. -/
theorem step_oscillator (hl : s.flagAt Fld.GLT_CLOCK_STATUS_GHOST_LOST 0 = true) {c : Clock × Bool}
    (hc : c = s.clk.tick (signed 32 (s.fld Fld.MGT_TIME_FREQ_FREQ 0) + s.oscillatorError)) : step s =
      .next (if c.2 then State.setFld { s.drew with clk := c.1 } Fld.MGT_TIME_STATUS_STEP_REFUSED 0 1
        else { s.drew with clk := c.1 }).claimsCount.judgeModules.coresTick.idleTick := by
  rw [step_idle hp, State.tick, if_neg (by simpa using ho), hl, hc]
  simp only [if_true]

end Idle

/-! ## What the rest of a tick leaves of the clock -/

theorem State.judgeModules_clk (s : State) : s.judgeModules.clk = s.clk :=
  foldl_same rfl (fun t e h => (t.judgeWear_clk e).trans h)

theorem State.coresTick_clk (s : State) : s.coresTick.clk = s.clk :=
  foldl_same rfl (fun _ _ h => foldl_same h (fun _ _ hw => (State.setCore_clk ..).trans hw))

theorem State.idleTick_clk (s : State) : s.idleTick.clk = s.clk :=
  foldl_same rfl (fun _ _ h => (State.setDomain_clk ..).trans h)

theorem State.claimsCount_none {s : State} (h : s.rdn.before = []) : s.claimsCount = s := by
  rw [State.claimsCount, h]
  rfl

/-! ## Steps and inputs (R203, R204) -/

theorem exec_timeStep_of {s u : State} {r : Requester} (h : s.admitWrite r .MGT_TIME_STEP 0 = (true, u)) (ns : BitVec 64) :
    exec (.timeStep r ns) s = .next (u.timeStep ns) := by
  have hw : u.performWrite r .MGT_TIME_STEP 0 ns wholeMask = u.timeStep (ns &&& wholeMask) := u.performWrite_mgt r rfl 0 ns wholeMask
  rw [and_wholeMask] at hw
  exact congrArg Host.Outcome.next ((State.directWrite_undomained h rfl _ _).trans hw)

theorem State.ppsEdge_eq (s : State) (i : Nat) (fall : Bool) : s.ppsEdge i fall =
    if s.flagAt Fld.MGT_TIME_CFG_PPS_EDGE 0 = fall then (s.setTimeInput i { s.timeInput i with
      capture := s.now, valid := true, lost := (s.timeInput i).lost || (s.timeInput i).valid, seen := true, edgeAt := s.elapsed }).cpcEvent 5
    else s := by
  unfold State.ppsEdge
  by_cases h : s.flagAt Fld.MGT_TIME_CFG_PPS_EDGE 0 = fall <;> simp [h]

/-! ## Reads of registers by commands of their own -/

section Reads
variable {s : State} {r : Requester} {t : Target} {a : Nat}

/-- A requester of a plain read is no slice, so its command makes the read. -/
theorem State.readRegOut_plain (h : s.readsPlain r t a = true) (reg : RegName) (i : Nat) (wide : Bool) :
    s.readRegOut r reg i wide = if wide then s.readOut r (addrOf reg i) .b8 else s.readOut r (addrOf reg i + 4) .b4 := by
  obtain ⟨-, hslice⟩ := State.readsPlain_fn h
  cases r with
  | slice n => exact absurd rfl (hslice n)
  | _ => rfl

theorem State.readLowOut_plain (h : s.readsPlain r t a = true) (reg : RegName) (i : Nat) (wide : Bool) :
    s.readLowOut r reg i wide = s.readOut r (addrOf reg i) (if wide then .b8 else .b4) := by
  obtain ⟨-, hslice⟩ := State.readsPlain_fn h
  cases r with
  | slice n => exact absurd rfl (hslice n)
  | _ => rfl

section Effects
variable (h0 : ∀ h l, r ≠ .pf0 h l)
include h0

theorem State.readEffect_timestamp (s : State) (i : Nat) (low : Bool) : s.readEffect r .PRT_TX_TS_TAG i low true = s.popStamp i := by
  cases r with
  | pf0 h l => exact absurd rfl (h0 h l)
  | _ => rfl

theorem State.readEffect_timeNow (s : State) (i : Nat) (high : Bool) : s.readEffect r .MGT_TIME_NOW i true high =
    { s with mgt := { s.mgt with timeHigh := BitVec.ofNat 16 (secondsOf s.now / 2 ^ 32) } } := by
  cases r with
  | pf0 h l => exact absurd rfl (h0 h l)
  | _ => rfl

theorem State.readEffect_ppsCapture (s : State) (i : Nat) (low : Bool) : s.readEffect r .MGT_PPS_CAPTURE i low true =
    s.setTimeInput i { s.timeInput i with valid := false, lost := false } := by
  cases r with
  | pf0 h l => exact absurd rfl (h0 h l)
  | _ => rfl

theorem State.readEffect_todData (s : State) (i : Nat) (low high : Bool) : s.readEffect r .MGT_TOD_DATA i low high =
    s.setTimeInput i { s.timeInput i with fifo := (s.timeInput i).fifo.tail, overflow := false } := by
  cases r with
  | pf0 h l => exact absurd rfl (h0 h l)
  | _ => rfl

end Effects

/-- With every voted field's copies alike and none broken, a register reads as it is sampled. -/
theorem State.readReg_unvoted {s : State} (hb : s.vote.broken = []) (hd : s.vote.differ = []) (r : Requester) {reg : RegName}
    (hr : (reg.info.block == .CPH && reg.info.count == 1) = false) (i : Nat) : s.readReg r reg i = s.sample r reg i := by
  rw [State.readReg, hr, State.votedRead, hb, hd]
  rfl

end Reads

/-- Settles O20: a tick by what the clock makes of it, an input's event by its branch, and a read by what it removes. -/
theorem deviceTime : Obligations.DeviceTime := by
  unfold Obligations.DeviceTime
  refine ⟨fun s hp ho => step_off hp ho, ?ghost, ?oscillator, ?step, ?rest, fun s u r ns h => exec_timeStep_of h ns, ?edge, ?expiry, ?byte,
    ?capture, ?tod, ?todValue, ?nowValue, ?now, ?popWide, ?popHigh, fun _ _ _ => rfl⟩
  case ghost =>
    intro s hp ho hl hs
    obtain ⟨hok, hfine⟩ := Clock.tick_idle (freq := signed 32 (s.fld Fld.MGT_TIME_FREQ_FREQ 0)) hs
    refine ⟨(s.clk.tick (signed 32 (s.fld Fld.MGT_TIME_FREQ_FREQ 0))).1, ?_, ?_, Clock.tick_core .., Clock.tick_step ..⟩
    · exact (step_ghost hp ho hl rfl).trans (by rw [hok]; rfl)
    · exact hfine.trans (max_eq_left (s.clk.fine_advanced _))
  case oscillator =>
    rintro s _ hp ho hl hs rfl
    obtain ⟨hok, hfine⟩ := Clock.tick_idle (freq := signed 32 (s.fld Fld.MGT_TIME_FREQ_FREQ 0) + s.oscillatorError) hs
    refine ⟨(s.clk.tick (signed 32 (s.fld Fld.MGT_TIME_FREQ_FREQ 0) + s.oscillatorError)).1, ?_, ?_, Clock.tick_core .., Clock.tick_step ..⟩
    · exact (step_oscillator hp ho hl rfl).trans (by rw [hok]; rfl)
    · exact hfine.trans (congrArg (max · 0) (by omega))
  case step =>
    intro s d hp ho hl hs
    refine ⟨(s.clk.tick (signed 32 (s.fld Fld.MGT_TIME_FREQ_FREQ 0))).1, Clock.tick_step .., fun hu => ?_, fun hu => ?_⟩
    · obtain ⟨hok, hfine⟩ := Clock.tick_stepped hs hu
      exact ⟨(step_ghost hp ho hl rfl).trans (by rw [hok]; rfl), hfine⟩
    · obtain ⟨hrefused, hfine⟩ := Clock.tick_refused hs (s.clk.fine_advanced _) hu
      exact ⟨(step_ghost hp ho hl rfl).trans (by rw [hrefused]; rfl), hfine⟩
  case rest =>
    intro u hb
    rw [State.claimsCount_none hb, State.idleTick_clk, State.coresTick_clk, State.judgeModules_clk]
  case edge =>
    intro s i fall hm
    exact congrArg Host.Outcome.next ((if_pos hm).trans (s.ppsEdge_eq i fall))
  case expiry =>
    exact fun s i h => congrArg Host.Outcome.next (if_neg (Nat.not_lt.mpr h))
  case byte =>
    exact fun s i b hm => congrArg Host.Outcome.next (if_pos hm)
  case capture =>
    intro s r i h
    refine congrArg Host.Outcome.next ((State.readRegOut_plain h _ _ _).trans ?_)
    rw [if_neg Bool.false_ne_true, State.readOut_high h rfl rfl, State.readEffect_ppsCapture (State.readsPlain_fn h).1]
  case tod =>
    intro s r i h
    refine congrArg Host.Outcome.next ((State.readLowOut_plain h _ _ _).trans ?_)
    rw [if_neg Bool.false_ne_true, State.readOut_narrow h rfl, State.readEffect_todData (State.readsPlain_fn h).1, BitVec.ofNat_toNat,
      BitVec.setWidth_eq]
  case todValue =>
    intro s r i hb hd
    exact State.readReg_unvoted hb hd r rfl i
  case nowValue =>
    intro s r hb hd
    exact State.readReg_unvoted hb hd r rfl 0
  case now =>
    rintro s _ r h rfl
    have h0 := (State.readsPlain_fn h).1
    constructor
    · refine congrArg Host.Outcome.next ((State.readLowOut_plain h _ _ _).trans ?_)
      rw [if_pos rfl, State.readOut_wide h rfl rfl, State.readEffect_timeNow h0]
    · refine congrArg Host.Outcome.next ((State.readLowOut_plain h _ _ _).trans ?_)
      rw [if_neg Bool.false_ne_true, State.readOut_low h rfl rfl, State.readEffect_timeNow h0]
  case popWide =>
    intro s r p h
    refine congrArg Host.Outcome.next ((State.readRegOut_plain h _ _ _).trans ?_)
    rw [if_pos rfl, State.readOut_wide h rfl rfl, State.readEffect_timestamp (State.readsPlain_fn h).1]
    rfl
  case popHigh =>
    intro s r p h
    refine congrArg Host.Outcome.next ((State.readRegOut_plain h _ _ _).trans ?_)
    rw [if_neg Bool.false_ne_true, State.readOut_high h rfl rfl, State.readEffect_timestamp (State.readsPlain_fn h).1]
    rfl

end Sys2Proof.Machine
end

section
/-! PROOF. Reception, pipeline entry and lookup results (R100, R101, R106, R119, R137, R164, R167, R168, R195): each operation on a frame by the
branches of its definition. -/

namespace Sys2Proof.Machine

/-! ## Frames in reception (R100, R101, R106) -/

theorem State.frame?_id {s : State} {f : Nat} {x : Frame} (h : s.frame? f = some x) : x.id = f :=
  beq_iff_eq.mp (List.find?_some (p := fun x : Frame => x.id == f) h)

theorem Frame.not_ended_of_incoming {x : Frame} (h : x.incoming = true) : x.ended = false := by
  simp only [Frame.incoming, Bool.and_eq_true, Bool.not_eq_true'] at h
  exact h.2

theorem State.frameArrival_unusable {s : State} {p : Nat} (h : s.portUsable p = false) (os : List Byte) : s.frameArrival p os = s := by
  simp only [State.frameArrival, h, Bool.not_false, if_true]

theorem exec_frameArrival {s : State} {p : Fin 256} {os : List Byte} (h : os ≠ []) :
    exec (.frameArrival p os) s = .next (s.frameArrival p os) :=
  congrArg Host.Outcome.next (if_neg (by rwa [List.isEmpty_iff]))

/-- The first octets land in a frame of their own, in the port's default class until its tag is there. -/
theorem State.frameArrival_lands {s u w : State} {p : Nat} {y : Frame} (h : s.portUsable p = true) (hu : u = s.touchDomain (p / 16))
    (hw : w = u.newFrame { id := 0, inPort := p, passPort := p, rxClass := u.fld Fld.PRT_CLASS_MAP_DEFAULT_CLASS p, time := u.rxTime p,
                           landing := true, verify := u.flagAt Fld.PRT_CSUM_CTRL_RX_VERIFY p })
    (hy : w.frame? u.swc.nextFrame = some y) (os : List Byte) : s.frameArrival p os = w.receive y os := by
  subst hu hw
  simp only [State.frameArrival, h, Bool.not_true, Bool.false_eq_true, if_false, hy]

theorem State.receive_nil (s : State) (x : Frame) : s.receive x [] = s := by
  unfold State.receive
  dsimp only
  rw [List.take_nil, List.length_nil, if_pos (Nat.zero_le _)]
  rfl

/-- Octets for which the port's share has room join the frame; its class is known once its tag is there. -/
theorem State.landMore_fits {s : State} {x : Frame} {more : List Byte} (h16 : 16 ≤ x.octets.length)
    (hroom : x.octets.length + more.length ≤ (s.fld Fld.OPT_LB_CELLS_CELLS x.inPort - (s.landingPort x.inPort - x.cells)) * 256) :
    s.landMore x more = s.setFrame { x with octets := x.octets ++ more } := by
  have hfit : more.length ≤ (s.fld Fld.OPT_LB_CELLS_CELLS x.inPort - (s.landingPort x.inPort - x.cells)) * 256 - x.octets.length := by omega
  unfold State.landMore
  dsimp only
  rw [if_pos hfit, List.take_of_length_le hfit, if_neg (Nat.not_lt.mpr h16)]

theorem State.receive_lands {s : State} {x : Frame} {more : List Byte} (hmore : more ≠ []) (hlost : x.lost = 0) (hland : x.landing = true)
    (h16 : 16 ≤ x.octets.length) (hmax : x.octets.length + more.length ≤ s.fld Fld.PRT_CONFIG_MAX_FRAME x.inPort)
    (hroom : x.octets.length + more.length ≤ (s.fld Fld.OPT_LB_CELLS_CELLS x.inPort - (s.landingPort x.inPort - x.cells)) * 256) :
    s.receive x more = (s.setFrame { x with octets := x.octets ++ more }).pauseCheck x.inPort := by
  have hfit : more.length ≤ s.fld Fld.PRT_CONFIG_MAX_FRAME x.inPort - (x.octets.length + x.lost) := by omega
  have hgrow : s.grow x more = (s.landMore x more).pauseCheck x.inPort := by
    simp [State.grow, hmore, hlost, hland]
  unfold State.receive
  dsimp only
  rw [if_pos hfit, List.take_of_length_le hfit, hgrow, State.landMore_fits h16 hroom]

/-- A frame whose octets reach MAX_FRAME is ended there. -/
theorem State.maxReached_ends {s t : State} {f : Nat} {x y : Frame} {os : List Byte} (hf : s.frame? f = some x) (hi : x.incoming = true)
    (hos : s.fld Fld.PRT_CONFIG_MAX_FRAME x.inPort - (x.octets.length + x.lost) ≤ os.length)
    (ht : t = s.grow x (os.take (s.fld Fld.PRT_CONFIG_MAX_FRAME x.inPort - (x.octets.length + x.lost)))) (hy : t.frame? f = some y) :
    s.maxReached f os = t.oversize y := by
  subst ht
  simp only [State.maxReached, hf, hi, Bool.not_true, Bool.false_or, decide_eq_false (Nat.not_lt.mpr hos), Bool.false_eq_true, if_false, hy]

/-! ## The tail (R100, R167, R168) -/

/-- A runt leaves the device's memory. -/
theorem State.frame?_dropRunt (s : State) (x : Frame) : (s.dropRunt x).frame? x.id = none := by
  rw [State.frame?, State.dropRunt, State.pauseCheck_swc, State.bump_swc, List.find?_eq_none]
  intro y hy
  simpa using (List.mem_filter.mp hy).2

theorem State.tailOf_runt (s : State) {x : Frame} (h : x.octets.length + x.lost < 64) (c : TailCause) : s.tailOf x c = s.dropRunt x := if_pos h

/-- A frame whose checksums are not verified counts as received, and its tail becomes final. -/
theorem State.tailOf_unverified {s u : State} {x : Frame} {c : TailCause} (h : 64 ≤ x.octets.length + x.lost) (hv : x.verify = false)
    (hu : u = if c = .fcsError then (s.rxCount x).bump .PRT_RX_FCS_ERROR x.inPort else s.rxCount x) :
    s.tailOf x c = u.finishTail
      { x with bad := x.bad || c != .good || u.ipShort x, cutShort := x.cutShort || c == .planChange, csumResult := 0 } := by
  have hwrong : (List.range 4).any (fun i => bits (0 : BitVec 8).toNat (2 * i) 2 == 2) = false := by decide
  unfold State.tailOf
  rw [if_neg (Nat.not_lt.mpr h), hv]
  dsimp only
  simp only [beq_iff_eq, ← hu, Bool.false_eq_true, if_false, hwrong]

section Tail
variable {s : State} {f : Nat} {x : Frame} {c : TailCause} (hf : s.frame? f = some x) (hi : x.incoming = true)
include hf hi

/-- A tail that brings no octets ends the frame as it stands; one that is gone then leaves nothing to do. -/
theorem State.tailReceived_gone (hg : (s.tailOf x c).frame? f = none) : s.tailReceived f [] c = s.tailOf x c := by
  simp only [State.tailReceived, hf, hi, State.receive_nil, Frame.not_ended_of_incoming hi, hg, Bool.not_true, Bool.false_eq_true, if_false]

theorem State.tailReceived_collects {y : Frame} (hy : (s.tailOf x c).frame? f = some y) (hp : y.phase ≠ .held) :
    s.tailReceived f [] c = (s.tailOf x c).collect := by
  simp only [State.tailReceived, hf, hi, State.receive_nil, Frame.not_ended_of_incoming hi, hy, beq_false_of_ne hp, Bool.not_true,
    Bool.false_eq_true, if_false]

end Tail

/-! ## Pipeline entry (R102, R119, R137) -/

/-- A frame held far enough, in a domain that runs, is consumed, dropped with its forced scene, or takes its pass. -/
theorem State.pipelineEntry_ready {s : State} {f : Nat} {x : Frame} (hf : s.frame? f = some x) (hi : x.incoming = false)
    (hp : x.phase = .arriving) (hr : x.ended = true ∨ 512 ≤ x.octets.length) (hd : x.passPort < 256 → s.domainOn (x.passPort / 16) = true)
    (os : List Byte) (o : Bool) : s.pipelineEntry f os o =
      if s.consumed x then ((s.setFrame { x with phase := .forwarded, landing := false, chosen := true }).collect).pauseCheck x.inPort
      else if x.entered && s.sceneIsForced x.ticket.scene then s.dropForced x else (s.enterPass x o).pauseCheck x.inPort := by
  have hready : x.entryReady = true := by
    rw [Frame.entryReady, Bool.or_eq_true, decide_eq_true_eq]
    exact hr
  have hdomain : ¬(decide (x.passPort < 256) && !s.domainOn (x.passPort / 16)) = true := by
    rw [Bool.and_eq_true, decide_eq_true_eq, Bool.not_eq_true']
    exact fun ⟨hlt, hoff⟩ => Bool.false_ne_true (hoff.symm.trans (hd hlt))
  unfold State.pipelineEntry
  rw [hf]
  dsimp only
  rw [hi, if_neg Bool.false_ne_true, hf]
  dsimp only
  rw [hp, hready, if_neg (by decide), if_neg hdomain]

/-! ## The lookup result (R137, R164, R195) -/

/-- A frame that no earlier one holds up is carried out, as is a held one once it has ended. -/
theorem State.lookupResult_carries {s : State} {f : Nat} {x : Frame} (hf : s.frame? f = some x)
    (h : (x.phase = .looking ∧ s.overtakes x = false) ∨ (x.phase = .held ∧ x.ended = true)) :
    s.lookupResult f = s.carryOut x := by
  have hb : ((x.phase == .looking && !s.overtakes x) || (x.phase == .held && x.ended)) = true := by
    simpa using h
  simp only [State.lookupResult, hf, hb, if_true]

section Carried
variable {s : State} {x : Frame} {d : Decision} (hd : x.decision = some d)
include hd

theorem State.carryOut_forced (hs : s.sceneIsForced x.ticket.scene = true) : s.carryOut x = s.dropForced x := by
  simp only [State.carryOut, hd, hs, if_true]

variable (hs : s.sceneIsForced x.ticket.scene = false) (hc : s.creditHeld x d = false)
include hs hc

theorem State.carryOut_unpoliced (hp : d.police = none) : s.carryOut x = s.choose x d := by
  simp only [State.carryOut, hd, hs, hc, hp, Bool.false_eq_true, if_false]

variable {n : Nat} {a : Bool} (hp : d.police = some (n, a))
include hp

/-- Policing waits for the frame's length. -/
theorem State.carryOut_held (he : x.ended = false) : s.carryOut x = s.setFrame { x with phase := .held } := by
  simp only [State.carryOut, hd, hs, hc, hp, he, Bool.not_false, Bool.false_eq_true, if_false, if_true]

/-- A frame that the policer finds red is dropped, or passes marked red. -/
theorem State.carryOut_red (he : x.ended = true) {m : Nat × State} (hm : m = s.meter n x.octets.length a x.ticket.dp.toNat) (hred : m.1 = 2) :
    s.carryOut x = if s.flagAt Fld.TMS_POLICER_SIZE_RED_DROP n then (m.2.bump .TMS_POLICE_DROP 0).choose x { d with forward := 5 }
      else (m.2.bump .TMS_POLICE_RED_PASSED 0).choose { x with ticket := { x.ticket with dp := 2 } } d := by
  subst hm
  simp only [State.carryOut, hd, hs, hc, hp, he, hred, Bool.not_true, Bool.false_eq_true, if_false, if_true, true_and]
  rfl

end Carried

/-- Settles O21: each step of a frame's reception by the branch that its premises pick. -/
theorem reception : Obligations.Reception := by
  unfold Obligations.Reception
  refine ⟨?unusable, ?lands, ?joins, ?oversize, ?runt, ?tail, ?entry, ?forced, ?unpoliced, ?held, ?red⟩
  case unusable =>
    intro s p os hos hu
    rw [exec_frameArrival hos, State.frameArrival_unusable hu]
  case lands =>
    rintro s u w p _ _ os y hos husable hu rfl rfl hw hy
    rw [exec_frameArrival hos, State.frameArrival_lands husable hu hw hy]
  case joins =>
    exact fun s x more hmore hlost hland h16 hmax hroom => State.receive_lands hmore hlost hland h16 hmax hroom
  case oversize =>
    exact fun s t f x y os hf hi hos ht hy => congrArg Host.Outcome.next (State.maxReached_ends hf hi hos ht hy)
  case runt =>
    intro s f x c hf hi hlen
    obtain rfl := State.frame?_id hf
    have htail := s.tailOf_runt hlen c
    exact congrArg Host.Outcome.next ((State.tailReceived_gone hf hi (by rw [htail, State.frame?_dropRunt])).trans htail)
  case tail =>
    intro s u w f x y c hf hi hlen hv hu hw hy hp
    have htail := (State.tailOf_unverified (s := s) hlen hv hu).trans hw.symm
    exact congrArg Host.Outcome.next ((State.tailReceived_collects hf hi (by rw [htail, hy]) hp).trans (congrArg State.collect htail))
  case entry =>
    exact fun s f x os o hf hi hp hr hd => congrArg Host.Outcome.next (State.pipelineEntry_ready hf hi hp hr hd os o)
  case forced =>
    intro s f x d hf hp ho hd hs
    exact congrArg Host.Outcome.next ((State.lookupResult_carries hf (.inl ⟨hp, ho⟩)).trans (State.carryOut_forced hd hs))
  case unpoliced =>
    intro s f x d hf hp ho hd hs hc hn
    exact congrArg Host.Outcome.next ((State.lookupResult_carries hf (.inl ⟨hp, ho⟩)).trans (State.carryOut_unpoliced hd hs hc hn))
  case held =>
    intro s f x d n a hf hp ho hd hs hc hn he
    exact congrArg Host.Outcome.next ((State.lookupResult_carries hf (.inl ⟨hp, ho⟩)).trans (State.carryOut_held hd hs hc hn he))
  case red =>
    intro s f x d n a m hf hp hd hs hc hn he hm hred
    exact congrArg Host.Outcome.next ((State.lookupResult_carries hf (.inr ⟨hp, he⟩)).trans (State.carryOut_red hd hs hc hn he hm hred))

end Sys2Proof.Machine
end

section
/-! PROOF. Management frames and their reassembly (R112 to R114): which frames a segment takes, the header's rules, and the fate of a segment
of a message. -/

namespace Sys2Proof.Machine

/-! ## Frames a segment takes (R112, R113) -/

/-- The header of a frame breaks a rule of R113. -/
def mgmtHeaderBad (b : List Byte) : Bool :=
  leAt b 0 1 != 1 || !between 1 9 (leAt b 1 1) || !between 1 1024 (leAt b 18 2) || decide (leAt b 18 2 ≤ leAt b 16 2) ||
    !between 1 1476 (leAt b 20 2) || decide (b.length < 24 + leAt b 20 2)

theorem between_eq_false_iff (lo hi n : Nat) : between lo hi n = false ↔ n < lo ∨ hi < n := by
  unfold between
  rw [Bool.and_eq_false_iff, decide_eq_false_iff_not, decide_eq_false_iff_not]
  omega

theorem mgmtHeaderBad_iff (b : List Byte) : mgmtHeaderBad b = true ↔ leAt b 0 1 ≠ 1 ∨ leAt b 1 1 < 1 ∨ 9 < leAt b 1 1 ∨ leAt b 18 2 < 1 ∨
    1024 < leAt b 18 2 ∨ leAt b 18 2 ≤ leAt b 16 2 ∨ leAt b 20 2 < 1 ∨ 1476 < leAt b 20 2 ∨ b.length < 24 + leAt b 20 2 := by
  simp only [mgmtHeaderBad, Bool.or_eq_true, bne_iff_ne, Bool.not_eq_true', between_eq_false_iff, decide_eq_true_eq, or_assoc]

section Frame
variable {s : State} {g : Nat} {src dst : Mac} {b : List Byte}

theorem State.mgmtFrame_passed {et : Nat} (h : s.mapAnswers = false ∨ s.segmentOn g = false ∨ et ≠ 0x88B5 ∨
    (dst ≠ Config.segMac g ∧ dst ≠ 0xFFFFFFFFFFFF)) : s.mgmtFrame g src dst et b = s :=
  if_pos (by simpa only [Bool.or_eq_true, Bool.and_eq_true, Bool.not_eq_true', bne_iff_ne, or_assoc] using h)

/-- A frame taken is counted and its header checked. -/
theorem State.mgmtFrame_taken (hm : s.mapAnswers = true) (hs : s.segmentOn g = true) (hd : dst = Config.segMac g ∨ dst = 0xFFFFFFFFFFFF) :
    s.mgmtFrame g src dst 0x88B5 b = if mgmtHeaderBad b then (s.bump .MGT_SEG_RX_FRAMES g).bump .MGT_SEG_BAD_FRAMES g
      else (s.bump .MGT_SEG_RX_FRAMES g).segmentIn g src b := by
  refine if_neg ?_
  rw [hm, hs]
  rcases hd with rfl | rfl <;> simp

end Frame

/-! ## Segments of messages (R113, R114) -/

/-- The assemblies of every other message. -/
def State.otherAssemblies (v : State) (x : Assembly) : List Assembly :=
  v.mgt.assemblies.filter (fun y => !(y.station == x.station && y.seq == x.seq))

/-- An assembly with the segment it took: it waits for the rest, or its message is accepted and acts. -/
def State.assembled (v : State) (g : Nat) (x : Assembly) : State :=
  match x.whole with
  | none => { v with mgt := { v.mgt with assemblies := v.otherAssemblies x ++ [x] } }
  | some m =>
    let y := { v with mgt := { v.mgt with assemblies := v.otherAssemblies x } }
    (y.setStation ((y.station x.station).accept x.seq)).message x.station g x.seq x.type.toNat m

theorem State.assembled_open (v : State) (g : Nat) {x : Assembly} (h : x.whole = none) :
    v.assembled g x = { v with mgt := { v.mgt with assemblies := v.otherAssemblies x ++ [x] } } := by
  rw [State.assembled, h]

theorem State.assembled_whole (v : State) (g : Nat) {x : Assembly} {m : List Byte} (h : x.whole = some m) {y : State}
    (hy : y = { v with mgt := { v.mgt with assemblies := v.otherAssemblies x } }) :
    v.assembled g x = (y.setStation ((y.station x.station).accept x.seq)).message x.station g x.seq x.type.toNat m := by
  rw [State.assembled, h, hy]

section Segment
variable {s v : State} {g : Nat} {src : Mac} {b : List Byte} {id : BitVec 64} {seq : BitVec 32} (hv : v = s.hear id g src)
  (hid : id = BitVec.ofNat 64 (leAt b 4 8)) (hseq : seq = BitVec.ofNat 32 (leAt b 12 4))
include hv hid hseq

theorem State.segmentIn_duplicate (h : (v.station id).seen seq = true) : s.segmentIn g src b = v.bump .MGT_SEG_DUP_DROPPED g := by
  subst hv hid hseq
  exact if_pos h

/-- The first segment of a message not yet accepted opens an assembly. -/
theorem State.segmentIn_first (h : (v.station id).seen seq = false)
    (hn : v.mgt.assemblies.find? (fun x => x.station == id && x.seq == seq) = none) {x : Assembly}
    (hx : x = { station := id, seq := seq, type := BitVec.ofNat 8 (leAt b 1 1), count := leAt b 18 2,
                parts := SMap.set partDefault (leAt b 16 2) (some (slice b 24 (leAt b 20 2))) [], movedAt := v.elapsed }) :
    s.segmentIn g src b = v.assembled g x := by
  subst hv hid hseq hx
  unfold State.segmentIn
  dsimp only
  rw [h, hn, if_neg Bool.false_ne_true, Option.getD_none]
  dsimp only
  rw [bne_self_eq_false, bne_self_eq_false, Bool.or_self, if_neg Bool.false_ne_true]
  rfl

end Segment

/-- Settles O28: a frame is passed over, bad, a duplicate, or the first segment of its message. -/
theorem managementFrames : Obligations.ManagementFrames := by
  unfold Obligations.ManagementFrames
  refine ⟨fun s g src dst et b h => congrArg Host.Outcome.next (State.mgmtFrame_passed h), ?taken, fun _ _ _ => rfl⟩
  rintro s _ g src dst b hm hs hd rfl
  have htaken : exec (.mgmtFrameReceived g src dst 0x88B5 b) s = .next (if mgmtHeaderBad b then
      (s.bump .MGT_SEG_RX_FRAMES g).bump .MGT_SEG_BAD_FRAMES g else (s.bump .MGT_SEG_RX_FRAMES g).segmentIn g src b) :=
    congrArg Host.Outcome.next (State.mgmtFrame_taken hm hs hd)
  refine ⟨fun hbad => ?bad, fun hver hlo hhi hclo hchi hidx hllo hlhi hlen v id seq hv hid hseq => ?good⟩
  case bad => rw [htaken, if_pos ((mgmtHeaderBad_iff b).mpr hbad)]
  case good =>
    have hgood : ¬mgmtHeaderBad b = true := by
      rw [mgmtHeaderBad_iff]
      omega
    rw [htaken, if_neg hgood]
    refine ⟨fun hdup => congrArg Host.Outcome.next (State.segmentIn_duplicate hv hid hseq hdup),
      fun x hnew hnone hx => ⟨fun hpart => ?_, fun m y hwhole hy => ?_⟩⟩
    · subst hx
      exact congrArg Host.Outcome.next ((State.segmentIn_first hv hid hseq hnew hnone rfl).trans (v.assembled_open g hpart))
    · subst hx
      exact congrArg Host.Outcome.next ((State.segmentIn_first hv hid hseq hnew hnone rfl).trans (v.assembled_whole g hwhole hy))

end Sys2Proof.Machine
end

section
/-! PROOF. Scenes (R134 to R138): the status of a commit by its tests in turn, what each status does, and the slots as the scenes in them
activate, drain and are forced. -/

namespace Sys2Proof.Machine

/-- The write of a CLS register, as its block sees it. -/
theorem State.performWrite_cls (s : State) (r : Requester) {reg : RegName} (hb : reg.info.block = .CLS) (i : Nat) (value mask : Word) :
    s.performWrite r reg i value mask = s.writeCls (s.writeSeen reg i value mask) := by
  simp only [State.performWrite, hb]; rfl

/-- A slot that is not FREE holds the scene it was given. -/
theorem State.slot_setSlot_self (s : State) (n : Nat) {v : SceneSlot} (h : v ≠ {}) : (s.setSlot n v).slot n = v := SMap.get_set_other h

/-! ## The status of a commit (R138) -/

section Status
variable {s : State} (timed : Bool)

theorem State.commitCheck_notPending {sc : BitVec 16} (h : sc ≠ s.scn.pending) : s.commitCheck sc timed = (0x91, 0) :=
  if_pos (bne_iff_ne.mpr h)

/-- The pending scene passes the first test. -/
theorem State.commitCheck_pending : s.commitCheck s.scn.pending timed = if s.armedSlot.isSome then (0x92, 0)
    else s.freeSceneSlot.elim (Code.COMMIT_BUSY, 0) (fun n => if timed && s.actTime ≤ s.now then (0x90, 0) else (Code.OK, n)) := by
  unfold State.commitCheck
  rw [if_neg (by simp)]
  cases s.freeSceneSlot <;> rfl

theorem State.commitCheck_armed {n : Nat} (h : s.armedSlot = some n) : s.commitCheck s.scn.pending timed = (0x92, 0) := by
  rw [State.commitCheck_pending, h]; rfl

theorem State.commitCheck_noSlot (ha : s.armedSlot = none) (hf : s.freeSceneSlot = none) :
    s.commitCheck s.scn.pending timed = (Code.COMMIT_BUSY, 0) := by
  rw [State.commitCheck_pending, ha, hf]; rfl

theorem State.commitCheck_slot {n : Nat} (ha : s.armedSlot = none) (hf : s.freeSceneSlot = some n) :
    s.commitCheck s.scn.pending timed = if timed = true ∧ s.actTime ≤ s.now then (0x90, 0) else (Code.OK, n) := by
  rw [State.commitCheck_pending, ha, hf]
  simp

end Status

/-! ## What a commit does (R135, R138) -/

section Commit
variable {s : State} {sc : BitVec 16} {timed : Bool}

theorem State.sceneCommit_refused (h : (s.commitCheck sc timed).1 ≠ Code.OK) :
    s.sceneCommit sc timed = s.setScene { s.scn with lastStatus := BitVec.ofNat 8 (s.commitCheck sc timed).1 } :=
  if_pos (bne_iff_ne.mpr h)

theorem State.sceneCommit_immediate {n : Nat} (h : s.commitCheck sc false = (Code.OK, n)) :
    s.sceneCommit sc false = (s.setScene { s.scn with lastStatus := BitVec.ofNat 8 Code.OK }).makeCurrent n sc := by
  simp only [State.sceneCommit, h, bne_self_eq_false, Bool.false_eq_true, if_false]

/-- The activation time is the one the registers hold: the record of the status and the slot are no registers. -/
theorem State.sceneCommit_armed {n : Nat} {x : State} (h : s.commitCheck sc true = (Code.OK, n))
    (hx : x = (s.setScene { s.scn with lastStatus := BitVec.ofNat 8 Code.OK }).setSlot n { scene := sc, state := .ARMED }) :
    s.sceneCommit sc true = x.setScene { x.scn with activation := s.actTime } := by
  subst hx
  simp only [State.sceneCommit, h, bne_self_eq_false, Bool.false_eq_true, if_false, if_true]
  rfl

end Commit

/-! ## Admitted writes of CLS_SCENE_COMMIT (R138, R139) -/

/-- The word a commit writes: SCENE, TIMED and no CANCEL. -/
def commitWord (sc : BitVec 16) (timed : Bool) : BitVec 32 := BitVec.ofNat 32 (sc.toNat + 2 ^ 16 * flag timed)

theorem commitWord_fields (sc : BitVec 16) (timed : Bool) : bits (commitWord sc timed).toNat 0 16 = sc.toNat ∧
    bits (commitWord sc timed).toNat 16 1 = flag timed ∧ (commitWord sc timed).getLsbD 17 = false := by
  have hs := sc.isLt
  have hf : flag timed ≤ 1 := by cases timed <;> decide
  have hw : (commitWord sc timed).toNat = sc.toNat + 2 ^ 16 * flag timed := by rw [commitWord, BitVec.toNat_ofNat]; omega
  refine ⟨?_, ?_, ?_⟩
  · rw [hw, bits]; omega
  · rw [hw, bits]; omega
  · rw [BitVec.getLsbD, hw]
    exact Nat.testBit_lt_two_pow (by omega)

/-- What a commit stores in CLS_SCENE_COMMIT. -/
def State.commitWritten (u : State) (sc : BitVec 16) (timed : Bool) : Word :=
  (u.writeSeen .CLS_SCENE_COMMIT 0 ((commitWord sc timed).setWidth 64) lowMask).new

theorem State.commitWritten_fields (u : State) (sc : BitVec 16) (timed : Bool) :
    fieldOf (u.commitWritten sc timed) 0 16 = sc.toNat ∧ fieldOf (u.commitWritten sc timed) 16 1 = flag timed := by
  obtain ⟨hscene, htimed, _⟩ := commitWord_fields sc timed
  have hd : RegName.CLS_SCENE_COMMIT.info.fields.Pairwise FieldInfo.apart := by unfold FieldInfo.apart; decide
  have hw := fun {f : FieldInfo} (hf : f ∈ RegName.CLS_SCENE_COMMIT.info.fields) (ha : f.access = .RW ∨ f.access = .RWV)
    (hl : f.lo + f.width ≤ 32) => u.writeSeen_low hd hf ha hl 0 (commitWord sc timed)
  exact ⟨(hw (f := ⟨0, 16, .RWV, 0⟩) (by decide) (.inr rfl) (by decide)).trans hscene,
    (hw (f := ⟨16, 1, .RWV, 0⟩) (by decide) (.inr rfl) (by decide)).trans htimed⟩

theorem State.performWrite_commit (u : State) (r : Requester) (sc : BitVec 16) (timed : Bool) :
    u.performWrite r .CLS_SCENE_COMMIT 0 ((commitWord sc timed).setWidth 64) lowMask =
      (u.setReg .CLS_SCENE_COMMIT 0 (u.commitWritten sc timed)).sceneCommit sc timed := by
  obtain ⟨hscene, htimed⟩ := u.commitWritten_fields sc timed
  have hcancel : (u.writeSeen .CLS_SCENE_COMMIT 0 ((commitWord sc timed).setWidth 64) lowMask).hits 17 = false := by
    unfold RegWrite.hits State.writeSeen
    rw [and_lowMask, bit_low]
    exact (commitWord_fields sc timed).2.2
  have hs : BitVec.ofNat 16 (fieldOf (u.commitWritten sc timed) 0 16) = sc := by rw [hscene, BitVec.ofNat_toNat, BitVec.setWidth_eq]
  have ht : (fieldOf (u.commitWritten sc timed) 16 1 == 1) = timed := by rw [htimed]; cases timed <;> rfl
  rw [u.performWrite_cls r rfl]
  have hc : u.writeCls (u.writeSeen .CLS_SCENE_COMMIT 0 ((commitWord sc timed).setWidth 64) lowMask) =
      (u.setReg .CLS_SCENE_COMMIT 0 (u.commitWritten sc timed)).sceneCommit
        (BitVec.ofNat 16 (fieldOf (u.commitWritten sc timed) 0 16)) (fieldOf (u.commitWritten sc timed) 16 1 == 1) :=
    if_neg (Bool.eq_false_iff.mp hcancel)
  rw [hc, hs, ht]

section Admitted
variable {s u : State} {r : Requester} (h : s.admitWrite r .CLS_SCENE_COMMIT 0 = (true, u))
include h

theorem exec_sceneCommit_of (sc : BitVec 16) (timed : Bool) : exec (.sceneCommit r sc timed) s =
    .next ((u.setReg .CLS_SCENE_COMMIT 0 (u.commitWritten sc timed)).sceneCommit sc timed) :=
  congrArg _ ((State.directWrite_undomained h rfl _ _).trans (u.performWrite_commit r sc timed))

/-- CANCEL acts by its bit alone: nothing is stored. -/
theorem exec_sceneCancel_of : exec (.sceneCancel r) s = .next u.sceneCancel :=
  congrArg _ ((State.directWrite_undomained h rfl _ _).trans (if_pos (show bit (0x20000 &&& 0x20000 : Word).toNat 17 = true by decide)))

end Admitted

/-! ## CANCEL and activation (R138) -/

section Armed
variable {s : State} {n : Nat}

theorem State.sceneCancel_armed (h : s.armedSlot = some n) :
    s.sceneCancel = if s.scn.activation ≤ s.now then s else { s.setSlot n {} with stk := { s.stk with fullArmed := false } } := by
  simp only [State.sceneCancel, h]

theorem State.sceneCancel_none (h : s.armedSlot = none) : s.sceneCancel = s := by
  simp only [State.sceneCancel, h]

theorem State.sceneActivate_reached (h : s.armedSlot = some n) (ht : s.scn.activation ≤ s.now) :
    s.sceneActivate = s.makeCurrent n (s.slot n).scene := by
  simp only [State.sceneActivate, h, if_pos ht]

theorem State.sceneActivate_waits (h : s.armedSlot = some n) (ht : s.now < s.scn.activation) : s.sceneActivate = s := by
  simp only [State.sceneActivate, h, if_neg (Nat.not_le.mpr ht)]

/-- The armed scene activates, and a FULL scene of the stack with it. -/
theorem State.sceneActs_reached {t : State} (h : s.armedSlot = some n) (ht : s.scn.activation ≤ s.now)
    (hc : t = s.makeCurrent n (s.slot n).scene) (ha : t.armedSlot = none) : s.sceneActs = t.sceneActivated := by
  subst hc
  have hb : (s.armedSlot.isSome && (s.makeCurrent n (s.slot n).scene).armedSlot.isNone) = true := by rw [h, ha]; rfl
  simp only [State.sceneActs, State.sceneActivate_reached h ht, hb, if_true]

theorem State.sceneActs_waits (h : s.armedSlot = some n) (ht : s.now < s.scn.activation) : s.sceneActs = s := by
  have hb : (s.armedSlot.isSome && s.armedSlot.isNone) = false := by rw [h]; rfl
  simp only [State.sceneActs, State.sceneActivate_waits h ht, hb, Bool.false_eq_true, if_false]

end Armed

/-- The scene that becomes CURRENT moves the pending scene one on (R134, R135). -/
theorem State.makeCurrent_current (s : State) (n : Nat) (sc : BitVec 16) : (s.makeCurrent n sc).scn.current = sc ∧
    (s.makeCurrent n sc).scn.pending = sc + 1 ∧ (s.makeCurrent n sc).slot n = { scene := sc, state := .CURRENT } :=
  ⟨rfl, rfl, State.slot_setSlot_self _ n (by simp)⟩

/-! ## Drainage and forcing (R136, R137) -/

section Drainage
variable {s : State} {n : Nat}

theorem State.sceneDrained_frees (h : (s.slot n).state = .DRAINING ∨ (s.slot n).state = .FORCED) (hz : s.inflight (s.slot n).scene = 0) :
    s.sceneDrained n = s.setSlot n {} := if_pos ⟨h, hz⟩

theorem State.sceneForced_limit (h : (s.slot n).state = .DRAINING)
    (ht : (s.slot n).since + s.fld Fld.CLS_RETIRE_LIMIT_MS 0 * 1000000 ≤ s.elapsed) :
    s.sceneForced n = (s.setSlot n { s.slot n with state := .FORCED }).scenePurge (s.slot n).scene := if_pos ⟨h, ht⟩

theorem State.sceneForced_waits (ht : s.elapsed < (s.slot n).since + s.fld Fld.CLS_RETIRE_LIMIT_MS 0 * 1000000) : s.sceneForced n = s :=
  if_neg (fun h => Nat.not_le.mpr ht h.2)

end Drainage

/-- Settles O22: an admitted commit stores its word and performs State.sceneCommit, whose branches are the statuses of R138; the other
clauses are the branches of the slot operations. -/
theorem scenes : Obligations.Scenes := by
  unfold Obligations.Scenes
  refine ⟨?commit, ?status, ?cancel, ?cancelNone, ?activation, ?activationWaits, State.makeCurrent_current, ?drained, ?forced, ?forcedWaits⟩
  case commit =>
    intro s u r sc timed h
    obtain ⟨hscene, htimed⟩ := u.commitWritten_fields sc timed
    refine ⟨u.commitWritten sc timed, hscene, htimed, ?_⟩
    rintro _ rfl
    rw [exec_sceneCommit_of h]
    refine ⟨fun hc => congrArg _ (State.sceneCommit_refused hc), ?_, ?_⟩
    · rintro n hc rfl
      exact congrArg _ (State.sceneCommit_immediate hc)
    · rintro n x hc rfl hx
      exact congrArg _ (State.sceneCommit_armed hc hx)
  case status =>
    intro s sc timed
    refine ⟨fun h => by rw [State.commitCheck_notPending timed h], ?_, ?_, ?_⟩
    · rintro n rfl ha
      rw [State.commitCheck_armed timed ha]
    · rintro rfl ha hf
      rw [State.commitCheck_noSlot timed ha hf]
    · rintro n rfl ha hf
      exact State.commitCheck_slot timed ha hf
  case cancel => exact fun s u r n h ha => (exec_sceneCancel_of h).trans (congrArg _ (State.sceneCancel_armed ha))
  case cancelNone => exact fun s u r h ha => (exec_sceneCancel_of h).trans (congrArg _ (State.sceneCancel_none ha))
  case activation => exact fun s t n ha ht hc hn => congrArg _ (State.sceneActs_reached ha ht hc hn)
  case activationWaits => exact fun s n ha ht => congrArg _ (State.sceneActs_waits ha ht)
  case drained => exact fun s n h hz => congrArg _ (State.sceneDrained_frees h hz)
  case forced => rintro s n _ rfl h ht; exact congrArg _ (State.sceneForced_limit h ht)
  case forcedWaits => exact fun s n _ ht => congrArg _ (State.sceneForced_waits ht)

end Sys2Proof.Machine
end

section
/-! PROOF. Rehearsals of a switch-over and the gate probe (R424 to R426), the frame rings of the CPCs (R430), and the request a CPC posts to
the lead vault (R269, R429). -/

namespace Sys2Proof.Machine

/-! ## Writes of RDN registers (R429, R431) -/

/-- The write of an RDN register, as its block sees it. -/
theorem State.performWrite_rdn (s : State) (r : Requester) {reg : RegName} (hb : reg.info.block = .RDN) (i : Nat) (value mask : Word) :
    s.performWrite r reg i value mask = s.writeRdn r (s.writeSeen reg i value mask) := by
  simp only [State.performWrite, hb]; rfl

/-- The write of a register of a unit's local window, as its block sees it. -/
theorem State.performWrite_local (s : State) (r : Requester) {reg : RegName} (hb : reg.info.block = .LOCAL) (i : Nat) (value mask : Word) :
    s.performWrite r reg i value mask = s.writeLocal (s.writeSeen reg i value mask) := by
  simp only [State.performWrite, hb]; rfl

/-- A field the mask leaves out, in the new value of a written register. -/
theorem kept_at {fs : List FieldInfo} {f : FieldInfo} (hd : fs.Pairwise FieldInfo.apart) (hf : f ∈ fs) {mask : Nat}
    (hm : bits mask f.lo f.width = 0) (h : f.lo + f.width ≤ 64) (old new : Nat) :
    fieldOf (BitVec.ofNat 64 (plainWritten fs old new mask)) f.lo f.width = bits old f.lo f.width := by
  rw [fieldOf_ofNat _ h]
  unfold plainWritten
  rw [plainWritten_field hd hf, FieldInfo.written_kept (fun _ => hm), bits_bits_mod]

section Admitted
variable {s u : State} {r : Requester}

/-- A bit that a write sets. -/
theorem State.writeSeen_hits (reg : RegName) (i : Nat) (value mask : Word) (k : Nat) :
    (u.writeSeen reg i value mask).hits k = bit (value &&& mask).toNat k := rfl

/-- YIELD and DONE act for the unit that wrote them (R425). -/
theorem State.writeRdn_rehearsal {k : Nat} (hu : u.unitOf r = some k) {x : RegWrite} (hx : x.reg = .RDN_REHEARSAL) : u.writeRdn r x =
    if x.hits 1 then (if x.hits 0 then u.yieldBy k else u).doneBy k else if x.hits 0 then u.yieldBy k else u := by
  simp only [State.writeRdn, hx, hu]

theorem exec_yield_of {k : Nat} (h : s.admitWrite r .RDN_REHEARSAL 0 = (true, u)) (hu : u.unitOf r = some k) :
    exec (.yield r) s = .next (u.yieldBy k) := by
  refine congrArg _ ((State.directWrite_undomained h rfl _ _).trans ?_)
  rw [u.performWrite_rdn r rfl, State.writeRdn_rehearsal hu rfl, State.writeSeen_hits, State.writeSeen_hits]
  exact (if_neg (by decide)).trans (if_pos (by decide))

theorem exec_rehearsalDone_of {k : Nat} (h : s.admitWrite r .RDN_REHEARSAL 0 = (true, u)) (hu : u.unitOf r = some k) :
    exec (.rehearsalDone r) s = .next (u.doneBy k) := by
  refine congrArg _ ((State.directWrite_undomained h rfl _ _).trans ?_)
  rw [u.performWrite_rdn r rfl, State.writeRdn_rehearsal hu rfl, State.writeSeen_hits, State.writeSeen_hits]
  exact (if_pos (by decide)).trans (congrArg (fun t : State => t.doneBy k) (if_neg (by decide)))

theorem State.writeRdn_probe {n : Fin 2} {c : Fin 4} {x : RegWrite} (hx : x.reg = .RDN_PROBE) :
    u.writeRdn (.cpc n c) x = if x.hits 0 then u.probeBy n else u := by
  simp only [State.writeRdn, hx]

/-- A probe of a CPC core asks the gates (R424). -/
theorem exec_probe_cpc {n : Fin 2} {c : Fin 4} (h : s.admitWrite (.cpc n c) .RDN_PROBE 0 = (true, u)) :
    exec (.probe (.cpc n c)) s = .next (u.probeBy n) := by
  refine congrArg _ ((State.directWrite_undomained h rfl _ _).trans ?_)
  rw [u.performWrite_rdn (.cpc n c) rfl, State.writeRdn_probe rfl, State.writeSeen_hits]
  exact if_pos (by decide)

/-- A vault has no prober's gates: its probe does nothing. -/
theorem exec_probe_vault {n : Fin 2} (h : s.admitWrite (.vault n) .RDN_PROBE 0 = (true, u)) : exec (.probe (.vault n)) s = .next u := by
  refine congrArg _ ((State.directWrite_undomained h rfl _ _).trans ?_)
  rw [u.performWrite_rdn (.vault n) rfl]
  rfl

end Admitted

theorem State.probeBy_passes {s : State} {u : Nat} (h : s.gatePasses u = true) : s.probeBy u = s.setReg .RDN_PROBE_STATUS 0 0x7F := by
  rw [State.probeBy, if_pos h]; rfl

theorem State.probeBy_refused {s : State} {u : Nat} (h : s.gatePasses u = false) : s.probeBy u = s.setReg .RDN_PROBE_STATUS 0 0x40 := by
  rw [State.probeBy, if_neg (Bool.eq_false_iff.mp h)]; rfl

/-! ## The vault request ring (R269, R429) -/

/-- A write of the ring's register takes both indices the CPC owns, modulo the ring. -/
theorem State.writeLocal_vring (u : State) {x : RegWrite} (hx : x.reg = .RDN_LOCAL_VRING) : u.writeLocal x =
    ((u.setFld Fld.RDN_LOCAL_VRING_REQ_PROD x.idx (x.at Fld.RDN_LOCAL_VRING_REQ_PROD % 32)).setFld Fld.RDN_LOCAL_VRING_RPL_CONS x.idx
      (x.at Fld.RDN_LOCAL_VRING_RPL_CONS % 32)).skipUnknown 16 := by
  simp only [State.writeLocal, hx]

/-- A write of REQ_PROD alone carries the producer given, and the reply consumer as it stands. -/
theorem State.writeSeen_reqProd (u : State) (i : Nat) (p : BitVec 16) {x : RegWrite}
    (hx : x = u.writeSeen .RDN_LOCAL_VRING i (withField 0 0 16 p.toNat) (withField 0 0 16 (2 ^ 16 - 1))) :
    x.at Fld.RDN_LOCAL_VRING_REQ_PROD = p.toNat ∧ x.at Fld.RDN_LOCAL_VRING_RPL_CONS = fieldOf (u.reg .RDN_LOCAL_VRING i) 48 16 := by
  subst hx
  have hd : RegName.RDN_LOCAL_VRING.info.fields.Pairwise FieldInfo.apart := by unfold FieldInfo.apart; decide
  have hp : bits (withField 0 0 16 p.toNat).toNat 0 16 = p.toNat :=
    (fieldOf_withField 0 p.toNat (by decide)).trans (Nat.mod_eq_of_lt p.isLt)
  exact ⟨(written_at (f := ⟨0, 16, .RW, 0⟩) hd (by decide) (.inl rfl) (by decide) (by decide) _ _).trans hp,
    kept_at (f := ⟨48, 16, .RW, 0⟩) hd (by decide) (by decide) (by decide) _ _⟩

theorem exec_vaultRequestPost_of {s u : State} {n : Fin 2} (h : s.admitWrite (.cpc n 0) .RDN_LOCAL_VRING n = (true, u)) (p : BitVec 16) :
    exec (.vaultRequestPost n p) s = .next (((u.setFld Fld.RDN_LOCAL_VRING_REQ_PROD n (p.toNat % 32)).setFld Fld.RDN_LOCAL_VRING_RPL_CONS n
      (fieldOf (u.reg .RDN_LOCAL_VRING n) 48 16 % 32)).skipUnknown 16) := by
  obtain ⟨hprod, hcons⟩ := u.writeSeen_reqProd n p rfl
  have hw := u.writeLocal_vring (x := u.writeSeen .RDN_LOCAL_VRING n (withField 0 0 16 p.toNat) (withField 0 0 16 (2 ^ 16 - 1))) rfl
  rw [hprod, hcons] at hw
  exact congrArg _ ((State.directWrite_undomained h rfl _ _).trans ((u.performWrite_local (.cpc n 0) rfl _ _ _).trans hw))

/-! ## Rehearsals (R425, R426) -/

section Pairs
variable {s : State} {n : Nat} (k : Nat)

theorem State.rehearseFrom_noPair (hn : n < 10) (hp : s.pairExists n = false) :
    State.rehearseFrom (k + 1) n s = State.rehearseFrom k (n + 1) s := by
  simp only [State.rehearseFrom, if_neg (Nat.not_le.mpr hn), hp, Bool.not_false, if_true]

theorem State.rehearseFrom_defers (hn : n < 10) (hp : s.pairExists n = true)
    (h : s.running (2 * n) = false ∨ s.running (2 * n + 1) = false ∨ SMap.get pbaDefault s.rdn.degraded n = true) :
    State.rehearseFrom (k + 1) n s = State.rehearseFrom k (n + 1) (s.bump .RDN_REHEARSAL_DEFERRED 0) := by
  have hc : (s.running (2 * n) && s.running (2 * n + 1) && !SMap.get pbaDefault s.rdn.degraded n) = false := by
    rcases h with h | h | h <;> simp only [h, Bool.false_and, Bool.and_false, Bool.not_true]
  simp only [State.rehearseFrom, if_neg (Nat.not_le.mpr hn), hp, hc, Bool.not_true, Bool.false_eq_true, if_false]

theorem State.rehearseFrom_raises (hn : n < 10) (hp : s.pairExists n = true) (ha : s.running (2 * n) = true) (hb : s.running (2 * n + 1) = true)
    (hg : SMap.get pbaDefault s.rdn.degraded n = false) : State.rehearseFrom (k + 1) n s = ({ s with rdn := { s.rdn with
      phase := .RAISED, pair := n, oldLead := if s.isLead (2 * n) then 2 * n else 2 * n + 1, phaseAt := s.elapsed } }.roleEvent (2 * n) 9).roleEvent
        (2 * n + 1) 9 := by
  simp only [State.rehearseFrom, if_neg (Nat.not_le.mpr hn), hp, ha, hb, hg, Bool.not_true, Bool.not_false, Bool.and_self, Bool.false_eq_true,
    if_false, if_true]

theorem State.rehearseFrom_ends (s : State) (hn : 10 ≤ n) :
    State.rehearseFrom (k + 1) n s = { s with rdn := { s.rdn with phase := .IDLE } } := if_pos hn

end Pairs

section Phases
variable {s : State} {u : Nat}

theorem State.rehearsalDue_not (h : s.fld Fld.RDN_CFG_REHEARSAL_HOURS 0 = 0 ∨ s.rdn.phase ≠ .IDLE ∨
    s.now < s.rdn.rehearsedAt + 3600000000000 * s.fld Fld.RDN_CFG_REHEARSAL_HOURS 0) : s.rehearsalDue = s :=
  if_pos (by simpa [or_assoc] using h)

theorem State.rehearsalDue_starts (h0 : s.fld Fld.RDN_CFG_REHEARSAL_HOURS 0 ≠ 0) (hi : s.rdn.phase = .IDLE)
    (ht : s.rdn.rehearsedAt + 3600000000000 * s.fld Fld.RDN_CFG_REHEARSAL_HOURS 0 ≤ s.now) :
    s.rehearsalDue = State.rehearseFrom 11 0 { s with rdn := { s.rdn with rehearsedAt := s.now } } :=
  if_neg (by simpa [h0, hi] using ht)

theorem State.yieldBy_lead (hp : s.rdn.phase = .RAISED) (hu : u / 2 = s.rdn.pair) (hl : s.isLead u = true) :
    s.yieldBy u = { s with rdn := { s.rdn with phase := .YIELDED, oldLead := u, phaseAt := s.elapsed } }.setGap (u / 2) (.open false s.elapsed) :=
  if_pos (by simp [hp, hu, hl])

theorem State.yieldBy_other (h : s.rdn.phase ≠ .RAISED ∨ u / 2 ≠ s.rdn.pair ∨ s.isLead u = false) : s.yieldBy u = s :=
  if_neg (by rcases h with h | h | h <;> simp [h])

theorem State.doneBy_newLead (hp : s.rdn.phase = .YIELDED) (hu : u / 2 = s.rdn.pair) (ho : u ≠ s.rdn.oldLead) (hl : s.isLead u = true) :
    s.doneBy u = (s.bump .RDN_REHEARSALS 0).nextRehearsal := if_pos (by simp [hp, hu, ho, hl])

theorem State.doneBy_other (h : s.rdn.phase ≠ .YIELDED ∨ u / 2 ≠ s.rdn.pair ∨ u = s.rdn.oldLead ∨ s.isLead u = false) : s.doneBy u = s :=
  if_neg (by rcases h with h | h | h | h <;> simp [h])

theorem State.yieldLate_defers (hp : s.rdn.phase = .RAISED) (ht : s.rdn.phaseAt + 1000000 ≤ s.elapsed) :
    s.yieldLate = (s.bump .RDN_REHEARSAL_DEFERRED 0).nextRehearsal := if_pos (by simp [hp, ht])

theorem State.yieldLate_waits (h : s.rdn.phase ≠ .RAISED ∨ s.elapsed < s.rdn.phaseAt + 1000000) : s.yieldLate = s :=
  if_neg (by rcases h with h | h <;> simp [h])

theorem State.rehearsalFails_waits (h : s.rdn.phase ≠ .YIELDED ∨ s.elapsed < s.rdn.phaseAt + 1000000) : s.rehearsalFails = s :=
  if_neg (by rcases h with h | h <;> simp [h])

/-- The old lead takes the higher number back, and the understudy is fenced and judged lasting (R426). -/
theorem State.rehearsalFails_limit (hp : s.rdn.phase = .YIELDED) (ht : s.rdn.phaseAt + 1000000 ≤ s.elapsed) {w : State} (hu : u = s.rdn.oldLead)
    (hw : w = (((s.takeNumber u).fence (partner u)).fenceEnds (partner u) true).roleEvent u 10) :
    s.rehearsalFails = ((w.bump .RDN_REHEARSAL_FAILED 0).closeGap (u / 2)).nextRehearsal := by
  subst hw hu
  exact if_pos (by simp [hp, ht])

end Phases

/-! ## Transmission from the ring of the lead CPC (R430) -/

/-- The header of a transmit slot gives no frame. -/
def txSlotBad (b : List Byte) : Bool :=
  leAt b 0 2 < 14 || 10236 < leAt b 0 2 || 16 ≤ leAt b 2 1 || 64 ≤ leAt b 3 1 || 16 ≤ leAt b 4 1 || 4 ≤ leAt b 5 1 || !allZero (slice b 8 8)

/-- How the header of a transmit slot asks for its frame to be sent. -/
def txSlotFlags (b : List Byte) : EmitFlags :=
  { useTable := bit (leAt b 2 1) 3, table := BitVec.ofNat 6 (leAt b 3 1), csum := BitVec.ofNat 8 (leAt b 4 1), ts := BitVec.ofNat 8 (leAt b 5 1),
    tag := BitVec.ofNat 16 (leAt b 6 2) }

/-- The frame of a transmit slot, as it enters at port 334 at time t. -/
def txSlotFrame (b : List Byte) (t : Nat) : Frame :=
  { id := 0, inPort := 334, passPort := 334, octets := withFcs (slice b 16 (leAt b 0 2)) false, ended := true, rxClass := leAt b 2 1 % 8, time := t,
    emit := some (txSlotFlags b) }

/-- The octets of the transmit slot at the consumer of unit u. -/
def State.txSlot (s : State) (u : Nat) : List Byte :=
  readMem s.mem.hb0 (ringSlot (s.fld Fld.RDN_LOCAL_TX_CFG_BASE u) (s.fld Fld.RDN_LOCAL_TX_CFG_LOG2_SLOTS u) (s.fld Fld.RDN_LOCAL_TX_PTR_CONS u)) 16384

/-- The consumer of unit u's transmit ring, one slot on. -/
def State.txTaken (s : State) (u : Nat) : State :=
  s.setFld Fld.RDN_LOCAL_TX_PTR_CONS u ((s.fld Fld.RDN_LOCAL_TX_PTR_CONS u + 1) % (2 * 2 ^ s.fld Fld.RDN_LOCAL_TX_CFG_LOG2_SLOTS u))

/-- The slots unit u's transmit ring holds. -/
def State.txHeld (s : State) (u : Nat) : Nat :=
  ringHeld (s.fld Fld.RDN_LOCAL_TX_PTR_PROD u) (s.fld Fld.RDN_LOCAL_TX_PTR_CONS u) (2 ^ s.fld Fld.RDN_LOCAL_TX_CFG_LOG2_SLOTS u)

theorem State.cpcTransmit_noLead {s : State} (h : s.leadCpc = none) : s.cpcTransmit = s := by
  simp only [State.cpcTransmit, h]

section Transmit
variable {s : State} {u : Nat} (hl : s.leadCpc = some u)
include hl

theorem State.cpcTransmit_lead : s.cpcTransmit =
    if !s.flagAt Fld.RDN_LOCAL_TX_CFG_ENABLE u || s.txHeld u == 0 then s
    else if !s.pairsAwake 1 then s.touchPairs 1
    else if txSlotBad (s.txSlot u) then (s.txTaken u).bump .RDN_CPC_TX_BAD 0
    else (s.txTaken u).newFrame (txSlotFrame (s.txSlot u) (s.txTaken u).now) := by
  simp only [State.cpcTransmit, hl]
  rfl

theorem State.cpcTransmit_idle (h : s.flagAt Fld.RDN_LOCAL_TX_CFG_ENABLE u = false ∨ s.txHeld u = 0) : s.cpcTransmit = s := by
  rw [State.cpcTransmit_lead hl]
  exact if_pos (by rcases h with h | h <;> simp [h])

variable (he : s.flagAt Fld.RDN_LOCAL_TX_CFG_ENABLE u = true) (hh : s.txHeld u ≠ 0)
include he hh

theorem State.cpcTransmit_slot : s.cpcTransmit =
    if !s.pairsAwake 1 then s.touchPairs 1
    else if txSlotBad (s.txSlot u) then (s.txTaken u).bump .RDN_CPC_TX_BAD 0
    else (s.txTaken u).newFrame (txSlotFrame (s.txSlot u) (s.txTaken u).now) := by
  rw [State.cpcTransmit_lead hl]
  exact if_neg (by simp [he, hh])

theorem State.cpcTransmit_asleep (ha : s.pairsAwake 1 = false) : s.cpcTransmit = s.touchPairs 1 := by
  rw [State.cpcTransmit_slot hl he hh, ha]; rfl

theorem State.cpcTransmit_bad (ha : s.pairsAwake 1 = true) {b : List Byte} (hb : b = s.txSlot u) (hx : txSlotBad b = true) :
    s.cpcTransmit = (s.txTaken u).bump .RDN_CPC_TX_BAD 0 := by
  rw [State.cpcTransmit_slot hl he hh, ha, ← hb, hx]; rfl

theorem State.cpcTransmit_frame (ha : s.pairsAwake 1 = true) {b : List Byte} (hb : b = s.txSlot u) (hx : txSlotBad b = false) :
    s.cpcTransmit = (s.txTaken u).newFrame (txSlotFrame b (s.txTaken u).now) := by
  rw [State.cpcTransmit_slot hl he hh, ha, ← hb, hx]; rfl

end Transmit

theorem txSlotBad_of {b : List Byte} (h : leAt b 0 2 < 14 ∨ 10236 < leAt b 0 2 ∨ allZero (slice b 8 8) = false) : txSlotBad b = true := by
  rcases h with h | h | h <;> simp [txSlotBad, h]

theorem txSlotBad_not {b : List Byte} (hlo : 14 ≤ leAt b 0 2) (hhi : leAt b 0 2 ≤ 10236) (h2 : leAt b 2 1 < 16) (h3 : leAt b 3 1 < 64)
    (h4 : leAt b 4 1 < 16) (h5 : leAt b 5 1 < 4) (hz : allZero (slice b 8 8) = true) : txSlotBad b = false := by
  simp [txSlotBad, hlo, hhi, h2, h3, h4, h5, hz]

/-! ## The receive ring of the lead CPC (R171, R183, R430) -/

/-- Every slot of unit u's receive ring is taken. -/
def State.rxFull (s : State) (u : Nat) : Prop :=
  ringHeld (s.fld Fld.RDN_LOCAL_RX_PTR_PROD u) (s.fld Fld.RDN_LOCAL_RX_PTR_CONS u) (2 ^ s.fld Fld.RDN_LOCAL_RX_CFG_LOG2_SLOTS u) =
    2 ^ s.fld Fld.RDN_LOCAL_RX_CFG_LOG2_SLOTS u

/-- The address of the receive slot at the producer of unit u. -/
def State.rxSlot (s : State) (u : Nat) : Nat :=
  ringSlot (s.fld Fld.RDN_LOCAL_RX_CFG_BASE u) (s.fld Fld.RDN_LOCAL_RX_CFG_LOG2_SLOTS u) (s.fld Fld.RDN_LOCAL_RX_PTR_PROD u)

/-- A unit as a receive slot holds it: kind and length, the header, and the body. -/
def rxUnit (kind : Nat) (head body : List Byte) : List Byte :=
  toLE 1 kind ++ [0, 0, 0] ++ toLE 4 body.length ++ List.replicate 8 0 ++ slice head 0 48 ++ body

section Ring
variable {s : State} {u : Nat} (kind : Nat) (head body : List Byte)

theorem State.cpcRing_noLead (h : s.leadCpc = none) : s.cpcRing kind head body = s.bump .RDN_CPC_RX_LOST 0 := by
  simp only [State.cpcRing, h]

theorem State.cpcRing_lost (hl : s.leadCpc = some u) (h : s.flagAt Fld.RDN_LOCAL_RX_CFG_ENABLE u = false ∨ s.rxFull u) :
    s.cpcRing kind head body = s.bump .RDN_CPC_RX_LOST 0 := by
  simp only [State.cpcRing, hl]
  exact if_pos (by unfold State.rxFull at h; rcases h with h | h <;> simp [h])

theorem State.cpcRing_written (hl : s.leadCpc = some u) (he : s.flagAt Fld.RDN_LOCAL_RX_CFG_ENABLE u = true) (hf : ¬ s.rxFull u) {w : State}
    (hw : w = { s with mem := { s.mem with hb0 := writeMem s.mem.hb0 (s.rxSlot u) (rxUnit kind head body) } }) :
    s.cpcRing kind head body = (w.setFld Fld.RDN_LOCAL_RX_PTR_PROD u
      ((s.fld Fld.RDN_LOCAL_RX_PTR_PROD u + 1) % (2 * 2 ^ s.fld Fld.RDN_LOCAL_RX_CFG_LOG2_SLOTS u))).unitEvent u 12 := by
  subst hw
  simp only [State.cpcRing, hl]
  exact if_neg (by unfold State.rxFull at hf; simp [he, hf])

end Ring

/-- A copy that has arrived for the lead CPC. -/
def State.boundForCpc (s : State) (k : Copy) : Bool := k.port == 334 && (s.frame? k.frame).any (forLeadCpc k)

/-- The units CPC_FRAME_RECEIVE takes its next one from. -/
theorem State.arrived_boundForCpc (s : State) :
    s.swc.arrived.filter (fun k => k.port == 334 && (match s.frame? k.frame with | some x => forLeadCpc k x | none => false)) =
      s.swc.arrived.filter s.boundForCpc := by
  refine List.filter_congr (fun k _ => ?_)
  unfold State.boundForCpc
  cases s.frame? k.frame <;> rfl

/-- What a unit for the lead CPC leaves in its ring: a sample its cut with the sample header, a slow-path frame its octets without the
FCS, a bad one nothing. -/
def State.cpcUnit (s : State) (k : Copy) (x : Frame) : State :=
  match k.kind with
  | .sample snap _ depth port => s.cpcRing 2 (sampleHeader x port depth x.octets.length) (x.octets.take (128 * snap))
  | _ =>
    if x.bad then s
    else s.cpcRing 1 (slowHeader x (x.octets.take (x.octets.length - 4)).length) (x.octets.take (x.octets.length - 4))

theorem State.cpcUnit_sample (s : State) {k : Copy} (x : Frame) {snap dest depth port : Nat} (h : k.kind = .sample snap dest depth port) :
    s.cpcUnit k x = s.cpcRing 2 (sampleHeader x port depth x.octets.length) (x.octets.take (128 * snap)) := by
  simp only [State.cpcUnit, h]

theorem State.cpcUnit_frame (s : State) {k : Copy} (x : Frame) (h : ∀ snap dest depth port, k.kind ≠ .sample snap dest depth port) :
    s.cpcUnit k x = if x.bad then s
      else s.cpcRing 1 (slowHeader x (x.octets.take (x.octets.length - 4)).length) (x.octets.take (x.octets.length - 4)) := by
  cases hk : k.kind with
  | sample snap dest depth port => exact absurd hk (h snap dest depth port)
  | normal | mirror => simp only [State.cpcUnit, hk]

theorem State.cpcReceive_idle {s : State} (h : s.swc.arrived.filter s.boundForCpc = []) (f : Nat) : s.cpcReceive f = s := by
  unfold State.cpcReceive
  generalize hmine : List.filter _ s.swc.arrived = mine
  obtain rfl : mine = [] := hmine.symm.trans (s.arrived_boundForCpc.trans h)
  rfl

section Receive
variable {s : State} {k : Copy} {rest : List Copy} {y : Frame} {f : Nat} (hm : s.swc.arrived.filter s.boundForCpc = k :: rest)
  (hy : s.frame? k.frame = some y)
include hm hy

/-- The first unit that has arrived is written once its tail is final. -/
theorem State.cpcReceive_first : s.cpcReceive f =
    if k.frame != f || !(s.shown k y).ended then s
    else if !s.pairsAwake 1 then s.touchPairs 1
    else (s.cpcUnit k (s.shown k y)).takeArrived k := by
  unfold State.cpcReceive
  generalize hmine : List.filter _ s.swc.arrived = mine
  obtain rfl : mine = k :: rest := hmine.symm.trans (s.arrived_boundForCpc.trans hm)
  simp only [List.head?_cons, hy, Option.map_some]
  rfl

theorem State.cpcReceive_waits (h : k.frame ≠ f ∨ (s.shown k y).ended = false) : s.cpcReceive f = s := by
  rw [State.cpcReceive_first hm hy]
  exact if_pos (by rcases h with h | h <;> simp [h])

variable (hf : k.frame = f) (he : (s.shown k y).ended = true)
include hf he

theorem State.cpcReceive_asleep (ha : s.pairsAwake 1 = false) : s.cpcReceive f = s.touchPairs 1 := by
  rw [State.cpcReceive_first hm hy, if_neg (by simp [hf, he]), ha]; rfl

theorem State.cpcReceive_takes (ha : s.pairsAwake 1 = true) : s.cpcReceive f = (s.cpcUnit k (s.shown k y)).takeArrived k := by
  rw [State.cpcReceive_first hm hy, if_neg (by simp [hf, he]), ha]; rfl

end Receive

/-- Settles O46: each clause is one branch of the operation it names, and an admitted write of an RDN register performs its operation. -/
theorem rehearsalsAndRings : Obligations.RehearsalsAndRings := by
  unfold Obligations.RehearsalsAndRings
  refine ⟨?timer, ?pairs, ?writes, ?phases, ?limits, ?probe, fun _ _ _ => exec_probe_vault, fun _ h => congrArg _ (State.cpcTransmit_noLead h),
    ?transmit, ?receive, ?ring, ?post⟩
  case timer =>
    rintro s _ rfl
    exact ⟨fun h => congrArg _ (State.rehearsalDue_not h), fun h0 hi ht => congrArg _ (State.rehearsalDue_starts h0 hi ht)⟩
  case pairs =>
    exact fun s k n => ⟨State.rehearseFrom_noPair k, State.rehearseFrom_defers k, State.rehearseFrom_raises k, State.rehearseFrom_ends k s⟩
  case writes => exact fun s u r k h hu => ⟨exec_yield_of h hu, exec_rehearsalDone_of h hu⟩
  case phases => exact fun s u => ⟨State.yieldBy_lead, State.yieldBy_other, State.doneBy_newLead, State.doneBy_other⟩
  case limits =>
    intro s
    refine ⟨fun hp ht => congrArg _ (State.yieldLate_defers hp ht), fun h => congrArg _ (State.yieldLate_waits h),
      fun h => congrArg (fun t : State => Host.Outcome.next t.applyHeld.settleAll) (State.rehearsalFails_waits h), ?_⟩
    intro u w hp ht hu hw
    exact congrArg (fun t : State => Host.Outcome.next t.applyHeld.settleAll) (State.rehearsalFails_limit hp ht hu hw)
  case probe =>
    exact fun s u n c h => ⟨fun hg => (exec_probe_cpc h).trans (congrArg _ (State.probeBy_passes hg)),
      fun hg => (exec_probe_cpc h).trans (congrArg _ (State.probeBy_refused hg))⟩
  case transmit =>
    rintro s w u _ _ _ b len hl rfl rfl rfl
    refine ⟨fun h => congrArg _ (State.cpcTransmit_idle hl h), fun he hh ha => congrArg _ (State.cpcTransmit_asleep hl he hh ha), ?_⟩
    rintro he hh ha hb rfl rfl
    refine ⟨fun h => congrArg _ (State.cpcTransmit_bad hl he hh ha hb (txSlotBad_of h)), fun hlo hhi h2 h3 h4 h5 hz => ?_⟩
    have hf := State.cpcTransmit_frame hl he hh ha hb (txSlotBad_not hlo hhi h2 h3 h4 h5 hz)
    exact ⟨txSlotFlags b, rfl, rfl, rfl, rfl, rfl, congrArg _ hf⟩
  case receive =>
    intro s f mine hmine
    have hmine : mine = s.swc.arrived.filter s.boundForCpc := hmine.trans s.arrived_boundForCpc
    subst hmine
    refine ⟨fun h => congrArg _ (State.cpcReceive_idle h f), ?_⟩
    rintro k rest y _ hm hy rfl
    refine ⟨fun h => congrArg _ (State.cpcReceive_waits hm hy h), fun hf he ha => congrArg _ (State.cpcReceive_asleep hm hy hf he ha), ?_⟩
    intro hf he ha
    have hr := State.cpcReceive_takes hm hy hf he ha
    refine ⟨fun snap dest depth port hk => ?_, fun hk hb => ?_, ?_⟩
    · rw [State.cpcUnit_sample _ _ hk] at hr
      exact congrArg _ hr
    · rw [State.cpcUnit_frame _ _ hk, if_pos hb] at hr
      exact congrArg _ hr
    · rintro _ hk hb rfl
      rw [State.cpcUnit_frame _ _ hk, if_neg (Bool.eq_false_iff.mp hb)] at hr
      exact congrArg _ hr
  case ring =>
    intro s kind head body
    refine ⟨State.cpcRing_noLead kind head body, ?_⟩
    rintro u _ _ hl rfl rfl
    exact ⟨State.cpcRing_lost kind head body hl, fun w he hf hw => State.cpcRing_written kind head body hl he hf hw⟩
  case post =>
    exact fun s u n p h => ⟨_, Nat.mod_lt _ (by decide), exec_vaultRequestPost_of h p, rfl⟩

end Sys2Proof.Machine
end

section
/-! PROOF. Table commands (R144, R158 to R160): the rows of TBL_CMD and of a thread's table channel, what each command does to the entry it
finds, and the end of the oldest command performed. -/

namespace Sys2Proof.Machine

/-! ## The rows of the table interface (R158, R387) -/

/-- The row of the command of an operation number (R159). -/
def TableRow (c : TableCmd) (op : Nat) (i : Instr) : Prop :=
  i = .insert c ∧ op = 1 ∨ i = .delete c ∧ op = 2 ∨ i = .lookup c ∧ op = 3 ∨ i = .readIndex c ∧ op = 4 ∨ i = .writeIndex c ∧ op = 5 ∨
    i = .refresh c ∧ op = 6 ∨ i = .flushScene c ∧ op = 7

theorem TableRow.exec_eq {c : TableCmd} {op : Nat} {i : Instr} (h : TableRow c op i) (s : State) : exec i s = .next (s.tableRow op c) := by
  rcases h with ⟨rfl, rfl⟩ | ⟨rfl, rfl⟩ | ⟨rfl, rfl⟩ | ⟨rfl, rfl⟩ | ⟨rfl, rfl⟩ | ⟨rfl, rfl⟩ | ⟨rfl, rfl⟩ <;> rfl

/-- Each of the seven rows has its operation number. -/
theorem exists_tableRow {c : TableCmd} {i : Instr} (h : i = .insert c ∨ i = .delete c ∨ i = .lookup c ∨ i = .readIndex c ∨ i = .writeIndex c ∨
    i = .refresh c ∨ i = .flushScene c) : ∃ op, TableRow c op i := by
  unfold TableRow
  rcases h with h | h | h | h | h | h | h <;> simp [h]

section Row
variable {s : State} {c : TableCmd} (op : Nat)

theorem State.tableRow_controlMap {u : State} {r : Requester} (hi : c.issuer = .controlMap r) (h : s.admitWrite r .TBL_CMD 0 = (true, u)) :
    s.tableRow op c =
      (u.withOperands c.operands).tableAccept op c.table.toNat c.sceneSel (u.withOperands c.operands).stagedOperands := by
  simp only [State.tableRow, hi]
  exact State.gatedWrite_of h _

theorem State.tableRow_channel {n : Fin 8} {k t : Fin 16} (hi : c.issuer = .channel n k t)
    (h : s.threadNames (threadOf n k t) c = true) : s.tableRow op c = s.threadTable (threadOf n k t) op := by
  simp only [State.tableRow, hi, h, if_true]

end Row

section Accept
variable {s : State} (op t : Nat) (sel : Bool) (o : TableOperands)

theorem State.tableAccept_free (h : s.tbl.finished.any (fun y => y.1.isNone) = false) : s.tableAccept op t sel o =
    { (s.tableCommand op t sel o).2 with
      tbl := { (s.tableCommand op t sel o).2.tbl with
        finished := (s.tableCommand op t sel o).2.tbl.finished ++ [(none, (s.tableCommand op t sel o).1)] } } :=
  if_neg (Bool.eq_false_iff.mp h)

theorem State.tableAccept_overrun (h : s.tbl.finished.any (fun y => y.1.isNone) = true) :
    s.tableAccept op t sel o = s.setFld Fld.TBL_STATUS_CMD_OVERRUN 0 1 := if_pos h

end Accept

/-! ## The command an operation number selects (R159) -/

theorem State.tableCommand_refused {s : State} {op t : Nat} {o : TableOperands} {st : BitVec 8} (h : s.cmdCheck op t o = some st) (sel : Bool) :
    s.tableCommand op t sel o = ({ status := st }, s) := by
  simp only [State.tableCommand, h]

section Select
variable {s : State} {t : Nat} {o : TableOperands} (ht : t ≠ 66) (sel : Bool)
include ht

theorem State.tableCommand_insert (h : s.cmdCheck 1 t o = none) : s.tableCommand 1 t sel o = s.doInsert t o (slice o.key 0 (s.keyBytes t)) := by
  simp only [State.tableCommand, h, if_neg ht]

theorem State.tableCommand_delete (h : s.cmdCheck 2 t o = none) : s.tableCommand 2 t sel o = s.doDelete t (slice o.key 0 (s.keyBytes t)) := by
  simp only [State.tableCommand, h, if_neg ht]

theorem State.tableCommand_lookup (h : s.cmdCheck 3 t o = none) :
    s.tableCommand 3 t sel o = s.doLookup t sel (slice o.key 0 (s.keyBytes t)) := by
  simp only [State.tableCommand, h, if_neg ht]

theorem State.tableCommand_readIndex (h : s.cmdCheck 4 t o = none) : s.tableCommand 4 t sel o = s.doReadIndex t o.index.toNat := by
  simp only [State.tableCommand, h, if_neg ht]

theorem State.tableCommand_writeIndex (h : s.cmdCheck 5 t o = none) : s.tableCommand 5 t sel o =
    ({ index := o.index.toNat }, s.setAction o.index.toNat (BitVec.ofNat 256 (leAt o.key 0 32))) := by
  simp only [State.tableCommand, h, if_neg ht]

theorem State.tableCommand_refresh (h : s.cmdCheck 6 t o = none) : s.tableCommand 6 t sel o = s.doRefresh t (slice o.key 0 (s.keyBytes t)) := by
  simp only [State.tableCommand, h, if_neg ht]

theorem State.tableCommand_flush (h : s.cmdCheck 7 t o = none) : s.tableCommand 7 t sel o = s.doFlush t := by
  simp only [State.tableCommand, h, if_neg ht]

end Select

/-! ## What a command does to an exact-match table (R144, R159) -/

/-- In an exact-match table an entry counts by its visibility in a scene alone. -/
theorem visible_exactMatch {t : Nat} (ht : t < 64) (sc : BitVec 16) :
    (fun e : Entry => decide (65 ≤ t) || e.visible sc) = fun e => e.visible sc := by
  funext e
  rw [decide_eq_false (by omega), Bool.false_or]

section ExactMatch
variable {s : State} {t k : Nat} {e : Entry} {key : List Byte} (ht : t < 64)
include ht

theorem State.doLookup_miss {sel : Bool} (h : s.findEntry t key (fun e => e.visible (if sel then s.scn.pending else s.scn.current)) = none) :
    s.doLookup t sel key = ({ loads := true }, s) := by
  simp only [State.doLookup, visible_exactMatch ht, h]

theorem State.doLookup_hit {sel : Bool}
    (h : s.findEntry t key (fun e => e.visible (if sel then s.scn.pending else s.scn.current)) = some (k, e)) :
    s.doLookup t sel key = ({ hit := true, index := s.indexOf t k, entry := some e, loads := true }, s) := by
  simp only [State.doLookup, visible_exactMatch ht, h]

theorem State.doReadIndex_entry {i : Nat} (h : s.entry (s.slotOf t 0 0 + i) = some e) :
    s.doReadIndex t i = ({ loads := true, index := i, entry := some e, record := some (slice e.key 0 64) }, s) := by
  simp only [State.doReadIndex, if_neg (show t ≠ 64 by omega), h]

theorem State.doRefresh_found (h : s.findEntry t key (fun e => e.visible s.scn.current) = some (k, e)) :
    s.doRefresh t key = ({ index := s.indexOf t k }, s.setEntry k (some { e with stamp := s.tbl.now })) := by
  simp only [State.doRefresh, visible_exactMatch ht, h]

theorem State.doDelete_absent (h : s.findEntry t key (fun e => e.visible s.scn.pending) = none) :
    s.doDelete t key = ({ status := 0xA0 }, s) := by
  simp only [State.doDelete, visible_exactMatch ht, h]

/-- An entry of the pending scene is freed; another dies with it (R144). -/
theorem State.doDelete_found (h : s.findEntry t key (fun e => e.visible s.scn.pending) = some (k, e)) :
    s.doDelete t key = ({ index := s.indexOf t k }, if e.born = s.scn.pending ∧ e.settled = false then s.setEntry k none
      else s.setEntry k (some { e with died := s.scn.pending, diedValid := true })) := by
  have h65 : decide (65 ≤ t) = false := decide_eq_false (by omega)
  simp only [State.doDelete, h, h65, Bool.false_or, Bool.and_eq_true, Bool.not_eq_true', decide_eq_true_eq]
  split <;> rfl

/-- INSERT over an entry the pending scene made writes it in place. -/
theorem State.doInsert_inPlace (o : TableOperands) (h : s.findEntry t key (fun e => e.visible s.scn.pending) = some (k, e))
    (hb : e.born = s.scn.pending) (hs : e.settled = false) : s.doInsert t o key = ({ replaced := true, index := s.indexOf t k },
      s.setEntry k (some { e with action := o.action, pinned := o.pinned, ageLimit := o.ageLimit })) := by
  simp [State.doInsert, visible_exactMatch ht, h, hb, hs]

end ExactMatch

/-- A free slot of the key's buckets takes the entry (R149). -/
theorem State.place_free {s : State} {t k : Nat} {e : Entry} (h : (s.keySlots t e.key).find? (fun k => (s.entry k).isNone) = some k) :
    s.place t e = (⟨some k, 0, false⟩, s.setEntry k (some e)) := by
  simp only [State.place, h]

/-- INSERT of a key the pending scene does not see, into a free slot of its buckets. -/
theorem State.doInsert_free {s : State} {t k : Nat} {key : List Byte} (ht : t < 64) (o : TableOperands)
    (h : s.findEntry t key (fun e => e.visible s.scn.pending) = none)
    (hk : (s.keySlots t key).find? (fun k => (s.entry k).isNone) = some k) : s.doInsert t o key = ({ index := s.indexOf t k },
      s.setEntry k (some (newEntry s key o.action o.pinned o.ageLimit s.scn.pending false))) := by
  have hp := State.place_free (e := newEntry s key o.action o.pinned o.ageLimit s.scn.pending false) hk
  simp only [State.doInsert, visible_exactMatch ht, h, if_pos ht, hp, Option.isSome_none]

theorem State.doFlush_table {s : State} {t : Nat} (ht : t < 64) (h : s.tableOn t = true) :
    s.doFlush t = ({}, (s.tableSlots t).foldl (fun s x => s.setEntry x.1 (flushEntry s.scn.pending x.2)) s) := by
  simp only [State.doFlush, if_neg (show t ≠ 127 by omega), List.flatMap_singleton, h, if_true]

/-! ## The end of a command (R158) -/

section Done
variable {s : State} {x : TableResult} {rest : List (Option Nat × TableResult)}

theorem State.tableDone_interface (h : s.tbl.finished = (none, x) :: rest) :
    s.tableDone = State.publishTable { s with tbl := { s.tbl with finished := rest } } x := by
  simp only [State.tableDone, h]

theorem State.tableDone_thread {t : Nat} (h : s.tbl.finished = (some t, x) :: rest) :
    s.tableDone = State.threadTableDone { s with tbl := { s.tbl with finished := rest } } t x := by
  simp only [State.tableDone, h]

theorem State.tableDone_none (h : s.tbl.finished = []) : s.tableDone = s := by
  simp only [State.tableDone, h]

end Done

/-- Settles O23: a row is State.tableRow of its operation number, which performs State.tableCommand over the staged operands; the clauses
for an exact-match table are the branches of the command its number selects. -/
theorem tableCommands : Obligations.TableCommands := by
  unfold Obligations.TableCommands
  refine ⟨?performed, ?overrun, ?thread, fun s op t sel o st h => State.tableCommand_refused h sel, ?exactMatch, ?writeIndex, ?interfaceDone,
    ?threadDone, fun s h => congrArg _ (State.tableDone_none h)⟩
  case performed =>
    rintro s u _ c r op i _ hi hr h rfl hf rfl
    rw [TableRow.exec_eq hi, State.tableRow_controlMap op hr h, State.tableAccept_free _ _ _ _ hf]
  case overrun =>
    rintro s u _ c r i hi hr h rfl hf
    obtain ⟨op, hop⟩ := exists_tableRow hi
    rw [hop.exec_eq, State.tableRow_controlMap op hr h, State.tableAccept_overrun _ _ _ _ hf]
  case thread =>
    intro s c n k t op i hi hr h
    rw [TableRow.exec_eq hi, State.tableRow_channel op hr h]
  case exactMatch =>
    rintro s t sel o _ ht rfl
    have h66 : t ≠ 66 := by omega
    refine ⟨?lookup, ?readIndex, ?refresh, ?delete, ?insert, ?flush⟩
    case lookup =>
      rintro hc _ rfl
      rw [State.tableCommand_lookup h66 sel hc]
      exact ⟨State.doLookup_miss ht, fun k e => State.doLookup_hit ht⟩
    case readIndex => exact fun hc e he => (State.tableCommand_readIndex h66 sel hc).trans (State.doReadIndex_entry ht he)
    case refresh => exact fun hc k e he => (State.tableCommand_refresh h66 sel hc).trans (State.doRefresh_found ht he)
    case delete =>
      intro hc
      rw [State.tableCommand_delete h66 sel hc]
      exact ⟨State.doDelete_absent ht, fun k e => State.doDelete_found ht⟩
    case insert =>
      intro hc
      rw [State.tableCommand_insert h66 sel hc]
      exact ⟨fun k e => State.doInsert_inPlace ht o, fun k => State.doInsert_free ht o⟩
    case flush => exact fun hc h => (State.tableCommand_flush h66 sel hc).trans (State.doFlush_table ht h)
  case writeIndex => exact fun s sel o hc => State.tableCommand_writeIndex (by decide) sel hc
  case interfaceDone => exact fun s x rest h => congrArg _ (State.tableDone_interface h)
  case threadDone => exact fun s t x rest h => congrArg _ (State.tableDone_thread h)

end Sys2Proof.Machine
end

section
/-! PROOF. Upkeep of the tables (R141, R143, R151 to R157): the configuration registers as their block takes them, and the branches of the
sweep, the ager, learning and the flow cache. -/

namespace Sys2Proof.Machine

/-- The write of a TBL register, as its block sees it. -/
theorem State.performWrite_tbl (s : State) (r : Requester) {reg : RegName} (hb : reg.info.block = .TBL) (i : Nat) (value mask : Word) :
    s.performWrite r reg i value mask = s.writeTbl (s.writeSeen reg i value mask) := by
  simp only [State.performWrite, hb]; rfl

theorem State.writeSeen_old (s : State) (reg : RegName) (i : Nat) (value mask : Word) : (s.writeSeen reg i value mask).old = s.reg reg i := rfl

/-- A field that a 64-bit write of its register takes whole. -/
theorem State.writeSeen_whole (s : State) {reg : RegName} {f : FieldInfo} (hd : reg.info.fields.Pairwise FieldInfo.apart)
    (hf : f ∈ reg.info.fields) (ha : f.access = .RW ∨ f.access = .RWV) (hw : f.lo + f.width ≤ 64) (i : Nat) (v : Word) :
    fieldOf (s.writeSeen reg i v wholeMask).new f.lo f.width = bits v.toNat f.lo f.width :=
  whole_at hd hf ha hw (s.reg reg i).toNat v.toNat

/-! ## A guarded field of a register write (R5) -/

section Guard
variable (x : RegWrite) (reg : RegName) {lo w : Nat} (ok : Nat → Bool)

theorem RegWrite.guard_old (f : FieldPos) : (x.guard f ok).old = x.old := by unfold RegWrite.guard; split <;> rfl

/-- A store acts by the register, the element and the new value; the guard leaves the first two. -/
theorem State.store_guard (s : State) (f : FieldPos) : s.store (x.guard f ok) = s.setReg x.reg x.idx (x.guard f ok).new := by
  unfold RegWrite.guard; split <;> rfl

theorem RegWrite.guard_self (h : lo + w ≤ 64) : fieldOf (x.guard ⟨reg, lo, w⟩ ok).new lo w =
    if ok (fieldOf x.new lo w) = true then fieldOf x.new lo w else fieldOf x.old lo w := by
  unfold RegWrite.guard
  split
  · rfl
  · rw [fieldOf_withField _ _ h]
    exact bits_bits_mod _ _ _

theorem RegWrite.guard_other {a b : Nat} (h : lo + w ≤ 64) (ha : a + b ≤ lo ∨ lo + w ≤ a) :
    fieldOf (x.guard ⟨reg, lo, w⟩ ok).new a b = fieldOf x.new a b := by
  unfold RegWrite.guard
  split
  · rfl
  · exact fieldOf_withField_ne _ _ h ha

end Guard

/-! ## TBL_TABLE_CFG (R141) -/

theorem tableCfg_apart : RegName.TBL_TABLE_CFG.info.fields.Pairwise FieldInfo.apart := by unfold FieldInfo.apart; decide

/-- A whole write of TBL_TABLE_CFG with its reserved EVICT guarded: that keeps the old one. -/
def State.tableCfgSeen (u : State) (t : Nat) (v : Word) : RegWrite :=
  (u.writeSeen .TBL_TABLE_CFG t v wholeMask).guard Fld.TBL_TABLE_CFG_EVICT (fun n => n != 3)

theorem State.tableCfgSeen_evict (u : State) (t : Nat) (v : Word) : fieldOf (u.tableCfgSeen t v).new 32 2 =
    if bits v.toNat 32 2 = 3 then fieldOf (u.reg .TBL_TABLE_CFG t) 32 2 else bits v.toNat 32 2 := by
  have hw : fieldOf (u.writeSeen .TBL_TABLE_CFG t v wholeMask).new 32 2 = bits v.toNat 32 2 :=
    u.writeSeen_whole tableCfg_apart (f := ⟨32, 2, .RW, 0⟩) (by decide) (.inl rfl) (by decide) t v
  rw [State.tableCfgSeen, RegWrite.guard_self _ _ _ (by decide), hw, State.writeSeen_old]
  by_cases h3 : bits v.toNat 32 2 = 3 <;> simp [h3]

/-- Every other field takes the bits written. -/
theorem State.tableCfgSeen_other (u : State) (t : Nat) (v : Word) {f : FieldInfo} (hf : f ∈ RegName.TBL_TABLE_CFG.info.fields)
    (hn : f.lo ≠ 32) : fieldOf (u.tableCfgSeen t v).new f.lo f.width = bits v.toNat f.lo f.width := by
  have hrw : ∀ g ∈ RegName.TBL_TABLE_CFG.info.fields,
      g.access = .RW ∧ g.lo + g.width ≤ 64 ∧ (g.lo ≠ 32 → g.lo + g.width ≤ 32 ∨ 32 + 2 ≤ g.lo) := by decide
  obtain ⟨ha, hw, happart⟩ := hrw f hf
  rw [State.tableCfgSeen, RegWrite.guard_other _ _ _ (by decide) (happart hn), u.writeSeen_whole tableCfg_apart hf (.inl ha) hw]

/-- The bucket range of a table moves. -/
def State.tableMoved (u : State) (t : Nat) (n : Word) : Bool :=
  fieldOf n 0 5 != fieldOf (u.reg .TBL_TABLE_CFG t) 0 5 || (decide (t < 64) && fieldOf n 8 21 != fieldOf (u.reg .TBL_TABLE_CFG t) 8 21)

theorem State.writeTbl_tableCfg {s : State} {x : RegWrite} (h : x.reg = .TBL_TABLE_CFG) : s.writeTbl x = s.tableCfgWrite x.idx x := by
  simp only [State.writeTbl, h]

/-- What a write of a configuration that may be given does, by the word its guarded fields leave. -/
theorem State.tableCfgWrite_of (u : State) {x y : RegWrite} (ht : x.idx ≠ 64)
    (hy : y = x.guard Fld.TBL_TABLE_CFG_EVICT (fun n => n != 3)) (hreg : x.reg = .TBL_TABLE_CFG) (hold : x.old = u.reg .TBL_TABLE_CFG x.idx) :
    u.tableCfgWrite x.idx x = if (u.tableCfgBad x.idx y.new || (u.tableMoved x.idx y.new && u.tableHolds x.idx)) = true then u.tblRefused
      else u.setReg .TBL_TABLE_CFG x.idx y.new := by
  unfold State.tableCfgWrite
  dsimp only
  rw [if_neg ht, State.store_guard, RegWrite.guard_old, ← hy, hreg, hold]
  rfl

theorem State.performWrite_tableCfg (u : State) (r : Requester) {t : Nat} (ht : t ≠ 64) (v : Word) :
    u.performWrite r .TBL_TABLE_CFG t v wholeMask =
      if (u.tableCfgBad t (u.tableCfgSeen t v).new || (u.tableMoved t (u.tableCfgSeen t v).new && u.tableHolds t)) = true then u.tblRefused
      else u.setReg .TBL_TABLE_CFG t (u.tableCfgSeen t v).new := by
  rw [u.performWrite_tbl r rfl, State.writeTbl_tableCfg rfl]
  exact u.tableCfgWrite_of ht rfl rfl (u.writeSeen_old _ _ _ _)

/-! ## The commands of an admitted write -/

section Admitted
variable {s u : State} {r : Requester} {t : Fin 67}

theorem exec_tableCfg_of (h : s.admitWrite r .TBL_TABLE_CFG t = (true, u)) (ht : t.val ≠ 64) (v : Word) :
    exec (.tableCfgWrite r (.cfg t v)) s = .next
      (if (u.tableCfgBad t (u.tableCfgSeen t v).new || (u.tableMoved t (u.tableCfgSeen t v).new && u.tableHolds t)) = true then u.tblRefused
      else u.setReg .TBL_TABLE_CFG t (u.tableCfgSeen t v).new) :=
  congrArg _ ((State.directWrite_undomained h rfl _ _).trans (u.performWrite_tableCfg r ht v))

/-- A table that holds entries keeps its seeds. -/
theorem exec_seedA_refused (h : s.admitWrite r .TBL_SEED_A t = (true, u)) (ht : u.tableHolds t = true) (v : BitVec 32) :
    exec (.tableCfgWrite r (.seedA t v)) s = .next u.tblRefused :=
  congrArg _ ((State.directWrite_undomained h rfl _ _).trans ((u.performWrite_tbl r rfl _ _ _).trans (if_pos ht)))

theorem exec_seedB_stored (h : s.admitWrite r .TBL_SEED_B t = (true, u)) (ht : u.tableHolds t = false) (v : BitVec 32) :
    exec (.tableCfgWrite r (.seedB t v)) s =
      .next (u.setReg .TBL_SEED_B t (u.writeSeen .TBL_SEED_B t (v.setWidth 64) lowMask).new) :=
  congrArg _ ((State.directWrite_undomained h rfl _ _).trans
    ((u.performWrite_tbl r rfl _ _ _).trans (if_neg (Bool.eq_false_iff.mp ht))))

theorem exec_tblEvictedPop_of (h : s.admitWrite r .TBL_EVICTED_POP 0 = (true, u)) {v : BitVec 32} (hv : v.getLsbD 0 = true) :
    exec (.tblEvictedPop r v) s = .next u.evictedPop := by
  refine congrArg _ ((State.directWrite_undomained h rfl _ _).trans ((u.performWrite_tbl r rfl _ _ _).trans (if_pos ?_)))
  rw [State.writeSeen_hits, and_lowMask, bit_low, hv]

end Admitted

/-! ## The sweep, the milestone and the ager (R143, R152, R153) -/

section Age
variable {s : State}

theorem State.sweep_entry {k : Nat} {e : Entry} (hk : k < poolSlots) (he : s.entry k = some e) : s.sweep k =
    if e.diedValid = true ∧ s.notAfterLive e.died = true then (s.setEntry k none).bump .TBL_RELEASED 0
    else if s.notAfterLive e.born = true then s.setEntry k (some { e with settled := true }) else s := by
  simp only [State.sweep, if_neg (Nat.not_le.mpr hk), he, Bool.and_eq_true]

theorem State.milestone_due (hm : s.mapAnswers = true)
    (h : s.tbl.nowAt + 1000000 * 2 ^ s.fld Fld.TBL_AGE_CTRL_PERIOD_LOG2 0 ≤ s.elapsed) :
    s.milestone = { s with tbl := { s.tbl with now := s.tbl.now + 1, nowAt := s.elapsed } } :=
  if_pos (by rw [hm, decide_eq_true h]; rfl)

theorem State.milestone_waits (h : s.elapsed < s.tbl.nowAt + 1000000 * 2 ^ s.fld Fld.TBL_AGE_CTRL_PERIOD_LOG2 0) : s.milestone = s :=
  if_neg (by rw [decide_eq_false (Nat.not_le.mpr h), Bool.and_false]; exact Bool.false_ne_true)

theorem Entry.aged_iff (e : Entry) (now : BitVec 16) :
    e.aged now = true ↔ e.ageLimit ≠ 0 ∧ e.pinned = false ∧ e.ageLimit.toNat < (now - e.stamp).toNat := by
  simp only [Entry.aged, Bool.and_eq_true, bne_iff_ne, Bool.not_eq_true', decide_eq_true_eq, and_assoc]

theorem State.agerScan_entry {t k : Nat} {e : Entry} (ht : t ≠ 64) (hk : k < 4 * 2 ^ s.log2 t) (he : s.entry (s.slotOf t 0 0 + k) = some e) :
    s.agerScan t k = if e.aged s.tbl.now = true
      then { s with tbl := { s.tbl with removes := s.tbl.removes ++ [(t, s.slotOf t 0 0 + k, e.key, e.stamp)] } } else s := by
  have hn : ¬(decide (t = 64) || decide (4 * 2 ^ s.log2 t ≤ k)) = true := by
    simp only [Bool.or_eq_true, decide_eq_true_eq]
    omega
  simp only [State.agerScan, if_neg hn, he]

/-- An aged entry that has not moved lies in the slot the ager read. -/
theorem State.agedSlot_same {k : Nat} {e : Entry} (t : Nat) (he : s.entry k = some e) (ha : e.aged s.tbl.now = true) :
    s.agedSlot t k e.key e.stamp = some k :=
  List.find?_cons_of_pos (by simp [he, ha])

theorem State.agerRemove_next {t k : Nat} {key : List Byte} {stamp : BitVec 16} {rest : List (Nat × Nat × List Byte × BitVec 16)} {w : State}
    (h : s.tbl.removes = (t, k, key, stamp) :: rest) (hw : w = { s with tbl := { s.tbl with removes := rest } }) :
    s.agerRemove = (w.agedSlot t k key stamp).elim w (fun j => (w.setEntry j none).bump .TBL_AGED 0) := by
  subst hw
  simp only [State.agerRemove, h]
  split <;> simp only [*, Option.elim]

end Age

/-! ## Learning (R154, R155) -/

section Learn
variable {s : State} {key : List Byte} {port k : Nat} {e : Entry}

theorem State.learnNext_presented {w : State} {p : Nat} (h : s.swc.learnQueue.find? (fun q => q.1 == p) = some (p, key, port))
    (hw : w = { s with swc := { s.swc with learnQueue := s.swc.learnQueue.erase (p, key, port) } }) :
    s.learnNext p = if w.tableOn 65 = true then w.learn key port else w := by
  subst hw
  simp only [State.learnNext, h]

theorem State.learn_refresh (h : s.findEntry 65 key (fun _ => true) = some (k, e)) (hp : e.action.toNat = port) :
    s.learn key port = s.setEntry k (some { e with stamp := s.tbl.now }) := by
  simp only [State.learn, h, if_pos hp]

theorem State.learn_stays (h : s.findEntry 65 key (fun _ => true) = some (k, e)) (hp : e.action.toNat ≠ port)
    (hs : e.pinned = true ∨ s.flagAt Fld.TBL_LEARN_PORT_MOVE_EN port = false) : s.learn key port = s := by
  simp only [State.learn, h, if_neg hp, Bool.or_eq_true, Bool.not_eq_true', if_pos hs]

theorem State.learn_move (h : s.findEntry 65 key (fun _ => true) = some (k, e)) (hp : e.action.toNat ≠ port) (hpin : e.pinned = false)
    (hen : s.flagAt Fld.TBL_LEARN_PORT_MOVE_EN port = true) : s.learn key port = if s.learnAllows port = true
      then ((s.setEntry k (some { e with action := BitVec.ofNat 24 port, stamp := s.tbl.now })).learnCounted port).bump .TBL_MOVES 0
      else s.bump .TBL_LEARN_LIMITED 0 := by
  have hn : ¬(e.pinned || !s.flagAt Fld.TBL_LEARN_PORT_MOVE_EN port) = true := by simp [hpin, hen]
  simp only [State.learn, h, if_neg hp, if_neg hn]
  cases s.learnAllows port <;> rfl

theorem State.learn_insert (h : s.findEntry 65 key (fun _ => true) = none) (hr : s.learnAllows port = true)
    (hk : (s.keySlots 65 key).find? (fun k => (s.entry k).isNone) = some k)
    (he : e = newEntry s key (BitVec.ofNat 24 port) false (BitVec.ofNat 15 (s.fld Fld.TBL_TABLE_CFG_AGE_DEFAULT 65)) 0 false) :
    s.learn key port = ((s.setEntry k (some e)).learnCounted port).bump .TBL_LEARNED 0 := by
  subst he
  have hp := State.place_free
    (e := newEntry s key (BitVec.ofNat 24 port) false (BitVec.ofNat 15 (s.fld Fld.TBL_TABLE_CFG_AGE_DEFAULT 65)) 0 false) hk
  have hn : ¬(!s.learnAllows port) = true := by simp [hr]
  simp only [State.learn, h, if_neg hn, hp]

end Learn

/-! ## The flow cache (R157) -/

section Flow
variable {s : State}

theorem State.makeRoom_spare (h : s.tbl.cached.length < cachePairs) : s.makeRoom = s := if_pos h

theorem State.cacheFill_asleep (a b : Nat) (h : s.pairsAwake s.tbl.placement.flow = false) :
    s.cacheFill a b = s.touchPairs s.tbl.placement.flow := if_pos (by rw [h]; rfl)

theorem State.cacheFill_returned {a b : Nat} (h : s.pairsAwake s.tbl.placement.flow = true)
    (hf : s.tbl.fills.contains (min a b, max a b) = true) : s.cacheFill a b =
      { s.makeRoom with tbl := { s.makeRoom.tbl with fills := s.makeRoom.tbl.fills.filter (· != (min a b, max a b)),
                                                     cached := SMap.set (fun _ => false) (pairKey a b) true s.makeRoom.tbl.cached } } :=
  (if_neg (by rw [h]; exact Bool.false_ne_true)).trans (if_pos hf)

end Flow

/-- Settles O24: the writes are the branches of State.writeTbl over the word the plain rules give, and the other clauses are the branches
of the sweep, the milestone, the ager, learning and the flow cache. -/
theorem tableUpkeep : Obligations.TableUpkeep := by
  unfold Obligations.TableUpkeep
  refine ⟨?cfg, fun s u r t v h ht => exec_seedA_refused h ht v, ?seedB, fun s u r v h hv => exec_tblEvictedPop_of h hv, ?sweep, ?milestone,
    ?milestoneWaits, ?scan, ?remove, ?agedSlot, ?learn, ?fill, fun s h => State.makeRoom_spare h, ?asleep⟩
  case cfg =>
    intro s u r t v h ht
    have hf := fun {f : FieldInfo} => u.tableCfgSeen_other t v (f := f)
    exact ⟨(u.tableCfgSeen t v).new, hf (f := ⟨0, 5, .RW, 4⟩) (by decide) (by decide), hf (f := ⟨5, 1, .RW, 0⟩) (by decide) (by decide),
      hf (f := ⟨8, 21, .RW, 0⟩) (by decide) (by decide), hf (f := ⟨36, 15, .RW, 0⟩) (by decide) (by decide), u.tableCfgSeen_evict t v,
      exec_tableCfg_of h ht v⟩
  case seedB =>
    intro s u r t v h ht
    have hv := u.writeSeen_low (reg := .TBL_SEED_B) (f := ⟨0, 32, .RW, 0⟩) (List.pairwise_singleton _ _) List.mem_cons_self (.inl rfl)
      (by decide) t v
    refine ⟨_, hv.trans ?_, exec_seedB_stored h ht v⟩
    rw [bits, Nat.pow_zero, Nat.div_one]
    exact Nat.mod_eq_of_lt v.isLt
  case sweep => exact fun s k e hk he => congrArg _ (State.sweep_entry hk he)
  case milestone => exact fun s hm h => congrArg _ (State.milestone_due hm h)
  case milestoneWaits => exact fun s h => congrArg _ (State.milestone_waits h)
  case scan =>
    intro s t k e ht hk he
    simp only [← Entry.aged_iff]
    exact congrArg _ (State.agerScan_entry ht hk he)
  case remove =>
    intro s w t k key stamp rest h hw
    refine congrArg Host.Outcome.next ((State.agerRemove_next h hw).trans ?_)
    cases w.agedSlot t k key stamp <;> rfl
  case agedSlot =>
    rintro s t k _ _ e he rfl rfl ha
    exact State.agedSlot_same t he ha
  case learn =>
    intro s w p key port h hw
    have hnext : exec (.learnPresentation p) s = .next (if w.tableOn 65 = true then w.learn key port else w) :=
      congrArg _ (State.learnNext_presented h hw)
    refine ⟨fun hoff => hnext.trans (congrArg _ (if_neg (Bool.eq_false_iff.mp hoff))), ?_, ?_⟩
    · intro k e hon hfound
      rw [hnext, if_pos hon]
      exact ⟨fun hp => congrArg _ (State.learn_refresh hfound hp), fun hp hs => congrArg _ (State.learn_stays hfound hp hs),
        fun hp hpin hen => congrArg _ (State.learn_move hfound hp hpin hen)⟩
    · intro e k hon hnone hr hk he _
      rw [hnext, if_pos hon]
      exact congrArg _ (State.learn_insert hnone hr hk he)
  case fill =>
    rintro s _ a b h hf rfl
    exact congrArg _ (State.cacheFill_returned h hf)
  case asleep => exact fun s a b h => congrArg _ (State.cacheFill_asleep a b h)

end Sys2Proof.Machine
end

section
/-! PROOF. The egress of a port (R168, R187 to R191, R199, R214), spill returns (R181) and member moves (R173): each operation by the branches
of its definition. -/

namespace Sys2Proof.Machine

/-! ## Selection (R175, R187) -/

section Select
variable {s : State} {p : Nat} {k : Copy} {x : Frame}

/-- What becomes of a selected copy by the answer of its rewrite lookup (R175). -/
def State.afterRewrite (s : State) (k : Copy) (x : Frame) : RewriteHit → State
  | .miss => ((s.discardCopy k .SWC_REWRITE_MISS).collect).pauseCheck x.inPort
  | .expired => ((s.discardCopy k .SWC_TTL_EXPIRED).collect).pauseCheck x.inPort
  | .plain => s.startCopy k x none
  | .record v => s.startCopy k x (some v)

theorem State.egressSelect_waits (h : s.swc.copies.any (fun k => k.port == p && k.started) = true ∨ s.portStarts p = false) :
    s.egressSelect p = s :=
  if_pos (by rwa [Bool.or_eq_true, Bool.not_eq_true'])

section Free
variable (hidle : s.swc.copies.any (fun k => k.port == p && k.started) = false) (hstarts : s.portStarts p = true)
include hidle hstarts

theorem State.egressSelect_none (hsel : (s.retagAll p).select p = none) : s.egressSelect p = s.retagAll p := by
  simp only [State.egressSelect, hidle, hstarts, hsel, Bool.not_true, Bool.or_self, if_neg Bool.false_ne_true]

theorem State.egressSelect_some (hsel : (s.retagAll p).select p = some k) (hx : (s.retagAll p).frame? k.frame = some x) :
    s.egressSelect p = (s.retagAll p).afterRewrite k x ((s.retagAll p).rewriteOf k x) := by
  simp only [State.egressSelect, hidle, hstarts, hsel, hx, Bool.not_true, Bool.or_self, if_neg Bool.false_ne_true]
  cases (s.retagAll p).rewriteOf k x <;> rfl

end Free
end Select

/-! ## The end of a started copy (R168, R199) -/

/-- A late copy that ran past a close of its gate counts an overrun (R199). -/
def State.overrunCounted (s : State) (k : Copy) : State :=
  if (k.late && k.closes.any (fun t => decide (t < s.now))) = true then s.bump .TMS_TT_OVERRUN 0 else s

/-- Where a copy whose frame has ended goes, by the kind of its port (R168, R171, R214). -/
def State.copyLeft (s : State) (p : Nat) (k : Copy) (x : Frame) : State :=
  if p < 256 then
    (if x.bad = true then s.bump .SWC_TAIL_STOMPED 0 else s).endTx k (s.wire k x (s.fld Fld.PRT_CONFIG_MAX_FRAME p)).1
      (s.wire k x (s.fld Fld.PRT_CONFIG_MAX_FRAME p)).2
  else if (decide (324 ≤ p) && decide (p < 332)) = true then (s.dropCopy k).bump .OFL_BAD_TARGET 0
  else { s.dropCopy k with swc := { (s.dropCopy k).swc with arrived := s.swc.arrived ++ [k] } }

section Left
variable (s : State) {p : Nat} (k : Copy) (x : Frame)

theorem State.copyLeft_network (hp : p < 256) : s.copyLeft p k x =
    (if x.bad = true then s.bump .SWC_TAIL_STOMPED 0 else s).endTx k (s.wire k x (s.fld Fld.PRT_CONFIG_MAX_FRAME p)).1
      (s.wire k x (s.fld Fld.PRT_CONFIG_MAX_FRAME p)).2 := if_pos hp

theorem State.copyLeft_scaleUp (hlo : 324 ≤ p) (hhi : p < 332) : s.copyLeft p k x = (s.dropCopy k).bump .OFL_BAD_TARGET 0 := by
  have hnet : ¬p < 256 := by omega
  rw [State.copyLeft, if_neg hnet, if_pos (by simp [hlo, hhi])]

theorem State.copyLeft_internal (hlo : 256 ≤ p) (hout : p < 324 ∨ 332 ≤ p) :
    s.copyLeft p k x = { s.dropCopy k with swc := { (s.dropCopy k).swc with arrived := s.swc.arrived ++ [k] } } := by
  have hscale : ¬(decide (324 ≤ p) && decide (p < 332)) = true := by simp only [Bool.and_eq_true, decide_eq_true_eq]; omega
  rw [State.copyLeft, if_neg (Nat.not_lt.mpr hlo), if_neg hscale]

end Left

section Complete
variable {s : State} {p : Nat} {k : Copy} {x : Frame}
variable (hk : s.swc.copies.find? (fun k => k.port == p && k.started) = some k) (hx : s.frame? k.frame = some x)
include hk hx

theorem State.egressComplete_waits (he : x.ended = false) : s.egressComplete p = s := by
  simp only [State.egressComplete, hk, hx, he, Bool.not_false, if_true]

theorem State.egressComplete_ended (he : x.ended = true) :
    s.egressComplete p = ((s.overrunCounted k).copyLeft p k x).collect.pauseCheck x.inPort := by
  simp only [State.egressComplete, hk, hx, he, Bool.not_true, if_neg Bool.false_ne_true]
  rfl

end Complete

/-! ## Spill returns (R181) -/

section Spill
variable {s : State} {p c : Nat} {k : Copy} {x : Frame}
variable (hk : s.swc.copies.find? (fun k => k.port == p && k.cls == c && k.spilled) = some k) (hx : s.frame? k.frame = some x)
include hk hx

theorem State.spillReturn_deep (h : s.fld Fld.SWC_Q_LIMIT_SPILL_AT (8 * p + c) / 2 ≤ s.depthOf p c false) : s.spillReturn p c = s := by
  simp only [State.spillReturn, hk, hx, if_pos h]

variable (hdepth : s.depthOf p c false < s.fld Fld.SWC_Q_LIMIT_SPILL_AT (8 * p + c) / 2)
include hdepth

theorem State.spillReturn_asleep (hs : s.pairsAwake s.tbl.placement.spill = false) :
    s.spillReturn p c = s.touchPairs s.tbl.placement.spill := by
  simp only [State.spillReturn, hk, hx, if_neg (Nat.not_le.mpr hdepth), hs, Bool.not_false, if_true]

variable (hs : s.pairsAwake s.tbl.placement.spill = true)
include hs

theorem State.spillReturn_badTail (he : x.ended = true) (hb : x.bad = true) :
    s.spillReturn p c = ((s.discardCopy k .SWC_TAIL_DROP).collect).pauseCheck x.inPort := by
  simp only [State.spillReturn, hk, hx, if_neg (Nat.not_le.mpr hdepth), hs, he, hb, Bool.not_true, if_neg Bool.false_ne_true,
    Bool.and_self, if_true]

theorem State.spillReturn_charged {u : State} (hb : x.bad = false) (hu : s.chargeCells x { k with spilled := false } true = some u) :
    s.spillReturn p c = (u.setCopy k { k with spilled := false }).pauseCheck x.inPort := by
  simp only [State.spillReturn, hk, hx, if_neg (Nat.not_le.mpr hdepth), hs, hb, hu, Bool.not_true, if_neg Bool.false_ne_true, Bool.and_false]

end Spill

/-! ## Member moves (R173) -/

section Repin
variable {s : State} {g i : Nat}

theorem State.memberRepin_live (h : s.memberLive g i = true) : s.memberRepin g i = s := if_pos h

/-- A group without a live member keeps its slots. -/
theorem State.memberRepin_noneLive (h : ∀ j, j < 32 → s.memberLive g j = false) : s.memberRepin g i = s := by
  have hnil : (List.range 32).filter (fun j => s.memberLive g j) = [] :=
    List.filter_eq_nil_iff.mpr fun j hj => Bool.eq_false_iff.mp (h j (List.mem_range.mp hj))
  have hrepin : s.repin g i = s := if_pos (by rw [hnil]; rfl)
  rw [State.memberRepin, hrepin, ite_self]

theorem State.memberRepin_moves {live : List Nat} (h : s.memberLive g i = false)
    (hlive : live = (List.range 32).filter (fun j => s.memberLive g j)) (hne : live ≠ []) :
    s.memberRepin g i = ((List.range (2 ^ s.fld Fld.SWC_GROUP_LOG2_SLOTS g)).foldl (fun (a : State × Nat) k =>
      if a.1.fld Fld.SWC_PIN_MEMBER (s.fld Fld.SWC_GROUP_BASE g + k) = i then
        ((a.1.setFld Fld.SWC_PIN_MEMBER (s.fld Fld.SWC_GROUP_BASE g + k) ((live[a.2 % live.length]?).getD 0)).bump .SWC_REPINNED 0, a.2 + 1)
      else a) (s, 0)).1 := by
  subst hlive
  exact (if_neg (Bool.eq_false_iff.mp h)).trans (if_neg (mt List.isEmpty_iff.mp hne))

end Repin

/-- Settles O25: each clause is a branch of the operation's definition; the overrun is counted before the copy leaves. -/
theorem egress : Obligations.Egress := by
  unfold Obligations.Egress
  refine ⟨fun s p h => congrArg _ (State.egressSelect_waits h), ?select, ?complete,
    fun s p k x hk hx he => congrArg _ (State.egressComplete_waits hk hx he), ?spill, fun s g i h => congrArg _ (State.memberRepin_live h),
    fun s g i h => congrArg _ (State.memberRepin_noneLive h), fun s g i live h hl hn => congrArg _ (State.memberRepin_moves h hl hn)⟩
  case select =>
    rintro s _ p hidle hstarts rfl
    refine ⟨fun hsel => congrArg _ (State.egressSelect_none hidle hstarts hsel), fun k x hsel hx => ?_⟩
    have hafter {a : RewriteHit} (ha : (s.retagAll p).rewriteOf k x = a) :
        exec (.egressSelect p) s = .next ((s.retagAll p).afterRewrite k x a) :=
      congrArg _ ((State.egressSelect_some hidle hstarts hsel hx).trans (congrArg _ ha))
    exact ⟨hafter, hafter, hafter, fun v => hafter⟩
  case complete =>
    rintro s _ p k x hk hx he rfl
    have hleft {t : State} (ht : (s.overrunCounted k).copyLeft p k x = t) :
        exec (.egressComplete p) s = .next (t.collect.pauseCheck x.inPort) :=
      congrArg _ ((State.egressComplete_ended hk hx he).trans (congrArg (fun t => t.collect.pauseCheck x.inPort) ht))
    refine ⟨?_, fun hlo hhi => hleft (State.copyLeft_scaleUp _ k x hlo hhi), ?_⟩
    · rintro _ hp rfl
      exact hleft (State.copyLeft_network _ k x hp)
    · rintro _ hlo hout rfl
      exact hleft (State.copyLeft_internal _ k x hlo hout)
  case spill =>
    intro s p c k x hk hx
    exact ⟨fun h => congrArg _ (State.spillReturn_deep hk hx h), fun hd =>
      ⟨fun hs => congrArg _ (State.spillReturn_asleep hk hx hd hs),
       fun hs he hb => congrArg _ (State.spillReturn_badTail hk hx hd hs he hb),
       fun u hs hb hu => congrArg _ (State.spillReturn_charged hk hx hd hs hb hu)⟩⟩

end Sys2Proof.Machine
end

section
/-! SUPPORT. The equations of `State.tableCommand`, made once. Lean makes the equations of a definition when a proof first asks for them, and
proofs that ask meanwhile wait, each with a thread of its own; an `example` is elaborated before them, so that the proofs of O23 find the
equations made and the check compiles the whole text within its memory limit. -/

namespace Sys2Proof.Machine

/-- A table command that its check refuses answers the status and changes nothing (R158). -/
example {s : State} {op t : Nat} {o : TableOperands} {st : BitVec 8} (h : s.cmdCheck op t o = some st) (sel : Bool) :
    s.tableCommand op t sel o = ({ status := st }, s) := by
  simp only [State.tableCommand, h]

end Sys2Proof.Machine
end

section
/-! PROOF. The queue of commands (R202, R271): a step takes the command at its front, or ticks while none waits, and keeps of the queue all
but that command. -/

namespace Sys2Proof.Machine

/-- A waiting command runs on the state with the queue's rest. -/
theorem step_waiting {s : State} {c : Instr} {rest : List Instr} (hq : s.pending = c :: rest) :
    step s = exec c { s with pending := rest } := by
  rw [step, hq]

/-- What a step keeps of the state whose queue has lost its front. -/
theorem step_keeps {p : Prop} {s t : State} (hc : p → s.canonical = true) (hf : p → s.floorLegal = true) (h : step s = .next t) :
    Keeps p { s with pending := s.pending.tail } t := by
  cases hq : s.pending with
  | nil =>
    have hs : ({ s with pending := [].tail } : State) = s := by rw [List.tail_nil, ← hq]
    obtain rfl : s.tick = t := Host.Outcome.next.inj ((step_idle hq).symm.trans h)
    rw [hs]
    exact State.tick_keeps s (Keeps.refl hc hf)
  | cons c rest => exact exec_keeps (Keeps.refl hc hf) c ((step_waiting hq).symm.trans h)

/-- Settles O8: the queue, the outputs and the draws are fields of what every step keeps. -/
theorem queueIsFifo : Obligations.QueueIsFifo := by
  unfold Obligations.QueueIsFifo
  intro s t h
  have hk : Keeps False { s with pending := s.pending.tail } t := step_keeps False.elim False.elim h
  exact ⟨hk.queue, hk.out, hk.draws⟩

/-- Settles O1: a step looks at the queue alone to choose between its front and the tick. -/
theorem stepRunsCommand : Obligations.StepRunsCommand := by
  unfold Obligations.StepRunsCommand
  exact ⟨fun c s => step_waiting (s := { s with pending := c :: s.pending }) rfl, fun s => step_idle⟩

end Sys2Proof.Machine
end

section
/-! PROOF. Shapers, policers and timetables (R192 to R200, R207): what an admitted write of each TMS register stores and starts, and a
timetable's change by the branches of its definition. -/

namespace Sys2Proof.Machine

/-- The write of a TMS register, as its block sees it. -/
theorem State.performWrite_tms (s : State) (r : Requester) {reg : RegName} (hb : reg.info.block = .TMS) (i : Nat) (value mask : Word) :
    s.performWrite r reg i value mask = s.writeTms (s.writeSeen reg i value mask) := by
  simp only [State.performWrite, hb]; rfl

/-- A register whose fields lie apart and are all read and written plainly (R7). -/
def RegName.allRW (reg : RegName) : Prop :=
  reg.info.fields.Pairwise FieldInfo.apart ∧ ∀ f ∈ reg.info.fields, f.access = .RW ∧ f.lo + f.width ≤ 64

/-- Every field of such a register takes the bits of a whole write. -/
theorem State.writeSeen_allRW (s : State) {reg : RegName} (h : reg.allRW) (i : Nat) (v : Word) {f : FieldInfo} (hf : f ∈ reg.info.fields) :
    fieldOf (s.writeSeen reg i v wholeMask).new f.lo f.width = bits v.toNat f.lo f.width := by
  obtain ⟨hd, hrw⟩ := h
  obtain ⟨ha, hw⟩ := hrw f hf
  exact s.writeSeen_whole hd hf (.inl ha) hw i v

/-! ## Shapers (R192, R194) -/

/-- The four shaper registers have the same fields: RATE, BURST and RESET_TO. -/
theorem shaperReg_fields (k : ShaperKind) : (shaperReg k).info.fields = [⟨0, 21, .RW, 0⟩, ⟨32, 24, .RW, 0⟩, ⟨56, 1, .RW, 0⟩] := by
  cases k <;> rfl

theorem shaperReg_undomained (k : ShaperKind) (i : Nat) : State.domainOfReg (shaperReg k) i = none := by
  cases k <;> rfl

theorem shaperReg_allRW (k : ShaperKind) : (shaperReg k).allRW := by
  rw [RegName.allRW, shaperReg_fields]; unfold FieldInfo.apart; decide

/-- What a whole write of a shaper stores: a RATE out of range keeps the old one. -/
def State.shaperWritten (u : State) (k : ShaperKind) (i : Nat) (v : Word) : Word :=
  ((u.writeSeen (shaperReg k) i v wholeMask).guard ⟨shaperReg k, 0, 21⟩ (fun n => decide (n ≤ 1600000))).new

theorem State.shaperWritten_rate (u : State) (k : ShaperKind) (i : Nat) (v : Word) : fieldOf (u.shaperWritten k i v) 0 21 =
    if 1600000 < bits v.toNat 0 21 then fieldOf (u.reg (shaperReg k) i) 0 21 else bits v.toNat 0 21 := by
  have hw := u.writeSeen_allRW (shaperReg_allRW k) i v (f := ⟨0, 21, .RW, 0⟩) (by rw [shaperReg_fields]; decide)
  rw [State.shaperWritten, RegWrite.guard_self _ _ _ (by decide), hw, State.writeSeen_old]
  by_cases hr : bits v.toNat 0 21 ≤ 1600000 <;> simp [hr, Nat.not_lt.mpr, Nat.not_le.mp]

/-- BURST and RESET_TO take the bits written. -/
theorem State.shaperWritten_other (u : State) (k : ShaperKind) (i : Nat) (v : Word) {f : FieldInfo} (hf : f ∈ (shaperReg k).info.fields)
    (hn : 21 ≤ f.lo) : fieldOf (u.shaperWritten k i v) f.lo f.width = bits v.toNat f.lo f.width := by
  rw [State.shaperWritten, RegWrite.guard_other _ _ _ (by decide) (.inr hn), u.writeSeen_allRW (shaperReg_allRW k) i v hf]

theorem State.shaperWritten_burst (u : State) (k : ShaperKind) (i : Nat) (v : Word) :
    fieldOf (u.shaperWritten k i v) 32 24 = bits v.toNat 32 24 :=
  u.shaperWritten_other k i v (f := ⟨32, 24, .RW, 0⟩) (by rw [shaperReg_fields]; decide) (by decide)

theorem State.shaperWritten_resetTo (u : State) (k : ShaperKind) (i : Nat) (v : Word) :
    fieldOf (u.shaperWritten k i v) 56 1 = bits v.toNat 56 1 :=
  u.shaperWritten_other k i v (f := ⟨56, 1, .RW, 0⟩) (by rw [shaperReg_fields]; decide) (by decide)

theorem State.shaperWrite_whole (u : State) (k : ShaperKind) (i : Nat) (v : Word) :
    u.shaperWrite k i v wholeMask = (u.setReg (shaperReg k) i (u.shaperWritten k i v)).setTokens k i
      (if fieldOf (u.shaperWritten k i v) 56 1 = 1 then 0 else (fieldOf (u.shaperWritten k i v) 32 24 : Int) * 12800) := by
  have hn : u.shaperWritten k i v = if 1600000 < fieldOf (u.writeSeen (shaperReg k) i v wholeMask).new 0 21
      then withField (u.writeSeen (shaperReg k) i v wholeMask).new 0 21 (fieldOf (u.reg (shaperReg k) i) 0 21)
      else (u.writeSeen (shaperReg k) i v wholeMask).new := by
    unfold State.shaperWritten RegWrite.guard
    by_cases hr : fieldOf (u.writeSeen (shaperReg k) i v wholeMask).new 0 21 ≤ 1600000
    · rw [if_pos (decide_eq_true hr), if_neg (Nat.not_lt.mpr hr)]
    · rw [if_neg (by simpa using hr), if_pos (Nat.not_le.mp hr)]; rfl
  rw [hn]; rfl

theorem State.performWrite_shaper (u : State) (r : Requester) {k : ShaperKind} {i : Nat} (hz : sliceZero (shaperReg k) i = false) (v : Word) :
    u.performWrite r (shaperReg k) i v wholeMask = u.shaperWrite k i v wholeMask := by
  have hseen : u.performWrite r (shaperReg k) i v wholeMask = u.shaperWrite k i (v &&& wholeMask) wholeMask := by
    have hz' := Bool.eq_false_iff.mp hz
    cases k with
    | queue => rfl
    | port => rfl
    | sliceDeliver => exact if_neg hz'
    | sliceSend => exact if_neg hz'
  rw [hseen, and_wholeMask]

/-- An admitted shaper write stores its word and sets the tokens by RESET_TO. -/
theorem exec_shaperWrite_of {s u : State} {r : Requester} {k : ShaperKind} {i : Nat} {v : Word} (hwf : (Instr.shaperWrite r k i v).wf = true)
    (h : s.admitWrite r (shaperReg k) i = (true, u)) (hz : sliceZero (shaperReg k) i = false) :
    exec (.shaperWrite r k i v) s = .next ((u.setReg (shaperReg k) i (u.shaperWritten k i v)).setTokens k i
      (if bits v.toNat 56 1 = 1 then 0 else (bits v.toNat 32 24 : Int) * 12800)) := by
  rw [← u.shaperWritten_resetTo k i, ← u.shaperWritten_burst k i, ← u.shaperWrite_whole]
  refine congrArg _ ((if_pos hwf).trans ?_)
  exact (State.directWrite_undomained h (shaperReg_undomained k i) _ _).trans (u.performWrite_shaper r hz v)

/-! ## Policers (R195 to R197) -/

/-- Both buckets of a policer filled. -/
def State.policerFilled (w : State) (i : Nat) : State :=
  w.setPolicer i ((w.fld Fld.TMS_POLICER_SIZE_CBS i : Int) * 12800) ((w.fld Fld.TMS_POLICER_SIZE_PBS i : Int) * 12800)

theorem policerRate_allRW : RegName.TMS_POLICER_RATE.allRW := by unfold RegName.allRW FieldInfo.apart; decide
theorem policerSize_allRW : RegName.TMS_POLICER_SIZE.allRW := by unfold RegName.allRW FieldInfo.apart; decide

/-- A write of the rates is judged by the CIR and PIR written: ignored whole, or stored with both buckets filled. -/
theorem State.performWrite_policerRate (u : State) (r : Requester) (i : Nat) (v : Word) : u.performWrite r .TMS_POLICER_RATE i v wholeMask =
    if bits v.toNat 32 21 < bits v.toNat 0 21 ∨ 1600000 < bits v.toNat 32 21 then u
    else (u.setReg .TMS_POLICER_RATE i (u.writeSeen .TMS_POLICER_RATE i v wholeMask).new).policerFilled i := by
  have hcir := u.writeSeen_allRW policerRate_allRW i v (f := ⟨0, 21, .RW, 0⟩) (by decide)
  have hpir := u.writeSeen_allRW policerRate_allRW i v (f := ⟨32, 21, .RW, 0⟩) (by decide)
  have hw : u.performWrite r .TMS_POLICER_RATE i v wholeMask = u.policerWrite i false (v &&& wholeMask) wholeMask := rfl
  rw [hw, and_wholeMask, ← hcir, ← hpir]
  simp only [State.policerWrite, Bool.not_false, Bool.true_and, Bool.or_eq_true, decide_eq_true_eq, Bool.false_eq_true, if_false]
  rfl

section Policer
variable {s u : State} {r : Requester} {i : Fin 16384}

theorem exec_policerRate_of (h : s.admitWrite r .TMS_POLICER_RATE i = (true, u)) (v : Word) : exec (.policerWrite r i false v) s = .next
    (if bits v.toNat 32 21 < bits v.toNat 0 21 ∨ 1600000 < bits v.toNat 32 21 then u
    else (u.setReg .TMS_POLICER_RATE i (u.writeSeen .TMS_POLICER_RATE i v wholeMask).new).policerFilled i) :=
  congrArg _ ((State.directWrite_undomained h rfl _ _).trans (u.performWrite_policerRate r i v))

/-- A write of the sizes is stored, and fills both buckets to them. -/
theorem exec_policerSize_of (h : s.admitWrite r .TMS_POLICER_SIZE i = (true, u)) (v : Word) : exec (.policerWrite r i true v) s = .next
    ((u.setReg .TMS_POLICER_SIZE i (u.writeSeen .TMS_POLICER_SIZE i v wholeMask).new).policerFilled i) := by
  refine congrArg _ ((State.directWrite_undomained h rfl _ _).trans ?_)
  have hw : u.performWrite r .TMS_POLICER_SIZE i v wholeMask = u.policerWrite i true (v &&& wholeMask) wholeMask := rfl
  rw [hw, and_wholeMask]
  rfl

end Policer

/-! ## Writes of TMS_TT_ADMIN_CTRL (R200, R207) -/

theorem State.performWrite_ttCtrl (u : State) (r : Requester) (p : Nat) (v m : Word) :
    u.performWrite r .TMS_TT_ADMIN_CTRL p v m = u.ttCtrlWrite p (v &&& m) m := u.performWrite_tms r rfl p v m

/-- A field of the bits a write's mask lets through. -/
theorem fieldOf_and (v m : Word) (lo w : Nat) : fieldOf (v &&& m) lo w = fieldOf v lo w &&& fieldOf m lo w := by
  simp only [fieldOf, bits, BitVec.toNat_and, Nat.and_div_two_pow, Nat.and_mod_two_pow]

/-- The word a CHANGE carries, and the mask that takes LENGTH and CHANGE of it. -/
def changeWord (len : BitVec 11) : Word := withField (withField 0 0 11 len.toNat) 16 1 1
def changeMask : Word := withField (withField 0 0 11 2047) 16 1 1

theorem changeWord_fields (len : BitVec 11) : fieldOf (changeWord len &&& changeMask) 0 11 = len.toNat ∧
    fieldOf (changeWord len &&& changeMask) 16 1 = 1 ∧ fieldOf (changeWord len &&& changeMask) 17 1 = 0 := by
  have hmask : fieldOf changeMask 0 11 = 2 ^ 11 - 1 ∧ fieldOf changeMask 16 1 = 1 ∧ fieldOf changeMask 17 1 = 0 := by decide
  obtain ⟨hlength, hchange, hcancel⟩ := hmask
  refine ⟨?_, ?_, ?_⟩
  · rw [fieldOf_and, hlength, changeWord, fieldOf_withField_ne _ _ (by decide) (by decide), fieldOf_withField _ _ (by decide),
      Nat.and_two_pow_sub_one_eq_mod, Nat.mod_mod, Nat.mod_eq_of_lt len.isLt]
  · rw [fieldOf_and, hchange, changeWord, fieldOf_withField _ _ (by decide)]
    rfl
  · rw [fieldOf_and, hcancel, Nat.and_zero]

/-- The word a CANCEL carries is its own mask. -/
def cancelWord : Word := withField 0 17 1 1

theorem cancelWord_fields : fieldOf (cancelWord &&& cancelWord &&& cancelWord) 16 1 = 0 ∧
    fieldOf (cancelWord &&& cancelWord &&& cancelWord) 17 1 = 1 := by decide

section Ctrl
variable {s : State} {p : Nat} {value mask : Word}

theorem State.ttChange_pending (h : s.changeAt p ≠ none) : s.ttChange p = s :=
  if_pos (Option.isSome_iff_ne_none.mpr h)

/-- CHANGE alone, while none is pending: LENGTH is stored first. -/
theorem State.ttCtrlWrite_change (h : s.changeAt p = none) (hchange : fieldOf (value &&& mask) 16 1 = 1)
    (hcancel : fieldOf (value &&& mask) 17 1 = 0) :
    s.ttCtrlWrite p value mask = (s.plainWrite .TMS_TT_ADMIN_CTRL p value mask).ttChange p := by
  simp [State.ttCtrlWrite, h, hchange, hcancel]

/-- CHANGE alone while one is pending does nothing, and stores no LENGTH. -/
theorem State.ttCtrlWrite_secondChange (h : s.changeAt p ≠ none) (hcancel : fieldOf (value &&& mask) 17 1 = 0) :
    s.ttCtrlWrite p value mask = s := by
  simp [State.ttCtrlWrite, Option.isSome_iff_ne_none.mpr h, State.ttChange_pending h, hcancel]

/-- CANCEL alone ends the pending change, unless its time is reached. -/
theorem State.ttCtrlWrite_cancel {ct : Nat} (h : s.changeAt p = some ct) (hchange : fieldOf (value &&& mask) 16 1 = 0)
    (hcancel : fieldOf (value &&& mask) 17 1 = 1) : s.ttCtrlWrite p value mask = if ct ≤ s.now then s else s.setChange p none := by
  simp [State.ttCtrlWrite, State.ttCancel, h, hchange, hcancel]

end Ctrl

section Admitted
variable {s u : State} {r : Requester} {p : Fin 256} (h : s.admitWrite r .TMS_TT_ADMIN_CTRL p = (true, u))
include h

theorem exec_timetableChange_of (len : BitVec 11) :
    exec (.timetableChange r p len) s = .next (u.ttCtrlWrite p (changeWord len &&& changeMask) changeMask) :=
  congrArg _ ((State.directWrite_undomained h rfl _ _).trans (u.performWrite_ttCtrl r p _ _))

theorem exec_timetableCancel_of {ct : Nat} (hct : u.changeAt p = some ct) :
    exec (.timetableCancel r p) s = .next (if ct ≤ u.now then u else u.setChange p none) := by
  obtain ⟨hchange, hcancel⟩ := cancelWord_fields
  exact congrArg _ ((State.directWrite_undomained h rfl _ _).trans ((u.performWrite_ttCtrl r p _ _).trans
    (State.ttCtrlWrite_cancel hct hchange hcancel)))

end Admitted

/-- A CHANGE stores its length in TMS_TT_ADMIN_CTRL. -/
theorem changeWord_stored (u : State) (p : Nat) (len : BitVec 11) : fieldOf (BitVec.ofNat 64 (plainWritten RegName.TMS_TT_ADMIN_CTRL.info.fields
    (u.reg .TMS_TT_ADMIN_CTRL p).toNat (changeWord len &&& changeMask).toNat changeMask.toNat)) 0 11 = len.toNat := by
  have hd : RegName.TMS_TT_ADMIN_CTRL.info.fields.Pairwise FieldInfo.apart := by unfold FieldInfo.apart; decide
  obtain ⟨hlength, _, _⟩ := changeWord_fields len
  exact (written_at (f := ⟨0, 11, .RW, 1⟩) hd (by decide) (.inl rfl) (by decide) (by decide) _ _).trans hlength

/-! ## A change and its time (R199, R200) -/

section Change
variable {s : State} {p : Nat}

theorem State.ttChange_malformed (h : s.changeAt p = none)
    (hbad : s.fld Fld.TMS_TT_ADMIN_CTRL_LENGTH p < 1 ∨ 1024 < s.fld Fld.TMS_TT_ADMIN_CTRL_LENGTH p ∨ s.fld Fld.TMS_TT_ADMIN_CYCLE_NS p < 1000 ∨
      4000000000 < s.fld Fld.TMS_TT_ADMIN_CYCLE_NS p ∨ 1000000000 ≤ s.fld Fld.TMS_TT_ADMIN_BASE_NANOSECONDS p) :
    s.ttChange p = s.setFld Fld.TMS_TT_STATUS_LAST_STATUS p Code.MALFORMED := by
  refine (if_neg (by rw [h]; decide)).trans (if_pos ?_)
  simpa only [Bool.or_eq_true, decide_eq_true_eq, or_assoc] using hbad

/-- A list in order shows its change time and leaves the change pending. -/
theorem State.ttChange_accepted {w : State} {ct : Nat} (h : s.changeAt p = none) (hlen : 1 ≤ s.fld Fld.TMS_TT_ADMIN_CTRL_LENGTH p)
    (hlen' : s.fld Fld.TMS_TT_ADMIN_CTRL_LENGTH p ≤ 1024) (hcycle : 1000 ≤ s.fld Fld.TMS_TT_ADMIN_CYCLE_NS p)
    (hcycle' : s.fld Fld.TMS_TT_ADMIN_CYCLE_NS p ≤ 4000000000) (hbase : s.fld Fld.TMS_TT_ADMIN_BASE_NANOSECONDS p < 1000000000)
    (hct : ct = changeTime (s.adminBase p) (s.fld Fld.TMS_TT_ADMIN_CYCLE_NS p) s.now)
    (hw : w = (s.setFld Fld.TMS_TT_STATUS_LAST_STATUS p Code.OK).setFld Fld.TMS_TT_STATUS_CT_SECONDS_HIGH p (secondsOf ct / 2 ^ 32)) :
    s.ttChange p = (w.setReg .TMS_TT_CHANGE_TIME p (BitVec.ofNat 64 (nanosOf ct + secondsOf ct % 2 ^ 32 * 2 ^ 32))).setChange p (some ct) := by
  subst hct hw
  refine (if_neg (by rw [h]; decide)).trans (if_neg ?_)
  simp only [Bool.or_eq_true, decide_eq_true_eq]
  omega

theorem State.ttChangeTime_early {ct : Nat} (h : s.changeAt p = some ct) (hnow : s.now < ct) : s.ttChangeTime p = s := by
  simp only [State.ttChangeTime, h, if_pos hnow]

/-- At its time the administrative list becomes the operational one; with no gate shut before, no class opens. -/
theorem State.ttChangeTime_allOpen {w : State} {ct : Nat} {t : Timetable} (h : s.changeAt p = some ct) (hnow : ct ≤ s.now)
    (ht : t = ⟨ct, s.fld Fld.TMS_TT_ADMIN_CYCLE_NS p, (List.range (s.fld Fld.TMS_TT_ADMIN_CTRL_LENGTH p)).map (fun e =>
      (BitVec.ofNat 8 (s.fld Fld.TMS_TT_ADMIN_GATES (1024 * p + e)), s.fld Fld.TMS_TT_ADMIN_DURATION (1024 * p + e)))⟩)
    (hw : w = { s.setChange p none with tms := { (s.setChange p none).tms with oper := SMap.set operDefault p (some t) s.tms.oper } })
    (hopen : ∀ c, c < 8 → s.gateOpen p c = true) : s.ttChangeTime p = w := by
  have hshut : (List.range 8).filter (fun c => !s.gateOpen p c) = [] :=
    List.filter_eq_nil_iff.mpr fun c hc => by rw [hopen c (List.mem_range.mp hc)]; decide
  subst ht hw
  simp only [State.ttChangeTime, h, if_neg (Nat.not_lt.mpr hnow), hshut, List.filter_nil, List.foldl_nil]

theorem State.gateChange_none (h : s.timetable p = none) : s.gateChange p = s := by
  simp only [State.gateChange, h]

theorem State.gateChange_opens {t : Timetable} {x : Segment} (h : s.timetable p = some t) (hx : t.segmentAt (t.position s.now) = some x) :
    s.gateChange p = (List.range 8).foldl (fun s c => match t.opened x c with | some w => s.dropOversize p c w | none => s) s := by
  simp only [State.gateChange, h, hx] <;> rfl

end Change

/-- Settles O26: an admitted write does what its register's block makes of the word written, and a change and the gates follow the branches
of their definitions. -/
theorem shapersTimetables : Obligations.ShapersTimetables := by
  unfold Obligations.ShapersTimetables
  refine ⟨?shaper, ?rateIgnored, ?rateStored, ?sizeStored, ?secondChange, ?change, fun s p => State.ttChange_malformed,
    fun s w p ct => State.ttChange_accepted, fun s u r p ct h => exec_timetableCancel_of h,
    fun s p ct h hn => congrArg _ (State.ttChangeTime_early h hn),
    fun s w p ct t h hn ht hw ho => congrArg _ (State.ttChangeTime_allOpen h hn ht hw ho),
    fun s p h => congrArg _ (State.gateChange_none h), fun s p t x h hx => congrArg _ (State.gateChange_opens h hx)⟩
  case shaper =>
    intro s u r k i v hwf h hz
    exact ⟨u.shaperWritten k i v, u.shaperWritten_rate k i v, u.shaperWritten_burst k i v, u.shaperWritten_resetTo k i v,
      exec_shaperWrite_of hwf h hz⟩
  case rateIgnored => exact fun s u r i v h hbad => (exec_policerRate_of h v).trans (congrArg _ (if_pos hbad))
  case rateStored =>
    intro s u r i v h hle hmax
    have hw := fun {f : FieldInfo} => u.writeSeen_allRW policerRate_allRW i v (f := f)
    refine ⟨_, hw (f := ⟨0, 21, .RW, 0⟩) (by decide), hw (f := ⟨32, 21, .RW, 0⟩) (by decide), ?_⟩
    rintro _ rfl
    exact (exec_policerRate_of h v).trans (congrArg _ (if_neg (by omega)))
  case sizeStored =>
    intro s u r i v h
    have hw := fun {f : FieldInfo} => u.writeSeen_allRW policerSize_allRW i v (f := f)
    refine ⟨_, hw (f := ⟨0, 24, .RW, 0⟩) (by decide), hw (f := ⟨32, 24, .RW, 0⟩) (by decide), hw (f := ⟨56, 1, .RW, 1⟩) (by decide), ?_⟩
    rintro _ rfl
    exact exec_policerSize_of h v
  case secondChange =>
    intro s u r p len h hp
    obtain ⟨_, _, hcancel⟩ := changeWord_fields len
    rw [exec_timetableChange_of h, State.ttCtrlWrite_secondChange hp (by rwa [BitVec.and_assoc, BitVec.and_self])]
  case change =>
    intro s u r p len h hp
    obtain ⟨_, hchange, hcancel⟩ := changeWord_fields len
    refine ⟨_, changeWord_stored u p len, ?_⟩
    rw [exec_timetableChange_of h, State.ttCtrlWrite_change hp (by rwa [BitVec.and_assoc, BitVec.and_self])
      (by rwa [BitVec.and_assoc, BitVec.and_self])]
    rfl

end Sys2Proof.Machine
end

section
/-! PROOF. Tunnel units (R209 to R220): which context a unit starts under, and the branches of encapsulation, decapsulation and ESP. -/

namespace Sys2Proof.Machine

/-! ## The context of a unit (R209, R213) -/

section Pick
variable {s : State} {x : Frame} {die : Nat}

theorem State.pickContext_wrongDie (h : x.engineCtx / 32768 ≠ die) : s.pickContext x die = .inr .OFL_WRONG_DIE := if_pos h

variable (hd : x.engineCtx / 32768 = die)
include hd

theorem State.pickContext_passLimit (h : s.fld Fld.OFL_CTRL_MAX_PASSES 0 < x.reentries + 1) : s.pickContext x die = .inr .OFL_PASS_LIMIT :=
  (if_neg (not_not_intro hd)).trans (if_pos h)

variable (hp : x.reentries + 1 ≤ s.fld Fld.OFL_CTRL_MAX_PASSES 0)
include hp

/-- The context named serves, or the next one where it has handed over (R213, R222). -/
theorem State.pickContext_byState : s.pickContext x die =
    if tState (s.tun x.engineCtx) = 1 then .inl x.engineCtx
    else if tState (s.tun x.engineCtx) = 2 then
      if tState (s.tun (tNext (s.tun x.engineCtx))) = 1 then .inl (tNext (s.tun x.engineCtx)) else .inr .OFL_CTX_INACTIVE
    else if tState (s.tun x.engineCtx) = 3 then .inr .OFL_SEQ_EXHAUSTED
    else .inr .OFL_CTX_INACTIVE := by
  unfold State.pickContext
  dsimp only
  rw [if_neg (not_not_intro hd), if_neg (Nat.not_lt.mpr hp)]
  split
  next h => rw [h]; rfl
  next h => rw [h]; rfl
  next h => rw [h]; rfl
  next h1 h2 h3 => rw [if_neg h1, if_neg h2, if_neg h3]

end Pick

/-! ## The unit at the head of a tunnel port -/

section Unit
variable {s : State} {p : Nat} {types : List Nat} {act : State → Copy → Frame → Nat → Nat → State}

theorem State.tunnelUnit_empty (h : s.arrivedAt (320 + p) = none) : s.tunnelUnit p types act = s := by
  simp only [State.tunnelUnit, h]

variable {k : Copy} {x : Frame} (h : s.arrivedAt (320 + p) = some (k, x))
include h

theorem State.tunnelUnit_discard {n : RegName} (hn : s.pickContext x (p / 2) = .inr n) :
    s.tunnelUnit p types act = ((s.takeArrived k).bump n 0).settleAll := by
  simp only [State.tunnelUnit, h, hn]

/-- A context of one of the command's two types: the unit is handled under it. -/
theorem State.tunnelUnit_act {c a b : Nat} {t : State} (hc : s.pickContext x (p / 2) = .inl c) (ht : tType (s.tun c) = a ∨ tType (s.tun c) = b)
    (he : act s k x c (320 + p) = t) : s.tunnelUnit p [a, b] act = t.settleAll := by
  simp only [State.tunnelUnit, h, hc, List.contains_iff_mem.mpr (List.mem_pair.mpr ht), if_true, he]

end Unit

/-! ## Encapsulation and decapsulation (R214 to R217) -/

section Encap
variable {s : State} {k : Copy} {x : Frame} {c port : Nat}

theorem State.encapUnit_badTail (hx : x.bad = true) : s.encapUnit k x c port = (s.takeArrived k).dropUnit := if_pos hx

theorem State.encapUnit_goodTail (hx : x.bad = false) {w : State} (hw : w = s.takeArrived k) {out : List Byte}
    (ho : out = encapsulate (w.parseIn x.octets) (s.tun c) (w.unitBody x) x.ticket.flowHash.toNat w.free) :
    s.encapUnit k x c port = if tMtu (s.tun c) < out.length + 4 then w.drew.bump .OFL_TOO_BIG 0
      else w.drew.reenter x port (withFcs out false) false 0 := by
  subst hw ho
  exact if_neg (Bool.eq_false_iff.mp hx)

end Encap

section Decap
variable {s w : State} {k : Copy} {x : Frame} {c port : Nat} {q : ParseIn} {body inner : List Byte}
variable (hw : w = s.takeArrived k) (hq : q = w.parseIn x.octets) (hb : body = w.unitBody x)
include hw hq hb

theorem State.decapUnit_mismatch (h : exposed q (s.tun c) body = none) : s.decapUnit k x c port = w.bump .OFL_DECAP_MISMATCH 0 := by
  subst hw hq hb
  simp only [State.decapUnit, h]

theorem State.decapUnit_ecnDrop (h : exposed q (s.tun c) body = some inner)
    (he : exposeEcn q inner (tosOf body (ethHeads q body 0) % 4) = none) : s.decapUnit k x c port = w.bump .OFL_ECN_DROP 0 := by
  subst hw hq hb
  simp only [State.decapUnit, h, he]

theorem State.decapUnit_reenters {out : List Byte} (h : exposed q (s.tun c) body = some inner)
    (he : exposeEcn q inner (tosOf body (ethHeads q body 0) % 4) = some out) : s.decapUnit k x c port =
      w.reenter x port (withFcs out x.bad) x.bad (BitVec.ofNat 8 (verifyLevel out (ethHeads q out 0))) := by
  subst hw hq hb
  simp only [State.decapUnit, h, he]

end Decap

/-! ## ESP outbound (R218) -/

section EspOut
variable {s : State} {x : Frame} {c port : Nat} {b body : List Byte} {q : ParseIn}
variable (hb : b = s.tun c) (hq : q = s.parseIn x.octets) (hbody : body = s.unitBody x)
include hb hq hbody

theorem State.espOut_unsupported (hp : espParts q b body = none) : s.espOut x c port = s.bump .OFL_UNSUPPORTED_UNIT 0 := by
  subst hb hq hbody
  simp only [State.espOut, hp]

variable {head clear payload h : List Byte} {nxt : Nat} (hp : espParts q b body = some (head, clear, nxt))
variable (hpay : payload = clear ++ espTrailer clear.length nxt)
variable (hh : h = espHead q b head body (16 + payload.length + 16) s.free)
include hp hpay hh

theorem State.espOut_tooBig (hm : tMtu b < h.length + (16 + payload.length + 16) + 4) : s.espOut x c port = s.drew.bump .OFL_TOO_BIG 0 := by
  subst hb hq hbody hpay hh
  simp only [State.espOut, hp, if_pos hm]

variable (hm : h.length + (16 + payload.length + 16) + 4 ≤ tMtu b)
include hm

theorem State.espOut_exhausted (hs : lastSeq b < tSeq b) : s.espOut x c port = ((s.drew.roll c true).2).bump .OFL_SEQ_EXHAUSTED 0 := by
  subst hb hq hbody hpay hh
  simp only [State.espOut, hp, if_neg (Nat.not_lt.mpr hm), if_pos hs]

/-- A unit with its number below the last and no roll due only takes the number and submits its seal request. -/
theorem State.espOut_seals (hs : tSeq b < lastSeq b) (hr : tRollSeq b = 0) {w : State} (hw : w = s.drew.setTunSeq c (tSeq b + 1)) {j : TunnelJob}
    (hj : j = { id := w.ofl.nextJob, frame := x, ctx := c, obj := b, port := port, seq := tSeq b, inbound := false,
                head := h ++ toBE 4 (tId b) ++ toBE 4 (tSeq b), aad := espAad b (tSeq b), payload := payload, ecn := 0 }) :
    s.espOut x c port = State.submitCipher { w with ofl := { w.ofl with jobs := w.ofl.jobs ++ [j], nextJob := w.ofl.nextJob + 1 } }
      { requester := .tunnel (if c < 32768 then 0 else 1), input := espAad b (tSeq b) ++ payload,
        raw := requestBytes 1 1 (espAad b (tSeq b)).length payload.length (tKey b) x.ticket.slice.toNat x.ticket.gen.toNat 0 0 0 w.ofl.nextJob } := by
  subst hb hq hbody hpay hh hj hw
  simp only [State.espOut, hp, if_neg (Nat.not_lt.mpr hm), if_neg (Nat.not_lt.mpr hs.le), if_neg hs.ne, hr, ne_eq,
    not_true_eq_false, false_and, if_false]

end EspOut

/-! ## ESP inbound (R219, R220) -/

/-- Where the IP packet of an inbound unit ends, by its own length. -/
def packetEnd (h : Heads) (body : List Byte) : Nat :=
  match h.ip with
  | some (i, true) => min body.length (i + beAt body (i + 2) 2)
  | some (i, false) => min body.length (i + 40 + beAt body (i + 4) 2)
  | none => body.length

theorem packetEnd_eq {h : Heads} {body : List Byte} {stop : Nat} (h4 : ∀ i, h.ip = some (i, true) → stop = min body.length (i + beAt body (i + 2) 2))
    (h6 : ∀ i, h.ip = some (i, false) → stop = min body.length (i + 40 + beAt body (i + 4) 2)) (hn : h.ip = none → stop = body.length) :
    packetEnd h body = stop := by
  unfold packetEnd
  split
  next i hi => exact (h4 i hi).symm
  next i hi => exact (h6 i hi).symm
  next hi => exact (hn hi).symm

/-- The sequence number of an inbound unit, its high half inferred where the context has extended numbers (R219 step 2). -/
def inboundSeq (b body : List Byte) (o : Nat) : Nat :=
  if tEsn b then inferSeq (tWindow b) (tSeq b) (beAt body (o + 4) 4) else beAt body (o + 4) 4

/-- A window marks the sequence number of a unit under decryption as pending (R219 step 3). -/
def State.markPending (w : State) (c : Nat) (b : List Byte) (seq : Nat) : State :=
  if tWindow b ≠ 0 then w.setReplay c { w.replay c with pending := seq :: (w.replay c).pending } else w

/-- The job and the open request of an inbound unit whose ESP header lies at o and whose packet ends at stop. -/
def State.espOpens (v : State) (x : Frame) (c port : Nat) (b body : List Byte) (h : Heads) (o stop seq : Nat) : State :=
  State.submitCipher { v with ofl := { v.ofl with
      jobs := v.ofl.jobs ++ [{ id := v.ofl.nextJob, frame := x, ctx := c, obj := b, port := port, seq := seq, inbound := true, head := body.take o,
                               aad := espAad b seq, payload := (body.take stop).drop (o + 16), ecn := tosOf body h % 4 }]
      nextJob := v.ofl.nextJob + 1 } }
    { requester := .tunnel (if c < 32768 then 0 else 1), input := espAad b seq ++ (body.take stop).drop (o + 16),
      raw := requestBytes 2 1 (espAad b seq).length (((body.take stop).drop (o + 16)).length - 16) (tKey b) x.ticket.slice.toNat x.ticket.gen.toNat
        (v.keyCtx (tKey b)).epoch.toNat (beAt body (o + 8) 8) 0 v.ofl.nextJob }

section EspIn
variable {s w : State} {k : Copy} {x : Frame} {c port o : Nat} {b body : List Byte} {q : ParseIn}
variable (hb : b = s.tun c) (hw : w = s.takeArrived k) (hq : q = w.parseIn x.octets) (hbody : body = w.unitBody x)
include hb hw hq hbody

theorem State.espIn_keepalive (hk : isKeepalive q b body = true) : s.espIn k x c port = w.bump .OFL_NATT_KEEPALIVE 0 := by
  subst hb hw hq hbody
  exact if_pos hk

variable (hk : isKeepalive q b body = false)
include hk

theorem State.espIn_notEsp (ho : espAt q b body = none) : s.espIn k x c port = w.bump .OFL_DECAP_MISMATCH 0 := by
  subst hb hw hq hbody
  refine (if_neg (Bool.eq_false_iff.mp hk)).trans ?_
  rw [ho]

/-- The checks of a unit that carries an ESP header, in order (R219 steps 1 to 3, R214). -/
theorem State.espIn_esp (ho : espAt q b body = some o) : s.espIn k x c port =
    if packetEnd (ethHeads q body 0) body < o + 32 ∨ beAt body o 4 ≠ tId b then w.bump .OFL_DECAP_MISMATCH 0
    else if replayRefuses (tWindow b) (tSeq b) (inboundSeq b body o) (w.replay c) then w.bump .OFL_ESP_REPLAY 0
    else if x.bad ∧ tType b = 8 then w.dropUnit
    else (w.markPending c b (inboundSeq b body o)).espOpens x c port b body (ethHeads q body 0) o
      (packetEnd (ethHeads q body 0) body) (inboundSeq b body o) := by
  subst hb hw hq hbody
  refine (if_neg (Bool.eq_false_iff.mp hk)).trans ?_
  rw [ho]
  rfl

end EspIn

theorem State.inboundEnds_result {s : State} {die : Nat} {j : TunnelJob} {r : CipherResult} (h : s.inboundResult die = some (j, r)) :
    s.inboundEnds die =
      (State.espInDone { s with cph := { s.cph with results := s.cph.results.filter (fun y => y != r) } } j r).settleAll := by
  simp only [State.inboundEnds, h]

section Done
variable {s w : State} {j : TunnelJob} {r : CipherResult}
variable (hw : w = { s with ofl := { s.ofl with jobs := s.ofl.jobs.filter (fun y => y.id != j.id) } }) (hb : j.frame.bad = false)
include hw hb

/-- A unit whose tag does not agree ends without output. -/
theorem State.espInDone_authFail (h5 : leAt r.result 0 1 = 5) (h0 : leAt r.result 4 4 = 0) :
    s.espInDone j r = (w.unmark j).bump .OFL_ESP_AUTH_FAIL 0 := by
  subst hw
  refine (if_neg (Bool.eq_false_iff.mp hb)).trans ((if_pos (by rw [h5]; decide)).trans ?_)
  exact (if_neg (fun h => h.2 h0)).trans (if_pos h5)

variable (h0 : leAt r.result 0 1 = 0) {inner : List Byte}
include h0

/-- After a good decryption the window accepts the number, and the trailer says what the packet is. -/
theorem State.espInDone_dummy (ht : splitTrailer r.output = some (inner, 59)) : s.espInDone j r = (w.accept j).bump .OFL_ESP_DUMMY 0 := by
  subst hw
  refine (if_neg (Bool.eq_false_iff.mp hb)).trans ((if_neg (not_not_intro h0)).trans ?_)
  rw [ht]
  rfl

theorem State.espInDone_ipv4 (ht : splitTrailer r.output = some (inner, 4)) (h6 : tType j.obj = 6) (hv : leAt inner 0 1 / 16 ≠ 6)
    (hl : ipLength inner = inner.length) : s.espInDone j r = (w.accept j).espStream j inner false := by
  subst hw
  refine (if_neg (Bool.eq_false_iff.mp hb)).trans ((if_neg (not_not_intro h0)).trans ?_)
  rw [ht]
  exact (if_neg (by decide)).trans ((if_pos h6).trans (if_pos ⟨.inl ⟨rfl, hv⟩, hl⟩))

end Done

/-! ## The commands -/

section Commands
variable {s : State} {p : Fin 4} {k : Copy} {x : Frame}

theorem exec_tunnelUnits_empty (h : s.arrivedAt (320 + p) = none) : exec (.encapUnit p) s = .next s ∧ exec (.decapUnit p) s = .next s ∧
    exec (.espOutbound p) s = .next s ∧ exec (.espInbound p) s = .next s :=
  have hu := fun types act => congrArg Host.Outcome.next (State.tunnelUnit_empty (types := types) (act := act) h)
  ⟨hu _ _, hu _ _, hu _ _, hu _ _⟩

variable (h : s.arrivedAt (320 + p) = some (k, x))
include h

theorem exec_tunnelUnits_discard {n : RegName} {t : State} (hn : s.pickContext x (p / 2) = .inr n)
    (ht : t = ((s.takeArrived k).bump n 0).settleAll) : exec (.encapUnit p) s = .next t ∧ exec (.decapUnit p) s = .next t ∧
    exec (.espOutbound p) s = .next t ∧ exec (.espInbound p) s = .next t :=
  have hu := fun types act => congrArg Host.Outcome.next ((State.tunnelUnit_discard (types := types) (act := act) h hn).trans ht.symm)
  ⟨hu _ _, hu _ _, hu _ _, hu _ _⟩

end Commands

/-- Settles O27: a unit at a tunnel port is State.tunnelUnit of its command's types; its context, its effect and the end of a decryption
follow the branches of State.pickContext, of the type's own function and of State.espInDone. -/
theorem tunnelUnits : Obligations.TunnelUnits := by
  unfold Obligations.TunnelUnits
  refine ⟨fun s p h => exec_tunnelUnits_empty h, fun s p k x n h hn => exec_tunnelUnits_discard h hn rfl, ?pick, ?unit, ?outbound, ?inbound,
    ?result, ?ends⟩
  case pick =>
    refine fun s x die => ⟨State.pickContext_wrongDie, State.pickContext_passLimit, fun hd hp => ?byState⟩
    rw [State.pickContext_byState hd hp]
    exact ⟨fun h => if_pos h, fun h => by rw [h]; rfl, fun h => by rw [h]; rfl, fun h hn => by rw [h, if_pos hn]; rfl⟩
  case unit =>
    rintro s w p k x c _ h hc rfl hw
    refine ⟨fun ht => ⟨?encapBad, ?encapGood⟩, fun ht q body hq hb => ⟨?mismatch, fun inner hi => ⟨?ecn, ?decap⟩⟩,
      fun ht => ⟨?outBad, ?outGood⟩, fun ht q body hq hb => ⟨?keepalive, ?notEsp⟩⟩
    case encapBad => exact fun hx => hw ▸ congrArg Host.Outcome.next (State.tunnelUnit_act h hc ht (State.encapUnit_badTail hx))
    case encapGood =>
      intro out hx ho
      exact congrArg Host.Outcome.next ((State.tunnelUnit_act h hc ht (State.encapUnit_goodTail hx hw ho)).trans (apply_ite State.settleAll _ _ _))
    case mismatch => exact fun hi => congrArg Host.Outcome.next (State.tunnelUnit_act h hc ht (State.decapUnit_mismatch hw hq hb hi))
    case ecn => exact fun he => congrArg Host.Outcome.next (State.tunnelUnit_act h hc ht (State.decapUnit_ecnDrop hw hq hb hi he))
    case decap => exact fun out he => congrArg Host.Outcome.next (State.tunnelUnit_act h hc ht (State.decapUnit_reenters hw hq hb hi he))
    case outBad => exact fun hx => hw ▸ congrArg Host.Outcome.next (State.tunnelUnit_act h hc ht (if_pos hx))
    case outGood => exact fun hx => hw ▸ congrArg Host.Outcome.next (State.tunnelUnit_act h hc ht (if_neg (Bool.eq_false_iff.mp hx)))
    case keepalive => exact fun hk => congrArg Host.Outcome.next (State.tunnelUnit_act h hc ht (State.espIn_keepalive rfl hw hq hb hk))
    case notEsp => exact fun hk ho => congrArg Host.Outcome.next (State.tunnelUnit_act h hc ht (State.espIn_notEsp rfl hw hq hb hk ho))
  case outbound =>
    intro s x c port b q body hb hq hbody
    refine ⟨State.espOut_unsupported hb hq hbody, fun head clear nxt payload h hp hpay hh => ⟨?tooBig, ?exhausted, ?seals⟩⟩
    case tooBig => exact State.espOut_tooBig hb hq hbody hp hpay hh
    case exhausted => exact State.espOut_exhausted hb hq hbody hp hpay hh
    case seals => exact fun w j hm hs hr hw hj => State.espOut_seals hb hq hbody hp hpay hh hm hs hr hw hj
  case inbound =>
    rintro s k x c port b w q body o _ _ stop hb hw hq hbody hk ho rfl rfl h4 h6 hn
    rw [State.espIn_esp hb hw hq hbody hk ho, packetEnd_eq h4 h6 hn]
    refine ⟨fun hm => if_pos hm, ?checked⟩
    rintro hstop hid _ rfl
    rw [if_neg (not_or_intro (Nat.not_lt.mpr hstop) (not_not_intro hid))]
    refine ⟨fun hr => if_pos hr, ?opens⟩
    rintro _ _ hr hx hwin rfl rfl
    rw [inboundSeq, if_neg (Bool.eq_false_iff.mp hr), hx, if_neg (fun h => Bool.false_ne_true h.1), State.markPending, if_pos hwin]
    rfl
  case result =>
    rintro s _ d j r h rfl
    exact congrArg _ (State.inboundEnds_result h)
  case ends =>
    exact fun s w j r hw hb => ⟨State.espInDone_authFail hw hb, fun inner h0 => State.espInDone_dummy hw hb h0,
      fun inner h0 => State.espInDone_ipv4 hw hb h0⟩

end Sys2Proof.Machine
end

section
/-! PROOF. The object interface and the OFL event FIFO (R211 to R213, R222, R224, R225, R232, R233): the fields of a command's word, then each command
by its operands. -/

namespace Sys2Proof.Machine

/-! ## Writes of OFL registers (R232) -/

/-- The write of an OFL register, as its block sees it. -/
theorem State.performWrite_ofl (s : State) (r : Requester) {reg : RegName} (hb : reg.info.block = .OFL) (i : Nat) (value mask : Word) :
    s.performWrite r reg i value mask = s.writeOfl (s.writeSeen reg i value mask) := by
  simp only [State.performWrite, hb]; rfl

/-- The fields of the word of one object command (R232). -/
theorem objCmd_fields (op : Nat) (hop : op < 4) (type : BitVec 2) (i : BitVec 16) (keep : Bool) :
    bits (objCmd op type i keep).toNat 0 2 = op ∧ bits (objCmd op type i keep).toNat 2 2 = type.toNat ∧
    bits (objCmd op type i keep).toNat 8 16 = i.toNat ∧ bit (objCmd op type i keep).toNat 4 = keep := by
  have ht := type.isLt
  have hi := i.isLt
  have hk : keep.toNat < 2 := Bool.toNat_lt keep
  have hw : (objCmd op type i keep).toNat = op + 4 * type.toNat + 16 * keep.toNat + 256 * i.toNat := by
    rw [objCmd, BitVec.toNat_ofNat]; omega
  rw [hw]
  refine ⟨by unfold bits; omega, by unfold bits; omega, by unfold bits; omega, ?_⟩
  have h4 : (op + 4 * type.toNat + 16 * keep.toNat + 256 * i.toNat) / 2 ^ 4 % 2 = keep.toNat := by omega
  rw [bit, h4]
  cases keep <;> rfl

theorem State.performWrite_objCmd (u : State) (r : Requester) {op : Nat} (hop : op < 4) (type : BitVec 2) (i : BitVec 16) (keep : Bool) :
    u.performWrite r .OFL_OBJ_CMD 0 ((objCmd op type i keep).setWidth 64) lowMask = u.objCommand op type.toNat i.toNat keep := by
  obtain ⟨hop', ht, hi, hk⟩ := objCmd_fields op hop type i keep
  have h : u.writeOfl (u.writeSeen .OFL_OBJ_CMD 0 ((objCmd op type i keep).setWidth 64) lowMask) =
      u.objCommand (fieldOf ((objCmd op type i keep).setWidth 64 &&& lowMask) 0 2) (fieldOf ((objCmd op type i keep).setWidth 64 &&& lowMask) 2 2)
        (fieldOf ((objCmd op type i keep).setWidth 64 &&& lowMask) 8 16) (bit ((objCmd op type i keep).setWidth 64 &&& lowMask).toNat 4) := rfl
  rw [u.performWrite_ofl r rfl, h, and_lowMask, fieldOf_setWidth, fieldOf_setWidth, fieldOf_setWidth, toNat_setWidth, hop', ht, hi, hk]

/-! ## The commands of an admitted write -/

section Admitted
variable {s u : State} {r : Requester}

theorem exec_oflEventPop_of (h : s.admitWrite r .OFL_EVENT_POP 0 = (true, u)) : exec (.oflEventPop r) s = .next u.oflPop := by
  have hpop : u.performWrite r .OFL_EVENT_POP 0 ((1 : BitVec 32).setWidth 64) lowMask = u.oflPop :=
    (u.performWrite_ofl r rfl _ _ _).trans (if_pos (show bit ((1 : BitVec 32).setWidth 64 &&& lowMask).toNat 0 = true by decide))
  exact congrArg _ ((State.directWrite_undomained h rfl _ _).trans hpop)

variable (h : s.admitWrite r .OFL_OBJ_CMD 0 = (true, u)) {type : BitVec 2} {i : BitVec 16}
include h

theorem State.objWord_of {op : Nat} (hop : op < 4) (keep : Bool) :
    s.write32 r .OFL_OBJ_CMD 0 (objCmd op type i keep) = u.objCommand op type.toNat i.toNat keep :=
  (State.directWrite_undomained h rfl _ _).trans (u.performWrite_objCmd r hop type i keep)

/-- A READ ends with the status and the state of State.objRead. -/
theorem exec_objectRead_of {n : Nat} {t : State} (hr : u.objRead type.toNat i.toNat = (n, t)) : exec (.objectRead r type i) s = .next (t.objStatus n) :=
  congrArg _ ((State.objWord_of (op := 0) h (by decide) false).trans (congrArg finishObj hr))

theorem exec_objectWrite_of {keep : Bool} {n : Nat} {t : State} (hw : u.objWrite type.toNat i.toNat keep = (n, t)) :
    exec (.objectWrite r type i keep) s = .next (t.objStatus n) :=
  congrArg _ ((State.objWord_of (op := 1) h (by decide) keep).trans (congrArg finishObj hw))

theorem exec_roll_of {n : Nat} {t : State} (hr : u.objRoll type.toNat i.toNat = (n, t)) : exec (.roll r type i) s = .next (t.objStatus n) :=
  congrArg _ ((State.objWord_of (op := 2) h (by decide) false).trans (congrArg finishObj hr))

end Admitted

/-! ## READ and WRITE (R213, R224, R225) -/

section Objects
variable {u : State} {i : Nat} {keep : Bool}

theorem State.objRead_conn (hi : i ≤ 8191) : u.objRead 1 i = (0, u.setObjData (u.conn i) 32) := if_neg (Nat.not_lt.mpr hi)

theorem State.objRead_conn_beyond (hi : 8191 < i) : u.objRead 1 i = (0x01, u) := if_pos hi

theorem State.objWrite_tun_malformed (h : tunMalformed i u.objData = true) : u.objWrite 0 i keep = (0x01, u) := if_pos h

/-- A WRITE of a tunnel context stores the staged bytes, with SEQ and the window kept or started anew. -/
theorem State.objWrite_tun (h : tunMalformed i u.objData = false) {o : List Byte}
    (ho : o = splice (tunClean u.objData) 84 (toLE 1 (if tType u.objData = 0 then 0 else 1))) : u.objWrite 0 i keep =
      (0, if keep = true then u.setTun i (splice o 64 (slice (u.tun i) 64 8)) else (u.setTun i o).setReplay i {}) := by
  subst ho
  refine (if_neg (Bool.eq_false_iff.mp h)).trans ?_
  exact (apply_ite (Prod.mk 0) _ _ _).symm

theorem State.objWrite_conn_malformed (h : connMalformed i u.objData = true) : u.objWrite 1 i keep = (0x01, u) := if_pos h

theorem State.objWrite_conn (h : connMalformed i u.objData = false) : u.objWrite 1 i keep = (0, u.takeOver i (connClean u.objData)) :=
  if_neg (Bool.eq_false_iff.mp h)

theorem State.objWrite_space_malformed (h : u.spaceMalformed i (u.objData.take 32) = true) : u.objWrite 2 i keep = (0x01, u) := if_pos h

theorem State.objWrite_space (h : u.spaceMalformed i (u.objData.take 32) = false) :
    u.objWrite 2 i keep = (0, u.setSpace i (spaceClean (u.objData.take 32))) := if_neg (Bool.eq_false_iff.mp h)

/-! ## ROLL (R222) -/

theorem State.roll_done (h : u.rollable i = true) (hard : Bool) :
    u.roll i hard = (true, ((u.setTunState i 2).bump .OFL_ROLLS 0).oflEvent 1 i 0) := if_pos h

theorem State.roll_impossible (h : u.rollable i = false) : u.roll i false = (false, u.oflEvent 2 i 0) := if_neg (Bool.eq_false_iff.mp h)

theorem State.objRoll_unsupported {type : Nat} (h : type ≠ 0 ∨ espOutType (tType (u.tun i)) = false) : u.objRoll type i = (0x0D, u) :=
  if_neg (fun ⟨ht, hu⟩ => h.elim (· ht) (fun hf => Bool.false_ne_true (hf.symm.trans hu)))

theorem State.objRoll_outbound (h : espOutType (tType (u.tun i)) = true) :
    u.objRoll 0 i = (if (u.roll i false).1 then 0 else 0xB0, (u.roll i false).2) := if_pos ⟨rfl, h⟩

end Objects

/-- Settles O29: an admitted command is State.objRead, State.objWrite or State.objRoll of its operands, whose branches give status and state. -/
theorem objectsAndEvents : Obligations.ObjectsAndEvents := by
  unfold Obligations.ObjectsAndEvents
  refine ⟨?read, ?write, ?notOutbound, ?outbound, fun s u r h => exec_oflEventPop_of h⟩
  case read =>
    intro s u r type i h
    refine ⟨?tun, ?conn, ?beyond, ?space, ?none⟩
    case tun => rintro rfl; exact exec_objectRead_of h rfl
    case conn => rintro rfl hi; exact exec_objectRead_of h (State.objRead_conn hi)
    case beyond => rintro rfl hi; exact exec_objectRead_of h (State.objRead_conn_beyond hi)
    case space => rintro rfl; exact exec_objectRead_of h rfl
    case none => rintro rfl; exact exec_objectRead_of h rfl
  case write =>
    rintro s u r i keep _ h rfl
    exact ⟨fun hm => exec_objectWrite_of h (State.objWrite_tun_malformed hm), fun o hm ho => exec_objectWrite_of h (State.objWrite_tun hm ho),
      fun hm => exec_objectWrite_of h (State.objWrite_conn_malformed hm), fun hm => exec_objectWrite_of h (State.objWrite_conn hm),
      fun hm => exec_objectWrite_of h (State.objWrite_space_malformed hm), fun hm => exec_objectWrite_of h (State.objWrite_space hm),
      exec_objectWrite_of h rfl⟩
  case notOutbound =>
    intro s u r type i h ht
    exact exec_roll_of h (State.objRoll_unsupported (ht.imp_left (fun hne h0 => hne (BitVec.eq_of_toNat_eq h0))))
  case outbound =>
    intro s u r i h ho
    have hroll := State.objRoll_outbound ho
    refine ⟨fun hr => ?rolls, fun hr => ?refuses⟩
    case rolls =>
      rw [State.roll_done hr] at hroll
      exact exec_roll_of h hroll
    case refuses =>
      rw [State.roll_impossible hr] at hroll
      exact exec_roll_of h hroll

end Sys2Proof.Machine
end

section
/-! PROOF. Storage connections (R209, R224, R229, R232): the frames a connection takes, its failure and its timers. -/

namespace Sys2Proof.Machine

/-! ## The head frame of a storage port (R209) -/

section Frame
variable {s : State} {d conn : Nat} {f : StorageFrame}

theorem State.storageFrame_empty (h : s.arrivedAt (332 + d) = none) : s.storageFrame d conn f = s := by
  simp only [State.storageFrame, h]

/-- The discards of a frame for a connection, in order (R209, R224). -/
theorem State.storageFrame_arrived {k : Copy} {x : Frame} (h : s.arrivedAt (332 + d) = some (k, x)) : s.storageFrame d conn f =
    if 8191 < x.engineCtx then (s.takeArrived k).bump .OFL_BAD_TARGET 0
    else if x.engineCtx / 4096 ≠ d then (s.takeArrived k).bump .OFL_WRONG_DIE 0
    else if s.fld Fld.OFL_CTRL_MAX_PASSES 0 < x.reentries + 1 then (s.takeArrived k).bump .OFL_PASS_LIMIT 0
    else if x.engineCtx ≠ conn then s
    else if x.bad then s.takeArrived k
    else ((s.takeArrived k).stEvent d conn f).settleAll := by
  simp only [State.storageFrame, h]

end Frame

/-! ## A frame at its connection (R224) -/

section Conn
variable {s : State} {conn : Nat}

theorem State.stEvent_notReady (h : connReady (s.conn conn) = false) (die : Nat) (f : StorageFrame) :
    s.stEvent die conn f = s.bump .OFL_CONN_NOT_READY 0 :=
  if_pos (by rw [h]; rfl)

/-- A RoCEv2 packet whose ICRC does not agree is dropped. -/
theorem State.stEvent_damaged (h : connReady (s.conn conn) = true) (ht : connTransport (s.conn conn) = 1) (die : Nat) {f : StorageFrame}
    (hf : f.intact = false) : s.stEvent die conn f = s :=
  (if_neg (by rw [h]; exact Bool.false_ne_true)).trans (if_pos ⟨ht, by rw [hf]; rfl⟩)

theorem State.connFail_notReady (h : connReady (s.conn conn) = false) (cause : Nat) : s.connFail conn cause = s := by
  simp only [State.connFail, h, Bool.not_false, if_true]

/-- A connection without a command only changes its own state. -/
theorem State.connFail_idle {w : State} {cause : Nat} (h : connReady (s.conn conn) = true)
    (hw : w = ((s.setConn conn (splice (s.conn conn) 84 (toLE 1 2))).oflEvent 4 conn cause).setConnRun conn {})
    (hc : w.sto.cmds.filter (fun x => x.conn == conn) = []) : s.connFail conn cause = w := by
  subst hw
  simp only [State.connFail, h, Bool.not_true, if_neg Bool.false_ne_true, hc, List.foldl_nil]

/-! ## Timers (R229, R232) -/

theorem State.storageTimeout_command {id : Nat} {c : StCmd} (h : s.cmd? id = some c) : s.storageTimeout (.command id) =
    if c.phase = .sent ∧ c.answer = none ∧ c.sentAt + s.answerTime c.conn ≤ s.elapsed then (s.connFail c.conn 2).settleAll else s := by
  simp only [State.storageTimeout, h, Bool.and_eq_true, beq_iff_eq, Option.isNone_iff_eq_none, decide_eq_true_eq, and_assoc]

theorem State.storageTimeout_keepAlive {conn : BitVec 13} (ha : (s.connRun conn.toNat).alive = true)
    (h : (s.connRun conn.toNat).keptAt + s.answerTime conn.toNat ≤ s.elapsed) :
    s.storageTimeout (.keepAlive conn) = (s.connFail conn.toNat 2).settleAll := by
  simp only [State.storageTimeout, ha, decide_eq_true h, Bool.and_self, if_true]

theorem State.keepAlive_due {w : State} (h : connReady (s.conn conn) = true) (hm : leAt (s.conn conn) 80 2 ≠ 0)
    (ht : (s.connRun conn).keptAt + 1000000 * leAt (s.conn conn) 80 2 ≤ s.elapsed) (hw : w = s.stFrame (conn / 4096) conn 4 0 0 []) :
    s.keepAlive conn = w.setConnRun conn { w.connRun conn with alive := true, keptAt := s.elapsed } := by
  subst hw
  exact if_pos (by rw [h, bne_iff_ne.mpr hm, decide_eq_true ht]; rfl)

theorem State.keepAlive_off (h : connReady (s.conn conn) = false ∨ leAt (s.conn conn) 80 2 = 0) : s.keepAlive conn = s :=
  if_neg (by rcases h with h | h <;> simp [h])

theorem State.retransmit_acked (h : (s.connRun conn).unacked = []) : s.retransmit conn = s := if_pos (by rw [h]; rfl)

theorem State.retransmit_unacked (h : (s.connRun conn).unacked ≠ []) : s.retransmit conn = (s.stResend (conn / 4096) conn none).settleAll :=
  if_neg (by rwa [List.isEmpty_iff])

end Conn

/-- Settles O30: each clause is a branch of State.storageFrame, State.stEvent, State.connFail or of a timer of the connection. -/
theorem storageConnections : Obligations.StorageConnections := by
  unfold Obligations.StorageConnections
  refine ⟨fun s d conn f h => congrArg _ (State.storageFrame_empty h), ?frame, fun s die conn f h => State.stEvent_notReady h die f,
    fun s die conn f h ht hf => State.stEvent_damaged h ht die hf, ?late, ?answered, fun s conn ha h => congrArg _ (State.storageTimeout_keepAlive ha h),
    fun s conn cause h => State.connFail_notReady h cause, fun s w conn cause h hw hc => State.connFail_idle h hw hc,
    fun s w conn h hm ht hw => congrArg _ (State.keepAlive_due h hm ht hw), fun s conn h => congrArg _ (State.keepAlive_off h),
    fun s conn h => congrArg _ (State.retransmit_acked h), ?unacked⟩
  case frame =>
    rintro s d conn f k x _ h rfl
    have hf := State.storageFrame_arrived (conn := conn.toNat) (f := f) h
    refine ⟨fun hc => congrArg _ (hf.trans (if_pos hc)), fun hc hd => congrArg _ (hf.trans ?wrongDie),
      fun hc hd hp => congrArg _ (hf.trans ?passLimit), fun hconn hd hp => ?mine⟩
    case wrongDie => rw [if_neg (Nat.not_lt.mpr hc), if_pos hd]
    case passLimit => rw [if_neg (Nat.not_lt.mpr hc), if_neg (not_not_intro hd), if_pos hp]
    case mine =>
      have hc : ¬8191 < x.engineCtx := by have := conn.isLt; omega
      rw [if_neg hc, if_neg (not_not_intro hd), if_neg (Nat.not_lt.mpr hp), if_neg (not_not_intro hconn)] at hf
      refine ⟨fun hx => congrArg _ (hf.trans (if_pos hx)), ?event⟩
      rintro _ hx rfl
      exact congrArg _ (hf.trans (if_neg (Bool.eq_false_iff.mp hx)))
  case late =>
    intro s id c hc hp ha ht
    exact congrArg _ ((State.storageTimeout_command hc).trans (if_pos ⟨hp, ha, ht⟩))
  case answered =>
    intro s id c hc h
    refine congrArg _ ((State.storageTimeout_command hc).trans (if_neg ?_))
    rintro ⟨-, ha, ht⟩
    rcases h with hs | hlt
    · rw [ha] at hs
      cases hs
    · exact Nat.not_lt.mpr ht hlt
  case unacked =>
    rintro s conn _ _ rfl rfl hu
    have hr := State.retransmit_unacked hu
    exact ⟨fun h => congrArg _ (hr.trans (congrArg State.settleAll (if_pos h))),
      fun h => congrArg _ (hr.trans (congrArg State.settleAll (if_neg (Nat.not_lt.mpr h))))⟩

end Sys2Proof.Machine
end

section
/-! PROOF. Cipher requests (R234 to R249, R257): how a request is queued and dispatched, the checks it meets, what a finished unit leaves, and
how a cold context becomes hot. -/

namespace Sys2Proof.Machine

/-! ## Submission (R236, R239) -/

section Submission
variable {s : State} {q : CipherReq}

theorem State.submitCipher_queues (hn : s.cph.queue.length < 65536) (hh : s.cph.held = []) : s.submitCipher q = s.queueCipher q :=
  if_pos (by rw [hh, decide_eq_true hn]; rfl)

theorem State.submitCipher_waits (hn : 65536 ≤ s.cph.queue.length) :
    s.submitCipher q = { s with cph := { s.cph with held := s.cph.held ++ [q] } } :=
  if_neg (by rw [decide_eq_false (Nat.not_lt.mpr hn)]; exact Bool.false_ne_true)

/-- Whether its context joins the round or is in it, a request takes the last place of the queue. -/
theorem State.queueCipher_queue (s : State) (q : CipherReq) : (s.queueCipher q).cph.queue = s.cph.queue ++ [q] := by
  unfold State.queueCipher
  dsimp only
  split <;> rfl

theorem State.cipherSubmitted_whole {request : List Byte} (h : request.length = 64) (r : CipherRequester) (input : List Byte) :
    s.cipherSubmitted r request input = (s.submitCipher { requester := r, raw := request, input := input }).settleAll := if_pos h

end Submission

/-! ## Dispatch (R234, R241, R257) -/

section Dispatch
variable {s : State} {e c n : Nat} {q : CipherReq}

/-- With no engine in the pool the oldest request completes with CURTAIN. -/
theorem State.dispatch_noPool (hp : s.anyInService = false) {rest : List CipherReq} (hq : s.cph.queue = q :: rest) :
    s.dispatch e = ((s.takeNext q.ctx).refuseCipher q 0x0B).tidyRound := by
  simp only [State.dispatch, hp, Bool.not_false, if_true, hq]

section Pool
variable (hp : s.anyInService = true)
include hp

theorem State.dispatch_outOfService (hs : (s.engine e).state ≠ .IN_SERVICE) : s.dispatch e = s := by
  simp only [State.dispatch, hp, Bool.not_true, if_neg Bool.false_ne_true, if_pos hs]

variable (hs : (s.engine e).state = .IN_SERVICE)
include hs

theorem State.dispatch_groupOff (hd : s.domainOn (groupOf e) = false) :
    s.dispatch e = if s.wakesGroup e = true then s.touchDomain (groupOf e) else s := by
  simp only [State.dispatch, hp, Bool.not_true, if_neg Bool.false_ne_true, if_neg (not_not_intro hs), hd, Bool.not_false, if_true]

/-- A free engine on the submitter's die takes the request of the first context of the round that is ready. -/
theorem State.dispatch_free (hd : s.domainOn (groupOf e) = true) (hw : (s.engine e).work = .idle)
    (hr : s.cph.round.find? (fun y => s.ready y.1) = some (c, n)) (hq : s.nextOf c = some q) (hdie : q.die = e / 18) :
    s.dispatch e = s.runNext e c 0 := by
  have hprefer : ¬(q.die ≠ e / 18 ∧ (List.range 18).any (fun i => s.engineFree (18 * q.die + i)) = true) := fun h => h.1 hdie
  simp only [State.dispatch, hp, Bool.not_true, if_neg Bool.false_ne_true, if_neg (not_not_intro hs), hd, hw, hr, hq, if_neg hprefer]

end Pool

/-- The first unit of a request that a check of R238 fails. -/
theorem State.runNext_fails {st : Nat} {k : KeyCtx} (hq : s.nextOf c = some q) (hu : q.units = 0) (hc : s.checkRequest q = .fail st k false) :
    s.runNext e c n = (((s.takeNext c).setKeyCtx c k).refuseCipher q st).tidyRound := by
  simp only [State.runNext, hq, hu, Nat.lt_irrefl, if_false, hc, if_neg Bool.false_ne_true]

/-- The first unit of a request that passes them without a succession. -/
theorem State.runNext_starts {r : CipherReq} {k : KeyCtx} (hq : s.nextOf c = some q) (hu : q.units = 0)
    (hc : s.checkRequest q = .start r k false) :
    s.runNext e c n = (((s.takeNext c).setKeyCtx c k).touchHot c).setEngine e { s.engine e with work := .unit c n r.nextUnit r } := by
  simp only [State.runNext, hq, hu, Nat.lt_irrefl, if_false, hc, if_neg Bool.false_ne_true]

theorem exec_cipherDispatch_of {s t : State} {e : Fin 36} (h : s.dispatch e = t) : exec (.cipherDispatch e) s = .next t.settleAll :=
  congrArg (fun u : State => Host.Outcome.next u.settleAll) h

end Dispatch

/-! ## The checks of R238 -/

section Checks
variable {s : State} {q : CipherReq}

theorem State.checkRequest_noOperation (h : q.op = 0 ∨ 5 ≤ q.op) : s.checkRequest q = .fail 0x01 (s.keyCtx q.ctx) false :=
  if_pos (h.imp_right .inl)

/-- Check 9 of a seal below its limit that no checkpoint holds back (R249, R254). -/
theorem limitCheck_seal {k : KeyCtx} (hop : q.op = 1) (hs : k.state ≠ .EXHAUSTED) (ha : k.alg < 3) (hl : k.used < k.limit)
    (hp : k.persist = false) : limitCheck q k = startRequest q k false := by
  have henc : q.isEnc = true := by unfold CipherReq.isEnc; rw [hop]; rfl
  have hlimit : k.atLimit q.payloadLen = false := by
    unfold KeyCtx.atLimit; rw [decide_eq_false (Nat.not_le.mpr hl), decide_eq_false (Nat.not_le.mpr ha)]; rfl
  have hwait : k.mustWait q = false := by unfold KeyCtx.mustWait; rw [hp]; rfl
  simp only [limitCheck, henc, Bool.not_true, if_neg Bool.false_ne_true, if_neg hs, hlimit, hwait]

/-- The checks after the first, of a seal whose fields and reserved bytes are in range. -/
theorem State.checkRequest_seal (hop : q.op = 1) (hflags : leAt q.raw 1 1 = 0) (hctx : leAt q.raw 8 4 < 262144) (hslc : leAt q.raw 12 2 < 4096)
    (hend : leAt q.raw 56 8 = 0) (hiv : leAt q.raw 24 8 = 0) : s.checkRequest q =
      if q.gen ≠ s.sliceGen q.slc then .fail 0xC4 (s.keyCtx q.ctx) false
      else if (s.keyCtx q.ctx).state = .EMPTY then .fail 0xC0 (s.keyCtx q.ctx) false
      else if (s.keyCtx q.ctx).state = .LOCKED then .fail 0x0B (s.keyCtx q.ctx) false
      else if q.slc ≠ 0 ∧ q.slc ≠ (s.keyCtx q.ctx).owner then .fail 0xC2 (s.keyCtx q.ctx) false
      else if ¬(s.keyCtx q.ctx).alg < 3 then .fail 0xC3 (s.keyCtx q.ctx) false
      else if 16777216 < q.payloadLen ∨ 4096 < q.aadLen then .fail 0x02 (s.keyCtx q.ctx) false
      else limitCheck q (s.keyCtx q.ctx) := by
  have hgcm : q.isGcm = true := by unfold CipherReq.isGcm; rw [hop]; rfl
  have hform : ¬(q.op = 0 ∨ 5 ≤ q.op ∨ 1 < leAt q.raw 1 1 ∨ leAt q.raw 8 4 ≥ 262144 ∨ leAt q.raw 12 2 ≥ 4096 ∨
      leAt q.raw 56 8 ≠ 0 ∨ (q.isGcm = true ∧ leAt q.raw 24 8 ≠ 0)) := by omega
  have hopen : ¬(q.op = 2 ∧ q.epochField ≠ (s.keyCtx q.ctx).epoch.toNat ∧
      ¬((s.keyCtx q.ctx).prev.isSome = true ∧ (q.epochField + 1) % 256 = (s.keyCtx q.ctx).epoch.toNat)) := by omega
  unfold State.checkRequest
  dsimp only
  rw [if_neg hform, if_neg hopen, hgcm]
  simp only [ne_eq, eq_comm (a := true), decide_eq_true_eq, true_and, not_true_eq_false, false_and, or_false]

end Checks

/-! ## Units done (R240, R244) -/

section Units
variable {s w : State} {e c tb ub : Nat} {q : CipherReq}

theorem State.unitDone_idle (h : (s.engine e).work = .idle) : s.unitDone e = s := by
  simp only [State.unitDone, h]

section Unit
variable (h : (s.engine e).work = .unit c tb ub q) (hw : w = s.setEngine e { s.engine e with work := .turn c (tb + ub) })
include h hw

/-- The output of a tunnel engine's message stays in staging: the next unit alone is queued. -/
theorem State.unitDone_next {d : Fin 2} (hu : q.process.units < q.process.unitCount) (hr : q.process.requester = .tunnel d) :
    s.unitDone e = { w with cph := { w.cph with queue := q.process :: w.cph.queue } } := by
  subst hw
  simp only [State.unitDone, h, if_pos hu, State.passOutput, hr]

theorem State.unitDone_last (hu : q.process.unitCount ≤ q.process.units) : s.unitDone e = w.finishRequest q.process := by
  subst hw
  simp only [State.unitDone, h, if_neg (Nat.not_lt.mpr hu)]

end Unit

theorem exec_cipherUnitDone_of {s t : State} {e : Fin 36} (h : s.unitDone e = t) : exec (.cipherUnitDone e) s = .next t.settleAll :=
  congrArg (fun u : State => Host.Outcome.next u.settleAll) h

theorem State.finishRequest_seal (hop : q.op = 1) :
    s.finishRequest q = s.completeCipher q 0 q.epoch (q.payloadLen + 16) q.inv (q.out ++ q.tag) := by
  simp only [State.finishRequest, hop]

/-- An open compares the tag computed with the one that follows the payload. -/
theorem State.finishRequest_open (hop : q.op = 2) : s.finishRequest q =
    if q.tag = slice q.input (q.aadLen + q.payloadLen) 16 then s.completeCipher q 0 q.epoch q.payloadLen 0 q.out
    else (s.completeCipher q 0x05 q.epoch q.payloadLen 0 (s.freeBytes q.payloadLen)).drewN q.payloadLen := by
  simp only [State.finishRequest, hop]

end Units

/-! ## Residency (R247) -/

section Residency
variable {s : State} {c : Nat} {read : Option (List Byte)}

/-- Nothing is loaded for a hot context, one without a key in force, or one without a request. -/
theorem State.contextLoad_none (h : s.isHot c = true ∨ (s.keyCtx c).state = .EMPTY ∨ (s.keyCtx c).state = .LOCKED ∨ s.nextOf c = none) :
    s.contextLoad c read = s :=
  if_pos (by simpa only [Bool.or_eq_true, beq_iff_eq, Option.isNone_iff_eq_none, or_assoc] using h)

theorem State.freeSlot_spare (h : s.cph.hot.length < 16384) : s.freeSlot = some s := if_pos h

variable (hc : s.isHot c = false) (hs : (s.keyCtx c).state = .ACTIVE) (hq : (s.nextOf c).isSome = true)
include hc hs hq

/-- The load of a cold ACTIVE context with a request waiting goes on. -/
theorem State.contextLoad_needed :
    ¬(s.isHot c || (s.keyCtx c).state == .EMPTY || (s.keyCtx c).state == .LOCKED || (s.nextOf c).isNone) = true := by
  rw [hc, hs, ← Option.not_isSome, hq]
  exact Bool.false_ne_true

theorem State.contextLoad_asleep (ha : s.pairsAwake s.coldPlace = false) : s.contextLoad c read = s.touchPairs s.coldPlace := by
  simp only [State.contextLoad, if_neg (State.contextLoad_needed hc hs hq), ha, Bool.not_false, if_true]

variable (ha : s.pairsAwake s.coldPlace = true)
include ha

theorem State.contextLoad_loads (hu : s.unwraps c read = true) (hn : s.cph.hot.length < 16384) :
    s.contextLoad c read = State.bump { s with cph := { s.cph with hot := s.cph.hot ++ [c] } } .CPH_CTX_LOADS 0 := by
  simp only [State.contextLoad, if_neg (State.contextLoad_needed hc hs hq), ha, Bool.not_true, if_neg Bool.false_ne_true, hu, if_true,
    State.freeSlot_spare hn]

theorem State.contextLoad_damaged (hu : s.unwraps c read = false) : s.contextLoad c read = s.contained .none 0 (some (.key, c)) := by
  simp only [State.contextLoad, if_neg (State.contextLoad_needed hc hs hq), ha, Bool.not_true, if_neg Bool.false_ne_true, hu]

end Residency

/-- Settles O31: each clause is a branch of a command's operation, or of the checks of R238. -/
theorem cipherRequests : Obligations.CipherRequests := by
  unfold Obligations.CipherRequests
  refine ⟨?submit, ?wait, State.queueCipher_queue, fun s e q rest hp hq => exec_cipherDispatch_of (State.dispatch_noPool hp hq),
    fun s e hp hs => exec_cipherDispatch_of (State.dispatch_outOfService hp hs),
    fun s e hp hs hd => exec_cipherDispatch_of (State.dispatch_groupOff hp hs hd),
    fun s e c n q hp hs hd hw hr hq hdie => exec_cipherDispatch_of (State.dispatch_free hp hs hd hw hr hq hdie),
    fun s e c n q hq hu => ⟨fun st k => State.runNext_fails hq hu, fun r k => State.runNext_starts hq hu⟩,
    fun s q => State.checkRequest_noOperation, ?checks, ?unit, fun s e h => exec_cipherUnitDone_of (State.unitDone_idle h),
    fun s q => State.finishRequest_seal, fun s q hop => ⟨fun ht => ?opens, fun ht => ?authFail⟩,
    fun s c b h => congrArg _ (State.contextLoad_none h), ?load, fun s e => rfl⟩
  case submit =>
    intro s q request input hl hn hh
    exact congrArg _ ((State.cipherSubmitted_whole hl q input).trans (congrArg _ (State.submitCipher_queues hn hh)))
  case wait =>
    intro s q request input hl hn
    exact congrArg _ ((State.cipherSubmitted_whole hl q input).trans (congrArg _ (State.submitCipher_waits hn)))
  case checks =>
    intro s q hop hflags hctx hslc hend hiv
    rw [State.checkRequest_seal hop hflags hctx hslc hend hiv]
    refine ⟨fun hg => if_pos hg, fun hg hs => ?empty, fun hg hs => ?locked, fun hg hs ho ha hp hd hl hk => ?passes⟩
    case empty => rw [if_neg (not_not_intro hg), if_pos hs]
    case locked => rw [if_neg (not_not_intro hg), hs]; rfl
    case passes =>
      have howner : ¬(q.slc ≠ 0 ∧ q.slc ≠ (s.keyCtx q.ctx).owner) := by omega
      have hlength : ¬(16777216 < q.payloadLen ∨ 4096 < q.aadLen) := by omega
      have hexhausted : (s.keyCtx q.ctx).state ≠ .EXHAUSTED := by rw [hs]; decide
      rw [if_neg (not_not_intro hg), if_neg (by rw [hs]; decide), if_neg (by rw [hs]; decide), if_neg howner, if_neg (not_not_intro ha),
        if_neg hlength]
      exact limitCheck_seal hop hexhausted ha hl hk
  case unit =>
    intro s w e c tb ub q h hw
    exact ⟨fun d hu hr => exec_cipherUnitDone_of (State.unitDone_next h hw hu hr), fun hu => exec_cipherUnitDone_of (State.unitDone_last h hw hu)⟩
  case opens => exact (State.finishRequest_open hop).trans (if_pos ht)
  case authFail => exact (State.finishRequest_open hop).trans (if_neg ht)
  case load =>
    intro s c b hc hs hq
    refine ⟨fun ha => congrArg _ (State.contextLoad_asleep hc hs hq ha), ?_, fun ha hu => congrArg _ (State.contextLoad_damaged hc hs hq ha hu)⟩
    rintro ha rfl hn
    exact congrArg _ (State.contextLoad_loads hc hs hq ha rfl hn)

end Sys2Proof.Machine
end

section
/-! PROOF. The command, the limits and the checkpoints of a key context (R246 to R254): the context registers act on the context the requester
selects. -/

namespace Sys2Proof.Machine

/-! ## Writes of CPH registers (R257) -/

/-- The write of a CPH register, as its block sees it. -/
theorem State.performWrite_cph (s : State) (r : Requester) {reg : RegName} (hb : reg.info.block = .CPH) (i : Nat) (value mask : Word) :
    s.performWrite r reg i value mask = s.writeCph r (s.writeSeen reg i value mask) := by
  simp only [State.performWrite, hb]; rfl

/-- A write of every bit of a value leaves nothing of the old one. -/
theorem and_not_wholeMask_or (old : Nat) (v : Word) : (old &&& (wholeMask.toNat ^^^ (2 ^ 64 - 1))) ||| (v &&& wholeMask).toNat = v.toNat := by
  rw [show wholeMask.toNat ^^^ (2 ^ 64 - 1) = 0 by decide, Nat.and_zero, Nat.zero_or, and_wholeMask]

section Admitted
variable {s u : State} {r : Requester}

theorem State.ctxWord_of (h : s.admitWrite r .CPH_CTX_CMD 0 = (true, u)) (v : BitVec 32) :
    s.write32 r .CPH_CTX_CMD 0 v = u.ctxCommand (u.contextSel r) (bits v.toNat 0 2) := by
  have hw : u.writeCph r (u.writeSeen .CPH_CTX_CMD 0 (v.setWidth 64) lowMask) =
      u.ctxCommand (u.contextSel r) (fieldOf (v.setWidth 64 &&& lowMask) 0 2) := rfl
  rw [and_lowMask, fieldOf_setWidth] at hw
  exact (State.directWrite_undomained h rfl _ _).trans ((u.performWrite_cph r rfl _ _ _).trans hw)

theorem exec_lockContext_of (h : s.admitWrite r .CPH_CTX_CMD 0 = (true, u)) : exec (.lockContext r) s = .next (u.ctxCommand (u.contextSel r) 1) :=
  congrArg _ (State.ctxWord_of h 1)

theorem exec_dropPrevious_of (h : s.admitWrite r .CPH_CTX_CMD 0 = (true, u)) :
    exec (.dropPrevious r) s = .next (u.ctxCommand (u.contextSel r) 2) :=
  congrArg _ (State.ctxWord_of h 2)

theorem exec_useLimit_of (h : s.admitWrite r .CPH_CTX_LIMIT 0 = (true, u)) (v : Word) :
    exec (.ctxLimitWrite r .uses v) s = .next (u.limitWrite r (u.contextSel r) .uses (v.toNat % 2 ^ 49)) := by
  rw [← and_not_wholeMask_or (u.keyCtx (u.contextSel r)).limit v]
  exact congrArg _ ((State.directWrite_undomained h rfl _ _).trans (u.performWrite_cph r rfl _ _ _))

theorem exec_byteLimit_of (h : s.admitWrite r .CPH_CTX_BYTE_LIMIT 0 = (true, u)) (v : Word) :
    exec (.ctxLimitWrite r .bytes v) s = .next (u.limitWrite r (u.contextSel r) .bytes (v.toNat % 2 ^ 51)) := by
  rw [← and_not_wholeMask_or (u.keyCtx (u.contextSel r)).byteLimit v]
  exact congrArg _ ((State.directWrite_undomained h rfl _ _).trans (u.performWrite_cph r rfl _ _ _))

end Admitted

/-! ## LOCK and DROP_PREVIOUS (R248, R252) -/

section Command
variable {s : State} {c : Nat}

theorem State.ctxCommand_empty (h : (s.keyCtx c).state = .EMPTY) (op : Nat) : s.ctxCommand c op = s := if_pos (beq_iff_eq.mpr h)

theorem State.ctxCommand_lock (h : (s.keyCtx c).state ≠ .EMPTY) : s.ctxCommand c 1 = (s.lockOwn c).settleAll :=
  if_neg (mt beq_iff_eq.mp h)

theorem State.ctxCommand_dropPrevious (h : (s.keyCtx c).state ≠ .EMPTY) :
    s.ctxCommand c 2 = (s.setKeyCtx c { s.keyCtx c with prev := none }).writeCold c :=
  if_neg (mt beq_iff_eq.mp h)

end Command

/-! ## Limits (R249, R252) -/

section Limits
variable {s : State} {c v : Nat}

theorem State.useLimit_outOfRange (h : v = 0 ∨ 2 ^ 48 < v) (r : Requester) : s.limitWrite r c .uses v = s :=
  if_pos (by simpa using h)

theorem State.byteLimit_ignored (h : v = 0 ∨ 2 ^ 50 < v ∨ (s.keyCtx c).alg < 3) (r : Requester) : s.limitWrite r c .bytes v = s :=
  if_pos (by simpa [or_assoc] using h)

/-- Any requester lowers a limit. -/
theorem State.useLimit_lowers (h0 : 1 ≤ v) (hv : v < (s.keyCtx c).limit) (hn : v ≤ 2 ^ 48) (r : Requester) :
    s.limitWrite r c .uses v = s.setKeyCtx c { s.keyCtx c with limit := v } := by
  have hrange : ¬(v = 0 ∨ 2 ^ 48 < v) := by omega
  unfold State.limitWrite
  dsimp only
  rw [if_neg (by simpa using hrange), if_pos (by simp [hv]), if_neg (Nat.not_lt.mpr hv.le)]

theorem State.byteLimit_lowers (h0 : 1 ≤ v) (hv : v < (s.keyCtx c).byteLimit) (hn : v ≤ 2 ^ 50) (ha : 3 ≤ (s.keyCtx c).alg) (r : Requester) :
    s.limitWrite r c .bytes v = s.setKeyCtx c { s.keyCtx c with byteLimit := v } := by
  have hrange : ¬((v = 0 ∨ 2 ^ 50 < v) ∨ (s.keyCtx c).alg < 3) := by omega
  unfold State.limitWrite
  dsimp only
  rw [if_neg (by simpa using hrange), if_pos (by simp [hv]), if_neg (Nat.not_lt.mpr hv.le)]

/-- A vault raises one, and an EXHAUSTED context may serve again. -/
theorem State.useLimit_raisedByVault (hv : (s.keyCtx c).limit < v) (hn : v ≤ 2 ^ 48) (x : Fin 2) :
    s.limitWrite (.vault x) c .uses v = s.setKeyCtx c (KeyCtx.revive { s.keyCtx c with limit := v }) := by
  have hrange : ¬(v = 0 ∨ 2 ^ 48 < v) := by omega
  unfold State.limitWrite
  dsimp only
  rw [if_neg (by simpa using hrange), Bool.true_or, if_pos rfl, if_pos hv]

theorem State.useLimit_refused (h0 : 1 ≤ v) (hv : (s.keyCtx c).limit ≤ v) (hn : v ≤ 2 ^ 48) (x : Fin 2) (y : Fin 4) :
    s.limitWrite (.cpc x y) c .uses v = s.setFld Fld.CPH_STATUS_LIMIT_REFUSED 0 1 := by
  have hrange : ¬(v = 0 ∨ 2 ^ 48 < v) := by omega
  unfold State.limitWrite
  dsimp only
  rw [if_neg (by simpa using hrange), if_neg (by simpa using hv)]

end Limits

/-! ## Checkpoints (R253, R254) -/

section Checkpoints
variable {s : State} {c : Nat}

theorem State.checkpointDone_written {u b : Nat} {m : KeyMat} (hw : (s.keyCtx c).writing = some (u, b)) (hm : (s.keyCtx c).cur = some m) :
    s.checkpointDone c = (s.putCounter ⟨m.id, u, b, false, true⟩).setKeyCtx c
      (KeyCtx.checkpoint { s.keyCtx c with p := u, pb := b, writing := none, wait := false }) := by
  simp only [State.checkpointDone, hw, hm]

theorem State.checkpointDone_none (hw : (s.keyCtx c).writing = none) : s.checkpointDone c = s := by
  simp only [State.checkpointDone, hw]

end Checkpoints

/-- Settles O32: an admitted write is State.ctxCommand or State.limitWrite on the context selected, whose branches the clauses are. -/
theorem cipherContexts : Obligations.CipherContexts := by
  unfold Obligations.CipherContexts
  refine ⟨?command, ?uses, ?bytes, ?checkpoint, fun s c hw => congrArg _ (State.checkpointDone_none hw)⟩
  case command =>
    intro s u r h
    rw [exec_lockContext_of h, exec_dropPrevious_of h]
    exact ⟨fun he => ⟨congrArg _ (State.ctxCommand_empty he 1), congrArg _ (State.ctxCommand_empty he 2)⟩,
      fun hne => ⟨congrArg _ (State.ctxCommand_lock hne), congrArg _ (State.ctxCommand_dropPrevious hne)⟩⟩
  case uses =>
    rintro s u r v _ _ _ h rfl rfl rfl
    rw [exec_useLimit_of h]
    refine ⟨fun hr => congrArg _ (State.useLimit_outOfRange hr r), fun h0 hv hn => congrArg _ (State.useLimit_lowers h0 hv hn r),
      ?raised, ?refused⟩
    case raised => rintro x rfl hv hn; exact congrArg _ (State.useLimit_raisedByVault hv hn x)
    case refused => rintro x y rfl hv h0 hn; exact congrArg _ (State.useLimit_refused h0 hv hn x y)
  case bytes =>
    rintro s u r v _ _ _ h rfl rfl rfl
    rw [exec_byteLimit_of h]
    exact ⟨fun hi => congrArg _ (State.byteLimit_ignored hi r), fun h0 hv hn ha => congrArg _ (State.byteLimit_lowers h0 hv hn ha r)⟩
  case checkpoint =>
    rintro s c _ u b m rfl hw hm
    exact congrArg _ (State.checkpointDone_written hw hm)

end Sys2Proof.Machine
end

section
/-! PROOF. Services of the vault request ring (R250, R255, R259 to R272, R278): how a request is taken and answered, then the service of each code. -/

namespace Sys2Proof.Machine

/-! ## The request ring (R269, R272) -/

section Ring
variable {s : State} {q : VaultRequest}

theorem State.serveCode_head (h : s.vaultHead = some q) {code : Nat} (hc : q.code = code) : s.serveCode code = s.serve q := by
  simp only [State.serveCode, h, if_pos hc]

theorem State.serveCode_empty (h : s.vaultHead = none) (code : Nat) : s.serveCode code = s := by
  simp only [State.serveCode, h]

/-- A request whose TAG matches a kept reply is not performed again. -/
theorem State.serve_kept {r : BitVec 32 × List Byte} (h : s.vlt.replies.find? (fun x => x.1 == q.tag) = some r) :
    s.serve q = s.vaultReply q r.2 := by
  simp only [State.serve, h]

/-- Another one is performed while the vault serves, and answered POLICY_DENIED otherwise. -/
theorem State.serve_performed {t : State} {st : Nat} {body bytes : List Byte} (h : s.vlt.replies.find? (fun x => x.1 == q.tag) = none)
    (hp : (if s.vaultServes then s.service q.code q.body else (0xD0, [], s)) = (st, body, t))
    (hb : bytes = toLE 4 q.tag.toNat ++ toLE 1 st ++ [0, 0, 0] ++ toLE 4 body.length ++ body) :
    s.serve q = State.vaultReply
      { t with vlt := { t.vlt with replies := (t.vlt.replies ++ [(q.tag, bytes)]).drop (t.vlt.replies.length - 63) } } q bytes := by
  subst hb
  simp only [State.serve, h, hp]

end Ring

/-! ## GENERATE, INSTALL and GENERATE_INSTALL (R256, R267, R270) -/

section Generate
variable {s : State} {b : List Byte} (hl : 3 ≤ b.length) (ha1 : 1 ≤ leAt b 0 1) (ha4 : leAt b 0 1 ≤ 4) (hd : leAt b 1 1 < s.vlt.domains)
  (hp : leAt b 2 1 ≤ 3)
include hl ha1 ha4 hd hp

theorem State.generate_inRange :
    ¬(b.length < 3 ∨ leAt b 0 1 = 0 ∨ 4 < leAt b 0 1 ∨ 3 < leAt b 2 1 ∨ s.vlt.domains ≤ leAt b 1 1) := by omega

theorem State.svcGenerate_noEntropy (he : s.entropy = false) : s.svcGenerate b = (0xD5, [], s) := by
  simp only [State.svcGenerate, if_neg (State.generate_inRange hl ha1 ha4 hd hp), he, Bool.not_false, if_true]

theorem State.svcGenerate_wraps (he : s.entropy = true) {k : KeyMat} {u w : State} {blob : List Byte}
    (hk : s.reseed.freshKey (leAt b 0 1) (bit (leAt b 2 1) 0) (leAt b 1 1) = (k, u))
    {h : BlobHead} (hh : h = ⟨ascii "AMRK", leAt b 0 1, leAt b 1 1, leAt b 2 1, k.id, u.drkId, 0, 0⟩)
    (hw : u.makeBlob h k.material k.fixed.toNat = (blob, w)) : s.svcGenerate b = (0, blob, w) := by
  subst hh
  simp only [State.svcGenerate, if_neg (State.generate_inRange hl ha1 ha4 hd hp), he, Bool.not_true, if_neg Bool.false_ne_true, hk, hw]

end Generate

theorem State.svcInstall_entry {s : State} {b : List Byte} (h : 192 ≤ b.length) : s.svcInstall b = ((s.doInstall b).1, [], (s.doInstall b).2) :=
  if_neg (Nat.not_lt.mpr h)

/-- An entry whose blob unwraps installs its key. -/
theorem State.doInstall_unwraps {s : State} {e m : List Byte} {h : BlobHead} {f : Nat} (hz : allZero (slice e 186 6) = true)
    (hu : s.unwrap (slice e 0 160) = .inr (h, m, f)) : s.doInstall e = s.installKey (installEntry e) h.alg
      { material := m, fixed := BitVec.ofNat 32 f, id := h.keyId, exportable := bit h.policy 0, domain := h.domain } (bit h.policy 1)
      h.used h.bytes := by
  simp only [State.doInstall, hz, Bool.not_true, if_neg Bool.false_ne_true, hu]

section InstallKey
variable {s : State} {i : Install} {alg used bytes : Nat} {m : KeyMat} {persist : Bool} (hi : i.ok alg = true)
include hi

theorem State.installKey_busy (hs : (s.keyCtx i.ctx).state ≠ .EMPTY) : s.installKey i alg m persist used bytes = (0xD3, s) := by
  simp only [State.installKey, hi, Bool.not_true, if_neg Bool.false_ne_true, if_pos hs]

variable (hs : (s.keyCtx i.ctx).state = .EMPTY)
include hs

theorem State.installKey_ownerFull (ho : s.ownerHasRoom i.owner = false) : s.installKey i alg m persist used bytes = (0x09, s) := by
  simp only [State.installKey, hi, Bool.not_true, if_neg Bool.false_ne_true, if_neg (not_not_intro hs), ho, Bool.not_false, if_true]

variable (ho : s.ownerHasRoom i.owner = true)
include ho

/-- A PERSIST key needs a counter record, of which 2,048 fit. -/
theorem State.installKey_storeFull (hc : s.counterOf m.id = none) (hn : 2048 ≤ s.vlt.store.counters.length) :
    s.installKey i alg m true used bytes = (0xD6, s) := by
  simp only [State.installKey, hi, Bool.not_true, if_neg Bool.false_ne_true, if_neg (not_not_intro hs), ho, hc, if_true, Option.isNone_none, hn,
    and_self]

theorem State.installKey_volatile : (s.installKey i alg m false used bytes).1 = 0 := by
  simp only [State.installKey, hi, Bool.not_true, if_neg (not_not_intro hs), ho, Bool.false_eq_true, false_and, if_false]

end InstallKey

theorem State.svcGenerateInstall_installs {s u : State} {b : List Byte} {i : Install} {k : KeyMat} (hl : 25 ≤ b.length) (ha1 : 1 ≤ leAt b 0 1)
    (ha4 : leAt b 0 1 ≤ 4) (he : s.entropy = true)
    (hi : i = ⟨leAt b 1 4, leAt b 5 2, leAt b 7 2, leAt b 9 8, leAt b 17 8, 1, false⟩)
    (hok : i.ok (leAt b 0 1) = true) (hs : (s.keyCtx i.ctx).state = .EMPTY) (hk : s.freshKey (leAt b 0 1) false 0 = (k, u)) : s.svcGenerateInstall b =
      ((u.installKey i (leAt b 0 1) k false 0 0).1, [], (u.installKey i (leAt b 0 1) k false 0 0).2) := by
  subst hi
  have hrange : ¬(b.length < 25 ∨ leAt b 0 1 = 0 ∨ 4 < leAt b 0 1) := by omega
  simp only [not_or] at hrange
  obtain ⟨h25, h0, h4⟩ := hrange
  simp only [State.svcGenerateInstall, h25, h0, h4, hok, false_or, Bool.not_true, if_neg Bool.false_ne_true, if_neg (not_not_intro hs), he, hk]

/-! ## STAGE_SUCCESSOR, DISCARD and EXPORT (R250, R255, R270) -/

section Successor
variable {s : State} {b : List Byte} (hl : 5 ≤ b.length) (hc : leAt b 0 4 < 262144) (hs : (s.keyCtx (leAt b 0 4)).state ≠ .EMPTY)
include hl hc hs

theorem State.successor_inRange : ¬(b.length < 5 ∨ 262144 ≤ leAt b 0 4 ∨ (s.keyCtx (leAt b 0 4)).state = .EMPTY) := by
  simp only [not_or]
  exact ⟨Nat.not_lt.mpr hl, Nat.not_le.mpr hc, hs⟩

theorem State.svcStageSuccessor_xts (ha : 3 ≤ (s.keyCtx (leAt b 0 4)).alg) : s.svcStageSuccessor b = (0x0D, [], s) := by
  simp only [State.svcStageSuccessor, if_neg (State.successor_inRange hl hc hs), if_pos ha]

variable (ha : (s.keyCtx (leAt b 0 4)).alg < 3)
include ha

theorem State.svcStageSuccessor_busy (hb : (s.keyCtx (leAt b 0 4)).succ.isSome = true) : s.svcStageSuccessor b = (0xD3, [], s) := by
  simp only [State.svcStageSuccessor, if_neg (State.successor_inRange hl hc hs), if_neg (Nat.not_le.mpr ha), hb, if_true]

/-- Without a blob a fresh key is staged. -/
theorem State.svcStageSuccessor_fresh (hn : (s.keyCtx (leAt b 0 4)).succ = none) (hb : b.length < 164) (he : s.entropy = true)
    {m : KeyMat} {u : State} (hk : s.freshKey (s.keyCtx (leAt b 0 4)).alg false 0 = (m, u)) :
    s.svcStageSuccessor b = ((u.stage (leAt b 0 4) m).1, [], (u.stage (leAt b 0 4) m).2) := by
  simp only [State.svcStageSuccessor, if_neg (State.successor_inRange hl hc hs), if_neg (Nat.not_le.mpr ha), hn, Option.isSome_none, if_pos hb, he,
    Bool.not_true, if_neg Bool.false_ne_true, hk]

end Successor

section Context
variable {s : State} {b : List Byte} (hl : 4 ≤ b.length) (hc : leAt b 0 4 < 262144)
include hl hc

theorem State.context_inRange : ¬(b.length < 4 ∨ 262144 ≤ leAt b 0 4) := by omega

theorem State.svcDiscard_context : s.svcDiscard b = (0, [], s.discardCtx (leAt b 0 4)) := if_neg (State.context_inRange hl hc)

theorem State.svcExport_noKey (hm : (s.keyCtx (leAt b 0 4)).cur = none) : s.svcExport b = (0xD4, [], s) := by
  simp only [State.svcExport, if_neg (State.context_inRange hl hc), hm]

variable {m : KeyMat} (hm : (s.keyCtx (leAt b 0 4)).cur = some m)
include hm

theorem State.svcExport_held (hx : m.exportable = false) : s.svcExport b = (0xD4, [], s) := by
  simp only [State.svcExport, if_neg (State.context_inRange hl hc), hm, hx, Bool.not_false, if_true]

theorem State.svcExport_wraps (hx : m.exportable = true) (he : s.entropy = true) :
    s.svcExport b = (0, (s.exportBlob (s.keyCtx (leAt b 0 4)) m).1, (s.exportBlob (s.keyCtx (leAt b 0 4)) m).2) := by
  simp only [State.svcExport, if_neg (State.context_inRange hl hc), hm, hx, he, Bool.not_true, if_neg Bool.false_ne_true]

end Context

/-! ## The IKE services (R270, R271) -/

section Ike
variable {s : State} {b : List Byte}

theorem State.svcIkeStart_full (h : ∀ n, n < 256 → (s.ikeAt n).isSome = true) (b : List Byte) : s.svcIkeStart b = (0xD2, [], s) := by
  have hnone : (List.range 256).find? (fun n => (s.ikeAt n).isNone) = none := by
    rw [List.find?_eq_none]
    intro n hn
    rw [← Option.not_isSome, h n (List.mem_range.mp hn)]
    exact Bool.false_ne_true
  simp only [State.svcIkeStart, hnone]

/-- The first free handle is given. -/
theorem State.svcIkeStart_first (h : s.ikeAt 0 = none) (he : s.entropy = true) (b : List Byte) :
    s.svcIkeStart b = (0, toLE 1 0 ++ Config.ecPublic (s.drbg 48).1, (s.drbg 48).2.setIke 0 (some ⟨(s.drbg 48).1, none⟩)) := by
  have hfirst : (List.range 256).find? (fun n => (s.ikeAt n).isNone) = some 0 := by
    rw [List.range_succ_eq_map, List.find?_cons_of_pos (by rw [h]; rfl)]
  simp only [State.svcIkeStart, hfirst, he, Bool.not_true, if_neg Bool.false_ne_true]

theorem State.svcIkeKeys_noHandle (h : s.ikeAt (leAt b 0 1) = none) : s.svcIkeKeys b = (0xD2, [], s) := by
  simp only [State.svcIkeKeys, h]

theorem State.svcChildSa_noHandle (h : s.ikeAt (leAt b 0 1) = none) : s.svcChildSa b = (0xD2, [], s) := by
  simp only [State.svcChildSa, h, Option.bind_none]

theorem State.svcIkeEnd_noHandle (h : s.ikeAt (leAt b 0 1) = none) : s.svcIkeEnd b = (0xD2, [], s) := if_pos (by rw [h]; rfl)

variable {k : Ike} (h : s.ikeAt (leAt b 0 1) = some k)
include h

/-- The keys of R270, of which SK_d stays in the vault. -/
theorem State.svcIkeKeys_derives {n : Nat} {keys : List Byte} (hn : n = leAt b 97 2 + leAt b 99 2) (hl : b.length = 117 + n)
    (hk : keys = ikePrf (hmac (slice b 101 n) (Config.ecdh k.own (slice b 1 96))) (slice b 101 n ++ slice b (101 + n) 16) 216) :
    s.svcIkeKeys b = (0, keys.drop 48, s.setIke (leAt b 0 1) (some { k with skd := some (keys.take 48) })) := by
  subst hn hk
  simp only [State.svcIkeKeys, h, hl, bne_self_eq_false, if_neg Bool.false_ne_true]

theorem State.svcIkeEnd_drops : s.svcIkeEnd b = (0, [], s.setIke (leAt b 0 1) none) := if_neg (by rw [h]; exact Bool.false_ne_true)

end Ike

/-! ## HANDOVER_OFFER (R278) -/

theorem State.svcHandoverOffer_noEntropy {s : State} (he : s.entropy = false) (b : List Byte) : s.svcHandoverOffer b = (0xD5, [], s) :=
  if_pos (by rw [he]; rfl)

/-- The offer made is kept with the two secrets it was made of. -/
theorem State.svcHandoverOffer_offers {s : State} (he : s.entropy = true) (b : List Byte) : ∃ kem dh offer u,
    s.svcHandoverOffer b = (0, offer, { u with vlt := { u.vlt with offer := some ⟨offer, kem, dh⟩ } }) ∧
      u = ((((s.reseed.drbg 64).2).drbg 48).2.drbg 8).2 ∧ kem = (s.reseed.drbg 64).1 ∧ dh = (((s.reseed.drbg 64).2).drbg 48).1 :=
  ⟨_, _, _, _, if_neg (by rw [he]; exact Bool.false_ne_true), rfl, rfl, rfl⟩

/-- Settles O33: a command serves the head request of its code, and each service by the branch its body and the state choose. -/
theorem vaultServices : Obligations.VaultServices := by
  unfold Obligations.VaultServices
  refine ⟨?commands, ?idle, fun s q r => State.serve_kept, ?performed, ?reply, ?generate,
    fun s b he ha1 ha4 hd hp hl => State.svcGenerate_noEntropy hl ha1 ha4 hd hp he, fun s b => State.svcInstall_entry,
    fun s e h m f => State.doInstall_unwraps, ?installKey, ?generateInstall, ?successor, fun s b => State.svcDiscard_context, ?exports,
    fun s b h => State.svcIkeStart_full h b, fun s b h he => State.svcIkeStart_first h he b, ?noHandle,
    fun s b k n keys h => State.svcIkeKeys_derives h, fun s b k => State.svcIkeEnd_drops, fun s b he => State.svcHandoverOffer_offers he b, fun s b he => State.svcHandoverOffer_noEntropy he b⟩
  case commands =>
    intro s q h
    have hserve : ∀ code, q.code = code → (Host.Outcome.next (s.serveCode code).settleAll : Result) = .next (s.serve q).settleAll :=
      fun code hc => by rw [State.serveCode_head h hc]
    exact ⟨hserve 1, hserve 2, hserve 3, hserve 4, hserve 5, hserve 6, hserve 7, hserve 8, hserve 9, hserve 10, hserve 11⟩
  case idle =>
    intro s h
    exact ⟨congrArg _ (congrArg _ (State.serveCode_empty h 1)), congrArg _ (congrArg _ (State.serveCode_empty h 11))⟩
  case performed =>
    intro s t q st body bytes h hp hb
    refine State.serve_performed h ?_ hb
    rcases hp with ⟨hv, he⟩ | ⟨hv, he⟩
    · rw [hv, he]; rfl
    · rw [if_pos hv, he]
  case reply =>
    intro s q bytes
    exact ⟨{ s with mem := { s.mem with vring := writeMem s.mem.vring (replySlot q.unit (s.fld Fld.RDN_LOCAL_VRING_RPL_PROD q.unit)) bytes } },
      rfl, rfl, rfl, rfl⟩
  case generate =>
    rintro s b _ _ _ hl rfl rfl rfl ha1 ha4 hd hp he
    exact ⟨_, _, _, _, rfl, rfl, State.svcGenerate_wraps hl ha1 ha4 hd hp he rfl rfl rfl⟩
  case installKey =>
    intro s i alg m persist used bytes hi
    exact ⟨State.installKey_busy hi, State.installKey_ownerFull hi, State.installKey_storeFull hi, State.installKey_volatile hi⟩
  case generateInstall =>
    intro s b hl ha1 ha4 he i hi hok hs
    exact State.svcGenerateInstall_installs hl ha1 ha4 he hi hok hs rfl
  case successor =>
    intro s b hl hc hs
    exact ⟨State.svcStageSuccessor_xts hl hc hs, State.svcStageSuccessor_busy hl hc hs,
      fun ha hn hb he m u => State.svcStageSuccessor_fresh hl hc hs ha hn hb he⟩
  case exports =>
    intro s b hl hc
    exact ⟨State.svcExport_noKey hl hc, fun m => State.svcExport_held hl hc, fun m => State.svcExport_wraps hl hc⟩
  case noHandle =>
    intro s b h
    exact ⟨State.svcIkeKeys_noHandle h, State.svcChildSa_noHandle h, State.svcIkeEnd_noHandle h⟩

end Sys2Proof.Machine
end

section
/-! PROOF. What every step keeps (R7, R44, R261, R282, R464): that a command always answers, and, from what a step keeps, the invariant, the
retirement records and the reset state. -/

namespace Sys2Proof.Machine

/-- A table configuration write chooses its register, and answers for each. -/
theorem execTableCfgWrite_goes_on (r : Requester) (w : TableCfgWrite) (s : State) : ∃ t, execTableCfgWrite r w s = .next t := by
  cases w <;> exact ⟨_, rfl⟩

/-- No arm of the dispatch faults or refuses. -/
theorem exec_goes_on (c : Instr) (s : State) : ∃ t, exec c s = .next t := by
  cases c
  case tableCfgWrite r w => exact execTableCfgWrite_goes_on r w s
  all_goals exact ⟨_, rfl⟩

/-- Whether a command waits or not, a step answers a next state. -/
theorem step_goes_on (s : State) : ∃ t, step s = .next t := by
  cases hq : s.pending with
  | nil => exact ⟨s.tick, step_idle hq⟩
  | cons c rest =>
    obtain ⟨t, ht⟩ := exec_goes_on c { s with pending := rest }
    exact ⟨t, (step_waiting hq).trans ht⟩

/-- Settles O4: a step keeps the stores canonical and K_FLOOR legal, and of the queue it only takes the front. -/
theorem invKept : Obligations.InvKept := by
  unfold Obligations.InvKept
  rintro s ⟨hcanonical, hfloor, hqueue⟩
  obtain ⟨t, ht⟩ := step_goes_on s
  have hk : Keeps True { s with pending := s.pending.tail } t := step_keeps (fun _ => hcanonical) (fun _ => hfloor) ht
  refine ⟨t, ht, hk.canon trivial, hk.floor trivial, fun c hc => hqueue c (List.mem_of_mem_tail ?_)⟩
  rwa [hk.queue] at hc

/-- Settles O6: the records only grow along what a step keeps. -/
theorem retirementsStay : Obligations.RetirementsStay := by
  unfold Obligations.RetirementsStay
  intro s t h
  have hk : Keeps False { s with pending := s.pending.tail } t := step_keeps False.elim False.elim h
  exact hk.retired

/-- Settles O5: an answered command keeps what `Keeps` speaks of, the invariant of the stores where it held. -/
theorem everyCommandRuns : Obligations.EveryCommandRuns := by
  unfold Obligations.EveryCommandRuns
  intro c s
  obtain ⟨t, ht⟩ := exec_goes_on c s
  have hk : Keeps (s.canonical = true ∧ s.floorLegal = true) s t := exec_keeps (Keeps.refl And.left And.right) c ht
  exact ⟨t, ht, hk.queue, hk.out, hk.draws, hk.retired, hk.minimum, fun hp => ⟨hk.canon hp, hk.floor hp⟩⟩

/-- Settles O3: the stores of the reset state are empty, K_FLOOR stands at its reset value, and no command waits. -/
theorem invReset : Obligations.InvReset := by
  have hcanonical : State.reset.canonical = true := rfl
  have hfloor : State.reset.floorLegal = true := rfl
  exact ⟨hcanonical, hfloor, fun c hc => absurd hc List.not_mem_nil⟩

end Sys2Proof.Machine
end

section
/-! PROOF. What a command answers, rewritten: the state a command goes on with, and the same with what that state settles. -/

namespace Sys2Proof.Machine

/-- Equal states are the same answer. -/
theorem next_of {a b : State} (h : a = b) : (Host.Outcome.next a : Result) = .next b := congrArg _ h

/-- So they are where the command settles what follows from the state. -/
theorem next_settled {a b : State} (h : a = b) : (Host.Outcome.next a.settleAll : Result) = .next b.settleAll := by rw [h]

end Sys2Proof.Machine
end

section
/-! PROOF. Supplies and temperature (R473, R477, R480): what a rail out of range and a reading of a junction sensor do in each device state. -/

namespace Sys2Proof.Machine

/-- The reading of a sensor, as the number its eight bits spell. -/
theorem signed_toNat (t : BitVec 8) : signed 8 t.toNat = t.toInt := by
  have := t.isLt
  unfold signed
  rw [BitVec.toInt_eq_toNat_cond]
  split <;> split <;> omega

/-- The internal assertion of WARM_N is the warm reset of a device that is not OFF (R477). -/
theorem State.assertInternal_powered {s : State} (h : s.dev.state ≠ .OFF) :
    s.assertInternal = ({ s with pins := { s.pins with internalWarm := true } } : State).warmReset :=
  if_neg (by rwa [beq_iff_eq])

theorem State.railOut_unwatched {s : State} (h : s.dev.state = .OFF ∨ s.dev.state = .GHOST) (n : Nat) : s.railOut n = s := if_pos h

section Watched
variable {s : State} {n : Nat} (ho : s.dev.state ≠ .OFF) (hg : s.dev.state ≠ .GHOST)
include ho hg

theorem State.railOut_groupOne (hn : n = 3 ∨ n = 11) : s.railOut n = s.powerOff := by
  have hgroup : groupOneRail n = true := by rcases hn with rfl | rfl <;> rfl
  rw [State.railOut, if_neg (not_or.mpr ⟨ho, hg⟩), if_pos hgroup]

theorem State.railOut_other (h3 : n ≠ 3) (h11 : n ≠ 11) : s.railOut n =
    ((s.setFld Fld.GLT_SUPPLY_STATUS_IN_RANGE 0 (setBits (s.fld Fld.GLT_SUPPLY_STATUS_IN_RANGE 0) n 1 0)).setFld
      Fld.GLT_SUPPLY_STATUS_TRIPPED 0 (setBits (s.fld Fld.GLT_SUPPLY_STATUS_TRIPPED 0) n 1 1)).assertInternal := by
  have hgroup : groupOneRail n = false := by simp [groupOneRail, h3, h11]
  rw [State.railOut, if_neg (not_or.mpr ⟨ho, hg⟩), if_neg (Bool.eq_false_iff.mp hgroup)]

end Watched

theorem State.heatReading_off {s : State} (h : s.dev.state = .OFF) (m : Nat) (t : BitVec 8) : s.heatReading m t = s := if_pos h

theorem State.senseHeat_eq (s : State) (m : Nat) (t : BitVec 8) : s.senseHeat m t =
    ((s.setFld Fld.GLT_THERMAL_HIGHEST 0 t.toNat).setFld Fld.GLT_THERMAL_SENSOR 0 m).setFld Fld.GLT_THERMAL_HOT 0
      (if 105 < t.toInt then 1 else 0) := by
  simp only [State.senseHeat, signed_toNat, flag, decide_eq_true_eq]

theorem State.senseHeat_dev (s : State) (m : Nat) (t : BitVec 8) : (s.senseHeat m t).dev = s.dev := by
  rw [State.senseHeat, State.setFld_dev, State.setFld_dev, State.setFld_dev]

section Powered
variable {s : State} (ho : s.dev.state ≠ .OFF) {t : BitVec 8} (m : Nat)
include ho

theorem State.heatReading_bearable (h : s.dev.state = .GHOST ∨ t.toInt < 115) : s.heatReading m t = s.senseHeat m t := by
  simp only [State.heatReading, if_neg ho, State.senseHeat_dev, signed_toNat, if_pos h]

theorem State.heatReading_trips (hg : s.dev.state ≠ .GHOST) (h : 115 ≤ t.toInt) :
    s.heatReading m t = ((s.senseHeat m t).setFld Fld.GLT_THERMAL_TRIPPED 0 1).assertInternal := by
  simp only [State.heatReading, if_neg ho, State.senseHeat_dev, signed_toNat, hg, false_or, if_neg (Int.not_lt.mpr h)]

end Powered

/-- Settles O53: a rail by its group, a reading by its height, each ended by the warm reset where it asserts WARM_N. -/
theorem suppliesAndHeat : Obligations.SuppliesAndHeat := by
  unfold Obligations.SuppliesAndHeat
  refine ⟨fun s n h => next_of (State.railOut_unwatched h n), ?rail, fun s m t h => next_of (State.heatReading_off h m t), ?heat⟩
  case rail =>
    intro s n ho hg
    refine ⟨fun hn => next_of (State.railOut_groupOne ho hg hn), ?_⟩
    rintro w h3 h11 rfl
    refine next_of ((State.railOut_other ho hg h3 h11).trans (State.assertInternal_powered ?_))
    rwa [State.setFld_dev, State.setFld_dev]
  case heat =>
    rintro s w m t ho rfl
    rw [← State.senseHeat_eq]
    refine ⟨fun h => next_of (State.heatReading_bearable ho m h), ?_⟩
    rintro a hg ht rfl
    refine next_of ((State.heatReading_trips ho m hg ht).trans (State.assertInternal_powered ?_))
    rwa [State.setFld_dev, State.senseHeat_dev]

end Sys2Proof.Machine
end

section
/-! PROOF. Clocks (R449, R450, R459): the locks of the PLLs, and the loss of the ghost-light clock, by the branches of their definitions. -/

namespace Sys2Proof.Machine

theorem State.pllLocks_started {s : State} {p : Pll} (h : s.pllStarted p = true) : s.pllLocks p = s.setLock p true := if_pos h

theorem State.pllLocks_stopped {s : State} {p : Pll} (h : s.pllStarted p = false) : s.pllLocks p = s := if_neg (Bool.eq_false_iff.mp h)

theorem State.pllLost_unlocked {s : State} {p : Pll} (h : s.locked p = false) : s.pllLost p = s := if_pos (by rw [h]; rfl)

/-- What the loss of a lock does to what the PLL clocks (R450). -/
def State.unclocked (s : State) (p : Pll) : State :=
  match p with
  | .core | .engine | .hbm => s.fatal 4 6 .none 0 0
  | .vault => s.vaultError
  | .lane e => (List.range 16).foldl (fun s j => s.containedScope 6 .port (16 * e.val + j)) s

theorem State.pllLost_locked {s : State} {p : Pll} (h : s.locked p = true) : s.pllLost p = (s.setLock p false).unclocked p := by
  unfold State.pllLost
  rw [if_neg (by rw [h]; decide)]
  cases p <;> rfl

theorem State.clockLost_off {s : State} (h : s.dev.state = .OFF) : s.clockLost = s := if_pos h

section Powered
variable {s : State}

theorem State.clockLost_ghost (h : s.dev.state = .GHOST) {w : State}
    (hw : w = (s.setFld Fld.GLT_CLOCK_STATUS_GHOST_LOST 0 1).fatal 3 15 .none 0 0) : s.clockLost =
      (({ w with dev := { w.dev with state := .CURTAIN, cause := .FAULT } } : State).setFld Fld.FLT_STATUS_DEVICE_CAUSE 0 3).curtainAlarm .device 0
        none := by
  subst hw
  have ho : s.dev.state ≠ .OFF := by rw [h]; decide
  simp only [State.clockLost, if_neg ho, State.setFld_dev, if_pos h]

theorem State.clockLost_running (ho : s.dev.state ≠ .OFF) (hg : s.dev.state ≠ .GHOST) :
    s.clockLost = (s.setFld Fld.GLT_CLOCK_STATUS_GHOST_LOST 0 1).fatal 3 15 .none 0 0 := by
  simp only [State.clockLost, if_neg ho, State.setFld_dev, if_neg hg]

end Powered

/-- Settles O50: a lock stands while its PLL is started, and its loss reaches what the PLL clocks. -/
theorem clocksAndPlls : Obligations.ClocksAndPlls := by
  unfold Obligations.ClocksAndPlls
  refine ⟨fun s p => ⟨fun h => next_of (State.pllLocks_started h), fun h => next_of (State.pllLocks_stopped h)⟩,
    fun s p h => next_settled (State.pllLost_unlocked h), ?lost, ?ghost⟩
  case lost =>
    intro s
    have hlost : ∀ p, s.locked p = true → exec (.pllLockLost p) s = .next ((s.setLock p false).unclocked p).settleAll :=
      fun p h => next_settled (State.pllLost_locked h)
    exact ⟨hlost .core, hlost .engine, hlost .hbm, hlost .vault, fun e => hlost (.lane e)⟩
  case ghost =>
    intro s
    refine ⟨fun h => next_settled (State.clockLost_off h), fun h => ?_, fun w h hw => ?_⟩
    · have ho : s.dev.state ≠ .OFF := by rcases h with h | h | h <;> rw [h] <;> decide
      have hg : s.dev.state ≠ .GHOST := by rcases h with h | h | h <;> rw [h] <;> decide
      exact next_settled (State.clockLost_running ho hg)
    · exact next_settled (State.clockLost_ghost h hw)

end Sys2Proof.Machine
end

section
/-! PROOF. Curtains of scopes and of the device (R465 to R468, R471): what an admitted write of a cause register does, the fall of a curtain,
and its exit. -/

namespace Sys2Proof.Machine

/-- A scope with a register of its own has an index in its range. -/
theorem scopeIndexOk_of_held {k : ScopeKind} {i : Nat} (h : heldScope k i = true) : scopeIndexOk k i = true := by
  cases k <;> simp_all only [heldScope, scopeIndexOk, Bool.false_eq_true]

/-! ## The cause register of a scope (R466, R467, R471) -/

theorem State.performWrite_scope (u : State) (r : Requester) {k : ScopeKind} {i : Nat} {reg : RegName} (hk : heldScope k i = true)
    (hr : scopeReg k = some reg) (v m : Word) : u.performWrite r reg i v m = u.scopeWrite k (u.writeSeen reg i v m) := by
  cases k <;> simp only [scopeReg, Option.some.injEq, reduceCtorEq] at hr <;> subst hr
  case slice =>
    have hi : i ≠ 0 := by
      simp only [heldScope, Bool.and_eq_true, decide_eq_true_eq] at hk
      omega
    exact if_neg hi
  all_goals rfl

/-- No cause register lies in a switched domain. -/
theorem domainOfReg_scope {k : ScopeKind} {reg : RegName} (hr : scopeReg k = some reg) (i : Nat) : State.domainOfReg reg i = none := by
  cases k <;> simp only [scopeReg, Option.some.injEq, reduceCtorEq] at hr <;> subst hr <;> rfl

section Admitted
variable {s u : State} {r : Requester} {k : ScopeKind} {i : Nat} {reg : RegName} (hk : heldScope k i = true) (hr : scopeReg k = some reg)
  (h : s.admitWrite r reg i = (true, u))
include hk hr h

theorem State.writeScope_of (b v : Nat) : s.writeScope r k i b v =
    u.scopeWrite k (u.writeSeen reg i (withField 0 b 1 v) (withField 0 b 1 1)) := by
  simp only [State.writeScope, hr, State.fieldsWrite]
  exact (State.directWrite_of h (u.sleepingAt_none (domainOfReg_scope hr i)) _ _).trans (u.performWrite_scope r hk hr _ _)

theorem exec_scopeHoldWrite_of (b : Bool) : exec (.scopeHoldWrite r k i b) s = .next (u.scopeHold k i b).settleAll := by
  have hhold : bit (withField 0 0 1 (flag b) &&& withField 0 0 1 1).toNat 0 = b := by cases b <;> decide
  have hexit : bit (withField 0 0 1 (flag b) &&& withField 0 0 1 1).toNat 4 = false := by cases b <;> decide
  have hmask : bit (withField 0 0 1 1).toNat 0 = true := by decide
  have hw : s.writeScope r k i 0 (flag b) = u.scopeHold k i b := by
    rw [State.writeScope_of hk hr h, State.scopeWrite, RegWrite.hits, RegWrite.hits]
    simp only [State.writeSeen, hhold, hexit, hmask, if_true, Bool.false_eq_true, if_false]
  exact next_of ((if_pos hk).trans (by rw [hw]))

theorem exec_exitScope_of : exec (.exitScope r k i) s = .next (u.exitScope k i).settleAll := by
  have hexit : bit (withField 0 4 1 1 &&& withField 0 4 1 1).toNat 4 = true := by decide
  have hmask : bit (withField 0 4 1 1).toNat 0 = false := by decide
  have hw : s.writeScope r k i 4 1 = u.exitScope k i := by
    rw [State.writeScope_of hk hr h, State.scopeWrite, RegWrite.hits, RegWrite.hits]
    simp only [State.writeSeen, hexit, hmask, if_true, Bool.false_eq_true, if_false]
  exact next_of ((if_pos hk).trans (by rw [hw]))

end Admitted

section Scope
variable {s : State} {k : ScopeKind} {i : Nat} {reg : RegName} (hk : heldScope k i = true) (hr : scopeReg k = some reg)
include hk hr

theorem State.scopeHold_sets : s.scopeHold k i true = s.curtain k i holdBit none := by
  simp only [State.scopeHold, hr, scopeIndexOk_of_held hk, Bool.not_true, Bool.false_eq_true, if_false, if_true]

theorem State.scopeHold_clears : s.scopeHold k i false =
    if s.curtained k i && !(s.clearCause reg i holdBit).curtained k i then ((s.clearCause reg i holdBit).rewriteVoted k i).lift k i
    else s.clearCause reg i holdBit := by
  simp only [State.scopeHold, hr, scopeIndexOk_of_held hk, Bool.not_true, Bool.false_eq_true, if_false]

theorem State.exitScope_eq : s.exitScope k i =
    if s.causeHolds k i then s.scopeStatus reg i 0x98
    else if s.enclosed k i then s.scopeStatus reg i 0x99
    else (s.exitNow k reg i faultBit).scopeStatus reg i Code.OK := by
  simp only [State.exitScope, hr, scopeIndexOk_of_held hk, Bool.not_true, Bool.false_eq_true, if_false]

/-- A cause of a scope with a register: its bit is set, and the curtain falls where it had not fallen before. -/
theorem State.curtain_register (b : Nat) (x : Option FaultRecord) {w : State}
    (hw : w = s.setReg reg i (BitVec.ofNat 64 (setBits (s.reg reg i).toNat b 1 1))) :
    s.curtain k i b x = if s.curtained k i then w else ((w.fall k i).settleAll).curtainAlarm k i x := by
  subst hw
  have hi : ¬ (!scopeIndexOk k i) = true := by rw [scopeIndexOk_of_held hk]; decide
  unfold State.curtain
  rw [if_neg hi]
  cases k <;> simp only [scopeReg, Option.some.injEq, reduceCtorEq] at hr <;> subst hr <;> rfl

end Scope

/-! ## The curtain of the device (R48, R49, R466, R471) -/

theorem exec_deviceCurtainWrite_of {s u : State} {r : Requester} (h : s.admitWrite r .FLT_DEVICE_CTRL 0 = (true, u)) :
    exec (.deviceCurtainWrite r) s = .next (u.deviceCurtain .FAULT 7 none).settleAll := by
  have hhits : bit (withField 0 0 1 1 &&& withField 0 0 1 1).toNat 0 = true := by decide
  exact next_settled ((State.directWrite_of h (u.sleepingAt_none rfl) (withField 0 0 1 1) (withField 0 0 1 1)).trans (if_pos hhits))

theorem State.deviceCurtain_elsewhere {s : State} (hl : s.dev.state ≠ .LOADING) (hs : s.dev.state ≠ .STAGE) (y : DevCause) (n : Nat)
    (x : Option FaultRecord) : s.deviceCurtain y n x = s :=
  if_neg (by rw [Bool.or_eq_true, beq_iff_eq, beq_iff_eq]; exact not_or.mpr ⟨hl, hs⟩)

/-- Settles O52: a write of a cause register is State.scopeHold or State.exitScope, whose branches the clauses are. -/
theorem curtainScopes : Obligations.CurtainScopes := by
  unfold Obligations.CurtainScopes
  refine ⟨?noRegister, ?register, ?falls, fun s u r => exec_deviceCurtainWrite_of, fun s y n x hl hs => State.deviceCurtain_elsewhere hl hs y n x,
    ?device, fun s => ⟨fun i => rfl, fun i => rfl, fun i => rfl, fun i => rfl⟩⟩
  case noRegister =>
    intro s r k i b h
    have hk : ¬ heldScope k i = true := Bool.eq_false_iff.mp h
    exact ⟨next_of (if_neg hk), next_of (if_neg hk)⟩
  case register =>
    intro s u r k i reg hk hr h
    have hexit := (exec_exitScope_of hk hr h).trans (next_settled (State.exitScope_eq hk hr))
    refine ⟨(exec_scopeHoldWrite_of hk hr h true).trans (next_settled (State.scopeHold_sets hk hr)), ?hold, fun hc => ?causeHolds,
      fun hc he => ?enclosed, ?exit⟩
    case hold =>
      rintro c rfl
      have hclear := (exec_scopeHoldWrite_of hk hr h false).trans (next_settled (State.scopeHold_clears hk hr))
      refine ⟨fun hu hc => hclear.trans (next_settled (if_pos (by rw [hu, hc]; rfl))), fun hor => hclear.trans (next_settled (if_neg ?_))⟩
      rcases hor with hu | hc
      · rw [hu]; exact Bool.false_ne_true
      · rw [hc, Bool.not_true, Bool.and_false]; exact Bool.false_ne_true
    case causeHolds => exact hexit.trans (next_settled (if_pos hc))
    case enclosed => exact hexit.trans (next_settled ((if_neg (Bool.eq_false_iff.mp hc)).trans (if_pos he)))
    case exit =>
      rintro c hc he rfl
      have hnow := hexit.trans (next_settled ((if_neg (Bool.eq_false_iff.mp hc)).trans (if_neg (Bool.eq_false_iff.mp he))))
      have hlift := fun {v : State} (hv : u.exitNow k reg i faultBit = v) => hnow.trans (next_settled (congrArg (State.scopeStatus · reg i Code.OK) hv))
      exact ⟨fun hx => hlift (if_pos hx), fun hx => hlift (if_neg (Bool.eq_false_iff.mp hx))⟩
  case falls =>
    intro s w k i b x reg hk hr hw
    have hcurtain := State.curtain_register hk hr b x hw
    exact ⟨fun h => hcurtain.trans (if_pos h), fun h => hcurtain.trans (if_neg (Bool.eq_false_iff.mp h))⟩
  case device =>
    rintro s a b y n x h rfl rfl
    have hstate : (s.dev.state == DevState.LOADING || s.dev.state == DevState.STAGE) = true := by
      rwa [Bool.or_eq_true, beq_iff_eq, beq_iff_eq]
    exact ⟨fun hc => (if_pos hstate).trans (if_pos hc), fun hc => (if_pos hstate).trans (if_neg (Bool.eq_false_iff.mp hc))⟩

end Sys2Proof.Machine
end

section
/-! PROOF. Errors, verdicts and the record FIFO (R459 to R464): an error by its class and the element it names, a verdict by the test it ends. -/

namespace Sys2Proof.Machine

/-! ## Errors (R459 to R461) -/

theorem State.errorDetected_off {s : State} (h : s.dev.state = .OFF) (e : ErrorReport) : s.errorDetected e = s := if_pos h

section Powered
variable {s : State} (ho : s.dev.state ≠ .OFF) {e : ErrorReport}
include ho

theorem State.errorDetected_fatal (hc : e.cls = .fatal) :
    s.errorDetected e = s.fatal (deviceCauseOf e.cause.toNat) e.cause.toNat e.kind e.index e.detail := by
  simp only [State.errorDetected, if_neg ho, hc, bne_self_eq_false, Bool.and_false, Bool.false_eq_true, if_false, State.elementError, beq_self_eq_true,
    if_true]

variable (hc : e.cls ≠ .fatal)
include hc

theorem State.errorDetected_unit (hk : e.kind = .controlUnit) : s.errorDetected e = s.unitError e := by
  simp only [State.errorDetected, if_neg ho, hk, beq_self_eq_true, bne_iff_ne.mpr hc, Bool.and_self, if_true]

omit hc in
theorem State.errorDetected_element (hk : e.kind ≠ .controlUnit) : s.errorDetected e = s.elementError e := by
  simp only [State.errorDetected, if_neg ho, beq_eq_false_iff_ne.mpr hk, Bool.false_and, Bool.false_eq_true, if_false]

end Powered

section ControlUnit
variable {s : State} {e : ErrorReport} {u : Nat} (hu : u = e.index.toNat)
include hu

theorem State.unitError_noUnit (h : 20 ≤ u ∨ (s.unit u).state = .RETIRED) : s.unitError e = (s.countError e.cls).untested e := by
  subst hu
  exact if_pos (by rwa [Bool.or_eq_true, decide_eq_true_eq, beq_iff_eq])

variable (hn : u < 20) (hr : (s.unit u).state ≠ .RETIRED)
include hn hr

theorem State.unitError_eq : s.unitError e =
    State.unitFails (if e.cls == .contained && s.pairExists (u / 2) && s.running u && !s.isLead u then s else s.countError e.cls) u := by
  subst hu
  exact if_neg (by rw [Bool.or_eq_true, decide_eq_true_eq, beq_iff_eq, not_or]; exact ⟨Nat.not_le.mpr hn, hr⟩)

theorem State.unitError_counted (h : e.cls = .corrected ∨ s.pairExists (u / 2) = false ∨ s.running u = false ∨ s.isLead u = true) :
    s.unitError e = (s.countError e.cls).unitFails u := by
  rw [State.unitError_eq hu hn hr, if_neg]
  rcases h with h | h | h | h <;> simp [h]

/-- A unit that does not lead is fenced, and the fence counts the error. -/
theorem State.unitError_fenced (hc : e.cls = .contained) (hp : s.pairExists (u / 2) = true) (hrun : s.running u = true) (hl : s.isLead u = false) :
    s.unitError e = s.unitFails u := by
  rw [State.unitError_eq hu hn hr, if_pos]
  simp [hc, hp, hrun, hl]

end ControlUnit

/-- The curtain of the scope that a CONTAINED error names (R459). -/
def State.errorCurtain (s : State) (e : ErrorReport) : State :=
  match e.cls, e.scope with
  | .contained, some (k, i) => s.curtain k i faultBit (some (s.recordOf 1 0 e.kind e.index e.cause (some (k, i)) e.detail))
  | _, _ => s

theorem State.eq_errorCurtain {a b : State} {e : ErrorReport} (hf : e.cls ≠ .fatal)
    (hs : ∀ k i, e.cls = .contained → e.scope = some (k, i) → b = a.curtain k i faultBit (some (a.recordOf 1 0 e.kind e.index e.cause (some (k, i)) e.detail)))
    (hn : e.cls = .corrected ∨ e.scope = none → b = a) : b = a.errorCurtain e := by
  unfold State.errorCurtain
  cases hc : e.cls with
  | corrected => exact hn (.inl hc)
  | fatal => exact absurd hc hf
  | contained =>
    cases hz : e.scope with
    | none => exact hn (.inr hz)
    | some z => exact hs z.1 z.2 hc hz

section Element
variable {s b : State} {e : ErrorReport} {t : Test}

theorem State.elementError_eq (hc : e.cls ≠ .fatal) (hb : b = ((s.countError e.cls).errorHit e).errorCurtain e)
    (ht : t = { kind := e.kind, index := e.index, cls := BitVec.ofNat 8 (ErrClass.value e.cls), cause := e.cause, scope := e.scope }) :
    s.elementError e =
      if e.kind == .none || b.isRetired e.kind e.index then b.untested e
      else if (b.underTest e.kind e.index).isSome then b
      else if b.recentRow e.kind e.index then (b.bump .FLT_TEST_SKIPPED 0).testVerdict t true false true e.detail
      else b.testStarts t := by
  subst hb ht
  exact if_neg (by rwa [beq_iff_eq])

variable (h : s.elementError e =
      if e.kind == .none || b.isRetired e.kind e.index then b.untested e
      else if (b.underTest e.kind e.index).isSome then b
      else if b.recentRow e.kind e.index then (b.bump .FLT_TEST_SKIPPED 0).testVerdict t true false true e.detail
      else b.testStarts t)
include h

theorem State.elementError_untested (hn : e.kind = .none ∨ b.isRetired e.kind e.index = true) : s.elementError e = b.untested e :=
  h.trans (if_pos (by rwa [Bool.or_eq_true, beq_iff_eq]))

variable (hk : e.kind ≠ .none) (hr : b.isRetired e.kind e.index = false)
include hk hr

theorem State.elementError_inService : s.elementError e =
      if (b.underTest e.kind e.index).isSome then b
      else if b.recentRow e.kind e.index then (b.bump .FLT_TEST_SKIPPED 0).testVerdict t true false true e.detail
      else b.testStarts t :=
  h.trans (if_neg (by rw [hr, Bool.or_false, beq_iff_eq]; exact hk))

theorem State.elementError_folded (ht : (b.underTest e.kind e.index).isSome = true) : s.elementError e = b :=
  (State.elementError_inService h hk hr).trans (if_pos ht)

variable (ht : b.underTest e.kind e.index = none)
include ht

theorem State.elementError_skipped (hz : b.recentRow e.kind e.index = true) :
    s.elementError e = (b.bump .FLT_TEST_SKIPPED 0).testVerdict t true false true e.detail :=
  (State.elementError_inService h hk hr).trans ((if_neg (by rw [ht]; exact Bool.false_ne_true)).trans (if_pos hz))

theorem State.elementError_tested (hz : b.recentRow e.kind e.index = false) : s.elementError e = b.testStarts t :=
  (State.elementError_inService h hk hr).trans ((if_neg (by rw [ht]; exact Bool.false_ne_true)).trans (if_neg (Bool.eq_false_iff.mp hz)))

end Element

theorem State.untested_contained {e : ErrorReport} (h : e.cls = .contained) (s : State) :
    s.untested e = s.writeRecord (s.recordOf 1 0 e.kind (if e.kind == .none then 0 else e.index) e.cause e.scope e.detail) :=
  if_pos (beq_iff_eq.mpr h)

theorem State.untested_other {e : ErrorReport} (h : e.cls ≠ .contained) (s : State) : s.untested e = s :=
  if_neg (by rwa [beq_iff_eq])

theorem State.countError_eq (s : State) (c : ErrClass) :
    s.countError c = s.bump (match c with | .corrected => .FLT_CORRECTED | .contained => .FLT_CONTAINED | .fatal => .FLT_FATAL) 0 := by
  cases c <;> rfl

/-! ## Verdicts (R462 to R464) -/

theorem State.verdictIn_entropy {s a : State} {i : BitVec 32} {p l : Bool} {d : BitVec 32} {r : FaultRecord}
    (hr : r = s.recordOf 1 2 .entropy i 9 none d) (ha : a = s.selfTestEnds .entropy i p l d) :
    s.verdictIn .entropy i p l d = if (s.underTest .entropy i).isSome && a.isRetired .entropy i then a.alarm 7 r else a := by
  subst hr ha; rfl

theorem State.verdictIn_element {k : ElementKind} (hu : k ≠ .controlUnit) (hg : k ≠ .registerGroup) (he : k ≠ .entropy) (s : State) (i : BitVec 32)
    (p l : Bool) (d : BitVec 32) : s.verdictIn k i p l d = s.selfTestEnds k i p l d := by
  cases k with
  | controlUnit => exact absurd rfl hu
  | registerGroup => exact absurd rfl hg
  | entropy => exact absurd rfl he
  | _ => rfl

theorem State.selfTestEnds_untested {s : State} {k : ElementKind} {i : BitVec 32} (h : s.underTest k i = none) (p l : Bool) (d : BitVec 32) :
    s.selfTestEnds k i p l d = s := by
  simp only [State.selfTestEnds, h]

theorem State.selfTestEnds_tested {s w : State} {k : ElementKind} {i : BitVec 32} {t : Test} (h : s.underTest k i = some t)
    (hw : w = { s with flt := { s.flt with tests := s.flt.tests.filter (fun x => !(x.kind == k && x.index == i)) } }) (p l : Bool) (d : BitVec 32) :
    s.selfTestEnds k i p l d = w.testVerdict t p true l d := by
  subst hw
  simp only [State.selfTestEnds, h]

section Verdict
variable {s : State} {t : Test} {p z l q : Bool} {d : BitVec 32} {ts : List Nat} (hts : ts = s.transients t.kind t.index)
  (hq : q = if t.kind == .d2dLane then s.spareFor t.index.toNat else l)
include hts hq

theorem State.testVerdict_transient (hp : p = true) (hn : ts.length < 3) :
    s.testVerdict t p z l d = (s.remember t.kind t.index (s.now :: ts) z).giveVerdict t false q d := by
  subst hp hts hq
  have hlasting : (!true || decide (3 ≤ (s.transients t.kind t.index).length)) = false := by simpa using hn
  simp only [State.testVerdict, hlasting, Bool.false_eq_true, if_false]

theorem State.testVerdict_lasting (h : p = false ∨ 3 ≤ ts.length) :
    s.testVerdict t p z l d = (s.remember t.kind t.index ts z).giveVerdict t true q d := by
  subst hts hq
  have hlasting : (!p || decide (3 ≤ (s.transients t.kind t.index).length)) = true := by
    rwa [Bool.or_eq_true, Bool.not_eq_true', decide_eq_true_eq]
  simp only [State.testVerdict, hlasting, if_true]

end Verdict

section Retirement
variable {s : State} {k : ElementKind} {i : BitVec 32} (h : s.isRetired k i = true) (r : FaultRecord)
include h

theorem State.retire_recorded (hn : s.vlt.store.retired.length < 2048) :
    s.retire r k i = s.writeStore (.retired s.vlt.store.retired.length) (fun t => { t with retired := t.retired ++ [r] }) := by
  simp only [State.retire, h, if_true, if_pos hn]

theorem State.retire_full (hn : 2048 ≤ s.vlt.store.retired.length) : s.retire r k i = s.plainAlarm 6 0 18 0 0 := by
  simp only [State.retire, h, if_true, if_neg (Nat.not_lt.mpr hn)]

end Retirement

/-! ## The record FIFO (R463) -/

theorem State.writeRecord_fits {s w : State} (hw : w = s.nextSeq) (h : w.flt.fifo.length < 256) (r : FaultRecord) :
    s.writeRecord r = ({ w with flt := { w.flt with fifo := w.flt.fifo ++ [r] } } : State).cpcEvent 0 := by
  subst hw; exact if_pos h

theorem State.writeRecord_lost {s w : State} (hw : w = s.nextSeq) (h : 256 ≤ w.flt.fifo.length) (r : FaultRecord) :
    s.writeRecord r = (w.bump .FLT_RECORD_LOST 0).plainAlarm 9 0 19 0 0 := by
  subst hw; exact if_neg (Nat.not_lt.mpr h)

theorem exec_fltRecordPop_of {s u : State} {r : Requester} (h : s.admitWrite r .FLT_RECORD_POP 0 = (true, u)) :
    exec (.fltRecordPop r) s = .next { u with flt := { u.flt with fifo := u.flt.fifo.tail } } := by
  have hhits : bit (((1 : BitVec 32).setWidth 64) &&& lowMask).toNat 0 = true := by decide
  exact next_of ((State.directWrite_of h (u.sleepingAt_none rfl) ((1 : BitVec 32).setWidth 64) lowMask).trans (if_pos hhits))

/-- Settles O51: an error by its class and element, a verdict by the test it ends, and what each leaves in the records. -/
theorem errorsAndVerdicts : Obligations.ErrorsAndVerdicts := by
  unfold Obligations.ErrorsAndVerdicts
  refine ⟨fun s e h => next_settled (State.errorDetected_off h e), fun s e ho hc => next_settled (State.errorDetected_fatal ho hc), ?units, ?elements,
    fun s e => ⟨fun h => s.untested_contained h, fun h => s.untested_other h⟩, State.countError_eq, fun s i p l d => ⟨rfl, rfl⟩, ?entropy,
    fun s k i p l d hu hg he => next_settled (s.verdictIn_element hu hg he i p l d), ?ends, ?verdict, ?transient,
    fun s r k i => ⟨fun h hn => State.retire_recorded h r hn, fun h hn => State.retire_full h r hn⟩,
    fun s w r hw => ⟨fun h => State.writeRecord_fits hw h r, fun h => State.writeRecord_lost hw h r⟩, fun s u r => exec_fltRecordPop_of⟩
  case units =>
    intro s e u ho hc hk hu
    have hunit := State.errorDetected_unit ho hc hk
    exact ⟨fun h => next_settled (hunit.trans (State.unitError_noUnit hu h)),
      fun hn hr h => next_settled (hunit.trans (State.unitError_counted hu hn hr h)),
      fun hn hr hcls hp hrun hl => next_settled (hunit.trans (State.unitError_fenced hu hn hr hcls hp hrun hl))⟩
  case elements =>
    rintro s _ b e t ho hc hk rfl hs hn ht
    have helement := State.errorDetected_element ho hk
    have heq := State.elementError_eq hc (State.eq_errorCurtain hc hs hn) ht
    exact ⟨fun h => next_settled (helement.trans (State.elementError_untested heq h)),
      fun hk hr h => next_settled (helement.trans (State.elementError_folded heq hk hr h)),
      fun hk hr h hz => next_settled (helement.trans (State.elementError_skipped heq hk hr h hz)),
      fun hk hr h hz => next_settled (helement.trans (State.elementError_tested heq hk hr h hz))⟩
  case entropy =>
    intro s a i p l d r hr ha
    have hverdict := State.verdictIn_entropy hr ha
    refine ⟨fun ht hd => next_settled (hverdict.trans (if_pos (by rw [ht, hd]; rfl))), fun h => next_settled (hverdict.trans (if_neg ?_))⟩
    rcases h with h | h <;> simp [h]
  case ends =>
    intro s k i p l d
    exact ⟨fun h => State.selfTestEnds_untested h p l d, fun w t h hw => State.selfTestEnds_tested h hw p l d⟩
  case verdict =>
    intro s t p z l d ts q hts hq
    exact ⟨fun hp hn => State.testVerdict_transient hts hq hp hn, fun h => State.testVerdict_lasting hts hq h⟩
  case transient => rintro s _ t l d rfl; rfl

end Sys2Proof.Machine
end

section
/-! PROOF. Warrants (R273 to R275, R278 to R280, R288), zeroisation (R286, R287), entropy and self-tests (R264, R265, R284): the check of a
warrant, each service by its condition, and what zeroisation starts and ends with. -/

namespace Sys2Proof.Machine

/-! ## Acceptance (R273, R274) -/

section Received
variable {s : State} {m : List Byte} (hl : s.leadVault.isSome = true) (ha : s.mapAnswers = true) (o : Origin)
include hl ha

theorem State.warrantIn_answers : ¬(s.leadVault.isNone || !s.mapAnswers) = true := by
  rw [ha, ← Option.not_isSome, hl]; decide

theorem State.warrantIn_accepted (hc : s.checkWarrant m = 0) : s.warrantIn o m = { s with vlt := { s.vlt with
    warrantSeq := leAt m 0x50 8, accepted := s.vlt.accepted ++
      [{ origin := o, service := leAt m 0x18 2, seq := leAt m 0x50 8, body := slice m 128 (leAt m 0x1C 4) }] } } :=
  (if_neg (State.warrantIn_answers hl ha)).trans (if_pos hc)

theorem State.warrantIn_refused (hc : s.checkWarrant m ≠ 0) :
    s.warrantIn o m = s.replyTo o (leAt m 0x50 8) (s.checkWarrant m) 0xFFFF [] :=
  (if_neg (State.warrantIn_answers hl ha)).trans (if_neg hc)

end Received

theorem State.checkWarrant_erasing {s : State} (h : s.vlt.erasing = true) (m : List Byte) : s.checkWarrant m = 0xD0 :=
  if_pos (by rw [h, Bool.or_true])

/-- The signatures a warrant of a service needs: one to zeroise, K in force otherwise. -/
def State.warrantNeed (s : State) (service : Nat) : Nat := if service = 1 then 1 else s.kInForce

section Checked
variable {s : State} {m h : List Byte} {n k : Nat} {ns : List Nat} (he : s.vlt.error = false) (hz : s.vlt.erasing = false)
  (hh : h = slice m 0 128) (hn : n = leAt h 0x1C 4) (hk : k = leAt h 0x1A 1) (hk1 : 1 ≤ k) (hk8 : k ≤ 8) (hsize : n ≤ 1048576)
  (hlen : 128 + n + 4736 * k ≤ m.length)
  (hsigs : s.countBlocks h ((List.range k).map (fun i => slice m (128 + n + 4736 * i) 4736)) [] = some ns)
include he hz hh hn hk hk1 hk8 hsize hlen hsigs

/-- A warrant whose form is good is judged by its signatures and its header. -/
theorem State.checkWarrant_counted : s.checkWarrant m =
    if ns.length < s.warrantNeed (leAt h 0x18 2) || !s.authentic (ascii "AMRW") s.vlt.warrantSeq 0x50 0x20 h (slice m 128 n) then Code.AUTH_FAIL
    else if between 1 9 (leAt h 0x18 2) then Code.OK
    else Code.UNSUPPORTED := by
  subst hh hn hk
  have hserves : ¬(s.vlt.error || s.vlt.erasing) = true := by rw [he, hz]; decide
  have hform : ¬(!between 1 8 (leAt (slice m 0 128) 0x1A 1) || decide (1048576 < leAt (slice m 0 128) 0x1C 4) ||
      decide (m.length < 128 + leAt (slice m 0 128) 0x1C 4 + sigBytes * leAt (slice m 0 128) 0x1A 1)) = true := by
    simp only [between, Bool.or_eq_true, Bool.not_eq_true', Bool.and_eq_false_iff, decide_eq_true_eq, decide_eq_false_iff_not]
    unfold sigBytes
    omega
  have hcount : s.countBlocks (slice m 0 128) ((List.range (leAt (slice m 0 128) 0x1A 1)).map
      (fun i => slice m (128 + leAt (slice m 0 128) 0x1C 4 + sigBytes * i) sigBytes)) [] = some ns := hsigs
  simp only [State.checkWarrant, State.warrantNeed, if_neg hserves, if_neg hform, hcount]
  rfl

theorem State.checkWarrant_ok (hauth : s.authentic (ascii "AMRW") s.vlt.warrantSeq 0x50 0x20 h (slice m 128 n) = true)
    (h1 : 1 ≤ leAt h 0x18 2) (h9 : leAt h 0x18 2 ≤ 9) (hneed : s.warrantNeed (leAt h 0x18 2) ≤ ns.length) : s.checkWarrant m = 0 := by
  have hservice : between 1 9 (leAt h 0x18 2) = true := by rw [between, decide_eq_true h1, decide_eq_true h9]; rfl
  rw [State.checkWarrant_counted he hz hh hn hk hk1 hk8 hsize hlen hsigs, hauth, decide_eq_false (Nat.not_lt.mpr hneed), hservice]
  rfl

theorem State.checkWarrant_short (hneed : ns.length < s.warrantNeed (leAt h 0x18 2)) : s.checkWarrant m = Code.AUTH_FAIL := by
  rw [State.checkWarrant_counted he hz hh hn hk hk1 hk8 hsize hlen hsigs, decide_eq_true hneed]
  rfl

end Checked

/-- One block of the set in force that does not verify leaves no count. -/
theorem State.countBlocks_unsigned {s : State} {h b : List Byte} {bs : List (List Byte)} {ns : List Nat} (h8 : leAt b 4 1 < 8)
    (hset : s.vlt.houseSet.getLsbD (leAt b 4 1) = true) (hkey : (s.keySlot (4 + leAt b 4 1)).isSome = true)
    (hnew : ns.contains (leAt b 4 1) = false) (hsigned : s.houseSigned h b = false) : s.countBlocks h (b :: bs) ns = none := by
  have hcounts : ¬(decide (8 ≤ leAt b 4 1) || !s.vlt.houseSet.getLsbD (leAt b 4 1) || (s.keySlot (4 + leAt b 4 1)).isNone ||
      ns.contains (leAt b 4 1)) = true := by
    rw [decide_eq_false (Nat.not_le.mpr h8), hset, hnew, ← Option.not_isSome, hkey]; decide
  rw [State.countBlocks, if_neg hcounts, if_neg (Bool.eq_false_iff.mp hsigned)]

/-! ## Services (R274, R275, R278, R288) -/

section Performed
variable {s u : State} {w : Warrant} {rest : List Warrant} (ha : s.vlt.accepted = w :: rest)
  (hu : u = { s with vlt := { s.vlt with accepted := rest } })
include ha hu

/-- The oldest warrant is performed for its own service, and answered with what the service gives. -/
theorem State.performWarrant_serves (he : s.vlt.error = false) (hz : s.vlt.erasing = false) {n : Nat} (hw : w.service = n)
    {f : State → List Byte → Served} {st : Nat} {body : List Byte} {t : State} (hf : f u w.body = (st, body, t)) :
    s.performWarrant n f = t.replyTo w.origin w.seq st 0xFFFF body := by
  subst hu
  have hservice : ¬(w.service != n) = true := by rw [hw, bne_self_eq_false]; exact Bool.false_ne_true
  have hserves : ¬(s.vlt.error || s.vlt.erasing) = true := by rw [he, hz]; decide
  simp only [State.performWarrant, ha, if_neg hservice, if_neg hserves, hf]

theorem State.performWarrant_erasing (hz : s.vlt.erasing = true) {n : Nat} (hw : w.service = n) (f : State → List Byte → Served) :
    s.performWarrant n f = u.replyTo w.origin w.seq 0xD0 0xFFFF [] := by
  subst hu
  have hservice : ¬(w.service != n) = true := by rw [hw, bne_self_eq_false]; exact Bool.false_ne_true
  simp only [State.performWarrant, ha, if_neg hservice, hz, Bool.or_true, if_true]

omit hu in
theorem State.performWarrant_otherService {n : Nat} (hw : w.service ≠ n) (f : State → List Byte → Served) : s.performWarrant n f = s := by
  simp only [State.performWarrant, ha, bne_iff_ne.mpr hw, if_true]

end Performed

section Keys
variable {u : State} {b : List Byte} (hl : b.length = 2704)
include hl

theorem State.wEnrol_slot (h4 : leAt b 0 1 < 4) : u.wEnrol b =
    if (u.keySlot (leAt b 0 1)).isSome then (0xD0, [], u) else (Code.OK, [], u.setKeySlot (leAt b 0 1) (some (slice b 15 2689))) := by
  simp only [State.wEnrol, hl, bne_self_eq_false, Bool.false_eq_true, if_false, decide_eq_false (Nat.not_le.mpr h4), Bool.false_or]

theorem State.wReplace_replaces (h8 : leAt b 0 1 < 8) {i : Nat} (hi : i < 8) (hne : i ≠ leAt b 0 1) (hset : u.vlt.houseSet.getLsbD i = true)
    (hkey : (u.keySlot (4 + i)).isSome = true) :
    u.wReplace b = (0, [], u.setKeySlot (4 + leAt b 0 1) (some (slice b 15 2689))) := by
  have hothers : (List.range 8).any (fun j => j != leAt b 0 1 && u.vlt.houseSet.getLsbD j && (u.keySlot (4 + j)).isSome) = true :=
    List.any_eq_true.mpr ⟨i, List.mem_range.mpr hi, by rw [bne_iff_ne.mpr hne, hset, hkey]; rfl⟩
  simp only [State.wReplace, hl, bne_self_eq_false, Bool.false_eq_true, if_false, decide_eq_false (Nat.not_le.mpr h8), hothers, Bool.not_true,
    Bool.or_self]

end Keys

theorem State.wWithdraw_slot {u : State} {b : List Byte} (hb : b ≠ []) (h4 : leAt b 0 1 < 4) : u.wWithdraw b =
    if u.slotNamed (leAt b 0 1) then (0xD0, [], u) else (Code.OK, [], u.setKeySlot (leAt b 0 1) none) := by
  have he : ¬ b.isEmpty = true := by rwa [List.isEmpty_iff]
  simp only [State.wWithdraw, if_neg he, decide_eq_false (Nat.not_le.mpr h4), Bool.false_or]

theorem State.wKFloor_value {u : State} {b : List Byte} (hb : b ≠ []) : u.wKFloor b =
    if between 1 8 (leAt b 0 1) then (Code.OK, [], u.writeStore (.critical 1) (fun t => { t with kFloor := leAt b 0 1 })) else (0xD0, [], u) :=
  if_neg (by rwa [List.isEmpty_iff])

theorem State.wDebug_outside {u : State} (h : u.dev.state ≠ .STAGE) (b : List Byte) : u.wDebug b = (0xD0, [], u) := if_pos (bne_iff_ne.mpr h)

theorem State.wDebug_stage {u v : State} (h : u.dev.state = .STAGE) (hv : v = ((u.lockAll (fun _ _ => true)).stopIde).settleAll) (b : List Byte) :
    u.wDebug b = (0, [], { v with vlt := { v.vlt with debug := true } }) := by
  subst hv
  exact if_neg (by rw [h]; decide)

theorem State.wReinitialise_outside {s : State} (h : s.dev.state ≠ .CURTAIN ∨ s.dev.cause ≠ .ZEROIZE) (b : List Byte) :
    s.wReinitialise b = (0xD0, [], s) :=
  if_pos (by rwa [Bool.or_eq_true, bne_iff_ne, bne_iff_ne])

/-- A warrant that takes ZEROISED away is followed by the transition of a RESTART record. -/
theorem State.reinitialise_done {s t : State} (h : s.performWarrant 9 State.wReinitialise = t) (hb : s.vlt.store.zeroised = true)
    (ha : t.vlt.store.zeroised = false) : s.reinitialise = t.cleanRecords.reload .RESTART := by
  subst h
  exact if_pos (by rw [hb, ha]; rfl)

/-! ## Zeroisation (R286, R287) -/

theorem State.zeroisePin_off {s : State} (h : s.dev.state = .OFF) : s.zeroisePin = s := if_pos (beq_iff_eq.mpr h)

theorem State.zeroisePin_powered {s : State} (h : s.dev.state ≠ .OFF) : s.zeroisePin = s.startZeroise.settleAll := if_neg (by rwa [beq_iff_eq])

theorem State.startZeroise_again {s : State} (h : s.vlt.erasing = true) : s.startZeroise = s := if_pos h

theorem State.startZeroise_starts {s : State} (h : s.vlt.erasing = false) : s.startZeroise.vlt.erasing = true ∧ s.startZeroise.vlt.accepted = [] := by
  rw [State.startZeroise, if_neg (Bool.eq_false_iff.mp h)]
  exact ⟨rfl, rfl⟩

theorem State.zeroised_idle {s : State} (h : s.vlt.erasing = false) : s.zeroised = s := if_pos (by rw [h]; rfl)

section Erased
variable {s : State} (h : s.vlt.erasing = true)
include h

theorem State.zeroised_stage (hs : s.erase.settleAll.dev.state = .STAGE) : s.zeroised = s.erase.settleAll.deviceCurtain .ZEROIZE 9 none := by
  simp only [State.zeroised, h, Bool.not_true, Bool.false_eq_true, if_false, hs]

theorem State.zeroised_loading (hs : s.erase.settleAll.dev.state = .LOADING) : s.zeroised = s.erase.settleAll := by
  simp only [State.zeroised, h, Bool.not_true, Bool.false_eq_true, if_false, hs]

end Erased

/-! ## Entropy and self-tests (R264, R265, R284) -/

/-- A first failure within 1 s restarts the source under test. -/
theorem State.entropyFails_first {s : State} {v : Nat}
    (h : (SMap.get (fun _ => []) s.vlt.sourceFails v).filter (fun t => s.elapsed < t + 1000000000) = []) :
    s.entropyFails v = State.elementError { s with vlt := { s.vlt with sourceFails := SMap.set (fun _ => []) v [s.elapsed] s.vlt.sourceFails } }
      { cls := .contained, kind := .entropy, index := BitVec.ofNat 32 v, cause := 9, scope := none, detail := 0, hit := .nothing } := by
  simp only [State.entropyFails, h]
  exact if_pos rfl

theorem State.reseedIfDue_due {s : State} (h : s.reseedDue = true) (he : s.entropy = true) : s.reseedIfDue = s.seedFrom (drbgReseed s.vlt.drbg) :=
  (if_pos h).trans (if_pos he)

theorem State.reseedIfDue_early {s : State} (h : s.reseedDue = false) : s.reseedIfDue = s := if_neg (Bool.eq_false_iff.mp h)

theorem State.periodicTest_outside {s : State} (h : s.dev.state ≠ .STAGE) (pass : Bool) (failed : List Nat) : s.periodicTest pass failed = s :=
  if_pos (bne_iff_ne.mpr h)

section Stage
variable {s : State} (h : s.dev.state = .STAGE)
include h

theorem State.periodicTest_stage : ¬(s.dev.state != .STAGE) = true := by rw [h]; decide

theorem State.periodicTest_passes : s.periodicTest true [] = s := if_neg (State.periodicTest_stage h)

theorem State.periodicTest_vaultFails {v : Nat} (hv : s.leadVault = some v) : s.periodicTest false [] = s.unitFails (2 + v) := by
  simp only [State.periodicTest, if_neg (State.periodicTest_stage h), List.foldl_nil, Bool.false_eq_true, if_false, hv]

theorem State.periodicTest_engineFails {e : Nat} (hr : s.isRetired .cipherEngine (BitVec.ofNat 32 e) = false) : s.periodicTest true [e] = State.selfTestEnds
    (s.elementError { cls := .contained, kind := .cipherEngine, index := BitVec.ofNat 32 e, cause := 8, scope := none, detail := 0, hit := .nothing })
    .cipherEngine (BitVec.ofNat 32 e) false true 0 := by
  simp only [State.periodicTest, if_neg (State.periodicTest_stage h), List.foldl_cons, List.foldl_nil, if_true, if_neg (Bool.eq_false_iff.mp hr)]

end Stage

/-- Settles O34: a warrant by its check, each service by its condition, and zeroisation, entropy and the self-tests by their branches. -/
theorem warrants : Obligations.Warrants := by
  unfold Obligations.Warrants
  refine ⟨fun s o m hl ha => ⟨fun hc => next_of (State.warrantIn_accepted hl ha o hc), fun hc => next_of (State.warrantIn_refused hl ha o hc)⟩,
    fun s m h => State.checkWarrant_erasing h m, ?checked, fun s h b bs ns => State.countBlocks_unsigned, ?services, ?erasing,
    fun s b h => State.wReinitialise_outside h b, ?pins, fun s => State.startZeroise_again, fun s => State.startZeroise_starts,
    fun s => ⟨rfl, rfl, rfl, rfl, rfl, rfl, rfl, rfl, rfl, rfl, rfl, rfl, rfl⟩, ?complete, fun s v h => next_of (State.entropyFails_first h),
    fun s => ⟨fun h he => next_of (State.reseedIfDue_due h he), fun h => next_of (State.reseedIfDue_early h)⟩,
    fun s pass failed h => next_settled (State.periodicTest_outside h pass _), ?selfTest,
    fun s e h hr => next_settled (State.periodicTest_engineFails h hr)⟩
  case checked =>
    intro s m ns h n k he hz hh hn hk hk1 hk8 hsize hlen hsigs hauth h1 h9
    have hok := State.checkWarrant_ok he hz hh hn hk hk1 hk8 hsize hlen hsigs hauth h1 h9
    have hshort := State.checkWarrant_short he hz hh hn hk hk1 hk8 hsize hlen hsigs
    exact ⟨fun hs hns => hok (by rwa [State.warrantNeed, if_pos hs]), fun hs hns => hok (by rwa [State.warrantNeed, if_neg hs]),
      fun hs hns => hshort (by rwa [State.warrantNeed, if_neg hs])⟩
  case services =>
    intro s u w rest ha hu he hz
    have hserves := fun {n : Nat} (hw : w.service = n) {f : State → List Byte → Served} {st body t} (hf : f u w.body = (st, body, t)) =>
      State.performWarrant_serves ha hu he hz hw hf
    refine ⟨fun hw => next_of (hserves hw rfl), fun st body t hf hw => next_of (hserves hw hf), fun st body t hf hw => next_of (hserves hw hf),
      ?enrol, ?withdraw, fun i hw hl h8 hi hne hset hkey => next_of (hserves hw (State.wReplace_replaces hl h8 hi hne hset hkey)), ?floor, ?debug,
      fun st body t hf hw hb ha => next_of (State.reinitialise_done (hserves hw hf) hb ha)⟩
    case enrol =>
      intro hw hl h4
      have henrol := State.wEnrol_slot (u := u) hl h4
      exact ⟨fun hk => next_of (hserves hw (henrol.trans (if_neg (by rw [hk]; exact Bool.false_ne_true)))),
        fun k hk => next_of (hserves hw (henrol.trans (if_pos (by rw [hk]; rfl))))⟩
    case withdraw =>
      intro hw hb h4
      have hwithdraw := State.wWithdraw_slot (u := u) hb h4
      exact ⟨fun hn => next_of (hserves hw (hwithdraw.trans (if_neg (Bool.eq_false_iff.mp hn)))),
        fun hn => next_of (hserves hw (hwithdraw.trans (if_pos hn)))⟩
    case floor =>
      intro hw hb
      have hfloor := State.wKFloor_value (u := u) hb
      refine ⟨fun h1 h8 => next_of (hserves hw (hfloor.trans (if_pos ?_))), fun h8 => next_of (hserves hw (hfloor.trans (if_neg ?_)))⟩
      · rw [between, decide_eq_true h1, decide_eq_true h8]; rfl
      · rw [between, decide_eq_false (Nat.not_le.mpr h8), Bool.and_false]; exact Bool.false_ne_true
    case debug =>
      exact fun hw => ⟨fun hs => next_of (hserves hw (State.wDebug_outside hs _)),
        fun hs => ⟨_, rfl, next_of (hserves hw (State.wDebug_stage hs rfl _))⟩⟩
  case erasing =>
    intro s w rest ha hz
    exact ⟨fun hw => next_of (State.performWarrant_erasing ha rfl hz hw _), fun hw => next_of (State.performWarrant_otherService ha hw _)⟩
  case pins =>
    exact fun s => ⟨fun h => next_of (State.zeroisePin_off h), fun h => next_of (State.zeroisePin_off h),
      fun h => next_of (State.zeroisePin_powered h), fun h => next_of (State.zeroisePin_powered h)⟩
  case complete =>
    exact fun s => ⟨fun h => next_of (State.zeroised_idle h), fun h hs => next_of (State.zeroised_stage h hs),
      fun h hs => next_of (State.zeroised_loading h hs)⟩
  case selfTest =>
    exact fun s h => ⟨next_settled (State.periodicTest_passes h), fun v hv => next_settled (State.periodicTest_vaultFails h hv)⟩

end Sys2Proof.Machine
end

section
/-! PROOF. The SPDM responder and the IDE keys (R259, R276, R277, R309): a request by the stage of its connection, then by the chain, the
random value or the session it needs. -/

namespace Sys2Proof.Machine

/-! ## Stages of a connection (R276) -/

section Stage
variable {s : State} {h : Nat}

theorem State.negotiate_down (hd : s.doeUp h = false) (n code : Nat) (body : List Byte) : s.negotiate h n code body = s :=
  if_pos (by rw [hd]; rfl)

theorem State.negotiated_down (hd : s.doeUp h = false) (act : State → State) : s.negotiated h act = s :=
  if_pos (by rw [hd]; rfl)

theorem State.inSession_down (hd : s.doeUp h = false) (id : BitVec 32) (secured : Bool) (act : State → SpdmSession → State) :
    s.inSession h id secured act = s := State.negotiated_down hd _

variable (hu : s.doeUp h = true)
include hu

theorem State.negotiate_early {n : Nat} (hn : s.spdmStage h + 1 < n) (code : Nat) (body : List Byte) : s.negotiate h n code body = s.spdmError h 4 :=
  (if_neg (by rw [hu]; exact Bool.false_ne_true)).trans (if_pos hn)

theorem State.negotiate_moves {n : Nat} (hn : n ≤ s.spdmStage h + 1) (code : Nat) (body : List Byte) :
    s.negotiate h n code body = (s.setSpdmStage h n).spdm h code body :=
  (if_neg (by rw [hu]; exact Bool.false_ne_true)).trans (if_neg (Nat.not_lt.mpr hn))

theorem State.negotiated_early (hs : s.spdmStage h ≠ 3) (act : State → State) : s.negotiated h act = s.spdmError h 4 :=
  (if_neg (by rw [hu]; exact Bool.false_ne_true)).trans (if_pos (bne_iff_ne.mpr hs))

variable (hs : s.spdmStage h = 3)
include hs

theorem State.negotiated_ready (act : State → State) : s.negotiated h act = act s :=
  (if_neg (by rw [hu]; exact Bool.false_ne_true)).trans (if_neg (by rw [hs]; exact Bool.false_ne_true))

/-! ## Sessions (R276) -/

theorem State.inSession_none {id : BitVec 32} (hx : s.session? h id = none) (secured : Bool) (act : State → SpdmSession → State) :
    s.inSession h id secured act = s.spdmError h 2 := by
  rw [State.inSession, State.negotiated_ready hu hs, hx]

theorem State.inSession_acts {id : BitVec 32} {x : SpdmSession} (hx : s.session? h id = some x) {secured : Bool} (hsec : x.secured = secured)
    (act : State → SpdmSession → State) : s.inSession h id secured act = act s x := by
  rw [State.inSession, State.negotiated_ready hu hs, hx]
  exact if_pos (beq_iff_eq.mpr hsec)

theorem State.inSession_otherStage {id : BitVec 32} {x : SpdmSession} (hx : s.session? h id = some x) {secured : Bool} (hsec : x.secured ≠ secured)
    (act : State → SpdmSession → State) : s.inSession h id secured act = s.spdmError h 4 := by
  rw [State.inSession, State.negotiated_ready hu hs, hx]
  exact if_neg (by rwa [beq_iff_eq])

end Stage

/-- Out of its third stage NEGOTIATE_ALGORITHMS needs a common algorithm. -/
theorem State.algorithms_uncommon {s : State} {h : Nat} (hu : s.doeUp h = true) (hs : 2 ≤ s.spdmStage h) :
    ¬(false || !s.doeUp h || decide (s.spdmStage h < 2)) = true := by
  rw [hu, decide_eq_false (Nat.not_lt.mpr hs)]; decide

/-! ## Chains, random values and signatures (R276) -/

theorem State.certChain_one (s : State) : s.certChain 1 = [] := if_neg (fun h => absurd h.1 Nat.one_ne_zero)

theorem State.withChain_empty {s : State} {slot : Nat} (hc : s.certChain slot = []) (h : Nat) (act : State → List Byte → State) :
    s.withChain h slot act = s.spdmError h 1 := if_pos (List.isEmpty_iff.mpr hc)

theorem State.withChain_held {s : State} {slot : Nat} (hc : s.certChain slot ≠ []) (h : Nat) (act : State → List Byte → State) :
    s.withChain h slot act = act s (s.certChain slot) := if_neg (by rwa [List.isEmpty_iff])

theorem State.withNonce_drawn {s : State} (he : s.entropy = true) (h : Nat) (act : State → List Byte → State) :
    s.withNonce h act = act (s.drbg 32).2 (s.drbg 32).1 := if_neg (by rw [he]; exact Bool.false_ne_true)

theorem State.spdmSigned_seeded {s : State} (hs : s.seedErased = false) (h code : Nat) (body : List Byte) :
    s.spdmSigned h code body = s.spdm h code (body ++ slice (Config.signEcdsa s.seed body) 0 96) := if_neg (Bool.eq_false_iff.mp hs)

/-- The response of GET_DIGESTS: the mask of the slots with a chain, and the digest of each. -/
def State.digests (s : State) : List Byte :=
  toLE 1 (flag (!(s.certChain 0).isEmpty) + 2 * flag (!(s.certChain 1).isEmpty)) ++
    [0, 1].flatMap (fun i => if (s.certChain i).isEmpty then [] else slice (Config.sha384 (s.certChain i)) 0 48)

theorem State.digests_none {s : State} (h : s.certChain 0 = []) : s.digests = [0] := by
  simp only [State.digests, h, s.certChain_one, List.isEmpty_nil, List.flatMap_cons, List.flatMap_nil, if_true]
  rfl

theorem State.digests_manufacture {s : State} (h : s.certChain 0 ≠ []) : s.digests = [1] ++ slice (Config.sha384 (s.certChain 0)) 0 48 := by
  have he : (s.certChain 0).isEmpty = false := by rwa [Bool.eq_false_iff, Ne, List.isEmpty_iff]
  simp only [State.digests, he, s.certChain_one, List.isEmpty_nil, List.flatMap_cons, List.flatMap_nil, if_true, Bool.false_eq_true, if_false,
    List.append_nil]
  rfl

/-- A session of a port is opened, its handshake not yet complete. -/
def State.withSession (s : State) (h id : Nat) : State :=
  { s with vlt := { s.vlt with sessions := s.vlt.sessions ++ [⟨h, id, false, 0⟩] } }

theorem State.withSession_seedErased (s : State) (h id : Nat) : (s.withSession h id).seedErased = s.seedErased := rfl

/-! ## Certificates, measurements and key exchange (R276, R277) -/

section Ready
variable {s : State} {h : Fin 16} (hu : s.doeUp h.val = true) (hs : s.spdmStage h.val = 3)
include hu hs

theorem exec_getDigests_ready : exec (.getDigests h) s = .next (s.spdm h.val 0x01 s.digests) := next_of (State.negotiated_ready hu hs _)

theorem exec_getCertificate_empty {slot : BitVec 4} (hc : s.certChain slot.toNat = []) (o n : BitVec 16) :
    exec (.getCertificate h slot o n) s = .next (s.spdmError h.val 1) :=
  next_of ((State.negotiated_ready hu hs _).trans (State.withChain_empty hc _ _))

theorem exec_getCertificate_portion {slot : BitVec 4} {o n : BitVec 16} {m : Nat} (ho : o.toNat < (s.certChain slot.toNat).length)
    (hm : m = min n.toNat ((s.certChain slot.toNat).length - o.toNat)) :
    exec (.getCertificate h slot o n) s = .next (s.spdm h.val 0x02 (toLE 1 slot.toNat ++ toLE 2 m ++
      toLE 2 ((s.certChain slot.toNat).length - o.toNat - m) ++ slice (s.certChain slot.toNat) o.toNat m)) := by
  subst hm
  have hc : s.certChain slot.toNat ≠ [] := List.ne_nil_of_length_pos (Nat.zero_lt_of_lt ho)
  exact next_of ((State.negotiated_ready hu hs _).trans ((State.withChain_held hc _ _).trans (if_neg (Nat.not_le.mpr ho))))

theorem exec_challenge_signed {slot : BitVec 4} {nonce : BitVec 256} {body : List Byte} (hc : s.certChain slot.toNat ≠ []) (he : s.entropy = true)
    (hz : (s.drbg 32).2.seedErased = false)
    (hb : body = toLE 1 slot.toNat ++ slice (Config.sha384 (s.certChain slot.toNat)) 0 48 ++ (s.drbg 32).1 ++ toLE 32 nonce.toNat) :
    exec (.challenge h slot nonce) s =
      .next ((s.drbg 32).2.spdm h.val 0x03 (body ++ slice (Config.signEcdsa (s.drbg 32).2.seed body) 0 96)) := by
  subst hb
  exact next_of ((State.negotiated_ready hu hs _).trans ((State.withChain_held hc _ _).trans ((State.withNonce_drawn he _ _).trans
    (State.spdmSigned_seeded hz _ _ _))))

theorem exec_getMeasurements_count (nonce : BitVec 256) : exec (.getMeasurements h 0 nonce) s = .next (s.spdm h.val 0x60 (toLE 1 7)) :=
  next_of (State.negotiated_ready hu hs _)

theorem exec_getMeasurements_beyond {i : BitVec 8} (h7 : 7 < i.toNat) (h255 : i.toNat ≠ 255) (nonce : BitVec 256) :
    exec (.getMeasurements h i nonce) s = .next (s.spdmError h.val 1) :=
  next_of ((State.negotiated_ready hu hs _).trans ((if_neg (by omega)).trans (if_pos ⟨h7, h255⟩)))

theorem exec_getMeasurements_signed {i : BitVec 8} {nonce : BitVec 256} {body : List Byte} (h1 : 1 ≤ i.toNat) (h7 : i.toNat ≤ 7)
    (he : s.entropy = true) (hz : (s.drbg 32).2.seedErased = false)
    (hb : body = toLE 1 i.toNat ++ toLE 2 ((s.drbg 32).2.measurement i.toNat).length ++ (s.drbg 32).2.measurement i.toNat ++ (s.drbg 32).1 ++
      toLE 32 nonce.toNat) :
    exec (.getMeasurements h i nonce) s =
      .next ((s.drbg 32).2.spdm h.val 0x60 (body ++ slice (Config.signEcdsa (s.drbg 32).2.seed body) 0 96)) := by
  subst hb
  refine next_of ((State.negotiated_ready hu hs _).trans ((if_neg (by omega)).trans ((if_neg (by omega)).trans ((State.withNonce_drawn he _ _).trans ?_))))
  dsimp only
  rw [if_neg (show ¬ i.toNat = 255 by omega), List.flatMap_singleton]
  exact State.spdmSigned_seeded hz _ _ _

theorem exec_keyExchange_limit {e : List Byte} (hl : e.length = 96) (hn : 4 ≤ (s.vlt.sessions.filter (fun x => x.port == h.val)).length)
    (slot : BitVec 4) : exec (.keyExchange h slot e) s = .next (s.spdmError h.val 0x0A) :=
  next_of ((State.negotiated_ready hu hs _).trans ((if_neg (by rw [hl]; decide)).trans (if_pos hn)))

/-- A session is opened with an identifier drawn last, and answered under the identity key. -/
theorem exec_keyExchange_opens {e : List Byte} {slot : BitVec 4} {a u : State} (hl : e.length = 96)
    (hn : (s.vlt.sessions.filter (fun x => x.port == h.val)).length < 4) (hc : s.certChain slot.toNat ≠ []) (he : s.entropy = true)
    (ha : a = (s.drbg 32).2) (hza : a.seedErased = false) (huu : u = (a.drbg 48).2.drew) (hzu : u.seedErased = false) :
    ∃ body, exec (.keyExchange h slot e) s = .next (State.spdm { u with vlt := { u.vlt with
      sessions := u.vlt.sessions ++ [⟨h, (a.drbg 48).2.free.toNat % 2 ^ 32, false, 0⟩] } } h.val 0x64
        (body ++ slice (Config.signEcdsa u.seed body) 0 96)) := by
  subst ha huu
  exact ⟨_, next_of ((State.negotiated_ready hu hs _).trans ((if_neg (by rw [hl]; decide)).trans ((if_neg (Nat.not_le.mpr hn)).trans
    ((State.withChain_held hc _ _).trans ((State.withNonce_drawn he _ _).trans ((if_neg (Bool.eq_false_iff.mp hza)).trans
      (State.spdmSigned_seeded ((State.withSession_seedErased _ h.val (((s.drbg 32).2.drbg 48).2.free.toNat % 2 ^ 32)).trans hzu) _ _ _)))))))⟩

end Ready

/-! ## IDE keys (R277, R309) -/

section Ide
variable {s : State} {h : Nat} {t : IdeTarget}

theorem State.keyProg_badKey {key : List Byte} (hk : key.length ≠ 32) : s.keyProg h t key = s.ideKm h 3 t 1 := if_pos (bne_iff_ne.mpr hk)

theorem State.keyProg_loads {key : List Byte} (hk : key.length = 32) (hp : t.port.val = h) (hl : s.linkExists h t.link.val = true)
    (hn : (s.linkStreams t).length < 4) : s.keyProg h t key = (s.setIde t { key := key, go := false }).ideKm h 3 t 0 := by
  have hroom : ¬(!(s.linkStreams t).contains t.stream && decide (4 ≤ (s.linkStreams t).length)) = true := by
    rw [decide_eq_false (Nat.not_le.mpr hn), Bool.and_false]; exact Bool.false_ne_true
  simp only [State.keyProg, hk, hp, hl, bne_self_eq_false, Bool.not_true, Bool.or_self, Bool.false_eq_true, if_false, if_neg hroom]

variable (hp : t.port.val = h)
include hp

theorem State.keyGo_key {k : IdeKey} (hk : s.ideFind t = some k) (go : Bool) :
    s.keyGo h t go = ((s.setIde t { k with go := go }).releaseHeld (4 * h + t.link.val)).ideKm h 6 t 0 := by
  simp only [State.keyGo, hp, beq_self_eq_true, if_true, hk]

theorem State.keyGo_none (hk : s.ideFind t = none) (go : Bool) : s.keyGo h t go = s.ideKm h 6 t 0 := by
  simp only [State.keyGo, hp, beq_self_eq_true, if_true, hk]

end Ide

/-- Settles O35: a request by its stage, what it needs there, and the session it acts in. -/
theorem spdmResponder : Obligations.SpdmResponder := by
  unfold Obligations.SpdmResponder
  refine ⟨?negotiation, ?down, fun s h slot nonce hu hs => ⟨next_of (State.negotiated_early hu hs _), next_of (State.negotiated_early hu hs _)⟩, ?ready⟩
  case negotiation =>
    intro s h hu
    refine ⟨next_of (State.negotiate_moves hu (Nat.le_add_left _ _) _ _), fun hs => next_of (State.negotiate_moves hu (Nat.succ_le_succ hs) _ _),
      fun hs => next_of (State.negotiate_early hu (by rw [hs]; decide) _ _), fun hs => ⟨?_, ?_⟩⟩
    · exact next_of ((if_pos rfl).trans (State.negotiate_moves hu (Nat.succ_le_succ hs) _ _))
    · exact next_of (if_neg (State.algorithms_uncommon hu hs))
  case down =>
    intro s h slot o n nonce i e x t key hd
    have hnegotiate := fun n code body => next_of (State.negotiate_down hd n code body)
    have hnegotiated := fun act => next_of (State.negotiated_down hd act)
    exact ⟨hnegotiate _ _ _, hnegotiate _ _ _, hnegotiated _, hnegotiated _, hnegotiated _, hnegotiated _, hnegotiated _, hnegotiated _, hnegotiated _,
      hnegotiated _, hnegotiated _, hnegotiated _, hnegotiated _, hnegotiated _⟩
  case ready =>
    intro s h hu hs
    have hdigests := exec_getDigests_ready hu hs
    refine ⟨fun hc => hdigests.trans (by rw [State.digests_none hc]), fun hc => hdigests.trans (by rw [State.digests_manufacture hc]),
      fun slot o n hc => exec_getCertificate_empty hu hs hc o n, fun slot o n m => exec_getCertificate_portion hu hs,
      fun slot nonce body => exec_challenge_signed hu hs, exec_getMeasurements_count hu hs,
      fun i nonce h7 h255 => exec_getMeasurements_beyond hu hs h7 h255 nonce, fun i nonce body => exec_getMeasurements_signed hu hs,
      fun slot e hl hn => exec_keyExchange_limit hu hs hl hn slot, fun slot e a u => exec_keyExchange_opens hu hs, ?noSession, ?handshake, ?secured⟩
    case noSession =>
      exact fun id hx => ⟨next_of (State.inSession_none hu hs hx _ _), next_of (State.inSession_none hu hs hx _ _)⟩
    case handshake =>
      intro id x hx hsec
      exact ⟨next_of (State.inSession_acts hu hs hx hsec _),
        next_of (State.inSession_otherStage hu hs hx (by rw [hsec]; exact Bool.false_ne_true) _)⟩
    case secured =>
      intro id x t hx hsec
      have hacts := fun act => State.inSession_acts hu hs hx hsec act
      exact ⟨next_of (hacts _), next_of (hacts _), next_of (hacts _), rfl, fun key hk => next_of ((hacts _).trans (State.keyProg_badKey hk)),
        fun key hk hp hl hn => next_of ((hacts _).trans (State.keyProg_loads hk (congrArg Fin.val hp) hl hn)),
        fun k hp hk => ⟨next_of ((hacts _).trans (State.keyGo_key (congrArg Fin.val hp) hk true)),
          next_of ((hacts _).trans (State.keyGo_key (congrArg Fin.val hp) hk false))⟩,
        fun hp hk => next_of ((hacts _).trans (State.keyGo_none (congrArg Fin.val hp) hk true))⟩

end Sys2Proof.Machine
end

section
/-! PROOF. Memory requests and completions of a host link (R295 to R310): each request by where it decodes, each completion by the read that waits on its tag. -/

namespace Sys2Proof.Machine

/-! ## Memory requests (R295, R300, R310) -/

section Request
variable {s : State} {l : Nat} {t : HostTlp}

theorem State.hostTlp_down (h : (s.hostLink l).up = false ∨ s.dev.earlyUp = false) : s.hostTlp l t = s :=
  if_pos (by rcases h with h | h <;> simp [h])

theorem State.hostUnsupported_write (s : State) (l : Nat) (h : t.write = true) : s.hostUnsupported l t = (s.bump .HEP_UR_SENT l).aer l 0 7 := if_pos h

theorem State.hostUnsupported_read (s : State) (l : Nat) (h : t.write = false) :
    s.hostUnsupported l t = ((s.bump .HEP_UR_SENT l).aer l 0 7).complete l 1 [] :=
  if_neg (Bool.eq_false_iff.mp h)

variable (hup : (s.hostLink l).up = true) (he : s.dev.earlyUp = true)
include hup he

theorem State.hostTlp_up : s.hostTlp l t =
    if t.stream.isSome && !t.ideOk then s.streamFails l ((t.stream.map (·.val)).getD 0)
    else if t.write && t.poisoned then (s.bump .HEP_POISONED_RX l).aer l 0 4
    else if s.flagAt Fld.HEP_IDE_CTRL_REQUIRED l && s.outsideIde l t then s.hostUnsupported l t
    else match s.decodeHost l t.addr.toNat with
      | .pf0 off => s.pf0Tlp l off t
      | .pf1 off => s.pf1Tlp l off t
      | .peer off => s.peerTlp l off t
      | .none => s.hostUnsupported l t :=
  if_neg (by rw [hup, he]; exact Bool.false_ne_true)

theorem State.hostTlp_checkFails {i : Fin 4} (hs : t.stream = some i) (hi : t.ideOk = false) : s.hostTlp l t = s.streamFails l i := by
  rw [State.hostTlp_up hup he, hs, hi]
  rfl

variable (hc : t.stream = none ∨ t.ideOk = true)
include hc

theorem State.hostTlp_checked : s.hostTlp l t =
    if t.write && t.poisoned then (s.bump .HEP_POISONED_RX l).aer l 0 4
    else if s.flagAt Fld.HEP_IDE_CTRL_REQUIRED l && s.outsideIde l t then s.hostUnsupported l t
    else match s.decodeHost l t.addr.toNat with
      | .pf0 off => s.pf0Tlp l off t
      | .pf1 off => s.pf1Tlp l off t
      | .peer off => s.peerTlp l off t
      | .none => s.hostUnsupported l t :=
  (State.hostTlp_up hup he).trans (if_neg (by rcases hc with h | h <;> simp [h]))

theorem State.hostTlp_poisoned (hw : t.write = true) (hp : t.poisoned = true) : s.hostTlp l t = (s.bump .HEP_POISONED_RX l).aer l 0 4 :=
  (State.hostTlp_checked hup he hc).trans (if_pos (by rw [hw, hp]; rfl))

variable (hp : t.poisoned = false)
include hp

theorem State.hostTlp_clean : s.hostTlp l t =
    if s.flagAt Fld.HEP_IDE_CTRL_REQUIRED l && s.outsideIde l t then s.hostUnsupported l t
    else match s.decodeHost l t.addr.toNat with
      | .pf0 off => s.pf0Tlp l off t
      | .pf1 off => s.pf1Tlp l off t
      | .peer off => s.peerTlp l off t
      | .none => s.hostUnsupported l t :=
  (State.hostTlp_checked hup he hc).trans (if_neg (by simp [hp]))

theorem State.hostTlp_outside (hr : s.flagAt Fld.HEP_IDE_CTRL_REQUIRED l = true) (ho : s.outsideIde l t = true) :
    s.hostTlp l t = s.hostUnsupported l t :=
  (State.hostTlp_clean hup he hc hp).trans (if_pos (by rw [hr, ho]; rfl))

theorem State.hostTlp_taken (hr : s.flagAt Fld.HEP_IDE_CTRL_REQUIRED l = false ∨ s.outsideIde l t = false) : s.hostTlp l t =
    match s.decodeHost l t.addr.toNat with
      | .pf0 off => s.pf0Tlp l off t
      | .pf1 off => s.pf1Tlp l off t
      | .peer off => s.peerTlp l off t
      | .none => s.hostUnsupported l t :=
  (State.hostTlp_clean hup he hc hp).trans (if_neg (by rcases hr with h | h <;> simp [h]))

end Request

/-- A function whose memory space is off, or under reset, decodes nothing (R295, R308). -/
theorem Func.decodes_off {f : Func} (h : f.mse = false ∨ f.flr = true) : f.decodes = false := by
  rcases h with h | h <;> simp [Func.decodes, h]

theorem State.decodeHost_off {s : State} {l : Nat} (h0 : (s.hostLink l).pf0.mse = false ∨ (s.hostLink l).pf0.flr = true)
    (h1 : (s.hostLink l).pf1.mse = false) (a : Nat) : s.decodeHost l a = .none := by
  simp only [State.decodeHost, Func.decodes_off h0, Func.decodes_off (.inl h1), Bool.false_and, Bool.false_eq_true, if_false]

/-! ## The windows (R85, R296, R298) -/

section Windows
variable {s : State} {l o : Nat} {t : HostTlp}

theorem State.pf0Tlp_write (hw : t.write = true) :
    s.pf0Tlp l o t = s.pf0Write (l / 4) (l % 4) o (sizeOfLen t.data.length) (BitVec.ofNat 64 (leNat t.data)) := if_pos hw

theorem State.pf0Tlp_read (hw : t.write = false) {v : Word} {u : State} (h : s.pf0Read (l / 4) (l % 4) o (sizeOfLen t.len.toNat) = (v, u)) :
    s.pf0Tlp l o t = u.complete l 0 (toLE t.len.toNat v.toNat) :=
  (if_neg (Bool.eq_false_iff.mp hw)).trans (by rw [h]; rfl)

theorem State.pf1Tlp_hiddenRead (hh : s.pf1Hidden l = true) (hw : t.write = false) :
    s.pf1Tlp l o t = s.complete l 0 (List.replicate t.len.toNat 0xFF) :=
  (if_pos hh).trans (if_neg (Bool.eq_false_iff.mp hw))

section Slices
variable (hh : s.pf1Hidden l = false) (ho : 65536 ≤ o)
include hh ho

theorem State.pf1Tlp_sliceWrite {n : Nat} (hn : s.sliceAt l (o / 65536) = some n) (hw : t.write = true) :
    s.pf1Tlp l o t = s.sliceWrite n (o % 65536) (sizeOfLen t.data.length) (BitVec.ofNat 64 (leNat t.data)) := by
  simp only [State.pf1Tlp, hh, Bool.false_eq_true, if_neg (Nat.not_lt.mpr ho), hn, hw, if_true, if_false]

theorem State.pf1Tlp_noSlice (hn : s.sliceAt l (o / 65536) = none) (hw : t.write = false) :
    s.pf1Tlp l o t = s.complete l 0 (List.replicate t.len.toNat 0) := by
  simp only [State.pf1Tlp, hh, Bool.false_eq_true, if_neg (Nat.not_lt.mpr ho), hn, hw, if_false]

end Slices

theorem State.peerTlp_beyond (hh : s.pf1Hidden l = false) (hs : s.dev.state = .STAGE) (hw : t.write = true)
    (hb : 1048576 * s.fld Fld.SLC_PEER_SHARE_SIZE_MIB l < o + t.data.length) : s.peerTlp l o t = s.hostUnsupported l t := by
  simp only [State.peerTlp, hh, hs, hw, Bool.false_eq_true, if_false, if_true, bne_self_eq_false, if_pos hb]

end Windows

/-! ## Completions (R303 to R306, R309) -/

section Completion
variable {s : State} {l tag : Nat} {c : CplPiece}

theorem State.completion_checked (hi : c.ideOk = true) : s.completion l tag c = s.completionPiece l tag c := if_pos hi

theorem State.completion_checkFails {i : Fin 4} (hi : c.ideOk = false) (hs : c.stream = some i) : s.completion l tag c = s.streamFails l i :=
  (if_neg (Bool.eq_false_iff.mp hi)).trans (by rw [hs])

theorem State.completionPiece_unknown (h : s.readOf (l / 4) tag = none) : s.completionPiece l tag c = s.discardPiece l := by
  simp only [State.completionPiece, h]

variable {r : HostRead} {q : ReadReq} (hr : s.readOf (l / 4) tag = some r) (hq : r.reqs.find? (fun q => q.tag == tag && !q.done) = some q)
include hr hq

theorem State.completionPiece_disagrees (hi : c.idsAgree = false) : s.completionPiece l tag c = s.discardPiece l := by
  simp only [State.completionPiece, hr, hq, hi, Bool.not_false, Bool.or_true, if_true]

variable (hl : r.want.link = l) (hi : c.idsAgree = true) (hs : c.status = .success) (hb : c.byteCount.toNat ≤ q.len)
  (hd : q.len - c.byteCount.toNat + c.data.length ≤ q.len) (hne : c.data ≠ [])
include hl hi hs hb hd hne

theorem State.completionPiece_put {u : State} (hu : u = s.setRead (l / 4) tag (fun r => r.mapTag tag (fun _ => { q with
      data := putPiece q.data (q.len - c.byteCount.toNat) c.data
      done := q.len == 0 || (putPiece q.data (q.len - c.byteCount.toNat) c.data).all (·.isSome) }))) :
    s.completionPiece l tag c =
      match u.hep.reads.find? (fun x => x.want == r.want && x.ended && !x.failed && x.reqs.any (fun y => y.tag == tag)) with
      | some x => u.readDone x
      | none => u := by
  have hfit : (q.len != 0 && (decide (q.len < c.byteCount.toNat) || decide (q.len < q.len - c.byteCount.toNat + c.data.length) || c.data.isEmpty)) = false := by
    rw [decide_eq_false (Nat.not_lt.mpr hb), decide_eq_false (Nat.not_lt.mpr hd), List.isEmpty_eq_false_iff.mpr hne]
    exact Bool.and_false _
  subst hu
  simp only [State.completionPiece, hr, hq, hl, hi, hs, bne_self_eq_false, Bool.not_true, Bool.or_self, Bool.false_eq_true, if_false, hfit]
  rfl

end Completion

section Timeout
variable {s : State} {l tag : Nat}

theorem State.completionTimeout_unknown (h : s.readOf (l / 4) tag = none) : s.completionTimeout l tag = s := by
  simp only [State.completionTimeout, h]

variable {r : HostRead} {q : ReadReq} (hr : s.readOf (l / 4) tag = some r) (hq : r.reqs.find? (fun q => q.tag == tag && !q.done) = some q)
  (hl : r.want.link = l)
include hr hq hl

omit hl in
theorem State.completionTimeout_early (h : s.elapsed < q.limit) : s.completionTimeout l tag = s := by
  simp only [State.completionTimeout, hr, hq, h, decide_true, Bool.or_true, if_true]

theorem State.completionTimeout_due (h : q.limit ≤ s.elapsed) (hf : r.failed = false) : s.completionTimeout l tag =
    ((((s.bump .HEP_CPL_TIMEOUT l).aer l 1 3).failReads (fun x => x == r)).retireTag l tag).readFailed r.want := by
  simp only [State.completionTimeout, hr, hq, hl, hf, bne_self_eq_false, decide_eq_false (Nat.not_lt.mpr h), Bool.or_self, Bool.false_eq_true, if_false,
    aerTimeout]

end Timeout

/-- Settles O37: a memory request is decided by the link, the checks of IDE and poison, and then by the window it decodes in; a completion
piece and a timeout by the read that waits on the tag. -/
theorem hostRequests : Obligations.HostRequests := by
  unfold Obligations.HostRequests
  refine ⟨?down, ?checkFails, ?checked, ?unsupported, ?decodesNot, ?unknown, ?disagrees, ?piece, ?cplFails, ?noTimer, ?timer, ?quarantine⟩
  case down => exact fun s l t h => next_settled (State.hostTlp_down h)
  case checkFails => exact fun s l t i hup he hs hi => next_settled (State.hostTlp_checkFails hup he hs hi)
  case checked =>
    intro s l t hup he hc
    refine ⟨?poisoned, ?outside, ?taken⟩
    case poisoned => exact fun hw hp => next_settled (State.hostTlp_poisoned hup he hc hw hp)
    case outside => exact fun hp hr ho => next_settled (State.hostTlp_outside hup he hc hp hr ho)
    case taken =>
      intro hp hr
      have go := State.hostTlp_taken hup he hc hp hr
      refine ⟨?none, ?pf0Write, ?pf0Read, ?sliceWrite, ?hidden, ?noSlice, ?peer⟩
      case none => exact fun hd => next_settled (by rw [go, hd])
      case pf0Write => exact fun o hd hw => next_settled (by rw [go, hd]; exact State.pf0Tlp_write hw)
      case pf0Read => exact fun o v u hd hw h => next_settled (by rw [go, hd]; exact State.pf0Tlp_read hw h)
      case sliceWrite => exact fun o n hd hh ho hn hw => next_settled (by rw [go, hd]; exact State.pf1Tlp_sliceWrite hh ho hn hw)
      case hidden => exact fun o hd hh hw => next_settled (by rw [go, hd]; exact State.pf1Tlp_hiddenRead hh hw)
      case noSlice => exact fun o hd hh ho hn hw => next_settled (by rw [go, hd]; exact State.pf1Tlp_noSlice hh ho hn hw)
      case peer => exact fun o hd hh hs hw hb => next_settled (by rw [go, hd]; exact State.peerTlp_beyond hh hs hw hb)
  case unsupported => exact fun s l t => ⟨State.hostUnsupported_write s l, State.hostUnsupported_read s l⟩
  case decodesNot => exact fun s l a h0 h1 => State.decodeHost_off h0 h1 a
  case unknown => exact fun s l tag c h hi => next_settled ((State.completion_checked hi).trans (State.completionPiece_unknown h))
  case disagrees =>
    exact fun s l tag c r q hr hq hi ha => next_settled ((State.completion_checked hi).trans (State.completionPiece_disagrees hr hq ha))
  case piece =>
    intro s l tag c r q u hr hq hi hl ha hs hb hd hne hu
    have put := (State.completion_checked hi).trans (State.completionPiece_put hr hq hl ha hs hb hd hne hu)
    exact ⟨fun hx => next_settled (by rw [put, hx]), fun x hx => next_settled (by rw [put, hx])⟩
  case cplFails => exact fun s l tag c i hi hs => next_settled (State.completion_checkFails hi hs)
  case noTimer => exact fun s l tag h => next_settled (State.completionTimeout_unknown h)
  case timer =>
    exact fun s l tag r q hr hq hl => ⟨fun h => next_settled (State.completionTimeout_early hr hq h),
      fun h hf => next_settled (State.completionTimeout_due hr hq hl h hf)⟩
  case quarantine => exact fun s h tag => rfl

end Sys2Proof.Machine
end

section
/-! PROOF. Tenant slices (R316 to R328): the commands of SLC_CMD, the grant and share registers as a write of the SLC block takes them, automatic
restart, and the hello. -/

namespace Sys2Proof.Machine

/-! ## Writes of the SLC block (R331) -/

theorem State.performWrite_slc (s : State) (r : Requester) {reg : RegName} (hb : reg.info.block = .SLC) (i : Nat) (value mask : Word) :
    s.performWrite r reg i value mask = s.writeSlc (s.writeSeen reg i value mask) := by
  simp only [State.performWrite, hb]; rfl

/-- A command word carries its operation and its slice. -/
theorem sliceCmd_fields {op : Nat} (h : op < 8) (n : BitVec 12) :
    fieldOf ((sliceCmd op n).setWidth 64 &&& lowMask) 0 3 = op ∧ fieldOf ((sliceCmd op n).setWidth 64 &&& lowMask) 8 12 = n.toNat := by
  have hn := n.isLt
  rw [and_lowMask, fieldOf_setWidth, fieldOf_setWidth, sliceCmd, BitVec.toNat_ofNat]
  unfold bits
  omega

section Command
variable {s u : State} {r : Requester} (h : s.admitWrite r .SLC_CMD 0 = (true, u)) (n : BitVec 12)
include h

/-- An admitted command is carried out. -/
theorem State.write32_sliceCmd {op : Nat} (ho : op < 8) : s.write32 r .SLC_CMD 0 (sliceCmd op n) = u.sliceCommand op n.toNat := by
  obtain ⟨hop, hn⟩ := sliceCmd_fields ho n
  refine (State.directWrite_undomained h rfl _ _).trans ((State.performWrite_slc u r rfl 0 _ _).trans ?_)
  refine (if_neg (show ¬ sliceZero .SLC_CMD 0 = true by decide)).trans ?_
  exact congrArg₂ u.sliceCommand hop hn

theorem exec_createSlice : exec (.createSlice r n) s = .next (u.createSlice n.toNat) := next_of (State.write32_sliceCmd h n (op := 1) (by decide))
theorem exec_stopSlice : exec (.stopSlice r n) s = .next (u.stopCommand n.toNat).settleAll :=
  next_settled (State.write32_sliceCmd h n (op := 2) (by decide))
theorem exec_startSlice : exec (.startSlice r n) s = .next (u.startCommand n.toNat) := next_of (State.write32_sliceCmd h n (op := 3) (by decide))
theorem exec_removeSlice : exec (.removeSlice r n) s = .next (u.removeSlice n.toNat).settleAll :=
  next_settled (State.write32_sliceCmd h n (op := 4) (by decide))

end Command

/-! ## CREATE, STOP, START and REMOVE (R316, R318) -/

section Commands
variable {u : State} {n : Nat}

theorem State.createSlice_fails {c : Nat} (h : u.createFails n = some c) : u.createSlice n = u.slcStatus c := by
  simp only [State.createSlice, h]

/-- The callboard slots of a slice cleared (R401). -/
def State.sliceSlotsCleared (u : State) (n : Nat) : State :=
  { u with cbd := { u.cbd with slots := SMap.set slotWord (2 * n) 0 (SMap.set slotWord (2 * n + 1) 0 u.cbd.slots) } }

theorem State.createSlice_binds (h : u.createFails n = none) {w x : State}
    (hw : w = (u.setFld Fld.SLC_SLICE_STATE_STATE n 1).setFld Fld.SLC_SLICE_STATE_FORMAT n 0)
    (hx : x = (w.sliceQueues n).foldl (fun s g => s.setQueue g { s.queue g with state := .DISABLED }) w) :
    u.createSlice n = (x.sliceSlotsCleared n).slcStatus 0 := by
  subst hw hx
  simp only [State.createSlice, h]
  rfl

theorem State.createFails_zero (u : State) : u.createFails 0 = some 1 := by
  simp only [State.createFails, if_true, Code.MALFORMED]

theorem State.stopCommand_zero (u : State) : u.stopCommand 0 = u.slcStatus 1 := if_pos rfl
theorem State.startCommand_zero (u : State) : u.startCommand 0 = u.slcStatus 1 := if_pos rfl
theorem State.removeSlice_zero (u : State) : u.removeSlice 0 = u.slcStatus 1 := if_pos rfl

section Nonzero
variable (h0 : n ≠ 0)
include h0

theorem State.createFails_bound (h : u.sliceState n ≠ 0) : u.createFails n = some 0xE0 :=
  (if_neg h0).trans (if_pos (bne_iff_ne.mpr h))

theorem State.stopCommand_runs (h : u.sliceState n = 1) : u.stopCommand n = (u.stopSlice n false 0xF0).slcStatus 0 := (if_neg h0).trans (if_pos h)
theorem State.stopCommand_other (h : u.sliceState n ≠ 1) : u.stopCommand n = u.slcStatus 0xE0 := (if_neg h0).trans (if_neg h)

theorem State.startCommand_other (h : u.sliceState n ≠ 2) : u.startCommand n = u.slcStatus 0xE0 := (if_neg h0).trans (if_pos (bne_iff_ne.mpr h))

theorem State.startCommand_stopped (h : u.sliceState n = 2) :
    u.startCommand n = if u.stale n != 0 then u.slcStatus 0xE1 else (u.setFld Fld.SLC_SLICE_STATE_STATE n 1).slcStatus 0 := by
  simp only [State.startCommand, if_neg h0, h, bne_self_eq_false, Bool.false_eq_true, if_false, Code.OK]

theorem State.removeSlice_free (h : u.sliceState n = 0) : u.removeSlice n = u.slcStatus 0xE0 := (if_neg h0).trans (if_pos h)

theorem State.removeSlice_owns (h : u.sliceState n ≠ 0) (ho : u.sliceOwns n = true) : u.removeSlice n = u.slcStatus 0xE2 :=
  (if_neg h0).trans ((if_neg h).trans (if_pos ho))

theorem State.removeSlice_runs (h : u.sliceState n ≠ 0) (ho : u.sliceOwns n = false) {w : State} (hw : w = u.haltChannels (u.channelsOf n) 0xF0)
    (hr : w.sliceState n = 1) : u.removeSlice n =
      ((((w.leaveRunning n false).advance n).setFld Fld.SLC_SLICE_STATE_FORMAT n 0).setFld Fld.SLC_SLICE_STATE_STATE n 0).slcStatus 0 := by
  unfold State.removeSlice
  rw [if_neg h0, if_neg h, if_neg (Bool.eq_false_iff.mp ho)]
  dsimp only
  rw [← hw, if_pos hr]

end Nonzero

theorem State.stopSlice_runs (h : u.sliceState n = 1) {w v : State} {byHost : Bool} {status : Nat}
    (hw : w = (u.haltChannels (u.channelsOf n) status).leaveRunning n false) (hv : v = (w.advance n).setFld Fld.SLC_SLICE_STATE_FORMAT n 0) :
    u.stopSlice n byHost status = { v.setFld Fld.SLC_SLICE_STATE_STATE n 2 with
      slc := { (v.setFld Fld.SLC_SLICE_STATE_STATE n 2).slc with byHost := SMap.set pbaDefault n byHost (v.setFld Fld.SLC_SLICE_STATE_STATE n 2).slc.byHost } } := by
  subst hw hv
  simp only [State.stopSlice, h, OfNat.one_ne_ofNat, one_ne_zero, if_true, if_false]
  simp only [State.setFld_slc]

theorem State.advance_waits (h : (u.unitGens n).any (fun g => g != u.sliceGen n && g == (u.sliceGen n + 1) % 256) = true) : u.advance n = u := if_pos h

theorem State.advance_next (h : (u.unitGens n).any (fun g => g != u.sliceGen n && g == (u.sliceGen n + 1) % 256) = false) :
    u.advance n = u.setFld Fld.SLC_SLICE_STATE_GENERATION n ((u.sliceGen n + 1) % 256) := if_neg (Bool.eq_false_iff.mp h)

theorem State.autoRestart_runs (hs : u.sliceState n = 2) (ha : u.flagAt Fld.SLC_SLICE_STATE_AUTO_RESTART n = true) (hh : SMap.get pbaDefault u.slc.byHost n = true)
    (hb : (u.func (u.sliceLink n) 1).bme = true) (hp : (u.func (u.sliceLink n) 1).pasid = true) (hd : (u.func (u.sliceLink n) 1).d3 = false)
    (hf : (u.func (u.sliceLink n) 1).flr = false) (hl : (u.hostLink (u.sliceLink n)).up = true) (ht : u.stale n = 0) :
    u.autoRestart n = u.setFld Fld.SLC_SLICE_STATE_STATE n 1 :=
  if_pos (by simp only [hs, ha, hh, hb, hp, hd, hf, hl, ht, decide_true, beq_self_eq_true, Bool.not_false, Bool.and_self])

theorem State.autoRestart_stays (h : u.sliceState n ≠ 2 ∨ SMap.get pbaDefault u.slc.byHost n = false ∨ u.stale n ≠ 0) : u.autoRestart n = u :=
  if_neg (by rcases h with h | h | h <;> simp [h])

end Commands

/-! ## Grants and shares (R323, R324, R327) -/

theorem grantQ_allRW : RegName.SLC_GRANT_Q.allRW := by unfold RegName.allRW FieldInfo.apart; decide
theorem grantR_allRW : RegName.SLC_GRANT_R.allRW := by unfold RegName.allRW FieldInfo.apart; decide
theorem sliceWeight_allRW : RegName.SLC_WEIGHT.allRW := by unfold RegName.allRW FieldInfo.apart; decide
theorem peerShare_allRW : RegName.SLC_PEER_SHARE.allRW := by unfold RegName.allRW FieldInfo.apart; decide

/-- What a grant write stores: the plain fields of a word written whole (R7), merged by the register's write and by the grant itself. -/
def State.grantStored (u : State) (reg : RegName) (n : Nat) (v : Word) : Word :=
  (u.writeSeen reg n (u.writeSeen reg n v wholeMask).new wholeMask).new

theorem State.grantStored_field (u : State) {reg : RegName} (h : reg.allRW) (n : Nat) (v : Word) {f : FieldInfo} (hf : f ∈ reg.info.fields) :
    fieldOf (u.grantStored reg n v) f.lo f.width = bits v.toNat f.lo f.width :=
  (u.writeSeen_allRW h n _ hf).trans (u.writeSeen_allRW h n v hf)

section Grant
variable {s u : State} {r : Requester} {n : BitVec 12} (h0 : n ≠ 0)
include h0

theorem sliceNumber_ne_zero : n.toNat ≠ 0 := fun h => h0 (BitVec.eq_of_toNat_eq h)

theorem sliceZero_ne {reg : RegName} : sliceZero reg n.toNat = false := by
  rw [sliceZero, beq_eq_false_iff_ne.mpr (sliceNumber_ne_zero h0), Bool.and_false]

section Queues
variable (h : s.admitWrite r .SLC_GRANT_Q n.toNat = (true, u)) (v : Word)
include h

theorem State.write64_grantQ : s.write64 r .SLC_GRANT_Q n.toNat v = u.grantWrite n.toNat .queues (u.writeSeen .SLC_GRANT_Q n.toNat v wholeMask).new :=
  (State.directWrite_undomained h rfl _ _).trans ((State.performWrite_slc u r rfl _ _ _).trans (if_neg (Bool.eq_false_iff.mp (sliceZero_ne h0))))

theorem exec_grantQ : exec (.grantWrite r n .queues v) s = .next
    (if (u.sliceState n.toNat != 0 && (!u.grantOk n.toNat (u.sliceLink n.toNat) (u.grantStored .SLC_GRANT_Q n.toNat v) (u.reg .SLC_GRANT_R n.toNat) ||
        (fieldOf (u.grantStored .SLC_GRANT_Q n.toNat v) 0 16 != fieldOf (u.reg .SLC_GRANT_Q n.toNat) 0 16 && !u.queuesOff n.toNat)))
      then u.slcRefused
      else (((if u.sliceState n.toNat != 0 then (u.sliceQueues n.toNat).drop (fieldOf (u.grantStored .SLC_GRANT_Q n.toNat v) 16 7) else []).foldl
        (fun s g => s.queueDisable g n.toNat) u).setReg .SLC_GRANT_Q n.toNat (u.grantStored .SLC_GRANT_Q n.toNat v))) :=
  next_of ((State.write64_grantQ h0 h v).trans (if_neg (sliceNumber_ne_zero h0)))

theorem exec_grantQ_free (hs : u.sliceState n.toNat = 0) :
    exec (.grantWrite r n .queues v) s = .next (u.setReg .SLC_GRANT_Q n.toNat (u.grantStored .SLC_GRANT_Q n.toNat v)) :=
  (exec_grantQ h0 h v).trans (next_of (by simp [hs]))

theorem exec_grantQ_invalid (hs : u.sliceState n.toNat ≠ 0)
    (hg : u.grantOk n.toNat (u.sliceLink n.toNat) (u.grantStored .SLC_GRANT_Q n.toNat v) (u.reg .SLC_GRANT_R n.toNat) = false) :
    exec (.grantWrite r n .queues v) s = .next u.slcRefused :=
  (exec_grantQ h0 h v).trans (next_of (if_pos (by simp [hs, hg])))

theorem exec_grantQ_bound (hs : u.sliceState n.toNat ≠ 0)
    (hg : u.grantOk n.toNat (u.sliceLink n.toNat) (u.grantStored .SLC_GRANT_Q n.toNat v) (u.reg .SLC_GRANT_R n.toNat) = true)
    (hb : fieldOf (u.grantStored .SLC_GRANT_Q n.toNat v) 0 16 = fieldOf (u.reg .SLC_GRANT_Q n.toNat) 0 16) :
    exec (.grantWrite r n .queues v) s = .next ((((u.sliceQueues n.toNat).drop (fieldOf (u.grantStored .SLC_GRANT_Q n.toNat v) 16 7)).foldl
      (fun s g => s.queueDisable g n.toNat) u).setReg .SLC_GRANT_Q n.toNat (u.grantStored .SLC_GRANT_Q n.toNat v)) :=
  (exec_grantQ h0 h v).trans (next_of (by rw [if_neg (by simp [hg, hb]), if_pos (bne_iff_ne.mpr hs)]))

end Queues

section Resources
variable (h : s.admitWrite r .SLC_GRANT_R n.toNat = (true, u)) (v : Word)
include h

theorem exec_grantR : exec (.grantWrite r n .resources v) s = .next
    (if (u.sliceState n.toNat != 0 && !u.grantOk n.toNat (u.sliceLink n.toNat) (u.reg .SLC_GRANT_Q n.toNat) (u.grantStored .SLC_GRANT_R n.toNat v))
      then u.slcRefused else u.setReg .SLC_GRANT_R n.toNat (u.grantStored .SLC_GRANT_R n.toNat v)) :=
  next_of ((State.directWrite_undomained h rfl _ _).trans ((State.performWrite_slc u r rfl _ _ _).trans
    ((if_neg (Bool.eq_false_iff.mp (sliceZero_ne h0))).trans (if_neg (sliceNumber_ne_zero h0)))))

theorem exec_grantR_invalid (hs : u.sliceState n.toNat ≠ 0)
    (hg : u.grantOk n.toNat (u.sliceLink n.toNat) (u.reg .SLC_GRANT_Q n.toNat) (u.grantStored .SLC_GRANT_R n.toNat v) = false) :
    exec (.grantWrite r n .resources v) s = .next u.slcRefused :=
  (exec_grantR h0 h v).trans (next_of (if_pos (by simp [hs, hg])))

theorem exec_grantR_stored
    (hg : u.sliceState n.toNat = 0 ∨ u.grantOk n.toNat (u.sliceLink n.toNat) (u.reg .SLC_GRANT_Q n.toNat) (u.grantStored .SLC_GRANT_R n.toNat v) = true) :
    exec (.grantWrite r n .resources v) s = .next (u.setReg .SLC_GRANT_R n.toNat (u.grantStored .SLC_GRANT_R n.toNat v)) :=
  (exec_grantR h0 h v).trans (next_of (if_neg (by rcases hg with hg | hg <;> simp [hg])))

end Resources

section Weight
variable (h : s.admitWrite r .SLC_WEIGHT n.toNat = (true, u)) (v : Word)
include h

theorem exec_weight : exec (.grantWrite r n .weight v) s = .next
    (if v.toNat % 2 ^ 16 = 0 then (if u.sliceState n.toNat != 0 then u.slcRefused else u)
      else u.setFld Fld.SLC_WEIGHT_WEIGHT n.toNat (v.toNat % 2 ^ 16)) := by
  have hw : fieldOf (u.writeSeen .SLC_WEIGHT n.toNat ((v.truncate 32).setWidth 64) lowMask).new 0 16 = v.toNat % 2 ^ 16 := by
    have hlow := u.writeSeen_low (f := ⟨0, 16, .RW, 1⟩) sliceWeight_allRW.1 (by decide) (.inl rfl) (by decide) n.toNat (v.truncate 32)
    refine hlow.trans ?_
    rw [BitVec.truncate_eq_setWidth, BitVec.toNat_setWidth, bits_mod (by decide), bits, Nat.pow_zero, Nat.div_one]
  refine next_of ((State.directWrite_undomained h rfl _ _).trans ((State.performWrite_slc u r rfl _ _ _).trans
    ((if_neg (Bool.eq_false_iff.mp (sliceZero_ne h0))).trans ?_)))
  rw [← hw]
  exact if_neg (sliceNumber_ne_zero h0)

theorem exec_weight_set (hv : v.toNat % 2 ^ 16 ≠ 0) :
    exec (.grantWrite r n .weight v) s = .next (u.setFld Fld.SLC_WEIGHT_WEIGHT n.toNat (v.toNat % 2 ^ 16)) :=
  (exec_weight h0 h v).trans (next_of (if_neg hv))

theorem exec_weight_refused (hv : v.toNat % 2 ^ 16 = 0) (hs : u.sliceState n.toNat ≠ 0) :
    exec (.grantWrite r n .weight v) s = .next u.slcRefused :=
  (exec_weight h0 h v).trans (next_of ((if_pos hv).trans (if_pos (bne_iff_ne.mpr hs))))

end Weight
end Grant

section Share
variable {s u : State} {r : Requester} {l : Fin 64} {v : Word} {b z : Nat} (h : s.admitWrite r .SLC_PEER_SHARE l = (true, u))
  (hb : b = bits v.toNat 0 20) (hz : z = bits v.toNat 32 20)
include h hb hz

theorem exec_peerShare : exec (.peerShareWrite r l v) s = .next
    (if ((List.range 64).any (fun m => m != l && overlap b z (u.fld Fld.SLC_PEER_SHARE_BASE_MIB m) (u.fld Fld.SLC_PEER_SHARE_SIZE_MIB m)) ||
        (z != 0 && decide (u.slc.peerMib < b + z))) then u.slcRefused
      else (u.setFld Fld.SLC_PEER_SHARE_BASE_MIB l b).setFld Fld.SLC_PEER_SHARE_SIZE_MIB l z) := by
  have hbase := u.writeSeen_allRW peerShare_allRW l v (f := ⟨0, 20, .RW, 0⟩) (by decide)
  have hsize := u.writeSeen_allRW peerShare_allRW l v (f := ⟨32, 20, .RW, 0⟩) (by decide)
  subst hb hz
  rw [← hbase, ← hsize]
  exact next_of ((State.directWrite_undomained h rfl _ _).trans ((State.performWrite_slc u r rfl _ _ _).trans (if_neg (by simp [sliceZero, State.writeSeen, RegName.info]))))

theorem exec_peerShare_refused
    (hc : (∃ m : Fin 64, m ≠ l ∧ overlap b z (u.fld Fld.SLC_PEER_SHARE_BASE_MIB m) (u.fld Fld.SLC_PEER_SHARE_SIZE_MIB m) = true) ∨
      (z ≠ 0 ∧ u.slc.peerMib < b + z)) : exec (.peerShareWrite r l v) s = .next u.slcRefused := by
  refine (exec_peerShare h hb hz).trans (next_of (if_pos (Bool.or_eq_true_iff.mpr ?_)))
  refine hc.imp (fun ⟨m, hm, ho⟩ => ?_) (fun ⟨hne, hlt⟩ => by rw [bne_iff_ne.mpr hne, decide_eq_true hlt]; rfl)
  exact List.any_eq_true.mpr ⟨m, List.mem_range.mpr m.isLt, by rw [bne_iff_ne.mpr (Fin.val_ne_of_ne hm), ho]; rfl⟩

theorem exec_peerShare_set
    (hc : ∀ m : Fin 64, m ≠ l → overlap b z (u.fld Fld.SLC_PEER_SHARE_BASE_MIB m) (u.fld Fld.SLC_PEER_SHARE_SIZE_MIB m) = false)
    (hr : z = 0 ∨ b + z ≤ u.slc.peerMib) :
    exec (.peerShareWrite r l v) s = .next ((u.setFld Fld.SLC_PEER_SHARE_BASE_MIB l b).setFld Fld.SLC_PEER_SHARE_SIZE_MIB l z) := by
  refine (exec_peerShare h hb hz).trans (next_of (if_neg ?_))
  rw [Bool.or_eq_true, not_or]
  refine ⟨fun ha => ?_, ?_⟩
  · obtain ⟨m, hm, ho⟩ := List.any_eq_true.mp ha
    obtain ⟨hne, hov⟩ := Bool.and_eq_true_iff.mp ho
    have hfree := hc ⟨m, List.mem_range.mp hm⟩ (fun he => bne_iff_ne.mp hne (congrArg Fin.val he))
    exact Bool.false_ne_true (hfree.symm.trans hov)
  · rcases hr with hr | hr <;> simp [hr]

end Share

/-! ## Hello (R328, R407) -/

section Hello
variable {s : State} {n : BitVec 12}

theorem State.sliceHello_waits (h : n = 0 ∨ s.cpcRuns = false ∨ slotFull (s.cbSlot (2 * n.toNat)) = false) : s.sliceHello n.toNat = s :=
  if_pos (by rcases h with h | h | h <;> simp [h])

variable (h0 : n ≠ 0) (hr : s.cpcRuns = true) (hl : s.leadCpc.isSome = true) (hf : slotFull (s.cbSlot (2 * n.toNat)) = true) {w : State}
  (hw : w = s.slotTaken (2 * n.toNat)) {k : Nat} (hk : k = fieldOf (s.cbSlot (2 * n.toNat)) 0 32)
include h0 hr hl hf hw hk

theorem State.sliceHello_taken : s.sliceHello n.toNat =
    if k % 256 = 1 then (w.setFld Fld.SLC_SLICE_STATE_FORMAT n.toNat (w.helloAnswer n.toNat k).1).slotPut (2 * n.toNat + 1) w.leadStamp
      (BitVec.ofNat 32 (w.helloAnswer n.toNat k).2)
    else w.slotPut (2 * n.toNat + 1) w.leadStamp (helloReply (w.fld Fld.SYS_PROTOCOLS_MGMT_MAX 0) Code.UNSUPPORTED) := by
  subst hw hk
  refine if_neg ?_
  rw [hr, hf, Option.isNone_eq_false_iff.mpr hl, decide_eq_false (sliceNumber_ne_zero h0)]
  decide

end Hello

/-- Settles O38: a command by the checks it meets in order, a grant or share write by what the written word would make of the grant or the share,
a restart by its conditions, a hello by the word in the slot. -/
theorem slices : Obligations.Slices := by
  unfold Obligations.Slices
  refine ⟨?commands, ?stop, ?advance, ?restart, ?grantQ, ?grantR, ?weight, ?share, ?hello, ?noHello⟩
  case commands =>
    intro s u r n h
    refine ⟨fun c hc => ?fails, fun w x hc hw hx => ?binds, ?zero, fun h0 => ?nonzero⟩
    case fails => exact (exec_createSlice h n).trans (next_of (State.createSlice_fails hc))
    case binds => exact (exec_createSlice h n).trans (next_of (State.createSlice_binds hc hw hx))
    case zero =>
      rintro rfl
      exact ⟨(exec_createSlice h 0).trans (next_of (State.createSlice_fails u.createFails_zero)), (exec_stopSlice h 0).trans (next_settled u.stopCommand_zero),
        (exec_startSlice h 0).trans (next_of u.startCommand_zero), (exec_removeSlice h 0).trans (next_settled u.removeSlice_zero)⟩
    case nonzero =>
      have hn := sliceNumber_ne_zero h0
      refine ⟨?stops, ?stopRefused, ?starts, ?startStale, ?startRefused, ?createRefused, ?removeFree, ?removeOwns, ?removes⟩
      case stops => exact fun hs => (exec_stopSlice h n).trans (next_settled (State.stopCommand_runs hn hs))
      case stopRefused => exact fun hs => (exec_stopSlice h n).trans (next_settled (State.stopCommand_other hn hs))
      case starts =>
        exact fun hs ht => (exec_startSlice h n).trans (next_of ((State.startCommand_stopped hn hs).trans (if_neg (by rw [ht]; decide))))
      case startStale =>
        exact fun hs ht => (exec_startSlice h n).trans (next_of ((State.startCommand_stopped hn hs).trans (if_pos (bne_iff_ne.mpr ht))))
      case startRefused => exact fun hs => (exec_startSlice h n).trans (next_of (State.startCommand_other hn hs))
      case createRefused => exact fun hs => (exec_createSlice h n).trans (next_of (State.createSlice_fails (State.createFails_bound hn hs)))
      case removeFree => exact fun hs => (exec_removeSlice h n).trans (next_settled (State.removeSlice_free hn hs))
      case removeOwns => exact fun hs ho => (exec_removeSlice h n).trans (next_settled (State.removeSlice_owns hn hs ho))
      case removes => exact fun w hs ho hw hr => (exec_removeSlice h n).trans (next_settled (State.removeSlice_runs hn hs ho hw hr))
  case stop => exact fun s w v n byHost status hs hw hv => State.stopSlice_runs hs hw hv
  case advance => exact fun s n => ⟨State.advance_waits, State.advance_next⟩
  case restart =>
    exact fun s n => ⟨fun hs ha hh hb hp hd hf hl ht => next_of (State.autoRestart_runs hs ha hh hb hp hd hf hl ht), fun h => next_of (State.autoRestart_stays h)⟩
  case grantQ =>
    intro s u r n v h h0
    have field := fun f hf => u.grantStored_field (f := f) grantQ_allRW n.toNat v hf
    exact ⟨u.grantStored .SLC_GRANT_Q n.toNat v, field ⟨0, 16, .RW, 0⟩ (by decide), field ⟨16, 7, .RW, 0⟩ (by decide), field ⟨32, 11, .RW, 0⟩ (by decide),
      field ⟨43, 8, .RW, 0⟩ (by decide), field ⟨51, 7, .RW, 0⟩ (by decide), exec_grantQ_free h0 h v, exec_grantQ_invalid h0 h v, exec_grantQ_bound h0 h v⟩
  case grantR =>
    intro s u r n v h h0
    have field := fun f hf => u.grantStored_field (f := f) grantR_allRW n.toNat v hf
    exact ⟨u.grantStored .SLC_GRANT_R n.toNat v, field ⟨0, 21, .RW, 0⟩ (by decide), field ⟨21, 6, .RW, 1⟩ (by decide), field ⟨32, 19, .RW, 0⟩ (by decide),
      exec_grantR_invalid h0 h v, exec_grantR_stored h0 h v⟩
  case weight => exact fun s u r n v h h0 => ⟨exec_weight_set h0 h v, exec_weight_refused h0 h v⟩
  case share => exact fun s u r l v b z h hb hz => ⟨exec_peerShare_refused h hb hz, exec_peerShare_set h hb hz⟩
  case hello =>
    intro s w n k h0 hr hl hf hw hk
    have taken := State.sliceHello_taken h0 hr hl hf hw hk
    exact ⟨fun h1 => next_of (taken.trans (if_pos h1)), fun h1 => next_of (taken.trans (if_neg h1))⟩
  case noHello => exact fun s n h => next_of (State.sliceHello_waits h)

end Sys2Proof.Machine
end

section
/-! PROOF. Doorbells and the queue switches (R325, R335 to R340, R351 to R355): a doorbell by the slice and the queue it names, a write of QRG_Q_CTRL by
the word its guarded fields leave, and ENABLE by the state of the queue. -/

namespace Sys2Proof.Machine

/-! ## Doorbells of a slice page (R325, R337) -/

/-- The word of a doorbell carries its operation, its queue and its index, and no other bit. -/
theorem doorbellWord_fields {op : Nat} (h : op < 3) (q : BitVec 6) (i : BitVec 16) {w : Nat}
    (hw : w = (BitVec.ofNat 64 (i.toNat + 2 ^ 16 * q.toNat + 2 ^ 22 * op)).toNat % 2 ^ 32) :
    bits w 0 16 = i.toNat ∧ bits w 16 6 = q.toNat ∧ bits w 22 2 = op ∧ bits w 24 8 = 0 := by
  have hq := q.isLt
  have hi := i.isLt
  rw [BitVec.toNat_ofNat] at hw
  unfold bits
  omega

/-- What a doorbell does at a queue, by its operation (R338 to R340). -/
def State.doorbellAct (s : State) (op g n i : Nat) : State := if op = 0 then s.post g n i else if op = 1 then s.release g n i else s.invalidate g n i

section Word
variable {u : State} {n w : Nat} (hop : bits w 22 2 < 3) (hz : bits w 24 8 = 0)
include hop hz

theorem State.doorbellWord_formed : u.doorbellWord n w =
    u.doorbell n (bits w 16 6) (fun s g => s.doorbellAct (bits w 22 2) g n (bits w 0 16)) :=
  if_neg (by rw [hz, beq_eq_false_iff_ne.mpr (Nat.ne_of_lt hop)]; simp)

theorem State.doorbellWord_runs (hs : u.sliceState n = 1) (hq : bits w 16 6 < u.fld Fld.SLC_GRANT_Q_QUEUE_COUNT n) {g : Nat}
    (hg : g = u.fld Fld.SLC_GRANT_Q_QUEUE_BASE n + bits w 16 6) : u.doorbellWord n w = u.doorbellAct (bits w 22 2) g n (bits w 0 16) := by
  rw [State.doorbellWord_formed hop hz, hg]
  simp only [State.doorbell, State.sliceRuns, hs, Nat.reduceBEq, Bool.not_true, Bool.false_eq_true, if_false, if_neg (Nat.not_le.mpr hq)]

theorem State.doorbellWord_bad (hs : u.sliceState n = 1) (hq : u.fld Fld.SLC_GRANT_Q_QUEUE_COUNT n ≤ bits w 16 6) :
    u.doorbellWord n w = u.bump .QRG_DB_BAD 0 := by
  rw [State.doorbellWord_formed hop hz]
  simp only [State.doorbell, State.sliceRuns, hs, Nat.reduceBEq, Bool.not_true, Bool.false_eq_true, if_false, if_pos hq]

theorem State.doorbellWord_idle (hs : u.sliceState n = 2) : u.doorbellWord n w = u.bump .SLC_IDLE_DROP n := by
  rw [State.doorbellWord_formed hop hz]
  simp only [State.doorbell, State.sliceRuns, hs, Nat.reduceBEq, Bool.not_false, Bool.false_eq_true, if_false, if_true]

end Word

section Doorbell
variable {s u : State} {n : BitVec 12} (hd : s.dev.state = .STAGE) (hs : s.sliceState n.toNat ≠ 0) (hh : s.sliceHidden n.toNat = false)
  (hu : u = s.splitBuffer (.slice (Fin.ofNat 4096 n.toNat)))
include hd hs hh hu

theorem State.doorbellOp_word (op : Nat) (q : BitVec 6) (i : BitVec 16) : s.doorbellOp n op q i =
    u.doorbellWord n.toNat ((BitVec.ofNat 64 (i.toNat + 2 ^ 16 * q.toNat + 2 ^ 22 * op)).toNat % 2 ^ 32) := by
  unfold State.doorbellOp State.sliceWrite
  rw [if_neg (by rw [hd, hh, beq_eq_false_iff_ne.mpr hs]; decide), if_pos rfl, ← hu]
  rfl

section Operation
variable {op : Nat} (ho : op < 3) (q : BitVec 6) (i : BitVec 16)
include ho

theorem State.doorbellOp_runs (hr : u.sliceState n.toNat = 1) (hq : q.toNat < u.fld Fld.SLC_GRANT_Q_QUEUE_COUNT n.toNat) {g : Nat}
    (hg : g = u.fld Fld.SLC_GRANT_Q_QUEUE_BASE n.toNat + q.toNat) : s.doorbellOp n op q i = u.doorbellAct op g n.toNat i.toNat := by
  obtain ⟨hi, hqw, hop, hz⟩ := doorbellWord_fields ho q i rfl
  rw [State.doorbellOp_word hd hs hh hu, State.doorbellWord_runs (by rwa [hop]) hz hr (by rwa [hqw]) (hg.trans (by rw [hqw])), hop, hi]

theorem State.doorbellOp_bad (hr : u.sliceState n.toNat = 1) (hq : u.fld Fld.SLC_GRANT_Q_QUEUE_COUNT n.toNat ≤ q.toNat) :
    s.doorbellOp n op q i = u.bump .QRG_DB_BAD 0 := by
  obtain ⟨_, hqw, hop, hz⟩ := doorbellWord_fields ho q i rfl
  rw [State.doorbellOp_word hd hs hh hu, State.doorbellWord_bad (by rwa [hop]) hz hr (by rwa [hqw])]

theorem State.doorbellOp_idle (hr : u.sliceState n.toNat = 2) : s.doorbellOp n op q i = u.bump .SLC_IDLE_DROP n.toNat := by
  obtain ⟨_, _, hop, hz⟩ := doorbellWord_fields ho q i rfl
  rw [State.doorbellOp_word hd hs hh hu, State.doorbellWord_idle (by rwa [hop]) hz hr]

end Operation
end Doorbell

/-! ## POST, RELEASE and INVALIDATE (R338 to R340, R351) -/

section Post
variable {s : State} {g n i z : Nat} {q : Queue} (hq : q = s.queue g) (hz : z = s.sqSize g)
include hq

theorem State.post_dropped (h : q.state ≠ .RUNNING) : s.post g n i = s.bump .QRG_DB_DROP 0 := if_pos (by rw [← hq]; exact bne_iff_ne.mpr h)
theorem State.invalidate_dropped (h : q.state ≠ .RUNNING) : s.invalidate g n i = s.bump .QRG_DB_DROP 0 :=
  if_pos (by rw [← hq]; exact bne_iff_ne.mpr h)

include hz
variable (h : q.state = .RUNNING)
include h

theorem State.post_running : s.post g n i =
    if 2 * z ≤ i || z < ringHeld i q.c z || ringHeld i q.c z < ringHeld q.p q.c z then s.queueError g n Code.OVERRUN i 1
    else (s.setQueue g { q with p := i }).prefetch g n := by
  rw [hq] at h ⊢
  rw [hz]
  exact if_neg (by rw [h]; decide)

theorem State.post_overrun (hi : 2 * z ≤ i ∨ z < ringHeld i q.c z ∨ ringHeld i q.c z < ringHeld q.p q.c z) :
    s.post g n i = s.queueError g n Code.OVERRUN i 1 :=
  (State.post_running hq hz h).trans (if_pos (by simpa only [Bool.or_eq_true, decide_eq_true_eq, or_assoc] using hi))

theorem State.post_accepted (hi : i < 2 * z) (hc : ringHeld i q.c z ≤ z) (hp : ringHeld q.p q.c z ≤ ringHeld i q.c z) :
    s.post g n i = (s.setQueue g { q with p := i }).prefetch g n :=
  (State.post_running hq hz h).trans (if_neg (by
    simp only [Bool.or_eq_true, decide_eq_true_eq, not_or, Nat.not_lt, Nat.not_le]
    exact ⟨⟨hi, hc⟩, hp⟩))

theorem State.invalidate_running : s.invalidate g n i =
    if ringHeld q.p q.c z < ringHeld i q.c z then ((s.bump .QRG_INVAL_LATE 0).cutFetches g 0).prefetch g n
    else (s.cutFetches g (ringHeld i q.c z)).prefetch g n := by
  rw [hq] at h ⊢
  rw [hz]
  exact if_neg (by rw [h]; decide)

end Post

section Release
variable {s w : State} {g n i z : Nat} {q : Queue} (hq : q = s.queue g)
include hq

theorem State.release_dropped (h : q.state = .DISABLED) : s.release g n i = s.bump .QRG_DB_DROP 0 := if_pos (by rw [← hq, h]; rfl)

variable (hz : z = s.cqSize g) (h : q.state ≠ .DISABLED)
include hz h

theorem State.release_enabled : s.release g n i =
    if 2 * z ≤ i || ringHeld q.cqP q.cqC z < ringHeld i q.cqC z then s.queueError g n Code.OVERRUN i 1
    else
      let s := (s.setQueue g { q with cqC := i }).drainOverflow g n 8
      if ringHeld (s.queue g).cqP q.cqP z = 0 then s
      else ((s.writeShadow g n).groupIrq g n ((q.overflow.take (ringHeld (s.queue g).cqP q.cqP z)).any (·.irq))).settleDraining g n := by
  rw [hq] at h ⊢
  rw [hz]
  exact if_neg (by rwa [beq_iff_eq])

theorem State.release_overrun (hi : 2 * z ≤ i ∨ ringHeld q.cqP q.cqC z < ringHeld i q.cqC z) : s.release g n i = s.queueError g n Code.OVERRUN i 1 :=
  (State.release_enabled hq hz h).trans (if_pos (by simpa only [Bool.or_eq_true, decide_eq_true_eq] using hi))

theorem State.release_quiet (hw : w = (s.setQueue g { q with cqC := i }).drainOverflow g n 8) (hi : i < 2 * z)
    (hc : ringHeld i q.cqC z ≤ ringHeld q.cqP q.cqC z) (h0 : ringHeld (w.queue g).cqP q.cqP z = 0) : s.release g n i = w := by
  rw [State.release_enabled hq hz h, if_neg]
  · dsimp only
    rw [← hw, if_pos h0]
  · simp only [Bool.or_eq_true, decide_eq_true_eq, not_or, Nat.not_lt, Nat.not_le]
    exact ⟨hi, hc⟩

end Release

/-! ## QRG_Q_CTRL (R354, R356) -/

theorem qCtrl_apart : RegName.QRG_Q_CTRL.info.fields.Pairwise FieldInfo.apart := by unfold FieldInfo.apart; decide

theorem State.performWrite_qrg (s : State) (r : Requester) {reg : RegName} (hb : reg.info.block = .QRG) (i : Nat) (value mask : Word) :
    s.performWrite r reg i value mask = s.writeQrg (s.writeSeen reg i value mask) := by
  simp only [State.performWrite, hb]; rfl

/-- A write of QRG_Q_CTRL with its fields guarded: ROLE and the sizes stand only while the queue is DISABLED, PREFETCH keeps its range. -/
def State.queueCtrlSeen (u : State) (g : Nat) (e : BitVec 32) : RegWrite :=
  ((((u.writeSeen .QRG_Q_CTRL g (e.setWidth 64) lowMask).guard Fld.QRG_Q_CTRL_ROLE (fun _ => (u.queue g).state == .DISABLED)).guard
    Fld.QRG_Q_CTRL_SQ_LOG2 (fun _ => (u.queue g).state == .DISABLED)).guard Fld.QRG_Q_CTRL_CQ_LOG2 (fun _ => (u.queue g).state == .DISABLED)).guard
    Fld.QRG_Q_CTRL_PREFETCH (between 1 16)

/-- What such a write stores: ENABLE is not kept in the word. -/
def State.queueCtrlStored (u : State) (g : Nat) (e : BitVec 32) : Word := withField (u.queueCtrlSeen g e).new 0 1 0

section Stored
variable (u : State) (g : Nat) (e : BitVec 32)

theorem State.writeSeen_qCtrl {f : FieldInfo} (hf : f ∈ RegName.QRG_Q_CTRL.info.fields) :
    fieldOf (u.writeSeen .QRG_Q_CTRL g (e.setWidth 64) lowMask).new f.lo f.width = bits e.toNat f.lo f.width := by
  have hrw : ∀ f ∈ RegName.QRG_Q_CTRL.info.fields, f.access = .RW ∧ f.lo + f.width ≤ 32 := by decide
  obtain ⟨ha, hw⟩ := hrw f hf
  exact u.writeSeen_low qCtrl_apart hf (.inl ha) hw g e

/-- A field outside the guarded ones takes the bits written. -/
theorem State.queueCtrlSeen_free {a b : Nat} (hr : a + b ≤ 2 ∨ 17 ≤ a) :
    fieldOf (u.queueCtrlSeen g e).new a b = fieldOf (u.writeSeen .QRG_Q_CTRL g (e.setWidth 64) lowMask).new a b := by
  unfold State.queueCtrlSeen
  rw [RegWrite.guard_other _ _ _ (by decide) (by omega), RegWrite.guard_other _ _ _ (by decide) (by omega),
    RegWrite.guard_other _ _ _ (by decide) (by omega), RegWrite.guard_other _ _ _ (by decide) (by omega)]

theorem State.queueCtrlSeen_role : fieldOf (u.queueCtrlSeen g e).new 2 1 =
    if ((u.queue g).state == .DISABLED) = true then bits e.toNat 2 1 else fieldOf (u.reg .QRG_Q_CTRL g) 2 1 := by
  have hw := u.writeSeen_qCtrl g e (f := ⟨2, 1, .RW, 0⟩) (by decide)
  unfold State.queueCtrlSeen
  rw [RegWrite.guard_other _ _ _ (by decide) (by decide), RegWrite.guard_other _ _ _ (by decide) (by decide),
    RegWrite.guard_other _ _ _ (by decide) (by decide), RegWrite.guard_self _ _ _ (by decide), hw, State.writeSeen_old]

theorem State.queueCtrlSeen_sqLog : fieldOf (u.queueCtrlSeen g e).new 4 4 =
    if ((u.queue g).state == .DISABLED) = true then bits e.toNat 4 4 else fieldOf (u.reg .QRG_Q_CTRL g) 4 4 := by
  have hw := u.writeSeen_qCtrl g e (f := ⟨4, 4, .RW, 6⟩) (by decide)
  unfold State.queueCtrlSeen
  rw [RegWrite.guard_other _ _ _ (by decide) (by decide), RegWrite.guard_other _ _ _ (by decide) (by decide), RegWrite.guard_self _ _ _ (by decide),
    RegWrite.guard_old, RegWrite.guard_other _ _ _ (by decide) (by decide), hw, State.writeSeen_old]

theorem State.queueCtrlSeen_cqLog : fieldOf (u.queueCtrlSeen g e).new 8 4 =
    if ((u.queue g).state == .DISABLED) = true then bits e.toNat 8 4 else fieldOf (u.reg .QRG_Q_CTRL g) 8 4 := by
  have hw := u.writeSeen_qCtrl g e (f := ⟨8, 4, .RW, 6⟩) (by decide)
  unfold State.queueCtrlSeen
  rw [RegWrite.guard_other _ _ _ (by decide) (by decide), RegWrite.guard_self _ _ _ (by decide), RegWrite.guard_old, RegWrite.guard_old,
    RegWrite.guard_other _ _ _ (by decide) (by decide), RegWrite.guard_other _ _ _ (by decide) (by decide), hw, State.writeSeen_old]

theorem State.queueCtrlStored_enable : fieldOf (u.queueCtrlStored g e) 0 1 = 0 := fieldOf_withField _ _ (by decide)

theorem State.queueCtrlStored_ne {a b : Nat} (h : 1 ≤ a) : fieldOf (u.queueCtrlStored g e) a b = fieldOf (u.queueCtrlSeen g e).new a b :=
  fieldOf_withField_ne _ _ (by decide) (.inr h)

theorem State.queueCtrlStored_resume : fieldOf (u.queueCtrlStored g e) 1 1 = bits e.toNat 1 1 :=
  (u.queueCtrlStored_ne g e (by decide)).trans ((u.queueCtrlSeen_free g e (by decide)).trans (u.writeSeen_qCtrl g e (f := ⟨1, 1, .RW, 0⟩) (by decide)))

theorem State.queueCtrlStored_vector : fieldOf (u.queueCtrlStored g e) 17 7 = bits e.toNat 17 7 :=
  (u.queueCtrlStored_ne g e (by decide)).trans ((u.queueCtrlSeen_free g e (by decide)).trans (u.writeSeen_qCtrl g e (f := ⟨17, 7, .RW, 0⟩) (by decide)))

theorem State.queueCtrlStored_off (h : (u.queue g).state = .DISABLED) : fieldOf (u.queueCtrlStored g e) 2 1 = bits e.toNat 2 1 ∧
    fieldOf (u.queueCtrlStored g e) 4 4 = bits e.toNat 4 4 ∧ fieldOf (u.queueCtrlStored g e) 8 4 = bits e.toNat 8 4 := by
  have hb := beq_iff_eq.mpr h
  exact ⟨(u.queueCtrlStored_ne g e (by decide)).trans ((u.queueCtrlSeen_role g e).trans (if_pos hb)),
    (u.queueCtrlStored_ne g e (by decide)).trans ((u.queueCtrlSeen_sqLog g e).trans (if_pos hb)),
    (u.queueCtrlStored_ne g e (by decide)).trans ((u.queueCtrlSeen_cqLog g e).trans (if_pos hb))⟩

theorem State.queueCtrlStored_on (h : (u.queue g).state ≠ .DISABLED) :
    fieldOf (u.queueCtrlStored g e) 2 1 = fieldOf (u.reg .QRG_Q_CTRL g) 2 1 ∧
    fieldOf (u.queueCtrlStored g e) 4 4 = fieldOf (u.reg .QRG_Q_CTRL g) 4 4 ∧ fieldOf (u.queueCtrlStored g e) 8 4 = fieldOf (u.reg .QRG_Q_CTRL g) 8 4 := by
  have hb : ¬ ((u.queue g).state == .DISABLED) = true := by rwa [beq_iff_eq]
  exact ⟨(u.queueCtrlStored_ne g e (by decide)).trans ((u.queueCtrlSeen_role g e).trans (if_neg hb)),
    (u.queueCtrlStored_ne g e (by decide)).trans ((u.queueCtrlSeen_sqLog g e).trans (if_neg hb)),
    (u.queueCtrlStored_ne g e (by decide)).trans ((u.queueCtrlSeen_cqLog g e).trans (if_neg hb))⟩

end Stored

theorem RegWrite.guard_mask (x : RegWrite) (f : FieldPos) (ok : Nat → Bool) : (x.guard f ok).mask = x.mask := by unfold RegWrite.guard; split <;> rfl

/-- An admitted write of QRG_Q_CTRL stores its word and turns the queue on or off by ENABLE. -/
theorem State.write32_qCtrl {s u : State} {r : Requester} {g : Nat} (h : s.admitWrite r .QRG_Q_CTRL g = (true, u)) (e : BitVec 32) :
    s.write32 r .QRG_Q_CTRL g e = (u.setReg .QRG_Q_CTRL g (u.queueCtrlStored g e)).queueSwitch g (bits e.toNat 0 1 == 1) := by
  have henable : (u.queueCtrlSeen g e).at Fld.QRG_Q_CTRL_ENABLE = bits e.toNat 0 1 :=
    (u.queueCtrlSeen_free g e (by decide)).trans (u.writeSeen_qCtrl g e (f := ⟨0, 1, .RW, 0⟩) (by decide))
  have hmask : (u.queueCtrlSeen g e).mask = lowMask := by
    unfold State.queueCtrlSeen
    rw [RegWrite.guard_mask, RegWrite.guard_mask, RegWrite.guard_mask, RegWrite.guard_mask]
    rfl
  have htouch : (u.queueCtrlSeen g e).touches Fld.QRG_Q_CTRL_ENABLE = true := by
    rw [RegWrite.touches, hmask]
    decide
  refine (State.directWrite_undomained h rfl _ _).trans ((State.performWrite_qrg u r rfl g _ _).trans ?_)
  rw [← henable]
  exact if_pos htouch

theorem bits_or_one (v : BitVec 32) : bits (v ||| 1).toNat 0 1 = 1 := by
  have h : (v ||| 1).getLsbD 0 = true := by simp
  rw [BitVec.getLsbD, Nat.testBit_eq_decide_div_mod_eq, decide_eq_true_eq] at h
  exact h

theorem bits_and_notOne (v : BitVec 32) : bits (v &&& 0xFFFFFFFE).toNat 0 1 = 0 := by
  have h : (v &&& 0xFFFFFFFE).getLsbD 0 = false := by simp
  rw [BitVec.getLsbD, Nat.testBit_eq_decide_div_mod_eq, decide_eq_false_iff_not] at h
  unfold bits
  omega

section Switch
variable {s u : State} {r : Requester} {g : BitVec 16} {v e : BitVec 32} (h : s.admitWrite r .QRG_Q_CTRL g.toNat = (true, u))
include h

theorem exec_queueEnable (he : e = v ||| 1) :
    exec (.queueEnable r g v) s = .next ((u.setReg .QRG_Q_CTRL g.toNat (u.queueCtrlStored g.toNat e)).queueSwitch g.toNat true) := by
  subst he
  exact next_of ((State.write32_qCtrl h _).trans (by rw [bits_or_one, beq_self_eq_true]))

theorem exec_queueDisable (he : e = v &&& 0xFFFFFFFE) :
    exec (.queueDisable r g v) s = .next ((u.setReg .QRG_Q_CTRL g.toNat (u.queueCtrlStored g.toNat e)).queueSwitch g.toNat false) := by
  subst he
  exact next_of ((State.write32_qCtrl h _).trans (by rw [bits_and_notOne, beq_eq_false_iff_ne.mpr Nat.zero_ne_one]))

end Switch

/-! ## ENABLE by the state of the queue (R354, R355) -/

theorem State.queueSwitch_of {s : State} {g n k : Nat} (h : s.sliceOfQueue g = some (n, k)) (on : Bool) :
    s.queueSwitch g on = if on then s.queueEnable g n else s.queueDisable g n := by
  unfold State.queueSwitch
  rw [h]

section Enable
variable {s : State} {g n : Nat} {q : Queue} (hq : q = s.queue g)
include hq

theorem State.queueEnable_running (h : q.state ≠ .DISABLED) : s.queueEnable g n = s := if_pos (by rw [← hq]; exact bne_iff_ne.mpr h)

variable (h : q.state = .DISABLED)
include h

theorem State.queueEnable_refused (hc : s.sliceRuns n = false ∨ s.sliceFormat n = 0 ∨ s.fld Fld.QRG_Q_SQ_BASE_ADDR g = 0 ∨
    s.fld Fld.QRG_Q_CTRL_SQ_LOG2 g < 6 ∨ s.fld Fld.QRG_Q_CTRL_CQ_LOG2 g < 6 ∨ s.adminAlone n = false) : s.queueEnable g n = s.queueRefused g := by
  refine (if_neg (by rw [← hq, h]; decide)).trans (if_pos ?_)
  simp only [Bool.or_eq_true, Bool.not_eq_true', beq_iff_eq, decide_eq_true_eq]
  tauto

variable (hr : s.sliceRuns n = true) (hf : s.sliceFormat n ≠ 0) (hs : s.fld Fld.QRG_Q_SQ_BASE_ADDR g ≠ 0) (hc : s.fld Fld.QRG_Q_CQ_BASE_ADDR g ≠ 0)
  (hsl : 6 ≤ s.fld Fld.QRG_Q_CTRL_SQ_LOG2 g) (hcl : 6 ≤ s.fld Fld.QRG_Q_CTRL_CQ_LOG2 g) (ha : s.adminAlone n = true) {r : Queue}
  (he : r = { q with
    state := .RUNNING, errCode := 0, sqLog := s.fld Fld.QRG_Q_CTRL_SQ_LOG2 g, cqLog := s.fld Fld.QRG_Q_CTRL_CQ_LOG2 g, cache := [], owed := 0, ready := [], overflow := [], unsignalled := 0 })
include hr hf hs hc hsl hcl ha he

theorem State.queueEnable_accepted
    (hm : s.flagAt Fld.QRG_Q_CTRL_RESUME g = true → q.sqLog = s.fld Fld.QRG_Q_CTRL_SQ_LOG2 g ∧ q.cqLog = s.fld Fld.QRG_Q_CTRL_CQ_LOG2 g) :
    s.queueEnable g n = (s.setQueue g (if s.flagAt Fld.QRG_Q_CTRL_RESUME g = true then { r with p := r.c }
      else { r with p := 0, c := 0, cqP := 0, cqC := 0, phase := true })).writeShadow g n := by
  have hkeeps : (s.flagAt Fld.QRG_Q_CTRL_RESUME g && (q.sqLog != s.fld Fld.QRG_Q_CTRL_SQ_LOG2 g || q.cqLog != s.fld Fld.QRG_Q_CTRL_CQ_LOG2 g)) = false := by
    cases hres : s.flagAt Fld.QRG_Q_CTRL_RESUME g with
    | false => rfl
    | true => rw [(hm hres).1, (hm hres).2, bne_self_eq_false, bne_self_eq_false]; rfl
  rw [he, hq]
  rw [hq] at h hkeeps
  unfold State.queueEnable
  dsimp only
  rw [if_neg (by rw [h]; decide), if_neg]
  simp only [hkeeps, hr, beq_eq_false_iff_ne.mpr hf, beq_eq_false_iff_ne.mpr hs, beq_eq_false_iff_ne.mpr hc, decide_eq_false (Nat.not_lt.mpr hsl),
    decide_eq_false (Nat.not_lt.mpr hcl), ha, Bool.not_true, Bool.or_self, Bool.false_eq_true, not_false_eq_true]

theorem State.queueEnable_fresh (hm : s.flagAt Fld.QRG_Q_CTRL_RESUME g = false) :
    s.queueEnable g n = (s.setQueue g { r with p := 0, c := 0, cqP := 0, cqC := 0, phase := true }).writeShadow g n := by
  rw [State.queueEnable_accepted hq h hr hf hs hc hsl hcl ha he (fun hres => absurd (hm.symm.trans hres) Bool.false_ne_true),
    if_neg (Bool.eq_false_iff.mp hm)]

theorem State.queueEnable_resumed (hm : s.flagAt Fld.QRG_Q_CTRL_RESUME g = true) (hsq : q.sqLog = s.fld Fld.QRG_Q_CTRL_SQ_LOG2 g)
    (hcq : q.cqLog = s.fld Fld.QRG_Q_CTRL_CQ_LOG2 g) : s.queueEnable g n = (s.setQueue g { r with p := q.c }).writeShadow g n := by
  rw [State.queueEnable_accepted hq h hr hf hs hc hsl hcl ha he (fun _ => ⟨hsq, hcq⟩), if_pos hm, he]

end Enable

section Disable
variable {s : State} {g n : Nat} {q : Queue} (hq : q = s.queue g)
include hq

theorem State.queueDisable_drains (h : q.state = .RUNNING) {w : State} (hw : w = s.cutFetches g 0) :
    s.queueDisable g n = (((w.setQueue g { w.queue g with state := .DRAINING }).writeShadow g n).settleDraining g n) := by
  rw [hq] at h
  simp only [State.queueDisable, h, hw]

theorem State.queueDisable_stays (h : q.state = .DISABLED ∨ q.state = .DRAINING) : s.queueDisable g n = s := by
  rw [hq] at h
  rcases h with h | h <;> simp only [State.queueDisable, h]

theorem State.queueDisable_error (h : q.state = .ERROR) : s.queueDisable g n =
    ((((s.bumpBy .QRG_CPL_DISCARD 0 (q.owed + q.overflow.length)).cutFetches g 0).forgetJobs g).setQueue g (q.emptied .DISABLED)).writeShadow g n := by
  rw [hq] at h ⊢
  simp only [State.queueDisable, h]

end Disable

/-- Settles O39: a doorbell by the slice, the queue and the index it names, a write of QRG_Q_CTRL by the fields its guards leave, and ENABLE by the
state of the queue. -/
theorem queueDoorbells : Obligations.QueueDoorbells := by
  unfold Obligations.QueueDoorbells
  refine ⟨?doorbells, ?post, ?release, ?error, ?enableWrite, ?disableWrite, ?switch, ?enable, ?disable⟩
  case doorbells =>
    intro s u n q i hd hs hh hu
    have runs := fun op (ho : op < 3) => State.doorbellOp_runs hd hs hh hu ho q i
    have bad := fun op (ho : op < 3) hr hq => next_of (State.doorbellOp_bad hd hs hh hu ho q i hr hq)
    have idle := fun op (ho : op < 3) hr => next_of (State.doorbellOp_idle hd hs hh hu ho q i hr)
    exact ⟨fun hr hq g hg => ⟨next_of (runs 0 (by decide) hr hq hg), next_of (runs 1 (by decide) hr hq hg), next_of (runs 2 (by decide) hr hq hg)⟩,
      fun hr hq => ⟨bad 0 (by decide) hr hq, bad 1 (by decide) hr hq, bad 2 (by decide) hr hq⟩,
      fun hr => ⟨idle 0 (by decide) hr, idle 1 (by decide) hr, idle 2 (by decide) hr⟩⟩
  case post =>
    intro s g n i q z hq hz
    exact ⟨fun h => ⟨State.post_dropped hq h, State.invalidate_dropped hq h⟩, State.post_overrun hq hz, State.post_accepted hq hz,
      fun h hl => (State.invalidate_running hq hz h).trans (if_pos hl), fun h hl => (State.invalidate_running hq hz h).trans (if_neg (Nat.not_lt.mpr hl))⟩
  case release =>
    exact fun s w g n i q z hq hz hw => ⟨State.release_dropped hq, State.release_overrun hq hz, fun h => State.release_quiet hq hz h hw⟩
  case error =>
    rintro s _ g n code i src rfl
    rfl
  case enableWrite =>
    exact fun s u r g v e h he => ⟨u.queueCtrlStored g.toNat e, u.queueCtrlStored_enable g.toNat e, u.queueCtrlStored_resume g.toNat e,
      u.queueCtrlStored_vector g.toNat e, u.queueCtrlStored_off g.toNat e, u.queueCtrlStored_on g.toNat e, exec_queueEnable h he⟩
  case disableWrite =>
    exact fun s u r g v e h he => ⟨u.queueCtrlStored g.toNat e, u.queueCtrlStored_enable g.toNat e, u.queueCtrlStored_resume g.toNat e,
      u.queueCtrlStored_vector g.toNat e, u.queueCtrlStored_on g.toNat e, exec_queueDisable h he⟩
  case switch => exact fun s g n k h => ⟨State.queueSwitch_of h true, State.queueSwitch_of h false⟩
  case enable =>
    exact fun s g n q hq => ⟨State.queueEnable_running hq, State.queueEnable_refused hq,
      fun r h hr hf hs hc hsl hcl ha he => ⟨State.queueEnable_fresh hq h hr hf hs hc hsl hcl ha he, State.queueEnable_resumed hq h hr hf hs hc hsl hcl ha he⟩⟩
  case disable =>
    exact fun s w g n q hq hw => ⟨fun h => State.queueDisable_drains hq h hw, State.queueDisable_stays hq, State.queueDisable_error hq⟩

end Sys2Proof.Machine
end

section
/-! PROOF. The queue engine (R321, R334, R340, R346 to R352): a fetch that ends, completions and their timers, the entry taken next, and a frame for a
slice delivered or dropped. -/

namespace Sys2Proof.Machine

/-! ## Fetches that end (R321, R340) -/

/-- The read is a fetch of entries of queue g that has ended well. -/
def HostRead.fetched (g : Nat) (r : HostRead) : Bool :=
  !r.failed && r.ended && (match r.want.why with | .ring q _ _ _ => q == g | _ => false)

section Fetched
variable {s w : State} {g n : Nat}

theorem State.entryFetched_none (h : s.hep.reads.find? (HostRead.fetched g) = none) : s.entryFetched g n = s := by
  unfold State.entryFetched
  dsimp only
  split
  case h_1 => rfl
  case h_2 r hr => exact absurd (h.symm.trans hr) nofun

variable {r : HostRead} {first m keep : Nat} (h : s.hep.reads.find? (HostRead.fetched g) = some r)
  (hw : w = { s with hep := { s.hep with reads := s.hep.reads.erase r } })
include h hw

theorem State.entryFetched_stale (hg : w.genCurrent n r.want.gen = false) : s.entryFetched g n = w.bump .SLC_STALE_DISCARD n := by
  unfold State.entryFetched
  dsimp only
  split
  case h_1 hr => exact absurd (h.symm.trans hr) nofun
  case h_2 r' hr =>
    obtain rfl : r = r' := Option.some.inj (h.symm.trans hr)
    rw [← hw, hg]
    rfl

theorem State.entryFetched_cached (hy : r.want.why = .ring g first m keep) (hg : w.genCurrent n r.want.gen = true) (hr : (w.queue g).state = .RUNNING) :
    s.entryFetched g n = (w.setQueue g { w.queue g with
      cache := (w.queue g).cache ++ (List.range keep).map (fun i => ((first + i) % (2 * w.sqSize g), slice r.bytes (w.entrySize g n * i) (w.entrySize g n)))
      }).prefetch g n := by
  unfold State.entryFetched
  dsimp only
  split
  case h_1 hr => exact absurd (h.symm.trans hr) nofun
  case h_2 r' hr' =>
    obtain rfl : r = r' := Option.some.inj (h.symm.trans hr')
    simp only [← hw, hg, hy, hr, Bool.not_true, Bool.false_eq_true, if_false, beq_self_eq_true, if_true]

end Fetched

/-! ## Completions, the interrupt timer and the stall limit (R348 to R351) -/

section Completion
variable {s w : State} {g n : Nat}
  (hw : w = ((s.queue g).ready.foldl (fun s c => s.formCpl g n c) (s.setQueue g { s.queue g with ready := [] })))
include hw

theorem State.completionWrite_none (h : ringHeld (w.queue g).cqP (s.queue g).cqP (w.cqSize g) = 0) : s.completionWrite g n = w.settleDraining g n := by
  unfold State.completionWrite
  dsimp only
  rw [← hw, if_pos h]

theorem State.completionWrite_some {x : Nat} (hx : x = ringHeld (w.queue g).cqP (s.queue g).cqP (w.cqSize g)) (h : x ≠ 0) :
    s.completionWrite g n =
      ((w.writeShadow g n).groupIrq g n ((((s.queue g).overflow ++ (s.queue g).ready).take x).any (·.irq))).settleDraining g n := by
  unfold State.completionWrite
  dsimp only
  rw [← hw, ← hx, if_neg h]

end Completion

section Timers
variable {s : State} {g n : Nat}

theorem State.irqTimer_due (hu : (s.queue g).irqUs ≠ 0) (hn : (s.queue g).unsignalled ≠ 0)
    (ht : (s.queue g).since + 1000 * (s.queue g).irqUs ≤ s.elapsed) : s.irqTimer g n = s.queueIrq g n :=
  if_pos (by rw [bne_iff_ne.mpr hu, bne_iff_ne.mpr hn, decide_eq_true ht]; rfl)

theorem State.irqTimer_early
    (h : (s.queue g).irqUs = 0 ∨ (s.queue g).unsignalled = 0 ∨ s.elapsed < (s.queue g).since + 1000 * (s.queue g).irqUs) : s.irqTimer g n = s :=
  if_neg (by rcases h with h | h | h <;> simp [h])

theorem State.cqStall_due (ho : (s.queue g).overflow ≠ []) (hs : (s.queue g).state = .RUNNING ∨ (s.queue g).state = .DRAINING)
    (ht : (s.queue g).stall + 1000000 * s.fld Fld.QRG_STALL_LIMITS_CQ_STALL_MS 0 ≤ s.elapsed) :
    s.cqStall g n = (s.drew.bump .QRG_CQ_STALL 0).queueError g n Code.OVERRUN (s.free.toNat % 65536) 2 :=
  if_neg (by
    rw [List.isEmpty_eq_false_iff.mpr ho, decide_eq_false (Nat.not_lt.mpr ht)]
    rcases hs with hs | hs <;> rw [hs] <;> decide)

theorem State.cqStall_early
    (h : (s.queue g).overflow = [] ∨ s.elapsed < (s.queue g).stall + 1000000 * s.fld Fld.QRG_STALL_LIMITS_CQ_STALL_MS 0) : s.cqStall g n = s :=
  if_pos (by rcases h with h | h <;> simp [h])

end Timers

/-! ## Entries taken (R326, R346, R347) -/

theorem State.onQueue_some {s : State} {g n k : Nat} (h : s.sliceOfQueue g = some (n, k)) (act : State → Nat → State) : s.onQueue g act = act s n := by
  unfold State.onQueue
  rw [h]

theorem State.onQueue_none {s : State} {g : Nat} (h : s.sliceOfQueue g = none) (act : State → Nat → State) : s.onQueue g act = s := by
  unfold State.onQueue
  rw [h]

theorem State.entryTake_idle {s : State} {h : Nat} (hr : s.roundOf h = []) : s.entryTake h = s := by
  unfold State.entryTake
  rw [hr]

/-- The round of a port moved on by k entries of the slice at its front, whose queue g was served (R326, R347). -/
def State.roundServed (s : State) (h n turns : Nat) (rest : List (Nat × Nat)) (g k : Nat) : State :=
  { s with qrg := { s.qrg with
      rounds := SMap.set (fun _ => []) h (if turns ≤ k then rest else (n, turns - k) :: rest) s.qrg.rounds
      lastQueue := SMap.set (fun _ => 0) n (g - s.fld Fld.SLC_GRANT_Q_QUEUE_BASE n + 1) s.qrg.lastQueue } }

theorem State.entryTake_of {s : State} {h n turns g : Nat} {rest : List (Nat × Nat)} (hr : s.roundOf h = (n, turns) :: rest) (hq : s.nextQueue n = some g) :
    s.entryTake h = match s.takeWork g n with
      | .bad i => s.queueMalformed g n i
      | .frame es => (s.roundServed h n turns rest g es.length).takeFrame g n es
      | .storage _ e => ((s.roundServed h n turns rest g 1).takeStorage g n e).settleAll
      | .none => s := by
  unfold State.entryTake
  rw [hr]
  dsimp only
  rw [hq]
  dsimp only
  cases s.takeWork g n <;> rfl

/-! ## Receive delivery (R334, R352) -/

theorem State.rxDeliver_some {s t : State} {l : Nat} (h : (s.rxHeads l).findSome? (fun h => s.rxTry l h.1 h.2) = some t) : s.rxDeliver l = t := by
  unfold State.rxDeliver
  rw [h]

theorem State.rxDeliver_none {s : State} {l : Nat} (h : (s.rxHeads l).findSome? (fun h => s.rxTry l h.1 h.2) = none) : s.rxDeliver l = s := by
  unfold State.rxDeliver
  rw [h]

section Try
variable {s : State} {l : Nat} {k : Copy} {x : Frame} (hj : s.qrg.rx.find? (fun j => j.link == l && j.frame == k.frame) = none)
include hj

/-- What becomes of a copy that is not being delivered yet. -/
theorem State.rxTry_fresh : s.rxTry l k x =
    if x.ended && x.bad then some ((s.bump .SWC_TAIL_DROP 0).rxRemove k)
    else if !s.genCurrent k.slice x.ticket.gen.toNat then some ((s.bump .SLC_STALE_DISCARD k.slice).rxRemove k)
    else if !s.sliceRuns k.slice then some ((s.bump .SLC_IDLE_DROP k.slice).rxRemove k)
    else match s.steered k.slice x with
      | none => some ((s.bump .QRG_RX_NO_QUEUE 0).rxRemove k)
      | some g =>
        match buffersFor (s.estimate x k.port) (s.rxRun g) with
        | some m => if m ≤ s.takeable g && s.rxStaged (l / 4) then some (s.rxContinue k x ⟨l, k.frame, g, k.slice, 0, []⟩) else none
        | none =>
          if s.posted g != (s.rxRun g).length then none
          else if s.fld Fld.QRG_STALL_LIMITS_RX_STALL_US 0 == 0 then some ((s.bump .QRG_RX_NO_BUFFER 0).rxRemove k)
          else if s.qrg.waits.any (fun w => w.1 == l && w.2.1 == k.frame) then none
          else some (s.rxWaits l k.frame) := by
  unfold State.rxTry
  rw [hj] <;> rfl

theorem State.rxTry_tail (he : x.ended = true) (hb : x.bad = true) : s.rxTry l k x = some ((s.bump .SWC_TAIL_DROP 0).rxRemove k) :=
  (State.rxTry_fresh hj).trans (if_pos (by rw [he, hb]; rfl))

variable (hb : x.bad = false)
include hb

theorem State.rxTry_stale (hg : s.genCurrent k.slice x.ticket.gen.toNat = false) :
    s.rxTry l k x = some ((s.bump .SLC_STALE_DISCARD k.slice).rxRemove k) := by
  rw [State.rxTry_fresh hj, if_neg (by simp [hb]), if_pos (by rw [hg]; rfl)]

variable (hg : s.genCurrent k.slice x.ticket.gen.toNat = true)
include hg

theorem State.rxTry_idle (hr : s.sliceRuns k.slice = false) : s.rxTry l k x = some ((s.bump .SLC_IDLE_DROP k.slice).rxRemove k) := by
  rw [State.rxTry_fresh hj, if_neg (by simp [hb]), if_neg (by simp [hg]), if_pos (by rw [hr]; rfl)]

variable (hr : s.sliceRuns k.slice = true)
include hr

theorem State.rxTry_noQueue (hs : s.steered k.slice x = none) : s.rxTry l k x = some ((s.bump .QRG_RX_NO_QUEUE 0).rxRemove k) := by
  rw [State.rxTry_fresh hj, if_neg (by simp [hb]), if_neg (by simp [hg]), if_neg (by simp [hr]), hs]

variable {g : Nat} (hs : s.steered k.slice x = some g)
include hs

theorem State.rxTry_delivers {m : Nat} (hm : buffersFor (s.estimate x k.port) (s.rxRun g) = some m) (ht : m ≤ s.takeable g)
    (hp : s.rxStaged (l / 4) = true) : s.rxTry l k x = some (s.rxContinue k x ⟨l, k.frame, g, k.slice, 0, []⟩) := by
  rw [State.rxTry_fresh hj, if_neg (by simp [hb]), if_neg (by simp [hg]), if_neg (by simp [hr]), hs]
  dsimp only
  rw [hm]
  exact if_pos (by rw [decide_eq_true ht, hp]; rfl)

theorem State.rxTry_noBuffer (hm : buffersFor (s.estimate x k.port) (s.rxRun g) = none) (hp : s.posted g = (s.rxRun g).length)
    (h0 : s.fld Fld.QRG_STALL_LIMITS_RX_STALL_US 0 = 0) : s.rxTry l k x = some ((s.bump .QRG_RX_NO_BUFFER 0).rxRemove k) := by
  rw [State.rxTry_fresh hj, if_neg (by simp [hb]), if_neg (by simp [hg]), if_neg (by simp [hr]), hs]
  dsimp only
  rw [hm]
  exact (if_neg (by rw [hp, bne_self_eq_false]; exact Bool.false_ne_true)).trans (if_pos (by rw [h0]; rfl))

end Try

section Limit
variable {s : State} {l : Nat}

theorem State.rxLimit_none (h : (s.rxHeads l).find? (fun h => s.rxWaited l h.1.frame) = none) : s.rxLimit l = s := by
  unfold State.rxLimit
  rw [h]

variable {k : Copy} {x : Frame} (h : (s.rxHeads l).find? (fun h => s.rxWaited l h.1.frame) = some (k, x))
include h

theorem State.rxLimit_partly {j : RxJob} (hj : s.qrg.rx.find? (fun j => j.link == l && j.frame == k.frame) = some j) (hs : s.rxStarved j.queue = true) :
    s.rxLimit l = ((s.bump .QRG_RX_NO_BUFFER 0).rxComplete j x Code.NO_BUFFER).rxRemove k := by
  unfold State.rxLimit
  rw [h]
  dsimp only
  rw [hj]
  exact if_pos hs

theorem State.rxLimit_unstarted (hj : s.qrg.rx.find? (fun j => j.link == l && j.frame == k.frame) = none) {g : Nat} (hs : s.steered k.slice x = some g)
    (hp : s.posted g = (s.rxRun g).length) (hb : buffersFor (s.estimate x k.port) (s.rxRun g) = none) :
    s.rxLimit l = (s.bump .QRG_RX_NO_BUFFER 0).rxRemove k := by
  unfold State.rxLimit
  rw [h]
  dsimp only
  rw [hj]
  dsimp only
  rw [hs]
  dsimp only
  rw [if_neg (by rw [hp, bne_self_eq_false]; exact Bool.false_ne_true), if_pos (by rw [hb]; rfl)]

end Limit

/-- Settles O40: a fetch by the generation its read carries, a timer by its time, the entry taken by what the queue served next has at its head, and
a copy for a slice by its slice, the queue it is steered to and the buffers posted there. -/
theorem queueEngine : Obligations.QueueEngine := by
  unfold Obligations.QueueEngine
  refine ⟨?queue, ?noQueue, ?idle, ?take, ?malformed, ?taken, ?deliver, ?try_, ?noWait, ?limit⟩
  case queue =>
    intro s g n k hk
    have on := fun act => State.onQueue_some hk act
    refine ⟨fun h => ?noFetch, fun r w first m keep h hw hy => ⟨fun hg => ?stale, fun hg hr => ?cached⟩, fun w hw => ⟨fun h => ?noneWritten, fun x hx h => ?written⟩,
      fun hu hn ht => ?irqDue, fun h => ?irqEarly, fun ho hs ht => ?stallDue, fun h => ?stallEarly⟩
    case noFetch => exact next_of ((on _).trans (State.entryFetched_none (List.find?_eq_none.mpr (fun r hr => Bool.eq_false_iff.mp (h r hr)))))
    case stale => exact next_of ((on _).trans (State.entryFetched_stale h hw hg))
    case cached => exact next_of ((on _).trans (State.entryFetched_cached h hw hy hg hr))
    case noneWritten => exact next_of ((on _).trans (State.completionWrite_none hw h))
    case written => exact next_of ((on _).trans (State.completionWrite_some hw hx h))
    case irqDue => exact next_of ((on _).trans (State.irqTimer_due hu hn ht))
    case irqEarly => exact next_of ((on _).trans (State.irqTimer_early h))
    case stallDue => exact next_of ((on _).trans (State.cqStall_due ho hs ht))
    case stallEarly => exact next_of ((on _).trans (State.cqStall_early h))
  case noQueue =>
    exact fun s g h => ⟨next_of (State.onQueue_none h _), next_of (State.onQueue_none h _), next_of (State.onQueue_none h _), next_of (State.onQueue_none h _)⟩
  case idle => exact fun s h hr => next_of (State.entryTake_idle hr)
  case take =>
    intro s h n turns rest g hr hq
    have take := State.entryTake_of hr hq
    exact ⟨fun i hw => next_of (take.trans (by rw [hw])),
      fun es hw => ⟨s.roundServed h n turns rest g es.length, rfl, rfl, next_of (take.trans (by rw [hw])), rfl⟩,
      fun i e hw => ⟨s.roundServed h n turns rest g 1, rfl, rfl, next_of (take.trans (by rw [hw]))⟩⟩
  case malformed => exact fun s g n i => rfl
  case taken => exact fun s g k => rfl
  case deliver => exact fun s l => ⟨fun t h => next_of (State.rxDeliver_some h), fun h => next_of (State.rxDeliver_none h)⟩
  case try_ =>
    exact fun s l k x hj => ⟨State.rxTry_tail hj, State.rxTry_stale hj, State.rxTry_idle hj, State.rxTry_noQueue hj,
      fun g m hb hg hr hs hm ht hp => State.rxTry_delivers hj hb hg hr hs hm ht hp, fun g hb hg hr hs hm hp h0 => State.rxTry_noBuffer hj hb hg hr hs hm hp h0⟩
  case noWait => exact fun s l h => next_of (State.rxLimit_none h)
  case limit =>
    exact fun s l k x h => ⟨fun j hj hs => next_of (State.rxLimit_partly h hj hs), fun g hj hs hp hb => next_of (State.rxLimit_unstarted h hj hs hp hb)⟩

end Sys2Proof.Machine
end

section
/-! PROOF. The bulk mover (R358 to R372): a write of BMV_CH_CTRL by the bits it touches, a channel by its state, descriptors by what was fetched, and
the shares of a port. -/

namespace Sys2Proof.Machine

/-! ## A write that touches one plain field of its register (R7) -/

/-- The fields a write leaves as they are do not change the word. -/
theorem foldl_written_kept {fs : List FieldInfo} {old new mask v : Nat} (h : ∀ f ∈ fs, f.written old new mask = bits v f.lo f.width) :
    fs.foldl (fun v f => setBits v f.lo f.width (f.written old new mask)) v = v := by
  induction fs with
  | nil => rfl
  | cons f fs ih =>
    rw [List.foldl_cons, h f List.mem_cons_self, setBits_same]
    exact ih (fun g hg => h g (List.mem_cons_of_mem _ hg))

/-- Where a write touches no plain field after the first, the first alone changes. -/
theorem plainWritten_first {f : FieldInfo} {fs : List FieldInfo} (hd : (f :: fs).Pairwise FieldInfo.apart) {mask : Nat}
    (hm : ∀ g ∈ fs, g.access = .RW ∨ g.access = .RWV ∨ g.access = .W1C → bits mask g.lo g.width = 0) (old new : Nat) :
    plainWritten (f :: fs) old new mask = setBits old f.lo f.width (f.written old new mask) := by
  rw [plainWritten, List.foldl_cons]
  refine foldl_written_kept (fun g hg => ?_)
  rw [FieldInfo.written_kept (hm g hg)]
  exact (bits_setBits_ne (((List.pairwise_cons.mp hd).1 g hg).symm)).symm

/-- A field already at the value it would keep is untouched by its guard (R5). -/
theorem RegWrite.guard_kept (x : RegWrite) (f : FieldPos) (ok : Nat → Bool) (h : fieldOf x.new f.lo f.width = fieldOf x.old f.lo f.width) :
    x.guard f ok = x := by
  unfold RegWrite.guard
  split
  · rfl
  · rw [← h, withField, fieldOf, setBits_same, BitVec.ofNat_toNat, BitVec.setWidth_eq]

/-- Bit 0 written once more. -/
theorem withField_setBits_bit0 (v : Word) (x y : Nat) : withField (BitVec.ofNat 64 (setBits v.toNat 0 1 x)) 0 1 y = withField v 0 1 y := by
  have hv := v.isLt
  unfold withField setBits bits
  rw [BitVec.toNat_ofNat]
  congr 1
  omega

/-! ## BMV_CH_CTRL (R368, R369, R371, R372) -/

theorem State.performWrite_bmv (s : State) (r : Requester) {reg : RegName} (hb : reg.info.block = .BMV) (i : Nat) (value mask : Word) :
    s.performWrite r reg i value mask = s.writeBmv (s.writeSeen reg i value mask) := by
  simp only [State.performWrite, hb]; rfl

/-- The channel control a write leaves: ENABLE is not kept in the word. -/
def State.chanCtrlCleared (u : State) (c : Nat) : State := u.setReg .BMV_CH_CTRL c (withField (u.reg .BMV_CH_CTRL c) 0 1 0)

section ChanCtrl
variable (u : State) (r : Requester) (c : Nat) {v m : Word} (hm : fieldOf m 4 8 = 0)
include hm

theorem State.writeSeen_chanCtrl : ∃ b, (u.writeSeen .BMV_CH_CTRL c v m).new = BitVec.ofNat 64 (setBits (u.reg .BMV_CH_CTRL c).toNat 0 1 b) := by
  refine ⟨_, congrArg (BitVec.ofNat 64) (plainWritten_first (by unfold FieldInfo.apart; decide) ?_ _ _)⟩
  have hplain : ∀ f ∈ RegName.BMV_CH_CTRL.info.fields.tail, f.access = .RW ∨ f.access = .RWV ∨ f.access = .W1C → f.lo = 4 ∧ f.width = 8 := by decide
  intro f hf ha
  obtain ⟨hl, hw⟩ := hplain f hf ha
  rw [hl, hw]
  exact hm

theorem State.performWrite_chanCtrl {on abort append : Bool} (hon : (fieldOf m 0 1 != 0 && fieldOf (u.writeSeen .BMV_CH_CTRL c v m).new 0 1 == 1) = on)
    {off : Bool} (hoff : (fieldOf m 0 1 != 0 && !(fieldOf (u.writeSeen .BMV_CH_CTRL c v m).new 0 1 == 1)) = off)
    (hab : bit (v &&& m).toNat 1 = abort) (hap : bit (v &&& m).toNat 2 = append) {s1 s2 s3 : State}
    (h1 : s1 = if on then (u.chanCtrlCleared c).chanEnable c else u.chanCtrlCleared c) (h2 : s2 = if abort then s1.chanAbort c else s1)
    (h3 : s3 = if off then s2.chanDisable c else s2) :
    u.performWrite r .BMV_CH_CTRL c v m = if append then s3.chanAppend c else s3 := by
  obtain ⟨b, hnew⟩ := u.writeSeen_chanCtrl c (v := v) hm
  have hguard : (u.writeSeen .BMV_CH_CTRL c v m).guard Fld.BMV_CH_CTRL_STAGE_MAX (fun n => n != 0) = u.writeSeen .BMV_CH_CTRL c v m := by
    refine RegWrite.guard_kept _ _ _ ?_
    rw [hnew, fieldOf_ofNat _ (by decide), bits_setBits_ne (by decide)]
    rfl
  have hstore : u.setReg .BMV_CH_CTRL c (withField (u.writeSeen .BMV_CH_CTRL c v m).new 0 1 0) = u.chanCtrlCleared c := by
    rw [hnew, withField_setBits_bit0]
    rfl
  have hwrite : u.performWrite r .BMV_CH_CTRL c v m = u.chanCtrl c (u.writeSeen .BMV_CH_CTRL c v m) := u.performWrite_bmv r rfl c v m
  subst h1 h2 h3 hon hoff hab hap
  rw [hwrite, State.chanCtrl, hguard, hstore]
  rfl

end ChanCtrl

/-- The word and mask of a write of ENABLE alone, of ABORT alone and of APPEND alone. -/
def oneBit (k n : Nat) : Word := withField 0 k 1 n

section Admitted
variable {s u w : State} {r : Requester} {c : BitVec 12} (h : s.admitWrite r .BMV_CH_CTRL c.toNat = (true, u))
  (hw : w = u.setReg .BMV_CH_CTRL c.toNat (withField (u.reg .BMV_CH_CTRL c.toNat) 0 1 0))
include h hw

theorem exec_channelEnable_of : exec (.channelEnable r c) s = .next (w.chanEnable c.toNat) := by
  have hn : fieldOf (u.writeSeen .BMV_CH_CTRL c.toNat (oneBit 0 1) (oneBit 0 1)).new 0 1 = 1 :=
    (written_at (f := ⟨0, 1, .RW, 0⟩) (by unfold FieldInfo.apart; decide) (by decide) (.inl rfl) (by decide) (by decide) _ _).trans (by decide)
  subst hw
  refine next_of ((State.directWrite_undomained h rfl _ _).trans ?_)
  exact u.performWrite_chanCtrl r c.toNat (v := oneBit 0 1) (m := oneBit 0 1) (by decide) (on := true) (abort := false) (append := false)
    (by rw [hn]; decide) (off := false) (by rw [hn]; decide) (by decide) (by decide) rfl rfl rfl

theorem exec_channelDisable_of : exec (.channelDisable r c) s = .next (w.chanDisable c.toNat) := by
  have hn : fieldOf (u.writeSeen .BMV_CH_CTRL c.toNat (oneBit 0 0) (oneBit 0 1)).new 0 1 = 0 :=
    (written_at (f := ⟨0, 1, .RW, 0⟩) (by unfold FieldInfo.apart; decide) (by decide) (.inl rfl) (by decide) (by decide) _ _).trans (by decide)
  subst hw
  refine next_of ((State.directWrite_undomained h rfl _ _).trans ?_)
  exact u.performWrite_chanCtrl r c.toNat (v := oneBit 0 0) (m := oneBit 0 1) (by decide) (on := false) (abort := false) (append := false)
    (by rw [hn]; decide) (off := true) (by rw [hn]; decide) (by decide) (by decide) rfl rfl rfl

theorem exec_abort_of : exec (.abort r c) s = .next (w.chanAbort c.toNat) := by
  have hm : (fieldOf (oneBit 1 1) 0 1 != 0) = false := by decide
  subst hw
  refine next_of ((State.directWrite_undomained h rfl _ _).trans ?_)
  exact u.performWrite_chanCtrl r c.toNat (v := oneBit 1 1) (m := oneBit 1 1) (by decide) (on := false) (abort := true) (append := false)
    (by rw [hm]; rfl) (off := false) (by rw [hm]; rfl) (by decide) (by decide) rfl rfl rfl

theorem exec_append_of : exec (.append r c) s = .next (w.chanAppend c.toNat) := by
  have hm : (fieldOf (oneBit 2 1) 0 1 != 0) = false := by decide
  subst hw
  refine next_of ((State.directWrite_undomained h rfl _ _).trans ?_)
  exact u.performWrite_chanCtrl r c.toNat (v := oneBit 2 1) (m := oneBit 2 1) (by decide) (on := false) (abort := false) (append := true)
    (by rw [hm]; rfl) (off := false) (by rw [hm]; rfl) (by decide) (by decide) rfl rfl rfl

end Admitted

/-! ## A channel by its state (R368, R369, R371, R372) -/

section Channel
variable {s : State} {c : Nat} {v : Channel} (hv : v = s.chan c)
include hv

theorem State.chanEnable_busy (h : v.state = .RUNNING ∨ v.state = .WAIT_END) : s.chanEnable c = s := by
  subst hv
  exact if_pos (by rcases h with h | h <;> rw [h] <;> decide)

section Stopped
variable (h : v.state = .DISABLED ∨ v.state = .HALTED)
include h

theorem State.chanEnable_stopped : s.chanEnable c =
    if !s.chanCfgOk c then s.setChan c { v with lastStatus := BitVec.ofNat 8 Code.MALFORMED }
    else if !s.chanSliceOk c then s.setChan c { v with lastStatus := 0xF2 }
    else (s.setChan c { v with
      state := .RUNNING, stopping := false, appendPending := false, gen := s.sliceGen (s.chanSlice c), retries := 0,
      pending := if v.state == .DISABLED then 0 else v.pending, done := if v.state == .DISABLED then 0 else v.done }).chanFetch c
      (32 * s.fld Fld.BMV_CH_NEXT_ADDR c) false := by
  subst hv
  exact if_neg (by rcases h with h | h <;> rw [h] <;> decide)

theorem State.chanEnable_badCfg (hc : s.chanCfgOk c = false) : s.chanEnable c = s.setChan c { v with lastStatus := BitVec.ofNat 8 Code.MALFORMED } :=
  (State.chanEnable_stopped hv h).trans (if_pos (by rw [hc]; rfl))

theorem State.chanEnable_badSlice (hc : s.chanCfgOk c = true) (hs : s.chanSliceOk c = false) : s.chanEnable c = s.setChan c { v with lastStatus := 0xF2 } :=
  (State.chanEnable_stopped hv h).trans ((if_neg (by rw [hc]; decide)).trans (if_pos (by rw [hs]; rfl)))

theorem State.chanEnable_accepted (hc : s.chanCfgOk c = true) (hs : s.chanSliceOk c = true) : s.chanEnable c = (s.setChan c { v with
      state := .RUNNING, stopping := false, appendPending := false, gen := s.sliceGen (s.chanSlice c), retries := 0,
      pending := if v.state == .DISABLED then 0 else v.pending, done := if v.state == .DISABLED then 0 else v.done }).chanFetch c
      (32 * s.fld Fld.BMV_CH_NEXT_ADDR c) false :=
  (State.chanEnable_stopped hv h).trans ((if_neg (by rw [hc]; decide)).trans (if_neg (by rw [hs]; decide)))

theorem State.chanAbort_stopped : s.chanAbort c = s := by
  subst hv
  exact if_pos (by rcases h with h | h <;> rw [h] <;> decide)

theorem State.chanAppend_stopped : s.chanAppend c = s.bump .BMV_DB_IGNORED 0 := by
  subst hv
  rcases h with h | h <;> simp only [State.chanAppend, h]

end Stopped

theorem State.chanEnable_fresh (h : v.state = .DISABLED) (hc : s.chanCfgOk c = true) (hs : s.chanSliceOk c = true) : s.chanEnable c = (s.setChan c { v with
      state := .RUNNING, stopping := false, appendPending := false, gen := s.sliceGen (s.chanSlice c), retries := 0, pending := 0, done := 0 }).chanFetch c
      (32 * s.fld Fld.BMV_CH_NEXT_ADDR c) false := by
  rw [State.chanEnable_accepted hv (.inl h) hc hs, if_pos (beq_iff_eq.mpr h), if_pos (beq_iff_eq.mpr h)]

theorem State.chanEnable_again (h : v.state = .HALTED) (hc : s.chanCfgOk c = true) (hs : s.chanSliceOk c = true) : s.chanEnable c = (s.setChan c { v with
      state := .RUNNING, stopping := false, appendPending := false, gen := s.sliceGen (s.chanSlice c), retries := 0 }).chanFetch c
      (32 * s.fld Fld.BMV_CH_NEXT_ADDR c) false := by
  have hne : ¬ (v.state == .DISABLED) = true := by rw [h]; decide
  rw [State.chanEnable_accepted hv (.inr h) hc hs, if_neg hne, if_neg hne]

theorem State.chanDisable_disabled (h : v.state = .DISABLED) : s.chanDisable c = s := by
  subst hv
  simp only [State.chanDisable, h]

theorem State.chanDisable_halted (h : v.state = .HALTED) : s.chanDisable c = s.setChan c { v with state := .DISABLED } := by
  subst hv
  simp only [State.chanDisable, h]

theorem State.chanDisable_serving (h : v.state = .RUNNING) (hs : v.serving.isSome = true) : s.chanDisable c = s.setChan c { v with stopping := true } := by
  subst hv
  simp only [State.chanDisable, h, hs, if_true]

theorem State.chanDisable_atBoundary (h : v.state = .WAIT_END ∨ v.state = .RUNNING ∧ v.serving = none) : s.chanDisable c = s.chanStop c := by
  subst hv
  rcases h with h | ⟨h, hs⟩
  · simp only [State.chanDisable, h]
  · simp only [State.chanDisable, h, hs, Option.isSome_none, Bool.false_eq_true, if_false]

theorem State.chanAppend_running (h : v.state = .RUNNING) : s.chanAppend c = s.setChan c { v with appendPending := true } := by
  subst hv
  simp only [State.chanAppend, h]

theorem State.chanAppend_waiting (h : v.state = .WAIT_END) (hf : v.fetch = none) : s.chanAppend c = s.chanFetch c v.cur true := by
  subst hv
  simp only [State.chanAppend, h, hf, Option.isSome_none, Bool.false_eq_true, if_false]

theorem State.chanAbort_serving (h : v.state = .RUNNING) (hs : v.serving.isSome = true) {w : State}
    (hw : w = (s.setFld Fld.BMV_CH_NEXT_ADDR c (v.cur / 32)).chanClear c) : s.chanAbort c = (w.setChan c { w.chan c with
      state := if v.stopping then .DISABLED else .HALTED, stopping := false, appendPending := false, lastStatus := 0xF1 }).chanEvent c := by
  subst hv
  unfold State.chanAbort State.chanHalt
  dsimp only
  rw [h, if_neg (by decide), hs, if_pos rfl, if_neg (by decide), if_neg (by decide), ← hw]
  rfl

end Channel

/-! ## Descriptors (R361 to R363, R372) -/

section Fetched
variable {s : State} {c : Nat} {v : Channel} {f : Fetch} (hv : v = s.chan c)

theorem State.descFetched_idle (h : (s.chan c).fetch = none) : s.descFetched c = s := by
  unfold State.descFetched
  dsimp only
  rw [h]

variable (hf : v.fetch = some f) (hs : s.fld Fld.BMV_CH_CFG_DESC_SPACE c = 0) (ha : f.addr + 32 ≤ 2 ^ 64)
include hv hf hs ha

/-- A descriptor in host memory, once its reads are done. -/
theorem State.descFetched_host : s.descFetched c =
    match (if f.relink then f.tail.map (fun t => List.replicate 16 0 ++ t)
      else match f.head, f.tail with
        | some h, some t => some (h ++ t)
        | _, _ => none) with
    | none => s
    | some b =>
      if f.relink then s.chanRelinked c (b.drop 16)
      else if v.serving.isSome then
        (s.setChan c { v with fetch := none }).setChan c { (s.setChan c { v with fetch := none }).chan c with ahead := some (descOf b) }
      else (s.setChan c { v with fetch := none }).chanServe c f.addr (descOf b) := by
  subst hv
  have hin : s.inSpace 0 f.addr 32 = true := decide_eq_true ha
  unfold State.descFetched
  dsimp only
  rw [hf]
  dsimp only
  rw [hs, bne_self_eq_false, if_neg Bool.false_ne_true, Bool.false_and, hin] <;> rfl

theorem State.descFetched_relink {t : List Byte} (hr : f.relink = true) (ht : f.tail = some t) : s.descFetched c = s.chanRelinked c t := by
  rw [State.descFetched_host hv hf hs ha, hr, if_pos rfl, ht]
  rfl

variable (hr : f.relink = false)
include hr

theorem State.descFetched_waits (hb : f.head = none ∨ f.tail = none) : s.descFetched c = s := by
  rw [State.descFetched_host hv hf hs ha, hr, if_neg Bool.false_ne_true]
  rcases hb with hb | hb
  · rw [hb]
  · rw [hb]
    cases f.head <;> rfl

variable {h t : List Byte} (hh : f.head = some h) (ht : f.tail = some t)
include hh ht

theorem State.descFetched_serves (hn : v.serving = none) :
    s.descFetched c = (s.setChan c { v with fetch := none }).chanServe c f.addr (descOf (h ++ t)) := by
  rw [State.descFetched_host hv hf hs ha, hr, if_neg Bool.false_ne_true, hh, ht]
  dsimp only
  rw [if_neg Bool.false_ne_true, if_neg (by rw [hn]; decide)]

theorem State.descFetched_ahead {d : Desc} {w : State} (hd : v.serving = some d) (hw : w = s.setChan c { v with fetch := none }) :
    s.descFetched c = w.setChan c { w.chan c with ahead := some (descOf (h ++ t)) } := by
  rw [State.descFetched_host hv hf hs ha, hr, if_neg Bool.false_ne_true, hh, ht, hw]
  dsimp only
  rw [if_neg Bool.false_ne_true, if_pos (by rw [hd]; rfl)]

end Fetched

section Serve
variable {s w : State} {c a : Nat} {d : Desc} (hw : w = s.setChan c { s.chan c with
  serving := some d, ahead := none, cur := a, issued := 0, written := 0, granted := 0, blocks := [], retries := 0, flushed := false })
include hw

theorem State.chanServe_eq : s.chanServe c a d =
    if w.descBad c d then w.chanHalt c Code.MALFORMED else if d.eoc then w.chanWake c else (w.chanWake c).chanFetch c d.next false := by
  rw [hw]
  rfl

theorem State.chanServe_bad (h : w.descBad c d = true) : s.chanServe c a d = w.chanHalt c Code.MALFORMED :=
  (State.chanServe_eq hw).trans (if_pos h)

variable (h : w.descBad c d = false)
include h

theorem State.chanServe_last (he : d.eoc = true) : s.chanServe c a d = w.chanWake c :=
  (State.chanServe_eq hw).trans ((if_neg (Bool.eq_false_iff.mp h)).trans (if_pos he))

theorem State.chanServe_more (he : d.eoc = false) : s.chanServe c a d = (w.chanWake c).chanFetch c d.next false :=
  (State.chanServe_eq hw).trans ((if_neg (Bool.eq_false_iff.mp h)).trans (if_neg (Bool.eq_false_iff.mp he)))

end Serve

theorem State.descBad_of (s : State) (c : Nat) {d : Desc}
    (h : d.len = 0 ∨ d.reserved = true ∨ (d.swap = 1 ∧ d.len % 2 ≠ 0) ∨ (2 ≤ d.swap ∧ d.len % 4 ≠ 0) ∨ (d.eoc = false ∧ d.next % 32 ≠ 0)) :
    s.descBad c d = true := by
  unfold State.descBad
  simp only [Bool.or_eq_true, Bool.and_eq_true, beq_iff_eq, bne_iff_ne, decide_eq_true_eq, Bool.not_eq_true']
  tauto

section Relinked
variable {s w : State} {c : Nat} {tail : List Byte} (hw : w = s.setChan c { s.chan c with fetch := none })
include hw

theorem State.chanRelinked_goesOn (he : bit (leAt tail 0 8) 28 = false) (hn : leAt tail 8 8 % 32 = 0) :
    s.chanRelinked c tail = (w.setChan c { w.chan c with state := .RUNNING }).chanFetch c (leAt tail 8 8) false := by
  unfold State.chanRelinked
  dsimp only
  rw [← hw, he, hn, bne_self_eq_false, if_neg Bool.false_ne_true, if_neg Bool.false_ne_true]

theorem State.chanRelinked_parks {x : State} (hx : x = (w.setChan c { w.chan c with state := .WAIT_END }).bump .BMV_APPEND_EMPTY 0)
    (he : bit (leAt tail 0 8) 28 = true) (hp : (x.chan c).appendPending = false) : s.chanRelinked c tail = x := by
  unfold State.chanRelinked
  dsimp only
  rw [← hw, ← hx, he, hp, if_pos rfl, if_neg Bool.false_ne_true]

end Relinked

/-! ## The read engine's turn (R358, R359) -/

theorem State.readTurn_none {s : State} {h : Nat} (hn : s.nextRequester h = none) (tags : List Nat) : s.readTurn h tags = s := by
  unfold State.readTurn
  rw [hn]

/-- A requester of a port was served (R359). -/
def State.requesterServed (t : State) (h q : Nat) : State := { t with hep := { t.hep with last := SMap.set (fun _ => 0) h (q + 1) t.hep.last } }

section Turn
variable {s t : State} {h q : Nat} {tags : List Nat} (hn : s.nextRequester h = some q)
include hn

theorem State.readTurn_want {w : Want} (hw : s.wantOf h q = some w) (ht : s.issueWant w tags = some t) : s.readTurn h tags = t.requesterServed h q := by
  unfold State.readTurn
  rw [hn]
  dsimp only
  rw [hw]
  dsimp only
  rw [ht]
  rfl

theorem State.readTurn_block (hw : s.wantOf h q = none) (ht : s.chanIssue (q - 2) = .inr t) : s.readTurn h tags = t.requesterServed h q := by
  unfold State.readTurn
  rw [hn]
  dsimp only
  rw [hw]
  dsimp only
  rw [ht]
  rfl

end Turn

/-! ## Descriptors done, bursts, lines and shares (R358, R365, R366, R369, R372) -/

section Done
variable {s : State} {c : Nat} {v : Channel} (hv : v = s.chan c)
include hv

theorem State.descDone_idle (h : v.serving = none) : s.descDone c = s := by
  subst hv
  unfold State.descDone
  dsimp only
  rw [h]

theorem State.pacedBurst_idle (h : v.serving = none) : s.pacedBurst c = s := by
  subst hv
  unfold State.pacedBurst
  dsimp only
  rw [h]

variable {d : Desc} (hd : v.serving = some d) (hr : v.state = .RUNNING)
include hd hr

theorem State.descDone_running {w : State} (hw : w = (s.setChan c { v with serving := none, done := v.done + 1 }).bump .BMV_DESC_DONE 0) : s.descDone c =
    if v.written < d.len || (d.barrier && s.fld Fld.BMV_CH_CFG_DST_SPACE c == 0 && !v.flushed) then s
    else if v.stopping then (if d.irq then w.chanEvent c else w).chanStop c
    else if d.eoc then
      if v.appendPending then ((if d.irq then w.chanEvent c else w).setChan c
        { (if d.irq then w.chanEvent c else w).chan c with appendPending := false }).chanFetch c v.cur true
      else (if d.irq then w.chanEvent c else w).setChan c { (if d.irq then w.chanEvent c else w).chan c with state := .WAIT_END }
    else match v.ahead with
      | some a => (if d.irq then w.chanEvent c else w).chanServe c d.next a
      | none => (if d.irq then w.chanEvent c else w) := by
  subst hv hw
  unfold State.descDone
  dsimp only
  rw [hd]
  dsimp only
  rw [hr, bne_self_eq_false, Bool.false_or] <;> rfl

theorem State.descDone_unwritten (h : v.written < d.len) : s.descDone c = s :=
  (State.descDone_running hv hd hr rfl).trans (if_pos (by rw [decide_eq_true h]; rfl))

theorem State.descDone_unflushed (hb : d.barrier = true) (hs : s.fld Fld.BMV_CH_CFG_DST_SPACE c = 0) (hf : v.flushed = false) : s.descDone c = s :=
  (State.descDone_running hv hd hr rfl).trans (if_pos (by rw [hb, hs, hf]; exact Bool.or_true _))

section Counted
variable {w : State} (hw : w = (s.setChan c { v with serving := none, done := v.done + 1 }).bump .BMV_DESC_DONE 0) (hl : d.len ≤ v.written)
  (hb : d.barrier = false ∨ s.fld Fld.BMV_CH_CFG_DST_SPACE c ≠ 0 ∨ v.flushed = true)
include hw hl hb

theorem State.descDone_counted : s.descDone c =
    if v.stopping then (if d.irq then w.chanEvent c else w).chanStop c
    else if d.eoc then
      if v.appendPending then ((if d.irq then w.chanEvent c else w).setChan c
        { (if d.irq then w.chanEvent c else w).chan c with appendPending := false }).chanFetch c v.cur true
      else (if d.irq then w.chanEvent c else w).setChan c { (if d.irq then w.chanEvent c else w).chan c with state := .WAIT_END }
    else match v.ahead with
      | some a => (if d.irq then w.chanEvent c else w).chanServe c d.next a
      | none => (if d.irq then w.chanEvent c else w) :=
  (State.descDone_running hv hd hr hw).trans (if_neg (by
    rw [decide_eq_false (Nat.not_lt.mpr hl)]
    rcases hb with h | h | h <;> simp [h]))

theorem State.descDone_stops (h : v.stopping = true) : s.descDone c = (if d.irq then w.chanEvent c else w).chanStop c :=
  (State.descDone_counted hv hd hr hw hl hb).trans (if_pos h)

variable {x : State} (hx : x = if d.irq then w.chanEvent c else w) (hp : v.stopping = false)
include hx hp

theorem State.descDone_goesOn : s.descDone c =
    if d.eoc then
      if v.appendPending then (x.setChan c { x.chan c with appendPending := false }).chanFetch c v.cur true
      else x.setChan c { x.chan c with state := .WAIT_END }
    else match v.ahead with
      | some a => x.chanServe c d.next a
      | none => x := by
  rw [State.descDone_counted hv hd hr hw hl hb, if_neg (Bool.eq_false_iff.mp hp), ← hx]

theorem State.descDone_parks (he : d.eoc = true) (ha : v.appendPending = false) : s.descDone c = x.setChan c { x.chan c with state := .WAIT_END } :=
  (State.descDone_goesOn hv hd hr hw hl hb hx hp).trans ((if_pos he).trans (if_neg (Bool.eq_false_iff.mp ha)))

theorem State.descDone_rereads (he : d.eoc = true) (ha : v.appendPending = true) :
    s.descDone c = (x.setChan c { x.chan c with appendPending := false }).chanFetch c v.cur true :=
  (State.descDone_goesOn hv hd hr hw hl hb hx hp).trans ((if_pos he).trans (if_pos ha))

theorem State.descDone_serves {a : Desc} (he : d.eoc = false) (ha : v.ahead = some a) : s.descDone c = x.chanServe c d.next a := by
  rw [State.descDone_goesOn hv hd hr hw hl hb hx hp, if_neg (Bool.eq_false_iff.mp he), ha]

theorem State.descDone_waits (he : d.eoc = false) (ha : v.ahead = none) : s.descDone c = x := by
  rw [State.descDone_goesOn hv hd hr hw hl hb hx hp, if_neg (Bool.eq_false_iff.mp he), ha]

end Counted

theorem State.pacedBurst_running : s.pacedBurst c =
    if d.paced && v.granted < d.len && v.issued == v.granted && 0 < v.pending then
      s.setChan c { v with pending := v.pending - 1, granted := min d.len (v.granted + 2 ^ s.fld Fld.BMV_CH_CFG_BURST_LOG2 c) }
    else s := by
  subst hv
  unfold State.pacedBurst
  dsimp only
  rw [hd]
  dsimp only
  rw [hr, beq_self_eq_true, Bool.true_and]

theorem State.pacedBurst_starts (hp : d.paced = true) (hg : v.granted < d.len) (hi : v.issued = v.granted) (h0 : 0 < v.pending) : s.pacedBurst c =
    s.setChan c { v with pending := v.pending - 1, granted := min d.len (v.granted + 2 ^ s.fld Fld.BMV_CH_CFG_BURST_LOG2 c) } :=
  (State.pacedBurst_running hv hd hr).trans (if_pos (by rw [hp, decide_eq_true hg, hi, beq_self_eq_true, decide_eq_true h0]; rfl))

theorem State.pacedBurst_waits (h : d.paced = false ∨ d.len ≤ v.granted ∨ v.issued ≠ v.granted ∨ v.pending = 0) : s.pacedBurst c = s :=
  (State.pacedBurst_running hv hd hr).trans (if_neg (by rcases h with h | h | h | h <;> simp [h]))

end Done

theorem exec_requestLineRaise_written {s u : State} {r : Requester} (h : s.admitWrite r .BMV_REQ_RAISE 0 = (true, u)) (line : BitVec 8) :
    exec (.requestLineRaise (some r) line) s = .next (u.raiseLine line.toNat) := by
  refine next_of ((State.directWrite_undomained h rfl _ _).trans ((u.performWrite_bmv r rfl 0 _ _).trans ?_))
  exact congrArg u.raiseLine (fieldOf_lowWrite line (by decide))

theorem portStage_apart : RegName.BMV_PORT_STAGE.info.fields.Pairwise FieldInfo.apart := by unfold FieldInfo.apart; decide

section Shares
variable {s u : State} {r : Requester} {h : Fin 16} (ha : s.admitWrite r .BMV_PORT_STAGE h = (true, u)) (v : Word)
include ha

/-- The three shares of a write, as the word it leaves has them. -/
theorem exec_stageShares : ∃ n : Nat, bits n 0 10 = bits v.toNat 0 10 ∧ bits n 10 10 = bits v.toNat 10 10 ∧ bits n 20 10 = bits v.toNat 20 10 ∧
    exec (.stageSharesWrite r h v) s = .next (if 512 < bits v.toNat 0 10 + bits v.toNat 10 10 + bits v.toNat 20 10
      then u.setFld Fld.BMV_STATUS_CFG_REFUSED 0 1 else u.setReg .BMV_PORT_STAGE h (BitVec.ofNat 64 (bits n 0 30))) := by
  have share := fun (f : FieldInfo) hf hw ha => u.writeSeen_whole (f := f) portStage_apart hf (.inl ha) hw h v
  have h0 := share ⟨0, 10, .RW, 256⟩ (by decide) (by decide) rfl
  have h1 := share ⟨10, 10, .RW, 192⟩ (by decide) (by decide) rfl
  have h2 := share ⟨20, 10, .RW, 64⟩ (by decide) (by decide) rfl
  refine ⟨_, h0, h1, h2, ?_⟩
  rw [← h0, ← h1, ← h2]
  exact next_of ((State.directWrite_undomained ha rfl _ _).trans (u.performWrite_bmv r rfl h v wholeMask))

theorem exec_stageShares_refused (hs : 512 < bits v.toNat 0 10 + bits v.toNat 10 10 + bits v.toNat 20 10) :
    exec (.stageSharesWrite r h v) s = .next (u.setFld Fld.BMV_STATUS_CFG_REFUSED 0 1) := by
  obtain ⟨n, -, -, -, he⟩ := exec_stageShares ha v
  exact he.trans (next_of (if_pos hs))

theorem exec_stageShares_stored (hs : bits v.toNat 0 10 + bits v.toNat 10 10 + bits v.toNat 20 10 ≤ 512) :
    ∃ x : Word, fieldOf x 0 10 = bits v.toNat 0 10 ∧ fieldOf x 10 10 = bits v.toNat 10 10 ∧ fieldOf x 20 10 = bits v.toNat 20 10 ∧
      exec (.stageSharesWrite r h v) s = .next (u.setReg .BMV_PORT_STAGE h x) := by
  obtain ⟨n, h0, h1, h2, he⟩ := exec_stageShares ha v
  have low : ∀ {lo : Nat}, lo + 10 ≤ 30 → fieldOf (BitVec.ofNat 64 (bits n 0 30)) lo 10 = bits n lo 10 := by
    intro lo hl
    rw [fieldOf_ofNat _ (by omega), bits_eq n 0 30, Nat.pow_zero, Nat.div_one, bits_mod hl]
  exact ⟨BitVec.ofNat 64 (bits n 0 30), (low (by decide)).trans h0, (low (by decide)).trans h1, (low (by decide)).trans h2,
    he.trans (next_of (if_neg (Nat.not_lt.mpr hs)))⟩

end Shares

/-- Settles O41: a write of BMV_CH_CTRL by the bit it carries, what that does by the channel's state, and a descriptor by what was fetched of it, by
the checks of its fields and by how the chain goes on. -/
theorem bulkMover : Obligations.BulkMover := by
  unfold Obligations.BulkMover
  refine ⟨?control, ?channel, ?abort, ?noFetch, ?fetched, ?serve, ?bad, ?relinked, ?noTurn, ?turn, ?idle, ?done, ?line, ?lineWrite, ?raise, ?shares⟩
  case control =>
    exact fun s u w r c h hw => ⟨exec_channelEnable_of h hw, exec_channelDisable_of h hw, exec_abort_of h hw, exec_append_of h hw⟩
  case channel =>
    exact fun s c v hv => ⟨State.chanEnable_busy hv, State.chanEnable_badCfg hv, State.chanEnable_badSlice hv, State.chanEnable_fresh hv,
      State.chanEnable_again hv, State.chanDisable_disabled hv, State.chanDisable_halted hv, State.chanDisable_serving hv, State.chanDisable_atBoundary hv,
      fun h => ⟨State.chanAbort_stopped hv h, State.chanAppend_stopped hv h⟩, State.chanAppend_running hv, State.chanAppend_waiting hv⟩
  case abort => exact fun s w c v hv h hs hw => State.chanAbort_serving hv h hs hw
  case noFetch => exact fun s c h => next_of (State.descFetched_idle h)
  case fetched =>
    exact fun s c v f h t hv hf hs ha => ⟨fun hr ht => next_of (State.descFetched_relink hv hf hs ha hr ht),
      fun hr hh ht hn => next_of (State.descFetched_serves hv hf hs ha hr hh ht hn),
      fun d w hr hh ht hd hw => next_of (State.descFetched_ahead hv hf hs ha hr hh ht hd hw), fun hr hb => next_of (State.descFetched_waits hv hf hs ha hr hb)⟩
  case serve => exact fun s w c a d hw => ⟨State.chanServe_bad hw, State.chanServe_last hw, State.chanServe_more hw⟩
  case bad => exact fun s c d => s.descBad_of c
  case relinked => exact fun s w c tail hw => ⟨State.chanRelinked_goesOn hw, fun x hx => State.chanRelinked_parks hw hx⟩
  case noTurn => exact fun s h tags hn => next_of (State.readTurn_none hn _)
  case turn =>
    exact fun s h tags q hn => ⟨fun w t hw ht => next_of (State.readTurn_want hn hw ht), fun t hw ht => next_of (State.readTurn_block hn hw ht)⟩
  case idle => exact fun s c v hv h => ⟨next_of (State.descDone_idle hv h), next_of (State.pacedBurst_idle hv h)⟩
  case done =>
    intro s w c v d hv hd hr hw
    refine ⟨fun h => next_of (State.descDone_unwritten hv hd hr h), fun hb hs hf => next_of (State.descDone_unflushed hv hd hr hb hs hf), fun hl hb => ?counted,
      fun hp hg hi h0 => next_of (State.pacedBurst_starts hv hd hr hp hg hi h0), fun h => next_of (State.pacedBurst_waits hv hd hr h)⟩
    case counted =>
      exact ⟨fun h => next_of (State.descDone_stops hv hd hr hw hl hb h), fun x hx hp =>
        ⟨fun he ha => next_of (State.descDone_parks hv hd hr hw hl hb hx hp he ha), fun he ha => next_of (State.descDone_rereads hv hd hr hw hl hb hx hp he ha),
          fun a he ha => next_of (State.descDone_serves hv hd hr hw hl hb hx hp he ha), fun he ha => next_of (State.descDone_waits hv hd hr hw hl hb hx hp he ha)⟩⟩
  case line => exact fun s line h => next_of (if_pos h)
  case lineWrite => exact fun s u r line h => exec_requestLineRaise_written h line
  case raise => exact fun s line => rfl
  case shares => exact fun s u r h v ha _ => ⟨exec_stageShares_refused ha v, exec_stageShares_stored ha v⟩

end Sys2Proof.Machine
end

section
/-! PROOF. Instructions of a thread (R377 to R391): what the thread issues, what each stage instruction does by its funct3, and the waits, channel
operations and debug halts about them. -/

namespace Sys2Proof.Machine

/-! ## Issue (R377, R382, R391) -/

section Issue
variable {s : State} {t : Nat}

theorem State.issue_waits (h : s.canIssue t = false) (want : Nat → Bool) : s.issue t want = s := if_pos (by rw [h]; rfl)

variable (h : s.canIssue t = true)
include h

theorem State.issue_interrupted (hi : (s.thread t).interrupts t = true) (want : Nat → Bool) : s.issue t want = s.setThread t (s.thread t).takeInterrupt :=
  (if_neg (by rw [h]; decide)).trans (if_pos hi)

variable (hi : (s.thread t).interrupts t = false)
include hi

/-- No interrupt is due: the fetch decides. -/
theorem State.issue_fetch (want : Nat → Bool) : s.issue t want = match s.fetch t with
    | .inl c => s.threadFault t c (s.thread t).pc
    | .inr (none, c, _) => s.threadFault t 2 (BitVec.ofNat 64 c)
    | .inr (some i, _, n) => if want i then State.retire_ t (s.exec32 t i n) else s :=
  (if_neg (by rw [h]; decide)).trans (if_neg (Bool.eq_false_iff.mp hi))

theorem State.issue_fetchFault {c : Nat} (hf : s.fetch t = .inl c) (want : Nat → Bool) : s.issue t want = s.threadFault t c (s.thread t).pc := by
  rw [State.issue_fetch h hi, hf]

theorem State.issue_noInstruction {c n : Nat} (hf : s.fetch t = .inr (none, c, n)) (want : Nat → Bool) :
    s.issue t want = s.threadFault t 2 (BitVec.ofNat 64 c) := by
  rw [State.issue_fetch h hi, hf]

theorem State.issue_runs {i c n : Nat} (hf : s.fetch t = .inr (some i, c, n)) {want : Nat → Bool} (hw : want i = true) :
    s.issue t want = State.retire_ t (s.exec32 t i n) := by
  rw [State.issue_fetch h hi, hf]
  exact if_pos hw

end Issue

/-- A stage instruction goes on to the next PC, and its funct3 picks what it does (R383). -/
theorem State.exec32_stage (s : State) (t : Nat) {i : Nat} (n : Nat) (h : i % 128 = 0x0B) :
    s.exec32 t i n = s.stage_ t i ((s.thread t).pc + BitVec.ofNat 64 n) := by
  unfold State.exec32
  rw [h]
  rfl

theorem isStage_of {f3 i : Nat} (h : i % 128 = 0x0B) (hf : bits i 12 3 = f3) : isStage f3 i = true := by
  rw [isStage, h, hf, beq_self_eq_true, beq_self_eq_true]
  rfl

theorem State.issue_stage {s : State} {t i c n f3 : Nat} (h : s.canIssue t = true) (hi : (s.thread t).interrupts t = false)
    (hf : s.fetch t = .inr (some i, c, n)) (ho : i % 128 = 0x0B) (h3 : bits i 12 3 = f3) :
    s.issue t (isStage f3) = State.retire_ t (s.stage_ t i ((s.thread t).pc + BitVec.ofNat 64 n)) := by
  rw [State.issue_runs h hi hf (isStage_of ho h3), State.exec32_stage s t n ho]

/-! ## The stage extension (R381, R383 to R385, R389) -/

section Stage
variable {s : State} {t i : Nat} {pc : Word} {v : Thread} {a b : Word} (hv : v = s.thread t) (ha : a = v.get (bits i 15 5)) (hb : b = v.get (bits i 20 5))

theorem State.stage_upperBits (h3 : bits i 12 3 ≠ 6) (h7 : bits i 25 7 ≠ 0) : s.stage_ t i pc = .fault 2 (BitVec.ofNat 64 i) s :=
  if_pos (by rw [bne_iff_ne.mpr h3, bne_iff_ne.mpr h7]; rfl)

section Crc
variable (h3 : bits i 12 3 = 6)
include h3

theorem State.stage_crcBad (h7 : 4 ≤ bits i 25 7) : s.stage_ t i pc = .fault 2 (BitVec.ofNat 64 i) s := by
  unfold State.stage_
  dsimp only
  rw [h3, if_neg (by rw [bne_self_eq_false, Bool.false_and]; exact Bool.false_ne_true)]
  exact if_pos h7

include hv ha hb

theorem State.stage_crc (h7 : bits i 25 7 < 4) : s.stage_ t i pc =
    .next (s.putX t (bits i 7 5) (((toLE (2 ^ bits i 25 7) b.toNat).foldl crcByte (BitVec.ofNat 32 a.toNat)).zeroExtend 64)) pc := by
  subst hv ha hb
  unfold State.stage_
  dsimp only
  rw [h3, if_neg (by rw [bne_self_eq_false, Bool.false_and]; exact Bool.false_ne_true)]
  exact if_neg (Nat.not_le.mpr h7)

end Crc

/-- What an instruction of the extension does whose upper bits are zero, by its funct3. -/
def State.stageAct (s : State) (t i : Nat) (pc : Word) (v : Thread) (a b : Word) : Ran :=
  match bits i 12 3 with
  | 0 => s.waitev t (bits i 7 5) (BitVec.ofNat 32 a.toNat) b.toNat pc
  | 1 =>
    if bits i 7 5 != 0 || 32 ≤ b.toNat then .fault 2 (BitVec.ofNat 64 i) s
    else .next (s.setThread t { v with staging := SMap.set xDefault (8 * (b.toNat % 4) + b.toNat / 4) a v.staging }) pc
  | 2 =>
    if bits i 20 5 != 0 || 3 ≤ a.toNat then .fault 2 (BitVec.ofNat 64 i) s
    else .next ((s.commit t a.toNat []).2.putX t (bits i 7 5) (BitVec.ofNat 64 (s.commit t a.toNat []).1)) pc
  | 3 =>
    if bits i 20 5 != 0 || 4 ≤ a.toNat then .fault 2 (BitVec.ofNat 64 i) s else .next (s.putX t (bits i 7 5) (s.chStatus t a.toNat)) pc
  | 4 =>
    if bits i 20 5 != 0 then .fault 2 (BitVec.ofNat 64 i) s
    else match ticketField a.toNat with
      | some (lo, w) => .next (s.putX t (bits i 7 5) (BitVec.ofNat 64 (bits v.ticket.toNat lo w))) pc
      | none => .fault 2 (BitVec.ofNat 64 i) s
  | 5 =>
    if bits i 7 5 != 0 then .fault 2 (BitVec.ofNat 64 i) s
    else match ticketField b.toNat with
      | some (lo, w) => .next (s.setThread t { v with ticket := BitVec.ofNat 128 (setBits v.ticket.toNat lo w a.toNat) }) pc
      | none => .fault 2 (BitVec.ofNat 64 i) s
  | 6 =>
    if 4 ≤ bits i 25 7 then .fault 2 (BitVec.ofNat 64 i) s
    else .next (s.putX t (bits i 7 5) (((toLE (2 ^ bits i 25 7) b.toNat).foldl crcByte (BitVec.ofNat 32 a.toNat)).zeroExtend 64)) pc
  | _ => .next ((s.commit t 3 (s.emitBytes t a.toNat b.toNat)).2.putX t (bits i 7 5) (BitVec.ofNat 64 (s.commit t 3 (s.emitBytes t a.toNat b.toNat)).1)) pc

variable (h7 : bits i 25 7 = 0)
include hv ha hb h7

theorem State.stage_act : s.stage_ t i pc = s.stageAct t i pc v a b := by
  subst hv ha hb
  exact if_neg (by rw [h7, bne_self_eq_false, Bool.and_false]; exact Bool.false_ne_true)

section Wait
variable {hit : BitVec 32} (hh : hit = v.evpend &&& waitMask t (BitVec.ofNat 32 a.toNat)) (h3 : bits i 12 3 = 0)
include hh h3

theorem State.stage_waitev : s.stage_ t i pc =
    if hit != 0 then .next (s.setThread t ({ v with evpend := v.evpend &&& ~~~ hit }.put (bits i 7 5) (hit.zeroExtend 64))) pc
    else .stay (s.setThread t { v with
      state := .WAITING
      wait := some (waitMask t (BitVec.ofNat 32 a.toNat), bits i 7 5, if b.toNat = 0 then none else some (s.engineCycles + b.toNat)) }) := by
  rw [State.stage_act hv ha hb h7, State.stageAct, h3, hh, hv]
  rfl

theorem State.stage_waitevHit (hne : hit ≠ 0) : s.stage_ t i pc =
    .next (s.setThread t ({ v with evpend := v.evpend &&& ~~~ hit }.put (bits i 7 5) (hit.zeroExtend 64))) pc :=
  (State.stage_waitev hv ha hb h7 hh h3).trans (if_pos (bne_iff_ne.mpr hne))

theorem State.stage_waitevWaits (hz : hit = 0) : s.stage_ t i pc = .stay (s.setThread t { v with
      state := .WAITING
      wait := some (waitMask t (BitVec.ofNat 32 a.toNat), bits i 7 5, if b.toNat = 0 then none else some (s.engineCycles + b.toNat)) }) :=
  (State.stage_waitev hv ha hb h7 hh h3).trans (if_neg (by rw [hz]; decide))

end Wait

theorem State.stage_chw (h3 : bits i 12 3 = 1) (hd : bits i 7 5 = 0) (hn : b.toNat < 32) : s.stage_ t i pc =
    .next (s.setThread t { v with staging := SMap.set xDefault (8 * (b.toNat % 4) + b.toNat / 4) a v.staging }) pc := by
  rw [State.stage_act hv ha hb h7, State.stageAct, h3]
  exact if_neg (by rw [hd, decide_eq_false (Nat.not_le.mpr hn)]; decide)

theorem State.stage_chwBad (h3 : bits i 12 3 = 1) (h : bits i 7 5 ≠ 0 ∨ 32 ≤ b.toNat) : s.stage_ t i pc = .fault 2 (BitVec.ofNat 64 i) s := by
  rw [State.stage_act hv ha hb h7, State.stageAct, h3]
  exact if_pos (by rw [Bool.or_eq_true, bne_iff_ne, decide_eq_true_eq]; exact h)

theorem State.stage_chcommit (h3 : bits i 12 3 = 2) (hr : bits i 20 5 = 0) (hn : a.toNat < 3) : s.stage_ t i pc =
    .next ((s.commit t a.toNat []).2.putX t (bits i 7 5) (BitVec.ofNat 64 (s.commit t a.toNat []).1)) pc := by
  rw [State.stage_act hv ha hb h7, State.stageAct, h3]
  exact if_neg (by rw [hr, decide_eq_false (Nat.not_le.mpr hn)]; decide)

theorem State.stage_chcommitBad (h3 : bits i 12 3 = 2) (h : bits i 20 5 ≠ 0 ∨ 3 ≤ a.toNat) : s.stage_ t i pc = .fault 2 (BitVec.ofNat 64 i) s := by
  rw [State.stage_act hv ha hb h7, State.stageAct, h3]
  exact if_pos (by rw [Bool.or_eq_true, bne_iff_ne, decide_eq_true_eq]; exact h)

theorem State.stage_chstat (h3 : bits i 12 3 = 3) (hr : bits i 20 5 = 0) (hn : a.toNat < 4) :
    s.stage_ t i pc = .next (s.putX t (bits i 7 5) (s.chStatus t a.toNat)) pc := by
  rw [State.stage_act hv ha hb h7, State.stageAct, h3]
  exact if_neg (by rw [hr, decide_eq_false (Nat.not_le.mpr hn)]; decide)

theorem State.stage_tktget {lo w : Nat} (h3 : bits i 12 3 = 4) (hr : bits i 20 5 = 0) (hf : ticketField a.toNat = some (lo, w)) :
    s.stage_ t i pc = .next (s.putX t (bits i 7 5) (BitVec.ofNat 64 (bits v.ticket.toNat lo w))) pc := by
  rw [State.stage_act hv ha hb h7, State.stageAct, h3]
  exact (if_neg (by rw [hr]; decide)).trans (by rw [hf])

theorem State.stage_tktset {lo w : Nat} (h3 : bits i 12 3 = 5) (hd : bits i 7 5 = 0) (hf : ticketField b.toNat = some (lo, w)) :
    s.stage_ t i pc = .next (s.setThread t { v with ticket := BitVec.ofNat 128 (setBits v.ticket.toNat lo w a.toNat) }) pc := by
  rw [State.stage_act hv ha hb h7, State.stageAct, h3]
  exact (if_neg (by rw [hd]; decide)).trans (by rw [hf])

theorem State.stage_tktgetBad (h3 : bits i 12 3 = 4) (hf : ticketField a.toNat = none) : s.stage_ t i pc = .fault 2 (BitVec.ofNat 64 i) s := by
  rw [State.stage_act hv ha hb h7, State.stageAct, h3]
  by_cases hz : (bits i 20 5 != 0) = true
  · exact if_pos hz
  · exact (if_neg hz).trans (by rw [hf])

theorem State.stage_tktsetBad (h3 : bits i 12 3 = 5) (hf : ticketField b.toNat = none) : s.stage_ t i pc = .fault 2 (BitVec.ofNat 64 i) s := by
  rw [State.stage_act hv ha hb h7, State.stageAct, h3]
  by_cases hz : (bits i 7 5 != 0) = true
  · exact if_pos hz
  · exact (if_neg hz).trans (by rw [hf])

theorem State.stage_frmemit (h3 : bits i 12 3 = 7) : s.stage_ t i pc =
    .next ((s.commit t 3 (s.emitBytes t a.toNat b.toNat)).2.putX t (bits i 7 5) (BitVec.ofNat 64 (s.commit t 3 (s.emitBytes t a.toNat b.toNat)).1)) pc := by
  rw [State.stage_act hv ha hb h7, State.stageAct, h3]
  rfl

end Stage

/-! ## Timed waits and event inputs (R380, R381) -/

section Timeout
variable {s : State} {t : Nat}

theorem State.waitTimeout_notWaiting (h : (s.thread t).state ≠ .WAITING) : s.waitTimeout t = s := by
  unfold State.waitTimeout
  dsimp only
  split
  case h_1 hw _ => exact absurd hw h
  case h_2 => rfl

variable {v : Thread} {m : BitVec 32} {rd due : Nat} (hv : v = s.thread t) (hs : v.state = .WAITING) (hw : v.wait = some (m, rd, some due))
include hv hs hw

theorem State.waitTimeout_waiting : s.waitTimeout t =
    if s.engineCycles < due then s
    else s.setThread t { (v.put rd 0) with wait := none, state := .RUNNING, pc := v.pc + 4, minstret := v.minstret + 1 } := by
  subst hv
  unfold State.waitTimeout
  dsimp only
  rw [hs, hw]

theorem State.waitTimeout_due (h : due ≤ s.engineCycles) :
    s.waitTimeout t = s.setThread t { (v.put rd 0) with wait := none, state := .RUNNING, pc := v.pc + 4, minstret := v.minstret + 1 } :=
  (State.waitTimeout_waiting hv hs hw).trans (if_neg (Nat.not_lt.mpr h))

theorem State.waitTimeout_early (h : s.engineCycles < due) : s.waitTimeout t = s := (State.waitTimeout_waiting hv hs hw).trans (if_pos h)

end Timeout

section Input
variable {s : State} {t : BitVec 11} {n : BitVec 5}

theorem exec_eventInputSet_set (hl : s.clusterLoaded (t.toNat / 256) = true) (h : inputSet t.toNat n.toNat = true) :
    exec (.eventInputSet t n) s = .next (s.setEvent t.toNat n.toNat) := next_of (if_pos (by rw [hl, h]; rfl))

theorem exec_eventInputSet_not (h : inputSet t.toNat n.toNat = false) : exec (.eventInputSet t n) s = .next s :=
  next_of (if_neg (by rw [h, Bool.and_false]; exact Bool.false_ne_true))

theorem inputSet_reserved {t n : Nat} (h : 10 ≤ n) (h' : n < 16) : inputSet t n = false := by
  rw [inputSet, decide_eq_true h, decide_eq_true h']
  exact Bool.and_false _

theorem inputSet_other {t n : Nat} (h : n < 2) (ht : t % 16 ≠ 0) : inputSet t n = false := by
  rw [inputSet, decide_eq_false (Nat.not_le.mpr h), beq_eq_false_iff_ne.mpr ht]
  rfl

end Input

/-! ## Channel operations (R385, R388) -/

section Operation
variable {s : State} {t : Nat}

theorem State.moverStart_none (h : s.opOf t 2 = none) : s.moverStart t = s := by
  unfold State.moverStart
  rw [h]

theorem State.moverStart_starts {o : ChanOp} (h : s.opOf t 2 = some o) (hr : o.result = none) (hs : leAt o.staged 0 1 = 1) :
    s.moverStart t = (s.moverOp t o.staged).2.opResult t 2 (toLE 1 (s.moverOp t o.staged).1) := by
  unfold State.moverStart
  rw [h]
  exact if_neg (by rw [hr, hs]; decide)

variable {w : State} {c : Nat} (hw : w = s.runOp t c)
include hw

theorem State.opDone_none (h : w.opOf t c = none) : s.opDone t c = w := by
  unfold State.opDone
  rw [← hw]
  dsimp only
  rw [h]

variable {o : ChanOp} (ho : w.opOf t c = some o)
include ho

theorem State.opDone_running (hr : o.result = none) : s.opDone t c = w := by
  unfold State.opDone
  rw [← hw]
  dsimp only
  rw [ho]
  dsimp only
  rw [hr]

variable {r : List Byte} (hr : o.result = some r)
include hr

/-- An operation leaves the channel. -/
theorem State.opDone_ends : s.opDone t c =
    let x : State := { w with trp := { w.trp with ops := w.trp.ops.erase o } }
    if o.stale then x
    else
      let y := match x.placeOf t ((x.thread t).chres.toNat + 32 * c) 32 with
        | some (.dmem k off) => x.writeDmem k off r
        | _ => x
      (y.setThread t { x.thread t with
        status := SMap.set (fun _ => 0) c (BitVec.ofNat 8 (leAt r 0 1)) (x.thread t).status
        ended := SMap.set (fun _ => 0) c (SMap.get (fun _ => 0) (x.thread t).ended c + 1) (x.thread t).ended }).setEvent t (2 + c) := by
  unfold State.opDone
  rw [← hw]
  dsimp only
  rw [ho]
  dsimp only
  rw [hr] <;> rfl

theorem State.opDone_stale (hs : o.stale = true) : s.opDone t c = { w with trp := { w.trp with ops := w.trp.ops.erase o } } :=
  (State.opDone_ends hw ho hr).trans (if_pos hs)

theorem State.opDone_leaves {x : State} {k off : Nat} (hs : o.stale = false) (hx : x = { w with trp := { w.trp with ops := w.trp.ops.erase o } })
    (hp : x.placeOf t ((x.thread t).chres.toNat + 32 * c) 32 = some (.dmem k off)) : s.opDone t c =
      ((x.writeDmem k off r).setThread t { x.thread t with
        status := SMap.set (fun _ => 0) c (BitVec.ofNat 8 (leAt r 0 1)) (x.thread t).status
        ended := SMap.set (fun _ => 0) c (SMap.get (fun _ => 0) (x.thread t).ended c + 1) (x.thread t).ended }).setEvent t (2 + c) := by
  rw [State.opDone_ends hw ho hr]
  dsimp only
  rw [← hx, if_neg (Bool.eq_false_iff.mp hs), hp]

end Operation

/-! ## Debug halts (R390) -/

section Debug
variable {s : State} {t : Nat}

theorem State.debugHalt_locked (h : s.vlt.debug = false) : s.debugHalt t = s := if_pos (by rw [h]; rfl)
theorem State.debugResume_locked (h : s.vlt.debug = false) : s.debugResume t = s := if_neg (by rw [h, Bool.false_and]; exact Bool.false_ne_true)

variable {v : Thread} (hv : v = s.thread t)
include hv

theorem State.debugHalt_halted (h : v.state = .HALTED) : s.debugHalt t = s := by
  subst hv
  exact if_pos (by rw [decide_eq_true h, Bool.or_true])

theorem State.debugHalt_holds (hd : s.vlt.debug = true) (h : v.state ≠ .HALTED) : s.debugHalt t =
    s.setThread t { v with state := .HALTED, held := if v.state = .WAITING then .RUNNING else v.state, wait := none } := by
  subst hv
  exact if_neg (by rw [hd, decide_eq_false h]; decide)

theorem State.debugHalt_waiting (hd : s.vlt.debug = true) (h : v.state = .WAITING) :
    s.debugHalt t = s.setThread t { v with state := .HALTED, held := .RUNNING, wait := none } := by
  rw [State.debugHalt_holds hv hd (by rw [h]; decide), if_pos h]

theorem State.debugHalt_other (hd : s.vlt.debug = true) (hw : v.state ≠ .WAITING) (h : v.state ≠ .HALTED) :
    s.debugHalt t = s.setThread t { v with state := .HALTED, held := v.state, wait := none } := by
  rw [State.debugHalt_holds hv hd h, if_neg hw]

theorem State.debugResume_restores (hd : s.vlt.debug = true) (h : v.state = .HALTED) :
    s.debugResume t = s.setThread t { v with state := v.held, held := .STOPPED } := by
  subst hv
  exact if_pos (by rw [hd, decide_eq_true h]; rfl)

theorem State.debugResume_notHalted (h : v.state ≠ .HALTED) : s.debugResume t = s := by
  subst hv
  exact if_neg (by rw [decide_eq_false h, Bool.and_false]; exact Bool.false_ne_true)

end Debug

/-- Settles O42: what a thread issues by its state, its interrupt and its fetch; each stage instruction by its funct3 and its fields; waits, inputs,
channel operations and debug halts by what stands at the thread. -/
theorem threadInstructions : Obligations.ThreadInstructions := by
  unfold Obligations.ThreadInstructions
  refine ⟨?cannot, ?interrupt, ?issues, ?retires, ?stage, ?timeout, ?notWaiting, ?input, ?mover, ?noMover, ?done, ?debug⟩
  case cannot =>
    intro s t h
    have waits := fun want => next_settled (State.issue_waits h want)
    exact ⟨waits _, waits _, waits _, waits _, waits _, waits _, waits _, waits _, waits _, waits _⟩
  case interrupt =>
    intro s t h hi
    have taken := fun want => next_settled (State.issue_interrupted h hi want)
    exact ⟨taken _, taken _, taken _, taken _, taken _, taken _, taken _, taken _, taken _, taken _⟩
  case issues =>
    intro s t h hi
    refine ⟨fun c hf => ?fetchFault, fun c n hf => ?noInstruction, fun i c n hf => ?instruction⟩
    case fetchFault =>
      have faults := fun want => next_settled (State.issue_fetchFault h hi hf want)
      exact ⟨faults _, faults _, faults _, faults _, faults _, faults _, faults _, faults _, faults _, faults _⟩
    case noInstruction =>
      have faults := fun want => next_settled (State.issue_noInstruction h hi hf want)
      exact ⟨faults _, faults _, faults _, faults _, faults _, faults _, faults _, faults _, faults _, faults _⟩
    case instruction =>
      have stage := fun (f3 : Nat) ho (h3 : bits i 12 3 = f3) => next_settled (State.issue_stage h hi hf ho h3)
      exact ⟨next_settled (State.issue_runs h hi hf rfl),
        fun ho => ⟨stage 0 ho, stage 1 ho, stage 2 ho, stage 3 ho, stage 4 ho, stage 5 ho, stage 6 ho, stage 7 ho⟩,
        fun hs => next_settled (State.issue_runs h hi hf hs)⟩
  case retires => exact fun s t pc c w => ⟨rfl, rfl, rfl, rfl⟩
  case stage =>
    intro s t i pc v a b hv ha hb
    refine ⟨State.stage_upperBits, fun h7 => ?plain, State.stage_crc hv ha hb, State.stage_crcBad⟩
    case plain =>
      exact ⟨fun hit hh h3 => ⟨State.stage_waitevHit hv ha hb h7 hh h3, State.stage_waitevWaits hv ha hb h7 hh h3⟩, State.stage_chw hv ha hb h7,
        State.stage_chwBad hv ha hb h7, State.stage_chcommit hv ha hb h7, State.stage_chcommitBad hv ha hb h7, State.stage_chstat hv ha hb h7,
        fun lo w => State.stage_tktget hv ha hb h7, fun lo w => State.stage_tktset hv ha hb h7, State.stage_tktgetBad hv ha hb h7,
        State.stage_tktsetBad hv ha hb h7, State.stage_frmemit hv ha hb h7⟩
  case timeout =>
    exact fun s t v m rd due hv hs hw => ⟨fun h => next_of (State.waitTimeout_due hv hs hw h), fun h => next_of (State.waitTimeout_early hv hs hw h)⟩
  case notWaiting => exact fun s t h => next_of (State.waitTimeout_notWaiting h)
  case input =>
    exact fun s t n hl => ⟨exec_eventInputSet_set hl, fun h h' => exec_eventInputSet_not (inputSet_reserved h h'),
      fun h ht => exec_eventInputSet_not (inputSet_other h ht)⟩
  case mover => exact fun s t o h hr hs => next_of (State.moverStart_starts h hr hs)
  case noMover => exact fun s t h => next_of (State.moverStart_none h)
  case done =>
    exact fun s w t c hw => ⟨fun h => next_of (State.opDone_none hw h), fun o ho hr => next_of (State.opDone_running hw ho hr),
      fun o r ho hr hs => next_of (State.opDone_stale hw ho hr hs),
      fun o r k off x ho hr hs hx hp => ⟨_, rfl, next_of (State.opDone_leaves hw ho hr hs hx hp)⟩⟩
  case debug =>
    exact fun s t v hv => ⟨fun hd => ⟨next_of (State.debugHalt_locked hd), next_of (State.debugResume_locked hd)⟩,
      fun hd h => next_of (State.debugHalt_waiting hv hd h), fun hd hw h => next_of (State.debugHalt_other hv hd hw h),
      fun hd h => ⟨next_of (State.debugHalt_halted hv h), next_of (State.debugResume_restores hv hd h)⟩, fun h => next_of (State.debugResume_notHalted hv h)⟩

end Sys2Proof.Machine
end

section
/-! PROOF. Callboard slots and the management talk (R328, R401 to R408): a slot write by the path it takes and the slot it reaches, a take by who takes
it, and the talk of a host port by the word taken. -/

namespace Sys2Proof.Machine

/-! ## Paths to a slot (R403) -/

section Path
variable {s : State} {r : Requester} {i : Nat}

theorem State.slotWriteBy_none (h : slotPath r i = none) (w : BitVec 32) : s.slotWriteBy r i w = s := by
  unfold State.slotWriteBy
  rw [h]

theorem State.slotTakeBy_none (h : slotPath r i = none) : s.slotTakeBy r i = s := by
  unfold State.slotTakeBy
  rw [h]

variable {a : Nat} (h : slotPath r i = some a)
include h

theorem State.slotWriteBy_some (w : BitVec 32) : s.slotWriteBy r i w = s.mapWrite r a .b4 (w.setWidth 64) := by
  unfold State.slotWriteBy
  rw [h]

theorem State.slotTakeBy_read (hl : s.leadCore r = false ∨ talksToLead i = false ∨ slotFull (s.cbSlot i) = false) :
    s.slotTakeBy r i = s.readOut r (a + 8) .b8 := by
  unfold State.slotTakeBy
  rw [h]
  exact if_neg (by rcases hl with hl | hl | hl <;> simp [hl])

theorem State.slotTakeBy_lead (hl : s.leadCore r = true) (ht : talksToLead i = true) (hf : slotFull (s.cbSlot i) = true) {x : State}
    (hx : x = (s.splitBuffer r).emit (.value r.code (a + 8) (s.cbSlot i))) :
    s.slotTakeBy r i = if i < 8192 then x.sliceHello (i / 2) else x.talkWord ((i - 8192) / 2) := by
  unfold State.slotTakeBy
  rw [h, hx]
  exact if_pos (by rw [hl, ht, hf]; rfl)

end Path

theorem slotPath_ownSlice {n : Fin 4096} {i : Nat} (h0 : 0 < n.val) (h : i / 2 = n.val) : slotPath (.slice n) i = some (0x800 + 0x40 * (i % 2)) :=
  if_pos (by rw [decide_eq_true h0, h, beq_self_eq_true]; rfl)

theorem slotPath_otherSlice {n : Fin 4096} {i : Nat} (h : i / 2 ≠ n.val) : slotPath (.slice n) i = none :=
  if_neg (by rw [beq_eq_false_iff_ne.mpr h, Bool.and_false]; exact Bool.false_ne_true)

/-- A slot write through a slice's page (R325, R403). -/
theorem State.sliceWrite_slot {s : State} {n : Fin 4096} {off a : Nat} {t : Target} (h0 : off ≠ 0) (h1 : off < 0x1000) (hd : s.dev.state = .STAGE)
    (hs : s.sliceState n ≠ 0) (hh : s.sliceHidden n = false) (hp : s.sliceSpot n off = .map a) (hb : blockAt a = some .CBD) (hr : resolve a 0 = some t)
    (ht : t.reg = .CBD_SLOT_WRITE) (ha : a % 4 = 0) (w : BitVec 32) :
    s.sliceWrite n off .b4 (w.setWidth 64) = (s.splitBuffer (.slice n)).slotPut t.idx (Requester.code (.slice n)) w := by
  have hn : (Fin.ofNat 4096 n.val) = n := Fin.ofNat_val_eq_self n
  have hw : BitVec.ofNat 32 (w.setWidth 64).toNat = w := by rw [toNat_setWidth, BitVec.ofNat_toNat, BitVec.setWidth_eq]
  unfold State.sliceWrite
  dsimp only
  rw [hn, if_neg (by rw [hd, hh, beq_eq_false_iff_ne.mpr hs]; decide), if_neg h0,
    if_neg (by rw [decide_eq_false (Nat.not_le.mpr h1), Bool.false_and]; exact Bool.false_ne_true), hp]
  dsimp only
  rw [if_pos hb, hr]
  dsimp only
  rw [if_pos (by rw [ht, decide_eq_true ha]; rfl), hw]

/-! ## A word stored in a slot (R404, R405) -/

section Put
variable {s : State} {i stamp : Nat} {w : BitVec 32}

theorem State.slotPut_reserved (h : slotReserved i = true) : s.slotPut i stamp w = s := if_pos h

variable (hr : slotReserved i = false) {v : Nat} (hv : v = w.toNat + stamp % 65536 * 2 ^ 32)
include hr hv

theorem State.slotPut_own (hp : peerSlot i = none) {old : Word} (ho : old = s.cbSlot i) {x : State}
    (hx : x = s.setCbSlot i (BitVec.ofNat 64 (v + flag (slotFull old || slotCollision old) * 2 ^ 62 + 2 ^ 63))) :
    s.slotPut i stamp w = (if slotFull old then x.bump .CBD_COLLISIONS 0 else x).slotNotify i := by
  subst hv ho hx
  refine (if_neg (Bool.eq_false_iff.mp hr)).trans ?_
  dsimp only
  rw [hp]

theorem State.slotPut_peer {d : Nat} (hp : peerSlot i = some d) {x : State} (hx : x = s.setCbSlot i (BitVec.ofNat 64 v)) :
    s.slotPut i stamp w = if x.peerJoined d then x.barodTo d 7 (toLE 4 w.toNat) else x.bump .CBD_PEER_DROP 0 := by
  subst hv hx
  refine (if_neg (Bool.eq_false_iff.mp hr)).trans ?_
  dsimp only
  rw [hp]

end Put

/-! ## Words the lead CPC takes (R328, R407, R408) -/

theorem State.sliceHello_lead {s w : State} {n : Nat} {v : Word} (hv : v = s.cbSlot (2 * n)) (h0 : n ≠ 0) (hr : s.cpcRuns = true)
    (hl : s.leadCpc.isNone = false) (hf : slotFull v = true) (hw : w = s.slotTaken (2 * n)) : s.sliceHello n =
      if fieldOf v 0 32 % 256 = 1 then
        (w.setFld Fld.SLC_SLICE_STATE_FORMAT n (w.helloAnswer n (fieldOf v 0 32)).1).slotPut (2 * n + 1) w.leadStamp
          (BitVec.ofNat 32 (w.helloAnswer n (fieldOf v 0 32)).2)
      else w.slotPut (2 * n + 1) w.leadStamp (helloReply (w.fld Fld.SYS_PROTOCOLS_MGMT_MAX 0) Code.UNSUPPORTED) := by
  subst hv hw
  refine if_neg ?_
  rw [hr, hf, hl, decide_eq_false h0]
  decide

section Talk
variable {s : State} {h : Nat} {v : Word} (hv : v = s.cbSlot (8192 + 2 * h))
include hv

theorem State.talkHello_taken (hr : s.cpcRuns = true) (hl : s.leadCpc.isNone = false) (hf : slotFull v = true) (h1 : fieldOf v 0 8 = 1) :
    s.talkHello h = (s.talkAbandon h).talkWord h := by
  subst hv
  exact if_neg (by rw [hr, hl, hf, h1]; decide)

theorem State.talkHello_other (ho : slotFull v = false ∨ fieldOf v 0 8 ≠ 1) : s.talkHello h = s := by
  subst hv
  exact if_pos (by rcases ho with ho | ho <;> simp [ho])

theorem State.talkStart_opens (hf : slotFull v = true) (h2 : fieldOf v 0 8 = 2) (hn : (s.talk h).open_ = none) : s.talkStart h = s.talkWord h := by
  subst hv
  exact if_pos (by rw [hf, h2, hn]; rfl)

theorem State.talkStart_other (ho : slotFull v = false ∨ fieldOf v 0 8 ≠ 2 ∨ (s.talk h).open_.isNone = false) : s.talkStart h = s := by
  subst hv
  exact if_neg (by rcases ho with ho | ho | ho <;> simp [ho])

end Talk

section Word
variable {s t : State} {h : Nat} (hr : s.cpcRuns = true) (hl : s.leadCpc.isNone = false)
include hr hl

theorem State.talkWord_completes {m : List Byte} (ht : s.talkTake h = (some m, t)) : s.talkWord h = t.command (.callboard (Fin.ofNat 16 h)) m := by
  unfold State.talkWord
  rw [if_neg (by rw [hr, hl]; decide), ht]

theorem State.talkWord_goesOn (ht : s.talkTake h = (none, t)) : s.talkWord h = t := by
  unfold State.talkWord
  rw [if_neg (by rw [hr, hl]; decide), ht]

end Word

section Take
variable {s x : State} {h : Nat} {v : Word} {t : Talk} {w : Nat} (hv : v = s.cbSlot (8192 + 2 * h)) (hf : slotFull v = true)
  (hx : x = s.slotClear (8192 + 2 * h)) (ht : t = x.talk h) (hw : w = fieldOf v 0 32)
include hv hf hx ht hw

/-- A word outside a transfer opens the talk, or a transfer of it (R407). -/
theorem State.talkTake_outside (ho : t.open_ = none) : s.talkTake h = match w % 256 with
      | 0x01 => (none, ((x.talkAbandon h).setTalk h { hello := true }).talkQueue h
          [helloReply (min (bits w 8 8) (((x.talkAbandon h).setTalk h { hello := true }).fld Fld.SYS_PROTOCOLS_MGMT_MAX 0)) Code.OK])
      | 0x02 =>
        if !t.hello then (none, x.talkQueue h [helloReply (x.fld Fld.SYS_PROTOCOLS_MGMT_MAX 0) 0xE0])
        else if w / 256 = 0 then (none, x.talkQueue h [helloReply (x.fld Fld.SYS_PROTOCOLS_MGMT_MAX 0) Code.MALFORMED])
        else (none, x.setTalk h { t with open_ := some (w / 256, []), since := x.elapsed })
      | _ => if t.hello then (none, x.talkQueue h [helloReply (x.fld Fld.SYS_PROTOCOLS_MGMT_MAX 0) Code.UNSUPPORTED])
          else (none, x.talkQueue h [helloReply (x.fld Fld.SYS_PROTOCOLS_MGMT_MAX 0) 0xE0]) := by
  subst hv hw
  unfold State.talkTake
  dsimp only
  rw [if_neg (by rw [hf]; decide), ← hx, ← ht, ho] <;> rfl

theorem State.talkTake_hello (ho : t.open_ = none) (h1 : w % 256 = 1) : s.talkTake h = (none, ((x.talkAbandon h).setTalk h { hello := true }).talkQueue h
    [helloReply (min (bits w 8 8) (((x.talkAbandon h).setTalk h { hello := true }).fld Fld.SYS_PROTOCOLS_MGMT_MAX 0)) Code.OK]) := by
  rw [State.talkTake_outside hv hf hx ht hw ho, h1]
  rfl

theorem State.talkTake_start (ho : t.open_ = none) (h2 : w % 256 = 2) : s.talkTake h =
    if !t.hello then (none, x.talkQueue h [helloReply (x.fld Fld.SYS_PROTOCOLS_MGMT_MAX 0) 0xE0])
    else if w / 256 = 0 then (none, x.talkQueue h [helloReply (x.fld Fld.SYS_PROTOCOLS_MGMT_MAX 0) Code.MALFORMED])
    else (none, x.setTalk h { t with open_ := some (w / 256, []), since := x.elapsed }) := by
  rw [State.talkTake_outside hv hf hx ht hw ho, h2]
  rfl

/-- A word inside a transfer is data, unless it collided (R408). -/
theorem State.talkTake_inside {n : Nat} {got : List Byte} (ho : t.open_ = some (n, got)) : s.talkTake h =
    if slotCollision v then (none, (x.talkAbandon h).talkQueue h [helloReply ((x.talkAbandon h).fld Fld.SYS_PROTOCOLS_MGMT_MAX 0) Code.OVERRUN])
    else if (got ++ toLE 4 w).length = 4 * n then (some (got ++ toLE 4 w), x.setTalk h { t with open_ := none })
    else (none, x.setTalk h { t with open_ := some (n, got ++ toLE 4 w), since := x.elapsed }) := by
  subst hv hw
  unfold State.talkTake
  dsimp only
  rw [if_neg (by rw [hf]; decide), ← hx, ← ht, ho]

end Take

section Timeout
variable {s : State} {h : Nat} {t : Talk} (ht : t = s.talk h)
include ht

theorem State.talkTimeout_due (ho : t.open_.isSome = true ∨ t.sending ≠ []) (hs : t.since + 10000000 ≤ s.elapsed) :
    s.talkTimeout h = (s.talkAbandon h).bump .CBD_XFER_ABANDONED 0 := by
  subst ht
  exact if_pos (by rcases ho with ho | ho <;> simp [ho, hs])

theorem State.talkTimeout_early (ho : t.open_ = none ∧ t.sending = [] ∨ s.elapsed < t.since + 10000000) : s.talkTimeout h = s := by
  subst ht
  exact if_neg (by rcases ho with ⟨ho, hs⟩ | ho <;> simp [*])

end Timeout

/-- Settles O44: a slot write and a take by the path they go, the word stored by the slot, and the talk by the word the lead CPC takes. -/
theorem callboardSlots : Obligations.CallboardSlots := by
  unfold Obligations.CallboardSlots
  refine ⟨?paths, ?slicePath, ?sliceWrite, ?put, ?leadTake, ?sliceHello, ?talk, ?word, ?take, ?timeout⟩
  case paths =>
    exact fun s r i w => ⟨fun h => ⟨next_of (State.slotWriteBy_none h w), next_settled (State.slotTakeBy_none h)⟩,
      fun a h => ⟨next_of (State.slotWriteBy_some h w), fun hl => next_settled (State.slotTakeBy_read h hl)⟩⟩
  case slicePath => exact fun n i => ⟨slotPath_ownSlice, slotPath_otherSlice⟩
  case sliceWrite =>
    exact fun s n i w off a t hpath h0 h1 hd hs hh hp hb hr ht ha => next_of ((State.slotWriteBy_some hpath w).trans
      (State.sliceWrite_slot h0 h1 hd hs hh hp hb hr ht ha w))
  case put =>
    intro s i stamp w old v ho hv
    refine ⟨State.slotPut_reserved, fun hr hp x hx => ?own, fun d x hr hp hx => ?peer⟩
    case own =>
      have put := State.slotPut_own hr hv hp ho hx
      exact ⟨fun hf => put.trans (by rw [if_pos hf]), fun hf => put.trans (by rw [if_neg (Bool.eq_false_iff.mp hf)])⟩
    case peer =>
      have put := State.slotPut_peer hr hv hp hx
      exact ⟨fun hj => put.trans (if_pos hj), fun hj => put.trans (if_neg (Bool.eq_false_iff.mp hj))⟩
  case leadTake =>
    intro s r i a x h hl ht hf hx
    have take := State.slotTakeBy_lead h hl ht hf hx
    exact ⟨fun hi => next_settled (take.trans (if_pos hi)), fun hi => next_settled (take.trans (if_neg (Nat.not_lt.mpr hi)))⟩
  case sliceHello =>
    intro s w n v hv h0 hr hl hf hw
    have hello := State.sliceHello_lead hv h0 hr hl hf hw
    exact ⟨fun h1 => hello.trans (if_pos h1), fun h1 => hello.trans (if_neg h1)⟩
  case talk =>
    exact fun s h v hv => ⟨fun hr hl hf h1 => next_of (State.talkHello_taken hv hr hl hf h1), fun hf h2 hn => next_of (State.talkStart_opens hv hf h2 hn),
      fun ho => next_of (State.talkHello_other hv ho), fun ho => next_of (State.talkStart_other hv ho)⟩
  case word => exact fun s h hr hl => ⟨fun m t => State.talkWord_completes hr hl, fun t => State.talkWord_goesOn hr hl⟩
  case take =>
    intro s x h v t w hv hf hx ht hw
    have start := State.talkTake_start hv hf hx ht hw
    have inside := fun {n got} => State.talkTake_inside (n := n) (got := got) hv hf hx ht hw
    refine ⟨State.talkTake_hello hv hf hx ht hw, fun ho h2 hh h0 => ?opens, fun ho h2 hh => ?noHello, fun n got ho hc => ?collides,
      fun n got ho hc hl => ?completes, fun n got ho hc hl => ?goesOn⟩
    case opens => exact (start ho h2).trans ((if_neg (by rw [hh]; decide)).trans (if_neg h0))
    case noHello => exact (start ho h2).trans (if_pos (by rw [hh]; rfl))
    case collides => exact (inside ho).trans (if_pos hc)
    case completes => exact (inside ho).trans ((if_neg (Bool.eq_false_iff.mp hc)).trans (if_pos hl))
    case goesOn => exact (inside ho).trans ((if_neg (Bool.eq_false_iff.mp hc)).trans (if_neg hl))
  case timeout => exact fun s h t ht => ⟨fun ho hs => next_of (State.talkTimeout_due ht ho hs), fun ho => next_of (State.talkTimeout_early ht ho)⟩

end Sys2Proof.Machine
end

section
/-! PROOF. Lead and understudy (R410 to R423): heartbeats and silence by the state of the unit and its partner, claims by the tests of R415 in order,
and the verdict on a fenced unit. -/

namespace Sys2Proof.Machine

/-! ## Heartbeats and kicks (R418, R419) -/

theorem State.running_iff {s : State} {u : Nat} : s.running u = true ↔ (s.unit u).state = .RUNNING := beq_iff_eq

section Beat
variable {s : State} {u : Nat} {x : CtlUnit} (hx : x = s.unit u)
include hx

theorem State.heartbeatOut_sends (hr : x.state = .RUNNING) (hf : x.fed = true) (hp : s.pairExists (u / 2) = true) : s.heartbeatOut u = s.emit (.heartbeat u) := by
  subst hx
  exact if_pos (by rw [State.running_iff.mpr hr, hf, hp]; rfl)

theorem State.heartbeatOut_silent (h : x.state ≠ .RUNNING ∨ x.fed = false ∨ s.pairExists (u / 2) = false) : s.heartbeatOut u = s := by
  subst hx
  exact if_neg (by rcases h with h | h | h <;> simp [State.running, h])

theorem State.kickLimit_unfed (hr : x.state = .RUNNING) (h2 : u ≠ 2) (h3 : u ≠ 3) (hk : x.kickDue ≤ s.elapsed) :
    s.kickLimit u = s.setUnit u { x with fed := false } := by
  subst hx
  exact if_pos (by rw [State.running_iff.mpr hr, beq_eq_false_iff_ne.mpr h2, beq_eq_false_iff_ne.mpr h3, decide_eq_true hk]; rfl)

theorem State.kickLimit_stays (h : x.state ≠ .RUNNING ∨ u = 2 ∨ u = 3 ∨ s.elapsed < x.kickDue) : s.kickLimit u = s := by
  subst hx
  exact if_neg (by rcases h with h | h | h | h <;> simp [State.running, h])

theorem State.heartbeatIn_discarded (h : x.partnerLost = true ∨ s.pairExists (u / 2) = false) (p : HbPath) : s.heartbeatIn u p = s := by
  subst hx
  exact if_pos (by rcases h with h | h <;> simp [h])

variable (hl : x.partnerLost = false) (hp : s.pairExists (u / 2) = true) {w : State}
include hl hp

theorem State.heartbeatIn_mesh (hw : w = s.setUnit u { x with meshSilent := false, meshAt := s.elapsed }) (hs : x.sidebandSilent = false)
    (hm : (w.unit (partner u)).meshSilent = false) (hb : (w.unit (partner u)).sidebandSilent = false) :
    s.heartbeatIn u .mesh = { w with rdn := { w.rdn with degraded := SMap.set pbaDefault (u / 2) false w.rdn.degraded } } := by
  unfold State.heartbeatIn
  dsimp only
  rw [← hx, ← hw, if_neg (by rw [hl, hp]; decide), if_neg (by rw [hs, hm, hb]; decide)]

theorem State.heartbeatIn_sideband (hw : w = s.setUnit u { x with sidebandSilent := false, sidebandAt := s.elapsed }) (hm : x.meshSilent = true) :
    s.heartbeatIn u .sideband = w := by
  unfold State.heartbeatIn
  dsimp only
  rw [← hx, ← hw, if_neg (by rw [hl, hp]; decide), if_pos (by rw [hm]; rfl)]

end Beat

/-! ## Silence (R419 to R421) -/

/-- A unit with one path of its partner silent. -/
def CtlUnit.silentOn (x : CtlUnit) (p : HbPath) : CtlUnit :=
  match p with
  | .mesh => { x with meshSilent := true }
  | .sideband => { x with sidebandSilent := true }

section Silent
variable {s : State} {u : Nat} {x : CtlUnit} (hx : x = s.unit u)
include hx

theorem State.pathSilent_unwatched (h : x.partnerLost = true ∨ s.pairExists (u / 2) = false ∨ s.running (partner u) = false) (p : HbPath) :
    s.pathSilent u p = s := by
  subst hx
  exact if_pos (by rcases h with h | h | h <;> simp [h])

theorem State.pathSilent_early (h : s.elapsed < x.meshAt + 28000) : s.pathSilent u .mesh = s := by
  subst hx
  have hq : s.pathQuiet u .mesh = false := decide_eq_false (Nat.not_le.mpr h)
  exact if_pos (by rw [hq]; exact Bool.or_true _)

variable (hl : x.partnerLost = false) (hp : s.pairExists (u / 2) = true) (hpr : s.running (partner u) = true) (hr : x.state = .RUNNING)
include hl hp hpr hr

/-- A RUNNING unit that watches its partner judges the silent path with the other. -/
theorem State.pathSilent_watching {p : HbPath} (hq : s.pathQuiet u p = true) : s.pathSilent u p =
    if (x.silentOn p).meshSilent && (x.silentOn p).sidebandSilent then
      let s := s.setUnit u { x.silentOn p with partnerLost := true }
      if s.isLead (partner u) then s.leadLost (partner u) else s.understudyLost (partner u)
    else
      let was := SMap.get pbaDefault s.rdn.degraded (u / 2)
      let s := { s.setUnit u (x.silentOn p) with
        rdn := { (s.setUnit u (x.silentOn p)).rdn with degraded := SMap.set pbaDefault (u / 2) true s.rdn.degraded } }
      if was then s else (s.bump .RDN_PATH_DEGRADED 0).plainAlarm 4 0 7 0 (u - u % 2) := by
  subst hx
  refine (if_neg (show ¬ ((s.unit u).partnerLost || !s.pairExists (u / 2) || !s.running (partner u) ||
    ((s.unit u).state != .RUNNING && !s.isLead (partner u)) || !s.pathQuiet u p) = true from ?_)).trans ?_
  · rw [hl, hp, hpr, hr, hq, bne_self_eq_false]
    exact Bool.false_ne_true
  · cases p <;> rfl

theorem State.pathSilent_both (hm : x.meshAt + 28000 ≤ s.elapsed) (hs : x.sidebandSilent = true) {w : State}
    (hw : w = s.setUnit u { x with meshSilent := true, partnerLost := true }) :
    s.pathSilent u .mesh = if w.isLead (partner u) then w.leadLost (partner u) else w.understudyLost (partner u) := by
  have hq : s.pathQuiet u .mesh = true := decide_eq_true (by rw [← hx]; exact hm)
  rw [State.pathSilent_watching hx hl hp hpr hr hq, hw]
  exact if_pos (show (true && x.sidebandSilent) = true by rw [hs]; rfl)

theorem State.pathSilent_degrades (hs : x.sidebandAt + 28000 ≤ s.elapsed) (hm : x.meshSilent = false)
    (hd : SMap.get pbaDefault s.rdn.degraded (u / 2) = false) {w : State} (hw : w = s.setUnit u { x with sidebandSilent := true }) :
    s.pathSilent u .sideband =
      ({ w with rdn := { w.rdn with degraded := SMap.set pbaDefault (u / 2) true s.rdn.degraded } }.bump .RDN_PATH_DEGRADED 0).plainAlarm 4 0 7 0 (u - u % 2) := by
  have hq : s.pathQuiet u .sideband = true := decide_eq_true (by rw [← hx]; exact hs)
  rw [State.pathSilent_watching hx hl hp hpr hr hq, hw]
  exact (if_neg (show ¬ (x.meshSilent && true) = true by rw [hm]; decide)).trans (if_neg (Bool.eq_false_iff.mp hd))

end Silent

theorem State.leadLost_running {s : State} {u : Nat} (h : s.running (partner u) = true) :
    s.leadLost u = (s.setGap (u / 2) (.open (s.flagAt Fld.RDN_CFG_GAP_MODE 0) s.elapsed)).roleEvent (partner u) 7 := if_pos h

theorem State.leadLost_alone {s : State} {u : Nat} (h : s.running (partner u) = false) : s.leadLost u = s.pairCurtain (u / 2) :=
  if_neg (Bool.eq_false_iff.mp h)

/-! ## Kicks and claims as writes (R415, R418) -/

section Kick
variable {s u : State} {r : Requester} (h : s.admitWrite r .RDN_KICK 0 = (true, u))
include h

theorem exec_kick_of : exec (.kick r) s = .next (u.kickBy r) := by
  refine next_of ((State.directWrite_undomained h rfl _ _).trans ((u.performWrite_rdn r rfl 0 _ _).trans ?_))
  have hw : u.writeRdn r (u.writeSeen .RDN_KICK 0 ((1 : BitVec 32).setWidth 64) lowMask) =
      if (u.writeSeen .RDN_KICK 0 ((1 : BitVec 32).setWidth 64) lowMask).hits 0 then u.kickBy r else u := rfl
  rw [hw, State.writeSeen_hits]
  exact if_pos (by decide)

theorem exec_kick_unit {k : Nat} (hk : u.unitOf r = some k) :
    exec (.kick r) s = .next (u.setUnit k { u.unit k with fed := true, kickDue := u.elapsed + 1000 * u.fld Fld.RDN_CFG_KICK_LIMIT_US 0 }) :=
  (exec_kick_of h).trans (next_of (by rw [State.kickBy, hk]; rfl))

theorem exec_kick_none (hk : u.unitOf r = none) : exec (.kick r) s = .next u :=
  (exec_kick_of h).trans (next_of (by rw [State.kickBy, hk]))

end Kick

/-- The word of a claim carries the number expected and the kind. -/
theorem claimWord_fields (e : BitVec 16) {kind : Nat} (hk : kind < 4) :
    fieldOf ((claimWord e kind).setWidth 64 &&& lowMask) 0 16 = e.toNat ∧ fieldOf ((claimWord e kind).setWidth 64 &&& lowMask) 16 2 = kind := by
  have he := e.isLt
  rw [and_lowMask, fieldOf_setWidth, fieldOf_setWidth, claimWord, BitVec.toNat_ofNat]
  unfold bits
  omega

/-- KIND of RDN_CLAIM (R431). -/
def ClaimKind.code (k : ClaimKind) : Nat := match k with | .takeover => 0 | .rehearsal => 1 | .tie => 2

theorem ClaimKind.code_lt (k : ClaimKind) : k.code < 4 := by cases k <;> decide

theorem State.writeRdn_claim {u : State} {r : Requester} {x : RegWrite} (hx : x.reg = .RDN_CLAIM) {k : ClaimKind} (hk : fieldOf x.w 16 2 = k.code) :
    u.writeRdn r x = u.claimBy r (fieldOf x.w 0 16) k := by
  cases k <;> simp only [State.writeRdn, hx, hk, ClaimKind.code]

section Claim
variable {s u : State} {r : Requester} (h : s.admitWrite r .RDN_CLAIM 0 = (true, u)) (e : BitVec 16)
include h

/-- A claim is made for the writer's unit, by its kind. -/
theorem State.write32_claim (kind : ClaimKind) : s.write32 r .RDN_CLAIM 0 (claimWord e kind.code) = u.claimBy r e.toNat kind := by
  obtain ⟨hexpect, hkind⟩ := claimWord_fields e kind.code_lt
  refine (State.directWrite_undomained h rfl _ _).trans ((u.performWrite_rdn r rfl 0 _ _).trans ?_)
  exact (State.writeRdn_claim rfl hkind).trans (congrArg (u.claimBy r · kind) hexpect)

theorem exec_takeover_of : exec (.takeover r e) s = .next (u.claimBy r e.toNat .takeover) := next_of (State.write32_claim h e .takeover)
theorem exec_rehearsal_of : exec (.rehearsal r e) s = .next (u.claimBy r e.toNat .rehearsal) := next_of (State.write32_claim h e .rehearsal)
theorem exec_tie_of : exec (.tie r e) s = .next (u.claimBy r e.toNat .tie) := next_of (State.write32_claim h e .tie)

end Claim

theorem State.claimBy_none {s : State} {r : Requester} (h : s.unitOf r = none) (e : Nat) (kind : ClaimKind) : s.claimBy r e kind = s.claimStatus 0xAB := by
  rw [State.claimBy, h]

theorem State.claimBy_unit {s : State} {r : Requester} {k : Nat} (h : s.unitOf r = some k) (e : Nat) (kind : ClaimKind) :
    s.claimBy r e kind = s.claim k e kind := by
  rw [State.claimBy, h]

/-! ## Claims by the tests of R415 -/

section Tests
variable {s : State} {u e : Nat} {kind : ClaimKind}

theorem State.claim_unpaired (hp : s.pairExists (u / 2) = false) : s.claim u e kind = s.claimStatus 0xAB := if_pos (by rw [hp]; rfl)

variable (hp : s.pairExists (u / 2) = true)
include hp

theorem State.claim_stopped (hr : s.running u = false) : s.claim u e kind = s := (if_neg (by rw [hp]; decide)).trans (if_pos (by rw [hr]; rfl))

variable (hr : s.running u = true)
include hr

theorem State.claim_running : s.claim u e kind =
    if s.number u > s.number (partner u) then s.claimStatus 0xA9
    else if s.number (partner u) != e then s.claimStatus 0xA8
    else
      let s := (((s.claimMark (u / 2)).takeNumber u).closeGap (u / 2)).claimStatus Code.OK
      let s := if u < 2 && kind = .takeover then s.endSession else s
      if kind = .takeover then
        let s := s.bump .RDN_SWITCHOVERS 0
        if s.running (partner u) then s.fence (partner u) else s
      else s :=
  (if_neg (by rw [hp]; decide)).trans (if_neg (by rw [hr]; decide))

theorem State.claim_leads (h : s.number (partner u) < s.number u) : s.claim u e kind = s.claimStatus 0xA9 :=
  (State.claim_running hp hr).trans (if_pos h)

variable (h : s.number u ≤ s.number (partner u))
include h

theorem State.claim_unexpected (he : s.number (partner u) ≠ e) : s.claim u e kind = s.claimStatus 0xA8 :=
  (State.claim_running hp hr).trans ((if_neg (Nat.not_lt.mpr h)).trans (if_pos (bne_iff_ne.mpr he)))

variable (he : s.number (partner u) = e) {w : State} (hw : w = (((s.claimMark (u / 2)).takeNumber u).closeGap (u / 2)).claimStatus Code.OK)
include he hw

theorem State.claim_accepted : s.claim u e kind =
    let t := if u < 2 && kind = .takeover then w.endSession else w
    if kind = .takeover then
      let t := t.bump .RDN_SWITCHOVERS 0
      if t.running (partner u) then t.fence (partner u) else t
    else t := by
  subst hw
  exact (State.claim_running hp hr).trans ((if_neg (Nat.not_lt.mpr h)).trans (if_neg (by rw [he, bne_self_eq_false]; exact Bool.false_ne_true)))

theorem State.claim_otherKind (hk : kind ≠ .takeover) : s.claim u e kind = w := by
  rw [State.claim_accepted hp hr h he hw]
  dsimp only
  rw [if_neg hk, if_neg (by rw [decide_eq_false hk, Bool.and_false]; exact Bool.false_ne_true)]

theorem State.claim_takeover (hk : kind = .takeover) {x : State} (hx : x = (if u < 2 then w.endSession else w).bump .RDN_SWITCHOVERS 0) :
    s.claim u e kind = if x.running (partner u) then x.fence (partner u) else x := by
  rw [State.claim_accepted hp hr h he hw, hx, hk]
  dsimp only
  rw [if_pos rfl, decide_eq_true (rfl : ClaimKind.takeover = ClaimKind.takeover), Bool.and_true]
  simp only [decide_eq_true_eq]

end Tests

theorem State.takeNumber_renormalises {s : State} {u : Nat} (h : s.number (partner u) = 65535) :
    s.takeNumber u = (((s.setNumber u 1).setNumber (partner u) 0).bump .RDN_RENORMALISED 0).leadTaken u := congrArg (State.leadTaken · u) (if_pos h)

theorem State.takeNumber_next {s : State} {u : Nat} (h : s.number (partner u) ≠ 65535) :
    s.takeNumber u = (s.setNumber u (s.number (partner u) + 1)).leadTaken u := congrArg (State.leadTaken · u) (if_neg h)

/-! ## Gaps and verdicts (R421, R422) -/

section Gap
variable {s : State} {n : Nat}

theorem State.gapLimit_open {since : Nat} (h : s.gap n = .open true since) : s.gapLimit n =
    if s.elapsed < since + 40 * s.fld Fld.RDN_CFG_GAP_CYCLES 0 then s else (s.pairCurtain n).setGap n (.open false since) := by
  rw [State.gapLimit, h]

theorem State.gapLimit_none (h : s.gap n = .closed ∨ ∃ since, s.gap n = .open false since) : s.gapLimit n = s := by
  rcases h with h | ⟨since, h⟩
  · rw [State.gapLimit, h]
  · rw [State.gapLimit, h]

end Gap

section Verdict
variable {s : State} {u : Nat} {l : Bool}

theorem State.fenceEnds_none (h : s.underTest .controlUnit (BitVec.ofNat 32 u) = none) : s.fenceEnds u l = s := by
  unfold State.fenceEnds
  dsimp only
  rw [h]

variable {a w : State} {t : Test} {i : BitVec 32} (hi : i = BitVec.ofNat 32 u) (ht : s.underTest .controlUnit i = some t)
  (ha : a = { s with flt := { s.flt with tests := s.flt.tests.filter (fun x => !(x.kind == ElementKind.controlUnit && x.index == i)) } })
  (hw : w = a.testVerdict t (!l) true true 0)
include hi ht ha hw

theorem State.fenceEnds_lasting (hl : l = true ∨ 3 ≤ (s.transients .controlUnit i).length) :
    s.fenceEnds u l = ((w.setUnit u { state := .RETIRED }).equalNumbers (u / 2)).pairLeads (u / 2) := by
  subst hi
  unfold State.fenceEnds
  dsimp only
  rw [ht]
  dsimp only
  rw [← ha, ← hw, if_pos (by rw [Bool.or_eq_true, decide_eq_true_eq]; exact hl)]

theorem State.fenceEnds_transient (hl : l = false) (hn : (s.transients .controlUnit i).length < 3) {x y : State}
    (hx : x = (w.reloadUnit u).freshUnit u .RUNNING)
    (hy : y = x.setUnit (partner u) { w.unit (partner u) with
      meshSilent := false, sidebandSilent := false, partnerLost := false, meshAt := w.elapsed, sidebandAt := w.elapsed }) :
    s.fenceEnds u l = (y.equalNumbers (u / 2)).pairLeads (u / 2) := by
  subst hi
  unfold State.fenceEnds
  dsimp only
  rw [ht]
  dsimp only
  rw [← ha, ← hw, ← hx, ← hy, if_neg]
  rw [hl, Bool.false_or, decide_eq_true_eq]
  exact Nat.not_le.mpr hn

end Verdict

/-- Settles O45: heartbeats, kicks and silence by the unit and its partner, a claim by the first test of R415 that it fails, a gap by its mode and its
time, a verdict by the unit's transients. -/
theorem leadAndUnderstudy : Obligations.LeadAndUnderstudy := by
  unfold Obligations.LeadAndUnderstudy
  refine ⟨?unit, ?lost, ?kick, ?claimWrite, ?claim, ?number, ?gap, ?noGap, ?noVerdict, ?verdict⟩
  case unit =>
    intro s u x hx
    refine ⟨fun hr hf hp => ?sends, fun h => ?silent, fun hr h2 h3 hk => ?unfed, fun h => ?fed, fun h p => ?discarded, fun hl hp => ⟨?mesh, ?sideband⟩,
      fun h p => ?unwatched, fun h => ?early, fun hl hp hpr hr => ⟨fun hm hs w hw => ?both, fun hs hm hd w hw => ?degrades⟩⟩
    case sends => exact next_of (State.heartbeatOut_sends hx hr hf hp)
    case silent => exact next_of (State.heartbeatOut_silent hx h)
    case unfed => exact next_of (State.kickLimit_unfed hx hr h2 h3 hk)
    case fed => exact next_of (State.kickLimit_stays hx h)
    case discarded => exact next_of (State.heartbeatIn_discarded hx h p)
    case mesh => exact fun w hw hs hm hb => next_of (State.heartbeatIn_mesh hx hl hp hw hs hm hb)
    case sideband => exact fun w hw hm => next_of (State.heartbeatIn_sideband hx hl hp hw hm)
    case unwatched => exact next_settled (State.pathSilent_unwatched hx h p)
    case early => exact next_settled (State.pathSilent_early hx h)
    case both =>
      have both := State.pathSilent_both hx hl hp hpr hr hm hs hw
      exact ⟨fun h => next_settled (both.trans (if_pos h)), fun h => next_settled (both.trans (if_neg (Bool.eq_false_iff.mp h)))⟩
    case degrades => exact next_settled (State.pathSilent_degrades hx hl hp hpr hr hs hm hd hw)
  case lost => exact fun s u => ⟨State.leadLost_running, State.leadLost_alone, rfl⟩
  case kick => exact fun s u r h => ⟨fun k hk => exec_kick_unit h hk, exec_kick_none h⟩
  case claimWrite =>
    exact fun s u r e h => ⟨fun hn => ⟨(exec_takeover_of h e).trans (next_of (State.claimBy_none hn _ _)),
        (exec_rehearsal_of h e).trans (next_of (State.claimBy_none hn _ _)), (exec_tie_of h e).trans (next_of (State.claimBy_none hn _ _))⟩,
      fun k hk => ⟨(exec_takeover_of h e).trans (next_of (State.claimBy_unit hk _ _)),
        (exec_rehearsal_of h e).trans (next_of (State.claimBy_unit hk _ _)), (exec_tie_of h e).trans (next_of (State.claimBy_unit hk _ _))⟩⟩
  case claim =>
    refine fun s u e kind => ⟨State.claim_unpaired, State.claim_stopped, State.claim_leads, State.claim_unexpected,
      fun hp hr h he w hw => ⟨State.claim_otherKind hp hr h he hw, fun x hk hx => ?takeover⟩⟩
    case takeover =>
      have takeover := State.claim_takeover hp hr h he hw hk hx
      exact ⟨fun h => takeover.trans (if_pos h), fun h => takeover.trans (if_neg (Bool.eq_false_iff.mp h))⟩
  case number => exact fun s u => ⟨State.takeNumber_renormalises, State.takeNumber_next⟩
  case gap =>
    exact fun s n since h => ⟨fun ht => next_settled ((State.gapLimit_open h).trans (if_neg (Nat.not_lt.mpr ht))),
      fun ht => next_settled ((State.gapLimit_open h).trans (if_pos ht))⟩
  case noGap => exact fun s n h => next_settled (State.gapLimit_none h)
  case noVerdict => exact fun s u l h => next_settled (State.fenceEnds_none h)
  case verdict =>
    exact fun s a w u l t i hi ht ha hw => ⟨fun hl => next_settled (State.fenceEnds_lasting hi ht ha hw hl),
      fun hl hn x y hx hy => next_settled (State.fenceEnds_transient hi ht ha hw hl hn hx hy)⟩

end Sys2Proof.Machine
end

section
/-! PROOF. Barod links and the stack (R433 to R447): a frame by the checks of R435, hellos and keepalives by the link, claims and their replies by the
tests of R441, and the waits about them. -/

namespace Sys2Proof.Machine

/-! ## Frames (R435) -/

section Frame
variable {s : State} {p type : Nat} {f : List Byte} (act : State → Nat → List Byte → State)

theorem State.barodIn_off (h : s.dev.state ≠ .STAGE ∨ s.designated p = false) : s.barodIn p type f act = s :=
  if_pos (by rcases h with h | h <;> simp [h])

variable (hs : s.dev.state = .STAGE) (hd : s.designated p = true)
include hs hd

theorem State.barodIn_stage : s.barodIn p type f act =
    if s.barodBad p f then s.bump .STK_BAD_FRAMES 0
    else if bType f != type || (type != 1 && !(s.stackLink p).alive) then s
    else
      let m := bMember f
      let s := s.setStackPeer m { s.stackPeer m with number := leAt f 12 2, state := leAt f 3 1 }
      act (s.setStackLink p { s.stackLink p with heardAt := s.elapsed }) m (bBody f) :=
  if_neg (by rw [hs, hd]; decide)

theorem State.barodIn_bad (hb : s.barodBad p f = true) : s.barodIn p type f act = s.bump .STK_BAD_FRAMES 0 :=
  (State.barodIn_stage act hs hd).trans (if_pos hb)

variable (hb : s.barodBad p f = false)
include hb

theorem State.barodIn_other (h : bType f ≠ type ∨ type ≠ 1 ∧ (s.stackLink p).alive = false) : s.barodIn p type f act = s :=
  (State.barodIn_stage act hs hd).trans ((if_neg (Bool.eq_false_iff.mp hb)).trans (if_pos (by rcases h with h | ⟨h, ha⟩ <;> simp [*])))

theorem State.barodIn_acts (ht : bType f = type) (hl : type = 1 ∨ (s.stackLink p).alive = true) {x w : State} {m : Nat} (hm : m = bMember f)
    (hx : x = s.setStackPeer m { s.stackPeer m with number := leAt f 12 2, state := leAt f 3 1 })
    (hw : w = x.setStackLink p { x.stackLink p with heardAt := x.elapsed }) : s.barodIn p type f act = act w m (bBody f) := by
  subst hm hx hw
  refine (State.barodIn_stage act hs hd).trans ((if_neg (Bool.eq_false_iff.mp hb)).trans (if_neg ?_))
  rcases hl with hl | hl <;> simp [ht, hl]

end Frame

/-! ## Hellos and keepalives sent, and silence (R434, R436, R437) -/

section Timers
variable {s : State} {p : Nat}

theorem State.sendHello_not (h : s.dev.state ≠ .STAGE ∨ s.designated p = false ∨ (s.port p).linkUp = false) : s.sendHello p = s :=
  if_neg (by rcases h with h | h | h <;> simp [h])

theorem State.sendKeepalive_not (h : s.dev.state ≠ .STAGE ∨ s.designated p = false ∨ (s.port p).linkUp = false) : s.sendKeepalive p = s :=
  if_neg (by rcases h with h | h | h <;> simp [h])

theorem State.sendKeepalive_unestablished (h : (s.stackLink p).established = false) : s.sendKeepalive p = s := if_neg (by simp [h])

section Up
variable (hs : s.dev.state = .STAGE) (hd : s.designated p = true) (hl : (s.port p).linkUp = true)
include hs hd hl

theorem State.sendHello_sends {b : List Byte} {w : State}
    (hb : b = toLE 1 1 ++ toLE 1 s.barodMax ++ [0, 0] ++ toLE 8 Config.serial.toNat ++ toLE 4 s.dev.imageVersion.toNat ++ [0, 0, 0, 0] ++ slice s.stk.digest 0 48)
    (hw : w = s.barodSend p 1 b) : s.sendHello p = (w.setStackLink p { w.stackLink p with sent := true }).stackJudge := by
  subst hb hw
  exact if_pos (by rw [hs, hd, hl]; decide)

theorem State.sendKeepalive_sends {l : StackLink} (h : l = s.stackLink p) (he : l.established = true) :
    s.sendKeepalive p = s.barodSend p 2 (timeBytes s.now ++ timeBytes l.partnerTx ++ timeBytes l.partnerRx) := by
  subst h
  exact if_pos (by rw [hs, hd, hl, he]; decide)

end Up

variable {l : StackLink} (h : l = s.stackLink p)
include h

theorem State.stackSilent_falls (he : l.established = true) (hq : (s.port p).linkUp = false ∨ l.heardAt + 28000 ≤ s.elapsed) :
    s.stackSilent p = (s.setStackLink p { l with silent := true }).stackJudge := by
  subst h
  exact if_pos (by rcases hq with hq | hq <;> simp [he, hq])

theorem State.stackSilent_stays (hq : l.established = false ∨ ((s.port p).linkUp = true ∧ s.elapsed < l.heardAt + 28000)) : s.stackSilent p = s := by
  subst h
  exact if_neg (by rcases hq with hq | ⟨hq, ht⟩ <;> simp [*])

end Timers

section Hello
variable {s : State} {p m : Nat} {b : List Byte} {v : Nat} {l : StackLink} (hv : v = min s.barodMax (leAt b 1 1)) (hl : l = s.stackLink p)
include hv hl

theorem State.helloIn_refused (h : leAt b 4 8 ≠ leAt (planMember s.stk.plan m) 0 8 ∨ v < leAt b 0 1 ∨ v < 1) :
    s.helloIn p m b = ((s.setStackLink p { l with heard := false, refused := true }).bump .STK_VERSION_REFUSED 0).stackJudge := by
  subst hv hl
  exact if_pos (by simpa only [Bool.or_eq_true, bne_iff_ne, decide_eq_true_eq, or_assoc] using h)

theorem State.helloIn_accepted {w : State} (hs : leAt b 4 8 = leAt (planMember s.stk.plan m) 0 8) (h0 : leAt b 0 1 ≤ v) (h1 : 1 ≤ v)
    (hw : w = s.setStackLink p { l with heard := true, refused := false, silent := false, version := v, peer := m }) :
    s.helloIn p m b = (w.setStackPeer m { w.stackPeer m with digest := slice b 20 48 == slice w.stk.digest 0 48 }).stackJudge := by
  subst hv hl hw
  exact if_neg (by
    simp only [Bool.or_eq_true, bne_iff_ne, decide_eq_true_eq, not_or, not_not, Nat.not_lt]
    exact ⟨⟨hs, h0⟩, h1⟩)

end Hello

/-! ## Claims and replies (R440, R441) -/

section ClaimIn
variable {s : State} {p m : Nat} {b : List Byte}

theorem State.claimIn_hasMaster (h : s.stk.state = .MASTER ∨ s.masterVisible = true) : s.claimIn p m b = s.barodSend p 4 [0, 2] :=
  if_pos (by rcases h with h | h <;> simp [h])

variable (hs : s.stk.state ≠ .MASTER) (hv : s.masterVisible = false)
include hs hv

theorem State.claimIn_masterless : s.claimIn p m b =
    if s.stk.masterNum != leAt b 0 2 then s.barodSend p 4 [0, 1]
    else if leAt b 2 2 ≤ s.highestNumber then s.barodSend p 4 [0, 3]
    else (((s.setStk { s.stk with master := some m, masterNum := leAt b 2 2, claim := none }).bump .STK_MASTER_CHANGES 0).barodSend p 4 [1, 0]).stackJudge :=
  if_neg (by rw [decide_eq_false hs, hv]; decide)

theorem State.claimIn_otherMaster (h : s.stk.masterNum ≠ leAt b 0 2) : s.claimIn p m b = s.barodSend p 4 [0, 1] :=
  (State.claimIn_masterless hs hv).trans (if_pos (bne_iff_ne.mpr h))

variable (h : s.stk.masterNum = leAt b 0 2)
include h

theorem State.claimIn_low (hn : leAt b 2 2 ≤ s.highestNumber) : s.claimIn p m b = s.barodSend p 4 [0, 3] :=
  (State.claimIn_masterless hs hv).trans ((if_neg (by rw [h, bne_self_eq_false]; exact Bool.false_ne_true)).trans (if_pos hn))

theorem State.claimIn_accepted (hn : s.highestNumber < leAt b 2 2) : s.claimIn p m b =
    (((s.setStk { s.stk with master := some m, masterNum := leAt b 2 2, claim := none }).bump .STK_MASTER_CHANGES 0).barodSend p 4 [1, 0]).stackJudge :=
  (State.claimIn_masterless hs hv).trans ((if_neg (by rw [h, bne_self_eq_false]; exact Bool.false_ne_true)).trans (if_neg (Nat.not_le.mpr hn)))

end ClaimIn

section NoClaim
variable {s : State} (h : s.stk.claim = none)
include h

theorem State.claimReplyIn_none (m : Nat) (b : List Byte) : s.claimReplyIn m b = s := by rw [State.claimReplyIn, h]
theorem State.claimWon_none : s.claimWon = s := by rw [State.claimWon, h]
theorem State.claimLimit_none : s.claimLimit = s := by rw [State.claimLimit, h]

end NoClaim

section InProgress
variable {s : State} {c : StackClaim} (h : s.stk.claim = some c)
include h

theorem State.claimReplyIn_some (m : Nat) (b : List Byte) : s.claimReplyIn m b =
    if leAt b 0 1 = 1 then (s.setStk { s.stk with claim := some { c with accepts := if c.accepts.contains m then c.accepts else m :: c.accepts } }).claimWon
    else s.setStk { s.stk with claim := some { c with alive := c.alive || leAt b 1 1 == 2 } } := by
  rw [State.claimReplyIn, h]

theorem State.claimWon_some : s.claimWon = if s.isQuorum (s.stk.member :: c.accepts) then (s.becomeMaster c.new).stackJudge else s := by
  rw [State.claimWon, h]

theorem State.claimLimit_some : s.claimLimit =
    if s.elapsed < c.since + 1000000 then s else (s.setStk { s.stk with claim := none }).enterWings (if c.alive then 3 else 2) := by
  rw [State.claimLimit, h]

end InProgress

section Wait
variable {s : State} {due : Nat}
  (hd : due = s.stk.leaderless.getD s.elapsed + 50000 + 1000000 * (s.visibleMembers.filter (fun m => s.stk.number < (s.stackPeer m).number)).length)
include hd

theorem State.stackClaim_waits (h : s.seeksMaster = false ∨ s.elapsed < due) : s.stackClaim = s := by
  rw [Nat.add_assoc] at hd
  refine if_neg ?_
  rcases h with h | h
  · rw [h, Bool.false_and]
    exact Bool.false_ne_true
  · rw [State.claimWait, ← hd, decide_eq_false (Nat.not_le.mpr h), Bool.and_false]
    exact Bool.false_ne_true

theorem State.stackClaim_claims {w : State} {n : Nat} (h : s.seeksMaster = true) (ht : due ≤ s.elapsed)
    (hn : n = (if 65535 < s.highestNumber + 1 then 256 else s.highestNumber + 1))
    (hw : w = s.setStk { s.stk with leaderless := none, claim := some { new := n, accepts := [], alive := false, since := s.elapsed } }) :
    s.stackClaim = (w.visibleMembers.foldl (fun s m => s.barodTo m 3 (toLE 2 s.stk.masterNum ++ toLE 2 n)) w).claimWon := by
  rw [Nat.add_assoc] at hd
  subst hn hw
  exact if_pos (by rw [h, State.claimWait, ← hd, decide_eq_true ht]; rfl)

end Wait

/-! ## Stack time (R443) -/

section Drift
variable {s : State}

theorem State.timeCurtain_some {t : Nat} (h : s.stk.drift = some t) : s.timeCurtain =
    if t + 1000000000 ≤ s.elapsed && s.stk.state != .MASTER && s.dev.state == .STAGE then
      (s.setStk { s.stk with timePorts := (List.range 256).filter (fun p => s.flagAt Fld.TMS_PORT_CFG_TT_EN p) }).stackCurtains
    else s := by
  rw [State.timeCurtain, h]

theorem State.timeCurtain_not (h : s.stk.drift = none ∨ s.stk.state = .MASTER ∨ s.dev.state ≠ .STAGE) : s.timeCurtain = s := by
  cases hd : s.stk.drift with
  | none => rw [State.timeCurtain, hd]
  | some t =>
    rw [State.timeCurtain_some hd]
    exact if_neg (by rcases h with h | h | h <;> simp_all)

end Drift

/-- Settles O47: a frame by its port, its checks and its type, and each type by what it carries and what the device has recorded of links, members and
claims. -/
theorem stackLinks : Obligations.StackLinks := by
  unfold Obligations.StackLinks
  refine ⟨?frames, ?acts, ?timers, ?hello, ?claimIn, ?reply, ?noClaim, ?claim, ?wait, ?drift⟩
  case frames =>
    intro s p f
    refine ⟨fun h => ?off, fun hs hd hb => ?bad, fun hs hd hb h => ?notHello, fun hs hd hb h => ?notKeepalive, fun hs hd hb h => ?notClaim, fun hs hd hb h => ?notReply⟩
    case off => exact ⟨next_of (State.barodIn_off _ h), next_of (State.barodIn_off _ h), next_of (State.barodIn_off _ h), next_of (State.barodIn_off _ h)⟩
    case bad =>
      exact ⟨next_of (State.barodIn_bad _ hs hd hb), next_of (State.barodIn_bad _ hs hd hb), next_of (State.barodIn_bad _ hs hd hb),
        next_of (State.barodIn_bad _ hs hd hb)⟩
    case notHello => exact next_of (State.barodIn_other _ hs hd hb (.inl h))
    case notKeepalive => exact next_of (State.barodIn_other _ hs hd hb (h.imp_right (And.intro (by decide))))
    case notClaim => exact next_of (State.barodIn_other _ hs hd hb (h.imp_right (And.intro (by decide))))
    case notReply => exact next_of (State.barodIn_other _ hs hd hb (h.imp_right (And.intro (by decide))))
  case acts =>
    intro s x w p f m hs hd hb hm hx hw
    have acts := fun act type ht hl => State.barodIn_acts (type := type) act hs hd hb ht hl hm hx hw
    exact ⟨fun ht => next_of (acts _ 1 ht (.inl rfl)), fun ht hl => next_of (acts _ 2 ht (.inr hl)), fun ht hl => next_of (acts _ 3 ht (.inr hl)),
      fun ht hl => next_of (acts _ 4 ht (.inr hl))⟩
  case timers =>
    exact fun s p => ⟨fun h => ⟨next_of (State.sendHello_not h), next_of (State.sendKeepalive_not h)⟩, fun h => next_of (State.sendKeepalive_unestablished h),
      fun b w hs hd hl hb hw => next_of (State.sendHello_sends hs hd hl hb hw), fun l hs hd hl h he => next_of (State.sendKeepalive_sends hs hd hl h he),
      fun l h => ⟨fun he hq => next_of (State.stackSilent_falls h he hq), fun hq => next_of (State.stackSilent_stays h hq)⟩⟩
  case hello => exact fun s p m b v l hv hl => ⟨State.helloIn_refused hv hl, fun w => State.helloIn_accepted hv hl⟩
  case claimIn => exact fun s p m b => ⟨State.claimIn_hasMaster, State.claimIn_otherMaster, State.claimIn_low, State.claimIn_accepted⟩
  case reply =>
    exact fun s m b => ⟨fun h => State.claimReplyIn_none h m b, fun c h => ⟨fun ha => (State.claimReplyIn_some h m b).trans (if_pos ha),
      fun ha => (State.claimReplyIn_some h m b).trans (if_neg ha)⟩⟩
  case noClaim => exact fun s h => ⟨State.claimWon_none h, next_of (State.claimLimit_none h)⟩
  case claim =>
    exact fun s c h => ⟨fun hq => (State.claimWon_some h).trans (if_pos hq), fun hq => (State.claimWon_some h).trans (if_neg (Bool.eq_false_iff.mp hq)),
      fun ht => next_of ((State.claimLimit_some h).trans (if_pos ht)), fun ht => next_of ((State.claimLimit_some h).trans (if_neg (Nat.not_lt.mpr ht)))⟩
  case wait =>
    exact fun s n due hd => ⟨fun h => next_of (State.stackClaim_waits hd h), fun w h ht hn hw => next_of (State.stackClaim_claims hd h ht hn hw)⟩
  case drift =>
    refine fun s => ⟨fun h => next_settled (State.timeCurtain_not h), fun t hd => ⟨fun ht => ?early, fun ht hm hs => ?due⟩⟩
    case early => exact next_settled ((State.timeCurtain_some hd).trans (if_neg (by simp [ht])))
    case due => exact next_settled ((State.timeCurtain_some hd).trans (if_pos (by rw [decide_eq_true ht, bne_iff_ne.mpr hm, hs]; rfl)))

end Sys2Proof.Machine
end
